-- ==== Sys2Proof/Word.lean ====
section
/-!
DEFINITION. The word types of the OZG-4192 (spec/00_scope.md, "Data and numbers"): bytes, 16-, 32- and 64-bit words,
the 40-bit accumulator of a Phimar core (R174) and its 1,280-bit vector register (R214).
-/

namespace Sys2Proof

/-- One byte. -/
abbrev Byte := BitVec 8
/-- A halfword. -/
abbrev Half := BitVec 16
/-- A 32-bit register or scalar word. -/
abbrev Word := BitVec 32
/-- A 64-bit register. -/
abbrev DWord := BitVec 64
/-- A 40-bit accumulator (R174). -/
abbrev Acc := BitVec 40
/-- A 1,280-bit vector register (R214). -/
abbrev VReg := BitVec 1280

end Sys2Proof
end

