-- ==== Sys2Proof/Syntax.lean ====
section
/-!
DEFINITION. The commands of the OZG-4192: one constructor per row of spec/opcode_table.json, in the table's order, with the
row's operands. Where a row is an event of the outside world, its operands are the facts that the outside world supplies
(a received value, a measurement, the instant dt in ps into the present always-on cycle).
-/

namespace Sys2Proof

/-- A scalar or vector register number. -/
abbrev Reg := BitVec 5

/-- What every scalar and load/store syllable carries besides its operands (R177): the tile that issues it, the E bit,
whether it goes to SB rather than SA (ignored by LS syllables), and the SAT bit. -/
structure Sy where
  tile : Fin 288
  e : Bool
  sb : Bool
  sat : Bool
deriving DecidableEq, Repr

/-- What every vector syllable carries (R222, R231): the tile, the E bit, SAT, the governing mask and TYPE. -/
structure Vy where
  tile : Fin 288
  e : Bool
  sat : Bool
  m : BitVec 4
  type : BitVec 3
deriving DecidableEq, Repr

/-- Kinds of PTP message (R76, R80, R82), with the request for and the cancelling of unicast service (R81). -/
inductive PtpKind where
  | sync | followUp | delayReq | delayResp | pdelayReq | pdelayResp | announce | unicastRequest | unicastCancel
deriving DecidableEq, Repr

/-- A received PTP message: dt is the instant of its message timestamp point at the lane ball, origin the originTimestamp,
preciseOriginTimestamp or receiveTimestamp it carries (ps), corr its correctionField (2^-16 ns), annPs the announce interval (ps), client the port identity that sent it. -/
structure PtpMsg where
  kind : PtpKind
  wellFormed : Bool
  stampValid : Bool
  twoStep : Bool
  domain : BitVec 8
  dt : Nat
  origin : Int
  corr : Int
  clockClass : BitVec 8
  annPs : Nat
  client : Nat
deriving DecidableEq, Repr

/-- The memories of chapter 7: host memory, a quadrant's DRAM, a cluster's CSM, a physical tile's scratchpad and instruction
memory, and the non-volatile store. -/
inductive MemUnit where
  | host
  | dram (q : Fin 4)
  | csm (k : Fin 32)
  | scratch (p : Fin 288)
  | imem (p : Fin 288)
  | nvs
deriving DecidableEq, Repr

/-- A symbol of a codeword in error (R253): 0 to 35 a stored symbol, 36 to 40 an address symbol; and the error value. -/
structure SymErr where
  sym : Fin 41
  val : Byte
deriving DecidableEq, Repr

/-- A unit of computation that passed a check-value unit (R287, R288): its data, the device address of its first byte, and
the port index and sequence that its source carries. -/
structure CvuUnit where
  data : List Byte
  addr : DWord
  port : Nat
  seq : Nat
deriving DecidableEq, Repr

/-- A received 66-bit block (R391): its sync header and payload, and whether it belongs to an uncorrectable codeword (R397). -/
structure OrlBlock where
  hdr : BitVec 2
  payload : DWord
  unc : Bool
deriving DecidableEq, Repr

/-- A run of data blocks between two control blocks as a lane received it (R397): the instant of its first bit at the ball, its blocks, and the symbols in error, by place and value, of each FEC codeword
that ended since the last run (R399). A run without blocks brings codewords alone. -/
structure OrlFrame where
  dt : Nat
  blocks : List OrlBlock
  errs : List (List (Nat × BitVec 10))
deriving DecidableEq, Repr

/-- Whose write to host memory a GO is for (R272): a DMA channel's, or that of a ring's record. -/
inductive HostWriter where
  | channel (k : Fin 32) (ch : Fin 10)
  | ring (r : Fin 256)
deriving DecidableEq, Repr

/-- A received marker block (R401, R402): its 64 payload bits, how many blocks after the first of its marker it came, and whether it is errored. -/
structure MarkBlock where
  payload : DWord
  after : Nat
  errored : Bool
deriving DecidableEq, Repr

/-- A request object of a DOE mailbox (R434): discovery of an index, a CDAT table access, an SPDM message, plain or secured, or an object of
another protocol. -/
inductive DoeReq where
  | discovery (index : Nat)
  | cdat
  | spdm (secured : Bool) (bytes : List Byte)
  | other
deriving DecidableEq, Repr

/-- An upset in the control state of a scrubber (R466): the copy of the three, the word of it (0 position, 1 pass count, 2 configuration, 3 repair in progress) and the bits that flip. -/
structure ScrHit where
  copy : Fin 3
  word : Fin 4
  mask : Nat
deriving DecidableEq, Repr

/-- What a read of the non-volatile store met (R542): codewords corrected, and the byte offset, in the object read, of the first uncorrectable one. -/
structure NvsRead where
  corr : Nat
  bad : Option Nat
deriving DecidableEq, Repr

/-- A request to the SPDM responder (R536): a certificate names a slot with an offset and a length, a measurement its index. -/
inductive SpdmReq where
  | version | capabilities | algorithms | digests
  | certificate (slot ofs len : Nat)
  | challenge (slot : Nat)
  | measurement (index : Nat)
  | keyExchange (slot : Nat)
  | finish | keyUpdate | endSession | chunk | other
deriving DecidableEq, Repr

/-- A configuration request (R429, R430, R432, R435, R436, R441, R495): a read of the identity, the subsystem identity, a BAR register, the CXL DVSEC's Memory_Active, the register
locator or a pointer of the MSI-X capability, or a write of a BAR register or of a capability's bits. -/
inductive CfgReq where
  | readId | readSub | readBar (n : Nat) | readMemActive | readLocator | readMsixTable | readMsixPba
  | writeBar (n : Nat) (v : Word)
  | ideMode (skid : Bool)
  | msix (enable mask : Bool)
  | ptm (enable : Bool)
  | bi (enable : Bool)
  | cache (enable : Bool)
  | mem (enable : Bool)
  | other
deriving DecidableEq, Repr

/-- What happens in a reinitialisation (R506): the watchdog expires, the admission state is found bad, or the rebuild ends, with the physical tiles, engines and banks that
fail their tests. -/
inductive ReinitEv where
  | watchdog
  | admission
  | done (tiles : List (Fin 288)) (engines : List (Fin 32 × Fin 6)) (banks : List (Fin 32 × Fin 32))
deriving DecidableEq, Repr

/-- The steps of a hand-over (R511): the write of GO with an image (false A), the end of its verification, and a core's change with the microseconds it held its services. -/
inductive FwStep where
  | go (image : Bool)
  | verified (r : NvsRead)
  | core (holdUs : Nat)
deriving DecidableEq, Repr


/-- The commands: one constructor per row of the opcode table. -/
inductive Instr where
  /-- CT_ADVANCE (R50). -/
  | ctAdvance
  /-- SCHEDULING_TICK (R61). -/
  | schedulingTick
  /-- QUADRANT_SLOT_BOUNDARY (R62). -/
  | quadrantSlotBoundary (q : Fin 4)
  /-- CARRIER_SLOT_BOUNDARY (R71). -/
  | carrierSlotBoundary (ci : Fin 512)
  /-- CT_LOAD (R53). -/
  | ctLoad
  /-- SERVO_LOCK (R54). -/
  | servoLock (dom : Fin 2) (offsetPs : Int)
  /-- REFERENCE_LOST (R55). -/
  | referenceLost (fInt fRef : Nat)
  /-- REFERENCE_GOOD (R56). -/
  | referenceGood
  /-- SNAP_TAKE (R48). -/
  | snapTake
  /-- PHASE_REQ (R75). -/
  | phaseReq (v : DWord)
  /-- DOMAIN_SWITCH (R77). -/
  | domainSwitch (dom : Fin 2)
  /-- SERVO_LOST (R76). -/
  | servoLost (dom : Fin 2)
  /-- HOLDOVER_LIMIT_EXPIRY (R78). -/
  | holdoverLimitExpiry
  /-- PTP_FRAME_RECEIVE (R76). -/
  | ptpFrameReceive (lane : Fin 64) (m : PtpMsg)
  /-- SYNC_SEND (R80). -/
  | syncSend (lane : Fin 64) (dt : Nat)
  /-- ANNOUNCE_SEND (R80). -/
  | announceSend (lane : Fin 64)
  /-- DELAY_REQ_ANSWER (R80). -/
  | delayReqAnswer (lane : Fin 64)
  /-- PPS_OUT_EDGE (R84). -/
  | ppsOutEdge
  /-- PPS_OUT_FALL (R84). -/
  | ppsOutFall
  /-- PPS_IN_EDGE (R85). -/
  | ppsInEdge (dt : Nat) (rising : Bool)
  /-- PTM_DIALOGUE (R87). -/
  | ptmDialogue (hostTime : DWord) (dt : Nat)
  /-- LANE_CALIBRATION_END (R66). -/
  | laneCalibrationEnd (lane : Fin 64)
  /-- EVENT_PIN_EDGE (R94). -/
  | eventPinEdge (pin : Fin 16) (dt : Nat) (rising : Bool)
  /-- COALESCE_INTERVAL_END (R93). -/
  | coalesceIntervalEnd (pin : Fin 17)
  /-- PIN_HELD (R95). -/
  | pinHeld (pin : Fin 16)
  /-- PIN_REARM (R95). -/
  | pinRearm (pin : Fin 16)
  /-- EVT_FIFO_POP (R96). -/
  | evtFifoPop
  /-- EVT_FIFO_CLR_LOST (R96). -/
  | evtFifoClrLost
  /-- EVT_OVR_CLR (R93). -/
  | evtOvrClr (pin : Fin 17)
  /-- PTP_DROP_CLR (R90). -/
  | ptpDropClr
  /-- CI_OFS_WRITE (R72). -/
  | ciOfsWrite (ci : Fin 512) (v : DWord)
  /-- REGISTER_WRITE (R10). -/
  | registerWrite (addr : BitVec 27) (data : DWord) (be : BitVec 8)
  /-- CMD_TAIL_WRITE (R133). -/
  | cmdTailWrite (r : Fin 256) (v : Word) (be : BitVec 4) (dt : Nat)
  /-- CQ_HEAD_WRITE (R133). -/
  | cqHeadWrite (r : Fin 256) (v : Word) (be : BitVec 4)
  /-- COMMAND_FETCH (R566). -/
  | commandFetch (r : Fin 256) (dt : Nat)
  /-- RING_DISABLE (R139). -/
  | ringDisable (r : Fin 256)
  /-- RING_DRAIN_END (R139). -/
  | ringDrainEnd (r : Fin 256)
  /-- RING_ENABLE (R139). -/
  | ringEnable (r : Fin 256)
  /-- NOP (R140). -/
  | nop (r : Fin 256)
  /-- JOB_OPEN (R142). -/
  | jobOpen (r : Fin 256)
  /-- TASK (R143). -/
  | task (r : Fin 256)
  /-- EDGE (R143). -/
  | edge (r : Fin 256)
  /-- AT (R143). -/
  | atTime (r : Fin 256)
  /-- EVERY (R161). -/
  | every (r : Fin 256)
  /-- JOB_CLOSE (R142). -/
  | jobClose (r : Fin 256)
  /-- CANCEL (R163). -/
  | cancel (r : Fin 256)
  /-- FENCE (R125). -/
  | fence (r : Fin 256)
  /-- SIGNAL (R162). -/
  | signal (r : Fin 256)
  /-- SIGNAL_RECORD (R162). -/
  | signalRecord (r : Fin 256) (dt : Nat)
  /-- PLAN_SET (R106). -/
  | planSet (r : Fin 256)
  /-- PLAN_DECISION (R107). -/
  | planDecision (r : Fin 256) (dt : Nat)
  /-- PLAN_DROP (R109). -/
  | planDrop (r : Fin 256) (dt : Nat)
  /-- PROGRAM_LOAD (R164). -/
  | programLoad (r : Fin 256)
  /-- PROGRAM_LOAD_COPY_DONE (R137). -/
  | programLoadCopyDone (r : Fin 256) (dt : Nat)
  /-- PROGRAM_SWAP (R166). -/
  | programSwap (r : Fin 256) (dt : Nat)
  /-- RETIRING_VERSION_FREED (R166). -/
  | retiringVersionFreed (k : Fin 32) (t : Fin 8) (prog : BitVec 12)
  /-- JOB_DECISION (R117). -/
  | jobDecision (r : Fin 256) (dt : Nat)
  /-- NODE_RELEASE (R153). -/
  | nodeRelease (node : BitVec 23)
  /-- NODE_FETCH (R159). -/
  | nodeFetch (node : BitVec 23)
  /-- INPUT_ARRIVAL (R154). -/
  | inputArrival (node : BitVec 23) (dt : Nat)
  /-- TASK_START (R155). -/
  | taskStart (k : Fin 32) (res : Fin 14) (dt : Nat)
  /-- DEPENDENCE_NOTICE (R158). -/
  | dependenceNotice (node : BitVec 23) (dt : Nat)
  /-- RECORD_WRITE (R158). -/
  | recordWrite (node : BitVec 23) (dt : Nat)
  /-- WAKE_REQUEST (R160). -/
  | wakeRequest (k : Fin 32)
  /-- EVERY_FIRING (R161). -/
  | everyFiring (r : Fin 256) (item : Fin 16) (dt : Nat)
  /-- WINDOW_CLOSE_HOST_WAIT (R103). -/
  | windowCloseHostWait (node : BitVec 23) (dt : Nat)
  /-- HOST_LINK_RETRAIN (R28). -/
  | hostLinkRetrain (rate : Fin 7) (width : BitVec 2) (wide lat behindSwitch : Bool)
  /-- ADM_CNT_CLR (R99). -/
  | admCntClr (q : Fin 4)
  /-- NOP_SYLLABLE (R180). -/
  | nopSyllable (y : Sy)
  /-- ADD (R180). -/
  | add (y : Sy) (rd ra rb : Reg)
  /-- SUB (R180). -/
  | sub (y : Sy) (rd ra rb : Reg)
  /-- ADDI (R180). -/
  | addi (y : Sy) (rd ra : Reg) (imm : BitVec 12)
  /-- AND (R180). -/
  | and (y : Sy) (rd ra rb : Reg)
  /-- OR (R180). -/
  | or (y : Sy) (rd ra rb : Reg)
  /-- XOR (R180). -/
  | xor (y : Sy) (rd ra rb : Reg)
  /-- ORI (R180). -/
  | ori (y : Sy) (rd ra : Reg) (imm : BitVec 12)
  /-- SHL (R180). -/
  | shl (y : Sy) (rd ra rb : Reg)
  /-- SHR (R180). -/
  | shr (y : Sy) (rd ra rb : Reg)
  /-- SRA (R180). -/
  | sra (y : Sy) (rd ra rb : Reg)
  /-- SHLI (R180). -/
  | shli (y : Sy) (rd ra : Reg) (imm : BitVec 12)
  /-- SHRI (R180). -/
  | shri (y : Sy) (rd ra : Reg) (imm : BitVec 12)
  /-- SRAI (R180). -/
  | srai (y : Sy) (rd ra : Reg) (imm : BitVec 12)
  /-- MIN (R180). -/
  | min (y : Sy) (rd ra rb : Reg)
  /-- MAX (R180). -/
  | max (y : Sy) (rd ra rb : Reg)
  /-- ABS (R180). -/
  | abs (y : Sy) (rd ra : Reg)
  /-- SLT (R180). -/
  | slt (y : Sy) (rd ra rb : Reg)
  /-- SLTU (R180). -/
  | sltu (y : Sy) (rd ra rb : Reg)
  /-- SEQ (R180). -/
  | seq (y : Sy) (rd ra rb : Reg)
  /-- MOVHI (R180). -/
  | movhi (y : Sy) (rd : Reg) (imm : BitVec 16)
  /-- ORLO (R180). -/
  | orlo (y : Sy) (rd : Reg) (imm : BitVec 16)
  /-- EXP (R180). -/
  | exp (y : Sy) (rd ra : Reg)
  /-- NORM (R180). -/
  | norm (y : Sy) (rd ra : Reg)
  /-- MUL (R180). -/
  | mul (y : Sy) (rd ra rb : Reg)
  /-- MULH (R180). -/
  | mulh (y : Sy) (rd ra rb : Reg)
  /-- MACL (R182). -/
  | macl (y : Sy) (ad : BitVec 2) (ra rb : Reg)
  /-- MACH (R182). -/
  | mach (y : Sy) (ad : BitVec 2) (ra rb : Reg)
  /-- MSUL (R182). -/
  | msul (y : Sy) (ad : BitVec 2) (ra rb : Reg)
  /-- MOVA (R182). -/
  | mova (y : Sy) (ad : BitVec 2) (ra : Reg)
  /-- EXTA (R183). -/
  | exta (y : Sy) (rd : Reg) (ad : BitVec 2) (rb : Reg)
  /-- EXPA (R180). -/
  | expa (y : Sy) (rd : Reg) (ad : BitVec 2)
  /-- BEQZ (R190). -/
  | beqz (y : Sy) (ra : Reg) (off : BitVec 17)
  /-- BNEZ (R190). -/
  | bnez (y : Sy) (ra : Reg) (off : BitVec 17)
  /-- BLTZ (R190). -/
  | bltz (y : Sy) (ra : Reg) (off : BitVec 17)
  /-- BGEZ (R190). -/
  | bgez (y : Sy) (ra : Reg) (off : BitVec 17)
  /-- BGTZ (R190). -/
  | bgtz (y : Sy) (ra : Reg) (off : BitVec 17)
  /-- BLEZ (R190). -/
  | blez (y : Sy) (ra : Reg) (off : BitVec 17)
  /-- BR (R190). -/
  | br (y : Sy) (off : BitVec 17)
  /-- CALL (R190). -/
  | call (y : Sy) (off : BitVec 17)
  /-- JR (R190). -/
  | jr (y : Sy) (ra : Reg)
  /-- REP (R192). -/
  | rep (y : Sy) (ra : Reg)
  /-- REPI (R192). -/
  | repi (y : Sy) (count : BitVec 11)
  /-- LOOP (R193). -/
  | loop (y : Sy) (ra : Reg) (rot : Bool) (endW : BitVec 16)
  /-- LOOPI (R193). -/
  | loopi (y : Sy) (count : BitVec 11) (rot : Bool) (endW : BitVec 10)
  /-- ROTB (R196). -/
  | rotb (y : Sy) (n : BitVec 4)
  /-- MFC (R175). -/
  | mfc (y : Sy) (rd : Reg) (creg : BitVec 12)
  /-- MTC (R175). -/
  | mtc (y : Sy) (creg : BitVec 12) (ra : Reg)
  /-- TASK_END (R209). -/
  | taskEnd (y : Sy)
  /-- RETI (R203). -/
  | reti (y : Sy)
  /-- WFE (R198). -/
  | wfe (y : Sy) (mask : BitVec 3)
  /-- LDW (R185). -/
  | ldw (y : Sy) (rd ra : Reg) (imm : BitVec 12)
  /-- LDH (R185). -/
  | ldh (y : Sy) (rd ra : Reg) (imm : BitVec 12)
  /-- LDHU (R185). -/
  | ldhu (y : Sy) (rd ra : Reg) (imm : BitVec 12)
  /-- LDB (R185). -/
  | ldb (y : Sy) (rd ra : Reg) (imm : BitVec 12)
  /-- LDBU (R185). -/
  | ldbu (y : Sy) (rd ra : Reg) (imm : BitVec 12)
  /-- STW (R185). -/
  | stw (y : Sy) (rd ra : Reg) (imm : BitVec 12)
  /-- STH (R185). -/
  | sth (y : Sy) (rd ra : Reg) (imm : BitVec 12)
  /-- STB (R185). -/
  | stb (y : Sy) (rd ra : Reg) (imm : BitVec 12)
  /-- LDW_POSTINC (R185). -/
  | ldwPostinc (y : Sy) (rd ra : Reg) (imm : BitVec 12)
  /-- STW_POSTINC (R185). -/
  | stwPostinc (y : Sy) (rd ra : Reg) (imm : BitVec 12)
  /-- FENCE_SYLLABLE (R267). -/
  | fenceSyllable (y : Sy) (scope kind : BitVec 2)
  /-- VNOP (R224). -/
  | vnop (y : Vy)
  /-- VSETL (R217). -/
  | vsetl (y : Vy) (sd sa : Reg)
  /-- VADD (R224). -/
  | vadd (y : Vy) (vd va vb : Reg)
  /-- VSUB (R224). -/
  | vsub (y : Vy) (vd va vb : Reg)
  /-- VMIN (R224). -/
  | vmin (y : Vy) (vd va vb : Reg)
  /-- VMAX (R224). -/
  | vmax (y : Vy) (vd va vb : Reg)
  /-- VABS (R224). -/
  | vabs (y : Vy) (vd va : Reg)
  /-- VNEG (R224). -/
  | vneg (y : Vy) (vd va : Reg)
  /-- VCONJ (R224). -/
  | vconj (y : Vy) (vd va : Reg)
  /-- VSHL (R224). -/
  | vshl (y : Vy) (vd va rb : Reg)
  /-- VSRA (R224). -/
  | vsra (y : Vy) (vd va rb : Reg)
  /-- VSRAR (R224). -/
  | vsrar (y : Vy) (vd va rb : Reg)
  /-- VSPLAT (R224). -/
  | vsplat (y : Vy) (vd ra rb : Reg)
  /-- VGET (R224). -/
  | vget (y : Vy) (sd va rb : Reg)
  /-- VMOV (R224). -/
  | vmov (y : Vy) (vd va : Reg)
  /-- VMULQ (R224). -/
  | vmulq (y : Vy) (vd va vb : Reg)
  /-- VCMULQ (R224). -/
  | vcmulq (y : Vy) (vd va vb : Reg)
  /-- VCMULJQ (R224). -/
  | vcmuljq (y : Vy) (vd va vb : Reg)
  /-- VMAC (R226). -/
  | vmac (y : Vy) (vad : BitVec 2) (va vb : Reg)
  /-- VMSUB (R226). -/
  | vmsub (y : Vy) (vad : BitVec 2) (va vb : Reg)
  /-- VCMAC (R226). -/
  | vcmac (y : Vy) (vad : BitVec 2) (va vb : Reg)
  /-- VCMACJ (R226). -/
  | vcmacj (y : Vy) (vad : BitVec 2) (va vb : Reg)
  /-- VMOVA (R226). -/
  | vmova (y : Vy) (vad : BitVec 2) (h : Bool) (va : Reg)
  /-- VEXTA (R226). -/
  | vexta (y : Vy) (vd : Reg) (vas : BitVec 2) (h : Bool) (rb : Reg)
  /-- VCLRA (R224). -/
  | vclra (y : Vy) (set : BitVec 4)
  /-- VTPERM (R229). -/
  | vtperm (y : Vy) (vd vi vt : Reg)
  /-- VTPERM2 (R229). -/
  | vtperm2 (y : Vy) (vd vi vt : Reg)
  /-- VWIDEN (R228). -/
  | vwiden (y : Vy) (vd va : Reg) (h : Bool)
  /-- VNARROW (R228). -/
  | vnarrow (y : Vy) (vd va : Reg) (h : Bool)
  /-- VBEXP (R238). -/
  | vbexp (y : Vy) (vd va : Reg) (rs : Reg) (h : Bool)
  /-- VNORMB (R239). -/
  | vnormb (y : Vy) (vd va vb : Reg) (rs : Reg) (h : Bool)
  /-- VPACK10 (R239). -/
  | vpack10 (y : Vy) (vd va vb : Reg) (rs : Reg) (h : Bool)
  /-- VUNPACK10 (R239). -/
  | vunpack10 (y : Vy) (vd va vb : Reg) (rs : Reg) (h : Bool)
  /-- VCMPEQ (R224). -/
  | vcmpeq (y : Vy) (md : BitVec 4) (va vb : Reg)
  /-- VCMPLT (R224). -/
  | vcmplt (y : Vy) (md : BitVec 4) (va vb : Reg)
  /-- VCMPLE (R224). -/
  | vcmple (y : Vy) (md : BitVec 4) (va vb : Reg)
  /-- VMAND (R224). -/
  | vmand (y : Vy) (md ma mb : BitVec 4)
  /-- VMOR (R224). -/
  | vmor (y : Vy) (md ma mb : BitVec 4)
  /-- VMXOR (R224). -/
  | vmxor (y : Vy) (md ma mb : BitVec 4)
  /-- VMANDN (R224). -/
  | vmandn (y : Vy) (md ma mb : BitVec 4)
  /-- VMSETN (R224). -/
  | vmsetn (y : Vy) (md : BitVec 4) (ra : Reg)
  /-- VMTOV (R224). -/
  | vmtov (y : Vy) (vd : Reg) (ma : BitVec 4)
  /-- VMCNT (R224). -/
  | vmcnt (y : Vy) (sd : Reg) (ma : BitVec 4)
  /-- VLD (R231). -/
  | vld (y : Vy) (vd ra : Reg) (pi : Bool)
  /-- VST (R231). -/
  | vst (y : Vy) (vd ra : Reg) (pi : Bool)
  /-- VLDX (R231). -/
  | vldx (y : Vy) (vd ra : Reg) (pi : Bool)
  /-- VSTX (R231). -/
  | vstx (y : Vy) (vd ra : Reg) (pi : Bool)
  /-- INTERRUPT_ENTRY (R201). -/
  | interruptEntry (p : Fin 288)
  /-- EXCEPTION_ENTRY (R206). -/
  | exceptionEntry (p : Fin 288)
  /-- TIMER_COMPARE (R197). -/
  | timerCompare (p : Fin 288)
  /-- TIL_MBOX_WRITE (R197). -/
  | tilMboxWrite (p : Fin 288) (v : Word)
  /-- BUDGET_EXHAUSTED (R210). -/
  | budgetExhausted (p : Fin 288)
  /-- DMA_START (R279). -/
  | dmaStart (k : Fin 32) (ch : Fin 10)
  /-- DMA_RESUME (R281). -/
  | dmaResume (k : Fin 32) (ch : Fin 10)
  /-- DMA_ABORT (R281). -/
  | dmaAbort (k : Fin 32) (ch : Fin 10)
  /-- DESCRIPTOR_COMPLETE (R286). -/
  | descriptorComplete (k : Fin 32) (ch : Fin 10)
  /-- HOST_CHANNEL_SUSPEND (R285). -/
  | hostChannelSuspend (k : Fin 32)
  /-- HOST_CHANNEL_RESUME (R285). -/
  | hostChannelResume (k : Fin 32)
  /-- PATROL_SCRUB (R258). -/
  | patrolScrub (m : MemUnit) (granule : Nat) (errs : List SymErr)
  /-- SPARE_REQ (R260). -/
  | spareReq (q : Fin 4)
  /-- ROW_SPARE_COPY_DONE (R260). -/
  | rowSpareCopyDone (q : Fin 4)
  /-- HDM_ACCESS (R274). -/
  | hdmAccess (q : Fin 4) (ofs : Nat) (write : Option (List Byte)) (len : Nat) (own : Bool)
  /-- BACK_INVALIDATE_RESPONSE (R274). -/
  | backInvalidateResponse (q : Fin 4) (line : Nat)
  /-- H2D_SNOOP (R272). -/
  | h2dSnoop (line : Nat)
  /-- HOST_WRITE_GO (R272). -/
  | hostWriteGo (w : HostWriter)
  /-- HOST_READ_RETURN (R273). -/
  | hostReadReturn (k : Fin 32) (ch : Fin 10)
  /-- CVU_UNIT_RESULT (R289). -/
  | cvuUnitResult (k : Fin 32) (u : Fin 4) (d : CvuUnit)
  /-- CVU_POP (R289). -/
  | cvuPop (k : Fin 32) (u : Fin 4)
  /-- ENGINE_OPERATION_END (R113). -/
  | engineOperationEnd (k : Fin 32) (res : Fin 6) (dt : Nat)
  /-- RING_TRANSFER_RECEIVE (R36). -/
  | ringTransferReceive (node : BitVec 23) (good : Bool)
  /-- RING_LINK_RETRAIN (R36). -/
  | ringLinkRetrain (q : Fin 4) (k : Fin 2) (ok : Bool) (dt : Nat)
  /-- COUPLED_PLAN_DROP (R35). -/
  | coupledPlanDrop (ci : Fin 512)
  /-- GROUP_FETCH (R300). -/
  | groupFetch (port : Fin 192) (g : Nat)
  /-- FRAME_TRANSMIT (R396). -/
  | frameTransmit (lane : Fin 64) (g : Nat)
  /-- FRAME_RECEIVE (R397). -/
  | frameReceive (lane : Fin 64) (f : OrlFrame)
  /-- GROUP_MISSING (R298). -/
  | groupMissing (port : Fin 192) (g : Nat)
  /-- PFE_CONTEXT_ENABLE (R315). -/
  | pfeContextEnable (q : Fin 4) (n : Fin 32)
  /-- PRACH_OCCASION (R316). -/
  | prachOccasion (q : Fin 4) (n : Fin 32) (occ : Fin 8) (j : Nat)
  /-- RAMP (R406). -/
  | ramp (g : Fin 16) (up : Bool) (t : Int)
  /-- TDD_PIN_EDGE (R332). -/
  | tddPinEdge (g : Fin 16) (active : Bool) (dt : Nat)
  /-- TDD_SHADOW_APPLY (R333). -/
  | tddShadowApply (g : Fin 16)
  /-- OBS_REQ (R407). -/
  | obsReq (port : Fin 192) (slot : Nat)
  /-- OBS (R407). -/
  | obs (lane : Fin 64) (hdr : DWord) (blocks : List OrlBlock)
  /-- CAPTURE_DEADLINE (R407). -/
  | captureDeadline (port : Fin 192)
  /-- EVM_MEASUREMENT (R335). -/
  | evmMeasurement (port : Fin 192)
  /-- LANE_ENABLE (R420). -/
  | laneEnable (lane : Fin 64)
  /-- LANE_DISABLE (R419). -/
  | laneDisable (lane : Fin 64)
  /-- BLOCK_LOCK (R420). -/
  | blockLock (lane : Fin 64)
  /-- FEC_LOCK (R399). -/
  | fecLock (lane : Fin 64) (skew : Nat)
  /-- LANE_UP (R420). -/
  | laneUp (lane : Fin 64) (margin : Byte)
  /-- LANE_BRINGUP_TIMEOUT (R420). -/
  | laneBringupTimeout (lane : Fin 64)
  /-- LANE_DOWN (R421). -/
  | laneDown (lane : Fin 64) (cause : Fin 4)
  /-- SWITCH (R423). -/
  | switch (lane : Fin 64)
  /-- MARKER_SEND (R400). -/
  | markerSend (lane : Fin 64) (dt : Nat)
  /-- MARKER_RECEIVE (R402). -/
  | markerReceive (lane : Fin 64) (dt : Nat) (mks : List MarkBlock)
  /-- CTL (R404). -/
  | ctl (lane : Fin 64) (payload : DWord)
  /-- PROFILE (R405). -/
  | profile (lane : Fin 64) (k : Fin 8)
  /-- ETHERNET_FRAME_RECEIVE (R409). -/
  | ethernetFrameReceive (lane : Fin 64) (dt : Nat) (bytes : List Byte) (fcsOk stampOk : Bool)
  /-- U_PLANE_RECEIVE (R410). -/
  | uPlaneReceive (lane : Fin 64) (dt : Nat) (bytes : List Byte)
  /-- U_PLANE_SEND (R410). -/
  | uPlaneSend (port : Fin 192) (slot : Nat) (sym : Fin 14)
  /-- C_PLANE_SEND (R412). -/
  | cPlaneSend (port : Fin 192) (slot : Nat) (sym : Fin 14)
  /-- ONE_WAY_DELAY_REQUEST (R413). -/
  | oneWayDelayRequest (lane : Fin 64) (dt : Nat) (bytes : List Byte)
  /-- FORWARDED_FRAME_EGRESS (R414). -/
  | forwardedFrameEgress (lane : Fin 64) (dt : Nat)
  /-- MQ_SEND (R404). -/
  | mqSend (lane : Fin 64)
  /-- MQ_RX_POP (R409). -/
  | mqRxPop (lane : Fin 64)
  /-- MQ_TX_DATA (R404). -/
  | mqTxData (lane : Fin 64) (v : Word)
  /-- LAN_CNT_CLR (R421). -/
  | lanCntClr (lane : Fin 64)
  /-- PARTITION_BLOCK_TRANSMIT (R449). -/
  | partitionBlockTransmit (p : Fin 16) (lane : Fin 64) (hdr : BitVec 2) (payload : DWord) (stamp : Bool) (dt : Nat)
  /-- PARTITION_BLOCK_RECEIVE (R449). -/
  | partitionBlockReceive (lane : Fin 64) (hdr : BitVec 2) (payload : DWord) (dt : Nat)
  /-- LINK_RECOVERY (R427). -/
  | linkRecovery (ps : Nat)
  /-- FUNCTION_RESET (R428). -/
  | functionReset
  /-- BAR_READ (R431). -/
  | barRead (bar2 : Bool) (addr : BitVec 27) (len : Nat)
  /-- HDM_DECODER_COMMIT (R432). -/
  | hdmDecoderCommit (q : Fin 4) (commit : Bool) (base : BitVec 64) (size ways : Nat)
  /-- DOE_REQUEST (R434). -/
  | doeRequest (inst : Fin 3) (o : DoeReq) (len : Nat)
  /-- DOE_ABORT (R434). -/
  | doeAbort (inst : Fin 3)
  /-- CXL_CNT_CLR (R428). -/
  | cxlCntClr
  /-- IDE_INTEGRITY_FAILURE (R435). -/
  | ideIntegrityFailure (io : Bool)
  /-- INTERRUPT_MESSAGE (R441). -/
  | interruptMessage (src : Fin 1024) (dt : Nat)
  /-- INT_ACK (R440). -/
  | intAck (src : Fin 1024)
  /-- SOURCE_STUCK (R443). -/
  | sourceStuck (src : Fin 1024) (dt : Nat)
  /-- SOURCE_UNSTUCK (R443). -/
  | sourceUnstuck (src : Fin 1024)
  /-- INT_SRC_CFG_WRITE (R443). -/
  | intSrcCfgWrite (src : Fin 1024) (v : Word)
  /-- CLR_CNT (R442). -/
  | clrCnt
  /-- PARTITION_LOAD_GO (R459). -/
  | partitionLoadGo (p : Fin 18)
  /-- LOAD_READY (R459). -/
  | loadReady (p : Fin 18) (r : NvsRead) (verify : Option Nat)
  /-- PARTITION_LOAD_ABORT (R460). -/
  | partitionLoadAbort (p : Fin 18)
  /-- RESTART (R462). -/
  | restart (p : Fin 18)
  /-- POWER_UP_LOAD (R457). -/
  | powerUpLoad (p : Fin 18) (r : NvsRead) (verify : Option Nat)
  /-- PHX_LANES_WRITE (R448). -/
  | phxLanesWrite (p : Fin 16) (att : BitVec 16)
  /-- PHX_BW_WRITE (R450). -/
  | phxBwWrite (p : Fin 16) (shares : BitVec 4)
  /-- PARTITION_DRAM_ACCESS (R450). -/
  | partitionDramAccess (p : Fin 16) (dpa : Nat) (write : Option (List Byte)) (len : Nat)
  /-- PARTITION_MAILBOX_WRITE (R451). -/
  | partitionMailboxWrite (p : Fin 16) (ofs : BitVec 24) (v : Word)
  /-- PARTITION_FENCE (R451). -/
  | partitionFence (p : Fin 16)
  /-- PX_REGISTER_ACCESS (R452). -/
  | pxRegisterAccess (p : Fin 2) (addr : BitVec 27) (write : Option Word)
  /-- SCRUB_FRAME (R463). -/
  | scrubFrame (z : Fin 5) (errs : List (Fin 16 × SymErr)) (hits : List (List ScrHit))
  /-- FRAME_REPAIR (R464). -/
  | frameRepair (z : Fin 5) (r : NvsRead)
  /-- NEIGHBOUR_CHECK (R467). -/
  | neighbourCheck (z : Fin 5) (res : Fin 3)
  /-- SCR_GO (R467). -/
  | scrGo (z : Fin 5)
  /-- OP_REQ_WRITE (R473). -/
  | opReqWrite (k : Fin 32) (op : BitVec 3)
  /-- VOLTAGE_SETTLED (R476). -/
  | voltageSettled (rail : Fin 32) (vout iout : BitVec 16)
  /-- CLUSTER_ENTRY (R480). -/
  | clusterEntry (k : Fin 32)
  /-- ENTRY_COMPLETE (R482). -/
  | entryComplete (k : Fin 32)
  /-- CLUSTER_WAKE (R484). -/
  | clusterWake (k : Fin 32) (path : Fin 3) (dt : Nat)
  /-- WAKE_FAILURE (R485). -/
  | wakeFailure (k : Fin 32)
  /-- PULSE (R481). -/
  | pulse (k : Fin 32)
  /-- RETRY (R485). -/
  | retry (k : Fin 32)
  /-- QUADRANT_TARGET_WRITE (R486). -/
  | quadrantTargetWrite (q : Fin 4) (v : BitVec 2)
  /-- QUADRANT_BOOT (R489). -/
  | quadrantBoot (q : Fin 4) (ok : Bool)
  /-- QUADRANT_RESET (R493). -/
  | quadrantReset (q : Fin 4)
  /-- SUPPLY_WARNING (R490). -/
  | supplyWarning (rail : Fin 32) (uv ns : Nat)
  /-- SUPPLY_RESET (R490). -/
  | supplyReset (rail : Fin 32) (uv ns : Nat)
  /-- THERMAL_READ (R492). -/
  | thermalRead (q0 q1 q2 q3 hub : BitVec 9)
  /-- THERMAL_TRIP (R492). -/
  | thermalTrip (sensor : Fin 5)
  /-- CHIP_RESET (R493). -/
  | chipReset
  /-- POR_N_RELEASE (R495). -/
  | porNRelease (lowNs : Nat) (vbat : Bool)
  /-- PERST_N (R494). -/
  | perstN (level : Bool)
  /-- PMBUS_TRANSACTION (R475). -/
  | pmbusTransaction (nak : Bool) (data : BitVec 16)
  /-- PMB_ALERT (R496). -/
  | pmbAlert (rail : Fin 32)
  /-- TILE_CORE_CHECK (R499). -/
  | tileCoreCheck (p : Fin 288) (dt : Nat)
  /-- PRM_RETIRE (R499). -/
  | prmRetire
  /-- TILE_RETEST_DONE (R502). -/
  | tileRetestDone (p : Fin 288) (pass : Bool)
  /-- REDO_START (R503). -/
  | redoStart (p : Fin 288) (dt : Nat)
  /-- ENGINE_CHECK (R504). -/
  | engineCheck (k : Fin 32) (res : Fin 7) (dt : Nat)
  /-- BANK_FENCE (R505). -/
  | bankFence (k : Fin 32) (b : Fin 32)
  /-- QUADRANT_REINITIALISATION (R506). -/
  | quadrantReinitialisation (q : Fin 4) (e : ReinitEv)
  /-- REINITIALISATION_RECORD_WRITE (R508). -/
  | reinitialisationRecordWrite (q : Fin 4) (dt : Nat)
  /-- LOCKSTEP_MISMATCH (R509). -/
  | lockstepMismatch
  /-- HUB_FLIT_UNCORRECTABLE (R510). -/
  | hubFlitUncorrectable (dst : Option (MemUnit × Nat)) (corr : Nat)
  /-- FIRMWARE_HAND_OVER (R511). -/
  | firmwareHandOver (e : FwStep)
  /-- FIRMWARE_REVERT (R512). -/
  | firmwareRevert
  /-- FLIGHT_RECORDER_WRITE (R517). -/
  | flightRecorderWrite
  /-- RMA_CAPTURE (R519). -/
  | rmaCapture
  /-- SECURE_BOOT (R528). -/
  | secureBoot (a b : NvsRead)
  /-- NONCE (R531). -/
  | nonce
  /-- ENROL_OWNER (R532). -/
  | enrolOwner (fuseOk : Bool)
  /-- REVOKE_OWNER (R532). -/
  | revokeOwner (fuseOk : Bool)
  /-- SET_POLICY (R532). -/
  | setPolicy (fuseOk : Bool)
  /-- PROVISION (R532). -/
  | provision
  /-- COMMIT_SVN (R529). -/
  | commitSvn (fuseOk : Bool)
  /-- DEBUG_OPEN (R539). -/
  | debugOpen
  /-- DEBUG_CLOSE (R532). -/
  | debugClose
  /-- CERT_SLOT1 (R532). -/
  | certSlot1
  /-- DECOMMISSION (R532). -/
  | decommission (fuseOk : Bool)
  /-- UNLOCK (R541). -/
  | unlock (fuseOk : Bool)
  /-- KEY_WRITE (R533). -/
  | keyWrite (session : Bool) (payload : List Byte)
  /-- SPDM_REQUEST (R536). -/
  | spdmRequest (inst : Fin 3) (m : SpdmReq)
  /-- QUERY (R538). -/
  | query (session : Bool)
  /-- KEY_PROG (R538). -/
  | keyProg (session io rx : Bool) (sub : Fin 8) (set : Fin 2) (key : List Byte)
  /-- K_SET_GO (R435). -/
  | kSetGo (session io rx : Bool) (sub : Fin 8) (set : Fin 2)
  /-- K_SET_STOP (R538). -/
  | kSetStop (session io rx : Bool) (sub : Fin 8) (set : Fin 2)
  /-- TAMPER (R535). -/
  | tamper (lowNs : Nat) (powered : Bool)
  /-- VBAT_LOW (R534). -/
  | vbatLow
  /-- DEBUG_SESSION_EXPIRY (R539). -/
  | debugSessionExpiry
  /-- DEBUG_ATTACH (R540). -/
  | debugAttach (k : Fin 32) (t : Fin 8) (en : Bool)
  /-- HALT (R540). -/
  | halt (on : Bool)
  /-- PROGRAM (R544). -/
  | program
  /-- READ (R544). -/
  | read (r : NvsRead)
  /-- NVS_SLOT_CFG_WRITE (R543). -/
  | nvsSlotCfgWrite (slot : Fin 64) (v : Word)
  /-- DTE_CNT_CLR (R341). -/
  | dteCntClr (k : Fin 32)
  /-- CDE_CNT_CLR (R378). -/
  | cdeCntClr (k : Fin 32)
  /-- CEE_CNT_CLR (R378). -/
  | ceeCntClr (k : Fin 32)
  /-- BYPASS (R520). -/
  | bypass
  /-- SAMPLE_PRELOAD (R520). -/
  | samplePreload
  /-- IDCODE (R520). -/
  | idcode
  /-- EXTEST (R520). -/
  | extest (porLow : Bool)
  /-- EXTEST_PULSE (R520). -/
  | extestPulse (porLow : Bool)
  /-- EXTEST_TRAIN (R520). -/
  | extestTrain (porLow : Bool)
  /-- HIGHZ (R520). -/
  | highz (porLow : Bool)
  /-- CLAMP (R520). -/
  | clamp (porLow : Bool)
  /-- SYNCE_LOCK_CHANGE (R79). -/
  | synceLockChange (locked : Bool) (fadj : Int)
  /-- PARTITION_INTERRUPT (R447). -/
  | partitionInterrupt (p : Fin 18)
  /-- QUADRANT_ENTRY_COMPLETE (R478). -/
  | quadrantEntryComplete (q : Fin 4)
  /-- QUADRANT_WAKE_COMPLETE (R488). -/
  | quadrantWakeComplete (q : Fin 4)
  /-- FIRMWARE_HEALTHY_REPORT (R512). -/
  | firmwareHealthyReport
  /-- CONFIGURATION_REQUEST (R495). -/
  | configurationRequest (c : CfgReq)
deriving DecidableEq, Repr

end Sys2Proof
end

