-- ==== Sys2Proof/Decode.lean ====
section
/-!
DEFINITION. The opcode table's words: spec/opcode_table.json gives no row of this block any bits, so no word spells a command.
The syllables of Phimar's instruction memory are decoded where a tile fetches its program: Machine/Syllable.lean.
-/

namespace Sys2Proof

/-- The command that a word spells by the table's bits: none, for no row has bits. Log: 9 DESIGN CHOICE. -/
def decodeTableWord (_nbits _w : Nat) : Option Instr := none

end Sys2Proof
end

