-- ==== Sys2Proof/Machine/Bits.lean ====
section
/-!
DEFINITION. Bit fields, signed readings, rounding, saturation and byte order (spec/00_scope.md R5, R6;
spec/02_larkspur_time.md R567). Everything works on Nat and Int so that the kernel evaluates it.
-/

namespace Sys2Proof.Machine

/-- Bits [lo+w-1 : lo] of x. -/
def bitsOf (x lo w : Nat) : Nat := (x >>> lo) % 2 ^ w

/-- Bit i of x, as 0 or 1. -/
def bitOf (x i : Nat) : Nat := bitsOf x i 1

/-- x with bits [lo+w-1 : lo] replaced by the low w bits of v. -/
def putBits (x lo w v : Nat) : Nat :=
  x - bitsOf x lo w * 2 ^ lo + (v % 2 ^ w) * 2 ^ lo

/-- The two's complement reading of the low w bits of x (R6). -/
def signedOf (w x : Nat) : Int :=
  if x % 2 ^ w < 2 ^ (w - 1) then (x % 2 ^ w : Nat) else ((x % 2 ^ w : Nat) : Int) - 2 ^ w

/-- The low w bits of an integer, as a Nat (two's complement, R6). -/
def unsignedOf (w : Nat) (i : Int) : Nat := (i % (2 ^ w : Int)).toNat

/-- n / d to the nearest integer, a tie away from zero (R567); d is positive. -/
def roundDiv (n : Int) (d : Nat) : Int :=
  if 0 ≤ n then ((2 * n.toNat + d) / (2 * d) : Nat) else -(((2 * (-n).toNat + d) / (2 * d) : Nat) : Int)

/-- n / d rounded up. -/
def ceilDiv (n d : Nat) : Nat := (n + d - 1) / d

/-- Integer division rounded towards zero (R68). -/
def truncDiv (n : Int) (d : Nat) : Int :=
  if 0 ≤ n then (n.toNat / d : Nat) else -((((-n).toNat / d) : Nat) : Int)

/-- v brought to the nearest bound of [lo, hi]. -/
def clampNat (lo hi v : Nat) : Nat := if v < lo then lo else if hi < v then hi else v

/-- v brought to the nearest bound of [lo, hi]. -/
def clampInt (lo hi v : Int) : Int := if v < lo then lo else if hi < v then hi else v

/-- A counter that saturates at max. -/
def satAdd (max v k : Nat) : Nat := if v + k < max then v + k else max

/-- Saturation to w-bit two's complement. -/
def satInt (w : Nat) (v : Int) : Int := clampInt (-(2 ^ (w - 1))) (2 ^ (w - 1) - 1) v

/-- The value of a little-endian byte sequence (R5). -/
def leNat : List Byte → Nat
  | [] => 0
  | b :: t => b.toNat + 256 * leNat t

/-- The n low bytes of v, little-endian (R5). -/
def leBytes : Nat → Nat → List Byte
  | 0, _ => []
  | n + 1, v => BitVec.ofNat 8 v :: leBytes n (v / 256)

/-- The value of a most-significant-first bit sequence. -/
def beBits : List Bool → Nat := fun l => l.foldl (fun a b => 2 * a + (if b then 1 else 0)) 0

/-- The number of set bits among the low n bits of x. -/
def popCount : Nat → Nat → Nat
  | 0, _ => 0
  | n + 1, x => x % 2 + popCount n (x / 2)

/-- The set bits of x below n, ascending, counted from i. -/
def setBits : Nat → Nat → Nat → List Nat
  | 0, _, _ => []
  | n + 1, i, x => if x % 2 = 1 then i :: setBits n (i + 1) (x / 2) else setBits n (i + 1) (x / 2)

/-- Bool as a register bit. -/
def ofBool (b : Bool) : Nat := if b then 1 else 0

/-- Bitwise AND of x with the complement of y. -/
def andNot (x y : Nat) : Nat := x - (x &&& y)

/-- Replace the element at index i; a list without that index is unchanged. -/
def setAt {α : Type} : List α → Nat → α → List α
  | [], _, _ => []
  | _ :: t, 0, v => v :: t
  | a :: t, i + 1, v => a :: setAt t i v

/-- The element at index i, or d. -/
def getAt {α : Type} (d : α) : List α → Nat → α
  | [], _ => d
  | a :: _, 0 => a
  | _ :: t, i + 1 => getAt d t i

/-- Insert v before the first element that `before v` holds for: the place in a list kept in order. -/
def insertBy {α : Type} (before : α → α → Bool) (v : α) : List α → List α
  | [] => [v]
  | a :: t => if before v a then v :: a :: t else a :: insertBy before v t

/-- The first element that satisfies p, with the list without it. -/
def takeFirst {α : Type} (p : α → Bool) : List α → Option (α × List α)
  | [] => none
  | a :: t => if p a then some (a, t) else (takeFirst p t).map fun r => (r.1, a :: r.2)

end Sys2Proof.Machine
end

