-- ==== Sys2Proof/Machine/Costs.lean ====
section
/-!
DEFINITION. Declared costs (spec/03_slot_contract.md R112 to R114 and the engines' formulas: R283 DMA, R312 XFE, R320 BME, R340 DTE, R377 CDE and
CEE), in ps, and the latencies of R115.
-/

namespace Sys2Proof.Machine

/-- f_MHz of an operating point (R114). -/
def fMhz (op : Nat) : Nat := match op with | 0 => 400 | 1 => 800 | 2 => 1000 | 3 => 1200 | 4 => 1400 | _ => 1600

/-- Cycles at an operating point in ps, rounded up (R114). -/
def cyclesPs (op cycles : Nat) : Nat := ceilDiv (cycles * 1000000) (fMhz op)

/-- T_TICK, T_DISP, T_XC, T_REC, L_RX and L_TX of R115 in ps. -/
def tTick : Nat := 250000
/-- T_DISP. -/
def tDisp : Nat := 40000
/-- T_XC. -/
def tXc : Nat := 100000
/-- T_REC. -/
def tRec : Nat := 1000000
/-- L_RX. -/
def lRx : Nat := 800000
/-- L_TX. -/
def lTx : Nat := 600000
/-- L_DEC(n) with L_CPL for a coupled carrier instance, in ps. -/
def lDec (n : Nat) (coupled : Bool) : Nat := (2000 + 25 * (n - 64) + (if coupled then 1000 else 0)) * 1000
/-- LEAD(DEPTH) in ps. -/
def lead (depth : Nat) : Nat := match depth with | 0 => 4000 | 1 => 16000000 | _ => 20000000

/-- A cost that exceeds every window. -/
def endless : Nat := 2 ^ 62

/-- The smallest supported transform size at or above n, 4,096 above that (R312). -/
def xfeSize (n : Nat) : Nat :=
  if n ≤ 128 then 128 else if n ≤ 256 then 256 else if n ≤ 512 then 512 else if n ≤ 1024 then 1024
  else if n ≤ 1536 then 1536 else if n ≤ 2048 then 2048 else if n ≤ 3072 then 3072 else 4096

/-- The cost of an XFE task in ns (R312). -/
def xfeCost (f a1 a2 a3 : Nat) : Nat :=
  let p := clampNat 1 65535 a1
  let s := clampNat 1 262143 a2
  200 + ceilDiv (p * (24 + ceilDiv s 20 + ceilDiv (xfeSize a3) 5) * 1000) f

/-- The cost of a BME task in ns (R320, ranges of R319). -/
def bmeCost (f a1 a2 a3 : Nat) : Nat :=
  let r := clampNat 1 65535 a1
  let i := clampNat 1 192 (bitsOf a2 0 8)
  let o := if bitsOf a3 24 2 = 3 then 1 else clampNat 1 128 (bitsOf a2 8 8)
  let ng := clampNat 1 r (bitsOf a2 16 16)
  150 + ceilDiv ((16 + ceilDiv (i * o * ng) 64 + ceilDiv (r * i * o) 625) * 1000) f

/-- The cost of a DTE task in ns (R340). -/
def dteCost (f a1 a2 a3 : Nat) : Nat :=
  let op := min 3 (bitsOf a3 0 3)
  let r := clampNat 1 16777215 a1
  let i := clampNat 1 64 (bitsOf a2 0 8)
  let cycles := match op with
    | 0 => 64 + ceilDiv (r * i * clampNat 1 8 (bitsOf a2 8 4)) 32
    | 1 => 64 + ceilDiv (clampNat 1 65535 (bitsOf a2 16 16) * i * clampNat 1 16 (bitsOf a2 8 5)) 2
        + ceilDiv (r * ceilDiv i 16 * ceilDiv (clampNat 1 16 (bitsOf a2 8 5)) 4 * 4) 5 + ceilDiv (bitsOf a3 8 24 * i) 16
    | 2 =>
      let z := match bitsOf a2 8 2 with | 0 => 1024 | 1 => 256 | _ => 64
      64 + ceilDiv (clampNat 1 65535 a1 * clampNat 1 64 (bitsOf a2 0 8) * z) 4
    | _ => 64 + ceilDiv (r * i) 16
  200 + ceilDiv (cycles * 1000) f

/-- The cost of a CDE task in ns (R377). -/
def cdeCost (f a1 a2 a3 : Nat) : Nat :=
  let w := max 1 (bitsOf a1 0 28)
  let g := max 1 (bitsOf a2 0 28)
  let c := max 1 (bitsOf a3 0 8)
  let iter := max 1 (bitsOf a3 8 5)
  let hu := bitsOf a3 13 19
  let dec := match bitsOf a1 28 4 with
    | 0 => ceilDiv (iter * w) 64
    | 1 => ceilDiv w 8
    | 2 => ceilDiv (iter * w) 16
    | 3 => w
    | _ => ceilDiv w 2
  200 + ceilDiv ((64 + 24 * c + max (ceilDiv g 32 + ceilDiv (16 * hu) 32) dec) * 1000) f

/-- The cost of a CEE task in ns (R377). -/
def ceeCost (f a1 a2 a3 : Nat) : Nat :=
  let w := max 1 (bitsOf a1 0 28)
  let g := max 1 (bitsOf a2 0 28)
  let c := max 1 (bitsOf a3 0 8)
  let enc := match bitsOf a1 28 4 with
    | 0 => ceilDiv w 16
    | 1 => ceilDiv w 64
    | _ => ceilDiv w 8
  100 + ceilDiv ((64 + 16 * c + max (ceilDiv g 64) enc) * 1000) f

/-- The latency of a DMA side in ns, and its limit in MB/s (R283); dram and host are the reservations of the plan's part. -/
def dmaSide (f dram host side : Nat) (source : Bool) : Nat × Nat :=
  match side with
  | 0 => (30, 32 * f)
  | 1 => (130, min (32 * f) 60000)
  | 2 => (300, 4000 * dram)
  | _ => (if source then 2000 else 1000, host)

/-- The cost of a DMA task in ns (R283); endless where a limit is 0. -/
def dmaCost (f dram host a1 a2 a3 : Nat) : Nat :=
  let b := min a1 268435456
  let n := clampNat 1 16 (bitsOf a2 0 5)
  let (l1, m1) := dmaSide f dram host (bitsOf a2 8 3) true
  let (l2, m2) := dmaSide f dram host (bitsOf a2 12 3) false
  let m := min m1 m2
  let rate := if a3 = 0 then m else min a3 m
  if rate = 0 then endless else 120 + 20 * n + l1 + l2 + ceilDiv (b * 1000) rate

/-- The formula cost of an engine task of a KIND in ns (R113). -/
def engineNs (kind f dram host a1 a2 a3 : Nat) : Nat :=
  match kind with
  | 1 => xfeCost f a1 a2 a3
  | 2 => bmeCost f a1 a2 a3
  | 3 => dteCost f a1 a2 a3
  | 4 => cdeCost f a1 a2 a3
  | 5 => ceeCost f a1 a2 a3
  | _ => dmaCost f dram host a1 a2 a3

end Sys2Proof.Machine
end

