-- ==== Sys2Proof/Machine/Crypto.lean ====
section
/-!
DEFINITION. The cryptographic standards that the scope lists (spec/00_scope.md R4): SHA-512 of FIPS 180-4, RSASSA-PSS verification of PKCS #1 v2.2 with the parameters of
spec/16_security.md R521 and R525, AES-256 of FIPS 197 and its Galois/counter mode (spec/13_phlox.md R454). Log: 95 PRESUMED.
-/

namespace Sys2Proof.Machine

/-- The value of a big-endian byte sequence (the RSA integers of R524 and R531, and the integers of the standards). -/
def beNat (l : List Byte) : Nat := l.foldl (fun a b => 256 * a + b.toNat) 0

/-- The n low bytes of v, big-endian. -/
def beBytes (n v : Nat) : List Byte := (leBytes n v).reverse

/-- The bytewise exclusive or of two byte strings. -/
def xorBytes (a b : List Byte) : List Byte := (a.zip b).map fun x => x.1 ^^^ x.2

/-- A byte string cut into pieces of n bytes, at most k of them, the last one perhaps shorter. -/
def piecesOf (n : Nat) : Nat → List Byte → List (List Byte)
  | 0, _ => []
  | _, [] => []
  | k + 1, l => l.take n :: piecesOf n k (l.drop n)

/-! ## SHA-512 -/

/-- Is n prime? For n at least 2. -/
def isPrime (n : Nat) : Bool := (List.range n).all fun d => decide (d < 2 ∨ n % d ≠ 0)

/-- The first 80 primes. -/
def firstPrimes : List Nat := ((List.range 410).filter fun n => decide (2 ≤ n) && isPrime n)

/-- The largest r of b bits with r^e at most x, found bit by bit. -/
def intRoot (e x : Nat) : Nat → Nat → Nat
  | 0, r => r
  | b + 1, r => intRoot e x b (if (r + 2 ^ b) ^ e ≤ x then r + 2 ^ b else r)

/-- The first 64 bits of the fractional part of the e-th root of p. -/
def rootFraction (e p : Nat) : Nat := intRoot e (p * 2 ^ (64 * e)) 70 0 % 2 ^ 64

/-- The 80 round constants. -/
def shaRound : List Nat := firstPrimes.map (rootFraction 3)

/-- The initial hash value. -/
def shaStart : List Nat := (firstPrimes.take 8).map (rootFraction 2)

/-- A 64-bit word rotated right by k. -/
def rotr64 (x k : Nat) : Nat := (x >>> k) ||| (x % 2 ^ k) * 2 ^ (64 - k)

/-- Σ0 and Σ1 (rotations only). -/
def shaBig (a b c x : Nat) : Nat := rotr64 x a ^^^ rotr64 x b ^^^ rotr64 x c

/-- σ0 and σ1 (two rotations and a shift). -/
def shaSmall (a b c x : Nat) : Nat := rotr64 x a ^^^ rotr64 x b ^^^ (x >>> c)

/-- The next word of the message schedule, of the last 16. -/
def shaNext (w : List Nat) : Nat := (shaSmall 19 61 6 (getAt 0 w 14) + getAt 0 w 9 + shaSmall 1 8 7 (getAt 0 w 1) + getAt 0 w 0) % 2 ^ 64

/-- The message schedule of a block from its last 16 words. -/
def shaSchedule : Nat → List Nat → List Nat
  | 0, _ => []
  | n + 1, w => getAt 0 w 0 :: shaSchedule n (w.drop 1 ++ [shaNext w])

/-- One round on the working variables a to h. -/
def shaStep (v : List Nat) (kw : Nat × Nat) : List Nat :=
  match v with
  | [a, b, c, d, e, f, g, h] =>
    let t1 := h + shaBig 14 18 41 e + ((e &&& f) ^^^ ((2 ^ 64 - 1 - e) &&& g)) + kw.1 + kw.2
    let t2 := shaBig 28 34 39 a + ((a &&& b) ^^^ (a &&& c) ^^^ (b &&& c))
    [(t1 + t2) % 2 ^ 64, a, b, c, (d + t1) % 2 ^ 64, e, f, g]
  | _ => v

/-- The hash value after one more block of 128 bytes; k are the round constants. -/
def shaBlock (k h : List Nat) (blk : List Byte) : List Nat :=
  let w := shaSchedule 80 ((piecesOf 8 16 blk).map beNat)
  ((h.zip ((k.zip w).foldl shaStep h)).map fun x => (x.1 + x.2) % 2 ^ 64)

/-- A message padded to whole blocks. -/
def shaPad (m : List Byte) : List Byte := m ++ 0x80 :: List.replicate ((239 - m.length % 128) % 128) 0 ++ beBytes 16 (8 * m.length)

/-- SHA-512 (FIPS 180-4): 64 bytes. -/
def sha512 (m : List Byte) : List Byte :=
  let p := shaPad m
  let k := shaRound
  ((piecesOf 128 p.length p).foldl (shaBlock k) shaStart).flatMap (beBytes 8)

/-! ## RSASSA-PSS (PKCS #1 v2.2, clauses 8.1.2 and 9.1.2) -/

/-- MGF1 with SHA-512: n bytes. -/
def mgf1 (seed : List Byte) (n : Nat) : List Byte := ((List.range (ceilDiv n 64)).flatMap fun i => sha512 (seed ++ beBytes 4 i)).take n

/-- x to the power of the public exponent 65,537, modulo n. -/
def rsaPublic (n x : Nat) : Nat := ((List.range 16).foldl (fun a _ => a * a % n) x) * x % n

/-- Is em, of emBits bits, the PSS encoding of a message with SHA-512, MGF1 with SHA-512, a 64-byte salt and trailer 0xBC (R525)? -/
def pssOk (em m : List Byte) (emBits : Nat) : Bool :=
  let n := em.length
  let masked := em.take (n - 65)
  let h := (em.drop (n - 65)).take 64
  let top := 8 * n - emBits
  let db0 := xorBytes masked (mgf1 h (n - 65))
  let db := match db0 with | b :: t => BitVec.ofNat 8 (b.toNat % 2 ^ (8 - top)) :: t | [] => []
  let salt := db.drop (n - 129)
  decide (130 ≤ n) && em.drop (n - 1) == [0xBC] && decide (beNat (em.take 1) < 2 ^ (8 - top)) && db.take (n - 129) == List.replicate (n - 130) 0 ++ [1] &&
    sha512 (List.replicate 8 0 ++ sha512 m ++ salt) == h

/-- Does a signature, a big-endian integer, verify under a modulus and a message (R525)? -/
def rsaPssVerify (modulus m sig : List Byte) : Bool :=
  let n := beNat modulus
  let emBits := n.log2
  decide (n ≠ 0 ∧ sig.length = modulus.length ∧ beNat sig < n) && pssOk (beBytes (ceilDiv emBits 8) (rsaPublic n (beNat sig))) m emBits

/-! ## AES-256 -/

/-- A byte of GF(2^8) doubled, modulo x^8 + x^4 + x^3 + x + 1. -/
def aesDouble (x : Nat) : Nat := if x < 128 then 2 * x else (2 * x - 256) ^^^ 0x1B

/-- The product of two bytes of GF(2^8). -/
def aesMul (a b : Nat) : Nat := ((List.range 8).foldl (fun (p : Nat × Nat) i => (if bitOf b i = 1 then p.1 ^^^ p.2 else p.1, aesDouble p.2)) (0, a)).1

/-- The inverse in GF(2^8), a^254; that of 0 is 0. -/
def aesInverse (a : Nat) : Nat := ((List.range 6).foldl (fun (p : Nat × Nat) _ => let q := aesMul p.2 p.2; (aesMul p.1 q, q)) (aesMul a a, aesMul a a)).1

/-- SubBytes of one byte: the affine map of the inverse. -/
def aesSub (a : Nat) : Nat :=
  let b := aesInverse a
  let rot := fun (k : Nat) => (b * 2 ^ k) % 256 + b / 2 ^ (8 - k)
  b ^^^ rot 1 ^^^ rot 2 ^^^ rot 3 ^^^ rot 4 ^^^ 0x63

/-- A word of four bytes, XORed with another. -/
def xorWords (a b : List Nat) : List Nat := (a.zip b).map fun x => x.1 ^^^ x.2

/-- The words of the key schedule after the first i, newest first: n more of them. -/
def aesExpand : Nat → Nat → List (List Nat) → List (List Nat)
  | 0, _, ws => ws
  | n + 1, i, ws =>
    let t := getAt [] ws 0
    let u :=
      if i % 8 = 0 then xorWords ((t.drop 1 ++ t.take 1).map aesSub) [(List.range (i / 8 - 1)).foldl (fun a _ => aesDouble a) 1, 0, 0, 0]
      else if i % 8 = 4 then t.map aesSub else t
    aesExpand n (i + 1) (xorWords u (getAt [] ws 7) :: ws)

/-- The 60 words of the key schedule of a 32-byte key. -/
def aesSchedule (key : List Byte) : List (List Nat) := (aesExpand 52 8 ((piecesOf 4 8 key).map fun w => w.map (·.toNat)).reverse).reverse

/-- The round key of round r as 16 bytes. -/
def roundKey (ws : List (List Nat)) (r : Nat) : List Nat := ((ws.drop (4 * r)).take 4).flatMap id

/-- ShiftRows of a block held column by column. -/
def shiftRows (b : List Nat) : List Nat := (List.range 16).map fun i => getAt 0 b ((i + 4 * (i % 4)) % 16)

/-- MixColumns of one column. -/
def mixColumn (c : List Nat) : List Nat :=
  (List.range 4).map fun i => let g := fun (j : Nat) => getAt 0 c ((i + j) % 4); aesMul (g 0) 2 ^^^ aesMul (g 1) 3 ^^^ g 2 ^^^ g 3

/-- MixColumns of a block. -/
def mixColumns (b : List Nat) : List Nat := (List.range 4).flatMap fun c => mixColumn ((b.drop (4 * c)).take 4)

/-- AES-256 (FIPS 197) of a 16-byte block under a key schedule. -/
def aesCipher (ws : List (List Nat)) (blk : List Byte) : List Byte :=
  let b := (List.range 13).foldl (fun b r => xorWords (mixColumns (shiftRows (b.map aesSub))) (roundKey ws (r + 1))) (xorWords (blk.map (·.toNat)) (roundKey ws 0))
  (xorWords (shiftRows (b.map aesSub)) (roundKey ws 14)).map fun x => BitVec.ofNat 8 x

/-- AES-256 of a zero block under a key (R533). -/
def aesZero (key : List Byte) : List Byte := aesCipher (aesSchedule key) (List.replicate 16 0)

/-! ## Galois/counter mode (R454) -/

/-- The product of two blocks in GF(2^128), the most significant bit the coefficient of 1. -/
def ghashMul (x y : Nat) : Nat :=
  ((List.range 128).foldl (fun (p : Nat × Nat) i =>
    (if bitOf x (127 - i) = 1 then p.1 ^^^ p.2 else p.1, if p.2 % 2 = 1 then (p.2 / 2) ^^^ (0xE1 * 2 ^ 120) else p.2 / 2)) (0, y)).1

/-- The blocks of a byte string as numbers, the last one filled with zeros. -/
def ghashBlocks (l : List Byte) : List Nat := (piecesOf 16 l.length l).map fun p => beNat (p ++ List.replicate (16 - p.length) 0)

/-- The block that counter c encrypts, for a 96-bit IV. -/
def gcmStream (ws : List (List Nat)) (iv : List Byte) (c : Nat) : List Byte := aesCipher ws (iv.take 12 ++ beBytes 4 c)

/-- The plain text of an AES-256-GCM cipher text (R454): of the key, the IV and the cipher text. -/
def gcmPlain (key iv text : List Byte) : List Byte :=
  let ws := aesSchedule key
  let ps := piecesOf 16 text.length text
  ((ps.zip (List.range ps.length)).flatMap fun x => xorBytes x.1 (gcmStream ws iv (x.2 + 2)))

/-- The GCM tag: of the key, the IV, the additional authenticated data and the cipher text (R454). -/
def gcmTag (key iv aad text : List Byte) : List Byte :=
  let ws := aesSchedule key
  let h := beNat (aesCipher ws (List.replicate 16 0))
  let s := (ghashBlocks aad ++ ghashBlocks text ++ [8 * aad.length * 2 ^ 64 + 8 * text.length]).foldl (fun a b => ghashMul (a ^^^ b) h) 0
  xorBytes (beBytes 16 s) (gcmStream ws iv 1)

end Sys2Proof.Machine
end

