-- ==== Sys2Proof/Config.lean ====
section
/-!
DEFINITION. What an implementation fixes and the values the spec leaves open. Each opaque constant is a FREE VALUE: it has
no body, nothing can be proved of what it answers, and a statement about it holds whatever it is. Where the argument is
called n it is the state's counter of free values (State.freeCtr), so that each use is fresh.
In every docstring of the model, 'Log: n MARK' names notes/assumptions/n.md, the entry of the assumption log that the definition rests on.
-/

namespace Sys2Proof.Config

/-- The frequency a locked PTP servo writes into LKS_FADJ after a Sync (R76 gives a proportional-integral loop, no gains): of the loop bandwidth BW and the offset. Log: 20 DESIGN CHOICE. -/
opaque servoFadj : Nat → Nat → Int → Int
/-- The phase request, in ps, that a locked active servo makes after a Sync (R76, R77), of the same. Log: 20 DESIGN CHOICE. -/
opaque servoPhase : Nat → Nat → Int → Int
/-- The port states, as a mask of the lanes that are time transmitters, that the alternate BMCA of the profile, which runs in firmware, gives after an Announce (R81). Log: 132 DESIGN CHOICE. -/
opaque bmcaPorts : Nat → Nat
/-- Is a carrier instance of the other kind of its numerology's row of R293: µ2 with the extended prefix, or µ0 as N3.75? A plan has no field for it. Log: 25 DESIGN CHOICE. -/
opaque otherGrid : Nat → Bool
/-- The destination MAC address of the eCPRI messages that a lane sends: no register holds it (R410, R412). Log: 81 DESIGN CHOICE. -/
opaque ecpriPeer : Nat → Nat
/-- How far a running tile's tct stands from CT, in ns; R60 bounds it by 4 ns (the use brings it into that bound). Log: 19 DESIGN CHOICE. -/
opaque tctError : Nat → Int
/-- How many cycles a running cluster clock has counted since the CSM cycle was last known (R20): the spec ties it to no other count. Log: 18 DESIGN CHOICE. -/
opaque csmElapsed : Nat → Nat
/-- How many cycles of its wait for the CSM an access has waited when an interrupt abandons it (R199; the use bounds it by the wait). Log: 18 DESIGN CHOICE. -/
opaque csmWaited : Nat → Nat

/-- How far the cycle register of a tile advances after the last bundle of a task, before its clock stops (R59, R189, R479). Log: 50 DESIGN CHOICE. -/
opaque idleCycles : Nat → Nat
/-- How many cycles a WFE waited (R198). Log: 51 DESIGN CHOICE. -/
opaque wfeCycles : Nat → Nat
/-- The command word that a ring reader takes from an address whose granule is poisoned (R254, R257). Log: 32 DESIGN CHOICE. -/
opaque poisonedWord : Nat → Nat
/-- Which held line a full snoop filter takes back (R274). Log: 58 DESIGN CHOICE. -/
opaque sfVictim : Nat → Nat
/-- The DRAM bank and the row that hold a granule: R260 sparing is by row, and the spec gives no layout of rows. Log: 57 DESIGN CHOICE. -/
opaque dramBank : Nat → Nat
/-- The row of a granule in its bank. Log: 57 DESIGN CHOICE. -/
opaque dramRow : Nat → Nat

/-- The port index of a source that carries none (R288): DMA channels and engines. Log: 64 DEDUCED. -/
opaque cvuNoPort : Nat → Nat
/-- The sequence number of a source that carries none (R288): Ethernet frames and engines. Log: 64 DEDUCED. -/
opaque cvuNoSeq : Nat → Nat
/-- How many granules the host channel has moved when it is next looked at (R285 bounds its rate by what no plan reserves). Log: 63 DEDUCED. -/
opaque hostPace : Nat → Nat

/-- A byte that an engine reads beyond the end of the CSM: the spec gives no address there. Log: 62 DESIGN CHOICE. -/
opaque beyondCsm : Nat → Byte
/-- The rounding error of a component of an output sample of the XFE, before it is brought within one unit: the operation's parameters, its input samples, and the
component's index. Log: 67 DEDUCED. -/
opaque xfeValue : List Int → List (Int × Int) → Nat → Int
/-- The response of the XFE's filters before it is brought within the bounds of R305 and R310: the transform's parameters, the frequency in Hz, and which of its numbers. Log: 67 DEDUCED. -/
opaque xfeFilter : List Int → Int → Nat → Int

/-- The error of a component of a PRACH bin of the PFE, before it is brought within its bound: the occasion's parameters, a port's samples, the transform and the component's
index. Log: 68 DESIGN CHOICE. -/
opaque pfeValue : List Int → List (Int × Int) → Nat → Nat → Int
/-- The bound of that error in 1/1,000 of the sum of the input magnitudes: R313 to R316 state none. Log: 68 DESIGN CHOICE. -/
opaque pfeSlack : Nat
/-- Tap j of the interpolator that delays the reference of R335 by a phase of 1/16 to 15/16 of a sample period, in units of 2^-20: the spec does not give it. Log: 69 DESIGN CHOICE. -/
opaque evmTap : Nat → Nat → Int

/-- The filterIndex that a PRACH entry's U-plane messages carry (R410: any value other than 0), by entry. Log: 82 DESIGN CHOICE. -/
opaque prachFilter : Nat → Nat

/-- A measurement or output value of the DTE that the spec bounds and does not compute to the bit (R347 to R365): of the descriptor's bytes, the input samples, the kind
of value and its index. It depends on nothing else. Log: 70 DESIGN CHOICE. -/
opaque dteValue : List Byte → List (Int × Int) → Nat → Nat → Int
/-- TO in ps, of the separated pilot estimates of a layer and the pilot spacing (R348). Log: 70 DESIGN CHOICE. -/
opaque slopePs : List (Rat × Rat) → Nat → Int
/-- The frequency offset beside the expected one in Hz, of the acquisition symbol's pilot estimates and the expected one (R347). Log: 70 DESIGN CHOICE. -/
opaque leakHz : List (Rat × Rat) → Int → Int
/-- The weight of a pilot estimate in the smoothing of R348 and R359, by its distance in subcarriers. Log: 70 DESIGN CHOICE. -/
opaque smoothWeight : Int → Nat
/-- The magnitude in a reference record that stands for 1 (R345). Log: 70 DESIGN CHOICE. -/
opaque refUnit : Nat
/-- How far a peak lies from its sample, in 1/16 samples, by the powers before, at and after it (R364). Log: 70 DESIGN CHOICE. -/
opaque peakBetween : List Rat → Int
/-- The format of an entry that lies in no context's ring, where its transforms leave a choice (R313): neither the descriptor nor the entry names it. Log: 70 DESIGN CHOICE. -/
opaque raSecond : List Byte → Bool
/-- How often such an entry's port has halved the points of R313, by the entry and the port. Log: 70 DESIGN CHOICE. -/
opaque raHalved : List Byte → Nat → Nat

/-- The shift of TS 38.212 Tables 5.3.2-2 and 5.3.2-3 at a base graph, lifting set, row and column; none where the base graph has no entry. The spec names the tables and does not
restate them. Log: 72 PRESUMED. -/
opaque baseGraph : Nat → Nat → Nat → Nat → Option Nat
/-- The columns of bits that an LDPC decoder decides after some iterations: of the base graph, the lifting size, the LLRs of the circular buffer and the iterations (R379: nothing else
enters; the spec gives no algorithm). Log: 71 DESIGN CHOICE. -/
opaque ldpcDecision : Nat → Nat → List Int → Nat → List Nat
/-- The surviving paths of a polar list decoder with their metrics, the best first: of N, the indices that carry bits, those of parity checks, and the LLRs (R370). Log: 71 DESIGN CHOICE. -/
opaque polarPaths : Nat → List Nat → List Nat → List Int → List (Nat × List Bool)
/-- How a coding engine decides between equally good bits or paths: of the LLRs and a number (R370 does not say). Log: 71 DESIGN CHOICE. -/
opaque codeTie : List Int → Nat → Bool
/-- CONF of R381 where the metrics have no ratio with a logarithm: of the two metrics. Log: 71 DESIGN CHOICE. -/
opaque confidence : Int → Int → Nat

/-- The modulus of a key in the boot ROM: false the firmware key, true the RMA key (R521). Log: 119 DESIGN CHOICE. -/
opaque romKey : Bool → List Byte

/-- By how many thousandths of the target a supply monitor's threshold is off: rail and threshold (R553 bounds it by 5). Log: 100 DESIGN CHOICE. -/
opaque monitorError : Nat → Nat → Int
/-- Does a TAMPER_N low level of 0.5 µs to 1 µs act (R560)? Log: 102 DESIGN CHOICE. -/
opaque tamperShort : Nat → Bool
/-- Does a POR_N low pulse of 1 µs to 10 µs reset a running device (R556 rules only on shorter and longer ones)? Log: 101 DESIGN CHOICE. -/
opaque porShort : Nat → Bool

/-- What a configuration read returns where the spec gives no value (R430: the BARs hold what the host assigned). Log: 60 DEDUCED, 86 DEDUCED. -/
opaque cfgValue : Nat → Nat
/-- The LINEAR16 word of a voltage in mV with the exponent of the regulator of a rail, which its VOUT_MODE gives (R470). Log: 103 DEDUCED. -/
opaque linear16 : Nat → Nat → Nat
/-- What a word of the CXL component or device registers reads (R431): CXL 3.1 gives their layout, over the offset, the word last written there and the decoders' fields. Log: 60 DEDUCED. -/
opaque compWord : Nat → Option Nat → List (List Nat) → Nat
/-- What the outside world answers to an operation that a REGISTER_WRITE starts by a GO whose own row has operands for it: of the counter, the fact's number (a fuse that
takes, a regulator's NAK and data, what a read of the store met). Log: 91 DESIGN CHOICE. -/
opaque goFact : Nat → Nat → Nat
/-- A fresh nonce of 256 bits (R531). Log: 120 DESIGN CHOICE. -/
opaque nonce : Nat → Nat
/-- Certificate slot 0 (R523). Log: 123 PRESUMED. -/
opaque slot0Chain : List Byte
/-- Does a chain's leaf certify the DevID public key (R532)? Log: 123 PRESUMED. -/
opaque certifiesDevId : List Byte → Bool
/-- Bytes of an SPDM answer that the spec does not give: of the request's number and place (R536). Log: 123 PRESUMED. -/
opaque spdmByte : Nat → Nat → Byte
/-- A byte of the RMA capture as it lies in the store: R519 gives its contents and not its layout. Log: 61 DESIGN CHOICE. -/
opaque rmaByte : Nat → Nat → Byte
/-- The content of the scrambler of a lane as it leaves electrical idle (R391). Log: 77 DESIGN CHOICE. -/
opaque scramblerStart : Nat → Nat

end Sys2Proof.Config
end

