-- ==== Sys2Proof/Machine/SMap.lean ====
section
/-!
DEFINITION. Sparse data by key: a list of (key, value) pairs in one canonical form. Keys rise strictly and no entry
equals what an unlisted key reads as, so equal maps are equal lists. Registers, memory and every family of like units
(rings, tiles, lanes) are held so.
-/

namespace Sys2Proof.Machine

/-- A sparse map from Nat keys. -/
abbrev SMap (α : Type) := List (Nat × α)

/-- The value at k; an unlisted key reads as d k. -/
def smGet {α : Type} (d : Nat → α) : SMap α → Nat → α
  | [], k => d k
  | (a, v) :: t, k => if a = k then v else smGet d t k

/-- Write v at k, keeping the canonical form: writing what an unlisted key reads as removes the entry. -/
def smPut {α : Type} [DecidableEq α] (d : Nat → α) (k : Nat) (v : α) : SMap α → SMap α
  | [] => if v = d k then [] else [(k, v)]
  | (a, w) :: t =>
    if k < a then (if v = d k then (a, w) :: t else (k, v) :: (a, w) :: t)
    else if k = a then (if v = d k then t else (k, v) :: t)
    else (a, w) :: smPut d k v t

/-- The canonical form: keys rise strictly, each above the bound, and no entry equals its default. -/
def smWfFrom {α : Type} [DecidableEq α] (d : Nat → α) : Option Nat → SMap α → Bool
  | _, [] => true
  | lo, (a, v) :: t =>
    (match lo with
      | none => true
      | some b => decide (b < a)) && decide (v ≠ d a) && smWfFrom d (some a) t

/-- The canonical form of a sparse map. -/
def smWf {α : Type} [DecidableEq α] (d : Nat → α) (m : SMap α) : Bool := smWfFrom d none m

/-- Remove every entry whose key satisfies p: those keys read as their default again. -/
def smDrop {α : Type} (p : Nat → Bool) : SMap α → SMap α
  | [] => []
  | (a, v) :: t => if p a then smDrop p t else (a, v) :: smDrop p t

end Sys2Proof.Machine
end

