-- ==== Sys2Proof/Machine/RegNames.lean ====
section
/-!
DEFINITION. The register map of the OZG-4192 by name: the BAR0 offset of every register (spec/01_hierarchy.md R37 to
R39, and the register tables at the end of each chapter) and the place of every field in it. q is a quadrant, k a cluster
counted over the chip (0 to 31), p a physical tile counted over the chip (0 to 287) or a partition (0 to 15, then 16 and 17 for PX0 and PX1), l a lane (0 to 63),
z a scrubber (4 is the hub's); i and j are the indices of a register array.
-/

namespace Sys2Proof.Machine

/-- A field: the BAR0 offset of its register, its lowest bit and its width. -/
structure Field where
  addr : Nat
  lo : Nat
  w : Nat
deriving DecidableEq, Repr

/-- R38: quadrant q's 16 MiB. -/
def quadBase (q : Nat) : Nat := 0x1000000 * (q + 1)
/-- R39: cluster k's 1 MiB. -/
def clusterBase (k : Nat) : Nat := quadBase (k / 8) + 0x100000 * (k % 8)
def lksBase : Nat := 0x100000
def leafBase (q : Nat) : Nat := quadBase q + 0x870000
def evtBase : Nat := 0x700000
def tddBase : Nat := 0x780000
def admBase (q : Nat) : Nat := quadBase q + 0x800000
def memBase (q : Nat) : Nat := quadBase q + 0x810000
def lanBase (l : Nat) : Nat := quadBase (l / 16) + 0x820000 + 0x1000 * (l % 16)
def pfeBase (q : Nat) : Nat := quadBase q + 0x830000
def phxBase (p : Nat) : Nat := if p < 16 then quadBase (p / 4) + 0x840000 + 0x4000 * (p % 4) else 0x600000 + 0x4000 * (p - 16)
def scrBase (z : Nat) : Nat := if z < 4 then quadBase z + 0x850000 else 0x608000
def pwrqBase (q : Nat) : Nat := quadBase q + 0x860000
def ringBase (q : Nat) : Nat := quadBase q + 0x880000
def tilBase (p : Nat) : Nat := clusterBase (p / 9) + 0x10000 * (p % 9)
def csmBase (k : Nat) : Nat := clusterBase k + 0x90000
def dahBase (k : Nat) : Nat := clusterBase k + 0xA0000
def dmaBase (k : Nat) : Nat := clusterBase k + 0xB0000
def cvuBase (k : Nat) : Nat := clusterBase k + 0xC0000
def xfeBase (k : Nat) : Nat := clusterBase k + 0xD0000
def bmeBase (k : Nat) : Nat := clusterBase k + 0xD8000
def dteBase (k : Nat) : Nat := clusterBase k + 0xE0000
def cdeBase (k : Nat) : Nat := clusterBase k + 0xE8000
def ceeBase (k : Nat) : Nat := clusterBase k + 0xF0000
def pwrcBase (k : Nat) : Nat := clusterBase k + 0xF8000
def prmBase : Nat := 0x0
def fxgBase : Nat := 0x200000
def cxlBase : Nat := 0x300000
def nvsBase : Nat := 0x400000
def intBase : Nat := 0x500000

def LKS_CTL : Nat := lksBase + 0x0
def LKS_CTL_ARM : Field := ⟨LKS_CTL, 0, 1⟩
def LKS_CTL_ACTIVE_DOM : Field := ⟨LKS_CTL, 1, 1⟩
def LKS_CTL_AUTO_SW : Field := ⟨LKS_CTL, 2, 1⟩
def LKS_CTL_STEP_EN : Field := ⟨LKS_CTL, 3, 1⟩
def LKS_STATUS : Nat := lksBase + 0x4
def LKS_STATUS_STATE : Field := ⟨LKS_STATUS, 0, 3⟩
def LKS_STATUS_CLK_SRC : Field := ⟨LKS_STATUS, 3, 1⟩
def LKS_STATUS_ACTIVE_DOM : Field := ⟨LKS_STATUS, 4, 1⟩
def LKS_STATUS_SLEWING : Field := ⟨LKS_STATUS, 5, 1⟩
def LKS_STATUS_FADJ_CLAMP : Field := ⟨LKS_STATUS, 6, 1⟩
def LKS_STATUS_PHASE_CLAMP : Field := ⟨LKS_STATUS, 7, 1⟩
def LKS_STATUS_LOAD_REFUSED : Field := ⟨LKS_STATUS, 8, 1⟩
def LKS_SNAP : Nat := lksBase + 0x10
def LKS_SNAP_TAKE : Field := ⟨LKS_SNAP, 0, 1⟩
def LKS_SNAP_SEC : Nat := lksBase + 0x18
def LKS_SNAP_SEC_SEC : Field := ⟨LKS_SNAP_SEC, 0, 64⟩
def LKS_SNAP_NS : Nat := lksBase + 0x20
def LKS_SNAP_NS_NS : Field := ⟨LKS_SNAP_NS, 0, 32⟩
def LKS_SNAP_FRAC : Nat := lksBase + 0x24
def LKS_SNAP_FRAC_FRAC : Field := ⟨LKS_SNAP_FRAC, 0, 16⟩
def LKS_LOAD_SEC : Nat := lksBase + 0x30
def LKS_LOAD_SEC_SEC : Field := ⟨LKS_LOAD_SEC, 0, 64⟩
def LKS_LOAD_NS : Nat := lksBase + 0x38
def LKS_LOAD_NS_NS : Field := ⟨LKS_LOAD_NS, 0, 32⟩
def LKS_CT_LOAD : Nat := lksBase + 0x3c
def LKS_CT_LOAD_GO : Field := ⟨LKS_CT_LOAD, 0, 1⟩
def LKS_ADDEND : Nat := lksBase + 0x40
def LKS_ADDEND_ADDEND : Field := ⟨LKS_ADDEND, 0, 48⟩
def LKS_BASE : Nat := lksBase + 0x48
def LKS_BASE_BASE : Field := ⟨LKS_BASE, 0, 48⟩
def LKS_FADJ : Nat := lksBase + 0x50
def LKS_FADJ_FADJ : Field := ⟨LKS_FADJ, 0, 32⟩
def LKS_SLEW_RATE : Nat := lksBase + 0x54
def LKS_SLEW_RATE_RATE : Field := ⟨LKS_SLEW_RATE, 0, 11⟩
def LKS_PHASE_REQ : Nat := lksBase + 0x58
def LKS_PHASE_REQ_REQ : Field := ⟨LKS_PHASE_REQ, 0, 64⟩
def LKS_SLEW_REMAIN : Nat := lksBase + 0x60
def LKS_SLEW_REMAIN_REMAIN : Field := ⟨LKS_SLEW_REMAIN, 0, 64⟩
def LKS_SERVO_CTL (i : Nat) : Nat := lksBase + 0x68 + 0x4 * i
def LKS_SERVO_CTL_EN (i : Nat) : Field := ⟨(LKS_SERVO_CTL i), 0, 1⟩
def LKS_SERVO_CTL_PROFILE (i : Nat) : Field := ⟨(LKS_SERVO_CTL i), 1, 1⟩
def LKS_SERVO_CTL_LANE (i : Nat) : Field := ⟨(LKS_SERVO_CTL i), 2, 6⟩
def LKS_SERVO_CTL_DOMAIN (i : Nat) : Field := ⟨(LKS_SERVO_CTL i), 8, 8⟩
def LKS_SERVO_CTL_BW (i : Nat) : Field := ⟨(LKS_SERVO_CTL i), 16, 2⟩
def LKS_SERVO_STAT : Nat := lksBase + 0x70
def LKS_SERVO_STAT_A_STATE : Field := ⟨LKS_SERVO_STAT, 0, 2⟩
def LKS_SERVO_STAT_B_STATE : Field := ⟨LKS_SERVO_STAT, 2, 2⟩
def LKS_SERVO_STAT_A_CLASS : Field := ⟨LKS_SERVO_STAT, 4, 8⟩
def LKS_SERVO_STAT_B_CLASS : Field := ⟨LKS_SERVO_STAT, 12, 8⟩
def LKS_DOMAIN_DIFF : Nat := lksBase + 0x78
def LKS_DOMAIN_DIFF_DIFF : Field := ⟨LKS_DOMAIN_DIFF, 0, 64⟩
def LKS_HOLDOVER_LIM : Nat := lksBase + 0x80
def LKS_HOLDOVER_LIM_SECONDS : Field := ⟨LKS_HOLDOVER_LIM, 0, 20⟩
def LKS_BC_CTL : Nat := lksBase + 0x84
def LKS_BC_CTL_STATIC : Field := ⟨LKS_BC_CTL, 0, 1⟩
def LKS_BC_CTL_PROFILE : Field := ⟨LKS_BC_CTL, 1, 1⟩
def LKS_BC_CTL_DOMAIN : Field := ⟨LKS_BC_CTL, 2, 8⟩
def LKS_BC_CTL_SYNC_RATE : Field := ⟨LKS_BC_CTL, 10, 8⟩
def LKS_BC_PORTS : Nat := lksBase + 0x88
def LKS_BC_PORTS_PORT_EN : Field := ⟨LKS_BC_PORTS, 0, 64⟩
def LKS_PTP_DROP : Nat := lksBase + 0x90
def LKS_PTP_DROP_UNARMED : Field := ⟨LKS_PTP_DROP, 0, 16⟩
def LKS_PTP_DROP_INVALID : Field := ⟨LKS_PTP_DROP, 16, 8⟩
def LKS_PTP_DROP_RESIDENCE : Field := ⟨LKS_PTP_DROP, 24, 7⟩
def LKS_PTP_DROP_CLR : Field := ⟨LKS_PTP_DROP, 31, 1⟩
def LKS_PPS_CTL : Nat := lksBase + 0x94
def LKS_PPS_CTL_WIDTH : Field := ⟨LKS_PPS_CTL, 0, 9⟩
def LKS_PPS_CTL_OUT_EN : Field := ⟨LKS_PPS_CTL, 9, 1⟩
def LKS_PPS_OUT_DLY : Nat := lksBase + 0x98
def LKS_PPS_OUT_DLY_DLY : Field := ⟨LKS_PPS_OUT_DLY, 0, 32⟩
def LKS_SYNCE_CTL : Nat := lksBase + 0x9c
def LKS_SYNCE_CTL_LANE : Field := ⟨LKS_SYNCE_CTL, 0, 6⟩
def LKS_SYNCE_CTL_DIV : Field := ⟨LKS_SYNCE_CTL, 6, 1⟩
def LKS_SYNCE_CTL_OUT_EN : Field := ⟨LKS_SYNCE_CTL, 7, 1⟩
def LKS_SYNCE_CTL_HYBRID : Field := ⟨LKS_SYNCE_CTL, 8, 1⟩
def LKS_SYNCE_CTL_LOCKED : Field := ⟨LKS_SYNCE_CTL, 9, 1⟩
def LKS_PTM_CTL : Nat := lksBase + 0xa0
def LKS_PTM_CTL_EN : Field := ⟨LKS_PTM_CTL, 0, 1⟩
def LKS_PTM_CTL_INTERVAL_MS : Field := ⟨LKS_PTM_CTL, 1, 10⟩
def LKS_PTM_HOST : Nat := lksBase + 0xa8
def LKS_PTM_HOST_HOST_TIME : Field := ⟨LKS_PTM_HOST, 0, 64⟩
def LKS_PTM_CT : Nat := lksBase + 0xb0
def LKS_PTM_CT_CT_AT : Field := ⟨LKS_PTM_CT, 0, 64⟩
def LKS_CI_OFS (i : Nat) : Nat := lksBase + 0x1000 + 0x8 * i
def LKS_CI_OFS_OFS (i : Nat) : Field := ⟨(LKS_CI_OFS i), 0, 64⟩
def LKS_CI_OFS_ERR : Nat := lksBase + 0x2000
def LKS_CI_OFS_ERR_LOCKED : Field := ⟨LKS_CI_OFS_ERR, 0, 1⟩
def LKS_QSLOT (q : Nat) : Nat := leafBase q + 0x0
def LKS_QSLOT_MU (q : Nat) : Field := ⟨(LKS_QSLOT q), 0, 3⟩
def LKS_QSLOT_OFS (q : Nat) : Nat := leafBase q + 0x8
def LKS_QSLOT_OFS_OFFSET (q : Nat) : Field := ⟨(LKS_QSLOT_OFS q), 0, 64⟩
def LKS_LANE_TXD (q i : Nat) : Nat := leafBase q + 0x100 + 0x10 * i
def LKS_LANE_TXD_DL_TX (q i : Nat) : Field := ⟨(LKS_LANE_TXD q i), 0, 32⟩
def LKS_LANE_RXD (q i : Nat) : Nat := leafBase q + 0x104 + 0x10 * i
def LKS_LANE_RXD_DL_RX (q i : Nat) : Field := ⟨(LKS_LANE_RXD q i), 0, 32⟩
def LKS_LANE_ASYM (q i : Nat) : Nat := leafBase q + 0x108 + 0x10 * i
def LKS_LANE_ASYM_ASYM (q i : Nat) : Field := ⟨(LKS_LANE_ASYM q i), 0, 32⟩
def LKS_LANE_CTL (q i : Nat) : Nat := leafBase q + 0x10c + 0x10 * i
def LKS_LANE_CTL_AUTO (q i : Nat) : Field := ⟨(LKS_LANE_CTL q i), 0, 1⟩
def LKS_LANE_RTT (q i : Nat) : Nat := leafBase q + 0x200 + 0x8 * i
def LKS_LANE_RTT_RTT_F (q i : Nat) : Field := ⟨(LKS_LANE_RTT q i), 0, 32⟩
def LKS_LANE_STAT (q i : Nat) : Nat := leafBase q + 0x204 + 0x8 * i
def LKS_LANE_STAT_CAL_DONE (q i : Nat) : Field := ⟨(LKS_LANE_STAT q i), 0, 1⟩
def LKS_LANE_STAT_RTT_VALID (q i : Nat) : Field := ⟨(LKS_LANE_STAT q i), 1, 1⟩
def LKS_LANE_STAT_JUMP (q i : Nat) : Field := ⟨(LKS_LANE_STAT q i), 2, 1⟩
def LKS_PORT_TXD (q i : Nat) : Nat := leafBase q + 0x400 + 0x10 * i
def LKS_PORT_TXD_DP_TX (q i : Nat) : Field := ⟨(LKS_PORT_TXD q i), 0, 32⟩
def LKS_PORT_RXD (q i : Nat) : Nat := leafBase q + 0x404 + 0x10 * i
def LKS_PORT_RXD_DP_RX (q i : Nat) : Field := ⟨(LKS_PORT_RXD q i), 0, 32⟩
def LKS_PORT_FINE (q i : Nat) : Nat := leafBase q + 0x408 + 0x10 * i
def LKS_PORT_FINE_FINE (q i : Nat) : Field := ⟨(LKS_PORT_FINE q i), 0, 32⟩
def EVT_PIN_CTL (i : Nat) : Nat := evtBase + 0x0 + 0x4 * i
def EVT_PIN_CTL_ARM (i : Nat) : Field := ⟨(EVT_PIN_CTL i), 0, 1⟩
def EVT_PIN_CTL_LEVEL (i : Nat) : Field := ⟨(EVT_PIN_CTL i), 1, 1⟩
def EVT_PIN_CTL_EDGE (i : Nat) : Field := ⟨(EVT_PIN_CTL i), 2, 2⟩
def EVT_PIN_CTL_IRQ_EN (i : Nat) : Field := ⟨(EVT_PIN_CTL i), 4, 1⟩
def EVT_LEVEL : Nat := evtBase + 0x40
def EVT_LEVEL_LEVEL : Field := ⟨EVT_LEVEL, 0, 16⟩
def EVT_LEVEL_PPS_IN : Field := ⟨EVT_LEVEL, 16, 1⟩
def EVT_HELD : Nat := evtBase + 0x44
def EVT_HELD_HELD : Field := ⟨EVT_HELD, 0, 16⟩
def EVT_PPS_CTL : Nat := evtBase + 0x48
def EVT_PPS_CTL_ARM : Field := ⟨EVT_PPS_CTL, 0, 1⟩
def EVT_PPS_CTL_IRQ_EN : Field := ⟨EVT_PPS_CTL, 4, 1⟩
def EVT_OVR (i : Nat) : Nat := evtBase + 0x80 + 0x4 * i
def EVT_OVR_COUNT (i : Nat) : Field := ⟨(EVT_OVR i), 0, 16⟩
def EVT_OVR_CLR (i : Nat) : Field := ⟨(EVT_OVR i), 31, 1⟩
def EVT_FIFO_STAT : Nat := evtBase + 0x100
def EVT_FIFO_STAT_FILL : Field := ⟨EVT_FIFO_STAT, 0, 9⟩
def EVT_FIFO_STAT_LOST : Field := ⟨EVT_FIFO_STAT, 16, 9⟩
def EVT_FIFO_STAT_CLR_LOST : Field := ⟨EVT_FIFO_STAT, 31, 1⟩
def EVT_FIFO_SEC : Nat := evtBase + 0x108
def EVT_FIFO_SEC_SEC : Field := ⟨EVT_FIFO_SEC, 0, 64⟩
def EVT_FIFO_NS : Nat := evtBase + 0x110
def EVT_FIFO_NS_NS : Field := ⟨EVT_FIFO_NS, 0, 32⟩
def EVT_FIFO_INFO : Nat := evtBase + 0x114
def EVT_FIFO_INFO_FRAC : Field := ⟨EVT_FIFO_INFO, 0, 16⟩
def EVT_FIFO_INFO_SOURCE : Field := ⟨EVT_FIFO_INFO, 16, 5⟩
def EVT_FIFO_INFO_RISING : Field := ⟨EVT_FIFO_INFO, 21, 1⟩
def EVT_FIFO_INFO_COALESCED : Field := ⟨EVT_FIFO_INFO, 22, 1⟩
def EVT_FIFO_INFO_VALID : Field := ⟨EVT_FIFO_INFO, 31, 1⟩
def EVT_FIFO_POP : Nat := evtBase + 0x118
def EVT_FIFO_POP_POP : Field := ⟨EVT_FIFO_POP, 0, 1⟩
def ADM_CTL (q : Nat) : Nat := admBase q + 0x0
def ADM_CTL_EN (q : Nat) : Field := ⟨(ADM_CTL q), 0, 1⟩
def ADM_CTL_IRQ_EN (q : Nat) : Field := ⟨(ADM_CTL q), 1, 1⟩
def ADM_STATUS (q : Nat) : Nat := admBase q + 0x4
def ADM_STATUS_PLANS (q : Nat) : Field := ⟨(ADM_STATUS q), 0, 9⟩
def ADM_STATUS_COUPLED (q : Nat) : Field := ⟨(ADM_STATUS q), 9, 7⟩
def ADM_STATUS_DELAY_VIOL (q : Nat) : Field := ⟨(ADM_STATUS q), 16, 1⟩
def ADM_IRQ (q : Nat) : Nat := admBase q + 0x8
def ADM_IRQ_DELAY_VIOL (q : Nat) : Field := ⟨(ADM_IRQ q), 0, 1⟩
def ADM_IRQ_PLAN_DROPPED (q : Nat) : Field := ⟨(ADM_IRQ q), 1, 1⟩
def ADM_IRQ_RESOURCE_LOST (q : Nat) : Field := ⟨(ADM_IRQ q), 2, 1⟩
def ADM_LIVE_NODES (q : Nat) : Nat := admBase q + 0xc
def ADM_LIVE_NODES_COUNT (q : Nat) : Field := ⟨(ADM_LIVE_NODES q), 0, 22⟩
def ADM_FREE_DRAM (q : Nat) : Nat := admBase q + 0x10
def ADM_FREE_DRAM_SHARES (q : Nat) : Field := ⟨(ADM_FREE_DRAM q), 0, 9⟩
def ADM_FREE_HOST (q : Nat) : Nat := admBase q + 0x14
def ADM_FREE_HOST_MBPS (q : Nat) : Field := ⟨(ADM_FREE_HOST q), 0, 15⟩
def ADM_FREE_NET (q i : Nat) : Nat := admBase q + 0x40 + 0x4 * i
def ADM_FREE_NET_MBPS (q i : Nat) : Field := ⟨(ADM_FREE_NET q i), 0, 16⟩
def ADM_CNT_OUT (q i : Nat) : Nat := admBase q + 0x100 + 0x4 * i
def ADM_CNT_OUT_COUNT (q i : Nat) : Field := ⟨(ADM_CNT_OUT q i), 0, 32⟩
def ADM_CNT_CLR (q : Nat) : Nat := admBase q + 0x140
def ADM_CNT_CLR_CLR (q : Nat) : Field := ⟨(ADM_CNT_CLR q), 0, 1⟩
def ADM_LAST_REF (q : Nat) : Nat := admBase q + 0x180
def ADM_LAST_REF_OUTCOME (q : Nat) : Field := ⟨(ADM_LAST_REF q), 0, 8⟩
def ADM_LAST_REF_DETAIL (q : Nat) : Field := ⟨(ADM_LAST_REF q), 8, 8⟩
def ADM_LAST_REF_TASK (q : Nat) : Field := ⟨(ADM_LAST_REF q), 16, 10⟩
def ADM_LAST_REF_RING (q : Nat) : Field := ⟨(ADM_LAST_REF q), 26, 6⟩
def ADM_LAST_TAG (q : Nat) : Nat := admBase q + 0x184
def ADM_LAST_TAG_TAG (q : Nat) : Field := ⟨(ADM_LAST_TAG q), 0, 32⟩
def ADM_RING_CLAMP (q i : Nat) : Nat := admBase q + 0x1000 + 0x8 * i
def ADM_RING_CLAMP_COUNT (q i : Nat) : Field := ⟨(ADM_RING_CLAMP q i), 0, 32⟩
def ADM_RING_CLAMP_LAST (q i : Nat) : Nat := admBase q + 0x1004 + 0x8 * i
def ADM_RING_CLAMP_LAST_OPCODE (q i : Nat) : Field := ⟨(ADM_RING_CLAMP_LAST q i), 0, 8⟩
def ADM_RING_CLAMP_LAST_FIELD (q i : Nat) : Field := ⟨(ADM_RING_CLAMP_LAST q i), 8, 8⟩
def ADM_PLAN_STAT (q i : Nat) : Nat := admBase q + 0x2000 + 0x4 * i
def ADM_PLAN_STAT_INSTALLED (q i : Nat) : Field := ⟨(ADM_PLAN_STAT q i), 0, 1⟩
def ADM_PLAN_STAT_HOME (q i : Nat) : Field := ⟨(ADM_PLAN_STAT q i), 1, 1⟩
def ADM_PLAN_STAT_PENDING (q i : Nat) : Field := ⟨(ADM_PLAN_STAT q i), 2, 1⟩
def ADM_PLAN_STAT_DELAY_VIOL (q i : Nat) : Field := ⟨(ADM_PLAN_STAT q i), 3, 1⟩
def ADM_PLAN_STAT_OP (q i : Nat) : Field := ⟨(ADM_PLAN_STAT q i), 4, 3⟩
def ADM_RING_CTL (q i : Nat) : Nat := admBase q + 0x4000 + 0x40 * i
def ADM_RING_CTL_EN (q i : Nat) : Field := ⟨(ADM_RING_CTL q i), 0, 1⟩
def ADM_RING_CTL_DRAINING (q i : Nat) : Field := ⟨(ADM_RING_CTL q i), 1, 1⟩
def ADM_RING_CTL_SRC (q i : Nat) : Field := ⟨(ADM_RING_CTL q i), 2, 3⟩
def ADM_RING_CTL_CMD_LOG2 (q i : Nat) : Field := ⟨(ADM_RING_CTL q i), 8, 5⟩
def ADM_RING_CTL_CQ_LOG2 (q i : Nat) : Field := ⟨(ADM_RING_CTL q i), 16, 5⟩
def ADM_RING_CMD_BASE (q i : Nat) : Nat := admBase q + 0x4008 + 0x40 * i
def ADM_RING_CMD_BASE_ADDR (q i : Nat) : Field := ⟨(ADM_RING_CMD_BASE q i), 12, 52⟩
def ADM_RING_CQ_BASE (q i : Nat) : Nat := admBase q + 0x4010 + 0x40 * i
def ADM_RING_CQ_BASE_ADDR (q i : Nat) : Field := ⟨(ADM_RING_CQ_BASE q i), 12, 52⟩
def ADM_RING_IDX (q i : Nat) : Nat := admBase q + 0x4018 + 0x40 * i
def ADM_RING_IDX_CMD_HEAD (q i : Nat) : Field := ⟨(ADM_RING_IDX q i), 0, 16⟩
def ADM_RING_IDX_CQ_TAIL (q i : Nat) : Field := ⟨(ADM_RING_IDX q i), 16, 16⟩
def ADM_RING_STAT (q i : Nat) : Nat := admBase q + 0x401c + 0x40 * i
def ADM_RING_STAT_CQ_FREE (q i : Nat) : Field := ⟨(ADM_RING_STAT q i), 0, 17⟩
def ADM_RING_STAT_HELD (q i : Nat) : Field := ⟨(ADM_RING_STAT q i), 17, 1⟩
def ADM_RING_STAT_OPEN_JOB (q i : Nat) : Field := ⟨(ADM_RING_STAT q i), 18, 1⟩
def ADM_RING_STAT_EVERY (q i : Nat) : Field := ⟨(ADM_RING_STAT q i), 19, 5⟩
def ADM_RING_STAT_EVERY_MISS (q i : Nat) : Field := ⟨(ADM_RING_STAT q i), 24, 8⟩
def ADM_RING_STAMP (q i : Nat) : Nat := admBase q + 0x4020 + 0x40 * i
def ADM_RING_STAMP_NS (q i : Nat) : Field := ⟨(ADM_RING_STAMP q i), 0, 32⟩
def ADM_RING_STAMP_SEC (q i : Nat) : Field := ⟨(ADM_RING_STAMP q i), 32, 32⟩
def DAH_STATUS (k : Nat) : Nat := dahBase k + 0x0
def DAH_STATUS_ONCHIP (k : Nat) : Field := ⟨(DAH_STATUS k), 0, 13⟩
def DAH_SPILLED (k : Nat) : Nat := dahBase k + 0x4
def DAH_SPILLED_COUNT (k : Nat) : Field := ⟨(DAH_SPILLED k), 0, 22⟩
def DAH_NEXT_NEED_SEC (k : Nat) : Nat := dahBase k + 0x40
def DAH_NEXT_NEED_SEC_SEC (k : Nat) : Field := ⟨(DAH_NEXT_NEED_SEC k), 0, 32⟩
def DAH_NEXT_NEED_NS (k : Nat) : Nat := dahBase k + 0x44
def DAH_NEXT_NEED_NS_NS (k : Nat) : Field := ⟨(DAH_NEXT_NEED_NS k), 0, 32⟩
def DAH_CNT_WAKE (k : Nat) : Nat := dahBase k + 0x48
def DAH_CNT_WAKE_WAKES (k : Nat) : Field := ⟨(DAH_CNT_WAKE k), 0, 32⟩
def DAH_CNT_NOSTART (k : Nat) : Nat := dahBase k + 0x4c
def DAH_CNT_NOSTART_NOSTART (k : Nat) : Field := ⟨(DAH_CNT_NOSTART k), 0, 32⟩
def DAH_PROG_SEL (k : Nat) : Nat := dahBase k + 0x80
def DAH_PROG_SEL_PROG (k : Nat) : Field := ⟨(DAH_PROG_SEL k), 0, 12⟩
def DAH_PROG_SEL_TILE (k : Nat) : Field := ⟨(DAH_PROG_SEL k), 16, 3⟩
def DAH_PROG_STAT (k : Nat) : Nat := dahBase k + 0x84
def DAH_PROG_STAT_ACTIVE (k : Nat) : Field := ⟨(DAH_PROG_STAT k), 0, 1⟩
def DAH_PROG_STAT_PENDING (k : Nat) : Field := ⟨(DAH_PROG_STAT k), 1, 1⟩
def DAH_PROG_STAT_RETIRING (k : Nat) : Field := ⟨(DAH_PROG_STAT k), 2, 1⟩
def DAH_PROG_STAT_FREE_UNITS (k : Nat) : Field := ⟨(DAH_PROG_STAT k), 16, 10⟩
def DAH_RES (k i : Nat) : Nat := dahBase k + 0x100 + 0x4 * i
def DAH_RES_NODE (k i : Nat) : Field := ⟨(DAH_RES k i), 0, 23⟩
def DAH_RES_DEPTH (k i : Nat) : Field := ⟨(DAH_RES k i), 23, 9⟩
def DAH_BUSY (k : Nat) : Nat := dahBase k + 0x140
def DAH_BUSY_BUSY (k : Nat) : Field := ⟨(DAH_BUSY k), 0, 14⟩
def TIL_STATUS (p : Nat) : Nat := tilBase p + 0x0
def TIL_STATUS_STATE (p : Nat) : Field := ⟨(TIL_STATUS p), 0, 3⟩
def TIL_STATUS_LOGICAL (p : Nat) : Field := ⟨(TIL_STATUS p), 4, 4⟩
def TIL_STATUS_LOOPD (p : Nat) : Field := ⟨(TIL_STATUS p), 8, 2⟩
def TIL_PC (p : Nat) : Nat := tilBase p + 0x4
def TIL_PC_PC (p : Nat) : Field := ⟨(TIL_PC p), 0, 17⟩
def TIL_PC_PROG (p : Nat) : Field := ⟨(TIL_PC p), 20, 12⟩
def TIL_FAULT (p : Nat) : Nat := tilBase p + 0x8
def TIL_FAULT_CAUSE (p : Nat) : Field := ⟨(TIL_FAULT p), 0, 8⟩
def TIL_FAULT_VALID (p : Nat) : Field := ⟨(TIL_FAULT p), 8, 1⟩
def TIL_FAULT_DOUBLE (p : Nat) : Field := ⟨(TIL_FAULT p), 9, 1⟩
def TIL_FAULT_TASK (p : Nat) : Field := ⟨(TIL_FAULT p), 16, 10⟩
def TIL_FAULT_PC (p : Nat) : Nat := tilBase p + 0xc
def TIL_FAULT_PC_PC (p : Nat) : Field := ⟨(TIL_FAULT_PC p), 0, 32⟩
def TIL_FAULT_ADDR (p : Nat) : Nat := tilBase p + 0x10
def TIL_FAULT_ADDR_ADDR (p : Nat) : Field := ⟨(TIL_FAULT_ADDR p), 0, 32⟩
def TIL_ECC (p : Nat) : Nat := tilBase p + 0x14
def TIL_ECC_IMEM (p : Nat) : Field := ⟨(TIL_ECC p), 0, 16⟩
def TIL_ECC_DMEM (p : Nat) : Field := ⟨(TIL_ECC p), 16, 16⟩
def TIL_USED (p : Nat) : Nat := tilBase p + 0x18
def TIL_USED_CYCLES (p : Nat) : Field := ⟨(TIL_USED p), 0, 31⟩
def TIL_USED_OVERRUN (p : Nat) : Field := ⟨(TIL_USED p), 31, 1⟩
def TIL_CNT_TASK (p : Nat) : Nat := tilBase p + 0x1c
def TIL_CNT_TASK_COUNT (p : Nat) : Field := ⟨(TIL_CNT_TASK p), 0, 32⟩
def TIL_MBOX (p : Nat) : Nat := tilBase p + 0x40
def TIL_MBOX_VALUE (p : Nat) : Field := ⟨(TIL_MBOX p), 0, 32⟩
def TIL_MBOX_STAT (p : Nat) : Nat := tilBase p + 0x44
def TIL_MBOX_STAT_OVR (p : Nat) : Field := ⟨(TIL_MBOX_STAT p), 0, 1⟩
def TIL_CSM_WIN (p i : Nat) : Nat := tilBase p + 0x100 + 0x8 * i
def TIL_CSM_WIN_RD (p i : Nat) : Field := ⟨(TIL_CSM_WIN p i), 0, 1⟩
def TIL_CSM_WIN_WR (p i : Nat) : Field := ⟨(TIL_CSM_WIN p i), 1, 1⟩
def TIL_CSM_WIN_BASE (p i : Nat) : Field := ⟨(TIL_CSM_WIN p i), 12, 11⟩
def TIL_CSM_LIM (p i : Nat) : Nat := tilBase p + 0x104 + 0x8 * i
def TIL_CSM_LIM_LIMIT (p i : Nat) : Field := ⟨(TIL_CSM_LIM p i), 12, 11⟩
def MEM_CTL (q : Nat) : Nat := memBase q + 0x0
def MEM_CTL_PATROL_EN (q : Nat) : Field := ⟨(MEM_CTL q), 0, 1⟩
def MEM_CTL_PATROL_HRS (q : Nat) : Field := ⟨(MEM_CTL q), 1, 5⟩
def MEM_CTL_SPARE_AUTO (q : Nat) : Field := ⟨(MEM_CTL q), 6, 1⟩
def MEM_HDM (q : Nat) : Nat := memBase q + 0x8
def MEM_HDM_BASE (q : Nat) : Field := ⟨(MEM_HDM q), 0, 7⟩
def MEM_HDM_SIZE (q : Nat) : Field := ⟨(MEM_HDM q), 8, 6⟩
def MEM_HDM_LOCKED (q : Nat) : Field := ⟨(MEM_HDM q), 16, 1⟩
def MEM_ECC_CNT (q : Nat) : Nat := memBase q + 0x10
def MEM_ECC_CNT_CORR (q : Nat) : Field := ⟨(MEM_ECC_CNT q), 0, 16⟩
def MEM_ECC_CNT_UNCORR (q : Nat) : Field := ⟨(MEM_ECC_CNT q), 16, 16⟩
def MEM_ECC_LOG (q : Nat) : Nat := memBase q + 0x18
def MEM_ECC_LOG_DPA (q : Nat) : Field := ⟨(MEM_ECC_LOG q), 5, 30⟩
def MEM_ECC_LOG_ADDRESS (q : Nat) : Field := ⟨(MEM_ECC_LOG q), 35, 1⟩
def MEM_ECC_LOG_VALID (q : Nat) : Field := ⟨(MEM_ECC_LOG q), 36, 1⟩
def MEM_PATROL_STAT (q : Nat) : Nat := memBase q + 0x20
def MEM_PATROL_STAT_PASSES (q : Nat) : Field := ⟨(MEM_PATROL_STAT q), 0, 32⟩
def MEM_SPARE (q : Nat) : Nat := memBase q + 0x28
def MEM_SPARE_USED (q : Nat) : Field := ⟨(MEM_SPARE q), 0, 12⟩
def MEM_SPARE_FREE_MIN (q : Nat) : Field := ⟨(MEM_SPARE q), 16, 5⟩
def MEM_SPARE_EXHAUSTED (q : Nat) : Field := ⟨(MEM_SPARE q), 21, 1⟩
def MEM_SPARE_REQ (q : Nat) : Field := ⟨(MEM_SPARE q), 31, 1⟩
def MEM_SF (q : Nat) : Nat := memBase q + 0x30
def MEM_SF_LINES (q : Nat) : Field := ⟨(MEM_SF q), 0, 19⟩
def MEM_ADDR_FAULT (q : Nat) : Nat := memBase q + 0x38
def MEM_ADDR_FAULT_ADDR (q : Nat) : Field := ⟨(MEM_ADDR_FAULT q), 0, 64⟩
def MEM_ADDR_FAULT_INFO (q : Nat) : Nat := memBase q + 0x40
def MEM_ADDR_FAULT_INFO_REASON (q : Nat) : Field := ⟨(MEM_ADDR_FAULT_INFO q), 0, 4⟩
def MEM_ADDR_FAULT_INFO_AGENT (q : Nat) : Field := ⟨(MEM_ADDR_FAULT_INFO q), 4, 2⟩
def MEM_ADDR_FAULT_INFO_CLUSTER (q : Nat) : Field := ⟨(MEM_ADDR_FAULT_INFO q), 8, 3⟩
def MEM_ADDR_FAULT_INFO_CHANNEL (q : Nat) : Field := ⟨(MEM_ADDR_FAULT_INFO q), 12, 4⟩
def MEM_ADDR_FAULT_INFO_VALID (q : Nat) : Field := ⟨(MEM_ADDR_FAULT_INFO q), 31, 1⟩
def MEM_HWIN_BASE (q i : Nat) : Nat := memBase q + 0x1000 + 0x20 * i
def MEM_HWIN_BASE_BASE (q i : Nat) : Field := ⟨(MEM_HWIN_BASE q i), 12, 36⟩
def MEM_HWIN_LIMIT (q i : Nat) : Nat := memBase q + 0x1008 + 0x20 * i
def MEM_HWIN_LIMIT_LIMIT (q i : Nat) : Field := ⟨(MEM_HWIN_LIMIT q i), 12, 36⟩
def MEM_HWIN_TARGET (q i : Nat) : Nat := memBase q + 0x1010 + 0x20 * i
def MEM_HWIN_TARGET_TARGET (q i : Nat) : Field := ⟨(MEM_HWIN_TARGET q i), 12, 40⟩
def MEM_HWIN_CTL (q i : Nat) : Nat := memBase q + 0x1018 + 0x20 * i
def MEM_HWIN_CTL_EN (q i : Nat) : Field := ⟨(MEM_HWIN_CTL q i), 0, 1⟩
def MEM_HWIN_CTL_R (q i : Nat) : Field := ⟨(MEM_HWIN_CTL q i), 1, 1⟩
def MEM_HWIN_CTL_W (q i : Nat) : Field := ⟨(MEM_HWIN_CTL q i), 2, 1⟩
def MEM_CSM_FENCE (k : Nat) : Nat := csmBase k + 0x0
def MEM_CSM_FENCE_BANKS (k : Nat) : Field := ⟨(MEM_CSM_FENCE k), 0, 32⟩
def MEM_CSM_ECC (k : Nat) : Nat := csmBase k + 0x4
def MEM_CSM_ECC_CORR (k : Nat) : Field := ⟨(MEM_CSM_ECC k), 0, 16⟩
def MEM_CSM_ECC_UNCORR (k : Nat) : Field := ⟨(MEM_CSM_ECC k), 16, 16⟩
def MEM_CSM_LOG (k : Nat) : Nat := csmBase k + 0x8
def MEM_CSM_LOG_GRANULE (k : Nat) : Field := ⟨(MEM_CSM_LOG k), 5, 18⟩
def MEM_CSM_LOG_ADDRESS (k : Nat) : Field := ⟨(MEM_CSM_LOG k), 23, 1⟩
def MEM_CSM_LOG_VALID (k : Nat) : Field := ⟨(MEM_CSM_LOG k), 24, 1⟩
def MEM_CSM_PATROL (k : Nat) : Nat := csmBase k + 0xc
def MEM_CSM_PATROL_EN (k : Nat) : Field := ⟨(MEM_CSM_PATROL k), 0, 1⟩
def MEM_CSM_PATROL_SUSPENDED (k : Nat) : Field := ⟨(MEM_CSM_PATROL k), 1, 1⟩
def MEM_CSM_PATROL_PASSES (k : Nat) : Field := ⟨(MEM_CSM_PATROL k), 16, 16⟩
def DMA_CH_DESC (k i : Nat) : Nat := dmaBase k + 0x0 + 0x100 * i
def DMA_CH_DESC_ADDR (k i : Nat) : Field := ⟨(DMA_CH_DESC k i), 0, 64⟩
def DMA_CH_CMD (k i : Nat) : Nat := dmaBase k + 0x8 + 0x100 * i
def DMA_CH_CMD_START (k i : Nat) : Field := ⟨(DMA_CH_CMD k i), 0, 1⟩
def DMA_CH_CMD_RESUME (k i : Nat) : Field := ⟨(DMA_CH_CMD k i), 1, 1⟩
def DMA_CH_CMD_ABORT (k i : Nat) : Field := ⟨(DMA_CH_CMD k i), 2, 1⟩
def DMA_CH_STAT (k i : Nat) : Nat := dmaBase k + 0xc + 0x100 * i
def DMA_CH_STAT_STATE (k i : Nat) : Field := ⟨(DMA_CH_STAT k i), 0, 3⟩
def DMA_CH_STAT_ENTRY (k i : Nat) : Field := ⟨(DMA_CH_STAT k i), 4, 5⟩
def DMA_CH_STAT_REASON (k i : Nat) : Field := ⟨(DMA_CH_STAT k i), 12, 4⟩
def DMA_CH_STAT_ECC (k i : Nat) : Field := ⟨(DMA_CH_STAT k i), 16, 1⟩
def DMA_CH_STAT_DONE (k i : Nat) : Field := ⟨(DMA_CH_STAT k i), 17, 1⟩
def DMA_CH_FOFS (k i : Nat) : Nat := dmaBase k + 0x10 + 0x100 * i
def DMA_CH_FOFS_FOFS (k i : Nat) : Field := ⟨(DMA_CH_FOFS k i), 0, 29⟩
def DMA_CH_BAD (k i : Nat) : Nat := dmaBase k + 0x18 + 0x100 * i
def DMA_CH_BAD_ADDR (k i : Nat) : Field := ⟨(DMA_CH_BAD k i), 0, 64⟩
def DMA_CNT (k : Nat) : Nat := dmaBase k + 0xf00
def DMA_CNT_DESC (k : Nat) : Field := ⟨(DMA_CNT k), 0, 32⟩
def DMA_CLAMP (k : Nat) : Nat := dmaBase k + 0xf04
def DMA_CLAMP_CLAMP (k : Nat) : Field := ⟨(DMA_CLAMP k), 0, 32⟩
def CVU_CTL (k i : Nat) : Nat := cvuBase k + 0x0 + 0x100 * i
def CVU_CTL_EN (k i : Nat) : Field := ⟨(CVU_CTL k i), 0, 1⟩
def CVU_CTL_MODE (k i : Nat) : Field := ⟨(CVU_CTL k i), 1, 2⟩
def CVU_CTL_SRC_KIND (k i : Nat) : Field := ⟨(CVU_CTL k i), 3, 3⟩
def CVU_CTL_SRC_IDX (k i : Nat) : Field := ⟨(CVU_CTL k i), 6, 4⟩
def CVU_CTL_UNIT (k i : Nat) : Field := ⟨(CVU_CTL k i), 10, 1⟩
def CVU_CTL_FOLD (k i : Nat) : Field := ⟨(CVU_CTL k i), 11, 2⟩
def CVU_CTL_FOLD_LEN (k i : Nat) : Field := ⟨(CVU_CTL k i), 13, 2⟩
def CVU_CTL_REFIN (k i : Nat) : Field := ⟨(CVU_CTL k i), 15, 1⟩
def CVU_CTL_REFOUT (k i : Nat) : Field := ⟨(CVU_CTL k i), 16, 1⟩
def CVU_CTL_WIDTH (k i : Nat) : Field := ⟨(CVU_CTL k i), 17, 6⟩
def CVU_CTL_IRQ_EN (k i : Nat) : Field := ⟨(CVU_CTL k i), 23, 1⟩
def CVU_CTL_CLAIMED (k i : Nat) : Field := ⟨(CVU_CTL k i), 24, 1⟩
def CVU_POLY (k i : Nat) : Nat := cvuBase k + 0x4 + 0x100 * i
def CVU_POLY_POLY (k i : Nat) : Field := ⟨(CVU_POLY k i), 0, 32⟩
def CVU_INIT (k i : Nat) : Nat := cvuBase k + 0x8 + 0x100 * i
def CVU_INIT_INIT (k i : Nat) : Field := ⟨(CVU_INIT k i), 0, 32⟩
def CVU_XOROUT (k i : Nat) : Nat := cvuBase k + 0xc + 0x100 * i
def CVU_XOROUT_XOROUT (k i : Nat) : Field := ⟨(CVU_XOROUT k i), 0, 32⟩
def CVU_EXPECT (k i : Nat) : Nat := cvuBase k + 0x10 + 0x100 * i
def CVU_EXPECT_EXPECT (k i : Nat) : Field := ⟨(CVU_EXPECT k i), 0, 32⟩
def CVU_RESULT (k i : Nat) : Nat := cvuBase k + 0x14 + 0x100 * i
def CVU_RESULT_VALUE (k i : Nat) : Field := ⟨(CVU_RESULT k i), 0, 32⟩
def CVU_RESULT_INFO (k i : Nat) : Nat := cvuBase k + 0x18 + 0x100 * i
def CVU_RESULT_INFO_SEQ (k i : Nat) : Field := ⟨(CVU_RESULT_INFO k i), 0, 16⟩
def CVU_RESULT_INFO_FILL (k i : Nat) : Field := ⟨(CVU_RESULT_INFO k i), 16, 5⟩
def CVU_RESULT_INFO_VALID (k i : Nat) : Field := ⟨(CVU_RESULT_INFO k i), 31, 1⟩
def CVU_POP (k i : Nat) : Nat := cvuBase k + 0x1c + 0x100 * i
def CVU_POP_POP (k i : Nat) : Field := ⟨(CVU_POP k i), 0, 1⟩
def CVU_CNT_OK (k i : Nat) : Nat := cvuBase k + 0x20 + 0x100 * i
def CVU_CNT_OK_OK (k i : Nat) : Field := ⟨(CVU_CNT_OK k i), 0, 32⟩
def CVU_CNT_BAD (k i : Nat) : Nat := cvuBase k + 0x24 + 0x100 * i
def CVU_CNT_BAD_BAD (k i : Nat) : Field := ⟨(CVU_CNT_BAD k i), 0, 32⟩
def CVU_STAT (k i : Nat) : Nat := cvuBase k + 0x28 + 0x100 * i
def CVU_STAT_LOST (k i : Nat) : Field := ⟨(CVU_STAT k i), 0, 16⟩
def CVU_STAT_MISMATCH (k i : Nat) : Field := ⟨(CVU_STAT k i), 16, 1⟩
def CVU_STAT_BAD_SEQ (k i : Nat) : Field := ⟨(CVU_STAT k i), 17, 15⟩
def XFE_STATUS (k : Nat) : Nat := xfeBase k + 0x0
def XFE_STATUS_BUSY (k : Nat) : Field := ⟨(XFE_STATUS k), 0, 1⟩
def XFE_STATUS_RESTART (k : Nat) : Field := ⟨(XFE_STATUS k), 1, 1⟩
def XFE_CNT_OP (k : Nat) : Nat := xfeBase k + 0x4
def XFE_CNT_OP_OPS (k : Nat) : Field := ⟨(XFE_CNT_OP k), 0, 32⟩
def XFE_CLAMP (k : Nat) : Nat := xfeBase k + 0x8
def XFE_CLAMP_CLAMP (k : Nat) : Field := ⟨(XFE_CLAMP k), 0, 32⟩
def XFE_CNT_RATIO (k : Nat) : Nat := xfeBase k + 0xc
def XFE_CNT_RATIO_RATIO (k : Nat) : Field := ⟨(XFE_CNT_RATIO k), 0, 32⟩
def XFE_CNT_LATE (k : Nat) : Nat := xfeBase k + 0x10
def XFE_CNT_LATE_LATE (k : Nat) : Field := ⟨(XFE_CNT_LATE k), 0, 16⟩
def XFE_CNT_LATE_EARLY (k : Nat) : Field := ⟨(XFE_CNT_LATE k), 16, 16⟩
def XFE_LAST_DROP (k : Nat) : Nat := xfeBase k + 0x14
def XFE_LAST_DROP_PORT (k : Nat) : Field := ⟨(XFE_LAST_DROP k), 0, 6⟩
def XFE_LAST_DROP_SYM (k : Nat) : Field := ⟨(XFE_LAST_DROP k), 8, 4⟩
def XFE_LAST_DROP_KIND (k : Nat) : Field := ⟨(XFE_LAST_DROP k), 12, 1⟩
def XFE_LAST_DROP_VALID (k : Nat) : Field := ⟨(XFE_LAST_DROP k), 31, 1⟩
def BME_STATUS (k : Nat) : Nat := bmeBase k + 0x0
def BME_STATUS_BUSY (k : Nat) : Field := ⟨(BME_STATUS k), 0, 1⟩
def BME_CNT_OP (k : Nat) : Nat := bmeBase k + 0x4
def BME_CNT_OP_OPS (k : Nat) : Field := ⟨(BME_CNT_OP k), 0, 32⟩
def BME_CLAMP (k : Nat) : Nat := bmeBase k + 0x8
def BME_CLAMP_CLAMP (k : Nat) : Field := ⟨(BME_CLAMP k), 0, 32⟩
def BME_CNT_SAT (k : Nat) : Nat := bmeBase k + 0xc
def BME_CNT_SAT_SAT (k : Nat) : Field := ⟨(BME_CNT_SAT k), 0, 32⟩
def BME_RING_STAT (q i : Nat) : Nat := ringBase q + 0x0 + 0x10 * i
def BME_RING_STAT_STATE (q i : Nat) : Field := ⟨(BME_RING_STAT q i), 0, 2⟩
def BME_RING_STAT_FREE (q i : Nat) : Field := ⟨(BME_RING_STAT q i), 8, 7⟩
def BME_RING_XFER (q i : Nat) : Nat := ringBase q + 0x4 + 0x10 * i
def BME_RING_XFER_XFERS (q i : Nat) : Field := ⟨(BME_RING_XFER q i), 0, 32⟩
def BME_RING_CHK (q i : Nat) : Nat := ringBase q + 0x8 + 0x10 * i
def BME_RING_CHK_CHECK (q i : Nat) : Field := ⟨(BME_RING_CHK q i), 0, 32⟩
def BME_RING_RTR (q i : Nat) : Nat := ringBase q + 0xc + 0x10 * i
def BME_RING_RTR_RETRAIN (q i : Nat) : Field := ⟨(BME_RING_RTR q i), 0, 32⟩
def PFE_LOAD (q : Nat) : Nat := pfeBase q + 0x0
def PFE_LOAD_POINTS (q : Nat) : Field := ⟨(PFE_LOAD q), 0, 21⟩
def PFE_STAT (q : Nat) : Nat := pfeBase q + 0x4
def PFE_STAT_REFUSED (q : Nat) : Field := ⟨(PFE_STAT q), 0, 1⟩
def PFE_STAT_CTX (q : Nat) : Field := ⟨(PFE_STAT q), 8, 5⟩
def PFE_CTX_CTL (q i : Nat) : Nat := pfeBase q + 0x1000 + 0x40 * i
def PFE_CTX_CTL_EN (q i : Nat) : Field := ⟨(PFE_CTX_CTL q i), 0, 1⟩
def PFE_CTX_CTL_FORMAT (q i : Nat) : Field := ⟨(PFE_CTX_CTL q i), 1, 4⟩
def PFE_CTX_CTL_CI (q i : Nat) : Field := ⟨(PFE_CTX_CTL q i), 10, 9⟩
def PFE_CTX_CTL_NREP (q i : Nat) : Field := ⟨(PFE_CTX_CTL q i), 20, 8⟩
def PFE_CTX_PORTS (q i : Nat) : Nat := pfeBase q + 0x1008 + 0x40 * i
def PFE_CTX_PORTS_PORTS (q i : Nat) : Field := ⟨(PFE_CTX_PORTS q i), 0, 48⟩
def PFE_CTX_FSHIFT (q i : Nat) : Nat := pfeBase q + 0x1010 + 0x40 * i
def PFE_CTX_FSHIFT_FSHIFT (q i : Nat) : Field := ⟨(PFE_CTX_FSHIFT q i), 0, 32⟩
def PFE_CTX_SCHED (q i : Nat) : Nat := pfeBase q + 0x1014 + 0x40 * i
def PFE_CTX_SCHED_PERIOD_MS (q i : Nat) : Field := ⟨(PFE_CTX_SCHED q i), 0, 8⟩
def PFE_CTX_SCHED_NOCC (q i : Nat) : Field := ⟨(PFE_CTX_SCHED q i), 8, 4⟩
def PFE_CTX_OCC (q i j : Nat) : Nat := pfeBase q + 0x1018 + 0x40 * i + 0x4 * j
def PFE_CTX_OCC_OFS (q i j : Nat) : Field := ⟨(PFE_CTX_OCC q i j), 0, 32⟩
def PFE_CTX_OUT (q i : Nat) : Nat := pfeBase q + 0x1038 + 0x40 * i
def PFE_CTX_OUT_ADDR (q i : Nat) : Field := ⟨(PFE_CTX_OUT q i), 0, 23⟩
def PFE_CTX_OUT_CLUSTER (q i : Nat) : Field := ⟨(PFE_CTX_OUT q i), 24, 3⟩
def PFE_CTX_OUT_NBUF (q i : Nat) : Field := ⟨(PFE_CTX_OUT q i), 27, 5⟩
def PFE_CTX_CNT (q i : Nat) : Nat := pfeBase q + 0x103c + 0x40 * i
def PFE_CTX_CNT_OCCASIONS (q i : Nat) : Field := ⟨(PFE_CTX_CNT q i), 0, 32⟩
def PFE_OBS_CTL (q i : Nat) : Nat := pfeBase q + 0x4000 + 0x10 * i
def PFE_OBS_CTL_OBS_LEN (q i : Nat) : Field := ⟨(PFE_OBS_CTL q i), 0, 8⟩
def PFE_OBS_CTL_OBS_SYM (q i : Nat) : Field := ⟨(PFE_OBS_CTL q i), 8, 4⟩
def PFE_OBS_CTL_EN (q i : Nat) : Field := ⟨(PFE_OBS_CTL q i), 12, 1⟩
def PFE_OBS_CTL_REF_CI (q i : Nat) : Field := ⟨(PFE_OBS_CTL q i), 13, 9⟩
def PFE_EVM (q i : Nat) : Nat := pfeBase q + 0x4004 + 0x10 * i
def PFE_EVM_EVM (q i : Nat) : Field := ⟨(PFE_EVM q i), 0, 16⟩
def PFE_EVM_VALID (q i : Nat) : Field := ⟨(PFE_EVM q i), 16, 1⟩
def PFE_EVM_MISSING (q i : Nat) : Field := ⟨(PFE_EVM q i), 17, 1⟩
def PFE_EVM_NO_SIGNAL (q i : Nat) : Field := ⟨(PFE_EVM q i), 18, 1⟩
def PFE_EVM_SLOT (q i : Nat) : Nat := pfeBase q + 0x4008 + 0x10 * i
def PFE_EVM_SLOT_SLOT (q i : Nat) : Field := ⟨(PFE_EVM_SLOT q i), 0, 32⟩
def PFE_EVM_DLY (q i : Nat) : Nat := pfeBase q + 0x400c + 0x10 * i
def PFE_EVM_DLY_TAU (q i : Nat) : Field := ⟨(PFE_EVM_DLY q i), 0, 32⟩
def TDD_CTL : Nat := tddBase + 0x0
def TDD_CTL_ARM : Field := ⟨TDD_CTL, 0, 1⟩
def TDD_GRP_CFG (i : Nat) : Nat := tddBase + 0x100 + 0x20 * i
def TDD_GRP_CFG_MODE (i : Nat) : Field := ⟨(TDD_GRP_CFG i), 0, 1⟩
def TDD_GRP_CFG_MU (i : Nat) : Field := ⟨(TDD_GRP_CFG i), 1, 3⟩
def TDD_GRP_CFG_REF_CI (i : Nat) : Field := ⟨(TDD_GRP_CFG i), 4, 9⟩
def TDD_GRP_CFG_FLEX_DL (i : Nat) : Field := ⟨(TDD_GRP_CFG i), 13, 1⟩
def TDD_GRP_CFG_P2_EN (i : Nat) : Field := ⟨(TDD_GRP_CFG i), 16, 1⟩
def TDD_GRP_CFG_PENDING (i : Nat) : Field := ⟨(TDD_GRP_CFG i), 31, 1⟩
def TDD_GRP_P1 (i : Nat) : Nat := tddBase + 0x104 + 0x20 * i
def TDD_GRP_P1_PERIOD (i : Nat) : Field := ⟨(TDD_GRP_P1 i), 0, 4⟩
def TDD_GRP_P1_DL_SLOTS (i : Nat) : Field := ⟨(TDD_GRP_P1 i), 4, 9⟩
def TDD_GRP_P1_DL_SYMS (i : Nat) : Field := ⟨(TDD_GRP_P1 i), 13, 4⟩
def TDD_GRP_P1_UL_SLOTS (i : Nat) : Field := ⟨(TDD_GRP_P1 i), 17, 9⟩
def TDD_GRP_P1_UL_SYMS (i : Nat) : Field := ⟨(TDD_GRP_P1 i), 26, 4⟩
def TDD_GRP_P2 (i : Nat) : Nat := tddBase + 0x108 + 0x20 * i
def TDD_GRP_P2_PERIOD (i : Nat) : Field := ⟨(TDD_GRP_P2 i), 0, 4⟩
def TDD_GRP_P2_DL_SLOTS (i : Nat) : Field := ⟨(TDD_GRP_P2 i), 4, 9⟩
def TDD_GRP_P2_DL_SYMS (i : Nat) : Field := ⟨(TDD_GRP_P2 i), 13, 4⟩
def TDD_GRP_P2_UL_SLOTS (i : Nat) : Field := ⟨(TDD_GRP_P2 i), 17, 9⟩
def TDD_GRP_P2_UL_SYMS (i : Nat) : Field := ⟨(TDD_GRP_P2 i), 26, 4⟩
def TDD_GRP_RAMP (i : Nat) : Nat := tddBase + 0x10c + 0x20 * i
def TDD_GRP_RAMP_RU (i : Nat) : Field := ⟨(TDD_GRP_RAMP i), 0, 3⟩
def TDD_GRP_RAMP_RD (i : Nat) : Field := ⟨(TDD_GRP_RAMP i), 4, 3⟩
def TDD_GRP_RAMP_TAIL (i : Nat) : Field := ⟨(TDD_GRP_RAMP i), 8, 8⟩
def TDD_GRP_RAMP_NTA_OFS (i : Nat) : Field := ⟨(TDD_GRP_RAMP i), 16, 12⟩
def TDD_PIN (i : Nat) : Nat := tddBase + 0x110 + 0x20 * i
def TDD_PIN_EN (i : Nat) : Field := ⟨(TDD_PIN i), 0, 1⟩
def TDD_PIN_POL (i : Nat) : Field := ⟨(TDD_PIN i), 1, 1⟩
def TDD_PIN_ADV (i : Nat) : Nat := tddBase + 0x114 + 0x20 * i
def TDD_PIN_ADV_ADV (i : Nat) : Field := ⟨(TDD_PIN_ADV i), 0, 32⟩
def TDD_PIN_LL (i : Nat) : Nat := tddBase + 0x118 + 0x20 * i
def TDD_PIN_LL_LEAD (i : Nat) : Field := ⟨(TDD_PIN_LL i), 0, 16⟩
def TDD_PIN_LL_LAG (i : Nat) : Field := ⟨(TDD_PIN_LL i), 16, 16⟩
def TDD_CNT (i : Nat) : Nat := tddBase + 0x11c + 0x20 * i
def TDD_CNT_SHORTENED (i : Nat) : Field := ⟨(TDD_CNT i), 0, 16⟩
def TDD_CNT_BLANKED (i : Nat) : Field := ⟨(TDD_CNT i), 16, 16⟩
def TDD_PORT_GRP (i : Nat) : Nat := tddBase + 0x400 + 0x4 * i
def TDD_PORT_GRP_GRP0 (i : Nat) : Field := ⟨(TDD_PORT_GRP i), 0, 4⟩
def TDD_PORT_GRP_GRP1 (i : Nat) : Field := ⟨(TDD_PORT_GRP i), 4, 4⟩
def TDD_PORT_GRP_GRP2 (i : Nat) : Field := ⟨(TDD_PORT_GRP i), 8, 4⟩
def TDD_PORT_GRP_GRP3 (i : Nat) : Field := ⟨(TDD_PORT_GRP i), 12, 4⟩
def TDD_PORT_GRP_GRP4 (i : Nat) : Field := ⟨(TDD_PORT_GRP i), 16, 4⟩
def TDD_PORT_GRP_GRP5 (i : Nat) : Field := ⟨(TDD_PORT_GRP i), 20, 4⟩
def TDD_PORT_GRP_GRP6 (i : Nat) : Field := ⟨(TDD_PORT_GRP i), 24, 4⟩
def TDD_PORT_GRP_GRP7 (i : Nat) : Field := ⟨(TDD_PORT_GRP i), 28, 4⟩
def TDD_RAMP_CFG (i : Nat) : Nat := tddBase + 0x800 + 0x100 * i
def TDD_RAMP_CFG_SHAPE (i : Nat) : Field := ⟨(TDD_RAMP_CFG i), 0, 2⟩
def TDD_RAMP_CFG_DUR (i : Nat) : Field := ⟨(TDD_RAMP_CFG i), 16, 14⟩
def TDD_RAMP_TAB (i j : Nat) : Nat := tddBase + 0x880 + 0x100 * i + 0x4 * j
def TDD_RAMP_TAB_A_EVEN (i j : Nat) : Field := ⟨(TDD_RAMP_TAB i j), 0, 16⟩
def TDD_RAMP_TAB_A_ODD (i j : Nat) : Field := ⟨(TDD_RAMP_TAB i j), 16, 16⟩
def DTE_STATUS (k : Nat) : Nat := dteBase k + 0x0
def DTE_STATUS_BUSY (k : Nat) : Field := ⟨(DTE_STATUS k), 0, 1⟩
def DTE_STATUS_RESTART (k : Nat) : Field := ⟨(DTE_STATUS k), 1, 1⟩
def DTE_CNT_OP (k : Nat) : Nat := dteBase k + 0x4
def DTE_CNT_OP_OPS (k : Nat) : Field := ⟨(DTE_CNT_OP k), 0, 32⟩
def DTE_CLAMP (k : Nat) : Nat := dteBase k + 0x8
def DTE_CLAMP_CLAMP (k : Nat) : Field := ⟨(DTE_CLAMP k), 0, 32⟩
def DTE_CNT_SAT (k : Nat) : Nat := dteBase k + 0xc
def DTE_CNT_SAT_SAT (k : Nat) : Field := ⟨(DTE_CNT_SAT k), 0, 32⟩
def DTE_CNT_CAPT (k : Nat) : Nat := dteBase k + 0x10
def DTE_CNT_CAPT_CAPTURED (k : Nat) : Field := ⟨(DTE_CNT_CAPT k), 0, 16⟩
def DTE_CNT_CAPT_RETRIED (k : Nat) : Field := ⟨(DTE_CNT_CAPT k), 16, 16⟩
def DTE_CNT_PRE (k : Nat) : Nat := dteBase k + 0x14
def DTE_CNT_PRE_PREAMBLES (k : Nat) : Field := ⟨(DTE_CNT_PRE k), 0, 32⟩
def DTE_CNT_TRUNC (k : Nat) : Nat := dteBase k + 0x18
def DTE_CNT_TRUNC_PRACH (k : Nat) : Field := ⟨(DTE_CNT_TRUNC k), 0, 16⟩
def DTE_CNT_TRUNC_SIZE (k : Nat) : Field := ⟨(DTE_CNT_TRUNC k), 16, 16⟩
def DTE_CNT_CLR (k : Nat) : Nat := dteBase k + 0x1c
def DTE_CNT_CLR_CLR (k : Nat) : Field := ⟨(DTE_CNT_CLR k), 0, 1⟩
def CDE_STATUS (k : Nat) : Nat := cdeBase k + 0x0
def CDE_STATUS_BUSY (k : Nat) : Field := ⟨(CDE_STATUS k), 0, 1⟩
def CDE_STATUS_RESTART (k : Nat) : Field := ⟨(CDE_STATUS k), 1, 1⟩
def CDE_CNT_OP (k : Nat) : Nat := cdeBase k + 0x4
def CDE_CNT_OP_OPS (k : Nat) : Field := ⟨(CDE_CNT_OP k), 0, 32⟩
def CDE_CLAMP (k : Nat) : Nat := cdeBase k + 0x8
def CDE_CLAMP_CLAMP (k : Nat) : Field := ⟨(CDE_CLAMP k), 0, 32⟩
def CDE_CNT_TRUNC (k : Nat) : Nat := cdeBase k + 0xc
def CDE_CNT_TRUNC_TRUNC (k : Nat) : Field := ⟨(CDE_CNT_TRUNC k), 0, 32⟩
def CDE_CNT_TB (k : Nat) : Nat := cdeBase k + 0x10
def CDE_CNT_TB_OK (k : Nat) : Field := ⟨(CDE_CNT_TB k), 0, 16⟩
def CDE_CNT_TB_FAIL (k : Nat) : Field := ⟨(CDE_CNT_TB k), 16, 16⟩
def CDE_CNT_ITER (k : Nat) : Nat := cdeBase k + 0x14
def CDE_CNT_ITER_ITERS (k : Nat) : Field := ⟨(CDE_CNT_ITER k), 0, 32⟩
def CDE_CNT_HB (k : Nat) : Nat := cdeBase k + 0x18
def CDE_CNT_HB_MISMATCH (k : Nat) : Field := ⟨(CDE_CNT_HB k), 0, 16⟩
def CDE_CNT_CLR (k : Nat) : Nat := cdeBase k + 0x1c
def CDE_CNT_CLR_CLR (k : Nat) : Field := ⟨(CDE_CNT_CLR k), 0, 1⟩
def CEE_STATUS (k : Nat) : Nat := ceeBase k + 0x0
def CEE_STATUS_BUSY (k : Nat) : Field := ⟨(CEE_STATUS k), 0, 1⟩
def CEE_STATUS_RESTART (k : Nat) : Field := ⟨(CEE_STATUS k), 1, 1⟩
def CEE_CNT_OP (k : Nat) : Nat := ceeBase k + 0x4
def CEE_CNT_OP_OPS (k : Nat) : Field := ⟨(CEE_CNT_OP k), 0, 32⟩
def CEE_CLAMP (k : Nat) : Nat := ceeBase k + 0x8
def CEE_CLAMP_CLAMP (k : Nat) : Field := ⟨(CEE_CLAMP k), 0, 32⟩
def CEE_CNT_TRUNC (k : Nat) : Nat := ceeBase k + 0xc
def CEE_CNT_TRUNC_TRUNC (k : Nat) : Field := ⟨(CEE_CNT_TRUNC k), 0, 32⟩
def CEE_CNT_CLR (k : Nat) : Nat := ceeBase k + 0x1c
def CEE_CNT_CLR_CLR (k : Nat) : Field := ⟨(CEE_CNT_CLR k), 0, 1⟩
def LAN_CTL (l : Nat) : Nat := lanBase l + 0x0
def LAN_CTL_EN (l : Nat) : Field := ⟨(LAN_CTL l), 0, 1⟩
def LAN_CTL_MODE (l : Nat) : Field := ⟨(LAN_CTL l), 1, 3⟩
def LAN_CTL_FEC (l : Nat) : Field := ⟨(LAN_CTL l), 4, 1⟩
def LAN_CTL_SPARE (l : Nat) : Field := ⟨(LAN_CTL l), 5, 1⟩
def LAN_CTL_IRQ_EN (l : Nat) : Field := ⟨(LAN_CTL l), 6, 1⟩
def LAN_STAT (l : Nat) : Nat := lanBase l + 0x4
def LAN_STAT_STATE (l : Nat) : Field := ⟨(LAN_STAT l), 0, 3⟩
def LAN_STAT_BLOCK_LOCK (l : Nat) : Field := ⟨(LAN_STAT l), 3, 1⟩
def LAN_STAT_FEC_LOCK (l : Nat) : Field := ⟨(LAN_STAT l), 4, 1⟩
def LAN_STAT_PEER_OK (l : Nat) : Field := ⟨(LAN_STAT l), 5, 1⟩
def LAN_STAT_PEER_ERR (l : Nat) : Field := ⟨(LAN_STAT l), 6, 1⟩
def LAN_STAT_DOWN (l : Nat) : Field := ⟨(LAN_STAT l), 7, 1⟩
def LAN_STAT_CAP_ERR (l : Nat) : Field := ⟨(LAN_STAT l), 8, 1⟩
def LAN_STAT_MAP_ERR (l : Nat) : Field := ⟨(LAN_STAT l), 9, 1⟩
def LAN_STAT_SERVES (l : Nat) : Field := ⟨(LAN_STAT l), 16, 4⟩
def LAN_STAT_SERVING (l : Nat) : Field := ⟨(LAN_STAT l), 20, 1⟩
def LAN_PORTS (l : Nat) : Nat := lanBase l + 0x8
def LAN_PORTS_PORT0 (l : Nat) : Field := ⟨(LAN_PORTS l), 0, 6⟩
def LAN_PORTS_PORT1 (l : Nat) : Field := ⟨(LAN_PORTS l), 8, 6⟩
def LAN_PORTS_PORT2 (l : Nat) : Field := ⟨(LAN_PORTS l), 16, 6⟩
def LAN_PORTS_PORT3 (l : Nat) : Field := ⟨(LAN_PORTS l), 24, 6⟩
def LAN_PORTS_VALID0 (l : Nat) : Field := ⟨(LAN_PORTS l), 7, 1⟩
def LAN_PORTS_VALID1 (l : Nat) : Field := ⟨(LAN_PORTS l), 15, 1⟩
def LAN_PORTS_VALID2 (l : Nat) : Field := ⟨(LAN_PORTS l), 23, 1⟩
def LAN_PORTS_VALID3 (l : Nat) : Field := ⟨(LAN_PORTS l), 31, 1⟩
def LAN_RATE (l : Nat) : Nat := lanBase l + 0xc
def LAN_RATE_RATE (l : Nat) : Field := ⟨(LAN_RATE l), 0, 4⟩
def LAN_EQ (l : Nat) : Nat := lanBase l + 0x10
def LAN_EQ_PRE (l : Nat) : Field := ⟨(LAN_EQ l), 0, 5⟩
def LAN_EQ_MAIN (l : Nat) : Field := ⟨(LAN_EQ l), 8, 7⟩
def LAN_EQ_POST (l : Nat) : Field := ⟨(LAN_EQ l), 16, 5⟩
def LAN_EQ_EFF (l : Nat) : Nat := lanBase l + 0x14
def LAN_EQ_EFF_TAPS (l : Nat) : Field := ⟨(LAN_EQ_EFF l), 0, 21⟩
def LAN_RXA (l : Nat) : Nat := lanBase l + 0x18
def LAN_RXA_ADAPTED (l : Nat) : Field := ⟨(LAN_RXA l), 0, 1⟩
def LAN_RXA_MARGIN (l : Nat) : Field := ⟨(LAN_RXA l), 8, 8⟩
def LAN_SPARE (l : Nat) : Nat := lanBase l + 0x1c
def LAN_SPARE_COVERS (l : Nat) : Field := ⟨(LAN_SPARE l), 0, 16⟩
def LAN_SPARE_AUTO (l : Nat) : Field := ⟨(LAN_SPARE l), 16, 1⟩
def LAN_SPARE_REQ_LANE (l : Nat) : Field := ⟨(LAN_SPARE l), 17, 4⟩
def LAN_SPARE_SWITCH (l : Nat) : Field := ⟨(LAN_SPARE l), 21, 1⟩
def LAN_ETH (l : Nat) : Nat := lanBase l + 0x20
def LAN_ETH_VLAN_EN (l : Nat) : Field := ⟨(LAN_ETH l), 0, 1⟩
def LAN_ETH_VID (l : Nat) : Field := ⟨(LAN_ETH l), 1, 12⟩
def LAN_ETH_MQ_OTHER (l : Nat) : Field := ⟨(LAN_ETH l), 13, 1⟩
def LAN_ETH_MTU (l : Nat) : Field := ⟨(LAN_ETH l), 14, 14⟩
def LAN_MAC_LO (l : Nat) : Nat := lanBase l + 0x24
def LAN_MAC_LO_MAC_LO (l : Nat) : Field := ⟨(LAN_MAC_LO l), 0, 32⟩
def LAN_MAC_HI (l : Nat) : Nat := lanBase l + 0x28
def LAN_MAC_HI_MAC_HI (l : Nat) : Field := ⟨(LAN_MAC_HI l), 0, 16⟩
def LAN_FDPORTS (l : Nat) : Nat := lanBase l + 0x30
def LAN_FDPORTS_PORTS (l : Nat) : Field := ⟨(LAN_FDPORTS l), 0, 48⟩
def LAN_CNT (l i : Nat) : Nat := lanBase l + 0x100 + 0x4 * i
def LAN_CNT_COUNT (l i : Nat) : Field := ⟨(LAN_CNT l i), 0, 32⟩
def LAN_CNT_CLR (l : Nat) : Nat := lanBase l + 0x13c
def LAN_CNT_CLR_CLR (l : Nat) : Field := ⟨(LAN_CNT_CLR l), 0, 1⟩
def LAN_MQ_TX (l : Nat) : Nat := lanBase l + 0x200
def LAN_MQ_TX_DATA (l : Nat) : Field := ⟨(LAN_MQ_TX l), 0, 32⟩
def LAN_MQ_TXCTL (l : Nat) : Nat := lanBase l + 0x204
def LAN_MQ_TXCTL_LEN (l : Nat) : Field := ⟨(LAN_MQ_TXCTL l), 0, 14⟩
def LAN_MQ_TXCTL_SEND (l : Nat) : Field := ⟨(LAN_MQ_TXCTL l), 31, 1⟩
def LAN_MQ_RX (l : Nat) : Nat := lanBase l + 0x208
def LAN_MQ_RX_DATA (l : Nat) : Field := ⟨(LAN_MQ_RX l), 0, 32⟩
def LAN_MQ_RXSTAT (l : Nat) : Nat := lanBase l + 0x20c
def LAN_MQ_RXSTAT_LEN (l : Nat) : Field := ⟨(LAN_MQ_RXSTAT l), 0, 14⟩
def LAN_MQ_RXSTAT_FILL (l : Nat) : Field := ⟨(LAN_MQ_RXSTAT l), 16, 5⟩
def LAN_MQ_RXSTAT_VALID (l : Nat) : Field := ⟨(LAN_MQ_RXSTAT l), 31, 1⟩
def LAN_MQ_RXPOP (l : Nat) : Nat := lanBase l + 0x210
def LAN_MQ_RXPOP_POP (l : Nat) : Field := ⟨(LAN_MQ_RXPOP l), 0, 1⟩
def LAN_FWD_LO (l i : Nat) : Nat := lanBase l + 0x300 + 0x8 * i
def LAN_FWD_LO_MAC_LO (l i : Nat) : Field := ⟨(LAN_FWD_LO l i), 0, 32⟩
def LAN_FWD_HI (l i : Nat) : Nat := lanBase l + 0x304 + 0x8 * i
def LAN_FWD_HI_MAC_HI (l i : Nat) : Field := ⟨(LAN_FWD_HI l i), 0, 16⟩
def LAN_FWD_HI_EGRESS (l i : Nat) : Field := ⟨(LAN_FWD_HI l i), 16, 4⟩
def LAN_FWD_HI_EN (l i : Nat) : Field := ⟨(LAN_FWD_HI l i), 31, 1⟩
def CXL_LINK_STAT : Nat := cxlBase + 0x20000
def CXL_LINK_STAT_RATE : Field := ⟨CXL_LINK_STAT, 0, 3⟩
def CXL_LINK_STAT_WIDTH : Field := ⟨CXL_LINK_STAT, 3, 2⟩
def CXL_LINK_STAT_FLIT : Field := ⟨CXL_LINK_STAT, 5, 2⟩
def CXL_LINK_STAT_CXL : Field := ⟨CXL_LINK_STAT, 7, 1⟩
def CXL_LINK_STAT_CACHE_EN : Field := ⟨CXL_LINK_STAT, 8, 1⟩
def CXL_LINK_STAT_MEM_EN : Field := ⟨CXL_LINK_STAT, 9, 1⟩
def CXL_LINK_STAT_RESETS : Field := ⟨CXL_LINK_STAT, 16, 16⟩
def CXL_LINK_CNT : Nat := cxlBase + 0x20004
def CXL_LINK_CNT_RECOV : Field := ⟨CXL_LINK_CNT, 0, 16⟩
def CXL_LINK_CNT_LATE_REC : Field := ⟨CXL_LINK_CNT, 16, 16⟩
def CXL_LOST : Nat := cxlBase + 0x20008
def CXL_LOST_LOST_WR : Field := ⟨CXL_LOST, 0, 32⟩
def CXL_BUDGET : Nat := cxlBase + 0x20010
def CXL_BUDGET_MBPS : Field := ⟨CXL_BUDGET, 0, 15⟩
def CXL_HDM_STAT : Nat := cxlBase + 0x20014
def CXL_HDM_STAT_COMMITTED : Field := ⟨CXL_HDM_STAT, 0, 4⟩
def CXL_HDM_STAT_ERR : Field := ⟨CXL_HDM_STAT, 8, 4⟩
def CXL_IDE_STAT : Nat := cxlBase + 0x20018
def CXL_IDE_STAT_CM_STATE : Field := ⟨CXL_IDE_STAT, 0, 2⟩
def CXL_IDE_STAT_CM_SKID : Field := ⟨CXL_IDE_STAT, 2, 1⟩
def CXL_IDE_STAT_IO_STATE : Field := ⟨CXL_IDE_STAT, 3, 2⟩
def CXL_IDE_STAT_KSET_TX : Field := ⟨CXL_IDE_STAT, 5, 1⟩
def CXL_IDE_STAT_KSET_RX : Field := ⟨CXL_IDE_STAT, 6, 1⟩
def CXL_IDE_STAT_FAILS : Field := ⟨CXL_IDE_STAT, 8, 8⟩
def CXL_BAD_ACC : Nat := cxlBase + 0x2001c
def CXL_BAD_ACC_BAR0 : Field := ⟨CXL_BAD_ACC, 0, 16⟩
def CXL_BAD_ACC_BAR2 : Field := ⟨CXL_BAD_ACC, 16, 16⟩
def CXL_CNT_CLR : Nat := cxlBase + 0x20020
def CXL_CNT_CLR_CLR : Field := ⟨CXL_CNT_CLR, 0, 1⟩
def INT_CTL : Nat := intBase + 0x0
def INT_CTL_CLR_CNT : Field := ⟨INT_CTL, 0, 1⟩
def INT_ACK : Nat := intBase + 0x4
def INT_ACK_SOURCE : Field := ⟨INT_ACK, 0, 10⟩
def INT_CNT_MSG : Nat := intBase + 0x8
def INT_CNT_MSG_COUNT : Field := ⟨INT_CNT_MSG, 0, 32⟩
def INT_ACTIVE (i : Nat) : Nat := intBase + 0x100 + 0x4 * i
def INT_ACTIVE_ACTIVE (i : Nat) : Field := ⟨(INT_ACTIVE i), 0, 32⟩
def INT_STUCK (i : Nat) : Nat := intBase + 0x180 + 0x4 * i
def INT_STUCK_STUCK (i : Nat) : Field := ⟨(INT_STUCK i), 0, 32⟩
def INT_SRC_CFG (i : Nat) : Nat := intBase + 0x1000 + 0x4 * i
def INT_SRC_CFG_VECTOR (i : Nat) : Field := ⟨(INT_SRC_CFG i), 0, 11⟩
def INT_SRC_CFG_EN (i : Nat) : Field := ⟨(INT_SRC_CFG i), 11, 1⟩
def INT_SRC_CFG_MIN_GAP (i : Nat) : Field := ⟨(INT_SRC_CFG i), 12, 10⟩
def INT_SRC_CFG_STUCK_MS (i : Nat) : Field := ⟨(INT_SRC_CFG i), 22, 10⟩
def INT_SRC_STAT (i : Nat) : Nat := intBase + 0x2000 + 0x4 * i
def INT_SRC_STAT_ASSERTED (i : Nat) : Field := ⟨(INT_SRC_STAT i), 0, 1⟩
def INT_SRC_STAT_PEND (i : Nat) : Field := ⟨(INT_SRC_STAT i), 1, 1⟩
def INT_SRC_STAT_STUCK (i : Nat) : Field := ⟨(INT_SRC_STAT i), 2, 1⟩
def INT_SRC_STAT_KIND (i : Nat) : Field := ⟨(INT_SRC_STAT i), 3, 1⟩
def INT_SRC_STAT_DUE (i : Nat) : Field := ⟨(INT_SRC_STAT i), 4, 1⟩
def INT_SRC_STAT_COALESCED (i : Nat) : Field := ⟨(INT_SRC_STAT i), 16, 16⟩
def PHX_CTL (p : Nat) : Nat := phxBase p + 0x0
def PHX_CTL_IO_EN (p : Nat) : Field := ⟨(PHX_CTL p), 0, 1⟩
def PHX_CTL_AUTO_RESTART (p : Nat) : Field := ⟨(PHX_CTL p), 1, 1⟩
def PHX_CTL_IRQ_EN (p : Nat) : Field := ⟨(PHX_CTL p), 2, 1⟩
def PHX_CTL_RB_EN (p : Nat) : Field := ⟨(PHX_CTL p), 3, 1⟩
def PHX_STAT (p : Nat) : Nat := phxBase p + 0x4
def PHX_STAT_STATE (p : Nat) : Field := ⟨(PHX_STAT p), 0, 2⟩
def PHX_STAT_LOAD_ERR (p : Nat) : Field := ⟨(PHX_STAT p), 2, 1⟩
def PHX_STAT_CARE (p : Nat) : Field := ⟨(PHX_STAT p), 3, 1⟩
def PHX_STAT_REASON (p : Nat) : Field := ⟨(PHX_STAT p), 4, 4⟩
def PHX_STAT_SLOT (p : Nat) : Field := ⟨(PHX_STAT p), 8, 6⟩
def PHX_LOAD (p : Nat) : Nat := phxBase p + 0x8
def PHX_LOAD_SLOT (p : Nat) : Field := ⟨(PHX_LOAD p), 0, 6⟩
def PHX_LOAD_ABORT (p : Nat) : Field := ⟨(PHX_LOAD p), 30, 1⟩
def PHX_LOAD_GO (p : Nat) : Field := ⟨(PHX_LOAD p), 31, 1⟩
def PHX_LOAD_SW (p : Nat) : Nat := phxBase p + 0xc
def PHX_LOAD_SW_SLOT_NUM (p : Nat) : Field := ⟨(PHX_LOAD_SW p), 0, 32⟩
def PHX_LOAD_STAT (p : Nat) : Nat := phxBase p + 0x10
def PHX_LOAD_STAT_STATE (p : Nat) : Field := ⟨(PHX_LOAD_STAT p), 0, 3⟩
def PHX_LOAD_STAT_REASON (p : Nat) : Field := ⟨(PHX_LOAD_STAT p), 4, 4⟩
def PHX_LOAD_STAT_RECORD (p : Nat) : Field := ⟨(PHX_LOAD_STAT p), 8, 18⟩
def PHX_LANES (p : Nat) : Nat := phxBase p + 0x14
def PHX_LANES_ATT (p : Nat) : Field := ⟨(PHX_LANES p), 0, 16⟩
def PHX_BW (p : Nat) : Nat := phxBase p + 0x18
def PHX_BW_SHARES (p : Nat) : Field := ⟨(PHX_BW p), 0, 4⟩
def PHX_DWIN_BASE (p : Nat) : Nat := phxBase p + 0x20
def PHX_DWIN_BASE_BASE (p : Nat) : Field := ⟨(PHX_DWIN_BASE p), 12, 23⟩
def PHX_DWIN_LIMIT (p : Nat) : Nat := phxBase p + 0x28
def PHX_DWIN_LIMIT_LIMIT (p : Nat) : Field := ⟨(PHX_DWIN_LIMIT p), 12, 23⟩
def PHX_CLK (p : Nat) : Nat := phxBase p + 0x30
def PHX_CLK_MHZ (p : Nat) : Field := ⟨(PHX_CLK p), 0, 10⟩
def PHX_KEY (p : Nat) : Nat := phxBase p + 0x34
def PHX_KEY_KEYSRC (p : Nat) : Field := ⟨(PHX_KEY p), 0, 1⟩
def PHX_KEY_KEYSLOT (p : Nat) : Field := ⟨(PHX_KEY p), 1, 4⟩
def PHX_CMD (p : Nat) : Nat := phxBase p + 0x38
def PHX_CMD_RESTART (p : Nat) : Field := ⟨(PHX_CMD p), 0, 1⟩
def PHX_IRQ (p : Nat) : Nat := phxBase p + 0x3c
def PHX_IRQ_CARE (p : Nat) : Field := ⟨(PHX_IRQ p), 0, 1⟩
def PHX_IRQ_SWAPPED (p : Nat) : Field := ⟨(PHX_IRQ p), 1, 1⟩
def PHX_IRQ_ABORT (p : Nat) : Field := ⟨(PHX_IRQ p), 2, 1⟩
def PHX_IRQ_ATT_ERR (p : Nat) : Field := ⟨(PHX_IRQ p), 3, 1⟩
def PHX_IRQ_BW_REFUSED (p : Nat) : Field := ⟨(PHX_IRQ p), 4, 1⟩
def PHX_IRQ_USER (p : Nat) : Field := ⟨(PHX_IRQ p), 5, 1⟩
def PHX_ID (p : Nat) : Nat := phxBase p + 0x40
def PHX_ID_STREAM_ID (p : Nat) : Field := ⟨(PHX_ID p), 0, 32⟩
def PHX_CNT_ERR (p : Nat) : Nat := phxBase p + 0x44
def PHX_CNT_ERR_ERRORS (p : Nat) : Field := ⟨(PHX_CNT_ERR p), 0, 32⟩
def SCR_CTL (z : Nat) : Nat := scrBase z + 0x0
def SCR_CTL_EN (z : Nat) : Field := ⟨(SCR_CTL z), 0, 1⟩
def SCR_CTL_REPAIR_EN (z : Nat) : Field := ⟨(SCR_CTL z), 1, 1⟩
def SCR_CTL_NBR_EN (z : Nat) : Field := ⟨(SCR_CTL z), 2, 1⟩
def SCR_CTL_GO (z : Nat) : Field := ⟨(SCR_CTL z), 31, 1⟩
def SCR_STAT (z : Nat) : Nat := scrBase z + 0x4
def SCR_STAT_HALTED (z : Nat) : Field := ⟨(SCR_STAT z), 0, 1⟩
def SCR_STAT_LONG (z : Nat) : Field := ⟨(SCR_STAT z), 1, 1⟩
def SCR_STAT_PASSES (z : Nat) : Field := ⟨(SCR_STAT z), 16, 16⟩
def SCR_CNT (z i : Nat) : Nat := scrBase z + 0x8 + 0x4 * i
def SCR_CNT_COUNT (z i : Nat) : Field := ⟨(SCR_CNT z i), 0, 32⟩
def SCR_LAST (z : Nat) : Nat := scrBase z + 0x14
def SCR_LAST_FAR (z : Nat) : Field := ⟨(SCR_LAST z), 0, 18⟩
def SCR_LAST_CARE (z : Nat) : Field := ⟨(SCR_LAST z), 18, 1⟩
def SCR_LAST_REPAIRED (z : Nat) : Field := ⟨(SCR_LAST z), 19, 1⟩
def SCR_LAST_VALID (z : Nat) : Field := ⟨(SCR_LAST z), 31, 1⟩
def SCR_CHK (z : Nat) : Nat := scrBase z + 0x20
def SCR_CHK_CHK (z : Nat) : Field := ⟨(SCR_CHK z), 0, 32⟩
def SCR_NBR (z : Nat) : Nat := scrBase z + 0x24
def SCR_NBR_TARGET (z : Nat) : Field := ⟨(SCR_NBR z), 0, 2⟩
def SCR_NBR_FAIL (z : Nat) : Field := ⟨(SCR_NBR z), 2, 1⟩
def SCR_NBR_SKIPPED (z : Nat) : Field := ⟨(SCR_NBR z), 8, 8⟩
def SCR_NBR_OK (z : Nat) : Field := ⟨(SCR_NBR z), 16, 16⟩
def SCR_VOTE (z : Nat) : Nat := scrBase z + 0x28
def SCR_VOTE_VOTES (z : Nat) : Field := ⟨(SCR_VOTE z), 0, 32⟩
def PRM_ID : Nat := prmBase + 0x0
def PRM_ID_FL : Field := ⟨PRM_ID, 0, 8⟩
def PRM_ID_STEP : Field := ⟨PRM_ID, 8, 4⟩
def PRM_ID_PART : Field := ⟨PRM_ID, 16, 16⟩
def PRM_BOOT : Nat := prmBase + 0x4
def PRM_BOOT_STAGE : Field := ⟨PRM_BOOT, 0, 4⟩
def PRM_BOOT_LATE : Field := ⟨PRM_BOOT, 4, 8⟩
def PRM_BOOT_FW_IMAGE : Field := ⟨PRM_BOOT, 12, 1⟩
def PRM_RST : Nat := prmBase + 0x8
def PRM_RST_CHIP : Field := ⟨PRM_RST, 0, 1⟩
def PRM_RST_CAUSE : Field := ⟨PRM_RST, 8, 4⟩
def PRM_RST_RAIL : Field := ⟨PRM_RST, 16, 5⟩
def PRM_AVS (i j : Nat) : Nat := prmBase + 0x40 + 0x20 * i + 0x4 * j
def PRM_AVS_MV (i j : Nat) : Field := ⟨(PRM_AVS i j), 0, 11⟩
def PRM_Q_CTL (i : Nat) : Nat := prmBase + 0x100 + 0x10 * i
def PRM_Q_CTL_TARGET (i : Nat) : Field := ⟨(PRM_Q_CTL i), 0, 2⟩
def PRM_Q_CTL_LOCK (i : Nat) : Field := ⟨(PRM_Q_CTL i), 2, 1⟩
def PRM_Q_CTL_RESET (i : Nat) : Field := ⟨(PRM_Q_CTL i), 3, 1⟩
def PRM_Q_STAT (i : Nat) : Nat := prmBase + 0x104 + 0x10 * i
def PRM_Q_STAT_STATE (i : Nat) : Field := ⟨(PRM_Q_STAT i), 0, 3⟩
def PRM_Q_STAT_BOOT_FAIL (i : Nat) : Field := ⟨(PRM_Q_STAT i), 3, 1⟩
def PRM_Q_REFUSE (i : Nat) : Nat := prmBase + 0x108 + 0x10 * i
def PRM_Q_REFUSE_COUNT (i : Nat) : Field := ⟨(PRM_Q_REFUSE i), 0, 24⟩
def PRM_Q_REFUSE_CODE (i : Nat) : Field := ⟨(PRM_Q_REFUSE i), 24, 4⟩
def PRM_RAIL_CFG (i : Nat) : Nat := prmBase + 0x400 + 0x10 * i
def PRM_RAIL_CFG_ADDR (i : Nat) : Field := ⟨(PRM_RAIL_CFG i), 0, 7⟩
def PRM_RAIL_CFG_PAGE (i : Nat) : Field := ⟨(PRM_RAIL_CFG i), 8, 4⟩
def PRM_RAIL_CFG_SLEW (i : Nat) : Field := ⟨(PRM_RAIL_CFG i), 12, 12⟩
def PRM_RAIL_STAT (i : Nat) : Nat := prmBase + 0x404 + 0x10 * i
def PRM_RAIL_STAT_TARGET (i : Nat) : Field := ⟨(PRM_RAIL_STAT i), 0, 11⟩
def PRM_RAIL_STAT_PMB_ERR (i : Nat) : Field := ⟨(PRM_RAIL_STAT i), 11, 1⟩
def PRM_RAIL_STAT_UNSETTLED (i : Nat) : Field := ⟨(PRM_RAIL_STAT i), 12, 1⟩
def PRM_RAIL_STAT_CHANGING (i : Nat) : Field := ⟨(PRM_RAIL_STAT i), 13, 1⟩
def PRM_RAIL_TEL (i : Nat) : Nat := prmBase + 0x408 + 0x10 * i
def PRM_RAIL_TEL_VOUT (i : Nat) : Field := ⟨(PRM_RAIL_TEL i), 0, 16⟩
def PRM_RAIL_TEL_IOUT (i : Nat) : Field := ⟨(PRM_RAIL_TEL i), 16, 16⟩
def PRM_MON_CTL : Nat := prmBase + 0x800
def PRM_MON_CTL_AUTO_STEP : Field := ⟨PRM_MON_CTL, 0, 1⟩
def PRM_MON_WARN : Nat := prmBase + 0x804
def PRM_MON_WARN_WARN : Field := ⟨PRM_MON_WARN, 0, 32⟩
def PRM_THERM : Nat := prmBase + 0x808
def PRM_THERM_TEMP_Q0 : Field := ⟨PRM_THERM, 0, 9⟩
def PRM_THERM_TEMP_Q1 : Field := ⟨PRM_THERM, 16, 9⟩
def PRM_THERM_CTL : Nat := prmBase + 0x80c
def PRM_THERM_CTL_WARN : Field := ⟨PRM_THERM_CTL, 0, 9⟩
def PRM_THERM_CTL_HUB : Field := ⟨PRM_THERM_CTL, 16, 9⟩
def PRM_THERM_CTL_OVER : Field := ⟨PRM_THERM_CTL, 27, 5⟩
def PRM_THERM_HI : Nat := prmBase + 0x810
def PRM_THERM_HI_TEMP_Q2 : Field := ⟨PRM_THERM_HI, 0, 9⟩
def PRM_THERM_HI_TEMP_Q3 : Field := ⟨PRM_THERM_HI, 16, 9⟩
def PRM_PMB_CMD : Nat := prmBase + 0x900
def PRM_PMB_CMD_RAIL : Field := ⟨PRM_PMB_CMD, 0, 5⟩
def PRM_PMB_CMD_CODE : Field := ⟨PRM_PMB_CMD, 8, 8⟩
def PRM_PMB_CMD_WRITE : Field := ⟨PRM_PMB_CMD, 16, 1⟩
def PRM_PMB_CMD_GO : Field := ⟨PRM_PMB_CMD, 31, 1⟩
def PRM_PMB_DATA : Nat := prmBase + 0x904
def PRM_PMB_DATA_DATA : Field := ⟨PRM_PMB_DATA, 0, 16⟩
def PRM_PMB_STAT : Nat := prmBase + 0x908
def PRM_PMB_STAT_BUSY : Field := ⟨PRM_PMB_STAT, 0, 1⟩
def PRM_PMB_STAT_REFUSED : Field := ⟨PRM_PMB_STAT, 1, 1⟩
def PRM_PMB_STAT_NAK : Field := ⟨PRM_PMB_STAT, 2, 1⟩
def PWR_Q_STAT (q : Nat) : Nat := pwrqBase q + 0x0
def PWR_Q_STAT_VTGT (q : Nat) : Field := ⟨(PWR_Q_STAT q), 0, 11⟩
def PWR_Q_STAT_VOP (q : Nat) : Field := ⟨(PWR_Q_STAT q), 12, 3⟩
def PWR_Q_STAT_LOCKED_PLL (q : Nat) : Field := ⟨(PWR_Q_STAT q), 16, 7⟩
def PWR_Q_IRQ (q : Nat) : Nat := pwrqBase q + 0x4
def PWR_Q_IRQ_PMB_ERR (q : Nat) : Field := ⟨(PWR_Q_IRQ q), 0, 1⟩
def PWR_Q_IRQ_UNSETTLED (q : Nat) : Field := ⟨(PWR_Q_IRQ q), 1, 1⟩
def PWR_Q_IRQ_LANE_RESET (q : Nat) : Field := ⟨(PWR_Q_IRQ q), 2, 1⟩
def PWR_Q_IRQ_STEPPED (q : Nat) : Field := ⟨(PWR_Q_IRQ q), 3, 1⟩
def PWR_Q_REFUSE (q : Nat) : Nat := pwrqBase q + 0x8
def PWR_Q_REFUSE_COUNT (q : Nat) : Field := ⟨(PWR_Q_REFUSE q), 0, 24⟩
def PWR_Q_REFUSE_CODE (q : Nat) : Field := ⟨(PWR_Q_REFUSE q), 24, 4⟩
def PWR_CL_CTL (k : Nat) : Nat := pwrcBase k + 0x0
def PWR_CL_CTL_OP_REQ (k : Nat) : Field := ⟨(PWR_CL_CTL k), 0, 3⟩
def PWR_CL_CTL_DEPTH_MAX (k : Nat) : Field := ⟨(PWR_CL_CTL k), 4, 2⟩
def PWR_CL_CTL_LOCK (k : Nat) : Field := ⟨(PWR_CL_CTL k), 6, 1⟩
def PWR_CL_STAT (k : Nat) : Nat := pwrcBase k + 0x4
def PWR_CL_STAT_STATE (k : Nat) : Field := ⟨(PWR_CL_STAT k), 0, 3⟩
def PWR_CL_STAT_OP (k : Nat) : Field := ⟨(PWR_CL_STAT k), 4, 3⟩
def PWR_CL_STAT_PLL (k : Nat) : Field := ⟨(PWR_CL_STAT k), 7, 1⟩
def PWR_CL_TILEMAP (k : Nat) : Nat := pwrcBase k + 0x8
def PWR_CL_TILEMAP_PHYS0 (k : Nat) : Field := ⟨(PWR_CL_TILEMAP k), 0, 4⟩
def PWR_CL_TILEMAP_PHYS1 (k : Nat) : Field := ⟨(PWR_CL_TILEMAP k), 4, 4⟩
def PWR_CL_TILEMAP_PHYS2 (k : Nat) : Field := ⟨(PWR_CL_TILEMAP k), 8, 4⟩
def PWR_CL_TILEMAP_PHYS3 (k : Nat) : Field := ⟨(PWR_CL_TILEMAP k), 12, 4⟩
def PWR_CL_TILEMAP_PHYS4 (k : Nat) : Field := ⟨(PWR_CL_TILEMAP k), 16, 4⟩
def PWR_CL_TILEMAP_PHYS5 (k : Nat) : Field := ⟨(PWR_CL_TILEMAP k), 20, 4⟩
def PWR_CL_TILEMAP_PHYS6 (k : Nat) : Field := ⟨(PWR_CL_TILEMAP k), 24, 4⟩
def PWR_CL_TILEMAP_PHYS7 (k : Nat) : Field := ⟨(PWR_CL_TILEMAP k), 28, 4⟩
def PWR_CL_CNT (k : Nat) : Nat := pwrcBase k + 0xc
def PWR_CL_CNT_FALLBACK (k : Nat) : Field := ⟨(PWR_CL_CNT k), 0, 16⟩
def PWR_CL_CNT_FAILED (k : Nat) : Field := ⟨(PWR_CL_CNT k), 16, 16⟩
def PWR_CL_LOST (k : Nat) : Nat := pwrcBase k + 0x10
def PWR_CL_LOST_LOST (k : Nat) : Field := ⟨(PWR_CL_LOST k), 0, 32⟩
def PWR_CL_REFUSE (k : Nat) : Nat := pwrcBase k + 0x14
def PWR_CL_REFUSE_COUNT (k : Nat) : Field := ⟨(PWR_CL_REFUSE k), 0, 24⟩
def PWR_CL_REFUSE_CODE (k : Nat) : Field := ⟨(PWR_CL_REFUSE k), 24, 4⟩
def PWR_CL_CMD (k : Nat) : Nat := pwrcBase k + 0x18
def PWR_CL_CMD_WAKE (k : Nat) : Field := ⟨(PWR_CL_CMD k), 0, 1⟩
def PWR_CL_CMD_PULSE (k : Nat) : Field := ⟨(PWR_CL_CMD k), 1, 1⟩
def PWR_CL_CMD_RETRY (k : Nat) : Field := ⟨(PWR_CL_CMD k), 2, 1⟩
def PRM_EVT : Nat := prmBase + 0x1000
def PRM_EVT_REINIT : Field := ⟨PRM_EVT, 0, 4⟩
def PRM_EVT_REINIT_DONE : Field := ⟨PRM_EVT, 4, 4⟩
def PRM_EVT_FW_DONE : Field := ⟨PRM_EVT, 8, 1⟩
def PRM_EVT_FW_REVERT : Field := ⟨PRM_EVT, 9, 1⟩
def PRM_EVT_HUB_NOC : Field := ⟨PRM_EVT, 10, 1⟩
def PRM_EVT_RMA_DONE : Field := ⟨PRM_EVT, 11, 1⟩
def PRM_FW_CTL : Nat := prmBase + 0x1004
def PRM_FW_CTL_GO : Field := ⟨PRM_FW_CTL, 0, 1⟩
def PRM_FW_CTL_IMAGE : Field := ⟨PRM_FW_CTL, 1, 1⟩
def PRM_FW_STAT : Nat := prmBase + 0x1008
def PRM_FW_STAT_STATE : Field := ⟨PRM_FW_STAT, 0, 2⟩
def PRM_FW_STAT_RUNNING : Field := ⟨PRM_FW_STAT, 2, 1⟩
def PRM_FW_STAT_RESULT : Field := ⟨PRM_FW_STAT, 4, 2⟩
def PRM_FW_STAT_HOLD_US : Field := ⟨PRM_FW_STAT, 16, 16⟩
def PRM_REDO_EN (i : Nat) : Nat := prmBase + 0x1040 + 0x4 * i
def PRM_REDO_EN_CI (i : Nat) : Field := ⟨(PRM_REDO_EN i), 0, 32⟩
def PRM_REINIT_CAUSE (i : Nat) : Nat := prmBase + 0x1100 + 0x10 * i
def PRM_REINIT_CAUSE_CAUSE (i : Nat) : Field := ⟨(PRM_REINIT_CAUSE i), 0, 3⟩
def PRM_REINIT_CNT (i : Nat) : Nat := prmBase + 0x1104 + 0x10 * i
def PRM_REINIT_CNT_COUNT (i : Nat) : Field := ⟨(PRM_REINIT_CNT i), 0, 16⟩
def PRM_REINIT_CNT_LATE (i : Nat) : Field := ⟨(PRM_REINIT_CNT i), 16, 16⟩
def PRM_JOURNAL (i : Nat) : Nat := prmBase + 0x1108 + 0x10 * i
def PRM_JOURNAL_USED (i : Nat) : Field := ⟨(PRM_JOURNAL i), 0, 17⟩
def PRM_TILES (i j : Nat) : Nat := prmBase + 0x1200 + 0x20 * i + 0x4 * j
def PRM_TILES_RETIRED (i j : Nat) : Field := ⟨(PRM_TILES i j), 0, 9⟩
def PRM_TILES_PERMANENT (i j : Nat) : Field := ⟨(PRM_TILES i j), 16, 9⟩
def PRM_TILES_TESTING (i j : Nat) : Field := ⟨(PRM_TILES i j), 28, 1⟩
def PRM_RETIRE : Nat := prmBase + 0x1280
def PRM_RETIRE_QUAD : Field := ⟨PRM_RETIRE, 0, 2⟩
def PRM_RETIRE_CLUSTER : Field := ⟨PRM_RETIRE, 2, 3⟩
def PRM_RETIRE_TILE : Field := ⟨PRM_RETIRE, 5, 3⟩
def PRM_RETIRE_GO : Field := ⟨PRM_RETIRE, 31, 1⟩
def PRM_HUB_ECC : Nat := prmBase + 0x1300
def PRM_HUB_ECC_CORR : Field := ⟨PRM_HUB_ECC, 0, 16⟩
def PRM_HUB_ECC_UNCORR : Field := ⟨PRM_HUB_ECC, 16, 16⟩
def PRM_LOCKSTEP : Nat := prmBase + 0x1304
def PRM_LOCKSTEP_MISMATCH : Field := ⟨PRM_LOCKSTEP, 0, 16⟩
def PRM_FR_STAT : Nat := prmBase + 0x1400
def PRM_FR_STAT_ENTRIES : Field := ⟨PRM_FR_STAT, 0, 16⟩
def PRM_FR_STAT_DROPPED : Field := ⟨PRM_FR_STAT, 16, 16⟩
def PRM_FR_HEAD : Nat := prmBase + 0x1404
def PRM_FR_HEAD_HEAD : Field := ⟨PRM_FR_HEAD, 0, 16⟩
def PRM_FR_SEL : Nat := prmBase + 0x1408
def PRM_FR_SEL_INDEX : Field := ⟨PRM_FR_SEL, 0, 16⟩
def PRM_FR_DATA (i : Nat) : Nat := prmBase + 0x1440 + 0x4 * i
def PRM_FR_DATA_WORD (i : Nat) : Field := ⟨(PRM_FR_DATA i), 0, 32⟩
def PRM_RMA : Nat := prmBase + 0x1480
def PRM_RMA_GO : Field := ⟨PRM_RMA, 0, 1⟩
def PRM_RMA_BUSY : Field := ⟨PRM_RMA, 1, 1⟩
def PRM_RMA_VALID : Field := ⟨PRM_RMA, 2, 1⟩
def PRM_RMA_SEC : Nat := prmBase + 0x1484
def PRM_RMA_SEC_SEC : Field := ⟨PRM_RMA_SEC, 0, 32⟩
def PRM_RMA_NS : Nat := prmBase + 0x1488
def PRM_RMA_NS_NS : Field := ⟨PRM_RMA_NS, 0, 32⟩
def FXG_STAT : Nat := fxgBase + 0x0
def FXG_STAT_LIFE : Field := ⟨FXG_STAT, 0, 2⟩
def FXG_STAT_RECOVERY : Field := ⟨FXG_STAT, 2, 1⟩
def FXG_STAT_BBK_VALID : Field := ⟨FXG_STAT, 3, 1⟩
def FXG_STAT_TAMPER_ARMED : Field := ⟨FXG_STAT, 4, 1⟩
def FXG_STAT_DEBUG : Field := ⟨FXG_STAT, 5, 1⟩
def FXG_POLICY : Nat := fxgBase + 0x4
def FXG_POLICY_POLICY : Field := ⟨FXG_POLICY, 0, 4⟩
def FXG_POLICY_ACTIVE : Field := ⟨FXG_POLICY, 8, 8⟩
def FXG_POLICY_REVOKED : Field := ⟨FXG_POLICY, 16, 8⟩
def FXG_SERIAL : Nat := fxgBase + 0x8
def FXG_SERIAL_SERIAL : Field := ⟨FXG_SERIAL, 0, 64⟩
def FXG_SVN : Nat := fxgBase + 0x10
def FXG_SVN_FW : Field := ⟨FXG_SVN, 0, 7⟩
def FXG_SVN_PX : Field := ⟨FXG_SVN, 8, 7⟩
def FXG_NONCE (i : Nat) : Nat := fxgBase + 0x20 + 0x4 * i
def FXG_NONCE_WORD (i : Nat) : Field := ⟨(FXG_NONCE i), 0, 32⟩
def FXG_CMD : Nat := fxgBase + 0x40
def FXG_CMD_NONCE : Field := ⟨FXG_CMD, 0, 1⟩
def FXG_CMD_GO : Field := ⟨FXG_CMD, 31, 1⟩
def FXG_CMD_STAT : Nat := fxgBase + 0x44
def FXG_CMD_STAT_BUSY : Field := ⟨FXG_CMD_STAT, 0, 1⟩
def FXG_CMD_STAT_OP : Field := ⟨FXG_CMD_STAT, 4, 8⟩
def FXG_CMD_STAT_RESULT : Field := ⟨FXG_CMD_STAT, 16, 4⟩
def FXG_IRQ : Nat := fxgBase + 0x48
def FXG_IRQ_CMD_DONE : Field := ⟨FXG_IRQ, 0, 1⟩
def FXG_IRQ_VERIFY : Field := ⟨FXG_IRQ, 1, 1⟩
def FXG_IRQ_VBAT_LOW : Field := ⟨FXG_IRQ, 2, 1⟩
def FXG_IRQ_TAMPER_SEEN : Field := ⟨FXG_IRQ, 3, 1⟩
def FXG_IRQ_DEBUG_END : Field := ⟨FXG_IRQ, 4, 1⟩
def FXG_VFAIL : Nat := fxgBase + 0x4c
def FXG_VFAIL_COUNT : Field := ⟨FXG_VFAIL, 0, 16⟩
def FXG_VFAIL_KIND : Field := ⟨FXG_VFAIL, 16, 3⟩
def FXG_TAMPER : Nat := fxgBase + 0x50
def FXG_TAMPER_ARM : Field := ⟨FXG_TAMPER, 0, 1⟩
def FXG_TAMPER_COUNT : Field := ⟨FXG_TAMPER, 8, 8⟩
def FXG_TAMPER_SEC : Nat := fxgBase + 0x54
def FXG_TAMPER_SEC_SEC : Field := ⟨FXG_TAMPER_SEC, 0, 32⟩
def FXG_TAMPER_NS : Nat := fxgBase + 0x58
def FXG_TAMPER_NS_NS : Field := ⟨FXG_TAMPER_NS, 0, 32⟩
def FXG_DBG_ATTACH : Nat := fxgBase + 0x60
def FXG_DBG_ATTACH_QUAD : Field := ⟨FXG_DBG_ATTACH, 0, 2⟩
def FXG_DBG_ATTACH_CLUSTER : Field := ⟨FXG_DBG_ATTACH, 2, 3⟩
def FXG_DBG_ATTACH_TILE : Field := ⟨FXG_DBG_ATTACH, 5, 3⟩
def FXG_DBG_ATTACH_EN : Field := ⟨FXG_DBG_ATTACH, 8, 1⟩
def FXG_DBG_ATTACH_ATTACHED : Field := ⟨FXG_DBG_ATTACH, 9, 1⟩
def FXG_DBG_ATTACH_HALT : Field := ⟨FXG_DBG_ATTACH, 10, 1⟩
def FXG_DBG_OFS : Nat := fxgBase + 0x64
def FXG_DBG_OFS_PAGE : Field := ⟨FXG_DBG_OFS, 0, 4⟩
def FXG_DBG_EXP : Nat := fxgBase + 0x68
def FXG_DBG_EXP_EXPIRY : Field := ⟨FXG_DBG_EXP, 0, 32⟩
def NVS_STAT : Nat := nvsBase + 0x0
def NVS_STAT_BUSY : Field := ⟨NVS_STAT, 0, 1⟩
def NVS_STAT_REFUSED : Field := ⟨NVS_STAT, 1, 1⟩
def NVS_STAT_UNCORR : Field := ⟨NVS_STAT, 2, 1⟩
def NVS_OP : Nat := nvsBase + 0x4
def NVS_OP_OP : Field := ⟨NVS_OP, 0, 2⟩
def NVS_OP_TARGET : Field := ⟨NVS_OP, 2, 7⟩
def NVS_OP_GO : Field := ⟨NVS_OP, 31, 1⟩
def NVS_OFS : Nat := nvsBase + 0x8
def NVS_OFS_OFS : Field := ⟨NVS_OFS, 5, 23⟩
def NVS_LEN : Nat := nvsBase + 0xc
def NVS_LEN_LEN : Field := ⟨NVS_LEN, 0, 17⟩
def NVS_ECC : Nat := nvsBase + 0x10
def NVS_ECC_CORR : Field := ⟨NVS_ECC, 0, 16⟩
def NVS_ECC_UNCORR : Field := ⟨NVS_ECC, 16, 16⟩
def NVS_IGN : Nat := nvsBase + 0x14
def NVS_IGN_IGNORED : Field := ⟨NVS_IGN, 0, 32⟩
def NVS_SLOT_CFG (i : Nat) : Nat := nvsBase + 0x100 + 0x8 * i
def NVS_SLOT_CFG_BASE (i : Nat) : Field := ⟨(NVS_SLOT_CFG i), 0, 12⟩
def NVS_SLOT_CFG_SIZE (i : Nat) : Field := ⟨(NVS_SLOT_CFG i), 16, 12⟩
def NVS_SLOT_STAT (i : Nat) : Nat := nvsBase + 0x104 + 0x8 * i
def NVS_SLOT_STAT_PROTECTED (i : Nat) : Field := ⟨(NVS_SLOT_STAT i), 0, 1⟩
def NVS_SLOT_STAT_CFG_ERR (i : Nat) : Field := ⟨(NVS_SLOT_STAT i), 1, 1⟩

end Sys2Proof.Machine
end

