-- ==== Sys2Proof/Machine/RegMap.lean ====
section
/-!
DEFINITION. The register tables of every chapter as one table: for each register its offset in its block, its array
strides, its width in words, and each field's place, access code (spec/00_scope.md R10), reset value (R11) and range (R12).
Reserved bits have no row: they read 0 and writes to them are ignored. The decoding of a BAR0 offset follows R37 to R39.
-/

namespace Sys2Proof.Machine

/-- Access codes of R10. -/
inductive Access where
  | rw | ro | wo | w1c | w1s | rws | rwl
deriving DecidableEq, Repr

/-- A field: lowest bit, width, access, reset value, and the range a written value is brought into. -/
structure FieldSpec where
  lo : Nat
  w : Nat
  acc : Access
  reset : Nat
  min : Nat
  max : Nat
deriving DecidableEq, Repr

/-- The registers of the manual. -/
inductive RegName where
  | LKS_CTL | LKS_STATUS | LKS_SNAP | LKS_SNAP_SEC | LKS_SNAP_NS | LKS_SNAP_FRAC
  | LKS_LOAD_SEC | LKS_LOAD_NS | LKS_CT_LOAD | LKS_ADDEND | LKS_BASE | LKS_FADJ
  | LKS_SLEW_RATE | LKS_PHASE_REQ | LKS_SLEW_REMAIN | LKS_SERVO_CTL | LKS_SERVO_STAT | LKS_DOMAIN_DIFF
  | LKS_HOLDOVER_LIM | LKS_BC_CTL | LKS_BC_PORTS | LKS_PTP_DROP | LKS_PPS_CTL | LKS_PPS_OUT_DLY
  | LKS_SYNCE_CTL | LKS_PTM_CTL | LKS_PTM_HOST | LKS_PTM_CT | LKS_CI_OFS | LKS_CI_OFS_ERR
  | LKS_QSLOT | LKS_QSLOT_OFS | LKS_LANE_TXD | LKS_LANE_RXD | LKS_LANE_ASYM | LKS_LANE_CTL
  | LKS_LANE_RTT | LKS_LANE_STAT | LKS_PORT_TXD | LKS_PORT_RXD | LKS_PORT_FINE | EVT_PIN_CTL
  | EVT_LEVEL | EVT_HELD | EVT_PPS_CTL | EVT_OVR | EVT_FIFO_STAT | EVT_FIFO_SEC
  | EVT_FIFO_NS | EVT_FIFO_INFO | EVT_FIFO_POP | ADM_CTL | ADM_STATUS | ADM_IRQ
  | ADM_LIVE_NODES | ADM_FREE_DRAM | ADM_FREE_HOST | ADM_FREE_NET | ADM_CNT_OUT | ADM_CNT_CLR
  | ADM_LAST_REF | ADM_LAST_TAG | ADM_RING_CLAMP | ADM_RING_CLAMP_LAST | ADM_PLAN_STAT | ADM_RING_CTL
  | ADM_RING_CMD_BASE | ADM_RING_CQ_BASE | ADM_RING_IDX | ADM_RING_STAT | ADM_RING_STAMP | DAH_STATUS
  | DAH_SPILLED | DAH_NEXT_NEED_SEC | DAH_NEXT_NEED_NS | DAH_CNT_WAKE | DAH_CNT_NOSTART | DAH_PROG_SEL
  | DAH_PROG_STAT | DAH_RES | DAH_BUSY | TIL_STATUS | TIL_PC | TIL_FAULT
  | TIL_FAULT_PC | TIL_FAULT_ADDR | TIL_ECC | TIL_USED | TIL_CNT_TASK | TIL_MBOX
  | TIL_MBOX_STAT | TIL_CSM_WIN | TIL_CSM_LIM | MEM_CTL | MEM_HDM | MEM_ECC_CNT
  | MEM_ECC_LOG | MEM_PATROL_STAT | MEM_SPARE | MEM_SF | MEM_ADDR_FAULT | MEM_ADDR_FAULT_INFO
  | MEM_HWIN_BASE | MEM_HWIN_LIMIT | MEM_HWIN_TARGET | MEM_HWIN_CTL | MEM_CSM_FENCE | MEM_CSM_ECC
  | MEM_CSM_LOG | MEM_CSM_PATROL | DMA_CH_DESC | DMA_CH_CMD | DMA_CH_STAT | DMA_CH_FOFS
  | DMA_CH_BAD | DMA_CNT | DMA_CLAMP | CVU_CTL | CVU_POLY | CVU_INIT
  | CVU_XOROUT | CVU_EXPECT | CVU_RESULT | CVU_RESULT_INFO | CVU_POP | CVU_CNT_OK
  | CVU_CNT_BAD | CVU_STAT | XFE_STATUS | XFE_CNT_OP | XFE_CLAMP | XFE_CNT_RATIO
  | XFE_CNT_LATE | XFE_LAST_DROP | BME_STATUS | BME_CNT_OP | BME_CLAMP | BME_CNT_SAT
  | BME_RING_STAT | BME_RING_XFER | BME_RING_CHK | BME_RING_RTR | PFE_LOAD | PFE_STAT
  | PFE_CTX_CTL | PFE_CTX_PORTS | PFE_CTX_FSHIFT | PFE_CTX_SCHED | PFE_CTX_OCC | PFE_CTX_OUT
  | PFE_CTX_CNT | PFE_OBS_CTL | PFE_EVM | PFE_EVM_SLOT | PFE_EVM_DLY | TDD_CTL
  | TDD_GRP_CFG | TDD_GRP_P1 | TDD_GRP_P2 | TDD_GRP_RAMP | TDD_PIN | TDD_PIN_ADV
  | TDD_PIN_LL | TDD_CNT | TDD_PORT_GRP | TDD_RAMP_CFG | TDD_RAMP_TAB | DTE_STATUS
  | DTE_CNT_OP | DTE_CLAMP | DTE_CNT_SAT | DTE_CNT_CAPT | DTE_CNT_PRE | DTE_CNT_TRUNC
  | DTE_CNT_CLR | CDE_STATUS | CDE_CNT_OP | CDE_CLAMP | CDE_CNT_TRUNC | CDE_CNT_TB
  | CDE_CNT_ITER | CDE_CNT_HB | CDE_CNT_CLR | CEE_STATUS | CEE_CNT_OP | CEE_CLAMP
  | CEE_CNT_TRUNC | CEE_CNT_CLR | LAN_CTL | LAN_STAT | LAN_PORTS | LAN_RATE
  | LAN_EQ | LAN_EQ_EFF | LAN_RXA | LAN_SPARE | LAN_ETH | LAN_MAC_LO
  | LAN_MAC_HI | LAN_FDPORTS | LAN_CNT | LAN_CNT_CLR | LAN_MQ_TX | LAN_MQ_TXCTL
  | LAN_MQ_RX | LAN_MQ_RXSTAT | LAN_MQ_RXPOP | LAN_FWD_LO | LAN_FWD_HI | CXL_LINK_STAT
  | CXL_LINK_CNT | CXL_LOST | CXL_BUDGET | CXL_HDM_STAT | CXL_IDE_STAT | CXL_BAD_ACC
  | CXL_CNT_CLR | INT_CTL | INT_ACK | INT_CNT_MSG | INT_ACTIVE | INT_STUCK
  | INT_SRC_CFG | INT_SRC_STAT | PHX_CTL | PHX_STAT | PHX_LOAD | PHX_LOAD_SW
  | PHX_LOAD_STAT | PHX_LANES | PHX_BW | PHX_DWIN_BASE | PHX_DWIN_LIMIT | PHX_CLK
  | PHX_KEY | PHX_CMD | PHX_IRQ | PHX_ID | PHX_CNT_ERR | SCR_CTL
  | SCR_STAT | SCR_CNT | SCR_LAST | SCR_CHK | SCR_NBR | SCR_VOTE
  | PRM_ID | PRM_BOOT | PRM_RST | PRM_AVS | PRM_Q_CTL | PRM_Q_STAT
  | PRM_Q_REFUSE | PRM_RAIL_CFG | PRM_RAIL_STAT | PRM_RAIL_TEL | PRM_MON_CTL | PRM_MON_WARN
  | PRM_THERM | PRM_THERM_CTL | PRM_THERM_HI | PRM_PMB_CMD | PRM_PMB_DATA | PRM_PMB_STAT
  | PWR_Q_STAT | PWR_Q_IRQ | PWR_Q_REFUSE | PWR_CL_CTL | PWR_CL_STAT | PWR_CL_TILEMAP
  | PWR_CL_CNT | PWR_CL_LOST | PWR_CL_REFUSE | PWR_CL_CMD | PRM_EVT | PRM_FW_CTL
  | PRM_FW_STAT | PRM_REDO_EN | PRM_REINIT_CAUSE | PRM_REINIT_CNT | PRM_JOURNAL | PRM_TILES
  | PRM_RETIRE | PRM_HUB_ECC | PRM_LOCKSTEP | PRM_FR_STAT | PRM_FR_HEAD | PRM_FR_SEL
  | PRM_FR_DATA | PRM_RMA | PRM_RMA_SEC | PRM_RMA_NS | FXG_STAT | FXG_POLICY
  | FXG_SERIAL | FXG_SVN | FXG_NONCE | FXG_CMD | FXG_CMD_STAT | FXG_IRQ
  | FXG_VFAIL | FXG_TAMPER | FXG_TAMPER_SEC | FXG_TAMPER_NS | FXG_DBG_ATTACH | FXG_DBG_OFS
  | FXG_DBG_EXP | NVS_STAT | NVS_OP | NVS_OFS | NVS_LEN | NVS_ECC
  | NVS_IGN | NVS_SLOT_CFG | NVS_SLOT_STAT
deriving DecidableEq, Repr

/-- The blocks of R37 to R39. -/
inductive Block where
  | lks | leaf | evt | adm | dah | til | mem | csm | dma | cvu | xfe | bme | ring | pfe | tdd | dte | cde | cee | lan | cxl | int | phx | scr | prm | pwrq | pwrc | fxg | nvs
deriving DecidableEq, Repr

/-- A register or an array of them: its name, offset in the block, words (1 or 2), strides and counts, and fields. -/
structure RegSpec where
  name : RegName
  off : Nat
  words : Nat
  dims : List (Nat × Nat)
  fields : List FieldSpec
deriving DecidableEq, Repr

/-- A field of any value. -/
def fld (lo w : Nat) (acc : Access) (reset : Nat) : FieldSpec := ⟨lo, w, acc, reset, 0, 2 ^ w - 1⟩
/-- A field whose written value is brought into [min, max]. -/
def rng (lo w : Nat) (acc : Access) (reset min max : Nat) : FieldSpec := ⟨lo, w, acc, reset, min, max⟩

/-- The registers of the block lks. -/
def lksRegs : List RegSpec :=
  [⟨.LKS_CTL, 0x0, 1, [], [fld 0 1 .rwl 0, fld 1 1 .rw 0, fld 2 1 .rw 1, fld 3 1 .rw 0]⟩,
   ⟨.LKS_STATUS, 0x4, 1, [], [fld 0 3 .ro 0, fld 3 1 .ro 0, fld 4 1 .ro 0, fld 5 1 .ro 0, fld 6 1 .w1c 0, fld 7 1 .w1c 0, fld 8 1 .w1c 0]⟩,
   ⟨.LKS_SNAP, 0x10, 1, [], [fld 0 1 .wo 0]⟩,
   ⟨.LKS_SNAP_SEC, 0x18, 2, [], [fld 0 64 .ro 0]⟩,
   ⟨.LKS_SNAP_NS, 0x20, 1, [], [fld 0 32 .ro 0]⟩,
   ⟨.LKS_SNAP_FRAC, 0x24, 1, [], [fld 0 16 .ro 0]⟩,
   ⟨.LKS_LOAD_SEC, 0x30, 2, [], [fld 0 64 .rw 0]⟩,
   ⟨.LKS_LOAD_NS, 0x38, 1, [], [rng 0 32 .rw 0 0 999999999]⟩,
   ⟨.LKS_CT_LOAD, 0x3c, 1, [], [fld 0 1 .wo 0]⟩,
   ⟨.LKS_ADDEND, 0x40, 2, [], [fld 0 48 .ro 0x280000000000]⟩,
   ⟨.LKS_BASE, 0x48, 2, [], [fld 0 48 .ro 0x280000000000]⟩,
   ⟨.LKS_FADJ, 0x50, 1, [], [fld 0 32 .rw 0]⟩] ++
  [⟨.LKS_SLEW_RATE, 0x54, 1, [], [rng 0 11 .rw 20 1 2000]⟩,
   ⟨.LKS_PHASE_REQ, 0x58, 2, [], [fld 0 64 .wo 0]⟩,
   ⟨.LKS_SLEW_REMAIN, 0x60, 2, [], [fld 0 64 .ro 0]⟩,
   ⟨.LKS_SERVO_CTL, 0x68, 1, [(0x4, 2)], [fld 0 1 .rw 0, fld 1 1 .rw 0, fld 2 6 .rw 0, fld 8 8 .rw 24, fld 16 2 .rw 1]⟩,
   ⟨.LKS_SERVO_STAT, 0x70, 1, [], [fld 0 2 .ro 0, fld 2 2 .ro 0, fld 4 8 .ro 255, fld 12 8 .ro 255]⟩,
   ⟨.LKS_DOMAIN_DIFF, 0x78, 2, [], [fld 0 64 .ro 0]⟩,
   ⟨.LKS_HOLDOVER_LIM, 0x80, 1, [], [rng 0 20 .rw 1000 1 1048575]⟩,
   ⟨.LKS_BC_CTL, 0x84, 1, [], [fld 0 1 .rw 0, fld 1 1 .rw 0, fld 2 8 .rw 24, fld 10 8 .rw 16]⟩,
   ⟨.LKS_BC_PORTS, 0x88, 2, [], [fld 0 64 .rw 0]⟩,
   ⟨.LKS_PTP_DROP, 0x90, 1, [], [fld 0 16 .ro 0, fld 16 8 .ro 0, fld 24 7 .ro 0, fld 31 1 .wo 0]⟩,
   ⟨.LKS_PPS_CTL, 0x94, 1, [], [rng 0 9 .rw 100 1 500, fld 9 1 .rw 0]⟩,
   ⟨.LKS_PPS_OUT_DLY, 0x98, 1, [], [fld 0 32 .rw 0]⟩] ++
  [⟨.LKS_SYNCE_CTL, 0x9c, 1, [], [fld 0 6 .rw 0, fld 6 1 .rw 0, fld 7 1 .rw 0, fld 8 1 .rw 0, fld 9 1 .ro 0]⟩,
   ⟨.LKS_PTM_CTL, 0xa0, 1, [], [fld 0 1 .rw 0, rng 1 10 .rw 100 1 1000]⟩,
   ⟨.LKS_PTM_HOST, 0xa8, 2, [], [fld 0 64 .ro 0]⟩,
   ⟨.LKS_PTM_CT, 0xb0, 2, [], [fld 0 64 .ro 0]⟩,
   ⟨.LKS_CI_OFS, 0x1000, 2, [(0x8, 512)], [fld 0 64 .rw 0]⟩,
   ⟨.LKS_CI_OFS_ERR, 0x2000, 1, [], [fld 0 1 .w1c 0]⟩]

/-- The registers of the block leaf. -/
def leafRegs : List RegSpec :=
  [⟨.LKS_QSLOT, 0x0, 1, [], [rng 0 3 .rw 1 0 6]⟩,
   ⟨.LKS_QSLOT_OFS, 0x8, 2, [], [fld 0 64 .rw 0]⟩,
   ⟨.LKS_LANE_TXD, 0x100, 1, [(0x10, 16)], [fld 0 32 .rw 0]⟩,
   ⟨.LKS_LANE_RXD, 0x104, 1, [(0x10, 16)], [fld 0 32 .rw 0]⟩,
   ⟨.LKS_LANE_ASYM, 0x108, 1, [(0x10, 16)], [fld 0 32 .rw 0]⟩,
   ⟨.LKS_LANE_CTL, 0x10c, 1, [(0x10, 16)], [fld 0 1 .rw 1]⟩,
   ⟨.LKS_LANE_RTT, 0x200, 1, [(0x8, 16)], [fld 0 32 .ro 0]⟩,
   ⟨.LKS_LANE_STAT, 0x204, 1, [(0x8, 16)], [fld 0 1 .ro 0, fld 1 1 .ro 0, fld 2 1 .w1c 0]⟩,
   ⟨.LKS_PORT_TXD, 0x400, 1, [(0x10, 48)], [fld 0 32 .rw 0]⟩,
   ⟨.LKS_PORT_RXD, 0x404, 1, [(0x10, 48)], [fld 0 32 .rw 0]⟩,
   ⟨.LKS_PORT_FINE, 0x408, 1, [(0x10, 48)], [fld 0 32 .ro 0]⟩]

/-- The registers of the block evt. -/
def evtRegs : List RegSpec :=
  [⟨.EVT_PIN_CTL, 0x0, 1, [(0x4, 16)], [fld 0 1 .rw 0, fld 1 1 .rw 0, rng 2 2 .rw 1 1 3, fld 4 1 .rw 0]⟩,
   ⟨.EVT_LEVEL, 0x40, 1, [], [fld 0 16 .ro 0, fld 16 1 .ro 0]⟩,
   ⟨.EVT_HELD, 0x44, 1, [], [fld 0 16 .ro 0]⟩,
   ⟨.EVT_PPS_CTL, 0x48, 1, [], [fld 0 1 .rw 0, fld 4 1 .rw 0]⟩,
   ⟨.EVT_OVR, 0x80, 1, [(0x4, 17)], [fld 0 16 .ro 0, fld 31 1 .wo 0]⟩,
   ⟨.EVT_FIFO_STAT, 0x100, 1, [], [fld 0 9 .ro 0, fld 16 9 .ro 0, fld 31 1 .wo 0]⟩,
   ⟨.EVT_FIFO_SEC, 0x108, 2, [], [fld 0 64 .ro 0]⟩,
   ⟨.EVT_FIFO_NS, 0x110, 1, [], [fld 0 32 .ro 0]⟩,
   ⟨.EVT_FIFO_INFO, 0x114, 1, [], [fld 0 16 .ro 0, fld 16 5 .ro 0, fld 21 1 .ro 0, fld 22 1 .ro 0, fld 31 1 .ro 0]⟩,
   ⟨.EVT_FIFO_POP, 0x118, 1, [], [fld 0 1 .wo 0]⟩]

/-- The registers of the block adm. -/
def admRegs : List RegSpec :=
  [⟨.ADM_CTL, 0x0, 1, [], [fld 0 1 .rw 0, fld 1 1 .rw 0]⟩,
   ⟨.ADM_STATUS, 0x4, 1, [], [fld 0 9 .ro 0, fld 9 7 .ro 0, fld 16 1 .ro 0]⟩,
   ⟨.ADM_IRQ, 0x8, 1, [], [fld 0 1 .w1c 0, fld 1 1 .w1c 0, fld 2 1 .w1c 0]⟩,
   ⟨.ADM_LIVE_NODES, 0xc, 1, [], [fld 0 22 .ro 0]⟩,
   ⟨.ADM_FREE_DRAM, 0x10, 1, [], [fld 0 9 .ro 272]⟩,
   ⟨.ADM_FREE_HOST, 0x14, 1, [], [fld 0 15 .ro 0]⟩,
   ⟨.ADM_FREE_NET, 0x40, 1, [(0x4, 16)], [fld 0 16 .ro 0xea60]⟩,
   ⟨.ADM_CNT_OUT, 0x100, 1, [(0x4, 16)], [fld 0 32 .ro 0]⟩,
   ⟨.ADM_CNT_CLR, 0x140, 1, [], [fld 0 1 .wo 0]⟩,
   ⟨.ADM_LAST_REF, 0x180, 1, [], [fld 0 8 .ro 0, fld 8 8 .ro 0, fld 16 10 .ro 0, fld 26 6 .ro 0]⟩,
   ⟨.ADM_LAST_TAG, 0x184, 1, [], [fld 0 32 .ro 0]⟩,
   ⟨.ADM_RING_CLAMP, 0x1000, 1, [(0x8, 64)], [fld 0 32 .ro 0]⟩] ++
  [⟨.ADM_RING_CLAMP_LAST, 0x1004, 1, [(0x8, 64)], [fld 0 8 .ro 0, fld 8 8 .ro 0]⟩,
   ⟨.ADM_PLAN_STAT, 0x2000, 1, [(0x4, 512)], [fld 0 1 .ro 0, fld 1 1 .ro 0, fld 2 1 .ro 0, fld 3 1 .ro 0, fld 4 3 .ro 0]⟩,
   ⟨.ADM_RING_CTL, 0x4000, 1, [(0x40, 64)], [fld 0 1 .rw 0, fld 1 1 .ro 0, fld 2 3 .rw 0, rng 8 5 .rw 6 6 16, rng 16 5 .rw 6 6 16]⟩,
   ⟨.ADM_RING_CMD_BASE, 0x4008, 2, [(0x40, 64)], [fld 12 52 .rw 0]⟩,
   ⟨.ADM_RING_CQ_BASE, 0x4010, 2, [(0x40, 64)], [fld 12 52 .rw 0]⟩,
   ⟨.ADM_RING_IDX, 0x4018, 1, [(0x40, 64)], [fld 0 16 .ro 0, fld 16 16 .ro 0]⟩,
   ⟨.ADM_RING_STAT, 0x401c, 1, [(0x40, 64)], [fld 0 17 .ro 0, fld 17 1 .ro 0, fld 18 1 .ro 0, fld 19 5 .ro 0, fld 24 8 .ro 0]⟩,
   ⟨.ADM_RING_STAMP, 0x4020, 2, [(0x40, 64)], [fld 0 32 .ro 0, fld 32 32 .ro 0]⟩]

/-- The registers of the block dah. -/
def dahRegs : List RegSpec :=
  [⟨.DAH_STATUS, 0x0, 1, [], [fld 0 13 .ro 0]⟩,
   ⟨.DAH_SPILLED, 0x4, 1, [], [fld 0 22 .ro 0]⟩,
   ⟨.DAH_NEXT_NEED_SEC, 0x40, 1, [], [fld 0 32 .ro 0xffffffff]⟩,
   ⟨.DAH_NEXT_NEED_NS, 0x44, 1, [], [fld 0 32 .ro 0]⟩,
   ⟨.DAH_CNT_WAKE, 0x48, 1, [], [fld 0 32 .ro 0]⟩,
   ⟨.DAH_CNT_NOSTART, 0x4c, 1, [], [fld 0 32 .ro 0]⟩,
   ⟨.DAH_PROG_SEL, 0x80, 1, [], [fld 0 12 .rw 0, fld 16 3 .rw 0]⟩,
   ⟨.DAH_PROG_STAT, 0x84, 1, [], [fld 0 1 .ro 0, fld 1 1 .ro 0, fld 2 1 .ro 0, fld 16 10 .ro 512]⟩,
   ⟨.DAH_RES, 0x100, 1, [(0x4, 14)], [fld 0 23 .ro 0, fld 23 9 .ro 0]⟩,
   ⟨.DAH_BUSY, 0x140, 1, [], [fld 0 14 .ro 0]⟩]

/-- The registers of the block til. -/
def tilRegs : List RegSpec :=
  [⟨.TIL_STATUS, 0x0, 1, [], [fld 0 3 .ro 0, fld 4 4 .ro 0, fld 8 2 .ro 0]⟩,
   ⟨.TIL_PC, 0x4, 1, [], [fld 0 17 .ro 0, fld 20 12 .ro 0]⟩,
   ⟨.TIL_FAULT, 0x8, 1, [], [fld 0 8 .ro 0, fld 8 1 .w1c 0, fld 9 1 .ro 0, fld 16 10 .ro 0]⟩,
   ⟨.TIL_FAULT_PC, 0xc, 1, [], [fld 0 32 .ro 0]⟩,
   ⟨.TIL_FAULT_ADDR, 0x10, 1, [], [fld 0 32 .ro 0]⟩,
   ⟨.TIL_ECC, 0x14, 1, [], [fld 0 16 .ro 0, fld 16 16 .ro 0]⟩,
   ⟨.TIL_USED, 0x18, 1, [], [fld 0 31 .ro 0, fld 31 1 .ro 0]⟩,
   ⟨.TIL_CNT_TASK, 0x1c, 1, [], [fld 0 32 .ro 0]⟩,
   ⟨.TIL_MBOX, 0x40, 1, [], [fld 0 32 .wo 0]⟩,
   ⟨.TIL_MBOX_STAT, 0x44, 1, [], [fld 0 1 .w1c 0]⟩,
   ⟨.TIL_CSM_WIN, 0x100, 1, [(0x8, 4)], [fld 0 1 .rw 0, fld 1 1 .rw 0, fld 12 11 .rw 0]⟩,
   ⟨.TIL_CSM_LIM, 0x104, 1, [(0x8, 4)], [fld 12 11 .rw 0]⟩]

/-- The registers of the block mem. -/
def memRegs : List RegSpec :=
  [⟨.MEM_CTL, 0x0, 1, [], [fld 0 1 .rw 1, rng 1 5 .rw 4 1 24, fld 6 1 .rw 1]⟩,
   ⟨.MEM_HDM, 0x8, 1, [], [rng 0 7 .rw 0 0 94, fld 8 6 .rw 0, fld 16 1 .ro 0]⟩,
   ⟨.MEM_ECC_CNT, 0x10, 1, [], [fld 0 16 .ro 0, fld 16 16 .ro 0]⟩,
   ⟨.MEM_ECC_LOG, 0x18, 2, [], [fld 5 30 .ro 0, fld 35 1 .ro 0, fld 36 1 .w1c 0]⟩,
   ⟨.MEM_PATROL_STAT, 0x20, 1, [], [fld 0 32 .ro 0]⟩,
   ⟨.MEM_SPARE, 0x28, 1, [], [fld 0 12 .ro 0, fld 16 5 .ro 16, fld 21 1 .w1c 0, fld 31 1 .wo 0]⟩,
   ⟨.MEM_SF, 0x30, 1, [], [fld 0 19 .ro 0]⟩,
   ⟨.MEM_ADDR_FAULT, 0x38, 2, [], [fld 0 64 .ro 0]⟩,
   ⟨.MEM_ADDR_FAULT_INFO, 0x40, 1, [], [fld 0 4 .ro 0, fld 4 2 .ro 0, fld 8 3 .ro 0, fld 12 4 .ro 0, fld 31 1 .w1c 0]⟩,
   ⟨.MEM_HWIN_BASE, 0x1000, 2, [(0x20, 64)], [fld 12 36 .rw 0]⟩,
   ⟨.MEM_HWIN_LIMIT, 0x1008, 2, [(0x20, 64)], [fld 12 36 .rw 0]⟩,
   ⟨.MEM_HWIN_TARGET, 0x1010, 2, [(0x20, 64)], [fld 12 40 .rw 0]⟩,
   ⟨.MEM_HWIN_CTL, 0x1018, 1, [(0x20, 64)], [fld 0 1 .rw 0, fld 1 1 .rw 0, fld 2 1 .rw 0]⟩]

/-- The registers of the block csm. -/
def csmRegs : List RegSpec :=
  [⟨.MEM_CSM_FENCE, 0x0, 1, [], [fld 0 32 .w1s 0]⟩,
   ⟨.MEM_CSM_ECC, 0x4, 1, [], [fld 0 16 .ro 0, fld 16 16 .ro 0]⟩,
   ⟨.MEM_CSM_LOG, 0x8, 1, [], [fld 5 18 .ro 0, fld 23 1 .ro 0, fld 24 1 .w1c 0]⟩,
   ⟨.MEM_CSM_PATROL, 0xc, 1, [], [fld 0 1 .rw 1, fld 1 1 .ro 0, fld 16 16 .ro 0]⟩]

/-- The registers of the block dma. -/
def dmaRegs : List RegSpec :=
  [⟨.DMA_CH_DESC, 0x0, 2, [(0x100, 10)], [fld 0 64 .rw 0]⟩,
   ⟨.DMA_CH_CMD, 0x8, 1, [(0x100, 10)], [fld 0 1 .wo 0, fld 1 1 .wo 0, fld 2 1 .wo 0]⟩,
   ⟨.DMA_CH_STAT, 0xc, 1, [(0x100, 10)], [fld 0 3 .ro 0, fld 4 5 .ro 0, fld 12 4 .ro 0, fld 16 1 .w1c 0, fld 17 1 .w1c 0]⟩,
   ⟨.DMA_CH_FOFS, 0x10, 1, [(0x100, 10)], [fld 0 29 .ro 0]⟩,
   ⟨.DMA_CH_BAD, 0x18, 2, [(0x100, 10)], [fld 0 64 .ro 0]⟩,
   ⟨.DMA_CNT, 0xf00, 1, [], [fld 0 32 .ro 0]⟩,
   ⟨.DMA_CLAMP, 0xf04, 1, [], [fld 0 32 .ro 0]⟩]

/-- The registers of the block cvu. -/
def cvuRegs : List RegSpec :=
  [⟨.CVU_CTL, 0x0, 1, [(0x100, 4)], [fld 0 1 .rw 0, fld 1 2 .rw 0, fld 3 3 .rw 0, fld 6 4 .rw 0, fld 10 1 .rw 0, fld 11 2 .rw 0, fld 13 2 .rw 3, fld 15 1 .rw 0, fld 16 1 .rw 0, fld 17 6 .rw 32, fld 23 1 .rw 0, fld 24 1 .ro 0]⟩,
   ⟨.CVU_POLY, 0x4, 1, [(0x100, 4)], [fld 0 32 .rw 0x4c11db7]⟩,
   ⟨.CVU_INIT, 0x8, 1, [(0x100, 4)], [fld 0 32 .rw 0xffffffff]⟩,
   ⟨.CVU_XOROUT, 0xc, 1, [(0x100, 4)], [fld 0 32 .rw 0xffffffff]⟩,
   ⟨.CVU_EXPECT, 0x10, 1, [(0x100, 4)], [fld 0 32 .rw 0]⟩,
   ⟨.CVU_RESULT, 0x14, 1, [(0x100, 4)], [fld 0 32 .ro 0]⟩,
   ⟨.CVU_RESULT_INFO, 0x18, 1, [(0x100, 4)], [fld 0 16 .ro 0, fld 16 5 .ro 0, fld 31 1 .ro 0]⟩,
   ⟨.CVU_POP, 0x1c, 1, [(0x100, 4)], [fld 0 1 .wo 0]⟩,
   ⟨.CVU_CNT_OK, 0x20, 1, [(0x100, 4)], [fld 0 32 .ro 0]⟩,
   ⟨.CVU_CNT_BAD, 0x24, 1, [(0x100, 4)], [fld 0 32 .ro 0]⟩,
   ⟨.CVU_STAT, 0x28, 1, [(0x100, 4)], [fld 0 16 .ro 0, fld 16 1 .w1c 0, fld 17 15 .ro 0]⟩]

/-- The registers of the block xfe. -/
def xfeRegs : List RegSpec :=
  [⟨.XFE_STATUS, 0x0, 1, [], [fld 0 1 .ro 0, fld 1 1 .ro 0]⟩,
   ⟨.XFE_CNT_OP, 0x4, 1, [], [fld 0 32 .ro 0]⟩,
   ⟨.XFE_CLAMP, 0x8, 1, [], [fld 0 32 .ro 0]⟩,
   ⟨.XFE_CNT_RATIO, 0xc, 1, [], [fld 0 32 .ro 0]⟩,
   ⟨.XFE_CNT_LATE, 0x10, 1, [], [fld 0 16 .ro 0, fld 16 16 .ro 0]⟩,
   ⟨.XFE_LAST_DROP, 0x14, 1, [], [fld 0 6 .ro 0, fld 8 4 .ro 0, fld 12 1 .ro 0, fld 31 1 .w1c 0]⟩]

/-- The registers of the block bme. -/
def bmeRegs : List RegSpec :=
  [⟨.BME_STATUS, 0x0, 1, [], [fld 0 1 .ro 0]⟩,
   ⟨.BME_CNT_OP, 0x4, 1, [], [fld 0 32 .ro 0]⟩,
   ⟨.BME_CLAMP, 0x8, 1, [], [fld 0 32 .ro 0]⟩,
   ⟨.BME_CNT_SAT, 0xc, 1, [], [fld 0 32 .ro 0]⟩]

/-- The registers of the block ring. -/
def ringRegs : List RegSpec :=
  [⟨.BME_RING_STAT, 0x0, 1, [(0x10, 2)], [fld 0 2 .ro 0, fld 8 7 .ro 64]⟩,
   ⟨.BME_RING_XFER, 0x4, 1, [(0x10, 2)], [fld 0 32 .ro 0]⟩,
   ⟨.BME_RING_CHK, 0x8, 1, [(0x10, 2)], [fld 0 32 .ro 0]⟩,
   ⟨.BME_RING_RTR, 0xc, 1, [(0x10, 2)], [fld 0 32 .ro 0]⟩]

/-- The registers of the block pfe. -/
def pfeRegs : List RegSpec :=
  [⟨.PFE_LOAD, 0x0, 1, [], [fld 0 21 .ro 0]⟩,
   ⟨.PFE_STAT, 0x4, 1, [], [fld 0 1 .w1c 0, fld 8 5 .ro 0]⟩,
   ⟨.PFE_CTX_CTL, 0x1000, 1, [(0x40, 32)], [fld 0 1 .rw 0, fld 1 4 .rw 0, fld 10 9 .rw 0, fld 20 8 .rw 1]⟩,
   ⟨.PFE_CTX_PORTS, 0x1008, 2, [(0x40, 32)], [fld 0 48 .rw 0]⟩,
   ⟨.PFE_CTX_FSHIFT, 0x1010, 1, [(0x40, 32)], [fld 0 32 .rw 0]⟩,
   ⟨.PFE_CTX_SCHED, 0x1014, 1, [(0x40, 32)], [fld 0 8 .rw 10, fld 8 4 .rw 1]⟩,
   ⟨.PFE_CTX_OCC, 0x1018, 1, [(0x40, 32), (0x4, 8)], [fld 0 32 .rw 0]⟩,
   ⟨.PFE_CTX_OUT, 0x1038, 1, [(0x40, 32)], [fld 0 23 .rw 0, fld 24 3 .rw 0, rng 27 5 .rw 4 1 31]⟩,
   ⟨.PFE_CTX_CNT, 0x103c, 1, [(0x40, 32)], [fld 0 32 .ro 0]⟩,
   ⟨.PFE_OBS_CTL, 0x4000, 1, [(0x10, 48)], [rng 0 8 .rw 128 1 128, rng 8 4 .rw 0 0 13, fld 12 1 .rw 0, fld 13 9 .rw 0]⟩,
   ⟨.PFE_EVM, 0x4004, 1, [(0x10, 48)], [fld 0 16 .ro 0, fld 16 1 .ro 0, fld 17 1 .w1c 0, fld 18 1 .w1c 0]⟩,
   ⟨.PFE_EVM_SLOT, 0x4008, 1, [(0x10, 48)], [fld 0 32 .ro 0]⟩,
   ⟨.PFE_EVM_DLY, 0x400c, 1, [(0x10, 48)], [fld 0 32 .ro 0]⟩]

/-- The registers of the block tdd. -/
def tddRegs : List RegSpec :=
  [⟨.TDD_CTL, 0x0, 1, [], [fld 0 1 .rwl 0]⟩,
   ⟨.TDD_GRP_CFG, 0x100, 1, [(0x20, 16)], [fld 0 1 .rw 0, rng 1 3 .rw 1 0 6, fld 4 9 .rw 0, fld 13 1 .rw 0, fld 16 1 .rw 0, fld 31 1 .ro 0]⟩,
   ⟨.TDD_GRP_P1, 0x104, 1, [(0x20, 16)], [rng 0 4 .rw 9 0 9, fld 4 9 .rw 0, fld 13 4 .rw 0, fld 17 9 .rw 0, fld 26 4 .rw 0]⟩,
   ⟨.TDD_GRP_P2, 0x108, 1, [(0x20, 16)], [rng 0 4 .rw 9 0 9, fld 4 9 .rw 0, fld 13 4 .rw 0, fld 17 9 .rw 0, fld 26 4 .rw 0]⟩,
   ⟨.TDD_GRP_RAMP, 0x10c, 1, [(0x20, 16)], [fld 0 3 .rw 0, fld 4 3 .rw 0, fld 8 8 .rw 0, fld 16 12 .rw 1600]⟩,
   ⟨.TDD_PIN, 0x110, 1, [(0x20, 16)], [fld 0 1 .rw 0, fld 1 1 .rw 0]⟩,
   ⟨.TDD_PIN_ADV, 0x114, 1, [(0x20, 16)], [fld 0 32 .rw 0]⟩,
   ⟨.TDD_PIN_LL, 0x118, 1, [(0x20, 16)], [fld 0 16 .rw 0, fld 16 16 .rw 0]⟩,
   ⟨.TDD_CNT, 0x11c, 1, [(0x20, 16)], [fld 0 16 .ro 0, fld 16 16 .ro 0]⟩,
   ⟨.TDD_PORT_GRP, 0x400, 1, [(0x4, 24)], [fld 0 4 .rw 0, fld 4 4 .rw 0, fld 8 4 .rw 0, fld 12 4 .rw 0, fld 16 4 .rw 0, fld 20 4 .rw 0, fld 24 4 .rw 0, fld 28 4 .rw 0]⟩,
   ⟨.TDD_RAMP_CFG, 0x800, 1, [(0x100, 8)], [rng 0 2 .rw 1 0 2, fld 16 14 .rw 2000]⟩,
   ⟨.TDD_RAMP_TAB, 0x880, 1, [(0x100, 8), (0x4, 32)], [fld 0 16 .rw 0, fld 16 16 .rw 0]⟩]

/-- The registers of the block dte. -/
def dteRegs : List RegSpec :=
  [⟨.DTE_STATUS, 0x0, 1, [], [fld 0 1 .ro 0, fld 1 1 .ro 0]⟩,
   ⟨.DTE_CNT_OP, 0x4, 1, [], [fld 0 32 .ro 0]⟩,
   ⟨.DTE_CLAMP, 0x8, 1, [], [fld 0 32 .ro 0]⟩,
   ⟨.DTE_CNT_SAT, 0xc, 1, [], [fld 0 32 .ro 0]⟩,
   ⟨.DTE_CNT_CAPT, 0x10, 1, [], [fld 0 16 .ro 0, fld 16 16 .ro 0]⟩,
   ⟨.DTE_CNT_PRE, 0x14, 1, [], [fld 0 32 .ro 0]⟩,
   ⟨.DTE_CNT_TRUNC, 0x18, 1, [], [fld 0 16 .ro 0, fld 16 16 .ro 0]⟩,
   ⟨.DTE_CNT_CLR, 0x1c, 1, [], [fld 0 1 .wo 0]⟩]

/-- The registers of the block cde. -/
def cdeRegs : List RegSpec :=
  [⟨.CDE_STATUS, 0x0, 1, [], [fld 0 1 .ro 0, fld 1 1 .ro 0]⟩,
   ⟨.CDE_CNT_OP, 0x4, 1, [], [fld 0 32 .ro 0]⟩,
   ⟨.CDE_CLAMP, 0x8, 1, [], [fld 0 32 .ro 0]⟩,
   ⟨.CDE_CNT_TRUNC, 0xc, 1, [], [fld 0 32 .ro 0]⟩,
   ⟨.CDE_CNT_TB, 0x10, 1, [], [fld 0 16 .ro 0, fld 16 16 .ro 0]⟩,
   ⟨.CDE_CNT_ITER, 0x14, 1, [], [fld 0 32 .ro 0]⟩,
   ⟨.CDE_CNT_HB, 0x18, 1, [], [fld 0 16 .ro 0]⟩,
   ⟨.CDE_CNT_CLR, 0x1c, 1, [], [fld 0 1 .wo 0]⟩]

/-- The registers of the block cee. -/
def ceeRegs : List RegSpec :=
  [⟨.CEE_STATUS, 0x0, 1, [], [fld 0 1 .ro 0, fld 1 1 .ro 0]⟩,
   ⟨.CEE_CNT_OP, 0x4, 1, [], [fld 0 32 .ro 0]⟩,
   ⟨.CEE_CLAMP, 0x8, 1, [], [fld 0 32 .ro 0]⟩,
   ⟨.CEE_CNT_TRUNC, 0xc, 1, [], [fld 0 32 .ro 0]⟩,
   ⟨.CEE_CNT_CLR, 0x1c, 1, [], [fld 0 1 .wo 0]⟩]

/-- The registers of the block lan. -/
def lanRegs : List RegSpec :=
  [⟨.LAN_CTL, 0x0, 1, [], [fld 0 1 .rw 0, rng 1 3 .rw 0 0 4, fld 4 1 .rw 0, fld 5 1 .rw 0, fld 6 1 .rw 0]⟩,
   ⟨.LAN_STAT, 0x4, 1, [], [fld 0 3 .ro 0, fld 3 1 .ro 0, fld 4 1 .ro 0, fld 5 1 .ro 0, fld 6 1 .w1c 0, fld 7 1 .w1c 0, fld 8 1 .w1c 0, fld 9 1 .w1c 0, fld 16 4 .ro 0, fld 20 1 .ro 0]⟩,
   ⟨.LAN_PORTS, 0x8, 1, [], [rng 0 6 .rw 0 0 47, rng 8 6 .rw 0 0 47, rng 16 6 .rw 0 0 47, rng 24 6 .rw 0 0 47, fld 7 1 .rw 0, fld 15 1 .rw 0, fld 23 1 .rw 0, fld 31 1 .rw 0]⟩,
   ⟨.LAN_RATE, 0xc, 1, [], [rng 0 4 .rw 8 0 9]⟩,
   ⟨.LAN_EQ, 0x10, 1, [], [fld 0 5 .rw 0, fld 8 7 .rw 64, fld 16 5 .rw 0]⟩,
   ⟨.LAN_EQ_EFF, 0x14, 1, [], [fld 0 21 .ro 0x4000]⟩,
   ⟨.LAN_RXA, 0x18, 1, [], [fld 0 1 .ro 0, fld 8 8 .ro 0]⟩,
   ⟨.LAN_SPARE, 0x1c, 1, [], [fld 0 16 .rw 0, fld 16 1 .rw 1, fld 17 4 .rw 0, fld 21 1 .wo 0]⟩,
   ⟨.LAN_ETH, 0x20, 1, [], [fld 0 1 .rw 0, fld 1 12 .rw 0, fld 13 1 .rw 0, rng 14 14 .rw 1500 1500 9600]⟩,
   ⟨.LAN_MAC_LO, 0x24, 1, [], [fld 0 32 .rw 0]⟩,
   ⟨.LAN_MAC_HI, 0x28, 1, [], [fld 0 16 .rw 0]⟩,
   ⟨.LAN_FDPORTS, 0x30, 2, [], [fld 0 48 .rw 0]⟩] ++
  [⟨.LAN_CNT, 0x100, 1, [(0x4, 11)], [fld 0 32 .ro 0]⟩,
   ⟨.LAN_CNT_CLR, 0x13c, 1, [], [fld 0 1 .wo 0]⟩,
   ⟨.LAN_MQ_TX, 0x200, 1, [], [fld 0 32 .wo 0]⟩,
   ⟨.LAN_MQ_TXCTL, 0x204, 1, [], [fld 0 14 .rw 0, fld 31 1 .wo 0]⟩,
   ⟨.LAN_MQ_RX, 0x208, 1, [], [fld 0 32 .ro 0]⟩,
   ⟨.LAN_MQ_RXSTAT, 0x20c, 1, [], [fld 0 14 .ro 0, fld 16 5 .ro 0, fld 31 1 .ro 0]⟩,
   ⟨.LAN_MQ_RXPOP, 0x210, 1, [], [fld 0 1 .wo 0]⟩,
   ⟨.LAN_FWD_LO, 0x300, 1, [(0x8, 8)], [fld 0 32 .rw 0]⟩,
   ⟨.LAN_FWD_HI, 0x304, 1, [(0x8, 8)], [fld 0 16 .rw 0, fld 16 4 .rw 0, fld 31 1 .rw 0]⟩]

/-- The registers of the block cxl. -/
def cxlRegs : List RegSpec :=
  [⟨.CXL_LINK_STAT, 0x20000, 1, [], [fld 0 3 .ro 0, fld 3 2 .ro 0, fld 5 2 .ro 0, fld 7 1 .ro 0, fld 8 1 .ro 0, fld 9 1 .ro 0, fld 16 16 .ro 0]⟩,
   ⟨.CXL_LINK_CNT, 0x20004, 1, [], [fld 0 16 .ro 0, fld 16 16 .ro 0]⟩,
   ⟨.CXL_LOST, 0x20008, 1, [], [fld 0 32 .ro 0]⟩,
   ⟨.CXL_BUDGET, 0x20010, 1, [], [fld 0 15 .ro 0]⟩,
   ⟨.CXL_HDM_STAT, 0x20014, 1, [], [fld 0 4 .ro 0, fld 8 4 .w1c 0]⟩,
   ⟨.CXL_IDE_STAT, 0x20018, 1, [], [fld 0 2 .ro 0, fld 2 1 .ro 0, fld 3 2 .ro 0, fld 5 1 .ro 0, fld 6 1 .ro 0, fld 8 8 .ro 0]⟩,
   ⟨.CXL_BAD_ACC, 0x2001c, 1, [], [fld 0 16 .ro 0, fld 16 16 .ro 0]⟩,
   ⟨.CXL_CNT_CLR, 0x20020, 1, [], [fld 0 1 .wo 0]⟩]

/-- The registers of the block int. -/
def intRegs : List RegSpec :=
  [⟨.INT_CTL, 0x0, 1, [], [fld 0 1 .wo 0]⟩,
   ⟨.INT_ACK, 0x4, 1, [], [fld 0 10 .wo 0]⟩,
   ⟨.INT_CNT_MSG, 0x8, 1, [], [fld 0 32 .ro 0]⟩,
   ⟨.INT_ACTIVE, 0x100, 1, [(0x4, 32)], [fld 0 32 .ro 0]⟩,
   ⟨.INT_STUCK, 0x180, 1, [(0x4, 32)], [fld 0 32 .ro 0]⟩,
   ⟨.INT_SRC_CFG, 0x1000, 1, [(0x4, 1024)], [fld 0 11 .rw 0, fld 11 1 .rw 0, fld 12 10 .rw 1, fld 22 10 .rw 10]⟩,
   ⟨.INT_SRC_STAT, 0x2000, 1, [(0x4, 1024)], [fld 0 1 .ro 0, fld 1 1 .ro 0, fld 2 1 .ro 0, fld 3 1 .ro 0, fld 4 1 .ro 0, fld 16 16 .ro 0]⟩]

/-- The registers of the block phx. -/
def phxRegs : List RegSpec :=
  [⟨.PHX_CTL, 0x0, 1, [], [fld 0 1 .rw 0, fld 1 1 .rw 0, fld 2 1 .rw 0, fld 3 1 .ro 0]⟩,
   ⟨.PHX_STAT, 0x4, 1, [], [fld 0 2 .ro 0, fld 2 1 .w1c 0, fld 3 1 .w1c 0, fld 4 4 .ro 0, fld 8 6 .ro 0]⟩,
   ⟨.PHX_LOAD, 0x8, 1, [], [fld 0 6 .rw 0, fld 30 1 .wo 0, fld 31 1 .wo 0]⟩,
   ⟨.PHX_LOAD_SW, 0xc, 1, [], [fld 0 32 .rw 0]⟩,
   ⟨.PHX_LOAD_STAT, 0x10, 1, [], [fld 0 3 .ro 0, fld 4 4 .ro 0, fld 8 18 .ro 0]⟩,
   ⟨.PHX_LANES, 0x14, 1, [], [fld 0 16 .rw 0]⟩,
   ⟨.PHX_BW, 0x18, 1, [], [fld 0 4 .rw 0]⟩,
   ⟨.PHX_DWIN_BASE, 0x20, 2, [], [fld 12 23 .rw 0]⟩,
   ⟨.PHX_DWIN_LIMIT, 0x28, 2, [], [fld 12 23 .rw 0]⟩,
   ⟨.PHX_CLK, 0x30, 1, [], [fld 0 10 .rw 250]⟩,
   ⟨.PHX_KEY, 0x34, 1, [], [fld 0 1 .rwl 0, fld 1 4 .rwl 0]⟩,
   ⟨.PHX_CMD, 0x38, 1, [], [fld 0 1 .wo 0]⟩] ++
  [⟨.PHX_IRQ, 0x3c, 1, [], [fld 0 1 .w1c 0, fld 1 1 .w1c 0, fld 2 1 .w1c 0, fld 3 1 .w1c 0, fld 4 1 .w1c 0, fld 5 1 .w1c 0]⟩,
   ⟨.PHX_ID, 0x40, 1, [], [fld 0 32 .ro 0]⟩,
   ⟨.PHX_CNT_ERR, 0x44, 1, [], [fld 0 32 .ro 0]⟩]

/-- The registers of the block scr. -/
def scrRegs : List RegSpec :=
  [⟨.SCR_CTL, 0x0, 1, [], [fld 0 1 .rw 1, fld 1 1 .rw 1, fld 2 1 .rw 1, fld 31 1 .wo 0]⟩,
   ⟨.SCR_STAT, 0x4, 1, [], [fld 0 1 .ro 0, fld 1 1 .w1c 0, fld 16 16 .ro 0]⟩,
   ⟨.SCR_CNT, 0x8, 1, [(0x4, 3)], [fld 0 32 .ro 0]⟩,
   ⟨.SCR_LAST, 0x14, 1, [], [fld 0 18 .ro 0, fld 18 1 .ro 0, fld 19 1 .ro 0, fld 31 1 .w1c 0]⟩,
   ⟨.SCR_CHK, 0x20, 1, [], [fld 0 32 .ro 0]⟩,
   ⟨.SCR_NBR, 0x24, 1, [], [fld 0 2 .ro 0, fld 2 1 .w1c 0, fld 8 8 .ro 0, fld 16 16 .ro 0]⟩,
   ⟨.SCR_VOTE, 0x28, 1, [], [fld 0 32 .ro 0]⟩]

/-- The registers of the block prm. -/
def prmRegs : List RegSpec :=
  [⟨.PRM_ID, 0x0, 1, [], [fld 0 8 .ro 1, fld 8 4 .ro 0, fld 16 16 .ro 0x4192]⟩,
   ⟨.PRM_BOOT, 0x4, 1, [], [fld 0 4 .ro 0, fld 4 8 .ro 0, fld 12 1 .ro 0]⟩,
   ⟨.PRM_RST, 0x8, 1, [], [fld 0 1 .wo 0, fld 8 4 .ro 0, fld 16 5 .ro 0]⟩,
   ⟨.PRM_AVS, 0x40, 1, [(0x20, 4), (0x4, 6)], [fld 0 11 .ro 0]⟩,
   ⟨.PRM_Q_CTL, 0x100, 1, [(0x10, 4)], [rng 0 2 .rw 0 0 2, fld 2 1 .rws 0, fld 3 1 .wo 0]⟩,
   ⟨.PRM_Q_STAT, 0x104, 1, [(0x10, 4)], [fld 0 3 .ro 0, fld 3 1 .w1c 0]⟩,
   ⟨.PRM_Q_REFUSE, 0x108, 1, [(0x10, 4)], [fld 0 24 .ro 0, fld 24 4 .ro 0]⟩,
   ⟨.PRM_RAIL_CFG, 0x400, 1, [(0x10, 32)], [fld 0 7 .ro 0, fld 8 4 .ro 0, rng 12 12 .rw 1000 500 4095]⟩,
   ⟨.PRM_RAIL_STAT, 0x404, 1, [(0x10, 32)], [fld 0 11 .ro 0, fld 11 1 .w1c 0, fld 12 1 .w1c 0, fld 13 1 .ro 0]⟩,
   ⟨.PRM_RAIL_TEL, 0x408, 1, [(0x10, 32)], [fld 0 16 .ro 0, fld 16 16 .ro 0]⟩,
   ⟨.PRM_MON_CTL, 0x800, 1, [], [fld 0 1 .rw 0]⟩,
   ⟨.PRM_MON_WARN, 0x804, 1, [], [fld 0 32 .w1c 0]⟩] ++
  [⟨.PRM_THERM, 0x808, 1, [], [fld 0 9 .ro 0, fld 16 9 .ro 0]⟩,
   ⟨.PRM_THERM_CTL, 0x80c, 1, [], [rng 0 9 .rw 290 0 330, fld 16 9 .ro 0, fld 27 5 .w1c 0]⟩,
   ⟨.PRM_THERM_HI, 0x810, 1, [], [fld 0 9 .ro 0, fld 16 9 .ro 0]⟩,
   ⟨.PRM_PMB_CMD, 0x900, 1, [], [fld 0 5 .rw 0, fld 8 8 .rw 0, fld 16 1 .rw 0, fld 31 1 .wo 0]⟩,
   ⟨.PRM_PMB_DATA, 0x904, 1, [], [fld 0 16 .rw 0]⟩,
   ⟨.PRM_PMB_STAT, 0x908, 1, [], [fld 0 1 .ro 0, fld 1 1 .w1c 0, fld 2 1 .w1c 0]⟩,
   ⟨.PRM_EVT, 0x1000, 1, [], [fld 0 4 .w1c 0, fld 4 4 .w1c 0, fld 8 1 .w1c 0, fld 9 1 .w1c 0, fld 10 1 .w1c 0, fld 11 1 .w1c 0]⟩,
   ⟨.PRM_FW_CTL, 0x1004, 1, [], [fld 0 1 .wo 0, fld 1 1 .rw 0]⟩,
   ⟨.PRM_FW_STAT, 0x1008, 1, [], [fld 0 2 .ro 0, fld 2 1 .ro 0, fld 4 2 .ro 0, fld 16 16 .ro 0]⟩,
   ⟨.PRM_REDO_EN, 0x1040, 1, [(0x4, 16)], [fld 0 32 .rw 0]⟩,
   ⟨.PRM_REINIT_CAUSE, 0x1100, 1, [(0x10, 4)], [fld 0 3 .rws 0]⟩,
   ⟨.PRM_REINIT_CNT, 0x1104, 1, [(0x10, 4)], [fld 0 16 .rws 0, fld 16 16 .rws 0]⟩] ++
  [⟨.PRM_JOURNAL, 0x1108, 1, [(0x10, 4)], [fld 0 17 .ro 0]⟩,
   ⟨.PRM_TILES, 0x1200, 1, [(0x20, 4), (0x4, 8)], [fld 0 9 .ro 0, fld 16 9 .ro 0, fld 28 1 .ro 0]⟩,
   ⟨.PRM_RETIRE, 0x1280, 1, [], [fld 0 2 .rw 0, fld 2 3 .rw 0, fld 5 3 .rw 0, fld 31 1 .wo 0]⟩,
   ⟨.PRM_HUB_ECC, 0x1300, 1, [], [fld 0 16 .ro 0, fld 16 16 .ro 0]⟩,
   ⟨.PRM_LOCKSTEP, 0x1304, 1, [], [fld 0 16 .ro 0]⟩,
   ⟨.PRM_FR_STAT, 0x1400, 1, [], [fld 0 16 .ro 0, fld 16 16 .ro 0]⟩,
   ⟨.PRM_FR_HEAD, 0x1404, 1, [], [fld 0 16 .ro 0]⟩,
   ⟨.PRM_FR_SEL, 0x1408, 1, [], [rng 0 16 .rw 0 0 49151]⟩,
   ⟨.PRM_FR_DATA, 0x1440, 1, [(0x4, 16)], [fld 0 32 .ro 0]⟩,
   ⟨.PRM_RMA, 0x1480, 1, [], [fld 0 1 .wo 0, fld 1 1 .ro 0, fld 2 1 .ro 0]⟩,
   ⟨.PRM_RMA_SEC, 0x1484, 1, [], [fld 0 32 .ro 0]⟩,
   ⟨.PRM_RMA_NS, 0x1488, 1, [], [fld 0 32 .ro 0]⟩]

/-- The registers of the block pwrq. -/
def pwrqRegs : List RegSpec :=
  [⟨.PWR_Q_STAT, 0x0, 1, [], [fld 0 11 .ro 0, fld 12 3 .ro 0, fld 16 7 .ro 0]⟩,
   ⟨.PWR_Q_IRQ, 0x4, 1, [], [fld 0 1 .w1c 0, fld 1 1 .w1c 0, fld 2 1 .w1c 0, fld 3 1 .w1c 0]⟩,
   ⟨.PWR_Q_REFUSE, 0x8, 1, [], [fld 0 24 .ro 0, fld 24 4 .ro 0]⟩]

/-- The registers of the block pwrc. -/
def pwrcRegs : List RegSpec :=
  [⟨.PWR_CL_CTL, 0x0, 1, [], [rng 0 3 .rw 0 0 5, rng 4 2 .rw 2 0 2, fld 6 1 .rw 0]⟩,
   ⟨.PWR_CL_STAT, 0x4, 1, [], [fld 0 3 .ro 0, fld 4 3 .ro 0, fld 7 1 .ro 0]⟩,
   ⟨.PWR_CL_TILEMAP, 0x8, 1, [], [fld 0 4 .ro 0, fld 4 4 .ro 1, fld 8 4 .ro 2, fld 12 4 .ro 3, fld 16 4 .ro 4, fld 20 4 .ro 5, fld 24 4 .ro 6, fld 28 4 .ro 7]⟩,
   ⟨.PWR_CL_CNT, 0xc, 1, [], [fld 0 16 .ro 0, fld 16 16 .ro 0]⟩,
   ⟨.PWR_CL_LOST, 0x10, 1, [], [fld 0 32 .ro 0]⟩,
   ⟨.PWR_CL_REFUSE, 0x14, 1, [], [fld 0 24 .ro 0, fld 24 4 .ro 0]⟩,
   ⟨.PWR_CL_CMD, 0x18, 1, [], [fld 0 1 .rw 0, fld 1 1 .wo 0, fld 2 1 .wo 0]⟩]

/-- The registers of the block fxg. -/
def fxgRegs : List RegSpec :=
  [⟨.FXG_STAT, 0x0, 1, [], [fld 0 2 .ro 0, fld 2 1 .ro 0, fld 3 1 .ro 0, fld 4 1 .ro 0, fld 5 1 .ro 0]⟩,
   ⟨.FXG_POLICY, 0x4, 1, [], [fld 0 4 .ro 0, fld 8 8 .ro 0, fld 16 8 .ro 0]⟩,
   ⟨.FXG_SERIAL, 0x8, 2, [], [fld 0 64 .ro 0]⟩,
   ⟨.FXG_SVN, 0x10, 1, [], [fld 0 7 .ro 0, fld 8 7 .ro 0]⟩,
   ⟨.FXG_NONCE, 0x20, 1, [(0x4, 8)], [fld 0 32 .ro 0]⟩,
   ⟨.FXG_CMD, 0x40, 1, [], [fld 0 1 .wo 0, fld 31 1 .wo 0]⟩,
   ⟨.FXG_CMD_STAT, 0x44, 1, [], [fld 0 1 .ro 0, fld 4 8 .ro 0, fld 16 4 .ro 0]⟩,
   ⟨.FXG_IRQ, 0x48, 1, [], [fld 0 1 .w1c 0, fld 1 1 .w1c 0, fld 2 1 .w1c 0, fld 3 1 .w1c 0, fld 4 1 .w1c 0]⟩,
   ⟨.FXG_VFAIL, 0x4c, 1, [], [fld 0 16 .ro 0, fld 16 3 .ro 0]⟩,
   ⟨.FXG_TAMPER, 0x50, 1, [], [fld 0 1 .w1s 0, fld 8 8 .ro 0]⟩,
   ⟨.FXG_TAMPER_SEC, 0x54, 1, [], [fld 0 32 .ro 0]⟩,
   ⟨.FXG_TAMPER_NS, 0x58, 1, [], [fld 0 32 .ro 0]⟩] ++
  [⟨.FXG_DBG_ATTACH, 0x60, 1, [], [fld 0 2 .rw 0, fld 2 3 .rw 0, fld 5 3 .rw 0, fld 8 1 .rw 0, fld 9 1 .ro 0, fld 10 1 .rw 0]⟩,
   ⟨.FXG_DBG_OFS, 0x64, 1, [], [rng 0 4 .rw 0 0 9]⟩,
   ⟨.FXG_DBG_EXP, 0x68, 1, [], [fld 0 32 .ro 0]⟩]

/-- The registers of the block nvs. -/
def nvsRegs : List RegSpec :=
  [⟨.NVS_STAT, 0x0, 1, [], [fld 0 1 .ro 0, fld 1 1 .w1c 0, fld 2 1 .w1c 0]⟩,
   ⟨.NVS_OP, 0x4, 1, [], [fld 0 2 .rw 0, rng 2 7 .rw 0 0 66, fld 31 1 .wo 0]⟩,
   ⟨.NVS_OFS, 0x8, 1, [], [fld 5 23 .rw 0]⟩,
   ⟨.NVS_LEN, 0xc, 1, [], [rng 0 17 .rw 65536 1 65536]⟩,
   ⟨.NVS_ECC, 0x10, 1, [], [fld 0 16 .ro 0, fld 16 16 .ro 0]⟩,
   ⟨.NVS_IGN, 0x14, 1, [], [fld 0 32 .ro 0]⟩,
   ⟨.NVS_SLOT_CFG, 0x100, 1, [(0x8, 64)], [fld 0 12 .rw 0, fld 16 12 .rw 0]⟩,
   ⟨.NVS_SLOT_STAT, 0x104, 1, [(0x8, 64)], [fld 0 1 .ro 0, fld 1 1 .w1c 0]⟩]

/-- The registers of a block. -/
def blockRegs : Block → List RegSpec
  | .lks => lksRegs
  | .leaf => leafRegs
  | .evt => evtRegs
  | .adm => admRegs
  | .dah => dahRegs
  | .til => tilRegs
  | .mem => memRegs
  | .csm => csmRegs
  | .dma => dmaRegs
  | .cvu => cvuRegs
  | .xfe => xfeRegs
  | .bme => bmeRegs
  | .ring => ringRegs
  | .pfe => pfeRegs
  | .tdd => tddRegs
  | .dte => dteRegs
  | .cde => cdeRegs
  | .cee => ceeRegs
  | .lan => lanRegs
  | .cxl => cxlRegs
  | .int => intRegs
  | .phx => phxRegs
  | .scr => scrRegs
  | .prm => prmRegs
  | .pwrq => pwrqRegs
  | .pwrc => pwrcRegs
  | .fxg => fxgRegs
  | .nvs => nvsRegs

/-- The index of byte offset x within strides dims from off: the indices and what is left over (0 or the byte
within the register). -/
def dimIndex : List (Nat × Nat) → Nat → Option (List Nat × Nat)
  | [], x => some ([], x)
  | (s, c) :: t, x =>
    if x / s < c then (dimIndex t (x % s)).map fun r => (x / s :: r.1, r.2) else none

/-- The register of a block that holds the 32-bit word at byte offset x: the register, its indices, and the word (0 low, 1 high). -/
def findReg : List RegSpec → Nat → Option (RegSpec × List Nat × Nat)
  | [], _ => none
  | r :: t, x =>
    if x < r.off then findReg t x
    else match dimIndex r.dims (x - r.off) with
      | some (ix, rest) => if rest / 4 < r.words then some (r, ix, rest / 4) else findReg t x
      | none => findReg t x

/-- R37 to R39: the block of a BAR0 offset, its unit (quadrant, cluster, tile, lane, partition or scrubber) and the
offset in it; none in a reserved range. -/
def blockOf (a : Nat) : Option (Block × Nat × Nat) :=
  if a < 0x100000 then some (.prm, 0, a)
  else if a < 0x200000 then some (.lks, 0, a - 0x100000)
  else if a < 0x300000 then some (.fxg, 0, a - 0x200000)
  else if a < 0x400000 then some (.cxl, 0, a - 0x300000)
  else if a < 0x500000 then some (.nvs, 0, a - 0x400000)
  else if a < 0x600000 then some (.int, 0, a - 0x500000)
  else if a < 0x700000 then
    (let x := a - 0x600000
     if x < 0x8000 then some (.phx, 16 + x / 0x4000, x % 0x4000)
     else if x < 0x9000 then some (.scr, 4, x - 0x8000) else none)
  else if a < 0x780000 then some (.evt, 0, a - 0x700000)
  else if a < 0x800000 then some (.tdd, 0, a - 0x780000)
  else if a < 0x1000000 then none
  else if a < 0x5000000 then
    (let q := a / 0x1000000 - 1
     let x := a % 0x1000000
     if x < 0x800000 then
       (let k := 8 * q + x / 0x100000
        let y := x % 0x100000
        if y < 0x90000 then some (.til, 9 * k + y / 0x10000, y % 0x10000)
        else if y < 0xA0000 then some (.csm, k, y - 0x90000)
        else if y < 0xB0000 then some (.dah, k, y - 0xA0000)
        else if y < 0xC0000 then some (.dma, k, y - 0xB0000)
        else if y < 0xD0000 then some (.cvu, k, y - 0xC0000)
        else if y < 0xD8000 then some (.xfe, k, y - 0xD0000)
        else if y < 0xE0000 then some (.bme, k, y - 0xD8000)
        else if y < 0xE8000 then some (.dte, k, y - 0xE0000)
        else if y < 0xF0000 then some (.cde, k, y - 0xE8000)
        else if y < 0xF8000 then some (.cee, k, y - 0xF0000)
        else some (.pwrc, k, y - 0xF8000))
     else
       (let y := x - 0x800000
        match y / 0x10000 with
        | 0 => some (.adm, q, y % 0x10000)
        | 1 => some (.mem, q, y % 0x10000)
        | 2 => some (.lan, 16 * q + (y % 0x10000) / 0x1000, y % 0x1000)
        | 3 => some (.pfe, q, y % 0x10000)
        | 4 => some (.phx, 4 * q + (y % 0x10000) / 0x4000, y % 0x4000)
        | 5 => some (.scr, q, y % 0x10000)
        | 6 => some (.pwrq, q, y % 0x10000)
        | 7 => some (.leaf, q, y % 0x10000)
        | 8 => some (.ring, q, y % 0x10000)
        | _ => none))
  else none

/-- A register found at a BAR0 offset. -/
structure RegHit where
  block : Block
  unit : Nat
  spec : RegSpec
  ix : List Nat
  word : Nat
deriving DecidableEq, Repr

/-- The register that holds the 32-bit word at a BAR0 offset (a multiple of 4); none where no register is defined (R42). -/
def regAt (a : Nat) : Option RegHit :=
  match blockOf a with
  | none => none
  | some (b, u, x) => (findReg (blockRegs b) x).map fun r => ⟨b, u, r.1, r.2.1, r.2.2⟩

/-- The 32-bit word w of a register value laid out in fields. -/
def wordOf (v w : Nat) : Word := BitVec.ofNat 32 (bitsOf v (32 * w) 32)

/-- The reset value of a register from its fields (R11). -/
def specReset : List FieldSpec → Nat
  | [] => 0
  | f :: t => f.reset * 2 ^ f.lo + specReset t

/-- The typical voltage of an operating point in mV (R473): the reset value of PRM_AVS, which the spec takes from fuses. Log: 13 DESIGN CHOICE. -/
def typicalMv (op : Nat) : Nat :=
  match op with
  | 0 => 600
  | 1 => 650
  | 2 => 680
  | 3 => 720
  | 4 => 760
  | _ => 820

/-- The nominal target of rail k in mV (R469); VDD_Qq starts at the point OP0. Log: 13 DESIGN CHOICE. -/
def nominalMv (k : Nat) : Nat :=
  if k < 8 then
    match k with
    | 0 | 1 => 750
    | 2 => 1800
    | 3 => 850
    | 4 | 5 => 1200
    | _ => 0
  else
    match (k - 8) % 6 with
    | 0 => typicalMv 0
    | 1 => 800
    | 2 => 1100
    | 3 => 1800
    | 4 => 900
    | _ => 1200

/-- The fields whose reset value depends on the register's index: TIL_CSM_WIN(0) and TIL_CSM_LIM(0) (R168), INT_SRC_CFG(s), SCR_NBR.TARGET, q + 1 mod 4 (R467), which in the hub's
scrubber, of no q, the model takes with q = 4 as Q1, the AVS and rail targets, and the life cycle, which starts as UNOWNED. Log: 13 DESIGN CHOICE. -/
def indexedReset (h : RegHit) (v : Nat) : Nat :=
  match h.spec.name, h.ix with
  | .TIL_CSM_WIN, [0] => putBits v 0 2 3
  | .TIL_CSM_LIM, [0] => putBits v 12 11 0x7FF
  | .INT_SRC_CFG, [s] => putBits v 0 11 s
  | .SCR_NBR, _ => putBits v 0 2 ((h.unit + 1) % 4)
  | .PRM_AVS, [_, op] => putBits v 0 11 (typicalMv op)
  | .PRM_RAIL_STAT, [k] => putBits v 0 11 (nominalMv k)
  | .PWR_Q_STAT, _ => putBits v 0 11 (typicalMv 0)
  | .FXG_STAT, _ => putBits v 0 2 1
  | _, _ => v

/-- The reset value of the 32-bit word at a BAR0 offset; where no register is defined 0, but for the mask bits of the MSI-X vector table (R441, PCI Express). Log: 13 DESIGN CHOICE, 85 PRESUMED. -/
def regReset (a : Nat) : Word :=
  match regAt a with
  | none => if intBase + 0x10000 ≤ a ∧ a < intBase + 0x18000 ∧ a % 16 = 12 then 1 else 0
  | some h => wordOf (indexedReset h (specReset h.spec.fields)) h.word

end Sys2Proof.Machine
end

