-- ==== Sys2Proof/Machine/State.lean ====
section
/-!
DEFINITION. The state of the OZG-4192 as plain data: every register, FIFO, buffer, counter, mode and pin the spec gives the
block, and the queue of commands that wait. Registers with bits of their own are held by BAR0 offset in `regs`
(Machine/RegMap.lean gives their fields and reset values); what the spec gives as a record, a queue or a table is held
as one. Instants are chip time in ps (Int); an unlisted key of a sparse map reads as its family's default.
-/

namespace Sys2Proof.Machine

/-- Why the machine stops. Log: 16 DESIGN CHOICE. -/
inductive Fault where
  /-- Raised by PATROL_SCRUB on a granule that lies outside its memory: the spec gives no such codeword. Safe. -/
  | noSuchGranule
deriving DecidableEq, Repr

/-- Why a command has no meaning here. -/
inductive Refusal where
  /-- Raised by exec for a row that has no meaning yet, by its mnemonic. Safe. -/
  | notModelled (mnemonic : String)
deriving DecidableEq, Repr

/-- Chip time (R48): seconds, nanoseconds, 2^-16 ns, and the 24 bits Larkspur keeps below FRAC. -/
structure CT where
  sec : DWord := 0
  ns : Word := 0
  frac : Half := 0
  sub : BitVec 24 := 0
deriving DecidableEq, Repr

/-- A PTP servo (R76): its estimate of network time at the start of an always-on cycle (2^-40 ns) with the number of that cycle, its integral state
(1/256 ppb), the last Sync's transmit and receive instants, a two-step Sync that waits for its Follow_Up and the mean path delay (all in 2^-17 ps), the transmit stamp of its last
Delay_Req (ps), the announce interval, and
since when no valid Sync has come: the last one, or the enabling. Log: 131 DEDUCED. -/
structure Servo where
  est : Int := 0
  cyc : Nat := 0
  fadj : Int := 0
  t1 : Int := 0
  t2 : Int := 0
  t3 : Int := 0
  waiting : Option Int := none
  delay : Int := 0
  lastSync : Option Int := none
  annPs : Nat := 125000000000
deriving DecidableEq, Repr

/-- Larkspur's root beside its registers: the remaining phase (2^-40 ns, R73), the effects that wait for the next always-on
cycle (R53, R48, R55, R76, R77, R89), the servos, the frequency of the recovered SyncE clock (R79), whether the tick and, as a mask, the quadrants' slot boundaries of this
cycle have happened, the instant of the loss of lock, the unicast clients served (lane and client, R81), and the pulse and PTM timing. -/
structure Larkspur where
  remain : Int := 0
  addend : Nat := 0x280000000000
  pendLoad : Option (Nat × Nat) := none
  pendSnap : Bool := false
  pendBase : Option (Nat × Bool) := none
  pendLost : List (Fin 2) := []
  pendSwitch : Option (Fin 2) := none
  servoA : Servo := {}
  servoB : Servo := {}
  synceFadj : Int := 0
  tickDone : Bool := false
  slotDone : Nat := 0
  holdSince : Option Int := none
  delayReqs : List (Nat × Int) := []
  clients : List (Nat × Nat) := []
  ppsRise : Option Int := none
  lastPtm : Option Int := none
deriving DecidableEq, Repr

/-- The 200 ns that follow an accepted event (R93): when they end, the level just after the event, the last edge seen. -/
structure PinWindow where
  ends : Int
  level : Bool
  last : Option (Int × Bool)
deriving DecidableEq, Repr

/-- An entry of the event FIFO (R96). -/
structure EvtEntry where
  stamp : Int
  source : Nat
  rising : Bool
  coalesced : Bool
deriving DecidableEq, Repr

/-- An interrupt source (R440 to R443): among its instants that of its last change of level, that at which it last became due, and, of its last message, when it was sent and when it fell due. -/
structure IntSrc where
  asserted : Bool := false
  pend : Bool := false
  stuck : Bool := false
  due : Bool := false
  coalesced : Nat := 0
  since : Int := 0
  dueAt : Int := 0
  lastMsg : Option Int := none
  lastDue : Int := 0
deriving DecidableEq, Repr

/-- What a pin's last edge changed, to be undone where it proves to have begun a pulse of less than 2 ns (R92): the pin before it, the entry it put into the FIFO, and before
it the overrun count, LOST and the pin's interrupt source with that of LOST. -/
structure PinUndo where
  level : Bool
  since : Int
  edge : Option Int
  window : Option PinWindow
  entry : Option EvtEntry
  ovr : Nat
  lost : Nat
  src : IntSrc
  lostSrc : IntSrc
deriving DecidableEq, Repr

/-- An event pin, or PPS_IN: its level and since when, the last edge detected with what it changed, and the 200 ns in progress. -/
structure Pin where
  level : Bool := false
  since : Int := 0
  edge : Option Int := none
  window : Option PinWindow := none
  undo : Option PinUndo := none
deriving DecidableEq, Repr

/-- The configuration-space bits that the rules read (R426, R432, R436, R440, R441). -/
structure CfgSpace where
  msixEnable : Bool := false
  funcMask : Bool := false
  ptmEnable : Bool := false
  biEnable : Bool := false
  bars : SMap Nat := []
deriving DecidableEq, Repr

/-- An HDM decoder (R432): the HPA range that its registers hold, its interleave ways, and its Committed and Error Not Committed bits. -/
structure HdmDec where
  base : Nat := 0
  size : Nat := 0
  ways : Nat := 0
  committed : Bool := false
  err : Bool := false
deriving DecidableEq, Repr

/-- A window of a plan (R149), with the quadrant of its part; open and close in ns from the slot boundary. -/
structure Window where
  quad : Nat
  type : Nat
  cluster : Nat
  tile : Nat
  slot : Nat
  cls : Nat
  opn : Int
  clo : Int
deriving DecidableEq, Repr

/-- An entry of a lane section (R415). -/
structure LaneEnt where
  port : Nat
  fd : Bool
  prach : Bool
  rxAddr : Nat
  rxCl : Nat
  rxGa : Nat
  txAddr : Nat
  txCl : Nat
  txGa : Nat
  eaxc : Nat
  secid : Nat
  nprb : Nat
  iqw : Nat
  comp : Bool
  nslot : Nat
  mbps : Nat
  cpAddr : Nat
  cpCl : Nat
deriving DecidableEq, Repr

/-- A part of a plan (R148). -/
structure PlanPart where
  quad : Nat
  dram : Nat
  host : Nat
  depth : List Nat
  ring0 : Nat
  ring1 : Nat
  net : List Nat
  lanes : List LaneEnt
deriving DecidableEq, Repr

/-- A plan that holds resources (R108): its image, the carrier instance, the order of acceptance, FIRST_SLOT and its boundary, and, once
it is replaced or dropped, the boundary from which it is no longer in force and the instant its resources are freed. sharesAt is
the frame boundary at which it takes its DRAM shares (R24). -/
structure Plan where
  ci : Nat
  home : Nat
  coupled : Bool
  op : Nat
  mu : Nat
  period : Nat
  dtxMax : Nat
  drxMax : Nat
  parts : List PlanPart
  windows : List Window
  seq : Nat
  firstSlot : Int
  tFirst : Int
  tEnd : Option Int
  freeAt : Option Int
  sharesAt : Int
  delayViol : Bool
deriving DecidableEq, Repr

/-- A command word that the reader holds (R136): its 512 bits, the instants of terms 1 and 2 of its stamp, and
whether a function reset has taken its record (R428). -/
structure CmdWord where
  bits : Nat
  term1 : Int
  term2 : Int
  lost : Bool := false
deriving DecidableEq, Repr

/-- A TASK command after clamping, with its AT time. -/
structure TaskCmd where
  kind : Nat
  win : Nat
  prog : Nat
  inFirst : Nat
  inLast : Nat
  outFirst : Nat
  outLast : Nat
  inEn : Bool
  outEn : Bool
  cost : Nat
  args : List Nat
  at_ : Option Int
deriving DecidableEq, Repr

/-- An EDGE or AT command of an open job as read: two task fields, or a task field and a time (R143). -/
inductive Rel where
  | edge (src dst : Nat)
  | atTime (task : Nat) (time : Int)
deriving DecidableEq, Repr

/-- A job as its commands give it: open, or closed and undecided. rels are its EDGE and AT commands as read; edges and ats are what JOB_CLOSE makes of
them. fenceSeq is the number of jobs of the ring that precede the last FENCE of KIND COMPLETE or FULL before it (0 where there is none); term1, term2 and
term4 are those of its stamp (R136); lost says that its record is discarded (R428). -/
structure JobCmd where
  ci : Nat
  cls : Nat
  slot : Nat
  tag : Nat
  deadline : Nat
  irq : Bool
  seq : Nat
  fenceSeq : Nat
  tasks : List TaskCmd := []
  rels : List Rel := []
  edges : List (Nat × Nat) := []
  ats : List (Nat × Int) := []
  term1 : Int := 0
  term2 : Int := 0
  term4 : Int := 0
  lost : Bool := false
deriving DecidableEq, Repr

/-- A periodic item of a ring (R161). -/
structure Item where
  period : Nat
  count : Nat
  value : Nat
  tag : Nat
  irq : Bool
  fired : Nat
  next : Int
deriving DecidableEq, Repr

/-- A SIGNAL whose record is not yet written (R162), the job counts of the fences before it (R125), and when those became satisfied. -/
structure Signal where
  value : Nat
  tag : Nat
  irq : Bool
  readAt : Int
  admitSeq : Nat
  fenceSeq : Nat
  met : Option Int
deriving DecidableEq, Repr

/-- A completion record's content (R145); due is the deadline of a job that has one, from which SLACK follows as the record is written. -/
structure Rec where
  tag : Nat
  outcome : Nat
  detail : Nat
  task : Nat
  source : Nat
  ref : Nat
  ci : Nat
  stamp : Int
  due : Option Int
  count : Nat
deriving DecidableEq, Repr

/-- A record that has fallen due and is not written yet (R97, R146, R272, R274): its ring, IRQ and content, the record node of its job, whether the hub's record writer writes it (R508), and,
once its request to the host is out, its address and bytes. -/
structure PendRec where
  ring : Nat
  irq : Bool
  rec_ : Rec
  job : Option Nat := none
  hub : Bool := false
  sent : Option (Nat × List Byte) := none
deriving DecidableEq, Repr

/-- A ring (R132 to R139). stamps are the doorbell instants of the visible words in order; words are those fetched and not yet acted on. seq counts
the jobs closed and decided those decided; fins gives, for each accepted job, the latest fin + T_REC of the accepted jobs up to it (R125); badBase says that a
queue base has failed its check since the ring was enabled (R252). -/
structure Ring where
  cmdHead : Nat := 0
  cmdTail : Nat := 0
  cqHead : Nat := 0
  cqTail : Nat := 0
  phase : Bool := true
  reserved : Nat := 0
  stamps : List Int := []
  words : List CmdWord := []
  openJob : Option JobCmd := none
  closed : List JobCmd := []
  lastDecision : Option Int := none
  seq : Nat := 0
  decided : Nat := 0
  admitSeq : Nat := 0
  fenceSeq : Nat := 0
  fins : List (Nat × Int) := []
  items : List Item := []
  signals : List Signal := []
  badBase : Bool := false
deriving DecidableEq, Repr

/-- Kinds of plan and program command that the quadrant has read and not yet decided (R136, R137). -/
inductive UKind where
  | planSet | planDrop | programLoad | programSwap
deriving DecidableEq, Repr

/-- Such a command: its fields as clamped, its stamp's terms, the image it fetched (none where the fetch failed), the clusters whose operating point is being
raised for it, and whether such a raise was refused (R477). -/
structure UCmd where
  kind : UKind
  ring : Nat
  irq : Bool
  ci : Nat
  slot : Nat
  tag : Nat
  prog : Nat
  clusters : Nat
  tiles : Nat
  term2 : Int
  stamp : Int
  image : Option (List Byte)
  raised : List Nat := []
  refused : Bool := false
  lost : Bool := false
deriving DecidableEq, Repr

/-- States of a program version (R164). -/
inductive VerState where
  | active | pending | retiring
deriving DecidableEq, Repr

/-- A version of a program on a logical tile (R164 to R166): its place in 256-byte units, its image, and, once it is in force by a PROGRAM_SWAP, the
swap's decision instant and T_sw. id is unique; cluster counts over the chip. -/
structure ProgVer where
  id : Nat
  cluster : Nat
  tile : Nat
  prog : Nat
  state : VerState
  unit : Nat
  units : Nat
  image : List Byte
  swap : Option (Int × Int)
deriving DecidableEq, Repr

/-- How far a task node has come (R152 to R156). -/
inductive NodeState where
  | waiting | running | ended
deriving DecidableEq, Repr

/-- A task node (R151 to R159). opn, clo, rt, need and bound are instants of CT; bound is that of R154. idx is the task's index, succs the indices of its
successors, each once for an EDGE and once for the window order of R116. cost is in ps, budget in cycles, ver the version it was admitted with. -/
structure Node where
  id : Nat
  idx : Nat
  quad : Nat
  cluster : Nat
  res : Nat
  win : Nat
  cmd : TaskCmd
  opn : Int
  clo : Int
  cost : Nat
  budget : Nat
  ver : Option Nat
  succs : List Nat
  counter : Nat
  rt : Int
  need : Int
  bound : Int
  released : Bool := false
  inputDone : Bool := false
  readyAt : Option Int := none
  st : NodeState := .waiting
  started : Int := 0
  onChip : Bool := false
  hostWait : Bool := false
  redone : Bool := false
  drop : Bool := false
  woken : Bool := false
deriving DecidableEq, Repr

/-- A failing happening of a job (R102): its stamp, outcome code, detail and task index. -/
structure Happening where
  stamp : Int
  outcome : Nat
  detail : Nat
  task : Nat
deriving DecidableEq, Repr

/-- An accepted job (R97, R151): its commands, ring and plan (by order of acceptance), slot boundary, deadline, stamp and decision instant, nodes, the record
node's identifier and counter, its first failing happening, the happenings that redone and rerun tasks may withdraw (R503, R504), the tasks that completed, and the
instant at which its last task ended. fenced says that its nodes wait for a FENCE; lost that its record is discarded (R428). -/
structure Job where
  cmd : JobCmd
  ring : Nat
  planSeq : Nat
  home : Nat
  s0 : Int
  slotLen : Nat
  deadline : Int
  stamp : Int
  tNow : Int
  nodes : List Node
  recNode : Nat
  recCounter : Nat
  fail : Option Happening := none
  held : List Happening := []
  completed : Nat := 0
  endAt : Int := 0
  fenced : Bool := false
  lost : Bool := false
deriving DecidableEq, Repr

/-- A completion notice on its way to a node of another cluster or quadrant (R158): the node, when it is due, and the node that ended. -/
structure Notice where
  node : Nat
  due : Int
  src : Nat
deriving DecidableEq, Repr

/-- A transfer on the coupling ring (R36, R321): the node that sent it, its job's record node, the quadrants it leaves and enters and the direction it takes (0 towards
q + 1), what it writes there (flat addresses), and whether its data are poisoned. -/
structure RingXfer where
  src : Nat
  rec_ : Nat
  fromQ : Nat
  toQ : Nat
  dir : Nat
  writes : List (Nat × List Byte)
  poison : Bool
deriving DecidableEq, Repr

/-- Where a register write of a tile lands. A vector landing carries the mask of the bits it writes; replace marks the landing of a MOVA (R182). -/
inductive Dest where
  | s (r : Nat)
  | v (phys : Nat) (mask : Nat)
  | mask (m : Nat)
  | acc (a : Nat) (replace : Bool)
  | vacc (a : Nat)
  | creg (n : Nat)
  | sat
deriving DecidableEq, Repr

/-- A write in flight (R187): the issue cycles it still lacks, its destination and value. The list of a tile is in issue order. -/
structure Flight where
  left : Nat
  dst : Dest
  val : Nat
deriving DecidableEq, Repr

/-- An active hardware loop (R193): first and end word addresses, further passes, and ROT. -/
structure HwLoop where
  start : Nat
  stop : Nat
  left : Nat
  rot : Bool
deriving DecidableEq, Repr

/-- Operations of the SA and SB slots (R180). -/
inductive SOp where
  | nop | add | sub | addi | and | or | xor | ori | shl | shr | sra | shli | shri | srai | min | max | abs | slt | sltu | seq
  | movhi | orlo | exp | norm | mul | mulh | macl | mach | msul | mova | exta | expa
  | beqz | bnez | bltz | bgez | bgtz | blez | br | call | jr | rep | repi | loop | loopi | rotb | mfc | mtc | taskEnd | reti | wfe
deriving DecidableEq, Repr

/-- Operations of the LS slot (R185, R231). -/
inductive LOp where
  | nop | ldw | ldh | ldhu | ldb | ldbu | stw | sth | stb | ldwPost | stwPost | fence | vld | vst | vldx | vstx
deriving DecidableEq, Repr

/-- Operations of the VX slot (R224). -/
inductive VOp where
  | nop | setl | add | sub | min | max | abs | neg | conj | shl | sra | srar | splat | get | mov | mulq | cmulq | cmuljq
  | mac | msub | cmac | cmacj | mova | exta | clra | tperm | tperm2 | widen | narrow | bexp | normb | pack10 | unpack10
  | cmpeq | cmplt | cmple | mand | mor | mxor | mandn | msetn | mtov | mcnt
deriving DecidableEq, Repr

/-- A decoded syllable: its slot and operation and the operand fields of its format. -/
inductive Syl where
  | sc (sb : Bool) (op : SOp) (sat : Bool) (rd ra rb : Nat) (imm : Nat)
  | ls (op : LOp) (rd ra : Nat) (imm : Nat) (m type : Nat) (pi : Bool)
  | vx (op : VOp) (sat : Bool) (vd va vb : Nat) (m type : Nat)
deriving DecidableEq, Repr

/-- Which handler is active (R201, R206). -/
inductive Handler where
  | none | interrupt | exception
deriving DecidableEq, Repr

/-- How a task ends on a tile: TASK_END, a spent budget or an exception of R207, or an ECC exception. -/
inductive TileEnd where
  | done | overrun | ecc
deriving DecidableEq, Repr

/-- A tile's core (R173 to R176, R214 to R219). Registers whose unlisted value is 0. acc and vacc hold the value EXTA and VEXTA read,
accRun and vaccRun the value the next accumulation builds on (R182, R227). prog, code and codeLen are the program number, the flat address of its code and CODE_LEN;
branch counts delay slots left with the target of a taken branch; stage holds the syllables of the bundle that is being given, each with its E bit; fault is a
raised exception not yet entered: its cause, ebad, and whether it counts as ECC; wait is the mask of a WFE that waits; since gives, for each line, the cycle in which its interrupt
became pending; ending is an end of task that waits for DMA; vxPc is the epc of a vector fault, afterReti says that an exception handler has just returned; halted that a debug
session has stopped the core; savedRep keeps the repetitions left of a body that raised an exception, with its PC (R192); csm0 is the CSM cycle of R20, modulo 16, at cycle 0 of the
core. Log: 14 DESIGN CHOICE. -/
structure Tile where
  running : Bool := false
  node : Nat := 0
  task : Nat := 0
  prog : Nat := 0
  code : Nat := 0
  codeLen : Nat := 0
  pc : Nat := 0
  first : Bool := true
  branch : Option (Nat × Option Nat) := none
  savedBranch : Option (Nat × Option Nat) := none
  savedRep : Option (Nat × Nat) := none
  loops : List HwLoop := []
  rep : Option Nat := none
  handler : Handler := .none
  stage : List (Syl × Bool) := []
  fault : Option (Nat × Nat × Bool) := none
  wait : Option Nat := none
  ending : Option TileEnd := none
  sreg : SMap Word := []
  vreg : SMap VReg := []
  mreg : SMap (BitVec 128) := []
  acc : SMap Acc := []
  accRun : SMap Acc := []
  vacc : SMap (BitVec 5120) := []
  vaccRun : SMap (BitVec 5120) := []
  flights : List Flight := []
  held : List Flight := []
  cycle : BitVec 64 := 0
  csm0 : Nat := 0
  cycleHi : Word := 0
  tctNs : Word := 0
  budget : Nat := 0
  budget0 : Nat := 0
  satFlag : Bool := false
  vrb : Nat := 0
  irqMask : Nat := 0
  irqPend : Nat := 0
  since : List (Option Nat) := [none, none, none]
  irqHold : Nat := 0
  ipc : Word := 0
  epc : Word := 0
  ecause : Nat := 0
  ebad : Word := 0
  ivec : Word := 0
  evec : Word := 0
  tmrSec : Word := 0
  tmrNs : Word := 0
  tmrArmed : Bool := false
  mbox : Word := 0
  taskinfo : Word := 0
  vl : Nat := 0
  vxIndex : Nat := 0
  vxReason : Nat := 0
  vxPc : Option Nat := none
  afterReti : Bool := false
  halted : Bool := false
  wins : List (Nat × Nat) := []
deriving DecidableEq, Repr

/-- How far the next line of a move has come: nothing is asked of the host yet, its RdCurr is out, its data have returned (R273), or its write is out and waits for the GO
(R272); held: its data are read, and it waits for the host to give up a line of DRAM, beyond the end of its task (R275). -/
inductive MoveSt where
  | idle | reading | returned | writing | held
deriving DecidableEq, Repr

/-- The data of a checked DMA entry that has not moved yet: flat source and destination, length, the entry, whether the source (rd) and the destination (go) are in host
memory, how far its next line has come, and the bytes of a write that waits for its GO, each with whether it came from a bad granule; dev is the device address of the destination, and
fresh says that nothing of the entry has moved. -/
structure Move where
  src : Nat
  dst : Nat
  dev : Nat
  len : Nat
  entry : Nat
  rd : Bool
  go : Bool
  st : MoveSt := .idle
  data : List (Byte × Bool) := []
  fresh : Bool := true
deriving DecidableEq, Repr

/-- A move of a task that left the task channel with writes under way (R273, R275, R279): the job's record node, the task's node, and the move. -/
structure LateMove where
  rec_ : Nat
  node : Nat
  move : Move
deriving DecidableEq, Repr

/-- What a DMA task declares (R283): its sides, the entries N and the total bytes B. -/
structure DmaDecl where
  src : Nat
  dst : Nat
  n : Nat
  bytes : Nat
deriving DecidableEq, Repr

/-- The configuration of a check-value unit at the start of a unit of computation (R287 to R290): CVU_CTL, POLY, INIT, XOROUT and EXPECT. -/
structure CvuConf where
  ctl : Nat
  poly : Nat
  init : Nat
  xorOut : Nat
  expect : Nat
deriving DecidableEq, Repr

/-- A unit of computation in progress or ended (R287): its configuration, its bytes, the device address of the first, and the port and sequence that its source carries. -/
structure CvuPend where
  conf : CvuConf
  data : List Byte
  addr : Nat
  port : Nat
  seq : Nat
deriving DecidableEq, Repr

/-- A DMA channel beside its registers (R278 to R286): the descriptor in progress, the moves of its checked entries that wait, its IRQ, whether a descriptor with IRQ has
completed, a descriptor that the channel has still to read (its device address, first entry and F) where the host holds a line of it (R274), whether ENTRY already shows a poisoned
entry of the descriptor (R280), whether it has written for the descriptor, the descriptors it has taken (R288), the check-value unit that its write data feed with the unit of computation in progress (R278), the entries of the descriptor as it was read (R281), and, on the
task channel, the node and the declaration of its task and the moves of earlier tasks that are still under way. -/
structure DmaCh where
  desc : Nat := 0
  moves : List Move := []
  irq : Bool := false
  irqDone : Bool := false
  toRead : Option (Nat × Nat × Nat) := none
  eccNoted : Bool := false
  wrote : Bool := false
  count : Nat := 0
  feeds : Option Nat := none
  open_ : Option CvuPend := none
  node : Option Nat := none
  decl : Option DmaDecl := none
  late : List LateMove := []
  n : Nat := 0
deriving DecidableEq, Repr

/-- Requests of CXL.cache from the device to the host (R272). -/
inductive D2h where
  | rdCurr | itoMWr | woWrInv
deriving DecidableEq, Repr

/-- Who made an access to DRAM that waits for the host to give up a line (R274): a partition's read or write, its fence, or the host itself, at quadrant q's HDM range, holding the
lines in E or M afterwards or not. -/
inductive Waiter where
  | partition (p : Nat)
  | fence (p : Nat)
  | host (q : Nat) (own : Bool)
deriving DecidableEq, Repr

/-- Such an access (R274, R275): its flat address and length, and the bytes of a write, each with whether it is poisoned. -/
structure WaitAcc where
  who : Waiter
  addr : Nat
  len : Nat
  write : Option (List (Byte × Bool))
deriving DecidableEq, Repr

/-- A result of a check-value unit (R289). -/
structure CvuResult where
  value : Nat
  seq : Nat
deriving DecidableEq, Repr

/-- A cluster beside its registers: its unused spare, its retired and sound tiles (R502), the lost logical tiles and engines as masks (R498, R501, R504), the
engine checks of the last second and the engines in RESTART with the instants they are ready (R504), the uncorrectable outcomes of each bank (R505), an entry in
progress with its target and decision instant (R478), a wake in progress (R484), Dahlia's level request (R160), the instant of the last start on each resource (R155), the STATE that the CDE found in the header of
the soft buffer of its operation (R387), a RETRY that waits for FAILED (R485), and the logical tile that the spare serves before its takeover (R503); csmT is the CSM cycle modulo 16 when it was last known (R20);
engCvu holds, for each engine, the configurations that the check-value units had when its operation began (R290), and cvuHeld the registers that a claimed unit returns to (R383). -/
structure ClusterHw where
  spare : Option Nat := some 8
  sound : List Nat := []
  lostTiles : Nat := 0
  lostEng : Nat := 0
  checks : List (Nat × Int) := []
  restart : List (Nat × Int) := []
  uncorr : List (Nat × Nat × Int) := []
  addrErrs : List Nat := []
  entering : Option (Nat × Int) := none
  wake : Option Int := none
  asleep : Nat := 0
  need : Bool := false
  starts : SMap Int := []
  hbState : Nat := 0
  retry : Bool := false
  csmT : Nat := 0
  spareTakes : Option Nat := none
  engCvu : SMap (List CvuConf) := []
  cvuHeld : SMap (List Word) := []
deriving DecidableEq, Repr

/-- A physical tile beside its core and registers (R499 to R503): it runs no further task, it is to be retired when idle, its retest with its start, the logical tile it
served, a redo that waits (its node and the instant of its core check), and its mailbox latch (R481). -/
structure TileHw where
  stopped : Bool := false
  wantRetire : Bool := false
  test : Option Int := none
  spareFor : Option Nat := none
  redo : Option (Nat × Int) := none
  latch : Option Word := none
deriving DecidableEq, Repr

/-- A raise of a cluster's effective operating point in progress (R475 to R477), and the OP_REQ to return to if it fails. -/
structure OpRaise where
  cluster : Nat
  op : Nat
  forPlan : Bool
  oldReq : Nat
deriving DecidableEq, Repr

/-- A voltage change of a rail in progress (R476): the target it leaves, the bound by which it settles. -/
structure RailChange where
  old : Nat
  due : Int
deriving DecidableEq, Repr

/-- A quadrant beside its registers: an entry into DORMANT in progress with its decision instant, a boot or reinitialisation in progress with its start, and
whether it ends in OFF (R478, R489, R506); the jobs whose records a reinitialisation still writes, in their order, with the hub's mirror of the ring registers and rings (R507, R508). Log: 108 DEDUCED. -/
structure QuadHw where
  entering : Option Int := none
  waking : Option Int := none
  booting : Option Int := none
  reinit : Option Int := none
  toOff : Bool := false
  records : List Job := []
  mirrorRegs : SMap Word := []
  mirrorRings : SMap Ring := []
deriving DecidableEq, Repr

/-- An entry of the flight recorder that waits to be written (R517, R518). Log: 114 DEDUCED. -/
structure FrEntry where
  at_ : Int
  source : Nat := 0x3FF
  level : Nat := 3
  cls : Nat
  action : Nat := 0
  quad : Nat := 0
  cluster : Nat := 0
  tile : Nat := 0
  ci : Nat := 0
  tag : Nat := 0
  outcome : Nat := 0
  detail : Nat := 0
  addr : Nat := 0
  context : List Nat := []
deriving DecidableEq, Repr

/-- A debug session (R539): PERM and EXPIRY. -/
structure DebugSession where
  perm : Nat
  expiry : Nat
deriving DecidableEq, Repr

/-- Foxglove beside its registers (R521 to R541): each owner slot's fuse digest and the modulus in the NVS, the fuse keys with their kill fuses, the battery-backed
keys, certificate slot 1, the request mailbox, the debug session, the secured sessions, the IDE key sets and those in use, the subsystem ID and rail map in force, the
provisioning that takes effect at the next chip reset (R532), and whether a tamper came while the device was off (R535). An empty list is an unwritten slot. Log: 127 DEDUCED. -/
structure Fox where
  digests : SMap (List Byte) := []
  moduli : SMap (List Byte) := []
  fuseKeys : SMap (List Byte) := []
  killed : Nat := 0
  bbKeys : SMap (List Byte) := []
  slot1 : List Byte := []
  mbox : SMap Byte := []
  dbg : Option DebugSession := none
  sessions : Nat := 0
  ideKeys : SMap (List Byte) := []
  ideUse : SMap Nat := []
  subsys : Nat := 0
  railMap : SMap Nat := []
  provision : Option (List Byte) := none
  tamperOff : Bool := false
deriving DecidableEq, Repr

/-- The firmware (R511, R512, R528): the image that a hand-over goes to, the cores that have changed over, the last change, when the watch began, whether the hand-over goes back,
the SVNs of the running image and of that handed over, and the image that the boot record marks active. An image is false for A. -/
structure Fw where
  target : Option Bool := none
  cores : Nat := 0
  changed : Option Int := none
  watch : Option Int := none
  back : Bool := false
  svn : Nat := 0
  newSvn : Nat := 0
  active : Bool := false
deriving DecidableEq, Repr

/-- A Phlox partition beside its registers (R446, R459 to R462): the slot of the load in progress, its GO and bound, T_SW (none for the next tick), the shadow plane's changed frames
(FAR, data, care map), STREAM_ID and RST, the instant of the swap once READY (none for the next tick), a restart that waits, the end of the design's reset, the fabric clock in
force, and whether the copy waits on nothing more. -/
structure PhxHw where
  slot : Nat := 0
  bound : Int := 0
  tsw : Option Int := none
  swapAt : Option Int := none
  shadow : List (Nat × Nat × Nat) := []
  id : Nat := 0
  rst : Bool := false
  restart : Bool := false
  resetUntil : Int := 0
  mhz : Nat := 250
  swapped : List Nat := []
deriving DecidableEq, Repr

/-- A scrubber beside its registers (R463 to R467): the frame it reads next, the repairs in its pass, the frame whose repair is in progress with whether a care word is among its
errors, whether its check of the neighbour is due, and the instant of Primrose's last check in place of a neighbour's. -/
structure ScrHw where
  pos : Nat := 0
  repairs : Nat := 0
  repair : Option (Nat × Bool) := none
  checkDue : Bool := false
  primrose : Int := 0
deriving DecidableEq, Repr

/-- How far the start-up of R495 has come: the firmware runs, the quadrants and partitions done as masks, and the link has trained. Log: 15 DESIGN CHOICE. -/
structure BootHw where
  fw : Bool := false
  quads : Nat := 0
  parts : Nat := 0
  link : Bool := false
deriving DecidableEq, Repr

/-- An RMA capture (R519): the registers and the newest recorder entries, frozen. -/
structure RmaCapture where
  regs : SMap Word
  entries : List (List Byte)
deriving DecidableEq, Repr

/-- The JTAG instruction in force (R520). -/
inductive Jtag where
  | bypass | samplePreload | idcode | extest | extestPulse | extestTrain | highz | clamp
deriving DecidableEq, Repr

/-- The SPDM responder's answer (R533, R536): the request, an error code (0 none) and the contents that the spec gives it. -/
structure SpdmAns where
  error : Nat
  body : List Byte
deriving DecidableEq, Repr

/-- The data object protocols of R434. -/
inductive DoeProto where
  | discovery | cdat | spdm | secured
deriving DecidableEq, Repr

/-- What the CDAT says of a quadrant (R433): the handle, DPA base and length of its DSMAS, with no shareable or read-only flag, the latencies in ns and bandwidths in MB/s of its DSLBIS, and
whether its DSEMTS gives the whole range the EFI memory type specific-purpose. -/
structure CdatEntry where
  handle : Nat
  base : Nat
  len : Nat
  readNs : Nat
  writeNs : Nat
  readMbps : Nat
  writeMbps : Nat
  special : Bool
deriving DecidableEq, Repr

/-- Data objects of the DOE capabilities (R433, R434): a discovery answer (the protocol at the index asked for, if there is one, and the next index, 0 after the last), the CDAT entries, or
an SPDM message. -/
inductive DoeObj where
  | discovery (proto : Option DoeProto) (next : Nat)
  | cdat (entries : List CdatEntry)
  | spdm (a : SpdmAns)
deriving DecidableEq, Repr

/-- A DOE instance (R434): its error bit, an SPDM request in progress, and the data object that is ready. -/
structure Doe where
  error : Bool := false
  busy : Option (List Byte) := none
  ready : Option DoeObj := none
deriving DecidableEq, Repr

/-- A serial lane beside its registers: the instant its bring-up began, the instant its frames begin (R420), whether a spare has taken over its ports, the LAN_PORTS and
LAN_RATE that it took over as the spare (R423), its transmit stream: the blocks it has sent since it left electrical idle (R399), an instant in the stream with the block that begins
there, and the number of the next marker (R400); the service blocks that wait by kind (R403), the next MSEQ and the last 16 markers
sent (R400, R402), the round-trip values, newest first, and rtt_f in use (R68, R69), the profiles due (R405), the control message being
assembled (R404), the management queues with the bytes of the head message already read, the sequence numbers by eAxC (R410), the egress buffer with each frame's ingress stamp (R414),
whether a calibration is under way (R66), and what R399 and R421 look at: the codewords in a row that decoded, the instants of uncorrectable codewords in the last ms, of errored sync
headers in the last 125 µs, and of the last valid marker. -/
structure LaneHw where
  began : Int := 0
  framesFrom : Int := 0
  gave : Bool := false
  took : Option (Nat × Nat) := none
  blocks : Nat := 0
  base : Int := 0
  baseBlk : Nat := 0
  nextMk : Nat := 0
  svc : List (Nat × Nat) := []
  mseq : Nat := 0
  markers : List (Nat × Int) := []
  rtts : List Int := []
  rttUsed : Option Int := none
  profDue : Nat := 0
  ctl : Option (List Byte) := none
  mqTx : List Byte := []
  mqRx : List (List Byte) := []
  mqPos : Nat := 0
  txSeq : SMap Nat := []
  rxSeq : SMap (Option Nat) := []
  egress : List (List Byte × Int) := []
  cal : Bool := false
  goodCw : Nat := 0
  uncAt : List Int := []
  badHdr : List Int := []
  lastMark : Int := 0
deriving DecidableEq, Repr

/-- A capture of observation samples in progress (R334, R407): its first group and length, the slot it belongs to, its deadline, and the groups that have come, by index (384 bits
plus 1). -/
structure Capture where
  first : Int
  len : Nat
  slot : Int
  due : Int
  got : SMap Nat := []
deriving DecidableEq, Repr

/-- What the device sends or drives out: the model's own record of it, oldest first. Log: 81 DESIGN CHOICE. -/
inductive Output where
  | ptpSync (lane : Nat) (domain : Nat) (origin : Int)
  | ptpAnnounce (lane : Nat) (domain : Nat) (clockClass : Nat)
  | ptpDelayResp (lane : Nat) (domain : Nat) (receive : Int)
  | ptpDelayReq (lane : Nat) (domain : Nat) (instant : Int)
  | ptpGrant (lane client : Nat) (granted : Bool)
  | synceOut (drive : Option (Nat × Nat))
  | pin (name : String) (level : Bool) (instant : Int)
  | record (addr : Nat) (bytes : List Byte)
  | msi (vector : Nat) (addr data : Nat)
  | wake (cluster : Nat)
  | rspIHitI (line : Nat)
  | biSnoop (quad : Nat) (line : Nat) (inv : Bool)
  | d2h (op : D2h) (line count be : Nat) (poison : Bool)
  | readData (bytes : List Byte) (poisoned : Bool)
  | frame (lane : Nat) (group : Int) (blocks : List Nat) (stamp : Int)
  | block (lane : Nat) (payload : Nat)
  | idleBlocks (lane count : Nat)
  | fill (lane symbols phase : Nat)
  | electricalIdle (lane : Nat)
  | lineStart (lane : Nat)
  | ecpri (lane : Nat) (bytes : List Byte) (instant : Int)
  | eth (lane : Nat) (bytes : List Byte)
  | tddPin (group : Nat) (level : Bool) (instant : Int)
  | phxBlock (lane : Nat) (hdr payload : Nat)
  | toDesign (p : Nat) (bytes : List Byte) (error : Bool)
  | toPhx (p lane : Nat) (hdr payload : Nat) (stamp : Option Int)
  | phxStamp (p lane : Nat) (stamp : Int)
  | upset (p : Nat)
  | tickStrobe
  | slotStrobe (quad : Nat)
  | fenceDone (p : Nat)
  | pxEvent (p : Nat) (e : EvtEntry)
  | pmbus (rail code : Nat) (write : Option Nat)
  | cfgRetry
  | cfgData (v : Nat)
  | jtagId (v : Nat)
deriving DecidableEq, Repr

/-- The state of the OZG-4192. -/
structure State where
  /-- The commands that wait, first in first out. -/
  pending : List Instr := []
  /-- Chip time at the start of the present always-on cycle. -/
  ct : CT := {}
  /-- The instant of the latest event within the cycle, in ps from its start. -/
  subPs : Nat := 0
  lks : Larkspur := {}
  /-- 32-bit registers by BAR0 offset (unlisted: the register's reset value). -/
  regs : SMap Word := []
  /-- RWL fields already locked, by offset × 64 + lowest bit (R10). -/
  locked : SMap Bool := []
  /-- The held low word of a 64-bit register written in halves, by offset. -/
  heldLow : SMap (Option Word) := []
  /-- The high word latched by a read of the low word, by offset. -/
  latchedHigh : SMap (Option Word) := []
  /-- Memory, one flat space of bytes (Machine/Ops.lean gives each memory its place). -/
  mem : List Host.Cell := []
  /-- Poisoned granules, by flat address / 32 (R256). -/
  poison : SMap Bool := []
  /-- The symbols in error of a granule that is not poisoned, by flat address / 32 (R253; Machine/Rs.lean). Log: 56 DESIGN CHOICE. -/
  errs : SMap Nat := []
  pins : SMap Pin := []
  evtFifo : List EvtEntry := []
  ints : SMap IntSrc := []
  cfg : CfgSpace := {}
  hdm : SMap HdmDec := []
  comp : SMap (Option Word) := []
  doe : SMap Doe := []
  rings : SMap Ring := []
  ucmds : List UCmd := []
  plans : List Plan := []
  planSeq : Nat := 0
  jobs : List Job := []
  notices : List Notice := []
  xfers : List RingXfer := []
  /-- The instants at which coupling-ring links began to retrain, by quadrant × 2 + link (R36). -/
  retrains : SMap Int := []
  /-- The links that are to retrain once a slot of theirs is reserved by no plan (R36), by quadrant and link. -/
  retrainDue : List (Nat × Nat) := []
  progs : List ProgVer := []
  progSeq : Nat := 0
  tiles : SMap Tile := []
  dma : SMap DmaCh := []
  cvu : SMap (List CvuResult) := []
  /-- The ended units of computation of each check-value unit whose result is still to come, by cluster × 4 + unit (R289). -/
  cvuIn : SMap (List CvuPend) := []
  clusters : SMap ClusterHw := []
  tileHw : SMap TileHw := []
  raises : List OpRaise := []
  rails : SMap (Option RailChange) := []
  quads : SMap QuadHw := []
  fox : Fox := {}
  fw : Fw := {}
  /-- NVS page buffer (R544), by byte. -/
  pageBuf : SMap Byte := []
  /-- The snoop filter (R274): 1 a line that the host may hold shared, 2 one it may hold in E or M, by quadrant × 2^32 + DPA / 64. -/
  sf : SMap Nat := []
  /-- The back-invalidation snoops that the host has not answered, by quadrant and line (R274). -/
  biOut : List (Nat × Nat) := []
  /-- The accesses that wait for such an answer, oldest first. -/
  waits : List WaitAcc := []
  recs : List PendRec := []
  /-- The end of the recovery of the host link in progress (R427). -/
  linkHeld : Int := 0
  /-- Received groups written under R298, by port × 2^48 + group: true valid, false missing; an unlisted one has not come. -/
  rxGroups : SMap (Option Bool) := []
  /-- Received PRBs of frequency-domain symbols (R410), by port × 2^48 + 14 × slot + symbol, as a mask. -/
  rxPrbs : SMap Nat := []
  laneHw : SMap LaneHw := []
  /-- Groups fetched for transmission (R300), by port × 2^48 + group: 360 bits of mantissas and the exponent; an unlisted one is zeros. -/
  txGroups : SMap Nat := []
  /-- Groups sent (R301), in the same form: the reference of R334. -/
  sentGroups : SMap Nat := []
  captures : SMap (List Capture) := []
  /-- The TDD settings in force (R333), by register offset, those before the last change, and the instant of that change of each group. -/
  tddLive : SMap Word := []
  tddPrev : SMap Word := []
  tddAt : SMap Int := []
  /-- The instant at which the written settings of each group take effect (R333), the instant of each port's last change of group with the group before it, and the edge of a
  transmit interval whose ramp each group sent last, by 2 × group, + 1 for ramp-up (R331). -/
  tddDue : SMap Int := []
  portGrp : SMap (Option (Int × Nat)) := []
  /-- The delays that the registers held before (R310), newest first: the instant of the change, the register, and what it held until then. -/
  delayLog : List (Int × Nat × Word) := []
  rampSent : SMap (Option Int) := []
  /-- Which TDD_CTL pins are at their active level (R332). -/
  tddPins : SMap Bool := []
  /-- The instant from which each PFE context is in effect (R315), by quadrant × 32 + context. -/
  pfeFrom : SMap Int := []
  /-- The trigger of a switch-over that waits in each quadrant (R423): the covered lane, its instant, and the start of its always-on cycle. -/
  spareTrig : SMap (Option (Nat × Int × Int)) := []
  /-- Phlox partitions by index (R445), the active planes' frames and care maps by FAR (unlisted: cleared), and the block RAM by partition × 8,192 + block. -/
  phx : SMap PhxHw := []
  frames : SMap Nat := []
  care : SMap Nat := []
  bram : SMap Nat := []
  scr : SMap ScrHw := []
  /-- The instant of the last failed check of each quadrant's PFE (R504). -/
  pfeCheck : SMap (Option Int) := []
  /-- Since when each junction sensor has read 125 °C or more (R492). -/
  hotSince : SMap (Option Int) := []
  /-- Always-on cycles since the release of POR_N. -/
  upCycles : Nat := 0
  boot : BootHw := {}
  /-- PERST_N is low (R494). -/
  perst : Bool := false
  /-- The instant of Primrose's last lockstep mismatch (R509), and those of the uncorrectable hub flits of the last second (R510). -/
  lockAt : Option Int := none
  hubFlits : List Int := []
  rma : Option RmaCapture := none
  jtag : Jtag := .bypass
  /-- DRAM rows being copied to a spare row (R260): quadrant, bank and row. -/
  rowCopies : List (Nat × Nat × Nat) := []
  /-- The rows that a spare row has replaced (R260): quadrant, bank and row. -/
  spared : List (Nat × Nat × Nat) := []
  /-- Spare rows used in each DRAM bank (R260), by quadrant × 2^32 + bank. -/
  spareRows : SMap Nat := []
  /-- The distinct granules corrected in the patrol pass in progress of each memory (R260, R497), by the number of the memory. -/
  corrSeen : SMap (List Nat) := []
  frPend : List FrEntry := []
  /-- The CT second of the last recorder entry and the entries written in it (R517). -/
  frSecond : Nat := 0
  frCount : Nat := 0
  /-- How many free values have been taken (the model's own field; no statement rests on it). -/
  freeCtr : Nat := 0
  /-- What the device has sent, oldest first (the model's own field). -/
  out : List Output := []
deriving DecidableEq, Repr

/-- The machine right after reset. Log: 14 DESIGN CHOICE, 15 DESIGN CHOICE. -/
def State.reset : State := {}

end Sys2Proof.Machine
end

