-- ==== Sys2Proof/Machine/Ops.lean ====
section
/-!
DEFINITION. The named operations over the state: registers and their fields, chip time, memory, free values, outputs and
interrupt sources. Every family's meanings are written over these.
-/

namespace Sys2Proof.Machine

/-- Every meaning answers a next state. -/
abbrev Res := Host.Outcome State Fault Refusal

/-! ## Registers -/

/-- The stored 32-bit register at a BAR0 offset. -/
def getR (s : State) (a : Nat) : Word := smGet regReset s.regs a

/-- Store a 32-bit register. -/
def setR (s : State) (a : Nat) (v : Word) : State := { s with regs := smPut regReset a v s.regs }

/-- A 64-bit register, low word first. -/
def getR64 (s : State) (a : Nat) : Nat := (getR s a).toNat + 2 ^ 32 * (getR s (a + 4)).toNat

/-- Store a 64-bit register. -/
def setR64 (s : State) (a : Nat) (v : Nat) : State :=
  setR (setR s a (BitVec.ofNat 32 v)) (a + 4) (BitVec.ofNat 32 (v / 2 ^ 32))

/-- The value of a field. -/
def getF (s : State) (f : Field) : Nat :=
  if f.lo + f.w ≤ 32 then bitsOf (getR s f.addr).toNat f.lo f.w else bitsOf (getR64 s f.addr) f.lo f.w

/-- Set a field. -/
def setF (s : State) (f : Field) (v : Nat) : State :=
  if f.lo + f.w ≤ 32 then setR s f.addr (BitVec.ofNat 32 (putBits (getR s f.addr).toNat f.lo f.w v))
  else setR64 s f.addr (putBits (getR64 s f.addr) f.lo f.w v)

/-- Is a field other than 0? -/
def isF (s : State) (f : Field) : Bool := getF s f != 0

/-- The signed value of a field (R6). -/
def getSF (s : State) (f : Field) : Int := signedOf f.w (getF s f)

/-- Set a field to a signed value (R6). -/
def setSF (s : State) (f : Field) (v : Int) : State := setF s f (unsignedOf f.w v)

/-- Add to a counter that saturates at its field's largest value. -/
def addF (s : State) (f : Field) (k : Nat) : State := setF s f (satAdd (2 ^ f.w - 1) (getF s f) k)

/-- Set bit i of a field. -/
def setBitF (s : State) (f : Field) (i : Nat) : State := setF s f (getF s f ||| 2 ^ i)

/-- Clear bit i of a field. -/
def clrBitF (s : State) (f : Field) (i : Nat) : State := setF s f (andNot (getF s f) (2 ^ i))

/-- Bit i of a field. -/
def testF (s : State) (f : Field) (i : Nat) : Bool := bitOf (getF s f) i == 1

/-- Return every register whose offset satisfies p to its reset value. -/
def resetRegs (s : State) (p : Nat → Bool) : State := { s with regs := smDrop p s.regs }

/-! ## Chip time (R48, R49, R568) -/

/-- CT in units of 2^-40 ns. -/
def CT.units (c : CT) : Nat :=
  ((c.sec.toNat * 1000000000 + c.ns.toNat) * 2 ^ 16 + c.frac.toNat) * 2 ^ 24 + c.sub.toNat

/-- The CT of a count of units of 2^-40 ns: NS never holds a value above 999,999,999 (R49). -/
def CT.ofUnits (u : Nat) : CT where
  sec := BitVec.ofNat 64 (u / 2 ^ 40 / 1000000000)
  ns := BitVec.ofNat 32 (u / 2 ^ 40 % 1000000000)
  frac := BitVec.ofNat 16 (u / 2 ^ 24)
  sub := BitVec.ofNat 24 u

/-- The first whole ps at or after the start of the present always-on cycle. -/
def ctPs (s : State) : Int := ((ceilDiv (s.ct.units * 1000) (2 ^ 40) : Nat) : Int)

/-- The instant of the latest event, in ps of CT. Every instant is chip time (R8). Log: 2 DESIGN CHOICE. -/
def now (s : State) : Int := ctPs s + s.subPs

/-- How far the last whole ps of the present always-on cycle lies from its start: no instant of the cycle lies at or beyond its end (R568). -/
def cyclePs (s : State) : Nat := (ceilDiv ((s.ct.units + s.lks.addend) * 1000) (2 ^ 40) : Nat) - 1 - (ceilDiv (s.ct.units * 1000) (2 ^ 40) : Nat)

/-- Move to the instant dt ps into the present cycle; an earlier one than the last event's is taken as the last event's, one beyond the cycle as its last ps. Log: 2 DESIGN CHOICE. -/
def atDt (s : State) (dt : Nat) : State := { s with subPs := max s.subPs (min dt (cyclePs s)) }

/-- Does the instant t lie before the end of the present always-on cycle (R568)? Log: 2 DESIGN CHOICE. -/
def reached (s : State) (t : Int) : Bool :=
  decide (t * 2 ^ 40 < ((s.ct.units + s.lks.addend : Nat) : Int) * 1000)

/-- Does the instant t fall in the present always-on cycle? -/
def inCycle (s : State) (t : Int) : Bool := decide (ctPs s ≤ t) && reached s t

/-- One second, in ps. -/
def psSec : Int := 1000000000000

/-- SEC of an instant. -/
def secOf (t : Int) : Nat := (t / psSec).toNat

/-- NS of an instant. -/
def nsOf (t : Int) : Nat := (t % psSec / 1000).toNat

/-- FRAC of a stamp: its picoseconds, rounded to units of 2^-16 ns (spec/02_larkspur_time.md, "Stamps"; R567). -/
def fracOf (t : Int) : Nat := (roundDiv ((t % 1000) * 65536) 1000).toNat

/-- An instant rounded up to the whole nanosecond (R136). -/
def upNs (t : Int) : Int := (t + 999) / 1000 * 1000

/-- The smallest multiple of d at or after t. -/
def nextMultiple (t d : Int) : Int := (t + d - 1) / d * d

/-! ## Free values and outputs -/

/-- Take the next number of the counter of free values. Log: 6 DESIGN CHOICE. -/
def takeFree (s : State) : Nat × State := (s.freeCtr, { s with freeCtr := s.freeCtr + 1 })

/-- Record something the device sends. Log: 5 DESIGN CHOICE. -/
def emit (s : State) (o : Output) : State := { s with out := s.out ++ [o] }

/-! ## Memory -/

/-- Where each memory begins in the model's one flat space of bytes. Log: 8 DESIGN CHOICE. -/
def unitBase : MemUnit → Nat
  | .host => 0
  | .dram q => 2 ^ 60 + q.val * 2 ^ 36
  | .csm k => 2 ^ 61 + k.val * 2 ^ 23
  | .scratch p => 2 ^ 62 + p.val * 2 ^ 19
  | .imem p => 2 ^ 62 + 2 ^ 40 + p.val * 2 ^ 17
  | .nvs => 2 ^ 62 + 2 ^ 50

/-- The bytes of each memory (spec/07_memory.md, "The memories"; R247; host physical addresses have 52 bits under R251). Log: 8 DESIGN CHOICE. -/
def unitSize : MemUnit → Nat
  | .host => 2 ^ 52
  | .dram _ => 0x600000000
  | .csm _ => 2 ^ 23
  | .scratch _ => 2 ^ 19
  | .imem _ => 2 ^ 17
  | .nvs => 2 ^ 28

/-- The flat address of byte off of a memory. Log: 8 DESIGN CHOICE. -/
def flat (u : MemUnit) (off : Nat) : Nat := unitBase u + off

/-- The flat address of quadrant q's DRAM, of cluster k's CSM, and of physical tile p's scratchpad and instruction memory. -/
def dramFlat (q : Nat) : Nat := 2 ^ 60 + q * 2 ^ 36
/-- Cluster k's CSM. -/
def csmFlat (k : Nat) : Nat := 2 ^ 61 + k * 2 ^ 23
/-- Physical tile p's scratchpad. -/
def scratchFlat (p : Nat) : Nat := 2 ^ 62 + p * 2 ^ 19
/-- Physical tile p's instruction memory. -/
def imemFlat (p : Nat) : Nat := 2 ^ 62 + 2 ^ 40 + p * 2 ^ 17
/-- The non-volatile store. -/
def nvsFlat : Nat := 2 ^ 62 + 2 ^ 50

/-- What a byte of memory that nothing has written reads as. Log: 7 DESIGN CHOICE. -/
def memDefault (_ : Nat) : Byte := 0

/-- The canonical form of memory. Log: 7 DESIGN CHOICE. -/
def Memory.wf (m : List Host.Cell) : Bool := smWf memDefault m

/-- One byte at a flat address. Log: 7 DESIGN CHOICE. -/
def rdByte (s : State) (a : Nat) : Byte := smGet memDefault s.mem a

/-- n bytes from a flat address, ascending. Log: 65 DESIGN CHOICE. -/
def rdBytes (s : State) (a : Nat) : Nat → List Byte
  | 0 => []
  | n + 1 => rdByte s a :: rdBytes s (a + 1) n

/-- A little-endian value of n bytes (R5). -/
def rdLe (s : State) (a n : Nat) : Nat := leNat (rdBytes s a n)

/-- Write bytes into a memory list. -/
def putBytes (m : List Host.Cell) (a : Nat) : List Byte → List Host.Cell
  | [] => m
  | b :: t => putBytes (smPut memDefault a b m) (a + 1) t

/-- Is the granule at flat address 32 g poisoned? -/
def poisoned (s : State) (g : Nat) : Bool := smGet (fun _ => false) s.poison g

/-- Mark or clear the poison of a granule (R256). -/
def setPoison (s : State) (g : Nat) (b : Bool) : State := { s with poison := smPut (fun _ => false) g b s.poison }

/-- The symbols in error of a granule, as a pattern (R253). -/
def errAt (s : State) (g : Nat) : Nat := smGet (fun _ => 0) s.errs g

/-- Set the pattern of a granule's errors. -/
def putErr (s : State) (g e : Nat) : State := { s with errs := smPut (fun _ => 0) g e s.errs }

/-- Does a poisoned granule lie in the n granules from g? -/
def poisonedFrom (s : State) (g : Nat) : Nat → Bool
  | 0 => false
  | n + 1 => poisoned s g || poisonedFrom s (g + 1) n

/-- The number of granules that [a, a + len) touches. -/
def granules (a len : Nat) : Nat := if len = 0 then 0 else (a + len - 1) / 32 - a / 32 + 1

/-- Does a read of [a, a + len) touch a poisoned granule? -/
def anyPoison (s : State) (a len : Nat) : Bool := poisonedFrom s (a / 32) (granules a len)

/-- n granules from g hold good codewords: no poison and no error. -/
def cleanFrom (s : State) (g : Nat) : Nat → State
  | 0 => s
  | n + 1 => cleanFrom (putErr (setPoison s g false) g 0) (g + 1) n

/-- Write bytes at a flat address. A write of a whole granule makes it good; a write of part of one leaves its poison (R256). -/
def wrBytes (s : State) (a : Nat) (bs : List Byte) : State :=
  let s1 := { s with mem := putBytes s.mem a bs }
  if s.poison = [] ∧ s.errs = [] then s1
  else cleanFrom s1 ((a + 31) / 32) ((a + bs.length) / 32 - (a + 31) / 32)

/-! ## Interrupt sources (R437 to R444) -/

/-- The source of physical tile p, k = 0 to 8 of R437. Sources are numbered by R41. -/
def tileSrc (p : Nat) : Nat := (p / 72) * 192 + (p % 72 / 9) * 20 + p % 9
/-- Source k of cluster c, by R437. Sources are numbered by R41. -/
def clSrc (c k : Nat) : Nat := (c / 8) * 192 + (c % 8) * 20 + k
/-- Source k of quadrant q, by R438. Sources are numbered by R41. -/
def qSrc (q k : Nat) : Nat := q * 192 + k

/-- The state of an interrupt source. -/
def getInt (s : State) (n : Nat) : IntSrc := smGet (fun _ => ({} : IntSrc)) s.ints n
/-- Store the state of an interrupt source. -/
def setInt (s : State) (n : Nat) (i : IntSrc) : State := { s with ints := smPut (fun _ => ({} : IntSrc)) n i s.ints }

/-- Is source n a level source (R437 to R439)? -/
def isLevel (n : Nat) : Bool :=
  if n < 768 then
    (let k := n % 192
     if k < 160 then decide (k % 20 ≤ 10) else decide (168 ≤ k))
  else decide (n = 816 ∨ n = 824 ∨ n = 832 ∨ n = 833 ∨ (840 ≤ n ∧ n ≤ 873))

/-- A happening of a pulse source sets PEND; while PEND is 1 it is coalesced and counted (R440, R442). Log: 84 DEDUCED. -/
def intPulse (s : State) (n : Nat) : State :=
  let i := getInt s n
  if i.pend then setInt s n { i with coalesced := satAdd 65535 i.coalesced 1 } else setInt s n { i with pend := true, dueAt := now s }

/-- Is source n due (R440)? -/
def intDue (s : State) (n : Nat) : Bool :=
  isF s (INT_SRC_CFG_EN n) && (if isLevel n then (getInt s n).due && !(getInt s n).stuck else (getInt s n).pend)

/-- Does the gap of source n allow a message at this instant (R442)? -/
def gapOver (s : State) (n : Nat) : Bool :=
  match (getInt s n).lastMsg with
  | none => true
  | some t => decide (t + getF s (INT_SRC_CFG_MIN_GAP n) * 1000000 ≤ now s)

/-- A level source takes the level b: a rise makes it due, and is coalesced and counted where the source is due already and waits for its gap; a fall leaves it not asserted (R440, R442,
R443). -/
def intLevel (s : State) (n : Nat) (b : Bool) : State :=
  let i0 := getInt s n
  let i := if b && i0.stuck && decide (i0.since + 1000000 ≤ now s) then { i0 with stuck := false, due := false } else i0
  if i.asserted = b then s
  else if b then
    (if i.stuck then setInt s n { i with asserted := true, since := now s }
     else if i.due then
       setInt s n { i with asserted := true, since := now s, coalesced := if intDue s n && !gapOver s n then satAdd 65535 i.coalesced 1 else i.coalesced }
     else setInt s n { i with asserted := true, since := now s, due := true, dueAt := now s })
  else setInt s n { i with asserted := false, since := now s }

/-- Does some x < n satisfy p? -/
def anyBelow (p : Nat → Bool) : Nat → Bool
  | 0 => false
  | n + 1 => p n || anyBelow p n

/-- The condition of a lane's level source (R438): with IRQ_EN, PEER_ERR, DOWN, CAP_ERR or MAP_ERR, or STATE FAILED. -/
def laneCause (s : State) (l : Nat) : Bool :=
  isF s (LAN_CTL_IRQ_EN l) && (isF s (LAN_STAT_PEER_ERR l) || isF s (LAN_STAT_DOWN l) || isF s (LAN_STAT_CAP_ERR l) || isF s (LAN_STAT_MAP_ERR l)
    || getF s (LAN_STAT_STATE l) == 4)

/-- The condition of a DMA engine's level source (R437). -/
def dmaCause (s : State) (k : Nat) : Bool :=
  getF s (DMA_CH_STAT_STATE k 1) == 2 || (isF s (DMA_CH_STAT_DONE k 1) && (smGet (fun _ => ({} : DmaCh)) s.dma (10 * k + 1)).irqDone)

/-- The condition of a check-value level source (R437). -/
def cvuCause (s : State) (k : Nat) : Bool := anyBelow (fun u => isF s (CVU_STAT_MISMATCH k u) && isF s (CVU_CTL_IRQ_EN k u)) 4

/-- The condition of quadrant q's level source k (R438 and the chapters it names). -/
def quadCause (s : State) (q k : Nat) : Bool :=
  if k < 168 then false
  else if k < 184 then laneCause s (16 * q + (k - 168))
  else match k with
    | 184 => isF s (ADM_CTL_IRQ_EN q) && (isF s (ADM_IRQ_DELAY_VIOL q) || isF s (ADM_IRQ_PLAN_DROPPED q) || isF s (ADM_IRQ_RESOURCE_LOST q))
    | 185 => isF s (MEM_ECC_LOG_VALID q) || anyBelow (fun c => isF s (MEM_CSM_LOG_VALID (8 * q + c))) 8 || isF s (MEM_SPARE_EXHAUSTED q)
    | 186 => anyBelow (fun l => isF s (LKS_LANE_STAT_JUMP q l)) 16
    | 187 => isF s (PFE_STAT_REFUSED q)
    | 188 => isF s (SCR_STAT_HALTED q) || isF s (SCR_STAT_LONG q) || isF s (SCR_NBR_FAIL q)
    | 189 => anyBelow (fun p => isF s (PHX_CTL_IRQ_EN (4 * q + p)) && (getR s (PHX_IRQ (4 * q + p)) != 0)) 4
    | 190 => getR s (PWR_Q_IRQ q) != 0
    | 191 => isF s (BME_RING_STAT_STATE q 0) || isF s (BME_RING_STAT_STATE q 1)
    | _ => false

/-- The condition of a hub level source (R439 and the chapters it names). -/
def hubCause (s : State) (n : Nat) : Bool :=
  if n = 816 then getR s FXG_IRQ != 0
  else if n = 824 then isF s NVS_STAT_REFUSED || isF s NVS_STAT_UNCORR
  else if n = 832 then (isF s (PHX_CTL_IRQ_EN 16) && (getR s (PHX_IRQ 16) != 0)) || isF s (SCR_STAT_HALTED 4) || isF s (SCR_STAT_LONG 4)
  else if n = 833 then (isF s (PHX_CTL_IRQ_EN 17) && (getR s (PHX_IRQ 17) != 0)) || isF s (SCR_STAT_HALTED 4) || isF s (SCR_STAT_LONG 4)
  else if 840 ≤ n ∧ n ≤ 871 then testF s PRM_MON_WARN_WARN (n - 840)
  else if n = 872 then isF s PRM_THERM_CTL_OVER
  else if n = 873 then anyBelow (fun k => isF s (PRM_RAIL_STAT_PMB_ERR k) || isF s (PRM_RAIL_STAT_UNSETTLED k)) 8
  else false

/-- The condition that level source n reports. -/
def levelCause (s : State) (n : Nat) : Bool :=
  if n < 768 then
    (let q := n / 192
     let k := n % 192
     if k < 160 then
       (let c := 8 * q + k / 20
        let j := k % 20
        if j < 9 then isF s (TIL_FAULT_VALID (9 * c + j)) else if j = 9 then dmaCause s c else if j = 10 then cvuCause s c else false)
     else quadCause s q k)
  else hubCause s n

/-- Bring a level source to its condition. -/
def refresh (s : State) (n : Nat) : State := if isLevel n then intLevel s n (levelCause s n) else s

/-- Bring several level sources to their conditions. -/
def refreshAll (s : State) (ns : List Nat) : State := ns.foldl refresh s

/-! ## The families of like units -/

/-- Ring r. -/
def getRing (s : State) (r : Nat) : Ring := smGet (fun _ => ({} : Ring)) s.rings r
/-- Store ring r. -/
def setRing (s : State) (r : Nat) (x : Ring) : State := { s with rings := smPut (fun _ => ({} : Ring)) r x s.rings }
/-- The core of physical tile p. -/
def getTile (s : State) (p : Nat) : Tile := smGet (fun _ => ({} : Tile)) s.tiles p
/-- Store the core of physical tile p. -/
def setTile (s : State) (p : Nat) (x : Tile) : State := { s with tiles := smPut (fun _ => ({} : Tile)) p x s.tiles }
/-- Event pin n; 16 is PPS_IN. -/
def getPin (s : State) (n : Nat) : Pin := smGet (fun _ => ({} : Pin)) s.pins n
/-- Store event pin n. -/
def setPin (s : State) (n : Nat) (x : Pin) : State := { s with pins := smPut (fun _ => ({} : Pin)) n x s.pins }
/-- DMA channel ch of cluster k. -/
def getDma (s : State) (k ch : Nat) : DmaCh := smGet (fun _ => ({} : DmaCh)) s.dma (10 * k + ch)
/-- Store DMA channel ch of cluster k. -/
def setDma (s : State) (k ch : Nat) (x : DmaCh) : State := { s with dma := smPut (fun _ => ({} : DmaCh)) (10 * k + ch) x s.dma }

/-- Lane l beside its registers. -/
def getLane (s : State) (l : Nat) : LaneHw := smGet (fun _ => ({} : LaneHw)) s.laneHw l
/-- Store lane l. -/
def setLane (s : State) (l : Nat) (x : LaneHw) : State := { s with laneHw := smPut (fun _ => ({} : LaneHw)) l x s.laneHw }

/-- Does a plan of carrier instance n hold resources? -/
def planInstalled (s : State) (n : Nat) : Bool := s.plans.any fun p => p.ci == n
/-- Does a plan of quadrant q hold resources? -/
def quadHasPlan (s : State) (q : Nat) : Bool := s.plans.any fun p => p.parts.any fun x => x.quad == q

end Sys2Proof.Machine
end

