-- ==== Sys2Proof/Machine/Rs.lean ====
section
/-!
DEFINITION. The Reed–Solomon code of R253 and its decoder (R254): GF(2^8) with x^8 + x^4 + x^3 + x^2 + 1, roots α^0 to α^3, over 41 symbols: bytes 0 to 31 of the
granule, check bytes 32 to 35, and the five address symbols 36 to 40, which are never stored. The code is linear, so a decoder's outcome depends on the error pattern
alone: what was read, less the codeword that the granule's data and address give. A pattern is a number with symbol i in bits [8i + 7 : 8i]. Log: 55 DESIGN CHOICE.
-/

namespace Sys2Proof.Machine

/-- The product with α. -/
def gfDouble (a : Nat) : Nat := if a < 128 then 2 * a else (2 * a) ^^^ 0x11D

/-- a times the low n bits of b in the field of R253. -/
def gfMul : Nat → Nat → Nat → Nat
  | 0, _, _ => 0
  | n + 1, a, b => (if b % 2 = 1 then a else 0) ^^^ gfMul n (gfDouble a) (b / 2)

/-- α to the power n. -/
def gfPow : Nat → Nat
  | 0 => 1
  | n + 1 => gfDouble (gfPow n)

/-- The inverse of a nonzero element. -/
def gfInv (a : Nat) : Nat := ((List.range 256).find? fun b => gfMul 8 a b == 1).getD 0

/-- Symbol i of a pattern. -/
def symOf (e i : Nat) : Nat := bitsOf e (8 * i) 8

/-- The value of the low n symbols of a pattern as a polynomial at x: the syndrome of root x. Log: 55 DESIGN CHOICE. -/
def syndrome (e x : Nat) : Nat := ((List.range 41).reverse).foldl (fun a i => gfMul 8 a x ^^^ symOf e i) 0

/-- The outcomes of R254. -/
inductive Ecc where
  | clean | corrected | address | uncorrectable
deriving DecidableEq, Repr

/-- The place of the one symbol that explains four syndromes. -/
def oneError (a b c d : Nat) : Option Nat :=
  (List.range 41).find? fun i => let x := gfPow i; gfMul 8 a x == b && gfMul 8 b x == c && gfMul 8 c x == d

/-- Do symbols i and j in error explain four syndromes? -/
def twoFit (a b c d i j : Nat) : Bool :=
  let t := gfPow i ^^^ gfPow j
  let p := gfMul 8 (gfPow i) (gfPow j)
  (gfMul 8 t b ^^^ gfMul 8 p a) == c && (gfMul 8 t c ^^^ gfMul 8 p b) == d

/-- The places of the two symbols that explain four syndromes. -/
def twoErrors (a b c d : Nat) : Option (Nat × Nat) :=
  (List.range 41).findSome? fun j => ((List.range j).find? fun i => twoFit a b c d i j).map fun i => (i, j)

/-- What the decoder makes of three or more symbols in error (R254): the outcome, and the pattern that is left once it has corrected what it takes for the error, which is nonzero
where it miscorrects. -/
def rsBeyond (e : Nat) : Ecc × Nat :=
  let a := syndrome e 1
  let b := syndrome e (gfPow 1)
  let c := syndrome e (gfPow 2)
  let d := syndrome e (gfPow 3)
  if a = 0 ∧ b = 0 ∧ c = 0 ∧ d = 0 then (.clean, e)
  else match (if a = 0 then none else oneError a b c d) with
    | some i => if 36 ≤ i then (.address, e) else (.corrected, e ^^^ (a * 2 ^ (8 * i)))
    | none =>
      match twoErrors a b c d with
      | some (i, j) =>
        if 36 ≤ j then (.address, e)
        else
          let v := gfMul 8 (b ^^^ gfMul 8 (gfPow i) a) (gfInv (gfPow i ^^^ gfPow j))
          (.corrected, e ^^^ ((a ^^^ v) * 2 ^ (8 * i)) ^^^ (v * 2 ^ (8 * j)))
      | none => (.uncorrectable, e)

/-- The symbols of a pattern that are in error. -/
def errSyms (e : Nat) : List Nat := (List.range 41).filter fun i => symOf e i != 0

/-- What decoding a pattern gives (R254). The code's distance of 5 lets the decoder find one or two symbols in error exactly: stored ones are corrected, an address symbol among
them gives ADDRESS. -/
def rsDecode (e : Nat) : Ecc × Nat :=
  if e = 0 then (.clean, 0)
  else if (errSyms e).length ≤ 2 then (if (errSyms e).any fun i => decide (36 ≤ i) then (.address, e) else (.corrected, 0))
  else rsBeyond e

/-- Does a pattern decode as uncorrectable or ADDRESS? -/
def rsBad (e : Nat) : Bool :=
  e != 0 && (match (rsDecode e).1 with
    | .address | .uncorrectable => true
    | .clean | .corrected => false)

/-- The part of a pattern that lies in the granule's data. -/
def rsData (e : Nat) : Nat := e % 2 ^ 256

end Sys2Proof.Machine
end

