-- ==== Sys2Proof/Machine/Addr.lean ====
section
/-!
DEFINITION. Device addresses and their check (spec/07_memory.md R247 to R252), and reads and writes through them.
-/

namespace Sys2Proof.Machine

/-- Who checks an address (R252). k is the cluster of a DMA channel. -/
inductive Agent where
  | ring (r : Nat)
  | image
  | dma (k ch : Nat)
deriving DecidableEq, Repr

/-- SPACE of a device address. -/
def spaceOf (a : Nat) : Nat := bitsOf a 60 4

/-- Cluster of the quadrant that a device address of space 2 or 3 names. -/
def addrCluster (a : Nat) : Nat := bitsOf a 24 3

/-- The physical tile that serves logical tile t of cluster k, none where no tile serves it (R15, R16, R501). -/
def physOf (s : State) (k t : Nat) : Option Nat :=
  let v := bitsOf (getR s (PWR_CL_TILEMAP k)).toNat (4 * t) 4
  if v < 9 then some (9 * k + v) else none

/-- The requesters of a CSM (R19): logical tiles, the unused spare, the engines XFE, BME, DTE, CDE and CEE in this order, the DMA engine and the Dahlia instance. -/
inductive Requester where
  | tile (t : Fin 8)
  | spare
  | engine (e : Fin 5)
  | dma
  | dahlia
deriving DecidableEq, Repr

/-- The index of a requester (R19). -/
def Requester.index : Requester → Nat
  | .tile t => t.val
  | .spare => 8
  | .engine e => 9 + e.val
  | .dma => 14
  | .dahlia => 15

/-- The bank of a CSM byte address (R20). -/
def bankOf (a : Nat) : Nat := bitsOf a 5 5

/-- Does bank b serve requester r in CSM cycle t (R20)? -/
def bankServes (r : Requester) (b t : Nat) : Bool := (b + t) % 16 == r.index

/-- How many CSM cycles from cycle t an access of requester r to bank b waits for its slot (R20, R21). -/
def slotWait (r : Requester) (b t : Nat) : Nat := (r.index + 48 - b - t % 16) % 16

/-- May the agent use the space (R252)? q is the quadrant of the address. -/
def spaceAllowed (q : Nat) (ag : Agent) (a : Nat) : Bool :=
  let sp := spaceOf a
  match ag with
  | .ring _ | .image => decide (sp ≤ 1)
  | .dma k ch => if ch ≤ 1 then decide (sp ≤ 3) else decide ((sp = 2 ∨ sp = 3) ∧ 8 * q + addrCluster a = k)

/-- Is CXL.cache available (R426)? It is not offered in the recovery state (R530). -/
def cacheOk (s : State) : Bool :=
  !isF s FXG_STAT_RECOVERY && decide (3 ≤ getF s CXL_LINK_STAT_RATE) && isF s CXL_LINK_STAT_CXL && isF s CXL_LINK_STAT_CACHE_EN

/-- Does host window n of quadrant q hold the page (R251)? -/
def winHolds (s : State) (q n page : Nat) : Bool :=
  isF s (MEM_HWIN_CTL_EN q n) && decide (getF s (MEM_HWIN_BASE_BASE q n) ≤ page ∧ page ≤ getF s (MEM_HWIN_LIMIT_LIMIT q n))

/-- The lowest-numbered enabled window from n that holds the page, among the next m (R251). -/
def firstWin (s : State) (q page : Nat) : Nat → Nat → Option Nat
  | _, 0 => none
  | n, m + 1 => if winHolds s q n page then some n else firstWin s q page (n + 1) m

/-- The flat address of the byte f beyond a device address, where the range [a + f, a + f + len) passes its check: the checks of R250 in order, the reason of the
first that fails. f stays within the memory that a names. -/
def checkRange (s : State) (q : Nat) (ag : Agent) (a f len : Nat) (write : Bool) : Except Nat Nat :=
  if len = 0 then .ok 0
  else
    let sp := spaceOf a
    if spaceAllowed q ag a = false then .error 1
    else if sp = 0 then
      (let b := bitsOf a 0 48 + f
       if cacheOk s = false then .error 3
       else match firstWin s q (b / 4096) 0 64 with
        | none => .error 3
        | some n =>
          if getF s (MEM_HWIN_LIMIT_LIMIT q n) < (b + len - 1) / 4096 then .error 3
          else if (if write then isF s (MEM_HWIN_CTL_W q n) else isF s (MEM_HWIN_CTL_R q n)) = false then .error 4
          else .ok (unitBase .host + (getF s (MEM_HWIN_TARGET_TARGET q n) * 4096 + (b - getF s (MEM_HWIN_BASE_BASE q n) * 4096)) % 2 ^ 52))
    else if sp = 1 then
      (let d := bitsOf a 0 35 + f
       if 0x600000000 < d + len then .error 2
       else if 0x5FC000000 < d + len then .error 5
       else .ok (2 ^ 60 + q * 2 ^ 36 + d))
    else if sp = 2 then
      (let o := bitsOf a 0 23 + f
       if 2 ^ 23 < o + len then .error 2 else .ok (2 ^ 61 + (8 * q + addrCluster a) * 2 ^ 23 + o))
    else
      (let o := bitsOf a 0 19 + f
       if 2 ^ 19 < o + len then .error 2
       else match physOf s (8 * q + addrCluster a) (bitsOf a 20 3) with
        | none => .error 2
        | some p => .ok (2 ^ 62 + p * 2 ^ 19 + o))

/-- The flat address of a device address, where the range [a, a + len) passes its check (R250). -/
def checkAddr (s : State) (q : Nat) (ag : Agent) (a len : Nat) (write : Bool) : Except Nat Nat := checkRange s q ag a 0 len write

/-- Log a failed check in MEM_ADDR_FAULT (R252). -/
def logAddrFault (s : State) (q : Nat) (ag : Agent) (a reason : Nat) : State :=
  let s1 := setF (setF s (MEM_ADDR_FAULT_ADDR q) a) (MEM_ADDR_FAULT_INFO_REASON q) reason
  let s2 := match ag with
    | .ring r => setF (setF (setF s1 (MEM_ADDR_FAULT_INFO_AGENT q) 0) (MEM_ADDR_FAULT_INFO_CLUSTER q) 0) (MEM_ADDR_FAULT_INFO_CHANNEL q) (r % 16)
    | .image => setF (setF (setF s1 (MEM_ADDR_FAULT_INFO_AGENT q) 1) (MEM_ADDR_FAULT_INFO_CLUSTER q) 0) (MEM_ADDR_FAULT_INFO_CHANNEL q) 0
    | .dma k ch => setF (setF (setF s1 (MEM_ADDR_FAULT_INFO_AGENT q) 2) (MEM_ADDR_FAULT_INFO_CLUSTER q) (k % 8)) (MEM_ADDR_FAULT_INFO_CHANNEL q) ch
  setF s2 (MEM_ADDR_FAULT_INFO_VALID q) 1

/-- Is a flat address in a fenced CSM bank (R20, R261)? -/
def fencedAt (s : State) (a : Nat) : Bool :=
  decide (2 ^ 61 ≤ a) && decide (a < 2 ^ 61 + 32 * 2 ^ 23) &&
    testF s (MEM_CSM_FENCE_BANKS ((a - 2 ^ 61) / 2 ^ 23)) (bitsOf a 5 5)

/-- Does a fenced bank hold one of the n granules from flat granule g? -/
def fencedFrom (s : State) (g : Nat) : Nat → Bool
  | 0 => false
  | n + 1 => fencedAt s (32 * g) || fencedFrom s (g + 1) n

/-- Is a granule bad to a reader: poisoned, in a fenced bank, or in error beyond correction (R257, R261)? -/
def granBad (s : State) (g : Nat) : Bool := poisoned s g || fencedAt s (32 * g) || rsBad (errAt s g)

/-- Is one of the n granules from g bad? -/
def badFrom (s : State) (g : Nat) : Nat → Bool
  | 0 => false
  | n + 1 => granBad s g || badFrom s (g + 1) n

/-- Does a read of [a, a + len) meet a bad granule (R257, R261)? -/
def badRead (s : State) (a len : Nat) : Bool := badFrom s (a / 32) (granules a len)

/-- The quadrant's own state beside its registers. -/
def getQuad (s : State) (q : Nat) : QuadHw := smGet (fun _ => ({} : QuadHw)) s.quads q

/-- Are reads of quadrant q's 16 MiB 0 and writes ignored (R43): OFF, or under reinitialisation? BOOTING is taken alike. Log: 141 DESIGN CHOICE. -/
def quadDark (s : State) (q : Nat) : Bool := getF s (PRM_Q_STAT_STATE q) == 2 || (getQuad s q).reinit.isSome || (getQuad s q).booting.isSome

/-- Are reads of cluster k's 1 MiB 0 and writes ignored (R44): NAP, SLEEP, ENTERING, WAKING or FAILED? -/
def clusterDark (s : State) (k : Nat) : Bool := decide (2 ≤ getF s (PWR_CL_STAT_STATE k))

/-- Does a block answer accesses now (R43, R44)? The quadrant-power block does but in OFF, whose rails are down (R478, R486). In the recovery state only PRM, FXG, NVS, INT and CXL do (R530). -/
def blockLive (s : State) (b : Block) (u : Nat) : Bool :=
  let full := !isF s FXG_STAT_RECOVERY
  match b with
  | .prm | .fxg | .cxl | .nvs | .int => true
  | .lks | .evt | .tdd => full
  | .phx => if u < 16 then !quadDark s (u / 4) else full
  | .scr => if u < 4 then !quadDark s u else full
  | .adm | .mem | .pfe | .leaf | .ring => !quadDark s u
  | .lan => !quadDark s (u / 16)
  | .pwrq => full && getF s (PRM_Q_STAT_STATE u) != 2
  | .pwrc => !quadDark s (u / 8)
  | .til => !quadDark s (u / 72) && !clusterDark s (u / 9)
  | .csm | .dah | .dma | .cvu | .xfe | .bme | .dte | .cde | .cee => !quadDark s (u / 8) && !clusterDark s u

end Sys2Proof.Machine
end

