-- ==== Sys2Proof/Machine/Ecc.lean ====
section
/-!
DEFINITION. Protection of stored data (spec/07_memory.md R253 to R261): the outcome of a decode, corrections, poisoning, patrol and row sparing;
and the counting of wear of R497.
-/

namespace Sys2Proof.Machine

/-- Which memory a flat address lies in. -/
def unitAt (a : Nat) : MemUnit :=
  if a < 2 ^ 60 then .host
  else if a < 2 ^ 61 then .dram (Fin.ofNat 4 ((a - 2 ^ 60) / 2 ^ 36))
  else if a < 2 ^ 62 then .csm (Fin.ofNat 32 ((a - 2 ^ 61) / 2 ^ 23))
  else if a < 2 ^ 62 + 2 ^ 40 then .scratch (Fin.ofNat 288 ((a - 2 ^ 62) / 2 ^ 19))
  else if a < 2 ^ 62 + 2 ^ 50 then .imem (Fin.ofNat 288 ((a - 2 ^ 62 - 2 ^ 40) / 2 ^ 17))
  else .nvs

/-- The number of a memory among those that patrol counts. -/
def unitNo : MemUnit → Nat
  | .host => 0
  | .dram q => 1 + q.val
  | .csm k => 10 + k.val
  | .scratch p => 100 + p.val
  | .imem p => 400 + p.val
  | .nvs => 1000

/-- The DRAM bank of quadrant q that holds a granule, and its row. Log: 57 DESIGN CHOICE. -/
def bankRow (g : Nat) : Nat × Nat := (Config.dramBank g, Config.dramRow g)

/-- Spare rows of a bank in use. -/
def spareUsed (s : State) (q bank : Nat) : Nat := smGet (fun _ => 0) s.spareRows (q * 2 ^ 32 + bank)

/-- Begin to copy a row to a spare row of its bank (R260); one whose copy is under way or done is not spared again, and a bank without a spare row left sets EXHAUSTED.
Log: 57 DESIGN CHOICE. -/
def spareRow (s : State) (q g : Nat) : State :=
  let b := (bankRow g).1
  let row := (q, b, (bankRow g).2)
  if s.rowCopies.contains row ∨ s.spared.contains row then s
  else if spareUsed s q b + (s.rowCopies.filter fun x => x.1 == q && x.2.1 == b).length < 16 then { s with rowCopies := s.rowCopies ++ [row] }
  else refresh (setF s (MEM_SPARE_EXHAUSTED q) 1) (qSrc q 185)

/-- Note an uncorrectable or ADDRESS outcome of a CSM bank, for R505. -/
def noteBank (s : State) (k b g : Nat) (address : Bool) : State :=
  let c := smGet (fun _ => ({} : ClusterHw)) s.clusters k
  let c1 := { c with uncorr := c.uncorr ++ [(b, g, now s)], addrErrs := if address then c.addrErrs ++ [b] else c.addrErrs }
  { s with clusters := smPut (fun _ => ({} : ClusterHw)) k c1 s.clusters }

/-- Write a fault of a class into the flight recorder's queue (R498, R517). -/
def recordFault (s : State) (e : FrEntry) : State := { s with frPend := s.frPend ++ [e] }

/-- A read finds the granule at a flat address uncorrectable or ADDRESS: it is counted, poisoned and, where it is the first, logged, and the memory interrupt
is raised (R256); the fault is recorded (R497). A fenced bank does none of this (R261). Log: 56 DESIGN CHOICE. -/
def foundBad (s : State) (a : Nat) (address : Bool) : State :=
  let g := a / 32
  match unitAt a with
  | .dram q =>
    let off := a - dramFlat q
    let s1 := setPoison (addF s (MEM_ECC_CNT_UNCORR q) 1) g true
    let s2 := if isF s1 (MEM_ECC_LOG_VALID q) then s1 else
      setF (setF (setF s1 (MEM_ECC_LOG_DPA q) (off / 32)) (MEM_ECC_LOG_ADDRESS q) (ofBool address)) (MEM_ECC_LOG_VALID q) 1
    let s3 := refresh s2 (qSrc q 185)
    let s4 := recordFault s3 { at_ := now s, source := qSrc q 185, level := 2, cls := 0x06, quad := q, addr := off / 32 * 32 }
    if isF s4 (MEM_CTL_SPARE_AUTO q) then spareRow s4 q (off / 32) else s4
  | .csm k =>
    if fencedAt s a then s
    else
      let off := a - csmFlat k
      let s1 := setPoison (addF s (MEM_CSM_ECC_UNCORR k) 1) g true
      let s2 := if isF s1 (MEM_CSM_LOG_VALID k) then s1 else
        setF (setF (setF s1 (MEM_CSM_LOG_GRANULE k) (off / 32)) (MEM_CSM_LOG_ADDRESS k) (ofBool address)) (MEM_CSM_LOG_VALID k) 1
      let s3 := noteBank (refresh s2 (qSrc (k / 8) 185)) k (bitsOf off 5 5) (off / 32) address
      recordFault s3 { at_ := now s, source := qSrc (k / 8) 185, level := 1, cls := 0x05, quad := k / 8, cluster := k % 8, addr := off / 32 * 32 }
  | .scratch _ | .imem _ => setPoison s g true
  | .host | .nvs => s

/-- Source 19 of the cluster asks for a retirement of a worn tile memory (R497, R499). -/
def noteWorn (s : State) (p : Nat) : State :=
  let h := smGet (fun _ => ({} : TileHw)) s.tileHw p
  let k := p / 9
  let s1 := { s with tileHw := smPut (fun _ => ({} : TileHw)) p { h with wantRetire := true } s.tileHw }
  if h.wantRetire = true ∨ h.stopped = true then s
  else recordFault s1 { at_ := now s, source := clSrc k 19, level := 0, cls := 0x03, action := 2, quad := k / 8, cluster := k % 8, tile := p % 9 }

/-- Count a correction (R255), note the granule in its pass, and act on wear: four codewords of a DRAM row, or more than 64 granules of a tile memory (R260,
R497). -/
def foundCorrected (s : State) (m : MemUnit) (g : Nat) : State :=
  let seen := smGet (fun _ => []) s.corrSeen (unitNo m)
  let new := if seen.contains g then seen else seen ++ [g]
  let s1 := { s with corrSeen := smPut (fun _ => []) (unitNo m) new s.corrSeen }
  match m with
  | .dram q =>
    let s2 := addF s1 (MEM_ECC_CNT_CORR q) 1
    let inRow := (new.filter fun x => bankRow x == bankRow g).length
    if seen.contains g = false ∧ inRow = 4 ∧ isF s2 (MEM_CTL_SPARE_AUTO q) = true then spareRow s2 q g else s2
  | .csm k => addF s1 (MEM_CSM_ECC_CORR k) 1
  | .scratch p => (let s2 := addF s1 (TIL_ECC_DMEM p) 1; if 64 < new.length then noteWorn s2 p else s2)
  | .imem p => (let s2 := addF s1 (TIL_ECC_IMEM p) 1; if 64 < new.length then noteWorn s2 p else s2)
  | .host | .nvs => s

/-- The byte i of a granule's data that a pattern changes. -/
def flipBytes (e g : Nat) : Nat → List Host.Cell → List Host.Cell
  | 0, m => m
  | i + 1, m =>
    let a := 32 * g + i
    flipBytes e g i (smPut memDefault a (smGet memDefault m a ^^^ BitVec.ofNat 8 (symOf e i)) m)

/-- A granule's codeword is written back with what its decoding leaves (R255): nothing of the pattern remains in error, and a miscorrection has changed the data. -/
def rsWriteBack (s : State) (g e : Nat) : State :=
  if rsData e = 0 then putErr s g 0 else { (putErr s g 0) with mem := flipBytes e g 32 s.mem }

/-- A read decodes a granule's codeword (R254 to R256): a poisoned or uncorrectable one is found bad, a corrected one is written back and counted. A fenced bank answers
without a decode (R261). -/
def settle (s : State) (g : Nat) : State :=
  let e := errAt s g
  if poisoned s g then foundBad s (32 * g) false
  else if e = 0 ∨ fencedAt s (32 * g) = true then s
  else match rsDecode e with
    | (.clean, r) => rsWriteBack s g r
    | (.corrected, r) => foundCorrected (rsWriteBack s g r) (unitAt (32 * g)) (g - unitBase (unitAt (32 * g)) / 32)
    | (.address, _) => foundBad (putErr s g 0) (32 * g) true
    | (.uncorrectable, _) => foundBad (putErr s g 0) (32 * g) false

/-- A read decodes n granules from g. -/
def settleFrom (s : State) (g : Nat) : Nat → State
  | 0 => s
  | n + 1 => settleFrom (settle s g) (g + 1) n

/-- What a read of [a, a + len) does beside returning data: its bytes are those of the state after it. Log: 56 DESIGN CHOICE. -/
def readBad (s : State) (a len : Nat) : State := if s.poison = [] ∧ s.errs = [] then s else settleFrom s (a / 32) (granules a len)

/-- A write of part of a granule first reads it (R254): errors are corrected or found; poison stays (R256). -/
def settlePart (s : State) (g : Nat) : State := if poisoned s g then s else settle s g

/-- A write of [a, a + len) reads granule g first where it takes only part of it (R254, R256). -/
def settleEdge (s : State) (a len g : Nat) : State := if a ≤ 32 * g ∧ 32 * g + 32 ≤ a + len then s else settlePart s g

/-- Write bytes one by one, leaving out those of fenced banks (R261). -/
def putUnfenced (s : State) (a : Nat) : List Byte → List Host.Cell → List Host.Cell
  | [], m => m
  | b :: t, m => putUnfenced s (a + 1) t (if fencedAt s a then m else smPut memDefault a b m)

/-- Those of n granules from g that are in no fenced bank hold good codewords. -/
def cleanOpen (s : State) (g : Nat) : Nat → State
  | 0 => s
  | n + 1 => cleanOpen (if fencedAt s (32 * g) then s else putErr (setPoison s g false) g 0) (g + 1) n

/-- A write of an agent at a flat address: the granules it takes only part of are read first, and a fenced bank discards it (R256, R261). Log: 11 DESIGN CHOICE. -/
def wrMem (s : State) (a : Nat) (bs : List Byte) : State :=
  let s1 := if s.errs = [] ∨ bs = [] then s else settleEdge (settleEdge s a bs.length (a / 32)) a bs.length ((a + bs.length - 1) / 32)
  if fencedFrom s1 (a / 32) (granules a bs.length) then
    cleanOpen { s1 with mem := putUnfenced s1 a bs s1.mem } ((a + 31) / 32) ((a + bs.length) / 32 - (a + 31) / 32)
  else wrBytes s1 a bs

/-- Write bytes of which some come from bad granules: those make their granules poisoned (R257, R280). -/
def wrTainted (s : State) (a : Nat) (bs : List (Byte × Bool)) : State :=
  (bs.zip (List.range bs.length)).foldl (fun s x => if x.1.2 then setPoison s ((a + x.2) / 32) true else s) (wrMem s a (bs.map (·.1)))

/-- Read n bytes from a flat address, each with whether its granule is bad. -/
def rdTainted (s : State) (a n : Nat) : List (Byte × Bool) := (rdBytes s a n).zip ((List.range n).map fun i => granBad s ((a + i) / 32))

/-- The pattern that a list of symbols in error makes. -/
def errPattern (es : List SymErr) : Nat := es.foldl (fun e x => e ^^^ (x.val.toNat * 2 ^ (8 * x.sym.val))) 0

/-- Does the unused spare leave requester 8's slots to patrol: it serves no logical tile (R258)? -/
def spareIdle (s : State) (k : Nat) : Bool :=
  (smGet (fun _ => ({} : ClusterHw)) s.clusters k).spareTakes.isNone && !((List.range 8).any fun t => bitsOf (getR s (PWR_CL_TILEMAP k)).toNat (4 * t) 4 == 8)

/-- Does patrol read this memory now (R258, R261)? A CSM keeps its codewords in NAP and SLEEP and has no slots there. -/
def patrols (s : State) (m : MemUnit) : Bool :=
  match m with
  | .dram q => isF s (MEM_CTL_PATROL_EN q) && getF s (PRM_Q_STAT_STATE q) == 0
  | .csm k => isF s (MEM_CSM_PATROL_EN k) && spareIdle s k && decide (getF s (PWR_CL_STAT_STATE k) ≤ 1)
  | .scratch p | .imem p => getF s (PWR_CL_STAT_STATE (p.val / 9)) == 0
  | .host | .nvs => false

/-- The end of a patrol pass: it is counted, and the granules corrected in it are forgotten. -/
def passDone (s : State) (m : MemUnit) : State :=
  let s1 := { s with corrSeen := smPut (fun _ => []) (unitNo m) [] s.corrSeen }
  match m with
  | .dram q => addF s1 (MEM_PATROL_STAT_PASSES q) 1
  | .csm k => addF s1 (MEM_CSM_PATROL_PASSES k) 1
  | .scratch _ | .imem _ | .host | .nvs => s1

/-- Does a memory store the codewords of R253? Host memory is not the device's, and the store's reads bring their errors with them (R543). -/
def inCodewords (m : MemUnit) : Bool :=
  match m with
  | .dram _ | .csm _ | .scratch _ | .imem _ => true
  | .host | .nvs => false

/-- PATROL_SCRUB (R254 to R256, R258, R259, R261): errs are the symbols of a granule that have come to be in error; patrol, where it runs, reads the granule, corrects what it can
and poisons the rest, and leaves a fenced bank out; otherwise the errors stay until a read meets them. The last granule of a memory ends the pass. 
Log: 4 DESIGN CHOICE, 16 DESIGN CHOICE, 56 DESIGN CHOICE. -/
def execPatrolScrub (m : MemUnit) (granule : Nat) (errs : List SymErr) (s : State) : Res :=
  if unitSize m ≤ 32 * granule then .fault .noSuchGranule
  else
    let g := flat m (32 * granule) / 32
    let s1 := if inCodewords m then putErr s g (errAt s g ^^^ errPattern errs) else s
    if patrols s m = false then .next s1
    else
      let s2 := if fencedAt s (32 * g) then s1 else settle s1 g
      .next (if unitSize m = 32 * granule + 32 then passDone s2 m else s2)

/-- SPARE_REQ (R43, R260): MEM_SPARE.REQ spares the row of MEM_ECC_LOG. -/
def execSpareReq (q : Fin 4) (s : State) : Res := .next (if blockLive s .mem q.val then spareRow s q.val (getF s (MEM_ECC_LOG_DPA q.val)) else s)

/-- The fewest spare rows left in any bank of a quadrant. -/
def fewestSpares (s : State) (q : Nat) : Nat :=
  16 - ((s.spareRows.filter fun x => x.1 / 2 ^ 32 == q).foldl (fun a x => max a x.2) 0)

/-- ROW_SPARE_COPY_DONE (R260): the copy of a row ends; a bank whose last spare row it took sets EXHAUSTED. -/
def execRowSpareCopyDone (q : Fin 4) (s : State) : Res :=
  match takeFirst (fun x => x.1 == q.val) s.rowCopies with
  | some ((_, b, row), rest) =>
    let u := spareUsed s q.val b + 1
    let s1 := { s with rowCopies := rest, spared := s.spared ++ [(q.val, b, row)], spareRows := smPut (fun _ => 0) (q.val * 2 ^ 32 + b) u s.spareRows }
    let s2 := setF (addF s1 (MEM_SPARE_USED q.val) 1) (MEM_SPARE_FREE_MIN q.val) (fewestSpares s1 q.val)
    .next (if 16 ≤ u then refresh (setF s2 (MEM_SPARE_EXHAUSTED q.val) 1) (qSrc q.val 185) else s2)
  | none => .next s

end Sys2Proof.Machine
end

