-- ==== Sys2Proof/Machine/Coherence.lean ====
section
/-!
DEFINITION. Coherence of host memory and of the HDM range (spec/07_memory.md R272 to R275): the requests to the host, the snoop filter, the back-invalidation snoops and the
accesses that wait for their answers.
-/

namespace Sys2Proof.Machine

/-! ## Requests to the host (R272) -/

/-- The 64-byte lines that [a, a + len) touches. -/
def linesOf (a len : Nat) : Nat := if len = 0 then 0 else (a + len - 1) / 64 - a / 64 + 1

/-- Is a flat address in host memory? -/
def inHost (a : Nat) : Bool := decide (a < 2 ^ 52)

/-- The bytes up to the end of a's line, at most n. -/
def lineRest (a n : Nat) : Nat := min n (64 - a % 64)

/-- Ask the host for the lines of [a, a + len), where they are the host's: RdCurr. -/
def askHost (s : State) (a len : Nat) : State := if inHost a = true ∧ 0 < len then emit s (.d2h .rdCurr (a / 64) (linesOf a len) (2 ^ 64 - 1) false) else s

/-- Write to a line of the host, n bytes from a: ItoMWr for a full line, WOWrInv with its byte enables for a part; bad says that they carry the poison indication (R280). -/
def tellHost (s : State) (a n : Nat) (bad : Bool) : State :=
  if inHost a then emit s (if n = 64 then .d2h .itoMWr (a / 64) 1 (2 ^ 64 - 1) bad else .d2h .woWrInv (a / 64) 1 ((2 ^ n - 1) * 2 ^ (a % 64)) bad) else s

/-! ## The snoop filter (R274) -/

/-- Is the flat address in a quadrant's DRAM? The quadrant and the line of its DPA. -/
def hdmLine (a : Nat) : Option (Nat × Nat) :=
  if 2 ^ 60 ≤ a ∧ a < 2 ^ 60 + 4 * 2 ^ 36 then some ((a - 2 ^ 60) / 2 ^ 36, (a - 2 ^ 60) % 2 ^ 36 / 64) else none

/-- What the host may hold of a line: 0 nothing, 1 shared, 2 in E or M (R274). -/
def sfGet (s : State) (q line : Nat) : Nat := smGet (fun _ => 0) s.sf (q * 2 ^ 32 + line)
/-- Note what the host may hold of a line. -/
def sfPut (s : State) (q line v : Nat) : State := { s with sf := smPut (fun _ => 0) (q * 2 ^ 32 + line) v s.sf }

/-- The first line of n lines from `line` that stands in the way of a device access: one in E or M for a read, one in any state for a write (R274). -/
def snoopNeeded (s : State) (q line : Nat) (write : Bool) : Nat → Option Nat
  | 0 => none
  | n + 1 => if (if write then 0 else 1) < sfGet s q line then some line else snoopNeeded s q (line + 1) write n

/-- The line that a device access to [a, a + len) must wait for. -/
def waitsFor (s : State) (a len : Nat) (write : Bool) : Option (Nat × Nat) :=
  match hdmLine a with
  | some (q, l) => (snoopNeeded s q l write (linesOf a len)).map fun x => (q, x)
  | none => none

/-- Send BISnpCur for a read or BISnpInv for a write (R274); a line whose snoop is out is not snooped again. -/
def snoopLine (s : State) (x : Nat × Nat) (inv : Bool) : State :=
  if s.biOut.contains x then s else emit { s with biOut := s.biOut ++ [x] } (.biSnoop x.1 x.2 inv)

/-- The lines that quadrant q's filter holds. -/
def heldLines (s : State) (q : Nat) : List (Nat × Nat) := s.sf.filter fun x => x.1 / 2 ^ 32 == q

/-- The line that the MEMC must take back before it admits n lines from `line` (R274): where the filter would hold more than 262,144, one of those held, which is free.
Log: 58 DESIGN CHOICE. -/
def victimLine (s : State) (q line n : Nat) : Option (Nat × Nat) × State :=
  let held := heldLines s q
  let fresh := ((List.range n).filter fun i => sfGet s q (line + i) == 0).length
  if held.length + fresh ≤ 262144 then (none, s)
  else
    let (k, s1) := takeFree s
    (held[Config.sfVictim k % held.length]?.map fun x => (q, x.1 % 2 ^ 32), s1)

/-! ## Accesses that wait (R274, R275) -/

/-- Must an access wait behind one that waits already? A partition's accesses keep their order (R264, R451), and so do the host's to one quadrant. -/
def behind (w : WaitAcc) (x : Waiter) : Bool :=
  match w.who, x with
  | .partition p, .partition r | .partition p, .fence r | .fence p, .partition r | .fence p, .fence r => p == r
  | .host q _, .host r _ => q == r
  | _, _ => false

/-- What the host holds of a line after its access (R274): E or M, shared after a read, nothing after a write. -/
def hostHolds (own write : Bool) : Nat := if own then 2 else if write then 0 else 1

/-- Perform an access that waits for nothing more: a write stores its bytes, a read answers the design or the host, a fence is over; the lines of a host access are admitted. -/
def performAcc (s : State) (w : WaitAcc) : State :=
  match w.who, w.write with
  | .partition _, some bs => wrTainted s w.addr bs
  | .partition p, none =>
    let s1 := readBad s w.addr w.len
    emit s1 (.toDesign p (rdBytes s1 w.addr w.len) (badRead s1 w.addr w.len))
  | .fence p, none => emit s (.fenceDone p)
  | .fence _, some _ => s
  | .host q own, x =>
    let s1 := match x with
      | some bs => wrTainted s w.addr bs
      | none => (let s2 := readBad s w.addr w.len; emit s2 (.readData (rdBytes s2 w.addr w.len) (badRead s2 w.addr w.len)))
    let line := (w.addr - 2 ^ 60) % 2 ^ 36 / 64
    (List.range (linesOf w.addr w.len)).foldl (fun s i => sfPut s q (line + i) (hostHolds own x.isSome)) s1

/-- The line that must go before an access is made, with the kind of the snoop: one that the host holds, of a device access; a victim of the filter, of the host's own. -/
def mustGo (s : State) (w : WaitAcc) : Option ((Nat × Nat) × Bool) × State :=
  match w.who with
  | .host q own =>
    if hostHolds own w.write.isSome = 0 then (none, s)
    else (let (v, s1) := victimLine s q ((w.addr - 2 ^ 60) % 2 ^ 36 / 64) (linesOf w.addr w.len); (v.map fun x => (x, true), s1))
  | .partition _ | .fence _ => ((waitsFor s w.addr w.len w.write.isSome).map fun x => (x, w.write.isSome), s)

/-- Make an access, or let it wait: behind an earlier one of its agent, or for a line that must go, for which the snoop goes out. -/
def makeAcc (s : State) (w : WaitAcc) : State :=
  if s.waits.any fun x => behind x w.who then { s with waits := s.waits ++ [w] }
  else match mustGo s w with
    | (some x, s1) => snoopLine { s1 with waits := s1.waits ++ [w] } x.1 x.2
    | (none, s1) => performAcc s1 w

/-- Try the accesses that wait once more, in their order. -/
def retryWaits (s : State) : State := s.waits.foldl makeAcc { s with waits := [] }

/-- A write that poisons nothing of its own. -/
def cleanWrite (bs : List Byte) : Option (List (Byte × Bool)) := some (bs.map fun b => (b, false))

end Sys2Proof.Machine
end

