-- ==== Sys2Proof/Machine/Records.lean ====
section
/-!
DEFINITION. Completion records, clamps and the free places of a completion queue (spec/03_slot_contract.md R99, R129, R130;
spec/04_dahlia.md R133, R135, R145, R146).
-/

namespace Sys2Proof.Machine

/-- Entries of ring r's command queue. -/
def cmdSize (s : State) (r : Nat) : Nat := 2 ^ getF s (ADM_RING_CTL_CMD_LOG2 (r / 64) (r % 64))
/-- Entries of ring r's completion queue. -/
def cqSize (s : State) (r : Nat) : Nat := 2 ^ getF s (ADM_RING_CTL_CQ_LOG2 (r / 64) (r % 64))
/-- Unread records of ring r. -/
def cqUsed (s : State) (r : Nat) : Nat := ((getRing s r).cqTail + cqSize s r - (getRing s r).cqHead) % cqSize s r
/-- Free completion entries (R135): those that hold no unread record and are not reserved, at most 2^k − 1. -/
def cqFree (s : State) (r : Nat) : Nat := cqSize s r - 1 - cqUsed s r - (getRing s r).reserved

/-- Count a clamp on ring r, with the opcode and field of its last (R129). -/
def clamp1 (s : State) (r opcode field : Nat) : State :=
  let q := r / 64
  let i := r % 64
  setF (setF (addF s (ADM_RING_CLAMP_COUNT q i) 1) (ADM_RING_CLAMP_LAST_OPCODE q i) opcode) (ADM_RING_CLAMP_LAST_FIELD q i) field

/-- Count a clamp where a value in use differs from the one written. -/
def clampIf (s : State) (r opcode field : Nat) (b : Bool) : State := if b then clamp1 s r opcode field else s

/-- The index of an outcome's counter among ADM_CNT_OUT. -/
def outcomeCounter (o : Nat) : Nat := if o < 5 then o else if o = 0x10 then 5 else 6 + (o - 0x20)

/-- SLACK of a record written at t: the deadline minus t in ns, rounded towards minus infinity; 0 where there is no deadline. -/
def slackOf (x : Rec) (t : Int) : Int := match x.due with | some d => (d - t) / 1000 | none => 0

/-- The 32 bytes of a record on ring r with a PHASE, written at t. -/
def recBytes (r : Nat) (phase : Bool) (t : Int) (x : Rec) : List Byte :=
  leBytes 4 x.tag ++
  leBytes 4 (x.outcome % 256 + 256 * (x.detail % 256) + 2 ^ 16 * (x.task % 1024) + 2 ^ 26 * (x.source % 16) + 2 ^ 31 * ofBool phase) ++
  leBytes 4 x.ref ++
  leBytes 4 (x.ci % 1024 + 2 ^ 10 * (r % 64) + 2 ^ 16 * (r / 64)) ++
  leBytes 4 (secOf x.stamp) ++ leBytes 4 (nsOf x.stamp) ++
  leBytes 4 (unsignedOf 32 (clampInt (-2147483647) 2147483647 (slackOf x t))) ++ leBytes 4 x.count

/-- Is the outcome a refusal (R99)? -/
def isRefusal (o : Nat) : Bool := decide (1 ≤ o ∧ o ≤ 4)

/-- A record that a reset of the function discards (R428): LOST_WR counts it. Log: 41 DEDUCED. -/
def loseRecord (s : State) : State := addF s CXL_LOST_LOST_WR 1

/-- Show an instant in ADM_RING_STAMP. -/
def showStamp (s : State) (r : Nat) (t : Int) : State :=
  setF (setF s (ADM_RING_STAMP_NS (r / 64) (r % 64)) (nsOf t)) (ADM_RING_STAMP_SEC (r / 64) (r % 64)) (secOf t)

end Sys2Proof.Machine
end

