-- ==== Sys2Proof/Machine/Time.lean ====
section
/-!
DEFINITION. Chip time and the Larkspur root (spec/02_larkspur_time.md R48 to R90, R567, R568): advance, setting, clock source, slew,
servos, the boundary clock, PPS and PTM; and radio time (R71).
-/

namespace Sys2Proof.Machine

open Host (Outcome)

/-! ## Radio time (R71) -/

/-- 0.5 ms in units of Tc: 1 s is 1,966,080,000 Tc. -/
def halfMsTc : Int := 983040

/-- The GPS epoch on the CT scale, in Tc. -/
def epochTc : Int := 315964819 * 1966080000

/-- A CT instant in ps as radio time, in units of Tc / 390,625 (1 ps is 768 of them), for an offset in ns. -/
def radioFine (t ofsNs : Int) : Int := (t + ofsNs * 1000) * 768 - epochTc * 390625

/-- The first whole ps of CT at or after radio time n Tc, for an offset in ns. Log: 26 DEDUCED. -/
def ctOfRadio (n ofsNs : Int) : Int := -((-((n + epochTc) * 390625)) / 768) - ofsNs * 1000

/-- The grids of R71 by number: 0 to 6 are µ0 to µ6 with the normal cyclic prefix, where µ0 is also that of LTE and LTE-M (its slot the subframe of R293), 7 is N3.75 and 8 is µ2 with
the extended prefix. uniformTc gives the slot length of those whose every boundary is a whole multiple of it, in Tc; 0 for the others. -/
def uniformTc (mu : Nat) : Int := if mu = 0 then 2 * halfMsTc else if mu = 7 then 4 * halfMsTc else if mu = 8 then 491520 else 0

/-- The number of the grid of a numerology and the extended prefix, which only µ2 has (R293). -/
def gridCode (mu : Nat) (ecp : Bool) : Nat := if mu = 2 ∧ ecp = true then 8 else mu

/-- The start of slot n (a slot count) on a grid, in Tc (R71): where the grid is not uniform, symbol 0 of each 0.5 ms is 1,024 Tc longer. -/
def slotStartTc (mu : Nat) (n : Int) : Int :=
  if uniformTc mu ≠ 0 then n * uniformTc mu
  else
    let per : Int := 2 ^ (mu - 1)
    let j := n % per
    n / per * halfMsTc + (if j = 0 then 0 else 1024 + j * ((halfMsTc - 1024) / per))

/-- The boundary of slot n in CT. -/
def slotBoundary (mu : Nat) (ofsNs n : Int) : Int := ctOfRadio (slotStartTc mu n) ofsNs

/-- The slot of a grid whose interval holds radio time x (in Tc / 390,625). -/
def slotAtFine (mu : Nat) (x : Int) : Int :=
  if uniformTc mu ≠ 0 then x / (uniformTc mu * 390625)
  else
    let per : Int := 2 ^ (mu - 1)
    let h := x / (halfMsTc * 390625)
    let y := x % (halfMsTc * 390625) - 1024 * 390625
    let len := (halfMsTc - 1024) / per * 390625
    h * per + (if y < len then 0 else y / len)

/-- The slot that holds the CT instant t. -/
def slotAt (mu : Nat) (ofsNs t : Int) : Int := slotAtFine mu (radioFine t ofsNs)

/-- The last symbol of a slot (R128): 14 symbols, 12 with the extended prefix of µ2, 7 for N3.75. -/
def lastSym (mu : Nat) : Nat := if mu = 7 then 6 else if mu = 8 then 11 else 13

/-- The start of symbol l of slot n, in Tc, on a grid: with normal prefixes 2^-mu times 140,288 Tc a symbol, symbols 0 and 7·2^mu of each subframe 1,024 Tc longer (TS 38.211 5.3.1); 12
equal symbols with the extended prefix; 7 symbols of TS 36.211 and a guard for N3.75. l one past the last is the end of the last symbol. Log: 25 DESIGN CHOICE. -/
def symStartTc (mu : Nat) (n : Int) (l : Nat) : Int :=
  if mu = 7 then slotStartTc 7 n + l * 540672
  else if mu = 8 then slotStartTc 8 n + l * 40960
  else if 14 ≤ l then slotStartTc mu (n + 1)
  else
    let len : Int := 140288 / 2 ^ mu
    let first : Int := if mu = 0 then 1024 else if n % 2 ^ (mu - 1) = 0 then 1024 else 0
    let second : Int := if mu = 0 ∧ 7 < l then 1024 else 0
    slotStartTc mu n + (if l = 0 then 0 else first + l * len + second)

/-- The slots of a frame, S of R71. -/
def slotsPerFrame (mu : Nat) : Nat := if mu = 7 then 5 else if mu = 8 then 40 else 10 * 2 ^ mu

/-- LKS_CI_OFS(n), signed ns. -/
def ciOfs (s : State) (n : Nat) : Int := getSF s (LKS_CI_OFS_OFS n)

/-- SFN of the CT instant t for an offset in ns (R71). -/
def sfnAt (ofsNs t : Int) : Int := radioFine t ofsNs / (20 * halfMsTc * 390625) % 1024

/-- The hyper-frame number of the CT instant t (R71). -/
def hyperFrameAt (ofsNs t : Int) : Int := radioFine t ofsNs / (20 * halfMsTc * 390625) / 1024 % 1024

/-- The subframe of the CT instant t (R71). -/
def subframeAt (ofsNs t : Int) : Int := radioFine t ofsNs % (20 * halfMsTc * 390625) / (2 * halfMsTc * 390625)

/-- The slot within the frame of the CT instant t on a grid of R71. -/
def slotInFrame (mu : Nat) (ofsNs t : Int) : Int := slotAt mu ofsNs t % slotsPerFrame mu

/-! ## Chip time and its correction -/

/-- Set LKS_STATUS.STATE; each change raises source 769 (R439). -/
def setTimeState (s : State) (v : Nat) : State :=
  if getF s LKS_STATUS_STATE = v then s else intPulse (setF s LKS_STATUS_STATE v) 769

/-- The state field of a servo in LKS_SERVO_STAT. -/
def servoField (d : Fin 2) : Field := if d = 0 then LKS_SERVO_STAT_A_STATE else LKS_SERVO_STAT_B_STATE

/-- Set a servo's state; each change raises source 770 or 771 (R439). -/
def setServoState (s : State) (d : Fin 2) (v : Nat) : State :=
  if getF s (servoField d) = v then s else intPulse (setF s (servoField d) v) (770 + d.val)

/-- The servo of a domain. -/
def getServo (s : State) (d : Fin 2) : Servo := if d = 0 then s.lks.servoA else s.lks.servoB

/-- Store the servo of a domain. -/
def setServo (s : State) (d : Fin 2) (v : Servo) : State :=
  if d = 0 then { s with lks := { s.lks with servoA := v } } else { s with lks := { s.lks with servoB := v } }

/-- Is the servo locked? -/
def servoLocked (s : State) (d : Fin 2) : Bool := getF s (servoField d) == 2

/-- Units of 2^-40 ns in a number of ps, rounded by R567. -/
def unitsOfPs (ps : Int) : Int := roundDiv (ps * 2 ^ 40) 1000

/-- Replace the remaining phase (R73). -/
def setRemain (s : State) (u : Int) : State := { s with lks := { s.lks with remain := u } }

/-- The remaining phase becomes u, bounded at ±1 s; one beyond is taken as the bound and sets PHASE_CLAMP (R75). -/
def boundRemain (s : State) (u : Int) : State :=
  let b := unitsOfPs 1000000000000
  let c := clampInt (-b) b u
  let s1 := setRemain s c
  if c = u then s1 else setF s1 LKS_STATUS_PHASE_CLAMP 1

/-- R51: a value of LKS_FADJ is brought to ±25,600,000; one beyond sets FADJ_CLAMP. Log: 20 DESIGN CHOICE. -/
def writeFadj (s : State) (v : Int) : State :=
  let c := clampInt (-25600000) 25600000 v
  let s1 := setSF s LKS_FADJ_FADJ c
  if c = v then s1 else setF s1 LKS_STATUS_FADJ_CLAMP 1

/-- The frequency term of R50. -/
def freqTerm (base : Nat) (fadj : Int) : Int := roundDiv ((base : Int) * fadj) 256000000000

/-- A servo's estimate of network time at the start of the present always-on cycle (R76): since it was formed, each cycle has added the base and the servo's own
frequency term. Log: 131 DEDUCED. -/
def servoEst (s : State) (v : Servo) : Int :=
  let base := getF s LKS_BASE_BASE
  v.est + ((s.upCycles - v.cyc : Nat) : Int) * ((base : Int) + freqTerm base v.fadj)

/-- A servo whose estimate is CT plus a number of ps, at the present cycle. -/
def withOffset (s : State) (v : Servo) (ps : Int) : Servo := { v with est := (s.ct.units : Int) + unitsOfPs ps, cyc := s.upCycles }

/-- Form both servos' estimates anew, before the base changes. -/
def rebaseServos (s : State) : State :=
  let f := fun (v : Servo) => { v with est := servoEst s v, cyc := s.upCycles }
  { s with lks := { s.lks with servoA := f s.lks.servoA, servoB := f s.lks.servoB } }

/-- Is the frequency taken from the recovered SyncE clock (R79)? -/
def hybridOn (s : State) : Bool := isF s LKS_SYNCE_CTL_HYBRID && isF s LKS_SYNCE_CTL_LOCKED

/-- The domain in force. -/
def activeDom (s : State) : Fin 2 := if getF s LKS_STATUS_ACTIVE_DOM = 0 then 0 else 1

/-- While HYBRID is 1 and the SyncE lane is locked, the active servo, if it is locked, takes its frequency from the recovered clock (R79); while no servo is
locked LKS_FADJ keeps its value (R78). -/
def takeSynce (s : State) : State := if hybridOn s ∧ servoLocked s (activeDom s) = true then writeFadj s s.lks.synceFadj else s

/-- The slew step of R73 for a rate in ns/s. -/
def slewStep (rate : Nat) : Int := roundDiv ((rate : Int) * 2 ^ 40) 25000000

/-- The slew term for a remaining phase: a whole step towards it, or all of it when it is less than a step (R73). -/
def slewTerm (rate : Nat) (remain : Int) : Int :=
  if remain.natAbs < (slewStep rate).natAbs then remain
  else if 0 < remain then slewStep rate else -(slewStep rate)

/-- Form the addend of the coming cycle and take its slew term from the remaining phase (R50, R73). -/
def formAddend (s : State) : State :=
  let base := getF s LKS_BASE_BASE
  let sl := slewTerm (getF s LKS_SLEW_RATE_RATE) s.lks.remain
  { s with lks := { s.lks with
      addend := ((base : Int) + freqTerm base (getSF s LKS_FADJ_FADJ) + sl).toNat, remain := s.lks.remain - sl } }

/-- CT is set, u units of 2^-40 ns beyond what it would have been: the intervals of R87, R92, R93 and R95 that are in progress last as long as they did, so their instants move with CT.
Log: 147 DESIGN CHOICE. -/
def jumpCt (s : State) (u : Int) : State :=
  let d := roundDiv (u * 1000) (2 ^ 40)
  let move := fun (p : Pin) => { p with since := p.since + d, edge := p.edge.map (· + d),
                                        window := p.window.map fun w => { w with ends := w.ends + d, last := w.last.map fun x => (x.1 + d, x.2) } }
  let s1 := (List.range 17).foldl (fun s n => setPin s n (move (getPin s n))) s
  { s1 with delayLog := [], lks := { s1.lks with lastPtm := s1.lks.lastPtm.map (· + d) } }

/-- CT at the next always-on cycle: a load that waits sets it, discarding the remaining phase (R53); otherwise it advances by the addend (R50). The tick and the slot
boundaries of the new cycle are still to come, at whatever CT it has (R61, R62, R568). -/
def advanceCt (s : State) : State :=
  match s.lks.pendLoad with
  | some (sec, ns) =>
    let c : CT := { sec := BitVec.ofNat 64 sec, ns := BitVec.ofNat 32 ns }
    jumpCt { s with ct := c, subPs := 0, upCycles := s.upCycles + 1,
                    lks := { s.lks with pendLoad := none, remain := 0, tickDone := false, slotDone := 0 } }
      ((c.units : Int) - ((s.ct.units + s.lks.addend : Nat) : Int))
  | none => { s with ct := CT.ofUnits (s.ct.units + s.lks.addend), subPs := 0, upCycles := s.upCycles + 1,
                     lks := { s.lks with tickDone := false, slotDone := 0 } }

/-- A change of clock source that waits takes effect: the base, CLK_SRC and source 768 once (R55 to R57). -/
def applyBase (s : State) : State :=
  match s.lks.pendBase with
  | some (b, free) =>
    let s1 := setF (setF (rebaseServos s) LKS_BASE_BASE b) LKS_STATUS_CLK_SRC (ofBool free)
    intPulse { s1 with lks := { s1.lks with pendBase := none } } 768
  | none => s

/-- With no servo locked, LOCKED becomes HOLDOVER from this instant (R78). -/
def holdoverIfNone (s : State) : State :=
  if getF s LKS_STATUS_STATE = 2 ∧ servoLocked s 0 = false ∧ servoLocked s 1 = false then
    setTimeState { s with lks := { s.lks with holdSince := some (now s) } } 3 else s

/-- The losses that wait are marked (R76, R89). -/
def applyLost (s : State) : State :=
  if s.lks.pendLost = [] then s
  else holdoverIfNone (s.lks.pendLost.foldl (fun s d => setServoState s d 3) { s with lks := { s.lks with pendLost := [] } })

/-- A domain switch that waits takes effect: the remaining phase is replaced by the new servo's estimate minus CT, and the servo takes over LKS_FADJ from its own integral
state (R77), or from the recovered SyncE clock (R79); while no servo is locked LKS_FADJ keeps its value (R78). A servo that has had no Sync and no lock yet has the estimate 0 with which it
is reset. Log: 131 DEDUCED. -/
def applySwitch (s : State) : State :=
  match s.lks.pendSwitch with
  | some d =>
    let v := getServo s d
    let s1 := setF (boundRemain s (servoEst s v - s.ct.units)) LKS_STATUS_ACTIVE_DOM d.val
    let s2 := if servoLocked s 0 || servoLocked s 1 then writeFadj s1 (if hybridOn s then s.lks.synceFadj else v.fadj) else s1
    { s2 with lks := { s2.lks with pendSwitch := none } }
  | none => s

/-- A snapshot that waits latches CT (R48). -/
def applySnap (s : State) : State :=
  if s.lks.pendSnap then
    let s1 := setF (setF (setF s LKS_SNAP_SEC_SEC s.ct.sec.toNat) LKS_SNAP_NS_NS s.ct.ns.toNat) LKS_SNAP_FRAC_FRAC s.ct.frac.toNat
    { s1 with lks := { s1.lks with pendSnap := false } }
  else s

/-- CT_ADVANCE (R50, R52, R73, R89): CT advances, then a change of source takes effect, then a servo's loss is marked, then a switch takes effect, a snapshot is latched,
and the addend of the cycle that begins is formed. Log: 2 DESIGN CHOICE. -/
def execCtAdvance (s : State) : Res := .next (formAddend (applySnap (applySwitch (applyLost (applyBase (advanceCt s))))))

/-- CT_LOAD (R53): taken in UNSET, or with STEP_EN while no plan is installed anywhere; otherwise LOAD_REFUSED. -/
def execCtLoad (s : State) : Res :=
  let st := getF s LKS_STATUS_STATE
  if st = 0 ∨ (isF s LKS_CTL_STEP_EN ∧ s.plans = []) then
    let s1 := { s with lks := { s.lks with
      pendLoad := some (getF s LKS_LOAD_SEC_SEC, min (getF s LKS_LOAD_NS_NS) 999999999) } }
    .next (if st = 0 then setTimeState s1 1 else s1)
  else .next (setF s LKS_STATUS_LOAD_REFUSED 1)

/-- SNAP_TAKE (R48): CT is latched at the next always-on cycle. -/
def execSnapTake (s : State) : Res := .next { s with lks := { s.lks with pendSnap := true } }

/-- SERVO_LOCK (R54, R78): from UNSET, CT is set to the servo's estimate in one step; from any later unlocked state its offset is removed by slew; the
state becomes LOCKED. offsetPs is the servo's estimate minus CT at the lock. A step from UNSET keeps a remaining phase that was requested before it. Log: 21 DEDUCED, 133 DEDUCED. -/
def execServoLock (dom : Fin 2) (offsetPs : Int) (s : State) : Res :=
  if ¬ isF s (LKS_SERVO_CTL_EN dom.val) then .next s
  else
    let s1 := setServo (setServoState s dom 2) dom (withOffset s (getServo s dom) offsetPs)
    let st := getF s LKS_STATUS_STATE
    .next (takeSynce (
      if st = 0 then
        setTimeState (jumpCt { s1 with ct := CT.ofUnits ((s.ct.units : Int) + unitsOfPs offsetPs).toNat,
                                       lks := { s1.lks with tickDone := false, slotDone := 0 } } (unitsOfPs offsetPs)) 2
      else if st = 2 then s1
      else
        let s2 := boundRemain s1 (unitsOfPs offsetPs)
        setTimeState { s2 with lks := { s2.lks with holdSince := none } } 2))

/-- REFERENCE_LOST (R55): at the next always-on cycle the clock runs from the internal oscillator with base 0x2800_0000_0000 × f_ref / f_int. Log: 21 DEDUCED. -/
def execReferenceLost (fInt fRef : Nat) (s : State) : Res :=
  if fInt = 0 ∨ isF s LKS_STATUS_CLK_SRC then .next s
  else .next { s with lks := { s.lks with
      pendBase := some ((roundDiv ((0x280000000000 : Int) * fRef) fInt).toNat % 2 ^ 48, true) } }

/-- REFERENCE_GOOD (R56): at the next always-on cycle the clock returns to REFCLK_IN and the base to nominal. -/
def execReferenceGood (s : State) : Res :=
  if isF s LKS_STATUS_CLK_SRC then .next { s with lks := { s.lks with pendBase := some (0x280000000000, false) } } else .next s

/-- PHASE_REQ (R75): the value is added to the remaining phase in units of 2^-40 ns, bounded at ±1 s; a sum beyond sets PHASE_CLAMP. -/
def execPhaseReq (v : DWord) (s : State) : Res :=
  .next (boundRemain s (s.lks.remain + unitsOfPs v.toInt))

/-- Command a switch to a domain, for the next always-on cycle (R77); naming the domain in force commands none (DEDUCED). Log: 22 DEDUCED. -/
def commandSwitch (s : State) (d : Fin 2) : State :=
  { s with lks := { s.lks with pendSwitch := if getF s LKS_STATUS_ACTIVE_DOM = d.val then none else some d } }

/-- DOMAIN_SWITCH (R77): the write of LKS_CTL.ACTIVE_DOM. -/
def execDomainSwitch (dom : Fin 2) (s : State) : Res := .next (commandSwitch (setF s LKS_CTL_ACTIVE_DOM dom.val) dom)

/-- SERVO_LOST (R76 to R78, R89): a servo without a valid Sync for three announce intervals is LOST from the next always-on cycle, after a change of source and before a
switch that wait for the same one; with no servo locked the state is then HOLDOVER. Losing the active servo with AUTO_SW and the other locked commands a switch to the other. -/
def execServoLost (dom : Fin 2) (s : State) : Res :=
  let v := getServo s dom
  let st := getF s (servoField dom)
  let due := match v.lastSync with
    | some t => reached s (t + 3 * v.annPs)
    | none => true
  if (st = 1 ∨ st = 2) ∧ due = true then
    let other : Fin 2 := if dom = 0 then 1 else 0
    let s1 := { s with lks := { s.lks with pendLost := s.lks.pendLost ++ [dom] } }
    .next (if activeDom s = dom ∧ isF s LKS_CTL_AUTO_SW = true ∧ servoLocked s other = true ∧ s.lks.pendLost.contains other = false then
        setF (commandSwitch s1 other) LKS_CTL_ACTIVE_DOM other.val else s1)
  else .next s

/-- HOLDOVER_LIMIT_EXPIRY (R78): LKS_HOLDOVER_LIM seconds after the loss, holdover is out of specification. -/
def execHoldoverLimitExpiry (s : State) : Res :=
  match s.lks.holdSince with
  | some t =>
    if getF s LKS_STATUS_STATE = 3 ∧ reached s (t + getF s LKS_HOLDOVER_LIM_SECONDS * psSec) = true then .next (setTimeState s 4) else .next s
  | none => .next s

/-- SYNCE_LOCK_CHANGE (R79): the recovered clock gains or loses lock; fadj is the frequency it gives, which with HYBRID the active locked servo then takes. -/
def execSynceLockChange (locked : Bool) (fadj : Int) (s : State) : Res :=
  let s1 := setF s LKS_SYNCE_CTL_LOCKED (ofBool locked)
  .next (if locked then takeSynce { s1 with lks := { s1.lks with synceFadj := fadj } } else s1)

/-- What SYNCE_OUT carries (R86): while OUT_EN is 1 the recovered clock of a lane, divided to 25 MHz or 10 MHz. -/
def synceOut (s : State) : Option (Nat × Nat) :=
  if isF s LKS_SYNCE_CTL_OUT_EN then some (getF s LKS_SYNCE_CTL_LANE, if isF s LKS_SYNCE_CTL_DIV then 10 else 25) else none

/-! ## PTP -/

/-- Is a lane in an Ethernet role (R390: MODE 2 to 4)? -/
def laneEth (s : State) (l : Nat) : Bool := decide (2 ≤ getF s (LAN_CTL_MODE l))

/-- The partition that lane l is attached to (R448). -/
def lanePhx (s : State) (l : Nat) : Option Nat :=
  ((List.range 4).map (4 * (l / 16) + ·)).find? fun p => testF s (PHX_LANES_ATT p) (l % 16)

/-- Can the lane be a port of the boundary clock: an Ethernet role (R80) and no partition attached (R449)? -/
def bcLane (s : State) (l : Nat) : Bool := laneEth s l && (lanePhx s l).isNone

/-- Is the servo of domain d set to this lane and PTP domain, and enabled? An attached lane carries no PTP of the device (R449). -/
def servoTakes (s : State) (d : Fin 2) (lane : Nat) (m : PtpMsg) : Bool :=
  isF s (LKS_SERVO_CTL_EN d.val) && getF s (LKS_SERVO_CTL_LANE d.val) == lane && getF s (LKS_SERVO_CTL_DOMAIN d.val) == m.domain.toNat && (lanePhx s lane).isNone

/-- Is the lane a boundary-clock port of this PTP domain? -/
def bcPort (s : State) (lane : Nat) (domain : Nat) : Bool :=
  bcLane s lane && testF s LKS_BC_PORTS_PORT_EN lane && getF s LKS_BC_CTL_DOMAIN == domain

/-- The unit in which a servo reckons: 2^-17 ps, in which a ps, a unit of a correctionField (2^-16 ns) and half of each are whole. -/
def finePs : Int := 131072

/-- A correctionField in those units. -/
def corrFine (c : Int) : Int := c * 2000

/-- Those units in units of 2^-40 ns, rounded by R567. -/
def unitsOfFine (x : Int) : Int := roundDiv (x * 2 ^ 23) 1000

/-- The receive stamp of a message that comes on a lane now: its instant at the ball less DL_RX (R64, R67, R76). -/
def rxStamp (s : State) (lane : Nat) : Int := now s - getSF s (LKS_LANE_RXD_DL_RX (lane / 16) (lane % 16))

/-- The transmit stamp of a message that leaves a lane now: its instant at the ball plus DL_TX (R67, R76). -/
def txStamp (s : State) (lane : Nat) : Int := now s + getSF s (LKS_LANE_TXD_DL_TX (lane / 16) (lane % 16))

/-- A Sync with its transmit time known, all in 2^-17 ps: the offset (estimate minus CT) by the delay request-response mechanism of IEEE 1588, and, for the active locked
servo, the loop's free outputs into LKS_FADJ by R51 (unless SyncE gives the frequency, R79) and the remaining phase, bounded by R75. The servo then sends a Delay_Req on its lane.
Log: 20 DESIGN CHOICE. -/
def servoSync (s : State) (d : Fin 2) (lane : Nat) (v : Servo) (t1 t2 : Int) : State :=
  let o := t1 + v.delay - t2
  let v1 := { v with est := (s.ct.units : Int) + unitsOfFine o, cyc := s.upCycles, t1 := t1, t2 := t2, t3 := txStamp s lane, waiting := none, lastSync := some (t2 / finePs) }
  let s1 := if getF s (servoField d) = 0 ∨ getF s (servoField d) = 3 then setServoState s d 1 else s
  let (n, s2) := takeFree s1
  let bw := getF s (LKS_SERVO_CTL_BW d.val)
  let f := Config.servoFadj n bw o
  let s3 := setServo s2 d (if hybridOn s then v1 else { v1 with fadj := clampInt (-25600000) 25600000 f })
  let s4 := if getF s LKS_STATUS_ACTIVE_DOM = d.val ∧ servoLocked s d = true then
    boundRemain (if hybridOn s then s3 else writeFadj s3 f) (unitsOfPs (Config.servoPhase n bw o))
  else s3
  emit s4 (.ptpDelayReq lane (getF s (LKS_SERVO_CTL_DOMAIN d.val)) (now s))

/-- Deliver a message to the servo of a domain (R76). -/
def servoMsg (s : State) (d : Fin 2) (lane : Nat) (m : PtpMsg) : State :=
  let v := getServo s d
  let t2 := rxStamp s lane * finePs
  match m.kind with
  | .sync =>
    if m.twoStep then setServo s d { v with waiting := some (t2 - corrFine m.corr) } else servoSync s d lane v (m.origin * finePs + corrFine m.corr) t2
  | .followUp =>
    match v.waiting with
    | some w => servoSync s d lane v (m.origin * finePs + corrFine m.corr) w
    | none => s
  | .delayResp => setServo s d { v with delay := ((v.t2 - v.t1) + (m.origin * finePs - corrFine m.corr - v.t3 * finePs)) / 2 }
  | .announce =>
    setF (setServo s d { v with annPs := m.annPs }) (if d = 0 then LKS_SERVO_STAT_A_CLASS else LKS_SERVO_STAT_B_CLASS) m.clockClass.toNat
  | .delayReq | .pdelayReq | .pdelayResp | .unicastRequest | .unicastCancel => s

/-- Is a PTP domain number one that a servo or a boundary-clock port is set to (R90)? A port is an Ethernet lane in LKS_BC_PORTS (R80). -/
def domainKnown (s : State) (domain : Nat) : Bool :=
  getF s (LKS_SERVO_CTL_DOMAIN 0) == domain || getF s (LKS_SERVO_CTL_DOMAIN 1) == domain || anyBelow (fun l => bcPort s l domain) 64

/-- Does R90 drop a PTP frame: a malformed header, a receive stamp that the lane marks invalid, or a domain number that nothing is set to? -/
def ptpInvalid (s : State) (wellFormed stampValid : Bool) (domain : Nat) : Bool := !wellFormed || !stampValid || !domainKnown s domain

/-- Does a message concern the boundary clock: one to a port of its domain, or an Announce of that domain on any lane that could be one, which the BMCA weighs? -/
def bcHears (s : State) (lane : Nat) (m : PtpMsg) : Bool :=
  bcPort s lane m.domain.toNat || (m.kind == .announce && bcLane s lane && getF s LKS_BC_CTL_DOMAIN == m.domain.toNat)

/-- The lanes of a mask of port states that can be ports of the boundary clock. -/
def bcMask (s : State) (m : Nat) : Nat := (List.range 64).foldl (fun a l => if bcLane s l && bitOf m l == 1 then a + 2 ^ l else a) 0

/-- A message to a boundary-clock port of its domain (R80, R81): a Delay_Req waits for its answer; under G.8275.2 a request for unicast service is granted while fewer than 128
clients are served, and a cancelling ends it; at an Announce the alternate BMCA, unless STATIC is 1, sets the port states of all ports anew. Log: 132 DESIGN CHOICE. -/
def bcMsg (s : State) (lane : Nat) (m : PtpMsg) : State :=
  match m.kind with
  | .delayReq => { s with lks := { s.lks with delayReqs := s.lks.delayReqs ++ [(lane, rxStamp s lane * finePs - corrFine m.corr)] } }
  | .unicastRequest =>
    if isF s LKS_BC_CTL_PROFILE then
      (let held := s.lks.clients.contains (lane, m.client)
       let ok := held || decide (s.lks.clients.length < 128)
       emit { s with lks := { s.lks with clients := if ok && !held then s.lks.clients ++ [(lane, m.client)] else s.lks.clients } } (.ptpGrant lane m.client ok))
    else s
  | .unicastCancel => { s with lks := { s.lks with clients := s.lks.clients.filter fun x => x != (lane, m.client) } }
  | .announce =>
    if isF s LKS_BC_CTL_STATIC then s
    else
      (let (n, s1) := takeFree s
       setF s1 LKS_BC_PORTS_PORT_EN (bcMask s (Config.bmcaPorts n)))
  | _ => s

/-- PTP_FRAME_RECEIVE (R76, R88, R90): dropped before ARM, dropped when malformed, of a domain that nothing is set to or with an invalid stamp; otherwise delivered to the servo
and the boundary-clock port it is for. Log: 23 PRESUMED, 30 DESIGN CHOICE. -/
def execPtpFrameReceive (lane : Fin 64) (m : PtpMsg) (s : State) : Res :=
  let s0 := atDt s m.dt
  if ¬ isF s LKS_CTL_ARM then .next (addF s0 LKS_PTP_DROP_UNARMED 1)
  else if ptpInvalid s m.wellFormed m.stampValid m.domain.toNat = true then .next (addF s0 LKS_PTP_DROP_INVALID 1)
  else
    let s1 := if servoTakes s 0 lane.val m then servoMsg s0 0 lane.val m else s0
    let s2 := if servoTakes s 1 lane.val m then servoMsg s1 1 lane.val m else s1
    .next (if bcHears s lane.val m then bcMsg s2 lane.val m else s2)

/-- The clockClass the boundary clock advertises (the table of R80). -/
def advertisedClass (s : State) : Nat :=
  match getF s LKS_STATUS_STATE with
  | 2 => if getF s LKS_STATUS_ACTIVE_DOM = 0 then getF s LKS_SERVO_STAT_A_CLASS else getF s LKS_SERVO_STAT_B_CLASS
  | 3 => 135
  | 4 => 165
  | _ => 248

/-- Does the boundary clock send on the lane (R80, R88)? -/
def bcSends (s : State) (lane : Nat) : Bool := isF s LKS_CTL_ARM && bcLane s lane && testF s LKS_BC_PORTS_PORT_EN lane

/-- SYNC_SEND (R80): a one-step Sync with the originTimestamp of the instant it leaves. -/
def execSyncSend (lane : Fin 64) (dt : Nat) (s : State) : Res :=
  let s1 := atDt s dt
  .next (if bcSends s lane.val then emit s1 (.ptpSync lane.val (getF s LKS_BC_CTL_DOMAIN) (now s1)) else s)

/-- ANNOUNCE_SEND (R80): an Announce with the clockClass of LKS_STATUS.STATE. -/
def execAnnounceSend (lane : Fin 64) (s : State) : Res :=
  .next (if bcSends s lane.val then emit s (.ptpAnnounce lane.val (getF s LKS_BC_CTL_DOMAIN) (advertisedClass s)) else s)

/-- DELAY_REQ_ANSWER (R80): the oldest Delay_Req of the lane is answered with its receive stamp. -/
def execDelayReqAnswer (lane : Fin 64) (s : State) : Res :=
  match takeFirst (fun x => x.1 == lane.val) s.lks.delayReqs with
  | some (x, rest) =>
    .next (if bcSends s lane.val then
        emit { s with lks := { s.lks with delayReqs := rest } } (.ptpDelayResp lane.val (getF s LKS_BC_CTL_DOMAIN) x.2) else s)
  | none => .next s

/-- PTP_DROP_CLR (R90): the three drop counts return to 0. -/
def execPtpDropClr (s : State) : Res :=
  .next (setF (setF (setF s LKS_PTP_DROP_UNARMED 0) LKS_PTP_DROP_INVALID 0) LKS_PTP_DROP_RESIDENCE 0)

/-! ## PPS and PTM -/

/-- Do PPS_OUT and CLK10_OUT run (R84)? Log: 29 DEDUCED. -/
def ppsRuns (s : State) : Bool := isF s LKS_CTL_ARM && isF s LKS_PPS_CTL_OUT_EN

/-- The instant of the next PPS_OUT edge: LKS_PPS_OUT_DLY before a second of CT (R84). -/
def ppsNext (s : State) : Int :=
  let d := getSF s LKS_PPS_OUT_DLY_DLY
  nextMultiple (ctPs s + d) psSec - d

/-- PPS_OUT_EDGE (R84): PPS_OUT rises. -/
def execPpsOutEdge (s : State) : Res :=
  let t := ppsNext s
  .next (if ppsRuns s ∧ inCycle s t then
      emit { s with lks := { s.lks with ppsRise := some t } } (.pin "PPS_OUT" true t) else s)

/-- PPS_OUT_FALL (R84): PPS_OUT falls after WIDTH ms, or at once when ARM or OUT_EN is 0. -/
def execPpsOutFall (s : State) : Res :=
  match s.lks.ppsRise with
  | some t =>
    let f := t + getF s LKS_PPS_CTL_WIDTH * 1000000000
    .next (if ppsRuns s = false ∨ reached s f = true then
        emit { s with lks := { s.lks with ppsRise := none } } (.pin "PPS_OUT" false (if ppsRuns s then f else now s)) else s)
  | none => .next s

/-- Does a rising edge of CLK10_OUT fall at the CT instant t (R84)? Log: 29 DEDUCED. -/
def clk10Rises (s : State) (t : Int) : Bool := ppsRuns s && decide (t % 100000 = 0)

/-- PTM_DIALOGUE (R87, R436): while LKS_PTM_CTL.EN and the host's PTM Enable are set and the interval has passed, the host's time and the CT of the same instant are held. Log: 30 DESIGN CHOICE, 147 DESIGN CHOICE. -/
def execPtmDialogue (hostTime : DWord) (dt : Nat) (s : State) : Res :=
  let s1 := atDt s dt
  let due := match s.lks.lastPtm with
    | some t => decide (t + getF s LKS_PTM_CTL_INTERVAL_MS * 1000000000 ≤ now s1)
    | none => true
  if isF s LKS_PTM_CTL_EN = true ∧ s.cfg.ptmEnable = true ∧ due = true then
    let s2 := setF s1 LKS_PTM_HOST_HOST_TIME hostTime.toNat
    let s3 := setF s2 LKS_PTM_CT_CT_AT ((secOf (now s1) % 2 ^ 32) * 2 ^ 32 + nsOf (now s1))
    .next { s3 with lks := { s3.lks with lastPtm := some (now s1) } }
  else .next s

/-- CI_OFS_WRITE (R72): taken only while no plan of the carrier instance is installed; otherwise LOCKED. -/
def execCiOfsWrite (ci : Fin 512) (v : DWord) (s : State) : Res :=
  .next (if planInstalled s ci.val then setF s LKS_CI_OFS_ERR_LOCKED 1 else setF s (LKS_CI_OFS_OFS ci.val) v.toNat)

end Sys2Proof.Machine
end

