-- ==== Sys2Proof/Machine/Slots.lean ====
section
/-!
DEFINITION. Slots of a carrier instance and the jobs in force: resolving a 32-bit slot (spec/03_slot_contract.md R119), the plan in force for a
slot (R107 to R109), failing happenings (R101, R102) and the count of live nodes (R151, R161).
-/

namespace Sys2Proof.Machine

/-- The slot length of a grid in ps. -/
def slotLen (mu : Nat) : Nat := if mu = 7 then 2000000000 else if mu = 8 then 250000000 else 1000000000 / 2 ^ mu

/-- The first slot whose boundary is at or after t. -/
def firstSlotAt (mu : Nat) (ofs t : Int) : Int := slotAt mu ofs (t - 1) + 1

/-- The slot that a 32-bit SLOT names, seen from t (R119). -/
def resolveSlot (mu : Nat) (ofs : Int) (slot32 : Nat) (t : Int) : Int :=
  let lo := firstSlotAt mu ofs (t - 2 ^ 31 * (slotLen mu : Int))
  lo + ((slot32 : Int) - lo) % 2 ^ 32

/-- The plans of carrier instance n that hold resources, newest first. -/
def plansOf (s : State) (n : Nat) : List Plan := (s.plans.filter fun p => p.ci == n).reverse

/-- The grid of the slots of carrier instance n: that of its plan in force, else of the plan that it has; µ0 where it has none (R108). Log: 73 DEDUCED. -/
def ciMu (s : State) (n : Nat) : Nat :=
  match (plansOf s n).find? fun p => decide (p.tFirst ≤ now s) with
  | some p => p.mu
  | none => match (plansOf s n).getLast? with | some p => p.mu | none => 0

/-- Is the plan in force for the slot whose boundary is b (R107 to R109)? -/
def inForce (p : Plan) (b : Int) : Bool := decide (p.tFirst ≤ b) && (match p.tEnd with | some e => decide (b < e) | none => true)

/-- The plan of the list in force for its own resolution of SLOT, with the resolved slot (R119). -/
def findPlan (s : State) (slot32 : Nat) (t : Int) : List Plan → Option (Plan × Int)
  | [] => none
  | p :: rest =>
    let n := resolveSlot p.mu (ciOfs s p.ci) slot32 t
    if inForce p (slotBoundary p.mu (ciOfs s p.ci) n) then some (p, n) else findPlan s slot32 t rest

/-- The plan with an acceptance number. -/
def planBySeq (s : State) (n : Nat) : Option Plan := s.plans.find? fun p => p.seq == n

/-- The part of a plan in a quadrant. -/
def partOf (p : Plan) (q : Nat) : Option PlanPart := p.parts.find? fun x => x.quad == q

/-- Does the plan include quadrant q? -/
def inQuad (p : Plan) (q : Nat) : Bool := p.parts.any fun x => x.quad == q

/-! ## Jobs and their failing happenings -/

/-- Rank of an outcome among happenings with equal stamps (R102). -/
def outcomeRank (o : Nat) : Nat := if o = 0x20 then 0 else if o = 0x22 then 1 else if o = 0x21 then 2 else 3

/-- Does a happening come before another (R102)? -/
def happensBefore (a b : Happening) : Bool :=
  decide (a.stamp < b.stamp ∨ (a.stamp = b.stamp ∧
    (outcomeRank a.outcome < outcomeRank b.outcome ∨ (outcomeRank a.outcome = outcomeRank b.outcome ∧ a.task < b.task))))

/-- The earlier of a recorded happening and a new one. -/
def firstHappening : Option Happening → Happening → Option Happening
  | none, h => some h
  | some g, h => if happensBefore h g then some h else some g

/-- Is the happening FAILED_INPUT with detail RADIO, which removes no task (R103)? -/
def isRadio (h : Happening) : Bool := h.outcome == 0x22 && h.detail == 0x50

/-- End every node of the job that has not started: it is removed and never starts (R101). -/
def removeUnstarted (now : Int) (j : Job) : Job :=
  let n := (j.nodes.filter fun x => x.st == .waiting).length
  { j with nodes := j.nodes.map fun x => if x.st = .waiting then { x with st := .ended } else x,
           recCounter := j.recCounter - n, endAt := if n = 0 then j.endAt else now }

/-- Give a job a failing happening; a cancellation has no effect on a job whose tasks have all completed (R102). -/
def failJob (now : Int) (h : Happening) (j : Job) : Job :=
  if j.recCounter = 0 ∧ h.outcome = 0x10 then j
  else
    let j1 := { j with fail := firstHappening j.fail h }
    if isRadio h then j1 else removeUnstarted now j1

/-- Apply f to the jobs that satisfy p. -/
def mapJobs (s : State) (p : Job → Bool) (f : Job → Job) : State := { s with jobs := s.jobs.map fun j => if p j then f j else j }

/-- Fail the jobs that satisfy p at this instant. -/
def failJobs (s : State) (p : Job → Bool) (outcome detail : Nat) (task : Nat := 0x3FF) : State :=
  mapJobs s p (failJob (now s) ⟨now s, outcome, detail, task⟩)

/-- The job that holds a task node, and the node. -/
def findNode (s : State) (id : Nat) : Option (Job × Node) :=
  s.jobs.findSome? fun j => (j.nodes.find? fun x => x.id == id && x.st != .ended).map fun n => (j, n)

/-- Apply f to the node with an identifier. -/
def mapNode (s : State) (id : Nat) (f : Node → Node) : State :=
  { s with jobs := s.jobs.map fun j => { j with nodes := j.nodes.map fun x => if x.id = id ∧ x.st ≠ .ended then f x else x } }

/-- The live nodes of quadrant q: unended task nodes, record nodes and periodic items (R151, R161). -/
def liveNodes (s : State) (q : Nat) : Nat :=
  (s.jobs.map fun j => (j.nodes.filter fun n => n.quad == q && n.st != .ended).length + (if j.home = q then 1 else 0)).foldl (· + ·) 0 +
  (s.rings.map fun r => if r.1 / 64 = q then r.2.items.length else 0).foldl (· + ·) 0

/-- The identifiers in use in a quadrant. -/
def usedIds (s : State) (q : Nat) : List Nat :=
  s.jobs.flatMap fun j => (j.nodes.filter fun n => n.quad == q && n.st != .ended).map (·.id) ++ (if j.home = q then [j.recNode] else [])

/-- The lowest identifier from i that is not in use, among the next m. Log: 34 DESIGN CHOICE. -/
def lowestFree (used : List Nat) (i : Nat) : Nat → Nat
  | 0 => i
  | m + 1 => if used.contains i then lowestFree used (i + 1) m else i

/-- A free identifier of quadrant q: bits [22:21] the quadrant, [20:0] the lowest free index (R151; DESIGN CHOICE for which). Log: 34 DESIGN CHOICE. -/
def newId (used : List Nat) (q : Nat) : Nat := lowestFree used (q * 2 ^ 21) used.length

end Sys2Proof.Machine
end

