-- ==== Sys2Proof/Machine/RecQueue.lean ====
section
/-!
DEFINITION. The writing of completion records (spec/04_dahlia.md R145, R146, R152, R162; spec/07_memory.md R269, R271, R272, R274; spec/12_cxl.md R427, R428; spec/15_faults.md R507,
R508): a ring's records are written one after the other in the order in which they fall due, each once its entry can be written, and a job ends with the writing of its record.
-/

namespace Sys2Proof.Machine

/-- Store a quadrant's own state. -/
def setQuad (s : State) (q : Nat) (x : QuadHw) : State := { s with quads := smPut (fun _ => ({} : QuadHw)) q x s.quads }

/-! ## The hub's mirror of a quadrant's rings (R507) -/

/-- Is the BAR0 offset one of quadrant q's ring registers? -/
def inRingRegs (q a : Nat) : Bool := decide (admBase q + 0x4000 ≤ a ∧ a < admBase q + 0x5000)

/-- Put the entries of a map into another. -/
def overlayRegs (m : SMap Word) (over_ : SMap Word) : SMap Word := over_.foldl (fun m x => smPut regReset x.1 x.2 m) m

/-- Run f on the state in which quadrant q's ring registers and rings are those of the hub's mirror, and keep what it makes of them in the mirror (R507). Log: 93 DEDUCED. -/
def withMirror (s : State) (q : Nat) (f : State → State) : State :=
  let x := getQuad s q
  let others := smDrop (fun r => r / 64 == q) s.rings
  let s1 := f { s with regs := overlayRegs (smDrop (inRingRegs q) s.regs) x.mirrorRegs, rings := x.mirrorRings.foldl (fun m r => smPut (fun _ => ({} : Ring)) r.1 r.2 m) others }
  let y := { getQuad s1 q with mirrorRegs := smDrop (fun a => !inRingRegs q a) s1.regs, mirrorRings := smDrop (fun r => r / 64 != q) s1.rings }
  let s2 := { s1 with regs := overlayRegs (smDrop (inRingRegs q) s1.regs) (smDrop (fun a => !inRingRegs q a) s.regs),
                      rings := (smDrop (fun r => r / 64 != q) s.rings).foldl (fun m r => smPut (fun _ => ({} : Ring)) r.1 r.2 m) (smDrop (fun r => r / 64 == q) s1.rings) }
  setQuad s2 q y

/-- Run f on the state in which the rings of quadrant q are those in use: the hub's mirror while the quadrant is reinitialised (R507). -/
def ringSide (s : State) (q : Nat) (f : State → State) : State := if (getQuad s q).reinit.isSome then withMirror s q f else f s

/-! ## What the writing of a record does beside its bytes -/

/-- A node's counter falls by one; at 0 a released node is ready (R152, R153). -/
def decNode (now : Int) (n : Node) : Node :=
  let c := n.counter - 1
  { n with counter := c, readyAt := if c = 0 ∧ n.released = true ∧ n.readyAt = none then some now else n.readyAt }

/-- Is there an accepted job of the ring, among those up to a place in its order, whose record is not written? lost asks of the jobs that a function reset (R428)
cut off from the ring. -/
def heldByFence (s : State) (r seq : Nat) (lost : Bool) : Bool := s.jobs.any fun x => x.ring == r && x.lost == lost && decide (x.cmd.seq ≤ seq)

/-- Release the nodes of the jobs of a ring whose fence no longer waits (R126, R152). -/
def releaseFences (s : State) (r : Nat) : State :=
  mapJobs s (fun j => j.ring == r && j.fenced && !heldByFence s r j.cmd.fenceSeq j.lost) fun j =>
    { j with fenced := false, nodes := j.nodes.map fun n => if n.st = .ended then n else decNode (now s) n }

/-- Are the fences of job counts a and f satisfied on the ring (R125, R126)? -/
def fencesMet (s : State) (r a f : Nat) : Bool :=
  decide (a ≤ (getRing s r).decided) && decide (f ≤ (getRing s r).decided) && !(s.jobs.any fun j => j.ring == r && !j.lost && decide (j.cmd.seq ≤ f))

/-- Note, for the waiting SIGNALs of a ring, the instant at which their fences became satisfied. -/
def touchSignals (s : State) (r : Nat) : State :=
  if (getRing s r).signals.isEmpty then s
  else setRing s r { getRing s r with signals := ((getRing s r).signals.map fun x =>
    if x.met = none ∧ fencesMet s r x.admitSeq x.fenceSeq = true then { x with met := some (now s) } else x) }

/-- Do a ring's records go to host memory? -/
def recordsToHost (s : State) (r : Nat) : Bool := spaceOf (getR64 s (ADM_RING_CQ_BASE (r / 64) (r % 64))) == 0

/-- The record of a job is written, or lost: the job is let go, and what waits for its record goes on (R126, R152, R162). -/
def letGo (s : State) (j : Job) : State :=
  let s1 := { s with jobs := s.jobs.filter fun x => x.recNode != j.recNode }
  touchSignals (releaseFences s1 j.ring) j.ring

/-- The index, PHASE, the reservation, the outcome counter (R99), the last refusal, and the ring's interrupt source where IRQ was set (R438), as a record is written. -/
def showRecord (s : State) (x : PendRec) : State :=
  let r := x.ring
  let q := r / 64
  let i := r % 64
  let g := getRing s r
  let last := g.cqTail + 1 == cqSize s r
  let s2 := setRing s r { g with cqTail := (g.cqTail + 1) % cqSize s r, phase := if last then !g.phase else g.phase, reserved := g.reserved - 1 }
  let s3 := addF s2 (ADM_CNT_OUT_COUNT q (outcomeCounter x.rec_.outcome)) 1
  let s4 := if isRefusal x.rec_.outcome then
      setF (setF (setF (setF (setF s3 (ADM_LAST_REF_OUTCOME q) x.rec_.outcome) (ADM_LAST_REF_DETAIL q) x.rec_.detail) (ADM_LAST_REF_TASK q) x.rec_.task)
        (ADM_LAST_REF_RING q) i) (ADM_LAST_TAG_TAG q) x.rec_.tag
    else s3
  if x.irq then intPulse s4 (qSrc q (160 + getF s (ADM_RING_CTL_SRC q i))) else s4

/-- A record is written: its job ends with it. One that a recovery of the host link has made late is counted (R427), and so is a late one of the hub's record writer (R508). -/
def recorded (s : State) (x : PendRec) : State :=
  let s1 := showRecord s x
  let late := match x.rec_.due with | some d => decide (d < now s) | none => false
  let s2 := if x.hub && late then addF s1 (PRM_REINIT_CNT_LATE (x.ring / 64)) 1 else s1
  match x.job.bind fun n => s2.jobs.find? fun j => j.recNode == n with
  | some j => letGo (if late && recordsToHost s x.ring && decide (j.endAt < s.linkHeld) then addF s2 CXL_LINK_CNT_LATE_REC 1 else s2) j
  | none => s2

/-! ## The order of the records -/

/-- The device address of the next completion entry of ring r. -/
def nextEntry (s : State) (r : Nat) : Nat := getR64 s (ADM_RING_CQ_BASE (r / 64) (r % 64)) + 32 * (getRing s r).cqTail

/-- Take the oldest record of a ring from those that wait, or change it. -/
def changeRec (s : State) (r : Nat) (f : PendRec → List PendRec) : State :=
  match s.recs.span fun x => x.ring != r with
  | (a, x :: b) => { s with recs := a ++ f x ++ b }
  | (_, []) => s

/-- The bytes of a record are in place, and it is written. -/
def finishRec (s : State) (x : PendRec) (a : Nat) (bs : List Byte) : State :=
  recorded (emit (wrMem (changeRec s x.ring fun _ => []) a bs) (.record a bs)) x

/-- Write the records of a ring that wait, oldest first, until one is held up (R146): by the host's GO, by a recovery of its link (R272, R427), or by a line of DRAM that the host holds
(R274). A record whose entry fails its check is logged and goes nowhere (R252). The first argument bounds the records. Log: 142 DESIGN CHOICE. -/
def sendRecs (r : Nat) : Nat → State → State
  | 0, s => s
  | k + 1, s =>
    match s.recs.find? fun x => x.ring == r with
    | none => s
    | some x =>
      if x.sent.isSome then s
      else match checkAddr s (r / 64) (.ring r) (nextEntry s r) 32 true with
        | .error e => sendRecs r k (recorded (changeRec (logAddrFault s (r / 64) (.ring r) (nextEntry s r) e) r fun _ => []) x)
        | .ok a =>
          let bs := recBytes r (getRing s r).phase (now s) x.rec_
          if inHost a then
            (if now s < s.linkHeld then s else changeRec (tellHost s a 32 false) r fun y => [{ y with sent := some (a, bs) }])
          else match waitsFor s a 32 true with
            | some y => snoopLine s y true
            | none => sendRecs r k (finishRec s x a bs)

/-- Write what records of ring r can be written. -/
def writeRecs (s : State) (r : Nat) : State := sendRecs r (s.recs.length + 1) s

/-- A record falls due. One that had no entry reserved takes one. -/
def queueRec (s : State) (reserved : Bool) (x : PendRec) : State :=
  let s1 := if reserved then s else setRing s x.ring { getRing s x.ring with reserved := (getRing s x.ring).reserved + 1 }
  writeRecs { s1 with recs := s1.recs ++ [x] } x.ring

/-- A record of ring r that belongs to no accepted job falls due. -/
def writeRecord (s : State) (r : Nat) (reserved irq : Bool) (x : Rec) : State := queueRec s reserved { ring := r, irq := irq, rec_ := x }

/-- Write the record, or lose it. -/
def finishRecord (s : State) (r : Nat) (lost irq : Bool) (x : Rec) : State :=
  if lost then loseRecord s else writeRecord s r true irq x

/-- The host's GO for the record of ring r whose request is out: it is written, and the next one follows (R272). While the link recovers no GO comes (R427), and after the recovery a
record that it held back goes out. Log: 142 DESIGN CHOICE. -/
def recordGo (s : State) (r : Nat) : State :=
  if now s < s.linkHeld then s
  else match s.recs.find? fun x => x.ring == r with
    | none => s
    | some x => match x.sent with
      | some (a, bs) => writeRecs (finishRec s x a bs) r
      | none => writeRecs s r

/-- Try once more the records that waited for the host to give up a line. -/
def retryRecs (s : State) : State := ((s.recs.map (·.ring)).eraseDups).foldl (fun s r => ringSide s (r / 64) fun s => writeRecs s r) s

/-- A function reset (R428): the records of a ring that wait are lost, each counted, and their jobs are let go. -/
def loseRecs (s : State) (r : Nat) : State :=
  (s.recs.filter fun x => x.ring == r).foldl (fun s x =>
    let s1 := changeRec (loseRecord s) r fun _ => []
    match x.job.bind fun n => s1.jobs.find? fun j => j.recNode == n with
    | some j => letGo s1 j
    | none => s1) s

end Sys2Proof.Machine
end

