-- ==== Sys2Proof/Machine/Rings.lean ====
section
/-!
DEFINITION. Rings, doorbells and the command words that act on a ring alone (spec/04_dahlia.md R132 to R146, R161 to R163, R566;
spec/03_slot_contract.md R125, R128, R129).
-/

namespace Sys2Proof.Machine

/-! ## Command words (R140) -/

/-- Bits [lo+w-1 : lo] of the 32-bit word at byte offset ofs of a command word. -/
def cwf (c : CmdWord) (ofs lo w : Nat) : Nat := bitsOf c.bits (8 * ofs + lo) w

/-- OPCODE. -/
def opcodeOf (bits : Nat) : Nat := bitsOf bits 0 8

/-- IRQ. -/
def irqOf (c : CmdWord) : Bool := bitOf c.bits 8 == 1

/-- Does reading this opcode reserve a completion entry (R135)? -/
def needsEntry (op : Nat) : Bool := decide (op = 1 ∨ op = 9 ∨ (10 ≤ op ∧ op ≤ 13))

/-- A refused doorbell write of part of a register (R431). -/
def badAccess (s : State) : State := addF s CXL_BAD_ACC_BAR2 1

/-- Is the ring enabled? -/
def ringEn (s : State) (r : Nat) : Bool := isF s (ADM_RING_CTL_EN (r / 64) (r % 64))
/-- Is it draining (R139)? -/
def ringDraining (s : State) (r : Nat) : Bool := isF s (ADM_RING_CTL_DRAINING (r / 64) (r % 64))

/-- CMD_TAIL_WRITE (R133, R431): words up to the written index become visible, with this instant as their doorbell. -/
def execCmdTailWrite (r : Fin 256) (v : Word) (be : BitVec 4) (dt : Nat) (s : State) : Res :=
  if now (atDt s dt) < s.linkHeld then .next s
  else if be ≠ 15 then .next (badAccess s)
  else if ringEn s r.val = false then .next s
  else
    let s0 := atDt s dt
    let size := cmdSize s r.val
    let g := getRing s r.val
    let t := min v.toNat (size - 1)
    let n := (t + size - g.cmdHead) % size
    let s1 := setRing s0 r.val { g with cmdTail := t, stamps := g.stamps.take n ++ List.replicate (n - g.stamps.length) (now s0) }
    .next (clampIf s1 r.val 0xFF 0xFD (t != v.toNat))

/-- CQ_HEAD_WRITE (R133, R431): frees the entries before the written index; an index beyond CQ_TAIL is taken as CQ_TAIL. -/
def execCqHeadWrite (r : Fin 256) (v : Word) (be : BitVec 4) (s : State) : Res :=
  if now s < s.linkHeld then .next s
  else if be ≠ 15 then .next (badAccess s)
  else if ringEn s r.val = false ∧ ringDraining s r.val = false then .next s
  else
    let size := cqSize s r.val
    let g := getRing s r.val
    let h := min v.toNat (size - 1)
    let t := if cqUsed s r.val < (h + size - g.cqHead) % size then g.cqTail else h
    .next (clampIf (setRing s r.val { g with cqHead := t }) r.val 0xFF 0xFC (t != v.toNat))

/-! ## The reader -/

/-- The number of visible words not yet read. -/
def visibleWords (s : State) (r : Nat) : Nat := ((getRing s r).cmdTail + cmdSize s r - (getRing s r).cmdHead) % cmdSize s r

/-- The flat address of the next word, where both queues pass their check (R252). -/
def nextWordAddr (s : State) (r : Nat) : Except (Nat × Nat) Nat :=
  let q := r / 64
  let cb := getR64 s (ADM_RING_CMD_BASE q (r % 64))
  let qb := getR64 s (ADM_RING_CQ_BASE q (r % 64))
  match checkAddr s q (.ring r) cb (64 * cmdSize s r) false with
  | .error e => .error (cb, e)
  | .ok a =>
    match checkAddr s q (.ring r) qb (32 * cqSize s r) true with
    | .error e => .error (qb, e)
    | .ok _ => .ok (a + 64 * (getRing s r).cmdHead)

/-- Must the reader hold a command of this opcode until the quadrant is ACTIVE (R488)? -/
def waitsForActive (s : State) (q op : Nat) : Bool := decide (op = 10 ∨ op = 12) && (getF s (PRM_Q_STAT_STATE q) != 0)

/-- Count a refusal of a quadrant request with its code (R483, R486). -/
def refuseQuad (s : State) (q code : Nat) : State := setF (addF s (PRM_Q_REFUSE_COUNT q) 1) (PRM_Q_REFUSE_CODE q) code

/-- A request that the quadrant be ACTIVE: from DORMANT the wake starts; an entry before its final 240 ns is aborted (R482, R483, R488). -/
def requestActive (s : State) (q : Nat) : State :=
  if getF s (PRM_Q_STAT_STATE q) = 1 then
    setQuad (setF s (PRM_Q_STAT_STATE q) 4) q { getQuad s q with waking := some (now s) }
  else match (getQuad s q).entering with
    | some t =>
      if now s < t + 50000000 - 240000 then
        refuseQuad (setQuad (setF s (PRM_Q_STAT_STATE q) 0) q { getQuad s q with entering := none }) q 1
      else s
    | none => s

/-- The 64-byte command word at a flat address. What a word in a poisoned granule reads as the spec leaves open (R254, R257): a free value. Log: 32 DESIGN CHOICE, 65 DESIGN CHOICE. -/
def cmdWordAt (s : State) (a : Nat) : Nat := if badRead s a 64 then Config.poisonedWord a % 2 ^ 512 else rdLe (readBad s a 64) a 64

/-- Is the reader held before its next word (R135, R252, R488)? A wait for a line that the host holds is no hold (R566). A ring whose queue base has failed its check stays held until it is disabled. -/
def ringHeld (s : State) (r : Nat) : Bool :=
  ringEn s r && ((getRing s r).badBase || (decide (0 < visibleWords s r) &&
    (match nextWordAddr s r with
      | .error _ => true
      | .ok a =>
        let op := opcodeOf (cmdWordAt s a)
        isF s (ADM_CTL_EN (r / 64)) == false || (needsEntry op && cqFree s r == 0) || waitsForActive s (r / 64) op)))

/-- COMMAND_FETCH (R134, R135, R252, R274, R488, R566): the reader reads the next visible word in ring order, unless it is held; a PLAN_SET or PROGRAM_LOAD wakes a
DORMANT quadrant. A word in a line that the host holds in E or M is read once the host has given the line up. Log: 31 DESIGN CHOICE. -/
def execCommandFetch (r : Fin 256) (dt : Nat) (s : State) : Res :=
  let s0 := atDt s dt
  let q := r.val / 64
  let g := getRing s r.val
  if ringEn s r.val = false ∨ g.badBase = true ∨ visibleWords s r.val = 0 ∨ isF s (ADM_CTL_EN q) = false then .next s
  else match nextWordAddr s r.val with
    | .error (a, e) => .next (logAddrFault (setRing s0 r.val { g with badBase := true }) q (.ring r.val) a e)
    | .ok a =>
      match waitsFor s a 64 false with
      | some x => .next (snoopLine s0 x false)
      | none =>
      let w := cmdWordAt s a
      let op := opcodeOf w
      if waitsForActive s q op then .next (requestActive s0 q)
      else if needsEntry op ∧ cqFree s r.val = 0 then .next s
      else .next (setRing (readBad (askHost s0 a 64) a 64) r.val { g with
        cmdHead := (g.cmdHead + 1) % cmdSize s r.val, stamps := g.stamps.drop 1,
        words := g.words ++ [⟨w, g.stamps.headD (now s0), now s0, false⟩],
        reserved := if needsEntry op then g.reserved + 1 else g.reserved })

/-- Is the word a plan or program command, which goes on once it has been read (R139)? -/
def isPlanWord (w : CmdWord) : Bool := decide (10 ≤ opcodeOf w.bits ∧ opcodeOf w.bits ≤ 13)

/-- The reserved entries that the words of a ring that a disable discards and its open job hold. -/
def heldEntries (g : Ring) : Nat := (g.words.filter fun w => needsEntry (opcodeOf w.bits) && !isPlanWord w).length + (if g.openJob.isSome then 1 else 0)

/-- Disable a ring (R139): the reader stops, unread commands, the open job and the periodic items are discarded; plan and program commands that have been read go on. -/
def disableRing (s : State) (r : Nat) : State :=
  let g := getRing s r
  let s1 := setF (setF s (ADM_RING_CTL_EN (r / 64) (r % 64)) 0) (ADM_RING_CTL_DRAINING (r / 64) (r % 64)) 1
  setRing s1 r { g with stamps := [], words := g.words.filter isPlanWord, openJob := none, items := [], cmdTail := g.cmdHead, reserved := g.reserved - heldEntries g, badBase := false }

/-- RING_DISABLE (R139): a write of 0 to EN while the field is 1. -/
def execRingDisable (r : Fin 256) (s : State) : Res := .next (if blockLive s .adm (r.val / 64) && ringEn s r.val then disableRing s r.val else s)

/-- Are all records of a disabled ring written (R139)? A job that is closed and undecided and a SIGNAL that waits are decided and recorded too. Log: 138 DESIGN CHOICE. -/
def ringDrained (s : State) (r : Nat) : Bool :=
  let g := getRing s r
  g.closed.isEmpty && g.signals.isEmpty && g.words.isEmpty && !(s.recs.any fun x => x.ring == r) && !(s.jobs.any fun j => j.ring == r && !j.lost) && !(s.ucmds.any fun u => u.ring == r && !u.lost)

/-- The end of draining (R139): the indices and ADM_RING_CLAMP return to 0. -/
def endDrain (s : State) (r : Nat) : State :=
  let q := r / 64
  let i := r % 64
  let g := getRing s r
  let s1 := setRing s r { lastDecision := g.lastDecision, seq := g.seq, decided := g.decided, closed := g.closed, words := g.words }
  setF (setF (setF s1 (ADM_RING_CTL_DRAINING q i) 0) (ADM_RING_CLAMP_COUNT q i) 0) (ADM_RING_STAT_EVERY_MISS q i) 0

/-- RING_DRAIN_END (R139). -/
def execRingDrainEnd (r : Fin 256) (s : State) : Res :=
  .next (if ringEn s r.val = false ∧ ringDraining s r.val = true ∧ ringDrained s r.val = true then endDrain s r.val else s)

/-- Enable a ring: ignored while it drains (R139); the first pass writes PHASE as 1 (R146). -/
def enableRing (s : State) (r : Nat) : State :=
  if ringEn s r ∨ ringDraining s r then s
  else setRing (setF s (ADM_RING_CTL_EN (r / 64) (r % 64)) 1) r { getRing s r with phase := true }

/-- RING_ENABLE (R139). -/
def execRingEnable (r : Fin 256) (s : State) : Res := .next (if blockLive s .adm (r.val / 64) then enableRing s r.val else s)

/-! ## Commands -/

/-- Act on the oldest word of the ring that was fetched and not yet acted on, where p holds of its opcode. Log: 3 DESIGN CHOICE, 31 DESIGN CHOICE. -/
def takeCmd (s : State) (r : Nat) (p : Nat → Bool) (f : State → CmdWord → State) : Res :=
  match (getRing s r).words with
  | [] => .next s
  | w :: rest => if p (opcodeOf w.bits) then .next (f (setRing s r { getRing s r with words := rest }) w) else .next s

/-- The flat range of the image that a command of the ring is to fetch, where it is in DRAM and the host holds a line of it in E or M (R274): the line. -/
def imageWaits (s : State) (r addr len : Nat) : Option (Nat × Nat) :=
  match checkAddr s (r / 64) .image addr len false with
  | .ok a => waitsFor s a len false
  | .error _ => none

/-- Fetch an image (R141, R252, R257): a failed check is logged; one that reads poisoned is no image. -/
def fetchImage (s : State) (r addr len : Nat) : State × Option (List Byte) :=
  match checkAddr s (r / 64) .image addr len false with
  | .error e => (logAddrFault s (r / 64) .image addr e, none)
  | .ok a =>
    let s1 := readBad (askHost s a len) a len
    (s1, if badRead s1 a len then none else some (rdBytes s1 a len))

/-- Act on an image command of the ring, whose range g gives: while the host holds a line of its image in E or M, the word stays and the snoop goes out (R274). -/
def takeImageCmd (s : State) (r : Nat) (p : Nat → Bool) (g : CmdWord → Nat × Nat) (f : State → CmdWord → State) : Res :=
  match (getRing s r).words with
  | [] => .next s
  | w :: _ =>
    if p (opcodeOf w.bits) = true ∧ (getRing s r).openJob = none then
      (match imageWaits s r (g w).1 (g w).2 with
        | some x => .next (snoopLine s x false)
        | none => takeCmd s r p f)
    else takeCmd s r p f

/-- Give up a reserved completion entry. -/
def releaseEntry (s : State) (r : Nat) : State := setRing s r { getRing s r with reserved := (getRing s r).reserved - 1 }

/-- A command that executes as NOP counts one clamp (R129) and reserves nothing. -/
def nopCmd (s : State) (r op : Nat) : State := clamp1 (if needsEntry op then releaseEntry s r else s) r op 0xFF

/-- Is a job open on the ring? -/
def jobIsOpen (s : State) (r : Nat) : Bool := (getRing s r).openJob.isSome

/-- NOP (R140, R128): opcode 0 has no effect; a reserved opcode executes as NOP and counts a clamp. Log: 31 DESIGN CHOICE. -/
def execNop (r : Fin 256) (s : State) : Res :=
  takeCmd s r.val (fun op => decide (op = 0 ∨ 14 ≤ op)) fun s w => if opcodeOf w.bits = 0 then s else nopCmd s r.val (opcodeOf w.bits)

/-- The numerology of a plan image (R147, R104). -/
def imageMu (img : List Byte) : Nat := min 6 (bitsOf (leNat (img.drop 4)) 4 3)

/-- The address and length of the image of a PLAN_SET. -/
def planImageAt (w : CmdWord) : Nat × Nat := (cwf w 0x18 0 64 / 64 * 64, clampNat 64 1048576 (cwf w 0x10 0 32))

/-- The decision instant of a plan command that the quadrant has read and not yet decided, where term 4 of R136 applies to a job of carrier instance n, SLOT and term 2. A PLAN_SET whose
image could not be read gives no numerology, and the term is not applied. Log: 33 DEDUCED, 150 DESIGN CHOICE. -/
def term4Of (s : State) (n slot : Nat) (t2 : Int) (u : UCmd) : Option Int :=
  if u.ci ≠ n then none
  else match u.kind, u.image with
    | .planSet, some img =>
      let mu := imageMu img
      let b := fun x t => slotBoundary mu (ciOfs s n) (resolveSlot mu (ciOfs s n) x t)
      if b u.slot u.term2 ≤ b slot t2 then some (u.stamp + 1000000000) else none
    | .planDrop, _ =>
      match plansOf s n with
      | [] => none
      | p :: _ =>
        let b := fun x t => slotBoundary p.mu (ciOfs s n) (resolveSlot p.mu (ciOfs s n) x t)
        if b u.slot u.term2 ≤ b slot t2 then some (u.stamp + 2000000) else none
    | _, _ => none

/-- The PLAN_SETs that ring r's reader holds and whose images wait for the host (R274), with the numerology that the image's header in memory gives. Log: 33 DEDUCED. -/
def heldPlanSets (s : State) (r : Nat) : List UCmd :=
  ((getRing s r).words.filter fun w => opcodeOf w.bits == 10).map fun w =>
    let img := match checkAddr s (r / 64) .image (planImageAt w).1 64 false with | .ok a => some (rdBytes s a 64) | .error _ => none
    ⟨.planSet, r, irqOf w, min (cwf w 4 0 10) 511, cwf w 8 0 32, cwf w 0xC 0 32, 0, 0, 0, w.term2, upNs (max w.term1 w.term2), img, [], false, w.lost⟩

/-- The plan commands that a quadrant has read and not yet decided (R136). -/
def undecided (s : State) (q : Nat) : List UCmd := (s.ucmds.filter fun u => u.ring / 64 == q) ++ (List.range 64).flatMap fun i => heldPlanSets s (64 * q + i)

/-- Term 4 of a job's stamp: the latest such instant in the ring's quadrant (R136; evaluated at the job's term 2, DEDUCED). Log: 33 DEDUCED. -/
def term4 (s : State) (r n slot : Nat) (t2 : Int) : Int :=
  (undecided s (r / 64)).foldl (fun a u => match term4Of s n slot t2 u with | some t => max a t | none => a) 0

/-- Bound one EDGE or AT by the job's last task (R128, R129, R143): the state with its clamps, the edges and the AT times. An EDGE that runs as NOP counts that clamp beside those of its
fields. Log: 150 DESIGN CHOICE. -/
def boundRel (r last : Nat) (x : State × List (Nat × Nat) × List (Nat × Int)) (c : Rel) : State × List (Nat × Nat) × List (Nat × Int) :=
  match c with
  | .edge a b =>
    let a' := min a last
    let b' := min b last
    let s1 := clampIf (clampIf x.1 r 3 2 (a' != a)) r 3 3 (b' != b)
    if b' ≤ a' then (clamp1 s1 r 3 0xFF, x.2.1, x.2.2)
    else (s1, if x.2.1.contains (a', b') then x.2.1 else x.2.1 ++ [(a', b')], x.2.2)
  | .atTime k t =>
    let k' := min k last
    let t' := clampInt (-8000000) 16000000 t
    let s1 := clampIf (clampIf x.1 r 4 2 (k' != k)) r 4 3 (t' != t)
    (s1, x.2.1, x.2.2.filter (fun y => y.1 != k') ++ [(k', t')])

/-- Close the open job of a ring with the word that ends it (R142, R143). -/
def closeJob (s : State) (r : Nat) (w : CmdWord) : State :=
  match (getRing s r).openJob with
  | none => s
  | some j =>
    let (s1, es, ats) := j.rels.foldl (boundRel r (j.tasks.length - 1)) (s, [], [])
    let g := getRing s1 r
    setRing s1 r { g with openJob := none, seq := g.seq + 1, closed := g.closed ++ [{ j with
      seq := g.seq + 1, rels := [], edges := es, ats := ats, term1 := w.term1, term2 := w.term2, term4 := term4 s r j.ci j.slot w.term2 }] }

/-- JOB_OPEN (R140, R142): an open job is closed first, with one clamp; its stamp takes the instants of this word. Log: 150 DESIGN CHOICE. -/
def execJobOpen (r : Fin 256) (s : State) : Res :=
  takeCmd s r.val (· == 1) fun s w =>
    let s1 := if jobIsOpen s r.val then clamp1 (closeJob s r.val w) r.val 1 0xFE else s
    let ci := min (cwf w 4 0 10) 511
    let dl := min (cwf w 0x10 0 32) 16000000
    let s2 := clampIf (clampIf s1 r.val 1 2 (ci != cwf w 4 0 10)) r.val 1 6 (dl != cwf w 0x10 0 32)
    let g := getRing s2 r.val
    setRing s2 r.val { g with openJob := (some
      { ci := ci, cls := cwf w 4 16 2, slot := cwf w 8 0 32, tag := cwf w 0xC 0 32, deadline := dl, irq := irqOf w, seq := 0, fenceSeq := g.fenceSeq }) }

/-- Add to the open job of a ring. -/
def addToJob (s : State) (r : Nat) (f : JobCmd → JobCmd) : State :=
  setRing s r { getRing s r with openJob := (getRing s r).openJob.map f }

/-- The tasks, or the EDGE commands, of the open job of a ring. -/
def openTasks (s : State) (r : Nat) : Nat := match (getRing s r).openJob with | some j => j.tasks.length | none => 0
/-- The EDGE commands of the open job of a ring. -/
def openEdges (s : State) (r : Nat) : Nat :=
  match (getRing s r).openJob with
  | some j => (j.rels.filter fun x => match x with | .edge _ _ => true | .atTime _ _ => false).length
  | none => 0

/-- The last symbol of a slot of the open job's carrier instance (R128): that of the plan it has, where it has one. -/
def jobLastSym (s : State) (r : Nat) : Nat :=
  match (getRing s r).openJob with
  | some j => (match plansOf s j.ci with | p :: _ => lastSym p.mu | [] => 13)
  | none => 13

/-- TASK (R140, R128, R142). -/
def execTask (r : Fin 256) (s : State) : Res :=
  takeCmd s r.val (· == 2) fun s w =>
    if jobIsOpen s r.val = false ∨ cwf w 4 0 3 = 7 ∨ 1024 ≤ openTasks s r.val then nopCmd s r.val 2
    else
      let last := jobLastSym s r.val
      let inF := min (cwf w 0xC 0 4) last
      let inL := max inF (min (cwf w 0xC 4 4) last)
      let outF := min (cwf w 0xC 8 4) last
      let outL := max outF (min (cwf w 0xC 12 4) last)
      let cost := min (cwf w 0x10 0 32) 1073741824
      let s1 := clampIf (clampIf s r.val 2 5 (inF != cwf w 0xC 0 4)) r.val 2 6 (inL != cwf w 0xC 4 4)
      let s2 := clampIf (clampIf s1 r.val 2 7 (outF != cwf w 0xC 8 4)) r.val 2 8 (outL != cwf w 0xC 12 4)
      let s3 := clampIf s2 r.val 2 11 (cost != cwf w 0x10 0 32)
      addToJob s3 r.val fun j => { j with tasks := j.tasks ++
        [{ kind := cwf w 4 0 3, win := cwf w 4 16 12, prog := cwf w 8 0 12, inFirst := inF, inLast := inL, outFirst := outF, outLast := outL,
           inEn := cwf w 0xC 16 1 == 1, outEn := cwf w 0xC 17 1 == 1, cost := cost,
           args := [cwf w 0x14 0 32, cwf w 0x18 0 32, cwf w 0x1C 0 32, cwf w 0x20 0 32], at_ := none }] }

/-- EDGE (R140, R128, R142, R143): held until JOB_CLOSE bounds it. Every EDGE of the job counts towards the 4,096. Log: 150 DESIGN CHOICE. -/
def execEdge (r : Fin 256) (s : State) : Res :=
  takeCmd s r.val (· == 3) fun s w =>
    if jobIsOpen s r.val = false ∨ 4096 ≤ openEdges s r.val then nopCmd s r.val 3
    else addToJob s r.val fun j => { j with rels := j.rels ++ [.edge (cwf w 4 0 10) (cwf w 4 16 10)] }

/-- AT (R140, R142, R143). -/
def execAt (r : Fin 256) (s : State) : Res :=
  takeCmd s r.val (· == 4) fun s w =>
    if jobIsOpen s r.val = false then nopCmd s r.val 4
    else addToJob s r.val fun j => { j with rels := j.rels ++ [.atTime (cwf w 4 0 10) (signedOf 32 (cwf w 8 0 32))] }

/-- JOB_CLOSE (R142, R143). -/
def execJobClose (r : Fin 256) (s : State) : Res :=
  takeCmd s r.val (· == 6) fun s w => if jobIsOpen s r.val then closeJob s r.val w else nopCmd s r.val 6

/-- PERIOD as taken (R128). -/
def everyPeriod (v : Nat) : Nat := if v < 250 then 250 else if 4000000000 < v then 4000000000 else v / 250 * 250

/-- EVERY (R161, R128): creates a periodic item; the first firing is the first CT at or after the reading at which NS equals FIRST_NS. -/
def execEvery (r : Fin 256) (s : State) : Res :=
  takeCmd s r.val (· == 5) fun s w =>
    if jobIsOpen s r.val = true ∨ 16 ≤ (getRing s r.val).items.length ∨ 2097152 ≤ liveNodes s (r.val / 64) then nopCmd s r.val 5
    else
      let p := everyPeriod (cwf w 4 0 32)
      let f := min (cwf w 0xC 0 32) 999999999
      let s1 := clampIf (clampIf s r.val 5 2 (p != cwf w 4 0 32)) r.val 5 4 (f != cwf w 0xC 0 32)
      let g := getRing s1 r.val
      setRing s1 r.val { g with items := g.items ++
        [{ period := p, count := cwf w 8 0 32, value := cwf w 0x10 0 32, tag := cwf w 0x14 0 32, irq := irqOf w, fired := 0,
           next := nextMultiple (w.term2 - f * 1000) psSec + f * 1000 }] }

/-- The tick at which an item fires (R161). -/
def itemTick (x : Item) : Int := nextMultiple x.next 250000

/-- Fire item i of a ring: its record, stamped with the firing instant (R145), or EVERY_MISS where no completion entry is free; it re-inserts itself or ends (R161).
Log: 139 DESIGN CHOICE. -/
def fireItem (s : State) (r i : Nat) (x : Item) : State :=
  let y : Item := { x with fired := x.fired + 1, next := x.next + x.period * 1000 }
  let s1 := if cqFree s r = 0 then addF s (ADM_RING_STAT_EVERY_MISS (r / 64) (r % 64)) 1
    else writeRecord s r false x.irq ⟨x.tag, 0, 0, 0x3FF, 6, x.value, 0, x.next, none, y.fired⟩
  let g := getRing s1 r
  setRing s1 r { g with items := if x.count ≠ 0 ∧ x.count ≤ y.fired then g.items.eraseIdx i else setAt g.items i y }

/-- EVERY_FIRING (R161): item i of the ring fires at the first tick at or after its firing instant. -/
def execEveryFiring (r : Fin 256) (i : Fin 16) (dt : Nat) (s : State) : Res :=
  match (getRing s r.val).items[i.val]? with
  | some x => .next (if reached s (itemTick x) then fireItem (atDt s dt) r.val i.val x else s)
  | none => .next s

/-- Fire, before they end, the items of a tag whose tick is this instant (R163). -/
def fireDue (s : State) (r tag : Nat) : Nat → State
  | 0 => s
  | n + 1 =>
    let s1 := match (getRing s r).items[n]? with
      | some x => if x.tag = tag ∧ itemTick x = now s then fireItem s r n x else s
      | none => s
    fireDue s1 r tag n

/-- CANCEL (R163): SCOPE 0 cancels the live jobs of the quadrant with CI and TAG; SCOPE 1 ends the ring's items with TAG, a firing of this instant first. A CI out of range counts a
clamp under either. Log: 140 DESIGN CHOICE. -/
def execCancel (r : Fin 256) (s : State) : Res :=
  takeCmd s r.val (· == 7) fun s w =>
    if jobIsOpen s r.val then nopCmd s r.val 7
    else
      let ci := min (cwf w 4 0 10) 511
      let tag := cwf w 8 0 32
      let s1 := clampIf s r.val 7 2 (ci != cwf w 4 0 10)
      if cwf w 4 16 1 = 0 then failJobs s1 (fun j => j.home == r.val / 64 && j.cmd.ci == ci && j.cmd.tag == tag) 0x10 0x70
      else
        let s2 := fireDue s1 r.val tag (getRing s1 r.val).items.length
        setRing s2 r.val { getRing s2 r.val with items := (getRing s2 r.val).items.filter fun x => x.tag != tag }

/-- FENCE (R125, R128): the jobs so far on the ring precede it. R271. -/
def execFence (r : Fin 256) (s : State) : Res :=
  takeCmd s r.val (· == 8) fun s w =>
    if jobIsOpen s r.val then nopCmd s r.val 8
    else
      let k := min (cwf w 4 0 2) 2
      let s1 := clampIf s r.val 8 2 (k != cwf w 4 0 2)
      let g := getRing s1 r.val
      setRing s1 r.val { g with admitSeq := g.seq, fenceSeq := if k = 0 then g.fenceSeq else g.seq }

/-- SIGNAL (R162). -/
def execSignal (r : Fin 256) (s : State) : Res :=
  takeCmd s r.val (· == 9) fun s w =>
    if jobIsOpen s r.val then nopCmd s r.val 9
    else
      let g := getRing s r.val
      let sat := if fencesMet s r.val g.admitSeq g.fenceSeq then some w.term2 else none
      setRing s r.val { g with signals := g.signals ++ [⟨cwf w 4 0 32, cwf w 8 0 32, irqOf w, w.term2, g.admitSeq, g.fenceSeq, sat⟩] }

/-- SIGNAL_RECORD (R162): the record of the oldest SIGNAL whose fences are satisfied; its stamp is the later of its reading and that instant. -/
def execSignalRecord (r : Fin 256) (dt : Nat) (s : State) : Res :=
  match takeFirst (fun x => x.met.isSome) (getRing s r.val).signals with
  | some (x, rest) =>
    let s1 := setRing (atDt s dt) r.val { getRing s r.val with signals := rest }
    .next (writeRecord s1 r.val true x.irq ⟨x.tag, 0, 0, 0x3FF, 5, x.value, 0, max x.readAt (x.met.getD x.readAt), none, 0⟩)
  | none => .next s

/-- ADM_CNT_CLR: clears every ADM_CNT_OUT of the quadrant (R99, R43). -/
def execAdmCntClr (q : Fin 4) (s : State) : Res :=
  .next (if blockLive s .adm q.val then (List.range 16).foldl (fun s c => setF s (ADM_CNT_OUT_COUNT q.val c) 0) s else s)

end Sys2Proof.Machine
end

