-- ==== Sys2Proof/Machine/Report.lean ====
section
/-!
DEFINITION. Signature blocks (spec/16_security.md R524 to R526), the flight recorder's queue (spec/15_faults.md R498, R517), operating points and
voltage targets (spec/14_power.md R473 to R477, R483).
-/

namespace Sys2Proof.Machine

/-! ## Signatures -/

/-- Owner slot i is enrolled and not revoked, and its modulus matches the fuse digest (R525). -/
def ownerOk (s : State) (i : Nat) : Bool :=
  testF s FXG_POLICY_ACTIVE i && sha512 (smGet (fun _ => []) s.fox.moduli i) == smGet (fun _ => []) s.fox.digests i

/-- Is a KEYID an owner key's (R521)? -/
def isOwnerKey (id : Nat) : Bool := decide (0x10 ≤ id ∧ id ≤ 0x17)

/-- The modulus that a KEYID names. Log: 119 DESIGN CHOICE. -/
def keyModulus (s : State) (id : Nat) : List Byte :=
  if id = 0 then Config.romKey false else if id = 1 then Config.romKey true else smGet (fun _ => []) s.fox.moduli (id - 0x10)

/-- Entry e of a signature block. -/
def sigEntry (blk : List Byte) (e : Nat) : List Byte := (blk.drop (0x10 + 0x210 * e)).take 0x210

/-- KEYID of an entry. -/
def entryKey (x : List Byte) : Nat := leNat (x.take 1)
/-- SVN of an entry. -/
def entrySvn (x : List Byte) : Nat := leNat ((x.drop 1).take 1) % 128

/-- An entry passes (R525): its KEYID is admitted, an owner's slot is good, and the signature over the covered bytes and entry bytes 0 to 15 verifies. Log: 95 PRESUMED. -/
def entryPasses (s : State) (covered : List Byte) (admits : Nat → Bool) (x : List Byte) : Bool :=
  let id := entryKey x
  admits id && (!isOwnerKey id || ownerOk s (id - 0x10)) &&
    rsaPssVerify (keyModulus s id) (covered ++ x.take 16) ((x.drop 16).take 512)

/-- The entries of a well-formed signature block; none where its header or length fails (R524). -/
def sigEntries (blk : List Byte) : Option (List (List Byte)) :=
  let n := leNat ((blk.drop 3).take 1)
  if leNat (blk.take 2) = 0x5347 ∧ leNat ((blk.drop 2).take 1) = 1 ∧ (n = 1 ∨ n = 2) ∧ 16 + 0x210 * n ≤ blk.length then
    some ((List.range n).map (sigEntry blk)) else none

/-- A block passes (R525): every entry passes, and every requirement is met by some entry's KEYID. -/
def blockPasses (s : State) (covered blk : List Byte) (admits : Nat → Bool) (required : List (Nat → Bool)) : Bool :=
  match sigEntries blk with
  | none => false
  | some es => es.all (entryPasses s covered admits) && required.all fun p => es.any fun x => p (entryKey x)

/-- Count a failed block of a kind (R526). -/
def verifyFailed (s : State) (kind : Nat) : State :=
  refresh (setF (setF (addF s FXG_VFAIL_COUNT 1) FXG_VFAIL_KIND kind) FXG_IRQ_VERIFY 1) 816

/-! ## Reports -/

/-- A fault or event is to be written into the flight recorder (R498, R517). What is reported to the level above is what R46 and R47 name. -/
def report (s : State) (e : FrEntry) : State := { s with frPend := s.frPend ++ [e] }

/-- A cluster beside its registers. -/
def getCl (s : State) (k : Nat) : ClusterHw := smGet (fun _ => ({} : ClusterHw)) s.clusters k
/-- Store it. -/
def setCl (s : State) (k : Nat) (x : ClusterHw) : State := { s with clusters := smPut (fun _ => ({} : ClusterHw)) k x s.clusters }
/-- A physical tile beside its core. -/
def getHw (s : State) (p : Nat) : TileHw := smGet (fun _ => ({} : TileHw)) s.tileHw p
/-- Store it. -/
def setHw (s : State) (p : Nat) (x : TileHw) : State := { s with tileHw := smPut (fun _ => ({} : TileHw)) p x s.tileHw }

/-- A fault removed a resource of quadrant q (R498). -/
def resourceLost (s : State) (q : Nat) : State := refresh (setF s (ADM_IRQ_RESOURCE_LOST q) 1) (qSrc q 184)

/-- Is logical tile t of cluster k attached to a debug session (R540)? -/
def debugHolds (s : State) (k t : Nat) : Bool :=
  isF s FXG_DBG_ATTACH_ATTACHED && 8 * getF s FXG_DBG_ATTACH_QUAD + getF s FXG_DBG_ATTACH_CLUSTER == k && getF s FXG_DBG_ATTACH_TILE == t

/-- Is resource res (0 to 7 logical tiles, 8 to 13 engines) of cluster k lost (R485, R498, R501, R504, R505, R540)? -/
def resLost (s : State) (k res : Nat) : Bool :=
  let c := getCl s k
  getF s (PWR_CL_STAT_STATE k) == 6 || getF s (MEM_CSM_FENCE_BANKS k) != 0 ||
    (if res < 8 then bitOf c.lostTiles res == 1 || debugHolds s k res else bitOf c.lostEng (res - 8) == 1)

/-! ## Operating points -/

/-- Does the plan use cluster k? -/
def usesCluster (p : Plan) (k : Nat) : Bool := p.windows.any fun w => w.quad == k / 8 && w.cluster == k % 8

/-- The highest OP of the installed plans that use cluster k; none where no plan does. -/
def planOp (s : State) (k : Nat) : Option Nat :=
  (s.plans.filter fun p => usesCluster p k).foldl (fun a p => match a with | some x => some (max x p.op) | none => some p.op) none

/-- The lowest DEPTH of the installed plans that use cluster k (R110); none where no plan does. -/
def planDepth (s : State) (k : Nat) : Option Nat :=
  (s.plans.filter fun p => usesCluster p k).foldl (fun a p =>
    match partOf p (k / 8) with
    | some x => (match a with | some y => some (min y (getAt 0 x.depth (k % 8))) | none => some (getAt 0 x.depth (k % 8)))
    | none => a) none

/-- The effective operating point that the requests and plans call for (R473), with the raises in progress for a plan (R477). -/
def opTarget (s : State) (k : Nat) : Nat :=
  (s.raises.filter fun x => x.cluster == k && x.forPlan).foldl (fun a x => max a x.op)
    (max (getF s (PWR_CL_CTL_OP_REQ k)) ((planOp s k).getD 0))

/-- Count a refusal of a cluster's request (R483). -/
def refuseCl (s : State) (k code : Nat) : State :=
  let s1 := setF (addF s (PWR_CL_REFUSE_COUNT k) 1) (PWR_CL_REFUSE_CODE k) code
  setF (addF s1 (PWR_Q_REFUSE_COUNT (k / 8)) 1) (PWR_Q_REFUSE_CODE (k / 8)) code

/-- The sensor of quadrant q, in steps of 0.5 °C. -/
def quadTemp (s : State) (q : Nat) : Nat :=
  match q with
  | 0 => getF s PRM_THERM_TEMP_Q0
  | 1 => getF s PRM_THERM_TEMP_Q1
  | 2 => getF s PRM_THERM_HI_TEMP_Q2
  | _ => getF s PRM_THERM_HI_TEMP_Q3

/-- Does the quadrant's sensor read at or above WARN (R492)? -/
def tooHot (s : State) (q : Nat) : Bool := decide (getF s PRM_THERM_CTL_WARN ≤ quadTemp s q)

/-- Is cluster k in SLEEP? -/
def inSleep (s : State) (k : Nat) : Bool := getF s (PWR_CL_STAT_STATE k) == 3

/-- The highest effective point among the clusters of quadrant q that are not in SLEEP, never below OP0 (R474). -/
def quadOp (s : State) (q : Nat) : Nat :=
  (List.range 8).foldl (fun a c => if inSleep s (8 * q + c) then a else max a (getF s (PWR_CL_STAT_OP (8 * q + c)))) 0

/-- The voltage of an operating point in quadrant q, mV. -/
def opMv (s : State) (q op : Nat) : Nat := getF s (PRM_AVS_MV q op)

/-- Primrose sends VOUT_COMMAND to the regulator of rail r (R470; its code is that of PMBus). -/
def voutCommand (s : State) (r mv : Nat) : State := emit s (.pmbus r 0x21 (some (Config.linear16 r mv)))

/-- Set a rail's target: a voltage change begins, with the bound of R476. -/
def setRail (s : State) (r mv : Nat) : State :=
  let old := getF s (PRM_RAIL_STAT_TARGET r)
  if old = mv then s
  else
    let d := if old ≤ mv then mv - old else old - mv
    let slew := max 500 (getF s (PRM_RAIL_CFG_SLEW r))
    let s1 := setF (setF (voutCommand s r mv) (PRM_RAIL_STAT_TARGET r) mv) (PRM_RAIL_STAT_CHANGING r) 1
    { s1 with rails := smPut (fun _ => none) r (some ⟨old, now s + (ceilDiv (d * 1000) slew + 20) * 1000000⟩) s1.rails }

/-- The voltage in millivolts that rail r is sure to have: the lower of both targets while it changes (R490). -/
def sureMv (s : State) (r : Nat) : Nat :=
  match smGet (fun _ => none) s.rails r with
  | some c => min c.old (getF s (PRM_RAIL_STAT_TARGET r))
  | none => getF s (PRM_RAIL_STAT_TARGET r)

/-- Bring VDD_Qq to the target of R474, with the points being raised; a cluster in SLEEP does not count. -/
def retarget (s : State) (q : Nat) : State :=
  let op := (s.raises.filter fun x => x.cluster / 8 == q && !inSleep s x.cluster).foldl (fun a x => max a x.op) (quadOp s q)
  let s1 := setRail s (8 + 6 * q) (opMv s q op)
  setF (setF s1 (PWR_Q_STAT_VTGT q) (opMv s q op)) (PWR_Q_STAT_VOP q) op

/-- Lower the effective points of quadrant q that no request or plan holds up: the clock first, then the voltage (R475, R477). -/
def lowerOps (s : State) (q : Nat) : State :=
  let s1 := (List.range 8).foldl (fun s c =>
    let k := 8 * q + c
    if opTarget s k < getF s (PWR_CL_STAT_OP k) then setF s (PWR_CL_STAT_OP k) (opTarget s k) else s) s
  retarget s1 q

/-- Raise the effective point of cluster k to op (R475): refused with THERMAL while the quadrant is too hot; at once where the rail already serves it, otherwise
when the rail has settled; a cluster in SLEEP has no clock to raise, and the rail waits for its wake (R474). A raise for a plan is held until the plan is decided. Answers whether it was refused. Log: 103 DEDUCED. -/
def raiseOp (s : State) (k op : Nat) (forPlan : Bool) (oldReq : Nat) : State × Bool :=
  if op ≤ getF s (PWR_CL_STAT_OP k) then (s, false)
  else if tooHot s (k / 8) then (refuseCl s k 4, true)
  else if opMv s (k / 8) op ≤ sureMv s (8 + 6 * (k / 8)) ∨ inSleep s k = true then
    (retarget { (setF s (PWR_CL_STAT_OP k) op) with raises := if forPlan then s.raises ++ [⟨k, op, true, oldReq⟩] else s.raises } (k / 8), false)
  else (retarget { s with raises := s.raises ++ [⟨k, op, forPlan, oldReq⟩] } (k / 8), false)

end Sys2Proof.Machine
end

