-- ==== Sys2Proof/Machine/Programs.lean ====
section
/-!
DEFINITION. Program versions of the tiles (spec/04_dahlia.md R164 to R166; spec/05_phimar_scalar.md R211 to R213).
-/

namespace Sys2Proof.Machine

/-- The 32-bit word at byte offset ofs of an image. -/
def imgW (img : List Byte) (ofs : Nat) : Nat := leNat ((img.drop ofs).take 4)

/-- The empty image (R165). -/
def emptyImage (img : List Byte) : Bool := img == [0, 0, 0, 0]

/-- An entry address is absent, or a multiple of 4 below CODE_LEN (R212). -/
def entryOk (v codeLen : Nat) : Bool := decide (v = 0xFFFFFFFF ∨ (v % 4 = 0 ∧ v < codeLen))

/-- Is a cost header well formed (R211, R212)? A SIG_OFS of 0 names no signature block. -/
def headerOk (img : List Byte) : Bool :=
  let len := img.length
  let codeOfs := imgW img 4
  let codeLen := imgW img 8
  decide (64 ≤ len) && imgW img 0 % 2 ^ 24 == 0x150F1 &&
  decide (codeOfs % 4 = 0 ∧ 64 ≤ codeOfs ∧ codeLen % 4 = 0 ∧ 4 ≤ codeLen ∧ codeOfs + codeLen ≤ len) &&
  decide (imgW img 0xC % 4 = 0 ∧ imgW img 0xC < codeLen) &&
  (List.range 6).all (fun i => decide (0 < imgW img (0x10 + 4 * i) ∧ imgW img (0x10 + 4 * i) ≤ 1073741824)) &&
  entryOk (imgW img 0x28) codeLen && entryOk (imgW img 0x2C) codeLen &&
  decide (imgW img 0x30 = 0 ∨ imgW img 0x30 + imgW img 0x34 ≤ len)

/-- COST(op) of an image's header (R213). -/
def headerCost (img : List Byte) (op : Nat) : Nat := imgW img (0x10 + 4 * op)

/-- Does the image's signature block pass where the owner requires one (R525)? -/
def programSigned (s : State) (img : List Byte) : Bool :=
  !testF s FXG_POLICY_POLICY 0 ||
    (imgW img 0x30 != 0 && blockPasses s (img.take (imgW img 0x30)) ((img.drop (imgW img 0x30)).take (imgW img 0x34)) isOwnerKey [isOwnerKey])

/-- Does a program image end the load as invalid, and was it its signature that failed (R164 check 1)? -/
def imageBad (s : State) (img : Option (List Byte)) : Bool × Bool :=
  match img with
  | none => (true, false)
  | some x => if emptyImage x then (false, false) else if headerOk x = false then (true, false) else (!programSigned s x, !programSigned s x)

/-- The tiles that masks select in quadrant q, as (cluster, logical tile). -/
def selectedTiles (q clusters tiles : Nat) : List (Nat × Nat) :=
  (setBits 8 0 clusters).flatMap fun c => (setBits 8 0 tiles).map fun t => (8 * q + c, t)

/-- The versions on a logical tile. -/
def versionsOn (s : State) (k t : Nat) : List ProgVer := s.progs.filter fun v => v.cluster == k && v.tile == t

/-- The version of a program in a state on a logical tile. -/
def versionIn (s : State) (k t prog : Nat) (st : VerState) : Option ProgVer :=
  s.progs.find? fun v => v.cluster == k && v.tile == t && v.prog == prog && v.state == st

/-- The lowest run of n free units from u, among the next m starts, beside the versions held. -/
def freeRun (held : List ProgVer) (n u : Nat) : Nat → Option Nat
  | 0 => none
  | m + 1 =>
    if 512 < u + n then none
    else if held.all fun v => decide (v.unit + v.units ≤ u ∨ u + n ≤ v.unit) then some u
    else freeRun held n (u + 1) m

/-- The units of an image. -/
def imageUnits (img : List Byte) : Nat := if emptyImage img then 0 else ceilDiv img.length 256

/-- The place of an image on a tile: the units of a PENDING version of the program count as free (R164 check 3). -/
def placeFor (s : State) (k t prog n : Nat) : Option Nat :=
  freeRun ((versionsOn s k t).filter fun v => !(v.prog == prog && v.state == .pending)) n 0 513

/-- Put an image into a tile's instruction memory and its versions (R164, R165). -/
def takeImage (s : State) (prog : Nat) (img : List Byte) (x : Nat × Nat) : State :=
  let (k, t) := x
  match placeFor s k t prog (imageUnits img) with
  | none => s
  | some u =>
    let old := versionIn s k t prog .active
    let pend := (versionIn s k t prog .pending).isSome
    let fresh := match old with | none => true | some v => emptyImage v.image
    let st : VerState := if pend then .pending else if fresh then .active else .pending
    let keep := s.progs.filter fun v => !(v.cluster == k && v.tile == t && v.prog == prog &&
      (v.state == .pending || (st == .active && v.state == .active)))
    let s1 := { s with
      progs := if old = none ∧ pend = false ∧ emptyImage img = true then keep else keep ++ [⟨s.progSeq, k, t, prog, st, u, imageUnits img, img, none⟩],
      progSeq := s.progSeq + 1 }
    match physOf s k t with
    | some p => wrBytes s1 (imemFlat p + 256 * u) (if emptyImage img then [] else img)
    | none => s1

/-- The address and length of the image of a PROGRAM_LOAD. -/
def progImageAt (w : CmdWord) : Nat × Nat := (cwf w 0x10 0 64 / 4 * 4, (clampNat 4 131072 (cwf w 8 0 32) + 3) / 4 * 4)

/-- PROGRAM_LOAD (R164, R128, R140, R274): the command is read and its image fetched; the copy ends at PROGRAM_LOAD_COPY_DONE. -/
def execProgramLoad (r : Fin 256) (s : State) : Res :=
  takeImageCmd s r.val (· == 12) progImageAt fun s w =>
    if jobIsOpen s r.val then nopCmd s r.val 12
    else
      let x := progImageAt w
      let s1 := clampIf s r.val 12 5 (x.2 != cwf w 8 0 32)
      let (s2, img) := fetchImage s1 r.val x.1 x.2
      { s2 with ucmds := s2.ucmds ++
        [⟨.programLoad, r.val, irqOf w, 0, 0, cwf w 0xC 0 32, cwf w 4 0 12, cwf w 4 16 8, cwf w 4 24 8, w.term2, upNs (max w.term1 w.term2), img, [], false, w.lost⟩] }

/-- The oldest undecided command of a kind on a ring, with the others. -/
def takeUcmd (s : State) (r : Nat) (k : UKind) : Option (UCmd × List UCmd) := takeFirst (fun u => u.ring == r && u.kind == k) s.ucmds

/-- Write the record of a plan or program command, or lose it (R145, R428), and show its stamp. -/
def ucmdRecord (s : State) (u : UCmd) (outcome detail source ref ci : Nat) : State :=
  let s1 := finishRecord s u.ring u.lost u.irq ⟨u.tag, outcome, detail, 0x3FF, source, ref, ci, u.stamp, none, 0⟩
  if u.lost then s1 else showStamp s1 u.ring u.stamp

/-- Decide a PROGRAM_LOAD: the checks of R164 in order, and the copy on every selected tile. -/
def decideLoad (s : State) (u : UCmd) : State :=
  let tiles := selectedTiles (u.ring / 64) u.clusters u.tiles
  let bad := imageBad s u.image
  let img := u.image.getD []
  if bad.1 then ucmdRecord (if bad.2 then verifyFailed s 2 else s) u 3 0x0A 3 u.prog 0
  else if tiles.any fun x => (versionIn s x.1 x.2 u.prog .retiring).isSome then ucmdRecord s u 4 0x14 3 u.prog 0
  else if tiles.any fun x => (placeFor s x.1 x.2 u.prog (imageUnits img)).isNone then ucmdRecord s u 4 0x14 3 u.prog 0
  else ucmdRecord (tiles.foldl (fun s x => takeImage s u.prog img x) s) u 0 0 3 u.prog 0

/-- PROGRAM_LOAD_COPY_DONE (R137, R164): the instant at which the copy completes is the decision instant. -/
def execProgramLoadCopyDone (r : Fin 256) (dt : Nat) (s : State) : Res :=
  match takeUcmd s r.val .programLoad with
  | some (u, rest) =>
    let s0 := atDt s dt
    .next (if u.stamp ≤ now s0 then decideLoad { s0 with ucmds := rest } u else s)
  | none => .next s

/-- The boundary of a quadrant slot named by a 32-bit SLOT (R62, R119). -/
def quadSlotBoundary (s : State) (q slot32 : Nat) (t : Int) : Int :=
  let mu := getF s (LKS_QSLOT_MU q)
  let ofs := getSF s (LKS_QSLOT_OFS_OFFSET q)
  slotBoundary mu ofs (resolveSlot mu ofs slot32 t)

/-- Swap one version: PENDING becomes ACTIVE, the previous ACTIVE becomes RETIRING (R166). -/
def swapVer (tiles : List (Nat × Nat)) (prog : Nat) (at_ tsw : Int) (v : ProgVer) : ProgVer :=
  if tiles.contains (v.cluster, v.tile) && v.prog == prog then
    match v.state with
    | .pending => { v with state := .active, swap := some (at_, tsw) }
    | .active => { v with state := .retiring, swap := some (at_, tsw) }
    | .retiring => v
  else v

/-- Decide a PROGRAM_SWAP at its decision instant (R137, R166). -/
def decideSwap (s : State) (u : UCmd) : State :=
  let tiles := selectedTiles (u.ring / 64) u.clusters u.tiles
  let t := u.stamp + 2000000
  if tiles.any fun x => (versionIn s x.1 x.2 u.prog .pending).isNone then ucmdRecord s u 3 0x05 4 u.slot 0
  else ucmdRecord { s with progs := s.progs.map (swapVer tiles u.prog t (quadSlotBoundary s (u.ring / 64) u.slot t)) } u 0 0 4 u.slot 0

/-- PROGRAM_SWAP (R137, R166): reads the command; once its decision instant, 2,000 ns after its stamp, has come, decides it. -/
def execProgramSwap (r : Fin 256) (dt : Nat) (s : State) : Res :=
  let read := takeCmd s r.val (· == 13) fun s w =>
    if jobIsOpen s r.val then nopCmd s r.val 13
    else { s with ucmds := s.ucmds ++
      [⟨.programSwap, r.val, irqOf w, 0, cwf w 8 0 32, cwf w 0xC 0 32, cwf w 4 0 12, cwf w 4 16 8, cwf w 4 24 8, w.term2, upNs (max w.term1 w.term2), none, [], false, w.lost⟩] }
  match takeUcmd s r.val .programSwap with
  | some (u, rest) => if reached s (u.stamp + 2000000) then .next (decideSwap { (atDt s dt) with ucmds := rest } u) else read
  | none => read

/-- Does a live node refer to the version? -/
def versionInUse (s : State) (id : Nat) : Bool := s.jobs.any fun j => j.nodes.any fun n => n.ver == some id && n.st != .ended

/-- RETIRING_VERSION_FREED (R166): T_sw has passed and no live node refers to it. -/
def execRetiringVersionFreed (k : Fin 32) (t : Fin 8) (prog : BitVec 12) (s : State) : Res :=
  match versionIn s k.val t.val prog.toNat .retiring with
  | some v =>
    .next (match v.swap with
      | some (_, tsw) => if reached s tsw = true ∧ versionInUse s v.id = false then { s with progs := s.progs.filter fun x => x.id != v.id } else s
      | none => s)
  | none => .next s

/-- The version that a job decided at tNow with slot boundary s0 would run on a logical tile (R166): none where the program is not loaded for it. -/
def versionFor (s : State) (k t prog : Nat) (tNow s0 : Int) : Option ProgVer :=
  let pick := match versionIn s k t prog .active with
    | some a =>
      (match a.swap with
        | some (at_, tsw) => if tNow < at_ ∨ s0 < tsw then versionIn s k t prog .retiring else some a
        | none => some a)
    | none => none
  pick.filter fun v => !emptyImage v.image

/-- Free 256-byte units of a logical tile (DAH_PROG_STAT). -/
def freeUnits (s : State) (k t : Nat) : Nat := 512 - (versionsOn s k t).foldl (fun a v => a + v.units) 0

end Sys2Proof.Machine
end

