-- ==== Sys2Proof/Machine/Plans.lean ====
section
/-!
DEFINITION. Plans (spec/03_slot_contract.md R104 to R111; spec/04_dahlia.md R137, R138, R147 to R150; spec/01_hierarchy.md R23 to R32;
spec/11_lanes.md R415, R416): reading an image, the checks in order, installation, replacement and drop.
-/

namespace Sys2Proof.Machine

/-! ## Lanes and ports -/

/-- Is lane l an ORL lane? -/
def laneOrl (s : State) (l : Nat) : Bool := decide (getF s (LAN_CTL_MODE l) ≤ 1)

/-- Is lane l an enabled ORL lane with SPARE set? -/
def spareCand (s : State) (l : Nat) : Bool := laneOrl s l && isF s (LAN_CTL_EN l) && isF s (LAN_CTL_SPARE l)

/-- Is lane l the spare of its quadrant: the lowest-numbered such lane (R422)? -/
def isSpare (s : State) (l : Nat) : Bool := spareCand s l && !anyBelow (fun i => spareCand s (l / 16 * 16 + i)) (l % 16)

/-- LAN_PORTS in force: those it took over as the spare; none on a spare or on a lane whose ports were taken over (R422, R423). -/
def lanePorts (s : State) (l : Nat) : Nat :=
  match (getLane s l).took with
  | some x => x.1
  | none => if (getLane s l).gave || isSpare s l then 0 else (getR s (LAN_PORTS l)).toNat

/-- LAN_RATE in force; codes 10 to 15 are 9. -/
def laneRate (s : State) (l : Nat) : Nat :=
  match (getLane s l).took with
  | some x => min 9 x.2
  | none => min 9 (getF s (LAN_RATE_RATE l))

/-- Port of slot i where the slot is valid; values above 47 are 47. -/
def slotPort (v i : Nat) : Option Nat := if bitOf v (8 * i + 7) = 1 then some (min 47 (bitsOf v (8 * i) 6)) else none

/-- The port of slot i of a lane where its slot is valid. -/
def lanePort (s : State) (l i : Nat) : Option Nat := slotPort (lanePorts s l) i

/-- Does lane l carry time-domain port p in a valid slot? -/
def carries (s : State) (l p : Nat) : Bool := laneOrl s l && anyBelow (fun i => lanePort s l i == some p) 4

/-- The first port of the gang that p belongs to, or p (R292). -/
def gangFirst (s : State) (q p : Nat) : Nat :=
  if anyBelow (fun i => laneRate s (16 * q + i) == 9 && carries s (16 * q + i) (p / 4 * 4)) 16 then p / 4 * 4 else p

/-- The ORL lane of quadrant q that carries time-domain port p: an enabled one before one that is not. -/
def portLane (s : State) (q p : Nat) : Option Nat :=
  let ls := (List.range 16).map (16 * q + ·)
  match ls.find? fun l => isF s (LAN_CTL_EN l) && carries s l p with
  | some l => some l
  | none => ls.find? fun l => carries s l p

/-- The Ethernet-role lane of quadrant q that carries frequency-domain port p. -/
def fdLane (s : State) (q p : Nat) : Option Nat :=
  ((List.range 16).map (16 * q + ·)).find? fun l => laneEth s l && testF s (LAN_FDPORTS_PORTS l) p

/-- Keep what a delay register holds, for the transforms of samples that came before it changes (R310); a second is longer than a receive area. -/
def noteDelay (s : State) (r : Nat) : State := { s with delayLog := (now s, r, getR s r) :: s.delayLog.filter fun x => decide (now s ≤ x.1 + psSec) }

/-- A delay register's value in force at instant t (R310): what it held until the first change after t. -/
def delayAt (s : State) (r : Nat) (t : Int) : Int :=
  signedOf 32 (((s.delayLog.filter fun x => x.2.1 == r && decide (t < x.1)).getLast?.map (·.2.2)).getD (getR s r)).toNat

/-- D_TX of port p on lane l (R67). -/
def dTx (s : State) (q l p : Nat) : Int := getSF s (LKS_LANE_TXD_DL_TX q (l % 16)) + getSF s (LKS_PORT_TXD_DP_TX q p)
/-- D_RX of port p on lane l (R67). -/
def dRx (s : State) (q l p : Nat) : Int := getSF s (LKS_LANE_RXD_DL_RX q (l % 16)) + getSF s (LKS_PORT_RXD_DP_RX q p)

/-- D_TX of port p on lane l as it was in force at instant t (R67, R310). -/
def dTxAt (s : State) (q l p : Nat) (t : Int) : Int := delayAt s (LKS_LANE_TXD q (l % 16)) t + delayAt s (LKS_PORT_TXD q p) t
/-- D_RX of port p on lane l as it was in force at instant t (R67, R310). -/
def dRxAt (s : State) (q l p : Nat) (t : Int) : Int := delayAt s (LKS_LANE_RXD q (l % 16)) t + delayAt s (LKS_PORT_RXD q p) t

/-- The sample period of a rate code of R291, in units of Tc. -/
def rateTc (code : Nat) : Nat :=
  match code with
  | 0 => 1024
  | 1 => 512
  | 9 => 1
  | c => 256 / 2 ^ (c - 2)

/-- The sample period of a lane's ports, in Tc. -/
def lanePeriod (s : State) (l : Nat) : Nat := rateTc (laneRate s l)

/-- A delay in whole sample periods (R70). -/
def wholePeriods (d : Int) (r : Nat) : Int := d * 768 / (390625 * (r : Int))

/-- The setting of port p's fractional-delay filter (LKS_PORT_FINE, R70): the remainder of D_TX, in ps. -/
def portFine (s : State) (q p : Nat) : Nat :=
  match portLane s q p with
  | some l =>
    let r : Int := lanePeriod s l
    ((dTx s q l p * 768 - wholePeriods (dTx s q l p) (lanePeriod s l) * (390625 * r)) / 768).toNat
  | none => 0

/-- The lane of a lane-section entry. -/
def entLane (s : State) (q : Nat) (e : LaneEnt) : Option Nat := if e.fd then fdLane s q e.port else portLane s q e.port

/-- Are D_TX and D_RX of every port of a part within the plan's bounds (R106 check 7, R111)? -/
def delaysOk (s : State) (dtx drx : Nat) (x : PlanPart) : Bool :=
  x.lanes.all fun e =>
    match entLane s x.quad e with
    | some l => decide (dTx s x.quad l e.port ≤ dtx * 1000 ∧ dRx s x.quad l e.port ≤ drx * 1000)
    | none => true

/-! ## The image (R104, R147 to R150, R415, R416) -/

/-- A value brought into its range, with the clamp's field code where it changed. -/
def clampField (lo hi v code : Nat) : Nat × List Nat := (clampNat lo hi v, if clampNat lo hi v = v then [] else [code])

/-- A window record (R149), none where a structural field is bad. -/
def readWindow (img : List Byte) (quad period o : Nat) : Option (Window × List Nat) :=
  let a := imgW img o
  let type := bitsOf a 12 4
  let (tile, c1) := if type = 0 then clampField 0 7 (bitsOf a 0 4) 13 else (0, [])
  let (slot, c2) := clampField 0 (period - 1) (bitsOf a 16 9) 3
  let op := signedOf 32 (imgW img (o + 4))
  let cl := signedOf 32 (imgW img (o + 8))
  let op' := clampInt (-8000000) 16000000 op
  let cl' := clampInt (-8000000) 16000000 cl
  if 7 ≤ type ∨ cl' ≤ op' then none
  else some (⟨quad, type, bitsOf a 8 3, tile, slot, bitsOf a 25 2, op', cl'⟩,
    c1 ++ c2 ++ (if op' = op then [] else [4]) ++ (if cl' = cl then [] else [5]))

/-- The n window records from byte o. -/
def readWindows (img : List Byte) (quad period o : Nat) : Nat → Option (List Window × List Nat)
  | 0 => some ([], [])
  | n + 1 =>
    match readWindow img quad period o, readWindows img quad period (o + 16) n with
    | some (w, c), some (ws, cs) => some (w :: ws, c ++ cs)
    | _, _ => none

/-- Does [a, a + len) lie in a CSM? -/
def inCsm (a len : Nat) : Bool := decide (a + len ≤ 2 ^ 23)

/-- The bytes of a receive area of g groups: a B10 record (R296, R298). -/
def rxAreaBytes (g : Nat) : Nat := ceilDiv (45 * g) 160 * 160 + ceilDiv (ceilDiv g 2) 64 * 64
/-- The bytes of a transmit area of g groups: a CX20 record (R299). -/
def txAreaBytes (g : Nat) : Nat := 90 * g

/-- Is an entry's every field in its range (R411, R415, R416)? -/
def entOk (s : State) (q : Nat) (e : LaneEnt) : Bool :=
  decide (e.port ≤ 47) &&
  (if e.fd then
    decide (1 ≤ e.nprb ∧ e.nprb ≤ 273 ∧ 8 ≤ e.iqw ∧ e.iqw ≤ 16 ∧ 60 * e.nprb ≤ e.rxGa ∧ 60 * e.nprb ≤ e.txGa) &&
      inCsm e.rxAddr (((e.nslot + 1) * 14 - 1) * e.rxGa + 60 * e.nprb) && inCsm e.txAddr (((e.nslot + 1) * 14 - 1) * e.txGa + 60 * e.nprb) &&
      inCsm e.cpAddr ((e.nslot + 1) * 16384) && (fdLane s q e.port).isSome
  else
    decide (e.rxGa % 128 = 0 ∧ 128 ≤ e.rxGa ∧ e.rxGa ≤ 65536 ∧ e.txGa % 128 = 0 ∧ 128 ≤ e.txGa ∧ e.txGa ≤ 65536) &&
      inCsm e.rxAddr (rxAreaBytes e.rxGa) && inCsm e.txAddr (txAreaBytes e.txGa) && (portLane s q e.port).isSome)

/-- A lane-section entry (R415); a port of a gang is taken as the gang's first (R292). -/
def readEnt (s : State) (q : Nat) (img : List Byte) (o : Nat) : LaneEnt :=
  let w := fun k => imgW img (o + k)
  let fd := bitOf (w 0) 8 == 1
  { port := if fd then bitsOf (w 0) 0 6 else gangFirst s q (bitsOf (w 0) 0 6), fd := fd, prach := bitOf (w 0) 9 == 1,
    rxAddr := bitsOf (w 4) 0 23, rxCl := bitsOf (w 4) 24 3, rxGa := bitsOf (w 8) 0 17,
    txAddr := bitsOf (w 0xC) 0 23, txCl := bitsOf (w 0xC) 24 3, txGa := bitsOf (w 0x10) 0 17,
    eaxc := bitsOf (w 0x14) 0 16, secid := bitsOf (w 0x14) 16 12, nprb := bitsOf (w 0x18) 0 9, iqw := bitsOf (w 0x18) 9 5,
    comp := bitOf (w 0x18) 14 == 1, nslot := bitsOf (w 0x18) 16 2, mbps := bitsOf (w 0x18) 20 12,
    cpAddr := bitsOf (w 0x1C) 0 23, cpCl := bitsOf (w 0x1C) 24 3 }

/-- Two entries share an EAXC in one direction on one lane; every frequency-domain entry serves both directions, PRACH entries uplink beside the others (R410, R416). -/
def shareEaxc (s : State) (q : Nat) (a b : LaneEnt) : Bool :=
  a.fd && b.fd && a.eaxc == b.eaxc && (fdLane s q a.port == fdLane s q b.port)

/-- Are the entries of a list pairwise apart? -/
def pairwiseB {α : Type} (bad : α → α → Bool) : List α → Bool
  | [] => true
  | a :: t => t.all (fun b => !bad a b) && pairwiseB bad t

/-- Do two time-domain entries name one port with different areas? -/
def areaClash (a b : LaneEnt) : Bool :=
  !a.fd && !b.fd && a.port == b.port &&
    !(a.rxAddr == b.rxAddr && a.rxCl == b.rxCl && a.rxGa == b.rxGa && a.txAddr == b.txAddr && a.txCl == b.txCl && a.txGa == b.txGa)

/-- The lane entries that the installed plans hold in quadrant q. -/
def heldEnts (s : State) (q ci : Nat) : List LaneEnt :=
  s.plans.flatMap fun p => if p.ci = ci then [] else (p.parts.filter fun x => x.quad == q).flatMap (·.lanes)

/-- A lane section (R415, R416), none where a structural field is bad. -/
def readLanes (s : State) (q ci : Nat) (img : List Byte) (o len : Nat) : Option (List LaneEnt) :=
  let n := imgW img o % 256
  if len < 8 ∨ 48 < n ∨ len < 8 + 32 * n then none
  else
    let es := (List.range n).map fun i => readEnt s q img (o + 8 + 32 * i)
    let held := s.plans.flatMap fun p => (p.parts.filter fun x => x.quad == q).flatMap (·.lanes)
    if es.all (entOk s q) && pairwiseB (shareEaxc s q) es && pairwiseB areaClash es && es.all (fun e => held.all fun h => !areaClash e h) &&
        es.all (fun e => (heldEnts s q ci).all fun h => !shareEaxc s q e h) then some es else none

/-- A part (R148) with its windows and clamps, none where a structural field is bad. -/
def readPart (s : State) (ci period content : Nat) (img : List Byte) (o : Nat) : Option (PlanPart × List Window × List Nat) :=
  if content < o + 64 then none
  else
    let a := imgW img o
    let quad := bitsOf a 0 2
    let nwin := bitsOf a 16 13
    let b := imgW img (o + 4)
    let (shares, c1) := clampField 0 272 (bitsOf b 0 9) 7
    let (host, c2) := clampField 0 24000 (bitsOf b 16 15) 9
    let ds := (List.range 8).map fun c => clampField 0 2 (bitsOf (imgW img (o + 8)) (2 * c) 2) 6
    let (r0, c3) := clampField 0 64 (bitsOf (imgW img (o + 0xC)) 0 7) 12
    let (r1, c4) := clampField 0 64 (bitsOf (imgW img (o + 0xC)) 8 7) 12
    let nets := (List.range 16).map fun d => clampField 0 60000 (leNat ((img.drop (o + 0x10 + 2 * d)).take 2)) 8
    let wo := imgW img (o + 0x30)
    let lo := imgW img (o + 0x34)
    let ll := imgW img (o + 0x38)
    if nwin = 0 ∨ content < wo + 16 * nwin ∨ content < lo + ll then none
    else match readWindows img quad period wo nwin, readLanes s quad ci img lo ll with
      | some (ws, c5), some es =>
        some (⟨quad, shares, host, ds.map (·.1), r0, r1, nets.map (·.1), es⟩, ws,
          c1 ++ c2 ++ (ds.flatMap (·.2)) ++ c3 ++ c4 ++ (nets.flatMap (·.2)) ++ c5)
      | _, _ => none

/-- The parts of an image in part order. -/
def readParts (s : State) (ci period content : Nat) (img : List Byte) : List Nat → Option (List PlanPart × List Window × List Nat)
  | [] => some ([], [], [])
  | i :: t =>
    match readPart s ci period content img (imgW img (0x10 + 4 * i)), readParts s ci period content img t with
    | some (p, w, c), some (ps, ws, cs) => some (p :: ps, w ++ ws, c ++ cs)
    | _, _ => none

/-- May these quadrants be coupled (R29)? -/
def coupledSet (qs : List Nat) : Bool :=
  match qs with
  | [a, b] => (a + 1) % 4 == b || (b + 1) % 4 == a
  | _ => qs.length == 4

/-- The grid of a plan's numerology: whether a carrier instance of µ2 has the extended prefix, and whether one of µ0 is an N3.75 carrier, no field of the plan says. Log: 25 DESIGN CHOICE. -/
def carrierGrid (ci mu : Nat) : Nat := if mu = 2 ∧ Config.otherGrid ci = true then 8 else if mu = 0 ∧ Config.otherGrid ci = true then 7 else mu

/-- A plan image as a plan of carrier instance ci, with its clamp codes; none where it breaks a structural rule (R147 to R150). ringQ is the ring's quadrant. -/
def readPlan (s : State) (ringQ ci : Nat) (img : List Byte) : Option (Plan × List Nat) :=
  let h := imgW img 0
  let npart := bitsOf h 16 8
  let content := imgW img 0x20
  let (op, c1) := clampField 0 5 (bitsOf (imgW img 4) 0 3) 0
  let (mu, c2) := clampField 0 6 (bitsOf (imgW img 4) 4 3) 1
  let (period, c3) := clampField 1 320 (bitsOf (imgW img 4) 16 16) 2
  let (dtx, c4) := clampField 0 100000 (bitsOf (imgW img 8) 0 17) 10
  let (drx, c5) := clampField 0 100000 (bitsOf (imgW img 0xC) 0 17) 11
  if bitsOf h 0 16 ≠ 1 ∨ ¬ (npart = 1 ∨ npart = 2 ∨ npart = 4) ∨ img.length < content then none
  else match readParts s ci period content img (List.range npart) with
    | none => none
    | some (parts, ws, cs) =>
      let qs := parts.map (·.quad)
      let home := if npart = 1 then ringQ else bitsOf h 24 2
      if 4096 < ws.length ∨ pairwiseB (· == ·) qs = false ∨ home ≠ ringQ ∨ qs.contains home = false ∨ (npart ≠ 1 ∧ coupledSet qs = false) then none
      else some ({ ci := ci, home := home, coupled := npart != 1, op := op, mu := carrierGrid ci mu, period := period, dtxMax := dtx, drxMax := drx, parts := parts,
                   windows := ws, seq := 0, firstSlot := 0, tFirst := 0, tEnd := none, freeAt := none, sharesAt := 0, delayViol := false },
                 c1 ++ c2 ++ c3 ++ c4 ++ c5 ++ cs)

/-- Does the plan image carry the signature that the owner requires (R525)? -/
def planSigned (s : State) (img : List Byte) : Bool :=
  let content := imgW img 0x20
  let o := ceilDiv content 64 * 64
  !testF s FXG_POLICY_POLICY 1 || blockPasses s (img.take content) (img.drop o) isOwnerKey [isOwnerKey]

/-! ## Windows in time -/

/-- The slots after which a plan's pattern repeats in time as well as in slots: its PERIOD, over whole 0.5 ms (R71, R105). -/
def planSlots (p : Plan) : Nat := if uniformTc p.mu ≠ 0 then p.period else Nat.lcm p.period (2 ^ (p.mu - 1))

/-- That time in ps. -/
def planPs (p : Plan) : Nat := if uniformTc p.mu ≠ 0 then p.period * slotLen p.mu else planSlots p / 2 ^ (p.mu - 1) * 500000000

/-- The boundaries of the slots of one such time, from FIRST_SLOT, to which a window belongs (R105). -/
def windowSlots (s : State) (p : Plan) (w : Window) : List Int :=
  let n := p.firstSlot + ((w.slot : Int) - p.firstSlot) % p.period
  (List.range (planSlots p / p.period)).map fun (i : Nat) => slotBoundary p.mu (ciOfs s p.ci) (n + (i : Int) * p.period)

/-- The length of a window in ps. -/
def winLen (w : Window) : Int := (w.clo - w.opn) * 1000

/-- Does an instance c1 + k1·T1 (k1 ≥ 0) of length l1 overlap an instance c2 + k2·T2 (0 ≤ k2 < n2, or any) of length l2? One cycle of k2 shows every
relative position. -/
def meet (t1 : Nat) (c1 l1 : Int) (t2 : Nat) (c2 l2 : Int) (n2 : Option Nat) : Bool :=
  let lo : Nat := if c1 < c2 + l2 then 0 else ((c1 - c2 - l2) / t2 + 1).toNat
  let cycle := t1 / Nat.gcd t1 t2
  let m := match n2 with | some n => min (n - lo) cycle | none => cycle
  anyBelow (fun j =>
    let x := c2 + ((lo + j : Nat) : Int) * t2 - c1
    let k1 := (x + l2 - 1) / t1
    decide (0 ≤ k1 ∧ x - l1 < k1 * t1)) m

/-- Do windows a of plan p (from its FIRST_SLOT on) and b of plan r (for its slots before the instant e, where one is given) overlap? -/
def windowsMeet (s : State) (p : Plan) (a : Window) (r : Plan) (b : Window) (e : Option Int) : Bool :=
  (windowSlots s p a).any fun x => (windowSlots s r b).any fun y =>
    let n2 := e.map fun e => if e ≤ y then 0 else ((e - 1 - y) / (planPs r : Int) + 1).toNat
    meet (planPs p) (x + a.opn * 1000) (winLen a) (planPs r) (y + b.opn * 1000) (winLen b) n2

/-- Do two windows name one resource? -/
def sameRes (a b : Window) : Bool := a.quad == b.quad && a.type == b.type && a.cluster == b.cluster && a.tile == b.tile

/-- Does a window of the plan overlap itself in another period? -/
def selfMeets (s : State) (p : Plan) (w : Window) : Bool :=
  decide ((planPs p : Int) < winLen w) ||
  !pairwiseB (fun x y => meet (planPs p) (x + w.opn * 1000) (winLen w) (planPs p) (y + w.opn * 1000) (winLen w) none) (windowSlots s p w)

/-- The earlier of a plan's end and an instant. -/
def minEnd (e : Option Int) (t : Int) : Option Int := match e with | some x => some (min x t) | none => some t

/-- Check 3 of R106 and R108 in quadrant q: windows on one resource disjoint, within the plan and against the installed plans. A reserved resource serves one plan only (R18). -/
def windowsOk (s : State) (q : Nat) (p : Plan) : Bool :=
  let ws := p.windows.filter fun w => w.quad == q
  ws.all (fun w => !selfMeets s p w) && pairwiseB (fun a b => sameRes a b && windowsMeet s p a p b none) ws &&
  s.plans.all fun r =>
    ws.all fun a => r.windows.all fun b => !(sameRes a b && windowsMeet s p a r b (if r.ci = p.ci then minEnd r.tEnd p.tFirst else r.tEnd))

/-- The engine's smallest setup cost in ns (check 4 of R106; R283's is the cost of no bytes between CSM sides, DEDUCED). Log: 36 DEDUCED. -/
def minSetup (type : Nat) : Nat := match type with | 0 => 0 | 1 => 200 | 2 => 150 | 3 => 200 | 4 => 200 | 5 => 100 | _ => 200

/-! ## Reserved resources -/

/-- The carrier instances with plans that hold resources, each once. -/
def planCis (s : State) : List Nat := (s.plans.map (·.ci)).eraseDups

/-- What the plans of carrier instance n hold of a resource: the larger of its plans (R108). -/
def heldBy (s : State) (f : Plan → Nat) (n : Nat) : Nat := ((plansOf s n).map f).foldl max 0

/-- What all carrier instances but n hold of a resource. -/
def heldByOthers (s : State) (f : Plan → Nat) (n : Nat) : Nat :=
  ((planCis s).filter fun m => m != n).foldl (fun a m => a + heldBy s f m) 0

/-- What all carrier instances hold of a resource. -/
def heldByAll (s : State) (f : Plan → Nat) : Nat := (planCis s).foldl (fun a m => a + heldBy s f m) 0

/-- Does the plan's excess over its carrier instance's present holding fit what the others leave of cap (check 5, R108)? -/
def fits (s : State) (p : Plan) (f : Plan → Nat) (cap : Nat) : Bool :=
  decide (f p ≤ heldBy s f p.ci ∨ heldByOthers s f p.ci + f p ≤ cap)

/-- A plan's DRAM shares in quadrant q. -/
def dramOf (q : Nat) (p : Plan) : Nat := match partOf p q with | some x => x.dram | none => 0
/-- A plan's host-link bandwidth in quadrant q. -/
def hostOf (q : Nat) (p : Plan) : Nat := match partOf p q with | some x => x.host | none => 0
/-- A plan's flow into destination port d of quadrant q. -/
def netOf (q d : Nat) (p : Plan) : Nat := match partOf p q with | some x => getAt 0 x.net d | none => 0
/-- A plan's ring slots out of quadrant q's stop on link i. -/
def ringOf (q i : Nat) (p : Plan) : Nat := match partOf p q with | some x => if i = 0 then x.ring0 else x.ring1 | none => 0
/-- The lane whose payload a lane shares: the group's first lane in MODE 4. -/
def groupLane (s : State) (l : Nat) : Nat := if 4 ≤ getF s (LAN_CTL_MODE l) then l / 4 * 4 else l
/-- A plan's reserved bandwidth on a lane (or group), units of 100 Mb/s (R415). -/
def laneOf (s : State) (q l : Nat) (p : Plan) : Nat :=
  match partOf p q with
  | some x => (x.lanes.filter fun e => e.fd && ((fdLane s q e.port).map (groupLane s) == some l)).foldl (fun a e => a + e.mbps) 0
  | none => 0
/-- 90 % of an Ethernet-role lane's payload, in units of 100 Mb/s (R390, R416). -/
def laneCap (s : State) (l : Nat) : Nat := match getF s (LAN_CTL_MODE l) with | 2 => 90 | 3 => 225 | _ => 900

/-- The DRAM shares that the Phlox partitions of quadrant q hold (R450). -/
def phloxShares (s : State) (q : Nat) : Nat := (List.range 4).foldl (fun a p => a + getF s (PHX_BW_SHARES (4 * q + p))) 0

/-- The host-link budget of a quadrant in MB/s (R28, R425, R426). -/
def hostBudget (s : State) : Nat := getF s CXL_BUDGET_MBPS

/-- The flow that plans may reserve into destination port d (R25): MEMC and the Phlox partitions, ports 11 and 12, also carry the partitions' shares (R450). -/
def netCap (s : State) (q d : Nat) : Nat := if d = 11 ∨ d = 12 then 60000 - 4000 * phloxShares s q else 60000

/-- Check 5 of R106 in quadrant q. Unused reserved capacity is given to nobody else (R18). -/
def resourcesOk (s : State) (q : Nat) (p : Plan) : Bool :=
  fits s p (dramOf q) (272 - phloxShares s q) && (List.range 16).all (fun d => fits s p (netOf q d) (netCap s q d)) &&
  fits s p (hostOf q) (hostBudget s) && fits s p (ringOf q 0) 64 && fits s p (ringOf q 1) 64 &&
  (List.range 16).all fun i => fits s p (laneOf s q (16 * q + i)) (laneCap s (16 * q + i))

/-! ## The checks of R106 -/

/-- Windows of the plans that hold resources in quadrant q. -/
def windowCount (s : State) (q : Nat) : Nat := s.plans.foldl (fun a p => a + (p.windows.filter fun w => w.quad == q).length) 0

/-- Carrier instances with a plan in quadrant q. -/
def quadCis (s : State) (q : Nat) : List Nat := ((s.plans.filter fun p => inQuad p q).map (·.ci)).eraseDups
/-- Coupled carrier instances that satisfy p. -/
def coupledCis (s : State) (f : Plan → Bool) : List Nat := ((s.plans.filter fun p => p.coupled && f p).map (·.ci)).eraseDups

/-- Check 2 of R106 and the limits of R32 in quadrant q: none, or the detail. The new plan's own windows count among the 65,536, its carrier instance not among the 256. Log: 136 DESIGN CHOICE. -/
def limitsBad (s : State) (q : Nat) (p : Plan) : Option Nat :=
  if ((quadCis s q).contains p.ci = false ∧ 256 ≤ (quadCis s q).length) ∨ 65536 ≤ windowCount s q + (p.windows.filter fun w => w.quad == q).length then some 0x14
  else if p.coupled = true ∧ (16 ≤ ((coupledCis s fun _ => true).filter fun n => n != p.ci).length ∨
      8 ≤ ((coupledCis s fun r => inQuad r q).filter fun n => n != p.ci).length) then some 0x13
  else none

/-- Check 6 of R106 in quadrant q: the clusters used hold the same OP in every other installed plan that uses them. -/
def opsOk (s : State) (q : Nat) (p : Plan) : Bool :=
  (List.range 8).all fun c => !usesCluster p (8 * q + c) || s.plans.all fun r => r.ci == p.ci || !usesCluster r (8 * q + c) || r.op == p.op

/-- Checks 2 to 8 of R106 for the member in quadrant q, in order: none, or the outcome and detail of the first that fails. -/
def memberRefusal (s : State) (p : Plan) (tDec : Int) (q : Nat) : Option (Nat × Nat) :=
  match limitsBad s q p with
  | some d => some (4, d)
  | none =>
    if windowsOk s q p = false then some (2, 0x23)
    else if (p.windows.filter fun w => w.quad == q).any fun w => decide (w.clo - w.opn < minSetup w.type) then some (2, 0x23)
    else if resourcesOk s q p = false then some (2, 0x23)
    else if opsOk s q p = false then some (3, 0x0B)
    else if (p.parts.filter fun x => x.quad == q).all (delaysOk s p.dtxMax p.drxMax) = false then some (3, 0x08)
    else if p.tFirst ≤ tDec then some (1, 0x24)
    else none

/-- The members of a plan, home first, then ascending (R31). -/
def members (p : Plan) : List Nat := p.home :: ((List.range 4).filter fun q => q != p.home && inQuad p q)

/-- Checks 1 to 8 of R106 on a PLAN_SET read on a ring of quadrant q, decided at tDec: the refusal's outcome, detail and whether a signature failed, or the plan
with its clamp codes; an image refused as structurally invalid has none. Log: 135 DESIGN CHOICE. -/
def checkPlan (s : State) (u : UCmd) (tDec : Int) : Except (Nat × Nat × Bool) Plan × List Nat :=
  match u.image with
  | none => (.error (3, 0x0A, false), [])
  | some img =>
    match readPlan s (u.ring / 64) u.ci img with
    | none => (.error (3, 0x0A, false), [])
    | some (p0, cs) =>
      if planSigned s img = false then (.error (3, 0x0A, true), cs)
      else if s.plans.any fun r => r.ci == u.ci && r.home != p0.home then (.error (3, 0x02, false), cs)
      else
        let n := resolveSlot p0.mu (ciOfs s u.ci) u.slot tDec
        let p := { p0 with firstSlot := n, tFirst := slotBoundary p0.mu (ciOfs s u.ci) n, seq := s.planSeq, sharesAt := nextMultiple tDec 1000000 }
        match (members p).findSome? (memberRefusal s p tDec) with
        | some (o, d) => (.error (o, d, false), cs)
        | none => (.ok p, cs)

/-- The clusters that a plan uses. -/
def planClusters (p : Plan) : List Nat := (List.range 32).filter (usesCluster p)

/-- Start the raises of operating point that a plan needs (R477): the clusters raised, and whether one was refused. -/
def planRaises (s : State) (p : Plan) : State × List Nat × Bool :=
  (planClusters p).foldl (fun x k =>
    let (s1, no) := raiseOp x.1 k p.op true (getF x.1 (PWR_CL_CTL_OP_REQ k))
    (s1, if getF x.1 (PWR_CL_STAT_OP k) < p.op then x.2.1 ++ [k] else x.2.1, x.2.2 || no)) (s, [], false)

/-- PLAN_SET (R140, R128, R274, R477): the command is read and its image fetched; where checks 1 to 8 pass, the raises it needs begin. It is decided by
PLAN_DECISION. -/
def execPlanSet (r : Fin 256) (s : State) : Res :=
  takeImageCmd s r.val (· == 10) planImageAt fun s w =>
    if jobIsOpen s r.val then nopCmd s r.val 10
    else
      let ci := min (cwf w 4 0 10) 511
      let x := planImageAt w
      let s1 := clampIf (clampIf s r.val 10 2 (ci != cwf w 4 0 10)) r.val 10 5 (x.2 != cwf w 0x10 0 32)
      let (s2, img) := fetchImage s1 r.val x.1 x.2
      let u : UCmd := ⟨.planSet, r.val, irqOf w, ci, cwf w 8 0 32, cwf w 0xC 0 32, 0, 0, 0, w.term2, upNs (max w.term1 w.term2), img, [], false, w.lost⟩
      match (checkPlan s2 u (u.stamp + 1000000000)).1 with
      | .ok p =>
        let (s3, ks, no) := planRaises s2 p
        { s3 with ucmds := s3.ucmds ++ [{ u with raised := ks, refused := no }] }
      | .error _ => { s2 with ucmds := s2.ucmds ++ [u] }

/-- The instant at which a plan that ends at tEnd frees its resources (R109): the first of its boundaries at or after the last close of a window of an earlier
slot, never before tEnd itself. -/
def freeInstant (s : State) (p : Plan) (tEnd : Int) : Int :=
  let ofs := ciOfs s p.ci
  let nEnd := firstSlotAt p.mu ofs tEnd
  let last := p.windows.foldl (fun a w =>
    let n := nEnd - 1 - (nEnd - 1 - (w.slot : Int)) % p.period
    if p.firstSlot ≤ n then max a (slotBoundary p.mu ofs n + w.clo * 1000) else a) tEnd
  slotBoundary p.mu ofs (firstSlotAt p.mu ofs last)

/-- End a plan at an instant (R108, R109): it is not in force from there, and frees its resources when its last window has closed. -/
def endPlan (s : State) (t : Int) (p : Plan) : Plan :=
  match p.tEnd with
  | some e => if e ≤ t then p else { p with tEnd := some t, freeAt := some (freeInstant s p t) }
  | none => { p with tEnd := some t, freeAt := some (freeInstant s p t) }

/-- A wake of cluster k starts (R478, R481): from GATE it is in RUN at once, from NAP or SLEEP the steps of R484 begin. Log: 104 DEDUCED. -/
def startWake (s : State) (k : Nat) : State :=
  let st := getF s (PWR_CL_STAT_STATE k)
  if st = 1 then setF s (PWR_CL_STAT_STATE k) 0
  else if st = 2 ∨ st = 3 then retarget (setCl (setF s (PWR_CL_STAT_STATE k) 5) k { getCl s k with wake := some (now s), asleep := st }) (k / 8)
  else s

/-- The final 240 ns of an entry have begun (R482). -/
def entryFinal (s : State) (k : Nat) : Bool :=
  match (getCl s k).entering with
  | some (st, t) => decide (t + (if st = 3 then 2000000 else 500000) - 240000 ≤ now s)
  | none => false

/-- A wake event for cluster k (R481 to R483): from NAP or SLEEP the wake starts; an entry before its final 240 ns is aborted and counted with the code. -/
def wakeEvent (s : State) (k code : Nat) : State :=
  if getF s (PWR_CL_STAT_STATE k) = 4 ∧ entryFinal s k = false then
    refuseCl (setCl (setF s (PWR_CL_STAT_STATE k) 0) k { getCl s k with entering := none }) k code
  else startWake s k

/-- Wake the clusters of a plan that are deeper than it allows when it is installed (R110), each counted as refused by a plan. Log: 137 DESIGN CHOICE. -/
def enforceDepth (s : State) (p : Plan) : State :=
  (planClusters p).foldl (fun s k =>
    let d := (planDepth s k).getD 2
    let st := getF s (PWR_CL_STAT_STATE k)
    let deep := if st = 4 then (match (getCl s k).entering with | some (x, _) => x - 1 | none => 0) else if st = 2 ∨ st = 3 then st - 1 else 0
    if d < deep then wakeEvent s k 7 else s) s

/-- Install an accepted plan (R107, R108). -/
def installPlan (s : State) (p : Plan) : State :=
  let olds := s.plans.map fun r => if r.ci = p.ci then endPlan s p.tFirst r else r
  let s1 := { s with plans := olds ++ [p], planSeq := s.planSeq + 1,
                     raises := s.raises.filter fun x => !(x.forPlan && usesCluster p x.cluster) }
  enforceDepth s1 p

/-- Count the clamps of a plan image (R104, R129). -/
def planClamps (s : State) (r : Nat) (cs : List Nat) : State := cs.foldl (fun s c => clamp1 s r 10 (0x80 + c)) s

/-- Give up the raises that a refused PLAN_SET began (R477). -/
def dropRaises (s : State) (u : UCmd) : State :=
  let s1 := { s with raises := s.raises.filter fun x => !(x.forPlan && u.raised.contains x.cluster) }
  u.raised.foldl (fun s k => lowerOps s (k / 8)) s1

/-- Decide a PLAN_SET at its decision instant (R106, R107): checks 1 to 8, then check 9, that every raise it needs is complete. -/
def decidePlan (s : State) (u : UCmd) : State :=
  let (x, cs) := checkPlan s u (u.stamp + 1000000000)
  let s1 := planClamps s u.ring cs
  match x with
  | .error (o, d, sig) => ucmdRecord (dropRaises (if sig then verifyFailed s1 3 else s1) u) u o d 1 u.slot u.ci
  | .ok p =>
    if u.refused = true ∨ (planClusters p).any (fun k => decide (getF s1 (PWR_CL_STAT_OP k) < p.op)) = true then
      ucmdRecord (dropRaises s1 u) u 4 0x12 1 u.slot u.ci
    else ucmdRecord (installPlan s1 p) u 0 0 1 u.slot u.ci

/-- PLAN_DECISION (R107): at the stamp plus 1 ms, the oldest PLAN_SET of the ring is decided and its record written. -/
def execPlanDecision (r : Fin 256) (dt : Nat) (s : State) : Res :=
  match takeUcmd s r.val .planSet with
  | some (u, rest) =>
    .next (if reached s (u.stamp + 1000000000) then decidePlan { (atDt s dt) with ucmds := rest } u else s)
  | none => .next s

/-- Drop the plans of carrier instance n from the boundary t on, at the decision instant d (R109): its accepted jobs of those slots are cancelled. -/
def dropPlans (s : State) (n : Nat) (t d : Int) : State :=
  let s1 := { s with plans := s.plans.map fun p => if p.ci = n then endPlan s t p else p }
  mapJobs s1 (fun j => j.cmd.ci == n && decide (t ≤ j.s0)) (failJob d ⟨d, 0x10, 0x71, 0x3FF⟩)

/-- Decide a PLAN_DROP at its decision instant (R109, R137, R138). -/
def decideDrop (s : State) (u : UCmd) : State :=
  let d := u.stamp + 2000000
  match plansOf s u.ci with
  | [] => ucmdRecord s u 3 0x01 2 u.slot u.ci
  | p :: _ =>
    if p.home ≠ u.ring / 64 then ucmdRecord s u 3 0x02 2 u.slot u.ci
    else
      let ofs := ciOfs s u.ci
      let b := slotBoundary p.mu ofs (resolveSlot p.mu ofs u.slot d)
      let t := if b ≤ d then slotBoundary p.mu ofs (firstSlotAt p.mu ofs (d + 1)) else b
      ucmdRecord (dropPlans s u.ci t d) u 0 0 2 u.slot u.ci

/-- PLAN_DROP (R109, R137, R138): reads the command; once its decision instant, 2,000 ns after its stamp, has come, decides it. -/
def execPlanDrop (r : Fin 256) (dt : Nat) (s : State) : Res :=
  let read := takeCmd s r.val (· == 11) fun s w =>
    if jobIsOpen s r.val then nopCmd s r.val 11
    else
      let ci := min (cwf w 4 0 10) 511
      let s1 := clampIf s r.val 11 2 (ci != cwf w 4 0 10)
      { s1 with ucmds := s1.ucmds ++
        [⟨.planDrop, r.val, irqOf w, ci, cwf w 8 0 32, cwf w 0xC 0 32, 0, 0, 0, w.term2, upNs (max w.term1 w.term2), none, [], false, w.lost⟩] }
  match takeUcmd s r.val .planDrop with
  | some (u, rest) => if reached s (u.stamp + 2000000) then .next (decideDrop { (atDt s dt) with ucmds := rest } u) else read
  | none => read

/-- Free the plans whose resources are due at t, and let operating points fall (R109, R477). -/
def freePlans (s : State) (n : Nat) : State :=
  let due := fun (p : Plan) => p.ci == n && (match p.freeAt with | some t => reached s t | none => false)
  if s.plans.any due then (List.range 4).foldl lowerOps { s with plans := s.plans.filter fun p => !due p } else s

/-- Is DELAY_VIOL to be raised for a plan: a port's delay in force above its bounds (R111)? -/
def planDelayBad (s : State) (p : Plan) : Bool := p.parts.any fun x => !delaysOk s p.dtxMax p.drxMax x

/-- A plan enters DELAY_VIOL (R111): the bit, and the admission interrupt of its quadrants. -/
def raiseDelayViol (s : State) : State :=
  let bad := s.plans.filter fun p => !p.delayViol && planDelayBad s p
  if bad.isEmpty then s
  else
    let s1 := { s with plans := s.plans.map fun p => if !p.delayViol && planDelayBad s p then { p with delayViol := true } else p }
    (bad.flatMap fun p => p.parts.map (·.quad)).foldl (fun s q => refresh (setF s (ADM_IRQ_DELAY_VIOL q) 1) (qSrc q 184)) s1

/-- At a slot boundary at which every delay is back within the bounds, DELAY_VIOL of a plan of carrier instance n clears (R111). -/
def clearDelayViol (s : State) (n : Nat) : State :=
  { s with plans := s.plans.map fun p => if p.ci = n ∧ p.delayViol = true ∧ planDelayBad s p = false then { p with delayViol := false } else p }

end Sys2Proof.Machine
end

