-- ==== Sys2Proof/Machine/Admission.lean ====
section
/-!
DEFINITION. The admission of a job (spec/03_slot_contract.md R105, R112 to R131; spec/04_dahlia.md R136, R151 to R153, R159, R166;
spec/08_port_processing.md R322).
-/

namespace Sys2Proof.Machine

/-! ## Symbols of a slot in CT -/

/-- The first ps at or after the start of symbol l of slot n. Log: 25 DESIGN CHOICE. -/
def symStart (mu : Nat) (ofs n : Int) (l : Nat) : Int := ctOfRadio (symStartTc mu n l) ofs
/-- The first ps at or after the end of symbol l of slot n; a symbol beyond the slot's last is taken as the last. -/
def symEnd (mu : Nat) (ofs n : Int) (l : Nat) : Int := ctOfRadio (symStartTc mu n (min l (lastSym mu) + 1)) ofs

/-! ## Structural checks (R118) -/

/-- A check's failure: detail and task index. -/
abbrev Bad := Option (Nat × Nat)

/-- The first failure of a list of tasks with their indices. -/
def firstBad (f : Nat → TaskCmd → Bad) : Nat → List TaskCmd → Bad
  | _, [] => none
  | i, t :: rest => match f i t with | some b => some b | none => firstBad f (i + 1) rest

/-- The quadrant of a task's window: that of the window, or the plan's home where the window does not exist. -/
def taskQuad (p : Plan) (t : TaskCmd) : Nat := match p.windows[t.win]? with | some w => w.quad | none => p.home

/-- The cluster (over the chip) and resource of a window. -/
def winCluster (w : Window) : Nat := 8 * w.quad + w.cluster
/-- The resource index of a window: 0 to 7 the logical tiles, 8 to 13 the engines in the order of RES.TYPE. -/
def winRes (w : Window) : Nat := if w.type = 0 then w.tile else 7 + w.type

/-- A task's window exists in the slot, has the job's CLASS, and names a resource of the task's KIND. -/
def windowCheck (p : Plan) (n : Int) (cls : Nat) (i : Nat) (t : TaskCmd) : Bad :=
  match p.windows[t.win]? with
  | none => some (4, i)
  | some w =>
    if (w.slot : Int) ≠ n % p.period then some (4, i)
    else if w.cls ≠ cls then some (0x0C, i)
    else if w.type ≠ t.kind then some (7, i)
    else none

/-- A tile task's program is loaded on its window's tile (R118, R166). -/
def programCheck (s : State) (p : Plan) (tNow s0 : Int) (i : Nat) (t : TaskCmd) : Bad :=
  match p.windows[t.win]? with
  | some w => if w.type = 0 ∧ (versionFor s (winCluster w) w.tile t.prog tNow s0).isNone then some (5, i) else none
  | none => none

/-- The window and program checks of the member in quadrant q, on its own tasks (R31, R118). -/
def taskChecks (s : State) (p : Plan) (n : Int) (cls : Nat) (tNow s0 : Int) (ts : List TaskCmd) (q : Nat) : Bad :=
  let own := fun (f : Nat → TaskCmd → Bad) i t => if taskQuad p t = q then f i t else none
  match firstBad (own (windowCheck p n cls)) 0 ts with
  | some b => some b
  | none => firstBad (own (programCheck s p tNow s0)) 0 ts

/-- The structural checks of R118 in the order it lists them, on the home quadrant's tasks; where they pass, the plan and the slot. A carrier instance with no plan in the ring's quadrant
gives NO_PLAN (R119), one with a part there of a plan whose home is another quadrant WRONG_QUADRANT. -/
def structural (s : State) (r : Nat) (j : JobCmd) (tNow : Int) : Except (Nat × Nat) (Plan × Int) :=
  match (plansOf s j.ci).filter fun p => inQuad p (r / 64) with
  | [] => .error (1, 0x3FF)
  | ps =>
    if ps.all (fun p => p.home != r / 64) then .error (2, 0x3FF)
    else match findPlan s j.slot tNow ps with
      | none => .error (3, 0x3FF)
      | some (p, n) =>
        let s0 := slotBoundary p.mu (ciOfs s j.ci) n
        if s.jobs.any fun x => x.cmd.ci == j.ci && x.s0 == s0 && x.cmd.cls == j.cls then .error (6, 0x3FF)
        else match taskChecks s p n j.cls tNow s0 j.tasks p.home with
          | some b => .error b
          | none =>
            if p.delayViol then .error (8, 0x3FF)
            else if j.tasks = [] then .error (9, 0x3FF)
            else .ok (p, n)

/-! ## Capacity checks (R118) -/

/-- Is a task a host-side transfer: a DMA task with side 3 (or 4 to 7) as source or destination (R28, R283)? -/
def hostSide (t : TaskCmd) : Bool :=
  t.kind == 6 && decide (3 ≤ bitsOf (getAt 0 t.args 2) 8 3 ∨ 3 ≤ bitsOf (getAt 0 t.args 2) 12 3)

/-- The place of a carrier instance in the order of acceptance: that of its earliest plan that holds resources (R28). -/
def planPlace (s : State) (n : Nat) : Nat := match s.plans.find? fun p => p.ci == n with | some p => p.seq | none => 0

/-- Does the budget in force cover carrier instance n in quadrant q (R28)? -/
def covered (s : State) (q n : Nat) : Bool :=
  decide (((planCis s).filter fun m => decide (planPlace s m ≤ planPlace s n)).foldl (fun a m => a + heldBy s (hostOf q) m) 0 ≤ hostBudget s)

/-- The capacity checks of R118 of the member in quadrant q; the home quadrant's also test the distance of the slot and the journal. -/
def memberCapacity (s : State) (p : Plan) (j : JobCmd) (tNow s0 : Int) (q : Nat) : Bad :=
  if q = p.home ∧ tNow + 100000000000 < s0 then some (0x15, 0x3FF)
  else
    let mine := (j.tasks.filter fun t => taskQuad p t == q).length + (if q = p.home then 1 else 0)
    if 2097152 < liveNodes s q + mine then some (0x10, 0x3FF)
    else match firstBad (fun i t => if taskQuad p t = q ∧ hostSide t = true ∧ covered s q j.ci = false then some (0x11, i) else none) 0 j.tasks with
      | some b => some b
      | none =>
        match firstBad (fun i t => match p.windows[t.win]? with
            | some w => if w.quad = q ∧ resLost s (winCluster w) (winRes w) = true then some (0x12, i) else none
            | none => none) 0 j.tasks with
        | some b => some b
        | none => if q = p.home ∧ 65536 ≤ (s.jobs.filter fun x => x.home == q).length then some (0x10, 0x3FF) else none

/-- The refusals that can follow the home quadrant's structural checks, in the order of R31 and R127, as outcome, detail and task: the home quadrant's capacity, then each other member's structural
checks and its capacity. -/
def capacity (s : State) (p : Plan) (n : Int) (j : JobCmd) (tNow s0 : Int) : Option (Nat × Nat × Nat) :=
  (members p).findSome? fun q =>
    match if q = p.home then none else taskChecks s p n j.cls tNow s0 j.tasks q with
    | some (d, t) => some (3, d, t)
    | none => (memberCapacity s p j tNow s0 q).map fun b => (4, b)

/-! ## The fit of R117 -/

/-- The effective cost of a task in ps (R112, R113). -/
def taskCost (s : State) (p : Plan) (w : Window) (t : TaskCmd) (tNow s0 : Int) : Nat :=
  if t.kind = 0 then
    cyclesPs p.op (max t.cost (match versionFor s (winCluster w) w.tile t.prog tNow s0 with | some v => headerCost v.image p.op | none => 0))
  else
    max t.cost (engineNs t.kind (fMhz p.op) (dramOf w.quad p) (hostOf w.quad p) (getAt 0 t.args 1) (getAt 0 t.args 2) (getAt 0 t.args 3)) * 1000

/-- The links of the shorter way round the ring from quadrant a to b: the number of hops, and the direction (0 towards a + 1), which the plan's slots choose
between opposite quadrants (R321). -/
def ringPath (p : Plan) (a b : Nat) : Nat × Nat :=
  match (b + 4 - a) % 4 with
  | 0 => (0, 0)
  | 1 => (1, 0)
  | 3 => (1, 1)
  | _ => if ringOf a 0 p = 0 ∧ ringOf a 1 p ≠ 0 then (2, 1) else (2, 0)

/-- The smallest number of slots reserved on the links of a path of h hops from quadrant a in a direction. -/
def pathSlots (p : Plan) (a dir : Nat) : Nat → Nat
  | 0 => 64
  | h + 1 => min (ringOf a dir p) (pathSlots p (if dir = 0 then (a + 1) % 4 else (a + 3) % 4) dir h)

/-- The latency of an edge from task t in window w to window v (R115, R117, R322). -/
def edgePs (p : Plan) (t : TaskCmd) (w v : Window) : Nat :=
  if w.quad = v.quad then (if w.cluster = v.cluster then 0 else tXc)
  else
    let (h, d) := ringPath p w.quad v.quad
    let k := pathSlots p w.quad d h
    let xfer := if t.kind = 2 then (if k = 0 then endless else ceilDiv (bitsOf (getAt 0 t.args 3) 0 24) (4 * k)) else 0
    (40 * h + xfer) * 1000

/-- What a fit works with: the job's plan, slot and boundary, its edges and AT times, fence_after, and the windows and costs of its tasks. -/
structure FitIn where
  plan : Plan
  ofs : Int
  slot : Int
  s0 : Int
  deadline : Int
  edges : List (Nat × Nat)
  ats : List (Nat × Int)
  fence : Option Int
  tasks : List (TaskCmd × Window × Nat)

/-- The larger of an instant and an optional one. -/
def maxOpt (t : Int) : Option Int → Int
  | some x => max t x
  | none => t

/-- Fit the tasks from index k on (R117), given the fin of the earlier ones and free of each window: the fins in order, or the reason and task. -/
def fitFrom (x : FitIn) (now : Option Int) (fins : List Int) (free : List (Nat × Int)) : List (TaskCmd × Window × Nat) → Except (Nat × Nat) (List Int)
  | [] => .ok fins
  | (t, w, c) :: rest =>
    let k := fins.length
    let opn := x.s0 + w.opn * 1000
    let clo := x.s0 + w.clo * 1000
    let rel := maxOpt (maxOpt opn ((x.ats.find? fun a => a.1 == k).map fun a => x.s0 + a.2 * 1000)) now + tTick
    let ready1 := (x.edges.filter fun e => e.2 == k).foldl (fun a e =>
      match x.tasks[e.1]? with
      | some (pt, pw, _) => max a (getAt 0 fins e.1 + edgePs x.plan pt pw w)
      | none => a) rel
    let ready2 := maxOpt ready1 x.fence
    let ready := if t.inEn then max ready2 (symEnd x.plan.mu x.ofs x.slot t.inLast + x.plan.drxMax * 1000 + lRx) else ready2
    let depth := match partOf x.plan w.quad with | some q => getAt 0 q.depth w.cluster | none => 0
    let start := maxOpt (maxOpt ready ((free.find? fun f => f.1 == t.win).map (·.2))) (now.map (· + lead depth)) + tDisp
    let fin := start + c
    if clo < fin then .error (0x20, k)
    else if t.outEn ∧ symStart x.plan.mu x.ofs x.slot t.outFirst - x.plan.dtxMax * 1000 - lTx < fin then .error (0x22, k)
    else fitFrom x now (fins ++ [fin]) ((t.win, fin) :: free.filter fun f => f.1 != t.win) rest

/-- fit of R117: the fins, or the reason and task of the first failure. -/
def fit (x : FitIn) (now : Option Int) : Except (Nat × Nat) (List Int) :=
  match fitFrom x now [] [] x.tasks with
  | .error e => .error e
  | .ok fins => if x.deadline < fins.foldl max (fins.headD 0) + tRec then .error (0x21, 0x3FF) else .ok fins

/-! ## The decision -/

/-- Term 3 and term 4 join terms 1 and 2: the stamp (R136). -/
def jobStamp (g : Ring) (j : JobCmd) : Int := upNs (maxOpt (max (max j.term1 j.term2) j.term4) g.lastDecision)

/-- Is carrier instance n coupled? -/
def coupledCi (s : State) (n : Nat) : Bool := match plansOf s n with | p :: _ => p.coupled | [] => false

/-- What the fit of a job works with. -/
def fitInput (s : State) (r : Nat) (j : JobCmd) (p : Plan) (n tNow : Int) : FitIn :=
  let ofs := ciOfs s j.ci
  let s0 := slotBoundary p.mu ofs n
  let fence := if j.fenceSeq = 0 then none else ((getRing s r).fins.filter fun f => decide (f.1 ≤ j.fenceSeq)).foldl (fun a f => some (maxOpt f.2 a)) none
  { plan := p, ofs := ofs, slot := n, s0 := s0, deadline := s0 + j.deadline * 1000, edges := j.edges, ats := j.ats, fence := fence,
    tasks := j.tasks.filterMap fun t => (p.windows[t.win]?).map fun w => (t, w, taskCost s p w t tNow s0) }

/-- The record of a refused job, written now (R99, R100, R145). -/
def refuseJob (s : State) (r : Nat) (j : JobCmd) (stamp : Int) (deadline : Option Int) (outcome detail task : Nat) : State :=
  finishRecord s r j.lost j.irq ⟨j.tag, outcome, detail, task, 0, j.slot, j.ci, stamp, deadline, 0⟩

/-- The clamps of COST below the header's cost (R112, R128). -/
def costClamps (s : State) (r : Nat) (p : Plan) (tNow s0 : Int) (ts : List TaskCmd) : State :=
  ts.foldl (fun s t =>
    match p.windows[t.win]? with
    | some w => (match (if t.kind = 0 then versionFor s (winCluster w) w.tile t.prog tNow s0 else none) with
      | some v => clampIf s r 2 11 (decide (t.cost < headerCost v.image p.op))
      | none => s)
    | none => s) s

/-- The task nodes of an accepted job, from task index k on (R151 to R153, R160). -/
def makeNodes (s : State) (x : FitIn) (tNow : Int) (fenced : Bool) (used : List Nat) (k : Nat) : List (TaskCmd × Window × Nat) → List Node
  | [] => []
  | (t, w, c) :: rest =>
    let id := newId used w.quad
    let opn := x.s0 + w.opn * 1000
    let at_ := (x.ats.find? fun a => a.1 == k).map fun a => x.s0 + a.2 * 1000
    let depth := match partOf x.plan w.quad with | some q => getAt 0 q.depth w.cluster | none => 0
    let before := (x.tasks.take k).any fun y => y.1.win == t.win
    let next := (List.range x.tasks.length).find? fun i => decide (k < i) && (match x.tasks[i]? with | some y => y.1.win == t.win | none => false)
    let preds := (x.edges.filter fun e => e.2 == k).length
    let counter := preds + (if before then 1 else 0) + (if t.inEn then 1 else 0) + (if fenced then 1 else 0)
    let ver := if t.kind = 0 then (versionFor s (winCluster w) w.tile t.prog tNow x.s0).map (·.id) else none
    let budget := if t.kind = 0 then max t.cost (match versionFor s (winCluster w) w.tile t.prog tNow x.s0 with | some v => headerCost v.image x.plan.op | none => 0) else 0
    { id := id, idx := k, quad := w.quad, cluster := winCluster w, res := winRes w, win := t.win, cmd := { t with at_ := at_ }, opn := opn,
      clo := x.s0 + w.clo * 1000, cost := c, budget := budget, ver := ver,
      succs := (x.edges.filter fun e => e.1 == k).map (·.2) ++ next.toList, counter := counter,
      rt := upNs (max (maxOpt opn at_) tNow), need := max tNow (opn - lead depth),
      bound := symEnd x.plan.mu x.ofs x.slot t.inLast + x.plan.drxMax * 1000 + lRx } ::
      makeNodes s x tNow fenced (id :: used) (k + 1) rest

/-- The order of a resource's nodes: by opening instant, then by task index (R159). -/
def nodeBefore (a b : Node) : Bool := decide (a.opn < b.opn ∨ (a.opn = b.opn ∧ a.idx < b.idx))

/-- The unended nodes of a resource. -/
def resNodes (s : State) (k res : Nat) : List Node :=
  s.jobs.flatMap fun j => j.nodes.filter fun n => n.cluster == k && n.res == res && n.st != .ended

/-- The position of a node in its resource's order, from 0. -/
def nodePos (ns : List Node) (n : Node) : Nat := (ns.filter fun m => nodeBefore m n).length

/-- Keep on chip, of the nodes of the resources of a new job, only the first 256 of each order; its own nodes among them are placed there (R159). Log: 35 DESIGN CHOICE. -/
def placeNodes (s : State) (new : List Nat) : State :=
  let place := fun (n : Node) =>
    if n.st = .ended then n
    else { n with onChip := decide (nodePos (resNodes s n.cluster n.res) n < 256) && (n.onChip || new.contains n.id) }
  { s with jobs := s.jobs.map fun j => { j with nodes := j.nodes.map place } }

/-- Accept a job (R97, R151, R507). -/
def acceptJob (s : State) (r : Nat) (j : JobCmd) (x : FitIn) (stamp tNow : Int) (fins : List Int) : State :=
  let home := x.plan.home
  let fenced := decide (0 < j.fenceSeq) && s.jobs.any fun y => y.ring == r && y.lost == j.lost && decide (y.cmd.seq ≤ j.fenceSeq)
  let used := (List.range 4).flatMap (usedIds s)
  let recId := newId used home
  let nodes := makeNodes s x tNow fenced (recId :: used) 0 x.tasks
  let job : Job :=
    { cmd := j, ring := r, planSeq := x.plan.seq, home := home, s0 := x.s0, slotLen := slotLen x.plan.mu, deadline := x.deadline,
      stamp := stamp, tNow := tNow, nodes := nodes, recNode := recId, recCounter := nodes.length, fenced := fenced, lost := j.lost }
  let g := getRing s r
  let fin := fins.foldl max (fins.headD 0) + tRec
  let s1 := if j.lost then s else setRing s r { g with fins := g.fins ++ [(j.seq, fin)] }
  placeNodes { s1 with jobs := s1.jobs ++ [job] } (nodes.map (·.id))

/-- Decide a closed job (R112, R117, R118, R123). A COST below the header's counts its clamp once the structural checks have passed. Log: 150 DESIGN CHOICE. -/
def decideJob (s : State) (r : Nat) (j : JobCmd) (stamp tNow : Int) : State :=
  match structural s r j tNow with
  | .error (d, t) =>
    let dl := match findPlan s j.slot tNow (if d = 1 ∨ d = 2 then [] else plansOf s j.ci) with
      | some (p, n) => some (slotBoundary p.mu (ciOfs s j.ci) n + j.deadline * 1000)
      | none => none
    refuseJob s r j stamp dl 3 d t
  | .ok (p, n) =>
    let x := fitInput s r j p n tNow
    let s1 := costClamps s r p tNow x.s0 j.tasks
    match capacity s1 p n j tNow x.s0 with
    | some (o, d, t) => refuseJob s1 r j stamp (some x.deadline) o d t
    | none =>
      match fit x none with
      | .error (d, t) => refuseJob s1 r j stamp (some x.deadline) 2 d t
      | .ok _ =>
        match fit x (some tNow) with
        | .error (d, t) => refuseJob s1 r j stamp (some x.deadline) 1 d t
        | .ok fins => acceptJob s1 r j x stamp tNow fins

/-- JOB_DECISION (R117, R136): the oldest closed job of the ring is decided at its decision instant; a refusal's record is written at once. -/
def execJobDecision (r : Fin 256) (dt : Nat) (s : State) : Res :=
  match (getRing s r.val).closed with
  | [] => .next s
  | j :: rest =>
    let g := getRing s r.val
    let stamp := jobStamp g j
    let tNow := stamp + lDec j.tasks.length (coupledCi s j.ci)
    if reached s tNow = false then .next s
    else
      let s1 := setRing (atDt s dt) r.val { g with closed := rest, lastDecision := some tNow, decided := g.decided + 1 }
      .next (touchSignals (showStamp (decideJob (raiseDelayViol s1) r.val j stamp tNow) r.val stamp) r.val)

end Sys2Proof.Machine
end

