-- ==== Sys2Proof/Machine/Dahlia.lean ====
section
/-!
DEFINITION. Dahlia between acceptance and the record (spec/04_dahlia.md R151 to R160; spec/03_slot_contract.md R97 to R103, R126; spec/01_hierarchy.md R28;
spec/12_cxl.md R425 to R427): release, fetch, notices, the end of a task, the record, and the wake request.
-/

namespace Sys2Proof.Machine

/-! ## Counters -/

/-- A node is released; with its counter at 0 it is ready (R153). -/
def releaseNode (now : Int) (n : Node) : Node :=
  if n.released then n else { n with released := true, readyAt := if n.counter = 0 then some now else none }

/-- Apply f to the job whose record node has an identifier. -/
def mapJob (s : State) (recNode : Nat) (f : Job → Job) : State := mapJobs s (fun j => j.recNode == recNode) f

/-- The unended successors of a node in its job (R158). -/
def successors (j : Job) (n : Node) : List Node := n.succs.flatMap fun i => j.nodes.filter fun x => x.idx == i && x.st != .ended

/-- The latency of the notice from a node to a successor of another cluster or quadrant (R26, R158, R322). -/
def noticePs (s : State) (j : Job) (a b : Node) : Nat :=
  match planBySeq s j.planSeq with
  | some p =>
    match p.windows[a.win]?, p.windows[b.win]? with
    | some v, some w => edgePs p a.cmd v w
    | _, _ => tXc
  | none => tXc

/-- A node ends, at TASK_END or completion (done) or otherwise (R152, R156, R158): its record node's counter falls, successors of its cluster are decremented at once,
and the others are sent a notice. A redone task that reaches TASK_END withdraws its happening, any other end of it records it (R503). -/
def endNode (s : State) (j : Job) (n : Node) (done : Bool) : State :=
  let t := now s
  let near := (successors j n).filter fun x => x.cluster == n.cluster
  let far := (successors j n).filter fun x => x.cluster != n.cluster
  let hit := fun (x : Node) =>
    if x.id = n.id then { x with st := .ended }
    else if x.st = .ended then x
    else (near.filter fun y => y.id == x.id).foldl (fun x _ => decNode t x) x
  let close := fun (x : Job) =>
    let mine := if n.redone then x.held.filter fun h => h.task == n.idx else []
    let fail := if done then x.fail else mine.foldl (fun f h => firstHappening f h) x.fail
    { x with nodes := x.nodes.map hit, recCounter := x.recCounter - 1, completed := if done then x.completed + 1 else x.completed, endAt := t,
             held := x.held.filter fun h => !mine.contains h, fail := fail }
  let s1 := mapJob s j.recNode close
  { s1 with notices := s1.notices ++ far.map fun x => ⟨x.id, t + noticePs s j n x, n.id⟩ }

/-- A task node fails its job at an instant; the node is ended afterwards (R101, R102, R152). -/
def failNode (s : State) (j : Job) (n : Node) (outcome detail : Nat) : State :=
  let s1 := mapJob s j.recNode (failJob (now s) ⟨now s, outcome, detail, n.idx⟩)
  match findNode s1 n.id with
  | some (j1, n1) => endNode s1 j1 n1 false
  | none => s1

/-! ## Release, fetch and notices -/

/-- NODE_RELEASE (R153): at the first tick at or after rt a node on chip is released. -/
def execNodeRelease (node : BitVec 23) (s : State) : Res :=
  match findNode s node.toNat with
  | some (_, n) =>
    let t := nextMultiple n.rt 250000
    .next (if n.onChip = true ∧ reached s t = true then mapNode s n.id (releaseNode (max t n.rt)) else s)
  | none => .next s

/-- The flat granule of a node's place in the reserved area (R151, R247). Log: 35 DESIGN CHOICE. -/
def nodeGranule (id : Nat) : Nat := (dramFlat (id / 2 ^ 21) + 0x5FC000000 + 32 * (id % 2 ^ 21)) / 32

/-- NODE_FETCH (R159, R257): a node of the reserved area that has risen into the first 256 of its resource's order is fetched; one whose rt has passed is released at
once, and one whose granule reads poisoned fails its job. Log: 35 DESIGN CHOICE. -/
def execNodeFetch (node : BitVec 23) (s : State) : Res :=
  match findNode s node.toNat with
  | some (j, n) =>
    if n.onChip = true ∨ 256 ≤ nodePos (resNodes s n.cluster n.res) n then .next s
    else if granBad s (nodeGranule n.id) then
      .next (mapJob (settle s (nodeGranule n.id)) j.recNode (failJob (now s) ⟨now s, 0x20, 0x42, n.idx⟩))
    else
      let s1 := mapNode (settle s (nodeGranule n.id)) n.id fun x => { x with onChip := true }
      .next (if n.rt ≤ now s then mapNode s1 n.id (releaseNode (now s)) else s1)
  | none => .next s

/-- Deliver the oldest notice to a node (R158); a transfer of the node that ended over the coupling ring arrives before it (R268). -/
def deliverNotice (s : State) (node : Nat) : State :=
  match takeFirst (fun x => x.node == node && !(s.xfers.any fun y => y.src == x.src)) s.notices with
  | some (_, rest) => mapNode { s with notices := rest } node (decNode (now s))
  | none => s

/-- DEPENDENCE_NOTICE (R26, R158): a completion notice arrives at a successor, which falls by one. -/
def execDependenceNotice (node : BitVec 23) (dt : Nat) (s : State) : Res := .next (deliverNotice (atDt s dt) node.toNat)

/-! ## The record -/

/-- The content of a job's record (R99, R102, R145). -/
def jobRec (j : Job) : Rec :=
  let h := j.fail.getD ⟨0, 0, 0, 0x3FF⟩
  ⟨j.cmd.tag, h.outcome, h.detail, h.task, 0, j.cmd.slot, j.cmd.ci, j.stamp, some j.deadline, j.completed⟩

/-- The record of a job that has ended falls due (R97, R158, R507); that of a job which a function reset has cut off is lost, and the job let go (R428). By R269 the job's writes are performed
before its record. -/
def endJob (s : State) (j : Job) : State :=
  if j.lost then letGo (loseRecord s) j else queueRec s true { ring := j.ring, irq := j.cmd.irq, rec_ := jobRec j, job := some j.recNode }

/-- Are writes of the job, by its record node, still under way on a task channel (R269)? -/
def writesLate (s : State) (recNode : Nat) : Bool := s.dma.any fun x => x.2.late.any fun y => y.rec_ == recNode

/-- RECORD_WRITE (R97 to R99, R158, R269): the record of a job all of whose tasks have ended falls due. A transfer of the job that is still on the coupling ring holds it (R268), and so does
a write of it that the host has not answered. -/
def execRecordWrite (node : BitVec 23) (dt : Nat) (s : State) : Res :=
  match s.jobs.find? fun j => j.recNode == node.toNat with
  | some j =>
    let s0 := atDt s dt
    if j.recCounter ≠ 0 ∨ (s.xfers.any fun y => y.rec_ == j.recNode) = true ∨ writesLate s j.recNode = true ∨ (s.recs.any fun x => x.job == some j.recNode) = true then .next s
    else .next (endJob s0 j)
  | none => .next s

/-! ## Wake requests (R160) -/

/-- The unended task nodes of cluster k. -/
def clusterNodes (s : State) (k : Nat) : List Node := s.jobs.flatMap fun j => j.nodes.filter fun n => n.cluster == k && n.st != .ended

/-- The next-need instant of cluster k (R160): the earliest need of its unended nodes. -/
def nextNeed (s : State) (k : Nat) : Option Int :=
  (clusterNodes s k).foldl (fun a n => match a with | some t => some (min t n.need) | none => some n.need) none

/-- May the level of cluster k's wake request fall: RUN, and no next-need instant to come within 8 ns, the entry time of GATE (R160, R478)? -/
def needOver (s : State) (k : Nat) : Bool :=
  getF s (PWR_CL_STAT_STATE k) == 0 && !((clusterNodes s k).any fun n => decide (now s < n.need ∧ n.need ≤ now s + 8000))

/-- Is Dahlia's wake request of cluster k raised? -/
def needLevel (s : State) (k : Nat) : Bool := (getCl s k).need && !needOver s k

/-- WAKE_REQUEST (R160, R481): at the next-need instant of a node Dahlia raises the cluster's wake request as a level, counted in DAH_CNT_WAKE. -/
def execWakeRequest (k : Fin 32) (s : State) : Res :=
  let due := fun (n : Node) => n.cluster == k.val && n.st == .waiting && !n.woken && reached s n.need
  let s1 := setCl s k.val { getCl s k.val with need := needLevel s k.val }
  if s.jobs.any fun j => j.nodes.any due then
    let s2 := { s1 with jobs := s1.jobs.map fun j => { j with nodes := j.nodes.map fun n => if due n then { n with woken := true } else n } }
    if (getCl s2 k.val).need then .next s2
    else .next (wakeEvent (setCl (addF s2 (DAH_CNT_WAKE_WAKES k.val) 1) k.val { getCl s2 k.val with need := true }) k.val 1)
  else .next s1

/-! ## The host link's rate (R28, R425, R426) -/

/-- The budget of R425 for a rate code and a width code. -/
def budgetOf (rate width : Nat) : Nat :=
  let full := match rate with | 6 => 24000 | 5 => 12000 | 4 => 6000 | 3 => 3000 | _ => 0
  match width with | 3 => full | 2 => full / 2 | 1 => full / 4 | _ => 0

/-- Bring CXL_BUDGET to the trained link and CXL.cache's availability (R425, R426). -/
def setBudget (s : State) : State :=
  setF s CXL_BUDGET_MBPS (if cacheOk s then budgetOf (getF s CXL_LINK_STAT_RATE) (getF s CXL_LINK_STAT_WIDTH) else 0)

/-- The flit mode at a rate (R425): with a partner of 256-byte flits, in the latency-optimised form or not. -/
def flitOf (rate : Nat) (wide lat : Bool) : Nat :=
  if rate = 6 ∨ (rate = 5 ∧ wide = true) then (if lat then 3 else 2) else if 3 ≤ rate then 1 else 0

/-- HOST_LINK_RETRAIN (R28, R425): the link trains to a rate and width (0 down, as it is held while PERST_N is low, R494, and behind a CXL switch, R424); the budget, and with it which plans are covered, follow. A change of
either raises source 800 (R439). -/
def execHostLinkRetrain (rate : Fin 7) (width : BitVec 2) (wide lat behindSwitch : Bool) (s : State) : Res :=
  let r := if width = 0 ∨ s.perst = true ∨ behindSwitch = true then 0 else rate.val
  let w := if r = 0 then 0 else width.toNat
  let s0 := if getF s CXL_LINK_STAT_RATE = r ∧ getF s CXL_LINK_STAT_WIDTH = w then s else intPulse s 800
  let s1 := setF (setF { s0 with boot := { s0.boot with link := s0.boot.link || r != 0 } } CXL_LINK_STAT_RATE r) CXL_LINK_STAT_WIDTH w
  .next (setBudget (setF (setF s1 CXL_LINK_STAT_FLIT (flitOf r wide lat)) CXL_LINK_STAT_CXL (ofBool (decide (3 ≤ r)))))

end Sys2Proof.Machine
end

