-- ==== Sys2Proof/Machine/RegView.lean ====
section
/-!
DEFINITION. What a read of a BAR0 register returns (spec/00_scope.md R10, R11; spec/01_hierarchy.md R42 to R44; the register tables of the chapters): the stored
value, or, for a field that shows other state, a view of that state.
-/

namespace Sys2Proof.Machine

/-- The head entry of the event FIFO, in stamp order (R96). -/
def evtHead (s : State) : Option EvtEntry := s.evtFifo.head?

/-- LKS_SLEW_REMAIN: the remaining phase in ps (R567). -/
def remainPs (s : State) : Int := roundDiv (s.lks.remain * 1000) (2 ^ 40)

/-- LKS_DOMAIN_DIFF: the estimate of B minus that of A, 0 unless both servos are locked (R77). -/
def domainDiff (s : State) : Int := if servoLocked s 0 && servoLocked s 1 then roundDiv ((servoEst s s.lks.servoB - servoEst s s.lks.servoA) * 1000) (2 ^ 40) else 0

/-- ADM_PLAN_STAT of carrier instance n in quadrant q. -/
def planStat (s : State) (q n : Nat) : Nat :=
  let ps := (plansOf s n).filter fun p => inQuad p q
  let inF := fun (p : Plan) => decide (p.tFirst ≤ now s) && (match p.tEnd with | some e => decide (now s < e) | none => true)
  ofBool (!ps.isEmpty) + 2 * ofBool (ps.any fun p => p.coupled && p.home == q) + 4 * ofBool (ps.any fun p => decide (now s < p.tFirst)) +
    8 * ofBool (ps.any fun p => p.delayViol) + 16 * (match ps.find? inF with | some p => p.op | none => 0)

/-- Is node n the one that runs on resource res of cluster k? -/
def runsOn (k res : Nat) (n : Node) : Bool := n.cluster == k && n.res == res && n.st == .running

/-- Does resource res of cluster k run a task? -/
def resBusy (s : State) (k res : Nat) : Bool := s.jobs.any fun j => j.nodes.any (runsOn k res)

/-- The mask of the busy resources of cluster k (DAH_BUSY). -/
def busyMask (s : State) (k : Nat) : Nat := (List.range 14).foldl (fun a r => a + 2 ^ r * ofBool (resBusy s k r)) 0

/-- Unended task nodes of a resource held on chip (DAH_RES). -/
def resDepth (s : State) (k res : Nat) : Nat := ((resNodes s k res).filter (·.onChip)).length

/-- Does DAH_PROG_STAT show a version in a state (R165)? An ACTIVE version of no code is none. -/
def progShown (s : State) (k t prog : Nat) (st : VerState) : Bool :=
  match versionIn s k t prog st with
  | some v => st != .active || !emptyImage v.image
  | none => false

/-- The logical tile that physical tile p serves; 15 where it serves none (R15, R16). -/
def logicalOf (s : State) (p : Nat) : Nat :=
  match (List.range 8).find? fun t => physOf s (p / 9) t == some p with
  | some t => t
  | none => 15

/-- Is physical tile p retired (PRM_TILES)? -/
def tileRetired (s : State) (p : Nat) : Bool := testF s (PRM_TILES_RETIRED (p / 72) (p % 72 / 9)) (p % 9) || (getHw s p).stopped

/-- TIL_STATUS of physical tile p (R499, R503). -/
def tilStatus (s : State) (p : Nat) : Nat :=
  let t := getTile s p
  let st := if tileRetired s p then 4
    else if (getCl s (p / 9)).spare = some (p % 9) ∧ logicalOf s p = 15 then 5
    else if ¬ t.running then 0
    else if t.wait.isSome then 3
    else if t.handler ≠ .none then 2 else 1
  st + 16 * logicalOf s p + 256 * (if t.running then min t.loops.length 3 else 0)

/-- The value of a source's INT_SRC_STAT (R440 to R443). -/
def srcStat (s : State) (n : Nat) : Nat :=
  let i := getInt s n
  let lv := isLevel n
  ofBool (lv && i.asserted) + 2 * ofBool (!lv && i.pend) + 4 * ofBool i.stuck + 8 * ofBool lv + 16 * ofBool (intDue s n) + 2 ^ 16 * i.coalesced

/-- A 32-bit word of flags over the sources 32w to 32w + 31. -/
def srcMask (f : Nat → Bool) (w : Nat) : Nat := (List.range 32).foldl (fun a j => a + 2 ^ j * ofBool (f (32 * w + j))) 0

/-- Results held by check-value unit u of cluster k. -/
def cvuFifo (s : State) (k u : Nat) : List CvuResult := smGet (fun _ => []) s.cvu (4 * k + u)

/-- What resources of a cap are left. -/
def leftOf (s : State) (f : Plan → Nat) (cap : Nat) : Nat := cap - heldByAll s f

/-- Word i of the flight recorder's selected entry (R518). -/
def frWord (s : State) (i : Nat) : Nat := rdLe s (nvsFlat + 0x0100000 + 64 * getF s PRM_FR_SEL_INDEX + 4 * i) 4

/-- The next 4 bytes of the message at the head of a lane's receive queue, from its read position. -/
def mqWord (h : LaneHw) : Nat := leNat (((h.mqRx.headD []).drop h.mqPos).take 4)

/-- The taps in force for a value of LAN_EQ (R417). -/
def eqTaps (v : Nat) : Nat :=
  let pre := min 16 (bitsOf v 0 5)
  let main := clampNat 32 64 (bitsOf v 8 7)
  let post := min 25 (bitsOf v 16 5)
  let sum := pre + main + post
  let t := fun (x : Nat) => if 64 < sum then x * 64 / sum else x
  t pre + 2 ^ 8 * t main + 2 ^ 16 * t post

/-- round(65,535 × (1 − cos(πk / 63)) / 2) for k = 0 to 31; the rest follow by a(63 − k) = 65,535 − a(k) (R329). -/
def raisedCosine : List Nat :=
  [0, 41, 163, 366, 650, 1013, 1456, 1976, 2573, 3245, 3990, 4807, 5694, 6647, 7666, 8747] ++
  [9888, 11086, 12337, 13640, 14990, 16384, 17819, 19291, 20796, 22331, 23893, 25476, 27077, 28693, 30319, 31951]

/-- The table that the device fills for a SHAPE of 0 or 1 (R329). -/
def rampFill (shape k : Nat) : Nat :=
  if shape = 0 then (2 * 65535 * k + 63) / 126 else if k < 32 then getAt 0 raisedCosine k else 65535 - getAt 0 raisedCosine (63 - k)

/-- The lanes of quadrant q whose transmit PLL is locked (R472): those whose transmitter has left electrical idle (R419, R420, R458). Log: 79 DEDUCED. -/
def lockedPlls (s : State) (q : Nat) : Nat :=
  (((List.range 16).map (16 * q + ·)).filter fun l =>
    getF s (LAN_STAT_STATE l) != 0 && (match lanePhx s l with | some p => isF s (PHX_CTL_IO_EN p) | none => true)).length

/-- The value of the register found, given the stored value v. Log: 12 DESIGN CHOICE. -/
def viewOf (s : State) (h : RegHit) (v : Nat) : Nat :=
  let u := h.unit
  match h.spec.name, h.ix with
  | .LKS_STATUS, _ => putBits v 5 1 (ofBool (s.lks.remain != 0))
  | .LKS_ADDEND, _ => s.lks.addend
  | .LKS_SLEW_REMAIN, _ => unsignedOf 64 (remainPs s)
  | .LKS_DOMAIN_DIFF, _ => unsignedOf 64 (domainDiff s)
  | .EVT_FIFO_STAT, _ => putBits v 0 9 s.evtFifo.length
  | .EVT_FIFO_SEC, _ => (match evtHead s with | some e => secOf e.stamp | none => 0)
  | .EVT_FIFO_NS, _ => (match evtHead s with | some e => nsOf e.stamp | none => 0)
  | .EVT_FIFO_INFO, _ => (match evtHead s with
    | some e => fracOf e.stamp + 2 ^ 16 * e.source + 2 ^ 21 * ofBool e.rising + 2 ^ 22 * ofBool e.coalesced + 2 ^ 31
    | none => 0)
  | .ADM_STATUS, _ => (quadCis s u).length + 2 ^ 9 * (coupledCis s fun p => inQuad p u).length + 2 ^ 16 * ofBool (s.plans.any fun p => p.delayViol && inQuad p u)
  | .ADM_LIVE_NODES, _ => liveNodes s u
  | .ADM_FREE_DRAM, _ => leftOf s (dramOf u) (272 - phloxShares s u)
  | .ADM_FREE_HOST, _ => leftOf s (hostOf u) (hostBudget s)
  | .ADM_FREE_NET, [d] => leftOf s (netOf u d) (netCap s u d)
  | .ADM_PLAN_STAT, [n] => planStat s u n
  | .ADM_RING_IDX, [i] => (getRing s (64 * u + i)).cmdHead + 2 ^ 16 * (getRing s (64 * u + i)).cqTail
  | .ADM_RING_STAT, [i] =>
    let r := 64 * u + i
    (if ringEn s r || ringDraining s r then cqFree s r else 0) + 2 ^ 17 * ofBool (ringHeld s r) + 2 ^ 18 * ofBool (jobIsOpen s r) + 2 ^ 19 * (getRing s r).items.length +
      2 ^ 24 * bitsOf v 24 8
  | .DAH_STATUS, _ => ((clusterNodes s u).filter (·.onChip)).length
  | .DAH_SPILLED, _ => ((clusterNodes s u).filter fun n => !n.onChip).length
  | .DAH_NEXT_NEED_SEC, _ => (match nextNeed s u with | some t => secOf t % 2 ^ 32 | none => 0xFFFFFFFF)
  | .DAH_NEXT_NEED_NS, _ => (match nextNeed s u with | some t => nsOf t | none => 0)
  | .DAH_PROG_STAT, _ =>
    let g := getF s (DAH_PROG_SEL_PROG u)
    let t := getF s (DAH_PROG_SEL_TILE u)
    ofBool (progShown s u t g .active) + 2 * ofBool (progShown s u t g .pending) + 4 * ofBool (progShown s u t g .retiring) + 2 ^ 16 * freeUnits s u t
  | .DAH_RES, [i] => bitsOf v 0 23 + 2 ^ 23 * resDepth s u i
  | .DAH_BUSY, _ => busyMask s u
  | .TIL_STATUS, _ => tilStatus s u
  | .TIL_PC, _ => (getTile s u).pc % 2 ^ 17 + 2 ^ 20 * (getTile s u).prog
  | .PWR_Q_STAT, _ => putBits v 16 7 (lockedPlls s u)
  | .MEM_SF, _ => (s.sf.filter fun x => x.1 / 2 ^ 32 == u).length
  | .MEM_CSM_PATROL, _ => putBits v 1 1 (ofBool (!spareIdle s u))
  | .CVU_RESULT, [i] => (match cvuFifo s u i with | x :: _ => x.value | [] => 0)
  | .CVU_RESULT_INFO, [i] => (match cvuFifo s u i with | x :: t => x.seq % 2 ^ 16 + 2 ^ 16 * (t.length + 1) + 2 ^ 31 | [] => 0)
  | .BME_RING_STAT, [i] => putBits v 8 7 (leftOf s (ringOf u i) 64)
  | .INT_ACTIVE, [w] => srcMask (fun n => if isLevel n then (getInt s n).asserted else (getInt s n).pend) w
  | .INT_STUCK, [w] => srcMask (fun n => (getInt s n).stuck) w
  | .INT_SRC_STAT, [n] => srcStat s n
  | .LKS_PORT_FINE, [p] => portFine s u p
  | .LAN_MQ_RX, _ => mqWord (getLane s u)
  | .LAN_MQ_RXSTAT, _ => (match (getLane s u).mqRx with | m :: t => m.length % 2 ^ 14 + 2 ^ 16 * (t.length + 1) + 2 ^ 31 | [] => 0)
  | .LAN_EQ_EFF, _ => eqTaps (getR s (LAN_EQ u)).toNat
  | .TDD_RAMP_TAB, [k, i] => if 2 ≤ getF s (TDD_RAMP_CFG_SHAPE k) then v else rampFill (getF s (TDD_RAMP_CFG_SHAPE k)) (2 * i) + 2 ^ 16 * rampFill (getF s (TDD_RAMP_CFG_SHAPE k)) (2 * i + 1)
  | .PRM_JOURNAL, [q] => (s.jobs.filter fun j => j.home == q).length + (getQuad s q).records.length
  | .PRM_FR_DATA, [i] => frWord s i
  | _, _ => v

/-- The stored value of the register found, both words. -/
def storedOf (s : State) (h : RegHit) (a : Nat) : Nat := if h.spec.words = 2 then getR64 s (a - 4 * h.word) else (getR s a).toNat

/-- Does PHX register h exist in its partition: PX0 and PX1 have no lanes, shares or DRAM window (R452)? -/
def regExists (h : RegHit) : Bool :=
  match h.spec.name with
  | .PHX_LANES | .PHX_BW | .PHX_DWIN_BASE | .PHX_DWIN_LIMIT => decide (h.unit < 16)
  | _ => true

/-- The 32-bit word that a read at BAR0 offset a (a multiple of 4) returns: 0 in a reserved range (R42) and where R43 or R44 applies. Log: 12 DESIGN CHOICE. -/
def regRead (s : State) (a : Nat) : Nat :=
  match regAt a with
  | none => 0
  | some h =>
    if blockLive s h.block h.unit && regExists h then bitsOf (viewOf s h (storedOf s h a)) (32 * h.word) 32 else 0

end Sys2Proof.Machine
end

