-- ==== Sys2Proof/Machine/Retire.lean ====
section
/-!
DEFINITION. The end of a task on a tile and the retirement of a tile (spec/05_phimar_scalar.md R207, R209, R210 and "Tile registers"; spec/15_faults.md
R497 to R501).
-/

namespace Sys2Proof.Machine

/-- Set the physical tile that PWR_CL_TILEMAP shows behind logical tile t of cluster k; 15 for none. -/
def setTilemap (s : State) (k t v : Nat) : State :=
  let a := PWR_CL_TILEMAP k
  setR s a (BitVec.ofNat 32 (putBits (getR s a).toNat (4 * t) 4 v))

/-- The entry of the flight recorder for a fault of tile p. -/
def tileEntry (s : State) (p cls : Nat) : FrEntry :=
  { at_ := now s, source := tileSrc p, level := 0, cls := cls, action := 2, quad := p / 72, cluster := p % 72 / 9, tile := p % 9,
    context := [(getR s (TIL_FAULT p)).toNat, (getR s (TIL_FAULT_PC p)).toNat, (getR s (TIL_FAULT_ADDR p)).toNat] }

/-- Add the job concerned to an entry of the recorder (R518). -/
def withJob (e : FrEntry) (j : Job) (outcome detail : Nat) : FrEntry :=
  { e with ci := j.cmd.ci, tag := j.cmd.tag, outcome := outcome, detail := detail }

/-- Does another physical tile of p's cluster wait for the spare (R499)? -/
def spareAwaited (s : State) (p : Nat) : Bool := anyBelow (fun t => 9 * (p / 9) + t != p && (getHw s (9 * (p / 9) + t)).stopped && (getHw s (9 * (p / 9) + t)).spareFor.isSome) 9

/-- Take physical tile p out of its cluster's spares: the next retired-and-sound tile becomes the spare (R502). -/
def dropSpare (s : State) (p : Nat) : State :=
  let c := getCl s (p / 9)
  if c.spare = some (p % 9) then setCl s (p / 9) { c with spare := c.sound.head?, sound := c.sound.drop 1, spareTakes := none }
  else setCl s (p / 9) { c with sound := c.sound.filter (· != p % 9) }

/-- No tile of p's cluster but p waits any longer for a spare to serve logical tile t. -/
def forgetWaiting (s : State) (p t : Nat) : State :=
  (List.range 9).foldl (fun s j =>
    let x := 9 * (p / 9) + j
    if x ≠ p ∧ (getHw s x).spareFor = some t then setHw s x { getHw s x with spareFor := none } else s) s

/-- Logical tile t of cluster k is lost (R498, R501). -/
def loseTile (s : State) (k t : Nat) : State :=
  resourceLost (setCl s k { getCl s k with lostTiles := (getCl s k).lostTiles ||| 2 ^ t }) (k / 8)

/-- Physical tile p stops for good after a fault of CLASS 0x01 or 0x02 (R499): it runs no further task and no physical tile serves its logical tile until the
takeover; in a cluster whose spare is in use, or waited for by another tile, the logical tile is lost (R501). Log: 111 DEDUCED. -/
def stopTile (s : State) (p : Nat) : State :=
  let k := p / 9
  let t := logicalOf s p
  let s1 := forgetWaiting (dropSpare s p) p t
  let s2 := setBitF (setHw s1 p { getHw s1 p with stopped := true, wantRetire := true, spareFor := if t < 8 then some t else none })
    (PRM_TILES_RETIRED (p / 72) (p % 72 / 9)) (p % 9)
  if t < 8 then
    (let s3 := setTilemap s2 k t 15
     if (getCl s3 k).spare.isSome && !(spareAwaited s3 p) then s3 else loseTile s3 k t)
  else s2

/-- Record a task-ending fault of tile p in TIL_FAULT (R207). -/
def setTilFault (s : State) (p cause pc ebad : Nat) (double : Bool) (task : Nat) : State :=
  let s1 := setF (setF (setF (setF s (TIL_FAULT_CAUSE p) cause) (TIL_FAULT_DOUBLE p) (ofBool double)) (TIL_FAULT_TASK p) task) (TIL_FAULT_VALID p) 1
  refresh (setF (setF s1 (TIL_FAULT_PC_PC p) pc) (TIL_FAULT_ADDR_ADDR p) ebad) (tileSrc p)

/-- The running node of a tile and its job. -/
def tileNode (s : State) (p : Nat) : Option (Job × Node) := findNode s (getTile s p).node

/-- Cycles pass on the clock of cluster k, of which nothing tells the number: the CSM cycle moves on (R20). Log: 18 DESIGN CHOICE. -/
def passCsm (s : State) (k : Nat) : State :=
  let (n, s1) := takeFree s
  setCl s1 k { getCl s1 k with csmT := ((getCl s1 k).csmT + Config.csmElapsed n) % 16 }

/-- Fail the job of the task of tile p at this instant, without ending the task (R101). -/
def failTileJob (s : State) (p outcome detail : Nat) : State :=
  match tileNode s p with
  | some (j, n) => mapJob s j.recNode (failJob (now s) ⟨now s, outcome, detail, n.idx⟩)
  | none => s

/-- The core at rest after a task: what is in flight is discarded (R209). -/
def restTile (t : Tile) : Tile :=
  { t with running := false, first := true, branch := none, savedBranch := none, savedRep := none, loops := [], rep := none, handler := .none, stage := [], fault := none,
           wait := none, ending := none, flights := [], held := [], since := [none, none, none], tmrArmed := false, vxPc := none, afterReti := false }

/-- The task of tile p ends: TIL_USED and TIL_CNT_TASK, the core comes to rest after the cycles that follow its last bundle (R59, R189), and its node ends
(R152, R209). spent says that it ended by exhaustion (R207, R210); fail is the happening it gives its job. Log: 45 DEDUCED, 50 DESIGN CHOICE. -/
def finishTile (s : State) (p : Nat) (spent : Bool) (fail : Option (Nat × Nat)) : State :=
  let t := getTile s p
  let s1 := setF (setF s (TIL_USED_CYCLES p) (t.budget0 - t.budget)) (TIL_USED_OVERRUN p) (ofBool spent)
  let (i, s0) := takeFree s1
  let c := t.cycle + BitVec.ofNat 64 (Config.idleCycles i)
  let s3 := setCl s0 (p / 9) { getCl s0 (p / 9) with csmT := (t.csm0 + c.toNat) % 16 }
  let s2 := setTile (addF s3 (TIL_CNT_TASK_COUNT p) 1) p (restTile { t with cycle := c })
  match findNode s2 t.node with
  | none => s2
  | some (j, n) =>
    match fail with
    | none => endNode s2 j n true
    | some (o, d) => failNode s2 j n o d

/-- The DMA channel of the logical tile that physical tile p serves. -/
def tileChannel (s : State) (p : Nat) : Nat := 2 + logicalOf s p

/-- Does a descriptor of tile p's channel still run (R209)? -/
def tileDmaBusy (s : State) (p : Nat) : Bool := decide (logicalOf s p < 8) && getF s (DMA_CH_STAT_STATE (p / 9) (tileChannel s p)) == 1

/-- What the end of a task gives its job. -/
def endHappening : TileEnd → Option (Nat × Nat)
  | .done => none
  | .overrun => some (0x21, 0x60)
  | .ecc => some (0x20, 0x42)

/-- End the task of tile p in a way that waits for the DMA operations it issued (R209): at once where none runs. -/
def endTile (s : State) (p : Nat) (e : TileEnd) : State :=
  if tileDmaBusy s p then setTile s p { getTile s p with ending := some e, stage := [] } else finishTile s p (e != .done) (endHappening e)

/-- A fault of CLASS 0x02 on tile p: an instruction fetch or a scratchpad read met an uncorrectable granule (R207, R497, R499). Log: 45 DEDUCED. -/
def memoryFault (s : State) (p cause addr detail : Nat) : State :=
  let t := getTile s p
  let s1 := setTilFault s p cause t.pc addr (t.handler != .none) t.task
  let e := tileEntry s1 p 0x02
  let s2 := report s1 (match tileNode s1 p with | some (j, _) => withJob e j 0x20 detail | none => e)
  stopTile (finishTile s2 p false (some (0x20, detail))) p

end Sys2Proof.Machine
end

