-- ==== Sys2Proof/Machine/Cvu.lean ====
section
/-!
DEFINITION. The check-value units (spec/07_memory.md R287 to R290): the CRC of a unit of computation and where its result goes.
-/

namespace Sys2Proof.Machine

/-- The low n bits of x in reversed order. -/
def reflect : Nat → Nat → Nat
  | 0, _ => 0
  | n + 1, x => (x % 2) * 2 ^ n + reflect n (x / 2)

/-- One bit, most significant first, into a CRC register of w bits. -/
def crcBit (w poly r b : Nat) : Nat :=
  let top := bitOf r (w - 1)
  let r1 := (2 * r) % 2 ^ w
  if (top + b) % 2 = 1 then r1 ^^^ poly else r1

/-- One byte into a CRC register, bit 7 first. -/
def crcByte (w poly : Nat) (r : Nat) (x : Nat) : Nat :=
  [7, 6, 5, 4, 3, 2, 1, 0].foldl (fun r i => crcBit w poly r (bitOf x i)) r

/-- The parameters of R288. -/
structure CrcCfg where
  width : Nat
  poly : Nat
  init : Nat
  refIn : Bool
  refOut : Bool
  xorOut : Nat
deriving DecidableEq, Repr

/-- The CRC of a byte sequence (R288). Log: 64 DEDUCED. -/
def crcOf (c : CrcCfg) (bs : List Byte) : Nat :=
  let m := 2 ^ c.width
  let r := bs.foldl (fun r b => crcByte c.width (c.poly % m) r (if c.refIn then reflect 8 b.toNat else b.toNat)) (c.init % m)
  (if c.refOut then reflect c.width r else r) ^^^ (c.xorOut % m)

/-- The configuration registers of unit u of cluster k. -/
def cvuConf (s : State) (k u : Nat) : CvuConf :=
  ⟨(getR s (CVU_CTL k u)).toNat, getF s (CVU_POLY_POLY k u), getF s (CVU_INIT_INIT k u), getF s (CVU_XOROUT_XOROUT k u), getF s (CVU_EXPECT_EXPECT k u)⟩

/-- The parameters that a configuration gives (R288). -/
def cvuCfg (c : CvuConf) : CrcCfg := ⟨clampNat 1 32 (bitsOf c.ctl 17 6), c.poly, c.init, bitOf c.ctl 15 == 1, bitOf c.ctl 16 == 1, c.xorOut⟩

/-- The bytes of the fold value (R288). -/
def foldBytes (d : CvuPend) : List Byte :=
  let n := bitsOf d.conf.ctl 13 2 + 1
  match bitsOf d.conf.ctl 11 2 with
  | 0 => []
  | 1 => leBytes n (d.addr % 2 ^ 32)
  | 2 => leBytes n d.port
  | _ => leBytes n d.seq

/-- Compare a result with the expected one (R289). -/
def cvuCompare (s : State) (k u seq : Nat) (ok : Bool) : State :=
  if ok then addF s (CVU_CNT_OK_OK k u) 1
  else refresh (setF (setF (addF s (CVU_CNT_BAD_BAD k u) 1) (CVU_STAT_MISMATCH k u) 1) (CVU_STAT_BAD_SEQ k u) seq) (clSrc k 10)

/-- A unit of computation of check-value unit u gives its result (R289): MODE 0 pushes it, MODE 1 compares it with CVU_EXPECT, MODES 2 and 3 with the unit's own last bytes. -/
def cvuUnit (s : State) (k u : Nat) (d : CvuPend) : State :=
  let c := cvuCfg d.conf
  let fold := foldBytes d
  match bitsOf d.conf.ctl 1 2 with
  | 0 =>
    let f := cvuFifo s k u
    if 16 ≤ f.length then addF s (CVU_STAT_LOST k u) 1
    else { s with cvu := smPut (fun _ => []) (4 * k + u) (f ++ [⟨crcOf c (fold ++ d.data), d.seq⟩]) s.cvu }
  | 1 => cvuCompare s k u d.seq (crcOf c (fold ++ d.data) == d.conf.expect)
  | _ =>
    let n := ceilDiv c.width 8
    let body := d.data.take (d.data.length - n)
    cvuCompare s k u d.seq (crcOf c (fold ++ body) == leNat (d.data.drop (d.data.length - n)))

/-- SRC_KIND as taken (R287). -/
def cvuKind (c : CvuConf) : Nat := min 5 (bitsOf c.ctl 3 3)

/-- SRC_IDX as taken (R287): an index above the range of the source is the highest. -/
def cvuIdx (c : CvuConf) : Nat :=
  let i := bitsOf c.ctl 6 4
  if cvuKind c = 3 then min 9 i else if 4 ≤ cvuKind c then min 4 i else i

/-- Does a check-value unit of some configuration snoop source idx of a kind: enabled, and not claimed by an engine (R287, R290, R383)? -/
def confSnoops (c : CvuConf) (kind idx : Nat) : Bool := bitOf c.ctl 0 == 1 && bitOf c.ctl 24 == 0 && cvuKind c == kind && cvuIdx c == idx

/-- Does check-value unit u snoop source idx of a kind now? -/
def cvuSnoops (s : State) (k u kind idx : Nat) : Bool := confSnoops (cvuConf s k u) kind idx

/-- The units that have ended on check-value unit u and whose results are to come. -/
def cvuEnded (s : State) (k u : Nat) : List CvuPend := smGet (fun _ => []) s.cvuIn (4 * k + u)

/-- A unit of computation ends. -/
def cvuEnd (s : State) (k u : Nat) (d : CvuPend) : State := { s with cvuIn := smPut (fun _ => []) (4 * k + u) (cvuEnded s k u ++ [d]) s.cvuIn }

/-- A whole unit of computation passes source idx of a kind in cluster k (R287): every check-value unit that snoops it takes it, with its configuration of now. -/
def cvuPass (s : State) (k kind idx : Nat) (bs : List Byte) (addr port seq : Nat) : State :=
  [0, 1, 2, 3].foldl (fun s u => if cvuSnoops s k u kind idx then cvuEnd s k u ⟨cvuConf s k u, bs, addr, port, seq⟩ else s) s

/-- The same for a source of quadrant q, which every cluster of the quadrant can snoop. -/
def cvuPassQuad (s : State) (q kind idx : Nat) (bs : List Byte) (port seq : Nat) : State :=
  (List.range 8).foldl (fun s c => cvuPass s (8 * q + c) kind idx bs 0 port seq) s

/-- The registers of check-value unit u that an engine sets (R383). -/
def claimRegs (k u : Nat) : List Nat := [CVU_CTL k u, CVU_POLY k u, CVU_INIT k u, CVU_XOROUT k u, CVU_EXPECT k u]

/-- CVU_CTL while an engine holds the unit for a CRC (R383): CLAIMED, WIDTH, and no reflection and no fold. -/
def claimedCtl (v : Nat) (c : Option CrcCfg) : Nat :=
  let v1 := putBits v 24 1 1
  match c with
  | some x => putBits (putBits (putBits (putBits v1 17 6 x.width) 15 1 (ofBool x.refIn)) 16 1 (ofBool x.refOut)) 11 2 0
  | none => v1

/-- An engine claims check-value unit u of cluster k for its operation (R290, R383): CLAIMED reads 1, a unit of computation in progress is discarded, and the engine sets the unit for the
first CRC of the operation, c; what the registers held comes back at the end. Log: 153 DESIGN CHOICE. -/
def cvuClaim (s : State) (k u : Nat) (c : Option CrcCfg) : State :=
  let s1 := (List.range 10).foldl (fun s ch => if (getDma s k ch).feeds = some u then setDma s k ch { getDma s k ch with open_ := none } else s) s
  let h := getCl s1 k
  let s2 := setCl s1 k { h with cvuHeld := smPut (fun _ => []) u ((claimRegs k u).map (getR s1)) h.cvuHeld,
                                engCvu := h.engCvu.map fun x => (x.1, x.2.set u ⟨0, 0, 0, 0, 0⟩) }
  let s3 := setR s2 (CVU_CTL k u) (BitVec.ofNat 32 (claimedCtl (getR s1 (CVU_CTL k u)).toNat c))
  match c with
  | some x => setR (setR (setR s3 (CVU_POLY k u) (BitVec.ofNat 32 x.poly)) (CVU_INIT k u) (BitVec.ofNat 32 x.init)) (CVU_XOROUT k u) (BitVec.ofNat 32 x.xorOut)
  | none => s3

/-- The claim on check-value unit u ends: every register of it returns to what it held (R383). -/
def cvuRelease (s : State) (k u : Nat) : State :=
  let h := getCl s k
  let s1 := ((claimRegs k u).zip (smGet (fun _ => []) h.cvuHeld u)).foldl (fun s x => setR s x.1 x.2) (setF s (CVU_CTL_CLAIMED k u) 0)
  setCl s1 k { h with cvuHeld := smPut (fun _ => []) u [] h.cvuHeld }

/-- The claim that engine e of cluster k may hold ends: the decoder's of unit 2, the encoder's of unit 3 (R383). -/
def cvuUnclaim (s : State) (k e : Nat) : State := if e = 3 then cvuRelease s k 2 else if e = 4 then cvuRelease s k 3 else s

/-- An operation of engine e of cluster k begins: a check-value unit that snoops a port of the engine takes its configuration of now (R290). -/
def cvuEngBegin (s : State) (k e : Nat) : State :=
  setCl s k { getCl s k with engCvu := smPut (fun _ => []) e ([0, 1, 2, 3].map (cvuConf s k)) (getCl s k).engCvu }

/-- The bytes of an operation pass a port of engine e of cluster k: every check-value unit that snooped the port when the operation began takes them, with its configuration of then. -/
def cvuEngPass (s : State) (k kind e : Nat) (bs : List Byte) (addr port seq : Nat) : State :=
  ((smGet (fun _ => []) (getCl s k).engCvu e).zip [0, 1, 2, 3]).foldl (fun s x => if confSnoops x.1 kind e then cvuEnd s k x.2 ⟨x.1, bs, addr, port, seq⟩ else s) s

/-- CVU_UNIT_RESULT (R289): the result of the oldest unit that has ended on check-value unit u. Where the model holds none, the operand is the unit that has passed. Log: 64 DEDUCED. -/
def execCvuUnitResult (k : Fin 32) (u : Fin 4) (d : CvuUnit) (s : State) : Res :=
  match cvuEnded s k.val u.val with
  | x :: rest => .next (cvuUnit { s with cvuIn := smPut (fun _ => []) (4 * k.val + u.val) rest s.cvuIn } k.val u.val x)
  | [] =>
    let c := cvuConf s k.val u.val
    if bitOf c.ctl 0 = 0 ∨ bitOf c.ctl 24 = 1 ∨ cvuKind c = 0 then .next s
    else .next (cvuUnit s k.val u.val ⟨c, d.data, d.addr.toNat, d.port, d.seq⟩)

/-- Remove the head result; an empty FIFO ignores it (R289). -/
def popCvu (s : State) (k u : Nat) : State := { s with cvu := smPut (fun _ => []) (4 * k + u) (cvuFifo s k u).tail s.cvu }

/-- CVU_POP (R43, R44, R289): the head result of unit u is removed. -/
def execCvuPop (k : Fin 32) (u : Fin 4) (s : State) : Res := .next (if blockLive s .cvu k.val then popCvu s k.val u.val else s)

end Sys2Proof.Machine
end

