-- ==== Sys2Proof/Machine/Dma.lean ====
section
/-!
DEFINITION. The DMA engine and the coherence of host memory and the HDM range (spec/07_memory.md R272 to R286), and the raising of a tile's interrupt lines
(spec/05_phimar_scalar.md R197, R199, R200).
-/

namespace Sys2Proof.Machine

/-! ## Interrupt lines of a tile -/

/-- Note the cycle in which each line became pending: its bit is set in irq_pend and irq_mask while no handler is active (R199, R200). -/
def noteSince (t : Tile) : Tile :=
  let one := fun (l : Nat) =>
    if bitOf t.irqPend l = 1 ∧ bitOf t.irqMask l = 1 ∧ t.handler = .none then
      (match getAt none t.since l with | some c => some c | none => some t.cycle.toNat)
    else none
  { t with since := [one 0, one 1, one 2] }

/-- Raise a line of a core: its bit in irq_pend is set. -/
def raiseIrq (t : Tile) (line : Nat) : Tile := noteSince { t with irqPend := t.irqPend ||| 2 ^ line }

/-- Raise a line of physical tile p. -/
def raiseLine (s : State) (p line : Nat) : State := setTile s p (raiseIrq (getTile s p) line)

/-! ## Moving data -/

/-- Note in a channel that entry e moved poison: ECC, and ENTRY where it is the descriptor's first such entry and no check has failed (R280). -/
def noteEcc (s : State) (k ch e : Nat) : State :=
  let d := getDma s k ch
  let s1 := setDma (setF s (DMA_CH_STAT_ECC k ch) 1) k ch { d with eccNoted := true }
  if d.eccNoted = true ∨ getF s (DMA_CH_STAT_STATE k ch) = 2 ∨ getF s (DMA_CH_STAT_STATE k ch) = 4 then s1 else setF s1 (DMA_CH_STAT_ENTRY k ch) e

/-- Does the channel act for a job whose writes to host memory a function reset discards (R428)? -/
def chanLost (s : State) (k ch : Nat) : Bool :=
  let node := if ch = 0 then (getDma s k 0).node
    else if ch = 1 then none
    else (physOf s k (ch - 2)).bind fun p => if (getTile s p).running then some (getTile s p).node else none
  match node.bind (findNode s) with
  | some (j, _) => j.lost
  | none => false

/-- Bytes of entry m pass the check-value unit that the descriptor presents its write data to (R278, R287): a unit of computation begins with an entry or with the descriptor, as
UNIT says, and one of an entry ends with it; one whose beginning was not snooped gives none (R290). Log: 64 DEDUCED. -/
def feedCvu (s0 : State) (k ch : Nat) (m : Move) (bs : List Byte) : State :=
  let d := getDma s0 k ch
  let s := setDma s0 k ch { d with wrote := true }
  match d.feeds with
  | none => s
  | some u =>
    let begins := cvuSnoops s k u 3 ch && (if bitOf (cvuConf s k u).ctl 10 = 0 then m.fresh else !d.wrote)
    match (match d.open_ with
      | some x => some { x with data := x.data ++ bs }
      | none => if begins then some ⟨cvuConf s k u, bs, m.dev, Config.cvuNoPort ch, d.count⟩ else none) with
    | none => s
    | some x =>
      if bitOf x.conf.ctl 10 = 0 ∧ bs.length = m.len then cvuEnd (setDma s k ch { getDma s k ch with open_ := none }) k u x
      else setDma s k ch { getDma s k ch with open_ := some x }

/-- The bytes of a move that go at once: a line of the host's at most where an end of it is the host's (R272), and no more than lim granules of the destination (R285). -/
def pieceLen (m : Move) (lim : Nat) : Nat :=
  if m.rd ∨ m.go then min (if m.rd then lineRest m.src m.len else m.len) (if m.go then lineRest m.dst m.len else m.len)
  else min m.len (m.dst / 32 * 32 + 32 * lim - m.dst)

/-- A move after its first n bytes. -/
def nextPiece (m : Move) (n : Nat) : Move :=
  { m with src := m.src + n, dst := m.dst + n, dev := m.dev + n, len := m.len - n, st := .idle, data := [], fresh := false }

/-- Write bytes of a move; those from bad granules travel as poison (R280). own says that the move is of the channel's present descriptor. Log: 11 DESIGN CHOICE. -/
def writePiece (s : State) (k ch : Nat) (own : Bool) (m : Move) (bs : List (Byte × Bool)) : State :=
  let s1 := wrTainted s m.dst bs
  if own then feedCvu (if bs.any (·.2) then noteEcc s1 k ch m.entry else s1) k ch m (bs.map (·.1)) else s1

/-- A move goes as far as nothing holds it up: the state, and what is left of it, none where it is over. A source in host memory is asked for line by line and waits for each return (R273); a
destination there is written line by line and waits for each GO (R272); a line of DRAM that the host holds is snooped and waited for (R274). A write of host memory for a job that a
function reset cut off is discarded, and each line of it counted (R428). -/
def moveStep (s : State) (k ch : Nat) (own lost : Bool) (lim : Nat) (m : Move) : State × Option Move :=
  if m.len = 0 then (s, none)
  else if lost && m.go then (addF s CXL_LOST_LOST_WR (linesOf m.dst m.len), none)
  else if m.st = .reading ∨ m.st = .writing ∨ lim = 0 then (s, some m)
  else if m.st = .held then
    (match waitsFor s m.dst m.len true with
     | some x => (snoopLine s x true, some m)
     | none => (writePiece s k ch own m m.data, none))
  else if m.rd = true ∧ m.st = .idle then (askHost s m.src (lineRest m.src m.len), some { m with st := .reading })
  else
    let n := pieceLen m lim
    match waitsFor s m.src n false with
    | some x => (snoopLine s x false, some m)
    | none =>
      let s1 := readBad s m.src n
      let bs := rdTainted s1 m.src n
      if m.go then (tellHost s1 m.dst n (bs.any (·.2)), some { m with st := .writing, data := bs })
      else match waitsFor s1 m.dst n true with
        | some x => (snoopLine s1 x true, some m)
        | none =>
          let s2 := writePiece s1 k ch own m bs
          let m1 := nextPiece m n
          if m1.len = 0 then (s2, none)
          else if m1.rd then (askHost s2 m1.src (lineRest m1.src m1.len), some { m1 with st := .reading })
          else (s2, some m1)

/-- Do n bytes from a and m bytes from b overlap? -/
def meets (a n b m : Nat) : Bool := decide (a < b + m ∧ b < a + n)

/-- Must a move wait for one that an earlier task left under way on its channel, since it reads or writes a byte that the other is to write (R264)? -/
def behindLate (late : List LateMove) (m : Move) : Bool :=
  late.any fun x => meets m.dst m.len x.move.dst x.move.len || meets m.src m.len x.move.dst x.move.len

/-- The moves at the head of a list, in entry order (R264), until one is held up. -/
def runList (k ch : Nat) (lost : Bool) (late : List LateMove) (lim : Nat) : State → List Move → State × List Move
  | s, [] => (s, [])
  | s, m :: rest =>
    if behindLate late m then (s, m :: rest)
    else match moveStep s k ch true lost lim m with
    | (s1, some m1) => (s1, m1 :: rest)
    | (s1, none) => runList k ch lost late (lim - granules m.dst m.len) s1 rest

/-- Run the moves of a channel, at most lim granules. -/
def runMoves (s : State) (k ch lim : Nat) : State :=
  let r := runList k ch (chanLost s k ch) (getDma s k ch).late lim s (getDma s k ch).moves
  setDma r.1 k ch { getDma r.1 k ch with moves := r.2 }

/-- No bound on the moves of a channel. -/
def noLimit : Nat := 2 ^ 40

/-- The job of a record node is cut off by a function reset. -/
def recLost (s : State) (recNode : Nat) : Bool := s.jobs.any fun j => j.recNode == recNode && j.lost

/-- The moves that tasks have left under way, in their order. -/
def runLateList (k : Nat) : State → List LateMove → State × List LateMove
  | s, [] => (s, [])
  | s, x :: rest =>
    match moveStep s k 0 false (recLost s x.rec_) noLimit x.move with
    | (s1, some m1) => (s1, { x with move := m1 } :: rest)
    | (s1, none) => runLateList k s1 rest

/-- A task whose last write under way is performed, and which was waiting for it, ends (R268). -/
def endDrained (s : State) (node : Nat) : State :=
  match findNode s node with
  | some (j, n) => if n.st = .running then endNode s j n false else s
  | none => s

/-- Run the moves that earlier tasks left under way on the task channel of cluster k, and end the tasks that waited for them. -/
def runLate (s : State) (k : Nat) : State :=
  let l := (getDma s k 0).late
  if l = [] then s
  else
    let r := runLateList k s l
    let s1 := setDma r.1 k 0 { getDma r.1 k 0 with late := r.2 }
    (((l.map (·.node)).eraseDups).filter fun n => !(r.2.any fun x => x.node == n)).foldl endDrained s1

/-- A task that its channel's fault has ended, once the writes of its checked entries are performed (R268, R279, R282); where they moved poison its job fails for that too (R280). -/
def endFaulted (s : State) (k : Nat) : State :=
  let d := getDma s k 0
  if getF s (DMA_CH_STAT_STATE k 0) = 2 ∧ d.moves = [] then
    (match d.node with
      | some n =>
        let s1 := setDma s k 0 { d with node := none }
        let s2 := match (if isF s (DMA_CH_STAT_ECC k 0) then findNode s1 n else none) with
          | some (j, x) => mapJob s1 j.recNode (failJob (now s1) ⟨now s1, 0x20, 0x42, x.idx⟩)
          | none => s1
        endDrained s2 n
      | none => s)
  else s

/-- The last whole ps of the present always-on cycle. -/
def cycleEnd (s : State) : Int := (((s.ct.units + s.lks.addend) * 1000 - 1) / 2 ^ 40 : Nat)

/-- Is an occurrence of a window open at t, taken to open early ps before its opening (R149)? Half-open, by R9. -/
def winCovers (s : State) (p : Plan) (w : Window) (early t : Int) : Bool :=
  let ofs := ciOfs s p.ci
  let n0 := slotAt p.mu ofs (t - (w.opn * 1000 - early))
  let n1 := n0 - (n0 - w.slot) % p.period
  let b := slotBoundary p.mu ofs n1
  inForce p b && decide (t < b + w.clo * 1000)

/-- Is a DMA window of cluster k open at t, or opening within 200 ns (R285)? Log: 63 DEDUCED. -/
def dmaWindow (s : State) (k : Nat) (t : Int) : Bool :=
  s.plans.any fun p => p.windows.any fun w => w.type == 6 && winCluster w == k && winCovers s p w 200000 t

/-- Does the host channel of cluster k stand still now (R277, R285): a DMA window is open, or opens within 200 ns of this cycle? Log: 63 DEDUCED. -/
def hostStands (s : State) (k : Nat) : Bool := dmaWindow s k (now s) || dmaWindow s k (cycleEnd s)

/-- Let a channel that is not suspended go on with its moves, the host channel outside the DMA windows alone (R277, R285); a task waits for the host while some are left (R103, R273). How far the host channel has come at an instant is free
(R285). Log: 63 DEDUCED. -/
def goOn (s : State) (k ch : Nat) : State :=
  if getF s (DMA_CH_STAT_STATE k ch) = 3 then s
  else if ch = 1 then
    (if hostStands s k then s
     else
      let (n, s1) := takeFree s
      runMoves s1 k 1 (Config.hostPace n))
  else
    let s1 := runMoves (if ch = 0 then runLate s k else s) k ch noLimit
    match (getDma s1 k ch).node with
    | some n => endFaulted (mapNode s1 n fun x => { x with hostWait := (getDma s1 k ch).moves != [] }) k
    | none => s1

/-! ## Descriptors -/

/-- The side of R283 that a device address lies on, for a task of cluster k. -/
def sideOf (k a : Nat) : Nat :=
  match spaceOf a with
  | 0 => 3
  | 1 => 2
  | _ => if addrCluster a = k % 8 then 0 else 1

/-- Check a range of a descriptor: R250, with the side that a DMA task declared as its last check. -/
def checkEntry (s : State) (k ch a f len : Nat) (write : Bool) (side : Option Nat) : Except Nat Nat :=
  match checkRange s (k / 8) (.dma k ch) a f len write with
  | .error e => .error e
  | .ok x => match side with
    | some d => if len ≠ 0 ∧ sideOf k a ≠ min d 3 then .error 6 else .ok x
    | none => .ok x

/-- A descriptor's header. -/
structure DmaHead where
  scatter : Bool
  n : Nat
  fence : Bool
  irq : Bool
  cvu : Option Nat
  fixed : Nat
deriving DecidableEq, Repr

/-- Where the checks of a descriptor stop: the failing entry, reason, F(k), address, and whether it is poison. -/
structure DmaStop where
  entry : Nat
  reason : Nat
  fofs : Nat
  bad : Nat
  poison : Bool
deriving DecidableEq, Repr

/-- The device address of the first bad granule of [a, a + len) at a flat address, for a device address of its first byte. -/
def badGranuleFrom (s : State) (dev a : Nat) : Nat → Nat → Nat
  | _, 0 => dev
  | g, n + 1 => if granBad s g then dev + 32 * g - a else badGranuleFrom s dev a (g + 1) n

/-- The length of an entry with F at f: of a DMA task, no more than its declared total leaves (R144). -/
def entryLen (decl : Option DmaDecl) (f raw : Nat) : Nat :=
  match decl with
  | some d => min (min raw 16777216) (d.bytes - f)
  | none => min raw 16777216

/-- Check entries e to e + m − 1 in order with F at f (R279, R280): the moves of those that pass, the clamps, and where the checks stop. desc is the flat address of
the descriptor, dev its device address. -/
def checkEntries (s : State) (k ch desc dev : Nat) (h : DmaHead) (decl : Option DmaDecl) : Nat → Nat → Nat → List Move × Nat × Option DmaStop
  | 0, _, _ => ([], 0, none)
  | m + 1, e, f =>
    let x := desc + 0x20 + 16 * e
    if badRead s x 16 then ([], 0, some ⟨e, 7, f, badGranuleFrom s (dev + 0x20 + 16 * e) x (x / 32) (granules x 16), true⟩)
    else
      let a := rdLe s x 8
      let raw := rdLe s (x + 8) 4 % 2 ^ 25
      let len := entryLen decl f raw
      let clamp := if 16777216 < raw then 1 else 0
      let src := decl.map (·.src)
      let dst := decl.map (·.dst)
      match checkEntry s k ch a 0 len h.scatter (if h.scatter then dst else src) with
      | .error r => ([], clamp, some ⟨e, r, f, a, false⟩)
      | .ok x1 =>
        match checkEntry s k ch h.fixed f len (!h.scatter) (if h.scatter then src else dst) with
        | .error r => ([], clamp, some ⟨e, r, f, (h.fixed + f) % 2 ^ 64, false⟩)
        | .ok x2 =>
          let host1 := spaceOf a == 0
          let host2 := spaceOf h.fixed == 0
          let mv : Move := if h.scatter then { src := x2, dst := x1, dev := a, len := len, entry := e, rd := host2, go := host1 }
            else { src := x1, dst := x2, dev := h.fixed + f, len := len, entry := e, rd := host1, go := host2 }
          let (ms, c, st) := checkEntries s k ch desc dev h decl m (e + 1) (f + len)
          (if len = 0 then ms else mv :: ms, clamp + c, st)

/-- The happening that a stopped descriptor of the task channel gives its job (R280, R282). -/
def stopHappening (x : DmaStop) : Nat × Nat := if x.poison then (0x20, 0x42) else (0x21, 0x60)

/-- A channel enters FAULTED (R279, R280, R282): the job of the task channel fails at once, and its task ends once the writes of its checked entries are performed (R268); a tile channel raises its tile's DMA line, the host channel its interrupt source. -/
def stopChannel (s : State) (k ch : Nat) (x : DmaStop) : State :=
  let s1 := if x.poison then setF s (DMA_CH_STAT_ECC k ch) 1 else logAddrFault s (k / 8) (.dma k ch) x.bad x.reason
  let s2 := setF (setF (setF s1 (DMA_CH_STAT_STATE k ch) 2) (DMA_CH_STAT_ENTRY k ch) x.entry) (DMA_CH_STAT_REASON k ch) x.reason
  let s3 := setF (setF s2 (DMA_CH_FOFS_FOFS k ch) x.fofs) (DMA_CH_BAD_ADDR k ch) x.bad
  if ch = 0 then
    (match (getDma s3 k 0).node.bind (findNode s3) with
      | some (j, n) => endFaulted (mapJob s3 j.recNode (failJob (now s3) ⟨now s3, (stopHappening x).1, (stopHappening x).2, n.idx⟩)) k
      | none => s3)
  else if ch = 1 then refresh s3 (clSrc k 9)
  else match physOf s3 k (ch - 2) with
    | some p => raiseLine s3 p 2
    | none => s3

/-- Read the header at a flat address; the number of clamps. -/
def readHead (s : State) (a : Nat) : DmaHead × Nat :=
  let w := rdLe s a 4
  let raw := bitsOf w 8 5
  let n := clampNat 1 16 raw
  (⟨bitOf w 0 == 1, n, bitOf w 16 == 1, bitOf w 17 == 1, if bitOf w 18 = 1 then some (bitsOf w 19 2) else none, rdLe s (a + 8) 8⟩, if n = raw then 0 else 1)

/-- A channel cannot read its descriptor yet: the host holds a line of it (R274). -/
def readLater (s : State) (k ch dev e f : Nat) (x : Nat × Nat) : State :=
  snoopLine (setDma s k ch { getDma s k ch with toRead := some (dev, e, f) }) x false

/-- Has the channel moves of earlier descriptors that are not performed (R278)? -/
def earlierMoves (s : State) (k ch : Nat) : Bool := (getDma s k ch).moves != [] || (ch == 0 && (getDma s k 0).late != [])

/-- A channel takes the descriptor at a device address from entry e with F at f (R278 to R281): one with FENCE starts only after every earlier one has completed; its own range is checked, then its entries in order; the moves of the
entries that pass run, and the channel is RUNNING, or FAULTED where a check stopped. Of a DMA task no more entries than declared count (R144). -/
def takeDescriptor (s : State) (k ch dev e f : Nat) (st : Nat) : State :=
  let q := k / 8
  let d : DmaCh := { getDma s k ch with toRead := none }
  let s0 := setF (setDma s k ch d) (DMA_CH_STAT_STATE k ch) st
  match checkAddr s0 q (.dma k ch) dev 32 false with
  | .error r => stopChannel s0 k ch ⟨31, r, 0, dev, false⟩
  | .ok a =>
    match waitsFor s0 a 32 false with
    | some x => readLater s0 k ch dev e f x
    | none =>
    if badRead s0 a 32 then
      stopChannel (readBad s0 a 32) k ch ⟨31, 7, 0, badGranuleFrom s0 dev a (a / 32) (granules a 32), true⟩
    else
      let (h, c) := readHead (readBad s0 a 32) a
      match checkAddr s0 q (.dma k ch) dev (32 + 16 * h.n) false with
      | .error r => stopChannel (addF s0 (DMA_CLAMP_CLAMP k) c) k ch ⟨31, r, 0, dev, false⟩
      | .ok _ =>
        match waitsFor s0 a (32 + 16 * h.n) false with
        | some x => readLater s0 k ch dev e f x
        | none =>
        if h.fence = true ∧ e = 0 ∧ earlierMoves s0 k ch = true then setDma s0 k ch { getDma s0 k ch with toRead := some (dev, e, f) }
        else
          let s1 := askHost (addF s0 (DMA_CLAMP_CLAMP k) c) a (32 + 16 * h.n)
          let s2 := if badRead s1 a (32 + 16 * h.n) then s1 else readBad s1 a (32 + 16 * h.n)
          let n := match d.decl with | some x => min h.n x.n | none => h.n
          let (ms, c2, stop) := checkEntries s2 k ch a dev h d.decl (n - e) e f
          let s3 := setDma (addF s2 (DMA_CLAMP_CLAMP k) c2) k ch { d with desc := dev, n := n, irq := h.irq, feeds := h.cvu, moves := d.moves ++ ms }
          match stop with
          | some x => goOn (stopChannel (if x.poison then settle s3 ((a + (x.bad - dev)) / 32) else s3) k ch x) k ch
          | none => goOn s3 k ch

/-- A descriptor begins on a channel: none of its entries has met poison, and it is counted (R280, R288). -/
def beginDescriptor (s : State) (k ch : Nat) : State :=
  setDma s k ch { getDma s k ch with eccNoted := false, count := (getDma s k ch).count + 1, open_ := none, wrote := false }

/-- A channel goes on: it moves data, and reads a descriptor that has waited for the host or for earlier ones (R274, R278). -/
def chanOn (s : State) (k ch : Nat) : State :=
  let s1 := goOn s k ch
  match (getDma s1 k ch).toRead with
  | some (dev, e, f) => takeDescriptor s1 k ch dev e f (getF s1 (DMA_CH_STAT_STATE k ch))
  | none => s1

/-- Let every channel of the device go on. -/
def goOnAll (s : State) : State := (s.dma.map (·.1)).foldl (fun s x => chanOn s (x / 10) (x % 10)) s

/-- START of channel ch of cluster k: ignored unless IDLE or ABORTED, and on the task channel (R277, R279). The host channel waits while a DMA window is open (R285). Log: 63 DEDUCED. -/
def startChannel (s : State) (k ch : Nat) : State :=
  let st := getF s (DMA_CH_STAT_STATE k ch)
  if ch = 0 ∨ (st ≠ 0 ∧ st ≠ 4) then s
  else takeDescriptor (beginDescriptor s k ch) k ch (getF s (DMA_CH_DESC_ADDR k ch)) 0 0 (if ch = 1 ∧ dmaWindow s k (now s) = true then 3 else 1)

/-- RESUME of channel ch: ignored unless FAULTED; a fault of the descriptor's own range starts it anew from DMA_CH_DESC (R279, R281). -/
def resumeChannel (s : State) (k ch : Nat) : State :=
  if ch = 0 ∨ getF s (DMA_CH_STAT_STATE k ch) ≠ 2 then s
  else
    let e := getF s (DMA_CH_STAT_ENTRY k ch)
    let st := if ch = 1 ∧ dmaWindow s k (now s) = true then 3 else 1
    let s1 := if e = 31 then takeDescriptor s k ch (getF s (DMA_CH_DESC_ADDR k ch)) 0 0 st
      else takeDescriptor s k ch (getDma s k ch).desc e (getF s (DMA_CH_FOFS_FOFS k ch)) st
    if ch = 1 then refresh s1 (clSrc k 9) else s1

/-- Finish the end of a tile's task that waited for its channel (R209). -/
def endWaiting (s : State) (k ch : Nat) : State :=
  if ch < 2 then s
  else match physOf s k (ch - 2) with
    | some p => (match (getTile s p).ending with
      | some e => finishTile s p (e != .done) (endHappening e)
      | none => s)
    | none => s

/-- ABORT of channel ch (R281): the entries already checked complete and the channel becomes ABORTED, with ENTRY the first unchecked entry; it counts as complete for
R209. A channel without a descriptor in progress ignores it. -/
def abortChannel (s : State) (k ch : Nat) : State :=
  let st := getF s (DMA_CH_STAT_STATE k ch)
  if ch = 0 ∨ (st ≠ 1 ∧ st ≠ 2 ∧ st ≠ 3) then s
  else
    let e := getF s (DMA_CH_STAT_ENTRY k ch)
    let next := match (getDma s k ch).toRead with
      | some (_, e1, _) => e1
      | none => if st = 2 then (if e = 31 then 0 else e) else (getDma s k ch).n
    let s0 := setDma s k ch { getDma s k ch with toRead := none }
    let s1 := setF (setF s0 (DMA_CH_STAT_STATE k ch) 4) (DMA_CH_STAT_ENTRY k ch) next
    let s2 := goOn s1 k ch
    endWaiting (if ch = 1 then refresh s2 (clSrc k 9) else s2) k ch

/-- The unit of computation that spans a descriptor ends with it (R287). -/
def closeUnit (s : State) (k ch : Nat) : State :=
  let d := getDma s k ch
  match d.open_, d.feeds with
  | some x, some u => cvuEnd (setDma s k ch { d with open_ := none }) k u x
  | _, _ => s

/-- A DMA task ends with its descriptor (R280, R283, R286): one that moved poison fails its job, and so does one that ends after its window's close. -/
def endDmaTask (s : State) (k : Nat) (j : Job) (n : Node) : State :=
  if isF s (DMA_CH_STAT_ECC k 0) then failNode s j n 0x20 0x42
  else if n.clo < now s then failNode s j n 0x21 0x60
  else endNode s j n true

/-- What the host channel has not moved yet moves by the completion of its descriptor, or of the entries that a fault or ABORT has left to it (R279, R281, R285). -/
def hostRest (s : State) (k : Nat) : State := if hostStands s k then s else runMoves s k 1 noLimit

/-- A channel whose data has all moved completes its descriptor (R286): IDLE, DONE, the count, the interrupt asked for by IRQ, and the end of a DMA task. -/
def completeChannel (s : State) (k ch : Nat) : State :=
  if ch = 1 ∧ (getF s (DMA_CH_STAT_STATE k 1) = 2 ∨ getF s (DMA_CH_STAT_STATE k 1) = 4) then hostRest s k
  else if getF s (DMA_CH_STAT_STATE k ch) ≠ 1 ∨ (getDma s k ch).toRead.isSome = true then s
  else
    let s0 := if ch = 1 then hostRest s k else s
    let d := getDma s0 k ch
    if d.moves ≠ [] then s0
    else
      let s1 := closeUnit (addF (setF (setF s0 (DMA_CH_STAT_STATE k ch) 0) (DMA_CH_STAT_DONE k ch) 1) (DMA_CNT_DESC k) 1) k ch
      if ch = 0 then
        (let s2 := setDma s1 k 0 { getDma s1 k 0 with node := none }
         match d.node.bind (findNode s2) with
          | some (j, n) => endDmaTask s2 k j n
          | none => s2)
      else if ch = 1 then
        (if d.irq then refresh (setDma s1 k 1 { getDma s1 k 1 with irqDone := true }) (clSrc k 9) else s1)
      else
        let s2 := if d.irq then (match physOf s1 k (ch - 2) with | some p => raiseLine s1 p 2 | none => s1) else s1
        endWaiting s2 k ch

/-- The record node of no job: what a write waits for beyond the record of its job (R275). -/
def noRecord : Nat := 2 ^ 23

/-- What a DMA task ended at its window's close leaves under way (R273, R275): a write whose request is out waits for its GO, and one that waits for the host to give up a line is
performed when it has, be it after the record; nothing else of it is moved, and the channel is IDLE. -/
def cutTask (s : State) (k : Nat) (j : Job) (n : Node) : State :=
  let d := getDma s k 0
  let s1 := setF (setDma s k 0 { d with moves := [], toRead := none, node := none, open_ := none }) (DMA_CH_STAT_STATE k 0) 0
  match d.moves with
  | [] => s1
  | m :: _ =>
    if m.st = .writing then setDma s1 k 0 { getDma s1 k 0 with late := d.late ++ [⟨j.recNode, n.id, { m with len := m.data.length }⟩] }
    else if m.go = true ∨ m.st = .reading ∨ (m.rd = true ∧ m.st = .idle) then s1
    else
      let l := pieceLen m noLimit
      if m.st = .idle ∧ (waitsFor s1 m.dst l true).isSome = true ∧ (waitsFor s1 m.src l false).isNone = true then
        (let s2 := readBad s1 m.src l
         setDma s2 k 0 { getDma s2 k 0 with late := (getDma s2 k 0).late ++ [⟨noRecord, n.id, { m with len := l, st := .held, data := rdTainted s2 m.src l }⟩] })
      else s1

/-- WINDOW_CLOSE_HOST_WAIT (R103, R273, R275): a task still waiting for data from the host at its window's close is ended there; its job fails FAILED_INPUT with detail HOST. -/
def execWindowCloseHostWait (node : BitVec 23) (dt : Nat) (s : State) : Res :=
  match findNode s node.toNat with
  | some (j, n) =>
    if n.st = .running ∧ n.hostWait = true ∧ reached s n.clo = true then
      (let s1 := failNode (atDt s dt) j n 0x22 0x51
       .next (if (getDma s n.cluster 0).node = some n.id then cutTask s1 n.cluster j n else s1))
    else .next s
  | none => .next s

/-- Put what a task left on the task channel aside, before the next one starts (R279): its writes are still performed. -/
def setAside (s : State) (k : Nat) : State :=
  let d := getDma s k 0
  match d.node.bind (findNode s) with
  | some (j, n) => setDma s k 0 { d with moves := [], node := none, late := d.late ++ d.moves.map fun m => ⟨j.recNode, n.id, m⟩ }
  | none => setDma s k 0 { d with moves := [] }

/-- DMA_START (R279). -/
def execDmaStart (k : Fin 32) (ch : Fin 10) (s : State) : Res := .next (if blockLive s .dma k.val then startChannel s k.val ch.val else s)

/-- DMA_RESUME (R281). -/
def execDmaResume (k : Fin 32) (ch : Fin 10) (s : State) : Res := .next (if blockLive s .dma k.val then resumeChannel s k.val ch.val else s)

/-- DMA_ABORT (R281). -/
def execDmaAbort (k : Fin 32) (ch : Fin 10) (s : State) : Res := .next (if blockLive s .dma k.val then abortChannel s k.val ch.val else s)

/-- DESCRIPTOR_COMPLETE (R286). -/
def execDescriptorComplete (k : Fin 32) (ch : Fin 10) (s : State) : Res := .next (completeChannel s k.val ch.val)

/-- HOST_CHANNEL_SUSPEND (R285): Dahlia stops the host channel 200 ns before a DMA window of the cluster opens. Log: 63 DEDUCED. -/
def execHostChannelSuspend (k : Fin 32) (s : State) : Res :=
  .next (if getF s (DMA_CH_STAT_STATE k.val 1) = 1 ∧ dmaWindow s k.val (cycleEnd s) = true then setF s (DMA_CH_STAT_STATE k.val 1) 3 else s)

/-- HOST_CHANNEL_RESUME (R285): the channel goes on at the window's close. -/
def execHostChannelResume (k : Fin 32) (s : State) : Res :=
  .next (if getF s (DMA_CH_STAT_STATE k.val 1) = 3 ∧ dmaWindow s k.val (cycleEnd s) = false then chanOn (setF s (DMA_CH_STAT_STATE k.val 1) 1) k.val 1 else s)

/-! ## The host's side of an access -/

/-- BACK_INVALIDATE_RESPONSE (R274, R275): the host lets go of a line; the device accesses that waited for it go on. Nothing reaches the port in a
recovery (R427). -/
def execBackInvalidateResponse (q : Fin 4) (line : Nat) (s : State) : Res :=
  let s1 := { (sfPut s q.val line 0) with biOut := s.biOut.filter fun x => x != (q.val, line) }
  .next (if now s < s.linkHeld then s else goOnAll (retryRecs (retryWaits s1)))

/-- H2D_SNOOP (R272): the device holds no host line after a request ends, so it answers RspIHitI. Nothing reaches the port in a recovery (R427). -/
def execH2dSnoop (line : Nat) (s : State) : Res := .next (if now s < s.linkHeld then s else emit s (.rspIHitI line))

/-- The GO of the line that the oldest write of a list waits for: it is written, and what is left of the move stays. -/
def goHead (s : State) (k ch : Nat) : State :=
  let d := getDma s k ch
  match d.moves with
  | m :: rest =>
    if m.st = .writing then
      (let s1 := writePiece s k ch true m m.data
       let m1 := nextPiece m m.data.length
       setDma s1 k ch { getDma s1 k ch with moves := if m1.len = 0 then rest else m1 :: rest })
    else s
  | [] => s

/-- The same of a write that a task left under way. -/
def goLate (s : State) (k : Nat) : State :=
  match (getDma s k 0).late with
  | x :: rest =>
    if x.move.st = .writing then
      (let s1 := writePiece s k 0 false x.move x.move.data
       setDma s1 k 0 { getDma s1 k 0 with late := { x with move := nextPiece x.move x.move.data.length } :: rest })
    else s
  | [] => s

/-- Does the oldest move that a task left under way wait in this way? -/
def lateIs (s : State) (k : Nat) (p : MoveSt) : Bool := match (getDma s k 0).late with | x :: _ => x.move.st == p | [] => false

/-- HOST_WRITE_GO (R272): the host's GO for the oldest write request of a channel, or for that of a ring's record, arrives, and its line is written. None comes while the link recovers (R427). -/
def execHostWriteGo (w : HostWriter) (s : State) : Res :=
  match w with
  | .channel k ch =>
    if now s < s.linkHeld then .next s
    else .next (chanOn (if ch.val = 0 ∧ lateIs s k.val .writing = true then goLate s k.val else goHead s k.val ch.val) k.val ch.val)
  | .ring r => .next (ringSide s (r.val / 64) fun s => recordGo s r.val)

/-- The data of a move's line have returned. -/
def returned (m : Move) : Move := if m.st = .reading then { m with st := .returned } else m

/-- HOST_READ_RETURN (R273): the data of the oldest read request of a channel return. -/
def execHostReadReturn (k : Fin 32) (ch : Fin 10) (s : State) : Res :=
  let d := getDma s k.val ch.val
  if now s < s.linkHeld then .next s
  else .next (chanOn (setDma s k.val ch.val (match d.late, d.moves with
    | x :: t, ms => if ch.val = 0 ∧ x.move.st = .reading then { d with late := { x with move := returned x.move } :: t }
      else { d with moves := (ms.take 1).map returned ++ ms.drop 1 }
    | [], ms => { d with moves := (ms.take 1).map returned ++ ms.drop 1 })) k.val ch.val)

/-- The part of a quadrant's DRAM that its HDM range covers (R248): first and one past the last byte. -/
def hdmRange (s : State) (q : Nat) : Nat × Nat :=
  let b := getF s (MEM_HDM_BASE q)
  (b * 2 ^ 28, min 95 (b + min 32 (getF s (MEM_HDM_SIZE q))) * 2 ^ 28)

/-- HDM_ACCESS (R257, R274, R276, R427, R432): a host access of n bytes at byte ofs of quadrant q's HDM range through CXL.mem. A write stores its bytes; a read returns the data, with the
poison indication where a granule is poisoned. own says that the host then holds the lines in E or M; otherwise it holds
them shared after a read, and not at all after a write; a full filter first takes back lines. A quadrant that is OFF or under reinitialisation returns all
ones with poison and discards writes. Log: 59 DEDUCED. -/
def execHdmAccess (q : Fin 4) (ofs : Nat) (write : Option (List Byte)) (len : Nat) (own : Bool) (s : State) : Res :=
  let r := hdmRange s q.val
  let n := match write with | some bs => bs.length | none => len
  if now s < s.linkHeld then .next s
  else if quadDark s q.val then
    .next (match write with | some _ => s | none => emit s (.readData (List.replicate len 255) true))
  else if isF s (MEM_HDM_LOCKED q.val) = false ∨ r.2 < r.1 + ofs + n then .next s
  else
    let a := dramFlat q.val + r.1 + ofs
    .next (makeAcc s ⟨.host q.val own, a, n, write.bind cleanWrite⟩)

end Sys2Proof.Machine
end

