-- ==== Sys2Proof/Machine/RegFile.lean ====
section
/-!
DEFINITION. Writes of registers (spec/00_scope.md R10 to R12): the plain fields by their access codes, and the registers that a tile too may write (spec/05_phimar_scalar.md
R169, R197; spec/07_memory.md R277 to R281, R289, R290).
-/

namespace Sys2Proof.Machine

/-- A write of TIL_MBOX of physical tile p (R197): mbox takes the value and line MBOX is raised; a write that finds it raised sets OVR. -/
def writeMbox (s : State) (p : Nat) (v : Nat) : State :=
  let t := getTile s p
  let s1 := if bitOf t.irqPend 1 = 1 then setF s (TIL_MBOX_STAT_OVR p) 1 else s
  setTile s1 p (raiseIrq { t with mbox := BitVec.ofNat 32 v } 1)

/-- A write of TIL_MBOX from outside the tile's cluster (R481, R482, R485): served at once in RUN or GATE; in NAP or SLEEP it is an edge wake event, its value held in the tile's
latch; before the final 240 ns of an entry it aborts it, in them it is lost and counted; a cluster that wakes or has FAILED keeps the value in the latch. Log: 105 DEDUCED. -/
def postMbox (s : State) (p v : Nat) : State :=
  let k := p / 9
  let st := getF s (PWR_CL_STAT_STATE k)
  let held := setHw s p { getHw s p with latch := some (BitVec.ofNat 32 v) }
  if st ≤ 1 then writeMbox s p v
  else if st = 4 then (if entryFinal s k then addF s (PWR_CL_LOST_LOST k) 1 else writeMbox (wakeEvent s k 1) p v)
  else if st ≤ 3 then startWake held k
  else held

/-- Put a written value into the fields of a register by their access codes (R10, R12): base is the BAR0 offset of its first word, v and m the value and the mask of the
written bits of the register. Log: 12 DESIGN CHOICE, 92 DEDUCED. -/
def writeFields (s : State) (base : Nat) (fs : List FieldSpec) (v m : Nat) : State :=
  fs.foldl (fun s f =>
    let mk := bitsOf m f.lo f.w
    let fl : Field := ⟨base, f.lo, f.w⟩
    if mk = 0 then s
    else
      let old := getF s fl
      let wr := bitsOf v f.lo f.w &&& mk
      match f.acc with
      | .rw | .rws => setF s fl (clampNat f.min f.max (andNot old mk + wr))
      | .rwl =>
        let key := base * 64 + f.lo
        if smGet (fun _ => false) s.locked key then s
        else { (setF s fl (clampNat f.min f.max (andNot old mk + wr))) with locked := smPut (fun _ => false) key true s.locked }
      | .w1c => setF s fl (andNot old wr)
      | .w1s => setF s fl (old ||| wr)
      | .ro | .wo => s) s

/-- A write of the 32-bit word at offset a to the plain fields of its register. -/
def writePlain (s : State) (h : RegHit) (a v : Nat) : State :=
  writeFields s (a - 4 * h.word) h.spec.fields (v * 2 ^ (32 * h.word)) ((2 ^ 32 - 1) * 2 ^ (32 * h.word))

/-- A write of DMA_CH_CMD: START, RESUME and ABORT (R279, R281). -/
def writeDmaCmd (s : State) (k ch v : Nat) : State :=
  let s1 := if bitOf v 0 = 1 then startChannel s k ch else s
  let s2 := if bitOf v 1 = 1 then resumeChannel s1 k ch else s1
  if bitOf v 2 = 1 then abortChannel s2 k ch else s2

/-- A write of a DMA register of cluster k (R278 to R281): the task channel's registers are read-only, the descriptor address is held while RUNNING. -/
def writeDma (s : State) (k : Nat) (h : RegHit) (a v : Nat) : State :=
  match h.spec.name, h.ix with
  | .DMA_CH_DESC, [ch] => if ch = 0 ∨ getF s (DMA_CH_STAT_STATE k ch) = 1 then s else writePlain s h a v
  | .DMA_CH_CMD, [ch] => writeDmaCmd s k ch v
  | .DMA_CH_STAT, [ch] => if ch = 0 then s else
      (let s1 := writePlain s h a v
       let s2 := if bitOf v 17 = 1 then setDma s1 k ch { getDma s1 k ch with irqDone := false } else s1
       if ch = 1 then refresh s2 (clSrc k 9) else s2)
  | _, _ => writePlain s h a v

/-- A write of a check-value register of cluster k (R289, R290). -/
def writeCvu (s : State) (k : Nat) (h : RegHit) (a v : Nat) : State :=
  match h.spec.name, h.ix with
  | .CVU_CTL, [u] => if isF s (CVU_CTL_CLAIMED k u) then s else refresh (writePlain s h a v) (clSrc k 10)
  | .CVU_POP, [u] => if bitOf v 0 = 1 then popCvu s k u else s
  | .CVU_STAT, _ => refresh (writePlain s h a v) (clSrc k 10)
  | _, _ => writePlain s h a v

end Sys2Proof.Machine
end

