-- ==== Sys2Proof/Machine/HostPort.lean ====
section
/-!
DEFINITION. The host port and the interrupt controller (spec/12_cxl.md R424 to R444): recoveries and resets of the function, the HDM decoders, the DOE mailboxes,
IDE, and the messages of the 1,024 interrupt sources.
-/

namespace Sys2Proof.Machine

/-! ## The interrupt controller -/

/-- The MSI-X vector of source n. -/
def intVector (s : State) (n : Nat) : Nat := getF s (INT_SRC_CFG_VECTOR n)

/-- BAR0 offset of vector v's entry in the MSI-X vector table. Log: 85 PRESUMED. -/
def msixEntry (v : Nat) : Nat := intBase + 0x10000 + 16 * v
/-- The word of the pending-bit array that holds vector v's bit. -/
def msixPba (v : Nat) : Nat := intBase + 0x18000 + 4 * (v / 32)

/-- Is vector v masked, by its own mask bit or by the function mask (R441)? -/
def vectorMasked (s : State) (v : Nat) : Bool := s.cfg.funcMask || bitOf (getR s (msixEntry v + 12)).toNat 0 == 1

/-- Is the pending bit of vector v set? -/
def vectorPending (s : State) (v : Nat) : Bool := bitOf (getR s (msixPba v)).toNat (v % 32) == 1

/-- Set or clear the pending bit of vector v. -/
def setPending (s : State) (v : Nat) (b : Bool) : State :=
  setR s (msixPba v) (BitVec.ofNat 32 (putBits (getR s (msixPba v)).toNat (v % 32) 1 (ofBool b)))

/-- The MSI-X write of vector v leaves (R441). -/
def sendMsi (s : State) (v : Nat) : State :=
  emit (addF s INT_CNT_MSG_COUNT 1) (.msi v (getR64 s (msixEntry v)) (getR s (msixEntry v + 8)).toNat)

/-- A message for vector v: sent, or held by a mask as its pending bit (R441). -/
def vectorMessage (s : State) (v : Nat) : State := if vectorMasked s v then setPending s v true else sendMsi s v

/-- Send the pending message of vector v once nothing masks it (the PCI Express rules of R441). Log: 85 PRESUMED. -/
def flushVector (s : State) (v : Nat) : State :=
  if s.cfg.msixEnable = true ∧ vectorPending s v = true ∧ vectorMasked s v = false then sendMsi (setPending s v false) v else s

/-- The same for every vector. -/
def flushVectors (s : State) : State := (List.range 2048).foldl flushVector s

/-- The hub cycle that an instant falls in (R441, R444): the hub's port of the quadrant networks runs at 1.0 GHz. Log: 84 DEDUCED. -/
def hubCycle (t : Int) : Int := t / 1000

/-- When the message of source n falls due: when the source is due and its gap has passed (R440, R442). Log: 84 DEDUCED. -/
def fallsDue (s : State) (n : Nat) : Int :=
  match (getInt s n).lastMsg with
  | none => (getInt s n).dueAt
  | some t => max (getInt s n).dueAt (t + getF s (INT_SRC_CFG_MIN_GAP n) * 1000000)

/-- Has a message of another source with the same vector been sent that fell due in the same hub cycle, with which the message of source n is one (R441, R444)? Log: 84 DEDUCED. -/
def sentTogether (s : State) (n : Nat) : Bool :=
  s.ints.any fun x => x.1 != n && x.2.lastMsg.isSome && hubCycle x.2.lastDue == hubCycle (fallsDue s n) && intVector s x.1 == intVector s n

/-- INTERRUPT_MESSAGE (R440 to R442): a due source whose gap has passed sends the message of its vector; a level source that is no longer asserted then sends
nothing and is no longer due. While MSI-X Enable is 0 it stays due, and nothing leaves the port in a recovery (R427). -/
def execInterruptMessage (src : Fin 1024) (dt : Nat) (s : State) : Res :=
  let n := src.val
  let s1 := atDt s dt
  let i := getInt s1 n
  if intDue s1 n = false ∨ gapOver s1 n = false then .next s
  else if isLevel n = true ∧ i.asserted = false then .next (setInt s1 n { i with due := false })
  else if s.cfg.msixEnable = false ∨ now s1 < s.linkHeld then .next s1
  else
    let s2 := setInt s1 n { i with due := false, pend := false, lastMsg := some (now s1), lastDue := fallsDue s1 n }
    .next (if sentTogether s1 n then s2 else vectorMessage s2 (intVector s1 n))

/-- INT_ACK (R440): an asserted level source that is enabled and not STUCK is due again; with the rise of its level in the same hub cycle there is one message (R444). -/
def ackSource (s : State) (n : Nat) : State :=
  let i := getInt s n
  if isLevel n = true ∧ i.asserted = true ∧ i.stuck = false ∧ isF s (INT_SRC_CFG_EN n) = true ∧ hubCycle i.since ≠ hubCycle (now s) then
    setInt s n { i with due := true, dueAt := if i.due then i.dueAt else now s }
  else s

/-- INT_ACK (R440). -/
def execIntAck (src : Fin 1024) (s : State) : Res := .next (ackSource s src.val)

/-- The instant at which level source n, asserted without a break, reaches STUCK_MS (R443). -/
def stuckAt (s : State) (n : Nat) : Int := (getInt s n).since + getF s (INT_SRC_CFG_STUCK_MS n) * 1000000000

/-- SOURCE_STUCK (R443): a level source asserted without a break for STUCK_MS milliseconds enters STUCK, and source 880 raises one pulse. It enters once the hub cycle in which that was
reached is over, since a fall in that cycle comes before it (R444). Log: 84 DEDUCED. -/
def execSourceStuck (src : Fin 1024) (dt : Nat) (s : State) : Res :=
  let n := src.val
  let s1 := atDt s dt
  let i := getInt s1 n
  .next (if isLevel n = true ∧ i.asserted = true ∧ i.stuck = false ∧ hubCycle (stuckAt s1 n) < hubCycle (now s1) then
    intPulse (setInt s1 n { i with stuck := true, due := false }) 880 else s)

/-- SOURCE_UNSTUCK (R443): low for 1 µs without a break, a source leaves STUCK and is not due. -/
def execSourceUnstuck (src : Fin 1024) (s : State) : Res :=
  let n := src.val
  let i := getInt s n
  .next (if i.stuck = true ∧ i.asserted = false ∧ reached s (i.since + 1000000) = true then setInt s n { i with stuck := false, due := false } else s)

/-- A write of INT_SRC_CFG (R442, R443): a 0 in EN clears PEND and STUCK; a source that is due when EN becomes 1 is due from then. Log: 84 DEDUCED. -/
def writeSrcCfg (s : State) (n v : Nat) : State :=
  let s1 := setF (setF (setF (setF s (INT_SRC_CFG_VECTOR n) v) (INT_SRC_CFG_EN n) (bitOf v 11)) (INT_SRC_CFG_MIN_GAP n) (min 1000 (bitsOf v 12 10)))
    (INT_SRC_CFG_STUCK_MS n) (clampNat 1 1000 (bitsOf v 22 10))
  let i := getInt s1 n
  if bitOf v 11 = 1 then (if isF s (INT_SRC_CFG_EN n) then s1 else setInt s1 n { i with dueAt := now s1 })
  else setInt s1 n { i with pend := false, stuck := false, since := if i.stuck then now s1 else i.since }

/-- INT_SRC_CFG_WRITE (R443). -/
def execIntSrcCfgWrite (src : Fin 1024) (v : Word) (s : State) : Res := .next (writeSrcCfg s src.val v.toNat)

/-- CLR_CNT (R442): every COALESCED count and INT_CNT_MSG return to 0. -/
def execClrCnt (s : State) : Res :=
  .next (setF ((s.ints.map (·.1)).foldl (fun s n => setInt s n { getInt s n with coalesced := 0 }) s) INT_CNT_MSG_COUNT 0)

/-! ## Recoveries and resets of the function -/

/-- LINK_RECOVERY (R427): a recovery of ps picoseconds holds every flit in both directions; it is counted and raises source 800. -/
def execLinkRecovery (ps : Nat) (s : State) : Res :=
  .next (intPulse { (addF s CXL_LINK_CNT_RECOV 1) with linkHeld := max s.linkHeld (now s + ps) } 800)

/-- A ring at a function reset (R428): disabled as by R139 but for its records, with draining ended at once. A SIGNAL that waits loses its record. Log: 41 DEDUCED. -/
def cutRing (s : State) (r : Nat) : State :=
  let s1 := loseRecs (if ringEn s r then disableRing s r else s) r
  let g := getRing s1 r
  let s2 := addF s1 CXL_LOST_LOST_WR g.signals.length
  if ringEn s r ∨ ringDraining s r then
    endDrain (setRing s2 r { g with signals := [], closed := g.closed.map fun j => { j with lost := true }, words := g.words.map fun w => { w with lost := true } }) r
  else s2

/-- HDM decoder q (R432). -/
def getHdm (s : State) (q : Nat) : HdmDec := smGet (fun _ => ({} : HdmDec)) s.hdm q
/-- Store HDM decoder q. -/
def setHdm (s : State) (q : Nat) (x : HdmDec) : State := { s with hdm := smPut (fun _ => ({} : HdmDec)) q x s.hdm }

/-- Decommit decoder q: MEM_HDM.LOCKED falls (R428, R432). -/
def decommit (s : State) (q : Nat) : State :=
  let s1 := setF (clrBitF s CXL_HDM_STAT_COMMITTED q) (MEM_HDM_LOCKED q) 0
  setHdm s1 q { getHdm s1 q with committed := false }

/-- Set an IDE state; each change raises source 801 (R435, R439). -/
def setIde (s : State) (io : Bool) (v : Nat) : State :=
  let f := if io then CXL_IDE_STAT_IO_STATE else CXL_IDE_STAT_CM_STATE
  if getF s f = v then s else intPulse (setF s f v) 801

/-- A secure stream loses its keys: the stream is off (R428, R435). Log: 87 DEDUCED. -/
def dropIde (s : State) (io : Bool) : State :=
  if getF s (if io then CXL_IDE_STAT_IO_STATE else CXL_IDE_STAT_CM_STATE) = 1 then setIde s io 0 else s

/-- A reset of the port's function (R428): the rings are cut off, the records and host writes of accepted jobs and of the commands in hand are discarded from here, the
decoders are decommitted, and the configuration space, MSI-X enable and IDE keys return to their reset state. Plans, programs and the registers stay. Log: 41 DEDUCED, 87 DEDUCED. -/
def functionReset (s : State) : State :=
  let s1 := (List.range 256).foldl (fun s r => ringSide s (r / 64) fun s => cutRing s r) s
  let s2 := { s1 with jobs := s1.jobs.map fun j => { j with lost := true }, ucmds := s1.ucmds.map fun u => { u with lost := true }, cfg := {},
                      quads := s1.quads.map fun x => (x.1, { x.2 with records := x.2.records.map fun j => { j with lost := true } }), doe := [],
                      fox := { s1.fox with ideKeys := [], ideUse := [] } }
  let s3 := dropIde (dropIde ([0, 1, 2, 3].foldl decommit s2) false) true
  let s4 := setF (setF (setF s3 CXL_LINK_STAT_CACHE_EN 0) CXL_LINK_STAT_MEM_EN 0) CXL_IDE_STAT_CM_SKID 0
  intPulse (addF (setBudget s4) CXL_LINK_STAT_RESETS 1) 800

/-- FUNCTION_RESET (R428): a loss of the data link layer or a hot reset. -/
def execFunctionReset (s : State) : Res := .next (functionReset s)

/-- CXL_CNT_CLR: clears RESETS, CXL_LINK_CNT, CXL_LOST, FAILS and CXL_BAD_ACC. -/
def execCxlCntClr (s : State) : Res :=
  .next ([CXL_LINK_STAT_RESETS, CXL_LINK_CNT_RECOV, CXL_LINK_CNT_LATE_REC, CXL_LOST_LOST_WR, CXL_IDE_STAT_FAILS, CXL_BAD_ACC_BAR0, CXL_BAD_ACC_BAR2].foldl
    (fun s f => setF s f 0) s)

/-- IDE_INTEGRITY_FAILURE (R435): a failed check or sequence number on a secure stream makes IDE insecure and resets the function. Log: 87 DEDUCED. -/
def execIdeIntegrityFailure (io : Bool) (s : State) : Res :=
  if getF s (if io then CXL_IDE_STAT_IO_STATE else CXL_IDE_STAT_CM_STATE) = 1 then
    .next (functionReset (setIde (addF s CXL_IDE_STAT_FAILS 1) io 2))
  else .next s

/-! ## HDM decoders and DOE -/

/-- HDM_DECODER_COMMIT (R432): the host commits (or decommits) decoder q with an HPA base, a size in bytes and a number of interleave ways. The commit fails, with Error Not Committed and
ERR, where the size is not that of MEM_HDM, the ways are not one, BI Enable is 0, or the quadrant is OFF or under reinitialisation. Nothing reaches the port in a recovery (R427).
Log: 60 DEDUCED. -/
def execHdmDecoderCommit (q : Fin 4) (commit : Bool) (base : BitVec 64) (size ways : Nat) (s : State) : Res :=
  if now s < s.linkHeld then .next s
  else if commit = false then .next (decommit s q.val)
  else if isF s (MEM_HDM_LOCKED q.val) then .next s
  else if size ≠ getF s (MEM_HDM_SIZE q.val) * 2 ^ 28 ∨ getF s (MEM_HDM_SIZE q.val) = 0 ∨ ways ≠ 1 ∨ s.cfg.biEnable = false ∨ quadDark s q.val = true then
    .next (intPulse (setBitF (setHdm s q.val { base := base.toNat, size := size, ways := ways, err := true }) CXL_HDM_STAT_ERR q.val) 802)
  else .next (setF (setBitF (setHdm s q.val { base := base.toNat, size := size, ways := ways, committed := true }) CXL_HDM_STAT_COMMITTED q.val) (MEM_HDM_LOCKED q.val) 1)

/-- The CDAT of R433: DSMAS, DSLBIS and DSEMTS of each quadrant whose HDM range is not empty. -/
def cdatEntries (s : State) : List CdatEntry :=
  ((List.range 4).filter fun q => getF s (MEM_HDM_SIZE q) != 0).map fun q =>
    { handle := q, base := (hdmRange s q).1, len := (hdmRange s q).2 - (hdmRange s q).1, readNs := 600, writeNs := 400, readMbps := 64000, writeMbps := 64000, special := true }

/-- The protocols of DOE instance i, in the order of R434. -/
def doeProtos (i : Nat) : List DoeProto :=
  [.discovery, if i = 0 then .cdat else if i = 1 then .spdm else .secured]

/-- The state of a DOE instance. -/
def getDoe (s : State) (i : Nat) : Doe := smGet (fun _ => ({} : Doe)) s.doe i
/-- Store it. -/
def setDoe (s : State) (i : Nat) (d : Doe) : State := { s with doe := smPut (fun _ => ({} : Doe)) i d s.doe }

/-- DOE_REQUEST (R433, R434): a request object of len bytes, at Go. One longer than 16 KiB sets the error bit and is discarded, and so is one of a protocol that the
instance does not support. Discovery and CDAT are answered at once; an SPDM message is in progress until SPDM_REQUEST answers it. Nothing reaches the port in a recovery (R427). Log: 88 DEDUCED. -/
def execDoeRequest (i : Fin 3) (o : DoeReq) (len : Nat) (s : State) : Res :=
  let d := getDoe s i.val
  if now s < s.linkHeld then .next s
  else if 16384 < len then .next (setDoe s i.val { d with error := true })
  else .next (match o with
    | .discovery x => setDoe s i.val { d with ready := some (.discovery (doeProtos i.val)[x]? (if x = 0 then 1 else 0)) }
    | .cdat => if i.val = 0 then setDoe s 0 { d with ready := some (.cdat (cdatEntries s)) } else s
    | .spdm secured b => if (doeProtos i.val).contains (if secured then .secured else .spdm) then setDoe s i.val { d with busy := some b } else s
    | .other => s)

/-- DOE_ABORT (R434): any request in progress ends. -/
def execDoeAbort (i : Fin 3) (s : State) : Res := .next (if now s < s.linkHeld then s else setDoe s i.val {})

end Sys2Proof.Machine
end

