-- ==== Sys2Proof/Machine/Numeric.lean ====
section
/-!
DEFINITION. Exact complex arithmetic on rational numbers, and the elementary functions that the radio rules name (spec/08_port_processing.md R303 to R310, R335; spec/09_receive.md
R342 to R365): sine and cosine, exponential and logarithm, each to within 2^-56. Log: 144 DESIGN CHOICE.
-/

namespace Sys2Proof.Machine

/-! ## Complex rational numbers -/

/-- A complex rational number. -/
abbrev CQ := Rat × Rat

/-- The complex number of a pair of integers. -/
def cqOf (x : Int × Int) : CQ := (x.1, x.2)
/-- Sum. -/
def cqAdd (a b : CQ) : CQ := (a.1 + b.1, a.2 + b.2)
/-- Difference. -/
def cqSub (a b : CQ) : CQ := (a.1 - b.1, a.2 - b.2)
/-- Product. -/
def cqMul (a b : CQ) : CQ := (a.1 * b.1 - a.2 * b.2, a.1 * b.2 + a.2 * b.1)
/-- Conjugate. -/
def cqConj (a : CQ) : CQ := (a.1, -a.2)
/-- Product with a real number. -/
def cqScale (r : Rat) (a : CQ) : CQ := (r * a.1, r * a.2)
/-- Squared magnitude. -/
def cqNorm (a : CQ) : Rat := a.1 * a.1 + a.2 * a.2
/-- Quotient; by 0 it is 0. -/
def cqDiv (a b : CQ) : CQ := if cqNorm b = 0 then (0, 0) else cqScale (1 / cqNorm b) (cqMul a (cqConj b))
/-- Sum of a list. -/
def cqSum (l : List CQ) : CQ := l.foldl cqAdd (0, 0)
/-- Mean of a list; 0 of an empty one. -/
def cqMean (l : List CQ) : CQ := if l = [] then (0, 0) else cqScale (1 / (l.length : Rat)) (cqSum l)
/-- Sum of a list of real numbers. -/
def ratSum (l : List Rat) : Rat := l.foldl (· + ·) 0
/-- Mean of a list of real numbers; 0 of an empty one. -/
def ratMean (l : List Rat) : Rat := if l = [] then 0 else ratSum l / (l.length : Rat)
/-- Sum of the products of two lists. -/
def cqDot (a b : List CQ) : CQ := cqSum ((a.zip b).map fun x => cqMul x.1 x.2)

/-- A rational number to the nearest integer, a tie away from zero (R567). -/
def roundQ (x : Rat) : Int := roundDiv x.num x.den
/-- The least natural number at or above x. -/
def ceilQ (x : Rat) : Nat := (-((-x).floor)).toNat
/-- The ratio of two integers. -/
def ratio (a : Int) (b : Nat) : Rat := (a : Rat) / (b : Rat)

/-! ## Fixed point, in units of 2^-64 -/

/-- 1 in fixed point. -/
def fixOne : Int := 2 ^ 64
/-- π in fixed point. -/
def fixPi : Int := 57952155664616982739
/-- ln 2 in fixed point. -/
def fixLn2 : Int := 12786308645202655659
/-- Product. -/
def fixMul (a b : Int) : Int := a * b / fixOne
/-- A rational number in fixed point. -/
def fixOf (x : Rat) : Int := (x * fixOne).floor
/-- A fixed-point number as a rational number. -/
def ratOfFix (x : Int) : Rat := (x : Rat) / (fixOne : Rat)

/-- The sum of a power series whose term k + 1 is term k × x × num k / den k. -/
def series (x : Int) (num den : Nat → Int) : Nat → Nat → Int → Int
  | 0, _, _ => 0
  | n + 1, k, t => t + series x num den n (k + 1) (fixMul t x * num k / den k)

/-- cos of an angle in fixed-point radians. -/
def fixCos (a : Int) : Int := series (fixMul a a) (fun _ => -1) (fun k => (2 * k + 1) * (2 * k + 2)) 18 0 fixOne
/-- sin of an angle in fixed-point radians. -/
def fixSin (a : Int) : Int := series (fixMul a a) (fun _ => -1) (fun k => (2 * k + 2) * (2 * k + 3)) 18 0 a

/-- exp (j 2 π x): the angle is brought to a quarter turn first. -/
def turn (x : Rat) : CQ :=
  let y := x - (x.floor : Rat)
  let k := (y * 4).floor.toNat
  let a := fixMul (fixOf (y - (k : Rat) / 4)) (2 * fixPi)
  let c := ratOfFix (fixCos a)
  let s := ratOfFix (fixSin a)
  match k with
  | 0 => (c, s)
  | 1 => (-s, c)
  | 2 => (-c, -s)
  | _ => (s, -c)

/-- exp (−x) for x ≥ 0, in fixed point. -/
def fixExpNeg (x : Rat) : Int :=
  let y := fixOf x
  let n := (y / fixLn2).toNat
  series (y - n * fixLn2) (fun _ => -1) (fun k => k + 1) 30 0 fixOne / 2 ^ n

/-- Bring a positive fixed-point number into [1, 2): the number and the power of 2 taken out. -/
def fixNormal (a : Int) : Int × Int :=
  let k : Int := (a.toNat.log2 : Int) - 64
  (if 0 ≤ k then a / 2 ^ k.toNat else a * 2 ^ (-k).toNat, k)

/-- ln of a positive fixed-point number, in fixed point: 2 artanh ((m − 1) / (m + 1)). -/
def fixLn (a : Int) : Int :=
  let (m, k) := fixNormal a
  let z := (m - fixOne) * fixOne / (m + fixOne)
  2 * series (fixMul z z) (fun k => 2 * k + 1) (fun k => 2 * k + 3) 24 0 z + k * fixLn2

/-- The square root of a natural number, rounded down, found bit by bit. -/
def natRoot (x : Nat) : Nat → Nat → Nat
  | 0, r => r
  | b + 1, r => natRoot x b (if (r + 2 ^ b) * (r + 2 ^ b) ≤ x then r + 2 ^ b else r)

/-- The square root of a rational number at or above 0, to within 2^-64. -/
def rootQ (x : Rat) : Rat := ((natRoot (x * 2 ^ 128).floor.toNat 200 0 : Nat) : Rat) / 2 ^ 64

/-! ## Decibels (R342) -/

/-- Is 10^(2v − 1) × den^200 at most num^200: does 10 × log10 (num / den), in units of 0.1 dB, round to v or more? -/
def dbAtLeast (num den : Nat) (v : Int) : Bool :=
  let e := 2 * v - 1
  if 0 ≤ e then decide (10 ^ e.toNat * den ^ 200 ≤ num ^ 200) else decide (den ^ 200 ≤ 10 ^ (-e).toNat * num ^ 200)

/-- The largest v from lo that dbAtLeast holds for, found bit by bit. -/
def dbSearch (num den : Nat) : Nat → Int → Int
  | 0, v => v
  | b + 1, v => dbSearch num den b (if dbAtLeast num den (v + 2 ^ b) then v + 2 ^ b else v)

/-- 10 × log10 (num / den) in units of 0.1 dB, rounded and bounded to −150.0 to +20.0 dB (R342). -/
def dbOf (num den : Nat) : Int := if num = 0 then -1500 else clampInt (-1500) 200 (dbSearch num den 11 (-1500))

/-- 10 × log10 of a rational number at or above 0, in units of 0.1 dB, without the upper bound. -/
def dbWide (x : Rat) : Int := if x ≤ 0 then -1500 else dbSearch x.num.toNat x.den 11 (-1500)

/-- 10 × log10 of a rational number at or above 0, in the same units and bounds. -/
def dbQ (x : Rat) : Int := dbOf x.num.toNat x.den

/-! ## Linear algebra -/

/-- Subtract a multiple of row p from row r so that its column c becomes 0. -/
def rowClear (c : Nat) (p r : List CQ) : List CQ :=
  let f := getAt (0, 0) r c
  (r.zip p).map fun x => cqSub x.1 (cqMul f x.2)

/-- One step of Gauss–Jordan elimination on column c of augmented rows, those above c done; none where the column has no pivot. -/
def pivotStep (rows : List (List CQ)) (c : Nat) : Option (List (List CQ)) :=
  match takeFirst (fun r => cqNorm (getAt (0, 0) r c) != 0) (rows.drop c) with
  | none => none
  | some (p, rest) =>
    let q := p.map fun x => cqDiv x (getAt (0, 0) p c)
    some ((rows.take c).map (rowClear c q) ++ q :: rest.map (rowClear c q))

/-- The rows of A⁻¹ B for the augmented rows [A | B] of an n × n matrix A; none where A has no inverse. -/
def solveRows (n : Nat) (rows : List (List CQ)) : Option (List (List CQ)) :=
  ((List.range n).foldl (fun a c => a.bind fun r => pivotStep r c) (some rows)).map fun r => r.map (·.drop n)

/-- The ideal value of a sample, moved by a free error of at most tol a component. -/
def near (tol : Rat) (ideal : CQ) (free : Int × Int) : Int × Int :=
  let b : Int := ceilQ tol
  (roundQ ideal.1 + clampInt (-b) b free.1, roundQ ideal.2 + clampInt (-b) b free.2)

end Sys2Proof.Machine
end

