-- ==== Sys2Proof/Machine/Syllable.lean ====
section
/-!
DEFINITION. Syllables of the Phimar core: their encoding (spec/05_phimar_scalar.md R177 to R180, R185; spec/06_phimar_vector.md R222 to R224, R231, R235), and the
element types (R215).
-/

namespace Sys2Proof.Machine

/-- The operation of an SA or SB opcode (R180); reserved opcodes have none. -/
def sopOf (op : Nat) : Option SOp :=
  [SOp.nop, .add, .sub, .addi, .and, .or, .xor, .ori, .shl, .shr, .sra, .shli, .shri, .srai, .min, .max, .abs, .slt, .sltu, .seq, .movhi, .orlo,
   .exp, .norm, .mul, .mulh, .macl, .mach, .msul, .mova, .exta, .expa, .beqz, .bnez, .bltz, .bgez, .bgtz, .blez, .br, .call, .jr, .rep, .repi,
   .loop, .loopi, .rotb, .mfc, .mtc, .taskEnd, .reti, .wfe][op]?

/-- The operation of an LS opcode (R185, R231). -/
def lopOf (op : Nat) : Option LOp :=
  match op with
  | 0x00 => some .nop
  | 0x01 => some .ldw
  | 0x02 => some .ldh
  | 0x03 => some .ldhu
  | 0x04 => some .ldb
  | 0x05 => some .ldbu
  | 0x06 => some .stw
  | 0x07 => some .sth
  | 0x08 => some .stb
  | 0x09 => some .ldwPost
  | 0x0A => some .stwPost
  | 0x10 => some .fence
  | 0x20 => some .vld
  | 0x21 => some .vst
  | 0x22 => some .vldx
  | 0x23 => some .vstx
  | _ => none

/-- The operation of a VX opcode (R224). -/
def vopOf (op : Nat) : Option VOp :=
  match op with
  | 0x00 => some .nop
  | 0x01 => some .setl
  | 0x02 => some .add
  | 0x03 => some .sub
  | 0x04 => some .min
  | 0x05 => some .max
  | 0x06 => some .abs
  | 0x07 => some .neg
  | 0x08 => some .conj
  | 0x09 => some .shl
  | 0x0A => some .sra
  | 0x0B => some .srar
  | 0x0C => some .splat
  | 0x0D => some .get
  | 0x0E => some .mov
  | 0x10 => some .mulq
  | 0x11 => some .cmulq
  | 0x12 => some .cmuljq
  | 0x13 => some .mac
  | 0x14 => some .msub
  | 0x15 => some .cmac
  | 0x16 => some .cmacj
  | 0x18 => some .mova
  | 0x19 => some .exta
  | 0x1A => some .clra
  | 0x20 => some .tperm
  | 0x21 => some .tperm2
  | 0x22 => some .widen
  | 0x23 => some .narrow
  | 0x28 => some .bexp
  | 0x29 => some .normb
  | 0x2A => some .pack10
  | 0x2B => some .unpack10
  | 0x30 => some .cmpeq
  | 0x31 => some .cmplt
  | 0x32 => some .cmple
  | 0x33 => some .mand
  | 0x34 => some .mor
  | 0x35 => some .mxor
  | 0x36 => some .mandn
  | 0x37 => some .msetn
  | 0x38 => some .mtov
  | 0x39 => some .mcnt
  | _ => none

/-- Is the operation a control operation, of the opcodes 0x20 to 0x32 (R180)? -/
def isControl (op : SOp) : Bool :=
  [SOp.beqz, .bnez, .bltz, .bgez, .bgtz, .blez, .br, .call, .jr, .rep, .repi, .loop, .loopi, .rotb, .mfc, .mtc, .taskEnd, .reti, .wfe].contains op

/-- May the operation not stand in a delay slot (R191)? -/
def isMisplaced (op : SOp) : Bool :=
  [SOp.beqz, .bnez, .bltz, .bgez, .bgtz, .blez, .br, .call, .jr, .rep, .repi, .loop, .loopi, .taskEnd, .reti].contains op

/-- The operand fields of a scalar syllable's word as Syl holds them: rd, ra, rb and the immediate of its format (R179, R180). -/
def scalarSyl (sb : Bool) (op : SOp) (w : Nat) : Syl :=
  let sat := bitOf w 22 == 1
  let a := bitsOf w 17 5
  let b := bitsOf w 12 5
  let c := bitsOf w 7 5
  let i12 := bitsOf w 0 12
  match op with
  | .addi | .ori | .shli | .shri | .srai => .sc sb op sat a b 0 i12
  | .movhi | .orlo => .sc sb op sat a 0 0 (bitsOf w 0 16)
  | .beqz | .bnez | .bltz | .bgez | .bgtz | .blez | .loop => .sc sb op sat 0 a 0 (bitsOf w 0 17)
  | .br | .call => .sc sb op sat 0 0 0 (bitsOf w 0 17)
  | .jr | .rep => .sc sb op sat 0 b 0 0
  | .repi => .sc sb op sat 0 0 0 (bitsOf w 0 11)
  | .loopi => .sc sb op sat 0 0 0 (bitsOf w 0 22)
  | .rotb => .sc sb op sat 0 0 0 (bitsOf w 0 4)
  | .mfc => .sc sb op sat a 0 0 i12
  | .mtc => .sc sb op sat 0 a 0 i12
  | .wfe => .sc sb op sat 0 0 0 (bitsOf w 0 3)
  | .taskEnd | .reti | .nop => .sc sb op sat 0 0 0 0
  | .macl | .mach | .msul => .sc sb op sat (a % 4) b c 0
  | .mova => .sc sb op sat (a % 4) b 0 0
  | .exta => .sc sb op sat a (b % 4) c 0
  | .expa => .sc sb op sat a (b % 4) 0 0
  | .abs | .exp | .norm => .sc sb op sat a b 0 0
  | .add | .sub | .and | .or | .xor | .shl | .shr | .sra | .min | .max | .slt | .sltu | .seq | .mul | .mulh => .sc sb op sat a b c 0

/-- The operand fields of an LS syllable's word (R185, R231). -/
def lsSyl (op : LOp) (w : Nat) : Syl :=
  match op with
  | .vld | .vst | .vldx | .vstx => .ls op (bitsOf w 17 5) (bitsOf w 12 5) 0 (bitsOf w 8 4) (bitsOf w 5 3) (bitOf w 4 == 1)
  | .nop | .ldw | .ldh | .ldhu | .ldb | .ldbu | .stw | .sth | .stb | .ldwPost | .stwPost | .fence =>
    .ls op (bitsOf w 17 5) (bitsOf w 12 5) (bitsOf w 0 12) 0 0 false

/-- The syllable that a 32-bit word encodes; none for a reserved opcode (R179, R223, R231). Log: 44 DESIGN CHOICE. -/
def decodeSyllable (w : Nat) : Option Syl :=
  match bitsOf w 29 2 with
  | 0 => (sopOf (bitsOf w 23 6)).map fun op => scalarSyl false op w
  | 1 => (sopOf (bitsOf w 23 6)).map fun op => scalarSyl true op w
  | 2 => (lopOf (bitsOf w 23 6)).map fun op => lsSyl op w
  | _ => (vopOf (bitsOf w 23 6)).map fun op =>
    .vx op (bitOf w 22 == 1) (bitsOf w 17 5) (bitsOf w 12 5) (bitsOf w 7 5) (bitsOf w 3 4) (bitsOf w 0 3)

/-- The issue slot of a syllable (R177). -/
def slotOf : Syl → Nat
  | .sc false _ _ _ _ _ _ => 0
  | .sc true _ _ _ _ _ _ => 1
  | .ls _ _ _ _ _ _ _ => 2
  | .vx _ _ _ _ _ _ _ => 3

/-- Syllables of the bundle of a core at a PC, by E: at most four, and none at or beyond CODE_LEN after the first (R172, R178). Log: 48 DEDUCED. -/
def bundleLenFrom (s : State) (t : Tile) (pc : Nat) : Nat → Nat → Nat
  | n, 0 => n
  | n, m + 1 =>
    if bitOf (rdLe s (t.code + pc + 4 * n) 4) 31 = 1 ∨ t.codeLen ≤ pc + 4 * (n + 1) then n + 1 else bundleLenFrom s t pc (n + 1) m

/-- Syllables of the bundle of a core at a PC. -/
def bundleLen (s : State) (t : Tile) (pc : Nat) : Nat := bundleLenFrom s t pc 0 4

/-! ## Element types (R215) -/

/-- Element width in bits. -/
def eltW (type : Nat) : Nat := match type with | 0 => 10 | 1 => 20 | 2 => 40 | 3 => 20 | _ => 40
/-- Component width in bits. -/
def compW (type : Nat) : Nat := match type with | 0 => 10 | 1 => 20 | 2 => 40 | 3 => 10 | _ => 20
/-- Elements per register. -/
def emax (type : Nat) : Nat := match type with | 0 => 128 | 1 => 64 | 2 => 32 | 3 => 64 | _ => 32
/-- Components per register. -/
def comps (type : Nat) : Nat := match type with | 0 => 128 | 1 => 64 | 2 => 32 | 3 => 128 | _ => 64
/-- 10-bit units per element. -/
def unitsOf (type : Nat) : Nat := match type with | 0 => 1 | 1 => 2 | 2 => 4 | 3 => 2 | _ => 4
/-- Components of an element. -/
def perElt (type : Nat) : Nat := if type = 3 ∨ type = 4 then 2 else 1

/-- Is TYPE one that the operation's row permits (R223, R224)? -/
def vxTypeOk (op : VOp) (type : Nat) : Bool :=
  match op with
  | .nop | .clra | .mand | .mor | .mxor | .mandn | .msetn | .mtov | .mcnt | .bexp | .normb | .pack10 | .unpack10 => true
  | .min | .max | .cmplt | .cmple => decide (type ≤ 2)
  | .conj | .cmulq | .cmuljq | .cmac | .cmacj => decide (type = 3 ∨ type = 4)
  | .mac | .msub | .mova | .exta => decide (type ≤ 4 ∧ type ≠ 2)
  | .widen | .narrow => decide (type = 0 ∨ type = 1 ∨ type = 3)
  | .setl | .add | .sub | .abs | .neg | .shl | .sra | .srar | .splat | .get | .mov | .mulq | .tperm | .tperm2 | .cmpeq => decide (type ≤ 4)

end Sys2Proof.Machine
end

