-- ==== Sys2Proof/Machine/Flags.lean ====
section
/-!
DEFINITION. The flag computations of the Phimar core: saturation, which alone sets sat_flag (spec/05_phimar_scalar.md R183, R184; spec/06_phimar_vector.md R225,
R236), and the conditions of branches (R180, R190).
-/

namespace Sys2Proof.Machine

/-- Bring an exact result to w bits: with SAT it saturates to the signed range of w bits, and the flag says that it did; otherwise it wraps (R184, R225). -/
def reduce (w : Nat) (sat : Bool) (v : Int) : Nat × Bool :=
  if sat then (unsignedOf w (satInt w v), decide (satInt w v ≠ v)) else (unsignedOf w v, false)

/-- The shift of R183: sh is brought to −31 to 39; a right shift rounds. -/
def shiftRound (v sh : Int) : Int :=
  let n := clampInt (-31) 39 sh
  if 1 ≤ n then (v + 2 ^ (n.toNat - 1)) / 2 ^ n.toNat else v * 2 ^ (-n).toNat

/-- The block rounding of R236. -/
def rnd (x : Int) (e : Nat) : Int := if e = 0 then x else (x + 2 ^ (e - 1)) / 2 ^ e

/-- Leading bits of a w-bit value equal to its top bit. -/
def leadingSame (w : Nat) (x : Nat) : Nat :=
  let top := bitOf x (w - 1)
  ((List.range w).reverse.takeWhile fun i => bitOf x i == top).length

/-- The condition of a branch on the signed value of its register (R180). -/
def branchTaken (op : SOp) (v : Int) : Bool :=
  match op with
  | .beqz => decide (v = 0)
  | .bnez => decide (v ≠ 0)
  | .bltz => decide (v < 0)
  | .bgez => decide (0 ≤ v)
  | .bgtz => decide (0 < v)
  | .blez => decide (v ≤ 0)
  | _ => true

end Sys2Proof.Machine
end

