-- ==== Sys2Proof/Machine/Operands.lean ====
section
/-!
DEFINITION. What a syllable reads and where it writes: the registers and their renaming, control registers, the landing of writes in flight, and the address
space of a tile (spec/05_phimar_scalar.md R167 to R175, R181, R182, R187, R188, R196; spec/06_phimar_vector.md R214 to R221, R230 to R234, R240).
-/

namespace Sys2Proof.Machine

/-! ## Registers -/

/-- Scalar register r; s0 reads as 0 (R173). -/
def sGet (t : Tile) (r : Nat) : Nat := if r = 0 then 0 else (smGet (fun _ => (0 : Word)) t.sreg r).toNat

/-- The signed value of scalar register r. -/
def sInt (t : Tile) (r : Nat) : Int := signedOf 32 (sGet t r)

/-- The physical register that a vector register name denotes (R196). -/
def vPhys (t : Tile) (n : Nat) : Nat := if n < 16 then n else 16 + (n - 16 + t.vrb) % 16

/-- A vector register by name. -/
def vGet (t : Tile) (n : Nat) : Nat := (smGet (fun _ => (0 : VReg)) t.vreg (vPhys t n)).toNat

/-- A mask register; m0 reads as all ones (R220). -/
def mGet (t : Tile) (m : Nat) : Nat := if m = 0 then 2 ^ 128 - 1 else (smGet (fun _ => (0 : BitVec 128)) t.mreg m).toNat

/-- An accumulator as EXTA and EXPA read it. -/
def accGet (t : Tile) (a : Nat) : Int := signedOf 40 (smGet (fun _ => (0 : Acc)) t.acc a).toNat
/-- The accumulator value that the next accumulation builds on (R182). -/
def accRunGet (t : Tile) (a : Nat) : Int := signedOf 40 (smGet (fun _ => (0 : Acc)) t.accRun a).toNat
/-- A vector accumulator as VEXTA reads it. -/
def vaccGet (t : Tile) (a : Nat) : Nat := (smGet (fun _ => (0 : BitVec 5120)) t.vacc a).toNat
/-- The vector accumulator that the next accumulation builds on (R227). -/
def vaccRunGet (t : Tile) (a : Nat) : Nat := (smGet (fun _ => (0 : BitVec 5120)) t.vaccRun a).toNat

/-- Component c of width w of a register's bit stream (R214). -/
def compOf (w x c : Nat) : Int := signedOf w (bitsOf x (w * c) w)

/-- tct (R60): CT within 4 ns, its seconds and nanoseconds. Log: 19 DESIGN CHOICE. -/
def tctNow (s : State) : (Nat × Nat) × State :=
  let (n, s1) := takeFree s
  let i := now s + clampInt (-4) 4 (Config.tctError n) * 1000
  ((secOf i % 2 ^ 32, nsOf i), s1)

/-- Is the number one of R175 and R218? -/
def cregOk (n : Nat) : Bool := decide (n ≤ 0x014 ∨ n = 0x020 ∨ n = 0x021)

/-- What MFC reads (R175, R218), with the latching of the second halves. Log: 49 DEDUCED. -/
def cregRead (s : State) (t : Tile) (n : Nat) : Nat × Tile × State :=
  if n = 0x000 then (t.cycle.toNat % 2 ^ 32, { t with cycleHi := BitVec.ofNat 32 (t.cycle.toNat / 2 ^ 32) }, s)
  else if n = 0x001 then (t.cycleHi.toNat, t, s)
  else if n = 0x002 then (let (x, s1) := tctNow s; (x.1, { t with tctNs := BitVec.ofNat 32 x.2 }, s1))
  else if n = 0x003 then (t.tctNs.toNat, t, s)
  else if n = 0x004 then (t.budget, t, s)
  else if n = 0x005 then (ofBool t.satFlag, t, s)
  else if n = 0x006 then (t.vrb, t, s)
  else if n = 0x007 then (t.irqMask, t, s)
  else if n = 0x008 then (t.irqPend, t, s)
  else if n = 0x009 then (t.irqHold, t, s)
  else if n = 0x00A then (t.ipc.toNat, t, s)
  else if n = 0x00B then (t.epc.toNat, t, s)
  else if n = 0x00C then (t.ecause, t, s)
  else if n = 0x00D then (t.ebad.toNat, t, s)
  else if n = 0x00E then (t.ivec.toNat, t, s)
  else if n = 0x00F then (t.evec.toNat, t, s)
  else if n = 0x010 then (t.tmrSec.toNat, t, s)
  else if n = 0x011 then (t.tmrNs.toNat, t, s)
  else if n = 0x012 then (t.mbox.toNat, t, s)
  else if n = 0x013 then (t.taskinfo.toNat, t, s)
  else if n = 0x014 then (t.loops.length, t, s)
  else if n = 0x020 then (t.vl, t, s)
  else if n = 0x021 then (t.vxIndex + 256 * t.vxReason, t, s)
  else (0, t, s)

/-- What an MTC does when it lands (R175, R197, R218); a read-only register keeps its value. -/
def cregWrite (t : Tile) (n v : Nat) : Tile :=
  if n = 0x005 then { t with satFlag := bitOf v 0 == 1 }
  else if n = 0x006 then { t with vrb := v % 16 }
  else if n = 0x007 then { t with irqMask := v % 8 }
  else if n = 0x008 then { t with irqPend := andNot t.irqPend v }
  else if n = 0x00A then { t with ipc := BitVec.ofNat 32 v }
  else if n = 0x00B then { t with epc := BitVec.ofNat 32 v }
  else if n = 0x00E then { t with ivec := BitVec.ofNat 32 v }
  else if n = 0x00F then { t with evec := BitVec.ofNat 32 v }
  else if n = 0x010 then { t with tmrSec := BitVec.ofNat 32 v }
  else if n = 0x011 then { t with tmrNs := BitVec.ofNat 32 v, tmrArmed := true }
  else if n = 0x020 then { t with vl := min (v % 256) 128 }
  else if n = 0x021 then { t with vxIndex := min (v % 256) 128 }
  else t

/-! ## Writes in flight -/

/-- Put a write in flight with a latency of issue cycles (R187); s0 and m0 discard theirs (R173, R220). -/
def push (t : Tile) (lat : Nat) (dst : Dest) (val : Nat) : Tile :=
  match dst with
  | .s 0 | .mask 0 => t
  | _ => { t with flights := t.flights ++ [⟨lat - 1, dst, val⟩] }

/-- Put a saturation in flight with its result (R184). -/
def pushSat (t : Tile) (lat : Nat) (b : Bool) : Tile := if b then push t lat .sat 1 else t

/-- One write lands. -/
def landOne (t : Tile) (f : Flight) : Tile :=
  match f.dst with
  | .s r => { t with sreg := smPut (fun _ => (0 : Word)) r (BitVec.ofNat 32 f.val) t.sreg }
  | .v r mask => (let old := (smGet (fun _ => (0 : VReg)) t.vreg r).toNat
                  { t with vreg := smPut (fun _ => (0 : VReg)) r (BitVec.ofNat 1280 (andNot old mask + (f.val &&& mask))) t.vreg })
  | .mask m => { t with mreg := smPut (fun _ => (0 : BitVec 128)) m (BitVec.ofNat 128 f.val) t.mreg }
  | .acc a replace => (let t1 := { t with acc := smPut (fun _ => (0 : Acc)) a (BitVec.ofNat 40 f.val) t.acc }
                       if replace then { t1 with accRun := smPut (fun _ => (0 : Acc)) a (BitVec.ofNat 40 f.val) t1.accRun } else t1)
  | .vacc a => { t with vacc := smPut (fun _ => (0 : BitVec 5120)) a (BitVec.ofNat 5120 f.val) t.vacc }
  | .creg n => cregWrite t n f.val
  | .sat => { t with satFlag := true }

/-- Is the flight an accumulation that a landing MOVA of accumulator a supersedes (R182)? -/
def superseded (due : List Flight) (f : Flight) : Bool :=
  match f.dst with
  | .acc a false => due.any fun g => g.dst == .acc a true
  | _ => false

/-- An armed compare instant at or before tct raises TIMER and is disarmed (R197). Log: 19 DESIGN CHOICE. -/
def checkTimer (s : State) (t : Tile) : State × Tile :=
  if t.tmrArmed then
    (let (x, s1) := tctNow s
     if t.tmrSec.toNat < x.1 ∨ (t.tmrSec.toNat = x.1 ∧ t.tmrNs.toNat ≤ x.2) then (s1, raiseIrq { t with tmrArmed := false } 0) else (s1, t))
  else (s, t)

/-- Land the writes of a list in order, a saturation after the others (R184, R188), and take the effect of a timer that one of them arms. Writes that meet are settled as R245 says. -/
def landAll (s : State) (t : Tile) (due : List Flight) : State × Tile :=
  let t1 := (due.filter fun f => f.dst != .sat).foldl landOne t
  let t2 := noteSince (if due.any fun f => f.dst == .sat then { t1 with satFlag := true } else t1)
  if due.any fun f => f.dst == .creg 0x010 || f.dst == .creg 0x011 then checkTimer s t2 else (s, t2)

/-- An issue cycle begins: the writes that are due land, the others come one cycle nearer (R187). -/
def land (s : State) (t : Tile) : State × Tile :=
  let due := t.flights.filter fun f => f.left == 0
  let rest := (t.flights.filter fun f => f.left != 0 && !superseded due f).map fun f => { f with left := f.left - 1 }
  landAll s { t with flights := rest } due

/-! ## Elements (R216, R221) -/

/-- The element count of a type. -/
def eltCount (t : Tile) (type : Nat) : Nat := t.vl / unitsOf type

/-- The active elements among the first n. -/
def activeElts (t : Tile) (m n : Nat) : List Nat := (List.range n).filter fun i => bitOf (mGet t m) i == 1

/-- The components of a list of elements of a type. -/
def compsOf (type : Nat) (es : List Nat) : List Nat := es.flatMap fun i => (List.range (perElt type)).map fun j => perElt type * i + j

/-- Lay values of width w into a register at their components: the value and the mask of the bits written, and whether one saturated (R225). Elements of 10 bits lie as R7 says. -/
def pack (w : Nat) (sat : Bool) (xs : List (Nat × Int)) : Nat × Nat × Bool :=
  xs.foldl (fun a x =>
    let r := reduce w sat x.2
    (a.1 + r.1 * 2 ^ (w * x.1), a.2.1 + (2 ^ w - 1) * 2 ^ (w * x.1), a.2.2 || r.2)) (0, 0, false)

/-! ## The address space of a tile (R167 to R170) -/

/-- Where an access of a tile goes: a flat memory address, in the CSM or the scratchpad, or a register of the window by its BAR0 offset. -/
inductive Place where
  | mem (a : Nat) (csm : Bool)
  | reg (a : Nat)
deriving DecidableEq, Repr

/-- Do the bytes lo to hi of the CSM lie in one window of the task that permits the direction (R168)? -/
def winAllows (t : Tile) (write : Bool) (lo hi : Nat) : Bool :=
  t.wins.any fun w => bitOf w.1 (if write then 1 else 0) == 1 && decide (bitsOf w.1 12 11 ≤ lo / 4096 ∧ hi / 4096 ≤ bitsOf w.2 12 11)

/-- The BAR0 offset of byte x of the register window of physical tile p's cluster (R37, R39, R169). -/
def windowOffset (p x : Nat) : Nat := tilBase (9 * (p / 9)) + x

/-- Where a scalar access of a tile goes; none raises ACCESS (R167 to R169). -/
def placeOf (p : Nat) (t : Tile) (a size : Nat) (write : Bool) : Option Place :=
  if a + size ≤ 0x80000 then some (.mem (scratchFlat p + a) false)
  else if 0x08000000 ≤ a ∧ a + size ≤ 0x08800000 then
    (if winAllows t write (a - 0x08000000) (a - 0x08000000 + size - 1) then some (.mem (csmFlat (p / 9) + (a - 0x08000000)) true) else none)
  else if 0x0C000000 ≤ a ∧ a + size ≤ 0x0C100000 ∧ size = 4 then some (.reg (windowOffset p (a - 0x0C000000)))
  else none

/-- May a vector access of the tile touch the byte at address a (R240)? -/
def byteOk (t : Tile) (write : Bool) (a : Nat) : Bool :=
  decide (a < 0x80000) || (decide (0x08000000 ≤ a ∧ a < 0x08800000) && winAllows t write (a - 0x08000000) (a - 0x08000000))

/-- Is the address in the CSM's region? -/
def tileCsm (a : Nat) : Bool := decide (0x08000000 ≤ a ∧ a < 0x08800000)

/-- The requester that a physical tile's accesses to the CSM come from (R16, R19): its logical tile's, or the unused spare's. -/
def tileRequester (s : State) (p : Nat) : Requester := if h : logicalOf s p < 8 then .tile ⟨logicalOf s p, h⟩ else .spare

/-- The CSM cycle of a tile's present cycle, modulo 16 (R20). -/
def csmCycle (t : Tile) : Nat := (t.csm0 + t.cycle.toNat) % 16

/-- The offset of a vector address from the base of its region (R232). -/
def regionOfs (a : Nat) : Nat := if tileCsm a then a - 0x08000000 else a

/-- The flat address of a byte of a vector access by its address. -/
def vecFlat (p a : Nat) : Nat := if tileCsm a then csmFlat (p / 9) + (a - 0x08000000) else scratchFlat p + a

/-- Is the byte at a flat address in a granule that reads uncorrectable (R254, R261)? -/
def byteBad (s : State) (a : Nat) : Bool := granBad s (a / 32)

/-- The bytes of element i of a stream of width w: first and one past the last (R230). -/
def eltBytes (w i : Nat) : Nat × Nat := (w * i / 8, (w * i + w + 7) / 8)

end Sys2Proof.Machine
end

