-- ==== Sys2Proof/Machine/VectorAlu.lean ====
section
/-!
DEFINITION. What each VX operation computes and puts in flight (spec/06_phimar_vector.md R216, R217, R220, R221, R224 to R229, R235 to R239, R244). t is the core as
the syllable reads it, u the core that collects the writes of the bundle.
-/

namespace Sys2Proof.Machine

/-- Write values of width w into the components of a vector register, with a latency (R187, R221, R225). -/
def vWrite (t u : Tile) (vd lat w : Nat) (sat : Bool) (xs : List (Nat × Int)) : Tile :=
  let r := pack w sat xs
  pushSat (push u lat (.v (vPhys t vd) r.2.1) r.1) lat r.2.2

/-- The active components of a syllable of a type (R216, R221). -/
def actComps (t : Tile) (m type : Nat) : List Nat := compsOf type (activeElts t m (eltCount t type))

/-- A componentwise operation of one source (class A). -/
def vMap1 (t u : Tile) (sat : Bool) (vd va m type : Nat) (f : Nat → Int → Int) : Tile :=
  let w := compW type
  let a := vGet t va
  vWrite t u vd 2 w sat ((actComps t m type).map fun c => (c, f c (compOf w a c)))

/-- A componentwise operation of two sources, with a latency. -/
def vMap2 (t u : Tile) (lat : Nat) (sat : Bool) (vd va vb m type : Nat) (f : Int → Int → Int) : Tile :=
  let w := compW type
  let a := vGet t va
  let b := vGet t vb
  vWrite t u vd lat w sat ((actComps t m type).map fun c => (c, f (compOf w a c) (compOf w b c)))

/-- The product of complex elements i of a and b, or of a and conj(b): component c of it. -/
def cProd (w a b : Nat) (cj : Bool) (c : Nat) : Int :=
  let i := c / 2
  let ar := compOf w a (2 * i)
  let ai := compOf w a (2 * i + 1)
  let br := compOf w b (2 * i)
  let bi := if cj then -(compOf w b (2 * i + 1)) else compOf w b (2 * i + 1)
  if c % 2 = 0 then ar * br - ai * bi else ar * bi + ai * br

/-- The rounding of VMULQ (R224). -/
def qRound (w : Nat) (x : Int) : Int := (x + 2 ^ (w - 2)) / 2 ^ (w - 1)

/-- VCMULQ and VCMULJQ. -/
def vCmul (t u : Tile) (cj sat : Bool) (vd va vb m type : Nat) : Tile :=
  let w := compW type
  let a := vGet t va
  let b := vGet t vb
  vWrite t u vd 3 w sat ((actComps t m type).map fun c => (c, qRound w (cProd w a b cj c)))

/-- Write components into a vector accumulator: the next accumulation builds on it at once, VEXTA reads it three cycles later (R227, R244). -/
def accWrite (u : Tile) (a : Nat) (sat : Bool) (xs : List (Nat × Int)) : Tile :=
  let r := pack 40 sat xs
  let v := andNot (vaccRunGet u a) r.2.1 + r.1
  pushSat (push { u with vaccRun := smPut (fun _ => (0 : BitVec 5120)) a (BitVec.ofNat 5120 v) u.vaccRun } 3 (.vacc a) v) 3 r.2.2

/-- VMAC, VMSUB, VCMAC and VCMACJ: add f of each component to the accumulator (R226). -/
def vAcc (t u : Tile) (sat : Bool) (a m type : Nat) (f : Nat → Int) : Tile :=
  let run := vaccRunGet t a
  accWrite u a sat ((actComps t m type).map fun c => (c, compOf 40 run c + f c))

/-- The offset C·H of R226; H is ignored where C is 128. -/
def halfOfs (type h : Nat) : Nat := if comps type = 128 then 0 else comps type * h

/-- Write a whole mask register (classes A and K). -/
def mWrite (u : Tile) (lat md v : Nat) : Tile := push u lat (.mask md) v

/-- The compare syllables: bits of inactive elements are written 0 (R224). -/
def vCmp (t u : Tile) (md va vb m type : Nat) (f : Int → Int → Bool) : Tile :=
  let w := compW type
  let a := vGet t va
  let b := vGet t vb
  mWrite u 2 md (((activeElts t m (eltCount t type)).filter fun i =>
    (List.range (perElt type)).all fun j => f (compOf w a (perElt type * i + j)) (compOf w b (perElt type * i + j))).foldl (fun x i => x + 2 ^ i) 0)

/-- VTPERM and VTPERM2 with k registers of table (R229). -/
def vPerm (t u : Tile) (k vd vi vt m type : Nat) : Tile :=
  let w := eltW type
  let n := emax type
  let idx := vGet t vi
  let es := activeElts t m (eltCount t type)
  let val := fun i =>
    let x := bitsOf idx (10 * i) 10
    if x < k * n then bitsOf (vGet t ((vt + x / n) % 32)) (w * (x % n)) w else 0
  let r := es.foldl (fun (a : Nat × Nat) i => (a.1 + val i * 2 ^ (w * i), a.2 + (2 ^ w - 1) * 2 ^ (w * i))) (0, 0)
  push u 3 (.v (vPhys t vd) r.2) r.1

/-- The element type of twice the width of a source type of VWIDEN. -/
def wider (type : Nat) : Nat := if type = 0 then 1 else if type = 1 then 2 else 4

/-- Block floating point: the exponent that a block index selects, taken as at most 15 (R236). Log: 52 DEDUCED. -/
def expAt (es b : Nat) : Nat := min 15 (bitsOf es (10 * b) 10)

/-- The sample index s of R235 for j. -/
def bfpSample (rs h j : Nat) : Nat := min (rs % 4096) 2240 + 32 * h + j

/-- The least e at which the block roundings of both components lie in 10 bits (R238). -/
def leastExp (i q : Int) : Nat → Nat → Nat
  | e, 0 => e
  | e, k + 1 =>
    let ok := fun (x : Int) => decide (-512 ≤ rnd x e ∧ rnd x e ≤ 511)
    if ok i && ok q then e else leastExp i q (e + 1) k

/-- VBEXP (R238): for each block reached, the maximum of the present element, which is signed (R214), and the exponents of its samples. -/
def vBexp (t u : Tile) (vd va rs h : Nat) : Tile :=
  let a := vGet t va
  let old := vGet t vd
  let one := fun (m : List (Nat × Int)) (j : Nat) =>
    let b := bfpSample rs h j / 18
    let e : Int := (leastExp (compOf 20 a (2 * j)) (compOf 20 a (2 * j + 1)) 0 15 : Nat)
    let cur := match m.find? fun x => x.1 == b with | some x => x.2 | none => compOf 10 old b
    (m.filter fun x => x.1 != b) ++ [(b, max cur e)]
  let bs := (List.range (t.vl / 4)).foldl one []
  vWrite t u vd 3 10 false bs

/-- VNORMB, VPACK10 and VUNPACK10 (R237, R239): the components of samples j, read at place src and written at place dst of width w. -/
def vBlock (t u : Tile) (vd va vb rs h : Nat) (sw dw : Nat) (srcH dstH : Bool) (sat : Bool) (f : Int → Nat → Int) : Tile :=
  let a := vGet t va
  let es := vGet t vb
  let one := fun (j : Nat) =>
    let e := expAt es (bfpSample rs h j / 18)
    let sj := if srcH then 32 * h + j else j
    let dj := if dstH then 32 * h + j else j
    [(2 * dj, f (compOf sw a (2 * sj)) e), (2 * dj + 1, f (compOf sw a (2 * sj + 1)) e)]
  vWrite t u vd 3 dw sat ((List.range (t.vl / 4)).flatMap one)

/-- A VX syllable issues (R224): u with its writes put in flight. va and vb name scalar, mask or vector registers as the operation states; for the block
floating point syllables, 8·m + type is the word's bits [6:0]. -/
def vxExec (t u : Tile) (op : VOp) (sat : Bool) (vd va vb m type : Nat) : Tile :=
  let w := compW type
  let amt := sGet t vb % 64
  let rs := sGet t (2 * m + type / 4)
  let hb := type / 2 % 2
  let h := vb % 2
  match op with
  | .nop => u
  | .setl => (let g := min (sGet t va) (emax type)
              push (push u 1 (.s vd) g) 1 (.creg 0x020) (g * unitsOf type))
  | .add => vMap2 t u 2 sat vd va vb m type (· + ·)
  | .sub => vMap2 t u 2 sat vd va vb m type (· - ·)
  | .min => vMap2 t u 2 sat vd va vb m type min
  | .max => vMap2 t u 2 sat vd va vb m type max
  | .abs => vMap1 t u sat vd va m type fun _ x => x.natAbs
  | .neg => vMap1 t u sat vd va m type fun _ x => -x
  | .conj => vMap1 t u sat vd va m type fun c x => if c % 2 = 1 then -x else x
  | .shl => vMap1 t u sat vd va m type fun _ x => x * 2 ^ amt
  | .sra => vMap1 t u sat vd va m type fun _ x => x / 2 ^ amt
  | .srar => vMap1 t u sat vd va m type fun _ x => rnd x (min amt w)
  | .splat => vMap1 t u false vd 0 m type fun c _ => if perElt type = 2 ∧ c % 2 = 1 then sInt t vb else sInt t va
  | .get => (let c := sGet t vb
             push u 2 (.s vd) (if comps type ≤ c then 0 else unsignedOf 32 (compOf w (vGet t va) c)))
  | .mov => vMap1 t u false vd va m type fun _ x => x
  | .mulq => vMap2 t u 3 sat vd va vb m type fun a b => qRound w (a * b)
  | .cmulq => vCmul t u false sat vd va vb m type
  | .cmuljq => vCmul t u true sat vd va vb m type
  | .mac => vAcc t u sat (vd % 4) m type fun c => compOf w (vGet t va) c * compOf w (vGet t vb) c
  | .msub => vAcc t u sat (vd % 4) m type fun c => -(compOf w (vGet t va) c * compOf w (vGet t vb) c)
  | .cmac => vAcc t u sat (vd % 4) m type fun c => cProd w (vGet t va) (vGet t vb) false c
  | .cmacj => vAcc t u sat (vd % 4) m type fun c => cProd w (vGet t va) (vGet t vb) true c
  | .mova => (let k := halfOfs type (vd / 4 % 2)
              accWrite u (vd % 4) false ((actComps t m type).map fun c => (c + k, compOf w (vGet t va) c)))
  | .exta => (let k := halfOfs type (va / 4 % 2)
              vWrite t u vd 2 w sat ((actComps t m type).map fun c => (c, shiftRound (compOf 40 (vaccGet t (va % 4)) (c + k)) (sInt t vb))))
  | .clra => [0, 1, 2, 3].foldl (fun u a => if bitOf vd a = 1 then accWrite u a false ((List.range 128).map fun c => (c, 0)) else u) u
  | .tperm => vPerm t u 2 vd va vb m type
  | .tperm2 => vPerm t u 4 vd va vb m type
  | .widen => (let r := wider type
               let k := comps r * h
               vWrite t u vd 2 (compW r) false ((actComps t m r).map fun c => (c, compOf w (vGet t va) (c + k))))
  | .narrow => (let r := wider type
                let es := (List.range (eltCount t r)).filter fun i => bitOf (mGet t m) (i + emax r * h) == 1
                vWrite t u vd 2 w sat ((compsOf r es).map fun c => (c + comps r * h, compOf (compW r) (vGet t va) c)))
  | .bexp => vBexp t u vd va rs hb
  | .normb => vBlock t u vd va vb rs hb 20 20 false false sat rnd
  | .pack10 => vBlock t u vd va vb rs hb 20 10 false true true rnd
  | .unpack10 => vBlock t u vd va vb rs hb 10 20 true false sat fun x e => x * 2 ^ e
  | .cmpeq => vCmp t u (vd % 16) va vb m type (fun a b => a == b)
  | .cmplt => vCmp t u (vd % 16) va vb m type (fun a b => decide (a < b))
  | .cmple => vCmp t u (vd % 16) va vb m type (fun a b => decide (a ≤ b))
  | .mand => mWrite u 1 (vd % 16) (mGet t (va % 16) &&& mGet t (vb % 16))
  | .mor => mWrite u 1 (vd % 16) (mGet t (va % 16) ||| mGet t (vb % 16))
  | .mxor => mWrite u 1 (vd % 16) (mGet t (va % 16) ^^^ mGet t (vb % 16))
  | .mandn => mWrite u 1 (vd % 16) (andNot (mGet t (va % 16)) (mGet t (vb % 16)))
  | .msetn => mWrite u 1 (vd % 16) (2 ^ min (sGet t va) 128 - 1)
  | .mtov => push u 2 (.v (vPhys t vd) (2 ^ 1280 - 1))
      ((List.range 128).foldl (fun x i => x + bitOf (mGet t (va % 16)) i * 2 ^ (10 * i)) 0)
  | .mcnt => push u 1 (.s vd) (popCount 128 (mGet t (va % 16)))

end Sys2Proof.Machine
end

