-- ==== Sys2Proof/Machine/EngineIo.lean ====
section
/-!
DEFINITION. What the engines share: reading and writing the CSM with the poison rule of R257, B10 and CX20 records (spec/08_port_processing.md R294 to R296), and the
clamps of their descriptors (R144).
-/

namespace Sys2Proof.Machine

/-- A complex sample. -/
abbrev Cplx := Int × Int

/-- An engine operation as it goes: the state, whether a granule it read is poisoned or uncorrectable, the ranges it has written (flat address and length), and, for the
check-value units, what it has read and written, newest first, with the device address. -/
structure EngIo where
  st : State
  bad : Bool
  wrote : List (Nat × Nat)
  ins : List (Nat × List Byte) := []
  outs : List (Nat × List Byte) := []

/-- An operation begins. -/
def engOpen (s : State) : EngIo := ⟨s, false, [], [], []⟩

/-- The device address of an offset in the CSM at a flat base. -/
def csmDev (base off : Nat) : Nat := 2 * 2 ^ 60 + ((base - 2 ^ 61) / 2 ^ 23 % 8) * 2 ^ 24 + off

/-- Read len bytes from an offset in the CSM at a flat base; a byte beyond the CSM is a free value. Log: 62 DESIGN CHOICE. -/
def engRead (o : EngIo) (base off len : Nat) : List Byte × EngIo :=
  let n := min len (2 ^ 23 - off)
  let s1 := readBad o.st (base + off) n
  let bs := rdBytes s1 (base + off) n ++ (List.range (len - n)).map fun i => Config.beyondCsm (off + n + i)
  (bs, { o with st := s1, bad := o.bad || badRead s1 (base + off) n, ins := (csmDev base off, bs) :: o.ins })

/-- Write bytes at an offset in the CSM at a flat base; what lies beyond the CSM has no place. Log: 62 DESIGN CHOICE. -/
def engWrite (o : EngIo) (base off : Nat) (bs : List Byte) : EngIo :=
  let n := min bs.length (2 ^ 23 - off)
  { o with st := wrMem o.st (base + off) (bs.take n), wrote := (base + off, n) :: o.wrote, outs := (csmDev base off, bs) :: o.outs }

/-- Mark n granules from g as poisoned. -/
def poisonFrom (s : State) (g : Nat) : Nat → State
  | 0 => s
  | n + 1 => poisonFrom (setPoison s g true) (g + 1) n

/-- An operation ends: where it read a bad granule, what it wrote is marked poisoned (R257). -/
def engClose (o : EngIo) : State :=
  if o.bad then o.wrote.foldl (fun s w => poisonFrom s (w.1 / 32) (granules w.1 w.2)) o.st else o.st

/-- The bytes of an operation pass a port of engine e of cluster k as one unit of computation (R287): kind 4 its input port, kind 5 its output port. No engine marks records.
Log: 64 DEDUCED. -/
def engPort (s : State) (k kind e : Nat) (l : List (Nat × List Byte)) : State :=
  match l.reverse with
  | [] => s
  | x :: t => cvuEngPass s k kind e ((x :: t).flatMap (·.2)) x.1 (Config.cvuNoPort (16 + e)) (Config.cvuNoSeq (16 + e))

/-- An operation of engine e of cluster k ends (R257, R287). -/
def engDone (k e : Nat) (o : EngIo) : State := engPort (engPort (engClose o) k 4 e o.ins) k 5 e o.outs

/-! ## Records -/

/-- Cut a list into m pieces of n. -/
def chunks {α : Type} (n : Nat) : Nat → List α → List (List α)
  | 0, _ => []
  | m + 1, l => l.take n :: chunks n m (l.drop n)

/-- Round a length up to a multiple of m. -/
def padTo (m n : Nat) : Nat := ceilDiv n m * m

/-- A CX20 sample from its five bytes (R230). Packed as R7 says. -/
def cx20Of (bs : List Byte) : Cplx := (signedOf 20 (leNat bs), signedOf 20 (leNat bs / 2 ^ 20))

/-- The five bytes of a CX20 sample. -/
def cx20Bytes (x : Cplx) : List Byte := leBytes 5 (unsignedOf 20 x.1 + 2 ^ 20 * unsignedOf 20 x.2)

/-- Saturate a sample to CX20 (R225). -/
def satCx20 (x : Cplx) : Cplx := (satInt 20 x.1, satInt 20 x.2)

/-- The samples of a B10 block from its 45 bytes of mantissas and its exponent (R294). -/
def b10Samples (v e : Nat) : List Cplx :=
  (List.range 18).map fun k => (signedOf 10 (v / 2 ^ (20 * k)) * 2 ^ e, signedOf 10 (v / 2 ^ (20 * k + 10)) * 2 ^ e)

/-- The exponent of a block of samples (R238, R295). -/
def blockExp (xs : List Cplx) : Nat := xs.foldl (fun a x => max a (leastExp x.1 x.2 0 15)) 0

/-- A mantissa (R295). -/
def b10Mant (x : Int) (e : Nat) : Nat := unsignedOf 10 (satInt 10 (rnd x e))

/-- The mantissas of a block at an exponent, in the CX10 layout: 360 bits (R295). Packed as R7 says. -/
def b10Word (e : Nat) : Nat → List Cplx → Nat
  | _, [] => 0
  | k, x :: t => (b10Mant x.1 e + 2 ^ 10 * b10Mant x.2 e) * 2 ^ (20 * k) + b10Word e (k + 1) t

/-- A block of B10: its 360 bits of mantissas and its exponent. -/
def b10Of (xs : List Cplx) : Nat × Nat := (b10Word (blockExp xs) 0 xs, blockExp xs)

/-- The exponent plane of a list of exponents: nibble b in the layout of VLDX. -/
def nibbles : List Nat → List Byte
  | [] => []
  | [a] => [BitVec.ofNat 8 (a % 16)]
  | a :: b :: t => BitVec.ofNat 8 (a % 16 + 16 * (b % 16)) :: nibbles t

/-- Complete a byte list with zeros to a multiple of m. -/
def padZero (m : Nat) (bs : List Byte) : List Byte := bs ++ List.replicate (padTo m bs.length - bs.length) 0

/-- The bytes of a record of samples: B10 (R296) or CX20. -/
def recordBytes (b10 : Bool) (xs : List Cplx) : List Byte :=
  if b10 then
    (let bs := (chunks 18 (ceilDiv xs.length 18) xs).map b10Of
     padZero 160 (bs.flatMap fun b => leBytes 45 b.1) ++ padZero 64 (nibbles (bs.map (·.2))))
  else xs.flatMap cx20Bytes

/-- Read n samples of a record at an offset: B10 (R296) or CX20. -/
def readRecord (o : EngIo) (base : Nat) (b10 : Bool) (off n : Nat) : List Cplx × EngIo :=
  if b10 then
    (let g := ceilDiv n 18
     let (ms, o1) := engRead o base off (45 * g)
     let (es, o2) := engRead o1 base (off + padTo 160 (45 * g)) (ceilDiv g 2)
     let e := fun (b : Nat) => bitsOf (getAt (0 : Byte) es (b / 2)).toNat (4 * (b % 2)) 4
     ((((chunks 45 g ms).zip (List.range g)).flatMap fun x => b10Samples (leNat x.1) (e x.2)).take n, o2))
  else
    (let (bs, o1) := engRead o base off (5 * n)
     ((chunks 5 n bs).map cx20Of, o1))

/-- Read several records. -/
def readRecords (o : EngIo) (base : Nat) (b10 : Bool) (n : Nat) : List Nat → List (List Cplx) × EngIo
  | [] => ([], o)
  | a :: t =>
    let (x, o1) := readRecord o base b10 a n
    let (xs, o2) := readRecords o1 base b10 n t
    (x :: xs, o2)

/-! ## Descriptors -/

/-- How many values differ from what they are taken as. -/
def clampCount (xs : List (Nat × Nat)) : Nat := (xs.filter fun x => x.1 != x.2).length

/-- An argument of a task. -/
def argOf (n : Node) (i : Nat) : Nat := getAt 0 n.cmd.args i

/-- An address of a descriptor with a multiple of a stride: 32-bit arithmetic. -/
def strideAt (a stride i : Nat) : Nat := (a + stride * i) % 2 ^ 32

/-- The saturating sum of a counter list of samples that left the CX20 range: one for each component. -/
def satCount (xs : List Cplx) : Nat :=
  xs.foldl (fun a x => a + ofBool (satInt 20 x.1 != x.1) + ofBool (satInt 20 x.2 != x.2)) 0

end Sys2Proof.Machine
end

