-- ==== Sys2Proof/Machine/Bme.lean ====
section
/-!
DEFINITION. The beam engine and the coupling ring (spec/08_port_processing.md R318 to R322; spec/01_hierarchy.md R29 to R36).
-/

namespace Sys2Proof.Machine

/-- A BME operation with its sizes bounded by the task's (R144, R319, R320). -/
structure BmeOp where
  op : Nat
  ifmt : Bool
  ofmt : Bool
  ring : Bool
  acc : Bool
  i : Nat
  o : Nat
  shift : Nat
  r : Nat
  ng : Nat
  inA : Nat
  inS : Nat
  wA : Nat
  outA : Nat
  outS : Nat
  rquad : Nat
  rcl : Nat
  rA : Nat
deriving DecidableEq, Repr

/-- Read a BME descriptor's 288 bits for a task's arguments: the operation, and the number of fields clamped. -/
def bmeOp (d a1 a2 a3 : Nat) : BmeOp × Nat :=
  let f := fun (ofs lo w : Nat) => bitsOf d (8 * ofs + lo) w
  let i := clampNat 1 192 (f 0 8 8)
  let o := clampNat 1 128 (f 0 16 8)
  let r := clampNat 1 65535 (f 4 0 16)
  let ng := clampNat 1 r (f 4 16 16)
  let dr := clampNat 1 65535 a1
  let move := bitsOf a3 24 2 = 3
  ({ op := f 0 0 2, ifmt := f 0 2 1 == 1, ofmt := f 0 3 1 == 1, ring := f 0 4 1 == 1, acc := f 0 5 1 == 1 && f 0 4 1 != 1,
     i := min i (clampNat 1 192 (bitsOf a2 0 8)), o := if move then 1 else min o (clampNat 1 128 (bitsOf a2 8 8)), shift := f 0 24 5,
     r := min r dr, ng := min (min ng (clampNat 1 dr (bitsOf a2 16 16))) (min r dr),
     inA := f 8 0 32, inS := f 0xC 0 32, wA := f 0x10 0 32, outA := f 0x14 0 32, outS := f 0x18 0 32, rquad := f 0x1C 0 2, rcl := f 0x1C 4 3, rA := f 0x20 0 32 },
   clampCount [(f 0 8 8, i), (if f 0 0 2 = 3 then o else f 0 16 8, o), (f 4 0 16, r), (f 4 16 16, ng)])

/-- The product of two complex numbers, the first conjugated where cj is set. -/
def cmul (cj : Bool) (w x : Cplx) : Cplx :=
  let wi := if cj then -w.2 else w.2
  (w.1 * x.1 - wi * x.2, w.1 * x.2 + wi * x.1)

/-- The sum of two complex numbers. -/
def cadd (a b : Cplx) : Cplx := (a.1 + b.1, a.2 + b.2)

/-- One output of MATRIX or MATRIX_CONJ (R318): weights by g × O × I + o × I + i, inputs by i. -/
def bmeMatrix (b : BmeOp) (w : List Cplx) (ins : List (List Cplx)) (o : Nat) : List Cplx :=
  (List.range b.r).map fun k =>
    let g := k * b.ng / b.r
    ((List.range b.i).map fun i => cmul (b.op == 1) (getAt (0, 0) w ((g * b.o + o) * b.i + i)) (getAt (0, 0) (getAt [] ins i) k)).foldl cadd (0, 0)

/-- The exact results of an operation, output by output (R318). -/
def bmeResults (b : BmeOp) (x : EngIo) (base : Nat) : List (List Cplx) × EngIo :=
  if b.op < 2 then
    (let (ws, x1) := readRecord x base false b.wA (b.ng * b.o * b.i)
     let (ins, x2) := readRecords x1 base b.ifmt b.r ((List.range b.i).map (strideAt b.inA b.inS))
     ((List.range b.o).map (bmeMatrix b ws ins), x2))
  else if b.op = 2 then
    (List.range b.o).foldl (fun a o =>
      let (ins, x1) := readRecords a.2 base b.ifmt b.r ((List.range b.i).map fun i => strideAt (strideAt b.inA b.inS i) b.outS o)
      (a.1 ++ [(List.range b.r).map fun k => (ins.map fun v => getAt (0, 0) v k).foldl cadd (0, 0)], x1)) ([], x)
  else readRecords x base b.ifmt b.r ((List.range b.i).map (strideAt b.inA b.inS))

/-- A result with what the output holds, reduced by the rounding right shift (R318), before saturation. -/
def bmeReduce (b : BmeOp) (v held : List Cplx) : List Cplx :=
  (v.zip (if b.acc then held else List.replicate v.length (0, 0))).map fun x =>
    let y := cadd x.1 x.2
    (rnd y.1 b.shift, rnd y.2 b.shift)

/-- The records of an operation, with the offset of each from output 0, and the saturations. -/
def bmeOutputs (b : BmeOp) (x : EngIo) (base : Nat) : List (Nat × List Byte) × Nat × EngIo :=
  let (vs, x1) := bmeResults b x base
  (vs.zip (List.range vs.length)).foldl (fun a v =>
    let off := b.outS * v.2
    let (held, x2) := if b.acc then readRecord a.2.2 base b.ofmt (strideAt b.outA off 1) b.r else ([], a.2.2)
    let y := bmeReduce b v.1 held
    (a.1 ++ [(off, recordBytes b.ofmt (y.map satCx20))], a.2.1 + satCount y, x2)) ([], 0, x1)

/-- Keep the first n bytes of a list of records. -/
def limitBytes : Nat → List (Nat × List Byte) → List (Nat × List Byte)
  | _, [] => []
  | n, (a, bs) :: t => (a, bs.take n) :: limitBytes (n - bs.length) t

/-- Count a transfer on every link of its path (R321). -/
def countXfer (s : State) (q dir : Nat) : Nat → State
  | 0 => s
  | h + 1 => countXfer (addF s (BME_RING_XFER_XFERS q dir) 1) (if dir = 0 then (q + 1) % 4 else (q + 3) % 4) dir h

/-- Run a BME operation of a node (R318 to R321): its writes, counters and transfer; and whether it read a bad granule. -/
def bmeRun (s : State) (j : Job) (n : Node) (p : Plan) : State × Bool :=
  let base := csmFlat n.cluster
  let (db, x0) := engRead (engOpen s) base (argOf n 0) 0x24
  let (b, c) := bmeOp (leNat db) (argOf n 1) (argOf n 2) (argOf n 3)
  let (outs, sat, x1) := bmeOutputs b x0 base
  let q := n.cluster / 8
  let x2 := { x1 with st := addF (addF x1.st (BME_CLAMP_CLAMP n.cluster) c) (BME_CNT_SAT_SAT n.cluster) sat }
  if b.ring = false then
    let x3 := outs.foldl (fun x w => engWrite x base (strideAt b.outA w.1 1) w.2) x2
    (engDone n.cluster 1 x3, x3.bad)
  else
    let ok := b.rquad ≠ q ∧ inQuad p b.rquad = true
    let dest := if ok then b.rquad else p.home
    let x3 := { x2 with st := if ok then x2.st else addF x2.st (BME_CLAMP_CLAMP n.cluster) 1 }
    let dbase := csmFlat (8 * dest + b.rcl)
    let lim := limitBytes (bitsOf (argOf n 3) 0 24) outs
    if dest = q then
      let x4 := lim.foldl (fun x w => engWrite x dbase (strideAt b.rA w.1 1) w.2) x3
      (engDone n.cluster 1 x4, x4.bad)
    else
      let path := ringPath p q dest
      let ws := (lim.map fun w => (strideAt b.rA w.1 1, w.2)).filter fun w => decide (w.1 < 2 ^ 23)
      let s4 := { x3.st with xfers := x3.st.xfers ++
        [⟨n.id, j.recNode, q, dest, path.2, ws.map fun w => (dbase + w.1, w.2.take (2 ^ 23 - w.1)), x3.bad⟩] }
      (engDone n.cluster 1 { x3 with st := countXfer s4 q path.2 path.1, outs := (ws.map fun w => (csmDev dbase w.1, w.2)).reverse }, x3.bad)

/-! ## The coupling ring -/

/-- Drop a coupled plan by the device (R35): it is no longer in force from here in any member, its accepted jobs end FAILED_HW with a detail, and the drop is reported. -/
def dropCoupled (s : State) (ci detail : Nat) : State :=
  let ps := s.plans.filter fun p => p.ci == ci && p.coupled
  if ps.isEmpty then s
  else
    let s1 := { s with plans := s.plans.filter fun p => !(p.ci == ci && p.coupled) }
    let s2 := failJobs s1 (fun j => j.cmd.ci == ci && ps.any fun p => p.seq == j.planSeq) 0x20 detail
    let quads := (ps.flatMap fun p => p.parts.map (·.quad)).eraseDups
    let s3 := quads.foldl (fun s q => lowerOps (refresh (setF s (ADM_IRQ_PLAN_DROPPED q) 1) (qSrc q 184)) q) s2
    intPulse s3 792

/-- The two ends of a link: quadrant and link index. -/
def linkEnds (q k : Nat) : List (Nat × Nat) := [(q, k), (if k = 0 then (q + 1) % 4 else (q + 3) % 4, 1 - k)]

/-- Set the state of both ends of a link (R36, R438). -/
def setLink (s : State) (q k v : Nat) : State :=
  (linkEnds q k).foldl (fun s e => refresh (setF s (BME_RING_STAT_STATE e.1 e.2) v) (qSrc e.1 191)) s

/-- Does a plan use a link, in either direction? -/
def usesLink (p : Plan) (q k : Nat) : Bool := (linkEnds q k).any fun e => ringOf e.1 e.2 p != 0

/-- When a link began to retrain. -/
def linkSince (s : State) (q k : Nat) : Int := smGet (fun _ => 0) s.retrains (2 * q + k)

/-- Has the link a slot in each direction that no plan reserves (R36)? -/
def linkFree (s : State) (q k : Nat) : Bool := (linkEnds q k).all fun e => decide (0 < leftOf s (ringOf e.1 e.2) 64)

/-- A link retrains (R36): from now, where a slot of it is free, and both of its ends show it; otherwise it is to retrain once one is. Log: 143 DEDUCED. -/
def startRetrain (s : State) (q k : Nat) : State :=
  if getF s (BME_RING_STAT_STATE q k) ≠ 0 then s
  else if linkFree s q k then
    (let s1 := (linkEnds q k).foldl (fun s e => { s with retrains := smPut (fun _ => 0) (2 * e.1 + e.2) (now s) s.retrains }) s
     setLink { s1 with retrainDue := s1.retrainDue.filter fun x => !(linkEnds q k).contains x } q k 1)
  else if s.retrainDue.contains (q, k) then s
  else { s with retrainDue := s.retrainDue ++ [(q, k)] }

/-- RING_TRANSFER_RECEIVE (R36, R321, R497): the transfer that a node sent arrives. Its data are written where its check passes; one that fails is not used, its job ends
FAILED_HW with detail RING and the index of the sending task, and the link retrains. -/
def execRingTransferReceive (node : BitVec 23) (good : Bool) (s : State) : Res :=
  match takeFirst (fun x => x.src == node.toNat) s.xfers with
  | none => .next s
  | some (x, rest) =>
    let s1 := { s with xfers := rest }
    if good then
      .next (x.writes.foldl (fun s w =>
        let s2 := wrMem s w.1 w.2
        if x.poison then poisonFrom s2 (w.1 / 32) (granules w.1 w.2.length) else s2) s1)
    else
      let k := 1 - x.dir
      let s2 := addF s1 (BME_RING_CHK_CHECK x.toQ k) 1
      let s3 := mapJob s2 x.rec_ fun j => failJob (now s2) ⟨now s2, 0x20, 0x44, (match j.nodes.find? fun n => n.id == x.src with | some n => n.idx | none => 0x3FF)⟩ j
      let e : FrEntry := { at_ := now s, source := qSrc x.toQ 191, level := 1, cls := 0x09, action := 1, quad := x.toQ, context := [x.toQ, k] }
      .next (startRetrain (report s3 e) x.toQ k)

/-- RING_LINK_RETRAIN (R36): a link that is to retrain begins where a slot of it is free; a retraining link comes up again, or, 10 ms after it began, it has failed, and every coupled
plan that uses it is dropped. -/
def execRingLinkRetrain (q : Fin 4) (k : Fin 2) (ok : Bool) (dt : Nat) (s : State) : Res :=
  let s1 := atDt s dt
  if getF s (BME_RING_STAT_STATE q.val k.val) = 0 ∧ (linkEnds q.val k.val).any (fun e => s.retrainDue.contains e) = true then .next (startRetrain s1 q.val k.val)
  else if getF s (BME_RING_STAT_STATE q.val k.val) ≠ 1 then .next s
  else if ok then
    .next ((linkEnds q.val k.val).foldl (fun s e => addF s (BME_RING_RTR_RETRAIN e.1 e.2) 1) (setLink s1 q.val k.val 0))
  else if reached s (linkSince s q.val k.val + 10000000000) then
    let s2 := setLink s1 q.val k.val 2
    .next (((s2.plans.filter fun p => p.coupled && usesLink p q.val k.val).map (·.ci)).eraseDups.foldl (fun s ci => dropCoupled s ci 0x44) s2)
  else .next s

/-- COUPLED_PLAN_DROP (R35, R36): a coupled plan that uses a failed link, or includes a quadrant under reinitialisation, is dropped in all its members. -/
def execCoupledPlanDrop (ci : Fin 512) (s : State) : Res :=
  let dead := s.plans.any fun p => p.ci == ci.val && p.coupled &&
    (p.parts.any fun x => (getQuad s x.quad).reinit.isSome || usesLink p x.quad 0 && getF s (BME_RING_STAT_STATE x.quad 0) == 2
      || usesLink p x.quad 1 && getF s (BME_RING_STAT_STATE x.quad 1) == 2)
  .next (if dead then dropCoupled s ci.val (if s.plans.any fun p => p.ci == ci.val && p.parts.any fun x => (getQuad s x.quad).reinit.isSome then 0x45 else 0x44) else s)

end Sys2Proof.Machine
end

