-- ==== Sys2Proof/Machine/ChannelCodes.lean ====
section
/-!
DEFINITION. The channel codes that the coding engines run (spec/10_coding.md R369, R370, R379): CRCs, LDPC, polar, turbo, tail-biting convolutional and block codes of TS 38.212 and
TS 36.212, which the spec names and does not restate, with the decoders that R370 gives. A bit list holds bit 0 first; an LLR is positive for a 0 (R346).
-/

namespace Sys2Proof.Machine

/-! ## CRCs (TS 38.212 5.1, TS 36.212 5.1.1) -/

/-- The remainder of a bit list, first bit first, by a CRC of w bits. -/
def crcBitsFrom (w poly init : Nat) (bits : List Bool) : Nat := bits.foldl (fun r b => crcBit w poly r (ofBool b)) init

/-- The n bits of a number, the most significant first. -/
def msbBits (n v : Nat) : List Bool := (List.range n).map fun i => bitOf v (n - 1 - i) == 1

/-- The CRCs of R369. Log: 72 PRESUMED. -/
inductive CrcKind where
  | crc6 | crc11 | crc16 | crc24a | crc24b | crc24c
deriving DecidableEq, Repr

/-- The bits of a CRC. -/
def crcWidth : CrcKind → Nat
  | .crc6 => 6 | .crc11 => 11 | .crc16 => 16 | _ => 24

/-- Its polynomial without the top term. Log: 72 PRESUMED. -/
def crcPoly : CrcKind → Nat
  | .crc6 => 0x21 | .crc11 => 0x621 | .crc16 => 0x1021 | .crc24a => 0x864CFB | .crc24b => 0x800063 | .crc24c => 0xB2B117

/-- The parity bits of a message; ones are the bits that a DCI message has in front of it (TS 38.212 7.3.2), mask what its last 16 parity bits are XORed with. -/
def crcParity (c : CrcKind) (ones mask : Nat) (msg : List Bool) : List Bool :=
  msbBits (crcWidth c) (crcBitsFrom (crcWidth c) (crcPoly c) 0 (List.replicate ones true ++ msg) ^^^ mask)

/-- Does the CRC of a message with its parity bits pass? -/
def crcHolds (c : CrcKind) (ones mask : Nat) (bits : List Bool) : Bool :=
  bits.drop (bits.length - (crcWidth c)) == crcParity c ones mask (bits.take (bits.length - (crcWidth c)))

/-! ## LDPC (TS 38.212 5.3.2) -/

/-- The set index of a lifting size: that of its odd part. Log: 72 PRESUMED. -/
def liftSet (z : Nat) : Nat :=
  match z / Nat.gcd z 512 with
  | 1 => 0 | 3 => 1 | 5 => 2 | 7 => 3 | 9 => 4 | 11 => 5 | 13 => 6 | _ => 7

/-- A column of z bits as the check with shift p sees it: bit i is bit i + p of the column. -/
def rotCol (z v p : Nat) : Nat := (v / 2 ^ p + v * 2 ^ (z - p)) % 2 ^ z

/-- The shift at a row and column of a base graph; none where it has no entry. -/
def graphShift (bg z i j : Nat) : Option Nat := (Config.baseGraph bg (liftSet z) i j).map (· % z)

/-- The checks of row i over columns. -/
def checkRow (bg z i : Nat) (cols : List Nat) : Nat :=
  (cols.zip (List.range cols.length)).foldl (fun a c => match graphShift bg z i c.2 with | some p => a ^^^ rotCol z c.1 p | none => a) 0

/-- The systematic columns and the rows of a base graph (0 BG1, 1 BG2). -/
def graphCols (bg : Nat) : Nat := if bg = 0 then 22 else 10
/-- Its rows. -/
def graphRows (bg : Nat) : Nat := if bg = 0 then 46 else 42

/-- Every column of the codeword of systematic columns: the four core checks together give the first parity column, and each further check gives the next one. -/
def ldpcColumns (bg z : Nat) (sys : List Nat) : List Nat :=
  let kb := graphCols bg
  let sum := (List.range 4).foldl (fun a i => a ^^^ checkRow bg z i sys) 0
  let shifts := (List.range 4).filterMap fun i => graphShift bg z i kb
  let p := (shifts.find? fun x => shifts.count x % 2 == 1).getD 0
  let first := sys ++ [rotCol z sum ((z - p) % z)]
  ([0, 1, 2] ++ (List.range (graphRows bg)).drop 4).foldl (fun cols i => cols ++ [checkRow bg z i cols]) first

/-- Does every parity check of a codeword's columns hold? -/
def ldpcChecks (bg z : Nat) (cols : List Nat) : Bool := (List.range (graphRows bg)).all fun i => checkRow bg z i cols == 0

/-- The columns of z bits of a bit list. -/
def bitCols (z n : Nat) (bits : List Bool) : List Nat := (chunks z n bits).map fun c => beBits c.reverse

/-- The bits of columns of z bits. -/
def colBits (z : Nat) (cols : List Nat) : List Bool := cols.flatMap fun c => (List.range z).map fun i => bitOf c i == 1

/-- The circular buffer of a code block of K bits: what follows the first two columns. -/
def ldpcBuffer (bg z : Nat) (bits : List Bool) : List Bool := (colBits z (ldpcColumns bg z (bitCols z (graphCols bg) bits))).drop (2 * z)

/-! ## Polar codes (TS 38.212 5.3.1, 5.4.1) -/

/-- The polar sequence, the least reliable index first (TS 38.212 Table 5.3.1.2-1), entries 0 to 63. Log: 72 PRESUMED. -/
def polarOrder0 : List Nat :=
  [0, 1, 2, 4, 8, 16, 32, 3, 5, 64, 9, 6, 17, 10, 18, 128, 12, 33, 65, 20, 256, 34, 24, 36, 7, 129, 66, 512, 11, 40, 68, 130, 19, 13, 48, 14, 72, 257,
   21, 132, 35, 258, 26, 513, 80, 37, 25, 22, 136, 260, 264, 38, 514, 96, 67, 41, 144, 28, 69, 42, 516, 49, 74, 272]
/-- The polar sequence, the least reliable index first (TS 38.212 Table 5.3.1.2-1), entries 64 to 127. Log: 72 PRESUMED. -/
def polarOrder1 : List Nat :=
  [160, 520, 288, 528, 192, 544, 70, 44, 131, 81, 50, 73, 15, 320, 133, 52, 23, 134, 384, 76, 137, 82, 56, 27, 97, 39, 259, 84, 138, 145, 261, 29, 43,
   98, 515, 88, 140, 30, 146, 71, 262, 265, 161, 576, 45, 100, 640, 51, 148, 46, 75, 266, 273, 517, 104, 162, 53, 193, 152, 77, 164, 768, 268, 274]
/-- The polar sequence, the least reliable index first (TS 38.212 Table 5.3.1.2-1), entries 128 to 191. Log: 72 PRESUMED. -/
def polarOrder2 : List Nat :=
  [518, 54, 83, 57, 521, 112, 135, 78, 289, 194, 85, 276, 522, 58, 168, 139, 99, 86, 60, 280, 89, 290, 529, 524, 196, 141, 101, 147, 176, 142, 530, 321,
   31, 200, 90, 545, 292, 322, 532, 263, 149, 102, 105, 304, 296, 163, 92, 47, 267, 385, 546, 324, 208, 386, 150, 153, 165, 106, 55, 328, 536, 577, 548,
   113]
/-- The polar sequence, the least reliable index first (TS 38.212 Table 5.3.1.2-1), entries 192 to 255. Log: 72 PRESUMED. -/
def polarOrder3 : List Nat :=
  [154, 79, 269, 108, 578, 224, 166, 519, 552, 195, 270, 641, 523, 275, 580, 291, 59, 169, 560, 114, 277, 156, 87, 197, 116, 170, 61, 531, 525, 642,
   281, 278, 526, 177, 293, 388, 91, 584, 769, 198, 172, 120, 201, 336, 62, 282, 143, 103, 178, 294, 93, 644, 202, 592, 323, 392, 297, 770, 107, 180,
   151, 209, 284, 648]
/-- The polar sequence, the least reliable index first (TS 38.212 Table 5.3.1.2-1), entries 256 to 319. Log: 72 PRESUMED. -/
def polarOrder4 : List Nat :=
  [94, 204, 298, 400, 608, 352, 325, 533, 155, 210, 305, 547, 300, 109, 184, 534, 537, 115, 167, 225, 326, 306, 772, 157, 656, 329, 110, 117, 212, 171,
   776, 330, 226, 549, 538, 387, 308, 216, 416, 271, 279, 158, 337, 550, 672, 118, 332, 579, 540, 389, 173, 121, 553, 199, 784, 179, 228, 338, 312, 704,
   390, 174, 554, 581]
/-- The polar sequence, the least reliable index first (TS 38.212 Table 5.3.1.2-1), entries 320 to 383. Log: 72 PRESUMED. -/
def polarOrder5 : List Nat :=
  [393, 283, 122, 448, 353, 561, 203, 63, 340, 394, 527, 582, 556, 181, 295, 285, 232, 124, 205, 182, 643, 562, 286, 585, 299, 354, 211, 401, 185, 396,
   344, 586, 645, 593, 535, 240, 206, 95, 327, 564, 800, 402, 356, 307, 301, 417, 213, 568, 832, 588, 186, 646, 404, 227, 896, 594, 418, 302, 649, 771,
   360, 539, 111, 331]
/-- The polar sequence, the least reliable index first (TS 38.212 Table 5.3.1.2-1), entries 384 to 447. Log: 72 PRESUMED. -/
def polarOrder6 : List Nat :=
  [214, 309, 188, 449, 217, 408, 609, 596, 551, 650, 229, 159, 420, 310, 541, 773, 610, 657, 333, 119, 600, 339, 218, 368, 652, 230, 391, 313, 450, 542,
   334, 233, 555, 774, 175, 123, 658, 612, 341, 777, 220, 314, 424, 395, 673, 583, 355, 287, 183, 234, 125, 557, 660, 616, 342, 316, 241, 778, 563, 345,
   452, 397, 403, 207]
/-- The polar sequence, the least reliable index first (TS 38.212 Table 5.3.1.2-1), entries 448 to 511. Log: 72 PRESUMED. -/
def polarOrder7 : List Nat :=
  [674, 558, 785, 432, 357, 187, 236, 664, 624, 587, 780, 705, 126, 242, 565, 398, 346, 456, 358, 405, 303, 569, 244, 595, 189, 566, 676, 361, 706, 589,
   215, 786, 647, 348, 419, 406, 464, 680, 801, 362, 590, 409, 570, 788, 597, 572, 219, 311, 708, 598, 601, 651, 421, 792, 802, 611, 602, 410, 231, 688,
   653, 248, 369, 190]
/-- The polar sequence, the least reliable index first (TS 38.212 Table 5.3.1.2-1), entries 512 to 575. Log: 72 PRESUMED. -/
def polarOrder8 : List Nat :=
  [364, 654, 659, 335, 480, 315, 221, 370, 613, 422, 425, 451, 614, 543, 235, 412, 343, 372, 775, 317, 222, 426, 453, 237, 559, 833, 804, 712, 834, 661,
   808, 779, 617, 604, 433, 720, 816, 836, 347, 897, 243, 662, 454, 318, 675, 618, 898, 781, 376, 428, 665, 736, 567, 840, 625, 238, 359, 457, 399, 787,
   591, 678, 434, 677]
/-- The polar sequence, the least reliable index first (TS 38.212 Table 5.3.1.2-1), entries 576 to 639. Log: 72 PRESUMED. -/
def polarOrder9 : List Nat :=
  [349, 245, 458, 666, 620, 363, 127, 191, 782, 407, 436, 626, 571, 465, 681, 246, 707, 350, 599, 668, 790, 460, 249, 682, 573, 411, 803, 789, 709, 365,
   440, 628, 689, 374, 423, 466, 793, 250, 371, 481, 574, 413, 603, 366, 468, 655, 900, 805, 615, 684, 710, 429, 794, 252, 373, 605, 848, 690, 713, 632,
   482, 806, 427, 904]
/-- The polar sequence, the least reliable index first (TS 38.212 Table 5.3.1.2-1), entries 640 to 703. Log: 72 PRESUMED. -/
def polarOrder10 : List Nat :=
  [414, 223, 663, 692, 835, 619, 472, 455, 796, 809, 714, 721, 837, 716, 864, 810, 606, 912, 722, 696, 377, 435, 817, 319, 621, 812, 484, 430, 838, 667,
   488, 239, 378, 459, 622, 627, 437, 380, 818, 461, 496, 669, 679, 724, 841, 629, 351, 467, 438, 737, 251, 462, 442, 441, 469, 247, 683, 842, 738, 899,
   670, 783, 849, 820]
/-- The polar sequence, the least reliable index first (TS 38.212 Table 5.3.1.2-1), entries 704 to 767. Log: 72 PRESUMED. -/
def polarOrder11 : List Nat :=
  [728, 928, 791, 367, 901, 630, 685, 844, 633, 711, 253, 691, 824, 902, 686, 740, 850, 375, 444, 470, 483, 415, 485, 905, 795, 473, 634, 744, 852, 960,
   865, 693, 797, 906, 715, 807, 474, 636, 694, 254, 717, 575, 913, 798, 811, 379, 697, 431, 607, 489, 866, 723, 486, 908, 718, 813, 476, 856, 839, 725,
   698, 914, 752, 868]
/-- The polar sequence, the least reliable index first (TS 38.212 Table 5.3.1.2-1), entries 768 to 831. Log: 72 PRESUMED. -/
def polarOrder12 : List Nat :=
  [819, 814, 439, 929, 490, 623, 671, 739, 916, 463, 843, 381, 497, 930, 821, 726, 961, 872, 492, 631, 729, 700, 443, 741, 845, 920, 382, 822, 851, 730,
   498, 880, 742, 445, 471, 635, 932, 687, 903, 825, 500, 846, 745, 826, 732, 446, 962, 936, 475, 853, 867, 637, 907, 487, 695, 746, 828, 753, 854, 857,
   504, 799, 255, 964]
/-- The polar sequence, the least reliable index first (TS 38.212 Table 5.3.1.2-1), entries 832 to 895. Log: 72 PRESUMED. -/
def polarOrder13 : List Nat :=
  [909, 719, 477, 915, 638, 748, 944, 869, 491, 699, 754, 858, 478, 968, 383, 910, 815, 976, 870, 917, 727, 493, 873, 701, 931, 756, 860, 499, 731, 823,
   922, 874, 918, 502, 933, 743, 760, 881, 494, 702, 921, 501, 876, 847, 992, 447, 733, 827, 934, 882, 937, 963, 747, 505, 855, 924, 734, 829, 965, 938,
   884, 506, 749, 945]
/-- The polar sequence, the least reliable index first (TS 38.212 Table 5.3.1.2-1), entries 896 to 959. Log: 72 PRESUMED. -/
def polarOrder14 : List Nat :=
  [966, 755, 859, 940, 830, 911, 871, 639, 888, 479, 946, 750, 969, 508, 861, 757, 970, 919, 875, 862, 758, 948, 977, 923, 972, 761, 877, 952, 495, 703,
   935, 978, 883, 762, 503, 925, 878, 735, 993, 885, 939, 994, 980, 926, 764, 941, 967, 886, 831, 947, 507, 889, 984, 751, 942, 996, 971, 890, 509, 949,
   973, 1000, 892, 950]
/-- The polar sequence, the least reliable index first (TS 38.212 Table 5.3.1.2-1), entries 960 to 1023. Log: 72 PRESUMED. -/
def polarOrder15 : List Nat :=
  [863, 759, 1008, 510, 979, 953, 763, 974, 954, 879, 981, 982, 927, 995, 765, 956, 887, 985, 997, 986, 943, 891, 998, 766, 511, 988, 1001, 951, 1002,
   893, 975, 894, 1009, 955, 1004, 1010, 957, 983, 958, 987, 1012, 999, 1016, 767, 989, 1003, 990, 1005, 959, 1011, 1013, 895, 1006, 1014, 1017, 1018,
   991, 1020, 1007, 1015, 1019, 1021, 1022, 1023]
/-- The polar sequence, the least reliable index first (TS 38.212 Table 5.3.1.2-1). Log: 72 PRESUMED. -/
def polarOrder : List Nat := polarOrder0 ++ polarOrder1 ++ polarOrder2 ++ polarOrder3 ++ polarOrder4 ++ polarOrder5 ++ polarOrder6 ++ polarOrder7 ++ polarOrder8 ++ polarOrder9 ++ polarOrder10 ++ polarOrder11 ++ polarOrder12 ++ polarOrder13 ++ polarOrder14 ++ polarOrder15

/-- The interleaving pattern of TS 38.212 Table 5.3.1.1-1, entries 0 to 81. Log: 72 PRESUMED. -/
def polarMix0 : List Nat :=
  [0, 2, 4, 7, 9, 14, 19, 20, 24, 25, 26, 28, 31, 34, 42, 45, 49, 50, 51, 53, 54, 56, 58, 59, 61, 62, 65, 66, 67, 69, 70, 71, 72, 76, 77, 81, 82, 83,
   87, 88, 89, 91, 93, 95, 98, 101, 104, 106, 108, 110, 111, 113, 115, 118, 119, 120, 122, 123, 126, 127, 129, 132, 134, 138, 139, 140, 1, 3, 5, 8, 10,
   15, 21, 27, 29, 32, 35, 43, 46, 52, 55, 57]
/-- The interleaving pattern of TS 38.212 Table 5.3.1.1-1, entries 82 to 163. Log: 72 PRESUMED. -/
def polarMix1 : List Nat :=
  [60, 63, 68, 73, 78, 84, 90, 92, 94, 96, 99, 102, 105, 107, 109, 112, 114, 116, 121, 124, 128, 130, 133, 135, 141, 6, 11, 16, 22, 30, 33, 36, 44, 47,
   64, 74, 79, 85, 97, 100, 103, 117, 125, 131, 136, 142, 12, 17, 23, 37, 48, 75, 80, 86, 137, 143, 13, 18, 38, 144, 39, 145, 40, 146, 41, 147, 148,
   149, 150, 151, 152, 153, 154, 155, 156, 157, 158, 159, 160, 161, 162, 163]
/-- The interleaving pattern of TS 38.212 Table 5.3.1.1-1. Log: 72 PRESUMED. -/
def polarMix : List Nat := polarMix0 ++ polarMix1

/-- The input bits interleaved (TS 38.212 5.3.1.1): the order of the K bits. -/
def polarMixOrder (k : Nat) : List Nat := (polarMix.filter fun x => decide (164 - k ≤ x)).map fun x => x - (164 - k)

/-- The sub-block interleaver of TS 38.212 5.4.1.1. Log: 72 PRESUMED. -/
def polarSub : List Nat :=
  [0, 1, 2, 4, 3, 5, 6, 7, 8, 16, 9, 17, 10, 18, 11, 19, 12, 20, 13, 21, 14, 22, 15, 23, 24, 25, 26, 28, 27, 29, 30, 31]

/-- J(n) of the sub-block interleaver. -/
def polarJ (n i : Nat) : Nat := getAt 0 polarSub (32 * i / n) * (n / 32) + i % (n / 32)

/-- A polar code: N, K with its CRC, E, the interleaving of its input and of its output, and its parity-check bits. -/
structure PolarCode where
  n : Nat
  k : Nat
  e : Nat
  mix : Bool
  bil : Bool
  npc : Nat
  nwm : Nat
deriving DecidableEq, Repr

/-- Is the code punctured where E is below N, and not shortened? -/
def polarPunctures (c : PolarCode) : Bool := decide (16 * c.k ≤ 7 * c.e)

/-- The indices that rate matching freezes (TS 38.212 5.4.1.1). -/
def polarGone (c : PolarCode) : List Nat :=
  if c.n ≤ c.e then []
  else if polarPunctures c then
    (List.range (c.n - c.e)).map (polarJ c.n) ++
      List.range (if 3 * c.n ≤ 4 * c.e then ceilDiv (3 * c.n - 2 * c.e) 4 else ceilDiv (9 * c.n - 4 * c.e) 16)
  else ((List.range c.n).drop c.e).map (polarJ c.n)

/-- The indices that carry bits, the least reliable first. -/
def polarInfo (c : PolarCode) : List Nat :=
  let gone := polarGone c
  let all := polarOrder.filter fun x => decide (x < c.n) && !gone.contains x
  all.drop (all.length - (c.k + c.npc))

/-- The bits set in an index. -/
def rowWeight (x : Nat) : Nat := popCount 10 x

/-- The indices of the parity-check bits. -/
def polarPc (c : PolarCode) : List Nat :=
  let info := polarInfo c
  let rest := info.drop c.npc
  let least := rest.foldl (fun a x => min a (rowWeight x)) 10
  info.take (c.npc - c.nwm) ++ (rest.reverse.filter fun x => rowWeight x == least).take c.nwm

/-- The polar transform: d = u G_N. -/
def polarTransform : Nat → List Bool → List Bool
  | 0, u => u
  | n + 1, u =>
    let h := u.length / 2
    let a := polarTransform n (u.take h)
    let b := polarTransform n (u.drop h)
    ((a.zip b).map fun x => x.1 != x.2) ++ b

/-- The word u of the K bits (TS 38.212 5.3.1.2): y is the shift register of five bits, first bit first. -/
def polarWord (c : PolarCode) (bits : List Bool) : List Bool :=
  let info := polarInfo c
  let pc := polarPc c
  let w := (List.range c.n).foldl (fun (a : List Bool × List Bool × List Bool) i =>
    let y := a.2.2.drop 1 ++ a.2.2.take 1
    if info.contains i = false then (a.1 ++ [false], a.2.1, y)
    else if pc.contains i then (a.1 ++ [y.headD false], a.2.1, y)
    else
      let b := a.2.1.headD false
      (a.1 ++ [b], a.2.1.drop 1, (y.headD false != b) :: y.drop 1)) (([] : List Bool), bits, List.replicate 5 false)
  w.1

/-- The bits of u that are the K bits, in their order. -/
def polarBits (c : PolarCode) (u : List Bool) : List Bool :=
  let info := polarInfo c
  let pc := polarPc c
  ((u.zip (List.range u.length)).filter fun x => info.contains x.2 && !pc.contains x.2).map (·.1)

/-- The index in d of each of E rate-matched bits, before the interleaver of the coded bits (TS 38.212 5.4.1.2). -/
def polarPick (c : PolarCode) : List Nat :=
  (List.range c.e).map fun i => polarJ c.n (if c.n ≤ c.e then i % c.n else if polarPunctures c then i + (c.n - c.e) else i)

/-- The order in which the triangular interleaver reads E bits (TS 38.212 5.4.1.3). -/
def triangle (e : Nat) : List Nat :=
  let t := ((List.range (e + 1)).find? fun t => decide (2 * e ≤ t * (t + 1))).getD 0
  let rowAt := fun (i : Nat) => i * t - i * (i - 1) / 2
  ((List.range t).flatMap fun j => (List.range (t - j)).map fun i => rowAt i + j).filter fun x => decide (x < e)

/-- The index in d of each bit sent. -/
def polarOrderOut (c : PolarCode) : List Nat :=
  let pick := polarPick c
  if c.bil then (triangle c.e).map fun i => getAt 0 pick i else pick

/-- The bits sent for K bits. -/
def polarEncode (c : PolarCode) (bits : List Bool) : List Bool :=
  let mixed := if c.mix then (polarMixOrder c.k).map fun i => getAt false bits i else bits
  let d := polarTransform 10 (polarWord c mixed)
  (polarOrderOut c).map fun i => getAt false d i

/-- The LLR of each bit of d (R370): repetitions add, punctured bits are unknown, and shortened bits are known to be 0. -/
def polarLlrs (c : PolarCode) (ls : List Int) : List Int :=
  let placed := (polarOrderOut c).zip ls
  (List.range c.n).map fun i =>
    let mine := placed.filter fun x => x.1 == i
    if mine = [] then (if c.e < c.n ∧ polarPunctures c = false then 127 else 0) else mine.foldl (fun a x => a + x.2) 0

/-- The K bits of a decoded word u. -/
def polarPayload (c : PolarCode) (u : List Bool) : List Bool :=
  let b := polarBits c u
  if c.mix then
    (let order := polarMixOrder c.k
     (List.range c.k).map fun i => match (order.zip b).find? fun x => x.1 == i with | some x => x.2 | none => false)
  else b

/-! ## Turbo code (TS 36.212 5.1.3.2) -/

/-- f1 and f2 of the turbo code internal interleaver by block size (TS 36.212 Table 5.1.3-3), entries 0 to 46. Log: 72 PRESUMED. -/
def qppTable0 : List (Nat × Nat) :=
  [(3, 10), (7, 12), (19, 42), (7, 16), (7, 18), (11, 20), (5, 22), (11, 24), (7, 26), (41, 84), (103, 90), (15, 32), (9, 34), (17, 108), (9, 38),
   (21, 120), (101, 84), (21, 44), (57, 46), (23, 48), (13, 50), (27, 52), (11, 36), (27, 56), (85, 58), (29, 60), (33, 62), (15, 32), (17, 198),
   (33, 68), (103, 210), (19, 36), (19, 74), (37, 76), (19, 78), (21, 120), (21, 82), (115, 84), (193, 86), (21, 44), (133, 90), (81, 46), (45, 94),
   (23, 48), (243, 98), (151, 40), (155, 102)]
/-- f1 and f2 of the turbo code internal interleaver by block size (TS 36.212 Table 5.1.3-3), entries 47 to 93. Log: 72 PRESUMED. -/
def qppTable1 : List (Nat × Nat) :=
  [(25, 52), (51, 106), (47, 72), (91, 110), (29, 168), (29, 114), (247, 58), (29, 118), (89, 180), (91, 122), (157, 62), (55, 84), (31, 64), (17, 66),
   (35, 68), (227, 420), (65, 96), (19, 74), (37, 76), (41, 234), (39, 80), (185, 82), (43, 252), (21, 86), (155, 44), (79, 120), (139, 92), (23, 94),
   (217, 48), (25, 98), (17, 80), (127, 102), (25, 52), (239, 106), (17, 48), (137, 110), (215, 112), (29, 114), (15, 58), (147, 118), (29, 60),
   (59, 122), (65, 124), (55, 84), (31, 64), (17, 66), (171, 204)]
/-- f1 and f2 of the turbo code internal interleaver by block size (TS 36.212 Table 5.1.3-3), entries 94 to 140. Log: 72 PRESUMED. -/
def qppTable2 : List (Nat × Nat) :=
  [(67, 140), (35, 72), (19, 74), (39, 76), (19, 78), (199, 240), (21, 82), (211, 252), (21, 86), (43, 88), (149, 60), (45, 92), (49, 846), (71, 48),
   (13, 28), (17, 80), (25, 102), (183, 104), (55, 954), (127, 96), (27, 110), (29, 112), (29, 114), (57, 116), (45, 354), (31, 120), (59, 610),
   (185, 124), (113, 420), (31, 64), (17, 66), (171, 136), (209, 420), (253, 216), (367, 444), (265, 456), (181, 468), (39, 80), (27, 164), (127, 504),
   (143, 172), (43, 88), (29, 300), (45, 92), (157, 188), (47, 96), (13, 28)]
/-- f1 and f2 of the turbo code internal interleaver by block size (TS 36.212 Table 5.1.3-3), entries 141 to 187. Log: 72 PRESUMED. -/
def qppTable3 : List (Nat × Nat) :=
  [(111, 240), (443, 204), (51, 104), (51, 212), (451, 192), (257, 220), (57, 336), (313, 228), (271, 232), (179, 236), (331, 120), (363, 244),
   (375, 248), (127, 168), (31, 64), (33, 130), (43, 264), (33, 134), (477, 408), (35, 138), (233, 280), (357, 142), (337, 480), (37, 146), (71, 444),
   (71, 120), (37, 152), (39, 462), (127, 234), (39, 158), (39, 80), (31, 96), (113, 902), (41, 166), (251, 336), (43, 170), (21, 86), (43, 174),
   (45, 176), (45, 178), (161, 120), (89, 182), (323, 184), (47, 186), (23, 94), (47, 190), (263, 480)]
/-- f1 and f2 of the turbo code internal interleaver by block size (TS 36.212 Table 5.1.3-3). Log: 72 PRESUMED. -/
def qppTable : List (Nat × Nat) := qppTable0 ++ qppTable1 ++ qppTable2 ++ qppTable3

/-- The place of a turbo block size in that table. -/
def qppPlace (k : Nat) : Nat :=
  if k ≤ 512 then (k - 40) / 8 else if k ≤ 1024 then 60 + (k - 528) / 16 else if k ≤ 2048 then 92 + (k - 1056) / 32 else 124 + (k - 2112) / 64

/-- The internal interleaver: bit i of its output is bit Π(i) of its input. -/
def qppOrder (k : Nat) : List Nat :=
  let f := getAt (0, 0) qppTable (qppPlace k)
  (List.range k).map fun i => (f.1 * i + f.2 * i * i) % k

/-- A constituent encoder's step in a state of three bits, the newest in bit 0: the parity bit and the next state for a bit u. -/
def rscStep (st : Nat) (u : Bool) : Bool × Nat :=
  let a := (ofBool u + bitOf st 1 + bitOf st 2) % 2
  ((a + bitOf st 0 + bitOf st 2) % 2 == 1, a + 2 * (st % 4))

/-- The bit that a constituent encoder feeds itself to reach state 0. -/
def rscTail (st : Nat) : Bool := (bitOf st 1 + bitOf st 2) % 2 == 1

/-- The parity bits of a constituent encoder, and the (bit, parity bit) pairs of its three tail steps. -/
def rscEncode (bits : List Bool) : List Bool × List (Bool × Bool) :=
  let r := bits.foldl (fun (a : List Bool × Nat) u => let x := rscStep a.2 u; (a.1 ++ [x.1], x.2)) ([], 0)
  let t := [0, 1, 2].foldl (fun (a : List (Bool × Bool) × Nat) _ => let u := rscTail a.2; let x := rscStep a.2 u; (a.1 ++ [(u, x.1)], x.2)) ([], r.2)
  (r.1, t.1)

/-- The three coded streams of K bits, of K + 4 bits each. -/
def turboEncode (bits : List Bool) : List (List Bool) :=
  let p1 := rscEncode bits
  let p2 := rscEncode ((qppOrder bits.length).map fun i => getAt false bits i)
  let t := fun (l : List (Bool × Bool)) i => getAt (false, false) l i
  [bits ++ [(t p1.2 0).1, (t p1.2 1).2, (t p2.2 0).1, (t p2.2 1).2],
   p1.1 ++ [(t p1.2 0).2, (t p1.2 2).1, (t p2.2 0).2, (t p2.2 2).1],
   p2.1 ++ [(t p1.2 1).1, (t p1.2 2).2, (t p2.2 1).1, (t p2.2 2).2]]

/-- The greater of two path metrics; none is minus infinity. -/
def maxMetric (a b : Option Int) : Option Int :=
  match a, b with
  | none, y => y
  | x, none => x
  | some x, some y => some (max x y)

/-- The metric of a step: twice the correlation of the bit and its parity bit with their LLRs. -/
def stepMetric (u z : Bool) (lu lz : Int) : Int := (if u then -lu else lu) + (if z then -lz else lz)

/-- The states and bits that lead into each state, as (state, bit, parity bit, next state). -/
def rscEdges : List (Nat × Bool × Bool × Nat) :=
  (List.range 8).flatMap fun st => [false, true].map fun u => let x := rscStep st u; (st, u, x.1, x.2)

/-- Path metrics after a step. -/
def forwardStep (m : List (Option Int)) (l : Int × Int) : List (Option Int) :=
  (List.range 8).map fun n => (rscEdges.filter fun e => e.2.2.2 == n).foldl (fun a e => maxMetric a ((getAt none m e.1).map (· + stepMetric e.2.1 e.2.2.1 l.1 l.2))) none

/-- Path metrics before a step. -/
def backwardStep (m : List (Option Int)) (l : Int × Int) : List (Option Int) :=
  (List.range 8).map fun st => (rscEdges.filter fun e => e.1 == st).foldl (fun a e => maxMetric a ((getAt none m e.2.2.2).map (· + stepMetric e.2.1 e.2.2.1 l.1 l.2))) none

/-- The metrics of a path in state 0 alone. -/
def onlyZero : List (Option Int) := some 0 :: List.replicate 7 none

/-- Twice the LLR of a step, by the greatest metric of the paths with each bit. -/
def stepLlr (m b : List (Option Int)) (l : Int × Int) : Int :=
  let best := fun (u : Bool) => (rscEdges.filter fun e => e.2.1 == u).foldl (fun a e =>
    maxMetric a (match getAt none m e.1, getAt none b e.2.2.2 with | some x, some y => some (x + y + stepMetric e.2.1 e.2.2.1 l.1 l.2) | _, _ => none)) none
  (best false).getD 0 - (best true).getD 0

/-- Max-log-MAP over a constituent code (R370): twice the LLR of each bit, for the LLRs of bits (with what is known of them beforehand) and parity bits, and of the three tail steps. -/
def maxLogMap (ls : List (Int × Int)) (tail : List (Int × Int)) : List Int :=
  let back := (ls ++ tail).foldr (fun l (a : List (List (Option Int))) => backwardStep (a.headD onlyZero) l :: a) [onlyZero]
  let fwd := (ls.foldl (fun (a : List (List (Option Int)) × List (Option Int)) l => (a.1 ++ [a.2], forwardStep a.2 l)) (([] : List (List (Option Int))), onlyZero)).1
  ((ls.zip fwd).zip back.tail).map fun x => stepLlr x.1.2 x.2 x.1.1

/-- One pass of a constituent decoder: at the scale of the LLRs given, the extrinsic values × 0.75 at eight times that scale, and the totals. -/
def turboHalf (sys apr par : List Int) (tail : List (Int × Int)) : List Int × List Int :=
  let l := (sys.zip apr).map fun x => x.1 + x.2
  let t := maxLogMap (l.zip par) tail
  ((t.zip l).map fun x => 3 * (x.1 - 2 * x.2), t)

/-- The state of a turbo decoder after some iterations (R379): the extrinsic values of the second constituent decoder in the order of the bits, the scale they are at, and the totals. -/
structure TurboRun where
  ext : List Int
  scale : Int
  total : List Int
deriving DecidableEq, Repr

/-- One iteration: one pass of both constituent decoders (R379), over the LLRs of the three streams. -/
def turboStep (d : List (List Int)) (k : Nat) (t : TurboRun) : TurboRun :=
  let at_ := fun s i => getAt 0 (getAt [] d s) i
  let order := qppOrder k
  let sc := fun (f : Int) (l : List Int) => l.map (f * ·)
  let sys := (getAt [] d 0).take k
  let a := turboHalf (sc t.scale sys) t.ext (sc t.scale ((getAt [] d 1).take k))
    ([(at_ 0 k, at_ 1 k), (at_ 2 k, at_ 0 (k + 1)), (at_ 1 (k + 1), at_ 2 (k + 1))].map fun x => (t.scale * x.1, t.scale * x.2))
  let s2 := 8 * t.scale
  let mix := fun (l : List Int) => order.map fun i => getAt 0 l i
  let b := turboHalf (sc s2 (mix sys)) (mix a.1) (sc s2 ((getAt [] d 2).take k))
    ([(at_ 0 (k + 2), at_ 1 (k + 2)), (at_ 2 (k + 2), at_ 0 (k + 3)), (at_ 1 (k + 3), at_ 2 (k + 3))].map fun x => (s2 * x.1, s2 * x.2))
  let back := fun (l : List Int) => (List.range k).map fun i => match (order.zip l).find? fun x => x.1 == i with | some x => x.2 | none => 0
  { ext := back b.1, scale := 8 * s2, total := back b.2 }

/-- The bits that LLRs decide; one of 0 is decided by a free value. Log: 71 DESIGN CHOICE. -/
def hardBits (ls : List Int) : List Bool := (ls.zip (List.range ls.length)).map fun x => if x.1 = 0 then Config.codeTie ls x.2 else decide (x.1 < 0)

/-- The decisions of a turbo decoder after each iteration, up to some. -/
def turboRuns (d : List (List Int)) (k : Nat) : Nat → TurboRun → List (List Bool)
  | 0, _ => []
  | n + 1, t => let t1 := turboStep d k t; hardBits t1.total :: turboRuns d k n t1

/-! ## Tail-biting convolutional code (TS 36.212 5.1.3.1, 5.1.4.2) -/

/-- The taps of 133, 171 and 165 (octal), bit t that of the bit t steps back. -/
def tbccTaps : List Nat := [109, 79, 87]

/-- The three coded bits of a register of seven bits, the newest in bit 0. -/
def tbccOut (reg : Nat) : List Bool := tbccTaps.map fun g => popCount 7 (reg &&& g) % 2 == 1

/-- The three coded streams. -/
def tbccEncode (bits : List Bool) : List (List Bool) :=
  let n := bits.length
  let outs := (List.range n).map fun k => tbccOut ((List.range 7).foldl (fun a t => a + 2 ^ t * ofBool (getAt false bits ((k + 7 * n - t) % n))) 0)
  [0, 1, 2].map fun i => outs.map fun o => getAt false o i

/-- The index in the three streams, one after another, of each of E rate-matched bits: each stream goes through the 32 columns of the sub-block interleaver. Log: 72 PRESUMED. -/
def tbccPick (d e : Nat) : List Nat :=
  let rows := ceilDiv d 32
  let dummy := 32 * rows - d
  let one := fun (s : Nat) => (List.range (32 * rows)).filterMap fun v =>
    let y := (16 * bitOf (v / rows + 16) 0 + 8 * bitOf (v / rows) 1 + 4 * bitOf (v / rows) 2 + 2 * bitOf (v / rows) 3 + bitOf (v / rows + 16) 4) + 32 * (v % rows)
    if y < dummy then none else some (s * d + (y - dummy))
  let w := one 0 ++ one 1 ++ one 2
  ((List.replicate (e / max 1 w.length + 1) w).flatMap id).take e

/-- The bits sent. -/
def tbccSend (bits : List Bool) (e : Nat) : List Bool :=
  let d := (tbccEncode bits).flatMap id
  (tbccPick bits.length e).map fun i => getAt false d i

/-- One step of the Viterbi decoder: for each state of six bits, the newest in bit 0, the metric and the bits of its surviving path, newest first. A tie is decided by a free
value. Log: 71 DESIGN CHOICE. -/
def viterbiStep (ls : List Int) (m : List (Int × List Bool)) (l : List Int) : List (Int × List Bool) :=
  (List.range 64).map fun n =>
    let path := fun (old : Nat) =>
      let x := getAt (0, []) m old
      (x.1 + ((tbccOut (n % 2 + 2 * old)).zip l).foldl (fun a y => if y.1 then a - y.2 else a + y.2) 0, (n % 2 == 1) :: x.2)
    let a := path (n / 2)
    let b := path (n / 2 + 32)
    if a.1 < b.1 ∨ (a.1 = b.1 ∧ Config.codeTie ls n = true) then b else a

/-- A pass of the decoder over the LLRs of the coded bits, from metrics. -/
def viterbiPass (ls : List Int) (steps : List (List Int)) (m : List Int) : List (Int × List Bool) :=
  steps.foldl (viterbiStep ls) (m.map fun x => (x, []))

/-- The wrap-around Viterbi decoder of two passes (R370): the bits of the best path of the second pass. -/
def tbccDecode (n : Nat) (ls : List Int) : List Bool :=
  let placed := (tbccPick n ls.length).zip ls
  let llr := fun i => (placed.filter fun x => x.1 == i).foldl (fun a x => a + x.2) 0
  let steps := (List.range n).map fun k => [llr k, llr (n + k), llr (2 * n + k)]
  let m := viterbiPass ls steps ((viterbiPass ls steps (List.replicate 64 0)).map (·.1))
  let best := m.tail.foldl (fun a x => if a.1 < x.1 ∨ (a.1 = x.1 ∧ Config.codeTie ls x.1.toNat = true) then x else a) (m.headD (0, []))
  best.2.reverse

/-! ## Block codes (TS 38.212 5.3.3, TS 36.212 5.2.2.6.4 and 5.2.3.3, NB-IoT NPUSCH format 2) -/

/-- The rows of the (32, 11) code, M_i,0 in bit 10. Log: 72 PRESUMED. -/
def rmRows32 : List Nat :=
  [0b11000000001, 0b11100000011, 0b10010010111, 0b10110000101, 0b11110001001, 0b11001011101, 0b10101010111, 0b10011001101, 0b11011001011, 0b10111010011,
   0b10100111011, 0b11100110101, 0b10010101111, 0b11010101011, 0b10001101001, 0b11001111011, 0b11101110010, 0b10011100100, 0b11011111000, 0b10000110000,
   0b10100010001, 0b11010000011, 0b10001001101, 0b11101000111, 0b11111011110, 0b11000111001, 0b10110100110, 0b11110101110, 0b10101110100, 0b10111111100,
   0b11111111111, 0b10000000000]
/-- The rows of the (20, 13) code, M_i,0 in bit 12. Log: 72 PRESUMED. -/
def rmRows20 : List Nat :=
  [0b1100000000110, 0b1110000001110, 0b1001001011111, 0b1011000010111, 0b1111000100111, 0b1100101110111, 0b1010101011111, 0b1001100110111,
   0b1101100101111, 0b1011101001111, 0b1010011101111, 0b1110011010111, 0b1001010111111, 0b1101010101111, 0b1000110100101, 0b1100111101101,
   0b1110111001011, 0b1001110010011, 0b1101111100000, 0b1000011000000]

/-- The codeword of a Reed–Muller code of w columns. -/
def rmWord (rows : List Nat) (w : Nat) (bits : List Bool) : List Bool :=
  rows.map fun r => ((bits.zip (List.range bits.length)).filter fun x => x.1 && bitOf r (w - 1 - x.2) == 1).length % 2 == 1

/-- What stands in a codeword: a bit, a placeholder x, or a placeholder y that repeats the bit before it. -/
inductive CodeSym where
  | bit (b : Bool)
  | x
  | y
deriving DecidableEq, Repr

/-- The codeword of a block code (R369), before it is repeated: var names the code, qm the bits of a modulation symbol. Log: 72 PRESUMED. -/
def blockWord (var qm : Nat) (bits : List Bool) : List CodeSym :=
  let c := fun i => getAt false bits i
  let xs := List.replicate (qm - 2) CodeSym.x
  match var with
  | 0 =>
    if bits.length = 1 then (if qm = 1 then [.bit (c 0)] else [.bit (c 0), .y] ++ xs)
    else if bits.length = 2 then
      (let p := c 0 != c 1
       if qm = 1 then [.bit (c 0), .bit (c 1), .bit p] else [.bit (c 0), .bit (c 1)] ++ xs ++ [.bit p, .bit (c 0)] ++ xs ++ [.bit (c 1), .bit p] ++ xs)
    else (rmWord rmRows32 11 bits).map .bit
  | 1 => (rmWord rmRows32 11 bits).map .bit
  | 2 => (rmWord rmRows20 13 bits).map .bit
  | _ => List.replicate 16 (.bit (c 0))

/-- E symbols of a codeword, repeated. -/
def blockSend (w : List CodeSym) (e : Nat) : List CodeSym := ((List.replicate (e / max 1 w.length + 1) w).flatMap id).take e

/-- How well LLRs fit a codeword: placeholders carry nothing. -/
def blockMetric (w : List CodeSym) (ls : List Int) : Int :=
  ((blockSend w ls.length).zip ls).foldl (fun a x => match x.1 with | .bit true => a - x.2 | .bit false => a + x.2 | _ => a) 0

/-- The best payload of a block code of a bits, its metric and that of the second best (R381); a tie is decided by a free value. Log: 71 DESIGN CHOICE. -/
def blockDecode (var qm a : Nat) (ls : List Int) : List Bool × Int × Int :=
  let all := (List.range (2 ^ a)).map fun v => let b := msbBits a v; (b, blockMetric (blockWord var qm b) ls)
  let r := all.tail.foldl (fun (x : (List Bool × Int) × Option Int) c =>
    if x.1.2 < c.2 ∨ (x.1.2 = c.2 ∧ Config.codeTie ls (beBits c.1) = true) then (c, some x.1.2)
    else (x.1, some (match x.2 with | some m => max m c.2 | none => c.2))) (all.headD ([], 0), none)
  (r.1.1, r.1.2, r.2.getD 0)

/-- 10 × log10 of a over b in 0.1 dB, rounded, for positive numbers (R381): the n with 10^(2n-1) ≤ (a/b)^200 < 10^(2n+1). -/
def decibelTenths (a b : Nat) : Nat :=
  ((List.range 6000).foldl (fun (x : Nat × Bool) n => if x.2 ∧ b ^ 200 * 10 ^ (2 * n + 1) ≤ a ^ 200 then (n + 1, true) else (x.1, false)) (0, true)).1

end Sys2Proof.Machine
end

