-- ==== Sys2Proof/Machine/Xfe.lean ====
section
/-!
DEFINITION. Port areas and the transform engine (spec/08_port_processing.md R291 to R312): sample indices and groups, the descriptor, the transforms, where each reads and writes,
and the late and early writes. The spec defines each transform and bounds the accuracy of its filters: an output sample is the ideal value moved by a free error within
those bounds.
-/

namespace Sys2Proof.Machine

/-! ## Ports (R291, R292, R297) -/

/-- The time-domain lane-section entry of port p of quadrant q (R297, R415), where the port's areas exist in [a, b]: from the FIRST_SLOT of the first plan that names it until the last
such plan is dropped, which is taken as the end of its being in force (R416). Log: 76 DEDUCED. -/
def areaOf (s : State) (q p : Nat) (a b : Int) : Option LaneEnt :=
  let es := s.plans.flatMap fun x => ((x.parts.filter fun y => y.quad == q).flatMap (·.lanes)).filterMap fun e => if !e.fd && e.port == p then some (x, e) else none
  if es.any (fun x => decide (x.1.tFirst ≤ b)) && es.any (fun x => match x.1.tEnd with | some e => decide (a < e) | none => true) then es.head?.map (·.2) else none

/-- The first sample of a port of period r whose instant is at or after radio time tc, for an offset in ns. -/
def firstSample (tc ofs : Int) (r : Nat) : Int := -((-((tc + epochTc) * 3125 - ofs * 6144)) / (3125 * (r : Int)))

/-- The ball instant of sample n of a port of period r, in ps of CT (R297). Log: 26 DEDUCED. -/
def ballInstant (n : Int) (r : Nat) : Int := -((-(n * r * 390625)) / 768)

/-- The air time of group g (R297) and its fetch instant (R300). -/
def airTime (g : Int) (r : Nat) : Int := ballInstant (18 * g + 17) r
/-- The fetch instant of group g (R300). -/
def fetchInstant (g : Int) (r : Nat) : Int := airTime g r - 500000

/-! ## Symbols (R293) -/

/-- The slot of grid mu that holds the start of slot n of grid mu0. -/
def slotIn (mu0 : Nat) (n : Int) (mu : Nat) : Int :=
  slotAtFine mu (slotStartTc mu0 n * 390625)

/-- The useful part of a symbol, in Tc. -/
def usefulTc (mu : Nat) : Nat := if mu = 7 then 524288 else 131072 / 2 ^ mu

/-- The cyclic prefix of symbol l at N points, in carrier-rate samples. -/
def cpSamples (mu : Nat) (ecp : Bool) (slot : Int) (n l : Nat) : Nat :=
  ((symStartTc (gridCode mu ecp) slot (l + 1) - symStartTc (gridCode mu ecp) slot l - usefulTc mu) * n / (usefulTc mu : Int)).toNat

/-! ## The descriptor (R311, R312) -/

/-- An XFE operation with its fields brought into range. -/
structure XfeOp where
  dir : Nat
  size : Nat
  mu : Nat
  ecp : Bool
  b10 : Bool
  sym0 : Nat
  nsym : Nat
  nport : Nat
  nsc : Nat
  wlen : Nat
  adv : Nat
  tao : Nat
  phc : Bool
  ltedc : Bool
  fshift : Int
  f0 : Nat
  gain : Nat
  shift : Nat
  fdA : Nat
  fdP : Nat
  fdS : Nat
  words : Nat
deriving DecidableEq, Repr

/-- Read an XFE descriptor's 36 bytes for a task's arguments: the operation, and the number of fields clamped. -/
def xfeOp (d a3 : Nat) : XfeOp × Nat :=
  let f := fun (ofs lo w : Nat) => bitsOf d (8 * ofs + lo) w
  let mu := f 0 4 3
  let ecp := f 0 7 1 == 1
  let last := lastSym (gridCode mu ecp)
  let sym0 := min last (f 0 12 4)
  let nsym := clampNat 1 (last + 1 - sym0) (f 0 16 4)
  let nport := clampNat 1 48 (f 0 20 6)
  let size := xfeSize a3
  let nsc := clampNat 12 (min size 3300) (f 4 0 13)
  ({ dir := f 0 0 1, size := size, mu := mu, ecp := ecp, b10 := f 0 10 1 == 0, sym0 := sym0, nsym := nsym, nport := nport, nsc := nsc / 2 * 2,
     wlen := f 4 16 8, adv := f 4 24 8, tao := f 0x10 20 12, phc := f 0 8 1 == 1, ltedc := f 0 9 1 == 1, fshift := signedOf 32 (f 8 0 32),
     f0 := min 100000000 (f 0xC 0 27), gain := f 0x10 0 16, shift := f 0x10 16 4, fdA := f 0x14 0 32, fdP := f 0x18 0 32, fdS := f 0x1C 0 32, words := d },
   clampCount [(f 0 12 4, sym0), (f 0 16 4, nsym), (f 0 20 6, nport), (f 4 0 13, nsc), (f 0xC 0 27, min 100000000 (f 0xC 0 27))])

/-- Is the ratio of the port rate to the carrier rate one that R304 admits? r is the port's sample period in Tc; the carrier's is usefulTc / N. -/
def ratioOk (mu size r : Nat) : Bool :=
  (List.range 9).any (fun d => usefulTc mu == 2 ^ d * r * size) || (List.range 7).any fun d => 3 * usefulTc mu == 2 ^ d * 4 * r * size

/-! ## Transforms -/

/-- What a transform works on: its port and symbol, its index among the ports and symbols, the symbol's interval in Tc, the port's period, and its lane. -/
structure Xform where
  port : Nat
  pi : Nat
  sym : Nat
  si : Nat
  t0 : Int
  t1 : Int
  r : Nat
  lane : Option Nat
  ent : Option LaneEnt
  ofs : Int

/-- The delay of a transform's port (R310): the one in force at its first sample, at the sample's instant at the reference plane, or now where that is still to come. Log: 67 DEDUCED. -/
def xformDelay (s : State) (q : Nat) (x : XfeOp) (t : Xform) : Int :=
  let at_ := min (now s) (ctOfRadio (t.t0 - 16 * (if x.dir = 0 then x.tao else 0)) t.ofs)
  match t.lane with
  | some l => if x.dir = 0 then dRxAt s q l t.port at_ else dTxAt s q l t.port at_
  | none => 0

/-- The parameters of a transform for the free values. -/
def xformArgs (s : State) (q : Nat) (x : XfeOp) (t : Xform) : List Int :=
  [(x.words : Int), x.size, t.port, t.sym, t.t0, t.t1, t.r, t.ofs, xformDelay s q x t]

/-! ## The ideal transforms (R303 to R310) -/

/-- Tc in a second. -/
def tcPerSec : Nat := 1966080000

/-- A delay in ps, in Tc. -/
def tcOfPs (d : Int) : Rat := ratio (d * 6144) 3125000

/-- The CT instant of radio time tc for an offset in ns, in Tc. -/
def ctTc (tc ofs : Int) : Rat := (tc + epochTc : Int) - ratio (ofs * 6144) 3125

/-- The start of a symbol's useful part in radio time, in Tc. -/
def usefulStart (x : XfeOp) (t : Xform) : Int := t.t1 - usefulTc x.mu

/-- The subcarrier spacing in Hz. -/
def spacingHz (mu : Nat) : Nat := tcPerSec / usefulTc mu

/-- The frequency of active subcarrier k from the carrier's zero frequency, in Hz (R307). -/
def carrierHz (x : XfeOp) (k : Nat) : Int :=
  ((k : Int) - (x.nsc / 2 : Nat) + (if x.ltedc ∧ x.nsc / 2 ≤ k then 1 else 0)) * spacingHz x.mu

/-- FSHIFT brought within half the rate of a port of period r (R307). -/
def shiftHz (x : XfeOp) (r : Nat) : Int := clampInt (-((tcPerSec / r / 2 : Nat) : Int)) (tcPerSec / r / 2 : Nat) x.fshift

/-- The phase term of NR for a symbol (R308): exp (−j 2 π F0 t), t being the start of its useful part. Log: 145 PRESUMED. -/
def phaseTerm (x : XfeOp) (t : Xform) : CQ := if x.phc then turn (-(ratio (x.f0 * 1000 * usefulStart x t) tcPerSec)) else (1, 0)

/-- GAIN and SHIFT (R303). -/
def gainOf (x : XfeOp) : Rat := ratio x.gain (16384 * 2 ^ x.shift)

/-- Do the rules state an accuracy for the operation's carrier: is its occupied band within 0.4 × fp of the port's centre (R305, R310)? -/
def accurate (x : XfeOp) (t : Xform) : Bool :=
  [carrierHz x 0, carrierHz x (x.nsc - 1)].all fun f => decide (10 * (f + shiftHz x t.r).natAbs ≤ 4 * (tcPerSec / t.r))

/-- How many copies of the carrier's rate the resampling passes through (R304, R305): the ratio fp / fc, or three times it where that is no whole number. -/
def resampleRatio (x : XfeOp) (t : Xform) : Nat := if usefulTc x.mu % (t.r * x.size) = 0 then usefulTc x.mu / (t.r * x.size) else 3 * usefulTc x.mu / (t.r * x.size)

/-- A complex number within the given radius, in 10^-9: a free one, or 0 where the free one is not within it. -/
def freeDisc (args : List Int) (f : Int) (radius : Nat) : CQ :=
  let a := Config.xfeFilter args f 2
  let b := Config.xfeFilter args f 3
  if a * a + b * b ≤ (radius * radius : Nat) then (ratio a 1000000000, ratio b 1000000000) else (0, 0)

/-- The response of the filters to the frequency f, in Hz from the carrier's zero frequency (R305, R310): up to 0.4 × fc the gains of the resampling filter and of the port's filter,
±0.02 dB each, and a delay within ±1 ps; from 0.6 × fc at most −80 dB; between them, and for a carrier for which no accuracy is stated, any number. Log: 67 DEDUCED. -/
def xfeResponse (args : List Int) (x : XfeOp) (t : Xform) (f : Int) : CQ :=
  let fc := x.size * spacingHz x.mu
  if accurate x t && decide (10 * f.natAbs ≤ 4 * fc) then
    cqScale (ratio (clampInt 995406 1004615 (Config.xfeFilter args f 0)) 1000000)
      (turn (ratio ((f + shiftHz x t.r) * clampInt (-1000) 1000 (Config.xfeFilter args f 1)) 1000000000000000))
  else if accurate x t && decide (6 * fc ≤ 10 * f.natAbs) then freeDisc args f 100000
  else (ratio (Config.xfeFilter args f 0) 1000, ratio (Config.xfeFilter args f 1) 1000)

/-- The images of the frequency f through the resampling: f plus each multiple of fc, from half the resampling's rate below zero to half above. -/
def imagesOf (x : XfeOp) (t : Xform) (f : Int) : List Int :=
  let fc : Int := (x.size * spacingHz x.mu : Nat)
  let m := resampleRatio x t
  (List.range m).map fun i => if fc * m < 2 * (f + fc * i) then f + fc * i - fc * m else f + fc * i

/-- The sum of the component magnitudes of samples. -/
def magSum (xs : List Cplx) : Nat := xs.foldl (fun a x => a + x.1.natAbs + x.2.natAbs) 0

/-- The free rounding error of sample i of a transform. Log: 67 DEDUCED. -/
def freeError (args : List Int) (ins : List Cplx) (i : Nat) : Cplx := (Config.xfeValue args ins (2 * i), Config.xfeValue args ins (2 * i + 1))

/-- A component of a result rounded, within one unit of the exact one; that of an input of zeros is 0. Log: 67 DEDUCED. -/
def roundTol (gain : Nat) (ins : List Cplx) : Rat := if gain = 0 ∨ magSum ins = 0 then 0 else 1

/-- The content at the frequency f, in Hz from the carrier's zero frequency, of the samples of one useful length whose first lies tau Tc after the useful part begins (R303, R306, R307). -/
def contentAt (x : XfeOp) (t : Xform) (ins : List Cplx) (tau : Rat) (f : Int) : CQ :=
  cqSum ((ins.zip (List.range ins.length)).map fun v =>
    cqMul (cqOf v.1) (turn (-(((f + shiftHz x t.r : Int) : Rat) * (tau + ((v.2 * t.r : Nat) : Rat)) / (tcPerSec : Rat)))))

/-- Active subcarrier k of an uplink transform (R303, R306 to R308, R310): the samples' content at its frequency and, through the filters' stop band, at each image of it. -/
def ulValue (args : List Int) (x : XfeOp) (t : Xform) (ins : List Cplx) (tau : Rat) (k : Nat) : CQ :=
  let y := cqSum ((imagesOf x t (carrierHz x k)).map fun f => cqMul (xfeResponse args x t f) (contentAt x t ins tau f))
  cqScale (gainOf x * ratio (x.size * t.r) (usefulTc x.mu)) (cqMul (cqConj (phaseTerm x t)) y)

/-- The subcarriers of an uplink transform. Log: 67 DEDUCED. -/
def ulSamples (args : List Int) (x : XfeOp) (t : Xform) (ins : List Cplx) (tau : Rat) : List Cplx :=
  (List.range x.nsc).map fun k => satCx20 (near (roundTol x.gain ins) (ulValue args x t ins tau k) (freeError args ins k))

/-- The rise of the window, u carrier-rate samples from its first (R309). -/
def windowRise (wlen : Nat) (u : Rat) : Rat :=
  let c := (u + 1 / 2) / (wlen : Rat)
  (1 - (turn ((if c < 0 then 0 else if 1 < c then 1 else c) / 2)).1) / 2

/-- The weight of a downlink sample u carrier-rate samples from the symbol's first, of a symbol of len of them (R309). -/
def windowGain (wlen : Nat) (u len : Rat) : Rat :=
  if wlen = 0 then 1 else if u < (wlen : Rat) then windowRise wlen u else if u < len then 1 else 1 - windowRise wlen (u - len)

/-- A sample of a downlink transform tau Tc after the useful part begins, from its subcarriers (R303, R307 to R310): the inverse of the transform of R342, each subcarrier with what
the filters leave of its images. Log: 67 DEDUCED. -/
def dlValue (args : List Int) (x : XfeOp) (t : Xform) (wlen : Nat) (ins : List Cplx) (tau : Rat) : CQ :=
  let per := ratio x.size (usefulTc x.mu)
  let y := cqSum ((ins.zip (List.range ins.length)).map fun v => cqMul (cqOf v.1) (cqSum ((imagesOf x t (carrierHz x v.2)).map fun f =>
    cqMul (xfeResponse args x t f) (turn (((f + shiftHz x t.r : Int) : Rat) * tau / (tcPerSec : Rat))))))
  let w := windowGain wlen ((tau + ((usefulStart x t - t.t0 : Int) : Rat)) * per) (((t.t1 - t.t0 : Int) : Rat) * per)
  cqScale (gainOf x * w / (x.size : Rat)) (cqMul (phaseTerm x t) y)

/-- The n samples of a downlink transform from the one tau Tc after the useful part begins. Log: 67 DEDUCED. -/
def dlSamples (args : List Int) (x : XfeOp) (t : Xform) (wlen : Nat) (ins : List Cplx) (tau : Rat) (n : Nat) : List Cplx :=
  (List.range n).map fun i => satCx20 (near (roundTol x.gain ins) (dlValue args x t wlen ins (tau + ((i * t.r : Nat) : Rat))) (freeError args ins i))

/-! ## Reading and writing -/

/-- Read group g of a receive area (R298). -/
def readGroup (o : EngIo) (base : Nat) (e : LaneEnt) (g : Int) : List Cplx × EngIo :=
  let b := (g % e.rxGa).toNat
  let (ms, o1) := engRead o base (e.rxAddr + 45 * b) 45
  let (es, o2) := engRead o1 base (e.rxAddr + padTo 160 (45 * e.rxGa) + b / 2) 1
  (b10Samples (leNat ms) (bitsOf (leNat es) (4 * (b % 2)) 4), o2)

/-- Read n samples of a receive area from sample m on. -/
def readArea (o : EngIo) (base : Nat) (e : LaneEnt) (m : Int) (n : Nat) : List Cplx × EngIo :=
  let groups := (List.range ((m + n - 1) / 18 - m / 18 + 1).toNat).map fun (i : Nat) => m / 18 + (i : Int)
  let (xs, o1) := groups.foldl (fun a g => let (y, o2) := readGroup a.2 base e g; (a.1 ++ y, o2)) ([], o)
  if n = 0 then ([], o) else ((xs.drop (m % 18).toNat).take n, o1)

/-- Is the port of a transform one that the engine processes (R304)? A port without a lane or an area has no rate. -/
def portRuns (x : XfeOp) (t : Xform) : Bool := t.lane.isSome && t.ent.isSome && ratioOk x.mu x.size t.r

/-- An uplink transform (R303 to R308): the port's samples of the symbol in, those beyond S as zeros (R312), NSC subcarriers out. The transform's window begins UL_ADV carrier-rate samples before the end
of the cyclic prefix, no more than its length (R306). Log: 67 DEDUCED. -/
def uplink (o : EngIo) (n : Node) (smax : Nat) (x : XfeOp) (t : Xform) : EngIo :=
  let q := n.cluster / 8
  let off := strideAt (strideAt x.fdA x.fdP t.pi) x.fdS t.si
  let zeros := recordBytes x.b10 (List.replicate x.nsc (0, 0))
  match t.lane, t.ent with
  | some _, some e =>
    if portRuns x t = false then engWrite o (csmFlat n.cluster) off zeros
    else
      let d := xformDelay o.st q x t
      let w := wholePeriods d t.r
      let m := firstSample (t.t0 - 16 * x.tao) t.ofs t.r + w
      let len := min smax (firstSample (t.t1 - 16 * x.tao) t.ofs t.r + w - m).toNat
      let (got, o1) := readArea o (csmFlat (8 * q + e.rxCl)) e m len
      let us := usefulStart x t - 16 * x.tao
      let n0 := firstSample (us - min (x.adv * usefulTc x.mu / x.size) (usefulStart x t - t.t0).toNat) t.ofs t.r + w
      let ins := (List.range (usefulTc x.mu / t.r)).map fun i => getAt (0, 0) got ((n0 - m).toNat + i)
      let tau := ((n0 * t.r : Int) : Rat) - tcOfPs d - ctTc us t.ofs
      engWrite o1 (csmFlat n.cluster) off (recordBytes x.b10 (ulSamples (xformArgs o.st q x t) x t ins tau))
  | _, _ => engWrite o (csmFlat n.cluster) off zeros

/-- Add a sample into a transmit area at sample index m (R299). -/
def addSample (o : EngIo) (base : Nat) (e : LaneEnt) (m : Int) (v : Cplx) : EngIo :=
  let off := e.txAddr + 5 * (m % (18 * e.txGa)).toNat
  let (bs, o1) := engRead o base off 5
  engWrite o1 base off (cx20Bytes (satCx20 (cadd (cx20Of bs) v)))

/-- Log a discarded write of the XFE (R302). -/
def noteDrop (s : State) (k : Nat) (t : Xform) (early : Bool) : State :=
  let s1 := addF s (if early then XFE_CNT_LATE_EARLY k else XFE_CNT_LATE_LATE k) 1
  setF (setF (setF (setF s1 (XFE_LAST_DROP_PORT k) t.port) (XFE_LAST_DROP_SYM k) t.sym) (XFE_LAST_DROP_KIND k) (ofBool early)) (XFE_LAST_DROP_VALID k) 1

/-- Add the samples of one group of a downlink transform into the area, or discard them as late or early (R299, R302): m is the first sample's index. A group that is late only by the excess of
its port's D_TX over the plan's DTX_MAX, in ps, gives FAILED_INPUT with DELAY_BOUND (R111). -/
def addGroup (o : EngIo) (j : Job) (n : Node) (excess : Int) (base : Nat) (t : Xform) (e : LaneEnt) (m : Int) (vs : List Cplx) : EngIo :=
  let g := m / 18
  let fail := fun (s : State) (h : Happening) => mapJob s j.recNode (failJob (now s) h)
  let due := fetchInstant g t.r
  let late : Happening := if now o.st < due + excess then ⟨due, 0x22, 0x08, n.idx⟩ else ⟨due, 0x20, 0x41, n.idx⟩
  if due ≤ now o.st then { o with st := fail (noteDrop o.st n.cluster t false) late }
  else if now o.st < fetchInstant (g - e.txGa) t.r then
    { o with st := fail (noteDrop o.st n.cluster t true) ⟨now o.st, 0x22, 0x51, n.idx⟩ }
  else (vs.zip (List.range vs.length)).foldl (fun o v => addSample o base e (m + v.2) v.1) o

/-- Split samples from index m into the parts of their groups. -/
def byGroup (m : Int) : Nat → List Cplx → List (Int × List Cplx)
  | 0, _ => []
  | f + 1, vs =>
    let k := (18 - m % 18).toNat
    if vs = [] then [] else (m, vs.take k) :: byGroup (m + k) f (vs.drop k)

/-- A downlink transform (R303 to R310): NSC subcarriers in, the symbol's samples, S of them at most, added into the port's transmit area. Log: 67 DEDUCED. -/
def downlink (o : EngIo) (j : Job) (n : Node) (dtxMax smax wlen : Nat) (x : XfeOp) (t : Xform) : EngIo :=
  let q := n.cluster / 8
  let (ins, o1) := readRecord o (csmFlat n.cluster) x.b10 (strideAt (strideAt x.fdA x.fdP t.pi) x.fdS t.si) x.nsc
  match t.lane, t.ent with
  | some _, some e =>
    if portRuns x t = false then o1
    else
      let d := xformDelay o1.st q x t
      let w := wholePeriods d t.r
      let m := firstSample t.t0 t.ofs t.r - w
      let ext : Int := ceilDiv (wlen * usefulTc x.mu) x.size
      let len := min smax (firstSample (t.t1 + ext) t.ofs t.r - w - m).toNat
      let tau := ((m * t.r : Int) : Rat) + tcOfPs d - ctTc (usefulStart x t) t.ofs
      (byGroup m len (dlSamples (xformArgs o1.st q x t) x t wlen ins tau len)).foldl
        (fun o v => addGroup o j n (d - dtxMax * 1000) (csmFlat (8 * q + e.txCl)) t e v.1 v.2) o1
  | _, _ => o1

/-- The transforms of an operation, ports within symbols, at most P (R312). -/
def xforms (s : State) (q : Nat) (p : Plan) (ci : Nat) (slot : Int) (x : XfeOp) (ports : List Nat) (pmax : Nat) : List Xform :=
  let sl := slotIn p.mu slot (gridCode x.mu x.ecp)
  ((List.range x.nsym).flatMap fun si => (List.range ports.length).map fun pi =>
    let port := gangFirst s q (getAt 0 ports pi)
    let lane := portLane s q port
    let t0 := symStartTc (gridCode x.mu x.ecp) sl (x.sym0 + si)
    let t1 := symStartTc (gridCode x.mu x.ecp) sl (x.sym0 + si + 1)
    { port := port, pi := pi, sym := x.sym0 + si, si := si, t0 := t0, t1 := t1,
      r := match lane with | some l => lanePeriod s l | none => 1, lane := lane, ent := areaOf s q port (ctOfRadio t0 (ciOfs s ci)) (ctOfRadio t1 (ciOfs s ci)), ofs := ciOfs s ci : Xform }).take pmax

/-- Run an XFE operation of a node: its writes, counters and happenings; and whether it read a bad granule. A port that is processed as zeros is counted once (R304). -/
def xfeRun (s : State) (j : Job) (n : Node) (p : Plan) : State × Bool :=
  let base := csmFlat n.cluster
  let q := n.cluster / 8
  let (db, o0) := engRead (engOpen s) base (argOf n 0) 0x24
  let (x, c) := xfeOp (leNat db) (argOf n 3)
  let (pb, o1) := engRead o0 base (argOf n 0 + 0x24) x.nport
  let raw := pb.map (·.toNat)
  let ports := raw.map (min 47)
  let slot := slotAt p.mu (ciOfs s j.cmd.ci) j.s0
  let sl := slotIn p.mu slot (gridCode x.mu x.ecp)
  let cps := (List.range x.nsym).map fun i => cpSamples x.mu x.ecp sl x.size (x.sym0 + i)
  let wlen := cps.foldl min x.wlen
  let ts := xforms s q p j.cmd.ci slot x ports (clampNat 1 65535 (argOf n 1))
  let c2 := c + clampCount (raw.zip ports) + ofBool (ts.any fun t => shiftHz x t.r != x.fshift)
  let zeroed := ((ts.filter fun t => !portRuns x t).map (·.port)).eraseDups.length
  let o2 := { o1 with st := addF (addF o1.st (XFE_CLAMP_CLAMP n.cluster) c2) (XFE_CNT_RATIO_RATIO n.cluster) zeroed }
  let smax := clampNat 1 262143 (argOf n 2)
  let o3 := ts.foldl (fun o t => if x.dir = 0 then uplink o n smax x t else downlink o j n p.dtxMax smax wlen x t) o2
  (engDone n.cluster 0 o3, o3.bad)

end Sys2Proof.Machine
end

