-- ==== Sys2Proof/Machine/Detect.lean ====
section
/-!
DEFINITION. The receiver of the detector engine (spec/09_receive.md R343 to R357) as functions of its data: constellations and LLRs, channel estimates, covariance, MMSE-IRC weights,
decision feedback, tracking. The estimators that the spec names without their arithmetic are free values. Log: 70 DESIGN CHOICE, 72 PRESUMED.
-/

namespace Sys2Proof.Machine

/-! ## Constellations and LLRs (R346; TS 38.211, 5.1) -/

/-- Bits of a symbol (R344). -/
def qmBits (qm : Nat) : Nat := match qm with | 0 => 1 | 1 => 2 | 2 => 4 | 3 => 6 | _ => 8

/-- The level of one axis from its bits. -/
def pamLevel : List Nat → Int
  | [] => 0
  | b :: t => (1 - 2 * (b : Int)) * (2 ^ t.length - pamLevel t)

/-- The least distance of two levels from 0, for a mean power of 1. -/
def qamUnit (qm : Nat) : Rat := rootQ (ratio 1 (getAt 2 [2, 2, 10, 42, 170] qm))

/-- The point of the i-th symbol whose bits are v, bit 0 first. Log: 72 PRESUMED. -/
def qamPoint (qm i v : Nat) : CQ :=
  let axis := fun (a : Nat) => pamLevel ((List.range (qmBits qm / 2)).map fun m => bitOf v (2 * m + a))
  let p : CQ := if qm = 0 then (let a : Rat := (1 - 2 * (bitOf v 0 : Int) : Int); if i % 2 = 1 then (-a, a) else (a, a)) else ((axis 0 : Rat), (axis 1 : Rat))
  cqScale (qamUnit qm) p

/-- Squared distance. -/
def cqDist (a b : CQ) : Rat := cqNorm (cqSub a b)

/-- The bits of the point nearest to z; of several the lowest. -/
def nearestPoint (qm i : Nat) (z : CQ) : Nat :=
  ((List.range (2 ^ qmBits qm)).foldl (fun (a : Nat × Rat) v =>
    let d := cqDist z (qamPoint qm i v)
    if d < a.2 then (v, d) else a) (0, cqDist z (qamPoint qm i 0))).1

/-- The least of a list, or d. -/
def minRat (d : Rat) (l : List Rat) : Rat := l.foldl (fun a x => if x < a then x else a) (l.headD d)

/-- ln of the sum of exp (−x) over a list, apart from its least element, which goes with it. -/
def lnSumExp (l : List Rat) : Rat × Rat :=
  let m := minRat 0 l
  (m, ratOfFix (fixLn (max 1 ((l.map fun x => fixExpNeg (x - m)).foldl (· + ·) 0))))

/-- The LLR of bit b of the i-th symbol from its unbiased estimate z with noise power nu, before saturation: round (8 × ln (P(b = 0) / P(b = 1))) (R346). -/
def llrOf (qm i : Nat) (z : CQ) (nu : Rat) (b : Nat) : Int :=
  let ds := fun (x : Nat) => ((List.range (2 ^ qmBits qm)).filter fun v => bitOf v b == x).map fun v => cqDist z (qamPoint qm i v)
  if nu ≤ 0 then (let d := minRat 0 (ds 1) - minRat 0 (ds 0); if d = 0 then 0 else if 0 < d then 2 ^ 20 else -(2 ^ 20))
  else
    let a := lnSumExp ((ds 0).map (· / nu))
    let c := lnSumExp ((ds 1).map (· / nu))
    roundQ (8 * (c.1 - a.1 + a.2 - c.2))

/-! ## References and pilots (R345) -/

/-- The CDM group of a subcarrier on a DMRS symbol (TS 38.211, 6.4.1.1.3). Log: 72 PRESUMED. -/
def cdmGroup (dtype k : Nat) : Nat := match dtype with | 0 => k % 2 | 1 => k % 6 / 2 | _ => 0

/-- The CDM group of a DMRS port (TS 38.211, tables 6.4.1.1.3-1 and 6.4.1.1.3-2). Log: 72 PRESUMED. -/
def portGroup (dtype port : Nat) : Nat := match dtype with | 0 => port % 4 / 2 | 1 => port % 6 / 2 | _ => 0

/-- The subcarriers that the codes of one CDM group span: 4 for type 1, 6 for type 2, a PRB for the cyclic shifts of LTE (R345). Log: 72 PRESUMED. -/
def cdmUnit (dtype k : Nat) : Nat := match dtype with | 0 => k / 4 | 1 => k / 6 | _ => k / 12

/-- The place of a pilot subcarrier in a reference record. -/
def pilotIndex (dtype k : Nat) : Nat := match dtype with | 0 => k / 2 | 1 => k / 6 * 2 + k % 2 | _ => k

/-- Pilots of a layer in a PRB, and their spacing (R345, R354). -/
def pilotsPerPrb (dtype : Nat) : Nat := match dtype with | 0 => 6 | 1 => 4 | _ => 12
/-- The spacing of the pilots. -/
def pilotComb (dtype : Nat) : Nat := match dtype with | 0 => 2 | 1 => 6 | _ => 1

/-- The first symbol of the pair of DMRS symbols that symbol l belongs to: the span of TD-OCC. -/
def tdStart (dmrs : List Nat) (l : Nat) : Nat := if 1 ≤ l ∧ dmrs.contains (l - 1) = true then l - 1 else l

/-- The start of symbol l in its slot, in seconds: that of a slot that begins a half-millisecond. Log: 70 DESIGN CHOICE. -/
def symSec (mu l : Nat) : Rat := ratio (symStartTc mu 0 l) tcPerSec

/-- The received data: an input, a symbol, a subcarrier of the band. -/
abbrev RxData := Nat → Nat → Nat → CQ

/-! ## Channel estimation (R347, R348) -/

/-- What the estimate of one layer of a UE rests on: inputs, numerology, DTYPE, the DMRS symbols used, the UE's subcarriers, the layer's DMRS port, and the reference value of a pilot by symbol and subcarrier. -/
structure EstIn where
  inputs : Nat
  mu : Nat
  dtype : Nat
  dmrs : List Nat
  carriers : List Nat
  port : Nat
  ref : Nat → Nat → CQ

/-- The pilot subcarriers of the layer in the UE's allocation. -/
def estPilots (e : EstIn) : List Nat := e.carriers.filter fun k => cdmGroup e.dtype k == portGroup e.dtype e.port

/-- The least-squares estimate at a pilot, the CDM ports separated: the mean of y / x over the span of the codes, in frequency and time. -/
def separated (e : EstIn) (y : RxData) (i l k : Nat) : CQ :=
  cqMean ((e.dmrs.filter fun m => tdStart e.dmrs m == tdStart e.dmrs l).flatMap fun m =>
    ((estPilots e).filter fun x => cdmUnit e.dtype x == cdmUnit e.dtype k).map fun x => cqDiv (y i m x) (e.ref m x))

/-- The separated estimates of a DMRS symbol, input by input. -/
def pilotEsts (e : EstIn) (y : RxData) (l : Nat) : List CQ := (List.range e.inputs).flatMap fun i => (estPilots e).map fun k => separated e y i l k

/-- The largest timing offset for a pilot spacing at a numerology, in ps (R354). -/
def toBound (mu comb : Nat) : Int := 1000000000000 / (2 * (comb : Int) * 15000 * 2 ^ mu)

/-- TO of a UE from the estimates of its layers (R348): measured from the phase slope across the pilots, within its bound (R354). Log: 70 DESIGN CHOICE. -/
def timingOf (es : List EstIn) (y : RxData) : Int :=
  match es with
  | [] => 0
  | e :: _ => (let b := toBound e.mu (pilotComb e.dtype); clampInt (-b) b (Config.slopePs (es.flatMap fun x => x.dmrs.flatMap (pilotEsts x y)) (pilotComb e.dtype)))

/-- FO of a UE as measured on the acquisition symbol from the leakage between adjacent pilots, relative to the expected one (R347). Log: 70 DESIGN CHOICE. -/
def offsetRaw (es : List EstIn) (y : RxData) (foInit : Int) : Int := foInit + Config.leakHz (es.flatMap fun e => pilotEsts e y (e.dmrs.headD 0)) foInit

/-- FO brought within ±0.1 Δf of the expected one (R347). -/
def offsetOf (mu : Nat) (foInit raw : Int) : Int := clampInt (foInit - 1500 * 2 ^ mu) (foInit + 1500 * 2 ^ mu) raw

/-- The phase that a timing offset of to ps gives subcarrier k. -/
def timingTurn (mu : Nat) (to_ : Int) (k : Nat) : CQ := turn (ratio (k * 15000 * 2 ^ mu * to_) 1000000000000)

/-- Smoothing in frequency over ±2 PRBs, within the allocation (R348): a weighted mean of the estimates at the pilots, whose timing offset is removed; the weights are free. Log: 70 DESIGN CHOICE. -/
def smoothed (e : EstIn) (y : RxData) (to_ : Int) (i l k : Nat) : CQ :=
  let ps := (estPilots e).filter fun x => decide (x / 12 ≤ k / 12 + 2 ∧ k / 12 ≤ x / 12 + 2)
  let w := fun (x : Nat) => Config.smoothWeight ((k : Int) - (x : Int))
  let total := (ps.map w).foldl (· + ·) 0
  if total = 0 then (0, 0)
  else cqScale (ratio 1 total) (cqMul (cqConj (timingTurn e.mu to_ k))
    (cqSum (ps.map fun x => cqScale (w x : Rat) (cqMul (timingTurn e.mu to_ x) (separated e y i l x)))))

/-- The phase ramp of a frequency offset at symbol l, from the acquisition symbol's start (R347). -/
def foRamp (mu : Nat) (fo : Int) (a l : Nat) : CQ := turn ((fo : Rat) * (symSec mu l - symSec mu a))

/-- The channel of a layer at symbol l (R348): interpolated linearly between the DMRS symbols and held outside them, with the phase ramp of FO. Log: 70 DESIGN CHOICE. -/
def estimate (e : EstIn) (y : RxData) (to_ fo : Int) (l i k : Nat) : CQ :=
  let a := e.dmrs.headD 0
  let at_ := fun (m : Nat) => cqMul (cqConj (foRamp e.mu fo a m)) (smoothed e y to_ i m k)
  let before := (e.dmrs.filter fun m => decide (m ≤ l)).getLast?
  let after := (e.dmrs.filter fun m => decide (l < m)).head?
  let base := match before, after with
    | some m, some n => cqAdd (cqScale (ratio ((n : Int) - l) (n - m)) (at_ m)) (cqScale (ratio ((l : Int) - m) (n - m)) (at_ n))
    | some m, none => at_ m
    | none, some n => at_ n
    | none, none => (0, 0)
  cqMul (foRamp e.mu fo a l) base

/-! ## Detection (R349 to R351) -/

/-- A layer as the detector sees it: its number, transform precoding, modulation, subcarriers, DMRS port, pilot values, data REs by symbol, data REs of the UE before a symbol, and the channel by symbol, input and subcarrier. -/
structure RxLayer where
  j : Nat
  tp : Bool
  qm : Nat
  carriers : List Nat
  pilots : List Nat
  ref : Nat → Nat → CQ
  res : Nat → List Nat
  before : Nat → Nat
  est : RxData

/-- The detector's parameters: inputs, PRBs a weight group, IRC, DF, TRK, the symbols and the DMRS symbols. -/
structure RxOp where
  inputs : Nat
  np : Nat
  wg : Nat
  irc : Bool
  df : Bool
  trk : Nat
  syms : List Nat
  dmrs : List Nat

/-- The weight group of a subcarrier, counted from PRB0. -/
def weightGroup (o : RxOp) (k : Nat) : Nat := k / 12 / o.wg

/-- The residuals of a weight group's DMRS REs, a vector over the inputs each (R349). -/
def residuals (o : RxOp) (y : RxData) (ls : List RxLayer) (g : Nat) : List (List CQ) :=
  o.dmrs.flatMap fun l =>
    ((List.range (12 * o.np)).filter fun k => weightGroup o k == g && ls.any fun x => x.pilots.contains k).map fun k =>
      (List.range o.inputs).map fun i => ls.foldl (fun a x => if x.pilots.contains k then cqSub a (cqMul (x.est l i k) (x.ref l k)) else a) (y i l k)

/-- The covariance of a weight group; with IRC of 0 only the mean of its diagonal (R349). -/
def covariance (o : RxOp) (y : RxData) (ls : List RxLayer) (g : Nat) : List (List CQ) :=
  let rs := residuals o y ls g
  let full := (List.range o.inputs).map fun a => (List.range o.inputs).map fun b => cqMean (rs.map fun r => cqMul (getAt (0, 0) r a) (cqConj (getAt (0, 0) r b)))
  let mean := ratMean ((List.range o.inputs).map fun a => (getAt (0, 0) (getAt [] full a) a).1)
  if o.irc then full else (List.range o.inputs).map fun a => (List.range o.inputs).map fun b => if a = b then ((mean, 0) : CQ) else (0, 0)

/-- The trace of a covariance: the noise power of one RE over the inputs. -/
def covTrace (c : List (List CQ)) : Rat := ratSum ((List.range c.length).map fun a => (getAt (0, 0) (getAt [] c a) a).1)

/-- MMSE-IRC weights for layers of channel columns hs: for each layer the weights over the inputs and the gain they leave; none where the matrix has no inverse (R350). -/
def mmseWeights (n : Nat) (cov : List (List CQ)) (hs : List (List CQ)) : Option (List (List CQ × Rat)) :=
  let rows := (List.range n).map fun a =>
    ((List.range n).map fun b => cqAdd (getAt (0, 0) (getAt [] cov a) b) (cqSum (hs.map fun h => cqMul (getAt (0, 0) h a) (cqConj (getAt (0, 0) h b))))) ++ hs.map fun h => getAt (0, 0) h a
  (solveRows n rows).map fun xs => (hs.zip (List.range hs.length)).map fun h =>
    let w := xs.map fun r => cqConj (getAt (0, 0) r h.2)
    (w, (cqDot w h.1).1)

/-- The linear post-detection SINR of a gain (R354); one that leaves no noise is above every bound. -/
def sinrOf (beta : Rat) : Rat := if beta < 1 then beta / (1 - beta) else 1000000

/-- A stage of detection in a weight group: the place of a layer, its weights and gain. -/
abbrev Stage := Nat × Option (List CQ × Rat)

/-- Pick the element of a list of pairs whose first component is j. -/
def pairAt {α : Type} (l : List (Nat × α)) (j : Nat) : Option α := (l.find? fun x => x.1 == j).map (·.2)

/-- The channel column of a layer in a weight group: the mean over the group's subcarriers of its allocation. Log: 70 DESIGN CHOICE. -/
def groupChannel (o : RxOp) (h : RxData) (x : RxLayer) (l g : Nat) : List CQ :=
  (List.range o.inputs).map fun i => cqMean ((x.carriers.filter fun k => weightGroup o k == g).map fun k => h l i k)

/-- The weights of a set of layers, by place. -/
def stageWeights (o : RxOp) (cov : List (List CQ)) (hs : List (Nat × List CQ)) : List Stage :=
  match mmseWeights o.inputs cov (hs.map (·.2)) with
  | some ws => (hs.zip ws).map fun x => (x.1.1, some x.2)
  | none => hs.map fun x => (x.1, none)

/-- Detect the rest of an order: each layer with the weights of those not yet taken out (R350). -/
def stagesFrom (o : RxOp) (cov : List (List CQ)) (out : Nat → Bool) : List Nat → List (Nat × List CQ) → List Stage
  | [], _ => []
  | p :: rest, hs =>
    let w := (pairAt (stageWeights o cov hs) p).bind id
    (p, w) :: stagesFrom o cov out rest (if out p then hs.filter fun x => x.1 != p else hs)

/-- The SINR of a layer in a list of stages; 0 where its weights do not exist. -/
def stageSinr (st : List Stage) (p : Nat) : Rat := match (pairAt st p).bind id with | some w => sinrOf w.2 | none => 0

/-- Is the layer at place x detected before the one at y: by descending SINR, then by layer number (R350)? -/
def stageBefore (ls : List RxLayer) (st : List Stage) (x y : Nat) : Bool :=
  let num := fun (p : Nat) => match ls[p]? with | some l => l.j | none => p
  decide (stageSinr st y < stageSinr st x ∨ (stageSinr st y = stageSinr st x ∧ num x < num y))

/-- The stages of a weight group: with DF in the order of descending SINR, equal ones by layer number; without it all at once (R350). -/
def groupStages (o : RxOp) (cov : List (List CQ)) (ls : List RxLayer) (hs : List (Nat × List CQ)) : List Stage :=
  let first := stageWeights o cov hs
  if o.df then
    (let order := (hs.map (·.1)).foldl (fun a p => insertBy (stageBefore ls first) p a) []
     stagesFrom o cov (fun p => match ls[p]? with | some x => !x.tp | none => false) order hs)
  else first

/-- A detected RE of a layer: its place among the layers, symbol, subcarrier, the index of its symbol, the MMSE output and its gain, the equalised value and its gain, the decided bits, the decided point, and the
decided value on the subcarrier; ok says that the weights exist. -/
structure Det where
  p : Nat
  l : Nat
  k : Nat
  n : Nat
  out : CQ
  beta : Rat
  z : CQ
  zBeta : Rat
  v : Nat
  s : CQ
  f : CQ
  ok : Bool

/-- The MMSE output of every layer of an RE, in the order of the stages; with DF the decided symbol is taken out of the received vector (R350). -/
def detectRe (o : RxOp) (ls : List RxLayer) (h : RxData → Nat → CQ) (l k : Nat) : List Stage → List CQ → List Det
  | [], _ => []
  | (p, w) :: rest, y =>
    match ls[p]? with
    | none => detectRe o ls h l k rest y
    | some x =>
      if (x.res l).contains k = false then detectRe o ls h l k rest y
      else
        let n := x.before l + ((x.res l).takeWhile (· != k)).length
        match w with
        | none => ⟨p, l, k, n, (0, 0), 0, (0, 0), 0, 0, (0, 0), (0, 0), false⟩ :: detectRe o ls h l k rest y
        | some (ws, beta) =>
          let out := cqDot ws y
          let z := if beta = 0 then (0, 0) else cqScale (1 / beta) out
          let v := nearestPoint x.qm n z
          let s := qamPoint x.qm n v
          let y1 := if o.df && !x.tp then (y.zip (List.range y.length)).map fun c => cqSub c.1 (cqMul s (h x.est c.2)) else y
          ⟨p, l, k, n, out, beta, z, beta, v, s, s, true⟩ :: detectRe o ls h l k rest y1

/-- The inverse DFT of transform precoding over the REs of a layer in one symbol, and the decisions after it (R344). Log: 70 DESIGN CHOICE. -/
def untransform (qm : Nat) (ds : List Det) : List Det :=
  let m := ds.length
  let c := rootQ (ratio 1 m)
  let beta := ratMean (ds.map (·.beta))
  let ok := ds.all (·.ok)
  let time := (ds.zip (List.range m)).map fun d =>
    let x := cqScale c (cqSum ((ds.zip (List.range m)).map fun e => cqMul e.1.out (turn (ratio (e.2 * d.2) m))))
    let z := if beta = 0 then (0, 0) else cqScale (1 / beta) x
    let v := nearestPoint qm d.1.n z
    { d.1 with z := z, zBeta := beta, v := v, s := qamPoint qm d.1.n v, ok := ok }
  (time.zip (List.range m)).map fun d =>
    { d.1 with f := cqScale c (cqSum ((time.zip (List.range m)).map fun e => cqMul e.1.s (turn (-(ratio (e.2 * d.2) m))))) }

/-- The correction of R351 by layer, input and PRB. -/
abbrev Corr := Nat → Nat → Nat → CQ

/-- One symbol: its detected REs, with the channel of symbol l, the weights being those of symbol la (R350, R351). -/
def detectSym (o : RxOp) (y : RxData) (ls : List RxLayer) (cov : Nat → List (List CQ)) (corr : Corr) (l la : Nat) : List Det :=
  let chan := fun (p : Nat) (x : RxLayer) (m i k : Nat) => cqAdd (x.est m i k) (if m = l then corr p i (k / 12) else (0, 0))
  let idx := ls.zip (List.range ls.length)
  let raw := (List.range (ceilDiv o.np o.wg)).flatMap fun g =>
    let here := idx.filter fun x => x.1.carriers.any fun k => weightGroup o k == g
    let stages := groupStages o (cov g) ls (here.map fun x => (x.2, groupChannel o (chan x.2 x.1) x.1 la g))
    ((List.range (12 * o.np)).filter fun k => weightGroup o k == g && here.any fun x => (x.1.res l).contains k).flatMap fun k =>
      detectRe o (idx.map fun x => { x.1 with est := chan x.2 x.1 }) (fun e i => e l i k) l k stages ((List.range o.inputs).map fun i => y i l k)
  idx.flatMap fun x =>
    let mine := raw.filter fun d => d.p == x.2
    let ds := (x.1.res l).filterMap fun k => mine.find? fun d => d.k == k
    if x.1.tp then untransform x.1.qm ds else ds

/-- The correction after symbol l (R351). -/
def trackStep (o : RxOp) (y : RxData) (ls : List RxLayer) (corr : Corr) (l : Nat) (ds : List Det) : Corr := fun p i b =>
  let idx := ls.zip (List.range ls.length)
  let err := fun (k : Nat) => idx.foldl (fun a x => match ds.find? fun d => d.p == x.2 && d.k == k with
    | some d => cqSub a (cqMul (cqAdd (x.1.est l i k) (corr x.2 i (k / 12))) d.f)
    | none => a) (y i l k)
  let mine := ds.filter fun d => d.p == p && d.k / 12 == b && cqNorm d.f != 0
  cqAdd (corr p i b) (cqScale (ratio 1 (2 ^ o.trk)) (cqMean (mine.map fun d => cqScale (1 / cqNorm d.f) (cqMul (err d.k) (cqConj d.f)))))

/-- What detection gives: the REs, and the correction in use at each symbol. -/
abbrev Detected := List Det × List (Nat × Corr)

/-- Detect symbols in an order, from a correction; up says that the weights are those of the last DMRS symbol, otherwise those of the first (R350, R351). Log: 70 DESIGN CHOICE. -/
def detectOrder (o : RxOp) (y : RxData) (ls : List RxLayer) (cov : Nat → List (List CQ)) : List (Nat × Bool) → Corr → Detected → Detected
  | [], _, a => a
  | (l, up) :: rest, corr, a =>
    let c := if o.dmrs.contains l then (fun _ _ _ => ((0, 0) : CQ)) else corr
    let anchor := if o.trk ≠ 0 then l
      else if up then ((o.dmrs.filter fun m => decide (m ≤ l)).getLast?).getD l else o.dmrs.headD l
    let ds := detectSym o y ls cov c l anchor
    detectOrder o y ls cov rest (if o.trk = 0 then c else trackStep o y ls c l ds) (a.1 ++ ds, a.2 ++ [(l, c)])

/-- Detect every symbol (R351): from the first DMRS symbol upwards, then from the symbol before it downwards. -/
def detectAll (o : RxOp) (y : RxData) (ls : List RxLayer) (cov : Nat → List (List CQ)) : Detected :=
  let first := o.dmrs.headD 0
  detectOrder o y ls cov ((o.syms.filter fun l => decide (first ≤ l)).map (·, true) ++ ((o.syms.filter fun l => decide (l < first)).reverse).map (·, false))
    (fun _ _ _ => (0, 0)) ([], [])

/-- The tracked channel of a layer at a symbol. -/
def trackedAt (d : Detected) (x : RxLayer) (p l i k : Nat) : CQ :=
  cqAdd (x.est l i k) (match d.2.find? fun c => c.1 == l with | some c => c.2 p i (k / 12) | none => (0, 0))

end Sys2Proof.Machine
end

