-- ==== Sys2Proof/Machine/Tdd.lean ====
section
/-!
DEFINITION. TDD groups (spec/08_port_processing.md R326 to R333): the settings in force, the pattern, transmit and receive intervals, PA ramps, the TDD_CTL
pins, and the change of settings at the 20 ms instant.
-/

namespace Sys2Proof.Machine

/-! ## Settings in force (R333) -/

/-- A TDD register as in force, or as it was before the last change. -/
def tddWord (s : State) (prev : Bool) (a : Nat) : Nat := (smGet regReset (if prev then s.tddPrev else s.tddLive) a).toNat

/-- A group's settings. -/
structure Tdd where
  tdd : Bool
  mu : Nat
  ofs : Int
  flex : Bool
  two : Bool
  p1 : Nat
  p2 : Nat
  up : Nat
  down : Nat
  tail : Int
  nta : Int

/-- The settings of group g, from the words of its registers. -/
def tddFrom (s : State) (word : Nat → Nat) (g : Nat) : Tdd :=
  let c := word (TDD_GRP_CFG g)
  let r := word (TDD_GRP_RAMP g)
  { tdd := bitOf c 0 == 1, mu := min 6 (bitsOf c 1 3), ofs := ciOfs s (bitsOf c 4 9), flex := bitOf c 13 == 1, two := bitOf c 16 == 1,
    p1 := word (TDD_GRP_P1 g), p2 := word (TDD_GRP_P2 g), up := bitsOf r 0 3, down := bitsOf r 4 3,
    tail := bitsOf r 8 8 * 10000, nta := 16 * bitsOf r 16 12 }

/-- The settings of group g in force, or those before the last change. -/
def tddOf (s : State) (prev : Bool) (g : Nat) : Tdd := tddFrom s (tddWord s prev) g

/-- The next instant at or after t at which r mod 20 ms is 0. -/
def next20ms (ofs t : Int) : Int := ctOfRadio (-((-(radioFine t ofs)) / (39321600 * 390625)) * 39321600) ofs

/-- The instant at which the written settings of group g take effect, where some wait (R333). -/
def tddChange (s : State) (g : Nat) : Option Int :=
  if isF s (TDD_GRP_CFG_PENDING g) then some (smGet (fun _ => 0) s.tddDue g) else none

/-- Written settings of group g wait for the next 20 ms instant of the REF_CI in force (R333): that of the first write, unless it is already past. -/
def tddPend (s : State) (g : Nat) : State :=
  match tddChange s g with
  | some c => if now s ≤ c then s else { s with tddDue := smPut (fun _ => 0) g (next20ms (tddOf s false g).ofs (now s)) s.tddDue }
  | none => setF { s with tddDue := smPut (fun _ => 0) g (next20ms (tddOf s false g).ofs (now s)) s.tddDue } (TDD_GRP_CFG_PENDING g) 1

/-- An instant before, and one after, every other. -/
def never : Int := 2 ^ 100

/-- The settings of group g over time, each with the instants from which and until which it is in force (R333). Log: 74 DEDUCED. -/
def tddPhases (s : State) (g : Nat) : List (Tdd × Int × Int) :=
  let a := smGet (fun _ => 0) s.tddAt g
  match tddChange s g with
  | some c => [(tddOf s true g, -never, a), (tddOf s false g, a, c), (tddFrom s (fun x => (getR s x).toNat) g, c, never)]
  | none => [(tddOf s true g, -never, a), (tddOf s false g, a, never)]

/-- The settings of group g in force at the instant t. -/
def tddWhen (s : State) (g : Nat) (t : Int) : Tdd :=
  match (tddPhases s g).find? fun x => decide (x.2.1 ≤ t ∧ t < x.2.2) with
  | some x => x.1
  | none => tddOf s false g

/-- The group of port ap (TDD_PORT_GRP in force). -/
def portGroupOf (s : State) (ap : Nat) : Nat := bitsOf (tddWord s false (TDD_PORT_GRP (ap / 8))) (4 * (ap % 8)) 4

/-- The group of port ap at an instant t before the written one's change: that in force, or the one before it. -/
def portGroupPast (s : State) (ap : Nat) (t : Int) : Nat :=
  match smGet (fun _ => none) s.portGrp ap with
  | some (a, old) => if t < a then old else portGroupOf s ap
  | none => portGroupOf s ap

/-- The group of port ap at the instant t: a written one takes effect with the new group's change (R333). -/
def portGroupWhen (s : State) (ap : Nat) (t : Int) : Nat :=
  let g := bitsOf (getR s (TDD_PORT_GRP (ap / 8))).toNat (4 * (ap % 8)) 4
  match tddChange s g with
  | some c => if c ≤ t then g else portGroupPast s ap t
  | none => portGroupPast s ap t

/-! ## The pattern (R326) -/

/-- A pattern's period in units of 1/8 ms. -/
def tddEighths (p : Nat) : Nat := getAt 80 [4, 5, 8, 10, 16, 20, 24, 32, 40, 80] (bitsOf p 0 4)

/-- The start of a symbol counted from radio time 0 (14 a slot), in Tc. -/
def absSymTc (mu : Nat) (a : Int) : Int := symStartTc mu (a / 14) (a % 14).toNat

/-- The first symbol that starts at or after radio time x. -/
def firstSymFrom (mu : Nat) (x : Int) : Int :=
  let n := 14 * slotAtFine mu (x * 390625)
  n + ((List.range 14).filter fun (l : Nat) => decide (absSymTc mu (n + (l : Int)) < x)).length

/-- The kind of symbol a: 0 downlink, 1 uplink, 2 flexible. The pattern is laid afresh every 20 ms; a repetition that would pass the next such instant is cut there. Log: 74 DEDUCED. -/
def symKind (d : Tdd) (a : Int) : Nat :=
  let x := absSymTc d.mu a
  let base := x - x % 39321600
  let m := x % 39321600
  let l1 : Int := tddEighths d.p1 * 245760
  let l2 : Int := tddEighths d.p2 * 245760
  let two := d.two && decide (39321600 % (l1 + l2) = 0)
  let off := m % (l1 + l2)
  let (p, start, len) := if two then (if off < l1 then (d.p1, m - off, l1) else (d.p2, m - off + l1, l2)) else (d.p1, m - m % l1, l1)
  let first := firstSymFrom d.mu (base + start)
  let n := (firstSymFrom d.mu (base + start + len) - first).toNat
  let dl := min n (14 * bitsOf p 4 9 + min 14 (bitsOf p 13 4))
  let ul := min (n - dl) (14 * bitsOf p 17 9 + min 14 (bitsOf p 26 4))
  let j := (a - first).toNat
  if j < dl then 0 else if n - ul ≤ j then 1 else 2

/-- Does the group transmit in symbol a (R327)? -/
def txSym (d : Tdd) (a : Int) : Bool := symKind d a == 0 || (d.flex && symKind d a == 2)

/-- The start of symbol a in CT. Log: 26 DEDUCED. -/
def symPs (d : Tdd) (a : Int) : Int := ctOfRadio (absSymTc d.mu a) d.ofs

/-- The symbol that holds the CT instant t. -/
def symAt (d : Tdd) (t : Int) : Int :=
  let n := 14 * slotAt d.mu d.ofs t
  n + (((List.range 14).filter fun (l : Nat) => decide (symPs d (n + (l : Int)) ≤ t)).length : Int) - 1

/-- The symbols from a to b. -/
def symsFrom (a b : Int) : List Int := (List.range (b - a + 1).toNat).map fun (i : Nat) => a + (i : Int)

/-! ## Intervals (R327) -/

/-- Does t lie in a transmit interval of the group? -/
def inTx (d : Tdd) (t : Int) : Bool := !d.tdd || (symsFrom (symAt d (t - d.tail)) (symAt d t)).any (txSym d)

/-- Does [x, y) lie in transmit intervals of the group? -/
def coversTx (d : Tdd) (x y : Int) : Bool :=
  !d.tdd || (symsFrom (symAt d x) (symAt d (y - 1))).all fun a => txSym d a || inTx d (min y (symPs d (a + 1)) - 1)

/-- Does a transmit interval begin with symbol a? -/
def txBegins (d : Tdd) (a : Int) : Bool := txSym d a && !inTx d (symPs d a - 1)

/-- The end of the transmit interval whose last symbol is a. -/
def txEnd (d : Tdd) (a : Int) : Int := symPs d (a + 1) + d.tail

/-- Does a transmit interval end after symbol a? -/
def txEnds (d : Tdd) (a : Int) : Bool := txSym d a && !inTx d (txEnd d a)

/-- The receive part of symbol a: NTA_OFS × 16 Tc earlier. -/
def rxPart (d : Tdd) (a : Int) : Int × Int := (ctOfRadio (absSymTc d.mu a - d.nta) d.ofs, ctOfRadio (absSymTc d.mu (a + 1) - d.nta) d.ofs)

/-- The receive parts that meet [x, y). -/
def rxParts (d : Tdd) (x y : Int) : List (Int × Int) :=
  let w := d.nta * 390625 / 768 + 1
  ((symsFrom (symAt d x) (symAt d (y + w))).filter fun a => symKind d a == 1).map (rxPart d) |>.filter fun r => decide (r.1 < y ∧ x < r.2)

/-! ## Ramps (R329, R330) -/

/-- The duration of a profile, in ps. -/
def rampPs (s : State) (k : Nat) : Int := clampNat 500 10000 (getF s (TDD_RAMP_CFG_DUR k)) * 1000

/-- The ramp-up before a transmit interval that begins with symbol a: its start, its end, and whether it was shortened. Log: 74 DEDUCED. -/
def rampUp (s : State) (d : Tdd) (a : Int) : Int × Int × Bool :=
  let e := symPs d a
  let lo := e - rampPs s d.up
  let rx := (rxParts d lo e).map (·.2)
  let tx := ((symsFrom (symAt d (lo - d.tail)) (a - 1)).filter (txSym d)).map (txEnd d)
  let st := min e ((rx ++ tx).foldl max lo)
  (st, e, decide (lo < st))

/-- The ramp-down after the transmit interval whose last symbol is a. Log: 74 DEDUCED. -/
def rampDown (s : State) (d : Tdd) (a : Int) : Int × Int × Bool :=
  let b := txEnd d a
  let hi := b + rampPs s d.down
  let rx := (rxParts d b hi).map (·.1)
  let tx := ((symsFrom (symAt d b + 1) (symAt d hi)).filter (txSym d)).map (symPs d)
  let en := max b ((rx ++ tx).foldl min hi)
  (b, en, decide (en < hi))

/-- The ramp at the edge t of a transmit interval: up where t begins one, else down where t ends one. -/
def rampAt (s : State) (d : Tdd) (up : Bool) (t : Int) : Option (Int × Int × Bool) :=
  if !d.tdd then none
  else if up then
    (let a := symAt d t
     if symPs d a = t ∧ txBegins d a = true then some (rampUp s d a) else none)
  else
    (let a := symAt d (t - d.tail - 1)
     if txEnd d a = t ∧ txEnds d a = true then some (rampDown s d a) else none)

/-- The ramp of group g at the edge t of a transmit interval, under the settings in force at the ramp's beginning (R331, R333). Log: 74 DEDUCED. -/
def rampWhen (s : State) (g : Nat) (up : Bool) (t : Int) : Option (Tdd × Int × Int × Bool) :=
  (tddPhases s g).findSome? fun p =>
    match rampAt s p.1 up t with
    | some x => if p.2.1 ≤ x.1 ∧ x.1 < p.2.2 then some (p.1, x) else none
    | none => none

/-! ## TDD_CTL pins (R332) -/

/-- The time from the start of the ramp-up before symbol a to the end of the ramp-down after it, where a is one of transmission. -/
def symActive (s : State) (d : Tdd) (a : Int) : Int × Int :=
  (if txBegins d a then (rampUp s d a).1 else symPs d a, if txEnds d a then (rampDown s d a).2.1 else txEnd d a)

/-- Is a symbol of transmission that starts in [u, v) active within [x, y], under the settings d, or the ramp-up before one that starts later, which begins in [u, v) and completes under
them? What begins before u is made by the settings before it (R333). -/
def activeIn (s : State) (d : Tdd) (u v x y : Int) : Bool :=
  if !d.tdd then decide (u ≤ y ∧ x < v)
  else (symsFrom (symAt d (x - 10001000 - d.tail)) (symAt d (y + 10001000))).any fun a =>
    txSym d a &&
      (let r := symActive s d a
       if symPs d a < v then decide (u ≤ symPs d a ∧ max u r.1 ≤ y ∧ x < r.2) else decide (u ≤ r.1 ∧ r.1 < v ∧ r.1 ≤ y ∧ x < symPs d a))

/-- The level of the pin of group g at the instant t (R332): active from LEAD before the start of each ramp-up to LAG after the end of the following ramp-down, all ADV earlier. Log: 74 DEDUCED. -/
def pinLevel (s : State) (g : Nat) (t : Int) : Bool :=
  let y := t + getSF s (TDD_PIN_ADV_ADV g)
  (tddPhases s g).any fun p => activeIn s p.1 p.2.1 p.2.2 (y - getF s (TDD_PIN_LL_LAG g) * 1000) (y + getF s (TDD_PIN_LL_LEAD g) * 1000)

/-- Is pin g at its active level? -/
def tddPinActive (s : State) (g : Nat) : Bool := smGet (fun _ => false) s.tddPins g

/-- Drive pin g to its active or inactive level. -/
def driveTddPin (s : State) (g : Nat) (active : Bool) : State :=
  if tddPinActive s g = active then s
  else emit { s with tddPins := smPut (fun _ => false) g active s.tddPins } (.tddPin g (active != isF s (TDD_PIN_POL g)) (now s))

/-- Is pin g driven by its group: EN set and TDD_CTL.ARM at 1? -/
def tddPinOn (s : State) (g : Nat) : Bool := isF s TDD_CTL_ARM && isF s (TDD_PIN_EN g)

/-- TDD_PIN_EDGE (R332): the pin of group g takes the level that its ramps and the settings in force give it, to within 1 ns (R333). While it is not driven the pin is inactive, and
that of an FDD group is active from arming onward. -/
def execTddPinEdge (g : Fin 16) (active : Bool) (dt : Nat) (s : State) : Res :=
  let s1 := atDt s dt
  let at_ := fun (e : Int) => (tddPinOn s1 g.val && pinLevel s1 g.val (now s1 + e)) == active
  .next (if at_ 0 || at_ 1000 || at_ (-1000) then driveTddPin s1 g.val active else s)

/-! ## Change of settings (R333) -/

/-- Bring one register of group g into force. Log: 74 DEDUCED. -/
def applyTdd (s : State) (a : Nat) : State :=
  { s with tddPrev := smPut regReset a (smGet regReset s.tddLive a) s.tddPrev, tddLive := smPut regReset a (getR s a) s.tddLive }

/-- Bring the group of port ap into force where it is written as g, from the instant t. -/
def applyPortGroup (g : Nat) (t : Int) (s : State) (ap : Nat) : State :=
  let a := TDD_PORT_GRP (ap / 8)
  if bitsOf (getR s a).toNat (4 * (ap % 8)) 4 = g ∧ portGroupOf s ap ≠ g then
    { s with tddLive := smPut regReset a (BitVec.ofNat 32 (putBits (tddWord s false a) (4 * (ap % 8)) 4 g)) s.tddLive,
             portGrp := smPut (fun _ => none) ap (some (t, portGroupOf s ap)) s.portGrp }
  else s

/-- TDD_SHADOW_APPLY (R333): from the 20 ms instant of the REF_CI in force on, the shadowed settings of group g are in effect. -/
def execTddShadowApply (g : Fin 16) (s : State) : Res :=
  match tddChange s g.val with
  | some t =>
    if reached s t then
      let s0 := setF s (TDD_GRP_CFG_PENDING g.val) 0
      let s1 := [TDD_GRP_CFG g.val, TDD_GRP_P1 g.val, TDD_GRP_P2 g.val, TDD_GRP_RAMP g.val].foldl applyTdd s0
      let s2 := (List.range 192).foldl (applyPortGroup g.val t) s1
      .next { s2 with tddAt := smPut (fun _ => 0) g.val t s2.tddAt }
    else .next s
  | none => .next s

end Sys2Proof.Machine
end

