-- ==== Sys2Proof/Machine/Orl.lean ====
section
/-!
DEFINITION. The Ozgeso radio link (spec/11_lanes.md R392 to R397, R399, R403; spec/08_port_processing.md R297 to R301, R328): sample groups and frames, fetching and sending,
receiving and missing groups, and the service blocks between frames.
-/

namespace Sys2Proof.Machine

/-! ## Lanes -/

/-- Counters of a lane, by their place from LAN_CNT_FEC_CORR on. -/
def cntFecCorr : Nat := 0
/-- LAN_CNT_FEC_UNC. -/
def cntFecUnc : Nat := 1
/-- LAN_CNT_MISSING. -/
def cntMissing : Nat := 2
/-- LAN_CNT_CRC. -/
def cntCrc : Nat := 3
/-- LAN_CNT_POISON. -/
def cntPoison : Nat := 4
/-- LAN_CNT_MARKER. -/
def cntMarker : Nat := 5
/-- LAN_CNT_FRAMING. -/
def cntFraming : Nat := 6
/-- LAN_CNT_LATE. -/
def cntLate : Nat := 7
/-- LAN_CNT_DROP. -/
def cntDrop : Nat := 8
/-- LAN_CNT_DOWN. -/
def cntDown : Nat := 9
/-- LAN_CNT_SEQ. -/
def cntSeq : Nat := 10

/-- Count n events of a lane. -/
def countLane (s : State) (l i n : Nat) : State := addF s (LAN_CNT_COUNT l i) n

/-- The ports of a lane's valid slots, in ascending slot order (R395). -/
def laneSlots (s : State) (l : Nat) : List Nat := (List.range 4).filterMap fun i => lanePort s l i

/-- Is the lane UP? -/
def laneIsUp (s : State) (l : Nat) : Bool := getF s (LAN_STAT_STATE l) == 2

/-- Line bits a second of an ORL lane (R390). -/
def lineRate (s : State) (l : Nat) : Nat := if getF s (LAN_CTL_MODE l) = 0 then 56250000000 else 28125000000

/-- Has the lane FEC (R390)? -/
def laneFec (s : State) (l : Nat) : Bool :=
  match getF s (LAN_CTL_MODE l) with
  | 0 => true
  | 2 => false
  | 1 | 3 => isF s (LAN_CTL_FEC l)
  | _ => true

/-! ## Groups and frames (R393 to R395) -/

/-- The CRC-12 of R394 over n bits of v, from the lowest. -/
def crc12 (v : Nat) (n : Nat) : Nat := (List.range n).foldl (fun r i => crcBit 12 0x80F r (bitOf v i)) 0xFFF

/-- The CRC-12 of a group: 16 fold bits of its port and index, then its bits [371:0]. -/
def groupCrc (ap : Nat) (g : Int) (v : Nat) : Nat :=
  crc12 (ap % 256 + 2 ^ 8 * unsignedOf 8 (g / 256) + 2 ^ 16 * (v % 2 ^ 372)) 388

/-- The 384 bits of group g of port ap, for its 360 bits of mantissas and exponent. -/
def groupBits (ap : Nat) (g : Int) (v : Nat) : Nat :=
  let w := v % 2 ^ 364 + 2 ^ 364 * unsignedOf 8 g
  w + 2 ^ 372 * groupCrc ap g w

/-- Does a received group pass its check (R394)? -/
def groupGood (ap : Nat) (g : Int) (v : Nat) : Bool := bitsOf v 364 8 == unsignedOf 8 g && bitsOf v 372 12 == groupCrc ap g v

/-- The bits of a frame of P groups: word w of the s-th is frame word w × P + s. -/
def frameBits (gs : List Nat) : Nat :=
  let p := gs.length
  (gs.zip (List.range p)).foldl (fun a x => (List.range 24).foldl (fun a w => a + bitsOf x.1 (16 * w) 16 * 2 ^ (16 * (w * p + x.2))) a) 0

/-- The 6P data blocks of a frame. -/
def frameBlocks (gs : List Nat) : List Nat := let v := frameBits gs; (List.range (6 * gs.length)).map fun j => bitsOf v (64 * j) 64

/-- The bits of the s-th of p groups of a frame's blocks. -/
def groupOf (p s : Nat) (bs : List Nat) : Nat :=
  (List.range 24).foldl (fun a w => let u := w * p + s; a + bitsOf (getAt 0 bs (u / 4)) (16 * (u % 4)) 16 * 2 ^ (16 * w)) 0

/-- Is a received block errored (R391, R397)? -/
def blockErrored (b : OrlBlock) : Bool := b.hdr == 0 || b.hdr == 3 || b.unc

/-- Does a block of the s-th of p groups carry an error? -/
def groupErrored (p s : Nat) (bs : List OrlBlock) : Bool :=
  (List.range 24).any fun w => match bs[(w * p + s) / 4]? with | some b => blockErrored b | none => true

/-- The 48 bytes of group g of port ap pass lane l, received (kind 1) or sent (2), as a unit of computation of the quadrant's check-value units (R287, R288). Log: 64 DEDUCED. -/
def cvuGroup (s : State) (l kind ap g v : Nat) : State := cvuPassQuad s (l / 16) kind (l % 16) (leBytes 48 v) ap (g % 256)

/-! ## The transmit stream (R391, R396, R399 to R403) -/

/-- Is the lane out of electrical idle (R419, R423)? A lane attached to a partition whose I/O is disabled stays in it (R458). -/
def laneLive (s : State) (l : Nat) : Bool :=
  isF s (LAN_CTL_EN l) && !(getLane s l).gave && (match lanePhx s l with | some p => isF s (PHX_CTL_IO_EN p) | none => true)

/-- Does the lane run the ORL protocol: an ORL mode, no partition attached? -/
def laneRadio (s : State) (l : Nat) : Bool := laneOrl s l && (lanePhx s l).isNone

/-- Kinds of service item, in the order of R403: a block of a marker. -/
def svcMarker : Nat := 0
/-- A RAMP. -/
def svcRamp : Nat := 1
/-- An OBS_REQ. -/
def svcObsReq : Nat := 2
/-- A CTL fragment. -/
def svcCtl : Nat := 3

/-- A control block: its type and 56 bits of content. -/
def ctrlBlock (type content : Nat) : Nat := type + 2 ^ 8 * (content % 2 ^ 56)

/-- The CRC16 of a marker's bits [183:0]. Log: 79 DEDUCED. -/
def markerCrc (v : Nat) : Nat := (List.range 184).foldl (fun r i => crcBit 16 0x1021 r (bitOf v i)) 0xFFFF

/-- The stamp fields of a marker from bit lo: SEC[31:0], NS and picoseconds. -/
def markerStamp (t : Int) (lo : Nat) : Nat := (secOf t % 2 ^ 32 + 2 ^ 32 * nsOf t + 2 ^ 62 * (t % 1000).toNat) * 2 ^ lo

/-- The line bits of n blocks after blk others, with the parity that falls due among them (R399). -/
def lineBits (fec : Bool) (blk n : Nat) : Nat := 66 * n + (if fec then 80 * ((blk % 20 + n) / 20) else 0)

/-- How many blocks after blk others end within so many line bits, each with the parity that falls due after it (R396). -/
def fitBlocks (fec : Bool) (blk bits : Nat) : Nat :=
  if fec then (let x := bits + 66 * (blk % 20); 20 * (x / 1400) + min 19 (x % 1400 / 66) - blk % 20) else bits / 66

/-- The instant at which block b of a lane's stream begins, from the lane's last known instant on. -/
def blockTime (s : State) (l b : Nat) : Int :=
  let h := getLane s l
  h.base + (ceilDiv (lineBits (laneFec s l) h.baseBlk (b - h.baseBlk) * 1000000000000) (lineRate s l) : Nat)

/-- The next marker of a lane, whose MK0 is the stream's next block, joins the service blocks (R400, R401). -/
def makeMarker (s : State) (l : Nat) : State :=
  let h := getLane s l
  let t := blockTime s l h.blocks
  let body := l % 16 + 2 ^ 8 * (h.mseq % 2 ^ 16) + markerStamp t 24 + 2 ^ 96 * (getR s (LKS_LANE_TXD (l / 16) (l % 16))).toNat
  let v := body + 2 ^ 184 * markerCrc body
  setLane s l { h with mseq := (h.mseq + 1) % 2 ^ 16, markers := ((h.mseq, t) :: h.markers).take 16, nextMk := h.nextMk + 1,
                       svc := ((List.range 4).map fun k => (svcMarker, ctrlBlock (0x78 + k) (bitsOf v (56 * k) 56))) ++ h.svc }

/-- The next n service positions of a lane: each carries the first available item in the order of R403, IDLE where there is none; marker k falls due at stream block 16,384 × k. The first
argument bounds the items, each of which is a block, a marker that falls due, or a run of IDLE blocks. -/
def serve (l : Nat) : Nat → Nat → State → State
  | 0, _, s => s
  | k + 1, n, s =>
    let h := getLane s l
    if n = 0 then s
    else if 16384 * h.nextMk ≤ h.blocks then serve l k n (makeMarker s l)
    else match h.svc with
      | x :: t => serve l k (n - 1) (emit (setLane s l { h with svc := t, blocks := h.blocks + 1 }) (.block l x.2))
      | [] =>
        let m := min n (16384 * h.nextMk - h.blocks)
        serve l k (n - m) (emit (setLane s l { h with blocks := h.blocks + m }) (.idleBlocks l m))

/-- The next n service positions of a lane. -/
def servePositions (s : State) (l n : Nat) : State := serve l ((getLane s l).svc.length + 6 * (n / 16384 + 2)) n s

/-- Bring the stream of a radio lane up to the instant t, with service positions alone (R403, R420: a lane sends blocks from when it leaves electrical idle). -/
def runLane (s : State) (l : Nat) (t : Int) : State :=
  let h := getLane s l
  if laneLive s l = false ∨ laneRadio s l = false then s
  else servePositions s l (fitBlocks (laneFec s l) h.baseBlk ((t - h.base).toNat * lineRate s l / 1000000000000) - (h.blocks - h.baseBlk))

/-- Does the lane send frames now: UP, with ports, its first frame begun (R420)? -/
def sendsFrames (s : State) (l : Nat) : Bool := laneIsUp s l && (getF s (PRM_Q_STAT_STATE (l / 16)) != 1) && (laneSlots s l != []) && decide ((getLane s l).framesFrom ≤ now s)

/-- Queue a service item; a lane that sends no frames has only service positions, and the item goes into the next. -/
def queueService (s : State) (l kind payload : Nat) : State :=
  let s0 := if sendsFrames s l then s else runLane s l (now s)
  let h := getLane s0 l
  let s1 := setLane s0 l { h with svc := insertBy (fun a b => decide (a.1 < b.1)) (kind, payload) h.svc }
  if sendsFrames s l then s1 else servePositions s1 l (h.svc.length + 1)

/-! ## Transmit (R297, R299 to R301, R328, R396) -/

/-- Blank the samples of a fetched group that lie outside the port's transmit intervals, by the settings in force at each sample's instant (R328, R333), and say whether one was other than zero. Log: 76 DEDUCED. -/
def blankGroup (s : State) (q p : Nat) (g : Int) (r : Nat) (dtx : Int) (v : Nat) : Nat × Bool :=
  (List.range 18).foldl (fun (a : Nat × Bool) (k : Nat) =>
    let t := ballInstant (18 * g + (k : Int)) r + dtx
    if inTx (tddWhen s (portGroupWhen s (48 * q + p) t) t) t then a
    else (putBits a.1 (20 * k) 20 0, a.2 || bitsOf v (20 * k) 20 != 0)) (v, false)

/-- Key of a port's group. -/
def groupKey (ap g : Nat) : Nat := ap * 2 ^ 48 + g

/-- The reference-plane instants of the first and the last sample of group g, sent with the delay d, or received with −d (R67, R297). -/
def groupSpan (g : Int) (r : Nat) (d : Int) : Int × Int := (ballInstant (18 * g) r + d, airTime g r + d)

/-- GROUP_FETCH (R300, R301, R328): 500 ns before its air time the lane reads group g of a port from the transmit area, converts it to B10, blanks it, and writes its entries back as
zeros; a group with a bad granule is zeros and counted. Log: 76 DEDUCED. -/
def execGroupFetch (port : Fin 192) (g : Nat) (s : State) : Res :=
  let q := port.val / 48
  let p := gangFirst s q (port.val % 48)
  match portLane s q p with
  | some l =>
    let r := lanePeriod s l
    let d := dTx s q l p
    match areaOf s q p (groupSpan g r d).1 (groupSpan g r d).2 with
    | some e =>
      if inCycle s (fetchInstant g r) = false then .next s
      else
        let base := csmFlat (8 * q + e.txCl)
        let off := e.txAddr + 90 * (g % e.txGa)
        let (bs, o) := engRead (engOpen s) base off 90
        let (m, x) := b10Of ((chunks 5 18 bs).map cx20Of)
        let (v, hit) := blankGroup s q p g r d (if o.bad then 0 else m + 2 ^ 360 * x)
        let s1 := wrMem o.st (base + off) (List.replicate 90 0)
        let s2 := if o.bad then countLane s1 l cntPoison 1 else s1
        let s3 := if hit then addF s2 (TDD_CNT_BLANKED (portGroupWhen s (48 * q + p) (airTime g r + d))) 1 else s2
        .next { s3 with txGroups := smPut (fun _ => 0) (groupKey (48 * q + p) g) v s3.txGroups }
    | none => .next s
  | none => .next s

/-- The line bits of a frame period (R396, R398). -/
def periodBits (s : State) (l : Nat) : Nat := lineRate s l * 18 * lanePeriod s l / 1966080000

/-- The timing fill after the last service block of a frame period, of which so many line bits are used: whole line symbols, and the phase step in 1/64 symbol (R396). Log: 77 DESIGN CHOICE. -/
def timingFill (s : State) (l used : Nat) : Output :=
  let sym := 1966080000 * (if getF s (LAN_CTL_MODE l) = 0 then 2 else 1)
  let left := lineRate s l * 18 * lanePeriod s l - used * 1966080000
  .fill l (left / sym) (64 * (left % sym) / sym)

/-- FRAME_TRANSMIT (R396, R301): at the air time of group g an UP lane sends the frame of the fetched groups of its ports, then the service positions and the timing fill up to the next
air time. Never before the air time and never later (R45): the stamp of the groups is that instant, at the ball (R65). -/
def execFrameTransmit (lane : Fin 64) (g : Nat) (s : State) : Res :=
  let l := lane.val
  let r := lanePeriod s l
  let ps := laneSlots s l
  let at_ := airTime g r
  if laneRadio s l = false ∨ laneIsUp s l = false ∨ ps = [] ∨ getF s (PRM_Q_STAT_STATE (l / 16)) = 1 ∨ at_ < (getLane s l).framesFrom ∨ inCycle s at_ = false then .next s
  else
    let aps := ps.map fun p => 48 * (l / 16) + p
    let vs := aps.map fun ap => smGet (fun _ => 0) s.txGroups (groupKey ap g)
    let n := 6 * ps.length
    let s0 := (aps.zip vs).foldl (fun s x => cvuGroup s l 2 x.1 g (groupBits x.1 g x.2)) (runLane s l at_)
    let b := (getLane s0 l).blocks
    let k := fitBlocks (laneFec s l) b (periodBits s l) - n
    let s1 := emit s0 (.frame l g (frameBlocks ((aps.zip vs).map fun x => groupBits x.1 g x.2)) at_)
    let s2 := (aps.zip vs).foldl (fun s x =>
      { s with sentGroups := smPut (fun _ => 0) (groupKey x.1 g) x.2 s.sentGroups, txGroups := smPut (fun _ => 0) (groupKey x.1 g) 0 s.txGroups }) s1
    let s3 := servePositions (setLane s2 l { getLane s2 l with blocks := b + n, base := at_, baseBlk := b }) l k
    .next (setLane (emit s3 (timingFill s l (lineBits (laneFec s l) b (n + k)))) l { getLane s3 l with base := airTime (g + 1) r, baseBlk := b + n + k })

/-! ## Receive (R298, R397, R399) -/

/-- What has become of a received group. -/
def rxGroup (s : State) (ap g : Nat) : Option Bool := smGet (fun _ => none) s.rxGroups (groupKey ap g)

/-- Write group g of a port into its receive area as 360 bits of mantissas and an exponent, and note whether it is valid; a missing one is zeros and counted (R298). Log: 78 DEDUCED. -/
def putGroup (s : State) (l q p g v : Nat) (valid : Bool) : State :=
  let span := groupSpan g (lanePeriod s l) (-dRx s q l p)
  let s1 := match areaOf s q p span.1 span.2 with
    | some e =>
      let base := csmFlat (8 * q + e.rxCl)
      let b := g % e.rxGa
      let a := base + e.rxAddr + padTo 160 (45 * e.rxGa) + b / 2
      let s1 := wrMem s (base + e.rxAddr + 45 * b) (leBytes 45 (if valid then v else 0))
      wrMem s1 a [BitVec.ofNat 8 (putBits (rdByte s1 a).toNat (4 * (b % 2)) 4 (if valid then v / 2 ^ 360 else 0))]
    | none => s
  let s2 := { s1 with rxGroups := smPut (fun _ => none) (groupKey (48 * q + p) g) (some valid) s1.rxGroups }
  if valid then s2 else countLane s2 l cntMissing 1

/-- Does the instant t lie in the interval of R297 for group g of period r? -/
def inGroup (t : Int) (r : Nat) (g : Int) : Bool :=
  decide ((18 * g - 18) * (r * 390625) ≤ t * 768 ∧ t * 768 ≤ (18 * g + 17) * (r * 390625) ∧ 0 ≤ g)

/-- The group to which a frame whose first bit came at t is assigned, by the SEQ of its groups (R397). Log: 78 DEDUCED. -/
def frameGroup (t : Int) (r : Nat) (seqs : List Nat) : Option Int :=
  let n := t * 768 / (r * 390625) / 18
  ([n - 1, n, n + 1].filter (inGroup t r)).find? fun g => seqs.contains (unsignedOf 8 g)

/-- GROUP_MISSING (R298): a group that has not come valid by the ball instant of its last sample is written as zeros and counted as missing. -/
def execGroupMissing (port : Fin 192) (g : Nat) (s : State) : Res :=
  let q := port.val / 48
  let p := gangFirst s q (port.val % 48)
  match portLane s q p with
  | some l =>
    if rxGroup s (48 * q + p) g = none ∧ reached s (airTime g (lanePeriod s l)) = true then .next (putGroup s l q p g 0 false) else .next s
  | none => .next s

end Sys2Proof.Machine
end

