-- ==== Sys2Proof/Machine/Ports.lean ====
section
/-!
DEFINITION. The transmit edge beside the groups (spec/08_port_processing.md R313 to R317, R331, R334 to R336; spec/11_lanes.md R406, R407): RAMP blocks, observation captures
and EVM, and the PRACH front end.
-/

namespace Sys2Proof.Machine

/-! ## RAMP blocks (R331, R406) -/

/-- The port slots of a lane whose port is in TDD group g at the instant t, as a mask. -/
def groupSlots (s : State) (l g : Nat) (t : Int) : Nat :=
  (List.range 4).foldl (fun a i => match lanePort s l i with
    | some p => if portGroupWhen s (48 * (l / 16) + gangFirst s (l / 16) p) t = g then a + 2 ^ i else a
    | none => a) 0

/-- The content of a RAMP block. -/
def rampContent (slots : Nat) (up : Bool) (k : Nat) (x : Int × Int × Bool) : Nat :=
  slots + 2 ^ 4 * ofBool (!up) + 2 ^ 5 * k + 2 ^ 8 * nsOf x.1 + 2 ^ 38 * (((x.2.1 - x.1) / 1000).toNat % 2 ^ 14)

/-- The instant by which `need` service blocks have left a lane that sends frames, from the frame of group g on, with blk blocks sent before it (R396). -/
def leftBy (s : State) (l n r : Nat) : Nat → Nat → Nat → Int → Int
  | 0, _, _, _ => never
  | k + 1, blk, need, g =>
    let m := fitBlocks (laneFec s l) blk (periodBits s l) - n
    if need ≤ m then airTime (g + 1) r else leftBy s l n r k (blk + n + m) (need - m) (g + 1)

/-- The instant by which a service block that is queued now has left a lane (R396, R403): after the blocks of its kind and of those before it that wait, and a marker that may fall due. Log: 74 DEDUCED. -/
def leavesBy (s : State) (l kind : Nat) : Int :=
  let h := getLane s l
  let need := (h.svc.filter fun x => decide (x.1 ≤ kind)).length + 5
  if sendsFrames s l then (let r := lanePeriod s l; leftBy s l (6 * (laneSlots s l).length) r 4096 h.blocks need (now s * 768 / (r * 390625) / 18 + 1))
  else now s + (ceilDiv (lineBits (laneFec s l) 19 (need + 1) * 1000000000000) (lineRate s l) : Nat)

/-- Has the ramp of group g at the edge t of a transmit interval been sent (R331: each ramp is sent once)? -/
def rampDone (s : State) (g : Nat) (up : Bool) (t : Int) : Bool :=
  match smGet (fun _ => none) s.rampSent (2 * g + ofBool up) with | some e => decide (t ≤ e) | none => false

/-- RAMP (R331, R333, R406): the ramp of group g at the edge t of a transmit interval is sent once to every UP ORL lane with ports of the group, at least 20 µs before it begins; one that was
shortened is counted. Log: 74 DEDUCED. -/
def execRamp (g : Fin 16) (up : Bool) (t : Int) (s : State) : Res :=
  match rampWhen s g.val up t with
  | some (d, x) =>
    if x.1 < now s + 20000000 ∨ rampDone s g.val up t = true then .next s
    else
      let s1 := (List.range 64).foldl (fun s l =>
        let m := if laneRadio s l && laneIsUp s l then groupSlots s l g.val x.1 else 0
        if m = 0 ∨ x.1 < leavesBy s l svcRamp + 20000000 then s else queueService s l svcRamp (ctrlBlock 0x5A (rampContent m up (if up then d.up else d.down) x)))
        { s with rampSent := smPut (fun _ => none) (2 * g.val + ofBool up) (some t) s.rampSent }
      .next (if x.2.2 then addF s1 (TDD_CNT_SHORTENED g.val) 1 else s1)
  | none => .next s

/-! ## Observation (R334 to R336, R407) -/

/-- The captures in progress of a port, oldest first. -/
def getCaptures (s : State) (ap : Nat) : List Capture := smGet (fun _ => []) s.captures ap
/-- Store the captures of a port. -/
def setCaptures (s : State) (ap : Nat) (c : List Capture) : State := { s with captures := smPut (fun _ => []) ap c s.captures }

/-- The capture of slot n of REF_CI on a port: its symbol's start and end (R334). -/
def obsSymbol (s : State) (q p : Nat) (slot : Int) : Int × Int :=
  let ci := getF s (PFE_OBS_CTL_REF_CI q p)
  let l := min (lastSym (ciMu s ci)) (getF s (PFE_OBS_CTL_OBS_SYM q p))
  (symStart (ciMu s ci) (ciOfs s ci) slot l, symStart (ciMu s ci) (ciOfs s ci) slot (l + 1))

/-- Is slot n of REF_CI observed on port ap: is it enabled, a plan installed, and does its symbol lie in a transmit interval (R334)? -/
def observed (s : State) (ap : Nat) (slot : Int) : Bool :=
  let q := ap / 48
  let p := ap % 48
  let t := obsSymbol s q p slot
  isF s (PFE_OBS_CTL_EN q p) && planInstalled s (getF s (PFE_OBS_CTL_REF_CI q p)) && coversTx (tddWhen s (portGroupWhen s ap t.1) t.1) t.1 t.2

/-- OBS_REQ (R334, R407): for a capture in slot n of REF_CI, whose symbol OBS_SYM lies in a transmit interval of the port, a request goes out at least 20 µs before it begins, once. Log: 73 DEDUCED, 75 DEDUCED. -/
def execObsReq (port : Fin 192) (slot : Nat) (s : State) : Res :=
  let q := port.val / 48
  let p := port.val % 48
  let t := (obsSymbol s q p slot).1
  match portLane s q p with
  | some l =>
    let r := lanePeriod s l
    match (List.range 4).find? fun i => lanePort s l i == some p with
    | some i =>
      if observed s port.val slot = false ∨ laneIsUp s l = false ∨ t < leavesBy s l svcObsReq + 20000000 ∨ ((getCaptures s port.val).any fun c => c.slot == slot) = true then .next s
      else
        let len := clampNat 1 128 (getF s (PFE_OBS_CTL_OBS_LEN q p))
        let g := (t - dTx s q l p) * 768 / (r * 390625) / 18
        let c : Capture := { first := g, len := len, slot := slot, due := airTime (g + len - 1) r + dTx s q l p + 50000000 }
        .next (queueService (setCaptures s port.val (getCaptures s port.val ++ [c])) l svcObsReq
          (ctrlBlock 0x33 (i + 2 ^ 2 * (len - 1) + 2 ^ 10 * unsignedOf 46 g)))
    | none => .next s
  | none => .next s

/-- Is an observation group one of a capture that may still take it: of its groups, and not after the capture's bound (R407)? i is its place and g32 the low bits of its index. -/
def obsFits (s : State) (i g32 : Nat) (c : Capture) : Bool := decide (i < c.len) && g32 == unsignedOf 32 (c.first + i) && decide (now s ≤ c.due)

/-- Put a capture in the place of the one of the same slot. -/
def putCapture (s : State) (ap : Nat) (c : Capture) : State := setCaptures s ap ((getCaptures s ap).map fun x => if x.slot = c.slot then c else x)

/-- Remove the capture of a slot. -/
def dropCapture (s : State) (ap : Nat) (c : Capture) : State := setCaptures s ap ((getCaptures s ap).filter fun x => x.slot != c.slot)

/-- One observation group of six data blocks, of place i of its capture and the low bits g32 of its index, on port slot j of a lane (R407): checked with its own g. One that comes after its
capture's bound is discarded. -/
def takeObs (s : State) (l j i g32 : Nat) (blocks : List OrlBlock) : State :=
  let q := l / 16
  match lanePort s l j with
  | some p =>
    match (getCaptures s (48 * q + p)).find? (obsFits s i g32) with
    | some x =>
      let v := (blocks.zip (List.range 6)).foldl (fun a b => a + b.1.payload.toNat * 2 ^ (64 * b.2)) 0
      if blocks.any blockErrored then s
      else if groupGood (48 * q + p) (x.first + i) v = false then countLane s l cntCrc 1
      else putCapture s (48 * q + p) { x with got := smPut (fun _ => 0) i (v + 1) x.got }
    | none => s
  | none => s

/-- Have all groups of a capture come? -/
def captureDone (c : Capture) : Bool := decide (c.got.length = c.len)

/-- CAPTURE_DEADLINE (R336, R407): the oldest capture that is not complete 50 µs after its last group's instant leaves the value and sets MISSING. Log: 75 DEDUCED. -/
def execCaptureDeadline (port : Fin 192) (s : State) : Res :=
  match (getCaptures s port.val).find? fun c => !captureDone c && reached s c.due with
  | some c => .next (setF (dropCapture s port.val c) (PFE_EVM_MISSING (port.val / 48) (port.val % 48)) 1)
  | none => .next s

/-! ### The measurement (R335) -/

/-- Sample n of a port as the lane sent it. -/
def sentSample (s : State) (ap : Nat) (n : Int) : Cplx :=
  let v := smGet (fun _ => 0) s.sentGroups (groupKey ap (n / 18).toNat)
  if n < 0 then (0, 0) else getAt (0, 0) (b10Samples v (bitsOf v 360 4)) (n % 18).toNat

/-- The samples of an observation group as held. -/
def obsSamples (v : Nat) : List Cplx := b10Samples (v - 1) (bitsOf (v - 1) 360 4)

/-- Sample n of the reference delayed by tau sixteenths of a sample period: between the samples an interpolator gives it, whose taps the spec leaves open. Log: 69 DESIGN CHOICE. -/
def delayedRef (x : Int → Cplx) (tau n : Int) : CQ :=
  let d := tau / 16
  let ph := (tau % 16).toNat
  if ph = 0 then cqOf (x (n - d))
  else cqScale (ratio 1 (2 ^ 20)) (cqSum ((List.range 16).map fun (j : Nat) => cqScale (Config.evmTap ph j : Rat) (cqOf (x (n - d + 7 - (j : Int))))))

/-- The least sum of |y − g × x|² over the complex gains g. -/
def residual (y x : List CQ) : Rat :=
  let e := ratSum (y.map cqNorm)
  let p := ratSum (x.map cqNorm)
  if p = 0 then e else e - cqNorm (cqDot y (x.map cqConj)) / p

/-- The search over tau (R335): the first of the least residuals, and its tau. Log: 69 DESIGN CHOICE. -/
def bestDelay (y : List CQ) (x : Int → Cplx) (n0 : Int) : Rat × Int :=
  ((List.range 65).map fun (i : Nat) => (i : Int) - 32).foldl (fun (a : Rat × Int) tau =>
    let r := residual y ((List.range y.length).map fun (k : Nat) => delayedRef x tau (n0 + (k : Int)))
    if r < a.1 then (r, tau) else a) (ratSum (y.map cqNorm) + 1, 0)

/-- EVM_MEASUREMENT (R335, R336): the oldest complete capture gives the value, its slot and tau; a reference that is zero throughout sets NO_SIGNAL. Log: 69 DESIGN CHOICE. -/
def execEvmMeasurement (port : Fin 192) (s : State) : Res :=
  let q := port.val / 48
  let p := port.val % 48
  match (getCaptures s port.val).find? captureDone with
  | some c =>
    let s1 := dropCapture s port.val c
    let y := ((List.range c.len).flatMap fun i => obsSamples (smGet (fun _ => 0) c.got i)).map cqOf
    let power := ratSum ((List.range (18 * c.len)).map fun (k : Nat) => cqNorm (cqOf (sentSample s port.val (18 * c.first + (k : Int)))))
    if power = 0 then .next (setF s1 (PFE_EVM_NO_SIGNAL q p) 1)
    else
      let r := match portLane s q p with | some l => lanePeriod s l | none => 1
      let best := bestDelay y (sentSample s port.val) (18 * c.first)
      let s2 := setF (setSF s1 (PFE_EVM_EVM q p) (clampInt (-700) 100 (dbQ (best.1 / power)))) (PFE_EVM_VALID q p) 1
      .next (setSF (setF s2 (PFE_EVM_SLOT_SLOT q p) (unsignedOf 32 c.slot)) (PFE_EVM_DLY_TAU q p) (roundDiv (best.2 * r * 390625) (768 * 16)))
  | none => .next s

/-! ## PRACH front end (R313 to R317) -/

/-- The format of a context; codes 10 to 15 are 9. -/
def pfeFormat (s : State) (q n : Nat) : Nat := min 9 (getF s (PFE_CTX_CTL_FORMAT q n))
/-- NREP of a context. -/
def pfeNrep (s : State) (q n : Nat) : Nat := clampNat 1 128 (getF s (PFE_CTX_CTL_NREP q n))
/-- Transforms per occasion. -/
def pfeTransforms (f nrep : Nat) : Nat := if 8 ≤ f then 20 * nrep else getAt 0 [1, 2, 4, 4, 1, 1, 2, 2] f
/-- Occasion length, in µs. -/
def pfeLength (f nrep : Nat) : Nat :=
  if f = 8 then 5600 * nrep else if f = 9 then 6400 * nrep else getAt 0 [1000, 3000, 3500, 1000, 1000, 2000, 2000, 3000] f
/-- Load per port, in points/ms. -/
def pfePoints (f : Nat) : Nat := getAt 0 [24576, 16384, 28087, 24576, 24576, 12288, 24576, 16384, 1829, 1600] f
/-- Bins written per transform. -/
def pfeBins (f : Nat) : Nat := if 8 ≤ f then 48 else 839
/-- The ports of a context, ascending. -/
def pfePorts (s : State) (q n : Nat) : List Nat := setBits 48 0 (getF s (PFE_CTX_PORTS_PORTS q n))
/-- The bytes of an output entry (R316). -/
def pfeEntry (s : State) (q n : Nat) : Nat :=
  let f := pfeFormat s q n
  64 + (pfePorts s q n).length * pfeTransforms f (pfeNrep s q n) * (if 8 ≤ f then 320 else 4320)
/-- The load of a context (R315). -/
def pfeLoad (s : State) (q n : Nat) : Nat := (pfePorts s q n).length * pfePoints (pfeFormat s q n)
/-- The load of the enabled contexts of a quadrant. -/
def pfeLoads (s : State) (q : Nat) : Nat := (List.range 32).foldl (fun a n => if isF s (PFE_CTX_CTL_EN q n) then a + pfeLoad s q n else a) 0
/-- Entries of a context's output ring; 0 is 1. -/
def pfeNbuf (s : State) (q n : Nat) : Nat := max 1 (getF s (PFE_CTX_OUT_NBUF q n))

/-- Enable a context, or refuse it for load or placement (R315). Log: 73 DEDUCED. -/
def enablePfe (s : State) (q n : Nat) : State :=
  if isF s (PFE_CTX_CTL_EN q n) then s
  else if 1572864 < pfeLoads s q + pfeLoad s q n ∨ inCsm (getF s (PFE_CTX_OUT_ADDR q n)) (pfeNbuf s q n * pfeEntry s q n) = false then
    refresh (setF (setF s (PFE_STAT_REFUSED q) 1) (PFE_STAT_CTX q) n) (qSrc q 187)
  else
    let ci := getF s (PFE_CTX_CTL_CI q n)
    let mu := ciMu s ci
    let at_ := slotBoundary mu (ciOfs s ci) (firstSlotAt mu (ciOfs s ci) (now s))
    let s1 := setF s (PFE_CTX_CTL_EN q n) 1
    { setF s1 (PFE_LOAD_POINTS q) (pfeLoads s1 q) with pfeFrom := smPut (fun _ => 0) (32 * q + n) at_ s.pfeFrom }

/-- Disable a context. -/
def disablePfe (s : State) (q n : Nat) : State := let s1 := setF s (PFE_CTX_CTL_EN q n) 0; setF s1 (PFE_LOAD_POINTS q) (pfeLoads s1 q)

/-- PFE_CONTEXT_ENABLE (R315): the write of 1 to PFE_CTX_CTL.EN. -/
def execPfeContextEnable (q : Fin 4) (n : Fin 32) (s : State) : Res := .next (if quadDark s q.val then s else enablePfe s q.val n.val)

/-- Has quadrant q's PFE failed its check within an occasion (R504)? Every group of it then counts as missing. -/
def pfeHurt (s : State) (q : Nat) (a b : Int) : Bool := match smGet (fun _ => none) s.pfeCheck q with | some t => decide (a ≤ t ∧ t ≤ b) | none => false

/-- The groups of a port that an occasion touches, with the count of those not valid, and its first sample and sample count. -/
def pfeSpan (s : State) (q p l : Nat) (a b : Int) : Int × Nat × Nat :=
  let r : Int := lanePeriod s l
  let m := -((-((a + dRx s q l p) * 768)) / (r * 390625))
  let e := -((-((b + dRx s q l p) * 768)) / (r * 390625))
  let gs := (List.range ((e - 1) / 18 - m / 18 + 1).toNat).map fun (i : Nat) => m / 18 + (i : Int)
  (m, (e - m).toNat, (gs.filter fun g => pfeHurt s q a b || rxGroup s (48 * q + p) g.toNat != some true).length)

/-- The starts of the transforms of an occasion, in Ts from its beginning: after each cyclic prefix, the sequence's repetitions (TS 38.211 and TS 36.211). Log: 146 PRESUMED. -/
def pfeStarts (f nrep : Nat) : List Nat :=
  let runs := fun (cp u n : Nat) => (List.range n).map fun i => cp + u * i
  if 8 ≤ f then (List.range (4 * nrep)).flatMap fun g => runs (if f = 8 then 43008 * g + 2048 else 49152 * g + 8192) 8192 5
  else getAt [] [runs 3168 24576 1, runs 21024 24576 2, runs 4688 24576 4, runs 3168 6144 4, runs 3168 24576 1, runs 21024 24576 1, runs 6240 24576 2, runs 21024 24576 2] f

/-- The length of a transform in Ts, and its points at 30.72 Msps, or 1.92 Msps for NPRACH (R313). -/
def pfeUseful (f : Nat) : Nat × Nat := if 8 ≤ f then (8192, 512) else if f = 3 then (6144, 6144) else (24576, 24576)

/-- The frequency of bin b from the centre of the band, in Hz. Log: 146 PRESUMED. -/
def binHz (f b : Nat) : Int := ((b : Int) - (pfeBins f / 2 : Nat)) * (if 8 ≤ f then 3750 else if f = 3 then 5000 else 1250)

/-- A bin of a transform, from the samples of its length, the first of which lies tau Tc after it begins (R313): the sum, scaled to the transform's points; a port of a lower rate has as many points as samples. -/
def pfeBin (f r : Nat) (shift : Int) (ins : List Cplx) (tau : Rat) (b : Nat) : CQ :=
  cqScale (ratio (min (pfeUseful f).2 ins.length) ins.length) (cqSum ((ins.zip (List.range ins.length)).map fun v =>
    cqMul (cqOf v.1) (turn (-(((binHz f b + shift : Int) : Rat) * (tau + ((v.2 * r : Nat) : Rat)) / (tcPerSec : Rat))))))

/-- The bins of one transform, padded to a multiple of 160 bytes: each the ideal value moved by a free error. Log: 68 DESIGN CHOICE. -/
def pfeBlock (args : List Int) (f r : Nat) (shift : Int) (ins : List Cplx) (tau : Rat) (t : Nat) : List Byte :=
  let mag := ratio (min (pfeUseful f).2 ins.length * magSum ins) ins.length
  let tol := if mag = 0 then 0 else mag * ratio Config.pfeSlack 1000 + 1
  padZero 160 ((List.range (pfeBins f)).flatMap fun k =>
    cx20Bytes (satCx20 (near tol (pfeBin f r shift ins tau k) (Config.pfeValue args ins t (2 * k), Config.pfeValue args ins t (2 * k + 1)))))

/-- The samples that an occasion takes of a port, those of missing groups as zeros (R317). -/
def pfeSamples (s : State) (q p : Nat) (a b m : Int) (raw : List Cplx) : List Cplx :=
  (raw.zip (List.range raw.length)).map fun x =>
    if pfeHurt s q a b || rxGroup s (48 * q + p) ((m + (x.2 : Int)) / 18).toNat != some true then (0, 0) else x.1

/-- The block of one port in an output entry: the samples that the occasion takes of it, transformed, and the missing groups (R316). Log: 68 DESIGN CHOICE. -/
def pfePort (s : State) (q n f nrep : Nat) (a b : Int) (x : EngIo × List Byte × Nat) (p : Nat) : EngIo × List Byte × Nat :=
  let starts := pfeStarts f nrep
  match portLane s q p, areaOf s q p a b with
  | some l, some e =>
    let r := lanePeriod s l
    let d := dRx s q l p
    let (m, len, bad) := pfeSpan s q p l a b
    let (raw, o1) := readArea x.1 (csmFlat (8 * q + e.rxCl)) e m len
    let ins := pfeSamples s q p a b m raw
    let shift := getSF s (PFE_CTX_FSHIFT_FSHIFT q n)
    let args : List Int := [f, shift, p, a, m, r, d]
    let one := fun (t st : Nat) =>
      let origin := tcOfPs (a + d) + ((64 * st : Nat) : Rat)
      let n0 : Int := -((-(origin / (r : Rat))).floor)
      pfeBlock args f r shift ((List.range (64 * (pfeUseful f).1 / r)).map fun i => getAt (0, 0) ins ((n0 - m).toNat + i)) (((n0 * r : Int) : Rat) - origin) t
    (o1, x.2.1 ++ ((starts.zip (List.range starts.length)).flatMap fun st => one st.2 st.1), x.2.2 + bad)
  | _, _ => (x.1, x.2.1 ++ starts.flatMap fun _ => padZero 160 (List.replicate (5 * pfeBins f) 0), x.2.2)

/-- Has every group that an occasion touches on a port come, or gone missing at its bound (R298, R316)? -/
def pfeGathered (s : State) (q : Nat) (a b : Int) (p : Nat) : Bool :=
  match portLane s q p with
  | some l => (let (m, len, _) := pfeSpan s q p l a b; decide (airTime ((m + len - 1) / 18) (lanePeriod s l) ≤ now s))
  | none => true

/-- Write an output entry of a context and count its occasion (R316, R317): the header, then the blocks of its ports. -/
def pfeOutput (s : State) (q n nt np : Nat) (a : Int) (x : EngIo × List Byte × Nat) : State :=
  let cnt := getF s (PFE_CTX_CNT_OCCASIONS q n)
  let hdr := [secOf a % 2 ^ 32, nsOf a, cnt, np, nt, x.2.2].flatMap (leBytes 4)
  let off := getF s (PFE_CTX_OUT_ADDR q n) + (cnt % pfeNbuf s q n) * pfeEntry s q n
  let o := engWrite x.1 (csmFlat (8 * q + getF s (PFE_CTX_OUT_CLUSTER q n))) off (padZero 64 hdr ++ x.2.1)
  setF (engClose o) (PFE_CTX_CNT_OCCASIONS q n) ((cnt + 1) % 2 ^ 32)

/-- The instants at which occasion i of period j of a context begins and ends (R314, R317). -/
def pfeTimes (s : State) (q n i j : Nat) : Int × Int :=
  let per := clampNat 1 160 (getF s (PFE_CTX_SCHED_PERIOD_MS q n))
  let ofs := min (getF s (PFE_CTX_OCC_OFS q n i)) (per * 1000000 - 1)
  let a := ctOfRadio ((j * per * 1966080 : Nat) : Int) (ciOfs s (getF s (PFE_CTX_CTL_CI q n))) + ofs * 1000
  (a, a + pfeLength (pfeFormat s q n) (pfeNrep s q n) * 1000000)

/-- PRACH_OCCASION (R314, R316, R317): once occasion i of period j has ended and its groups have come or gone missing, an enabled context completes its output entry;
a check that the PFE failed meanwhile makes every group missing (R504). Log: 73 DEDUCED. -/
def execPrachOccasion (q : Fin 4) (n : Fin 32) (i : Fin 8) (j : Nat) (s : State) : Res :=
  let x := pfeTimes s q n i j
  let ports := (pfePorts s q n).map fun p => gangFirst s q p
  if isF s (PFE_CTX_CTL_EN q n) = false ∨ clampNat 1 8 (getF s (PFE_CTX_SCHED_NOCC q n)) ≤ i.val ∨ x.1 < smGet (fun _ => 0) s.pfeFrom (32 * q.val + n.val) ∨
      ports.all (pfeGathered s q x.1 x.2) = false then .next s
  else .next (pfeOutput s q n (pfeTransforms (pfeFormat s q n) (pfeNrep s q n)) ports.length x.1
    (ports.foldl (pfePort s q n (pfeFormat s q n) (pfeNrep s q n) x.1 x.2) (engOpen s, [], 0)))

end Sys2Proof.Machine
end

