-- ==== Sys2Proof/Machine/Preamble.lean ====
section
/-!
DEFINITION. Random-access preambles (spec/09_receive.md R363 to R368) as functions of their bins: sequences and cyclic shifts, correlation, noise, peaks, and the report's order.
Sequences, shifts and hopping are those of TS 38.211 and TS 36.211, which the spec names and does not restate. Log: 72 PRESUMED.
-/

namespace Sys2Proof.Machine

/-! ## The scrambling sequence -/

/-- One step of the two registers of the Gold sequence (TS 38.211 5.2.1), 31 bits each. -/
def goldStep (r : Nat × Nat) : Nat × Nat :=
  (r.1 / 2 + 2 ^ 30 * ((bitOf r.1 3 + bitOf r.1 0) % 2), r.2 / 2 + 2 ^ 30 * ((bitOf r.2 3 + bitOf r.2 2 + bitOf r.2 1 + bitOf r.2 0) % 2))

/-- Step the registers n times. -/
def goldSkip : Nat → Nat × Nat → Nat × Nat
  | 0, r => r
  | n + 1, r => goldSkip n (goldStep r)

/-- n bits of the sequence from the registers' present state. -/
def goldFrom : Nat → Nat × Nat → List Bool
  | 0, _ => []
  | n + 1, r => ((bitOf r.1 0 + bitOf r.2 0) % 2 == 1) :: goldFrom n (goldStep r)

/-- The first n bits of the scrambling sequence for CINIT (R374). Log: 72 PRESUMED. -/
def goldBits (cinit n : Nat) : List Bool := goldFrom n (goldSkip 1600 (1, cinit))

/-! ## Sequences and shifts (R364) -/

/-- Length of the sequences by ZSEL, and points of the correlation (R340, R364). -/
def raLength (zsel : Nat) : Nat := match zsel with | 0 => 839 | 1 => 139 | _ => 48
/-- Points of the correlation. -/
def raPoints (zsel : Nat) : Nat := match zsel with | 0 => 1024 | 1 => 256 | _ => 64

/-- Sample m of the Zadoff–Chu sequence of root u. -/
def zcTime (len u m : Nat) : CQ := turn (-(ratio (u * m * (m + 1)) (2 * len)))

/-- Bin n of the sequence's transform. -/
def zcBin (len u n : Nat) : CQ := cqSum ((List.range len).map fun m => cqMul (zcTime len u m) (turn (-(ratio (m * n) len))))

/-- d_u of a root: the least distance of its inverse modulo the length from 0. -/
def rootShift (len u : Nat) : Nat :=
  match (List.range len).find? fun q => q * u % len == 1 with
  | some q => if 2 * q < len then q else len - q
  | none => 0

/-- The cyclic shifts of a root by restricted set type A. -/
def shiftsA (len ncs u : Nat) : List Nat :=
  let d := rootShift len u
  let make := fun (shift start group extra : Nat) => (List.range (shift * group + extra)).map fun v => start * (v / shift) + v % shift * ncs
  if ncs ≤ d ∧ 3 * d < len then
    (let shift := d / ncs
     let start := 2 * d + shift * ncs
     make shift start (len / start) ((len - 2 * d - len / start * start) / ncs))
  else if len ≤ 3 * d ∧ 2 * d + ncs ≤ len then
    (let shift := (len - 2 * d) / ncs
     let start := len - 2 * d + shift * ncs
     make shift start (d / start) (min ((d - d / start * start) / ncs) shift))
  else []

/-- What a run of cyclic shifts of restricted set type B is made of (TS 38.211 6.3.3.1, TS 36.211 5.7.2): shifts a group, start, groups, shifts beyond them, and the two further runs' starts and lengths. -/
structure ShiftRun where
  shift : Nat
  start : Nat
  group : Nat
  extra : Nat
  start2 : Nat := 0
  start3 : Nat := 0
  more2 : Nat := 0
  more3 : Nat := 0

/-- The run of a root of distance d by restricted set type B, in the six ranges of d; none outside them. Log: 72 PRESUMED. -/
def runB (len ncs d : Nat) : Option ShiftRun :=
  if ncs ≤ d ∧ 5 * d < len then
    (let s := 4 * d + d / ncs * ncs
     some ⟨d / ncs, s, len / s, (len - 4 * d - len / s * s) / ncs, 0, 0, 0, 0⟩)
  else if len ≤ 5 * d ∧ 4 * d + ncs ≤ len then
    (let n := (len - 4 * d) / ncs
     let s := len - 3 * d + n * ncs
     some ⟨n, s, d / s, min ((d - d / s * s) / ncs) n, 0, 0, 0, 0⟩)
  else if len + ncs ≤ 4 * d ∧ 7 * d < 2 * len then
    (let n := (4 * d - len) / ncs
     let s := 4 * d - len + n * ncs
     let g := d / s
     let e := (len - 3 * d - g * s) / ncs
     let m2 := min (d - g * s) (4 * d - len - e * ncs) / ncs
     let m3 := (if e = 0 then d - g * s else 4 * d - len - e * ncs) / ncs - m2
     some ⟨n, s, g, e, len - 3 * d + g * s + e * ncs, len - 2 * d + g * s + m2 * ncs, m2, m3⟩)
  else if 2 * len ≤ 7 * d ∧ 3 * d + ncs ≤ len then
    (let n := (len - 3 * d) / ncs
     let s := len - 3 * d + n * ncs
     let g := d / s
     let e := (4 * d - len - g * s) / ncs
     some ⟨n, s, g, e, d + g * s + e * ncs, 0, min (d - g * s) (len - 3 * d - e * ncs) / ncs, 0⟩)
  else if len + ncs ≤ 3 * d ∧ 5 * d < 2 * len then
    (let n := (3 * d - len) / ncs
     let s := 3 * d - len + n * ncs
     some ⟨n, s, d / s, (len - 2 * d - d / s * s) / ncs, 0, 0, 0, 0⟩)
  else if 2 * len ≤ 5 * d ∧ 2 * d + ncs ≤ len then
    (let n := (len - 2 * d) / ncs
     let s := 2 * (len - 2 * d) + n * ncs
     some ⟨n, s, (len - d) / s, (3 * d - len - (len - d) / s * s) / ncs, 0, 0, 0, 0⟩)
  else none

/-- The cyclic shifts of a root by restricted set type B. -/
def shiftsB (len ncs u : Nat) : List Nat :=
  match runB len ncs (rootShift len u) with
  | some r => ((List.range (r.shift * r.group + r.extra)).map fun v => r.start * (v / r.shift) + v % r.shift * ncs) ++
      ((List.range r.more2).map fun v => r.start2 + v * ncs) ++ (List.range r.more3).map fun v => r.start3 + v * ncs
  | none => []

/-- The cyclic shifts of a root, in preamble order (R364). -/
def rootShifts (len ncs rset u : Nat) : List Nat :=
  if ncs = 0 then [0]
  else match rset with
    | 0 => (List.range (len / ncs)).map (· * ncs)
    | 1 => shiftsA len ncs u
    | _ => shiftsB len ncs u

/-- The further windows of a restricted set: by ±d_u, and ±2 d_u for type B. -/
def windowOffsets (len rset u : Nat) : List Int :=
  let d : Int := rootShift len u
  match rset with | 0 => [0] | 1 => [0, d, -d] | _ => [0, d, -d, 2 * d, -2 * d]

/-! ## Correlation and noise -/

/-- The correlation of a sequence's bins with those of a transform at sample t. -/
def corrAt (z : Nat) (seq : List CQ) (x : List Cplx) (t : Nat) : CQ :=
  cqSum (((x.zip seq).zip (List.range x.length)).map fun v => cqMul (cqMul (cqOf v.1.1) (cqConj v.1.2)) (turn (ratio (v.2 * t) z)))

/-- The correlation power of a sequence at sample t, over the transforms of every port (R364): combined without phase. -/
def corrPower (z : Nat) (seq : List CQ) (ports : List (List (List Cplx))) (t : Nat) : Rat := ratSum (ports.map fun xs => ratSum (xs.map fun x => cqNorm (corrAt z seq x t)))

/-- The correlation of a sequence with a transform at sample t over the samples lo to hi − 1 of its period: that of a part of it in time. -/
def corrPart (z : Nat) (seq : List CQ) (x : List Cplx) (t lo hi : Nat) : CQ :=
  let len := seq.length
  cqSum ((List.range (hi - lo)).map fun i =>
    let m := lo + i
    let y := cqSum ((x.zip (List.range len)).map fun v => cqMul (cqOf v.1) (turn (ratio (v.2 * m) len)))
    let s := cqSum ((seq.zip (List.range len)).map fun v => cqMul v.1 (turn (ratio (v.2 * m) len - ratio (v.2 * t) z)))
    cqMul y (cqConj s))

/-! ## Frequency offsets (R365) -/

/-- The frequency offset, to 1 Hz, that a phase shows which it has turned in 1 / rate s: of those within ±fmax the one nearest to it. Log: 70 DESIGN CHOICE. -/
def offsetOfTurn (v : CQ) (rate fmax : Nat) : Int :=
  ((List.range (2 * fmax + 1)).foldl (fun (a : Int × Option Rat) i =>
    let f : Int := (i : Int) - fmax
    let r := (cqMul v (turn (-(ratio f rate)))).1
    if (match a.2 with | some b => decide (b < r) | none => true) then (f, some r) else a) (0, none)).1

/-- The phase from the first of two transforms, or halves of the period, to the second, over every port (R365). -/
def raPhase (z : Nat) (seq : List CQ) (ports : List (List (List Cplx))) (t : Nat) : CQ :=
  let half := seq.length / 2
  cqSum (ports.map fun xs => match xs with
    | a :: b :: _ => cqMul (corrAt z seq b t) (cqConj (corrAt z seq a t))
    | [a] => cqMul (corrPart z seq a t half seq.length) (cqConj (corrPart z seq a t 0 half))
    | [] => (0, 0))

/-- The power of a port's transforms at sample t, combined with the frequency offset f (R365), as that of a sum without phase of as many: one transform follows another after 1 / spacing s. Log: 70 DESIGN CHOICE. -/
def coherentPower (z spacing : Nat) (seq : List CQ) (xs : List (List Cplx)) (f : Int) (t : Nat) : Rat :=
  if xs = [] then 0 else cqNorm (cqSum ((xs.zip (List.range xs.length)).map fun x => cqMul (turn (-(ratio (f * x.2) spacing))) (corrAt z seq x.1 t))) / (xs.length : Rat)

/-- The place of the largest of a list, the first of several. -/
def largestAt (ps : List Rat) : Nat :=
  ((ps.zip (List.range ps.length)).foldl (fun (a : Nat × Rat) x => if a.2 < x.1 then (x.2, x.1) else a) (0, -1)).1

/-- The noise of a root: the mean of its correlation powers but for the DWIN samples on each side of the largest (R364). -/
def rootNoise (ps : List Rat) (dwin : Nat) : Rat :=
  let z := ps.length
  let m := largestAt ps
  ratMean (((ps.zip (List.range z)).filter fun x => let g := (x.2 + z - m) % z; decide (dwin < g ∧ dwin < z - g)).map (·.1))

/-! ## Peaks -/

/-- A detected peak: preamble index, power, delay in 1/16 correlation samples, power in 0.1 dBFS, frequency offset, peak over noise in 0.1 dB. -/
structure Peak where
  index : Nat
  power : Rat
  delay : Int
  dbfs : Int
  fo : Int
  snr : Int

/-- Does a power over a noise reach thr tenths of a dB (R364)? -/
def reachesDb (p noise : Rat) (thr : Nat) : Bool := decide (0 < p ∧ 10 ^ thr * noise ^ 100 ≤ p ^ 100)

/-- How the peaks of an operation are measured: the preamble bins' power of the ports' combined powers in 0.1 dBFS, the free frequency offset where the transforms show no phase, and the free SNR where a root
has no noise. -/
structure PeakCtx where
  dbfs : List Rat → Int
  foBare : Nat → Int
  bare : Nat → Int

/-- A root, or starting subcarrier, as it is searched: its correlation powers without phase, the phase at a sample with the rate it belongs to and the bound of its offset (R365), and the ports' powers at a
sample, combined with an offset. -/
structure PeakData where
  ps : List Rat
  phase : Nat → CQ
  rate : Nat
  foMax : Nat
  ports : Int → Nat → List Rat

/-- The peak of preamble index i at sample t, e samples being the window's beginning: the frequency offset is acquired there and frozen, and the power, noise and delay are those of the transforms combined
with it (R364, R365). How a delay is interpolated between samples is free, within half a sample. Log: 70 DESIGN CHOICE. -/
def peakAt (c : PeakCtx) (d : PeakData) (dwin i : Nat) (e : Rat) (t : Nat) : Peak :=
  let z := d.ps.length
  let v := d.phase (t % z)
  let f := if v = (0, 0) then clampInt (-(d.foMax : Int)) d.foMax (c.foBare i) else offsetOfTurn v d.rate d.foMax
  let qs := (List.range z).map fun k => ratSum (d.ports f k)
  let at_ := fun (k : Nat) => getAt 0 qs (k % z)
  let noise := rootNoise qs dwin
  { index := i, power := at_ t, delay := max 0 (roundQ (16 * ((t : Rat) - e)) + clampInt (-8) 8 (Config.peakBetween [at_ (t + z - 1), at_ t, at_ (t + 1)])),
    dbfs := c.dbfs (d.ports f (t % z)), fo := f, snr := if noise = 0 then c.bare i else dbWide (at_ t / noise) }

/-- The peaks of preamble index i in the window of w samples (of the sequence's length, 0 for all) that begins at start (R364): local maxima of the powers without phase that reach THR. -/
def windowPeaks (c : PeakCtx) (d : PeakData) (len dwin thr i : Nat) (start : Int) (w : Nat) : List Peak :=
  let z := d.ps.length
  let noise := rootNoise d.ps dwin
  let e : Rat := ratio ((start % (len : Int)) * z) len
  let t0 := ceilQ e
  let n := if w = 0 then z else ceilQ (e + ratio (w * z) len) - t0
  (List.range n).filterMap fun o =>
    let at_ := fun (k : Nat) => getAt 0 d.ps (k % z)
    let p := at_ (t0 + o)
    if at_ (t0 + o + z - 1) ≤ p ∧ at_ (t0 + o + 1) < p ∧ reachesDb p noise thr = true then some (peakAt c d dwin i e (t0 + o)) else none

/-- The peaks of every preamble of the roots, NPRE indices in all (R364), from the transforms of each port, of a sequence at the given spacing in Hz. -/
def zcPeaks (c : PeakCtx) (zsel spacing ncs rset npre dwin thr : Nat) (roots : List Nat) (ports : List (List (List Cplx))) : List Peak :=
  let len := raLength zsel
  let z := raPoints zsel
  let all := (roots.zip (List.range roots.length)).flatMap fun u => (rootShifts len ncs rset u.1).map fun v => (u.1, v)
  let used := (all.take npre).zip (List.range npre)
  (roots.eraseDups).flatMap fun u =>
    let seq := (List.range len).map (zcBin len u)
    let d : PeakData := { ps := (List.range z).map (corrPower z seq ports), phase := raPhase z seq ports, rate := if ports.all (fun xs => decide (xs.length ≤ 1)) then 2 * spacing else spacing,
                          foMax := spacing / 2, ports := fun f t => ports.map fun xs => coherentPower z spacing seq xs f t }
    (used.filter fun x => x.1.1 == u).flatMap fun x =>
      (windowOffsets len rset u).flatMap fun o => windowPeaks c d len dwin thr x.2 (o - (x.1.2 : Int)) ncs

/-! ## NPRACH (R364) -/

/-- Bits [10 t + 1, 10 t + 9] of the sequence of a cell, as a number. -/
def hopWord (ncell t : Nat) : Nat := ((List.range 9).map fun i => ofBool (getAt false (goldBits ncell (10 * t + 10)) (10 * t + 1 + i)) * 2 ^ i).foldl (· + ·) 0

/-- f (t) of the hopping pattern, from f (t − 1). -/
def hopStep (ncell t prev : Nat) : Nat := (prev + hopWord ncell t % 11 + 1) % 12

/-- f at repetition t; f (−1) is 0. -/
def hopAt (ncell : Nat) : Nat → Nat
  | 0 => hopStep ncell 0 0
  | t + 1 => hopStep ncell (t + 1) (hopAt ncell t)

/-- The subcarrier among 12 of symbol group i for a first one of n0. -/
def hopCarrier (ncell n0 i : Nat) : Nat :=
  let a := if i / 4 = 0 then n0 else (n0 + hopAt ncell (i / 4)) % 12
  let b := if a % 2 = 0 then a + 1 else a - 1
  let c := if b / 6 % 2 = 0 then b + 6 else b - 6
  match i % 4 with | 0 => a | 1 => b | 2 => c | _ => if c % 2 = 0 then c + 1 else c - 1

/-- The bin of starting subcarrier n in symbol m of group g of repetition r of a port. -/
def hopBin (ncell n : Nat) (x : List (List Cplx)) (r g m : Nat) : CQ := cqOf (getAt (0, 0) (getAt [] x (20 * r + 5 * g + m)) (n / 12 * 12 + hopCarrier ncell (n % 12) (4 * r + g)))

/-- The groups of a repetition at sample t, five symbols each, added with the turns w of their symbols. -/
def hopSum (ncell n t : Nat) (x : List (List Cplx)) (w : Nat → Nat → CQ) (r : Nat) : CQ :=
  cqSum ((List.range 4).map fun g =>
    let k := n / 12 * 12 + hopCarrier ncell (n % 12) (4 * r + g)
    cqMul (turn (ratio (k * t) 64)) (cqSum ((List.range 5).map fun m => cqMul (w g m) (hopBin ncell n x r g m))))

/-- The correlation power of starting subcarrier n at sample t: coherent over the groups of a repetition, five symbols each, and combined without phase over ports and repetitions. Log: 72 PRESUMED. -/
def hopPower (ncell n tr : Nat) (ports : List (List (List Cplx))) (t : Nat) : Rat :=
  ratSum (ports.map fun x => ratSum ((List.range (tr / 20)).map fun r => cqNorm (hopSum ncell n t x (fun _ _ => (1, 0)) r)))

/-- The phase from one symbol to the next within the groups of the first repetition, over every port (R365): symbols of 1 / 3,750 s. Log: 70 DESIGN CHOICE. -/
def hopPhase (ncell n : Nat) (ports : List (List (List Cplx))) : CQ :=
  cqSum (ports.map fun x => cqSum ((List.range 4).flatMap fun g => (List.range 4).map fun m => cqMul (hopBin ncell n x 0 g (m + 1)) (cqConj (hopBin ncell n x 0 g m))))

/-- The power of a port's repetitions at sample t combined with the frequency offset f (R365), as that of a sum without phase of as many; starts are the symbols' instants in Ts. -/
def hopCoherent (ncell n tr : Nat) (starts : List Nat) (x : List (List Cplx)) (f : Int) (t : Nat) : Rat :=
  if tr / 20 = 0 then 0
  else cqNorm (cqSum ((List.range (tr / 20)).map fun r => hopSum ncell n t x (fun g m => turn (-(ratio (f * getAt 0 starts (20 * r + 5 * g + m)) 30720000))) r)) / ((tr / 20 : Nat) : Rat)

/-- The peaks of every starting subcarrier (R364). -/
def hopPeaks (c : PeakCtx) (ncell nsc npre dwin thr tr : Nat) (starts : List Nat) (ports : List (List (List Cplx))) : List Peak :=
  (List.range (min npre (12 * (nsc + 1)))).flatMap fun n =>
    let d : PeakData := { ps := (List.range 64).map (hopPower ncell n tr ports), phase := fun _ => hopPhase ncell n ports, rate := 3750, foMax := 1875,
                          ports := fun f t => ports.map fun x => hopCoherent ncell n tr starts x f t }
    windowPeaks c d 64 dwin thr n 0 0

/-! ## The order of a report (R366 to R368) -/

/-- Is peak a taken before peak b: by power descending, then by delay (R366)? -/
def peakBefore (a b : Peak) : Bool := decide (b.power < a.power ∨ (a.power = b.power ∧ a.delay < b.delay))

/-- Peaks in the order in which they are taken. -/
def sortPeaks (ps : List Peak) : List Peak := ps.foldl (fun a p => insertBy peakBefore p a) []

/-- The distance of two peaks in 1/16 correlation samples. -/
def peakGap (a b : Peak) : Nat := (a.delay - b.delay).natAbs

/-- The place of the reported peak nearest to p; at equal distance the one reported first (R366). -/
def nearest (p : Peak) : List (Peak × Bool) → Nat → Nat × Nat → Nat
  | [], _, best => best.1
  | x :: t, i, best => nearest p t (i + 1) (if peakGap p x.1 < best.2 then (i, peakGap p x.1) else best)

/-- Take the peaks of one index in order: those farther than DWIN from every reported one are reported; the others set OVERLAP on the nearest (R366). -/
def takePeaks (dwin : Nat) (ps : List Peak) : List (Peak × Bool) :=
  ps.foldl (fun rs p =>
    if rs.all fun x => decide (16 * dwin < peakGap p x.1) then rs ++ [(p, false)]
    else
      let i := nearest p rs 0 (0, 2 ^ 62)
      setAt rs i ((getAt (p, true) rs i).1, true)) []

/-- The entries of a PRACH report (R366 to R368): of the detected peaks the strongest MAXREP where there are more, in ascending index. -/
def prachEntries (peaks : List Peak) (npre dwin maxrep : Nat) : List (Peak × Bool) × Bool :=
  let det := sortPeaks peaks
  let kept := det.take maxrep
  ((List.range npre).flatMap fun i => takePeaks dwin (kept.filter fun p => p.index == i), decide (maxrep < det.length))

end Sys2Proof.Machine
end

