-- ==== Sys2Proof/Machine/Dte.lean ====
section
/-!
DEFINITION. The detector engine (spec/09_receive.md R337 to R368): descriptors, clamps and truncation, the noise floor, sounding, the capture rule and the retry, the layouts of outputs
and reports. The receiver itself is Machine/Detect.lean, and preamble detection Machine/Preamble.lean.
-/

namespace Sys2Proof.Machine

/-! ## Powers in dBFS (R342) -/

/-- N of a code of NSIZE (R311). -/
def sizeOf_ (code : Nat) : Nat :=
  match code with
  | 0 => 128 | 1 => 256 | 2 => 512 | 3 => 1024 | 4 => 2048 | 5 => 4096 | 6 => 1536 | _ => 3072

/-! ## The common header (R338, R339) -/

/-- The common header: i is I as bounded by the task's, and cut says that it was more (R341). -/
structure DteHead where
  b10 : Bool
  i : Nat
  cut : Bool
  n : Nat
  shift : Nat
  gain : Nat
  inA : Nat
  inP : Nat
  inS : Nat
  rep : Nat
  out : Nat
deriving DecidableEq, Repr

/-- A field of a descriptor. -/
def dfld (d ofs lo w : Nat) : Nat := bitsOf d (8 * ofs + lo) w

/-- Read the header for a task that declares imax inputs; the number of fields clamped. A GAIN of 0 lies in its range, and is taken as 1 (R338). -/
def dteHead (d imax : Nat) : DteHead × Nat :=
  let i := clampNat 1 64 (dfld d 0 8 8)
  ({ b10 := dfld d 0 0 1 == 1, i := min i imax, cut := decide (imax < i), n := sizeOf_ (dfld d 0 16 3), shift := dfld d 0 20 4,
     gain := max 1 (dfld d 4 0 16), inA := dfld d 8 0 32, inP := dfld d 0xC 0 32, inS := dfld d 0x10 0 32, rep := dfld d 0x14 0 32, out := dfld d 0x18 0 32 },
   clampCount [(dfld d 0 8 8, i)])

/-- The inputs that a task declares in ARG2[7:0] (R340). -/
def declInputs (a2 : Nat) : Nat := clampNat 1 64 (bitsOf a2 0 8)

/-- The port-referred power of a mean bin power (R342). -/
def portPower (h : DteHead) (m : Rat) : Rat := m * ratio (16384 ^ 2 * 4 ^ h.shift) (h.n ^ 2 * h.gain ^ 2 * 2 ^ 38)

/-- The band of an operation: first PRB and PRBs, from a word's offset (R343), and the fields clamped. -/
def dteBand (d ofs : Nat) : Nat × Nat × Nat :=
  let p0 := min 274 (dfld d ofs 0 9)
  let np := clampNat 1 275 (dfld d ofs 16 9)
  (p0, np, clampCount [(dfld d ofs 0 9, p0), (dfld d ofs 16 9, np)])

/-- The symbols of a mask, ascending. -/
def maskSyms (m : Nat) : List Nat := setBits 14 0 m

/-- Where the record of an input and symbol lies: the symbols follow one another from the mask's first. -/
def dteRecord (h : DteHead) (m i l : Nat) : Nat := strideAt (strideAt h.inA h.inP i) h.inS (l - (maskSyms m).headD 0)

/-- The subcarriers of the band, input by input and symbol by symbol: the list of ((input, symbol), samples). -/
def dteInputs (o : EngIo) (base : Nat) (h : DteHead) (m p0 np : Nat) : List ((Nat × Nat) × List Cplx) × EngIo :=
  ((List.range h.i).flatMap fun i => (maskSyms m).map fun l => (i, l)).foldl (fun a x =>
    let (v, o1) := readRecord a.2 base h.b10 (dteRecord h m x.1 x.2) (12 * (p0 + np))
    (a.1 ++ [(x, v.drop (12 * p0))], o1)) ([], o)

/-- Count clamps. -/
def dteClamp (o : EngIo) (k c : Nat) : EngIo := { o with st := addF o.st (DTE_CLAMP_CLAMP k) c }

/-- Count a truncation by size (R341). -/
def dteTrunc (o : EngIo) (k : Nat) (b : Bool) : EngIo := if b then { o with st := addF o.st (DTE_CNT_TRUNC_SIZE k) 1 } else o

/-- A free value of an operation brought into a range. Log: 70 DESIGN CHOICE. -/
def dteFree (db : List Byte) (ins : List Cplx) (kind i : Nat) (lo hi : Int) : Int := clampInt lo hi (Config.dteValue db ins kind i)

/-- A signed 16-bit field. -/
def s16 (v : Int) : Nat := unsignedOf 16 v

/-- Squared magnitude. -/
def mag2 (x : Cplx) : Nat := x.1.natAbs * x.1.natAbs + x.2.natAbs * x.2.natAbs

/-! ## NOISE (R361, R362) -/

/-- The first r marked REs of an input, in ascending order of symbol and subcarrier, as (PRB, power). -/
def idleRes (rows : List (Nat × Nat)) (ins : List ((Nat × Nat) × List Cplx)) (i np r : Nat) : List (Nat × Nat) :=
  (rows.flatMap fun row =>
    let v := match ins.find? fun x => x.1 == (i, row.1) with | some x => x.2 | none => []
    ((List.range (12 * np)).filter fun k => bitOf row.2 k == 1).map fun k => (k / 12, mag2 (getAt (0, 0) v k))).take r

/-- The noise floor of a PRB (R342, R362): 0x8000 where it has no idle RE. -/
def noiseFloor (h : DteHead) (res : List (Nat × Nat)) (p : Nat) : Int :=
  let mine := res.filter fun x => x.1 == p
  let sum := mine.foldl (fun a x => a + x.2) 0
  if mine = [] then -32768
  else dbOf (12 * sum * 16384 ^ 2 * 4 ^ h.shift) (mine.length * h.n ^ 2 * h.gain ^ 2 * 2 ^ 38)

/-- A NOISE operation. -/
def dteNoise (o : EngIo) (n : Node) (d : Nat) : EngIo :=
  let k := n.cluster
  let base := csmFlat k
  let (h, c0) := dteHead d (declInputs (argOf n 2))
  let (p0, np, c1) := dteBand d 0x20
  let m := dfld d 0x24 0 14
  let o1 := dteClamp o k (c0 + c1)
  let rowLen := ceilDiv (12 * np) 32 * 4
  let (bm, o2) := engRead o1 base (dfld d 0x28 0 32) (rowLen * (maskSyms m).length)
  let rows := (maskSyms m).zip ((chunks rowLen (maskSyms m).length bm).map leNat)
  let (ins, o3) := dteInputs o2 base h m p0 np
  let r := clampNat 1 16777215 (argOf n 1)
  let o4 := (List.range h.i).foldl (fun o i =>
    engWrite o base (strideAt h.out (2 * np) i) ((List.range np).flatMap fun p => leBytes 2 (s16 (noiseFloor h (idleRes rows ins i np r) p)))) o3
  dteTrunc o4 k (h.cut || decide (r < (rows.map fun x => popCount (12 * np) x.2).foldl (· + ·) 0))

/-- The samples of an operation as received data: subcarriers from the band's first. -/
def rxData (ins : List ((Nat × Nat) × List Cplx)) : RxData := fun i l k =>
  match ins.find? fun x => x.1 == (i, l) with | some x => cqOf (getAt (0, 0) x.2 k) | none => (0, 0)

/-- Read the reference records of layers 0 to m − 1 and DMRS symbols 0 to nd − 1, of cnt values each (R345, R359), by (layer, symbol). -/
def readRefs (o : EngIo) (base a nd cnt m : Nat) : List ((Nat × Nat) × List Cplx) × EngIo :=
  ((List.range m).flatMap fun j => (List.range nd).map fun d => (j, d)).foldl (fun x p =>
    let (v, o1) := readRecord x.2 base false (strideAt a (padTo 160 (5 * cnt)) (p.1 * nd + p.2)) cnt
    (x.1 ++ [(p, v)], o1)) ([], o)

/-- A reference value, with the magnitude that stands for 1 taken out. Log: 70 DESIGN CHOICE. -/
def refValue (refs : List ((Nat × Nat) × List Cplx)) (j d x : Nat) : CQ :=
  match refs.find? fun r => r.1 == (j, d) with | some r => cqScale (ratio 1 (Config.refUnit + 1)) (cqOf (getAt (0, 0) r.2 x)) | none => (0, 0)

/-- A CX20 value of a channel. -/
def channelSample (c : CQ) : Cplx := (roundQ c.1, roundQ c.2)

/-! ## SOUND (R359, R360) -/

/-- The offset of the pilots of reference port x in symbol l from the first in each comb period (R359; CRS by TS 36.211, 6.10.1.2, of the normal cyclic prefix): none where the port has none there. Log: 72 PRESUMED. -/
def pilotShift (crs : Bool) (spacing x l : Nat) : Option Nat :=
  if crs then
    (match x, l % 7 with
     | 0, 0 | 1, 4 => some 0
     | 0, 4 | 1, 0 => some (spacing / 2)
     | 2, 1 => some (l / 7 % 2 * (spacing / 2))
     | 3, 1 => some ((l / 7 + 1) % 2 * (spacing / 2))
     | _, _ => none)
  else some 0

/-- The pilot REs of reference port x of a sounding operation, at most r: (place of the symbol in the mask, symbol, subcarrier, place of the pilot) (R341, R359). -/
def soundPilots (crs : Bool) (m np spacing kofs x r : Nat) : List (Nat × Nat × Nat × Nat) :=
  (((maskSyms m).zip (List.range 14)).flatMap fun l =>
    match pilotShift crs spacing x l.1 with
    | some v => (let ks := (List.range (12 * np)).filter fun k => k % spacing == (kofs + v) % spacing
                 (ks.zip (List.range ks.length)).map fun k => (l.2, l.1, k.1, k.2))
    | none => []).take r

/-- How many pilots the cyclic shifts of SRS need to be told apart: the shifts that TS 38.211, 6.4.1.4.2, gives a comb; ports of CRS lie on REs or symbols of their own. Log: 72 PRESUMED. -/
def shiftSpan (crs : Bool) (spacing : Nat) : Nat := if crs then 1 else match spacing with | 2 => 8 | 4 => 12 | 8 => 6 | _ => 1

/-- The channel of a reference port at a pilot of symbol l, the others' cyclic shifts removed: the mean of y / x over the span of the shifts that holds the pilot, which their sums leave at 0. Log: 70 DESIGN CHOICE. -/
def unshifted (y : RxData) (ref : Nat → Nat → CQ) (span : Nat) (mine : List (Nat × Nat × Nat × Nat)) (i l at_ : Nat) : CQ :=
  cqMean (((mine.drop (min (at_ / span * span) (mine.length - span))).take span).map fun p => cqDiv (y i l p.2.2.1) (ref p.1 p.2.2.2))

/-- The channel of a reference port at a subcarrier of a symbol: a weighted mean of the channels at that symbol's pilots; the weights are free. Log: 70 DESIGN CHOICE. -/
def soundEst (y : RxData) (ref : Nat → Nat → CQ) (span : Nat) (ps : List (Nat × Nat × Nat × Nat)) (i l k : Nat) : CQ :=
  let mine := ps.filter fun p => p.2.1 == l
  let w := fun (p : Nat × Nat × Nat × Nat) => Config.smoothWeight ((k : Int) - (p.2.2.1 : Int))
  let total := (mine.map w).foldl (· + ·) 0
  if total = 0 then (0, 0)
  else cqScale (ratio 1 total) (cqSum ((mine.zip (List.range mine.length)).map fun p => cqScale (w p.1 : Rat) (unshifted y ref span mine i l p.2)))

/-- A SOUND operation. Log: 70 DESIGN CHOICE. -/
def dteSound (o : EngIo) (n : Node) (mu : Nat) (db : List Byte) (d : Nat) : EngIo :=
  let k := n.cluster
  let base := csmFlat k
  let (h, c0) := dteHead d (declInputs (argOf n 2))
  let (p0, np, c1) := dteBand d 0x28
  let comb := min 3 (dfld d 0x20 1 3)
  let spacing := 2 * (comb + 1)
  let kofs := min (spacing - 1) (dfld d 0x20 4 4)
  let a := clampNat 1 8 (dfld d 0x20 8 4)
  let gf := clampNat 1 12 (dfld d 0x20 12 4)
  let m := dfld d 0x24 0 14
  let o1 := dteClamp o k (c0 + c1 + clampCount [(dfld d 0x20 1 3, comb), (dfld d 0x20 4 4, kofs), (dfld d 0x20 8 4, a), (dfld d 0x20 12 4, gf)])
  let ports := min a (clampNat 1 8 (bitsOf (argOf n 2) 8 4))
  let crs := dfld d 0x20 0 1 == 1
  let (ins, o2) := dteInputs o1 base h m p0 np
  let all := fun (x : Nat) => soundPilots crs m np spacing kofs x (14 * 12 * np)
  let ps := fun (x : Nat) => soundPilots crs m np spacing kofs x (clampNat 1 16777215 (argOf n 1))
  let (refs, o3) := readRefs o2 base (dfld d 0x2C 0 32) (maskSyms m).length (ceilDiv (12 * np - kofs) spacing) ports
  let y := rxData ins
  let est := fun (i x l k : Nat) => soundEst y (refValue refs x) (shiftSpan crs spacing) (ps x) i l k
  let xs := ins.flatMap (·.2)
  let cnt := ceilDiv (12 * np) gf
  let outOf := fun (i x : Nat) => (List.range cnt).map fun c =>
    let syms := (maskSyms m).filter fun l => (ps x).any fun p => p.2.1 == l
    if syms = [] then (dteFree db xs 18 (4096 * (64 * i + x) + c) (-524288) 524287, dteFree db xs 19 (4096 * (64 * i + x) + c) (-524288) 524287)
    else channelSample (cqMean (syms.flatMap fun l => (List.range (min gf (12 * np - c * gf))).map fun e => est i x l (c * gf + e)))
  let outs := (List.range h.i).flatMap fun i => (List.range ports).map fun x => (i * a + x, outOf i x)
  let o4 := outs.foldl (fun o v => engWrite o base (strideAt h.out (padTo 160 (5 * cnt)) v.1) ((v.2.map satCx20).flatMap cx20Bytes)) o3
  let tb := toBound mu spacing
  let rep := (List.range ports).flatMap fun x =>
    let hs := (List.range h.i).flatMap fun i => (ps x).map fun p => est i x p.2.1 p.2.2.1
    leBytes 2 (s16 (if hs = [] then -32768 else dbQ (portPower h (ratMean (hs.map cqNorm))))) ++ leBytes 2 (s16 (dteFree db xs 2 x (-500) 500)) ++
    leBytes 4 (unsignedOf 32 (clampInt (-tb) tb (Config.slopePs hs spacing))) ++ leBytes 8 0
  let o5 := engWrite o4 base h.rep rep
  let o6 := { o5 with st := addF o5.st (DTE_CNT_SAT_SAT k) ((outs.map fun v => satCount v.2).foldl (· + ·) 0) }
  dteTrunc o6 k (h.cut || decide (ports < a) || ((List.range ports).any fun x => decide ((ps x).length < (all x).length)))

/-! ## PUSCH (R343 to R358) -/

/-- Fields of a PUSCH operation: ld is L of the descriptor, l the layers as bounded by the task's. -/
structure Pusch where
  ld : Nat
  l : Nat
  nue : Nat
  irc : Bool
  df : Bool
  trk : Nat
  wg : Nat
  dtype : Nat
  cdmnd : Nat
  retry : Bool
  sym : Nat
  dmrs : Nat
  p0 : Nat
  np : Nat
  refA : Nat
  orig : Nat
deriving DecidableEq, Repr

/-- Read them; the fields clamped. -/
def puschOp (d a2 : Nat) : Pusch × Nat :=
  let l := clampNat 1 16 (dfld d 0x20 0 5)
  let nue := clampNat 1 16 (dfld d 0x20 8 5)
  let trk := min 8 (dfld d 0x20 16 4)
  let wg := max 1 (dfld d 0x20 20 4)
  let dt := min 2 (dfld d 0x20 24 2)
  let cd := max 1 (dfld d 0x20 26 2)
  let (p0, np, c) := dteBand d 0x28
  let m := dfld d 0x24 0 14
  ({ ld := l, l := min l (clampNat 1 16 (bitsOf a2 8 5)), nue := nue, irc := dfld d 0x20 13 1 == 1, df := dfld d 0x20 14 1 == 1, trk := trk, wg := wg, dtype := dt, cdmnd := cd,
     retry := dfld d 0x20 28 1 == 1, sym := m, dmrs := dfld d 0x24 16 14 &&& m, p0 := p0, np := np, refA := dfld d 0x2C 0 32, orig := dfld d 0x30 0 32 },
   c + clampCount [(dfld d 0x20 0 5, l), (dfld d 0x20 8 5, nue), (dfld d 0x20 16 4, trk), (dfld d 0x20 20 4, wg), (dfld d 0x20 24 2, dt), (dfld d 0x20 26 2, cd)])

/-- An entry of the UE table (R344). -/
structure Ue where
  tag : Nat
  layer0 : Nat
  nl : Nat
  qm : Nat
  tp : Bool
  cg : Bool
  llr : Nat
  fo : Int
  prb0 : Nat
  prbs : Nat
  dport : Nat
  sc0 : Nat
  nscu : Nat
deriving DecidableEq, Repr

/-- Read an entry of the table; the fields clamped. With TP, NL is at most 4; for DTYPE 2 the cyclic shift is at most 11. -/
def ueEntry (dtype v : Nat) : Ue × Nat :=
  let tp := dfld v 0 27 1 == 1
  let nl := clampNat 1 (if tp then 4 else 8) (dfld v 0 20 4)
  let qm := min 4 (dfld v 0 24 3)
  let dp := if dtype = 2 then min 11 (dfld v 0xC 18 4) else dfld v 0xC 18 4
  ({ tag := dfld v 0 0 16, layer0 := dfld v 0 16 4, nl := nl, qm := qm, tp := tp, cg := dfld v 0 28 1 == 1, llr := dfld v 4 0 32, fo := signedOf 32 (dfld v 8 0 32),
     prb0 := dfld v 0xC 0 9, prbs := dfld v 0xC 9 9, dport := dp, sc0 := min 11 (dfld v 0xC 22 4), nscu := min 11 (dfld v 0xC 26 4) },
   clampCount [(dfld v 0 20 4, nl), (dfld v 0 24 3, qm), (dfld v 0xC 18 4, dp), (dfld v 0xC 22 4, min 11 (dfld v 0xC 22 4)), (dfld v 0xC 26 4, min 11 (dfld v 0xC 26 4))])

/-- The subcarriers of a UE within the band of the operation, from its first subcarrier (R344). -/
def ueCarriers (p : Pusch) (u : Ue) : List Nat :=
  ((List.range (12 * p.np)).filter fun k =>
    let prb := p.p0 + k / 12
    decide (u.prb0 ≤ prb ∧ prb < u.prb0 + u.prbs) && (u.nscu == 0 || u.prbs != 1 || decide (u.sc0 ≤ k % 12 ∧ k % 12 < u.sc0 + u.nscu)))

/-- The data REs of a UE in symbol l (R346). -/
def dataRes (p : Pusch) (u : Ue) (l : Nat) : List Nat :=
  if bitOf p.dmrs l = 1 then (if p.dtype = 2 then [] else (ueCarriers p u).filter fun k => decide (p.cdmnd ≤ cdmGroup p.dtype k)) else ueCarriers p u

/-- The data REs of a UE in the order of its LLRs (R346). -/
def ueRes (p : Pusch) (u : Ue) : List (Nat × Nat) := (maskSyms p.sym).flatMap fun l => (dataRes p u l).map fun k => (l, k)

/-- The layers of a UE: its range cut at L (R344). -/
def ueLayers (p : Pusch) (u : Ue) : Nat := min u.nl (p.ld - u.layer0)

/-- The DMRS port of the i-th layer of a UE (R344). -/
def uePort (u : Ue) (i : Nat) : Nat := u.dport + i

/-- Does the UE's allocation contain a DMRS RE of one of its ports (R348)? -/
def ueHasDmrs (p : Pusch) (u : Ue) : Bool :=
  p.dmrs != 0 && (ueCarriers p u).any fun k => (List.range (ueLayers p u)).any fun i => cdmGroup p.dtype k == portGroup p.dtype (uePort u i)

/-- What becomes of a UE: its REASON where it is not detected, or the number of its data REs that are reached, and whether it is cut (R341, R348, R353). -/
inductive UeFate where
  | none_ (reason : Nat)
  | unreached
  | runs (reached : Nat) (cut : Bool)
deriving DecidableEq, Repr

/-- The fate of a UE with r data REs left. -/
def ueFate (p : Pusch) (u : Ue) (r : Nat) : UeFate :=
  let n := (ueRes p u).length
  if ueCarriers p u = [] then .none_ 3
  else if ueHasDmrs p u = false then .none_ 2
  else if p.l < u.layer0 + ueLayers p u ∨ (r = 0 ∧ n ≠ 0) then .unreached
  else .runs (min r n) (decide (r < n))

/-- The fates of the UEs in table order, for r data REs in all (R341). -/
def ueFates (p : Pusch) : List Ue → Nat → List UeFate
  | [], _ => []
  | u :: t, r =>
    let f := ueFate p u r
    f :: ueFates p t (match f with | .runs n _ => r - n | _ => r)

/-- The outcome of the capture test (R355): the symbol of the step, and INTERF. e gives the noise-corrected powers of the symbols from the acquisition symbol on. -/
def captureTest (dmrs : Nat) (e : List (Nat × Rat)) : Option Nat × Bool :=
  let one := fun (a : Rat × Nat × Option Nat × Bool) (x : Nat × Rat) =>
    let (sum, cnt, step, interf) := a
    let r : Option Nat × Bool :=
      if cnt = 0 then (step, interf)
      else if 4981 * sum ≤ 1000 * (cnt : Rat) * x.2 then
        (match step with
          | some _ => (step, true)
          | none => if (maskSyms dmrs).any fun l => decide (x.1 ≤ l) then (some x.1, interf) else (none, true))
      else if 2 * sum ≤ (cnt : Rat) * x.2 then (step, true) else (step, interf)
    (sum + x.2, cnt + 1, r.1, r.2)
  let r := e.foldl one (0, 0, none, false)
  (r.2.2.1, r.2.2.2)

/-- The noise-corrected power of symbol l over a UE's REs and inputs: the received power less the noise of R349, never below 0 (R355). -/
def symPower (n : Nat) (y : RxData) (o : RxOp) (cov : Nat → List (List CQ)) (p : Pusch) (u : Ue) (l : Nat) : Rat :=
  let v := ratSum ((ueCarriers p u).map fun k => ratSum ((List.range n).map fun i => cqNorm (y i l k)) - covTrace (cov (weightGroup o k)))
  if v < 0 then 0 else v

/-- What an operation works with: the inputs, the numerology, its fields, the received data, the reference values by layer, DMRS symbol and pilot, and the place of a symbol among those of DMRSMASK. -/
structure PuschData where
  i : Nat
  mu : Nat
  p : Pusch
  y : RxData
  ref : Nat → Nat → Nat → CQ

/-- What the estimates of a UE's layers rest on, for a list of DMRS symbols. -/
def ueEstIns (x : PuschData) (u : Ue) (dmrs : List Nat) : List EstIn :=
  (List.range (ueLayers x.p u)).map fun i =>
    { inputs := x.i, mu := x.mu, dtype := x.p.dtype, dmrs := dmrs, carriers := ueCarriers x.p u, port := uePort u i,
      ref := fun l k => x.ref (u.layer0 + i) ((maskSyms x.p.dmrs).takeWhile (· != l)).length (pilotIndex x.p.dtype k) }

/-- A UE as detected: its entry and fate, its TO, FO and whether FO was bounded, and its layers. -/
structure UeRx where
  u : Ue
  reached : Nat
  to_ : Int
  fo : Int
  limit : Bool
  layers : List RxLayer

/-- A UE's estimates from a list of DMRS symbols; a frequency offset that is given is used as it is (R347, R356, R357). -/
def ueRx (x : PuschData) (u : Ue) (reached : Nat) (dmrs : List Nat) (fo : Option Int) : UeRx :=
  let es := ueEstIns x u dmrs
  let raw := offsetRaw es x.y u.fo
  let f := match fo with | some f => f | none => offsetOf x.mu u.fo raw
  let to_ := timingOf es x.y
  let res := (ueRes x.p u).take reached
  { u := u, reached := reached, to_ := to_, fo := f, limit := fo.isNone && f != raw,
    layers := (es.zip (List.range es.length)).map fun e =>
      { j := u.layer0 + e.2, tp := u.tp, qm := u.qm, carriers := e.1.carriers, pilots := estPilots e.1, ref := e.1.ref,
        res := fun l => (res.filter fun r => r.1 == l).map (·.2), before := fun l => (res.filter fun r => decide (r.1 < l)).length,
        est := fun l i k => estimate e.1 x.y to_ f l i k } }

/-- The detector's parameters of an operation. -/
def rxOp (x : PuschData) : RxOp :=
  { inputs := x.i, np := x.p.np, wg := x.p.wg, irc := x.p.irc, df := x.p.df, trk := x.p.trk, syms := maskSyms x.p.sym, dmrs := maskSyms x.p.dmrs }

/-- How one UE went: its LLRs before saturation (none where they are not written), its report, its decisions, the channel kept for it, and what it counts: captured, retried, truncated. -/
structure UeOut where
  llrs : Option (List Int)
  report : List Byte
  decisions : List Nat
  kept : Option (Nat → Nat → Nat → CQ)
  captured : Bool
  retried : Bool
  trunc : Bool

/-- A report (R353) of a UE without an estimate: no measurement exists (R342), and what the rules state no value for is free. Log: 70 DESIGN CHOICE. -/
def emptyReport (db : List Byte) (ui : Nat) (u : Ue) (reason flags : Nat) : List Byte :=
  leBytes 2 u.tag ++ leBytes 1 reason ++ leBytes 1 flags ++ (List.replicate 4 [(0x00 : Byte), 0x80]).flatten ++
  leBytes 4 (unsignedOf 32 (Config.dteValue db [] 10 ui)) ++ leBytes 4 (unsignedOf 32 (Config.dteValue db [] 5 ui)) ++ leBytes 4 15 ++ leBytes 4 0 ++ leBytes 4 0

/-- A report of a UE with an estimate (R353, R354): x is the UE, ls the places of its layers, ds its detected REs, dmrs the DMRS symbols of its estimate. Log: 70 DESIGN CHOICE. -/
def fullReport (h : DteHead) (db : List Byte) (ui : Nat) (x : UeRx) (p0 : Nat) (dmrs : List Nat) (ds : List Det) (reason flags : Nat) (step : Option Nat) (sat : Nat) : List Byte :=
  let ok := ds.all (·.ok)
  let sinrs := (List.range x.layers.length).map fun i => ratMean ((ds.filter fun d => d.p == p0 + i).map fun d => sinrOf d.beta)
  let ests := x.layers.flatMap fun y => dmrs.flatMap fun l => y.pilots.flatMap fun k => (List.range h.i).map fun i => cqNorm (y.est l i k)
  let err := ratMean (ds.map fun d => cqDist d.z d.s)
  let pow := ratMean (ds.map fun d => cqNorm d.s)
  let lim := fun (kind : Nat) (v : Int) => s16 (if ok then clampInt (-500) 500 v else dteFree db [] kind ui (-500) 500)
  leBytes 2 x.u.tag ++ leBytes 1 reason ++ leBytes 1 (flags + 16 * ofBool x.limit) ++
  leBytes 2 (lim 6 (dbWide (ratMean sinrs))) ++ leBytes 2 (lim 7 (dbWide (minRat 0 sinrs))) ++
  leBytes 2 (s16 (dbQ (portPower h (ratMean ests)))) ++ leBytes 2 (lim 9 (if pow = 0 then -500 else dbWide (err / pow))) ++
  leBytes 4 (unsignedOf 32 x.to_) ++ leBytes 4 (unsignedOf 32 x.fo) ++ leBytes 4 (match step with | some l => l | none => 15) ++ leBytes 4 sat ++ leBytes 4 0

/-- The LLRs of a UE, before saturation (R346): 0 for REs that are not reached and before the step; ds are its detected REs, p0 the place of its first layer. A RE whose weights do not exist gives free
values. Log: 70 DESIGN CHOICE. -/
def ueLlrs (db : List Byte) (p : Pusch) (ui : Nat) (u : Ue) (p0 reached : Nat) (ds : List Det) (step : Option Nat) : List Int :=
  let res := ueRes p u
  (res.zip (List.range res.length)).flatMap fun x => (List.range (ueLayers p u)).flatMap fun i => (List.range (qmBits u.qm)).map fun b =>
    if decide (reached ≤ x.2) || (match step with | some l => decide (x.1.1 < l) | none => false) then 0
    else match ds.find? fun d => d.p == p0 + i && d.l == x.1.1 && d.k == x.1.2 with
      | some d => if d.ok then (if d.zBeta = 0 then 0 else llrOf u.qm d.n d.z ((1 - d.zBeta) / d.zBeta) b)
        else dteFree db [] 11 ((ui * 2 ^ 20 + x.2) * 128 + 8 * i + b) (-127) 127
      | none => 0

/-- The decisions of a UE, one a layer and data RE reached (R352). -/
def ueDecisions (p : Pusch) (u : Ue) (p0 reached : Nat) (ds : List Det) : List Nat :=
  ((ueRes p u).take reached).flatMap fun x => (List.range (ueLayers p u)).map fun i =>
    match ds.find? fun d => d.p == p0 + i && d.l == x.1 && d.k == x.2 with | some d => d.v | none => 0

/-- How many LLRs are saturated (R353). -/
def satLlrs (ls : List Int) : Nat := (ls.filter fun v => decide (127 < v.natAbs)).length

/-- A UE that is not detected, or not reached (R341, R353): its LLRs are written as 0. -/
def ueZero (db : List Byte) (p : Pusch) (ui : Nat) (u : Ue) (reason : Nat) (cut : Bool) : UeOut :=
  ⟨some (List.replicate ((ueRes p u).length * ueLayers p u * qmBits u.qm) 0), emptyReport db ui u reason (32 * ofBool cut), [], none, false, false, cut⟩

/-- The UEs of an operation that run, with the place of each one's first layer; the given frequency offsets are used as they are. -/
def runningUes (x : PuschData) (fates : List (Ue × UeFate)) (fo : Nat → Option Int) : List (Nat × UeRx × Nat) :=
  ((fates.zip (List.range fates.length)).foldl (fun (a : List (Nat × UeRx × Nat) × Nat) f =>
    match f.1.2 with
    | .runs n _ => (let y := ueRx x f.1.1 n (maskSyms x.p.dmrs) (fo f.2); (a.1 ++ [(f.2, y, a.2)], a.2 + y.layers.length))
    | _ => a) ([], 0)).1

/-- One UE of a first pass (R346 to R356), from the detection of all: a UE that a stronger arrival captures at symbol l is acquired anew on the DMRS symbols from l on, and detected from there. -/
def ueFirst (h : DteHead) (db : List Byte) (x : PuschData) (run : List (Nat × UeRx × Nat)) (cov : Nat → List (List CQ)) (det : Detected) (ui : Nat) (r : UeRx) (p0 : Nat) (cut : Bool) : UeOut :=
  let o := rxOp x
  let acq := o.dmrs.headD 0
  let (step, interf) := if r.u.cg then captureTest x.p.dmrs ((o.syms.filter fun l => decide (acq ≤ l)).map fun l => (l, symPower x.i x.y o cov x.p r.u l)) else (none, false)
  let mine := fun (d : Det) => decide (p0 ≤ d.p ∧ d.p < p0 + r.layers.length)
  let flags := 1 + 8 * ofBool interf + 32 * ofBool cut
  match step with
  | none =>
    let ds := det.1.filter mine
    let ls := ueLlrs db x.p ui r.u p0 r.reached ds none
    ⟨some ls, fullReport h db ui r p0 o.dmrs ds 0 flags none (satLlrs ls), ueDecisions x.p r.u p0 r.reached ds, none, false, false, cut⟩
  | some l =>
    let dmrs := o.dmrs.filter fun m => decide (l ≤ m)
    let r1 := ueRx x r.u r.reached dmrs none
    let o1 := { o with dmrs := dmrs, syms := o.syms.filter fun m => decide (l ≤ m) }
    let layers := run.flatMap fun y => if y.1 = ui then r1.layers else y.2.1.layers
    let d1 := detectAll o1 x.y layers cov
    let ds := d1.1.filter mine
    let ls := ueLlrs db x.p ui r.u p0 r.reached ds (some l)
    ⟨some ls, fullReport h db ui r1 p0 dmrs ds 1 (flags + 2) (some l) (satLlrs ls), ueDecisions x.p r.u p0 r.reached (ds ++ (det.1.filter fun d => mine d && decide (d.l < l))),
      some (fun i j k => match r1.layers[j - r.u.layer0]? with | some y => trackedAt d1 y (p0 + (j - r.u.layer0)) l i k | none => (0, 0)), true, false, cut⟩

/-- A first pass: the UEs in table order (R341, R353). -/
def puschFirst (h : DteHead) (db : List Byte) (x : PuschData) (ues : List Ue) (r : Nat) : List (Ue × UeOut) :=
  let fates := ues.zip (ueFates x.p ues r)
  let run := runningUes x fates (fun _ => none)
  let layers := run.flatMap fun y => y.2.1.layers
  let o := rxOp x
  let cov := covariance o x.y layers
  let det := detectAll o x.y layers cov
  (fates.zip (List.range fates.length)).map fun f =>
    (f.1.1, match f.1.2, run.find? fun y => y.1 == f.2 with
      | .none_ reason, _ => ueZero db x.p f.2 f.1.1 reason false
      | .runs _ cut, some y => ueFirst h db x run cov det f.2 y.2.1 y.2.2 cut
      | _, _ => ueZero db x.p f.2 f.1.1 0 true)

/-- What a retry takes from the first pass for one of its entries (R357): the entry, the places of its decisions, its report's FO and STEP_SYM. -/
structure Partner where
  u : Ue
  reached : Nat
  offset : Nat
  fo : Int
  step : Nat

/-- The first pass as it left its results: its fields, its captured entries, its decisions, its channels by input, layer and subcarrier, and its reference values by layer, DMRS symbol and pilot. -/
structure FirstPass where
  p : Pusch
  ref : Nat → Nat → Nat → CQ
  partners : List Partner
  decisions : List Nat
  chan : Nat → Nat → Nat → CQ

/-- Read the first pass that ORIG names: its descriptor, UE table, reports, decisions and channels (R352, R357). Its declared sizes are taken to be those of the retry. Log: 70 DESIGN CHOICE. -/
def firstPass (o : EngIo) (base orig a1 a2 : Nat) : FirstPass × EngIo :=
  let (db, o1) := engRead o base orig 0x40
  let d := leNat db
  let (h, _) := dteHead d (declInputs a2)
  let (p, _) := puschOp d a2
  let (tb, o2) := engRead o1 base (strideAt orig 0x40 1) (16 * p.nue)
  let ues := ((chunks 16 p.nue tb).map leNat).map fun v => (ueEntry p.dtype v).1
  let (rb, o3) := engRead o2 base h.rep (32 * p.nue)
  let reps := (chunks 32 p.nue rb).map leNat
  let r := clampNat 1 16777215 a1
  let (dec, o4) := engRead o3 base h.out (r * p.l)
  let (ch, o5) := readRecord o4 base false (strideAt h.out (r * p.l) 1) (12 * p.np * h.i * p.l)
  let (refs, o6) := readRefs o5 base p.refA (maskSyms p.dmrs).length (pilotsPerPrb p.dtype * p.np) p.l
  let part := ((ues.zip (ueFates p ues r)).zip reps).foldl (fun (a : List Partner × Nat) x =>
    match x.1.2 with
    | .runs n _ => (if dfld x.2 0 25 1 = 1 then a.1 ++ [⟨x.1.1, n, a.2, signedOf 32 (dfld x.2 0x10 0 32), dfld x.2 0x14 0 4⟩] else a.1, a.2 + n * ueLayers p x.1.1)
    | _ => a) ([], 0)
  (⟨p, refValue refs, part.1, dec.map (·.toNat), fun i j k => cqOf (getAt (0, 0) ch ((k * h.i + i) * p.l + j))⟩, o6)

/-- The value that layer j of a partner decided for its n-th data RE. -/
def decidedPoint (f : FirstPass) (q : Partner) (j n : Nat) : CQ := qamPoint q.u.qm n (getAt 0 f.decisions (q.offset + n * ueLayers f.p q.u + j))

/-- The value that layer j of a partner sent at subcarrier k of symbol l (R357): its pilot on a DMRS symbol, and on a data RE the decided symbol, with transform precoding the transform of those of the symbol. -/
def sentValue (f : FirstPass) (q : Partner) (j l k : Nat) : CQ :=
  let res := (ueRes f.p q.u).take q.reached
  if bitOf f.p.dmrs l = 1 ∧ (ueCarriers f.p q.u).contains k = true ∧ cdmGroup f.p.dtype k = portGroup f.p.dtype (uePort q.u j) then
    f.ref (q.u.layer0 + j) ((maskSyms f.p.dmrs).takeWhile (· != l)).length (pilotIndex f.p.dtype k)
  else if res.contains (l, k) = false then (0, 0)
  else if q.u.tp then
    let first := (res.takeWhile fun x => x.1 != l).length
    let m := (res.filter fun x => x.1 == l).length
    let at_ := (res.takeWhile (· != (l, k))).length - first
    cqScale (rootQ (ratio 1 m)) (cqSum ((List.range m).map fun i => cqMul (decidedPoint f q j (first + i)) (turn (-(ratio (i * at_) m)))))
  else decidedPoint f q j (res.takeWhile (· != (l, k))).length

/-- The stronger arrival of a partner at an input, symbol and subcarrier, from the first pass's decisions, pilots and tracked channel with the phase ramp of its FO (R357). Log: 70 DESIGN CHOICE. -/
def rebuilt (f : FirstPass) (mu : Nat) (q : Partner) (i l k : Nat) : CQ :=
  if l < q.step then (0, 0)
  else cqSum ((List.range (ueLayers f.p q.u)).map fun j => cqMul (cqMul (foRamp mu q.fo q.step l) (f.chan i (q.u.layer0 + j) k)) (sentValue f q j l k))

/-- A retry (R357): entries with a captured partner are detected over all symbols after the stronger arrivals have been taken out; the others get NO_PARTNER. -/
def puschRetry (h : DteHead) (db : List Byte) (x0 : PuschData) (f : FirstPass) (ues : List Ue) (r : Nat) : List (Ue × UeOut) :=
  let partner := fun (u : Ue) => f.partners.find? fun q => q.u.tag == u.tag
  let taken := ues.filterMap partner
  let x := { x0 with y := fun i l k => taken.foldl (fun a q => cqSub a (rebuilt f x0.mu q i l k)) (x0.y i l k) }
  let matched := ues.filter fun u => (partner u).isSome
  let fates := matched.zip (ueFates x.p matched r)
  let fo := fun (i : Nat) => (matched[i]?).bind fun u => (partner u).map fun q =>
    offsetOf x.mu q.u.fo (offsetRaw (ueEstIns { x0 with p := f.p } q.u (maskSyms f.p.dmrs)) x0.y q.u.fo)
  let run := runningUes x fates fo
  let layers := run.flatMap fun y => y.2.1.layers
  let o := rxOp x
  let det := detectAll o x.y layers (covariance o x.y layers)
  (ues.zip (List.range ues.length)).map fun u =>
    (u.1, match (fates.zip (List.range fates.length)).find? fun g => g.1.1 == u.1 with
      | none => ⟨none, emptyReport db u.2 u.1 4 0, [], none, false, false, false⟩
      | some g => match g.1.2, run.find? fun y => y.1 == g.2 with
        | .none_ reason, _ => ueZero db x.p u.2 u.1 reason false
        | .runs n cut, some y =>
          let ds := det.1.filter fun d => decide (y.2.2 ≤ d.p ∧ d.p < y.2.2 + y.2.1.layers.length)
          let ls := ueLlrs db x.p u.2 u.1 y.2.2 n ds none
          ⟨some ls, fullReport h db u.2 y.2.1 y.2.2 o.dmrs ds 0 (5 + 32 * ofBool cut) none (satLlrs ls), ueDecisions x.p u.1 y.2.2 n ds, none, false, true, cut⟩
        | _, _ => ueZero db x.p u.2 u.1 0 true)

/-- The channels that a first pass keeps at OUT_ADDR: of each subcarrier, input and layer; one of a layer that no arrival has captured is free. Log: 70 DESIGN CHOICE. -/
def keptChannels (db : List Byte) (x : PuschData) (outs : List (Ue × UeOut)) : List Cplx :=
  (List.range (12 * x.p.np)).flatMap fun k => (List.range x.i).flatMap fun i => (List.range x.p.l).map fun j =>
    match outs.findSome? fun y => if y.1.layer0 ≤ j ∧ j < y.1.layer0 + ueLayers x.p y.1 then y.2.kept else none with
    | some c => channelSample (c i j k)
    | none => (let m := 2 * ((k * x.i + i) * x.p.l + j); (dteFree db [] 14 m (-524288) 524287, dteFree db [] 14 (m + 1) (-524288) 524287))

/-- A PUSCH operation. Log: 70 DESIGN CHOICE. -/
def dtePusch (o : EngIo) (n : Node) (mu : Nat) (db : List Byte) (d : Nat) : EngIo :=
  let k := n.cluster
  let base := csmFlat k
  let (h, c0) := dteHead d (declInputs (argOf n 2))
  let (p, c1) := puschOp d (argOf n 2)
  let (tb, o1) := engRead o base (strideAt (argOf n 0) 0x40 1) (16 * p.nue)
  let ues := ((chunks 16 p.nue tb).map leNat).map (ueEntry p.dtype)
  let o2 := dteClamp o1 k (c0 + c1 + ues.foldl (fun a u => a + u.2) 0)
  let (ins, o3) := dteInputs o2 base h p.sym p.p0 p.np
  let (refs, o4) := readRefs o3 base p.refA (maskSyms p.dmrs).length (pilotsPerPrb p.dtype * p.np) p.l
  let x : PuschData := { i := h.i, mu := mu, p := p, y := rxData ins, ref := refValue refs }
  let r := clampNat 1 16777215 (argOf n 1)
  let all := db ++ tb
  let us := ues.map (·.1)
  let (outs, o5) := if p.retry then (let (f, o5) := firstPass o4 base p.orig (argOf n 1) (argOf n 2); (puschRetry h all x f us r, o5)) else (puschFirst h all x us r, o4)
  let o6 := outs.foldl (fun o x => match x.2.llrs with
    | some ls => engWrite o base x.1.llr (ls.map fun v => BitVec.ofNat 8 (unsignedOf 8 (clampInt (-127) 127 v)))
    | none => o) o5
  let o7 := engWrite o6 base h.rep (outs.flatMap fun x => x.2.report)
  let keep := us.any fun u => u.cg
  let chans := if keep then keptChannels all x outs else []
  let o8 := if keep then
      engWrite (engWrite o7 base h.out ((outs.flatMap fun x => x.2.decisions).map (BitVec.ofNat 8))) base (strideAt h.out (r * p.l) 1) ((chans.map satCx20).flatMap cx20Bytes)
    else o7
  let cap := (outs.filter fun x => x.2.captured).length
  let ret := (outs.filter fun x => x.2.retried).length
  let o9 := { o8 with st := addF (addF (addF o8.st (DTE_CNT_CAPT_CAPTURED k) cap) (DTE_CNT_CAPT_RETRIED k) ret) (DTE_CNT_SAT_SAT k) (satCount chans) }
  dteTrunc o9 k (h.cut || outs.any fun x => x.2.trunc)

/-! ## PRACH (R363 to R368) -/

/-- The 16 bytes of an entry (R367), for correlation samples of 1 / (z × spacing) seconds. -/
def peakBytes (z spacing : Nat) (x : Peak × Bool) : List Byte :=
  leBytes 2 (x.1.index % 64 + 256 * ofBool x.2) ++ leBytes 2 (s16 x.1.dbfs) ++ leBytes 4 (unsignedOf 32 (roundDiv (x.1.delay * 1000000000000) (16 * z * spacing))) ++
  leBytes 4 (unsignedOf 32 x.1.fo) ++ leBytes 4 (s16 x.1.snr)

/-- The PFE context that wrote the entry at CSM offset a of cluster k (R316): one whose output ring begins an entry there, an enabled one before one that is not. Log: 70 DESIGN CHOICE. -/
def entryContext (s : State) (k a : Nat) : Option Nat :=
  let q := k / 8
  let holds := fun (n : Nat) =>
    let base := getF s (PFE_CTX_OUT_ADDR q n)
    getF s (PFE_CTX_OUT_CLUSTER q n) == k % 8 && pfePorts s q n != [] && decide (base ≤ a ∧ a < base + pfeNbuf s q n * pfeEntry s q n ∧ (a - base) % pfeEntry s q n = 0)
  match (List.range 32).find? fun n => isF s (PFE_CTX_CTL_EN q n) && holds n with
  | some n => some n
  | none => (List.range 32).find? holds

/-- The format of a PFE entry with tr transforms, read for ZSEL (R313): its context's; without one, that which the transforms leave, or a free one of two. Log: 70 DESIGN CHOICE. -/
def entryFormat (s : State) (q : Nat) (c : Option Nat) (zsel tr : Nat) (bytes : List Byte) : Nat :=
  let free := if zsel = 2 then (if Config.raSecond bytes then 9 else 8) else if tr ≤ 2 then 0 else if Config.raSecond bytes then 3 else 2
  match c with
  | some n => if decide (8 ≤ pfeFormat s q n) = decide (zsel = 2) then pfeFormat s q n else free
  | none => free

/-- The points of the transforms of the i-th port of a PFE entry (R313, R367): those of its context's port, scaled to a lower rate; without a context a free scale. Log: 70 DESIGN CHOICE. -/
def entryPoints (s : State) (q : Nat) (c : Option Nat) (f : Nat) (bytes : List Byte) (i : Nat) : Nat :=
  match c with
  | some n => (match portLane s q (gangFirst s q (getAt 0 (pfePorts s q n) i)) with
      | some l => max 1 (min (pfeUseful f).2 (64 * (pfeUseful f).1 / lanePeriod s l))
      | none => (pfeUseful f).2)
  | none => (pfeUseful f).2 / 2 ^ min 4 (Config.raHalved bytes i)

/-- Read the bins of a port's transforms, the list of offsets given, from bin first on. -/
def raBins (o : EngIo) (base : Nat) (b10 : Bool) (first len : Nat) (offs : List Nat) : List (List Cplx) × EngIo :=
  let (xs, o1) := readRecords o base b10 (first + len) offs
  (xs.map (·.drop first), o1)

/-- A PRACH operation. The header of a PFE entry is SEC, NS, occasion count, P, T and missing groups, a word each; a short preamble lies from subcarrier 2 of its record on. Log: 70 DESIGN CHOICE, 72 PRESUMED. -/
def dtePrach (o : EngIo) (n : Node) (mu : Nat) (db : List Byte) (d : Nat) : EngIo :=
  let k := n.cluster
  let base := csmFlat k
  let src1 := dfld d 0x20 0 1 == 1
  let (h, c0) := dteHead d 64
  let f := fun (ofs lo w mn mx : Nat) => (dfld d ofs lo w, clampNat mn mx (dfld d ofs lo w))
  let cl := [f 0x20 1 2 0 2, f 0x20 4 4 1 12, f 0x20 8 7 1 64, f 0x20 15 2 0 2, f 0x20 24 8 1 64, f 0x24 0 10 0 838, f 0x24 16 7 1 64, f 0x24 24 8 1 64,
    f 0x2C 0 16 0 300, f 0x2C 16 9 0 503]
  let u := fun (i : Nat) => (getAt (0, 0) cl i).2
  let zsel := u 0
  let o1 := dteClamp o k ((if src1 then c0 else 0) + clampCount cl)
  let (hb, o2) := if src1 then (List.replicate 64 (0 : Byte), o1) else engRead o1 base h.inA 64
  let hv := leNat hb
  let ports := if src1 then h.i else dfld hv 0xC 0 32
  let tr := if src1 then u 1 else dfld hv 0x10 0 32
  let q := clampNat 1 65535 (argOf n 1)
  let places := (List.range (min (ports * tr) q)).map fun x =>
    if src1 then strideAt (strideAt h.inA h.inP (x / tr)) h.inS (x % tr) else strideAt h.inA (64 + (if zsel = 2 then 320 else 4320) * x) 1
  let len := raLength zsel
  let (xs, o3) := raBins o2 base (src1 && h.b10) (if src1 ∧ zsel = 1 then 2 else 0) len places
  let nroot := min (u 6) (clampNat 1 64 (bitsOf (argOf n 2) 0 8))
  let (rt, o4) := engRead o3 base (dfld d 0x28 0 32) (2 * nroot)
  let roots := ((chunks 2 nroot rt).map leNat)
  let q4 := k / 8
  let cx := if src1 then none else entryContext o4.st k h.inA
  let fmt := entryFormat o4.st q4 cx zsel tr (db ++ hb)
  let spacing := if zsel = 2 then 3750 else if zsel = 1 then 15000 * 2 ^ mu else if fmt = 3 then 5000 else 1250
  let head := fun (i : Nat) => if src1 then h else { h with n := entryPoints o4.st q4 cx fmt (db ++ hb) i, gain := 16384, shift := 0 }
  let ins := xs.flatMap id
  let all := db ++ rt
  let xp := chunks tr (ceilDiv xs.length (max 1 tr)) xs
  let ctx : PeakCtx := { dbfs := fun ps => dbQ (ratMean ((ps.zip (List.range ps.length)).map fun p =>
                           portPower (head p.2) (p.1 / (if zsel = 2 then ((tr * 20 : Nat) : Rat) else (((getAt [] xp p.2).length * len * len : Nat) : Rat))))),
                         foBare := fun i => Config.dteValue all ins 16 i, bare := fun i => dteFree all ins 17 i (-1500) 500 }
  let peaks := if zsel = 2 then hopPeaks ctx (u 9) (dfld d 0x2C 26 2) (u 2) (u 4) (u 8) tr (pfeStarts fmt (ceilDiv tr 20)) xp
    else zcPeaks ctx zsel spacing (u 5) (u 3) (u 2) (u 4) (u 8) roots xp
  let (es, tr8) := prachEntries peaks (u 2) (u 4) (u 7)
  let miss := if src1 then 0 else dfld hv 0x14 0 32
  let rep := leBytes 4 (dfld hv 0 0 32) ++ leBytes 4 (dfld hv 4 0 32) ++
    leBytes 4 (es.length % 128 + 256 * ofBool tr8 + 2 ^ 16 * (min miss 65535)) ++ leBytes 4 0 ++ es.flatMap (peakBytes (raPoints zsel) spacing)
  let o5 := engWrite o4 base h.rep rep
  let o6 := { o5 with st := addF (addF o5.st (DTE_CNT_PRE_PREAMBLES k) es.length) (DTE_CNT_TRUNC_PRACH k) (ofBool tr8) }
  dteTrunc o6 k (decide (q < ports * tr ∨ nroot < u 6))

/-- Run a DTE operation of a node (R337): OP is that of the task; 4 to 7 are taken as 3. -/
def dteRun (s : State) (n : Node) (p : Plan) : State × Bool :=
  let (db, o) := engRead (engOpen s) (csmFlat n.cluster) (argOf n 0) 0x40
  let d := leNat db
  let o1 := match bitsOf (argOf n 3) 0 3 with
    | 0 => dteSound o n p.mu db d
    | 1 => dtePusch o n p.mu db d
    | 2 => dtePrach o n p.mu db d
    | _ => dteNoise o n d
  let o2 := { o1 with st := addF o1.st (DTE_CNT_SAT_SAT n.cluster) (Config.dteValue db [] 15 (bitsOf (argOf n 3) 0 3)).toNat }
  (engDone n.cluster 2 o2, o2.bad)

/-- DTE_CNT_CLR (R341, R43, R44): clears every counter of the DTE. -/
def execDteCntClr (k : Fin 32) (s : State) : Res :=
  .next (if blockLive s .dte k.val = false then s else [DTE_CNT_OP_OPS k.val, DTE_CLAMP_CLAMP k.val, DTE_CNT_SAT_SAT k.val, DTE_CNT_CAPT_CAPTURED k.val, DTE_CNT_CAPT_RETRIED k.val, DTE_CNT_PRE_PREAMBLES k.val,
    DTE_CNT_TRUNC_PRACH k.val, DTE_CNT_TRUNC_SIZE k.val].foldl (fun s f => setF s f 0) s)

end Sys2Proof.Machine
end

