-- ==== Sys2Proof/Machine/Coding.lean ====
section
/-!
DEFINITION. The decoder and encoder engines (spec/10_coding.md R369 to R389): descriptors and clamps, segmentation, truncation, PT-RS removal, rate matching, scrambling, the soft
buffers and the report, over the codes of Machine/ChannelCodes.lean. The shifts of the LDPC base graphs, the decisions of an LDPC decoder, the surviving paths of a polar list decoder
and ties are free values; every CRC is computed.
-/

namespace Sys2Proof.Machine

/-! ## Segmentation (R369, R370; TS 38.212 5.2.2, TS 36.212 5.1.2) -/

/-- The least lifting size a × 2^j, a in 2, 3, 5, 7, 9, 11, 13, 15, at most 384, that is at least n. Log: 72 PRESUMED. -/
def liftingSize (n : Nat) : Nat :=
  let all := [2, 3, 5, 7, 9, 11, 13, 15].flatMap fun a => ((List.range 8).map fun j => a * 2 ^ j).filter fun z => decide (z ≤ 384 ∧ n ≤ z)
  all.foldl min 384

/-- The least turbo code block size at least n: 40 to 6,144 in the steps of TS 36.212. Log: 72 PRESUMED. -/
def turboSize (n : Nat) : Nat :=
  if n ≤ 40 then 40
  else if n ≤ 512 then padTo 8 n
  else if n ≤ 1024 then padTo 16 n
  else if n ≤ 2048 then padTo 32 n
  else min 6144 (padTo 64 n)

/-- The largest turbo code block size below k. -/
def turboBelow (k : Nat) : Nat := if k ≤ 512 then k - 8 else if k ≤ 1024 then k - 16 else if k ≤ 2048 then k - 32 else k - 64

/-- log2, rounded up. -/
def log2Up (n : Nat) : Nat := (List.range 32).foldl (fun a i => if 2 ^ i < n then i + 1 else a) 0

/-- The polar mother code length for K bits and E (TS 38.212 5.3.1); nmax is 9 downlink, 10 uplink. Log: 72 PRESUMED. -/
def polarLength (k e nmax : Nat) : Nat :=
  let l := log2Up e
  let n1 := if 8 * e ≤ 9 * 2 ^ (l - 1) ∧ 16 * k < 9 * e then l - 1 else l
  2 ^ max 5 (min n1 (min (log2Up (8 * k)) nmax))

/-- A code block: its information bits (payload and transport-block CRC), K with CRC and fillers, mother length N and circular buffer Ncb. -/
structure CodeBlock where
  info : Nat
  k : Nat
  n : Nat
  ncb : Nat
deriving DecidableEq, Repr

/-- An operation's descriptor with its fields in range (R369, R372). -/
structure CodeOp where
  code : Nat
  var : Nat
  bg : Nat
  rv : Nat
  qm : Nat
  nl : Nat
  hmode : Nat
  lbrm : Bool
  et : Bool
  iter : Nat
  scr : Bool
  a : Nat
  g : Nat
  inA : Nat
  outA : Nat
  rep : Nat
  hb : Nat
  cinit : Nat
  rnti : Nat
  tbs : Nat
  sym : Nat
  dmrs : Nat
  nprb : Nat
  dre : Nat
  ptrsK : Nat
  ptrsSc : Nat
  ptrsSym : Nat
  cbsel : Nat
deriving DecidableEq, Repr

/-- The range of A of a code and variant (R369). -/
def aRange (code var raw : Nat) : Nat × Nat :=
  match code, var with
  | 0, _ => (24, 1376264)
  | 1, 0 => (12, 1706)
  | 1, 1 => (12, 140)
  | 1, _ => (32, 32)
  | 2, _ => (16, 391656)
  | 3, 0 => (1, 1024)
  | 3, 1 => if raw ≤ 34 then (24, 24) else (34, 34)
  | 3, _ => (16, 2536)
  | _, 2 => (1, 13)
  | _, 3 => (1, 1)
  | _, _ => (1, 11)

/-- Read a descriptor of 64 bytes; the fields clamped. Fields marked CDE are ignored by the CEE, and ITER is ignored for polar, TBCC and block codes (R372, R377). -/
def codeOp (d : Nat) (dec : Bool) : CodeOp × Nat :=
  let code := min 4 (dfld d 0 0 3)
  let var := dfld d 0 22 2
  let (lo, hi) := aRange code var (dfld d 4 0 21)
  let a := clampNat lo hi (dfld d 4 0 21)
  let qm := min 4 (dfld d 0 6 3)
  let nl := clampNat 1 4 (dfld d 0 9 3)
  let hm := min 2 (dfld d 0 12 2)
  let it := clampNat 1 (if code = 2 then 16 else 31) (dfld d 0 16 5)
  let g := max 1 (dfld d 8 0 28)
  let np := clampNat 1 275 (dfld d 0x2C 0 9)
  let dre := min 12 (dfld d 0x2C 12 4)
  let pk := min 2 (dfld d 0x2C 16 2)
  let ps := min 47 (dfld d 0x2C 20 8)
  ({ code := code, var := var, bg := dfld d 0 3 1, rv := dfld d 0 4 2, qm := qm, nl := nl, hmode := if code = 0 ∨ code = 2 then hm else 2, lbrm := dfld d 0 14 1 == 1, et := dfld d 0 15 1 == 1,
     iter := it, scr := dfld d 0 21 1 == 1, a := a, g := g, inA := dfld d 0xC 0 32, outA := dfld d 0x10 0 32, rep := dfld d 0x14 0 32, hb := dfld d 0x18 0 32,
     cinit := dfld d 0x1C 0 31, rnti := dfld d 0x20 0 16, tbs := dfld d 0x24 0 21, sym := dfld d 0x28 0 14, dmrs := dfld d 0x28 16 14, nprb := np, dre := dre, ptrsK := pk, ptrsSc := ps,
     ptrsSym := dfld d 0x30 0 14, cbsel := dfld d 0x34 0 32 },
   clampCount ([(dfld d 0 0 3, code), (dfld d 4 0 21, a), (dfld d 0 6 3, qm), (dfld d 0 9 3, nl), (dfld d 8 0 28, g)] ++
     if dec then [(dfld d 0 12 2, hm), (if code = 0 ∨ code = 2 then dfld d 0 16 5 else it, it), (dfld d 0x2C 0 9, np), (dfld d 0x2C 12 4, dre), (dfld d 0x2C 16 2, pk), (dfld d 0x2C 20 8, ps)] else []))

/-- LDPC code blocks (R370). Log: 72 PRESUMED. -/
def ldpcBlocks (x : CodeOp) : List CodeBlock :=
  let b := x.a + (if x.a ≤ 3824 then 16 else 24)
  let kcb := if x.bg = 0 then 8448 else 3840
  let c := if b ≤ kcb then 1 else ceilDiv b (kcb - 24)
  let kp := ceilDiv (b + (if 1 < c then 24 * c else 0)) c
  let kb := if x.bg = 0 then 22 else if 640 < b then 10 else if 560 < b then 9 else if 192 < b then 8 else 6
  let z := liftingSize (ceilDiv kp kb)
  let n := if x.bg = 0 then 66 * z else 50 * z
  let ncb := if x.lbrm then min n (3 * x.tbs / (2 * c)) else n
  List.replicate c ⟨kp - (if 1 < c then 24 else 0), (if x.bg = 0 then 22 else 10) * z, n, ncb⟩

/-- Turbo code blocks (R370): the smaller size first; fillers lie in the first. Log: 72 PRESUMED. -/
def turboBlocks (x : CodeOp) : List CodeBlock :=
  let b := x.a + 24
  let c := if b ≤ 6144 then 1 else ceilDiv b 6120
  let bp := b + (if 1 < c then 24 * c else 0)
  let kp := turboSize (ceilDiv bp c)
  let km := turboBelow kp
  let cm := if c = 1 then 0 else (c * kp - bp) / (kp - km)
  let fill := (c - cm) * kp + cm * km - bp
  let one := fun (i k : Nat) =>
    let kw := 96 * ceilDiv (k + 4) 32
    (⟨k - (if 1 < c then 24 else 0) - (if i = 0 then fill else 0), k, kw, if x.tbs = 0 then kw else min kw (x.tbs / c)⟩ : CodeBlock)
  (List.range c).map fun i => one i (if i < cm then km else kp)

/-- The code blocks of an operation of E rate-matched bits in all. -/
def codeBlocks (x : CodeOp) (e : Nat) : List CodeBlock :=
  match x.code with
  | 0 => ldpcBlocks x
  | 2 => turboBlocks x
  | 1 =>
    let two := x.var = 0 ∧ 360 ≤ x.a ∧ 1088 ≤ e
    let c := if two then 2 else 1
    let k := ceilDiv x.a c + (if x.var = 0 then (if x.a ≤ 19 then 6 else 11) else 24)
    List.replicate c ⟨ceilDiv x.a c, k, polarLength k (e / c) (if x.var = 0 then 10 else 9), 0⟩
  | 3 => [⟨x.a, x.a + (if x.var < 2 then 16 else 24), 0, 0⟩]
  | _ => [⟨x.a, x.a, 0, 0⟩]

/-- Which code blocks are present (R376): v is the bitmap, none where CBSEL is not used. -/
def presentBlocks (c : Nat) (v : Option Nat) : List Bool :=
  match v with
  | some m => if (List.range c).any fun r => bitOf m r == 1 then (List.range c).map fun r => bitOf m r == 1 else List.replicate c true
  | none => List.replicate c true

/-- The rate-matched lengths (TS 38.212 5.4.2.1, TS 36.212 5.1.4.1.2): e bits over the present blocks in units of NL × Qm, the longer ones last. Log: 72 PRESUMED. -/
def blockLengths (u e : Nat) (present : List Bool) : List Nat :=
  let c := (present.filter id).length
  let per := e / u
  let one := fun (j : Nat) => if j < c - per % c then u * (per / c) else u * ceilDiv per c
  (present.foldl (fun (a : List Nat × Nat) b => if b then (a.1 ++ [one a.2], a.2 + 1) else (a.1 ++ [0], a.2)) ([], 0)).1

/-- The E of each block of an operation. -/
def lengthsOf (x : CodeOp) (e : Nat) (present : List Bool) : List Nat :=
  match x.code with
  | 0 => blockLengths (x.nl * qmBits x.qm) e present
  | 2 => blockLengths (x.nl * qmBits x.qm) e (present.map fun _ => true)
  | _ => present.map fun _ => e / present.length

/-! ## Declared sizes (R377, R378) -/

/-- The work of a code block. -/
def workOf (x : CodeOp) (dec : Bool) (b : CodeBlock) (e : Nat) : Nat :=
  match x.code with
  | 0 => min b.n (b.k + e)
  | 1 => b.n * log2Up b.n
  | 4 => if dec then 2 ^ b.k else e
  | _ => b.k

/-- How many code blocks the declared sizes admit (R378): w, g, c and h so far. -/
def admitted (x : CodeOp) (dec : Bool) (a1 a2 a3 : Nat) : List (CodeBlock × Nat) → Nat → Nat → Nat → Nat → Nat
  | [], _, _, c, _ => c
  | (b, e) :: t, w, g, c, h =>
    let w1 := w + workOf x dec b e
    let h1 := h + b.ncb
    if max 1 (bitsOf a1 0 28) < w1 ∨ max 1 (bitsOf a2 0 28) < g + e ∨ max 1 (bitsOf a3 0 8) < c + 1
        ∨ (dec = true ∧ x.hmode ≠ 2 ∧ 16 * bitsOf a3 13 19 < h1) then c
    else admitted x dec a1 a2 a3 t w1 (g + e) (c + 1) h1

/-! ## Scrambling and PT-RS -/

/-- For each RE of the symbols in order, is it a PT-RS RE (R375)? -/
def ptrsRes (x : CodeOp) : List Bool :=
  (maskSyms x.sym).flatMap fun l =>
    if bitOf x.dmrs l = 1 then List.replicate (x.nprb * x.dre) false
    else (List.range (12 * x.nprb)).map fun k => bitOf x.ptrsSym l == 1 && decide (x.ptrsSc ≤ k) && (k - x.ptrsSc) % (24 * x.ptrsK) == 0

/-- Remove the PT-RS LLRs (R375): a stream shorter than SYMMASK implies is completed with LLRs of 0, what lies beyond its symbols stays, and the rate-matched length is G less what
is dropped. -/
def dropPtrs (x : CodeOp) (ls : List Int) : List Int :=
  if x.code ≠ 0 ∨ x.ptrsK = 0 then ls
  else
    let u := x.nl * qmBits x.qm
    let flags := (ptrsRes x).flatMap fun b => List.replicate u b
    let whole := ls ++ List.replicate (flags.length - ls.length) 0
    (((whole.zip flags).filter fun y => !y.2).map (·.1) ++ whole.drop flags.length).take (ls.length - (flags.filter id).length)

/-! ## Soft buffers (R384 to R387) -/

/-- L of R385. -/
def softLevels : List Nat := [0, 1, 2, 3, 4, 6, 8, 11, 15, 20, 27, 37, 50, 68, 93, 127]

/-- The LLR of a 5-bit code; none for an erased position. -/
def softValue (c : Nat) : Option Int :=
  let v := signedOf 5 c
  if v = -16 then none else if 0 ≤ v then some (getAt 0 softLevels v.toNat : Nat) else some (-((getAt 0 softLevels v.natAbs : Nat) : Int))

/-- The index of the level nearest to m, a tie to the smaller (R385). -/
def nearestLevel (m : Nat) : Nat :=
  let dist := fun (i : Nat) => let l := getAt 0 softLevels i; if l ≤ m then m - l else l - m
  (List.range 16).foldl (fun b i => if dist i < dist b then i else b) 0

/-- The 5-bit code of an LLR (R385). -/
def softCode (x : Int) : Nat := unsignedOf 5 (if 0 ≤ x then (nearestLevel x.natAbs : Int) else -(nearestLevel x.natAbs : Int))

/-- Bytes of the region of a block with Ncb positions. -/
def regionLen (ncb : Nat) : Nat := padTo 32 (5 * ceilDiv ncb 8)

/-- Offsets of the regions from the buffer's start. -/
def regionOffsets (bs : List CodeBlock) : List Nat := (bs.foldl (fun (a : List Nat × Nat) b => (a.1 ++ [a.2], a.2 + regionLen b.ncb)) ([], 64)).1

/-- Bytes of a soft buffer (R389). -/
def bufferLen (bs : List CodeBlock) : Nat := bs.foldl (fun a b => a + regionLen b.ncb) 64

/-- The codes of n positions from their bytes. -/
def unpackCodes (n : Nat) (bs : List Byte) : List Nat := let v := leNat bs; (List.range n).map fun k => bitsOf v (5 * k) 5

/-- The bytes of a list of codes, eight to five bytes. -/
def packCodes (cs : List Nat) : List Byte :=
  let v := (cs.zip (List.range cs.length)).foldl (fun a x => a + x.1 % 32 * 2 ^ (5 * x.2)) 0
  leBytes (5 * ceilDiv cs.length 8) v

/-! ## Rate matching (TS 38.212 5.4.2, TS 36.212 5.1.4.1) -/

/-- The positions of an LDPC circular buffer of c blocks that hold fillers. Log: 72 PRESUMED. -/
def ldpcNull (x : CodeOp) (c : Nat) (b : CodeBlock) (p : Nat) : Bool :=
  let z := b.k / (if x.bg = 0 then 22 else 10)
  decide (b.info + (if 1 < c then 24 else 0) ≤ p + 2 * z ∧ p + 2 * z < b.k)

/-- A 5-bit number with its bits reversed: the column permutation of the turbo sub-block interleaver. -/
def rev5 (j : Nat) : Nat := 16 * bitOf j 0 + 8 * bitOf j 1 + 4 * bitOf j 2 + 2 * bitOf j 3 + bitOf j 4

/-- What position p of a turbo circular buffer takes from the sub-block interleavers: the coded stream, and the place in its input, the dummies first. Log: 72 PRESUMED. -/
def turboPlace (b : CodeBlock) (p : Nat) : Nat × Nat :=
  let rows := b.n / 96
  let kpi := 32 * rows
  let v := if p < kpi then p else (p - kpi) / 2
  let y := rev5 (v / rows) + 32 * (v % rows)
  if p < kpi then (0, y) else if (p - kpi) % 2 = 0 then (1, y) else (2, (y + 1) % kpi)

/-- The dummies of a turbo block's sub-block interleavers. -/
def turboDummies (b : CodeBlock) : Nat := 32 * (b.n / 96) - (b.k + 4)

/-- The fillers at the front of turbo block r of c. -/
def turboFill (c r : Nat) (b : CodeBlock) : Nat := if r = 0 then b.k - b.info - (if 1 < c then 24 else 0) else 0

/-- Does position p of a turbo circular buffer of c blocks hold a NULL bit: a dummy of the sub-block interleaver, or a filler of the systematic or first parity stream of block
0? Log: 72 PRESUMED. -/
def turboNull (c r : Nat) (b : CodeBlock) (p : Nat) : Bool :=
  let x := turboPlace b p
  decide (x.2 < turboDummies b + (if x.1 = 2 then 0 else turboFill c r b))

/-- Where the redundancy version starts in the circular buffer. Log: 72 PRESUMED. -/
def rvStart (x : CodeOp) (b : CodeBlock) : Nat :=
  if x.code = 2 then (let rows := b.n / 96; rows * (2 * ceilDiv b.ncb (8 * rows) * x.rv + 2))
  else
    let cols := if x.bg = 0 then 66 else 50
    let z := b.n / cols
    (getAt 0 (if x.bg = 0 then [0, 17, 33, 56] else [0, 13, 25, 43]) x.rv * b.ncb) / (cols * z) * z

/-- Does position p of block r's circular buffer hold a filler or a NULL bit? -/
def nullAt (x : CodeOp) (c r : Nat) (b : CodeBlock) (p : Nat) : Bool := if x.code = 2 then turboNull c r b p else ldpcNull x c b p

/-- The positions of block r's circular buffer that e rate-matched bits take, in their order. -/
def ratePositions (x : CodeOp) (c r : Nat) (b : CodeBlock) (e : Nat) : List Nat :=
  let k0 := rvStart x b
  let ps := ((List.range b.ncb).map fun j => (k0 + j) % b.ncb).filter fun p => !nullAt x c r b p
  ((List.replicate (e / max 1 ps.length + 1) ps).flatMap id).take e

/-- The received stream of an LDPC block before the bit interleaver of TS 38.212 5.4.2.2; a turbo block has none. Log: 72 PRESUMED. -/
def deinterleave (x : CodeOp) (ls : List Int) : List Int :=
  if x.code ≠ 0 then ls
  else (List.range (qmBits x.qm)).flatMap fun i => ((ls.zip (List.range ls.length)).filter fun y => y.2 % qmBits x.qm == i).map (·.1)

/-- The LLRs of a transmission at each of n positions: those of one position are added, bounded to ±127 (R386); none where it is not covered. -/
def spread (n : Nat) (ps : List Nat) (ls : List Int) : List (Option Int) :=
  let placed := ps.zip ls
  (List.range n).map fun k =>
    let mine := placed.filter fun x => x.1 == k
    if mine = [] then none else some (clampInt (-127) 127 (mine.foldl (fun a x => a + x.2) 0))

/-- The LLRs that a block is decoded with (R386): stored and received, bounded to ±127; the received alone without a stored buffer. -/
def combine (stored : Option (List Nat)) (rx : List (Option Int)) : List Int :=
  match stored with
  | none => rx.map fun x => x.getD 0
  | some cs => (cs.zip rx).map fun x => clampInt (-127) 127 ((softValue x.1).getD 0 + x.2.getD 0)

/-- The codes written back (R384, R386): a new transmission writes the positions it covers and erases the others; a combine writes the compression of every position, but for those of
filler and NULL bits, which keep what they hold. -/
def writeBack (stored : Option (List Nat)) (null : Nat → Bool) (rx : List (Option Int)) (y : List Int) : List Nat :=
  match stored with
  | none => (rx.zip y).map fun x => if x.1.isSome then softCode x.2 else 16
  | some cs => ((cs.zip y).zip (List.range cs.length)).map fun x => if null x.2 then x.1.1 else softCode x.1.2

/-- The header of a soft buffer (R387). -/
def hbHeader (x : CodeOp) (bs : List CodeBlock) (state count : Nat) : List Byte :=
  leBytes 4 (state + 2 ^ 8 * x.code + 2 ^ 11 * x.bg + 2 ^ 12 * ofBool x.lbrm + 2 ^ 16 * (bs.length % 256)) ++ leBytes 4 x.a ++
  leBytes 4 (match bs with | b :: _ => b.ncb | [] => 0) ++ leBytes 4 x.tbs ++ leBytes 4 count ++ leBytes 44 0

/-- Does a header, with the STATE it had before the operation, admit a combine (R386)? -/
def hbMatches (x : CodeOp) (bs : List CodeBlock) (state v : Nat) : Bool :=
  state == 2 && dfld v 0 8 3 == x.code && dfld v 0 11 1 == x.bg && dfld v 0 12 1 == ofBool x.lbrm && dfld v 0 16 8 == bs.length % 256 &&
    dfld v 4 0 21 == x.a && dfld v 0xC 0 21 == x.tbs

/-! ## Ranges (R373) -/

/-- The CSM ranges of an operation: input, output, report, soft buffer and selection. -/
def codeRanges (x : CodeOp) (dec : Bool) : List (Nat × Nat) :=
  let c := (codeBlocks x x.g).length
  (if dec then [(x.inA, x.g), (x.outA, ceilDiv x.a 8), (x.rep, 32 + 4 * c)] ++ (if x.hmode = 2 then [] else [(x.hb, bufferLen (codeBlocks x x.g))])
   else [(x.inA, ceilDiv x.a 8), (x.outA, ceilDiv x.g 8)]) ++ (if x.code = 0 ∧ x.cbsel ≠ 0 then [(x.cbsel, 32)] else [])

/-- Does every range lie in the CSM? -/
def codeInside (x : CodeOp) (dec : Bool) : Bool := (codeRanges x dec).all fun r => decide (r.1 + r.2 ≤ 2 ^ 23)

/-! ## CRCs and code blocks (R369) -/

/-- The CRC of a whole transport block or message; none for UCI and block codes. -/
def tbCrc (x : CodeOp) : Option CrcKind :=
  match x.code with
  | 0 => some (if x.a ≤ 3824 then .crc16 else .crc24a)
  | 1 => if x.var = 0 then none else some .crc24c
  | 2 => some .crc24a
  | 3 => some (if x.var < 2 then .crc16 else .crc24a)
  | _ => none

/-- The CRC of each of c code blocks or segments; none where they have none. -/
def cbCrc (x : CodeOp) (c : Nat) : Option CrcKind :=
  if (x.code = 0 ∨ x.code = 2) ∧ 1 < c then some .crc24b
  else if x.code = 1 ∧ x.var = 0 then some (if x.a ≤ 19 then .crc6 else .crc11)
  else none

/-- The ones in front of a DCI message for its CRC, and the mask on its last parity bits: the RNTI or antenna mask (R369). -/
def crcPrefix (x : CodeOp) : Nat := if x.code = 1 ∧ x.var = 1 then 24 else 0
/-- The mask on the parity bits. -/
def crcMask (x : CodeOp) : Nat := if (x.code = 1 ∧ x.var = 1) ∨ (x.code = 3 ∧ x.var < 2) then x.rnti else 0

/-- The parity bits of a CRC that an operation may have. -/
def parityOf (x : CodeOp) (c : Option CrcKind) (bits : List Bool) : List Bool :=
  match c with | some k => crcParity k (crcPrefix x) (crcMask x) bits | none => []

/-- Does a CRC that an operation may have pass? -/
def passesCrc (x : CodeOp) (c : Option CrcKind) (bits : List Bool) : Bool :=
  match c with | some k => crcHolds k (crcPrefix x) (crcMask x) bits | none => false

/-- The first CRC of an operation that its check-value unit is set for (R383): the decoder meets its code blocks' first, the encoder the transport block's. -/
def unitCrc (x : CodeOp) (dec : Bool) : Option CrcCfg :=
  let cb := cbCrc x (codeBlocks x x.g).length
  let k := if dec then (match cb with | some v => some v | none => tbCrc x) else (match tbCrc x with | some v => some v | none => cb)
  k.map fun v => ⟨crcWidth v, crcPoly v, crcBitsFrom (crcWidth v) (crcPoly v) 0 (List.replicate (crcPrefix x) true), false, false, 0⟩

/-- The zero bits in front of a payload that is cut into two polar segments (TS 38.212 5.2.1). -/
def polarPad (x : CodeOp) (bs : List CodeBlock) : Nat := if x.code = 1 then bs.length * (bs.headD ⟨0, 0, 0, 0⟩).info - x.a else 0

/-- The first m of a list of pieces of the given lengths, one after another. -/
def cutBy {α : Type} : List Nat → List α → List (List α)
  | [], _ => []
  | n :: t, l => l.take n :: cutBy t (l.drop n)

/-- The K bits of each code block of a payload, with its CRCs and with fillers as 0 (R369, R370). -/
def segmentBits (x : CodeOp) (bs : List CodeBlock) (pay : List Bool) : List (List Bool) :=
  let msg := pay ++ parityOf x (tbCrc x) pay
  if x.code = 0 ∨ x.code = 2 then
    ((bs.zip (List.range bs.length)).zip (cutBy (bs.map (·.info)) msg)).map fun y =>
      let piece := y.2 ++ List.replicate (y.1.1.info - y.2.length) false
      let body := if x.code = 2 then List.replicate (turboFill bs.length y.1.2 y.1.1) false ++ piece else piece
      let all := body ++ parityOf x (cbCrc x bs.length) body
      all ++ List.replicate (y.1.1.k - all.length) false
  else if x.code = 1 ∧ x.var = 0 then
    (cutBy (bs.map (·.info)) (List.replicate (polarPad x bs) false ++ pay)).map fun y => y ++ parityOf x (cbCrc x bs.length) y
  else [msg]

/-- The polar code of a block of E bits (TS 38.212 6.3.1.3.1, 7.3.3). -/
def polarCodeOf (x : CodeOp) (b : CodeBlock) (e : Nat) : PolarCode :=
  let pc := x.var = 0 ∧ 18 ≤ b.k ∧ b.k ≤ 25
  ⟨b.n, b.k, e, x.var != 0, x.var == 0, if pc then 3 else 0, if pc ∧ 192 + b.k < e + 3 then 1 else 0⟩

/-- The lifting size of an LDPC block. -/
def liftOf (x : CodeOp) (b : CodeBlock) : Nat := b.k / graphCols x.bg

/-- Pick elements of a list by their places. -/
def pickFrom {α : Type} (d : α) (l : List α) (ps : List Nat) : List α := let a := l.toArray; ps.map fun p => a.getD p d

/-- The bit interleaver of TS 38.212 5.4.2.2 over e bits; a turbo block has none. -/
def interleave (x : CodeOp) (e : Nat) (v : List Bool) : List Bool :=
  if x.code ≠ 0 then v else pickFrom false v ((List.range e).map fun t => t % qmBits x.qm * (e / qmBits x.qm) + t / qmBits x.qm)

/-- The e bits sent for the K bits of block r of c (R370). -/
def sendBlock (x : CodeOp) (c r : Nat) (b : CodeBlock) (e : Nat) (bits : List Bool) : List CodeSym :=
  match x.code with
  | 0 => (interleave x e (pickFrom false (ldpcBuffer x.bg (liftOf x b) bits) (ratePositions x c r b e))).map .bit
  | 1 => (polarEncode (polarCodeOf x b e) bits).map .bit
  | 2 =>
    let d := turboEncode bits
    (pickFrom false (d.flatMap id) ((ratePositions x c r b e).map fun p => let y := turboPlace b p; y.1 * (b.k + 4) + (y.2 - turboDummies b))).map .bit
  | 3 => (tbccSend bits e).map .bit
  | _ => blockSend (blockWord x.var (qmBits x.qm) bits) e

/-! ## Decoding a code block (R370, R379, R381) -/

/-- What decoding a block gives: its bits without fillers, whether its CRC passes, the iterations used, and the best and second-best metrics of R381 if they count. -/
structure BlockOut where
  bits : List Bool
  ok : Bool
  iters : Nat
  metrics : Option (Int × Int)
deriving DecidableEq, Repr

/-- The first of the results of iterations 1 to ITER at which decoding stops, with its number; the last where it stops at none (R379). -/
def stopAt (stops : List Bool → Bool) : Nat → List (List Bool) → Nat × List Bool
  | n, [] => (n, [])
  | n, [r] => (n + 1, r)
  | n, r :: t => if stops r then (n + 1, r) else stopAt stops (n + 1) t

/-- Decode an LDPC block from the LLRs of its circular buffer. With ET it stops at the first iteration at which every parity check holds and, with several blocks, the CRC passes. -/
def ldpcDecode (x : CodeOp) (c : Nat) (b : CodeBlock) (ys : List Int) : BlockOut :=
  let z := liftOf x b
  let n := b.info + (if 1 < c then 24 else 0)
  let ok := fun (v : List Bool) => passesCrc x (cbCrc x c) (v.take n)
  let all := (List.range x.iter).map fun i => colBits z (Config.ldpcDecision x.bg z ys (i + 1))
  let r := stopAt (fun v => x.et && ldpcChecks x.bg z (bitCols z (graphCols x.bg + graphRows x.bg) v) && (decide (c ≤ 1) || ok v)) 0 all
  ⟨r.2.take b.info, ok r.2, r.1, none⟩

/-- The LLRs of the three coded streams of a turbo block: its fillers are known zeros. -/
def turboLlrs (c r : Nat) (b : CodeBlock) (ys : List Int) : List (List Int) :=
  let at_ := ((ys.zip (List.range ys.length)).map fun y => (turboPlace b y.2, y.1))
  [0, 1, 2].map fun s =>
    let mine := (at_.filter fun y => y.1.1 == s && decide (turboDummies b ≤ y.1.2)).map fun y => (y.1.2 - turboDummies b, y.2)
    let a := mine.foldl (fun (a : Array Int) y => a.setIfInBounds y.1 y.2) (Array.replicate (b.k + 4) 0)
    (a.toList.zip (List.range (b.k + 4))).map fun y => if s < 2 ∧ y.2 < turboFill c r b then 127 else y.1

/-- Decode a turbo block from the LLRs of its circular buffer. With ET it stops at the first iteration after which the code-block CRC, or with one block the transport-block CRC, passes. -/
def turboDecode (x : CodeOp) (c r : Nat) (b : CodeBlock) (ys : List Int) : BlockOut :=
  let kind := if 1 < c then cbCrc x c else tbCrc x
  let all := turboRuns (turboLlrs c r b ys) b.k x.iter ⟨List.replicate b.k 0, 1, []⟩
  let o := stopAt (fun v => x.et && passesCrc x kind v) 0 all
  ⟨(o.2.drop (turboFill c r b)).take b.info, passesCrc x kind o.2, o.1, none⟩

/-- Decode a polar block: of at most eight surviving paths the best whose CRC passes, else the best (R370). -/
def polarDecode (x : CodeOp) (c : Nat) (b : CodeBlock) (ls : List Int) : BlockOut :=
  let p := polarCodeOf x b ls.length
  let kind := match cbCrc x c with | some k => some k | none => tbCrc x
  let paths := ((Config.polarPaths p.n (polarInfo p) (polarPc p) (polarLlrs p ls)).take 8).map fun y => (y.1, polarPayload p y.2)
  let good := paths.filter fun y => passesCrc x kind y.2
  let best := match good with | y :: _ => y.2 | [] => (paths.headD (0, [])).2
  ⟨best.take b.info ++ List.replicate (b.info - best.length) false, !good.isEmpty, 0, match good with | y :: z :: _ => some ((y.1 : Int), (z.1 : Int)) | _ => none⟩

/-- Decode block r of c from its LLRs: those of its circular buffer where it has one, those of the stream otherwise. -/
def decodeBlock (x : CodeOp) (c r : Nat) (b : CodeBlock) (ls : List Int) : BlockOut :=
  match x.code with
  | 0 => ldpcDecode x c b ls
  | 1 => polarDecode x c b ls
  | 2 => turboDecode x c r b ls
  | 3 => (let v := tbccDecode b.k ls; ⟨v.take x.a, passesCrc x (tbCrc x) v, 0, none⟩)
  | _ => (let v := blockDecode x.var (qmBits x.qm) x.a ls; ⟨v.1, false, 0, some v.2⟩)

/-- CONF (R381): the ratio of the best two metrics of a block code or polar code in 0.1 dB; 0 where fewer than two paths pass. Where the metrics have no such ratio, or a polar
operation has two segments, the spec states no value. Log: 71 DESIGN CHOICE. -/
def confOf (x : CodeOp) (outs : List BlockOut) : Nat :=
  if x.code ≠ 1 ∧ x.code ≠ 4 then 0
  else match outs with
    | [] => 0
    | [o] => (match o.metrics with
      | none => 0
      | some (a, b) => if 0 < b ∧ b ≤ a then min 65535 (decibelTenths a.toNat b.toNat) else Config.confidence a b % 65536)
    | o :: p :: _ => (match o.metrics, p.metrics with
      | none, none => 0
      | m, n => Config.confidence (m.getD (0, 0)).1 (n.getD (0, 0)).1 % 65536)

/-! ## The decoder -/

/-- The start of a CDE operation (R383, R387): unit 2 is claimed, and the header of a soft buffer in use reads BUSY from here. -/
def cdeStart (s : State) (n : Node) : State :=
  let k := n.cluster
  let base := csmFlat k
  let x := (codeOp (rdLe s (base + argOf n 0) 64) true).1
  let s1 := cvuClaim s k 2 (unitCrc x true)
  if x.hmode = 2 ∨ codeInside x true = false then s1
  else setCl (wrMem s1 (base + x.hb) [1]) k { getCl s1 k with hbState := (rdByte s (base + x.hb)).toNat }

/-- One code block's LLRs: its part of the stream, spread over its positions where it has a buffer. -/
def blockLlrs (o : EngIo) (base : Nat) (x : CodeOp) (comb : Bool) (c e r ofs : Nat) (b : CodeBlock) (ls : List Int) :
    (List Int × List Nat) × EngIo :=
  let mine := ls ++ List.replicate (e - ls.length) 0
  if x.code ≠ 0 ∧ x.code ≠ 2 then ((mine, []), o)
  else
    let rx := spread b.ncb (ratePositions x c r b e) (deinterleave x mine)
    if comb then
      (let (bs, o1) := engRead o base (strideAt x.hb ofs 1) (5 * ceilDiv b.ncb 8)
       let st := some (unpackCodes b.ncb bs)
       let y := combine st rx
       ((y, writeBack st (nullAt x c r b) rx y), o1))
    else ((combine none rx, writeBack none (nullAt x c r b) rx (combine none rx)), o)

/-- The bits of a payload as bytes, bit 0 in bit 7 of byte 0 (R371). -/
def payloadBytes (bits : List Bool) : List Byte :=
  (chunks 8 (ceilDiv bits.length 8) bits).map fun c => BitVec.ofNat 8 (beBits (c ++ List.replicate (8 - c.length) false))

/-- The bits of a payload of A bits from its bytes. -/
def payloadBits (a : Nat) (bs : List Byte) : List Bool := (bs.flatMap fun b => (List.range 8).map fun i => bitOf b.toNat (7 - i) == 1).take a

/-- Has the code a CRC (R369)? -/
def hasCrc (x : CodeOp) : Bool := x.code != 4

/-- Mean magnitude of the LLRs decoded, in units of 1/16 (R381). -/
def meanAbs (ys : List (List Int)) : Nat :=
  let n := (ys.map (·.length)).foldl (· + ·) 0
  if n = 0 then 0 else min 65535 (roundDiv (16 * ((ys.flatMap id).foldl (fun a v => a + v.natAbs) 0 : Nat)) n).toNat

/-- How a coding operation went: the state, whether it read a bad granule, and whether a range passed the end of the CSM (R373). -/
abbrev CodeRes := State × Bool × Bool

/-- Whether the transport-block CRC passes (R381): over the blocks' bits, or that of the one block; of UCI in segments, every segment's. -/
def tbPasses (x : CodeOp) (outs : List BlockOut) : Bool :=
  if x.code = 0 ∨ x.code = 2 then
    passesCrc x (tbCrc x) ((outs.flatMap (·.bits)).take (x.a + match tbCrc x with | some k => crcWidth k | none => 0))
  else outs.all (·.ok)

/-- Run a CDE operation of a node (R378 to R387). Log: 71 DESIGN CHOICE. -/
def cdeRun (s : State) (n : Node) : CodeRes :=
  let k := n.cluster
  let base := csmFlat k
  let (db, o0) := engRead (engOpen s) base (argOf n 0) 64
  let (x0, c) := codeOp (leNat db) true
  let o1 := { o0 with st := addF o0.st (CDE_CLAMP_CLAMP k) c }
  if codeInside x0 true = false then (cvuUnclaim (engDone k 3 o1) k 3, o1.bad, true)
  else
    let x := { x0 with iter := min x0.iter (max 1 (bitsOf (argOf n 3) 8 5)) }
    let (lb, o2) := engRead o1 base x.inA x.g
    let raw := lb.map fun b => clampInt (-127) 127 b.toInt
    let des := if x.scr then (raw.zip (goldBits x.cinit x.g)).map fun y => if y.2 then -y.1 else y.1 else raw
    let ls := dropPtrs x des
    let bs := codeBlocks x ls.length
    let (selb, o3) := if x.code = 0 ∧ x.cbsel ≠ 0 then (let (v, o) := engRead o2 base x.cbsel 32; (some (leNat v), o)) else (none, o2)
    let es := lengthsOf x ls.length (presentBlocks bs.length selb)
    let m := admitted x true (argOf n 1) (argOf n 2) (argOf n 3) (bs.zip es) 0 0 0 0
    let (hv, o4) := if x.hmode = 1 then engRead o3 base x.hb 64 else ([], o3)
    let comb := x.hmode == 1 && hbMatches x bs (getCl s k).hbState (leNat hv)
    let mismatch := x.hmode == 1 && !comb
    let parts := ((bs.zip es).zip ((cutBy es ls).zip (regionOffsets bs))).zip (List.range bs.length)
    let (ys, o5) := (parts.take m).foldl (fun a p =>
      let (v, o) := blockLlrs a.2 base x comb bs.length p.1.1.2 p.2 p.1.2.2 p.1.1.1 p.1.2.1
      (a.1 ++ [v], o)) (([] : List (List Int × List Nat)), o4)
    let llrs := ys.map (·.1)
    let outs := ((parts.take m).zip llrs).map fun y => decodeBlock x bs.length y.1.2 y.1.1.1.1 y.2
    let trunc := decide (m < bs.length)
    let tbOk := hasCrc x && !trunc && tbPasses x outs
    let hasCb := (cbCrc x bs.length).isSome
    let out := fun (r : Nat) => outs[r]?
    let cbOk := fun (r : Nat) => hasCb && (match out r with | some y => y.ok | none => false)
    let iters := fun (r : Nat) => match out r with | some y => y.iters | none => 0
    let rs := List.range bs.length
    let sum := (rs.map iters).foldl (· + ·) 0
    let fails := (rs.filter fun r => decide (m ≤ r) || (hasCb && !cbOk r)).length
    let count := if x.hmode = 2 then 0 else if comb then min (2 ^ 32 - 1) (dfld (leNat hv) 0x10 0 32 + 1) else 1
    let bits := ((bs.zip rs).flatMap fun y => match out y.2 with | some z => z.bits | none => List.replicate y.1.info false).drop (polarPad x bs)
    let o6 := engWrite o5 base x.outA (payloadBytes (bits.take x.a))
    let rep := leBytes 4 (ofBool tbOk + 2 * ofBool mismatch + 4 * ofBool trunc + 8 * ofBool (!hasCrc x) + 2 ^ 8 * (bs.length % 256) + 2 ^ 16 * fails) ++ leBytes 4 sum ++
      leBytes 4 (meanAbs llrs + 2 ^ 16 * confOf x outs) ++ leBytes 4 count ++ leBytes 16 0 ++
      rs.flatMap fun r => leBytes 4 (ofBool (cbOk r) + 2 * ofBool (decide (r < m)) + 2 ^ 8 * iters r)
    let o7 := engWrite o6 base x.rep rep
    let o8 := if x.hmode = 2 then o7
      else
        let wr := ((parts.take m).zip ys).foldl (fun o y => engWrite o base (strideAt x.hb y.1.1.2.2 1) (packCodes y.2.2)) o7
        engWrite wr base x.hb (hbHeader x bs 2 count)
    let s1 := addF (addF (addF o8.st (CDE_CNT_TRUNC_TRUNC k) (ofBool trunc)) (CDE_CNT_TB_OK k) (ofBool tbOk)) (CDE_CNT_TB_FAIL k) (ofBool (hasCrc x && !tbOk))
    let o9 := { o8 with st := addF (addF s1 (CDE_CNT_ITER_ITERS k) sum) (CDE_CNT_HB_MISMATCH k) (ofBool mismatch) }
    (cvuUnclaim (engDone k 3 o9) k 3, o9.bad, false)

/-! ## The encoder -/

/-- The start of a CEE operation: unit 3 is claimed (R383). -/
def ceeStart (s : State) (n : Node) : State :=
  cvuClaim s n.cluster 3 (unitCrc (codeOp (rdLe s (csmFlat n.cluster + argOf n 0) 64) false).1 false)

/-- The bits of a stream (R374): a bit is XORed with its scrambling bit; a placeholder x is 1, and y repeats the bit before it (TS 38.211 6.3.2.6.1). Log: 72 PRESUMED. -/
def scrambled (w : List CodeSym) (gold : List Bool) : List Bool :=
  ((w.zip gold).foldl (fun (a : List Bool) y =>
    (match y.1 with | .bit b => b != y.2 | .x => true | .y => a.headD false) :: a) []).reverse

/-- The bits of a stream as bytes, bit 0 in bit 0 of byte 0 (R371). -/
def streamBytes (bits : List Bool) : List Byte :=
  (chunks 8 (ceilDiv bits.length 8) bits).map fun c => BitVec.ofNat 8 (beBits c.reverse)

/-- Run a CEE operation of a node (R369 to R378). Log: 71 DESIGN CHOICE. -/
def ceeRun (s : State) (n : Node) : CodeRes :=
  let k := n.cluster
  let base := csmFlat k
  let (db, o0) := engRead (engOpen s) base (argOf n 0) 64
  let (x, c) := codeOp (leNat db) false
  let o1 := { o0 with st := addF o0.st (CEE_CLAMP_CLAMP k) c }
  if codeInside x false = false then (cvuUnclaim (engDone k 4 o1) k 4, o1.bad, true)
  else
    let (pb, o2) := engRead o1 base x.inA (ceilDiv x.a 8)
    let pay := payloadBits x.a pb
    let bs := codeBlocks x x.g
    let (selb, o3) := if x.code = 0 ∧ x.cbsel ≠ 0 then (let (v, o) := engRead o2 base x.cbsel 32; (some (leNat v), o)) else (none, o2)
    let es := lengthsOf x x.g (presentBlocks bs.length selb)
    let m := admitted x false (argOf n 1) (argOf n 2) (argOf n 3) (bs.zip es) 0 0 0 0
    let sent := ((segmentBits x bs pay).zip ((bs.zip es).zip (List.range bs.length))).flatMap fun y => sendBlock x bs.length y.2.2 y.2.1.1 y.2.1.2 y.1
    let done := (es.take m).foldl (· + ·) 0
    let gold := if x.scr then goldBits x.cinit x.g else List.replicate x.g false
    let all := scrambled ((sent ++ List.replicate (x.g - sent.length) (CodeSym.bit false)).take x.g) gold
    let bits := if m = bs.length then all else all.take done ++ List.replicate (x.g - done) false
    let o4 := engWrite o3 base x.outA (streamBytes bits)
    let o5 := { o4 with st := addF o4.st (CEE_CNT_TRUNC_TRUNC k) (ofBool (decide (m < bs.length))) }
    (cvuUnclaim (engDone k 4 o5) k 4, o5.bad, false)

/-- CDE_CNT_CLR: clears every counter of the CDE. -/
def execCdeCntClr (k : Fin 32) (s : State) : Res :=
  .next (if blockLive s .cde k.val = false then s else [CDE_CNT_OP_OPS k.val, CDE_CLAMP_CLAMP k.val, CDE_CNT_TRUNC_TRUNC k.val, CDE_CNT_TB_OK k.val, CDE_CNT_TB_FAIL k.val, CDE_CNT_ITER_ITERS k.val,
    CDE_CNT_HB_MISMATCH k.val].foldl (fun s f => setF s f 0) s)

/-- CEE_CNT_CLR: clears every counter of the CEE. -/
def execCeeCntClr (k : Fin 32) (s : State) : Res :=
  .next (if blockLive s .cee k.val = false then s else [CEE_CNT_OP_OPS k.val, CEE_CLAMP_CLAMP k.val, CEE_CNT_TRUNC_TRUNC k.val].foldl (fun s f => setF s f 0) s)

end Sys2Proof.Machine
end

