-- ==== Sys2Proof/Machine/Lanes.lean ====
section
/-!
DEFINITION. Serial lanes (spec/11_lanes.md R398 to R405, R417 to R423; spec/02_larkspur_time.md R66, R68, R69): enabling and bring-up, markers and the round trip, control messages and
the management queue, failure and the spare lane.
-/

namespace Sys2Proof.Machine

/-- Bring lane l's interrupt source to its condition. -/
def refreshLane (s : State) (l : Nat) : State := refresh s (qSrc (l / 16) (168 + l % 16))

/-- Set a lane's STATE. -/
def setLaneState (s : State) (l v : Nat) : State := refreshLane (setF s (LAN_STAT_STATE l) v) l

/-! ## Enabling (R398, R419, R420) -/

/-- The ports that slots naming ps take at a rate code: at code 9 the four ports of the gang (R292). -/
def withGang (rate : Nat) (ps : List Nat) : List Nat := if rate = 9 then ps.flatMap fun p => (List.range 4).map (p / 4 * 4 + ·) else ps

/-- The quadrant ports that lane l maps: its slots, with the ports of a gang, or its frequency-domain ports. -/
def laneMaps (s : State) (l : Nat) : List Nat := if laneOrl s l then withGang (laneRate s l) (laneSlots s l) else setBits 48 0 (getF s (LAN_FDPORTS_PORTS l))

/-- Would lane l be the spare once enabled (R422)? -/
def wouldSpare (s : State) (l : Nat) : Bool :=
  laneOrl s l && isF s (LAN_CTL_SPARE l) && !anyBelow (fun i => spareCand s (l / 16 * 16 + i)) (l % 16)

/-- Does another enabled lane of the quadrant map one of the ports? -/
def mappedElsewhere (s : State) (l : Nat) (ps : List Nat) : Bool :=
  (List.range 16).any fun i => let m := l / 16 * 16 + i; m != l && isF s (LAN_CTL_EN m) && (laneMaps s m).any ps.contains

/-- The ports in the written valid slots of lane l. -/
def writtenSlots (s : State) (l : Nat) : List Nat := (List.range 4).filterMap fun i => slotPort (getR s (LAN_PORTS l)).toNat i

/-- The capacity tests of R398 for P ports at the lane's written rate. -/
def capacityOk (s : State) (l p : Nat) : Bool :=
  let r := rateTc (min 9 (getF s (LAN_RATE_RATE l)))
  let lr := lineRate s l
  let b := if laneFec s l then 70 else 66
  decide (6 * p * b * 1966080000 * 10 ≤ 9 * lr * 18 * r) &&
    decide ((66 * 6 * p + (if laneFec s l then 80 * ((6 * p - 1) / 20 + 1) else 0)) * 1966080000 ≤ lr * 18 * r)

/-- Is RATE code 9 used as R398 lets it be: ORL-56, one valid slot, slot 0 naming a port AP(4k)? -/
def gangOk (s : State) (l : Nat) : Bool :=
  decide (min 9 (getF s (LAN_RATE_RATE l)) ≠ 9) ||
    (getF s (LAN_CTL_MODE l) == 0 && (match slotPort (getR s (LAN_PORTS l)).toNat 0 with | some p => p % 4 == 0 && writtenSlots s l == [p] | none => false))

/-- Enable a lane (R398, R420): refused with CAP_ERR where a test of R398 fails; otherwise TRAINING begins, with no calibration and no round-trip values (R66, R69). -/
def enableLane (s : State) (l : Nat) : State :=
  if isF s (LAN_CTL_EN l) then s
  else
    let radio := laneRadio s l && !wouldSpare s l
    let ps := if laneOrl s l then writtenSlots s l else setBits 48 0 (getF s (LAN_FDPORTS_PORTS l))
    let clash := !wouldSpare s l && mappedElsewhere s l (if laneOrl s l then withGang (min 9 (getF s (LAN_RATE_RATE l))) ps else ps)
    let s1 := if clash then setF s (LAN_STAT_MAP_ERR l) 1 else s
    if radio && (clash || !gangOk s l || !capacityOk s l ps.length) then refreshLane (setF s1 (LAN_STAT_CAP_ERR l) 1) l
    else
      let q := l / 16
      let s2 := setF (setF (setF (emit s1 (.lineStart l)) (LAN_CTL_EN l) 1) (LKS_LANE_STAT_CAL_DONE q (l % 16)) 0) (LKS_LANE_STAT_RTT_VALID q (l % 16)) 0
      let h := getLane s2 l
      let h1 := { h with began := now s, gave := false, took := none, blocks := 0, base := now s, baseBlk := 0, nextMk := 0, svc := [], markers := [], rtts := [], rttUsed := none, cal := true }
      setLaneState (setLane s2 l { h1 with ctl := none, profDue := 0, goodCw := 0, uncAt := [], badHdr := [] }) l 1

/-- LANE_ENABLE (R398, R420): the write of 1 to LAN_CTL.EN. -/
def execLaneEnable (lane : Fin 64) (s : State) : Res := .next (if quadDark s (lane.val / 16) then s else enableLane s lane.val)

/-- Clear what a lane holds of its link. Log: 79 DEDUCED. -/
def dropLink (s : State) (l : Nat) : State :=
  setF (setF (setF (setF s (LAN_STAT_BLOCK_LOCK l) 0) (LAN_STAT_FEC_LOCK l) 0) (LAN_STAT_PEER_OK l) 0) (LAN_RXA_ADAPTED l) 0

/-- The lanes of the 100G group of lane l (R408). -/
def ethGroup (l : Nat) : List Nat := (List.range 4).map (l / 4 * 4 + ·)

/-- The lanes that go down with lane l: itself, and in MODE 4 its group, whose lanes are one port (R408). -/
def downWith (s : State) (l : Nat) : List Nat :=
  if getF s (LAN_CTL_MODE l) = 4 then (ethGroup l).filter fun m => isF s (LAN_CTL_EN m) && getF s (LAN_CTL_MODE m) == 4 else [l]

/-- A lane of an incomplete MODE 4 group is in TRAINING (R408). -/
def backToTraining (s : State) (m : Nat) : State := if getF s (LAN_STAT_STATE m) = 2 then setLaneState (setLane (dropLink s m) m { getLane s m with began := now s }) m 1 else s

/-- Disable a lane: electrical idle at once (R419), and its MODE 4 group no longer complete (R408). A lane whose ports the spare carries stays without them until it is enabled again (R423). -/
def disableLane (s : State) (l : Nat) : State :=
  if isF s (LAN_CTL_EN l) = false then s
  else
    let s1 := dropLink (setF (runLane s l (now s)) (LAN_CTL_EN l) 0) l
    let s2 := emit (setF (setF s1 (LAN_STAT_SERVING l) 0) (LAN_STAT_SERVES l) 0) (.electricalIdle l)
    let s3 := setLaneState (setLane s2 l { getLane s2 l with took := none, svc := [], ctl := none, profDue := 0, cal := false }) l 0
    (if getF s (LAN_CTL_MODE l) = 4 then ((ethGroup l).filter fun m => m != l && getF s (LAN_CTL_MODE m) == 4).foldl backToTraining s3 else s3)

/-- LANE_DISABLE (R419): the write of 0 to LAN_CTL.EN. -/
def execLaneDisable (lane : Fin 64) (s : State) : Res := .next (if quadDark s (lane.val / 16) then s else disableLane s lane.val)

/-- Is a live lane not yet UP or STANDBY? -/
def laneTraining (s : State) (l : Nat) : Bool := laneLive s l && (getF s (LAN_STAT_STATE l) == 1 || getF s (LAN_STAT_STATE l) == 4)

/-- BLOCK_LOCK (R420): 64 consecutive blocks with valid sync headers. -/
def execBlockLock (lane : Fin 64) (s : State) : Res := .next (if laneTraining s lane.val then setF s (LAN_STAT_BLOCK_LOCK lane.val) 1 else s)

/-- FEC_LOCK (R399, R420): three codewords in a row have decoded; on an ORL lane they are those that came. In MODE 4 it is also the alignment lock of R408,
which the skew in ps between the four lanes must allow. Log: 79 DEDUCED. -/
def execFecLock (lane : Fin 64) (skew : Nat) (s : State) : Res :=
  .next (if laneTraining s lane.val && laneFec s lane.val && isF s (LAN_STAT_BLOCK_LOCK lane.val) && (!laneOrl s lane.val || decide (3 ≤ (getLane s lane.val).goodCw)) &&
      (getF s (LAN_CTL_MODE lane.val) != 4 || decide (skew ≤ 180000)) then
    setF s (LAN_STAT_FEC_LOCK lane.val) 1 else s)

/-- Has the lane block lock, and FEC lock where it has FEC (steps 2 and 3 of R420)? -/
def laneLocked (s : State) (l : Nat) : Bool := isF s (LAN_STAT_BLOCK_LOCK l) && (!laneFec s l || isF s (LAN_STAT_FEC_LOCK l))

/-- Has the lane passed steps 2 to 5 of R420 that apply to it? -/
def lanePassed (s : State) (l : Nat) : Bool :=
  laneLocked s l && (!laneRadio s l || isF s (LAN_STAT_PEER_OK l)) &&
    isF s (LKS_LANE_STAT_CAL_DONE (l / 16) (l % 16))

/-- Does LANE_UP bring lane l up: it is training and has passed every step, and so has every lane of its group in MODE 4? -/
def comesUp (s : State) (l : Nat) : Bool :=
  laneTraining s l && (if getF s (LAN_CTL_MODE l) = 4 then (ethGroup l).all fun m => isF s (LAN_CTL_EN m) && getF s (LAN_CTL_MODE m) == 4 && lanePassed s m else lanePassed s l)

/-- Step 6 of R420 for one lane: UP, or STANDBY on the spare; frames begin with the first group whose air time is at least 10 µs later, and the eight profiles are due. -/
def bringUp (margin : Byte) (s : State) (l : Nat) : State :=
  let h := getLane s l
  let s1 := setLane s l { h with framesFrom := now s + 10000000, profDue := 255, lastMark := now s }
  setLaneState (setF (setF s1 (LAN_RXA_ADAPTED l) 1) (LAN_RXA_MARGIN l) margin.toNat) l (if isSpare s l && h.took.isNone then 3 else 2)

/-- LANE_UP (R408, R418, R420, R422): step 6; a MODE 4 group comes up as one. -/
def execLaneUp (lane : Fin 64) (margin : Byte) (s : State) : Res :=
  let l := lane.val
  if comesUp s l then .next ((downWith s l).foldl (bringUp margin) s) else .next s

/-- LANE_BRINGUP_TIMEOUT (R420): step 6 is not reached within 50 ms. Log: 79 DEDUCED. -/
def execLaneBringupTimeout (lane : Fin 64) (s : State) : Res :=
  let l := lane.val
  .next (if laneLive s l && getF s (LAN_STAT_STATE l) == 1 && reached s ((getLane s l).began + 50000000000) then setLaneState s l 4 else s)

/-! ## The spare lane (R421 to R423) -/

/-- Does the spare sp cover lane l: its COVERS bit, an enabled ORL lane with its MODE and FEC (R422), where FEC is ignored in the modes that fix it (R390)? -/
def coversLane (s : State) (sp l : Nat) : Bool :=
  sp != l && testF s (LAN_SPARE_COVERS sp) (l % 16) && isF s (LAN_CTL_EN l) && laneRadio s l &&
    getF s (LAN_CTL_MODE sp) == getF s (LAN_CTL_MODE l) && laneFec s sp == laneFec s l

/-- The switch-over that waits in quadrant q. -/
def getTrig (s : State) (q : Nat) : Option (Nat × Int × Int) := smGet (fun _ => none) s.spareTrig q
/-- Store the switch-over that waits in quadrant q. -/
def setTrig (s : State) (q : Nat) (x : Option (Nat × Int × Int)) : State := { s with spareTrig := smPut (fun _ => none) q x s.spareTrig }

/-- A trigger for covered lane l with spare sp (R423): kept only where the spare is in STANDBY; of two in one always-on cycle the lower-numbered lane switches over. Log: 79 DEDUCED. -/
def trigger (s : State) (sp l : Nat) : State :=
  if getF s (LAN_STAT_STATE sp) ≠ 3 ∨ coversLane s sp l = false then s
  else
    match getTrig s (l / 16) with
    | some (m, _, c) => if c = ctPs s ∧ l < m then setTrig s (l / 16) (some (l, now s, ctPs s)) else s
    | none => setTrig s (l / 16) (some (l, now s, ctPs s))

/-- The spare of quadrant q. -/
def spareOf (s : State) (q : Nat) : Option Nat := ((List.range 16).map (16 * q + ·)).find? (isSpare s)

/-- What makes an UP or STANDBY lane go down (R421): 16 errored sync headers in 125 µs, no valid marker in 3 × 16,384 blocks on a radio lane, PEER_ERR, or more than 64 uncorrectable
codewords in 1 ms. The first and the last are seen in what an ORL lane receives; of an Ethernet lane they are brought as they are. Log: 79 DEDUCED. -/
def downCause (s : State) (l : Nat) (cause : Fin 4) : Bool :=
  let h := getLane s l
  match cause with
  | 0 => !laneRadio s l || decide (16 ≤ h.badHdr.length)
  | 1 => laneRadio s l && reached s (h.lastMark + (ceilDiv (3 * 16384 * (if laneFec s l then 70 else 66) * 1000000000000) (lineRate s l) : Nat))
  | 2 => isF s (LAN_STAT_PEER_ERR l)
  | 3 => laneFec s l && (!laneRadio s l || decide (64 < h.uncAt.length))

/-- A lane goes down (R421): it is counted and reported, restarts bring-up with its group, and with AUTO triggers the spare that covers it. -/
def goDown (s : State) (l : Nat) : State :=
  let s1 := countLane (setF s (LAN_STAT_DOWN l) 1) l cntDown 1
  let s2 := (downWith s l).foldl (fun s m =>
    setLaneState (setLane (dropLink s m) m { getLane s m with began := now s, svc := [], ctl := none, goodCw := 0, uncAt := [], badHdr := [] }) m 1) s1
  let s3 := report s2 { at_ := now s, source := qSrc (l / 16) (168 + l % 16), level := 2, cls := 0x08, quad := l / 16, addr := l % 16 }
  match spareOf s (l / 16) with
  | some sp => if isF s (LAN_SPARE_AUTO sp) then trigger s3 sp l else s3
  | none => s3

/-- Is the lane UP or in STANDBY? -/
def laneStands (s : State) (l : Nat) : Bool := getF s (LAN_STAT_STATE l) == 2 || getF s (LAN_STAT_STATE l) == 3

/-- LANE_DOWN (R421): an UP or STANDBY lane with a cause goes down. -/
def execLaneDown (lane : Fin 64) (cause : Fin 4) (s : State) : Res :=
  .next (if laneStands s lane.val && downCause s lane.val cause then goDown s lane.val else s)

/-- An UP or STANDBY radio lane that has a cause of R421 in what it has received goes down. -/
def downIfDue (s : State) (l : Nat) : State :=
  if laneStands s l && laneRadio s l && (downCause s l 0 || downCause s l 2 || downCause s l 3) then goDown s l else s

/-- The write of SWITCH on a lane (R423). -/
def requestSwitch (s : State) (l : Nat) : State :=
  if isSpare s l then trigger s l (l / 16 * 16 + getF s (LAN_SPARE_REQ_LANE l)) else s

/-- SWITCH (R423): a write of LAN_SPARE.SWITCH on the spare while REQ_LANE names a covered lane. -/
def execSwitch (lane : Fin 64) (s : State) : Res := .next (if quadDark s (lane.val / 16) then s else requestSwitch s lane.val)

/-- The switch-over of quadrant q at its slot boundary t (R423): the spare takes over the covered lane's ports and rate; the covered lane returns to electrical idle, FAILED. -/
def switchOver (s : State) (q : Nat) (t : Int) : State :=
  match getTrig s q, spareOf s q with
  | some (l, at_, _), some sp =>
    if t < at_ + 10000000 then s
    else
      let s0 := setTrig s q none
      if getF s (LAN_STAT_STATE sp) ≠ 3 then s0
      else
        let s1 := setLane s0 sp { getLane s0 sp with took := some (lanePorts s l, laneRate s l), framesFrom := t, cal := true }
        let s2 := setF (setF (setF s1 (LAN_STAT_SERVING sp) 1) (LAN_STAT_SERVES sp) (l % 16)) (LKS_LANE_STAT_CAL_DONE q (sp % 16)) 0
        let s3 := dropLink (setLane s2 l { getLane s2 l with gave := true, svc := [], ctl := none }) l
        setLaneState (setLaneState s3 sp 2) l 4
  | some _, none => setTrig s q none
  | none, _ => s

/-- LANE_CALIBRATION_END (R66): the calibration under way, which is step 5 of R420 after steps 2 to 4, ends, and CAL_DONE of the lane becomes 1. -/
def execLaneCalibrationEnd (lane : Fin 64) (s : State) : Res :=
  let l := lane.val
  .next (if (getLane s l).cal && laneLocked s l && (!laneRadio s l || isF s (LAN_STAT_PEER_OK l)) then setF (setLane s l { getLane s l with cal := false }) (LKS_LANE_STAT_CAL_DONE (l / 16) (l % 16)) 1 else s)

/-! ## Markers (R400 to R402, R68, R69) -/

/-- The instant that the stamp fields from bit lo give. -/
def stampAt (v lo : Nat) : Int := (bitsOf v lo 32 : Int) * psSec + (bitsOf v (lo + 32) 30 : Int) * 1000 + (bitsOf v (lo + 62) 10 : Int)

/-- MARKER_SEND (R400, R401): the stream of a radio lane that sends no frames is brought up to dt, and every marker that falls due on the way is sent; those of a lane that sends frames go
out in the service positions between them. -/
def execMarkerSend (lane : Fin 64) (dt : Nat) (s : State) : Res :=
  let s1 := atDt s dt
  .next (if sendsFrames s1 lane.val then s1 else runLane s1 lane.val (now s1))

/-- A round-trip value (R68, R69): with 256 values RTT_VALID is set and RTT_F is their mean; a change of more than 10,000 ps from the value in use sets JUMP. Log: 79 DEDUCED. -/
def takeRtt (s : State) (l : Nat) (rtt : Int) : State :=
  let h := getLane s l
  let q := l / 16
  let vs := (rtt :: h.rtts).take 256
  let s1 := setLane s l { h with rtts := vs }
  if vs.length < 256 then s1
  else
    let f := roundDiv (vs.foldl (· + ·) 0) 256
    let s2 := setSF (setF s1 (LKS_LANE_STAT_RTT_VALID q (l % 16)) 1) (LKS_LANE_RTT_RTT_F q (l % 16)) f
    match h.rttUsed with
    | some u => if 10000 < (f - u).natAbs then refresh (setF s2 (LKS_LANE_STAT_JUMP q (l % 16)) 1) (qSrc q 186) else s2
    | none => setLane s2 l { getLane s2 l with rttUsed := some f }

/-- The 224 bits of a marker from the contents of its four blocks (R401). -/
def markBits (mks : List MarkBlock) : Nat := (mks.zip (List.range 4)).foldl (fun a x => a + x.1.payload.toNat / 2 ^ 8 * 2 ^ (56 * x.2)) 0

/-- Is a radio marker valid (R402): MK0 to MK3 in order within 2,048 blocks of MK0, none errored, DIR 1, and its CRC16? Log: 79 DEDUCED. -/
def markValid (mks : List MarkBlock) : Bool :=
  (mks.map fun x => x.payload.toNat % 2 ^ 8) == [0x78, 0x79, 0x7A, 0x7B] && mks.all (fun x => !x.errored && decide (x.after ≤ 2048)) &&
    bitOf (markBits mks) 6 == 1 && bitsOf (markBits mks) 184 16 == markerCrc (markBits mks % 2 ^ 184)

/-- A valid radio marker comes (R402, R420, R68): a LANE other than the receiving lane's sets PEER_ERR, with which a lane goes down; otherwise the peer is good; an ECHO_SEQ of one of the
last 16 markers gives a round-trip value. -/
def takeMarker (s : State) (l bits : Nat) : State :=
  let s1 := setLane s l { getLane s l with lastMark := now s }
  let s2 := if bitsOf bits 0 6 = l % 16 then setF s1 (LAN_STAT_PEER_OK l) 1 else refreshLane (setF s1 (LAN_STAT_PEER_ERR l) 1) l
  downIfDue (match (getLane s l).markers.find? fun m => m.1 == bitsOf bits 96 16 with
    | some m => takeRtt s2 l ((now s - m.2) % (2 ^ 32 * psSec) - (stampAt bits 24 - stampAt bits 112))
    | none => s2) l

/-- MARKER_RECEIVE (R402): a marker comes on a radio lane that has its locks, its MK0 at dt; an invalid one is counted. Log: 30 DESIGN CHOICE, 79 DEDUCED. -/
def execMarkerReceive (lane : Fin 64) (dt : Nat) (mks : List MarkBlock) (s : State) : Res :=
  let l := lane.val
  if laneLive s l = false ∨ laneRadio s l = false ∨ laneLocked s l = false then .next s
  else .next (if markValid mks then takeMarker (atDt s dt) l (markBits mks) else countLane (atDt s dt) l cntMarker 1)

/-- LANE_DELAY_UPDATE (R68, R69): at a quadrant slot boundary the delays of an AUTO radio lane with RTT_VALID move by at most 50 ps towards the measured ones. -/
def updateDelays (s : State) (l : Nat) : State :=
  let q := l / 16
  let i := l % 16
  if isF s (LKS_LANE_CTL_AUTO q i) && isF s (LKS_LANE_STAT_RTT_VALID q i) && laneOrl s l then
    let f : Int := getF s (LKS_LANE_RTT_RTT_F q i)
    let a := getSF s (LKS_LANE_ASYM_ASYM q i)
    let move := fun (have_ want : Int) => have_ + clampInt (-50) 50 (want - have_)
    let s0 := noteDelay (noteDelay s (LKS_LANE_TXD q i)) (LKS_LANE_RXD q i)
    let s1 := setSF s0 (LKS_LANE_TXD_DL_TX q i) (move (getSF s (LKS_LANE_TXD_DL_TX q i)) (truncDiv (f + a) 2))
    let s2 := setSF s1 (LKS_LANE_RXD_DL_RX q i) (move (getSF s (LKS_LANE_RXD_DL_RX q i)) (truncDiv (f - a) 2))
    setLane s2 l { getLane s2 l with rttUsed := some f }
  else s

/-! ## Control messages and the management queue (R404, R405) -/

/-- The CTL blocks of a message's bytes. -/
def ctlBlocks (first : Bool) : Nat → List Byte → List Nat
  | 0, _ => []
  | k + 1, bs =>
    let part := bs.take 6
    let rest := bs.drop 6
    let b0 := ofBool first + 2 * ofBool (rest == []) + 4 * part.length
    ctrlBlock 0x4B (b0 + 2 ^ 8 * leNat part) :: (if rest = [] then [] else ctlBlocks false k rest)

/-- Queue a control message on a radio lane. -/
def sendCtl (s : State) (l : Nat) (bs : List Byte) : State := (ctlBlocks true bs.length bs).foldl (fun s b => queueService s l svcCtl b) s

/-- Take a message into the management queue; at 16 it is dropped and counted. -/
def mqPush (s : State) (l : Nat) (m : List Byte) : State :=
  let h := getLane s l
  if 16 ≤ h.mqRx.length then countLane s l cntDrop 1 else setLane s l { h with mqRx := h.mqRx ++ [m] }

/-- Is a control-block type one of R392? -/
def knownType (t : Nat) : Bool := [0x1E, 0x33, 0x4B, 0x55, 0x5A, 0x78, 0x79, 0x7A, 0x7B].contains t

/-- Add a fragment to the control message being assembled: content byte 0 gives FIRST, LAST and the byte count (R404). A message that passes 1,024 bytes is counted once, and the rest of
its sequence is dropped with it. Log: 79 DEDUCED. -/
def takeFragment (s : State) (l c : Nat) : State :=
  let h := getLane s l
  let n := if bitsOf c 2 3 = 0 ∨ bitsOf c 2 3 = 7 then 6 else bitsOf c 2 3
  let bytes := leBytes n (c / 2 ^ 8)
  let first := bitOf c 0 == 1
  let s0 := if first && (match h.ctl with | some m => decide (m.length ≤ 1024) | none => false) then countLane s l cntFraming 1 else s
  match (if first then some [] else h.ctl) with
  | none => countLane s l cntFraming 1
  | some pre =>
    let m := pre ++ bytes
    let s1 := setLane s0 l { h with ctl := if bitOf c 1 = 1 then none else some (m.take 1025) }
    if 1024 < pre.length then s1
    else if 1024 < m.length then countLane s1 l cntFraming 1
    else if bitOf c 1 = 0 then s1
    else if 0x80 ≤ leNat (m.take 1) then mqPush s1 l m
    else countLane s1 l cntFraming 1

/-- CTL (R392, R404): a received control block of a radio lane: a CTL block is a fragment, a block of no known type is discarded and counted. -/
def execCtl (lane : Fin 64) (payload : DWord) (s : State) : Res :=
  let l := lane.val
  let t := payload.toNat % 2 ^ 8
  if laneLive s l = false ∨ laneRadio s l = false then .next s
  else if t = 0x4B then .next (takeFragment s l (payload.toNat / 2 ^ 8))
  else if knownType t then .next s
  else .next (countLane s l cntFraming 1)

/-- Amplitude a(i) of profile k. -/
def rampAmp (s : State) (k i : Nat) : Nat :=
  if 2 ≤ getF s (TDD_RAMP_CFG_SHAPE k) then bitsOf (getR s (TDD_RAMP_TAB k (i / 2))).toNat (16 * (i % 2)) 16 else rampFill (getF s (TDD_RAMP_CFG_SHAPE k)) i

/-- The PROFILE message of profile k (R405). -/
def profileMessage (s : State) (k : Nat) : List Byte :=
  leBytes 1 1 ++ leBytes 1 k ++ leBytes 2 (clampNat 500 10000 (getF s (TDD_RAMP_CFG_DUR k))) ++ (List.range 64).flatMap fun i => leBytes 2 (rampAmp s k i)

/-- A change of profile k makes it due on every UP radio lane (R405). -/
def profileChanged (s : State) (k : Nat) : State :=
  (List.range 64).foldl (fun s l => if laneIsUp s l && laneRadio s l then setLane s l { getLane s l with profDue := (getLane s l).profDue ||| 2 ^ k } else s) s

/-- PROFILE (R405): a profile that is due on an UP radio lane is sent. -/
def execProfile (lane : Fin 64) (k : Fin 8) (s : State) : Res :=
  let l := lane.val
  let h := getLane s l
  if laneIsUp s l && laneRadio s l && bitOf h.profDue k.val == 1 then
    .next (sendCtl (setLane s l { h with profDue := andNot h.profDue (2 ^ k.val) }) l (profileMessage s k.val))
  else .next s

/-- One 802.1Q tag after the addresses of a frame (R409). -/
def addTag (s : State) (l : Nat) (bs : List Byte) : List Byte :=
  if isF s (LAN_ETH_VLAN_EN l) then bs.take 12 ++ [0x81, 0x00] ++ (leBytes 2 (getF s (LAN_ETH_VID l))).reverse ++ bs.drop 12 else bs

/-- A frame passes Ethernet lane l, received (kind 1) or sent (2), as a unit of computation of the quadrant's check-value units (R287). Log: 64 DEDUCED. -/
def cvuFrame (s : State) (l kind : Nat) (bs : List Byte) : State := cvuPassQuad s (l / 16) kind (l % 16) bs (Config.cvuNoPort (32 + l)) (Config.cvuNoSeq (32 + l))

/-- Send an eCPRI message on an Ethernet lane at an instant (R409, R410, R412): its frame, with the lane's address and tag. Log: 81 DESIGN CHOICE. -/
def sendEcpri (s : State) (l : Nat) (msg : List Byte) (at_ : Int) : State :=
  let own := getF s (LAN_MAC_LO_MAC_LO l) + 2 ^ 32 * getF s (LAN_MAC_HI_MAC_HI l)
  let bs := addTag s l ((leBytes 6 (Config.ecpriPeer l)).reverse ++ (leBytes 6 own).reverse ++ [0xAE, 0xFE] ++ msg)
  emit (cvuFrame s l 2 bs) (.ecpri l bs at_)

/-- Send a frame on an Ethernet lane. -/
def sendFrame (s : State) (l : Nat) (bs : List Byte) : State := emit (cvuFrame s l 2 bs) (.eth l bs)

/-- Send LEN bytes of the transmit buffer and empty it: a host control message on a radio lane, a frame on an Ethernet lane. Log: 79 DEDUCED. -/
def mqSend (s : State) (l : Nat) : State :=
  let h := getLane s l
  let m := h.mqTx.take (getF s (LAN_MQ_TXCTL_LEN l))
  let s1 := setLane s l { h with mqTx := [] }
  if laneIsUp s l = false ∨ m = [] ∨ (lanePhx s l).isSome = true then s1
  else if laneOrl s l then (if m.length ≤ 1024 ∧ 0x80 ≤ leNat (m.take 1) then sendCtl s1 l m else s1)
  else sendFrame s1 l (addTag s l m)

/-- MQ_SEND (R404): the write of LAN_MQ_TXCTL.SEND. -/
def execMqSend (lane : Fin 64) (s : State) : Res := .next (if quadDark s (lane.val / 16) then s else mqSend s lane.val)

/-- Remove the head message. -/
def mqPop (s : State) (l : Nat) : State := setLane s l { getLane s l with mqRx := (getLane s l).mqRx.tail, mqPos := 0 }

/-- MQ_RX_POP: the write of 1 to LAN_MQ_RXPOP; ignored when empty. -/
def execMqRxPop (lane : Fin 64) (s : State) : Res := .next (if quadDark s (lane.val / 16) then s else mqPop s lane.val)

/-- Append 4 bytes to the transmit buffer of 9,600 bytes. -/
def mqData (s : State) (l v : Nat) : State :=
  let h := getLane s l
  if 9600 < h.mqTx.length + 4 then s else setLane s l { h with mqTx := h.mqTx ++ leBytes 4 v }

/-- MQ_TX_DATA: the write of LAN_MQ_TX; ignored beyond the buffer. -/
def execMqTxData (lane : Fin 64) (v : Word) (s : State) : Res := .next (if quadDark s (lane.val / 16) then s else mqData s lane.val v.toNat)

/-- Clear every counter of a lane. -/
def clearLaneCounters (s : State) (l : Nat) : State := (List.range 11).foldl (fun s i => setF s (LAN_CNT_COUNT l i) 0) s

/-- LAN_CNT_CLR: the write of 1 to LAN_CNT_CLR. -/
def execLanCntClr (lane : Fin 64) (s : State) : Res := .next (if quadDark s (lane.val / 16) then s else clearLaneCounters s lane.val)

end Sys2Proof.Machine
end

