-- ==== Sys2Proof/Machine/Ethernet.lean ====
section
/-!
DEFINITION. The Ethernet role of a lane (spec/11_lanes.md R408 to R414; spec/08_port_processing.md R323 to R325; spec/02_larkspur_time.md R82, R83): handling of received frames, O-RAN
U-plane and C-plane, one-way delay, and forwarding. Where the manual names eCPRI, the O-RAN formats, IPv4, IPv6 and PTP without restating them, their layouts are PRESUMED from those standards.
-/

namespace Sys2Proof.Machine

/-- n bytes from offset o, as a big-endian value. -/
def beAt (bs : List Byte) (o n : Nat) : Nat := beNat ((bs.drop o).take n)

/-- The lane whose registers serve lane l: the lowest of its group in MODE 4 (R408). -/
def ethLane (s : State) (l : Nat) : Nat := if getF s (LAN_CTL_MODE l) = 4 then l / 4 * 4 else l

/-- Is the lane UP in an Ethernet role, unattached? -/
def ethUp (s : State) (l : Nat) : Bool := laneEth s l && laneIsUp s l && (lanePhx s l).isNone

/-! ## Frequency-domain entries (R410, R411) -/

/-- A frequency-domain entry with its plan and quadrant. -/
abbrev FdEnt := Plan × LaneEnt

/-- The frequency-domain entries of the plans that hold resources, in quadrant q. -/
def fdEnts (s : State) (q : Nat) : List FdEnt :=
  s.plans.flatMap fun p => (p.parts.filter fun x => x.quad == q).flatMap fun x => (x.lanes.filter (·.fd)).map fun e => (p, e)

/-- Is the plan of an entry in force for slot n? -/
def entInForce (s : State) (x : FdEnt) (n : Int) : Bool := inForce x.1 (slotBoundary x.1.mu (ciOfs s x.1.ci) n)

/-- The slot that frameId, subframeId and slotId name, nearest to the slot of now. -/
def slotNamed (s : State) (p : Plan) (frame sub slot : Nat) : Int :=
  let m : Int := 256 * slotsPerFrame p.mu
  let w : Int := ((frame * 10 + sub) * slotsPerFrame p.mu / 10 + slot : Nat)
  let c := slotAt p.mu (ciOfs s p.ci) (now s)
  c + (w - c + m / 2) % m - m / 2

/-- The offset of the record of symbol l of slot n from an address and stride (R411). -/
def recordAt (e : LaneEnt) (a stride : Nat) (n : Int) (l : Nat) : Nat := a + ((n % (e.nslot + 1 : Nat)).toNat * 14 + l) * stride

/-! ## U-plane receive (R323, R410) -/

/-- The bytes of one PRB on the wire. -/
def prbBytes (e : LaneEnt) : Nat := if e.comp then 1 + 3 * e.iqw else 48

/-- The 12 resource elements of a PRB from its bytes: m × 2^e saturated to CX20, or 16-bit values. -/
def prbValues (e : LaneEnt) (bs : List Byte) : List Cplx :=
  let w := if e.comp then e.iqw else 16
  let x := if e.comp then bitsOf (beNat (bs.take 1)) 0 4 else 0
  let v := beNat (if e.comp then bs.drop 1 else bs)
  let m := fun (k : Nat) => signedOf w (v / 2 ^ (w * (23 - k))) * 2 ^ x
  (List.range 12).map fun k => satCx20 (m (2 * k), m (2 * k + 1))

/-- The key of the PRBs that have come for symbol l of slot n of an entry: those of PRACH messages are held apart from the port's data. -/
def prbKey (q : Nat) (e : LaneEnt) (n : Int) (l : Nat) : Nat := groupKey (48 * q + e.port + (if e.prach then 192 * (1 + e.eaxc) else 0)) (14 * n.toNat + l)

/-- Take one PRB of symbol l of slot n: written into the record and noted, or discarded and counted at or beyond NPRB. One that is late leaves zeros, unless it had come in time (R323). -/
def takePrb (s : State) (lane q : Nat) (late : Bool) (e : LaneEnt) (n : Int) (l prb : Nat) (bs : List Byte) : State :=
  let k := prbKey q e n l
  if late then
    (if e.nprb ≤ prb ∨ bitOf (smGet (fun _ => 0) s.rxPrbs k) prb = 1 then s
     else wrMem s (csmFlat (8 * q + e.rxCl) + recordAt e e.rxAddr e.rxGa n l + 60 * prb) (List.replicate 60 0))
  else if e.nprb ≤ prb then countLane s lane cntFraming 1
  else
    let s1 := wrMem s (csmFlat (8 * q + e.rxCl) + recordAt e e.rxAddr e.rxGa n l + 60 * prb) ((prbValues e bs).flatMap cx20Bytes)
    { s1 with rxPrbs := smPut (fun _ => 0) k (smGet (fun _ => 0) s1.rxPrbs k ||| 2 ^ prb) s1.rxPrbs }

/-- Take m PRBs of a section from PRB i on, every step-th. -/
def takePrbs (lane q : Nat) (late : Bool) (e : LaneEnt) (n : Int) (l step : Nat) : Nat → Nat → List Byte → State → State
  | 0, _, _, s => s
  | m + 1, i, bs, s =>
    if bs.length < prbBytes e then (if late then s else countLane s lane cntFraming 1)
    else takePrbs lane q late e n l step m (i + step) (bs.drop (prbBytes e)) (takePrb s lane q late e n l i (bs.take (prbBytes e)))

/-- Take the sections of a message; every section must carry the entry's SECID. Log: 80 PRESUMED. -/
def takeSections (lane q : Nat) (late : Bool) (e : LaneEnt) (n : Int) (l : Nat) : Nat → List Byte → State → State
  | 0, _, s => s
  | k + 1, bs, s =>
    if bs = [] then s
    else
      let h := beAt bs 0 4
      let num := if bitsOf h 0 8 = 0 then e.nprb else bitsOf h 0 8
      let rest := bs.drop 4
      let s1 := if bitsOf h 20 12 = e.secid then takePrbs lane q late e n l (1 + bitOf h 19) num (bitsOf h 8 10) rest s
        else if late then s else countLane s lane cntFraming 1
      takeSections lane q late e n l k (rest.drop (num * prbBytes e)) s1

/-- Does a filterIndex suit an entry (R410)? Log: 82 DESIGN CHOICE. -/
def filterOk (e : LaneEnt) (f : Nat) : Bool := if e.prach then f != 0 else f == 0

/-- The entries of a lane that a U-plane message names by its ecpriPcid. -/
def uEnts (s : State) (l : Nat) (bs : List Byte) : List FdEnt :=
  (fdEnts s (l / 16)).filter fun x => x.2.eaxc == beAt bs 4 2 && fdLane s (l / 16) x.2.port == some l

/-- Note the sequence number of a received message; a gap is counted. -/
def noteSeq (s : State) (l eaxc seq : Nat) : State :=
  let h := getLane s l
  let s1 := setLane s l { h with rxSeq := smPut (fun _ => none) eaxc (some ((seq + 1) % 256)) h.rxSeq }
  match smGet (fun _ => none) h.rxSeq eaxc with
  | some x => if x = seq then s1 else countLane s1 l cntSeq 1
  | none => s1

/-- A U-plane message on an Ethernet lane: decompressed into its symbol's record; a late one is discarded and counted, and leaves zeros (R323). Log: 80 PRESUMED. -/
def uPlane (s : State) (l : Nat) (bs : List Byte) : State :=
  let h := beAt bs 8 4
  let sym := bitsOf h 0 6
  let ents := (uEnts s l bs).map fun x => (x, slotNamed s x.1 (bitsOf h 16 8) (bitsOf h 12 4) (bitsOf h 6 6))
  match ents.find? fun x => entInForce s x.1 x.2 && filterOk x.1.2 (bitsOf h 24 4) with
  | some ((p, e), n) =>
    let s1 := noteSeq s l e.eaxc (beAt bs 6 1)
    let bound := symEnd p.mu (ciOfs s p.ci) n sym + (p.drxMax : Int) * 1000 + lRx
    if lastSym p.mu < sym then countLane s1 l cntFraming 1
    else if bound < now s then takeSections l (l / 16) true e n sym bs.length (bs.drop 12) (countLane s1 l cntLate 1)
    else takeSections l (l / 16) false e n sym bs.length (bs.drop 12) s1
  | none => countLane s l cntDrop 1

/-- A received eCPRI message's frame, as it passes the check-value units (R287). Log: 64 DEDUCED. -/
def cvuEcpri (s : State) (l : Nat) (msg : List Byte) : State :=
  cvuFrame s l 1 (beBytes 6 (getF s (LAN_MAC_LO_MAC_LO l) + 2 ^ 32 * getF s (LAN_MAC_HI_MAC_HI l)) ++ beBytes 6 (Config.ecpriPeer l) ++ [0xAE, 0xFE] ++ msg)

/-- U_PLANE_RECEIVE (R323, R410): an eCPRI message of type 0, from its common header on. -/
def execUPlaneReceive (lane : Fin 64) (dt : Nat) (bytes : List Byte) (s : State) : Res :=
  let l := ethLane s lane.val
  .next (if ethUp s l then uPlane (cvuEcpri (atDt s dt) l bytes) l bytes else s)

/-! ## U-plane send (R323, R324, R410) -/

/-- The least exponent, from e on, at which every component fits w bits (R410). -/
def fitExp (w : Nat) (xs : List Int) : Nat → Nat → Nat
  | e, 0 => e
  | e, k + 1 => if xs.all fun x => satInt w (rnd x e) == rnd x e then e else fitExp w xs (e + 1) k

/-- Big-endian bits of w-bit values. -/
def packBe (w : Nat) (xs : List Int) : Nat := xs.foldl (fun a x => a * 2 ^ w + unsignedOf w x) 0

/-- The components of samples. -/
def components (xs : List Cplx) : List Int := xs.flatMap fun x => [x.1, x.2]

/-- The bytes of a PRB: block floating point, or 16-bit values. -/
def prbOut (e : LaneEnt) (xs : List Cplx) : List Byte :=
  if e.comp then
    (let x := fitExp e.iqw (components xs) 0 15
     beBytes 1 x ++ beBytes (3 * e.iqw) (packBe e.iqw ((components xs).map fun v => satInt e.iqw (rnd v x))))
  else beBytes 48 (packBe 16 ((components xs).map (satInt 16)))

/-- Take the next ecpriSeqid of an eAxC and message type. -/
def nextSeq (s : State) (l key : Nat) : Nat × State :=
  let h := getLane s l
  let n := smGet (fun _ => 0) h.txSeq key
  (n, setLane s l { h with txSeq := smPut (fun _ => 0) key ((n + 1) % 256) h.txSeq })

/-- An eCPRI message of revision 1: type, eAxC, sequence number with its E bit, and body. Log: 80 PRESUMED. -/
def ecpriMessage (type eaxc seq : Nat) (body : List Byte) : List Byte :=
  beBytes 1 0x10 ++ beBytes 1 type ++ beBytes 2 (body.length + 4) ++ beBytes 2 eaxc ++ beBytes 1 seq ++ beBytes 1 0x80 ++ body

/-- The O-RAN time fields of symbol l of slot n: frameId, subframeId, slotId and symbolId, 24 bits. Log: 80 PRESUMED. -/
def timeFields (mu : Nat) (n : Int) (l : Nat) : Nat :=
  let per : Int := slotsPerFrame mu
  let sub := max 1 (slotsPerFrame mu / 10)
  let frame := ((n / per) % 256).toNat
  let i := (n % per).toNat
  frame * 2 ^ 16 + i / sub * 2 ^ 12 + i % sub * 2 ^ 6 + l

/-- Send a symbol's PRBs from PRB i on, as messages of whole PRBs of at most MTU bytes. Log: 81 DESIGN CHOICE. -/
def sendPrbs (l : Nat) (e : LaneEnt) (head : Nat) (mtu : Nat) (at_ : Int) : Nat → Nat → List (List Byte) → State → State
  | 0, _, _, s => s
  | k + 1, i, ps, s =>
    let m := min 255 (max 1 ((mtu - 16) / prbBytes e))
    let part := ps.take m
    if part = [] then s
    else
      let (q, s1) := nextSeq s l e.eaxc
      let sec := e.secid * 2 ^ 20 + i * 2 ^ 8 + part.length % 256
      sendPrbs l e head mtu at_ k (i + m) (ps.drop m)
        (sendEcpri s1 l (ecpriMessage 0 e.eaxc q (beBytes 4 head ++ beBytes 4 sec ++ part.flatten)) at_)

/-- The send instant of symbol l of slot n of a frequency-domain port (R410): sym_start − D_TX. -/
def sendInstant (s : State) (q lane : Nat) (x : FdEnt) (n : Int) (l : Nat) : Int := symStart x.1.mu (ciOfs s x.1.ci) n l - dTx s q lane x.2.port

/-- Read and send the record of symbol l of slot n of an entry, and write it back as zeros; a bad granule makes it zeros and is counted, and R328 blanks it where part of it lies outside
the transmit intervals. Log: 76 DEDUCED. -/
def sendSymbol (q lane : Nat) (n : Int) (l : Nat) (s : State) (x : FdEnt) : State :=
  let e := x.2
  let t := sendInstant s q lane x n l
  if inCycle s (t - 500000) = false ∨ entInForce s x n = false then s
  else
    let base := csmFlat (8 * q + e.txCl)
    let off := recordAt e e.txAddr e.txGa n l
    let (bs, o) := engRead (engOpen s) base off (60 * e.nprb)
    let xs := (chunks 5 (12 * e.nprb) bs).map cx20Of
    let st := symStart x.1.mu (ciOfs s x.1.ci) n l
    let g := portGroupWhen s (48 * q + e.port) st
    let silent := !coversTx (tddWhen s g st) st (symEnd x.1.mu (ciOfs s x.1.ci) n l)
    let s1 := wrMem o.st (base + off) (List.replicate (60 * e.nprb) 0)
    let s2 := if o.bad then countLane s1 lane cntPoison 1 else s1
    let s3 := if silent && !o.bad && xs.any (fun v => v != (0, 0)) then addF s2 (TDD_CNT_BLANKED g) 1 else s2
    let ys := if o.bad || silent then List.replicate (12 * e.nprb) ((0, 0) : Cplx) else xs
    let filt := if e.prach then clampNat 1 15 (Config.prachFilter e.eaxc) else 0
    let head := 2 ^ 31 + 2 ^ 28 + filt * 2 ^ 24 + timeFields x.1.mu n l
    sendPrbs lane e head (clampNat 1500 9600 (getF s (LAN_ETH_MTU lane))) t e.nprb 0 ((chunks 12 e.nprb ys).map (prbOut e)) s3

/-- U_PLANE_SEND (R323, R410): the symbol's records, read 500 ns before the send instant, go out back to back from it. -/
def execUPlaneSend (port : Fin 192) (slot : Nat) (sym : Fin 14) (s : State) : Res :=
  let q := port.val / 48
  match fdLane s q (port.val % 48) with
  | some l =>
    if ethUp s l then .next (((fdEnts s q).filter fun x => x.2.port == port.val % 48).foldl (sendSymbol q l slot sym.val) s) else .next s
  | none => .next s

/-! ## C-plane (R412) -/

/-- The offsets of the entries of a C-plane list that begins at off, up to its end: header LEN 0. -/
def cpEntries (s : State) (base off stop : Nat) : Nat → List Nat
  | 0 => []
  | k + 1 =>
    if stop < off + 16 then []
    else
      let n := min 16368 (bitsOf (rdLe s (base + off) 4) 16 14)
      if n = 0 then [] else off :: cpEntries s base (off + 16 + padTo 16 n) stop k

/-- Section extension 1 for weights (R412): bfwIqWidth, bfwCompMeth 1, one exponent and the compressed weights, in whole words of 4 bytes. Log: 80 PRESUMED. -/
def bfwExtension (w : Nat) (xs : List Cplx) : List Byte :=
  let x := fitExp w (components xs) 0 15
  let n := 2 * w * xs.length
  let data := beBytes (ceilDiv n 8) (packBe w ((components xs).map fun v => satInt w (rnd v x)) * 2 ^ (8 * ceilDiv n 8 - n))
  let body := beBytes 1 ((w % 16) * 16 + 1) ++ beBytes 1 x ++ data
  let words := ceilDiv (body.length + 2) 4
  beBytes 1 1 ++ beBytes 1 words ++ body ++ List.replicate (4 * words - body.length - 2) 0

/-- The messages sent at an instant on a lane, with those from `k` on that are U-plane messages of that instant behind what was sent since: C-plane goes first (R412). -/
def cPlaneFirst (lane : Nat) (at_ : Int) (before after : List Output) : List Output :=
  let later := fun (o : Output) => match o with
    | .ecpri l _ t => l == lane && t == at_
    | _ => false
  before.filter (fun o => !later o) ++ after ++ before.filter later

/-- Send the C-plane entry at an offset. Log: 80 PRESUMED, 81 DESIGN CHOICE. -/
def sendCp (q lane : Nat) (e : LaneEnt) (at_ : Int) (s : State) (off : Nat) : State :=
  let base := csmFlat (8 * q + e.cpCl)
  let (hb, o) := engRead (engOpen s) base off 16
  let h := leNat hb
  let (body, o1) := engRead o base (off + 16) (min 16368 (bitsOf h 16 14))
  let wa := bitsOf h 32 23
  let (ws, o2) := if wa = 0 then (([] : List Byte), o1) else engRead o1 base wa (5 * bitsOf h 64 16)
  if o2.bad then countLane o2.st lane cntPoison 1
  else
    let ext := if wa = 0 then [] else bfwExtension (clampNat 8 16 (bitsOf h 80 5)) ((chunks 5 (bitsOf h 64 16) ws).map cx20Of)
    let (n, s1) := nextSeq o2.st lane (2 ^ 16 + e.eaxc)
    sendEcpri s1 lane (ecpriMessage 2 e.eaxc n (body ++ ext)) at_

/-- The C-plane entries of symbol l of slot n of an entry of the plan, 500 ns before the symbol's send instant; at the send instant of the slot's last symbol the list's first LEN
becomes 0. Log: 81 DESIGN CHOICE. -/
def sendCpSymbol (q lane : Nat) (n : Int) (l : Nat) (s : State) (x : FdEnt) : State :=
  let e := x.2
  let t := sendInstant s q lane x n l
  let base := csmFlat (8 * q + e.cpCl)
  let off := e.cpAddr + (n % (e.nslot + 1 : Nat)).toNat * 16384
  if entInForce s x n = false then s
  else if inCycle s (t - 500000) then
    let es := (cpEntries s base off (off + 16384) 1024).filter fun o => bitsOf (rdLe s (base + o) 4) 0 4 == l
    let s1 := es.foldl (sendCp q lane e t) s
    { s1 with out := cPlaneFirst lane t s.out (s1.out.drop s.out.length) }
  else if l = lastSym x.1.mu ∧ inCycle s t = true then wrMem s (base + off) (leBytes 4 (putBits (rdLe s (base + off) 4) 16 14 0))
  else s

/-- C_PLANE_SEND (R412): the entries of a symbol go out at its send instant, read 500 ns before, and at the last symbol's send instant the list is ended. -/
def execCPlaneSend (port : Fin 192) (slot : Nat) (sym : Fin 14) (s : State) : Res :=
  let q := port.val / 48
  match fdLane s q (port.val % 48) with
  | some l =>
    if ethUp s l then .next (((fdEnts s q).filter fun x => x.2.port == port.val % 48).foldl (sendCpSymbol q l slot sym.val) s) else .next s
  | none => .next s

/-! ## One-way delay (R413) -/

/-- Answer a one-way delay request: action 0x02, the receive stamp corrected by DL_RX, compensation 0. -/
def oneWayDelay (s : State) (l : Nat) (bs : List Byte) : State :=
  if 1 < beAt bs 5 1 then countLane s l cntDrop 1
  else
    let t := now s - getSF s (LKS_LANE_RXD_DL_RX (l / 16) (l % 16))
    sendEcpri s l (bs.take 5 ++ beBytes 1 2 ++ beBytes 6 (secOf t) ++ beBytes 4 (nsOf t) ++ beBytes 8 0 ++ bs.drop 24) (now s)

/-- ONE_WAY_DELAY_REQUEST (R413): an eCPRI message of type 5, from its common header on. -/
def execOneWayDelayRequest (lane : Fin 64) (dt : Nat) (bytes : List Byte) (s : State) : Res :=
  let l := ethLane s lane.val
  .next (if ethUp s l then oneWayDelay (cvuEcpri (atDt s dt) l bytes) l bytes else s)

/-! ## Received frames (R409) -/

/-- Where a frame's Ethertype stands: after one 802.1Q tag, where the lane accepts one and it is there (R409). -/
def typeOffset (tag : Bool) (bs : List Byte) : Nat := if tag && beAt bs 12 2 == 0x8100 then 16 else 12

/-- The lane's own MAC address. -/
def ownMac (s : State) (l : Nat) : Nat := getF s (LAN_MAC_LO_MAC_LO l) + 2 ^ 32 * getF s (LAN_MAC_HI_MAC_HI l)

/-- The offset of the PTP header of a frame, where it carries PTP: Ethertype 0x88F7, or UDP to port 319 or 320 over IPv4 or IPv6. Log: 23 PRESUMED. -/
def ptpOffset (tag : Bool) (bs : List Byte) : Option Nat :=
  let o := typeOffset tag bs
  let t := beAt bs o 2
  let ihl := 4 * bitsOf (beAt bs (o + 2) 1) 0 4
  let port := fun (u : Nat) => beAt bs (u + 2) 2 == 319 || beAt bs (u + 2) 2 == 320
  if t = 0x88F7 then some (o + 2)
  else if t = 0x0800 ∧ beAt bs (o + 11) 1 = 17 ∧ port (o + 2 + ihl) = true then some (o + 2 + ihl + 8)
  else if t = 0x86DD ∧ beAt bs (o + 8) 1 = 17 ∧ port (o + 42) = true then some (o + 50)
  else none

/-- Is the PTP header at offset o well formed: version 2, and a message length that holds the header and lies in the frame (R90)? Log: 23 PRESUMED. -/
def ptpFormed (bs : List Byte) (o : Nat) : Bool :=
  bitsOf (beAt bs (o + 1) 1) 0 4 == 2 && decide (34 ≤ beAt bs (o + 2) 2) && decide (o + beAt bs (o + 2) 2 ≤ bs.length)

/-- Is a PTP frame the device's (R409): Ethertype 0x88F7, or UDP to the device, which is known by the lane's address? Log: 23 PRESUMED. -/
def ptpOurs (s : State) (l : Nat) (bs : List Byte) : Bool := (ptpOffset false bs).isSome && (beAt bs 12 2 == 0x88F7 || beAt bs 0 6 == ownMac s l)

/-- The enabled forwarding entry of a lane for a destination (R414). -/
def fwdEntry (s : State) (l : Nat) (mac : Nat) : Option Nat :=
  (List.range 8).find? fun n => isF s (LAN_FWD_HI_EN l n) && getF s (LAN_FWD_LO_MAC_LO l n) + 2 ^ 32 * getF s (LAN_FWD_HI_MAC_HI l n) == mac

/-- Put a frame into the egress buffer of 64 KiB, or drop it (R414). Its ingress stamp is the instant at the ball (R65), not corrected by the lane's receive delay. Log: 83 DEDUCED, 134 DESIGN CHOICE. -/
def forward (s : State) (l n : Nat) (bs : List Byte) : State :=
  let e := ethLane s (l / 16 * 16 + getF s (LAN_FWD_HI_EGRESS l n))
  let h := getLane s e
  if ethUp s e = false ∨ 65536 < h.egress.foldl (fun a x => a + x.1.length) bs.length then countLane s l cntDrop 1
  else setLane s e { h with egress := h.egress ++ [(bs, now s)] }

/-- A frame to be forwarded: a PTP frame is dropped and counted until ARM is 1 (R88), and where R90 drops it. Log: 23 PRESUMED, 83 DEDUCED. -/
def forwardChecked (s : State) (l n : Nat) (stampOk : Bool) (raw : List Byte) : State :=
  match ptpOffset (isF s (LAN_ETH_VLAN_EN l)) raw with
  | some o =>
    if ¬ isF s LKS_CTL_ARM then addF s LKS_PTP_DROP_UNARMED 1
    else if ptpInvalid s (ptpFormed raw o) stampOk (beAt raw (o + 4) 1) then addF s LKS_PTP_DROP_INVALID 1
    else forward s l n raw
  | none => forward s l n raw

/-- Handle a good frame by the first row of R409 that matches. Log: 23 PRESUMED, 83 DEDUCED. -/
def handleFrame (s : State) (l : Nat) (stampOk : Bool) (raw : List Byte) : State :=
  let mac := beAt raw 0 6
  match fwdEntry s l mac with
  | some n => forwardChecked s l n stampOk raw
  | none =>
    let bs := if isF s (LAN_ETH_VLAN_EN l) && beAt raw 12 2 == 0x8100 then raw.take 12 ++ raw.drop 16 else raw
    let t := beAt bs 12 2
    let msg := bs.drop 14
    if ptpOurs s l bs then s
    else if t = 0xAEFE ∧ beAt msg 1 1 = 0 ∧ uEnts s l msg ≠ [] then uPlane s l msg
    else if t = 0xAEFE ∧ beAt msg 1 1 = 5 then oneWayDelay s l msg
    else if t = 0x8809 ∧ beAt msg 0 1 = 0x0A then mqPush s l bs
    else if (mac = ownMac s l ∨ mac = 0xFFFFFFFFFFFF ∨ mac = 0x011B19000000 ∨ mac = 0x0180C200000E) ∧
        isF s (LAN_ETH_MQ_OTHER l) = true then mqPush s l bs
    else countLane s l cntDrop 1

/-- ETHERNET_FRAME_RECEIVE (R408, R409): a frame, from its destination address to before its FCS. Log: 83 DEDUCED. -/
def execEthernetFrameReceive (lane : Fin 64) (dt : Nat) (bytes : List Byte) (fcsOk stampOk : Bool) (s : State) : Res :=
  let l := ethLane s lane.val
  if ethUp s l = false then .next s
  else if fcsOk = false then .next (countLane s l cntCrc 1)
  else if clampNat 1500 9600 (getF s (LAN_ETH_MTU l)) < bytes.length then .next (countLane s l cntDrop 1)
  else .next (handleFrame (cvuFrame (atDt s dt) l 1 bytes) l stampOk bytes)

/-! ## Forwarding (R82, R83, R414) -/

/-- A ones' complement sum of 16-bit words, folded. -/
def foldSum (n : Nat) : Nat := let a := n % 2 ^ 16 + n / 2 ^ 16; a % 2 ^ 16 + a / 2 ^ 16

/-- The sum of the four 16-bit words of a 64-bit field. -/
def wordSum (v : Nat) : Nat := bitsOf v 0 16 + bitsOf v 16 16 + bitsOf v 32 16 + bitsOf v 48 16

/-- Replace n bytes of a frame from offset o. -/
def patch (bs : List Byte) (o : Nat) (v : List Byte) : List Byte := bs.take o ++ v ++ bs.drop (o + v.length)

/-- Add a residence time, in 2^-16 ns, to the correctionField of a PTP event message, and bring a UDP checksum into line (R82). Log: 23 PRESUMED. -/
def addResidence (tag : Bool) (bs : List Byte) (o : Nat) (units : Int) : List Byte :=
  let old := beAt bs (o + 8) 8
  let new := unsignedOf 64 (signedOf 64 old + units)
  let b1 := patch bs (o + 8) (beBytes 8 new)
  let udp := beAt bs (typeOffset tag bs) 2 != 0x88F7
  let c := beAt bs (o - 2) 2
  if udp && c != 0 then
    (let x := foldSum ((65535 - c) + (4 * 65535 - wordSum old) + wordSum new)
     let y := 65535 - x
     patch b1 (o - 2) (beBytes 2 (if y = 0 then 65535 else y)))
  else b1

/-- A stamp in units of 2^-16 ns: its whole nanoseconds and its own rounded FRAC (spec/02_larkspur_time.md, "Stamps"). -/
def stampUnits (t : Int) : Int := t / 1000 * 65536 + fracOf t

/-- FORWARDED_FRAME_EGRESS (R82, R83, R414): the oldest forwarded frame of a lane leaves; a PTP event message takes its residence time, and is dropped above 1 ms. -/
def execForwardedFrameEgress (lane : Fin 64) (dt : Nat) (s : State) : Res :=
  let l := ethLane s lane.val
  let s1 := atDt s dt
  match (getLane s l).egress with
  | [] => .next s
  | (bs, t) :: rest =>
    let s2 := setLane s1 l { getLane s l with egress := rest }
    if ethUp s l = false then .next (countLane s2 l cntDrop 1)
    else
      match ptpOffset (isF s (LAN_ETH_VLAN_EN l)) bs with
      | some o =>
        if 3 < bitsOf (beAt bs o 1) 0 4 then .next (sendFrame s2 l bs)
        else if psSec / 1000 < now s1 - t then .next (addF s2 LKS_PTP_DROP_RESIDENCE 1)
        else .next (sendFrame s2 l (addResidence (isF s (LAN_ETH_VLAN_EN l)) bs o (stampUnits (now s1) - stampUnits t)))
      | none => .next (sendFrame s2 l bs)

end Sys2Proof.Machine
end

