-- ==== Sys2Proof/Machine/Nvs.lean ====
section
/-!
DEFINITION. The non-volatile store (spec/16_security.md R542 to R544): its targets and their protection, the page buffer, the stream slots and the counts of its reads.
-/

namespace Sys2Proof.Machine

/-- Set bit i of PRM_BOOT.LATE, for step i + 1 of R495, where the step ends beyond its bound, given in microseconds from the release of POR_N. Log: 15 DESIGN CHOICE. -/
def bootStep (s : State) (i boundUs : Nat) : State := if boundUs * 25 < s.upCycles then setBitF s PRM_BOOT_LATE i else s

/-- Offset in the store of stream slot n, and its bytes (R543). -/
def slotBase (s : State) (n : Nat) : Nat := 0x1000000 + 65536 * getF s (NVS_SLOT_CFG_BASE n)
/-- Bytes of stream slot n. -/
def slotSize (s : State) (n : Nat) : Nat := 65536 * getF s (NVS_SLOT_CFG_SIZE n)

/-- A load of partition p is LOADING or READY (R459). -/
def phxLoading (s : State) (p : Nat) : Bool := getF s (PHX_LOAD_STAT_STATE p) == 1 || getF s (PHX_LOAD_STAT_STATE p) == 2

/-- A Phlox partition beside its registers. -/
def getPhx (s : State) (p : Nat) : PhxHw := smGet (fun _ => ({} : PhxHw)) s.phx p
/-- Store it. -/
def setPhx (s : State) (p : Nat) (x : PhxHw) : State := { s with phx := smPut (fun _ => ({} : PhxHw)) p x s.phx }

/-- Is stream slot n PROTECTED (R543)? -/
def slotProtected (s : State) (n : Nat) : Bool :=
  anyBelow (fun p => (getF s (PHX_STAT_STATE p) == 1 && getF s (PHX_STAT_SLOT p) == n) || (phxLoading s p && (getPhx s p).slot == n)) 18

/-- Is a firmware image (false A) protected: running, or being handed over (R543)? No image runs in the recovery state. -/
def imageProtected (s : State) (b : Bool) : Bool :=
  (!isF s FXG_STAT_RECOVERY && isF s PRM_FW_STAT_RUNNING == b) || s.fw.target == some b

/-- The place in the store of a TARGET and its bytes (R542). -/
def targetRange (s : State) (t : Nat) : Nat × Nat :=
  if t < 64 then (slotBase s t, slotSize s t)
  else if t = 64 then (0x500000, 0x400000)
  else if t = 65 then (0x900000, 0x400000)
  else (0x400000, 0x100000)

/-- May TARGET t be programmed (R543, R544)? -/
def targetWritable (s : State) (t : Nat) : Bool :=
  if t < 64 then !slotProtected s t else if t = 64 then !imageProtected s false else if t = 65 then !imageProtected s true else false

/-- TARGET and LEN of the next operation, as taken. -/
def nvsTarget (s : State) : Nat := min 66 (getF s NVS_OP_TARGET)
/-- LEN as taken: 0 is 1, beyond 65,536 is 65,536. -/
def nvsLen (s : State) : Nat := clampNat 1 65536 (getF s NVS_LEN_LEN)
/-- OFS in bytes. -/
def nvsOfs (s : State) : Nat := 32 * getF s NVS_OFS_OFS

/-- Does the operation stay within its target? -/
def nvsInRange (s : State) : Bool := decide (nvsOfs s + nvsLen s ≤ (targetRange s (nvsTarget s)).2)

/-- A byte of the page buffer. -/
def bufByte (s : State) (i : Nat) : Byte := smGet (fun _ => 0) s.pageBuf i

/-- Refuse an operation (R544). -/
def nvsRefuse (s : State) : State := refresh (setF s NVS_STAT_REFUSED 1) 824

/-- Count what a read of the store met (R542): corrections, and an uncorrectable codeword. -/
def noteNvs (s : State) (r : NvsRead) : State :=
  let s1 := addF s NVS_ECC_CORR r.corr
  match r.bad with
  | some _ => refresh (setF (addF s1 NVS_ECC_UNCORR 1) NVS_STAT_UNCORR 1) 824
  | none => s1

/-- PROGRAM of the operation registers (R544). Log: 126 DEDUCED. -/
def nvsProgram (s : State) : State :=
  if nvsInRange s = false ∨ targetWritable s (nvsTarget s) = false then nvsRefuse s
  else wrBytes s (nvsFlat + (targetRange s (nvsTarget s)).1 + nvsOfs s) ((List.range (nvsLen s)).map (bufByte s))

/-- PROGRAM (R544): a write of NVS_OP.GO with OP 1. -/
def execProgram (s : State) : Res := .next (nvsProgram (setF s NVS_OP_OP 1))

/-- A byte of a target as READ finds it: the RMA capture's layout is not given. Log: 61 DESIGN CHOICE. -/
def targetByte (s : State) (o : Nat) : Byte :=
  if nvsTarget s = 66 ∧ s.rma.isSome = true then Config.rmaByte (getF s PRM_RMA_SEC_SEC * 2 ^ 32 + getF s PRM_RMA_NS_NS) o
  else rdByte s (nvsFlat + (targetRange s (nvsTarget s)).1 + o)

/-- READ of the operation registers (R544): the page buffer takes the bytes; those of an uncorrectable codeword are not used. Log: 126 DEDUCED. -/
def nvsRead (s : State) (r : NvsRead) : State :=
  if nvsInRange s = false then nvsRefuse s
  else
    let bad := fun (o : Nat) => match r.bad with | some b => o / 32 == b / 32 | none => false
    let o := nvsOfs s
    let buf := (List.range (nvsLen s)).foldl (fun m i => if bad (o + i) then m else smPut (fun _ => 0) i (targetByte s (o + i)) m) s.pageBuf
    noteNvs { s with pageBuf := buf } r

/-- READ (R544): a write of NVS_OP.GO with OP 2; r says what the read of the store met. -/
def execRead (r : NvsRead) (s : State) : Res := .next (nvsRead (setF s NVS_OP_OP 2) r)

/-- Would a slot of these units overlap another slot whose SIZE is not 0? -/
def slotOverlaps (s : State) (n base size : Nat) : Bool :=
  anyBelow (fun m => m != n && getF s (NVS_SLOT_CFG_SIZE m) != 0 && size != 0 &&
    decide (base < getF s (NVS_SLOT_CFG_BASE m) + getF s (NVS_SLOT_CFG_SIZE m) ∧ getF s (NVS_SLOT_CFG_BASE m) < base + size)) 64

/-- A write of NVS_SLOT_CFG (R543). Log: 126 DEDUCED. -/
def writeSlotCfg (s : State) (n v : Nat) : State :=
  let base := bitsOf v 0 12
  let size := bitsOf v 16 12
  if slotProtected s n = true ∨ 3840 < base + size ∨ 3839 < base ∨ slotOverlaps s n base size = true then setF s (NVS_SLOT_STAT_CFG_ERR n) 1
  else setF (setF s (NVS_SLOT_CFG_BASE n) base) (NVS_SLOT_CFG_SIZE n) size

/-- NVS_SLOT_CFG_WRITE (R543). -/
def execNvsSlotCfgWrite (slot : Fin 64) (v : Word) (s : State) : Res := .next (writeSlotCfg s slot.val v.toNat)

end Sys2Proof.Machine
end

