-- ==== Sys2Proof/Machine/Phlox.lean ====
section
/-!
DEFINITION. The Phlox partitions and their scrubbers (spec/13_phlox.md R445 to R468): attachments, streams and loads, restarts, and scrubbing.
-/

namespace Sys2Proof.Machine

/-! ## Partitions -/

/-- The first frame of partition p's window, and its frames (R445). -/
def phxWindow (p : Nat) : Nat × Nat := if p < 16 then (8192 * p, 8192) else (131072 + 2048 * (p - 16), 2048)

/-- Is the partition's part of the chip running: its quadrant, or the hub? -/
def phxAlive (s : State) (p : Nat) : Bool := decide (16 ≤ p) || !quadDark s (p / 4)

/-- Does the partition run a design whose I/O is enabled (R458)? -/
def phxIo (s : State) (p : Nat) : Bool := phxAlive s p && getF s (PHX_STAT_STATE p) == 1 && isF s (PHX_CTL_IO_EN p)

/-- The interrupt source of a partition (R437, R438). -/
def phxSrc (p : Nat) : Nat := if p < 16 then qSrc (p / 4) 189 else 816 + p

/-- Bring the source of partition p to its condition. -/
def refreshPhx (s : State) (p : Nat) : State := refresh s (phxSrc p)

/-- The lanes attached to partition p (R448). -/
def phxLanes (s : State) (p : Nat) : List Nat := (setBits 16 0 (getF s (PHX_LANES_ATT p))).map fun i => p / 4 * 16 + i

/-- Set PHX_CTL.IO_EN of a partition: while it is 0 its lanes are in electrical idle, and with 1 they begin bring-up where their EN is 1 (R419, R420, R458). -/
def setPhxIo (s : State) (p : Nat) (b : Bool) : State :=
  if isF s (PHX_CTL_IO_EN p) = b then s
  else if 16 ≤ p then setF s (PHX_CTL_IO_EN p) (ofBool b)
  else (phxLanes s p).foldl (fun s l =>
    if isF s (LAN_CTL_EN l) then setLaneState (setLane (dropLink s l) l { getLane s l with began := now s }) l 1 else s) (setF s (PHX_CTL_IO_EN p) (ofBool b))

/-- PARTITION_INTERRUPT (R447): the design drives its interrupt line. -/
def execPartitionInterrupt (p : Fin 18) (s : State) : Res :=
  .next (if phxAlive s p.val = true ∧ getF s (PHX_STAT_STATE p.val) = 1 then refreshPhx (setF s (PHX_IRQ_USER p.val) 1) p.val else s)

/-! ## Attachments -/

/-- May lane l be attached to partition p (R448)? -/
def attachable (s : State) (p l : Nat) : Bool :=
  (match lanePhx s l with | some x => x == p | none => true) &&
    decide (getF s (LAN_CTL_MODE l) ≤ 3) && !isF s (LAN_CTL_SPARE l) && (match spareOf s (l / 16) with | some sp => !coversLane s sp l | none => true) &&
    !anyBelow (fun i => (slotPort (getR s (LAN_PORTS l)).toNat i).isSome) 4 && getF s (LAN_FDPORTS_PORTS l) == 0

/-- A write of PHX_LANES (R448): ignored while IO_EN is 1; the lanes that may be attached are, at most the eight lowest. -/
def writePhxLanes (s : State) (p v : Nat) : State :=
  if isF s (PHX_CTL_IO_EN p) then refreshPhx (setF s (PHX_IRQ_ATT_ERR p) 1) p
  else
    let asked := setBits 16 0 (v % 2 ^ 16)
    let kept := (asked.take 8).filter fun i => attachable s p (p / 4 * 16 + i)
    let s1 := setF s (PHX_LANES_ATT p) (kept.foldl (fun a i => a + 2 ^ i) 0)
    if kept.length = asked.length then s1 else refreshPhx (setF s1 (PHX_IRQ_ATT_ERR p) 1) p

/-- PHX_LANES_WRITE (R448). -/
def execPhxLanesWrite (p : Fin 16) (att : BitVec 16) (s : State) : Res := .next (if phxAlive s p.val then writePhxLanes s p.val att.toNat else s)

/-- A write of PHX_BW.SHARES (R450): taken while IO_EN is 0 and no plan or other partition holds the shares. -/
def writePhxBw (s : State) (p v : Nat) : State :=
  let n := min 8 v
  let q := p / 4
  if isF s (PHX_CTL_IO_EN p) = false ∧ n + heldByAll s (dramOf q) + phloxShares s q ≤ 272 + getF s (PHX_BW_SHARES p) then setF s (PHX_BW_SHARES p) n
  else refreshPhx (setF s (PHX_IRQ_BW_REFUSED p) 1) p

/-- PHX_BW_WRITE (R450). -/
def execPhxBwWrite (p : Fin 16) (shares : BitVec 4) (s : State) : Res := .next (if phxAlive s p.val then writePhxBw s p.val shares.toNat else s)

/-- Does [a, a + n) lie in partition p's DPA window and below the reserved area, with shares held (R450)? -/
def phxWindowOk (s : State) (p a n : Nat) : Bool :=
  decide (0 < getF s (PHX_BW_SHARES p)) && decide (getF s (PHX_DWIN_BASE_BASE p) ≤ a / 4096) && decide ((a + n - 1) / 4096 ≤ getF s (PHX_DWIN_LIMIT_LIMIT p)) &&
    decide (a + n ≤ 0x5FC000000)

/-- Count an access of a partition that is refused. -/
def phxErr (s : State) (p : Nat) : State := addF s (PHX_CNT_ERR_ERRORS p) 1

/-- PARTITION_DRAM_ACCESS (R450, R274, R275): the design reads or writes its quadrant's DRAM. An access outside its window, to the reserved area or without shares is answered with an
error. One that must wait for the host to give up a line sends the snoop and is made when the host has answered. Log: 98 DESIGN CHOICE. -/
def execPartitionDramAccess (p : Fin 16) (dpa : Nat) (write : Option (List Byte)) (len : Nat) (s : State) : Res :=
  let n := match write with | some bs => bs.length | none => len
  if phxIo s p.val = false ∨ n = 0 then .next s
  else if phxWindowOk s p.val dpa n = false then .next (emit (phxErr s p.val) (.toDesign p.val [] true))
  else .next (makeAcc s ⟨.partition p.val, dramFlat (p.val / 4) + dpa, n, write.bind cleanWrite⟩)

/-- PARTITION_MAILBOX_WRITE (R451): a write at an offset of the quadrant. TIL_MBOX of a tile takes it; any other register ignores it, and it is counted. -/
def execPartitionMailboxWrite (p : Fin 16) (ofs : BitVec 24) (v : Word) (s : State) : Res :=
  if phxIo s p.val = false then .next s
  else match regAt (quadBase (p.val / 4) + ofs.toNat) with
    | some h => .next (if h.spec.name = .TIL_MBOX then postMbox s h.unit v.toNat else phxErr s p.val)
    | none => .next (phxErr s p.val)

/-- PARTITION_FENCE (R451, R266): the fence completes once every earlier DRAM write of the partition is performed. Log: 11 DESIGN CHOICE, 53 DEDUCED. -/
def execPartitionFence (p : Fin 16) (s : State) : Res := .next (if phxIo s p.val then makeAcc s ⟨.fence p.val, dramFlat (p.val / 4), 0, none⟩ else s)

/-- Does partition p's design exchange blocks with lane l now (R449)? -/
def phxLaneUp (s : State) (p l : Nat) : Bool := phxIo s p && lanePhx s l == some p && laneIsUp s l

/-- PARTITION_BLOCK_TRANSMIT (R449): the design sends a block in place of the lane's own; one marked STAMP returns the stamp of its first bit at the ball. Log: 98 DESIGN CHOICE. -/
def execPartitionBlockTransmit (p : Fin 16) (lane : Fin 64) (hdr : BitVec 2) (payload : DWord) (stamp : Bool) (dt : Nat) (s : State) : Res :=
  if phxLaneUp s p.val lane.val = false then .next s
  else
    let s1 := emit (atDt s dt) (.phxBlock lane.val hdr.toNat payload.toNat)
    .next (if stamp then emit s1 (.phxStamp p.val lane.val (now s1)) else s1)

/-- PARTITION_BLOCK_RECEIVE (R449): a received block goes to the partition with its sync header, a control block (0b10) with the stamp of its first bit at the ball. -/
def execPartitionBlockReceive (lane : Fin 64) (hdr : BitVec 2) (payload : DWord) (dt : Nat) (s : State) : Res :=
  match lanePhx s lane.val with
  | some p =>
    if phxLaneUp s p lane.val = false then .next s
    else
      let s1 := atDt s dt
      .next (emit s1 (.toPhx p lane.val hdr.toNat payload.toNat (if hdr = 2 then some (now s1) else none)))
  | none => .next s

/-! ## Streams (R453 to R455) -/

/-- A stream's header. -/
structure StreamHdr where
  ok : Bool
  target : Nat
  rst : Bool
  enc : Bool
  nrec : Nat
  keySrc : Nat
  keySlot : Nat
  iv : List Byte
  id : Nat
  sigOfs : Nat
  sigLen : Nat
deriving DecidableEq, Repr

/-- The header of 256 bytes: ok says that MAGIC, FORMAT and the reserved fields are right. -/
def streamHdr (h : List Byte) : StreamHdr :=
  let w := imgW h
  { ok := w 0 == 0x15048 && bitsOf (w 4) 5 3 == 0 && bitsOf (w 4) 11 21 == 0 && bitsOf (w 8) 18 14 == 0 && bitsOf (w 0xC) 5 27 == 0 &&
      ((h.drop 0x28).take 0xD8).all (· == 0),
    target := bitsOf (w 4) 0 5, rst := bitOf (w 4) 9 == 1, enc := bitOf (w 4) 10 == 1, nrec := bitsOf (w 8) 0 18,
    keySrc := bitOf (w 0xC) 0, keySlot := bitsOf (w 0xC) 1 4, iv := (h.drop 0x10).take 12, id := w 0x1C, sigOfs := w 0x20, sigLen := w 0x24 }

/-- The end of the GCM tag. -/
def tagEnd (h : StreamHdr) : Nat := 256 + 532 * h.nrec + 16

/-- The length that the header of a stream of partition p implies (R453, R525). -/
def streamLen (p : Nat) (h : StreamHdr) : Nat := if p < 16 then tagEnd h else tagEnd h + h.sigLen

/-- A record in the clear: FAR, data and care map. -/
def streamRec (plain : List Byte) (i : Nat) : Nat × Nat × Nat :=
  let x := (plain.drop (532 * i)).take 532
  (leNat (x.take 4), leNat ((x.drop 4).take 512), leNat ((x.drop 516).take 16))

/-- The key that KEYSRC and KEYSLOT select; none where they name no key (R521). -/
def streamKey (s : State) (src slot : Nat) : Option (List Byte) :=
  let k := if src = 1 then smGet (fun _ => []) s.fox.bbKeys slot else if slot < 8 ∧ bitOf s.fox.killed slot = 0 then smGet (fun _ => []) s.fox.fuseKeys slot else []
  if k = [] then none else some k

/-- The reason that a record gives for an abort (R460): boot says that the load is at power-up or boot. -/
def recordBad (p : Nat) (boot : Bool) (far : Nat) : Option Nat :=
  if bitOf far 31 = 1 then (if bitsOf far 13 18 ≠ 0 then some 1 else if boot = false ∨ 16 ≤ p then some 6 else none)
  else if bitsOf far 18 13 ≠ 0 then some 1
  else if far < (phxWindow p).1 ∨ (phxWindow p).1 + (phxWindow p).2 ≤ far then some 5
  else none

/-- The first record from number i that aborts a load, by an uncorrectable read of the store at byte bad of the stream or by its FAR: its reason and index. -/
def firstBadRecord (p : Nat) (boot : Bool) (bad : Option Nat) (i : Nat) : List (Nat × Nat × Nat) → Option (Nat × Nat)
  | [] => none
  | (far, _, _) :: t =>
    if (match bad with | some b => decide (256 + 532 * i ≤ b ∧ b < 256 + 532 * (i + 1)) | none => false) then some (7, i)
    else match recordBad p boot far with
      | some r => some (r, i)
      | none => firstBadRecord p boot bad (i + 1) t

/-- The signature block of a PX stream passes, with an owner entry whose SVN is at least the PX counter (R455, R525, R529). -/
def pxSigned (s : State) (bytes : List Byte) (h : StreamHdr) : Bool :=
  let blk := (bytes.drop h.sigOfs).take h.sigLen
  blockPasses s (bytes.take h.sigOfs) blk isOwnerKey [isOwnerKey] &&
    (match sigEntries blk with | some es => es.all fun x => decide (getF s FXG_SVN_PX ≤ entrySvn x) | none => false)

/-- What a load of partition p finds in stream slot n: a reason with its record and whether a signature block failed, or the header and the records in the clear (R459, R460). r is
what reading the store met, verify the record whose frame fails its read-back after one rewrite. Log: 95 PRESUMED. -/
def readStream (s : State) (p n : Nat) (boot : Bool) (r : NvsRead) (verify : Option Nat) : Except (Nat × Nat × Bool) (StreamHdr × List (Nat × Nat × Nat)) :=
  if slotSize s n = 0 then .error (if boot then 11 else 7, 0, false)
  else
    let a := nvsFlat + slotBase s n
    let h := streamHdr (rdBytes s a 256)
    if (match r.bad with | some b => decide (b < 256) | none => false) then .error (7, 0, false)
    else if h.ok = false ∨ slotSize s n < streamLen p h ∨ (16 ≤ p ∧ h.sigOfs ≠ tagEnd h) then .error (1, 0, false)
    else if h.target ≠ p then .error (2, 0, false)
    else if (p < 16 ∧ h.enc = false) ∨ h.keySrc ≠ getF s (PHX_KEY_KEYSRC p) ∨ h.keySlot ≠ getF s (PHX_KEY_KEYSLOT p) then .error (3, 0, false)
    else
      let bytes := rdBytes s a (streamLen p h)
      let body := (bytes.drop 256).take (532 * h.nrec)
      let key := streamKey s h.keySrc h.keySlot
      if h.enc = true ∧ key = none then .error (4, 0, false)
      else
        let k := key.getD []
        let plain := if h.enc then gcmPlain k h.iv body else body
        let recs := (List.range h.nrec).map (streamRec plain)
        match firstBadRecord p boot r.bad 0 recs with
        | some (x, i) => .error (x, i, false)
        | none =>
          if r.bad.isSome then .error (7, 0, false)
          else if h.enc = true ∧ gcmTag k h.iv (bytes.take 256) body ≠ (bytes.drop (256 + 532 * h.nrec)).take 16 then .error (4, 0, false)
          else if 16 ≤ p ∧ pxSigned s bytes h = false then .error (4, 0, true)
          else match verify with
            | some i => if i < h.nrec then .error (10, i, false) else .ok (h, recs)
            | none => .ok (h, recs)

/-- Put configuration records into the active plane (R459, R461). -/
def putFrames (s : State) (recs : List (Nat × Nat × Nat)) : State :=
  recs.foldl (fun s x => if bitOf x.1 31 = 1 then s else { s with frames := smPut (fun _ => 0) x.1 x.2.1 s.frames, care := smPut (fun _ => 0) x.1 x.2.2 s.care }) s

/-- Clear partition p's active plane and block RAM. -/
def clearPlane (s : State) (p : Nat) : State :=
  let w := phxWindow p
  let inW := fun x => decide (w.1 ≤ x ∧ x < w.1 + w.2)
  { s with frames := smDrop inW s.frames, care := smDrop inW s.care, bram := smDrop (fun x => x / 8192 == p) s.bram }

/-- Put block-RAM records into a partition's block RAM (R457). -/
def putBram (s : State) (p : Nat) (recs : List (Nat × Nat × Nat)) : State :=
  recs.foldl (fun s x => if bitOf x.1 31 = 1 then { s with bram := smPut (fun _ => 0) (8192 * p + bitsOf x.1 0 13) x.2.1 s.bram } else s) s

/-! ## Power-up and boot loads -/

/-- A power-up or boot load of partition p fails (R458). -/
def bootLoadFails (s : State) (p reason : Nat) : State :=
  let s1 := setPhxIo (clearPlane s p) p false
  let s2 := setF (setF (setF s1 (PHX_STAT_STATE p) 2) (PHX_STAT_LOAD_ERR p) 1) (PHX_STAT_REASON p) reason
  if p < 16 then setF s2 (PHX_BW_SHARES p) 0 else s2

/-- POWER_UP_LOAD (R457, R458): a partition that does not run loads the stream of slot n = p straight into its active plane, or fails. -/
def execPowerUpLoad (p : Fin 18) (r : NvsRead) (verify : Option Nat) (s : State) : Res :=
  if phxAlive s p.val = false ∨ getF s (PHX_STAT_STATE p.val) = 1 then .next s
  else
    let b := { (noteNvs s r) with boot := { s.boot with parts := s.boot.parts ||| 2 ^ p.val } }
    let s0 := if s.boot.parts ≠ b.boot.parts ∧ b.boot.parts = 2 ^ 18 - 1 then bootStep b 4 150000 else b
    match readStream s p.val p.val true r verify with
    | .error (x, _, sig) => .next (bootLoadFails (if sig then verifyFailed s0 4 else s0) p.val x)
    | .ok (h, recs) =>
      let s4 := setPhx s0 p.val { getPhx s0 p.val with swapped := [] }
      let s1 := putBram (putFrames (clearPlane s4 p.val) recs) p.val recs
      let s2 := setF (setF (setF s1 (PHX_STAT_STATE p.val) 1) (PHX_STAT_LOAD_ERR p.val) 0) (PHX_STAT_SLOT p.val) p.val
      .next (setF s2 (PHX_ID_STREAM_ID p.val) h.id)

/-- CFG_ERR_N is driven low while a partition of a quadrant that is not OFF, or of the hub, has LOAD_ERR (R458). Log: 96 DEDUCED, 129 PRESUMED. -/
def cfgErrLow (s : State) : Bool := anyBelow (fun p => isF s (PHX_STAT_LOAD_ERR p) && (decide (16 ≤ p) || getF s (PRM_Q_STAT_STATE (p / 4)) != 2)) 18

/-! ## Run-time loads (R459 to R461) -/

/-- The bound of a load after its GO, in ps: 1,500 µs + 1 ns × L + 200 ns × NREC (R459). -/
def loadBound (len nrec : Nat) : Nat := 1500000000 + 1000 * len + 200000 * nrec

/-- The first quadrant slot boundary at or after t (R62). -/
def nextQuadBoundary (s : State) (q : Nat) (t : Int) : Int :=
  let mu := getF s (LKS_QSLOT_MU q)
  let ofs := getSF s (LKS_QSLOT_OFS_OFFSET q)
  slotBoundary mu ofs (firstSlotAt mu ofs t)

/-- A write of GO to PHX_LOAD (R459): ignored while a load is in progress. -/
def loadGo (s : State) (p : Nat) : State :=
  if phxLoading s p then s
  else
    let n := getF s (PHX_LOAD_SLOT p)
    let h := streamHdr (rdBytes s (nvsFlat + slotBase s n) 256)
    let b := now s + loadBound (streamLen p h) h.nrec
    let t := if p < 16 then some (quadSlotBoundary s (p / 4) (getF s (PHX_LOAD_SW_SLOT_NUM p)) (now s)) else none
    let s1 := setF (setF (setF s (PHX_LOAD_STAT_STATE p) 1) (PHX_LOAD_STAT_REASON p) 0) (PHX_LOAD_STAT_RECORD p) 0
    setPhx s1 p { getPhx s1 p with slot := n, bound := b, tsw := t, swapAt := none, shadow := [] }

/-- PARTITION_LOAD_GO (R459). -/
def execPartitionLoadGo (p : Fin 18) (s : State) : Res := .next (if phxAlive s p.val then loadGo s p.val else s)

/-- A load of partition p aborts (R460): the shadow is discarded. -/
def abortLoad (s : State) (p reason record : Nat) : State :=
  let s1 := setF (setF (setF s (PHX_LOAD_STAT_STATE p) 3) (PHX_LOAD_STAT_REASON p) reason) (PHX_LOAD_STAT_RECORD p) record
  refreshPhx (setF (setPhx s1 p { getPhx s1 p with shadow := [], swapAt := none }) (PHX_IRQ_ABORT p) 1) p

/-- The instant of the swap of a load that is READY (R461): the later of T_SW and the first boundary at or after GO + B; a tick for PX0 and PX1. -/
def swapInstant (s : State) (p : Nat) (x : PhxHw) : Int :=
  match x.tsw with
  | some t => max t (nextQuadBoundary s (p / 4) x.bound)
  | none => nextMultiple x.bound 250000

/-- LOAD_READY (R459 to R461): the loader has read, checked and read back the stream: the load is READY, or aborts at the first condition of R460. Log: 96 DEDUCED, 130 DESIGN CHOICE. -/
def execLoadReady (p : Fin 18) (r : NvsRead) (verify : Option Nat) (s : State) : Res :=
  if getF s (PHX_LOAD_STAT_STATE p.val) ≠ 1 then .next s
  else
    let x := getPhx s p.val
    let s0 := noteNvs s r
    match readStream s p.val x.slot false r verify with
    | .error (e, i, sig) => .next (abortLoad (if sig then verifyFailed s0 4 else s0) p.val e i)
    | .ok (h, recs) =>
      .next (setF (setPhx s0 p.val { x with shadow := recs, id := h.id, rst := h.rst, swapAt := some (swapInstant s p.val x) }) (PHX_LOAD_STAT_STATE p.val) 2)

/-- A write of ABORT to PHX_LOAD (R460): a load in progress or READY is discarded with CANCEL. -/
def loadCancel (s : State) (p : Nat) : State := if phxLoading s p then abortLoad s p 9 0 else s

/-- PARTITION_LOAD_ABORT (R460). -/
def execPartitionLoadAbort (p : Fin 18) (s : State) : Res := .next (loadCancel s p.val)

/-- A write of RESTART to PHX_CMD (R462): the restart waits for the next boundary. -/
def phxRestart (s : State) (p : Nat) : State := setPhx s p { getPhx s p with restart := true }

/-- RESTART (R462). -/
def execRestart (p : Fin 18) (s : State) : Res := .next (if phxAlive s p.val then phxRestart s p.val else s)

/-- 16 cycles of a fabric clock of some MHz, in ps. -/
def resetPs (mhz : Nat) : Int := ((ceilDiv 16000000 mhz : Nat) : Int)

/-- The swap of partition p (R461): the shadow becomes the active plane. Log: 96 DEDUCED. -/
def swapPlane (s : State) (p : Nat) (x : PhxHw) : State :=
  let s1 := putFrames s x.shadow
  let s2 := setF (setF (setF (setF s1 (PHX_STAT_STATE p) 1) (PHX_STAT_LOAD_ERR p) 0) (PHX_STAT_SLOT p) x.slot) (PHX_ID_STREAM_ID p) x.id
  let s3 := setF (setF s2 (PHX_LOAD_STAT_STATE p) 0) (PHX_IRQ_SWAPPED p) 1
  let taken := (x.swapped ++ x.shadow.map (·.1)).eraseDups
  refreshPhx (setPhx s3 p { x with shadow := [], swapAt := none, restart := x.restart || x.rst, swapped := taken }) p

/-- PARTITION_SWAP and restarts at a boundary t (R446, R461, R462; at a tick for PX0 and PX1): the fabric clock changes, a load that is READY and due swaps, and a restart, together
with it if both fall here, holds the design's reset for 16 fabric clocks. Log: 96 DEDUCED. -/
def partitionBoundary (s : State) (p : Nat) (t : Int) : State :=
  let mhz := clampNat 100 500 (getF s (PHX_CLK_MHZ p))
  let s1 := if (getPhx s p).mhz = mhz then s else setPhx s p { getPhx s p with mhz := mhz }
  let s2 := match (getPhx s1 p).swapAt with
    | some x => if x ≤ t ∧ getF s1 (PHX_LOAD_STAT_STATE p) = 2 then swapPlane s1 p (getPhx s1 p) else s1
    | none => s1
  if (getPhx s2 p).restart then setPhx s2 p { getPhx s2 p with restart := false, resetUntil := t + resetPs mhz } else s2

/-! ## Scrubbing (R463 to R468) -/

/-- A scrubber beside its registers. -/
def getScr (s : State) (z : Nat) : ScrHw := smGet (fun _ => ({} : ScrHw)) s.scr z
/-- Store it. -/
def setScr (s : State) (z : Nat) (x : ScrHw) : State := { s with scr := smPut (fun _ => ({} : ScrHw)) z x s.scr }

/-- The partitions that scrubber z reads. -/
def scrParts (z : Nat) : List Nat := if z < 4 then (List.range 4).map (4 * z + ·) else [16, 17]

/-- The partition whose window holds a frame address. -/
def farPart (far : Nat) : Nat := if far < 131072 then far / 8192 else 16 + (far - 131072) / 2048

/-- The first frame at or after pos of a partition of scrubber z that runs (R463). -/
def nextFrame (s : State) (z pos : Nat) : Option Nat :=
  ((scrParts z).filter fun p => getF s (PHX_STAT_STATE p) == 1 && decide (pos < (phxWindow p).1 + (phxWindow p).2)).head?.map fun p => max pos (phxWindow p).1

/-- Does scrubber z scrub now? -/
def scrRuns (s : State) (z : Nat) : Bool := (decide (4 ≤ z) || !quadDark s z) && isF s (SCR_CTL_EN z) && !isF s (SCR_STAT_HALTED z)

/-- Bring the sources that report scrubber z to their conditions (R438, R468). -/
def refreshScr (s : State) (z : Nat) : State := if z < 4 then refresh s (qSrc z 188) else refresh (refresh s 832) 833

/-- Go on after frame far: where no frame of the pass is left, the pass ends, and with it the check of the neighbour is due; the hub scrubber's, which Primrose makes,
once per pass (R463, R464, R467, R468). -/
def scrAdvance (s : State) (z far : Nat) : State :=
  let x := getScr s z
  match nextFrame s z (far + 1) with
  | some f => setScr s z { x with pos := f }
  | none =>
    let s1 := setF s (SCR_STAT_PASSES z) ((getF s (SCR_STAT_PASSES z) + 1) % 2 ^ 16)
    setScr s1 z { x with pos := 0, repairs := 0, checkDue := decide (4 ≤ z) || isF s (SCR_CTL_NBR_EN z) }

/-- Log a frame in SCR_LAST. -/
def scrLog (s : State) (z far : Nat) (care repaired : Bool) : State :=
  setF (setF (setF (setF s (SCR_LAST_FAR z) far) (SCR_LAST_CARE z) (ofBool care)) (SCR_LAST_REPAIRED z) (ofBool repaired)) (SCR_LAST_VALID z) 1

/-- An upset of frame far (R465): counted, logged and recorded; a care upset notifies the owner and, with AUTO_RESTART, restarts the partition. -/
def upset (s : State) (z far : Nat) (care repaired : Bool) : State :=
  let p := farPart far
  let s1 := scrLog (addF s (SCR_CNT_COUNT z (if care then 1 else 0)) 1) z far care repaired
  let s2 := report s1 { at_ := now s, source := if p < 16 then qSrc z 188 else phxSrc p, level := if p < 16 then 2 else 3, cls := 0x0D, quad := if p < 16 then z else 0, addr := far }
  if care then
    let s3 := refreshPhx (setF (setF s2 (PHX_STAT_CARE p) 1) (PHX_IRQ_CARE p) 1) p
    let s4 := emit s3 (.upset p)
    if isF s4 (PHX_CTL_AUTO_RESTART p) then phxRestart s4 p else s4
  else s2

/-- The errors of codeword c of a frame. -/
def cwErrs (errs : List (Fin 16 × SymErr)) (c : Nat) : List SymErr := (errs.filter fun x => x.1.val == c).map (·.2)

/-- Does an error lie in a care word of frame far? Log: 97 DEDUCED. -/
def careHit (s : State) (far : Nat) (errs : List (Fin 16 × SymErr)) : Bool :=
  errs.any fun x => x.2.val != 0 && decide (x.2.sym.val < 32) && bitOf (smGet (fun _ => 0) s.care far) ((32 * x.1.val + x.2.sym.val) / 4) == 1

/-- The frame's bits with its data symbols in error. Log: 97 DEDUCED. -/
def asRead (v : Nat) (errs : List (Fin 16 × SymErr)) : Nat :=
  errs.foldl (fun v x => if x.2.sym.val < 32 then v ^^^ (x.2.val.toNat * 2 ^ (8 * (32 * x.1.val + x.2.sym.val))) else v) v

/-- What decoding a frame's codewords gives (R254). -/
def frameOutcomes (errs : List (Fin 16 × SymErr)) : List (Ecc × Nat) := (List.range 16).map fun c => rsDecode (errPattern (cwErrs errs c))

/-- The frame as its codewords leave the decoder: a miscorrection changes it (R254). -/
def decodedFrame (v : Nat) (os : List (Ecc × Nat)) : Nat := (os.zip (List.range 16)).foldl (fun v x => v ^^^ (rsData x.1.2 * 2 ^ (256 * x.2))) v

/-- The control state of scrubber z that is held in three copies (R466): its position, its pass count, its configuration and the repair in progress. -/
def scrCtl (s : State) (z : Nat) : List Nat :=
  [(getScr s z).pos, getF s (SCR_STAT_PASSES z), getF s (SCR_CTL_EN z) + 2 * getF s (SCR_CTL_REPAIR_EN z) + 4 * getF s (SCR_CTL_NBR_EN z),
   match (getScr s z).repair with | some (far, care) => 1 + 2 * ofBool care + 4 * far | none => 0]

/-- Store that control state. -/
def putScrCtl (s : State) (z : Nat) (c : List Nat) : State :=
  let g := fun (i : Nat) => c.getD i 0
  let s1 := setF (setF (setF (setF s (SCR_STAT_PASSES z) (g 1)) (SCR_CTL_EN z) (bitOf (g 2) 0)) (SCR_CTL_REPAIR_EN z) (bitOf (g 2) 1)) (SCR_CTL_NBR_EN z) (bitOf (g 2) 2)
  setScr s1 z { getScr s1 z with pos := g 0, repair := if bitOf (g 3) 0 = 1 then some (g 3 / 4, bitOf (g 3) 1 == 1) else none }

/-- The bits in which at least two of three words agree. -/
def majority (a b c : Nat) : Nat := (a &&& b) ||| (a &&& c) ||| (b &&& c)

/-- A copy of the control state with what hits it. -/
def hitCopy (c : List Nat) (k : Nat) (hits : List ScrHit) : List Nat :=
  hits.foldl (fun c h => if h.copy.val = k then c.set h.word.val (c.getD h.word.val 0 ^^^ h.mask) else c) c

/-- One clock of scrubber z in which hits fall on its three copies (R466): the majority is read and rewrites the copies, and each copy that dissents counts one vote. -/
def scrVote (z : Nat) (s : State) (hits : List ScrHit) : State :=
  let cs := [0, 1, 2].map fun k => hitCopy (scrCtl s z) k hits
  let m := (List.range 4).map fun i => majority ((cs.getD 0 []).getD i 0) ((cs.getD 1 []).getD i 0) ((cs.getD 2 []).getD i 0)
  addF (if m = scrCtl s z then s else putScrCtl s z m) (SCR_VOTE_VOTES z) (cs.filter (· != m)).length

/-- SCRUB_FRAME (R463 to R466): the scrubber reads its next frame, errs being the symbols in error; corrected codewords are rewritten, and an uncorrectable one calls for a repair.
hits are the upsets of its control state since the last frame, a list for each clock that has some. Log: 99 DESIGN CHOICE. -/
def execScrubFrame (z : Fin 5) (errs : List (Fin 16 × SymErr)) (hits : List (List ScrHit)) (s0 : State) : Res :=
  let s := if z.val < 4 ∧ quadDark s0 z.val = true then s0 else hits.foldl (scrVote z.val) s0
  match nextFrame s z.val (getScr s z.val).pos with
  | none => .next s
  | some far =>
    if scrRuns s z.val = false ∨ (getScr s z.val).repair.isSome = true then .next s
    else
      let os := frameOutcomes errs
      let v := smGet (fun _ => 0) s.frames far
      let care := careHit s far errs
      if os.any fun o => o.1 == .uncorrectable || o.1 == .address then
        let s2 := { s with frames := smPut (fun _ => 0) far (asRead v errs) s.frames }
        if isF s (SCR_CTL_REPAIR_EN z.val) then .next (setScr s2 z.val { getScr s2 z.val with pos := far, repair := some (far, care) })
        else .next (scrAdvance (scrLog s2 z.val far care false) z.val far)
      else
        let s2 := { s with frames := smPut (fun _ => 0) far (decodedFrame v os) s.frames }
        if os.all fun o => o.1 == .clean then .next (scrAdvance s2 z.val far)
        else .next (scrAdvance (upset s2 z.val far care false) z.val far)

/-- The slot of the stream that configured frame far of partition p (R464): that of the last swap where a swap wrote it, slot n = p otherwise. -/
def frameSlot (s : State) (p far : Nat) : Nat := if (getPhx s p).swapped.contains far then getF s (PHX_STAT_SLOT p) else p

/-- The data of the last record that names frame far in the stream that configured it. -/
def recordFor (s : State) (p far : Nat) (r : NvsRead) : Option Nat :=
  match readStream s p (frameSlot s p far) true r none with
  | .ok (_, recs) => (recs.reverse.find? fun x => x.1 == far).map fun x => x.2.1
  | .error _ => none

/-- FRAME_REPAIR (R464): the frame is written from its record in the stream that configured the partition. Where the record cannot be read or decrypted the frame is left as read, a
care upset. More than 20 repairs in a pass set LONG. Log: 97 DEDUCED. -/
def execFrameRepair (z : Fin 5) (r : NvsRead) (s : State) : Res :=
  let x := getScr s z.val
  match x.repair with
  | none => .next s
  | some (far, care) =>
    if scrRuns s z.val = false then .next s
    else
      let s0 := setScr (noteNvs s r) z.val { x with repair := none }
      match recordFor s (farPart far) far r with
      | some v =>
        let s1 := addF { s0 with frames := smPut (fun _ => 0) far v s0.frames } (SCR_CNT_COUNT z.val 2) 1
        let s2 := setScr s1 z.val { getScr s1 z.val with repairs := x.repairs + 1 }
        let s3 := if 20 < x.repairs + 1 then refreshScr (setF s2 (SCR_STAT_LONG z.val) 1) z.val else s2
        .next (scrAdvance (upset s3 z.val far care true) z.val far)
      | none => .next (scrAdvance (upset s0 z.val far true false) z.val far)

/-- The quadrant that the scrubber of quadrant q checks (R467): the first after it that is neither OFF nor under reinitialisation. -/
def nbrTarget (s : State) (q : Nat) : Option Nat := [1, 2, 3].map (fun i => (q + i) % 4) |>.find? fun t => !quadDark s t

/-- A scrubber is halted by a check that found a mismatch (R467). -/
def haltScr (s : State) (z : Nat) : State := refreshScr (setF s (SCR_STAT_HALTED z) 1) z

/-- Is a check of scrubber z's target, or Primrose's check in its place, due: at the end of a pass; where no other quadrant qualifies, once every 8 ms (R467, R468)? -/
def checkDue (s : State) (z : Nat) : Bool :=
  if z < 4 ∧ (nbrTarget s z).isNone = true then reached s ((getScr s z).primrose + 8000000000) else (getScr s z).checkDue

/-- NEIGHBOUR_CHECK (R467, R468): scrubber z checks its target: a match (0), a mismatch (1), or the target went OFF (2). Primrose checks the scrubber itself where no quadrant
qualifies, and the hub scrubber; it has no counters of its own. Log: 4 DESIGN CHOICE, 99 DESIGN CHOICE. -/
def execNeighbourCheck (z : Fin 5) (res : Fin 3) (s : State) : Res :=
  if checkDue s z.val = false ∨ (z.val < 4 ∧ quadDark s z.val = true) then .next s
  else
    let s1 := setScr s z.val { getScr s z.val with checkDue := false }
    if 4 ≤ z.val then .next (if res = 1 then haltScr s1 4 else s1)
    else match nbrTarget s z.val with
      | none =>
        let s2 := setScr s1 z.val { getScr s1 z.val with primrose := now s }
        .next (if res = 1 then haltScr s2 z.val else s2)
      | some t =>
        let s2 := setF s1 (SCR_NBR_TARGET z.val) t
        .next (match res with
          | 0 => addF s2 (SCR_NBR_OK z.val) 1
          | 1 => haltScr (refreshScr (setF s2 (SCR_NBR_FAIL z.val) 1) z.val) t
          | 2 => addF s2 (SCR_NBR_SKIPPED z.val) 1)

/-- A write of GO to SCR_CTL (R467): HALTED clears and a new pass starts. -/
def scrGo (s : State) (z : Nat) : State := setScr (refreshScr (setF s (SCR_STAT_HALTED z) 0) z) z { primrose := (getScr s z).primrose }

/-- SCR_GO (R467). -/
def execScrGo (z : Fin 5) (s : State) : Res := .next (if z.val < 4 ∧ quadDark s z.val = true then s else scrGo s z.val)

/-- SCR_CHK (R467): the CRC-32 of the SCR registers 0x000 to 0x01C. Log: 99 DESIGN CHOICE. -/
def scrChk (s : State) (z : Nat) : Nat :=
  crcOf ⟨32, 0x04C11DB7, 0xFFFFFFFF, false, false, 0xFFFFFFFF⟩ ((List.range 8).flatMap fun i => leBytes 4 (getR s (scrBase z + 4 * i)).toNat)

end Sys2Proof.Machine
end

