-- ==== Sys2Proof/Machine/Power.lean ====
section
/-!
DEFINITION. Power, clocks and resets (spec/14_power.md R469 to R496): operating points and rails, cluster and quadrant states, supply monitors, temperature, the resets and
the start-up; and the reinitialisation of a quadrant (spec/15_faults.md R506 to R508).
-/

namespace Sys2Proof.Machine

/-! ## Rails -/

/-- The quadrant of rail r (R469); none for a chip rail. -/
def railQuad (r : Nat) : Option Nat := if r < 8 then none else some ((r - 8) / 6)

/-- VDD_Qq. -/
def vddRail (q : Nat) : Nat := 8 + 6 * q

/-- Bring the sources that report rail r to their conditions (R470, R476): the quadrant's power source, or the chip rails'. -/
def refreshRail (s : State) (r : Nat) : State := match railQuad r with | some q => refresh s (qSrc q 190) | none => refresh s 873

/-- A PMBus error of rail r (R470). -/
def railError (s : State) (r : Nat) : State :=
  let s1 := setF s (PRM_RAIL_STAT_PMB_ERR r) 1
  refreshRail (match railQuad r with | some q => setF s1 (PWR_Q_IRQ_PMB_ERR q) 1 | none => s1) r

/-- PMB_ALERT (R470, R496): the regulator of a rail reports a fault. -/
def execPmbAlert (rail : Fin 32) (s : State) : Res := .next (railError s rail.val)

/-- PMBus commands by which a write would change a managed rail: OPERATION, VOUT_MODE and VOUT_COMMAND (R475; their codes are those of PMBus). -/
def railWrite (code : Nat) : Bool := decide (code = 0x01 ∨ code = 0x20 ∨ code = 0x21)

/-- Does a STATUS_WORD report a fault (R470)? Its bits are those of PMBus; OFF, BUSY and POWER_GOOD are no faults. Log: 151 PRESUMED. -/
def statusFault (w : Nat) : Bool := w &&& 0xF73E != 0

/-- PMBUS_TRANSACTION (R470, R475): a write of PRM_PMB_CMD.GO; nak and data are the regulator's answer. A NAK or a
fault that STATUS_WORD (0x79) reports is an error of the rail. A write that would change a managed rail is refused with ORDER. Log: 4 DESIGN CHOICE, 103 DEDUCED. -/
def execPmbusTransaction (nak : Bool) (data : BitVec 16) (s : State) : Res :=
  let r := getF s PRM_PMB_CMD_RAIL
  let code := getF s PRM_PMB_CMD_CODE
  let wr := isF s PRM_PMB_CMD_WRITE
  if wr = true ∧ railWrite code = true then .next (setF s PRM_PMB_STAT_REFUSED 1)
  else
    let s1 := emit s (.pmbus r code (if wr then some (getF s PRM_PMB_DATA_DATA) else none))
    if nak then .next (railError (setF s1 PRM_PMB_STAT_NAK 1) r)
    else if wr then .next s1
    else
      let s2 := setF s1 PRM_PMB_DATA_DATA data.toNat
      .next (if code = 0x79 ∧ statusFault data.toNat = true then railError s2 r else s2)

/-! ## Operating points (R473 to R477) -/

/-- A write of PWR_CL_CTL.OP_REQ (R473, R475, R483): stored and counted where it is below a plan's point; a raise waits for the rail, and one that is refused leaves OP_REQ. Log: 103 DEDUCED. -/
def writeOpReq (s : State) (k op : Nat) : State :=
  let v := min 5 op
  let mine := fun (x : OpRaise) => x.cluster == k && !x.forPlan
  let old := match s.raises.find? mine with | some x => x.oldReq | none => getF s (PWR_CL_CTL_OP_REQ k)
  let s0 := { s with raises := s.raises.filter fun x => !mine x }
  if v < (planOp s k).getD 0 then lowerOps (refuseCl (setF s0 (PWR_CL_CTL_OP_REQ k) v) k 7) (k / 8)
  else
    let r := raiseOp (setF s0 (PWR_CL_CTL_OP_REQ k) v) k v false old
    if r.2 then lowerOps (setF r.1 (PWR_CL_CTL_OP_REQ k) old) (k / 8) else lowerOps r.1 (k / 8)

/-- OP_REQ_WRITE (R473). -/
def execOpReqWrite (k : Fin 32) (op : BitVec 3) (s : State) : Res := .next (if quadDark s (k.val / 8) then s else writeOpReq s k.val op.toNat)

/-- Does the rail of a raise surely serve its point? -/
def raiseServed (s : State) (x : OpRaise) : Bool := decide (opMv s (x.cluster / 8) x.op ≤ sureMv s (vddRail (x.cluster / 8)))

/-- The raises of quadrant q that the rail now serves are complete (R475, R477); those for a plan stay until it is decided. -/
def completeRaises (s : State) (q : Nat) : State :=
  let hit := fun (x : OpRaise) => x.cluster / 8 == q && raiseServed s x
  let s1 := (s.raises.filter hit).foldl (fun s x => setF s (PWR_CL_STAT_OP x.cluster) (max x.op (getF s (PWR_CL_STAT_OP x.cluster)))) s
  { s1 with raises := s1.raises.filter fun x => x.forPlan || !hit x }

/-- The raises of quadrant q that the rail does not serve fail (R476): each is refused with ORDER, and a request leaves OP_REQ at its old value. -/
def failRaises (s : State) (q : Nat) : State :=
  let bad := s.raises.filter fun x => x.cluster / 8 == q && !raiseServed s x
  let s1 := { s with raises := s.raises.filter fun x => !(bad.contains x) }
  bad.foldl (fun s x => refuseCl (if x.forPlan then s else setF s (PWR_CL_CTL_OP_REQ x.cluster) x.oldReq) x.cluster 8) s1

/-- The voltage change of rail r ends without settling (R476): the rail keeps the old target, to which Primrose sets it. Log: 103 DEDUCED. -/
def unsettled (s : State) (r : Nat) (c : RailChange) : State :=
  let s1 := { (setF (setF (setF (voutCommand s r c.old) (PRM_RAIL_STAT_UNSETTLED r) 1) (PRM_RAIL_STAT_TARGET r) c.old) (PRM_RAIL_STAT_CHANGING r) 0) with rails := smPut (fun _ => none) r none s.rails }
  match railQuad r with
  | some q =>
    let s2 := refreshRail (setF (setF s1 (PWR_Q_IRQ_UNSETTLED q) 1) (PWR_Q_STAT_VTGT q) c.old) r
    let s3 := failRaises s2 q
    if s3.raises = s2.raises then s3 else lowerOps s3 q
  | none => refreshRail s1 r

/-- VOLTAGE_SETTLED (R470, R476): Primrose reads VOUT (mV) and IOUT of a rail: within 1 % of the target, a change is settled and the raises it serves are complete; beyond
its bound it has failed. -/
def execVoltageSettled (rail : Fin 32) (vout iout : BitVec 16) (s : State) : Res :=
  let r := rail.val
  let s1 := setF (setF s (PRM_RAIL_TEL_VOUT r) vout.toNat) (PRM_RAIL_TEL_IOUT r) iout.toNat
  let t := getF s (PRM_RAIL_STAT_TARGET r)
  match smGet (fun _ => none) s.rails r with
  | none => .next s1
  | some c =>
    if ((vout.toNat : Int) - t).natAbs * 100 ≤ t then
      let s2 := { (setF s1 (PRM_RAIL_STAT_CHANGING r) 0) with rails := smPut (fun _ => none) r none s1.rails }
      .next (match railQuad r with | some q => completeRaises s2 q | none => s2)
    else if reached s c.due then .next (unsettled s1 r c)
    else .next s1

/-! ## Clusters (R478 to R485) -/

/-- Is a debug session attached to a tile of cluster k? -/
def debugInCluster (s : State) (k : Nat) : Bool := anyBelow (debugHolds s k) 8

/-- Is a level wake event of cluster k up, the lock aside (R481)? -/
def levelWake (s : State) (k : Nat) : Bool := needLevel s k || isF s (PWR_CL_CMD_WAKE k) || debugInCluster s k

/-- Is a DMA channel of cluster k RUNNING? -/
def dmaRunning (s : State) (k : Nat) : Bool := anyBelow (fun ch => getF s (DMA_CH_STAT_STATE k ch) == 1) 10

/-- Is cluster k idle (R480)? -/
def clusterIdle (s : State) (k : Nat) : Bool := busyMask s k == 0 && !dmaRunning s k

/-- ENTRY(S) of R478 in ps: 0 GATE, 1 NAP, 2 SLEEP. -/
def entryPs (d : Nat) : Int := match d with | 0 => 8000 | 1 => 500000 | _ => 2000000

/-- The depth to which cluster k may go (R110, R480). -/
def depthLimit (s : State) (k : Nat) : Nat :=
  if isF s (PWR_CL_CTL_LOCK k) then 0 else min ((planDepth s k).getD 2) (min 2 (getF s (PWR_CL_CTL_DEPTH_MAX k)))

/-- Does the time left permit depth d (R480)? -/
def timePermits (s : State) (k d : Nat) : Bool := match nextNeed s k with | some t => decide (now s + entryPs d + 1000000 ≤ t) | none => true

/-- The deepest state that is permitted (R480). -/
def deepest (s : State) (k : Nat) : Option Nat := [2, 1, 0].find? fun d => decide (d ≤ depthLimit s k) && timePermits s k d

/-- CLUSTER_ENTRY (R160, R479, R480): an idle cluster begins to enter the deepest permitted state; GATE is held at once. Dahlia's level has fallen. -/
def execClusterEntry (k : Fin 32) (s : State) : Res :=
  if quadDark s (k.val / 8) = true ∨ 1 < getF s (PWR_CL_STAT_STATE k.val) ∨ clusterIdle s k.val = false ∨ levelWake s k.val = true then .next s
  else .next (match deepest s k.val with
    | none => s
    | some 0 => (let s1 := if getF s (PWR_CL_STAT_STATE k.val) = 0 then passCsm s k.val else s
                 setCl (setF s1 (PWR_CL_STAT_STATE k.val) 1) k.val { getCl s1 k.val with need := false })
    | some d => setCl (setF s (PWR_CL_STAT_STATE k.val) 4) k.val { getCl s k.val with need := false, entering := some (d + 1, now s) })

/-- The raises of cluster k as it enters SLEEP: its effective point rises with no clock to change, and VDD_Qq waits for its wake (R474). Log: 103 DEDUCED. -/
def sleepRaises (s : State) (k : Nat) : State :=
  let op := (s.raises.filter fun x => x.cluster == k).foldl (fun a x => max a x.op) (getF s (PWR_CL_STAT_OP k))
  { (setF s (PWR_CL_STAT_OP k) op) with raises := s.raises.filter fun x => x.forPlan || x.cluster != k }

/-- The highest point that VDD_Qq serves. -/
def servedOp (s : State) (q : Nat) : Nat := ([5, 4, 3, 2, 1].find? fun op => decide (opMv s q op ≤ sureMv s (vddRail q))).getD 0

/-- The point at which cluster k wakes: its effective point where VDD_Qq serves it; otherwise the highest that it serves, and the rest is a raise (R474, R475). Log: 103 DEDUCED. -/
def wakePoint (s : State) (k : Nat) : State :=
  let op := getF s (PWR_CL_STAT_OP k)
  if opMv s (k / 8) op ≤ sureMv s (vddRail (k / 8)) then s
  else { (setF s (PWR_CL_STAT_OP k) (servedOp s (k / 8))) with raises := s.raises ++ [⟨k, op, false, getF s (PWR_CL_CTL_OP_REQ k)⟩] }

/-- ENTRY_COMPLETE (R478, R482): the state is held; with a level wake event up, the wake starts at that instant. Log: 107 DEDUCED. -/
def execEntryComplete (k : Fin 32) (s : State) : Res :=
  match (getCl s k.val).entering with
  | some (st, t) =>
    let e := t + entryPs (st - 1)
    if getF s (PWR_CL_STAT_STATE k.val) ≠ 4 ∨ reached s e = false then .next s
    else
      let s1 := setCl (setF s (PWR_CL_STAT_STATE k.val) st) k.val { getCl s k.val with entering := none }
      let s2 := if st = 3 then retarget (sleepRaises s1 k.val) (k.val / 8) else s1
      if levelWake s2 k.val = true ∨ isF s2 (PWR_CL_CTL_LOCK k.val) = true then
        (let s3 := startWake s2 k.val
         .next (setCl s3 k.val { getCl s3 k.val with wake := some (max e (now s)) }))
      else .next s2
  | none => .next s

/-- Deliver the mailbox values held for the tiles of cluster k (R481, R485). Log: 105 DEDUCED. -/
def deliverLatches (s : State) (k : Nat) : State :=
  (List.range 9).foldl (fun s j =>
    match (getHw s (9 * k + j)).latch with
    | some v => setHw (writeMbox s (9 * k + j) v.toNat) (9 * k + j) { getHw s (9 * k + j) with latch := none }
    | none => s) s

/-- Is a wake of cluster k by a path of R484 possible at e ps after its request: the first PLL (0), the fall-back after the limit of step 2 (1), or step 3' (2)? -/
def wakeFits (asleep : Nat) (path : Fin 3) (e : Int) : Bool :=
  match path with
  | 0 => decide (0 ≤ e ∧ e ≤ (if asleep = 3 then 12000000 else 8000000))
  | 1 => decide (8000000 < e ∧ e ≤ (if asleep = 3 then 20000000 else 16000000))
  | 2 => asleep == 3 && decide (4000000 < e ∧ e ≤ 20000000)

/-- CLUSTER_WAKE (R484, R485): a PLL has locked by one of the paths of R484; the cluster is in RUN with its CSM cycle at 0 (R20), at a point
that VDD_Qq serves, and the mailbox values held are delivered. Log: 4 DESIGN CHOICE, 104 DEDUCED, 107 DEDUCED, 130 DESIGN CHOICE. -/
def execClusterWake (k : Fin 32) (path : Fin 3) (dt : Nat) (s : State) : Res :=
  let s0 := atDt s dt
  let c := getCl s k.val
  match c.wake with
  | some t =>
    if wakeFits c.asleep path (now s0 - t) = false then .next s
    else
      let s1 := setCl (setF s0 (PWR_CL_STAT_STATE k.val) 0) k.val { c with wake := none, retry := false, csmT := 0 }
      let s2 := if path = 0 then s1 else addF (setF s1 (PWR_CL_STAT_PLL k.val) (1 - getF s1 (PWR_CL_STAT_PLL k.val))) (PWR_CL_CNT_FALLBACK k.val) 1
      .next (deliverLatches (retarget (wakePoint s2 k.val) (k.val / 8)) k.val)
  | none => .next s

/-- A retry begins (R485): the cluster stays FAILED until it succeeds. Log: 104 DEDUCED. -/
def startRetry (s : State) (k : Nat) : State := setCl s k { getCl s k with wake := some (now s), retry := false }

/-- WAKE_FAILURE (R485, R497, R498): the limit of the last step passes, 16 µs after the request or after the power-good (R484), of which no command tells; the cluster is FAILED and
its resources are lost. Log: 104 DEDUCED. -/
def execWakeFailure (k : Fin 32) (s : State) : Res :=
  let c := getCl s k.val
  match c.wake with
  | some t =>
    if reached s (t + 16000000) = false then .next s
    else
      let s1 := setCl (setF s (PWR_CL_STAT_STATE k.val) 6) k.val { c with wake := none }
      let s2 := intPulse (addF s1 (PWR_CL_CNT_FAILED k.val) 1) (clSrc k.val 18)
      let here := fun (j : Job) => j.nodes.filter fun n => n.cluster == k.val && n.st != .ended
      let s3 := mapJobs s2 (fun j => here j != []) fun j => failJob (now s2) ⟨now s2, 0x20, 0x43, (here j).foldl (fun a n => min a n.idx) 0x3FF⟩ j
      let s4 := report (resourceLost s3 (k.val / 8))
        { at_ := now s, source := clSrc k.val 18, level := 1, cls := 0x07, action := 4, quad := k.val / 8, cluster := k.val % 8,
          context := [(getR s3 (PWR_CL_STAT k.val)).toNat, (getR s3 (PWR_CL_CNT k.val)).toNat] }
      .next (if c.retry then startRetry s4 k.val else s4)
  | none => .next s

/-- An edge wake event of cluster k (R481, R482): lost and counted in the final 240 ns of an entry. -/
def edgeWake (s : State) (k : Nat) : State :=
  if getF s (PWR_CL_STAT_STATE k) = 4 ∧ entryFinal s k = true then addF s (PWR_CL_LOST_LOST k) 1 else wakeEvent s k 1

/-- PULSE (R481, R482): a write of PWR_CL_CMD.PULSE. -/
def execPulse (k : Fin 32) (s : State) : Res := .next (if quadDark s (k.val / 8) then s else edgeWake s k.val)

/-- A write of PWR_CL_CMD.RETRY (R485): one further attempt of a FAILED cluster; written while a wake is in progress, it starts once that has failed. -/
def retryWake (s : State) (k : Nat) : State :=
  if (getCl s k).wake.isSome then setCl s k { getCl s k with retry := true }
  else if getF s (PWR_CL_STAT_STATE k) = 6 then startRetry s k
  else s

/-- RETRY (R485). -/
def execRetry (k : Fin 32) (s : State) : Res := .next (if quadDark s (k.val / 8) then s else retryWake s k.val)

/-- A write of PWR_CL_CMD (R481, R485). -/
def writeClCmd (s : State) (k v : Nat) : State :=
  let s1 := setF s (PWR_CL_CMD_WAKE k) (bitOf v 0)
  let s2 := if bitOf v 0 = 1 then wakeEvent s1 k 1 else s1
  let s3 := if bitOf v 1 = 1 then edgeWake s2 k else s2
  if bitOf v 2 = 1 then retryWake s3 k else s3

/-- A write of PWR_CL_CTL (R473, R480, R481). -/
def writeClCtl (s : State) (k v : Nat) : State :=
  let s1 := setF (setF s (PWR_CL_CTL_DEPTH_MAX k) (min 2 (bitsOf v 4 2))) (PWR_CL_CTL_LOCK k) (bitOf v 6)
  let s2 := writeOpReq s1 k (bitsOf v 0 3)
  if bitOf v 6 = 1 then (if 2 ≤ getF s2 (PWR_CL_STAT_STATE k) then wakeEvent s2 k 6 else s2) else s2

/-! ## Tiles at a boot (R15, R502) -/

/-- The tile map of cluster k at a boot: the logical tiles of permanently retired physical tiles, in ascending order, run on T8; those beyond it are lost. The other retirements end
with their tests. Log: 106 DEDUCED. -/
def bootTiles (s : State) (k : Nat) : State :=
  let q := k / 8
  let c := k % 8
  let perm := getF s (PRM_TILES_PERMANENT q c)
  let bad := setBits 8 0 perm
  let first := if bitOf perm 8 = 1 then none else bad.head?
  let s1 := setF (setF s (PRM_TILES_RETIRED q c) perm) (PRM_TILES_TESTING q c) 0
  let s2 := bad.foldl (fun s t => setTilemap s k t (if first = some t then 8 else 15)) s1
  let lost := (bad.filter fun t => first != some t).foldl (fun a t => a + 2 ^ t) 0
  setCl s2 k { getCl s2 k with spare := if bitOf perm 8 = 1 ∨ first.isSome = true then none else some 8, sound := [], lostTiles := lost }

/-! ## Quadrants (R486 to R489, R493) -/

/-- Is a job of quadrant q live (R487)? -/
def quadLive (s : State) (q : Nat) : Bool := s.jobs.any fun j => j.home == q || j.nodes.any fun n => n.quad == q && n.st != .ended

/-- The first refuser of R483 that applies to a request for DORMANT or OFF (R487). Log: 42 DEDUCED. -/
def quadRefuser (s : State) (q : Nat) (off : Bool) : Option Nat :=
  if quadHasPlan s q = true ∨ quadLive s q = true ∨ (s.ucmds.any fun u => u.ring / 64 == q && u.kind == .planSet) = true then some 1
  else if anyBelow (fun c => dmaRunning s (8 * q + c)) 8 then some 2
  else if anyBelow (fun c => debugInCluster s (8 * q + c)) 8 then some 3
  else if (getScr s q).repair.isSome = true ∨ (s.rowCopies.any fun x => x.1 == q) = true ∨ (off = true ∧ anyBelow (fun p => phxLoading s (4 * q + p)) 4 = true) then some 5
  else if isF s (PRM_Q_CTL_LOCK q) then some 6
  else none

/-- Is the BAR0 offset in quadrant q's 16 MiB (R37)? -/
def inQuadRegs (q a : Nat) : Bool := decide (quadBase q ≤ a ∧ a < quadBase q + 0x1000000)

/-- Is a flat address in a memory of quadrant q? -/
def inQuadMem (q a : Nat) : Bool :=
  if a < 2 ^ 60 then false
  else if a < 2 ^ 61 then decide ((a - 2 ^ 60) / 2 ^ 36 = q)
  else if a < 2 ^ 62 then decide ((a - 2 ^ 61) / 2 ^ 26 = q)
  else if a < 2 ^ 62 + 2 ^ 40 then decide ((a - 2 ^ 62) / 2 ^ 19 / 72 = q)
  else if a < nvsFlat then decide ((a - (2 ^ 62 + 2 ^ 40)) / 2 ^ 17 / 72 = q)
  else false

/-- End the nodes of a job that lie in quadrant q (a coupled job whose plan is dropped). -/
def endInQuad (q : Nat) (t : Int) (j : Job) : Job :=
  let n := (j.nodes.filter fun x => x.quad == q && x.st != .ended).length
  { j with nodes := j.nodes.map fun x => if x.quad = q ∧ x.st ≠ .ended then { x with st := .ended } else x, recCounter := j.recCounter - n, endAt := if n = 0 then j.endAt else t }

/-- What the quadrant reset removes from the plans, jobs and programs: everything of the quadrant. -/
def dropQuadWork (s : State) (q : Nat) : State :=
  let cis := ((s.plans.filter fun p => p.coupled && inQuad p q).map (·.ci)).eraseDups
  let s1 := cis.foldl (fun s ci => dropCoupled s ci 0x45) s
  let s2 := { s1 with plans := s1.plans.filter fun p => !(inQuad p q), jobs := (s1.jobs.filter fun (j : Job) => j.home != q).map (endInQuad q (now s)),
                      ucmds := s1.ucmds.filter fun u => u.ring / 64 != q, progs := s1.progs.filter fun v => v.cluster / 8 != q }
  { s2 with notices := s2.notices.filter fun x => x.node / 2 ^ 21 != q && x.src / 2 ^ 21 != q, xfers := s2.xfers.filter fun x => x.fromQ != q && x.toQ != q,
            raises := s2.raises.filter fun x => x.cluster / 8 != q }

/-- Does a patrol memory's number (Machine/Ecc.lean) name a memory of quadrant q? -/
def patrolOf (q n : Nat) : Bool :=
  if n < 10 then n == 1 + q else if n < 100 then (n - 10) / 8 == q else if n < 400 then (n - 100) / 72 == q else decide (n < 1000) && (n - 400) / 72 == q

/-- What the quadrant reset removes from the units of the quadrant beside their registers, and from its memories. Log: 106 DEDUCED. -/
def clearQuadUnits (s : State) (q : Nat) : State :=
  let port := fun (x : Nat) => x / 2 ^ 48 % 192 / 48 == q
  let far := fun (x : Nat) => decide (x < 131072) && x / 32768 == q
  let s1 := { s with rings := smDrop (fun r => r / 64 == q) s.rings, tiles := smDrop (fun p => p / 72 == q) s.tiles, dma := smDrop (fun x => x / 80 == q) s.dma,
                     cvu := smDrop (fun x => x / 32 == q) s.cvu, cvuIn := smDrop (fun x => x / 32 == q) s.cvuIn, clusters := smDrop (fun k => k / 8 == q) s.clusters, tileHw := smDrop (fun p => p / 72 == q) s.tileHw }
  let s2 := { s1 with laneHw := smDrop (fun l => l / 16 == q) s1.laneHw, rxGroups := smDrop port s1.rxGroups, rxPrbs := smDrop port s1.rxPrbs,
                      txGroups := smDrop port s1.txGroups, sentGroups := smDrop port s1.sentGroups, captures := smDrop (fun p => p / 48 == q) s1.captures }
  let s3 := { s2 with pfeFrom := smDrop (fun x => x / 32 == q) s2.pfeFrom, pfeCheck := smDrop (· == q) s2.pfeCheck, spareTrig := smDrop (· == q) s2.spareTrig,
                      phx := smDrop (fun p => p / 4 == q) s2.phx, frames := smDrop far s2.frames, care := smDrop far s2.care,
                      bram := smDrop (fun x => x / 32768 == q) s2.bram, scr := smDrop (· == q) s2.scr }
  { s3 with mem := smDrop (inQuadMem q) s3.mem, poison := smDrop (fun g => inQuadMem q (32 * g)) s3.poison,
            errs := smDrop (fun g => inQuadMem q (32 * g)) s3.errs, recs := s3.recs.filter fun x => x.ring / 64 != q, biOut := s3.biOut.filter fun x => x.1 != q, waits := s3.waits.filter fun w => !inQuadMem q w.addr, sf := smDrop (fun x => x / 2 ^ 32 == q) s3.sf,
            rowCopies := s3.rowCopies.filter fun x => x.1 != q, retrains := smDrop (fun x => x / 2 == q) s3.retrains, retrainDue := s3.retrainDue.filter fun x => x.1 != q, corrSeen := smDrop (patrolOf q) s3.corrSeen }

/-- The quadrant reset of R493: the quadrant, its lanes, memories, plans and programs return to their reset state; the hub, its registers and CT stay. A load in progress or READY aborts
with QUAD (R460). Log: 92 DEDUCED, 106 DEDUCED. -/
def quadrantReset (s : State) (q : Nat) : State :=
  let s1 := clearQuadUnits (dropQuadWork s q) q
  let s2 := { (resetRegs s1 (inQuadRegs q)) with heldLow := smDrop (inQuadRegs q) s1.heldLow, latchedHigh := smDrop (inQuadRegs q) s1.latchedHigh }
  let s3 := decommit s2 q
  let s4 := { (setF (setF (voutCommand s3 (vddRail q) (opMv s3 q 0)) (PRM_RAIL_STAT_TARGET (vddRail q)) (opMv s3 q 0)) (PRM_RAIL_STAT_CHANGING (vddRail q)) 0) with
    rails := smPut (fun _ => none) (vddRail q) none s3.rails }
  let s5 := (List.range 8).foldl (fun s c => bootTiles s (8 * q + c)) s4
  let s6 := ((List.range 4).map (4 * q + ·)).foldl (fun t p => if phxLoading s p then abortLoad t p 8 0 else t) s5
  refreshAll s6 (((s6.ints.map (·.1)).filter fun n => n / 192 == q && isLevel n))

/-- Begin the boot of quadrant q (R489). -/
def bootQuad (s : State) (q : Nat) : State :=
  if tooHot s q then refuseQuad s q 4 else setQuad (setF s (PRM_Q_STAT_STATE q) 5) q { getQuad s q with booting := some (now s) }

/-- A write of PRM_Q_CTL.TARGET (R486 to R489): carried out, or refused under R483. Log: 42 DEDUCED. -/
def writeTarget (s : State) (q v : Nat) : State :=
  let t := min 2 v
  let s1 := setF s (PRM_Q_CTL_TARGET q) t
  let st := getF s (PRM_Q_STAT_STATE q)
  if t = 0 then
    (if st = 2 then bootQuad s1 q else if st = 1 ∨ (st = 3 ∧ (getQuad s q).toOff = false) then requestActive s1 q else s1)
  else if st = 0 ∨ (st = 1 ∧ t = 2) then
    match quadRefuser s q (t == 2) with
    | some c => refuseQuad s1 q c
    | none =>
      if t = 1 then setQuad (setF s1 (PRM_Q_STAT_STATE q) 3) q { getQuad s1 q with entering := some (now s), toOff := false }
      else
        let s2 := quadrantReset s1 q
        setQuad (setF s2 (PRM_Q_STAT_STATE q) 3) q { getQuad s2 q with entering := some (now s), toOff := true }
  else s1

/-- QUADRANT_TARGET_WRITE (R486). -/
def execQuadrantTargetWrite (q : Fin 4) (v : BitVec 2) (s : State) : Res := .next (writeTarget s q.val v.toNat)

/-- Put every cluster of quadrant q that has not FAILED into SLEEP (R478). -/
def sleepAll (s : State) (q : Nat) : State :=
  (List.range 8).foldl (fun s c =>
    let k := 8 * q + c
    if getF s (PWR_CL_STAT_STATE k) = 6 then s else setCl (setF s (PWR_CL_STAT_STATE k) 3) k { getCl s k with need := false, entering := none, wake := none }) s

/-- QUADRANT_ENTRY_COMPLETE (R478, R482, R489): DORMANT is held 50 µs after the decision, OFF 1 ms after it; a request for ACTIVE made meanwhile then takes effect. Log: 42 DEDUCED. -/
def execQuadrantEntryComplete (q : Fin 4) (s : State) : Res :=
  let x := getQuad s q.val
  match x.entering with
  | some t =>
    if reached s (t + (if x.toOff then 1000000000 else 50000000)) = false then .next s
    else
      let s1 := setQuad s q.val { x with entering := none, toOff := false }
      let again := getF s (PRM_Q_CTL_TARGET q.val) == 0
      if x.toOff then
        (let s2 := setF s1 (PRM_Q_STAT_STATE q.val) 2
         .next (if again then bootQuad s2 q.val else s2))
      else
        (let s2 := retarget (sleepAll (setF s1 (PRM_Q_STAT_STATE q.val) 1) q.val) q.val
         .next (if again then requestActive s2 q.val else s2))
  | none => .next s

/-- QUADRANT_WAKE_COMPLETE (R478, R488): a DORMANT quadrant is ACTIVE again. -/
def execQuadrantWakeComplete (q : Fin 4) (s : State) : Res :=
  .next (if getF s (PRM_Q_STAT_STATE q.val) = 4 then setQuad (setF s (PRM_Q_STAT_STATE q.val) 0) q.val { getQuad s q.val with waking := none } else s)

/-- QUADRANT_BOOT (R489, R495): a boot of the quadrant ends, ok or not; one that is not complete within 50 ms leaves it OFF. At start-up each quadrant boots once the firmware runs. Log: 15 DESIGN CHOICE, 130 DESIGN CHOICE. -/
def execQuadrantBoot (q : Fin 4) (ok : Bool) (s : State) : Res :=
  let x := getQuad s q.val
  let done := fun (s : State) (late : Bool) =>
    if ok = true ∧ late = false then setF s (PRM_Q_STAT_STATE q.val) 0
    else intPulse (setF (setF s (PRM_Q_STAT_STATE q.val) 2) (PRM_Q_STAT_BOOT_FAIL q.val) 1) 808
  match x.booting with
  | some t => .next (done (setQuad s q.val { x with booting := none }) (reached s (t + 50000000000)))
  | none =>
    if s.boot.fw = true ∧ bitOf s.boot.quads q.val = 0 ∧ getF s (PRM_Q_STAT_STATE q.val) = 0 then
      let s1 := { s with boot := { s.boot with quads := s.boot.quads + 2 ^ q.val } }
      .next (done (if s1.boot.quads = 15 then bootStep s1 6 900000 else s1) false)
    else .next s

/-! ## Reinitialisation (R506 to R508) -/

/-- A job as the hub's record writer completes it (R508). -/
def quadrantJob (t : Int) (j : Job) : Job := { j with fail := some ⟨t, 0x20, 0x45, 0x3FF⟩ }

/-- Reinitialise quadrant q for a cause: 1 watchdog, 2 admission state, 3 rail, 4 thermal, 5 host. One in progress absorbs it, and a thermal trip makes it end in OFF. -/
def startReinit (s : State) (q cause : Nat) : State :=
  let x := getQuad s q
  if getF s (PRM_Q_STAT_STATE q) = 2 ∨ (x.entering.isSome = true ∧ x.toOff = true) then s
  else if x.reinit.isSome then (if cause = 4 then setQuad s q { x with toOff := true } else s)
  else
    let mine := (s.jobs.filter fun j => j.home == q).foldl (fun (l : List Job) j => insertBy (fun a b => decide (a.deadline < b.deadline)) (quadrantJob (now s) j) l) []
    let regs := smDrop (fun a => !inRingRegs q a) s.regs
    let rings := smDrop (fun r => r / 64 != q) s.rings
    let s1 := quadrantReset s q
    let s2 := setQuad (setF s1 (PRM_Q_STAT_STATE q) 6) q
      { reinit := some (now s), toOff := cause == 4, records := mine, mirrorRegs := regs, mirrorRings := rings }
    let s3 := addF (setF s2 (PRM_REINIT_CAUSE_CAUSE q) cause) (PRM_REINIT_CNT_COUNT q) 1
    report (intPulse (setBitF s3 PRM_EVT_REINIT q) 808) { at_ := now s, source := 808, level := 2, cls := 0x0A, action := 5, quad := q, context := [cause] }

/-- QUADRANT_RESET (R493, R506): the write of PRM_Q_CTL.RESET. -/
def execQuadrantReset (q : Fin 4) (s : State) : Res := .next (startReinit s q.val 5)

/-- The end of a reinitialisation (R501, R502, R504 to R506): the tiles that passed their tests serve again and those that failed are retired permanently, engines and banks that failed
are lost and fenced (source 17 for each bank, R437), and the quadrant is ACTIVE, or OFF after a thermal trip. Log: 106 DEDUCED, 108 DEDUCED. -/
def endReinit (s : State) (q : Nat) (tiles : List Nat) (engines banks : List (Nat × Nat)) : State :=
  let x := getQuad s q
  let s1 := (tiles.filter fun p => p / 72 == q).foldl (fun s p => setBitF s (PRM_TILES_PERMANENT q (p % 72 / 9)) (p % 9)) s
  let s2 := (List.range 8).foldl (fun s c => bootTiles s (8 * q + c)) s1
  let s3 := (engines.filter fun e => e.1 / 8 == q).foldl (fun s e => setCl s e.1 { getCl s e.1 with lostEng := (getCl s e.1).lostEng ||| 2 ^ e.2 }) s2
  let s4 := (banks.filter fun b => b.1 / 8 == q).foldl (fun s b =>
    if testF s (MEM_CSM_FENCE_BANKS b.1) b.2 then s else intPulse (setBitF s (MEM_CSM_FENCE_BANKS b.1) b.2) (clSrc b.1 17)) s3
  let s5 := setF (setQuad s4 q { x with reinit := none, toOff := false }) (PRM_Q_STAT_STATE q) (if x.toOff then 2 else 0)
  intPulse (setBitF s5 PRM_EVT_REINIT_DONE q) 808

/-- QUADRANT_REINITIALISATION (R506): the watchdog expires or the admission state is bad, or the rebuild ends. Log: 108 DEDUCED. -/
def execQuadrantReinitialisation (q : Fin 4) (e : ReinitEv) (s : State) : Res :=
  .next (match e with
    | .watchdog => startReinit s q.val 1
    | .admission => startReinit s q.val 2
    | .done tiles engines banks =>
      if (getQuad s q.val).reinit.isSome then
        endReinit s q.val (tiles.map (·.val)) (engines.map fun x => (x.1.val, x.2.val)) (banks.map fun x => (x.1.val, x.2.val))
      else s)

/-- REINITIALISATION_RECORD_WRITE (R508): the hub's record writer writes the record of the accepted job with the earliest deadline while the host link is up; one written after its
deadline is counted. -/
def execReinitialisationRecordWrite (q : Fin 4) (dt : Nat) (s : State) : Res :=
  let s0 := atDt s dt
  match (getQuad s q.val).records with
  | [] => .next s
  | j :: rest =>
    if getF s CXL_LINK_STAT_RATE = 0 ∨ now s0 < s.linkHeld then .next s
    else
      let s1 := setQuad s0 q.val { getQuad s0 q.val with records := rest }
      .next (if j.lost then loseRecord s1 else withMirror s1 q.val fun s => queueRec s true { ring := j.ring, irq := j.cmd.irq, rec_ := jobRec j, hub := true })

/-! ## Resets of the chip (R493 to R495) -/

/-- The fields that survive a chip reset: those whose values come from fuses, from the non-volatile store and from the key store. -/
def keptFields : List Field :=
  (List.range 32).map (fun k => PRM_TILES_PERMANENT (k / 8) (k % 8)) ++ (List.range 64).flatMap (fun n => [NVS_SLOT_CFG_BASE n, NVS_SLOT_CFG_SIZE n]) ++
  [PRM_FR_STAT_ENTRIES, PRM_FR_HEAD_HEAD, PRM_RMA_VALID, PRM_RMA_SEC_SEC, PRM_RMA_NS_NS, FXG_STAT_LIFE, FXG_STAT_BBK_VALID, FXG_STAT_TAMPER_ARMED,
   FXG_POLICY_POLICY, FXG_POLICY_ACTIVE, FXG_POLICY_REVOKED, FXG_SERIAL_SERIAL, FXG_SVN_FW, FXG_SVN_PX, FXG_TAMPER_ARM, FXG_TAMPER_COUNT]

/-- A provisioning that waits takes effect (R532): the subsystem ID and the rail map. -/
def takeProvision (f : Fox) : Fox :=
  match f.provision with
  | none => f
  | some d =>
    { f with provision := none, subsys := leNat (d.take 2),
             railMap := (List.range 32).foldl (fun m r => smPut (fun _ => 0) r (leNat ((d.drop (2 + 2 * r)).take 2)) m) [] }

/-- The fuses, the owner records of the store and the key store: what Foxglove keeps over a chip reset. Log: 110 DEDUCED. -/
def foxKept (f : Fox) : Fox :=
  takeProvision { digests := f.digests, moduli := f.moduli, fuseKeys := f.fuseKeys, killed := f.killed, bbKeys := f.bbKeys, slot1 := f.slot1, subsys := f.subsys,
                  railMap := f.railMap, provision := f.provision, tamperOff := f.tamperOff }

/-- The pins keep the levels that the board drives. -/
def pinLevels (m : SMap Pin) : SMap Pin := m.foldl (fun a x => smPut (fun _ => ({} : Pin)) x.1 { level := x.2.level } a) []

/-- The state after a chip reset of what it does not reset: the non-volatile store, the fuses, the key store, the levels that the board drives, and the commands that wait. Log: 17 DESIGN CHOICE, 110 DEDUCED. -/
def survivors (s : State) : State :=
  { State.reset with
    pending := s.pending, out := s.out, freeCtr := s.freeCtr, mem := s.mem.filter fun x => decide (nvsFlat ≤ x.1), fox := foxKept s.fox, fw := { active := s.fw.active },
    rma := s.rma, jtag := s.jtag, perst := s.perst, pins := pinLevels s.pins, frPend := s.frPend }

/-- Is no valid reference present: declared lost, and not yet good again (R55, R56)? -/
def refAbsent (s : State) : Bool := match s.lks.pendBase with | some x => x.2 | none => isF s LKS_STATUS_CLK_SRC

/-- A chip reset (R493, R52): PRM_RST shows its cause, 0 POR_N, 1 rail, 2 PRM_RST, 3 thermal, 4 lockstep, and the rail. With no valid reference the device starts in FREE-RUN, at the
nominal base (R56). Log: 110 DEDUCED. -/
def chipReset (s : State) (cause rail : Nat) : State :=
  let s0 := report s { at_ := now s, level := 3, cls := 0x20, action := 6, context := [cause, rail] }
  let s1 := keptFields.foldl (fun t f => setF t f (getF s f)) (survivors s0)
  let s2 := setF (setF (setF s1 LKS_STATUS_CLK_SRC (ofBool (refAbsent s))) PRM_RST_CAUSE cause) PRM_RST_RAIL rail
  let s3 := s2.fox.railMap.foldl (fun s x => setF (setF s (PRM_RAIL_CFG_ADDR x.1) (bitsOf x.2 0 7)) (PRM_RAIL_CFG_PAGE x.1) (bitsOf x.2 8 4)) s2
  let s4 := (List.range 32).foldl bootTiles s3
  if s4.fox.tamperOff then refresh (setF { s4 with fox := { s4.fox with tamperOff := false } } FXG_IRQ_TAMPER_SEEN 1) 816 else s4

/-- CHIP_RESET (R493): the write of PRM_RST.CHIP. -/
def execChipReset (s : State) : Res := .next (chipReset s 2 0)

/-- The key store is lost (R534). -/
def loseKeyStore (s : State) : State :=
  [FXG_STAT_BBK_VALID, FXG_STAT_TAMPER_ARMED, FXG_TAMPER_ARM, FXG_TAMPER_COUNT].foldl (fun s f => setF s f 0) { s with fox := { s.fox with bbKeys := [] } }

/-- POR_N_RELEASE (R493, R495, R534, R556): POR_N rises after lowNs nanoseconds; vbat says that VBAT was in range all the while. A pulse under 1 µs is ignored; whether one under 10 µs
resets a running device the spec does not say. Log: 101 DESIGN CHOICE, 129 PRESUMED. -/
def execPorNRelease (lowNs : Nat) (vbat : Bool) (s : State) : Res :=
  let (n, s1) := takeFree s
  if lowNs < 1000 ∨ (lowNs < 10000 ∧ Config.porShort n = false) then .next s1
  else .next (chipReset (if vbat then s1 else loseKeyStore s1) 0 0)

/-- PERST_N (R494): its level; its assertion resets the host function, and the link is held down while it is low. Log: 87 DEDUCED, 129 PRESUMED. -/
def execPerstN (level : Bool) (s : State) : Res :=
  if s.perst = !level then .next s
  else if level then .next { s with perst := false }
  else
    let s1 := functionReset { s with perst := true }
    .next (setBudget (setF (setF (setF (setF s1 CXL_LINK_STAT_RATE 0) CXL_LINK_STAT_WIDTH 0) CXL_LINK_STAT_FLIT 0) CXL_LINK_STAT_CXL 0))

/-- What BAR register n reads (R430): BAR0 and BAR1 make a 64-bit, non-prefetchable memory BAR of 128 MiB, BAR2 and BAR3 one of 1 MiB; the other BAR registers read 0. The bits of the type
and of the address are those of the PCI Express specification. Log: 86 DEDUCED. -/
def barValue (s : State) (n : Nat) : Nat :=
  let v := smGet (fun _ => 0) s.cfg.bars n
  if n = 0 then v / 2 ^ 27 * 2 ^ 27 + 4 else if n = 2 then v / 2 ^ 20 * 2 ^ 20 + 4 else if n = 1 ∨ n = 3 then v else 0

/-- Answer a configuration request (R429, R430, R432, R435, R495): what a read returns (a free value where the spec gives none), or the effect of a write. The low word of the
register locator's entry names BAR0, the component registers and their offset. The Revision ID is R2's. Log: 86 DEDUCED. -/
def answerCfg (s : State) (c : CfgReq) : State :=
  match c with
  | .readId => emit (emit s (.cfgData 0x41921F3C)) (.cfgData 0x12000001)
  | .readSub => emit s (.cfgData (0x1F3C + 2 ^ 16 * (s.fox.subsys % 2 ^ 16)))
  | .readBar n => emit s (.cfgData (barValue s n))
  | .readLocator => emit s (.cfgData (0x300000 + 0x100))
  | .readMsixTable => emit s (.cfgData 0x510000)
  | .readMsixPba => emit s (.cfgData 0x518000)
  | .writeBar n v => { s with cfg := { s.cfg with bars := smPut (fun _ => 0) n v.toNat s.cfg.bars } }
  | .ideMode skid => setF s CXL_IDE_STAT_CM_SKID (ofBool skid)
  | .readMemActive => emit s (.cfgData (ofBool (s.boot.quads == 15)))
  | .msix e m => flushVectors { s with cfg := { s.cfg with msixEnable := e, funcMask := m } }
  | .ptm e => { s with cfg := { s.cfg with ptmEnable := e } }
  | .bi e => { s with cfg := { s.cfg with biEnable := e } }
  | .cache e => setBudget (setF s CXL_LINK_STAT_CACHE_EN (ofBool e))
  | .mem e => setF s CXL_LINK_STAT_MEM_EN (ofBool e)
  | .other => (let (i, s1) := takeFree s; emit s1 (.cfgData (Config.cfgValue i)))

/-- CONFIGURATION_REQUEST (R495): until 400 ms after the release of POR_N it is answered with Request Retry Status, afterwards normally; no request comes over a link that is down or in a
recovery (R427). Log: 86 DEDUCED. -/
def execConfigurationRequest (c : CfgReq) (s : State) : Res :=
  if s.perst = true ∨ getF s CXL_LINK_STAT_RATE = 0 ∨ now s < s.linkHeld then .next s
  else if s.upCycles < 10000000 then .next (emit s .cfgRetry)
  else .next (answerCfg s c)

/-! ## Supply monitors and temperature (R490 to R492) -/

/-- The voltage with which the monitor of rail r compares, mV (R490). -/
def monitorMv (s : State) (r : Nat) : Nat := sureMv s r

/-- Does rail r have a monitor now: rails 6 and 7 are reserved, and those of a quadrant that is OFF are removed (R469, R478)? -/
def monitored (s : State) (r : Nat) : Bool :=
  match railQuad r with
  | some q => getF s (PRM_Q_STAT_STATE q) != 2
  | none => decide (r ≤ 5)

/-- Is a rail of uv microvolts below a threshold given in thousandths of its target, the monitor's own error (R553: at most 5 thousandths) taken free? Log: 100 DESIGN CHOICE. -/
def below (s : State) (r uv thr : Nat) : Bool :=
  decide ((uv : Int) < (monitorMv s r : Int) * ((thr : Int) + clampInt (-5) 5 (Config.monitorError r thr)))

/-- The lowest point of cluster k under AUTO_STEP: that of the plans that use it, or OP0 (R491). -/
def stepFloor (s : State) (k : Nat) : Nat := (planOp s k).getD 0

/-- AUTO_STEP in quadrant q (R491): each cluster above its floor falls by one point, the clock first. Log: 103 DEDUCED. -/
def autoStep (s : State) (q : Nat) : State :=
  let ks := ((List.range 8).map (8 * q + ·)).filter fun k => decide (stepFloor s k < getF s (PWR_CL_STAT_OP k))
  if ks.isEmpty then s
  else
    let s1 := ks.foldl (fun s k => setF s (PWR_CL_STAT_OP k) (getF s (PWR_CL_STAT_OP k) - 1)) s
    refresh (setF (retarget s1 q) (PWR_Q_IRQ_STEPPED q) 1) (qSrc q 190)

/-- SUPPLY_WARNING (R490, R491): a rail stands at uv microvolts for ns nanoseconds: below 94 % of its target for 100 ns it warns. Log: 100 DESIGN CHOICE. -/
def execSupplyWarning (rail : Fin 32) (uv ns : Nat) (s : State) : Res :=
  let r := rail.val
  if ns < 100 ∨ monitored s r = false ∨ below s r uv 940 = false then .next s
  else
    let s1 := refresh (setBitF s PRM_MON_WARN_WARN r) (840 + r)
    let s2 := report s1 { at_ := now s, source := 840 + r, level := if r < 8 then 3 else 2, cls := 0x22, quad := (railQuad r).getD 0, context := [(getR s1 PRM_MON_WARN).toNat] }
    .next (match railQuad r with
      | some q => if r = vddRail q ∧ isF s2 PRM_MON_CTL_AUTO_STEP = true then autoStep s2 q else s2
      | none => s2)

/-- A lane-rail reset of quadrant q (R493): every lane is disabled. -/
def laneReset (s : State) (q : Nat) : State :=
  refresh (setF ((List.range 16).foldl (fun s i => disableLane s (16 * q + i)) s) (PWR_Q_IRQ_LANE_RESET q) 1) (qSrc q 190)

/-- SUPPLY_RESET (R490, R493): below 88 % of its target for 20 ns, the reset of the rail's scope is applied. Log: 100 DESIGN CHOICE. -/
def execSupplyReset (rail : Fin 32) (uv ns : Nat) (s : State) : Res :=
  let r := rail.val
  if ns < 20 ∨ monitored s r = false ∨ below s r uv 880 = false then .next s
  else .next (match railQuad r with
    | none => chipReset s 1 r
    | some q => if (r - 8) % 6 < 4 then startReinit s q 3 else laneReset s q)

/-- The reading of sensor i: a quadrant's, or the hub's (4). -/
def sensorTemp (s : State) (i : Nat) : Nat := if i < 4 then quadTemp s i else getF s PRM_THERM_CTL_HUB

/-- What a reading of sensor i does (R492): at or above WARN its bit is set; from 125 °C on its time there counts. -/
def sensorRead (s : State) (i : Nat) : State :=
  let v := sensorTemp s i
  let hot := smGet (fun _ => none) s.hotSince i
  let s1 := { s with hotSince := smPut (fun _ => none) i (if v < 330 then none else match hot with | some t => some t | none => some (now s)) s.hotSince }
  if v < getF s PRM_THERM_CTL_WARN ∨ testF s PRM_THERM_CTL_OVER i = true then s1
  else report (refresh (setBitF s1 PRM_THERM_CTL_OVER i) 872)
    { at_ := now s, source := 872, level := if i < 4 then 2 else 3, cls := 0x23, quad := i % 4, context := [v] }

/-- THERMAL_READ (R492): the five sensors are read, in steps of 0.5 °C. Log: 4 DESIGN CHOICE, 109 DEDUCED. -/
def execThermalRead (q0 q1 q2 q3 hub : BitVec 9) (s : State) : Res :=
  let s1 := setF (setF (setF (setF s PRM_THERM_TEMP_Q0 q0.toNat) PRM_THERM_TEMP_Q1 q1.toNat) PRM_THERM_HI_TEMP_Q2 q2.toNat) PRM_THERM_HI_TEMP_Q3 q3.toNat
  .next ((List.range 5).foldl sensorRead (setF s1 PRM_THERM_CTL_HUB hub.toNat))

/-- THERMAL_TRIP (R492, R506): a sensor has read 125 °C or more for 1 ms: a quadrant die is reinitialised into OFF, the hub's applies a chip reset. Log: 109 DEDUCED. -/
def execThermalTrip (sensor : Fin 5) (s : State) : Res :=
  match smGet (fun _ => none) s.hotSince sensor.val with
  | some t =>
    if reached s (t + 1000000000) = false then .next s
    else if sensor.val < 4 then .next (startReinit s sensor.val 4)
    else .next (chipReset s 3 0)
  | none => .next s

end Sys2Proof.Machine
end

