-- ==== Sys2Proof/Machine/Issue.lean ====
section
/-!
DEFINITION. The issue of a bundle (spec/05_phimar_scalar.md R177 to R196, R204 to R210; spec/06_phimar_vector.md R231 to R234, R240 to R243; spec/07_memory.md R246,
R257, R267): its faults in SLOT order, the scalar operations, the memory accesses, the sequence of bundles, and the end of a task.
-/

namespace Sys2Proof.Machine

/-! ## Scalar operations (R180 to R184) -/

/-- The product that MACL, MACH and MSUL add. -/
def macProd (op : SOp) (a b : Nat) : Int :=
  match op with
  | .mach => signedOf 16 (a / 65536) * signedOf 16 (b / 65536)
  | .msul => -(signedOf 16 a * signedOf 16 b)
  | _ => signedOf 16 a * signedOf 16 b

/-- The result of a class A or M operation that writes a scalar register, with whether it saturated; d is the present value of rd. -/
def alu (op : SOp) (sat : Bool) (a b d imm : Nat) : Nat × Bool :=
  let x := signedOf 32 a
  let y := signedOf 32 b
  match op with
  | .add => reduce 32 sat (x + y)
  | .sub => reduce 32 sat (x - y)
  | .addi => reduce 32 sat (x + signedOf 12 imm)
  | .and => (a &&& b, false)
  | .or => (a ||| b, false)
  | .xor => (a ^^^ b, false)
  | .ori => (a ||| imm, false)
  | .shl => reduce 32 sat (x * 2 ^ (b % 64))
  | .shr => (a / 2 ^ (b % 64), false)
  | .sra => (unsignedOf 32 (x / 2 ^ (b % 64)), false)
  | .shli => reduce 32 sat (x * 2 ^ (imm % 32))
  | .shri => (a / 2 ^ (imm % 32), false)
  | .srai => (unsignedOf 32 (x / 2 ^ (imm % 32)), false)
  | .min => (unsignedOf 32 (min x y), false)
  | .max => (unsignedOf 32 (max x y), false)
  | .abs => reduce 32 sat x.natAbs
  | .slt => (ofBool (decide (x < y)), false)
  | .sltu => (ofBool (decide (a < b)), false)
  | .seq => (ofBool (a == b), false)
  | .movhi => (imm * 65536, false)
  | .orlo => (d ||| imm, false)
  | .exp => (leadingSame 32 a - 1, false)
  | .norm => (a * 2 ^ (leadingSame 32 a - 1) % 2 ^ 32, false)
  | .mul => reduce 32 sat (x * y)
  | .mulh => (unsignedOf 32 (x * y / 2 ^ 32), false)
  | _ => (0, false)

/-- The latency of an operation that writes a scalar register (R180, R186). -/
def aluLat (op : SOp) : Nat := match op with | .mul | .mulh | .exta | .expa => 2 | _ => 1

/-- Is there a MOVA of accumulator a among the writes that this bundle has put in flight (from number n)? -/
def movaHere (u : Tile) (n a : Nat) : Bool := (u.flights.drop n).any fun f => f.dst == .acc a true

/-- An accumulation (R181, R182): it builds on every earlier one, or on the MOVA of the SA slot of the same bundle. n is the number of writes in flight before the bundle. -/
def accumulate (u : Tile) (n a : Nat) (sat : Bool) (prod : Int) : Tile :=
  if movaHere u n a then
    (let old := ((u.flights.drop n).find? fun f => f.dst == .acc a true).elim 0 fun f => signedOf 40 f.val
     let r := reduce 40 sat (old + prod)
     let put := fun (f : Flight) => if f.dst == .acc a true then { f with val := r.1 } else f
     pushSat { u with flights := u.flights.take n ++ (u.flights.drop n).map put } 2 r.2)
  else
    (let r := reduce 40 sat (accRunGet u a + prod)
     pushSat (push { u with accRun := smPut (fun _ => (0 : Acc)) a (BitVec.ofNat 40 r.1) u.accRun } 2 (.acc a false) r.1) 2 r.2)

/-- A syllable of SA or SB issues: t is the core as it reads it, u the core that collects writes. Control transfers are taken by `nextPc`. -/
def scExec (s : State) (t u : Tile) (n : Nat) (op : SOp) (sat : Bool) (rd ra rb imm : Nat) : State × Tile :=
  match op with
  | .nop | .beqz | .bnez | .bltz | .bgez | .bgtz | .blez | .br | .call | .jr | .rep | .repi | .loop | .loopi | .taskEnd | .reti | .wfe => (s, u)
  | .macl | .mach | .msul => (s, accumulate u n rd sat (macProd op (sGet t ra) (sGet t rb)))
  | .mova => (s, push u 2 (.acc rd true) (unsignedOf 40 (sInt t ra)))
  | .exta => (let r := reduce 32 sat (shiftRound (accGet t ra) (sInt t rb))
              (s, pushSat (push u 2 (.s rd) r.1) 2 r.2))
  | .expa => (s, push u 2 (.s rd) (unsignedOf 32 ((leadingSame 40 (unsignedOf 40 (accGet t ra)) : Int) - 9)))
  | .rotb => (s, push u 1 (.creg 0x006) ((t.vrb + imm) % 16))
  | .mfc => (let (v, u1, s1) := cregRead s u imm
             (s1, push u1 1 (.s rd) v))
  | .mtc => (s, push u 1 (.creg imm) (sGet t ra))
  | _ => (let r := alu op sat (sGet t ra) (sGet t rb) (sGet t rd) imm
          (s, pushSat (push u (aluLat op) (.s rd) r.1) (aluLat op) r.2))

/-! ## Loads and stores (R185, R231 to R234) -/

/-- Bytes of a scalar access; 0 for an operation that makes none. -/
def accSize (op : LOp) : Nat :=
  match op with
  | .ldw | .stw | .ldwPost | .stwPost => 4
  | .ldh | .ldhu | .sth => 2
  | .ldb | .ldbu | .stb => 1
  | .nop | .fence | .vld | .vst | .vldx | .vstx => 0

/-- Does the operation write memory? -/
def isStore (op : LOp) : Bool := [LOp.stw, .sth, .stb, .stwPost, .vst, .vstx].contains op

/-- Is it a vector memory syllable? -/
def isVecMem (op : LOp) : Bool := [LOp.vld, .vst, .vldx, .vstx].contains op

/-- The address of an LS syllable: ra + sext(IMM12), or ra for the post-increment and vector forms. -/
def lsAddr (t : Tile) (op : LOp) (ra imm : Nat) : Nat :=
  match op with
  | .ldwPost | .stwPost | .vld | .vst | .vldx | .vstx => sGet t ra
  | .nop | .ldw | .ldh | .ldhu | .ldb | .ldbu | .stw | .sth | .stb | .fence => unsignedOf 32 (sInt t ra + signedOf 12 imm)

/-- The element width in memory and the count of a vector memory syllable. -/
def vmShape (t : Tile) (op : LOp) (type : Nat) : Nat × Nat :=
  match op with
  | .vldx | .vstx => (4, eltCount t 0)
  | _ => (eltW type, eltCount t type)

/-- The increment of R233. -/
def vmStep (op : LOp) (w n : Nat) : Nat :=
  match op with
  | .vldx | .vstx => ceilDiv n 2
  | _ => 5 * ceilDiv (n * w) 40

/-- How a syllable fares before it takes effect: it may fault, with cause, ebad, whether it counts as ECC, and, for a vector memory syllable, the element and the
reason; or meet an uncorrectable scratchpad granule at an address, which ends the task (R207). -/
inductive Check where
  | ok
  | fault (cause ebad : Nat) (ecc : Bool) (elem : Option (Nat × Nat))
  | dead (addr : Nat)
deriving DecidableEq, Repr

/-- The element at which a vector memory syllable resumes: vx_index for the first bundle after RETI at the PC of the fault, otherwise 0 (R242). -/
def resumeAt (t : Tile) : Nat := if t.afterReti ∧ t.vxPc = some t.pc then t.vxIndex else 0

/-- The bytes of element i of width w, counted from the start of an access. -/
def eltSpan (w i : Nat) : List Nat := (List.range ((eltBytes w i).2 - (eltBytes w i).1)).map fun j => (eltBytes w i).1 + j

/-- The elements that a vector memory syllable accesses: the active ones from where it resumes (R221, R242). -/
def vmElts (t : Tile) (op : LOp) (m type : Nat) : List Nat := (activeElts t m (vmShape t op type).2).filter fun i => decide (resumeAt t ≤ i)

/-- The bytes that it accesses. -/
def vmBytes (t : Tile) (op : LOp) (m type : Nat) : List Nat := (vmElts t op m type).flatMap (eltSpan (vmShape t op type).1)

/-- The first byte in the CSM that a vector memory syllable accesses (R234); one that accesses nothing is taken by its address. -/
def vmCsm (t : Tile) (op : LOp) (ra m type : Nat) : Option Nat :=
  let a := sGet t ra
  match vmBytes t op m type with
  | [] => if tileCsm a then some a else none
  | bs => (bs.map (a + ·)).find? tileCsm

/-- The granules of the CSM that a list of bytes from address a lies in, each by an address in it (R234). -/
def csmGranules (a : Nat) (bs : List Nat) : List Nat := (((bs.map (a + ·)).filter tileCsm).map fun b => b / 32 * 32).eraseDups

/-- The checks of a vector memory syllable in order: alignment, REP_CSM, then its elements (R192, R232, R240, R241). -/
def vmCheck (s : State) (p : Nat) (t : Tile) (op : LOp) (ra m type : Nat) : Check :=
  let a := sGet t ra
  let w := (vmShape t op type).1
  let es := vmElts t op m type
  let bytes := eltSpan w
  let noAcc := fun b => !byteOk t (isStore op) (a + b)
  let noEcc := fun b => !isStore op && tileCsm (a + b) && byteBad s (vecFlat p (a + b))
  if (op = .vld ∨ op = .vst) ∧ 4 < type then .fault 0x01 0 false none
  else if (op = .vld ∨ op = .vst) ∧ regionOfs a % 5 ≠ 0 then .fault 0x06 a false none
  else if t.rep.isSome ∧ (vmCsm t op ra m type).isSome = true then .fault 0x08 a false none
  else
    let bad := es.find? fun i => (bytes i).any fun b => noAcc b || noEcc b
    let good := match bad with | some k => es.filter fun i => decide (i < k) | none => es
    let dead := if isStore op then none
      else (good.flatMap bytes).find? fun b => !tileCsm (a + b) && byteBad s (vecFlat p (a + b))
    match dead, bad with
    | some b, _ => .dead (a + b)
    | none, some k =>
      let reason := if (bytes k).any noAcc then 1 else 2
      .fault 0x09 (a + ((bytes k).find? fun b => noAcc b || noEcc b).getD 0) (reason == 2) (some (k, reason))
    | none, none => .ok

/-- The checks of a scalar access: ACCESS, ALIGN, REP_CSM, and the data it reads (R167 to R170, R192, R257). The spec does not say which of two faults of one syllable it raises.
Log: 148 DESIGN CHOICE. -/
def smCheck (s : State) (p : Nat) (t : Tile) (op : LOp) (ra imm : Nat) : Check :=
  let a := lsAddr t op ra imm
  let size := accSize op
  if size = 0 then (if op = .fence ∧ bitsOf imm 2 2 = 3 then .fault 0x01 0 false none else .ok)
  else match placeOf p t a size (isStore op) with
    | none => .fault 0x05 a false none
    | some pl =>
      if a % size ≠ 0 then .fault 0x06 a false none
      else match pl with
        | .reg _ => .ok
        | .mem f csm =>
          if csm ∧ t.rep.isSome then .fault 0x08 a false none
          else if isStore op then .ok
          else if byteBad s f then (if csm then .fault 0x07 a true none else .dead a)
          else .ok

/-- The granules of the CSM that a syllable accesses, each by an address in it (R234); a vector access without active elements is taken by its address. Log: 18 DESIGN CHOICE. -/
def csmAccess (t : Tile) : Syl → List Nat
  | .ls op _ ra imm m type _ =>
    if isVecMem op then
      (match vmBytes t op m type with
       | [] => if tileCsm (sGet t ra) then [sGet t ra] else []
       | bs => csmGranules (sGet t ra) bs)
    else if accSize op ≠ 0 ∧ tileCsm (lsAddr t op ra imm) = true then [lsAddr t op ra imm]
    else []
  | .sc _ _ _ _ _ _ _ => []
  | .vx _ _ _ _ _ _ _ => []

/-- The wait for its CSM slot of an access of tile p to address a of its address space, w cycles from now (R20, R21). -/
def csmWaitAt (s : State) (p : Nat) (t : Tile) (w a : Nat) : Nat := slotWait (tileRequester s p) (bankOf (a - 0x08000000)) (csmCycle t + w)

/-- The wait of an access to granules of the CSM, w cycles from now: until the bank of each has served it, at most 15 cycles (R20, R21, R189, R234). -/
def csmWait (s : State) (p : Nat) (t : Tile) (w : Nat) (gs : List Nat) : Nat := gs.foldl (fun m a => max m (csmWaitAt s p t w a)) 0

/-- The value that a scalar load puts into rd, from the bytes it read (R185). -/
def loadValue (op : LOp) (v : Nat) : Nat :=
  match op with
  | .ldh => unsignedOf 32 (signedOf 16 v)
  | .ldb => unsignedOf 32 (signedOf 8 v)
  | _ => v

/-- The stream mask of a list of elements of width w. -/
def streamMask (w : Nat) (es : List Nat) : Nat := es.foldl (fun a i => a + (2 ^ w - 1) * 2 ^ (w * i)) 0

/-- Put 4-bit values into E10 elements (R231). -/
def fromNibbles (v : Nat) (es : List Nat) : Nat := es.foldl (fun a i => a + bitsOf v (4 * i) 4 * 2 ^ (10 * i)) 0
/-- Take the low four bits of E10 elements (R231). -/
def toNibbles (v : Nat) (es : List Nat) : Nat := es.foldl (fun a i => a + bitsOf v (10 * i) 4 * 2 ^ (4 * i)) 0

/-- What a vector load brings for a list of its elements: the value and the mask of bits written. -/
def vmLoad (s : State) (p : Nat) (t : Tile) (op : LOp) (ra type : Nat) (es : List Nat) : Nat × Nat :=
  let w := (vmShape t op type).1
  let stream := leNat ((List.range (((es.getLast?.getD 0) * w + w + 7) / 8)).map fun b => rdByte s (vecFlat p (sGet t ra + b)))
  match op with
  | .vldx => (fromNibbles stream es, streamMask 10 es)
  | _ => (stream &&& streamMask w es, streamMask w es)

/-- Write the bits of a mask, byte by byte from address a of tile p's address space, leaving out bytes of fenced banks (R233, R261). -/
def putMasked (s : State) (p a mask v : Nat) : Nat → Nat → List Host.Cell → List Host.Cell
  | _, 0, m => m
  | i, n + 1, m =>
    let mb := bitsOf mask (8 * i) 8
    let x := vecFlat p (a + i)
    let m1 := if mb = 0 ∨ fencedAt s x = true then m
      else smPut memDefault x (BitVec.ofNat 8 (andNot (smGet memDefault m x).toNat mb + (bitsOf v (8 * i) 8 &&& mb))) m
    putMasked s p a mask v (i + 1) n m1

/-- Make good the granules that a masked write of n bytes covers whole (R256), and read those that it takes a part of (R254). -/
def cleanMasked (s : State) (p a mask n : Nat) : State :=
  if s.poison = [] ∧ s.errs = [] then s
  else (List.range (granules a n)).foldl (fun s i =>
    let c := 32 * (a / 32 + i)
    let g := vecFlat p c / 32
    if a ≤ c ∧ c + 32 ≤ a + n ∧ bitsOf mask (8 * (c - a)) 256 = 2 ^ 256 - 1 then (if fencedAt s (32 * g) then s else putErr (setPoison s g false) g 0)
    else if bitsOf mask (8 * (max a c - a)) (8 * (min (a + n) (c + 32) - max a c)) = 0 then s
    else settlePart s g) s

/-- What a vector store writes for a list of its elements (R231, R233). -/
def vmStore (s : State) (p : Nat) (t : Tile) (op : LOp) (rd ra type : Nat) (es : List Nat) : State :=
  let w := (vmShape t op type).1
  let a := sGet t ra
  let v := match op with | .vstx => toNibbles (vGet t rd) es | _ => vGet t rd
  let mask := streamMask w es
  let n := if es = [] then 0 else ((es.getLast?.getD 0) * w + w + 7) / 8
  let s1 := cleanMasked s p a mask n
  { s1 with mem := putMasked s1 p a mask v 0 n s1.mem }

/-- A read of tile p decodes the granules that bytes from address a of its address space lie in (R254, R255). -/
def settleAt (s : State) (p a : Nat) (bs : List Nat) : State :=
  if s.poison = [] ∧ s.errs = [] then s else (bs.map fun b => vecFlat p (a + b) / 32).eraseDups.foldl settle s

/-- The granules that a load of an LS syllable reads are decoded (R254, R255). -/
def lsSettle (s : State) (p : Nat) (t : Tile) (op : LOp) (ra imm m type : Nat) : State :=
  if (s.poison = [] ∧ s.errs = []) ∨ isStore op = true then s
  else if isVecMem op then settleAt s p (sGet t ra) (vmBytes t op m type)
  else if accSize op = 0 then s
  else match placeOf p t (lsAddr t op ra imm) (accSize op) false with
    | some (.mem f _) => settle s (f / 32)
    | _ => s

/-- The writes in flight of an LS syllable that passed its checks (R185 to R187, R231 to R233, R242, R246). -/
def lsFlights (s : State) (p : Nat) (t u : Tile) (op : LOp) (rd ra imm m type : Nat) (pi : Bool) : Tile :=
  let a := lsAddr t op ra imm
  if isVecMem op then
    (let (w, n) := vmShape t op type
     let es := vmElts t op m type
     let lat := (if (vmCsm t op ra m type).isSome then 9 else 5) + (if regionOfs a % 160 = 0 then 0 else 1)
     let u1 := if isStore op then u else (let r := vmLoad s p t op ra type es; push u lat (.v (vPhys t rd) r.2) r.1)
     let u2 := if pi then push u1 1 (.s ra) ((a + vmStep op w n) % 2 ^ 32) else u1
     { u2 with vxIndex := 0, vxReason := 0 })
  else
    (let u1 := if accSize op = 0 ∨ isStore op = true then u
       else match placeOf p t a (accSize op) false with
        | some (.mem f csm) => push u (if csm then 8 else 4) (.s rd) (loadValue op (rdLe s f (accSize op)))
        | some (.reg r) => push u 8 (.s rd) (regRead s r)
        | none => u
     match op with
     | .ldwPost | .stwPost => push u1 1 (.s ra) (unsignedOf 32 (sInt t ra + signedOf 12 imm))
     | _ => u1)

/-- A store of a tile through its register window (R169, R277): TIL_MBOX of any tile, the DMA engine but for another logical tile's channel, and the check-value units; others are ignored. -/
def storeReg (s : State) (p a v : Nat) : State :=
  match regAt a with
  | none => s
  | some h =>
    match h.block with
    | .til => if h.spec.name = .TIL_MBOX then (if h.unit / 9 = p / 9 then writeMbox s h.unit v else postMbox s h.unit v) else s
    | .dma => (match h.ix with
      | [ch] => if ch < 2 ∨ ch = tileChannel s p then writeDma s (p / 9) h a v else s
      | _ => s)
    | .cvu => writeCvu s (p / 9) h a v
    | _ => s

/-- The effect of an LS syllable on memory and registers. -/
def lsStore (s : State) (p : Nat) (t : Tile) (op : LOp) (rd ra imm m type : Nat) : State :=
  if isStore op = false then s
  else if isVecMem op then
    vmStore s p t op rd ra type (vmElts t op m type)
  else match placeOf p t (lsAddr t op ra imm) (accSize op) true with
    | some (.mem f _) => wrMem s f (leBytes (accSize op) (sGet t rd))
    | some (.reg r) => storeReg s p r (sGet t rd)
    | none => s

/-! ## Faults of a bundle (R204) -/

/-- A syllable of a bundle: its word, its SLOT, and whether it faults by its encoding: a reserved opcode, or the bundle's structure (R178, R179). -/
structure Placed where
  word : Nat
  slot : Nat
  syl : Syl
  bad : Bool
deriving DecidableEq, Repr

/-- A word of a bundle as it was fetched: its SLOT, the syllable that it encodes, none for a reserved opcode, and its E. -/
structure Fetched where
  slot : Nat
  syl : Option Syl
  e : Bool
deriving DecidableEq, Repr

/-- Number the words of a bundle from i and note those that break its structure (R178, R204): of those whose SLOT is not greater than that of the one before, the first. prev is
that SLOT, none once one has been found or at the start. -/
def placeWords (prev : Option Nat) (found : Bool) (i : Nat) : List Fetched → List Placed
  | [] => []
  | x :: rest =>
    let late := !found && (match prev with | some k => decide (x.slot ≤ k) | none => false)
    ⟨i, x.slot, x.syl.getD (.sc false .nop false 0 0 0 0), x.syl.isNone || late || (x.slot == 3 && !x.e)⟩ :: placeWords (some x.slot) (found || late) (i + 1) rest

/-- The syllables of a bundle that is given, numbered. -/
def placeSyls (xs : List (Syl × Bool)) : List Placed := placeWords none false 0 (xs.map fun x => ⟨slotOf x.1, some x.1, x.2⟩)

/-- The syllables in SLOT order; a word that cannot be fetched has SLOT 4. -/
def inSlotOrder (xs : List Placed) : List Placed := [0, 1, 2, 3, 4].flatMap fun k => xs.filter fun x => x.slot == k

/-- How a syllable of SA or SB fares (R175, R179, R191 to R193, R203, R205): of two faults of one syllable the lower cause. Log: 148 DESIGN CHOICE. -/
def scCheck (t : Tile) (sb : Bool) (op : SOp) (imm : Nat) : Check :=
  if sb ∧ isControl op = true then .fault 0x01 0 false none
  else if (op = .mfc ∨ op = .mtc) ∧ cregOk imm = false then .fault 0x01 0 false none
  else if t.branch.isSome ∧ isMisplaced op = true then .fault 0x02 0 false none
  else if t.rep.isSome ∧ isControl op = true then .fault 0x02 0 false none
  else if op = .reti ∧ t.handler = .none then .fault 0x02 0 false none
  else if op = .taskEnd ∧ t.handler ≠ .none then .fault 0x02 0 false none
  else if (op = .loop ∨ op = .loopi) ∧ 3 ≤ t.loops.length then .fault 0x03 0 false none
  else .ok

/-- How one syllable of a bundle fares: its fetch, the structure, then what it does (R172, R178, R204, R223). -/
def sylCheck (s : State) (p : Nat) (t : Tile) (x : Placed) : Check :=
  if t.codeLen ≤ t.pc + 4 * x.word then .fault 0x04 (t.pc + 4 * x.word) false none
  else if x.bad then .fault 0x01 0 false none
  else match x.syl with
    | .sc sb op _ _ _ _ imm => scCheck t sb op imm
    | .ls op _ ra imm m type _ => if isVecMem op then vmCheck s p t op ra m type else smCheck s p t op ra imm
    | .vx op _ _ _ _ _ type => if vxTypeOk op type then .ok else .fault 0x01 0 false none

/-- The first syllable in SLOT order that does not pass. -/
def firstCheck (s : State) (p : Nat) (t : Tile) : List Placed → Option (Check × Syl)
  | [] => none
  | x :: rest => match sylCheck s p t x with
    | .ok => firstCheck s p t rest
    | c => some (c, x.syl)

/-! ## The sequence of bundles (R190 to R196) -/

/-- The bundle that follows the one at pc, which is `next` where no loop goes back, with the loops left and whether a loop with ROT went back; loops are innermost
first (R194). -/
def advance (next : Nat) : List HwLoop → Nat → Nat × List HwLoop × Bool
  | [], _ => (next, [], false)
  | l :: rest, pc =>
    if l.stop = pc then (if 0 < l.left then (l.start, { l with left := l.left - 1 } :: rest, l.rot) else advance next rest pc)
    else (next, l :: rest, false)

/-- Loops whose body does not hold the target of a taken branch are removed, from the innermost outwards (R195). -/
def leaveLoops (target : Nat) (ls : List HwLoop) : List HwLoop := ls.dropWhile fun l => decide (target < l.start ∨ l.stop < target)

/-- The PC n bundles on in execution order (R190). Log: 48 DEDUCED. -/
def lookAhead (s : State) (t : Tile) : Nat → List HwLoop → Nat → Nat
  | 0, _, pc => pc
  | n + 1, ls, pc => (let r := advance (pc + 4 * bundleLen s t pc) ls pc; lookAhead s t n r.2.1 r.1)

/-- The control operation of a bundle with its operands. -/
def controlOf : List Placed → Option (SOp × Nat × Nat)
  | [] => none
  | x :: rest => match x.syl with
    | .sc false op _ _ ra _ imm => if isControl op then some (op, ra, imm) else controlOf rest
    | _ => controlOf rest

/-- A 32-bit program-relative target (R190). -/
def branchTarget (pc imm : Nat) : Nat := unsignedOf 32 ((pc : Int) + 4 * signedOf 17 imm)

/-- A loop ends a pass of a loop with ROT: vrb rises by 1 for the next bundle (R196). -/
def rotate (u : Tile) (n : Nat) (rot : Bool) : Tile :=
  if rot then
    (let base := (((u.flights.drop n).filter fun f => f.dst == .creg 0x006).getLast?).elim u.vrb (·.val)
     push u 1 (.creg 0x006) ((base + 1) % 16))
  else u

/-- Go on after the bundle at the PC by the rule of loops, to `next` where no loop goes back. Log: 46 DEDUCED, 47 DEDUCED. -/
def goTo (u : Tile) (n next : Nat) : Tile :=
  let r := advance next u.loops u.pc
  rotate { u with pc := r.1, loops := r.2.1 } n r.2.2

/-- Go on after a bundle of len words by the rule of loops. -/
def stepOn (u : Tile) (n len : Nat) : Tile := goTo u n (u.pc + 4 * len)

/-- Start a repetition of the next bundle (R192): count 0 skips it, and a skipped body ends no pass of a loop. Log: 47 DEDUCED, 148 DESIGN CHOICE. -/
def startRep (s : State) (u : Tile) (n len count : Nat) : Tile :=
  let v := stepOn u n len
  if min count 1024 = 0 then { v with pc := v.pc + 4 * bundleLen s v v.pc } else { v with rep := some (min count 1024) }

/-- Start a loop (R193): count 0 goes on after its end bundle. Log: 46 DEDUCED. -/
def startLoop (s : State) (u : Tile) (n len count : Nat) (rot : Bool) (endW : Nat) : Tile :=
  let start := u.pc + 4 * len
  let stop := start + 4 * endW
  if count = 0 then goTo u n (stop + 4 * bundleLen s u stop) else { u with pc := start, loops := ⟨start, stop, count - 1, rot⟩ :: u.loops }

/-- The core after a bundle of len words has issued: where it goes on (R190 to R196). t is the core as the bundle read it. -/
def nextPc (s : State) (t u : Tile) (n len : Nat) (ctl : Option (SOp × Nat × Nat)) : Tile :=
  match t.branch with
  | some (1, some target) => { u with branch := none, pc := target, loops := leaveLoops target u.loops }
  | some (1, none) => stepOn { u with branch := none } n len
  | some (k, target) => stepOn { u with branch := some (k - 1, target) } n len
  | none =>
    match t.rep with
    | some k => if 1 < k then { u with rep := some (k - 1) } else stepOn { u with rep := none } n len
    | none =>
      match ctl with
      | some (.jr, ra, _) => stepOn { u with branch := some (3, some (sGet t ra / 4 * 4)) } n len
      | some (.call, _, imm) =>
        let r := advance (u.pc + 4 * len) u.loops u.pc
        let link : Flight := ⟨0, .s 31, lookAhead s u 3 r.2.1 r.1 % 2 ^ 32⟩
        stepOn { u with branch := some (3, some (branchTarget u.pc imm)), flights := u.flights.take n ++ link :: u.flights.drop n } n len
      | some (.rep, ra, _) => startRep s u n len (sGet t ra)
      | some (.repi, _, imm) => startRep s u n len imm
      | some (.loop, ra, imm) => startLoop s u n len (sGet t ra) (bitOf imm 16 == 1) (bitsOf imm 0 16)
      | some (.loopi, _, imm) => startLoop s u n len (bitsOf imm 11 11) (bitOf imm 10 == 1) (bitsOf imm 0 10)
      | some (.beqz, ra, imm) | some (.bnez, ra, imm) | some (.bltz, ra, imm) | some (.bgez, ra, imm) | some (.bgtz, ra, imm)
      | some (.blez, ra, imm) | some (.br, ra, imm) =>
        let op := (ctl.getD (.br, 0, 0)).1
        stepOn { u with branch := some (3, if branchTaken op (sInt t ra) then some (branchTarget u.pc imm) else none) } n len
      | _ => stepOn u n len

/-! ## Issue -/

/-- Run the syllables of a bundle in SLOT order over the core as they read it: their register writes are put in flight. -/
def runSyls (p : Nat) (t : Tile) (n : Nat) : List Placed → State → Tile → State × Tile
  | [], s, u => (s, u)
  | x :: rest, s, u =>
    match x.syl with
    | .sc _ op sat rd ra rb imm => (let r := scExec s t u n op sat rd ra rb imm; runSyls p t n rest r.1 r.2)
    | .ls op rd ra imm m type pi => (let s1 := lsSettle s p t op ra imm m type; runSyls p t n rest s1 (lsFlights s1 p t u op rd ra imm m type pi))
    | .vx op sat vd va vb m type => runSyls p t n rest s (vxExec t u op sat vd va vb m type)

/-- The stores of a bundle. -/
def storeSyls (p : Nat) (t : Tile) (xs : List Placed) (s : State) : State :=
  xs.foldl (fun s x => match x.syl with
    | .ls op rd ra imm m type _ => lsStore s p t op rd ra imm m type
    | _ => s) s

/-- Clear the bits of a physical vector register from the masks of its writes in flight. -/
def overwrite (r mask : Nat) (f : Flight) : Flight :=
  match f.dst with
  | .v q m => if q = r then { f with dst := .v q (andNot m mask) } else f
  | _ => f

/-- The elements below the fault of a vector memory syllable are complete (R241), their granules decoded; u is the core as the syllable read it. -/
def completeBelow (s : State) (p : Nat) (u : Tile) (t : Tile) (x : Syl) (k : Nat) : State × Tile :=
  match x with
  | .ls op rd ra _ m type _ =>
    let es := (vmElts u op m type).filter fun i => decide (i < k)
    if isStore op then (vmStore s p u op rd ra type es, t)
    else
      let s1 := settleAt s p (sGet u ra) (es.flatMap (eltSpan (vmShape u op type).1))
      let r := vmLoad s1 p u op ra type es
      let q := vPhys u rd
      (s1, landOne { t with flights := t.flights.map (overwrite q r.2) } ⟨0, .v q r.2, r.1⟩)
  | _ => (s, t)

/-- A bundle of tile p raises an exception (R204, R206, R208, R241): it does not issue; EXCEPTION_ENTRY enters the handler or ends the task. An ECC exception fails the job
at once (R257). u is the core with the due writes landed, t the core before. -/
def raiseFault (s : State) (p : Nat) (u t : Tile) (x : Syl) (cause ebad : Nat) (ecc : Bool) (elem : Option (Nat × Nat)) : State :=
  let s1 := if ecc then failTileJob (settle s (vecFlat p ebad / 32)) p 0x20 0x42 else s
  match elem with
  | some (k, reason) =>
    let (s2, t2) := completeBelow s1 p u t x k
    setTile s2 p { t2 with fault := some (cause, ebad, ecc), vxIndex := k, vxReason := reason, vxPc := some t.pc }
  | none => setTile s1 p { t with fault := some (cause, ebad, ecc) }

/-- The writes in flight that are due to control registers land: what a WFE that waits sees (R189, R198). -/
def landCregs (s : State) (t : Tile) : State × Tile :=
  let due := fun (f : Flight) => f.left == 0 && (match f.dst with | .creg _ => true | _ => false)
  landAll s { t with flights := t.flights.filter fun f => !due f } (t.flights.filter due)

/-- The mask of a WFE of the bundle. -/
def wfeMask (ctl : Option (SOp × Nat × Nat)) : Nat := match ctl with | some (.wfe, _, imm) => imm | _ => 0

/-- The accumulations among the held writes are earlier ones of the task again: the next one builds on them (R182, R203, R227). -/
def regainHeld (u : Tile) : Tile :=
  u.held.foldl (fun u f => match f.dst with
    | .acc a false => { u with accRun := smPut (fun _ => (0 : Acc)) a (BitVec.ofNat 40 f.val) u.accRun }
    | .vacc a => { u with vaccRun := smPut (fun _ => (0 : BitVec 5120)) a (BitVec.ofNat 5120 f.val) u.vaccRun }
    | _ => u) u

/-- The task of tile p takes RETI (R203): the handler ends, the held writes go on, one cycle passes. A body whose repetition raised the exception goes on with those left where the
handler returns to it (R192). -/
def takeReti (t u : Tile) : Tile :=
  let exc := t.handler == .exception
  let pc := if exc then t.epc.toNat else t.ipc.toNat
  noteSince { regainHeld u with
    handler := .none, pc := pc, flights := u.held ++ u.flights, held := [], branch := if exc then u.savedBranch else none, savedBranch := none,
    rep := if exc then (match u.savedRep with | some (x, n) => if x = pc then some n else none | none => none) else none, savedRep := none,
    cycle := u.cycle + 1, budget := u.budget - 1, afterReti := exc }

/-- The bundle issues (R187, R189, R209, R210): t is the core with the due writes landed, w the cycles it waited for the CSM. Log: 49 DEDUCED. -/
def issueNow (s : State) (p : Nat) (t : Tile) (w len : Nat) (xs : List Placed) : State :=
  let ctl := controlOf xs
  let t1 : Tile := { t with cycle := t.cycle + BitVec.ofNat 64 w, budget := t.budget - w, wait := none }
  let resumed := t1.afterReti && t1.vxPc != some t1.pc
  let t2 := if resumed then { t1 with vxIndex := 0, vxReason := 0 } else t1
  let n := t2.flights.length
  let (s1, u) := runSyls p t2 n xs s t2
  let u1 := nextPc s t2 u n len ctl
  let u2 : Tile :=
    { u1 with cycle := u1.cycle + 1, budget := u1.budget - 1, first := false, afterReti := false, vxPc := if t2.afterReti then none else u1.vxPc }
  let u3 := match ctl with | some (.reti, _, _) => takeReti t2 u2 | _ => u2
  let s2 := storeSyls p t2 xs (setTile s1 p u3)
  match ctl with
  | some (.taskEnd, _, _) => endTile s2 p .done
  | _ => s2

/-- The first word of a bundle that lies in an uncorrectable granule (R207). -/
def badWord (s : State) (t : Tile) (xs : List Placed) : Option Nat :=
  (xs.find? fun x => decide (t.pc + 4 * x.word < t.codeLen) && granBad s ((t.code + t.pc + 4 * x.word) / 32)).map (·.word)

/-- The granules that a bundle of len words is fetched from are decoded (R255). -/
def fetchSettle (s : State) (t : Tile) (len : Nat) : State := readBad s (t.code + t.pc) (min (4 * len) (t.codeLen - t.pc))

/-- The granules of the CSM that a syllable that faults has accessed: those of the elements below the fault, and what an ECC exception has read (R205, R241). -/
def faultCsm (u : Tile) (x : Syl) (ecc : Bool) (elem : Option (Nat × Nat)) : List Nat :=
  match x, elem with
  | .ls op _ ra _ m type _, some (k, _) =>
    csmGranules (sGet u ra) (((vmElts u op m type).filter fun i => decide (i < k) || (ecc && i == k)).flatMap (eltSpan (vmShape u op type).1))
  | _, _ => if ecc then csmAccess u x else []

/-- Of the bytes that an access of a syllable reads in order, those up to an address. -/
def readUpTo (u : Tile) (x : Syl) (a : Nat) : List Nat :=
  match x with
  | .ls op _ ra _ m type _ => if isVecMem op then (vmBytes u op m type).filter fun b => decide (sGet u ra + b ≤ a) else []
  | _ => []

/-- What becomes of a bundle before it may issue: it faults or ends the task, or passes with the due writes landed. -/
inductive Fate where
  | stops (s : State)
  | passes (s : State) (u : Tile)

/-- The checks of a bundle of tile p in SLOT order: an uncorrectable fetch or scratchpad read ends the task (R207), a fault is raised (R204), after the wait of what was accessed of the CSM
(R189, R210). t is the core with nothing staged. -/
def bundleFate (s : State) (p : Nat) (t : Tile) (xs : List Placed) : Fate :=
  match badWord s t xs with
  | some i => .stops (memoryFault (setTile (readBad s (t.code + t.pc) (4 * (i + 1))) p t) p 0x10 (t.pc + 4 * i) 0x40)
  | none =>
    let s0 := fetchSettle s t xs.length
    let (s1, u) := land s0 t
    match firstCheck s p u (inSlotOrder xs) with
    | some (.dead a, x) =>
      let ra := match x with | .ls _ _ ra _ _ _ _ => sGet u ra | _ => a
      let s2 := match readUpTo u x a with | [] => settle s0 (vecFlat p a / 32) | bs => settleAt s0 p ra bs
      .stops (memoryFault (setTile s2 p t) p 0x12 a 0x42)
    | some (.fault cause ebad ecc elem, x) =>
      let w := csmWait s p u 0 (faultCsm u x ecc elem)
      if u.budget ≤ w ∧ 0 < w then .stops (setTile s0 p { t with budget := 0, cycle := t.cycle + BitVec.ofNat 64 t.budget })
      else .stops (raiseFault s0 p u { t with budget := t.budget - w, cycle := t.cycle + BitVec.ofNat 64 w } x cause ebad ecc elem)
    | _ => .passes s1 u

/-- A bundle of len words that passed its checks waits for its WFE and for the CSM, and issues (R189, R198, R210). -/
def afterWaits (s : State) (p : Nat) (t u : Tile) (len : Nat) (xs : List Placed) : State :=
  let (k, s1) := if t.wait.isSome then takeFree s else (0, s)
  let w1 := if t.wait.isSome then Config.wfeCycles k else 0
  let w := w1 + csmWait s p u w1 (xs.flatMap fun x => csmAccess u x.syl)
  if u.budget ≤ w ∧ 0 < w then setTile s p { t with budget := 0, cycle := t.cycle + BitVec.ofNat 64 t.budget }
  else issueNow s1 p u w len xs

/-- Issue a bundle of tile p, given as its syllables with their E bits: it may fault (R204), a WFE may wait (R198), a CSM access waits for its slot (R189), and then the bundle
issues. Log: 18 DESIGN CHOICE, 44 DESIGN CHOICE, 51 DESIGN CHOICE. -/
def issueBundle (s : State) (p : Nat) (syls : List (Syl × Bool)) : State :=
  let t := { getTile s p with stage := [] }
  let xs := inSlotOrder (placeSyls syls)
  let mask := wfeMask (controlOf xs)
  match bundleFate s p t xs with
  | .stops s1 => s1
  | .passes s1 u =>
    if mask ≠ 0 ∧ u.irqPend &&& mask = 0 then
      (let (s2, v) := landCregs s t
       setTile s2 p { v with wait := some mask })
    else if t.wait.isSome ∧ mask = 0 then setTile s p t
    else afterWaits s1 p t u syls.length xs

/-- Does tile p take the next syllable: it runs a task with budget left, no exception is being entered, and no end of task waits for DMA (R209, R210)? A tile runs one task at a time (R17). Log: 54 DEDUCED. -/
def tileTakes (t : Tile) : Bool := t.running && t.fault.isNone && t.ending.isNone && !t.halted && decide (1 ≤ t.budget)

/-- A syllable of the bundle at the PC of a tile (R177, R178): the bundle issues with the syllable whose E is 1. A tile that takes none ignores it. Log: 44 DESIGN CHOICE. -/
def giveSyllable (p : Nat) (e : Bool) (x : Syl) (s : State) : State :=
  let t := getTile s p
  if tileTakes t then
    (if e then issueBundle s p (t.stage ++ [(x, e)]) else setTile s p { t with stage := t.stage ++ [(x, e)] })
  else s

end Sys2Proof.Machine
end

