-- ==== Sys2Proof/Machine/TileEvents.lean ====
section
/-!
DEFINITION. Events of a tile: interrupt and exception entry, the timer, the mailbox and the end of the budget (spec/05_phimar_scalar.md R197 to R210).
-/

namespace Sys2Proof.Machine

/-- Enter a handler (R201, R202, R206): the writes in flight are held, accumulations build on the values from before them, and the PC is the handler's entry after 6 cycles. -/
def enterHandler (t : Tile) (h : Handler) (vec : Word) : Tile :=
  noteSince { t with handler := h, pc := vec.toNat, held := t.flights, flights := [], accRun := t.acc, vaccRun := t.vacc, stage := [], wait := none, fault := none, rep := none,
                     branch := none, cycle := t.cycle + 6, budget := t.budget - 6 }

/-- The lowest line that is pending (R199). -/
def pendingLine (t : Tile) : Option Nat := [0, 1, 2].find? fun l => bitOf t.irqPend l == 1 && bitOf t.irqMask l == 1

/-- May an interrupt be taken at this boundary (R199)? -/
def takesIrq (t : Tile) : Bool :=
  tileTakes t && !t.first && t.branch.isNone && t.rep.isNone && t.handler == .none && t.ivec != 0xFFFFFFFF

/-- The words at the PC, as a bundle is fetched from them (R172, R178, R179): up to the first with E of 1, at most m; one at or beyond CODE_LEN cannot be fetched. -/
def fetchWords (s : State) (t : Tile) : Nat → Nat → List Fetched
  | _, 0 => []
  | i, m + 1 =>
    if t.codeLen ≤ t.pc + 4 * i then [⟨4, none, false⟩]
    else
      let w := rdLe s (t.code + t.pc + 4 * i) 4
      let x : Fetched := ⟨bitsOf w 29 2, decodeSyllable w, bitOf w 31 == 1⟩
      if x.e then [x] else x :: fetchWords s t (i + 1) m

/-- The CSM granules that the bundle at the PC accesses, where it can be formed (R199). -/
def nextCsm (s : State) (t : Tile) : List Nat :=
  let xs := fetchWords s t 0 4
  if xs.any fun x => x.syl.isNone then [] else (inSlotOrder (placeWords none false 0 xs)).flatMap fun x => csmAccess t x.syl

/-- The cycles that have passed at the boundary of tile p at which an interrupt on line l is taken: those of a WFE that waits, which end with it, or those of a CSM access that waits, which
it abandons where it became pending during the wait (R198, R199). How many of them have passed is free. Log: 18 DESIGN CHOICE, 51 DESIGN CHOICE. -/
def waitedCycles (s : State) (p : Nat) (t : Tile) (l n : Nat) : Nat :=
  if t.wait.isSome then Config.wfeCycles n
  else if getAt none t.since l = some t.cycle.toNat then
    min (csmWait s p t 0 (nextCsm s (land s t).2)) (Config.csmWaited n)
  else 0

/-- INTERRUPT_ENTRY (R199 to R202): the lowest pending line is taken at a bundle boundary. An interrupt that ends a wait has been held from that instant only (R200). 
Log: 51 DESIGN CHOICE. -/
def execInterruptEntry (p : Fin 288) (s : State) : Res :=
  let t := getTile s p.val
  match pendingLine t with
  | none => .next s
  | some l =>
    if takesIrq t = false then .next s
    else
      let (n, s1) := takeFree s
      let w := waitedCycles s p.val t l n
      if t.budget ≤ w then .next (setTile s p.val { t with budget := 0, cycle := t.cycle + BitVec.ofNat 64 t.budget })
      else
        let t1 : Tile := { t with cycle := t.cycle + BitVec.ofNat 64 w, budget := t.budget - w }
        let hold := if t.wait.isSome = true ∨ 0 < w then 6 else t1.cycle.toNat + 6 - (getAt none t1.since l).getD t1.cycle.toNat
        let t2 : Tile := { t1 with ipc := BitVec.ofNat 32 t1.pc, irqPend := andNot t1.irqPend (2 ^ l), irqHold := hold }
        .next (setTile s1 p.val (enterHandler t2 .interrupt t2.ivec))

/-- Tile p enters the exception that its bundle has raised (R206 to R208, R243): epc, ecause and ebad are written and the handler is entered; with a handler active, or with none, the
task ends as though its budget were exhausted, with TIL_FAULT. The repetitions of a body that did not raise REP_CSM are kept (R192); after REP_CSM none are, and RETI to the body's PC issues it as an ordinary bundle. Where the first
bundle after RETI raised another exception, the handler's bundle issues first, and vx_index returns to 0 (R242). Log: 45 DEDUCED, 148 DESIGN CHOICE. -/
def enterFault (s : State) (p : Nat) (f : Nat × Nat × Bool) : State :=
  let t := getTile s p
  let (cause, ebad, ecc) := f
  let t1 : Tile := { t with ecause := cause, ebad := BitVec.ofNat 32 ebad, fault := none }
  if t.handler ≠ .none ∨ t.evec = 0xFFFFFFFF then
    (let s1 := setTilFault (setTile s p { t1 with cycle := t.cycle + 1, budget := t.budget - 1 }) p cause t.pc ebad (t.handler != .none) t.task
     endTile s1 p (if ecc then .ecc else .overrun))
  else
    let t2 : Tile :=
      { t1 with epc := BitVec.ofNat 32 t.pc, savedBranch := t.branch, savedRep := if cause = 0x08 then none else t.rep.map fun n => (t.pc, n), afterReti := false,
                vxPc := if cause = 0x09 then t.vxPc else none, vxIndex := if t.afterReti ∧ cause ≠ 0x09 then 0 else t.vxIndex,
                vxReason := if t.afterReti ∧ cause ≠ 0x09 then 0 else t.vxReason }
    setTile s p (enterHandler t2 .exception t2.evec)

/-- The words at the PC cannot form a bundle: one cannot be fetched or is reserved, or none ends it (R172, R178, R179). Their fault is raised in SLOT order with those of the bundle's other
syllables (R204). Log: 44 DESIGN CHOICE. -/
def scanBundle (s : State) (p : Nat) (t : Tile) : State :=
  let xs := fetchWords s t 0 4
  if (xs.all fun x => x.syl.isSome) && (xs.any fun x => x.e) then s
  else match bundleFate s p t (placeWords none false 0 xs) with
    | .stops s1 => s1
    | .passes _ _ => s

/-- EXCEPTION_ENTRY (R204 to R208, R243): tile p enters the exception that its bundle raised, or that of words at its PC from which no bundle can be formed. Log: 45 DEDUCED. -/
def execExceptionEntry (p : Fin 288) (s : State) : Res :=
  let t := getTile s p.val
  if ¬ t.running ∨ t.halted = true then .next s
  else match t.fault with
    | some f => .next (enterFault s p.val f)
    | none =>
      if tileTakes t = false ∨ t.stage ≠ [] then .next s
      else
        let s1 := scanBundle s p.val t
        .next (match (getTile s1 p.val).fault with | some f => enterFault s1 p.val f | none => s1)

/-- TIMER_COMPARE (R197): tct reaches the armed compare instant of a running tile. -/
def execTimerCompare (p : Fin 288) (s : State) : Res :=
  let t := getTile s p.val
  .next (if t.running then (let r := checkTimer s t; setTile r.1 p.val r.2) else s)

/-- TIL_MBOX_WRITE (R44, R197): a write of TIL_MBOX. -/
def execTilMboxWrite (p : Fin 288) (v : Word) (s : State) : Res :=
  .next (if blockLive s .til p.val then writeMbox s p.val v.toNat else s)

/-- BUDGET_EXHAUSTED (R210): the counter reaches 0 without TASK_END, perhaps while a WFE waits; the task ends and its job ends FAILED_OVERRUN with detail BUDGET. -/
def execBudgetExhausted (p : Fin 288) (s : State) : Res :=
  let t := getTile s p.val
  .next (if t.running ∧ t.ending.isNone ∧ (t.budget = 0 ∨ t.wait.isSome = true) then endTile (setTile s p.val { t with budget := 0, fault := none }) p.val .overrun else s)

end Sys2Proof.Machine
end

