-- ==== Sys2Proof/Machine/Starts.lean ====
section
/-!
DEFINITION. The start and the end of tasks (spec/04_dahlia.md R154 to R157; spec/05_phimar_scalar.md R176; spec/03_slot_contract.md R103, R111; spec/15_faults.md R503,
R504): input arrival, dispatch, and the engines' operations.
-/

namespace Sys2Proof.Machine

/-! ## Input arrival (R154) -/

/-- The groups of a time-domain port that touch symbols a to b of a slot (R293, R297): the first, and how many. -/
def inputGroups (s : State) (q l p mu : Nat) (ofs slot : Int) (a b : Nat) : Int × Nat :=
  let r := lanePeriod s l
  let w := wholePeriods (dRx s q l p) r
  let m0 := firstSample (symStartTc mu slot a) ofs r + w
  let m1 := firstSample (symStartTc mu slot (b + 1)) ofs r + w - 1
  (m0 / 18, (m1 / 18 - m0 / 18 + 1).toNat)

/-- The groups from g on, n of them, that were not received valid. -/
def missingGroups (s : State) (ap : Nat) (g : Int) (n : Nat) : List Nat :=
  ((List.range n).map fun (i : Nat) => (g + (i : Int)).toNat).filter fun x => rxGroup s ap x != some true

/-- The PRBs of symbol l of a slot that have not come for a frequency-domain entry. -/
def missingPrbs (s : State) (q : Nat) (e : LaneEnt) (slot : Int) (l : Nat) : List Nat :=
  (List.range e.nprb).filter fun i => bitOf (smGet (fun _ => 0) s.rxPrbs (prbKey q e slot l)) i == 0

/-- Are symbols a to b of a slot complete for a lane-section entry? Entries for PRACH messages carry no symbols of the slot (R416). Log: 43 DEDUCED. -/
def entComplete (s : State) (q mu : Nat) (ofs slot : Int) (a b : Nat) (e : LaneEnt) : Bool :=
  if e.fd then e.prach || (List.range (b + 1 - a)).all fun i => (missingPrbs s q e slot (a + i)).isEmpty
  else match portLane s q e.port with
    | some l =>
      let g := inputGroups s q l e.port mu ofs slot a b
      (missingGroups s (48 * q + e.port) g.1 g.2).isEmpty
    | none => false

/-- Replace what is missing of symbols a to b by zeros (R103, R154, R323). -/
def zeroInput (q mu : Nat) (ofs slot : Int) (a b : Nat) (s : State) (e : LaneEnt) : State :=
  if e.fd then
    (if e.prach then s
     else (List.range (b + 1 - a)).foldl (fun s i => (missingPrbs s q e slot (a + i)).foldl (fun s prb =>
        wrMem s (csmFlat (8 * q + e.rxCl) + recordAt e e.rxAddr e.rxGa slot (a + i) + 60 * prb) (List.replicate 60 0)) s) s)
  else match portLane s q e.port with
    | some l =>
      let g := inputGroups s q l e.port mu ofs slot a b
      (missingGroups s (48 * q + e.port) g.1 g.2).foldl (fun s x => if rxGroup s (48 * q + e.port) x = none then putGroup s l q e.port x 0 false else s) s
    | none => s

/-- The input of a node has arrived: its counter falls. -/
def inputIn (s : State) (id : Nat) : State := mapNode s id fun n => { decNode (now s) n with inputDone := true }

/-- INPUT_ARRIVAL (R103, R111, R154): the declared symbols of every port of the plan are complete, or the bound has come: then zeros stand for what is missing, and the job
ends FAILED_INPUT with detail RADIO, or DELAY_BOUND where the plan's delays are beyond its bounds. -/
def execInputArrival (node : BitVec 23) (dt : Nat) (s : State) : Res :=
  match findNode s node.toNat with
  | none => .next s
  | some (j, n) =>
    if n.cmd.inEn = false ∨ n.inputDone = true then .next s
    else match planBySeq s j.planSeq with
      | none => .next s
      | some p =>
        let s0 := atDt s dt
        let ofs := ciOfs s p.ci
        let slot := slotAt p.mu ofs j.s0
        let ents := p.parts.flatMap fun x => x.lanes.map fun e => (x.quad, e)
        if ents.all fun x => entComplete s x.1 p.mu ofs slot n.cmd.inFirst n.cmd.inLast x.2 then .next (inputIn s0 n.id)
        else if reached s n.bound = false then .next s
        else
          let s1 := ents.foldl (fun s x => zeroInput x.1 p.mu ofs slot n.cmd.inFirst n.cmd.inLast s x.2) s0
          let s2 := mapJob s1 j.recNode (failJob (now s1) ⟨max n.bound (now s), 0x22, if p.delayViol then 0x08 else 0x50, n.idx⟩)
          .next (inputIn s2 n.id)

/-! ## Dispatch (R155 to R157) -/

/-- The ready nodes of a resource. -/
def readyNodes (s : State) (k res : Nat) : List (Job × Node) :=
  s.jobs.flatMap fun j => (j.nodes.filter fun n => n.cluster == k && n.res == res && n.st == .waiting && n.readyAt.isSome && n.onChip).map fun n => (j, n)

/-- Does a node precede another in a ready list: by the opening of its window, then by identifier (R22, R155)? Log: 37 DEDUCED. -/
def readyBefore (a b : Job × Node) : Bool := decide (a.2.opn < b.2.opn ∨ (a.2.opn = b.2.opn ∧ a.2.id < b.2.id))

/-- The head of a resource's ready list. Log: 37 DEDUCED. -/
def readyHead (s : State) (k res : Nat) : Option (Job × Node) :=
  (readyNodes s k res).foldl (fun a x => match a with | some y => if readyBefore x y then some x else some y | none => some x) none

/-- The physical tile that may start a task of logical tile t of cluster k: in service, and not held by a debug session (R499, R540). -/
def startTileOf (s : State) (k t : Nat) : Option Nat :=
  (physOf s k t).filter fun p => !(getHw s p).stopped && !debugHolds s k t

/-- May an engine of cluster k start an operation: not lost, not in RESTART (R504)? -/
def engineReady (s : State) (k e : Nat) : Bool :=
  bitOf (getCl s k).lostEng e == 0 && !((getCl s k).restart.any fun x => x.1 == e && decide (now s < x.2))

/-- Can the resource start a task now? -/
def resReady (s : State) (k res : Nat) : Bool := if res < 8 then (startTileOf s k res).isSome else engineReady s k (res - 8)

/-- A task that cannot meet its window is removed (R156): the job keeps its first failing happening, or takes FAILED_HW with TILE or ENGINE. -/
def removeTask (s : State) (j : Job) (n : Node) : State :=
  let s1 := intPulse (addF s (DAH_CNT_NOSTART_NOSTART n.cluster) 1) (clSrc n.cluster 16)
  if j.fail.isSome then endNode s1 j n false else failNode s1 j n 0x20 (if n.res < 8 then 0x40 else 0x41)

/-- May the task start at this instant: it ends by its window's close, and, in a job with a redone or rerun task, 1,000 ns before the deadline (R156, R503, R504)? The window is half-open (R9), and a resource serves a plan only in its own windows (R18). -/
def meetsWindow (s : State) (j : Job) (n : Node) : Bool :=
  decide (now s + n.cost ≤ n.clo) && (!(j.nodes.any (·.redone)) || decide (now s + n.cost + 1000000 ≤ j.deadline))

/-- The core of a tile at the start of a task (R157, R176, R219), with the NS that tct is reloaded with (R60); the cycle register is not changed (R59, R175). Log: 14 DESIGN CHOICE. -/
def taskCore (s : State) (p ns : Nat) (j : Job) (n : Node) (v : ProgVer) : Tile :=
  let s6 := n.idx % 1024 + 2 ^ 16 * (j.cmd.ci % 1024)
  let regs := [argOf n 0, argOf n 1, argOf n 2, argOf n 3, j.cmd.slot, s6]
  { running := true, node := n.id, task := n.idx, prog := v.prog, code := imemFlat p + 256 * v.unit + imgW v.image 4, codeLen := imgW v.image 8,
    pc := imgW v.image 0xC, sreg := (regs.zip (List.range 6)).foldl (fun m x => smPut (fun _ => 0) (x.2 + 1) (BitVec.ofNat 32 x.1) m) [],
    cycle := (getTile s p).cycle, csm0 := ((getCl s (p / 9)).csmT + 16 - (getTile s p).cycle.toNat % 16) % 16, cycleHi := (getTile s p).cycleHi, tctNs := BitVec.ofNat 32 ns, budget := n.budget, budget0 := n.budget,
    ivec := BitVec.ofNat 32 (imgW v.image 0x28), evec := BitVec.ofNat 32 (imgW v.image 0x2C), taskinfo := BitVec.ofNat 32 s6, vl := 128,
    wins := (List.range 4).map fun w => ((getR s (TIL_CSM_WIN p w)).toNat, (getR s (TIL_CSM_LIM p w)).toNat) }

/-- Is the program version of a tile's task gone: removed because a granule of it is poisoned (R500)? Log: 40 DESIGN CHOICE. -/
def versionGone (s : State) (n : Node) : Bool := decide (n.res < 8) && !(s.progs.any fun v => n.ver == some v.id)

/-- Start a task on physical tile p, with the program version it was admitted with (R157, R166). -/
def startTile (s : State) (p : Nat) (j : Job) (n : Node) : State :=
  match s.progs.find? fun v => n.ver == some v.id with
  | some v => (let (x, s1) := tctNow s; setTile s1 p (taskCore s p x.2 j n v))
  | none => s

/-- BUSY of an engine. -/
def engBusy (k e : Nat) : Field :=
  match e with
  | 0 => XFE_STATUS_BUSY k
  | 1 => BME_STATUS_BUSY k
  | 2 => DTE_STATUS_BUSY k
  | 3 => CDE_STATUS_BUSY k
  | _ => CEE_STATUS_BUSY k

/-- The counter of an engine's operations. -/
def engOps (k e : Nat) : Field :=
  match e with
  | 0 => XFE_CNT_OP_OPS k
  | 1 => BME_CNT_OP_OPS k
  | 2 => DTE_CNT_OP_OPS k
  | 3 => CDE_CNT_OP_OPS k
  | _ => CEE_CNT_OP_OPS k

/-- Start a DMA task: the task channel takes the descriptor at ARG0 of the cluster's CSM with what ARG1 and ARG2 declare (R144, R278, R279, R283). -/
def startDma (s : State) (k : Nat) (n : Node) : State :=
  let a2 := argOf n 2
  let s1 := setF (setF s (DMA_CH_STAT_ECC k 0) 0) (DMA_CH_STAT_DONE k 0) 0
  let s0 := setAside s1 k
  let s2 := beginDescriptor (setDma s0 k 0 { getDma s0 k 0 with node := some n.id, decl := some ⟨bitsOf a2 8 3, bitsOf a2 12 3, clampNat 1 16 (bitsOf a2 0 5), min 268435456 (argOf n 1)⟩ }) k 0
  let dev := 2 * 2 ^ 60 + (k % 8) * 2 ^ 24 + argOf n 0 % 2 ^ 23
  if 2 ^ 23 ≤ argOf n 0 then stopChannel (setF s2 (DMA_CH_STAT_STATE k 0) 1) k 0 ⟨31, 2, 0, dev, false⟩ else takeDescriptor s2 k 0 dev 0 0 1

/-- Start an engine operation of a node: 0 XFE, 1 BME, 2 DTE, 3 CDE, 4 CEE, 5 DMA. Log: 38 DESIGN CHOICE. -/
def startEngine (s : State) (k e : Nat) (n : Node) : State :=
  if 5 ≤ e then startDma s k n
  else
    let s1 := setF s (engBusy k e) 1
    cvuEngBegin (if e = 3 then cdeStart s1 n else if e = 4 then ceeStart s1 n else s1) k e

/-- Start a node on its resource. Across GATE the CSM cycle has kept its value (R20). -/
def startNode (s : State) (j : Job) (n : Node) : State :=
  let k := n.cluster
  let s1 := mapNode s n.id fun x => { x with st := .running, started := now s }
  let s2 := setCl s1 k { getCl s1 k with starts := smPut (fun _ => 0) n.res (now s) (getCl s1 k).starts }
  let s3 := setF (if getF s2 (PWR_CL_STAT_STATE k) = 1 then setF s2 (PWR_CL_STAT_STATE k) 0 else passCsm s2 k) (DAH_RES_NODE k n.res) n.id
  if n.res < 8 then (match startTileOf s3 k n.res with | some p => startTile s3 p j n | none => s3) else startEngine s3 k (n.res - 8) n

/-- Have 40 ns passed since the last start on the resource (R155)? -/
def spacingOver (s : State) (k res : Nat) : Bool :=
  match (getCl s k).starts.find? fun x => x.1 == res with
  | some x => decide (x.2 + 40000 ≤ now s)
  | none => true

/-- TASK_START (R155 to R157, R480): Dahlia starts the head of an idle resource's ready list, or removes it where it can no longer meet its window. A task whose
program R500 has removed ends as one whose first instruction fetch meets a poisoned granule (R257; DESIGN CHOICE). Log: 40 DESIGN CHOICE. -/
def execTaskStart (k : Fin 32) (res : Fin 14) (dt : Nat) (s : State) : Res :=
  let s0 := atDt s dt
  match readyHead s0 k.val res.val with
  | none => .next s
  | some (j, n) =>
    if resBusy s0 k.val res.val = true ∨ quadDark s0 (k.val / 8) = true then .next s
    else if meetsWindow s0 j n = false then .next (removeTask s0 j n)
    else if resReady s0 k.val res.val = true ∧ getF s0 (PWR_CL_STAT_STATE k.val) ≤ 1 ∧ spacingOver s0 k.val res.val = true then
      .next (if versionGone s0 n then failNode s0 j n 0x20 0x40 else startNode s0 j n)
    else .next s

/-! ## Engines -/

/-- The node that runs on a resource, with its job. -/
def runningNode (s : State) (k res : Nat) : Option (Job × Node) := s.jobs.findSome? fun j => (j.nodes.find? (runsOn k res)).map fun n => (j, n)

/-- Run the operation of an engine for a node: the state after it, whether it read a bad granule, and whether a range of it passed the end of the CSM (R373). Log: 38 DESIGN CHOICE. -/
def runEngine (s : State) (e : Nat) (j : Job) (n : Node) (p : Plan) : CodeRes :=
  match e with
  | 0 => (let r := xfeRun s j n p; (r.1, r.2, false))
  | 1 => (let r := bmeRun s j n p; (r.1, r.2, false))
  | 2 => (let r := dteRun s n p; (r.1, r.2, false))
  | 3 => cdeRun s n
  | _ => ceeRun s n

/-- ENGINE_OPERATION_END (R113, R257, R373): the operation of an engine completes with all its effects and its task ends; one that read a bad granule fails its job, and so does one
whose range passes the end of the CSM. A DMA task ends with its descriptor (R286). Log: 38 DESIGN CHOICE, 39 DESIGN CHOICE, 130 DESIGN CHOICE. -/
def execEngineOperationEnd (k : Fin 32) (res : Fin 6) (dt : Nat) (s : State) : Res :=
  let s0 := atDt s dt
  if res = 5 then .next (if engineReady s0 k.val 5 then completeChannel s0 k.val 0 else s0)
  else match runningNode s0 k.val (8 + res.val) with
    | none => .next s
    | some (j, n) =>
      match planBySeq s0 j.planSeq with
      | none => .next s
      | some p =>
        if engineReady s0 k.val res.val = false then .next s
        else
        let x := runEngine (setF s0 (engBusy k.val res.val) 0) res.val j n p
        let s1 := if x.2.2 then x.1 else addF x.1 (engOps k.val res.val) 1
        match findNode s1 n.id with
        | none => .next s1
        | some (j1, n1) => .next (if x.2.1 then failNode s1 j1 n1 0x20 0x42 else if x.2.2 then failNode s1 j1 n1 0x21 0x60 else endNode s1 j1 n1 true)

end Sys2Proof.Machine
end

