-- ==== Sys2Proof/Machine/Faults.lean ====
section
/-!
DEFINITION. Faults (spec/15_faults.md R497 to R519): tile core checks, retirement, retest and redo; engine checks and reruns; bank fencing; lockstep and hub faults; the
firmware hand-over; the flight recorder and the RMA capture.
-/

namespace Sys2Proof.Machine

/-! ## Tiles (R499 to R503) -/

/-- PRM_REDO_EN of a carrier instance (R503). -/
def redoEnabled (s : State) (ci : Nat) : Bool := testF s (PRM_REDO_EN_CI (ci / 32)) (ci % 32)

/-- redo_lead of R503 in ps: wake, copy and T_DISP at the plan's clock. -/
def redoLead (op : Nat) : Nat := (20000 + ceilDiv (20480 * 1000) (fMhz op) + 40) * 1000

/-- The conditions of R503 on time and permission, for a lead in ps from the instant t: 1,000 ns is T_REC. -/
def redoFits (s : State) (j : Job) (n : Node) (t : Int) (lead : Nat) : Bool :=
  redoEnabled s j.cmd.ci && decide (t + lead + n.cost ≤ n.clo ∧ t + lead + n.cost + 1000000 ≤ j.deadline)

/-- Is the spare of physical tile p's cluster still in the spare state (R503): it serves no logical tile, and no other tile waits for it (R16)? Log: 112 DEDUCED. -/
def spareUnused (s : State) (p : Nat) : Bool := (getCl s (p / 9)).spare.isSome && (getCl s (p / 9)).spareTakes.isNone && !spareAwaited s p

/-- Is the task of physical tile x that fails its core check now redone on the spare (R503)? -/
def redone (s : State) (x : Nat) (j : Job) (n : Node) : Bool :=
  match planBySeq s j.planSeq with
  | some p => spareUnused s x && redoFits s j n (now s) (redoLead p.op)
  | none => false

/-- The task goes on elsewhere or anew: its node stays running, and the happening waits for how it ends (R503, R504). Log: 112 DEDUCED. -/
def holdHappening (s : State) (j : Job) (n : Node) (detail : Nat) : State :=
  let s1 := mapNode s n.id fun x => { x with redone := true }
  mapJob s1 j.recNode fun (x : Job) => { x with held := x.held ++ [⟨now s, 0x20, detail, n.idx⟩] }

/-- The core of tile p stops with its task: TIL_USED and TIL_CNT_TASK, and nothing more of it (R209). -/
def dropTask (s : State) (p : Nat) : State :=
  let t := getTile s p
  let s1 := setF (setF s (TIL_USED_CYCLES p) (t.budget0 - t.budget)) (TIL_USED_OVERRUN p) 0
  setTile (addF s1 (TIL_CNT_TASK_COUNT p) 1) p (restTile t)

/-- TILE_CORE_CHECK (R497, R499, R503): a core check fails on physical tile p: the running task ends at once with TIL_FAULT, and is redone on the spare where R503 lets it; the tile
runs no further task. Log: 111 DEDUCED. -/
def execTileCoreCheck (p : Fin 288) (dt : Nat) (s : State) : Res :=
  let s0 := atDt s dt
  let t := getTile s0 p.val
  if (getHw s0 p.val).stopped = true ∨ quadDark s0 (p.val / 72) = true then .next s
  else if t.running = false then .next (stopTile (report s0 (tileEntry s0 p.val 0x01)) p.val)
  else
    let s1 := setTilFault s0 p.val 0x11 t.pc 0 (t.handler != .none) t.task
    let e := tileEntry s1 p.val 0x01
    match tileNode s1 p.val with
    | none => .next (stopTile (dropTask (report s1 e) p.val) p.val)
    | some (j, n) =>
      if redone s1 p.val j n then
        let s2 := holdHappening (dropTask (report s1 { withJob e j 0x20 0x40 with action := 1 }) p.val) j n 0x40
        let s3 := stopTile s2 p.val
        .next (setHw s3 p.val { getHw s3 p.val with redo := some (n.id, now s3) })
      else .next (stopTile (finishTile (report s1 (withJob e j 0x20 0x40)) p.val false (some (0x20, 0x40))) p.val)

/-- Does a key lie in the n from a? -/
def within (a n x : Nat) : Bool := decide (a ≤ x ∧ x < a + n)

/-- Copy len bytes from flat address x to flat address y, poison and all (R500); all three are multiples of 32. -/
def copyRange (s : State) (x y len : Nat) : State :=
  { s with
    mem := (s.mem.filter fun c => within x len c.1).foldl (fun m c => smPut memDefault (c.1 - x + y) c.2 m) (smDrop (within y len) s.mem),
    poison := (s.poison.filter fun c => within (x / 32) (len / 32) c.1).foldl (fun m c => smPut (fun _ => false) (c.1 - x / 32 + y / 32) c.2 m)
      (smDrop (within (y / 32) (len / 32)) s.poison),
    errs := smDrop (within (y / 32) (len / 32)) s.errs }

/-- Fill both memories of physical tile y from those of physical tile x, which the copy reads (R254, R500). Log: 66 DEDUCED. -/
def copyTile (s : State) (x y : Nat) : State :=
  let s1 := readBad (readBad s (imemFlat x) 131072) (scratchFlat x) 524288
  copyRange (copyRange s1 (imemFlat x) (imemFlat y) 131072) (scratchFlat x) (scratchFlat y) 524288

/-- Remove the program versions on logical tile t that hold a poisoned granule on physical tile p (R500). -/
def dropPoisoned (s : State) (k t p : Nat) : State :=
  { s with progs := s.progs.filter fun v => !(v.cluster == k && v.tile == t && anyPoison s (imemFlat p + 256 * v.unit) (256 * v.units)) }

/-- The physical tile that is cluster k's spare. -/
def spareTile (s : State) (k : Nat) : Option Nat := (getCl s k).spare.map fun x => 9 * k + x

/-- Let the spare serve logical tile t from retired tile p: its memories filled, the programs with poisoned granules removed (R16, R500, R503). Log: 66 DEDUCED. -/
def spareServes (s : State) (p t : Nat) : State :=
  let k := p / 9
  match spareTile s k with
  | some y => setTilemap (dropPoisoned (copyTile s p y) k t y) k t (y % 9)
  | none => s

/-- The spare begins to serve the logical tile of physical tile p before the takeover (R16, R503). -/
def spareBegins (s : State) (p t : Nat) : State :=
  let s1 := spareServes s p t
  setCl s1 (p / 9) { getCl s1 (p / 9) with spareTakes := some t }

/-- The redone task starts on physical tile y, with the program version it was admitted with. -/
def redoOn (s : State) (y : Nat) (j : Job) (n : Node) : State := if versionGone s n then failNode s j n 0x20 0x40 else startTile s y j n

/-- REDO_START (R503, R157): the memories of the failed tile are copied, and the redone task starts from ENTRY on the spare, which from now on serves the logical tile; after a takeover
it starts on the tile that has taken over (R499). Where the spare serves another logical tile the task is not redone, and a tile that runs a task takes no other (R17). Log: 66 DEDUCED, 112 DEDUCED. -/
def execRedoStart (p : Fin 288) (dt : Nat) (s : State) : Res :=
  let s0 := atDt s dt
  let k := p.val / 9
  let h := getHw s0 p.val
  match h.redo with
  | none => .next s
  | some (id, _) =>
    let s1 := setHw s0 p.val { h with redo := none }
    match findNode s1 id with
    | none => .next s1
    | some (j, n) =>
      match h.spareFor with
      | some t =>
        match spareTile s1 k with
        | some y =>
          if (getCl s1 k).spareTakes.isSome then .next (failNode s1 j n 0x20 0x40)
          else if (getTile s1 y).running then .next s
          else
            let s2 := spareBegins s1 p.val t
            .next (match findNode s2 id with | some (j, n) => redoOn s2 y j n | none => s2)
        | none => .next (failNode s1 j n 0x20 0x40)
      | none =>
        match physOf s1 k n.res with
        | some y => if (getTile s1 y).running then .next s else .next (redoOn s1 y j n)
        | none => .next (failNode s1 j n 0x20 0x40)

/-- PRM_RETIRE (R499): the host names a logical tile; its physical tile is retired at the first quadrant slot boundary at which it runs no task. -/
def requestRetire (s : State) : State :=
  let k := 8 * getF s PRM_RETIRE_QUAD + getF s PRM_RETIRE_CLUSTER
  match physOf s k (getF s PRM_RETIRE_TILE) with
  | some p => setHw s p { getHw s p with wantRetire := true }
  | none => s

/-- PRM_RETIRE (R499): the write of PRM_RETIRE.GO. -/
def execPrmRetire (s : State) : Res := .next (requestRetire s)

/-- Show in PRM_TILES whether a retest runs in the cluster of physical tile p (R502). -/
def showTesting (s : State) (p : Nat) : State :=
  setF s (PRM_TILES_TESTING (p / 72) (p % 72 / 9)) (ofBool (anyBelow (fun t => (getHw s (p / 9 * 9 + t)).test.isSome) 9))

/-- Physical tile p has passed its retest (R502): it serves a lost logical tile from the next boundary, becomes the spare where there is none, or waits as sound. Log: 113 DEDUCED. -/
def passRetest (s : State) (p : Nat) : State :=
  let k := p / 9
  let c := getCl s k
  if c.lostTiles ≠ 0 ∨ c.spare.isSome = true then setCl s k { c with sound := c.sound ++ [p % 9] }
  else clrBitF (setHw (setCl s k { c with spare := some (p % 9) }) p {}) (PRM_TILES_RETIRED (p / 72) (p % 72 / 9)) (p % 9)

/-- TILE_RETEST_DONE (R502): the retest of a retired tile ends; one that fails is retired permanently. Log: 113 DEDUCED. -/
def execTileRetestDone (p : Fin 288) (pass : Bool) (s : State) : Res :=
  if (getHw s p.val).test.isNone then .next s
  else
    let s1 := showTesting (setHw s p.val { getHw s p.val with test := none }) p.val
    .next (if pass then passRetest s1 p.val else setBitF s1 (PRM_TILES_PERMANENT (p.val / 72) (p.val % 72 / 9)) (p.val % 9))

/-- Is physical tile p due for its retirement at a boundary: it is to be retired and runs no task (R499)? -/
def retireDue (s : State) (p : Nat) : Bool := (getHw s p).wantRetire && !(getTile s p).running

/-- The retirement of physical tile p at a quadrant slot boundary (R16, R499 to R502): the spare takes over its logical tile, or the logical tile is lost where there is none that serves no other; source 19 pulses and the
retest begins. Log: 113 DEDUCED. -/
def retireTile (s : State) (p : Nat) : State :=
  let k := p / 9
  let h := getHw s p
  let t := match h.spareFor with | some t => t | none => logicalOf s p
  let s1 := if logicalOf s p = 15 ∧ h.spareFor.isNone then dropSpare s p else s
  let s2 := showTesting (setBitF (setHw s1 p { h with stopped := true, wantRetire := false, spareFor := none, test := some (now s) })
    (PRM_TILES_RETIRED (p / 72) (p % 72 / 9)) (p % 9)) p
  let s3 := if 8 ≤ t then s2
    else match (if (getCl s2 k).spareTakes.isSome ∧ (getCl s2 k).spareTakes ≠ some t then none else spareTile s2 k) with
      | some y =>
        let c := getCl s2 k
        let a := if c.spareTakes = some t then s2 else spareServes s2 p t
        let b := clrBitF (setHw a y {}) (PRM_TILES_RETIRED (y / 72) (y % 72 / 9)) (y % 9)
        let next := c.sound.head?
        let d := setCl b k { c with spare := next, sound := c.sound.drop 1, spareTakes := none, lostTiles := andNot c.lostTiles (2 ^ t) }
        (match next with
          | some x => clrBitF (setHw d (9 * k + x) {}) (PRM_TILES_RETIRED (p / 72) (p % 72 / 9)) x
          | none => d)
      | none => loseTile (setTilemap s2 k t 15) k t
  intPulse s3 (clSrc k 19)

/-- Fill both memories of physical tile y with zeros (R479). -/
def zeroTile (s : State) (y : Nat) : State :=
  let gone := fun (g : Nat) => within (imemFlat y) 131072 (32 * g) || within (scratchFlat y) 524288 (32 * g)
  { s with mem := smDrop (fun a => within (imemFlat y) 131072 a || within (scratchFlat y) 524288 a) s.mem, poison := smDrop gone s.poison, errs := smDrop gone s.errs }

/-- A sound tile takes over the lowest-numbered lost logical tile of cluster k, at a quadrant slot boundary (R501): with zeroed memories, and so without its programs (R171, R479).
Log: 66 DEDUCED. -/
def restoreTile (s : State) (k : Nat) : State :=
  let c := getCl s k
  match c.sound, setBits 8 0 c.lostTiles with
  | x :: rest, t :: _ =>
    let s1 := setCl s k { c with sound := rest, lostTiles := andNot c.lostTiles (2 ^ t) }
    let s2 := zeroTile { s1 with progs := s1.progs.filter fun v => !(v.cluster == k && v.tile == t) } (9 * k + x)
    setTilemap (clrBitF (setHw s2 (9 * k + x) {}) (PRM_TILES_RETIRED (k / 8) (k % 8)) x) k t x
  | _, _ => s

/-- What a quadrant slot boundary does to the tiles of cluster k (R499, R501). Log: 113 DEDUCED. -/
def boundaryTiles (s : State) (k : Nat) : State :=
  let s1 := restoreTile s k
  (List.range 9).foldl (fun s t => if retireDue s (9 * k + t) then retireTile s (9 * k + t) else s) s1

/-! ## Engines (R504) -/

/-- Do the moves of the task channel's descriptor leave their sources as they were: no destination range overlaps a source range (R504)? -/
def dmaRerun (s : State) (k : Nat) : Bool :=
  let d := getDma s k 0
  match checkAddr s (k / 8) (.dma k 0) d.desc 32 false with
  | .error _ => false
  | .ok a =>
    let h := (readHead s a).1
    let ms := (checkEntries s k 0 a d.desc h d.decl (match d.decl with | some x => min h.n x.n | none => h.n) 0 0).1
    ms.all fun x => ms.all fun y => decide (x.dst + x.len ≤ y.src ∨ y.src + y.len ≤ x.dst)

/-- Do the KIND and descriptor of an engine's operation permit a rerun (the table of R504)? -/
def rerunKind (s : State) (n : Node) (e : Nat) : Bool :=
  let d := fun (len : Nat) => leNat (engRead (engOpen s) (csmFlat n.cluster) (argOf n 0) len).1
  match e with
  | 0 => (xfeOp (d 0x24) (argOf n 3)).1.dir == 0
  | 1 => (let b := (bmeOp (d 0x24) (argOf n 1) (argOf n 2) (argOf n 3)).1; !b.acc && !b.ring)
  | 3 => (codeOp (d 64) true).1.hmode != 1
  | 5 => dmaRerun s n.cluster
  | _ => true

/-- The check of engine e of cluster k fails: it enters RESTART, its claim of a check-value unit ends with its operation (R383), and it is lost at the third failure within 1 s (R498, R504). -/
def restartEngine (s : State) (k e : Nat) : State :=
  let c := getCl s k
  let recent := (c.checks.filter fun x => decide (now s - psSec < x.2)) ++ [(e, now s)]
  let lost := decide (3 ≤ (recent.filter fun x => x.1 == e).length)
  let s1 := setCl s k { c with checks := recent, restart := (c.restart.filter fun x => x.1 != e) ++ [(e, now s + 2000000)],
                               lostEng := if lost then c.lostEng ||| 2 ^ e else c.lostEng }
  let s2 := if e < 5 then intPulse (cvuUnclaim (setF s1 (engBusy k e) 0) k e) (clSrc k (11 + e))
    else setF (setDma s1 k 0 { getDma s1 k 0 with moves := [], toRead := none, open_ := none }) (DMA_CH_STAT_STATE k 0) 0
  if lost then resourceLost s2 (k / 8) else s2

/-- ENGINE_CHECK (R497, R504): an engine of a cluster (0 XFE to 4 CEE, 5 DMA), or the quadrant's PFE (6), fails its check. Its operation is rerun where R504 lets it. Log: 112 DEDUCED. -/
def execEngineCheck (k : Fin 32) (res : Fin 7) (dt : Nat) (s : State) : Res :=
  let s0 := atDt s dt
  let q := k.val / 8
  let e := res.val
  let ent : FrEntry := { at_ := now s0, source := if e < 5 then clSrc k.val (11 + e) else 0x3FF, level := if e = 6 then 2 else 1, cls := 0x04, action := 7, quad := q,
                         cluster := if e = 6 then 0 else k.val % 8 }
  if quadDark s0 q = true ∨ (e < 6 ∧ bitOf (getCl s0 k.val).lostEng e = 1) then .next s
  else if e = 6 then .next (report { s0 with pfeCheck := smPut (fun _ => none) q (some (now s0)) s0.pfeCheck } ent)
  else
    let s1 := restartEngine s0 k.val e
    let lost := bitOf (getCl s1 k.val).lostEng e == 1
    let ent1 := if lost then { ent with action := 4 } else ent
    match runningNode s0 k.val (8 + e) with
    | none => .next (report s1 ent1)
    | some (j, n) =>
      let ent2 := withJob ent1 j 0x20 0x41
      if lost = false ∧ rerunKind s0 n e = true ∧ redoFits s0 j n (now s0) 2040000 = true then
        .next (startEngine (holdHappening (report s1 { ent2 with action := 1 }) j n 0x41) k.val e n)
      else .next (failNode (report (if e = 5 then setDma s1 k.val 0 { getDma s1 k.val 0 with node := none } else s1) ent2) j n 0x20 0x41)

/-! ## CSM banks (R505) -/

/-- Must bank b of cluster k be fenced: uncorrectable outcomes in four distinct granules within 1 s, or two ADDRESS outcomes (R505)? -/
def fenceDue (s : State) (k b : Nat) : Bool :=
  let c := getCl s k
  let gs := ((c.uncorr.filter fun x => x.1 == b && decide (now s - psSec < x.2.2)).map fun x => x.2.1).eraseDups
  decide (4 ≤ gs.length ∨ 2 ≤ (c.addrErrs.filter (· == b)).length)

/-- BANK_FENCE (R261, R498, R505): the cluster fences a CSM bank, and every resource of the cluster is lost. Log: 114 DEDUCED. -/
def execBankFence (k : Fin 32) (b : Fin 32) (s : State) : Res :=
  if quadDark s (k.val / 8) = true ∨ fenceDue s k.val b.val = false ∨ testF s (MEM_CSM_FENCE_BANKS k.val) b.val = true then .next s
  else .next (resourceLost (intPulse (setBitF s (MEM_CSM_FENCE_BANKS k.val) b.val) (clSrc k.val 17)) (k.val / 8))

/-! ## The chip (R509, R510) -/

/-- LOCKSTEP_MISMATCH (R509): Primrose restarts; a second mismatch within 1 s applies a chip reset. Log: 116 DEDUCED. -/
def execLockstepMismatch (s : State) : Res :=
  let again := match s.lockAt with | some t => decide (now s - t ≤ psSec) | none => false
  let s1 := addF (intPulse { s with lockAt := some (now s) } 809) PRM_LOCKSTEP_MISMATCH 1
  let s2 := report s1 { at_ := now s, source := 809, level := 3, cls := 0x0C, action := if again then 6 else 7, context := [(getR s1 PRM_LOCKSTEP).toNat] }
  .next (if again then chipReset s2 4 0 else s2)

/-- HUB_FLIT_UNCORRECTABLE (R497, R510): corr flits were corrected; where dst is given, a flit on its way to that granule of a memory is uncorrectable and is delivered poisoned.
Sixteen within 1 s apply a chip reset. Log: 118 DEDUCED. -/
def execHubFlitUncorrectable (dst : Option (MemUnit × Nat)) (corr : Nat) (s : State) : Res :=
  let s1 := addF s PRM_HUB_ECC_CORR corr
  match dst with
  | none => .next s1
  | some (m, g) =>
    let recent := (s1.hubFlits.filter fun t => decide (now s - psSec < t)) ++ [now s]
    let s2 := addF { (if 32 * g < unitSize m then setPoison s1 (unitBase m / 32 + g) true else s1) with hubFlits := recent } PRM_HUB_ECC_UNCORR 1
    let s3 := report (intPulse (setF s2 PRM_EVT_HUB_NOC 1) 808)
      { at_ := now s, source := 808, level := 3, cls := 0x0B, addr := 32 * g, context := [(getR s2 PRM_HUB_ECC).toNat] }
    .next (if 16 ≤ recent.length then chipReset s3 1 1 else s3)

/-! ## Firmware (R511, R512, R528, R529) -/

/-- Place in the store of a firmware image (R542); false A. -/
def imageBase (b : Bool) : Nat := nvsFlat + (if b then 0x900000 else 0x500000)

/-- A word of a firmware image. -/
def fwWord (s : State) (b : Bool) (o : Nat) : Nat := rdLe s (imageBase b + o) 4

/-- Is an image's header well formed (R528)? -/
def fwHeaderOk (s : State) (b : Bool) : Bool :=
  bitsOf (fwWord s b 0) 0 16 == 0x4657 && bitsOf (fwWord s b 0) 16 8 == 1 && decide (fwWord s b 4 ≤ 0x400000 ∧ fwWord s b 8 + fwWord s b 0xC ≤ fwWord s b 4) &&
    (List.range 10).all fun i => fwWord s b (0x18 + 4 * i) == 0

/-- An image's covered bytes and its signature block (R525). -/
def fwCovered (s : State) (b : Bool) : List Byte := rdBytes s (imageBase b) (fwWord s b 8)
/-- Its signature block. -/
def fwBlock (s : State) (b : Bool) : List Byte := rdBytes s (imageBase b + fwWord s b 8) (fwWord s b 0xC)

/-- Does an image's signature block pass: KEYID 0x00, and an owner key with FW_COSIGN (R525)? -/
def fwSigned (s : State) (b : Bool) : Bool :=
  blockPasses s (fwCovered s b) (fwBlock s b) (fun id => id == 0 || isOwnerKey id) ((· == 0) :: (if testF s FXG_POLICY_POLICY 2 then [isOwnerKey] else []))

/-- The SVN of an image's KEYID 0x00 entry (R528). -/
def fwSvn (s : State) (b : Bool) : Nat :=
  match (sigEntries (fwBlock s b)).bind fun es => es.find? fun x => entryKey x == 0 with | some x => entrySvn x | none => 0

/-- Verify an image read from the store with r (R526, R528, R529, R542): the state, and its SVN where it passes. -/
def verifyImage (s : State) (b : Bool) (r : NvsRead) : State × Option Nat :=
  let s1 := noteNvs s r
  if r.bad.isSome = true ∨ fwHeaderOk s b = false then (s1, none)
  else if fwSigned s b = false then (verifyFailed s1 1, none)
  else if fwSvn s b < getF s FXG_SVN_FW then (s1, none)
  else (s1, some (fwSvn s b))

/-- A write of PRM_FW_CTL (R511, R512): GO with IMAGE naming the other image starts a hand-over; one during a hand-over is ignored. Log: 117 DEDUCED. -/
def startHandOver (s : State) (image : Bool) : State :=
  let s1 := setF s PRM_FW_CTL_IMAGE (ofBool image)
  if isF s PRM_FW_STAT_STATE = true ∨ isF s PRM_FW_STAT_RUNNING = image then s1
  else setF { s1 with fw := { s1.fw with target := some image, back := false } } PRM_FW_STAT_STATE 1

/-- The end of a hand-over's verification (R511). -/
def endVerify (s : State) (r : NvsRead) : State :=
  match s.fw.target with
  | none => s
  | some b =>
    let x := verifyImage s b r
    match x.2 with
    | none => setF (setF { x.1 with fw := { x.1.fw with target := none } } PRM_FW_STAT_STATE 0) PRM_FW_STAT_RESULT 2
    | some v => setF { x.1 with fw := { x.1.fw with cores := 0, changed := none, newSvn := v } } PRM_FW_STAT_STATE 2

/-- Is a rail being raised (R511)? -/
def railRises (s : State) : Bool := s.rails.any fun x => match x.2 with | some c => decide (c.old < getF s (PRM_RAIL_STAT_TARGET x.1)) | none => false

/-- The next core changes over (R511): at an instant at which NS is a multiple of 1,000,000, with no rail raise in progress, for at most 25 µs. The last one ends the change: the
new image is watched, or, on the way back, the hand-over is over. Log: 117 DEDUCED. -/
def changeCore (s : State) (holdUs : Nat) : State :=
  let t := nextMultiple (ctPs s) 1000000000
  if inCycle s t = false ∨ railRises s = true ∨ s.fw.changed = some t then s
  else
    let s1 := setF { s with fw := { s.fw with cores := s.fw.cores + 1, changed := some t } } PRM_FW_STAT_HOLD_US (max (getF s PRM_FW_STAT_HOLD_US) (min 25 holdUs))
    if s1.fw.cores < 5 then s1
    else
      let image := s1.fw.target.getD false
      let s2 := report (setF s1 PRM_FW_STAT_RUNNING (ofBool image)) { at_ := t, level := 3, cls := 0x21, context := [ofBool image] }
      if s2.fw.back then setF { s2 with fw := { s2.fw with target := none, back := false, svn := s2.fw.newSvn } } PRM_FW_STAT_STATE 0
      else setF { s2 with fw := { s2.fw with watch := some t, svn := s2.fw.newSvn, newSvn := s2.fw.svn } } PRM_FW_STAT_STATE 3

/-- FIRMWARE_HAND_OVER (R511): its start, the end of its verification, and the change of each core. -/
def execFirmwareHandOver (e : FwStep) (s : State) : Res :=
  .next (match e with
    | .go image => startHandOver s image
    | .verified r => if getF s PRM_FW_STAT_STATE = 1 then endVerify s r else s
    | .core holdUs => if getF s PRM_FW_STAT_STATE = 2 then changeCore s holdUs else s)

/-- FIRMWARE_HEALTHY_REPORT (R512): the new image reports itself healthy within 1 s: the hand-over has succeeded and the boot record marks it active (R528). -/
def execFirmwareHealthyReport (s : State) : Res :=
  match s.fw.watch with
  | some t =>
    if getF s PRM_FW_STAT_STATE ≠ 3 ∨ t + psSec < now s then .next s
    else
      let s1 := setF (setF { s with fw := { s.fw with target := none, watch := none, active := isF s PRM_FW_STAT_RUNNING } } PRM_FW_STAT_STATE 0) PRM_FW_STAT_RESULT 1
      .next (intPulse (setF s1 PRM_EVT_FW_DONE 1) 808)
  | none => .next s

/-- FIRMWARE_REVERT (R512): a new image that has not reported itself healthy within 1 s is replaced by the previous one through a second hand-over. Log: 117 DEDUCED. -/
def execFirmwareRevert (s : State) : Res :=
  match s.fw.watch with
  | some t =>
    if getF s PRM_FW_STAT_STATE ≠ 3 ∨ reached s (t + psSec) = false then .next s
    else
      let b := isF s PRM_FW_STAT_RUNNING
      let s1 := setF (setF { s with fw := { s.fw with target := some (!b), cores := 0, changed := none, watch := none, back := true } } PRM_FW_STAT_STATE 2) PRM_FW_STAT_RESULT 3
      .next (report (intPulse (setF s1 PRM_EVT_FW_REVERT 1) 808) { at_ := now s, source := 808, level := 3, cls := 0x21, context := [ofBool (!b)] })
  | none => .next s

/-! ## The flight recorder (R517, R518) -/

/-- The 64 bytes of an entry (R518). Log: 114 DEDUCED. -/
def frBytes (e : FrEntry) : List Byte :=
  leBytes 4 (secOf e.at_) ++ leBytes 4 (nsOf e.at_) ++
  leBytes 4 (e.source % 1024 + 2 ^ 12 * (e.level % 4) + 2 ^ 16 * (e.cls % 256) + 2 ^ 24 * (e.action % 8)) ++
  leBytes 4 (e.quad % 4 + 4 * (e.cluster % 8) + 32 * (e.tile % 16) + 2 ^ 16 * (e.ci % 1024)) ++
  leBytes 4 e.tag ++ leBytes 4 (e.outcome % 256 + 256 * (e.detail % 256)) ++ leBytes 8 e.addr ++
  (List.range 8).flatMap fun i => leBytes 4 (getAt 0 e.context i)

/-- Place of recorder entry i in the store (R517, R542). Log: 115 DEDUCED. -/
def frPlace (i : Nat) : Nat := nvsFlat + 0x100000 + 64 * i

/-- Write an entry as the newest (R517). Log: 115 DEDUCED. -/
def frWrite (s : State) (e : FrEntry) : State :=
  let n := getF s PRM_FR_STAT_ENTRIES
  let i := if n = 0 then 0 else (getF s PRM_FR_HEAD_HEAD + 1) % 49152
  setF (setF (wrBytes s (frPlace i) (frBytes e)) PRM_FR_HEAD_HEAD i) PRM_FR_STAT_ENTRIES (min 49152 (n + 1))

/-- FLIGHT_RECORDER_WRITE (R517): the oldest event that waits is written, at most 1,000 in a second of CT; further ones are counted. Log: 115 DEDUCED. -/
def execFlightRecorderWrite (s : State) : Res :=
  match s.frPend with
  | [] => .next s
  | e :: rest =>
    let sec := secOf (now s)
    let n := if s.frSecond = sec then s.frCount else 0
    if 1000 ≤ n then .next (addF { s with frPend := rest } PRM_FR_STAT_DROPPED 1)
    else .next (frWrite { s with frPend := rest, frSecond := sec, frCount := n + 1 } e)

/-! ## The RMA capture (R519) -/

/-- Is the BAR0 offset in a block that has power now (R43, R44)? -/
def powered (s : State) (a : Nat) : Bool := match regAt a with | some h => blockLive s h.block h.unit | none => false

/-- RMA_CAPTURE (R519): the write of PRM_RMA.GO: the registers of every powered block and the newest entries of the recorder are frozen. Log: 61 DESIGN CHOICE. -/
def rmaCapture (s : State) : State :=
  let n := getF s PRM_FR_STAT_ENTRIES
  let h := getF s PRM_FR_HEAD_HEAD
  let c : RmaCapture := { regs := s.regs.filter fun x => powered s x.1,
                          entries := (List.range (min 4096 n)).map fun i => rdBytes s (frPlace ((h + 49152 - i) % 49152)) 64 }
  let s1 := setF (setF (setF { s with rma := some c } PRM_RMA_VALID 1) PRM_RMA_SEC_SEC (secOf (now s) % 2 ^ 32)) PRM_RMA_NS_NS (nsOf (now s))
  intPulse (setF s1 PRM_EVT_RMA_DONE 1) 808

/-- RMA_CAPTURE (R519). Log: 61 DESIGN CHOICE. -/
def execRmaCapture (s : State) : Res := .next (rmaCapture s)

end Sys2Proof.Machine
end

