-- ==== Sys2Proof/Machine/Foxglove.lean ====
section
/-!
DEFINITION. Foxglove (spec/16_security.md R521 to R541) and the test access (spec/15_faults.md R520): secure boot, owner requests, stream keys, the key store and tamper,
attestation, IDE keys, the debug session, and JTAG.
-/

namespace Sys2Proof.Machine

/-! ## Secure boot (R528 to R530) -/

/-- Start the device with an image whose SVN is given. -/
def runImage (s : State) (b : Bool) (svn : Nat) : State :=
  let s1 := setF (setF s PRM_FW_STAT_RUNNING (ofBool b)) PRM_BOOT_FW_IMAGE (ofBool b)
  bootStep { s1 with fw := { s1.fw with svn := svn }, boot := { s1.boot with fw := true } } 2 40000

/-- Neither image starts (R530): the recovery state, in which the quadrants are OFF. -/
def enterRecovery (s : State) : State := (List.range 4).foldl (fun s q => setF s (PRM_Q_STAT_STATE q) 2) (setF s FXG_STAT_RECOVERY 1)

/-- SECURE_BOOT (R526, R528 to R530): the boot ROM verifies the image that the boot record marks active, or A, and where that fails the other; a and b are what reading each met. Log: 15 DESIGN CHOICE. -/
def execSecureBoot (a b : NvsRead) (s : State) : Res :=
  if s.boot.fw = true ∨ isF s FXG_STAT_RECOVERY = true then .next s
  else
    let first := s.fw.active
    let read := fun (i : Bool) => if i then b else a
    let x := verifyImage s first (read first)
    match x.2 with
    | some v => .next (runImage x.1 first v)
    | none =>
      let y := verifyImage x.1 (!first) (read (!first))
      match y.2 with
      | some v => .next (runImage y.1 (!first) v)
      | none => .next (enterRecovery y.1)

/-! ## Owner requests (R531, R532) -/

/-- n bytes of the request mailbox. -/
def mboxBytes (s : State) (o n : Nat) : List Byte := (List.range n).map fun i => smGet (fun _ => 0) s.fox.mbox (o + i)

/-- OP of the request. -/
def reqOp (s : State) : Nat := leNat (mboxBytes s 0 1)
/-- ARG of the request. -/
def reqArg (s : State) : Nat := leNat (mboxBytes s 4 4)
/-- Bytes of DATA of the request. -/
def reqData (s : State) (o n : Nat) : List Byte := mboxBytes s (0x30 + o) n
/-- The signature block of the request. -/
def reqBlock (s : State) : List Byte := mboxBytes s 0x100 0x300
/-- KEY of the request. -/
def reqKey (s : State) : List Byte := mboxBytes s 0x400 0x200

/-- FXG_NONCE as a number; 0 when it is consumed. Log: 120 DESIGN CHOICE. -/
def nonceNow (s : State) : Nat := leNat ((List.range 8).flatMap fun i => leBytes 4 (getF s (FXG_NONCE_WORD i)))

/-- Set FXG_NONCE. -/
def setNonce (s : State) (v : Nat) : State := (List.range 8).foldl (fun s i => setF s (FXG_NONCE_WORD i) (bitsOf v (32 * i) 32)) s

/-- A NONCE command (R531): a fresh nonce replaces any unused one. Log: 120 DESIGN CHOICE. -/
def newNonce (s : State) : State := let (n, s1) := takeFree s; setNonce s1 (Config.nonce n % 2 ^ 256)

/-- NONCE (R531): the write of FXG_CMD.NONCE. -/
def execNonce (s : State) : Res := .next (newNonce s)

/-- The life cycle (R522). -/
def lifeNow (s : State) : Nat := getF s FXG_STAT_LIFE

/-- Does an operation need no signature: DEBUG_CLOSE, and ENROL_OWNER and PROVISION while UNOWNED (R525, R532)? -/
def reqUnsigned (s : State) (op : Nat) : Bool := op == 7 || ((op == 1 || op == 4) && lifeNow s == 1)

/-- Does the request's signature pass (R525)? -/
def reqSigned (s : State) (op : Nat) : Bool :=
  let covered := mboxBytes s 0 0x100 ++ (if op = 1 then reqKey s else [])
  let key := fun (id : Nat) => if op = 10 then id == 1 else isOwnerKey id
  reqUnsigned s op || blockPasses s covered (reqBlock s) key [key]

/-- Is an operation outside the life-cycle states given for it (R532, R541)? -/
def reqLifeBad (s : State) (op : Nat) : Bool :=
  match op with
  | 7 => false
  | 1 | 4 | 10 => lifeNow s != 1 && lifeNow s != 2
  | _ => lifeNow s != 2

/-- Is the request's format bad: an OP not listed, a block of other than one entry where one is needed, or an operand out of its table (R531, R532; DEDUCED for the operands)? Log: 121 DEDUCED. -/
def reqFormatBad (s : State) (op : Nat) : Bool :=
  op == 0 || decide (10 < op) || (!reqUnsigned s op && ((reqBlock s).drop 3).headD 0 != 1) ||
    (op == 5 && decide (1 < reqArg s)) ||
    (op == 8 && (decide (16384 < leNat (reqData s 0 2)) ||
      sha512 ((List.range (leNat (reqData s 0 2))).map (bufByte s)) != reqData s 16 64 ||
      !Config.certifiesDevId ((List.range (leNat (reqData s 0 2))).map (bufByte s)))) ||
    (op == 10 && (reqData s 0 128).any (· != 0))

/-- The first reason for which a request is not carried out, by the order of their codes (R531; DEDUCED), before those of its operation; none where it may be. Log: 120 DESIGN CHOICE, 121 DEDUCED. -/
def reqReason (s : State) (op : Nat) : Option Nat :=
  if reqFormatBad s op then some 1
  else if leNat (mboxBytes s 8 8) ≠ getF s FXG_SERIAL_SERIAL then some 2
  else if op ≠ 7 ∧ (nonceNow s = 0 ∨ leNat (mboxBytes s 0x10 32) ≠ nonceNow s) then some 3
  else if reqSigned s op = false then some 4
  else if reqLifeBad s op then some 5
  else none

/-- Show the result of a request in FXG_CMD_STAT and set CMD_DONE (R531). -/
def reqDone (s : State) (op result : Nat) : State :=
  refresh (setF (setF (setF s FXG_CMD_STAT_OP op) FXG_CMD_STAT_RESULT result) FXG_IRQ_CMD_DONE 1) 816

/-- Run a request: its checks, the nonce it consumes, and its operation, which answers the state and a result (R531). Log: 121 DEDUCED. -/
def runRequest (s : State) (f : State → State × Nat) : State :=
  let op := reqOp s
  match reqReason s op with
  | some r =>
    let s1 := if r = 5 ∧ op ≠ 7 then setNonce s 0 else if r = 4 then verifyFailed s 5 else s
    reqDone s1 op r
  | none => let x := f (if op = 7 then s else setNonce s 0); reqDone x.1 op x.2

/-- A request of one operation: the row of another operation does nothing. -/
def requestOf (s : State) (op : Nat) (f : State → State × Nat) : State := if reqOp s = op then runRequest s f else s

/-- A change of fuses: FUSE_FAIL where they do not take it. Log: 122 DEDUCED. -/
def blow (s : State) (fuseOk : Bool) (f : State → State) : State × Nat := if fuseOk then (f s, 0) else (s, 7)

/-- ENROL_OWNER: the lowest unused owner slot takes the key (R532). -/
def enrolOwner (fuseOk : Bool) (s : State) : State × Nat :=
  match (List.range 8).find? fun i => !testF s FXG_POLICY_ACTIVE i && !testF s FXG_POLICY_REVOKED i with
  | none => (s, 6)
  | some i =>
    blow s fuseOk fun s =>
      let key := reqKey s
      let s1 := { s with fox := { s.fox with digests := smPut (fun _ => []) i (sha512 key) s.fox.digests, moduli := smPut (fun _ => []) i key s.fox.moduli } }
      setF (setBitF s1 FXG_POLICY_ACTIVE i) FXG_STAT_LIFE 2

/-- ENROL_OWNER (R532). -/
def execEnrolOwner (fuseOk : Bool) (s : State) : Res := .next (requestOf s 1 (enrolOwner fuseOk))

/-- REVOKE_OWNER: the slot is revoked, where another active one remains (R532). -/
def revokeOwner (fuseOk : Bool) (s : State) : State × Nat :=
  let i := reqArg s % 8
  if andNot (getF s FXG_POLICY_ACTIVE) (2 ^ i) = 0 then (s, 5)
  else blow s fuseOk fun s => setBitF (clrBitF s FXG_POLICY_ACTIVE i) FXG_POLICY_REVOKED i

/-- REVOKE_OWNER (R532). -/
def execRevokeOwner (fuseOk : Bool) (s : State) : Res := .next (requestOf s 2 (revokeOwner fuseOk))

/-- SET_POLICY: policy bits are set and never clear (R532). -/
def setPolicy (fuseOk : Bool) (s : State) : State × Nat :=
  blow s fuseOk fun s => setF s FXG_POLICY_POLICY (getF s FXG_POLICY_POLICY ||| leNat (reqData s 0 1) % 16)

/-- SET_POLICY (R532). -/
def execSetPolicy (fuseOk : Bool) (s : State) : Res := .next (requestOf s 3 (setPolicy fuseOk))

/-- PROVISION: held until the next chip reset (R532). -/
def provisionDevice (s : State) : State × Nat := ({ s with fox := { s.fox with provision := some (reqData s 0 66) } }, 0)

/-- PROVISION (R532). -/
def execProvision (s : State) : Res := .next (requestOf s 4 provisionDevice)

/-- The bytes of the stream that partition p's configuration in force came from: its slot is protected meanwhile (R543). -/
def streamInForce (s : State) (p : Nat) : List Byte :=
  let a := nvsFlat + slotBase s (getF s (PHX_STAT_SLOT p))
  rdBytes s a (streamLen p (streamHdr (rdBytes s a 256)))

/-- The lowest SVN of the owner entries of the stream in force in PX p; none where none is in force. Log: 122 DEDUCED. -/
def pxSvn (s : State) (p : Nat) : Option Nat :=
  if getF s (PHX_STAT_STATE p) ≠ 1 then none
  else
    let bytes := streamInForce s p
    let h := streamHdr bytes
    (sigEntries ((bytes.drop h.sigOfs).take h.sigLen)).bind fun es => (es.map entrySvn).min?

/-- COMMIT_SVN: FW rises to the SVN of the running image while no hand-over is in progress, PX to the lower of those of the streams in force (R529, R532). Log: 122 DEDUCED. -/
def commitSvn (fuseOk : Bool) (s : State) : State × Nat :=
  if reqArg s = 0 then
    (if isF s PRM_FW_STAT_STATE then (s, 5) else blow s fuseOk fun s => setF s FXG_SVN_FW (max (getF s FXG_SVN_FW) (min 64 s.fw.svn)))
  else
    blow s fuseOk fun s => match ([pxSvn s 16, pxSvn s 17].filterMap id).min? with
      | some v => setF s FXG_SVN_PX (max (getF s FXG_SVN_PX) (min 64 v))
      | none => s

/-- COMMIT_SVN (R529, R532). -/
def execCommitSvn (fuseOk : Bool) (s : State) : Res := .next (requestOf s 5 (commitSvn fuseOk))

/-- DEBUG_OPEN: the session, its PERM and EXPIRY; refused with DEBUG_DISABLE (R532, R539). -/
def debugOpen (s : State) : State × Nat :=
  if testF s FXG_POLICY_POLICY 3 then (s, 5)
  else
    let e := leNat (reqData s 8 8)
    (setF (setF { s with fox := { s.fox with dbg := some ⟨leNat (reqData s 0 4), e⟩ } } FXG_STAT_DEBUG 1) FXG_DBG_EXP_EXPIRY (e % 2 ^ 32), 0)

/-- DEBUG_OPEN (R532, R539). -/
def execDebugOpen (s : State) : Res := .next (requestOf s 6 debugOpen)

/-- The debug session ends (R539, R540): DEBUG_END is set, and its tile detaches at the next boundary. Log: 125 DEDUCED. -/
def endDebug (s : State) : State :=
  if s.fox.dbg.isNone then s
  else refresh (setF (setF (setF { s with fox := { s.fox with dbg := none } } FXG_STAT_DEBUG 0) FXG_DBG_ATTACH_EN 0) FXG_IRQ_DEBUG_END 1) 816

/-- DEBUG_CLOSE (R532, R539): no signature and no nonce are needed. -/
def execDebugClose (s : State) : Res := .next (requestOf s 7 fun s => (endDebug s, 0))

/-- DEBUG_SESSION_EXPIRY (R539): the session ends at the first CT second at or after EXPIRY. -/
def execDebugSessionExpiry (s : State) : Res :=
  match s.fox.dbg with
  | some d => .next (if reached s (d.expiry * psSec) then endDebug s else s)
  | none => .next s

/-- CERT_SLOT1: the chain of the page buffer becomes SPDM slot 1 (R532). Log: 123 PRESUMED. -/
def certSlot1 (s : State) : State × Nat :=
  ({ s with fox := { s.fox with slot1 := (List.range (leNat (reqData s 0 2))).map (bufByte s) } }, 0)

/-- CERT_SLOT1 (R532). -/
def execCertSlot1 (s : State) : Res := .next (requestOf s 8 certSlot1)

/-- Zero the key store with its ARM (R532, R535, R541). Log: 122 DEDUCED. -/
def zeroStore (s : State) : State := setF (setF { s with fox := { s.fox with bbKeys := [] } } FXG_TAMPER_ARM 0) FXG_STAT_TAMPER_ARMED 0

/-- DECOMMISSION: the key store, the fuse keys, the owners and slot 1 go, and the part is UNOWNED (R532). Its owner slots stay used. Log: 122 DEDUCED. -/
def decommission (fuseOk : Bool) (s : State) : State × Nat :=
  blow s fuseOk fun s =>
    let s1 := zeroStore s
    let s2 := { s1 with fox := { s1.fox with killed := s1.fox.fuseKeys.foldl (fun a x => a ||| 2 ^ x.1) s1.fox.killed, slot1 := [] } }
    setF (setF (setF s2 FXG_POLICY_REVOKED (getF s2 FXG_POLICY_REVOKED ||| getF s2 FXG_POLICY_ACTIVE)) FXG_POLICY_ACTIVE 0) FXG_STAT_LIFE 1

/-- DECOMMISSION (R532). -/
def execDecommission (fuseOk : Bool) (s : State) : Res := .next (requestOf s 9 (decommission fuseOk))

/-- UNLOCK: the key store is zeroed, the fuse keys are killed, every session ends, and the part is in RMA (R541). -/
def unlockDevice (fuseOk : Bool) (s : State) : State × Nat :=
  blow s fuseOk fun s =>
    let s1 := zeroStore s
    setF (endDebug { s1 with fox := { s1.fox with killed := 255, sessions := 0 } }) FXG_STAT_LIFE 3

/-- UNLOCK (R532, R541). -/
def execUnlock (fuseOk : Bool) (s : State) : Res := .next (requestOf s 10 (unlockDevice fuseOk))

/-- A write of FXG_CMD.GO (R531): the request in the mailbox; an OP not listed gives BAD_FORMAT. -/
def submitRequest (s : State) (fuseOk : Bool) : State :=
  runRequest s (match reqOp s with
    | 1 => enrolOwner fuseOk
    | 2 => revokeOwner fuseOk
    | 3 => setPolicy fuseOk
    | 4 => provisionDevice
    | 5 => commitSvn fuseOk
    | 6 => debugOpen
    | 7 => fun s => (endDebug s, 0)
    | 8 => certSlot1
    | 9 => decommission fuseOk
    | _ => unlockDevice fuseOk)

/-! ## SPDM, stream keys and IDE keys (R533, R536 to R538) -/

/-- Answer the request in progress on a DOE instance; one that was aborted is not answered (R434). Log: 88 DEDUCED. -/
def answerDoe (s : State) (i : Nat) (a : SpdmAns) : State :=
  if (getDoe s i).busy.isNone then s else setDoe s i { getDoe s i with busy := none, ready := some (.spdm a) }

/-- Is a message of instance 2 in a secured session? -/
def inSession (s : State) (session : Bool) : Bool := session && decide (0 < s.fox.sessions)

/-- The result of KEY_WRITE and the state it leaves (R531, R533). Log: 95 PRESUMED, 122 DEDUCED. -/
def keyWrite (s : State) (payload : List Byte) : State × Nat :=
  let b := fun (i : Nat) => (getAt (0 : Byte) payload i).toNat
  let slot := b 2
  let key := (payload.drop 4).take 32
  let covered := leBytes 8 (getF s FXG_SERIAL_SERIAL) ++ leBytes 32 (nonceNow s) ++ payload.take 4 ++ sha512 key
  if b 0 ≠ 1 ∨ 1 < b 1 ∨ (if b 1 = 0 then 8 else 16) ≤ slot ∨ payload.length < 0x24 ∨ b 0x27 ≠ 1 then (s, 1)
  else if nonceNow s = 0 then (s, 3)
  else if blockPasses s covered (payload.drop 0x24) isOwnerKey [isOwnerKey] = false then (verifyFailed s 5, 4)
  else
    let s1 := setNonce s 0
    if lifeNow s = 3 then (s1, 5)
    else if b 1 = 1 then (setF { s1 with fox := { s1.fox with bbKeys := smPut (fun _ => []) slot key s1.fox.bbKeys } } FXG_STAT_BBK_VALID 1, 0)
    else if smGet (fun _ => []) s.fox.fuseKeys slot ≠ [] ∨ bitOf s.fox.killed slot = 1 then (s1, 5)
    else ({ s1 with fox := { s1.fox with fuseKeys := smPut (fun _ => []) slot key s1.fox.fuseKeys } }, 0)

/-- KEY_WRITE (R533): the vendor-defined request that brings in a stream key; outside a secured session it is answered with status 5. The answer carries the status and the key's check value. -/
def execKeyWrite (session : Bool) (payload : List Byte) (s : State) : Res :=
  if (getDoe s 2).busy.isNone then .next s
  else if inSession s session = false then .next (answerDoe s 2 ⟨0, leBytes 4 5⟩)
  else
    let x := keyWrite s payload
    .next (answerDoe x.1 2 ⟨0, leBytes 4 x.2 ++ (aesZero ((payload.drop 4).take 32)).take 4⟩)

/-- PHX_CTL.RB_EN of partition p: read-back enabled by the debug session's PERM (R456, R539). -/
def rbEnabled (s : State) (p : Nat) : Bool := decide (p < 16) && (match s.fox.dbg with | some d => bitOf d.perm (16 + p) == 1 | none => false)

/-- The content of measurement index 3 (R537). -/
def deviceState (s : State) : List Byte :=
  let rb := (List.range 16).foldl (fun a p => a + 2 ^ p * ofBool (rbEnabled s p)) 0
  let dbg := match s.fox.dbg with | some d => 1 + 2 * (d.perm % 2) | none => 0
  [lifeNow s, getF s FXG_POLICY_POLICY, getF s FXG_POLICY_ACTIVE, getF s FXG_POLICY_REVOKED, getF s FXG_SVN_FW, getF s FXG_SVN_PX, dbg, getF s FXG_STAT_BBK_VALID].map
    (BitVec.ofNat 8) ++ leBytes 2 rb ++ leBytes 6 0

/-- Does a program version come before another: cluster, logical tile, program number (R537)? -/
def verBefore (a b : ProgVer) : Bool :=
  decide (a.cluster < b.cluster ∨ (a.cluster = b.cluster ∧ (a.tile < b.tile ∨ (a.tile = b.tile ∧ a.prog < b.prog))))

/-- The ACTIVE versions of quadrant q in order. -/
def activeVers (s : State) (q : Nat) : List ProgVer :=
  (s.progs.filter fun v => v.cluster / 8 == q && v.state == .active && !emptyImage v.image).foldl (fun l v => insertBy verBefore v l) []

/-- The measurement of an index (R537); none where there is no such index. The widths of the numbers in the sequence of indices 48 to 51 are a DESIGN CHOICE: one, one and two bytes. Log: 123 PRESUMED. -/
def measurement (s : State) (i : Nat) : Option (List Byte) :=
  if i = 1 then some (sha512 (fwCovered s (isF s PRM_FW_STAT_RUNNING)))
  else if i = 3 then some (deviceState s)
  else if 16 ≤ i ∧ i ≤ 33 then
    (if getF s (PHX_STAT_STATE (i - 16)) = 1 then
      (let bytes := streamInForce s (i - 16); some (sha512 (bytes.take (tagEnd (streamHdr bytes)))))
    else some (List.replicate 64 0))
  else if 48 ≤ i ∧ i ≤ 51 then
    some (sha512 ((activeVers s (i - 48)).flatMap fun v => [BitVec.ofNat 8 (v.cluster % 8), BitVec.ofNat 8 v.tile] ++ leBytes 2 v.prog ++ sha512 v.image))
  else none

/-- The chain of a certificate slot (R523, R536); none where it is empty. Log: 123 PRESUMED. -/
def certChain (s : State) (slot : Nat) : Option (List Byte) :=
  if slot = 0 then some Config.slot0Chain else if slot = 1 ∧ s.fox.slot1 ≠ [] then some s.fox.slot1 else none

/-- n bytes of an answer that the spec does not give. -/
def freeBytes (i n : Nat) : List Byte := (List.range n).map (Config.spdmByte i)

/-- What the responder answers and leaves (R536, R537): i numbers the free bytes of this answer. Error codes are those of SPDM (PRESUMED): 1 InvalidRequest, 3 Busy,
7 UnsupportedRequest. Signatures and key shares are free. Log: 123 PRESUMED. -/
def spdmAnswer (s : State) (i : Nat) (m : SpdmReq) : State × SpdmAns :=
  let chain := fun (slot : Nat) (f : List Byte → List Byte) => match certChain s slot with | some c => (s, (⟨0, f c⟩ : SpdmAns)) | none => (s, ⟨1, []⟩)
  match m with
  | .version => (s, ⟨0, [0x12, 0x13]⟩)
  | .capabilities | .algorithms => (s, ⟨0, freeBytes i 32⟩)
  | .digests => (s, ⟨0, [0, 1].flatMap fun n => match certChain s n with | some c => sha512 c | none => []⟩)
  | .certificate slot ofs len => chain slot fun c => (c.drop ofs).take len
  | .challenge slot => chain slot fun c => sha512 c ++ freeBytes i 512
  | .measurement x => (match measurement s x with | some b => (s, ⟨0, b ++ freeBytes i 512⟩) | none => (s, ⟨1, []⟩))
  | .keyExchange slot =>
    if 4 ≤ s.fox.sessions then (s, ⟨3, []⟩)
    else match certChain s slot with
      | some _ => ({ s with fox := { s.fox with sessions := s.fox.sessions + 1 } }, ⟨0, freeBytes i 1024⟩)
      | none => (s, ⟨1, []⟩)
  | .finish | .keyUpdate | .chunk => (s, ⟨0, freeBytes i 64⟩)
  | .endSession => ({ s with fox := { s.fox with sessions := s.fox.sessions - 1 } }, ⟨0, []⟩)
  | .other => (s, ⟨7, []⟩)

/-- SPDM_REQUEST (R434, R536, R537): the responder on DOE instances 1 and 2 answers the request in progress. -/
def execSpdmRequest (i : Fin 3) (m : SpdmReq) (s : State) : Res :=
  if i = 0 ∨ (getDoe s i.val).busy.isNone = true then .next s
  else
    let (n, s1) := takeFree s
    let x := spdmAnswer s1 n m
    .next (answerDoe x.1 i.val x.2)

/-- An IDE_KM message (R538): in a secured session on instance 2 it has its effect; elsewhere it is answered with an error whose code the spec does not give. Log: 123 PRESUMED. -/
def ideMessage (s : State) (session : Bool) (f : State → State × List Byte) : State :=
  if (getDoe s 2).busy.isNone then s
  else if inSession s session = false then (let (n, s1) := takeFree s; answerDoe s1 2 ⟨(Config.spdmByte n 0).toNat, []⟩)
  else (let x := f s; answerDoe x.1 2 ⟨0, x.2⟩)

/-- QUERY (R538): the answer's contents are not given. -/
def execQuery (session : Bool) (s : State) : Res :=
  .next (ideMessage s session fun s => let (n, s1) := takeFree s; (s1, freeBytes n 32))

/-- The number of a direction and substream of a stream. -/
def ideDir (io rx : Bool) (sub : Nat) : Nat := (ofBool io * 2 + ofBool rx) * 8 + sub

/-- The key set in use there: 0 none, else the set plus 1. -/
def ideInUse (s : State) (io rx : Bool) (sub : Nat) : Nat := smGet (fun _ => 0) s.fox.ideUse (ideDir io rx sub)

/-- KEY_PROG (R435, R538): a key for a set that is not in use; to the set in use it is answered with KEY_PROG_ACK status 3. -/
def execKeyProg (session io rx : Bool) (sub : Fin 8) (set : Fin 2) (key : List Byte) (s : State) : Res :=
  .next (ideMessage s session fun s =>
    if ideInUse s io rx sub.val = set.val + 1 then (s, [3])
    else ({ s with fox := { s.fox with ideKeys := smPut (fun _ => []) (2 * ideDir io rx sub.val + set.val) key s.fox.ideKeys } }, [0]))

/-- Use a key set, or none, in a direction of a substream; the stream is secure while both directions of the substream use one (R435; DEDUCED). Log: 124 DEDUCED. -/
def useSet (s : State) (io rx : Bool) (sub v : Nat) : State :=
  let s1 := { s with fox := { s.fox with ideUse := smPut (fun _ => 0) (ideDir io rx sub) v s.fox.ideUse } }
  let s2 := if v = 0 then s1 else setF s1 (if rx then CXL_IDE_STAT_KSET_RX else CXL_IDE_STAT_KSET_TX) (v - 1)
  if ideInUse s2 io true sub ≠ 0 ∧ ideInUse s2 io false sub ≠ 0 then setIde s2 io 1 else dropIde s2 io

/-- K_SET_GO (R435, R538): the traffic of a direction switches to a key set that has been programmed. Log: 124 DEDUCED. -/
def execKSetGo (session io rx : Bool) (sub : Fin 8) (set : Fin 2) (s : State) : Res :=
  .next (ideMessage s session fun s =>
    if smGet (fun _ => []) s.fox.ideKeys (2 * ideDir io rx sub.val + set.val) = [] then (s, []) else (useSet s io rx sub.val (set.val + 1), []))

/-- K_SET_STOP (R435, R538): a key set is no longer used. Log: 124 DEDUCED. -/
def execKSetStop (session io rx : Bool) (sub : Fin 8) (set : Fin 2) (s : State) : Res :=
  .next (ideMessage s session fun s => if ideInUse s io rx sub.val = set.val + 1 then (useSet s io rx sub.val 0, []) else (s, []))

/-! ## The key store and tamper (R534, R535, R560) -/

/-- Every load with KEYSRC 1 that is in progress aborts with AUTH ("When happenings meet"). -/
def abortStoreLoads (s : State) : State :=
  (List.range 18).foldl (fun s p => if getF s (PHX_LOAD_STAT_STATE p) = 1 ∧ isF s (PHX_KEY_KEYSRC p) = true then abortLoad s p 4 0 else s) s

/-- A tamper acts (R535, R539). Log: 127 DEDUCED. -/
def tamperActs (s : State) (powered_ : Bool) : State :=
  let s1 := addF { s with fox := { s.fox with bbKeys := [] } } FXG_TAMPER_COUNT 1
  if powered_ then
    let s2 := setF (setF s1 FXG_TAMPER_SEC_SEC (secOf (now s) % 2 ^ 32)) FXG_TAMPER_NS_NS (nsOf (now s))
    endDebug (abortStoreLoads (refresh (setF (intPulse s2 817) FXG_IRQ_TAMPER_SEEN 1) 816))
  else setF (setF { s1 with fox := { s1.fox with tamperOff := true } } FXG_TAMPER_SEC_SEC 0) FXG_TAMPER_NS_NS 0

/-- TAMPER (R535, R560): TAMPER_N has been low for lowNs nanoseconds, with the device powered or not; from 0.5 µs to 1 µs it may or may not act. Log: 102 DESIGN CHOICE, 127 DEDUCED, 129 PRESUMED. -/
def execTamper (lowNs : Nat) (powered : Bool) (s : State) : Res :=
  let (n, s1) := takeFree s
  if isF s FXG_TAMPER_ARM = false ∨ lowNs < 500 ∨ (lowNs < 1000 ∧ Config.tamperShort n = false) then .next s1
  else .next (tamperActs s1 powered)

/-- VBAT_LOW (R534): VBAT below its range while the main rails are on. Log: 129 PRESUMED. -/
def execVbatLow (s : State) : Res := .next (refresh (setF s FXG_IRQ_VBAT_LOW 1) 816)

/-! ## Tile debug (R540) -/

/-- Does the debug session permit tiles? -/
def debugTile (s : State) : Bool := match s.fox.dbg with | some d => d.perm % 2 == 1 | none => false

/-- The tile that FXG_DBG_ATTACH names: its cluster and logical tile. -/
def debugNamed (s : State) : Nat × Nat := (8 * getF s FXG_DBG_ATTACH_QUAD + getF s FXG_DBG_ATTACH_CLUSTER, getF s FXG_DBG_ATTACH_TILE)

/-- Stop or free the issue of the attached tile (R540). Log: 54 DEDUCED. -/
def applyHalt (s : State) : State :=
  if isF s FXG_DBG_ATTACH_ATTACHED = false then s
  else match physOf s (debugNamed s).1 (debugNamed s).2 with
    | some p => setTile s p { getTile s p with halted := isF s FXG_DBG_ATTACH_HALT }
    | none => s

/-- A write of FXG_DBG_ATTACH (R540): the tile's fields are ignored while EN is 1, and a 1 in EN without TILE. -/
def writeAttach (s : State) (k t : Nat) (en halt : Bool) : State :=
  let s1 := if isF s FXG_DBG_ATTACH_EN then s
    else setF (setF (setF s FXG_DBG_ATTACH_QUAD (k / 8)) FXG_DBG_ATTACH_CLUSTER (k % 8)) FXG_DBG_ATTACH_TILE t
  let s2 := if en = true ∧ debugTile s = false then s1 else setF s1 FXG_DBG_ATTACH_EN (ofBool en)
  applyHalt (setF s2 FXG_DBG_ATTACH_HALT (ofBool halt))

/-- DEBUG_ATTACH (R540): the write of EN with the logical tile it names. -/
def execDebugAttach (k : Fin 32) (t : Fin 8) (en : Bool) (s : State) : Res :=
  .next (writeAttach s k.val t.val en (isF s FXG_DBG_ATTACH_HALT))

/-- HALT (R540): the write of FXG_DBG_ATTACH.HALT; while attached, it stops issue at the next bundle boundary. -/
def execHalt (on : Bool) (s : State) : Res := .next (applyHalt (setF s FXG_DBG_ATTACH_HALT (ofBool on)))

/-- The tile of the debug session at a boundary of quadrant q at which it runs no task (R481, R483, R498, R500, R540): it is attached, and lost; or detached, its programs removed and
in service again. Log: 125 DEDUCED. -/
def boundaryDebug (s : State) (q : Nat) : State :=
  let (k, t) := debugNamed s
  let idle := !(resBusy s k t)
  if k / 8 ≠ q then s
  else if isF s FXG_DBG_ATTACH_ATTACHED then
    (if isF s FXG_DBG_ATTACH_EN ∧ debugTile s = true then s
     else
      let s1 := applyHalt (setF s FXG_DBG_ATTACH_HALT 0)
      let s2 := setF s1 FXG_DBG_ATTACH_ATTACHED 0
      { s2 with progs := s2.progs.filter fun v => !(v.cluster == k && v.tile == t) })
  else if isF s FXG_DBG_ATTACH_EN ∧ debugTile s = true ∧ idle = true then
    (let s1 := setF s FXG_DBG_ATTACH_ATTACHED 1
     applyHalt (wakeEvent (resourceLost s1 q) k 3))
  else s

/-! ## Test access (R520) -/

/-- BYPASS (R520). -/
def execBypass (s : State) : Res := .next { s with jtag := .bypass }

/-- SAMPLE_PRELOAD (R520): never disturbs operation. Log: 128 DEDUCED. -/
def execSamplePreload (s : State) : Res := .next { s with jtag := .samplePreload }

/-- IDCODE (R520): reads 0x1419_2779. Log: 128 DEDUCED. -/
def execIdcode (s : State) : Res := .next (emit { s with jtag := .idcode } (.jtagId 0x14192779))

/-- An instruction that takes the balls from the device's logic: it takes effect only while POR_N is low, and acts as BYPASS otherwise (R520). Log: 128 DEDUCED. -/
def ballInstr (s : State) (porLow : Bool) (j : Jtag) : State := { s with jtag := if porLow then j else .bypass }

/-- EXTEST (R520). -/
def execExtest (porLow : Bool) (s : State) : Res := .next (ballInstr s porLow .extest)
/-- EXTEST_PULSE (R520). -/
def execExtestPulse (porLow : Bool) (s : State) : Res := .next (ballInstr s porLow .extestPulse)
/-- EXTEST_TRAIN (R520). -/
def execExtestTrain (porLow : Bool) (s : State) : Res := .next (ballInstr s porLow .extestTrain)
/-- HIGHZ (R520). -/
def execHighz (porLow : Bool) (s : State) : Res := .next (ballInstr s porLow .highz)
/-- CLAMP (R520). -/
def execClamp (porLow : Bool) (s : State) : Res := .next (ballInstr s porLow .clamp)

end Sys2Proof.Machine
end

