-- ==== Sys2Proof/Machine/Boundaries.lean ====
section
/-!
DEFINITION. The instants at which effects wait for a grid: the scheduling tick (spec/02_larkspur_time.md R61), the slot boundaries of the quadrants (R62) and of the
carrier instances (R71). Each happens in the always-on cycle in which its instant falls, once.
-/

namespace Sys2Proof.Machine

/-- Move to an instant of the present cycle. -/
def atInstant (s : State) (t : Int) : State := atDt s (t - ctPs s).toNat

/-- The scheduling tick of the present cycle, or the next one: NS a multiple of 250 (R61). Log: 24 DEDUCED. -/
def nextTick (s : State) : Int := nextMultiple (ctPs s) 250000

/-- SCHEDULING_TICK (R61): every partition receives its strobe (R447), and PX0 and PX1 take a clock setting, a swap or a restart that waits for the tick (R459, R462). Log: 24 DEDUCED. -/
def execSchedulingTick (s : State) : Res :=
  let t := nextTick s
  if inCycle s t = false ∨ s.lks.tickDone = true then .next s
  else
    let s1 := atInstant s t
    let s2 := emit { s1 with lks := { s1.lks with tickDone := true } } .tickStrobe
    .next (partitionBoundary (partitionBoundary s2 16 t) 17 t)

/-- What a slot boundary t of quadrant q brings: delay updates (R69) and the check of R111, a spare lane's switch-over (R423), the partitions with their strobe (R447, R459, R462),
tiles that take over or return (R16, R501, R502), and the debug session's tile (R540). -/
def quadBoundary (s : State) (q : Nat) (t : Int) : State :=
  let s1 := (List.range 16).foldl (fun s i => updateDelays s (16 * q + i)) s
  let s2 := raiseDelayViol (switchOver s1 q t)
  let s3 := (List.range 4).foldl (fun s i => partitionBoundary s (4 * q + i) t) (emit s2 (.slotStrobe q))
  let s4 := (List.range 8).foldl (fun s c => boundaryTiles s (8 * q + c)) s3
  boundaryDebug s4 q

/-- QUADRANT_SLOT_BOUNDARY (R62). Log: 24 DEDUCED. -/
def execQuadrantSlotBoundary (q : Fin 4) (s : State) : Res :=
  let t := nextQuadBoundary s q.val (ctPs s)
  if inCycle s t = false ∨ quadDark s q.val = true ∨ s.lks.slotDone.testBit q.val = true then .next s
  else
    let s1 := atInstant s t
    .next (quadBoundary { s1 with lks := { s1.lks with slotDone := s1.lks.slotDone + 2 ^ q.val } } q.val t)

/-- The first boundary, in the present cycle or later, of the slot grid of a numerology of carrier instance n. -/
def gridBoundary (s : State) (n mu : Nat) : Int :=
  let ofs := getSF s (LKS_CI_OFS_OFS n)
  slotBoundary mu ofs (firstSlotAt mu ofs (ctPs s))

/-- The slot boundary of carrier instance n in the present cycle, or the next one (R71): the first on the grid of any of its plans that hold resources, since each counts its slots in its own
numerology (R108, R109). -/
def nextCiBoundary (s : State) (n : Nat) : Int :=
  (plansOf s n).foldl (fun t p => min t (gridBoundary s n p.mu)) (gridBoundary s n (ciMu s n))

/-- CARRIER_SLOT_BOUNDARY (R71): a dropped or replaced plan's resources become free (R108, R109), and DELAY_VIOL clears where every delay is back within the bounds (R111). -/
def execCarrierSlotBoundary (ci : Fin 512) (s : State) : Res :=
  let t := nextCiBoundary s ci.val
  if inCycle s t = false then .next s
  else .next (clearDelayViol (freePlans (atInstant s t) ci.val) ci.val)

end Sys2Proof.Machine
end

