-- ==== Sys2Proof/Machine/LoadStore.lean ====
section
/-!
DEFINITION. The scalar syllables of the LS slot (spec/05_phimar_scalar.md R167 to R170, R185; spec/07_memory.md R267).
-/

namespace Sys2Proof.Machine

/-- LDW (R185): rd = the word. -/
def execLdw (y : Sy) (rd ra : Reg) (imm : BitVec 12) (s : State) : Res :=
  .next (giveSyllable y.tile.val y.e (.ls .ldw rd.toNat ra.toNat imm.toNat 0 0 false) s)

/-- LDH (R185): rd = sext(halfword). -/
def execLdh (y : Sy) (rd ra : Reg) (imm : BitVec 12) (s : State) : Res :=
  .next (giveSyllable y.tile.val y.e (.ls .ldh rd.toNat ra.toNat imm.toNat 0 0 false) s)

/-- LDHU (R185): rd = zext(halfword). -/
def execLdhu (y : Sy) (rd ra : Reg) (imm : BitVec 12) (s : State) : Res :=
  .next (giveSyllable y.tile.val y.e (.ls .ldhu rd.toNat ra.toNat imm.toNat 0 0 false) s)

/-- LDB (R185): rd = sext(byte). -/
def execLdb (y : Sy) (rd ra : Reg) (imm : BitVec 12) (s : State) : Res :=
  .next (giveSyllable y.tile.val y.e (.ls .ldb rd.toNat ra.toNat imm.toNat 0 0 false) s)

/-- LDBU (R185): rd = zext(byte). -/
def execLdbu (y : Sy) (rd ra : Reg) (imm : BitVec 12) (s : State) : Res :=
  .next (giveSyllable y.tile.val y.e (.ls .ldbu rd.toNat ra.toNat imm.toNat 0 0 false) s)

/-- STW (R185): store rd[31:0]. -/
def execStw (y : Sy) (rd ra : Reg) (imm : BitVec 12) (s : State) : Res :=
  .next (giveSyllable y.tile.val y.e (.ls .stw rd.toNat ra.toNat imm.toNat 0 0 false) s)

/-- STH (R185): store rd[15:0]. -/
def execSth (y : Sy) (rd ra : Reg) (imm : BitVec 12) (s : State) : Res :=
  .next (giveSyllable y.tile.val y.e (.ls .sth rd.toNat ra.toNat imm.toNat 0 0 false) s)

/-- STB (R185): store rd[7:0]. -/
def execStb (y : Sy) (rd ra : Reg) (imm : BitVec 12) (s : State) : Res :=
  .next (giveSyllable y.tile.val y.e (.ls .stb rd.toNat ra.toNat imm.toNat 0 0 false) s)

/-- LDW_POSTINC (R185): as LDW at ra, then ra + sext(IMM12) into ra. -/
def execLdwPostinc (y : Sy) (rd ra : Reg) (imm : BitVec 12) (s : State) : Res :=
  .next (giveSyllable y.tile.val y.e (.ls .ldwPost rd.toNat ra.toNat imm.toNat 0 0 false) s)

/-- STW_POSTINC (R185): as STW at ra, then ra + sext(IMM12) into ra. -/
def execStwPostinc (y : Sy) (rd ra : Reg) (imm : BitVec 12) (s : State) : Res :=
  .next (giveSyllable y.tile.val y.e (.ls .stwPost rd.toNat ra.toNat imm.toNat 0 0 false) s)

/-- FENCE_SYLLABLE (R267): a fence, which takes no effect here beyond its bundle. Log: 11 DESIGN CHOICE, 53 DEDUCED. -/
def execFenceSyllable (y : Sy) (scope kind : BitVec 2) (s : State) : Res :=
  .next (giveSyllable y.tile.val y.e (.ls .fence 0 0 (scope.toNat + 4 * kind.toNat) 0 0 false) s)

end Sys2Proof.Machine
end

