-- ==== Sys2Proof/Machine/LineCode.lean ====
section
/-!
DEFINITION. Below the blocks of an ORL lane (spec/11_lanes.md R391, R399): the scrambler, the Reed–Solomon code over GF(2^10), and the bits on the line that the blocks a lane has sent
stand for. What is sent is recorded as blocks (State.out); the bits are computed from them.
-/

namespace Sys2Proof.Machine

/-! ## RS(140,132) (R399) -/

/-- The product with α in the field of R399. -/
def tenDouble (a : Nat) : Nat := if a < 512 then 2 * a else (2 * a) ^^^ 0x409

/-- a times the low n bits of b in the field of R399. -/
def tenMul : Nat → Nat → Nat → Nat
  | 0, _, _ => 0
  | n + 1, a, b => (if b % 2 = 1 then a else 0) ^^^ tenMul n (tenDouble a) (b / 2)

/-- a times b. -/
def tenProd (a b : Nat) : Nat := tenMul 10 a b

/-- α to the power n. -/
def tenPow (n : Nat) : Nat := n.repeat tenDouble 1

/-- The inverse of a nonzero element: its power 1,022. -/
def tenInv (a : Nat) : Nat := (List.range 8).foldl (fun r _ => let x := tenProd r r; tenProd x a) a |> fun x => tenProd x x

/-- The generator polynomial with roots α^0 to α^7, highest coefficient first without the leading 1. -/
def tenGen : List Nat :=
  ((List.range 8).foldl (fun (p : List Nat) i => (p ++ [0]).zipWith (· ^^^ ·) (0 :: p.map (tenProd (tenPow i)))) [1]).drop 1

/-- The 8 parity symbols of the data symbols, the first symbol being the highest coefficient. Log: 77 DESIGN CHOICE. -/
def tenParity (data : List Nat) : List Nat :=
  data.foldl (fun r d => let f := d ^^^ r.headD 0; (r.drop 1 ++ [0]).zipWith (· ^^^ ·) (tenGen.map (tenProd f))) (List.replicate 8 0)

/-- Syndrome j of an error pattern: places with their values. -/
def tenSyndrome (e : List (Nat × Nat)) (j : Nat) : Nat := e.foldl (fun a x => a ^^^ tenProd x.2 (tenPow (j * (139 - x.1) % 1023))) 0

/-- One step of the search for the shortest recurrence of the syndromes: its polynomial and length, the last one before a change of length with its discrepancy, and the distance. -/
def recurStep (ss : List Nat) (x : List Nat × Nat × List Nat × Nat) (n : Nat) : List Nat × Nat × List Nat × Nat :=
  let (c, len, b, db) := x
  let d := (List.range (len + 1)).foldl (fun a i => a ^^^ tenProd (getAt 0 c i) (getAt 0 ss (n - i))) 0
  let b1 := 0 :: b
  if d = 0 then (c, len, b1, db)
  else
    let k := tenProd d (tenInv db)
    let m := max c.length b1.length
    let c1 := (List.range m).map fun i => getAt 0 c i ^^^ tenProd k (getAt 0 b1 i)
    if 2 * len ≤ n then (c1, n + 1 - len, c, d) else (c1, len, b1, db)

/-- What decoding a codeword with an error pattern gives (R399): the number of symbols corrected, at most four; none where it is uncorrectable. A pattern that lies within four symbols of
another codeword decodes to that one. -/
def lineDecode (e : List (Nat × Nat)) : Option Nat :=
  let ss := (List.range 8).map (tenSyndrome e)
  if ss.all (· == 0) then some 0
  else
    let (c, len, _, _) := (List.range 8).foldl (recurStep ss) ([1], 0, [1], 1)
    let roots := ((List.range 140).filter fun i => c.foldr (fun a r => a ^^^ tenProd r (tenPow ((1023 - i) % 1023))) 0 == 0).length
    if len ≤ 4 ∧ roots = len then some len else none

/-! ## The bits on the line (R391, R399) -/

/-- The bits of v from the lowest. -/
def lowBits (n v : Nat) : List Bool := (List.range n).map fun i => bitOf v i == 1

/-- The scrambler x^58 + x^39 + 1 over one bit: the last 58 bits sent, the newest in bit 0, and the bit sent. -/
def scrambleBit (r : Nat) (b : Bool) : Nat × Bool :=
  let x := b ^^ (bitOf r 38 == 1) ^^ (bitOf r 57 == 1)
  (2 * (r % 2 ^ 57) + ofBool x, x)

/-- Scramble bits in the order sent. -/
def scramble (r : Nat) : List Bool → Nat × List Bool
  | [] => (r, [])
  | b :: t => let x := scrambleBit r b; let y := scramble x.1 t; (y.1, x.2 :: y.2)

/-- Undo the scrambler over bits as received. -/
def descramble (r : Nat) : List Bool → List Bool
  | [] => []
  | x :: t => (x ^^ (bitOf r 38 == 1) ^^ (bitOf r 57 == 1)) :: descramble (2 * (r % 2 ^ 57) + ofBool x) t

/-- The blocks of an output of lane l: is each a control block, and its payload. -/
def outBlocks (l : Nat) : Output → List (Bool × Nat)
  | .frame m _ bs _ => if m = l then bs.map (false, ·) else []
  | .block m v => if m = l then [(true, v)] else []
  | .idleBlocks m n => if m = l then List.replicate n (true, ctrlBlock 0x1E 0) else []
  | _ => []

/-- The outputs since the lane last left electrical idle. -/
def sinceIdle (l : Nat) (out : List Output) : List Output := (out.reverse.takeWhile fun o => o != .lineStart l).reverse

/-- The 66 bits of a block with the scrambler's content r: sync header 0b10 for control and 0b01 for data, bit 0 first, then the scrambled payload (R391). -/
def blockBits (r : Nat) (b : Bool × Nat) : Nat × List Bool :=
  let x := scramble r (lowBits 64 b.2)
  (x.1, lowBits 2 (if b.1 then 2 else 1) ++ x.2)

/-- The bits of blocks in order. -/
def blocksBits (r : Nat) : List (Bool × Nat) → List (List Bool)
  | [] => []
  | b :: t => let x := blockBits r b; x.2 :: blocksBits x.1 t

/-- The bits of a number from a list, bit 0 first. -/
def bitsNat (bs : List Bool) : Nat := bs.foldr (fun b a => ofBool b + 2 * a) 0

/-- The 80 parity bits after 20 blocks of 66 bits. -/
def parityBits (bs : List Bool) : List Bool := (tenParity ((List.range 132).map fun i => bitsNat ((bs.drop (10 * i)).take 10))).flatMap (lowBits 10)

/-- Put its parity after every 20th block. -/
def withParity : List (List Bool) → List (List Bool) → List Bool
  | [], acc => acc.flatten
  | b :: t, acc =>
    let a := acc ++ [b]
    if a.length = 20 then a.flatten ++ parityBits a.flatten ++ withParity t [] else withParity t a

/-- The bits that a radio lane has sent since it left electrical idle, without the timing fill, which lies outside the stream (R391, R396, R399): the scrambler starts with a content that
the spec leaves open. Log: 77 DESIGN CHOICE. -/
def laneBits (s : State) (l : Nat) : List Bool :=
  let bs := blocksBits (Config.scramblerStart l % 2 ^ 58) ((sinceIdle l s.out).flatMap (outBlocks l))
  if laneFec s l then withParity bs [] else bs.flatten

end Sys2Proof.Machine
end

