-- ==== Sys2Proof/Machine/OrlRx.lean ====
section
/-!
DEFINITION. What an ORL lane receives (spec/11_lanes.md R397, R399, R407, R421; spec/08_port_processing.md R298): runs of data blocks as frames and observation groups, and FEC codewords.
-/

namespace Sys2Proof.Machine

/-- The FEC codewords that ended on a lane with FEC, each by its symbols in error: what decoding each gives is counted once FEC lock is held; three in a row that decode give it; more than
64 uncorrectable ones in 1 ms take the lane down (R399, R421). Log: 77 DESIGN CHOICE. -/
def countCodewords (s : State) (l : Nat) (errs : List (List (Nat × BitVec 10))) : State :=
  let os := errs.map fun e => lineDecode (e.map fun x => (x.1 % 140, x.2.toNat))
  let bad := (os.filter (·.isNone)).length
  let s1 := if isF s (LAN_STAT_FEC_LOCK l) then
      countLane (countLane s l cntFecCorr (os.filter fun o => match o with | some n => decide (0 < n) | none => false).length) l cntFecUnc bad
    else s
  let h := getLane s1 l
  let old := h.uncAt.filter fun t => decide (now s - 1000000000 < t)
  setLane s1 l { h with goodCw := os.foldl (fun a o => if o.isNone then 0 else a + 1) h.goodCw, uncAt := old ++ List.replicate bad (now s) }

/-- Note the errored sync headers of received blocks, for the 125 µs of R421. -/
def noteHeaders (s : State) (l : Nat) (bs : List OrlBlock) : State :=
  let h := getLane s l
  let n := (bs.filter fun b => b.hdr == 0 || b.hdr == 3).length
  setLane s l { h with badHdr := (h.badHdr.filter fun t => decide (now s - 125000000 < t)) ++ List.replicate n (now s) }

/-- Take the s-th of the groups of a frame assigned to g: each is checked on its own (R397). -/
def takeGroup (bs : List OrlBlock) (l q np g : Nat) (s0 : State) (x : Nat × Nat) : State :=
  let v := groupOf np x.2 (bs.map (·.payload.toNat))
  let s := cvuGroup s0 l 1 (48 * q + x.1) g v
  if (rxGroup s (48 * q + x.1) g).isSome then s
  else if groupErrored np x.2 bs then putGroup s l q x.1 g 0 false
  else if groupGood (48 * q + x.1) g v then putGroup s l q x.1 g v true
  else countLane (putGroup s l q x.1 g 0 false) l cntCrc 1

/-- A frame of 6P data blocks whose first bit came at t: it is assigned to a group, and each of its port groups is checked and written into the receive area (R397, R298). -/
def takeFrame (s : State) (l : Nat) (t : Int) (bs : List OrlBlock) : State :=
  let ps := laneSlots s l
  let np := ps.length
  let seqs := (List.range np).map fun i => bitsOf (groupOf np i (bs.map (·.payload.toNat))) 364 8
  match frameGroup t (lanePeriod s l) seqs with
  | some g => (ps.zip (List.range np)).foldl (takeGroup bs l (l / 16) np g.toNat) s
  | none => s

/-- A run of data blocks whose first bit came at t: every n consecutive ones are a frame, those left over are discarded and counted (R397). The first argument bounds the frames, and blk
counts the blocks of the run so far. Log: 78 DEDUCED. -/
def takeRun (l n : Nat) (t : Int) : Nat → Nat → List OrlBlock → State → State
  | 0, _, bs, s => countLane s l cntFraming bs.length
  | k + 1, blk, bs, s =>
    if n = 0 ∨ bs.length < n then countLane s l cntFraming bs.length
    else takeRun l n t k (blk + n) (bs.drop n)
      (takeFrame s l (t + (lineBits (laneFec s l) 0 blk * 1000000000000 / lineRate s l : Nat)) (bs.take n))

/-- The blocks of a run on a lane that takes them: an UP radio lane of a quadrant that is not being reinitialised. -/
def takesRuns (s : State) (l : Nat) : Bool := laneRadio s l && laneIsUp s l && (getF s (PRM_Q_STAT_STATE (l / 16)) != 1)

/-- FRAME_RECEIVE (R397, R298, R399): a run of data blocks comes on a live radio lane with block lock, with the codewords that ended. Log: 4 DESIGN CHOICE, 78 DEDUCED. -/
def execFrameReceive (lane : Fin 64) (f : OrlFrame) (s : State) : Res :=
  let l := lane.val
  let s0 := atDt s f.dt
  if laneLive s l = false ∨ laneRadio s l = false ∨ isF s (LAN_STAT_BLOCK_LOCK l) = false then .next s
  else
    let s1 := noteHeaders (if laneFec s l then countCodewords s0 l f.errs else s0) l f.blocks
    let n := 6 * (laneSlots s l).length
    .next (downIfDue (if takesRuns s l then takeRun l n (now s0) f.blocks.length 0 f.blocks s1 else s1) l)

/-- OBS (R397, R407): an OBS block comes with the run of data blocks that follows it: the first six form one observation group, and the others frames. -/
def execObs (lane : Fin 64) (hdr : DWord) (blocks : List OrlBlock) (s : State) : Res :=
  let l := lane.val
  let c := hdr.toNat / 2 ^ 8
  if takesRuns s l = false then .next s
  else
    let s1 := noteHeaders s l blocks
    if blocks.length < 6 then .next (downIfDue (countLane s1 l cntFraming blocks.length) l)
    else .next (downIfDue (takeRun l (6 * (laneSlots s l).length) (now s) blocks.length 6 (blocks.drop 6)
      (takeObs s1 l (bitsOf c 0 2) (bitsOf c 2 7) (bitsOf c 24 32) (blocks.take 6))) l)

end Sys2Proof.Machine
end

