-- ==== Sys2Proof/Machine/Pins.lean ====
section
/-!
DEFINITION. The event pins, PPS_IN and the event FIFO (spec/02_larkspur_time.md R85, R91 to R96).
-/

namespace Sys2Proof.Machine

/-- Is entry a before entry b: by stamp, then by source number (R96)? -/
def evtBefore (a b : EvtEntry) : Bool := decide (a.stamp < b.stamp ∨ (a.stamp = b.stamp ∧ a.source < b.source))

/-- An event enters the FIFO in the order of stamps, and is delivered to PX0 and PX1 (R452); when it holds 256 entries the new one is discarded, LOST counts and source 789 pulses (R96, R439). -/
def fifoPush (s : State) (e : EvtEntry) : State :=
  if 256 ≤ s.evtFifo.length then intPulse (addF s EVT_FIFO_STAT_LOST 1) 789
  else [0, 1].foldl (fun s p => if getF s (PHX_STAT_STATE (16 + p)) = 1 then emit s (.pxEvent p e) else s) { s with evtFifo := insertBy evtBefore e s.evtFifo }

/-- Is the pin armed (R85, R91)? -/
def pinArmed (s : State) (n : Nat) : Bool := if n = 16 then isF s EVT_PPS_CTL_ARM else isF s (EVT_PIN_CTL_ARM n)

/-- Is the pin in level mode? PPS_IN never is (R85). -/
def pinLevelMode (s : State) (n : Nat) : Bool := if n = 16 then false else isF s (EVT_PIN_CTL_LEVEL n)

/-- The EDGE field with 0 taken as 1; PPS_IN is always on the rising edge. -/
def pinEdges (s : State) (n : Nat) : Nat := if n = 16 then 1 else max 1 (getF s (EVT_PIN_CTL_EDGE n))

/-- Does an edge of this direction qualify: in edge mode by EDGE, in level mode as the transition to the active level? -/
def pinQualifies (s : State) (n : Nat) (rising : Bool) : Bool :=
  let e := pinEdges s n
  if pinLevelMode s n then (if e = 2 then !rising else rising)
  else (if e = 3 then true else if e = 2 then !rising else rising)

/-- Is the level the pin's active level? -/
def pinActive (s : State) (n : Nat) (level : Bool) : Bool := if pinEdges s n = 2 then !level else level

/-- Accept an event: a FIFO entry, the pin's interrupt where IRQ_EN is 1, and 200 ns from its stamp in which further edges give none (R93, R439). -/
def pinAccept (s : State) (n : Nat) (t : Int) (rising coalesced : Bool) : State :=
  let s1 := fifoPush s ⟨t, n, rising, coalesced⟩
  let irq := if n = 16 then isF s EVT_PPS_CTL_IRQ_EN else isF s (EVT_PIN_CTL_IRQ_EN n)
  let s2 := if irq then intPulse s1 (if n = 16 then 788 else 772 + n) else s1
  setPin s2 n { getPin s2 n with window := some ⟨t + 200000, (getPin s n).level, none⟩ }

/-- The end of the 200 ns of a pin (R93): if the level differs from the one just after the event, and the pin is in edge mode on both edges or on the one
that led to the present level, one COALESCED event with the stamp of the last edge. ARM, mode and EDGE are those at the end. Log: 27 DEDUCED. -/
def pinCloseWindow (s : State) (n : Nat) : State :=
  let p := getPin s n
  match p.window with
  | some w =>
    let s1 := setPin s n { p with window := none }
    match w.last with
    | some (t, r) =>
      if p.level ≠ w.level ∧ pinLevelMode s n = false ∧ pinQualifies s n p.level = true ∧ pinArmed s n = true then
        pinAccept s1 n t r true
      else s1
    | none => s1
  | none => s

/-- Record the level of a pin at the ball, and since when. Log: 27 DEDUCED. -/
def pinSetLevel (s : State) (n : Nat) (level : Bool) (t : Int) : State :=
  let p := getPin s n
  let s1 := setPin s n (if p.level = level then { p with edge := some t } else { p with level := level, since := t, edge := some t })
  if n = 16 then setF s1 EVT_LEVEL_PPS_IN (ofBool level)
  else if level then setBitF s1 EVT_LEVEL_LEVEL n else clrBitF s1 EVT_LEVEL_LEVEL n

/-- The 200 ns of a pin end where they are over at the instant t. -/
def pinExpire (s : State) (n : Nat) (t : Int) : State :=
  match (getPin s n).window with
  | some w => if w.ends ≤ t then pinCloseWindow s n else s
  | none => s

/-- An edge at a pin: ignored while unarmed (R91); an overrun within 200 ns of the last event (R93) or as an active transition while HELD in level mode (R94, R95); otherwise
an event if it qualifies. Log: 147 DESIGN CHOICE. -/
def pinEdge (s : State) (n : Nat) (t : Int) (rising : Bool) : State :=
  let s0 := pinExpire (pinExpire s n t) n t
  let s1 := pinSetLevel s0 n rising t
  if ¬ pinArmed s n then s1
  else match (getPin s1 n).window with
    | some w =>
      if t < w.ends then
        addF (setPin s1 n { getPin s1 n with window := some { w with last := some (t, rising) } }) (EVT_OVR_COUNT n) 1
      else s1
    | none =>
      if pinQualifies s n rising then
        (if n < 16 ∧ pinLevelMode s n = true ∧ testF s EVT_HELD_HELD n = true then addF s1 (EVT_OVR_COUNT n) 1 else pinAccept s1 n t rising false)
      else s1

/-- Could an edge at the instant t be detected: does it lie 2 ns or more after the last one, so that the pulse between them is not one that is never detected (R92)? -/
def pinDetects (s : State) (n : Nat) (t : Int) : Bool := match (getPin s n).edge with | some e => decide (e + 2000 ≤ t) | none => true

/-- The pin's interrupt source (R439). -/
def pinSrc (n : Nat) : Nat := if n = 16 then 788 else 772 + n

/-- s1, in which an edge of pin n has acted on s, with what that edge changed noted. -/
def pinNote (s s1 : State) (n : Nat) (t : Int) (rising : Bool) : State :=
  let p := getPin s n
  let e : EvtEntry := ⟨t, n, rising, false⟩
  let u : PinUndo :=
    { level := p.level, since := p.since, edge := p.edge, window := p.window,
      entry := if s1.evtFifo.contains e && !s.evtFifo.contains e then some e else none,
      ovr := getF s (EVT_OVR_COUNT n), lost := getF s EVT_FIFO_STAT_LOST, src := getInt s (pinSrc n), lostSrc := getInt s 789 }
  setPin s1 n { getPin s1 n with undo := some u }

/-- The edge that ends a pulse of less than 2 ns: the pulse is never detected (R92), so what its first edge did is undone, and the level is the one of now. -/
def pinUndo (s : State) (n : Nat) (t : Int) (rising : Bool) : State :=
  match (getPin s n).undo with
  | some u =>
    let lost := u.entry.isNone && u.lost != getF s EVT_FIFO_STAT_LOST
    let s1 := match u.entry with
      | some e => { s with evtFifo := s.evtFifo.erase e, out := s.out.filter fun o => o != .pxEvent 0 e && o != .pxEvent 1 e }
      | none => s
    let s2 := setInt (setF s1 (EVT_OVR_COUNT n) u.ovr) (pinSrc n) u.src
    let s3 := if lost then setInt (setF s2 EVT_FIFO_STAT_LOST u.lost) 789 u.lostSrc else s2
    let s4 := pinSetLevel s3 n rising t
    setPin s4 n { level := rising, since := if rising = u.level then u.since else t, edge := u.edge, window := u.window }
  | none => pinSetLevel s n rising t

/-- An edge comes at a pin: one that is detected acts and is noted, one that ends a pulse of less than 2 ns undoes the edge before it (R92). -/
def pinComes (s : State) (n : Nat) (rising : Bool) : State :=
  let t := now s
  if pinDetects s n t then (let s0 := pinExpire (pinExpire s n t) n t; pinNote s0 (pinEdge s0 n t rising) n t rising) else pinUndo s n t rising

/-- EVENT_PIN_EDGE (R91 to R95): an edge of an event pin at dt. Log: 27 DEDUCED, 30 DESIGN CHOICE. -/
def execEventPinEdge (pin : Fin 16) (dt : Nat) (rising : Bool) (s : State) : Res := .next (pinComes (atDt s dt) pin.val rising)

/-- PPS_IN_EDGE (R85): an edge of PPS_IN; an armed rising one is stamped and enters the FIFO as source 16. Log: 27 DEDUCED, 30 DESIGN CHOICE. -/
def execPpsInEdge (dt : Nat) (rising : Bool) (s : State) : Res := .next (pinComes (atDt s dt) 16 rising)

/-- COALESCE_INTERVAL_END (R93): the 200 ns of a pin end. -/
def execCoalesceIntervalEnd (pin : Fin 17) (s : State) : Res :=
  match (getPin s pin.val).window with
  | some w => .next (if reached s w.ends then pinCloseWindow s pin.val else s)
  | none => .next s

/-- PIN_HELD (R95): a level-mode pin active for 1 ms is HELD and raises its interrupt once, whatever IRQ_EN holds (R439). The 1 ms counts from the last change of the level. Log: 27 DEDUCED, 147 DESIGN CHOICE. -/
def execPinHeld (pin : Fin 16) (s : State) : Res :=
  let p := getPin s pin.val
  .next (if pinArmed s pin.val = true ∧ pinLevelMode s pin.val = true ∧ pinActive s pin.val p.level = true
      ∧ testF s EVT_HELD_HELD pin.val = false ∧ reached s (p.since + 1000000000) = true then
    intPulse (setBitF s EVT_HELD_HELD pin.val) (772 + pin.val) else s)

/-- PIN_REARM (R95): a HELD pin inactive for 1 µs without a break is re-armed. -/
def execPinRearm (pin : Fin 16) (s : State) : Res :=
  let p := getPin s pin.val
  .next (if testF s EVT_HELD_HELD pin.val = true ∧ pinActive s pin.val p.level = false ∧ reached s (p.since + 1000000) = true then
    clrBitF s EVT_HELD_HELD pin.val else s)

/-- EVT_FIFO_POP (R96): the head entry is removed; ignored when the FIFO is empty. -/
def execEvtFifoPop (s : State) : Res := .next { s with evtFifo := s.evtFifo.tail }

/-- EVT_FIFO_CLR_LOST (R96): LOST returns to 0. -/
def execEvtFifoClrLost (s : State) : Res := .next (setF s EVT_FIFO_STAT_LOST 0)

/-- EVT_OVR_CLR (R93): the overrun counter of a pin returns to 0. -/
def execEvtOvrClr (pin : Fin 17) (s : State) : Res := .next (setF s (EVT_OVR_COUNT pin.val) 0)

end Sys2Proof.Machine
end

