-- ==== Sys2Proof/Machine/RegWrite.lean ====
section
/-!
DEFINITION. Register accesses of the host and of PX0 and PX1 (spec/00_scope.md R10 to R12; spec/01_hierarchy.md R42 to R44; spec/02_larkspur_time.md "Register maps";
spec/12_cxl.md R431; spec/13_phlox.md R452): what a write of a 32-bit register does, by its access codes, its ranges and the rule of its own, and what a read
returns. A register with a command row of its own has the same effect here.
-/

namespace Sys2Proof.Machine

/-- The state after a command that is carried out as part of another. -/
def nextOr (s : State) (r : Res) : State := match r with | .next t => t | _ => s

/-- Bit i of a written value is 1. -/
def hit (v i : Nat) : Bool := bitOf v i == 1

/-! ## Writes, block by block

Each takes the register found, the BAR0 offset `base` of its first word, and the value `v` and the mask `m` of the bits written. -/

/-- The plain fields of the register found (R10, R12). -/
def putPlain (s : State) (h : RegHit) (base v m : Nat) : State := writeFields s base h.spec.fields v m

/-- PPS_OUT and CLK10_OUT are held low while ARM or OUT_EN is 0 (R84). Log: 29 DEDUCED. -/
def stopPps (s : State) : State :=
  if ppsRuns s = false ∧ s.lks.ppsRise.isSome = true then emit { s with lks := { s.lks with ppsRise := none } } (.pin "PPS_OUT" false (now s)) else s

/-- The domain numbers of a profile (R81). -/
def profileDomain (p2 : Bool) (d : Nat) : Nat := if p2 then clampNat 44 63 d else clampNat 24 43 d

/-- A write of LKS_SERVO_CTL: DOMAIN in the profile's range (R81); a servo disabled shows 0, and with no servo locked the state is HOLDOVER (R78); one enabled acquires, and
waits for its Syncs from now on (R76). -/
def putServoCtl (s : State) (h : RegHit) (base v m i : Nat) : State :=
  let d : Fin 2 := if i = 0 then 0 else 1
  let old := isF s (LKS_SERVO_CTL_EN i)
  let s1 := putPlain s h base v m
  let s2 := setF s1 (LKS_SERVO_CTL_DOMAIN i) (profileDomain (isF s1 (LKS_SERVO_CTL_PROFILE i)) (getF s1 (LKS_SERVO_CTL_DOMAIN i)))
  let en := isF s2 (LKS_SERVO_CTL_EN i)
  if en = old then s2
  else if en then setServo (setServoState s2 d 1) d { getServo s2 d with lastSync := some (now s2) }
  else holdoverIfNone (setServoState s2 d 0)

/-- A write of LKS_SYNCE_CTL: HYBRID takes the frequency of a clock that is locked (R79), and SYNCE_OUT follows (R86). -/
def putSynceCtl (s : State) (h : RegHit) (base v m : Nat) : State :=
  let s1 := takeSynce (putPlain s h base v m)
  if synceOut s1 = synceOut s then s1 else emit s1 (.synceOut (synceOut s1))

/-- A write of LKS_BC_CTL: the domain and the Sync rate in the profile's range (R81). -/
def putBcCtl (s : State) (h : RegHit) (base v m : Nat) : State :=
  let s1 := putPlain s h base v m
  let p2 := isF s1 LKS_BC_CTL_PROFILE
  let s2 := setF s1 LKS_BC_CTL_DOMAIN (profileDomain p2 (getF s1 LKS_BC_CTL_DOMAIN))
  setF s2 LKS_BC_CTL_SYNC_RATE (if p2 then clampNat 1 128 (getF s2 LKS_BC_CTL_SYNC_RATE) else 16)

/-- Larkspur's root (R51, R53, R72, R75, R77, R84, R90). -/
def putLks (s : State) (h : RegHit) (base v m : Nat) : State :=
  match h.spec.name, h.ix with
  | .LKS_CTL, _ => stopPps (commandSwitch (putPlain s h base v m) (if hit v 1 then 1 else 0))
  | .LKS_SNAP, _ => if hit v 0 then { s with lks := { s.lks with pendSnap := true } } else s
  | .LKS_CT_LOAD, _ => if hit v 0 then nextOr s (execCtLoad s) else s
  | .LKS_FADJ, _ => writeFadj s (signedOf 32 v)
  | .LKS_PHASE_REQ, _ => nextOr s (execPhaseReq (BitVec.ofNat 64 v) s)
  | .LKS_SERVO_CTL, [i] => putServoCtl s h base v m i
  | .LKS_BC_CTL, _ => putBcCtl s h base v m
  | .LKS_SYNCE_CTL, _ => putSynceCtl s h base v m
  | .LKS_PTP_DROP, _ => if hit v 31 then nextOr s (execPtpDropClr s) else s
  | .LKS_PPS_CTL, _ => stopPps (putPlain s h base v m)
  | .LKS_CI_OFS, [n] => if planInstalled s n then setF s LKS_CI_OFS_ERR_LOCKED 1 else setF s (LKS_CI_OFS_OFS n) v
  | _, _ => putPlain s h base v m

/-- Larkspur's quadrant leaf (R62, R68, R69, R111): under AUTO with RTT_VALID, Larkspur alone writes a radio lane's delays. -/
def putLeaf (s : State) (h : RegHit) (base v m : Nat) : State :=
  let q := h.unit
  let own := fun (i : Nat) => isF s (LKS_LANE_CTL_AUTO q i) && isF s (LKS_LANE_STAT_RTT_VALID q i) && laneOrl s (16 * q + i)
  match h.spec.name, h.ix with
  | .LKS_QSLOT_OFS, _ => if quadHasPlan s q then s else putPlain s h base v m
  | .LKS_LANE_TXD, [i] | .LKS_LANE_RXD, [i] => if own i then s else raiseDelayViol (putPlain (noteDelay s base) h base v m)
  | .LKS_PORT_TXD, _ | .LKS_PORT_RXD, _ => raiseDelayViol (putPlain (noteDelay s base) h base v m)
  | .LKS_LANE_STAT, _ => refresh (putPlain s h base v m) (qSrc q 186)
  | _, _ => putPlain s h base v m

/-- A write of EVT_PIN_CTL: edge mode has no HELD state (R94). Log: 27 DEDUCED. -/
def putPinCtl (s : State) (h : RegHit) (base v m n : Nat) : State :=
  let s1 := putPlain s h base v m
  if pinLevelMode s1 n then s1 else clrBitF s1 EVT_HELD_HELD n

/-- The event pins (R93, R94, R96). -/
def putEvt (s : State) (h : RegHit) (base v m : Nat) : State :=
  match h.spec.name, h.ix with
  | .EVT_PIN_CTL, [i] => putPinCtl s h base v m i
  | .EVT_OVR, [i] => if hit v 31 then setF s (EVT_OVR_COUNT i) 0 else s
  | .EVT_FIFO_STAT, _ => if hit v 31 then setF s EVT_FIFO_STAT_LOST 0 else s
  | .EVT_FIFO_POP, _ => if hit v 0 then { s with evtFifo := s.evtFifo.tail } else s
  | _, _ => putPlain s h base v m

/-- A write of ADM_RING_CTL (R132, R139): the sizes are taken while EN and DRAINING are 0, then EN acts. Log: 90 DEDUCED. -/
def putRingCtl (s : State) (h : RegHit) (base v m r : Nat) : State :=
  let s1 := putPlain s h base v (if ringEn s r || ringDraining s r then 0x1C else m - 1)
  if hit v 0 then enableRing s1 r else if ringEn s r then disableRing s1 r else s1

/-- The admission unit (R99, R132, R139). -/
def putAdm (s : State) (h : RegHit) (base v m : Nat) : State :=
  let q := h.unit
  match h.spec.name, h.ix with
  | .ADM_CTL, _ | .ADM_IRQ, _ => refresh (putPlain s h base v m) (qSrc q 184)
  | .ADM_CNT_CLR, _ => if hit v 0 then (List.range 16).foldl (fun s c => setF s (ADM_CNT_OUT_COUNT q c) 0) s else s
  | .ADM_RING_CTL, [i] => putRingCtl s h base v m (64 * q + i)
  | .ADM_RING_CMD_BASE, [i] | .ADM_RING_CQ_BASE, [i] => if ringEn s (64 * q + i) || ringDraining s (64 * q + i) then s else putPlain s h base v m
  | _, _ => putPlain s h base v m

/-- A tile's registers (R197, R205). -/
def putTil (s : State) (h : RegHit) (base v m : Nat) : State :=
  match h.spec.name with
  | .TIL_FAULT => refresh (putPlain s h base v m) (clSrc (h.unit / 9) (h.unit % 9))
  | .TIL_MBOX => writeMbox s h.unit v
  | _ => putPlain s h base v m

/-- A write of MEM_HDM (R248): ignored while LOCKED; BASE to 94, SIZE to 32 and cut at unit 95. -/
def putHdm (s : State) (q v : Nat) : State :=
  if isF s (MEM_HDM_LOCKED q) then s
  else
    let b := min 94 (bitsOf v 0 7)
    setF (setF s (MEM_HDM_BASE q) b) (MEM_HDM_SIZE q) (min (min 32 (bitsOf v 8 6)) (95 - b))

/-- The memory controller (R248, R251, R260). -/
def putMem (s : State) (h : RegHit) (base v m : Nat) : State :=
  let q := h.unit
  match h.spec.name with
  | .MEM_HDM => putHdm s q v
  | .MEM_ECC_LOG => refresh (putPlain s h base v m) (qSrc q 185)
  | .MEM_SPARE =>
    let s1 := refresh (putPlain s h base v m) (qSrc q 185)
    if hit v 31 then spareRow s1 q (getF s1 (MEM_ECC_LOG_DPA q)) else s1
  | _ => putPlain s h base v m

/-- The CSM's control (R261, R498): fencing a bank raises source 17 of the cluster (R437) and loses its resources. -/
def putCsm (s : State) (h : RegHit) (base v m : Nat) : State :=
  let k := h.unit
  match h.spec.name with
  | .MEM_CSM_FENCE =>
    (let new := andNot v (getF s (MEM_CSM_FENCE_BANKS k))
     if new = 0 then s
     else resourceLost (((List.range 32).filter fun b => bitOf new b == 1).foldl (fun s _ => intPulse s (clSrc k 17)) (putPlain s h base v m)) (k / 8))
  | .MEM_CSM_LOG => refresh (putPlain s h base v m) (qSrc (k / 8) 185)
  | _ => putPlain s h base v m

/-- A write of PFE_CTX_CTL (R315): the other fields are taken while EN is 0, then EN acts. Log: 90 DEDUCED. -/
def putPfeCtl (s : State) (h : RegHit) (base v m q n : Nat) : State :=
  if isF s (PFE_CTX_CTL_EN q n) then (if hit v 0 then s else disablePfe s q n)
  else
    let s1 := putPlain s h base v (m - 1)
    if hit v 0 then enablePfe s1 q n else s1

/-- The PRACH front end (R315, R334). -/
def putPfe (s : State) (h : RegHit) (base v m : Nat) : State :=
  let q := h.unit
  match h.spec.name, h.ix with
  | .PFE_STAT, _ => refresh (putPlain s h base v m) (qSrc q 187)
  | .PFE_CTX_CTL, [n] => putPfeCtl s h base v m q n
  | .PFE_CTX_PORTS, [n] | .PFE_CTX_FSHIFT, [n] | .PFE_CTX_SCHED, [n] | .PFE_CTX_OCC, [n, _] | .PFE_CTX_OUT, [n] =>
    if isF s (PFE_CTX_CTL_EN q n) then s else putPlain s h base v m
  | _, _ => putPlain s h base v m

/-- The written groups of ports 8w to 8w + 7 wait for the 20 ms instant where they differ from those in force (R333). Log: 74 DEDUCED. -/
def portGroupsPending (s : State) (w v : Nat) : State :=
  (List.range 8).foldl (fun s j =>
    let g := bitsOf v (4 * j) 4
    if portGroupOf s (8 * w + j) = g then s else tddPend s g) s

/-- A write of TDD_RAMP_CFG (R329, R405): a change to SHAPE 2 starts from the table that the device filled. -/
def putRampCfg (s : State) (h : RegHit) (base v m k : Nat) : State :=
  let old := getF s (TDD_RAMP_CFG_SHAPE k)
  let s1 := putPlain s h base v m
  let s2 := if old < 2 ∧ 2 ≤ getF s1 (TDD_RAMP_CFG_SHAPE k) then
      (List.range 32).foldl (fun s i => setR s (TDD_RAMP_TAB k i) (BitVec.ofNat 32 (rampFill old (2 * i) + 2 ^ 16 * rampFill old (2 * i + 1)))) s1
    else s1
  profileChanged s2 k

/-- TDD groups, pins and ramp profiles (R329, R332, R333). -/
def putTdd (s : State) (h : RegHit) (base v m : Nat) : State :=
  match h.spec.name, h.ix with
  | .TDD_GRP_CFG, [g] | .TDD_GRP_P1, [g] | .TDD_GRP_P2, [g] | .TDD_GRP_RAMP, [g] => tddPend (putPlain s h base v m) g
  | .TDD_PORT_GRP, [w] => portGroupsPending (putPlain s h base v m) w v
  | .TDD_PIN, [g] => if hit v 0 then putPlain s h base v m else driveTddPin (putPlain s h base v m) g false
  | .TDD_RAMP_CFG, [k] => putRampCfg s h base v m k
  | .TDD_RAMP_TAB, [k, _] => if getF s (TDD_RAMP_CFG_SHAPE k) < 2 then s else profileChanged (putPlain s h base v m) k
  | _, _ => putPlain s h base v m

/-- A write of LAN_CTL (R398, R419): MODE, FEC and SPARE are taken while EN is 0, then EN acts. Log: 90 DEDUCED. -/
def putLanCtl (s : State) (h : RegHit) (base v m : Nat) : State :=
  let l := h.unit
  if isF s (LAN_CTL_EN l) then
    (let s1 := putPlain s h base v 0x40
     refreshLane (if hit v 0 then s1 else disableLane s1 l) l)
  else
    (let s1 := refreshLane (putPlain s h base v (m - 1)) l
     if hit v 0 then enableLane s1 l else s1)

/-- A write of the port map of a lane (R419, R448): taken while EN is 0; on an attached lane a write that maps a port is ignored and sets ATT_ERR. -/
def putLanMap (s : State) (h : RegHit) (base v m : Nat) (maps : Bool) : State :=
  let l := h.unit
  match maps, lanePhx s l with
  | true, some p => refreshPhx (setF s (PHX_IRQ_ATT_ERR p) 1) p
  | _, _ => if isF s (LAN_CTL_EN l) then s else putPlain s h base v m

/-- A lane (R404, R417, R419, R423). -/
def putLan (s : State) (h : RegHit) (base v m : Nat) : State :=
  let l := h.unit
  match h.spec.name with
  | .LAN_CTL => putLanCtl s h base v m
  | .LAN_STAT => refreshLane (putPlain s h base v m) l
  | .LAN_PORTS => putLanMap s h base v m (v &&& 0x80808080 != 0)
  | .LAN_FDPORTS => putLanMap s h base v m (v % 2 ^ 48 != 0)
  | .LAN_RATE => if isF s (LAN_CTL_EN l) then s else putPlain s h base v m
  | .LAN_SPARE =>
    let s1 := putPlain s h base v m
    if hit v 21 then requestSwitch s1 l else s1
  | .LAN_CNT_CLR => if hit v 0 then clearLaneCounters s l else s
  | .LAN_MQ_TX => mqData s l v
  | .LAN_MQ_TXCTL =>
    let s1 := putPlain s h base v m
    if hit v 31 then mqSend s1 l else s1
  | .LAN_MQ_RXPOP => if hit v 0 then mqPop s l else s
  | _ => putPlain s h base v m

/-- A write of PHX_CTL: IO_EN is not set while the partition is not RUNNING. -/
def putPhxCtl (s : State) (h : RegHit) (base v m : Nat) : State :=
  let p := h.unit
  let s1 := refreshPhx (putPlain s h base v (m - 1)) p
  if hit v 0 then (if getF s1 (PHX_STAT_STATE p) = 1 then setPhxIo s1 p true else s1) else setPhxIo s1 p false

/-- A write of PHX_LOAD (R459, R460): SLOT, then ABORT, then GO. -/
def putPhxLoad (s : State) (h : RegHit) (base v m : Nat) : State :=
  let p := h.unit
  let s1 := putPlain s h base v m
  let s2 := if hit v 30 then loadCancel s1 p else s1
  if hit v 31 then loadGo s2 p else s2

/-- A Phlox partition (R446, R448, R450, R459 to R462). -/
def putPhx (s : State) (h : RegHit) (base v m : Nat) : State :=
  let p := h.unit
  match h.spec.name with
  | .PHX_CTL => putPhxCtl s h base v m
  | .PHX_LOAD => putPhxLoad s h base v m
  | .PHX_LANES => writePhxLanes s p (bitsOf v 0 16)
  | .PHX_BW => writePhxBw s p (bitsOf v 0 4)
  | .PHX_DWIN_BASE => if isF s (PHX_CTL_IO_EN p) then s else putPlain s h base v m
  | .PHX_CLK =>
    let s1 := putPlain s h base v m
    if 16 ≤ p then setPhx s1 p { getPhx s1 p with mhz := clampNat 100 500 (getF s1 (PHX_CLK_MHZ p)) } else s1
  | .PHX_CMD => if hit v 0 then phxRestart s p else s
  | .PHX_IRQ => refreshPhx (putPlain s h base v m) p
  | _ => putPlain s h base v m

/-- A scrubber (R464, R467). -/
def putScr (s : State) (h : RegHit) (base v m : Nat) : State :=
  let s1 := refreshScr (putPlain s h base v m) h.unit
  match h.spec.name with
  | .SCR_CTL => if hit v 31 then scrGo s1 h.unit else s1
  | _ => s1

/-- A write of PRM_Q_CTL (R486, R493): LOCK, then TARGET, then RESET. -/
def putQCtl (s : State) (h : RegHit) (base v m q : Nat) : State :=
  let s1 := writeTarget (putPlain s h base v (m - 3)) q (bitsOf v 0 2)
  if hit v 3 then startReinit s1 q 5 else s1

/-- A write of PRM_PMB_CMD: a GO starts the transaction of R470; the regulator's answer is free. Log: 91 DESIGN CHOICE. -/
def putPmb (s : State) (h : RegHit) (base v m : Nat) : State :=
  let s1 := putPlain s h base v m
  if hit v 31 then
    (let (n, s2) := takeFree s1
     nextOr s2 (execPmbusTransaction (Config.goFact n 0 != 0) (BitVec.ofNat 16 (Config.goFact n 1)) s2))
  else s1

/-- Primrose (R470, R486, R491 to R493, R499, R511, R519). -/
def putPrm (s : State) (h : RegHit) (base v m : Nat) : State :=
  match h.spec.name, h.ix with
  | .PRM_RST, _ => if hit v 0 then chipReset s 2 0 else s
  | .PRM_Q_CTL, [q] => putQCtl s h base v m q
  | .PRM_RAIL_STAT, [k] =>
    refreshRail (putPlain s h base v m) k
  | .PRM_MON_WARN, _ => (setBits 32 0 v).foldl (fun s k => refresh s (840 + k)) (putPlain s h base v m)
  | .PRM_THERM_CTL, _ => refresh (putPlain s h base v m) 872
  | .PRM_PMB_CMD, _ => putPmb s h base v m
  | .PRM_FW_CTL, _ => if hit v 0 then startHandOver s (hit v 1) else putPlain s h base v m
  | .PRM_RETIRE, _ =>
    let s1 := putPlain s h base v m
    if hit v 31 then requestRetire s1 else s1
  | .PRM_RMA, _ => if hit v 0 then rmaCapture s else s
  | _, _ => putPlain s h base v m

/-- Foxglove (R531, R535, R540). Log: 91 DESIGN CHOICE. -/
def putFxg (s : State) (h : RegHit) (base v m : Nat) : State :=
  match h.spec.name with
  | .FXG_CMD =>
    let s1 := if hit v 0 then newNonce s else s
    if hit v 31 then
      (let (n, s2) := takeFree s1
       submitRequest s2 (Config.goFact n 0 != 0))
    else s1
  | .FXG_IRQ => refresh (putPlain s h base v m) 816
  | .FXG_TAMPER => if hit v 0 then setF (putPlain s h base v m) FXG_STAT_TAMPER_ARMED 1 else s
  | .FXG_DBG_ATTACH => writeAttach s (8 * bitsOf v 0 2 + bitsOf v 2 3) (bitsOf v 5 3) (hit v 8) (hit v 10)
  | _ => putPlain s h base v m

/-- A GO of NVS_OP (R544): what the store's codewords meet is free. Log: 91 DESIGN CHOICE. -/
def nvsGo (s : State) : State :=
  match getF s NVS_OP_OP with
  | 1 => nvsProgram s
  | 2 =>
    let (n, s1) := takeFree s
    nvsRead s1 { corr := Config.goFact n 2, bad := if Config.goFact n 3 = 0 then none else some (Config.goFact n 4) }
  | _ => s

/-- The non-volatile store (R543, R544). -/
def putNvs (s : State) (h : RegHit) (base v m : Nat) : State :=
  match h.spec.name, h.ix with
  | .NVS_STAT, _ => refresh (putPlain s h base v m) 824
  | .NVS_OP, _ =>
    let s1 := putPlain s h base v m
    if hit v 31 then nvsGo s1 else s1
  | .NVS_SLOT_CFG, [n] => writeSlotCfg s n v
  | _, _ => putPlain s h base v m

/-- The interrupt controller (R440 to R443). -/
def putInt (s : State) (h : RegHit) (base v m : Nat) : State :=
  match h.spec.name, h.ix with
  | .INT_CTL, _ => if hit v 0 then nextOr s (execClrCnt s) else s
  | .INT_ACK, _ => ackSource s (bitsOf v 0 10)
  | .INT_SRC_CFG, [n] => writeSrcCfg s n v
  | _, _ => putPlain s h base v m

/-- The CXL port. -/
def putCxl (s : State) (h : RegHit) (base v m : Nat) : State :=
  match h.spec.name with
  | .CXL_CNT_CLR => if hit v 0 then nextOr s (execCxlCntClr s) else s
  | _ => putPlain s h base v m

/-- Cluster power (R473, R480, R481, R485). -/
def putPwrc (s : State) (h : RegHit) (base v m : Nat) : State :=
  match h.spec.name with
  | .PWR_CL_CTL => writeClCtl s h.unit v
  | .PWR_CL_CMD => writeClCmd s h.unit v
  | _ => putPlain s h base v m

/-- A write of value v under mask m to the register found. -/
def putReg (s : State) (h : RegHit) (base v m : Nat) : State :=
  let k := h.unit
  match h.block with
  | .lks => putLks s h base v m
  | .leaf => putLeaf s h base v m
  | .evt => putEvt s h base v m
  | .adm => putAdm s h base v m
  | .til => putTil s h base v m
  | .mem => putMem s h base v m
  | .csm => putCsm s h base v m
  | .dma => writeDma s k h (base + 4 * h.word) (v / 2 ^ (32 * h.word))
  | .cvu => writeCvu s k h (base + 4 * h.word) (v / 2 ^ (32 * h.word))
  | .pfe => putPfe s h base v m
  | .tdd => putTdd s h base v m
  | .dte => if h.spec.name = .DTE_CNT_CLR then (if hit v 0 ∧ k < 32 then nextOr s (execDteCntClr (Fin.ofNat 32 k) s) else s) else putPlain s h base v m
  | .cde => if h.spec.name = .CDE_CNT_CLR then (if hit v 0 ∧ k < 32 then nextOr s (execCdeCntClr (Fin.ofNat 32 k) s) else s) else putPlain s h base v m
  | .cee => if h.spec.name = .CEE_CNT_CLR then (if hit v 0 ∧ k < 32 then nextOr s (execCeeCntClr (Fin.ofNat 32 k) s) else s) else putPlain s h base v m
  | .lan => putLan s h base v m
  | .cxl => putCxl s h base v m
  | .int => putInt s h base v m
  | .phx => putPhx s h base v m
  | .scr => putScr s h base v m
  | .prm => putPrm s h base v m
  | .pwrq => refresh (putPlain s h base v m) (qSrc k 190)
  | .pwrc => putPwrc s h base v m
  | .fxg => putFxg s h base v m
  | .nvs => putNvs s h base v m
  | .dah | .xfe | .bme | .ring => putPlain s h base v m

/-! ## Ranges that hold no registers -/

/-- The flat address that a word of FXG_DBG_WIN shows (R540): pages 0 and 1 are the attached tile's instruction memory, 2 to 9 its scratchpad. Log: 94 DESIGN CHOICE. -/
def debugFlat (s : State) (o : Nat) : Option Nat :=
  if isF s FXG_DBG_ATTACH_ATTACHED = false then none
  else
    let pg := min 9 (getF s FXG_DBG_OFS_PAGE)
    (physOf s (debugNamed s).1 (debugNamed s).2).map fun p => if pg < 2 then imemFlat p + 65536 * pg + o else scratchFlat p + 65536 * (pg - 2) + o

/-- Windows of BAR0 that are not registers: FXG_MBOX, FXG_DBG_WIN, the NVS page buffer, the MSI-X table and its pending bits, the CXL component and device registers. -/
inductive BarWindow where
  | mbox (o : Nat)
  | debug (o : Nat)
  | page (o : Nat)
  | msix (v : Nat)
  | pba
  | component
deriving DecidableEq, Repr

/-- The window that holds BAR0 offset a. -/
def windowAt (a : Nat) : Option BarWindow :=
  if fxgBase + 0x1000 ≤ a ∧ a < fxgBase + 0x2000 then some (.mbox (a - (fxgBase + 0x1000)))
  else if fxgBase + 0x10000 ≤ a ∧ a < fxgBase + 0x20000 then some (.debug (a - (fxgBase + 0x10000)))
  else if nvsBase + 0x10000 ≤ a ∧ a < nvsBase + 0x20000 then some (.page (a - (nvsBase + 0x10000)))
  else if intBase + 0x10000 ≤ a ∧ a < intBase + 0x18000 then some (.msix ((a - (intBase + 0x10000)) / 16))
  else if intBase + 0x18000 ≤ a ∧ a < intBase + 0x18100 then some .pba
  else if cxlBase ≤ a ∧ a < cxlBase + 0x20000 then some .component
  else none

/-- A 32-bit write into a window. A CXL component or device register holds what is written; what its write does is the
HDM decoder's command. Log: 60 DEDUCED, 94 DESIGN CHOICE. -/
def putWindow (s : State) (w : BarWindow) (a v : Nat) : State :=
  match w with
  | .mbox o => { s with fox := { s.fox with mbox := (List.range 4).foldl (fun mb i => smPut (fun _ => 0) (o + i) (BitVec.ofNat 8 (bitsOf v (8 * i) 8)) mb) s.fox.mbox } }
  | .debug o => (match debugFlat s o with | some x => wrMem s x (leBytes 4 v) | none => s)
  | .page o => { s with pageBuf := (List.range 4).foldl (fun mb i => smPut (fun _ => 0) (o + i) (BitVec.ofNat 8 (bitsOf v (8 * i) 8)) mb) s.pageBuf }
  | .msix n => flushVector (setR s a (BitVec.ofNat 32 v)) n
  | .component => { s with comp := smPut (fun _ => none) a (some (BitVec.ofNat 32 v)) s.comp }
  | .pba => s

/-! ## Writes -/

/-- Is the register one of those for which a write of the low word is held (the register maps of Larkspur and the event pins)? Log: 28 DEDUCED. -/
def heldBlock (h : RegHit) : Bool := h.spec.words == 2 && (h.block == .lks || h.block == .leaf || h.block == .evt)

/-- The low word that a write of the high word uses: the held one, or the present one, 0 for a WO register. -/
def lowWord (s : State) (h : RegHit) (base : Nat) : Nat :=
  match smGet (fun _ => none) s.heldLow base with
  | some w => w.toNat
  | none => if h.spec.fields.all fun f => f.acc == .wo then 0 else (getR s base).toNat

/-- A write of the whole 32-bit word at offset a (a multiple of 4) of the register found. Log: 28 DEDUCED. -/
def writeHit (s : State) (h : RegHit) (a v : Nat) : State :=
  let base := a - 4 * h.word
  if heldBlock h then
    (if h.word = 0 then { s with heldLow := smPut (fun _ => none) base (some (BitVec.ofNat 32 v)) s.heldLow }
     else putReg { s with heldLow := smPut (fun _ => none) base none s.heldLow } h base (lowWord s h base + 2 ^ 32 * v) (2 ^ 64 - 1))
  else putReg s h base (v * 2 ^ (32 * h.word)) ((2 ^ 32 - 1) * 2 ^ (32 * h.word))

/-- A write of the whole 32-bit word v at BAR0 offset a (a multiple of 4); ignored in a reserved range and where R43, R44 or R530 applies. -/
def writeWord (s : State) (a v : Nat) : State :=
  match windowAt a with
  | some w => putWindow s w a v
  | none => match regAt a with
    | none => s
    | some h => if blockLive s h.block h.unit && regExists h then writeHit s h a v else s

/-- A write of the 32-bit word at BAR0 offset a under four byte enables (R431): taken when all are set; a partly covered register ignores it and counts it. Log: 89 DEDUCED. -/
def writeEnabled (s : State) (a v be : Nat) : State :=
  if be = 15 then writeWord s a v
  else if be = 0 then s
  else if (windowAt a).isSome ∨ (regAt a).isSome then addF s CXL_BAD_ACC_BAR0 1
  else s

/-- REGISTER_WRITE (R10, R431): a BAR0 write of up to 64 bits; bits [31:0] of data and be[3:0] belong to the 32-bit word that holds addr, the rest to the next word. Nothing reaches the port in a recovery
(R427). Log: 89 DEDUCED, 91 DESIGN CHOICE. -/
def execRegisterWrite (addr : BitVec 27) (data : DWord) (be : BitVec 8) (s : State) : Res :=
  let a := addr.toNat / 4 * 4
  .next (if now s < s.linkHeld then s else writeEnabled (writeEnabled s a (bitsOf data.toNat 0 32) (be.toNat % 16)) (a + 4) (bitsOf data.toNat 32 32) (be.toNat / 16))

/-! ## Reads -/

/-- PRM_BOOT.STAGE (R495). Log: 15 DESIGN CHOICE. -/
def bootStage (s : State) : Nat :=
  if s.boot.quads = 15 ∧ s.boot.link = true then 7
  else if s.boot.link then 6
  else if s.boot.parts = 2 ^ 18 - 1 then 5
  else if s.boot.quads ≠ 0 then 4
  else if s.boot.fw then 3 else 0

/-- What the register found shows: the views of Machine/RegView.lean, and those of the later chapters. Log: 12 DESIGN CHOICE. -/
def fullView (s : State) (h : RegHit) (v : Nat) : Nat :=
  match h.spec.name, h.ix with
  | .PRM_BOOT, _ => putBits v 0 4 (bootStage s)
  | .PHX_CTL, _ => putBits v 3 1 (ofBool (rbEnabled s h.unit))
  | .SCR_CHK, _ => scrChk s h.unit
  | .NVS_SLOT_STAT, [n] => putBits v 0 1 (ofBool (slotProtected s n))
  | _, _ => viewOf s h v

/-- Write-only fields read 0 (R10). -/
def readable (fs : List FieldSpec) (v : Nat) : Nat := fs.foldl (fun a f => if f.acc = .wo then a else a + bitsOf v f.lo f.w * 2 ^ f.lo) 0

/-- The value of the register found, both words. -/
def readHit (s : State) (h : RegHit) (a : Nat) : Nat := readable h.spec.fields (fullView s h (storedOf s h a))

/-- What reading a register does besides giving its value: LAN_MQ_RX goes on to the next 4 bytes of the head message (R404). -/
def readEffect (s : State) (h : RegHit) : State :=
  match h.spec.name with
  | .LAN_MQ_RX => setLane s h.unit { getLane s h.unit with mqPos := (getLane s h.unit).mqPos + 4 }
  | _ => s

/-- A word of the CXL component or device registers (R431, R432): CXL 3.1's layout of what was last written there and of the decoders. Log: 60 DEDUCED. -/
def componentWord (s : State) (a : Nat) : Nat :=
  Config.compWord a ((smGet (fun _ => none) s.comp a).map (·.toNat))
    ([0, 1, 2, 3].map fun q => let x := getHdm s q; [x.base, x.size, x.ways, ofBool x.committed, ofBool x.err]) % 2 ^ 32

/-- The 32-bit word read at BAR0 offset a (a multiple of 4), and the state after: a read of the low word of a wider register of Larkspur or the event pins latches its high word for the
next read of it. Log: 28 DEDUCED, 60 DEDUCED. -/
def readWord (s : State) (a : Nat) : Nat × State :=
  match windowAt a with
  | some (.mbox _) => (0, s)
  | some (.debug o) => (match debugFlat s o with | some x => (let s1 := settle s (x / 32); (rdLe s1 x 4, s1)) | none => (0, s))
  | some (.page o) => (leNat ((List.range 4).map fun i => bufByte s (o + i)), s)
  | some (.msix _) => ((getR s a).toNat, s)
  | some .pba => ((getR s a).toNat, s)
  | some .component => (componentWord s a, s)
  | none => match regAt a with
    | none => (0, s)
    | some h =>
      if blockLive s h.block h.unit && regExists h then
        (let v := readHit s h a
         if heldBlock h then
           (if h.word = 0 then (bitsOf v 0 32, { s with latchedHigh := smPut (fun _ => none) (a + 4) (some (BitVec.ofNat 32 (bitsOf v 32 32))) s.latchedHigh })
            else match smGet (fun _ => none) s.latchedHigh a with
              | some w => (w.toNat, { s with latchedHigh := smPut (fun _ => none) a none s.latchedHigh })
              | none => (bitsOf v 32 32, s))
         else (bitsOf v (32 * h.word) 32, readEffect s h))
      else (0, s)

/-- Read n 32-bit words from BAR0 offset a. -/
def readWords (s : State) (a : Nat) : Nat → List Byte × State
  | 0 => ([], s)
  | n + 1 =>
    let (v, s1) := readWord s a
    let (bs, s2) := readWords s1 (a + 4) n
    (leBytes 4 v ++ bs, s2)

/-- The 32-bit word at offset a of BAR2 (R133): CMD_HEAD and CQ_TAIL of a ring; while its quadrant is reinitialised, the hub's mirror of it (R507). Log: 93 DEDUCED. -/
def readBar2 (s : State) (a : Nat) : Nat :=
  let r := a / 0x1000
  let x := getQuad s (r / 64)
  let g := if x.reinit.isSome then smGet (fun _ => ({} : Ring)) x.mirrorRings r else getRing s r
  if 256 ≤ r then 0
  else if a % 0x1000 = 0x10 then g.cmdHead
  else if a % 0x1000 = 0x18 then g.cqTail else 0

/-- BAR_READ (R431): the addressed bytes of BAR0 or BAR2. Nothing reaches the port in a recovery (R427). -/
def execBarRead (bar2 : Bool) (addr : BitVec 27) (len : Nat) (s : State) : Res :=
  let o := addr.toNat % 4
  let a := addr.toNat - o
  let n := (o + len + 3) / 4
  if now s < s.linkHeld then .next s
  else if bar2 then .next (emit s (.readData ((((List.range n).flatMap fun i => leBytes 4 (readBar2 s (a + 4 * i))).drop o).take len) false))
  else
    let (bs, s1) := readWords s a n
    .next (emit s1 (.readData ((bs.drop o).take len) false))

/-- PX_REGISTER_ACCESS (R452): PX0 or PX1 reads or writes a 32-bit register with the rights of the host. -/
def execPxRegisterAccess (p : Fin 2) (addr : BitVec 27) (write : Option Word) (s : State) : Res :=
  let a := addr.toNat / 4 * 4
  match write with
  | some v => .next (writeWord s a v.toNat)
  | none =>
    let (v, s1) := readWord s a
    .next (emit s1 (.toDesign (16 + p.val) (leBytes 4 v) false))

end Sys2Proof.Machine
end

