-- ==== Sys2Proof/Machine/Scalar.lean ====
section
/-!
DEFINITION. The syllables of the SA and SB slots (spec/05_phimar_scalar.md R175, R180 to R184, R190 to R198, R203, R209): each is given to its tile, and
its bundle issues with the syllable whose E is 1.
-/

namespace Sys2Proof.Machine

/-- NOP_SYLLABLE (R180): nothing. -/
def execNopSyllable (y : Sy) (s : State) : Res :=
  .next (giveSyllable y.tile.val y.e (.sc y.sb .nop y.sat 0 0 0 0) s)

/-- ADD (R180): rd = ra + rb, reduced under SAT. -/
def execAdd (y : Sy) (rd ra rb : Reg) (s : State) : Res :=
  .next (giveSyllable y.tile.val y.e (.sc y.sb .add y.sat rd.toNat ra.toNat rb.toNat 0) s)

/-- SUB (R180): rd = ra − rb, reduced under SAT. -/
def execSub (y : Sy) (rd ra rb : Reg) (s : State) : Res :=
  .next (giveSyllable y.tile.val y.e (.sc y.sb .sub y.sat rd.toNat ra.toNat rb.toNat 0) s)

/-- ADDI (R180): rd = ra + sext(IMM12), reduced under SAT. -/
def execAddi (y : Sy) (rd ra : Reg) (imm : BitVec 12) (s : State) : Res :=
  .next (giveSyllable y.tile.val y.e (.sc y.sb .addi y.sat rd.toNat ra.toNat 0 imm.toNat) s)

/-- AND (R180): rd = ra & rb. -/
def execAnd (y : Sy) (rd ra rb : Reg) (s : State) : Res :=
  .next (giveSyllable y.tile.val y.e (.sc y.sb .and y.sat rd.toNat ra.toNat rb.toNat 0) s)

/-- OR (R180): rd = ra | rb. -/
def execOr (y : Sy) (rd ra rb : Reg) (s : State) : Res :=
  .next (giveSyllable y.tile.val y.e (.sc y.sb .or y.sat rd.toNat ra.toNat rb.toNat 0) s)

/-- XOR (R180): rd = ra ^ rb. -/
def execXor (y : Sy) (rd ra rb : Reg) (s : State) : Res :=
  .next (giveSyllable y.tile.val y.e (.sc y.sb .xor y.sat rd.toNat ra.toNat rb.toNat 0) s)

/-- ORI (R180): rd = ra | zext(IMM12). -/
def execOri (y : Sy) (rd ra : Reg) (imm : BitVec 12) (s : State) : Res :=
  .next (giveSyllable y.tile.val y.e (.sc y.sb .ori y.sat rd.toNat ra.toNat 0 imm.toNat) s)

/-- SHL (R180): rd = ra << rb[5:0], reduced under SAT. -/
def execShl (y : Sy) (rd ra rb : Reg) (s : State) : Res :=
  .next (giveSyllable y.tile.val y.e (.sc y.sb .shl y.sat rd.toNat ra.toNat rb.toNat 0) s)

/-- SHR (R180): logical right shift by rb[5:0]. -/
def execShr (y : Sy) (rd ra rb : Reg) (s : State) : Res :=
  .next (giveSyllable y.tile.val y.e (.sc y.sb .shr y.sat rd.toNat ra.toNat rb.toNat 0) s)

/-- SRA (R180): arithmetic right shift by rb[5:0]. -/
def execSra (y : Sy) (rd ra rb : Reg) (s : State) : Res :=
  .next (giveSyllable y.tile.val y.e (.sc y.sb .sra y.sat rd.toNat ra.toNat rb.toNat 0) s)

/-- SHLI (R180): as SHL by IMM12[4:0]. -/
def execShli (y : Sy) (rd ra : Reg) (imm : BitVec 12) (s : State) : Res :=
  .next (giveSyllable y.tile.val y.e (.sc y.sb .shli y.sat rd.toNat ra.toNat 0 imm.toNat) s)

/-- SHRI (R180): as SHR by IMM12[4:0]. -/
def execShri (y : Sy) (rd ra : Reg) (imm : BitVec 12) (s : State) : Res :=
  .next (giveSyllable y.tile.val y.e (.sc y.sb .shri y.sat rd.toNat ra.toNat 0 imm.toNat) s)

/-- SRAI (R180): as SRA by IMM12[4:0]. -/
def execSrai (y : Sy) (rd ra : Reg) (imm : BitVec 12) (s : State) : Res :=
  .next (giveSyllable y.tile.val y.e (.sc y.sb .srai y.sat rd.toNat ra.toNat 0 imm.toNat) s)

/-- MIN (R180): signed minimum. -/
def execMin (y : Sy) (rd ra rb : Reg) (s : State) : Res :=
  .next (giveSyllable y.tile.val y.e (.sc y.sb .min y.sat rd.toNat ra.toNat rb.toNat 0) s)

/-- MAX (R180): signed maximum. -/
def execMax (y : Sy) (rd ra rb : Reg) (s : State) : Res :=
  .next (giveSyllable y.tile.val y.e (.sc y.sb .max y.sat rd.toNat ra.toNat rb.toNat 0) s)

/-- ABS (R180): rd = |ra|, reduced under SAT. -/
def execAbs (y : Sy) (rd ra : Reg) (s : State) : Res :=
  .next (giveSyllable y.tile.val y.e (.sc y.sb .abs y.sat rd.toNat ra.toNat 0 0) s)

/-- SLT (R180): signed compare. -/
def execSlt (y : Sy) (rd ra rb : Reg) (s : State) : Res :=
  .next (giveSyllable y.tile.val y.e (.sc y.sb .slt y.sat rd.toNat ra.toNat rb.toNat 0) s)

/-- SLTU (R180): unsigned compare. -/
def execSltu (y : Sy) (rd ra rb : Reg) (s : State) : Res :=
  .next (giveSyllable y.tile.val y.e (.sc y.sb .sltu y.sat rd.toNat ra.toNat rb.toNat 0) s)

/-- SEQ (R180): equality. -/
def execSeq (y : Sy) (rd ra rb : Reg) (s : State) : Res :=
  .next (giveSyllable y.tile.val y.e (.sc y.sb .seq y.sat rd.toNat ra.toNat rb.toNat 0) s)

/-- MOVHI (R180): rd = IMM16 << 16. -/
def execMovhi (y : Sy) (rd : Reg) (imm : BitVec 16) (s : State) : Res :=
  .next (giveSyllable y.tile.val y.e (.sc y.sb .movhi y.sat rd.toNat 0 0 imm.toNat) s)

/-- ORLO (R180): rd = rd | zext(IMM16). -/
def execOrlo (y : Sy) (rd : Reg) (imm : BitVec 16) (s : State) : Res :=
  .next (giveSyllable y.tile.val y.e (.sc y.sb .orlo y.sat rd.toNat 0 0 imm.toNat) s)

/-- EXP (R180): the redundant sign bits of ra. -/
def execExp (y : Sy) (rd ra : Reg) (s : State) : Res :=
  .next (giveSyllable y.tile.val y.e (.sc y.sb .exp y.sat rd.toNat ra.toNat 0 0) s)

/-- NORM (R180): rd = ra << EXP(ra). -/
def execNorm (y : Sy) (rd ra : Reg) (s : State) : Res :=
  .next (giveSyllable y.tile.val y.e (.sc y.sb .norm y.sat rd.toNat ra.toNat 0 0) s)

/-- MUL (R180): the low 32 bits of the signed product, or the product saturated. -/
def execMul (y : Sy) (rd ra rb : Reg) (s : State) : Res :=
  .next (giveSyllable y.tile.val y.e (.sc y.sb .mul y.sat rd.toNat ra.toNat rb.toNat 0) s)

/-- MULH (R180): the high 32 bits of the signed product. -/
def execMulh (y : Sy) (rd ra rb : Reg) (s : State) : Res :=
  .next (giveSyllable y.tile.val y.e (.sc y.sb .mulh y.sat rd.toNat ra.toNat rb.toNat 0) s)

/-- MACL (R182): ad + the product of the low halves. -/
def execMacl (y : Sy) (ad : BitVec 2) (ra rb : Reg) (s : State) : Res :=
  .next (giveSyllable y.tile.val y.e (.sc y.sb .macl y.sat ad.toNat ra.toNat rb.toNat 0) s)

/-- MACH (R182): ad + the product of the high halves. -/
def execMach (y : Sy) (ad : BitVec 2) (ra rb : Reg) (s : State) : Res :=
  .next (giveSyllable y.tile.val y.e (.sc y.sb .mach y.sat ad.toNat ra.toNat rb.toNat 0) s)

/-- MSUL (R182): ad − the product of the low halves. -/
def execMsul (y : Sy) (ad : BitVec 2) (ra rb : Reg) (s : State) : Res :=
  .next (giveSyllable y.tile.val y.e (.sc y.sb .msul y.sat ad.toNat ra.toNat rb.toNat 0) s)

/-- MOVA (R182): ad = sext(ra). -/
def execMova (y : Sy) (ad : BitVec 2) (ra : Reg) (s : State) : Res :=
  .next (giveSyllable y.tile.val y.e (.sc y.sb .mova y.sat ad.toNat ra.toNat 0 0) s)

/-- EXTA (R183): rd = ad scaled by rb. -/
def execExta (y : Sy) (rd : Reg) (ad : BitVec 2) (rb : Reg) (s : State) : Res :=
  .next (giveSyllable y.tile.val y.e (.sc y.sb .exta y.sat rd.toNat ad.toNat rb.toNat 0) s)

/-- EXPA (R180): the redundant sign bits of ad beyond 32 bits. -/
def execExpa (y : Sy) (rd : Reg) (ad : BitVec 2) (s : State) : Res :=
  .next (giveSyllable y.tile.val y.e (.sc y.sb .expa y.sat rd.toNat ad.toNat 0 0) s)

/-- BEQZ (R190): branch if ra = 0. -/
def execBeqz (y : Sy) (ra : Reg) (off : BitVec 17) (s : State) : Res :=
  .next (giveSyllable y.tile.val y.e (.sc y.sb .beqz y.sat 0 ra.toNat 0 off.toNat) s)

/-- BNEZ (R190): branch if ra ≠ 0. -/
def execBnez (y : Sy) (ra : Reg) (off : BitVec 17) (s : State) : Res :=
  .next (giveSyllable y.tile.val y.e (.sc y.sb .bnez y.sat 0 ra.toNat 0 off.toNat) s)

/-- BLTZ (R190): branch if ra < 0. -/
def execBltz (y : Sy) (ra : Reg) (off : BitVec 17) (s : State) : Res :=
  .next (giveSyllable y.tile.val y.e (.sc y.sb .bltz y.sat 0 ra.toNat 0 off.toNat) s)

/-- BGEZ (R190): branch if ra ≥ 0. -/
def execBgez (y : Sy) (ra : Reg) (off : BitVec 17) (s : State) : Res :=
  .next (giveSyllable y.tile.val y.e (.sc y.sb .bgez y.sat 0 ra.toNat 0 off.toNat) s)

/-- BGTZ (R190): branch if ra > 0. -/
def execBgtz (y : Sy) (ra : Reg) (off : BitVec 17) (s : State) : Res :=
  .next (giveSyllable y.tile.val y.e (.sc y.sb .bgtz y.sat 0 ra.toNat 0 off.toNat) s)

/-- BLEZ (R190): branch if ra ≤ 0. -/
def execBlez (y : Sy) (ra : Reg) (off : BitVec 17) (s : State) : Res :=
  .next (giveSyllable y.tile.val y.e (.sc y.sb .blez y.sat 0 ra.toNat 0 off.toNat) s)

/-- BR (R190): branch always. -/
def execBr (y : Sy) (off : BitVec 17) (s : State) : Res :=
  .next (giveSyllable y.tile.val y.e (.sc y.sb .br y.sat 0 0 0 off.toNat) s)

/-- CALL (R190): branch always, with s31 the return PC. -/
def execCall (y : Sy) (off : BitVec 17) (s : State) : Res :=
  .next (giveSyllable y.tile.val y.e (.sc y.sb .call y.sat 0 0 0 off.toNat) s)

/-- JR (R190): branch to ra. -/
def execJr (y : Sy) (ra : Reg) (s : State) : Res :=
  .next (giveSyllable y.tile.val y.e (.sc y.sb .jr y.sat 0 ra.toNat 0 0) s)

/-- REP (R192): repeat the next bundle ra times. -/
def execRep (y : Sy) (ra : Reg) (s : State) : Res :=
  .next (giveSyllable y.tile.val y.e (.sc y.sb .rep y.sat 0 ra.toNat 0 0) s)

/-- REPI (R192): repeat the next bundle count times. -/
def execRepi (y : Sy) (count : BitVec 11) (s : State) : Res :=
  .next (giveSyllable y.tile.val y.e (.sc y.sb .repi y.sat 0 0 0 count.toNat) s)

/-- LOOP (R193): loop with the count in ra. -/
def execLoop (y : Sy) (ra : Reg) (rot : Bool) (endW : BitVec 16) (s : State) : Res :=
  .next (giveSyllable y.tile.val y.e (.sc y.sb .loop y.sat 0 ra.toNat 0 (endW.toNat + 65536 * ofBool rot)) s)

/-- LOOPI (R193): loop with an immediate count. -/
def execLoopi (y : Sy) (count : BitVec 11) (rot : Bool) (endW : BitVec 10) (s : State) : Res :=
  .next (giveSyllable y.tile.val y.e (.sc y.sb .loopi y.sat 0 0 0 (endW.toNat + 1024 * ofBool rot + 2048 * count.toNat)) s)

/-- ROTB (R196): vrb = (vrb + n) mod 16. -/
def execRotb (y : Sy) (n : BitVec 4) (s : State) : Res :=
  .next (giveSyllable y.tile.val y.e (.sc y.sb .rotb y.sat 0 0 0 n.toNat) s)

/-- MFC (R175): rd = control register. -/
def execMfc (y : Sy) (rd : Reg) (creg : BitVec 12) (s : State) : Res :=
  .next (giveSyllable y.tile.val y.e (.sc y.sb .mfc y.sat rd.toNat 0 0 creg.toNat) s)

/-- MTC (R175): control register = ra. -/
def execMtc (y : Sy) (creg : BitVec 12) (ra : Reg) (s : State) : Res :=
  .next (giveSyllable y.tile.val y.e (.sc y.sb .mtc y.sat 0 ra.toNat 0 creg.toNat) s)

/-- TASK_END (R209): end of the task. -/
def execTaskEnd (y : Sy) (s : State) : Res :=
  .next (giveSyllable y.tile.val y.e (.sc y.sb .taskEnd y.sat 0 0 0 0) s)

/-- RETI (R203): return from a handler. -/
def execReti (y : Sy) (s : State) : Res :=
  .next (giveSyllable y.tile.val y.e (.sc y.sb .reti y.sat 0 0 0 0) s)

/-- WFE (R198): wait for a line of the mask. -/
def execWfe (y : Sy) (mask : BitVec 3) (s : State) : Res :=
  .next (giveSyllable y.tile.val y.e (.sc y.sb .wfe y.sat 0 0 0 mask.toNat) s)

end Sys2Proof.Machine
end

