-- ==== Sys2Proof/Machine/Vector.lean ====
section
/-!
DEFINITION. The syllables of the VX slot and the vector memory syllables (spec/06_phimar_vector.md R217, R224 to R239).
-/

namespace Sys2Proof.Machine

/-- VNOP (R224): nothing. -/
def execVnop (y : Vy) (s : State) : Res :=
  .next (giveSyllable y.tile.val y.e (.vx .nop y.sat 0 0 0 y.m.toNat y.type.toNat) s)

/-- VSETL (R217): grant a vector length. -/
def execVsetl (y : Vy) (sd sa : Reg) (s : State) : Res :=
  .next (giveSyllable y.tile.val y.e (.vx .setl y.sat sd.toNat sa.toNat 0 y.m.toNat y.type.toNat) s)

/-- VADD (R224): componentwise a + b. -/
def execVadd (y : Vy) (vd va vb : Reg) (s : State) : Res :=
  .next (giveSyllable y.tile.val y.e (.vx .add y.sat vd.toNat va.toNat vb.toNat y.m.toNat y.type.toNat) s)

/-- VSUB (R224): componentwise a − b. -/
def execVsub (y : Vy) (vd va vb : Reg) (s : State) : Res :=
  .next (giveSyllable y.tile.val y.e (.vx .sub y.sat vd.toNat va.toNat vb.toNat y.m.toNat y.type.toNat) s)

/-- VMIN (R224): signed minimum. -/
def execVmin (y : Vy) (vd va vb : Reg) (s : State) : Res :=
  .next (giveSyllable y.tile.val y.e (.vx .min y.sat vd.toNat va.toNat vb.toNat y.m.toNat y.type.toNat) s)

/-- VMAX (R224): signed maximum. -/
def execVmax (y : Vy) (vd va vb : Reg) (s : State) : Res :=
  .next (giveSyllable y.tile.val y.e (.vx .max y.sat vd.toNat va.toNat vb.toNat y.m.toNat y.type.toNat) s)

/-- VABS (R224): componentwise |a|. -/
def execVabs (y : Vy) (vd va : Reg) (s : State) : Res :=
  .next (giveSyllable y.tile.val y.e (.vx .abs y.sat vd.toNat va.toNat 0 y.m.toNat y.type.toNat) s)

/-- VNEG (R224): componentwise −a. -/
def execVneg (y : Vy) (vd va : Reg) (s : State) : Res :=
  .next (giveSyllable y.tile.val y.e (.vx .neg y.sat vd.toNat va.toNat 0 y.m.toNat y.type.toNat) s)

/-- VCONJ (R224): Q negated. -/
def execVconj (y : Vy) (vd va : Reg) (s : State) : Res :=
  .next (giveSyllable y.tile.val y.e (.vx .conj y.sat vd.toNat va.toNat 0 y.m.toNat y.type.toNat) s)

/-- VSHL (R224): componentwise left shift. -/
def execVshl (y : Vy) (vd va rb : Reg) (s : State) : Res :=
  .next (giveSyllable y.tile.val y.e (.vx .shl y.sat vd.toNat va.toNat rb.toNat y.m.toNat y.type.toNat) s)

/-- VSRA (R224): componentwise arithmetic right shift. -/
def execVsra (y : Vy) (vd va rb : Reg) (s : State) : Res :=
  .next (giveSyllable y.tile.val y.e (.vx .sra y.sat vd.toNat va.toNat rb.toNat y.m.toNat y.type.toNat) s)

/-- VSRAR (R224): the same with rounding. -/
def execVsrar (y : Vy) (vd va rb : Reg) (s : State) : Res :=
  .next (giveSyllable y.tile.val y.e (.vx .srar y.sat vd.toNat va.toNat rb.toNat y.m.toNat y.type.toNat) s)

/-- VSPLAT (R224): scalars into every element. -/
def execVsplat (y : Vy) (vd ra rb : Reg) (s : State) : Res :=
  .next (giveSyllable y.tile.val y.e (.vx .splat y.sat vd.toNat ra.toNat rb.toNat y.m.toNat y.type.toNat) s)

/-- VGET (R224): a component into a scalar register. -/
def execVget (y : Vy) (sd va rb : Reg) (s : State) : Res :=
  .next (giveSyllable y.tile.val y.e (.vx .get y.sat sd.toNat va.toNat rb.toNat y.m.toNat y.type.toNat) s)

/-- VMOV (R224): copy. -/
def execVmov (y : Vy) (vd va : Reg) (s : State) : Res :=
  .next (giveSyllable y.tile.val y.e (.vx .mov y.sat vd.toNat va.toNat 0 y.m.toNat y.type.toNat) s)

/-- VMULQ (R224): rounded fractional product. -/
def execVmulq (y : Vy) (vd va vb : Reg) (s : State) : Res :=
  .next (giveSyllable y.tile.val y.e (.vx .mulq y.sat vd.toNat va.toNat vb.toNat y.m.toNat y.type.toNat) s)

/-- VCMULQ (R224): rounded complex product. -/
def execVcmulq (y : Vy) (vd va vb : Reg) (s : State) : Res :=
  .next (giveSyllable y.tile.val y.e (.vx .cmulq y.sat vd.toNat va.toNat vb.toNat y.m.toNat y.type.toNat) s)

/-- VCMULJQ (R224): rounded complex product with conj(b). -/
def execVcmuljq (y : Vy) (vd va vb : Reg) (s : State) : Res :=
  .next (giveSyllable y.tile.val y.e (.vx .cmuljq y.sat vd.toNat va.toNat vb.toNat y.m.toNat y.type.toNat) s)

/-- VMAC (R226): accumulate products. -/
def execVmac (y : Vy) (vad : BitVec 2) (va vb : Reg) (s : State) : Res :=
  .next (giveSyllable y.tile.val y.e (.vx .mac y.sat vad.toNat va.toNat vb.toNat y.m.toNat y.type.toNat) s)

/-- VMSUB (R226): subtract products. -/
def execVmsub (y : Vy) (vad : BitVec 2) (va vb : Reg) (s : State) : Res :=
  .next (giveSyllable y.tile.val y.e (.vx .msub y.sat vad.toNat va.toNat vb.toNat y.m.toNat y.type.toNat) s)

/-- VCMAC (R226): accumulate complex products. -/
def execVcmac (y : Vy) (vad : BitVec 2) (va vb : Reg) (s : State) : Res :=
  .next (giveSyllable y.tile.val y.e (.vx .cmac y.sat vad.toNat va.toNat vb.toNat y.m.toNat y.type.toNat) s)

/-- VCMACJ (R226): accumulate a × conj(b). -/
def execVcmacj (y : Vy) (vad : BitVec 2) (va vb : Reg) (s : State) : Res :=
  .next (giveSyllable y.tile.val y.e (.vx .cmacj y.sat vad.toNat va.toNat vb.toNat y.m.toNat y.type.toNat) s)

/-- VMOVA (R226): components into the accumulator. -/
def execVmova (y : Vy) (vad : BitVec 2) (h : Bool) (va : Reg) (s : State) : Res :=
  .next (giveSyllable y.tile.val y.e (.vx .mova y.sat (vad.toNat + 4 * ofBool h) va.toNat 0 y.m.toNat y.type.toNat) s)

/-- VEXTA (R226): shifted components out of the accumulator. -/
def execVexta (y : Vy) (vd : Reg) (vas : BitVec 2) (h : Bool) (rb : Reg) (s : State) : Res :=
  .next (giveSyllable y.tile.val y.e (.vx .exta y.sat vd.toNat (vas.toNat + 4 * ofBool h) rb.toNat y.m.toNat y.type.toNat) s)

/-- VCLRA (R224): clear accumulators. -/
def execVclra (y : Vy) (set : BitVec 4) (s : State) : Res :=
  .next (giveSyllable y.tile.val y.e (.vx .clra y.sat set.toNat 0 0 y.m.toNat y.type.toNat) s)

/-- VTPERM (R229): table of two registers. -/
def execVtperm (y : Vy) (vd vi vt : Reg) (s : State) : Res :=
  .next (giveSyllable y.tile.val y.e (.vx .tperm y.sat vd.toNat vi.toNat vt.toNat y.m.toNat y.type.toNat) s)

/-- VTPERM2 (R229): table of four registers. -/
def execVtperm2 (y : Vy) (vd vi vt : Reg) (s : State) : Res :=
  .next (giveSyllable y.tile.val y.e (.vx .tperm2 y.sat vd.toNat vi.toNat vt.toNat y.m.toNat y.type.toNat) s)

/-- VWIDEN (R228): elements to twice their width. -/
def execVwiden (y : Vy) (vd va : Reg) (h : Bool) (s : State) : Res :=
  .next (giveSyllable y.tile.val y.e (.vx .widen y.sat vd.toNat va.toNat (ofBool h) y.m.toNat y.type.toNat) s)

/-- VNARROW (R228): elements to half their width. -/
def execVnarrow (y : Vy) (vd va : Reg) (h : Bool) (s : State) : Res :=
  .next (giveSyllable y.tile.val y.e (.vx .narrow y.sat vd.toNat va.toNat (ofBool h) y.m.toNat y.type.toNat) s)

/-- VBEXP (R238): block exponents. -/
def execVbexp (y : Vy) (vd va : Reg) (rs : Reg) (h : Bool) (s : State) : Res :=
  .next (giveSyllable y.tile.val y.e (.vx .bexp y.sat vd.toNat va.toNat 0 (rs.toNat / 2) (rs.toNat % 2 * 4 + 2 * ofBool h)) s)

/-- VNORMB (R239): block rounding. -/
def execVnormb (y : Vy) (vd va vb : Reg) (rs : Reg) (h : Bool) (s : State) : Res :=
  .next (giveSyllable y.tile.val y.e (.vx .normb y.sat vd.toNat va.toNat vb.toNat (rs.toNat / 2) (rs.toNat % 2 * 4 + 2 * ofBool h)) s)

/-- VPACK10 (R239): block rounding into 10 bits. -/
def execVpack10 (y : Vy) (vd va vb : Reg) (rs : Reg) (h : Bool) (s : State) : Res :=
  .next (giveSyllable y.tile.val y.e (.vx .pack10 y.sat vd.toNat va.toNat vb.toNat (rs.toNat / 2) (rs.toNat % 2 * 4 + 2 * ofBool h)) s)

/-- VUNPACK10 (R239): scaling by the block exponents. -/
def execVunpack10 (y : Vy) (vd va vb : Reg) (rs : Reg) (h : Bool) (s : State) : Res :=
  .next (giveSyllable y.tile.val y.e (.vx .unpack10 y.sat vd.toNat va.toNat vb.toNat (rs.toNat / 2) (rs.toNat % 2 * 4 + 2 * ofBool h)) s)

/-- VCMPEQ (R224): elements equal. -/
def execVcmpeq (y : Vy) (md : BitVec 4) (va vb : Reg) (s : State) : Res :=
  .next (giveSyllable y.tile.val y.e (.vx .cmpeq y.sat md.toNat va.toNat vb.toNat y.m.toNat y.type.toNat) s)

/-- VCMPLT (R224): a < b. -/
def execVcmplt (y : Vy) (md : BitVec 4) (va vb : Reg) (s : State) : Res :=
  .next (giveSyllable y.tile.val y.e (.vx .cmplt y.sat md.toNat va.toNat vb.toNat y.m.toNat y.type.toNat) s)

/-- VCMPLE (R224): a ≤ b. -/
def execVcmple (y : Vy) (md : BitVec 4) (va vb : Reg) (s : State) : Res :=
  .next (giveSyllable y.tile.val y.e (.vx .cmple y.sat md.toNat va.toNat vb.toNat y.m.toNat y.type.toNat) s)

/-- VMAND (R224): md = ma & mb. -/
def execVmand (y : Vy) (md ma mb : BitVec 4) (s : State) : Res :=
  .next (giveSyllable y.tile.val y.e (.vx .mand y.sat md.toNat ma.toNat mb.toNat y.m.toNat y.type.toNat) s)

/-- VMOR (R224): md = ma | mb. -/
def execVmor (y : Vy) (md ma mb : BitVec 4) (s : State) : Res :=
  .next (giveSyllable y.tile.val y.e (.vx .mor y.sat md.toNat ma.toNat mb.toNat y.m.toNat y.type.toNat) s)

/-- VMXOR (R224): md = ma ^ mb. -/
def execVmxor (y : Vy) (md ma mb : BitVec 4) (s : State) : Res :=
  .next (giveSyllable y.tile.val y.e (.vx .mxor y.sat md.toNat ma.toNat mb.toNat y.m.toNat y.type.toNat) s)

/-- VMANDN (R224): md = ma & ~mb. -/
def execVmandn (y : Vy) (md ma mb : BitVec 4) (s : State) : Res :=
  .next (giveSyllable y.tile.val y.e (.vx .mandn y.sat md.toNat ma.toNat mb.toNat y.m.toNat y.type.toNat) s)

/-- VMSETN (R224): the first bits of a mask. -/
def execVmsetn (y : Vy) (md : BitVec 4) (ra : Reg) (s : State) : Res :=
  .next (giveSyllable y.tile.val y.e (.vx .msetn y.sat md.toNat ra.toNat 0 y.m.toNat y.type.toNat) s)

/-- VMTOV (R224): a mask into elements. -/
def execVmtov (y : Vy) (vd : Reg) (ma : BitVec 4) (s : State) : Res :=
  .next (giveSyllable y.tile.val y.e (.vx .mtov y.sat vd.toNat ma.toNat 0 y.m.toNat y.type.toNat) s)

/-- VMCNT (R224): bits set in a mask. -/
def execVmcnt (y : Vy) (sd : Reg) (ma : BitVec 4) (s : State) : Res :=
  .next (giveSyllable y.tile.val y.e (.vx .mcnt y.sat sd.toNat ma.toNat 0 y.m.toNat y.type.toNat) s)

/-- VLD (R231): load active elements. -/
def execVld (y : Vy) (vd ra : Reg) (pi : Bool) (s : State) : Res :=
  .next (giveSyllable y.tile.val y.e (.ls .vld vd.toNat ra.toNat 0 y.m.toNat y.type.toNat pi) s)

/-- VST (R231): store active elements. -/
def execVst (y : Vy) (vd ra : Reg) (pi : Bool) (s : State) : Res :=
  .next (giveSyllable y.tile.val y.e (.ls .vst vd.toNat ra.toNat 0 y.m.toNat y.type.toNat pi) s)

/-- VLDX (R231): load 4-bit values. -/
def execVldx (y : Vy) (vd ra : Reg) (pi : Bool) (s : State) : Res :=
  .next (giveSyllable y.tile.val y.e (.ls .vldx vd.toNat ra.toNat 0 y.m.toNat y.type.toNat pi) s)

/-- VSTX (R231): store 4-bit values. -/
def execVstx (y : Vy) (vd ra : Reg) (pi : Bool) (s : State) : Res :=
  .next (giveSyllable y.tile.val y.e (.ls .vstx vd.toNat ra.toNat 0 y.m.toNat y.type.toNat pi) s)

end Sys2Proof.Machine
end

