-- ==== Sys2Proof/Machine/Dispatch.lean ====
section
/-!
DEFINITION. exec: one arm per command, each the one direct call of its meaning.
-/

namespace Sys2Proof.Machine

/-- The effect of a command on everything but the queue. -/
def exec (i : Instr) (s : State) : Host.Outcome State Fault Refusal :=
  match i with
  | .ctAdvance => Sys2Proof.Machine.execCtAdvance s
  | .schedulingTick => Sys2Proof.Machine.execSchedulingTick s
  | .quadrantSlotBoundary q => Sys2Proof.Machine.execQuadrantSlotBoundary q s
  | .carrierSlotBoundary ci => Sys2Proof.Machine.execCarrierSlotBoundary ci s
  | .ctLoad => Sys2Proof.Machine.execCtLoad s
  | .servoLock dom offsetPs => Sys2Proof.Machine.execServoLock dom offsetPs s
  | .referenceLost fInt fRef => Sys2Proof.Machine.execReferenceLost fInt fRef s
  | .referenceGood => Sys2Proof.Machine.execReferenceGood s
  | .snapTake => Sys2Proof.Machine.execSnapTake s
  | .phaseReq v => Sys2Proof.Machine.execPhaseReq v s
  | .domainSwitch dom => Sys2Proof.Machine.execDomainSwitch dom s
  | .servoLost dom => Sys2Proof.Machine.execServoLost dom s
  | .holdoverLimitExpiry => Sys2Proof.Machine.execHoldoverLimitExpiry s
  | .ptpFrameReceive lane m => Sys2Proof.Machine.execPtpFrameReceive lane m s
  | .syncSend lane dt => Sys2Proof.Machine.execSyncSend lane dt s
  | .announceSend lane => Sys2Proof.Machine.execAnnounceSend lane s
  | .delayReqAnswer lane => Sys2Proof.Machine.execDelayReqAnswer lane s
  | .ppsOutEdge => Sys2Proof.Machine.execPpsOutEdge s
  | .ppsOutFall => Sys2Proof.Machine.execPpsOutFall s
  | .ppsInEdge dt rising => Sys2Proof.Machine.execPpsInEdge dt rising s
  | .ptmDialogue hostTime dt => Sys2Proof.Machine.execPtmDialogue hostTime dt s
  | .laneCalibrationEnd lane => Sys2Proof.Machine.execLaneCalibrationEnd lane s
  | .eventPinEdge pin dt rising => Sys2Proof.Machine.execEventPinEdge pin dt rising s
  | .coalesceIntervalEnd pin => Sys2Proof.Machine.execCoalesceIntervalEnd pin s
  | .pinHeld pin => Sys2Proof.Machine.execPinHeld pin s
  | .pinRearm pin => Sys2Proof.Machine.execPinRearm pin s
  | .evtFifoPop => Sys2Proof.Machine.execEvtFifoPop s
  | .evtFifoClrLost => Sys2Proof.Machine.execEvtFifoClrLost s
  | .evtOvrClr pin => Sys2Proof.Machine.execEvtOvrClr pin s
  | .ptpDropClr => Sys2Proof.Machine.execPtpDropClr s
  | .ciOfsWrite ci v => Sys2Proof.Machine.execCiOfsWrite ci v s
  | .registerWrite addr data be => Sys2Proof.Machine.execRegisterWrite addr data be s
  | .cmdTailWrite r v be dt => Sys2Proof.Machine.execCmdTailWrite r v be dt s
  | .cqHeadWrite r v be => Sys2Proof.Machine.execCqHeadWrite r v be s
  | .commandFetch r dt => Sys2Proof.Machine.execCommandFetch r dt s
  | .ringDisable r => Sys2Proof.Machine.execRingDisable r s
  | .ringDrainEnd r => Sys2Proof.Machine.execRingDrainEnd r s
  | .ringEnable r => Sys2Proof.Machine.execRingEnable r s
  | .nop r => Sys2Proof.Machine.execNop r s
  | .jobOpen r => Sys2Proof.Machine.execJobOpen r s
  | .task r => Sys2Proof.Machine.execTask r s
  | .edge r => Sys2Proof.Machine.execEdge r s
  | .atTime r => Sys2Proof.Machine.execAt r s
  | .every r => Sys2Proof.Machine.execEvery r s
  | .jobClose r => Sys2Proof.Machine.execJobClose r s
  | .cancel r => Sys2Proof.Machine.execCancel r s
  | .fence r => Sys2Proof.Machine.execFence r s
  | .signal r => Sys2Proof.Machine.execSignal r s
  | .signalRecord r dt => Sys2Proof.Machine.execSignalRecord r dt s
  | .planSet r => Sys2Proof.Machine.execPlanSet r s
  | .planDecision r dt => Sys2Proof.Machine.execPlanDecision r dt s
  | .planDrop r dt => Sys2Proof.Machine.execPlanDrop r dt s
  | .programLoad r => Sys2Proof.Machine.execProgramLoad r s
  | .programLoadCopyDone r dt => Sys2Proof.Machine.execProgramLoadCopyDone r dt s
  | .programSwap r dt => Sys2Proof.Machine.execProgramSwap r dt s
  | .retiringVersionFreed k t prog => Sys2Proof.Machine.execRetiringVersionFreed k t prog s
  | .jobDecision r dt => Sys2Proof.Machine.execJobDecision r dt s
  | .nodeRelease node => Sys2Proof.Machine.execNodeRelease node s
  | .nodeFetch node => Sys2Proof.Machine.execNodeFetch node s
  | .inputArrival node dt => Sys2Proof.Machine.execInputArrival node dt s
  | .taskStart k res dt => Sys2Proof.Machine.execTaskStart k res dt s
  | .dependenceNotice node dt => Sys2Proof.Machine.execDependenceNotice node dt s
  | .recordWrite node dt => Sys2Proof.Machine.execRecordWrite node dt s
  | .wakeRequest k => Sys2Proof.Machine.execWakeRequest k s
  | .everyFiring r item dt => Sys2Proof.Machine.execEveryFiring r item dt s
  | .windowCloseHostWait node dt => Sys2Proof.Machine.execWindowCloseHostWait node dt s
  | .hostLinkRetrain rate width wide lat behindSwitch => Sys2Proof.Machine.execHostLinkRetrain rate width wide lat behindSwitch s
  | .admCntClr q => Sys2Proof.Machine.execAdmCntClr q s
  | .nopSyllable y => Sys2Proof.Machine.execNopSyllable y s
  | .add y rd ra rb => Sys2Proof.Machine.execAdd y rd ra rb s
  | .sub y rd ra rb => Sys2Proof.Machine.execSub y rd ra rb s
  | .addi y rd ra imm => Sys2Proof.Machine.execAddi y rd ra imm s
  | .and y rd ra rb => Sys2Proof.Machine.execAnd y rd ra rb s
  | .or y rd ra rb => Sys2Proof.Machine.execOr y rd ra rb s
  | .xor y rd ra rb => Sys2Proof.Machine.execXor y rd ra rb s
  | .ori y rd ra imm => Sys2Proof.Machine.execOri y rd ra imm s
  | .shl y rd ra rb => Sys2Proof.Machine.execShl y rd ra rb s
  | .shr y rd ra rb => Sys2Proof.Machine.execShr y rd ra rb s
  | .sra y rd ra rb => Sys2Proof.Machine.execSra y rd ra rb s
  | .shli y rd ra imm => Sys2Proof.Machine.execShli y rd ra imm s
  | .shri y rd ra imm => Sys2Proof.Machine.execShri y rd ra imm s
  | .srai y rd ra imm => Sys2Proof.Machine.execSrai y rd ra imm s
  | .min y rd ra rb => Sys2Proof.Machine.execMin y rd ra rb s
  | .max y rd ra rb => Sys2Proof.Machine.execMax y rd ra rb s
  | .abs y rd ra => Sys2Proof.Machine.execAbs y rd ra s
  | .slt y rd ra rb => Sys2Proof.Machine.execSlt y rd ra rb s
  | .sltu y rd ra rb => Sys2Proof.Machine.execSltu y rd ra rb s
  | .seq y rd ra rb => Sys2Proof.Machine.execSeq y rd ra rb s
  | .movhi y rd imm => Sys2Proof.Machine.execMovhi y rd imm s
  | .orlo y rd imm => Sys2Proof.Machine.execOrlo y rd imm s
  | .exp y rd ra => Sys2Proof.Machine.execExp y rd ra s
  | .norm y rd ra => Sys2Proof.Machine.execNorm y rd ra s
  | .mul y rd ra rb => Sys2Proof.Machine.execMul y rd ra rb s
  | .mulh y rd ra rb => Sys2Proof.Machine.execMulh y rd ra rb s
  | .macl y ad ra rb => Sys2Proof.Machine.execMacl y ad ra rb s
  | .mach y ad ra rb => Sys2Proof.Machine.execMach y ad ra rb s
  | .msul y ad ra rb => Sys2Proof.Machine.execMsul y ad ra rb s
  | .mova y ad ra => Sys2Proof.Machine.execMova y ad ra s
  | .exta y rd ad rb => Sys2Proof.Machine.execExta y rd ad rb s
  | .expa y rd ad => Sys2Proof.Machine.execExpa y rd ad s
  | .beqz y ra off => Sys2Proof.Machine.execBeqz y ra off s
  | .bnez y ra off => Sys2Proof.Machine.execBnez y ra off s
  | .bltz y ra off => Sys2Proof.Machine.execBltz y ra off s
  | .bgez y ra off => Sys2Proof.Machine.execBgez y ra off s
  | .bgtz y ra off => Sys2Proof.Machine.execBgtz y ra off s
  | .blez y ra off => Sys2Proof.Machine.execBlez y ra off s
  | .br y off => Sys2Proof.Machine.execBr y off s
  | .call y off => Sys2Proof.Machine.execCall y off s
  | .jr y ra => Sys2Proof.Machine.execJr y ra s
  | .rep y ra => Sys2Proof.Machine.execRep y ra s
  | .repi y count => Sys2Proof.Machine.execRepi y count s
  | .loop y ra rot endW => Sys2Proof.Machine.execLoop y ra rot endW s
  | .loopi y count rot endW => Sys2Proof.Machine.execLoopi y count rot endW s
  | .rotb y n => Sys2Proof.Machine.execRotb y n s
  | .mfc y rd creg => Sys2Proof.Machine.execMfc y rd creg s
  | .mtc y creg ra => Sys2Proof.Machine.execMtc y creg ra s
  | .taskEnd y => Sys2Proof.Machine.execTaskEnd y s
  | .reti y => Sys2Proof.Machine.execReti y s
  | .wfe y mask => Sys2Proof.Machine.execWfe y mask s
  | .ldw y rd ra imm => Sys2Proof.Machine.execLdw y rd ra imm s
  | .ldh y rd ra imm => Sys2Proof.Machine.execLdh y rd ra imm s
  | .ldhu y rd ra imm => Sys2Proof.Machine.execLdhu y rd ra imm s
  | .ldb y rd ra imm => Sys2Proof.Machine.execLdb y rd ra imm s
  | .ldbu y rd ra imm => Sys2Proof.Machine.execLdbu y rd ra imm s
  | .stw y rd ra imm => Sys2Proof.Machine.execStw y rd ra imm s
  | .sth y rd ra imm => Sys2Proof.Machine.execSth y rd ra imm s
  | .stb y rd ra imm => Sys2Proof.Machine.execStb y rd ra imm s
  | .ldwPostinc y rd ra imm => Sys2Proof.Machine.execLdwPostinc y rd ra imm s
  | .stwPostinc y rd ra imm => Sys2Proof.Machine.execStwPostinc y rd ra imm s
  | .fenceSyllable y scope kind => Sys2Proof.Machine.execFenceSyllable y scope kind s
  | .vnop y => Sys2Proof.Machine.execVnop y s
  | .vsetl y sd sa => Sys2Proof.Machine.execVsetl y sd sa s
  | .vadd y vd va vb => Sys2Proof.Machine.execVadd y vd va vb s
  | .vsub y vd va vb => Sys2Proof.Machine.execVsub y vd va vb s
  | .vmin y vd va vb => Sys2Proof.Machine.execVmin y vd va vb s
  | .vmax y vd va vb => Sys2Proof.Machine.execVmax y vd va vb s
  | .vabs y vd va => Sys2Proof.Machine.execVabs y vd va s
  | .vneg y vd va => Sys2Proof.Machine.execVneg y vd va s
  | .vconj y vd va => Sys2Proof.Machine.execVconj y vd va s
  | .vshl y vd va rb => Sys2Proof.Machine.execVshl y vd va rb s
  | .vsra y vd va rb => Sys2Proof.Machine.execVsra y vd va rb s
  | .vsrar y vd va rb => Sys2Proof.Machine.execVsrar y vd va rb s
  | .vsplat y vd ra rb => Sys2Proof.Machine.execVsplat y vd ra rb s
  | .vget y sd va rb => Sys2Proof.Machine.execVget y sd va rb s
  | .vmov y vd va => Sys2Proof.Machine.execVmov y vd va s
  | .vmulq y vd va vb => Sys2Proof.Machine.execVmulq y vd va vb s
  | .vcmulq y vd va vb => Sys2Proof.Machine.execVcmulq y vd va vb s
  | .vcmuljq y vd va vb => Sys2Proof.Machine.execVcmuljq y vd va vb s
  | .vmac y vad va vb => Sys2Proof.Machine.execVmac y vad va vb s
  | .vmsub y vad va vb => Sys2Proof.Machine.execVmsub y vad va vb s
  | .vcmac y vad va vb => Sys2Proof.Machine.execVcmac y vad va vb s
  | .vcmacj y vad va vb => Sys2Proof.Machine.execVcmacj y vad va vb s
  | .vmova y vad h va => Sys2Proof.Machine.execVmova y vad h va s
  | .vexta y vd vas h rb => Sys2Proof.Machine.execVexta y vd vas h rb s
  | .vclra y set => Sys2Proof.Machine.execVclra y set s
  | .vtperm y vd vi vt => Sys2Proof.Machine.execVtperm y vd vi vt s
  | .vtperm2 y vd vi vt => Sys2Proof.Machine.execVtperm2 y vd vi vt s
  | .vwiden y vd va h => Sys2Proof.Machine.execVwiden y vd va h s
  | .vnarrow y vd va h => Sys2Proof.Machine.execVnarrow y vd va h s
  | .vbexp y vd va rs h => Sys2Proof.Machine.execVbexp y vd va rs h s
  | .vnormb y vd va vb rs h => Sys2Proof.Machine.execVnormb y vd va vb rs h s
  | .vpack10 y vd va vb rs h => Sys2Proof.Machine.execVpack10 y vd va vb rs h s
  | .vunpack10 y vd va vb rs h => Sys2Proof.Machine.execVunpack10 y vd va vb rs h s
  | .vcmpeq y md va vb => Sys2Proof.Machine.execVcmpeq y md va vb s
  | .vcmplt y md va vb => Sys2Proof.Machine.execVcmplt y md va vb s
  | .vcmple y md va vb => Sys2Proof.Machine.execVcmple y md va vb s
  | .vmand y md ma mb => Sys2Proof.Machine.execVmand y md ma mb s
  | .vmor y md ma mb => Sys2Proof.Machine.execVmor y md ma mb s
  | .vmxor y md ma mb => Sys2Proof.Machine.execVmxor y md ma mb s
  | .vmandn y md ma mb => Sys2Proof.Machine.execVmandn y md ma mb s
  | .vmsetn y md ra => Sys2Proof.Machine.execVmsetn y md ra s
  | .vmtov y vd ma => Sys2Proof.Machine.execVmtov y vd ma s
  | .vmcnt y sd ma => Sys2Proof.Machine.execVmcnt y sd ma s
  | .vld y vd ra pi => Sys2Proof.Machine.execVld y vd ra pi s
  | .vst y vd ra pi => Sys2Proof.Machine.execVst y vd ra pi s
  | .vldx y vd ra pi => Sys2Proof.Machine.execVldx y vd ra pi s
  | .vstx y vd ra pi => Sys2Proof.Machine.execVstx y vd ra pi s
  | .interruptEntry p => Sys2Proof.Machine.execInterruptEntry p s
  | .exceptionEntry p => Sys2Proof.Machine.execExceptionEntry p s
  | .timerCompare p => Sys2Proof.Machine.execTimerCompare p s
  | .tilMboxWrite p v => Sys2Proof.Machine.execTilMboxWrite p v s
  | .budgetExhausted p => Sys2Proof.Machine.execBudgetExhausted p s
  | .dmaStart k ch => Sys2Proof.Machine.execDmaStart k ch s
  | .dmaResume k ch => Sys2Proof.Machine.execDmaResume k ch s
  | .dmaAbort k ch => Sys2Proof.Machine.execDmaAbort k ch s
  | .descriptorComplete k ch => Sys2Proof.Machine.execDescriptorComplete k ch s
  | .hostChannelSuspend k => Sys2Proof.Machine.execHostChannelSuspend k s
  | .hostChannelResume k => Sys2Proof.Machine.execHostChannelResume k s
  | .patrolScrub m granule errs => Sys2Proof.Machine.execPatrolScrub m granule errs s
  | .spareReq q => Sys2Proof.Machine.execSpareReq q s
  | .rowSpareCopyDone q => Sys2Proof.Machine.execRowSpareCopyDone q s
  | .hdmAccess q ofs write len own => Sys2Proof.Machine.execHdmAccess q ofs write len own s
  | .backInvalidateResponse q line => Sys2Proof.Machine.execBackInvalidateResponse q line s
  | .h2dSnoop line => Sys2Proof.Machine.execH2dSnoop line s
  | .hostWriteGo w => Sys2Proof.Machine.execHostWriteGo w s
  | .hostReadReturn k ch => Sys2Proof.Machine.execHostReadReturn k ch s
  | .cvuUnitResult k u d => Sys2Proof.Machine.execCvuUnitResult k u d s
  | .cvuPop k u => Sys2Proof.Machine.execCvuPop k u s
  | .engineOperationEnd k res dt => Sys2Proof.Machine.execEngineOperationEnd k res dt s
  | .ringTransferReceive node good => Sys2Proof.Machine.execRingTransferReceive node good s
  | .ringLinkRetrain q k ok dt => Sys2Proof.Machine.execRingLinkRetrain q k ok dt s
  | .coupledPlanDrop ci => Sys2Proof.Machine.execCoupledPlanDrop ci s
  | .groupFetch port g => Sys2Proof.Machine.execGroupFetch port g s
  | .frameTransmit lane g => Sys2Proof.Machine.execFrameTransmit lane g s
  | .frameReceive lane f => Sys2Proof.Machine.execFrameReceive lane f s
  | .groupMissing port g => Sys2Proof.Machine.execGroupMissing port g s
  | .pfeContextEnable q n => Sys2Proof.Machine.execPfeContextEnable q n s
  | .prachOccasion q n occ j => Sys2Proof.Machine.execPrachOccasion q n occ j s
  | .ramp g up t => Sys2Proof.Machine.execRamp g up t s
  | .tddPinEdge g active dt => Sys2Proof.Machine.execTddPinEdge g active dt s
  | .tddShadowApply g => Sys2Proof.Machine.execTddShadowApply g s
  | .obsReq port slot => Sys2Proof.Machine.execObsReq port slot s
  | .obs lane hdr blocks => Sys2Proof.Machine.execObs lane hdr blocks s
  | .captureDeadline port => Sys2Proof.Machine.execCaptureDeadline port s
  | .evmMeasurement port => Sys2Proof.Machine.execEvmMeasurement port s
  | .laneEnable lane => Sys2Proof.Machine.execLaneEnable lane s
  | .laneDisable lane => Sys2Proof.Machine.execLaneDisable lane s
  | .blockLock lane => Sys2Proof.Machine.execBlockLock lane s
  | .fecLock lane skew => Sys2Proof.Machine.execFecLock lane skew s
  | .laneUp lane margin => Sys2Proof.Machine.execLaneUp lane margin s
  | .laneBringupTimeout lane => Sys2Proof.Machine.execLaneBringupTimeout lane s
  | .laneDown lane cause => Sys2Proof.Machine.execLaneDown lane cause s
  | .switch lane => Sys2Proof.Machine.execSwitch lane s
  | .markerSend lane dt => Sys2Proof.Machine.execMarkerSend lane dt s
  | .markerReceive lane dt mks => Sys2Proof.Machine.execMarkerReceive lane dt mks s
  | .ctl lane payload => Sys2Proof.Machine.execCtl lane payload s
  | .profile lane k => Sys2Proof.Machine.execProfile lane k s
  | .ethernetFrameReceive lane dt bytes fcsOk stampOk => Sys2Proof.Machine.execEthernetFrameReceive lane dt bytes fcsOk stampOk s
  | .uPlaneReceive lane dt bytes => Sys2Proof.Machine.execUPlaneReceive lane dt bytes s
  | .uPlaneSend port slot sym => Sys2Proof.Machine.execUPlaneSend port slot sym s
  | .cPlaneSend port slot sym => Sys2Proof.Machine.execCPlaneSend port slot sym s
  | .oneWayDelayRequest lane dt bytes => Sys2Proof.Machine.execOneWayDelayRequest lane dt bytes s
  | .forwardedFrameEgress lane dt => Sys2Proof.Machine.execForwardedFrameEgress lane dt s
  | .mqSend lane => Sys2Proof.Machine.execMqSend lane s
  | .mqRxPop lane => Sys2Proof.Machine.execMqRxPop lane s
  | .mqTxData lane v => Sys2Proof.Machine.execMqTxData lane v s
  | .lanCntClr lane => Sys2Proof.Machine.execLanCntClr lane s
  | .partitionBlockTransmit p lane hdr payload stamp dt => Sys2Proof.Machine.execPartitionBlockTransmit p lane hdr payload stamp dt s
  | .partitionBlockReceive lane hdr payload dt => Sys2Proof.Machine.execPartitionBlockReceive lane hdr payload dt s
  | .linkRecovery ps => Sys2Proof.Machine.execLinkRecovery ps s
  | .functionReset => Sys2Proof.Machine.execFunctionReset s
  | .barRead bar2 addr len => Sys2Proof.Machine.execBarRead bar2 addr len s
  | .hdmDecoderCommit q commit base size ways => Sys2Proof.Machine.execHdmDecoderCommit q commit base size ways s
  | .doeRequest inst o len => Sys2Proof.Machine.execDoeRequest inst o len s
  | .doeAbort inst => Sys2Proof.Machine.execDoeAbort inst s
  | .cxlCntClr => Sys2Proof.Machine.execCxlCntClr s
  | .ideIntegrityFailure io => Sys2Proof.Machine.execIdeIntegrityFailure io s
  | .interruptMessage src dt => Sys2Proof.Machine.execInterruptMessage src dt s
  | .intAck src => Sys2Proof.Machine.execIntAck src s
  | .sourceStuck src dt => Sys2Proof.Machine.execSourceStuck src dt s
  | .sourceUnstuck src => Sys2Proof.Machine.execSourceUnstuck src s
  | .intSrcCfgWrite src v => Sys2Proof.Machine.execIntSrcCfgWrite src v s
  | .clrCnt => Sys2Proof.Machine.execClrCnt s
  | .partitionLoadGo p => Sys2Proof.Machine.execPartitionLoadGo p s
  | .loadReady p r verify => Sys2Proof.Machine.execLoadReady p r verify s
  | .partitionLoadAbort p => Sys2Proof.Machine.execPartitionLoadAbort p s
  | .restart p => Sys2Proof.Machine.execRestart p s
  | .powerUpLoad p r verify => Sys2Proof.Machine.execPowerUpLoad p r verify s
  | .phxLanesWrite p att => Sys2Proof.Machine.execPhxLanesWrite p att s
  | .phxBwWrite p shares => Sys2Proof.Machine.execPhxBwWrite p shares s
  | .partitionDramAccess p dpa write len => Sys2Proof.Machine.execPartitionDramAccess p dpa write len s
  | .partitionMailboxWrite p ofs v => Sys2Proof.Machine.execPartitionMailboxWrite p ofs v s
  | .partitionFence p => Sys2Proof.Machine.execPartitionFence p s
  | .pxRegisterAccess p addr write => Sys2Proof.Machine.execPxRegisterAccess p addr write s
  | .scrubFrame z errs hits => Sys2Proof.Machine.execScrubFrame z errs hits s
  | .frameRepair z r => Sys2Proof.Machine.execFrameRepair z r s
  | .neighbourCheck z res => Sys2Proof.Machine.execNeighbourCheck z res s
  | .scrGo z => Sys2Proof.Machine.execScrGo z s
  | .opReqWrite k op => Sys2Proof.Machine.execOpReqWrite k op s
  | .voltageSettled rail vout iout => Sys2Proof.Machine.execVoltageSettled rail vout iout s
  | .clusterEntry k => Sys2Proof.Machine.execClusterEntry k s
  | .entryComplete k => Sys2Proof.Machine.execEntryComplete k s
  | .clusterWake k path dt => Sys2Proof.Machine.execClusterWake k path dt s
  | .wakeFailure k => Sys2Proof.Machine.execWakeFailure k s
  | .pulse k => Sys2Proof.Machine.execPulse k s
  | .retry k => Sys2Proof.Machine.execRetry k s
  | .quadrantTargetWrite q v => Sys2Proof.Machine.execQuadrantTargetWrite q v s
  | .quadrantBoot q ok => Sys2Proof.Machine.execQuadrantBoot q ok s
  | .quadrantReset q => Sys2Proof.Machine.execQuadrantReset q s
  | .supplyWarning rail uv ns => Sys2Proof.Machine.execSupplyWarning rail uv ns s
  | .supplyReset rail uv ns => Sys2Proof.Machine.execSupplyReset rail uv ns s
  | .thermalRead q0 q1 q2 q3 hub => Sys2Proof.Machine.execThermalRead q0 q1 q2 q3 hub s
  | .thermalTrip sensor => Sys2Proof.Machine.execThermalTrip sensor s
  | .chipReset => Sys2Proof.Machine.execChipReset s
  | .porNRelease lowNs vbat => Sys2Proof.Machine.execPorNRelease lowNs vbat s
  | .perstN level => Sys2Proof.Machine.execPerstN level s
  | .pmbusTransaction nak data => Sys2Proof.Machine.execPmbusTransaction nak data s
  | .pmbAlert rail => Sys2Proof.Machine.execPmbAlert rail s
  | .tileCoreCheck p dt => Sys2Proof.Machine.execTileCoreCheck p dt s
  | .prmRetire => Sys2Proof.Machine.execPrmRetire s
  | .tileRetestDone p pass => Sys2Proof.Machine.execTileRetestDone p pass s
  | .redoStart p dt => Sys2Proof.Machine.execRedoStart p dt s
  | .engineCheck k res dt => Sys2Proof.Machine.execEngineCheck k res dt s
  | .bankFence k b => Sys2Proof.Machine.execBankFence k b s
  | .quadrantReinitialisation q e => Sys2Proof.Machine.execQuadrantReinitialisation q e s
  | .reinitialisationRecordWrite q dt => Sys2Proof.Machine.execReinitialisationRecordWrite q dt s
  | .lockstepMismatch => Sys2Proof.Machine.execLockstepMismatch s
  | .hubFlitUncorrectable dst corr => Sys2Proof.Machine.execHubFlitUncorrectable dst corr s
  | .firmwareHandOver e => Sys2Proof.Machine.execFirmwareHandOver e s
  | .firmwareRevert => Sys2Proof.Machine.execFirmwareRevert s
  | .flightRecorderWrite => Sys2Proof.Machine.execFlightRecorderWrite s
  | .rmaCapture => Sys2Proof.Machine.execRmaCapture s
  | .secureBoot a b => Sys2Proof.Machine.execSecureBoot a b s
  | .nonce => Sys2Proof.Machine.execNonce s
  | .enrolOwner fuseOk => Sys2Proof.Machine.execEnrolOwner fuseOk s
  | .revokeOwner fuseOk => Sys2Proof.Machine.execRevokeOwner fuseOk s
  | .setPolicy fuseOk => Sys2Proof.Machine.execSetPolicy fuseOk s
  | .provision => Sys2Proof.Machine.execProvision s
  | .commitSvn fuseOk => Sys2Proof.Machine.execCommitSvn fuseOk s
  | .debugOpen => Sys2Proof.Machine.execDebugOpen s
  | .debugClose => Sys2Proof.Machine.execDebugClose s
  | .certSlot1 => Sys2Proof.Machine.execCertSlot1 s
  | .decommission fuseOk => Sys2Proof.Machine.execDecommission fuseOk s
  | .unlock fuseOk => Sys2Proof.Machine.execUnlock fuseOk s
  | .keyWrite session payload => Sys2Proof.Machine.execKeyWrite session payload s
  | .spdmRequest inst m => Sys2Proof.Machine.execSpdmRequest inst m s
  | .query session => Sys2Proof.Machine.execQuery session s
  | .keyProg session io rx sub set key => Sys2Proof.Machine.execKeyProg session io rx sub set key s
  | .kSetGo session io rx sub set => Sys2Proof.Machine.execKSetGo session io rx sub set s
  | .kSetStop session io rx sub set => Sys2Proof.Machine.execKSetStop session io rx sub set s
  | .tamper lowNs powered => Sys2Proof.Machine.execTamper lowNs powered s
  | .vbatLow => Sys2Proof.Machine.execVbatLow s
  | .debugSessionExpiry => Sys2Proof.Machine.execDebugSessionExpiry s
  | .debugAttach k t en => Sys2Proof.Machine.execDebugAttach k t en s
  | .halt on => Sys2Proof.Machine.execHalt on s
  | .program => Sys2Proof.Machine.execProgram s
  | .read r => Sys2Proof.Machine.execRead r s
  | .nvsSlotCfgWrite slot v => Sys2Proof.Machine.execNvsSlotCfgWrite slot v s
  | .dteCntClr k => Sys2Proof.Machine.execDteCntClr k s
  | .cdeCntClr k => Sys2Proof.Machine.execCdeCntClr k s
  | .ceeCntClr k => Sys2Proof.Machine.execCeeCntClr k s
  | .bypass => Sys2Proof.Machine.execBypass s
  | .samplePreload => Sys2Proof.Machine.execSamplePreload s
  | .idcode => Sys2Proof.Machine.execIdcode s
  | .extest porLow => Sys2Proof.Machine.execExtest porLow s
  | .extestPulse porLow => Sys2Proof.Machine.execExtestPulse porLow s
  | .extestTrain porLow => Sys2Proof.Machine.execExtestTrain porLow s
  | .highz porLow => Sys2Proof.Machine.execHighz porLow s
  | .clamp porLow => Sys2Proof.Machine.execClamp porLow s
  | .synceLockChange locked fadj => Sys2Proof.Machine.execSynceLockChange locked fadj s
  | .partitionInterrupt p => Sys2Proof.Machine.execPartitionInterrupt p s
  | .quadrantEntryComplete q => Sys2Proof.Machine.execQuadrantEntryComplete q s
  | .quadrantWakeComplete q => Sys2Proof.Machine.execQuadrantWakeComplete q s
  | .firmwareHealthyReport => Sys2Proof.Machine.execFirmwareHealthyReport s
  | .configurationRequest c => Sys2Proof.Machine.execConfigurationRequest c s

end Sys2Proof.Machine
end

