-- ==== Sys2Proof/Safety.lean ====
section
/-!
DEFINITION. What counts as a safe run: every command of the queue is carried out, and none ends in a fault or a refusal.
-/

namespace Sys2Proof.Safety

open Sys2Proof.Machine

/-- A command is carried out in a state: it answers a next state. -/
def Completes (c : Instr) (s : State) : Prop := ∃ t, exec c s = .next t

/-- Memory and the registers are in their canonical form, so that equal contents are equal data. -/
def Canonical (s : State) : Prop := Memory.wf s.mem = true ∧ smWf regReset s.regs = true

/-- NS of chip time, and of a load that waits, is at most 999,999,999 (spec/02_larkspur_time.md R48, R53). -/
def TimeOk (s : State) : Prop := s.ct.ns.toNat < 1000000000 ∧ ∀ x, s.lks.pendLoad = some x → x.2 < 1000000000

/-- A run of n steps from s ends in a state, and so do all its parts. -/
def Runs (n : Nat) (s : State) : Prop := ∃ t, Sys2Proof.core.run n s = .next t

/-! ## What a command leaves of the registers -/

/-- Every register word but those at some offsets reads as before. -/
def RegsBut (s t : State) (as : List Nat) : Prop := ∀ a, a ∉ as → getR t a = getR s a

/-- The other bits of a field's word read as before. -/
def BitsBut (s t : State) (f : Field) : Prop := ∀ i, i < 32 → (i < f.lo ∨ f.lo + f.w ≤ i) → bitOf (getR t f.addr).toNat i = bitOf (getR s f.addr).toNat i

/-! ## Records of the completion queues -/

/-- A record of ring r can be written at flat address a as it falls due: none waits before it, its entry passes its check and lies in the device, the host holds nothing of its line, and its granules
are in no fenced bank and without error (spec/04_dahlia.md R146; spec/07_memory.md R250, R254, R261, R272, R274). -/
def EntryOpen (s : State) (r a : Nat) : Prop :=
  smWf (fun _ => ({} : Ring)) s.rings = true ∧ (∀ y ∈ s.recs, y.ring ≠ r) ∧
    checkAddr s (r / 64) (.ring r) (nextEntry s r) 32 true = .ok a ∧ inHost a = false ∧ waitsFor s a 32 true = none ∧
    fencedFrom s (a / 32) (granules a 32) = false ∧ errAt s (a / 32) = 0 ∧ errAt s ((a + 31) / 32) = 0

/-- Record x of ring r has been written at flat address a between s and t, now in s: its 32 bytes with the ring's PHASE and the SLACK of now, and no other byte; the ring's index and PHASE have moved on, its
outcome is counted, and no other register has changed (spec/04_dahlia.md R145, R146; spec/03_slot_contract.md R99). -/
def RecordShown (s t : State) (r a : Nat) (reserved : Bool) (x : Rec) : Prop :=
  let g := getRing s r
  rdBytes t a 32 = recBytes r g.phase (now s) x ∧ (∀ b, b < a ∨ a + 32 ≤ b → rdByte t b = rdByte s b) ∧ t.recs = s.recs ∧
    t.rings = (setRing s r { g with cqTail := (g.cqTail + 1) % cqSize s r, phase := g.phase != (g.cqTail + 1 == cqSize s r), reserved := g.reserved - ofBool reserved }).rings ∧
    getF t (ADM_CNT_OUT_COUNT (r / 64) (outcomeCounter x.outcome)) = min (2 ^ 32 - 1) (getF s (ADM_CNT_OUT_COUNT (r / 64) (outcomeCounter x.outcome)) + 1) ∧
    RegsBut s t [ADM_CNT_OUT (r / 64) (outcomeCounter x.outcome)]

/-! ## Bundles of a tile -/

/-- Tile p, whose core is t, is at a bundle boundary of its own: it takes syllables, has staged none, neither a loop, a repetition, a delay slot nor a WFE is in progress,
no granule is poisoned or in error, its code lies in no fenced bank, and a word is left at its PC. u is the core with the writes that are due in this issue cycle landed (spec/05_phimar_scalar.md R187). -/
abbrev TileReady (s : State) (p : Nat) (t u : Tile) : Prop :=
  getTile s p = t ∧ tileTakes t = true ∧ t.stage = [] ∧ t.wait = none ∧
    (s.poison = [] ∧ s.errs = [] ∧ fencedAt s (32 * ((t.code + t.pc) / 32)) = false) ∧ land s t = (s, u) ∧
  u.loops = [] ∧ u.branch = none ∧ u.rep = none ∧ u.wait = none ∧ u.afterReti = false ∧ u.pc + 4 ≤ u.codeLen

/-- More writes in flight. -/
def flying (u : Tile) (fs : List Flight) : Tile := { u with flights := u.flights ++ fs }

/-- One issue cycle has passed (R210). -/
def ticked (u : Tile) : Tile := { u with cycle := u.cycle + 1, budget := u.budget - 1, first := false }

/-- A bundle of one word has issued, and the next follows it. -/
def issued (u : Tile) : Tile := ticked { u with pc := u.pc + 4 }

/-- The write of value v to scalar register rd with a latency, which s0 discards (R173), and sat_flag with it where the result saturated (R184). -/
def sWrites (lat : Nat) (rd : Reg) (v : Nat) (b : Bool) : List Flight :=
  (if rd.toNat = 0 then [] else [⟨lat - 1, .s rd.toNat, v⟩]) ++ (if b then [⟨lat - 1, .sat, 1⟩] else [])

/-- What a vector access leaves beside its own write: RA's increment where PI asks for it, and vx_index at 0 (R233, R242). -/
def afterVec (u : Tile) (pi : Bool) (ra : Reg) (v : Nat) : Tile :=
  { (if pi then push u 1 (.s ra.toNat) v else u) with vxIndex := 0, vxReason := 0 }

/-- The core after w cycles of waiting. -/
def delayed (u : Tile) (w : Nat) : Tile := { u with cycle := u.cycle + BitVec.ofNat 64 w, budget := u.budget - w }

/-- The core after the wait of an access to granules of the CSM, each by an address in it, until its bank has served it: at most 15 cycles (R20, R21, R189, R234). -/
def waited (s : State) (p : Nat) (u : Tile) (gs : List Nat) : Tile := delayed u (csmWait s p u 0 gs)

end Sys2Proof.Safety
end

