-- ==== Sys2Proof/Certificates/Slice0/Obligations.lean ====
section
/-!
DEFINITION. The statements for the provers.
-/

open Sys2Proof Sys2Proof.Machine Sys2Proof.Safety

set_option linter.unusedVariables false

/-- A step runs the front command; an empty queue idles (spec/00_scope.md, basis derived). With command c at the front of the queue, step is exec of c on the state with the queue's rest; on an empty queue the block idles: step answers the same state (the model's choice, assumption 1). -/
def Obligations.AStepRunsTheFrontCommand : Prop :=
  (∀ (s : State) (c : Instr) (rest : List Instr), step { s with pending := c :: rest } = exec c { s with pending := rest }) ∧
  (∀ (s : State), s.pending = [] → step s = .next s)

/-- No command stops but a patrol outside its memory (spec/00_scope.md, spec/07_memory.md, basis derived). In every state every command answers a next state, but for PATROL_SCRUB of a granule that lies outside the memory it names, which faults by that name. -/
def Obligations.EveryCommandCompletesOrNamesNoGranule : Prop :=
  (∀ (c : Instr) (s : State), Completes c s ∨ ∃ m g es, c = .patrolScrub m g es ∧ unitSize m ≤ 32 * g ∧ exec c s = .fault .noSuchGranule)

/-- The state after reset is canonical and its time is in range (spec/00_scope.md, spec/02_larkspur_time.md, basis derived). After reset the queue is empty, memory lists nothing, memory and the registers are in their canonical form, and NS of CT is 0, so in its range. -/
def Obligations.ResetIsSound : Prop :=
  (State.reset.pending = [] ∧ State.reset.mem = [] ∧ Canonical State.reset ∧ TimeOk State.reset)

/-- Every step keeps memory and the registers canonical (spec/00_scope.md, spec/07_memory.md, basis derived). From every state whose memory and registers are in their canonical form (addresses strictly rising, no entry equal to what an unlisted address reads as), a step that answers a next state gives one that has it too, so that equal contents stay equal data. -/
def Obligations.EveryStepKeepsMemoryAndRegistersCanonical : Prop :=
  (∀ (s t : State), Canonical s → step s = .next t → Canonical t)

/-- Every step keeps NS of chip time in its range (spec/02_larkspur_time.md, basis derived). From every state in which NS of CT, and of a load that waits, is at most 999,999,999, a step that answers a next state gives one in which it is. -/
def Obligations.EveryStepKeepsNanosecondsInRange : Prop :=
  (∀ (s t : State), TimeOk s → step s = .next t → TimeOk t)

/-- Every step takes exactly the front command off the queue (spec/00_scope.md, basis derived). In every state with a command in its queue, a step that answers a next state leaves exactly the queue's rest: no command adds to the queue, removes from it or reorders it. -/
def Obligations.EveryStepTakesExactlyOneCommand : Prop :=
  (∀ (s t : State) (c : Instr) (rest : List Instr), s.pending = c :: rest → step s = .next t → t.pending = rest)

/-- What a write leaves in memory and in a register (spec/00_scope.md, spec/07_memory.md, basis derived). After a write of an agent, every byte that it covers and no fenced bank holds reads as written, and every other byte of every memory as before; a granule is poisoned after it if it was and the write does not cover it whole. A register word reads as written, and every other one as before; a field of at most 32 bits in one word reads as the low bits of what was put into it. -/
def Obligations.MemoryAndRegistersReadBack : Prop :=
  (∀ (s : State) (a x : Nat) (l : List Byte), Memory.wf s.mem = true →
    (∀ i b, l[i]? = some b → fencedAt s (a + i) = false → rdByte (wrMem s a l) (a + i) = b) ∧
    (∀ i, i < l.length → fencedAt s (a + i) = true → rdByte (wrMem s a l) (a + i) = rdByte s (a + i)) ∧
    (x < a ∨ a + l.length ≤ x → rdByte (wrMem s a l) x = rdByte s x)) ∧
  (∀ (s : State) (a g : Nat) (l : List Byte), smWf (fun _ => false) s.poison = true →
    poisoned (wrBytes s a l) g = (poisoned s g && !decide (a ≤ 32 * g ∧ 32 * g + 32 ≤ a + l.length))) ∧
  (∀ (s : State) (a b : Nat) (v : Word), smWf regReset s.regs = true →
    getR (setR s a v) a = v ∧ (b ≠ a → getR (setR s a v) b = getR s b)) ∧
  (∀ (s : State) (f : Field) (v : Nat), smWf regReset s.regs = true → f.lo + f.w ≤ 32 →
    getF (setF s f v) f = v % 2 ^ f.w ∧ (∀ i, i < 32 → (i < f.lo ∨ f.lo + f.w ≤ i) → bitOf (getR (setF s f v) f.addr).toNat i = bitOf (getR s f.addr).toNat i))

/-- The state of a tile at the start of a task (spec R219, basis stated). A task of a loaded version starts with v0 to v31, the vector accumulators and m1 to m15 at 0, vl at 128 and vx_index at 0; and with ARG0 to ARG3 in s1 to s4, SLOT in s5, the task index and the CI in s6, s7 to s31 and a0 to a3 at 0, the loop stack empty, no write pending, the timer disarmed, the interrupt registers at 0, the PC at ENTRY and the budget at the effective cost. -/
def Obligations.ATaskStartsWithItsState : Prop :=
  (∀ (s : State) (p : Nat) (j : Job) (n : Node) (v : ProgVer), (s.progs.find? fun v => n.ver == some v.id) = some v →
    ∃ t : Tile, startTile s p j n = setTile (tctNow s).2 p t ∧ t.running = true ∧
    (∀ i < 32, vGet t i = 0) ∧ (∀ i < 4, vaccGet t i = 0 ∧ vaccRunGet t i = 0) ∧ (∀ i, 1 ≤ i → i < 16 → mGet t i = 0) ∧ t.vl = 128 ∧ t.vxIndex = 0 ∧
    sGet t 1 = argOf n 0 % 2 ^ 32 ∧ sGet t 2 = argOf n 1 % 2 ^ 32 ∧ sGet t 3 = argOf n 2 % 2 ^ 32 ∧ sGet t 4 = argOf n 3 % 2 ^ 32 ∧ sGet t 5 = j.cmd.slot % 2 ^ 32 ∧
    sGet t 6 = n.idx % 1024 + 2 ^ 16 * (j.cmd.ci % 1024) ∧ (∀ r, 7 ≤ r → r < 32 → sGet t r = 0) ∧ (∀ i < 4, accGet t i = 0 ∧ accRunGet t i = 0) ∧
    t.loops = [] ∧ t.rep = none ∧ t.branch = none ∧ t.flights = [] ∧ t.held = [] ∧ t.tmrArmed = false ∧ t.satFlag = false ∧ t.vrb = 0 ∧ t.irqMask = 0 ∧ t.irqPend = 0 ∧ t.irqHold = 0 ∧
    t.ipc = 0 ∧ t.epc = 0 ∧ t.ecause = 0 ∧ t.ebad = 0 ∧ t.mbox = 0 ∧ t.budget = n.budget ∧ t.pc = imgW v.image 0xC)

/-- What EXTA writes (spec R183, basis stated). Alone in its bundle, EXTA takes its shift from rb as a signed value brought to −31 to 39; it shifts the accumulator right with rounding for a positive shift and left otherwise, and rd receives bits [31:0] of the result, or with SAT the result saturated to 32 bits, after two issue cycles, with sat_flag where it saturated; nothing is written where rd is s0, and nothing else changes but the issue of the bundle. -/
def Obligations.ExtaScalesTheAccumulator : Prop :=
  (∀ (s : State) (t u : Tile) (y : Sy) (rd rb : Reg) (ad : BitVec 2), TileReady s y.tile.val t u → y.e = true →
    let v := sInt u rb.toNat
    let sh : Int := if v < -31 then -31 else if 39 < v then 39 else v
    let a := accGet u ad.toNat
    let r : Int := if 1 ≤ sh then (a + 2 ^ (sh.toNat - 1)) / 2 ^ sh.toNat else a * 2 ^ (-sh).toNat
    let x : Int := if y.sat = true then (if r < -(2 ^ 31) then -(2 ^ 31) else if 2 ^ 31 - 1 < r then 2 ^ 31 - 1 else r) else r
    exec (.exta y rd ad rb) s = .next (setTile s y.tile.val (issued (flying u (sWrites 2 rd (x % 2 ^ 32).toNat (y.sat && decide (x ≠ r)))))))

/-- An always-on cycle advances CT (spec/02_larkspur_time.md, basis derived). CT_ADVANCE: with nothing waiting for the edge CT grows by the addend, and the next addend is the base, the frequency term of LKS_FADJ and the slew term, which leaves the remaining phase; with a load waiting, CT is what was loaded and the remaining phase is discarded; the intervals of the pins and of PTM in progress move with CT, so that they last as long as they did (assumption 147). The tick and the slot boundaries of the new cycle are still to come, and nothing else changes. -/
def Obligations.CycleAdvancesTime : Prop :=
  (∀ s : State, s.lks.pendBase = none → s.lks.pendLost = [] → s.lks.pendSwitch = none → s.lks.pendSnap = false → s.lks.pendLoad = none →
    let b : Int := getF s LKS_BASE_BASE
    let slew := slewTerm (getF s LKS_SLEW_RATE_RATE) s.lks.remain
    exec .ctAdvance s = .next { s with
      ct := CT.ofUnits (s.ct.units + s.lks.addend), subPs := 0, upCycles := s.upCycles + 1,
      lks := { s.lks with addend := (b + freqTerm (getF s LKS_BASE_BASE) (getSF s LKS_FADJ_FADJ) + slew).toNat, remain := s.lks.remain - slew, tickDone := false, slotDone := 0 } }) ∧
  (∀ (s : State) (sec ns : Nat), s.lks.pendBase = none → s.lks.pendLost = [] → s.lks.pendSwitch = none → s.lks.pendSnap = false → s.lks.pendLoad = some (sec, ns) →
    let b : Int := getF s LKS_BASE_BASE
    let c : CT := { sec := BitVec.ofNat 64 sec, ns := BitVec.ofNat 32 ns }
    let d := roundDiv (((c.units : Int) - ((s.ct.units + s.lks.addend : Nat) : Int)) * 1000) (2 ^ 40)
    ∃ t, exec .ctAdvance s = .next t ∧
      t = { s with
        ct := c, subPs := 0, upCycles := s.upCycles + 1, pins := t.pins, delayLog := [],
        lks := { s.lks with pendLoad := none, remain := 0, addend := (b + roundDiv (b * getSF s LKS_FADJ_FADJ) 256000000000).toNat, tickDone := false, slotDone := 0,
                            lastPtm := s.lks.lastPtm.map (· + d) } } ∧
      (smWf (fun _ => ({} : Pin)) s.pins = true → ∀ n < 17,
        (getPin t n).level = (getPin s n).level ∧ (getPin t n).since = (getPin s n).since + d ∧ (getPin t n).edge = (getPin s n).edge.map (· + d) ∧
          (getPin t n).window.map (·.ends) = (getPin s n).window.map (·.ends + d)))

/-- CT is loaded, latched and locked (spec/02_larkspur_time.md, basis derived). CT_LOAD is taken in UNSET, which becomes SET, and with STEP_EN while no plan is installed: the load waits, and CT is that value after the next edge, with no phase remaining; in any other state it only sets LOAD_REFUSED. SNAP_TAKE has the CT of the next edge latched into LKS_SNAP, and no other register changes. SERVO_LOCK of an enabled servo locks it: in UNSET CT steps by the estimate and the remaining phase stays (assumption 133); in SET and in both states of holdover the offset, bounded at one second, becomes the remaining phase; while LOCKED neither changes. The state is LOCKED after it, and without HYBRID only LKS_STATUS and LKS_SERVO_STAT change. A servo that is not enabled ignores it. -/
def Obligations.TimeIsSet : Prop :=
  (∀ s : State, smWf regReset s.regs = true → getF s LKS_STATUS_STATE = 0 ∨ (isF s LKS_CTL_STEP_EN = true ∧ s.plans = []) →
    ∃ t, exec .ctLoad s = .next t ∧ t.lks = { s.lks with pendLoad := some (getF s LKS_LOAD_SEC_SEC, min (getF s LKS_LOAD_NS_NS) 999999999) } ∧
      getF t LKS_STATUS_STATE = max 1 (getF s LKS_STATUS_STATE) ∧ BitsBut s t LKS_STATUS_STATE ∧ RegsBut s t [LKS_STATUS] ∧
      t = { s with lks := t.lks, regs := t.regs, ints := t.ints } ∧
      (s.lks.pendBase = none → s.lks.pendLost = [] → s.lks.pendSwitch = none → s.lks.pendSnap = false →
        ∃ u, exec .ctAdvance t = .next u ∧ u.lks.remain = 0 ∧
          u.ct = { sec := BitVec.ofNat 64 (getF s LKS_LOAD_SEC_SEC), ns := BitVec.ofNat 32 (min (getF s LKS_LOAD_NS_NS) 999999999) })) ∧
  (∀ s : State, smWf regReset s.regs = true → getF s LKS_STATUS_STATE ≠ 0 → isF s LKS_CTL_STEP_EN = false ∨ s.plans ≠ [] →
    ∃ t, exec .ctLoad s = .next t ∧ getF t LKS_STATUS_LOAD_REFUSED = 1 ∧ BitsBut s t LKS_STATUS_LOAD_REFUSED ∧ RegsBut s t [LKS_STATUS] ∧ t = { s with regs := t.regs }) ∧
  (∀ s : State, smWf regReset s.regs = true → s.lks.pendBase = none → s.lks.pendLost = [] → s.lks.pendSwitch = none → s.lks.pendLoad = none →
    ∃ t u, exec .snapTake s = .next t ∧ t = { s with lks := { s.lks with pendSnap := true } } ∧ exec .ctAdvance t = .next u ∧
      u.ct = CT.ofUnits (s.ct.units + s.lks.addend) ∧ u.lks.pendSnap = false ∧ getF u LKS_SNAP_SEC_SEC = u.ct.sec.toNat ∧ getF u LKS_SNAP_NS_NS = u.ct.ns.toNat ∧
      getF u LKS_SNAP_FRAC_FRAC = u.ct.frac.toNat ∧ RegsBut s u [LKS_SNAP_SEC, LKS_SNAP_SEC + 4, LKS_SNAP_NS, LKS_SNAP_FRAC]) ∧
  (∀ (s : State) (d : Fin 2) (ps : Int), smWf regReset s.regs = true → isF s (LKS_SERVO_CTL_EN d.val) = true →
    (getF s LKS_STATUS_STATE = 0 → 0 ≤ (s.ct.units : Int) + unitsOfPs ps → (s.ct.units : Int) + unitsOfPs ps < 2 ^ 64 * 1000000000 * 2 ^ 40 →
      ∃ t, exec (.servoLock d ps) s = .next t ∧ (t.ct.units : Int) = s.ct.units + unitsOfPs ps ∧ t.lks.remain = s.lks.remain ∧
        getF t LKS_STATUS_STATE = 2 ∧ servoLocked t d = true ∧ (isF s LKS_SYNCE_CTL_HYBRID = false → RegsBut s t [LKS_STATUS, LKS_SERVO_STAT]) ∧
        t = { s with ct := t.ct, lks := t.lks, regs := t.regs, ints := t.ints, pins := t.pins, delayLog := [] }) ∧
    (getF s LKS_STATUS_STATE ≠ 0 → getF s LKS_STATUS_STATE ≠ 2 →
      ∃ t, exec (.servoLock d ps) s = .next t ∧ t.lks.remain = clampInt (-(unitsOfPs 1000000000000)) (unitsOfPs 1000000000000) (unitsOfPs ps) ∧
        t.lks.holdSince = none ∧ getF t LKS_STATUS_STATE = 2 ∧ servoLocked t d = true ∧
        (isF s LKS_SYNCE_CTL_HYBRID = false → RegsBut s t [LKS_STATUS, LKS_SERVO_STAT]) ∧ t = { s with lks := t.lks, regs := t.regs, ints := t.ints }) ∧
    (getF s LKS_STATUS_STATE = 2 →
      ∃ t, exec (.servoLock d ps) s = .next t ∧ t.lks.remain = s.lks.remain ∧ getF t LKS_STATUS_STATE = 2 ∧ servoLocked t d = true ∧
        (isF s LKS_SYNCE_CTL_HYBRID = false → RegsBut s t [LKS_SERVO_STAT]) ∧ t = { s with lks := t.lks, regs := t.regs, ints := t.ints })) ∧
  (∀ (s : State) (d : Fin 2) (ps : Int), isF s (LKS_SERVO_CTL_EN d.val) = false → exec (.servoLock d ps) s = .next s)

/-- Clock source, phase and domain (spec/02_larkspur_time.md, basis derived). REFERENCE_LOST and REFERENCE_GOOD have the base and the source change at the next edge. PHASE_REQ adds to the remaining phase and clamps the sum at one second, which sets PHASE_CLAMP. DOMAIN_SWITCH writes ACTIVE_DOM and commands a switch. SERVO_LOST has a servo without a Sync for three announce intervals marked LOST at the next edge, and with AUTO_SW and the other servo locked commands the switch to it; the edge marks it, and with no servo locked then the state is HOLDOVER. HOLDOVER_LIMIT_EXPIRY ends the specification of holdover. SYNCE_LOCK_CHANGE shows the lock, and with HYBRID the active servo, while it is locked, takes the frequency. -/
def Obligations.ClockSourceAndSlew : Prop :=
  (∀ (s : State) (fi fr : Nat), fi ≠ 0 → isF s LKS_STATUS_CLK_SRC = false → exec (.referenceLost fi fr) s = .next
    { s with lks := { s.lks with pendBase := some ((roundDiv ((0x280000000000 : Int) * fr) fi).toNat % 2 ^ 48, true) } }) ∧
  (∀ s : State, isF s LKS_STATUS_CLK_SRC = true → exec .referenceGood s = .next { s with lks := { s.lks with pendBase := some (0x280000000000, false) } }) ∧
  (∀ (s : State) (v : DWord), (s.lks.remain + unitsOfPs v.toInt).natAbs ≤ (unitsOfPs 1000000000000).natAbs → exec (.phaseReq v) s = .next
    { s with lks := { s.lks with remain := s.lks.remain + unitsOfPs v.toInt } }) ∧
  (∀ (s : State) (v : DWord), unitsOfPs 1000000000000 < s.lks.remain + unitsOfPs v.toInt → exec (.phaseReq v) s = .next
    (setF { s with lks := { s.lks with remain := unitsOfPs 1000000000000 } } LKS_STATUS_PHASE_CLAMP 1)) ∧
  (∀ (s : State) (d : Fin 2), getF s LKS_STATUS_ACTIVE_DOM ≠ d.val → exec (.domainSwitch d) s =
    .next (commandSwitch (setF s LKS_CTL_ACTIVE_DOM d.val) d)) ∧
  (∀ (s : State) (d : Fin 2) (t : Int), getF s (servoField d) = 1 ∨ getF s (servoField d) = 2 → (getServo s d).lastSync = some t →
    (reached s (t + 3 * (getServo s d).annPs) = false → exec (.servoLost d) s = .next s) ∧
    (reached s (t + 3 * (getServo s d).annPs) = true → isF s LKS_CTL_AUTO_SW = false →
      exec (.servoLost d) s = .next { s with lks := { s.lks with pendLost := s.lks.pendLost ++ [d] } }) ∧
    (reached s (t + 3 * (getServo s d).annPs) = true → activeDom s = d → isF s LKS_CTL_AUTO_SW = true → servoLocked s (1 - d) = true → s.lks.pendLost.contains (1 - d) = false →
      exec (.servoLost d) s = .next (setF (commandSwitch { s with lks := { s.lks with pendLost := s.lks.pendLost ++ [d] } } (1 - d)) LKS_CTL_ACTIVE_DOM (1 - d).val))) ∧
  (∀ (s : State) (d : Fin 2), s.lks.pendBase = none → s.lks.pendLost = [d] → s.lks.pendSwitch = none → s.lks.pendSnap = false → s.lks.pendLoad = none →
    let a := { s with ct := CT.ofUnits (s.ct.units + s.lks.addend), subPs := 0, upCycles := s.upCycles + 1, lks := { s.lks with tickDone := false, slotDone := 0, pendLost := [] } }
    let x := setServoState a d 3
    getF x LKS_STATUS_STATE = 2 → servoLocked x 0 = false → servoLocked x 1 = false →
    exec .ctAdvance s = .next (formAddend (setTimeState { x with lks := { x.lks with holdSince := some (now x) } } 3))) ∧
  (∀ (s : State) (t : Int), s.lks.holdSince = some t → getF s LKS_STATUS_STATE = 3 → reached s (t + getF s LKS_HOLDOVER_LIM_SECONDS * psSec) = true →
    exec .holdoverLimitExpiry s = .next (setTimeState s 4)) ∧
  (∀ (s : State) (f : Int), exec (.synceLockChange false f) s = .next (setF s LKS_SYNCE_CTL_LOCKED 0)) ∧
  (∀ (s : State) (f : Int),
    let x := setF s LKS_SYNCE_CTL_LOCKED 1
    let y := { x with lks := { x.lks with synceFadj := f } }
    (hybridOn y = true → servoLocked y (activeDom y) = true → exec (.synceLockChange true f) s = .next (writeFadj y f)) ∧
    (hybridOn y = false ∨ servoLocked y (activeDom y) = false → exec (.synceLockChange true f) s = .next y))

/-- PTP messages, PPS and PTM (spec/02_larkspur_time.md, basis derived). With ARM set, an Announce to a servo stores its clock class and interval; the boundary clock sends Sync, Announce and answers the oldest Delay_Req with its stamp. Before ARM a frame is dropped and counted, and so is one of a domain that nothing is set to. Under G.8275.2 a client's request for unicast service is granted while fewer than 128 are served. PPS_OUT rises at its instant in the cycle and falls after WIDTH. A PTM dialogue that is due holds the host time and CT. LANE_CALIBRATION_END ends a calibration under way and sets CAL_DONE. CI_OFS is written while no plan of the carrier instance is installed, else the error is set. PTP_DROP_CLR clears the drop counts. -/
def Obligations.PtpMessagesTakeEffect : Prop :=
  (∀ (s : State) (l : Fin 64) (m : PtpMsg), isF s LKS_CTL_ARM = false → exec (.ptpFrameReceive l m) s = .next (addF (atDt s m.dt) LKS_PTP_DROP_UNARMED 1)) ∧
  (∀ (s : State) (l : Fin 64) (m : PtpMsg), isF s LKS_CTL_ARM = true → m.wellFormed = true → m.stampValid = true → m.kind = .announce →
    servoTakes s 0 l.val m = true → servoTakes s 1 l.val m = false → bcHears s l.val m = false → exec (.ptpFrameReceive l m) s = .next
    (setF { atDt s m.dt with lks := { s.lks with servoA := { s.lks.servoA with annPs := m.annPs } } } LKS_SERVO_STAT_A_CLASS m.clockClass.toNat)) ∧
  (∀ (s : State) (l : Fin 64) (dt : Nat), isF s LKS_CTL_ARM = true → bcLane s l.val = true → testF s LKS_BC_PORTS_PORT_EN l.val = true →
    exec (.syncSend l dt) s = .next (emit (atDt s dt) (.ptpSync l.val (getF s LKS_BC_CTL_DOMAIN) (now (atDt s dt)))) ∧
    exec (.announceSend l) s = .next (emit s (.ptpAnnounce l.val (getF s LKS_BC_CTL_DOMAIN) (advertisedClass s))) ∧
    ∀ x rest, takeFirst (fun x => x.1 == l.val) s.lks.delayReqs = some (x, rest) → exec (.delayReqAnswer l) s = .next
      (emit { s with lks := { s.lks with delayReqs := rest } } (.ptpDelayResp l.val (getF s LKS_BC_CTL_DOMAIN) x.2))) ∧
  (∀ (s : State) (l : Fin 64) (m : PtpMsg), isF s LKS_CTL_ARM = true → domainKnown s m.domain.toNat = false →
    exec (.ptpFrameReceive l m) s = .next (addF (atDt s m.dt) LKS_PTP_DROP_INVALID 1)) ∧
  (∀ (s : State) (l : Fin 64) (m : PtpMsg), isF s LKS_CTL_ARM = true → m.wellFormed = true → m.stampValid = true → m.kind = .unicastRequest → bcPort s l.val m.domain.toNat = true →
    domainKnown s m.domain.toNat = true → servoTakes s 0 l.val m = false → servoTakes s 1 l.val m = false → isF s LKS_BC_CTL_PROFILE = true → (l.val, m.client) ∉ s.lks.clients →
    exec (.ptpFrameReceive l m) s = .next (if s.lks.clients.length < 128 then
      emit { atDt s m.dt with lks := { s.lks with clients := s.lks.clients ++ [(l.val, m.client)] } } (.ptpGrant l.val m.client true) else emit (atDt s m.dt) (.ptpGrant l.val m.client false))) ∧
  (∀ s : State, exec .ptpDropClr s = .next (setF (setF (setF s LKS_PTP_DROP_UNARMED 0) LKS_PTP_DROP_INVALID 0) LKS_PTP_DROP_RESIDENCE 0)) ∧
  (∀ s : State, ppsRuns s = true → inCycle s (ppsNext s) = true → exec .ppsOutEdge s = .next
    (emit { s with lks := { s.lks with ppsRise := some (ppsNext s) } } (.pin "PPS_OUT" true (ppsNext s)))) ∧
  (∀ (s : State) (t : Int), s.lks.ppsRise = some t → ppsRuns s = true → reached s (t + getF s LKS_PPS_CTL_WIDTH * 1000000000) = true → exec .ppsOutFall s = .next
    (emit { s with lks := { s.lks with ppsRise := none } } (.pin "PPS_OUT" false (t + getF s LKS_PPS_CTL_WIDTH * 1000000000)))) ∧
  (∀ (s : State) (h : DWord) (dt : Nat), isF s LKS_PTM_CTL_EN = true → s.cfg.ptmEnable = true → s.lks.lastPtm = none → exec (.ptmDialogue h dt) s = .next
    (let x := setF (setF (atDt s dt) LKS_PTM_HOST_HOST_TIME h.toNat) LKS_PTM_CT_CT_AT ((secOf (now (atDt s dt)) % 2 ^ 32) * 2 ^ 32 + nsOf (now (atDt s dt)))
     { x with lks := { x.lks with lastPtm := some (now (atDt s dt)) } })) ∧
  (∀ (s : State) (l : Fin 64), (getLane s l.val).cal = true → exec (.laneCalibrationEnd l) s = .next
    (setF (setLane s l.val { getLane s l.val with cal := false }) (LKS_LANE_STAT_CAL_DONE (l.val / 16) (l.val % 16)) 1)) ∧
  (∀ (s : State) (n : Fin 512) (v : DWord), planInstalled s n.val = false → exec (.ciOfsWrite n v) s = .next (setF s (LKS_CI_OFS_OFS n.val) v.toNat)) ∧
  (∀ (s : State) (n : Fin 512) (v : DWord), planInstalled s n.val = true → exec (.ciOfsWrite n v) s = .next (setF s LKS_CI_OFS_ERR_LOCKED 1))

/-- Event pins and the event FIFO (spec/02_larkspur_time.md, basis derived). An edge that qualifies at an armed event pin (or PPS_IN) that is not in its 200 ns, nor HELD in level mode, and that comes 2 ns or more after the pin's last one, is an event: the pin takes the level, the event enters the FIFO with its stamp, the interrupt follows IRQ_EN, and the 200 ns begin; an unarmed edge only changes the level. An edge that ends a pulse of less than 2 ns is no edge, and the one that began the pulse is taken back: its entry leaves the FIFO and the pin's hold and 200 ns are those of before it. The end of the 200 ns, the hold, the re-arming and the three clear commands do what their rules say. -/
def Obligations.EventPinsTimestamp : Prop :=
  (∀ (s : State) (n : Fin 16) (dt : Nat) (up : Bool), isF s (EVT_PIN_CTL_ARM n.val) = true → (getPin s n.val).window = none → pinQualifies s n.val up = true →
    testF s EVT_HELD_HELD n.val = false ∨ isF s (EVT_PIN_CTL_LEVEL n.val) = false → pinDetects (atDt s dt) n.val (now (atDt s dt)) = true →
    let x := atDt s dt
    exec (.eventPinEdge n dt up) s = .next (pinNote x (pinAccept (pinSetLevel x n.val up (now x)) n.val (now x) up false) n.val (now x) up)) ∧
  (∀ (s : State) (n : Fin 16) (dt : Nat) (up : Bool), isF s (EVT_PIN_CTL_ARM n.val) = false → (getPin s n.val).window = none → pinDetects (atDt s dt) n.val (now (atDt s dt)) = true →
    let x := atDt s dt
    exec (.eventPinEdge n dt up) s = .next (pinNote x (pinSetLevel x n.val up (now x)) n.val (now x) up)) ∧
  (∀ (s : State) (n : Fin 16) (dt : Nat) (up : Bool), pinDetects (atDt s dt) n.val (now (atDt s dt)) = false →
    let x := atDt s dt
    ((getPin s n.val).undo = none → exec (.eventPinEdge n dt up) s = .next (pinSetLevel x n.val up (now x))) ∧
    (∀ u, (getPin s n.val).undo = some u → smWf (fun _ => ({} : Pin)) s.pins = true →
      ∃ t, exec (.eventPinEdge n dt up) s = .next t ∧ t.evtFifo = (match u.entry with | some e => s.evtFifo.erase e | none => s.evtFifo) ∧
        getPin t n.val = { level := up, since := if up = u.level then u.since else now x, edge := u.edge, window := u.window })) ∧
  (∀ (s : State) (dt : Nat), isF s EVT_PPS_CTL_ARM = true → (getPin s 16).window = none → pinDetects (atDt s dt) 16 (now (atDt s dt)) = true →
    let x := atDt s dt
    exec (.ppsInEdge dt true) s = .next (pinNote x (pinAccept (pinSetLevel x 16 true (now x)) 16 (now x) true false) 16 (now x) true)) ∧
  (∀ (s : State) (n : Fin 17) (w : PinWindow), (getPin s n.val).window = some w → w.last = none → reached s w.ends = true → exec (.coalesceIntervalEnd n) s = .next
    (setPin s n.val { getPin s n.val with window := none })) ∧
  (∀ (s : State) (n : Fin 16), isF s (EVT_PIN_CTL_ARM n.val) = true → isF s (EVT_PIN_CTL_LEVEL n.val) = true → pinActive s n.val (getPin s n.val).level = true →
    testF s EVT_HELD_HELD n.val = false → reached s ((getPin s n.val).since + 1000000000) = true → exec (.pinHeld n) s = .next
    (intPulse (setBitF s EVT_HELD_HELD n.val) (772 + n.val))) ∧
  (∀ (s : State) (n : Fin 16), testF s EVT_HELD_HELD n.val = true → pinActive s n.val (getPin s n.val).level = false →
    reached s ((getPin s n.val).since + 1000000) = true → exec (.pinRearm n) s = .next (clrBitF s EVT_HELD_HELD n.val)) ∧
  (∀ (s : State) (e : EvtEntry) (r : List EvtEntry), s.evtFifo = e :: r → exec .evtFifoPop s = .next { s with evtFifo := r }) ∧
  (∀ s : State, exec .evtFifoClrLost s = .next (setF s EVT_FIFO_STAT_LOST 0)) ∧
  (∀ (s : State) (n : Fin 17), exec (.evtOvrClr n) s = .next (setF s (EVT_OVR_COUNT n.val) 0))

/-- The scheduling tick and the slot boundaries (spec/02_larkspur_time.md, spec/13_phlox.md, spec/03_slot_contract.md, basis derived). A tick falls at each multiple of 250 ns of CT, and a slot boundary at its instant, in the always-on cycle that holds it. The scheduling tick and the slot boundary of a quadrant that is not dark happen once in their cycle; each moves to its instant, marks that it has come and changes nothing else before its effect: the tick gives its strobe and serves PX0 and PX1, the quadrant's boundary brings what waits for it. A slot boundary of a carrier instance frees the resources of its plans that are due and clears DELAY_VIOL where every delay is back within its bounds. Outside that cycle none of them changes anything. -/
def Obligations.GridInstantsBring : Prop :=
  (∀ (s : State) (t : Int), t % 250000 = 0 → ctPs s ≤ t → t < ctPs s + 250000 → reached s t = true → s.lks.tickDone = false →
    ∃ x : State, x = { s with subPs := x.subPs, lks := { s.lks with tickDone := true } } ∧ now x = max (now s) t ∧
      exec .schedulingTick s = .next (partitionBoundary (partitionBoundary (emit x .tickStrobe) 16 t) 17 t)) ∧
  (∀ (s : State) (q : Fin 4) (t : Int), nextQuadBoundary s q.val (ctPs s) = t → inCycle s t = true → quadDark s q.val = false → s.lks.slotDone.testBit q.val = false →
    ∃ x : State, x = { s with subPs := x.subPs, lks := { s.lks with slotDone := x.lks.slotDone } } ∧ now x = max (now s) t ∧ x.lks.slotDone.testBit q.val = true ∧
      (∀ r, r ≠ q.val → x.lks.slotDone.testBit r = s.lks.slotDone.testBit r) ∧ exec (.quadrantSlotBoundary q) s = .next (quadBoundary x q.val t)) ∧
  (∀ (s : State) (n : Fin 512) (t : Int), nextCiBoundary s n.val = t → inCycle s t = true →
    ∃ x : State, x = { s with subPs := x.subPs } ∧ now x = max (now s) t ∧ exec (.carrierSlotBoundary n) s = .next (clearDelayViol (freePlans x n.val) n.val)) ∧
  (∀ s : State, (inCycle s (nextTick s) = false ∨ s.lks.tickDone = true → exec .schedulingTick s = .next s) ∧
    (∀ q : Fin 4, inCycle s (nextQuadBoundary s q.val (ctPs s)) = false ∨ s.lks.slotDone.testBit q.val = true ∨ quadDark s q.val = true →
      exec (.quadrantSlotBoundary q) s = .next s) ∧
    (∀ n : Fin 512, inCycle s (nextCiBoundary s n.val) = false → exec (.carrierSlotBoundary n) s = .next s))

/-- Doorbells, fetch and the life of a ring (spec/04_dahlia.md, basis derived). A full write of CMD_TAIL of an enabled ring with an index inside the ring makes the words up to it visible, each with this doorbell; a partial write is a bad access. A write of CQ_HEAD within the used entries frees them. COMMAND_FETCH reads the word at CMD_HEAD into the reader, reserving an entry where the opcode needs one; while the host holds the word's line in E or M it sends the snoop and reads nothing. While the host link recovers, neither index is written. In a quadrant whose ring registers are not there, enabling and disabling do nothing; elsewhere a ring is enabled, disabled (what is unread is discarded and it drains) and, once its records are written, stops draining. -/
def Obligations.DoorbellsAndRings : Prop :=
  (∀ (s : State) (r : Fin 256) (v : Word) (dt : Nat), s.linkHeld ≤ now (atDt s dt) → ringEn s r.val = true → v.toNat < cmdSize s r.val →
    let g := getRing s r.val
    let n := (v.toNat + cmdSize s r.val - g.cmdHead) % cmdSize s r.val
    exec (.cmdTailWrite r v 15 dt) s = .next (setRing (atDt s dt) r.val
      { g with cmdTail := v.toNat, stamps := g.stamps.take n ++ List.replicate (n - g.stamps.length) (now (atDt s dt)) })) ∧
  (∀ (s : State) (r : Fin 256) (v : Word) (be : BitVec 4) (dt : Nat), be ≠ 15 → s.linkHeld ≤ now s →
    exec (.cmdTailWrite r v be dt) s = .next (addF s CXL_BAD_ACC_BAR2 1) ∧ exec (.cqHeadWrite r v be) s = .next (addF s CXL_BAD_ACC_BAR2 1)) ∧
  (∀ (s : State) (r : Fin 256) (v : Word) (be : BitVec 4) (dt : Nat), now (atDt s dt) < s.linkHeld →
    exec (.cmdTailWrite r v be dt) s = .next s ∧ exec (.cqHeadWrite r v be) s = .next s) ∧
  (∀ (s : State) (r : Fin 256) (v : Word), s.linkHeld ≤ now s → ringEn s r.val = true → v.toNat < cqSize s r.val →
    (v.toNat + cqSize s r.val - (getRing s r.val).cqHead) % cqSize s r.val ≤ cqUsed s r.val →
    exec (.cqHeadWrite r v 15) s = .next (setRing s r.val { getRing s r.val with cqHead := v.toNat })) ∧
  (∀ (s : State) (r : Fin 256) (dt a : Nat), ringEn s r.val = true → visibleWords s r.val ≠ 0 → isF s (ADM_CTL_EN (r.val / 64)) = true → nextWordAddr s r.val = .ok a →
    (getRing s r.val).badBase = false →
    (∀ x, waitsFor s a 64 false = some x → exec (.commandFetch r dt) s = .next (snoopLine (atDt s dt) x false)) ∧
    (waitsFor s a 64 false = none → waitsForActive s (r.val / 64) (opcodeOf (cmdWordAt s a)) = false → (needsEntry (opcodeOf (cmdWordAt s a)) = true → cqFree s r.val ≠ 0) →
      let g := getRing s r.val
      exec (.commandFetch r dt) s = .next (setRing (readBad (askHost (atDt s dt) a 64) a 64) r.val { g with
        cmdHead := (g.cmdHead + 1) % cmdSize s r.val, stamps := g.stamps.drop 1,
        words := g.words ++ [⟨cmdWordAt s a, g.stamps.headD (now (atDt s dt)), now (atDt s dt), false⟩],
        reserved := if needsEntry (opcodeOf (cmdWordAt s a)) then g.reserved + 1 else g.reserved }))) ∧
  (∀ (s : State) (r : Fin 256), blockLive s .adm (r.val / 64) = true → ringEn s r.val = false → ringDraining s r.val = false → exec (.ringEnable r) s = .next
    (setRing (setF s (ADM_RING_CTL_EN (r.val / 64) (r.val % 64)) 1) r.val { getRing s r.val with phase := true })) ∧
  (∀ (s : State) (r : Fin 256), blockLive s .adm (r.val / 64) = true → ringEn s r.val = true → exec (.ringDisable r) s = .next (disableRing s r.val)) ∧
  (∀ (s : State) (r : Fin 256), blockLive s .adm (r.val / 64) = false → exec (.ringEnable r) s = .next s ∧ exec (.ringDisable r) s = .next s) ∧
  (∀ (s : State) (r : Fin 256), ringEn s r.val = false → ringDraining s r.val = true → ringDrained s r.val = true → exec (.ringDrainEnd r) s = .next (endDrain s r.val))

/-- The command words of jobs, fences and signals (spec/04_dahlia.md, basis derived). With its word at the front of the reader, which it takes: NOP has no effect and a reserved opcode counts one clamp; JOB_OPEN opens a job with the fields of the word; TASK, EDGE and AT add to the open job (a TASK whose fields are in range exactly as given); JOB_CLOSE closes it; EVERY adds a periodic item; CANCEL of SCOPE 0 cancels the jobs of its CI and TAG; FENCE takes the count of jobs before it; SIGNAL is added to the signals that wait. -/
def Obligations.CommandWordsAct : Prop :=
  (∀ (s : State) (r : Fin 256) (w : CmdWord) (rest : List CmdWord), (getRing s r.val).words = w :: rest → opcodeOf w.bits = 0 →
    let x := setRing s r.val { getRing s r.val with words := rest }
    exec (.nop r) s = .next x) ∧
  (∀ (s : State) (r : Fin 256) (w : CmdWord) (rest : List CmdWord), (getRing s r.val).words = w :: rest → 14 ≤ opcodeOf w.bits →
    let x := setRing s r.val { getRing s r.val with words := rest }
    exec (.nop r) s = .next (clamp1 x r.val (opcodeOf w.bits) 0xFF)) ∧
  (∀ (s : State) (r : Fin 256) (w : CmdWord) (rest : List CmdWord), (getRing s r.val).words = w :: rest → opcodeOf w.bits = 1 → cwf w 4 0 10 ≤ 511 → cwf w 16 0 32 ≤ 16000000 →
    let x := setRing s r.val { getRing s r.val with words := rest }
    jobIsOpen x r.val = false →
    exec (.jobOpen r) s = .next (setRing x r.val { getRing x r.val with openJob := some (
      { ci := cwf w 4 0 10, cls := cwf w 4 16 2, slot := cwf w 8 0 32, tag := cwf w 12 0 32, deadline := cwf w 16 0 32, irq := irqOf w, seq := 0,
        fenceSeq := (getRing x r.val).fenceSeq } : JobCmd) })) ∧
  (∀ (s : State) (r : Fin 256) (w : CmdWord) (rest : List CmdWord), (getRing s r.val).words = w :: rest → opcodeOf w.bits = 2 → cwf w 4 0 3 ≠ 7 →
    cwf w 12 0 4 ≤ cwf w 12 4 4 → cwf w 12 8 4 ≤ cwf w 12 12 4 → cwf w 16 0 32 ≤ 1073741824 →
    let x := setRing s r.val { getRing s r.val with words := rest }
    cwf w 12 4 4 ≤ jobLastSym x r.val → cwf w 12 12 4 ≤ jobLastSym x r.val →
    jobIsOpen x r.val = true → openTasks x r.val < 1024 →
    exec (.task r) s = .next (addToJob x r.val fun j => { j with tasks := j.tasks ++
      [{ kind := cwf w 4 0 3, win := cwf w 4 16 12, prog := cwf w 8 0 12, inFirst := cwf w 12 0 4, inLast := cwf w 12 4 4, outFirst := cwf w 12 8 4,
         outLast := cwf w 12 12 4, inEn := cwf w 12 16 1 == 1, outEn := cwf w 12 17 1 == 1, cost := cwf w 16 0 32,
         args := [cwf w 20 0 32, cwf w 24 0 32, cwf w 28 0 32, cwf w 32 0 32], at_ := none }] })) ∧
  (∀ (s : State) (r : Fin 256) (w : CmdWord) (rest : List CmdWord), (getRing s r.val).words = w :: rest → opcodeOf w.bits = 3 →
    let x := setRing s r.val { getRing s r.val with words := rest }
    jobIsOpen x r.val = true → openEdges x r.val < 4096 →
    exec (.edge r) s = .next (addToJob x r.val fun j => { j with rels := j.rels ++ [.edge (cwf w 4 0 10) (cwf w 4 16 10)] })) ∧
  (∀ (s : State) (r : Fin 256) (w : CmdWord) (rest : List CmdWord), (getRing s r.val).words = w :: rest → opcodeOf w.bits = 4 →
    let x := setRing s r.val { getRing s r.val with words := rest }
    jobIsOpen x r.val = true →
    exec (.atTime r) s = .next (addToJob x r.val fun j => { j with rels := j.rels ++ [.atTime (cwf w 4 0 10) (signedOf 32 (cwf w 8 0 32))] })) ∧
  (∀ (s : State) (r : Fin 256) (w : CmdWord) (rest : List CmdWord), (getRing s r.val).words = w :: rest → opcodeOf w.bits = 6 →
    let x := setRing s r.val { getRing s r.val with words := rest }
    jobIsOpen x r.val = true →
    exec (.jobClose r) s = .next (closeJob x r.val w)) ∧
  (∀ (s : State) (r : Fin 256) (w : CmdWord) (rest : List CmdWord), (getRing s r.val).words = w :: rest → opcodeOf w.bits = 5 → everyPeriod (cwf w 4 0 32) = cwf w 4 0 32 → cwf w 12 0 32 ≤ 999999999 →
    let x := setRing s r.val { getRing s r.val with words := rest }
    jobIsOpen x r.val = false → (getRing x r.val).items.length < 16 → liveNodes x (r.val / 64) < 2097152 →
    exec (.every r) s = .next (setRing x r.val { getRing x r.val with items := (getRing x r.val).items ++
      [{ period := cwf w 4 0 32, count := cwf w 8 0 32, value := cwf w 16 0 32, tag := cwf w 20 0 32, irq := irqOf w, fired := 0,
         next := nextMultiple (w.term2 - (cwf w 12 0 32) * 1000) psSec + (cwf w 12 0 32) * 1000 }] })) ∧
  (∀ (s : State) (r : Fin 256) (w : CmdWord) (rest : List CmdWord), (getRing s r.val).words = w :: rest → opcodeOf w.bits = 7 → cwf w 4 0 10 ≤ 511 → cwf w 4 16 1 = 0 →
    let x := setRing s r.val { getRing s r.val with words := rest }
    jobIsOpen x r.val = false →
    exec (.cancel r) s = .next (failJobs x (fun j => j.home == r.val / 64 && j.cmd.ci == cwf w 4 0 10 && j.cmd.tag == cwf w 8 0 32) 0x10 0x70)) ∧
  (∀ (s : State) (r : Fin 256) (w : CmdWord) (rest : List CmdWord), (getRing s r.val).words = w :: rest → opcodeOf w.bits = 8 → cwf w 4 0 2 ≤ 2 →
    let x := setRing s r.val { getRing s r.val with words := rest }
    jobIsOpen x r.val = false →
    exec (.fence r) s = .next (setRing x r.val { getRing x r.val with
      admitSeq := (getRing x r.val).seq, fenceSeq := if cwf w 4 0 2 = 0 then (getRing x r.val).fenceSeq else (getRing x r.val).seq })) ∧
  (∀ (s : State) (r : Fin 256) (w : CmdWord) (rest : List CmdWord), (getRing s r.val).words = w :: rest → opcodeOf w.bits = 9 →
    let x := setRing s r.val { getRing s r.val with words := rest }
    jobIsOpen x r.val = false →
    exec (.signal r) s = .next (setRing x r.val { getRing x r.val with signals := (getRing x r.val).signals ++ [⟨cwf w 4 0 32, cwf w 8 0 32, irqOf w, w.term2,
      (getRing x r.val).admitSeq, (getRing x r.val).fenceSeq, if fencesMet x r.val (getRing x r.val).admitSeq (getRing x r.val).fenceSeq then some w.term2 else none⟩] }))

/-- Records of signals and periodic items (spec/04_dahlia.md, spec/03_slot_contract.md, basis derived). SIGNAL_RECORD takes the oldest SIGNAL whose fences are satisfied off its ring and writes its record, with the later of its reading and that instant as stamp: the 32 bytes stand at the next completion entry with the ring's PHASE, no other byte and of the registers only the outcome's count changes, and index and PHASE move on. A record whose line of DRAM the host holds waits and the snoop goes out; one for host memory waits with its request out, and the host's GO writes it; one behind another record of the ring that waits does nothing else. Without such a SIGNAL nothing changes. EVERY_FIRING does nothing before the item's tick; from it on the item fires: with a free completion entry its record is written so, stamped with the firing instant (assumption 139), without one only EVERY_MISS counts; the item's next firing is one period later, and it ends with its COUNT. ADM_CNT_CLR clears the sixteen outcome counts and no other register. -/
def Obligations.SignalsAndItemsRecord : Prop :=
  (∀ (s : State) (r : Fin 256) (dt a : Nat) (x : Signal) (rest : List Signal), takeFirst (fun y => y.met.isSome) (getRing s r.val).signals = some (x, rest) → Canonical s →
    let s1 := setRing (atDt s dt) r.val { getRing s r.val with signals := rest }
    let v : Rec := ⟨x.tag, 0, 0, 0x3FF, 5, x.value, 0, max x.readAt (x.met.getD x.readAt), none, 0⟩
    (EntryOpen s1 r.val a → ∃ t, exec (.signalRecord r dt) s = .next t ∧ RecordShown s1 t r.val a true v) ∧
    ((∀ y ∈ s.recs, y.ring ≠ r.val) → checkAddr s1 (r.val / 64) (.ring r.val) (nextEntry s1 r.val) 32 true = .ok a →
      (inHost a = false → ∀ z, waitsFor s1 a 32 true = some z →
        exec (.signalRecord r dt) s = .next (snoopLine { s1 with recs := s.recs ++ [{ ring := r.val, irq := x.irq, rec_ := v }] } z true)) ∧
      (inHost a = true → s.linkHeld ≤ now s1 →
        let w := recBytes r.val (getRing s1 r.val).phase (now s1) v
        exec (.signalRecord r dt) s = .next { tellHost s1 a 32 false with recs := s.recs ++ [{ ring := r.val, irq := x.irq, rec_ := v, sent := some (a, w) }] })) ∧
    (∀ y ∈ s.recs, y.ring = r.val → y.sent.isSome = true → s.recs.find? (fun x => x.ring == r.val) = some y →
      exec (.signalRecord r dt) s = .next { s1 with recs := s.recs ++ [{ ring := r.val, irq := x.irq, rec_ := v }] })) ∧
  (∀ (s : State) (r : Fin 256) (x : PendRec) (a : Nat) (bs : List Byte), (getQuad s (r.val / 64)).reinit = none → s.linkHeld ≤ now s →
    s.recs.find? (fun x => x.ring == r.val) = some x → x.sent = some (a, bs) → exec (.hostWriteGo (.ring r)) s = .next (writeRecs (finishRec s x a bs) r.val)) ∧
  (∀ (s : State) (r : Fin 256) (dt : Nat), (∀ x ∈ (getRing s r.val).signals, x.met = none) → exec (.signalRecord r dt) s = .next s) ∧
  (∀ (s : State) (r : Fin 256) (i : Fin 16) (dt a : Nat) (x : Item), (getRing s r.val).items[i.val]? = some x → Canonical s →
    let y : Item := { x with fired := x.fired + 1, next := x.next + x.period * 1000 }
    let after := fun g : Ring => if x.count ≠ 0 ∧ x.count ≤ x.fired + 1 then g.items.eraseIdx i.val else setAt g.items i.val y
    (reached s (nextMultiple x.next 250000) = false → exec (.everyFiring r i dt) s = .next s) ∧
    (reached s (nextMultiple x.next 250000) = true → cqFree s r.val = 0 →
      ∃ t, exec (.everyFiring r i dt) s = .next t ∧ t.rings = (setRing s r.val { getRing s r.val with items := after (getRing s r.val) }).rings ∧ t.mem = s.mem ∧
        getF t (ADM_RING_STAT_EVERY_MISS (r.val / 64) (r.val % 64)) = min 255 (getF s (ADM_RING_STAT_EVERY_MISS (r.val / 64) (r.val % 64)) + 1) ∧
        BitsBut s t (ADM_RING_STAT_EVERY_MISS (r.val / 64) (r.val % 64)) ∧ RegsBut s t [ADM_RING_STAT (r.val / 64) (r.val % 64)]) ∧
    (reached s (nextMultiple x.next 250000) = true → cqFree s r.val ≠ 0 → EntryOpen s r.val a →
      ∃ u, RecordShown (atDt s dt) u r.val a false ⟨x.tag, 0, 0, 0x3FF, 6, x.value, 0, x.next, none, x.fired + 1⟩ ∧
        exec (.everyFiring r i dt) s = .next (setRing u r.val { getRing u r.val with items := after (getRing u r.val) }))) ∧
  (∀ (s : State) (q : Fin 4), smWf regReset s.regs = true → blockLive s .adm q.val = true →
    ∃ t, exec (.admCntClr q) s = .next t ∧ (∀ c < 16, getR t (ADM_CNT_OUT q.val c) = 0) ∧ RegsBut s t ((List.range 16).map (ADM_CNT_OUT q.val)) ∧ t = { s with regs := t.regs })

/-- PLAN_SET, its decision, and PLAN_DROP (spec/03_slot_contract.md, spec/04_dahlia.md, basis derived). PLAN_SET fetches its image; where checks 1 to 8 pass the raises that it needs begin, else it waits alone. PLAN_DECISION at the stamp plus 1 ms writes the refusal of the first check that fails with outcome and detail, or installs the plan and writes the accepted record. PLAN_DROP takes its word, and 2,000 ns after its stamp is decided: without a plan it is refused, from another quadrant it is refused, and else the plans end at the first boundary after the decision. -/
def Obligations.PlanCommandsAct : Prop :=
  (∀ (s : State) (r : Fin 256) (w : CmdWord) (rest : List CmdWord), (getRing s r.val).words = w :: rest → opcodeOf w.bits = 10 → cwf w 4 0 10 ≤ 511 →
    ∀ len a : Nat, len = cwf w 16 0 32 → 64 ≤ len → len ≤ 1048576 →
    let x := setRing s r.val { getRing s r.val with words := rest }
    let y := readBad (askHost x a len) a len
    jobIsOpen x r.val = false → checkAddr s (r.val / 64) .image (cwf w 24 0 64 / 64 * 64) len false = .ok a → checkAddr x (r.val / 64) .image (cwf w 24 0 64 / 64 * 64) len false = .ok a →
    waitsFor s a len false = none → badRead y a len = false →
    let u : UCmd := ⟨.planSet, r.val, irqOf w, cwf w 4 0 10, cwf w 8 0 32, cwf w 12 0 32, 0, 0, 0, w.term2, upNs (max w.term1 w.term2), some (rdBytes y a len), [], false, w.lost⟩
    (∀ e, (checkPlan y u (u.stamp + 1000000000)).1 = .error e → exec (.planSet r) s = .next { y with ucmds := y.ucmds ++ [u] }) ∧
    (∀ p, (checkPlan y u (u.stamp + 1000000000)).1 = .ok p →
      let z := planRaises y p
      exec (.planSet r) s = .next { z.1 with ucmds := z.1.ucmds ++ [{ u with raised := z.2.1, refused := z.2.2 }] })) ∧
  (∀ (s : State) (r : Fin 256) (dt : Nat) (u : UCmd) (rest : List UCmd), takeUcmd s r.val .planSet = some (u, rest) → reached s (u.stamp + 1000000000) = true →
    let x := { atDt s dt with ucmds := rest }
    let c := checkPlan x u (u.stamp + 1000000000)
    let y := planClamps x u.ring c.2
    (∀ o d sig, c.1 = .error (o, d, sig) → exec (.planDecision r dt) s = .next (ucmdRecord (dropRaises (if sig then verifyFailed y 3 else y) u) u o d 1 u.slot u.ci)) ∧
    (∀ p, c.1 = .ok p → u.refused = false → (planClusters p).any (fun k => decide (getF y (PWR_CL_STAT_OP k) < p.op)) = false →
      exec (.planDecision r dt) s = .next (ucmdRecord (installPlan y p) u 0 0 1 u.slot u.ci))) ∧
  (∀ (s : State) (r : Fin 256) (w : CmdWord) (rest : List CmdWord), (getRing s r.val).words = w :: rest → opcodeOf w.bits = 11 → cwf w 4 0 10 ≤ 511 → ∀ dt : Nat, takeUcmd s r.val .planDrop = none →
    let x := setRing s r.val { getRing s r.val with words := rest }
    jobIsOpen x r.val = false →
    exec (.planDrop r dt) s = .next { x with ucmds := x.ucmds ++ [⟨.planDrop, r.val, irqOf w, cwf w 4 0 10, cwf w 8 0 32, cwf w 12 0 32, 0, 0, 0, w.term2, upNs (max w.term1 w.term2), none, [], false, w.lost⟩] }) ∧
  (∀ (s : State) (r : Fin 256) (dt : Nat) (u : UCmd) (rest : List UCmd), takeUcmd s r.val .planDrop = some (u, rest) → reached s (u.stamp + 2000000) = true →
    let x := { atDt s dt with ucmds := rest }
    let d := u.stamp + 2000000
    (plansOf s u.ci = [] → exec (.planDrop r dt) s = .next (ucmdRecord x u 3 0x01 2 u.slot u.ci)) ∧
    ∀ p ps, plansOf s u.ci = p :: ps →
      (p.home ≠ u.ring / 64 → exec (.planDrop r dt) s = .next (ucmdRecord x u 3 0x02 2 u.slot u.ci)) ∧
      (p.home = u.ring / 64 →
        let b := slotBoundary p.mu (ciOfs s u.ci) (resolveSlot p.mu (ciOfs s u.ci) u.slot d)
        exec (.planDrop r dt) s = .next (ucmdRecord (dropPlans x u.ci (if b ≤ d then slotBoundary p.mu (ciOfs s u.ci) (firstSlotAt p.mu (ciOfs s u.ci) (d + 1)) else b) d) u 0 0 2 u.slot u.ci)))

/-- Loading and swapping programs (spec/04_dahlia.md, basis derived). PROGRAM_LOAD fetches its image; at the end of the copy the checks of R164 run in order and the image is put on every selected tile. Where the host holds a line of the image of a PROGRAM_LOAD or PLAN_SET in E or M, the word stays and the snoop goes out. PROGRAM_SWAP is decided 2,000 ns after its stamp: every selected tile must hold a PENDING version, which becomes ACTIVE, and the ACTIVE one RETIRING. A RETIRING version is freed once the swap is past and no live node refers to it. -/
def Obligations.ProgramCommandsAct : Prop :=
  (∀ (s : State) (r : Fin 256) (w : CmdWord) (rest : List CmdWord), (getRing s r.val).words = w :: rest → opcodeOf w.bits = 12 → ∀ len a : Nat, len = cwf w 8 0 32 → len % 4 = 0 → 4 ≤ len → len ≤ 131072 →
    let x := setRing s r.val { getRing s r.val with words := rest }
    let y := readBad (askHost x a len) a len
    jobIsOpen x r.val = false → checkAddr s (r.val / 64) .image (cwf w 16 0 64 / 4 * 4) len false = .ok a → checkAddr x (r.val / 64) .image (cwf w 16 0 64 / 4 * 4) len false = .ok a →
    waitsFor s a len false = none → badRead y a len = false →
    exec (.programLoad r) s = .next { y with ucmds := y.ucmds ++
      [⟨.programLoad, r.val, irqOf w, 0, 0, cwf w 12 0 32, cwf w 4 0 12, cwf w 4 16 8, cwf w 4 24 8, w.term2, upNs (max w.term1 w.term2), some (rdBytes y a len), [], false, w.lost⟩] }) ∧
  (∀ (s : State) (r : Fin 256) (w : CmdWord) (rest : List CmdWord) (x : Nat × Nat), (getRing s r.val).words = w :: rest → (getRing s r.val).openJob = none →
    (opcodeOf w.bits = 10 → imageWaits s r.val (planImageAt w).1 (planImageAt w).2 = some x → exec (.planSet r) s = .next (snoopLine s x false)) ∧
    (opcodeOf w.bits = 12 → imageWaits s r.val (progImageAt w).1 (progImageAt w).2 = some x → exec (.programLoad r) s = .next (snoopLine s x false))) ∧
  (∀ (s : State) (r : Fin 256) (dt : Nat) (u : UCmd) (rest : List UCmd), takeUcmd s r.val .programLoad = some (u, rest) → u.stamp ≤ now (atDt s dt) →
    let x := { atDt s dt with ucmds := rest }
    let tiles := selectedTiles (u.ring / 64) u.clusters u.tiles
    let img := u.image.getD []
    ((imageBad x u.image).1 = true → exec (.programLoadCopyDone r dt) s = .next (ucmdRecord (if (imageBad x u.image).2 then verifyFailed x 2 else x) u 3 0x0A 3 u.prog 0)) ∧
    ((imageBad x u.image).1 = false →
      (tiles.any (fun y => (versionIn x y.1 y.2 u.prog .retiring).isSome) = true ∨ tiles.any (fun y => (placeFor x y.1 y.2 u.prog (imageUnits img)).isNone) = true →
        exec (.programLoadCopyDone r dt) s = .next (ucmdRecord x u 4 0x14 3 u.prog 0)) ∧
      (tiles.any (fun y => (versionIn x y.1 y.2 u.prog .retiring).isSome) = false → tiles.any (fun y => (placeFor x y.1 y.2 u.prog (imageUnits img)).isNone) = false →
        exec (.programLoadCopyDone r dt) s = .next (ucmdRecord (tiles.foldl (fun s y => takeImage s u.prog img y) x) u 0 0 3 u.prog 0)))) ∧
  (∀ (s : State) (r : Fin 256) (w : CmdWord) (rest : List CmdWord), (getRing s r.val).words = w :: rest → opcodeOf w.bits = 13 → ∀ dt : Nat, takeUcmd s r.val .programSwap = none →
    let x := setRing s r.val { getRing s r.val with words := rest }
    jobIsOpen x r.val = false →
    exec (.programSwap r dt) s = .next { x with ucmds := x.ucmds ++
      [⟨.programSwap, r.val, irqOf w, 0, cwf w 8 0 32, cwf w 12 0 32, cwf w 4 0 12, cwf w 4 16 8, cwf w 4 24 8, w.term2, upNs (max w.term1 w.term2), none, [], false, w.lost⟩] }) ∧
  (∀ (s : State) (r : Fin 256) (dt : Nat) (u : UCmd) (rest : List UCmd), takeUcmd s r.val .programSwap = some (u, rest) → reached s (u.stamp + 2000000) = true →
    let x := { atDt s dt with ucmds := rest }
    let d := u.stamp + 2000000
    let tiles := selectedTiles (u.ring / 64) u.clusters u.tiles
    (tiles.any (fun y => (versionIn s y.1 y.2 u.prog .pending).isNone) = true → exec (.programSwap r dt) s = .next (ucmdRecord x u 3 0x05 4 u.slot 0)) ∧
    (tiles.any (fun y => (versionIn s y.1 y.2 u.prog .pending).isNone) = false → exec (.programSwap r dt) s = .next
      (ucmdRecord { x with progs := s.progs.map (swapVer tiles u.prog d (quadSlotBoundary x (u.ring / 64) u.slot d)) } u 0 0 4 u.slot 0))) ∧
  (∀ (s : State) (k : Fin 32) (t : Fin 8) (prog : BitVec 12) (v : ProgVer) (at1 tsw : Int), versionIn s k.val t.val prog.toNat .retiring = some v → v.swap = some (at1, tsw) →
    reached s tsw = true → versionInUse s v.id = false → exec (.retiringVersionFreed k t prog) s = .next { s with progs := s.progs.filter fun x => x.id != v.id })

/-- The decision of a job (spec/03_slot_contract.md, spec/04_dahlia.md, basis derived). At its decision instant the oldest closed job of a ring is decided: a structural failure of the home quadrant is REFUSED_PLAN (3), NO_PLAN where no plan of the carrier instance has a part in the ring's quadrant; then come the home quadrant's capacity failure (4) and each other member's structural (3) and capacity (4) failures, a fit that fails without regard to the time 2, one that fails from now on 1, each with the detail and task of its failure; else the job is accepted with the fins of its fit. The stamp is shown. -/
def Obligations.JobsAreDecided : Prop :=
  (∀ (s : State) (r : Fin 256) (dt : Nat) (j : JobCmd) (rest : List JobCmd), (getRing s r.val).closed = j :: rest →
    let g := getRing s r.val
    let stamp := jobStamp g j
    let t := stamp + lDec j.tasks.length (coupledCi s j.ci)
    reached s t = true →
    let x := raiseDelayViol (setRing (atDt s dt) r.val { g with closed := rest, lastDecision := some t, decided := g.decided + 1 })
    let fin := fun y : State => touchSignals (showStamp y r.val stamp) r.val
    ∀ p n, structural x r.val j t = .ok (p, n) →
      let f := fitInput x r.val j p n t
      let y := costClamps x r.val p t f.s0 j.tasks
      (∀ o d k, capacity y p n j t f.s0 = some (o, d, k) → exec (.jobDecision r dt) s = .next (fin (refuseJob y r.val j stamp (some f.deadline) o d k))) ∧
      (capacity y p n j t f.s0 = none →
        (∀ d k, fit f none = .error (d, k) → exec (.jobDecision r dt) s = .next (fin (refuseJob y r.val j stamp (some f.deadline) 2 d k))) ∧
        ∀ fs, fit f none = .ok fs →
          (∀ d k, fit f (some t) = .error (d, k) → exec (.jobDecision r dt) s = .next (fin (refuseJob y r.val j stamp (some f.deadline) 1 d k))) ∧
          ∀ fins, fit f (some t) = .ok fins → exec (.jobDecision r dt) s = .next (fin (acceptJob y r.val j f stamp t fins)))) ∧
  (∀ (s : State) (r : Fin 256) (dt : Nat) (j : JobCmd) (rest : List JobCmd), (getRing s r.val).closed = j :: rest →
    let g := getRing s r.val
    let stamp := jobStamp g j
    let t := stamp + lDec j.tasks.length (coupledCi s j.ci)
    reached s t = true →
    let x := raiseDelayViol (setRing (atDt s dt) r.val { g with closed := rest, lastDecision := some t, decided := g.decided + 1 })
    (∀ d k, structural x r.val j t = .error (d, k) → ∃ dl, exec (.jobDecision r dt) s = .next (touchSignals (showStamp (refuseJob x r.val j stamp dl 3 d k) r.val stamp) r.val) ∧
      dl = (findPlan x j.slot t (if d = 1 ∨ d = 2 then [] else plansOf x j.ci)).map fun y => slotBoundary y.1.mu (ciOfs x j.ci) y.2 + j.deadline * 1000) ∧
    ((plansOf x j.ci).filter (fun p => inQuad p (r.val / 64)) = [] → exec (.jobDecision r dt) s = .next (touchSignals (showStamp (refuseJob x r.val j stamp none 3 1 0x3FF) r.val stamp) r.val))) ∧
  (∀ (s : State) (r : Fin 256) (dt : Nat), ((getRing s r.val).closed = [] → exec (.jobDecision r dt) s = .next s) ∧
    (∀ j rest, (getRing s r.val).closed = j :: rest → reached s (jobStamp (getRing s r.val) j + lDec j.tasks.length (coupledCi s j.ci)) = false → exec (.jobDecision r dt) s = .next s))

/-- Release, fetch, notices and input of nodes (spec/04_dahlia.md, spec/03_slot_contract.md, basis derived). NODE_RELEASE releases a node on chip at the first tick at or after rt; with its counter at 0 it is ready. NODE_FETCH brings a node of the reserved area on chip, released at once where rt has passed; a granule that reads bad fails its job, and one with errors is decoded. A notice lowers the counter of its node by one. INPUT_ARRIVAL lowers it when every declared symbol has come, and at the bound replaces what is missing by zeros and fails the job. -/
def Obligations.NodesBecomeReady : Prop :=
  (∀ (s : State) (node : BitVec 23) (j : Job) (n : Node), findNode s node.toNat = some (j, n) → n.onChip = true → reached s (nextMultiple n.rt 250000) = true →
    exec (.nodeRelease node) s = .next (mapNode s n.id fun x =>
      if x.released then x else { x with released := true, readyAt := if x.counter = 0 then some (max (nextMultiple n.rt 250000) n.rt) else none })) ∧
  (∀ (s : State) (node : BitVec 23) (j : Job) (n : Node), findNode s node.toNat = some (j, n) → n.onChip = false → nodePos (resNodes s n.cluster n.res) n < 256 →
    granBad s (nodeGranule n.id) = false →
    let x := mapNode (settle s (nodeGranule n.id)) n.id fun y => { y with onChip := true }
    exec (.nodeFetch node) s = .next (if n.rt ≤ now s then mapNode x n.id (releaseNode (now s)) else x)) ∧
  (∀ (s : State) (node : BitVec 23) (j : Job) (n : Node), findNode s node.toNat = some (j, n) → n.onChip = false → nodePos (resNodes s n.cluster n.res) n < 256 →
    granBad s (nodeGranule n.id) = true →
    exec (.nodeFetch node) s = .next (mapJob (settle s (nodeGranule n.id)) j.recNode (failJob (now s) ⟨now s, 0x20, 0x42, n.idx⟩))) ∧
  (∀ (s : State) (node : BitVec 23) (dt : Nat) (x : Notice) (rest : List Notice),
    takeFirst (fun x => x.node == node.toNat && !(s.xfers.any fun y => y.src == x.src)) s.notices = some (x, rest) →
    exec (.dependenceNotice node dt) s = .next (mapNode { atDt s dt with notices := rest } node.toNat (decNode (now (atDt s dt))))) ∧
  (∀ (s : State) (node : BitVec 23) (dt : Nat) (j : Job) (n : Node) (p : Plan), findNode s node.toNat = some (j, n) → n.cmd.inEn = true → n.inputDone = false →
    planBySeq s j.planSeq = some p →
    let ents := p.parts.flatMap fun x => x.lanes.map fun e => (x.quad, e)
    let slot := slotAt p.mu (ciOfs s p.ci) j.s0
    let whole := ents.all fun x => entComplete s x.1 p.mu (ciOfs s p.ci) slot n.cmd.inFirst n.cmd.inLast x.2
    (whole = true → exec (.inputArrival node dt) s = .next (mapNode (atDt s dt) n.id fun m => { decNode (now (atDt s dt)) m with inputDone := true })) ∧
    (whole = false → reached s n.bound = true →
      ∀ y : State, y = ents.foldl (fun t x => zeroInput x.1 p.mu (ciOfs s p.ci) slot n.cmd.inFirst n.cmd.inLast t x.2) (atDt s dt) →
      exec (.inputArrival node dt) s = .next (inputIn (mapJob y j.recNode
        (failJob (now y) ⟨max n.bound (now s), 0x22, if p.delayViol then 0x08 else 0x50, n.idx⟩)) n.id)))

/-- Dispatch, the end of engine operations, and records (spec/04_dahlia.md, spec/05_phimar_scalar.md, spec/03_slot_contract.md, basis derived). TASK_START takes the head of an idle resource's ready list: one that cannot meet its window is removed; else, on a ready resource 40 ns after its last start, its node runs, DAH_RES holds it, and a tile gets a fresh core with the program version of its admission and the registers of R157, an engine shows BUSY. ENGINE_OPERATION_END completes the operation with all its effects and ends the task. A task that still waits for the host at its window's close fails its job; of the task channel only a write under way is left. RECORD_WRITE has the record of a job fall due once no node is left and no write of the job is under way: the job is let go, its fences with it, as its record is written, or is lost after a function reset. At a next-need instant the wake request of a cluster rises, counted. -/
def Obligations.TasksStartAndEnd : Prop :=
  (∀ (s : State) (k : Fin 32) (res : Fin 14) (dt : Nat) (j : Job) (n : Node), readyHead (atDt s dt) k.val res.val = some (j, n) → resBusy (atDt s dt) k.val res.val = false →
    quadDark (atDt s dt) (k.val / 8) = false → meetsWindow (atDt s dt) j n = false → exec (.taskStart k res dt) s = .next (removeTask (atDt s dt) j n)) ∧
  (∀ (s : State) (k : Fin 32) (res : Fin 14) (dt : Nat) (j : Job) (n : Node), readyHead (atDt s dt) k.val res.val = some (j, n) → resBusy (atDt s dt) k.val res.val = false →
    quadDark (atDt s dt) (k.val / 8) = false → meetsWindow (atDt s dt) j n = true → resReady (atDt s dt) k.val res.val = true → getF (atDt s dt) (PWR_CL_STAT_STATE k.val) = 0 →
    spacingOver (atDt s dt) k.val res.val = true → versionGone (atDt s dt) n = false → n.cluster = k.val → n.res = res.val →
    ∀ x1 x2 x : State, x1 = mapNode (atDt s dt) n.id (fun x => { x with st := .running, started := now (atDt s dt) }) →
    x2 = setCl x1 k.val { getCl x1 k.val with starts := smPut (fun _ => 0) res.val (now (atDt s dt)) (getCl x1 k.val).starts } →
    x = setF (passCsm x2 k.val) (DAH_RES_NODE k.val res.val) n.id → getF x2 (PWR_CL_STAT_STATE k.val) = 0 →
    (∀ p v, res.val < 8 → startTileOf x k.val res.val = some p → x.progs.find? (fun v => n.ver == some v.id) = some v →
      exec (.taskStart k res dt) s = .next (setTile (tctNow x).2 p (taskCore (tctNow x).2 p (tctNow x).1.2 j n v))) ∧
    (8 ≤ res.val → exec (.taskStart k res dt) s = .next (startEngine x k.val (res.val - 8) n))) ∧
  (∀ (s : State) (k : Fin 32) (res : Fin 6) (dt : Nat) (j : Job) (n : Node) (p : Plan) (j1 : Job) (n1 : Node) (x : CodeRes), res ≠ 5 →
    runningNode (atDt s dt) k.val (8 + res.val) = some (j, n) → planBySeq (atDt s dt) j.planSeq = some p → engineReady (atDt s dt) k.val res.val = true →
    runEngine (setF (atDt s dt) (engBusy k.val res.val) 0) res.val j n p = x →
    (x.2.2 = false → findNode (addF x.1 (engOps k.val res.val) 1) n.id = some (j1, n1) →
      exec (.engineOperationEnd k res dt) s = .next (if x.2.1 then failNode (addF x.1 (engOps k.val res.val) 1) j1 n1 0x20 0x42 else endNode (addF x.1 (engOps k.val res.val) 1) j1 n1 true)) ∧
    (x.2.2 = true → x.2.1 = false → findNode x.1 n.id = some (j1, n1) → exec (.engineOperationEnd k res dt) s = .next (failNode x.1 j1 n1 0x21 0x60))) ∧
  (∀ (s : State) (node : BitVec 23) (dt : Nat) (j : Job) (n : Node), findNode s node.toNat = some (j, n) → n.st = .running → n.hostWait = true → reached s n.clo = true →
    let x := failNode (atDt s dt) j n 0x22 0x51
    exec (.windowCloseHostWait node dt) s = .next (if (getDma s n.cluster 0).node = some n.id then cutTask x n.cluster j n else x)) ∧
  (∀ (s : State) (node : BitVec 23) (dt : Nat) (j : Job), s.jobs.find? (fun j => j.recNode == node.toNat) = some j → j.recCounter = 0 → (s.xfers.any fun y => y.rec_ == j.recNode) = false →
    writesLate s j.recNode = false → (∀ y ∈ s.recs, y.job ≠ some j.recNode) →
    (j.lost = true → exec (.recordWrite node dt) s = .next (letGo (loseRecord (atDt s dt)) j)) ∧
    (j.lost = false → exec (.recordWrite node dt) s = .next (queueRec (atDt s dt) true { ring := j.ring, irq := j.cmd.irq, rec_ := jobRec j, job := some j.recNode })) ∧
    (j.lost = false → isRefusal (jobRec j).outcome = false → recordsToHost (atDt s dt) j.ring = false → ∀ a, EntryOpen (atDt s dt) j.ring a → Canonical s →
      ∃ x, RecordShown (atDt s dt) x j.ring a true (jobRec j) ∧ exec (.recordWrite node dt) s = .next (letGo x j))) ∧
  (∀ (s : State) (k : Fin 32), let due := fun (n : Node) => n.cluster == k.val && n.st == .waiting && !n.woken && reached s n.need
    (s.jobs.any fun j => j.nodes.any due) = true → needLevel s k.val = false →
    ∀ x y : State, x = setCl s k.val { getCl s k.val with need := false } →
    y = { x with jobs := x.jobs.map fun j => { j with nodes := j.nodes.map fun n => if due n then { n with woken := true } else n } } → (getCl y k.val).need = false →
    exec (.wakeRequest k) s = .next (wakeEvent (setCl (addF y (DAH_CNT_WAKE_WAKES k.val) 1) k.val { getCl y k.val with need := true }) k.val 1))

/-- Channels of a DMA controller (spec/07_memory.md, basis derived). START of an IDLE or ABORTED tile or host channel takes its descriptor; RESUME of a FAULTED one goes on with the entry that stopped, or starts anew where the descriptor's own range failed; ABORT leaves the first unchecked entry in ENTRY; in a cluster that is dark, and of the task channel, all three do nothing; what a FAULTED or ABORTED host channel has left to move is moved by its completion, outside the DMA windows; a RUNNING channel with nothing left to move becomes IDLE with DONE, counted, and interrupts as asked; a DMA task ends with its descriptor, and fails its job where it moved poison (0x20/0x42) or ends after its window's close (0x21/0x60). The host channel is suspended before a DMA window and goes on after it. A GO writes the line that the oldest write of a channel waits for, a returned read lets its data move, and the channel goes on. -/
def Obligations.DmaChannelsAct : Prop :=
  (∀ (s : State) (k : Fin 32) (ch : Fin 10), blockLive s .dma k.val = true → ch.val ≠ 0 → getF s (DMA_CH_STAT_STATE k.val ch.val) = 0 ∨ getF s (DMA_CH_STAT_STATE k.val ch.val) = 4 →
    exec (.dmaStart k ch) s = .next (takeDescriptor (beginDescriptor s k.val ch.val) k.val ch.val (getF s (DMA_CH_DESC_ADDR k.val ch.val)) 0 0 (if ch.val = 1 ∧ dmaWindow s k.val (now s) = true then 3 else 1))) ∧
  (∀ (s : State) (k : Fin 32) (ch : Fin 10), blockLive s .dma k.val = true → ch.val ≠ 0 → getF s (DMA_CH_STAT_STATE k.val ch.val) = 2 →
    let st := if ch.val = 1 ∧ dmaWindow s k.val (now s) = true then 3 else 1
    let x := if getF s (DMA_CH_STAT_ENTRY k.val ch.val) = 31 then takeDescriptor s k.val ch.val (getF s (DMA_CH_DESC_ADDR k.val ch.val)) 0 0 st
      else takeDescriptor s k.val ch.val (getDma s k.val ch.val).desc (getF s (DMA_CH_STAT_ENTRY k.val ch.val)) (getF s (DMA_CH_FOFS_FOFS k.val ch.val)) st
    exec (.dmaResume k ch) s = .next (if ch.val = 1 then refresh x (clSrc k.val 9) else x)) ∧
  (∀ (s : State) (k : Fin 32) (ch : Fin 10) (e : Nat), blockLive s .dma k.val = true → ch.val ≠ 0 →
    (getF s (DMA_CH_STAT_STATE k.val ch.val) = 2 ∧ (getDma s k.val ch.val).toRead = none ∧
      e = if getF s (DMA_CH_STAT_ENTRY k.val ch.val) = 31 then 0 else getF s (DMA_CH_STAT_ENTRY k.val ch.val)) ∨
    ((getF s (DMA_CH_STAT_STATE k.val ch.val) = 1 ∨ getF s (DMA_CH_STAT_STATE k.val ch.val) = 3) ∧ (getDma s k.val ch.val).toRead = none ∧ e = (getDma s k.val ch.val).n) ∨
    ((getF s (DMA_CH_STAT_STATE k.val ch.val) = 1 ∨ getF s (DMA_CH_STAT_STATE k.val ch.val) = 2 ∨ getF s (DMA_CH_STAT_STATE k.val ch.val) = 3) ∧ (∃ a f, (getDma s k.val ch.val).toRead = some (a, e, f))) →
    let y := setDma s k.val ch.val { getDma s k.val ch.val with toRead := none }
    let x := goOn (setF (setF y (DMA_CH_STAT_STATE k.val ch.val) 4) (DMA_CH_STAT_ENTRY k.val ch.val) e) k.val ch.val
    exec (.dmaAbort k ch) s = .next (endWaiting (if ch.val = 1 then refresh x (clSrc k.val 9) else x) k.val ch.val)) ∧
  (∀ (s : State) (k : Fin 32) (ch : Fin 10), getF s (DMA_CH_STAT_STATE k.val ch.val) = 1 → (getDma s k.val ch.val).toRead = none → ∀ y : State, y = (if ch.val = 1 then hostRest s k.val else s) →
    (getDma y k.val ch.val).moves = [] →
    ∀ x : State, x = closeUnit (addF (setF (setF y (DMA_CH_STAT_STATE k.val ch.val) 0) (DMA_CH_STAT_DONE k.val ch.val) 1) (DMA_CNT_DESC k.val) 1) k.val ch.val →
    (2 ≤ ch.val → (getDma y k.val ch.val).irq = false → exec (.descriptorComplete k ch) s = .next (endWaiting x k.val ch.val)) ∧
    (∀ p, 2 ≤ ch.val → (getDma y k.val ch.val).irq = true → physOf x k.val (ch.val - 2) = some p → exec (.descriptorComplete k ch) s = .next (endWaiting (raiseLine x p 2) k.val ch.val)) ∧
    (ch.val = 1 → exec (.descriptorComplete k ch) s = .next (if (getDma y k.val 1).irq then refresh (setDma x k.val 1 { getDma x k.val 1 with irqDone := true }) (clSrc k.val 9) else x)) ∧
    (ch.val = 0 → ∀ (z : State) (id : Nat) (j : Job) (n : Node), z = setDma x k.val 0 { getDma x k.val 0 with node := none } → (getDma y k.val 0).node = some id → findNode z id = some (j, n) →
      exec (.descriptorComplete k ch) s = .next (if isF z (DMA_CH_STAT_ECC k.val 0) then failNode z j n 0x20 0x42 else if n.clo < now z then failNode z j n 0x21 0x60 else endNode z j n true))) ∧
  (∀ (s : State) (k : Fin 32), getF s (DMA_CH_STAT_STATE k.val 1) = 2 ∨ getF s (DMA_CH_STAT_STATE k.val 1) = 4 → exec (.descriptorComplete k 1) s = .next (hostRest s k.val)) ∧
  (∀ (s : State) (k : Fin 32) (ch : Fin 10), blockLive s .dma k.val = false ∨ ch.val = 0 →
    exec (.dmaStart k ch) s = .next s ∧ exec (.dmaResume k ch) s = .next s ∧ exec (.dmaAbort k ch) s = .next s) ∧
  (∀ (s : State) (k : Fin 32), (getF s (DMA_CH_STAT_STATE k.val 1) = 1 → dmaWindow s k.val (cycleEnd s) = true → exec (.hostChannelSuspend k) s = .next (setF s (DMA_CH_STAT_STATE k.val 1) 3)) ∧
    (getF s (DMA_CH_STAT_STATE k.val 1) = 3 → dmaWindow s k.val (cycleEnd s) = false → exec (.hostChannelResume k) s = .next (chanOn (setF s (DMA_CH_STAT_STATE k.val 1) 1) k.val 1))) ∧
  (∀ (s : State) (k : Fin 32) (ch : Fin 10) (m : Move) (rest : List Move), s.linkHeld ≤ now s → (getDma s k.val ch.val).moves = m :: rest → (ch.val = 0 → (getDma s k.val 0).late = []) →
    (m.st = .writing → let x := writePiece s k.val ch.val true m m.data
      exec (.hostWriteGo (.channel k ch)) s = .next (chanOn (setDma x k.val ch.val { getDma x k.val ch.val with
        moves := if m.len - m.data.length = 0 then rest else { m with src := m.src + m.data.length, dst := m.dst + m.data.length, dev := m.dev + m.data.length, len := m.len - m.data.length, st := .idle, data := [], fresh := false } :: rest }) k.val ch.val)) ∧
    (m.st = .reading → exec (.hostReadReturn k ch) s = .next (chanOn (setDma s k.val ch.val { getDma s k.val ch.val with moves := { m with st := .returned } :: rest }) k.val ch.val)))

/-- Patrol, row sparing and the host's accesses (spec/07_memory.md, spec/12_cxl.md, basis derived). PATROL_SCRUB brings the symbols named into error in the granule's codeword. Where patrol runs and no fence stands, it decodes the codeword: a poisoned granule is found again, one without error stays, and the decoder's outcome for the pattern (spec/07_memory.md R254) is taken: corrected, written back and counted; ADDRESS, or uncorrectable, poisoned and noted. The last granule ends the pass; a granule outside the memory faults by name. SPARE_REQ begins the copy of a row that is not copied or spared yet where a spare row is left; its end counts it. A host access through a committed decoder reads or writes the bytes of DRAM and admits its lines; where the filter is full it waits while one of the lines held is taken back; a dark quadrant reads ones with poison and discards writes. A back-invalidation response lets go of the line, and what waited for it goes on; a snoop is answered RspIHitI. While the host link recovers none of these reaches the device. -/
def Obligations.MemoryIsScrubbedAndShared : Prop :=
  (∀ (s : State) (m : MemUnit) (g : Nat) (es : List SymErr), 32 * g < unitSize m → inCodewords m = true → let a := flat m (32 * g)
    let e := errAt s (a / 32) ^^^ errPattern es
    let x := putErr s (a / 32) e
    let fin := fun y : State => if unitSize m = 32 * g + 32 then passDone y m else y
    (patrols s m = false → exec (.patrolScrub m g es) s = .next x) ∧
    (patrols s m = true → fencedAt s a = true → exec (.patrolScrub m g es) s = .next (fin x)) ∧
    (patrols s m = true → fencedAt s a = false → smWf (fun _ => 0) s.errs = true →
      (poisoned s (a / 32) = true → exec (.patrolScrub m g es) s = .next (fin (foundBad x a false))) ∧
      (poisoned s (a / 32) = false → e = 0 → exec (.patrolScrub m g es) s = .next (fin x)) ∧
      (poisoned s (a / 32) = false → e ≠ 0 →
        (∀ d, rsDecode e = (.corrected, d) → exec (.patrolScrub m g es) s = .next (fin (foundCorrected (rsWriteBack x (a / 32) d) m g))) ∧
        (∀ d, rsDecode e = (.clean, d) → exec (.patrolScrub m g es) s = .next (fin (rsWriteBack x (a / 32) d))) ∧
        (∀ d, rsDecode e = (.address, d) → exec (.patrolScrub m g es) s = .next (fin (foundBad (putErr x (a / 32) 0) a true))) ∧
        (∀ d, rsDecode e = (.uncorrectable, d) → exec (.patrolScrub m g es) s = .next (fin (foundBad (putErr x (a / 32) 0) a false)))))) ∧
  (∀ (s : State) (m : MemUnit) (g : Nat) (es : List SymErr), unitSize m ≤ 32 * g → exec (.patrolScrub m g es) s = .fault .noSuchGranule) ∧
  (∀ (s : State) (q : Fin 4), let g := getF s (MEM_ECC_LOG_DPA q.val)
    let b := (bankRow g).1
    let row := (q.val, b, (bankRow g).2)
    let used := spareUsed s q.val b + (s.rowCopies.filter fun x => x.1 == q.val && x.2.1 == b).length
    (blockLive s .mem q.val = false ∨ row ∈ s.rowCopies ∨ row ∈ s.spared → exec (.spareReq q) s = .next s) ∧
    (blockLive s .mem q.val = true → row ∉ s.rowCopies → row ∉ s.spared → used < 16 → exec (.spareReq q) s = .next { s with rowCopies := s.rowCopies ++ [row] }) ∧
    (blockLive s .mem q.val = true → row ∉ s.rowCopies → row ∉ s.spared → 16 ≤ used → exec (.spareReq q) s = .next (refresh (setF s (MEM_SPARE_EXHAUSTED q.val) 1) (qSrc q.val 185)))) ∧
  (∀ (s : State) (q : Fin 4) (q1 b row : Nat) (rest : List (Nat × Nat × Nat)), takeFirst (fun x => x.1 == q.val) s.rowCopies = some ((q1, b, row), rest) →
    let u := spareUsed s q.val b + 1
    let x : State := { s with rowCopies := rest, spared := s.spared ++ [(q.val, b, row)], spareRows := smPut (fun _ => 0) (q.val * 2 ^ 32 + b) u s.spareRows }
    let y := setF (addF x (MEM_SPARE_USED q.val) 1) (MEM_SPARE_FREE_MIN q.val) (fewestSpares x q.val)
    exec (.rowSpareCopyDone q) s = .next (if 16 ≤ u then refresh (setF y (MEM_SPARE_EXHAUSTED q.val) 1) (qSrc q.val 185) else y)) ∧
  (∀ (s : State) (q : Fin 4) (ofs len : Nat) (own : Bool), s.linkHeld ≤ now s → isF s (MEM_HDM_LOCKED q.val) = true → quadDark s q.val = false → (∀ w ∈ s.waits, behind w (.host q.val own) = false) →
    let r := hdmRange s q.val
    let a := dramFlat q.val + r.1 + ofs
    let line := (r.1 + ofs) / 64
    let lines := fun n => (List.range n).map (line + ·)
    let new := fun n => ((lines n).filter fun l => sfGet s q.val l == 0).length
    let take := fun (v n : Nat) (t : State) => (lines n).foldl (fun t l => sfPut t q.val l v) t
    (∀ bs : List Byte, bs ≠ [] → r.1 + ofs + bs.length ≤ r.2 → let n := (r.1 + ofs + bs.length - 1) / 64 - line + 1
      own = false ∨ (heldLines s q.val).length + new n ≤ 262144 → exec (.hdmAccess q ofs (some bs) len own) s = .next (take (if own then 2 else 0) n (wrMem s a bs))) ∧
    (len ≠ 0 → r.1 + ofs + len ≤ r.2 → let n := (r.1 + ofs + len - 1) / 64 - line + 1
      ((heldLines s q.val).length + new n ≤ 262144 → let x := readBad s a len
        exec (.hdmAccess q ofs none len own) s = .next (take (if own then 2 else 1) n (emit x (.readData (rdBytes x a len) (badRead x a len))))) ∧
      (262144 < (heldLines s q.val).length + new n → heldLines s q.val ≠ [] →
        ∃ v : Nat × Nat, v ∈ heldLines s q.val ∧ exec (.hdmAccess q ofs none len own) s = .next
          (snoopLine { (takeFree s).2 with waits := s.waits ++ [⟨.host q.val own, a, len, none⟩] } (q.val, v.1 % 2 ^ 32) true)))) ∧
  (∀ (s : State) (q : Fin 4) (ofs len : Nat) (own : Bool) (bs : List Byte), s.linkHeld ≤ now s → quadDark s q.val = true →
    exec (.hdmAccess q ofs none len own) s = .next (emit s (.readData (List.replicate len 255) true)) ∧ exec (.hdmAccess q ofs (some bs) len own) s = .next s) ∧
  (∀ (s : State) (q : Fin 4) (line : Nat), s.linkHeld ≤ now s →
    exec (.backInvalidateResponse q line) s = .next (goOnAll (retryRecs (retryWaits { (sfPut s q.val line 0) with biOut := s.biOut.filter fun x => x != (q.val, line) }))) ∧
    exec (.h2dSnoop line) s = .next (emit s (.rspIHitI line))) ∧
  (∀ (s : State) (q : Fin 4) (line ofs len : Nat) (bs : Option (List Byte)) (own : Bool), now s < s.linkHeld →
    exec (.hdmAccess q ofs bs len own) s = .next s ∧ exec (.backInvalidateResponse q line) s = .next s ∧ exec (.h2dSnoop line) s = .next s)

/-- Check-value units and the coupling ring (spec/07_memory.md, spec/01_hierarchy.md, spec/08_port_processing.md, basis derived). CVU_UNIT_RESULT takes the oldest unit of computation that has ended on a check-value unit, or, where none is held, the one that the command brings to an enabled, unclaimed unit with a source. MODE 0 appends its CRC, folded, to the FIFO, or counts it lost where the FIFO holds 16; MODE 1 compares the CRC with EXPECT, MODES 2 and 3 with the unit's own last bytes: a match is counted, a mismatch is counted and shows MISMATCH and BAD_SEQ; no other register changes. CVU_POP removes the head, where the cluster's registers are there. A good ring transfer is written at its place, its granules poisoned where its source was; one that fails its check is not, its job fails FAILED_HW with detail RING and the index of the sending task, and the link retrains: at once at both ends where a slot of it is free in each direction, otherwise once one is. A link comes up again, counted at both ends, or fails after 10 ms and drops the coupled plans that use it; a coupled plan with a failed link or a quadrant under reinitialisation is dropped. -/
def Obligations.CheckUnitsAndRingLinks : Prop :=
  (∀ (s s1 : State) (k : Fin 32) (u : Fin 4) (d : CvuUnit) (x : CvuPend), smWf regReset s.regs = true →
    (∃ rest, cvuEnded s k.val u.val = x :: rest ∧ s1 = { s with cvuIn := smPut (fun _ => []) (4 * k.val + u.val) rest s.cvuIn }) ∨
      (cvuEnded s k.val u.val = [] ∧ isF s (CVU_CTL_EN k.val u.val) = true ∧ isF s (CVU_CTL_CLAIMED k.val u.val) = false ∧ getF s (CVU_CTL_SRC_KIND k.val u.val) ≠ 0 ∧
        x = ⟨cvuConf s k.val u.val, d.data, d.addr.toNat, d.port, d.seq⟩ ∧ s1 = s) →
    let c := cvuCfg x.conf
    let mode := bitsOf x.conf.ctl 1 2
    let n := x.data.length - ceilDiv c.width 8
    let r := crcOf c (foldBytes x ++ x.data)
    let good := if mode = 1 then r = x.conf.expect else crcOf c (foldBytes x ++ x.data.take n) = leNat (x.data.drop n)
    (mode = 0 → (cvuFifo s k.val u.val).length < 16 →
      exec (.cvuUnitResult k u d) s = .next { s1 with cvu := smPut (fun _ => []) (4 * k.val + u.val) (cvuFifo s k.val u.val ++ [⟨r, x.seq⟩]) s.cvu }) ∧
    (mode = 0 → 16 ≤ (cvuFifo s k.val u.val).length →
      ∃ t, exec (.cvuUnitResult k u d) s = .next t ∧ getF t (CVU_STAT_LOST k.val u.val) = min 65535 (getF s (CVU_STAT_LOST k.val u.val) + 1) ∧
        BitsBut s t (CVU_STAT_LOST k.val u.val) ∧ RegsBut s t [CVU_STAT k.val u.val] ∧ t = { s1 with regs := t.regs }) ∧
    (mode ≠ 0 → good →
      ∃ t, exec (.cvuUnitResult k u d) s = .next t ∧ getF t (CVU_CNT_OK_OK k.val u.val) = min (2 ^ 32 - 1) (getF s (CVU_CNT_OK_OK k.val u.val) + 1) ∧
        RegsBut s t [CVU_CNT_OK k.val u.val] ∧ t = { s1 with regs := t.regs }) ∧
    (mode ≠ 0 → ¬ good →
      ∃ t, exec (.cvuUnitResult k u d) s = .next t ∧ getF t (CVU_CNT_BAD_BAD k.val u.val) = min (2 ^ 32 - 1) (getF s (CVU_CNT_BAD_BAD k.val u.val) + 1) ∧
        getF t (CVU_STAT_MISMATCH k.val u.val) = 1 ∧ getF t (CVU_STAT_BAD_SEQ k.val u.val) = x.seq % 2 ^ 15 ∧ getF t (CVU_STAT_LOST k.val u.val) = getF s (CVU_STAT_LOST k.val u.val) ∧
        RegsBut s t [CVU_CNT_BAD k.val u.val, CVU_STAT k.val u.val] ∧ t = { s1 with regs := t.regs, ints := t.ints })) ∧
  (∀ (s : State) (k : Fin 32) (u : Fin 4), blockLive s .cvu k.val = true → exec (.cvuPop k u) s = .next { s with cvu := smPut (fun _ => []) (4 * k.val + u.val) (cvuFifo s k.val u.val).tail s.cvu }) ∧
  (∀ (s : State) (k : Fin 32) (u : Fin 4), blockLive s .cvu k.val = false → exec (.cvuPop k u) s = .next s) ∧
  (∀ (s : State) (node : BitVec 23) (x : RingXfer) (rest : List RingXfer), takeFirst (fun x => x.src == node.toNat) s.xfers = some (x, rest) →
    (x.poison = false → exec (.ringTransferReceive node true) s = .next (x.writes.foldl (fun s w => wrMem s w.1 w.2) { s with xfers := rest })) ∧
    (x.poison = true → exec (.ringTransferReceive node true) s =
      .next (x.writes.foldl (fun s w => poisonFrom (wrMem s w.1 w.2) (w.1 / 32) (granules w.1 w.2.length)) { s with xfers := rest })) ∧
    let y := addF { s with xfers := rest } (BME_RING_CHK_CHECK x.toQ (1 - x.dir)) 1
    exec (.ringTransferReceive node false) s = .next (startRetrain (report (mapJob y x.rec_ fun j => failJob (now s) ⟨now s, 0x20, 0x44, ((j.nodes.find? fun n => n.id == x.src).map (·.idx)).getD 0x3FF⟩ j)
      { at_ := now s, source := qSrc x.toQ 191, level := 1, cls := 0x09, action := 1, quad := x.toQ, context := [x.toQ, 1 - x.dir] }) x.toQ (1 - x.dir))) ∧
  (∀ (s : State) (node : BitVec 23) (b : Bool), (∀ x ∈ s.xfers, x.src ≠ node.toNat) → exec (.ringTransferReceive node b) s = .next s) ∧
  (∀ (s : State) (q : Fin 4) (k : Fin 2), smWf regReset s.regs = true →
    (getF s (BME_RING_STAT_STATE q.val k.val) ≠ 0 → startRetrain s q.val k.val = s) ∧
    (getF s (BME_RING_STAT_STATE q.val k.val) = 0 → linkFree s q.val k.val = true →
      (∀ e ∈ linkEnds q.val k.val, getF (startRetrain s q.val k.val) (BME_RING_STAT_STATE e.1 e.2) = 1 ∧ e ∉ (startRetrain s q.val k.val).retrainDue) ∧
      RegsBut s (startRetrain s q.val k.val) ((linkEnds q.val k.val).map fun e => BME_RING_STAT e.1 e.2)) ∧
    (getF s (BME_RING_STAT_STATE q.val k.val) = 0 → linkFree s q.val k.val = false →
      (q.val, k.val) ∈ (startRetrain s q.val k.val).retrainDue ∧ startRetrain s q.val k.val = { s with retrainDue := (startRetrain s q.val k.val).retrainDue })) ∧
  (∀ (s : State) (q : Fin 4) (k : Fin 2) (ok : Bool) (dt : Nat), getF s (BME_RING_STAT_STATE q.val k.val) = 0 →
    ((∃ e ∈ linkEnds q.val k.val, e ∈ s.retrainDue) → exec (.ringLinkRetrain q k ok dt) s = .next (startRetrain (atDt s dt) q.val k.val)) ∧
    ((∀ e ∈ linkEnds q.val k.val, e ∉ s.retrainDue) → exec (.ringLinkRetrain q k ok dt) s = .next s)) ∧
  (∀ (s : State) (q : Fin 4) (k : Fin 2) (dt : Nat), getF s (BME_RING_STAT_STATE q.val k.val) = 1 → smWf regReset s.regs = true →
    (∃ t, exec (.ringLinkRetrain q k true dt) s = .next t ∧
      (∀ e ∈ linkEnds q.val k.val, getF t (BME_RING_STAT_STATE e.1 e.2) = 0 ∧ getF t (BME_RING_RTR_RETRAIN e.1 e.2) = min (2 ^ 32 - 1) (getF s (BME_RING_RTR_RETRAIN e.1 e.2) + 1)) ∧
      RegsBut s t ((linkEnds q.val k.val).flatMap fun e => [BME_RING_STAT e.1 e.2, BME_RING_RTR e.1 e.2]) ∧ t = { s with subPs := t.subPs, regs := t.regs, ints := t.ints }) ∧
    (reached s (linkSince s q.val k.val + 10000000000) = false → exec (.ringLinkRetrain q k false dt) s = .next s) ∧
    (reached s (linkSince s q.val k.val + 10000000000) = true → ∀ x, x = setLink (atDt s dt) q.val k.val 2 → exec (.ringLinkRetrain q k false dt) s = .next
      (((x.plans.filter fun p => p.coupled && usesLink p q.val k.val).map (·.ci)).eraseDups.foldl (fun s ci => dropCoupled s ci 0x44) x))) ∧
  (∀ (s : State) (ci : Fin 512) (p : Plan) (x : PlanPart), p ∈ s.plans → p.ci = ci.val → p.coupled = true → x ∈ p.parts →
    ((getQuad s x.quad).reinit.isSome = true → exec (.coupledPlanDrop ci) s = .next (dropCoupled s ci.val 0x45)) ∧
    ((∃ k : Fin 2, usesLink p x.quad k.val = true ∧ getF s (BME_RING_STAT_STATE x.quad k.val) = 2) →
      (∀ p ∈ s.plans, p.ci = ci.val → ∀ y ∈ p.parts, (getQuad s y.quad).reinit = none) → exec (.coupledPlanDrop ci) s = .next (dropCoupled s ci.val 0x44)))

/-- Accesses to registers (spec/00_scope.md, spec/12_cxl.md, spec/13_phlox.md, spec/01_hierarchy.md, basis derived). A BAR0 write takes effect for the 32-bit registers that its byte enables cover, low word first; a partly covered register ignores it and counts it. A word written to a register of a live block is put into it by its fields' rules; of the 64-bit registers of Larkspur and the event pins the low word is held and put with the high word. A register of a block that is not live ignores it. BAR reads return the addressed bytes, and nothing but the message window has a read change anything; while the host link recovers no access reaches a register; PX0 and PX1 read and write words with the rights of the host. Write-only fields read 0. -/
def Obligations.RegistersAreAccessed : Prop :=
  (∀ (s : State) (addr : BitVec 27) (data : DWord), s.linkHeld ≤ now s → let a := addr.toNat / 4 * 4
    exec (.registerWrite addr data 15) s = .next (writeWord s a (bitsOf data.toNat 0 32)) ∧
    exec (.registerWrite addr data 255) s = .next (writeWord (writeWord s a (bitsOf data.toNat 0 32)) (a + 4) (bitsOf data.toNat 32 32))) ∧
  (∀ (s : State) (addr : BitVec 27) (data : DWord) (be : BitVec 8), s.linkHeld ≤ now s → be.toNat < 16 → be ≠ 0 → be ≠ 15 → (regAt (addr.toNat / 4 * 4)).isSome = true →
    exec (.registerWrite addr data be) s = .next (addF s CXL_BAD_ACC_BAR0 1)) ∧
  (∀ (s : State) (a v : Nat) (h : RegHit), windowAt a = none → regAt a = some h →
    let base := a - 4 * h.word
    ((blockLive s h.block h.unit && regExists h) = false → writeWord s a v = s ∧ readWord s a = (0, s)) ∧
    ((blockLive s h.block h.unit && regExists h) = true →
      (heldBlock h = false → writeWord s a v = putReg s h base (v * 2 ^ (32 * h.word)) ((2 ^ 32 - 1) * 2 ^ (32 * h.word)) ∧ readWord s a = (bitsOf (readHit s h a) (32 * h.word) 32, readEffect s h)) ∧
      (heldBlock h = true → h.word = 0 → writeWord s a v = { s with heldLow := smPut (fun _ => none) base (some (BitVec.ofNat 32 v)) s.heldLow }) ∧
      (heldBlock h = true → h.word ≠ 0 → writeWord s a v = putReg { s with heldLow := smPut (fun _ => none) base none s.heldLow } h base (lowWord s h base + 2 ^ 32 * v) (2 ^ 64 - 1)))) ∧
  (∀ (s : State) (h : RegHit), h.spec.name ≠ .LAN_MQ_RX → readEffect s h = s) ∧
  (∀ (s : State) (addr : BitVec 27) (len : Nat), s.linkHeld ≤ now s → let o := addr.toNat % 4
    let a := addr.toNat - o
    let n := (o + len + 3) / 4
    exec (.barRead true addr len) s = .next (emit s (.readData ((((List.range n).flatMap fun i => leBytes 4 (readBar2 s (a + 4 * i))).drop o).take len) false)) ∧
    exec (.barRead false addr len) s = .next (emit (readWords s a n).2 (.readData (((readWords s a n).1.drop o).take len) false))) ∧
  (∀ (s : State) (addr : BitVec 27) (data : DWord) (be : BitVec 8) (bar2 : Bool) (len : Nat), now s < s.linkHeld →
    exec (.registerWrite addr data be) s = .next s ∧ exec (.barRead bar2 addr len) s = .next s) ∧
  (∀ (s : State) (p : Fin 2) (addr : BitVec 27) (v : Word), let a := addr.toNat / 4 * 4
    exec (.pxRegisterAccess p addr (some v)) s = .next (writeWord s a v.toNat) ∧
    exec (.pxRegisterAccess p addr none) s = .next (emit (readWord s a).2 (.toDesign (16 + p.val) (leBytes 4 (readWord s a).1) false)))

/-- A reserved address reads 0 and ignores writes (spec R42, basis stated). A read of any size of words of BAR0 at which neither a register nor a window lies returns zeros, a write of them changes nothing whatever its byte enables, by the host or by PX0 and PX1, and neither is a fault. -/
def Obligations.ReservedAddressesReadZero : Prop :=
  (∀ (s : State) (addr : BitVec 27) (len : Nat) (data : DWord) (be : BitVec 8) (p : Fin 2) (v : Word), s.linkHeld ≤ now s →
    (∀ i, i < 2 ∨ 4 * i < addr.toNat % 4 + len → windowAt (addr.toNat / 4 * 4 + 4 * i) = none ∧ regAt (addr.toNat / 4 * 4 + 4 * i) = none) →
    exec (.registerWrite addr data be) s = .next s ∧
    exec (.barRead false addr len) s = .next (emit s (.readData (List.replicate len 0) false)) ∧
    exec (.pxRegisterAccess p addr (some v)) s = .next s ∧
    exec (.pxRegisterAccess p addr none) s = .next (emit s (.toDesign (16 + p.val) [0, 0, 0, 0] false)))

/-- The arithmetic of SA and SB (spec/05_phimar_scalar.md, basis derived). Alone in its bundle on a tile at a boundary, in SA or SB, each arithmetic syllable of R180 puts its result in flight to rd with its latency, 1 issue cycle or 2 for MUL and MULH, reduced as SAT says with sat_flag where it saturated (R184), nothing where rd is s0; NOP puts nothing in flight. One cycle and one unit of budget pass, the PC moves by one word, and nothing else changes. -/
def Obligations.ScalarArithmeticWrites : Prop :=
  (∀ (s : State) (t u : Tile) (y : Sy) (rd ra rb : Reg), TileReady s y.tile.val t u → y.e = true →
    let a := sInt u ra.toNat
    let b := sInt u rb.toNat
    let A := sGet u ra.toNat
    let B := sGet u rb.toNat
    let wr := fun (lat : Nat) (r : Nat × Bool) => (Host.Outcome.next (setTile s y.tile.val (issued (flying u (sWrites lat rd r.1 r.2)))) : Res)
    exec (.add y rd ra rb) s = wr 1 (reduce 32 y.sat (a + b)) ∧
    exec (.sub y rd ra rb) s = wr 1 (reduce 32 y.sat (a - b)) ∧
    exec (.and y rd ra rb) s = wr 1 ((A &&& B, false)) ∧
    exec (.or y rd ra rb) s = wr 1 ((A ||| B, false)) ∧
    exec (.xor y rd ra rb) s = wr 1 ((A ^^^ B, false)) ∧
    exec (.shl y rd ra rb) s = wr 1 (reduce 32 y.sat (a * 2 ^ (B % 64))) ∧
    exec (.shr y rd ra rb) s = wr 1 ((A / 2 ^ (B % 64), false)) ∧
    exec (.sra y rd ra rb) s = wr 1 ((unsignedOf 32 (a / 2 ^ (B % 64)), false)) ∧
    exec (.min y rd ra rb) s = wr 1 ((unsignedOf 32 (min a b), false)) ∧
    exec (.max y rd ra rb) s = wr 1 ((unsignedOf 32 (max a b), false)) ∧
    exec (.abs y rd ra) s = wr 1 (reduce 32 y.sat a.natAbs) ∧
    exec (.slt y rd ra rb) s = wr 1 ((ofBool (decide (a < b)), false)) ∧
    exec (.sltu y rd ra rb) s = wr 1 ((ofBool (decide (A < B)), false)) ∧
    exec (.seq y rd ra rb) s = wr 1 ((ofBool (A == B), false)) ∧
    exec (.exp y rd ra) s = wr 1 ((leadingSame 32 A - 1, false)) ∧
    exec (.norm y rd ra) s = wr 1 ((A * 2 ^ (leadingSame 32 A - 1) % 2 ^ 32, false)) ∧
    exec (.mul y rd ra rb) s = wr 2 (reduce 32 y.sat (a * b)) ∧
    exec (.mulh y rd ra rb) s = wr 2 ((unsignedOf 32 (a * b / 2 ^ 32), false))) ∧
  (∀ (s : State) (t u : Tile) (y : Sy) (rd ra rb : Reg), TileReady s y.tile.val t u → y.e = true →
    let a := sInt u ra.toNat
    let b := sInt u rb.toNat
    let A := sGet u ra.toNat
    let B := sGet u rb.toNat
    let wr := fun (lat : Nat) (r : Nat × Bool) => (Host.Outcome.next (setTile s y.tile.val (issued (flying u (sWrites lat rd r.1 r.2)))) : Res)
    ∀ imm : BitVec 12, exec (.addi y rd ra imm) s = wr 1 (reduce 32 y.sat (a + signedOf 12 imm.toNat)) ∧
    exec (.ori y rd ra imm) s = wr 1 ((A ||| imm.toNat, false)) ∧
    exec (.shli y rd ra imm) s = wr 1 (reduce 32 y.sat (a * 2 ^ (imm.toNat % 32))) ∧
    exec (.shri y rd ra imm) s = wr 1 ((A / 2 ^ (imm.toNat % 32), false)) ∧
    exec (.srai y rd ra imm) s = wr 1 ((unsignedOf 32 (a / 2 ^ (imm.toNat % 32)), false))) ∧
  (∀ (s : State) (t u : Tile) (y : Sy) (rd ra rb : Reg), TileReady s y.tile.val t u → y.e = true →
    let a := sInt u ra.toNat
    let b := sInt u rb.toNat
    let A := sGet u ra.toNat
    let B := sGet u rb.toNat
    let wr := fun (lat : Nat) (r : Nat × Bool) => (Host.Outcome.next (setTile s y.tile.val (issued (flying u (sWrites lat rd r.1 r.2)))) : Res)
    ∀ imm : BitVec 16, exec (.movhi y rd imm) s = wr 1 (imm.toNat * 65536, false) ∧ exec (.orlo y rd imm) s = wr 1 (sGet u rd.toNat ||| imm.toNat, false)) ∧
  (∀ (s : State) (t u : Tile) (y : Sy), TileReady s y.tile.val t u → y.e = true → exec (.nopSyllable y) s = .next (setTile s y.tile.val (issued u)))

/-- The accumulators (spec/05_phimar_scalar.md, basis derived). Alone in its bundle, MACL, MACH and MSUL add the signed product of the halves to what every earlier accumulation left, reduced to 40 bits as SAT says; the next accumulation builds on it at once, EXTA and EXPA see it after two issue cycles. MOVA puts the sign-extended register in flight as a replacement. EXTA writes the accumulator shifted with rounding by rb, EXPA its redundant sign bits beyond 32 bits. -/
def Obligations.AccumulatorSyllablesAct : Prop :=
  (∀ (s : State) (t u : Tile) (y : Sy) (rd ra rb : Reg) (ad : BitVec 2), TileReady s y.tile.val t u → y.e = true →
    let a := sInt u ra.toNat
    let b := sInt u rb.toNat
    let A := sGet u ra.toNat
    let B := sGet u rb.toNat
    let acc := fun (prod : Int) => (let v := reduce 40 y.sat (accRunGet u ad.toNat + prod)
      Host.Outcome.next (setTile s y.tile.val (issued (flying { u with accRun := smPut (fun _ => (0 : Acc)) ad.toNat (BitVec.ofNat 40 v.1) u.accRun }
        (⟨1, .acc ad.toNat false, v.1⟩ :: (if v.2 then [⟨1, .sat, 1⟩] else []))))) : Res)
    exec (.macl y ad ra rb) s = acc (signedOf 16 A * signedOf 16 B) ∧
    exec (.mach y ad ra rb) s = acc (signedOf 16 (A / 65536) * signedOf 16 (B / 65536)) ∧
    exec (.msul y ad ra rb) s = acc (-(signedOf 16 A * signedOf 16 B))) ∧
  (∀ (s : State) (t u : Tile) (y : Sy) (rd ra rb : Reg) (ad : BitVec 2), TileReady s y.tile.val t u → y.e = true →
    let fin := fun (fs : List Flight) => (Host.Outcome.next (setTile s y.tile.val (issued (flying u fs))) : Res)
    exec (.mova y ad ra) s = fin [⟨1, .acc ad.toNat true, unsignedOf 40 (sInt u ra.toNat)⟩] ∧
    exec (.exta y rd ad rb) s = fin (sWrites 2 rd (reduce 32 y.sat (shiftRound (accGet u ad.toNat) (sInt u rb.toNat))).1 (reduce 32 y.sat (shiftRound (accGet u ad.toNat) (sInt u rb.toNat))).2) ∧
    exec (.expa y rd ad) s = fin (sWrites 2 rd (unsignedOf 32 ((leadingSame 40 (unsignedOf 40 (accGet u ad.toNat)) : Int) - 9)) false))

/-- Branches, repetitions and loops begin (spec/05_phimar_scalar.md, basis derived). Alone in its bundle in SA, a branch whose condition holds of the signed register starts its three delay slots before the target PC + 4 × OFF; one that does not hold starts three delay slots and no transfer. BR and CALL branch always, CALL with s31 the PC after the third delay slot, JR branches to ra with bits [1:0] cleared. REP and REPI repeat the next bundle min(count, 1,024) times, or skip it for 0. LOOP and LOOPI push a loop, or go on after its end bundle for 0. In SB all of them raise ILLEGAL_ENCODING. -/
def Obligations.BranchesRepetitionsAndLoops : Prop :=
  (∀ (s : State) (t u : Tile) (y : Sy) (ra : Reg) (off : BitVec 17), TileReady s y.tile.val t u → y.e = true → y.sb = false →
    let a := sInt u ra.toNat
    let tgt := branchTarget u.pc off.toNat
    let go := fun (x : Option Nat) => (Host.Outcome.next (setTile s y.tile.val (issued { u with branch := some (3, x) })) : Res)
    exec (.beqz y ra off) s = go (if a = 0 then some tgt else none) ∧
    exec (.bnez y ra off) s = go (if a ≠ 0 then some tgt else none) ∧
    exec (.bltz y ra off) s = go (if a < 0 then some tgt else none) ∧
    exec (.bgez y ra off) s = go (if 0 ≤ a then some tgt else none) ∧
    exec (.bgtz y ra off) s = go (if 0 < a then some tgt else none) ∧
    exec (.blez y ra off) s = go (if a ≤ 0 then some tgt else none) ∧
    exec (.br y off) s = go (some tgt) ∧ exec (.jr y ra) s = go (some (sGet u ra.toNat / 4 * 4)) ∧
    exec (.call y off) s = .next (setTile s y.tile.val (issued (flying { u with branch := some (3, some tgt) } [⟨0, .s 31, lookAhead s u 3 [] (u.pc + 4) % 2 ^ 32⟩])))) ∧
  (∀ (s : State) (t u : Tile) (y : Sy) (ra : Reg) (n : BitVec 11), TileReady s y.tile.val t u → y.e = true → y.sb = false →
    let go := fun (c : Nat) => (if min c 1024 = 0 then Host.Outcome.next (setTile s y.tile.val (ticked { u with pc := u.pc + 4 + 4 * bundleLen s u (u.pc + 4) }))
      else Host.Outcome.next (setTile s y.tile.val (issued { u with rep := some (min c 1024) })) : Res)
    exec (.rep y ra) s = go (sGet u ra.toNat) ∧ exec (.repi y n) s = go n.toNat) ∧
  (∀ (s : State) (t u : Tile) (y : Sy) (ra : Reg) (rot : Bool) (e16 : BitVec 16) (n : BitVec 11) (e10 : BitVec 10), TileReady s y.tile.val t u → y.e = true → y.sb = false →
    let go := fun (c e : Nat) => (if c = 0 then Host.Outcome.next (setTile s y.tile.val (ticked { u with pc := u.pc + 4 + 4 * e + 4 * bundleLen s u (u.pc + 4 + 4 * e) }))
      else Host.Outcome.next (setTile s y.tile.val (issued { u with loops := [⟨u.pc + 4, u.pc + 4 + 4 * e, c - 1, rot⟩] })) : Res)
    exec (.loop y ra rot e16) s = go (sGet u ra.toNat) e16.toNat ∧ exec (.loopi y n rot e10) s = go n.toNat e10.toNat)

/-- Control registers, WFE, RETI and TASK_END (spec/05_phimar_scalar.md, spec/06_phimar_vector.md, basis derived). Alone in its bundle in SA: ROTB, MFC and MTC put their result in flight with latency 1, MFC reading as R175 says. WFE issues where a line of its mask is pending or its mask is 0, and else waits with nothing but the due writes to control registers landed. RETI ends the handler: the PC and, after an exception, the delay slots and the repetition of the body at the PC return, the held writes go on, the held accumulations being built on again, and one more cycle passes. TASK_END outside a handler ends the task. In SB every control operation raises ILLEGAL_ENCODING. -/
def Obligations.ControlRegistersAndTaskEnd : Prop :=
  (∀ (s : State) (t u : Tile) (y : Sy) (rd ra : Reg) (n : BitVec 4) (creg : BitVec 12), TileReady s y.tile.val t u → y.e = true → y.sb = false →
    exec (.rotb y n) s = .next (setTile s y.tile.val (issued (flying u [⟨0, .creg 0x006, (u.vrb + n.toNat) % 16⟩]))) ∧
    (cregOk creg.toNat = true →
      exec (.mtc y creg ra) s = .next (setTile s y.tile.val (issued (flying u [⟨0, .creg creg.toNat, sGet u ra.toNat⟩]))) ∧
      ∀ v u1 s1, cregRead s u creg.toNat = (v, u1, s1) → exec (.mfc y rd creg) s = .next (setTile s1 y.tile.val (issued (flying u1 (sWrites 1 rd v false)))))) ∧
  (∀ (s : State) (t u : Tile) (y : Sy) (m : BitVec 3), TileReady s y.tile.val t u → y.e = true → y.sb = false →
    (m = 0 ∨ u.irqPend &&& m.toNat ≠ 0 → exec (.wfe y m) s = .next (setTile s y.tile.val (issued u))) ∧
    (m ≠ 0 → u.irqPend &&& m.toNat = 0 → exec (.wfe y m) s = .next (setTile (landCregs s t).1 y.tile.val { (landCregs s t).2 with wait := some m.toNat }))) ∧
  (∀ (s : State) (t u : Tile) (y : Sy), TileReady s y.tile.val t u → y.e = true → y.sb = false →
    (u.handler = .none → exec (.taskEnd y) s = .next (endTile (setTile s y.tile.val (issued u)) y.tile.val .done)) ∧
    (u.handler ≠ .none → let exc := u.handler == .exception
      exec (.reti y) s = .next (setTile s y.tile.val (noteSince { regainHeld (issued u) with handler := .none, pc := if exc then u.epc.toNat else u.ipc.toNat, flights := u.held ++ u.flights, held := [], branch := if exc then u.savedBranch else none, savedBranch := none, rep := if exc then (match u.savedRep with | some (x, n) => if x = u.epc.toNat then some n else none | none => none) else none, savedRep := none, cycle := u.cycle + 1 + 1, budget := u.budget - 1 - 1, afterReti := exc })))) ∧
  (∀ (s : State) (t u : Tile) (y : Sy) (rd ra : Reg) (off : BitVec 17) (n : BitVec 11) (rot : Bool) (e16 : BitVec 16) (e10 : BitVec 10) (k : BitVec 4) (creg : BitVec 12) (m : BitVec 3),
    TileReady s y.tile.val t u → y.e = true → y.sb = true →
    ∀ i ∈ ([.beqz y ra off, .bnez y ra off, .bltz y ra off, .bgez y ra off, .bgtz y ra off, .blez y ra off, .br y off, .call y off, .jr y ra, .rep y ra, .repi y n, .loop y ra rot e16,
      .loopi y n rot e10, .rotb y k, .mfc y rd creg, .mtc y creg ra, .taskEnd y, .reti y, .wfe y m] : List Instr), exec i s = .next (setTile s y.tile.val { t with fault := some (0x01, 0, false) }))

/-- Scalar accesses to the data scratchpad (spec/05_phimar_scalar.md, basis derived). Alone in its bundle, an aligned load whose place is in the scratchpad puts the word, or the sign- or zero-extended halfword or byte, in flight to rd with latency 4; an aligned store writes the low bytes of its register at its place and puts nothing in flight; the post-increment forms access at ra and also put ra + sext(IMM12) in flight to ra with latency 1. A FENCE of a kind other than 3 has no other effect, one of kind 3 raises ILLEGAL_ENCODING; an access outside every region raises ACCESS, a misaligned one ALIGN. -/
def Obligations.LoadsAndStoresOfTheScratchpad : Prop :=
  (∀ (s : State) (t u : Tile) (y : Sy) (rd ra : Reg) (imm : BitVec 12) (f : Nat), TileReady s y.tile.val t u → y.e = true →
    let a := unsignedOf 32 (sInt u ra.toNat + signedOf 12 imm.toNat)
    let go := fun (v : Nat) => (Host.Outcome.next (setTile s y.tile.val (issued (flying u (sWrites 4 rd v false)))) : Res)
    byteBad s f = false →
    (placeOf y.tile.val u a 4 false = some (.mem f false) → a % 4 = 0 → let v := rdLe s f 4
      exec (.ldw y rd ra imm) s = go (v)) ∧
    (placeOf y.tile.val u a 2 false = some (.mem f false) → a % 2 = 0 → let v := rdLe s f 2
      exec (.ldh y rd ra imm) s = go (unsignedOf 32 (signedOf 16 v))) ∧
    (placeOf y.tile.val u a 2 false = some (.mem f false) → a % 2 = 0 → let v := rdLe s f 2
      exec (.ldhu y rd ra imm) s = go (v)) ∧
    (placeOf y.tile.val u a 1 false = some (.mem f false) → a % 1 = 0 → let v := rdLe s f 1
      exec (.ldb y rd ra imm) s = go (unsignedOf 32 (signedOf 8 v))) ∧
    (placeOf y.tile.val u a 1 false = some (.mem f false) → a % 1 = 0 → let v := rdLe s f 1
      exec (.ldbu y rd ra imm) s = go (v))) ∧
  (∀ (s : State) (t u : Tile) (y : Sy) (rd ra : Reg) (imm : BitVec 12) (f : Nat), TileReady s y.tile.val t u → y.e = true →
    let a := unsignedOf 32 (sInt u ra.toNat + signedOf 12 imm.toNat)
    (placeOf y.tile.val u a 4 true = some (.mem f false) → a % 4 = 0 → exec (.stw y rd ra imm) s = .next (wrMem (setTile s y.tile.val (issued u)) f (leBytes 4 (sGet u rd.toNat)))) ∧
    (placeOf y.tile.val u a 2 true = some (.mem f false) → a % 2 = 0 → exec (.sth y rd ra imm) s = .next (wrMem (setTile s y.tile.val (issued u)) f (leBytes 2 (sGet u rd.toNat)))) ∧
    (placeOf y.tile.val u a 1 true = some (.mem f false) → a % 1 = 0 → exec (.stb y rd ra imm) s = .next (wrMem (setTile s y.tile.val (issued u)) f (leBytes 1 (sGet u rd.toNat))))) ∧
  (∀ (s : State) (t u : Tile) (y : Sy) (rd ra : Reg) (imm : BitVec 12) (f : Nat), TileReady s y.tile.val t u → y.e = true →
    let a := sGet u ra.toNat
    let inc := sWrites 1 ra (unsignedOf 32 (sInt u ra.toNat + signedOf 12 imm.toNat)) false
    (placeOf y.tile.val u a 4 false = some (.mem f false) → a % 4 = 0 → byteBad s f = false →
      exec (.ldwPostinc y rd ra imm) s = .next (setTile s y.tile.val (issued (flying (flying u (sWrites 4 rd (rdLe s f 4) false)) inc)))) ∧
    (placeOf y.tile.val u a 4 true = some (.mem f false) → a % 4 = 0 →
      exec (.stwPostinc y rd ra imm) s = .next (wrMem (setTile s y.tile.val (issued (flying u inc))) f (leBytes 4 (sGet u rd.toNat))))) ∧
  (∀ (s : State) (t u : Tile) (y : Sy) (sc k : BitVec 2), TileReady s y.tile.val t u → y.e = true →
    (k ≠ 3 → exec (.fenceSyllable y sc k) s = .next (setTile s y.tile.val (issued u))) ∧
    (k = 3 → exec (.fenceSyllable y sc k) s = .next (setTile s y.tile.val { t with fault := some (0x01, 0, false) }))) ∧
  (∀ (s : State) (t u : Tile) (y : Sy) (rd ra : Reg) (imm : BitVec 12), TileReady s y.tile.val t u → y.e = true →
    let a := unsignedOf 32 (sInt u ra.toNat + signedOf 12 imm.toNat)
    (placeOf y.tile.val u a 4 false = none → exec (.ldw y rd ra imm) s = .next (setTile s y.tile.val { t with fault := some (0x05, a, false) })) ∧
    (∀ f c, placeOf y.tile.val u a 4 false = some (.mem f c) → a % 4 ≠ 0 → exec (.ldw y rd ra imm) s = .next (setTile s y.tile.val { t with fault := some (0x06, a, false) })))

/-- Scalar accesses to the CSM and the register window (spec/05_phimar_scalar.md, spec/07_memory.md, spec/01_hierarchy.md, basis derived). Alone in its bundle and with more than 15 cycles of budget, an aligned access to a permitted window of the CSM waits for the next slot of its tile's requester at the bank of its address, at most 15 cycles, and then loads with latency 8 or stores; no visibility count advances in the wait. A 32-bit load from the register window puts the register's value in flight with latency 8, a store writes the register as a tile may. -/
def Obligations.LoadsAndStoresOfTheCluster : Prop :=
  (∀ (s : State) (t u : Tile) (y : Sy) (rd ra : Reg) (imm : BitVec 12) (f : Nat), TileReady s y.tile.val t u → y.e = true →
    let a := unsignedOf 32 (sInt u ra.toNat + signedOf 12 imm.toNat)
    let x := waited s y.tile.val u [a]
    let go := fun (v : Nat) => (Host.Outcome.next (setTile s y.tile.val (issued (flying x (sWrites 8 rd v false)))) : Res)
    15 < u.budget → byteBad s f = false →
    (placeOf y.tile.val u a 4 false = some (.mem f true) → a % 4 = 0 → let v := rdLe s f 4
      exec (.ldw y rd ra imm) s = go (v)) ∧
    (placeOf y.tile.val u a 2 false = some (.mem f true) → a % 2 = 0 → let v := rdLe s f 2
      exec (.ldh y rd ra imm) s = go (unsignedOf 32 (signedOf 16 v))) ∧
    (placeOf y.tile.val u a 2 false = some (.mem f true) → a % 2 = 0 → let v := rdLe s f 2
      exec (.ldhu y rd ra imm) s = go (v)) ∧
    (placeOf y.tile.val u a 1 false = some (.mem f true) → a % 1 = 0 → let v := rdLe s f 1
      exec (.ldb y rd ra imm) s = go (unsignedOf 32 (signedOf 8 v))) ∧
    (placeOf y.tile.val u a 1 false = some (.mem f true) → a % 1 = 0 → let v := rdLe s f 1
      exec (.ldbu y rd ra imm) s = go (v))) ∧
  (∀ (s : State) (t u : Tile) (y : Sy) (rd ra : Reg) (imm : BitVec 12) (f : Nat), TileReady s y.tile.val t u → y.e = true →
    let a := unsignedOf 32 (sInt u ra.toNat + signedOf 12 imm.toNat)
    let x := waited s y.tile.val u [a]
    15 < u.budget →
    (placeOf y.tile.val u a 4 true = some (.mem f true) → a % 4 = 0 → exec (.stw y rd ra imm) s = .next (wrMem (setTile s y.tile.val (issued x)) f (leBytes 4 (sGet u rd.toNat)))) ∧
    (placeOf y.tile.val u a 2 true = some (.mem f true) → a % 2 = 0 → exec (.sth y rd ra imm) s = .next (wrMem (setTile s y.tile.val (issued x)) f (leBytes 2 (sGet u rd.toNat)))) ∧
    (placeOf y.tile.val u a 1 true = some (.mem f true) → a % 1 = 0 → exec (.stb y rd ra imm) s = .next (wrMem (setTile s y.tile.val (issued x)) f (leBytes 1 (sGet u rd.toNat))))) ∧
  (∀ (s : State) (t u : Tile) (y : Sy) (rd ra : Reg) (imm : BitVec 12) (r : Nat), TileReady s y.tile.val t u → y.e = true →
    let a := unsignedOf 32 (sInt u ra.toNat + signedOf 12 imm.toNat)
    a % 4 = 0 →
    (placeOf y.tile.val u a 4 false = some (.reg r) → exec (.ldw y rd ra imm) s = .next (setTile s y.tile.val (issued (flying u (sWrites 8 rd (regRead s r) false))))) ∧
    (placeOf y.tile.val u a 4 true = some (.reg r) → exec (.stw y rd ra imm) s = .next (storeReg (setTile s y.tile.val (issued u)) y.tile.val r (sGet u rd.toNat))))

/-- The componentwise syllables of the VX slot (spec/06_phimar_vector.md, basis derived). Alone in its bundle, a VX syllable of class A or M with a vector destination puts in flight, with latency 2 or 3, a write of exactly the components of its active elements; each is the operation of the table on the sources' components, wrapped or saturated by SAT, and nothing else changes but the issue of the bundle. -/
def Obligations.VectorArithmeticWrites : Prop :=
  (∀ (s : State) (t u : Tile) (y : Vy) (vd va vb : Reg), TileReady s y.tile.val t u → y.e = true →
    let T := y.type.toNat
    let w := compW T
    let cs := actComps u y.m.toNat T
    let go := fun (lat : Nat) (sat : Bool) (f : Nat → Int) => (Host.Outcome.next (setTile s y.tile.val (issued (vWrite u u vd.toNat lat w sat (cs.map fun c => (c, f c))))) : Res)
    let a := fun c => compOf w (vGet u va.toNat) c
    let b := fun c => compOf w (vGet u vb.toNat) c
    T ≤ 4 →
    exec (.vadd y vd va vb) s = go 2 y.sat (fun c => a c + b c) ∧
    exec (.vsub y vd va vb) s = go 2 y.sat (fun c => a c - b c) ∧
    exec (.vmulq y vd va vb) s = go 3 y.sat (fun c => (a c * b c + 2 ^ (w - 2)) / 2 ^ (w - 1))) ∧
  (∀ (s : State) (t u : Tile) (y : Vy) (vd va vb : Reg), TileReady s y.tile.val t u → y.e = true →
    let T := y.type.toNat
    let w := compW T
    let cs := actComps u y.m.toNat T
    let go := fun (lat : Nat) (sat : Bool) (f : Nat → Int) => (Host.Outcome.next (setTile s y.tile.val (issued (vWrite u u vd.toNat lat w sat (cs.map fun c => (c, f c))))) : Res)
    let a := fun c => compOf w (vGet u va.toNat) c
    let b := fun c => compOf w (vGet u vb.toNat) c
    T ≤ 2 →
    exec (.vmin y vd va vb) s = go 2 y.sat (fun c => min (a c) (b c)) ∧
    exec (.vmax y vd va vb) s = go 2 y.sat (fun c => max (a c) (b c))) ∧
  (∀ (s : State) (t u : Tile) (y : Vy) (vd va : Reg), TileReady s y.tile.val t u → y.e = true →
    let T := y.type.toNat
    let w := compW T
    let cs := actComps u y.m.toNat T
    let go := fun (lat : Nat) (sat : Bool) (f : Nat → Int) => (Host.Outcome.next (setTile s y.tile.val (issued (vWrite u u vd.toNat lat w sat (cs.map fun c => (c, f c))))) : Res)
    let a := fun c => compOf w (vGet u va.toNat) c
    T ≤ 4 →
    exec (.vabs y vd va) s = go 2 y.sat (fun c => (a c).natAbs) ∧
    exec (.vneg y vd va) s = go 2 y.sat (fun c => -a c) ∧
    exec (.vmov y vd va) s = go 2 false a) ∧
  (∀ (s : State) (t u : Tile) (y : Vy) (vd va rb : Reg), TileReady s y.tile.val t u → y.e = true →
    let T := y.type.toNat
    let w := compW T
    let cs := actComps u y.m.toNat T
    let go := fun (lat : Nat) (sat : Bool) (f : Nat → Int) => (Host.Outcome.next (setTile s y.tile.val (issued (vWrite u u vd.toNat lat w sat (cs.map fun c => (c, f c))))) : Res)
    let a := fun c => compOf w (vGet u va.toNat) c
    let amt := sGet u rb.toNat % 64
    T ≤ 4 →
    exec (.vshl y vd va rb) s = go 2 y.sat (fun c => a c * 2 ^ amt) ∧
    exec (.vsra y vd va rb) s = go 2 y.sat (fun c => a c / 2 ^ amt) ∧
    exec (.vsrar y vd va rb) s = go 2 y.sat (fun c => rnd (a c) (min amt w)) ∧
    exec (.vsplat y vd va rb) s = go 2 false (fun c => if perElt T = 2 ∧ c % 2 = 1 then sInt u rb.toNat else sInt u va.toNat)) ∧
  (∀ (s : State) (t u : Tile) (y : Vy) (vd va vb : Reg), TileReady s y.tile.val t u → y.e = true →
    let T := y.type.toNat
    let w := compW T
    let cs := actComps u y.m.toNat T
    let go := fun (lat : Nat) (sat : Bool) (f : Nat → Int) => (Host.Outcome.next (setTile s y.tile.val (issued (vWrite u u vd.toNat lat w sat (cs.map fun c => (c, f c))))) : Res)
    let a := fun c => compOf w (vGet u va.toNat) c
    let b := fun c => compOf w (vGet u vb.toNat) c
    let re := fun c => a (c / 2 * 2)
    let im := fun c => a (c / 2 * 2 + 1)
    let br := fun c => b (c / 2 * 2)
    let bi := fun c => b (c / 2 * 2 + 1)
    let q := fun x : Int => (x + 2 ^ (w - 2)) / 2 ^ (w - 1)
    T = 3 ∨ T = 4 →
    exec (.vconj y vd va) s = go 2 y.sat (fun c => if c % 2 = 1 then -a c else a c) ∧
    exec (.vcmulq y vd va vb) s = go 3 y.sat (fun c => q (if c % 2 = 0 then re c * br c - im c * bi c else re c * bi c + im c * br c)) ∧
    exec (.vcmuljq y vd va vb) s = go 3 y.sat (fun c => q (if c % 2 = 0 then re c * br c + im c * bi c else im c * br c - re c * bi c))) ∧
  (∀ (s : State) (t u : Tile) (y : Vy) (vd va : Reg) (h : Bool), TileReady s y.tile.val t u → y.e = true →
    let T := y.type.toNat
    let w := compW T
    let cs := actComps u y.m.toNat T
    let r := wider T
    let k := comps r * ofBool h
    T = 0 ∨ T = 1 ∨ T = 3 →
    exec (.vwiden y vd va h) s = .next (setTile s y.tile.val (issued (vWrite u u vd.toNat 2 (compW r) false ((actComps u y.m.toNat r).map fun c => (c, compOf w (vGet u va.toNat) (c + k)))))) ∧
    exec (.vnarrow y vd va h) s = .next (setTile s y.tile.val (issued (vWrite u u vd.toNat 2 w y.sat
      ((compsOf r ((List.range (eltCount u r)).filter fun i => bitOf (mGet u y.m.toNat) (i + emax r * ofBool h) == 1)).map fun c => (c + k, compOf (compW r) (vGet u va.toNat) c)))))) ∧
  (∀ (s : State) (t u : Tile) (y : Vy) (vd vi vt : Reg), TileReady s y.tile.val t u → y.e = true →
    let T := y.type.toNat
    let w := compW T
    let cs := actComps u y.m.toNat T
    let ew := eltW T
    let table := fun (k x : Nat) => if x < k * emax T then bitsOf (vGet u ((vt.toNat + x / emax T) % 32)) (ew * (x % emax T)) ew else 0
    let value := fun (k : Nat) => (activeElts u y.m.toNat (eltCount u T)).foldl (fun (a : Nat × Nat) i => (a.1 + table k (bitsOf (vGet u vi.toNat) (10 * i) 10) * 2 ^ (ew * i), a.2 + (2 ^ ew - 1) * 2 ^ (ew * i))) (0, 0)
    T ≤ 4 →
    exec (.vtperm y vd vi vt) s = .next (setTile s y.tile.val (issued (push u 3 (.v (vPhys u vd.toNat) (value 2).2) (value 2).1))) ∧
    exec (.vtperm2 y vd vi vt) s = .next (setTile s y.tile.val (issued (push u 3 (.v (vPhys u vd.toNat) (value 4).2) (value 4).1)))) ∧
  (∀ (s : State) (t u : Tile) (y : Vy) (vd va vb rs : Reg) (h : Bool), TileReady s y.tile.val t u → y.e = true →
    let samples := List.range (u.vl / 4)
    let S := min (sGet u rs.toNat % 4096) 2240
    let k := 32 * ofBool h
    let e := fun j => min 15 (bitsOf (vGet u vb.toNat) (10 * ((S + k + j) / 18)) 10)
    let a := fun w c => compOf w (vGet u va.toNat) c
    let go := fun (w : Nat) (sat : Bool) (f : Nat → List (Nat × Int)) => (Host.Outcome.next (setTile s y.tile.val (issued (vWrite u u vd.toNat 3 w sat (samples.flatMap f)))) : Res)
    exec (.vnormb y vd va vb rs h) s = go 20 y.sat (fun j => [(2 * j, rnd (a 20 (2 * j)) (e j)), (2 * j + 1, rnd (a 20 (2 * j + 1)) (e j))]) ∧
    exec (.vpack10 y vd va vb rs h) s = go 10 true (fun j => [(2 * (k + j), rnd (a 20 (2 * j)) (e j)), (2 * (k + j) + 1, rnd (a 20 (2 * j + 1)) (e j))]) ∧
    exec (.vunpack10 y vd va vb rs h) s = go 20 y.sat (fun j => [(2 * j, a 10 (2 * (k + j)) * 2 ^ e j), (2 * j + 1, a 10 (2 * (k + j) + 1) * 2 ^ e j)]) ∧
    exec (.vbexp y vd va rs h) s = .next (setTile s y.tile.val (issued (vBexp u u vd.toNat va.toNat (sGet u rs.toNat) (ofBool h)))))

/-- Accumulators, masks, the vector length and scalar results (spec/06_phimar_vector.md, basis derived). Alone in its bundle, an accumulating syllable adds or subtracts the products of its active components to the accumulator as the last accumulation left it; VMOVA, VEXTA and VCLRA write as the rules give; VSETL grants min(request, EMAX) with latency 1; the compares write a whole mask of latency 2 in which inactive elements are 0; the mask syllables write masks and counts with latency 1, VMTOV and VGET with latency 2; a TYPE that the row does not permit raises ILLEGAL_ENCODING. -/
def Obligations.VectorAccumulatorsMasksAndLength : Prop :=
  (∀ (s : State) (t u : Tile) (y : Vy) (vad : BitVec 2) (va vb : Reg), TileReady s y.tile.val t u → y.e = true →
    let T := y.type.toNat
    let w := compW T
    let cs := actComps u y.m.toNat T
    let a := fun c => compOf w (vGet u va.toNat) c
    let b := fun c => compOf w (vGet u vb.toNat) c
    let acc := fun c => compOf 40 (vaccRunGet u vad.toNat) c
    let go := fun (sat : Bool) (xs : List (Nat × Int)) => (Host.Outcome.next (setTile s y.tile.val (issued (accWrite u vad.toNat sat xs))) : Res)
    T ≤ 4 ∧ T ≠ 2 →
    exec (.vmac y vad va vb) s = go y.sat (cs.map fun c => (c, acc c + a c * b c)) ∧
    exec (.vmsub y vad va vb) s = go y.sat (cs.map fun c => (c, acc c + -(a c * b c))) ∧
    (∀ h : Bool, let k := if comps T = 128 then 0 else comps T * ofBool h
      exec (.vmova y vad h va) s = go false (cs.map fun c => (c + k, a c)))) ∧
  (∀ (s : State) (t u : Tile) (y : Vy) (vad : BitVec 2) (va vb : Reg), TileReady s y.tile.val t u → y.e = true →
    let T := y.type.toNat
    let w := compW T
    let cs := actComps u y.m.toNat T
    let a := fun c => compOf w (vGet u va.toNat) c
    let b := fun c => compOf w (vGet u vb.toNat) c
    let acc := fun c => compOf 40 (vaccRunGet u vad.toNat) c
    let go := fun (sat : Bool) (xs : List (Nat × Int)) => (Host.Outcome.next (setTile s y.tile.val (issued (accWrite u vad.toNat sat xs))) : Res)
    let re := fun c => a (c / 2 * 2)
    let im := fun c => a (c / 2 * 2 + 1)
    let br := fun c => b (c / 2 * 2)
    let bi := fun c => b (c / 2 * 2 + 1)
    T = 3 ∨ T = 4 →
    exec (.vcmac y vad va vb) s = go y.sat (cs.map fun c => (c, acc c + if c % 2 = 0 then re c * br c - im c * bi c else re c * bi c + im c * br c)) ∧
    exec (.vcmacj y vad va vb) s = go y.sat (cs.map fun c => (c, acc c + if c % 2 = 0 then re c * br c + im c * bi c else im c * br c - re c * bi c))) ∧
  (∀ (s : State) (t u : Tile) (y : Vy) (vd : Reg) (vas : BitVec 2) (h : Bool) (rb : Reg), TileReady s y.tile.val t u → y.e = true →
    let T := y.type.toNat
    let w := compW T
    let cs := actComps u y.m.toNat T
    let k := if comps T = 128 then 0 else comps T * ofBool h
    T ≤ 4 ∧ T ≠ 2 →
    exec (.vexta y vd vas h rb) s = .next (setTile s y.tile.val (issued (vWrite u u vd.toNat 2 w y.sat (cs.map fun c => (c, shiftRound (compOf 40 (vaccGet u vas.toNat) (c + k)) (sInt u rb.toNat))))))) ∧
  (∀ (s : State) (t u : Tile) (y : Vy) (set : BitVec 4), TileReady s y.tile.val t u → y.e = true →
    exec (.vclra y set) s = .next (setTile s y.tile.val (issued ([0, 1, 2, 3].foldl (fun v a => if bitOf set.toNat a = 1 then accWrite v a false ((List.range 128).map fun c => (c, 0)) else v) u)))) ∧
  (∀ (s : State) (t u : Tile) (y : Vy) (md : BitVec 4) (va vb : Reg), TileReady s y.tile.val t u → y.e = true →
    let T := y.type.toNat
    let w := compW T
    let cs := actComps u y.m.toNat T
    let a := fun c => compOf w (vGet u va.toNat) c
    let b := fun c => compOf w (vGet u vb.toNat) c
    let es := activeElts u y.m.toNat (eltCount u T)
    let go := fun (f : Int → Int → Bool) => (Host.Outcome.next (setTile s y.tile.val (issued (push u 2 (.mask md.toNat) (((es.filter fun i => (List.range (perElt T)).all fun j => f (a (perElt T * i + j)) (b (perElt T * i + j))).foldl (fun x i => x + 2 ^ i) 0))))) : Res)
    (T ≤ 4 → exec (.vcmpeq y md va vb) s = go (fun x z => x == z)) ∧
    (T ≤ 2 → exec (.vcmplt y md va vb) s = go (fun x z => decide (x < z)) ∧ exec (.vcmple y md va vb) s = go (fun x z => decide (x ≤ z)))) ∧
  (∀ (s : State) (t u : Tile) (y : Vy) (md ma mb : BitVec 4), TileReady s y.tile.val t u → y.e = true →
    let go := fun (v : Nat) => (Host.Outcome.next (setTile s y.tile.val (issued (push u 1 (.mask md.toNat) v))) : Res)
    let a := mGet u ma.toNat
    let b := mGet u mb.toNat
    exec (.vmand y md ma mb) s = go (a &&& b) ∧ exec (.vmor y md ma mb) s = go (a ||| b) ∧ exec (.vmxor y md ma mb) s = go (a ^^^ b) ∧
    exec (.vmandn y md ma mb) s = go (a - (a &&& b)) ∧
    (∀ ra : Reg, exec (.vmsetn y md ra) s = go (2 ^ min (sGet u ra.toNat) 128 - 1)) ∧
    (∀ sd : Reg, exec (.vmcnt y sd ma) s = .next (setTile s y.tile.val (issued (flying u (sWrites 1 sd (popCount 128 a) false))))) ∧
    (∀ vd : Reg, exec (.vmtov y vd ma) s = .next (setTile s y.tile.val (issued (push u 2 (.v (vPhys u vd.toNat) (2 ^ 1280 - 1)) ((List.range 128).foldl (fun x i => x + bitOf a i * 2 ^ (10 * i)) 0)))))) ∧
  (∀ (s : State) (t u : Tile) (y : Vy) (sd va rb : Reg), TileReady s y.tile.val t u → y.e = true →
    let T := y.type.toNat
    let w := compW T
    let cs := actComps u y.m.toNat T
    let g := min (sGet u va.toNat) (emax T)
    let c := sGet u rb.toNat
    T ≤ 4 →
    exec (.vsetl y sd va) s = .next (setTile s y.tile.val (issued (flying (flying u (sWrites 1 sd g false)) [⟨0, .creg 0x020, g * unitsOf T⟩]))) ∧
    exec (.vget y sd va rb) s = .next (setTile s y.tile.val (issued (flying u (sWrites 2 sd (if comps T ≤ c then 0 else unsignedOf 32 (compOf w (vGet u va.toNat) c)) false)))) ∧
    exec (.vnop y) s = .next (setTile s y.tile.val (issued u))) ∧
  (∀ (s : State) (t u : Tile) (y : Vy) (vd va vb : Reg), TileReady s y.tile.val t u → y.e = true →
    let bad : Res := .next (setTile s y.tile.val { t with fault := some (0x01, 0, false) })
    (4 < y.type.toNat → exec (.vadd y vd va vb) s = bad ∧ exec (.vmin y vd va vb) s = bad ∧ exec (.vcmulq y vd va vb) s = bad) ∧
    (y.type.toNat = 3 ∨ y.type.toNat = 4 → exec (.vmin y vd va vb) s = bad) ∧
    (y.type.toNat ≤ 2 → exec (.vcmulq y vd va vb) s = bad))

/-- Vector loads and stores (spec/06_phimar_vector.md, spec/05_phimar_scalar.md, spec/07_memory.md, basis derived). Alone in its bundle, an aligned vector load of the scratchpad puts a write of its active elements in flight with latency 5, or 6 at an offset that is no multiple of 160, and one with bytes in the CSM waits until the bank of every granule of them has served it, with 9 or 10; a vector store changes the bits of its active elements and nothing else of memory; with PI set RA gets the increment of the whole groups spanned, with latency 1; vx_index returns to 0. A TYPE of 5 to 7 raises ILLEGAL_ENCODING and an offset that is no multiple of 5 ALIGN, with the address. -/
def Obligations.VectorAccessesOfMemory : Prop :=
  (∀ (s : State) (t u : Tile) (y : Vy) (vd ra : Reg) (pi : Bool), TileReady s y.tile.val t u → y.e = true →
    let p := y.tile.val
    let a := sGet u ra.toNat
    let T := y.type.toNat
    let w := eltW T
    let n := eltCount u T
    let es := activeElts u y.m.toNat n
    let nx := eltCount u 0
    let ex := activeElts u y.m.toNat nx
    let done := fun (v : Tile) (step : Nat) => issued (afterVec v pi ra ((a + step) % 2 ^ 32))
    let inPad := fun (w : Nat) (l : List Nat) => ∀ i ∈ l, ∀ b, (eltBytes w i).1 ≤ b → b < (eltBytes w i).2 → a + b < 0x80000
    let lat := if a % 160 = 0 then 5 else 6
    tileCsm a = false →
    (T ≤ 4 → a % 5 = 0 → inPad w es →
      exec (.vld y vd ra pi) s = .next (setTile s p (done (push u lat (.v (vPhys u vd.toNat) (vmLoad s p u .vld ra.toNat T es).2) (vmLoad s p u .vld ra.toNat T es).1) (5 * ceilDiv (n * w) 40))) ∧
      exec (.vst y vd ra pi) s = .next (vmStore (setTile s p (done u (5 * ceilDiv (n * w) 40))) p u .vst vd.toNat ra.toNat T es)) ∧
    (inPad 4 ex →
      exec (.vldx y vd ra pi) s = .next (setTile s p (done (push u lat (.v (vPhys u vd.toNat) (vmLoad s p u .vldx ra.toNat T ex).2) (vmLoad s p u .vldx ra.toNat T ex).1) (ceilDiv nx 2))) ∧
      exec (.vstx y vd ra pi) s = .next (vmStore (setTile s p (done u (ceilDiv nx 2))) p u .vstx vd.toNat ra.toNat T ex))) ∧
  (∀ (u : Tile) (op : LOp) (d n m T a : Nat) (pi : Bool), op = .vld ∨ op = .vst ∨ op = .vldx ∨ op = .vstx → sGet u n = a →
    let w := if op = .vldx ∨ op = .vstx then 4 else eltW T
    let es := activeElts u m (eltCount u (if op = .vldx ∨ op = .vstx then 0 else T))
    ∀ i ∈ es, ∀ b, (eltBytes w i).1 ≤ b → b < (eltBytes w i).2 → tileCsm (a + b) = true → (a + b) / 32 * 32 ∈ csmAccess u (.ls op d n 0 m T pi)) ∧
  (∀ (s : State) (t u : Tile) (y : Vy) (vd ra : Reg) (pi : Bool), TileReady s y.tile.val t u → y.e = true →
    let p := y.tile.val
    let a := sGet u ra.toNat
    let T := y.type.toNat
    let w := eltW T
    let n := eltCount u T
    let es := activeElts u y.m.toNat n
    let nx := eltCount u 0
    let ex := activeElts u y.m.toNat nx
    let done := fun (v : Tile) (step : Nat) => issued (afterVec v pi ra ((a + step) % 2 ^ 32))
    let okay := fun (w : Nat) (l : List Nat) (wr : Bool) => ∀ i ∈ l, ∀ b, (eltBytes w i).1 ≤ b → b < (eltBytes w i).2 → byteOk u wr (a + b) = true ∧ (wr = true ∨ tileCsm (a + b) = false ∨ byteBad s (vecFlat p (a + b)) = false)
    let lat := if regionOfs a % 160 = 0 then 9 else 10
    15 < u.budget →
    (T ≤ 4 → regionOfs a % 5 = 0 →
      (∀ gs, csmAccess u (.ls .vld vd.toNat ra.toNat 0 y.m.toNat T pi) = gs → gs ≠ [] → let x := waited s p u gs
       okay w es false → exec (.vld y vd ra pi) s = .next (setTile s p (done (push x lat (.v (vPhys u vd.toNat) (vmLoad s p u .vld ra.toNat T es).2) (vmLoad s p u .vld ra.toNat T es).1) (5 * ceilDiv (n * w) 40)))) ∧
      (∀ gs, csmAccess u (.ls .vst vd.toNat ra.toNat 0 y.m.toNat T pi) = gs → gs ≠ [] → let x := waited s p u gs
       okay w es true → exec (.vst y vd ra pi) s = .next (vmStore (setTile s p (done x (5 * ceilDiv (n * w) 40))) p u .vst vd.toNat ra.toNat T es))) ∧
    ((∀ gs, csmAccess u (.ls .vldx vd.toNat ra.toNat 0 y.m.toNat T pi) = gs → gs ≠ [] → let x := waited s p u gs
      okay 4 ex false → exec (.vldx y vd ra pi) s = .next (setTile s p (done (push x lat (.v (vPhys u vd.toNat) (vmLoad s p u .vldx ra.toNat T ex).2) (vmLoad s p u .vldx ra.toNat T ex).1) (ceilDiv nx 2)))) ∧
      (∀ gs, csmAccess u (.ls .vstx vd.toNat ra.toNat 0 y.m.toNat T pi) = gs → gs ≠ [] → let x := waited s p u gs
       okay 4 ex true → exec (.vstx y vd ra pi) s = .next (vmStore (setTile s p (done x (ceilDiv nx 2))) p u .vstx vd.toNat ra.toNat T ex)))) ∧
  (∀ (s : State) (t u : Tile) (y : Vy) (vd ra : Reg) (pi : Bool), TileReady s y.tile.val t u → y.e = true →
    let p := y.tile.val
    let a := sGet u ra.toNat
    let T := y.type.toNat
    let w := eltW T
    let n := eltCount u T
    let es := activeElts u y.m.toNat n
    let nx := eltCount u 0
    let ex := activeElts u y.m.toNat nx
    let go := fun (cause ebad : Nat) => (Host.Outcome.next (setTile s p { t with fault := some (cause, ebad, false) }) : Res)
    (4 < T → exec (.vld y vd ra pi) s = go 0x01 0 ∧ exec (.vst y vd ra pi) s = go 0x01 0) ∧
    (T ≤ 4 → regionOfs a % 5 ≠ 0 → exec (.vld y vd ra pi) s = go 0x06 a ∧ exec (.vst y vd ra pi) s = go 0x06 a))

/-- Interrupt and exception entry (spec/05_phimar_scalar.md, basis derived). At a boundary where an interrupt may be taken the lowest line pending and unmasked enters the handler: ipc takes the PC, the line's pending bit is cleared, every write in flight is held, accumulations build on the values from before, and the bundle at ivec is next after 6 cycles and those of the wait that it ends (assumptions 18 and 51), which irq_hold does not count; where it may not be taken the line stays pending. A bundle's fault enters the exception handler the same way with epc, ecause and ebad, the delay slots and, but for REP_CSM, the repetition kept; with a handler active, or no handler, it ends the task with TIL_FAULT. Words at the PC of which none lies in the code, or whose first is reserved and ends the bundle, raise FETCH or ILLEGAL_ENCODING; where a bundle can be formed nothing is entered. -/
def Obligations.HandlersAreEntered : Prop :=
  (∀ (s : State) (p : Fin 288) (l w : Nat), let t := getTile s p.val
    pendingLine t = some l → takesIrq t = true → w = waitedCycles s p.val t l (takeFree s).1 → w < t.budget →
    ∃ x : Tile, exec (.interruptEntry p) s = .next (setTile (takeFree s).2 p.val x) ∧ x.handler = .interrupt ∧ x.ipc = BitVec.ofNat 32 t.pc ∧ x.irqPend = andNot t.irqPend (2 ^ l) ∧
    x.cycle = t.cycle + BitVec.ofNat 64 w + 6 ∧ x.budget = t.budget - w - 6 ∧ (0 < w → x.irqHold = 6) ∧
    (x.pc = t.ivec.toNat ∧ x.held = t.flights ∧ x.flights = [] ∧ x.stage = [] ∧ x.wait = none ∧ x.fault = none ∧ x.sreg = t.sreg ∧ x.vreg = t.vreg ∧ x.mreg = t.mreg ∧ x.acc = t.acc ∧ x.vacc = t.vacc ∧ x.accRun = t.acc ∧ x.vaccRun = t.vacc ∧ x.loops = t.loops ∧ x.irqMask = t.irqMask) ∧ x.epc = t.epc ∧ x.ecause = t.ecause ∧ x.ebad = t.ebad) ∧
  (∀ (s : State) (p : Fin 288), (pendingLine (getTile s p.val) = none ∨ takesIrq (getTile s p.val) = false) → exec (.interruptEntry p) s = .next s) ∧
  (∀ (s : State) (p : Fin 288) (cause ebad : Nat) (ecc : Bool), let t := getTile s p.val
    t.fault = some (cause, ebad, ecc) → t.running = true → t.halted = false →
    (t.handler = .none → t.evec ≠ 0xFFFFFFFF →
      ∃ x : Tile, exec (.exceptionEntry p) s = .next (setTile s p.val x) ∧ x.handler = .exception ∧ x.epc = BitVec.ofNat 32 t.pc ∧ x.ecause = cause ∧ x.ebad = BitVec.ofNat 32 ebad ∧ x.cycle = t.cycle + 6 ∧ x.budget = t.budget - 6 ∧
      (x.pc = t.evec.toNat ∧ x.held = t.flights ∧ x.flights = [] ∧ x.stage = [] ∧ x.wait = none ∧ x.fault = none ∧ x.sreg = t.sreg ∧ x.vreg = t.vreg ∧ x.mreg = t.mreg ∧ x.acc = t.acc ∧ x.vacc = t.vacc ∧ x.accRun = t.acc ∧ x.vaccRun = t.vacc ∧ x.loops = t.loops ∧ x.irqMask = t.irqMask) ∧ x.ipc = t.ipc ∧ x.irqPend = t.irqPend ∧
      x.branch = none ∧ x.savedBranch = t.branch ∧ x.rep = none ∧ x.savedRep = (if cause = 0x08 then none else t.rep.map fun n => (t.pc, n))) ∧
    (t.handler ≠ .none ∨ t.evec = 0xFFFFFFFF →
      exec (.exceptionEntry p) s = .next (endTile (setTilFault (setTile s p.val { t with ecause := cause, ebad := BitVec.ofNat 32 ebad, fault := none, cycle := t.cycle + 1, budget := t.budget - 1 }) p.val cause t.pc ebad (t.handler != .none) t.task) p.val (if ecc then .ecc else .overrun)))) ∧
  (∀ (s : State) (p : Fin 288), let t := getTile s p.val
    t.fault = none → t.halted = false → smWf (fun _ => ({} : Tile)) s.tiles = true →
    (tileTakes t = false ∨ t.stage ≠ [] → exec (.exceptionEntry p) s = .next s) ∧
    (tileTakes t = true → t.stage = [] →
      (∀ w, t.pc + 4 ≤ t.codeLen → w = rdLe s (t.code + t.pc) 4 → bitOf w 31 = 1 → (decodeSyllable w).isSome = true → exec (.exceptionEntry p) s = .next s) ∧
      (t.codeLen ≤ t.pc → s.poison = [] → s.errs = [] → exec (.exceptionEntry p) s = .next (enterFault (setTile s p.val { t with fault := some (0x04, t.pc, false) }) p.val (0x04, t.pc, false))) ∧
      (∀ w, t.pc + 4 ≤ t.codeLen → w = rdLe s (t.code + t.pc) 4 → bitOf w 31 = 1 → decodeSyllable w = none → s.poison = [] → s.errs = [] → fencedAt s (32 * ((t.code + t.pc) / 32)) = false →
        exec (.exceptionEntry p) s = .next (enterFault (setTile s p.val { t with fault := some (0x01, 0, false) }) p.val (0x01, 0, false))))) ∧
  (∀ (s : State) (p : Fin 288), (getTile s p.val).running = false → exec (.exceptionEntry p) s = .next s)

/-- The timer, the mailbox, the end of the budget, and bundles of several words (spec/05_phimar_scalar.md, spec/02_larkspur_time.md, basis derived). An armed compare instant at or before tct raises TIMER and is disarmed; a write of TIL_MBOX puts the word in mbox and raises MBOX, and OVR is set where it was raised already; a budget that reaches 0 without TASK_END ends the task as an overrun. A syllable with E of 0 is held until its bundle is whole; a tile that runs no task takes no syllable. A write that is due lands before the bundle reads, and its register then reads as the value written; one that is not due comes one cycle nearer. -/
def Obligations.TileEventsAndBundles : Prop :=
  (∀ (s : State) (p : Fin 288), let t := getTile s p.val
    let c := tctNow s
    let due := t.tmrSec.toNat < c.1.1 ∨ (t.tmrSec.toNat = c.1.1 ∧ t.tmrNs.toNat ≤ c.1.2)
    (t.running = true → t.tmrArmed = true → due → exec (.timerCompare p) s = .next (setTile c.2 p.val (raiseIrq { t with tmrArmed := false } 0))) ∧
    (t.running = true → t.tmrArmed = true → ¬ due → exec (.timerCompare p) s = .next (setTile c.2 p.val t)) ∧
    (t.running = false → exec (.timerCompare p) s = .next s)) ∧
  (∀ (s : State) (p : Fin 288) (v : Word), blockLive s .til p.val = true → let t := getTile s p.val
    exec (.tilMboxWrite p v) s = .next (setTile (if bitOf t.irqPend 1 = 1 then setF s (TIL_MBOX_STAT_OVR p.val) 1 else s) p.val (raiseIrq { t with mbox := v } 1))) ∧
  (∀ (s : State) (p : Fin 288), let t := getTile s p.val
    t.running = true → t.ending = none →
    (t.budget = 0 → exec (.budgetExhausted p) s = .next (endTile (setTile s p.val { t with budget := 0, fault := none }) p.val .overrun)) ∧
    (t.budget ≠ 0 → t.wait = none → exec (.budgetExhausted p) s = .next s)) ∧
  (∀ (s : State) (y : Vy) (vd va vb : Reg), let t := getTile s y.tile.val
    let x : Syl := .vx .add y.sat vd.toNat va.toNat vb.toNat y.m.toNat y.type.toNat
    (tileTakes t = false → exec (.vadd y vd va vb) s = .next s) ∧
    (tileTakes t = true → y.e = false → exec (.vadd y vd va vb) s = .next (setTile s y.tile.val { t with stage := t.stage ++ [(x, false)] }))) ∧
  (∀ (s : State) (t : Tile) (rd : Reg) (v : Nat), t.flights = [⟨0, .s rd.toNat, v⟩] → rd ≠ 0 → smWf (fun _ => (0 : Word)) t.sreg = true → v < 2 ^ 32 →
    (land s t).1 = s ∧ sGet (land s t).2 rd.toNat = v ∧ (land s t).2.flights = [] ∧ ∀ r : Nat, r ≠ rd.toNat → sGet (land s t).2 r = sGet t r) ∧
  (∀ (s : State) (t : Tile) (k : Nat) (d : Dest) (v : Nat), t.flights = [⟨k + 1, d, v⟩] → land s t = (s, noteSince { t with flights := [⟨k, d, v⟩] }))

/-- The interrupt controller (spec/12_cxl.md, basis derived). An enabled pulse source with PEND, or an enabled level source due and not STUCK, whose gap has passed sends the message of its vector: PEND and due are cleared, and the MSI-X write leaves and is counted, or sets the pending bit where a mask holds it; one that is not due, or whose gap runs, sends nothing; with MSI-X Enable at 0, or while the host link recovers, it stays due; sources of one vector that fall due in one hub cycle are one message; a level source no longer asserted sends nothing and is no longer due. INT_ACK makes an asserted, enabled, unstuck level source due, but in the hub cycle of its rise. STUCK_MS of assertion makes a source STUCK with one pulse on 880, once the hub cycle in which it was reached is over (a fall in it wins); 1 µs low ends it. A 0 in EN clears PEND and STUCK. CLR_CNT clears the counts. -/
def Obligations.InterruptSourcesSendMessages : Prop :=
  (∀ (s : State) (src : Fin 1024) (dt : Nat), let s1 := atDt s dt
    let i := getInt s1 src.val
    isF s1 (INT_SRC_CFG_EN src.val) = true → gapOver s1 src.val = true →
    ((isLevel src.val = false ∧ i.pend = true) ∨ (isLevel src.val = true ∧ i.due = true ∧ i.stuck = false ∧ i.asserted = true)) →
    (s.cfg.msixEnable = false ∨ now s1 < s.linkHeld → exec (.interruptMessage src dt) s = .next s1) ∧
    (s.cfg.msixEnable = true → s.linkHeld ≤ now s1 → sentTogether s1 src.val = false →
      let s2 := setInt s1 src.val { i with due := false, pend := false, lastMsg := some (now s1), lastDue := fallsDue s1 src.val }
      let v := getF s1 (INT_SRC_CFG_VECTOR src.val)
      (vectorMasked s2 v = false → exec (.interruptMessage src dt) s = .next (emit (addF s2 INT_CNT_MSG_COUNT 1) (.msi v (getR64 s2 (msixEntry v)) (getR s2 (msixEntry v + 8)).toNat))) ∧
      (vectorMasked s2 v = true → exec (.interruptMessage src dt) s = .next (setPending s2 v true))) ∧
    (s.cfg.msixEnable = true → s.linkHeld ≤ now s1 → sentTogether s1 src.val = true →
      exec (.interruptMessage src dt) s = .next (setInt s1 src.val { i with due := false, pend := false, lastMsg := some (now s1), lastDue := fallsDue s1 src.val }))) ∧
  (∀ (s : State) (src : Fin 1024) (dt : Nat), let s1 := atDt s dt
    (intDue s1 src.val = false ∨ gapOver s1 src.val = false → exec (.interruptMessage src dt) s = .next s) ∧
    (intDue s1 src.val = true → gapOver s1 src.val = true → isLevel src.val = true → (getInt s1 src.val).asserted = false → exec (.interruptMessage src dt) s = .next (setInt s1 src.val { getInt s1 src.val with due := false }))) ∧
  (∀ (s : State) (src : Fin 1024), let i := getInt s src.val
    let acked := isLevel src.val = true ∧ i.asserted = true ∧ i.stuck = false ∧ isF s (INT_SRC_CFG_EN src.val) = true ∧ i.since / 1000 ≠ now s / 1000
    (acked → exec (.intAck src) s = .next (setInt s src.val { i with due := true, dueAt := if i.due then i.dueAt else now s })) ∧ (¬ acked → exec (.intAck src) s = .next s)) ∧
  (∀ (s : State) (src : Fin 1024), let i := getInt s src.val
    (∀ dt : Nat, let s1 := atDt s dt
      let past := (i.since + getF s (INT_SRC_CFG_STUCK_MS src.val) * 1000000000) / 1000 < now s1 / 1000
      (isLevel src.val = true → i.asserted = true → i.stuck = false → past →
        exec (.sourceStuck src dt) s = .next (intPulse (setInt s1 src.val { i with stuck := true, due := false }) 880)) ∧
      (isLevel src.val = false ∨ i.asserted = false ∨ i.stuck = true ∨ ¬ past → exec (.sourceStuck src dt) s = .next s)) ∧
    (i.stuck = true → i.asserted = false → reached s (i.since + 1000000) = true → exec (.sourceUnstuck src) s = .next (setInt s src.val { i with stuck := false, due := false })) ∧
    (i.stuck = false ∨ i.asserted = true ∨ reached s (i.since + 1000000) = false → exec (.sourceUnstuck src) s = .next s)) ∧
  (∀ (s : State) (src : Fin 1024) (v : Word),
    let s1 := setF (setF (setF (setF s (INT_SRC_CFG_VECTOR src.val) v.toNat) (INT_SRC_CFG_EN src.val) (bitOf v.toNat 11)) (INT_SRC_CFG_MIN_GAP src.val) (min 1000 (bitsOf v.toNat 12 10)))
      (INT_SRC_CFG_STUCK_MS src.val) (clampNat 1 1000 (bitsOf v.toNat 22 10))
    let i := getInt s1 src.val
    (bitOf v.toNat 11 = 1 → exec (.intSrcCfgWrite src v) s = .next (if isF s (INT_SRC_CFG_EN src.val) then s1 else setInt s1 src.val { i with dueAt := now s1 })) ∧
    (bitOf v.toNat 11 = 0 → exec (.intSrcCfgWrite src v) s = .next (setInt s1 src.val { i with pend := false, stuck := false, since := if i.stuck then now s1 else i.since }))) ∧
  (∀ s : State, exec .clrCnt s = .next (setF ((s.ints.map (·.1)).foldl (fun s n => setInt s n { getInt s n with coalesced := 0 }) s) INT_CNT_MSG_COUNT 0))

/-- The host link, the function and its decoders (spec/12_cxl.md, spec/03_slot_contract.md, spec/14_power.md, basis derived). A trained rate and width set CXL_LINK_STAT and the budget, and a change pulses source 800; behind a switch the link stays down; a recovery is counted, pulses 800 and holds the flits, so that no request reaches the device; DL_Down resets the function, and so does an integrity failure of a secure IDE stream, which becomes insecure and is counted. A decoder commits where its size, ways, BI Enable and quadrant allow it and locks MEM_HDM; otherwise its Error Not Committed and its error bit are set and 802 pulses. DOE requests are answered, refused above 16 KiB, and aborted. Configuration requests before 400 ms get Request Retry Status. -/
def Obligations.TheHostPortFollowsItsLink : Prop :=
  (∀ (s : State) (rate : Fin 7) (width : BitVec 2) (wide lat sw : Bool),
    let r := if width = 0 ∨ s.perst = true ∨ sw = true then 0 else rate.val
    let w := if r = 0 then 0 else width.toNat
    let s0 := if getF s CXL_LINK_STAT_RATE = r ∧ getF s CXL_LINK_STAT_WIDTH = w then s else intPulse s 800
    let s1 := setF (setF { s0 with boot := { s0.boot with link := s0.boot.link || r != 0 } } CXL_LINK_STAT_RATE r) CXL_LINK_STAT_WIDTH w
    let s2 := setF (setF s1 CXL_LINK_STAT_FLIT (flitOf r wide lat)) CXL_LINK_STAT_CXL (ofBool (decide (3 ≤ r)))
    exec (.hostLinkRetrain rate width wide lat sw) s = .next (setF s2 CXL_BUDGET_MBPS (if cacheOk s2 then budgetOf (getF s2 CXL_LINK_STAT_RATE) (getF s2 CXL_LINK_STAT_WIDTH) else 0))) ∧
  (∀ (s : State) (ps : Nat), exec (.linkRecovery ps) s = .next (intPulse { (addF s CXL_LINK_CNT_RECOV 1) with linkHeld := max s.linkHeld (now s + ps) } 800)) ∧
  (∀ s : State, let s1 := (List.range 256).foldl (fun s r => ringSide s (r / 64) fun s => cutRing s r) s
    let s2 : State := { s1 with
      jobs := s1.jobs.map fun j => { j with lost := true }, ucmds := s1.ucmds.map fun u => { u with lost := true }, cfg := {}, doe := [], fox := { s1.fox with ideKeys := [], ideUse := [] },
      quads := s1.quads.map fun x => (x.1, { x.2 with records := x.2.records.map fun j => { j with lost := true } }) }
    let s3 := dropIde (dropIde ([0, 1, 2, 3].foldl (fun s q => setHdm (setF (clrBitF s CXL_HDM_STAT_COMMITTED q) (MEM_HDM_LOCKED q) 0) q { getHdm s q with committed := false }) s2) false) true
    exec .functionReset s = .next (intPulse (addF (setBudget (setF (setF (setF s3 CXL_LINK_STAT_CACHE_EN 0) CXL_LINK_STAT_MEM_EN 0) CXL_IDE_STAT_CM_SKID 0)) CXL_LINK_STAT_RESETS 1) 800)) ∧
  (∀ (s : State) (io : Bool), let f := if io then CXL_IDE_STAT_IO_STATE else CXL_IDE_STAT_CM_STATE
    let x := addF s CXL_IDE_STAT_FAILS 1
    (getF s f = 1 → getF x f ≠ 2 → exec (.ideIntegrityFailure io) s = .next (functionReset (intPulse (setF x f 2) 801))) ∧
    (getF s f ≠ 1 → exec (.ideIntegrityFailure io) s = .next s)) ∧
  (∀ (s : State) (q : Fin 4) (base : BitVec 64) (size ways : Nat), s.linkHeld ≤ now s →
    let good := size = getF s (MEM_HDM_SIZE q.val) * 2 ^ 28 ∧ getF s (MEM_HDM_SIZE q.val) ≠ 0 ∧ ways = 1 ∧ s.cfg.biEnable = true ∧ quadDark s q.val = false
    (isF s (MEM_HDM_LOCKED q.val) = false → good → exec (.hdmDecoderCommit q true base size ways) s =
      .next (setF (setBitF (setHdm s q.val ⟨base.toNat, size, ways, true, false⟩) CXL_HDM_STAT_COMMITTED q.val) (MEM_HDM_LOCKED q.val) 1)) ∧
    (isF s (MEM_HDM_LOCKED q.val) = false → ¬ good → exec (.hdmDecoderCommit q true base size ways) s =
      .next (intPulse (setBitF (setHdm s q.val ⟨base.toNat, size, ways, false, true⟩) CXL_HDM_STAT_ERR q.val) 802)) ∧
    (isF s (MEM_HDM_LOCKED q.val) = true → exec (.hdmDecoderCommit q true base size ways) s = .next s) ∧
    (smWf (fun _ => ({} : HdmDec)) s.hdm = true → smWf regReset s.regs = true → ∃ t, exec (.hdmDecoderCommit q false base size ways) s = .next t ∧
      (getHdm t q.val).committed = false ∧ testF t CXL_HDM_STAT_COMMITTED q.val = false ∧ isF t (MEM_HDM_LOCKED q.val) = false ∧ t = { s with regs := t.regs, hdm := t.hdm })) ∧
  (∀ (s : State) (i : Fin 3) (len : Nat), s.linkHeld ≤ now s → let d := getDoe s i.val
    (16384 < len → ∀ o, exec (.doeRequest i o len) s = .next (setDoe s i.val { d with error := true })) ∧
    (len ≤ 16384 →
      exec (.doeRequest i (.discovery 0) len) s = .next (setDoe s i.val { d with ready := some (.discovery (some .discovery) 1) }) ∧
      exec (.doeRequest i (.discovery 1) len) s = .next (setDoe s i.val { d with ready := some (.discovery (some (if i.val = 0 then .cdat else if i.val = 1 then .spdm else .secured)) 0) }) ∧
      (∀ x, 2 ≤ x → exec (.doeRequest i (.discovery x) len) s = .next (setDoe s i.val { d with ready := some (.discovery none 0) })) ∧
      (∀ sec b, exec (.doeRequest i (.spdm sec b) len) s = .next (if i.val = (if sec then 2 else 1) then setDoe s i.val { d with busy := some b } else s)) ∧
      exec (.doeRequest i .cdat len) s = .next (if i.val = 0 then setDoe s 0 { getDoe s 0 with ready := some (.cdat (cdatEntries s)) } else s)) ∧
    exec (.doeAbort i) s = .next (setDoe s i.val {})) ∧
  (∀ (s : State) (q : Fin 4) (c : Bool) (base : BitVec 64) (size ways len : Nat) (i : Fin 3) (o : DoeReq), now s < s.linkHeld →
    exec (.hdmDecoderCommit q c base size ways) s = .next s ∧ exec (.doeRequest i o len) s = .next s ∧ exec (.doeAbort i) s = .next s) ∧
  (∀ (s : State) (c : CfgReq),
    (s.perst = false → getF s CXL_LINK_STAT_RATE ≠ 0 → s.linkHeld ≤ now s → s.upCycles < 10000000 → exec (.configurationRequest c) s = .next (emit s .cfgRetry)) ∧
    (s.perst = false → getF s CXL_LINK_STAT_RATE ≠ 0 → s.linkHeld ≤ now s → 10000000 ≤ s.upCycles → exec (.configurationRequest c) s = .next (answerCfg s c)) ∧
    (s.perst = true ∨ getF s CXL_LINK_STAT_RATE = 0 ∨ now s < s.linkHeld → exec (.configurationRequest c) s = .next s)) ∧
  (∀ s : State, exec .cxlCntClr s = .next ([CXL_LINK_STAT_RESETS, CXL_LINK_CNT_RECOV, CXL_LINK_CNT_LATE_REC, CXL_LOST_LOST_WR, CXL_IDE_STAT_FAILS, CXL_BAD_ACC_BAR0, CXL_BAD_ACC_BAR2].foldl (fun s f => setF s f 0) s))

/-- TDD groups: pins, ramps, and the change of settings (spec/08_port_processing.md, spec/11_lanes.md, basis derived). TDD_PIN_EDGE drives a pin of its group to the level that the ramps, LEAD, LAG, ADV and the settings in force give it, to within 1 ns, and else nothing; a pin that is not driven takes its inactive level only; under settings of FDD in force at an instant, the level ADV before it is active. The shadowed settings of a group take effect at the 20 ms instant noted as they were written. A ramp of the settings in force at its beginning, at least 20 us ahead, is sent to every UP radio lane with ports of the group that can send it 20 us ahead, once, and a shortened one is counted. -/
def Obligations.TddGroupsDriveRampsAndPins : Prop :=
  (∀ (s : State) (g : Fin 16) (active : Bool) (dt : Nat), let s1 := atDt s dt
    (tddPinOn s1 g.val = false → exec (.tddPinEdge g active dt) s = .next (if active then s else driveTddPin s1 g.val false)) ∧
    (tddPinOn s1 g.val = true →
      (pinLevel s1 g.val (now s1) = active ∨ pinLevel s1 g.val (now s1 + 1000) = active ∨ pinLevel s1 g.val (now s1 - 1000) = active → exec (.tddPinEdge g active dt) s = .next (driveTddPin s1 g.val active)) ∧
      (pinLevel s1 g.val (now s1) ≠ active → pinLevel s1 g.val (now s1 + 1000) ≠ active → pinLevel s1 g.val (now s1 - 1000) ≠ active → exec (.tddPinEdge g active dt) s = .next s)) ∧
    (∀ u ∈ tddPhases s1 g.val, ∀ t : Int, u.1.tdd = false → u.2.1 ≤ t + getSF s1 (TDD_PIN_ADV_ADV g.val) → t + getSF s1 (TDD_PIN_ADV_ADV g.val) < u.2.2 → pinLevel s1 g.val t = true)) ∧
  (∀ (s : State) (g : Fin 16), let t := smGet (fun _ => 0) s.tddDue g.val
    (isF s (TDD_GRP_CFG_PENDING g.val) = true → reached s t = true →
      exec (.tddShadowApply g) s = .next (let x := (List.range 192).foldl (applyPortGroup g.val t) ([TDD_GRP_CFG g.val, TDD_GRP_P1 g.val, TDD_GRP_P2 g.val, TDD_GRP_RAMP g.val].foldl applyTdd (setF s (TDD_GRP_CFG_PENDING g.val) 0))
        { x with tddAt := smPut (fun _ => 0) g.val t x.tddAt })) ∧
    (isF s (TDD_GRP_CFG_PENDING g.val) = false ∨ reached s t = false → exec (.tddShadowApply g) s = .next s)) ∧
  (∀ (s : State) (g : Fin 16) (up : Bool) (t : Int),
    let sent := ∃ e, smGet (fun _ => none) s.rampSent (2 * g.val + ofBool up) = some e ∧ t ≤ e
    (¬ sent → ∀ d x, rampWhen s g.val up t = some (d, x) → now s + 20000000 ≤ x.1 →
      let s0 : State := { s with rampSent := smPut (fun _ => none) (2 * g.val + ofBool up) (some t) s.rampSent }
      let s1 := (List.range 64).foldl (fun s l => let m := if laneRadio s l && laneIsUp s l then groupSlots s l g.val x.1 else 0
        if m = 0 ∨ x.1 < leavesBy s l svcRamp + 20000000 then s else queueService s l svcRamp (ctrlBlock 0x5A (rampContent m up (if up then d.up else d.down) x))) s0
      exec (.ramp g up t) s = .next (if x.2.2 then addF s1 (TDD_CNT_SHORTENED g.val) 1 else s1)) ∧
    (∀ x, rampWhen s g.val up t = some x → x.2.1 < now s + 20000000 ∨ sent → exec (.ramp g up t) s = .next s) ∧
    (rampWhen s g.val up t = none → exec (.ramp g up t) s = .next s))

/-- Sample groups: fetched, sent, received and missing (spec/11_lanes.md, spec/08_port_processing.md, basis derived). In its fetch cycle GROUP_FETCH reads a group of the transmit area, converts it to B10, blanks it, keeps it for its air time, and writes zeros back; a bad granule makes it zeros and is counted. At its air time an UP lane sends the frame of its ports' groups, stamped with that instant, past the check-value units that snoop it, and then as many service blocks as end within the frame period, and the fill. A received frame is assigned by its instant and SEQ, each group checked and written; blocks left over that form no frame are counted, and causes for which a lane goes down are looked at. A group not there by the ball instant of its last sample is zeros and counted. -/
def Obligations.SampleGroupsMoveOverTheRadioLink : Prop :=
  (∀ (s : State) (port : Fin 192) (g l : Nat) (e : LaneEnt), let q := port.val / 48
    let p := gangFirst s q (port.val % 48)
    let span := groupSpan g (lanePeriod s l) (dTx s q l p)
    portLane s q p = some l → areaOf s q p span.1 span.2 = some e →
    (inCycle s (fetchInstant g (lanePeriod s l)) = true →
      let base := csmFlat (8 * q + e.txCl)
      let off := e.txAddr + 90 * (g % e.txGa)
      let r := engRead (engOpen s) base off 90
      let b := b10Of ((chunks 5 18 r.1).map cx20Of)
      let v := blankGroup s q p g (lanePeriod s l) (dTx s q l p) (if r.2.bad then 0 else b.1 + 2 ^ 360 * b.2)
      let s1 := wrMem r.2.st (base + off) (List.replicate 90 0)
      let s2 := if r.2.bad then countLane s1 l cntPoison 1 else s1
      let s3 := if v.2 then addF s2 (TDD_CNT_BLANKED (portGroupWhen s (48 * q + p) (airTime g (lanePeriod s l) + dTx s q l p))) 1 else s2
      exec (.groupFetch port g) s = .next { s3 with txGroups := smPut (fun _ => 0) (groupKey (48 * q + p) g) v.1 s3.txGroups }) ∧
    (inCycle s (fetchInstant g (lanePeriod s l)) = false → exec (.groupFetch port g) s = .next s)) ∧
  (∀ (s : State) (lane : Fin 64) (g : Nat), let l := lane.val
    let ps := laneSlots s l
    let t := airTime g (lanePeriod s l)
    let goes := laneRadio s l = true ∧ laneIsUp s l = true ∧ ps ≠ [] ∧ getF s (PRM_Q_STAT_STATE (l / 16)) ≠ 1 ∧ (getLane s l).framesFrom ≤ t ∧ inCycle s t = true
    (goes →
      let aps := ps.map fun p => 48 * (l / 16) + p
      let x := aps.zip (aps.map fun ap => smGet (fun _ => 0) s.txGroups (groupKey ap g))
      let n := 6 * ps.length
      let s0 := x.foldl (fun s x => cvuGroup s l 2 x.1 g (groupBits x.1 g x.2)) (runLane s l t)
      let b := (getLane s0 l).blocks
      let k := fitBlocks (laneFec s l) b (periodBits s l) - n
      let s1 := emit s0 (.frame l g (frameBlocks (x.map fun x => groupBits x.1 g x.2)) t)
      let s2 := x.foldl (fun s x => { s with sentGroups := smPut (fun _ => 0) (groupKey x.1 g) x.2 s.sentGroups, txGroups := smPut (fun _ => 0) (groupKey x.1 g) 0 s.txGroups }) s1
      let s3 := servePositions (setLane s2 l { getLane s2 l with blocks := b + n, base := t, baseBlk := b }) l k
      exec (.frameTransmit lane g) s = .next (setLane (emit s3 (timingFill s l (lineBits (laneFec s l) b (n + k)))) l { getLane s3 l with base := airTime (g + 1) (lanePeriod s l), baseBlk := b + n + k })) ∧
    (¬ goes → exec (.frameTransmit lane g) s = .next s)) ∧
  (∀ (fec : Bool) (blk bits n : Nat), fitBlocks fec blk bits = n → lineBits fec blk n ≤ bits ∧ bits < lineBits fec blk (n + 1)) ∧
  (∀ (s : State) (lane : Fin 64) (f : OrlFrame), let l := lane.val
    let q := l / 16
    (laneLive s l = false ∨ laneRadio s l = false ∨ isF s (LAN_STAT_BLOCK_LOCK l) = false → exec (.frameReceive lane f) s = .next s) ∧
    (laneLive s l = true → laneRadio s l = true → isF s (LAN_STAT_BLOCK_LOCK l) = true →
      let y := noteHeaders (if laneFec s l then countCodewords (atDt s f.dt) l f.errs else atDt s f.dt) l f.blocks
      let n := 6 * (laneSlots s l).length
      let ps := laneSlots y l
      let np := ps.length
      let m := f.blocks.length
      let first := f.blocks.take n
      let seqs := (List.range np).map fun i => bitsOf (groupOf np i (first.map (·.payload.toNat))) 364 8
      (takesRuns y l = false → exec (.frameReceive lane f) s = .next (downIfDue y l)) ∧
      (takesRuns y l = true → n = 0 ∨ m < n → exec (.frameReceive lane f) s = .next (downIfDue (countLane y l cntFraming m) l)) ∧
      (takesRuns y l = true → 0 < n → n ≤ m → m < 2 * n →
        (∀ g, frameGroup (now y) (lanePeriod y l) seqs = some g →
          exec (.frameReceive lane f) s = .next (downIfDue (countLane ((ps.zip (List.range np)).foldl (takeGroup first l q np g.toNat) y) l cntFraming (m - n)) l)) ∧
        (frameGroup (now y) (lanePeriod y l) seqs = none → exec (.frameReceive lane f) s = .next (downIfDue (countLane y l cntFraming (m - n)) l))))) ∧
  (∀ (s : State) (port : Fin 192) (g l : Nat), let q := port.val / 48
    let p := gangFirst s q (port.val % 48)
    portLane s q p = some l →
    (rxGroup s (48 * q + p) g = none → reached s (airTime g (lanePeriod s l)) = true → exec (.groupMissing port g) s = .next (putGroup s l q p g 0 false)) ∧
    (rxGroup s (48 * q + p) g ≠ none ∨ reached s (airTime g (lanePeriod s l)) = false → exec (.groupMissing port g) s = .next s))

/-- Observation captures and the random-access front end (spec/08_port_processing.md, spec/11_lanes.md, basis derived). A capture is requested so that its request leaves at least 20 us before its symbol, which lies in transmit intervals of its port, once a slot; its groups are taken as they come within its bound, and blocks left over are counted; complete, it gives EVM, slot and delay from the least residual over the delays (at the reference's own samples where the delay is 0; the interpolator is free, assumption 69), or NO_SIGNAL where the reference is zero; incomplete 50 us after its last group it sets MISSING. A PFE context is enabled where load and placement allow it, and otherwise refused with its number; a PRACH occasion whose groups have come or gone missing writes its output entry, once. -/
def Obligations.CapturesAndRandomAccess : Prop :=
  (∀ (s : State) (port : Fin 192) (slot l i : Nat), let q := port.val / 48
    let p := port.val % 48
    let t := (obsSymbol s q p slot).1
    let goes := observed s port.val slot = true ∧ laneIsUp s l = true ∧ leavesBy s l svcObsReq + 20000000 ≤ t ∧ ((getCaptures s port.val).any fun c => c.slot == slot) = false
    portLane s q p = some l → ((List.range 4).find? fun i => lanePort s l i == some p) = some i →
    (goes → let len := clampNat 1 128 (getF s (PFE_OBS_CTL_OBS_LEN q p))
      let r := lanePeriod s l
      let g := (t - dTx s q l p) * 768 / (r * 390625) / 18
      exec (.obsReq port slot) s = .next (queueService (setCaptures s port.val (getCaptures s port.val ++ [({ first := g, len := len, slot := slot, due := airTime (g + len - 1) r + dTx s q l p + 50000000 } : Capture)])) l svcObsReq
        (ctrlBlock 0x33 (i + 2 ^ 2 * (len - 1) + 2 ^ 10 * unsignedOf 46 g)))) ∧
    (¬ goes → exec (.obsReq port slot) s = .next s)) ∧
  (∀ (s : State) (port : Fin 192), let q := port.val / 48
    let p := port.val % 48
    let late := fun (c : Capture) => !captureDone c && reached s c.due
    let s1 := fun (c : Capture) => setCaptures s port.val ((getCaptures s port.val).filter fun x => x.slot != c.slot)
    (∀ c, (getCaptures s port.val).find? late = some c → exec (.captureDeadline port) s = .next (setF (s1 c) (PFE_EVM_MISSING q p) 1)) ∧
    ((getCaptures s port.val).find? late = none → exec (.captureDeadline port) s = .next s) ∧
    ((getCaptures s port.val).find? captureDone = none → exec (.evmMeasurement port) s = .next s) ∧
    (∀ c, (getCaptures s port.val).find? captureDone = some c →
      let x := sentSample s port.val
      let y := ((List.range c.len).flatMap fun i => obsSamples (smGet (fun _ => 0) c.got i)).map cqOf
      let power := ratSum ((List.range (18 * c.len)).map fun (k : Nat) => cqNorm (cqOf (x (18 * c.first + (k : Int)))))
      let r := match portLane s q p with | some l => lanePeriod s l | none => 1
      let best := bestDelay y x (18 * c.first)
      (power = 0 → exec (.evmMeasurement port) s = .next (setF (s1 c) (PFE_EVM_NO_SIGNAL q p) 1)) ∧
      (power ≠ 0 → exec (.evmMeasurement port) s = .next (setSF (setF (setF (setSF (s1 c) (PFE_EVM_EVM q p) (clampInt (-700) 100 (dbQ (best.1 / power)))) (PFE_EVM_VALID q p) 1) (PFE_EVM_SLOT_SLOT q p) (unsignedOf 32 c.slot))
        (PFE_EVM_DLY_TAU q p) (roundDiv (best.2 * r * 390625) (768 * 16)))) ∧
      (-32 ≤ best.2 ∧ best.2 ≤ 32 ∧ (best.2 = 0 → best.1 = residual y ((List.range y.length).map fun (k : Nat) => delayedRef x 0 (18 * c.first + (k : Int))))))) ∧
  (∀ (s : State) (lane : Fin 64) (hdr : DWord) (blocks : List OrlBlock) (p : Nat) (x : Capture), let l := lane.val
    let q := l / 16
    let c := hdr.toNat / 2 ^ 8
    let i := bitsOf c 2 7
    let g := x.first + i
    let y := noteHeaders s l blocks
    let v := ((blocks.take 6).zip (List.range 6)).foldl (fun a b => a + b.1.payload.toNat * 2 ^ (64 * b.2)) 0
    let left := fun t : State => downIfDue (countLane t l cntFraming (blocks.length - 6)) l
    takesRuns s l = true → lanePort y l (bitsOf c 0 2) = some p →
    (getCaptures s (48 * q + p)).find? (fun x => decide (i < x.len) && bitsOf c 24 32 == unsignedOf 32 (x.first + i) && decide (now s ≤ x.due)) = some x →
    6 ≤ blocks.length → laneSlots s l = [] ∨ blocks.length < 6 + 6 * (laneSlots s l).length → (blocks.take 6).any blockErrored = false →
    (groupGood (48 * q + p) g v = true → exec (.obs lane hdr blocks) s = .next (left (setCaptures y (48 * q + p)
      ((getCaptures s (48 * q + p)).map fun y => if y.slot = x.slot then { x with got := smPut (fun _ => 0) i (v + 1) x.got } else y)))) ∧
    (groupGood (48 * q + p) g v = false → exec (.obs lane hdr blocks) s = .next (left (countLane y l cntCrc 1)))) ∧
  (∀ (s : State) (lane : Fin 64) (hdr : DWord) (blocks : List OrlBlock), (takesRuns s lane.val = false → exec (.obs lane hdr blocks) s = .next s) ∧
    (takesRuns s lane.val = true → blocks.length < 6 →
      exec (.obs lane hdr blocks) s = .next (downIfDue (countLane (noteHeaders s lane.val blocks) lane.val cntFraming blocks.length) lane.val))) ∧
  (∀ (s : State) (q : Fin 4) (n : Fin 32), quadDark s q.val = false →
    let off := isF s (PFE_CTX_CTL_EN q.val n.val) = false
    let bad := 1572864 < pfeLoads s q.val + pfeLoad s q.val n.val ∨ inCsm (getF s (PFE_CTX_OUT_ADDR q.val n.val)) (pfeNbuf s q.val n.val * pfeEntry s q.val n.val) = false
    (off → bad → exec (.pfeContextEnable q n) s = .next (refresh (setF (setF s (PFE_STAT_REFUSED q.val) 1) (PFE_STAT_CTX q.val) n.val) (qSrc q.val 187))) ∧
    (off → ¬ bad → let ci := getF s (PFE_CTX_CTL_CI q.val n.val)
      let s1 := setF s (PFE_CTX_CTL_EN q.val n.val) 1
      exec (.pfeContextEnable q n) s = .next { setF s1 (PFE_LOAD_POINTS q.val) (pfeLoads s1 q.val) with
        pfeFrom := smPut (fun _ => 0) (32 * q.val + n.val) (slotBoundary (ciMu s ci) (ciOfs s ci) (firstSlotAt (ciMu s ci) (ciOfs s ci) (now s))) s.pfeFrom }) ∧
    (¬ off → exec (.pfeContextEnable q n) s = .next s)) ∧
  (∀ (s : State) (q : Fin 4) (n : Fin 32) (i : Fin 8) (j : Nat), let x := pfeTimes s q.val n.val i.val j
    let goes := isF s (PFE_CTX_CTL_EN q.val n.val) = true ∧ i.val < clampNat 1 8 (getF s (PFE_CTX_SCHED_NOCC q.val n.val)) ∧ smGet (fun _ => 0) s.pfeFrom (32 * q.val + n.val) ≤ x.1 ∧ (∀ p ∈ pfePorts s q.val n.val, pfeGathered s q.val x.1 x.2 (gangFirst s q.val p) = true)
    (goes → let f := pfeFormat s q.val n.val
      let nrep := pfeNrep s q.val n.val
      let ports := (pfePorts s q.val n.val).map fun p => gangFirst s q.val p
      exec (.prachOccasion q n i j) s = .next (pfeOutput s q.val n.val (pfeTransforms f nrep) ports.length x.1 (ports.foldl (pfePort s q.val n.val f nrep x.1 x.2) (engOpen s, [], 0)))) ∧
    (¬ goes → exec (.prachOccasion q n i j) s = .next s))

/-- Lanes: enabling, bring-up, failure and the spare (spec/11_lanes.md, spec/02_larkspur_time.md, spec/15_faults.md, basis derived). LAN_CTL.EN starts TRAINING and a calibration, with CAL_DONE 0, unless a test of R398 refuses it with CAP_ERR; disabling returns the lane to electrical idle at once and ends the calibration, and its MODE 4 group trains again. Block lock, FEC lock (three codewords in a row that decode, in MODE 4 within the skew), a good peer and a calibration lead to UP, in MODE 4 of the whole group, or to STANDBY on the spare, with the profiles due and frames from 10 us on; 50 ms without it is FAILED. A cause of R421 takes an UP lane down: it is counted, reported and trains anew, and an automatic spare takes a covered lane over; SWITCH does so by request. -/
def Obligations.LanesComeUpAndGoDown : Prop :=
  (∀ (s : State) (lane : Fin 64), quadDark s (lane.val / 16) = false → let l := lane.val
    let q := l / 16
    let radio := laneRadio s l && !wouldSpare s l
    let ps := if laneOrl s l then writtenSlots s l else setBits 48 0 (getF s (LAN_FDPORTS_PORTS l))
    let clash := !wouldSpare s l && mappedElsewhere s l (if laneOrl s l then withGang (min 9 (getF s (LAN_RATE_RATE l))) ps else ps)
    let s1 := if clash then setF s (LAN_STAT_MAP_ERR l) 1 else s
    let bad := (radio && (clash || !gangOk s l || !capacityOk s l ps.length)) = true
    (isF s (LAN_CTL_EN l) = true → exec (.laneEnable lane) s = .next s) ∧
    (isF s (LAN_CTL_EN l) = false → bad → exec (.laneEnable lane) s = .next (refreshLane (setF s1 (LAN_STAT_CAP_ERR l) 1) l)) ∧
    (isF s (LAN_CTL_EN l) = false → ¬ bad →
      let s2 := setF (setF (setF (emit s1 (.lineStart l)) (LAN_CTL_EN l) 1) (LKS_LANE_STAT_CAL_DONE q (l % 16)) 0) (LKS_LANE_STAT_RTT_VALID q (l % 16)) 0
      exec (.laneEnable lane) s = .next (setLaneState (setLane s2 l { getLane s2 l with
        began := now s, gave := false, took := none, blocks := 0, base := now s, baseBlk := 0, nextMk := 0, svc := [], markers := [], rtts := [], rttUsed := none, cal := true, ctl := none,
        profDue := 0, goodCw := 0, uncAt := [], badHdr := [] }) l 1))) ∧
  (∀ (s : State) (lane : Fin 64), quadDark s (lane.val / 16) = false → let l := lane.val
    (isF s (LAN_CTL_EN l) = true → let s1 := dropLink (setF (runLane s l (now s)) (LAN_CTL_EN l) 0) l
      let s2 := emit (setF (setF s1 (LAN_STAT_SERVING l) 0) (LAN_STAT_SERVES l) 0) (.electricalIdle l)
      let s3 := setLaneState (setLane s2 l { getLane s2 l with took := none, svc := [], ctl := none, profDue := 0, cal := false }) l 0
      (getF s (LAN_CTL_MODE l) ≠ 4 → exec (.laneDisable lane) s = .next s3) ∧
      (getF s (LAN_CTL_MODE l) = 4 → exec (.laneDisable lane) s =
        .next (((ethGroup l).filter fun m => m != l && getF s (LAN_CTL_MODE m) == 4).foldl (fun s m => if getF s (LAN_STAT_STATE m) = 2 then
          setLaneState (setLane (dropLink s m) m { getLane s m with began := now s }) m 1 else s) s3))) ∧
    (isF s (LAN_CTL_EN l) = false → exec (.laneDisable lane) s = .next s)) ∧
  (∀ (s : State) (lane : Fin 64), let l := lane.val
    (laneTraining s l = true → exec (.blockLock lane) s = .next (setF s (LAN_STAT_BLOCK_LOCK l) 1)) ∧
    (laneTraining s l = false → exec (.blockLock lane) s = .next s) ∧
    (∀ skew : Nat, let held := (laneOrl s l = true → 3 ≤ (getLane s l).goodCw) ∧ (getF s (LAN_CTL_MODE l) = 4 → skew ≤ 180000)
      (laneTraining s l = true → laneFec s l = true → isF s (LAN_STAT_BLOCK_LOCK l) = true → held → exec (.fecLock lane skew) s = .next (setF s (LAN_STAT_FEC_LOCK l) 1)) ∧
      (laneTraining s l = false ∨ laneFec s l = false ∨ isF s (LAN_STAT_BLOCK_LOCK l) = false ∨ ¬ held → exec (.fecLock lane skew) s = .next s))) ∧
  (∀ (s : State) (lane : Fin 64) (margin : Byte), let l := lane.val
    let up := fun (s : State) (m : Nat) => setLaneState (setF (setF (setLane s m { getLane s m with framesFrom := now s + 10000000, profDue := 255, lastMark := now s }) (LAN_RXA_ADAPTED m) 1) (LAN_RXA_MARGIN m) margin.toNat) m
      (if isSpare s m && (getLane s m).took.isNone then 3 else 2)
    (laneTraining s l = true → getF s (LAN_CTL_MODE l) ≠ 4 → lanePassed s l = true → exec (.laneUp lane margin) s = .next (up s l)) ∧
    (laneTraining s l = true → getF s (LAN_CTL_MODE l) = 4 → (∀ m ∈ ethGroup l, isF s (LAN_CTL_EN m) = true ∧ getF s (LAN_CTL_MODE m) = 4 ∧ lanePassed s m = true) →
      exec (.laneUp lane margin) s = .next ((ethGroup l).foldl up s)) ∧
    (laneTraining s l = false → exec (.laneUp lane margin) s = .next s) ∧
    (getF s (LAN_CTL_MODE l) ≠ 4 → lanePassed s l = false → exec (.laneUp lane margin) s = .next s) ∧
    (getF s (LAN_CTL_MODE l) = 4 → (∃ m ∈ ethGroup l, isF s (LAN_CTL_EN m) = false ∨ getF s (LAN_CTL_MODE m) ≠ 4 ∨ lanePassed s m = false) → exec (.laneUp lane margin) s = .next s) ∧
    (laneLive s l = true → getF s (LAN_STAT_STATE l) = 1 → reached s ((getLane s l).began + 50000000000) = true → exec (.laneBringupTimeout lane) s = .next (setLaneState s l 4)) ∧
    (laneLive s l = false ∨ getF s (LAN_STAT_STATE l) ≠ 1 ∨ reached s ((getLane s l).began + 50000000000) = false → exec (.laneBringupTimeout lane) s = .next s)) ∧
  (∀ (s : State) (lane : Fin 64) (cause : Fin 4), let l := lane.val
    let fec := laneFec s l
    let ok := match cause with
      | 0 => laneRadio s l = false ∨ 16 ≤ (getLane s l).badHdr.length
      | 1 => laneRadio s l = true ∧ reached s ((getLane s l).lastMark + (ceilDiv (49152 * (if fec then 70 else 66) * 1000000000000) (lineRate s l) : Nat)) = true
      | 2 => isF s (LAN_STAT_PEER_ERR l) = true
      | 3 => fec = true ∧ (laneRadio s l = false ∨ 64 < (getLane s l).uncAt.length)
    let up := getF s (LAN_STAT_STATE l) = 2 ∨ getF s (LAN_STAT_STATE l) = 3
    (up → ok →
      let s1 := countLane (setF s (LAN_STAT_DOWN l) 1) l cntDown 1
      let lanes := if getF s (LAN_CTL_MODE l) = 4 then (ethGroup l).filter fun m => isF s (LAN_CTL_EN m) && getF s (LAN_CTL_MODE m) == 4 else [l]
      let s2 := lanes.foldl (fun s m => setLaneState (setLane (dropLink s m) m { getLane s m with began := now s, svc := [], ctl := none, goodCw := 0, uncAt := [], badHdr := [] }) m 1) s1
      let s3 := report s2 { at_ := now s, source := qSrc (l / 16) (168 + l % 16), level := 2, cls := 0x08, quad := l / 16, addr := l % 16 }
      exec (.laneDown lane cause) s = .next (match spareOf s (l / 16) with
        | some sp => if isF s (LAN_SPARE_AUTO sp) then trigger s3 sp l else s3
        | none => s3)) ∧
    (¬ up ∨ ¬ ok → exec (.laneDown lane cause) s = .next s)) ∧
  (∀ (s : State) (lane : Fin 64), quadDark s (lane.val / 16) = false → let l := lane.val
    exec (.switch lane) s = .next (if isSpare s l then trigger s l (l / 16 * 16 + getF s (LAN_SPARE_REQ_LANE l)) else s)) ∧
  (∀ (s : State) (sp l : Nat),
    (getF s (LAN_STAT_STATE sp) = 3 → coversLane s sp l = true → getTrig s (l / 16) = none → trigger s sp l = setTrig s (l / 16) (some (l, now s, ctPs s))) ∧
    (getF s (LAN_STAT_STATE sp) ≠ 3 ∨ coversLane s sp l = false → trigger s sp l = s))

/-- Lanes: markers, round trips, control messages and the management queue (spec/11_lanes.md, spec/02_larkspur_time.md, basis derived). Service positions of a live radio lane carry the marker that falls due every 16,384 blocks with its stamp, kept among the last 16, else what waits, else IDLE blocks; four blocks in order within 2,048, none errored, with a good CRC16 are a marker: one of the right lane makes the peer good, another lane's sets PEER_ERR, and one that echoes a marker kept gives a round-trip value; a bad one is counted. CTL blocks assemble a message, blocks of no type are counted. A due profile is sent. The management queue sends, pops and takes data. -/
def Obligations.LanesCarryMarkersAndMessages : Prop :=
  (∀ (s : State) (lane : Fin 64) (dt : Nat), let l := lane.val
    let s1 := atDt s dt
    (sendsFrames s1 l = false → exec (.markerSend lane dt) s = .next (runLane s1 l (now s1))) ∧
    (sendsFrames s1 l = true → exec (.markerSend lane dt) s = .next s1) ∧
    (laneLive s l = false ∨ laneRadio s l = false → runLane s l (now s) = s)) ∧
  (∀ (s : State) (l : Nat), smWf (fun _ => ({} : LaneHw)) s.laneHw = true → let h := getLane s l
    let t := h.base + (ceilDiv (lineBits (laneFec s l) h.baseBlk (h.blocks - h.baseBlk) * 1000000000000) (lineRate s l) : Nat)
    let body := l % 16 + 2 ^ 8 * (h.mseq % 2 ^ 16) + markerStamp t 24 + 2 ^ 96 * (getR s (LKS_LANE_TXD (l / 16) (l % 16))).toNat
    let v := body + 2 ^ 184 * markerCrc body
    let mk := fun k => ctrlBlock (0x78 + k) (bitsOf v (56 * k) 56)
    (16384 * h.nextMk ≤ h.blocks → h.blocks < 16384 * (h.nextMk + 1) → servePositions s l 1 = emit (setLane s l { h with
      mseq := (h.mseq + 1) % 2 ^ 16, markers := ((h.mseq, t) :: h.markers).take 16, nextMk := h.nextMk + 1, blocks := h.blocks + 1, svc := [(0, mk 1), (0, mk 2), (0, mk 3)] ++ h.svc }) (.block l (mk 0))) ∧
    (∀ x rest, h.blocks < 16384 * h.nextMk → h.svc = x :: rest → servePositions s l 1 = emit (setLane s l { h with svc := rest, blocks := h.blocks + 1 }) (.block l x.2)) ∧
    (∀ n, h.svc = [] → 0 < n → h.blocks + n ≤ 16384 * h.nextMk → servePositions s l n = emit (setLane s l { h with blocks := h.blocks + n }) (.idleBlocks l n))) ∧
  (∀ (s : State) (lane : Fin 64) (dt : Nat) (mks : List MarkBlock), let l := lane.val
    let s1 := atDt s dt
    let bits := (mks.zip (List.range 4)).foldl (fun a x => a + x.1.payload.toNat / 2 ^ 8 * 2 ^ (56 * x.2)) 0
    let good := (mks.map fun x => x.payload.toNat % 2 ^ 8) = [0x78, 0x79, 0x7A, 0x7B] ∧ (∀ x ∈ mks, x.errored = false ∧ x.after ≤ 2048) ∧ bitOf bits 6 = 1 ∧ bitsOf bits 184 16 = markerCrc (bits % 2 ^ 184)
    let live := laneLive s l = true ∧ laneRadio s l = true ∧ isF s (LAN_STAT_BLOCK_LOCK l) = true ∧ (laneFec s l = true → isF s (LAN_STAT_FEC_LOCK l) = true)
    let y := setLane s1 l { getLane s l with lastMark := now s1 }
    let s2 := if bitsOf bits 0 6 = l % 16 then setF y (LAN_STAT_PEER_OK l) 1 else refreshLane (setF y (LAN_STAT_PEER_ERR l) 1) l
    let hit := (getLane s l).markers.find? fun m => m.1 == bitsOf bits 96 16
    (¬ live → exec (.markerReceive lane dt mks) s = .next s) ∧
    (live → ¬ good → exec (.markerReceive lane dt mks) s = .next (countLane s1 l cntMarker 1)) ∧
    (live → good → hit = none → exec (.markerReceive lane dt mks) s = .next (downIfDue s2 l)) ∧
    (live → good → ∀ m, hit = some m →
      exec (.markerReceive lane dt mks) s = .next (downIfDue (takeRtt s2 l ((now s1 - m.2) % (2 ^ 32 * psSec) - (stampAt bits 24 - stampAt bits 112))) l))) ∧
  (∀ (s : State) (l : Nat) (rtt : Int), let h := getLane s l
    let vs := (rtt :: h.rtts).take 256
    let s1 := setLane s l { h with rtts := vs }
    let f := roundDiv (vs.foldl (· + ·) 0) 256
    let s2 := setSF (setF s1 (LKS_LANE_STAT_RTT_VALID (l / 16) (l % 16)) 1) (LKS_LANE_RTT_RTT_F (l / 16) (l % 16)) f
    (vs.length < 256 → takeRtt s l rtt = s1) ∧
    (256 ≤ vs.length → h.rttUsed = none → takeRtt s l rtt = setLane s2 l { getLane s2 l with rttUsed := some f }) ∧
    (256 ≤ vs.length → ∀ u, h.rttUsed = some u → takeRtt s l rtt = if 10000 < (f - u).natAbs then refresh (setF s2 (LKS_LANE_STAT_JUMP (l / 16) (l % 16)) 1) (qSrc (l / 16) 186) else s2)) ∧
  (∀ (s : State) (lane : Fin 64) (payload : DWord), let l := lane.val
    let t := payload.toNat % 2 ^ 8
    laneLive s l = true → laneRadio s l = true →
    (t = 0x4B → exec (.ctl lane payload) s = .next (takeFragment s l (payload.toNat / 2 ^ 8))) ∧
    (t ≠ 0x4B → knownType t = true → exec (.ctl lane payload) s = .next s) ∧
    (knownType t = false → exec (.ctl lane payload) s = .next (countLane s l cntFraming 1))) ∧
  (∀ (s : State) (lane : Fin 64) (k : Fin 8), let l := lane.val
    let h := getLane s l
    (laneIsUp s l = true → laneRadio s l = true → bitOf h.profDue k.val = 1 →
      exec (.profile lane k) s = .next (sendCtl (setLane s l { h with profDue := andNot h.profDue (2 ^ k.val) }) l (profileMessage s k.val))) ∧
    (laneIsUp s l = false ∨ laneRadio s l = false ∨ bitOf h.profDue k.val ≠ 1 → exec (.profile lane k) s = .next s)) ∧
  (∀ (s : State) (lane : Fin 64) (v : Word), quadDark s (lane.val / 16) = false → let l := lane.val
    let h := getLane s l
    let m := h.mqTx.take (getF s (LAN_MQ_TXCTL_LEN l))
    let s1 := setLane s l { h with mqTx := [] }
    exec (.mqSend lane) s = .next (if laneIsUp s l = false ∨ m = [] ∨ (lanePhx s l).isSome = true then s1
      else if laneOrl s l then (if m.length ≤ 1024 ∧ 0x80 ≤ leNat (m.take 1) then sendCtl s1 l m else s1)
      else sendFrame s1 l (addTag s l m)) ∧
    exec (.mqRxPop lane) s = .next (setLane s l { h with mqRx := h.mqRx.tail, mqPos := 0 }) ∧
    exec (.mqTxData lane v) s = .next (if 9600 < h.mqTx.length + 4 then s else setLane s l { h with mqTx := h.mqTx ++ leBytes 4 v.toNat }) ∧
    exec (.lanCntClr lane) s = .next ((List.range 11).foldl (fun s i => setF s (LAN_CNT_COUNT l i) 0) s))

/-- The Ethernet role of a lane (spec/11_lanes.md, spec/08_port_processing.md, spec/02_larkspur_time.md, basis derived). On an UP Ethernet lane a frame with a bad FCS is counted, one above MTU dropped and counted, and any other passes the check-value units that snoop the lane and is handled by the first row of R409 that matches it, but a PTP frame to be forwarded is dropped and counted until ARM is 1 and where it is invalid; an eCPRI message is sent in a frame with the lane's address and tag; U-plane messages are taken, late ones counted and leaving zeros, and a one-way delay request answered. The U-plane and C-plane of a port's entries are sent for a symbol. A forwarded frame leaves its egress lane unchanged but for the residence time of a PTP event message, which is dropped above 1 ms. On a lane that is not UP nothing is received. -/
def Obligations.EthernetLanesHandleFrames : Prop :=
  (∀ (s : State) (lane : Fin 64) (dt : Nat) (bytes : List Byte) (fcsOk stampOk : Bool), let l := ethLane s lane.val
    (ethUp s l = false → exec (.ethernetFrameReceive lane dt bytes fcsOk stampOk) s = .next s) ∧
    (ethUp s l = true → fcsOk = false → exec (.ethernetFrameReceive lane dt bytes fcsOk stampOk) s = .next (countLane s l cntCrc 1)) ∧
    (ethUp s l = true → fcsOk = true → clampNat 1500 9600 (getF s (LAN_ETH_MTU l)) < bytes.length → exec (.ethernetFrameReceive lane dt bytes fcsOk stampOk) s = .next (countLane s l cntDrop 1)) ∧
    (ethUp s l = true → fcsOk = true → bytes.length ≤ clampNat 1500 9600 (getF s (LAN_ETH_MTU l)) → exec (.ethernetFrameReceive lane dt bytes fcsOk stampOk) s = .next (handleFrame (cvuFrame (atDt s dt) l 1 bytes) l stampOk bytes))) ∧
  (∀ (s : State) (l : Nat) (stampOk : Bool) (raw : List Byte), let mac := beAt raw 0 6
    let bs := if isF s (LAN_ETH_VLAN_EN l) && beAt raw 12 2 == 0x8100 then raw.take 12 ++ raw.drop 16 else raw
    let t := beAt bs 12 2
    let msg := bs.drop 14
    let mine := (mac = getF s (LAN_MAC_LO_MAC_LO l) + 2 ^ 32 * getF s (LAN_MAC_HI_MAC_HI l) ∨ mac = 0xFFFFFFFFFFFF ∨ mac = 0x011B19000000 ∨ mac = 0x0180C200000E) ∧ isF s (LAN_ETH_MQ_OTHER l) = true
    let own := getF s (LAN_MAC_LO_MAC_LO l) + 2 ^ 32 * getF s (LAN_MAC_HI_MAC_HI l)
    let ours := (ptpOffset false bs).isSome = true ∧ (t = 0x88F7 ∨ beAt bs 0 6 = own)
    (∀ n, fwdEntry s l mac = some n →
      (∀ o, ptpOffset (isF s (LAN_ETH_VLAN_EN l)) raw = some o → let bad := ptpInvalid s (ptpFormed raw o) stampOk (beAt raw (o + 4) 1) = true
        (isF s LKS_CTL_ARM = false → handleFrame s l stampOk raw = addF s LKS_PTP_DROP_UNARMED 1) ∧
        (isF s LKS_CTL_ARM = true → bad → handleFrame s l stampOk raw = addF s LKS_PTP_DROP_INVALID 1) ∧
        (isF s LKS_CTL_ARM = true → ¬ bad → handleFrame s l stampOk raw = forward s l n raw)) ∧
      (ptpOffset (isF s (LAN_ETH_VLAN_EN l)) raw = none → handleFrame s l stampOk raw = forward s l n raw)) ∧
    (fwdEntry s l mac = none →
      (ours → handleFrame s l stampOk raw = s) ∧
      (¬ ours → t = 0xAEFE → beAt msg 1 1 = 0 → uEnts s l msg ≠ [] → handleFrame s l stampOk raw = uPlane s l msg) ∧
      (¬ ours → t = 0xAEFE → beAt msg 1 1 = 5 → handleFrame s l stampOk raw = oneWayDelay s l msg) ∧
      (¬ ours → t = 0x8809 → beAt msg 0 1 = 0x0A → handleFrame s l stampOk raw = mqPush s l bs) ∧
      (¬ ours → t ≠ 0xAEFE → t ≠ 0x8809 → (mine → handleFrame s l stampOk raw = mqPush s l bs) ∧ (¬ mine → handleFrame s l stampOk raw = countLane s l cntDrop 1)))) ∧
  (∀ (s : State) (lane : Fin 64) (dt : Nat) (bytes : List Byte), let l := ethLane s lane.val
    (ethUp s l = true → exec (.uPlaneReceive lane dt bytes) s = .next (uPlane (cvuEcpri (atDt s dt) l bytes) l bytes)) ∧
    (ethUp s l = true → beAt bytes 5 1 ≤ 1 → let x := cvuEcpri (atDt s dt) l bytes
      let t := now x - getSF x (LKS_LANE_RXD_DL_RX (l / 16) (l % 16))
      exec (.oneWayDelayRequest lane dt bytes) s = .next (sendEcpri x l (bytes.take 5 ++ beBytes 1 2 ++ beBytes 6 (secOf t) ++ beBytes 4 (nsOf t) ++ beBytes 8 0 ++ bytes.drop 24) (now x))) ∧
    (ethUp s l = true → 1 < beAt bytes 5 1 → exec (.oneWayDelayRequest lane dt bytes) s = .next (countLane (cvuEcpri (atDt s dt) l bytes) l cntDrop 1)) ∧
    (ethUp s l = false → exec (.uPlaneReceive lane dt bytes) s = .next s ∧ exec (.oneWayDelayRequest lane dt bytes) s = .next s)) ∧
  (∀ (s : State) (l : Nat) (msg : List Byte) (t : Int), let own := getF s (LAN_MAC_LO_MAC_LO l) + 2 ^ 32 * getF s (LAN_MAC_HI_MAC_HI l)
    let macs := (leBytes 6 (Config.ecpriPeer l)).reverse ++ (leBytes 6 own).reverse
    let tag := if isF s (LAN_ETH_VLAN_EN l) then [0x81, 0x00] ++ (leBytes 2 (getF s (LAN_ETH_VID l))).reverse else []
    let bs := macs ++ tag ++ [0xAE, 0xFE] ++ msg
    sendEcpri s l msg t = emit (cvuFrame s l 2 bs) (.ecpri l bs t)) ∧
  (∀ (s : State) (l : Nat) (bs : List Byte) (x : FdEnt) (n : Int), let h := beAt bs 8 4
    let sym := bitsOf h 0 6
    let ents := (uEnts s l bs).map fun x => (x, slotNamed s x.1 (bitsOf h 16 8) (bitsOf h 12 4) (bitsOf h 6 6))
    let bound := symEnd x.1.mu (ciOfs s x.1.ci) n sym + (x.1.drxMax : Int) * 1000 + lRx
    let s1 := noteSeq s l x.2.eaxc (beAt bs 6 1)
    (ents.find? fun x => entInForce s x.1 x.2 && filterOk x.1.2 (bitsOf h 24 4)) = some (x, n) →
    (lastSym x.1.mu < sym → uPlane s l bs = countLane s1 l cntFraming 1) ∧
    (sym ≤ lastSym x.1.mu → bound < now s → uPlane s l bs = takeSections l (l / 16) true x.2 n sym bs.length (bs.drop 12) (countLane s1 l cntLate 1)) ∧
    (sym ≤ lastSym x.1.mu → now s ≤ bound → uPlane s l bs = takeSections l (l / 16) false x.2 n sym bs.length (bs.drop 12) s1)) ∧
  (∀ (s : State) (port : Fin 192) (slot l : Nat) (sym : Fin 14), let q := port.val / 48
    let ents := (fdEnts s q).filter fun x => x.2.port == port.val % 48
    fdLane s q (port.val % 48) = some l →
    (ethUp s l = true → exec (.uPlaneSend port slot sym) s = .next (ents.foldl (sendSymbol q l slot sym.val) s) ∧ exec (.cPlaneSend port slot sym) s = .next (ents.foldl (sendCpSymbol q l slot sym.val) s)) ∧
    (ethUp s l = false → exec (.uPlaneSend port slot sym) s = .next s ∧ exec (.cPlaneSend port slot sym) s = .next s)) ∧
  (∀ (s : State) (lane : Fin 64) (dt : Nat), let l := ethLane s lane.val
    let s1 := atDt s dt
    ((getLane s l).egress = [] → exec (.forwardedFrameEgress lane dt) s = .next s) ∧
    (∀ bs t rest, (getLane s l).egress = (bs, t) :: rest → let s2 := setLane s1 l { getLane s l with egress := rest }
      (ethUp s l = false → exec (.forwardedFrameEgress lane dt) s = .next (countLane s2 l cntDrop 1)) ∧
      (ethUp s l = true → ptpOffset (isF s (LAN_ETH_VLAN_EN l)) bs = none → exec (.forwardedFrameEgress lane dt) s = .next (sendFrame s2 l bs)) ∧
      (ethUp s l = true → ∀ o, ptpOffset (isF s (LAN_ETH_VLAN_EN l)) bs = some o →
        (3 < bitsOf (beAt bs o 1) 0 4 → exec (.forwardedFrameEgress lane dt) s = .next (sendFrame s2 l bs)) ∧
        (bitsOf (beAt bs o 1) 0 4 ≤ 3 → psSec / 1000 < now s1 - t → exec (.forwardedFrameEgress lane dt) s = .next (addF s2 LKS_PTP_DROP_RESIDENCE 1)) ∧
        (bitsOf (beAt bs o 1) 0 4 ≤ 3 → now s1 - t ≤ psSec / 1000 → exec (.forwardedFrameEgress lane dt) s = .next (sendFrame s2 l (addResidence (isF s (LAN_ETH_VLAN_EN l)) bs o (stampUnits (now s1) - stampUnits t)))))))

/-- Attachments of a partition and what its design does through them (spec/13_phlox.md, spec/07_memory.md, basis derived). PHX_LANES and PHX_BW take effect only while IO_EN is 0; lanes that may not be attached read back 0 with ATT_ERR, shares not free leave SHARES with BW_REFUSED. With its I/O enabled a design reads and writes its DPA window and is answered an error elsewhere; an access that the host's copy of a line or an earlier access of the partition holds up waits, with its snoop sent. It writes TIL_MBOX and nothing else, fences once its earlier accesses are made, and exchanges blocks with its UP lanes, control blocks with their stamps. With its I/O off it does none of these. Its interrupt line sets USER. -/
def Obligations.PartitionsReachLanesMemoryAndTiles : Prop :=
  (∀ (s : State) (p : Fin 16) (att : BitVec 16), phxAlive s p.val = true → let asked := setBits 16 0 (att.toNat % 2 ^ 16)
    let kept := (asked.take 8).filter fun i => attachable s p.val (p.val / 4 * 16 + i)
    let s1 := setF s (PHX_LANES_ATT p.val) (kept.foldl (fun a i => a + 2 ^ i) 0)
    (isF s (PHX_CTL_IO_EN p.val) = true → exec (.phxLanesWrite p att) s = .next (refreshPhx (setF s (PHX_IRQ_ATT_ERR p.val) 1) p.val)) ∧
    (isF s (PHX_CTL_IO_EN p.val) = false → kept.length = asked.length → exec (.phxLanesWrite p att) s = .next s1) ∧
    (isF s (PHX_CTL_IO_EN p.val) = false → kept.length ≠ asked.length → exec (.phxLanesWrite p att) s = .next (refreshPhx (setF s1 (PHX_IRQ_ATT_ERR p.val) 1) p.val))) ∧
  (∀ (s : State) (p : Fin 16) (v : BitVec 4), phxAlive s p.val = true → let n := min 8 v.toNat
    let fits := n + heldByAll s (dramOf (p.val / 4)) + phloxShares s (p.val / 4) ≤ 272 + getF s (PHX_BW_SHARES p.val)
    (isF s (PHX_CTL_IO_EN p.val) = false → fits → exec (.phxBwWrite p v) s = .next (setF s (PHX_BW_SHARES p.val) n)) ∧
    (isF s (PHX_CTL_IO_EN p.val) = true ∨ ¬ fits → exec (.phxBwWrite p v) s = .next (refreshPhx (setF s (PHX_IRQ_BW_REFUSED p.val) 1) p.val))) ∧
  (∀ (s : State) (p : Fin 16) (dpa len : Nat) (bs : List Byte) (a : Nat), phxIo s p.val = true → a = dramFlat (p.val / 4) + dpa → let free := (s.waits.any fun x => behind x (.partition p.val)) = false
    (0 < len → phxWindowOk s p.val dpa len = true → free → waitsFor s a len false = none →
      exec (.partitionDramAccess p dpa none len) s = .next (emit (readBad s a len) (.toDesign p.val (rdBytes (readBad s a len) a len) (badRead (readBad s a len) a len)))) ∧
    (bs ≠ [] → phxWindowOk s p.val dpa bs.length = true → free → waitsFor s a bs.length true = none → exec (.partitionDramAccess p dpa (some bs) len) s = .next (wrMem s a bs)) ∧
    (0 < len → phxWindowOk s p.val dpa len = false → exec (.partitionDramAccess p dpa none len) s = .next (emit (addF s (PHX_CNT_ERR_ERRORS p.val) 1) (.toDesign p.val [] true))) ∧
    (bs ≠ [] → phxWindowOk s p.val dpa bs.length = false → exec (.partitionDramAccess p dpa (some bs) len) s = .next (emit (addF s (PHX_CNT_ERR_ERRORS p.val) 1) (.toDesign p.val [] true))) ∧
    (∀ x, 0 < len → phxWindowOk s p.val dpa len = true → free → waitsFor s a len false = some x →
      exec (.partitionDramAccess p dpa none len) s = .next (snoopLine { s with waits := s.waits ++ [⟨.partition p.val, a, len, none⟩] } x false)) ∧
    (∀ x, bs ≠ [] → phxWindowOk s p.val dpa bs.length = true → free → waitsFor s a bs.length true = some x →
      exec (.partitionDramAccess p dpa (some bs) len) s = .next (snoopLine { s with waits := s.waits ++ [⟨.partition p.val, a, bs.length, cleanWrite bs⟩] } x true)) ∧
    (0 < len → phxWindowOk s p.val dpa len = true → ¬ free → exec (.partitionDramAccess p dpa none len) s = .next { s with waits := s.waits ++ [⟨.partition p.val, a, len, none⟩] }) ∧
    (bs ≠ [] → phxWindowOk s p.val dpa bs.length = true → ¬ free →
      exec (.partitionDramAccess p dpa (some bs) len) s = .next { s with waits := s.waits ++ [⟨.partition p.val, a, bs.length, cleanWrite bs⟩] })) ∧
  (∀ (s : State) (p : Fin 16) (ofs : BitVec 24) (v : Word), phxIo s p.val = true →
    (∀ h, regAt (quadBase (p.val / 4) + ofs.toNat) = some h → h.spec.name = .TIL_MBOX → exec (.partitionMailboxWrite p ofs v) s = .next (postMbox s h.unit v.toNat)) ∧
    (∀ h, regAt (quadBase (p.val / 4) + ofs.toNat) = some h → h.spec.name ≠ .TIL_MBOX → exec (.partitionMailboxWrite p ofs v) s = .next (addF s (PHX_CNT_ERR_ERRORS p.val) 1)) ∧
    (regAt (quadBase (p.val / 4) + ofs.toNat) = none → exec (.partitionMailboxWrite p ofs v) s = .next (addF s (PHX_CNT_ERR_ERRORS p.val) 1)) ∧
    ((s.waits.any fun x => behind x (.fence p.val)) = false → exec (.partitionFence p) s = .next (emit s (.fenceDone p.val))) ∧
    ((s.waits.any fun x => behind x (.fence p.val)) = true → exec (.partitionFence p) s = .next { s with waits := s.waits ++ [⟨.fence p.val, dramFlat (p.val / 4), 0, none⟩] })) ∧
  (∀ (s : State) (p : Fin 16) (lane : Fin 64) (hdr : BitVec 2) (payload : DWord) (stamp : Bool) (dt : Nat), let s1 := emit (atDt s dt) (.phxBlock lane.val hdr.toNat payload.toNat)
    (phxLaneUp s p.val lane.val = true → exec (.partitionBlockTransmit p lane hdr payload stamp dt) s = .next (if stamp then emit s1 (.phxStamp p.val lane.val (now s1)) else s1)) ∧
    (phxLaneUp s p.val lane.val = false → exec (.partitionBlockTransmit p lane hdr payload stamp dt) s = .next s) ∧
    (∀ q, lanePhx s lane.val = some q → phxLaneUp s q lane.val = true →
      exec (.partitionBlockReceive lane hdr payload dt) s = .next (emit (atDt s dt) (.toPhx q lane.val hdr.toNat payload.toNat (if hdr = 2 then some (now (atDt s dt)) else none)))) ∧
    (lanePhx s lane.val = none → exec (.partitionBlockReceive lane hdr payload dt) s = .next s)) ∧
  (∀ (s : State) (p : Fin 18),
    (phxAlive s p.val = true → getF s (PHX_STAT_STATE p.val) = 1 → exec (.partitionInterrupt p) s = .next (refreshPhx (setF s (PHX_IRQ_USER p.val) 1) p.val)) ∧
    (phxAlive s p.val = false ∨ getF s (PHX_STAT_STATE p.val) ≠ 1 → exec (.partitionInterrupt p) s = .next s))

/-- Streams: power-up loads, run-time loads, swaps and restarts (spec/13_phlox.md, spec/14_power.md, basis derived). A power-up load puts the stream of the partition's slot into its active plane and the partition runs, or clears it and it is FAILED with the reason. GO starts a run-time load with bound 1,500 us + 1 ns L + 200 ns NREC and its T_SW; the reader's result makes it READY with its swap instant, or aborts it with reason and record; ABORT cancels it. At a boundary at or after the swap instant the shadow becomes the active plane, and a restart holds the reset for 16 fabric clocks. -/
def Obligations.PartitionsAreLoadedAndRestarted : Prop :=
  (∀ (s : State) (p : Fin 18) (r : NvsRead) (verify : Option Nat), phxAlive s p.val = true → getF s (PHX_STAT_STATE p.val) ≠ 1 →
    let b := { (noteNvs s r) with boot := { s.boot with parts := s.boot.parts ||| 2 ^ p.val } }
    let s0 := if s.boot.parts ≠ b.boot.parts ∧ b.boot.parts = 2 ^ 18 - 1 then bootStep b 4 150000 else b
    (∀ x i sig, readStream s p.val p.val true r verify = .error (x, i, sig) → exec (.powerUpLoad p r verify) s = .next (bootLoadFails (if sig then verifyFailed s0 4 else s0) p.val x)) ∧
    (∀ h recs, readStream s p.val p.val true r verify = .ok (h, recs) →
      let s1 := putBram (putFrames (clearPlane (setPhx s0 p.val { getPhx s0 p.val with swapped := [] }) p.val) recs) p.val recs
      exec (.powerUpLoad p r verify) s = .next (setF (setF (setF (setF s1 (PHX_STAT_STATE p.val) 1) (PHX_STAT_LOAD_ERR p.val) 0) (PHX_STAT_SLOT p.val) p.val) (PHX_ID_STREAM_ID p.val) h.id))) ∧
  (∀ (s : State) (p : Fin 18), phxAlive s p.val = true →
    (phxLoading s p.val = true → exec (.partitionLoadGo p) s = .next s) ∧
    (phxLoading s p.val = false →
      let n := getF s (PHX_LOAD_SLOT p.val)
      let h := streamHdr (rdBytes s (nvsFlat + slotBase s n) 256)
      let s1 := setF (setF (setF s (PHX_LOAD_STAT_STATE p.val) 1) (PHX_LOAD_STAT_REASON p.val) 0) (PHX_LOAD_STAT_RECORD p.val) 0
      exec (.partitionLoadGo p) s = .next (setPhx s1 p.val { getPhx s1 p.val with
        slot := n, bound := now s + ((1500000000 + 1000 * streamLen p.val h + 200000 * h.nrec : Nat) : Int),
        tsw := if p.val < 16 then some (quadSlotBoundary s (p.val / 4) (getF s (PHX_LOAD_SW_SLOT_NUM p.val)) (now s)) else none, swapAt := none, shadow := [] })) ∧
    exec (.restart p) s = .next (setPhx s p.val { getPhx s p.val with restart := true })) ∧
  (∀ (s : State) (p : Fin 18) (r : NvsRead) (verify : Option Nat), let x := getPhx s p.val
    let s0 := noteNvs s r
    (getF s (PHX_LOAD_STAT_STATE p.val) ≠ 1 → exec (.loadReady p r verify) s = .next s) ∧
    (getF s (PHX_LOAD_STAT_STATE p.val) = 1 →
      (∀ e i sig, readStream s p.val x.slot false r verify = .error (e, i, sig) → exec (.loadReady p r verify) s = .next (abortLoad (if sig then verifyFailed s0 4 else s0) p.val e i)) ∧
      (∀ h recs, readStream s p.val x.slot false r verify = .ok (h, recs) →
        exec (.loadReady p r verify) s = .next (setF (setPhx s0 p.val { x with shadow := recs, id := h.id, rst := h.rst, swapAt := some (match x.tsw with | some t => max t (nextQuadBoundary s (p.val / 4) x.bound) | none => nextMultiple x.bound 250000) }) (PHX_LOAD_STAT_STATE p.val) 2))) ∧
    (phxLoading s p.val = true → exec (.partitionLoadAbort p) s = .next (abortLoad s p.val 9 0)) ∧
    (phxLoading s p.val = false → exec (.partitionLoadAbort p) s = .next s)) ∧
  (∀ (s : State) (p : Nat) (t x : Int), let mhz := clampNat 100 500 (getF s (PHX_CLK_MHZ p))
    (getPhx s p).mhz = mhz → (getPhx s p).swapAt = some x →
    (x ≤ t → getF s (PHX_LOAD_STAT_STATE p) = 2 → (getPhx (swapPlane s p (getPhx s p)) p).restart = true →
      partitionBoundary s p t = setPhx (swapPlane s p (getPhx s p)) p { getPhx (swapPlane s p (getPhx s p)) p with restart := false, resetUntil := t + ((ceilDiv 16000000 mhz : Nat) : Int) }) ∧
    (x ≤ t → getF s (PHX_LOAD_STAT_STATE p) = 2 → (getPhx (swapPlane s p (getPhx s p)) p).restart = false → partitionBoundary s p t = swapPlane s p (getPhx s p)) ∧
    (t < x → (getPhx s p).restart = false → partitionBoundary s p t = s))

/-- Configuration scrubbing (spec/13_phlox.md, spec/07_memory.md, spec/15_faults.md, basis derived). Its control state stands in three copies: a hit that changes one copy is out-voted and counted, and the scrubber goes on as before. A running scrubber of a quadrant that is not dark reads its next frame: each codeword is decoded by the code of R254; a clean frame is left as decoded, a correctable one is corrected and an upset, counted and logged, and an uncorrectable one is repaired from its stream, or only logged where repair is off; the position goes on. A repair writes the record's data and is an upset; where the record cannot be read the frame stays as read, a care upset; more than 20 in a pass set LONG. The check at the end of a pass counts a match, halts the target on a mismatch, or is skipped; with no quadrant to check, Primrose checks the scrubber itself 8 ms after its last check, and it checks the hub scrubber; a mismatch halts the one checked. A check that is not due does nothing. GO clears HALTED and starts a new pass. -/
def Obligations.ScrubbersCorrectAndCheckEachOther : Prop :=
  (∀ (s : State) (z : Fin 5) (errs : List (Fin 16 × SymErr)) (hits : List (List ScrHit)) (far : Nat), let s0 := hits.foldl (scrVote z.val) s
    let os := frameOutcomes errs
    let broken := os.any fun o => o.1 == .uncorrectable || o.1 == .address
    let care := careHit s0 far errs
    let read := { s0 with frames := smPut (fun _ => 0) far (asRead (smGet (fun _ => 0) s.frames far) errs) s0.frames }
    let mended := { s0 with frames := smPut (fun _ => 0) far (decodedFrame (smGet (fun _ => 0) s.frames far) os) s0.frames }
    (z.val < 4 → quadDark s z.val = false) → nextFrame s0 z.val (getScr s0 z.val).pos = some far → scrRuns s0 z.val = true → (getScr s0 z.val).repair = none →
    (broken = false → (os.all fun o => o.1 == .clean) = true → exec (.scrubFrame z errs hits) s = .next (scrAdvance mended z.val far)) ∧
    (broken = false → (os.all fun o => o.1 == .clean) = false → exec (.scrubFrame z errs hits) s = .next (scrAdvance (upset mended z.val far care false) z.val far)) ∧
    (broken = true → isF s0 (SCR_CTL_REPAIR_EN z.val) = true → exec (.scrubFrame z errs hits) s = .next (setScr read z.val { getScr read z.val with pos := far, repair := some (far, care) })) ∧
    (broken = true → isF s0 (SCR_CTL_REPAIR_EN z.val) = false → exec (.scrubFrame z errs hits) s = .next (scrAdvance (scrLog read z.val far care false) z.val far))) ∧
  (∀ (s : State) (z : Fin 5) (errs : List (Fin 16 × SymErr)) (hits : List (List ScrHit)), let s0 := hits.foldl (scrVote z.val) s
    (z.val < 4 → quadDark s z.val = false) →
    nextFrame s0 z.val (getScr s0 z.val).pos = none ∨ scrRuns s0 z.val = false ∨ (getScr s0 z.val).repair.isSome = true → exec (.scrubFrame z errs hits) s = .next s0) ∧
  (∀ (s : State) (z : Nat) (h : ScrHit), let own := scrCtl s z
    let hit := hitCopy own h.copy.val [h]
    (hit ≠ own → scrVote z s [h] = addF s (SCR_VOTE_VOTES z) 1) ∧
    (hit = own → scrVote z s [h] = addF s (SCR_VOTE_VOTES z) 0)) ∧
  (∀ (s : State) (z : Fin 5) (r : NvsRead) (far : Nat) (care : Bool), let x := getScr s z.val
    let s0 := setScr (noteNvs s r) z.val { x with repair := none }
    x.repair = some (far, care) → scrRuns s z.val = true →
    (recordFor s (farPart far) far r = none → exec (.frameRepair z r) s = .next (scrAdvance (upset s0 z.val far true false) z.val far)) ∧
    (∀ v, recordFor s (farPart far) far r = some v →
      let s1 := addF { s0 with frames := smPut (fun _ => 0) far v s0.frames } (SCR_CNT_COUNT z.val 2) 1
      let s2 := setScr s1 z.val { getScr s1 z.val with repairs := x.repairs + 1 }
      exec (.frameRepair z r) s = .next (scrAdvance (upset (if 20 < x.repairs + 1 then refreshScr (setF s2 (SCR_STAT_LONG z.val) 1) z.val else s2) z.val far care true) z.val far))) ∧
  (∀ (s : State) (z : Fin 5) (res : Fin 3), let s1 := setScr s z.val { getScr s z.val with checkDue := false }
    let halted := fun (x : State) (n : Nat) => refreshScr (setF x (SCR_STAT_HALTED n) 1) n
    (checkDue s z.val = false → exec (.neighbourCheck z res) s = .next s) ∧
    (checkDue s z.val = true → (z.val < 4 → quadDark s z.val = false) →
      (∀ t, z.val < 4 → nbrTarget s z.val = some t → let s2 := setF s1 (SCR_NBR_TARGET z.val) t
        (res = 0 → exec (.neighbourCheck z res) s = .next (addF s2 (SCR_NBR_OK z.val) 1)) ∧
        (res = 1 → exec (.neighbourCheck z res) s = .next (halted (refreshScr (setF s2 (SCR_NBR_FAIL z.val) 1) z.val) t)) ∧
        (res = 2 → exec (.neighbourCheck z res) s = .next (addF s2 (SCR_NBR_SKIPPED z.val) 1))) ∧
      (z.val < 4 → nbrTarget s z.val = none → let s2 := setScr s1 z.val { getScr s1 z.val with primrose := now s }
        (res = 1 → exec (.neighbourCheck z res) s = .next (halted s2 z.val)) ∧ (res ≠ 1 → exec (.neighbourCheck z res) s = .next s2)) ∧
      (z.val = 4 → (res = 1 → exec (.neighbourCheck z res) s = .next (halted s1 4)) ∧ (res ≠ 1 → exec (.neighbourCheck z res) s = .next s1)))) ∧
  (∀ (s : State) (z : Fin 5),
    ((z.val = 4 ∨ (nbrTarget s z.val).isSome = true) → checkDue s z.val = (getScr s z.val).checkDue) ∧
    (z.val < 4 → nbrTarget s z.val = none → checkDue s z.val = reached s ((getScr s z.val).primrose + 8000000000))) ∧
  (∀ (s : State) (z : Fin 5), (z.val < 4 → quadDark s z.val = false) → exec (.scrGo z) s = .next (setScr (refreshScr (setF s (SCR_STAT_HALTED z.val) 0) z.val) z.val { primrose := (getScr s z.val).primrose }))

/-- Rails and operating points (spec/14_power.md, basis derived). A PMBus read is performed and its answer shown; a write of OPERATION, VOUT_MODE or VOUT_COMMAND is refused and nothing leaves; another write leaves with its data; a NAK, a fault that STATUS_WORD reports (Log 151: its bits are PMBus's) or an alert sets the rail's PMB_ERR. VOLTAGE_SETTLED takes VOUT and IOUT; within 1 % of the target it ends a change, beyond the bound it fails it, else it waits. A write of OP_REQ below a plan's point is stored and counted with PLAN_BOUND; one that must raise the point begins the raise, and a raise refused leaves OP_REQ at its old value; a dark quadrant ignores it. -/
def Obligations.RailsAndOperatingPoints : Prop :=
  (∀ (s : State) (nak : Bool) (d : BitVec 16), let r := getF s PRM_PMB_CMD_RAIL
    let c := getF s PRM_PMB_CMD_CODE
    let shown := setF (emit s (.pmbus r c none)) PRM_PMB_DATA_DATA d.toNat
    (isF s PRM_PMB_CMD_WRITE = true → (c = 1 ∨ c = 0x20 ∨ c = 0x21) → exec (.pmbusTransaction nak d) s = .next (setF s PRM_PMB_STAT_REFUSED 1)) ∧
    (isF s PRM_PMB_CMD_WRITE = true → ¬ (c = 1 ∨ c = 0x20 ∨ c = 0x21) → exec (.pmbusTransaction false d) s = .next (emit s (.pmbus r c (some (getF s PRM_PMB_DATA_DATA))))) ∧
    (isF s PRM_PMB_CMD_WRITE = true → ¬ (c = 1 ∨ c = 0x20 ∨ c = 0x21) →
      exec (.pmbusTransaction true d) s = .next (railError (setF (emit s (.pmbus r c (some (getF s PRM_PMB_DATA_DATA)))) PRM_PMB_STAT_NAK 1) r)) ∧
    (isF s PRM_PMB_CMD_WRITE = false → c = 0x79 ∧ statusFault d.toNat = true → exec (.pmbusTransaction false d) s = .next (railError shown r)) ∧
    (isF s PRM_PMB_CMD_WRITE = false → ¬ (c = 0x79 ∧ statusFault d.toNat = true) → exec (.pmbusTransaction false d) s = .next shown) ∧
    (isF s PRM_PMB_CMD_WRITE = false → exec (.pmbusTransaction true d) s = .next (railError (setF (emit s (.pmbus r c none)) PRM_PMB_STAT_NAK 1) r))) ∧
  (∀ (s : State) (rail : Fin 32), let e := setF s (PRM_RAIL_STAT_PMB_ERR rail.val) 1
    (rail.val < 8 → exec (.pmbAlert rail) s = .next (refresh e 873)) ∧
    (8 ≤ rail.val → exec (.pmbAlert rail) s = .next (refresh (setF e (PWR_Q_IRQ_PMB_ERR ((rail.val - 8) / 6)) 1) (qSrc ((rail.val - 8) / 6) 190)))) ∧
  (∀ (s : State) (rail : Fin 32) (v i : BitVec 16), let r := rail.val
    let s1 := setF (setF s (PRM_RAIL_TEL_VOUT r) v.toNat) (PRM_RAIL_TEL_IOUT r) i.toNat
    let t := getF s (PRM_RAIL_STAT_TARGET r)
    (smGet (fun _ => none) s.rails r = none → exec (.voltageSettled rail v i) s = .next s1) ∧
    (∀ c, smGet (fun _ => none) s.rails r = some c →
      let s2 := { (setF s1 (PRM_RAIL_STAT_CHANGING r) 0) with rails := smPut (fun _ => none) r none s1.rails }
      (((v.toNat : Int) - t).natAbs * 100 ≤ t → r < 8 → exec (.voltageSettled rail v i) s = .next s2) ∧
      (((v.toNat : Int) - t).natAbs * 100 ≤ t → 8 ≤ r → exec (.voltageSettled rail v i) s = .next (completeRaises s2 ((r - 8) / 6))) ∧
      (t < ((v.toNat : Int) - t).natAbs * 100 → reached s c.due = true → exec (.voltageSettled rail v i) s = .next (unsettled s1 r c)) ∧
      (t < ((v.toNat : Int) - t).natAbs * 100 → reached s c.due = false → exec (.voltageSettled rail v i) s = .next s1))) ∧
  (∀ (s : State) (k : Fin 32) (op : BitVec 3), let q := k.val / 8
    let v := min 5 op.toNat
    let mine := fun (x : OpRaise) => x.cluster == k.val && !x.forPlan
    let old := match s.raises.find? mine with | some x => x.oldReq | none => getF s (PWR_CL_CTL_OP_REQ k.val)
    let s1 := setF { s with raises := s.raises.filter fun x => !mine x } (PWR_CL_CTL_OP_REQ k.val) v
    (quadDark s q = true → exec (.opReqWrite k op) s = .next s) ∧
    (quadDark s q = false → v < (planOp s k.val).getD 0 → exec (.opReqWrite k op) s = .next (lowerOps (refuseCl s1 k.val 7) q)) ∧
    (quadDark s q = false → (planOp s k.val).getD 0 ≤ v → (raiseOp s1 k.val v false old).2 = false →
      exec (.opReqWrite k op) s = .next (lowerOps (raiseOp s1 k.val v false old).1 q)) ∧
    (quadDark s q = false → (planOp s k.val).getD 0 ≤ v → (raiseOp s1 k.val v false old).2 = true →
      exec (.opReqWrite k op) s = .next (lowerOps (setF (raiseOp s1 k.val v false old).1 (PWR_CL_CTL_OP_REQ k.val) old) q)))

/-- Cluster states (spec/14_power.md, basis derived). An idle cluster with no level wake event enters the deepest permitted state: GATE is held at once, its CSM cycle kept, NAP and SLEEP begin an entry, which is held 500 ns or 2,000 ns after its decision; a level event then up starts the wake. A wake ends in RUN, the CSM cycle at 0, within the limits of R484, the fall-back paths counted and the PLL shown swapped, and the mailbox values held are delivered; 16 µs after the request (Log 104, R484's limit with the power-good taken at the request) the cluster may be FAILED, counted, source 18 pulses, jobs with unended tasks on it fail with WAKE, the first of those tasks named, and its resources are lost. An edge event in the final 240 ns of an entry is lost and counted. RETRY starts one further attempt of a FAILED cluster. A dark quadrant ignores the host's writes. -/
def Obligations.ClustersSleepAndWake : Prop :=
  (∀ (s : State) (k : Fin 32),
    let may := quadDark s (k.val / 8) = false ∧ getF s (PWR_CL_STAT_STATE k.val) ≤ 1 ∧ clusterIdle s k.val = true ∧ levelWake s k.val = false
    (¬ may → exec (.clusterEntry k) s = .next s) ∧
    (may → deepest s k.val = none → exec (.clusterEntry k) s = .next s) ∧
    (may → deepest s k.val = some 0 → let s1 := if getF s (PWR_CL_STAT_STATE k.val) = 0 then passCsm s k.val else s
      exec (.clusterEntry k) s = .next (setCl (setF s1 (PWR_CL_STAT_STATE k.val) 1) k.val { getCl s1 k.val with need := false })) ∧
    (∀ d, may → deepest s k.val = some (d + 1) → exec (.clusterEntry k) s = .next (setCl (setF s (PWR_CL_STAT_STATE k.val) 4) k.val { getCl s k.val with need := false, entering := some (d + 2, now s) }))) ∧
  (∀ (s : State) (k : Fin 32) (st : Nat) (t : Int), (getCl s k.val).entering = some (st, t) →
    let e := t + (if st = 1 then 8000 else if st = 2 then 500000 else 2000000)
    let s1 := setCl (setF s (PWR_CL_STAT_STATE k.val) st) k.val { getCl s k.val with entering := none }
    let s2 := if st = 3 then retarget (sleepRaises s1 k.val) (k.val / 8) else s1
    0 < st → st ≤ 3 →
    (getF s (PWR_CL_STAT_STATE k.val) ≠ 4 ∨ reached s e = false → exec (.entryComplete k) s = .next s) ∧
    (getF s (PWR_CL_STAT_STATE k.val) = 4 → reached s e = true → levelWake s2 k.val = false → isF s2 (PWR_CL_CTL_LOCK k.val) = false → exec (.entryComplete k) s = .next s2) ∧
    (getF s (PWR_CL_STAT_STATE k.val) = 4 → reached s e = true → (levelWake s2 k.val = true ∨ isF s2 (PWR_CL_CTL_LOCK k.val) = true) →
      exec (.entryComplete k) s = .next (setCl (startWake s2 k.val) k.val { getCl (startWake s2 k.val) k.val with wake := some (max e (now s)) }))) ∧
  (∀ (s : State) (k : Fin 32), (getCl s k.val).entering = none → exec (.entryComplete k) s = .next s) ∧
  (∀ (s : State) (k : Fin 32) (path : Fin 3) (dt : Nat), let s0 := atDt s dt
    let c := getCl s k.val
    (c.wake = none → exec (.clusterWake k path dt) s = .next s) ∧
    (∀ t : Int, c.wake = some t →
      let e := now s0 - t
      let fits := (path = 0 ∧ 0 ≤ e ∧ e ≤ (if c.asleep = 3 then 12000000 else 8000000)) ∨ (path = 1 ∧ 8000000 < e ∧ e ≤ (if c.asleep = 3 then 20000000 else 16000000)) ∨ (path = 2 ∧ c.asleep = 3 ∧ 4000000 < e ∧ e ≤ 20000000)
      let s1 := setCl (setF s0 (PWR_CL_STAT_STATE k.val) 0) k.val { c with wake := none, retry := false, csmT := 0 }
      (¬ fits → exec (.clusterWake k path dt) s = .next s) ∧
      (fits → path = 0 → exec (.clusterWake k path dt) s = .next (deliverLatches (retarget (wakePoint s1 k.val) (k.val / 8)) k.val)) ∧
      (fits → path ≠ 0 → exec (.clusterWake k path dt) s =
        .next (deliverLatches (retarget (wakePoint (addF (setF s1 (PWR_CL_STAT_PLL k.val) (1 - getF s1 (PWR_CL_STAT_PLL k.val))) (PWR_CL_CNT_FALLBACK k.val) 1) k.val) (k.val / 8)) k.val)))) ∧
  (∀ (s : State) (k : Fin 32), let c := getCl s k.val
    (c.wake = none → exec (.wakeFailure k) s = .next s) ∧
    (∀ t : Int, c.wake = some t → reached s (t + 16000000) = false → exec (.wakeFailure k) s = .next s) ∧
    (∀ t : Int, c.wake = some t → reached s (t + 16000000) = true →
      let s1 := setCl (setF s (PWR_CL_STAT_STATE k.val) 6) k.val { c with wake := none }
      let s2 := intPulse (addF s1 (PWR_CL_CNT_FAILED k.val) 1) (clSrc k.val 18)
      let here := fun (j : Job) => j.nodes.filter fun n => n.cluster == k.val && n.st != .ended
      let s3 := mapJobs s2 (fun j => here j != []) fun j => failJob (now s2) ⟨now s2, 0x20, 0x43, (here j).foldl (fun a n => min a n.idx) 0x3FF⟩ j
      let s4 := report (resourceLost s3 (k.val / 8)) { at_ := now s, source := clSrc k.val 18, level := 1, cls := 0x07, action := 4, quad := k.val / 8, cluster := k.val % 8, context := [(getR s3 (PWR_CL_STAT k.val)).toNat, (getR s3 (PWR_CL_CNT k.val)).toNat] }
      (c.retry = false → exec (.wakeFailure k) s = .next s4) ∧ (c.retry = true → exec (.wakeFailure k) s = .next (startRetry s4 k.val)))) ∧
  (∀ (s : State) (k : Fin 32),
    (quadDark s (k.val / 8) = true → exec (.pulse k) s = .next s ∧ exec (.retry k) s = .next s) ∧
    (quadDark s (k.val / 8) = false →
      (getF s (PWR_CL_STAT_STATE k.val) = 4 → entryFinal s k.val = true → exec (.pulse k) s = .next (addF s (PWR_CL_LOST_LOST k.val) 1)) ∧
      (getF s (PWR_CL_STAT_STATE k.val) ≠ 4 ∨ entryFinal s k.val = false → exec (.pulse k) s = .next (wakeEvent s k.val 1)) ∧
      ((getCl s k.val).wake.isSome = true → exec (.retry k) s = .next (setCl s k.val { getCl s k.val with retry := true })) ∧
      ((getCl s k.val).wake = none → getF s (PWR_CL_STAT_STATE k.val) = 6 → exec (.retry k) s = .next (setCl s k.val { getCl s k.val with wake := some (now s), retry := false })) ∧
      ((getCl s k.val).wake = none → getF s (PWR_CL_STAT_STATE k.val) ≠ 6 → exec (.retry k) s = .next s)))

/-- Quadrant states and reinitialisation (spec/14_power.md, spec/15_faults.md, basis derived). A write of TARGET asks for ACTIVE, DORMANT or OFF: refused with the first refuser that applies, or begun, OFF after a quadrant reset; from OFF a request for ACTIVE boots, or is refused with THERMAL. An entry into DORMANT is held 50 µs and OFF 1 ms after its decision. A wake ends in ACTIVE. A boot ends in ACTIVE, or in OFF with BOOT_FAIL and source 808 where it fails or takes more than 50 ms. PRM_Q_CTL.RESET, the watchdog and a bad admission state start a reinitialisation with causes 5, 1 and 2; its end makes the quadrant ACTIVE or OFF. The records of its jobs go out in their order through the hub's mirror of the rings while the host link is up and in no recovery, one of a function that was reset is lost, and one written after its deadline is counted. -/
def Obligations.QuadrantsSleepBootAndReset : Prop :=
  (∀ (s : State) (q : Fin 4) (v : BitVec 2), let s1 := setF s (PRM_Q_CTL_TARGET q.val) (min 2 v.toNat)
    let st := getF s (PRM_Q_STAT_STATE q.val)
    (v = 0 → st = 2 → exec (.quadrantTargetWrite q v) s = .next (bootQuad s1 q.val)) ∧
    (v = 0 → (st = 1 ∨ (st = 3 ∧ (getQuad s q.val).toOff = false)) → exec (.quadrantTargetWrite q v) s = .next (requestActive s1 q.val)) ∧
    (v = 0 → st ≠ 2 → st ≠ 1 → (st ≠ 3 ∨ (getQuad s q.val).toOff = true) → exec (.quadrantTargetWrite q v) s = .next s1) ∧
    (v ≠ 0 → (st = 0 ∨ (st = 1 ∧ v ≠ 1)) → ∀ c, quadRefuser s q.val (v != 1) = some c → exec (.quadrantTargetWrite q v) s = .next (refuseQuad s1 q.val c)) ∧
    (v = 1 → st = 0 → quadRefuser s q.val false = none →
      exec (.quadrantTargetWrite q v) s = .next (setQuad (setF s1 (PRM_Q_STAT_STATE q.val) 3) q.val { getQuad s1 q.val with entering := some (now s), toOff := false })) ∧
    (v ≠ 0 → v ≠ 1 → st ≤ 1 → quadRefuser s q.val true = none → let s2 := quadrantReset s1 q.val
      exec (.quadrantTargetWrite q v) s = .next (setQuad (setF s2 (PRM_Q_STAT_STATE q.val) 3) q.val { getQuad s2 q.val with entering := some (now s), toOff := true })) ∧
    (v ≠ 0 → ¬ (st = 0 ∨ (st = 1 ∧ v ≠ 1)) → exec (.quadrantTargetWrite q v) s = .next s1)) ∧
  (∀ (s : State) (q : Fin 4), let x := getQuad s q.val
    let s1 := setQuad s q.val { x with entering := none, toOff := false }
    let sOff := setF s1 (PRM_Q_STAT_STATE q.val) 2
    let sDor := retarget (sleepAll (setF s1 (PRM_Q_STAT_STATE q.val) 1) q.val) q.val
    (x.entering = none → exec (.quadrantEntryComplete q) s = .next s) ∧
    (∀ t : Int, x.entering = some t →
      (reached s (t + (if x.toOff then 1000000000 else 50000000)) = false → exec (.quadrantEntryComplete q) s = .next s) ∧
      (reached s (t + 1000000000) = true → x.toOff = true → getF s (PRM_Q_CTL_TARGET q.val) ≠ 0 → exec (.quadrantEntryComplete q) s = .next sOff) ∧
      (reached s (t + 1000000000) = true → x.toOff = true → getF s (PRM_Q_CTL_TARGET q.val) = 0 → exec (.quadrantEntryComplete q) s = .next (bootQuad sOff q.val)) ∧
      (reached s (t + 50000000) = true → x.toOff = false → getF s (PRM_Q_CTL_TARGET q.val) ≠ 0 → exec (.quadrantEntryComplete q) s = .next sDor) ∧
      (reached s (t + 50000000) = true → x.toOff = false → getF s (PRM_Q_CTL_TARGET q.val) = 0 → exec (.quadrantEntryComplete q) s = .next (requestActive sDor q.val)))) ∧
  (∀ (s : State) (q : Fin 4),
    (getF s (PRM_Q_STAT_STATE q.val) = 4 → exec (.quadrantWakeComplete q) s = .next (setQuad (setF s (PRM_Q_STAT_STATE q.val) 0) q.val { getQuad s q.val with waking := none })) ∧
    (getF s (PRM_Q_STAT_STATE q.val) ≠ 4 → exec (.quadrantWakeComplete q) s = .next s)) ∧
  (∀ (s : State) (q : Fin 4) (ok : Bool) (t : Int), let x := getQuad s q.val
    let s1 := setQuad s q.val { x with booting := none }
    x.booting = some t →
    (ok = true → reached s (t + 50000000000) = false → exec (.quadrantBoot q ok) s = .next (setF s1 (PRM_Q_STAT_STATE q.val) 0)) ∧
    (ok = false ∨ reached s (t + 50000000000) = true → exec (.quadrantBoot q ok) s = .next (intPulse (setF (setF s1 (PRM_Q_STAT_STATE q.val) 2) (PRM_Q_STAT_BOOT_FAIL q.val) 1) 808))) ∧
  (∀ (s : State) (q : Fin 4), exec (.quadrantReset q) s = .next (startReinit s q.val 5) ∧
    exec (.quadrantReinitialisation q .watchdog) s = .next (startReinit s q.val 1) ∧ exec (.quadrantReinitialisation q .admission) s = .next (startReinit s q.val 2) ∧
    (∀ (ts : List (Fin 288)) (es : List (Fin 32 × Fin 6)) (bs : List (Fin 32 × Fin 32)),
      ((getQuad s q.val).reinit = none → exec (.quadrantReinitialisation q (.done ts es bs)) s = .next s) ∧
      ((getQuad s q.val).reinit.isSome = true → exec (.quadrantReinitialisation q (.done ts es bs)) s =
        .next (endReinit s q.val (ts.map (·.val)) (es.map fun x => (x.1.val, x.2.val)) (bs.map fun x => (x.1.val, x.2.val)))))) ∧
  (∀ (s : State) (q : Fin 4) (dt : Nat), let s0 := atDt s dt
    ((getQuad s q.val).records = [] → exec (.reinitialisationRecordWrite q dt) s = .next s) ∧
    (∀ j rest, (getQuad s q.val).records = j :: rest → let s1 := setQuad s0 q.val { getQuad s0 q.val with records := rest }
      ((getF s CXL_LINK_STAT_RATE = 0 ∨ now s0 < s.linkHeld) → exec (.reinitialisationRecordWrite q dt) s = .next s) ∧
      (¬ (getF s CXL_LINK_STAT_RATE = 0 ∨ now s0 < s.linkHeld) →
        (j.lost = true → exec (.reinitialisationRecordWrite q dt) s = .next (loseRecord s1)) ∧
        (j.lost = false → exec (.reinitialisationRecordWrite q dt) s = .next (withMirror s1 q.val fun m => queueRec m true { ring := j.ring, irq := j.cmd.irq, rec_ := jobRec j, hub := true }))))) ∧
  (∀ (m : State) (r a : Nat) (x : Rec), r < 256 → isRefusal x.outcome = false → Canonical m → EntryOpen m r a → let y := { ring := r, irq := false, rec_ := x, hub := true : PendRec }
    ∃ t, RecordShown m t r a true x ∧
      ((∃ d : Int, x.due = some d ∧ d < now m) → queueRec m true y = addF t (PRM_REINIT_CNT_LATE (r / 64)) 1) ∧ (¬ (∃ d : Int, x.due = some d ∧ d < now m) → queueRec m true y = t))

/-- Chip resets, supplies and temperature (spec/14_power.md, basis derived). A chip reset shows its cause and rail, empties rings, plans, programs, jobs and tiles, keeps only the non-volatile store of memory and the commands that wait, and is recorded. PRM_RST.CHIP applies a chip reset with cause 2. A POR_N low for 10 µs or more applies one with cause 0, the key store lost where VBAT left its range; under 1 µs it is ignored, and between them it does the one or the other (Log 101 DESIGN CHOICE). PERST_N low holds the link down and resets the host function. A rail below 94 % of its target for 100 ns sets its bit and raises its source, and on VDD_Qq with AUTO_STEP steps the quadrant; below 88 % for 20 ns the reset of its scope is applied (the thresholds with the monitor's error, Log 100 DESIGN CHOICE). The five sensors are read; 1 ms at or above 125 °C takes a quadrant to OFF, or resets the chip for the hub. -/
def Obligations.ChipResetsSuppliesAndTemperature : Prop :=
  (∀ (s : State) (c rail : Nat), c < 16 → rail < 32 → let t := chipReset s c rail
    getF t PRM_RST_CAUSE = c ∧ getF t PRM_RST_RAIL = rail ∧ t.jobs = [] ∧ t.rings = [] ∧ t.plans = [] ∧ t.progs = [] ∧ t.tiles = [] ∧ t.mem = (s.mem.filter fun x => decide (nvsFlat ≤ x.1)) ∧
    t.pending = s.pending ∧ t.perst = s.perst ∧ t.frPend = s.frPend ++ [{ at_ := now s, level := 3, cls := 0x20, action := 6, context := [c, rail] }]) ∧
  (∀ (s : State) (q c : Nat), q < 4 → c < 8 → Canonical s → getF s (PRM_Q_STAT_STATE q) ≠ 2 → (getQuad s q).entering = none → (getQuad s q).reinit = none → let t := startReinit s q c
    getF t (PRM_Q_STAT_STATE q) = 6 ∧ getF t (PRM_REINIT_CAUSE_CAUSE q) = c ∧ isF (laneReset s q) (PWR_Q_IRQ_LANE_RESET q) = true) ∧
  (∀ (s : State), exec .chipReset s = .next (chipReset s 2 0) ∧
    (∀ (n : Nat) (vbat : Bool), let s1 := (takeFree s).2
      (n < 1000 → exec (.porNRelease n vbat) s = .next s1) ∧
      (1000 ≤ n → n < 10000 → exec (.porNRelease n vbat) s = .next s1 ∨ exec (.porNRelease n vbat) s = .next (chipReset (if vbat then s1 else loseKeyStore s1) 0 0)) ∧
      (10000 ≤ n → vbat = true → exec (.porNRelease n vbat) s = .next (chipReset s1 0 0)) ∧
      (10000 ≤ n → vbat = false → exec (.porNRelease n vbat) s = .next (chipReset (loseKeyStore s1) 0 0))) ∧
    (s.perst = true → exec (.perstN false) s = .next s ∧ exec (.perstN true) s = .next { s with perst := false }) ∧
    (s.perst = false → exec (.perstN true) s = .next s ∧
      exec (.perstN false) s = .next (setBudget (setF (setF (setF (setF (functionReset { s with perst := true }) CXL_LINK_STAT_RATE 0) CXL_LINK_STAT_WIDTH 0) CXL_LINK_STAT_FLIT 0) CXL_LINK_STAT_CXL 0)))) ∧
  (∀ (s : State) (rail : Fin 32) (uv ns : Nat), let r := rail.val
    let q := (r - 8) / 6
    let warn := refresh (setBitF s PRM_MON_WARN_WARN r) (840 + r)
    let said := report warn { at_ := now s, source := 840 + r, level := if r < 8 then 3 else 2, cls := 0x22, quad := if r < 8 then 0 else q, context := [(getR warn PRM_MON_WARN).toNat] }
    (ns < 100 ∨ monitored s r = false ∨ below s r uv 940 = false → exec (.supplyWarning rail uv ns) s = .next s) ∧
    (100 ≤ ns → monitored s r = true → below s r uv 940 = true → ¬ (8 ≤ r ∧ r = 8 + 6 * q ∧ isF said PRM_MON_CTL_AUTO_STEP = true) → exec (.supplyWarning rail uv ns) s = .next said) ∧
    (100 ≤ ns → monitored s r = true → below s r uv 940 = true → 8 ≤ r → r = 8 + 6 * q → isF said PRM_MON_CTL_AUTO_STEP = true → exec (.supplyWarning rail uv ns) s = .next (autoStep said q)) ∧
    (ns < 20 ∨ monitored s r = false ∨ below s r uv 880 = false → exec (.supplyReset rail uv ns) s = .next s) ∧
    (20 ≤ ns → monitored s r = true → below s r uv 880 = true → r < 8 → exec (.supplyReset rail uv ns) s = .next (chipReset s 1 r)) ∧
    (20 ≤ ns → monitored s r = true → below s r uv 880 = true → 8 ≤ r → (r - 8) % 6 < 4 → exec (.supplyReset rail uv ns) s = .next (startReinit s q 3)) ∧
    (20 ≤ ns → monitored s r = true → below s r uv 880 = true → 8 ≤ r → 4 ≤ (r - 8) % 6 → exec (.supplyReset rail uv ns) s = .next (laneReset s q))) ∧
  (∀ (s : State) (q0 q1 q2 q3 hub : BitVec 9), exec (.thermalRead q0 q1 q2 q3 hub) s =
    .next ([0, 1, 2, 3, 4].foldl sensorRead (setF (setF (setF (setF (setF s PRM_THERM_TEMP_Q0 q0.toNat) PRM_THERM_TEMP_Q1 q1.toNat) PRM_THERM_HI_TEMP_Q2 q2.toNat) PRM_THERM_HI_TEMP_Q3 q3.toNat) PRM_THERM_CTL_HUB hub.toNat))) ∧
  (∀ (s : State) (i : Fin 5),
    (smGet (fun _ => none) s.hotSince i.val = none → exec (.thermalTrip i) s = .next s) ∧
    (∀ t : Int, smGet (fun _ => none) s.hotSince i.val = some t →
      (reached s (t + 1000000000) = false → exec (.thermalTrip i) s = .next s) ∧
      (reached s (t + 1000000000) = true → i.val < 4 → exec (.thermalTrip i) s = .next (startReinit s i.val 4)) ∧
      (reached s (t + 1000000000) = true → i.val = 4 → exec (.thermalTrip i) s = .next (chipReset s 3 0))))

/-- Tile and engine checks, retirement and fencing (spec/15_faults.md, basis derived). A core check on an idle tile reports it and stops the tile; on a running one the task ends with TIL_FAULT.CAUSE 0x11, and its job takes FAILED_HW with TILE unless the task is redone on the spare, where the happening is held and the redo waits; it is redone only where the spare serves no tile and no other tile waits for it; a stopped tile or one of a dark quadrant takes none. REDO_START copies the memories, lets the spare serve the logical tile and starts the task there, or on the tile that has taken over; where the spare is gone or in use the job fails with TILE, and a tile that runs a task is not given another. PRM_RETIRE marks the physical tile of the logical tile named. A retest passed makes the tile a spare or sound, one failed is permanent. An engine check restarts the engine, and reruns its operation or fails its job with ENGINE. Four distinct uncorrectable granules within 1 s, or two ADDRESS outcomes, fence a bank, pulse source 17 and lose the cluster's resources. -/
def Obligations.FailingTilesEnginesAndBanks : Prop :=
  (∀ (s : State) (p : Fin 288) (dt : Nat), let s0 := atDt s dt
    let t := getTile s0 p.val
    let s1 := setTilFault s0 p.val 0x11 t.pc 0 (t.handler != .none) t.task
    let e := tileEntry s1 p.val 0x01
    ((getHw s0 p.val).stopped = true ∨ quadDark s0 (p.val / 72) = true → exec (.tileCoreCheck p dt) s = .next s) ∧
    ((getHw s0 p.val).stopped = false → quadDark s0 (p.val / 72) = false →
      (t.running = false → exec (.tileCoreCheck p dt) s = .next (stopTile (report s0 (tileEntry s0 p.val 0x01)) p.val)) ∧
      (t.running = true → tileNode s1 p.val = none → exec (.tileCoreCheck p dt) s = .next (stopTile (dropTask (report s1 e) p.val) p.val)) ∧
      (∀ j n, t.running = true → tileNode s1 p.val = some (j, n) → redone s1 p.val j n = false →
        exec (.tileCoreCheck p dt) s = .next (stopTile (finishTile (report s1 (withJob e j 0x20 0x40)) p.val false (some (0x20, 0x40))) p.val)) ∧
      (∀ j n, t.running = true → tileNode s1 p.val = some (j, n) → redone s1 p.val j n = true →
        let s3 := stopTile (holdHappening (dropTask (report s1 { withJob e j 0x20 0x40 with action := 1 }) p.val) j n 0x40) p.val
        exec (.tileCoreCheck p dt) s = .next (setHw s3 p.val { getHw s3 p.val with redo := some (n.id, now s3) })))) ∧
  (∀ (s : State) (x : Nat) (j : Job) (n : Node),
    ((getCl s (x / 9)).spare = none ∨ (getCl s (x / 9)).spareTakes.isSome = true ∨ spareAwaited s x = true ∨ planBySeq s j.planSeq = none → redone s x j n = false) ∧
    (∀ pl, (getCl s (x / 9)).spare.isSome = true → (getCl s (x / 9)).spareTakes = none → spareAwaited s x = false → planBySeq s j.planSeq = some pl →
      redone s x j n = redoFits s j n (now s) (redoLead pl.op))) ∧
  (∀ (s : State) (p : Fin 288) (dt : Nat), let s0 := atDt s dt
    let k := p.val / 9
    let h := getHw s0 p.val
    let s1 := setHw s0 p.val { h with redo := none }
    let on := fun (x : State) (y : Nat) (j : Job) (n : Node) => if versionGone x n then failNode x j n 0x20 0x40 else startTile x y j n
    (h.redo = none → exec (.redoStart p dt) s = .next s) ∧
    (∀ id t0, h.redo = some (id, t0) →
      (findNode s1 id = none → exec (.redoStart p dt) s = .next s1) ∧
      (∀ j n, findNode s1 id = some (j, n) →
        (∀ t, h.spareFor = some t → spareTile s1 k = none → exec (.redoStart p dt) s = .next (failNode s1 j n 0x20 0x40)) ∧
        (∀ t y, h.spareFor = some t → spareTile s1 k = some y → (getCl s1 k).spareTakes.isSome = true → exec (.redoStart p dt) s = .next (failNode s1 j n 0x20 0x40)) ∧
        (∀ t y, h.spareFor = some t → spareTile s1 k = some y → (getCl s1 k).spareTakes = none → (getTile s1 y).running = true → exec (.redoStart p dt) s = .next s) ∧
        (∀ t y, h.spareFor = some t → spareTile s1 k = some y → (getCl s1 k).spareTakes = none → (getTile s1 y).running = false →
          let s2 := spareServes s1 p.val t
          let s3 := setCl s2 k { getCl s2 k with spareTakes := some t }
          (findNode s3 id = none → exec (.redoStart p dt) s = .next s3) ∧
          (∀ j' n', findNode s3 id = some (j', n') → exec (.redoStart p dt) s = .next (on s3 y j' n'))) ∧
        (∀ y, h.spareFor = none → physOf s1 k n.res = some y → (getTile s1 y).running = true → exec (.redoStart p dt) s = .next s) ∧
        (∀ y, h.spareFor = none → physOf s1 k n.res = some y → (getTile s1 y).running = false → exec (.redoStart p dt) s = .next (on s1 y j n)) ∧
        (h.spareFor = none → physOf s1 k n.res = none → exec (.redoStart p dt) s = .next (failNode s1 j n 0x20 0x40))))) ∧
  (∀ (s : State), let k := 8 * getF s PRM_RETIRE_QUAD + getF s PRM_RETIRE_CLUSTER
    (physOf s k (getF s PRM_RETIRE_TILE) = none → exec .prmRetire s = .next s) ∧
    (∀ p, physOf s k (getF s PRM_RETIRE_TILE) = some p → exec .prmRetire s = .next (setHw s p { getHw s p with wantRetire := true }))) ∧
  (∀ (s : State) (p : Fin 288) (pass : Bool), let s1 := showTesting (setHw s p.val { getHw s p.val with test := none }) p.val
    ((getHw s p.val).test = none → exec (.tileRetestDone p pass) s = .next s) ∧
    ((getHw s p.val).test.isSome = true → exec (.tileRetestDone p true) s = .next (passRetest s1 p.val) ∧
      exec (.tileRetestDone p false) s = .next (setBitF s1 (PRM_TILES_PERMANENT (p.val / 72) (p.val % 72 / 9)) (p.val % 9)))) ∧
  (∀ (s : State) (k : Fin 32) (dt : Nat), let s0 := atDt s dt
    let q := k.val / 8
    (quadDark s0 q = true → ∀ r, exec (.engineCheck k r dt) s = .next s) ∧
    (quadDark s0 q = false → exec (.engineCheck k 6 dt) s = .next (report { s0 with pfeCheck := smPut (fun _ => none) q (some (now s0)) s0.pfeCheck }
      { at_ := now s0, source := 0x3FF, level := 2, cls := 0x04, action := 7, quad := q, cluster := 0 })) ∧
    (∀ r : Fin 7, quadDark s0 q = false → r.val < 6 →
      let s1 := restartEngine s0 k.val r.val
      let lost := bitOf (getCl s1 k.val).lostEng r.val == 1
      let e : FrEntry := { at_ := now s0, source := if r.val < 5 then clSrc k.val (11 + r.val) else 0x3FF, level := 1, cls := 0x04, action := if lost then 4 else 7, quad := q, cluster := k.val % 8 }
      (bitOf (getCl s0 k.val).lostEng r.val = 1 → exec (.engineCheck k r dt) s = .next s) ∧
      (bitOf (getCl s0 k.val).lostEng r.val ≠ 1 → runningNode s0 k.val (8 + r.val) = none → exec (.engineCheck k r dt) s = .next (report s1 e)) ∧
      (∀ j n, bitOf (getCl s0 k.val).lostEng r.val ≠ 1 → runningNode s0 k.val (8 + r.val) = some (j, n) →
        let may := lost = false ∧ rerunKind s0 n r.val = true ∧ redoFits s0 j n (now s0) 2040000 = true
        (may → exec (.engineCheck k r dt) s = .next (startEngine (holdHappening (report s1 { withJob e j 0x20 0x41 with action := 1 }) j n 0x41) k.val r.val n)) ∧
        (¬ may → exec (.engineCheck k r dt) s =
          .next (failNode (report (if r.val = 5 then setDma s1 k.val 0 { getDma s1 k.val 0 with node := none } else s1) (withJob e j 0x20 0x41)) j n 0x20 0x41))))) ∧
  (∀ (s : State) (k b : Fin 32),
    let due := fenceDue s k.val b.val = true ∧ quadDark s (k.val / 8) = false ∧ testF s (MEM_CSM_FENCE_BANKS k.val) b.val = false
    (due → exec (.bankFence k b) s = .next (resourceLost (intPulse (setBitF s (MEM_CSM_FENCE_BANKS k.val) b.val) (clSrc k.val 17)) (k.val / 8))) ∧
    (¬ due → exec (.bankFence k b) s = .next s))

/-- Lockstep, the hub network, firmware, the recorder and the capture (spec/15_faults.md, basis derived). A lockstep mismatch pulses source 809 and is counted and recorded, and a second one within 1 s applies a chip reset with cause 4. Corrected hub flits are counted; an uncorrectable one poisons its granule, is counted and recorded, and the sixteenth within 1 s applies a chip reset with cause 1 and rail 1. GO naming the other image starts a hand-over, ended by a verification that fails with RESULT 2, or gone on with core by core, the fifth of which makes the new image the running one, watched for 1 s; a healthy report within 1 s ends it with RESULT 1 and FW_DONE; none by then puts the previous image back with RESULT 3 and FW_REVERT. The oldest event that waits enters the recorder, the first 1,000 of a second, and later ones are counted as dropped. The capture freezes the registers of the powered blocks and the newest 4,096 entries, sets VALID with its stamp and RMA_DONE (Log 61 DESIGN CHOICE for its form). -/
def Obligations.ChipFaultsFirmwareAndRecorder : Prop :=
  (∀ (s : State), let s1 := addF (intPulse { s with lockAt := some (now s) } 809) PRM_LOCKSTEP_MISMATCH 1
    let e := fun a => ({ at_ := now s, source := 809, level := 3, cls := 0x0C, action := a, context := [(getR s1 PRM_LOCKSTEP).toNat] } : FrEntry)
    ((∃ t, s.lockAt = some t ∧ now s - t ≤ psSec) → exec .lockstepMismatch s = .next (chipReset (report s1 (e 6)) 4 0)) ∧
    (¬ (∃ t, s.lockAt = some t ∧ now s - t ≤ psSec) → exec .lockstepMismatch s = .next (report s1 (e 7)))) ∧
  (∀ (s : State) (c : Nat), let s1 := addF s PRM_HUB_ECC_CORR c
    exec (.hubFlitUncorrectable none c) s = .next s1 ∧
    (∀ (m : MemUnit) (g : Nat), let recent := (s1.hubFlits.filter fun t => decide (now s - psSec < t)) ++ [now s]
      let s2 := addF { (if 32 * g < unitSize m then setPoison s1 (unitBase m / 32 + g) true else s1) with hubFlits := recent } PRM_HUB_ECC_UNCORR 1
      let s3 := report (intPulse (setF s2 PRM_EVT_HUB_NOC 1) 808) { at_ := now s, source := 808, level := 3, cls := 0x0B, addr := 32 * g, context := [(getR s2 PRM_HUB_ECC).toNat] }
      (recent.length < 16 → exec (.hubFlitUncorrectable (some (m, g)) c) s = .next s3) ∧
      (16 ≤ recent.length → exec (.hubFlitUncorrectable (some (m, g)) c) s = .next (chipReset s3 1 1)))) ∧
  (∀ (s : State) (image : Bool), let s1 := setF s PRM_FW_CTL_IMAGE (ofBool image)
    (isF s PRM_FW_STAT_STATE = true ∨ isF s PRM_FW_STAT_RUNNING = image → exec (.firmwareHandOver (.go image)) s = .next s1) ∧
    (isF s PRM_FW_STAT_STATE = false → isF s PRM_FW_STAT_RUNNING ≠ image →
      exec (.firmwareHandOver (.go image)) s = .next (setF { s1 with fw := { s1.fw with target := some image, back := false } } PRM_FW_STAT_STATE 1))) ∧
  (∀ (s : State) (r : NvsRead) (us : Nat),
    (getF s PRM_FW_STAT_STATE ≠ 1 → exec (.firmwareHandOver (.verified r)) s = .next s) ∧
    (getF s PRM_FW_STAT_STATE ≠ 2 → exec (.firmwareHandOver (.core us)) s = .next s) ∧
    (getF s PRM_FW_STAT_STATE = 1 → s.fw.target = none → exec (.firmwareHandOver (.verified r)) s = .next s) ∧
    (∀ b, getF s PRM_FW_STAT_STATE = 1 → s.fw.target = some b → let x := verifyImage s b r
      exec (.firmwareHandOver (.verified r)) s = .next (x.2.elim (setF (setF { x.1 with fw := { x.1.fw with target := none } } PRM_FW_STAT_STATE 0) PRM_FW_STAT_RESULT 2)
        fun v => setF { x.1 with fw := { x.1.fw with cores := 0, changed := none, newSvn := v } } PRM_FW_STAT_STATE 2)) ∧
    (getF s PRM_FW_STAT_STATE = 2 → let t := nextMultiple (ctPs s) 1000000000
      (inCycle s t = false ∨ railRises s = true ∨ s.fw.changed = some t → exec (.firmwareHandOver (.core us)) s = .next s) ∧
      (inCycle s t = true → railRises s = false → s.fw.changed ≠ some t → s.fw.cores < 4 →
        exec (.firmwareHandOver (.core us)) s =
          .next (setF { s with fw := { s.fw with cores := s.fw.cores + 1, changed := some t } } PRM_FW_STAT_HOLD_US (max (getF s PRM_FW_STAT_HOLD_US) (min 25 us)))) ∧
      (∀ b, inCycle s t = true → railRises s = false → s.fw.changed ≠ some t → s.fw.cores = 4 → s.fw.target = some b →
        let s1 := setF (setF { s with fw := { s.fw with cores := 5, changed := some t } } PRM_FW_STAT_HOLD_US (max (getF s PRM_FW_STAT_HOLD_US) (min 25 us))) PRM_FW_STAT_RUNNING (ofBool b)
        let s2 := report s1 { at_ := t, level := 3, cls := 0x21, context := [ofBool b] }
        (s.fw.back = true → exec (.firmwareHandOver (.core us)) s = .next (setF { s2 with fw := { s2.fw with target := none, back := false, svn := s.fw.newSvn } } PRM_FW_STAT_STATE 0)) ∧
        (s.fw.back = false → exec (.firmwareHandOver (.core us)) s = .next (setF { s2 with fw := { s2.fw with watch := some t, svn := s.fw.newSvn, newSvn := s.fw.svn } } PRM_FW_STAT_STATE 3))))) ∧
  (∀ (s : State),
    (s.fw.watch = none → exec .firmwareHealthyReport s = .next s ∧ exec .firmwareRevert s = .next s) ∧
    (getF s PRM_FW_STAT_STATE ≠ 3 → exec .firmwareHealthyReport s = .next s ∧ exec .firmwareRevert s = .next s) ∧
    (∀ t : Int, s.fw.watch = some t → getF s PRM_FW_STAT_STATE = 3 →
      (t + psSec < now s → exec .firmwareHealthyReport s = .next s) ∧
      (now s ≤ t + psSec → exec .firmwareHealthyReport s = .next (intPulse (setF (setF (setF { s with fw := { s.fw with target := none, watch := none, active := isF s PRM_FW_STAT_RUNNING } }
        PRM_FW_STAT_STATE 0) PRM_FW_STAT_RESULT 1) PRM_EVT_FW_DONE 1) 808)) ∧
      (reached s (t + psSec) = false → exec .firmwareRevert s = .next s) ∧
      (reached s (t + psSec) = true → let b := !(isF s PRM_FW_STAT_RUNNING)
        exec .firmwareRevert s = .next (report (intPulse (setF (setF (setF { s with fw := { s.fw with target := some b, cores := 0, changed := none, watch := none, back := true } }
          PRM_FW_STAT_STATE 2) PRM_FW_STAT_RESULT 3) PRM_EVT_FW_REVERT 1) 808) { at_ := now s, source := 808, level := 3, cls := 0x21, context := [ofBool b] })))) ∧
  (∀ (s : State),
    (s.frPend = [] → exec .flightRecorderWrite s = .next s) ∧
    (∀ e rest, s.frPend = e :: rest → let sec := secOf (now s)
      let n := if s.frSecond = sec then s.frCount else 0
      (1000 ≤ n → exec .flightRecorderWrite s = .next (addF { s with frPend := rest } PRM_FR_STAT_DROPPED 1)) ∧
      (n < 1000 → exec .flightRecorderWrite s = .next (frWrite { s with frPend := rest, frSecond := sec, frCount := n + 1 } e)))) ∧
  (∀ (s : State), ∃ c : RmaCapture, c.regs = (s.regs.filter fun x => powered s x.1) ∧ c.entries.length = min 4096 (getF s PRM_FR_STAT_ENTRIES) ∧
    exec .rmaCapture s = .next (intPulse (setF (setF (setF (setF { s with rma := some c } PRM_RMA_VALID 1) PRM_RMA_SEC_SEC (secOf (now s) % 2 ^ 32)) PRM_RMA_NS_NS (nsOf (now s))) PRM_EVT_RMA_DONE 1) 808))

/-- Owner requests (spec/16_security.md, basis derived). The row of an operation carries out the request whose OP it is, and does nothing on another OP. A request with a reason against it shows that reason; without one it consumes the nonce, has its effect and shows its result. No request without a reason has another serial than the device's, another nonce than FXG_NONCE (but DEBUG_CLOSE), or a signature that does not pass. ENROL_OWNER takes the lowest unused slot and gives OWNED, or NO_SLOT; REVOKE_OWNER revokes where another active slot remains; SET_POLICY only sets bits; DEBUG_OPEN opens the session unless DEBUG_DISABLE is set; a change of fuses that fails gives FUSE_FAIL. NONCE makes a fresh nonce. -/
def Obligations.OwnerRequestsAreChecked : Prop :=
  (∀ (s : State) (f : Bool),
    let run := fun (op : Nat) (g : State → State × Nat) =>
      (reqReason s op).elim (reqDone (g (if op = 7 then s else setNonce s 0)).1 op (g (if op = 7 then s else setNonce s 0)).2)
        (fun r => reqDone (if r = 5 ∧ op ≠ 7 then setNonce s 0 else if r = 4 then verifyFailed s 5 else s) op r)
    (reqOp s = 1 → exec (.enrolOwner f) s = .next (run 1 (enrolOwner f))) ∧ (reqOp s ≠ 1 → exec (.enrolOwner f) s = .next s) ∧
    (reqOp s = 2 → exec (.revokeOwner f) s = .next (run 2 (revokeOwner f))) ∧ (reqOp s ≠ 2 → exec (.revokeOwner f) s = .next s) ∧
    (reqOp s = 3 → exec (.setPolicy f) s = .next (run 3 (setPolicy f))) ∧ (reqOp s ≠ 3 → exec (.setPolicy f) s = .next s) ∧
    (reqOp s = 5 → exec (.commitSvn f) s = .next (run 5 (commitSvn f))) ∧ (reqOp s ≠ 5 → exec (.commitSvn f) s = .next s) ∧
    (reqOp s = 9 → exec (.decommission f) s = .next (run 9 (decommission f))) ∧ (reqOp s ≠ 9 → exec (.decommission f) s = .next s) ∧
    (reqOp s = 10 → exec (.unlock f) s = .next (run 10 (unlockDevice f))) ∧ (reqOp s ≠ 10 → exec (.unlock f) s = .next s) ∧
    (reqOp s = 4 → exec .provision s = .next (run 4 provisionDevice)) ∧ (reqOp s ≠ 4 → exec .provision s = .next s) ∧
    (reqOp s = 6 → exec .debugOpen s = .next (run 6 debugOpen)) ∧ (reqOp s ≠ 6 → exec .debugOpen s = .next s) ∧
    (reqOp s = 7 → exec .debugClose s = .next (run 7 (fun s => (endDebug s, 0)))) ∧ (reqOp s ≠ 7 → exec .debugClose s = .next s) ∧
    (reqOp s = 8 → exec .certSlot1 s = .next (run 8 certSlot1)) ∧ (reqOp s ≠ 8 → exec .certSlot1 s = .next s)) ∧
  (∀ (s : State) (op : Nat), reqReason s op = none →
    op ≠ 0 ∧ op ≤ 10 ∧ leNat (mboxBytes s 8 8) = getF s FXG_SERIAL_SERIAL ∧ (op ≠ 7 → nonceNow s ≠ 0 ∧ leNat (mboxBytes s 0x10 32) = nonceNow s) ∧ reqSigned s op = true ∧ reqLifeBad s op = false) ∧
  (∀ (s : State),
    ((∀ i < 8, testF s FXG_POLICY_ACTIVE i = true ∨ testF s FXG_POLICY_REVOKED i = true) → ∀ f, enrolOwner f s = (s, 6)) ∧
    (∀ i, i < 8 → (∀ j < i, testF s FXG_POLICY_ACTIVE j = true ∨ testF s FXG_POLICY_REVOKED j = true) → testF s FXG_POLICY_ACTIVE i = false → testF s FXG_POLICY_REVOKED i = false →
      enrolOwner false s = (s, 7) ∧
      enrolOwner true s = (setF (setBitF { s with fox := { s.fox with digests := smPut (fun _ => []) i (sha512 (reqKey s)) s.fox.digests, moduli := smPut (fun _ => []) i (reqKey s) s.fox.moduli } }
        FXG_POLICY_ACTIVE i) FXG_STAT_LIFE 2, 0))) ∧
  (∀ (s : State), let i := reqArg s % 8
    (∀ f, andNot (getF s FXG_POLICY_ACTIVE) (2 ^ i) = 0 → revokeOwner f s = (s, 5)) ∧
    (andNot (getF s FXG_POLICY_ACTIVE) (2 ^ i) ≠ 0 → revokeOwner false s = (s, 7) ∧ revokeOwner true s = (setBitF (clrBitF s FXG_POLICY_ACTIVE i) FXG_POLICY_REVOKED i, 0)) ∧
    setPolicy false s = (s, 7) ∧ setPolicy true s = (setF s FXG_POLICY_POLICY (getF s FXG_POLICY_POLICY ||| leNat (reqData s 0 1) % 16), 0) ∧
    provisionDevice s = ({ s with fox := { s.fox with provision := some (reqData s 0 66) } }, 0) ∧
    (testF s FXG_POLICY_POLICY 3 = true → debugOpen s = (s, 5)) ∧
    (testF s FXG_POLICY_POLICY 3 = false → let e := leNat (reqData s 8 8)
      debugOpen s = (setF (setF { s with fox := { s.fox with dbg := some ⟨leNat (reqData s 0 4), e⟩ } } FXG_STAT_DEBUG 1) FXG_DBG_EXP_EXPIRY (e % 2 ^ 32), 0))) ∧
  (∀ (s : State), exec .nonce s = .next (setNonce (takeFree s).2 (Config.nonce s.freeCtr % 2 ^ 256)))

/-- Secure boot, SPDM, stream keys and IDE keys (spec/16_security.md, basis derived). Before any firmware runs and outside recovery, the image of the boot record is verified and runs, else the other is, else the device is in recovery; otherwise SECURE_BOOT does nothing. A message on a DOE instance with no request in progress has no effect. KEY_WRITE and the IDE_KM messages have their effect only in a secured session on instance 2: KEY_WRITE is answered with status 5 outside one; a KEY_PROG to the key set in use is answered with status 3 and changes nothing, another one stores the key; K_SET_GO uses a set that has a key, K_SET_STOP ends the use of the set in use. A fifth KEY_EXCHANGE is answered Busy. -/
def Obligations.BootKeysAndSessions : Prop :=
  (∀ (s : State) (a b : NvsRead), let fst := s.fw.active
    let x := verifyImage s fst (if fst then b else a)
    let y := verifyImage x.1 (!fst) (if !fst then b else a)
    (s.boot.fw = true ∨ isF s FXG_STAT_RECOVERY = true → exec (.secureBoot a b) s = .next s) ∧
    (s.boot.fw = false → isF s FXG_STAT_RECOVERY = false → exec (.secureBoot a b) s =
      .next (x.2.elim (y.2.elim (enterRecovery y.1) (runImage y.1 (!fst))) (runImage x.1 fst)))) ∧
  (∀ (s : State) (i : Fin 3) (m : SpdmReq), (i = 0 ∨ (getDoe s i.val).busy = none → exec (.spdmRequest i m) s = .next s) ∧
    (i ≠ 0 → (getDoe s i.val).busy.isSome = true → let x := spdmAnswer (takeFree s).2 s.freeCtr m
      exec (.spdmRequest i m) s = .next (answerDoe x.1 i.val x.2))) ∧
  (∀ (s : State) (i slot : Nat), (4 ≤ s.fox.sessions → spdmAnswer s i (.keyExchange slot) = (s, ⟨3, []⟩)) ∧
    (s.fox.sessions < 4 → certChain s slot = none → spdmAnswer s i (.keyExchange slot) = (s, ⟨1, []⟩)) ∧
    (∀ c, s.fox.sessions < 4 → certChain s slot = some c → (spdmAnswer s i (.keyExchange slot)).1 = { s with fox := { s.fox with sessions := s.fox.sessions + 1 } }) ∧
    (spdmAnswer s i .endSession).1 = { s with fox := { s.fox with sessions := s.fox.sessions - 1 } } ∧ spdmAnswer s i .version = (s, ⟨0, [0x12, 0x13]⟩)) ∧
  (∀ (s : State) (session : Bool) (p : List Byte),
    ((getDoe s 2).busy = none → exec (.keyWrite session p) s = .next s ∧ exec (.query session) s = .next s) ∧
    ((getDoe s 2).busy.isSome = true →
      (session = false ∨ s.fox.sessions = 0 → exec (.keyWrite session p) s = .next (answerDoe s 2 ⟨0, leBytes 4 5⟩) ∧
        exec (.query session) s = .next (answerDoe (takeFree s).2 2 ⟨(Config.spdmByte s.freeCtr 0).toNat, []⟩)) ∧
      (session = true → 0 < s.fox.sessions → exec (.keyWrite session p) s = .next (answerDoe (keyWrite s p).1 2 ⟨0, leBytes 4 (keyWrite s p).2 ++ (aesZero ((p.drop 4).take 32)).take 4⟩) ∧
        exec (.query session) s = .next (answerDoe (takeFree s).2 2 ⟨0, freeBytes s.freeCtr 32⟩)))) ∧
  (∀ (s : State) (io rx : Bool) (sub : Fin 8) (set : Fin 2) (key : List Byte), (getDoe s 2).busy.isSome = true → 0 < s.fox.sessions →
    let d := ideDir io rx sub.val
    (ideInUse s io rx sub.val = set.val + 1 → exec (.keyProg true io rx sub set key) s = .next (answerDoe s 2 ⟨0, [3]⟩)) ∧
    (ideInUse s io rx sub.val ≠ set.val + 1 → exec (.keyProg true io rx sub set key) s =
      .next (answerDoe { s with fox := { s.fox with ideKeys := smPut (fun _ => []) (2 * d + set.val) key s.fox.ideKeys } } 2 ⟨0, [0]⟩)) ∧
    (smGet (fun _ => []) s.fox.ideKeys (2 * d + set.val) = [] → exec (.kSetGo true io rx sub set) s = .next (answerDoe s 2 ⟨0, []⟩)) ∧
    (smGet (fun _ => []) s.fox.ideKeys (2 * d + set.val) ≠ [] → exec (.kSetGo true io rx sub set) s = .next (answerDoe (useSet s io rx sub.val (set.val + 1)) 2 ⟨0, []⟩)) ∧
    (ideInUse s io rx sub.val = set.val + 1 → exec (.kSetStop true io rx sub set) s = .next (answerDoe (useSet s io rx sub.val 0) 2 ⟨0, []⟩)) ∧
    (ideInUse s io rx sub.val ≠ set.val + 1 → exec (.kSetStop true io rx sub set) s = .next (answerDoe s 2 ⟨0, []⟩)))

/-- Tamper, debug and the non-volatile store (spec/16_security.md, basis derived). An armed tamper input low for 1 µs or more zeroes the key store, counts and stamps the event, pulses source 817 and sets TAMPER_SEEN while powered; unarmed, or below 0.5 µs, it does nothing. VBAT below range sets VBAT_LOW. A debug session ends at its EXPIRY. A write of the attachment takes the tile while EN is 0, and EN only with TILE. A PROGRAM writes LEN bytes of the page buffer at OFS of its target, or is refused; a READ fills the buffer. A write of NVS_SLOT_CFG sets BASE and SIZE, or CFG_ERR where the slot is protected, passes the region or overlaps another. -/
def Obligations.TamperDebugAndTheStore : Prop :=
  (∀ (s : State) (ns : Nat) (p : Bool), let s1 := (takeFree s).2
    (isF s FXG_TAMPER_ARM = false ∨ ns < 500 → exec (.tamper ns p) s = .next s1) ∧
    (isF s FXG_TAMPER_ARM = true → 1000 ≤ ns →
      let z := addF { s1 with fox := { s1.fox with bbKeys := [] } } FXG_TAMPER_COUNT 1
      exec (.tamper ns false) s = .next (setF (setF { z with fox := { z.fox with tamperOff := true } } FXG_TAMPER_SEC_SEC 0) FXG_TAMPER_NS_NS 0) ∧
      exec (.tamper ns true) s = .next (endDebug (abortStoreLoads (refresh (setF (intPulse
        (setF (setF z FXG_TAMPER_SEC_SEC (secOf (now s1) % 2 ^ 32)) FXG_TAMPER_NS_NS (nsOf (now s1))) 817) FXG_IRQ_TAMPER_SEEN 1) 816))))) ∧
  (∀ (s : State), exec .vbatLow s = .next (refresh (setF s FXG_IRQ_VBAT_LOW 1) 816) ∧
    (s.fox.dbg = none → exec .debugSessionExpiry s = .next s) ∧
    (∀ d, s.fox.dbg = some d → reached s (d.expiry * psSec) = false → exec .debugSessionExpiry s = .next s) ∧
    (∀ d, s.fox.dbg = some d → reached s (d.expiry * psSec) = true → exec .debugSessionExpiry s =
      .next (refresh (setF (setF (setF { s with fox := { s.fox with dbg := none } } FXG_STAT_DEBUG 0) FXG_DBG_ATTACH_EN 0) FXG_IRQ_DEBUG_END 1) 816))) ∧
  (∀ (s : State) (k : Fin 32) (t : Fin 8) (en h : Bool),
    let s1 := setF (setF (setF s FXG_DBG_ATTACH_QUAD (k.val / 8)) FXG_DBG_ATTACH_CLUSTER (k.val % 8)) FXG_DBG_ATTACH_TILE t.val
    let fin := fun (s : State) => applyHalt (setF s FXG_DBG_ATTACH_HALT (ofBool (isF s FXG_DBG_ATTACH_HALT)))
    (exec (.halt h) s = .next (applyHalt (setF s FXG_DBG_ATTACH_HALT (ofBool h)))) ∧
    (isF s FXG_DBG_ATTACH_EN = false → debugTile s = true → exec (.debugAttach k t true) s = .next (applyHalt (setF (setF s1 FXG_DBG_ATTACH_EN 1) FXG_DBG_ATTACH_HALT (ofBool (isF s FXG_DBG_ATTACH_HALT))))) ∧
    (isF s FXG_DBG_ATTACH_EN = false → debugTile s = false → exec (.debugAttach k t true) s = .next (applyHalt (setF s1 FXG_DBG_ATTACH_HALT (ofBool (isF s FXG_DBG_ATTACH_HALT))))) ∧
    (isF s FXG_DBG_ATTACH_EN = true → exec (.debugAttach k t false) s = .next (applyHalt (setF (setF s FXG_DBG_ATTACH_EN 0) FXG_DBG_ATTACH_HALT (ofBool (isF s FXG_DBG_ATTACH_HALT)))))) ∧
  (∀ (s : State) (r : NvsRead), let p := setF s NVS_OP_OP 1
    let q := setF s NVS_OP_OP 2
    (nvsOfs p + nvsLen p ≤ (targetRange p (nvsTarget p)).2 → targetWritable p (nvsTarget p) = true →
      exec .program s = .next (wrBytes p (nvsFlat + (targetRange p (nvsTarget p)).1 + nvsOfs p) ((List.range (nvsLen p)).map (bufByte p)))) ∧
    (¬ (nvsOfs p + nvsLen p ≤ (targetRange p (nvsTarget p)).2) ∨ targetWritable p (nvsTarget p) = false → exec .program s = .next (refresh (setF p NVS_STAT_REFUSED 1) 824)) ∧
    (¬ (nvsOfs q + nvsLen q ≤ (targetRange q (nvsTarget q)).2) → exec (.read r) s = .next (refresh (setF q NVS_STAT_REFUSED 1) 824)) ∧
    (nvsOfs q + nvsLen q ≤ (targetRange q (nvsTarget q)).2 → r.bad = none → exec (.read r) s =
      .next (addF { q with pageBuf := (List.range (nvsLen q)).foldl (fun m i => smPut (fun _ => 0) i (targetByte q (nvsOfs q + i)) m) q.pageBuf } NVS_ECC_CORR r.corr))) ∧
  (∀ (s : State) (n : Fin 64) (v : Word), let b := bitsOf v.toNat 0 12
    let z := bitsOf v.toNat 16 12
    let bad := slotProtected s n.val = true ∨ 3840 < b + z ∨ 3839 < b ∨ slotOverlaps s n.val b z = true
    (bad → exec (.nvsSlotCfgWrite n v) s = .next (setF s (NVS_SLOT_STAT_CFG_ERR n.val) 1)) ∧
    (¬ bad → exec (.nvsSlotCfgWrite n v) s = .next (setF (setF s (NVS_SLOT_CFG_BASE n.val) b) (NVS_SLOT_CFG_SIZE n.val) z)))

/-- Clearing of engine counters, and boundary scan (spec/09_receive.md, spec/10_coding.md, spec/15_faults.md, basis derived). DTE_CNT.CLR, CDE_CNT.CLR and CEE_CNT.CLR bring every counter of their engine to 0, and change no other register and nothing else; in a quadrant or cluster without power or clock they do nothing. BYPASS, SAMPLE/PRELOAD and IDCODE disturb nothing, IDCODE reads 0x14192779; the instructions that take the balls take effect only while POR_N is low, and act as BYPASS otherwise. -/
def Obligations.CountersAreClearedAndTheTestPort : Prop :=
  (∀ (s : State) (k : Fin 32), smWf regReset s.regs = true →
    (let ws := [DTE_CNT_OP k.val, DTE_CLAMP k.val, DTE_CNT_SAT k.val, DTE_CNT_CAPT k.val, DTE_CNT_PRE k.val, DTE_CNT_TRUNC k.val]
     (blockLive s .dte k.val = false → exec (.dteCntClr k) s = .next s) ∧
     (blockLive s .dte k.val = true → ∃ t, exec (.dteCntClr k) s = .next t ∧ (∀ a ∈ ws, getR t a = 0) ∧ RegsBut s t ws ∧ t = { s with regs := t.regs })) ∧
    (let ws := [CDE_CNT_OP k.val, CDE_CLAMP k.val, CDE_CNT_TRUNC k.val, CDE_CNT_TB k.val, CDE_CNT_ITER k.val]
     (blockLive s .cde k.val = false → exec (.cdeCntClr k) s = .next s) ∧
     (blockLive s .cde k.val = true → ∃ t, exec (.cdeCntClr k) s = .next t ∧ (∀ a ∈ ws, getR t a = 0) ∧ getF t (CDE_CNT_HB_MISMATCH k.val) = 0 ∧ BitsBut s t (CDE_CNT_HB_MISMATCH k.val) ∧
       RegsBut s t (CDE_CNT_HB k.val :: ws) ∧ t = { s with regs := t.regs })) ∧
    (let ws := [CEE_CNT_OP k.val, CEE_CLAMP k.val, CEE_CNT_TRUNC k.val]
     (blockLive s .cee k.val = false → exec (.ceeCntClr k) s = .next s) ∧
     (blockLive s .cee k.val = true → ∃ t, exec (.ceeCntClr k) s = .next t ∧ (∀ a ∈ ws, getR t a = 0) ∧ RegsBut s t ws ∧ t = { s with regs := t.regs }))) ∧
  (∀ (s : State), exec .bypass s = .next { s with jtag := .bypass } ∧ exec .samplePreload s = .next { s with jtag := .samplePreload } ∧
    exec .idcode s = .next (emit { s with jtag := .idcode } (.jtagId 0x14192779)) ∧
    exec (.extest true) s = .next { s with jtag := .extest } ∧ exec (.extest false) s = .next { s with jtag := .bypass } ∧
    exec (.extestPulse true) s = .next { s with jtag := .extestPulse } ∧ exec (.extestPulse false) s = .next { s with jtag := .bypass } ∧
    exec (.extestTrain true) s = .next { s with jtag := .extestTrain } ∧ exec (.extestTrain false) s = .next { s with jtag := .bypass } ∧
    exec (.highz true) s = .next { s with jtag := .highz } ∧ exec (.highz false) s = .next { s with jtag := .bypass } ∧
    exec (.clamp true) s = .next { s with jtag := .clamp } ∧ exec (.clamp false) s = .next { s with jtag := .bypass })
end

