-- ==== Sys2Proof/Laws/SMap.lean ====
section
/-!
SUPPORT. The laws of sparse maps: what a read after a write gives, and that writes, removals and filters keep the canonical form.
-/

namespace Sys2Proof.Machine

set_option Elab.async false

variable {α : Type}

/-- The map of no entries reads as the default. -/
@[simp] theorem smGet_nil (d : Nat → α) (k : Nat) : smGet d [] k = d k := rfl

/-- The map of no entries is canonical. -/
@[simp] theorem smWf_nil [DecidableEq α] (d : Nat → α) : smWf d [] = true := rfl

/-- A read at another key does not see a write. -/
theorem smGet_smPut_other [DecidableEq α] (d : Nat → α) {k j : Nat} (v : α) (h : j ≠ k) (m : SMap α) :
    smGet d (smPut d k v m) j = smGet d m j := by
  induction m with
  | nil =>
    unfold smPut
    split
    · rfl
    · simp [smGet, Ne.symm h]
  | cons x t ih =>
    obtain ⟨a, w⟩ := x
    unfold smPut
    split
    · split
      · rfl
      · simp [smGet, Ne.symm h]
    · split
      · rename_i h2
        subst h2
        split <;> simp [smGet, Ne.symm h]
      · simp [smGet, ih]

/-- A canonical map from a bound lists no key up to it. -/
theorem smGet_of_le [DecidableEq α] (d : Nat → α) {k b : Nat} (m : SMap α) (h : smWfFrom d (some b) m = true) (hk : k ≤ b) :
    smGet d m k = d k := by
  induction m generalizing b with
  | nil => rfl
  | cons x t ih =>
    obtain ⟨a, w⟩ := x
    simp only [smWfFrom, Bool.and_eq_true, decide_eq_true_eq] at h
    obtain ⟨⟨h1, -⟩, h3⟩ := h
    have hne : a ≠ k := by omega
    simp only [smGet, hne, if_false]
    exact ih h3 (by omega)

/-- In a map canonical from a bound, a read after a write at the same key gives the value written. -/
theorem smGet_smPut_from [DecidableEq α] (d : Nat → α) (k : Nat) (v : α) (m : SMap α) (lo : Option Nat) (h : smWfFrom d lo m = true) :
    smGet d (smPut d k v m) k = v := by
  induction m generalizing lo with
  | nil =>
    unfold smPut
    split
    · simp_all [smGet]
    · simp [smGet]
  | cons x t ih =>
    obtain ⟨a, w⟩ := x
    simp only [smWfFrom, Bool.and_eq_true, decide_eq_true_eq] at h
    obtain ⟨-, h3⟩ := h
    unfold smPut
    split
    · rename_i hk
      split
      · rename_i hv
        have hne : a ≠ k := by omega
        simp only [smGet, hne, if_false]
        rw [smGet_of_le d t h3 (by omega), hv]
      · simp [smGet]
    · split
      · rename_i hk
        split
        · rename_i hv
          rw [smGet_of_le d t h3 (by omega), hv]
        · simp [smGet]
      · rename_i hk
        have hne : a ≠ k := by omega
        simp only [smGet, hne, if_false]
        exact ih _ h3

/-- In a canonical map, a read after a write at the same key gives the value written. -/
theorem smGet_smPut_same [DecidableEq α] (d : Nat → α) (k : Nat) (v : α) (m : SMap α) (h : smWf d m = true) :
    smGet d (smPut d k v m) k = v := smGet_smPut_from d k v m none h

/-- A lower bound may be lowered. -/
theorem smWfFrom_mono [DecidableEq α] (d : Nat → α) {b c : Nat} (m : SMap α) (h : smWfFrom d (some b) m = true) (hc : c ≤ b) :
    smWfFrom d (some c) m = true := by
  cases m with
  | nil => rfl
  | cons x t =>
    obtain ⟨a, w⟩ := x
    simp only [smWfFrom, Bool.and_eq_true, decide_eq_true_eq] at h ⊢
    exact ⟨⟨by omega, h.1.2⟩, h.2⟩

/-- A bound may be dropped. -/
theorem smWfFrom_none [DecidableEq α] (d : Nat → α) (lo : Option Nat) (m : SMap α) (h : smWfFrom d lo m = true) : smWf d m = true := by
  cases m with
  | nil => rfl
  | cons x t =>
    obtain ⟨a, w⟩ := x
    simp only [smWf, smWfFrom, Bool.and_eq_true, decide_eq_true_eq, Bool.true_and] at h ⊢
    exact ⟨h.1.2, h.2⟩

/-- A write above the bound keeps the canonical form. -/
theorem smWfFrom_smPut [DecidableEq α] (d : Nat → α) (k : Nat) (v : α) (m : SMap α) (lo : Option Nat) (h : smWfFrom d lo m = true)
    (hk : ∀ b, lo = some b → b < k) : smWfFrom d lo (smPut d k v m) = true := by
  induction m generalizing lo with
  | nil =>
    unfold smPut
    split
    · rfl
    · rename_i hv
      cases lo with
      | none => simp [smWfFrom, hv]
      | some b => simp [smWfFrom, hv, hk b rfl]
  | cons x t ih =>
    obtain ⟨a, w⟩ := x
    have h0 := h
    simp only [smWfFrom, Bool.and_eq_true, decide_eq_true_eq] at h
    obtain ⟨⟨h1, h2⟩, h3⟩ := h
    unfold smPut
    split
    · rename_i hka
      split
      · exact h0
      · rename_i hv
        cases lo with
        | none => simp [smWfFrom, hv, hka, h2, h3]
        | some b => simp [smWfFrom, hv, hka, h2, h3, hk b rfl]
    · split
      · rename_i hka
        subst hka
        split
        · cases lo with
          | none => exact smWfFrom_none d _ t h3
          | some b => exact smWfFrom_mono d t h3 (le_of_lt (hk b rfl))
        · rename_i hv
          simp only [smWfFrom, Bool.and_eq_true, decide_eq_true_eq]
          exact ⟨⟨h1, hv⟩, h3⟩
      · rename_i hka1 hka2
        simp only [smWfFrom, Bool.and_eq_true, decide_eq_true_eq]
        exact ⟨⟨h1, h2⟩, ih (some a) h3 (by intro b hb; cases hb; omega)⟩

/-- A write keeps the canonical form. -/
theorem smWf_smPut [DecidableEq α] (d : Nat → α) (k : Nat) (v : α) (m : SMap α) (h : smWf d m = true) : smWf d (smPut d k v m) = true :=
  smWfFrom_smPut d k v m none h (by intro b hb; cases hb)

/-- A removal keeps the canonical form from a bound. -/
theorem smWfFrom_smDrop [DecidableEq α] (d : Nat → α) (p : Nat → Bool) (m : SMap α) (lo : Option Nat) (h : smWfFrom d lo m = true) :
    smWfFrom d lo (smDrop p m) = true := by
  induction m generalizing lo with
  | nil => rfl
  | cons x t ih =>
    obtain ⟨a, w⟩ := x
    simp only [smWfFrom, Bool.and_eq_true, decide_eq_true_eq] at h
    obtain ⟨⟨h1, h2⟩, h3⟩ := h
    unfold smDrop
    split
    · cases lo with
      | none => exact ih none (smWfFrom_none d _ t h3)
      | some b => exact ih (some b) (smWfFrom_mono d t h3 (le_of_lt (by simpa using h1)))
    · simp only [smWfFrom, Bool.and_eq_true, decide_eq_true_eq]
      exact ⟨⟨h1, h2⟩, ih _ h3⟩

/-- A removal keeps the canonical form. -/
theorem smWf_smDrop [DecidableEq α] (d : Nat → α) (p : Nat → Bool) (m : SMap α) (h : smWf d m = true) : smWf d (smDrop p m) = true :=
  smWfFrom_smDrop d p m none h

/-- A filter keeps the canonical form from a bound. -/
theorem smWfFrom_filter [DecidableEq α] (d : Nat → α) (p : Nat × α → Bool) (m : SMap α) (lo : Option Nat) (h : smWfFrom d lo m = true) :
    smWfFrom d lo (m.filter p) = true := by
  induction m generalizing lo with
  | nil => rfl
  | cons x t ih =>
    obtain ⟨a, w⟩ := x
    simp only [smWfFrom, Bool.and_eq_true, decide_eq_true_eq] at h
    obtain ⟨⟨h1, h2⟩, h3⟩ := h
    rw [List.filter_cons]
    split
    · simp only [smWfFrom, Bool.and_eq_true, decide_eq_true_eq]
      exact ⟨⟨h1, h2⟩, ih _ h3⟩
    · cases lo with
      | none => exact ih none (smWfFrom_none d _ t h3)
      | some b => exact ih (some b) (smWfFrom_mono d t h3 (le_of_lt (by simpa using h1)))

/-- A filter keeps the canonical form. -/
theorem smWf_filter [DecidableEq α] (d : Nat → α) (p : Nat × α → Bool) (m : SMap α) (h : smWf d m = true) : smWf d (m.filter p) = true :=
  smWfFrom_filter d p m none h

/-- A read at a key that a removal keeps is unchanged; at one it removes, it gives the default. -/
theorem smGet_smDrop (d : Nat → α) (p : Nat → Bool) (m : SMap α) (k : Nat) : smGet d (smDrop p m) k = if p k then d k else smGet d m k := by
  induction m with
  | nil => simp [smDrop]
  | cons x t ih =>
    obtain ⟨a, w⟩ := x
    unfold smDrop
    by_cases ha : a = k
    · subst ha
      by_cases hp : p a <;> simp [hp, ih, smGet]
    · by_cases hp : p a <;> simp [hp, ih, smGet, ha]

end Sys2Proof.Machine
end

