-- ==== Sys2Proof/Laws/Keeps.lean ====
section
/-!
SUPPORT. What every command keeps: the queue as it found it, the canonical form of memory and of the registers, and NS in its range. This file holds the
predicate, the laws of the ways in which a meaning is put together, and those of the primitive operations; the Keeps files beside it have one law for each
operation and each command's meaning.
-/

namespace Sys2Proof.Machine

set_option Elab.async false

/-- What a state is held to: its queue, and whether its memory and registers are to be canonical and its NS in range. -/
structure Kept where
  queue : List Instr
  canon : Prop
  time : Prop

/-- The queue is q's; where q asks for it, memory and registers are canonical, and NS is in range, of CT and of a load that waits. -/
structure Keeps (q : Kept) (s : State) : Prop where
  queue : s.pending = q.queue
  mem : q.canon → smWf memDefault s.mem = true
  regs : q.canon → smWf regReset s.regs = true
  ns : q.time → s.ct.ns.toNat < 1000000000
  load : q.time → ∀ x, s.lks.pendLoad = some x → x.2 < 1000000000

/-- The same of an outcome's next state. -/
structure KeepsR (q : Kept) (r : Res) : Prop where
  next : ∀ t, r = .next t → Keeps q t

variable {q : Kept} {s t : State} {α β : Type}

/-- A change of other fields. -/
theorem keeps_congr (h : Keeps q s) (h1 : t.pending = s.pending) (h2 : t.mem = s.mem) (h3 : t.regs = s.regs) (h4 : t.ct = s.ct)
    (h5 : t.lks.pendLoad = s.lks.pendLoad) : Keeps q t :=
  ⟨h1 ▸ h.queue, h2 ▸ h.mem, h3 ▸ h.regs, h4 ▸ h.ns, h5 ▸ h.load⟩

/-- A state on the way. -/
theorem keeps_step {x : State} {P : Prop} (hx : Keeps q x) (f : Keeps q x → P) : P := f hx
/-- An outcome on the way. -/
theorem keepsR_step {x : Res} {P : Prop} (hx : KeepsR q x) (f : KeepsR q x → P) : P := f hx
/-- A pair on the way. -/
theorem keeps_step1 {x : State × α} {P : Prop} (hx : Keeps q x.1) (f : Keeps q x.1 → P) : P := f hx
/-- A pair on the way. -/
theorem keeps_step2 {x : α × State} {P : Prop} (hx : Keeps q x.2) (f : Keeps q x.2 → P) : P := f hx

theorem keeps_of_eq1 {a : α} {x : State} {e : State × α} (h : e = (x, a)) (he : Keeps q e.1) : Keeps q x := by subst h; exact he
theorem keeps_of_eq2 {a : α} {x : State} {e : α × State} (h : e = (a, x)) (he : Keeps q e.2) : Keeps q x := by subst h; exact he
theorem keepsR_next (h : Keeps q t) : KeepsR q (.next t) := ⟨fun x hx => by cases hx; exact h⟩
theorem keepsR_fault (r : Fault) : KeepsR q (.fault r) := ⟨fun x hx => by cases hx⟩
theorem keepsR_refused (r : Refusal) : KeepsR q (.refused r) := ⟨fun x hx => by cases hx⟩

theorem keeps_ite {c : Prop} [Decidable c] {a b : State} (ha : Keeps q a) (hb : Keeps q b) : Keeps q (if c then a else b) := by split <;> assumption
theorem keepsR_ite {c : Prop} [Decidable c] {a b : Res} (ha : KeepsR q a) (hb : KeepsR q b) : KeepsR q (if c then a else b) := by split <;> assumption

/-- A fold of steps that keep it. -/
theorem keeps_foldl {f : State → β → State} (hf : ∀ x b, Keeps q x → Keeps q (f x b)) (l : List β) (h : Keeps q s) : Keeps q (l.foldl f s) := by
  induction l generalizing s with
  | nil => exact h
  | cons b t ih => exact ih (hf s b h)

/-- A fold over a pair. -/
theorem keeps_foldl1 {f : State × α → β → State × α} (hf : ∀ x b, Keeps q x.1 → Keeps q (f x b).1) (l : List β) {x : State × α} (h : Keeps q x.1) :
    Keeps q (l.foldl f x).1 := by
  induction l generalizing x with
  | nil => exact h
  | cons b t ih => exact ih (hf x b h)

/-- A fold of an operation of an engine. -/
theorem keeps_foldlE {f : EngIo → β → EngIo} (hf : ∀ x b, Keeps q x.st → Keeps q (f x b).st) (l : List β) {x : EngIo} (h : Keeps q x.st) :
    Keeps q (l.foldl f x).st := by
  induction l generalizing x with
  | nil => exact h
  | cons b t ih => exact ih (hf x b h)

/-- The same over a pair. -/
theorem keeps_foldlE1 {f : EngIo × α → β → EngIo × α} (hf : ∀ x b, Keeps q x.1.st → Keeps q (f x b).1.st) (l : List β) {x : EngIo × α} (h : Keeps q x.1.st) :
    Keeps q (l.foldl f x).1.st := by
  induction l generalizing x with
  | nil => exact h
  | cons b t ih => exact ih (hf x b h)

/-- The same over a pair. -/
theorem keeps_foldlE2 {f : α × EngIo → β → α × EngIo} (hf : ∀ x b, Keeps q x.2.st → Keeps q (f x b).2.st) (l : List β) {x : α × EngIo} (h : Keeps q x.2.st) :
    Keeps q (l.foldl f x).2.st := by
  induction l generalizing x with
  | nil => exact h
  | cons b t ih => exact ih (hf x b h)

/-- The same over a triple. -/
theorem keeps_foldlE3 {γ : Type} {f : α × γ × EngIo → β → α × γ × EngIo} (hf : ∀ x b, Keeps q x.2.2.st → Keeps q (f x b).2.2.st) (l : List β)
    {x : α × γ × EngIo} (h : Keeps q x.2.2.st) : Keeps q (l.foldl f x).2.2.st := by
  induction l generalizing x with
  | nil => exact h
  | cons b t ih => exact ih (hf x b h)

/-- An operation of an engine on the way. -/
theorem keeps_stepE {x : EngIo} {P : Prop} (hx : Keeps q x.st) (f : Keeps q x.st → P) : P := f hx
/-- A pair on the way. -/
theorem keeps_stepE2 {x : α × EngIo} {P : Prop} (hx : Keeps q x.2.st) (f : Keeps q x.2.st → P) : P := f hx
theorem keeps_of_eqE1 {a : α} {x : EngIo} {e : EngIo × α} (h : e = (x, a)) (he : Keeps q e.1.st) : Keeps q x.st := by subst h; exact he
theorem keeps_of_eqE2 {a : α} {x : EngIo} {e : α × EngIo} (h : e = (a, x)) (he : Keeps q e.2.st) : Keeps q x.st := by subst h; exact he
theorem keeps_of_eqE3 {γ : Type} {a : α} {c : γ} {x : EngIo} {e : α × γ × EngIo} (h : e = (a, c, x)) (he : Keeps q e.2.2.st) : Keeps q x.st := by
  subst h; exact he
theorem keeps_of_eq12 {γ : Type} {a : α} {c : γ} {x : State} {e : State × α × γ} (h : e = (x, a, c)) (he : Keeps q e.1) : Keeps q x := by subst h; exact he

/-! ## The writers of memory keep its canonical form, where it is asked for -/

variable {P : Prop}

theorem wfIf_smPut {γ : Type} [DecidableEq γ] (d : Nat → γ) (k : Nat) (v : γ) (m : SMap γ) (h : P → smWf d m = true) : P → smWf d (smPut d k v m) = true :=
  fun hp => smWf_smPut d k v m (h hp)

theorem wfIf_smDrop {γ : Type} [DecidableEq γ] (d : Nat → γ) (f : Nat → Bool) (m : SMap γ) (h : P → smWf d m = true) : P → smWf d (smDrop f m) = true :=
  fun hp => smWf_smDrop d f m (h hp)

theorem wfIf_filter {γ : Type} [DecidableEq γ] (d : Nat → γ) (f : Nat × γ → Bool) (m : SMap γ) (h : P → smWf d m = true) : P → smWf d (m.filter f) = true :=
  fun hp => smWf_filter d f m (h hp)

theorem wfIf_putBytes (m : List Host.Cell) (a : Nat) (l : List Byte) (h : P → smWf memDefault m = true) : P → smWf memDefault (putBytes m a l) = true := by
  induction l generalizing m a with
  | nil => exact h
  | cons b t ih => exact ih _ _ (wfIf_smPut _ _ _ _ h)

theorem wfIf_putUnfenced (a : Nat) (l : List Byte) (m : List Host.Cell) (h : P → smWf memDefault m = true) :
    P → smWf memDefault (putUnfenced s a l m) = true := by
  induction l generalizing m a with
  | nil => exact h
  | cons b t ih =>
    refine ih _ _ ?_
    split
    · exact h
    · exact wfIf_smPut _ _ _ _ h

theorem wfIf_putMasked (p a mask v i n : Nat) (m : List Host.Cell) (h : P → smWf memDefault m = true) :
    P → smWf memDefault (putMasked s p a mask v i n m) = true := by
  induction n generalizing i m with
  | zero => exact h
  | succ n ih =>
    refine ih _ _ ?_
    split
    · exact h
    · exact wfIf_smPut _ _ _ _ h

theorem wfIf_flipBytes (e g n : Nat) (m : List Host.Cell) (h : P → smWf memDefault m = true) : P → smWf memDefault (flipBytes e g n m) = true := by
  induction n generalizing m with
  | zero => exact h
  | succ n ih => exact ih _ (wfIf_smPut _ _ _ _ h)

/-- A fold that puts entries. -/
theorem wfIf_foldl_smPut {γ : Type} [DecidableEq γ] (d : Nat → γ) (k : β → Nat) (v : β → γ) (l : List β) (m : SMap γ) (h : P → smWf d m = true) :
    P → smWf d (l.foldl (fun m x => smPut d (k x) (v x) m) m) = true := by
  induction l generalizing m with
  | nil => exact h
  | cons b t ih => exact ih _ (wfIf_smPut _ _ _ _ h)

theorem wfIf_overlayRegs (m x : SMap Word) (h : P → smWf regReset m = true) : P → smWf regReset (overlayRegs m x) = true :=
  wfIf_foldl_smPut regReset (fun c : Nat × Word => c.1) (fun c => c.2) x m h

/-- NS of a count of units is in range (R49). -/
theorem ofUnits_ns (u : Nat) : (CT.ofUnits u).ns.toNat < 1000000000 := by
  simp only [CT.ofUnits, BitVec.toNat_ofNat]
  omega

end Sys2Proof.Machine
end

