-- ==== Sys2Proof/Laws/KeepsBlock.lean ====
section
/-!
SUPPORT. That every operation and command's meaning keeps what Keeps names: the laws of the primitive operations, of time, of the memories' ECC, of records and slots, and of the pins.
-/

namespace Sys2Proof.Machine

set_option Elab.async false

variable {q : Kept} {s : State}

theorem mapJobs_keeps {a1 a2} (h : Keeps q s) : Keeps q (mapJobs s a1 a2) :=
  keeps_congr h rfl rfl rfl rfl rfl

theorem setR_keeps {a1 a2} (h : Keeps q s) : Keeps q (setR s a1 a2) := by
  unfold setR
  with_reducible repeat' (first | (constructor <;> dsimp only <;> repeat first | exact Keeps.queue ‹_› | exact Keeps.mem ‹_› | exact Keeps.regs ‹_› | exact Keeps.ns ‹_› | exact Keeps.load ‹_› | refine wfIf_smPut _ _ _ _ ?_))

theorem setR64_keeps {a1 a2} (h : Keeps q s) : Keeps q (setR64 s a1 a2) := by
  unfold setR64
  with_reducible repeat' (first | assumption | refine setR_keeps ?_)

theorem setF_keeps {a1 a2} (h : Keeps q s) : Keeps q (setF s a1 a2) := by
  unfold setF
  with_reducible repeat' (first
    | assumption | refine keeps_ite ?_ ?_ | refine setR_keeps ?_
    | refine setR64_keeps ?_)

theorem addF_keeps {a1 a2} (h : Keeps q s) : Keeps q (addF s a1 a2) := by
  unfold addF
  with_reducible repeat' (first | assumption | refine setF_keeps ?_)

theorem setTile_keeps {a1 a2} (h : Keeps q s) : Keeps q (setTile s a1 a2) :=
  keeps_congr h rfl rfl rfl rfl rfl

theorem mapNode_keeps {a1 a2} (h : Keeps q s) : Keeps q (mapNode s a1 a2) :=
  keeps_congr h rfl rfl rfl rfl rfl

theorem setDma_keeps {a1 a2 a3} (h : Keeps q s) : Keeps q (setDma s a1 a2 a3) :=
  keeps_congr h rfl rfl rfl rfl rfl

theorem emit_keeps {a1} (h : Keeps q s) : Keeps q (emit s a1) :=
  keeps_congr h rfl rfl rfl rfl rfl

theorem setInt_keeps {a1 a2} (h : Keeps q s) : Keeps q (setInt s a1 a2) :=
  keeps_congr h rfl rfl rfl rfl rfl

theorem intLevel_keeps {a1 a2} (h : Keeps q s) : Keeps q (intLevel s a1 a2) := by
  unfold intLevel
  with_reducible repeat' (first
    | assumption
    | (extract_lets +onlyGivenNames x; refine keeps_step (q := q) (x := x) ?_ ?_; (on_goal 1 => (dsimp -zeta only [x]; clear x)); (on_goal 2 => (clear_value x; revert x; intro _ _)))
    | (extract_lets +onlyGivenNames x; revert x; intro _)
    | refine keeps_ite ?_ ?_
    | refine setInt_keeps ?_
    | refine keeps_of_eq1 (by assumption) ?_
    | refine keeps_of_eq2 (by assumption) ?_
    | refine keeps_of_eq12 (by assumption) ?_
    | intro _
    | split
    | (dsimp -zeta +zetaDelta only; split)
    | (constructor <;> dsimp only <;> first | exact Keeps.queue ‹_› | exact Keeps.mem ‹_› | exact Keeps.regs ‹_› | exact Keeps.ns ‹_› | exact Keeps.load ‹_›))

theorem refresh_keeps {a1} (h : Keeps q s) : Keeps q (refresh s a1) := by
  unfold refresh
  with_reducible repeat' (first | assumption | refine keeps_ite ?_ ?_ | refine intLevel_keeps ?_)

theorem spareRow_keeps {a1 a2} (h : Keeps q s) : Keeps q (spareRow s a1 a2) := by
  unfold spareRow
  with_reducible repeat' (first
    | assumption | (extract_lets +onlyGivenNames x; revert x; intro _) | refine keeps_ite ?_ ?_
    | refine setF_keeps ?_ | refine refresh_keeps ?_
    | (constructor <;> dsimp only <;> first | exact Keeps.queue ‹_› | exact Keeps.mem ‹_› | exact Keeps.regs ‹_› | exact Keeps.ns ‹_› | exact Keeps.load ‹_›))

theorem setPoison_keeps {a1 a2} (h : Keeps q s) : Keeps q (setPoison s a1 a2) :=
  keeps_congr h rfl rfl rfl rfl rfl

theorem noteBank_keeps {a1 a2 a3 a4} (h : Keeps q s) : Keeps q (noteBank s a1 a2 a3 a4) :=
  keeps_congr h rfl rfl rfl rfl rfl

theorem recordFault_keeps {a1} (h : Keeps q s) : Keeps q (recordFault s a1) :=
  keeps_congr h rfl rfl rfl rfl rfl

theorem foundBad_keeps {a1 a2} (h : Keeps q s) : Keeps q (foundBad s a1 a2) := by
  unfold foundBad
  with_reducible repeat' (first
    | assumption
    | (extract_lets +onlyGivenNames x; refine keeps_step (q := q) (x := x) ?_ ?_; (on_goal 1 => (dsimp -zeta only [x]; clear x)); (on_goal 2 => (clear_value x; revert x; intro _ _)))
    | (extract_lets +onlyGivenNames x; revert x; intro _) | refine keeps_ite ?_ ?_ | refine spareRow_keeps ?_
    | refine setPoison_keeps ?_ | refine addF_keeps ?_ | refine setF_keeps ?_
    | refine noteBank_keeps ?_ | refine recordFault_keeps ?_ | refine refresh_keeps ?_ | split)

theorem putErr_keeps {a1 a2} (h : Keeps q s) : Keeps q (putErr s a1 a2) :=
  keeps_congr h rfl rfl rfl rfl rfl

theorem rsWriteBack_keeps {a1 a2} (h : Keeps q s) : Keeps q (rsWriteBack s a1 a2) := by
  unfold rsWriteBack
  refine keeps_ite (putErr_keeps h) ?_
  have hp := putErr_keeps (a1 := a1) (a2 := 0) h
  have hm := wfIf_flipBytes a2 a1 32 s.mem h.mem
  revert hm
  generalize flipBytes a2 a1 32 s.mem = m
  exact fun hm => ⟨hp.queue, hm, hp.regs, hp.ns, hp.load⟩

theorem noteWorn_keeps {a1} (h : Keeps q s) : Keeps q (noteWorn s a1) := by
  unfold noteWorn
  with_reducible repeat' (first
    | assumption
    | (extract_lets +onlyGivenNames x; refine keeps_step (q := q) (x := x) ?_ ?_; (on_goal 1 => (dsimp -zeta only [x]; clear x)); (on_goal 2 => (clear_value x; revert x; intro _ _)))
    | (extract_lets +onlyGivenNames x; revert x; intro _) | refine keeps_ite ?_ ?_ | refine recordFault_keeps ?_
    | (constructor <;> dsimp only <;> first | exact Keeps.queue ‹_› | exact Keeps.mem ‹_› | exact Keeps.regs ‹_› | exact Keeps.ns ‹_› | exact Keeps.load ‹_›))

theorem foundCorrected_keeps {a1 a2} (h : Keeps q s) : Keeps q (foundCorrected s a1 a2) := by
  unfold foundCorrected
  with_reducible repeat' (first
    | assumption
    | (extract_lets +onlyGivenNames x; refine keeps_step (q := q) (x := x) ?_ ?_; (on_goal 1 => (dsimp -zeta only [x]; clear x)); (on_goal 2 => (clear_value x; revert x; intro _ _)))
    | (extract_lets +onlyGivenNames x; revert x; intro _) | refine keeps_ite ?_ ?_ | refine spareRow_keeps ?_
    | refine noteWorn_keeps ?_ | refine addF_keeps ?_ | split | (dsimp -zeta +zetaDelta only; split)
    | (constructor <;> dsimp only <;> first | exact Keeps.queue ‹_› | exact Keeps.mem ‹_› | exact Keeps.regs ‹_› | exact Keeps.ns ‹_› | exact Keeps.load ‹_›))

theorem settle_keeps {a1} (h : Keeps q s) : Keeps q (settle s a1) := by
  unfold settle
  with_reducible repeat' (first
    | assumption
    | (extract_lets +onlyGivenNames x; revert x; intro _)
    | refine keeps_ite ?_ ?_
    | refine foundBad_keeps ?_
    | refine rsWriteBack_keeps ?_
    | refine foundCorrected_keeps ?_
    | refine putErr_keeps ?_
    | refine keeps_of_eq1 (by assumption) ?_
    | refine keeps_of_eq2 (by assumption) ?_
    | refine keeps_of_eq12 (by assumption) ?_
    | intro _
    | split)

theorem settleFrom_keeps {a1 a2} (h : Keeps q s) : Keeps q (settleFrom s a1 a2) := by
  induction a2 generalizing s a1 with
  | zero => exact h
  | succ n ih => exact ih (settle_keeps h)

theorem readBad_keeps {a1 a2} (h : Keeps q s) : Keeps q (readBad s a1 a2) := by
  unfold readBad
  with_reducible repeat' (first
    | assumption
    | refine keeps_ite ?_ ?_
    | refine settleFrom_keeps ?_)

theorem cleanFrom_keeps {a1 a2} (h : Keeps q s) : Keeps q (cleanFrom s a1 a2) := by
  induction a2 generalizing s a1 with
  | zero => exact h
  | succ n ih => exact ih (putErr_keeps (setPoison_keeps h))

theorem wrBytes_keeps {a1 a2} (h : Keeps q s) : Keeps q (wrBytes s a1 a2) := by
  unfold wrBytes
  with_reducible repeat' (first
    | assumption
    | (extract_lets +onlyGivenNames x; refine keeps_step (q := q) (x := x) ?_ ?_; (on_goal 1 => (dsimp -zeta only [x]; clear x)); (on_goal 2 => (clear_value x; revert x; intro _ _)))
    | refine keeps_ite ?_ ?_ | refine cleanFrom_keeps ?_
    | (constructor <;> dsimp only <;> repeat first | exact Keeps.queue ‹_› | exact Keeps.mem ‹_› | exact Keeps.regs ‹_› | exact Keeps.ns ‹_› | exact Keeps.load ‹_› | refine wfIf_putBytes _ _ _ ?_))

theorem settlePart_keeps {a1} (h : Keeps q s) : Keeps q (settlePart s a1) := by
  unfold settlePart
  with_reducible repeat' (first
    | assumption
    | refine keeps_ite ?_ ?_
    | refine settle_keeps ?_)

theorem settleEdge_keeps {a1 a2 a3} (h : Keeps q s) : Keeps q (settleEdge s a1 a2 a3) := by
  unfold settleEdge
  with_reducible repeat' (first
    | assumption
    | refine keeps_ite ?_ ?_
    | refine settlePart_keeps ?_
    | intro _
    | split
    | (dsimp -zeta +zetaDelta only; split)
    | (constructor <;> dsimp only <;> first | exact Keeps.queue ‹_› | exact Keeps.mem ‹_› | exact Keeps.regs ‹_› | exact Keeps.ns ‹_› | exact Keeps.load ‹_›))

theorem cleanOpen_keeps {a1 a2} (h : Keeps q s) : Keeps q (cleanOpen s a1 a2) := by
  induction a2 generalizing s a1 with
  | zero => exact h
  | succ n ih => exact ih (keeps_ite h (putErr_keeps (setPoison_keeps h)))

theorem wrMem_keeps {a1 a2} (h : Keeps q s) : Keeps q (wrMem s a1 a2) := by
  unfold wrMem
  with_reducible repeat' (first
    | assumption
    | (extract_lets +onlyGivenNames x; refine keeps_step (q := q) (x := x) ?_ ?_; (on_goal 1 => (dsimp -zeta only [x]; clear x)); (on_goal 2 => (clear_value x; revert x; intro _ _)))
    | refine keeps_ite ?_ ?_ | refine wrBytes_keeps ?_ | refine settleEdge_keeps ?_ | refine cleanOpen_keeps ?_
    | (constructor <;> dsimp only <;> repeat first | exact Keeps.queue ‹_› | exact Keeps.mem ‹_› | exact Keeps.regs ‹_› | exact Keeps.ns ‹_› | exact Keeps.load ‹_› | refine wfIf_putUnfenced _ _ _ ?_))

theorem setRing_keeps {a1 a2} (h : Keeps q s) : Keeps q (setRing s a1 a2) :=
  keeps_congr h rfl rfl rfl rfl rfl

theorem takeFree_keeps (h : Keeps q s) : Keeps q (takeFree s).2 :=
  keeps_congr h rfl rfl rfl rfl rfl

theorem setPin_keeps {a1 a2} (h : Keeps q s) : Keeps q (setPin s a1 a2) :=
  keeps_congr h rfl rfl rfl rfl rfl

theorem jumpCt_keeps {a1} (h : Keeps q s) : Keeps q (jumpCt s a1) := by
  unfold jumpCt
  with_reducible repeat' (first
    | assumption
    | refine fun (_ : Keeps q _) => ?_
    | (extract_lets +onlyGivenNames x; refine keeps_step (q := q) (x := x) ?_ ?_; (on_goal 1 => (dsimp -zeta only [x]; clear x)); (on_goal 2 => (clear_value x; revert x; intro _ _)))
    | (extract_lets +onlyGivenNames x; refine keeps_step1 (q := q) (x := x) ?_ ?_; (on_goal 1 => (dsimp -zeta only [x]; clear x)); (on_goal 2 => (clear_value x; revert x; intro _ _)))
    | (extract_lets +onlyGivenNames x; refine keeps_step2 (q := q) (x := x) ?_ ?_; (on_goal 1 => (dsimp -zeta only [x]; clear x)); (on_goal 2 => (clear_value x; revert x; intro _ _)))
    | (extract_lets +onlyGivenNames x; revert x; intro _)
    | refine keeps_ite ?_ ?_
    | refine keeps_foldl ?_ _ ?_
    | refine keeps_foldl1 ?_ _ ?_
    | refine setPin_keeps ?_
    | refine keeps_of_eq1 (by assumption) ?_
    | refine keeps_of_eq2 (by assumption) ?_
    | refine keeps_of_eq12 (by assumption) ?_
    | intro _
    | split
    | (dsimp -zeta +zetaDelta only; split)
    | (constructor <;> dsimp only <;> first | exact Keeps.queue ‹_› | exact Keeps.mem ‹_› | exact Keeps.regs ‹_› | exact Keeps.ns ‹_› | exact Keeps.load ‹_›))

theorem advanceCt_keeps (h : Keeps q s) : Keeps q (advanceCt s) := by
  unfold advanceCt
  split
  · rename_i a b e
    refine jumpCt_keeps ⟨h.queue, h.mem, h.regs, fun ht => ?_, fun _ x hx => by cases hx⟩
    have hl := h.load ht _ e
    simp only [BitVec.toNat_ofNat]
    exact Nat.lt_of_le_of_lt (Nat.mod_le _ _) hl
  · exact ⟨h.queue, h.mem, h.regs, fun _ => ofUnits_ns _, h.load⟩

theorem intPulse_keeps {a1} (h : Keeps q s) : Keeps q (intPulse s a1) := by
  unfold intPulse
  with_reducible repeat' (first
    | assumption
    | (extract_lets +onlyGivenNames x; refine keeps_step (q := q) (x := x) ?_ ?_; (on_goal 1 => (dsimp -zeta only [x]; clear x)); (on_goal 2 => (clear_value x; revert x; intro _ _)))
    | (extract_lets +onlyGivenNames x; revert x; intro _)
    | refine keeps_ite ?_ ?_
    | refine setInt_keeps ?_
    | refine keeps_of_eq1 (by assumption) ?_
    | refine keeps_of_eq2 (by assumption) ?_
    | refine keeps_of_eq12 (by assumption) ?_
    | intro _
    | split
    | (dsimp -zeta +zetaDelta only; split)
    | (constructor <;> dsimp only <;> first | exact Keeps.queue ‹_› | exact Keeps.mem ‹_› | exact Keeps.regs ‹_› | exact Keeps.ns ‹_› | exact Keeps.load ‹_›))

theorem rebaseServos_keeps (h : Keeps q s) : Keeps q (rebaseServos s) :=
  keeps_congr h rfl rfl rfl rfl rfl

theorem applyBase_keeps (h : Keeps q s) : Keeps q (applyBase s) := by
  unfold applyBase
  with_reducible repeat' (first
    | assumption
    | (extract_lets +onlyGivenNames x; refine keeps_step (q := q) (x := x) ?_ ?_; (on_goal 1 => (dsimp -zeta only [x]; clear x)); (on_goal 2 => (clear_value x; revert x; intro _ _)))
    | (extract_lets +onlyGivenNames x; revert x; intro _)
    | refine keeps_ite ?_ ?_
    | refine setF_keeps ?_
    | refine rebaseServos_keeps ?_
    | refine intPulse_keeps ?_
    | refine keeps_of_eq1 (by assumption) ?_
    | refine keeps_of_eq2 (by assumption) ?_
    | refine keeps_of_eq12 (by assumption) ?_
    | intro _
    | split
    | (constructor <;> dsimp only <;> first | exact Keeps.queue ‹_› | exact Keeps.mem ‹_› | exact Keeps.regs ‹_› | exact Keeps.ns ‹_› | exact Keeps.load ‹_›))

theorem applySnap_keeps (h : Keeps q s) : Keeps q (applySnap s) := by
  unfold applySnap
  with_reducible repeat' (first
    | assumption
    | (extract_lets +onlyGivenNames x; refine keeps_step (q := q) (x := x) ?_ ?_; (on_goal 1 => (dsimp -zeta only [x]; clear x)); (on_goal 2 => (clear_value x; revert x; intro _ _)))
    | (extract_lets +onlyGivenNames x; revert x; intro _) | refine keeps_ite ?_ ?_ | refine setF_keeps ?_
    | (constructor <;> dsimp only <;> first | exact Keeps.queue ‹_› | exact Keeps.mem ‹_› | exact Keeps.regs ‹_› | exact Keeps.ns ‹_› | exact Keeps.load ‹_›))

theorem setRemain_keeps {a1} (h : Keeps q s) : Keeps q (setRemain s a1) :=
  keeps_congr h rfl rfl rfl rfl rfl

theorem setSF_keeps {a1 a2} (h : Keeps q s) : Keeps q (setSF s a1 a2) := by
  unfold setSF
  with_reducible repeat' (first | assumption | refine setF_keeps ?_)

theorem writeFadj_keeps {a1} (h : Keeps q s) : Keeps q (writeFadj s a1) := by
  unfold writeFadj
  with_reducible repeat' (first
    | assumption
    | (extract_lets +onlyGivenNames x; refine keeps_step (q := q) (x := x) ?_ ?_; (on_goal 1 => (dsimp -zeta only [x]; clear x)); (on_goal 2 => (clear_value x; revert x; intro _ _)))
    | (extract_lets +onlyGivenNames x; revert x; intro _) | refine keeps_ite ?_ ?_ | refine setSF_keeps ?_
    | refine setF_keeps ?_)

theorem boundRemain_keeps {a1} (h : Keeps q s) : Keeps q (boundRemain s a1) := by
  unfold boundRemain
  with_reducible repeat' (first
    | assumption
    | (extract_lets +onlyGivenNames x; refine keeps_step (q := q) (x := x) ?_ ?_; (on_goal 1 => (dsimp -zeta only [x]; clear x)); (on_goal 2 => (clear_value x; revert x; intro _ _)))
    | (extract_lets +onlyGivenNames x; revert x; intro _)
    | refine keeps_ite ?_ ?_
    | refine setRemain_keeps ?_
    | refine setF_keeps ?_)

theorem applySwitch_keeps (h : Keeps q s) : Keeps q (applySwitch s) := by
  unfold applySwitch
  with_reducible repeat' (first
    | assumption
    | (extract_lets +onlyGivenNames x; refine keeps_step (q := q) (x := x) ?_ ?_; (on_goal 1 => (dsimp -zeta only [x]; clear x)); (on_goal 2 => (clear_value x; revert x; intro _ _)))
    | (extract_lets +onlyGivenNames x; revert x; intro _)
    | refine keeps_ite ?_ ?_
    | refine setF_keeps ?_
    | refine boundRemain_keeps ?_
    | refine writeFadj_keeps ?_
    | refine keeps_of_eq1 (by assumption) ?_
    | refine keeps_of_eq2 (by assumption) ?_
    | refine keeps_of_eq12 (by assumption) ?_
    | intro _
    | split
    | (constructor <;> dsimp only <;> first | exact Keeps.queue ‹_› | exact Keeps.mem ‹_› | exact Keeps.regs ‹_› | exact Keeps.ns ‹_› | exact Keeps.load ‹_›))

theorem atDt_keeps {a1} (h : Keeps q s) : Keeps q (atDt s a1) :=
  keeps_congr h rfl rfl rfl rfl rfl

theorem setLane_keeps {a1 a2} (h : Keeps q s) : Keeps q (setLane s a1 a2) :=
  keeps_congr h rfl rfl rfl rfl rfl

theorem setBitF_keeps {a1 a2} (h : Keeps q s) : Keeps q (setBitF s a1 a2) := by
  unfold setBitF
  with_reducible repeat' (first | assumption | refine setF_keeps ?_)

theorem clamp1_keeps {a1 a2 a3} (h : Keeps q s) : Keeps q (clamp1 s a1 a2 a3) := by
  unfold clamp1
  with_reducible repeat' (first
    | assumption | (extract_lets +onlyGivenNames x; revert x; intro _) | refine addF_keeps ?_
    | refine setF_keeps ?_)

theorem clampIf_keeps {a1 a2 a3 a4} (h : Keeps q s) : Keeps q (clampIf s a1 a2 a3 a4) := by
  unfold clampIf
  with_reducible repeat' (first | assumption | refine keeps_ite ?_ ?_ | refine clamp1_keeps ?_)

theorem clrBitF_keeps {a1 a2} (h : Keeps q s) : Keeps q (clrBitF s a1 a2) := by
  unfold clrBitF
  with_reducible repeat' (first | assumption | refine setF_keeps ?_)

theorem commandSwitch_keeps {a1} (h : Keeps q s) : Keeps q (commandSwitch s a1) :=
  keeps_congr h rfl rfl rfl rfl rfl

theorem showStamp_keeps {a1 a2} (h : Keeps q s) : Keeps q (showStamp s a1 a2) := by
  unfold showStamp
  with_reducible repeat' (first | assumption | refine setF_keeps ?_)

theorem loseRecord_keeps (h : Keeps q s) : Keeps q (loseRecord s) := by
  unfold loseRecord
  with_reducible repeat' (first | assumption | refine addF_keeps ?_)

theorem logAddrFault_keeps {a1 a2 a3 a4} (h : Keeps q s) : Keeps q (logAddrFault s a1 a2 a3 a4) := by
  unfold logAddrFault
  with_reducible repeat' (first
    | assumption
    | (extract_lets +onlyGivenNames x; refine keeps_step (q := q) (x := x) ?_ ?_; (on_goal 1 => (dsimp -zeta only [x]; clear x)); (on_goal 2 => (clear_value x; revert x; intro _ _)))
    | refine setF_keeps ?_ | split)

theorem showRecord_keeps {a1} (h : Keeps q s) : Keeps q (showRecord s a1) := by
  unfold showRecord
  with_reducible repeat' (first
    | assumption
    | (extract_lets +onlyGivenNames x; refine keeps_step (q := q) (x := x) ?_ ?_; (on_goal 1 => (dsimp -zeta only [x]; clear x)); (on_goal 2 => (clear_value x; revert x; intro _ _)))
    | (extract_lets +onlyGivenNames x; revert x; intro _)
    | refine keeps_ite ?_ ?_
    | refine setRing_keeps ?_
    | refine addF_keeps ?_
    | refine setF_keeps ?_
    | refine intPulse_keeps ?_
    | refine keeps_of_eq1 (by assumption) ?_
    | refine keeps_of_eq2 (by assumption) ?_
    | refine keeps_of_eq12 (by assumption) ?_
    | intro _
    | split
    | (dsimp -zeta +zetaDelta only; split)
    | (constructor <;> dsimp only <;> first | exact Keeps.queue ‹_› | exact Keeps.mem ‹_› | exact Keeps.regs ‹_› | exact Keeps.ns ‹_› | exact Keeps.load ‹_›))

theorem changeRec_keeps {a1 a2} (h : Keeps q s) : Keeps q (changeRec s a1 a2) := by
  unfold changeRec
  with_reducible repeat' (first
    | assumption
    | (extract_lets +onlyGivenNames x; refine keeps_step (q := q) (x := x) ?_ ?_; (on_goal 1 => (dsimp -zeta only [x]; clear x)); (on_goal 2 => (clear_value x; revert x; intro _ _)))
    | (extract_lets +onlyGivenNames x; revert x; intro _)
    | refine keeps_ite ?_ ?_
    | refine keeps_of_eq1 (by assumption) ?_
    | refine keeps_of_eq2 (by assumption) ?_
    | refine keeps_of_eq12 (by assumption) ?_
    | intro _
    | split
    | (dsimp -zeta +zetaDelta only; split)
    | (constructor <;> dsimp only <;> first | exact Keeps.queue ‹_› | exact Keeps.mem ‹_› | exact Keeps.regs ‹_› | exact Keeps.ns ‹_› | exact Keeps.load ‹_›))

theorem tellHost_keeps {a1 a2 a3} (h : Keeps q s) : Keeps q (tellHost s a1 a2 a3) := by
  unfold tellHost
  with_reducible repeat' (first
    | assumption
    | refine keeps_ite ?_ ?_
    | refine emit_keeps ?_)

theorem snoopLine_keeps {a1 a2} (h : Keeps q s) : Keeps q (snoopLine s a1 a2) := by
  unfold snoopLine
  with_reducible repeat' (first
    | assumption
    | refine keeps_ite ?_ ?_
    | refine emit_keeps ?_
    | intro _
    | split
    | (constructor <;> dsimp only <;> first | exact Keeps.queue ‹_› | exact Keeps.mem ‹_› | exact Keeps.regs ‹_› | exact Keeps.ns ‹_› | exact Keeps.load ‹_›))

theorem failJobs_keeps {a1 a2 a3 a4} (h : Keeps q s) : Keeps q (failJobs s a1 a2 a3 a4) := by
  unfold failJobs
  with_reducible repeat' (first | assumption | refine mapJobs_keeps ?_)

theorem execAnnounceSend_keeps {a1} (h : Keeps q s) : KeepsR q (execAnnounceSend a1 s) := by
  unfold execAnnounceSend
  with_reducible repeat' (first
    | assumption | refine keepsR_next ?_ | refine keeps_ite ?_ ?_
    | refine emit_keeps ?_)

theorem execCiOfsWrite_keeps {a1 a2} (h : Keeps q s) : KeepsR q (execCiOfsWrite a1 a2 s) := by
  unfold execCiOfsWrite
  with_reducible repeat' (first
    | assumption | refine keepsR_next ?_ | refine keeps_ite ?_ ?_
    | refine setF_keeps ?_)

theorem fifoPush_keeps {a1} (h : Keeps q s) : Keeps q (fifoPush s a1) := by
  unfold fifoPush
  with_reducible repeat' (first
    | assumption
    | refine fun (_ : Keeps q _) => ?_
    | refine keeps_ite ?_ ?_
    | refine keeps_foldl ?_ _ ?_
    | refine keeps_foldl1 ?_ _ ?_
    | refine intPulse_keeps ?_
    | refine addF_keeps ?_
    | refine emit_keeps ?_
    | intro _
    | split
    | (dsimp -zeta +zetaDelta only; split)
    | (constructor <;> dsimp only <;> first | exact Keeps.queue ‹_› | exact Keeps.mem ‹_› | exact Keeps.regs ‹_› | exact Keeps.ns ‹_› | exact Keeps.load ‹_›))

theorem pinAccept_keeps {a1 a2 a3 a4} (h : Keeps q s) : Keeps q (pinAccept s a1 a2 a3 a4) := by
  unfold pinAccept
  with_reducible repeat' (first
    | assumption
    | (extract_lets +onlyGivenNames x; refine keeps_step (q := q) (x := x) ?_ ?_; (on_goal 1 => (dsimp -zeta only [x]; clear x)); (on_goal 2 => (clear_value x; revert x; intro _ _)))
    | (extract_lets +onlyGivenNames x; revert x; intro _) | refine keeps_ite ?_ ?_ | refine setPin_keeps ?_
    | refine fifoPush_keeps ?_ | refine intPulse_keeps ?_)

theorem pinCloseWindow_keeps {a1} (h : Keeps q s) : Keeps q (pinCloseWindow s a1) := by
  unfold pinCloseWindow
  with_reducible repeat' (first
    | assumption
    | (extract_lets +onlyGivenNames x; refine keeps_step (q := q) (x := x) ?_ ?_; (on_goal 1 => (dsimp -zeta only [x]; clear x)); (on_goal 2 => (clear_value x; revert x; intro _ _)))
    | (extract_lets +onlyGivenNames x; revert x; intro _) | refine keeps_ite ?_ ?_ | refine setPin_keeps ?_
    | refine pinAccept_keeps ?_ | split)

theorem execCoalesceIntervalEnd_keeps {a1} (h : Keeps q s) : KeepsR q (execCoalesceIntervalEnd a1 s) := by
  unfold execCoalesceIntervalEnd
  with_reducible repeat' (first
    | assumption | refine keepsR_next ?_ | refine keeps_ite ?_ ?_
    | refine pinCloseWindow_keeps ?_ | split)

theorem formAddend_keeps (h : Keeps q s) : Keeps q (formAddend s) :=
  keeps_congr h rfl rfl rfl rfl rfl

theorem setTimeState_keeps {a1} (h : Keeps q s) : Keeps q (setTimeState s a1) := by
  unfold setTimeState
  with_reducible repeat' (first
    | assumption | refine keeps_ite ?_ ?_ | refine intPulse_keeps ?_
    | refine setF_keeps ?_)

theorem holdoverIfNone_keeps (h : Keeps q s) : Keeps q (holdoverIfNone s) := by
  unfold holdoverIfNone
  with_reducible repeat' (first
    | assumption
    | refine keeps_ite ?_ ?_
    | refine setTimeState_keeps ?_
    | intro _
    | split
    | (constructor <;> dsimp only <;> first | exact Keeps.queue ‹_› | exact Keeps.mem ‹_› | exact Keeps.regs ‹_› | exact Keeps.ns ‹_› | exact Keeps.load ‹_›))

theorem setServoState_keeps {a1 a2} (h : Keeps q s) : Keeps q (setServoState s a1 a2) := by
  unfold setServoState
  with_reducible repeat' (first
    | assumption | refine keeps_ite ?_ ?_ | refine intPulse_keeps ?_
    | refine setF_keeps ?_)

theorem applyLost_keeps (h : Keeps q s) : Keeps q (applyLost s) := by
  unfold applyLost
  with_reducible repeat' (first
    | assumption
    | refine fun (_ : Keeps q _) => ?_
    | refine keeps_ite ?_ ?_
    | refine keeps_foldl ?_ _ ?_
    | refine keeps_foldl1 ?_ _ ?_
    | refine holdoverIfNone_keeps ?_
    | refine setServoState_keeps ?_
    | intro _
    | split
    | (constructor <;> dsimp only <;> first | exact Keeps.queue ‹_› | exact Keeps.mem ‹_› | exact Keeps.regs ‹_› | exact Keeps.ns ‹_› | exact Keeps.load ‹_›))

theorem execCtAdvance_keeps (h : Keeps q s) : KeepsR q (execCtAdvance s) := by
  unfold execCtAdvance
  with_reducible repeat' (first
    | assumption
    | refine keepsR_next ?_
    | refine keepsR_fault _
    | refine keepsR_refused _
    | refine keepsR_ite ?_ ?_
    | refine keeps_ite ?_ ?_
    | refine formAddend_keeps ?_
    | refine applySnap_keeps ?_
    | refine applySwitch_keeps ?_
    | refine applyLost_keeps ?_
    | refine applyBase_keeps ?_
    | refine advanceCt_keeps ?_)

theorem execCtLoad_keeps (h : Keeps q s) : KeepsR q (execCtLoad s) := by
  unfold execCtLoad
  have h1 : ∀ a b, b < 1000000000 → Keeps q { s with lks := { s.lks with pendLoad := some (a, b) } } := fun a b hb =>
    ⟨h.queue, h.mem, h.regs, h.ns, fun _ x hx => by cases hx; exact hb⟩
  have h2 := h1 (getF s LKS_LOAD_SEC_SEC) (min (getF s LKS_LOAD_NS_NS) 999999999) (by omega)
  dsimp only
  split
  · refine keepsR_next ?_
    split
    · exact setTimeState_keeps h2
    · exact h2
  · exact keepsR_next (setF_keeps h)

theorem execDelayReqAnswer_keeps {a1} (h : Keeps q s) : KeepsR q (execDelayReqAnswer a1 s) := by
  unfold execDelayReqAnswer
  with_reducible repeat' (first
    | assumption | (extract_lets +onlyGivenNames x; revert x; intro _) | refine keepsR_next ?_
    | refine keeps_ite ?_ ?_ | refine emit_keeps ?_ | split
    | (constructor <;> dsimp only <;> first | exact Keeps.queue ‹_› | exact Keeps.mem ‹_› | exact Keeps.regs ‹_› | exact Keeps.ns ‹_› | exact Keeps.load ‹_›))

theorem execDomainSwitch_keeps {a1} (h : Keeps q s) : KeepsR q (execDomainSwitch a1 s) := by
  unfold execDomainSwitch
  with_reducible repeat' (first
    | assumption | refine keepsR_next ?_ | refine setF_keeps ?_
    | refine commandSwitch_keeps ?_)

theorem pinExpire_keeps {a1 a2} (h : Keeps q s) : Keeps q (pinExpire s a1 a2) := by
  unfold pinExpire
  with_reducible repeat' (first | assumption | refine keeps_ite ?_ ?_ | refine pinCloseWindow_keeps ?_ | split)

theorem pinSetLevel_keeps {a1 a2 a3} (h : Keeps q s) : Keeps q (pinSetLevel s a1 a2 a3) := by
  unfold pinSetLevel
  with_reducible repeat' (first
    | assumption
    | (extract_lets +onlyGivenNames x; refine keeps_step (q := q) (x := x) ?_ ?_; (on_goal 1 => (dsimp -zeta only [x]; clear x)); (on_goal 2 => (clear_value x; revert x; intro _ _)))
    | (extract_lets +onlyGivenNames x; revert x; intro _) | refine keeps_ite ?_ ?_ | refine setPin_keeps ?_
    | refine setF_keeps ?_ | refine setBitF_keeps ?_ | refine clrBitF_keeps ?_)

theorem pinEdge_keeps {a1 a2 a3} (h : Keeps q s) : Keeps q (pinEdge s a1 a2 a3) := by
  unfold pinEdge
  with_reducible repeat' (first
    | assumption
    | (extract_lets +onlyGivenNames x; refine keeps_step (q := q) (x := x) ?_ ?_; (on_goal 1 => (dsimp -zeta only [x]; clear x)); (on_goal 2 => (clear_value x; revert x; intro _ _)))
    | (extract_lets +onlyGivenNames x; revert x; intro _) | refine keeps_ite ?_ ?_ | refine setPin_keeps ?_
    | refine addF_keeps ?_ | refine pinExpire_keeps ?_ | refine pinSetLevel_keeps ?_
    | refine pinAccept_keeps ?_ | split)

theorem pinNote_keeps {s0 : State} {a1 a2 a3} (h : Keeps q s) : Keeps q (pinNote s0 s a1 a2 a3) := setPin_keeps h

theorem pinUndo_keeps {a1 a2 a3} (h : Keeps q s) : Keeps q (pinUndo s a1 a2 a3) := by
  unfold pinUndo
  with_reducible repeat' (first
    | assumption
    | (extract_lets +onlyGivenNames x; refine keeps_step (q := q) (x := x) ?_ ?_; (on_goal 1 => (dsimp -zeta only [x]; clear x)); (on_goal 2 => (clear_value x; revert x; intro _ _)))
    | (extract_lets +onlyGivenNames x; revert x; intro _)
    | refine keeps_ite ?_ ?_
    | refine setInt_keeps ?_
    | refine setF_keeps ?_
    | refine pinSetLevel_keeps ?_
    | refine setPin_keeps ?_
    | refine keeps_of_eq1 (by assumption) ?_
    | refine keeps_of_eq2 (by assumption) ?_
    | refine keeps_of_eq12 (by assumption) ?_
    | intro _
    | split
    | (dsimp -zeta +zetaDelta only; split)
    | (constructor <;> dsimp only <;> first | exact Keeps.queue ‹_› | exact Keeps.mem ‹_› | exact Keeps.regs ‹_› | exact Keeps.ns ‹_› | exact Keeps.load ‹_›))

theorem pinComes_keeps {a1 a2} (h : Keeps q s) : Keeps q (pinComes s a1 a2) := by
  unfold pinComes
  with_reducible repeat' (first
    | assumption
    | (extract_lets +onlyGivenNames x; refine keeps_step (q := q) (x := x) ?_ ?_; (on_goal 1 => (dsimp -zeta only [x]; clear x)); (on_goal 2 => (clear_value x; revert x; intro _ _)))
    | (extract_lets +onlyGivenNames x; revert x; intro _)
    | refine keeps_ite ?_ ?_
    | refine pinExpire_keeps ?_
    | refine pinNote_keeps ?_
    | refine pinEdge_keeps ?_
    | refine pinUndo_keeps ?_
    | refine keeps_of_eq1 (by assumption) ?_
    | refine keeps_of_eq2 (by assumption) ?_
    | refine keeps_of_eq12 (by assumption) ?_
    | intro _
    | split
    | (dsimp -zeta +zetaDelta only; split)
    | (constructor <;> dsimp only <;> first | exact Keeps.queue ‹_› | exact Keeps.mem ‹_› | exact Keeps.regs ‹_› | exact Keeps.ns ‹_› | exact Keeps.load ‹_›))

theorem execEventPinEdge_keeps {a1 a2 a3} (h : Keeps q s) : KeepsR q (execEventPinEdge a1 a2 a3 s) := by
  unfold execEventPinEdge
  with_reducible repeat' (first
    | assumption
    | refine keepsR_next ?_
    | refine keepsR_fault _
    | refine keepsR_refused _
    | refine keepsR_ite ?_ ?_
    | refine keeps_ite ?_ ?_
    | refine pinComes_keeps ?_
    | refine atDt_keeps ?_)

theorem execEvtFifoClrLost_keeps (h : Keeps q s) : KeepsR q (execEvtFifoClrLost s) := by
  unfold execEvtFifoClrLost
  with_reducible repeat' (first | assumption | refine keepsR_next ?_ | refine setF_keeps ?_)

theorem execEvtFifoPop_keeps (h : Keeps q s) : KeepsR q (execEvtFifoPop s) := by
  unfold execEvtFifoPop
  with_reducible repeat' (first
    | refine keepsR_next ?_
    | (constructor <;> dsimp only <;> first | exact Keeps.queue ‹_› | exact Keeps.mem ‹_› | exact Keeps.regs ‹_› | exact Keeps.ns ‹_› | exact Keeps.load ‹_›))

theorem execEvtOvrClr_keeps {a1} (h : Keeps q s) : KeepsR q (execEvtOvrClr a1 s) := by
  unfold execEvtOvrClr
  with_reducible repeat' (first | assumption | refine keepsR_next ?_ | refine setF_keeps ?_)

theorem execHoldoverLimitExpiry_keeps (h : Keeps q s) : KeepsR q (execHoldoverLimitExpiry s) := by
  unfold execHoldoverLimitExpiry
  with_reducible repeat' (first
    | assumption | refine keepsR_next ?_ | refine keepsR_ite ?_ ?_
    | refine setTimeState_keeps ?_ | split)

theorem execLaneCalibrationEnd_keeps {a1} (h : Keeps q s) : KeepsR q (execLaneCalibrationEnd a1 s) := by
  unfold execLaneCalibrationEnd
  with_reducible repeat' (first
    | assumption
    | (extract_lets +onlyGivenNames x; revert x; intro _)
    | refine keepsR_next ?_
    | refine keepsR_fault _
    | refine keepsR_refused _
    | refine keepsR_ite ?_ ?_
    | refine keeps_ite ?_ ?_
    | refine setF_keeps ?_
    | refine setLane_keeps ?_)

theorem passDone_keeps {a1} (h : Keeps q s) : Keeps q (passDone s a1) := by
  unfold passDone
  with_reducible repeat' (first
    | assumption
    | (extract_lets +onlyGivenNames x; refine keeps_step (q := q) (x := x) ?_ ?_; (on_goal 1 => (dsimp -zeta only [x]; clear x)); (on_goal 2 => (clear_value x; revert x; intro _ _)))
    | refine addF_keeps ?_ | split
    | (constructor <;> dsimp only <;> first | exact Keeps.queue ‹_› | exact Keeps.mem ‹_› | exact Keeps.regs ‹_› | exact Keeps.ns ‹_› | exact Keeps.load ‹_›))

theorem execPatrolScrub_keeps {a1 a2 a3} (h : Keeps q s) : KeepsR q (execPatrolScrub a1 a2 a3 s) := by
  unfold execPatrolScrub
  with_reducible repeat' (first
    | assumption
    | (extract_lets +onlyGivenNames x; refine keeps_step (q := q) (x := x) ?_ ?_; (on_goal 1 => (dsimp -zeta only [x]; clear x)); (on_goal 2 => (clear_value x; revert x; intro _ _)))
    | (extract_lets +onlyGivenNames x; revert x; intro _)
    | refine keepsR_next ?_
    | refine keepsR_fault _
    | refine keepsR_refused _
    | refine keepsR_ite ?_ ?_
    | refine keeps_ite ?_ ?_
    | refine putErr_keeps ?_
    | refine settle_keeps ?_
    | refine passDone_keeps ?_)

theorem execPhaseReq_keeps {a1} (h : Keeps q s) : KeepsR q (execPhaseReq a1 s) := by
  unfold execPhaseReq
  with_reducible repeat' (first
    | assumption
    | refine keepsR_next ?_
    | refine keepsR_fault _
    | refine keepsR_refused _
    | refine keepsR_ite ?_ ?_
    | refine keeps_ite ?_ ?_
    | refine boundRemain_keeps ?_)

theorem execPinHeld_keeps {a1} (h : Keeps q s) : KeepsR q (execPinHeld a1 s) := by
  unfold execPinHeld
  with_reducible repeat' (first
    | assumption | (extract_lets +onlyGivenNames x; revert x; intro _) | refine keepsR_next ?_
    | refine keeps_ite ?_ ?_ | refine intPulse_keeps ?_ | refine setBitF_keeps ?_)

theorem execPinRearm_keeps {a1} (h : Keeps q s) : KeepsR q (execPinRearm a1 s) := by
  unfold execPinRearm
  with_reducible repeat' (first
    | assumption | (extract_lets +onlyGivenNames x; revert x; intro _) | refine keepsR_next ?_
    | refine keeps_ite ?_ ?_ | refine clrBitF_keeps ?_)

theorem execPpsInEdge_keeps {a1 a2} (h : Keeps q s) : KeepsR q (execPpsInEdge a1 a2 s) := by
  unfold execPpsInEdge
  with_reducible repeat' (first
    | assumption
    | refine keepsR_next ?_
    | refine keepsR_fault _
    | refine keepsR_refused _
    | refine keepsR_ite ?_ ?_
    | refine keeps_ite ?_ ?_
    | refine pinComes_keeps ?_
    | refine atDt_keeps ?_)

theorem execPpsOutEdge_keeps (h : Keeps q s) : KeepsR q (execPpsOutEdge s) := by
  unfold execPpsOutEdge
  with_reducible repeat' (first
    | assumption | (extract_lets +onlyGivenNames x; revert x; intro _) | refine keepsR_next ?_
    | refine keeps_ite ?_ ?_ | refine emit_keeps ?_
    | (constructor <;> dsimp only <;> first | exact Keeps.queue ‹_› | exact Keeps.mem ‹_› | exact Keeps.regs ‹_› | exact Keeps.ns ‹_› | exact Keeps.load ‹_›))

theorem execPpsOutFall_keeps (h : Keeps q s) : KeepsR q (execPpsOutFall s) := by
  unfold execPpsOutFall
  with_reducible repeat' (first
    | assumption | (extract_lets +onlyGivenNames x; revert x; intro _) | refine keepsR_next ?_
    | refine keeps_ite ?_ ?_ | refine emit_keeps ?_ | split
    | (constructor <;> dsimp only <;> first | exact Keeps.queue ‹_› | exact Keeps.mem ‹_› | exact Keeps.regs ‹_› | exact Keeps.ns ‹_› | exact Keeps.load ‹_›))

theorem execPtmDialogue_keeps {a1 a2} (h : Keeps q s) : KeepsR q (execPtmDialogue a1 a2 s) := by
  unfold execPtmDialogue
  with_reducible repeat' (first
    | assumption
    | (extract_lets +onlyGivenNames x; refine keeps_step (q := q) (x := x) ?_ ?_; (on_goal 1 => (dsimp -zeta only [x]; clear x)); (on_goal 2 => (clear_value x; revert x; intro _ _)))
    | (extract_lets +onlyGivenNames x; revert x; intro _) | refine keepsR_next ?_ | refine keepsR_ite ?_ ?_
    | refine setF_keeps ?_ | refine atDt_keeps ?_
    | (constructor <;> dsimp only <;> first | exact Keeps.queue ‹_› | exact Keeps.mem ‹_› | exact Keeps.regs ‹_› | exact Keeps.ns ‹_› | exact Keeps.load ‹_›))

theorem execPtpDropClr_keeps (h : Keeps q s) : KeepsR q (execPtpDropClr s) := by
  unfold execPtpDropClr
  with_reducible repeat' (first | assumption | refine keepsR_next ?_ | refine setF_keeps ?_)

theorem setServo_keeps {a1 a2} (h : Keeps q s) : Keeps q (setServo s a1 a2) := by
  unfold setServo
  with_reducible repeat' (first
    | (extract_lets +onlyGivenNames x; revert x; intro _) | refine keeps_ite ?_ ?_
    | (constructor <;> dsimp only <;> first | exact Keeps.queue ‹_› | exact Keeps.mem ‹_› | exact Keeps.regs ‹_› | exact Keeps.ns ‹_› | exact Keeps.load ‹_›))

theorem servoSync_keeps {a1 a2 a3 a4 a5} (h : Keeps q s) : Keeps q (servoSync s a1 a2 a3 a4 a5) := by
  unfold servoSync
  with_reducible repeat' (first
    | assumption
    | (extract_lets +onlyGivenNames x; refine keeps_step (q := q) (x := x) ?_ ?_; (on_goal 1 => (dsimp -zeta only [x]; clear x)); (on_goal 2 => (clear_value x; revert x; intro _ _)))
    | (extract_lets +onlyGivenNames x; revert x; intro _)
    | refine keeps_ite ?_ ?_
    | refine setServoState_keeps ?_
    | refine takeFree_keeps ?_
    | refine setServo_keeps ?_
    | refine boundRemain_keeps ?_
    | refine writeFadj_keeps ?_
    | refine emit_keeps ?_)

theorem servoMsg_keeps {a1 a2 a3} (h : Keeps q s) : Keeps q (servoMsg s a1 a2 a3) := by
  unfold servoMsg
  with_reducible repeat' (first
    | assumption
    | (extract_lets +onlyGivenNames x; refine keeps_step (q := q) (x := x) ?_ ?_; (on_goal 1 => (dsimp -zeta only [x]; clear x)); (on_goal 2 => (clear_value x; revert x; intro _ _)))
    | (extract_lets +onlyGivenNames x; revert x; intro _)
    | refine keeps_ite ?_ ?_
    | refine setServo_keeps ?_
    | refine servoSync_keeps ?_
    | refine setF_keeps ?_
    | refine keeps_of_eq1 (by assumption) ?_
    | refine keeps_of_eq2 (by assumption) ?_
    | refine keeps_of_eq12 (by assumption) ?_
    | intro _
    | split
    | (dsimp -zeta +zetaDelta only; split)
    | (constructor <;> dsimp only <;> first | exact Keeps.queue ‹_› | exact Keeps.mem ‹_› | exact Keeps.regs ‹_› | exact Keeps.ns ‹_› | exact Keeps.load ‹_›))

theorem bcMsg_keeps {a1 a2} (h : Keeps q s) : Keeps q (bcMsg s a1 a2) := by
  unfold bcMsg
  with_reducible repeat' (first
    | assumption
    | (extract_lets +onlyGivenNames x; revert x; intro _)
    | refine keeps_ite ?_ ?_
    | refine emit_keeps ?_
    | refine takeFree_keeps ?_
    | refine setF_keeps ?_
    | refine keeps_of_eq1 (by assumption) ?_
    | refine keeps_of_eq2 (by assumption) ?_
    | refine keeps_of_eq12 (by assumption) ?_
    | intro _
    | split
    | (constructor <;> dsimp only <;> first | exact Keeps.queue ‹_› | exact Keeps.mem ‹_› | exact Keeps.regs ‹_› | exact Keeps.ns ‹_› | exact Keeps.load ‹_›))

theorem execPtpFrameReceive_keeps {a1 a2} (h : Keeps q s) : KeepsR q (execPtpFrameReceive a1 a2 s) := by
  unfold execPtpFrameReceive
  with_reducible repeat' (first
    | assumption
    | (extract_lets +onlyGivenNames x; refine keeps_step (q := q) (x := x) ?_ ?_; (on_goal 1 => (dsimp -zeta only [x]; clear x)); (on_goal 2 => (clear_value x; revert x; intro _ _)))
    | refine keepsR_next ?_
    | refine keepsR_fault _
    | refine keepsR_refused _
    | refine keepsR_ite ?_ ?_
    | refine keeps_ite ?_ ?_
    | refine atDt_keeps ?_
    | refine addF_keeps ?_
    | refine servoMsg_keeps ?_
    | refine bcMsg_keeps ?_)

theorem refreshAll_keeps {a1} (h : Keeps q s) : Keeps q (refreshAll s a1) := by
  unfold refreshAll
  with_reducible repeat' (first
    | assumption | refine fun (_ : Keeps q _) => ?_ | refine keeps_foldl ?_ _ ?_
    | refine refresh_keeps ?_ | intro _)

theorem resetRegs_keeps {a1} (h : Keeps q s) : Keeps q (resetRegs s a1) := by
  unfold resetRegs
  with_reducible repeat' (first | (constructor <;> dsimp only <;> repeat first | exact Keeps.queue ‹_› | exact Keeps.mem ‹_› | exact Keeps.regs ‹_› | exact Keeps.ns ‹_› | exact Keeps.load ‹_› | refine wfIf_smDrop _ _ _ ?_))

theorem execReferenceGood_keeps (h : Keeps q s) : KeepsR q (execReferenceGood s) := by
  unfold execReferenceGood
  with_reducible repeat' (first
    | assumption | (extract_lets +onlyGivenNames x; revert x; intro _) | refine keepsR_next ?_
    | refine keepsR_ite ?_ ?_
    | (constructor <;> dsimp only <;> first | exact Keeps.queue ‹_› | exact Keeps.mem ‹_› | exact Keeps.regs ‹_› | exact Keeps.ns ‹_› | exact Keeps.load ‹_›))

theorem execReferenceLost_keeps {a1 a2} (h : Keeps q s) : KeepsR q (execReferenceLost a1 a2 s) := by
  unfold execReferenceLost
  with_reducible repeat' (first
    | assumption | (extract_lets +onlyGivenNames x; revert x; intro _) | refine keepsR_next ?_
    | refine keepsR_ite ?_ ?_
    | (constructor <;> dsimp only <;> first | exact Keeps.queue ‹_› | exact Keeps.mem ‹_› | exact Keeps.regs ‹_› | exact Keeps.ns ‹_› | exact Keeps.load ‹_›))

theorem execRowSpareCopyDone_keeps {a1} (h : Keeps q s) : KeepsR q (execRowSpareCopyDone a1 s) := by
  unfold execRowSpareCopyDone
  with_reducible repeat' (first
    | assumption
    | (extract_lets +onlyGivenNames x; refine keeps_step (q := q) (x := x) ?_ ?_; (on_goal 1 => (dsimp -zeta only [x]; clear x)); (on_goal 2 => (clear_value x; revert x; intro _ _)))
    | (extract_lets +onlyGivenNames x; revert x; intro _) | refine keepsR_next ?_ | refine keeps_ite ?_ ?_
    | refine addF_keeps ?_ | refine setF_keeps ?_ | refine refresh_keeps ?_ | split
    | (constructor <;> dsimp only <;> first | exact Keeps.queue ‹_› | exact Keeps.mem ‹_› | exact Keeps.regs ‹_› | exact Keeps.ns ‹_› | exact Keeps.load ‹_›))

theorem takeSynce_keeps (h : Keeps q s) : Keeps q (takeSynce s) := by
  unfold takeSynce
  with_reducible repeat' (first
    | assumption
    | refine keeps_ite ?_ ?_
    | refine writeFadj_keeps ?_)

theorem execServoLock_keeps {a1 a2} (h : Keeps q s) : KeepsR q (execServoLock a1 a2 s) := by
  unfold execServoLock
  with_reducible repeat' (first
    | assumption
    | (extract_lets +onlyGivenNames x; refine keeps_step (q := q) (x := x) ?_ ?_; (on_goal 1 => (dsimp -zeta only [x]; clear x)); (on_goal 2 => (clear_value x; revert x; intro _ _)))
    | (extract_lets +onlyGivenNames x; revert x; intro _) | refine keepsR_next ?_ | refine keepsR_ite ?_ ?_
    | refine takeSynce_keeps ?_ | refine keeps_ite ?_ ?_ | refine boundRemain_keeps ?_
    | refine setTimeState_keeps ?_ | refine jumpCt_keeps ?_ | refine setServo_keeps ?_ | refine setServoState_keeps ?_
    | (constructor <;> dsimp only <;> first | exact Keeps.queue ‹_› | exact Keeps.mem ‹_› | exact Keeps.regs ‹_› | exact Keeps.ns ‹_› | exact Keeps.load ‹_› | exact fun _ => ofUnits_ns _))

theorem execServoLost_keeps {a1} (h : Keeps q s) : KeepsR q (execServoLost a1 s) := by
  unfold execServoLost
  with_reducible repeat' (first
    | assumption
    | (extract_lets +onlyGivenNames x; refine keeps_step (q := q) (x := x) ?_ ?_; (on_goal 1 => (dsimp -zeta only [x]; clear x)); (on_goal 2 => (clear_value x; revert x; intro _ _)))
    | (extract_lets +onlyGivenNames x; revert x; intro _) | refine keepsR_next ?_ | refine keeps_ite ?_ ?_
    | refine keepsR_ite ?_ ?_ | refine setTimeState_keeps ?_ | refine setF_keeps ?_
    | refine setServoState_keeps ?_ | refine commandSwitch_keeps ?_
    | (constructor <;> dsimp only <;> first | exact Keeps.queue ‹_› | exact Keeps.mem ‹_› | exact Keeps.regs ‹_› | exact Keeps.ns ‹_› | exact Keeps.load ‹_›))

theorem execSnapTake_keeps (h : Keeps q s) : KeepsR q (execSnapTake s) := by
  unfold execSnapTake
  with_reducible repeat' (first
    | (extract_lets +onlyGivenNames x; revert x; intro _) | refine keepsR_next ?_
    | (constructor <;> dsimp only <;> first | exact Keeps.queue ‹_› | exact Keeps.mem ‹_› | exact Keeps.regs ‹_› | exact Keeps.ns ‹_› | exact Keeps.load ‹_›))

theorem execSpareReq_keeps {a1} (h : Keeps q s) : KeepsR q (execSpareReq a1 s) := by
  unfold execSpareReq
  with_reducible repeat' (first
    | assumption
    | refine keepsR_next ?_
    | refine keepsR_fault _
    | refine keepsR_refused _
    | refine keepsR_ite ?_ ?_
    | refine keeps_ite ?_ ?_
    | refine spareRow_keeps ?_
    | intro _
    | split
    | (dsimp -zeta +zetaDelta only; split)
    | (constructor <;> dsimp only <;> first | exact Keeps.queue ‹_› | exact Keeps.mem ‹_› | exact Keeps.regs ‹_› | exact Keeps.ns ‹_› | exact Keeps.load ‹_›))

theorem execSyncSend_keeps {a1 a2} (h : Keeps q s) : KeepsR q (execSyncSend a1 a2 s) := by
  unfold execSyncSend
  with_reducible repeat' (first
    | assumption
    | (extract_lets +onlyGivenNames x; refine keeps_step (q := q) (x := x) ?_ ?_; (on_goal 1 => (dsimp -zeta only [x]; clear x)); (on_goal 2 => (clear_value x; revert x; intro _ _)))
    | refine keepsR_next ?_ | refine keeps_ite ?_ ?_ | refine emit_keeps ?_
    | refine atDt_keeps ?_)

theorem execSynceLockChange_keeps {a1 a2} (h : Keeps q s) : KeepsR q (execSynceLockChange a1 a2 s) := by
  unfold execSynceLockChange
  with_reducible repeat' (first
    | assumption
    | (extract_lets +onlyGivenNames x; refine keeps_step (q := q) (x := x) ?_ ?_; (on_goal 1 => (dsimp -zeta only [x]; clear x)); (on_goal 2 => (clear_value x; revert x; intro _ _)))
    | (extract_lets +onlyGivenNames x; revert x; intro _)
    | refine keepsR_next ?_
    | refine keepsR_fault _
    | refine keepsR_refused _
    | refine keepsR_ite ?_ ?_
    | refine keeps_ite ?_ ?_
    | refine setF_keeps ?_
    | refine takeSynce_keeps ?_
    | refine keeps_of_eq1 (by assumption) ?_
    | refine keeps_of_eq2 (by assumption) ?_
    | refine keeps_of_eq12 (by assumption) ?_
    | intro _
    | split
    | (constructor <;> dsimp only <;> first | exact Keeps.queue ‹_› | exact Keeps.mem ‹_› | exact Keeps.regs ‹_› | exact Keeps.ns ‹_› | exact Keeps.load ‹_›))

theorem voutCommand_keeps {a1 a2} (h : Keeps q s) : Keeps q (voutCommand s a1 a2) := by
  unfold voutCommand
  with_reducible repeat' (first
    | assumption
    | refine keeps_ite ?_ ?_
    | refine emit_keeps ?_
    | intro _
    | split
    | (dsimp -zeta +zetaDelta only; split)
    | (constructor <;> dsimp only <;> first | exact Keeps.queue ‹_› | exact Keeps.mem ‹_› | exact Keeps.regs ‹_› | exact Keeps.ns ‹_› | exact Keeps.load ‹_›))

theorem askHost_keeps {a1 a2} (h : Keeps q s) : Keeps q (askHost s a1 a2) := by
  unfold askHost
  with_reducible repeat' (first
    | assumption
    | refine keeps_ite ?_ ?_
    | refine emit_keeps ?_)

theorem fetchImage_keeps {a1 a2 a3} (h : Keeps q s) : Keeps q (fetchImage s a1 a2 a3).1 := by
  unfold fetchImage
  with_reducible repeat' (first
    | assumption
    | (extract_lets +onlyGivenNames x; refine keeps_step (q := q) (x := x) ?_ ?_; (on_goal 1 => (dsimp -zeta only [x]; clear x)); (on_goal 2 => (clear_value x; revert x; intro _ _)))
    | refine keeps_ite ?_ ?_
    | refine logAddrFault_keeps ?_
    | refine readBad_keeps ?_
    | refine askHost_keeps ?_
    | refine keeps_of_eq1 (by assumption) ?_
    | refine keeps_of_eq2 (by assumption) ?_
    | refine keeps_of_eq12 (by assumption) ?_
    | intro _
    | split)

theorem cutTask_keeps {a1 a2 a3} (h : Keeps q s) : Keeps q (cutTask s a1 a2 a3) := by
  unfold cutTask
  with_reducible repeat' (first
    | assumption
    | (extract_lets +onlyGivenNames x; refine keeps_step (q := q) (x := x) ?_ ?_; (on_goal 1 => (dsimp -zeta only [x]; clear x)); (on_goal 2 => (clear_value x; revert x; intro _ _)))
    | (extract_lets +onlyGivenNames x; revert x; intro _)
    | refine keeps_ite ?_ ?_
    | refine setF_keeps ?_
    | refine setDma_keeps ?_
    | refine readBad_keeps ?_
    | refine keeps_of_eq1 (by assumption) ?_
    | refine keeps_of_eq2 (by assumption) ?_
    | refine keeps_of_eq12 (by assumption) ?_
    | intro _
    | split)

theorem wrTainted_keeps {a1 a2} (h : Keeps q s) : Keeps q (wrTainted s a1 a2) := by
  unfold wrTainted
  with_reducible repeat' (first
    | assumption
    | refine fun (_ : Keeps q _) => ?_
    | refine keeps_ite ?_ ?_
    | refine keeps_foldl ?_ _ ?_
    | refine keeps_foldl1 ?_ _ ?_
    | refine setPoison_keeps ?_
    | refine wrMem_keeps ?_
    | intro _)

theorem cvuEnd_keeps {a1 a2 a3} (h : Keeps q s) : Keeps q (cvuEnd s a1 a2 a3) :=
  keeps_congr h rfl rfl rfl rfl rfl

theorem feedCvu_keeps {a1 a2 a3 a4} (h : Keeps q s) : Keeps q (feedCvu s a1 a2 a3 a4) := by
  unfold feedCvu
  with_reducible repeat' (first
    | assumption
    | (extract_lets +onlyGivenNames x; refine keeps_step (q := q) (x := x) ?_ ?_; (on_goal 1 => (dsimp -zeta only [x]; clear x)); (on_goal 2 => (clear_value x; revert x; intro _ _)))
    | (extract_lets +onlyGivenNames x; revert x; intro _)
    | refine keeps_ite ?_ ?_
    | refine setDma_keeps ?_
    | refine cvuEnd_keeps ?_
    | refine keeps_of_eq1 (by assumption) ?_
    | refine keeps_of_eq2 (by assumption) ?_
    | refine keeps_of_eq12 (by assumption) ?_
    | intro _
    | split)

theorem cvuEngPass_keeps {a1 a2 a3 a4 a5 a6 a7} (h : Keeps q s) : Keeps q (cvuEngPass s a1 a2 a3 a4 a5 a6 a7) := by
  unfold cvuEngPass
  with_reducible repeat' (first
    | assumption
    | refine fun (_ : Keeps q _) => ?_
    | refine keeps_ite ?_ ?_
    | refine keeps_foldl ?_ _ ?_
    | refine keeps_foldl1 ?_ _ ?_
    | refine cvuEnd_keeps ?_
    | intro _
    | split
    | (dsimp -zeta +zetaDelta only; split)
    | (constructor <;> dsimp only <;> first | exact Keeps.queue ‹_› | exact Keeps.mem ‹_› | exact Keeps.regs ‹_› | exact Keeps.ns ‹_› | exact Keeps.load ‹_›))

theorem engPort_keeps {a1 a2 a3 a4} (h : Keeps q s) : Keeps q (engPort s a1 a2 a3 a4) := by
  unfold engPort
  with_reducible repeat' (first
    | assumption
    | refine keeps_ite ?_ ?_
    | refine cvuEngPass_keeps ?_
    | refine keeps_of_eq1 (by assumption) ?_
    | refine keeps_of_eq2 (by assumption) ?_
    | refine keeps_of_eq12 (by assumption) ?_
    | intro _
    | split)

theorem closeUnit_keeps {a1 a2} (h : Keeps q s) : Keeps q (closeUnit s a1 a2) := by
  unfold closeUnit
  with_reducible repeat' (first
    | assumption
    | (extract_lets +onlyGivenNames x; revert x; intro _)
    | refine keeps_ite ?_ ?_
    | refine cvuEnd_keeps ?_
    | refine setDma_keeps ?_
    | refine keeps_of_eq1 (by assumption) ?_
    | refine keeps_of_eq2 (by assumption) ?_
    | refine keeps_of_eq12 (by assumption) ?_
    | intro _
    | split)

theorem setHdm_keeps {a1 a2} (h : Keeps q s) : Keeps q (setHdm s a1 a2) := by
  unfold setHdm
  with_reducible repeat' (first
    | assumption
    | refine keeps_ite ?_ ?_
    | intro _
    | split
    | (dsimp -zeta +zetaDelta only; split)
    | (constructor <;> dsimp only <;> first | exact Keeps.queue ‹_› | exact Keeps.mem ‹_› | exact Keeps.regs ‹_› | exact Keeps.ns ‹_› | exact Keeps.load ‹_›))

theorem readLater_keeps {a1 a2 a3 a4 a5 a6} (h : Keeps q s) : Keeps q (readLater s a1 a2 a3 a4 a5 a6) := by
  unfold readLater
  with_reducible repeat' (first
    | assumption
    | refine keeps_ite ?_ ?_
    | refine snoopLine_keeps ?_
    | refine setDma_keeps ?_)

theorem beginDescriptor_keeps {a1 a2} (h : Keeps q s) : Keeps q (beginDescriptor s a1 a2) :=
  keeps_congr h rfl rfl rfl rfl rfl

theorem victimLine_keeps {a1 a2 a3} (h : Keeps q s) : Keeps q (victimLine s a1 a2 a3).2 := by
  unfold victimLine
  with_reducible repeat' (first
    | assumption
    | (extract_lets +onlyGivenNames x; refine keeps_step (q := q) (x := x) ?_ ?_; (on_goal 1 => (dsimp -zeta only [x]; clear x)); (on_goal 2 => (clear_value x; revert x; intro _ _)))
    | (extract_lets +onlyGivenNames x; refine keeps_step2 (q := q) (x := x) ?_ ?_; (on_goal 1 => (dsimp -zeta only [x]; clear x)); (on_goal 2 => (clear_value x; revert x; intro _ _)))
    | (extract_lets +onlyGivenNames x; revert x; intro _)
    | refine keeps_ite ?_ ?_
    | refine takeFree_keeps ?_
    | refine keeps_of_eq1 (by assumption) ?_
    | refine keeps_of_eq2 (by assumption) ?_
    | refine keeps_of_eq12 (by assumption) ?_
    | intro _
    | split
    | (dsimp -zeta +zetaDelta only; split)
    | (constructor <;> dsimp only <;> first | exact Keeps.queue ‹_› | exact Keeps.mem ‹_› | exact Keeps.regs ‹_› | exact Keeps.ns ‹_› | exact Keeps.load ‹_›))

theorem mustGo_keeps {a1} (h : Keeps q s) : Keeps q (mustGo s a1).2 := by
  unfold mustGo
  with_reducible repeat' (first
    | assumption
    | (extract_lets +onlyGivenNames x; refine keeps_step (q := q) (x := x) ?_ ?_; (on_goal 1 => (dsimp -zeta only [x]; clear x)); (on_goal 2 => (clear_value x; revert x; intro _ _)))
    | (extract_lets +onlyGivenNames x; refine keeps_step2 (q := q) (x := x) ?_ ?_; (on_goal 1 => (dsimp -zeta only [x]; clear x)); (on_goal 2 => (clear_value x; revert x; intro _ _)))
    | (extract_lets +onlyGivenNames x; revert x; intro _)
    | refine keeps_ite ?_ ?_
    | refine victimLine_keeps ?_
    | refine keeps_of_eq1 (by assumption) ?_
    | refine keeps_of_eq2 (by assumption) ?_
    | refine keeps_of_eq12 (by assumption) ?_
    | intro _
    | split
    | (dsimp -zeta +zetaDelta only; split)
    | (constructor <;> dsimp only <;> first | exact Keeps.queue ‹_› | exact Keeps.mem ‹_› | exact Keeps.regs ‹_› | exact Keeps.ns ‹_› | exact Keeps.load ‹_›))

theorem makeMarker_keeps {a1} (h : Keeps q s) : Keeps q (makeMarker s a1) := by
  unfold makeMarker
  with_reducible repeat' (first
    | assumption
    | (extract_lets +onlyGivenNames x; refine keeps_step (q := q) (x := x) ?_ ?_; (on_goal 1 => (dsimp -zeta only [x]; clear x)); (on_goal 2 => (clear_value x; revert x; intro _ _)))
    | (extract_lets +onlyGivenNames x; revert x; intro _)
    | refine keeps_ite ?_ ?_
    | refine setLane_keeps ?_
    | refine keeps_of_eq1 (by assumption) ?_
    | refine keeps_of_eq2 (by assumption) ?_
    | refine keeps_of_eq12 (by assumption) ?_
    | intro _
    | split
    | (dsimp -zeta +zetaDelta only; split)
    | (constructor <;> dsimp only <;> first | exact Keeps.queue ‹_› | exact Keeps.mem ‹_› | exact Keeps.regs ‹_› | exact Keeps.ns ‹_› | exact Keeps.load ‹_›))

theorem serve_keeps {a1 a2 a3} (h : Keeps q s) : Keeps q (serve a1 a2 a3 s) := by
  induction a2 generalizing s a3 with
  | zero => exact h
  | succ n ih =>
    unfold serve
    dsimp only
    refine keeps_ite h (keeps_ite (ih (makeMarker_keeps h)) ?_)
    split
    · exact ih (emit_keeps (setLane_keeps h))
    · exact ih (emit_keeps (setLane_keeps h))

theorem servePositions_keeps {a1 a2} (h : Keeps q s) : Keeps q (servePositions s a1 a2) := by
  unfold servePositions
  with_reducible repeat' (first
    | assumption
    | refine keeps_ite ?_ ?_
    | refine serve_keeps ?_
    | intro _
    | split
    | (dsimp -zeta +zetaDelta only; split)
    | (constructor <;> dsimp only <;> first | exact Keeps.queue ‹_› | exact Keeps.mem ‹_› | exact Keeps.regs ‹_› | exact Keeps.ns ‹_› | exact Keeps.load ‹_›))

theorem runLane_keeps {a1 a2} (h : Keeps q s) : Keeps q (runLane s a1 a2) := by
  unfold runLane
  with_reducible repeat' (first
    | assumption
    | (extract_lets +onlyGivenNames x; refine keeps_step (q := q) (x := x) ?_ ?_; (on_goal 1 => (dsimp -zeta only [x]; clear x)); (on_goal 2 => (clear_value x; revert x; intro _ _)))
    | (extract_lets +onlyGivenNames x; revert x; intro _)
    | refine keeps_ite ?_ ?_
    | refine servePositions_keeps ?_
    | refine keeps_of_eq1 (by assumption) ?_
    | refine keeps_of_eq2 (by assumption) ?_
    | refine keeps_of_eq12 (by assumption) ?_
    | intro _
    | split
    | (dsimp -zeta +zetaDelta only; split)
    | (constructor <;> dsimp only <;> first | exact Keeps.queue ‹_› | exact Keeps.mem ‹_› | exact Keeps.regs ‹_› | exact Keeps.ns ‹_› | exact Keeps.load ‹_›))

theorem setCaptures_keeps {a1 a2} (h : Keeps q s) : Keeps q (setCaptures s a1 a2) :=
  keeps_congr h rfl rfl rfl rfl rfl

theorem dropCapture_keeps {a1 a2} (h : Keeps q s) : Keeps q (dropCapture s a1 a2) :=
  keeps_congr h rfl rfl rfl rfl rfl

theorem cvuPass_keeps {a1 a2 a3 a4 a5 a6 a7} (h : Keeps q s) : Keeps q (cvuPass s a1 a2 a3 a4 a5 a6 a7) := by
  unfold cvuPass
  with_reducible repeat' (first
    | assumption
    | refine fun (_ : Keeps q _) => ?_
    | refine keeps_ite ?_ ?_
    | refine keeps_foldl ?_ _ ?_
    | refine keeps_foldl1 ?_ _ ?_
    | refine cvuEnd_keeps ?_
    | intro _)

theorem cvuPassQuad_keeps {a1 a2 a3 a4 a5 a6} (h : Keeps q s) : Keeps q (cvuPassQuad s a1 a2 a3 a4 a5 a6) := by
  unfold cvuPassQuad
  with_reducible repeat' (first
    | assumption
    | refine fun (_ : Keeps q _) => ?_
    | refine keeps_ite ?_ ?_
    | refine keeps_foldl ?_ _ ?_
    | refine keeps_foldl1 ?_ _ ?_
    | refine cvuPass_keeps ?_
    | intro _)

theorem cvuGroup_keeps {a1 a2 a3 a4 a5} (h : Keeps q s) : Keeps q (cvuGroup s a1 a2 a3 a4 a5) := by
  unfold cvuGroup
  with_reducible repeat' (first
    | assumption
    | refine keeps_ite ?_ ?_
    | refine cvuPassQuad_keeps ?_)

theorem noteHeaders_keeps {a1 a2} (h : Keeps q s) : Keeps q (noteHeaders s a1 a2) := by
  unfold noteHeaders
  with_reducible repeat' (first
    | assumption
    | (extract_lets +onlyGivenNames x; refine keeps_step (q := q) (x := x) ?_ ?_; (on_goal 1 => (dsimp -zeta only [x]; clear x)); (on_goal 2 => (clear_value x; revert x; intro _ _)))
    | (extract_lets +onlyGivenNames x; revert x; intro _)
    | refine keeps_ite ?_ ?_
    | refine setLane_keeps ?_
    | refine keeps_of_eq1 (by assumption) ?_
    | refine keeps_of_eq2 (by assumption) ?_
    | refine keeps_of_eq12 (by assumption) ?_
    | intro _
    | split
    | (dsimp -zeta +zetaDelta only; split)
    | (constructor <;> dsimp only <;> first | exact Keeps.queue ‹_› | exact Keeps.mem ‹_› | exact Keeps.regs ‹_› | exact Keeps.ns ‹_› | exact Keeps.load ‹_›))

theorem cvuFrame_keeps {a1 a2 a3} (h : Keeps q s) : Keeps q (cvuFrame s a1 a2 a3) := by
  unfold cvuFrame
  with_reducible repeat' (first
    | assumption
    | refine keeps_ite ?_ ?_
    | refine cvuPassQuad_keeps ?_)

theorem sendFrame_keeps {a1 a2} (h : Keeps q s) : Keeps q (sendFrame s a1 a2) := by
  unfold sendFrame
  with_reducible repeat' (first
    | assumption
    | refine keeps_ite ?_ ?_
    | refine emit_keeps ?_
    | refine cvuFrame_keeps ?_)

theorem putCapture_keeps {a1 a2} (h : Keeps q s) : Keeps q (putCapture s a1 a2) :=
  keeps_congr h rfl rfl rfl rfl rfl

theorem noteDelay_keeps {a1} (h : Keeps q s) : Keeps q (noteDelay s a1) := by
  unfold noteDelay
  with_reducible repeat' (first
    | assumption
    | refine keeps_ite ?_ ?_
    | intro _
    | split
    | (dsimp -zeta +zetaDelta only; split)
    | (constructor <;> dsimp only <;> first | exact Keeps.queue ‹_› | exact Keeps.mem ‹_› | exact Keeps.regs ‹_› | exact Keeps.ns ‹_› | exact Keeps.load ‹_›))

theorem sendEcpri_keeps {a1 a2 a3} (h : Keeps q s) : Keeps q (sendEcpri s a1 a2 a3) := by
  unfold sendEcpri
  with_reducible repeat' (first
    | assumption
    | (extract_lets +onlyGivenNames x; refine keeps_step (q := q) (x := x) ?_ ?_; (on_goal 1 => (dsimp -zeta only [x]; clear x)); (on_goal 2 => (clear_value x; revert x; intro _ _)))
    | (extract_lets +onlyGivenNames x; revert x; intro _)
    | refine keeps_ite ?_ ?_
    | refine emit_keeps ?_
    | refine cvuFrame_keeps ?_
    | refine keeps_of_eq1 (by assumption) ?_
    | refine keeps_of_eq2 (by assumption) ?_
    | refine keeps_of_eq12 (by assumption) ?_
    | intro _
    | split
    | (dsimp -zeta +zetaDelta only; split)
    | (constructor <;> dsimp only <;> first | exact Keeps.queue ‹_› | exact Keeps.mem ‹_› | exact Keeps.regs ‹_› | exact Keeps.ns ‹_› | exact Keeps.load ‹_›))

theorem wakePoint_keeps {a1} (h : Keeps q s) : Keeps q (wakePoint s a1) := by
  unfold wakePoint
  with_reducible repeat' (first
    | assumption
    | (extract_lets +onlyGivenNames x; refine keeps_step (q := q) (x := x) ?_ ?_; (on_goal 1 => (dsimp -zeta only [x]; clear x)); (on_goal 2 => (clear_value x; revert x; intro _ _)))
    | (extract_lets +onlyGivenNames x; revert x; intro _)
    | refine keeps_ite ?_ ?_
    | refine setF_keeps ?_
    | refine keeps_of_eq1 (by assumption) ?_
    | refine keeps_of_eq2 (by assumption) ?_
    | refine keeps_of_eq12 (by assumption) ?_
    | intro _
    | split
    | (dsimp -zeta +zetaDelta only; split)
    | (constructor <;> dsimp only <;> first | exact Keeps.queue ‹_› | exact Keeps.mem ‹_› | exact Keeps.regs ‹_› | exact Keeps.ns ‹_› | exact Keeps.load ‹_›))

theorem sleepRaises_keeps {a1} (h : Keeps q s) : Keeps q (sleepRaises s a1) := by
  unfold sleepRaises
  with_reducible repeat' (first
    | assumption
    | refine fun (_ : Keeps q _) => ?_
    | (extract_lets +onlyGivenNames x; refine keeps_step (q := q) (x := x) ?_ ?_; (on_goal 1 => (dsimp -zeta only [x]; clear x)); (on_goal 2 => (clear_value x; revert x; intro _ _)))
    | (extract_lets +onlyGivenNames x; refine keeps_step1 (q := q) (x := x) ?_ ?_; (on_goal 1 => (dsimp -zeta only [x]; clear x)); (on_goal 2 => (clear_value x; revert x; intro _ _)))
    | (extract_lets +onlyGivenNames x; refine keeps_step2 (q := q) (x := x) ?_ ?_; (on_goal 1 => (dsimp -zeta only [x]; clear x)); (on_goal 2 => (clear_value x; revert x; intro _ _)))
    | (extract_lets +onlyGivenNames x; revert x; intro _)
    | refine keeps_ite ?_ ?_
    | refine keeps_foldl ?_ _ ?_
    | refine keeps_foldl1 ?_ _ ?_
    | refine setF_keeps ?_
    | refine keeps_of_eq1 (by assumption) ?_
    | refine keeps_of_eq2 (by assumption) ?_
    | refine keeps_of_eq12 (by assumption) ?_
    | intro _
    | split
    | (dsimp -zeta +zetaDelta only; split)
    | (constructor <;> dsimp only <;> first | exact Keeps.queue ‹_› | exact Keeps.mem ‹_› | exact Keeps.regs ‹_› | exact Keeps.ns ‹_› | exact Keeps.load ‹_›))

theorem cvuEcpri_keeps {a1 a2} (h : Keeps q s) : Keeps q (cvuEcpri s a1 a2) := by
  unfold cvuEcpri
  with_reducible repeat' (first
    | assumption
    | refine keeps_ite ?_ ?_
    | refine cvuFrame_keeps ?_
    | intro _
    | split
    | (dsimp -zeta +zetaDelta only; split)
    | (constructor <;> dsimp only <;> first | exact Keeps.queue ‹_› | exact Keeps.mem ‹_› | exact Keeps.regs ‹_› | exact Keeps.ns ‹_› | exact Keeps.load ‹_›))

theorem settleAt_keeps {a1 a2 a3} (h : Keeps q s) : Keeps q (settleAt s a1 a2 a3) := by
  unfold settleAt
  with_reducible repeat' (first
    | assumption
    | refine fun (_ : Keeps q _) => ?_
    | refine keeps_ite ?_ ?_
    | refine keeps_foldl ?_ _ ?_
    | refine keeps_foldl1 ?_ _ ?_
    | refine settle_keeps ?_
    | intro _
    | split
    | (dsimp -zeta +zetaDelta only; split)
    | (constructor <;> dsimp only <;> first | exact Keeps.queue ‹_› | exact Keeps.mem ‹_› | exact Keeps.regs ‹_› | exact Keeps.ns ‹_› | exact Keeps.load ‹_›))

theorem lsSettle_keeps {a1 a2 a3 a4 a5 a6 a7} (h : Keeps q s) : Keeps q (lsSettle s a1 a2 a3 a4 a5 a6 a7) := by
  unfold lsSettle
  with_reducible repeat' (first
    | assumption
    | refine keeps_ite ?_ ?_
    | refine settleAt_keeps ?_
    | refine settle_keeps ?_
    | refine keeps_of_eq1 (by assumption) ?_
    | refine keeps_of_eq2 (by assumption) ?_
    | refine keeps_of_eq12 (by assumption) ?_
    | intro _
    | split)

theorem fetchSettle_keeps {a1 a2} (h : Keeps q s) : Keeps q (fetchSettle s a1 a2) := by
  unfold fetchSettle
  with_reducible repeat' (first
    | assumption
    | refine keeps_ite ?_ ?_
    | refine readBad_keeps ?_)

theorem zeroTile_keeps {a1} (h : Keeps q s) : Keeps q (zeroTile s a1) := by
  unfold zeroTile
  with_reducible repeat' (first | (constructor <;> dsimp only <;> repeat first | exact Keeps.queue ‹_› | exact Keeps.mem ‹_› | exact Keeps.regs ‹_› | exact Keeps.ns ‹_› | exact Keeps.load ‹_› | refine wfIf_smDrop _ _ _ ?_))

theorem setAside_keeps {a1} (h : Keeps q s) : Keeps q (setAside s a1) := by
  unfold setAside
  with_reducible repeat' (first
    | assumption
    | (extract_lets +onlyGivenNames x; revert x; intro _)
    | refine keeps_ite ?_ ?_
    | refine setDma_keeps ?_
    | refine keeps_of_eq1 (by assumption) ?_
    | refine keeps_of_eq2 (by assumption) ?_
    | refine keeps_of_eq12 (by assumption) ?_
    | intro _
    | split)

theorem readEffect_keeps {a1} (h : Keeps q s) : Keeps q (readEffect s a1) := by
  unfold readEffect
  with_reducible repeat' (first
    | assumption
    | (extract_lets +onlyGivenNames x; refine keeps_step (q := q) (x := x) ?_ ?_; (on_goal 1 => (dsimp -zeta only [x]; clear x)); (on_goal 2 => (clear_value x; revert x; intro _ _)))
    | (extract_lets +onlyGivenNames x; revert x; intro _)
    | refine keeps_ite ?_ ?_
    | refine setLane_keeps ?_
    | refine keeps_of_eq1 (by assumption) ?_
    | refine keeps_of_eq2 (by assumption) ?_
    | refine keeps_of_eq12 (by assumption) ?_
    | intro _
    | split
    | (dsimp -zeta +zetaDelta only; split)
    | (constructor <;> dsimp only <;> first | exact Keeps.queue ‹_› | exact Keeps.mem ‹_› | exact Keeps.regs ‹_› | exact Keeps.ns ‹_› | exact Keeps.load ‹_›))

theorem tddPend_keeps {a1} (h : Keeps q s) : Keeps q (tddPend s a1) := by
  unfold tddPend
  with_reducible repeat' (first
    | assumption
    | (extract_lets +onlyGivenNames x; refine keeps_step (q := q) (x := x) ?_ ?_; (on_goal 1 => (dsimp -zeta only [x]; clear x)); (on_goal 2 => (clear_value x; revert x; intro _ _)))
    | (extract_lets +onlyGivenNames x; revert x; intro _)
    | refine keeps_ite ?_ ?_
    | refine setF_keeps ?_
    | refine keeps_of_eq1 (by assumption) ?_
    | refine keeps_of_eq2 (by assumption) ?_
    | refine keeps_of_eq12 (by assumption) ?_
    | intro _
    | split
    | (dsimp -zeta +zetaDelta only; split)
    | (constructor <;> dsimp only <;> first | exact Keeps.queue ‹_› | exact Keeps.mem ‹_› | exact Keeps.regs ‹_› | exact Keeps.ns ‹_› | exact Keeps.load ‹_›))

end Sys2Proof.Machine
end

