-- ==== Sys2Proof/Laws/KeepsRings.lean ====
section
/-!
SUPPORT. That every operation and command's meaning keeps what Keeps names: the laws of the rings, programs, plans, admission and Dahlia.
-/

namespace Sys2Proof.Machine

set_option Elab.async false

variable {q : Kept} {s : State}

theorem touchSignals_keeps {a1} (h : Keeps q s) : Keeps q (touchSignals s a1) := by
  unfold touchSignals
  with_reducible repeat' (first
    | assumption | (extract_lets +onlyGivenNames x; revert x; intro _) | refine keeps_ite ?_ ?_
    | refine setRing_keeps ?_)

theorem releaseFences_keeps {a1} (h : Keeps q s) : Keeps q (releaseFences s a1) := by
  unfold releaseFences
  with_reducible repeat' (first | assumption | refine mapJobs_keeps ?_)

theorem letGo_keeps {a1} (h : Keeps q s) : Keeps q (letGo s a1) := by
  unfold letGo
  with_reducible repeat' (first
    | assumption
    | (extract_lets +onlyGivenNames x; refine keeps_step (q := q) (x := x) ?_ ?_; (on_goal 1 => (dsimp -zeta only [x]; clear x)); (on_goal 2 => (clear_value x; revert x; intro _ _)))
    | (extract_lets +onlyGivenNames x; revert x; intro _)
    | refine keeps_ite ?_ ?_
    | refine touchSignals_keeps ?_
    | refine releaseFences_keeps ?_
    | refine keeps_of_eq1 (by assumption) ?_
    | refine keeps_of_eq2 (by assumption) ?_
    | refine keeps_of_eq12 (by assumption) ?_
    | intro _
    | split
    | (dsimp -zeta +zetaDelta only; split)
    | (constructor <;> dsimp only <;> first | exact Keeps.queue ‹_› | exact Keeps.mem ‹_› | exact Keeps.regs ‹_› | exact Keeps.ns ‹_› | exact Keeps.load ‹_›))

theorem recorded_keeps {a1} (h : Keeps q s) : Keeps q (recorded s a1) := by
  unfold recorded
  with_reducible repeat' (first
    | assumption
    | (extract_lets +onlyGivenNames x; refine keeps_step (q := q) (x := x) ?_ ?_; (on_goal 1 => (dsimp -zeta only [x]; clear x)); (on_goal 2 => (clear_value x; revert x; intro _ _)))
    | (extract_lets +onlyGivenNames x; revert x; intro _)
    | refine keeps_ite ?_ ?_
    | refine showRecord_keeps ?_
    | refine addF_keeps ?_
    | refine letGo_keeps ?_
    | refine keeps_of_eq1 (by assumption) ?_
    | refine keeps_of_eq2 (by assumption) ?_
    | refine keeps_of_eq12 (by assumption) ?_
    | intro _
    | split
    | (dsimp -zeta +zetaDelta only; split)
    | (constructor <;> dsimp only <;> first | exact Keeps.queue ‹_› | exact Keeps.mem ‹_› | exact Keeps.regs ‹_› | exact Keeps.ns ‹_› | exact Keeps.load ‹_›))

theorem finishRec_keeps {a1 a2 a3} (h : Keeps q s) : Keeps q (finishRec s a1 a2 a3) := by
  unfold finishRec
  with_reducible repeat' (first
    | assumption
    | refine keeps_ite ?_ ?_
    | refine recorded_keeps ?_
    | refine emit_keeps ?_
    | refine wrMem_keeps ?_
    | refine changeRec_keeps ?_
    | intro _
    | split
    | (dsimp -zeta +zetaDelta only; split)
    | (constructor <;> dsimp only <;> first | exact Keeps.queue ‹_› | exact Keeps.mem ‹_› | exact Keeps.regs ‹_› | exact Keeps.ns ‹_› | exact Keeps.load ‹_›))

theorem sendRecs_keeps {a1 a2} (h : Keeps q s) : Keeps q (sendRecs a1 a2 s) := by
  induction a2 generalizing s with
  | zero => exact h
  | succ n ih =>
    unfold sendRecs
    split
    · exact h
    · refine keeps_ite h ?_
      split
      · exact ih (recorded_keeps (changeRec_keeps (logAddrFault_keeps h)))
      · refine keeps_ite (keeps_ite h (changeRec_keeps (tellHost_keeps h))) ?_
        split
        · exact snoopLine_keeps h
        · exact ih (finishRec_keeps h)

theorem writeRecs_keeps {a1} (h : Keeps q s) : Keeps q (writeRecs s a1) := by
  unfold writeRecs
  with_reducible repeat' (first
    | assumption
    | refine keeps_ite ?_ ?_
    | refine sendRecs_keeps ?_
    | intro _
    | split
    | (dsimp -zeta +zetaDelta only; split)
    | (constructor <;> dsimp only <;> first | exact Keeps.queue ‹_› | exact Keeps.mem ‹_› | exact Keeps.regs ‹_› | exact Keeps.ns ‹_› | exact Keeps.load ‹_›))

theorem queueRec_keeps {a1 a2} (h : Keeps q s) : Keeps q (queueRec s a1 a2) := by
  unfold queueRec
  with_reducible repeat' (first
    | assumption
    | (extract_lets +onlyGivenNames x; refine keeps_step (q := q) (x := x) ?_ ?_; (on_goal 1 => (dsimp -zeta only [x]; clear x)); (on_goal 2 => (clear_value x; revert x; intro _ _)))
    | (extract_lets +onlyGivenNames x; revert x; intro _)
    | refine keeps_ite ?_ ?_
    | refine setRing_keeps ?_
    | refine writeRecs_keeps ?_
    | refine keeps_of_eq1 (by assumption) ?_
    | refine keeps_of_eq2 (by assumption) ?_
    | refine keeps_of_eq12 (by assumption) ?_
    | intro _
    | split
    | (dsimp -zeta +zetaDelta only; split)
    | (constructor <;> dsimp only <;> first | exact Keeps.queue ‹_› | exact Keeps.mem ‹_› | exact Keeps.regs ‹_› | exact Keeps.ns ‹_› | exact Keeps.load ‹_›))

theorem writeRecord_keeps {a1 a2 a3 a4} (h : Keeps q s) : Keeps q (writeRecord s a1 a2 a3 a4) := by
  unfold writeRecord
  with_reducible repeat' (first
    | assumption
    | refine keeps_ite ?_ ?_
    | refine queueRec_keeps ?_
    | intro _
    | split)

theorem finishRecord_keeps {a1 a2 a3 a4} (h : Keeps q s) : Keeps q (finishRecord s a1 a2 a3 a4) := by
  unfold finishRecord
  with_reducible repeat' (first
    | assumption | refine keeps_ite ?_ ?_ | refine loseRecord_keeps ?_
    | refine writeRecord_keeps ?_)

theorem mapJob_keeps {a1 a2} (h : Keeps q s) : Keeps q (mapJob s a1 a2) := by
  unfold mapJob
  with_reducible repeat' (first | assumption | refine mapJobs_keeps ?_)

theorem endNode_keeps {a1 a2 a3} (h : Keeps q s) : Keeps q (endNode s a1 a2 a3) := by
  unfold endNode
  with_reducible repeat' (first
    | assumption
    | (extract_lets +onlyGivenNames x; refine keeps_step (q := q) (x := x) ?_ ?_; (on_goal 1 => (dsimp -zeta only [x]; clear x)); (on_goal 2 => (clear_value x; revert x; intro _ _)))
    | (extract_lets +onlyGivenNames x; revert x; intro _) | refine mapJob_keeps ?_
    | (constructor <;> dsimp only <;> first | exact Keeps.queue ‹_› | exact Keeps.mem ‹_› | exact Keeps.regs ‹_› | exact Keeps.ns ‹_› | exact Keeps.load ‹_›))

theorem failNode_keeps {a1 a2 a3 a4} (h : Keeps q s) : Keeps q (failNode s a1 a2 a3 a4) := by
  unfold failNode
  with_reducible repeat' (first
    | assumption
    | (extract_lets +onlyGivenNames x; refine keeps_step (q := q) (x := x) ?_ ?_; (on_goal 1 => (dsimp -zeta only [x]; clear x)); (on_goal 2 => (clear_value x; revert x; intro _ _)))
    | refine mapJob_keeps ?_ | refine endNode_keeps ?_ | split)

theorem placeNodes_keeps {a1} (h : Keeps q s) : Keeps q (placeNodes s a1) :=
  keeps_congr h rfl rfl rfl rfl rfl

theorem acceptJob_keeps {a1 a2 a3 a4 a5 a6} (h : Keeps q s) : Keeps q (acceptJob s a1 a2 a3 a4 a5 a6) := by
  unfold acceptJob
  with_reducible repeat' (first
    | assumption
    | (extract_lets +onlyGivenNames x; refine keeps_step (q := q) (x := x) ?_ ?_; (on_goal 1 => (dsimp -zeta only [x]; clear x)); (on_goal 2 => (clear_value x; revert x; intro _ _)))
    | (extract_lets +onlyGivenNames x; revert x; intro _) | refine keeps_ite ?_ ?_ | refine placeNodes_keeps ?_
    | refine setRing_keeps ?_
    | (constructor <;> dsimp only <;> first | exact Keeps.queue ‹_› | exact Keeps.mem ‹_› | exact Keeps.regs ‹_› | exact Keeps.ns ‹_› | exact Keeps.load ‹_›))

theorem addToJob_keeps {r : Nat} {f : JobCmd → JobCmd} (h : Keeps q s) : Keeps q (addToJob s r f) := by
  unfold addToJob
  with_reducible repeat' (first | assumption | (extract_lets +onlyGivenNames x; revert x; intro _) | refine setRing_keeps ?_)

theorem setBudget_keeps (h : Keeps q s) : Keeps q (setBudget s) := by
  unfold setBudget
  with_reducible repeat' (first | assumption | refine setF_keeps ?_)

theorem setRail_keeps {a1 a2} (h : Keeps q s) : Keeps q (setRail s a1 a2) := by
  unfold setRail
  with_reducible repeat' (first
    | assumption
    | (extract_lets +onlyGivenNames x; refine keeps_step (q := q) (x := x) ?_ ?_; (on_goal 1 => (dsimp -zeta only [x]; clear x)); (on_goal 2 => (clear_value x; revert x; intro _ _)))
    | (extract_lets +onlyGivenNames x; revert x; intro _)
    | refine keeps_ite ?_ ?_
    | refine setF_keeps ?_
    | refine voutCommand_keeps ?_
    | refine keeps_of_eq1 (by assumption) ?_
    | refine keeps_of_eq2 (by assumption) ?_
    | refine keeps_of_eq12 (by assumption) ?_
    | intro _
    | split
    | (dsimp -zeta +zetaDelta only; split)
    | (constructor <;> dsimp only <;> first | exact Keeps.queue ‹_› | exact Keeps.mem ‹_› | exact Keeps.regs ‹_› | exact Keeps.ns ‹_› | exact Keeps.load ‹_›))

theorem retarget_keeps {a1} (h : Keeps q s) : Keeps q (retarget s a1) := by
  unfold retarget
  with_reducible repeat' (first
    | assumption
    | refine fun (_ : Keeps q _) => ?_
    | (extract_lets +onlyGivenNames x; refine keeps_step (q := q) (x := x) ?_ ?_; (on_goal 1 => (dsimp -zeta only [x]; clear x)); (on_goal 2 => (clear_value x; revert x; intro _ _)))
    | (extract_lets +onlyGivenNames x; refine keeps_step1 (q := q) (x := x) ?_ ?_; (on_goal 1 => (dsimp -zeta only [x]; clear x)); (on_goal 2 => (clear_value x; revert x; intro _ _)))
    | (extract_lets +onlyGivenNames x; refine keeps_step2 (q := q) (x := x) ?_ ?_; (on_goal 1 => (dsimp -zeta only [x]; clear x)); (on_goal 2 => (clear_value x; revert x; intro _ _)))
    | (extract_lets +onlyGivenNames x; revert x; intro _)
    | refine keeps_ite ?_ ?_
    | refine keeps_foldl ?_ _ ?_
    | refine keeps_foldl1 ?_ _ ?_
    | refine setRail_keeps ?_
    | refine setF_keeps ?_
    | refine keeps_of_eq1 (by assumption) ?_
    | refine keeps_of_eq2 (by assumption) ?_
    | refine keeps_of_eq12 (by assumption) ?_
    | intro _
    | split
    | (dsimp -zeta +zetaDelta only; split)
    | (constructor <;> dsimp only <;> first | exact Keeps.queue ‹_› | exact Keeps.mem ‹_› | exact Keeps.regs ‹_› | exact Keeps.ns ‹_› | exact Keeps.load ‹_›))

theorem badAccess_keeps (h : Keeps q s) : Keeps q (badAccess s) := by
  unfold badAccess
  with_reducible repeat' (first | assumption | refine addF_keeps ?_)

theorem setQuad_keeps {a1 a2} (h : Keeps q s) : Keeps q (setQuad s a1 a2) :=
  keeps_congr h rfl rfl rfl rfl rfl

theorem refuseQuad_keeps {a1 a2} (h : Keeps q s) : Keeps q (refuseQuad s a1 a2) := by
  unfold refuseQuad
  with_reducible repeat' (first | assumption | refine addF_keeps ?_ | refine setF_keeps ?_)

theorem setCl_keeps {a1 a2} (h : Keeps q s) : Keeps q (setCl s a1 a2) :=
  keeps_congr h rfl rfl rfl rfl rfl

theorem boundRel_keeps {a1 a2 a3 a4} (h : Keeps q a3.1) : Keeps q (boundRel a1 a2 a3 a4).1 := by
  unfold boundRel
  with_reducible repeat' (first
    | assumption
    | (extract_lets +onlyGivenNames x; refine keeps_step (q := q) (x := x) ?_ ?_; (on_goal 1 => (dsimp -zeta only [x]; clear x)); (on_goal 2 => (clear_value x; revert x; intro _ _)))
    | (extract_lets +onlyGivenNames x; revert x; intro _) | refine clampIf_keeps ?_ | refine clamp1_keeps ?_ | split)

theorem resourceLost_keeps {a1} (h : Keeps q s) : Keeps q (resourceLost s a1) := by
  unfold resourceLost
  with_reducible repeat' (first | assumption | refine setF_keeps ?_ | refine refresh_keeps ?_)

theorem refuseCl_keeps {a1 a2} (h : Keeps q s) : Keeps q (refuseCl s a1 a2) := by
  unfold refuseCl
  with_reducible repeat' (first
    | assumption
    | (extract_lets +onlyGivenNames x; refine keeps_step (q := q) (x := x) ?_ ?_; (on_goal 1 => (dsimp -zeta only [x]; clear x)); (on_goal 2 => (clear_value x; revert x; intro _ _)))
    | refine addF_keeps ?_ | refine setF_keeps ?_)

theorem startWake_keeps {a1} (h : Keeps q s) : Keeps q (startWake s a1) := by
  unfold startWake
  with_reducible repeat' (first
    | assumption | (extract_lets +onlyGivenNames x; revert x; intro _) | refine keeps_ite ?_ ?_
    | refine retarget_keeps ?_ | refine setCl_keeps ?_ | refine setF_keeps ?_)

theorem wakeEvent_keeps {a1 a2} (h : Keeps q s) : Keeps q (wakeEvent s a1 a2) := by
  unfold wakeEvent
  with_reducible repeat' (first
    | assumption | (extract_lets +onlyGivenNames x; revert x; intro _) | refine keeps_ite ?_ ?_
    | refine setCl_keeps ?_ | refine setF_keeps ?_ | refine refuseCl_keeps ?_
    | refine startWake_keeps ?_)

theorem setHw_keeps {a1 a2} (h : Keeps q s) : Keeps q (setHw s a1 a2) :=
  keeps_congr h rfl rfl rfl rfl rfl

theorem report_keeps {a1} (h : Keeps q s) : Keeps q (report s a1) :=
  keeps_congr h rfl rfl rfl rfl rfl

theorem clearDelayViol_keeps {a1} (h : Keeps q s) : Keeps q (clearDelayViol s a1) :=
  keeps_congr h rfl rfl rfl rfl rfl

theorem closeJob_keeps {a1 a2} (h : Keeps q s) : Keeps q (closeJob s a1 a2) := by
  unfold closeJob
  with_reducible repeat' (first
    | assumption | refine fun (_ : Keeps q _) => ?_ | refine keeps_foldl1 ?_ _ ?_
    | refine setRing_keeps ?_ | refine boundRel_keeps ?_ | intro _ | split)

theorem costClamps_keeps {a1 a2 a3 a4 a5} (h : Keeps q s) : Keeps q (costClamps s a1 a2 a3 a4 a5) := by
  unfold costClamps
  with_reducible repeat' (first
    | assumption | refine fun (_ : Keeps q _) => ?_ | refine keeps_foldl ?_ _ ?_
    | refine clampIf_keeps ?_ | intro _ | split)

theorem endDrain_keeps {a1} (h : Keeps q s) : Keeps q (endDrain s a1) := by
  unfold endDrain
  with_reducible repeat' (first
    | assumption
    | (extract_lets +onlyGivenNames x; refine keeps_step (q := q) (x := x) ?_ ?_; (on_goal 1 => (dsimp -zeta only [x]; clear x)); (on_goal 2 => (clear_value x; revert x; intro _ _)))
    | (extract_lets +onlyGivenNames x; revert x; intro _)
    | refine keeps_ite ?_ ?_
    | refine setRing_keeps ?_
    | refine setF_keeps ?_
    | refine keeps_of_eq1 (by assumption) ?_
    | refine keeps_of_eq2 (by assumption) ?_
    | refine keeps_of_eq12 (by assumption) ?_
    | intro _
    | split
    | (dsimp -zeta +zetaDelta only; split)
    | (constructor <;> dsimp only <;> first | exact Keeps.queue ‹_› | exact Keeps.mem ‹_› | exact Keeps.regs ‹_› | exact Keeps.ns ‹_› | exact Keeps.load ‹_›))

theorem disableRing_keeps {a1} (h : Keeps q s) : Keeps q (disableRing s a1) := by
  unfold disableRing
  with_reducible repeat' (first
    | assumption
    | (extract_lets +onlyGivenNames x; refine keeps_step (q := q) (x := x) ?_ ?_; (on_goal 1 => (dsimp -zeta only [x]; clear x)); (on_goal 2 => (clear_value x; revert x; intro _ _)))
    | (extract_lets +onlyGivenNames x; revert x; intro _)
    | refine keeps_ite ?_ ?_
    | refine setF_keeps ?_
    | refine setRing_keeps ?_
    | refine keeps_of_eq1 (by assumption) ?_
    | refine keeps_of_eq2 (by assumption) ?_
    | refine keeps_of_eq12 (by assumption) ?_
    | intro _
    | split
    | (dsimp -zeta +zetaDelta only; split)
    | (constructor <;> dsimp only <;> first | exact Keeps.queue ‹_› | exact Keeps.mem ‹_› | exact Keeps.regs ‹_› | exact Keeps.ns ‹_› | exact Keeps.load ‹_›))

theorem ucmdRecord_keeps {a1 a2 a3 a4 a5 a6} (h : Keeps q s) : Keeps q (ucmdRecord s a1 a2 a3 a4 a5 a6) := by
  unfold ucmdRecord
  with_reducible repeat' (first
    | assumption
    | (extract_lets +onlyGivenNames x; refine keeps_step (q := q) (x := x) ?_ ?_; (on_goal 1 => (dsimp -zeta only [x]; clear x)); (on_goal 2 => (clear_value x; revert x; intro _ _)))
    | (extract_lets +onlyGivenNames x; revert x; intro _)
    | refine keeps_ite ?_ ?_
    | refine finishRecord_keeps ?_
    | refine showStamp_keeps ?_
    | refine keeps_of_eq1 (by assumption) ?_
    | refine keeps_of_eq2 (by assumption) ?_
    | refine keeps_of_eq12 (by assumption) ?_
    | intro _
    | split
    | (dsimp -zeta +zetaDelta only; split)
    | (constructor <;> dsimp only <;> first | exact Keeps.queue ‹_› | exact Keeps.mem ‹_› | exact Keeps.regs ‹_› | exact Keeps.ns ‹_› | exact Keeps.load ‹_›))

theorem dropPlans_keeps {a1 a2 a3} (h : Keeps q s) : Keeps q (dropPlans s a1 a2 a3) := by
  unfold dropPlans
  with_reducible repeat' (first
    | assumption
    | (extract_lets +onlyGivenNames x; refine keeps_step (q := q) (x := x) ?_ ?_; (on_goal 1 => (dsimp -zeta only [x]; clear x)); (on_goal 2 => (clear_value x; revert x; intro _ _)))
    | refine mapJobs_keeps ?_
    | (constructor <;> dsimp only <;> first | exact Keeps.queue ‹_› | exact Keeps.mem ‹_› | exact Keeps.regs ‹_› | exact Keeps.ns ‹_› | exact Keeps.load ‹_›))

theorem decideDrop_keeps {a1} (h : Keeps q s) : Keeps q (decideDrop s a1) := by
  unfold decideDrop
  with_reducible repeat' (first
    | assumption | (extract_lets +onlyGivenNames x; revert x; intro _) | refine keeps_ite ?_ ?_
    | refine ucmdRecord_keeps ?_ | refine dropPlans_keeps ?_ | split)

theorem refuseJob_keeps {a1 a2 a3 a4 a5 a6 a7} (h : Keeps q s) : Keeps q (refuseJob s a1 a2 a3 a4 a5 a6 a7) := by
  unfold refuseJob
  with_reducible repeat' (first
    | assumption
    | refine keeps_ite ?_ ?_
    | refine finishRecord_keeps ?_
    | intro _
    | split
    | (dsimp -zeta +zetaDelta only; split)
    | (constructor <;> dsimp only <;> first | exact Keeps.queue ‹_› | exact Keeps.mem ‹_› | exact Keeps.regs ‹_› | exact Keeps.ns ‹_› | exact Keeps.load ‹_›))

theorem decideJob_keeps {a1 a2 a3 a4} (h : Keeps q s) : Keeps q (decideJob s a1 a2 a3 a4) := by
  unfold decideJob
  with_reducible repeat' (first
    | assumption
    | (extract_lets +onlyGivenNames x; refine keeps_step (q := q) (x := x) ?_ ?_; (on_goal 1 => (dsimp -zeta only [x]; clear x)); (on_goal 2 => (clear_value x; revert x; intro _ _)))
    | (extract_lets +onlyGivenNames x; revert x; intro _) | refine costClamps_keeps ?_ | refine refuseJob_keeps ?_
    | refine acceptJob_keeps ?_ | split)

theorem verifyFailed_keeps {a1} (h : Keeps q s) : Keeps q (verifyFailed s a1) := by
  unfold verifyFailed
  with_reducible repeat' (first
    | assumption | refine addF_keeps ?_ | refine setF_keeps ?_
    | refine refresh_keeps ?_)

theorem takeImage_keeps {a1 a2 a3} (h : Keeps q s) : Keeps q (takeImage s a1 a2 a3) := by
  unfold takeImage
  with_reducible repeat' (first
    | assumption
    | (extract_lets +onlyGivenNames x; refine keeps_step (q := q) (x := x) ?_ ?_; (on_goal 1 => (dsimp -zeta only [x]; clear x)); (on_goal 2 => (clear_value x; revert x; intro _ _)))
    | (extract_lets +onlyGivenNames x; revert x; intro _) | refine wrBytes_keeps ?_ | split | (dsimp -zeta +zetaDelta only; split)
    | (constructor <;> dsimp only <;> first | exact Keeps.queue ‹_› | exact Keeps.mem ‹_› | exact Keeps.regs ‹_› | exact Keeps.ns ‹_› | exact Keeps.load ‹_›))

theorem decideLoad_keeps {a1} (h : Keeps q s) : Keeps q (decideLoad s a1) := by
  unfold decideLoad
  with_reducible repeat' (first
    | assumption | refine fun (_ : Keeps q _) => ?_ | (extract_lets +onlyGivenNames x; revert x; intro _)
    | refine keeps_ite ?_ ?_ | refine keeps_foldl ?_ _ ?_ | refine ucmdRecord_keeps ?_
    | refine verifyFailed_keeps ?_ | refine takeImage_keeps ?_ | intro _)

theorem planClamps_keeps {a1 a2} (h : Keeps q s) : Keeps q (planClamps s a1 a2) := by
  unfold planClamps
  with_reducible repeat' (first
    | assumption | refine fun (_ : Keeps q _) => ?_ | refine keeps_foldl ?_ _ ?_
    | refine clamp1_keeps ?_ | intro _)

theorem enforceDepth_keeps {a1} (h : Keeps q s) : Keeps q (enforceDepth s a1) := by
  unfold enforceDepth
  with_reducible repeat' (first
    | assumption | refine fun (_ : Keeps q _) => ?_ | (extract_lets +onlyGivenNames x; revert x; intro _)
    | refine keeps_ite ?_ ?_ | refine keeps_foldl ?_ _ ?_ | refine wakeEvent_keeps ?_ | intro _)

theorem installPlan_keeps {a1} (h : Keeps q s) : Keeps q (installPlan s a1) := by
  unfold installPlan
  with_reducible repeat' (first
    | assumption
    | (extract_lets +onlyGivenNames x; refine keeps_step (q := q) (x := x) ?_ ?_; (on_goal 1 => (dsimp -zeta only [x]; clear x)); (on_goal 2 => (clear_value x; revert x; intro _ _)))
    | (extract_lets +onlyGivenNames x; revert x; intro _) | refine enforceDepth_keeps ?_
    | (constructor <;> dsimp only <;> first | exact Keeps.queue ‹_› | exact Keeps.mem ‹_› | exact Keeps.regs ‹_› | exact Keeps.ns ‹_› | exact Keeps.load ‹_›))

theorem lowerOps_keeps {a1} (h : Keeps q s) : Keeps q (lowerOps s a1) := by
  unfold lowerOps
  with_reducible repeat' (first
    | assumption | refine fun (_ : Keeps q _) => ?_
    | (extract_lets +onlyGivenNames x; refine keeps_step (q := q) (x := x) ?_ ?_; (on_goal 1 => (dsimp -zeta only [x]; clear x)); (on_goal 2 => (clear_value x; revert x; intro _ _)))
    | (extract_lets +onlyGivenNames x; revert x; intro _) | refine keeps_ite ?_ ?_ | refine keeps_foldl ?_ _ ?_
    | refine retarget_keeps ?_ | refine setF_keeps ?_ | intro _)

theorem dropRaises_keeps {a1} (h : Keeps q s) : Keeps q (dropRaises s a1) := by
  unfold dropRaises
  with_reducible repeat' (first
    | assumption | refine fun (_ : Keeps q _) => ?_
    | (extract_lets +onlyGivenNames x; refine keeps_step (q := q) (x := x) ?_ ?_; (on_goal 1 => (dsimp -zeta only [x]; clear x)); (on_goal 2 => (clear_value x; revert x; intro _ _)))
    | refine keeps_foldl ?_ _ ?_ | refine lowerOps_keeps ?_ | intro _
    | (constructor <;> dsimp only <;> first | exact Keeps.queue ‹_› | exact Keeps.mem ‹_› | exact Keeps.regs ‹_› | exact Keeps.ns ‹_› | exact Keeps.load ‹_›))

theorem decidePlan_keeps {a1} (h : Keeps q s) : Keeps q (decidePlan s a1) := by
  unfold decidePlan
  with_reducible repeat' (first
    | assumption
    | (extract_lets +onlyGivenNames x; refine keeps_step (q := q) (x := x) ?_ ?_; (on_goal 1 => (dsimp -zeta only [x]; clear x)); (on_goal 2 => (clear_value x; revert x; intro _ _)))
    | refine keeps_ite ?_ ?_ | refine ucmdRecord_keeps ?_ | refine planClamps_keeps ?_
    | refine verifyFailed_keeps ?_ | refine installPlan_keeps ?_ | refine dropRaises_keeps ?_ | split)

theorem decideSwap_keeps {a1} (h : Keeps q s) : Keeps q (decideSwap s a1) := by
  unfold decideSwap
  with_reducible repeat' (first
    | assumption | (extract_lets +onlyGivenNames x; revert x; intro _) | refine keeps_ite ?_ ?_
    | refine ucmdRecord_keeps ?_
    | (constructor <;> dsimp only <;> first | exact Keeps.queue ‹_› | exact Keeps.mem ‹_› | exact Keeps.regs ‹_› | exact Keeps.ns ‹_› | exact Keeps.load ‹_›))

theorem deliverNotice_keeps {a1} (h : Keeps q s) : Keeps q (deliverNotice s a1) := by
  unfold deliverNotice
  with_reducible repeat' (first
    | assumption | refine mapNode_keeps ?_ | split
    | (constructor <;> dsimp only <;> first | exact Keeps.queue ‹_› | exact Keeps.mem ‹_› | exact Keeps.regs ‹_› | exact Keeps.ns ‹_› | exact Keeps.load ‹_›))

theorem enableRing_keeps {a1} (h : Keeps q s) : Keeps q (enableRing s a1) := by
  unfold enableRing
  with_reducible repeat' (first
    | assumption | (extract_lets +onlyGivenNames x; revert x; intro _) | refine keeps_ite ?_ ?_
    | refine setRing_keeps ?_ | refine setF_keeps ?_)

theorem endJob_keeps {a1} (h : Keeps q s) : Keeps q (endJob s a1) := by
  unfold endJob
  with_reducible repeat' (first
    | assumption
    | refine keeps_ite ?_ ?_
    | refine letGo_keeps ?_
    | refine loseRecord_keeps ?_
    | refine queueRec_keeps ?_
    | intro _
    | split
    | (dsimp -zeta +zetaDelta only; split)
    | (constructor <;> dsimp only <;> first | exact Keeps.queue ‹_› | exact Keeps.mem ‹_› | exact Keeps.regs ‹_› | exact Keeps.ns ‹_› | exact Keeps.load ‹_›))

theorem execAdmCntClr_keeps {a1} (h : Keeps q s) : KeepsR q (execAdmCntClr a1 s) := by
  unfold execAdmCntClr
  with_reducible repeat' (first
    | assumption
    | refine fun (_ : Keeps q _) => ?_
    | refine keepsR_next ?_
    | refine keepsR_fault _
    | refine keepsR_refused _
    | refine keepsR_ite ?_ ?_
    | refine keeps_ite ?_ ?_
    | refine keeps_foldl ?_ _ ?_
    | refine keeps_foldl1 ?_ _ ?_
    | refine setF_keeps ?_
    | intro _
    | split
    | (dsimp -zeta +zetaDelta only; split)
    | (constructor <;> dsimp only <;> first | exact Keeps.queue ‹_› | exact Keeps.mem ‹_› | exact Keeps.regs ‹_› | exact Keeps.ns ‹_› | exact Keeps.load ‹_›))

theorem takeCmd_keeps {r : Nat} {p : Nat → Bool} {f : State → CmdWord → State} (hf : ∀ x w, Keeps q x → Keeps q (f x w))
    (h : Keeps q s) : KeepsR q (takeCmd s r p f) := by
  unfold takeCmd
  with_reducible repeat' (first
    | assumption | (extract_lets +onlyGivenNames x; revert x; intro _) | refine keepsR_next ?_
    | refine keepsR_ite ?_ ?_ | refine setRing_keeps ?_ | refine hf _ _ ?_ | split)

theorem releaseEntry_keeps {a1} (h : Keeps q s) : Keeps q (releaseEntry s a1) := by
  unfold releaseEntry
  with_reducible repeat' (first | assumption | (extract_lets +onlyGivenNames x; revert x; intro _) | refine setRing_keeps ?_)

theorem nopCmd_keeps {a1 a2} (h : Keeps q s) : Keeps q (nopCmd s a1 a2) := by
  unfold nopCmd
  with_reducible repeat' (first
    | assumption | refine keeps_ite ?_ ?_ | refine releaseEntry_keeps ?_
    | refine clamp1_keeps ?_)

theorem execAt_keeps {a1} (h : Keeps q s) : KeepsR q (execAt a1 s) := by
  unfold execAt
  with_reducible repeat' (first
    | assumption | refine fun (_ : Keeps q _) => ?_ | refine keeps_ite ?_ ?_
    | refine addToJob_keeps ?_ | refine takeCmd_keeps ?_ ?_ | refine nopCmd_keeps ?_ | intro _)

theorem fireItem_keeps {a1 a2 a3} (h : Keeps q s) : Keeps q (fireItem s a1 a2 a3) := by
  unfold fireItem
  with_reducible repeat' (first
    | assumption
    | (extract_lets +onlyGivenNames x; refine keeps_step (q := q) (x := x) ?_ ?_; (on_goal 1 => (dsimp -zeta only [x]; clear x)); (on_goal 2 => (clear_value x; revert x; intro _ _)))
    | (extract_lets +onlyGivenNames x; revert x; intro _)
    | refine keeps_ite ?_ ?_
    | refine addF_keeps ?_
    | refine writeRecord_keeps ?_
    | refine setRing_keeps ?_
    | refine keeps_of_eq1 (by assumption) ?_
    | refine keeps_of_eq2 (by assumption) ?_
    | refine keeps_of_eq12 (by assumption) ?_
    | intro _
    | split
    | (dsimp -zeta +zetaDelta only; split)
    | (constructor <;> dsimp only <;> first | exact Keeps.queue ‹_› | exact Keeps.mem ‹_› | exact Keeps.regs ‹_› | exact Keeps.ns ‹_› | exact Keeps.load ‹_›))

theorem fireDue_keeps {a1 a2 a3} (h : Keeps q s) : Keeps q (fireDue s a1 a2 a3) := by
  induction a3 generalizing s with
  | zero => exact h
  | succ n ih =>
    unfold fireDue
    with_reducible repeat' (first
      | assumption
      | (extract_lets +onlyGivenNames x; refine keeps_step (q := q) (x := x) ?_ ?_; (on_goal 1 => (dsimp -zeta only [x]; clear x)); (on_goal 2 => (clear_value x; revert x; intro _ _)))
      | refine keeps_ite ?_ ?_ | refine fireItem_keeps ?_ | refine ih ?_ | split)

theorem execCancel_keeps {a1} (h : Keeps q s) : KeepsR q (execCancel a1 s) := by
  unfold execCancel
  with_reducible repeat' (first
    | assumption | refine fun (_ : Keeps q _) => ?_
    | (extract_lets +onlyGivenNames x; refine keeps_step (q := q) (x := x) ?_ ?_; (on_goal 1 => (dsimp -zeta only [x]; clear x)); (on_goal 2 => (clear_value x; revert x; intro _ _)))
    | (extract_lets +onlyGivenNames x; revert x; intro _) | refine keeps_ite ?_ ?_ | refine clampIf_keeps ?_
    | refine setRing_keeps ?_ | refine takeCmd_keeps ?_ ?_ | refine failJobs_keeps ?_
    | refine nopCmd_keeps ?_ | refine fireDue_keeps ?_ | intro _)

theorem freePlans_keeps {a1} (h : Keeps q s) : Keeps q (freePlans s a1) := by
  unfold freePlans
  with_reducible repeat' (first
    | assumption | refine fun (_ : Keeps q _) => ?_ | (extract_lets +onlyGivenNames x; revert x; intro _)
    | refine keeps_ite ?_ ?_ | refine keeps_foldl ?_ _ ?_ | refine lowerOps_keeps ?_ | intro _
    | (constructor <;> dsimp only <;> first | exact Keeps.queue ‹_› | exact Keeps.mem ‹_› | exact Keeps.regs ‹_› | exact Keeps.ns ‹_› | exact Keeps.load ‹_›))

theorem execCmdTailWrite_keeps {a1 a2 a3 a4} (h : Keeps q s) : KeepsR q (execCmdTailWrite a1 a2 a3 a4 s) := by
  unfold execCmdTailWrite
  with_reducible repeat' (first
    | assumption
    | (extract_lets +onlyGivenNames x; refine keeps_step (q := q) (x := x) ?_ ?_; (on_goal 1 => (dsimp -zeta only [x]; clear x)); (on_goal 2 => (clear_value x; revert x; intro _ _)))
    | (extract_lets +onlyGivenNames x; revert x; intro _)
    | refine keepsR_next ?_
    | refine keepsR_fault _
    | refine keepsR_refused _
    | refine keepsR_ite ?_ ?_
    | refine keeps_ite ?_ ?_
    | refine atDt_keeps ?_
    | refine badAccess_keeps ?_
    | refine setRing_keeps ?_
    | refine clampIf_keeps ?_
    | refine keeps_of_eq1 (by assumption) ?_
    | refine keeps_of_eq2 (by assumption) ?_
    | refine keeps_of_eq12 (by assumption) ?_
    | intro _
    | split
    | (dsimp -zeta +zetaDelta only; split)
    | (constructor <;> dsimp only <;> first | exact Keeps.queue ‹_› | exact Keeps.mem ‹_› | exact Keeps.regs ‹_› | exact Keeps.ns ‹_› | exact Keeps.load ‹_›))

theorem requestActive_keeps {a1} (h : Keeps q s) : Keeps q (requestActive s a1) := by
  unfold requestActive
  with_reducible repeat' (first
    | assumption | (extract_lets +onlyGivenNames x; revert x; intro _) | refine keeps_ite ?_ ?_
    | refine setQuad_keeps ?_ | refine setF_keeps ?_ | refine refuseQuad_keeps ?_ | split)

theorem execCommandFetch_keeps {a1 a2} (h : Keeps q s) : KeepsR q (execCommandFetch a1 a2 s) := by
  unfold execCommandFetch
  with_reducible repeat' (first
    | assumption
    | (extract_lets +onlyGivenNames x; refine keeps_step (q := q) (x := x) ?_ ?_; (on_goal 1 => (dsimp -zeta only [x]; clear x)); (on_goal 2 => (clear_value x; revert x; intro _ _)))
    | (extract_lets +onlyGivenNames x; revert x; intro _)
    | refine keepsR_next ?_
    | refine keepsR_fault _
    | refine keepsR_refused _
    | refine keepsR_ite ?_ ?_
    | refine keeps_ite ?_ ?_
    | refine atDt_keeps ?_
    | refine logAddrFault_keeps ?_
    | refine setRing_keeps ?_
    | refine snoopLine_keeps ?_
    | refine requestActive_keeps ?_
    | refine readBad_keeps ?_
    | refine askHost_keeps ?_
    | refine keeps_of_eq1 (by assumption) ?_
    | refine keeps_of_eq2 (by assumption) ?_
    | refine keeps_of_eq12 (by assumption) ?_
    | intro _
    | split)

theorem execCqHeadWrite_keeps {a1 a2 a3} (h : Keeps q s) : KeepsR q (execCqHeadWrite a1 a2 a3 s) := by
  unfold execCqHeadWrite
  with_reducible repeat' (first
    | assumption
    | (extract_lets +onlyGivenNames x; refine keeps_step (q := q) (x := x) ?_ ?_; (on_goal 1 => (dsimp -zeta only [x]; clear x)); (on_goal 2 => (clear_value x; revert x; intro _ _)))
    | (extract_lets +onlyGivenNames x; revert x; intro _)
    | refine keepsR_next ?_
    | refine keepsR_fault _
    | refine keepsR_refused _
    | refine keepsR_ite ?_ ?_
    | refine keeps_ite ?_ ?_
    | refine badAccess_keeps ?_
    | refine clampIf_keeps ?_
    | refine setRing_keeps ?_
    | refine keeps_of_eq1 (by assumption) ?_
    | refine keeps_of_eq2 (by assumption) ?_
    | refine keeps_of_eq12 (by assumption) ?_
    | intro _
    | split
    | (dsimp -zeta +zetaDelta only; split)
    | (constructor <;> dsimp only <;> first | exact Keeps.queue ‹_› | exact Keeps.mem ‹_› | exact Keeps.regs ‹_› | exact Keeps.ns ‹_› | exact Keeps.load ‹_›))

theorem execDependenceNotice_keeps {a1 a2} (h : Keeps q s) : KeepsR q (execDependenceNotice a1 a2 s) := by
  unfold execDependenceNotice
  with_reducible repeat' (first
    | assumption | refine keepsR_next ?_ | refine deliverNotice_keeps ?_
    | refine atDt_keeps ?_)

theorem execEdge_keeps {a1} (h : Keeps q s) : KeepsR q (execEdge a1 s) := by
  unfold execEdge
  with_reducible repeat' (first
    | assumption | refine fun (_ : Keeps q _) => ?_ | refine keeps_ite ?_ ?_
    | refine addToJob_keeps ?_ | refine takeCmd_keeps ?_ ?_ | refine nopCmd_keeps ?_ | intro _)

theorem execEvery_keeps {a1} (h : Keeps q s) : KeepsR q (execEvery a1 s) := by
  unfold execEvery
  with_reducible repeat' (first
    | assumption | refine fun (_ : Keeps q _) => ?_
    | (extract_lets +onlyGivenNames x; refine keeps_step (q := q) (x := x) ?_ ?_; (on_goal 1 => (dsimp -zeta only [x]; clear x)); (on_goal 2 => (clear_value x; revert x; intro _ _)))
    | (extract_lets +onlyGivenNames x; revert x; intro _) | refine keeps_ite ?_ ?_ | refine clampIf_keeps ?_
    | refine setRing_keeps ?_ | refine takeCmd_keeps ?_ ?_ | refine nopCmd_keeps ?_ | intro _)

theorem execEveryFiring_keeps {a1 a2 a3} (h : Keeps q s) : KeepsR q (execEveryFiring a1 a2 a3 s) := by
  unfold execEveryFiring
  with_reducible repeat' (first
    | assumption | refine keepsR_next ?_ | refine keeps_ite ?_ ?_
    | refine fireItem_keeps ?_ | refine atDt_keeps ?_ | split)

theorem execFence_keeps {a1} (h : Keeps q s) : KeepsR q (execFence a1 s) := by
  unfold execFence
  with_reducible repeat' (first
    | assumption | refine fun (_ : Keeps q _) => ?_
    | (extract_lets +onlyGivenNames x; refine keeps_step (q := q) (x := x) ?_ ?_; (on_goal 1 => (dsimp -zeta only [x]; clear x)); (on_goal 2 => (clear_value x; revert x; intro _ _)))
    | (extract_lets +onlyGivenNames x; revert x; intro _) | refine keeps_ite ?_ ?_ | refine clampIf_keeps ?_
    | refine setRing_keeps ?_ | refine takeCmd_keeps ?_ ?_ | refine nopCmd_keeps ?_ | intro _)

theorem execHostLinkRetrain_keeps {a1 a2 a3 a4 a5} (h : Keeps q s) : KeepsR q (execHostLinkRetrain a1 a2 a3 a4 a5 s) := by
  unfold execHostLinkRetrain
  with_reducible repeat' (first
    | assumption
    | (extract_lets +onlyGivenNames x; refine keeps_step (q := q) (x := x) ?_ ?_; (on_goal 1 => (dsimp -zeta only [x]; clear x)); (on_goal 2 => (clear_value x; revert x; intro _ _)))
    | (extract_lets +onlyGivenNames x; revert x; intro _)
    | refine keepsR_next ?_
    | refine keepsR_fault _
    | refine keepsR_refused _
    | refine keepsR_ite ?_ ?_
    | refine keeps_ite ?_ ?_
    | refine intPulse_keeps ?_
    | refine setF_keeps ?_
    | refine setBudget_keeps ?_
    | refine keeps_of_eq1 (by assumption) ?_
    | refine keeps_of_eq2 (by assumption) ?_
    | refine keeps_of_eq12 (by assumption) ?_
    | intro _
    | split
    | (dsimp -zeta +zetaDelta only; split)
    | (constructor <;> dsimp only <;> first | exact Keeps.queue ‹_› | exact Keeps.mem ‹_› | exact Keeps.regs ‹_› | exact Keeps.ns ‹_› | exact Keeps.load ‹_›))

theorem execJobClose_keeps {a1} (h : Keeps q s) : KeepsR q (execJobClose a1 s) := by
  unfold execJobClose
  with_reducible repeat' (first
    | assumption | refine fun (_ : Keeps q _) => ?_ | refine keeps_ite ?_ ?_
    | refine closeJob_keeps ?_ | refine takeCmd_keeps ?_ ?_ | refine nopCmd_keeps ?_ | intro _)

theorem raiseDelayViol_keeps (h : Keeps q s) : Keeps q (raiseDelayViol s) := by
  unfold raiseDelayViol
  with_reducible repeat' (first
    | assumption | refine fun (_ : Keeps q _) => ?_
    | (extract_lets +onlyGivenNames x; refine keeps_step (q := q) (x := x) ?_ ?_; (on_goal 1 => (dsimp -zeta only [x]; clear x)); (on_goal 2 => (clear_value x; revert x; intro _ _)))
    | (extract_lets +onlyGivenNames x; revert x; intro _) | refine keeps_ite ?_ ?_ | refine keeps_foldl ?_ _ ?_
    | refine setF_keeps ?_ | refine refresh_keeps ?_ | intro _
    | (constructor <;> dsimp only <;> first | exact Keeps.queue ‹_› | exact Keeps.mem ‹_› | exact Keeps.regs ‹_› | exact Keeps.ns ‹_› | exact Keeps.load ‹_›))

theorem execJobDecision_keeps {a1 a2} (h : Keeps q s) : KeepsR q (execJobDecision a1 a2 s) := by
  unfold execJobDecision
  with_reducible repeat' (first
    | assumption
    | (extract_lets +onlyGivenNames x; refine keeps_step (q := q) (x := x) ?_ ?_; (on_goal 1 => (dsimp -zeta only [x]; clear x)); (on_goal 2 => (clear_value x; revert x; intro _ _)))
    | (extract_lets +onlyGivenNames x; revert x; intro _) | refine keepsR_next ?_ | refine keepsR_ite ?_ ?_
    | refine raiseDelayViol_keeps ?_ | refine showStamp_keeps ?_ | refine setRing_keeps ?_
    | refine decideJob_keeps ?_ | refine touchSignals_keeps ?_ | refine atDt_keeps ?_ | split)

theorem execJobOpen_keeps {a1} (h : Keeps q s) : KeepsR q (execJobOpen a1 s) := by
  unfold execJobOpen
  with_reducible repeat' (first
    | assumption | refine fun (_ : Keeps q _) => ?_
    | (extract_lets +onlyGivenNames x; refine keeps_step (q := q) (x := x) ?_ ?_; (on_goal 1 => (dsimp -zeta only [x]; clear x)); (on_goal 2 => (clear_value x; revert x; intro _ _)))
    | (extract_lets +onlyGivenNames x; revert x; intro _) | refine keeps_ite ?_ ?_ | refine closeJob_keeps ?_
    | refine clamp1_keeps ?_ | refine clampIf_keeps ?_ | refine setRing_keeps ?_
    | refine takeCmd_keeps ?_ ?_ | intro _)

theorem execNodeFetch_keeps {a1} (h : Keeps q s) : KeepsR q (execNodeFetch a1 s) := by
  unfold execNodeFetch
  with_reducible repeat' (first
    | assumption
    | (extract_lets +onlyGivenNames x; refine keeps_step (q := q) (x := x) ?_ ?_; (on_goal 1 => (dsimp -zeta only [x]; clear x)); (on_goal 2 => (clear_value x; revert x; intro _ _)))
    | refine keepsR_next ?_
    | refine keepsR_fault _
    | refine keepsR_refused _
    | refine keepsR_ite ?_ ?_
    | refine keeps_ite ?_ ?_
    | refine mapJob_keeps ?_
    | refine settle_keeps ?_
    | refine mapNode_keeps ?_
    | refine keeps_of_eq1 (by assumption) ?_
    | refine keeps_of_eq2 (by assumption) ?_
    | refine keeps_of_eq12 (by assumption) ?_
    | intro _
    | split)

theorem execNodeRelease_keeps {a1} (h : Keeps q s) : KeepsR q (execNodeRelease a1 s) := by
  unfold execNodeRelease
  with_reducible repeat' (first
    | assumption | (extract_lets +onlyGivenNames x; revert x; intro _) | refine keepsR_next ?_
    | refine keeps_ite ?_ ?_ | refine mapNode_keeps ?_ | split)

theorem execNop_keeps {a1} (h : Keeps q s) : KeepsR q (execNop a1 s) := by
  unfold execNop
  with_reducible repeat' (first
    | assumption | refine fun (_ : Keeps q _) => ?_ | refine keeps_ite ?_ ?_
    | refine takeCmd_keeps ?_ ?_ | refine nopCmd_keeps ?_ | intro _)

theorem raiseOp_keeps {a1 a2 a3 a4} (h : Keeps q s) : Keeps q (raiseOp s a1 a2 a3 a4).1 := by
  unfold raiseOp
  with_reducible repeat' (first
    | assumption
    | (extract_lets +onlyGivenNames x; refine keeps_step (q := q) (x := x) ?_ ?_; (on_goal 1 => (dsimp -zeta only [x]; clear x)); (on_goal 2 => (clear_value x; revert x; intro _ _)))
    | refine retarget_keeps ?_ | refine setF_keeps ?_ | refine refuseCl_keeps ?_ | split
    | (constructor <;> dsimp only <;> first | exact Keeps.queue ‹_› | exact Keeps.mem ‹_› | exact Keeps.regs ‹_› | exact Keeps.ns ‹_› | exact Keeps.load ‹_›))

theorem execPlanDecision_keeps {a1 a2} (h : Keeps q s) : KeepsR q (execPlanDecision a1 a2 s) := by
  unfold execPlanDecision
  with_reducible repeat' (first
    | assumption
    | (extract_lets +onlyGivenNames x; refine keeps_step (q := q) (x := x) ?_ ?_; (on_goal 1 => (dsimp -zeta only [x]; clear x)); (on_goal 2 => (clear_value x; revert x; intro _ _)))
    | refine keepsR_next ?_ | refine keeps_ite ?_ ?_ | refine decidePlan_keeps ?_
    | refine atDt_keeps ?_ | split
    | (constructor <;> dsimp only <;> first | exact Keeps.queue ‹_› | exact Keeps.mem ‹_› | exact Keeps.regs ‹_› | exact Keeps.ns ‹_› | exact Keeps.load ‹_›))

theorem execPlanDrop_keeps {a1 a2} (h : Keeps q s) : KeepsR q (execPlanDrop a1 a2 s) := by
  unfold execPlanDrop
  with_reducible repeat' (first
    | assumption | refine fun (_ : Keeps q _) => ?_
    | (extract_lets +onlyGivenNames x; refine keeps_step (q := q) (x := x) ?_ ?_; (on_goal 1 => (dsimp -zeta only [x]; clear x)); (on_goal 2 => (clear_value x; revert x; intro _ _)))
    | (extract_lets +onlyGivenNames x; refine keepsR_step (q := q) (x := x) ?_ ?_; (on_goal 1 => (dsimp -zeta only [x]; clear x)); (on_goal 2 => (clear_value x; revert x; intro _ _)))
    | (extract_lets +onlyGivenNames x; revert x; intro _) | refine keepsR_next ?_ | refine keeps_ite ?_ ?_
    | refine keepsR_ite ?_ ?_ | refine clampIf_keeps ?_ | refine takeCmd_keeps ?_ ?_
    | refine decideDrop_keeps ?_ | refine nopCmd_keeps ?_ | refine atDt_keeps ?_ | intro _ | split
    | (constructor <;> dsimp only <;> first | exact Keeps.queue ‹_› | exact Keeps.mem ‹_› | exact Keeps.regs ‹_› | exact Keeps.ns ‹_› | exact Keeps.load ‹_›))

theorem planRaises_keeps {a1} (h : Keeps q s) : Keeps q (planRaises s a1).1 := by
  unfold planRaises
  with_reducible repeat' (first
    | assumption | refine fun (_ : Keeps q _) => ?_ | refine keeps_foldl1 ?_ _ ?_
    | refine raiseOp_keeps ?_ | intro _)

theorem takeImageCmd_keeps {r : Nat} {p : Nat → Bool} {g : CmdWord → Nat × Nat} {f : State → CmdWord → State} (hf : ∀ x w, Keeps q x → Keeps q (f x w))
    (h : Keeps q s) : KeepsR q (takeImageCmd s r p g f) := by
  unfold takeImageCmd
  with_reducible repeat' (first
    | assumption | refine keepsR_next ?_ | refine keepsR_ite ?_ ?_ | refine takeCmd_keeps ?_ ?_ | refine snoopLine_keeps ?_ | split)

theorem execPlanSet_keeps {a1} (h : Keeps q s) : KeepsR q (execPlanSet a1 s) := by
  unfold execPlanSet
  with_reducible repeat' (first
    | assumption | refine fun (_ : Keeps q _) => ?_
    | (extract_lets +onlyGivenNames x; refine keeps_step (q := q) (x := x) ?_ ?_; (on_goal 1 => (dsimp -zeta only [x]; clear x)); (on_goal 2 => (clear_value x; revert x; intro _ _)))
    | (extract_lets +onlyGivenNames x; revert x; intro _) | refine keeps_ite ?_ ?_ | refine clampIf_keeps ?_
    | refine takeImageCmd_keeps ?_ ?_ | refine nopCmd_keeps ?_ | refine fetchImage_keeps ?_ | refine planRaises_keeps ?_ | intro _
    | refine keeps_of_eq1 (by assumption) ?_ | split
    | (constructor <;> dsimp only <;> repeat first | refine Keeps.queue (q := q) ?_ | refine Keeps.mem (q := q) ?_ | refine Keeps.regs (q := q) ?_ | refine Keeps.ns (q := q) ?_ | refine Keeps.load (q := q) ?_))

theorem execProgramLoad_keeps {a1} (h : Keeps q s) : KeepsR q (execProgramLoad a1 s) := by
  unfold execProgramLoad
  with_reducible repeat' (first
    | assumption | refine fun (_ : Keeps q _) => ?_
    | (extract_lets +onlyGivenNames x; refine keeps_step (q := q) (x := x) ?_ ?_; (on_goal 1 => (dsimp -zeta only [x]; clear x)); (on_goal 2 => (clear_value x; revert x; intro _ _)))
    | (extract_lets +onlyGivenNames x; refine keeps_step1 (q := q) (x := x) ?_ ?_; (on_goal 1 => (dsimp -zeta only [x]; clear x)); (on_goal 2 => (clear_value x; revert x; intro _ _)))
    | (extract_lets +onlyGivenNames x; revert x; intro _) | refine keeps_ite ?_ ?_ | refine clampIf_keeps ?_
    | refine takeImageCmd_keeps ?_ ?_ | refine nopCmd_keeps ?_ | refine fetchImage_keeps ?_ | intro _
    | refine keeps_of_eq1 (by assumption) ?_ | split
    | (constructor <;> dsimp only <;> repeat first | refine Keeps.queue (q := q) ?_ | refine Keeps.mem (q := q) ?_ | refine Keeps.regs (q := q) ?_ | refine Keeps.ns (q := q) ?_ | refine Keeps.load (q := q) ?_))

theorem execProgramLoadCopyDone_keeps {a1 a2} (h : Keeps q s) : KeepsR q (execProgramLoadCopyDone a1 a2 s) := by
  unfold execProgramLoadCopyDone
  with_reducible repeat' (first
    | assumption
    | (extract_lets +onlyGivenNames x; refine keeps_step (q := q) (x := x) ?_ ?_; (on_goal 1 => (dsimp -zeta only [x]; clear x)); (on_goal 2 => (clear_value x; revert x; intro _ _)))
    | refine keepsR_next ?_ | refine keeps_ite ?_ ?_ | refine decideLoad_keeps ?_
    | refine atDt_keeps ?_ | split
    | (constructor <;> dsimp only <;> first | exact Keeps.queue ‹_› | exact Keeps.mem ‹_› | exact Keeps.regs ‹_› | exact Keeps.ns ‹_› | exact Keeps.load ‹_›))

theorem execProgramSwap_keeps {a1 a2} (h : Keeps q s) : KeepsR q (execProgramSwap a1 a2 s) := by
  unfold execProgramSwap
  with_reducible repeat' (first
    | assumption
    | (extract_lets +onlyGivenNames x; refine keeps_step (q := q) (x := x) ?_ ?_; (on_goal 1 => (dsimp -zeta only [x]; clear x)); (on_goal 2 => (clear_value x; revert x; intro _ _)))
    | (extract_lets +onlyGivenNames x; refine keepsR_step (q := q) (x := x) ?_ ?_; (on_goal 1 => (dsimp -zeta only [x]; clear x)); (on_goal 2 => (clear_value x; revert x; intro _ _)))
    | (extract_lets +onlyGivenNames x; revert x; intro _)
    | refine keepsR_next ?_
    | refine keepsR_fault _
    | refine keepsR_refused _
    | refine keepsR_ite ?_ ?_
    | refine keeps_ite ?_ ?_
    | refine takeCmd_keeps ?_ ?_
    | refine nopCmd_keeps ?_
    | refine decideSwap_keeps ?_
    | refine atDt_keeps ?_
    | refine keeps_of_eq1 (by assumption) ?_
    | refine keeps_of_eq2 (by assumption) ?_
    | refine keeps_of_eq12 (by assumption) ?_
    | intro _
    | split
    | (dsimp -zeta +zetaDelta only; split)
    | (constructor <;> dsimp only <;> first | exact Keeps.queue ‹_› | exact Keeps.mem ‹_› | exact Keeps.regs ‹_› | exact Keeps.ns ‹_› | exact Keeps.load ‹_›))

theorem execRecordWrite_keeps {a1 a2} (h : Keeps q s) : KeepsR q (execRecordWrite a1 a2 s) := by
  unfold execRecordWrite
  with_reducible repeat' (first
    | assumption
    | (extract_lets +onlyGivenNames x; refine keeps_step (q := q) (x := x) ?_ ?_; (on_goal 1 => (dsimp -zeta only [x]; clear x)); (on_goal 2 => (clear_value x; revert x; intro _ _)))
    | (extract_lets +onlyGivenNames x; revert x; intro _)
    | refine keepsR_next ?_
    | refine keepsR_fault _
    | refine keepsR_refused _
    | refine keepsR_ite ?_ ?_
    | refine keeps_ite ?_ ?_
    | refine atDt_keeps ?_
    | refine endJob_keeps ?_
    | refine keeps_of_eq1 (by assumption) ?_
    | refine keeps_of_eq2 (by assumption) ?_
    | refine keeps_of_eq12 (by assumption) ?_
    | intro _
    | split
    | (dsimp -zeta +zetaDelta only; split)
    | (constructor <;> dsimp only <;> first | exact Keeps.queue ‹_› | exact Keeps.mem ‹_› | exact Keeps.regs ‹_› | exact Keeps.ns ‹_› | exact Keeps.load ‹_›))

theorem execRetiringVersionFreed_keeps {a1 a2 a3} (h : Keeps q s) : KeepsR q (execRetiringVersionFreed a1 a2 a3 s) := by
  unfold execRetiringVersionFreed
  with_reducible repeat' (first
    | assumption | refine keepsR_next ?_ | refine keeps_ite ?_ ?_ | split
    | (constructor <;> dsimp only <;> first | exact Keeps.queue ‹_› | exact Keeps.mem ‹_› | exact Keeps.regs ‹_› | exact Keeps.ns ‹_› | exact Keeps.load ‹_›))

theorem execRingDisable_keeps {a1} (h : Keeps q s) : KeepsR q (execRingDisable a1 s) := by
  unfold execRingDisable
  with_reducible repeat' (first
    | assumption
    | refine keepsR_next ?_
    | refine keepsR_fault _
    | refine keepsR_refused _
    | refine keepsR_ite ?_ ?_
    | refine keeps_ite ?_ ?_
    | refine disableRing_keeps ?_
    | intro _
    | split
    | (dsimp -zeta +zetaDelta only; split)
    | (constructor <;> dsimp only <;> first | exact Keeps.queue ‹_› | exact Keeps.mem ‹_› | exact Keeps.regs ‹_› | exact Keeps.ns ‹_› | exact Keeps.load ‹_›))

theorem execRingDrainEnd_keeps {a1} (h : Keeps q s) : KeepsR q (execRingDrainEnd a1 s) := by
  unfold execRingDrainEnd
  with_reducible repeat' (first
    | assumption | refine keepsR_next ?_ | refine keeps_ite ?_ ?_
    | refine endDrain_keeps ?_)

theorem execRingEnable_keeps {a1} (h : Keeps q s) : KeepsR q (execRingEnable a1 s) := by
  unfold execRingEnable
  with_reducible repeat' (first
    | assumption
    | refine keepsR_next ?_
    | refine keepsR_fault _
    | refine keepsR_refused _
    | refine keepsR_ite ?_ ?_
    | refine keeps_ite ?_ ?_
    | refine enableRing_keeps ?_
    | intro _
    | split
    | (dsimp -zeta +zetaDelta only; split)
    | (constructor <;> dsimp only <;> first | exact Keeps.queue ‹_› | exact Keeps.mem ‹_› | exact Keeps.regs ‹_› | exact Keeps.ns ‹_› | exact Keeps.load ‹_›))

theorem execSignal_keeps {a1} (h : Keeps q s) : KeepsR q (execSignal a1 s) := by
  unfold execSignal
  with_reducible repeat' (first
    | assumption | refine fun (_ : Keeps q _) => ?_ | (extract_lets +onlyGivenNames x; revert x; intro _)
    | refine keeps_ite ?_ ?_ | refine setRing_keeps ?_ | refine takeCmd_keeps ?_ ?_
    | refine nopCmd_keeps ?_ | intro _)

theorem execSignalRecord_keeps {a1 a2} (h : Keeps q s) : KeepsR q (execSignalRecord a1 a2 s) := by
  unfold execSignalRecord
  with_reducible repeat' (first
    | assumption
    | (extract_lets +onlyGivenNames x; refine keeps_step (q := q) (x := x) ?_ ?_; (on_goal 1 => (dsimp -zeta only [x]; clear x)); (on_goal 2 => (clear_value x; revert x; intro _ _)))
    | (extract_lets +onlyGivenNames x; revert x; intro _)
    | refine keepsR_next ?_
    | refine keepsR_fault _
    | refine keepsR_refused _
    | refine keepsR_ite ?_ ?_
    | refine keeps_ite ?_ ?_
    | refine setRing_keeps ?_
    | refine atDt_keeps ?_
    | refine writeRecord_keeps ?_
    | refine keeps_of_eq1 (by assumption) ?_
    | refine keeps_of_eq2 (by assumption) ?_
    | refine keeps_of_eq12 (by assumption) ?_
    | intro _
    | split
    | (dsimp -zeta +zetaDelta only; split)
    | (constructor <;> dsimp only <;> first | exact Keeps.queue ‹_› | exact Keeps.mem ‹_› | exact Keeps.regs ‹_› | exact Keeps.ns ‹_› | exact Keeps.load ‹_›))

theorem execTask_keeps {a1} (h : Keeps q s) : KeepsR q (execTask a1 s) := by
  unfold execTask
  with_reducible repeat' (first
    | assumption | refine fun (_ : Keeps q _) => ?_
    | (extract_lets +onlyGivenNames x; refine keeps_step (q := q) (x := x) ?_ ?_; (on_goal 1 => (dsimp -zeta only [x]; clear x)); (on_goal 2 => (clear_value x; revert x; intro _ _)))
    | (extract_lets +onlyGivenNames x; revert x; intro _) | refine keeps_ite ?_ ?_ | refine addToJob_keeps ?_
    | refine clampIf_keeps ?_ | refine takeCmd_keeps ?_ ?_ | refine nopCmd_keeps ?_ | intro _)

theorem execWakeRequest_keeps {a1} (h : Keeps q s) : KeepsR q (execWakeRequest a1 s) := by
  unfold execWakeRequest
  with_reducible repeat' (first
    | assumption
    | (extract_lets +onlyGivenNames x; refine keeps_step (q := q) (x := x) ?_ ?_; (on_goal 1 => (dsimp -zeta only [x]; clear x)); (on_goal 2 => (clear_value x; revert x; intro _ _)))
    | (extract_lets +onlyGivenNames x; revert x; intro _) | refine keepsR_next ?_ | refine keepsR_ite ?_ ?_
    | refine addF_keeps ?_ | refine setCl_keeps ?_ | refine wakeEvent_keeps ?_
    | (constructor <;> dsimp only <;> first | exact Keeps.queue ‹_› | exact Keeps.mem ‹_› | exact Keeps.regs ‹_› | exact Keeps.ns ‹_› | exact Keeps.load ‹_›))

theorem execWindowCloseHostWait_keeps {a1 a2} (h : Keeps q s) : KeepsR q (execWindowCloseHostWait a1 a2 s) := by
  unfold execWindowCloseHostWait
  with_reducible repeat' (first
    | assumption
    | (extract_lets +onlyGivenNames x; refine keeps_step (q := q) (x := x) ?_ ?_; (on_goal 1 => (dsimp -zeta only [x]; clear x)); (on_goal 2 => (clear_value x; revert x; intro _ _)))
    | refine keepsR_next ?_
    | refine keepsR_fault _
    | refine keepsR_refused _
    | refine keepsR_ite ?_ ?_
    | refine keeps_ite ?_ ?_
    | refine failNode_keeps ?_
    | refine atDt_keeps ?_
    | refine cutTask_keeps ?_
    | refine keeps_of_eq1 (by assumption) ?_
    | refine keeps_of_eq2 (by assumption) ?_
    | refine keeps_of_eq12 (by assumption) ?_
    | intro _
    | split)

theorem endDrained_keeps {a1} (h : Keeps q s) : Keeps q (endDrained s a1) := by
  unfold endDrained
  with_reducible repeat' (first
    | assumption
    | refine keeps_ite ?_ ?_
    | refine endNode_keeps ?_
    | refine keeps_of_eq1 (by assumption) ?_
    | refine keeps_of_eq2 (by assumption) ?_
    | refine keeps_of_eq12 (by assumption) ?_
    | intro _
    | split)

theorem endFaulted_keeps {a1} (h : Keeps q s) : Keeps q (endFaulted s a1) := by
  unfold endFaulted
  dsimp only
  refine keeps_ite ?_ h
  split
  · refine endDrained_keeps ?_
    split
    · exact mapJob_keeps (setDma_keeps h)
    · exact setDma_keeps h
  · exact h

theorem endDmaTask_keeps {a1 a2 a3} (h : Keeps q s) : Keeps q (endDmaTask s a1 a2 a3) := by
  unfold endDmaTask
  with_reducible repeat' (first
    | assumption
    | refine keeps_ite ?_ ?_
    | refine failNode_keeps ?_
    | refine endNode_keeps ?_)

theorem loseRecs_keeps {a1} (h : Keeps q s) : Keeps q (loseRecs s a1) := by
  unfold loseRecs
  refine keeps_foldl (fun s x h => ?_) _ h
  dsimp only
  split
  · exact letGo_keeps (changeRec_keeps (loseRecord_keeps h))
  · exact changeRec_keeps (loseRecord_keeps h)

theorem recordGo_keeps {a1} (h : Keeps q s) : Keeps q (recordGo s a1) := by
  unfold recordGo
  with_reducible repeat' (first
    | assumption
    | (extract_lets +onlyGivenNames x; refine keeps_step (q := q) (x := x) ?_ ?_; (on_goal 1 => (dsimp -zeta only [x]; clear x)); (on_goal 2 => (clear_value x; revert x; intro _ _)))
    | (extract_lets +onlyGivenNames x; revert x; intro _)
    | refine keeps_ite ?_ ?_
    | refine writeRecs_keeps ?_
    | refine finishRec_keeps ?_
    | refine keeps_of_eq1 (by assumption) ?_
    | refine keeps_of_eq2 (by assumption) ?_
    | refine keeps_of_eq12 (by assumption) ?_
    | intro _
    | split
    | (dsimp -zeta +zetaDelta only; split)
    | (constructor <;> dsimp only <;> first | exact Keeps.queue ‹_› | exact Keeps.mem ‹_› | exact Keeps.regs ‹_› | exact Keeps.ns ‹_› | exact Keeps.load ‹_›))

theorem cvuRelease_keeps {a1 a2} (h : Keeps q s) : Keeps q (cvuRelease s a1 a2) := by
  unfold cvuRelease
  with_reducible repeat' (first
    | assumption
    | refine fun (_ : Keeps q _) => ?_
    | (extract_lets +onlyGivenNames x; refine keeps_step (q := q) (x := x) ?_ ?_; (on_goal 1 => (dsimp -zeta only [x]; clear x)); (on_goal 2 => (clear_value x; revert x; intro _ _)))
    | (extract_lets +onlyGivenNames x; refine keeps_step1 (q := q) (x := x) ?_ ?_; (on_goal 1 => (dsimp -zeta only [x]; clear x)); (on_goal 2 => (clear_value x; revert x; intro _ _)))
    | (extract_lets +onlyGivenNames x; refine keeps_step2 (q := q) (x := x) ?_ ?_; (on_goal 1 => (dsimp -zeta only [x]; clear x)); (on_goal 2 => (clear_value x; revert x; intro _ _)))
    | (extract_lets +onlyGivenNames x; revert x; intro _)
    | refine keeps_ite ?_ ?_
    | refine keeps_foldl ?_ _ ?_
    | refine keeps_foldl1 ?_ _ ?_
    | refine setR_keeps ?_
    | refine setF_keeps ?_
    | refine setCl_keeps ?_
    | refine keeps_of_eq1 (by assumption) ?_
    | refine keeps_of_eq2 (by assumption) ?_
    | refine keeps_of_eq12 (by assumption) ?_
    | intro _
    | split
    | (dsimp -zeta +zetaDelta only; split)
    | (constructor <;> dsimp only <;> first | exact Keeps.queue ‹_› | exact Keeps.mem ‹_› | exact Keeps.regs ‹_› | exact Keeps.ns ‹_› | exact Keeps.load ‹_›))

theorem cvuUnclaim_keeps {a1 a2} (h : Keeps q s) : Keeps q (cvuUnclaim s a1 a2) := by
  unfold cvuUnclaim
  with_reducible repeat' (first
    | assumption
    | refine keeps_ite ?_ ?_
    | refine cvuRelease_keeps ?_)

theorem cvuClaim_keeps {a1 a2 a3} (h : Keeps q s) : Keeps q (cvuClaim s a1 a2 a3) := by
  unfold cvuClaim
  extract_lets s1 c s2 s3
  have h1 : Keeps q s1 := keeps_foldl (fun _ _ h => keeps_ite (setDma_keeps h) h) _ h
  have h3 : Keeps q s3 := setR_keeps (setCl_keeps h1)
  clear_value s3
  cases a3
  · exact h3
  · exact setR_keeps (setR_keeps (setR_keeps h3))

theorem passCsm_keeps {a1} (h : Keeps q s) : Keeps q (passCsm s a1) :=
  keeps_congr h rfl rfl rfl rfl rfl

theorem cvuEngBegin_keeps {a1 a2} (h : Keeps q s) : Keeps q (cvuEngBegin s a1 a2) := by
  unfold cvuEngBegin
  with_reducible repeat' (first
    | assumption
    | refine keeps_ite ?_ ?_
    | refine setCl_keeps ?_
    | intro _
    | split
    | (dsimp -zeta +zetaDelta only; split)
    | (constructor <;> dsimp only <;> first | exact Keeps.queue ‹_› | exact Keeps.mem ‹_› | exact Keeps.regs ‹_› | exact Keeps.ns ‹_› | exact Keeps.load ‹_›))

end Sys2Proof.Machine
end

