-- ==== Sys2Proof/Laws/KeepsHost.lean ====
section
/-!
SUPPORT. That every operation and command's meaning keeps what Keeps names: the laws of retirement, the CVUs, DMA, register access, the host port, the engines' memory and BME.
-/

namespace Sys2Proof.Machine

set_option Elab.async false

variable {q : Kept} {s : State} {o : EngIo}

theorem finishTile_keeps {a1 a2 a3} (h : Keeps q s) : Keeps q (finishTile s a1 a2 a3) := by
  unfold finishTile
  with_reducible repeat' (first
    | assumption
    | (extract_lets +onlyGivenNames x; refine keeps_step (q := q) (x := x) ?_ ?_; (on_goal 1 => (dsimp -zeta only [x]; clear x)); (on_goal 2 => (clear_value x; revert x; intro _ _)))
    | (extract_lets +onlyGivenNames x; revert x; intro _)
    | refine keeps_ite ?_ ?_
    | refine setF_keeps ?_
    | refine takeFree_keeps ?_
    | refine setCl_keeps ?_
    | refine setTile_keeps ?_
    | refine addF_keeps ?_
    | refine endNode_keeps ?_
    | refine failNode_keeps ?_
    | refine keeps_of_eq1 (by assumption) ?_
    | refine keeps_of_eq2 (by assumption) ?_
    | refine keeps_of_eq12 (by assumption) ?_
    | intro _
    | split)

theorem endWaiting_keeps {a1 a2} (h : Keeps q s) : Keeps q (endWaiting s a1 a2) := by
  unfold endWaiting
  with_reducible repeat' (first | assumption | refine keeps_ite ?_ ?_ | refine finishTile_keeps ?_ | split)

theorem noteEcc_keeps {a1 a2 a3} (h : Keeps q s) : Keeps q (noteEcc s a1 a2 a3) := by
  unfold noteEcc
  with_reducible repeat' (first
    | assumption
    | (extract_lets +onlyGivenNames x; refine keeps_step (q := q) (x := x) ?_ ?_; (on_goal 1 => (dsimp -zeta only [x]; clear x)); (on_goal 2 => (clear_value x; revert x; intro _ _)))
    | (extract_lets +onlyGivenNames x; revert x; intro _)
    | refine keeps_ite ?_ ?_
    | refine setDma_keeps ?_
    | refine setF_keeps ?_)

theorem writePiece_keeps {a1 a2 a3 a4 a5} (h : Keeps q s) : Keeps q (writePiece s a1 a2 a3 a4 a5) := by
  unfold writePiece
  with_reducible repeat' (first
    | assumption
    | (extract_lets +onlyGivenNames x; refine keeps_step (q := q) (x := x) ?_ ?_; (on_goal 1 => (dsimp -zeta only [x]; clear x)); (on_goal 2 => (clear_value x; revert x; intro _ _)))
    | refine keeps_ite ?_ ?_
    | refine wrTainted_keeps ?_
    | refine feedCvu_keeps ?_
    | refine noteEcc_keeps ?_)

theorem moveStep_keeps {a1 a2 a3 a4 a5 a6} (h : Keeps q s) : Keeps q (moveStep s a1 a2 a3 a4 a5 a6).1 := by
  unfold moveStep
  with_reducible repeat' (first
    | assumption
    | (extract_lets +onlyGivenNames x; refine keeps_step (q := q) (x := x) ?_ ?_; (on_goal 1 => (dsimp -zeta only [x]; clear x)); (on_goal 2 => (clear_value x; revert x; intro _ _)))
    | (extract_lets +onlyGivenNames x; revert x; intro _)
    | refine keeps_ite ?_ ?_
    | refine addF_keeps ?_
    | refine snoopLine_keeps ?_
    | refine writePiece_keeps ?_
    | refine askHost_keeps ?_
    | refine readBad_keeps ?_
    | refine tellHost_keeps ?_
    | refine keeps_of_eq1 (by assumption) ?_
    | refine keeps_of_eq2 (by assumption) ?_
    | refine keeps_of_eq12 (by assumption) ?_
    | intro _
    | split)

theorem runList_keeps {k ch : Nat} {b : Bool} {late : List LateMove} {lim : Nat} {l : List Move} (h : Keeps q s) : Keeps q (runList k ch b late lim s l).1 := by
  induction l generalizing s lim with
  | nil => exact h
  | cons m rest ih =>
    unfold runList
    have hm := moveStep_keeps (a1 := k) (a2 := ch) (a3 := true) (a4 := b) (a5 := lim) (a6 := m) h
    split
    · exact h
    · split
      · rename_i e; rw [e] at hm; exact hm
      · rename_i e; rw [e] at hm; exact ih hm

theorem runMoves_keeps {a1 a2 a3} (h : Keeps q s) : Keeps q (runMoves s a1 a2 a3) := by
  unfold runMoves
  with_reducible repeat' (first
    | assumption
    | (extract_lets +onlyGivenNames x; refine keeps_step1 (q := q) (x := x) ?_ ?_; (on_goal 1 => (dsimp -zeta only [x]; clear x)); (on_goal 2 => (clear_value x; revert x; intro _ _)))
    | (extract_lets +onlyGivenNames x; revert x; intro _)
    | refine keeps_ite ?_ ?_
    | refine runList_keeps ?_
    | refine setDma_keeps ?_)

theorem runLateList_keeps {k : Nat} {l : List LateMove} (h : Keeps q s) : Keeps q (runLateList k s l).1 := by
  induction l generalizing s with
  | nil => exact h
  | cons x rest ih =>
    unfold runLateList
    have hm := moveStep_keeps (a1 := k) (a2 := 0) (a3 := false) (a4 := recLost s x.rec_) (a5 := noLimit) (a6 := x.move) h
    split
    · rename_i e; rw [e] at hm; exact hm
    · rename_i e; rw [e] at hm; exact ih hm

theorem runLate_keeps {a1} (h : Keeps q s) : Keeps q (runLate s a1) := by
  unfold runLate
  with_reducible repeat' (first
    | assumption
    | refine fun (_ : Keeps q _) => ?_
    | (extract_lets +onlyGivenNames x; refine keeps_step (q := q) (x := x) ?_ ?_; (on_goal 1 => (dsimp -zeta only [x]; clear x)); (on_goal 2 => (clear_value x; revert x; intro _ _)))
    | (extract_lets +onlyGivenNames x; refine keeps_step1 (q := q) (x := x) ?_ ?_; (on_goal 1 => (dsimp -zeta only [x]; clear x)); (on_goal 2 => (clear_value x; revert x; intro _ _)))
    | (extract_lets +onlyGivenNames x; revert x; intro _)
    | refine keeps_ite ?_ ?_
    | refine keeps_foldl ?_ _ ?_
    | refine keeps_foldl1 ?_ _ ?_
    | refine runLateList_keeps ?_
    | refine setDma_keeps ?_
    | refine endDrained_keeps ?_
    | refine keeps_of_eq1 (by assumption) ?_
    | refine keeps_of_eq2 (by assumption) ?_
    | refine keeps_of_eq12 (by assumption) ?_
    | intro _)

theorem goOn_keeps {a1 a2} (h : Keeps q s) : Keeps q (goOn s a1 a2) := by
  unfold goOn
  with_reducible repeat' (first
    | assumption
    | (extract_lets +onlyGivenNames x; refine keeps_step (q := q) (x := x) ?_ ?_; (on_goal 1 => (dsimp -zeta only [x]; clear x)); (on_goal 2 => (clear_value x; revert x; intro _ _)))
    | refine keeps_ite ?_ ?_
    | refine takeFree_keeps ?_
    | refine runMoves_keeps ?_
    | refine runLate_keeps ?_
    | refine endFaulted_keeps ?_
    | refine mapNode_keeps ?_
    | refine keeps_of_eq1 (by assumption) ?_
    | refine keeps_of_eq2 (by assumption) ?_
    | refine keeps_of_eq12 (by assumption) ?_
    | intro _
    | split)

theorem abortChannel_keeps {a1 a2} (h : Keeps q s) : Keeps q (abortChannel s a1 a2) := by
  unfold abortChannel
  with_reducible repeat' (first
    | assumption
    | (extract_lets +onlyGivenNames x; refine keeps_step (q := q) (x := x) ?_ ?_; (on_goal 1 => (dsimp -zeta only [x]; clear x)); (on_goal 2 => (clear_value x; revert x; intro _ _)))
    | (extract_lets +onlyGivenNames x; revert x; intro _)
    | refine keeps_ite ?_ ?_
    | refine setDma_keeps ?_
    | refine setF_keeps ?_
    | refine goOn_keeps ?_
    | refine endWaiting_keeps ?_
    | refine refresh_keeps ?_)

theorem setPhx_keeps {a1 a2} (h : Keeps q s) : Keeps q (setPhx s a1 a2) :=
  keeps_congr h rfl rfl rfl rfl rfl

theorem ackSource_keeps {a1} (h : Keeps q s) : Keeps q (ackSource s a1) := by
  unfold ackSource
  with_reducible repeat' (first
    | assumption
    | (extract_lets +onlyGivenNames x; refine keeps_step (q := q) (x := x) ?_ ?_; (on_goal 1 => (dsimp -zeta only [x]; clear x)); (on_goal 2 => (clear_value x; revert x; intro _ _)))
    | (extract_lets +onlyGivenNames x; revert x; intro _)
    | refine keeps_ite ?_ ?_
    | refine setInt_keeps ?_
    | refine keeps_of_eq1 (by assumption) ?_
    | refine keeps_of_eq2 (by assumption) ?_
    | refine keeps_of_eq12 (by assumption) ?_
    | intro _
    | split
    | (dsimp -zeta +zetaDelta only; split)
    | (constructor <;> dsimp only <;> first | exact Keeps.queue ‹_› | exact Keeps.mem ‹_› | exact Keeps.regs ‹_› | exact Keeps.ns ‹_› | exact Keeps.load ‹_›))

theorem engWrite_keeps {o : EngIo} {a1 a2 a3} (h : Keeps q o.st) : Keeps q (engWrite o a1 a2 a3).st := by
  unfold engWrite
  with_reducible repeat' (first
    | assumption
    | (extract_lets +onlyGivenNames x; refine keeps_step (q := q) (x := x) ?_ ?_; (on_goal 1 => (dsimp -zeta only [x]; clear x)); (on_goal 2 => (clear_value x; revert x; intro _ _)))
    | (extract_lets +onlyGivenNames x; refine keeps_stepE (q := q) (x := x) ?_ ?_; (on_goal 1 => (dsimp -zeta only [x]; clear x)); (on_goal 2 => (clear_value x; revert x; intro _ _)))
    | (extract_lets +onlyGivenNames x; refine keeps_stepE2 (q := q) (x := x) ?_ ?_; (on_goal 1 => (dsimp -zeta only [x]; clear x)); (on_goal 2 => (clear_value x; revert x; intro _ _)))
    | (extract_lets +onlyGivenNames x; revert x; intro _)
    | refine keeps_ite ?_ ?_
    | refine wrMem_keeps ?_
    | refine keeps_of_eq1 (by assumption) ?_
    | refine keeps_of_eq2 (by assumption) ?_
    | refine keeps_of_eq12 (by assumption) ?_
    | refine keeps_of_eqE1 (by assumption) ?_
    | refine keeps_of_eqE2 (by assumption) ?_
    | refine keeps_of_eqE3 (by assumption) ?_
    | intro _
    | split
    | (dsimp -zeta +zetaDelta only; split)
    | (constructor <;> dsimp only <;> first | exact Keeps.queue ‹_› | exact Keeps.mem ‹_› | exact Keeps.regs ‹_› | exact Keeps.ns ‹_› | exact Keeps.load ‹_›))

theorem engRead_keeps {o : EngIo} {a1 a2 a3} (h : Keeps q o.st) : Keeps q (engRead o a1 a2 a3).2.st := by
  unfold engRead
  with_reducible repeat' (first
    | assumption
    | (extract_lets +onlyGivenNames x; refine keeps_step (q := q) (x := x) ?_ ?_; (on_goal 1 => (dsimp -zeta only [x]; clear x)); (on_goal 2 => (clear_value x; revert x; intro _ _)))
    | (extract_lets +onlyGivenNames x; refine keeps_stepE (q := q) (x := x) ?_ ?_; (on_goal 1 => (dsimp -zeta only [x]; clear x)); (on_goal 2 => (clear_value x; revert x; intro _ _)))
    | (extract_lets +onlyGivenNames x; refine keeps_stepE2 (q := q) (x := x) ?_ ?_; (on_goal 1 => (dsimp -zeta only [x]; clear x)); (on_goal 2 => (clear_value x; revert x; intro _ _)))
    | (extract_lets +onlyGivenNames x; revert x; intro _)
    | refine keeps_ite ?_ ?_
    | refine readBad_keeps ?_
    | refine keeps_of_eq1 (by assumption) ?_
    | refine keeps_of_eq2 (by assumption) ?_
    | refine keeps_of_eq12 (by assumption) ?_
    | refine keeps_of_eqE1 (by assumption) ?_
    | refine keeps_of_eqE2 (by assumption) ?_
    | refine keeps_of_eqE3 (by assumption) ?_
    | intro _
    | split
    | (dsimp -zeta +zetaDelta only; split)
    | (constructor <;> dsimp only <;> first | exact Keeps.queue ‹_› | exact Keeps.mem ‹_› | exact Keeps.regs ‹_› | exact Keeps.ns ‹_› | exact Keeps.load ‹_›))

theorem sfPut_keeps {a1 a2 a3} (h : Keeps q s) : Keeps q (sfPut s a1 a2 a3) :=
  keeps_congr h rfl rfl rfl rfl rfl

theorem sendMsi_keeps {a1} (h : Keeps q s) : Keeps q (sendMsi s a1) := by
  unfold sendMsi
  with_reducible repeat' (first | assumption | refine addF_keeps ?_ | refine emit_keeps ?_)

theorem setPending_keeps {a1 a2} (h : Keeps q s) : Keeps q (setPending s a1 a2) := by
  unfold setPending
  with_reducible repeat' (first | assumption | refine setR_keeps ?_)

theorem flushVector_keeps {a1} (h : Keeps q s) : Keeps q (flushVector s a1) := by
  unfold flushVector
  with_reducible repeat' (first
    | assumption | refine keeps_ite ?_ ?_ | refine sendMsi_keeps ?_
    | refine setPending_keeps ?_)

theorem flushVectors_keeps (h : Keeps q s) : Keeps q (flushVectors s) := by
  unfold flushVectors
  with_reducible repeat' (first
    | assumption | refine fun (_ : Keeps q _) => ?_ | refine keeps_foldl ?_ _ ?_
    | refine flushVector_keeps ?_ | intro _)

theorem setDoe_keeps {a1 a2} (h : Keeps q s) : Keeps q (setDoe s a1 a2) :=
  keeps_congr h rfl rfl rfl rfl rfl

theorem readRecord_keeps {o : EngIo} {a1 a2 a3 a4} (h : Keeps q o.st) : Keeps q (readRecord o a1 a2 a3 a4).2.st := by
  unfold readRecord
  with_reducible repeat' (first | assumption | (extract_lets +onlyGivenNames x; revert x; intro _) | refine engRead_keeps ?_ | split)

theorem readRecords_keeps {o : EngIo} {a1 a2 a3 a4} (h : Keeps q o.st) : Keeps q (readRecords o a1 a2 a3 a4).2.st := by
  induction a4 generalizing o with
  | nil => exact h
  | cons b t ih =>
    unfold readRecords
    with_reducible repeat' (first | assumption | refine readRecord_keeps ?_ | refine ih ?_)

theorem bmeResults_keeps {o : EngIo} {a1 a2} (h : Keeps q o.st) : Keeps q (bmeResults a1 o a2).2.st := by
  unfold bmeResults
  with_reducible repeat' (first
    | assumption | refine fun (_ : Keeps q _) => ?_ | refine keeps_foldlE2 ?_ _ ?_
    | refine readRecord_keeps ?_ | refine readRecords_keeps ?_ | intro _ | split)

theorem bmeOutputs_keeps {o : EngIo} {a1 a2} (h : Keeps q o.st) : Keeps q (bmeOutputs a1 o a2).2.2.st := by
  unfold bmeOutputs
  with_reducible repeat' (first
    | assumption | refine fun (_ : Keeps q _) => ?_ | (extract_lets +onlyGivenNames x; revert x; intro _)
    | refine keeps_foldlE3 ?_ _ ?_ | refine readRecord_keeps ?_ | refine bmeResults_keeps ?_ | intro _
    | refine keeps_of_eqE2 (by assumption) ?_ | split)

theorem engOpen_keeps (h : Keeps q s) : Keeps q (engOpen s).st :=
  keeps_congr h rfl rfl rfl rfl rfl

theorem poisonFrom_keeps {a1 a2} (h : Keeps q s) : Keeps q (poisonFrom s a1 a2) := by
  induction a2 generalizing s a1 with
  | zero => exact h
  | succ n ih =>
    unfold poisonFrom
    with_reducible repeat' (first | assumption | refine setPoison_keeps ?_ | refine ih ?_)

theorem engClose_keeps {o : EngIo} (h : Keeps q o.st) : Keeps q (engClose o) := by
  unfold engClose
  with_reducible repeat' (first
    | assumption | refine fun (_ : Keeps q _) => ?_ | refine keeps_ite ?_ ?_
    | refine keeps_foldl ?_ _ ?_ | refine poisonFrom_keeps ?_ | intro _)

theorem countXfer_keeps {a1 a2 a3} (h : Keeps q s) : Keeps q (countXfer s a1 a2 a3) := by
  induction a3 generalizing s a1 with
  | zero => exact h
  | succ n ih =>
    unfold countXfer
    with_reducible repeat' (first | assumption | refine addF_keeps ?_ | refine ih ?_)

theorem engDone_keeps {o : EngIo} {a1 a2} (h : Keeps q o.st) : Keeps q (engDone a1 a2 o) := by
  unfold engDone
  with_reducible repeat' (first
    | assumption
    | refine keeps_ite ?_ ?_
    | refine engPort_keeps ?_
    | refine engClose_keeps ?_)

theorem bmeRun_keeps {a1 a2 a3} (h : Keeps q s) : Keeps q (bmeRun s a1 a2 a3).1 := by
  unfold bmeRun
  with_reducible repeat' (first
    | assumption
    | refine fun (_ : Keeps q _) => ?_
    | (extract_lets +onlyGivenNames x; refine keeps_step (q := q) (x := x) ?_ ?_; (on_goal 1 => (dsimp -zeta only [x]; clear x)); (on_goal 2 => (clear_value x; revert x; intro _ _)))
    | (extract_lets +onlyGivenNames x; refine keeps_stepE (q := q) (x := x) ?_ ?_; (on_goal 1 => (dsimp -zeta only [x]; clear x)); (on_goal 2 => (clear_value x; revert x; intro _ _)))
    | (extract_lets +onlyGivenNames x; revert x; intro _)
    | refine keeps_ite ?_ ?_
    | refine keeps_foldl ?_ _ ?_
    | refine keeps_foldl1 ?_ _ ?_
    | refine keeps_foldlE ?_ _ ?_
    | refine keeps_foldlE1 ?_ _ ?_
    | refine keeps_foldlE2 ?_ _ ?_
    | refine keeps_foldlE3 ?_ _ ?_
    | refine engRead_keeps ?_
    | refine engOpen_keeps ?_
    | refine bmeOutputs_keeps ?_
    | refine addF_keeps ?_
    | refine engWrite_keeps ?_
    | refine engDone_keeps ?_
    | refine countXfer_keeps ?_
    | refine keeps_of_eq1 (by assumption) ?_
    | refine keeps_of_eq2 (by assumption) ?_
    | refine keeps_of_eq12 (by assumption) ?_
    | refine keeps_of_eqE1 (by assumption) ?_
    | refine keeps_of_eqE2 (by assumption) ?_
    | refine keeps_of_eqE3 (by assumption) ?_
    | intro _
    | split
    | (dsimp -zeta +zetaDelta only; split)
    | (constructor <;> dsimp only <;> first | exact Keeps.queue ‹_› | exact Keeps.mem ‹_› | exact Keeps.regs ‹_› | exact Keeps.ns ‹_› | exact Keeps.load ‹_›))

theorem bootStep_keeps {a1 a2} (h : Keeps q s) : Keeps q (bootStep s a1 a2) := by
  unfold bootStep
  with_reducible repeat' (first | assumption | refine keeps_ite ?_ ?_ | refine setBitF_keeps ?_)

theorem setTilemap_keeps {a1 a2 a3} (h : Keeps q s) : Keeps q (setTilemap s a1 a2 a3) := by
  unfold setTilemap
  with_reducible repeat' (first | assumption | (extract_lets +onlyGivenNames x; revert x; intro _) | refine setR_keeps ?_)

theorem dropSpare_keeps {a1} (h : Keeps q s) : Keeps q (dropSpare s a1) := by
  unfold dropSpare
  with_reducible repeat' (first
    | assumption | (extract_lets +onlyGivenNames x; revert x; intro _) | refine keeps_ite ?_ ?_
    | refine setCl_keeps ?_)

theorem loseTile_keeps {a1 a2} (h : Keeps q s) : Keeps q (loseTile s a1 a2) := by
  unfold loseTile
  with_reducible repeat' (first
    | assumption | (extract_lets +onlyGivenNames x; revert x; intro _) | refine setCl_keeps ?_
    | refine resourceLost_keeps ?_)

theorem tctNow_keeps (h : Keeps q s) : Keeps q (tctNow s).2 := by
  unfold tctNow
  with_reducible repeat' (first | assumption | refine takeFree_keeps ?_)

theorem checkTimer_keeps {a1} (h : Keeps q s) : Keeps q (checkTimer s a1).1 := by
  unfold checkTimer
  with_reducible repeat' (first | assumption | refine tctNow_keeps ?_ | refine keeps_of_eq2 (by assumption) ?_ | split)

theorem raiseLine_keeps {a1 a2} (h : Keeps q s) : Keeps q (raiseLine s a1 a2) := by
  unfold raiseLine
  with_reducible repeat' (first | assumption | refine setTile_keeps ?_)

theorem hostRest_keeps {a1} (h : Keeps q s) : Keeps q (hostRest s a1) := by
  unfold hostRest
  with_reducible repeat' (first
    | assumption
    | refine keeps_ite ?_ ?_
    | refine runMoves_keeps ?_
    | intro _
    | split
    | (dsimp -zeta +zetaDelta only; split)
    | (constructor <;> dsimp only <;> first | exact Keeps.queue ‹_› | exact Keeps.mem ‹_› | exact Keeps.regs ‹_› | exact Keeps.ns ‹_› | exact Keeps.load ‹_›))

theorem completeChannel_keeps {a1 a2} (h : Keeps q s) : Keeps q (completeChannel s a1 a2) := by
  unfold completeChannel
  with_reducible repeat' (first
    | assumption
    | (extract_lets +onlyGivenNames x; refine keeps_step (q := q) (x := x) ?_ ?_; (on_goal 1 => (dsimp -zeta only [x]; clear x)); (on_goal 2 => (clear_value x; revert x; intro _ _)))
    | (extract_lets +onlyGivenNames x; revert x; intro _)
    | refine keeps_ite ?_ ?_
    | refine hostRest_keeps ?_
    | refine closeUnit_keeps ?_
    | refine addF_keeps ?_
    | refine setF_keeps ?_
    | refine setDma_keeps ?_
    | refine endDmaTask_keeps ?_
    | refine refresh_keeps ?_
    | refine raiseLine_keeps ?_
    | refine endWaiting_keeps ?_
    | refine keeps_of_eq1 (by assumption) ?_
    | refine keeps_of_eq2 (by assumption) ?_
    | refine keeps_of_eq12 (by assumption) ?_
    | intro _
    | split)

theorem cregRead_keeps {a1 a2} (h : Keeps q s) : Keeps q (cregRead s a1 a2).2.2 := by
  have h2 : ∀ n, Keeps q (if n = 2 then (let (x, s1) := tctNow s; (x.1, { a1 with tctNs := BitVec.ofNat 32 x.2 }, s1)) else (0, a1, s)).2.2 := by
    intro n
    split
    · exact tctNow_keeps h
    · exact h
  unfold cregRead
  by_cases e : a2 = 2
  · subst e
    exact h2 2
  · simp only [e, if_false, apply_ite (fun x : Nat × Tile × State => x.2.2), ite_self]
    exact h

theorem cutRing_keeps {a1} (h : Keeps q s) : Keeps q (cutRing s a1) := by
  unfold cutRing
  with_reducible repeat' (first
    | assumption
    | (extract_lets +onlyGivenNames x; refine keeps_step (q := q) (x := x) ?_ ?_; (on_goal 1 => (dsimp -zeta only [x]; clear x)); (on_goal 2 => (clear_value x; revert x; intro _ _)))
    | (extract_lets +onlyGivenNames x; revert x; intro _)
    | refine keeps_ite ?_ ?_
    | refine loseRecs_keeps ?_
    | refine disableRing_keeps ?_
    | refine addF_keeps ?_
    | refine endDrain_keeps ?_
    | refine setRing_keeps ?_
    | refine keeps_of_eq1 (by assumption) ?_
    | refine keeps_of_eq2 (by assumption) ?_
    | refine keeps_of_eq12 (by assumption) ?_
    | intro _
    | split
    | (dsimp -zeta +zetaDelta only; split)
    | (constructor <;> dsimp only <;> first | exact Keeps.queue ‹_› | exact Keeps.mem ‹_› | exact Keeps.regs ‹_› | exact Keeps.ns ‹_› | exact Keeps.load ‹_›))

theorem cvuCompare_keeps {a1 a2 a3 a4} (h : Keeps q s) : Keeps q (cvuCompare s a1 a2 a3 a4) := by
  unfold cvuCompare
  with_reducible repeat' (first
    | assumption | refine keeps_ite ?_ ?_ | refine addF_keeps ?_ | refine setF_keeps ?_
    | refine refresh_keeps ?_)

theorem cvuUnit_keeps {a1 a2 a3} (h : Keeps q s) : Keeps q (cvuUnit s a1 a2 a3) := by
  unfold cvuUnit
  with_reducible repeat' (first
    | assumption | (extract_lets +onlyGivenNames x; revert x; intro _) | refine keeps_ite ?_ ?_
    | refine cvuCompare_keeps ?_ | refine addF_keeps ?_ | split
    | (constructor <;> dsimp only <;> first | exact Keeps.queue ‹_› | exact Keeps.mem ‹_› | exact Keeps.regs ‹_› | exact Keeps.ns ‹_› | exact Keeps.load ‹_›))

theorem decommit_keeps {a1} (h : Keeps q s) : Keeps q (decommit s a1) := by
  unfold decommit
  with_reducible repeat' (first
    | assumption
    | (extract_lets +onlyGivenNames x; refine keeps_step (q := q) (x := x) ?_ ?_; (on_goal 1 => (dsimp -zeta only [x]; clear x)); (on_goal 2 => (clear_value x; revert x; intro _ _)))
    | (extract_lets +onlyGivenNames x; revert x; intro _)
    | refine keeps_ite ?_ ?_
    | refine setF_keeps ?_
    | refine clrBitF_keeps ?_
    | refine setHdm_keeps ?_
    | refine keeps_of_eq1 (by assumption) ?_
    | refine keeps_of_eq2 (by assumption) ?_
    | refine keeps_of_eq12 (by assumption) ?_
    | intro _
    | split
    | (dsimp -zeta +zetaDelta only; split)
    | (constructor <;> dsimp only <;> first | exact Keeps.queue ‹_› | exact Keeps.mem ‹_› | exact Keeps.regs ‹_› | exact Keeps.ns ‹_› | exact Keeps.load ‹_›))

theorem writeMbox_keeps {a1 a2} (h : Keeps q s) : Keeps q (writeMbox s a1 a2) := by
  unfold writeMbox
  with_reducible repeat' (first
    | assumption
    | (extract_lets +onlyGivenNames x; refine keeps_step (q := q) (x := x) ?_ ?_; (on_goal 1 => (dsimp -zeta only [x]; clear x)); (on_goal 2 => (clear_value x; revert x; intro _ _)))
    | (extract_lets +onlyGivenNames x; revert x; intro _) | refine keeps_ite ?_ ?_ | refine setF_keeps ?_
    | refine setTile_keeps ?_)

theorem dropCoupled_keeps {a1 a2} (h : Keeps q s) : Keeps q (dropCoupled s a1 a2) := by
  unfold dropCoupled
  with_reducible repeat' (first
    | assumption | refine fun (_ : Keeps q _) => ?_
    | (extract_lets +onlyGivenNames x; refine keeps_step (q := q) (x := x) ?_ ?_; (on_goal 1 => (dsimp -zeta only [x]; clear x)); (on_goal 2 => (clear_value x; revert x; intro _ _)))
    | (extract_lets +onlyGivenNames x; revert x; intro _) | refine keeps_ite ?_ ?_ | refine keeps_foldl ?_ _ ?_
    | refine lowerOps_keeps ?_ | refine intPulse_keeps ?_ | refine failJobs_keeps ?_
    | refine setF_keeps ?_ | refine refresh_keeps ?_ | intro _
    | (constructor <;> dsimp only <;> first | exact Keeps.queue ‹_› | exact Keeps.mem ‹_› | exact Keeps.regs ‹_› | exact Keeps.ns ‹_› | exact Keeps.load ‹_›))

theorem setIde_keeps {a1 a2} (h : Keeps q s) : Keeps q (setIde s a1 a2) := by
  unfold setIde
  with_reducible repeat' (first
    | assumption | (extract_lets +onlyGivenNames x; revert x; intro _) | refine keeps_ite ?_ ?_
    | refine intPulse_keeps ?_ | refine setF_keeps ?_)

theorem dropIde_keeps {a1} (h : Keeps q s) : Keeps q (dropIde s a1) := by
  unfold dropIde
  with_reducible repeat' (first | assumption | refine keeps_ite ?_ ?_ | refine setIde_keeps ?_)

theorem endTile_keeps {a1 a2} (h : Keeps q s) : Keeps q (endTile s a1 a2) := by
  unfold endTile
  with_reducible repeat' (first
    | assumption | (extract_lets +onlyGivenNames x; revert x; intro _) | refine keeps_ite ?_ ?_
    | refine finishTile_keeps ?_ | refine setTile_keeps ?_)

theorem noteNvs_keeps {a1} (h : Keeps q s) : Keeps q (noteNvs s a1) := by
  unfold noteNvs
  with_reducible repeat' (first
    | assumption
    | (extract_lets +onlyGivenNames x; refine keeps_step (q := q) (x := x) ?_ ?_; (on_goal 1 => (dsimp -zeta only [x]; clear x)); (on_goal 2 => (clear_value x; revert x; intro _ _)))
    | refine addF_keeps ?_ | refine setF_keeps ?_ | refine refresh_keeps ?_ | split)

theorem failTileJob_keeps {a1 a2 a3} (h : Keeps q s) : Keeps q (failTileJob s a1 a2 a3) := by
  unfold failTileJob
  with_reducible repeat' (first | assumption | refine mapJob_keeps ?_ | split)

theorem landAll_keeps {a1 a2} (h : Keeps q s) : Keeps q (landAll s a1 a2).1 := by
  unfold landAll
  with_reducible repeat' (first | assumption | (extract_lets +onlyGivenNames x; revert x; intro _) | refine checkTimer_keeps ?_ | split)

theorem land_keeps {a1} (h : Keeps q s) : Keeps q (land s a1).1 := by
  unfold land
  with_reducible repeat' (first | assumption | (extract_lets +onlyGivenNames x; revert x; intro _) | refine landAll_keeps ?_)

theorem setTilFault_keeps {a1 a2 a3 a4 a5 a6} (h : Keeps q s) : Keeps q (setTilFault s a1 a2 a3 a4 a5 a6) := by
  unfold setTilFault
  with_reducible repeat' (first
    | assumption
    | (extract_lets +onlyGivenNames x; refine keeps_step (q := q) (x := x) ?_ ?_; (on_goal 1 => (dsimp -zeta only [x]; clear x)); (on_goal 2 => (clear_value x; revert x; intro _ _)))
    | refine setF_keeps ?_ | refine refresh_keeps ?_)

theorem forgetWaiting_keeps {a1 a2} (h : Keeps q s) : Keeps q (forgetWaiting s a1 a2) := by
  unfold forgetWaiting
  with_reducible repeat' (first
    | assumption | refine fun (_ : Keeps q _) => ?_ | (extract_lets +onlyGivenNames x; revert x; intro _)
    | refine keeps_ite ?_ ?_ | refine keeps_foldl ?_ _ ?_ | refine setHw_keeps ?_ | intro _)

theorem stopTile_keeps {a1} (h : Keeps q s) : Keeps q (stopTile s a1) := by
  unfold stopTile
  with_reducible repeat' (first
    | assumption
    | (extract_lets +onlyGivenNames x; refine keeps_step (q := q) (x := x) ?_ ?_; (on_goal 1 => (dsimp -zeta only [x]; clear x)); (on_goal 2 => (clear_value x; revert x; intro _ _)))
    | (extract_lets +onlyGivenNames x; revert x; intro _) | refine keeps_ite ?_ ?_ | refine dropSpare_keeps ?_
    | refine forgetWaiting_keeps ?_ | refine loseTile_keeps ?_ | refine setHw_keeps ?_
    | refine setTilemap_keeps ?_ | refine setBitF_keeps ?_)

theorem memoryFault_keeps {a1 a2 a3 a4} (h : Keeps q s) : Keeps q (memoryFault s a1 a2 a3 a4) := by
  unfold memoryFault
  with_reducible repeat' (first
    | assumption
    | (extract_lets +onlyGivenNames x; refine keeps_step (q := q) (x := x) ?_ ?_; (on_goal 1 => (dsimp -zeta only [x]; clear x)); (on_goal 2 => (clear_value x; revert x; intro _ _)))
    | (extract_lets +onlyGivenNames x; revert x; intro _) | refine report_keeps ?_ | refine setTilFault_keeps ?_
    | refine finishTile_keeps ?_ | refine stopTile_keeps ?_)

theorem stopChannel_keeps {a1 a2 a3} (h : Keeps q s) : Keeps q (stopChannel s a1 a2 a3) := by
  unfold stopChannel
  with_reducible repeat' (first
    | assumption
    | (extract_lets +onlyGivenNames x; refine keeps_step (q := q) (x := x) ?_ ?_; (on_goal 1 => (dsimp -zeta only [x]; clear x)); (on_goal 2 => (clear_value x; revert x; intro _ _)))
    | refine keeps_ite ?_ ?_
    | refine setF_keeps ?_
    | refine logAddrFault_keeps ?_
    | refine endFaulted_keeps ?_
    | refine mapJob_keeps ?_
    | refine refresh_keeps ?_
    | refine raiseLine_keeps ?_
    | refine keeps_of_eq1 (by assumption) ?_
    | refine keeps_of_eq2 (by assumption) ?_
    | refine keeps_of_eq12 (by assumption) ?_
    | intro _
    | split)

theorem takeDescriptor_keeps {a1 a2 a3 a4 a5 a6} (h : Keeps q s) : Keeps q (takeDescriptor s a1 a2 a3 a4 a5 a6) := by
  unfold takeDescriptor
  with_reducible repeat' (first
    | assumption
    | (extract_lets +onlyGivenNames x; refine keeps_step (q := q) (x := x) ?_ ?_; (on_goal 1 => (dsimp -zeta only [x]; clear x)); (on_goal 2 => (clear_value x; revert x; intro _ _)))
    | (extract_lets +onlyGivenNames x; revert x; intro _)
    | refine keeps_ite ?_ ?_
    | refine setF_keeps ?_
    | refine setDma_keeps ?_
    | refine stopChannel_keeps ?_
    | refine readLater_keeps ?_
    | refine readBad_keeps ?_
    | refine addF_keeps ?_
    | refine askHost_keeps ?_
    | refine goOn_keeps ?_
    | refine settle_keeps ?_
    | refine keeps_of_eq1 (by assumption) ?_
    | refine keeps_of_eq2 (by assumption) ?_
    | refine keeps_of_eq12 (by assumption) ?_
    | intro _
    | split)

theorem startChannel_keeps {a1 a2} (h : Keeps q s) : Keeps q (startChannel s a1 a2) := by
  unfold startChannel
  with_reducible repeat' (first
    | assumption
    | (extract_lets +onlyGivenNames x; revert x; intro _)
    | refine keeps_ite ?_ ?_
    | refine takeDescriptor_keeps ?_
    | refine beginDescriptor_keeps ?_)

theorem resumeChannel_keeps {a1 a2} (h : Keeps q s) : Keeps q (resumeChannel s a1 a2) := by
  unfold resumeChannel
  with_reducible repeat' (first
    | assumption
    | (extract_lets +onlyGivenNames x; refine keeps_step (q := q) (x := x) ?_ ?_; (on_goal 1 => (dsimp -zeta only [x]; clear x)); (on_goal 2 => (clear_value x; revert x; intro _ _)))
    | (extract_lets +onlyGivenNames x; revert x; intro _) | refine keeps_ite ?_ ?_ | refine takeDescriptor_keeps ?_
    | refine refresh_keeps ?_)

theorem writeDmaCmd_keeps {a1 a2 a3} (h : Keeps q s) : Keeps q (writeDmaCmd s a1 a2 a3) := by
  unfold writeDmaCmd
  with_reducible repeat' (first
    | assumption
    | (extract_lets +onlyGivenNames x; refine keeps_step (q := q) (x := x) ?_ ?_; (on_goal 1 => (dsimp -zeta only [x]; clear x)); (on_goal 2 => (clear_value x; revert x; intro _ _)))
    | refine keeps_ite ?_ ?_ | refine startChannel_keeps ?_ | refine resumeChannel_keeps ?_
    | refine abortChannel_keeps ?_)

theorem writeFields_keeps {a1 a2 a3 a4} (h : Keeps q s) : Keeps q (writeFields s a1 a2 a3 a4) := by
  unfold writeFields
  with_reducible repeat' (first
    | assumption | refine fun (_ : Keeps q _) => ?_
    | (extract_lets +onlyGivenNames x; refine keeps_step (q := q) (x := x) ?_ ?_; (on_goal 1 => (dsimp -zeta only [x]; clear x)); (on_goal 2 => (clear_value x; revert x; intro _ _)))
    | (extract_lets +onlyGivenNames x; revert x; intro _) | refine keeps_ite ?_ ?_ | refine keeps_foldl ?_ _ ?_
    | refine setF_keeps ?_ | intro _ | split
    | (constructor <;> dsimp only <;> first | exact Keeps.queue ‹_› | exact Keeps.mem ‹_› | exact Keeps.regs ‹_› | exact Keeps.ns ‹_› | exact Keeps.load ‹_›))

theorem writePlain_keeps {a1 a2 a3} (h : Keeps q s) : Keeps q (writePlain s a1 a2 a3) := by
  unfold writePlain
  with_reducible repeat' (first | assumption | refine writeFields_keeps ?_)

theorem writeDma_keeps {a1 a2 a3 a4} (h : Keeps q s) : Keeps q (writeDma s a1 a2 a3 a4) := by
  unfold writeDma
  with_reducible repeat' (first
    | assumption
    | (extract_lets +onlyGivenNames x; refine keeps_step (q := q) (x := x) ?_ ?_; (on_goal 1 => (dsimp -zeta only [x]; clear x)); (on_goal 2 => (clear_value x; revert x; intro _ _)))
    | (extract_lets +onlyGivenNames x; revert x; intro _) | refine keeps_ite ?_ ?_ | refine setDma_keeps ?_
    | refine writeDmaCmd_keeps ?_ | refine refresh_keeps ?_ | refine writePlain_keeps ?_ | split)

theorem popCvu_keeps {a1 a2} (h : Keeps q s) : Keeps q (popCvu s a1 a2) :=
  keeps_congr h rfl rfl rfl rfl rfl

theorem writeCvu_keeps {a1 a2 a3 a4} (h : Keeps q s) : Keeps q (writeCvu s a1 a2 a3 a4) := by
  unfold writeCvu
  with_reducible repeat' (first
    | assumption | refine keeps_ite ?_ ?_ | refine popCvu_keeps ?_
    | refine refresh_keeps ?_ | refine writePlain_keeps ?_ | split)

theorem postMbox_keeps {a1 a2} (h : Keeps q s) : Keeps q (postMbox s a1 a2) := by
  unfold postMbox
  with_reducible repeat' (first
    | assumption
    | (extract_lets +onlyGivenNames x; refine keeps_step (q := q) (x := x) ?_ ?_; (on_goal 1 => (dsimp -zeta only [x]; clear x)); (on_goal 2 => (clear_value x; revert x; intro _ _)))
    | (extract_lets +onlyGivenNames x; revert x; intro _) | refine keeps_ite ?_ ?_ | refine writeMbox_keeps ?_
    | refine addF_keeps ?_ | refine setHw_keeps ?_ | refine wakeEvent_keeps ?_
    | refine startWake_keeps ?_)

theorem chanOn_keeps {a1 a2} (h : Keeps q s) : Keeps q (chanOn s a1 a2) := by
  unfold chanOn
  with_reducible repeat' (first
    | assumption
    | refine keeps_ite ?_ ?_
    | refine goOn_keeps ?_
    | refine takeDescriptor_keeps ?_
    | refine keeps_of_eq1 (by assumption) ?_
    | refine keeps_of_eq2 (by assumption) ?_
    | refine keeps_of_eq12 (by assumption) ?_
    | intro _
    | split
    | (constructor <;> dsimp only <;> repeat first | exact Keeps.queue ‹_› | exact Keeps.mem ‹_› | exact Keeps.regs ‹_› | exact Keeps.ns ‹_› | exact Keeps.load ‹_› | refine Keeps.queue (q := q) ?_ | refine Keeps.mem (q := q) ?_ | refine Keeps.regs (q := q) ?_ | refine Keeps.ns (q := q) ?_ | refine Keeps.load (q := q) ?_))

theorem goOnAll_keeps (h : Keeps q s) : Keeps q (goOnAll s) := by
  unfold goOnAll
  with_reducible repeat' (first
    | assumption
    | refine fun (_ : Keeps q _) => ?_
    | refine keeps_ite ?_ ?_
    | refine keeps_foldl ?_ _ ?_
    | refine keeps_foldl1 ?_ _ ?_
    | refine chanOn_keeps ?_
    | intro _)

theorem performAcc_keeps {a1} (h : Keeps q s) : Keeps q (performAcc s a1) := by
  unfold performAcc
  with_reducible repeat' (first
    | assumption
    | refine fun (_ : Keeps q _) => ?_
    | (extract_lets +onlyGivenNames x; refine keeps_step (q := q) (x := x) ?_ ?_; (on_goal 1 => (dsimp -zeta only [x]; clear x)); (on_goal 2 => (clear_value x; revert x; intro _ _)))
    | (extract_lets +onlyGivenNames x; refine keeps_step1 (q := q) (x := x) ?_ ?_; (on_goal 1 => (dsimp -zeta only [x]; clear x)); (on_goal 2 => (clear_value x; revert x; intro _ _)))
    | (extract_lets +onlyGivenNames x; refine keeps_step2 (q := q) (x := x) ?_ ?_; (on_goal 1 => (dsimp -zeta only [x]; clear x)); (on_goal 2 => (clear_value x; revert x; intro _ _)))
    | refine keeps_ite ?_ ?_
    | refine keeps_foldl ?_ _ ?_
    | refine keeps_foldl1 ?_ _ ?_
    | refine wrTainted_keeps ?_
    | refine readBad_keeps ?_
    | refine emit_keeps ?_
    | refine sfPut_keeps ?_
    | refine keeps_of_eq1 (by assumption) ?_
    | refine keeps_of_eq2 (by assumption) ?_
    | refine keeps_of_eq12 (by assumption) ?_
    | intro _
    | split)

theorem makeAcc_keeps {a1} (h : Keeps q s) : Keeps q (makeAcc s a1) := by
  unfold makeAcc
  with_reducible repeat' (first
    | assumption
    | (extract_lets +onlyGivenNames x; refine keeps_step2 (q := q) (x := x) ?_ ?_; (on_goal 1 => (dsimp -zeta only [x]; clear x)); (on_goal 2 => (clear_value x; revert x; intro _ _)))
    | refine keeps_ite ?_ ?_
    | refine mustGo_keeps ?_
    | refine snoopLine_keeps ?_
    | refine performAcc_keeps ?_
    | refine keeps_of_eq1 (by assumption) ?_
    | refine keeps_of_eq2 (by assumption) ?_
    | refine keeps_of_eq12 (by assumption) ?_
    | intro _
    | split
    | (constructor <;> dsimp only <;> first | exact Keeps.queue ‹_› | exact Keeps.mem ‹_› | exact Keeps.regs ‹_› | exact Keeps.ns ‹_› | exact Keeps.load ‹_›)
    | (constructor <;> dsimp only <;> repeat first | exact Keeps.queue ‹_› | exact Keeps.mem ‹_› | exact Keeps.regs ‹_› | exact Keeps.ns ‹_› | exact Keeps.load ‹_› | refine Keeps.queue (q := q) ?_ | refine Keeps.mem (q := q) ?_ | refine Keeps.regs (q := q) ?_ | refine Keeps.ns (q := q) ?_ | refine Keeps.load (q := q) ?_))

theorem retryWaits_keeps (h : Keeps q s) : Keeps q (retryWaits s) := by
  unfold retryWaits
  with_reducible repeat' (first
    | assumption
    | refine fun (_ : Keeps q _) => ?_
    | refine keeps_ite ?_ ?_
    | refine keeps_foldl ?_ _ ?_
    | refine keeps_foldl1 ?_ _ ?_
    | refine makeAcc_keeps ?_
    | intro _
    | split
    | (constructor <;> dsimp only <;> first | exact Keeps.queue ‹_› | exact Keeps.mem ‹_› | exact Keeps.regs ‹_› | exact Keeps.ns ‹_› | exact Keeps.load ‹_›))

theorem execClrCnt_keeps (h : Keeps q s) : KeepsR q (execClrCnt s) := by
  unfold execClrCnt
  with_reducible repeat' (first
    | assumption | refine fun (_ : Keeps q _) => ?_ | (extract_lets +onlyGivenNames x; revert x; intro _)
    | refine keepsR_next ?_ | refine keeps_foldl ?_ _ ?_ | refine setInt_keeps ?_
    | refine setF_keeps ?_ | intro _)

theorem execCoupledPlanDrop_keeps {a1} (h : Keeps q s) : KeepsR q (execCoupledPlanDrop a1 s) := by
  unfold execCoupledPlanDrop
  with_reducible repeat' (first
    | assumption | (extract_lets +onlyGivenNames x; revert x; intro _) | refine keepsR_next ?_
    | refine keeps_ite ?_ ?_ | refine dropCoupled_keeps ?_)

theorem execCvuPop_keeps {a1 a2} (h : Keeps q s) : KeepsR q (execCvuPop a1 a2 s) := by
  unfold execCvuPop
  with_reducible repeat' (first
    | assumption
    | refine keepsR_next ?_
    | refine keepsR_fault _
    | refine keepsR_refused _
    | refine keepsR_ite ?_ ?_
    | refine keeps_ite ?_ ?_
    | refine popCvu_keeps ?_
    | intro _
    | split
    | (dsimp -zeta +zetaDelta only; split)
    | (constructor <;> dsimp only <;> first | exact Keeps.queue ‹_› | exact Keeps.mem ‹_› | exact Keeps.regs ‹_› | exact Keeps.ns ‹_› | exact Keeps.load ‹_›))

theorem execCvuUnitResult_keeps {a1 a2 a3} (h : Keeps q s) : KeepsR q (execCvuUnitResult a1 a2 a3 s) := by
  unfold execCvuUnitResult
  with_reducible repeat' (first
    | assumption
    | (extract_lets +onlyGivenNames x; revert x; intro _)
    | refine keepsR_next ?_
    | refine keepsR_fault _
    | refine keepsR_refused _
    | refine keepsR_ite ?_ ?_
    | refine keeps_ite ?_ ?_
    | refine cvuUnit_keeps ?_
    | refine keeps_of_eq1 (by assumption) ?_
    | refine keeps_of_eq2 (by assumption) ?_
    | refine keeps_of_eq12 (by assumption) ?_
    | intro _
    | split
    | (constructor <;> dsimp only <;> first | exact Keeps.queue ‹_› | exact Keeps.mem ‹_› | exact Keeps.regs ‹_› | exact Keeps.ns ‹_› | exact Keeps.load ‹_›))

theorem execCxlCntClr_keeps (h : Keeps q s) : KeepsR q (execCxlCntClr s) := by
  unfold execCxlCntClr
  with_reducible repeat' (first
    | assumption | refine fun (_ : Keeps q _) => ?_ | refine keepsR_next ?_
    | refine keeps_foldl ?_ _ ?_ | refine setF_keeps ?_ | intro _)

theorem execDescriptorComplete_keeps {a1 a2} (h : Keeps q s) : KeepsR q (execDescriptorComplete a1 a2 s) := by
  unfold execDescriptorComplete
  with_reducible repeat' (first | assumption | refine keepsR_next ?_ | refine completeChannel_keeps ?_)

theorem execDmaAbort_keeps {a1 a2} (h : Keeps q s) : KeepsR q (execDmaAbort a1 a2 s) := by
  unfold execDmaAbort
  with_reducible repeat' (first
    | assumption
    | refine keepsR_next ?_
    | refine keepsR_fault _
    | refine keepsR_refused _
    | refine keepsR_ite ?_ ?_
    | refine keeps_ite ?_ ?_
    | refine abortChannel_keeps ?_
    | intro _
    | split
    | (dsimp -zeta +zetaDelta only; split)
    | (constructor <;> dsimp only <;> first | exact Keeps.queue ‹_› | exact Keeps.mem ‹_› | exact Keeps.regs ‹_› | exact Keeps.ns ‹_› | exact Keeps.load ‹_›))

theorem execDmaResume_keeps {a1 a2} (h : Keeps q s) : KeepsR q (execDmaResume a1 a2 s) := by
  unfold execDmaResume
  with_reducible repeat' (first
    | assumption
    | refine keepsR_next ?_
    | refine keepsR_fault _
    | refine keepsR_refused _
    | refine keepsR_ite ?_ ?_
    | refine keeps_ite ?_ ?_
    | refine resumeChannel_keeps ?_
    | intro _
    | split
    | (dsimp -zeta +zetaDelta only; split)
    | (constructor <;> dsimp only <;> first | exact Keeps.queue ‹_› | exact Keeps.mem ‹_› | exact Keeps.regs ‹_› | exact Keeps.ns ‹_› | exact Keeps.load ‹_›))

theorem execDmaStart_keeps {a1 a2} (h : Keeps q s) : KeepsR q (execDmaStart a1 a2 s) := by
  unfold execDmaStart
  with_reducible repeat' (first
    | assumption
    | refine keepsR_next ?_
    | refine keepsR_fault _
    | refine keepsR_refused _
    | refine keepsR_ite ?_ ?_
    | refine keeps_ite ?_ ?_
    | refine startChannel_keeps ?_
    | intro _
    | split
    | (dsimp -zeta +zetaDelta only; split)
    | (constructor <;> dsimp only <;> first | exact Keeps.queue ‹_› | exact Keeps.mem ‹_› | exact Keeps.regs ‹_› | exact Keeps.ns ‹_› | exact Keeps.load ‹_›))

theorem execDoeAbort_keeps {a1} (h : Keeps q s) : KeepsR q (execDoeAbort a1 s) := by
  unfold execDoeAbort
  with_reducible repeat' (first
    | assumption
    | refine keepsR_next ?_
    | refine keepsR_fault _
    | refine keepsR_refused _
    | refine keepsR_ite ?_ ?_
    | refine keeps_ite ?_ ?_
    | refine setDoe_keeps ?_
    | intro _
    | split
    | (dsimp -zeta +zetaDelta only; split)
    | (constructor <;> dsimp only <;> first | exact Keeps.queue ‹_› | exact Keeps.mem ‹_› | exact Keeps.regs ‹_› | exact Keeps.ns ‹_› | exact Keeps.load ‹_›))

theorem execDoeRequest_keeps {a1 a2 a3} (h : Keeps q s) : KeepsR q (execDoeRequest a1 a2 a3 s) := by
  unfold execDoeRequest
  with_reducible repeat' (first
    | assumption
    | (extract_lets +onlyGivenNames x; refine keeps_step (q := q) (x := x) ?_ ?_; (on_goal 1 => (dsimp -zeta only [x]; clear x)); (on_goal 2 => (clear_value x; revert x; intro _ _)))
    | (extract_lets +onlyGivenNames x; revert x; intro _)
    | refine keepsR_next ?_
    | refine keepsR_fault _
    | refine keepsR_refused _
    | refine keepsR_ite ?_ ?_
    | refine keeps_ite ?_ ?_
    | refine setDoe_keeps ?_
    | refine keeps_of_eq1 (by assumption) ?_
    | refine keeps_of_eq2 (by assumption) ?_
    | refine keeps_of_eq12 (by assumption) ?_
    | intro _
    | split
    | (dsimp -zeta +zetaDelta only; split)
    | (constructor <;> dsimp only <;> first | exact Keeps.queue ‹_› | exact Keeps.mem ‹_› | exact Keeps.regs ‹_› | exact Keeps.ns ‹_› | exact Keeps.load ‹_›))

theorem execH2dSnoop_keeps {a1} (h : Keeps q s) : KeepsR q (execH2dSnoop a1 s) := by
  unfold execH2dSnoop
  with_reducible repeat' (first
    | assumption
    | refine keepsR_next ?_
    | refine keepsR_fault _
    | refine keepsR_refused _
    | refine keepsR_ite ?_ ?_
    | refine keeps_ite ?_ ?_
    | refine emit_keeps ?_
    | intro _
    | split
    | (dsimp -zeta +zetaDelta only; split)
    | (constructor <;> dsimp only <;> first | exact Keeps.queue ‹_› | exact Keeps.mem ‹_› | exact Keeps.regs ‹_› | exact Keeps.ns ‹_› | exact Keeps.load ‹_›))

theorem execHdmAccess_keeps {a1 a2 a3 a4 a5} (h : Keeps q s) : KeepsR q (execHdmAccess a1 a2 a3 a4 a5 s) := by
  unfold execHdmAccess
  with_reducible repeat' (first
    | assumption
    | (extract_lets +onlyGivenNames x; refine keeps_step (q := q) (x := x) ?_ ?_; (on_goal 1 => (dsimp -zeta only [x]; clear x)); (on_goal 2 => (clear_value x; revert x; intro _ _)))
    | (extract_lets +onlyGivenNames x; revert x; intro _)
    | refine keepsR_next ?_
    | refine keepsR_fault _
    | refine keepsR_refused _
    | refine keepsR_ite ?_ ?_
    | refine keeps_ite ?_ ?_
    | refine emit_keeps ?_
    | refine makeAcc_keeps ?_
    | refine keeps_of_eq1 (by assumption) ?_
    | refine keeps_of_eq2 (by assumption) ?_
    | refine keeps_of_eq12 (by assumption) ?_
    | intro _
    | split
    | (dsimp -zeta +zetaDelta only; split)
    | (constructor <;> dsimp only <;> first | exact Keeps.queue ‹_› | exact Keeps.mem ‹_› | exact Keeps.regs ‹_› | exact Keeps.ns ‹_› | exact Keeps.load ‹_›))

theorem execHdmDecoderCommit_keeps {a1 a2 a3 a4 a5} (h : Keeps q s) : KeepsR q (execHdmDecoderCommit a1 a2 a3 a4 a5 s) := by
  unfold execHdmDecoderCommit
  with_reducible repeat' (first
    | assumption
    | refine keepsR_next ?_
    | refine keepsR_fault _
    | refine keepsR_refused _
    | refine keepsR_ite ?_ ?_
    | refine keeps_ite ?_ ?_
    | refine decommit_keeps ?_
    | refine intPulse_keeps ?_
    | refine setBitF_keeps ?_
    | refine setHdm_keeps ?_
    | refine setF_keeps ?_
    | intro _
    | split
    | (dsimp -zeta +zetaDelta only; split)
    | (constructor <;> dsimp only <;> first | exact Keeps.queue ‹_› | exact Keeps.mem ‹_› | exact Keeps.regs ‹_› | exact Keeps.ns ‹_› | exact Keeps.load ‹_›))

theorem execHostChannelResume_keeps {a1} (h : Keeps q s) : KeepsR q (execHostChannelResume a1 s) := by
  unfold execHostChannelResume
  with_reducible repeat' (first
    | assumption
    | refine keepsR_next ?_
    | refine keepsR_fault _
    | refine keepsR_refused _
    | refine keepsR_ite ?_ ?_
    | refine keeps_ite ?_ ?_
    | refine chanOn_keeps ?_
    | refine setF_keeps ?_)

theorem execHostChannelSuspend_keeps {a1} (h : Keeps q s) : KeepsR q (execHostChannelSuspend a1 s) := by
  unfold execHostChannelSuspend
  with_reducible repeat' (first
    | assumption | refine keepsR_next ?_ | refine keeps_ite ?_ ?_
    | refine setF_keeps ?_)

theorem execHostReadReturn_keeps {a1 a2} (h : Keeps q s) : KeepsR q (execHostReadReturn a1 a2 s) := by
  unfold execHostReadReturn
  with_reducible repeat' (first
    | assumption
    | (extract_lets +onlyGivenNames x; refine keeps_step (q := q) (x := x) ?_ ?_; (on_goal 1 => (dsimp -zeta only [x]; clear x)); (on_goal 2 => (clear_value x; revert x; intro _ _)))
    | (extract_lets +onlyGivenNames x; revert x; intro _)
    | refine keepsR_next ?_
    | refine keepsR_fault _
    | refine keepsR_refused _
    | refine keepsR_ite ?_ ?_
    | refine keeps_ite ?_ ?_
    | refine chanOn_keeps ?_
    | refine setDma_keeps ?_
    | refine keeps_of_eq1 (by assumption) ?_
    | refine keeps_of_eq2 (by assumption) ?_
    | refine keeps_of_eq12 (by assumption) ?_
    | intro _
    | split
    | (dsimp -zeta +zetaDelta only; split)
    | (constructor <;> dsimp only <;> first | exact Keeps.queue ‹_› | exact Keeps.mem ‹_› | exact Keeps.regs ‹_› | exact Keeps.ns ‹_› | exact Keeps.load ‹_›))

theorem goLate_keeps {a1} (h : Keeps q s) : Keeps q (goLate s a1) := by
  unfold goLate
  with_reducible repeat' (first
    | assumption
    | (extract_lets +onlyGivenNames x; refine keeps_step (q := q) (x := x) ?_ ?_; (on_goal 1 => (dsimp -zeta only [x]; clear x)); (on_goal 2 => (clear_value x; revert x; intro _ _)))
    | (extract_lets +onlyGivenNames x; revert x; intro _)
    | refine keeps_ite ?_ ?_
    | refine writePiece_keeps ?_
    | refine setDma_keeps ?_
    | refine keeps_of_eq1 (by assumption) ?_
    | refine keeps_of_eq2 (by assumption) ?_
    | refine keeps_of_eq12 (by assumption) ?_
    | intro _
    | split)

theorem goHead_keeps {a1 a2} (h : Keeps q s) : Keeps q (goHead s a1 a2) := by
  unfold goHead
  with_reducible repeat' (first
    | assumption
    | (extract_lets +onlyGivenNames x; refine keeps_step (q := q) (x := x) ?_ ?_; (on_goal 1 => (dsimp -zeta only [x]; clear x)); (on_goal 2 => (clear_value x; revert x; intro _ _)))
    | (extract_lets +onlyGivenNames x; revert x; intro _)
    | refine keeps_ite ?_ ?_
    | refine writePiece_keeps ?_
    | refine setDma_keeps ?_
    | refine keeps_of_eq1 (by assumption) ?_
    | refine keeps_of_eq2 (by assumption) ?_
    | refine keeps_of_eq12 (by assumption) ?_
    | intro _
    | split)

theorem execIntAck_keeps {a1} (h : Keeps q s) : KeepsR q (execIntAck a1 s) := by
  unfold execIntAck
  with_reducible repeat' (first | assumption | refine keepsR_next ?_ | refine ackSource_keeps ?_)

theorem writeSrcCfg_keeps {a1 a2} (h : Keeps q s) : Keeps q (writeSrcCfg s a1 a2) := by
  unfold writeSrcCfg
  with_reducible repeat' (first
    | assumption
    | (extract_lets +onlyGivenNames x; refine keeps_step (q := q) (x := x) ?_ ?_; (on_goal 1 => (dsimp -zeta only [x]; clear x)); (on_goal 2 => (clear_value x; revert x; intro _ _)))
    | (extract_lets +onlyGivenNames x; revert x; intro _)
    | refine keeps_ite ?_ ?_
    | refine setF_keeps ?_
    | refine setInt_keeps ?_
    | refine keeps_of_eq1 (by assumption) ?_
    | refine keeps_of_eq2 (by assumption) ?_
    | refine keeps_of_eq12 (by assumption) ?_
    | intro _
    | split
    | (dsimp -zeta +zetaDelta only; split)
    | (constructor <;> dsimp only <;> first | exact Keeps.queue ‹_› | exact Keeps.mem ‹_› | exact Keeps.regs ‹_› | exact Keeps.ns ‹_› | exact Keeps.load ‹_›))

theorem execIntSrcCfgWrite_keeps {a1 a2} (h : Keeps q s) : KeepsR q (execIntSrcCfgWrite a1 a2 s) := by
  unfold execIntSrcCfgWrite
  with_reducible repeat' (first | assumption | refine keepsR_next ?_ | refine writeSrcCfg_keeps ?_)

theorem vectorMessage_keeps {a1} (h : Keeps q s) : Keeps q (vectorMessage s a1) := by
  unfold vectorMessage
  with_reducible repeat' (first
    | assumption | refine keeps_ite ?_ ?_ | refine sendMsi_keeps ?_
    | refine setPending_keeps ?_)

theorem execInterruptMessage_keeps {a1 a2} (h : Keeps q s) : KeepsR q (execInterruptMessage a1 a2 s) := by
  unfold execInterruptMessage
  with_reducible repeat' (first
    | assumption
    | (extract_lets +onlyGivenNames x; refine keeps_step (q := q) (x := x) ?_ ?_; (on_goal 1 => (dsimp -zeta only [x]; clear x)); (on_goal 2 => (clear_value x; revert x; intro _ _)))
    | (extract_lets +onlyGivenNames x; revert x; intro _)
    | refine keepsR_next ?_
    | refine keepsR_fault _
    | refine keepsR_refused _
    | refine keepsR_ite ?_ ?_
    | refine keeps_ite ?_ ?_
    | refine atDt_keeps ?_
    | refine setInt_keeps ?_
    | refine vectorMessage_keeps ?_
    | refine keeps_of_eq1 (by assumption) ?_
    | refine keeps_of_eq2 (by assumption) ?_
    | refine keeps_of_eq12 (by assumption) ?_
    | intro _
    | split
    | (dsimp -zeta +zetaDelta only; split)
    | (constructor <;> dsimp only <;> first | exact Keeps.queue ‹_› | exact Keeps.mem ‹_› | exact Keeps.regs ‹_› | exact Keeps.ns ‹_› | exact Keeps.load ‹_›))

theorem execLinkRecovery_keeps {a1} (h : Keeps q s) : KeepsR q (execLinkRecovery a1 s) := by
  unfold execLinkRecovery
  with_reducible repeat' (first
    | assumption
    | (extract_lets +onlyGivenNames x; refine keeps_step (q := q) (x := x) ?_ ?_; (on_goal 1 => (dsimp -zeta only [x]; clear x)); (on_goal 2 => (clear_value x; revert x; intro _ _)))
    | refine keepsR_next ?_ | refine intPulse_keeps ?_ | refine addF_keeps ?_
    | (constructor <;> dsimp only <;> first | exact Keeps.queue ‹_› | exact Keeps.mem ‹_› | exact Keeps.regs ‹_› | exact Keeps.ns ‹_› | exact Keeps.load ‹_›))

theorem writeSlotCfg_keeps {a1 a2} (h : Keeps q s) : Keeps q (writeSlotCfg s a1 a2) := by
  unfold writeSlotCfg
  with_reducible repeat' (first
    | assumption | (extract_lets +onlyGivenNames x; revert x; intro _) | refine keeps_ite ?_ ?_
    | refine setF_keeps ?_)

theorem execNvsSlotCfgWrite_keeps {a1 a2} (h : Keeps q s) : KeepsR q (execNvsSlotCfgWrite a1 a2 s) := by
  unfold execNvsSlotCfgWrite
  with_reducible repeat' (first | assumption | refine keepsR_next ?_ | refine writeSlotCfg_keeps ?_)

theorem nvsRefuse_keeps (h : Keeps q s) : Keeps q (nvsRefuse s) := by
  unfold nvsRefuse
  with_reducible repeat' (first | assumption | refine setF_keeps ?_ | refine refresh_keeps ?_)

theorem nvsProgram_keeps (h : Keeps q s) : Keeps q (nvsProgram s) := by
  unfold nvsProgram
  with_reducible repeat' (first
    | assumption | refine keeps_ite ?_ ?_ | refine nvsRefuse_keeps ?_
    | refine wrBytes_keeps ?_)

theorem execProgram_keeps (h : Keeps q s) : KeepsR q (execProgram s) := by
  unfold execProgram
  with_reducible repeat' (first
    | assumption | refine keepsR_next ?_ | refine nvsProgram_keeps ?_
    | refine setF_keeps ?_)

theorem nvsRead_keeps {a1} (h : Keeps q s) : Keeps q (nvsRead s a1) := by
  unfold nvsRead
  with_reducible repeat' (first
    | assumption | (extract_lets +onlyGivenNames x; revert x; intro _) | refine keeps_ite ?_ ?_
    | refine nvsRefuse_keeps ?_ | refine noteNvs_keeps ?_
    | (constructor <;> dsimp only <;> first | exact Keeps.queue ‹_› | exact Keeps.mem ‹_› | exact Keeps.regs ‹_› | exact Keeps.ns ‹_› | exact Keeps.load ‹_›))

theorem execRead_keeps {a1} (h : Keeps q s) : KeepsR q (execRead a1 s) := by
  unfold execRead
  with_reducible repeat' (first
    | assumption | refine keepsR_next ?_ | refine nvsRead_keeps ?_
    | refine setF_keeps ?_)

theorem setLink_keeps {a1 a2 a3} (h : Keeps q s) : Keeps q (setLink s a1 a2 a3) := by
  unfold setLink
  with_reducible repeat' (first
    | assumption | refine fun (_ : Keeps q _) => ?_ | refine keeps_foldl ?_ _ ?_
    | refine setF_keeps ?_ | refine refresh_keeps ?_ | intro _)

theorem startRetrain_keeps {a1 a2} (h : Keeps q s) : Keeps q (startRetrain s a1 a2) := by
  unfold startRetrain
  with_reducible repeat' (first
    | assumption | refine fun (_ : Keeps q _) => ?_
    | (extract_lets +onlyGivenNames x; refine keeps_step (q := q) (x := x) ?_ ?_; (on_goal 1 => (dsimp -zeta only [x]; clear x)); (on_goal 2 => (clear_value x; revert x; intro _ _)))
    | refine keeps_ite ?_ ?_ | refine keeps_foldl ?_ _ ?_ | refine setLink_keeps ?_ | intro _
    | (constructor <;> dsimp only <;> first | exact Keeps.queue ‹_› | exact Keeps.mem ‹_› | exact Keeps.regs ‹_› | exact Keeps.ns ‹_› | exact Keeps.load ‹_›))

theorem execRingLinkRetrain_keeps {a1 a2 a3 a4} (h : Keeps q s) : KeepsR q (execRingLinkRetrain a1 a2 a3 a4 s) := by
  unfold execRingLinkRetrain
  with_reducible repeat' (first
    | assumption
    | refine fun (_ : Keeps q _) => ?_
    | (extract_lets +onlyGivenNames x; refine keeps_step (q := q) (x := x) ?_ ?_; (on_goal 1 => (dsimp -zeta only [x]; clear x)); (on_goal 2 => (clear_value x; revert x; intro _ _)))
    | refine keepsR_next ?_
    | refine keepsR_fault _
    | refine keepsR_refused _
    | refine keepsR_ite ?_ ?_
    | refine keeps_ite ?_ ?_
    | refine keeps_foldl ?_ _ ?_
    | refine keeps_foldl1 ?_ _ ?_
    | refine atDt_keeps ?_
    | refine startRetrain_keeps ?_
    | refine addF_keeps ?_
    | refine setLink_keeps ?_
    | refine dropCoupled_keeps ?_
    | refine keeps_of_eq1 (by assumption) ?_
    | refine keeps_of_eq2 (by assumption) ?_
    | refine keeps_of_eq12 (by assumption) ?_
    | intro _)

theorem execRingTransferReceive_keeps {a1 a2} (h : Keeps q s) : KeepsR q (execRingTransferReceive a1 a2 s) := by
  unfold execRingTransferReceive
  with_reducible repeat' (first
    | assumption
    | refine fun (_ : Keeps q _) => ?_
    | (extract_lets +onlyGivenNames x; refine keeps_step (q := q) (x := x) ?_ ?_; (on_goal 1 => (dsimp -zeta only [x]; clear x)); (on_goal 2 => (clear_value x; revert x; intro _ _)))
    | (extract_lets +onlyGivenNames x; refine keeps_step1 (q := q) (x := x) ?_ ?_; (on_goal 1 => (dsimp -zeta only [x]; clear x)); (on_goal 2 => (clear_value x; revert x; intro _ _)))
    | (extract_lets +onlyGivenNames x; refine keeps_step2 (q := q) (x := x) ?_ ?_; (on_goal 1 => (dsimp -zeta only [x]; clear x)); (on_goal 2 => (clear_value x; revert x; intro _ _)))
    | (extract_lets +onlyGivenNames x; revert x; intro _)
    | refine keepsR_next ?_
    | refine keepsR_fault _
    | refine keepsR_refused _
    | refine keepsR_ite ?_ ?_
    | refine keeps_ite ?_ ?_
    | refine keeps_foldl ?_ _ ?_
    | refine keeps_foldl1 ?_ _ ?_
    | refine wrMem_keeps ?_
    | refine poisonFrom_keeps ?_
    | refine addF_keeps ?_
    | refine mapJob_keeps ?_
    | refine startRetrain_keeps ?_
    | refine report_keeps ?_
    | refine keeps_of_eq1 (by assumption) ?_
    | refine keeps_of_eq2 (by assumption) ?_
    | refine keeps_of_eq12 (by assumption) ?_
    | intro _
    | split
    | (dsimp -zeta +zetaDelta only; split)
    | (constructor <;> dsimp only <;> first | exact Keeps.queue ‹_› | exact Keeps.mem ‹_› | exact Keeps.regs ‹_› | exact Keeps.ns ‹_› | exact Keeps.load ‹_›))

theorem execSourceStuck_keeps {a1 a2} (h : Keeps q s) : KeepsR q (execSourceStuck a1 a2 s) := by
  unfold execSourceStuck
  with_reducible repeat' (first
    | assumption
    | (extract_lets +onlyGivenNames x; refine keeps_step (q := q) (x := x) ?_ ?_; (on_goal 1 => (dsimp -zeta only [x]; clear x)); (on_goal 2 => (clear_value x; revert x; intro _ _)))
    | (extract_lets +onlyGivenNames x; revert x; intro _)
    | refine keepsR_next ?_
    | refine keepsR_fault _
    | refine keepsR_refused _
    | refine keepsR_ite ?_ ?_
    | refine keeps_ite ?_ ?_
    | refine atDt_keeps ?_
    | refine intPulse_keeps ?_
    | refine setInt_keeps ?_
    | refine keeps_of_eq1 (by assumption) ?_
    | refine keeps_of_eq2 (by assumption) ?_
    | refine keeps_of_eq12 (by assumption) ?_
    | intro _
    | split
    | (dsimp -zeta +zetaDelta only; split)
    | (constructor <;> dsimp only <;> first | exact Keeps.queue ‹_› | exact Keeps.mem ‹_› | exact Keeps.regs ‹_› | exact Keeps.ns ‹_› | exact Keeps.load ‹_›))

theorem execSourceUnstuck_keeps {a1} (h : Keeps q s) : KeepsR q (execSourceUnstuck a1 s) := by
  unfold execSourceUnstuck
  with_reducible repeat' (first
    | assumption | (extract_lets +onlyGivenNames x; revert x; intro _) | refine keepsR_next ?_
    | refine keeps_ite ?_ ?_ | refine setInt_keeps ?_)

theorem raBins_keeps {o : EngIo} {a1 a2 a3 a4 a5} (h : Keeps q o.st) : Keeps q (raBins o a1 a2 a3 a4 a5).2.st := by
  unfold raBins
  with_reducible repeat' (first
    | assumption
    | refine keeps_ite ?_ ?_
    | refine readRecords_keeps ?_)

theorem readRefs_keeps {o : EngIo} {a1 a2 a3 a4 a5} (h : Keeps q o.st) : Keeps q (readRefs o a1 a2 a3 a4 a5).2.st := by
  unfold readRefs
  with_reducible repeat' (first
    | assumption
    | refine fun (_ : Keeps q _) => ?_
    | refine keeps_ite ?_ ?_
    | refine keeps_foldl ?_ _ ?_
    | refine keeps_foldl1 ?_ _ ?_
    | refine keeps_foldlE ?_ _ ?_
    | refine keeps_foldlE1 ?_ _ ?_
    | refine keeps_foldlE2 ?_ _ ?_
    | refine keeps_foldlE3 ?_ _ ?_
    | refine readRecord_keeps ?_
    | refine keeps_of_eq1 (by assumption) ?_
    | refine keeps_of_eq2 (by assumption) ?_
    | refine keeps_of_eq12 (by assumption) ?_
    | refine keeps_of_eqE1 (by assumption) ?_
    | refine keeps_of_eqE2 (by assumption) ?_
    | refine keeps_of_eqE3 (by assumption) ?_
    | intro _)

theorem enterFault_keeps {a1 a2} (h : Keeps q s) : Keeps q (enterFault s a1 a2) := by
  unfold enterFault
  with_reducible repeat' (first
    | assumption
    | (extract_lets +onlyGivenNames x; refine keeps_step (q := q) (x := x) ?_ ?_; (on_goal 1 => (dsimp -zeta only [x]; clear x)); (on_goal 2 => (clear_value x; revert x; intro _ _)))
    | (extract_lets +onlyGivenNames x; revert x; intro _)
    | refine keeps_ite ?_ ?_
    | refine setTilFault_keeps ?_
    | refine setTile_keeps ?_
    | refine endTile_keeps ?_)

end Sys2Proof.Machine
end

