-- ==== Sys2Proof/Laws/KeepsRadio.lean ====
section
/-!
SUPPORT. That every operation and command's meaning keeps what Keeps names: the laws of XFE, TDD, the radio lanes and ports, and Phlox.
-/

namespace Sys2Proof.Machine

set_option Elab.async false

variable {q : Kept} {s : State} {o : EngIo}

theorem refreshPhx_keeps {a1} (h : Keeps q s) : Keeps q (refreshPhx s a1) := by
  unfold refreshPhx
  with_reducible repeat' (first | assumption | refine refresh_keeps ?_)

theorem abortLoad_keeps {a1 a2 a3} (h : Keeps q s) : Keeps q (abortLoad s a1 a2 a3) := by
  unfold abortLoad
  with_reducible repeat' (first
    | assumption
    | (extract_lets +onlyGivenNames x; refine keeps_step (q := q) (x := x) ?_ ?_; (on_goal 1 => (dsimp -zeta only [x]; clear x)); (on_goal 2 => (clear_value x; revert x; intro _ _)))
    | (extract_lets +onlyGivenNames x; revert x; intro _) | refine refreshPhx_keeps ?_ | refine setPhx_keeps ?_
    | refine setF_keeps ?_)

theorem noteDrop_keeps {a1 a2 a3} (h : Keeps q s) : Keeps q (noteDrop s a1 a2 a3) := by
  unfold noteDrop
  with_reducible repeat' (first
    | assumption
    | (extract_lets +onlyGivenNames x; refine keeps_step (q := q) (x := x) ?_ ?_; (on_goal 1 => (dsimp -zeta only [x]; clear x)); (on_goal 2 => (clear_value x; revert x; intro _ _)))
    | refine addF_keeps ?_ | refine setF_keeps ?_)

theorem addSample_keeps {o : EngIo} {a1 a2 a3 a4} (h : Keeps q o.st) : Keeps q (addSample o a1 a2 a3 a4).st := by
  unfold addSample
  with_reducible repeat' (first
    | assumption | (extract_lets +onlyGivenNames x; revert x; intro _) | refine engWrite_keeps ?_
    | refine engRead_keeps ?_)

theorem addGroup_keeps {o : EngIo} {a1 a2 a3 a4 a5 a6 a7 a8} (h : Keeps q o.st) : Keeps q (addGroup o a1 a2 a3 a4 a5 a6 a7 a8).st := by
  unfold addGroup
  with_reducible repeat' (first
    | assumption | refine fun (_ : Keeps q _) => ?_ | (extract_lets +onlyGivenNames x; revert x; intro _)
    | refine keeps_foldlE ?_ _ ?_ | refine mapJob_keeps ?_ | refine noteDrop_keeps ?_
    | refine addSample_keeps ?_ | intro _ | split)

theorem applyPortGroup_keeps {a1 a2 a3} (h : Keeps q s) : Keeps q (applyPortGroup a1 a2 s a3) := by
  unfold applyPortGroup
  with_reducible repeat' (first
    | assumption
    | (extract_lets +onlyGivenNames x; refine keeps_step (q := q) (x := x) ?_ ?_; (on_goal 1 => (dsimp -zeta only [x]; clear x)); (on_goal 2 => (clear_value x; revert x; intro _ _)))
    | (extract_lets +onlyGivenNames x; revert x; intro _)
    | refine keeps_ite ?_ ?_
    | refine keeps_of_eq1 (by assumption) ?_
    | refine keeps_of_eq2 (by assumption) ?_
    | refine keeps_of_eq12 (by assumption) ?_
    | intro _
    | split
    | (dsimp -zeta +zetaDelta only; split)
    | (constructor <;> dsimp only <;> first | exact Keeps.queue ‹_› | exact Keeps.mem ‹_› | exact Keeps.regs ‹_› | exact Keeps.ns ‹_› | exact Keeps.load ‹_›))

theorem applyTdd_keeps {a1} (h : Keeps q s) : Keeps q (applyTdd s a1) :=
  keeps_congr h rfl rfl rfl rfl rfl

theorem clearPlane_keeps {a1} (h : Keeps q s) : Keeps q (clearPlane s a1) :=
  keeps_congr h rfl rfl rfl rfl rfl

theorem refreshLane_keeps {a1} (h : Keeps q s) : Keeps q (refreshLane s a1) := by
  unfold refreshLane
  with_reducible repeat' (first | assumption | refine refresh_keeps ?_)

theorem setLaneState_keeps {a1 a2} (h : Keeps q s) : Keeps q (setLaneState s a1 a2) := by
  unfold setLaneState
  with_reducible repeat' (first | assumption | refine setF_keeps ?_ | refine refreshLane_keeps ?_)

theorem dropLink_keeps {a1} (h : Keeps q s) : Keeps q (dropLink s a1) := by
  unfold dropLink
  with_reducible repeat' (first | assumption | refine setF_keeps ?_)

theorem setPhxIo_keeps {a1 a2} (h : Keeps q s) : Keeps q (setPhxIo s a1 a2) := by
  unfold setPhxIo
  with_reducible repeat' (first
    | assumption | refine fun (_ : Keeps q _) => ?_ | (extract_lets +onlyGivenNames x; revert x; intro _)
    | refine keeps_ite ?_ ?_ | refine keeps_foldl ?_ _ ?_ | refine setLaneState_keeps ?_
    | refine setF_keeps ?_ | refine setLane_keeps ?_ | refine dropLink_keeps ?_ | intro _)

theorem bootLoadFails_keeps {a1 a2} (h : Keeps q s) : Keeps q (bootLoadFails s a1 a2) := by
  unfold bootLoadFails
  with_reducible repeat' (first
    | assumption
    | (extract_lets +onlyGivenNames x; refine keeps_step (q := q) (x := x) ?_ ?_; (on_goal 1 => (dsimp -zeta only [x]; clear x)); (on_goal 2 => (clear_value x; revert x; intro _ _)))
    | refine keeps_ite ?_ ?_ | refine clearPlane_keeps ?_ | refine setPhxIo_keeps ?_
    | refine setF_keeps ?_)

theorem clearLaneCounters_keeps {a1} (h : Keeps q s) : Keeps q (clearLaneCounters s a1) := by
  unfold clearLaneCounters
  with_reducible repeat' (first
    | assumption | refine fun (_ : Keeps q _) => ?_ | refine keeps_foldl ?_ _ ?_
    | refine setF_keeps ?_ | intro _)

theorem countLane_keeps {a1 a2 a3} (h : Keeps q s) : Keeps q (countLane s a1 a2 a3) := by
  unfold countLane
  with_reducible repeat' (first | assumption | refine addF_keeps ?_)

theorem countCodewords_keeps {a1 a2} (h : Keeps q s) : Keeps q (countCodewords s a1 a2) := by
  unfold countCodewords
  with_reducible repeat' (first
    | assumption
    | refine fun (_ : Keeps q _) => ?_
    | (extract_lets +onlyGivenNames x; refine keeps_step (q := q) (x := x) ?_ ?_; (on_goal 1 => (dsimp -zeta only [x]; clear x)); (on_goal 2 => (clear_value x; revert x; intro _ _)))
    | (extract_lets +onlyGivenNames x; refine keeps_step1 (q := q) (x := x) ?_ ?_; (on_goal 1 => (dsimp -zeta only [x]; clear x)); (on_goal 2 => (clear_value x; revert x; intro _ _)))
    | (extract_lets +onlyGivenNames x; refine keeps_step2 (q := q) (x := x) ?_ ?_; (on_goal 1 => (dsimp -zeta only [x]; clear x)); (on_goal 2 => (clear_value x; revert x; intro _ _)))
    | (extract_lets +onlyGivenNames x; revert x; intro _)
    | refine keeps_ite ?_ ?_
    | refine keeps_foldl ?_ _ ?_
    | refine keeps_foldl1 ?_ _ ?_
    | refine countLane_keeps ?_
    | refine setLane_keeps ?_
    | refine keeps_of_eq1 (by assumption) ?_
    | refine keeps_of_eq2 (by assumption) ?_
    | refine keeps_of_eq12 (by assumption) ?_
    | intro _
    | split
    | (dsimp -zeta +zetaDelta only; split)
    | (constructor <;> dsimp only <;> first | exact Keeps.queue ‹_› | exact Keeps.mem ‹_› | exact Keeps.regs ‹_› | exact Keeps.ns ‹_› | exact Keeps.load ‹_›))

theorem backToTraining_keeps {a1} (h : Keeps q s) : Keeps q (backToTraining s a1) := by
  unfold backToTraining
  with_reducible repeat' (first
    | assumption
    | refine keeps_ite ?_ ?_
    | refine setLaneState_keeps ?_
    | refine setLane_keeps ?_
    | refine dropLink_keeps ?_
    | intro _
    | split
    | (dsimp -zeta +zetaDelta only; split)
    | (constructor <;> dsimp only <;> first | exact Keeps.queue ‹_› | exact Keeps.mem ‹_› | exact Keeps.regs ‹_› | exact Keeps.ns ‹_› | exact Keeps.load ‹_›))

theorem disableLane_keeps {a1} (h : Keeps q s) : Keeps q (disableLane s a1) := by
  unfold disableLane
  with_reducible repeat' (first
    | assumption
    | refine fun (_ : Keeps q _) => ?_
    | (extract_lets +onlyGivenNames x; refine keeps_step (q := q) (x := x) ?_ ?_; (on_goal 1 => (dsimp -zeta only [x]; clear x)); (on_goal 2 => (clear_value x; revert x; intro _ _)))
    | (extract_lets +onlyGivenNames x; refine keeps_step1 (q := q) (x := x) ?_ ?_; (on_goal 1 => (dsimp -zeta only [x]; clear x)); (on_goal 2 => (clear_value x; revert x; intro _ _)))
    | (extract_lets +onlyGivenNames x; refine keeps_step2 (q := q) (x := x) ?_ ?_; (on_goal 1 => (dsimp -zeta only [x]; clear x)); (on_goal 2 => (clear_value x; revert x; intro _ _)))
    | (extract_lets +onlyGivenNames x; revert x; intro _)
    | refine keeps_ite ?_ ?_
    | refine keeps_foldl ?_ _ ?_
    | refine keeps_foldl1 ?_ _ ?_
    | refine dropLink_keeps ?_
    | refine setF_keeps ?_
    | refine runLane_keeps ?_
    | refine emit_keeps ?_
    | refine setLaneState_keeps ?_
    | refine setLane_keeps ?_
    | refine backToTraining_keeps ?_
    | refine keeps_of_eq1 (by assumption) ?_
    | refine keeps_of_eq2 (by assumption) ?_
    | refine keeps_of_eq12 (by assumption) ?_
    | intro _
    | split
    | (dsimp -zeta +zetaDelta only; split)
    | (constructor <;> dsimp only <;> first | exact Keeps.queue ‹_› | exact Keeps.mem ‹_› | exact Keeps.regs ‹_› | exact Keeps.ns ‹_› | exact Keeps.load ‹_›))

theorem disablePfe_keeps {a1 a2} (h : Keeps q s) : Keeps q (disablePfe s a1 a2) := by
  unfold disablePfe
  with_reducible repeat' (first
    | assumption
    | (extract_lets +onlyGivenNames x; refine keeps_step (q := q) (x := x) ?_ ?_; (on_goal 1 => (dsimp -zeta only [x]; clear x)); (on_goal 2 => (clear_value x; revert x; intro _ _)))
    | refine setF_keeps ?_)

theorem downlink_keeps {o : EngIo} {a1 a2 a3 a4 a5 a6 a7} (h : Keeps q o.st) : Keeps q (downlink o a1 a2 a3 a4 a5 a6 a7).st := by
  unfold downlink
  with_reducible repeat' (first
    | assumption
    | refine fun (_ : Keeps q _) => ?_
    | (extract_lets +onlyGivenNames x; refine keeps_step (q := q) (x := x) ?_ ?_; (on_goal 1 => (dsimp -zeta only [x]; clear x)); (on_goal 2 => (clear_value x; revert x; intro _ _)))
    | (extract_lets +onlyGivenNames x; refine keeps_step1 (q := q) (x := x) ?_ ?_; (on_goal 1 => (dsimp -zeta only [x]; clear x)); (on_goal 2 => (clear_value x; revert x; intro _ _)))
    | (extract_lets +onlyGivenNames x; refine keeps_step2 (q := q) (x := x) ?_ ?_; (on_goal 1 => (dsimp -zeta only [x]; clear x)); (on_goal 2 => (clear_value x; revert x; intro _ _)))
    | (extract_lets +onlyGivenNames x; refine keeps_stepE (q := q) (x := x) ?_ ?_; (on_goal 1 => (dsimp -zeta only [x]; clear x)); (on_goal 2 => (clear_value x; revert x; intro _ _)))
    | (extract_lets +onlyGivenNames x; refine keeps_stepE2 (q := q) (x := x) ?_ ?_; (on_goal 1 => (dsimp -zeta only [x]; clear x)); (on_goal 2 => (clear_value x; revert x; intro _ _)))
    | (extract_lets +onlyGivenNames x; revert x; intro _)
    | refine keeps_ite ?_ ?_
    | refine keeps_foldl ?_ _ ?_
    | refine keeps_foldl1 ?_ _ ?_
    | refine keeps_foldlE ?_ _ ?_
    | refine keeps_foldlE1 ?_ _ ?_
    | refine keeps_foldlE2 ?_ _ ?_
    | refine keeps_foldlE3 ?_ _ ?_
    | refine readRecord_keeps ?_
    | refine addGroup_keeps ?_
    | refine keeps_of_eq1 (by assumption) ?_
    | refine keeps_of_eq2 (by assumption) ?_
    | refine keeps_of_eq12 (by assumption) ?_
    | refine keeps_of_eqE1 (by assumption) ?_
    | refine keeps_of_eqE2 (by assumption) ?_
    | refine keeps_of_eqE3 (by assumption) ?_
    | intro _
    | split
    | (dsimp -zeta +zetaDelta only; split)
    | (constructor <;> dsimp only <;> first | exact Keeps.queue ‹_› | exact Keeps.mem ‹_› | exact Keeps.regs ‹_› | exact Keeps.ns ‹_› | exact Keeps.load ‹_›))

theorem driveTddPin_keeps {a1 a2} (h : Keeps q s) : Keeps q (driveTddPin s a1 a2) := by
  unfold driveTddPin
  with_reducible repeat' (first
    | assumption | refine keeps_ite ?_ ?_ | refine emit_keeps ?_
    | (constructor <;> dsimp only <;> first | exact Keeps.queue ‹_› | exact Keeps.mem ‹_› | exact Keeps.regs ‹_› | exact Keeps.ns ‹_› | exact Keeps.load ‹_›))

theorem enableLane_keeps {a1} (h : Keeps q s) : Keeps q (enableLane s a1) := by
  unfold enableLane
  with_reducible repeat' (first
    | assumption
    | (extract_lets +onlyGivenNames x; refine keeps_step (q := q) (x := x) ?_ ?_; (on_goal 1 => (dsimp -zeta only [x]; clear x)); (on_goal 2 => (clear_value x; revert x; intro _ _)))
    | (extract_lets +onlyGivenNames x; revert x; intro _)
    | refine keeps_ite ?_ ?_
    | refine setF_keeps ?_
    | refine refreshLane_keeps ?_
    | refine emit_keeps ?_
    | refine setLaneState_keeps ?_
    | refine setLane_keeps ?_
    | refine keeps_of_eq1 (by assumption) ?_
    | refine keeps_of_eq2 (by assumption) ?_
    | refine keeps_of_eq12 (by assumption) ?_
    | intro _
    | split
    | (dsimp -zeta +zetaDelta only; split)
    | (constructor <;> dsimp only <;> first | exact Keeps.queue ‹_› | exact Keeps.mem ‹_› | exact Keeps.regs ‹_› | exact Keeps.ns ‹_› | exact Keeps.load ‹_›))

theorem enablePfe_keeps {a1 a2} (h : Keeps q s) : Keeps q (enablePfe s a1 a2) := by
  unfold enablePfe
  with_reducible repeat' (first
    | assumption
    | (extract_lets +onlyGivenNames x; refine keeps_step (q := q) (x := x) ?_ ?_; (on_goal 1 => (dsimp -zeta only [x]; clear x)); (on_goal 2 => (clear_value x; revert x; intro _ _)))
    | (extract_lets +onlyGivenNames x; revert x; intro _) | refine keeps_ite ?_ ?_ | refine setF_keeps ?_
    | refine refresh_keeps ?_
    | (constructor <;> dsimp only <;> first | exact Keeps.queue ‹_› | exact Keeps.mem ‹_› | exact Keeps.regs ‹_› | exact Keeps.ns ‹_› | exact Keeps.load ‹_›))

theorem execBlockLock_keeps {a1} (h : Keeps q s) : KeepsR q (execBlockLock a1 s) := by
  unfold execBlockLock
  with_reducible repeat' (first
    | assumption | refine keepsR_next ?_ | refine keeps_ite ?_ ?_
    | refine setF_keeps ?_)

theorem execCaptureDeadline_keeps {a1} (h : Keeps q s) : KeepsR q (execCaptureDeadline a1 s) := by
  unfold execCaptureDeadline
  with_reducible repeat' (first
    | assumption
    | refine keepsR_next ?_
    | refine keepsR_fault _
    | refine keepsR_refused _
    | refine keepsR_ite ?_ ?_
    | refine keeps_ite ?_ ?_
    | refine setF_keeps ?_
    | refine dropCapture_keeps ?_
    | refine keeps_of_eq1 (by assumption) ?_
    | refine keeps_of_eq2 (by assumption) ?_
    | refine keeps_of_eq12 (by assumption) ?_
    | intro _
    | split)

theorem mqPush_keeps {a1 a2} (h : Keeps q s) : Keeps q (mqPush s a1 a2) := by
  unfold mqPush
  with_reducible repeat' (first
    | assumption | (extract_lets +onlyGivenNames x; revert x; intro _) | refine keeps_ite ?_ ?_
    | refine countLane_keeps ?_ | refine setLane_keeps ?_)

theorem takeFragment_keeps {a1 a2} (h : Keeps q s) : Keeps q (takeFragment s a1 a2) := by
  unfold takeFragment
  with_reducible repeat' (first
    | assumption
    | (extract_lets +onlyGivenNames x; refine keeps_step (q := q) (x := x) ?_ ?_; (on_goal 1 => (dsimp -zeta only [x]; clear x)); (on_goal 2 => (clear_value x; revert x; intro _ _)))
    | (extract_lets +onlyGivenNames x; revert x; intro _)
    | refine keeps_ite ?_ ?_
    | refine countLane_keeps ?_
    | refine setLane_keeps ?_
    | refine mqPush_keeps ?_
    | refine keeps_of_eq1 (by assumption) ?_
    | refine keeps_of_eq2 (by assumption) ?_
    | refine keeps_of_eq12 (by assumption) ?_
    | intro _
    | split
    | (dsimp -zeta +zetaDelta only; split)
    | (constructor <;> dsimp only <;> first | exact Keeps.queue ‹_› | exact Keeps.mem ‹_› | exact Keeps.regs ‹_› | exact Keeps.ns ‹_› | exact Keeps.load ‹_›))

theorem execCtl_keeps {a1 a2} (h : Keeps q s) : KeepsR q (execCtl a1 a2 s) := by
  unfold execCtl
  with_reducible repeat' (first
    | assumption | (extract_lets +onlyGivenNames x; revert x; intro _) | refine keepsR_next ?_
    | refine keepsR_ite ?_ ?_ | refine countLane_keeps ?_ | refine takeFragment_keeps ?_)

theorem readGroup_keeps {o : EngIo} {a1 a2 a3} (h : Keeps q o.st) : Keeps q (readGroup o a1 a2 a3).2.st := by
  unfold readGroup
  with_reducible repeat' (first | assumption | (extract_lets +onlyGivenNames x; revert x; intro _) | refine engRead_keeps ?_)

theorem readArea_keeps {o : EngIo} {a1 a2 a3 a4} (h : Keeps q o.st) : Keeps q (readArea o a1 a2 a3 a4).2.st := by
  unfold readArea
  with_reducible repeat' (first
    | assumption | refine fun (_ : Keeps q _) => ?_ | (extract_lets +onlyGivenNames x; revert x; intro _)
    | refine keeps_foldlE2 ?_ _ ?_ | refine readGroup_keeps ?_ | intro _
    | refine keeps_of_eqE2 (by assumption) ?_ | split)

theorem uplink_keeps {o : EngIo} {a1 a2 a3 a4} (h : Keeps q o.st) : Keeps q (uplink o a1 a2 a3 a4).st := by
  unfold uplink
  with_reducible repeat' (first
    | assumption
    | (extract_lets +onlyGivenNames x; refine keeps_step (q := q) (x := x) ?_ ?_; (on_goal 1 => (dsimp -zeta only [x]; clear x)); (on_goal 2 => (clear_value x; revert x; intro _ _)))
    | (extract_lets +onlyGivenNames x; refine keeps_stepE (q := q) (x := x) ?_ ?_; (on_goal 1 => (dsimp -zeta only [x]; clear x)); (on_goal 2 => (clear_value x; revert x; intro _ _)))
    | (extract_lets +onlyGivenNames x; refine keeps_stepE2 (q := q) (x := x) ?_ ?_; (on_goal 1 => (dsimp -zeta only [x]; clear x)); (on_goal 2 => (clear_value x; revert x; intro _ _)))
    | (extract_lets +onlyGivenNames x; revert x; intro _)
    | refine keeps_ite ?_ ?_
    | refine engWrite_keeps ?_
    | refine readArea_keeps ?_
    | refine keeps_of_eq1 (by assumption) ?_
    | refine keeps_of_eq2 (by assumption) ?_
    | refine keeps_of_eq12 (by assumption) ?_
    | refine keeps_of_eqE1 (by assumption) ?_
    | refine keeps_of_eqE2 (by assumption) ?_
    | refine keeps_of_eqE3 (by assumption) ?_
    | intro _
    | split
    | (dsimp -zeta +zetaDelta only; split)
    | (constructor <;> dsimp only <;> first | exact Keeps.queue ‹_› | exact Keeps.mem ‹_› | exact Keeps.regs ‹_› | exact Keeps.ns ‹_› | exact Keeps.load ‹_›))

theorem xfeRun_keeps {a1 a2 a3} (h : Keeps q s) : Keeps q (xfeRun s a1 a2 a3).1 := by
  unfold xfeRun
  with_reducible repeat' (first
    | assumption
    | refine fun (_ : Keeps q _) => ?_
    | (extract_lets +onlyGivenNames x; revert x; intro _)
    | refine keeps_ite ?_ ?_
    | refine keeps_foldl ?_ _ ?_
    | refine keeps_foldl1 ?_ _ ?_
    | refine keeps_foldlE ?_ _ ?_
    | refine keeps_foldlE1 ?_ _ ?_
    | refine keeps_foldlE2 ?_ _ ?_
    | refine keeps_foldlE3 ?_ _ ?_
    | refine engRead_keeps ?_
    | refine engOpen_keeps ?_
    | refine addF_keeps ?_
    | refine uplink_keeps ?_
    | refine downlink_keeps ?_
    | refine engDone_keeps ?_
    | refine keeps_of_eq1 (by assumption) ?_
    | refine keeps_of_eq2 (by assumption) ?_
    | refine keeps_of_eq12 (by assumption) ?_
    | refine keeps_of_eqE1 (by assumption) ?_
    | refine keeps_of_eqE2 (by assumption) ?_
    | refine keeps_of_eqE3 (by assumption) ?_
    | intro _
    | split)

theorem execEvmMeasurement_keeps {a1} (h : Keeps q s) : KeepsR q (execEvmMeasurement a1 s) := by
  unfold execEvmMeasurement
  with_reducible repeat' (first
    | assumption
    | (extract_lets +onlyGivenNames x; refine keeps_step (q := q) (x := x) ?_ ?_; (on_goal 1 => (dsimp -zeta only [x]; clear x)); (on_goal 2 => (clear_value x; revert x; intro _ _)))
    | (extract_lets +onlyGivenNames x; revert x; intro _)
    | refine keepsR_next ?_
    | refine keepsR_fault _
    | refine keepsR_refused _
    | refine keepsR_ite ?_ ?_
    | refine keeps_ite ?_ ?_
    | refine dropCapture_keeps ?_
    | refine setF_keeps ?_
    | refine setSF_keeps ?_
    | refine keeps_of_eq1 (by assumption) ?_
    | refine keeps_of_eq2 (by assumption) ?_
    | refine keeps_of_eq12 (by assumption) ?_
    | intro _
    | split)

theorem execFecLock_keeps {a1 a2} (h : Keeps q s) : KeepsR q (execFecLock a1 a2 s) := by
  unfold execFecLock
  with_reducible repeat' (first
    | assumption
    | refine keepsR_next ?_
    | refine keepsR_fault _
    | refine keepsR_refused _
    | refine keepsR_ite ?_ ?_
    | refine keeps_ite ?_ ?_
    | refine setF_keeps ?_
    | intro _
    | split
    | (dsimp -zeta +zetaDelta only; split)
    | (constructor <;> dsimp only <;> first | exact Keeps.queue ‹_› | exact Keeps.mem ‹_› | exact Keeps.regs ‹_› | exact Keeps.ns ‹_› | exact Keeps.load ‹_›))

theorem putGroup_keeps {a1 a2 a3 a4 a5 a6} (h : Keeps q s) : Keeps q (putGroup s a1 a2 a3 a4 a5 a6) := by
  unfold putGroup
  with_reducible repeat' (first
    | assumption
    | (extract_lets +onlyGivenNames x; refine keeps_step (q := q) (x := x) ?_ ?_; (on_goal 1 => (dsimp -zeta only [x]; clear x)); (on_goal 2 => (clear_value x; revert x; intro _ _)))
    | (extract_lets +onlyGivenNames x; revert x; intro _)
    | refine keeps_ite ?_ ?_
    | refine wrMem_keeps ?_
    | refine countLane_keeps ?_
    | refine keeps_of_eq1 (by assumption) ?_
    | refine keeps_of_eq2 (by assumption) ?_
    | refine keeps_of_eq12 (by assumption) ?_
    | intro _
    | split
    | (dsimp -zeta +zetaDelta only; split)
    | (constructor <;> dsimp only <;> first | exact Keeps.queue ‹_› | exact Keeps.mem ‹_› | exact Keeps.regs ‹_› | exact Keeps.ns ‹_› | exact Keeps.load ‹_›))

theorem takeGroup_keeps {a1 a2 a3 a4 a5 a6} (h : Keeps q s) : Keeps q (takeGroup a1 a2 a3 a4 a5 s a6) := by
  unfold takeGroup
  with_reducible repeat' (first
    | assumption
    | (extract_lets +onlyGivenNames x; refine keeps_step (q := q) (x := x) ?_ ?_; (on_goal 1 => (dsimp -zeta only [x]; clear x)); (on_goal 2 => (clear_value x; revert x; intro _ _)))
    | (extract_lets +onlyGivenNames x; revert x; intro _)
    | refine keeps_ite ?_ ?_
    | refine cvuGroup_keeps ?_
    | refine putGroup_keeps ?_
    | refine countLane_keeps ?_)

theorem setTrig_keeps {a1 a2} (h : Keeps q s) : Keeps q (setTrig s a1 a2) :=
  keeps_congr h rfl rfl rfl rfl rfl

theorem trigger_keeps {a1 a2} (h : Keeps q s) : Keeps q (trigger s a1 a2) := by
  unfold trigger
  with_reducible repeat' (first | assumption | refine keeps_ite ?_ ?_ | refine setTrig_keeps ?_ | split)

theorem goDown_keeps {a1} (h : Keeps q s) : Keeps q (goDown s a1) := by
  unfold goDown
  with_reducible repeat' (first
    | assumption
    | refine fun (_ : Keeps q _) => ?_
    | (extract_lets +onlyGivenNames x; refine keeps_step (q := q) (x := x) ?_ ?_; (on_goal 1 => (dsimp -zeta only [x]; clear x)); (on_goal 2 => (clear_value x; revert x; intro _ _)))
    | (extract_lets +onlyGivenNames x; refine keeps_step1 (q := q) (x := x) ?_ ?_; (on_goal 1 => (dsimp -zeta only [x]; clear x)); (on_goal 2 => (clear_value x; revert x; intro _ _)))
    | (extract_lets +onlyGivenNames x; refine keeps_step2 (q := q) (x := x) ?_ ?_; (on_goal 1 => (dsimp -zeta only [x]; clear x)); (on_goal 2 => (clear_value x; revert x; intro _ _)))
    | (extract_lets +onlyGivenNames x; revert x; intro _)
    | refine keeps_ite ?_ ?_
    | refine keeps_foldl ?_ _ ?_
    | refine keeps_foldl1 ?_ _ ?_
    | refine countLane_keeps ?_
    | refine setF_keeps ?_
    | refine setLaneState_keeps ?_
    | refine setLane_keeps ?_
    | refine dropLink_keeps ?_
    | refine report_keeps ?_
    | refine trigger_keeps ?_
    | refine keeps_of_eq1 (by assumption) ?_
    | refine keeps_of_eq2 (by assumption) ?_
    | refine keeps_of_eq12 (by assumption) ?_
    | intro _
    | split
    | (dsimp -zeta +zetaDelta only; split)
    | (constructor <;> dsimp only <;> first | exact Keeps.queue ‹_› | exact Keeps.mem ‹_› | exact Keeps.regs ‹_› | exact Keeps.ns ‹_› | exact Keeps.load ‹_›))

theorem downIfDue_keeps {a1} (h : Keeps q s) : Keeps q (downIfDue s a1) := by
  unfold downIfDue
  with_reducible repeat' (first
    | assumption
    | refine keeps_ite ?_ ?_
    | refine goDown_keeps ?_
    | intro _
    | split
    | (dsimp -zeta +zetaDelta only; split)
    | (constructor <;> dsimp only <;> first | exact Keeps.queue ‹_› | exact Keeps.mem ‹_› | exact Keeps.regs ‹_› | exact Keeps.ns ‹_› | exact Keeps.load ‹_›))

theorem takeFrame_keeps {a1 a2 a3} (h : Keeps q s) : Keeps q (takeFrame s a1 a2 a3) := by
  unfold takeFrame
  with_reducible repeat' (first
    | assumption
    | refine fun (_ : Keeps q _) => ?_
    | (extract_lets +onlyGivenNames x; refine keeps_step (q := q) (x := x) ?_ ?_; (on_goal 1 => (dsimp -zeta only [x]; clear x)); (on_goal 2 => (clear_value x; revert x; intro _ _)))
    | (extract_lets +onlyGivenNames x; refine keeps_step1 (q := q) (x := x) ?_ ?_; (on_goal 1 => (dsimp -zeta only [x]; clear x)); (on_goal 2 => (clear_value x; revert x; intro _ _)))
    | (extract_lets +onlyGivenNames x; refine keeps_step2 (q := q) (x := x) ?_ ?_; (on_goal 1 => (dsimp -zeta only [x]; clear x)); (on_goal 2 => (clear_value x; revert x; intro _ _)))
    | (extract_lets +onlyGivenNames x; revert x; intro _)
    | refine keeps_ite ?_ ?_
    | refine keeps_foldl ?_ _ ?_
    | refine keeps_foldl1 ?_ _ ?_
    | refine takeGroup_keeps ?_
    | refine keeps_of_eq1 (by assumption) ?_
    | refine keeps_of_eq2 (by assumption) ?_
    | refine keeps_of_eq12 (by assumption) ?_
    | intro _
    | split
    | (dsimp -zeta +zetaDelta only; split)
    | (constructor <;> dsimp only <;> first | exact Keeps.queue ‹_› | exact Keeps.mem ‹_› | exact Keeps.regs ‹_› | exact Keeps.ns ‹_› | exact Keeps.load ‹_›))

theorem takeRun_keeps {a1 a2 a3 a4 a5 a6} (h : Keeps q s) : Keeps q (takeRun a1 a2 a3 a4 a5 a6 s) := by
  induction a4 generalizing s a5 a6 with
  | zero => exact countLane_keeps h
  | succ n ih => exact keeps_ite (countLane_keeps h) (ih (takeFrame_keeps h))

theorem execFrameReceive_keeps {a1 a2} (h : Keeps q s) : KeepsR q (execFrameReceive a1 a2 s) := by
  unfold execFrameReceive
  with_reducible repeat' (first
    | assumption
    | (extract_lets +onlyGivenNames x; refine keeps_step (q := q) (x := x) ?_ ?_; (on_goal 1 => (dsimp -zeta only [x]; clear x)); (on_goal 2 => (clear_value x; revert x; intro _ _)))
    | (extract_lets +onlyGivenNames x; revert x; intro _)
    | refine keepsR_next ?_
    | refine keepsR_fault _
    | refine keepsR_refused _
    | refine keepsR_ite ?_ ?_
    | refine keeps_ite ?_ ?_
    | refine atDt_keeps ?_
    | refine noteHeaders_keeps ?_
    | refine countCodewords_keeps ?_
    | refine downIfDue_keeps ?_
    | refine takeRun_keeps ?_
    | refine keeps_of_eq1 (by assumption) ?_
    | refine keeps_of_eq2 (by assumption) ?_
    | refine keeps_of_eq12 (by assumption) ?_
    | intro _
    | split
    | (dsimp -zeta +zetaDelta only; split)
    | (constructor <;> dsimp only <;> first | exact Keeps.queue ‹_› | exact Keeps.mem ‹_› | exact Keeps.regs ‹_› | exact Keeps.ns ‹_› | exact Keeps.load ‹_›))

theorem setScr_keeps {a1 a2} (h : Keeps q s) : Keeps q (setScr s a1 a2) :=
  keeps_congr h rfl rfl rfl rfl rfl

theorem scrAdvance_keeps {a1 a2} (h : Keeps q s) : Keeps q (scrAdvance s a1 a2) := by
  unfold scrAdvance
  with_reducible repeat' (first
    | assumption
    | (extract_lets +onlyGivenNames x; refine keeps_step (q := q) (x := x) ?_ ?_; (on_goal 1 => (dsimp -zeta only [x]; clear x)); (on_goal 2 => (clear_value x; revert x; intro _ _)))
    | (extract_lets +onlyGivenNames x; revert x; intro _)
    | refine keeps_ite ?_ ?_
    | refine setScr_keeps ?_
    | refine setF_keeps ?_
    | refine keeps_of_eq1 (by assumption) ?_
    | refine keeps_of_eq2 (by assumption) ?_
    | refine keeps_of_eq12 (by assumption) ?_
    | intro _
    | split
    | (dsimp -zeta +zetaDelta only; split)
    | (constructor <;> dsimp only <;> first | exact Keeps.queue ‹_› | exact Keeps.mem ‹_› | exact Keeps.regs ‹_› | exact Keeps.ns ‹_› | exact Keeps.load ‹_›))

theorem phxRestart_keeps {a1} (h : Keeps q s) : Keeps q (phxRestart s a1) := by
  unfold phxRestart
  with_reducible repeat' (first | assumption | (extract_lets +onlyGivenNames x; revert x; intro _) | refine setPhx_keeps ?_)

theorem scrLog_keeps {a1 a2 a3 a4} (h : Keeps q s) : Keeps q (scrLog s a1 a2 a3 a4) := by
  unfold scrLog
  with_reducible repeat' (first | assumption | refine setF_keeps ?_)

theorem upset_keeps {a1 a2 a3 a4} (h : Keeps q s) : Keeps q (upset s a1 a2 a3 a4) := by
  unfold upset
  with_reducible repeat' (first
    | assumption
    | (extract_lets +onlyGivenNames x; refine keeps_step (q := q) (x := x) ?_ ?_; (on_goal 1 => (dsimp -zeta only [x]; clear x)); (on_goal 2 => (clear_value x; revert x; intro _ _)))
    | (extract_lets +onlyGivenNames x; revert x; intro _) | refine keeps_ite ?_ ?_ | refine refreshPhx_keeps ?_
    | refine phxRestart_keeps ?_ | refine report_keeps ?_ | refine addF_keeps ?_
    | refine emit_keeps ?_ | refine setF_keeps ?_ | refine scrLog_keeps ?_)

theorem refreshScr_keeps {a1} (h : Keeps q s) : Keeps q (refreshScr s a1) := by
  unfold refreshScr
  with_reducible repeat' (first | assumption | refine keeps_ite ?_ ?_ | refine refresh_keeps ?_)

theorem execFrameRepair_keeps {a1 a2} (h : Keeps q s) : KeepsR q (execFrameRepair a1 a2 s) := by
  unfold execFrameRepair
  with_reducible repeat' (first
    | assumption
    | (extract_lets +onlyGivenNames x; refine keeps_step (q := q) (x := x) ?_ ?_; (on_goal 1 => (dsimp -zeta only [x]; clear x)); (on_goal 2 => (clear_value x; revert x; intro _ _)))
    | (extract_lets +onlyGivenNames x; revert x; intro _) | refine keepsR_next ?_ | refine keeps_ite ?_ ?_
    | refine keepsR_ite ?_ ?_ | refine setScr_keeps ?_ | refine scrAdvance_keeps ?_
    | refine addF_keeps ?_ | refine setF_keeps ?_ | refine noteNvs_keeps ?_
    | refine upset_keeps ?_ | refine refreshScr_keeps ?_ | split
    | (constructor <;> dsimp only <;> first | exact Keeps.queue ‹_› | exact Keeps.mem ‹_› | exact Keeps.regs ‹_› | exact Keeps.ns ‹_› | exact Keeps.load ‹_›))

theorem execFrameTransmit_keeps {a1 a2} (h : Keeps q s) : KeepsR q (execFrameTransmit a1 a2 s) := by
  unfold execFrameTransmit
  with_reducible repeat' (first
    | assumption
    | refine fun (_ : Keeps q _) => ?_
    | (extract_lets +onlyGivenNames x; refine keeps_step (q := q) (x := x) ?_ ?_; (on_goal 1 => (dsimp -zeta only [x]; clear x)); (on_goal 2 => (clear_value x; revert x; intro _ _)))
    | (extract_lets +onlyGivenNames x; revert x; intro _)
    | refine keepsR_next ?_
    | refine keepsR_fault _
    | refine keepsR_refused _
    | refine keepsR_ite ?_ ?_
    | refine keeps_ite ?_ ?_
    | refine keeps_foldl ?_ _ ?_
    | refine keeps_foldl1 ?_ _ ?_
    | refine cvuGroup_keeps ?_
    | refine runLane_keeps ?_
    | refine emit_keeps ?_
    | refine servePositions_keeps ?_
    | refine setLane_keeps ?_
    | refine keeps_of_eq1 (by assumption) ?_
    | refine keeps_of_eq2 (by assumption) ?_
    | refine keeps_of_eq12 (by assumption) ?_
    | intro _
    | split
    | (constructor <;> dsimp only <;> first | exact Keeps.queue ‹_› | exact Keeps.mem ‹_› | exact Keeps.regs ‹_› | exact Keeps.ns ‹_› | exact Keeps.load ‹_›))

theorem execGroupFetch_keeps {a1 a2} (h : Keeps q s) : KeepsR q (execGroupFetch a1 a2 s) := by
  have key : ∀ X : State, Keeps q X → ∀ v, Keeps q { X with txGroups := v } := fun X hX v => ⟨hX.queue, hX.mem, hX.regs, hX.ns, hX.load⟩
  unfold execGroupFetch
  dsimp only
  split
  · split
    · refine keepsR_ite (keepsR_next h) (keepsR_next (key _ ?_ _))
      have h1 := wrMem_keeps (a1 := csmFlat (8 * (a1.val / 48) + (by assumption : LaneEnt).txCl) + ((by assumption : LaneEnt).txAddr + 90 * (a2 % (by assumption : LaneEnt).txGa))) (a2 := List.replicate 90 0)
        (engRead_keeps (a1 := csmFlat (8 * (a1.val / 48) + (by assumption : LaneEnt).txCl)) (a2 := (by assumption : LaneEnt).txAddr + 90 * (a2 % (by assumption : LaneEnt).txGa)) (a3 := 90) (o := engOpen s) (engOpen_keeps h))
      exact keeps_ite (addF_keeps (keeps_ite (countLane_keeps h1) h1)) (keeps_ite (countLane_keeps h1) h1)
    · exact keepsR_next h
  · exact keepsR_next h

theorem execGroupMissing_keeps {a1 a2} (h : Keeps q s) : KeepsR q (execGroupMissing a1 a2 s) := by
  unfold execGroupMissing
  with_reducible repeat' (first
    | assumption | (extract_lets +onlyGivenNames x; revert x; intro _) | refine keepsR_next ?_
    | refine keepsR_ite ?_ ?_ | refine putGroup_keeps ?_ | split)

theorem execLanCntClr_keeps {a1} (h : Keeps q s) : KeepsR q (execLanCntClr a1 s) := by
  unfold execLanCntClr
  with_reducible repeat' (first
    | assumption | refine keepsR_next ?_ | refine keeps_ite ?_ ?_
    | refine clearLaneCounters_keeps ?_)

theorem execLaneBringupTimeout_keeps {a1} (h : Keeps q s) : KeepsR q (execLaneBringupTimeout a1 s) := by
  unfold execLaneBringupTimeout
  with_reducible repeat' (first
    | assumption | (extract_lets +onlyGivenNames x; revert x; intro _) | refine keepsR_next ?_
    | refine keeps_ite ?_ ?_ | refine setLaneState_keeps ?_)

theorem execLaneDisable_keeps {a1} (h : Keeps q s) : KeepsR q (execLaneDisable a1 s) := by
  unfold execLaneDisable
  with_reducible repeat' (first
    | assumption | refine keepsR_next ?_ | refine keeps_ite ?_ ?_
    | refine disableLane_keeps ?_)

theorem execLaneDown_keeps {a1 a2} (h : Keeps q s) : KeepsR q (execLaneDown a1 a2 s) := by
  unfold execLaneDown
  with_reducible repeat' (first
    | assumption
    | refine keepsR_next ?_
    | refine keepsR_fault _
    | refine keepsR_refused _
    | refine keepsR_ite ?_ ?_
    | refine keeps_ite ?_ ?_
    | refine goDown_keeps ?_
    | intro _
    | split
    | (dsimp -zeta +zetaDelta only; split)
    | (constructor <;> dsimp only <;> first | exact Keeps.queue ‹_› | exact Keeps.mem ‹_› | exact Keeps.regs ‹_› | exact Keeps.ns ‹_› | exact Keeps.load ‹_›))

theorem execLaneEnable_keeps {a1} (h : Keeps q s) : KeepsR q (execLaneEnable a1 s) := by
  unfold execLaneEnable
  with_reducible repeat' (first
    | assumption | refine keepsR_next ?_ | refine keeps_ite ?_ ?_
    | refine enableLane_keeps ?_)

theorem bringUp_keeps {a1 a2} (h : Keeps q s) : Keeps q (bringUp a1 s a2) := by
  unfold bringUp
  with_reducible repeat' (first
    | assumption
    | (extract_lets +onlyGivenNames x; refine keeps_step (q := q) (x := x) ?_ ?_; (on_goal 1 => (dsimp -zeta only [x]; clear x)); (on_goal 2 => (clear_value x; revert x; intro _ _)))
    | (extract_lets +onlyGivenNames x; revert x; intro _)
    | refine keeps_ite ?_ ?_
    | refine setLane_keeps ?_
    | refine setLaneState_keeps ?_
    | refine setF_keeps ?_
    | refine keeps_of_eq1 (by assumption) ?_
    | refine keeps_of_eq2 (by assumption) ?_
    | refine keeps_of_eq12 (by assumption) ?_
    | intro _
    | split
    | (dsimp -zeta +zetaDelta only; split)
    | (constructor <;> dsimp only <;> first | exact Keeps.queue ‹_› | exact Keeps.mem ‹_› | exact Keeps.regs ‹_› | exact Keeps.ns ‹_› | exact Keeps.load ‹_›))

theorem execLaneUp_keeps {a1 a2} (h : Keeps q s) : KeepsR q (execLaneUp a1 a2 s) := by
  unfold execLaneUp
  with_reducible repeat' (first
    | assumption
    | refine fun (_ : Keeps q _) => ?_
    | (extract_lets +onlyGivenNames x; refine keeps_step (q := q) (x := x) ?_ ?_; (on_goal 1 => (dsimp -zeta only [x]; clear x)); (on_goal 2 => (clear_value x; revert x; intro _ _)))
    | (extract_lets +onlyGivenNames x; refine keeps_step1 (q := q) (x := x) ?_ ?_; (on_goal 1 => (dsimp -zeta only [x]; clear x)); (on_goal 2 => (clear_value x; revert x; intro _ _)))
    | (extract_lets +onlyGivenNames x; refine keeps_step2 (q := q) (x := x) ?_ ?_; (on_goal 1 => (dsimp -zeta only [x]; clear x)); (on_goal 2 => (clear_value x; revert x; intro _ _)))
    | (extract_lets +onlyGivenNames x; revert x; intro _)
    | refine keepsR_next ?_
    | refine keepsR_fault _
    | refine keepsR_refused _
    | refine keepsR_ite ?_ ?_
    | refine keeps_ite ?_ ?_
    | refine keeps_foldl ?_ _ ?_
    | refine keeps_foldl1 ?_ _ ?_
    | refine bringUp_keeps ?_
    | refine keeps_of_eq1 (by assumption) ?_
    | refine keeps_of_eq2 (by assumption) ?_
    | refine keeps_of_eq12 (by assumption) ?_
    | intro _
    | split
    | (dsimp -zeta +zetaDelta only; split)
    | (constructor <;> dsimp only <;> first | exact Keeps.queue ‹_› | exact Keeps.mem ‹_› | exact Keeps.regs ‹_› | exact Keeps.ns ‹_› | exact Keeps.load ‹_›))

theorem execLoadReady_keeps {a1 a2 a3} (h : Keeps q s) : KeepsR q (execLoadReady a1 a2 a3 s) := by
  unfold execLoadReady
  with_reducible repeat' (first
    | assumption
    | (extract_lets +onlyGivenNames x; refine keeps_step (q := q) (x := x) ?_ ?_; (on_goal 1 => (dsimp -zeta only [x]; clear x)); (on_goal 2 => (clear_value x; revert x; intro _ _)))
    | (extract_lets +onlyGivenNames x; revert x; intro _) | refine keepsR_next ?_ | refine keeps_ite ?_ ?_
    | refine keepsR_ite ?_ ?_ | refine verifyFailed_keeps ?_ | refine setPhx_keeps ?_
    | refine setF_keeps ?_ | refine noteNvs_keeps ?_ | refine abortLoad_keeps ?_ | split)

theorem takeRtt_keeps {a1 a2} (h : Keeps q s) : Keeps q (takeRtt s a1 a2) := by
  unfold takeRtt
  with_reducible repeat' (first
    | assumption
    | (extract_lets +onlyGivenNames x; refine keeps_step (q := q) (x := x) ?_ ?_; (on_goal 1 => (dsimp -zeta only [x]; clear x)); (on_goal 2 => (clear_value x; revert x; intro _ _)))
    | (extract_lets +onlyGivenNames x; revert x; intro _) | refine keeps_ite ?_ ?_ | refine setSF_keeps ?_
    | refine setF_keeps ?_ | refine setLane_keeps ?_ | refine refresh_keeps ?_ | split)

theorem takeMarker_keeps {a1 a2} (h : Keeps q s) : Keeps q (takeMarker s a1 a2) := by
  unfold takeMarker
  with_reducible repeat' (first
    | assumption
    | (extract_lets +onlyGivenNames x; refine keeps_step (q := q) (x := x) ?_ ?_; (on_goal 1 => (dsimp -zeta only [x]; clear x)); (on_goal 2 => (clear_value x; revert x; intro _ _)))
    | (extract_lets +onlyGivenNames x; revert x; intro _)
    | refine keeps_ite ?_ ?_
    | refine setLane_keeps ?_
    | refine setF_keeps ?_
    | refine refreshLane_keeps ?_
    | refine downIfDue_keeps ?_
    | refine takeRtt_keeps ?_
    | refine keeps_of_eq1 (by assumption) ?_
    | refine keeps_of_eq2 (by assumption) ?_
    | refine keeps_of_eq12 (by assumption) ?_
    | intro _
    | split
    | (dsimp -zeta +zetaDelta only; split)
    | (constructor <;> dsimp only <;> first | exact Keeps.queue ‹_› | exact Keeps.mem ‹_› | exact Keeps.regs ‹_› | exact Keeps.ns ‹_› | exact Keeps.load ‹_›))

theorem execMarkerReceive_keeps {a1 a2 a3} (h : Keeps q s) : KeepsR q (execMarkerReceive a1 a2 a3 s) := by
  unfold execMarkerReceive
  with_reducible repeat' (first
    | assumption
    | (extract_lets +onlyGivenNames x; refine keeps_step (q := q) (x := x) ?_ ?_; (on_goal 1 => (dsimp -zeta only [x]; clear x)); (on_goal 2 => (clear_value x; revert x; intro _ _)))
    | (extract_lets +onlyGivenNames x; revert x; intro _)
    | refine keepsR_next ?_
    | refine keepsR_fault _
    | refine keepsR_refused _
    | refine keepsR_ite ?_ ?_
    | refine keeps_ite ?_ ?_
    | refine takeMarker_keeps ?_
    | refine atDt_keeps ?_
    | refine countLane_keeps ?_
    | refine keeps_of_eq1 (by assumption) ?_
    | refine keeps_of_eq2 (by assumption) ?_
    | refine keeps_of_eq12 (by assumption) ?_
    | intro _
    | split
    | (dsimp -zeta +zetaDelta only; split)
    | (constructor <;> dsimp only <;> first | exact Keeps.queue ‹_› | exact Keeps.mem ‹_› | exact Keeps.regs ‹_› | exact Keeps.ns ‹_› | exact Keeps.load ‹_›))

theorem execMarkerSend_keeps {a1 a2} (h : Keeps q s) : KeepsR q (execMarkerSend a1 a2 s) := by
  unfold execMarkerSend
  with_reducible repeat' (first
    | assumption
    | (extract_lets +onlyGivenNames x; refine keeps_step (q := q) (x := x) ?_ ?_; (on_goal 1 => (dsimp -zeta only [x]; clear x)); (on_goal 2 => (clear_value x; revert x; intro _ _)))
    | (extract_lets +onlyGivenNames x; revert x; intro _)
    | refine keepsR_next ?_
    | refine keepsR_fault _
    | refine keepsR_refused _
    | refine keepsR_ite ?_ ?_
    | refine keeps_ite ?_ ?_
    | refine atDt_keeps ?_
    | refine runLane_keeps ?_
    | refine keeps_of_eq1 (by assumption) ?_
    | refine keeps_of_eq2 (by assumption) ?_
    | refine keeps_of_eq12 (by assumption) ?_
    | intro _
    | split
    | (dsimp -zeta +zetaDelta only; split)
    | (constructor <;> dsimp only <;> first | exact Keeps.queue ‹_› | exact Keeps.mem ‹_› | exact Keeps.regs ‹_› | exact Keeps.ns ‹_› | exact Keeps.load ‹_›))

theorem mqPop_keeps {a1} (h : Keeps q s) : Keeps q (mqPop s a1) := by
  unfold mqPop
  with_reducible repeat' (first
    | assumption
    | refine keeps_ite ?_ ?_
    | refine setLane_keeps ?_
    | intro _
    | split
    | (dsimp -zeta +zetaDelta only; split)
    | (constructor <;> dsimp only <;> first | exact Keeps.queue ‹_› | exact Keeps.mem ‹_› | exact Keeps.regs ‹_› | exact Keeps.ns ‹_› | exact Keeps.load ‹_›))

theorem execMqRxPop_keeps {a1} (h : Keeps q s) : KeepsR q (execMqRxPop a1 s) := by
  unfold execMqRxPop
  with_reducible repeat' (first
    | assumption | refine keepsR_next ?_ | refine keeps_ite ?_ ?_
    | refine mqPop_keeps ?_)

theorem queueService_keeps {a1 a2 a3} (h : Keeps q s) : Keeps q (queueService s a1 a2 a3) := by
  unfold queueService
  with_reducible repeat' (first
    | assumption
    | (extract_lets +onlyGivenNames x; refine keeps_step (q := q) (x := x) ?_ ?_; (on_goal 1 => (dsimp -zeta only [x]; clear x)); (on_goal 2 => (clear_value x; revert x; intro _ _)))
    | (extract_lets +onlyGivenNames x; revert x; intro _)
    | refine keeps_ite ?_ ?_
    | refine runLane_keeps ?_
    | refine setLane_keeps ?_
    | refine servePositions_keeps ?_
    | refine keeps_of_eq1 (by assumption) ?_
    | refine keeps_of_eq2 (by assumption) ?_
    | refine keeps_of_eq12 (by assumption) ?_
    | intro _
    | split
    | (dsimp -zeta +zetaDelta only; split)
    | (constructor <;> dsimp only <;> first | exact Keeps.queue ‹_› | exact Keeps.mem ‹_› | exact Keeps.regs ‹_› | exact Keeps.ns ‹_› | exact Keeps.load ‹_›))

theorem sendCtl_keeps {a1 a2} (h : Keeps q s) : Keeps q (sendCtl s a1 a2) := by
  unfold sendCtl
  with_reducible repeat' (first
    | assumption | refine fun (_ : Keeps q _) => ?_ | refine keeps_foldl ?_ _ ?_
    | refine queueService_keeps ?_ | intro _)

theorem mqSend_keeps {a1} (h : Keeps q s) : Keeps q (mqSend s a1) := by
  unfold mqSend
  with_reducible repeat' (first
    | assumption
    | (extract_lets +onlyGivenNames x; refine keeps_step (q := q) (x := x) ?_ ?_; (on_goal 1 => (dsimp -zeta only [x]; clear x)); (on_goal 2 => (clear_value x; revert x; intro _ _)))
    | (extract_lets +onlyGivenNames x; revert x; intro _)
    | refine keeps_ite ?_ ?_
    | refine setLane_keeps ?_
    | refine sendCtl_keeps ?_
    | refine sendFrame_keeps ?_)

theorem execMqSend_keeps {a1} (h : Keeps q s) : KeepsR q (execMqSend a1 s) := by
  unfold execMqSend
  with_reducible repeat' (first
    | assumption | refine keepsR_next ?_ | refine keeps_ite ?_ ?_
    | refine mqSend_keeps ?_)

theorem mqData_keeps {a1 a2} (h : Keeps q s) : Keeps q (mqData s a1 a2) := by
  unfold mqData
  with_reducible repeat' (first
    | assumption | (extract_lets +onlyGivenNames x; revert x; intro _) | refine keeps_ite ?_ ?_
    | refine setLane_keeps ?_)

theorem execMqTxData_keeps {a1 a2} (h : Keeps q s) : KeepsR q (execMqTxData a1 a2 s) := by
  unfold execMqTxData
  with_reducible repeat' (first
    | assumption | refine keepsR_next ?_ | refine keeps_ite ?_ ?_
    | refine mqData_keeps ?_)

theorem haltScr_keeps {a1} (h : Keeps q s) : Keeps q (haltScr s a1) := by
  unfold haltScr
  with_reducible repeat' (first | assumption | refine setF_keeps ?_ | refine refreshScr_keeps ?_)

theorem execNeighbourCheck_keeps {a1 a2} (h : Keeps q s) : KeepsR q (execNeighbourCheck a1 a2 s) := by
  unfold execNeighbourCheck
  with_reducible repeat' (first
    | assumption
    | (extract_lets +onlyGivenNames x; refine keeps_step (q := q) (x := x) ?_ ?_; (on_goal 1 => (dsimp -zeta only [x]; clear x)); (on_goal 2 => (clear_value x; revert x; intro _ _)))
    | (extract_lets +onlyGivenNames x; revert x; intro _)
    | refine keepsR_next ?_
    | refine keepsR_fault _
    | refine keepsR_refused _
    | refine keepsR_ite ?_ ?_
    | refine keeps_ite ?_ ?_
    | refine setScr_keeps ?_
    | refine haltScr_keeps ?_
    | refine setF_keeps ?_
    | refine addF_keeps ?_
    | refine refreshScr_keeps ?_
    | refine keeps_of_eq1 (by assumption) ?_
    | refine keeps_of_eq2 (by assumption) ?_
    | refine keeps_of_eq12 (by assumption) ?_
    | intro _
    | split
    | (dsimp -zeta +zetaDelta only; split)
    | (constructor <;> dsimp only <;> first | exact Keeps.queue ‹_› | exact Keeps.mem ‹_› | exact Keeps.regs ‹_› | exact Keeps.ns ‹_› | exact Keeps.load ‹_›))

theorem takeObs_keeps {a1 a2 a3 a4 a5} (h : Keeps q s) : Keeps q (takeObs s a1 a2 a3 a4 a5) := by
  unfold takeObs
  with_reducible repeat' (first
    | assumption
    | refine fun (_ : Keeps q _) => ?_
    | (extract_lets +onlyGivenNames x; refine keeps_step (q := q) (x := x) ?_ ?_; (on_goal 1 => (dsimp -zeta only [x]; clear x)); (on_goal 2 => (clear_value x; revert x; intro _ _)))
    | (extract_lets +onlyGivenNames x; refine keeps_step1 (q := q) (x := x) ?_ ?_; (on_goal 1 => (dsimp -zeta only [x]; clear x)); (on_goal 2 => (clear_value x; revert x; intro _ _)))
    | (extract_lets +onlyGivenNames x; refine keeps_step2 (q := q) (x := x) ?_ ?_; (on_goal 1 => (dsimp -zeta only [x]; clear x)); (on_goal 2 => (clear_value x; revert x; intro _ _)))
    | (extract_lets +onlyGivenNames x; revert x; intro _)
    | refine keeps_ite ?_ ?_
    | refine keeps_foldl ?_ _ ?_
    | refine keeps_foldl1 ?_ _ ?_
    | refine countLane_keeps ?_
    | refine putCapture_keeps ?_
    | refine keeps_of_eq1 (by assumption) ?_
    | refine keeps_of_eq2 (by assumption) ?_
    | refine keeps_of_eq12 (by assumption) ?_
    | intro _
    | split
    | (dsimp -zeta +zetaDelta only; split)
    | (constructor <;> dsimp only <;> first | exact Keeps.queue ‹_› | exact Keeps.mem ‹_› | exact Keeps.regs ‹_› | exact Keeps.ns ‹_› | exact Keeps.load ‹_›))

theorem execObs_keeps {a1 a2 a3} (h : Keeps q s) : KeepsR q (execObs a1 a2 a3 s) := by
  unfold execObs
  with_reducible repeat' (first
    | assumption
    | (extract_lets +onlyGivenNames x; revert x; intro _)
    | refine keepsR_next ?_
    | refine keepsR_fault _
    | refine keepsR_refused _
    | refine keepsR_ite ?_ ?_
    | refine keeps_ite ?_ ?_
    | refine noteHeaders_keeps ?_
    | refine downIfDue_keeps ?_
    | refine countLane_keeps ?_
    | refine takeRun_keeps ?_
    | refine takeObs_keeps ?_
    | refine keeps_of_eq1 (by assumption) ?_
    | refine keeps_of_eq2 (by assumption) ?_
    | refine keeps_of_eq12 (by assumption) ?_
    | intro _
    | split)

theorem execObsReq_keeps {a1 a2} (h : Keeps q s) : KeepsR q (execObsReq a1 a2 s) := by
  unfold execObsReq
  with_reducible repeat' (first
    | assumption
    | (extract_lets +onlyGivenNames x; revert x; intro _)
    | refine keepsR_next ?_
    | refine keepsR_fault _
    | refine keepsR_refused _
    | refine keepsR_ite ?_ ?_
    | refine keeps_ite ?_ ?_
    | refine queueService_keeps ?_
    | refine setCaptures_keeps ?_
    | refine keeps_of_eq1 (by assumption) ?_
    | refine keeps_of_eq2 (by assumption) ?_
    | refine keeps_of_eq12 (by assumption) ?_
    | intro _
    | split)

theorem execPartitionBlockReceive_keeps {a1 a2 a3 a4} (h : Keeps q s) : KeepsR q (execPartitionBlockReceive a1 a2 a3 a4 s) := by
  unfold execPartitionBlockReceive
  with_reducible repeat' (first
    | assumption
    | (extract_lets +onlyGivenNames x; refine keeps_step (q := q) (x := x) ?_ ?_; (on_goal 1 => (dsimp -zeta only [x]; clear x)); (on_goal 2 => (clear_value x; revert x; intro _ _)))
    | refine keepsR_next ?_ | refine keepsR_ite ?_ ?_ | refine emit_keeps ?_
    | refine atDt_keeps ?_ | split)

theorem execPartitionBlockTransmit_keeps {a1 a2 a3 a4 a5 a6} (h : Keeps q s) : KeepsR q (execPartitionBlockTransmit a1 a2 a3 a4 a5 a6 s) := by
  unfold execPartitionBlockTransmit
  with_reducible repeat' (first
    | assumption
    | (extract_lets +onlyGivenNames x; refine keeps_step (q := q) (x := x) ?_ ?_; (on_goal 1 => (dsimp -zeta only [x]; clear x)); (on_goal 2 => (clear_value x; revert x; intro _ _)))
    | refine keepsR_next ?_ | refine keeps_ite ?_ ?_ | refine keepsR_ite ?_ ?_
    | refine emit_keeps ?_ | refine atDt_keeps ?_)

theorem phxErr_keeps {a1} (h : Keeps q s) : Keeps q (phxErr s a1) := by
  unfold phxErr
  with_reducible repeat' (first | assumption | refine addF_keeps ?_)

theorem execPartitionDramAccess_keeps {a1 a2 a3 a4} (h : Keeps q s) : KeepsR q (execPartitionDramAccess a1 a2 a3 a4 s) := by
  unfold execPartitionDramAccess
  with_reducible repeat' (first
    | assumption
    | (extract_lets +onlyGivenNames x; revert x; intro _)
    | refine keepsR_next ?_
    | refine keepsR_fault _
    | refine keepsR_refused _
    | refine keepsR_ite ?_ ?_
    | refine keeps_ite ?_ ?_
    | refine emit_keeps ?_
    | refine phxErr_keeps ?_
    | refine makeAcc_keeps ?_)

theorem execPartitionFence_keeps {a1} (h : Keeps q s) : KeepsR q (execPartitionFence a1 s) := by
  unfold execPartitionFence
  with_reducible repeat' (first
    | assumption
    | refine keepsR_next ?_
    | refine keepsR_fault _
    | refine keepsR_refused _
    | refine keepsR_ite ?_ ?_
    | refine keeps_ite ?_ ?_
    | refine makeAcc_keeps ?_)

theorem execPartitionInterrupt_keeps {a1} (h : Keeps q s) : KeepsR q (execPartitionInterrupt a1 s) := by
  unfold execPartitionInterrupt
  with_reducible repeat' (first
    | assumption | refine keepsR_next ?_ | refine keeps_ite ?_ ?_
    | refine refreshPhx_keeps ?_ | refine setF_keeps ?_)

theorem loadCancel_keeps {a1} (h : Keeps q s) : Keeps q (loadCancel s a1) := by
  unfold loadCancel
  with_reducible repeat' (first | assumption | refine keeps_ite ?_ ?_ | refine abortLoad_keeps ?_)

theorem execPartitionLoadAbort_keeps {a1} (h : Keeps q s) : KeepsR q (execPartitionLoadAbort a1 s) := by
  unfold execPartitionLoadAbort
  with_reducible repeat' (first | assumption | refine keepsR_next ?_ | refine loadCancel_keeps ?_)

theorem loadGo_keeps {a1} (h : Keeps q s) : Keeps q (loadGo s a1) := by
  unfold loadGo
  with_reducible repeat' (first
    | assumption
    | (extract_lets +onlyGivenNames x; refine keeps_step (q := q) (x := x) ?_ ?_; (on_goal 1 => (dsimp -zeta only [x]; clear x)); (on_goal 2 => (clear_value x; revert x; intro _ _)))
    | (extract_lets +onlyGivenNames x; revert x; intro _) | refine keeps_ite ?_ ?_ | refine setPhx_keeps ?_
    | refine setF_keeps ?_)

theorem execPartitionLoadGo_keeps {a1} (h : Keeps q s) : KeepsR q (execPartitionLoadGo a1 s) := by
  unfold execPartitionLoadGo
  with_reducible repeat' (first
    | assumption | refine keepsR_next ?_ | refine keeps_ite ?_ ?_
    | refine loadGo_keeps ?_)

theorem execPartitionMailboxWrite_keeps {a1 a2 a3} (h : Keeps q s) : KeepsR q (execPartitionMailboxWrite a1 a2 a3 s) := by
  unfold execPartitionMailboxWrite
  with_reducible repeat' (first
    | assumption | refine keepsR_next ?_ | refine keeps_ite ?_ ?_
    | refine keepsR_ite ?_ ?_ | refine phxErr_keeps ?_ | refine postMbox_keeps ?_ | split)

theorem execPfeContextEnable_keeps {a1 a2} (h : Keeps q s) : KeepsR q (execPfeContextEnable a1 a2 s) := by
  unfold execPfeContextEnable
  with_reducible repeat' (first
    | assumption | refine keepsR_next ?_ | refine keeps_ite ?_ ?_
    | refine enablePfe_keeps ?_)

theorem writePhxBw_keeps {a1 a2} (h : Keeps q s) : Keeps q (writePhxBw s a1 a2) := by
  unfold writePhxBw
  with_reducible repeat' (first
    | assumption | (extract_lets +onlyGivenNames x; revert x; intro _) | refine keeps_ite ?_ ?_
    | refine refreshPhx_keeps ?_ | refine setF_keeps ?_)

theorem execPhxBwWrite_keeps {a1 a2} (h : Keeps q s) : KeepsR q (execPhxBwWrite a1 a2 s) := by
  unfold execPhxBwWrite
  with_reducible repeat' (first
    | assumption | refine keepsR_next ?_ | refine keeps_ite ?_ ?_
    | refine writePhxBw_keeps ?_)

theorem writePhxLanes_keeps {a1 a2} (h : Keeps q s) : Keeps q (writePhxLanes s a1 a2) := by
  unfold writePhxLanes
  with_reducible repeat' (first
    | assumption
    | (extract_lets +onlyGivenNames x; refine keeps_step (q := q) (x := x) ?_ ?_; (on_goal 1 => (dsimp -zeta only [x]; clear x)); (on_goal 2 => (clear_value x; revert x; intro _ _)))
    | (extract_lets +onlyGivenNames x; revert x; intro _) | refine keeps_ite ?_ ?_ | refine refreshPhx_keeps ?_
    | refine setF_keeps ?_)

theorem execPhxLanesWrite_keeps {a1 a2} (h : Keeps q s) : KeepsR q (execPhxLanesWrite a1 a2 s) := by
  unfold execPhxLanesWrite
  with_reducible repeat' (first
    | assumption | refine keepsR_next ?_ | refine keeps_ite ?_ ?_
    | refine writePhxLanes_keeps ?_)

theorem putFrames_keeps {a1} (h : Keeps q s) : Keeps q (putFrames s a1) := by
  unfold putFrames
  with_reducible repeat' (first
    | assumption | refine fun (_ : Keeps q _) => ?_ | refine keeps_ite ?_ ?_
    | refine keeps_foldl ?_ _ ?_ | intro _
    | (constructor <;> dsimp only <;> first | exact Keeps.queue ‹_› | exact Keeps.mem ‹_› | exact Keeps.regs ‹_› | exact Keeps.ns ‹_› | exact Keeps.load ‹_›))

theorem putBram_keeps {a1 a2} (h : Keeps q s) : Keeps q (putBram s a1 a2) := by
  unfold putBram
  with_reducible repeat' (first
    | assumption | refine fun (_ : Keeps q _) => ?_ | refine keeps_ite ?_ ?_
    | refine keeps_foldl ?_ _ ?_ | intro _
    | (constructor <;> dsimp only <;> first | exact Keeps.queue ‹_› | exact Keeps.mem ‹_› | exact Keeps.regs ‹_› | exact Keeps.ns ‹_› | exact Keeps.load ‹_›))

theorem execPowerUpLoad_keeps {a1 a2 a3} (h : Keeps q s) : KeepsR q (execPowerUpLoad a1 a2 a3 s) := by
  unfold execPowerUpLoad
  with_reducible repeat' (first
    | assumption
    | (extract_lets +onlyGivenNames x; refine keeps_step (q := q) (x := x) ?_ ?_; (on_goal 1 => (dsimp -zeta only [x]; clear x)); (on_goal 2 => (clear_value x; revert x; intro _ _)))
    | (extract_lets +onlyGivenNames x; revert x; intro _)
    | refine keepsR_next ?_
    | refine keepsR_fault _
    | refine keepsR_refused _
    | refine keepsR_ite ?_ ?_
    | refine keeps_ite ?_ ?_
    | refine noteNvs_keeps ?_
    | refine bootStep_keeps ?_
    | refine bootLoadFails_keeps ?_
    | refine verifyFailed_keeps ?_
    | refine setPhx_keeps ?_
    | refine putBram_keeps ?_
    | refine putFrames_keeps ?_
    | refine clearPlane_keeps ?_
    | refine setF_keeps ?_
    | refine keeps_of_eq1 (by assumption) ?_
    | refine keeps_of_eq2 (by assumption) ?_
    | refine keeps_of_eq12 (by assumption) ?_
    | intro _
    | split
    | (constructor <;> dsimp only <;> first | exact Keeps.queue ‹_› | exact Keeps.mem ‹_› | exact Keeps.regs ‹_› | exact Keeps.ns ‹_› | exact Keeps.load ‹_›))

theorem pfePort_keeps {n1 n2 n3 n4 p : Nat} {a b : Int} {x : EngIo × List Byte × Nat}
    (h : Keeps q x.1.st) : Keeps q (pfePort s n1 n2 n3 n4 a b x p).1.st := by
  unfold pfePort
  with_reducible repeat' (first
    | assumption
    | (extract_lets +onlyGivenNames x; refine keeps_step (q := q) (x := x) ?_ ?_; (on_goal 1 => (dsimp -zeta only [x]; clear x)); (on_goal 2 => (clear_value x; revert x; intro _ _)))
    | (extract_lets +onlyGivenNames x; refine keeps_stepE (q := q) (x := x) ?_ ?_; (on_goal 1 => (dsimp -zeta only [x]; clear x)); (on_goal 2 => (clear_value x; revert x; intro _ _)))
    | (extract_lets +onlyGivenNames x; refine keeps_stepE2 (q := q) (x := x) ?_ ?_; (on_goal 1 => (dsimp -zeta only [x]; clear x)); (on_goal 2 => (clear_value x; revert x; intro _ _)))
    | (extract_lets +onlyGivenNames x; revert x; intro _)
    | refine keeps_ite ?_ ?_
    | refine readArea_keeps ?_
    | refine keeps_of_eq1 (by assumption) ?_
    | refine keeps_of_eq2 (by assumption) ?_
    | refine keeps_of_eq12 (by assumption) ?_
    | refine keeps_of_eqE1 (by assumption) ?_
    | refine keeps_of_eqE2 (by assumption) ?_
    | refine keeps_of_eqE3 (by assumption) ?_
    | intro _
    | split
    | (dsimp -zeta +zetaDelta only; split)
    | (constructor <;> dsimp only <;> first | exact Keeps.queue ‹_› | exact Keeps.mem ‹_› | exact Keeps.regs ‹_› | exact Keeps.ns ‹_› | exact Keeps.load ‹_›))

theorem pfeOutput_keeps {n1 n2 n3 n4 : Nat} {a : Int} {x : EngIo × List Byte × Nat} (h : Keeps q x.1.st) : Keeps q (pfeOutput s n1 n2 n3 n4 a x) := by
  unfold pfeOutput
  with_reducible repeat' (first
    | assumption | refine fun (_ : Keeps q _) => ?_
    | (extract_lets +onlyGivenNames x; refine keeps_stepE (q := q) (x := x) ?_ ?_; (on_goal 1 => (dsimp -zeta only [x]; clear x)); (on_goal 2 => (clear_value x; revert x; intro _ _)))
    | (extract_lets +onlyGivenNames x; revert x; intro _) | refine engWrite_keeps ?_ | refine engClose_keeps ?_
    | refine setF_keeps ?_)

theorem execPrachOccasion_keeps {a1 a2 a3 a4} (h : Keeps q s) : KeepsR q (execPrachOccasion a1 a2 a3 a4 s) := by
  unfold execPrachOccasion
  with_reducible repeat' (first
    | assumption | refine fun (_ : Keeps q _) => ?_ | (extract_lets +onlyGivenNames x; revert x; intro _)
    | refine keepsR_next ?_ | refine keepsR_ite ?_ ?_ | refine keeps_foldlE1 ?_ _ ?_
    | refine engOpen_keeps ?_ | refine pfePort_keeps ?_ | refine pfeOutput_keeps ?_ | intro _)

theorem execProfile_keeps {a1 a2} (h : Keeps q s) : KeepsR q (execProfile a1 a2 s) := by
  unfold execProfile
  with_reducible repeat' (first
    | assumption | (extract_lets +onlyGivenNames x; revert x; intro _) | refine keepsR_next ?_
    | refine keepsR_ite ?_ ?_ | refine setLane_keeps ?_ | refine sendCtl_keeps ?_)

theorem requestSwitch_keeps {a1} (h : Keeps q s) : Keeps q (requestSwitch s a1) := by
  unfold requestSwitch
  with_reducible repeat' (first | assumption | refine keeps_ite ?_ ?_ | refine trigger_keeps ?_)

theorem scrGo_keeps {a1} (h : Keeps q s) : Keeps q (scrGo s a1) := by
  unfold scrGo
  with_reducible repeat' (first
    | assumption
    | refine keeps_ite ?_ ?_
    | refine setScr_keeps ?_
    | refine refreshScr_keeps ?_
    | refine setF_keeps ?_
    | intro _
    | split
    | (dsimp -zeta +zetaDelta only; split)
    | (constructor <;> dsimp only <;> first | exact Keeps.queue ‹_› | exact Keeps.mem ‹_› | exact Keeps.regs ‹_› | exact Keeps.ns ‹_› | exact Keeps.load ‹_›))

theorem profileChanged_keeps {a1} (h : Keeps q s) : Keeps q (profileChanged s a1) := by
  unfold profileChanged
  with_reducible repeat' (first
    | assumption | refine fun (_ : Keeps q _) => ?_ | (extract_lets +onlyGivenNames x; revert x; intro _)
    | refine keeps_ite ?_ ?_ | refine keeps_foldl ?_ _ ?_ | refine setLane_keeps ?_ | intro _)

theorem updateDelays_keeps {a1} (h : Keeps q s) : Keeps q (updateDelays s a1) := by
  unfold updateDelays
  with_reducible repeat' (first
    | assumption
    | (extract_lets +onlyGivenNames x; refine keeps_step (q := q) (x := x) ?_ ?_; (on_goal 1 => (dsimp -zeta only [x]; clear x)); (on_goal 2 => (clear_value x; revert x; intro _ _)))
    | (extract_lets +onlyGivenNames x; revert x; intro _)
    | refine keeps_ite ?_ ?_
    | refine noteDelay_keeps ?_
    | refine setSF_keeps ?_
    | refine setLane_keeps ?_
    | refine keeps_of_eq1 (by assumption) ?_
    | refine keeps_of_eq2 (by assumption) ?_
    | refine keeps_of_eq12 (by assumption) ?_
    | intro _
    | split
    | (dsimp -zeta +zetaDelta only; split)
    | (constructor <;> dsimp only <;> first | exact Keeps.queue ‹_› | exact Keeps.mem ‹_› | exact Keeps.regs ‹_› | exact Keeps.ns ‹_› | exact Keeps.load ‹_›))

theorem switchOver_keeps {a1 a2} (h : Keeps q s) : Keeps q (switchOver s a1 a2) := by
  unfold switchOver
  with_reducible repeat' (first
    | assumption
    | (extract_lets +onlyGivenNames x; refine keeps_step (q := q) (x := x) ?_ ?_; (on_goal 1 => (dsimp -zeta only [x]; clear x)); (on_goal 2 => (clear_value x; revert x; intro _ _)))
    | (extract_lets +onlyGivenNames x; revert x; intro _) | refine keeps_ite ?_ ?_ | refine setLaneState_keeps ?_
    | refine setTrig_keeps ?_ | refine setF_keeps ?_ | refine setLane_keeps ?_
    | refine dropLink_keeps ?_ | split)

theorem swapPlane_keeps {a1 a2} (h : Keeps q s) : Keeps q (swapPlane s a1 a2) := by
  unfold swapPlane
  with_reducible repeat' (first
    | assumption
    | (extract_lets +onlyGivenNames x; refine keeps_step (q := q) (x := x) ?_ ?_; (on_goal 1 => (dsimp -zeta only [x]; clear x)); (on_goal 2 => (clear_value x; revert x; intro _ _)))
    | (extract_lets +onlyGivenNames x; revert x; intro _)
    | refine keeps_ite ?_ ?_
    | refine putFrames_keeps ?_
    | refine setF_keeps ?_
    | refine refreshPhx_keeps ?_
    | refine setPhx_keeps ?_)

theorem partitionBoundary_keeps {a1 a2} (h : Keeps q s) : Keeps q (partitionBoundary s a1 a2) := by
  unfold partitionBoundary
  with_reducible repeat' (first
    | assumption
    | (extract_lets +onlyGivenNames x; refine keeps_step (q := q) (x := x) ?_ ?_; (on_goal 1 => (dsimp -zeta only [x]; clear x)); (on_goal 2 => (clear_value x; revert x; intro _ _)))
    | (extract_lets +onlyGivenNames x; revert x; intro _) | refine keeps_ite ?_ ?_ | refine setPhx_keeps ?_
    | refine swapPlane_keeps ?_ | split)

theorem execRamp_keeps {a1 a2 a3} (h : Keeps q s) : KeepsR q (execRamp a1 a2 a3 s) := by
  unfold execRamp
  with_reducible repeat' (first
    | assumption
    | refine fun (_ : Keeps q _) => ?_
    | (extract_lets +onlyGivenNames x; refine keeps_step (q := q) (x := x) ?_ ?_; (on_goal 1 => (dsimp -zeta only [x]; clear x)); (on_goal 2 => (clear_value x; revert x; intro _ _)))
    | (extract_lets +onlyGivenNames x; refine keeps_step1 (q := q) (x := x) ?_ ?_; (on_goal 1 => (dsimp -zeta only [x]; clear x)); (on_goal 2 => (clear_value x; revert x; intro _ _)))
    | (extract_lets +onlyGivenNames x; refine keeps_step2 (q := q) (x := x) ?_ ?_; (on_goal 1 => (dsimp -zeta only [x]; clear x)); (on_goal 2 => (clear_value x; revert x; intro _ _)))
    | (extract_lets +onlyGivenNames x; revert x; intro _)
    | refine keepsR_next ?_
    | refine keepsR_fault _
    | refine keepsR_refused _
    | refine keepsR_ite ?_ ?_
    | refine keeps_ite ?_ ?_
    | refine keeps_foldl ?_ _ ?_
    | refine keeps_foldl1 ?_ _ ?_
    | refine queueService_keeps ?_
    | refine addF_keeps ?_
    | refine keeps_of_eq1 (by assumption) ?_
    | refine keeps_of_eq2 (by assumption) ?_
    | refine keeps_of_eq12 (by assumption) ?_
    | intro _
    | split
    | (dsimp -zeta +zetaDelta only; split)
    | (constructor <;> dsimp only <;> first | exact Keeps.queue ‹_› | exact Keeps.mem ‹_› | exact Keeps.regs ‹_› | exact Keeps.ns ‹_› | exact Keeps.load ‹_›))

theorem execRestart_keeps {a1} (h : Keeps q s) : KeepsR q (execRestart a1 s) := by
  unfold execRestart
  with_reducible repeat' (first
    | assumption | refine keepsR_next ?_ | refine keeps_ite ?_ ?_
    | refine phxRestart_keeps ?_)

theorem execScrGo_keeps {a1} (h : Keeps q s) : KeepsR q (execScrGo a1 s) := by
  unfold execScrGo
  with_reducible repeat' (first
    | assumption | refine keepsR_next ?_ | refine keeps_ite ?_ ?_
    | refine scrGo_keeps ?_)

theorem putScrCtl_keeps {a1 a2} (h : Keeps q s) : Keeps q (putScrCtl s a1 a2) := by
  unfold putScrCtl
  with_reducible repeat' (first
    | assumption
    | (extract_lets +onlyGivenNames x; refine keeps_step (q := q) (x := x) ?_ ?_; (on_goal 1 => (dsimp -zeta only [x]; clear x)); (on_goal 2 => (clear_value x; revert x; intro _ _)))
    | (extract_lets +onlyGivenNames x; revert x; intro _)
    | refine keeps_ite ?_ ?_
    | refine setF_keeps ?_
    | refine setScr_keeps ?_
    | refine keeps_of_eq1 (by assumption) ?_
    | refine keeps_of_eq2 (by assumption) ?_
    | refine keeps_of_eq12 (by assumption) ?_
    | intro _
    | split
    | (dsimp -zeta +zetaDelta only; split)
    | (constructor <;> dsimp only <;> first | exact Keeps.queue ‹_› | exact Keeps.mem ‹_› | exact Keeps.regs ‹_› | exact Keeps.ns ‹_› | exact Keeps.load ‹_›))

theorem scrVote_keeps {a1 a2} (h : Keeps q s) : Keeps q (scrVote a1 s a2) := by
  unfold scrVote
  with_reducible repeat' (first
    | assumption
    | (extract_lets +onlyGivenNames x; refine keeps_step (q := q) (x := x) ?_ ?_; (on_goal 1 => (dsimp -zeta only [x]; clear x)); (on_goal 2 => (clear_value x; revert x; intro _ _)))
    | (extract_lets +onlyGivenNames x; revert x; intro _)
    | refine keeps_ite ?_ ?_
    | refine addF_keeps ?_
    | refine putScrCtl_keeps ?_
    | refine keeps_of_eq1 (by assumption) ?_
    | refine keeps_of_eq2 (by assumption) ?_
    | refine keeps_of_eq12 (by assumption) ?_
    | intro _
    | split
    | (dsimp -zeta +zetaDelta only; split)
    | (constructor <;> dsimp only <;> first | exact Keeps.queue ‹_› | exact Keeps.mem ‹_› | exact Keeps.regs ‹_› | exact Keeps.ns ‹_› | exact Keeps.load ‹_›))

theorem execScrubFrame_keeps {a1 a2 a3} (h : Keeps q s) : KeepsR q (execScrubFrame a1 a2 a3 s) := by
  unfold execScrubFrame
  with_reducible repeat' (first
    | assumption
    | refine fun (_ : Keeps q _) => ?_
    | (extract_lets +onlyGivenNames x; refine keeps_step (q := q) (x := x) ?_ ?_; (on_goal 1 => (dsimp -zeta only [x]; clear x)); (on_goal 2 => (clear_value x; revert x; intro _ _)))
    | (extract_lets +onlyGivenNames x; refine keeps_step1 (q := q) (x := x) ?_ ?_; (on_goal 1 => (dsimp -zeta only [x]; clear x)); (on_goal 2 => (clear_value x; revert x; intro _ _)))
    | (extract_lets +onlyGivenNames x; refine keeps_step2 (q := q) (x := x) ?_ ?_; (on_goal 1 => (dsimp -zeta only [x]; clear x)); (on_goal 2 => (clear_value x; revert x; intro _ _)))
    | (extract_lets +onlyGivenNames x; revert x; intro _)
    | refine keepsR_next ?_
    | refine keepsR_fault _
    | refine keepsR_refused _
    | refine keepsR_ite ?_ ?_
    | refine keeps_ite ?_ ?_
    | refine keeps_foldl ?_ _ ?_
    | refine keeps_foldl1 ?_ _ ?_
    | refine scrVote_keeps ?_
    | refine setScr_keeps ?_
    | refine scrAdvance_keeps ?_
    | refine scrLog_keeps ?_
    | refine upset_keeps ?_
    | refine keeps_of_eq1 (by assumption) ?_
    | refine keeps_of_eq2 (by assumption) ?_
    | refine keeps_of_eq12 (by assumption) ?_
    | intro _
    | split
    | (dsimp -zeta +zetaDelta only; split)
    | (constructor <;> dsimp only <;> first | exact Keeps.queue ‹_› | exact Keeps.mem ‹_› | exact Keeps.regs ‹_› | exact Keeps.ns ‹_› | exact Keeps.load ‹_›))

theorem execSwitch_keeps {a1} (h : Keeps q s) : KeepsR q (execSwitch a1 s) := by
  unfold execSwitch
  with_reducible repeat' (first
    | assumption | refine keepsR_next ?_ | refine keeps_ite ?_ ?_
    | refine requestSwitch_keeps ?_)

theorem execTddPinEdge_keeps {a1 a2 a3} (h : Keeps q s) : KeepsR q (execTddPinEdge a1 a2 a3 s) := by
  unfold execTddPinEdge
  with_reducible repeat' (first
    | assumption
    | (extract_lets +onlyGivenNames x; refine keeps_step (q := q) (x := x) ?_ ?_; (on_goal 1 => (dsimp -zeta only [x]; clear x)); (on_goal 2 => (clear_value x; revert x; intro _ _)))
    | (extract_lets +onlyGivenNames x; revert x; intro _) | refine keepsR_next ?_ | refine keeps_ite ?_ ?_
    | refine driveTddPin_keeps ?_ | refine atDt_keeps ?_)

theorem execTddShadowApply_keeps {a1} (h : Keeps q s) : KeepsR q (execTddShadowApply a1 s) := by
  unfold execTddShadowApply
  with_reducible repeat' (first
    | assumption
    | refine fun (_ : Keeps q _) => ?_
    | (extract_lets +onlyGivenNames x; refine keeps_step (q := q) (x := x) ?_ ?_; (on_goal 1 => (dsimp -zeta only [x]; clear x)); (on_goal 2 => (clear_value x; revert x; intro _ _)))
    | (extract_lets +onlyGivenNames x; refine keeps_step1 (q := q) (x := x) ?_ ?_; (on_goal 1 => (dsimp -zeta only [x]; clear x)); (on_goal 2 => (clear_value x; revert x; intro _ _)))
    | (extract_lets +onlyGivenNames x; refine keeps_step2 (q := q) (x := x) ?_ ?_; (on_goal 1 => (dsimp -zeta only [x]; clear x)); (on_goal 2 => (clear_value x; revert x; intro _ _)))
    | (extract_lets +onlyGivenNames x; revert x; intro _)
    | refine keepsR_next ?_
    | refine keepsR_fault _
    | refine keepsR_refused _
    | refine keepsR_ite ?_ ?_
    | refine keeps_ite ?_ ?_
    | refine keeps_foldl ?_ _ ?_
    | refine keeps_foldl1 ?_ _ ?_
    | refine setF_keeps ?_
    | refine applyTdd_keeps ?_
    | refine applyPortGroup_keeps ?_
    | refine keeps_of_eq1 (by assumption) ?_
    | refine keeps_of_eq2 (by assumption) ?_
    | refine keeps_of_eq12 (by assumption) ?_
    | intro _
    | split
    | (dsimp -zeta +zetaDelta only; split)
    | (constructor <;> dsimp only <;> first | exact Keeps.queue ‹_› | exact Keeps.mem ‹_› | exact Keeps.regs ‹_› | exact Keeps.ns ‹_› | exact Keeps.load ‹_›))

end Sys2Proof.Machine
end

