-- ==== Sys2Proof/Laws/KeepsPower.lean ====
section
/-!
SUPPORT. That every operation and command's meaning keeps what Keeps names: the laws of power, DTE, the coding engines and Ethernet.
-/

namespace Sys2Proof.Machine

set_option Elab.async false

variable {q : Kept} {s : State} {o : EngIo}

theorem withMirror_keeps {n : Nat} {f : State → State} (hf : ∀ x, Keeps q x → Keeps q (f x)) (h : Keeps q s) : Keeps q (withMirror s n f) := by
  unfold withMirror
  with_reducible repeat' (first
    | assumption
    | (extract_lets +onlyGivenNames x; refine keeps_step (q := q) (x := x) ?_ ?_; (on_goal 1 => (dsimp -zeta only [x]; clear x)); (on_goal 2 => (clear_value x; revert x; intro _ _)))
    | (extract_lets +onlyGivenNames x; revert x; intro _) | refine setQuad_keeps ?_ | refine hf _ ?_
    | (constructor <;> dsimp only <;> repeat first | exact Keeps.queue ‹_› | exact Keeps.mem ‹_› | exact Keeps.regs ‹_› | exact Keeps.ns ‹_› | exact Keeps.load ‹_› | refine wfIf_smDrop _ _ _ ?_ | refine wfIf_overlayRegs _ _ ?_))

theorem ringSide_keeps {n : Nat} {f : State → State} (hf : ∀ x, Keeps q x → Keeps q (f x)) (h : Keeps q s) : Keeps q (ringSide s n f) :=
  keeps_ite (withMirror_keeps hf h) (hf _ h)

theorem retryRecs_keeps (h : Keeps q s) : Keeps q (retryRecs s) := by
  unfold retryRecs
  with_reducible repeat' (first
    | assumption
    | refine fun (_ : Keeps q _) => ?_
    | refine keeps_ite ?_ ?_
    | refine keeps_foldl ?_ _ ?_
    | refine keeps_foldl1 ?_ _ ?_
    | refine ringSide_keeps ?_ ?_
    | refine writeRecs_keeps ?_
    | intro _
    | split
    | (dsimp -zeta +zetaDelta only; split)
    | (constructor <;> dsimp only <;> first | exact Keeps.queue ‹_› | exact Keeps.mem ‹_› | exact Keeps.regs ‹_› | exact Keeps.ns ‹_› | exact Keeps.load ‹_›))

theorem execBackInvalidateResponse_keeps {a1 a2} (h : Keeps q s) : KeepsR q (execBackInvalidateResponse a1 a2 s) := by
  unfold execBackInvalidateResponse
  with_reducible repeat' (first
    | assumption
    | (extract_lets +onlyGivenNames x; refine keeps_step (q := q) (x := x) ?_ ?_; (on_goal 1 => (dsimp -zeta only [x]; clear x)); (on_goal 2 => (clear_value x; revert x; intro _ _)))
    | refine keepsR_next ?_
    | refine keepsR_fault _
    | refine keepsR_refused _
    | refine keepsR_ite ?_ ?_
    | refine keeps_ite ?_ ?_
    | refine sfPut_keeps ?_
    | refine goOnAll_keeps ?_
    | refine retryRecs_keeps ?_
    | refine retryWaits_keeps ?_
    | refine keeps_of_eq1 (by assumption) ?_
    | refine keeps_of_eq2 (by assumption) ?_
    | refine keeps_of_eq12 (by assumption) ?_
    | intro _
    | split
    | (constructor <;> dsimp only <;> first | exact Keeps.queue ‹_› | exact Keeps.mem ‹_› | exact Keeps.regs ‹_› | exact Keeps.ns ‹_› | exact Keeps.load ‹_›))

theorem functionReset_keeps (h : Keeps q s) : Keeps q (functionReset s) := by
  unfold functionReset
  with_reducible repeat' (first
    | assumption
    | refine fun (_ : Keeps q _) => ?_
    | (extract_lets +onlyGivenNames x; refine keeps_step (q := q) (x := x) ?_ ?_; (on_goal 1 => (dsimp -zeta only [x]; clear x)); (on_goal 2 => (clear_value x; revert x; intro _ _)))
    | (extract_lets +onlyGivenNames x; refine keeps_step1 (q := q) (x := x) ?_ ?_; (on_goal 1 => (dsimp -zeta only [x]; clear x)); (on_goal 2 => (clear_value x; revert x; intro _ _)))
    | (extract_lets +onlyGivenNames x; refine keeps_step2 (q := q) (x := x) ?_ ?_; (on_goal 1 => (dsimp -zeta only [x]; clear x)); (on_goal 2 => (clear_value x; revert x; intro _ _)))
    | (extract_lets +onlyGivenNames x; revert x; intro _)
    | refine keeps_ite ?_ ?_
    | refine keeps_foldl ?_ _ ?_
    | refine keeps_foldl1 ?_ _ ?_
    | refine ringSide_keeps ?_ ?_
    | refine cutRing_keeps ?_
    | refine dropIde_keeps ?_
    | refine decommit_keeps ?_
    | refine setF_keeps ?_
    | refine intPulse_keeps ?_
    | refine addF_keeps ?_
    | refine setBudget_keeps ?_
    | refine keeps_of_eq1 (by assumption) ?_
    | refine keeps_of_eq2 (by assumption) ?_
    | refine keeps_of_eq12 (by assumption) ?_
    | intro _
    | split
    | (dsimp -zeta +zetaDelta only; split)
    | (constructor <;> dsimp only <;> first | exact Keeps.queue ‹_› | exact Keeps.mem ‹_› | exact Keeps.regs ‹_› | exact Keeps.ns ‹_› | exact Keeps.load ‹_›))

theorem execFunctionReset_keeps (h : Keeps q s) : KeepsR q (execFunctionReset s) := by
  unfold execFunctionReset
  with_reducible repeat' (first | assumption | refine keepsR_next ?_ | refine functionReset_keeps ?_)

theorem execHostWriteGo_keeps {a1} (h : Keeps q s) : KeepsR q (execHostWriteGo a1 s) := by
  unfold execHostWriteGo
  split
  · exact keepsR_ite (keepsR_next h) (keepsR_next (chanOn_keeps (keeps_ite (goLate_keeps h) (goHead_keeps h))))
  · exact keepsR_next (ringSide_keeps (fun _ h => recordGo_keeps h) h)

theorem execIdeIntegrityFailure_keeps {a1} (h : Keeps q s) : KeepsR q (execIdeIntegrityFailure a1 s) := by
  unfold execIdeIntegrityFailure
  with_reducible repeat' (first
    | assumption | refine keepsR_next ?_ | refine keepsR_ite ?_ ?_
    | refine setIde_keeps ?_ | refine addF_keeps ?_ | refine functionReset_keeps ?_)

theorem answerCfg_keeps {a1} (h : Keeps q s) : Keeps q (answerCfg s a1) := by
  unfold answerCfg
  with_reducible repeat' (first
    | assumption
    | (extract_lets +onlyGivenNames x; refine keeps_step (q := q) (x := x) ?_ ?_; (on_goal 1 => (dsimp -zeta only [x]; clear x)); (on_goal 2 => (clear_value x; revert x; intro _ _)))
    | (extract_lets +onlyGivenNames x; refine keeps_step2 (q := q) (x := x) ?_ ?_; (on_goal 1 => (dsimp -zeta only [x]; clear x)); (on_goal 2 => (clear_value x; revert x; intro _ _)))
    | (extract_lets +onlyGivenNames x; revert x; intro _)
    | refine keeps_ite ?_ ?_
    | refine emit_keeps ?_
    | refine setF_keeps ?_
    | refine flushVectors_keeps ?_
    | refine setBudget_keeps ?_
    | refine takeFree_keeps ?_
    | refine keeps_of_eq1 (by assumption) ?_
    | refine keeps_of_eq2 (by assumption) ?_
    | refine keeps_of_eq12 (by assumption) ?_
    | intro _
    | split
    | (dsimp -zeta +zetaDelta only; split)
    | (constructor <;> dsimp only <;> first | exact Keeps.queue ‹_› | exact Keeps.mem ‹_› | exact Keeps.regs ‹_› | exact Keeps.ns ‹_› | exact Keeps.load ‹_›))

theorem autoStep_keeps {a1} (h : Keeps q s) : Keeps q (autoStep s a1) := by
  unfold autoStep
  with_reducible repeat' (first
    | assumption | refine fun (_ : Keeps q _) => ?_
    | (extract_lets +onlyGivenNames x; refine keeps_step (q := q) (x := x) ?_ ?_; (on_goal 1 => (dsimp -zeta only [x]; clear x)); (on_goal 2 => (clear_value x; revert x; intro _ _)))
    | (extract_lets +onlyGivenNames x; revert x; intro _) | refine keeps_ite ?_ ?_ | refine keeps_foldl ?_ _ ?_
    | refine retarget_keeps ?_ | refine setF_keeps ?_ | refine refresh_keeps ?_ | intro _)

theorem blockLlrs_keeps {o : EngIo} {a1 a2 a3 a4 a5 a6 a7 a8 a9} (h : Keeps q o.st) : Keeps q (blockLlrs o a1 a2 a3 a4 a5 a6 a7 a8 a9).2.st := by
  unfold blockLlrs
  with_reducible repeat' (first
    | assumption
    | (extract_lets +onlyGivenNames x; refine keeps_step (q := q) (x := x) ?_ ?_; (on_goal 1 => (dsimp -zeta only [x]; clear x)); (on_goal 2 => (clear_value x; revert x; intro _ _)))
    | (extract_lets +onlyGivenNames x; refine keeps_stepE (q := q) (x := x) ?_ ?_; (on_goal 1 => (dsimp -zeta only [x]; clear x)); (on_goal 2 => (clear_value x; revert x; intro _ _)))
    | (extract_lets +onlyGivenNames x; refine keeps_stepE2 (q := q) (x := x) ?_ ?_; (on_goal 1 => (dsimp -zeta only [x]; clear x)); (on_goal 2 => (clear_value x; revert x; intro _ _)))
    | (extract_lets +onlyGivenNames x; revert x; intro _)
    | refine keeps_ite ?_ ?_
    | refine engRead_keeps ?_
    | refine keeps_of_eq1 (by assumption) ?_
    | refine keeps_of_eq2 (by assumption) ?_
    | refine keeps_of_eq12 (by assumption) ?_
    | refine keeps_of_eqE1 (by assumption) ?_
    | refine keeps_of_eqE2 (by assumption) ?_
    | refine keeps_of_eqE3 (by assumption) ?_
    | intro _
    | split
    | (dsimp -zeta +zetaDelta only; split)
    | (constructor <;> dsimp only <;> first | exact Keeps.queue ‹_› | exact Keeps.mem ‹_› | exact Keeps.regs ‹_› | exact Keeps.ns ‹_› | exact Keeps.load ‹_›))

theorem bootQuad_keeps {a1} (h : Keeps q s) : Keeps q (bootQuad s a1) := by
  unfold bootQuad
  with_reducible repeat' (first
    | assumption | (extract_lets +onlyGivenNames x; revert x; intro _) | refine keeps_ite ?_ ?_
    | refine setQuad_keeps ?_ | refine setF_keeps ?_ | refine refuseQuad_keeps ?_)

theorem bootTiles_keeps {a1} (h : Keeps q s) : Keeps q (bootTiles s a1) := by
  unfold bootTiles
  with_reducible repeat' (first
    | assumption | refine fun (_ : Keeps q _) => ?_
    | (extract_lets +onlyGivenNames x; refine keeps_step (q := q) (x := x) ?_ ?_; (on_goal 1 => (dsimp -zeta only [x]; clear x)); (on_goal 2 => (clear_value x; revert x; intro _ _)))
    | (extract_lets +onlyGivenNames x; revert x; intro _) | refine keeps_foldl ?_ _ ?_ | refine setCl_keeps ?_
    | refine setF_keeps ?_ | refine setTilemap_keeps ?_ | intro _)

theorem cdeRun_keeps {a1} (h : Keeps q s) : Keeps q (cdeRun s a1).1 := by
  unfold cdeRun
  with_reducible repeat' (first
    | assumption
    | refine fun (_ : Keeps q _) => ?_
    | (extract_lets +onlyGivenNames x; refine keeps_stepE (q := q) (x := x) ?_ ?_; (on_goal 1 => (dsimp -zeta only [x]; clear x)); (on_goal 2 => (clear_value x; revert x; intro _ _)))
    | (extract_lets +onlyGivenNames x; revert x; intro _)
    | refine keeps_ite ?_ ?_
    | refine keeps_foldl ?_ _ ?_
    | refine keeps_foldl1 ?_ _ ?_
    | refine keeps_foldlE ?_ _ ?_
    | refine keeps_foldlE1 ?_ _ ?_
    | refine keeps_foldlE2 ?_ _ ?_
    | refine keeps_foldlE3 ?_ _ ?_
    | refine engRead_keeps ?_
    | refine engOpen_keeps ?_
    | refine addF_keeps ?_
    | refine cvuUnclaim_keeps ?_
    | refine engDone_keeps ?_
    | refine blockLlrs_keeps ?_
    | refine engWrite_keeps ?_
    | refine keeps_of_eq1 (by assumption) ?_
    | refine keeps_of_eq2 (by assumption) ?_
    | refine keeps_of_eq12 (by assumption) ?_
    | refine keeps_of_eqE1 (by assumption) ?_
    | refine keeps_of_eqE2 (by assumption) ?_
    | refine keeps_of_eqE3 (by assumption) ?_
    | intro _
    | split)

theorem cdeStart_keeps {a1} (h : Keeps q s) : Keeps q (cdeStart s a1) := by
  unfold cdeStart
  with_reducible repeat' (first
    | assumption
    | (extract_lets +onlyGivenNames x; refine keeps_step (q := q) (x := x) ?_ ?_; (on_goal 1 => (dsimp -zeta only [x]; clear x)); (on_goal 2 => (clear_value x; revert x; intro _ _)))
    | (extract_lets +onlyGivenNames x; revert x; intro _)
    | refine keeps_ite ?_ ?_
    | refine cvuClaim_keeps ?_
    | refine setCl_keeps ?_
    | refine wrMem_keeps ?_)

theorem ceeRun_keeps {a1} (h : Keeps q s) : Keeps q (ceeRun s a1).1 := by
  unfold ceeRun
  with_reducible repeat' (first
    | assumption
    | refine fun (_ : Keeps q _) => ?_
    | (extract_lets +onlyGivenNames x; refine keeps_stepE (q := q) (x := x) ?_ ?_; (on_goal 1 => (dsimp -zeta only [x]; clear x)); (on_goal 2 => (clear_value x; revert x; intro _ _)))
    | (extract_lets +onlyGivenNames x; revert x; intro _)
    | refine keeps_ite ?_ ?_
    | refine keeps_foldl ?_ _ ?_
    | refine keeps_foldl1 ?_ _ ?_
    | refine keeps_foldlE ?_ _ ?_
    | refine keeps_foldlE1 ?_ _ ?_
    | refine keeps_foldlE2 ?_ _ ?_
    | refine keeps_foldlE3 ?_ _ ?_
    | refine engRead_keeps ?_
    | refine engOpen_keeps ?_
    | refine addF_keeps ?_
    | refine cvuUnclaim_keeps ?_
    | refine engDone_keeps ?_
    | refine engWrite_keeps ?_
    | refine keeps_of_eq1 (by assumption) ?_
    | refine keeps_of_eq2 (by assumption) ?_
    | refine keeps_of_eq12 (by assumption) ?_
    | refine keeps_of_eqE1 (by assumption) ?_
    | refine keeps_of_eqE2 (by assumption) ?_
    | refine keeps_of_eqE3 (by assumption) ?_
    | intro _
    | split)

theorem ceeStart_keeps {a1} (h : Keeps q s) : Keeps q (ceeStart s a1) := by
  unfold ceeStart
  with_reducible repeat' (first
    | assumption
    | refine keeps_ite ?_ ?_
    | refine cvuClaim_keeps ?_)

theorem survivors_keeps (h : Keeps q s) : Keeps q (survivors s) :=
  ⟨h.queue, wfIf_filter _ _ _ h.mem, fun _ => rfl, fun _ => Nat.zero_lt_succ _, fun _ x hx => by cases hx⟩

theorem chipReset_keeps {a1 a2} (h : Keeps q s) : Keeps q (chipReset s a1 a2) := by
  unfold chipReset
  with_reducible repeat' (first
    | assumption | refine fun (_ : Keeps q _) => ?_
    | (extract_lets +onlyGivenNames x; refine keeps_step (q := q) (x := x) ?_ ?_; (on_goal 1 => (dsimp -zeta only [x]; clear x)); (on_goal 2 => (clear_value x; revert x; intro _ _)))
    | (extract_lets +onlyGivenNames x; revert x; intro _) | refine keeps_ite ?_ ?_ | refine keeps_foldl ?_ _ ?_
    | refine report_keeps ?_ | refine bootTiles_keeps ?_ | refine setF_keeps ?_
    | refine survivors_keeps ?_ | refine refresh_keeps ?_ | intro _
    | (constructor <;> dsimp only <;> first | exact Keeps.queue ‹_› | exact Keeps.mem ‹_› | exact Keeps.regs ‹_› | exact Keeps.ns ‹_› | exact Keeps.load ‹_›))

theorem clearQuadUnits_keeps {a1} (h : Keeps q s) : Keeps q (clearQuadUnits s a1) := by
  unfold clearQuadUnits
  with_reducible repeat' (first
    | (extract_lets +onlyGivenNames x; refine keeps_step (q := q) (x := x) ?_ ?_; (on_goal 1 => (dsimp -zeta only [x]; clear x)); (on_goal 2 => (clear_value x; revert x; intro _ _)))
    | (extract_lets +onlyGivenNames x; revert x; intro _)
    | (constructor <;> dsimp only <;> repeat first | exact Keeps.queue ‹_› | exact Keeps.mem ‹_› | exact Keeps.regs ‹_› | exact Keeps.ns ‹_› | exact Keeps.load ‹_› | refine wfIf_smDrop _ _ _ ?_))

theorem completeRaises_keeps {a1} (h : Keeps q s) : Keeps q (completeRaises s a1) := by
  unfold completeRaises
  with_reducible repeat' (first
    | assumption | refine fun (_ : Keeps q _) => ?_
    | (extract_lets +onlyGivenNames x; refine keeps_step (q := q) (x := x) ?_ ?_; (on_goal 1 => (dsimp -zeta only [x]; clear x)); (on_goal 2 => (clear_value x; revert x; intro _ _)))
    | (extract_lets +onlyGivenNames x; revert x; intro _) | refine keeps_foldl ?_ _ ?_ | refine setF_keeps ?_
    | intro _
    | (constructor <;> dsimp only <;> first | exact Keeps.queue ‹_› | exact Keeps.mem ‹_› | exact Keeps.regs ‹_› | exact Keeps.ns ‹_› | exact Keeps.load ‹_›))

theorem deliverLatches_keeps {a1} (h : Keeps q s) : Keeps q (deliverLatches s a1) := by
  unfold deliverLatches
  with_reducible repeat' (first
    | assumption | refine fun (_ : Keeps q _) => ?_ | (extract_lets +onlyGivenNames x; revert x; intro _)
    | refine keeps_foldl ?_ _ ?_ | refine writeMbox_keeps ?_ | refine setHw_keeps ?_ | intro _ | split)

theorem dropQuadWork_keeps {a1} (h : Keeps q s) : Keeps q (dropQuadWork s a1) := by
  unfold dropQuadWork
  with_reducible repeat' (first
    | assumption | refine fun (_ : Keeps q _) => ?_
    | (extract_lets +onlyGivenNames x; refine keeps_step (q := q) (x := x) ?_ ?_; (on_goal 1 => (dsimp -zeta only [x]; clear x)); (on_goal 2 => (clear_value x; revert x; intro _ _)))
    | (extract_lets +onlyGivenNames x; revert x; intro _) | refine keeps_foldl ?_ _ ?_ | refine dropCoupled_keeps ?_
    | intro _
    | (constructor <;> dsimp only <;> first | exact Keeps.queue ‹_› | exact Keeps.mem ‹_› | exact Keeps.regs ‹_› | exact Keeps.ns ‹_› | exact Keeps.load ‹_›))

theorem dteClamp_keeps {o : EngIo} {a1 a2} (h : Keeps q o.st) : Keeps q (dteClamp o a1 a2).st := by
  unfold dteClamp
  with_reducible repeat' (first | assumption | refine addF_keeps ?_)

theorem dteInputs_keeps {o : EngIo} {a1 a2 a3 a4 a5} (h : Keeps q o.st) : Keeps q (dteInputs o a1 a2 a3 a4 a5).2.st := by
  unfold dteInputs
  with_reducible repeat' (first
    | assumption | refine fun (_ : Keeps q _) => ?_ | refine keeps_foldlE2 ?_ _ ?_
    | refine readRecord_keeps ?_ | intro _)

theorem dteTrunc_keeps {o : EngIo} {a1 a2} (h : Keeps q o.st) : Keeps q (dteTrunc o a1 a2).st := by
  unfold dteTrunc
  with_reducible repeat' (first | assumption | refine addF_keeps ?_ | split)

theorem dteNoise_keeps {o : EngIo} {a1 a2} (h : Keeps q o.st) : Keeps q (dteNoise o a1 a2).st := by
  unfold dteNoise
  with_reducible repeat' (first
    | assumption | refine fun (_ : Keeps q _) => ?_ | (extract_lets +onlyGivenNames x; revert x; intro _)
    | refine keeps_foldlE ?_ _ ?_ | refine engWrite_keeps ?_ | refine dteTrunc_keeps ?_
    | refine dteClamp_keeps ?_ | refine engRead_keeps ?_ | refine dteInputs_keeps ?_ | intro _)

theorem dtePrach_keeps {o : EngIo} {a1 a2 a3 a4} (h : Keeps q o.st) : Keeps q (dtePrach o a1 a2 a3 a4).st := by
  unfold dtePrach
  with_reducible repeat' (first
    | assumption
    | (extract_lets +onlyGivenNames x; revert x; intro _)
    | refine keeps_ite ?_ ?_
    | refine dteClamp_keeps ?_
    | refine engRead_keeps ?_
    | refine raBins_keeps ?_
    | refine engWrite_keeps ?_
    | refine addF_keeps ?_
    | refine dteTrunc_keeps ?_
    | refine keeps_of_eq1 (by assumption) ?_
    | refine keeps_of_eq2 (by assumption) ?_
    | refine keeps_of_eq12 (by assumption) ?_
    | refine keeps_of_eqE1 (by assumption) ?_
    | refine keeps_of_eqE2 (by assumption) ?_
    | refine keeps_of_eqE3 (by assumption) ?_
    | intro _
    | split)

theorem firstPass_keeps {o : EngIo} {a1 a2 a3 a4} (h : Keeps q o.st) : Keeps q (firstPass o a1 a2 a3 a4).2.st := by
  unfold firstPass
  with_reducible repeat' (first
    | assumption
    | refine fun (_ : Keeps q _) => ?_
    | (extract_lets +onlyGivenNames x; revert x; intro _)
    | refine keeps_ite ?_ ?_
    | refine keeps_foldl ?_ _ ?_
    | refine keeps_foldl1 ?_ _ ?_
    | refine keeps_foldlE ?_ _ ?_
    | refine keeps_foldlE1 ?_ _ ?_
    | refine keeps_foldlE2 ?_ _ ?_
    | refine keeps_foldlE3 ?_ _ ?_
    | refine engRead_keeps ?_
    | refine readRecord_keeps ?_
    | refine readRefs_keeps ?_)

theorem dtePusch_keeps {o : EngIo} {a1 a2 a3 a4} (h : Keeps q o.st) : Keeps q (dtePusch o a1 a2 a3 a4).st := by
  unfold dtePusch
  with_reducible repeat' (first
    | assumption
    | refine fun (_ : Keeps q _) => ?_
    | (extract_lets +onlyGivenNames x; revert x; intro _)
    | refine keeps_ite ?_ ?_
    | refine keeps_foldl ?_ _ ?_
    | refine keeps_foldl1 ?_ _ ?_
    | refine keeps_foldlE ?_ _ ?_
    | refine keeps_foldlE1 ?_ _ ?_
    | refine keeps_foldlE2 ?_ _ ?_
    | refine keeps_foldlE3 ?_ _ ?_
    | refine engRead_keeps ?_
    | refine dteClamp_keeps ?_
    | refine dteInputs_keeps ?_
    | refine readRefs_keeps ?_
    | refine firstPass_keeps ?_
    | refine engWrite_keeps ?_
    | refine addF_keeps ?_
    | refine dteTrunc_keeps ?_
    | refine report_keeps ?_
    | refine keeps_of_eq1 (by assumption) ?_
    | refine keeps_of_eq2 (by assumption) ?_
    | refine keeps_of_eq12 (by assumption) ?_
    | refine keeps_of_eqE1 (by assumption) ?_
    | refine keeps_of_eqE2 (by assumption) ?_
    | refine keeps_of_eqE3 (by assumption) ?_
    | intro _
    | split)

theorem dteSound_keeps {o : EngIo} {a1 a2 a3 a4} (h : Keeps q o.st) : Keeps q (dteSound o a1 a2 a3 a4).st := by
  unfold dteSound
  with_reducible repeat' (first
    | assumption
    | refine fun (_ : Keeps q _) => ?_
    | (extract_lets +onlyGivenNames x; revert x; intro _)
    | refine keeps_ite ?_ ?_
    | refine keeps_foldl ?_ _ ?_
    | refine keeps_foldl1 ?_ _ ?_
    | refine keeps_foldlE ?_ _ ?_
    | refine keeps_foldlE1 ?_ _ ?_
    | refine keeps_foldlE2 ?_ _ ?_
    | refine keeps_foldlE3 ?_ _ ?_
    | refine dteClamp_keeps ?_
    | refine dteInputs_keeps ?_
    | refine readRefs_keeps ?_
    | refine engWrite_keeps ?_
    | refine addF_keeps ?_
    | refine dteTrunc_keeps ?_
    | refine keeps_of_eq1 (by assumption) ?_
    | refine keeps_of_eq2 (by assumption) ?_
    | refine keeps_of_eq12 (by assumption) ?_
    | refine keeps_of_eqE1 (by assumption) ?_
    | refine keeps_of_eqE2 (by assumption) ?_
    | refine keeps_of_eqE3 (by assumption) ?_
    | intro _)

theorem dteRun_keeps {a1 a2} (h : Keeps q s) : Keeps q (dteRun s a1 a2).1 := by
  unfold dteRun
  with_reducible repeat' (first
    | assumption
    | refine keeps_ite ?_ ?_
    | refine engRead_keeps ?_
    | refine engOpen_keeps ?_
    | refine dteSound_keeps ?_
    | refine dtePusch_keeps ?_
    | refine dtePrach_keeps ?_
    | refine dteNoise_keeps ?_
    | refine addF_keeps ?_
    | refine engDone_keeps ?_
    | refine keeps_of_eq1 (by assumption) ?_
    | refine keeps_of_eq2 (by assumption) ?_
    | refine keeps_of_eq12 (by assumption) ?_
    | refine keeps_of_eqE1 (by assumption) ?_
    | refine keeps_of_eqE2 (by assumption) ?_
    | refine keeps_of_eqE3 (by assumption) ?_
    | intro _
    | split)

theorem edgeWake_keeps {a1} (h : Keeps q s) : Keeps q (edgeWake s a1) := by
  unfold edgeWake
  with_reducible repeat' (first
    | assumption | refine keeps_ite ?_ ?_ | refine addF_keeps ?_
    | refine wakeEvent_keeps ?_)

theorem endReinit_keeps {a1 a2 a3 a4} (h : Keeps q s) : Keeps q (endReinit s a1 a2 a3 a4) := by
  unfold endReinit
  with_reducible repeat' (first
    | assumption
    | refine fun (_ : Keeps q _) => ?_
    | (extract_lets +onlyGivenNames x; refine keeps_step (q := q) (x := x) ?_ ?_; (on_goal 1 => (dsimp -zeta only [x]; clear x)); (on_goal 2 => (clear_value x; revert x; intro _ _)))
    | (extract_lets +onlyGivenNames x; refine keeps_step1 (q := q) (x := x) ?_ ?_; (on_goal 1 => (dsimp -zeta only [x]; clear x)); (on_goal 2 => (clear_value x; revert x; intro _ _)))
    | (extract_lets +onlyGivenNames x; refine keeps_step2 (q := q) (x := x) ?_ ?_; (on_goal 1 => (dsimp -zeta only [x]; clear x)); (on_goal 2 => (clear_value x; revert x; intro _ _)))
    | (extract_lets +onlyGivenNames x; revert x; intro _)
    | refine keeps_ite ?_ ?_
    | refine keeps_foldl ?_ _ ?_
    | refine keeps_foldl1 ?_ _ ?_
    | refine setBitF_keeps ?_
    | refine bootTiles_keeps ?_
    | refine setCl_keeps ?_
    | refine intPulse_keeps ?_
    | refine setF_keeps ?_
    | refine setQuad_keeps ?_
    | refine keeps_of_eq1 (by assumption) ?_
    | refine keeps_of_eq2 (by assumption) ?_
    | refine keeps_of_eq12 (by assumption) ?_
    | intro _
    | split
    | (dsimp -zeta +zetaDelta only; split)
    | (constructor <;> dsimp only <;> first | exact Keeps.queue ‹_› | exact Keeps.mem ‹_› | exact Keeps.regs ‹_› | exact Keeps.ns ‹_› | exact Keeps.load ‹_›))

theorem nextSeq_keeps {a1 a2} (h : Keeps q s) : Keeps q (nextSeq s a1 a2).2 := by
  unfold nextSeq
  with_reducible repeat' (first | assumption | (extract_lets +onlyGivenNames x; revert x; intro _) | refine setLane_keeps ?_)

theorem sendCp_keeps {a1 a2 a3 a4 a5} (h : Keeps q s) : Keeps q (sendCp a1 a2 a3 a4 s a5) := by
  unfold sendCp
  with_reducible repeat' (first
    | assumption
    | (extract_lets +onlyGivenNames x; refine keeps_step (q := q) (x := x) ?_ ?_; (on_goal 1 => (dsimp -zeta only [x]; clear x)); (on_goal 2 => (clear_value x; revert x; intro _ _)))
    | (extract_lets +onlyGivenNames x; refine keeps_step2 (q := q) (x := x) ?_ ?_; (on_goal 1 => (dsimp -zeta only [x]; clear x)); (on_goal 2 => (clear_value x; revert x; intro _ _)))
    | (extract_lets +onlyGivenNames x; refine keeps_stepE (q := q) (x := x) ?_ ?_; (on_goal 1 => (dsimp -zeta only [x]; clear x)); (on_goal 2 => (clear_value x; revert x; intro _ _)))
    | (extract_lets +onlyGivenNames x; refine keeps_stepE2 (q := q) (x := x) ?_ ?_; (on_goal 1 => (dsimp -zeta only [x]; clear x)); (on_goal 2 => (clear_value x; revert x; intro _ _)))
    | (extract_lets +onlyGivenNames x; revert x; intro _)
    | refine keeps_ite ?_ ?_
    | refine engRead_keeps ?_
    | refine engOpen_keeps ?_
    | refine countLane_keeps ?_
    | refine nextSeq_keeps ?_
    | refine sendEcpri_keeps ?_
    | refine keeps_of_eq1 (by assumption) ?_
    | refine keeps_of_eq2 (by assumption) ?_
    | refine keeps_of_eq12 (by assumption) ?_
    | refine keeps_of_eqE1 (by assumption) ?_
    | refine keeps_of_eqE2 (by assumption) ?_
    | refine keeps_of_eqE3 (by assumption) ?_
    | intro _
    | split
    | (dsimp -zeta +zetaDelta only; split)
    | (constructor <;> dsimp only <;> first | exact Keeps.queue ‹_› | exact Keeps.mem ‹_› | exact Keeps.regs ‹_› | exact Keeps.ns ‹_› | exact Keeps.load ‹_›))

theorem sendCpSymbol_keeps {a1 a2 a3 a4 a5} (h : Keeps q s) : Keeps q (sendCpSymbol a1 a2 a3 a4 s a5) := by
  unfold sendCpSymbol
  with_reducible repeat' (first
    | assumption
    | refine fun (_ : Keeps q _) => ?_
    | (extract_lets +onlyGivenNames x; refine keeps_step (q := q) (x := x) ?_ ?_; (on_goal 1 => (dsimp -zeta only [x]; clear x)); (on_goal 2 => (clear_value x; revert x; intro _ _)))
    | (extract_lets +onlyGivenNames x; refine keeps_step1 (q := q) (x := x) ?_ ?_; (on_goal 1 => (dsimp -zeta only [x]; clear x)); (on_goal 2 => (clear_value x; revert x; intro _ _)))
    | (extract_lets +onlyGivenNames x; refine keeps_step2 (q := q) (x := x) ?_ ?_; (on_goal 1 => (dsimp -zeta only [x]; clear x)); (on_goal 2 => (clear_value x; revert x; intro _ _)))
    | (extract_lets +onlyGivenNames x; revert x; intro _)
    | refine keeps_ite ?_ ?_
    | refine keeps_foldl ?_ _ ?_
    | refine keeps_foldl1 ?_ _ ?_
    | refine sendCp_keeps ?_
    | refine wrMem_keeps ?_
    | refine keeps_of_eq1 (by assumption) ?_
    | refine keeps_of_eq2 (by assumption) ?_
    | refine keeps_of_eq12 (by assumption) ?_
    | intro _
    | split
    | (dsimp -zeta +zetaDelta only; split)
    | (constructor <;> dsimp only <;> first | exact Keeps.queue ‹_› | exact Keeps.mem ‹_› | exact Keeps.regs ‹_› | exact Keeps.ns ‹_› | exact Keeps.load ‹_›))

theorem execCPlaneSend_keeps {a1 a2 a3} (h : Keeps q s) : KeepsR q (execCPlaneSend a1 a2 a3 s) := by
  unfold execCPlaneSend
  with_reducible repeat' (first
    | assumption | refine fun (_ : Keeps q _) => ?_ | (extract_lets +onlyGivenNames x; revert x; intro _)
    | refine keepsR_next ?_ | refine keepsR_ite ?_ ?_ | refine keeps_foldl ?_ _ ?_
    | refine sendCpSymbol_keeps ?_ | intro _ | split)

theorem execCdeCntClr_keeps {a1} (h : Keeps q s) : KeepsR q (execCdeCntClr a1 s) := by
  unfold execCdeCntClr
  with_reducible repeat' (first
    | assumption
    | refine fun (_ : Keeps q _) => ?_
    | refine keepsR_next ?_
    | refine keepsR_fault _
    | refine keepsR_refused _
    | refine keepsR_ite ?_ ?_
    | refine keeps_ite ?_ ?_
    | refine keeps_foldl ?_ _ ?_
    | refine keeps_foldl1 ?_ _ ?_
    | refine setF_keeps ?_
    | intro _
    | split
    | (dsimp -zeta +zetaDelta only; split)
    | (constructor <;> dsimp only <;> first | exact Keeps.queue ‹_› | exact Keeps.mem ‹_› | exact Keeps.regs ‹_› | exact Keeps.ns ‹_› | exact Keeps.load ‹_›))

theorem execCeeCntClr_keeps {a1} (h : Keeps q s) : KeepsR q (execCeeCntClr a1 s) := by
  unfold execCeeCntClr
  with_reducible repeat' (first
    | assumption
    | refine fun (_ : Keeps q _) => ?_
    | refine keepsR_next ?_
    | refine keepsR_fault _
    | refine keepsR_refused _
    | refine keepsR_ite ?_ ?_
    | refine keeps_ite ?_ ?_
    | refine keeps_foldl ?_ _ ?_
    | refine keeps_foldl1 ?_ _ ?_
    | refine setF_keeps ?_
    | intro _
    | split
    | (dsimp -zeta +zetaDelta only; split)
    | (constructor <;> dsimp only <;> first | exact Keeps.queue ‹_› | exact Keeps.mem ‹_› | exact Keeps.regs ‹_› | exact Keeps.ns ‹_› | exact Keeps.load ‹_›))

theorem execChipReset_keeps (h : Keeps q s) : KeepsR q (execChipReset s) := by
  unfold execChipReset
  with_reducible repeat' (first | assumption | refine keepsR_next ?_ | refine chipReset_keeps ?_)

theorem execClusterEntry_keeps {a1} (h : Keeps q s) : KeepsR q (execClusterEntry a1 s) := by
  unfold execClusterEntry
  with_reducible repeat' (first
    | assumption
    | (extract_lets +onlyGivenNames x; refine keeps_step (q := q) (x := x) ?_ ?_; (on_goal 1 => (dsimp -zeta only [x]; clear x)); (on_goal 2 => (clear_value x; revert x; intro _ _)))
    | (extract_lets +onlyGivenNames x; revert x; intro _)
    | refine keepsR_next ?_
    | refine keepsR_fault _
    | refine keepsR_refused _
    | refine keepsR_ite ?_ ?_
    | refine keeps_ite ?_ ?_
    | refine passCsm_keeps ?_
    | refine setCl_keeps ?_
    | refine setF_keeps ?_
    | refine keeps_of_eq1 (by assumption) ?_
    | refine keeps_of_eq2 (by assumption) ?_
    | refine keeps_of_eq12 (by assumption) ?_
    | intro _
    | split)

theorem execClusterWake_keeps {a1 a2 a3} (h : Keeps q s) : KeepsR q (execClusterWake a1 a2 a3 s) := by
  unfold execClusterWake
  with_reducible repeat' (first
    | assumption
    | (extract_lets +onlyGivenNames x; refine keeps_step (q := q) (x := x) ?_ ?_; (on_goal 1 => (dsimp -zeta only [x]; clear x)); (on_goal 2 => (clear_value x; revert x; intro _ _)))
    | (extract_lets +onlyGivenNames x; revert x; intro _)
    | refine keepsR_next ?_
    | refine keepsR_fault _
    | refine keepsR_refused _
    | refine keepsR_ite ?_ ?_
    | refine keeps_ite ?_ ?_
    | refine atDt_keeps ?_
    | refine setCl_keeps ?_
    | refine setF_keeps ?_
    | refine addF_keeps ?_
    | refine deliverLatches_keeps ?_
    | refine retarget_keeps ?_
    | refine wakePoint_keeps ?_
    | refine keeps_of_eq1 (by assumption) ?_
    | refine keeps_of_eq2 (by assumption) ?_
    | refine keeps_of_eq12 (by assumption) ?_
    | intro _
    | split
    | (dsimp -zeta +zetaDelta only; split)
    | (constructor <;> dsimp only <;> first | exact Keeps.queue ‹_› | exact Keeps.mem ‹_› | exact Keeps.regs ‹_› | exact Keeps.ns ‹_› | exact Keeps.load ‹_›))

theorem execConfigurationRequest_keeps {a1} (h : Keeps q s) : KeepsR q (execConfigurationRequest a1 s) := by
  unfold execConfigurationRequest
  with_reducible repeat' (first
    | assumption
    | refine keepsR_next ?_
    | refine keepsR_fault _
    | refine keepsR_refused _
    | refine keepsR_ite ?_ ?_
    | refine keeps_ite ?_ ?_
    | refine emit_keeps ?_
    | refine answerCfg_keeps ?_
    | intro _
    | split
    | (dsimp -zeta +zetaDelta only; split)
    | (constructor <;> dsimp only <;> first | exact Keeps.queue ‹_› | exact Keeps.mem ‹_› | exact Keeps.regs ‹_› | exact Keeps.ns ‹_› | exact Keeps.load ‹_›))

theorem execDteCntClr_keeps {a1} (h : Keeps q s) : KeepsR q (execDteCntClr a1 s) := by
  unfold execDteCntClr
  with_reducible repeat' (first
    | assumption
    | refine fun (_ : Keeps q _) => ?_
    | refine keepsR_next ?_
    | refine keepsR_fault _
    | refine keepsR_refused _
    | refine keepsR_ite ?_ ?_
    | refine keeps_ite ?_ ?_
    | refine keeps_foldl ?_ _ ?_
    | refine keeps_foldl1 ?_ _ ?_
    | refine setF_keeps ?_
    | intro _
    | split
    | (dsimp -zeta +zetaDelta only; split)
    | (constructor <;> dsimp only <;> first | exact Keeps.queue ‹_› | exact Keeps.mem ‹_› | exact Keeps.regs ‹_› | exact Keeps.ns ‹_› | exact Keeps.load ‹_›))

theorem execEntryComplete_keeps {a1} (h : Keeps q s) : KeepsR q (execEntryComplete a1 s) := by
  unfold execEntryComplete
  with_reducible repeat' (first
    | assumption
    | (extract_lets +onlyGivenNames x; refine keeps_step (q := q) (x := x) ?_ ?_; (on_goal 1 => (dsimp -zeta only [x]; clear x)); (on_goal 2 => (clear_value x; revert x; intro _ _)))
    | (extract_lets +onlyGivenNames x; revert x; intro _)
    | refine keepsR_next ?_
    | refine keepsR_fault _
    | refine keepsR_refused _
    | refine keepsR_ite ?_ ?_
    | refine keeps_ite ?_ ?_
    | refine setCl_keeps ?_
    | refine setF_keeps ?_
    | refine retarget_keeps ?_
    | refine sleepRaises_keeps ?_
    | refine startWake_keeps ?_
    | refine keeps_of_eq1 (by assumption) ?_
    | refine keeps_of_eq2 (by assumption) ?_
    | refine keeps_of_eq12 (by assumption) ?_
    | intro _
    | split
    | (dsimp -zeta +zetaDelta only; split)
    | (constructor <;> dsimp only <;> first | exact Keeps.queue ‹_› | exact Keeps.mem ‹_› | exact Keeps.regs ‹_› | exact Keeps.ns ‹_› | exact Keeps.load ‹_›))

theorem oneWayDelay_keeps {a1 a2} (h : Keeps q s) : Keeps q (oneWayDelay s a1 a2) := by
  unfold oneWayDelay
  with_reducible repeat' (first
    | assumption
    | (extract_lets +onlyGivenNames x; refine keeps_step (q := q) (x := x) ?_ ?_; (on_goal 1 => (dsimp -zeta only [x]; clear x)); (on_goal 2 => (clear_value x; revert x; intro _ _)))
    | (extract_lets +onlyGivenNames x; revert x; intro _)
    | refine keeps_ite ?_ ?_
    | refine countLane_keeps ?_
    | refine sendEcpri_keeps ?_
    | refine keeps_of_eq1 (by assumption) ?_
    | refine keeps_of_eq2 (by assumption) ?_
    | refine keeps_of_eq12 (by assumption) ?_
    | intro _
    | split
    | (dsimp -zeta +zetaDelta only; split)
    | (constructor <;> dsimp only <;> first | exact Keeps.queue ‹_› | exact Keeps.mem ‹_› | exact Keeps.regs ‹_› | exact Keeps.ns ‹_› | exact Keeps.load ‹_›))

theorem forward_keeps {a1 a2 a3} (h : Keeps q s) : Keeps q (forward s a1 a2 a3) := by
  unfold forward
  with_reducible repeat' (first
    | assumption | (extract_lets +onlyGivenNames x; revert x; intro _) | refine keeps_ite ?_ ?_
    | refine countLane_keeps ?_ | refine setLane_keeps ?_)

theorem noteSeq_keeps {a1 a2 a3} (h : Keeps q s) : Keeps q (noteSeq s a1 a2 a3) := by
  unfold noteSeq
  with_reducible repeat' (first
    | assumption
    | (extract_lets +onlyGivenNames x; refine keeps_step (q := q) (x := x) ?_ ?_; (on_goal 1 => (dsimp -zeta only [x]; clear x)); (on_goal 2 => (clear_value x; revert x; intro _ _)))
    | (extract_lets +onlyGivenNames x; revert x; intro _) | refine keeps_ite ?_ ?_ | refine countLane_keeps ?_
    | refine setLane_keeps ?_ | split)

theorem takePrb_keeps {a1 a2 a3 a4 a5 a6 a7 a8} (h : Keeps q s) : Keeps q (takePrb s a1 a2 a3 a4 a5 a6 a7 a8) := by
  unfold takePrb
  have u : ∀ (x : State) m, Keeps q x → Keeps q { x with rxPrbs := m } := fun x m h => keeps_congr h rfl rfl rfl rfl rfl
  extract_lets k s1
  have h1 : Keeps q s1 := wrMem_keeps h
  clear_value s1 k
  exact keeps_ite (keeps_ite h (wrMem_keeps h)) (keeps_ite (countLane_keeps h) (u _ _ h1))

theorem takePrbs_keeps {a1 a2 a3 a4 a5 a6 a7 a8 a9 a10} (h : Keeps q s) : Keeps q (takePrbs a1 a2 a3 a4 a5 a6 a7 a8 a9 a10 s) := by
  induction a8 generalizing s a9 a10 with
  | zero => exact h
  | succ n ih => exact keeps_ite (keeps_ite h (countLane_keeps h)) (ih (takePrb_keeps h))

theorem takeSections_keeps {a1 a2 a3 a4 a5 a6 a7 a8} (h : Keeps q s) : Keeps q (takeSections a1 a2 a3 a4 a5 a6 a7 a8 s) := by
  induction a7 generalizing s a8 with
  | zero => exact h
  | succ n ih => exact keeps_ite h (ih (keeps_ite (takePrbs_keeps h) (keeps_ite h (countLane_keeps h))))

theorem uPlane_keeps {a1 a2} (h : Keeps q s) : Keeps q (uPlane s a1 a2) := by
  unfold uPlane
  with_reducible repeat' (first
    | assumption
    | (extract_lets +onlyGivenNames x; refine keeps_step (q := q) (x := x) ?_ ?_; (on_goal 1 => (dsimp -zeta only [x]; clear x)); (on_goal 2 => (clear_value x; revert x; intro _ _)))
    | (extract_lets +onlyGivenNames x; revert x; intro _)
    | refine keeps_ite ?_ ?_
    | refine noteSeq_keeps ?_
    | refine countLane_keeps ?_
    | refine takeSections_keeps ?_
    | refine keeps_of_eq1 (by assumption) ?_
    | refine keeps_of_eq2 (by assumption) ?_
    | refine keeps_of_eq12 (by assumption) ?_
    | intro _
    | split)

theorem forwardChecked_keeps {a1 a2 a3 a4} (h : Keeps q s) : Keeps q (forwardChecked s a1 a2 a3 a4) := by
  unfold forwardChecked
  with_reducible repeat' (first
    | assumption
    | (extract_lets +onlyGivenNames x; refine keeps_step (q := q) (x := x) ?_ ?_; (on_goal 1 => (dsimp -zeta only [x]; clear x)); (on_goal 2 => (clear_value x; revert x; intro _ _)))
    | (extract_lets +onlyGivenNames x; revert x; intro _)
    | refine keeps_ite ?_ ?_
    | refine addF_keeps ?_
    | refine forward_keeps ?_
    | refine keeps_of_eq1 (by assumption) ?_
    | refine keeps_of_eq2 (by assumption) ?_
    | refine keeps_of_eq12 (by assumption) ?_
    | intro _
    | split
    | (dsimp -zeta +zetaDelta only; split)
    | (constructor <;> dsimp only <;> first | exact Keeps.queue ‹_› | exact Keeps.mem ‹_› | exact Keeps.regs ‹_› | exact Keeps.ns ‹_› | exact Keeps.load ‹_›))

theorem handleFrame_keeps {a1 a2 a3} (h : Keeps q s) : Keeps q (handleFrame s a1 a2 a3) := by
  unfold handleFrame
  with_reducible repeat' (first
    | assumption
    | (extract_lets +onlyGivenNames x; revert x; intro _)
    | refine keeps_ite ?_ ?_
    | refine forwardChecked_keeps ?_
    | refine uPlane_keeps ?_
    | refine oneWayDelay_keeps ?_
    | refine mqPush_keeps ?_
    | refine countLane_keeps ?_
    | refine keeps_of_eq1 (by assumption) ?_
    | refine keeps_of_eq2 (by assumption) ?_
    | refine keeps_of_eq12 (by assumption) ?_
    | intro _
    | split)

theorem execEthernetFrameReceive_keeps {a1 a2 a3 a4 a5} (h : Keeps q s) : KeepsR q (execEthernetFrameReceive a1 a2 a3 a4 a5 s) := by
  unfold execEthernetFrameReceive
  with_reducible repeat' (first
    | assumption
    | (extract_lets +onlyGivenNames x; revert x; intro _)
    | refine keepsR_next ?_
    | refine keepsR_fault _
    | refine keepsR_refused _
    | refine keepsR_ite ?_ ?_
    | refine keeps_ite ?_ ?_
    | refine countLane_keeps ?_
    | refine handleFrame_keeps ?_
    | refine cvuFrame_keeps ?_
    | refine atDt_keeps ?_)

theorem execForwardedFrameEgress_keeps {a1 a2} (h : Keeps q s) : KeepsR q (execForwardedFrameEgress a1 a2 s) := by
  unfold execForwardedFrameEgress
  with_reducible repeat' (first
    | assumption
    | (extract_lets +onlyGivenNames x; refine keeps_step (q := q) (x := x) ?_ ?_; (on_goal 1 => (dsimp -zeta only [x]; clear x)); (on_goal 2 => (clear_value x; revert x; intro _ _)))
    | (extract_lets +onlyGivenNames x; revert x; intro _)
    | refine keepsR_next ?_
    | refine keepsR_fault _
    | refine keepsR_refused _
    | refine keepsR_ite ?_ ?_
    | refine keeps_ite ?_ ?_
    | refine atDt_keeps ?_
    | refine setLane_keeps ?_
    | refine countLane_keeps ?_
    | refine sendFrame_keeps ?_
    | refine addF_keeps ?_
    | refine keeps_of_eq1 (by assumption) ?_
    | refine keeps_of_eq2 (by assumption) ?_
    | refine keeps_of_eq12 (by assumption) ?_
    | intro _
    | split)

theorem execOneWayDelayRequest_keeps {a1 a2 a3} (h : Keeps q s) : KeepsR q (execOneWayDelayRequest a1 a2 a3 s) := by
  unfold execOneWayDelayRequest
  with_reducible repeat' (first
    | assumption
    | (extract_lets +onlyGivenNames x; refine keeps_step (q := q) (x := x) ?_ ?_; (on_goal 1 => (dsimp -zeta only [x]; clear x)); (on_goal 2 => (clear_value x; revert x; intro _ _)))
    | (extract_lets +onlyGivenNames x; revert x; intro _)
    | refine keepsR_next ?_
    | refine keepsR_fault _
    | refine keepsR_refused _
    | refine keepsR_ite ?_ ?_
    | refine keeps_ite ?_ ?_
    | refine oneWayDelay_keeps ?_
    | refine cvuEcpri_keeps ?_
    | refine atDt_keeps ?_
    | refine keeps_of_eq1 (by assumption) ?_
    | refine keeps_of_eq2 (by assumption) ?_
    | refine keeps_of_eq12 (by assumption) ?_
    | intro _
    | split
    | (dsimp -zeta +zetaDelta only; split)
    | (constructor <;> dsimp only <;> first | exact Keeps.queue ‹_› | exact Keeps.mem ‹_› | exact Keeps.regs ‹_› | exact Keeps.ns ‹_› | exact Keeps.load ‹_›))

theorem writeOpReq_keeps {a1 a2} (h : Keeps q s) : Keeps q (writeOpReq s a1 a2) := by
  unfold writeOpReq
  with_reducible repeat' (first
    | assumption
    | (extract_lets +onlyGivenNames x; refine keeps_step (q := q) (x := x) ?_ ?_; (on_goal 1 => (dsimp -zeta only [x]; clear x)); (on_goal 2 => (clear_value x; revert x; intro _ _)))
    | (extract_lets +onlyGivenNames x; refine keeps_step1 (q := q) (x := x) ?_ ?_; (on_goal 1 => (dsimp -zeta only [x]; clear x)); (on_goal 2 => (clear_value x; revert x; intro _ _)))
    | (extract_lets +onlyGivenNames x; revert x; intro _) | refine keeps_ite ?_ ?_ | refine raiseOp_keeps ?_
    | refine lowerOps_keeps ?_ | refine setF_keeps ?_ | refine refuseCl_keeps ?_
    | (constructor <;> dsimp only <;> first | exact Keeps.queue ‹_› | exact Keeps.mem ‹_› | exact Keeps.regs ‹_› | exact Keeps.ns ‹_› | exact Keeps.load ‹_›))

theorem execOpReqWrite_keeps {a1 a2} (h : Keeps q s) : KeepsR q (execOpReqWrite a1 a2 s) := by
  unfold execOpReqWrite
  with_reducible repeat' (first
    | assumption | refine keepsR_next ?_ | refine keeps_ite ?_ ?_
    | refine writeOpReq_keeps ?_)

theorem execPerstN_keeps {a1} (h : Keeps q s) : KeepsR q (execPerstN a1 s) := by
  unfold execPerstN
  with_reducible repeat' (first
    | assumption
    | (extract_lets +onlyGivenNames x; refine keeps_step (q := q) (x := x) ?_ ?_; (on_goal 1 => (dsimp -zeta only [x]; clear x)); (on_goal 2 => (clear_value x; revert x; intro _ _)))
    | refine keepsR_next ?_ | refine keepsR_ite ?_ ?_ | refine setBudget_keeps ?_
    | refine setF_keeps ?_ | refine functionReset_keeps ?_
    | (constructor <;> dsimp only <;> first | exact Keeps.queue ‹_› | exact Keeps.mem ‹_› | exact Keeps.regs ‹_› | exact Keeps.ns ‹_› | exact Keeps.load ‹_›))

theorem refreshRail_keeps {a1} (h : Keeps q s) : Keeps q (refreshRail s a1) := by
  unfold refreshRail
  with_reducible repeat' (first | assumption | refine refresh_keeps ?_ | split)

theorem railError_keeps {a1} (h : Keeps q s) : Keeps q (railError s a1) := by
  unfold railError
  with_reducible repeat' (first
    | assumption
    | (extract_lets +onlyGivenNames x; refine keeps_step (q := q) (x := x) ?_ ?_; (on_goal 1 => (dsimp -zeta only [x]; clear x)); (on_goal 2 => (clear_value x; revert x; intro _ _)))
    | refine setF_keeps ?_ | refine refreshRail_keeps ?_ | split)

theorem execPmbAlert_keeps {a1} (h : Keeps q s) : KeepsR q (execPmbAlert a1 s) := by
  unfold execPmbAlert
  with_reducible repeat' (first | assumption | refine keepsR_next ?_ | refine railError_keeps ?_)

theorem execPmbusTransaction_keeps {a1 a2} (h : Keeps q s) : KeepsR q (execPmbusTransaction a1 a2 s) := by
  unfold execPmbusTransaction
  with_reducible repeat' (first
    | assumption
    | (extract_lets +onlyGivenNames x; refine keeps_step (q := q) (x := x) ?_ ?_; (on_goal 1 => (dsimp -zeta only [x]; clear x)); (on_goal 2 => (clear_value x; revert x; intro _ _)))
    | (extract_lets +onlyGivenNames x; revert x; intro _)
    | refine keepsR_next ?_
    | refine keepsR_fault _
    | refine keepsR_refused _
    | refine keepsR_ite ?_ ?_
    | refine keeps_ite ?_ ?_
    | refine setF_keeps ?_
    | refine emit_keeps ?_
    | refine railError_keeps ?_
    | refine keeps_of_eq1 (by assumption) ?_
    | refine keeps_of_eq2 (by assumption) ?_
    | refine keeps_of_eq12 (by assumption) ?_
    | intro _
    | split
    | (dsimp -zeta +zetaDelta only; split)
    | (constructor <;> dsimp only <;> first | exact Keeps.queue ‹_› | exact Keeps.mem ‹_› | exact Keeps.regs ‹_› | exact Keeps.ns ‹_› | exact Keeps.load ‹_›))

theorem loseKeyStore_keeps (h : Keeps q s) : Keeps q (loseKeyStore s) := by
  unfold loseKeyStore
  with_reducible repeat' (first
    | assumption | refine fun (_ : Keeps q _) => ?_ | (extract_lets +onlyGivenNames x; revert x; intro _)
    | refine keeps_foldl ?_ _ ?_ | refine setF_keeps ?_ | intro _
    | (constructor <;> dsimp only <;> first | exact Keeps.queue ‹_› | exact Keeps.mem ‹_› | exact Keeps.regs ‹_› | exact Keeps.ns ‹_› | exact Keeps.load ‹_›))

theorem execPorNRelease_keeps {a1 a2} (h : Keeps q s) : KeepsR q (execPorNRelease a1 a2 s) := by
  unfold execPorNRelease
  with_reducible repeat' (first
    | assumption | refine keepsR_next ?_ | refine keeps_ite ?_ ?_
    | refine keepsR_ite ?_ ?_ | refine loseKeyStore_keeps ?_ | refine takeFree_keeps ?_
    | refine chipReset_keeps ?_)

theorem execPulse_keeps {a1} (h : Keeps q s) : KeepsR q (execPulse a1 s) := by
  unfold execPulse
  with_reducible repeat' (first
    | assumption | refine keepsR_next ?_ | refine keeps_ite ?_ ?_
    | refine edgeWake_keeps ?_)

theorem quadrantReset_keeps {a1} (h : Keeps q s) : Keeps q (quadrantReset s a1) := by
  unfold quadrantReset
  with_reducible repeat' (first
    | assumption
    | refine fun (_ : Keeps q _) => ?_
    | (extract_lets +onlyGivenNames x; refine keeps_step (q := q) (x := x) ?_ ?_; (on_goal 1 => (dsimp -zeta only [x]; clear x)); (on_goal 2 => (clear_value x; revert x; intro _ _)))
    | (extract_lets +onlyGivenNames x; refine keeps_step1 (q := q) (x := x) ?_ ?_; (on_goal 1 => (dsimp -zeta only [x]; clear x)); (on_goal 2 => (clear_value x; revert x; intro _ _)))
    | (extract_lets +onlyGivenNames x; refine keeps_step2 (q := q) (x := x) ?_ ?_; (on_goal 1 => (dsimp -zeta only [x]; clear x)); (on_goal 2 => (clear_value x; revert x; intro _ _)))
    | (extract_lets +onlyGivenNames x; revert x; intro _)
    | refine keeps_ite ?_ ?_
    | refine keeps_foldl ?_ _ ?_
    | refine keeps_foldl1 ?_ _ ?_
    | refine clearQuadUnits_keeps ?_
    | refine dropQuadWork_keeps ?_
    | refine resetRegs_keeps ?_
    | refine decommit_keeps ?_
    | refine setF_keeps ?_
    | refine voutCommand_keeps ?_
    | refine bootTiles_keeps ?_
    | refine abortLoad_keeps ?_
    | refine refreshAll_keeps ?_
    | refine keeps_of_eq1 (by assumption) ?_
    | refine keeps_of_eq2 (by assumption) ?_
    | refine keeps_of_eq12 (by assumption) ?_
    | intro _
    | split
    | (dsimp -zeta +zetaDelta only; split)
    | (constructor <;> dsimp only <;> first | exact Keeps.queue ‹_› | exact Keeps.mem ‹_› | exact Keeps.regs ‹_› | exact Keeps.ns ‹_› | exact Keeps.load ‹_›))

theorem startReinit_keeps {a1 a2} (h : Keeps q s) : Keeps q (startReinit s a1 a2) := by
  unfold startReinit
  with_reducible repeat' (first
    | assumption
    | (extract_lets +onlyGivenNames x; refine keeps_step (q := q) (x := x) ?_ ?_; (on_goal 1 => (dsimp -zeta only [x]; clear x)); (on_goal 2 => (clear_value x; revert x; intro _ _)))
    | (extract_lets +onlyGivenNames x; revert x; intro _) | refine keeps_ite ?_ ?_ | refine report_keeps ?_
    | refine setQuad_keeps ?_ | refine intPulse_keeps ?_ | refine quadrantReset_keeps ?_
    | refine addF_keeps ?_ | refine setF_keeps ?_ | refine setBitF_keeps ?_)

theorem writeTarget_keeps {a1 a2} (h : Keeps q s) : Keeps q (writeTarget s a1 a2) := by
  unfold writeTarget
  with_reducible repeat' (first
    | assumption
    | (extract_lets +onlyGivenNames x; refine keeps_step (q := q) (x := x) ?_ ?_; (on_goal 1 => (dsimp -zeta only [x]; clear x)); (on_goal 2 => (clear_value x; revert x; intro _ _)))
    | (extract_lets +onlyGivenNames x; revert x; intro _) | refine keeps_ite ?_ ?_ | refine requestActive_keeps ?_
    | refine setQuad_keeps ?_ | refine quadrantReset_keeps ?_ | refine setF_keeps ?_
    | refine bootQuad_keeps ?_ | refine refuseQuad_keeps ?_ | split)

theorem writeClCtl_keeps {a1 a2} (h : Keeps q s) : Keeps q (writeClCtl s a1 a2) := by
  unfold writeClCtl
  with_reducible repeat' (first
    | assumption
    | (extract_lets +onlyGivenNames x; refine keeps_step (q := q) (x := x) ?_ ?_; (on_goal 1 => (dsimp -zeta only [x]; clear x)); (on_goal 2 => (clear_value x; revert x; intro _ _)))
    | refine keeps_ite ?_ ?_ | refine setF_keeps ?_ | refine writeOpReq_keeps ?_
    | refine wakeEvent_keeps ?_)

theorem startRetry_keeps {a1} (h : Keeps q s) : Keeps q (startRetry s a1) := by
  unfold startRetry
  with_reducible repeat' (first | assumption | (extract_lets +onlyGivenNames x; revert x; intro _) | refine setCl_keeps ?_)

theorem retryWake_keeps {a1} (h : Keeps q s) : Keeps q (retryWake s a1) := by
  unfold retryWake
  with_reducible repeat' (first
    | assumption | (extract_lets +onlyGivenNames x; revert x; intro _) | refine keeps_ite ?_ ?_
    | refine startRetry_keeps ?_ | refine setCl_keeps ?_)

theorem writeClCmd_keeps {a1 a2} (h : Keeps q s) : Keeps q (writeClCmd s a1 a2) := by
  unfold writeClCmd
  with_reducible repeat' (first
    | assumption
    | (extract_lets +onlyGivenNames x; refine keeps_step (q := q) (x := x) ?_ ?_; (on_goal 1 => (dsimp -zeta only [x]; clear x)); (on_goal 2 => (clear_value x; revert x; intro _ _)))
    | refine keeps_ite ?_ ?_ | refine edgeWake_keeps ?_ | refine setF_keeps ?_
    | refine retryWake_keeps ?_ | refine wakeEvent_keeps ?_)

theorem execQuadrantBoot_keeps {a1 a2} (h : Keeps q s) : KeepsR q (execQuadrantBoot a1 a2 s) := by
  unfold execQuadrantBoot
  extract_lets x done
  have hd : ∀ t b, Keeps q t → Keeps q (done t b) := by
    intro t b ht
    dsimp only [done]
    split
    · exact setF_keeps ht
    · exact intPulse_keeps (setF_keeps (setF_keeps ht))
  clear_value done
  split
  · exact keepsR_next (hd _ _ (setQuad_keeps h))
  · have h1 : Keeps q { s with boot := { s.boot with quads := s.boot.quads + 2 ^ a1.val } } := keeps_congr h rfl rfl rfl rfl rfl
    refine keepsR_ite ?_ (keepsR_next h)
    refine keepsR_next (hd _ _ ?_)
    exact keeps_ite (bootStep_keeps h1) h1

theorem sleepAll_keeps {a1} (h : Keeps q s) : Keeps q (sleepAll s a1) := by
  unfold sleepAll
  with_reducible repeat' (first
    | assumption | refine fun (_ : Keeps q _) => ?_ | (extract_lets +onlyGivenNames x; revert x; intro _)
    | refine keeps_ite ?_ ?_ | refine keeps_foldl ?_ _ ?_ | refine setCl_keeps ?_
    | refine setF_keeps ?_ | intro _)

theorem execQuadrantEntryComplete_keeps {a1} (h : Keeps q s) : KeepsR q (execQuadrantEntryComplete a1 s) := by
  unfold execQuadrantEntryComplete
  with_reducible repeat' (first
    | assumption
    | (extract_lets +onlyGivenNames x; refine keeps_step (q := q) (x := x) ?_ ?_; (on_goal 1 => (dsimp -zeta only [x]; clear x)); (on_goal 2 => (clear_value x; revert x; intro _ _)))
    | (extract_lets +onlyGivenNames x; revert x; intro _) | refine keepsR_next ?_ | refine keeps_ite ?_ ?_
    | refine keepsR_ite ?_ ?_ | refine requestActive_keeps ?_ | refine setQuad_keeps ?_
    | refine retarget_keeps ?_ | refine sleepAll_keeps ?_ | refine setF_keeps ?_
    | refine bootQuad_keeps ?_ | split)

theorem execQuadrantReinitialisation_keeps {a1 a2} (h : Keeps q s) : KeepsR q (execQuadrantReinitialisation a1 a2 s) := by
  unfold execQuadrantReinitialisation
  with_reducible repeat' (first
    | assumption | refine keepsR_next ?_ | refine keeps_ite ?_ ?_
    | refine endReinit_keeps ?_ | refine startReinit_keeps ?_ | split)

theorem execQuadrantReset_keeps {a1} (h : Keeps q s) : KeepsR q (execQuadrantReset a1 s) := by
  unfold execQuadrantReset
  with_reducible repeat' (first | assumption | refine keepsR_next ?_ | refine startReinit_keeps ?_)

theorem execQuadrantTargetWrite_keeps {a1 a2} (h : Keeps q s) : KeepsR q (execQuadrantTargetWrite a1 a2 s) := by
  unfold execQuadrantTargetWrite
  with_reducible repeat' (first | assumption | refine keepsR_next ?_ | refine writeTarget_keeps ?_)

theorem execQuadrantWakeComplete_keeps {a1} (h : Keeps q s) : KeepsR q (execQuadrantWakeComplete a1 s) := by
  unfold execQuadrantWakeComplete
  with_reducible repeat' (first
    | assumption | (extract_lets +onlyGivenNames x; revert x; intro _) | refine keepsR_next ?_
    | refine keeps_ite ?_ ?_ | refine setQuad_keeps ?_ | refine setF_keeps ?_)

theorem execReinitialisationRecordWrite_keeps {a1 a2} (h : Keeps q s) : KeepsR q (execReinitialisationRecordWrite a1 a2 s) := by
  unfold execReinitialisationRecordWrite
  with_reducible repeat' (first
    | assumption
    | (extract_lets +onlyGivenNames x; refine keeps_step (q := q) (x := x) ?_ ?_; (on_goal 1 => (dsimp -zeta only [x]; clear x)); (on_goal 2 => (clear_value x; revert x; intro _ _)))
    | (extract_lets +onlyGivenNames x; revert x; intro _)
    | refine keepsR_next ?_
    | refine keepsR_fault _
    | refine keepsR_refused _
    | refine keepsR_ite ?_ ?_
    | refine keeps_ite ?_ ?_
    | refine atDt_keeps ?_
    | refine setQuad_keeps ?_
    | refine loseRecord_keeps ?_
    | refine withMirror_keeps ?_ ?_
    | refine queueRec_keeps ?_
    | refine keeps_of_eq1 (by assumption) ?_
    | refine keeps_of_eq2 (by assumption) ?_
    | refine keeps_of_eq12 (by assumption) ?_
    | intro _
    | split
    | (dsimp -zeta +zetaDelta only; split)
    | (constructor <;> dsimp only <;> first | exact Keeps.queue ‹_› | exact Keeps.mem ‹_› | exact Keeps.regs ‹_› | exact Keeps.ns ‹_› | exact Keeps.load ‹_›))

theorem execRetry_keeps {a1} (h : Keeps q s) : KeepsR q (execRetry a1 s) := by
  unfold execRetry
  with_reducible repeat' (first
    | assumption | refine keepsR_next ?_ | refine keeps_ite ?_ ?_
    | refine retryWake_keeps ?_)

theorem laneReset_keeps {a1} (h : Keeps q s) : Keeps q (laneReset s a1) := by
  unfold laneReset
  with_reducible repeat' (first
    | assumption | refine fun (_ : Keeps q _) => ?_ | refine keeps_foldl ?_ _ ?_
    | refine disableLane_keeps ?_ | refine setF_keeps ?_ | refine refresh_keeps ?_ | intro _)

theorem execSupplyReset_keeps {a1 a2 a3} (h : Keeps q s) : KeepsR q (execSupplyReset a1 a2 a3 s) := by
  unfold execSupplyReset
  with_reducible repeat' (first
    | assumption | (extract_lets +onlyGivenNames x; revert x; intro _) | refine keepsR_next ?_
    | refine keeps_ite ?_ ?_ | refine keepsR_ite ?_ ?_ | refine laneReset_keeps ?_
    | refine startReinit_keeps ?_ | refine chipReset_keeps ?_ | split)

theorem execSupplyWarning_keeps {a1 a2 a3} (h : Keeps q s) : KeepsR q (execSupplyWarning a1 a2 a3 s) := by
  unfold execSupplyWarning
  with_reducible repeat' (first
    | assumption
    | (extract_lets +onlyGivenNames x; refine keeps_step (q := q) (x := x) ?_ ?_; (on_goal 1 => (dsimp -zeta only [x]; clear x)); (on_goal 2 => (clear_value x; revert x; intro _ _)))
    | (extract_lets +onlyGivenNames x; revert x; intro _) | refine keepsR_next ?_ | refine keeps_ite ?_ ?_
    | refine keepsR_ite ?_ ?_ | refine report_keeps ?_ | refine autoStep_keeps ?_
    | refine refresh_keeps ?_ | refine setBitF_keeps ?_ | split)

theorem sensorRead_keeps {a1} (h : Keeps q s) : Keeps q (sensorRead s a1) := by
  unfold sensorRead
  with_reducible repeat' (first
    | assumption
    | (extract_lets +onlyGivenNames x; refine keeps_step (q := q) (x := x) ?_ ?_; (on_goal 1 => (dsimp -zeta only [x]; clear x)); (on_goal 2 => (clear_value x; revert x; intro _ _)))
    | (extract_lets +onlyGivenNames x; revert x; intro _) | refine keeps_ite ?_ ?_ | refine report_keeps ?_
    | refine refresh_keeps ?_ | refine setBitF_keeps ?_ | split | (dsimp -zeta +zetaDelta only; split)
    | (constructor <;> dsimp only <;> first | exact Keeps.queue ‹_› | exact Keeps.mem ‹_› | exact Keeps.regs ‹_› | exact Keeps.ns ‹_› | exact Keeps.load ‹_›))

theorem execThermalRead_keeps {a1 a2 a3 a4 a5} (h : Keeps q s) : KeepsR q (execThermalRead a1 a2 a3 a4 a5 s) := by
  unfold execThermalRead
  with_reducible repeat' (first
    | assumption | refine fun (_ : Keeps q _) => ?_
    | (extract_lets +onlyGivenNames x; refine keeps_step (q := q) (x := x) ?_ ?_; (on_goal 1 => (dsimp -zeta only [x]; clear x)); (on_goal 2 => (clear_value x; revert x; intro _ _)))
    | refine keepsR_next ?_ | refine keeps_foldl ?_ _ ?_ | refine setF_keeps ?_
    | refine sensorRead_keeps ?_ | intro _)

theorem execThermalTrip_keeps {a1} (h : Keeps q s) : KeepsR q (execThermalTrip a1 s) := by
  unfold execThermalTrip
  with_reducible repeat' (first
    | assumption | refine keepsR_next ?_ | refine keepsR_ite ?_ ?_
    | refine startReinit_keeps ?_ | refine chipReset_keeps ?_ | split)

theorem execUPlaneReceive_keeps {a1 a2 a3} (h : Keeps q s) : KeepsR q (execUPlaneReceive a1 a2 a3 s) := by
  unfold execUPlaneReceive
  with_reducible repeat' (first
    | assumption
    | (extract_lets +onlyGivenNames x; refine keeps_step (q := q) (x := x) ?_ ?_; (on_goal 1 => (dsimp -zeta only [x]; clear x)); (on_goal 2 => (clear_value x; revert x; intro _ _)))
    | (extract_lets +onlyGivenNames x; revert x; intro _)
    | refine keepsR_next ?_
    | refine keepsR_fault _
    | refine keepsR_refused _
    | refine keepsR_ite ?_ ?_
    | refine keeps_ite ?_ ?_
    | refine uPlane_keeps ?_
    | refine cvuEcpri_keeps ?_
    | refine atDt_keeps ?_
    | refine keeps_of_eq1 (by assumption) ?_
    | refine keeps_of_eq2 (by assumption) ?_
    | refine keeps_of_eq12 (by assumption) ?_
    | intro _
    | split
    | (dsimp -zeta +zetaDelta only; split)
    | (constructor <;> dsimp only <;> first | exact Keeps.queue ‹_› | exact Keeps.mem ‹_› | exact Keeps.regs ‹_› | exact Keeps.ns ‹_› | exact Keeps.load ‹_›))

theorem sendPrbs_keeps {a1 a2 a3 a4 a5 a6 a7 a8} (h : Keeps q s) : Keeps q (sendPrbs a1 a2 a3 a4 a5 a6 a7 a8 s) := by
  induction a6 generalizing s a7 a8 with
  | zero => exact h
  | succ n ih =>
    unfold sendPrbs
    dsimp only
    exact keeps_ite h (ih (sendEcpri_keeps (nextSeq_keeps h)))

theorem sendSymbol_keeps {a1 a2 a3 a4 a5} (h : Keeps q s) : Keeps q (sendSymbol a1 a2 a3 a4 s a5) := by
  unfold sendSymbol
  with_reducible repeat' (first
    | assumption
    | (extract_lets +onlyGivenNames x; refine keeps_step (q := q) (x := x) ?_ ?_; (on_goal 1 => (dsimp -zeta only [x]; clear x)); (on_goal 2 => (clear_value x; revert x; intro _ _)))
    | (extract_lets +onlyGivenNames x; refine keeps_stepE (q := q) (x := x) ?_ ?_; (on_goal 1 => (dsimp -zeta only [x]; clear x)); (on_goal 2 => (clear_value x; revert x; intro _ _)))
    | (extract_lets +onlyGivenNames x; refine keeps_stepE2 (q := q) (x := x) ?_ ?_; (on_goal 1 => (dsimp -zeta only [x]; clear x)); (on_goal 2 => (clear_value x; revert x; intro _ _)))
    | (extract_lets +onlyGivenNames x; revert x; intro _)
    | refine keeps_ite ?_ ?_
    | refine engRead_keeps ?_
    | refine engOpen_keeps ?_
    | refine wrMem_keeps ?_
    | refine countLane_keeps ?_
    | refine addF_keeps ?_
    | refine sendPrbs_keeps ?_
    | refine keeps_of_eq1 (by assumption) ?_
    | refine keeps_of_eq2 (by assumption) ?_
    | refine keeps_of_eq12 (by assumption) ?_
    | refine keeps_of_eqE1 (by assumption) ?_
    | refine keeps_of_eqE2 (by assumption) ?_
    | refine keeps_of_eqE3 (by assumption) ?_
    | intro _
    | split
    | (dsimp -zeta +zetaDelta only; split)
    | (constructor <;> dsimp only <;> first | exact Keeps.queue ‹_› | exact Keeps.mem ‹_› | exact Keeps.regs ‹_› | exact Keeps.ns ‹_› | exact Keeps.load ‹_›))

theorem execUPlaneSend_keeps {a1 a2 a3} (h : Keeps q s) : KeepsR q (execUPlaneSend a1 a2 a3 s) := by
  unfold execUPlaneSend
  with_reducible repeat' (first
    | assumption | refine fun (_ : Keeps q _) => ?_ | (extract_lets +onlyGivenNames x; revert x; intro _)
    | refine keepsR_next ?_ | refine keepsR_ite ?_ ?_ | refine keeps_foldl ?_ _ ?_
    | refine sendSymbol_keeps ?_ | intro _ | split)

theorem failRaises_keeps {a1} (h : Keeps q s) : Keeps q (failRaises s a1) := by
  unfold failRaises
  with_reducible repeat' (first
    | assumption | refine fun (_ : Keeps q _) => ?_
    | (extract_lets +onlyGivenNames x; refine keeps_step (q := q) (x := x) ?_ ?_; (on_goal 1 => (dsimp -zeta only [x]; clear x)); (on_goal 2 => (clear_value x; revert x; intro _ _)))
    | (extract_lets +onlyGivenNames x; revert x; intro _) | refine keeps_ite ?_ ?_ | refine keeps_foldl ?_ _ ?_
    | refine setF_keeps ?_ | refine refuseCl_keeps ?_ | intro _
    | (constructor <;> dsimp only <;> first | exact Keeps.queue ‹_› | exact Keeps.mem ‹_› | exact Keeps.regs ‹_› | exact Keeps.ns ‹_› | exact Keeps.load ‹_›))

theorem unsettled_keeps {a1 a2} (h : Keeps q s) : Keeps q (unsettled s a1 a2) := by
  unfold unsettled
  with_reducible repeat' (first
    | assumption
    | (extract_lets +onlyGivenNames x; refine keeps_step (q := q) (x := x) ?_ ?_; (on_goal 1 => (dsimp -zeta only [x]; clear x)); (on_goal 2 => (clear_value x; revert x; intro _ _)))
    | (extract_lets +onlyGivenNames x; revert x; intro _)
    | refine keeps_ite ?_ ?_
    | refine setF_keeps ?_
    | refine voutCommand_keeps ?_
    | refine refreshRail_keeps ?_
    | refine failRaises_keeps ?_
    | refine lowerOps_keeps ?_
    | refine keeps_of_eq1 (by assumption) ?_
    | refine keeps_of_eq2 (by assumption) ?_
    | refine keeps_of_eq12 (by assumption) ?_
    | intro _
    | split
    | (dsimp -zeta +zetaDelta only; split)
    | (constructor <;> dsimp only <;> first | exact Keeps.queue ‹_› | exact Keeps.mem ‹_› | exact Keeps.regs ‹_› | exact Keeps.ns ‹_› | exact Keeps.load ‹_›))

theorem execVoltageSettled_keeps {a1 a2 a3} (h : Keeps q s) : KeepsR q (execVoltageSettled a1 a2 a3 s) := by
  unfold execVoltageSettled
  with_reducible repeat' (first
    | assumption
    | (extract_lets +onlyGivenNames x; refine keeps_step (q := q) (x := x) ?_ ?_; (on_goal 1 => (dsimp -zeta only [x]; clear x)); (on_goal 2 => (clear_value x; revert x; intro _ _)))
    | (extract_lets +onlyGivenNames x; revert x; intro _) | refine keepsR_next ?_ | refine keepsR_ite ?_ ?_
    | refine unsettled_keeps ?_ | refine setF_keeps ?_ | refine completeRaises_keeps ?_ | split
    | (constructor <;> dsimp only <;> first | exact Keeps.queue ‹_› | exact Keeps.mem ‹_› | exact Keeps.regs ‹_› | exact Keeps.ns ‹_› | exact Keeps.load ‹_›))

theorem execWakeFailure_keeps {a1} (h : Keeps q s) : KeepsR q (execWakeFailure a1 s) := by
  unfold execWakeFailure
  with_reducible repeat' (first
    | assumption
    | refine fun (_ : Keeps q _) => ?_
    | (extract_lets +onlyGivenNames x; refine keeps_step (q := q) (x := x) ?_ ?_; (on_goal 1 => (dsimp -zeta only [x]; clear x)); (on_goal 2 => (clear_value x; revert x; intro _ _)))
    | (extract_lets +onlyGivenNames x; refine keeps_step1 (q := q) (x := x) ?_ ?_; (on_goal 1 => (dsimp -zeta only [x]; clear x)); (on_goal 2 => (clear_value x; revert x; intro _ _)))
    | (extract_lets +onlyGivenNames x; refine keeps_step2 (q := q) (x := x) ?_ ?_; (on_goal 1 => (dsimp -zeta only [x]; clear x)); (on_goal 2 => (clear_value x; revert x; intro _ _)))
    | (extract_lets +onlyGivenNames x; revert x; intro _)
    | refine keepsR_next ?_
    | refine keepsR_fault _
    | refine keepsR_refused _
    | refine keepsR_ite ?_ ?_
    | refine keeps_ite ?_ ?_
    | refine keeps_foldl ?_ _ ?_
    | refine keeps_foldl1 ?_ _ ?_
    | refine setCl_keeps ?_
    | refine setF_keeps ?_
    | refine intPulse_keeps ?_
    | refine addF_keeps ?_
    | refine mapJobs_keeps ?_
    | refine report_keeps ?_
    | refine resourceLost_keeps ?_
    | refine startRetry_keeps ?_
    | refine keeps_of_eq1 (by assumption) ?_
    | refine keeps_of_eq2 (by assumption) ?_
    | refine keeps_of_eq12 (by assumption) ?_
    | intro _
    | split)

end Sys2Proof.Machine
end

