-- ==== Sys2Proof/Laws/KeepsTile.lean ====
section
/-!
SUPPORT. That every operation and command's meaning keeps what Keeps names: the laws of the tiles: every instruction of the tile cores.
-/

namespace Sys2Proof.Machine

set_option Elab.async false

variable {q : Kept} {s : State}

theorem cleanMasked_keeps {a1 a2 a3 a4} (h : Keeps q s) : Keeps q (cleanMasked s a1 a2 a3 a4) := by
  unfold cleanMasked
  with_reducible repeat' (first
    | assumption
    | refine fun (_ : Keeps q _) => ?_
    | (extract_lets +onlyGivenNames x; revert x; intro _)
    | refine keeps_ite ?_ ?_
    | refine keeps_foldl ?_ _ ?_
    | refine keeps_foldl1 ?_ _ ?_
    | refine putErr_keeps ?_
    | refine setPoison_keeps ?_
    | refine settlePart_keeps ?_
    | refine keeps_of_eq1 (by assumption) ?_
    | refine keeps_of_eq2 (by assumption) ?_
    | refine keeps_of_eq12 (by assumption) ?_
    | intro _)

theorem vmStore_keeps {a1 a2 a3 a4 a5 a6 a7} (h : Keeps q s) : Keeps q (vmStore s a1 a2 a3 a4 a5 a6 a7) := by
  unfold vmStore
  extract_lets w a v mask n s1
  have h1 : Keeps q s1 := cleanMasked_keeps h
  clear_value s1
  exact ⟨h1.queue, wfIf_putMasked _ _ _ _ _ _ _ h1.mem, h1.regs, h1.ns, h1.load⟩

theorem completeBelow_keeps {a1 a2 a3 a4 a5} (h : Keeps q s) : Keeps q (completeBelow s a1 a2 a3 a4 a5).1 := by
  unfold completeBelow
  with_reducible repeat' (first
    | assumption
    | (extract_lets +onlyGivenNames x; refine keeps_step (q := q) (x := x) ?_ ?_; (on_goal 1 => (dsimp -zeta only [x]; clear x)); (on_goal 2 => (clear_value x; revert x; intro _ _)))
    | (extract_lets +onlyGivenNames x; revert x; intro _)
    | refine keeps_ite ?_ ?_
    | refine vmStore_keeps ?_
    | refine settleAt_keeps ?_
    | refine keeps_of_eq1 (by assumption) ?_
    | refine keeps_of_eq2 (by assumption) ?_
    | refine keeps_of_eq12 (by assumption) ?_
    | intro _
    | split
    | (dsimp -zeta +zetaDelta only; split)
    | (constructor <;> dsimp only <;> first | exact Keeps.queue ‹_› | exact Keeps.mem ‹_› | exact Keeps.regs ‹_› | exact Keeps.ns ‹_› | exact Keeps.load ‹_›))

theorem raiseFault_keeps {a1 a2 a3 a4 a5 a6 a7 a8} (h : Keeps q s) : Keeps q (raiseFault s a1 a2 a3 a4 a5 a6 a7 a8) := by
  unfold raiseFault
  with_reducible repeat' (first
    | assumption
    | (extract_lets +onlyGivenNames x; refine keeps_step (q := q) (x := x) ?_ ?_; (on_goal 1 => (dsimp -zeta only [x]; clear x)); (on_goal 2 => (clear_value x; revert x; intro _ _)))
    | refine keeps_ite ?_ ?_
    | refine failTileJob_keeps ?_
    | refine settle_keeps ?_
    | refine completeBelow_keeps ?_
    | refine setTile_keeps ?_
    | refine keeps_of_eq1 (by assumption) ?_
    | refine keeps_of_eq2 (by assumption) ?_
    | refine keeps_of_eq12 (by assumption) ?_
    | intro _
    | split)

theorem scExec_keeps {a1 a2 a3 a4 a5 a6 a7 a8 a9} (h : Keeps q s) : Keeps q (scExec s a1 a2 a3 a4 a5 a6 a7 a8 a9).1 := by
  unfold scExec
  with_reducible repeat' (first | assumption | (extract_lets +onlyGivenNames x; revert x; intro _) | refine cregRead_keeps ?_ | split)

theorem runSyls_keeps {a1 a2 a3 a4 a5} (h : Keeps q s) : Keeps q (runSyls a1 a2 a3 a4 s a5).1 := by
  induction a4 generalizing s a5 with
  | nil => exact h
  | cons b t ih =>
    unfold runSyls
    split
    · exact ih (scExec_keeps h)
    · exact ih (lsSettle_keeps h)
    · exact ih h

theorem storeReg_keeps {a1 a2 a3} (h : Keeps q s) : Keeps q (storeReg s a1 a2 a3) := by
  unfold storeReg
  with_reducible repeat' (first
    | assumption | refine keeps_ite ?_ ?_ | refine writeDma_keeps ?_
    | refine writeCvu_keeps ?_ | refine writeMbox_keeps ?_ | refine postMbox_keeps ?_ | split)

theorem lsStore_keeps {a1 a2 a3 a4 a5 a6 a7 a8} (h : Keeps q s) : Keeps q (lsStore s a1 a2 a3 a4 a5 a6 a7 a8) := by
  unfold lsStore
  with_reducible repeat' (first
    | assumption | (extract_lets +onlyGivenNames x; revert x; intro _) | refine keeps_ite ?_ ?_
    | refine vmStore_keeps ?_ | refine storeReg_keeps ?_ | refine wrMem_keeps ?_ | split)

theorem storeSyls_keeps {a1 a2 a3} (h : Keeps q s) : Keeps q (storeSyls a1 a2 a3 s) := by
  unfold storeSyls
  with_reducible repeat' (first
    | assumption | refine fun (_ : Keeps q _) => ?_ | refine keeps_foldl ?_ _ ?_
    | refine lsStore_keeps ?_ | intro _ | split)

theorem issueNow_keeps {a1 a2 a3 a4 a5} (h : Keeps q s) : Keeps q (issueNow s a1 a2 a3 a4 a5) := by
  unfold issueNow
  with_reducible repeat' (first
    | assumption
    | (extract_lets +onlyGivenNames x; refine keeps_step (q := q) (x := x) ?_ ?_; (on_goal 1 => (dsimp -zeta only [x]; clear x)); (on_goal 2 => (clear_value x; revert x; intro _ _)))
    | (extract_lets +onlyGivenNames x; revert x; intro _) | refine endTile_keeps ?_ | refine runSyls_keeps ?_
    | refine setTile_keeps ?_ | refine storeSyls_keeps ?_ | refine keeps_of_eq1 (by assumption) ?_
    | split | (dsimp -zeta +zetaDelta only; split))

theorem landCregs_keeps {a1} (h : Keeps q s) : Keeps q (landCregs s a1).1 := by
  unfold landCregs
  with_reducible repeat' (first | assumption | (extract_lets +onlyGivenNames x; revert x; intro _) | refine landAll_keeps ?_)

theorem afterWaits_keeps {a1 a2 a3 a4 a5} (h : Keeps q s) : Keeps q (afterWaits s a1 a2 a3 a4 a5) := by
  unfold afterWaits
  with_reducible repeat' (first
    | assumption
    | refine keeps_ite ?_ ?_
    | refine takeFree_keeps ?_
    | refine setTile_keeps ?_
    | refine issueNow_keeps ?_
    | refine keeps_of_eq1 (by assumption) ?_
    | refine keeps_of_eq2 (by assumption) ?_
    | refine keeps_of_eq12 (by assumption) ?_
    | intro _
    | split)

theorem bundleFate_keeps {p : Nat} {t : Tile} {xs : List Placed} (h : Keeps q s) :
    (∀ x, bundleFate s p t xs = .stops x → Keeps q x) ∧ (∀ x u, bundleFate s p t xs = .passes x u → Keeps q x) := by
  unfold bundleFate
  split
  · exact ⟨fun x e => by cases e; exact memoryFault_keeps (setTile_keeps (readBad_keeps h)), fun x u e => by cases e⟩
  · dsimp only
    split
    · refine ⟨fun x e => ?_, fun x u e => by cases e⟩
      cases e
      refine memoryFault_keeps (setTile_keeps ?_)
      split
      · exact settle_keeps (fetchSettle_keeps h)
      · exact settleAt_keeps (fetchSettle_keeps h)
    · split
      · exact ⟨fun x e => by cases e; exact setTile_keeps (fetchSettle_keeps h), fun x u e => by cases e⟩
      · exact ⟨fun x e => by cases e; exact raiseFault_keeps (fetchSettle_keeps h), fun x u e => by cases e⟩
    · exact ⟨fun x e => (by cases e), fun x u e => (by cases e; exact land_keeps (fetchSettle_keeps h))⟩

theorem issueBundle_keeps {a1 a2} (h : Keeps q s) : Keeps q (issueBundle s a1 a2) := by
  unfold issueBundle
  extract_lets t xs mask
  have hb := fun (t : Tile) (xs : List Placed) => bundleFate_keeps (p := a1) (t := t) (xs := xs) h
  split
  · rename_i e; exact (hb _ _).1 _ e
  · rename_i x u e
    have hx := (hb _ _).2 _ _ e
    refine keeps_ite ?_ (keeps_ite (setTile_keeps h) (afterWaits_keeps hx))
    exact setTile_keeps (landCregs_keeps h)

theorem giveSyllable_keeps {a1 a2 a3} (h : Keeps q s) : Keeps q (giveSyllable a1 a2 a3 s) := by
  unfold giveSyllable
  with_reducible repeat' (first
    | assumption | (extract_lets +onlyGivenNames x; revert x; intro _) | refine keeps_ite ?_ ?_
    | refine issueBundle_keeps ?_ | refine setTile_keeps ?_)

theorem execAbs_keeps {a1 a2 a3} (h : Keeps q s) : KeepsR q (execAbs a1 a2 a3 s) := by
  unfold execAbs
  with_reducible repeat' (first | assumption | refine keepsR_next ?_ | refine giveSyllable_keeps ?_)

theorem execAdd_keeps {a1 a2 a3 a4} (h : Keeps q s) : KeepsR q (execAdd a1 a2 a3 a4 s) := by
  unfold execAdd
  with_reducible repeat' (first | assumption | refine keepsR_next ?_ | refine giveSyllable_keeps ?_)

theorem execAddi_keeps {a1 a2 a3 a4} (h : Keeps q s) : KeepsR q (execAddi a1 a2 a3 a4 s) := by
  unfold execAddi
  with_reducible repeat' (first | assumption | refine keepsR_next ?_ | refine giveSyllable_keeps ?_)

theorem execAnd_keeps {a1 a2 a3 a4} (h : Keeps q s) : KeepsR q (execAnd a1 a2 a3 a4 s) := by
  unfold execAnd
  with_reducible repeat' (first | assumption | refine keepsR_next ?_ | refine giveSyllable_keeps ?_)

theorem execBeqz_keeps {a1 a2 a3} (h : Keeps q s) : KeepsR q (execBeqz a1 a2 a3 s) := by
  unfold execBeqz
  with_reducible repeat' (first | assumption | refine keepsR_next ?_ | refine giveSyllable_keeps ?_)

theorem execBgez_keeps {a1 a2 a3} (h : Keeps q s) : KeepsR q (execBgez a1 a2 a3 s) := by
  unfold execBgez
  with_reducible repeat' (first | assumption | refine keepsR_next ?_ | refine giveSyllable_keeps ?_)

theorem execBgtz_keeps {a1 a2 a3} (h : Keeps q s) : KeepsR q (execBgtz a1 a2 a3 s) := by
  unfold execBgtz
  with_reducible repeat' (first | assumption | refine keepsR_next ?_ | refine giveSyllable_keeps ?_)

theorem execBlez_keeps {a1 a2 a3} (h : Keeps q s) : KeepsR q (execBlez a1 a2 a3 s) := by
  unfold execBlez
  with_reducible repeat' (first | assumption | refine keepsR_next ?_ | refine giveSyllable_keeps ?_)

theorem execBltz_keeps {a1 a2 a3} (h : Keeps q s) : KeepsR q (execBltz a1 a2 a3 s) := by
  unfold execBltz
  with_reducible repeat' (first | assumption | refine keepsR_next ?_ | refine giveSyllable_keeps ?_)

theorem execBnez_keeps {a1 a2 a3} (h : Keeps q s) : KeepsR q (execBnez a1 a2 a3 s) := by
  unfold execBnez
  with_reducible repeat' (first | assumption | refine keepsR_next ?_ | refine giveSyllable_keeps ?_)

theorem execBr_keeps {a1 a2} (h : Keeps q s) : KeepsR q (execBr a1 a2 s) := by
  unfold execBr
  with_reducible repeat' (first | assumption | refine keepsR_next ?_ | refine giveSyllable_keeps ?_)

theorem execBudgetExhausted_keeps {a1} (h : Keeps q s) : KeepsR q (execBudgetExhausted a1 s) := by
  unfold execBudgetExhausted
  with_reducible repeat' (first
    | assumption | (extract_lets +onlyGivenNames x; revert x; intro _) | refine keepsR_next ?_
    | refine keeps_ite ?_ ?_ | refine endTile_keeps ?_ | refine setTile_keeps ?_)

theorem execCall_keeps {a1 a2} (h : Keeps q s) : KeepsR q (execCall a1 a2 s) := by
  unfold execCall
  with_reducible repeat' (first | assumption | refine keepsR_next ?_ | refine giveSyllable_keeps ?_)

theorem scanBundle_keeps {a1 a2} (h : Keeps q s) : Keeps q (scanBundle s a1 a2) := by
  unfold scanBundle
  extract_lets xs
  refine keeps_ite h ?_
  split
  · rename_i e; exact (bundleFate_keeps h).1 _ e
  · exact h

theorem execExceptionEntry_keeps {a1} (h : Keeps q s) : KeepsR q (execExceptionEntry a1 s) := by
  unfold execExceptionEntry
  with_reducible repeat' (first
    | assumption
    | (extract_lets +onlyGivenNames x; refine keeps_step (q := q) (x := x) ?_ ?_; (on_goal 1 => (dsimp -zeta only [x]; clear x)); (on_goal 2 => (clear_value x; revert x; intro _ _)))
    | (extract_lets +onlyGivenNames x; revert x; intro _)
    | refine keepsR_next ?_
    | refine keepsR_fault _
    | refine keepsR_refused _
    | refine keepsR_ite ?_ ?_
    | refine keeps_ite ?_ ?_
    | refine enterFault_keeps ?_
    | refine scanBundle_keeps ?_
    | refine keeps_of_eq1 (by assumption) ?_
    | refine keeps_of_eq2 (by assumption) ?_
    | refine keeps_of_eq12 (by assumption) ?_
    | intro _
    | split)

theorem execExp_keeps {a1 a2 a3} (h : Keeps q s) : KeepsR q (execExp a1 a2 a3 s) := by
  unfold execExp
  with_reducible repeat' (first | assumption | refine keepsR_next ?_ | refine giveSyllable_keeps ?_)

theorem execExpa_keeps {a1 a2 a3} (h : Keeps q s) : KeepsR q (execExpa a1 a2 a3 s) := by
  unfold execExpa
  with_reducible repeat' (first | assumption | refine keepsR_next ?_ | refine giveSyllable_keeps ?_)

theorem execExta_keeps {a1 a2 a3 a4} (h : Keeps q s) : KeepsR q (execExta a1 a2 a3 a4 s) := by
  unfold execExta
  with_reducible repeat' (first | assumption | refine keepsR_next ?_ | refine giveSyllable_keeps ?_)

theorem execFenceSyllable_keeps {a1 a2 a3} (h : Keeps q s) : KeepsR q (execFenceSyllable a1 a2 a3 s) := by
  unfold execFenceSyllable
  with_reducible repeat' (first | assumption | refine keepsR_next ?_ | refine giveSyllable_keeps ?_)

theorem execInterruptEntry_keeps {a1} (h : Keeps q s) : KeepsR q (execInterruptEntry a1 s) := by
  unfold execInterruptEntry
  with_reducible repeat' (first
    | assumption | (extract_lets +onlyGivenNames x; revert x; intro _) | refine keepsR_next ?_
    | refine keepsR_ite ?_ ?_ | refine takeFree_keeps ?_ | refine setTile_keeps ?_ | split)

theorem execJr_keeps {a1 a2} (h : Keeps q s) : KeepsR q (execJr a1 a2 s) := by
  unfold execJr
  with_reducible repeat' (first | assumption | refine keepsR_next ?_ | refine giveSyllable_keeps ?_)

theorem execLdb_keeps {a1 a2 a3 a4} (h : Keeps q s) : KeepsR q (execLdb a1 a2 a3 a4 s) := by
  unfold execLdb
  with_reducible repeat' (first | assumption | refine keepsR_next ?_ | refine giveSyllable_keeps ?_)

theorem execLdbu_keeps {a1 a2 a3 a4} (h : Keeps q s) : KeepsR q (execLdbu a1 a2 a3 a4 s) := by
  unfold execLdbu
  with_reducible repeat' (first | assumption | refine keepsR_next ?_ | refine giveSyllable_keeps ?_)

theorem execLdh_keeps {a1 a2 a3 a4} (h : Keeps q s) : KeepsR q (execLdh a1 a2 a3 a4 s) := by
  unfold execLdh
  with_reducible repeat' (first | assumption | refine keepsR_next ?_ | refine giveSyllable_keeps ?_)

theorem execLdhu_keeps {a1 a2 a3 a4} (h : Keeps q s) : KeepsR q (execLdhu a1 a2 a3 a4 s) := by
  unfold execLdhu
  with_reducible repeat' (first | assumption | refine keepsR_next ?_ | refine giveSyllable_keeps ?_)

theorem execLdw_keeps {a1 a2 a3 a4} (h : Keeps q s) : KeepsR q (execLdw a1 a2 a3 a4 s) := by
  unfold execLdw
  with_reducible repeat' (first | assumption | refine keepsR_next ?_ | refine giveSyllable_keeps ?_)

theorem execLdwPostinc_keeps {a1 a2 a3 a4} (h : Keeps q s) : KeepsR q (execLdwPostinc a1 a2 a3 a4 s) := by
  unfold execLdwPostinc
  with_reducible repeat' (first | assumption | refine keepsR_next ?_ | refine giveSyllable_keeps ?_)

theorem execLoop_keeps {a1 a2 a3 a4} (h : Keeps q s) : KeepsR q (execLoop a1 a2 a3 a4 s) := by
  unfold execLoop
  with_reducible repeat' (first | assumption | refine keepsR_next ?_ | refine giveSyllable_keeps ?_)

theorem execLoopi_keeps {a1 a2 a3 a4} (h : Keeps q s) : KeepsR q (execLoopi a1 a2 a3 a4 s) := by
  unfold execLoopi
  with_reducible repeat' (first | assumption | refine keepsR_next ?_ | refine giveSyllable_keeps ?_)

theorem execMach_keeps {a1 a2 a3 a4} (h : Keeps q s) : KeepsR q (execMach a1 a2 a3 a4 s) := by
  unfold execMach
  with_reducible repeat' (first | assumption | refine keepsR_next ?_ | refine giveSyllable_keeps ?_)

theorem execMacl_keeps {a1 a2 a3 a4} (h : Keeps q s) : KeepsR q (execMacl a1 a2 a3 a4 s) := by
  unfold execMacl
  with_reducible repeat' (first | assumption | refine keepsR_next ?_ | refine giveSyllable_keeps ?_)

theorem execMax_keeps {a1 a2 a3 a4} (h : Keeps q s) : KeepsR q (execMax a1 a2 a3 a4 s) := by
  unfold execMax
  with_reducible repeat' (first | assumption | refine keepsR_next ?_ | refine giveSyllable_keeps ?_)

theorem execMfc_keeps {a1 a2 a3} (h : Keeps q s) : KeepsR q (execMfc a1 a2 a3 s) := by
  unfold execMfc
  with_reducible repeat' (first | assumption | refine keepsR_next ?_ | refine giveSyllable_keeps ?_)

theorem execMin_keeps {a1 a2 a3 a4} (h : Keeps q s) : KeepsR q (execMin a1 a2 a3 a4 s) := by
  unfold execMin
  with_reducible repeat' (first | assumption | refine keepsR_next ?_ | refine giveSyllable_keeps ?_)

theorem execMova_keeps {a1 a2 a3} (h : Keeps q s) : KeepsR q (execMova a1 a2 a3 s) := by
  unfold execMova
  with_reducible repeat' (first | assumption | refine keepsR_next ?_ | refine giveSyllable_keeps ?_)

theorem execMovhi_keeps {a1 a2 a3} (h : Keeps q s) : KeepsR q (execMovhi a1 a2 a3 s) := by
  unfold execMovhi
  with_reducible repeat' (first | assumption | refine keepsR_next ?_ | refine giveSyllable_keeps ?_)

theorem execMsul_keeps {a1 a2 a3 a4} (h : Keeps q s) : KeepsR q (execMsul a1 a2 a3 a4 s) := by
  unfold execMsul
  with_reducible repeat' (first | assumption | refine keepsR_next ?_ | refine giveSyllable_keeps ?_)

theorem execMtc_keeps {a1 a2 a3} (h : Keeps q s) : KeepsR q (execMtc a1 a2 a3 s) := by
  unfold execMtc
  with_reducible repeat' (first | assumption | refine keepsR_next ?_ | refine giveSyllable_keeps ?_)

theorem execMul_keeps {a1 a2 a3 a4} (h : Keeps q s) : KeepsR q (execMul a1 a2 a3 a4 s) := by
  unfold execMul
  with_reducible repeat' (first | assumption | refine keepsR_next ?_ | refine giveSyllable_keeps ?_)

theorem execMulh_keeps {a1 a2 a3 a4} (h : Keeps q s) : KeepsR q (execMulh a1 a2 a3 a4 s) := by
  unfold execMulh
  with_reducible repeat' (first | assumption | refine keepsR_next ?_ | refine giveSyllable_keeps ?_)

theorem execNopSyllable_keeps {a1} (h : Keeps q s) : KeepsR q (execNopSyllable a1 s) := by
  unfold execNopSyllable
  with_reducible repeat' (first | assumption | refine keepsR_next ?_ | refine giveSyllable_keeps ?_)

theorem execNorm_keeps {a1 a2 a3} (h : Keeps q s) : KeepsR q (execNorm a1 a2 a3 s) := by
  unfold execNorm
  with_reducible repeat' (first | assumption | refine keepsR_next ?_ | refine giveSyllable_keeps ?_)

theorem execOr_keeps {a1 a2 a3 a4} (h : Keeps q s) : KeepsR q (execOr a1 a2 a3 a4 s) := by
  unfold execOr
  with_reducible repeat' (first | assumption | refine keepsR_next ?_ | refine giveSyllable_keeps ?_)

theorem execOri_keeps {a1 a2 a3 a4} (h : Keeps q s) : KeepsR q (execOri a1 a2 a3 a4 s) := by
  unfold execOri
  with_reducible repeat' (first | assumption | refine keepsR_next ?_ | refine giveSyllable_keeps ?_)

theorem execOrlo_keeps {a1 a2 a3} (h : Keeps q s) : KeepsR q (execOrlo a1 a2 a3 s) := by
  unfold execOrlo
  with_reducible repeat' (first | assumption | refine keepsR_next ?_ | refine giveSyllable_keeps ?_)

theorem execRep_keeps {a1 a2} (h : Keeps q s) : KeepsR q (execRep a1 a2 s) := by
  unfold execRep
  with_reducible repeat' (first | assumption | refine keepsR_next ?_ | refine giveSyllable_keeps ?_)

theorem execRepi_keeps {a1 a2} (h : Keeps q s) : KeepsR q (execRepi a1 a2 s) := by
  unfold execRepi
  with_reducible repeat' (first | assumption | refine keepsR_next ?_ | refine giveSyllable_keeps ?_)

theorem execReti_keeps {a1} (h : Keeps q s) : KeepsR q (execReti a1 s) := by
  unfold execReti
  with_reducible repeat' (first | assumption | refine keepsR_next ?_ | refine giveSyllable_keeps ?_)

theorem execRotb_keeps {a1 a2} (h : Keeps q s) : KeepsR q (execRotb a1 a2 s) := by
  unfold execRotb
  with_reducible repeat' (first | assumption | refine keepsR_next ?_ | refine giveSyllable_keeps ?_)

theorem execSeq_keeps {a1 a2 a3 a4} (h : Keeps q s) : KeepsR q (execSeq a1 a2 a3 a4 s) := by
  unfold execSeq
  with_reducible repeat' (first | assumption | refine keepsR_next ?_ | refine giveSyllable_keeps ?_)

theorem execShl_keeps {a1 a2 a3 a4} (h : Keeps q s) : KeepsR q (execShl a1 a2 a3 a4 s) := by
  unfold execShl
  with_reducible repeat' (first | assumption | refine keepsR_next ?_ | refine giveSyllable_keeps ?_)

theorem execShli_keeps {a1 a2 a3 a4} (h : Keeps q s) : KeepsR q (execShli a1 a2 a3 a4 s) := by
  unfold execShli
  with_reducible repeat' (first | assumption | refine keepsR_next ?_ | refine giveSyllable_keeps ?_)

theorem execShr_keeps {a1 a2 a3 a4} (h : Keeps q s) : KeepsR q (execShr a1 a2 a3 a4 s) := by
  unfold execShr
  with_reducible repeat' (first | assumption | refine keepsR_next ?_ | refine giveSyllable_keeps ?_)

theorem execShri_keeps {a1 a2 a3 a4} (h : Keeps q s) : KeepsR q (execShri a1 a2 a3 a4 s) := by
  unfold execShri
  with_reducible repeat' (first | assumption | refine keepsR_next ?_ | refine giveSyllable_keeps ?_)

theorem execSlt_keeps {a1 a2 a3 a4} (h : Keeps q s) : KeepsR q (execSlt a1 a2 a3 a4 s) := by
  unfold execSlt
  with_reducible repeat' (first | assumption | refine keepsR_next ?_ | refine giveSyllable_keeps ?_)

theorem execSltu_keeps {a1 a2 a3 a4} (h : Keeps q s) : KeepsR q (execSltu a1 a2 a3 a4 s) := by
  unfold execSltu
  with_reducible repeat' (first | assumption | refine keepsR_next ?_ | refine giveSyllable_keeps ?_)

theorem execSra_keeps {a1 a2 a3 a4} (h : Keeps q s) : KeepsR q (execSra a1 a2 a3 a4 s) := by
  unfold execSra
  with_reducible repeat' (first | assumption | refine keepsR_next ?_ | refine giveSyllable_keeps ?_)

theorem execSrai_keeps {a1 a2 a3 a4} (h : Keeps q s) : KeepsR q (execSrai a1 a2 a3 a4 s) := by
  unfold execSrai
  with_reducible repeat' (first | assumption | refine keepsR_next ?_ | refine giveSyllable_keeps ?_)

theorem execStb_keeps {a1 a2 a3 a4} (h : Keeps q s) : KeepsR q (execStb a1 a2 a3 a4 s) := by
  unfold execStb
  with_reducible repeat' (first | assumption | refine keepsR_next ?_ | refine giveSyllable_keeps ?_)

theorem execSth_keeps {a1 a2 a3 a4} (h : Keeps q s) : KeepsR q (execSth a1 a2 a3 a4 s) := by
  unfold execSth
  with_reducible repeat' (first | assumption | refine keepsR_next ?_ | refine giveSyllable_keeps ?_)

theorem execStw_keeps {a1 a2 a3 a4} (h : Keeps q s) : KeepsR q (execStw a1 a2 a3 a4 s) := by
  unfold execStw
  with_reducible repeat' (first | assumption | refine keepsR_next ?_ | refine giveSyllable_keeps ?_)

theorem execStwPostinc_keeps {a1 a2 a3 a4} (h : Keeps q s) : KeepsR q (execStwPostinc a1 a2 a3 a4 s) := by
  unfold execStwPostinc
  with_reducible repeat' (first | assumption | refine keepsR_next ?_ | refine giveSyllable_keeps ?_)

theorem execSub_keeps {a1 a2 a3 a4} (h : Keeps q s) : KeepsR q (execSub a1 a2 a3 a4 s) := by
  unfold execSub
  with_reducible repeat' (first | assumption | refine keepsR_next ?_ | refine giveSyllable_keeps ?_)

theorem execTaskEnd_keeps {a1} (h : Keeps q s) : KeepsR q (execTaskEnd a1 s) := by
  unfold execTaskEnd
  with_reducible repeat' (first | assumption | refine keepsR_next ?_ | refine giveSyllable_keeps ?_)

theorem execTilMboxWrite_keeps {a1 a2} (h : Keeps q s) : KeepsR q (execTilMboxWrite a1 a2 s) := by
  unfold execTilMboxWrite
  with_reducible repeat' (first
    | assumption | refine keepsR_next ?_ | refine keeps_ite ?_ ?_
    | refine writeMbox_keeps ?_)

theorem execTimerCompare_keeps {a1} (h : Keeps q s) : KeepsR q (execTimerCompare a1 s) := by
  unfold execTimerCompare
  with_reducible repeat' (first
    | assumption
    | (extract_lets +onlyGivenNames x; refine keeps_step1 (q := q) (x := x) ?_ ?_; (on_goal 1 => (dsimp -zeta only [x]; clear x)); (on_goal 2 => (clear_value x; revert x; intro _ _)))
    | (extract_lets +onlyGivenNames x; revert x; intro _) | refine keepsR_next ?_ | refine keeps_ite ?_ ?_
    | refine setTile_keeps ?_ | refine checkTimer_keeps ?_)

theorem execVabs_keeps {a1 a2 a3} (h : Keeps q s) : KeepsR q (execVabs a1 a2 a3 s) := by
  unfold execVabs
  with_reducible repeat' (first | assumption | refine keepsR_next ?_ | refine giveSyllable_keeps ?_)

theorem execVadd_keeps {a1 a2 a3 a4} (h : Keeps q s) : KeepsR q (execVadd a1 a2 a3 a4 s) := by
  unfold execVadd
  with_reducible repeat' (first | assumption | refine keepsR_next ?_ | refine giveSyllable_keeps ?_)

theorem execVbexp_keeps {a1 a2 a3 a4 a5} (h : Keeps q s) : KeepsR q (execVbexp a1 a2 a3 a4 a5 s) := by
  unfold execVbexp
  with_reducible repeat' (first | assumption | refine keepsR_next ?_ | refine giveSyllable_keeps ?_)

theorem execVclra_keeps {a1 a2} (h : Keeps q s) : KeepsR q (execVclra a1 a2 s) := by
  unfold execVclra
  with_reducible repeat' (first | assumption | refine keepsR_next ?_ | refine giveSyllable_keeps ?_)

theorem execVcmac_keeps {a1 a2 a3 a4} (h : Keeps q s) : KeepsR q (execVcmac a1 a2 a3 a4 s) := by
  unfold execVcmac
  with_reducible repeat' (first | assumption | refine keepsR_next ?_ | refine giveSyllable_keeps ?_)

theorem execVcmacj_keeps {a1 a2 a3 a4} (h : Keeps q s) : KeepsR q (execVcmacj a1 a2 a3 a4 s) := by
  unfold execVcmacj
  with_reducible repeat' (first | assumption | refine keepsR_next ?_ | refine giveSyllable_keeps ?_)

theorem execVcmpeq_keeps {a1 a2 a3 a4} (h : Keeps q s) : KeepsR q (execVcmpeq a1 a2 a3 a4 s) := by
  unfold execVcmpeq
  with_reducible repeat' (first | assumption | refine keepsR_next ?_ | refine giveSyllable_keeps ?_)

theorem execVcmple_keeps {a1 a2 a3 a4} (h : Keeps q s) : KeepsR q (execVcmple a1 a2 a3 a4 s) := by
  unfold execVcmple
  with_reducible repeat' (first | assumption | refine keepsR_next ?_ | refine giveSyllable_keeps ?_)

theorem execVcmplt_keeps {a1 a2 a3 a4} (h : Keeps q s) : KeepsR q (execVcmplt a1 a2 a3 a4 s) := by
  unfold execVcmplt
  with_reducible repeat' (first | assumption | refine keepsR_next ?_ | refine giveSyllable_keeps ?_)

theorem execVcmuljq_keeps {a1 a2 a3 a4} (h : Keeps q s) : KeepsR q (execVcmuljq a1 a2 a3 a4 s) := by
  unfold execVcmuljq
  with_reducible repeat' (first | assumption | refine keepsR_next ?_ | refine giveSyllable_keeps ?_)

theorem execVcmulq_keeps {a1 a2 a3 a4} (h : Keeps q s) : KeepsR q (execVcmulq a1 a2 a3 a4 s) := by
  unfold execVcmulq
  with_reducible repeat' (first | assumption | refine keepsR_next ?_ | refine giveSyllable_keeps ?_)

theorem execVconj_keeps {a1 a2 a3} (h : Keeps q s) : KeepsR q (execVconj a1 a2 a3 s) := by
  unfold execVconj
  with_reducible repeat' (first | assumption | refine keepsR_next ?_ | refine giveSyllable_keeps ?_)

theorem execVexta_keeps {a1 a2 a3 a4 a5} (h : Keeps q s) : KeepsR q (execVexta a1 a2 a3 a4 a5 s) := by
  unfold execVexta
  with_reducible repeat' (first | assumption | refine keepsR_next ?_ | refine giveSyllable_keeps ?_)

theorem execVget_keeps {a1 a2 a3 a4} (h : Keeps q s) : KeepsR q (execVget a1 a2 a3 a4 s) := by
  unfold execVget
  with_reducible repeat' (first | assumption | refine keepsR_next ?_ | refine giveSyllable_keeps ?_)

theorem execVld_keeps {a1 a2 a3 a4} (h : Keeps q s) : KeepsR q (execVld a1 a2 a3 a4 s) := by
  unfold execVld
  with_reducible repeat' (first | assumption | refine keepsR_next ?_ | refine giveSyllable_keeps ?_)

theorem execVldx_keeps {a1 a2 a3 a4} (h : Keeps q s) : KeepsR q (execVldx a1 a2 a3 a4 s) := by
  unfold execVldx
  with_reducible repeat' (first | assumption | refine keepsR_next ?_ | refine giveSyllable_keeps ?_)

theorem execVmac_keeps {a1 a2 a3 a4} (h : Keeps q s) : KeepsR q (execVmac a1 a2 a3 a4 s) := by
  unfold execVmac
  with_reducible repeat' (first | assumption | refine keepsR_next ?_ | refine giveSyllable_keeps ?_)

theorem execVmand_keeps {a1 a2 a3 a4} (h : Keeps q s) : KeepsR q (execVmand a1 a2 a3 a4 s) := by
  unfold execVmand
  with_reducible repeat' (first | assumption | refine keepsR_next ?_ | refine giveSyllable_keeps ?_)

theorem execVmandn_keeps {a1 a2 a3 a4} (h : Keeps q s) : KeepsR q (execVmandn a1 a2 a3 a4 s) := by
  unfold execVmandn
  with_reducible repeat' (first | assumption | refine keepsR_next ?_ | refine giveSyllable_keeps ?_)

theorem execVmax_keeps {a1 a2 a3 a4} (h : Keeps q s) : KeepsR q (execVmax a1 a2 a3 a4 s) := by
  unfold execVmax
  with_reducible repeat' (first | assumption | refine keepsR_next ?_ | refine giveSyllable_keeps ?_)

theorem execVmcnt_keeps {a1 a2 a3} (h : Keeps q s) : KeepsR q (execVmcnt a1 a2 a3 s) := by
  unfold execVmcnt
  with_reducible repeat' (first | assumption | refine keepsR_next ?_ | refine giveSyllable_keeps ?_)

theorem execVmin_keeps {a1 a2 a3 a4} (h : Keeps q s) : KeepsR q (execVmin a1 a2 a3 a4 s) := by
  unfold execVmin
  with_reducible repeat' (first | assumption | refine keepsR_next ?_ | refine giveSyllable_keeps ?_)

theorem execVmor_keeps {a1 a2 a3 a4} (h : Keeps q s) : KeepsR q (execVmor a1 a2 a3 a4 s) := by
  unfold execVmor
  with_reducible repeat' (first | assumption | refine keepsR_next ?_ | refine giveSyllable_keeps ?_)

theorem execVmov_keeps {a1 a2 a3} (h : Keeps q s) : KeepsR q (execVmov a1 a2 a3 s) := by
  unfold execVmov
  with_reducible repeat' (first | assumption | refine keepsR_next ?_ | refine giveSyllable_keeps ?_)

theorem execVmova_keeps {a1 a2 a3 a4} (h : Keeps q s) : KeepsR q (execVmova a1 a2 a3 a4 s) := by
  unfold execVmova
  with_reducible repeat' (first | assumption | refine keepsR_next ?_ | refine giveSyllable_keeps ?_)

theorem execVmsetn_keeps {a1 a2 a3} (h : Keeps q s) : KeepsR q (execVmsetn a1 a2 a3 s) := by
  unfold execVmsetn
  with_reducible repeat' (first | assumption | refine keepsR_next ?_ | refine giveSyllable_keeps ?_)

theorem execVmsub_keeps {a1 a2 a3 a4} (h : Keeps q s) : KeepsR q (execVmsub a1 a2 a3 a4 s) := by
  unfold execVmsub
  with_reducible repeat' (first | assumption | refine keepsR_next ?_ | refine giveSyllable_keeps ?_)

theorem execVmtov_keeps {a1 a2 a3} (h : Keeps q s) : KeepsR q (execVmtov a1 a2 a3 s) := by
  unfold execVmtov
  with_reducible repeat' (first | assumption | refine keepsR_next ?_ | refine giveSyllable_keeps ?_)

theorem execVmulq_keeps {a1 a2 a3 a4} (h : Keeps q s) : KeepsR q (execVmulq a1 a2 a3 a4 s) := by
  unfold execVmulq
  with_reducible repeat' (first | assumption | refine keepsR_next ?_ | refine giveSyllable_keeps ?_)

theorem execVmxor_keeps {a1 a2 a3 a4} (h : Keeps q s) : KeepsR q (execVmxor a1 a2 a3 a4 s) := by
  unfold execVmxor
  with_reducible repeat' (first | assumption | refine keepsR_next ?_ | refine giveSyllable_keeps ?_)

theorem execVnarrow_keeps {a1 a2 a3 a4} (h : Keeps q s) : KeepsR q (execVnarrow a1 a2 a3 a4 s) := by
  unfold execVnarrow
  with_reducible repeat' (first | assumption | refine keepsR_next ?_ | refine giveSyllable_keeps ?_)

theorem execVneg_keeps {a1 a2 a3} (h : Keeps q s) : KeepsR q (execVneg a1 a2 a3 s) := by
  unfold execVneg
  with_reducible repeat' (first | assumption | refine keepsR_next ?_ | refine giveSyllable_keeps ?_)

theorem execVnop_keeps {a1} (h : Keeps q s) : KeepsR q (execVnop a1 s) := by
  unfold execVnop
  with_reducible repeat' (first | assumption | refine keepsR_next ?_ | refine giveSyllable_keeps ?_)

theorem execVnormb_keeps {a1 a2 a3 a4 a5 a6} (h : Keeps q s) : KeepsR q (execVnormb a1 a2 a3 a4 a5 a6 s) := by
  unfold execVnormb
  with_reducible repeat' (first | assumption | refine keepsR_next ?_ | refine giveSyllable_keeps ?_)

theorem execVpack10_keeps {a1 a2 a3 a4 a5 a6} (h : Keeps q s) : KeepsR q (execVpack10 a1 a2 a3 a4 a5 a6 s) := by
  unfold execVpack10
  with_reducible repeat' (first | assumption | refine keepsR_next ?_ | refine giveSyllable_keeps ?_)

theorem execVsetl_keeps {a1 a2 a3} (h : Keeps q s) : KeepsR q (execVsetl a1 a2 a3 s) := by
  unfold execVsetl
  with_reducible repeat' (first | assumption | refine keepsR_next ?_ | refine giveSyllable_keeps ?_)

theorem execVshl_keeps {a1 a2 a3 a4} (h : Keeps q s) : KeepsR q (execVshl a1 a2 a3 a4 s) := by
  unfold execVshl
  with_reducible repeat' (first | assumption | refine keepsR_next ?_ | refine giveSyllable_keeps ?_)

theorem execVsplat_keeps {a1 a2 a3 a4} (h : Keeps q s) : KeepsR q (execVsplat a1 a2 a3 a4 s) := by
  unfold execVsplat
  with_reducible repeat' (first | assumption | refine keepsR_next ?_ | refine giveSyllable_keeps ?_)

theorem execVsra_keeps {a1 a2 a3 a4} (h : Keeps q s) : KeepsR q (execVsra a1 a2 a3 a4 s) := by
  unfold execVsra
  with_reducible repeat' (first | assumption | refine keepsR_next ?_ | refine giveSyllable_keeps ?_)

theorem execVsrar_keeps {a1 a2 a3 a4} (h : Keeps q s) : KeepsR q (execVsrar a1 a2 a3 a4 s) := by
  unfold execVsrar
  with_reducible repeat' (first | assumption | refine keepsR_next ?_ | refine giveSyllable_keeps ?_)

theorem execVst_keeps {a1 a2 a3 a4} (h : Keeps q s) : KeepsR q (execVst a1 a2 a3 a4 s) := by
  unfold execVst
  with_reducible repeat' (first | assumption | refine keepsR_next ?_ | refine giveSyllable_keeps ?_)

theorem execVstx_keeps {a1 a2 a3 a4} (h : Keeps q s) : KeepsR q (execVstx a1 a2 a3 a4 s) := by
  unfold execVstx
  with_reducible repeat' (first | assumption | refine keepsR_next ?_ | refine giveSyllable_keeps ?_)

theorem execVsub_keeps {a1 a2 a3 a4} (h : Keeps q s) : KeepsR q (execVsub a1 a2 a3 a4 s) := by
  unfold execVsub
  with_reducible repeat' (first | assumption | refine keepsR_next ?_ | refine giveSyllable_keeps ?_)

theorem execVtperm_keeps {a1 a2 a3 a4} (h : Keeps q s) : KeepsR q (execVtperm a1 a2 a3 a4 s) := by
  unfold execVtperm
  with_reducible repeat' (first | assumption | refine keepsR_next ?_ | refine giveSyllable_keeps ?_)

theorem execVtperm2_keeps {a1 a2 a3 a4} (h : Keeps q s) : KeepsR q (execVtperm2 a1 a2 a3 a4 s) := by
  unfold execVtperm2
  with_reducible repeat' (first | assumption | refine keepsR_next ?_ | refine giveSyllable_keeps ?_)

theorem execVunpack10_keeps {a1 a2 a3 a4 a5 a6} (h : Keeps q s) : KeepsR q (execVunpack10 a1 a2 a3 a4 a5 a6 s) := by
  unfold execVunpack10
  with_reducible repeat' (first | assumption | refine keepsR_next ?_ | refine giveSyllable_keeps ?_)

theorem execVwiden_keeps {a1 a2 a3 a4} (h : Keeps q s) : KeepsR q (execVwiden a1 a2 a3 a4 s) := by
  unfold execVwiden
  with_reducible repeat' (first | assumption | refine keepsR_next ?_ | refine giveSyllable_keeps ?_)

theorem execWfe_keeps {a1 a2} (h : Keeps q s) : KeepsR q (execWfe a1 a2 s) := by
  unfold execWfe
  with_reducible repeat' (first | assumption | refine keepsR_next ?_ | refine giveSyllable_keeps ?_)

theorem execXor_keeps {a1 a2 a3 a4} (h : Keeps q s) : KeepsR q (execXor a1 a2 a3 a4 s) := by
  unfold execXor
  with_reducible repeat' (first | assumption | refine keepsR_next ?_ | refine giveSyllable_keeps ?_)

end Sys2Proof.Machine
end

