-- ==== Sys2Proof/Laws/KeepsStart.lean ====
section
/-!
SUPPORT. That every operation and command's meaning keeps what Keeps names: the laws of task starts, faults and Foxglove.
-/

namespace Sys2Proof.Machine

set_option Elab.async false

variable {q : Kept} {s : State}

theorem abortStoreLoads_keeps (h : Keeps q s) : Keeps q (abortStoreLoads s) := by
  unfold abortStoreLoads
  with_reducible repeat' (first
    | assumption | refine fun (_ : Keeps q _) => ?_ | refine keeps_ite ?_ ?_
    | refine keeps_foldl ?_ _ ?_ | refine abortLoad_keeps ?_ | intro _)

theorem answerDoe_keeps {a1 a2} (h : Keeps q s) : Keeps q (answerDoe s a1 a2) := by
  unfold answerDoe
  with_reducible repeat' (first
    | assumption | (extract_lets +onlyGivenNames x; revert x; intro _) | refine keeps_ite ?_ ?_
    | refine setDoe_keeps ?_)

theorem applyHalt_keeps (h : Keeps q s) : Keeps q (applyHalt s) := by
  unfold applyHalt
  with_reducible repeat' (first
    | assumption | (extract_lets +onlyGivenNames x; revert x; intro _) | refine keeps_ite ?_ ?_
    | refine setTile_keeps ?_ | split)

theorem ballInstr_keeps {a1 a2} (h : Keeps q s) : Keeps q (ballInstr s a1 a2) :=
  keeps_congr h rfl rfl rfl rfl rfl

theorem blow_keeps {b : Bool} {f : State → State} (hf : ∀ x, Keeps q x → Keeps q (f x)) (h : Keeps q s) : Keeps q (blow s b f).1 := by
  unfold blow
  split
  · exact hf s h
  · exact h

theorem boundaryDebug_keeps {a1} (h : Keeps q s) : Keeps q (boundaryDebug s a1) := by
  unfold boundaryDebug
  with_reducible repeat' (first
    | assumption
    | (extract_lets +onlyGivenNames x; refine keeps_step (q := q) (x := x) ?_ ?_; (on_goal 1 => (dsimp -zeta only [x]; clear x)); (on_goal 2 => (clear_value x; revert x; intro _ _)))
    | refine keeps_ite ?_ ?_ | refine applyHalt_keeps ?_ | refine setF_keeps ?_
    | refine resourceLost_keeps ?_ | refine wakeEvent_keeps ?_
    | (constructor <;> dsimp only <;> first | exact Keeps.queue ‹_› | exact Keeps.mem ‹_› | exact Keeps.regs ‹_› | exact Keeps.ns ‹_› | exact Keeps.load ‹_›))

theorem restoreTile_keeps {a1} (h : Keeps q s) : Keeps q (restoreTile s a1) := by
  unfold restoreTile
  with_reducible repeat' (first
    | assumption
    | (extract_lets +onlyGivenNames x; refine keeps_step (q := q) (x := x) ?_ ?_; (on_goal 1 => (dsimp -zeta only [x]; clear x)); (on_goal 2 => (clear_value x; revert x; intro _ _)))
    | (extract_lets +onlyGivenNames x; revert x; intro _)
    | refine keeps_ite ?_ ?_
    | refine setCl_keeps ?_
    | refine zeroTile_keeps ?_
    | refine setTilemap_keeps ?_
    | refine clrBitF_keeps ?_
    | refine setHw_keeps ?_
    | refine keeps_of_eq1 (by assumption) ?_
    | refine keeps_of_eq2 (by assumption) ?_
    | refine keeps_of_eq12 (by assumption) ?_
    | intro _
    | split
    | (dsimp -zeta +zetaDelta only; split)
    | (constructor <;> dsimp only <;> first | exact Keeps.queue ‹_› | exact Keeps.mem ‹_› | exact Keeps.regs ‹_› | exact Keeps.ns ‹_› | exact Keeps.load ‹_›))

theorem dropPoisoned_keeps {a1 a2 a3} (h : Keeps q s) : Keeps q (dropPoisoned s a1 a2 a3) :=
  keeps_congr h rfl rfl rfl rfl rfl

theorem copyRange_keeps {a1 a2 a3} (h : Keeps q s) : Keeps q (copyRange s a1 a2 a3) := by
  unfold copyRange
  with_reducible repeat' (first | (constructor <;> dsimp only <;> repeat first | exact Keeps.queue ‹_› | exact Keeps.mem ‹_› | exact Keeps.regs ‹_› | exact Keeps.ns ‹_› | exact Keeps.load ‹_› | refine wfIf_smDrop _ _ _ ?_ | refine wfIf_foldl_smPut _ _ _ _ _ ?_))

theorem copyTile_keeps {a1 a2} (h : Keeps q s) : Keeps q (copyTile s a1 a2) := by
  unfold copyTile
  with_reducible repeat' (first
    | assumption
    | (extract_lets +onlyGivenNames x; refine keeps_step (q := q) (x := x) ?_ ?_; (on_goal 1 => (dsimp -zeta only [x]; clear x)); (on_goal 2 => (clear_value x; revert x; intro _ _)))
    | refine keeps_ite ?_ ?_
    | refine readBad_keeps ?_
    | refine copyRange_keeps ?_)

theorem spareServes_keeps {a1 a2} (h : Keeps q s) : Keeps q (spareServes s a1 a2) := by
  unfold spareServes
  with_reducible repeat' (first
    | assumption | (extract_lets +onlyGivenNames x; revert x; intro _) | refine dropPoisoned_keeps ?_
    | refine copyTile_keeps ?_ | refine setTilemap_keeps ?_ | split)

theorem showTesting_keeps {a1} (h : Keeps q s) : Keeps q (showTesting s a1) := by
  unfold showTesting
  with_reducible repeat' (first | assumption | refine setF_keeps ?_)

theorem retireTile_keeps {a1} (h : Keeps q s) : Keeps q (retireTile s a1) := by
  unfold retireTile
  with_reducible repeat' (first
    | assumption
    | (extract_lets +onlyGivenNames x; refine keeps_step (q := q) (x := x) ?_ ?_; (on_goal 1 => (dsimp -zeta only [x]; clear x)); (on_goal 2 => (clear_value x; revert x; intro _ _)))
    | (extract_lets +onlyGivenNames x; revert x; intro _)
    | refine keeps_ite ?_ ?_
    | refine dropSpare_keeps ?_
    | refine showTesting_keeps ?_
    | refine setBitF_keeps ?_
    | refine setHw_keeps ?_
    | refine spareServes_keeps ?_
    | refine clrBitF_keeps ?_
    | refine setCl_keeps ?_
    | refine loseTile_keeps ?_
    | refine setTilemap_keeps ?_
    | refine intPulse_keeps ?_
    | refine keeps_of_eq1 (by assumption) ?_
    | refine keeps_of_eq2 (by assumption) ?_
    | refine keeps_of_eq12 (by assumption) ?_
    | intro _
    | split
    | (dsimp -zeta +zetaDelta only; split)
    | (constructor <;> dsimp only <;> first | exact Keeps.queue ‹_› | exact Keeps.mem ‹_› | exact Keeps.regs ‹_› | exact Keeps.ns ‹_› | exact Keeps.load ‹_›))

theorem boundaryTiles_keeps {a1} (h : Keeps q s) : Keeps q (boundaryTiles s a1) := by
  unfold boundaryTiles
  with_reducible repeat' (first
    | assumption | refine fun (_ : Keeps q _) => ?_
    | (extract_lets +onlyGivenNames x; refine keeps_step (q := q) (x := x) ?_ ?_; (on_goal 1 => (dsimp -zeta only [x]; clear x)); (on_goal 2 => (clear_value x; revert x; intro _ _)))
    | refine keeps_ite ?_ ?_ | refine keeps_foldl ?_ _ ?_ | refine restoreTile_keeps ?_
    | refine retireTile_keeps ?_ | intro _)

theorem certSlot1_keeps (h : Keeps q s) : Keeps q (certSlot1 s).1 :=
  keeps_congr h rfl rfl rfl rfl rfl

theorem changeCore_keeps {a1} (h : Keeps q s) : Keeps q (changeCore s a1) := by
  unfold changeCore
  with_reducible repeat' (first
    | assumption
    | (extract_lets +onlyGivenNames x; refine keeps_step (q := q) (x := x) ?_ ?_; (on_goal 1 => (dsimp -zeta only [x]; clear x)); (on_goal 2 => (clear_value x; revert x; intro _ _)))
    | (extract_lets +onlyGivenNames x; revert x; intro _) | refine keeps_ite ?_ ?_ | refine report_keeps ?_
    | refine setF_keeps ?_
    | (constructor <;> dsimp only <;> first | exact Keeps.queue ‹_› | exact Keeps.mem ‹_› | exact Keeps.regs ‹_› | exact Keeps.ns ‹_› | exact Keeps.load ‹_›))

theorem commitSvn_keeps {a1} (h : Keeps q s) : Keeps q (commitSvn a1 s).1 := by
  unfold commitSvn
  with_reducible repeat' (first
    | assumption | refine fun (_ : Keeps q _) => ?_ | refine blow_keeps ?_ ?_
    | refine setF_keeps ?_ | intro _ | split)

theorem debugOpen_keeps (h : Keeps q s) : Keeps q (debugOpen s).1 := by
  unfold debugOpen
  with_reducible repeat' (first
    | assumption | (extract_lets +onlyGivenNames x; revert x; intro _) | refine setF_keeps ?_ | split
    | (constructor <;> dsimp only <;> first | exact Keeps.queue ‹_› | exact Keeps.mem ‹_› | exact Keeps.regs ‹_› | exact Keeps.ns ‹_› | exact Keeps.load ‹_›))

theorem zeroStore_keeps (h : Keeps q s) : Keeps q (zeroStore s) := by
  unfold zeroStore
  with_reducible repeat' (first
    | (extract_lets +onlyGivenNames x; revert x; intro _) | refine setF_keeps ?_
    | (constructor <;> dsimp only <;> first | exact Keeps.queue ‹_› | exact Keeps.mem ‹_› | exact Keeps.regs ‹_› | exact Keeps.ns ‹_› | exact Keeps.load ‹_›))

theorem decommission_keeps {a1} (h : Keeps q s) : Keeps q (decommission a1 s).1 := by
  unfold decommission
  with_reducible repeat' (first
    | assumption | refine fun (_ : Keeps q _) => ?_
    | (extract_lets +onlyGivenNames x; refine keeps_step (q := q) (x := x) ?_ ?_; (on_goal 1 => (dsimp -zeta only [x]; clear x)); (on_goal 2 => (clear_value x; revert x; intro _ _)))
    | (extract_lets +onlyGivenNames x; revert x; intro _) | refine zeroStore_keeps ?_ | refine blow_keeps ?_ ?_
    | refine setF_keeps ?_ | intro _
    | (constructor <;> dsimp only <;> first | exact Keeps.queue ‹_› | exact Keeps.mem ‹_› | exact Keeps.regs ‹_› | exact Keeps.ns ‹_› | exact Keeps.load ‹_›))

theorem dropTask_keeps {a1} (h : Keeps q s) : Keeps q (dropTask s a1) := by
  unfold dropTask
  with_reducible repeat' (first
    | assumption
    | (extract_lets +onlyGivenNames x; refine keeps_step (q := q) (x := x) ?_ ?_; (on_goal 1 => (dsimp -zeta only [x]; clear x)); (on_goal 2 => (clear_value x; revert x; intro _ _)))
    | (extract_lets +onlyGivenNames x; revert x; intro _) | refine addF_keeps ?_ | refine setF_keeps ?_
    | refine setTile_keeps ?_)

theorem endDebug_keeps (h : Keeps q s) : Keeps q (endDebug s) := by
  unfold endDebug
  with_reducible repeat' (first
    | assumption | (extract_lets +onlyGivenNames x; revert x; intro _) | refine keeps_ite ?_ ?_
    | refine setF_keeps ?_ | refine refresh_keeps ?_
    | (constructor <;> dsimp only <;> first | exact Keeps.queue ‹_› | exact Keeps.mem ‹_› | exact Keeps.regs ‹_› | exact Keeps.ns ‹_› | exact Keeps.load ‹_›))

theorem verifyImage_keeps {a1 a2} (h : Keeps q s) : Keeps q (verifyImage s a1 a2).1 := by
  unfold verifyImage
  with_reducible repeat' (first
    | assumption
    | (extract_lets +onlyGivenNames x; refine keeps_step (q := q) (x := x) ?_ ?_; (on_goal 1 => (dsimp -zeta only [x]; clear x)); (on_goal 2 => (clear_value x; revert x; intro _ _)))
    | refine verifyFailed_keeps ?_ | refine noteNvs_keeps ?_ | split)

theorem endVerify_keeps {a1} (h : Keeps q s) : Keeps q (endVerify s a1) := by
  unfold endVerify
  with_reducible repeat' (first
    | assumption
    | (extract_lets +onlyGivenNames x; refine keeps_step (q := q) (x := x) ?_ ?_; (on_goal 1 => (dsimp -zeta only [x]; clear x)); (on_goal 2 => (clear_value x; revert x; intro _ _)))
    | (extract_lets +onlyGivenNames x; refine keeps_step1 (q := q) (x := x) ?_ ?_; (on_goal 1 => (dsimp -zeta only [x]; clear x)); (on_goal 2 => (clear_value x; revert x; intro _ _)))
    | (extract_lets +onlyGivenNames x; revert x; intro _) | refine verifyImage_keeps ?_ | refine setF_keeps ?_
    | split
    | (constructor <;> dsimp only <;> first | exact Keeps.queue ‹_› | exact Keeps.mem ‹_› | exact Keeps.regs ‹_› | exact Keeps.ns ‹_› | exact Keeps.load ‹_›))

theorem enrolOwner_keeps {a1} (h : Keeps q s) : Keeps q (enrolOwner a1 s).1 := by
  unfold enrolOwner
  with_reducible repeat' (first
    | assumption | refine fun (_ : Keeps q _) => ?_
    | (extract_lets +onlyGivenNames x; refine keeps_step (q := q) (x := x) ?_ ?_; (on_goal 1 => (dsimp -zeta only [x]; clear x)); (on_goal 2 => (clear_value x; revert x; intro _ _)))
    | (extract_lets +onlyGivenNames x; revert x; intro _) | refine blow_keeps ?_ ?_ | refine setF_keeps ?_
    | refine setBitF_keeps ?_ | intro _ | split
    | (constructor <;> dsimp only <;> first | exact Keeps.queue ‹_› | exact Keeps.mem ‹_› | exact Keeps.regs ‹_› | exact Keeps.ns ‹_› | exact Keeps.load ‹_›))

theorem enterRecovery_keeps (h : Keeps q s) : Keeps q (enterRecovery s) := by
  unfold enterRecovery
  with_reducible repeat' (first
    | assumption | refine fun (_ : Keeps q _) => ?_ | refine keeps_foldl ?_ _ ?_
    | refine setF_keeps ?_ | intro _)

theorem execBankFence_keeps {a1 a2} (h : Keeps q s) : KeepsR q (execBankFence a1 a2 s) := by
  unfold execBankFence
  with_reducible repeat' (first
    | assumption | refine keepsR_next ?_ | refine keepsR_ite ?_ ?_
    | refine intPulse_keeps ?_ | refine resourceLost_keeps ?_ | refine setBitF_keeps ?_)

theorem execBypass_keeps (h : Keeps q s) : KeepsR q (execBypass s) := by
  unfold execBypass
  with_reducible repeat' (first
    | refine keepsR_next ?_
    | (constructor <;> dsimp only <;> first | exact Keeps.queue ‹_› | exact Keeps.mem ‹_› | exact Keeps.regs ‹_› | exact Keeps.ns ‹_› | exact Keeps.load ‹_›))

theorem reqDone_keeps {a1 a2} (h : Keeps q s) : Keeps q (reqDone s a1 a2) := by
  unfold reqDone
  with_reducible repeat' (first | assumption | refine setF_keeps ?_ | refine refresh_keeps ?_)

theorem setNonce_keeps {a1} (h : Keeps q s) : Keeps q (setNonce s a1) := by
  unfold setNonce
  with_reducible repeat' (first
    | assumption | refine fun (_ : Keeps q _) => ?_ | refine keeps_foldl ?_ _ ?_
    | refine setF_keeps ?_ | intro _)

theorem runRequest_keeps {f : State → State × Nat} (hf : ∀ x, Keeps q x → Keeps q (f x).1) (h : Keeps q s) : Keeps q (runRequest s f) := by
  unfold runRequest
  with_reducible repeat' (first
    | assumption
    | (extract_lets +onlyGivenNames x; refine keeps_step (q := q) (x := x) ?_ ?_; (on_goal 1 => (dsimp -zeta only [x]; clear x)); (on_goal 2 => (clear_value x; revert x; intro _ _)))
    | (extract_lets +onlyGivenNames x; refine keeps_step1 (q := q) (x := x) ?_ ?_; (on_goal 1 => (dsimp -zeta only [x]; clear x)); (on_goal 2 => (clear_value x; revert x; intro _ _)))
    | (extract_lets +onlyGivenNames x; revert x; intro _) | refine keeps_ite ?_ ?_ | refine verifyFailed_keeps ?_
    | refine reqDone_keeps ?_ | refine setNonce_keeps ?_ | refine hf _ ?_ | split)

theorem requestOf_keeps {n : Nat} {f : State → State × Nat} (hf : ∀ x, Keeps q x → Keeps q (f x).1) (h : Keeps q s) : Keeps q (requestOf s n f) := by
  unfold requestOf
  split
  · exact runRequest_keeps hf h
  · exact h

theorem execCertSlot1_keeps (h : Keeps q s) : KeepsR q (execCertSlot1 s) := by
  unfold execCertSlot1
  with_reducible repeat' (first
    | assumption | refine fun (_ : Keeps q _) => ?_ | refine keepsR_next ?_
    | refine requestOf_keeps ?_ ?_ | refine certSlot1_keeps ?_ | intro _)

theorem execClamp_keeps {a1} (h : Keeps q s) : KeepsR q (execClamp a1 s) := by
  unfold execClamp
  with_reducible repeat' (first | assumption | refine keepsR_next ?_ | refine ballInstr_keeps ?_)

theorem execCommitSvn_keeps {a1} (h : Keeps q s) : KeepsR q (execCommitSvn a1 s) := by
  unfold execCommitSvn
  with_reducible repeat' (first
    | assumption | refine fun (_ : Keeps q _) => ?_ | refine keepsR_next ?_
    | refine commitSvn_keeps ?_ | refine requestOf_keeps ?_ ?_ | intro _)

theorem writeAttach_keeps {a1 a2 a3 a4} (h : Keeps q s) : Keeps q (writeAttach s a1 a2 a3 a4) := by
  unfold writeAttach
  with_reducible repeat' (first
    | assumption
    | (extract_lets +onlyGivenNames x; refine keeps_step (q := q) (x := x) ?_ ?_; (on_goal 1 => (dsimp -zeta only [x]; clear x)); (on_goal 2 => (clear_value x; revert x; intro _ _)))
    | refine keeps_ite ?_ ?_ | refine applyHalt_keeps ?_ | refine setF_keeps ?_)

theorem execDebugAttach_keeps {a1 a2 a3} (h : Keeps q s) : KeepsR q (execDebugAttach a1 a2 a3 s) := by
  unfold execDebugAttach
  with_reducible repeat' (first | assumption | refine keepsR_next ?_ | refine writeAttach_keeps ?_)

theorem execDebugClose_keeps (h : Keeps q s) : KeepsR q (execDebugClose s) := by
  unfold execDebugClose
  with_reducible repeat' (first
    | assumption | refine fun (_ : Keeps q _) => ?_ | refine keepsR_next ?_
    | refine requestOf_keeps ?_ ?_ | refine endDebug_keeps ?_ | intro _)

theorem execDebugOpen_keeps (h : Keeps q s) : KeepsR q (execDebugOpen s) := by
  unfold execDebugOpen
  with_reducible repeat' (first
    | assumption | refine fun (_ : Keeps q _) => ?_ | refine keepsR_next ?_
    | refine requestOf_keeps ?_ ?_ | refine debugOpen_keeps ?_ | intro _)

theorem execDebugSessionExpiry_keeps (h : Keeps q s) : KeepsR q (execDebugSessionExpiry s) := by
  unfold execDebugSessionExpiry
  with_reducible repeat' (first
    | assumption | refine keepsR_next ?_ | refine keeps_ite ?_ ?_
    | refine endDebug_keeps ?_ | split)

theorem execDecommission_keeps {a1} (h : Keeps q s) : KeepsR q (execDecommission a1 s) := by
  unfold execDecommission
  with_reducible repeat' (first
    | assumption | refine fun (_ : Keeps q _) => ?_ | refine keepsR_next ?_
    | refine decommission_keeps ?_ | refine requestOf_keeps ?_ ?_ | intro _)

theorem restartEngine_keeps {a1 a2} (h : Keeps q s) : Keeps q (restartEngine s a1 a2) := by
  unfold restartEngine
  with_reducible repeat' (first
    | assumption
    | (extract_lets +onlyGivenNames x; refine keeps_step (q := q) (x := x) ?_ ?_; (on_goal 1 => (dsimp -zeta only [x]; clear x)); (on_goal 2 => (clear_value x; revert x; intro _ _)))
    | (extract_lets +onlyGivenNames x; revert x; intro _)
    | refine keeps_ite ?_ ?_
    | refine setCl_keeps ?_
    | refine intPulse_keeps ?_
    | refine cvuUnclaim_keeps ?_
    | refine setF_keeps ?_
    | refine setDma_keeps ?_
    | refine resourceLost_keeps ?_)

theorem startDma_keeps {a1 a2} (h : Keeps q s) : Keeps q (startDma s a1 a2) := by
  unfold startDma
  with_reducible repeat' (first
    | assumption
    | (extract_lets +onlyGivenNames x; refine keeps_step (q := q) (x := x) ?_ ?_; (on_goal 1 => (dsimp -zeta only [x]; clear x)); (on_goal 2 => (clear_value x; revert x; intro _ _)))
    | (extract_lets +onlyGivenNames x; revert x; intro _)
    | refine keeps_ite ?_ ?_
    | refine setF_keeps ?_
    | refine setAside_keeps ?_
    | refine beginDescriptor_keeps ?_
    | refine setDma_keeps ?_
    | refine stopChannel_keeps ?_
    | refine takeDescriptor_keeps ?_)

theorem startEngine_keeps {a1 a2 a3} (h : Keeps q s) : Keeps q (startEngine s a1 a2 a3) := by
  unfold startEngine
  with_reducible repeat' (first
    | assumption
    | (extract_lets +onlyGivenNames x; refine keeps_step (q := q) (x := x) ?_ ?_; (on_goal 1 => (dsimp -zeta only [x]; clear x)); (on_goal 2 => (clear_value x; revert x; intro _ _)))
    | (extract_lets +onlyGivenNames x; revert x; intro _)
    | refine keeps_ite ?_ ?_
    | refine startDma_keeps ?_
    | refine setF_keeps ?_
    | refine cvuEngBegin_keeps ?_
    | refine cdeStart_keeps ?_
    | refine ceeStart_keeps ?_
    | refine keeps_of_eq1 (by assumption) ?_
    | refine keeps_of_eq2 (by assumption) ?_
    | refine keeps_of_eq12 (by assumption) ?_
    | intro _
    | split
    | (dsimp -zeta +zetaDelta only; split)
    | (constructor <;> dsimp only <;> first | exact Keeps.queue ‹_› | exact Keeps.mem ‹_› | exact Keeps.regs ‹_› | exact Keeps.ns ‹_› | exact Keeps.load ‹_›))

theorem holdHappening_keeps {a1 a2 a3} (h : Keeps q s) : Keeps q (holdHappening s a1 a2 a3) := by
  unfold holdHappening
  with_reducible repeat' (first
    | assumption
    | (extract_lets +onlyGivenNames x; refine keeps_step (q := q) (x := x) ?_ ?_; (on_goal 1 => (dsimp -zeta only [x]; clear x)); (on_goal 2 => (clear_value x; revert x; intro _ _)))
    | refine mapJob_keeps ?_ | refine mapNode_keeps ?_)

theorem execEngineCheck_keeps {a1 a2 a3} (h : Keeps q s) : KeepsR q (execEngineCheck a1 a2 a3 s) := by
  unfold execEngineCheck
  with_reducible repeat' (first
    | assumption
    | (extract_lets +onlyGivenNames x; refine keeps_step (q := q) (x := x) ?_ ?_; (on_goal 1 => (dsimp -zeta only [x]; clear x)); (on_goal 2 => (clear_value x; revert x; intro _ _)))
    | (extract_lets +onlyGivenNames x; revert x; intro _) | refine keepsR_next ?_ | refine keeps_ite ?_ ?_
    | refine keepsR_ite ?_ ?_ | refine setDma_keeps ?_ | refine report_keeps ?_
    | refine restartEngine_keeps ?_ | refine startEngine_keeps ?_ | refine holdHappening_keeps ?_
    | refine failNode_keeps ?_ | refine atDt_keeps ?_ | split
    | (constructor <;> dsimp only <;> first | exact Keeps.queue ‹_› | exact Keeps.mem ‹_› | exact Keeps.regs ‹_› | exact Keeps.ns ‹_› | exact Keeps.load ‹_›))

theorem runEngine_keeps {a1 a2 a3 a4} (h : Keeps q s) : Keeps q (runEngine s a1 a2 a3 a4).1 := by
  unfold runEngine
  with_reducible repeat' (first
    | assumption
    | (extract_lets +onlyGivenNames x; refine keeps_step1 (q := q) (x := x) ?_ ?_; (on_goal 1 => (dsimp -zeta only [x]; clear x)); (on_goal 2 => (clear_value x; revert x; intro _ _)))
    | refine cdeRun_keeps ?_ | refine ceeRun_keeps ?_ | refine bmeRun_keeps ?_
    | refine xfeRun_keeps ?_ | refine dteRun_keeps ?_ | split)

theorem execEngineOperationEnd_keeps {a1 a2 a3} (h : Keeps q s) : KeepsR q (execEngineOperationEnd a1 a2 a3 s) := by
  unfold execEngineOperationEnd
  with_reducible repeat' (first
    | assumption
    | (extract_lets +onlyGivenNames x; refine keeps_step (q := q) (x := x) ?_ ?_; (on_goal 1 => (dsimp -zeta only [x]; clear x)); (on_goal 2 => (clear_value x; revert x; intro _ _)))
    | (extract_lets +onlyGivenNames x; refine keeps_step1 (q := q) (x := x) ?_ ?_; (on_goal 1 => (dsimp -zeta only [x]; clear x)); (on_goal 2 => (clear_value x; revert x; intro _ _)))
    | refine keepsR_next ?_ | refine keeps_ite ?_ ?_ | refine keepsR_ite ?_ ?_
    | refine completeChannel_keeps ?_ | refine endNode_keeps ?_ | refine addF_keeps ?_
    | refine setF_keeps ?_ | refine runEngine_keeps ?_ | refine failNode_keeps ?_
    | refine atDt_keeps ?_ | split)

theorem execEnrolOwner_keeps {a1} (h : Keeps q s) : KeepsR q (execEnrolOwner a1 s) := by
  unfold execEnrolOwner
  with_reducible repeat' (first
    | assumption | refine fun (_ : Keeps q _) => ?_ | refine keepsR_next ?_
    | refine requestOf_keeps ?_ ?_ | refine enrolOwner_keeps ?_ | intro _)

theorem execExtest_keeps {a1} (h : Keeps q s) : KeepsR q (execExtest a1 s) := by
  unfold execExtest
  with_reducible repeat' (first | assumption | refine keepsR_next ?_ | refine ballInstr_keeps ?_)

theorem execExtestPulse_keeps {a1} (h : Keeps q s) : KeepsR q (execExtestPulse a1 s) := by
  unfold execExtestPulse
  with_reducible repeat' (first | assumption | refine keepsR_next ?_ | refine ballInstr_keeps ?_)

theorem execExtestTrain_keeps {a1} (h : Keeps q s) : KeepsR q (execExtestTrain a1 s) := by
  unfold execExtestTrain
  with_reducible repeat' (first | assumption | refine keepsR_next ?_ | refine ballInstr_keeps ?_)

theorem startHandOver_keeps {a1} (h : Keeps q s) : Keeps q (startHandOver s a1) := by
  unfold startHandOver
  with_reducible repeat' (first
    | assumption
    | (extract_lets +onlyGivenNames x; refine keeps_step (q := q) (x := x) ?_ ?_; (on_goal 1 => (dsimp -zeta only [x]; clear x)); (on_goal 2 => (clear_value x; revert x; intro _ _)))
    | (extract_lets +onlyGivenNames x; revert x; intro _) | refine keeps_ite ?_ ?_ | refine setF_keeps ?_
    | (constructor <;> dsimp only <;> first | exact Keeps.queue ‹_› | exact Keeps.mem ‹_› | exact Keeps.regs ‹_› | exact Keeps.ns ‹_› | exact Keeps.load ‹_›))

theorem execFirmwareHandOver_keeps {a1} (h : Keeps q s) : KeepsR q (execFirmwareHandOver a1 s) := by
  unfold execFirmwareHandOver
  with_reducible repeat' (first
    | assumption | refine keepsR_next ?_ | refine keeps_ite ?_ ?_
    | refine endVerify_keeps ?_ | refine changeCore_keeps ?_ | refine startHandOver_keeps ?_ | split)

theorem execFirmwareHealthyReport_keeps (h : Keeps q s) : KeepsR q (execFirmwareHealthyReport s) := by
  unfold execFirmwareHealthyReport
  with_reducible repeat' (first
    | assumption
    | (extract_lets +onlyGivenNames x; refine keeps_step (q := q) (x := x) ?_ ?_; (on_goal 1 => (dsimp -zeta only [x]; clear x)); (on_goal 2 => (clear_value x; revert x; intro _ _)))
    | (extract_lets +onlyGivenNames x; revert x; intro _) | refine keepsR_next ?_ | refine keepsR_ite ?_ ?_
    | refine intPulse_keeps ?_ | refine setF_keeps ?_ | split
    | (constructor <;> dsimp only <;> first | exact Keeps.queue ‹_› | exact Keeps.mem ‹_› | exact Keeps.regs ‹_› | exact Keeps.ns ‹_› | exact Keeps.load ‹_›))

theorem execFirmwareRevert_keeps (h : Keeps q s) : KeepsR q (execFirmwareRevert s) := by
  unfold execFirmwareRevert
  with_reducible repeat' (first
    | assumption
    | (extract_lets +onlyGivenNames x; refine keeps_step (q := q) (x := x) ?_ ?_; (on_goal 1 => (dsimp -zeta only [x]; clear x)); (on_goal 2 => (clear_value x; revert x; intro _ _)))
    | (extract_lets +onlyGivenNames x; revert x; intro _) | refine keepsR_next ?_ | refine keepsR_ite ?_ ?_
    | refine report_keeps ?_ | refine intPulse_keeps ?_ | refine setF_keeps ?_ | split
    | (constructor <;> dsimp only <;> first | exact Keeps.queue ‹_› | exact Keeps.mem ‹_› | exact Keeps.regs ‹_› | exact Keeps.ns ‹_› | exact Keeps.load ‹_›))

theorem frWrite_keeps {a1} (h : Keeps q s) : Keeps q (frWrite s a1) := by
  unfold frWrite
  with_reducible repeat' (first
    | assumption | (extract_lets +onlyGivenNames x; revert x; intro _) | refine setF_keeps ?_
    | refine wrBytes_keeps ?_)

theorem execFlightRecorderWrite_keeps (h : Keeps q s) : KeepsR q (execFlightRecorderWrite s) := by
  unfold execFlightRecorderWrite
  with_reducible repeat' (first
    | assumption | (extract_lets +onlyGivenNames x; revert x; intro _) | refine keepsR_next ?_
    | refine keepsR_ite ?_ ?_ | refine addF_keeps ?_ | refine frWrite_keeps ?_ | split
    | (dsimp -zeta +zetaDelta only; split)
    | (constructor <;> dsimp only <;> first | exact Keeps.queue ‹_› | exact Keeps.mem ‹_› | exact Keeps.regs ‹_› | exact Keeps.ns ‹_› | exact Keeps.load ‹_›))

theorem execHalt_keeps {a1} (h : Keeps q s) : KeepsR q (execHalt a1 s) := by
  unfold execHalt
  with_reducible repeat' (first
    | assumption | refine keepsR_next ?_ | refine applyHalt_keeps ?_
    | refine setF_keeps ?_)

theorem execHighz_keeps {a1} (h : Keeps q s) : KeepsR q (execHighz a1 s) := by
  unfold execHighz
  with_reducible repeat' (first | assumption | refine keepsR_next ?_ | refine ballInstr_keeps ?_)

theorem execHubFlitUncorrectable_keeps {a1 a2} (h : Keeps q s) : KeepsR q (execHubFlitUncorrectable a1 a2 s) := by
  unfold execHubFlitUncorrectable
  with_reducible repeat' (first
    | assumption
    | (extract_lets +onlyGivenNames x; refine keeps_step (q := q) (x := x) ?_ ?_; (on_goal 1 => (dsimp -zeta only [x]; clear x)); (on_goal 2 => (clear_value x; revert x; intro _ _)))
    | (extract_lets +onlyGivenNames x; revert x; intro _) | refine keepsR_next ?_ | refine keeps_ite ?_ ?_
    | refine report_keeps ?_ | refine setPoison_keeps ?_ | refine intPulse_keeps ?_
    | refine addF_keeps ?_ | refine setF_keeps ?_ | refine chipReset_keeps ?_ | split
    | (constructor <;> dsimp only <;> first | exact Keeps.queue ‹_› | exact Keeps.mem ‹_› | exact Keeps.regs ‹_› | exact Keeps.ns ‹_› | exact Keeps.load ‹_›))

theorem execIdcode_keeps (h : Keeps q s) : KeepsR q (execIdcode s) := by
  unfold execIdcode
  with_reducible repeat' (first
    | refine keepsR_next ?_ | refine emit_keeps ?_
    | (constructor <;> dsimp only <;> first | exact Keeps.queue ‹_› | exact Keeps.mem ‹_› | exact Keeps.regs ‹_› | exact Keeps.ns ‹_› | exact Keeps.load ‹_›))

theorem zeroInput_keeps {a1 a2 a3 a4 a5 a6 a7} (h : Keeps q s) : Keeps q (zeroInput a1 a2 a3 a4 a5 a6 s a7) := by
  unfold zeroInput
  with_reducible repeat' (first
    | assumption | refine fun (_ : Keeps q _) => ?_ | (extract_lets +onlyGivenNames x; revert x; intro _)
    | refine keeps_ite ?_ ?_ | refine keeps_foldl ?_ _ ?_ | refine putGroup_keeps ?_
    | refine wrMem_keeps ?_ | intro _ | split)

theorem inputIn_keeps {a1} (h : Keeps q s) : Keeps q (inputIn s a1) := by
  unfold inputIn
  with_reducible repeat' (first | assumption | refine mapNode_keeps ?_)

theorem execInputArrival_keeps {a1 a2} (h : Keeps q s) : KeepsR q (execInputArrival a1 a2 s) := by
  unfold execInputArrival
  with_reducible repeat' (first
    | assumption | refine fun (_ : Keeps q _) => ?_
    | (extract_lets +onlyGivenNames x; refine keeps_step (q := q) (x := x) ?_ ?_; (on_goal 1 => (dsimp -zeta only [x]; clear x)); (on_goal 2 => (clear_value x; revert x; intro _ _)))
    | (extract_lets +onlyGivenNames x; revert x; intro _) | refine keepsR_next ?_ | refine keepsR_ite ?_ ?_
    | refine keeps_foldl ?_ _ ?_ | refine mapJob_keeps ?_ | refine zeroInput_keeps ?_
    | refine inputIn_keeps ?_ | refine atDt_keeps ?_ | intro _ | split)

theorem ideMessage_keeps {b : Bool} {f : State → State × List Byte} (hf : ∀ x, Keeps q x → Keeps q (f x).1)
    (h : Keeps q s) : Keeps q (ideMessage s b f) := by
  unfold ideMessage
  with_reducible repeat' (first
    | assumption
    | (extract_lets +onlyGivenNames x; refine keeps_step1 (q := q) (x := x) ?_ ?_; (on_goal 1 => (dsimp -zeta only [x]; clear x)); (on_goal 2 => (clear_value x; revert x; intro _ _)))
    | refine keeps_ite ?_ ?_ | refine answerDoe_keeps ?_ | refine takeFree_keeps ?_
    | refine hf _ ?_)

theorem useSet_keeps {a1 a2 a3 a4} (h : Keeps q s) : Keeps q (useSet s a1 a2 a3 a4) := by
  unfold useSet
  with_reducible repeat' (first
    | assumption
    | (extract_lets +onlyGivenNames x; refine keeps_step (q := q) (x := x) ?_ ?_; (on_goal 1 => (dsimp -zeta only [x]; clear x)); (on_goal 2 => (clear_value x; revert x; intro _ _)))
    | (extract_lets +onlyGivenNames x; revert x; intro _) | refine keeps_ite ?_ ?_ | refine dropIde_keeps ?_
    | refine setIde_keeps ?_ | refine setF_keeps ?_
    | (constructor <;> dsimp only <;> first | exact Keeps.queue ‹_› | exact Keeps.mem ‹_› | exact Keeps.regs ‹_› | exact Keeps.ns ‹_› | exact Keeps.load ‹_›))

theorem execKSetGo_keeps {a1 a2 a3 a4 a5} (h : Keeps q s) : KeepsR q (execKSetGo a1 a2 a3 a4 a5 s) := by
  unfold execKSetGo
  with_reducible repeat' (first
    | assumption | refine fun (_ : Keeps q _) => ?_ | refine keepsR_next ?_
    | refine ideMessage_keeps ?_ ?_ | refine useSet_keeps ?_ | intro _ | split)

theorem execKSetStop_keeps {a1 a2 a3 a4 a5} (h : Keeps q s) : KeepsR q (execKSetStop a1 a2 a3 a4 a5 s) := by
  unfold execKSetStop
  with_reducible repeat' (first
    | assumption | refine fun (_ : Keeps q _) => ?_ | refine keepsR_next ?_
    | refine ideMessage_keeps ?_ ?_ | refine useSet_keeps ?_ | intro _ | split)

theorem execKeyProg_keeps {a1 a2 a3 a4 a5 a6} (h : Keeps q s) : KeepsR q (execKeyProg a1 a2 a3 a4 a5 a6 s) := by
  unfold execKeyProg
  with_reducible repeat' (first
    | assumption | refine fun (_ : Keeps q _) => ?_ | (extract_lets +onlyGivenNames x; revert x; intro _)
    | refine keepsR_next ?_ | refine ideMessage_keeps ?_ ?_ | intro _ | split | dsimp -zeta only
    | (constructor <;> dsimp only <;> first | exact Keeps.queue ‹_› | exact Keeps.mem ‹_› | exact Keeps.regs ‹_› | exact Keeps.ns ‹_› | exact Keeps.load ‹_›))

theorem keyWrite_keeps {a1} (h : Keeps q s) : Keeps q (keyWrite s a1).1 := by
  unfold keyWrite
  with_reducible repeat' (first
    | assumption
    | (extract_lets +onlyGivenNames x; refine keeps_step (q := q) (x := x) ?_ ?_; (on_goal 1 => (dsimp -zeta only [x]; clear x)); (on_goal 2 => (clear_value x; revert x; intro _ _)))
    | (extract_lets +onlyGivenNames x; revert x; intro _) | refine verifyFailed_keeps ?_ | refine setF_keeps ?_
    | refine setNonce_keeps ?_ | split | dsimp -zeta only
    | (constructor <;> dsimp only <;> first | exact Keeps.queue ‹_› | exact Keeps.mem ‹_› | exact Keeps.regs ‹_› | exact Keeps.ns ‹_› | exact Keeps.load ‹_›))

theorem execKeyWrite_keeps {a1 a2} (h : Keeps q s) : KeepsR q (execKeyWrite a1 a2 s) := by
  unfold execKeyWrite
  with_reducible repeat' (first
    | assumption
    | (extract_lets +onlyGivenNames x; refine keeps_step1 (q := q) (x := x) ?_ ?_; (on_goal 1 => (dsimp -zeta only [x]; clear x)); (on_goal 2 => (clear_value x; revert x; intro _ _)))
    | refine keepsR_next ?_ | refine keepsR_ite ?_ ?_ | refine answerDoe_keeps ?_
    | refine keyWrite_keeps ?_)

theorem execLockstepMismatch_keeps (h : Keeps q s) : KeepsR q (execLockstepMismatch s) := by
  unfold execLockstepMismatch
  with_reducible repeat' (first
    | assumption
    | (extract_lets +onlyGivenNames x; refine keeps_step (q := q) (x := x) ?_ ?_; (on_goal 1 => (dsimp -zeta only [x]; clear x)); (on_goal 2 => (clear_value x; revert x; intro _ _)))
    | (extract_lets +onlyGivenNames x; revert x; intro _) | refine keepsR_next ?_ | refine keeps_ite ?_ ?_
    | refine report_keeps ?_ | refine intPulse_keeps ?_ | refine addF_keeps ?_
    | refine chipReset_keeps ?_
    | (constructor <;> dsimp only <;> first | exact Keeps.queue ‹_› | exact Keeps.mem ‹_› | exact Keeps.regs ‹_› | exact Keeps.ns ‹_› | exact Keeps.load ‹_›))

theorem newNonce_keeps (h : Keeps q s) : Keeps q (newNonce s) := by
  unfold newNonce
  with_reducible repeat' (first | assumption | refine takeFree_keeps ?_ | refine setNonce_keeps ?_)

theorem execNonce_keeps (h : Keeps q s) : KeepsR q (execNonce s) := by
  unfold execNonce
  with_reducible repeat' (first | assumption | refine keepsR_next ?_ | refine newNonce_keeps ?_)

theorem requestRetire_keeps (h : Keeps q s) : Keeps q (requestRetire s) := by
  unfold requestRetire
  with_reducible repeat' (first | assumption | (extract_lets +onlyGivenNames x; revert x; intro _) | refine setHw_keeps ?_ | split)

theorem execPrmRetire_keeps (h : Keeps q s) : KeepsR q (execPrmRetire s) := by
  unfold execPrmRetire
  with_reducible repeat' (first | assumption | refine keepsR_next ?_ | refine requestRetire_keeps ?_)

theorem provisionDevice_keeps (h : Keeps q s) : Keeps q (provisionDevice s).1 :=
  keeps_congr h rfl rfl rfl rfl rfl

theorem execProvision_keeps (h : Keeps q s) : KeepsR q (execProvision s) := by
  unfold execProvision
  with_reducible repeat' (first
    | assumption | refine fun (_ : Keeps q _) => ?_ | refine keepsR_next ?_
    | refine requestOf_keeps ?_ ?_ | refine provisionDevice_keeps ?_ | intro _)

theorem rmaCapture_keeps (h : Keeps q s) : Keeps q (rmaCapture s) := by
  unfold rmaCapture
  with_reducible repeat' (first
    | assumption
    | (extract_lets +onlyGivenNames x; refine keeps_step (q := q) (x := x) ?_ ?_; (on_goal 1 => (dsimp -zeta only [x]; clear x)); (on_goal 2 => (clear_value x; revert x; intro _ _)))
    | (extract_lets +onlyGivenNames x; revert x; intro _) | refine intPulse_keeps ?_ | refine setF_keeps ?_
    | (constructor <;> dsimp only <;> first | exact Keeps.queue ‹_› | exact Keeps.mem ‹_› | exact Keeps.regs ‹_› | exact Keeps.ns ‹_› | exact Keeps.load ‹_›))

theorem unlockDevice_keeps {a1} (h : Keeps q s) : Keeps q (unlockDevice a1 s).1 := by
  unfold unlockDevice
  with_reducible repeat' (first
    | assumption | refine fun (_ : Keeps q _) => ?_
    | (extract_lets +onlyGivenNames x; refine keeps_step (q := q) (x := x) ?_ ?_; (on_goal 1 => (dsimp -zeta only [x]; clear x)); (on_goal 2 => (clear_value x; revert x; intro _ _)))
    | (extract_lets +onlyGivenNames x; revert x; intro _) | refine zeroStore_keeps ?_ | refine blow_keeps ?_ ?_
    | refine setF_keeps ?_ | refine endDebug_keeps ?_ | intro _
    | (constructor <;> dsimp only <;> first | exact Keeps.queue ‹_› | exact Keeps.mem ‹_› | exact Keeps.regs ‹_› | exact Keeps.ns ‹_› | exact Keeps.load ‹_›))

theorem setPolicy_keeps {a1} (h : Keeps q s) : Keeps q (setPolicy a1 s).1 := by
  unfold setPolicy
  with_reducible repeat' (first
    | assumption | refine fun (_ : Keeps q _) => ?_ | refine blow_keeps ?_ ?_
    | refine setF_keeps ?_ | intro _)

theorem revokeOwner_keeps {a1} (h : Keeps q s) : Keeps q (revokeOwner a1 s).1 := by
  unfold revokeOwner
  with_reducible repeat' (first
    | assumption | refine fun (_ : Keeps q _) => ?_ | (extract_lets +onlyGivenNames x; revert x; intro _)
    | refine blow_keeps ?_ ?_ | refine setBitF_keeps ?_ | refine clrBitF_keeps ?_ | intro _ | split)

theorem submitRequest_keeps {a1} (h : Keeps q s) : Keeps q (submitRequest s a1) := by
  unfold submitRequest
  split <;> refine runRequest_keeps (fun x hx => ?_) h
  · exact enrolOwner_keeps hx
  · exact revokeOwner_keeps hx
  · exact setPolicy_keeps hx
  · exact provisionDevice_keeps hx
  · exact commitSvn_keeps hx
  · exact debugOpen_keeps hx
  · exact endDebug_keeps hx
  · exact certSlot1_keeps hx
  · exact decommission_keeps hx
  · exact unlockDevice_keeps hx

theorem execQuery_keeps {a1} (h : Keeps q s) : KeepsR q (execQuery a1 s) := by
  unfold execQuery
  with_reducible repeat' (first
    | assumption | refine fun (_ : Keeps q _) => ?_ | refine keepsR_next ?_
    | refine ideMessage_keeps ?_ ?_ | refine takeFree_keeps ?_ | intro _)

theorem startTile_keeps {a1 a2 a3} (h : Keeps q s) : Keeps q (startTile s a1 a2 a3) := by
  unfold startTile
  with_reducible repeat' (first
    | assumption
    | refine keeps_ite ?_ ?_
    | refine tctNow_keeps ?_
    | refine setTile_keeps ?_
    | refine keeps_of_eq1 (by assumption) ?_
    | refine keeps_of_eq2 (by assumption) ?_
    | refine keeps_of_eq12 (by assumption) ?_
    | intro _
    | split)

theorem spareBegins_keeps {a1 a2} (h : Keeps q s) : Keeps q (spareBegins s a1 a2) := by
  unfold spareBegins
  with_reducible repeat' (first
    | assumption
    | (extract_lets +onlyGivenNames x; refine keeps_step (q := q) (x := x) ?_ ?_; (on_goal 1 => (dsimp -zeta only [x]; clear x)); (on_goal 2 => (clear_value x; revert x; intro _ _)))
    | (extract_lets +onlyGivenNames x; revert x; intro _)
    | refine keeps_ite ?_ ?_
    | refine spareServes_keeps ?_
    | refine setCl_keeps ?_
    | refine keeps_of_eq1 (by assumption) ?_
    | refine keeps_of_eq2 (by assumption) ?_
    | refine keeps_of_eq12 (by assumption) ?_
    | intro _
    | split
    | (dsimp -zeta +zetaDelta only; split)
    | (constructor <;> dsimp only <;> first | exact Keeps.queue ‹_› | exact Keeps.mem ‹_› | exact Keeps.regs ‹_› | exact Keeps.ns ‹_› | exact Keeps.load ‹_›))

theorem redoOn_keeps {a1 a2 a3} (h : Keeps q s) : Keeps q (redoOn s a1 a2 a3) := by
  unfold redoOn
  with_reducible repeat' (first
    | assumption
    | refine keeps_ite ?_ ?_
    | refine failNode_keeps ?_
    | refine startTile_keeps ?_
    | intro _
    | split
    | (dsimp -zeta +zetaDelta only; split)
    | (constructor <;> dsimp only <;> first | exact Keeps.queue ‹_› | exact Keeps.mem ‹_› | exact Keeps.regs ‹_› | exact Keeps.ns ‹_› | exact Keeps.load ‹_›))

theorem execRedoStart_keeps {a1 a2} (h : Keeps q s) : KeepsR q (execRedoStart a1 a2 s) := by
  unfold execRedoStart
  with_reducible repeat' (first
    | assumption
    | (extract_lets +onlyGivenNames x; refine keeps_step (q := q) (x := x) ?_ ?_; (on_goal 1 => (dsimp -zeta only [x]; clear x)); (on_goal 2 => (clear_value x; revert x; intro _ _)))
    | (extract_lets +onlyGivenNames x; revert x; intro _)
    | refine keepsR_next ?_
    | refine keepsR_fault _
    | refine keepsR_refused _
    | refine keepsR_ite ?_ ?_
    | refine keeps_ite ?_ ?_
    | refine atDt_keeps ?_
    | refine setHw_keeps ?_
    | refine failNode_keeps ?_
    | refine spareBegins_keeps ?_
    | refine redoOn_keeps ?_
    | refine keeps_of_eq1 (by assumption) ?_
    | refine keeps_of_eq2 (by assumption) ?_
    | refine keeps_of_eq12 (by assumption) ?_
    | intro _
    | split
    | (dsimp -zeta +zetaDelta only; split)
    | (constructor <;> dsimp only <;> first | exact Keeps.queue ‹_› | exact Keeps.mem ‹_› | exact Keeps.regs ‹_› | exact Keeps.ns ‹_› | exact Keeps.load ‹_›))

theorem execRevokeOwner_keeps {a1} (h : Keeps q s) : KeepsR q (execRevokeOwner a1 s) := by
  unfold execRevokeOwner
  with_reducible repeat' (first
    | assumption | refine fun (_ : Keeps q _) => ?_ | refine keepsR_next ?_
    | refine requestOf_keeps ?_ ?_ | refine revokeOwner_keeps ?_ | intro _)

theorem execRmaCapture_keeps (h : Keeps q s) : KeepsR q (execRmaCapture s) := by
  unfold execRmaCapture
  with_reducible repeat' (first | assumption | refine keepsR_next ?_ | refine rmaCapture_keeps ?_)

theorem execSamplePreload_keeps (h : Keeps q s) : KeepsR q (execSamplePreload s) := by
  unfold execSamplePreload
  with_reducible repeat' (first
    | refine keepsR_next ?_
    | (constructor <;> dsimp only <;> first | exact Keeps.queue ‹_› | exact Keeps.mem ‹_› | exact Keeps.regs ‹_› | exact Keeps.ns ‹_› | exact Keeps.load ‹_›))

theorem runImage_keeps {a1 a2} (h : Keeps q s) : Keeps q (runImage s a1 a2) := by
  unfold runImage
  with_reducible repeat' (first
    | assumption
    | (extract_lets +onlyGivenNames x; refine keeps_step (q := q) (x := x) ?_ ?_; (on_goal 1 => (dsimp -zeta only [x]; clear x)); (on_goal 2 => (clear_value x; revert x; intro _ _)))
    | (extract_lets +onlyGivenNames x; revert x; intro _) | refine bootStep_keeps ?_ | refine setF_keeps ?_
    | (constructor <;> dsimp only <;> first | exact Keeps.queue ‹_› | exact Keeps.mem ‹_› | exact Keeps.regs ‹_› | exact Keeps.ns ‹_› | exact Keeps.load ‹_›))

theorem execSecureBoot_keeps {a1 a2} (h : Keeps q s) : KeepsR q (execSecureBoot a1 a2 s) := by
  unfold execSecureBoot
  with_reducible repeat' (first
    | assumption
    | (extract_lets +onlyGivenNames x; refine keeps_step1 (q := q) (x := x) ?_ ?_; (on_goal 1 => (dsimp -zeta only [x]; clear x)); (on_goal 2 => (clear_value x; revert x; intro _ _)))
    | (extract_lets +onlyGivenNames x; revert x; intro _) | refine keepsR_next ?_ | refine keepsR_ite ?_ ?_
    | refine verifyImage_keeps ?_ | refine runImage_keeps ?_ | refine enterRecovery_keeps ?_ | split)

theorem execSetPolicy_keeps {a1} (h : Keeps q s) : KeepsR q (execSetPolicy a1 s) := by
  unfold execSetPolicy
  with_reducible repeat' (first
    | assumption | refine fun (_ : Keeps q _) => ?_ | refine keepsR_next ?_
    | refine requestOf_keeps ?_ ?_ | refine setPolicy_keeps ?_ | intro _)

theorem spdmAnswer_keeps {a1 a2} (h : Keeps q s) : Keeps q (spdmAnswer s a1 a2).1 := by
  unfold spdmAnswer
  with_reducible repeat' (first
    | assumption | (extract_lets +onlyGivenNames x; revert x; intro _) | split | (dsimp -zeta +zetaDelta only; split)
    | dsimp -zeta only
    | (constructor <;> dsimp only <;> first | exact Keeps.queue ‹_› | exact Keeps.mem ‹_› | exact Keeps.regs ‹_› | exact Keeps.ns ‹_› | exact Keeps.load ‹_›))

theorem execSpdmRequest_keeps {a1 a2} (h : Keeps q s) : KeepsR q (execSpdmRequest a1 a2 s) := by
  unfold execSpdmRequest
  with_reducible repeat' (first
    | assumption | refine keepsR_next ?_ | refine keepsR_ite ?_ ?_
    | refine answerDoe_keeps ?_ | refine takeFree_keeps ?_ | refine spdmAnswer_keeps ?_)

theorem tamperActs_keeps {a1} (h : Keeps q s) : Keeps q (tamperActs s a1) := by
  unfold tamperActs
  with_reducible repeat' (first
    | assumption
    | (extract_lets +onlyGivenNames x; refine keeps_step (q := q) (x := x) ?_ ?_; (on_goal 1 => (dsimp -zeta only [x]; clear x)); (on_goal 2 => (clear_value x; revert x; intro _ _)))
    | (extract_lets +onlyGivenNames x; revert x; intro _) | refine keeps_ite ?_ ?_ | refine intPulse_keeps ?_
    | refine addF_keeps ?_ | refine setF_keeps ?_ | refine abortStoreLoads_keeps ?_
    | refine refresh_keeps ?_ | refine endDebug_keeps ?_
    | (constructor <;> dsimp only <;> first | exact Keeps.queue ‹_› | exact Keeps.mem ‹_› | exact Keeps.regs ‹_› | exact Keeps.ns ‹_› | exact Keeps.load ‹_›))

theorem execTamper_keeps {a1 a2} (h : Keeps q s) : KeepsR q (execTamper a1 a2 s) := by
  unfold execTamper
  with_reducible repeat' (first
    | assumption | refine keepsR_next ?_ | refine keepsR_ite ?_ ?_
    | refine tamperActs_keeps ?_ | refine takeFree_keeps ?_)

theorem removeTask_keeps {a1 a2} (h : Keeps q s) : Keeps q (removeTask s a1 a2) := by
  unfold removeTask
  with_reducible repeat' (first
    | assumption
    | (extract_lets +onlyGivenNames x; refine keeps_step (q := q) (x := x) ?_ ?_; (on_goal 1 => (dsimp -zeta only [x]; clear x)); (on_goal 2 => (clear_value x; revert x; intro _ _)))
    | refine keeps_ite ?_ ?_ | refine endNode_keeps ?_ | refine intPulse_keeps ?_
    | refine addF_keeps ?_ | refine failNode_keeps ?_)

theorem startNode_keeps {a1 a2} (h : Keeps q s) : Keeps q (startNode s a1 a2) := by
  unfold startNode
  with_reducible repeat' (first
    | assumption
    | (extract_lets +onlyGivenNames x; refine keeps_step (q := q) (x := x) ?_ ?_; (on_goal 1 => (dsimp -zeta only [x]; clear x)); (on_goal 2 => (clear_value x; revert x; intro _ _)))
    | (extract_lets +onlyGivenNames x; revert x; intro _)
    | refine keeps_ite ?_ ?_
    | refine mapNode_keeps ?_
    | refine setCl_keeps ?_
    | refine setF_keeps ?_
    | refine passCsm_keeps ?_
    | refine startTile_keeps ?_
    | refine startEngine_keeps ?_
    | refine keeps_of_eq1 (by assumption) ?_
    | refine keeps_of_eq2 (by assumption) ?_
    | refine keeps_of_eq12 (by assumption) ?_
    | intro _
    | split)

theorem execTaskStart_keeps {a1 a2 a3} (h : Keeps q s) : KeepsR q (execTaskStart a1 a2 a3 s) := by
  unfold execTaskStart
  with_reducible repeat' (first
    | assumption
    | (extract_lets +onlyGivenNames x; refine keeps_step (q := q) (x := x) ?_ ?_; (on_goal 1 => (dsimp -zeta only [x]; clear x)); (on_goal 2 => (clear_value x; revert x; intro _ _)))
    | refine keepsR_next ?_ | refine keeps_ite ?_ ?_ | refine keepsR_ite ?_ ?_
    | refine removeTask_keeps ?_ | refine startNode_keeps ?_ | refine failNode_keeps ?_
    | refine atDt_keeps ?_ | split)

theorem execTileCoreCheck_keeps {a1 a2} (h : Keeps q s) : KeepsR q (execTileCoreCheck a1 a2 s) := by
  unfold execTileCoreCheck
  with_reducible repeat' (first
    | assumption
    | (extract_lets +onlyGivenNames x; refine keeps_step (q := q) (x := x) ?_ ?_; (on_goal 1 => (dsimp -zeta only [x]; clear x)); (on_goal 2 => (clear_value x; revert x; intro _ _)))
    | (extract_lets +onlyGivenNames x; revert x; intro _)
    | refine keepsR_next ?_
    | refine keepsR_fault _
    | refine keepsR_refused _
    | refine keepsR_ite ?_ ?_
    | refine keeps_ite ?_ ?_
    | refine atDt_keeps ?_
    | refine stopTile_keeps ?_
    | refine report_keeps ?_
    | refine setTilFault_keeps ?_
    | refine dropTask_keeps ?_
    | refine holdHappening_keeps ?_
    | refine setHw_keeps ?_
    | refine finishTile_keeps ?_
    | refine keeps_of_eq1 (by assumption) ?_
    | refine keeps_of_eq2 (by assumption) ?_
    | refine keeps_of_eq12 (by assumption) ?_
    | intro _
    | split
    | (dsimp -zeta +zetaDelta only; split)
    | (constructor <;> dsimp only <;> first | exact Keeps.queue ‹_› | exact Keeps.mem ‹_› | exact Keeps.regs ‹_› | exact Keeps.ns ‹_› | exact Keeps.load ‹_›))

theorem passRetest_keeps {a1} (h : Keeps q s) : Keeps q (passRetest s a1) := by
  unfold passRetest
  with_reducible repeat' (first
    | assumption | (extract_lets +onlyGivenNames x; revert x; intro _) | refine keeps_ite ?_ ?_
    | refine setCl_keeps ?_ | refine setHw_keeps ?_ | refine clrBitF_keeps ?_)

theorem execTileRetestDone_keeps {a1 a2} (h : Keeps q s) : KeepsR q (execTileRetestDone a1 a2 s) := by
  unfold execTileRetestDone
  with_reducible repeat' (first
    | assumption
    | (extract_lets +onlyGivenNames x; refine keeps_step (q := q) (x := x) ?_ ?_; (on_goal 1 => (dsimp -zeta only [x]; clear x)); (on_goal 2 => (clear_value x; revert x; intro _ _)))
    | (extract_lets +onlyGivenNames x; revert x; intro _) | refine keepsR_next ?_ | refine keeps_ite ?_ ?_
    | refine keepsR_ite ?_ ?_ | refine passRetest_keeps ?_ | refine setHw_keeps ?_
    | refine setBitF_keeps ?_ | refine showTesting_keeps ?_)

theorem execUnlock_keeps {a1} (h : Keeps q s) : KeepsR q (execUnlock a1 s) := by
  unfold execUnlock
  with_reducible repeat' (first
    | assumption | refine fun (_ : Keeps q _) => ?_ | refine keepsR_next ?_
    | refine unlockDevice_keeps ?_ | refine requestOf_keeps ?_ ?_ | intro _)

theorem execVbatLow_keeps (h : Keeps q s) : KeepsR q (execVbatLow s) := by
  unfold execVbatLow
  with_reducible repeat' (first
    | assumption | refine keepsR_next ?_ | refine setF_keeps ?_
    | refine refresh_keeps ?_)

end Sys2Proof.Machine
end

