-- ==== Sys2Proof/Laws/KeepsWrite.lean ====
section
/-!
SUPPORT. That every operation and command's meaning keeps what Keeps names: the laws of the slot boundaries, the tick and the register accesses.
-/

namespace Sys2Proof.Machine

set_option Elab.async false

variable {q : Kept} {s : State}

theorem atInstant_keeps {a1} (h : Keeps q s) : Keeps q (atInstant s a1) := by
  unfold atInstant
  with_reducible repeat' (first | assumption | refine atDt_keeps ?_)

theorem readWord_keeps {a1} (h : Keeps q s) : Keeps q (readWord s a1).2 := by
  unfold readWord
  with_reducible repeat' (first
    | assumption
    | (extract_lets +onlyGivenNames x; refine keeps_step (q := q) (x := x) ?_ ?_; (on_goal 1 => (dsimp -zeta only [x]; clear x)); (on_goal 2 => (clear_value x; revert x; intro _ _)))
    | (extract_lets +onlyGivenNames x; revert x; intro _)
    | refine keeps_ite ?_ ?_
    | refine settle_keeps ?_
    | refine readEffect_keeps ?_
    | refine keeps_of_eq1 (by assumption) ?_
    | refine keeps_of_eq2 (by assumption) ?_
    | refine keeps_of_eq12 (by assumption) ?_
    | intro _
    | split
    | (dsimp -zeta +zetaDelta only; split)
    | (constructor <;> dsimp only <;> first | exact Keeps.queue ‹_› | exact Keeps.mem ‹_› | exact Keeps.regs ‹_› | exact Keeps.ns ‹_› | exact Keeps.load ‹_›))

theorem readWords_keeps {a1 a2} (h : Keeps q s) : Keeps q (readWords s a1 a2).2 := by
  induction a2 generalizing s a1 with
  | zero => exact h
  | succ n ih =>
    unfold readWords
    with_reducible repeat' (first | assumption | refine readWord_keeps ?_ | refine ih ?_)

theorem execBarRead_keeps {a1 a2 a3} (h : Keeps q s) : KeepsR q (execBarRead a1 a2 a3 s) := by
  unfold execBarRead
  with_reducible repeat' (first
    | assumption
    | (extract_lets +onlyGivenNames x; refine keeps_step (q := q) (x := x) ?_ ?_; (on_goal 1 => (dsimp -zeta only [x]; clear x)); (on_goal 2 => (clear_value x; revert x; intro _ _)))
    | (extract_lets +onlyGivenNames x; refine keeps_step2 (q := q) (x := x) ?_ ?_; (on_goal 1 => (dsimp -zeta only [x]; clear x)); (on_goal 2 => (clear_value x; revert x; intro _ _)))
    | (extract_lets +onlyGivenNames x; revert x; intro _)
    | refine keepsR_next ?_
    | refine keepsR_fault _
    | refine keepsR_refused _
    | refine keepsR_ite ?_ ?_
    | refine keeps_ite ?_ ?_
    | refine emit_keeps ?_
    | refine readWords_keeps ?_
    | refine keeps_of_eq1 (by assumption) ?_
    | refine keeps_of_eq2 (by assumption) ?_
    | refine keeps_of_eq12 (by assumption) ?_
    | intro _
    | split
    | (dsimp -zeta +zetaDelta only; split)
    | (constructor <;> dsimp only <;> first | exact Keeps.queue ‹_› | exact Keeps.mem ‹_› | exact Keeps.regs ‹_› | exact Keeps.ns ‹_› | exact Keeps.load ‹_›))

theorem execCarrierSlotBoundary_keeps {a1} (h : Keeps q s) : KeepsR q (execCarrierSlotBoundary a1 s) := by
  unfold execCarrierSlotBoundary
  with_reducible repeat' (first
    | assumption | (extract_lets +onlyGivenNames x; revert x; intro _) | refine keepsR_next ?_
    | refine keepsR_ite ?_ ?_ | refine atInstant_keeps ?_ | refine clearDelayViol_keeps ?_
    | refine freePlans_keeps ?_)

theorem nextOr_keeps {r : Res} (hr : KeepsR q r) (h : Keeps q s) : Keeps q (nextOr s r) := by
  unfold nextOr
  split
  · exact hr.next _ rfl
  · exact h

theorem putPlain_keeps {a1 a2 a3 a4} (h : Keeps q s) : Keeps q (putPlain s a1 a2 a3 a4) := by
  unfold putPlain
  with_reducible repeat' (first | assumption | refine writeFields_keeps ?_)

theorem putPmb_keeps {a1 a2 a3 a4} (h : Keeps q s) : Keeps q (putPmb s a1 a2 a3 a4) := by
  unfold putPmb
  with_reducible repeat' (first
    | assumption
    | (extract_lets +onlyGivenNames x; refine keeps_step (q := q) (x := x) ?_ ?_; (on_goal 1 => (dsimp -zeta only [x]; clear x)); (on_goal 2 => (clear_value x; revert x; intro _ _)))
    | refine keeps_ite ?_ ?_ | refine nextOr_keeps ?_ ?_ | refine execPmbusTransaction_keeps ?_
    | refine takeFree_keeps ?_ | refine putPlain_keeps ?_)

theorem putQCtl_keeps {a1 a2 a3 a4 a5} (h : Keeps q s) : Keeps q (putQCtl s a1 a2 a3 a4 a5) := by
  unfold putQCtl
  with_reducible repeat' (first
    | assumption
    | (extract_lets +onlyGivenNames x; refine keeps_step (q := q) (x := x) ?_ ?_; (on_goal 1 => (dsimp -zeta only [x]; clear x)); (on_goal 2 => (clear_value x; revert x; intro _ _)))
    | refine keeps_ite ?_ ?_ | refine startReinit_keeps ?_ | refine writeTarget_keeps ?_
    | refine putPlain_keeps ?_)

theorem putPrm_keeps {a1 a2 a3 a4} (h : Keeps q s) : Keeps q (putPrm s a1 a2 a3 a4) := by
  unfold putPrm
  with_reducible repeat' (first
    | assumption | refine fun (_ : Keeps q _) => ?_
    | (extract_lets +onlyGivenNames x; refine keeps_step (q := q) (x := x) ?_ ?_; (on_goal 1 => (dsimp -zeta only [x]; clear x)); (on_goal 2 => (clear_value x; revert x; intro _ _)))
    | refine keeps_ite ?_ ?_ | refine keeps_foldl ?_ _ ?_ | refine rmaCapture_keeps ?_
    | refine requestRetire_keeps ?_ | refine putPmb_keeps ?_ | refine putQCtl_keeps ?_
    | refine refresh_keeps ?_ | refine refreshRail_keeps ?_ | refine putPlain_keeps ?_
    | refine chipReset_keeps ?_ | refine startHandOver_keeps ?_ | intro _ | split)

theorem putInt_keeps {a1 a2 a3 a4} (h : Keeps q s) : Keeps q (putInt s a1 a2 a3 a4) := by
  unfold putInt
  with_reducible repeat' (first
    | assumption | refine keeps_ite ?_ ?_ | refine ackSource_keeps ?_
    | refine nextOr_keeps ?_ ?_ | refine execClrCnt_keeps ?_ | refine putPlain_keeps ?_
    | refine writeSrcCfg_keeps ?_ | split)

theorem nvsGo_keeps (h : Keeps q s) : Keeps q (nvsGo s) := by
  unfold nvsGo
  with_reducible repeat' (first
    | assumption | refine nvsProgram_keeps ?_ | refine nvsRead_keeps ?_
    | refine takeFree_keeps ?_ | split)

theorem putNvs_keeps {a1 a2 a3 a4} (h : Keeps q s) : Keeps q (putNvs s a1 a2 a3 a4) := by
  unfold putNvs
  with_reducible repeat' (first
    | assumption
    | (extract_lets +onlyGivenNames x; refine keeps_step (q := q) (x := x) ?_ ?_; (on_goal 1 => (dsimp -zeta only [x]; clear x)); (on_goal 2 => (clear_value x; revert x; intro _ _)))
    | refine keeps_ite ?_ ?_ | refine writeSlotCfg_keeps ?_ | refine nvsGo_keeps ?_
    | refine refresh_keeps ?_ | refine putPlain_keeps ?_ | split)

theorem putHdm_keeps {a1 a2} (h : Keeps q s) : Keeps q (putHdm s a1 a2) := by
  unfold putHdm
  with_reducible repeat' (first
    | assumption | (extract_lets +onlyGivenNames x; revert x; intro _) | refine keeps_ite ?_ ?_
    | refine setF_keeps ?_)

theorem putMem_keeps {a1 a2 a3 a4} (h : Keeps q s) : Keeps q (putMem s a1 a2 a3 a4) := by
  unfold putMem
  with_reducible repeat' (first
    | assumption
    | (extract_lets +onlyGivenNames x; refine keeps_step (q := q) (x := x) ?_ ?_; (on_goal 1 => (dsimp -zeta only [x]; clear x)); (on_goal 2 => (clear_value x; revert x; intro _ _)))
    | (extract_lets +onlyGivenNames x; revert x; intro _) | refine keeps_ite ?_ ?_ | refine spareRow_keeps ?_
    | refine putHdm_keeps ?_ | refine refresh_keeps ?_ | refine putPlain_keeps ?_ | split)

theorem putPwrc_keeps {a1 a2 a3 a4} (h : Keeps q s) : Keeps q (putPwrc s a1 a2 a3 a4) := by
  unfold putPwrc
  with_reducible repeat' (first
    | assumption | refine writeClCtl_keeps ?_ | refine putPlain_keeps ?_
    | refine writeClCmd_keeps ?_ | split)

theorem putLanCtl_keeps {a1 a2 a3 a4} (h : Keeps q s) : Keeps q (putLanCtl s a1 a2 a3 a4) := by
  unfold putLanCtl
  with_reducible repeat' (first
    | assumption
    | (extract_lets +onlyGivenNames x; refine keeps_step (q := q) (x := x) ?_ ?_; (on_goal 1 => (dsimp -zeta only [x]; clear x)); (on_goal 2 => (clear_value x; revert x; intro _ _)))
    | (extract_lets +onlyGivenNames x; revert x; intro _) | refine keeps_ite ?_ ?_ | refine disableLane_keeps ?_
    | refine refreshLane_keeps ?_ | refine enableLane_keeps ?_ | refine putPlain_keeps ?_)

theorem putLanMap_keeps {a1 a2 a3 a4 a5} (h : Keeps q s) : Keeps q (putLanMap s a1 a2 a3 a4 a5) := by
  unfold putLanMap
  with_reducible repeat' (first
    | assumption
    | (extract_lets +onlyGivenNames x; refine keeps_step (q := q) (x := x) ?_ ?_; (on_goal 1 => (dsimp -zeta only [x]; clear x)); (on_goal 2 => (clear_value x; revert x; intro _ _)))
    | (extract_lets +onlyGivenNames x; revert x; intro _)
    | refine keeps_ite ?_ ?_
    | refine refreshPhx_keeps ?_
    | refine setF_keeps ?_
    | refine putPlain_keeps ?_
    | refine keeps_of_eq1 (by assumption) ?_
    | refine keeps_of_eq2 (by assumption) ?_
    | refine keeps_of_eq12 (by assumption) ?_
    | intro _
    | split
    | (dsimp -zeta +zetaDelta only; split)
    | (constructor <;> dsimp only <;> first | exact Keeps.queue ‹_› | exact Keeps.mem ‹_› | exact Keeps.regs ‹_› | exact Keeps.ns ‹_› | exact Keeps.load ‹_›))

theorem putLan_keeps {a1 a2 a3 a4} (h : Keeps q s) : Keeps q (putLan s a1 a2 a3 a4) := by
  unfold putLan
  with_reducible repeat' (first
    | assumption
    | (extract_lets +onlyGivenNames x; refine keeps_step (q := q) (x := x) ?_ ?_; (on_goal 1 => (dsimp -zeta only [x]; clear x)); (on_goal 2 => (clear_value x; revert x; intro _ _)))
    | (extract_lets +onlyGivenNames x; revert x; intro _) | refine keeps_ite ?_ ?_
    | refine clearLaneCounters_keeps ?_ | refine mqSend_keeps ?_ | refine mqData_keeps ?_
    | refine requestSwitch_keeps ?_ | refine refreshLane_keeps ?_ | refine putLanCtl_keeps ?_
    | refine mqPop_keeps ?_ | refine putLanMap_keeps ?_ | refine putPlain_keeps ?_ | split)

theorem putCxl_keeps {a1 a2 a3 a4} (h : Keeps q s) : Keeps q (putCxl s a1 a2 a3 a4) := by
  unfold putCxl
  with_reducible repeat' (first
    | assumption | refine keeps_ite ?_ ?_ | refine nextOr_keeps ?_ ?_
    | refine execCxlCntClr_keeps ?_ | refine putPlain_keeps ?_ | split)

theorem putBcCtl_keeps {a1 a2 a3 a4} (h : Keeps q s) : Keeps q (putBcCtl s a1 a2 a3 a4) := by
  unfold putBcCtl
  with_reducible repeat' (first
    | assumption
    | (extract_lets +onlyGivenNames x; refine keeps_step (q := q) (x := x) ?_ ?_; (on_goal 1 => (dsimp -zeta only [x]; clear x)); (on_goal 2 => (clear_value x; revert x; intro _ _)))
    | (extract_lets +onlyGivenNames x; revert x; intro _) | refine setF_keeps ?_ | refine putPlain_keeps ?_)

theorem putServoCtl_keeps {a1 a2 a3 a4 a5} (h : Keeps q s) : Keeps q (putServoCtl s a1 a2 a3 a4 a5) := by
  unfold putServoCtl
  with_reducible repeat' (first
    | assumption
    | (extract_lets +onlyGivenNames x; refine keeps_step (q := q) (x := x) ?_ ?_; (on_goal 1 => (dsimp -zeta only [x]; clear x)); (on_goal 2 => (clear_value x; revert x; intro _ _)))
    | (extract_lets +onlyGivenNames x; revert x; intro _)
    | refine keeps_ite ?_ ?_
    | refine putPlain_keeps ?_
    | refine setF_keeps ?_
    | refine setServo_keeps ?_
    | refine setServoState_keeps ?_
    | refine holdoverIfNone_keeps ?_)

theorem stopPps_keeps (h : Keeps q s) : Keeps q (stopPps s) := by
  unfold stopPps
  with_reducible repeat' (first
    | assumption | (extract_lets +onlyGivenNames x; revert x; intro _) | refine keeps_ite ?_ ?_
    | refine emit_keeps ?_
    | (constructor <;> dsimp only <;> first | exact Keeps.queue ‹_› | exact Keeps.mem ‹_› | exact Keeps.regs ‹_› | exact Keeps.ns ‹_› | exact Keeps.load ‹_›))

theorem putSynceCtl_keeps {a1 a2 a3 a4} (h : Keeps q s) : Keeps q (putSynceCtl s a1 a2 a3 a4) := by
  unfold putSynceCtl
  with_reducible repeat' (first
    | assumption
    | (extract_lets +onlyGivenNames x; refine keeps_step (q := q) (x := x) ?_ ?_; (on_goal 1 => (dsimp -zeta only [x]; clear x)); (on_goal 2 => (clear_value x; revert x; intro _ _)))
    | refine keeps_ite ?_ ?_
    | refine takeSynce_keeps ?_
    | refine putPlain_keeps ?_
    | refine emit_keeps ?_)

theorem putLks_keeps {a1 a2 a3 a4} (h : Keeps q s) : Keeps q (putLks s a1 a2 a3 a4) := by
  unfold putLks
  with_reducible repeat' (first
    | assumption
    | (extract_lets +onlyGivenNames x; revert x; intro _)
    | refine keeps_ite ?_ ?_
    | refine stopPps_keeps ?_
    | refine commandSwitch_keeps ?_
    | refine putPlain_keeps ?_
    | refine nextOr_keeps ?_ ?_
    | refine execCtLoad_keeps ?_
    | refine writeFadj_keeps ?_
    | refine execPhaseReq_keeps ?_
    | refine putServoCtl_keeps ?_
    | refine putBcCtl_keeps ?_
    | refine putSynceCtl_keeps ?_
    | refine execPtpDropClr_keeps ?_
    | refine setF_keeps ?_
    | refine keeps_of_eq1 (by assumption) ?_
    | refine keeps_of_eq2 (by assumption) ?_
    | refine keeps_of_eq12 (by assumption) ?_
    | intro _
    | split
    | (constructor <;> dsimp only <;> first | exact Keeps.queue ‹_› | exact Keeps.mem ‹_› | exact Keeps.regs ‹_› | exact Keeps.ns ‹_› | exact Keeps.load ‹_›))

theorem putPfeCtl_keeps {a1 a2 a3 a4 a5 a6} (h : Keeps q s) : Keeps q (putPfeCtl s a1 a2 a3 a4 a5 a6) := by
  unfold putPfeCtl
  with_reducible repeat' (first
    | assumption
    | (extract_lets +onlyGivenNames x; refine keeps_step (q := q) (x := x) ?_ ?_; (on_goal 1 => (dsimp -zeta only [x]; clear x)); (on_goal 2 => (clear_value x; revert x; intro _ _)))
    | refine keeps_ite ?_ ?_ | refine enablePfe_keeps ?_ | refine disablePfe_keeps ?_
    | refine putPlain_keeps ?_)

theorem putPfe_keeps {a1 a2 a3 a4} (h : Keeps q s) : Keeps q (putPfe s a1 a2 a3 a4) := by
  unfold putPfe
  with_reducible repeat' (first
    | assumption | (extract_lets +onlyGivenNames x; revert x; intro _) | refine keeps_ite ?_ ?_
    | refine putPfeCtl_keeps ?_ | refine refresh_keeps ?_ | refine putPlain_keeps ?_ | split)

theorem putScr_keeps {a1 a2 a3 a4} (h : Keeps q s) : Keeps q (putScr s a1 a2 a3 a4) := by
  unfold putScr
  with_reducible repeat' (first
    | assumption
    | (extract_lets +onlyGivenNames x; refine keeps_step (q := q) (x := x) ?_ ?_; (on_goal 1 => (dsimp -zeta only [x]; clear x)); (on_goal 2 => (clear_value x; revert x; intro _ _)))
    | refine keeps_ite ?_ ?_ | refine scrGo_keeps ?_ | refine refreshScr_keeps ?_
    | refine putPlain_keeps ?_ | split)

theorem putFxg_keeps {a1 a2 a3 a4} (h : Keeps q s) : Keeps q (putFxg s a1 a2 a3 a4) := by
  unfold putFxg
  with_reducible repeat' (first
    | assumption
    | (extract_lets +onlyGivenNames x; refine keeps_step (q := q) (x := x) ?_ ?_; (on_goal 1 => (dsimp -zeta only [x]; clear x)); (on_goal 2 => (clear_value x; revert x; intro _ _)))
    | refine keeps_ite ?_ ?_ | refine submitRequest_keeps ?_ | refine writeAttach_keeps ?_
    | refine takeFree_keeps ?_ | refine setF_keeps ?_ | refine refresh_keeps ?_
    | refine putPlain_keeps ?_ | refine newNonce_keeps ?_ | split)

theorem putTil_keeps {a1 a2 a3 a4} (h : Keeps q s) : Keeps q (putTil s a1 a2 a3 a4) := by
  unfold putTil
  with_reducible repeat' (first
    | assumption | refine writeMbox_keeps ?_ | refine refresh_keeps ?_
    | refine putPlain_keeps ?_ | split)

theorem portGroupsPending_keeps {a1 a2} (h : Keeps q s) : Keeps q (portGroupsPending s a1 a2) := by
  unfold portGroupsPending
  with_reducible repeat' (first
    | assumption
    | refine fun (_ : Keeps q _) => ?_
    | (extract_lets +onlyGivenNames x; refine keeps_step (q := q) (x := x) ?_ ?_; (on_goal 1 => (dsimp -zeta only [x]; clear x)); (on_goal 2 => (clear_value x; revert x; intro _ _)))
    | (extract_lets +onlyGivenNames x; refine keeps_step1 (q := q) (x := x) ?_ ?_; (on_goal 1 => (dsimp -zeta only [x]; clear x)); (on_goal 2 => (clear_value x; revert x; intro _ _)))
    | (extract_lets +onlyGivenNames x; refine keeps_step2 (q := q) (x := x) ?_ ?_; (on_goal 1 => (dsimp -zeta only [x]; clear x)); (on_goal 2 => (clear_value x; revert x; intro _ _)))
    | (extract_lets +onlyGivenNames x; revert x; intro _)
    | refine keeps_ite ?_ ?_
    | refine keeps_foldl ?_ _ ?_
    | refine keeps_foldl1 ?_ _ ?_
    | refine tddPend_keeps ?_
    | refine keeps_of_eq1 (by assumption) ?_
    | refine keeps_of_eq2 (by assumption) ?_
    | refine keeps_of_eq12 (by assumption) ?_
    | intro _
    | split
    | (dsimp -zeta +zetaDelta only; split)
    | (constructor <;> dsimp only <;> first | exact Keeps.queue ‹_› | exact Keeps.mem ‹_› | exact Keeps.regs ‹_› | exact Keeps.ns ‹_› | exact Keeps.load ‹_›))

theorem putRampCfg_keeps {a1 a2 a3 a4 a5} (h : Keeps q s) : Keeps q (putRampCfg s a1 a2 a3 a4 a5) := by
  unfold putRampCfg
  with_reducible repeat' (first
    | assumption | refine fun (_ : Keeps q _) => ?_
    | (extract_lets +onlyGivenNames x; refine keeps_step (q := q) (x := x) ?_ ?_; (on_goal 1 => (dsimp -zeta only [x]; clear x)); (on_goal 2 => (clear_value x; revert x; intro _ _)))
    | (extract_lets +onlyGivenNames x; revert x; intro _) | refine keeps_ite ?_ ?_ | refine keeps_foldl ?_ _ ?_
    | refine setR_keeps ?_ | refine putPlain_keeps ?_ | refine profileChanged_keeps ?_ | intro _)

theorem putTdd_keeps {a1 a2 a3 a4} (h : Keeps q s) : Keeps q (putTdd s a1 a2 a3 a4) := by
  unfold putTdd
  with_reducible repeat' (first
    | assumption
    | (extract_lets +onlyGivenNames x; refine keeps_step (q := q) (x := x) ?_ ?_; (on_goal 1 => (dsimp -zeta only [x]; clear x)); (on_goal 2 => (clear_value x; revert x; intro _ _)))
    | (extract_lets +onlyGivenNames x; revert x; intro _)
    | refine keeps_ite ?_ ?_
    | refine tddPend_keeps ?_
    | refine putPlain_keeps ?_
    | refine portGroupsPending_keeps ?_
    | refine driveTddPin_keeps ?_
    | refine putRampCfg_keeps ?_
    | refine profileChanged_keeps ?_
    | refine keeps_of_eq1 (by assumption) ?_
    | refine keeps_of_eq2 (by assumption) ?_
    | refine keeps_of_eq12 (by assumption) ?_
    | intro _
    | split
    | (dsimp -zeta +zetaDelta only; split)
    | (constructor <;> dsimp only <;> first | exact Keeps.queue ‹_› | exact Keeps.mem ‹_› | exact Keeps.regs ‹_› | exact Keeps.ns ‹_› | exact Keeps.load ‹_›))

theorem putLeaf_keeps {a1 a2 a3 a4} (h : Keeps q s) : Keeps q (putLeaf s a1 a2 a3 a4) := by
  unfold putLeaf
  with_reducible repeat' (first
    | assumption
    | (extract_lets +onlyGivenNames x; refine keeps_step (q := q) (x := x) ?_ ?_; (on_goal 1 => (dsimp -zeta only [x]; clear x)); (on_goal 2 => (clear_value x; revert x; intro _ _)))
    | (extract_lets +onlyGivenNames x; revert x; intro _)
    | refine keeps_ite ?_ ?_
    | refine putPlain_keeps ?_
    | refine raiseDelayViol_keeps ?_
    | refine noteDelay_keeps ?_
    | refine refresh_keeps ?_
    | refine keeps_of_eq1 (by assumption) ?_
    | refine keeps_of_eq2 (by assumption) ?_
    | refine keeps_of_eq12 (by assumption) ?_
    | intro _
    | split
    | (dsimp -zeta +zetaDelta only; split)
    | (constructor <;> dsimp only <;> first | exact Keeps.queue ‹_› | exact Keeps.mem ‹_› | exact Keeps.regs ‹_› | exact Keeps.ns ‹_› | exact Keeps.load ‹_›))

theorem putCsm_keeps {a1 a2 a3 a4} (h : Keeps q s) : Keeps q (putCsm s a1 a2 a3 a4) := by
  unfold putCsm
  with_reducible repeat' (first
    | assumption
    | refine fun (_ : Keeps q _) => ?_
    | (extract_lets +onlyGivenNames x; refine keeps_step (q := q) (x := x) ?_ ?_; (on_goal 1 => (dsimp -zeta only [x]; clear x)); (on_goal 2 => (clear_value x; revert x; intro _ _)))
    | (extract_lets +onlyGivenNames x; refine keeps_step1 (q := q) (x := x) ?_ ?_; (on_goal 1 => (dsimp -zeta only [x]; clear x)); (on_goal 2 => (clear_value x; revert x; intro _ _)))
    | (extract_lets +onlyGivenNames x; refine keeps_step2 (q := q) (x := x) ?_ ?_; (on_goal 1 => (dsimp -zeta only [x]; clear x)); (on_goal 2 => (clear_value x; revert x; intro _ _)))
    | (extract_lets +onlyGivenNames x; revert x; intro _)
    | refine keeps_ite ?_ ?_
    | refine keeps_foldl ?_ _ ?_
    | refine keeps_foldl1 ?_ _ ?_
    | refine resourceLost_keeps ?_
    | refine intPulse_keeps ?_
    | refine putPlain_keeps ?_
    | refine refresh_keeps ?_
    | refine keeps_of_eq1 (by assumption) ?_
    | refine keeps_of_eq2 (by assumption) ?_
    | refine keeps_of_eq12 (by assumption) ?_
    | intro _
    | split
    | (dsimp -zeta +zetaDelta only; split)
    | (constructor <;> dsimp only <;> first | exact Keeps.queue ‹_› | exact Keeps.mem ‹_› | exact Keeps.regs ‹_› | exact Keeps.ns ‹_› | exact Keeps.load ‹_›))

theorem putPhxLoad_keeps {a1 a2 a3 a4} (h : Keeps q s) : Keeps q (putPhxLoad s a1 a2 a3 a4) := by
  unfold putPhxLoad
  with_reducible repeat' (first
    | assumption
    | (extract_lets +onlyGivenNames x; refine keeps_step (q := q) (x := x) ?_ ?_; (on_goal 1 => (dsimp -zeta only [x]; clear x)); (on_goal 2 => (clear_value x; revert x; intro _ _)))
    | (extract_lets +onlyGivenNames x; revert x; intro _) | refine keeps_ite ?_ ?_ | refine loadGo_keeps ?_
    | refine putPlain_keeps ?_ | refine loadCancel_keeps ?_)

theorem putPhxCtl_keeps {a1 a2 a3 a4} (h : Keeps q s) : Keeps q (putPhxCtl s a1 a2 a3 a4) := by
  unfold putPhxCtl
  with_reducible repeat' (first
    | assumption
    | (extract_lets +onlyGivenNames x; refine keeps_step (q := q) (x := x) ?_ ?_; (on_goal 1 => (dsimp -zeta only [x]; clear x)); (on_goal 2 => (clear_value x; revert x; intro _ _)))
    | (extract_lets +onlyGivenNames x; revert x; intro _) | refine keeps_ite ?_ ?_ | refine refreshPhx_keeps ?_
    | refine setPhxIo_keeps ?_ | refine putPlain_keeps ?_)

theorem putPhx_keeps {a1 a2 a3 a4} (h : Keeps q s) : Keeps q (putPhx s a1 a2 a3 a4) := by
  unfold putPhx
  with_reducible repeat' (first
    | assumption
    | (extract_lets +onlyGivenNames x; refine keeps_step (q := q) (x := x) ?_ ?_; (on_goal 1 => (dsimp -zeta only [x]; clear x)); (on_goal 2 => (clear_value x; revert x; intro _ _)))
    | (extract_lets +onlyGivenNames x; revert x; intro _) | refine keeps_ite ?_ ?_ | refine refreshPhx_keeps ?_
    | refine writePhxLanes_keeps ?_ | refine phxRestart_keeps ?_ | refine putPhxLoad_keeps ?_
    | refine writePhxBw_keeps ?_ | refine setPhx_keeps ?_ | refine putPlain_keeps ?_
    | refine putPhxCtl_keeps ?_ | split)

theorem putPinCtl_keeps {a1 a2 a3 a4 a5} (h : Keeps q s) : Keeps q (putPinCtl s a1 a2 a3 a4 a5) := by
  unfold putPinCtl
  with_reducible repeat' (first
    | assumption
    | (extract_lets +onlyGivenNames x; refine keeps_step (q := q) (x := x) ?_ ?_; (on_goal 1 => (dsimp -zeta only [x]; clear x)); (on_goal 2 => (clear_value x; revert x; intro _ _)))
    | refine keeps_ite ?_ ?_
    | refine putPlain_keeps ?_
    | refine clrBitF_keeps ?_)

theorem putEvt_keeps {a1 a2 a3 a4} (h : Keeps q s) : Keeps q (putEvt s a1 a2 a3 a4) := by
  unfold putEvt
  with_reducible repeat' (first
    | assumption
    | refine keeps_ite ?_ ?_
    | refine putPinCtl_keeps ?_
    | refine setF_keeps ?_
    | refine putPlain_keeps ?_
    | refine keeps_of_eq1 (by assumption) ?_
    | refine keeps_of_eq2 (by assumption) ?_
    | refine keeps_of_eq12 (by assumption) ?_
    | intro _
    | split
    | (constructor <;> dsimp only <;> first | exact Keeps.queue ‹_› | exact Keeps.mem ‹_› | exact Keeps.regs ‹_› | exact Keeps.ns ‹_› | exact Keeps.load ‹_›))

theorem putRingCtl_keeps {a1 a2 a3 a4 a5} (h : Keeps q s) : Keeps q (putRingCtl s a1 a2 a3 a4 a5) := by
  unfold putRingCtl
  with_reducible repeat' (first
    | assumption
    | (extract_lets +onlyGivenNames x; refine keeps_step (q := q) (x := x) ?_ ?_; (on_goal 1 => (dsimp -zeta only [x]; clear x)); (on_goal 2 => (clear_value x; revert x; intro _ _)))
    | refine keeps_ite ?_ ?_ | refine enableRing_keeps ?_ | refine disableRing_keeps ?_
    | refine putPlain_keeps ?_)

theorem putAdm_keeps {a1 a2 a3 a4} (h : Keeps q s) : Keeps q (putAdm s a1 a2 a3 a4) := by
  unfold putAdm
  with_reducible repeat' (first
    | assumption | refine fun (_ : Keeps q _) => ?_ | (extract_lets +onlyGivenNames x; revert x; intro _)
    | refine keeps_ite ?_ ?_ | refine keeps_foldl ?_ _ ?_ | refine putRingCtl_keeps ?_
    | refine setF_keeps ?_ | refine refresh_keeps ?_ | refine putPlain_keeps ?_ | intro _ | split)

theorem putReg_keeps {a1 a2 a3 a4} (h : Keeps q s) : Keeps q (putReg s a1 a2 a3 a4) := by
  unfold putReg
  with_reducible repeat' (first
    | assumption | (extract_lets +onlyGivenNames x; revert x; intro _) | refine keeps_ite ?_ ?_
    | refine writeDma_keeps ?_ | refine putPrm_keeps ?_ | refine execCeeCntClr_keeps ?_
    | refine execDteCntClr_keeps ?_ | refine writeCvu_keeps ?_ | refine putInt_keeps ?_
    | refine putNvs_keeps ?_ | refine putMem_keeps ?_ | refine nextOr_keeps ?_ ?_
    | refine putPwrc_keeps ?_ | refine putLan_keeps ?_ | refine putCxl_keeps ?_
    | refine execCdeCntClr_keeps ?_ | refine putLks_keeps ?_ | refine putPfe_keeps ?_
    | refine putScr_keeps ?_ | refine putFxg_keeps ?_ | refine putTil_keeps ?_
    | refine putTdd_keeps ?_ | refine putLeaf_keeps ?_ | refine putCsm_keeps ?_
    | refine refresh_keeps ?_ | refine putPlain_keeps ?_ | refine putPhx_keeps ?_
    | refine putEvt_keeps ?_ | refine putAdm_keeps ?_ | split)

theorem writeHit_keeps {a1 a2 a3} (h : Keeps q s) : Keeps q (writeHit s a1 a2 a3) := by
  unfold writeHit
  with_reducible repeat' (first
    | assumption | (extract_lets +onlyGivenNames x; revert x; intro _) | refine keeps_ite ?_ ?_
    | refine putReg_keeps ?_
    | (constructor <;> dsimp only <;> first | exact Keeps.queue ‹_› | exact Keeps.mem ‹_› | exact Keeps.regs ‹_› | exact Keeps.ns ‹_› | exact Keeps.load ‹_›))

theorem putWindow_keeps {a1 a2 a3} (h : Keeps q s) : Keeps q (putWindow s a1 a2 a3) := by
  unfold putWindow
  with_reducible repeat' (first
    | assumption
    | refine fun (_ : Keeps q _) => ?_
    | (extract_lets +onlyGivenNames x; refine keeps_step (q := q) (x := x) ?_ ?_; (on_goal 1 => (dsimp -zeta only [x]; clear x)); (on_goal 2 => (clear_value x; revert x; intro _ _)))
    | (extract_lets +onlyGivenNames x; refine keeps_step1 (q := q) (x := x) ?_ ?_; (on_goal 1 => (dsimp -zeta only [x]; clear x)); (on_goal 2 => (clear_value x; revert x; intro _ _)))
    | (extract_lets +onlyGivenNames x; refine keeps_step2 (q := q) (x := x) ?_ ?_; (on_goal 1 => (dsimp -zeta only [x]; clear x)); (on_goal 2 => (clear_value x; revert x; intro _ _)))
    | (extract_lets +onlyGivenNames x; revert x; intro _)
    | refine keeps_ite ?_ ?_
    | refine keeps_foldl ?_ _ ?_
    | refine keeps_foldl1 ?_ _ ?_
    | refine wrMem_keeps ?_
    | refine flushVector_keeps ?_
    | refine setR_keeps ?_
    | refine keeps_of_eq1 (by assumption) ?_
    | refine keeps_of_eq2 (by assumption) ?_
    | refine keeps_of_eq12 (by assumption) ?_
    | intro _
    | split
    | (dsimp -zeta +zetaDelta only; split)
    | (constructor <;> dsimp only <;> first | exact Keeps.queue ‹_› | exact Keeps.mem ‹_› | exact Keeps.regs ‹_› | exact Keeps.ns ‹_› | exact Keeps.load ‹_›))

theorem writeWord_keeps {a1 a2} (h : Keeps q s) : Keeps q (writeWord s a1 a2) := by
  unfold writeWord
  with_reducible repeat' (first
    | assumption | refine keeps_ite ?_ ?_ | refine writeHit_keeps ?_
    | refine putWindow_keeps ?_ | split)

theorem execPxRegisterAccess_keeps {a1 a2 a3} (h : Keeps q s) : KeepsR q (execPxRegisterAccess a1 a2 a3 s) := by
  unfold execPxRegisterAccess
  with_reducible repeat' (first
    | assumption | (extract_lets +onlyGivenNames x; revert x; intro _) | refine keepsR_next ?_
    | refine readWord_keeps ?_ | refine writeWord_keeps ?_ | refine emit_keeps ?_ | split)

theorem quadBoundary_keeps {a1 a2} (h : Keeps q s) : Keeps q (quadBoundary s a1 a2) := by
  unfold quadBoundary
  with_reducible repeat' (first
    | assumption
    | refine fun (_ : Keeps q _) => ?_
    | (extract_lets +onlyGivenNames x; refine keeps_step (q := q) (x := x) ?_ ?_; (on_goal 1 => (dsimp -zeta only [x]; clear x)); (on_goal 2 => (clear_value x; revert x; intro _ _)))
    | refine keeps_ite ?_ ?_
    | refine keeps_foldl ?_ _ ?_
    | refine keeps_foldl1 ?_ _ ?_
    | refine updateDelays_keeps ?_
    | refine raiseDelayViol_keeps ?_
    | refine switchOver_keeps ?_
    | refine partitionBoundary_keeps ?_
    | refine emit_keeps ?_
    | refine boundaryTiles_keeps ?_
    | refine boundaryDebug_keeps ?_
    | refine keeps_of_eq1 (by assumption) ?_
    | refine keeps_of_eq2 (by assumption) ?_
    | refine keeps_of_eq12 (by assumption) ?_
    | intro _)

theorem execQuadrantSlotBoundary_keeps {a1} (h : Keeps q s) : KeepsR q (execQuadrantSlotBoundary a1 s) := by
  unfold execQuadrantSlotBoundary
  with_reducible repeat' (first
    | assumption
    | (extract_lets +onlyGivenNames x; refine keeps_step (q := q) (x := x) ?_ ?_; (on_goal 1 => (dsimp -zeta only [x]; clear x)); (on_goal 2 => (clear_value x; revert x; intro _ _)))
    | (extract_lets +onlyGivenNames x; revert x; intro _)
    | refine keepsR_next ?_
    | refine keepsR_fault _
    | refine keepsR_refused _
    | refine keepsR_ite ?_ ?_
    | refine keeps_ite ?_ ?_
    | refine atInstant_keeps ?_
    | refine quadBoundary_keeps ?_
    | refine keeps_of_eq1 (by assumption) ?_
    | refine keeps_of_eq2 (by assumption) ?_
    | refine keeps_of_eq12 (by assumption) ?_
    | intro _
    | split
    | (constructor <;> dsimp only <;> first | exact Keeps.queue ‹_› | exact Keeps.mem ‹_› | exact Keeps.regs ‹_› | exact Keeps.ns ‹_› | exact Keeps.load ‹_›))

theorem writeEnabled_keeps {a1 a2 a3} (h : Keeps q s) : Keeps q (writeEnabled s a1 a2 a3) := by
  unfold writeEnabled
  with_reducible repeat' (first
    | assumption | refine keeps_ite ?_ ?_ | refine writeWord_keeps ?_
    | refine addF_keeps ?_)

theorem execRegisterWrite_keeps {a1 a2 a3} (h : Keeps q s) : KeepsR q (execRegisterWrite a1 a2 a3 s) := by
  unfold execRegisterWrite
  with_reducible repeat' (first
    | assumption
    | (extract_lets +onlyGivenNames x; refine keeps_step (q := q) (x := x) ?_ ?_; (on_goal 1 => (dsimp -zeta only [x]; clear x)); (on_goal 2 => (clear_value x; revert x; intro _ _)))
    | (extract_lets +onlyGivenNames x; revert x; intro _)
    | refine keepsR_next ?_
    | refine keepsR_fault _
    | refine keepsR_refused _
    | refine keepsR_ite ?_ ?_
    | refine keeps_ite ?_ ?_
    | refine writeEnabled_keeps ?_
    | refine keeps_of_eq1 (by assumption) ?_
    | refine keeps_of_eq2 (by assumption) ?_
    | refine keeps_of_eq12 (by assumption) ?_
    | intro _
    | split
    | (dsimp -zeta +zetaDelta only; split)
    | (constructor <;> dsimp only <;> first | exact Keeps.queue ‹_› | exact Keeps.mem ‹_› | exact Keeps.regs ‹_› | exact Keeps.ns ‹_› | exact Keeps.load ‹_›))

theorem execSchedulingTick_keeps (h : Keeps q s) : KeepsR q (execSchedulingTick s) := by
  unfold execSchedulingTick
  with_reducible repeat' (first
    | assumption
    | (extract_lets +onlyGivenNames x; refine keeps_step (q := q) (x := x) ?_ ?_; (on_goal 1 => (dsimp -zeta only [x]; clear x)); (on_goal 2 => (clear_value x; revert x; intro _ _)))
    | (extract_lets +onlyGivenNames x; revert x; intro _)
    | refine keepsR_next ?_
    | refine keepsR_fault _
    | refine keepsR_refused _
    | refine keepsR_ite ?_ ?_
    | refine keeps_ite ?_ ?_
    | refine atInstant_keeps ?_
    | refine emit_keeps ?_
    | refine partitionBoundary_keeps ?_
    | refine keeps_of_eq1 (by assumption) ?_
    | refine keeps_of_eq2 (by assumption) ?_
    | refine keeps_of_eq12 (by assumption) ?_
    | intro _
    | split
    | (constructor <;> dsimp only <;> first | exact Keeps.queue ‹_› | exact Keeps.mem ‹_› | exact Keeps.regs ‹_› | exact Keeps.ns ‹_› | exact Keeps.load ‹_›))

end Sys2Proof.Machine
end

