-- ==== Sys2Proof/Laws/KeepsExec.lean ====
section
/-!
SUPPORT. Every command keeps what Keeps names.
-/

namespace Sys2Proof.Machine

set_option Elab.async false

/-- What exec keeps, for every command. -/
theorem exec_keeps {q : Kept} {s : State} (c : Instr) (h : Keeps q s) : KeepsR q (exec c s) := by
  cases c with
  | ctAdvance => (simp only [exec]; exact execCtAdvance_keeps h)
  | schedulingTick => (simp only [exec]; exact execSchedulingTick_keeps h)
  | quadrantSlotBoundary => (simp only [exec]; exact execQuadrantSlotBoundary_keeps h)
  | carrierSlotBoundary => (simp only [exec]; exact execCarrierSlotBoundary_keeps h)
  | ctLoad => (simp only [exec]; exact execCtLoad_keeps h)
  | servoLock => (simp only [exec]; exact execServoLock_keeps h)
  | referenceLost => (simp only [exec]; exact execReferenceLost_keeps h)
  | referenceGood => (simp only [exec]; exact execReferenceGood_keeps h)
  | snapTake => (simp only [exec]; exact execSnapTake_keeps h)
  | phaseReq => (simp only [exec]; exact execPhaseReq_keeps h)
  | domainSwitch => (simp only [exec]; exact execDomainSwitch_keeps h)
  | servoLost => (simp only [exec]; exact execServoLost_keeps h)
  | holdoverLimitExpiry => (simp only [exec]; exact execHoldoverLimitExpiry_keeps h)
  | ptpFrameReceive => (simp only [exec]; exact execPtpFrameReceive_keeps h)
  | syncSend => (simp only [exec]; exact execSyncSend_keeps h)
  | announceSend => (simp only [exec]; exact execAnnounceSend_keeps h)
  | delayReqAnswer => (simp only [exec]; exact execDelayReqAnswer_keeps h)
  | ppsOutEdge => (simp only [exec]; exact execPpsOutEdge_keeps h)
  | ppsOutFall => (simp only [exec]; exact execPpsOutFall_keeps h)
  | ppsInEdge => (simp only [exec]; exact execPpsInEdge_keeps h)
  | ptmDialogue => (simp only [exec]; exact execPtmDialogue_keeps h)
  | laneCalibrationEnd => (simp only [exec]; exact execLaneCalibrationEnd_keeps h)
  | eventPinEdge => (simp only [exec]; exact execEventPinEdge_keeps h)
  | coalesceIntervalEnd => (simp only [exec]; exact execCoalesceIntervalEnd_keeps h)
  | pinHeld => (simp only [exec]; exact execPinHeld_keeps h)
  | pinRearm => (simp only [exec]; exact execPinRearm_keeps h)
  | evtFifoPop => (simp only [exec]; exact execEvtFifoPop_keeps h)
  | evtFifoClrLost => (simp only [exec]; exact execEvtFifoClrLost_keeps h)
  | evtOvrClr => (simp only [exec]; exact execEvtOvrClr_keeps h)
  | ptpDropClr => (simp only [exec]; exact execPtpDropClr_keeps h)
  | ciOfsWrite => (simp only [exec]; exact execCiOfsWrite_keeps h)
  | registerWrite => (simp only [exec]; exact execRegisterWrite_keeps h)
  | cmdTailWrite => (simp only [exec]; exact execCmdTailWrite_keeps h)
  | cqHeadWrite => (simp only [exec]; exact execCqHeadWrite_keeps h)
  | commandFetch => (simp only [exec]; exact execCommandFetch_keeps h)
  | ringDisable => (simp only [exec]; exact execRingDisable_keeps h)
  | ringDrainEnd => (simp only [exec]; exact execRingDrainEnd_keeps h)
  | ringEnable => (simp only [exec]; exact execRingEnable_keeps h)
  | nop => (simp only [exec]; exact execNop_keeps h)
  | jobOpen => (simp only [exec]; exact execJobOpen_keeps h)
  | task => (simp only [exec]; exact execTask_keeps h)
  | edge => (simp only [exec]; exact execEdge_keeps h)
  | atTime => (simp only [exec]; exact execAt_keeps h)
  | every => (simp only [exec]; exact execEvery_keeps h)
  | jobClose => (simp only [exec]; exact execJobClose_keeps h)
  | cancel => (simp only [exec]; exact execCancel_keeps h)
  | fence => (simp only [exec]; exact execFence_keeps h)
  | signal => (simp only [exec]; exact execSignal_keeps h)
  | signalRecord => (simp only [exec]; exact execSignalRecord_keeps h)
  | planSet => (simp only [exec]; exact execPlanSet_keeps h)
  | planDecision => (simp only [exec]; exact execPlanDecision_keeps h)
  | planDrop => (simp only [exec]; exact execPlanDrop_keeps h)
  | programLoad => (simp only [exec]; exact execProgramLoad_keeps h)
  | programLoadCopyDone => (simp only [exec]; exact execProgramLoadCopyDone_keeps h)
  | programSwap => (simp only [exec]; exact execProgramSwap_keeps h)
  | retiringVersionFreed => (simp only [exec]; exact execRetiringVersionFreed_keeps h)
  | jobDecision => (simp only [exec]; exact execJobDecision_keeps h)
  | nodeRelease => (simp only [exec]; exact execNodeRelease_keeps h)
  | nodeFetch => (simp only [exec]; exact execNodeFetch_keeps h)
  | inputArrival => (simp only [exec]; exact execInputArrival_keeps h)
  | taskStart => (simp only [exec]; exact execTaskStart_keeps h)
  | dependenceNotice => (simp only [exec]; exact execDependenceNotice_keeps h)
  | recordWrite => (simp only [exec]; exact execRecordWrite_keeps h)
  | wakeRequest => (simp only [exec]; exact execWakeRequest_keeps h)
  | everyFiring => (simp only [exec]; exact execEveryFiring_keeps h)
  | windowCloseHostWait => (simp only [exec]; exact execWindowCloseHostWait_keeps h)
  | hostLinkRetrain => (simp only [exec]; exact execHostLinkRetrain_keeps h)
  | admCntClr => (simp only [exec]; exact execAdmCntClr_keeps h)
  | nopSyllable => (simp only [exec]; exact execNopSyllable_keeps h)
  | add => (simp only [exec]; exact execAdd_keeps h)
  | sub => (simp only [exec]; exact execSub_keeps h)
  | addi => (simp only [exec]; exact execAddi_keeps h)
  | and => (simp only [exec]; exact execAnd_keeps h)
  | or => (simp only [exec]; exact execOr_keeps h)
  | xor => (simp only [exec]; exact execXor_keeps h)
  | ori => (simp only [exec]; exact execOri_keeps h)
  | shl => (simp only [exec]; exact execShl_keeps h)
  | shr => (simp only [exec]; exact execShr_keeps h)
  | sra => (simp only [exec]; exact execSra_keeps h)
  | shli => (simp only [exec]; exact execShli_keeps h)
  | shri => (simp only [exec]; exact execShri_keeps h)
  | srai => (simp only [exec]; exact execSrai_keeps h)
  | min => (simp only [exec]; exact execMin_keeps h)
  | max => (simp only [exec]; exact execMax_keeps h)
  | abs => (simp only [exec]; exact execAbs_keeps h)
  | slt => (simp only [exec]; exact execSlt_keeps h)
  | sltu => (simp only [exec]; exact execSltu_keeps h)
  | seq => (simp only [exec]; exact execSeq_keeps h)
  | movhi => (simp only [exec]; exact execMovhi_keeps h)
  | orlo => (simp only [exec]; exact execOrlo_keeps h)
  | exp => (simp only [exec]; exact execExp_keeps h)
  | norm => (simp only [exec]; exact execNorm_keeps h)
  | mul => (simp only [exec]; exact execMul_keeps h)
  | mulh => (simp only [exec]; exact execMulh_keeps h)
  | macl => (simp only [exec]; exact execMacl_keeps h)
  | mach => (simp only [exec]; exact execMach_keeps h)
  | msul => (simp only [exec]; exact execMsul_keeps h)
  | mova => (simp only [exec]; exact execMova_keeps h)
  | exta => (simp only [exec]; exact execExta_keeps h)
  | expa => (simp only [exec]; exact execExpa_keeps h)
  | beqz => (simp only [exec]; exact execBeqz_keeps h)
  | bnez => (simp only [exec]; exact execBnez_keeps h)
  | bltz => (simp only [exec]; exact execBltz_keeps h)
  | bgez => (simp only [exec]; exact execBgez_keeps h)
  | bgtz => (simp only [exec]; exact execBgtz_keeps h)
  | blez => (simp only [exec]; exact execBlez_keeps h)
  | br => (simp only [exec]; exact execBr_keeps h)
  | call => (simp only [exec]; exact execCall_keeps h)
  | jr => (simp only [exec]; exact execJr_keeps h)
  | rep => (simp only [exec]; exact execRep_keeps h)
  | repi => (simp only [exec]; exact execRepi_keeps h)
  | loop => (simp only [exec]; exact execLoop_keeps h)
  | loopi => (simp only [exec]; exact execLoopi_keeps h)
  | rotb => (simp only [exec]; exact execRotb_keeps h)
  | mfc => (simp only [exec]; exact execMfc_keeps h)
  | mtc => (simp only [exec]; exact execMtc_keeps h)
  | taskEnd => (simp only [exec]; exact execTaskEnd_keeps h)
  | reti => (simp only [exec]; exact execReti_keeps h)
  | wfe => (simp only [exec]; exact execWfe_keeps h)
  | ldw => (simp only [exec]; exact execLdw_keeps h)
  | ldh => (simp only [exec]; exact execLdh_keeps h)
  | ldhu => (simp only [exec]; exact execLdhu_keeps h)
  | ldb => (simp only [exec]; exact execLdb_keeps h)
  | ldbu => (simp only [exec]; exact execLdbu_keeps h)
  | stw => (simp only [exec]; exact execStw_keeps h)
  | sth => (simp only [exec]; exact execSth_keeps h)
  | stb => (simp only [exec]; exact execStb_keeps h)
  | ldwPostinc => (simp only [exec]; exact execLdwPostinc_keeps h)
  | stwPostinc => (simp only [exec]; exact execStwPostinc_keeps h)
  | fenceSyllable => (simp only [exec]; exact execFenceSyllable_keeps h)
  | vnop => (simp only [exec]; exact execVnop_keeps h)
  | vsetl => (simp only [exec]; exact execVsetl_keeps h)
  | vadd => (simp only [exec]; exact execVadd_keeps h)
  | vsub => (simp only [exec]; exact execVsub_keeps h)
  | vmin => (simp only [exec]; exact execVmin_keeps h)
  | vmax => (simp only [exec]; exact execVmax_keeps h)
  | vabs => (simp only [exec]; exact execVabs_keeps h)
  | vneg => (simp only [exec]; exact execVneg_keeps h)
  | vconj => (simp only [exec]; exact execVconj_keeps h)
  | vshl => (simp only [exec]; exact execVshl_keeps h)
  | vsra => (simp only [exec]; exact execVsra_keeps h)
  | vsrar => (simp only [exec]; exact execVsrar_keeps h)
  | vsplat => (simp only [exec]; exact execVsplat_keeps h)
  | vget => (simp only [exec]; exact execVget_keeps h)
  | vmov => (simp only [exec]; exact execVmov_keeps h)
  | vmulq => (simp only [exec]; exact execVmulq_keeps h)
  | vcmulq => (simp only [exec]; exact execVcmulq_keeps h)
  | vcmuljq => (simp only [exec]; exact execVcmuljq_keeps h)
  | vmac => (simp only [exec]; exact execVmac_keeps h)
  | vmsub => (simp only [exec]; exact execVmsub_keeps h)
  | vcmac => (simp only [exec]; exact execVcmac_keeps h)
  | vcmacj => (simp only [exec]; exact execVcmacj_keeps h)
  | vmova => (simp only [exec]; exact execVmova_keeps h)
  | vexta => (simp only [exec]; exact execVexta_keeps h)
  | vclra => (simp only [exec]; exact execVclra_keeps h)
  | vtperm => (simp only [exec]; exact execVtperm_keeps h)
  | vtperm2 => (simp only [exec]; exact execVtperm2_keeps h)
  | vwiden => (simp only [exec]; exact execVwiden_keeps h)
  | vnarrow => (simp only [exec]; exact execVnarrow_keeps h)
  | vbexp => (simp only [exec]; exact execVbexp_keeps h)
  | vnormb => (simp only [exec]; exact execVnormb_keeps h)
  | vpack10 => (simp only [exec]; exact execVpack10_keeps h)
  | vunpack10 => (simp only [exec]; exact execVunpack10_keeps h)
  | vcmpeq => (simp only [exec]; exact execVcmpeq_keeps h)
  | vcmplt => (simp only [exec]; exact execVcmplt_keeps h)
  | vcmple => (simp only [exec]; exact execVcmple_keeps h)
  | vmand => (simp only [exec]; exact execVmand_keeps h)
  | vmor => (simp only [exec]; exact execVmor_keeps h)
  | vmxor => (simp only [exec]; exact execVmxor_keeps h)
  | vmandn => (simp only [exec]; exact execVmandn_keeps h)
  | vmsetn => (simp only [exec]; exact execVmsetn_keeps h)
  | vmtov => (simp only [exec]; exact execVmtov_keeps h)
  | vmcnt => (simp only [exec]; exact execVmcnt_keeps h)
  | vld => (simp only [exec]; exact execVld_keeps h)
  | vst => (simp only [exec]; exact execVst_keeps h)
  | vldx => (simp only [exec]; exact execVldx_keeps h)
  | vstx => (simp only [exec]; exact execVstx_keeps h)
  | interruptEntry => (simp only [exec]; exact execInterruptEntry_keeps h)
  | exceptionEntry => (simp only [exec]; exact execExceptionEntry_keeps h)
  | timerCompare => (simp only [exec]; exact execTimerCompare_keeps h)
  | tilMboxWrite => (simp only [exec]; exact execTilMboxWrite_keeps h)
  | budgetExhausted => (simp only [exec]; exact execBudgetExhausted_keeps h)
  | dmaStart => (simp only [exec]; exact execDmaStart_keeps h)
  | dmaResume => (simp only [exec]; exact execDmaResume_keeps h)
  | dmaAbort => (simp only [exec]; exact execDmaAbort_keeps h)
  | descriptorComplete => (simp only [exec]; exact execDescriptorComplete_keeps h)
  | hostChannelSuspend => (simp only [exec]; exact execHostChannelSuspend_keeps h)
  | hostChannelResume => (simp only [exec]; exact execHostChannelResume_keeps h)
  | patrolScrub => (simp only [exec]; exact execPatrolScrub_keeps h)
  | spareReq => (simp only [exec]; exact execSpareReq_keeps h)
  | rowSpareCopyDone => (simp only [exec]; exact execRowSpareCopyDone_keeps h)
  | hdmAccess => (simp only [exec]; exact execHdmAccess_keeps h)
  | backInvalidateResponse => (simp only [exec]; exact execBackInvalidateResponse_keeps h)
  | h2dSnoop => (simp only [exec]; exact execH2dSnoop_keeps h)
  | hostWriteGo => (simp only [exec]; exact execHostWriteGo_keeps h)
  | hostReadReturn => (simp only [exec]; exact execHostReadReturn_keeps h)
  | cvuUnitResult => (simp only [exec]; exact execCvuUnitResult_keeps h)
  | cvuPop => (simp only [exec]; exact execCvuPop_keeps h)
  | engineOperationEnd => (simp only [exec]; exact execEngineOperationEnd_keeps h)
  | ringTransferReceive => (simp only [exec]; exact execRingTransferReceive_keeps h)
  | ringLinkRetrain => (simp only [exec]; exact execRingLinkRetrain_keeps h)
  | coupledPlanDrop => (simp only [exec]; exact execCoupledPlanDrop_keeps h)
  | groupFetch => (simp only [exec]; exact execGroupFetch_keeps h)
  | frameTransmit => (simp only [exec]; exact execFrameTransmit_keeps h)
  | frameReceive => (simp only [exec]; exact execFrameReceive_keeps h)
  | groupMissing => (simp only [exec]; exact execGroupMissing_keeps h)
  | pfeContextEnable => (simp only [exec]; exact execPfeContextEnable_keeps h)
  | prachOccasion => (simp only [exec]; exact execPrachOccasion_keeps h)
  | ramp => (simp only [exec]; exact execRamp_keeps h)
  | tddPinEdge => (simp only [exec]; exact execTddPinEdge_keeps h)
  | tddShadowApply => (simp only [exec]; exact execTddShadowApply_keeps h)
  | obsReq => (simp only [exec]; exact execObsReq_keeps h)
  | obs => (simp only [exec]; exact execObs_keeps h)
  | captureDeadline => (simp only [exec]; exact execCaptureDeadline_keeps h)
  | evmMeasurement => (simp only [exec]; exact execEvmMeasurement_keeps h)
  | laneEnable => (simp only [exec]; exact execLaneEnable_keeps h)
  | laneDisable => (simp only [exec]; exact execLaneDisable_keeps h)
  | blockLock => (simp only [exec]; exact execBlockLock_keeps h)
  | fecLock => (simp only [exec]; exact execFecLock_keeps h)
  | laneUp => (simp only [exec]; exact execLaneUp_keeps h)
  | laneBringupTimeout => (simp only [exec]; exact execLaneBringupTimeout_keeps h)
  | laneDown => (simp only [exec]; exact execLaneDown_keeps h)
  | switch => (simp only [exec]; exact execSwitch_keeps h)
  | markerSend => (simp only [exec]; exact execMarkerSend_keeps h)
  | markerReceive => (simp only [exec]; exact execMarkerReceive_keeps h)
  | ctl => (simp only [exec]; exact execCtl_keeps h)
  | profile => (simp only [exec]; exact execProfile_keeps h)
  | ethernetFrameReceive => (simp only [exec]; exact execEthernetFrameReceive_keeps h)
  | uPlaneReceive => (simp only [exec]; exact execUPlaneReceive_keeps h)
  | uPlaneSend => (simp only [exec]; exact execUPlaneSend_keeps h)
  | cPlaneSend => (simp only [exec]; exact execCPlaneSend_keeps h)
  | oneWayDelayRequest => (simp only [exec]; exact execOneWayDelayRequest_keeps h)
  | forwardedFrameEgress => (simp only [exec]; exact execForwardedFrameEgress_keeps h)
  | mqSend => (simp only [exec]; exact execMqSend_keeps h)
  | mqRxPop => (simp only [exec]; exact execMqRxPop_keeps h)
  | mqTxData => (simp only [exec]; exact execMqTxData_keeps h)
  | lanCntClr => (simp only [exec]; exact execLanCntClr_keeps h)
  | partitionBlockTransmit => (simp only [exec]; exact execPartitionBlockTransmit_keeps h)
  | partitionBlockReceive => (simp only [exec]; exact execPartitionBlockReceive_keeps h)
  | linkRecovery => (simp only [exec]; exact execLinkRecovery_keeps h)
  | functionReset => (simp only [exec]; exact execFunctionReset_keeps h)
  | barRead => (simp only [exec]; exact execBarRead_keeps h)
  | hdmDecoderCommit => (simp only [exec]; exact execHdmDecoderCommit_keeps h)
  | doeRequest => (simp only [exec]; exact execDoeRequest_keeps h)
  | doeAbort => (simp only [exec]; exact execDoeAbort_keeps h)
  | cxlCntClr => (simp only [exec]; exact execCxlCntClr_keeps h)
  | ideIntegrityFailure => (simp only [exec]; exact execIdeIntegrityFailure_keeps h)
  | interruptMessage => (simp only [exec]; exact execInterruptMessage_keeps h)
  | intAck => (simp only [exec]; exact execIntAck_keeps h)
  | sourceStuck => (simp only [exec]; exact execSourceStuck_keeps h)
  | sourceUnstuck => (simp only [exec]; exact execSourceUnstuck_keeps h)
  | intSrcCfgWrite => (simp only [exec]; exact execIntSrcCfgWrite_keeps h)
  | clrCnt => (simp only [exec]; exact execClrCnt_keeps h)
  | partitionLoadGo => (simp only [exec]; exact execPartitionLoadGo_keeps h)
  | loadReady => (simp only [exec]; exact execLoadReady_keeps h)
  | partitionLoadAbort => (simp only [exec]; exact execPartitionLoadAbort_keeps h)
  | restart => (simp only [exec]; exact execRestart_keeps h)
  | powerUpLoad => (simp only [exec]; exact execPowerUpLoad_keeps h)
  | phxLanesWrite => (simp only [exec]; exact execPhxLanesWrite_keeps h)
  | phxBwWrite => (simp only [exec]; exact execPhxBwWrite_keeps h)
  | partitionDramAccess => (simp only [exec]; exact execPartitionDramAccess_keeps h)
  | partitionMailboxWrite => (simp only [exec]; exact execPartitionMailboxWrite_keeps h)
  | partitionFence => (simp only [exec]; exact execPartitionFence_keeps h)
  | pxRegisterAccess => (simp only [exec]; exact execPxRegisterAccess_keeps h)
  | scrubFrame => (simp only [exec]; exact execScrubFrame_keeps h)
  | frameRepair => (simp only [exec]; exact execFrameRepair_keeps h)
  | neighbourCheck => (simp only [exec]; exact execNeighbourCheck_keeps h)
  | scrGo => (simp only [exec]; exact execScrGo_keeps h)
  | opReqWrite => (simp only [exec]; exact execOpReqWrite_keeps h)
  | voltageSettled => (simp only [exec]; exact execVoltageSettled_keeps h)
  | clusterEntry => (simp only [exec]; exact execClusterEntry_keeps h)
  | entryComplete => (simp only [exec]; exact execEntryComplete_keeps h)
  | clusterWake => (simp only [exec]; exact execClusterWake_keeps h)
  | wakeFailure => (simp only [exec]; exact execWakeFailure_keeps h)
  | pulse => (simp only [exec]; exact execPulse_keeps h)
  | retry => (simp only [exec]; exact execRetry_keeps h)
  | quadrantTargetWrite => (simp only [exec]; exact execQuadrantTargetWrite_keeps h)
  | quadrantBoot => (simp only [exec]; exact execQuadrantBoot_keeps h)
  | quadrantReset => (simp only [exec]; exact execQuadrantReset_keeps h)
  | supplyWarning => (simp only [exec]; exact execSupplyWarning_keeps h)
  | supplyReset => (simp only [exec]; exact execSupplyReset_keeps h)
  | thermalRead => (simp only [exec]; exact execThermalRead_keeps h)
  | thermalTrip => (simp only [exec]; exact execThermalTrip_keeps h)
  | chipReset => (simp only [exec]; exact execChipReset_keeps h)
  | porNRelease => (simp only [exec]; exact execPorNRelease_keeps h)
  | perstN => (simp only [exec]; exact execPerstN_keeps h)
  | pmbusTransaction => (simp only [exec]; exact execPmbusTransaction_keeps h)
  | pmbAlert => (simp only [exec]; exact execPmbAlert_keeps h)
  | tileCoreCheck => (simp only [exec]; exact execTileCoreCheck_keeps h)
  | prmRetire => (simp only [exec]; exact execPrmRetire_keeps h)
  | tileRetestDone => (simp only [exec]; exact execTileRetestDone_keeps h)
  | redoStart => (simp only [exec]; exact execRedoStart_keeps h)
  | engineCheck => (simp only [exec]; exact execEngineCheck_keeps h)
  | bankFence => (simp only [exec]; exact execBankFence_keeps h)
  | quadrantReinitialisation => (simp only [exec]; exact execQuadrantReinitialisation_keeps h)
  | reinitialisationRecordWrite => (simp only [exec]; exact execReinitialisationRecordWrite_keeps h)
  | lockstepMismatch => (simp only [exec]; exact execLockstepMismatch_keeps h)
  | hubFlitUncorrectable => (simp only [exec]; exact execHubFlitUncorrectable_keeps h)
  | firmwareHandOver => (simp only [exec]; exact execFirmwareHandOver_keeps h)
  | firmwareRevert => (simp only [exec]; exact execFirmwareRevert_keeps h)
  | flightRecorderWrite => (simp only [exec]; exact execFlightRecorderWrite_keeps h)
  | rmaCapture => (simp only [exec]; exact execRmaCapture_keeps h)
  | secureBoot => (simp only [exec]; exact execSecureBoot_keeps h)
  | nonce => (simp only [exec]; exact execNonce_keeps h)
  | enrolOwner => (simp only [exec]; exact execEnrolOwner_keeps h)
  | revokeOwner => (simp only [exec]; exact execRevokeOwner_keeps h)
  | setPolicy => (simp only [exec]; exact execSetPolicy_keeps h)
  | provision => (simp only [exec]; exact execProvision_keeps h)
  | commitSvn => (simp only [exec]; exact execCommitSvn_keeps h)
  | debugOpen => (simp only [exec]; exact execDebugOpen_keeps h)
  | debugClose => (simp only [exec]; exact execDebugClose_keeps h)
  | certSlot1 => (simp only [exec]; exact execCertSlot1_keeps h)
  | decommission => (simp only [exec]; exact execDecommission_keeps h)
  | unlock => (simp only [exec]; exact execUnlock_keeps h)
  | keyWrite => (simp only [exec]; exact execKeyWrite_keeps h)
  | spdmRequest => (simp only [exec]; exact execSpdmRequest_keeps h)
  | query => (simp only [exec]; exact execQuery_keeps h)
  | keyProg => (simp only [exec]; exact execKeyProg_keeps h)
  | kSetGo => (simp only [exec]; exact execKSetGo_keeps h)
  | kSetStop => (simp only [exec]; exact execKSetStop_keeps h)
  | tamper => (simp only [exec]; exact execTamper_keeps h)
  | vbatLow => (simp only [exec]; exact execVbatLow_keeps h)
  | debugSessionExpiry => (simp only [exec]; exact execDebugSessionExpiry_keeps h)
  | debugAttach => (simp only [exec]; exact execDebugAttach_keeps h)
  | halt => (simp only [exec]; exact execHalt_keeps h)
  | program => (simp only [exec]; exact execProgram_keeps h)
  | read => (simp only [exec]; exact execRead_keeps h)
  | nvsSlotCfgWrite => (simp only [exec]; exact execNvsSlotCfgWrite_keeps h)
  | dteCntClr => (simp only [exec]; exact execDteCntClr_keeps h)
  | cdeCntClr => (simp only [exec]; exact execCdeCntClr_keeps h)
  | ceeCntClr => (simp only [exec]; exact execCeeCntClr_keeps h)
  | bypass => (simp only [exec]; exact execBypass_keeps h)
  | samplePreload => (simp only [exec]; exact execSamplePreload_keeps h)
  | idcode => (simp only [exec]; exact execIdcode_keeps h)
  | extest => (simp only [exec]; exact execExtest_keeps h)
  | extestPulse => (simp only [exec]; exact execExtestPulse_keeps h)
  | extestTrain => (simp only [exec]; exact execExtestTrain_keeps h)
  | highz => (simp only [exec]; exact execHighz_keeps h)
  | clamp => (simp only [exec]; exact execClamp_keeps h)
  | synceLockChange => (simp only [exec]; exact execSynceLockChange_keeps h)
  | partitionInterrupt => (simp only [exec]; exact execPartitionInterrupt_keeps h)
  | quadrantEntryComplete => (simp only [exec]; exact execQuadrantEntryComplete_keeps h)
  | quadrantWakeComplete => (simp only [exec]; exact execQuadrantWakeComplete_keeps h)
  | firmwareHealthyReport => (simp only [exec]; exact execFirmwareHealthyReport_keeps h)
  | configurationRequest => (simp only [exec]; exact execConfigurationRequest_keeps h)

end Sys2Proof.Machine
end

