-- ==== Sys2Proof/Laws/State.lean ====
section
/-!
SUPPORT. One law for each field of the state and each update: which fields an update leaves as they were, and what a unit reads as after another was stored.
-/

namespace Sys2Proof.Machine

set_option Elab.async false

variable (s : State)

/-! ## setR -/

@[simp] theorem setR_pending (a : Nat) (v : Word) : (setR s a v).pending = s.pending := rfl
@[simp] theorem setR_ct (a : Nat) (v : Word) : (setR s a v).ct = s.ct := rfl
@[simp] theorem setR_subPs (a : Nat) (v : Word) : (setR s a v).subPs = s.subPs := rfl
@[simp] theorem setR_lks (a : Nat) (v : Word) : (setR s a v).lks = s.lks := rfl
@[simp] theorem setR_locked (a : Nat) (v : Word) : (setR s a v).locked = s.locked := rfl
@[simp] theorem setR_heldLow (a : Nat) (v : Word) : (setR s a v).heldLow = s.heldLow := rfl
@[simp] theorem setR_latchedHigh (a : Nat) (v : Word) : (setR s a v).latchedHigh = s.latchedHigh := rfl
@[simp] theorem setR_mem (a : Nat) (v : Word) : (setR s a v).mem = s.mem := rfl
@[simp] theorem setR_poison (a : Nat) (v : Word) : (setR s a v).poison = s.poison := rfl
@[simp] theorem setR_errs (a : Nat) (v : Word) : (setR s a v).errs = s.errs := rfl
@[simp] theorem setR_pins (a : Nat) (v : Word) : (setR s a v).pins = s.pins := rfl
@[simp] theorem setR_evtFifo (a : Nat) (v : Word) : (setR s a v).evtFifo = s.evtFifo := rfl
@[simp] theorem setR_ints (a : Nat) (v : Word) : (setR s a v).ints = s.ints := rfl
@[simp] theorem setR_cfg (a : Nat) (v : Word) : (setR s a v).cfg = s.cfg := rfl
@[simp] theorem setR_doe (a : Nat) (v : Word) : (setR s a v).doe = s.doe := rfl
@[simp] theorem setR_rings (a : Nat) (v : Word) : (setR s a v).rings = s.rings := rfl
@[simp] theorem setR_ucmds (a : Nat) (v : Word) : (setR s a v).ucmds = s.ucmds := rfl
@[simp] theorem setR_plans (a : Nat) (v : Word) : (setR s a v).plans = s.plans := rfl
@[simp] theorem setR_planSeq (a : Nat) (v : Word) : (setR s a v).planSeq = s.planSeq := rfl
@[simp] theorem setR_jobs (a : Nat) (v : Word) : (setR s a v).jobs = s.jobs := rfl
@[simp] theorem setR_notices (a : Nat) (v : Word) : (setR s a v).notices = s.notices := rfl
@[simp] theorem setR_xfers (a : Nat) (v : Word) : (setR s a v).xfers = s.xfers := rfl
@[simp] theorem setR_retrains (a : Nat) (v : Word) : (setR s a v).retrains = s.retrains := rfl
@[simp] theorem setR_retrainDue (a : Nat) (v : Word) : (setR s a v).retrainDue = s.retrainDue := rfl
@[simp] theorem setR_progs (a : Nat) (v : Word) : (setR s a v).progs = s.progs := rfl
@[simp] theorem setR_progSeq (a : Nat) (v : Word) : (setR s a v).progSeq = s.progSeq := rfl
@[simp] theorem setR_tiles (a : Nat) (v : Word) : (setR s a v).tiles = s.tiles := rfl
@[simp] theorem setR_dma (a : Nat) (v : Word) : (setR s a v).dma = s.dma := rfl
@[simp] theorem setR_cvu (a : Nat) (v : Word) : (setR s a v).cvu = s.cvu := rfl
@[simp] theorem setR_cvuIn (a : Nat) (v : Word) : (setR s a v).cvuIn = s.cvuIn := rfl
@[simp] theorem setR_clusters (a : Nat) (v : Word) : (setR s a v).clusters = s.clusters := rfl
@[simp] theorem setR_tileHw (a : Nat) (v : Word) : (setR s a v).tileHw = s.tileHw := rfl
@[simp] theorem setR_raises (a : Nat) (v : Word) : (setR s a v).raises = s.raises := rfl
@[simp] theorem setR_rails (a : Nat) (v : Word) : (setR s a v).rails = s.rails := rfl
@[simp] theorem setR_quads (a : Nat) (v : Word) : (setR s a v).quads = s.quads := rfl
@[simp] theorem setR_biOut (a : Nat) (v : Word) : (setR s a v).biOut = s.biOut := rfl
@[simp] theorem setR_waits (a : Nat) (v : Word) : (setR s a v).waits = s.waits := rfl
@[simp] theorem setR_fox (a : Nat) (v : Word) : (setR s a v).fox = s.fox := rfl
@[simp] theorem setR_fw (a : Nat) (v : Word) : (setR s a v).fw = s.fw := rfl
@[simp] theorem setR_pageBuf (a : Nat) (v : Word) : (setR s a v).pageBuf = s.pageBuf := rfl
@[simp] theorem setR_sf (a : Nat) (v : Word) : (setR s a v).sf = s.sf := rfl
@[simp] theorem setR_linkHeld (a : Nat) (v : Word) : (setR s a v).linkHeld = s.linkHeld := rfl
@[simp] theorem setR_rxGroups (a : Nat) (v : Word) : (setR s a v).rxGroups = s.rxGroups := rfl
@[simp] theorem setR_rxPrbs (a : Nat) (v : Word) : (setR s a v).rxPrbs = s.rxPrbs := rfl
@[simp] theorem setR_laneHw (a : Nat) (v : Word) : (setR s a v).laneHw = s.laneHw := rfl
@[simp] theorem setR_txGroups (a : Nat) (v : Word) : (setR s a v).txGroups = s.txGroups := rfl
@[simp] theorem setR_sentGroups (a : Nat) (v : Word) : (setR s a v).sentGroups = s.sentGroups := rfl
@[simp] theorem setR_captures (a : Nat) (v : Word) : (setR s a v).captures = s.captures := rfl
@[simp] theorem setR_tddLive (a : Nat) (v : Word) : (setR s a v).tddLive = s.tddLive := rfl
@[simp] theorem setR_tddPrev (a : Nat) (v : Word) : (setR s a v).tddPrev = s.tddPrev := rfl
@[simp] theorem setR_tddAt (a : Nat) (v : Word) : (setR s a v).tddAt = s.tddAt := rfl
@[simp] theorem setR_tddPins (a : Nat) (v : Word) : (setR s a v).tddPins = s.tddPins := rfl
@[simp] theorem setR_pfeFrom (a : Nat) (v : Word) : (setR s a v).pfeFrom = s.pfeFrom := rfl
@[simp] theorem setR_spareTrig (a : Nat) (v : Word) : (setR s a v).spareTrig = s.spareTrig := rfl
@[simp] theorem setR_hdm (a : Nat) (v : Word) : (setR s a v).hdm = s.hdm := rfl
@[simp] theorem setR_comp (a : Nat) (v : Word) : (setR s a v).comp = s.comp := rfl
@[simp] theorem setR_recs (a : Nat) (v : Word) : (setR s a v).recs = s.recs := rfl
@[simp] theorem setR_tddDue (a : Nat) (v : Word) : (setR s a v).tddDue = s.tddDue := rfl
@[simp] theorem setR_portGrp (a : Nat) (v : Word) : (setR s a v).portGrp = s.portGrp := rfl
@[simp] theorem setR_delayLog (a : Nat) (v : Word) : (setR s a v).delayLog = s.delayLog := rfl
@[simp] theorem setR_rampSent (a : Nat) (v : Word) : (setR s a v).rampSent = s.rampSent := rfl
@[simp] theorem setR_phx (a : Nat) (v : Word) : (setR s a v).phx = s.phx := rfl
@[simp] theorem setR_frames (a : Nat) (v : Word) : (setR s a v).frames = s.frames := rfl
@[simp] theorem setR_care (a : Nat) (v : Word) : (setR s a v).care = s.care := rfl
@[simp] theorem setR_bram (a : Nat) (v : Word) : (setR s a v).bram = s.bram := rfl
@[simp] theorem setR_scr (a : Nat) (v : Word) : (setR s a v).scr = s.scr := rfl
@[simp] theorem setR_pfeCheck (a : Nat) (v : Word) : (setR s a v).pfeCheck = s.pfeCheck := rfl
@[simp] theorem setR_hotSince (a : Nat) (v : Word) : (setR s a v).hotSince = s.hotSince := rfl
@[simp] theorem setR_upCycles (a : Nat) (v : Word) : (setR s a v).upCycles = s.upCycles := rfl
@[simp] theorem setR_boot (a : Nat) (v : Word) : (setR s a v).boot = s.boot := rfl
@[simp] theorem setR_perst (a : Nat) (v : Word) : (setR s a v).perst = s.perst := rfl
@[simp] theorem setR_lockAt (a : Nat) (v : Word) : (setR s a v).lockAt = s.lockAt := rfl
@[simp] theorem setR_hubFlits (a : Nat) (v : Word) : (setR s a v).hubFlits = s.hubFlits := rfl
@[simp] theorem setR_rma (a : Nat) (v : Word) : (setR s a v).rma = s.rma := rfl
@[simp] theorem setR_jtag (a : Nat) (v : Word) : (setR s a v).jtag = s.jtag := rfl
@[simp] theorem setR_rowCopies (a : Nat) (v : Word) : (setR s a v).rowCopies = s.rowCopies := rfl
@[simp] theorem setR_spareRows (a : Nat) (v : Word) : (setR s a v).spareRows = s.spareRows := rfl
@[simp] theorem setR_spared (a : Nat) (v : Word) : (setR s a v).spared = s.spared := rfl
@[simp] theorem setR_corrSeen (a : Nat) (v : Word) : (setR s a v).corrSeen = s.corrSeen := rfl
@[simp] theorem setR_frPend (a : Nat) (v : Word) : (setR s a v).frPend = s.frPend := rfl
@[simp] theorem setR_frSecond (a : Nat) (v : Word) : (setR s a v).frSecond = s.frSecond := rfl
@[simp] theorem setR_frCount (a : Nat) (v : Word) : (setR s a v).frCount = s.frCount := rfl
@[simp] theorem setR_freeCtr (a : Nat) (v : Word) : (setR s a v).freeCtr = s.freeCtr := rfl
@[simp] theorem setR_out (a : Nat) (v : Word) : (setR s a v).out = s.out := rfl

/-! ## setF -/

@[simp] theorem setF_pending (f : Field) (v : Nat) : (setF s f v).pending = s.pending := by unfold setF; split <;> rfl
@[simp] theorem setF_ct (f : Field) (v : Nat) : (setF s f v).ct = s.ct := by unfold setF; split <;> rfl
@[simp] theorem setF_subPs (f : Field) (v : Nat) : (setF s f v).subPs = s.subPs := by unfold setF; split <;> rfl
@[simp] theorem setF_lks (f : Field) (v : Nat) : (setF s f v).lks = s.lks := by unfold setF; split <;> rfl
@[simp] theorem setF_locked (f : Field) (v : Nat) : (setF s f v).locked = s.locked := by unfold setF; split <;> rfl
@[simp] theorem setF_heldLow (f : Field) (v : Nat) : (setF s f v).heldLow = s.heldLow := by unfold setF; split <;> rfl
@[simp] theorem setF_latchedHigh (f : Field) (v : Nat) : (setF s f v).latchedHigh = s.latchedHigh := by unfold setF; split <;> rfl
@[simp] theorem setF_mem (f : Field) (v : Nat) : (setF s f v).mem = s.mem := by unfold setF; split <;> rfl
@[simp] theorem setF_poison (f : Field) (v : Nat) : (setF s f v).poison = s.poison := by unfold setF; split <;> rfl
@[simp] theorem setF_errs (f : Field) (v : Nat) : (setF s f v).errs = s.errs := by unfold setF; split <;> rfl
@[simp] theorem setF_pins (f : Field) (v : Nat) : (setF s f v).pins = s.pins := by unfold setF; split <;> rfl
@[simp] theorem setF_evtFifo (f : Field) (v : Nat) : (setF s f v).evtFifo = s.evtFifo := by unfold setF; split <;> rfl
@[simp] theorem setF_ints (f : Field) (v : Nat) : (setF s f v).ints = s.ints := by unfold setF; split <;> rfl
@[simp] theorem setF_cfg (f : Field) (v : Nat) : (setF s f v).cfg = s.cfg := by unfold setF; split <;> rfl
@[simp] theorem setF_doe (f : Field) (v : Nat) : (setF s f v).doe = s.doe := by unfold setF; split <;> rfl
@[simp] theorem setF_rings (f : Field) (v : Nat) : (setF s f v).rings = s.rings := by unfold setF; split <;> rfl
@[simp] theorem setF_ucmds (f : Field) (v : Nat) : (setF s f v).ucmds = s.ucmds := by unfold setF; split <;> rfl
@[simp] theorem setF_plans (f : Field) (v : Nat) : (setF s f v).plans = s.plans := by unfold setF; split <;> rfl
@[simp] theorem setF_planSeq (f : Field) (v : Nat) : (setF s f v).planSeq = s.planSeq := by unfold setF; split <;> rfl
@[simp] theorem setF_jobs (f : Field) (v : Nat) : (setF s f v).jobs = s.jobs := by unfold setF; split <;> rfl
@[simp] theorem setF_notices (f : Field) (v : Nat) : (setF s f v).notices = s.notices := by unfold setF; split <;> rfl
@[simp] theorem setF_xfers (f : Field) (v : Nat) : (setF s f v).xfers = s.xfers := by unfold setF; split <;> rfl
@[simp] theorem setF_retrains (f : Field) (v : Nat) : (setF s f v).retrains = s.retrains := by unfold setF; split <;> rfl
@[simp] theorem setF_retrainDue (f : Field) (v : Nat) : (setF s f v).retrainDue = s.retrainDue := by unfold setF; split <;> rfl
@[simp] theorem setF_progs (f : Field) (v : Nat) : (setF s f v).progs = s.progs := by unfold setF; split <;> rfl
@[simp] theorem setF_progSeq (f : Field) (v : Nat) : (setF s f v).progSeq = s.progSeq := by unfold setF; split <;> rfl
@[simp] theorem setF_tiles (f : Field) (v : Nat) : (setF s f v).tiles = s.tiles := by unfold setF; split <;> rfl
@[simp] theorem setF_dma (f : Field) (v : Nat) : (setF s f v).dma = s.dma := by unfold setF; split <;> rfl
@[simp] theorem setF_cvu (f : Field) (v : Nat) : (setF s f v).cvu = s.cvu := by unfold setF; split <;> rfl
@[simp] theorem setF_cvuIn (f : Field) (v : Nat) : (setF s f v).cvuIn = s.cvuIn := by unfold setF; split <;> rfl
@[simp] theorem setF_clusters (f : Field) (v : Nat) : (setF s f v).clusters = s.clusters := by unfold setF; split <;> rfl
@[simp] theorem setF_tileHw (f : Field) (v : Nat) : (setF s f v).tileHw = s.tileHw := by unfold setF; split <;> rfl
@[simp] theorem setF_raises (f : Field) (v : Nat) : (setF s f v).raises = s.raises := by unfold setF; split <;> rfl
@[simp] theorem setF_rails (f : Field) (v : Nat) : (setF s f v).rails = s.rails := by unfold setF; split <;> rfl
@[simp] theorem setF_quads (f : Field) (v : Nat) : (setF s f v).quads = s.quads := by unfold setF; split <;> rfl
@[simp] theorem setF_biOut (f : Field) (v : Nat) : (setF s f v).biOut = s.biOut := by unfold setF; split <;> rfl
@[simp] theorem setF_waits (f : Field) (v : Nat) : (setF s f v).waits = s.waits := by unfold setF; split <;> rfl
@[simp] theorem setF_fox (f : Field) (v : Nat) : (setF s f v).fox = s.fox := by unfold setF; split <;> rfl
@[simp] theorem setF_fw (f : Field) (v : Nat) : (setF s f v).fw = s.fw := by unfold setF; split <;> rfl
@[simp] theorem setF_pageBuf (f : Field) (v : Nat) : (setF s f v).pageBuf = s.pageBuf := by unfold setF; split <;> rfl
@[simp] theorem setF_sf (f : Field) (v : Nat) : (setF s f v).sf = s.sf := by unfold setF; split <;> rfl
@[simp] theorem setF_linkHeld (f : Field) (v : Nat) : (setF s f v).linkHeld = s.linkHeld := by unfold setF; split <;> rfl
@[simp] theorem setF_rxGroups (f : Field) (v : Nat) : (setF s f v).rxGroups = s.rxGroups := by unfold setF; split <;> rfl
@[simp] theorem setF_rxPrbs (f : Field) (v : Nat) : (setF s f v).rxPrbs = s.rxPrbs := by unfold setF; split <;> rfl
@[simp] theorem setF_laneHw (f : Field) (v : Nat) : (setF s f v).laneHw = s.laneHw := by unfold setF; split <;> rfl
@[simp] theorem setF_txGroups (f : Field) (v : Nat) : (setF s f v).txGroups = s.txGroups := by unfold setF; split <;> rfl
@[simp] theorem setF_sentGroups (f : Field) (v : Nat) : (setF s f v).sentGroups = s.sentGroups := by unfold setF; split <;> rfl
@[simp] theorem setF_captures (f : Field) (v : Nat) : (setF s f v).captures = s.captures := by unfold setF; split <;> rfl
@[simp] theorem setF_tddLive (f : Field) (v : Nat) : (setF s f v).tddLive = s.tddLive := by unfold setF; split <;> rfl
@[simp] theorem setF_tddPrev (f : Field) (v : Nat) : (setF s f v).tddPrev = s.tddPrev := by unfold setF; split <;> rfl
@[simp] theorem setF_tddAt (f : Field) (v : Nat) : (setF s f v).tddAt = s.tddAt := by unfold setF; split <;> rfl
@[simp] theorem setF_tddPins (f : Field) (v : Nat) : (setF s f v).tddPins = s.tddPins := by unfold setF; split <;> rfl
@[simp] theorem setF_pfeFrom (f : Field) (v : Nat) : (setF s f v).pfeFrom = s.pfeFrom := by unfold setF; split <;> rfl
@[simp] theorem setF_spareTrig (f : Field) (v : Nat) : (setF s f v).spareTrig = s.spareTrig := by unfold setF; split <;> rfl
@[simp] theorem setF_hdm (f : Field) (v : Nat) : (setF s f v).hdm = s.hdm := by unfold setF; split <;> rfl
@[simp] theorem setF_comp (f : Field) (v : Nat) : (setF s f v).comp = s.comp := by unfold setF; split <;> rfl
@[simp] theorem setF_recs (f : Field) (v : Nat) : (setF s f v).recs = s.recs := by unfold setF; split <;> rfl
@[simp] theorem setF_tddDue (f : Field) (v : Nat) : (setF s f v).tddDue = s.tddDue := by unfold setF; split <;> rfl
@[simp] theorem setF_portGrp (f : Field) (v : Nat) : (setF s f v).portGrp = s.portGrp := by unfold setF; split <;> rfl
@[simp] theorem setF_delayLog (f : Field) (v : Nat) : (setF s f v).delayLog = s.delayLog := by unfold setF; split <;> rfl
@[simp] theorem setF_rampSent (f : Field) (v : Nat) : (setF s f v).rampSent = s.rampSent := by unfold setF; split <;> rfl
@[simp] theorem setF_phx (f : Field) (v : Nat) : (setF s f v).phx = s.phx := by unfold setF; split <;> rfl
@[simp] theorem setF_frames (f : Field) (v : Nat) : (setF s f v).frames = s.frames := by unfold setF; split <;> rfl
@[simp] theorem setF_care (f : Field) (v : Nat) : (setF s f v).care = s.care := by unfold setF; split <;> rfl
@[simp] theorem setF_bram (f : Field) (v : Nat) : (setF s f v).bram = s.bram := by unfold setF; split <;> rfl
@[simp] theorem setF_scr (f : Field) (v : Nat) : (setF s f v).scr = s.scr := by unfold setF; split <;> rfl
@[simp] theorem setF_pfeCheck (f : Field) (v : Nat) : (setF s f v).pfeCheck = s.pfeCheck := by unfold setF; split <;> rfl
@[simp] theorem setF_hotSince (f : Field) (v : Nat) : (setF s f v).hotSince = s.hotSince := by unfold setF; split <;> rfl
@[simp] theorem setF_upCycles (f : Field) (v : Nat) : (setF s f v).upCycles = s.upCycles := by unfold setF; split <;> rfl
@[simp] theorem setF_boot (f : Field) (v : Nat) : (setF s f v).boot = s.boot := by unfold setF; split <;> rfl
@[simp] theorem setF_perst (f : Field) (v : Nat) : (setF s f v).perst = s.perst := by unfold setF; split <;> rfl
@[simp] theorem setF_lockAt (f : Field) (v : Nat) : (setF s f v).lockAt = s.lockAt := by unfold setF; split <;> rfl
@[simp] theorem setF_hubFlits (f : Field) (v : Nat) : (setF s f v).hubFlits = s.hubFlits := by unfold setF; split <;> rfl
@[simp] theorem setF_rma (f : Field) (v : Nat) : (setF s f v).rma = s.rma := by unfold setF; split <;> rfl
@[simp] theorem setF_jtag (f : Field) (v : Nat) : (setF s f v).jtag = s.jtag := by unfold setF; split <;> rfl
@[simp] theorem setF_rowCopies (f : Field) (v : Nat) : (setF s f v).rowCopies = s.rowCopies := by unfold setF; split <;> rfl
@[simp] theorem setF_spareRows (f : Field) (v : Nat) : (setF s f v).spareRows = s.spareRows := by unfold setF; split <;> rfl
@[simp] theorem setF_spared (f : Field) (v : Nat) : (setF s f v).spared = s.spared := by unfold setF; split <;> rfl
@[simp] theorem setF_corrSeen (f : Field) (v : Nat) : (setF s f v).corrSeen = s.corrSeen := by unfold setF; split <;> rfl
@[simp] theorem setF_frPend (f : Field) (v : Nat) : (setF s f v).frPend = s.frPend := by unfold setF; split <;> rfl
@[simp] theorem setF_frSecond (f : Field) (v : Nat) : (setF s f v).frSecond = s.frSecond := by unfold setF; split <;> rfl
@[simp] theorem setF_frCount (f : Field) (v : Nat) : (setF s f v).frCount = s.frCount := by unfold setF; split <;> rfl
@[simp] theorem setF_freeCtr (f : Field) (v : Nat) : (setF s f v).freeCtr = s.freeCtr := by unfold setF; split <;> rfl
@[simp] theorem setF_out (f : Field) (v : Nat) : (setF s f v).out = s.out := by unfold setF; split <;> rfl

/-! ## atDt -/

@[simp] theorem atDt_pending (dt : Nat) : (atDt s dt).pending = s.pending := rfl
@[simp] theorem atDt_ct (dt : Nat) : (atDt s dt).ct = s.ct := rfl
@[simp] theorem atDt_lks (dt : Nat) : (atDt s dt).lks = s.lks := rfl
@[simp] theorem atDt_regs (dt : Nat) : (atDt s dt).regs = s.regs := rfl
@[simp] theorem atDt_locked (dt : Nat) : (atDt s dt).locked = s.locked := rfl
@[simp] theorem atDt_heldLow (dt : Nat) : (atDt s dt).heldLow = s.heldLow := rfl
@[simp] theorem atDt_latchedHigh (dt : Nat) : (atDt s dt).latchedHigh = s.latchedHigh := rfl
@[simp] theorem atDt_mem (dt : Nat) : (atDt s dt).mem = s.mem := rfl
@[simp] theorem atDt_poison (dt : Nat) : (atDt s dt).poison = s.poison := rfl
@[simp] theorem atDt_errs (dt : Nat) : (atDt s dt).errs = s.errs := rfl
@[simp] theorem atDt_pins (dt : Nat) : (atDt s dt).pins = s.pins := rfl
@[simp] theorem atDt_evtFifo (dt : Nat) : (atDt s dt).evtFifo = s.evtFifo := rfl
@[simp] theorem atDt_ints (dt : Nat) : (atDt s dt).ints = s.ints := rfl
@[simp] theorem atDt_cfg (dt : Nat) : (atDt s dt).cfg = s.cfg := rfl
@[simp] theorem atDt_doe (dt : Nat) : (atDt s dt).doe = s.doe := rfl
@[simp] theorem atDt_rings (dt : Nat) : (atDt s dt).rings = s.rings := rfl
@[simp] theorem atDt_ucmds (dt : Nat) : (atDt s dt).ucmds = s.ucmds := rfl
@[simp] theorem atDt_plans (dt : Nat) : (atDt s dt).plans = s.plans := rfl
@[simp] theorem atDt_planSeq (dt : Nat) : (atDt s dt).planSeq = s.planSeq := rfl
@[simp] theorem atDt_jobs (dt : Nat) : (atDt s dt).jobs = s.jobs := rfl
@[simp] theorem atDt_notices (dt : Nat) : (atDt s dt).notices = s.notices := rfl
@[simp] theorem atDt_xfers (dt : Nat) : (atDt s dt).xfers = s.xfers := rfl
@[simp] theorem atDt_retrains (dt : Nat) : (atDt s dt).retrains = s.retrains := rfl
@[simp] theorem atDt_retrainDue (dt : Nat) : (atDt s dt).retrainDue = s.retrainDue := rfl
@[simp] theorem atDt_progs (dt : Nat) : (atDt s dt).progs = s.progs := rfl
@[simp] theorem atDt_progSeq (dt : Nat) : (atDt s dt).progSeq = s.progSeq := rfl
@[simp] theorem atDt_tiles (dt : Nat) : (atDt s dt).tiles = s.tiles := rfl
@[simp] theorem atDt_dma (dt : Nat) : (atDt s dt).dma = s.dma := rfl
@[simp] theorem atDt_cvu (dt : Nat) : (atDt s dt).cvu = s.cvu := rfl
@[simp] theorem atDt_cvuIn (dt : Nat) : (atDt s dt).cvuIn = s.cvuIn := rfl
@[simp] theorem atDt_clusters (dt : Nat) : (atDt s dt).clusters = s.clusters := rfl
@[simp] theorem atDt_tileHw (dt : Nat) : (atDt s dt).tileHw = s.tileHw := rfl
@[simp] theorem atDt_raises (dt : Nat) : (atDt s dt).raises = s.raises := rfl
@[simp] theorem atDt_rails (dt : Nat) : (atDt s dt).rails = s.rails := rfl
@[simp] theorem atDt_quads (dt : Nat) : (atDt s dt).quads = s.quads := rfl
@[simp] theorem atDt_biOut (dt : Nat) : (atDt s dt).biOut = s.biOut := rfl
@[simp] theorem atDt_waits (dt : Nat) : (atDt s dt).waits = s.waits := rfl
@[simp] theorem atDt_fox (dt : Nat) : (atDt s dt).fox = s.fox := rfl
@[simp] theorem atDt_fw (dt : Nat) : (atDt s dt).fw = s.fw := rfl
@[simp] theorem atDt_pageBuf (dt : Nat) : (atDt s dt).pageBuf = s.pageBuf := rfl
@[simp] theorem atDt_sf (dt : Nat) : (atDt s dt).sf = s.sf := rfl
@[simp] theorem atDt_linkHeld (dt : Nat) : (atDt s dt).linkHeld = s.linkHeld := rfl
@[simp] theorem atDt_rxGroups (dt : Nat) : (atDt s dt).rxGroups = s.rxGroups := rfl
@[simp] theorem atDt_rxPrbs (dt : Nat) : (atDt s dt).rxPrbs = s.rxPrbs := rfl
@[simp] theorem atDt_laneHw (dt : Nat) : (atDt s dt).laneHw = s.laneHw := rfl
@[simp] theorem atDt_txGroups (dt : Nat) : (atDt s dt).txGroups = s.txGroups := rfl
@[simp] theorem atDt_sentGroups (dt : Nat) : (atDt s dt).sentGroups = s.sentGroups := rfl
@[simp] theorem atDt_captures (dt : Nat) : (atDt s dt).captures = s.captures := rfl
@[simp] theorem atDt_tddLive (dt : Nat) : (atDt s dt).tddLive = s.tddLive := rfl
@[simp] theorem atDt_tddPrev (dt : Nat) : (atDt s dt).tddPrev = s.tddPrev := rfl
@[simp] theorem atDt_tddAt (dt : Nat) : (atDt s dt).tddAt = s.tddAt := rfl
@[simp] theorem atDt_tddPins (dt : Nat) : (atDt s dt).tddPins = s.tddPins := rfl
@[simp] theorem atDt_pfeFrom (dt : Nat) : (atDt s dt).pfeFrom = s.pfeFrom := rfl
@[simp] theorem atDt_spareTrig (dt : Nat) : (atDt s dt).spareTrig = s.spareTrig := rfl
@[simp] theorem atDt_hdm (dt : Nat) : (atDt s dt).hdm = s.hdm := rfl
@[simp] theorem atDt_comp (dt : Nat) : (atDt s dt).comp = s.comp := rfl
@[simp] theorem atDt_recs (dt : Nat) : (atDt s dt).recs = s.recs := rfl
@[simp] theorem atDt_tddDue (dt : Nat) : (atDt s dt).tddDue = s.tddDue := rfl
@[simp] theorem atDt_portGrp (dt : Nat) : (atDt s dt).portGrp = s.portGrp := rfl
@[simp] theorem atDt_delayLog (dt : Nat) : (atDt s dt).delayLog = s.delayLog := rfl
@[simp] theorem atDt_rampSent (dt : Nat) : (atDt s dt).rampSent = s.rampSent := rfl
@[simp] theorem atDt_phx (dt : Nat) : (atDt s dt).phx = s.phx := rfl
@[simp] theorem atDt_frames (dt : Nat) : (atDt s dt).frames = s.frames := rfl
@[simp] theorem atDt_care (dt : Nat) : (atDt s dt).care = s.care := rfl
@[simp] theorem atDt_bram (dt : Nat) : (atDt s dt).bram = s.bram := rfl
@[simp] theorem atDt_scr (dt : Nat) : (atDt s dt).scr = s.scr := rfl
@[simp] theorem atDt_pfeCheck (dt : Nat) : (atDt s dt).pfeCheck = s.pfeCheck := rfl
@[simp] theorem atDt_hotSince (dt : Nat) : (atDt s dt).hotSince = s.hotSince := rfl
@[simp] theorem atDt_upCycles (dt : Nat) : (atDt s dt).upCycles = s.upCycles := rfl
@[simp] theorem atDt_boot (dt : Nat) : (atDt s dt).boot = s.boot := rfl
@[simp] theorem atDt_perst (dt : Nat) : (atDt s dt).perst = s.perst := rfl
@[simp] theorem atDt_lockAt (dt : Nat) : (atDt s dt).lockAt = s.lockAt := rfl
@[simp] theorem atDt_hubFlits (dt : Nat) : (atDt s dt).hubFlits = s.hubFlits := rfl
@[simp] theorem atDt_rma (dt : Nat) : (atDt s dt).rma = s.rma := rfl
@[simp] theorem atDt_jtag (dt : Nat) : (atDt s dt).jtag = s.jtag := rfl
@[simp] theorem atDt_rowCopies (dt : Nat) : (atDt s dt).rowCopies = s.rowCopies := rfl
@[simp] theorem atDt_spareRows (dt : Nat) : (atDt s dt).spareRows = s.spareRows := rfl
@[simp] theorem atDt_spared (dt : Nat) : (atDt s dt).spared = s.spared := rfl
@[simp] theorem atDt_corrSeen (dt : Nat) : (atDt s dt).corrSeen = s.corrSeen := rfl
@[simp] theorem atDt_frPend (dt : Nat) : (atDt s dt).frPend = s.frPend := rfl
@[simp] theorem atDt_frSecond (dt : Nat) : (atDt s dt).frSecond = s.frSecond := rfl
@[simp] theorem atDt_frCount (dt : Nat) : (atDt s dt).frCount = s.frCount := rfl
@[simp] theorem atDt_freeCtr (dt : Nat) : (atDt s dt).freeCtr = s.freeCtr := rfl
@[simp] theorem atDt_out (dt : Nat) : (atDt s dt).out = s.out := rfl

/-! ## emit -/

@[simp] theorem emit_pending (o : Output) : (emit s o).pending = s.pending := rfl
@[simp] theorem emit_ct (o : Output) : (emit s o).ct = s.ct := rfl
@[simp] theorem emit_subPs (o : Output) : (emit s o).subPs = s.subPs := rfl
@[simp] theorem emit_lks (o : Output) : (emit s o).lks = s.lks := rfl
@[simp] theorem emit_regs (o : Output) : (emit s o).regs = s.regs := rfl
@[simp] theorem emit_locked (o : Output) : (emit s o).locked = s.locked := rfl
@[simp] theorem emit_heldLow (o : Output) : (emit s o).heldLow = s.heldLow := rfl
@[simp] theorem emit_latchedHigh (o : Output) : (emit s o).latchedHigh = s.latchedHigh := rfl
@[simp] theorem emit_mem (o : Output) : (emit s o).mem = s.mem := rfl
@[simp] theorem emit_poison (o : Output) : (emit s o).poison = s.poison := rfl
@[simp] theorem emit_errs (o : Output) : (emit s o).errs = s.errs := rfl
@[simp] theorem emit_pins (o : Output) : (emit s o).pins = s.pins := rfl
@[simp] theorem emit_evtFifo (o : Output) : (emit s o).evtFifo = s.evtFifo := rfl
@[simp] theorem emit_ints (o : Output) : (emit s o).ints = s.ints := rfl
@[simp] theorem emit_cfg (o : Output) : (emit s o).cfg = s.cfg := rfl
@[simp] theorem emit_doe (o : Output) : (emit s o).doe = s.doe := rfl
@[simp] theorem emit_rings (o : Output) : (emit s o).rings = s.rings := rfl
@[simp] theorem emit_ucmds (o : Output) : (emit s o).ucmds = s.ucmds := rfl
@[simp] theorem emit_plans (o : Output) : (emit s o).plans = s.plans := rfl
@[simp] theorem emit_planSeq (o : Output) : (emit s o).planSeq = s.planSeq := rfl
@[simp] theorem emit_jobs (o : Output) : (emit s o).jobs = s.jobs := rfl
@[simp] theorem emit_notices (o : Output) : (emit s o).notices = s.notices := rfl
@[simp] theorem emit_xfers (o : Output) : (emit s o).xfers = s.xfers := rfl
@[simp] theorem emit_retrains (o : Output) : (emit s o).retrains = s.retrains := rfl
@[simp] theorem emit_retrainDue (o : Output) : (emit s o).retrainDue = s.retrainDue := rfl
@[simp] theorem emit_progs (o : Output) : (emit s o).progs = s.progs := rfl
@[simp] theorem emit_progSeq (o : Output) : (emit s o).progSeq = s.progSeq := rfl
@[simp] theorem emit_tiles (o : Output) : (emit s o).tiles = s.tiles := rfl
@[simp] theorem emit_dma (o : Output) : (emit s o).dma = s.dma := rfl
@[simp] theorem emit_cvu (o : Output) : (emit s o).cvu = s.cvu := rfl
@[simp] theorem emit_cvuIn (o : Output) : (emit s o).cvuIn = s.cvuIn := rfl
@[simp] theorem emit_clusters (o : Output) : (emit s o).clusters = s.clusters := rfl
@[simp] theorem emit_tileHw (o : Output) : (emit s o).tileHw = s.tileHw := rfl
@[simp] theorem emit_raises (o : Output) : (emit s o).raises = s.raises := rfl
@[simp] theorem emit_rails (o : Output) : (emit s o).rails = s.rails := rfl
@[simp] theorem emit_quads (o : Output) : (emit s o).quads = s.quads := rfl
@[simp] theorem emit_biOut (o : Output) : (emit s o).biOut = s.biOut := rfl
@[simp] theorem emit_waits (o : Output) : (emit s o).waits = s.waits := rfl
@[simp] theorem emit_fox (o : Output) : (emit s o).fox = s.fox := rfl
@[simp] theorem emit_fw (o : Output) : (emit s o).fw = s.fw := rfl
@[simp] theorem emit_pageBuf (o : Output) : (emit s o).pageBuf = s.pageBuf := rfl
@[simp] theorem emit_sf (o : Output) : (emit s o).sf = s.sf := rfl
@[simp] theorem emit_linkHeld (o : Output) : (emit s o).linkHeld = s.linkHeld := rfl
@[simp] theorem emit_rxGroups (o : Output) : (emit s o).rxGroups = s.rxGroups := rfl
@[simp] theorem emit_rxPrbs (o : Output) : (emit s o).rxPrbs = s.rxPrbs := rfl
@[simp] theorem emit_laneHw (o : Output) : (emit s o).laneHw = s.laneHw := rfl
@[simp] theorem emit_txGroups (o : Output) : (emit s o).txGroups = s.txGroups := rfl
@[simp] theorem emit_sentGroups (o : Output) : (emit s o).sentGroups = s.sentGroups := rfl
@[simp] theorem emit_captures (o : Output) : (emit s o).captures = s.captures := rfl
@[simp] theorem emit_tddLive (o : Output) : (emit s o).tddLive = s.tddLive := rfl
@[simp] theorem emit_tddPrev (o : Output) : (emit s o).tddPrev = s.tddPrev := rfl
@[simp] theorem emit_tddAt (o : Output) : (emit s o).tddAt = s.tddAt := rfl
@[simp] theorem emit_tddPins (o : Output) : (emit s o).tddPins = s.tddPins := rfl
@[simp] theorem emit_pfeFrom (o : Output) : (emit s o).pfeFrom = s.pfeFrom := rfl
@[simp] theorem emit_spareTrig (o : Output) : (emit s o).spareTrig = s.spareTrig := rfl
@[simp] theorem emit_hdm (o : Output) : (emit s o).hdm = s.hdm := rfl
@[simp] theorem emit_comp (o : Output) : (emit s o).comp = s.comp := rfl
@[simp] theorem emit_recs (o : Output) : (emit s o).recs = s.recs := rfl
@[simp] theorem emit_tddDue (o : Output) : (emit s o).tddDue = s.tddDue := rfl
@[simp] theorem emit_portGrp (o : Output) : (emit s o).portGrp = s.portGrp := rfl
@[simp] theorem emit_delayLog (o : Output) : (emit s o).delayLog = s.delayLog := rfl
@[simp] theorem emit_rampSent (o : Output) : (emit s o).rampSent = s.rampSent := rfl
@[simp] theorem emit_phx (o : Output) : (emit s o).phx = s.phx := rfl
@[simp] theorem emit_frames (o : Output) : (emit s o).frames = s.frames := rfl
@[simp] theorem emit_care (o : Output) : (emit s o).care = s.care := rfl
@[simp] theorem emit_bram (o : Output) : (emit s o).bram = s.bram := rfl
@[simp] theorem emit_scr (o : Output) : (emit s o).scr = s.scr := rfl
@[simp] theorem emit_pfeCheck (o : Output) : (emit s o).pfeCheck = s.pfeCheck := rfl
@[simp] theorem emit_hotSince (o : Output) : (emit s o).hotSince = s.hotSince := rfl
@[simp] theorem emit_upCycles (o : Output) : (emit s o).upCycles = s.upCycles := rfl
@[simp] theorem emit_boot (o : Output) : (emit s o).boot = s.boot := rfl
@[simp] theorem emit_perst (o : Output) : (emit s o).perst = s.perst := rfl
@[simp] theorem emit_lockAt (o : Output) : (emit s o).lockAt = s.lockAt := rfl
@[simp] theorem emit_hubFlits (o : Output) : (emit s o).hubFlits = s.hubFlits := rfl
@[simp] theorem emit_rma (o : Output) : (emit s o).rma = s.rma := rfl
@[simp] theorem emit_jtag (o : Output) : (emit s o).jtag = s.jtag := rfl
@[simp] theorem emit_rowCopies (o : Output) : (emit s o).rowCopies = s.rowCopies := rfl
@[simp] theorem emit_spareRows (o : Output) : (emit s o).spareRows = s.spareRows := rfl
@[simp] theorem emit_spared (o : Output) : (emit s o).spared = s.spared := rfl
@[simp] theorem emit_corrSeen (o : Output) : (emit s o).corrSeen = s.corrSeen := rfl
@[simp] theorem emit_frPend (o : Output) : (emit s o).frPend = s.frPend := rfl
@[simp] theorem emit_frSecond (o : Output) : (emit s o).frSecond = s.frSecond := rfl
@[simp] theorem emit_frCount (o : Output) : (emit s o).frCount = s.frCount := rfl
@[simp] theorem emit_freeCtr (o : Output) : (emit s o).freeCtr = s.freeCtr := rfl

/-! ## report -/

@[simp] theorem report_pending (e : FrEntry) : (report s e).pending = s.pending := rfl
@[simp] theorem report_ct (e : FrEntry) : (report s e).ct = s.ct := rfl
@[simp] theorem report_subPs (e : FrEntry) : (report s e).subPs = s.subPs := rfl
@[simp] theorem report_lks (e : FrEntry) : (report s e).lks = s.lks := rfl
@[simp] theorem report_regs (e : FrEntry) : (report s e).regs = s.regs := rfl
@[simp] theorem report_locked (e : FrEntry) : (report s e).locked = s.locked := rfl
@[simp] theorem report_heldLow (e : FrEntry) : (report s e).heldLow = s.heldLow := rfl
@[simp] theorem report_latchedHigh (e : FrEntry) : (report s e).latchedHigh = s.latchedHigh := rfl
@[simp] theorem report_mem (e : FrEntry) : (report s e).mem = s.mem := rfl
@[simp] theorem report_poison (e : FrEntry) : (report s e).poison = s.poison := rfl
@[simp] theorem report_errs (e : FrEntry) : (report s e).errs = s.errs := rfl
@[simp] theorem report_pins (e : FrEntry) : (report s e).pins = s.pins := rfl
@[simp] theorem report_evtFifo (e : FrEntry) : (report s e).evtFifo = s.evtFifo := rfl
@[simp] theorem report_ints (e : FrEntry) : (report s e).ints = s.ints := rfl
@[simp] theorem report_cfg (e : FrEntry) : (report s e).cfg = s.cfg := rfl
@[simp] theorem report_doe (e : FrEntry) : (report s e).doe = s.doe := rfl
@[simp] theorem report_rings (e : FrEntry) : (report s e).rings = s.rings := rfl
@[simp] theorem report_ucmds (e : FrEntry) : (report s e).ucmds = s.ucmds := rfl
@[simp] theorem report_plans (e : FrEntry) : (report s e).plans = s.plans := rfl
@[simp] theorem report_planSeq (e : FrEntry) : (report s e).planSeq = s.planSeq := rfl
@[simp] theorem report_jobs (e : FrEntry) : (report s e).jobs = s.jobs := rfl
@[simp] theorem report_notices (e : FrEntry) : (report s e).notices = s.notices := rfl
@[simp] theorem report_xfers (e : FrEntry) : (report s e).xfers = s.xfers := rfl
@[simp] theorem report_retrains (e : FrEntry) : (report s e).retrains = s.retrains := rfl
@[simp] theorem report_retrainDue (e : FrEntry) : (report s e).retrainDue = s.retrainDue := rfl
@[simp] theorem report_progs (e : FrEntry) : (report s e).progs = s.progs := rfl
@[simp] theorem report_progSeq (e : FrEntry) : (report s e).progSeq = s.progSeq := rfl
@[simp] theorem report_tiles (e : FrEntry) : (report s e).tiles = s.tiles := rfl
@[simp] theorem report_dma (e : FrEntry) : (report s e).dma = s.dma := rfl
@[simp] theorem report_cvu (e : FrEntry) : (report s e).cvu = s.cvu := rfl
@[simp] theorem report_cvuIn (e : FrEntry) : (report s e).cvuIn = s.cvuIn := rfl
@[simp] theorem report_clusters (e : FrEntry) : (report s e).clusters = s.clusters := rfl
@[simp] theorem report_tileHw (e : FrEntry) : (report s e).tileHw = s.tileHw := rfl
@[simp] theorem report_raises (e : FrEntry) : (report s e).raises = s.raises := rfl
@[simp] theorem report_rails (e : FrEntry) : (report s e).rails = s.rails := rfl
@[simp] theorem report_quads (e : FrEntry) : (report s e).quads = s.quads := rfl
@[simp] theorem report_biOut (e : FrEntry) : (report s e).biOut = s.biOut := rfl
@[simp] theorem report_waits (e : FrEntry) : (report s e).waits = s.waits := rfl
@[simp] theorem report_fox (e : FrEntry) : (report s e).fox = s.fox := rfl
@[simp] theorem report_fw (e : FrEntry) : (report s e).fw = s.fw := rfl
@[simp] theorem report_pageBuf (e : FrEntry) : (report s e).pageBuf = s.pageBuf := rfl
@[simp] theorem report_sf (e : FrEntry) : (report s e).sf = s.sf := rfl
@[simp] theorem report_linkHeld (e : FrEntry) : (report s e).linkHeld = s.linkHeld := rfl
@[simp] theorem report_rxGroups (e : FrEntry) : (report s e).rxGroups = s.rxGroups := rfl
@[simp] theorem report_rxPrbs (e : FrEntry) : (report s e).rxPrbs = s.rxPrbs := rfl
@[simp] theorem report_laneHw (e : FrEntry) : (report s e).laneHw = s.laneHw := rfl
@[simp] theorem report_txGroups (e : FrEntry) : (report s e).txGroups = s.txGroups := rfl
@[simp] theorem report_sentGroups (e : FrEntry) : (report s e).sentGroups = s.sentGroups := rfl
@[simp] theorem report_captures (e : FrEntry) : (report s e).captures = s.captures := rfl
@[simp] theorem report_tddLive (e : FrEntry) : (report s e).tddLive = s.tddLive := rfl
@[simp] theorem report_tddPrev (e : FrEntry) : (report s e).tddPrev = s.tddPrev := rfl
@[simp] theorem report_tddAt (e : FrEntry) : (report s e).tddAt = s.tddAt := rfl
@[simp] theorem report_tddPins (e : FrEntry) : (report s e).tddPins = s.tddPins := rfl
@[simp] theorem report_pfeFrom (e : FrEntry) : (report s e).pfeFrom = s.pfeFrom := rfl
@[simp] theorem report_spareTrig (e : FrEntry) : (report s e).spareTrig = s.spareTrig := rfl
@[simp] theorem report_hdm (e : FrEntry) : (report s e).hdm = s.hdm := rfl
@[simp] theorem report_comp (e : FrEntry) : (report s e).comp = s.comp := rfl
@[simp] theorem report_recs (e : FrEntry) : (report s e).recs = s.recs := rfl
@[simp] theorem report_tddDue (e : FrEntry) : (report s e).tddDue = s.tddDue := rfl
@[simp] theorem report_portGrp (e : FrEntry) : (report s e).portGrp = s.portGrp := rfl
@[simp] theorem report_delayLog (e : FrEntry) : (report s e).delayLog = s.delayLog := rfl
@[simp] theorem report_rampSent (e : FrEntry) : (report s e).rampSent = s.rampSent := rfl
@[simp] theorem report_phx (e : FrEntry) : (report s e).phx = s.phx := rfl
@[simp] theorem report_frames (e : FrEntry) : (report s e).frames = s.frames := rfl
@[simp] theorem report_care (e : FrEntry) : (report s e).care = s.care := rfl
@[simp] theorem report_bram (e : FrEntry) : (report s e).bram = s.bram := rfl
@[simp] theorem report_scr (e : FrEntry) : (report s e).scr = s.scr := rfl
@[simp] theorem report_pfeCheck (e : FrEntry) : (report s e).pfeCheck = s.pfeCheck := rfl
@[simp] theorem report_hotSince (e : FrEntry) : (report s e).hotSince = s.hotSince := rfl
@[simp] theorem report_upCycles (e : FrEntry) : (report s e).upCycles = s.upCycles := rfl
@[simp] theorem report_boot (e : FrEntry) : (report s e).boot = s.boot := rfl
@[simp] theorem report_perst (e : FrEntry) : (report s e).perst = s.perst := rfl
@[simp] theorem report_lockAt (e : FrEntry) : (report s e).lockAt = s.lockAt := rfl
@[simp] theorem report_hubFlits (e : FrEntry) : (report s e).hubFlits = s.hubFlits := rfl
@[simp] theorem report_rma (e : FrEntry) : (report s e).rma = s.rma := rfl
@[simp] theorem report_jtag (e : FrEntry) : (report s e).jtag = s.jtag := rfl
@[simp] theorem report_rowCopies (e : FrEntry) : (report s e).rowCopies = s.rowCopies := rfl
@[simp] theorem report_spareRows (e : FrEntry) : (report s e).spareRows = s.spareRows := rfl
@[simp] theorem report_spared (e : FrEntry) : (report s e).spared = s.spared := rfl
@[simp] theorem report_corrSeen (e : FrEntry) : (report s e).corrSeen = s.corrSeen := rfl
@[simp] theorem report_frSecond (e : FrEntry) : (report s e).frSecond = s.frSecond := rfl
@[simp] theorem report_frCount (e : FrEntry) : (report s e).frCount = s.frCount := rfl
@[simp] theorem report_freeCtr (e : FrEntry) : (report s e).freeCtr = s.freeCtr := rfl
@[simp] theorem report_out (e : FrEntry) : (report s e).out = s.out := rfl

/-! ## setPoison -/

@[simp] theorem setPoison_pending (g : Nat) (b : Bool) : (setPoison s g b).pending = s.pending := rfl
@[simp] theorem setPoison_ct (g : Nat) (b : Bool) : (setPoison s g b).ct = s.ct := rfl
@[simp] theorem setPoison_subPs (g : Nat) (b : Bool) : (setPoison s g b).subPs = s.subPs := rfl
@[simp] theorem setPoison_lks (g : Nat) (b : Bool) : (setPoison s g b).lks = s.lks := rfl
@[simp] theorem setPoison_regs (g : Nat) (b : Bool) : (setPoison s g b).regs = s.regs := rfl
@[simp] theorem setPoison_locked (g : Nat) (b : Bool) : (setPoison s g b).locked = s.locked := rfl
@[simp] theorem setPoison_heldLow (g : Nat) (b : Bool) : (setPoison s g b).heldLow = s.heldLow := rfl
@[simp] theorem setPoison_latchedHigh (g : Nat) (b : Bool) : (setPoison s g b).latchedHigh = s.latchedHigh := rfl
@[simp] theorem setPoison_mem (g : Nat) (b : Bool) : (setPoison s g b).mem = s.mem := rfl
@[simp] theorem setPoison_errs (g : Nat) (b : Bool) : (setPoison s g b).errs = s.errs := rfl
@[simp] theorem setPoison_pins (g : Nat) (b : Bool) : (setPoison s g b).pins = s.pins := rfl
@[simp] theorem setPoison_evtFifo (g : Nat) (b : Bool) : (setPoison s g b).evtFifo = s.evtFifo := rfl
@[simp] theorem setPoison_ints (g : Nat) (b : Bool) : (setPoison s g b).ints = s.ints := rfl
@[simp] theorem setPoison_cfg (g : Nat) (b : Bool) : (setPoison s g b).cfg = s.cfg := rfl
@[simp] theorem setPoison_doe (g : Nat) (b : Bool) : (setPoison s g b).doe = s.doe := rfl
@[simp] theorem setPoison_rings (g : Nat) (b : Bool) : (setPoison s g b).rings = s.rings := rfl
@[simp] theorem setPoison_ucmds (g : Nat) (b : Bool) : (setPoison s g b).ucmds = s.ucmds := rfl
@[simp] theorem setPoison_plans (g : Nat) (b : Bool) : (setPoison s g b).plans = s.plans := rfl
@[simp] theorem setPoison_planSeq (g : Nat) (b : Bool) : (setPoison s g b).planSeq = s.planSeq := rfl
@[simp] theorem setPoison_jobs (g : Nat) (b : Bool) : (setPoison s g b).jobs = s.jobs := rfl
@[simp] theorem setPoison_notices (g : Nat) (b : Bool) : (setPoison s g b).notices = s.notices := rfl
@[simp] theorem setPoison_xfers (g : Nat) (b : Bool) : (setPoison s g b).xfers = s.xfers := rfl
@[simp] theorem setPoison_retrains (g : Nat) (b : Bool) : (setPoison s g b).retrains = s.retrains := rfl
@[simp] theorem setPoison_retrainDue (g : Nat) (b : Bool) : (setPoison s g b).retrainDue = s.retrainDue := rfl
@[simp] theorem setPoison_progs (g : Nat) (b : Bool) : (setPoison s g b).progs = s.progs := rfl
@[simp] theorem setPoison_progSeq (g : Nat) (b : Bool) : (setPoison s g b).progSeq = s.progSeq := rfl
@[simp] theorem setPoison_tiles (g : Nat) (b : Bool) : (setPoison s g b).tiles = s.tiles := rfl
@[simp] theorem setPoison_dma (g : Nat) (b : Bool) : (setPoison s g b).dma = s.dma := rfl
@[simp] theorem setPoison_cvu (g : Nat) (b : Bool) : (setPoison s g b).cvu = s.cvu := rfl
@[simp] theorem setPoison_cvuIn (g : Nat) (b : Bool) : (setPoison s g b).cvuIn = s.cvuIn := rfl
@[simp] theorem setPoison_clusters (g : Nat) (b : Bool) : (setPoison s g b).clusters = s.clusters := rfl
@[simp] theorem setPoison_tileHw (g : Nat) (b : Bool) : (setPoison s g b).tileHw = s.tileHw := rfl
@[simp] theorem setPoison_raises (g : Nat) (b : Bool) : (setPoison s g b).raises = s.raises := rfl
@[simp] theorem setPoison_rails (g : Nat) (b : Bool) : (setPoison s g b).rails = s.rails := rfl
@[simp] theorem setPoison_quads (g : Nat) (b : Bool) : (setPoison s g b).quads = s.quads := rfl
@[simp] theorem setPoison_biOut (g : Nat) (b : Bool) : (setPoison s g b).biOut = s.biOut := rfl
@[simp] theorem setPoison_waits (g : Nat) (b : Bool) : (setPoison s g b).waits = s.waits := rfl
@[simp] theorem setPoison_fox (g : Nat) (b : Bool) : (setPoison s g b).fox = s.fox := rfl
@[simp] theorem setPoison_fw (g : Nat) (b : Bool) : (setPoison s g b).fw = s.fw := rfl
@[simp] theorem setPoison_pageBuf (g : Nat) (b : Bool) : (setPoison s g b).pageBuf = s.pageBuf := rfl
@[simp] theorem setPoison_sf (g : Nat) (b : Bool) : (setPoison s g b).sf = s.sf := rfl
@[simp] theorem setPoison_linkHeld (g : Nat) (b : Bool) : (setPoison s g b).linkHeld = s.linkHeld := rfl
@[simp] theorem setPoison_rxGroups (g : Nat) (b : Bool) : (setPoison s g b).rxGroups = s.rxGroups := rfl
@[simp] theorem setPoison_rxPrbs (g : Nat) (b : Bool) : (setPoison s g b).rxPrbs = s.rxPrbs := rfl
@[simp] theorem setPoison_laneHw (g : Nat) (b : Bool) : (setPoison s g b).laneHw = s.laneHw := rfl
@[simp] theorem setPoison_txGroups (g : Nat) (b : Bool) : (setPoison s g b).txGroups = s.txGroups := rfl
@[simp] theorem setPoison_sentGroups (g : Nat) (b : Bool) : (setPoison s g b).sentGroups = s.sentGroups := rfl
@[simp] theorem setPoison_captures (g : Nat) (b : Bool) : (setPoison s g b).captures = s.captures := rfl
@[simp] theorem setPoison_tddLive (g : Nat) (b : Bool) : (setPoison s g b).tddLive = s.tddLive := rfl
@[simp] theorem setPoison_tddPrev (g : Nat) (b : Bool) : (setPoison s g b).tddPrev = s.tddPrev := rfl
@[simp] theorem setPoison_tddAt (g : Nat) (b : Bool) : (setPoison s g b).tddAt = s.tddAt := rfl
@[simp] theorem setPoison_tddPins (g : Nat) (b : Bool) : (setPoison s g b).tddPins = s.tddPins := rfl
@[simp] theorem setPoison_pfeFrom (g : Nat) (b : Bool) : (setPoison s g b).pfeFrom = s.pfeFrom := rfl
@[simp] theorem setPoison_spareTrig (g : Nat) (b : Bool) : (setPoison s g b).spareTrig = s.spareTrig := rfl
@[simp] theorem setPoison_hdm (g : Nat) (b : Bool) : (setPoison s g b).hdm = s.hdm := rfl
@[simp] theorem setPoison_comp (g : Nat) (b : Bool) : (setPoison s g b).comp = s.comp := rfl
@[simp] theorem setPoison_recs (g : Nat) (b : Bool) : (setPoison s g b).recs = s.recs := rfl
@[simp] theorem setPoison_tddDue (g : Nat) (b : Bool) : (setPoison s g b).tddDue = s.tddDue := rfl
@[simp] theorem setPoison_portGrp (g : Nat) (b : Bool) : (setPoison s g b).portGrp = s.portGrp := rfl
@[simp] theorem setPoison_delayLog (g : Nat) (b : Bool) : (setPoison s g b).delayLog = s.delayLog := rfl
@[simp] theorem setPoison_rampSent (g : Nat) (b : Bool) : (setPoison s g b).rampSent = s.rampSent := rfl
@[simp] theorem setPoison_phx (g : Nat) (b : Bool) : (setPoison s g b).phx = s.phx := rfl
@[simp] theorem setPoison_frames (g : Nat) (b : Bool) : (setPoison s g b).frames = s.frames := rfl
@[simp] theorem setPoison_care (g : Nat) (b : Bool) : (setPoison s g b).care = s.care := rfl
@[simp] theorem setPoison_bram (g : Nat) (b : Bool) : (setPoison s g b).bram = s.bram := rfl
@[simp] theorem setPoison_scr (g : Nat) (b : Bool) : (setPoison s g b).scr = s.scr := rfl
@[simp] theorem setPoison_pfeCheck (g : Nat) (b : Bool) : (setPoison s g b).pfeCheck = s.pfeCheck := rfl
@[simp] theorem setPoison_hotSince (g : Nat) (b : Bool) : (setPoison s g b).hotSince = s.hotSince := rfl
@[simp] theorem setPoison_upCycles (g : Nat) (b : Bool) : (setPoison s g b).upCycles = s.upCycles := rfl
@[simp] theorem setPoison_boot (g : Nat) (b : Bool) : (setPoison s g b).boot = s.boot := rfl
@[simp] theorem setPoison_perst (g : Nat) (b : Bool) : (setPoison s g b).perst = s.perst := rfl
@[simp] theorem setPoison_lockAt (g : Nat) (b : Bool) : (setPoison s g b).lockAt = s.lockAt := rfl
@[simp] theorem setPoison_hubFlits (g : Nat) (b : Bool) : (setPoison s g b).hubFlits = s.hubFlits := rfl
@[simp] theorem setPoison_rma (g : Nat) (b : Bool) : (setPoison s g b).rma = s.rma := rfl
@[simp] theorem setPoison_jtag (g : Nat) (b : Bool) : (setPoison s g b).jtag = s.jtag := rfl
@[simp] theorem setPoison_rowCopies (g : Nat) (b : Bool) : (setPoison s g b).rowCopies = s.rowCopies := rfl
@[simp] theorem setPoison_spareRows (g : Nat) (b : Bool) : (setPoison s g b).spareRows = s.spareRows := rfl
@[simp] theorem setPoison_spared (g : Nat) (b : Bool) : (setPoison s g b).spared = s.spared := rfl
@[simp] theorem setPoison_corrSeen (g : Nat) (b : Bool) : (setPoison s g b).corrSeen = s.corrSeen := rfl
@[simp] theorem setPoison_frPend (g : Nat) (b : Bool) : (setPoison s g b).frPend = s.frPend := rfl
@[simp] theorem setPoison_frSecond (g : Nat) (b : Bool) : (setPoison s g b).frSecond = s.frSecond := rfl
@[simp] theorem setPoison_frCount (g : Nat) (b : Bool) : (setPoison s g b).frCount = s.frCount := rfl
@[simp] theorem setPoison_freeCtr (g : Nat) (b : Bool) : (setPoison s g b).freeCtr = s.freeCtr := rfl
@[simp] theorem setPoison_out (g : Nat) (b : Bool) : (setPoison s g b).out = s.out := rfl

/-! ## putErr -/

@[simp] theorem putErr_pending (g e : Nat) : (putErr s g e).pending = s.pending := rfl
@[simp] theorem putErr_ct (g e : Nat) : (putErr s g e).ct = s.ct := rfl
@[simp] theorem putErr_subPs (g e : Nat) : (putErr s g e).subPs = s.subPs := rfl
@[simp] theorem putErr_lks (g e : Nat) : (putErr s g e).lks = s.lks := rfl
@[simp] theorem putErr_regs (g e : Nat) : (putErr s g e).regs = s.regs := rfl
@[simp] theorem putErr_locked (g e : Nat) : (putErr s g e).locked = s.locked := rfl
@[simp] theorem putErr_heldLow (g e : Nat) : (putErr s g e).heldLow = s.heldLow := rfl
@[simp] theorem putErr_latchedHigh (g e : Nat) : (putErr s g e).latchedHigh = s.latchedHigh := rfl
@[simp] theorem putErr_mem (g e : Nat) : (putErr s g e).mem = s.mem := rfl
@[simp] theorem putErr_poison (g e : Nat) : (putErr s g e).poison = s.poison := rfl
@[simp] theorem putErr_pins (g e : Nat) : (putErr s g e).pins = s.pins := rfl
@[simp] theorem putErr_evtFifo (g e : Nat) : (putErr s g e).evtFifo = s.evtFifo := rfl
@[simp] theorem putErr_ints (g e : Nat) : (putErr s g e).ints = s.ints := rfl
@[simp] theorem putErr_cfg (g e : Nat) : (putErr s g e).cfg = s.cfg := rfl
@[simp] theorem putErr_doe (g e : Nat) : (putErr s g e).doe = s.doe := rfl
@[simp] theorem putErr_rings (g e : Nat) : (putErr s g e).rings = s.rings := rfl
@[simp] theorem putErr_ucmds (g e : Nat) : (putErr s g e).ucmds = s.ucmds := rfl
@[simp] theorem putErr_plans (g e : Nat) : (putErr s g e).plans = s.plans := rfl
@[simp] theorem putErr_planSeq (g e : Nat) : (putErr s g e).planSeq = s.planSeq := rfl
@[simp] theorem putErr_jobs (g e : Nat) : (putErr s g e).jobs = s.jobs := rfl
@[simp] theorem putErr_notices (g e : Nat) : (putErr s g e).notices = s.notices := rfl
@[simp] theorem putErr_xfers (g e : Nat) : (putErr s g e).xfers = s.xfers := rfl
@[simp] theorem putErr_retrains (g e : Nat) : (putErr s g e).retrains = s.retrains := rfl
@[simp] theorem putErr_retrainDue (g e : Nat) : (putErr s g e).retrainDue = s.retrainDue := rfl
@[simp] theorem putErr_progs (g e : Nat) : (putErr s g e).progs = s.progs := rfl
@[simp] theorem putErr_progSeq (g e : Nat) : (putErr s g e).progSeq = s.progSeq := rfl
@[simp] theorem putErr_tiles (g e : Nat) : (putErr s g e).tiles = s.tiles := rfl
@[simp] theorem putErr_dma (g e : Nat) : (putErr s g e).dma = s.dma := rfl
@[simp] theorem putErr_cvu (g e : Nat) : (putErr s g e).cvu = s.cvu := rfl
@[simp] theorem putErr_cvuIn (g e : Nat) : (putErr s g e).cvuIn = s.cvuIn := rfl
@[simp] theorem putErr_clusters (g e : Nat) : (putErr s g e).clusters = s.clusters := rfl
@[simp] theorem putErr_tileHw (g e : Nat) : (putErr s g e).tileHw = s.tileHw := rfl
@[simp] theorem putErr_raises (g e : Nat) : (putErr s g e).raises = s.raises := rfl
@[simp] theorem putErr_rails (g e : Nat) : (putErr s g e).rails = s.rails := rfl
@[simp] theorem putErr_quads (g e : Nat) : (putErr s g e).quads = s.quads := rfl
@[simp] theorem putErr_biOut (g e : Nat) : (putErr s g e).biOut = s.biOut := rfl
@[simp] theorem putErr_waits (g e : Nat) : (putErr s g e).waits = s.waits := rfl
@[simp] theorem putErr_fox (g e : Nat) : (putErr s g e).fox = s.fox := rfl
@[simp] theorem putErr_fw (g e : Nat) : (putErr s g e).fw = s.fw := rfl
@[simp] theorem putErr_pageBuf (g e : Nat) : (putErr s g e).pageBuf = s.pageBuf := rfl
@[simp] theorem putErr_sf (g e : Nat) : (putErr s g e).sf = s.sf := rfl
@[simp] theorem putErr_linkHeld (g e : Nat) : (putErr s g e).linkHeld = s.linkHeld := rfl
@[simp] theorem putErr_rxGroups (g e : Nat) : (putErr s g e).rxGroups = s.rxGroups := rfl
@[simp] theorem putErr_rxPrbs (g e : Nat) : (putErr s g e).rxPrbs = s.rxPrbs := rfl
@[simp] theorem putErr_laneHw (g e : Nat) : (putErr s g e).laneHw = s.laneHw := rfl
@[simp] theorem putErr_txGroups (g e : Nat) : (putErr s g e).txGroups = s.txGroups := rfl
@[simp] theorem putErr_sentGroups (g e : Nat) : (putErr s g e).sentGroups = s.sentGroups := rfl
@[simp] theorem putErr_captures (g e : Nat) : (putErr s g e).captures = s.captures := rfl
@[simp] theorem putErr_tddLive (g e : Nat) : (putErr s g e).tddLive = s.tddLive := rfl
@[simp] theorem putErr_tddPrev (g e : Nat) : (putErr s g e).tddPrev = s.tddPrev := rfl
@[simp] theorem putErr_tddAt (g e : Nat) : (putErr s g e).tddAt = s.tddAt := rfl
@[simp] theorem putErr_tddPins (g e : Nat) : (putErr s g e).tddPins = s.tddPins := rfl
@[simp] theorem putErr_pfeFrom (g e : Nat) : (putErr s g e).pfeFrom = s.pfeFrom := rfl
@[simp] theorem putErr_spareTrig (g e : Nat) : (putErr s g e).spareTrig = s.spareTrig := rfl
@[simp] theorem putErr_hdm (g e : Nat) : (putErr s g e).hdm = s.hdm := rfl
@[simp] theorem putErr_comp (g e : Nat) : (putErr s g e).comp = s.comp := rfl
@[simp] theorem putErr_recs (g e : Nat) : (putErr s g e).recs = s.recs := rfl
@[simp] theorem putErr_tddDue (g e : Nat) : (putErr s g e).tddDue = s.tddDue := rfl
@[simp] theorem putErr_portGrp (g e : Nat) : (putErr s g e).portGrp = s.portGrp := rfl
@[simp] theorem putErr_delayLog (g e : Nat) : (putErr s g e).delayLog = s.delayLog := rfl
@[simp] theorem putErr_rampSent (g e : Nat) : (putErr s g e).rampSent = s.rampSent := rfl
@[simp] theorem putErr_phx (g e : Nat) : (putErr s g e).phx = s.phx := rfl
@[simp] theorem putErr_frames (g e : Nat) : (putErr s g e).frames = s.frames := rfl
@[simp] theorem putErr_care (g e : Nat) : (putErr s g e).care = s.care := rfl
@[simp] theorem putErr_bram (g e : Nat) : (putErr s g e).bram = s.bram := rfl
@[simp] theorem putErr_scr (g e : Nat) : (putErr s g e).scr = s.scr := rfl
@[simp] theorem putErr_pfeCheck (g e : Nat) : (putErr s g e).pfeCheck = s.pfeCheck := rfl
@[simp] theorem putErr_hotSince (g e : Nat) : (putErr s g e).hotSince = s.hotSince := rfl
@[simp] theorem putErr_upCycles (g e : Nat) : (putErr s g e).upCycles = s.upCycles := rfl
@[simp] theorem putErr_boot (g e : Nat) : (putErr s g e).boot = s.boot := rfl
@[simp] theorem putErr_perst (g e : Nat) : (putErr s g e).perst = s.perst := rfl
@[simp] theorem putErr_lockAt (g e : Nat) : (putErr s g e).lockAt = s.lockAt := rfl
@[simp] theorem putErr_hubFlits (g e : Nat) : (putErr s g e).hubFlits = s.hubFlits := rfl
@[simp] theorem putErr_rma (g e : Nat) : (putErr s g e).rma = s.rma := rfl
@[simp] theorem putErr_jtag (g e : Nat) : (putErr s g e).jtag = s.jtag := rfl
@[simp] theorem putErr_rowCopies (g e : Nat) : (putErr s g e).rowCopies = s.rowCopies := rfl
@[simp] theorem putErr_spareRows (g e : Nat) : (putErr s g e).spareRows = s.spareRows := rfl
@[simp] theorem putErr_spared (g e : Nat) : (putErr s g e).spared = s.spared := rfl
@[simp] theorem putErr_corrSeen (g e : Nat) : (putErr s g e).corrSeen = s.corrSeen := rfl
@[simp] theorem putErr_frPend (g e : Nat) : (putErr s g e).frPend = s.frPend := rfl
@[simp] theorem putErr_frSecond (g e : Nat) : (putErr s g e).frSecond = s.frSecond := rfl
@[simp] theorem putErr_frCount (g e : Nat) : (putErr s g e).frCount = s.frCount := rfl
@[simp] theorem putErr_freeCtr (g e : Nat) : (putErr s g e).freeCtr = s.freeCtr := rfl
@[simp] theorem putErr_out (g e : Nat) : (putErr s g e).out = s.out := rfl

/-! ## setInt -/

@[simp] theorem setInt_pending (n : Nat) (i : IntSrc) : (setInt s n i).pending = s.pending := rfl
@[simp] theorem setInt_ct (n : Nat) (i : IntSrc) : (setInt s n i).ct = s.ct := rfl
@[simp] theorem setInt_subPs (n : Nat) (i : IntSrc) : (setInt s n i).subPs = s.subPs := rfl
@[simp] theorem setInt_lks (n : Nat) (i : IntSrc) : (setInt s n i).lks = s.lks := rfl
@[simp] theorem setInt_regs (n : Nat) (i : IntSrc) : (setInt s n i).regs = s.regs := rfl
@[simp] theorem setInt_locked (n : Nat) (i : IntSrc) : (setInt s n i).locked = s.locked := rfl
@[simp] theorem setInt_heldLow (n : Nat) (i : IntSrc) : (setInt s n i).heldLow = s.heldLow := rfl
@[simp] theorem setInt_latchedHigh (n : Nat) (i : IntSrc) : (setInt s n i).latchedHigh = s.latchedHigh := rfl
@[simp] theorem setInt_mem (n : Nat) (i : IntSrc) : (setInt s n i).mem = s.mem := rfl
@[simp] theorem setInt_poison (n : Nat) (i : IntSrc) : (setInt s n i).poison = s.poison := rfl
@[simp] theorem setInt_errs (n : Nat) (i : IntSrc) : (setInt s n i).errs = s.errs := rfl
@[simp] theorem setInt_pins (n : Nat) (i : IntSrc) : (setInt s n i).pins = s.pins := rfl
@[simp] theorem setInt_evtFifo (n : Nat) (i : IntSrc) : (setInt s n i).evtFifo = s.evtFifo := rfl
@[simp] theorem setInt_cfg (n : Nat) (i : IntSrc) : (setInt s n i).cfg = s.cfg := rfl
@[simp] theorem setInt_doe (n : Nat) (i : IntSrc) : (setInt s n i).doe = s.doe := rfl
@[simp] theorem setInt_rings (n : Nat) (i : IntSrc) : (setInt s n i).rings = s.rings := rfl
@[simp] theorem setInt_ucmds (n : Nat) (i : IntSrc) : (setInt s n i).ucmds = s.ucmds := rfl
@[simp] theorem setInt_plans (n : Nat) (i : IntSrc) : (setInt s n i).plans = s.plans := rfl
@[simp] theorem setInt_planSeq (n : Nat) (i : IntSrc) : (setInt s n i).planSeq = s.planSeq := rfl
@[simp] theorem setInt_jobs (n : Nat) (i : IntSrc) : (setInt s n i).jobs = s.jobs := rfl
@[simp] theorem setInt_notices (n : Nat) (i : IntSrc) : (setInt s n i).notices = s.notices := rfl
@[simp] theorem setInt_xfers (n : Nat) (i : IntSrc) : (setInt s n i).xfers = s.xfers := rfl
@[simp] theorem setInt_retrains (n : Nat) (i : IntSrc) : (setInt s n i).retrains = s.retrains := rfl
@[simp] theorem setInt_retrainDue (n : Nat) (i : IntSrc) : (setInt s n i).retrainDue = s.retrainDue := rfl
@[simp] theorem setInt_progs (n : Nat) (i : IntSrc) : (setInt s n i).progs = s.progs := rfl
@[simp] theorem setInt_progSeq (n : Nat) (i : IntSrc) : (setInt s n i).progSeq = s.progSeq := rfl
@[simp] theorem setInt_tiles (n : Nat) (i : IntSrc) : (setInt s n i).tiles = s.tiles := rfl
@[simp] theorem setInt_dma (n : Nat) (i : IntSrc) : (setInt s n i).dma = s.dma := rfl
@[simp] theorem setInt_cvu (n : Nat) (i : IntSrc) : (setInt s n i).cvu = s.cvu := rfl
@[simp] theorem setInt_cvuIn (n : Nat) (i : IntSrc) : (setInt s n i).cvuIn = s.cvuIn := rfl
@[simp] theorem setInt_clusters (n : Nat) (i : IntSrc) : (setInt s n i).clusters = s.clusters := rfl
@[simp] theorem setInt_tileHw (n : Nat) (i : IntSrc) : (setInt s n i).tileHw = s.tileHw := rfl
@[simp] theorem setInt_raises (n : Nat) (i : IntSrc) : (setInt s n i).raises = s.raises := rfl
@[simp] theorem setInt_rails (n : Nat) (i : IntSrc) : (setInt s n i).rails = s.rails := rfl
@[simp] theorem setInt_quads (n : Nat) (i : IntSrc) : (setInt s n i).quads = s.quads := rfl
@[simp] theorem setInt_biOut (n : Nat) (i : IntSrc) : (setInt s n i).biOut = s.biOut := rfl
@[simp] theorem setInt_waits (n : Nat) (i : IntSrc) : (setInt s n i).waits = s.waits := rfl
@[simp] theorem setInt_fox (n : Nat) (i : IntSrc) : (setInt s n i).fox = s.fox := rfl
@[simp] theorem setInt_fw (n : Nat) (i : IntSrc) : (setInt s n i).fw = s.fw := rfl
@[simp] theorem setInt_pageBuf (n : Nat) (i : IntSrc) : (setInt s n i).pageBuf = s.pageBuf := rfl
@[simp] theorem setInt_sf (n : Nat) (i : IntSrc) : (setInt s n i).sf = s.sf := rfl
@[simp] theorem setInt_linkHeld (n : Nat) (i : IntSrc) : (setInt s n i).linkHeld = s.linkHeld := rfl
@[simp] theorem setInt_rxGroups (n : Nat) (i : IntSrc) : (setInt s n i).rxGroups = s.rxGroups := rfl
@[simp] theorem setInt_rxPrbs (n : Nat) (i : IntSrc) : (setInt s n i).rxPrbs = s.rxPrbs := rfl
@[simp] theorem setInt_laneHw (n : Nat) (i : IntSrc) : (setInt s n i).laneHw = s.laneHw := rfl
@[simp] theorem setInt_txGroups (n : Nat) (i : IntSrc) : (setInt s n i).txGroups = s.txGroups := rfl
@[simp] theorem setInt_sentGroups (n : Nat) (i : IntSrc) : (setInt s n i).sentGroups = s.sentGroups := rfl
@[simp] theorem setInt_captures (n : Nat) (i : IntSrc) : (setInt s n i).captures = s.captures := rfl
@[simp] theorem setInt_tddLive (n : Nat) (i : IntSrc) : (setInt s n i).tddLive = s.tddLive := rfl
@[simp] theorem setInt_tddPrev (n : Nat) (i : IntSrc) : (setInt s n i).tddPrev = s.tddPrev := rfl
@[simp] theorem setInt_tddAt (n : Nat) (i : IntSrc) : (setInt s n i).tddAt = s.tddAt := rfl
@[simp] theorem setInt_tddPins (n : Nat) (i : IntSrc) : (setInt s n i).tddPins = s.tddPins := rfl
@[simp] theorem setInt_pfeFrom (n : Nat) (i : IntSrc) : (setInt s n i).pfeFrom = s.pfeFrom := rfl
@[simp] theorem setInt_spareTrig (n : Nat) (i : IntSrc) : (setInt s n i).spareTrig = s.spareTrig := rfl
@[simp] theorem setInt_hdm (n : Nat) (i : IntSrc) : (setInt s n i).hdm = s.hdm := rfl
@[simp] theorem setInt_comp (n : Nat) (i : IntSrc) : (setInt s n i).comp = s.comp := rfl
@[simp] theorem setInt_recs (n : Nat) (i : IntSrc) : (setInt s n i).recs = s.recs := rfl
@[simp] theorem setInt_tddDue (n : Nat) (i : IntSrc) : (setInt s n i).tddDue = s.tddDue := rfl
@[simp] theorem setInt_portGrp (n : Nat) (i : IntSrc) : (setInt s n i).portGrp = s.portGrp := rfl
@[simp] theorem setInt_delayLog (n : Nat) (i : IntSrc) : (setInt s n i).delayLog = s.delayLog := rfl
@[simp] theorem setInt_rampSent (n : Nat) (i : IntSrc) : (setInt s n i).rampSent = s.rampSent := rfl
@[simp] theorem setInt_phx (n : Nat) (i : IntSrc) : (setInt s n i).phx = s.phx := rfl
@[simp] theorem setInt_frames (n : Nat) (i : IntSrc) : (setInt s n i).frames = s.frames := rfl
@[simp] theorem setInt_care (n : Nat) (i : IntSrc) : (setInt s n i).care = s.care := rfl
@[simp] theorem setInt_bram (n : Nat) (i : IntSrc) : (setInt s n i).bram = s.bram := rfl
@[simp] theorem setInt_scr (n : Nat) (i : IntSrc) : (setInt s n i).scr = s.scr := rfl
@[simp] theorem setInt_pfeCheck (n : Nat) (i : IntSrc) : (setInt s n i).pfeCheck = s.pfeCheck := rfl
@[simp] theorem setInt_hotSince (n : Nat) (i : IntSrc) : (setInt s n i).hotSince = s.hotSince := rfl
@[simp] theorem setInt_upCycles (n : Nat) (i : IntSrc) : (setInt s n i).upCycles = s.upCycles := rfl
@[simp] theorem setInt_boot (n : Nat) (i : IntSrc) : (setInt s n i).boot = s.boot := rfl
@[simp] theorem setInt_perst (n : Nat) (i : IntSrc) : (setInt s n i).perst = s.perst := rfl
@[simp] theorem setInt_lockAt (n : Nat) (i : IntSrc) : (setInt s n i).lockAt = s.lockAt := rfl
@[simp] theorem setInt_hubFlits (n : Nat) (i : IntSrc) : (setInt s n i).hubFlits = s.hubFlits := rfl
@[simp] theorem setInt_rma (n : Nat) (i : IntSrc) : (setInt s n i).rma = s.rma := rfl
@[simp] theorem setInt_jtag (n : Nat) (i : IntSrc) : (setInt s n i).jtag = s.jtag := rfl
@[simp] theorem setInt_rowCopies (n : Nat) (i : IntSrc) : (setInt s n i).rowCopies = s.rowCopies := rfl
@[simp] theorem setInt_spareRows (n : Nat) (i : IntSrc) : (setInt s n i).spareRows = s.spareRows := rfl
@[simp] theorem setInt_spared (n : Nat) (i : IntSrc) : (setInt s n i).spared = s.spared := rfl
@[simp] theorem setInt_corrSeen (n : Nat) (i : IntSrc) : (setInt s n i).corrSeen = s.corrSeen := rfl
@[simp] theorem setInt_frPend (n : Nat) (i : IntSrc) : (setInt s n i).frPend = s.frPend := rfl
@[simp] theorem setInt_frSecond (n : Nat) (i : IntSrc) : (setInt s n i).frSecond = s.frSecond := rfl
@[simp] theorem setInt_frCount (n : Nat) (i : IntSrc) : (setInt s n i).frCount = s.frCount := rfl
@[simp] theorem setInt_freeCtr (n : Nat) (i : IntSrc) : (setInt s n i).freeCtr = s.freeCtr := rfl
@[simp] theorem setInt_out (n : Nat) (i : IntSrc) : (setInt s n i).out = s.out := rfl

/-! ## setRing -/

@[simp] theorem setRing_pending (r : Nat) (x : Ring) : (setRing s r x).pending = s.pending := rfl
@[simp] theorem setRing_ct (r : Nat) (x : Ring) : (setRing s r x).ct = s.ct := rfl
@[simp] theorem setRing_subPs (r : Nat) (x : Ring) : (setRing s r x).subPs = s.subPs := rfl
@[simp] theorem setRing_lks (r : Nat) (x : Ring) : (setRing s r x).lks = s.lks := rfl
@[simp] theorem setRing_regs (r : Nat) (x : Ring) : (setRing s r x).regs = s.regs := rfl
@[simp] theorem setRing_locked (r : Nat) (x : Ring) : (setRing s r x).locked = s.locked := rfl
@[simp] theorem setRing_heldLow (r : Nat) (x : Ring) : (setRing s r x).heldLow = s.heldLow := rfl
@[simp] theorem setRing_latchedHigh (r : Nat) (x : Ring) : (setRing s r x).latchedHigh = s.latchedHigh := rfl
@[simp] theorem setRing_mem (r : Nat) (x : Ring) : (setRing s r x).mem = s.mem := rfl
@[simp] theorem setRing_poison (r : Nat) (x : Ring) : (setRing s r x).poison = s.poison := rfl
@[simp] theorem setRing_errs (r : Nat) (x : Ring) : (setRing s r x).errs = s.errs := rfl
@[simp] theorem setRing_pins (r : Nat) (x : Ring) : (setRing s r x).pins = s.pins := rfl
@[simp] theorem setRing_evtFifo (r : Nat) (x : Ring) : (setRing s r x).evtFifo = s.evtFifo := rfl
@[simp] theorem setRing_ints (r : Nat) (x : Ring) : (setRing s r x).ints = s.ints := rfl
@[simp] theorem setRing_cfg (r : Nat) (x : Ring) : (setRing s r x).cfg = s.cfg := rfl
@[simp] theorem setRing_doe (r : Nat) (x : Ring) : (setRing s r x).doe = s.doe := rfl
@[simp] theorem setRing_ucmds (r : Nat) (x : Ring) : (setRing s r x).ucmds = s.ucmds := rfl
@[simp] theorem setRing_plans (r : Nat) (x : Ring) : (setRing s r x).plans = s.plans := rfl
@[simp] theorem setRing_planSeq (r : Nat) (x : Ring) : (setRing s r x).planSeq = s.planSeq := rfl
@[simp] theorem setRing_jobs (r : Nat) (x : Ring) : (setRing s r x).jobs = s.jobs := rfl
@[simp] theorem setRing_notices (r : Nat) (x : Ring) : (setRing s r x).notices = s.notices := rfl
@[simp] theorem setRing_xfers (r : Nat) (x : Ring) : (setRing s r x).xfers = s.xfers := rfl
@[simp] theorem setRing_retrains (r : Nat) (x : Ring) : (setRing s r x).retrains = s.retrains := rfl
@[simp] theorem setRing_retrainDue (r : Nat) (x : Ring) : (setRing s r x).retrainDue = s.retrainDue := rfl
@[simp] theorem setRing_progs (r : Nat) (x : Ring) : (setRing s r x).progs = s.progs := rfl
@[simp] theorem setRing_progSeq (r : Nat) (x : Ring) : (setRing s r x).progSeq = s.progSeq := rfl
@[simp] theorem setRing_tiles (r : Nat) (x : Ring) : (setRing s r x).tiles = s.tiles := rfl
@[simp] theorem setRing_dma (r : Nat) (x : Ring) : (setRing s r x).dma = s.dma := rfl
@[simp] theorem setRing_cvu (r : Nat) (x : Ring) : (setRing s r x).cvu = s.cvu := rfl
@[simp] theorem setRing_cvuIn (r : Nat) (x : Ring) : (setRing s r x).cvuIn = s.cvuIn := rfl
@[simp] theorem setRing_clusters (r : Nat) (x : Ring) : (setRing s r x).clusters = s.clusters := rfl
@[simp] theorem setRing_tileHw (r : Nat) (x : Ring) : (setRing s r x).tileHw = s.tileHw := rfl
@[simp] theorem setRing_raises (r : Nat) (x : Ring) : (setRing s r x).raises = s.raises := rfl
@[simp] theorem setRing_rails (r : Nat) (x : Ring) : (setRing s r x).rails = s.rails := rfl
@[simp] theorem setRing_quads (r : Nat) (x : Ring) : (setRing s r x).quads = s.quads := rfl
@[simp] theorem setRing_biOut (r : Nat) (x : Ring) : (setRing s r x).biOut = s.biOut := rfl
@[simp] theorem setRing_waits (r : Nat) (x : Ring) : (setRing s r x).waits = s.waits := rfl
@[simp] theorem setRing_fox (r : Nat) (x : Ring) : (setRing s r x).fox = s.fox := rfl
@[simp] theorem setRing_fw (r : Nat) (x : Ring) : (setRing s r x).fw = s.fw := rfl
@[simp] theorem setRing_pageBuf (r : Nat) (x : Ring) : (setRing s r x).pageBuf = s.pageBuf := rfl
@[simp] theorem setRing_sf (r : Nat) (x : Ring) : (setRing s r x).sf = s.sf := rfl
@[simp] theorem setRing_linkHeld (r : Nat) (x : Ring) : (setRing s r x).linkHeld = s.linkHeld := rfl
@[simp] theorem setRing_rxGroups (r : Nat) (x : Ring) : (setRing s r x).rxGroups = s.rxGroups := rfl
@[simp] theorem setRing_rxPrbs (r : Nat) (x : Ring) : (setRing s r x).rxPrbs = s.rxPrbs := rfl
@[simp] theorem setRing_laneHw (r : Nat) (x : Ring) : (setRing s r x).laneHw = s.laneHw := rfl
@[simp] theorem setRing_txGroups (r : Nat) (x : Ring) : (setRing s r x).txGroups = s.txGroups := rfl
@[simp] theorem setRing_sentGroups (r : Nat) (x : Ring) : (setRing s r x).sentGroups = s.sentGroups := rfl
@[simp] theorem setRing_captures (r : Nat) (x : Ring) : (setRing s r x).captures = s.captures := rfl
@[simp] theorem setRing_tddLive (r : Nat) (x : Ring) : (setRing s r x).tddLive = s.tddLive := rfl
@[simp] theorem setRing_tddPrev (r : Nat) (x : Ring) : (setRing s r x).tddPrev = s.tddPrev := rfl
@[simp] theorem setRing_tddAt (r : Nat) (x : Ring) : (setRing s r x).tddAt = s.tddAt := rfl
@[simp] theorem setRing_tddPins (r : Nat) (x : Ring) : (setRing s r x).tddPins = s.tddPins := rfl
@[simp] theorem setRing_pfeFrom (r : Nat) (x : Ring) : (setRing s r x).pfeFrom = s.pfeFrom := rfl
@[simp] theorem setRing_spareTrig (r : Nat) (x : Ring) : (setRing s r x).spareTrig = s.spareTrig := rfl
@[simp] theorem setRing_hdm (r : Nat) (x : Ring) : (setRing s r x).hdm = s.hdm := rfl
@[simp] theorem setRing_comp (r : Nat) (x : Ring) : (setRing s r x).comp = s.comp := rfl
@[simp] theorem setRing_recs (r : Nat) (x : Ring) : (setRing s r x).recs = s.recs := rfl
@[simp] theorem setRing_tddDue (r : Nat) (x : Ring) : (setRing s r x).tddDue = s.tddDue := rfl
@[simp] theorem setRing_portGrp (r : Nat) (x : Ring) : (setRing s r x).portGrp = s.portGrp := rfl
@[simp] theorem setRing_delayLog (r : Nat) (x : Ring) : (setRing s r x).delayLog = s.delayLog := rfl
@[simp] theorem setRing_rampSent (r : Nat) (x : Ring) : (setRing s r x).rampSent = s.rampSent := rfl
@[simp] theorem setRing_phx (r : Nat) (x : Ring) : (setRing s r x).phx = s.phx := rfl
@[simp] theorem setRing_frames (r : Nat) (x : Ring) : (setRing s r x).frames = s.frames := rfl
@[simp] theorem setRing_care (r : Nat) (x : Ring) : (setRing s r x).care = s.care := rfl
@[simp] theorem setRing_bram (r : Nat) (x : Ring) : (setRing s r x).bram = s.bram := rfl
@[simp] theorem setRing_scr (r : Nat) (x : Ring) : (setRing s r x).scr = s.scr := rfl
@[simp] theorem setRing_pfeCheck (r : Nat) (x : Ring) : (setRing s r x).pfeCheck = s.pfeCheck := rfl
@[simp] theorem setRing_hotSince (r : Nat) (x : Ring) : (setRing s r x).hotSince = s.hotSince := rfl
@[simp] theorem setRing_upCycles (r : Nat) (x : Ring) : (setRing s r x).upCycles = s.upCycles := rfl
@[simp] theorem setRing_boot (r : Nat) (x : Ring) : (setRing s r x).boot = s.boot := rfl
@[simp] theorem setRing_perst (r : Nat) (x : Ring) : (setRing s r x).perst = s.perst := rfl
@[simp] theorem setRing_lockAt (r : Nat) (x : Ring) : (setRing s r x).lockAt = s.lockAt := rfl
@[simp] theorem setRing_hubFlits (r : Nat) (x : Ring) : (setRing s r x).hubFlits = s.hubFlits := rfl
@[simp] theorem setRing_rma (r : Nat) (x : Ring) : (setRing s r x).rma = s.rma := rfl
@[simp] theorem setRing_jtag (r : Nat) (x : Ring) : (setRing s r x).jtag = s.jtag := rfl
@[simp] theorem setRing_rowCopies (r : Nat) (x : Ring) : (setRing s r x).rowCopies = s.rowCopies := rfl
@[simp] theorem setRing_spareRows (r : Nat) (x : Ring) : (setRing s r x).spareRows = s.spareRows := rfl
@[simp] theorem setRing_spared (r : Nat) (x : Ring) : (setRing s r x).spared = s.spared := rfl
@[simp] theorem setRing_corrSeen (r : Nat) (x : Ring) : (setRing s r x).corrSeen = s.corrSeen := rfl
@[simp] theorem setRing_frPend (r : Nat) (x : Ring) : (setRing s r x).frPend = s.frPend := rfl
@[simp] theorem setRing_frSecond (r : Nat) (x : Ring) : (setRing s r x).frSecond = s.frSecond := rfl
@[simp] theorem setRing_frCount (r : Nat) (x : Ring) : (setRing s r x).frCount = s.frCount := rfl
@[simp] theorem setRing_freeCtr (r : Nat) (x : Ring) : (setRing s r x).freeCtr = s.freeCtr := rfl
@[simp] theorem setRing_out (r : Nat) (x : Ring) : (setRing s r x).out = s.out := rfl

/-! ## setTile -/

@[simp] theorem setTile_pending (p : Nat) (x : Tile) : (setTile s p x).pending = s.pending := rfl
@[simp] theorem setTile_ct (p : Nat) (x : Tile) : (setTile s p x).ct = s.ct := rfl
@[simp] theorem setTile_subPs (p : Nat) (x : Tile) : (setTile s p x).subPs = s.subPs := rfl
@[simp] theorem setTile_lks (p : Nat) (x : Tile) : (setTile s p x).lks = s.lks := rfl
@[simp] theorem setTile_regs (p : Nat) (x : Tile) : (setTile s p x).regs = s.regs := rfl
@[simp] theorem setTile_locked (p : Nat) (x : Tile) : (setTile s p x).locked = s.locked := rfl
@[simp] theorem setTile_heldLow (p : Nat) (x : Tile) : (setTile s p x).heldLow = s.heldLow := rfl
@[simp] theorem setTile_latchedHigh (p : Nat) (x : Tile) : (setTile s p x).latchedHigh = s.latchedHigh := rfl
@[simp] theorem setTile_mem (p : Nat) (x : Tile) : (setTile s p x).mem = s.mem := rfl
@[simp] theorem setTile_poison (p : Nat) (x : Tile) : (setTile s p x).poison = s.poison := rfl
@[simp] theorem setTile_errs (p : Nat) (x : Tile) : (setTile s p x).errs = s.errs := rfl
@[simp] theorem setTile_pins (p : Nat) (x : Tile) : (setTile s p x).pins = s.pins := rfl
@[simp] theorem setTile_evtFifo (p : Nat) (x : Tile) : (setTile s p x).evtFifo = s.evtFifo := rfl
@[simp] theorem setTile_ints (p : Nat) (x : Tile) : (setTile s p x).ints = s.ints := rfl
@[simp] theorem setTile_cfg (p : Nat) (x : Tile) : (setTile s p x).cfg = s.cfg := rfl
@[simp] theorem setTile_doe (p : Nat) (x : Tile) : (setTile s p x).doe = s.doe := rfl
@[simp] theorem setTile_rings (p : Nat) (x : Tile) : (setTile s p x).rings = s.rings := rfl
@[simp] theorem setTile_ucmds (p : Nat) (x : Tile) : (setTile s p x).ucmds = s.ucmds := rfl
@[simp] theorem setTile_plans (p : Nat) (x : Tile) : (setTile s p x).plans = s.plans := rfl
@[simp] theorem setTile_planSeq (p : Nat) (x : Tile) : (setTile s p x).planSeq = s.planSeq := rfl
@[simp] theorem setTile_jobs (p : Nat) (x : Tile) : (setTile s p x).jobs = s.jobs := rfl
@[simp] theorem setTile_notices (p : Nat) (x : Tile) : (setTile s p x).notices = s.notices := rfl
@[simp] theorem setTile_xfers (p : Nat) (x : Tile) : (setTile s p x).xfers = s.xfers := rfl
@[simp] theorem setTile_retrains (p : Nat) (x : Tile) : (setTile s p x).retrains = s.retrains := rfl
@[simp] theorem setTile_retrainDue (p : Nat) (x : Tile) : (setTile s p x).retrainDue = s.retrainDue := rfl
@[simp] theorem setTile_progs (p : Nat) (x : Tile) : (setTile s p x).progs = s.progs := rfl
@[simp] theorem setTile_progSeq (p : Nat) (x : Tile) : (setTile s p x).progSeq = s.progSeq := rfl
@[simp] theorem setTile_dma (p : Nat) (x : Tile) : (setTile s p x).dma = s.dma := rfl
@[simp] theorem setTile_cvu (p : Nat) (x : Tile) : (setTile s p x).cvu = s.cvu := rfl
@[simp] theorem setTile_cvuIn (p : Nat) (x : Tile) : (setTile s p x).cvuIn = s.cvuIn := rfl
@[simp] theorem setTile_clusters (p : Nat) (x : Tile) : (setTile s p x).clusters = s.clusters := rfl
@[simp] theorem setTile_tileHw (p : Nat) (x : Tile) : (setTile s p x).tileHw = s.tileHw := rfl
@[simp] theorem setTile_raises (p : Nat) (x : Tile) : (setTile s p x).raises = s.raises := rfl
@[simp] theorem setTile_rails (p : Nat) (x : Tile) : (setTile s p x).rails = s.rails := rfl
@[simp] theorem setTile_quads (p : Nat) (x : Tile) : (setTile s p x).quads = s.quads := rfl
@[simp] theorem setTile_biOut (p : Nat) (x : Tile) : (setTile s p x).biOut = s.biOut := rfl
@[simp] theorem setTile_waits (p : Nat) (x : Tile) : (setTile s p x).waits = s.waits := rfl
@[simp] theorem setTile_fox (p : Nat) (x : Tile) : (setTile s p x).fox = s.fox := rfl
@[simp] theorem setTile_fw (p : Nat) (x : Tile) : (setTile s p x).fw = s.fw := rfl
@[simp] theorem setTile_pageBuf (p : Nat) (x : Tile) : (setTile s p x).pageBuf = s.pageBuf := rfl
@[simp] theorem setTile_sf (p : Nat) (x : Tile) : (setTile s p x).sf = s.sf := rfl
@[simp] theorem setTile_linkHeld (p : Nat) (x : Tile) : (setTile s p x).linkHeld = s.linkHeld := rfl
@[simp] theorem setTile_rxGroups (p : Nat) (x : Tile) : (setTile s p x).rxGroups = s.rxGroups := rfl
@[simp] theorem setTile_rxPrbs (p : Nat) (x : Tile) : (setTile s p x).rxPrbs = s.rxPrbs := rfl
@[simp] theorem setTile_laneHw (p : Nat) (x : Tile) : (setTile s p x).laneHw = s.laneHw := rfl
@[simp] theorem setTile_txGroups (p : Nat) (x : Tile) : (setTile s p x).txGroups = s.txGroups := rfl
@[simp] theorem setTile_sentGroups (p : Nat) (x : Tile) : (setTile s p x).sentGroups = s.sentGroups := rfl
@[simp] theorem setTile_captures (p : Nat) (x : Tile) : (setTile s p x).captures = s.captures := rfl
@[simp] theorem setTile_tddLive (p : Nat) (x : Tile) : (setTile s p x).tddLive = s.tddLive := rfl
@[simp] theorem setTile_tddPrev (p : Nat) (x : Tile) : (setTile s p x).tddPrev = s.tddPrev := rfl
@[simp] theorem setTile_tddAt (p : Nat) (x : Tile) : (setTile s p x).tddAt = s.tddAt := rfl
@[simp] theorem setTile_tddPins (p : Nat) (x : Tile) : (setTile s p x).tddPins = s.tddPins := rfl
@[simp] theorem setTile_pfeFrom (p : Nat) (x : Tile) : (setTile s p x).pfeFrom = s.pfeFrom := rfl
@[simp] theorem setTile_spareTrig (p : Nat) (x : Tile) : (setTile s p x).spareTrig = s.spareTrig := rfl
@[simp] theorem setTile_hdm (p : Nat) (x : Tile) : (setTile s p x).hdm = s.hdm := rfl
@[simp] theorem setTile_comp (p : Nat) (x : Tile) : (setTile s p x).comp = s.comp := rfl
@[simp] theorem setTile_recs (p : Nat) (x : Tile) : (setTile s p x).recs = s.recs := rfl
@[simp] theorem setTile_tddDue (p : Nat) (x : Tile) : (setTile s p x).tddDue = s.tddDue := rfl
@[simp] theorem setTile_portGrp (p : Nat) (x : Tile) : (setTile s p x).portGrp = s.portGrp := rfl
@[simp] theorem setTile_delayLog (p : Nat) (x : Tile) : (setTile s p x).delayLog = s.delayLog := rfl
@[simp] theorem setTile_rampSent (p : Nat) (x : Tile) : (setTile s p x).rampSent = s.rampSent := rfl
@[simp] theorem setTile_phx (p : Nat) (x : Tile) : (setTile s p x).phx = s.phx := rfl
@[simp] theorem setTile_frames (p : Nat) (x : Tile) : (setTile s p x).frames = s.frames := rfl
@[simp] theorem setTile_care (p : Nat) (x : Tile) : (setTile s p x).care = s.care := rfl
@[simp] theorem setTile_bram (p : Nat) (x : Tile) : (setTile s p x).bram = s.bram := rfl
@[simp] theorem setTile_scr (p : Nat) (x : Tile) : (setTile s p x).scr = s.scr := rfl
@[simp] theorem setTile_pfeCheck (p : Nat) (x : Tile) : (setTile s p x).pfeCheck = s.pfeCheck := rfl
@[simp] theorem setTile_hotSince (p : Nat) (x : Tile) : (setTile s p x).hotSince = s.hotSince := rfl
@[simp] theorem setTile_upCycles (p : Nat) (x : Tile) : (setTile s p x).upCycles = s.upCycles := rfl
@[simp] theorem setTile_boot (p : Nat) (x : Tile) : (setTile s p x).boot = s.boot := rfl
@[simp] theorem setTile_perst (p : Nat) (x : Tile) : (setTile s p x).perst = s.perst := rfl
@[simp] theorem setTile_lockAt (p : Nat) (x : Tile) : (setTile s p x).lockAt = s.lockAt := rfl
@[simp] theorem setTile_hubFlits (p : Nat) (x : Tile) : (setTile s p x).hubFlits = s.hubFlits := rfl
@[simp] theorem setTile_rma (p : Nat) (x : Tile) : (setTile s p x).rma = s.rma := rfl
@[simp] theorem setTile_jtag (p : Nat) (x : Tile) : (setTile s p x).jtag = s.jtag := rfl
@[simp] theorem setTile_rowCopies (p : Nat) (x : Tile) : (setTile s p x).rowCopies = s.rowCopies := rfl
@[simp] theorem setTile_spareRows (p : Nat) (x : Tile) : (setTile s p x).spareRows = s.spareRows := rfl
@[simp] theorem setTile_spared (p : Nat) (x : Tile) : (setTile s p x).spared = s.spared := rfl
@[simp] theorem setTile_corrSeen (p : Nat) (x : Tile) : (setTile s p x).corrSeen = s.corrSeen := rfl
@[simp] theorem setTile_frPend (p : Nat) (x : Tile) : (setTile s p x).frPend = s.frPend := rfl
@[simp] theorem setTile_frSecond (p : Nat) (x : Tile) : (setTile s p x).frSecond = s.frSecond := rfl
@[simp] theorem setTile_frCount (p : Nat) (x : Tile) : (setTile s p x).frCount = s.frCount := rfl
@[simp] theorem setTile_freeCtr (p : Nat) (x : Tile) : (setTile s p x).freeCtr = s.freeCtr := rfl
@[simp] theorem setTile_out (p : Nat) (x : Tile) : (setTile s p x).out = s.out := rfl

/-! ## setPin -/

@[simp] theorem setPin_pending (n : Nat) (x : Pin) : (setPin s n x).pending = s.pending := rfl
@[simp] theorem setPin_ct (n : Nat) (x : Pin) : (setPin s n x).ct = s.ct := rfl
@[simp] theorem setPin_subPs (n : Nat) (x : Pin) : (setPin s n x).subPs = s.subPs := rfl
@[simp] theorem setPin_lks (n : Nat) (x : Pin) : (setPin s n x).lks = s.lks := rfl
@[simp] theorem setPin_regs (n : Nat) (x : Pin) : (setPin s n x).regs = s.regs := rfl
@[simp] theorem setPin_locked (n : Nat) (x : Pin) : (setPin s n x).locked = s.locked := rfl
@[simp] theorem setPin_heldLow (n : Nat) (x : Pin) : (setPin s n x).heldLow = s.heldLow := rfl
@[simp] theorem setPin_latchedHigh (n : Nat) (x : Pin) : (setPin s n x).latchedHigh = s.latchedHigh := rfl
@[simp] theorem setPin_mem (n : Nat) (x : Pin) : (setPin s n x).mem = s.mem := rfl
@[simp] theorem setPin_poison (n : Nat) (x : Pin) : (setPin s n x).poison = s.poison := rfl
@[simp] theorem setPin_errs (n : Nat) (x : Pin) : (setPin s n x).errs = s.errs := rfl
@[simp] theorem setPin_evtFifo (n : Nat) (x : Pin) : (setPin s n x).evtFifo = s.evtFifo := rfl
@[simp] theorem setPin_ints (n : Nat) (x : Pin) : (setPin s n x).ints = s.ints := rfl
@[simp] theorem setPin_cfg (n : Nat) (x : Pin) : (setPin s n x).cfg = s.cfg := rfl
@[simp] theorem setPin_doe (n : Nat) (x : Pin) : (setPin s n x).doe = s.doe := rfl
@[simp] theorem setPin_rings (n : Nat) (x : Pin) : (setPin s n x).rings = s.rings := rfl
@[simp] theorem setPin_ucmds (n : Nat) (x : Pin) : (setPin s n x).ucmds = s.ucmds := rfl
@[simp] theorem setPin_plans (n : Nat) (x : Pin) : (setPin s n x).plans = s.plans := rfl
@[simp] theorem setPin_planSeq (n : Nat) (x : Pin) : (setPin s n x).planSeq = s.planSeq := rfl
@[simp] theorem setPin_jobs (n : Nat) (x : Pin) : (setPin s n x).jobs = s.jobs := rfl
@[simp] theorem setPin_notices (n : Nat) (x : Pin) : (setPin s n x).notices = s.notices := rfl
@[simp] theorem setPin_xfers (n : Nat) (x : Pin) : (setPin s n x).xfers = s.xfers := rfl
@[simp] theorem setPin_retrains (n : Nat) (x : Pin) : (setPin s n x).retrains = s.retrains := rfl
@[simp] theorem setPin_retrainDue (n : Nat) (x : Pin) : (setPin s n x).retrainDue = s.retrainDue := rfl
@[simp] theorem setPin_progs (n : Nat) (x : Pin) : (setPin s n x).progs = s.progs := rfl
@[simp] theorem setPin_progSeq (n : Nat) (x : Pin) : (setPin s n x).progSeq = s.progSeq := rfl
@[simp] theorem setPin_tiles (n : Nat) (x : Pin) : (setPin s n x).tiles = s.tiles := rfl
@[simp] theorem setPin_dma (n : Nat) (x : Pin) : (setPin s n x).dma = s.dma := rfl
@[simp] theorem setPin_cvu (n : Nat) (x : Pin) : (setPin s n x).cvu = s.cvu := rfl
@[simp] theorem setPin_cvuIn (n : Nat) (x : Pin) : (setPin s n x).cvuIn = s.cvuIn := rfl
@[simp] theorem setPin_clusters (n : Nat) (x : Pin) : (setPin s n x).clusters = s.clusters := rfl
@[simp] theorem setPin_tileHw (n : Nat) (x : Pin) : (setPin s n x).tileHw = s.tileHw := rfl
@[simp] theorem setPin_raises (n : Nat) (x : Pin) : (setPin s n x).raises = s.raises := rfl
@[simp] theorem setPin_rails (n : Nat) (x : Pin) : (setPin s n x).rails = s.rails := rfl
@[simp] theorem setPin_quads (n : Nat) (x : Pin) : (setPin s n x).quads = s.quads := rfl
@[simp] theorem setPin_biOut (n : Nat) (x : Pin) : (setPin s n x).biOut = s.biOut := rfl
@[simp] theorem setPin_waits (n : Nat) (x : Pin) : (setPin s n x).waits = s.waits := rfl
@[simp] theorem setPin_fox (n : Nat) (x : Pin) : (setPin s n x).fox = s.fox := rfl
@[simp] theorem setPin_fw (n : Nat) (x : Pin) : (setPin s n x).fw = s.fw := rfl
@[simp] theorem setPin_pageBuf (n : Nat) (x : Pin) : (setPin s n x).pageBuf = s.pageBuf := rfl
@[simp] theorem setPin_sf (n : Nat) (x : Pin) : (setPin s n x).sf = s.sf := rfl
@[simp] theorem setPin_linkHeld (n : Nat) (x : Pin) : (setPin s n x).linkHeld = s.linkHeld := rfl
@[simp] theorem setPin_rxGroups (n : Nat) (x : Pin) : (setPin s n x).rxGroups = s.rxGroups := rfl
@[simp] theorem setPin_rxPrbs (n : Nat) (x : Pin) : (setPin s n x).rxPrbs = s.rxPrbs := rfl
@[simp] theorem setPin_laneHw (n : Nat) (x : Pin) : (setPin s n x).laneHw = s.laneHw := rfl
@[simp] theorem setPin_txGroups (n : Nat) (x : Pin) : (setPin s n x).txGroups = s.txGroups := rfl
@[simp] theorem setPin_sentGroups (n : Nat) (x : Pin) : (setPin s n x).sentGroups = s.sentGroups := rfl
@[simp] theorem setPin_captures (n : Nat) (x : Pin) : (setPin s n x).captures = s.captures := rfl
@[simp] theorem setPin_tddLive (n : Nat) (x : Pin) : (setPin s n x).tddLive = s.tddLive := rfl
@[simp] theorem setPin_tddPrev (n : Nat) (x : Pin) : (setPin s n x).tddPrev = s.tddPrev := rfl
@[simp] theorem setPin_tddAt (n : Nat) (x : Pin) : (setPin s n x).tddAt = s.tddAt := rfl
@[simp] theorem setPin_tddPins (n : Nat) (x : Pin) : (setPin s n x).tddPins = s.tddPins := rfl
@[simp] theorem setPin_pfeFrom (n : Nat) (x : Pin) : (setPin s n x).pfeFrom = s.pfeFrom := rfl
@[simp] theorem setPin_spareTrig (n : Nat) (x : Pin) : (setPin s n x).spareTrig = s.spareTrig := rfl
@[simp] theorem setPin_hdm (n : Nat) (x : Pin) : (setPin s n x).hdm = s.hdm := rfl
@[simp] theorem setPin_comp (n : Nat) (x : Pin) : (setPin s n x).comp = s.comp := rfl
@[simp] theorem setPin_recs (n : Nat) (x : Pin) : (setPin s n x).recs = s.recs := rfl
@[simp] theorem setPin_tddDue (n : Nat) (x : Pin) : (setPin s n x).tddDue = s.tddDue := rfl
@[simp] theorem setPin_portGrp (n : Nat) (x : Pin) : (setPin s n x).portGrp = s.portGrp := rfl
@[simp] theorem setPin_delayLog (n : Nat) (x : Pin) : (setPin s n x).delayLog = s.delayLog := rfl
@[simp] theorem setPin_rampSent (n : Nat) (x : Pin) : (setPin s n x).rampSent = s.rampSent := rfl
@[simp] theorem setPin_phx (n : Nat) (x : Pin) : (setPin s n x).phx = s.phx := rfl
@[simp] theorem setPin_frames (n : Nat) (x : Pin) : (setPin s n x).frames = s.frames := rfl
@[simp] theorem setPin_care (n : Nat) (x : Pin) : (setPin s n x).care = s.care := rfl
@[simp] theorem setPin_bram (n : Nat) (x : Pin) : (setPin s n x).bram = s.bram := rfl
@[simp] theorem setPin_scr (n : Nat) (x : Pin) : (setPin s n x).scr = s.scr := rfl
@[simp] theorem setPin_pfeCheck (n : Nat) (x : Pin) : (setPin s n x).pfeCheck = s.pfeCheck := rfl
@[simp] theorem setPin_hotSince (n : Nat) (x : Pin) : (setPin s n x).hotSince = s.hotSince := rfl
@[simp] theorem setPin_upCycles (n : Nat) (x : Pin) : (setPin s n x).upCycles = s.upCycles := rfl
@[simp] theorem setPin_boot (n : Nat) (x : Pin) : (setPin s n x).boot = s.boot := rfl
@[simp] theorem setPin_perst (n : Nat) (x : Pin) : (setPin s n x).perst = s.perst := rfl
@[simp] theorem setPin_lockAt (n : Nat) (x : Pin) : (setPin s n x).lockAt = s.lockAt := rfl
@[simp] theorem setPin_hubFlits (n : Nat) (x : Pin) : (setPin s n x).hubFlits = s.hubFlits := rfl
@[simp] theorem setPin_rma (n : Nat) (x : Pin) : (setPin s n x).rma = s.rma := rfl
@[simp] theorem setPin_jtag (n : Nat) (x : Pin) : (setPin s n x).jtag = s.jtag := rfl
@[simp] theorem setPin_rowCopies (n : Nat) (x : Pin) : (setPin s n x).rowCopies = s.rowCopies := rfl
@[simp] theorem setPin_spareRows (n : Nat) (x : Pin) : (setPin s n x).spareRows = s.spareRows := rfl
@[simp] theorem setPin_spared (n : Nat) (x : Pin) : (setPin s n x).spared = s.spared := rfl
@[simp] theorem setPin_corrSeen (n : Nat) (x : Pin) : (setPin s n x).corrSeen = s.corrSeen := rfl
@[simp] theorem setPin_frPend (n : Nat) (x : Pin) : (setPin s n x).frPend = s.frPend := rfl
@[simp] theorem setPin_frSecond (n : Nat) (x : Pin) : (setPin s n x).frSecond = s.frSecond := rfl
@[simp] theorem setPin_frCount (n : Nat) (x : Pin) : (setPin s n x).frCount = s.frCount := rfl
@[simp] theorem setPin_freeCtr (n : Nat) (x : Pin) : (setPin s n x).freeCtr = s.freeCtr := rfl
@[simp] theorem setPin_out (n : Nat) (x : Pin) : (setPin s n x).out = s.out := rfl

/-! ## setDma -/

@[simp] theorem setDma_pending (k ch : Nat) (x : DmaCh) : (setDma s k ch x).pending = s.pending := rfl
@[simp] theorem setDma_ct (k ch : Nat) (x : DmaCh) : (setDma s k ch x).ct = s.ct := rfl
@[simp] theorem setDma_subPs (k ch : Nat) (x : DmaCh) : (setDma s k ch x).subPs = s.subPs := rfl
@[simp] theorem setDma_lks (k ch : Nat) (x : DmaCh) : (setDma s k ch x).lks = s.lks := rfl
@[simp] theorem setDma_regs (k ch : Nat) (x : DmaCh) : (setDma s k ch x).regs = s.regs := rfl
@[simp] theorem setDma_locked (k ch : Nat) (x : DmaCh) : (setDma s k ch x).locked = s.locked := rfl
@[simp] theorem setDma_heldLow (k ch : Nat) (x : DmaCh) : (setDma s k ch x).heldLow = s.heldLow := rfl
@[simp] theorem setDma_latchedHigh (k ch : Nat) (x : DmaCh) : (setDma s k ch x).latchedHigh = s.latchedHigh := rfl
@[simp] theorem setDma_mem (k ch : Nat) (x : DmaCh) : (setDma s k ch x).mem = s.mem := rfl
@[simp] theorem setDma_poison (k ch : Nat) (x : DmaCh) : (setDma s k ch x).poison = s.poison := rfl
@[simp] theorem setDma_errs (k ch : Nat) (x : DmaCh) : (setDma s k ch x).errs = s.errs := rfl
@[simp] theorem setDma_pins (k ch : Nat) (x : DmaCh) : (setDma s k ch x).pins = s.pins := rfl
@[simp] theorem setDma_evtFifo (k ch : Nat) (x : DmaCh) : (setDma s k ch x).evtFifo = s.evtFifo := rfl
@[simp] theorem setDma_ints (k ch : Nat) (x : DmaCh) : (setDma s k ch x).ints = s.ints := rfl
@[simp] theorem setDma_cfg (k ch : Nat) (x : DmaCh) : (setDma s k ch x).cfg = s.cfg := rfl
@[simp] theorem setDma_doe (k ch : Nat) (x : DmaCh) : (setDma s k ch x).doe = s.doe := rfl
@[simp] theorem setDma_rings (k ch : Nat) (x : DmaCh) : (setDma s k ch x).rings = s.rings := rfl
@[simp] theorem setDma_ucmds (k ch : Nat) (x : DmaCh) : (setDma s k ch x).ucmds = s.ucmds := rfl
@[simp] theorem setDma_plans (k ch : Nat) (x : DmaCh) : (setDma s k ch x).plans = s.plans := rfl
@[simp] theorem setDma_planSeq (k ch : Nat) (x : DmaCh) : (setDma s k ch x).planSeq = s.planSeq := rfl
@[simp] theorem setDma_jobs (k ch : Nat) (x : DmaCh) : (setDma s k ch x).jobs = s.jobs := rfl
@[simp] theorem setDma_notices (k ch : Nat) (x : DmaCh) : (setDma s k ch x).notices = s.notices := rfl
@[simp] theorem setDma_xfers (k ch : Nat) (x : DmaCh) : (setDma s k ch x).xfers = s.xfers := rfl
@[simp] theorem setDma_retrains (k ch : Nat) (x : DmaCh) : (setDma s k ch x).retrains = s.retrains := rfl
@[simp] theorem setDma_retrainDue (k ch : Nat) (x : DmaCh) : (setDma s k ch x).retrainDue = s.retrainDue := rfl
@[simp] theorem setDma_progs (k ch : Nat) (x : DmaCh) : (setDma s k ch x).progs = s.progs := rfl
@[simp] theorem setDma_progSeq (k ch : Nat) (x : DmaCh) : (setDma s k ch x).progSeq = s.progSeq := rfl
@[simp] theorem setDma_tiles (k ch : Nat) (x : DmaCh) : (setDma s k ch x).tiles = s.tiles := rfl
@[simp] theorem setDma_cvu (k ch : Nat) (x : DmaCh) : (setDma s k ch x).cvu = s.cvu := rfl
@[simp] theorem setDma_cvuIn (k ch : Nat) (x : DmaCh) : (setDma s k ch x).cvuIn = s.cvuIn := rfl
@[simp] theorem setDma_clusters (k ch : Nat) (x : DmaCh) : (setDma s k ch x).clusters = s.clusters := rfl
@[simp] theorem setDma_tileHw (k ch : Nat) (x : DmaCh) : (setDma s k ch x).tileHw = s.tileHw := rfl
@[simp] theorem setDma_raises (k ch : Nat) (x : DmaCh) : (setDma s k ch x).raises = s.raises := rfl
@[simp] theorem setDma_rails (k ch : Nat) (x : DmaCh) : (setDma s k ch x).rails = s.rails := rfl
@[simp] theorem setDma_quads (k ch : Nat) (x : DmaCh) : (setDma s k ch x).quads = s.quads := rfl
@[simp] theorem setDma_biOut (k ch : Nat) (x : DmaCh) : (setDma s k ch x).biOut = s.biOut := rfl
@[simp] theorem setDma_waits (k ch : Nat) (x : DmaCh) : (setDma s k ch x).waits = s.waits := rfl
@[simp] theorem setDma_fox (k ch : Nat) (x : DmaCh) : (setDma s k ch x).fox = s.fox := rfl
@[simp] theorem setDma_fw (k ch : Nat) (x : DmaCh) : (setDma s k ch x).fw = s.fw := rfl
@[simp] theorem setDma_pageBuf (k ch : Nat) (x : DmaCh) : (setDma s k ch x).pageBuf = s.pageBuf := rfl
@[simp] theorem setDma_sf (k ch : Nat) (x : DmaCh) : (setDma s k ch x).sf = s.sf := rfl
@[simp] theorem setDma_linkHeld (k ch : Nat) (x : DmaCh) : (setDma s k ch x).linkHeld = s.linkHeld := rfl
@[simp] theorem setDma_rxGroups (k ch : Nat) (x : DmaCh) : (setDma s k ch x).rxGroups = s.rxGroups := rfl
@[simp] theorem setDma_rxPrbs (k ch : Nat) (x : DmaCh) : (setDma s k ch x).rxPrbs = s.rxPrbs := rfl
@[simp] theorem setDma_laneHw (k ch : Nat) (x : DmaCh) : (setDma s k ch x).laneHw = s.laneHw := rfl
@[simp] theorem setDma_txGroups (k ch : Nat) (x : DmaCh) : (setDma s k ch x).txGroups = s.txGroups := rfl
@[simp] theorem setDma_sentGroups (k ch : Nat) (x : DmaCh) : (setDma s k ch x).sentGroups = s.sentGroups := rfl
@[simp] theorem setDma_captures (k ch : Nat) (x : DmaCh) : (setDma s k ch x).captures = s.captures := rfl
@[simp] theorem setDma_tddLive (k ch : Nat) (x : DmaCh) : (setDma s k ch x).tddLive = s.tddLive := rfl
@[simp] theorem setDma_tddPrev (k ch : Nat) (x : DmaCh) : (setDma s k ch x).tddPrev = s.tddPrev := rfl
@[simp] theorem setDma_tddAt (k ch : Nat) (x : DmaCh) : (setDma s k ch x).tddAt = s.tddAt := rfl
@[simp] theorem setDma_tddPins (k ch : Nat) (x : DmaCh) : (setDma s k ch x).tddPins = s.tddPins := rfl
@[simp] theorem setDma_pfeFrom (k ch : Nat) (x : DmaCh) : (setDma s k ch x).pfeFrom = s.pfeFrom := rfl
@[simp] theorem setDma_spareTrig (k ch : Nat) (x : DmaCh) : (setDma s k ch x).spareTrig = s.spareTrig := rfl
@[simp] theorem setDma_hdm (k ch : Nat) (x : DmaCh) : (setDma s k ch x).hdm = s.hdm := rfl
@[simp] theorem setDma_comp (k ch : Nat) (x : DmaCh) : (setDma s k ch x).comp = s.comp := rfl
@[simp] theorem setDma_recs (k ch : Nat) (x : DmaCh) : (setDma s k ch x).recs = s.recs := rfl
@[simp] theorem setDma_tddDue (k ch : Nat) (x : DmaCh) : (setDma s k ch x).tddDue = s.tddDue := rfl
@[simp] theorem setDma_portGrp (k ch : Nat) (x : DmaCh) : (setDma s k ch x).portGrp = s.portGrp := rfl
@[simp] theorem setDma_delayLog (k ch : Nat) (x : DmaCh) : (setDma s k ch x).delayLog = s.delayLog := rfl
@[simp] theorem setDma_rampSent (k ch : Nat) (x : DmaCh) : (setDma s k ch x).rampSent = s.rampSent := rfl
@[simp] theorem setDma_phx (k ch : Nat) (x : DmaCh) : (setDma s k ch x).phx = s.phx := rfl
@[simp] theorem setDma_frames (k ch : Nat) (x : DmaCh) : (setDma s k ch x).frames = s.frames := rfl
@[simp] theorem setDma_care (k ch : Nat) (x : DmaCh) : (setDma s k ch x).care = s.care := rfl
@[simp] theorem setDma_bram (k ch : Nat) (x : DmaCh) : (setDma s k ch x).bram = s.bram := rfl
@[simp] theorem setDma_scr (k ch : Nat) (x : DmaCh) : (setDma s k ch x).scr = s.scr := rfl
@[simp] theorem setDma_pfeCheck (k ch : Nat) (x : DmaCh) : (setDma s k ch x).pfeCheck = s.pfeCheck := rfl
@[simp] theorem setDma_hotSince (k ch : Nat) (x : DmaCh) : (setDma s k ch x).hotSince = s.hotSince := rfl
@[simp] theorem setDma_upCycles (k ch : Nat) (x : DmaCh) : (setDma s k ch x).upCycles = s.upCycles := rfl
@[simp] theorem setDma_boot (k ch : Nat) (x : DmaCh) : (setDma s k ch x).boot = s.boot := rfl
@[simp] theorem setDma_perst (k ch : Nat) (x : DmaCh) : (setDma s k ch x).perst = s.perst := rfl
@[simp] theorem setDma_lockAt (k ch : Nat) (x : DmaCh) : (setDma s k ch x).lockAt = s.lockAt := rfl
@[simp] theorem setDma_hubFlits (k ch : Nat) (x : DmaCh) : (setDma s k ch x).hubFlits = s.hubFlits := rfl
@[simp] theorem setDma_rma (k ch : Nat) (x : DmaCh) : (setDma s k ch x).rma = s.rma := rfl
@[simp] theorem setDma_jtag (k ch : Nat) (x : DmaCh) : (setDma s k ch x).jtag = s.jtag := rfl
@[simp] theorem setDma_rowCopies (k ch : Nat) (x : DmaCh) : (setDma s k ch x).rowCopies = s.rowCopies := rfl
@[simp] theorem setDma_spareRows (k ch : Nat) (x : DmaCh) : (setDma s k ch x).spareRows = s.spareRows := rfl
@[simp] theorem setDma_spared (k ch : Nat) (x : DmaCh) : (setDma s k ch x).spared = s.spared := rfl
@[simp] theorem setDma_corrSeen (k ch : Nat) (x : DmaCh) : (setDma s k ch x).corrSeen = s.corrSeen := rfl
@[simp] theorem setDma_frPend (k ch : Nat) (x : DmaCh) : (setDma s k ch x).frPend = s.frPend := rfl
@[simp] theorem setDma_frSecond (k ch : Nat) (x : DmaCh) : (setDma s k ch x).frSecond = s.frSecond := rfl
@[simp] theorem setDma_frCount (k ch : Nat) (x : DmaCh) : (setDma s k ch x).frCount = s.frCount := rfl
@[simp] theorem setDma_freeCtr (k ch : Nat) (x : DmaCh) : (setDma s k ch x).freeCtr = s.freeCtr := rfl
@[simp] theorem setDma_out (k ch : Nat) (x : DmaCh) : (setDma s k ch x).out = s.out := rfl

/-! ## setLane -/

@[simp] theorem setLane_pending (l : Nat) (x : LaneHw) : (setLane s l x).pending = s.pending := rfl
@[simp] theorem setLane_ct (l : Nat) (x : LaneHw) : (setLane s l x).ct = s.ct := rfl
@[simp] theorem setLane_subPs (l : Nat) (x : LaneHw) : (setLane s l x).subPs = s.subPs := rfl
@[simp] theorem setLane_lks (l : Nat) (x : LaneHw) : (setLane s l x).lks = s.lks := rfl
@[simp] theorem setLane_regs (l : Nat) (x : LaneHw) : (setLane s l x).regs = s.regs := rfl
@[simp] theorem setLane_locked (l : Nat) (x : LaneHw) : (setLane s l x).locked = s.locked := rfl
@[simp] theorem setLane_heldLow (l : Nat) (x : LaneHw) : (setLane s l x).heldLow = s.heldLow := rfl
@[simp] theorem setLane_latchedHigh (l : Nat) (x : LaneHw) : (setLane s l x).latchedHigh = s.latchedHigh := rfl
@[simp] theorem setLane_mem (l : Nat) (x : LaneHw) : (setLane s l x).mem = s.mem := rfl
@[simp] theorem setLane_poison (l : Nat) (x : LaneHw) : (setLane s l x).poison = s.poison := rfl
@[simp] theorem setLane_errs (l : Nat) (x : LaneHw) : (setLane s l x).errs = s.errs := rfl
@[simp] theorem setLane_pins (l : Nat) (x : LaneHw) : (setLane s l x).pins = s.pins := rfl
@[simp] theorem setLane_evtFifo (l : Nat) (x : LaneHw) : (setLane s l x).evtFifo = s.evtFifo := rfl
@[simp] theorem setLane_ints (l : Nat) (x : LaneHw) : (setLane s l x).ints = s.ints := rfl
@[simp] theorem setLane_cfg (l : Nat) (x : LaneHw) : (setLane s l x).cfg = s.cfg := rfl
@[simp] theorem setLane_doe (l : Nat) (x : LaneHw) : (setLane s l x).doe = s.doe := rfl
@[simp] theorem setLane_rings (l : Nat) (x : LaneHw) : (setLane s l x).rings = s.rings := rfl
@[simp] theorem setLane_ucmds (l : Nat) (x : LaneHw) : (setLane s l x).ucmds = s.ucmds := rfl
@[simp] theorem setLane_plans (l : Nat) (x : LaneHw) : (setLane s l x).plans = s.plans := rfl
@[simp] theorem setLane_planSeq (l : Nat) (x : LaneHw) : (setLane s l x).planSeq = s.planSeq := rfl
@[simp] theorem setLane_jobs (l : Nat) (x : LaneHw) : (setLane s l x).jobs = s.jobs := rfl
@[simp] theorem setLane_notices (l : Nat) (x : LaneHw) : (setLane s l x).notices = s.notices := rfl
@[simp] theorem setLane_xfers (l : Nat) (x : LaneHw) : (setLane s l x).xfers = s.xfers := rfl
@[simp] theorem setLane_retrains (l : Nat) (x : LaneHw) : (setLane s l x).retrains = s.retrains := rfl
@[simp] theorem setLane_retrainDue (l : Nat) (x : LaneHw) : (setLane s l x).retrainDue = s.retrainDue := rfl
@[simp] theorem setLane_progs (l : Nat) (x : LaneHw) : (setLane s l x).progs = s.progs := rfl
@[simp] theorem setLane_progSeq (l : Nat) (x : LaneHw) : (setLane s l x).progSeq = s.progSeq := rfl
@[simp] theorem setLane_tiles (l : Nat) (x : LaneHw) : (setLane s l x).tiles = s.tiles := rfl
@[simp] theorem setLane_dma (l : Nat) (x : LaneHw) : (setLane s l x).dma = s.dma := rfl
@[simp] theorem setLane_cvu (l : Nat) (x : LaneHw) : (setLane s l x).cvu = s.cvu := rfl
@[simp] theorem setLane_cvuIn (l : Nat) (x : LaneHw) : (setLane s l x).cvuIn = s.cvuIn := rfl
@[simp] theorem setLane_clusters (l : Nat) (x : LaneHw) : (setLane s l x).clusters = s.clusters := rfl
@[simp] theorem setLane_tileHw (l : Nat) (x : LaneHw) : (setLane s l x).tileHw = s.tileHw := rfl
@[simp] theorem setLane_raises (l : Nat) (x : LaneHw) : (setLane s l x).raises = s.raises := rfl
@[simp] theorem setLane_rails (l : Nat) (x : LaneHw) : (setLane s l x).rails = s.rails := rfl
@[simp] theorem setLane_quads (l : Nat) (x : LaneHw) : (setLane s l x).quads = s.quads := rfl
@[simp] theorem setLane_biOut (l : Nat) (x : LaneHw) : (setLane s l x).biOut = s.biOut := rfl
@[simp] theorem setLane_waits (l : Nat) (x : LaneHw) : (setLane s l x).waits = s.waits := rfl
@[simp] theorem setLane_fox (l : Nat) (x : LaneHw) : (setLane s l x).fox = s.fox := rfl
@[simp] theorem setLane_fw (l : Nat) (x : LaneHw) : (setLane s l x).fw = s.fw := rfl
@[simp] theorem setLane_pageBuf (l : Nat) (x : LaneHw) : (setLane s l x).pageBuf = s.pageBuf := rfl
@[simp] theorem setLane_sf (l : Nat) (x : LaneHw) : (setLane s l x).sf = s.sf := rfl
@[simp] theorem setLane_linkHeld (l : Nat) (x : LaneHw) : (setLane s l x).linkHeld = s.linkHeld := rfl
@[simp] theorem setLane_rxGroups (l : Nat) (x : LaneHw) : (setLane s l x).rxGroups = s.rxGroups := rfl
@[simp] theorem setLane_rxPrbs (l : Nat) (x : LaneHw) : (setLane s l x).rxPrbs = s.rxPrbs := rfl
@[simp] theorem setLane_txGroups (l : Nat) (x : LaneHw) : (setLane s l x).txGroups = s.txGroups := rfl
@[simp] theorem setLane_sentGroups (l : Nat) (x : LaneHw) : (setLane s l x).sentGroups = s.sentGroups := rfl
@[simp] theorem setLane_captures (l : Nat) (x : LaneHw) : (setLane s l x).captures = s.captures := rfl
@[simp] theorem setLane_tddLive (l : Nat) (x : LaneHw) : (setLane s l x).tddLive = s.tddLive := rfl
@[simp] theorem setLane_tddPrev (l : Nat) (x : LaneHw) : (setLane s l x).tddPrev = s.tddPrev := rfl
@[simp] theorem setLane_tddAt (l : Nat) (x : LaneHw) : (setLane s l x).tddAt = s.tddAt := rfl
@[simp] theorem setLane_tddPins (l : Nat) (x : LaneHw) : (setLane s l x).tddPins = s.tddPins := rfl
@[simp] theorem setLane_pfeFrom (l : Nat) (x : LaneHw) : (setLane s l x).pfeFrom = s.pfeFrom := rfl
@[simp] theorem setLane_spareTrig (l : Nat) (x : LaneHw) : (setLane s l x).spareTrig = s.spareTrig := rfl
@[simp] theorem setLane_hdm (l : Nat) (x : LaneHw) : (setLane s l x).hdm = s.hdm := rfl
@[simp] theorem setLane_comp (l : Nat) (x : LaneHw) : (setLane s l x).comp = s.comp := rfl
@[simp] theorem setLane_recs (l : Nat) (x : LaneHw) : (setLane s l x).recs = s.recs := rfl
@[simp] theorem setLane_tddDue (l : Nat) (x : LaneHw) : (setLane s l x).tddDue = s.tddDue := rfl
@[simp] theorem setLane_portGrp (l : Nat) (x : LaneHw) : (setLane s l x).portGrp = s.portGrp := rfl
@[simp] theorem setLane_delayLog (l : Nat) (x : LaneHw) : (setLane s l x).delayLog = s.delayLog := rfl
@[simp] theorem setLane_rampSent (l : Nat) (x : LaneHw) : (setLane s l x).rampSent = s.rampSent := rfl
@[simp] theorem setLane_phx (l : Nat) (x : LaneHw) : (setLane s l x).phx = s.phx := rfl
@[simp] theorem setLane_frames (l : Nat) (x : LaneHw) : (setLane s l x).frames = s.frames := rfl
@[simp] theorem setLane_care (l : Nat) (x : LaneHw) : (setLane s l x).care = s.care := rfl
@[simp] theorem setLane_bram (l : Nat) (x : LaneHw) : (setLane s l x).bram = s.bram := rfl
@[simp] theorem setLane_scr (l : Nat) (x : LaneHw) : (setLane s l x).scr = s.scr := rfl
@[simp] theorem setLane_pfeCheck (l : Nat) (x : LaneHw) : (setLane s l x).pfeCheck = s.pfeCheck := rfl
@[simp] theorem setLane_hotSince (l : Nat) (x : LaneHw) : (setLane s l x).hotSince = s.hotSince := rfl
@[simp] theorem setLane_upCycles (l : Nat) (x : LaneHw) : (setLane s l x).upCycles = s.upCycles := rfl
@[simp] theorem setLane_boot (l : Nat) (x : LaneHw) : (setLane s l x).boot = s.boot := rfl
@[simp] theorem setLane_perst (l : Nat) (x : LaneHw) : (setLane s l x).perst = s.perst := rfl
@[simp] theorem setLane_lockAt (l : Nat) (x : LaneHw) : (setLane s l x).lockAt = s.lockAt := rfl
@[simp] theorem setLane_hubFlits (l : Nat) (x : LaneHw) : (setLane s l x).hubFlits = s.hubFlits := rfl
@[simp] theorem setLane_rma (l : Nat) (x : LaneHw) : (setLane s l x).rma = s.rma := rfl
@[simp] theorem setLane_jtag (l : Nat) (x : LaneHw) : (setLane s l x).jtag = s.jtag := rfl
@[simp] theorem setLane_rowCopies (l : Nat) (x : LaneHw) : (setLane s l x).rowCopies = s.rowCopies := rfl
@[simp] theorem setLane_spareRows (l : Nat) (x : LaneHw) : (setLane s l x).spareRows = s.spareRows := rfl
@[simp] theorem setLane_spared (l : Nat) (x : LaneHw) : (setLane s l x).spared = s.spared := rfl
@[simp] theorem setLane_corrSeen (l : Nat) (x : LaneHw) : (setLane s l x).corrSeen = s.corrSeen := rfl
@[simp] theorem setLane_frPend (l : Nat) (x : LaneHw) : (setLane s l x).frPend = s.frPend := rfl
@[simp] theorem setLane_frSecond (l : Nat) (x : LaneHw) : (setLane s l x).frSecond = s.frSecond := rfl
@[simp] theorem setLane_frCount (l : Nat) (x : LaneHw) : (setLane s l x).frCount = s.frCount := rfl
@[simp] theorem setLane_freeCtr (l : Nat) (x : LaneHw) : (setLane s l x).freeCtr = s.freeCtr := rfl
@[simp] theorem setLane_out (l : Nat) (x : LaneHw) : (setLane s l x).out = s.out := rfl

/-! ## setCl -/

@[simp] theorem setCl_pending (k : Nat) (x : ClusterHw) : (setCl s k x).pending = s.pending := rfl
@[simp] theorem setCl_ct (k : Nat) (x : ClusterHw) : (setCl s k x).ct = s.ct := rfl
@[simp] theorem setCl_subPs (k : Nat) (x : ClusterHw) : (setCl s k x).subPs = s.subPs := rfl
@[simp] theorem setCl_lks (k : Nat) (x : ClusterHw) : (setCl s k x).lks = s.lks := rfl
@[simp] theorem setCl_regs (k : Nat) (x : ClusterHw) : (setCl s k x).regs = s.regs := rfl
@[simp] theorem setCl_locked (k : Nat) (x : ClusterHw) : (setCl s k x).locked = s.locked := rfl
@[simp] theorem setCl_heldLow (k : Nat) (x : ClusterHw) : (setCl s k x).heldLow = s.heldLow := rfl
@[simp] theorem setCl_latchedHigh (k : Nat) (x : ClusterHw) : (setCl s k x).latchedHigh = s.latchedHigh := rfl
@[simp] theorem setCl_mem (k : Nat) (x : ClusterHw) : (setCl s k x).mem = s.mem := rfl
@[simp] theorem setCl_poison (k : Nat) (x : ClusterHw) : (setCl s k x).poison = s.poison := rfl
@[simp] theorem setCl_errs (k : Nat) (x : ClusterHw) : (setCl s k x).errs = s.errs := rfl
@[simp] theorem setCl_pins (k : Nat) (x : ClusterHw) : (setCl s k x).pins = s.pins := rfl
@[simp] theorem setCl_evtFifo (k : Nat) (x : ClusterHw) : (setCl s k x).evtFifo = s.evtFifo := rfl
@[simp] theorem setCl_ints (k : Nat) (x : ClusterHw) : (setCl s k x).ints = s.ints := rfl
@[simp] theorem setCl_cfg (k : Nat) (x : ClusterHw) : (setCl s k x).cfg = s.cfg := rfl
@[simp] theorem setCl_doe (k : Nat) (x : ClusterHw) : (setCl s k x).doe = s.doe := rfl
@[simp] theorem setCl_rings (k : Nat) (x : ClusterHw) : (setCl s k x).rings = s.rings := rfl
@[simp] theorem setCl_ucmds (k : Nat) (x : ClusterHw) : (setCl s k x).ucmds = s.ucmds := rfl
@[simp] theorem setCl_plans (k : Nat) (x : ClusterHw) : (setCl s k x).plans = s.plans := rfl
@[simp] theorem setCl_planSeq (k : Nat) (x : ClusterHw) : (setCl s k x).planSeq = s.planSeq := rfl
@[simp] theorem setCl_jobs (k : Nat) (x : ClusterHw) : (setCl s k x).jobs = s.jobs := rfl
@[simp] theorem setCl_notices (k : Nat) (x : ClusterHw) : (setCl s k x).notices = s.notices := rfl
@[simp] theorem setCl_xfers (k : Nat) (x : ClusterHw) : (setCl s k x).xfers = s.xfers := rfl
@[simp] theorem setCl_retrains (k : Nat) (x : ClusterHw) : (setCl s k x).retrains = s.retrains := rfl
@[simp] theorem setCl_retrainDue (k : Nat) (x : ClusterHw) : (setCl s k x).retrainDue = s.retrainDue := rfl
@[simp] theorem setCl_progs (k : Nat) (x : ClusterHw) : (setCl s k x).progs = s.progs := rfl
@[simp] theorem setCl_progSeq (k : Nat) (x : ClusterHw) : (setCl s k x).progSeq = s.progSeq := rfl
@[simp] theorem setCl_tiles (k : Nat) (x : ClusterHw) : (setCl s k x).tiles = s.tiles := rfl
@[simp] theorem setCl_dma (k : Nat) (x : ClusterHw) : (setCl s k x).dma = s.dma := rfl
@[simp] theorem setCl_cvu (k : Nat) (x : ClusterHw) : (setCl s k x).cvu = s.cvu := rfl
@[simp] theorem setCl_cvuIn (k : Nat) (x : ClusterHw) : (setCl s k x).cvuIn = s.cvuIn := rfl
@[simp] theorem setCl_tileHw (k : Nat) (x : ClusterHw) : (setCl s k x).tileHw = s.tileHw := rfl
@[simp] theorem setCl_raises (k : Nat) (x : ClusterHw) : (setCl s k x).raises = s.raises := rfl
@[simp] theorem setCl_rails (k : Nat) (x : ClusterHw) : (setCl s k x).rails = s.rails := rfl
@[simp] theorem setCl_quads (k : Nat) (x : ClusterHw) : (setCl s k x).quads = s.quads := rfl
@[simp] theorem setCl_biOut (k : Nat) (x : ClusterHw) : (setCl s k x).biOut = s.biOut := rfl
@[simp] theorem setCl_waits (k : Nat) (x : ClusterHw) : (setCl s k x).waits = s.waits := rfl
@[simp] theorem setCl_fox (k : Nat) (x : ClusterHw) : (setCl s k x).fox = s.fox := rfl
@[simp] theorem setCl_fw (k : Nat) (x : ClusterHw) : (setCl s k x).fw = s.fw := rfl
@[simp] theorem setCl_pageBuf (k : Nat) (x : ClusterHw) : (setCl s k x).pageBuf = s.pageBuf := rfl
@[simp] theorem setCl_sf (k : Nat) (x : ClusterHw) : (setCl s k x).sf = s.sf := rfl
@[simp] theorem setCl_linkHeld (k : Nat) (x : ClusterHw) : (setCl s k x).linkHeld = s.linkHeld := rfl
@[simp] theorem setCl_rxGroups (k : Nat) (x : ClusterHw) : (setCl s k x).rxGroups = s.rxGroups := rfl
@[simp] theorem setCl_rxPrbs (k : Nat) (x : ClusterHw) : (setCl s k x).rxPrbs = s.rxPrbs := rfl
@[simp] theorem setCl_laneHw (k : Nat) (x : ClusterHw) : (setCl s k x).laneHw = s.laneHw := rfl
@[simp] theorem setCl_txGroups (k : Nat) (x : ClusterHw) : (setCl s k x).txGroups = s.txGroups := rfl
@[simp] theorem setCl_sentGroups (k : Nat) (x : ClusterHw) : (setCl s k x).sentGroups = s.sentGroups := rfl
@[simp] theorem setCl_captures (k : Nat) (x : ClusterHw) : (setCl s k x).captures = s.captures := rfl
@[simp] theorem setCl_tddLive (k : Nat) (x : ClusterHw) : (setCl s k x).tddLive = s.tddLive := rfl
@[simp] theorem setCl_tddPrev (k : Nat) (x : ClusterHw) : (setCl s k x).tddPrev = s.tddPrev := rfl
@[simp] theorem setCl_tddAt (k : Nat) (x : ClusterHw) : (setCl s k x).tddAt = s.tddAt := rfl
@[simp] theorem setCl_tddPins (k : Nat) (x : ClusterHw) : (setCl s k x).tddPins = s.tddPins := rfl
@[simp] theorem setCl_pfeFrom (k : Nat) (x : ClusterHw) : (setCl s k x).pfeFrom = s.pfeFrom := rfl
@[simp] theorem setCl_spareTrig (k : Nat) (x : ClusterHw) : (setCl s k x).spareTrig = s.spareTrig := rfl
@[simp] theorem setCl_hdm (k : Nat) (x : ClusterHw) : (setCl s k x).hdm = s.hdm := rfl
@[simp] theorem setCl_comp (k : Nat) (x : ClusterHw) : (setCl s k x).comp = s.comp := rfl
@[simp] theorem setCl_recs (k : Nat) (x : ClusterHw) : (setCl s k x).recs = s.recs := rfl
@[simp] theorem setCl_tddDue (k : Nat) (x : ClusterHw) : (setCl s k x).tddDue = s.tddDue := rfl
@[simp] theorem setCl_portGrp (k : Nat) (x : ClusterHw) : (setCl s k x).portGrp = s.portGrp := rfl
@[simp] theorem setCl_delayLog (k : Nat) (x : ClusterHw) : (setCl s k x).delayLog = s.delayLog := rfl
@[simp] theorem setCl_rampSent (k : Nat) (x : ClusterHw) : (setCl s k x).rampSent = s.rampSent := rfl
@[simp] theorem setCl_phx (k : Nat) (x : ClusterHw) : (setCl s k x).phx = s.phx := rfl
@[simp] theorem setCl_frames (k : Nat) (x : ClusterHw) : (setCl s k x).frames = s.frames := rfl
@[simp] theorem setCl_care (k : Nat) (x : ClusterHw) : (setCl s k x).care = s.care := rfl
@[simp] theorem setCl_bram (k : Nat) (x : ClusterHw) : (setCl s k x).bram = s.bram := rfl
@[simp] theorem setCl_scr (k : Nat) (x : ClusterHw) : (setCl s k x).scr = s.scr := rfl
@[simp] theorem setCl_pfeCheck (k : Nat) (x : ClusterHw) : (setCl s k x).pfeCheck = s.pfeCheck := rfl
@[simp] theorem setCl_hotSince (k : Nat) (x : ClusterHw) : (setCl s k x).hotSince = s.hotSince := rfl
@[simp] theorem setCl_upCycles (k : Nat) (x : ClusterHw) : (setCl s k x).upCycles = s.upCycles := rfl
@[simp] theorem setCl_boot (k : Nat) (x : ClusterHw) : (setCl s k x).boot = s.boot := rfl
@[simp] theorem setCl_perst (k : Nat) (x : ClusterHw) : (setCl s k x).perst = s.perst := rfl
@[simp] theorem setCl_lockAt (k : Nat) (x : ClusterHw) : (setCl s k x).lockAt = s.lockAt := rfl
@[simp] theorem setCl_hubFlits (k : Nat) (x : ClusterHw) : (setCl s k x).hubFlits = s.hubFlits := rfl
@[simp] theorem setCl_rma (k : Nat) (x : ClusterHw) : (setCl s k x).rma = s.rma := rfl
@[simp] theorem setCl_jtag (k : Nat) (x : ClusterHw) : (setCl s k x).jtag = s.jtag := rfl
@[simp] theorem setCl_rowCopies (k : Nat) (x : ClusterHw) : (setCl s k x).rowCopies = s.rowCopies := rfl
@[simp] theorem setCl_spareRows (k : Nat) (x : ClusterHw) : (setCl s k x).spareRows = s.spareRows := rfl
@[simp] theorem setCl_spared (k : Nat) (x : ClusterHw) : (setCl s k x).spared = s.spared := rfl
@[simp] theorem setCl_corrSeen (k : Nat) (x : ClusterHw) : (setCl s k x).corrSeen = s.corrSeen := rfl
@[simp] theorem setCl_frPend (k : Nat) (x : ClusterHw) : (setCl s k x).frPend = s.frPend := rfl
@[simp] theorem setCl_frSecond (k : Nat) (x : ClusterHw) : (setCl s k x).frSecond = s.frSecond := rfl
@[simp] theorem setCl_frCount (k : Nat) (x : ClusterHw) : (setCl s k x).frCount = s.frCount := rfl
@[simp] theorem setCl_freeCtr (k : Nat) (x : ClusterHw) : (setCl s k x).freeCtr = s.freeCtr := rfl
@[simp] theorem setCl_out (k : Nat) (x : ClusterHw) : (setCl s k x).out = s.out := rfl

/-! ## setHw -/

@[simp] theorem setHw_pending (p : Nat) (x : TileHw) : (setHw s p x).pending = s.pending := rfl
@[simp] theorem setHw_ct (p : Nat) (x : TileHw) : (setHw s p x).ct = s.ct := rfl
@[simp] theorem setHw_subPs (p : Nat) (x : TileHw) : (setHw s p x).subPs = s.subPs := rfl
@[simp] theorem setHw_lks (p : Nat) (x : TileHw) : (setHw s p x).lks = s.lks := rfl
@[simp] theorem setHw_regs (p : Nat) (x : TileHw) : (setHw s p x).regs = s.regs := rfl
@[simp] theorem setHw_locked (p : Nat) (x : TileHw) : (setHw s p x).locked = s.locked := rfl
@[simp] theorem setHw_heldLow (p : Nat) (x : TileHw) : (setHw s p x).heldLow = s.heldLow := rfl
@[simp] theorem setHw_latchedHigh (p : Nat) (x : TileHw) : (setHw s p x).latchedHigh = s.latchedHigh := rfl
@[simp] theorem setHw_mem (p : Nat) (x : TileHw) : (setHw s p x).mem = s.mem := rfl
@[simp] theorem setHw_poison (p : Nat) (x : TileHw) : (setHw s p x).poison = s.poison := rfl
@[simp] theorem setHw_errs (p : Nat) (x : TileHw) : (setHw s p x).errs = s.errs := rfl
@[simp] theorem setHw_pins (p : Nat) (x : TileHw) : (setHw s p x).pins = s.pins := rfl
@[simp] theorem setHw_evtFifo (p : Nat) (x : TileHw) : (setHw s p x).evtFifo = s.evtFifo := rfl
@[simp] theorem setHw_ints (p : Nat) (x : TileHw) : (setHw s p x).ints = s.ints := rfl
@[simp] theorem setHw_cfg (p : Nat) (x : TileHw) : (setHw s p x).cfg = s.cfg := rfl
@[simp] theorem setHw_doe (p : Nat) (x : TileHw) : (setHw s p x).doe = s.doe := rfl
@[simp] theorem setHw_rings (p : Nat) (x : TileHw) : (setHw s p x).rings = s.rings := rfl
@[simp] theorem setHw_ucmds (p : Nat) (x : TileHw) : (setHw s p x).ucmds = s.ucmds := rfl
@[simp] theorem setHw_plans (p : Nat) (x : TileHw) : (setHw s p x).plans = s.plans := rfl
@[simp] theorem setHw_planSeq (p : Nat) (x : TileHw) : (setHw s p x).planSeq = s.planSeq := rfl
@[simp] theorem setHw_jobs (p : Nat) (x : TileHw) : (setHw s p x).jobs = s.jobs := rfl
@[simp] theorem setHw_notices (p : Nat) (x : TileHw) : (setHw s p x).notices = s.notices := rfl
@[simp] theorem setHw_xfers (p : Nat) (x : TileHw) : (setHw s p x).xfers = s.xfers := rfl
@[simp] theorem setHw_retrains (p : Nat) (x : TileHw) : (setHw s p x).retrains = s.retrains := rfl
@[simp] theorem setHw_retrainDue (p : Nat) (x : TileHw) : (setHw s p x).retrainDue = s.retrainDue := rfl
@[simp] theorem setHw_progs (p : Nat) (x : TileHw) : (setHw s p x).progs = s.progs := rfl
@[simp] theorem setHw_progSeq (p : Nat) (x : TileHw) : (setHw s p x).progSeq = s.progSeq := rfl
@[simp] theorem setHw_tiles (p : Nat) (x : TileHw) : (setHw s p x).tiles = s.tiles := rfl
@[simp] theorem setHw_dma (p : Nat) (x : TileHw) : (setHw s p x).dma = s.dma := rfl
@[simp] theorem setHw_cvu (p : Nat) (x : TileHw) : (setHw s p x).cvu = s.cvu := rfl
@[simp] theorem setHw_cvuIn (p : Nat) (x : TileHw) : (setHw s p x).cvuIn = s.cvuIn := rfl
@[simp] theorem setHw_clusters (p : Nat) (x : TileHw) : (setHw s p x).clusters = s.clusters := rfl
@[simp] theorem setHw_raises (p : Nat) (x : TileHw) : (setHw s p x).raises = s.raises := rfl
@[simp] theorem setHw_rails (p : Nat) (x : TileHw) : (setHw s p x).rails = s.rails := rfl
@[simp] theorem setHw_quads (p : Nat) (x : TileHw) : (setHw s p x).quads = s.quads := rfl
@[simp] theorem setHw_biOut (p : Nat) (x : TileHw) : (setHw s p x).biOut = s.biOut := rfl
@[simp] theorem setHw_waits (p : Nat) (x : TileHw) : (setHw s p x).waits = s.waits := rfl
@[simp] theorem setHw_fox (p : Nat) (x : TileHw) : (setHw s p x).fox = s.fox := rfl
@[simp] theorem setHw_fw (p : Nat) (x : TileHw) : (setHw s p x).fw = s.fw := rfl
@[simp] theorem setHw_pageBuf (p : Nat) (x : TileHw) : (setHw s p x).pageBuf = s.pageBuf := rfl
@[simp] theorem setHw_sf (p : Nat) (x : TileHw) : (setHw s p x).sf = s.sf := rfl
@[simp] theorem setHw_linkHeld (p : Nat) (x : TileHw) : (setHw s p x).linkHeld = s.linkHeld := rfl
@[simp] theorem setHw_rxGroups (p : Nat) (x : TileHw) : (setHw s p x).rxGroups = s.rxGroups := rfl
@[simp] theorem setHw_rxPrbs (p : Nat) (x : TileHw) : (setHw s p x).rxPrbs = s.rxPrbs := rfl
@[simp] theorem setHw_laneHw (p : Nat) (x : TileHw) : (setHw s p x).laneHw = s.laneHw := rfl
@[simp] theorem setHw_txGroups (p : Nat) (x : TileHw) : (setHw s p x).txGroups = s.txGroups := rfl
@[simp] theorem setHw_sentGroups (p : Nat) (x : TileHw) : (setHw s p x).sentGroups = s.sentGroups := rfl
@[simp] theorem setHw_captures (p : Nat) (x : TileHw) : (setHw s p x).captures = s.captures := rfl
@[simp] theorem setHw_tddLive (p : Nat) (x : TileHw) : (setHw s p x).tddLive = s.tddLive := rfl
@[simp] theorem setHw_tddPrev (p : Nat) (x : TileHw) : (setHw s p x).tddPrev = s.tddPrev := rfl
@[simp] theorem setHw_tddAt (p : Nat) (x : TileHw) : (setHw s p x).tddAt = s.tddAt := rfl
@[simp] theorem setHw_tddPins (p : Nat) (x : TileHw) : (setHw s p x).tddPins = s.tddPins := rfl
@[simp] theorem setHw_pfeFrom (p : Nat) (x : TileHw) : (setHw s p x).pfeFrom = s.pfeFrom := rfl
@[simp] theorem setHw_spareTrig (p : Nat) (x : TileHw) : (setHw s p x).spareTrig = s.spareTrig := rfl
@[simp] theorem setHw_hdm (p : Nat) (x : TileHw) : (setHw s p x).hdm = s.hdm := rfl
@[simp] theorem setHw_comp (p : Nat) (x : TileHw) : (setHw s p x).comp = s.comp := rfl
@[simp] theorem setHw_recs (p : Nat) (x : TileHw) : (setHw s p x).recs = s.recs := rfl
@[simp] theorem setHw_tddDue (p : Nat) (x : TileHw) : (setHw s p x).tddDue = s.tddDue := rfl
@[simp] theorem setHw_portGrp (p : Nat) (x : TileHw) : (setHw s p x).portGrp = s.portGrp := rfl
@[simp] theorem setHw_delayLog (p : Nat) (x : TileHw) : (setHw s p x).delayLog = s.delayLog := rfl
@[simp] theorem setHw_rampSent (p : Nat) (x : TileHw) : (setHw s p x).rampSent = s.rampSent := rfl
@[simp] theorem setHw_phx (p : Nat) (x : TileHw) : (setHw s p x).phx = s.phx := rfl
@[simp] theorem setHw_frames (p : Nat) (x : TileHw) : (setHw s p x).frames = s.frames := rfl
@[simp] theorem setHw_care (p : Nat) (x : TileHw) : (setHw s p x).care = s.care := rfl
@[simp] theorem setHw_bram (p : Nat) (x : TileHw) : (setHw s p x).bram = s.bram := rfl
@[simp] theorem setHw_scr (p : Nat) (x : TileHw) : (setHw s p x).scr = s.scr := rfl
@[simp] theorem setHw_pfeCheck (p : Nat) (x : TileHw) : (setHw s p x).pfeCheck = s.pfeCheck := rfl
@[simp] theorem setHw_hotSince (p : Nat) (x : TileHw) : (setHw s p x).hotSince = s.hotSince := rfl
@[simp] theorem setHw_upCycles (p : Nat) (x : TileHw) : (setHw s p x).upCycles = s.upCycles := rfl
@[simp] theorem setHw_boot (p : Nat) (x : TileHw) : (setHw s p x).boot = s.boot := rfl
@[simp] theorem setHw_perst (p : Nat) (x : TileHw) : (setHw s p x).perst = s.perst := rfl
@[simp] theorem setHw_lockAt (p : Nat) (x : TileHw) : (setHw s p x).lockAt = s.lockAt := rfl
@[simp] theorem setHw_hubFlits (p : Nat) (x : TileHw) : (setHw s p x).hubFlits = s.hubFlits := rfl
@[simp] theorem setHw_rma (p : Nat) (x : TileHw) : (setHw s p x).rma = s.rma := rfl
@[simp] theorem setHw_jtag (p : Nat) (x : TileHw) : (setHw s p x).jtag = s.jtag := rfl
@[simp] theorem setHw_rowCopies (p : Nat) (x : TileHw) : (setHw s p x).rowCopies = s.rowCopies := rfl
@[simp] theorem setHw_spareRows (p : Nat) (x : TileHw) : (setHw s p x).spareRows = s.spareRows := rfl
@[simp] theorem setHw_spared (p : Nat) (x : TileHw) : (setHw s p x).spared = s.spared := rfl
@[simp] theorem setHw_corrSeen (p : Nat) (x : TileHw) : (setHw s p x).corrSeen = s.corrSeen := rfl
@[simp] theorem setHw_frPend (p : Nat) (x : TileHw) : (setHw s p x).frPend = s.frPend := rfl
@[simp] theorem setHw_frSecond (p : Nat) (x : TileHw) : (setHw s p x).frSecond = s.frSecond := rfl
@[simp] theorem setHw_frCount (p : Nat) (x : TileHw) : (setHw s p x).frCount = s.frCount := rfl
@[simp] theorem setHw_freeCtr (p : Nat) (x : TileHw) : (setHw s p x).freeCtr = s.freeCtr := rfl
@[simp] theorem setHw_out (p : Nat) (x : TileHw) : (setHw s p x).out = s.out := rfl

/-! ## setQuad -/

@[simp] theorem setQuad_pending (q : Nat) (x : QuadHw) : (setQuad s q x).pending = s.pending := rfl
@[simp] theorem setQuad_ct (q : Nat) (x : QuadHw) : (setQuad s q x).ct = s.ct := rfl
@[simp] theorem setQuad_subPs (q : Nat) (x : QuadHw) : (setQuad s q x).subPs = s.subPs := rfl
@[simp] theorem setQuad_lks (q : Nat) (x : QuadHw) : (setQuad s q x).lks = s.lks := rfl
@[simp] theorem setQuad_regs (q : Nat) (x : QuadHw) : (setQuad s q x).regs = s.regs := rfl
@[simp] theorem setQuad_locked (q : Nat) (x : QuadHw) : (setQuad s q x).locked = s.locked := rfl
@[simp] theorem setQuad_heldLow (q : Nat) (x : QuadHw) : (setQuad s q x).heldLow = s.heldLow := rfl
@[simp] theorem setQuad_latchedHigh (q : Nat) (x : QuadHw) : (setQuad s q x).latchedHigh = s.latchedHigh := rfl
@[simp] theorem setQuad_mem (q : Nat) (x : QuadHw) : (setQuad s q x).mem = s.mem := rfl
@[simp] theorem setQuad_poison (q : Nat) (x : QuadHw) : (setQuad s q x).poison = s.poison := rfl
@[simp] theorem setQuad_errs (q : Nat) (x : QuadHw) : (setQuad s q x).errs = s.errs := rfl
@[simp] theorem setQuad_pins (q : Nat) (x : QuadHw) : (setQuad s q x).pins = s.pins := rfl
@[simp] theorem setQuad_evtFifo (q : Nat) (x : QuadHw) : (setQuad s q x).evtFifo = s.evtFifo := rfl
@[simp] theorem setQuad_ints (q : Nat) (x : QuadHw) : (setQuad s q x).ints = s.ints := rfl
@[simp] theorem setQuad_cfg (q : Nat) (x : QuadHw) : (setQuad s q x).cfg = s.cfg := rfl
@[simp] theorem setQuad_doe (q : Nat) (x : QuadHw) : (setQuad s q x).doe = s.doe := rfl
@[simp] theorem setQuad_rings (q : Nat) (x : QuadHw) : (setQuad s q x).rings = s.rings := rfl
@[simp] theorem setQuad_ucmds (q : Nat) (x : QuadHw) : (setQuad s q x).ucmds = s.ucmds := rfl
@[simp] theorem setQuad_plans (q : Nat) (x : QuadHw) : (setQuad s q x).plans = s.plans := rfl
@[simp] theorem setQuad_planSeq (q : Nat) (x : QuadHw) : (setQuad s q x).planSeq = s.planSeq := rfl
@[simp] theorem setQuad_jobs (q : Nat) (x : QuadHw) : (setQuad s q x).jobs = s.jobs := rfl
@[simp] theorem setQuad_notices (q : Nat) (x : QuadHw) : (setQuad s q x).notices = s.notices := rfl
@[simp] theorem setQuad_xfers (q : Nat) (x : QuadHw) : (setQuad s q x).xfers = s.xfers := rfl
@[simp] theorem setQuad_retrains (q : Nat) (x : QuadHw) : (setQuad s q x).retrains = s.retrains := rfl
@[simp] theorem setQuad_retrainDue (q : Nat) (x : QuadHw) : (setQuad s q x).retrainDue = s.retrainDue := rfl
@[simp] theorem setQuad_progs (q : Nat) (x : QuadHw) : (setQuad s q x).progs = s.progs := rfl
@[simp] theorem setQuad_progSeq (q : Nat) (x : QuadHw) : (setQuad s q x).progSeq = s.progSeq := rfl
@[simp] theorem setQuad_tiles (q : Nat) (x : QuadHw) : (setQuad s q x).tiles = s.tiles := rfl
@[simp] theorem setQuad_dma (q : Nat) (x : QuadHw) : (setQuad s q x).dma = s.dma := rfl
@[simp] theorem setQuad_cvu (q : Nat) (x : QuadHw) : (setQuad s q x).cvu = s.cvu := rfl
@[simp] theorem setQuad_cvuIn (q : Nat) (x : QuadHw) : (setQuad s q x).cvuIn = s.cvuIn := rfl
@[simp] theorem setQuad_clusters (q : Nat) (x : QuadHw) : (setQuad s q x).clusters = s.clusters := rfl
@[simp] theorem setQuad_tileHw (q : Nat) (x : QuadHw) : (setQuad s q x).tileHw = s.tileHw := rfl
@[simp] theorem setQuad_raises (q : Nat) (x : QuadHw) : (setQuad s q x).raises = s.raises := rfl
@[simp] theorem setQuad_rails (q : Nat) (x : QuadHw) : (setQuad s q x).rails = s.rails := rfl
@[simp] theorem setQuad_biOut (q : Nat) (x : QuadHw) : (setQuad s q x).biOut = s.biOut := rfl
@[simp] theorem setQuad_waits (q : Nat) (x : QuadHw) : (setQuad s q x).waits = s.waits := rfl
@[simp] theorem setQuad_fox (q : Nat) (x : QuadHw) : (setQuad s q x).fox = s.fox := rfl
@[simp] theorem setQuad_fw (q : Nat) (x : QuadHw) : (setQuad s q x).fw = s.fw := rfl
@[simp] theorem setQuad_pageBuf (q : Nat) (x : QuadHw) : (setQuad s q x).pageBuf = s.pageBuf := rfl
@[simp] theorem setQuad_sf (q : Nat) (x : QuadHw) : (setQuad s q x).sf = s.sf := rfl
@[simp] theorem setQuad_linkHeld (q : Nat) (x : QuadHw) : (setQuad s q x).linkHeld = s.linkHeld := rfl
@[simp] theorem setQuad_rxGroups (q : Nat) (x : QuadHw) : (setQuad s q x).rxGroups = s.rxGroups := rfl
@[simp] theorem setQuad_rxPrbs (q : Nat) (x : QuadHw) : (setQuad s q x).rxPrbs = s.rxPrbs := rfl
@[simp] theorem setQuad_laneHw (q : Nat) (x : QuadHw) : (setQuad s q x).laneHw = s.laneHw := rfl
@[simp] theorem setQuad_txGroups (q : Nat) (x : QuadHw) : (setQuad s q x).txGroups = s.txGroups := rfl
@[simp] theorem setQuad_sentGroups (q : Nat) (x : QuadHw) : (setQuad s q x).sentGroups = s.sentGroups := rfl
@[simp] theorem setQuad_captures (q : Nat) (x : QuadHw) : (setQuad s q x).captures = s.captures := rfl
@[simp] theorem setQuad_tddLive (q : Nat) (x : QuadHw) : (setQuad s q x).tddLive = s.tddLive := rfl
@[simp] theorem setQuad_tddPrev (q : Nat) (x : QuadHw) : (setQuad s q x).tddPrev = s.tddPrev := rfl
@[simp] theorem setQuad_tddAt (q : Nat) (x : QuadHw) : (setQuad s q x).tddAt = s.tddAt := rfl
@[simp] theorem setQuad_tddPins (q : Nat) (x : QuadHw) : (setQuad s q x).tddPins = s.tddPins := rfl
@[simp] theorem setQuad_pfeFrom (q : Nat) (x : QuadHw) : (setQuad s q x).pfeFrom = s.pfeFrom := rfl
@[simp] theorem setQuad_spareTrig (q : Nat) (x : QuadHw) : (setQuad s q x).spareTrig = s.spareTrig := rfl
@[simp] theorem setQuad_hdm (q : Nat) (x : QuadHw) : (setQuad s q x).hdm = s.hdm := rfl
@[simp] theorem setQuad_comp (q : Nat) (x : QuadHw) : (setQuad s q x).comp = s.comp := rfl
@[simp] theorem setQuad_recs (q : Nat) (x : QuadHw) : (setQuad s q x).recs = s.recs := rfl
@[simp] theorem setQuad_tddDue (q : Nat) (x : QuadHw) : (setQuad s q x).tddDue = s.tddDue := rfl
@[simp] theorem setQuad_portGrp (q : Nat) (x : QuadHw) : (setQuad s q x).portGrp = s.portGrp := rfl
@[simp] theorem setQuad_delayLog (q : Nat) (x : QuadHw) : (setQuad s q x).delayLog = s.delayLog := rfl
@[simp] theorem setQuad_rampSent (q : Nat) (x : QuadHw) : (setQuad s q x).rampSent = s.rampSent := rfl
@[simp] theorem setQuad_phx (q : Nat) (x : QuadHw) : (setQuad s q x).phx = s.phx := rfl
@[simp] theorem setQuad_frames (q : Nat) (x : QuadHw) : (setQuad s q x).frames = s.frames := rfl
@[simp] theorem setQuad_care (q : Nat) (x : QuadHw) : (setQuad s q x).care = s.care := rfl
@[simp] theorem setQuad_bram (q : Nat) (x : QuadHw) : (setQuad s q x).bram = s.bram := rfl
@[simp] theorem setQuad_scr (q : Nat) (x : QuadHw) : (setQuad s q x).scr = s.scr := rfl
@[simp] theorem setQuad_pfeCheck (q : Nat) (x : QuadHw) : (setQuad s q x).pfeCheck = s.pfeCheck := rfl
@[simp] theorem setQuad_hotSince (q : Nat) (x : QuadHw) : (setQuad s q x).hotSince = s.hotSince := rfl
@[simp] theorem setQuad_upCycles (q : Nat) (x : QuadHw) : (setQuad s q x).upCycles = s.upCycles := rfl
@[simp] theorem setQuad_boot (q : Nat) (x : QuadHw) : (setQuad s q x).boot = s.boot := rfl
@[simp] theorem setQuad_perst (q : Nat) (x : QuadHw) : (setQuad s q x).perst = s.perst := rfl
@[simp] theorem setQuad_lockAt (q : Nat) (x : QuadHw) : (setQuad s q x).lockAt = s.lockAt := rfl
@[simp] theorem setQuad_hubFlits (q : Nat) (x : QuadHw) : (setQuad s q x).hubFlits = s.hubFlits := rfl
@[simp] theorem setQuad_rma (q : Nat) (x : QuadHw) : (setQuad s q x).rma = s.rma := rfl
@[simp] theorem setQuad_jtag (q : Nat) (x : QuadHw) : (setQuad s q x).jtag = s.jtag := rfl
@[simp] theorem setQuad_rowCopies (q : Nat) (x : QuadHw) : (setQuad s q x).rowCopies = s.rowCopies := rfl
@[simp] theorem setQuad_spareRows (q : Nat) (x : QuadHw) : (setQuad s q x).spareRows = s.spareRows := rfl
@[simp] theorem setQuad_spared (q : Nat) (x : QuadHw) : (setQuad s q x).spared = s.spared := rfl
@[simp] theorem setQuad_corrSeen (q : Nat) (x : QuadHw) : (setQuad s q x).corrSeen = s.corrSeen := rfl
@[simp] theorem setQuad_frPend (q : Nat) (x : QuadHw) : (setQuad s q x).frPend = s.frPend := rfl
@[simp] theorem setQuad_frSecond (q : Nat) (x : QuadHw) : (setQuad s q x).frSecond = s.frSecond := rfl
@[simp] theorem setQuad_frCount (q : Nat) (x : QuadHw) : (setQuad s q x).frCount = s.frCount := rfl
@[simp] theorem setQuad_freeCtr (q : Nat) (x : QuadHw) : (setQuad s q x).freeCtr = s.freeCtr := rfl
@[simp] theorem setQuad_out (q : Nat) (x : QuadHw) : (setQuad s q x).out = s.out := rfl

/-! ## setPhx -/

@[simp] theorem setPhx_pending (p : Nat) (x : PhxHw) : (setPhx s p x).pending = s.pending := rfl
@[simp] theorem setPhx_ct (p : Nat) (x : PhxHw) : (setPhx s p x).ct = s.ct := rfl
@[simp] theorem setPhx_subPs (p : Nat) (x : PhxHw) : (setPhx s p x).subPs = s.subPs := rfl
@[simp] theorem setPhx_lks (p : Nat) (x : PhxHw) : (setPhx s p x).lks = s.lks := rfl
@[simp] theorem setPhx_regs (p : Nat) (x : PhxHw) : (setPhx s p x).regs = s.regs := rfl
@[simp] theorem setPhx_locked (p : Nat) (x : PhxHw) : (setPhx s p x).locked = s.locked := rfl
@[simp] theorem setPhx_heldLow (p : Nat) (x : PhxHw) : (setPhx s p x).heldLow = s.heldLow := rfl
@[simp] theorem setPhx_latchedHigh (p : Nat) (x : PhxHw) : (setPhx s p x).latchedHigh = s.latchedHigh := rfl
@[simp] theorem setPhx_mem (p : Nat) (x : PhxHw) : (setPhx s p x).mem = s.mem := rfl
@[simp] theorem setPhx_poison (p : Nat) (x : PhxHw) : (setPhx s p x).poison = s.poison := rfl
@[simp] theorem setPhx_errs (p : Nat) (x : PhxHw) : (setPhx s p x).errs = s.errs := rfl
@[simp] theorem setPhx_pins (p : Nat) (x : PhxHw) : (setPhx s p x).pins = s.pins := rfl
@[simp] theorem setPhx_evtFifo (p : Nat) (x : PhxHw) : (setPhx s p x).evtFifo = s.evtFifo := rfl
@[simp] theorem setPhx_ints (p : Nat) (x : PhxHw) : (setPhx s p x).ints = s.ints := rfl
@[simp] theorem setPhx_cfg (p : Nat) (x : PhxHw) : (setPhx s p x).cfg = s.cfg := rfl
@[simp] theorem setPhx_doe (p : Nat) (x : PhxHw) : (setPhx s p x).doe = s.doe := rfl
@[simp] theorem setPhx_rings (p : Nat) (x : PhxHw) : (setPhx s p x).rings = s.rings := rfl
@[simp] theorem setPhx_ucmds (p : Nat) (x : PhxHw) : (setPhx s p x).ucmds = s.ucmds := rfl
@[simp] theorem setPhx_plans (p : Nat) (x : PhxHw) : (setPhx s p x).plans = s.plans := rfl
@[simp] theorem setPhx_planSeq (p : Nat) (x : PhxHw) : (setPhx s p x).planSeq = s.planSeq := rfl
@[simp] theorem setPhx_jobs (p : Nat) (x : PhxHw) : (setPhx s p x).jobs = s.jobs := rfl
@[simp] theorem setPhx_notices (p : Nat) (x : PhxHw) : (setPhx s p x).notices = s.notices := rfl
@[simp] theorem setPhx_xfers (p : Nat) (x : PhxHw) : (setPhx s p x).xfers = s.xfers := rfl
@[simp] theorem setPhx_retrains (p : Nat) (x : PhxHw) : (setPhx s p x).retrains = s.retrains := rfl
@[simp] theorem setPhx_retrainDue (p : Nat) (x : PhxHw) : (setPhx s p x).retrainDue = s.retrainDue := rfl
@[simp] theorem setPhx_progs (p : Nat) (x : PhxHw) : (setPhx s p x).progs = s.progs := rfl
@[simp] theorem setPhx_progSeq (p : Nat) (x : PhxHw) : (setPhx s p x).progSeq = s.progSeq := rfl
@[simp] theorem setPhx_tiles (p : Nat) (x : PhxHw) : (setPhx s p x).tiles = s.tiles := rfl
@[simp] theorem setPhx_dma (p : Nat) (x : PhxHw) : (setPhx s p x).dma = s.dma := rfl
@[simp] theorem setPhx_cvu (p : Nat) (x : PhxHw) : (setPhx s p x).cvu = s.cvu := rfl
@[simp] theorem setPhx_cvuIn (p : Nat) (x : PhxHw) : (setPhx s p x).cvuIn = s.cvuIn := rfl
@[simp] theorem setPhx_clusters (p : Nat) (x : PhxHw) : (setPhx s p x).clusters = s.clusters := rfl
@[simp] theorem setPhx_tileHw (p : Nat) (x : PhxHw) : (setPhx s p x).tileHw = s.tileHw := rfl
@[simp] theorem setPhx_raises (p : Nat) (x : PhxHw) : (setPhx s p x).raises = s.raises := rfl
@[simp] theorem setPhx_rails (p : Nat) (x : PhxHw) : (setPhx s p x).rails = s.rails := rfl
@[simp] theorem setPhx_quads (p : Nat) (x : PhxHw) : (setPhx s p x).quads = s.quads := rfl
@[simp] theorem setPhx_biOut (p : Nat) (x : PhxHw) : (setPhx s p x).biOut = s.biOut := rfl
@[simp] theorem setPhx_waits (p : Nat) (x : PhxHw) : (setPhx s p x).waits = s.waits := rfl
@[simp] theorem setPhx_fox (p : Nat) (x : PhxHw) : (setPhx s p x).fox = s.fox := rfl
@[simp] theorem setPhx_fw (p : Nat) (x : PhxHw) : (setPhx s p x).fw = s.fw := rfl
@[simp] theorem setPhx_pageBuf (p : Nat) (x : PhxHw) : (setPhx s p x).pageBuf = s.pageBuf := rfl
@[simp] theorem setPhx_sf (p : Nat) (x : PhxHw) : (setPhx s p x).sf = s.sf := rfl
@[simp] theorem setPhx_linkHeld (p : Nat) (x : PhxHw) : (setPhx s p x).linkHeld = s.linkHeld := rfl
@[simp] theorem setPhx_rxGroups (p : Nat) (x : PhxHw) : (setPhx s p x).rxGroups = s.rxGroups := rfl
@[simp] theorem setPhx_rxPrbs (p : Nat) (x : PhxHw) : (setPhx s p x).rxPrbs = s.rxPrbs := rfl
@[simp] theorem setPhx_laneHw (p : Nat) (x : PhxHw) : (setPhx s p x).laneHw = s.laneHw := rfl
@[simp] theorem setPhx_txGroups (p : Nat) (x : PhxHw) : (setPhx s p x).txGroups = s.txGroups := rfl
@[simp] theorem setPhx_sentGroups (p : Nat) (x : PhxHw) : (setPhx s p x).sentGroups = s.sentGroups := rfl
@[simp] theorem setPhx_captures (p : Nat) (x : PhxHw) : (setPhx s p x).captures = s.captures := rfl
@[simp] theorem setPhx_tddLive (p : Nat) (x : PhxHw) : (setPhx s p x).tddLive = s.tddLive := rfl
@[simp] theorem setPhx_tddPrev (p : Nat) (x : PhxHw) : (setPhx s p x).tddPrev = s.tddPrev := rfl
@[simp] theorem setPhx_tddAt (p : Nat) (x : PhxHw) : (setPhx s p x).tddAt = s.tddAt := rfl
@[simp] theorem setPhx_tddPins (p : Nat) (x : PhxHw) : (setPhx s p x).tddPins = s.tddPins := rfl
@[simp] theorem setPhx_pfeFrom (p : Nat) (x : PhxHw) : (setPhx s p x).pfeFrom = s.pfeFrom := rfl
@[simp] theorem setPhx_spareTrig (p : Nat) (x : PhxHw) : (setPhx s p x).spareTrig = s.spareTrig := rfl
@[simp] theorem setPhx_hdm (p : Nat) (x : PhxHw) : (setPhx s p x).hdm = s.hdm := rfl
@[simp] theorem setPhx_comp (p : Nat) (x : PhxHw) : (setPhx s p x).comp = s.comp := rfl
@[simp] theorem setPhx_recs (p : Nat) (x : PhxHw) : (setPhx s p x).recs = s.recs := rfl
@[simp] theorem setPhx_tddDue (p : Nat) (x : PhxHw) : (setPhx s p x).tddDue = s.tddDue := rfl
@[simp] theorem setPhx_portGrp (p : Nat) (x : PhxHw) : (setPhx s p x).portGrp = s.portGrp := rfl
@[simp] theorem setPhx_delayLog (p : Nat) (x : PhxHw) : (setPhx s p x).delayLog = s.delayLog := rfl
@[simp] theorem setPhx_rampSent (p : Nat) (x : PhxHw) : (setPhx s p x).rampSent = s.rampSent := rfl
@[simp] theorem setPhx_frames (p : Nat) (x : PhxHw) : (setPhx s p x).frames = s.frames := rfl
@[simp] theorem setPhx_care (p : Nat) (x : PhxHw) : (setPhx s p x).care = s.care := rfl
@[simp] theorem setPhx_bram (p : Nat) (x : PhxHw) : (setPhx s p x).bram = s.bram := rfl
@[simp] theorem setPhx_scr (p : Nat) (x : PhxHw) : (setPhx s p x).scr = s.scr := rfl
@[simp] theorem setPhx_pfeCheck (p : Nat) (x : PhxHw) : (setPhx s p x).pfeCheck = s.pfeCheck := rfl
@[simp] theorem setPhx_hotSince (p : Nat) (x : PhxHw) : (setPhx s p x).hotSince = s.hotSince := rfl
@[simp] theorem setPhx_upCycles (p : Nat) (x : PhxHw) : (setPhx s p x).upCycles = s.upCycles := rfl
@[simp] theorem setPhx_boot (p : Nat) (x : PhxHw) : (setPhx s p x).boot = s.boot := rfl
@[simp] theorem setPhx_perst (p : Nat) (x : PhxHw) : (setPhx s p x).perst = s.perst := rfl
@[simp] theorem setPhx_lockAt (p : Nat) (x : PhxHw) : (setPhx s p x).lockAt = s.lockAt := rfl
@[simp] theorem setPhx_hubFlits (p : Nat) (x : PhxHw) : (setPhx s p x).hubFlits = s.hubFlits := rfl
@[simp] theorem setPhx_rma (p : Nat) (x : PhxHw) : (setPhx s p x).rma = s.rma := rfl
@[simp] theorem setPhx_jtag (p : Nat) (x : PhxHw) : (setPhx s p x).jtag = s.jtag := rfl
@[simp] theorem setPhx_rowCopies (p : Nat) (x : PhxHw) : (setPhx s p x).rowCopies = s.rowCopies := rfl
@[simp] theorem setPhx_spareRows (p : Nat) (x : PhxHw) : (setPhx s p x).spareRows = s.spareRows := rfl
@[simp] theorem setPhx_spared (p : Nat) (x : PhxHw) : (setPhx s p x).spared = s.spared := rfl
@[simp] theorem setPhx_corrSeen (p : Nat) (x : PhxHw) : (setPhx s p x).corrSeen = s.corrSeen := rfl
@[simp] theorem setPhx_frPend (p : Nat) (x : PhxHw) : (setPhx s p x).frPend = s.frPend := rfl
@[simp] theorem setPhx_frSecond (p : Nat) (x : PhxHw) : (setPhx s p x).frSecond = s.frSecond := rfl
@[simp] theorem setPhx_frCount (p : Nat) (x : PhxHw) : (setPhx s p x).frCount = s.frCount := rfl
@[simp] theorem setPhx_freeCtr (p : Nat) (x : PhxHw) : (setPhx s p x).freeCtr = s.freeCtr := rfl
@[simp] theorem setPhx_out (p : Nat) (x : PhxHw) : (setPhx s p x).out = s.out := rfl

/-! ## setScr -/

@[simp] theorem setScr_pending (z : Nat) (x : ScrHw) : (setScr s z x).pending = s.pending := rfl
@[simp] theorem setScr_ct (z : Nat) (x : ScrHw) : (setScr s z x).ct = s.ct := rfl
@[simp] theorem setScr_subPs (z : Nat) (x : ScrHw) : (setScr s z x).subPs = s.subPs := rfl
@[simp] theorem setScr_lks (z : Nat) (x : ScrHw) : (setScr s z x).lks = s.lks := rfl
@[simp] theorem setScr_regs (z : Nat) (x : ScrHw) : (setScr s z x).regs = s.regs := rfl
@[simp] theorem setScr_locked (z : Nat) (x : ScrHw) : (setScr s z x).locked = s.locked := rfl
@[simp] theorem setScr_heldLow (z : Nat) (x : ScrHw) : (setScr s z x).heldLow = s.heldLow := rfl
@[simp] theorem setScr_latchedHigh (z : Nat) (x : ScrHw) : (setScr s z x).latchedHigh = s.latchedHigh := rfl
@[simp] theorem setScr_mem (z : Nat) (x : ScrHw) : (setScr s z x).mem = s.mem := rfl
@[simp] theorem setScr_poison (z : Nat) (x : ScrHw) : (setScr s z x).poison = s.poison := rfl
@[simp] theorem setScr_errs (z : Nat) (x : ScrHw) : (setScr s z x).errs = s.errs := rfl
@[simp] theorem setScr_pins (z : Nat) (x : ScrHw) : (setScr s z x).pins = s.pins := rfl
@[simp] theorem setScr_evtFifo (z : Nat) (x : ScrHw) : (setScr s z x).evtFifo = s.evtFifo := rfl
@[simp] theorem setScr_ints (z : Nat) (x : ScrHw) : (setScr s z x).ints = s.ints := rfl
@[simp] theorem setScr_cfg (z : Nat) (x : ScrHw) : (setScr s z x).cfg = s.cfg := rfl
@[simp] theorem setScr_doe (z : Nat) (x : ScrHw) : (setScr s z x).doe = s.doe := rfl
@[simp] theorem setScr_rings (z : Nat) (x : ScrHw) : (setScr s z x).rings = s.rings := rfl
@[simp] theorem setScr_ucmds (z : Nat) (x : ScrHw) : (setScr s z x).ucmds = s.ucmds := rfl
@[simp] theorem setScr_plans (z : Nat) (x : ScrHw) : (setScr s z x).plans = s.plans := rfl
@[simp] theorem setScr_planSeq (z : Nat) (x : ScrHw) : (setScr s z x).planSeq = s.planSeq := rfl
@[simp] theorem setScr_jobs (z : Nat) (x : ScrHw) : (setScr s z x).jobs = s.jobs := rfl
@[simp] theorem setScr_notices (z : Nat) (x : ScrHw) : (setScr s z x).notices = s.notices := rfl
@[simp] theorem setScr_xfers (z : Nat) (x : ScrHw) : (setScr s z x).xfers = s.xfers := rfl
@[simp] theorem setScr_retrains (z : Nat) (x : ScrHw) : (setScr s z x).retrains = s.retrains := rfl
@[simp] theorem setScr_retrainDue (z : Nat) (x : ScrHw) : (setScr s z x).retrainDue = s.retrainDue := rfl
@[simp] theorem setScr_progs (z : Nat) (x : ScrHw) : (setScr s z x).progs = s.progs := rfl
@[simp] theorem setScr_progSeq (z : Nat) (x : ScrHw) : (setScr s z x).progSeq = s.progSeq := rfl
@[simp] theorem setScr_tiles (z : Nat) (x : ScrHw) : (setScr s z x).tiles = s.tiles := rfl
@[simp] theorem setScr_dma (z : Nat) (x : ScrHw) : (setScr s z x).dma = s.dma := rfl
@[simp] theorem setScr_cvu (z : Nat) (x : ScrHw) : (setScr s z x).cvu = s.cvu := rfl
@[simp] theorem setScr_cvuIn (z : Nat) (x : ScrHw) : (setScr s z x).cvuIn = s.cvuIn := rfl
@[simp] theorem setScr_clusters (z : Nat) (x : ScrHw) : (setScr s z x).clusters = s.clusters := rfl
@[simp] theorem setScr_tileHw (z : Nat) (x : ScrHw) : (setScr s z x).tileHw = s.tileHw := rfl
@[simp] theorem setScr_raises (z : Nat) (x : ScrHw) : (setScr s z x).raises = s.raises := rfl
@[simp] theorem setScr_rails (z : Nat) (x : ScrHw) : (setScr s z x).rails = s.rails := rfl
@[simp] theorem setScr_quads (z : Nat) (x : ScrHw) : (setScr s z x).quads = s.quads := rfl
@[simp] theorem setScr_biOut (z : Nat) (x : ScrHw) : (setScr s z x).biOut = s.biOut := rfl
@[simp] theorem setScr_waits (z : Nat) (x : ScrHw) : (setScr s z x).waits = s.waits := rfl
@[simp] theorem setScr_fox (z : Nat) (x : ScrHw) : (setScr s z x).fox = s.fox := rfl
@[simp] theorem setScr_fw (z : Nat) (x : ScrHw) : (setScr s z x).fw = s.fw := rfl
@[simp] theorem setScr_pageBuf (z : Nat) (x : ScrHw) : (setScr s z x).pageBuf = s.pageBuf := rfl
@[simp] theorem setScr_sf (z : Nat) (x : ScrHw) : (setScr s z x).sf = s.sf := rfl
@[simp] theorem setScr_linkHeld (z : Nat) (x : ScrHw) : (setScr s z x).linkHeld = s.linkHeld := rfl
@[simp] theorem setScr_rxGroups (z : Nat) (x : ScrHw) : (setScr s z x).rxGroups = s.rxGroups := rfl
@[simp] theorem setScr_rxPrbs (z : Nat) (x : ScrHw) : (setScr s z x).rxPrbs = s.rxPrbs := rfl
@[simp] theorem setScr_laneHw (z : Nat) (x : ScrHw) : (setScr s z x).laneHw = s.laneHw := rfl
@[simp] theorem setScr_txGroups (z : Nat) (x : ScrHw) : (setScr s z x).txGroups = s.txGroups := rfl
@[simp] theorem setScr_sentGroups (z : Nat) (x : ScrHw) : (setScr s z x).sentGroups = s.sentGroups := rfl
@[simp] theorem setScr_captures (z : Nat) (x : ScrHw) : (setScr s z x).captures = s.captures := rfl
@[simp] theorem setScr_tddLive (z : Nat) (x : ScrHw) : (setScr s z x).tddLive = s.tddLive := rfl
@[simp] theorem setScr_tddPrev (z : Nat) (x : ScrHw) : (setScr s z x).tddPrev = s.tddPrev := rfl
@[simp] theorem setScr_tddAt (z : Nat) (x : ScrHw) : (setScr s z x).tddAt = s.tddAt := rfl
@[simp] theorem setScr_tddPins (z : Nat) (x : ScrHw) : (setScr s z x).tddPins = s.tddPins := rfl
@[simp] theorem setScr_pfeFrom (z : Nat) (x : ScrHw) : (setScr s z x).pfeFrom = s.pfeFrom := rfl
@[simp] theorem setScr_spareTrig (z : Nat) (x : ScrHw) : (setScr s z x).spareTrig = s.spareTrig := rfl
@[simp] theorem setScr_hdm (z : Nat) (x : ScrHw) : (setScr s z x).hdm = s.hdm := rfl
@[simp] theorem setScr_comp (z : Nat) (x : ScrHw) : (setScr s z x).comp = s.comp := rfl
@[simp] theorem setScr_recs (z : Nat) (x : ScrHw) : (setScr s z x).recs = s.recs := rfl
@[simp] theorem setScr_tddDue (z : Nat) (x : ScrHw) : (setScr s z x).tddDue = s.tddDue := rfl
@[simp] theorem setScr_portGrp (z : Nat) (x : ScrHw) : (setScr s z x).portGrp = s.portGrp := rfl
@[simp] theorem setScr_delayLog (z : Nat) (x : ScrHw) : (setScr s z x).delayLog = s.delayLog := rfl
@[simp] theorem setScr_rampSent (z : Nat) (x : ScrHw) : (setScr s z x).rampSent = s.rampSent := rfl
@[simp] theorem setScr_phx (z : Nat) (x : ScrHw) : (setScr s z x).phx = s.phx := rfl
@[simp] theorem setScr_frames (z : Nat) (x : ScrHw) : (setScr s z x).frames = s.frames := rfl
@[simp] theorem setScr_care (z : Nat) (x : ScrHw) : (setScr s z x).care = s.care := rfl
@[simp] theorem setScr_bram (z : Nat) (x : ScrHw) : (setScr s z x).bram = s.bram := rfl
@[simp] theorem setScr_pfeCheck (z : Nat) (x : ScrHw) : (setScr s z x).pfeCheck = s.pfeCheck := rfl
@[simp] theorem setScr_hotSince (z : Nat) (x : ScrHw) : (setScr s z x).hotSince = s.hotSince := rfl
@[simp] theorem setScr_upCycles (z : Nat) (x : ScrHw) : (setScr s z x).upCycles = s.upCycles := rfl
@[simp] theorem setScr_boot (z : Nat) (x : ScrHw) : (setScr s z x).boot = s.boot := rfl
@[simp] theorem setScr_perst (z : Nat) (x : ScrHw) : (setScr s z x).perst = s.perst := rfl
@[simp] theorem setScr_lockAt (z : Nat) (x : ScrHw) : (setScr s z x).lockAt = s.lockAt := rfl
@[simp] theorem setScr_hubFlits (z : Nat) (x : ScrHw) : (setScr s z x).hubFlits = s.hubFlits := rfl
@[simp] theorem setScr_rma (z : Nat) (x : ScrHw) : (setScr s z x).rma = s.rma := rfl
@[simp] theorem setScr_jtag (z : Nat) (x : ScrHw) : (setScr s z x).jtag = s.jtag := rfl
@[simp] theorem setScr_rowCopies (z : Nat) (x : ScrHw) : (setScr s z x).rowCopies = s.rowCopies := rfl
@[simp] theorem setScr_spareRows (z : Nat) (x : ScrHw) : (setScr s z x).spareRows = s.spareRows := rfl
@[simp] theorem setScr_spared (z : Nat) (x : ScrHw) : (setScr s z x).spared = s.spared := rfl
@[simp] theorem setScr_corrSeen (z : Nat) (x : ScrHw) : (setScr s z x).corrSeen = s.corrSeen := rfl
@[simp] theorem setScr_frPend (z : Nat) (x : ScrHw) : (setScr s z x).frPend = s.frPend := rfl
@[simp] theorem setScr_frSecond (z : Nat) (x : ScrHw) : (setScr s z x).frSecond = s.frSecond := rfl
@[simp] theorem setScr_frCount (z : Nat) (x : ScrHw) : (setScr s z x).frCount = s.frCount := rfl
@[simp] theorem setScr_freeCtr (z : Nat) (x : ScrHw) : (setScr s z x).freeCtr = s.freeCtr := rfl
@[simp] theorem setScr_out (z : Nat) (x : ScrHw) : (setScr s z x).out = s.out := rfl

/-! ## setCaptures -/

@[simp] theorem setCaptures_pending (ap : Nat) (c : List Capture) : (setCaptures s ap c).pending = s.pending := rfl
@[simp] theorem setCaptures_ct (ap : Nat) (c : List Capture) : (setCaptures s ap c).ct = s.ct := rfl
@[simp] theorem setCaptures_subPs (ap : Nat) (c : List Capture) : (setCaptures s ap c).subPs = s.subPs := rfl
@[simp] theorem setCaptures_lks (ap : Nat) (c : List Capture) : (setCaptures s ap c).lks = s.lks := rfl
@[simp] theorem setCaptures_regs (ap : Nat) (c : List Capture) : (setCaptures s ap c).regs = s.regs := rfl
@[simp] theorem setCaptures_locked (ap : Nat) (c : List Capture) : (setCaptures s ap c).locked = s.locked := rfl
@[simp] theorem setCaptures_heldLow (ap : Nat) (c : List Capture) : (setCaptures s ap c).heldLow = s.heldLow := rfl
@[simp] theorem setCaptures_latchedHigh (ap : Nat) (c : List Capture) : (setCaptures s ap c).latchedHigh = s.latchedHigh := rfl
@[simp] theorem setCaptures_mem (ap : Nat) (c : List Capture) : (setCaptures s ap c).mem = s.mem := rfl
@[simp] theorem setCaptures_poison (ap : Nat) (c : List Capture) : (setCaptures s ap c).poison = s.poison := rfl
@[simp] theorem setCaptures_errs (ap : Nat) (c : List Capture) : (setCaptures s ap c).errs = s.errs := rfl
@[simp] theorem setCaptures_pins (ap : Nat) (c : List Capture) : (setCaptures s ap c).pins = s.pins := rfl
@[simp] theorem setCaptures_evtFifo (ap : Nat) (c : List Capture) : (setCaptures s ap c).evtFifo = s.evtFifo := rfl
@[simp] theorem setCaptures_ints (ap : Nat) (c : List Capture) : (setCaptures s ap c).ints = s.ints := rfl
@[simp] theorem setCaptures_cfg (ap : Nat) (c : List Capture) : (setCaptures s ap c).cfg = s.cfg := rfl
@[simp] theorem setCaptures_doe (ap : Nat) (c : List Capture) : (setCaptures s ap c).doe = s.doe := rfl
@[simp] theorem setCaptures_rings (ap : Nat) (c : List Capture) : (setCaptures s ap c).rings = s.rings := rfl
@[simp] theorem setCaptures_ucmds (ap : Nat) (c : List Capture) : (setCaptures s ap c).ucmds = s.ucmds := rfl
@[simp] theorem setCaptures_plans (ap : Nat) (c : List Capture) : (setCaptures s ap c).plans = s.plans := rfl
@[simp] theorem setCaptures_planSeq (ap : Nat) (c : List Capture) : (setCaptures s ap c).planSeq = s.planSeq := rfl
@[simp] theorem setCaptures_jobs (ap : Nat) (c : List Capture) : (setCaptures s ap c).jobs = s.jobs := rfl
@[simp] theorem setCaptures_notices (ap : Nat) (c : List Capture) : (setCaptures s ap c).notices = s.notices := rfl
@[simp] theorem setCaptures_xfers (ap : Nat) (c : List Capture) : (setCaptures s ap c).xfers = s.xfers := rfl
@[simp] theorem setCaptures_retrains (ap : Nat) (c : List Capture) : (setCaptures s ap c).retrains = s.retrains := rfl
@[simp] theorem setCaptures_retrainDue (ap : Nat) (c : List Capture) : (setCaptures s ap c).retrainDue = s.retrainDue := rfl
@[simp] theorem setCaptures_progs (ap : Nat) (c : List Capture) : (setCaptures s ap c).progs = s.progs := rfl
@[simp] theorem setCaptures_progSeq (ap : Nat) (c : List Capture) : (setCaptures s ap c).progSeq = s.progSeq := rfl
@[simp] theorem setCaptures_tiles (ap : Nat) (c : List Capture) : (setCaptures s ap c).tiles = s.tiles := rfl
@[simp] theorem setCaptures_dma (ap : Nat) (c : List Capture) : (setCaptures s ap c).dma = s.dma := rfl
@[simp] theorem setCaptures_cvu (ap : Nat) (c : List Capture) : (setCaptures s ap c).cvu = s.cvu := rfl
@[simp] theorem setCaptures_cvuIn (ap : Nat) (c : List Capture) : (setCaptures s ap c).cvuIn = s.cvuIn := rfl
@[simp] theorem setCaptures_clusters (ap : Nat) (c : List Capture) : (setCaptures s ap c).clusters = s.clusters := rfl
@[simp] theorem setCaptures_tileHw (ap : Nat) (c : List Capture) : (setCaptures s ap c).tileHw = s.tileHw := rfl
@[simp] theorem setCaptures_raises (ap : Nat) (c : List Capture) : (setCaptures s ap c).raises = s.raises := rfl
@[simp] theorem setCaptures_rails (ap : Nat) (c : List Capture) : (setCaptures s ap c).rails = s.rails := rfl
@[simp] theorem setCaptures_quads (ap : Nat) (c : List Capture) : (setCaptures s ap c).quads = s.quads := rfl
@[simp] theorem setCaptures_biOut (ap : Nat) (c : List Capture) : (setCaptures s ap c).biOut = s.biOut := rfl
@[simp] theorem setCaptures_waits (ap : Nat) (c : List Capture) : (setCaptures s ap c).waits = s.waits := rfl
@[simp] theorem setCaptures_fox (ap : Nat) (c : List Capture) : (setCaptures s ap c).fox = s.fox := rfl
@[simp] theorem setCaptures_fw (ap : Nat) (c : List Capture) : (setCaptures s ap c).fw = s.fw := rfl
@[simp] theorem setCaptures_pageBuf (ap : Nat) (c : List Capture) : (setCaptures s ap c).pageBuf = s.pageBuf := rfl
@[simp] theorem setCaptures_sf (ap : Nat) (c : List Capture) : (setCaptures s ap c).sf = s.sf := rfl
@[simp] theorem setCaptures_linkHeld (ap : Nat) (c : List Capture) : (setCaptures s ap c).linkHeld = s.linkHeld := rfl
@[simp] theorem setCaptures_rxGroups (ap : Nat) (c : List Capture) : (setCaptures s ap c).rxGroups = s.rxGroups := rfl
@[simp] theorem setCaptures_rxPrbs (ap : Nat) (c : List Capture) : (setCaptures s ap c).rxPrbs = s.rxPrbs := rfl
@[simp] theorem setCaptures_laneHw (ap : Nat) (c : List Capture) : (setCaptures s ap c).laneHw = s.laneHw := rfl
@[simp] theorem setCaptures_txGroups (ap : Nat) (c : List Capture) : (setCaptures s ap c).txGroups = s.txGroups := rfl
@[simp] theorem setCaptures_sentGroups (ap : Nat) (c : List Capture) : (setCaptures s ap c).sentGroups = s.sentGroups := rfl
@[simp] theorem setCaptures_scr (ap : Nat) (c : List Capture) : (setCaptures s ap c).scr = s.scr := rfl
@[simp] theorem setCaptures_tddLive (ap : Nat) (c : List Capture) : (setCaptures s ap c).tddLive = s.tddLive := rfl
@[simp] theorem setCaptures_tddPrev (ap : Nat) (c : List Capture) : (setCaptures s ap c).tddPrev = s.tddPrev := rfl
@[simp] theorem setCaptures_tddAt (ap : Nat) (c : List Capture) : (setCaptures s ap c).tddAt = s.tddAt := rfl
@[simp] theorem setCaptures_tddPins (ap : Nat) (c : List Capture) : (setCaptures s ap c).tddPins = s.tddPins := rfl
@[simp] theorem setCaptures_pfeFrom (ap : Nat) (c : List Capture) : (setCaptures s ap c).pfeFrom = s.pfeFrom := rfl
@[simp] theorem setCaptures_spareTrig (ap : Nat) (c : List Capture) : (setCaptures s ap c).spareTrig = s.spareTrig := rfl
@[simp] theorem setCaptures_hdm (ap : Nat) (c : List Capture) : (setCaptures s ap c).hdm = s.hdm := rfl
@[simp] theorem setCaptures_comp (ap : Nat) (c : List Capture) : (setCaptures s ap c).comp = s.comp := rfl
@[simp] theorem setCaptures_recs (ap : Nat) (c : List Capture) : (setCaptures s ap c).recs = s.recs := rfl
@[simp] theorem setCaptures_tddDue (ap : Nat) (c : List Capture) : (setCaptures s ap c).tddDue = s.tddDue := rfl
@[simp] theorem setCaptures_portGrp (ap : Nat) (c : List Capture) : (setCaptures s ap c).portGrp = s.portGrp := rfl
@[simp] theorem setCaptures_delayLog (ap : Nat) (c : List Capture) : (setCaptures s ap c).delayLog = s.delayLog := rfl
@[simp] theorem setCaptures_rampSent (ap : Nat) (c : List Capture) : (setCaptures s ap c).rampSent = s.rampSent := rfl
@[simp] theorem setCaptures_phx (ap : Nat) (c : List Capture) : (setCaptures s ap c).phx = s.phx := rfl
@[simp] theorem setCaptures_frames (ap : Nat) (c : List Capture) : (setCaptures s ap c).frames = s.frames := rfl
@[simp] theorem setCaptures_care (ap : Nat) (c : List Capture) : (setCaptures s ap c).care = s.care := rfl
@[simp] theorem setCaptures_bram (ap : Nat) (c : List Capture) : (setCaptures s ap c).bram = s.bram := rfl
@[simp] theorem setCaptures_pfeCheck (ap : Nat) (c : List Capture) : (setCaptures s ap c).pfeCheck = s.pfeCheck := rfl
@[simp] theorem setCaptures_hotSince (ap : Nat) (c : List Capture) : (setCaptures s ap c).hotSince = s.hotSince := rfl
@[simp] theorem setCaptures_upCycles (ap : Nat) (c : List Capture) : (setCaptures s ap c).upCycles = s.upCycles := rfl
@[simp] theorem setCaptures_boot (ap : Nat) (c : List Capture) : (setCaptures s ap c).boot = s.boot := rfl
@[simp] theorem setCaptures_perst (ap : Nat) (c : List Capture) : (setCaptures s ap c).perst = s.perst := rfl
@[simp] theorem setCaptures_lockAt (ap : Nat) (c : List Capture) : (setCaptures s ap c).lockAt = s.lockAt := rfl
@[simp] theorem setCaptures_hubFlits (ap : Nat) (c : List Capture) : (setCaptures s ap c).hubFlits = s.hubFlits := rfl
@[simp] theorem setCaptures_rma (ap : Nat) (c : List Capture) : (setCaptures s ap c).rma = s.rma := rfl
@[simp] theorem setCaptures_jtag (ap : Nat) (c : List Capture) : (setCaptures s ap c).jtag = s.jtag := rfl
@[simp] theorem setCaptures_rowCopies (ap : Nat) (c : List Capture) : (setCaptures s ap c).rowCopies = s.rowCopies := rfl
@[simp] theorem setCaptures_spareRows (ap : Nat) (c : List Capture) : (setCaptures s ap c).spareRows = s.spareRows := rfl
@[simp] theorem setCaptures_spared (ap : Nat) (c : List Capture) : (setCaptures s ap c).spared = s.spared := rfl
@[simp] theorem setCaptures_corrSeen (ap : Nat) (c : List Capture) : (setCaptures s ap c).corrSeen = s.corrSeen := rfl
@[simp] theorem setCaptures_frPend (ap : Nat) (c : List Capture) : (setCaptures s ap c).frPend = s.frPend := rfl
@[simp] theorem setCaptures_frSecond (ap : Nat) (c : List Capture) : (setCaptures s ap c).frSecond = s.frSecond := rfl
@[simp] theorem setCaptures_frCount (ap : Nat) (c : List Capture) : (setCaptures s ap c).frCount = s.frCount := rfl
@[simp] theorem setCaptures_freeCtr (ap : Nat) (c : List Capture) : (setCaptures s ap c).freeCtr = s.freeCtr := rfl
@[simp] theorem setCaptures_out (ap : Nat) (c : List Capture) : (setCaptures s ap c).out = s.out := rfl

/-! ## setDoe -/

@[simp] theorem setDoe_pending (i : Nat) (d : Doe) : (setDoe s i d).pending = s.pending := rfl
@[simp] theorem setDoe_ct (i : Nat) (d : Doe) : (setDoe s i d).ct = s.ct := rfl
@[simp] theorem setDoe_subPs (i : Nat) (d : Doe) : (setDoe s i d).subPs = s.subPs := rfl
@[simp] theorem setDoe_lks (i : Nat) (d : Doe) : (setDoe s i d).lks = s.lks := rfl
@[simp] theorem setDoe_regs (i : Nat) (d : Doe) : (setDoe s i d).regs = s.regs := rfl
@[simp] theorem setDoe_locked (i : Nat) (d : Doe) : (setDoe s i d).locked = s.locked := rfl
@[simp] theorem setDoe_heldLow (i : Nat) (d : Doe) : (setDoe s i d).heldLow = s.heldLow := rfl
@[simp] theorem setDoe_latchedHigh (i : Nat) (d : Doe) : (setDoe s i d).latchedHigh = s.latchedHigh := rfl
@[simp] theorem setDoe_mem (i : Nat) (d : Doe) : (setDoe s i d).mem = s.mem := rfl
@[simp] theorem setDoe_poison (i : Nat) (d : Doe) : (setDoe s i d).poison = s.poison := rfl
@[simp] theorem setDoe_errs (i : Nat) (d : Doe) : (setDoe s i d).errs = s.errs := rfl
@[simp] theorem setDoe_pins (i : Nat) (d : Doe) : (setDoe s i d).pins = s.pins := rfl
@[simp] theorem setDoe_evtFifo (i : Nat) (d : Doe) : (setDoe s i d).evtFifo = s.evtFifo := rfl
@[simp] theorem setDoe_ints (i : Nat) (d : Doe) : (setDoe s i d).ints = s.ints := rfl
@[simp] theorem setDoe_cfg (i : Nat) (d : Doe) : (setDoe s i d).cfg = s.cfg := rfl
@[simp] theorem setDoe_rings (i : Nat) (d : Doe) : (setDoe s i d).rings = s.rings := rfl
@[simp] theorem setDoe_ucmds (i : Nat) (d : Doe) : (setDoe s i d).ucmds = s.ucmds := rfl
@[simp] theorem setDoe_plans (i : Nat) (d : Doe) : (setDoe s i d).plans = s.plans := rfl
@[simp] theorem setDoe_planSeq (i : Nat) (d : Doe) : (setDoe s i d).planSeq = s.planSeq := rfl
@[simp] theorem setDoe_jobs (i : Nat) (d : Doe) : (setDoe s i d).jobs = s.jobs := rfl
@[simp] theorem setDoe_notices (i : Nat) (d : Doe) : (setDoe s i d).notices = s.notices := rfl
@[simp] theorem setDoe_xfers (i : Nat) (d : Doe) : (setDoe s i d).xfers = s.xfers := rfl
@[simp] theorem setDoe_retrains (i : Nat) (d : Doe) : (setDoe s i d).retrains = s.retrains := rfl
@[simp] theorem setDoe_retrainDue (i : Nat) (d : Doe) : (setDoe s i d).retrainDue = s.retrainDue := rfl
@[simp] theorem setDoe_progs (i : Nat) (d : Doe) : (setDoe s i d).progs = s.progs := rfl
@[simp] theorem setDoe_progSeq (i : Nat) (d : Doe) : (setDoe s i d).progSeq = s.progSeq := rfl
@[simp] theorem setDoe_tiles (i : Nat) (d : Doe) : (setDoe s i d).tiles = s.tiles := rfl
@[simp] theorem setDoe_dma (i : Nat) (d : Doe) : (setDoe s i d).dma = s.dma := rfl
@[simp] theorem setDoe_cvu (i : Nat) (d : Doe) : (setDoe s i d).cvu = s.cvu := rfl
@[simp] theorem setDoe_cvuIn (i : Nat) (d : Doe) : (setDoe s i d).cvuIn = s.cvuIn := rfl
@[simp] theorem setDoe_clusters (i : Nat) (d : Doe) : (setDoe s i d).clusters = s.clusters := rfl
@[simp] theorem setDoe_tileHw (i : Nat) (d : Doe) : (setDoe s i d).tileHw = s.tileHw := rfl
@[simp] theorem setDoe_raises (i : Nat) (d : Doe) : (setDoe s i d).raises = s.raises := rfl
@[simp] theorem setDoe_rails (i : Nat) (d : Doe) : (setDoe s i d).rails = s.rails := rfl
@[simp] theorem setDoe_quads (i : Nat) (d : Doe) : (setDoe s i d).quads = s.quads := rfl
@[simp] theorem setDoe_biOut (i : Nat) (d : Doe) : (setDoe s i d).biOut = s.biOut := rfl
@[simp] theorem setDoe_waits (i : Nat) (d : Doe) : (setDoe s i d).waits = s.waits := rfl
@[simp] theorem setDoe_fox (i : Nat) (d : Doe) : (setDoe s i d).fox = s.fox := rfl
@[simp] theorem setDoe_fw (i : Nat) (d : Doe) : (setDoe s i d).fw = s.fw := rfl
@[simp] theorem setDoe_pageBuf (i : Nat) (d : Doe) : (setDoe s i d).pageBuf = s.pageBuf := rfl
@[simp] theorem setDoe_sf (i : Nat) (d : Doe) : (setDoe s i d).sf = s.sf := rfl
@[simp] theorem setDoe_linkHeld (i : Nat) (d : Doe) : (setDoe s i d).linkHeld = s.linkHeld := rfl
@[simp] theorem setDoe_rxGroups (i : Nat) (d : Doe) : (setDoe s i d).rxGroups = s.rxGroups := rfl
@[simp] theorem setDoe_rxPrbs (i : Nat) (d : Doe) : (setDoe s i d).rxPrbs = s.rxPrbs := rfl
@[simp] theorem setDoe_laneHw (i : Nat) (d : Doe) : (setDoe s i d).laneHw = s.laneHw := rfl
@[simp] theorem setDoe_txGroups (i : Nat) (d : Doe) : (setDoe s i d).txGroups = s.txGroups := rfl
@[simp] theorem setDoe_sentGroups (i : Nat) (d : Doe) : (setDoe s i d).sentGroups = s.sentGroups := rfl
@[simp] theorem setDoe_captures (i : Nat) (d : Doe) : (setDoe s i d).captures = s.captures := rfl
@[simp] theorem setDoe_tddLive (i : Nat) (d : Doe) : (setDoe s i d).tddLive = s.tddLive := rfl
@[simp] theorem setDoe_tddPrev (i : Nat) (d : Doe) : (setDoe s i d).tddPrev = s.tddPrev := rfl
@[simp] theorem setDoe_tddAt (i : Nat) (d : Doe) : (setDoe s i d).tddAt = s.tddAt := rfl
@[simp] theorem setDoe_tddPins (i : Nat) (d : Doe) : (setDoe s i d).tddPins = s.tddPins := rfl
@[simp] theorem setDoe_pfeFrom (i : Nat) (d : Doe) : (setDoe s i d).pfeFrom = s.pfeFrom := rfl
@[simp] theorem setDoe_spareTrig (i : Nat) (d : Doe) : (setDoe s i d).spareTrig = s.spareTrig := rfl
@[simp] theorem setDoe_hdm (i : Nat) (d : Doe) : (setDoe s i d).hdm = s.hdm := rfl
@[simp] theorem setDoe_comp (i : Nat) (d : Doe) : (setDoe s i d).comp = s.comp := rfl
@[simp] theorem setDoe_recs (i : Nat) (d : Doe) : (setDoe s i d).recs = s.recs := rfl
@[simp] theorem setDoe_tddDue (i : Nat) (d : Doe) : (setDoe s i d).tddDue = s.tddDue := rfl
@[simp] theorem setDoe_portGrp (i : Nat) (d : Doe) : (setDoe s i d).portGrp = s.portGrp := rfl
@[simp] theorem setDoe_delayLog (i : Nat) (d : Doe) : (setDoe s i d).delayLog = s.delayLog := rfl
@[simp] theorem setDoe_rampSent (i : Nat) (d : Doe) : (setDoe s i d).rampSent = s.rampSent := rfl
@[simp] theorem setDoe_phx (i : Nat) (d : Doe) : (setDoe s i d).phx = s.phx := rfl
@[simp] theorem setDoe_frames (i : Nat) (d : Doe) : (setDoe s i d).frames = s.frames := rfl
@[simp] theorem setDoe_care (i : Nat) (d : Doe) : (setDoe s i d).care = s.care := rfl
@[simp] theorem setDoe_bram (i : Nat) (d : Doe) : (setDoe s i d).bram = s.bram := rfl
@[simp] theorem setDoe_scr (i : Nat) (d : Doe) : (setDoe s i d).scr = s.scr := rfl
@[simp] theorem setDoe_pfeCheck (i : Nat) (d : Doe) : (setDoe s i d).pfeCheck = s.pfeCheck := rfl
@[simp] theorem setDoe_hotSince (i : Nat) (d : Doe) : (setDoe s i d).hotSince = s.hotSince := rfl
@[simp] theorem setDoe_upCycles (i : Nat) (d : Doe) : (setDoe s i d).upCycles = s.upCycles := rfl
@[simp] theorem setDoe_boot (i : Nat) (d : Doe) : (setDoe s i d).boot = s.boot := rfl
@[simp] theorem setDoe_perst (i : Nat) (d : Doe) : (setDoe s i d).perst = s.perst := rfl
@[simp] theorem setDoe_lockAt (i : Nat) (d : Doe) : (setDoe s i d).lockAt = s.lockAt := rfl
@[simp] theorem setDoe_hubFlits (i : Nat) (d : Doe) : (setDoe s i d).hubFlits = s.hubFlits := rfl
@[simp] theorem setDoe_rma (i : Nat) (d : Doe) : (setDoe s i d).rma = s.rma := rfl
@[simp] theorem setDoe_jtag (i : Nat) (d : Doe) : (setDoe s i d).jtag = s.jtag := rfl
@[simp] theorem setDoe_rowCopies (i : Nat) (d : Doe) : (setDoe s i d).rowCopies = s.rowCopies := rfl
@[simp] theorem setDoe_spareRows (i : Nat) (d : Doe) : (setDoe s i d).spareRows = s.spareRows := rfl
@[simp] theorem setDoe_spared (i : Nat) (d : Doe) : (setDoe s i d).spared = s.spared := rfl
@[simp] theorem setDoe_corrSeen (i : Nat) (d : Doe) : (setDoe s i d).corrSeen = s.corrSeen := rfl
@[simp] theorem setDoe_frPend (i : Nat) (d : Doe) : (setDoe s i d).frPend = s.frPend := rfl
@[simp] theorem setDoe_frSecond (i : Nat) (d : Doe) : (setDoe s i d).frSecond = s.frSecond := rfl
@[simp] theorem setDoe_frCount (i : Nat) (d : Doe) : (setDoe s i d).frCount = s.frCount := rfl
@[simp] theorem setDoe_freeCtr (i : Nat) (d : Doe) : (setDoe s i d).freeCtr = s.freeCtr := rfl
@[simp] theorem setDoe_out (i : Nat) (d : Doe) : (setDoe s i d).out = s.out := rfl

/-! ## The counter of free values -/

@[simp] theorem takeFree_pending : (takeFree s).2.pending = s.pending := rfl
@[simp] theorem takeFree_ct : (takeFree s).2.ct = s.ct := rfl
@[simp] theorem takeFree_subPs : (takeFree s).2.subPs = s.subPs := rfl
@[simp] theorem takeFree_lks : (takeFree s).2.lks = s.lks := rfl
@[simp] theorem takeFree_regs : (takeFree s).2.regs = s.regs := rfl
@[simp] theorem takeFree_locked : (takeFree s).2.locked = s.locked := rfl
@[simp] theorem takeFree_heldLow : (takeFree s).2.heldLow = s.heldLow := rfl
@[simp] theorem takeFree_latchedHigh : (takeFree s).2.latchedHigh = s.latchedHigh := rfl
@[simp] theorem takeFree_mem : (takeFree s).2.mem = s.mem := rfl
@[simp] theorem takeFree_poison : (takeFree s).2.poison = s.poison := rfl
@[simp] theorem takeFree_errs : (takeFree s).2.errs = s.errs := rfl
@[simp] theorem takeFree_pins : (takeFree s).2.pins = s.pins := rfl
@[simp] theorem takeFree_evtFifo : (takeFree s).2.evtFifo = s.evtFifo := rfl
@[simp] theorem takeFree_ints : (takeFree s).2.ints = s.ints := rfl
@[simp] theorem takeFree_cfg : (takeFree s).2.cfg = s.cfg := rfl
@[simp] theorem takeFree_doe : (takeFree s).2.doe = s.doe := rfl
@[simp] theorem takeFree_rings : (takeFree s).2.rings = s.rings := rfl
@[simp] theorem takeFree_ucmds : (takeFree s).2.ucmds = s.ucmds := rfl
@[simp] theorem takeFree_plans : (takeFree s).2.plans = s.plans := rfl
@[simp] theorem takeFree_planSeq : (takeFree s).2.planSeq = s.planSeq := rfl
@[simp] theorem takeFree_jobs : (takeFree s).2.jobs = s.jobs := rfl
@[simp] theorem takeFree_notices : (takeFree s).2.notices = s.notices := rfl
@[simp] theorem takeFree_xfers : (takeFree s).2.xfers = s.xfers := rfl
@[simp] theorem takeFree_retrains : (takeFree s).2.retrains = s.retrains := rfl
@[simp] theorem takeFree_retrainDue : (takeFree s).2.retrainDue = s.retrainDue := rfl
@[simp] theorem takeFree_progs : (takeFree s).2.progs = s.progs := rfl
@[simp] theorem takeFree_progSeq : (takeFree s).2.progSeq = s.progSeq := rfl
@[simp] theorem takeFree_tiles : (takeFree s).2.tiles = s.tiles := rfl
@[simp] theorem takeFree_dma : (takeFree s).2.dma = s.dma := rfl
@[simp] theorem takeFree_cvu : (takeFree s).2.cvu = s.cvu := rfl
@[simp] theorem takeFree_cvuIn : (takeFree s).2.cvuIn = s.cvuIn := rfl
@[simp] theorem takeFree_clusters : (takeFree s).2.clusters = s.clusters := rfl
@[simp] theorem takeFree_tileHw : (takeFree s).2.tileHw = s.tileHw := rfl
@[simp] theorem takeFree_raises : (takeFree s).2.raises = s.raises := rfl
@[simp] theorem takeFree_rails : (takeFree s).2.rails = s.rails := rfl
@[simp] theorem takeFree_quads : (takeFree s).2.quads = s.quads := rfl
@[simp] theorem takeFree_biOut : (takeFree s).2.biOut = s.biOut := rfl
@[simp] theorem takeFree_waits : (takeFree s).2.waits = s.waits := rfl
@[simp] theorem takeFree_fox : (takeFree s).2.fox = s.fox := rfl
@[simp] theorem takeFree_fw : (takeFree s).2.fw = s.fw := rfl
@[simp] theorem takeFree_pageBuf : (takeFree s).2.pageBuf = s.pageBuf := rfl
@[simp] theorem takeFree_sf : (takeFree s).2.sf = s.sf := rfl
@[simp] theorem takeFree_linkHeld : (takeFree s).2.linkHeld = s.linkHeld := rfl
@[simp] theorem takeFree_rxGroups : (takeFree s).2.rxGroups = s.rxGroups := rfl
@[simp] theorem takeFree_rxPrbs : (takeFree s).2.rxPrbs = s.rxPrbs := rfl
@[simp] theorem takeFree_laneHw : (takeFree s).2.laneHw = s.laneHw := rfl
@[simp] theorem takeFree_txGroups : (takeFree s).2.txGroups = s.txGroups := rfl
@[simp] theorem takeFree_sentGroups : (takeFree s).2.sentGroups = s.sentGroups := rfl
@[simp] theorem takeFree_captures : (takeFree s).2.captures = s.captures := rfl
@[simp] theorem takeFree_tddLive : (takeFree s).2.tddLive = s.tddLive := rfl
@[simp] theorem takeFree_tddPrev : (takeFree s).2.tddPrev = s.tddPrev := rfl
@[simp] theorem takeFree_tddAt : (takeFree s).2.tddAt = s.tddAt := rfl
@[simp] theorem takeFree_tddPins : (takeFree s).2.tddPins = s.tddPins := rfl
@[simp] theorem takeFree_pfeFrom : (takeFree s).2.pfeFrom = s.pfeFrom := rfl
@[simp] theorem takeFree_spareTrig : (takeFree s).2.spareTrig = s.spareTrig := rfl
@[simp] theorem takeFree_hdm : (takeFree s).2.hdm = s.hdm := rfl
@[simp] theorem takeFree_comp : (takeFree s).2.comp = s.comp := rfl
@[simp] theorem takeFree_recs : (takeFree s).2.recs = s.recs := rfl
@[simp] theorem takeFree_tddDue : (takeFree s).2.tddDue = s.tddDue := rfl
@[simp] theorem takeFree_portGrp : (takeFree s).2.portGrp = s.portGrp := rfl
@[simp] theorem takeFree_delayLog : (takeFree s).2.delayLog = s.delayLog := rfl
@[simp] theorem takeFree_rampSent : (takeFree s).2.rampSent = s.rampSent := rfl
@[simp] theorem takeFree_phx : (takeFree s).2.phx = s.phx := rfl
@[simp] theorem takeFree_frames : (takeFree s).2.frames = s.frames := rfl
@[simp] theorem takeFree_care : (takeFree s).2.care = s.care := rfl
@[simp] theorem takeFree_bram : (takeFree s).2.bram = s.bram := rfl
@[simp] theorem takeFree_scr : (takeFree s).2.scr = s.scr := rfl
@[simp] theorem takeFree_pfeCheck : (takeFree s).2.pfeCheck = s.pfeCheck := rfl
@[simp] theorem takeFree_hotSince : (takeFree s).2.hotSince = s.hotSince := rfl
@[simp] theorem takeFree_upCycles : (takeFree s).2.upCycles = s.upCycles := rfl
@[simp] theorem takeFree_boot : (takeFree s).2.boot = s.boot := rfl
@[simp] theorem takeFree_perst : (takeFree s).2.perst = s.perst := rfl
@[simp] theorem takeFree_lockAt : (takeFree s).2.lockAt = s.lockAt := rfl
@[simp] theorem takeFree_hubFlits : (takeFree s).2.hubFlits = s.hubFlits := rfl
@[simp] theorem takeFree_rma : (takeFree s).2.rma = s.rma := rfl
@[simp] theorem takeFree_jtag : (takeFree s).2.jtag = s.jtag := rfl
@[simp] theorem takeFree_rowCopies : (takeFree s).2.rowCopies = s.rowCopies := rfl
@[simp] theorem takeFree_spareRows : (takeFree s).2.spareRows = s.spareRows := rfl
@[simp] theorem takeFree_spared : (takeFree s).2.spared = s.spared := rfl
@[simp] theorem takeFree_corrSeen : (takeFree s).2.corrSeen = s.corrSeen := rfl
@[simp] theorem takeFree_frPend : (takeFree s).2.frPend = s.frPend := rfl
@[simp] theorem takeFree_frSecond : (takeFree s).2.frSecond = s.frSecond := rfl
@[simp] theorem takeFree_frCount : (takeFree s).2.frCount = s.frCount := rfl
@[simp] theorem takeFree_out : (takeFree s).2.out = s.out := rfl
@[simp] theorem takeFree_fst : (takeFree s).1 = s.freeCtr := rfl
@[simp] theorem takeFree_freeCtr : (takeFree s).2.freeCtr = s.freeCtr + 1 := rfl

/-! ## A unit read after another was stored -/

theorem getInt_setInt_same (n : Nat) (x : IntSrc) (h : smWf (fun _ => ({} : IntSrc)) s.ints = true) : getInt (setInt s n x) n = x := smGet_smPut_same _ _ _ _ h
theorem getInt_setInt_other (n m : Nat) (x : IntSrc) (h : m ≠ n) : getInt (setInt s n x) m = getInt s m := smGet_smPut_other _ _ h _
theorem getRing_setRing_same (n : Nat) (x : Ring) (h : smWf (fun _ => ({} : Ring)) s.rings = true) : getRing (setRing s n x) n = x := smGet_smPut_same _ _ _ _ h
theorem getRing_setRing_other (n m : Nat) (x : Ring) (h : m ≠ n) : getRing (setRing s n x) m = getRing s m := smGet_smPut_other _ _ h _
theorem getTile_setTile_same (n : Nat) (x : Tile) (h : smWf (fun _ => ({} : Tile)) s.tiles = true) : getTile (setTile s n x) n = x := smGet_smPut_same _ _ _ _ h
theorem getTile_setTile_other (n m : Nat) (x : Tile) (h : m ≠ n) : getTile (setTile s n x) m = getTile s m := smGet_smPut_other _ _ h _
theorem getPin_setPin_same (n : Nat) (x : Pin) (h : smWf (fun _ => ({} : Pin)) s.pins = true) : getPin (setPin s n x) n = x := smGet_smPut_same _ _ _ _ h
theorem getPin_setPin_other (n m : Nat) (x : Pin) (h : m ≠ n) : getPin (setPin s n x) m = getPin s m := smGet_smPut_other _ _ h _
theorem getLane_setLane_same (n : Nat) (x : LaneHw) (h : smWf (fun _ => ({} : LaneHw)) s.laneHw = true) : getLane (setLane s n x) n = x := smGet_smPut_same _ _ _ _ h
theorem getLane_setLane_other (n m : Nat) (x : LaneHw) (h : m ≠ n) : getLane (setLane s n x) m = getLane s m := smGet_smPut_other _ _ h _
theorem getCl_setCl_same (n : Nat) (x : ClusterHw) (h : smWf (fun _ => ({} : ClusterHw)) s.clusters = true) : getCl (setCl s n x) n = x := smGet_smPut_same _ _ _ _ h
theorem getCl_setCl_other (n m : Nat) (x : ClusterHw) (h : m ≠ n) : getCl (setCl s n x) m = getCl s m := smGet_smPut_other _ _ h _
theorem getHw_setHw_same (n : Nat) (x : TileHw) (h : smWf (fun _ => ({} : TileHw)) s.tileHw = true) : getHw (setHw s n x) n = x := smGet_smPut_same _ _ _ _ h
theorem getHw_setHw_other (n m : Nat) (x : TileHw) (h : m ≠ n) : getHw (setHw s n x) m = getHw s m := smGet_smPut_other _ _ h _
theorem getQuad_setQuad_same (n : Nat) (x : QuadHw) (h : smWf (fun _ => ({} : QuadHw)) s.quads = true) : getQuad (setQuad s n x) n = x := smGet_smPut_same _ _ _ _ h
theorem getQuad_setQuad_other (n m : Nat) (x : QuadHw) (h : m ≠ n) : getQuad (setQuad s n x) m = getQuad s m := smGet_smPut_other _ _ h _
theorem getPhx_setPhx_same (n : Nat) (x : PhxHw) (h : smWf (fun _ => ({} : PhxHw)) s.phx = true) : getPhx (setPhx s n x) n = x := smGet_smPut_same _ _ _ _ h
theorem getPhx_setPhx_other (n m : Nat) (x : PhxHw) (h : m ≠ n) : getPhx (setPhx s n x) m = getPhx s m := smGet_smPut_other _ _ h _
theorem getScr_setScr_same (n : Nat) (x : ScrHw) (h : smWf (fun _ => ({} : ScrHw)) s.scr = true) : getScr (setScr s n x) n = x := smGet_smPut_same _ _ _ _ h
theorem getScr_setScr_other (n m : Nat) (x : ScrHw) (h : m ≠ n) : getScr (setScr s n x) m = getScr s m := smGet_smPut_other _ _ h _
theorem getCaptures_setCaptures_same (n : Nat) (x : List Capture) (h : smWf (fun _ => ([] : List Capture)) s.captures = true) : getCaptures (setCaptures s n x) n = x := smGet_smPut_same _ _ _ _ h
theorem getCaptures_setCaptures_other (n m : Nat) (x : List Capture) (h : m ≠ n) : getCaptures (setCaptures s n x) m = getCaptures s m := smGet_smPut_other _ _ h _
theorem errAt_putErr_same (n e : Nat) (h : smWf (fun _ => (0 : Nat)) s.errs = true) : errAt (putErr s n e) n = e := smGet_smPut_same _ _ _ _ h
theorem errAt_putErr_other (n m e : Nat) (h : m ≠ n) : errAt (putErr s n e) m = errAt s m := smGet_smPut_other _ _ h _
theorem getDoe_setDoe_same (n : Nat) (x : Doe) (h : smWf (fun _ => ({} : Doe)) s.doe = true) : getDoe (setDoe s n x) n = x := smGet_smPut_same _ _ _ _ h
theorem getDoe_setDoe_other (n m : Nat) (x : Doe) (h : m ≠ n) : getDoe (setDoe s n x) m = getDoe s m := smGet_smPut_other _ _ h _

/-! ## Registers and fields depend on the registers alone -/

variable {s t : State}

theorem getR_congr (h : t.regs = s.regs) (a : Nat) : getR t a = getR s a := by unfold getR; rw [h]
theorem getF_congr (h : t.regs = s.regs) (f : Field) : getF t f = getF s f := by unfold getF getR64 getR; rw [h]
theorem getSF_congr (h : t.regs = s.regs) (f : Field) : getSF t f = getSF s f := by unfold getSF; rw [getF_congr h]
theorem isF_congr (h : t.regs = s.regs) (f : Field) : isF t f = isF s f := by unfold isF; rw [getF_congr h]
theorem testF_congr (h : t.regs = s.regs) (f : Field) (i : Nat) : testF t f i = testF s f i := by unfold testF; rw [getF_congr h]
theorem fencedAt_congr (h : t.regs = s.regs) (a : Nat) : fencedAt t a = fencedAt s a := by unfold fencedAt; rw [testF_congr h]

/-! ## What a write of a register word leaves -/

theorem getR_setR_same (a : Nat) (v : Word) (h : smWf regReset s.regs = true) : getR (setR s a v) a = v := smGet_smPut_same _ _ _ _ h
theorem getR_setR_other {a b : Nat} (v : Word) (h : b ≠ a) : getR (setR s a v) b = getR s b := smGet_smPut_other _ _ h _

end Sys2Proof.Machine
end

