-- ==== Sys2Proof/Laws/Memory.lean ====
section
/-!
SUPPORT. What the writers of memory leave to be read (spec/00_scope.md R5; spec/07_memory.md R256, R261), and a field put into a number.
-/

namespace Sys2Proof.Machine

set_option Elab.async false

/-- What a list of bytes put into memory leaves: its bytes where it lies, everything else as it was. -/
theorem putBytes_read (m : List Host.Cell) (a : Nat) (l : List Byte) (hm : smWf memDefault m = true) :
    (∀ i b, l[i]? = some b → smGet memDefault (putBytes m a l) (a + i) = b) ∧ (∀ x, x < a ∨ a + l.length ≤ x → smGet memDefault (putBytes m a l) x = smGet memDefault m x) := by
  induction l generalizing m a with
  | nil => exact ⟨fun i b h => by simp at h, fun x _ => rfl⟩
  | cons c t ih =>
    have hm' := smWf_smPut memDefault a c m hm
    have k := ih (smPut memDefault a c m) (a + 1) hm'
    refine ⟨fun i b h => ?_, fun x hx => ?_⟩
    · cases i with
      | zero =>
        simp at h; subst h
        have := k.2 a (.inl (by omega))
        exact this.trans (smGet_smPut_same _ _ _ _ hm)
      | succ i => have := k.1 i b (by simpa using h); rw [show a + (i + 1) = a + 1 + i by omega]; exact this
    · rw [List.length_cons] at hx
      exact (k.2 x (by omega)).trans (smGet_smPut_other _ _ (by omega) _)

/-- The same, with the bytes of fenced banks left out (spec/07_memory.md R261). -/
theorem putUnfenced_read (s : State) (a : Nat) (l : List Byte) (m : List Host.Cell) (hm : smWf memDefault m = true) :
    (∀ i b, l[i]? = some b → fencedAt s (a + i) = false → smGet memDefault (putUnfenced s a l m) (a + i) = b) ∧
    (∀ i, i < l.length → fencedAt s (a + i) = true → smGet memDefault (putUnfenced s a l m) (a + i) = smGet memDefault m (a + i)) ∧
    (∀ x, x < a ∨ a + l.length ≤ x → smGet memDefault (putUnfenced s a l m) x = smGet memDefault m x) := by
  induction l generalizing m a with
  | nil => exact ⟨fun i b h => by simp at h, fun i h => by simp at h, fun x _ => rfl⟩
  | cons c t ih =>
    have hm' : smWf memDefault (if fencedAt s a then m else smPut memDefault a c m) = true := by split; exact hm; exact smWf_smPut _ _ _ _ hm
    have k := ih (a + 1) _ hm'
    have other : ∀ x, x ≠ a → smGet memDefault (if fencedAt s a then m else smPut memDefault a c m) x = smGet memDefault m x := by
      intro x hx; split; rfl; exact smGet_smPut_other _ _ hx _
    refine ⟨fun i b h hf => ?_, fun i h hf => ?_, fun x hx => ?_⟩
    · cases i with
      | zero =>
        simp at h; subst h
        refine (k.2.2 a (.inl (by omega))).trans ?_
        rw [if_neg (by simpa using hf)]; exact smGet_smPut_same _ _ _ _ hm
      | succ i => rw [show a + (i + 1) = a + 1 + i by omega] at *; exact k.1 i b (by simpa using h) hf
    · cases i with
      | zero =>
        refine (k.2.2 a (.inl (by omega))).trans ?_
        rw [if_pos (by simpa using hf)]; rfl
      | succ i =>
        rw [show a + (i + 1) = a + 1 + i by omega] at *
        exact (k.2.1 i (by simpa using h) hf).trans (other _ (by omega))
    · rw [List.length_cons] at hx
      exact (k.2.2 x (by omega)).trans (other _ (by omega))

/-- A bank holds whole granules (spec/01_hierarchy.md R20). -/
theorem fencedAt_granule (s : State) (a : Nat) : fencedAt s a = fencedAt s (32 * (a / 32)) := by
  unfold fencedAt
  have h1 : decide (2 ^ 61 ≤ a) = decide (2 ^ 61 ≤ 32 * (a / 32)) := by congr 1; apply propext; omega
  have h2 : decide (a < 2 ^ 61 + 32 * 2 ^ 23) = decide (32 * (a / 32) < 2 ^ 61 + 32 * 2 ^ 23) := by congr 1; apply propext; omega
  by_cases h : 2 ^ 61 ≤ a
  · have h3 : (a - 2 ^ 61) / 2 ^ 23 = (32 * (a / 32) - 2 ^ 61) / 2 ^ 23 := by omega
    have h4 : bitsOf a 5 5 = bitsOf (32 * (a / 32)) 5 5 := by simp only [bitsOf, Nat.shiftRight_eq_div_pow]; omega
    rw [h1, h2, h3, h4]
  · rw [h1, decide_eq_false (show ¬ (2 ^ 61 ≤ 32 * (a / 32)) by omega)]; simp

/-- No granule of a range without a fenced bank is fenced. -/
theorem fencedFrom_false (s : State) (g n : Nat) (h : fencedFrom s g n = false) : ∀ i, i < n → fencedAt s (32 * (g + i)) = false := by
  induction n generalizing g with
  | zero => intro i hi; omega
  | succ n ih =>
    unfold fencedFrom at h
    rw [Bool.or_eq_false_iff] at h
    intro i hi
    cases i with
    | zero => exact h.1
    | succ i => have := ih (g + 1) h.2 i (by omega); rwa [show g + (i + 1) = g + 1 + i by omega]

/-- Clearing poison leaves memory as it is. -/
theorem cleanFrom_mem (s : State) (g n : Nat) : (cleanFrom s g n).mem = s.mem := by
  induction n generalizing s g with
  | zero => rfl
  | succ n ih => exact (ih _ _).trans rfl

/-- The memory after a write of bytes. -/
theorem wrBytes_mem (s : State) (a : Nat) (l : List Byte) : (wrBytes s a l).mem = putBytes s.mem a l := by
  unfold wrBytes; dsimp only; split; rfl; exact cleanFrom_mem _ _ _

/-- Which granules are poisoned after some are cleared. -/
theorem cleanFrom_poison (s : State) (g n x : Nat) (h : smWf (fun _ => false) s.poison = true) :
    poisoned (cleanFrom s g n) x = (poisoned s x && !decide (g ≤ x ∧ x < g + n)) := by
  induction n generalizing s g with
  | zero => simp [cleanFrom]; intro _; omega
  | succ n ih =>
    unfold cleanFrom
    rw [ih (putErr (setPoison s g false) g 0) (g + 1) (smWf_smPut _ _ _ _ h), show poisoned (putErr (setPoison s g false) g 0) x = poisoned (setPoison s g false) x from rfl]
    by_cases hx : x = g
    · subst hx
      have : poisoned (setPoison s x false) x = false := smGet_smPut_same _ _ _ _ h
      rw [this, show decide (x ≤ x ∧ x < x + (n + 1)) = true by simp]; simp
    · have : poisoned (setPoison s g false) x = poisoned s x := smGet_smPut_other _ _ hx _
      rw [this]; congr 2; apply decide_eq_decide.mpr; omega

/-- A number with a field replaced, as high part, field and low part. -/
theorem putBits_eq (x lo w v : Nat) : putBits x lo w v = 2 ^ lo * (2 ^ w * (x / 2 ^ (lo + w)) + v % 2 ^ w) + x % 2 ^ lo := by
  have e1 := Nat.div_add_mod x (2 ^ lo)
  have e2 := Nat.div_add_mod (x / 2 ^ lo) (2 ^ w)
  rw [Nat.div_div_eq_div_mul, ← Nat.pow_add] at e2
  have hb : bitsOf x lo w = x / 2 ^ lo % 2 ^ w := by rw [bitsOf, Nat.shiftRight_eq_div_pow]
  unfold putBits
  rw [hb]
  generalize x / 2 ^ lo % 2 ^ w = b at *
  generalize x / 2 ^ (lo + w) = H at *
  generalize x % 2 ^ lo = l at *
  generalize v % 2 ^ w = z at *
  have e3 : x = 2 ^ lo * (2 ^ w * H) + b * 2 ^ lo + l := by rw [← e1, ← e2]; ring
  rw [show x - b * 2 ^ lo = 2 ^ lo * (2 ^ w * H) + l by omega]
  ring

end Sys2Proof.Machine
end

