-- ==== Sys2Proof/Laws/Tile.lean ====
section
/-!
SUPPORT. A bundle of one syllable on a tile at a boundary: what its issue comes to, once for all operations.
-/

namespace Sys2Proof.Machine

set_option Elab.async false

open Sys2Proof.Safety

/-- The index of a requester is one of the 16 slots (R19). -/
theorem requester_index_lt (r : Requester) : r.index < 16 := by cases r <;> simp only [Requester.index] <;> omega

/-- The wait for a CSM slot ends in a cycle in which the bank serves the requester, and that is the first such cycle (R20, R21). -/
theorem slotWait_first (r : Requester) {b : Nat} (t : Nat) (hb : b < 32) :
    bankServes r b (t + slotWait r b t) = true ∧ ∀ w, w < slotWait r b t → bankServes r b (t + w) = false := by
  have hr := requester_index_lt r
  simp only [bankServes, slotWait, beq_iff_eq, beq_eq_false_iff_ne]
  exact ⟨by omega, by intro w hw; omega⟩

/-- A bundle of one syllable is in SLOT order and breaks no structure. -/
theorem inSlotOrder_one (x : Syl) (b : Bool) : inSlotOrder [⟨0, slotOf x, x, b⟩] = [⟨0, slotOf x, x, b⟩] := by
  have h : slotOf x = 0 ∨ slotOf x = 1 ∨ slotOf x = 2 ∨ slotOf x = 3 := by
    cases x <;> simp [slotOf]
    split <;> simp
  rcases h with h | h | h | h <;> simp [inSlotOrder, h]

/-- The same as it is placed. -/
theorem placeSyls_one (x : Syl) : inSlotOrder (placeSyls [(x, true)]) = [⟨0, slotOf x, x, false⟩] := by
  have e : placeSyls [(x, true)] = [⟨0, slotOf x, x, false⟩] := by simp [placeSyls, placeWords]
  rw [e, inSlotOrder_one]

/-- Without errors in memory the fetch changes nothing. -/
theorem fetchSettle_clean {s : State} (t : Tile) (n : Nat) (h1 : s.poison = []) (h2 : s.errs = []) : fetchSettle s t n = s := by
  simp [fetchSettle, readBad, h1, h2]

/-- A lone syllable at a ready boundary that passes its check passes the checks of its bundle. -/
theorem alone_passes {s : State} {p : Nat} {t u : Tile} {x : Syl} (h : TileReady s p t u) (hc : sylCheck s p u ⟨0, slotOf x, x, false⟩ = .ok) :
    bundleFate s p t [⟨0, slotOf x, x, false⟩] = .passes s u := by
  obtain ⟨-, -, -, -, ⟨h1, h2, h3⟩, h6, -⟩ := h
  have hg : granBad s ((t.code + t.pc) / 32) = false := by simp only [granBad, poisoned, errAt, h1, h2, h3]; rfl
  unfold bundleFate badWord
  simp [inSlotOrder_one, hg, fetchSettle_clean t _ h1 h2, h6, firstCheck, hc]

/-- A lone syllable that passes its check, waits for no event and accesses no CSM issues in this cycle. -/
theorem alone_issues {s : State} {p : Nat} {t u : Tile} {x : Syl} (h : TileReady s p t u) (hc : sylCheck s p u ⟨0, slotOf x, x, false⟩ = .ok)
    (hm : wfeMask (controlOf [⟨0, slotOf x, x, false⟩]) = 0 ∨ u.irqPend &&& wfeMask (controlOf [⟨0, slotOf x, x, false⟩]) ≠ 0) (ha : csmAccess u x = []) :
    giveSyllable p true x s = issueNow s p u 0 1 [⟨0, slotOf x, x, false⟩] := by
  have hf := alone_passes h hc
  obtain ⟨h1, h2, h3, h4, -⟩ := h
  have ht : ({ t with stage := [] } : Tile) = t := by cases t; simp_all
  have hw : ¬ (wfeMask (controlOf [⟨0, slotOf x, x, false⟩]) ≠ 0 ∧ u.irqPend &&& wfeMask (controlOf [⟨0, slotOf x, x, false⟩]) = 0) := by
    rintro ⟨a, b⟩
    rcases hm with hm | hm
    · exact a hm
    · exact hm b
  unfold giveSyllable
  simp only [h1, h2, h3]
  unfold issueBundle
  simp only [h1, ht, List.nil_append, placeSyls_one, hf, hw]
  simp [afterWaits, h4, ha, csmWait]

/-- An access waits at most 15 cycles for its slot (R21). -/
theorem csmWaitAt_le (s : State) (p : Nat) (u : Tile) (w a : Nat) : csmWaitAt s p u w a ≤ 15 := by
  unfold csmWaitAt slotWait
  omega

/-- An access to several granules waits at most 15 cycles too, since they wait together (R21, R234). -/
theorem csmWait_le (s : State) (p : Nat) (u : Tile) (w : Nat) (gs : List Nat) : csmWait s p u w gs ≤ 15 := by
  have h : ∀ (l : List Nat) (m : Nat), m ≤ 15 → l.foldl (fun m a => max m (csmWaitAt s p u w a)) m ≤ 15 := by
    intro l
    induction l with
    | nil => exact fun _ h => h
    | cons a l ih => exact fun m h => ih _ (max_le h (csmWaitAt_le s p u w a))
  exact h gs 0 (by omega)

/-- The same for an access to granules of the CSM: it waits until each has been served (R21, R189, R234). -/
theorem alone_waits {s : State} {p : Nat} {gs : List Nat} {t u : Tile} {x : Syl} (h : TileReady s p t u) (hc : sylCheck s p u ⟨0, slotOf x, x, false⟩ = .ok)
    (hm : wfeMask (controlOf [⟨0, slotOf x, x, false⟩]) = 0) (ha : csmAccess u x = gs) (hb : 15 < u.budget) :
    giveSyllable p true x s = issueNow s p u (csmWait s p u 0 gs) 1 [⟨0, slotOf x, x, false⟩] := by
  have hf := alone_passes h hc
  obtain ⟨h1, h2, h3, h4, -⟩ := h
  have ht : ({ t with stage := [] } : Tile) = t := by cases t; simp_all
  have hw := csmWait_le s p u 0 gs
  have hw : ¬ (u.budget ≤ csmWait s p u 0 gs ∧ 0 < csmWait s p u 0 gs) := by omega
  unfold giveSyllable
  simp only [h1, h2, h3]
  unfold issueBundle
  simp only [h1, ht, List.nil_append, placeSyls_one, hf, hm]
  simp [afterWaits, h4, ha, hw]

/-- The issue of a lone syllable whose writes are u' and after which the core goes on as v, where it ends neither a handler nor the task. -/
theorem issueNow_one {s s1 : State} {p w : Nat} {u u' v : Tile} {x : Syl} (h9 : u.wait = none) (h10 : u.afterReti = false)
    (hk : ∀ a b, controlOf [⟨0, slotOf x, x, false⟩] ≠ some (.reti, a, b) ∧ controlOf [⟨0, slotOf x, x, false⟩] ≠ some (.taskEnd, a, b))
    (hr : runSyls p { u with cycle := u.cycle + BitVec.ofNat 64 w, budget := u.budget - w } u.flights.length [⟨0, slotOf x, x, false⟩] s
      { u with cycle := u.cycle + BitVec.ofNat 64 w, budget := u.budget - w } = (s1, u'))
    (hn : nextPc s { u with cycle := u.cycle + BitVec.ofNat 64 w, budget := u.budget - w } u' u.flights.length 1 (controlOf [⟨0, slotOf x, x, false⟩]) = v) (hv : v.afterReti = false) :
    issueNow s p u w 1 [⟨0, slotOf x, x, false⟩] =
      storeSyls p { u with cycle := u.cycle + BitVec.ofNat 64 w, budget := u.budget - w } [⟨0, slotOf x, x, false⟩] (setTile s1 p (ticked v)) := by
  unfold issueNow
  have hu : ({ u with cycle := u.cycle + BitVec.ofNat 64 w, budget := u.budget - w, wait := none, afterReti := false } : Tile) =
      { u with cycle := u.cycle + BitVec.ofNat 64 w, budget := u.budget - w } := by cases u; simp_all
  dsimp only
  simp only [h10, Bool.false_and, Bool.false_eq_true, if_false]
  rw [hu]
  simp only [hr, hn]
  have e : ticked v = { v with cycle := v.cycle + 1, budget := v.budget - 1, first := false, afterReti := false } := by
    unfold ticked; cases v; simp_all
  rw [e]
  generalize controlOf [⟨0, slotOf x, x, false⟩] = c at hk
  split
  · exact absurd rfl (hk _ _).2
  · split
    · exact absurd rfl (hk _ _).1
    · simp only [h10]

/-- The core with no cycle waited is the core. -/
theorem waited_zero (u : Tile) : ({ u with cycle := u.cycle + BitVec.ofNat 64 0, budget := u.budget - 0 } : Tile) = u := by cases u; simp

/-- A lone syllable that waits for nothing: its effects, and where the core goes on. -/
theorem alone_next {s s1 : State} {p : Nat} {t u u' v : Tile} {x : Syl} (h : TileReady s p t u) (hc : sylCheck s p u ⟨0, slotOf x, x, false⟩ = .ok)
    (hm : wfeMask (controlOf [⟨0, slotOf x, x, false⟩]) = 0 ∨ u.irqPend &&& wfeMask (controlOf [⟨0, slotOf x, x, false⟩]) ≠ 0) (ha : csmAccess u x = [])
    (hk : ∀ a b, controlOf [⟨0, slotOf x, x, false⟩] ≠ some (.reti, a, b) ∧ controlOf [⟨0, slotOf x, x, false⟩] ≠ some (.taskEnd, a, b))
    (hr : runSyls p u u.flights.length [⟨0, slotOf x, x, false⟩] s u = (s1, u'))
    (hn : nextPc s u u' u.flights.length 1 (controlOf [⟨0, slotOf x, x, false⟩]) = v) (hv : v.afterReti = false) :
    giveSyllable p true x s = storeSyls p u [⟨0, slotOf x, x, false⟩] (setTile s1 p (ticked v)) := by
  rw [alone_issues h hc hm ha]
  obtain ⟨-, -, -, -, -, -, -, -, -, h10, h11, -⟩ := h
  rw [issueNow_one (u' := u') (s1 := s1) (v := v) h10 h11 hk (by rw [waited_zero]; exact hr) (by rw [waited_zero]; exact hn) hv, waited_zero]

/-- Outside delay slots, repetitions and loops, what is no control transfer goes on with the next word. -/
theorem nextPc_plain {s : State} {u u' : Tile} {n : Nat} (h1 : u.branch = none) (h2 : u.rep = none) (h3 : u'.loops = []) :
    nextPc s u u' n 1 none = { u' with pc := u'.pc + 4 } := by
  unfold nextPc
  simp only [h1, h2]
  unfold stepOn goTo
  rw [h3]
  simp [advance, rotate]

/-- A lone syllable that is no control transfer, with the writes fs and no other effect on the core. -/
theorem alone_flies {s s1 : State} {p : Nat} {t u : Tile} {x : Syl} {fs : List Flight} (h : TileReady s p t u) (hc : sylCheck s p u ⟨0, slotOf x, x, false⟩ = .ok)
    (ha : csmAccess u x = []) (hk : controlOf [⟨0, slotOf x, x, false⟩] = none)
    (hr : runSyls p u u.flights.length [⟨0, slotOf x, x, false⟩] s u = (s1, flying u fs)) :
    giveSyllable p true x s = storeSyls p u [⟨0, slotOf x, x, false⟩] (setTile s1 p (issued (flying u fs))) := by
  have hh := h
  obtain ⟨-, -, -, -, -, -, h7, h8, h9, h10, h11, -⟩ := hh
  have hn : nextPc s u (flying u fs) u.flights.length 1 (controlOf [⟨0, slotOf x, x, false⟩]) = { flying u fs with pc := (flying u fs).pc + 4 } := by
    rw [hk]; exact nextPc_plain h8 h9 h7
  rw [alone_next h hc (by rw [hk]; exact .inl rfl) ha (by rw [hk]; simp) hr hn (by show u.afterReti = false; exact h11)]
  rfl

/-- A scalar result and its saturation are put in flight. -/
theorem pushSat_push_s (u : Tile) (lat : Nat) (rd : Reg) (v : Nat) (b : Bool) :
    pushSat (push u lat (.s rd.toNat) v) lat b = flying u (sWrites lat rd v b) := by
  unfold sWrites pushSat
  have e2 : ∀ u : Tile, push u lat .sat 1 = { u with flights := u.flights ++ [⟨lat - 1, .sat, 1⟩] } := fun _ => rfl
  by_cases h : rd.toNat = 0
  · rw [h]
    have e0 : push u lat (.s 0) v = u := rfl
    cases b <;> simp [e0, e2, flying]
  · have e : push u lat (.s rd.toNat) v = { u with flights := u.flights ++ [⟨lat - 1, .s rd.toNat, v⟩] } := by
      unfold push; split <;> simp_all
    cases b <;> simp [e, e2, h, flying]

/-- A scalar register's write alone. -/
theorem push_s (u : Tile) (lat : Nat) (rd : Reg) (v : Nat) : push u lat (.s rd.toNat) v = flying u (sWrites lat rd v false) := by
  rw [← pushSat_push_s]; rfl

/-- The checks of a lone syllable of SA or SB that is no control operation pass. -/
theorem sylCheck_sc {s : State} {p : Nat} {t u : Tile} {sb sat : Bool} {op : SOp} {rd ra rb imm : Nat} (h : TileReady s p t u)
    (h1 : isControl op = false) (h2 : isMisplaced op = false) : sylCheck s p u ⟨0, slotOf (.sc sb op sat rd ra rb imm), .sc sb op sat rd ra rb imm, false⟩ = .ok := by
  obtain ⟨-, -, -, -, -, -, -, h8, h9, -, -, h12⟩ := h
  have hop : ∀ o, isControl o = true → op ≠ o := by intro o ho e; subst e; simp_all
  have hl : ¬ u.codeLen ≤ u.pc + 4 * 0 := by omega
  have a1 := hop .mfc (by decide)
  have a2 := hop .mtc (by decide)
  have a3 := hop .reti (by decide)
  have a4 := hop .taskEnd (by decide)
  have a5 := hop .loop (by decide)
  have a6 := hop .loopi (by decide)
  unfold sylCheck
  simp only [hl, if_false]
  unfold scCheck
  simp [h1, h2, h8, h9, a1, a2, a3, a4, a5, a6]

/-- A syllable that is no control operation is none. -/
theorem controlOf_sc {sb sat : Bool} {op : SOp} {rd ra rb imm : Nat} (h : isControl op = false) :
    controlOf [⟨0, slotOf (.sc sb op sat rd ra rb imm), .sc sb op sat rd ra rb imm, false⟩] = none := by
  unfold controlOf
  cases sb
  · simp only [h]; rfl
  · rfl

/-- A lone syllable of SA or SB that is no control operation, with the writes fs. -/
theorem alone_sc {s : State} {p : Nat} {t u : Tile} {sb sat : Bool} {op : SOp} {rd ra rb imm : Nat} {fs : List Flight} (h : TileReady s p t u)
    (h1 : isControl op = false) (h2 : isMisplaced op = false) (he : scExec s u u u.flights.length op sat rd ra rb imm = (s, flying u fs)) :
    giveSyllable p true (.sc sb op sat rd ra rb imm) s = setTile s p (issued (flying u fs)) := by
  rw [alone_flies h (sylCheck_sc h h1 h2) rfl (controlOf_sc h1) (by unfold runSyls; simp only [he]; rfl)]
  rfl

/-- A lone VX syllable of a permitted TYPE, with the writes fs. -/
theorem alone_vx {s : State} {p : Nat} {t u : Tile} {sat : Bool} {op : VOp} {vd va vb m type : Nat} {fs : List Flight} (h : TileReady s p t u)
    (h1 : vxTypeOk op type = true) (he : vxExec u u op sat vd va vb m type = flying u fs) :
    giveSyllable p true (.vx op sat vd va vb m type) s = setTile s p (issued (flying u fs)) := by
  have hl : u.pc < u.codeLen := by have := h.2.2.2.2.2.2.2.2.2.2.2; omega
  rw [alone_flies h (by unfold sylCheck; simp [hl, h1]) rfl rfl (by unfold runSyls; simp only [he]; rfl)]
  rfl

/-- A lone syllable of SA or SB that is no control operation and leaves the core as u'. -/
theorem alone_sc_core {s : State} {p : Nat} {t u u' : Tile} {sb sat : Bool} {op : SOp} {rd ra rb imm : Nat} (h : TileReady s p t u)
    (h1 : isControl op = false) (h2 : isMisplaced op = false) (he : scExec s u u u.flights.length op sat rd ra rb imm = (s, u'))
    (hl : u'.loops = []) (hv : u'.afterReti = false) : giveSyllable p true (.sc sb op sat rd ra rb imm) s = setTile s p (issued u') := by
  have hh := h
  obtain ⟨-, -, -, -, -, -, -, h8, h9, -, -, -⟩ := hh
  have hk := controlOf_sc (sb := sb) (sat := sat) (rd := rd) (ra := ra) (rb := rb) (imm := imm) h1
  rw [alone_next (s1 := s) (u' := u') (v := { u' with pc := u'.pc + 4 }) h (sylCheck_sc h h1 h2) (by rw [hk]; exact .inl rfl) rfl (by rw [hk]; simp)
    (by unfold runSyls; simp only [he]; rfl) (by rw [hk]; exact nextPc_plain h8 h9 hl) hv]
  rfl

/-- A control operation in SA is the bundle's. -/
theorem controlOf_ctl {sat : Bool} {op : SOp} {rd ra rb imm : Nat} (h : isControl op = true) :
    controlOf [⟨0, slotOf (.sc false op sat rd ra rb imm), .sc false op sat rd ra rb imm, false⟩] = some (op, ra, imm) := by
  unfold controlOf; simp only [h]; rfl

/-- A lone control operation that ends neither a handler nor the task: its writes, and where the core goes on. -/
theorem alone_ctl {s s1 : State} {p : Nat} {t u u' v : Tile} {sat : Bool} {op : SOp} {rd ra rb imm : Nat} (h : TileReady s p t u) (h1 : isControl op = true)
    (hc : scCheck u false op imm = .ok) (h2 : op ≠ .reti ∧ op ≠ .taskEnd) (hm : op ≠ .wfe ∨ imm = 0 ∨ u.irqPend &&& imm ≠ 0)
    (he : scExec s u u u.flights.length op sat rd ra rb imm = (s1, u')) (hn : nextPc s u u' u.flights.length 1 (some (op, ra, imm)) = v) (hv : v.afterReti = false) :
    giveSyllable p true (.sc false op sat rd ra rb imm) s = setTile s1 p (ticked v) := by
  have hk := controlOf_ctl (sat := sat) (rd := rd) (ra := ra) (rb := rb) (imm := imm) h1
  have hl : ¬ u.codeLen ≤ u.pc + 4 * 0 := by have := h.2.2.2.2.2.2.2.2.2.2.2; omega
  rw [alone_next (s1 := s1) (u' := u') (v := v) h (by unfold sylCheck; simp only [hl, if_false, hc]; rfl) ?_ rfl ?_ (by unfold runSyls; simp only [he]; rfl) (by rw [hk]; exact hn) hv]
  · rfl
  · rw [hk]
    rcases hm with hm | hm | hm
    · left; unfold wfeMask; split
      · rename_i heq; simp at heq; exact absurd heq.1 hm
      · rfl
    · left; unfold wfeMask; split
      · rename_i heq; simp at heq; rw [← heq.2.2]; exact hm
      · rfl
    · by_cases ho : op = .wfe
      · right; subst ho; exact hm
      · left; unfold wfeMask; split
        · rename_i heq; simp at heq; exact absurd heq.1 ho
        · rfl
  · rw [hk]
    intro a b
    constructor <;> simp
    · intro e; exact absurd e h2.1
    · intro e; exact absurd e h2.2

/-- Without loops the core goes on at the next place given. -/
theorem goTo_plain {u : Tile} {n next : Nat} (h : u.loops = []) : goTo u n next = { u with pc := next } := by
  unfold goTo; rw [h]; simp [advance, rotate]

/-- The same after a bundle of len words. -/
theorem stepOn_plain {u : Tile} {n len : Nat} (h : u.loops = []) : stepOn u n len = { u with pc := u.pc + 4 * len } := goTo_plain h

/-- MFC changes of the core only what it latches. -/
theorem cregRead_core (s : State) (u : Tile) (n : Nat) : (cregRead s u n).2.1.loops = u.loops ∧ (cregRead s u n).2.1.afterReti = u.afterReti := by
  have ite : ∀ (c : Prop) [Decidable c] (a b : Nat × Tile × State), (a.2.1.loops = u.loops ∧ a.2.1.afterReti = u.afterReti) →
      (b.2.1.loops = u.loops ∧ b.2.1.afterReti = u.afterReti) → ((if c then a else b).2.1.loops = u.loops ∧ (if c then a else b).2.1.afterReti = u.afterReti) := by
    intro c _ a b ha hb
    by_cases h : c
    · rw [if_pos h]; exact ha
    · rw [if_neg h]; exact hb
  unfold cregRead
  repeat' first
    | exact ⟨rfl, rfl⟩
    | refine ite _ _ _ ?_ ?_

/-- Where a scalar access goes says whether it is one to the CSM. -/
theorem placeOf_csm {p a size : Nat} {t : Tile} {w : Bool} {pl : Place} (h : placeOf p t a size w = some pl) (hs : 1 ≤ size) :
    tileCsm a = (match pl with | .mem _ c => c | .reg _ => false) := by
  unfold placeOf at h
  unfold tileCsm
  split_ifs at h with h1 h2 h3 h4
  · cases h; simp; omega
  · cases h; simp; omega
  · cases h; simp; omega

/-- The checks of a lone LS syllable that accesses no vector. -/
theorem sylCheck_ls {s : State} {p : Nat} {t u : Tile} {op : LOp} {rd ra imm : Nat} (h : TileReady s p t u) (hv : isVecMem op = false)
    (hc : smCheck s p u op ra imm = .ok) : sylCheck s p u ⟨0, slotOf (.ls op rd ra imm 0 0 false), .ls op rd ra imm 0 0 false, false⟩ = .ok := by
  have hl : ¬ u.codeLen ≤ u.pc + 4 * 0 := by have := h.2.2.2.2.2.2.2.2.2.2.2; omega
  unfold sylCheck
  simp only [hl, if_false]
  simp [hv, hc]

/-- A scalar access passes its checks where its place is there, it is aligned, no repetition runs, and a load finds good data. -/
theorem smCheck_ok {s : State} {p : Nat} {u : Tile} {op : LOp} {ra imm : Nat} {pl : Place} (h0 : accSize op ≠ 0) (h1 : placeOf p u (lsAddr u op ra imm) (accSize op) (isStore op) = some pl)
    (h2 : lsAddr u op ra imm % accSize op = 0) (h3 : u.rep = none) (h4 : ∀ f c, pl = .mem f c → isStore op = true ∨ byteBad s f = false) : smCheck s p u op ra imm = .ok := by
  unfold smCheck
  simp only [h0, if_false, h1, h2]
  cases pl with
  | reg r => simp
  | mem f c =>
    rcases h4 f c rfl with h | h <;> simp [h3, h]

/-- Without errors in memory a load changes none (R254). -/
theorem lsSettle_clean {s : State} (p : Nat) (t : Tile) (op : LOp) (ra imm m type : Nat) (h : s.poison = [] ∧ s.errs = []) : lsSettle s p t op ra imm m type = s := by
  unfold lsSettle; rw [if_pos (.inl h)]

/-- Memory without errors at a ready boundary. -/
theorem ready_clean {s : State} {p : Nat} {t u : Tile} (h : TileReady s p t u) : s.poison = [] ∧ s.errs = [] := ⟨h.2.2.2.2.1.1, h.2.2.2.2.1.2.1⟩

/-- A lone LS syllable's writes, where memory is without errors. -/
theorem runSyls_ls {s : State} {p n : Nat} {t u : Tile} {op : LOp} {rd ra imm m type : Nat} {pi : Bool} (k : Nat) (h : s.poison = [] ∧ s.errs = []) :
    runSyls p t n [⟨0, k, .ls op rd ra imm m type pi, false⟩] s u = (s, lsFlights s p t u op rd ra imm m type pi) := by
  unfold runSyls; simp only [lsSettle_clean p t op ra imm m type h]; rfl

/-- A lone scalar access outside the CSM. -/
theorem alone_ls {s : State} {p : Nat} {t u : Tile} {op : LOp} {rd ra imm : Nat} {fs : List Flight} (h : TileReady s p t u) (hv : isVecMem op = false)
    (hc : smCheck s p u op ra imm = .ok) (ha : tileCsm (lsAddr u op ra imm) = false ∨ accSize op = 0) (he : lsFlights s p u u op rd ra imm 0 0 false = flying u fs) :
    giveSyllable p true (.ls op rd ra imm 0 0 false) s = lsStore (setTile s p (issued (flying u fs))) p u op rd ra imm 0 0 := by
  rw [alone_flies h (sylCheck_ls h hv hc) (by rcases ha with ha | ha <;> simp [csmAccess, ha, hv]) rfl (by rw [runSyls_ls _ (ready_clean h), he])]
  rfl

/-- A lone access to granules of the CSM: the same after its wait (R21, R189, R234). -/
theorem alone_ls_csm {s : State} {p : Nat} {gs : List Nat} {t u : Tile} {op : LOp} {rd ra imm m type : Nat} {pi : Bool} {u' : Tile} (h : TileReady s p t u)
    (hc : sylCheck s p u ⟨0, slotOf (.ls op rd ra imm m type pi), .ls op rd ra imm m type pi, false⟩ = .ok) (ha : csmAccess u (.ls op rd ra imm m type pi) = gs) (hb : 15 < u.budget)
    (he : lsFlights s p (waited s p u gs) (waited s p u gs) op rd ra imm m type pi = u') (hl : u'.loops = []) (hv : u'.afterReti = false) :
    giveSyllable p true (.ls op rd ra imm m type pi) s = lsStore (setTile s p (issued u')) p (waited s p u gs) op rd ra imm m type := by
  have hh := h
  obtain ⟨-, -, -, -, -, -, -, h8, h9, h10, h11, -⟩ := hh
  unfold waited delayed at he ⊢
  rw [alone_waits h hc rfl ha hb]
  rw [issueNow_one (u' := u') (s1 := s) (v := { u' with pc := u'.pc + 4 }) h10 h11 (by intro a b; constructor <;> (unfold controlOf controlOf; simp))
    (by rw [runSyls_ls _ (ready_clean h), he]) (nextPc_plain (by exact h8) (by exact h9) hl) hv]
  rfl

/-- A wait changes of the core only its clock and its budget. -/
theorem delayed_core (u : Tile) (w : Nat) : (delayed u w).loops = u.loops ∧ (delayed u w).afterReti = u.afterReti := ⟨rfl, rfl⟩

/-- The same of the wait for a CSM slot. -/
theorem waited_core (s : State) (p : Nat) (u : Tile) (gs : List Nat) : (waited s p u gs).loops = u.loops ∧ (waited s p u gs).afterReti = u.afterReti := delayed_core u _

/-- What a scalar load puts in flight: the value at its place, with the latency of the place; the post-increment form its address register too. -/
theorem lsFlights_load {s : State} {p : Nat} {t u : Tile} {op : LOp} {rd ra imm m type : Nat} {pi : Bool} {pl : Place} (hv : isVecMem op = false) (hs : isStore op = false)
    (h0 : accSize op ≠ 0) (h1 : placeOf p t (lsAddr t op ra imm) (accSize op) false = some pl) :
    lsFlights s p t u op rd ra imm m type pi =
      (let u1 := match pl with
        | .mem f csm => push u (if csm then 8 else 4) (.s rd) (loadValue op (rdLe s f (accSize op)))
        | .reg r => push u 8 (.s rd) (regRead s r)
       if op = .ldwPost then push u1 1 (.s ra) (unsignedOf 32 (sInt t ra + signedOf 12 imm)) else u1) := by
  have hc : ¬ (accSize op = 0 ∨ isStore op = true) := by simp [h0, hs]
  unfold lsFlights
  simp only [hv, if_neg hc, h1, Bool.false_eq_true, if_false]
  cases pl <;> cases op <;> first | rfl | (exact absurd hs (by decide))

/-- A scalar store puts nothing in flight, its post-increment form only its address register. -/
theorem lsFlights_store {s : State} {p : Nat} {t u : Tile} {op : LOp} {rd ra imm m type : Nat} {pi : Bool} (hv : isVecMem op = false) (hs : isStore op = true) :
    lsFlights s p t u op rd ra imm m type pi = (if op = .stwPost then push u 1 (.s ra) (unsignedOf 32 (sInt t ra + signedOf 12 imm)) else u) := by
  unfold lsFlights
  simp only [hv, hs, or_true, if_true, Bool.false_eq_true, if_false]
  cases op <;> first | rfl | (exact absurd hs (by decide))

/-- Putting a write in flight changes neither loops nor what a RETI left. -/
theorem push_core (u : Tile) (lat : Nat) (d : Dest) (v : Nat) : (push u lat d v).loops = u.loops ∧ (push u lat d v).afterReti = u.afterReti := by
  unfold push; split <;> exact ⟨rfl, rfl⟩

/-- The same with a saturation. -/
theorem pushSat_core (u : Tile) (lat : Nat) (b : Bool) : (pushSat u lat b).loops = u.loops ∧ (pushSat u lat b).afterReti = u.afterReti := by
  unfold pushSat; split
  · exact push_core ..
  · exact ⟨rfl, rfl⟩

/-- The same for a vector result. -/
theorem vWrite_core (t u : Tile) (vd lat w : Nat) (sat : Bool) (xs : List (Nat × Int)) :
    (vWrite t u vd lat w sat xs).loops = u.loops ∧ (vWrite t u vd lat w sat xs).afterReti = u.afterReti := by
  unfold vWrite
  obtain ⟨h1, h2⟩ := pushSat_core (push u lat (.v (vPhys t vd) (pack w sat xs).2.1) (pack w sat xs).1) lat (pack w sat xs).2.2
  obtain ⟨h3, h4⟩ := push_core u lat (.v (vPhys t vd) (pack w sat xs).2.1) (pack w sat xs).1
  exact ⟨h1.trans h3, h2.trans h4⟩

/-- The same for a write of a vector accumulator. -/
theorem accWrite_core (u : Tile) (a : Nat) (sat : Bool) (xs : List (Nat × Int)) :
    (accWrite u a sat xs).loops = u.loops ∧ (accWrite u a sat xs).afterReti = u.afterReti := by
  unfold accWrite
  dsimp only
  refine ⟨(pushSat_core _ _ _).1.trans ((push_core _ _ _ _).1.trans rfl), (pushSat_core _ _ _).2.trans ((push_core _ _ _ _).2.trans rfl)⟩

/-- The same for several accumulators. -/
theorem accWrites_core (f : Nat → Bool) (xs : List (Nat × Int)) (as : List Nat) : ∀ u : Tile,
    (as.foldl (fun u a => if f a then accWrite u a false xs else u) u).loops = u.loops ∧
    (as.foldl (fun u a => if f a then accWrite u a false xs else u) u).afterReti = u.afterReti := by
  induction as with
  | nil => intro u; exact ⟨rfl, rfl⟩
  | cons a as ih =>
    intro u
    rw [List.foldl_cons]
    obtain ⟨h1, h2⟩ := ih (if f a then accWrite u a false xs else u)
    cases hf : f a
    · rw [hf] at h1 h2; exact ⟨h1, h2⟩
    · rw [hf] at h1 h2; exact ⟨h1.trans (accWrite_core ..).1, h2.trans (accWrite_core ..).2⟩

/-- A lone VX syllable of a permitted TYPE that leaves the core as u'. -/
theorem alone_vx_core {s : State} {p : Nat} {t u u' : Tile} {sat : Bool} {op : VOp} {vd va vb m type : Nat} (h : TileReady s p t u)
    (h1 : vxTypeOk op type = true) (he : vxExec u u op sat vd va vb m type = u') (hl : u'.loops = u.loops ∧ u'.afterReti = u.afterReti) :
    giveSyllable p true (.vx op sat vd va vb m type) s = setTile s p (issued u') := by
  have hh := h
  obtain ⟨-, -, -, -, -, -, h7, h8, h9, -, h11, h12⟩ := hh
  have hp : u.pc < u.codeLen := by omega
  rw [alone_next (s1 := s) (u' := u') (v := { u' with pc := u'.pc + 4 }) h (by unfold sylCheck; simp [hp, h1]) (.inl rfl) rfl
    (by intro a b; constructor <;> (unfold controlOf controlOf; simp)) (by unfold runSyls; simp only [he]; rfl)
    (nextPc_plain h8 h9 (by rw [hl.1]; exact h7)) (by rw [hl.2]; exact h11)]
  rfl

/-- A search that nothing meets finds nothing. -/
theorem find?_none_of {α : Type} {p : α → Bool} {l : List α} (h : ∀ x ∈ l, p x = false) : l.find? p = none := by
  rw [List.find?_eq_none]; intro x hx; simp [h x hx]

/-- The scratchpad's granules are good where memory is without errors. -/
theorem byteBad_scratch {s : State} {p a : Nat} (h : s.poison = [] ∧ s.errs = []) (ha : tileCsm a = false) : byteBad s (vecFlat p a) = false := by
  have hf : fencedAt s (32 * (vecFlat p a / 32)) = false := by
    have : decide (32 * (vecFlat p a / 32) < 2 ^ 61 + 32 * 2 ^ 23) = false := by
      unfold vecFlat scratchFlat; rw [ha]; simp only [Bool.false_eq_true, if_false, decide_eq_false_iff_not]; omega
    unfold fencedAt; rw [this]; simp
  unfold byteBad granBad poisoned errAt
  rw [h.1, h.2, hf]; rfl

/-- A vector access outside a repetition passes its checks where it is aligned, its elements' bytes are permitted, and a load finds good data. -/
theorem vmCheck_ok {s : State} {p : Nat} {u : Tile} {op : LOp} {ra m type : Nat} (h0 : s.poison = [] ∧ s.errs = []) (h1 : u.rep = none)
    (h2 : op = .vld ∨ op = .vst → type ≤ 4 ∧ regionOfs (sGet u ra) % 5 = 0)
    (h3 : ∀ i ∈ activeElts u m (vmShape u op type).2, ∀ b, (eltBytes (vmShape u op type).1 i).1 ≤ b → b < (eltBytes (vmShape u op type).1 i).2 →
      byteOk u (isStore op) (sGet u ra + b) = true ∧ (isStore op = true ∨ tileCsm (sGet u ra + b) = false ∨ byteBad s (vecFlat p (sGet u ra + b)) = false)) :
    vmCheck s p u op ra m type = .ok := by
  have c1 : ¬ ((op = .vld ∨ op = .vst) ∧ 4 < type) := by rintro ⟨a, b⟩; have := (h2 a).1; omega
  have c2 : ¬ ((op = .vld ∨ op = .vst) ∧ regionOfs (sGet u ra) % 5 ≠ 0) := by rintro ⟨a, b⟩; exact b (h2 a).2
  have hbad : (vmElts u op m type).find? (fun i => (eltSpan (vmShape u op type).1 i).any fun b =>
      !byteOk u (isStore op) (sGet u ra + b) || !isStore op && tileCsm (sGet u ra + b) && byteBad s (vecFlat p (sGet u ra + b))) = none := by
    refine find?_none_of fun i hi => ?_
    rw [List.any_eq_false]
    intro b hb
    unfold eltSpan at hb
    simp only [List.mem_map, List.mem_range] at hb
    obtain ⟨j, hj, rfl⟩ := hb
    obtain ⟨k1, k2⟩ := h3 i (List.mem_filter.mp hi).1 ((eltBytes (vmShape u op type).1 i).1 + j) (by omega) (by omega)
    simp only [k1, Bool.not_true, Bool.false_or]
    rcases k2 with k | k | k <;> simp [k]
  have hdead : ∀ l : List Nat, l.find? (fun b => !tileCsm (sGet u ra + b) && byteBad s (vecFlat p (sGet u ra + b))) = none := by
    refine fun l => find?_none_of fun b _ => ?_
    cases hb : tileCsm (sGet u ra + b)
    · simp [byteBad_scratch h0 hb]
    · rfl
  unfold vmCheck
  simp only [c1, c2, h1, if_false, Option.isSome_none, Bool.false_eq_true, false_and, hbad, hdead, ite_self]

/-- The checks of a lone vector memory syllable. -/
theorem sylCheck_vm {s : State} {p : Nat} {t u : Tile} {op : LOp} {rd ra m type : Nat} {pi : Bool} (h : TileReady s p t u) (hv : isVecMem op = true)
    (hc : vmCheck s p u op ra m type = .ok) : sylCheck s p u ⟨0, slotOf (.ls op rd ra 0 m type pi), .ls op rd ra 0 m type pi, false⟩ = .ok := by
  have hl : ¬ u.codeLen ≤ u.pc + 4 * 0 := by have := h.2.2.2.2.2.2.2.2.2.2.2; omega
  unfold sylCheck
  simp only [hl, if_false]
  simp [hv, hc]

/-- Without a RETI before it a vector access begins at its first element. -/
theorem resume_none {u : Tile} (h : u.afterReti = false) (l : List Nat) : (l.filter fun i => decide (resumeAt u ≤ i)) = l := by
  have : resumeAt u = 0 := by unfold resumeAt; simp [h]
  rw [this]; simp

/-- Without a RETI before it a vector access takes all its active elements. -/
theorem vmElts_all {t : Tile} {op : LOp} {m type : Nat} (h : t.afterReti = false) : vmElts t op m type = activeElts t m (vmShape t op type).2 := resume_none h _

/-- What a vector access puts in flight where no RETI came before it. -/
theorem lsFlights_vec {s : State} {p : Nat} {t u : Tile} {op : LOp} {rd ra m type : Nat} {pi : Bool} (hv : isVecMem op = true) (h : t.afterReti = false) :
    lsFlights s p t u op rd ra 0 m type pi =
      (let a := sGet t ra
       let es := activeElts t m (vmShape t op type).2
       let lat := (if (vmCsm t op ra m type).isSome then 9 else 5) + (if regionOfs a % 160 = 0 then 0 else 1)
       let u1 := if isStore op then u else push u lat (.v (vPhys t rd) (vmLoad s p t op ra type es).2) (vmLoad s p t op ra type es).1
       let u2 := if pi then push u1 1 (.s ra) ((a + vmStep op (vmShape t op type).1 (vmShape t op type).2) % 2 ^ 32) else u1
       { u2 with vxIndex := 0, vxReason := 0 }) := by
  have ha : lsAddr t op ra 0 = sGet t ra := by cases op <;> first | rfl | (exact absurd hv (by decide))
  unfold lsFlights
  simp only [hv, ha, if_true, vmElts_all h]

/-- A lone vector access outside the CSM. -/
theorem alone_vm {s : State} {p : Nat} {t u u' : Tile} {op : LOp} {rd ra m type : Nat} {pi : Bool} (h : TileReady s p t u) (hv : isVecMem op = true)
    (hc : vmCheck s p u op ra m type = .ok) (ha : csmAccess u (.ls op rd ra 0 m type pi) = []) (he : lsFlights s p u u op rd ra 0 m type pi = u') (hl : u'.loops = []) (hr : u'.afterReti = false) :
    giveSyllable p true (.ls op rd ra 0 m type pi) s = lsStore (setTile s p (issued u')) p u op rd ra 0 m type := by
  have hh := h
  obtain ⟨-, -, -, -, -, -, -, h8, h9, h10, h11, -⟩ := hh
  rw [alone_next (s1 := s) (u' := u') (v := { u' with pc := u'.pc + 4 }) h (sylCheck_vm h hv hc) (.inl rfl) ha
    (by intro a b; constructor <;> (unfold controlOf controlOf; simp)) (by rw [runSyls_ls _ (ready_clean h), he]) (nextPc_plain h8 h9 hl) hr]
  rfl

end Sys2Proof.Machine
end

