-- ==== Sys2Proof/Machine/Package.lean ====
section
/-!
DEFINITION. The ball map of the package (spec/17_package.md R545 to R549): which signal or supply each of the 4,356 balls carries. No command
changes it; the functions behind the signals are those of their own chapters.
-/

namespace Sys2Proof.Machine

/-- The supplies of the balls (R547, R548); those of a quadrant carry its number. -/
inductive BallRail where
  | vddQ (q : Nat) | vddfQ (q : Nat) | vddmQ (q : Nat) | vppmQ (q : Nat) | vddlQ (q : Nat) | vddlhQ (q : Nat)
  | vddAo | vddNvs | vddIo | vddCxl | vddhCxl | vddHub
deriving DecidableEq, Repr

/-- What a ball carries: a half (p: the P ball) of a lane's or CXL lane's transmit or receive pair, the PCIe reference clock, PERST_N, item i of the low-speed
group, a supply or VSS (R547 to R549). -/
inductive Ball where
  | laneTx (lane : Nat) (p : Bool)
  | laneRx (lane : Nat) (p : Bool)
  | cxlTx (lane : Nat) (p : Bool)
  | cxlRx (lane : Nat) (p : Bool)
  | pcieRefclk (p : Bool)
  | perstN
  | lowSpeed (i : Nat)
  | rail (r : BallRail)
  | vss
deriving DecidableEq, Repr

/-- The letters of a row name in order (R545). -/
def rowLetters : List Char := ['A', 'B', 'C', 'D', 'E', 'F', 'G', 'H', 'J', 'K', 'L', 'M', 'N', 'P', 'T', 'U', 'V', 'W', 'Y']

/-- The name of the row with an index from 1 to 66 (R545). -/
def rowName (r : Nat) : List Char :=
  let i := r - 1
  let last := [rowLetters.getD (i % 19) 'A']
  if i < 19 then last else rowLetters.getD (i / 19 - 1) 'A' :: last

/-- Quadrant q's pattern at row r and column c of the Q0 quarter (R547). -/
def quadBall (q r c : Nat) : Ball :=
  if r ≤ 4 then
    (if c = 33 ∨ r % 2 = 0 then .vss else if r = 1 then .laneTx (16 * q + (c - 1) / 2) (c % 2 == 1) else .laneRx (16 * q + (c - 1) / 2) (c % 2 == 1))
  else if r ≤ 6 then .rail (.vddlQ q)
  else if r = 7 then .rail (.vddlhQ q)
  else if r = 8 then .vss
  else if r ≤ 10 then .rail (.vddmQ q)
  else if r = 11 then (if c ≤ 8 then .rail (.vppmQ q) else .rail (.vddmQ q))
  else if r = 12 then .vss
  else if r ≤ 14 then .rail (.vddfQ q)
  else if r = 15 then .vss
  else if (r + c) % 2 = 0 then .rail (.vddQ q) else .vss

/-- What a hub group puts at row r and column c of the package, where one names the ball (R548, R549). -/
def hubBall (r c : Nat) : Option Ball :=
  if 5 ≤ r ∧ r ≤ 8 ∧ 17 ≤ c ∧ c ≤ 32 then
    some (if r = 5 then .cxlTx ((c - 17) / 2) (c % 2 == 1) else if r = 7 then .cxlRx ((c - 17) / 2) (c % 2 == 1) else .vss)
  else if 9 ≤ r ∧ r ≤ 12 ∧ 17 ≤ c ∧ c ≤ 32 then
    some (if r = 9 then .cxlTx ((c - 1) / 2) (c % 2 == 1) else if r = 11 then .cxlRx ((c - 1) / 2) (c % 2 == 1) else .vss)
  else if c = 33 ∧ r ≤ 3 then some (if r = 1 then .pcieRefclk true else if r = 2 then .pcieRefclk false else .perstN)
  else if 13 ≤ r ∧ r ≤ 15 ∧ 14 ≤ c ∧ c ≤ 33 then some (.lowSpeed (3 * (c - 14) + (r - 13)))
  else if r = 28 ∧ 28 ≤ c ∧ c ≤ 39 then some (.rail (if c ≤ 31 then .vddAo else if c ≤ 35 then .vddNvs else .vddIo))
  else if (r = 29 ∨ r = 31) ∧ 28 ≤ c ∧ c ≤ 39 then some .vss
  else if r = 30 ∧ 28 ≤ c ∧ c ≤ 39 then some (.rail (if c ≤ 35 then .vddCxl else .vddhCxl))
  else if 32 ≤ r ∧ r ≤ 39 ∧ 28 ≤ c ∧ c ≤ 39 then some (if (r + c) % 2 = 0 then .rail .vddHub else .vss)
  else none

/-- The quadrant whose quarter holds row r and column c of the package, with the row and column in the Q0 quarter that a rotation brings there (R546). -/
def quarterOf (r c : Nat) : Nat × Nat × Nat :=
  if r ≤ 33 then (if c ≤ 33 then (0, r, c) else (1, 67 - c, r))
  else if 34 ≤ c then (2, 67 - r, 67 - c) else (3, c, 67 - r)

/-- The ball at row r and column c, each from 1 to 66: a hub group's assignment stands before the quadrant pattern (R546). Log: 129 PRESUMED. -/
def ballAt (r c : Nat) : Ball :=
  match hubBall r c with
  | some b => b
  | none =>
    let x := quarterOf r c
    quadBall x.1 x.2.1 x.2.2

/-- The balls of the package that satisfy p, counted (R550 gives the counts). -/
def countBalls (p : Ball → Bool) : Nat :=
  ((List.range 66).map fun r => ((List.range 66).filter fun c => p (ballAt (r + 1) (c + 1))).length).foldl (· + ·) 0

end Sys2Proof.Machine
end

