-- ==== Sys2Proof/WellFormed.lean ====
section
/-!
DEFINITION. Which commands are well-formed: the bounds of the operands that their types leave open. A command that is not well-formed cannot be sent by
anything the spec describes.
-/

namespace Sys2Proof

/-- An instant within the present always-on cycle, in ps: a cycle lasts about 40,000 ps (spec/02_larkspur_time.md R49, R50). -/
def dtOk (dt : Nat) : Bool := decide (dt < 65536)

/-- Granules of 32 bytes in each memory (spec/07_memory.md): host physical addresses have 52 bits (R251). -/
def unitGranules : MemUnit → Nat
  | .host => 2 ^ 47
  | .dram _ => 3 * 2 ^ 28
  | .csm _ => 2 ^ 18
  | .scratch _ => 2 ^ 14
  | .imem _ => 2 ^ 12
  | .nvs => 2 ^ 23

/-- Symbols in error: different symbols, each with a value other than 0 (R253). -/
def symErrsOk (es : List SymErr) : Bool := decide (es.map (·.sym)).Nodup && es.all fun e => e.val != 0

/-- Bytes written, where there are any, fill the length given. -/
def writeOk (w : Option (List Byte)) (len : Nat) : Bool :=
  decide (0 < len) && (match w with | some bs => bs.length == len | none => true)

/-- The well-formed commands. -/
def Instr.wellFormed : Instr → Bool
  | .syncSend _ dt | .ppsInEdge dt _ | .ptmDialogue _ dt | .eventPinEdge _ dt _ | .cmdTailWrite _ _ _ dt | .commandFetch _ dt
  | .signalRecord _ dt | .planDecision _ dt | .planDrop _ dt | .programLoadCopyDone _ dt | .programSwap _ dt | .jobDecision _ dt
  | .inputArrival _ dt | .taskStart _ _ dt | .dependenceNotice _ dt | .recordWrite _ dt | .everyFiring _ _ dt | .windowCloseHostWait _ dt
  | .engineOperationEnd _ _ dt | .ringLinkRetrain _ _ _ dt | .tddPinEdge _ _ dt | .markerSend _ dt | .forwardedFrameEgress _ dt
  | .partitionBlockReceive _ _ _ dt | .interruptMessage _ dt | .clusterWake _ _ dt | .tileCoreCheck _ dt | .redoStart _ dt
  | .engineCheck _ _ dt | .reinitialisationRecordWrite _ dt => dtOk dt
  | .ptpFrameReceive _ m => dtOk m.dt
  | .referenceLost fInt fRef => decide (0 < fInt ∧ 0 < fRef)
  | .patrolScrub m g es => decide (g < unitGranules m) && symErrsOk es
  | .hdmAccess _ ofs w len _ => writeOk w len && decide (len ≤ 64 ∧ ofs + len ≤ 2 ^ 33)
  | .partitionDramAccess _ _ w len => writeOk w len
  | .frameReceive _ f => dtOk f.dt && f.errs.all fun e => decide ((e.map (·.1)).Nodup) && e.all fun x => decide (x.1 < 140) && x.2 != 0
  | .markerReceive _ dt mks => dtOk dt && decide (mks.length ≤ 4)
  | .ethernetFrameReceive _ dt bytes _ _ => dtOk dt && decide (14 ≤ bytes.length)
  | .uPlaneReceive _ dt bytes | .oneWayDelayRequest _ dt bytes => dtOk dt && decide (0 < bytes.length)
  | .partitionBlockTransmit p lane _ _ _ dt => dtOk dt && decide (lane.val / 16 = p.val / 4)
  | .barRead bar2 addr len => decide (0 < len ∧ addr.toNat + len ≤ (if bar2 then 2 ^ 20 else 2 ^ 27))
  | .keyProg _ _ _ _ _ key => decide (key.length = 32)
  | .spdmRequest _ (.certificate slot ofs len) => decide (slot < 8 ∧ ofs < 65536 ∧ len < 65536)
  | .scrubFrame _ es _ => (es.map fun e => e.2.val).all (· != 0)
  | _ => true

end Sys2Proof
end

