-- ==== Sys2Proof/Tests/Slice0.lean ====
section
/-!
SUPPORT. Tests: small states; terms that WellFormed refuses; figures that the spec works out; and for each clause with hypotheses of the statements, states and operands
that meet them.
-/

namespace Sys2Proof.Tests

set_option linter.all false
set_option Elab.async false

open Sys2Proof Sys2Proof.Machine Sys2Proof.Safety

/-! ## Small states -/

def stF (l : List (Field × Nat)) : State := l.foldl (fun s x => setF s x.1 x.2) State.reset
def aPlan : Plan := { ci := 3, home := 0, coupled := false, op := 0, mu := 1, period := 1, dtxMax := 0, drxMax := 0, parts := [], windows := [], seq := 1, firstSlot := 0, tFirst := 0, tEnd := none, freeAt := none, sharesAt := 0, delayViol := false }
def aCmd : JobCmd := { ci := 3, cls := 0, slot := 0, tag := 9, deadline := 0, irq := false, seq := 1, fenceSeq := 0 }
def aTask : TaskCmd := { kind := 1, win := 0, prog := 0, inFirst := 0, inLast := 0, outFirst := 0, outLast := 0, inEn := false, outEn := false, cost := 0, args := [0, 0, 0, 0], at_ := none }
def aNode : Node := { id := 5, idx := 0, quad := 0, cluster := 0, res := 0, win := 0, cmd := aTask, opn := 0, clo := 0, cost := 0, budget := 100, ver := none, succs := [], counter := 0, rt := 0, need := 0, bound := 0 }
def aJob : Job := { cmd := aCmd, ring := 0, planSeq := 1, home := 0, s0 := 0, slotLen := 500000000, deadline := 0, stamp := 0, tNow := 0, nodes := [aNode], recNode := 6, recCounter := 0 }
def ring7 : State := setRing (stF [(ADM_RING_CTL_EN 0 7, 1), (ADM_CTL_EN 0, 1), (ADM_RING_CMD_BASE_ADDR 0 7, 2 ^ 48), (ADM_RING_CQ_BASE_ADDR 0 7, 2 ^ 48 + 256)]) 7 { cmdTail := 1, stamps := [0] }
def withWord (b : Nat) : State := setRing State.reset 7 { words := [⟨b, 0, 0, false⟩] }
def withJob (b : Nat) : State := setRing State.reset 7 { words := [⟨b, 0, 0, false⟩], openJob := some aCmd }
def took (s : State) : State := setRing s 7 { getRing s 7 with words := [] }
def planImg : List Byte := leBytes 4 0x00010001 ++ leBytes 4 0x10010 ++ leBytes 8 0 ++ leBytes 4 0x40 ++ leBytes 12 0 ++ leBytes 4 152 ++ leBytes 28 0 ++
  leBytes 4 0x10000 ++ leBytes 44 0 ++ leBytes 4 0x80 ++ leBytes 4 0x90 ++ leBytes 4 8 ++ leBytes 4 0 ++
  leBytes 4 0x2000 ++ leBytes 4 0 ++ leBytes 4 400000 ++ leBytes 4 0 ++ leBytes 8 0
def slot10 : Nat := ((firstSlotAt 1 (ciOfs State.reset 3) 1000000000 + 10) % 2 ^ 32).toNat
def planU : UCmd := ⟨.planSet, 7, false, 3, slot10, 1, 0, 0, 0, 0, 0, some planImg, [], false, false⟩
def planOk : Plan := match (checkPlan State.reset planU 1000000000).1 with | .ok p => p | .error _ => aPlan
def at_ (s : State) (ms : Nat) : State := { s with ct := CT.ofUnits (ms * 1000000 * 2 ^ 40) }
def withU (u : UCmd) : State := at_ { State.reset with ucmds := [u] } 3
def closedJob : JobCmd := { aCmd with slot := slot10, deadline := 400000, tasks := [{ aTask with kind := 2, cost := 1000 }] }
def withPlan : State := { State.reset with plans := [planOk] }
def jobState : State := at_ (setRing withPlan 7 { closed := [closedJob] }) 1
def nodeAt (n : Node) : State := { State.reset with jobs := [{ aJob with nodes := [n] }] }
def readyNode : Node := { aNode with res := 9, readyAt := some 0, onChip := true, clo := 1000000000, st := .waiting }
def runNode : Node := { aNode with res := 9, clo := 1000000000, st := .running, cmd := { aTask with kind := 2 } }
def bmeJob : Job := { aJob with nodes := [runNode] }
def bmeState : State := { State.reset with jobs := [bmeJob], plans := [aPlan] }
def doneState : State := { State.reset with jobs := [{ aJob with nodes := [] }] }
def gridState : State := { State.reset with ct := CT.ofUnits (1000000000 * 2 ^ 40) }
def offGrid : State := { State.reset with ct := CT.ofUnits (100 * 2 ^ 40) }
def dmaTask : State := setDma { stF [(DMA_CH_STAT_STATE 0 0, 1)] with jobs := [bmeJob] } 0 0 { node := some 5 }
def winPlan : Plan := { aPlan with windows := [⟨0, 6, 0, 0, 0, 0, 0, 500000⟩] }
def winState : State := { stF [(DMA_CH_STAT_STATE 0 1, 1)] with plans := [{ winPlan with tFirst := -1000000000000, firstSlot := slotAt 1 (ciOfs State.reset 3) 0 - 100 }] }
def cplPart : PlanPart := ⟨2, 0, 0, [], 0, 0, [], []⟩
def cplPlan : Plan := { aPlan with coupled := true, parts := [cplPart] }
def cplState : State := setQuad { State.reset with plans := [cplPlan] } 2 { reinit := some 0 }
def tile0 : Tile := { running := true, codeLen := 4096, budget := 1000, vl := 128 }
def tileState : State := setTile State.reset 5 tile0
def csmTile : Tile := { tile0 with sreg := [(1, 0x08000000), (2, 16)], wins := [(3, 2047 * 4096)] }
def csmState : State := setTile State.reset 5 csmTile
def regTile : Tile := { tile0 with sreg := [(1, 0x0C000000), (2, 16)] }
def regState : State := setTile State.reset 5 regTile
def vecTile : Tile := { tile0 with sreg := [(1, 0x08000000), (2, 160)], vreg := [(3, BitVec.ofNat 1280 (2 ^ 1279 + 7))], mreg := [(1, 0xFF)] }
def vecState : State := setTile State.reset 5 vecTile
def csmVecTile : Tile := { tile0 with sreg := [(1, 0x08000000), (2, 16)], wins := [(3, 2047 * 4096)], mreg := [(1, 0xFF)] }
def csmVec : State := setTile State.reset 5 csmVecTile
def irqTile : Tile := { tile0 with first := false, irqMask := 7, irqPend := 6, ivec := 64, evec := 128 }
def excTile : Tile := { tile0 with fault := some (0x05, 16, false), evec := 128 }
def tmrState : State := setTile State.reset 5 { tile0 with tmrArmed := true }
def intState (en : Bool) : State := setInt { stF [(INT_SRC_CFG_EN 768, 1)] with cfg := { State.reset.cfg with msixEnable := en } } 768 { pend := true }
def lvlState : State := setInt (stF [(INT_SRC_CFG_EN 816, 1)]) 816 { due := true }
def ackState : State := setInt (stF [(INT_SRC_CFG_EN 816, 1)]) 816 { asserted := true }
def stuckState : State := setInt State.reset 816 { stuck := true }
def hdmState : State := { stF [(MEM_HDM_SIZE 1, 2)] with cfg := { State.reset.cfg with biEnable := true } }
def tddState : State := { State.reset with tddLive := [(TDD_GRP_CFG 3, 3), (TDD_GRP_P1 3, 0x10008000)] }
def frmState : State := setLane (setR (stF [(LAN_STAT_STATE 0, 2), (LAN_CTL_EN 0, 1)]) (LAN_PORTS 0) 0x80) 0 { framesFrom := 0 }
def anEnt : LaneEnt := { port := 0, fd := false, prach := false, rxAddr := 0, rxCl := 0, rxGa := 64, txAddr := 16384, txCl := 0, txGa := 64, eaxc := 0, secid := 0, nprb := 0, iqw := 0, comp := false, nslot := 0, mbps := 0, cpAddr := 0, cpCl := 0 }
def radState : State := { frmState with plans := [{ aPlan with parts := [⟨0, 0, 0, [], 0, 0, [], [anEnt]⟩] }], ct := CT.ofUnits ((fetchInstant 90 (lanePeriod frmState 0)).toNat / 1000 * 2 ^ 40) }
def trainState : State := stF [(LAN_STAT_STATE 0, 1), (LAN_CTL_EN 0, 1), (LAN_STAT_BLOCK_LOCK 0, 1)]
def passState : State := stF [(LAN_STAT_STATE 0, 1), (LAN_CTL_EN 0, 1), (LAN_STAT_BLOCK_LOCK 0, 1), (LAN_STAT_FEC_LOCK 0, 1), (LAN_STAT_PEER_OK 0, 1), (LKS_LANE_STAT_CAL_DONE 0 0, 1)]
def mkBits (lane echo : Nat) : Nat := let b := lane + 64 + 2 ^ 96 * echo; b + 2 ^ 184 * markerCrc b
def ethState : State := stF [(LAN_CTL_MODE 0, 5), (LAN_STAT_STATE 0, 2), (LAN_CTL_EN 0, 1), (LAN_FDPORTS_PORTS 0, 1)]
def ethFrame (t op : Nat) : List Byte := List.replicate 12 0 ++ beBytes 2 t ++ beBytes 1 0 ++ beBytes 1 op ++ List.replicate 48 0
def fdEnt : LaneEnt := { anEnt with fd := true, nprb := 1, iqw := 16, nslot := 3, rxGa := 60, txGa := 60 }
def upPlan : Plan := { aPlan with parts := [⟨0, 0, 0, [], 0, 0, [], [fdEnt]⟩], tFirst := -1000000000000000000000000, firstSlot := -1000000000000000 }
def upState : State := { ethState with plans := [upPlan] }
def upMsg : List Byte := beBytes 1 0x10 ++ beBytes 1 0 ++ beBytes 2 64 ++ beBytes 2 0 ++ beBytes 1 0 ++ beBytes 1 0x80 ++ beBytes 4 0x90000000 ++ List.replicate 52 0
def fwdState : State := setLane ethState 0 { getLane ethState 0 with egress := [(ethFrame 0x88F7 0, 0)] }
def ioState : State := stF [(PHX_CTL_IO_EN 5, 1), (PHX_STAT_STATE 5, 1), (PHX_BW_SHARES 5, 1), (PHX_DWIN_LIMIT_LIMIT 5, 100), (PHX_LANES_ATT 5, 1), (LAN_STAT_STATE 16, 2)]
def swapState : State := setPhx (stF [(PHX_LOAD_STAT_STATE 5, 2)]) 5 { swapAt := some 1000, rst := true, mhz := clampNat 100 500 (getF State.reset (PHX_CLK_MHZ 5)) }
def scrState : State := stF [(PHX_STAT_STATE 5, 1), (SCR_CTL_EN 1, 1)]
def repState : State := setScr scrState 1 { repair := some (40960, true) }
def chkState : State := setScr State.reset 1 { checkDue := true }
def opPlan : State := { State.reset with plans := [{ aPlan with op := 3, parts := [⟨0, 255, 255, [], 0, 0, [], []⟩], windows := [⟨0, 6, 0, 0, 0, 0, 0, 500000⟩] }] }
def hotState : State := stF [(PRM_THERM_TEMP_Q0, 400)]
def usAt (s : State) (us : Nat) : State := { s with ct := CT.ofUnits (us * 1000 * 2 ^ 40) }
def entState (w : Nat) : State := { setCl (stF [(PWR_CL_STAT_STATE 3, 4), (PWR_CL_CMD_WAKE 3, w)]) 3 { entering := some (2, 0) } with ct := CT.ofUnits (480 * 2 ^ 40) }
def wakeState (us : Nat) : State := usAt (setCl (stF [(PWR_CL_STAT_STATE 3, 5)]) 3 { wake := some 0, asleep := 3 }) us
def qEnt (off : Bool) (ms : Nat) : State := at_ (setQuad (stF [(PRM_Q_CTL_TARGET 1, 1), (PRM_Q_STAT_STATE 1, 3)]) 1 { entering := some 0, toOff := off }) ms
def recState : State := at_ (setQuad (stF [(CXL_LINK_STAT_RATE, 6)]) 1 { records := [aJob] }) 5
def redoNode : Node := { aNode with res := 5, clo := 1000000000, cost := 1000, st := .running }
def redoJob : Job := { aJob with nodes := [redoNode], deadline := 2000000000 }
def noRedo : State := setTile { State.reset with jobs := [redoJob], plans := [aPlan] } 5 { tile0 with node := 5 }
def redoState : State := setF noRedo (PRM_REDO_EN_CI 0) 8
def redoWait : State := setHw redoState 5 { redo := some (5, 0), spareFor := some 5, stopped := true }
def fwVer : State := setF { State.reset with fw := { State.reset.fw with target := some true } } PRM_FW_STAT_STATE 1
def fwCore : State := setF (at_ { State.reset with fw := { State.reset.fw with target := some true } } 1) PRM_FW_STAT_STATE 2
def fwWatch (ms : Nat) : State := setF (at_ { State.reset with fw := { State.reset.fw with target := some true, watch := some 0 } } ms) PRM_FW_STAT_STATE 3
def reqState (op : Nat) : State := { State.reset with fox := { State.reset.fox with mbox := [(0, BitVec.ofNat 8 op)] } }
def enrolState : State := { stF [(FXG_NONCE_WORD 0, 5)] with fox := { State.reset.fox with mbox := [(0, 1), (0x10, 5)] } }
def doeState (n : Nat) : State := setDoe { State.reset with fox := { State.reset.fox with sessions := n } } 2 { busy := some [] }
def ideState : State := { doeState 1 with fox := { (doeState 1).fox with ideKeys := [(2 * ideDir false false 3, [1])], ideUse := [(ideDir false false 3, 1)] } }
def dbgState (e : Nat) : State := { State.reset with fox := { State.reset.fox with dbg := some ⟨1, e⟩ } }
def aMove : Move := { src := 2 ^ 60, dst := 4096, dev := 4096, len := 64, entry := 0, rd := false, go := true, st := .writing }
def ringPart (q : Nat) : PlanPart := ⟨q, 255, 255, [], 0, 64, [], []⟩
def fullRing : Plan := { aPlan with home := 1, coupled := true, parts := [ringPart 1, ringPart 2] }
def nvsState (t : Nat) : State := stF [(NVS_OP_TARGET, t)]

def aSig : Signal := ⟨1, 2, true, 0, 0, 0, some 5⟩
def hostLink : List (Field × Nat) := [(CXL_LINK_STAT_RATE, 6), (CXL_LINK_STAT_CXL, 1), (CXL_LINK_STAT_CACHE_EN, 1), (MEM_HWIN_CTL_EN 0 0, 1), (MEM_HWIN_CTL_W 0 0, 1), (MEM_HWIN_LIMIT_LIMIT 0 0, 4095)]
def sigState (base : Nat) (sf : SMap Nat) : State := { setRing (stF ((ADM_RING_CQ_BASE_ADDR 0 7, base) :: hostLink)) 7 { signals := [aSig] } with sf := sf }
def sentRec : PendRec := { ring := 7, irq := false, rec_ := ⟨1, 0, 0, 0x3FF, 5, 2, 0, 0, none, 0⟩, sent := some (4096, [7]) }
def lateJob : JobCmd := { closedJob with term1 := 6397500000 }
def lateState : State := at_ (setRing withPlan 7 { closed := [lateJob] }) 7
def lostState : State := setCl jobState 0 { getCl jobState 0 with lostEng := 63, lostTiles := 255 }
def hdmBase : State := stF [(MEM_HDM_LOCKED 0, 1), (MEM_HDM_SIZE 0, 2)]
def fullFilter (n : Nat) : State := { hdmBase with sf := (List.range n).map fun i => (i + 1, 1) }
def doneJob : Job := { aJob with nodes := [] }
def doneDram : State := { stF [(ADM_RING_CQ_BASE_ADDR 0 0, 2 ^ 48 + 256)] with jobs := [doneJob] }

def obsState : State := { setF (setF frmState (PFE_OBS_CTL_EN 0 0) 1) (PFE_OBS_CTL_REF_CI 0 0) 3 with plans := [aPlan] }
def capState : State := setCaptures frmState 0 [{ first := 0, len := 2, slot := 4, due := 50000000 }]
def grp4 (st : Nat) : State := stF ((List.range 4).flatMap fun m => [(LAN_CTL_MODE m, 4), (LAN_STAT_STATE m, st), (LAN_CTL_EN m, 1), (LAN_STAT_BLOCK_LOCK m, 1), (LAN_STAT_FEC_LOCK m, 1), (LKS_LANE_STAT_CAL_DONE 0 m, 1)])
def upLane (h : LaneHw → LaneHw) : State := setLane (setF (setF frmState (LAN_STAT_BLOCK_LOCK 0) 1) (LAN_STAT_FEC_LOCK 0) 1) 0 (h (getLane frmState 0))
def mks (v : Nat) (bad : Bool) : List MarkBlock := (List.range 4).map fun k => ⟨BitVec.ofNat 64 (0x78 + k + 2 ^ 8 * bitsOf v (56 * k) 56), 0, bad⟩
def mkState : State := setLane (setF (setF frmState (LAN_STAT_BLOCK_LOCK 0) 1) (LAN_STAT_FEC_LOCK 0) 1) 0 { getLane frmState 0 with markers := [(7, 0)] }
/-- The entry and slot of a U-plane message with symbol sym at ms, and how far its bound is ahead. -/
def uAhead (sym ms : Nat) : Option Int := let s := at_ upState ms
  let bs := upMsg.take 8 ++ beBytes 4 (0x90000000 + sym) ++ upMsg.drop 12
  (((uEnts s 0 bs).map fun x => (x, slotNamed s x.1 (bitsOf (beAt bs 8 4) 16 8) (bitsOf (beAt bs 8 4) 12 4) (bitsOf (beAt bs 8 4) 6 6))).find? fun x => entInForce s x.1 x.2 && filterOk x.1.2 (bitsOf (beAt bs 8 4) 24 4)).map fun x =>
    symEnd x.1.1.mu (ciOfs s x.1.1.ci) x.2 sym + (x.1.1.drxMax : Int) * 1000 + lRx - now s

/-! ## Terms that WellFormed refuses -/

theorem test_illFormed_dt : (Instr.commandFetch 7 65536).wellFormed = false := by decide
theorem test_wellFormed_dt : (Instr.commandFetch 7 39999).wellFormed = true := by decide
theorem test_illFormed_ptp_dt : (Instr.ptpFrameReceive 3 ⟨.sync, true, true, false, 0, 65536, 0, 0, 0, 0, 0⟩).wellFormed = false := by decide
theorem test_illFormed_ratio : (Instr.referenceLost 0 5).wellFormed = false := by decide
theorem test_illFormed_granule : (Instr.patrolScrub (.csm 3) (2 ^ 18) []).wellFormed = false := by decide
theorem test_illFormed_symbol_twice : (Instr.patrolScrub (.csm 3) 0 [⟨3, 1⟩, ⟨3, 2⟩]).wellFormed = false := by decide
theorem test_illFormed_symbol_zero : (Instr.patrolScrub (.csm 3) 0 [⟨3, 0⟩]).wellFormed = false := by decide
theorem test_illFormed_hdm_length : (Instr.hdmAccess 0 0 none 65 true).wellFormed = false := by decide
theorem test_illFormed_hdm_bytes : (Instr.hdmAccess 0 0 (some [1, 2]) 3 true).wellFormed = false := by decide
theorem test_illFormed_partition_access : (Instr.partitionDramAccess 0 0 none 0).wellFormed = false := by decide
theorem test_illFormed_marker_bits : (Instr.markerReceive 0 0 (List.replicate 5 ⟨0, 0, false⟩)).wellFormed = false := by decide
theorem test_illFormed_ethernet : (Instr.ethernetFrameReceive 0 0 [1] true true).wellFormed = false := by decide
theorem test_illFormed_block_lane : (Instr.partitionBlockTransmit 0 16 1 0 false 0).wellFormed = false := by decide
theorem test_illFormed_bar : (Instr.barRead true 0xFFFFE 4).wellFormed = false := by decide
theorem test_illFormed_key : (Instr.keyProg true false false 0 0 [1]).wellFormed = false := by decide
theorem test_illFormed_certificate : (Instr.spdmRequest 1 (.certificate 8 0 16)).wellFormed = false := by decide

/-! ## Figures that the spec works out -/

/-- R379, R389: A = 134,760 on BG1 without LBRM gives 16 code blocks with K' = 8,448 and Ncb = 25,344. -/
theorem test_segmentation : ldpcBlocks (codeOp (134760 * 2 ^ 32) true).1 = List.replicate 16 ⟨8424, 8448, 25344, 25344⟩ := by decide +kernel
/-- R379: the CDE's and the CEE's cost of that block at OP5. -/
theorem test_coding_costs : cdeCost 1600 337920 202752 (16 + 8 * 2 ^ 8 + 25344 * 2 ^ 13) = 26880 ∧ ceeCost 1600 337920 202752 16 = 13500 := by decide +kernel
/-- R312: the XFE task of the 100 MHz carrier costs 56,375 ns. -/
theorem test_xfe_cost : xfeCost 1600 84 4512 4096 = 56375 := by decide +kernel
/-- R341: the PUSCH task over 273 PRBs costs 26,752 ns. -/
theorem test_dte_cost : dteCost 1600 39312 (16 + 4 * 2 ^ 8 + 138 * 2 ^ 16) (1 + 6552 * 2 ^ 8) = 26752 := by decide +kernel
/-- R389: staging a soft buffer of 253,504 bytes from DRAM with 16 shares costs 5,422 ns. -/
theorem test_dma_cost : dmaCost 1600 16 0 253504 (1 + 2 * 2 ^ 8) 0 = 5422 := by decide +kernel
/-- R386: a stored +9 with +17 gives 37 and the code +11; a stored −7 with +30 gives 19 and the code +9. -/
theorem test_combine : combine (some [9, 25]) [some 17, some 30] = [37, 19] ∧ softCode 37 = 11 ∧ softCode 19 = 9 := by decide +kernel
/-- R239: the roundings of the worked example. -/
theorem test_block_rounding : rnd 2046 3 = 256 ∧ rnd 1001 3 = 125 ∧ rnd (-1001) 3 = -125 ∧ rnd (-2046) 3 = -256 ∧ rnd 2046 2 = 512 := by decide
/-- R417: PRE 8, MAIN 56 and POST 12 are in force as 6, 47 and 10. -/
theorem test_equaliser : eqTaps (8 + 2 ^ 8 * 56 + 2 ^ 16 * 12) = 6 + 2 ^ 8 * 47 + 2 ^ 16 * 10 := by decide
/-- R462: the bound of a load of 1,089,808 bytes and 2,048 records is 2,999.408 µs. -/
theorem test_load_bound : loadBound 1089808 2048 = 2999408000 := by decide
/-- R503: at OP5 the lead of a redo is 32,840 ns. -/
theorem test_redo_lead : redoLead 5 = 32840000 := by decide
/-- R503: the worked task is redone from 110,000 ns, and not from 150,000 ns. -/
theorem test_redo_fits :
    redoFits (setF State.reset (PRM_REDO_EN_CI 0) 8) { aJob with deadline := 250000000 } { aNode with clo := 200000000, cost := 20000000 } 110000000 (redoLead 5) = true ∧
    redoFits (setF State.reset (PRM_REDO_EN_CI 0) 8) { aJob with deadline := 250000000 } { aNode with clo := 200000000, cost := 20000000 } 150000000 (redoLead 5) = false := by
  decide +kernel
/-- R484, R485: from SLEEP the fall-back at 14,300 ns is a wake, and one at 20,001 ns is not. -/
theorem test_wake_limits : wakeFits 3 1 14300000 = true ∧ wakeFits 3 1 20001000 = false ∧ wakeFits 2 0 8000001 = false := by decide
/-- R72: at CT 1,750,000,000 s + 3,250,000 ns a carrier instance at µ1 with OFS 0 is in slot 6 of its frame, in symbol 6. -/
theorem test_radio_time :
    slotAt 1 0 (1750000000 * 1000000000000 + 3250000000) % 20 = 6 ∧ slotAt 1 0 (1750000000 * 1000000000000 + 3250000000) / 20 = 143403518100 ∧
    symAt { mu := 1, ofs := 0, tdd := true, flex := false, two := false, p1 := 0, p2 := 0, up := 0, down := 0, tail := 0, nta := 0 } (1750000000 * 1000000000000 + 3250000000) % 14 = 6 := by decide +kernel
/-- R398: four ports at 491.52 Msps fit an ORL-56 lane. -/
theorem test_lane_capacity : capacityOk (stF [(LAN_CTL_MODE 0, 0), (LAN_CTL_FEC 0, 1), (LAN_RATE_RATE 0, 7)]) 0 4 = true := by decide +kernel
/-- R520: IDCODE. -/
theorem test_idcode : (match exec .idcode State.reset with | .next t => decide (t.out = [.jtagId 0x14192779]) | _ => false) = true := by decide +kernel
theorem test_step_front : (match step { State.reset with pending := [.nonce, .vbatLow] } with | .next t => decide (t.pending = [.vbatLow]) | _ => false) = true := by decide +kernel
/-- R550: 1,865 balls carry VSS, and 1,116 a VDD_Qq. -/
theorem test_ball_counts :
    countBalls (fun b => b == .vss) = 1865 ∧ countBalls (fun b => match b with | .rail (.vddQ _) => true | _ => false) = 1116 := by decide +kernel
/-- R545, R547, R549: rows 33 and 66 are AP and CJ; L16 transmits on A66 and B66, L32 receives on CG66 and CG65; EV5 is T21 and POR_N N16. -/
theorem test_ball_places :
    rowName 33 = ['A', 'P'] ∧ rowName 66 = ['C', 'J'] ∧ rowName 64 = ['C', 'G'] ∧ ballAt 1 66 = .laneTx 16 true ∧ ballAt 2 66 = .laneTx 16 false ∧
    ballAt 64 66 = .laneRx 32 true ∧ ballAt 64 65 = .laneRx 32 false ∧ ballAt 15 21 = .lowSpeed 23 ∧ ballAt 13 16 = .lowSpeed 6 := by decide +kernel

/-! ## Hypotheses of the statements are met -/

theorem test_AStepRunsTheFrontCommand_1 : State.reset.pending = [] := by decide +kernel
theorem test_EveryStepKeepsMemoryAndRegistersCanonical_0 : Memory.wf State.reset.mem = true ∧ smWf regReset State.reset.regs = true ∧ (match step State.reset with | .next _ => true | _ => false) = true := by decide +kernel
theorem test_EveryStepKeepsNanosecondsInRange_0 : State.reset.ct.ns.toNat < 1000000000 ∧ State.reset.lks.pendLoad = none ∧ (match step State.reset with | .next _ => true | _ => false) = true := by decide +kernel
theorem test_EveryStepTakesExactlyOneCommand_0 : ({ State.reset with pending := [.bypass, .clamp true] } : State).pending = .bypass :: [.clamp true] ∧ (match step { State.reset with pending := [.bypass, .clamp true] } with | .next t => decide (t.pending = [.clamp true]) | _ => false) = true := by decide +kernel
theorem test_MemoryAndRegistersReadBack_0 : Memory.wf State.reset.mem = true ∧ ([7, 9] : List Byte)[1]? = some 9 ∧ fencedAt State.reset (2 ^ 61 + 1) = false ∧ fencedAt (stF [(MEM_CSM_FENCE_BANKS 0, 1)]) (2 ^ 61 + 1) = true := by decide +kernel
theorem test_MemoryAndRegistersReadBack_1 : smWf (fun _ => false) State.reset.poison = true := by decide +kernel
theorem test_MemoryAndRegistersReadBack_2 : smWf regReset State.reset.regs = true := by decide +kernel
theorem test_MemoryAndRegistersReadBack_3 : smWf regReset State.reset.regs = true ∧ (PRM_RETIRE_TILE).lo + (PRM_RETIRE_TILE).w ≤ 32 := by decide +kernel
theorem test_ATaskStartsWithItsState_0 : (({ State.reset with progs := [{ id := 7, cluster := 0, tile := 5, prog := 2, unit := 0, units := 1, image := [], state := .active, swap := none }] } : State).progs.find? fun v => ({ aNode with ver := some 7 } : Node).ver == some v.id).isSome = true := by decide +kernel
theorem test_ExtaScalesTheAccumulator_0 : TileReady tileState 5 tile0 tile0 ∧ (⟨5, true, false, true⟩ : Sy).e = true := by decide +kernel
theorem test_CycleAdvancesTime_0 : State.reset.lks.pendBase = none ∧ State.reset.lks.pendLost = [] ∧ State.reset.lks.pendSwitch = none ∧ State.reset.lks.pendSnap = false ∧ State.reset.lks.pendLoad = none := by decide +kernel
theorem test_CycleAdvancesTime_1 : ({ State.reset.lks with pendLoad := some (5, 7) } : Larkspur).pendLoad = some (5, 7) := by decide +kernel
theorem test_TimeIsSet_0 : smWf regReset State.reset.regs = true ∧ getF State.reset LKS_STATUS_STATE = 0 ∧ State.reset.lks.pendBase = none ∧ State.reset.lks.pendLost = [] ∧ State.reset.lks.pendSwitch = none ∧ State.reset.lks.pendSnap = false := by decide +kernel
theorem test_TimeIsSet_1 : smWf regReset (stF [(LKS_STATUS_STATE, 2), (LKS_CTL_STEP_EN, 1)]).regs = true ∧ isF (stF [(LKS_STATUS_STATE, 2), (LKS_CTL_STEP_EN, 1)]) LKS_CTL_STEP_EN = true ∧ (stF [(LKS_STATUS_STATE, 2), (LKS_CTL_STEP_EN, 1)]).plans = [] ∧ smWf regReset (stF [(LKS_STATUS_STATE, 2)]).regs = true ∧ getF (stF [(LKS_STATUS_STATE, 2)]) LKS_STATUS_STATE ≠ 0 ∧ isF (stF [(LKS_STATUS_STATE, 2)]) LKS_CTL_STEP_EN = false := by decide +kernel
theorem test_TimeIsSet_2 : smWf regReset State.reset.regs = true ∧ State.reset.lks.pendBase = none ∧ State.reset.lks.pendLost = [] ∧ State.reset.lks.pendSwitch = none ∧ State.reset.lks.pendSnap = false ∧ State.reset.lks.pendLoad = none := by decide +kernel
theorem test_TimeIsSet_3 : smWf regReset (stF [(LKS_SERVO_CTL_EN 1, 1)]).regs = true ∧ isF (stF [(LKS_SERVO_CTL_EN 1, 1)]) (LKS_SERVO_CTL_EN 1) = true ∧ getF (stF [(LKS_SERVO_CTL_EN 1, 1)]) LKS_STATUS_STATE = 0 ∧ 0 ≤ ((stF [(LKS_SERVO_CTL_EN 1, 1)]).ct.units : Int) + unitsOfPs 5 ∧ ((stF [(LKS_SERVO_CTL_EN 1, 1)]).ct.units : Int) + unitsOfPs 5 < 2 ^ 64 * 1000000000 * 2 ^ 40 ∧
  isF (stF [(LKS_SERVO_CTL_EN 1, 1), (LKS_STATUS_STATE, 1)]) (LKS_SERVO_CTL_EN 1) = true ∧ getF (stF [(LKS_SERVO_CTL_EN 1, 1), (LKS_STATUS_STATE, 1)]) LKS_STATUS_STATE = 1 ∧ isF (stF [(LKS_SERVO_CTL_EN 1, 1), (LKS_STATUS_STATE, 2)]) (LKS_SERVO_CTL_EN 1) = true ∧ getF (stF [(LKS_SERVO_CTL_EN 1, 1), (LKS_STATUS_STATE, 2)]) LKS_STATUS_STATE = 2 := by decide +kernel
theorem test_TimeIsSet_4 : isF State.reset (LKS_SERVO_CTL_EN 1) = false := by decide +kernel
theorem test_ClockSourceAndSlew_0 : (25 : Nat) ≠ 0 ∧ isF State.reset LKS_STATUS_CLK_SRC = false := by decide +kernel
theorem test_ClockSourceAndSlew_1 : isF (stF [(LKS_STATUS_CLK_SRC, 1)]) LKS_STATUS_CLK_SRC = true := by decide +kernel
theorem test_ClockSourceAndSlew_2 : (State.reset.lks.remain + unitsOfPs (5 : DWord).toInt).natAbs ≤ (unitsOfPs 1000000000000).natAbs := by decide +kernel
theorem test_ClockSourceAndSlew_3 : unitsOfPs 1000000000000 < State.reset.lks.remain + unitsOfPs (2000000000000 : DWord).toInt := by decide +kernel
theorem test_ClockSourceAndSlew_4 : getF State.reset LKS_STATUS_ACTIVE_DOM ≠ (1 : Fin 2).val := by decide +kernel
theorem test_ClockSourceAndSlew_5 : getF (setServo (stF [(servoField 0, 2), (LKS_CTL_AUTO_SW, 0)]) 0 { lastSync := some (-5000), annPs := 1000 }) (servoField 0) = 2 ∧ (getServo (setServo (stF [(servoField 0, 2), (LKS_CTL_AUTO_SW, 0)]) 0 { lastSync := some (-5000), annPs := 1000 }) 0).lastSync = some (-5000) ∧ reached (setServo (stF [(servoField 0, 2), (LKS_CTL_AUTO_SW, 0)]) 0 { lastSync := some (-5000), annPs := 1000 }) (-5000 + 3 * (getServo (setServo (stF [(servoField 0, 2), (LKS_CTL_AUTO_SW, 0)]) 0 { lastSync := some (-5000), annPs := 1000 }) 0).annPs) = true ∧ isF (setServo (stF [(servoField 0, 2), (LKS_CTL_AUTO_SW, 0)]) 0 { lastSync := some (-5000), annPs := 1000 }) LKS_CTL_AUTO_SW = false ∧ reached (setServo (stF [(servoField 0, 2)]) 0 { lastSync := some 5000000000, annPs := 1000 }) (5000000000 + 3 * (getServo (setServo (stF [(servoField 0, 2)]) 0 { lastSync := some 5000000000, annPs := 1000 }) 0).annPs) = false ∧
  isF (setServo (stF [(servoField 0, 2), (LKS_CTL_AUTO_SW, 1), (servoField 1, 2)]) 0 { lastSync := some (-5000), annPs := 1000 }) LKS_CTL_AUTO_SW = true ∧ activeDom (setServo (stF [(servoField 0, 2), (LKS_CTL_AUTO_SW, 1), (servoField 1, 2)]) 0 { lastSync := some (-5000), annPs := 1000 }) = 0 ∧ servoLocked (setServo (stF [(servoField 0, 2), (LKS_CTL_AUTO_SW, 1), (servoField 1, 2)]) 0 { lastSync := some (-5000), annPs := 1000 }) 1 = true ∧ (setServo (stF [(servoField 0, 2), (LKS_CTL_AUTO_SW, 1), (servoField 1, 2)]) 0 { lastSync := some (-5000), annPs := 1000 }).lks.pendLost = [] := by decide +kernel
theorem test_ClockSourceAndSlew_6 : let a := { (stF [(LKS_STATUS_STATE, 2), (servoField 0, 2)]) with lks := { State.reset.lks with pendLost := [0] } }
  a.lks.pendBase = none ∧ a.lks.pendLost = [0] ∧ a.lks.pendSwitch = none ∧ a.lks.pendSnap = false ∧ a.lks.pendLoad = none ∧ getF (setServoState a 0 3) LKS_STATUS_STATE = 2 ∧ servoLocked (setServoState a 0 3) 0 = false ∧ servoLocked (setServoState a 0 3) 1 = false := by decide +kernel
theorem test_ClockSourceAndSlew_7 : getF (stF [(LKS_STATUS_STATE, 3), (LKS_HOLDOVER_LIM_SECONDS, 0)]) LKS_STATUS_STATE = 3 ∧ reached (stF [(LKS_STATUS_STATE, 3), (LKS_HOLDOVER_LIM_SECONDS, 0)]) (0 + getF (stF [(LKS_STATUS_STATE, 3), (LKS_HOLDOVER_LIM_SECONDS, 0)]) LKS_HOLDOVER_LIM_SECONDS * psSec) = true := by decide +kernel
theorem test_ClockSourceAndSlew_9 : hybridOn (setF (stF [(LKS_SYNCE_CTL_HYBRID, 1), (servoField 0, 2)]) LKS_SYNCE_CTL_LOCKED 1) = true ∧ servoLocked (setF (stF [(LKS_SYNCE_CTL_HYBRID, 1), (servoField 0, 2)]) LKS_SYNCE_CTL_LOCKED 1) (activeDom (setF (stF [(LKS_SYNCE_CTL_HYBRID, 1), (servoField 0, 2)]) LKS_SYNCE_CTL_LOCKED 1)) = true ∧ hybridOn (setF State.reset LKS_SYNCE_CTL_LOCKED 1) = false := by decide +kernel
theorem test_PtpMessagesTakeEffect_0 : isF State.reset LKS_CTL_ARM = false := by decide +kernel
theorem test_PtpMessagesTakeEffect_1 : isF (stF [(LKS_CTL_ARM, 1), (LKS_SERVO_CTL_EN 0, 1)]) LKS_CTL_ARM = true ∧
  servoTakes (stF [(LKS_CTL_ARM, 1), (LKS_SERVO_CTL_EN 0, 1)]) 0 0 ⟨.announce, true, true, false, BitVec.ofNat 8 (getF (stF [(LKS_CTL_ARM, 1), (LKS_SERVO_CTL_EN 0, 1)]) (LKS_SERVO_CTL_DOMAIN 0)), 0, 0, 0, 6, 1000, 0⟩ = true ∧
  servoTakes (stF [(LKS_CTL_ARM, 1), (LKS_SERVO_CTL_EN 0, 1)]) 1 0 ⟨.announce, true, true, false, BitVec.ofNat 8 (getF (stF [(LKS_CTL_ARM, 1), (LKS_SERVO_CTL_EN 0, 1)]) (LKS_SERVO_CTL_DOMAIN 0)), 0, 0, 0, 6, 1000, 0⟩ = false := by decide +kernel
theorem test_PtpMessagesTakeEffect_2 : isF (stF [(LKS_CTL_ARM, 1), (LAN_CTL_MODE 3, 2), (LKS_BC_PORTS_PORT_EN, 8)]) LKS_CTL_ARM = true ∧ laneEth (stF [(LKS_CTL_ARM, 1), (LAN_CTL_MODE 3, 2), (LKS_BC_PORTS_PORT_EN, 8)]) 3 = true ∧
  testF (stF [(LKS_CTL_ARM, 1), (LAN_CTL_MODE 3, 2), (LKS_BC_PORTS_PORT_EN, 8)]) LKS_BC_PORTS_PORT_EN 3 = true ∧ takeFirst (fun x => x.1 == 3) [((3 : Nat), (77 : Int))] = some ((3, 77), []) := by decide +kernel
theorem test_PtpMessagesTakeEffect_3 : isF (stF [(LKS_CTL_ARM, 1)]) LKS_CTL_ARM = true ∧ domainKnown (stF [(LKS_CTL_ARM, 1)]) 99 = false := by decide +kernel
theorem test_PtpMessagesTakeEffect_4 : bcPort (stF [(LKS_CTL_ARM, 1), (LAN_CTL_MODE 3, 5), (LKS_BC_PORTS_PORT_EN, 8), (LKS_BC_CTL_PROFILE, 1), (LKS_SERVO_CTL_DOMAIN 0, 30), (LKS_SERVO_CTL_DOMAIN 1, 31)]) 3 (getF (stF [(LKS_CTL_ARM, 1), (LAN_CTL_MODE 3, 5), (LKS_BC_PORTS_PORT_EN, 8), (LKS_BC_CTL_PROFILE, 1), (LKS_SERVO_CTL_DOMAIN 0, 30), (LKS_SERVO_CTL_DOMAIN 1, 31)]) LKS_BC_CTL_DOMAIN) = true ∧ domainKnown (stF [(LKS_CTL_ARM, 1), (LAN_CTL_MODE 3, 5), (LKS_BC_PORTS_PORT_EN, 8), (LKS_BC_CTL_PROFILE, 1), (LKS_SERVO_CTL_DOMAIN 0, 30), (LKS_SERVO_CTL_DOMAIN 1, 31)]) (getF (stF [(LKS_CTL_ARM, 1), (LAN_CTL_MODE 3, 5), (LKS_BC_PORTS_PORT_EN, 8), (LKS_BC_CTL_PROFILE, 1), (LKS_SERVO_CTL_DOMAIN 0, 30), (LKS_SERVO_CTL_DOMAIN 1, 31)]) LKS_BC_CTL_DOMAIN) = true ∧ servoTakes (stF [(LKS_CTL_ARM, 1), (LAN_CTL_MODE 3, 5), (LKS_BC_PORTS_PORT_EN, 8), (LKS_BC_CTL_PROFILE, 1), (LKS_SERVO_CTL_DOMAIN 0, 30), (LKS_SERVO_CTL_DOMAIN 1, 31)]) 0 3 ⟨.unicastRequest, true, true, false, BitVec.ofNat 8 (getF (stF [(LKS_CTL_ARM, 1), (LAN_CTL_MODE 3, 5), (LKS_BC_PORTS_PORT_EN, 8), (LKS_BC_CTL_PROFILE, 1), (LKS_SERVO_CTL_DOMAIN 0, 30), (LKS_SERVO_CTL_DOMAIN 1, 31)]) LKS_BC_CTL_DOMAIN), 0, 0, 0, 6, 1000, 7⟩ = false ∧ servoTakes (stF [(LKS_CTL_ARM, 1), (LAN_CTL_MODE 3, 5), (LKS_BC_PORTS_PORT_EN, 8), (LKS_BC_CTL_PROFILE, 1), (LKS_SERVO_CTL_DOMAIN 0, 30), (LKS_SERVO_CTL_DOMAIN 1, 31)]) 1 3 ⟨.unicastRequest, true, true, false, BitVec.ofNat 8 (getF (stF [(LKS_CTL_ARM, 1), (LAN_CTL_MODE 3, 5), (LKS_BC_PORTS_PORT_EN, 8), (LKS_BC_CTL_PROFILE, 1), (LKS_SERVO_CTL_DOMAIN 0, 30), (LKS_SERVO_CTL_DOMAIN 1, 31)]) LKS_BC_CTL_DOMAIN), 0, 0, 0, 6, 1000, 7⟩ = false ∧ isF (stF [(LKS_CTL_ARM, 1), (LAN_CTL_MODE 3, 5), (LKS_BC_PORTS_PORT_EN, 8), (LKS_BC_CTL_PROFILE, 1), (LKS_SERVO_CTL_DOMAIN 0, 30), (LKS_SERVO_CTL_DOMAIN 1, 31)]) LKS_BC_CTL_PROFILE = true ∧ isF (stF [(LKS_CTL_ARM, 1), (LAN_CTL_MODE 3, 5), (LKS_BC_PORTS_PORT_EN, 8), (LKS_BC_CTL_PROFILE, 1), (LKS_SERVO_CTL_DOMAIN 0, 30), (LKS_SERVO_CTL_DOMAIN 1, 31)]) LKS_CTL_ARM = true ∧ State.reset.lks.clients = [] := by decide +kernel
theorem test_PtpMessagesTakeEffect_6 : ppsRuns (stF [(LKS_CTL_ARM, 1), (LKS_PPS_CTL_OUT_EN, 1)]) = true ∧ inCycle (stF [(LKS_CTL_ARM, 1), (LKS_PPS_CTL_OUT_EN, 1)]) (ppsNext (stF [(LKS_CTL_ARM, 1), (LKS_PPS_CTL_OUT_EN, 1)])) = true := by decide +kernel
theorem test_PtpMessagesTakeEffect_7 : ppsRuns (stF [(LKS_CTL_ARM, 1), (LKS_PPS_CTL_OUT_EN, 1)]) = true ∧ reached (stF [(LKS_CTL_ARM, 1), (LKS_PPS_CTL_OUT_EN, 1)]) (-500000000000 + getF (stF [(LKS_CTL_ARM, 1), (LKS_PPS_CTL_OUT_EN, 1)]) LKS_PPS_CTL_WIDTH * 1000000000) = true := by decide +kernel
theorem test_PtpMessagesTakeEffect_8 : isF (stF [(LKS_PTM_CTL_EN, 1)]) LKS_PTM_CTL_EN = true ∧ ({ State.reset.cfg with ptmEnable := true }).ptmEnable = true ∧ State.reset.lks.lastPtm = none := by decide +kernel
theorem test_PtpMessagesTakeEffect_9 : (getLane (setLane State.reset 3 { getLane State.reset 3 with cal := true }) 3).cal = true := by decide +kernel
theorem test_PtpMessagesTakeEffect_10 : planInstalled State.reset 511 = false := by decide +kernel
theorem test_PtpMessagesTakeEffect_11 : planInstalled { State.reset with plans := [aPlan] } 3 = true := by decide +kernel
theorem test_EventPinsTimestamp_0 : isF (stF [(EVT_PIN_CTL_ARM 3, 1)]) (EVT_PIN_CTL_ARM 3) = true ∧ (getPin (stF [(EVT_PIN_CTL_ARM 3, 1)]) 3).window = none ∧ pinQualifies (stF [(EVT_PIN_CTL_ARM 3, 1)]) 3 true = true ∧ testF (stF [(EVT_PIN_CTL_ARM 3, 1)]) EVT_HELD_HELD 3 = false ∧ pinDetects (atDt (stF [(EVT_PIN_CTL_ARM 3, 1)]) 0) 3 (now (atDt (stF [(EVT_PIN_CTL_ARM 3, 1)]) 0)) = true := by decide +kernel
theorem test_EventPinsTimestamp_1 : isF State.reset (EVT_PIN_CTL_ARM 3) = false ∧ (getPin State.reset 3).window = none := by decide +kernel
theorem test_EventPinsTimestamp_2 : pinDetects (atDt (setPin State.reset 3 { getPin State.reset 3 with edge := some 0 }) 0) 3 (now (atDt (setPin State.reset 3 { getPin State.reset 3 with edge := some 0 }) 0)) = false := by decide +kernel
theorem test_EventPinsTimestamp_3 : isF (stF [(EVT_PPS_CTL_ARM, 1)]) EVT_PPS_CTL_ARM = true ∧ (getPin (stF [(EVT_PPS_CTL_ARM, 1)]) 16).window = none ∧ pinDetects (atDt (stF [(EVT_PPS_CTL_ARM, 1)]) 0) 16 (now (atDt (stF [(EVT_PPS_CTL_ARM, 1)]) 0)) = true := by decide +kernel
theorem test_EventPinsTimestamp_4 : reached State.reset (⟨-5, true, none⟩ : PinWindow).ends = true ∧ (⟨-5, true, none⟩ : PinWindow).last = none := by decide +kernel
theorem test_EventPinsTimestamp_5 : isF (setPin (stF [(EVT_PIN_CTL_ARM 3, 1), (EVT_PIN_CTL_LEVEL 3, 1)]) 3 { getPin State.reset 3 with level := true, since := -1000000000 }) (EVT_PIN_CTL_ARM 3) = true ∧ isF (setPin (stF [(EVT_PIN_CTL_ARM 3, 1), (EVT_PIN_CTL_LEVEL 3, 1)]) 3 { getPin State.reset 3 with level := true, since := -1000000000 }) (EVT_PIN_CTL_LEVEL 3) = true ∧ pinActive (setPin (stF [(EVT_PIN_CTL_ARM 3, 1), (EVT_PIN_CTL_LEVEL 3, 1)]) 3 { getPin State.reset 3 with level := true, since := -1000000000 }) 3 (getPin (setPin (stF [(EVT_PIN_CTL_ARM 3, 1), (EVT_PIN_CTL_LEVEL 3, 1)]) 3 { getPin State.reset 3 with level := true, since := -1000000000 }) 3).level = true ∧ testF (setPin (stF [(EVT_PIN_CTL_ARM 3, 1), (EVT_PIN_CTL_LEVEL 3, 1)]) 3 { getPin State.reset 3 with level := true, since := -1000000000 }) EVT_HELD_HELD 3 = false ∧ reached (setPin (stF [(EVT_PIN_CTL_ARM 3, 1), (EVT_PIN_CTL_LEVEL 3, 1)]) 3 { getPin State.reset 3 with level := true, since := -1000000000 }) ((getPin (setPin (stF [(EVT_PIN_CTL_ARM 3, 1), (EVT_PIN_CTL_LEVEL 3, 1)]) 3 { getPin State.reset 3 with level := true, since := -1000000000 }) 3).since + 1000000000) = true := by decide +kernel
theorem test_EventPinsTimestamp_6 : testF (setPin (stF [(EVT_HELD_HELD, 8)]) 3 { getPin State.reset 3 with since := -1000000 }) EVT_HELD_HELD 3 = true ∧ pinActive (setPin (stF [(EVT_HELD_HELD, 8)]) 3 { getPin State.reset 3 with since := -1000000 }) 3 (getPin (setPin (stF [(EVT_HELD_HELD, 8)]) 3 { getPin State.reset 3 with since := -1000000 }) 3).level = false ∧ reached (setPin (stF [(EVT_HELD_HELD, 8)]) 3 { getPin State.reset 3 with since := -1000000 }) ((getPin (setPin (stF [(EVT_HELD_HELD, 8)]) 3 { getPin State.reset 3 with since := -1000000 }) 3).since + 1000000) = true := by decide +kernel
theorem test_EventPinsTimestamp_7 : ({ State.reset with evtFifo := [⟨0, 1, true, false⟩] } : State).evtFifo = ⟨0, 1, true, false⟩ :: [] := by decide +kernel
theorem test_GridInstantsBring_0 : nextTick State.reset % 250000 = 0 ∧ ctPs State.reset ≤ nextTick State.reset ∧ nextTick State.reset < ctPs State.reset + 250000 ∧ reached State.reset (nextTick State.reset) = true ∧ State.reset.lks.tickDone = false := by decide +kernel
theorem test_GridInstantsBring_1 : inCycle gridState (nextQuadBoundary gridState 0 (ctPs gridState)) = true ∧ quadDark gridState 0 = false ∧ gridState.lks.slotDone.testBit 0 = false := by decide +kernel
theorem test_GridInstantsBring_2 : inCycle gridState (nextCiBoundary gridState 5) = true := by decide +kernel
theorem test_GridInstantsBring_3 : inCycle offGrid (nextTick offGrid) = false ∧ inCycle offGrid (nextQuadBoundary offGrid 0 (ctPs offGrid)) = false ∧ inCycle offGrid (nextCiBoundary offGrid 5) = false := by decide +kernel
theorem test_DoorbellsAndRings_0 : ringEn (stF [(ADM_RING_CTL_EN 1 7, 1)]) 71 = true ∧ (0 : Word).toNat < cmdSize (stF [(ADM_RING_CTL_EN 1 7, 1)]) 71 := by decide +kernel
theorem test_DoorbellsAndRings_1 : (3 : BitVec 4) ≠ 15 := by decide +kernel
theorem test_DoorbellsAndRings_2 : ringEn (stF [(ADM_RING_CTL_EN 1 7, 1)]) 71 = true ∧ (0 : Word).toNat < cqSize (stF [(ADM_RING_CTL_EN 1 7, 1)]) 71 ∧ ((0 : Word).toNat + cqSize (stF [(ADM_RING_CTL_EN 1 7, 1)]) 71 - (getRing (stF [(ADM_RING_CTL_EN 1 7, 1)]) 71).cqHead) % cqSize (stF [(ADM_RING_CTL_EN 1 7, 1)]) 71 ≤ cqUsed (stF [(ADM_RING_CTL_EN 1 7, 1)]) 71 := by decide +kernel
theorem test_DoorbellsAndRings_3 : ringEn ring7 7 = true ∧ visibleWords ring7 7 ≠ 0 ∧ isF ring7 (ADM_CTL_EN (7 / 64)) = true ∧ (nextWordAddr ring7 7).toOption = some (2 ^ 60) ∧ (getRing ring7 7).badBase = false ∧ waitsFor ring7 (2 ^ 60) 64 false = none ∧
  waitsFor { ring7 with sf := [(0, 2)] } (2 ^ 60) 64 false = some (0, 0) ∧ waitsForActive ring7 0 (opcodeOf (cmdWordAt ring7 (2 ^ 60))) = false ∧ needsEntry (opcodeOf (cmdWordAt ring7 (2 ^ 60))) = false := by decide +kernel
theorem test_DoorbellsAndRings_4 : ringEn State.reset 7 = false ∧ ringDraining State.reset 7 = false := by decide +kernel
theorem test_DoorbellsAndRings_5 : ringEn ring7 7 = true := by decide +kernel
theorem test_DoorbellsAndRings_6 : ringEn (stF [(ADM_RING_CTL_DRAINING 0 7, 1)]) 7 = false ∧ ringDraining (stF [(ADM_RING_CTL_DRAINING 0 7, 1)]) 7 = true ∧ ringDrained (stF [(ADM_RING_CTL_DRAINING 0 7, 1)]) 7 = true := by decide +kernel
theorem test_CommandWordsAct_0 : opcodeOf (⟨0, 0, 0, false⟩ : CmdWord).bits = 0 ∧ (getRing (withWord 0) 7).words = [⟨0, 0, 0, false⟩] := by decide +kernel
theorem test_CommandWordsAct_1 : 14 ≤ opcodeOf 0x20 := by decide +kernel
theorem test_CommandWordsAct_2 : opcodeOf 1 = 1 ∧ cwf ⟨1, 0, 0, false⟩ 4 0 10 ≤ 511 ∧ cwf ⟨1, 0, 0, false⟩ 16 0 32 ≤ 16000000 ∧ jobIsOpen (took (withWord 1)) 7 = false := by decide +kernel
theorem test_CommandWordsAct_3 : opcodeOf 2 = 2 ∧ jobIsOpen (took (withJob 2)) 7 = true ∧ openTasks (took (withJob 2)) 7 < 1024 ∧ cwf ⟨2, 0, 0, false⟩ 4 0 3 ≠ 7 ∧ cwf ⟨2, 0, 0, false⟩ 12 4 4 ≤ 13 ∧ cwf ⟨2, 0, 0, false⟩ 16 0 32 ≤ 1073741824 := by decide +kernel
theorem test_CommandWordsAct_4 : opcodeOf 3 = 3 ∧ jobIsOpen (took (withJob 3)) 7 = true ∧ openEdges (took (withJob 3)) 7 < 4096 := by decide +kernel
theorem test_CommandWordsAct_5 : opcodeOf 4 = 4 ∧ jobIsOpen (took (withJob 4)) 7 = true := by decide +kernel
theorem test_CommandWordsAct_6 : opcodeOf 6 = 6 ∧ jobIsOpen (took (withJob 6)) 7 = true := by decide +kernel
theorem test_CommandWordsAct_7 : opcodeOf (5 + 250 * 2 ^ 32) = 5 ∧ jobIsOpen (took (withWord 5)) 7 = false ∧ liveNodes (took (withWord 5)) 0 < 2097152 ∧ everyPeriod (cwf ⟨5 + 250 * 2 ^ 32, 0, 0, false⟩ 4 0 32) = cwf ⟨5 + 250 * 2 ^ 32, 0, 0, false⟩ 4 0 32 ∧ (getRing (took (withWord 5)) 7).items.length < 16 := by decide +kernel
theorem test_CommandWordsAct_8 : opcodeOf 7 = 7 ∧ jobIsOpen (took (withWord 7)) 7 = false ∧ cwf ⟨7, 0, 0, false⟩ 4 0 10 ≤ 511 ∧ cwf ⟨7, 0, 0, false⟩ 4 16 1 = 0 := by decide +kernel
theorem test_CommandWordsAct_9 : opcodeOf 8 = 8 ∧ jobIsOpen (took (withWord 8)) 7 = false ∧ cwf ⟨8, 0, 0, false⟩ 4 0 2 ≤ 2 := by decide +kernel
theorem test_CommandWordsAct_10 : opcodeOf 9 = 9 ∧ jobIsOpen (took (withWord 9)) 7 = false := by decide +kernel
theorem test_SignalsAndItemsRecord_0 : takeFirst (fun y : Signal => y.met.isSome) (getRing ({ setRing (stF [(ADM_RING_CQ_BASE_ADDR 0 7, 2 ^ 48 + 256)]) 7 { signals := [⟨1, 2, true, 0, 0, 0, some 5⟩] } with sf := [] }) 7).signals = some (⟨1, 2, true, 0, 0, 0, some 5⟩, []) ∧ Memory.wf ({ setRing (stF [(ADM_RING_CQ_BASE_ADDR 0 7, 2 ^ 48 + 256)]) 7 { signals := [⟨1, 2, true, 0, 0, 0, some 5⟩] } with sf := [] }).mem = true ∧ smWf regReset ({ setRing (stF [(ADM_RING_CQ_BASE_ADDR 0 7, 2 ^ 48 + 256)]) 7 { signals := [⟨1, 2, true, 0, 0, 0, some 5⟩] } with sf := [] }).regs = true ∧
  (checkAddr (setRing (atDt ({ setRing (stF [(ADM_RING_CQ_BASE_ADDR 0 7, 2 ^ 48 + 256)]) 7 { signals := [⟨1, 2, true, 0, 0, 0, some 5⟩] } with sf := [] }) 0) 7 { getRing ({ setRing (stF [(ADM_RING_CQ_BASE_ADDR 0 7, 2 ^ 48 + 256)]) 7 { signals := [⟨1, 2, true, 0, 0, 0, some 5⟩] } with sf := [] }) 7 with signals := [] }) 0 (.ring 7) (getR64 (setRing (atDt ({ setRing (stF [(ADM_RING_CQ_BASE_ADDR 0 7, 2 ^ 48 + 256)]) 7 { signals := [⟨1, 2, true, 0, 0, 0, some 5⟩] } with sf := [] }) 0) 7 { getRing ({ setRing (stF [(ADM_RING_CQ_BASE_ADDR 0 7, 2 ^ 48 + 256)]) 7 { signals := [⟨1, 2, true, 0, 0, 0, some 5⟩] } with sf := [] }) 7 with signals := [] }) (ADM_RING_CQ_BASE 0 7) + 32 * (getRing (setRing (atDt ({ setRing (stF [(ADM_RING_CQ_BASE_ADDR 0 7, 2 ^ 48 + 256)]) 7 { signals := [⟨1, 2, true, 0, 0, 0, some 5⟩] } with sf := [] }) 0) 7 { getRing ({ setRing (stF [(ADM_RING_CQ_BASE_ADDR 0 7, 2 ^ 48 + 256)]) 7 { signals := [⟨1, 2, true, 0, 0, 0, some 5⟩] } with sf := [] }) 7 with signals := [] }) 7).cqTail) 32 true).toOption = some (2 ^ 60 + 1048576) ∧ waitsFor (setRing (atDt ({ setRing (stF [(ADM_RING_CQ_BASE_ADDR 0 7, 2 ^ 48 + 256)]) 7 { signals := [⟨1, 2, true, 0, 0, 0, some 5⟩] } with sf := [] }) 0) 7 { getRing ({ setRing (stF [(ADM_RING_CQ_BASE_ADDR 0 7, 2 ^ 48 + 256)]) 7 { signals := [⟨1, 2, true, 0, 0, 0, some 5⟩] } with sf := [] }) 7 with signals := [] }) (2 ^ 60 + 1048576) 32 true = none ∧ fencedFrom (setRing (atDt ({ setRing (stF [(ADM_RING_CQ_BASE_ADDR 0 7, 2 ^ 48 + 256)]) 7 { signals := [⟨1, 2, true, 0, 0, 0, some 5⟩] } with sf := [] }) 0) 7 { getRing ({ setRing (stF [(ADM_RING_CQ_BASE_ADDR 0 7, 2 ^ 48 + 256)]) 7 { signals := [⟨1, 2, true, 0, 0, 0, some 5⟩] } with sf := [] }) 7 with signals := [] }) ((2 ^ 60 + 1048576) / 32) (granules (2 ^ 60 + 1048576) 32) = false ∧
  errAt (setRing (atDt ({ setRing (stF [(ADM_RING_CQ_BASE_ADDR 0 7, 2 ^ 48 + 256)]) 7 { signals := [⟨1, 2, true, 0, 0, 0, some 5⟩] } with sf := [] }) 0) 7 { getRing ({ setRing (stF [(ADM_RING_CQ_BASE_ADDR 0 7, 2 ^ 48 + 256)]) 7 { signals := [⟨1, 2, true, 0, 0, 0, some 5⟩] } with sf := [] }) 7 with signals := [] }) ((2 ^ 60 + 1048576) / 32) = 0 ∧ (waitsFor (setRing (atDt ({ setRing (stF [(ADM_RING_CQ_BASE_ADDR 0 7, 2 ^ 48 + 256)]) 7 { signals := [⟨1, 2, true, 0, 0, 0, some 5⟩] } with sf := [(16384, 1)] }) 0) 7 { getRing ({ setRing (stF [(ADM_RING_CQ_BASE_ADDR 0 7, 2 ^ 48 + 256)]) 7 { signals := [⟨1, 2, true, 0, 0, 0, some 5⟩] } with sf := [(16384, 1)] }) 7 with signals := [] }) (2 ^ 60 + 1048576) 32 true).isSome = true := by decide +kernel
theorem test_SignalsAndItemsRecord_1 : ∀ x ∈ (getRing (setRing State.reset 7 { signals := [⟨1, 2, true, 0, 0, 0, none⟩] }) 7).signals, x.met = none := by decide +kernel
theorem test_SignalsAndItemsRecord_2 : (getRing (setRing (stF [(ADM_RING_CQ_BASE_ADDR 0 7, 2 ^ 48 + 256), (ADM_RING_CTL_CQ_LOG2 0 7, 4)]) 7 { items := [⟨250, 0, 1, 2, true, 0, 0⟩] }) 7).items[(0 : Fin 16).val]? = some ⟨250, 0, 1, 2, true, 0, 0⟩ ∧ reached (setRing (stF [(ADM_RING_CQ_BASE_ADDR 0 7, 2 ^ 48 + 256), (ADM_RING_CTL_CQ_LOG2 0 7, 4)]) 7 { items := [⟨250, 0, 1, 2, true, 0, 0⟩] }) (nextMultiple (0 : Int) 250000) = true ∧ reached State.reset (nextMultiple (500000 : Int) 250000) = false ∧ cqFree (setRing (stF [(ADM_RING_CQ_BASE_ADDR 0 7, 2 ^ 48 + 256), (ADM_RING_CTL_CQ_LOG2 0 7, 4)]) 7 { items := [⟨250, 0, 1, 2, true, 0, 0⟩] }) 7 ≠ 0 ∧ cqFree (setRing (stF [(ADM_RING_CQ_BASE_ADDR 0 7, 2 ^ 48 + 256), (ADM_RING_CTL_CQ_LOG2 0 7, 4)]) 7 { items := [⟨250, 0, 1, 2, true, 0, 0⟩], reserved := 15 }) 7 = 0 ∧
  (checkAddr (setRing (stF [(ADM_RING_CQ_BASE_ADDR 0 7, 2 ^ 48 + 256), (ADM_RING_CTL_CQ_LOG2 0 7, 4)]) 7 { items := [⟨250, 0, 1, 2, true, 0, 0⟩] }) 0 (.ring 7) (getR64 (setRing (stF [(ADM_RING_CQ_BASE_ADDR 0 7, 2 ^ 48 + 256), (ADM_RING_CTL_CQ_LOG2 0 7, 4)]) 7 { items := [⟨250, 0, 1, 2, true, 0, 0⟩] }) (ADM_RING_CQ_BASE 0 7) + 32 * (getRing (setRing (stF [(ADM_RING_CQ_BASE_ADDR 0 7, 2 ^ 48 + 256), (ADM_RING_CTL_CQ_LOG2 0 7, 4)]) 7 { items := [⟨250, 0, 1, 2, true, 0, 0⟩] }) 7).cqTail) 32 true).toOption = some (2 ^ 60 + 1048576) := by decide +kernel
theorem test_SignalsAndItemsRecord_3 : smWf regReset State.reset.regs = true := by decide +kernel
theorem test_PlanCommandsAct_0 : opcodeOf (10 + 64 * 2 ^ 128 + 2 ^ 60 * 2 ^ 192) = 10 ∧ cwf ⟨10 + 64 * 2 ^ 128 + 2 ^ 60 * 2 ^ 192, 0, 0, false⟩ 16 0 32 = 64 ∧ jobIsOpen (took (withWord (10 + 64 * 2 ^ 128 + 2 ^ 60 * 2 ^ 192))) 7 = false ∧
  (checkAddr (took (withWord (10 + 64 * 2 ^ 128 + 2 ^ 60 * 2 ^ 192))) 0 .image (cwf ⟨10 + 64 * 2 ^ 128 + 2 ^ 60 * 2 ^ 192, 0, 0, false⟩ 24 0 64 / 64 * 64) 64 false).toOption = some (2 ^ 60) ∧
  badRead (took (withWord (10 + 64 * 2 ^ 128 + 2 ^ 60 * 2 ^ 192))) (2 ^ 60) 64 = false ∧ waitsFor (withWord (10 + 64 * 2 ^ 128 + 2 ^ 60 * 2 ^ 192)) (2 ^ 60) 64 false = none := by decide +kernel
theorem test_PlanCommandsAct_1 : takeUcmd (withU planU) 7 .planSet = some (planU, []) ∧ reached (withU planU) (planU.stamp + 1000000000) = true ∧ planU.refused = false ∧
  (checkPlan { atDt (withU planU) 0 with ucmds := [] } planU 1000000000).1.toOption = some planOk ∧
  (planClusters planOk).any (fun k => decide (getF (planClamps { atDt (withU planU) 0 with ucmds := [] } 7 (checkPlan { atDt (withU planU) 0 with ucmds := [] } planU 1000000000).2) (PWR_CL_STAT_OP k) < planOk.op)) = false := by decide +kernel
theorem test_PlanCommandsAct_2 : opcodeOf 11 = 11 ∧ takeUcmd (withWord 11) 7 .planDrop = none ∧ jobIsOpen (took (withWord 11)) 7 = false := by decide +kernel
theorem test_PlanCommandsAct_3 : takeUcmd (at_ { withPlan with ucmds := [{ planU with kind := .planDrop }] } 3) 7 .planDrop = some ({ planU with kind := .planDrop }, []) ∧
  reached (at_ { withPlan with ucmds := [{ planU with kind := .planDrop }] } 3) (0 + 2000000) = true ∧ plansOf (at_ { withPlan with ucmds := [{ planU with kind := .planDrop }] } 3) 3 = [planOk] ∧ planOk.home = 7 / 64 := by decide +kernel
theorem test_ProgramCommandsAct_0 : opcodeOf (12 + 64 * 2 ^ 64 + 2 ^ 60 * 2 ^ 128) = 12 ∧ cwf ⟨12 + 64 * 2 ^ 64 + 2 ^ 60 * 2 ^ 128, 0, 0, false⟩ 8 0 32 = 64 ∧ jobIsOpen (took (withWord (12 + 64 * 2 ^ 64 + 2 ^ 60 * 2 ^ 128))) 7 = false ∧
  (checkAddr (took (withWord (12 + 64 * 2 ^ 64 + 2 ^ 60 * 2 ^ 128))) 0 .image (cwf ⟨12 + 64 * 2 ^ 64 + 2 ^ 60 * 2 ^ 128, 0, 0, false⟩ 16 0 64 / 4 * 4) 64 false).toOption = some (2 ^ 60) ∧
  badRead (took (withWord (12 + 64 * 2 ^ 64 + 2 ^ 60 * 2 ^ 128))) (2 ^ 60) 64 = false ∧ waitsFor (withWord (12 + 64 * 2 ^ 64 + 2 ^ 60 * 2 ^ 128)) (2 ^ 60) 64 false = none := by decide +kernel
theorem test_ProgramCommandsAct_1 : (getRing ({ withWord (10 + 64 * 2 ^ 128 + 2 ^ 60 * 2 ^ 192) with sf := [(0, 2)] }) 7).words = [⟨10 + 64 * 2 ^ 128 + 2 ^ 60 * 2 ^ 192, 0, 0, false⟩] ∧ (getRing ({ withWord (10 + 64 * 2 ^ 128 + 2 ^ 60 * 2 ^ 192) with sf := [(0, 2)] }) 7).openJob = none ∧
  imageWaits ({ withWord (10 + 64 * 2 ^ 128 + 2 ^ 60 * 2 ^ 192) with sf := [(0, 2)] }) 7 (planImageAt ⟨10 + 64 * 2 ^ 128 + 2 ^ 60 * 2 ^ 192, 0, 0, false⟩).1 (planImageAt ⟨10 + 64 * 2 ^ 128 + 2 ^ 60 * 2 ^ 192, 0, 0, false⟩).2 = some (0, 0) ∧ imageWaits ({ withWord (12 + 64 * 2 ^ 64 + 2 ^ 60 * 2 ^ 128) with sf := [(0, 2)] }) 7 (progImageAt ⟨12 + 64 * 2 ^ 64 + 2 ^ 60 * 2 ^ 128, 0, 0, false⟩).1 (progImageAt ⟨12 + 64 * 2 ^ 64 + 2 ^ 60 * 2 ^ 128, 0, 0, false⟩).2 = some (0, 0) := by decide +kernel
theorem test_ProgramCommandsAct_2 : takeUcmd (withU { planU with kind := .programLoad, image := some [0, 0, 0, 0], clusters := 1, tiles := 1 }) 7 .programLoad = some ({ planU with kind := .programLoad, image := some [0, 0, 0, 0], clusters := 1, tiles := 1 }, []) ∧
  (0 : Int) ≤ now (atDt (withU planU) 0) ∧ (imageBad State.reset (some [0, 0, 0, 0])).1 = false ∧ (selectedTiles 0 1 1).any (fun y => (versionIn State.reset y.1 y.2 0 .retiring).isSome) = false ∧
  (selectedTiles 0 1 1).any (fun y => (placeFor State.reset y.1 y.2 0 (imageUnits [0, 0, 0, 0])).isNone) = false := by decide +kernel
theorem test_ProgramCommandsAct_3 : opcodeOf 13 = 13 ∧ takeUcmd (withWord 13) 7 .programSwap = none ∧ jobIsOpen (took (withWord 13)) 7 = false := by decide +kernel
theorem test_ProgramCommandsAct_4 : takeUcmd (at_ { State.reset with progs := [⟨0, 0, 0, 0, .pending, 0, 1, [], none⟩], ucmds := [{ planU with kind := .programSwap, clusters := 1, tiles := 1 }] } 3) 7 .programSwap = some ({ planU with kind := .programSwap, clusters := 1, tiles := 1 }, []) ∧
  reached (at_ State.reset 3) (0 + 2000000) = true ∧ (selectedTiles 0 1 1).any (fun y => (versionIn (at_ { State.reset with progs := [⟨0, 0, 0, 0, .pending, 0, 1, [], none⟩] } 3) y.1 y.2 0 .pending).isNone) = false := by decide +kernel
theorem test_ProgramCommandsAct_5 : versionIn { State.reset with progs := [⟨4, 0, 0, 5, .retiring, 0, 1, [], some (0, 0)⟩] } 0 0 5 .retiring = some ⟨4, 0, 0, 5, .retiring, 0, 1, [], some (0, 0)⟩ ∧
  reached { State.reset with progs := [⟨4, 0, 0, 5, .retiring, 0, 1, [], some (0, 0)⟩] } 0 = true ∧ versionInUse { State.reset with progs := [⟨4, 0, 0, 5, .retiring, 0, 1, [], some (0, 0)⟩] } 4 = false := by decide +kernel
theorem test_JobsAreDecided_0 : (getRing jobState 7).closed = [closedJob] ∧ reached jobState (jobStamp (getRing jobState 7) closedJob + lDec 1 (coupledCi jobState 3)) = true ∧
  ((structural (raiseDelayViol jobState) 7 closedJob (2000000)).toOption.map (·.2)) = some planOk.firstSlot ∧ (structural (raiseDelayViol jobState) 7 closedJob 2000000).toOption.map (·.1) = some planOk ∧
  capacity (costClamps (raiseDelayViol jobState) 7 planOk 2000000 (fitInput (raiseDelayViol jobState) 7 closedJob planOk planOk.firstSlot 2000000).s0 closedJob.tasks) planOk planOk.firstSlot closedJob 2000000 (fitInput (raiseDelayViol jobState) 7 closedJob planOk planOk.firstSlot 2000000).s0 = none ∧
  (fit (fitInput (raiseDelayViol jobState) 7 closedJob planOk planOk.firstSlot 2000000) none).toOption.isSome = true ∧ (fit (fitInput (raiseDelayViol jobState) 7 closedJob planOk planOk.firstSlot 2000000) (some 2000000)).toOption.isSome = true := by decide +kernel
theorem test_JobsAreDecided_1 : (getRing (at_ (setRing State.reset 7 { closed := [closedJob] }) 1) 7).closed = [closedJob] ∧ plansOf State.reset 3 = [] ∧ plansOf (raiseDelayViol (setRing State.reset 7 { closed := [] })) 3 = [] ∧
  reached (at_ (setRing State.reset 7 { closed := [closedJob] }) 1) (jobStamp (getRing (setRing State.reset 7 { closed := [closedJob] }) 7) closedJob + lDec 1 false) = true := by decide +kernel
theorem test_NodesBecomeReady_0 : findNode (nodeAt { aNode with onChip := true }) 5 = some ({ aJob with nodes := [{ aNode with onChip := true }] }, { aNode with onChip := true }) ∧ reached (nodeAt { aNode with onChip := true }) (nextMultiple 0 250000) = true := by decide +kernel
theorem test_NodesBecomeReady_1 : findNode (nodeAt { aNode with onChip := false }) 5 = some ({ aJob with nodes := [{ aNode with onChip := false }] }, { aNode with onChip := false }) ∧ nodePos (resNodes (nodeAt { aNode with onChip := false }) 0 0) { aNode with onChip := false } < 256 ∧ granBad (nodeAt { aNode with onChip := false }) (nodeGranule 5) = false := by decide +kernel
theorem test_NodesBecomeReady_2 : findNode { nodeAt { aNode with onChip := false } with poison := [(nodeGranule 5, true)] } 5 = some ({ aJob with nodes := [{ aNode with onChip := false }] }, { aNode with onChip := false }) ∧
  nodePos (resNodes { nodeAt { aNode with onChip := false } with poison := [(nodeGranule 5, true)] } 0 0) { aNode with onChip := false } < 256 ∧ granBad { nodeAt { aNode with onChip := false } with poison := [(nodeGranule 5, true)] } (nodeGranule 5) = true := by decide +kernel
theorem test_NodesBecomeReady_3 : takeFirst (fun x : Notice => x.node == 5 && !((State.reset).xfers.any fun y => y.src == x.src)) [⟨5, 0, 6⟩] = some (⟨5, 0, 6⟩, []) := by decide +kernel
theorem test_NodesBecomeReady_4 : findNode (nodeAt { aNode with cmd := { aTask with inEn := true } }) 5 = some ({ aJob with nodes := [{ aNode with cmd := { aTask with inEn := true } }] }, { aNode with cmd := { aTask with inEn := true } }) ∧
  planBySeq { nodeAt aNode with plans := [aPlan] } 1 = some aPlan := by decide +kernel
theorem test_TasksStartAndEnd_0 : readyHead (nodeAt readyNode) 0 9 = some ({ aJob with nodes := [readyNode] }, readyNode) ∧ resBusy (nodeAt readyNode) 0 9 = false ∧ quadDark (nodeAt readyNode) 0 = false ∧ meetsWindow (nodeAt { readyNode with clo := -1 }) aJob { readyNode with clo := -1 } = false := by decide +kernel
theorem test_TasksStartAndEnd_1 : meetsWindow (nodeAt readyNode) { aJob with nodes := [readyNode] } readyNode = true ∧ resReady (nodeAt readyNode) 0 9 = true ∧ getF (nodeAt readyNode) (PWR_CL_STAT_STATE 0) = 0 ∧ spacingOver (nodeAt readyNode) 0 9 = true ∧
  versionGone (nodeAt readyNode) readyNode = false ∧ readyHead (nodeAt readyNode) 0 9 = some ({ aJob with nodes := [readyNode] }, readyNode) ∧ resBusy (nodeAt readyNode) 0 9 = false ∧ quadDark (nodeAt readyNode) 0 = false := by decide +kernel
theorem test_TasksStartAndEnd_2 : runningNode bmeState 0 9 = some (bmeJob, runNode) ∧ planBySeq bmeState 1 = some aPlan ∧ engineReady bmeState 0 1 = true ∧ (runEngine (setF bmeState (engBusy 0 1) 0) 1 bmeJob runNode aPlan).2.2 = false ∧
  findNode (addF (runEngine (setF bmeState (engBusy 0 1) 0) 1 bmeJob runNode aPlan).1 (engOps 0 1) 1) 5 = some (bmeJob, runNode) := by decide +kernel
theorem test_TasksStartAndEnd_3 : findNode (nodeAt { runNode with hostWait := true, clo := 0 }) 5 = some ({ aJob with nodes := [{ runNode with hostWait := true, clo := 0 }] }, { runNode with hostWait := true, clo := 0 }) ∧ runNode.st = .running ∧ reached (nodeAt runNode) 0 = true := by decide +kernel
theorem test_TasksStartAndEnd_4 : (doneState.jobs.find? fun j => j.recNode == 6) = some { aJob with nodes := [] } ∧ ({ aJob with nodes := [] } : Job).recCounter = 0 ∧ (doneState.xfers.any fun y => y.rec_ == 6) = false ∧ doneState.linkHeld ≤ now doneState ∧ writesLate doneState 6 = false ∧ ({ aJob with nodes := [] } : Job).lost = false := by decide +kernel
theorem test_TasksStartAndEnd_5 : ((nodeAt readyNode).jobs.any fun j => j.nodes.any fun n => n.cluster == 0 && n.st == .waiting && !n.woken && reached (nodeAt readyNode) n.need) = true ∧ needLevel (nodeAt readyNode) 0 = false := by decide +kernel
theorem test_DmaChannelsAct_0 : clusterDark State.reset 3 = false ∧ getF State.reset (DMA_CH_STAT_STATE 3 2) = 0 := by decide +kernel
theorem test_DmaChannelsAct_1 : clusterDark (stF [(DMA_CH_STAT_STATE 3 2, 2)]) 3 = false ∧ getF (stF [(DMA_CH_STAT_STATE 3 2, 2)]) (DMA_CH_STAT_STATE 3 2) = 2 := by decide +kernel
theorem test_DmaChannelsAct_2 : blockLive (stF [(DMA_CH_STAT_STATE 3 2, 2), (DMA_CH_STAT_ENTRY 3 2, 31)]) .dma 3 = true ∧ getF (stF [(DMA_CH_STAT_STATE 3 2, 2), (DMA_CH_STAT_ENTRY 3 2, 31)]) (DMA_CH_STAT_STATE 3 2) = 2 ∧ (getDma (stF [(DMA_CH_STAT_STATE 3 2, 2), (DMA_CH_STAT_ENTRY 3 2, 31)]) 3 2).toRead = none ∧ 0 = getF (stF [(DMA_CH_STAT_STATE 3 2, 2), (DMA_CH_STAT_ENTRY 3 2, 31)]) (DMA_CH_STAT_ENTRY 3 2) % 31 ∧ getF (stF [(DMA_CH_STAT_STATE 3 2, 1)]) (DMA_CH_STAT_STATE 3 2) = 1 ∧ 0 = (getDma (stF [(DMA_CH_STAT_STATE 3 2, 1)]) 3 2).n ∧ (getDma (setDma (stF [(DMA_CH_STAT_STATE 3 2, 1)]) 3 2 { toRead := some (7, 3, 5) }) 3 2).toRead = some (7, 3, 5) := by decide +kernel
theorem test_DmaChannelsAct_3 : getF (stF [(DMA_CH_STAT_STATE 3 2, 1)]) (DMA_CH_STAT_STATE 3 2) = 1 ∧ (getDma (stF [(DMA_CH_STAT_STATE 3 2, 1)]) 3 2).toRead = none ∧ (getDma (stF [(DMA_CH_STAT_STATE 3 2, 1)]) 3 2).moves = [] ∧ (getDma (stF [(DMA_CH_STAT_STATE 3 2, 1)]) 3 2).irq = false ∧ (physOf (stF [(DMA_CH_STAT_STATE 3 2, 1)]) 3 0).isSome = true ∧ getF dmaTask (DMA_CH_STAT_STATE 0 0) = 1 ∧ (getDma dmaTask 0 0).node = some 5 ∧
  (findNode (setDma (closeUnit (addF (setF (setF dmaTask (DMA_CH_STAT_STATE 0 0) 0) (DMA_CH_STAT_DONE 0 0) 1) (DMA_CNT_DESC 0) 1) 0 0) 0 0 { getDma dmaTask 0 0 with node := none }) 5).isSome = true := by decide +kernel
theorem test_DmaChannelsAct_4 : getF (stF [(DMA_CH_STAT_STATE 3 1, 3)]) (DMA_CH_STAT_STATE 3 1) = 3 ∧ dmaWindow (stF [(DMA_CH_STAT_STATE 3 1, 3)]) 3 (cycleEnd (stF [(DMA_CH_STAT_STATE 3 1, 3)])) = false ∧
  getF winState (DMA_CH_STAT_STATE 0 1) = 1 ∧ dmaWindow winState 0 (cycleEnd winState) = true := by decide +kernel
theorem test_DmaChannelsAct_5 : (getDma (setDma State.reset 3 2 { moves := [aMove] }) 3 2).moves = [aMove] ∧ aMove.st = .writing ∧ ({ aMove with st := .reading } : Move).st = .reading := by decide +kernel
theorem test_MemoryIsScrubbedAndShared_0 : let s := stF [(MEM_CTL_PATROL_EN 0, 1)]
  32 * 5 < unitSize (.dram 0) ∧ inCodewords (.dram 0) = true ∧ patrols (stF [(MEM_CTL_PATROL_EN 0, 0)]) (.dram 0) = false ∧ patrols s (.dram 0) = true ∧ fencedAt s (flat (.dram 0) (32 * 5)) = false ∧ poisoned s (flat (.dram 0) (32 * 5) / 32) = false ∧ smWf (fun _ => 0) s.errs = true ∧
  (rsDecode (errPattern [⟨3, 1⟩])).1 = .corrected ∧ (rsDecode (errPattern [⟨36, 1⟩])).1 = .address ∧ (rsDecode (errPattern [⟨3, 1⟩, ⟨7, 9⟩, ⟨8, 7⟩])).1 = .uncorrectable ∧ fencedAt (stF [(MEM_CSM_FENCE_BANKS 0, 1)]) (flat (.csm 0) 0) = true := by decide +kernel
theorem test_MemoryIsScrubbedAndShared_1 : unitSize (.csm 3) ≤ 32 * 262144 := by decide +kernel
theorem test_MemoryIsScrubbedAndShared_2 : State.reset.rowCopies = [] ∧ State.reset.spared = [] ∧ spareUsed State.reset 2 5 < 16 ∧ 16 ≤ spareUsed { State.reset with spareRows := [(2 * 2 ^ 32 + 5, 16)] } 2 5 := by decide +kernel
theorem test_MemoryIsScrubbedAndShared_3 : takeFirst (fun x : Nat × Nat × Nat => x.1 == 2) [(2, 5, 9)] = some ((2, 5, 9), []) := by decide +kernel
theorem test_MemoryIsScrubbedAndShared_4 : isF (stF [(MEM_HDM_LOCKED 1, 1), (MEM_HDM_SIZE 1, 2)]) (MEM_HDM_LOCKED 1) = true ∧ quadDark (stF [(MEM_HDM_LOCKED 1, 1), (MEM_HDM_SIZE 1, 2)]) 1 = false ∧
  (hdmRange (stF [(MEM_HDM_LOCKED 1, 1), (MEM_HDM_SIZE 1, 2)]) 1).1 + 100 + [(7 : Byte)].length ≤ (hdmRange (stF [(MEM_HDM_LOCKED 1, 1), (MEM_HDM_SIZE 1, 2)]) 1).2 := by decide +kernel
theorem test_MemoryIsScrubbedAndShared_5 : quadDark (stF [(PRM_Q_STAT_STATE 1, 2)]) 1 = true := by decide +kernel
theorem test_CheckUnitsAndRingLinks_0 : smWf regReset (stF [(CVU_CTL_EN 3 2, 1), (CVU_CTL_SRC_KIND 3 2, 1)]).regs = true ∧ cvuEnded (stF [(CVU_CTL_EN 3 2, 1), (CVU_CTL_SRC_KIND 3 2, 1)]) 3 2 = [] ∧ isF (stF [(CVU_CTL_EN 3 2, 1), (CVU_CTL_SRC_KIND 3 2, 1)]) (CVU_CTL_EN 3 2) = true ∧ isF (stF [(CVU_CTL_EN 3 2, 1), (CVU_CTL_SRC_KIND 3 2, 1)]) (CVU_CTL_CLAIMED 3 2) = false ∧ getF (stF [(CVU_CTL_EN 3 2, 1), (CVU_CTL_SRC_KIND 3 2, 1)]) (CVU_CTL_SRC_KIND 3 2) ≠ 0 ∧ bitsOf (cvuConf (stF [(CVU_CTL_EN 3 2, 1), (CVU_CTL_SRC_KIND 3 2, 1)]) 3 2).ctl 1 2 = 0 ∧ (cvuFifo (stF [(CVU_CTL_EN 3 2, 1), (CVU_CTL_SRC_KIND 3 2, 1)]) 3 2).length < 16 ∧
  bitsOf (cvuConf (stF [(CVU_CTL_EN 3 2, 1), (CVU_CTL_SRC_KIND 3 2, 1), (CVU_CTL_MODE 3 2, 1)]) 3 2).ctl 1 2 = 1 ∧ cvuEnded (cvuEnd State.reset 3 2 ⟨cvuConf State.reset 3 2, [7], 0, 0, 0⟩) 3 2 = [⟨cvuConf State.reset 3 2, [7], 0, 0, 0⟩] := by decide +kernel
theorem test_CheckUnitsAndRingLinks_2 : takeFirst (fun x : RingXfer => x.src == 5) [⟨5, 6, 0, 1, 0, [], false⟩] = some (⟨5, 6, 0, 1, 0, [], false⟩, []) ∧ takeFirst (fun x : RingXfer => x.src == 5) [⟨5, 6, 0, 1, 0, [], true⟩] = some (⟨5, 6, 0, 1, 0, [], true⟩, []) := by decide +kernel
theorem test_CheckUnitsAndRingLinks_3 : ∀ x ∈ State.reset.xfers, x.src ≠ 5 := by decide +kernel
theorem test_CheckUnitsAndRingLinks_4 : smWf regReset State.reset.regs = true ∧ getF State.reset (BME_RING_STAT_STATE 1 0) = 0 ∧ linkFree State.reset 1 0 = true ∧ getF (stF [(BME_RING_STAT_STATE 1 0, 1)]) (BME_RING_STAT_STATE 1 0) ≠ 0 ∧ linkFree { State.reset with plans := [fullRing] } 1 0 = false := by decide +kernel
theorem test_CheckUnitsAndRingLinks_5 : getF State.reset (BME_RING_STAT_STATE 1 0) = 0 ∧ (∀ e ∈ linkEnds 1 0, e ∉ State.reset.retrainDue) ∧ (1, 0) ∈ linkEnds 1 0 ∧ (1, 0) ∈ ({ State.reset with retrainDue := [(1, 0)] } : State).retrainDue := by decide +kernel
theorem test_CheckUnitsAndRingLinks_6 : let s := stF [(BME_RING_STAT_STATE 1 0, 1)]
  getF s (BME_RING_STAT_STATE 1 0) = 1 ∧ smWf regReset s.regs = true ∧ reached s (linkSince s 1 0 + 10000000000) = false ∧ reached (at_ s 20) (linkSince s 1 0 + 10000000000) = true := by decide +kernel
theorem test_CheckUnitsAndRingLinks_7 : cplPlan ∈ cplState.plans ∧ cplPlan.ci = (3 : Fin 512).val ∧ cplPlan.coupled = true ∧ cplPart ∈ cplPlan.parts ∧ (getQuad cplState cplPart.quad).reinit.isSome = true ∧
  usesLink fullRing 1 0 = true ∧ fullRing.coupled = true ∧ getF (stF [(BME_RING_STAT_STATE 1 0, 2)]) (BME_RING_STAT_STATE 1 0) = 2 ∧ (∀ y ∈ fullRing.parts, (getQuad State.reset y.quad).reinit = none) := by decide +kernel
theorem test_RegistersAreAccessed_1 : (3 : BitVec 8).toNat < 16 ∧ (3 : BitVec 8) ≠ 0 ∧ (3 : BitVec 8) ≠ 15 ∧ (regAt (lksBase)).isSome = true := by decide +kernel
theorem test_RegistersAreAccessed_2 : windowAt lksBase = none ∧ (regAt lksBase).map (fun h => (blockLive State.reset h.block h.unit && regExists h)) = some true := by decide +kernel
theorem test_ReservedAddressesReadZero_0 : ∀ i ∈ List.range 5, windowAt (0x0FF0000 + 4 * i) = none ∧ regAt (0x0FF0000 + 4 * i) = none := by decide +kernel
theorem test_ScalarArithmeticWrites_0 : TileReady tileState 5 tile0 tile0 ∧ (⟨5, true, false, true⟩ : Sy).e = true := by decide +kernel
theorem test_ScalarArithmeticWrites_1 : TileReady tileState 5 tile0 tile0 ∧ (⟨5, true, false, true⟩ : Sy).e = true := by decide +kernel
theorem test_ScalarArithmeticWrites_2 : TileReady tileState 5 tile0 tile0 ∧ (⟨5, true, false, true⟩ : Sy).e = true := by decide +kernel
theorem test_ScalarArithmeticWrites_3 : TileReady tileState 5 tile0 tile0 ∧ (⟨5, true, false, true⟩ : Sy).e = true := by decide +kernel
theorem test_AccumulatorSyllablesAct_0 : TileReady tileState 5 tile0 tile0 ∧ (⟨5, true, false, true⟩ : Sy).e = true := by decide +kernel
theorem test_AccumulatorSyllablesAct_1 : TileReady tileState 5 tile0 tile0 ∧ (⟨5, true, false, true⟩ : Sy).e = true := by decide +kernel
theorem test_BranchesRepetitionsAndLoops_0 : TileReady tileState 5 tile0 tile0 ∧ (⟨5, true, false, true⟩ : Sy).e = true ∧ (⟨5, true, false, true⟩ : Sy).sb = false := by decide +kernel
theorem test_BranchesRepetitionsAndLoops_1 : TileReady tileState 5 tile0 tile0 ∧ (⟨5, true, false, true⟩ : Sy).e = true ∧ (⟨5, true, false, true⟩ : Sy).sb = false := by decide +kernel
theorem test_BranchesRepetitionsAndLoops_2 : TileReady tileState 5 tile0 tile0 ∧ (⟨5, true, false, true⟩ : Sy).e = true ∧ (⟨5, true, false, true⟩ : Sy).sb = false := by decide +kernel
theorem test_ControlRegistersAndTaskEnd_0 : TileReady tileState 5 tile0 tile0 ∧ (⟨5, true, false, true⟩ : Sy).e = true ∧ (⟨5, true, false, true⟩ : Sy).sb = false ∧ cregOk 0x014 = true ∧ cregOk 0x021 = true := by decide +kernel
theorem test_ControlRegistersAndTaskEnd_1 : TileReady tileState 5 tile0 tile0 ∧ (⟨5, true, false, true⟩ : Sy).e = true ∧ (⟨5, true, false, true⟩ : Sy).sb = false ∧ tile0.irqPend &&& (3 : BitVec 3).toNat = 0 ∧ TileReady (setTile State.reset 5 { tile0 with irqPend := 2 }) 5 { tile0 with irqPend := 2 } { tile0 with irqPend := 2 } ∧ 2 &&& (3 : BitVec 3).toNat ≠ 0 := by decide +kernel
theorem test_ControlRegistersAndTaskEnd_2 : TileReady tileState 5 tile0 tile0 ∧ (⟨5, true, false, true⟩ : Sy).e = true ∧ (⟨5, true, false, true⟩ : Sy).sb = false ∧ tile0.handler = .none ∧ TileReady (setTile State.reset 5 { tile0 with handler := .exception }) 5 { tile0 with handler := .exception } { tile0 with handler := .exception } := by decide +kernel
theorem test_ControlRegistersAndTaskEnd_3 : TileReady tileState 5 tile0 tile0 ∧ (⟨5, true, true, true⟩ : Sy).e = true ∧ (⟨5, true, true, true⟩ : Sy).sb = true := by decide +kernel
theorem test_LoadsAndStoresOfTheScratchpad_0 : TileReady tileState 5 tile0 tile0 ∧ (⟨5, true, false, true⟩ : Sy).e = true ∧ unsignedOf 32 (sInt tile0 0 + signedOf 12 8) = 8 ∧ placeOf 5 tile0 8 4 false = some (.mem (scratchFlat 5 + 8) false) ∧
  placeOf 5 tile0 8 4 true = some (.mem (scratchFlat 5 + 8) false) ∧ 8 % 4 = 0 ∧ byteBad tileState (scratchFlat 5 + 8) = false ∧ placeOf 5 tile0 8 1 false = some (.mem (scratchFlat 5 + 8) false) := by decide +kernel
theorem test_LoadsAndStoresOfTheScratchpad_1 : TileReady tileState 5 tile0 tile0 ∧ (⟨5, true, false, true⟩ : Sy).e = true ∧ unsignedOf 32 (sInt tile0 0 + signedOf 12 8) = 8 ∧ placeOf 5 tile0 8 4 false = some (.mem (scratchFlat 5 + 8) false) ∧
  placeOf 5 tile0 8 4 true = some (.mem (scratchFlat 5 + 8) false) ∧ 8 % 4 = 0 ∧ byteBad tileState (scratchFlat 5 + 8) = false ∧ placeOf 5 tile0 8 1 false = some (.mem (scratchFlat 5 + 8) false) := by decide +kernel
theorem test_LoadsAndStoresOfTheScratchpad_2 : TileReady csmState 5 csmTile csmTile ∧ placeOf 5 csmTile (sGet csmTile 2) 4 false = some (.mem (scratchFlat 5 + 16) false) ∧ sGet csmTile 2 % 4 = 0 ∧ byteBad csmState (scratchFlat 5 + 16) = false ∧ placeOf 5 csmTile (sGet csmTile 2) 4 true = some (.mem (scratchFlat 5 + 16) false) := by decide +kernel
theorem test_LoadsAndStoresOfTheScratchpad_3 : TileReady tileState 5 tile0 tile0 ∧ (2 : BitVec 2) ≠ 3 := by decide +kernel
theorem test_LoadsAndStoresOfTheScratchpad_4 : TileReady regState 5 regTile regTile ∧ placeOf 5 regTile 0x0D000000 4 false = none ∧ TileReady tileState 5 tile0 tile0 ∧ unsignedOf 32 (sInt tile0 0 + signedOf 12 6) = 6 ∧ placeOf 5 tile0 6 4 false = some (.mem (scratchFlat 5 + 6) false) ∧ 6 % 4 ≠ 0 := by decide +kernel
theorem test_LoadsAndStoresOfTheCluster_0 : TileReady csmState 5 csmTile csmTile ∧ 15 < csmTile.budget ∧ unsignedOf 32 (sInt csmTile 1 + signedOf 12 8) = 0x08000008 ∧ placeOf 5 csmTile 0x08000008 4 false = some (.mem (csmFlat 0 + 8) true) ∧
  placeOf 5 csmTile 0x08000008 4 true = some (.mem (csmFlat 0 + 8) true) ∧ 0x08000008 % 4 = 0 ∧ byteBad csmState (csmFlat 0 + 8) = false := by decide +kernel
theorem test_LoadsAndStoresOfTheCluster_1 : TileReady csmState 5 csmTile csmTile ∧ 15 < csmTile.budget ∧ unsignedOf 32 (sInt csmTile 1 + signedOf 12 8) = 0x08000008 ∧ placeOf 5 csmTile 0x08000008 4 false = some (.mem (csmFlat 0 + 8) true) ∧
  placeOf 5 csmTile 0x08000008 4 true = some (.mem (csmFlat 0 + 8) true) ∧ 0x08000008 % 4 = 0 ∧ byteBad csmState (csmFlat 0 + 8) = false := by decide +kernel
theorem test_LoadsAndStoresOfTheCluster_2 : TileReady regState 5 regTile regTile ∧ unsignedOf 32 (sInt regTile 1 + signedOf 12 8) = 0x0C000008 ∧ placeOf 5 regTile 0x0C000008 4 false = some (.reg (windowOffset 5 8)) ∧ placeOf 5 regTile 0x0C000008 4 true = some (.reg (windowOffset 5 8)) ∧ 0x0C000008 % 4 = 0 := by decide +kernel
theorem test_VectorArithmeticWrites_0 : TileReady vecState 5 vecTile vecTile ∧ (⟨5, true, false, 1, 4⟩ : Vy).e = true ∧ ((⟨5, true, false, 1, 4⟩ : Vy).type.toNat ≤ 4) ∧ ((⟨5, true, false, 1, 0⟩ : Vy).type.toNat ≤ 2) := by decide +kernel
theorem test_VectorArithmeticWrites_1 : TileReady vecState 5 vecTile vecTile ∧ (⟨5, true, false, 1, 4⟩ : Vy).e = true ∧ ((⟨5, true, false, 1, 4⟩ : Vy).type.toNat ≤ 4) ∧ ((⟨5, true, false, 1, 0⟩ : Vy).type.toNat ≤ 2) := by decide +kernel
theorem test_VectorArithmeticWrites_2 : TileReady vecState 5 vecTile vecTile ∧ (⟨5, true, false, 1, 4⟩ : Vy).e = true ∧ ((⟨5, true, false, 1, 4⟩ : Vy).type.toNat ≤ 4) ∧ ((⟨5, true, false, 1, 0⟩ : Vy).type.toNat ≤ 2) := by decide +kernel
theorem test_VectorArithmeticWrites_3 : TileReady vecState 5 vecTile vecTile ∧ (⟨5, true, false, 1, 4⟩ : Vy).e = true ∧ ((⟨5, true, false, 1, 4⟩ : Vy).type.toNat ≤ 4) ∧ ((⟨5, true, false, 1, 0⟩ : Vy).type.toNat ≤ 2) := by decide +kernel
theorem test_VectorArithmeticWrites_4 : TileReady vecState 5 vecTile vecTile ∧ (⟨5, true, false, 1, 4⟩ : Vy).e = true ∧ ((⟨5, true, false, 1, 4⟩ : Vy).type.toNat ≤ 4) ∧ ((⟨5, true, false, 1, 0⟩ : Vy).type.toNat ≤ 2) ∧ ((⟨5, true, false, 1, 4⟩ : Vy).type.toNat = 3 ∨ (⟨5, true, false, 1, 4⟩ : Vy).type.toNat = 4) := by decide +kernel
theorem test_VectorArithmeticWrites_5 : TileReady vecState 5 vecTile vecTile ∧ (⟨5, true, false, 1, 4⟩ : Vy).e = true ∧ ((⟨5, true, false, 1, 4⟩ : Vy).type.toNat ≤ 4) ∧ ((⟨5, true, false, 1, 0⟩ : Vy).type.toNat ≤ 2) ∧ ((⟨5, true, false, 1, 3⟩ : Vy).type.toNat = 3) := by decide +kernel
theorem test_VectorArithmeticWrites_6 : TileReady vecState 5 vecTile vecTile ∧ (⟨5, true, false, 1, 4⟩ : Vy).e = true ∧ ((⟨5, true, false, 1, 4⟩ : Vy).type.toNat ≤ 4) ∧ ((⟨5, true, false, 1, 0⟩ : Vy).type.toNat ≤ 2) := by decide +kernel
theorem test_VectorArithmeticWrites_7 : TileReady vecState 5 vecTile vecTile ∧ (⟨5, true, false, 1, 4⟩ : Vy).e = true ∧ ((⟨5, true, false, 1, 4⟩ : Vy).type.toNat ≤ 4) ∧ ((⟨5, true, false, 1, 0⟩ : Vy).type.toNat ≤ 2) := by decide +kernel
theorem test_VectorAccumulatorsMasksAndLength_0 : TileReady vecState 5 vecTile vecTile ∧ (⟨5, true, false, 1, 4⟩ : Vy).e = true ∧ ((⟨5, true, false, 1, 4⟩ : Vy).type.toNat ≤ 4) ∧ ((⟨5, true, false, 1, 0⟩ : Vy).type.toNat ≤ 2) ∧ (4 : Nat) ≠ 2 := by decide +kernel
theorem test_VectorAccumulatorsMasksAndLength_1 : TileReady vecState 5 vecTile vecTile ∧ (⟨5, true, false, 1, 4⟩ : Vy).e = true ∧ ((⟨5, true, false, 1, 4⟩ : Vy).type.toNat ≤ 4) ∧ ((⟨5, true, false, 1, 0⟩ : Vy).type.toNat ≤ 2) ∧ ((⟨5, true, false, 1, 4⟩ : Vy).type.toNat = 3 ∨ (⟨5, true, false, 1, 4⟩ : Vy).type.toNat = 4) := by decide +kernel
theorem test_VectorAccumulatorsMasksAndLength_2 : TileReady vecState 5 vecTile vecTile ∧ (⟨5, true, false, 1, 4⟩ : Vy).e = true ∧ ((⟨5, true, false, 1, 4⟩ : Vy).type.toNat ≤ 4) ∧ ((⟨5, true, false, 1, 0⟩ : Vy).type.toNat ≤ 2) := by decide +kernel
theorem test_VectorAccumulatorsMasksAndLength_3 : TileReady vecState 5 vecTile vecTile ∧ (⟨5, true, false, 1, 4⟩ : Vy).e = true ∧ ((⟨5, true, false, 1, 4⟩ : Vy).type.toNat ≤ 4) ∧ ((⟨5, true, false, 1, 0⟩ : Vy).type.toNat ≤ 2) := by decide +kernel
theorem test_VectorAccumulatorsMasksAndLength_4 : TileReady vecState 5 vecTile vecTile ∧ (⟨5, true, false, 1, 4⟩ : Vy).e = true ∧ ((⟨5, true, false, 1, 4⟩ : Vy).type.toNat ≤ 4) ∧ ((⟨5, true, false, 1, 0⟩ : Vy).type.toNat ≤ 2) := by decide +kernel
theorem test_VectorAccumulatorsMasksAndLength_5 : TileReady vecState 5 vecTile vecTile ∧ (⟨5, true, false, 1, 4⟩ : Vy).e = true ∧ ((⟨5, true, false, 1, 4⟩ : Vy).type.toNat ≤ 4) ∧ ((⟨5, true, false, 1, 0⟩ : Vy).type.toNat ≤ 2) := by decide +kernel
theorem test_VectorAccumulatorsMasksAndLength_6 : TileReady vecState 5 vecTile vecTile ∧ (⟨5, true, false, 1, 4⟩ : Vy).e = true ∧ ((⟨5, true, false, 1, 4⟩ : Vy).type.toNat ≤ 4) ∧ ((⟨5, true, false, 1, 0⟩ : Vy).type.toNat ≤ 2) := by decide +kernel
theorem test_VectorAccumulatorsMasksAndLength_7 : TileReady vecState 5 vecTile vecTile ∧ (⟨5, true, false, 1, 4⟩ : Vy).e = true ∧ ((⟨5, true, false, 1, 4⟩ : Vy).type.toNat ≤ 4) ∧ ((⟨5, true, false, 1, 0⟩ : Vy).type.toNat ≤ 2) := by decide +kernel
theorem test_VectorAccessesOfMemory_0 : TileReady vecState 5 vecTile vecTile ∧ tileCsm (sGet vecTile 2) = false ∧ sGet vecTile 2 % 5 = 0 ∧ (∀ i ∈ activeElts vecTile 1 (eltCount vecTile 1), (eltBytes 20 i).2 ≤ 160) ∧ (∀ i ∈ activeElts vecTile 1 (eltCount vecTile 0), (eltBytes 4 i).2 ≤ 160) ∧ (∀ b < 160, sGet vecTile 2 + b < 0x80000) := by decide +kernel
theorem test_VectorAccessesOfMemory_1 : TileReady csmVec 5 csmVecTile csmVecTile ∧ vmCsm csmVecTile .vld 1 1 1 = some 0x08000000 ∧ vmCsm csmVecTile .vldx 1 1 1 = some 0x08000000 ∧ 15 < csmVecTile.budget ∧ regionOfs (sGet csmVecTile 1) % 5 = 0 ∧
  (∀ i ∈ activeElts csmVecTile 1 (eltCount csmVecTile 1), (eltBytes 20 i).2 ≤ 160) ∧ (∀ i ∈ activeElts csmVecTile 1 (eltCount csmVecTile 0), (eltBytes 4 i).2 ≤ 160) ∧ (∀ b < 160, byteOk csmVecTile false (0x08000000 + b) = true ∧ byteOk csmVecTile true (0x08000000 + b) = true ∧ byteBad csmVec (vecFlat 5 (0x08000000 + b)) = false) := by decide +kernel
theorem test_VectorAccessesOfMemory_2 : TileReady csmVec 5 csmVecTile csmVecTile ∧ regionOfs (sGet csmVecTile 2) % 5 ≠ 0 ∧ 4 < (7 : BitVec 3).toNat := by decide +kernel
theorem test_HandlersAreEntered_0 : pendingLine irqTile = some 1 ∧ takesIrq irqTile = true ∧ irqTile.wait = none ∧ getAt none irqTile.since 1 ≠ some irqTile.cycle.toNat ∧ 0 < irqTile.budget := by decide +kernel
theorem test_HandlersAreEntered_1 : takesIrq (getTile State.reset 5) = false := by decide +kernel
theorem test_HandlersAreEntered_2 : excTile.fault = some (0x05, 16, false) ∧ excTile.running = true ∧ excTile.halted = false ∧ excTile.handler = .none ∧ excTile.evec ≠ 0xFFFFFFFF ∧ { excTile with evec := 0xFFFFFFFF }.evec = 0xFFFFFFFF := by decide +kernel
theorem test_HandlersAreEntered_3 : let s := setTile State.reset 5 tile0
  tile0.fault = none ∧ tile0.halted = false ∧ smWf (fun _ => ({} : Tile)) s.tiles = true ∧ tileTakes tile0 = true ∧ tile0.stage = [] ∧ tile0.pc + 4 ≤ tile0.codeLen ∧ ({ tile0 with pc := 4096 } : Tile).codeLen ≤ 4096 ∧ tileTakes ({} : Tile) = false ∧
  s.poison = [] ∧ s.errs = [] ∧ fencedAt s (32 * ((tile0.code + tile0.pc) / 32)) = false := by decide +kernel
theorem test_HandlersAreEntered_4 : (getTile State.reset 5).running = false := by decide +kernel
theorem test_TileEventsAndBundles_0 : (getTile tmrState 5).running = true ∧ (getTile tmrState 5).tmrArmed = true ∧ (getTile State.reset 5).running = false := by decide +kernel
theorem test_TileEventsAndBundles_1 : blockLive State.reset .til 5 = true := by decide +kernel
theorem test_TileEventsAndBundles_2 : excTile.running = true ∧ excTile.ending = none ∧ excTile.wait = none ∧ excTile.budget ≠ 0 := by decide +kernel
theorem test_TileEventsAndBundles_3 : tileTakes (getTile State.reset 5) = false ∧ tileTakes tile0 = true := by decide +kernel
theorem test_TileEventsAndBundles_4 : ({ tile0 with flights := [⟨0, .s 3, 7⟩] } : Tile).flights = [⟨0, .s (3 : Reg).toNat, 7⟩] ∧ (3 : Reg) ≠ 0 ∧ smWf (fun _ => (0 : Word)) tile0.sreg = true := by decide +kernel
theorem test_TileEventsAndBundles_5 : ({ tile0 with flights := [⟨4, .s 3, 7⟩] } : Tile).flights = [⟨3 + 1, .s 3, 7⟩] := by decide +kernel
theorem test_InterruptSourcesSendMessages_0 : isF (atDt (intState true) 0) (INT_SRC_CFG_EN 768) = true ∧ gapOver (atDt (intState true) 0) 768 = true ∧ isLevel 768 = false ∧ (getInt (atDt (intState true) 0) 768).pend = true ∧ (intState true).cfg.msixEnable = true ∧ sentTogether (atDt (intState true) 0) 768 = false ∧ (intState false).cfg.msixEnable = false := by decide +kernel
theorem test_InterruptSourcesSendMessages_1 : intDue (atDt State.reset 0) 768 = false ∧ intDue (atDt lvlState 0) 816 = true ∧ gapOver (atDt lvlState 0) 816 = true ∧ isLevel 816 = true ∧ (getInt (atDt lvlState 0) 816).asserted = false := by decide +kernel
theorem test_InterruptSourcesSendMessages_2 : isLevel 816 = true ∧ (getInt ackState 816).asserted = true ∧ (getInt ackState 816).stuck = false ∧ isF ackState (INT_SRC_CFG_EN 816) = true ∧ isLevel 768 = false := by decide +kernel
theorem test_InterruptSourcesSendMessages_3 : isLevel 816 = true ∧ (getInt (at_ ackState 20) 816).asserted = true ∧ (getInt (at_ ackState 20) 816).stuck = false ∧ reached (at_ ackState 20) ((getInt (at_ ackState 20) 816).since + getF (at_ ackState 20) (INT_SRC_CFG_STUCK_MS 816) * 1000000000) = true ∧
  (getInt (at_ stuckState 20) 816).stuck = true ∧ (getInt (at_ stuckState 20) 816).asserted = false ∧ reached (at_ stuckState 20) ((getInt (at_ stuckState 20) 816).since + 1000000) = true ∧ (getInt ackState 816).stuck = false ∧ isLevel 768 = false := by decide +kernel
theorem test_InterruptSourcesSendMessages_4 : bitOf (0x800 : Word).toNat 11 = 1 ∧ bitOf (0 : Word).toNat 11 = 0 := by decide +kernel
theorem test_TheHostPortFollowsItsLink_3 : getF (stF [(CXL_IDE_STAT_IO_STATE, 1)]) CXL_IDE_STAT_IO_STATE = 1 ∧ getF (addF (stF [(CXL_IDE_STAT_IO_STATE, 1)]) CXL_IDE_STAT_FAILS 1) CXL_IDE_STAT_IO_STATE ≠ 2 ∧ getF State.reset CXL_IDE_STAT_CM_STATE ≠ 1 := by decide +kernel
theorem test_TheHostPortFollowsItsLink_4 : isF hdmState (MEM_HDM_LOCKED 1) = false ∧ getF hdmState (MEM_HDM_SIZE 1) = 2 ∧ hdmState.cfg.biEnable = true ∧ quadDark hdmState 1 = false ∧ isF (setF hdmState (MEM_HDM_LOCKED 1) 1) (MEM_HDM_LOCKED 1) = true := by decide +kernel
theorem test_TheHostPortFollowsItsLink_5 : (1 : Fin 3).val ≠ 0 := by decide +kernel
theorem test_TheHostPortFollowsItsLink_6 : getF (stF [(CXL_LINK_STAT_RATE, 6)]) CXL_LINK_STAT_RATE ≠ 0 ∧ (stF [(CXL_LINK_STAT_RATE, 6)]).perst = false ∧ { stF [(CXL_LINK_STAT_RATE, 6)] with upCycles := 3 }.upCycles < 10000000 ∧ 10000000 ≤ { stF [(CXL_LINK_STAT_RATE, 6)] with upCycles := 10000000 }.upCycles := by decide +kernel
theorem test_TddGroupsDriveRampsAndPins_0 : let s := stF [(TDD_CTL_ARM, 1), (TDD_PIN_EN 3, 1)]
  tddPinOn (atDt State.reset 0) 3 = false ∧ tddPinOn (atDt s 0) 3 = true ∧ pinLevel (atDt s 0) 3 (now (atDt s 0)) = true ∧ (tddPhases (atDt s 0) 3).all (fun u => !u.1.tdd) = true ∧ (tddPhases (atDt s 0) 3).length = 2 := by decide +kernel
theorem test_TddGroupsDriveRampsAndPins_1 : inCycle (stF [(TDD_GRP_CFG_PENDING 3, 1)]) (next20ms (tddOf (stF [(TDD_GRP_CFG_PENDING 3, 1)]) false 3).ofs (ctPs (stF [(TDD_GRP_CFG_PENDING 3, 1)]))) = true ∧ isF (stF [(TDD_GRP_CFG_PENDING 3, 1)]) (TDD_GRP_CFG_PENDING 3) = true ∧ isF State.reset (TDD_GRP_CFG_PENDING 3) = false := by decide +kernel
theorem test_TddGroupsDriveRampsAndPins_2 : ((rampWhen tddState 3 true 10000000000).map fun x => decide (now tddState + 20000000 ≤ x.2.1)) = some true ∧ ((rampWhen (at_ tddState 10) 3 true 10000000000).map fun x => decide (x.2.1 < now (at_ tddState 10) + 20000000)) = some true ∧ rampWhen State.reset 3 true 0 = none := by decide +kernel
theorem test_SampleGroupsMoveOverTheRadioLink_0 : portLane radState 0 (gangFirst radState 0 0) = some 0 ∧ (areaOf radState 0 0 0 0).isSome = true ∧ inCycle radState (fetchInstant 90 (lanePeriod radState 0)) = true ∧ inCycle radState (fetchInstant 9 (lanePeriod radState 0)) = false := by decide +kernel
theorem test_SampleGroupsMoveOverTheRadioLink_1 : laneOrl frmState 0 = true ∧ laneIsUp frmState 0 = true ∧ laneSlots frmState 0 ≠ [] ∧ getF frmState (PRM_Q_STAT_STATE 0) ≠ 1 ∧ (getLane frmState 0).framesFrom ≤ airTime 0 (lanePeriod frmState 0) ∧ inCycle frmState (airTime 0 (lanePeriod frmState 0)) = true ∧ laneIsUp State.reset 0 = false := by decide +kernel
theorem test_SampleGroupsMoveOverTheRadioLink_2 : laneOrl frmState 0 = true ∧ laneIsUp frmState 0 = true ∧ getF frmState (PRM_Q_STAT_STATE 0) ≠ 1 ∧ (laneSlots frmState 0).length = 1 ∧ (frameGroup 0 16 [0]).isSome = true ∧ frameGroup 0 16 [9] = none := by decide +kernel
theorem test_SampleGroupsMoveOverTheRadioLink_3 : portLane frmState 0 (gangFirst frmState 0 0) = some 0 ∧ rxGroup frmState 0 0 = none ∧ reached frmState (airTime 0 (lanePeriod frmState 0)) = true := by decide +kernel
theorem test_CapturesAndRandomAccess_0 : portLane frmState 0 0 = some 0 ∧ ((List.range 4).find? fun i => lanePort frmState 0 i == some 0) = some 0 := by decide +kernel
theorem test_CapturesAndRandomAccess_1 : getCaptures (setCaptures State.reset 5 [{ first := 0, len := 1, slot := 0, due := 0 }]) 5 = [({ first := 0, len := 1, slot := 0, due := 0 } : Capture)] ∧ captureDone ({ first := 0, len := 1, slot := 0, due := 0 } : Capture) = false ∧ reached State.reset 0 = true ∧ captureDone ({ first := 0, len := 1, slot := 0, due := 0, got := [(0, 5)] } : Capture) = true ∧ getCaptures State.reset 5 = [] := by decide +kernel
theorem test_CapturesAndRandomAccess_2 : laneOrl frmState 0 = true ∧ laneIsUp frmState 0 = true ∧ lanePort frmState 0 (bitsOf 0 0 2) = some 0 ∧ (decide (0 < 1) && bitsOf 0 24 32 == unsignedOf 32 (0 + (0 : Nat)) && decide (now frmState ≤ 50000000)) = true := by decide +kernel
theorem test_CapturesAndRandomAccess_3 : quadDark State.reset 0 = false ∧ isF State.reset (PFE_CTX_CTL_EN 0 3) = false ∧ pfeLoads State.reset 0 + pfeLoad State.reset 0 3 ≤ 1572864 ∧ inCsm (getF State.reset (PFE_CTX_OUT_ADDR 0 3)) (pfeNbuf State.reset 0 3 * pfeEntry State.reset 0 3) = true := by decide +kernel
theorem test_CapturesAndRandomAccess_4 : isF State.reset (PFE_CTX_CTL_EN 0 3) = false ∧ isF (stF [(PFE_CTX_CTL_EN 0 3, 1)]) (PFE_CTX_CTL_EN 0 3) = true ∧ 0 < clampNat 1 8 (getF (stF [(PFE_CTX_CTL_EN 0 3, 1)]) (PFE_CTX_SCHED_NOCC 0 3)) ∧ smGet (fun _ => (0 : Int)) (stF [(PFE_CTX_CTL_EN 0 3, 1)]).pfeFrom 3 ≤ (pfeTimes (stF [(PFE_CTX_CTL_EN 0 3, 1)]) 0 3 0 0).1 ∧ (pfeTimes (at_ (stF [(PFE_CTX_CTL_EN 0 3, 1)]) 315964819020) 0 3 0 0).2 ≤ now (at_ (stF [(PFE_CTX_CTL_EN 0 3, 1)]) 315964819020) := by decide +kernel
theorem test_LanesComeUpAndGoDown_0 : quadDark State.reset 0 = false ∧ isF State.reset (LAN_CTL_EN 0) = false ∧ (laneRadio State.reset 0 && !wouldSpare State.reset 0) = true ∧ capacityOk State.reset 0 0 = true ∧ gangOk State.reset 0 = true ∧ isF frmState (LAN_CTL_EN 0) = true := by decide +kernel
theorem test_LanesComeUpAndGoDown_1 : quadDark frmState 0 = false ∧ isF frmState (LAN_CTL_EN 0) = true ∧ isF State.reset (LAN_CTL_EN 0) = false := by decide +kernel
theorem test_LanesComeUpAndGoDown_2 : laneTraining trainState 0 = true ∧ laneFec trainState 0 = true ∧ isF trainState (LAN_STAT_BLOCK_LOCK 0) = true ∧ laneTraining State.reset 0 = false := by decide +kernel
theorem test_LanesComeUpAndGoDown_3 : laneTraining passState 0 = true ∧ lanePassed passState 0 = true ∧ getF passState (LAN_CTL_MODE 0) ≠ 4 ∧ laneLive (at_ passState 60) 0 = true ∧ getF (at_ passState 60) (LAN_STAT_STATE 0) = 1 ∧ reached (at_ passState 60) ((getLane (at_ passState 60) 0).began + 50000000000) = true ∧ laneLive State.reset 0 = false := by decide +kernel
theorem test_LanesComeUpAndGoDown_4 : getF frmState (LAN_STAT_STATE 0) = 2 ∧ laneRadio frmState 0 = true ∧ getF State.reset (LAN_STAT_STATE 0) = 0 := by decide +kernel
theorem test_LanesComeUpAndGoDown_5 : quadDark frmState 0 = false := by decide +kernel
theorem test_LanesComeUpAndGoDown_6 : getF State.reset (LAN_STAT_STATE 5) ≠ 3 := by decide +kernel
theorem test_LanesCarryMarkersAndMessages_0 : laneLive frmState 0 = true ∧ laneRadio frmState 0 = true ∧ laneLive State.reset 0 = false := by decide +kernel
theorem test_LanesCarryMarkersAndMessages_1 : laneLive frmState 0 = true ∧ laneRadio frmState 0 = true ∧ bitOf (mkBits 0 7) 6 ≠ 0 ∧ bitsOf (mkBits 0 7) 184 16 = markerCrc (mkBits 0 7 % 2 ^ 184) ∧ ((getLane frmState 0).markers.find? fun m => m.1 == bitsOf (mkBits 0 7) 96 16) = none ∧ (([(7, (0 : Int))]).find? fun m => m.1 == bitsOf (mkBits 0 7) 96 16) = some (7, 0) := by decide +kernel
theorem test_LanesCarryMarkersAndMessages_2 : (((5 : Int) :: (getLane State.reset 0).rtts).take 256).length < 256 ∧ 256 ≤ (((5 : Int) :: List.replicate 255 5).take 256).length := by decide +kernel
theorem test_LanesCarryMarkersAndMessages_3 : laneLive frmState 0 = true ∧ laneRadio frmState 0 = true ∧ knownType 0x99 = false ∧ knownType 0x55 = true := by decide +kernel
theorem test_LanesCarryMarkersAndMessages_4 : laneIsUp frmState 0 = true ∧ laneRadio frmState 0 = true ∧ laneIsUp State.reset 0 = false ∧ bitOf 255 3 = 1 := by decide +kernel
theorem test_LanesCarryMarkersAndMessages_5 : quadDark frmState 0 = false := by decide +kernel
theorem test_EthernetLanesHandleFrames_0 : ethUp ethState (ethLane ethState 0) = true ∧ ethUp State.reset (ethLane State.reset 0) = false ∧ clampNat 1500 9600 (getF ethState (LAN_ETH_MTU 0)) < (List.replicate 9601 (0 : Byte)).length ∧ (List.replicate 64 (0 : Byte)).length ≤ clampNat 1500 9600 (getF ethState (LAN_ETH_MTU 0)) := by decide +kernel
theorem test_EthernetLanesHandleFrames_1 : fwdEntry ethState 0 0 = none ∧ fwdEntry (stF [(LAN_CTL_MODE 0, 5), (LAN_FWD_HI_EN 0 2, 1)]) 0 0 = some 2 ∧ isF ethState LKS_CTL_ARM = false ∧ isF (stF [(LKS_CTL_ARM, 1)]) LKS_CTL_ARM = true ∧ (ptpOffset false (ethFrame 0x88F7 0)).isSome = true ∧ (ptpOffset false (ethFrame 0xAEFE 5)).isSome = false ∧ beAt (ethFrame 0xAEFE 5) 12 2 = 0xAEFE ∧ beAt ((ethFrame 0xAEFE 5).drop 14) 1 1 = 5 ∧ (ptpOffset false (ethFrame 0x8809 0)).isSome = false ∧ beAt (ethFrame 0x8809 0) 12 2 = 0x8809 ∧ (ptpOffset false (ethFrame 0x1234 0)).isSome = false ∧ beAt (ethFrame 0x1234 0) 12 2 = 0x1234 := by decide +kernel
theorem test_EthernetLanesHandleFrames_2 : ethUp ethState (ethLane ethState 0) = true ∧ beAt ((List.replicate 24 (0 : Byte))) 5 1 ≤ 1 ∧ 1 < beAt ((List.replicate 24 (3 : Byte))) 5 1 ∧ ethUp State.reset (ethLane State.reset 0) = false := by decide +kernel
theorem test_EthernetLanesHandleFrames_3 : ((uEnts upState 0 upMsg).map fun x => (x, slotNamed upState x.1 (bitsOf (beAt upMsg 8 4) 16 8) (bitsOf (beAt upMsg 8 4) 12 4) (bitsOf (beAt upMsg 8 4) 6 6))).any (fun x => entInForce upState x.1 x.2 && filterOk x.1.2 (bitsOf (beAt upMsg 8 4) 24 4)) = true := by decide +kernel
theorem test_EthernetLanesHandleFrames_4 : fdLane upState 0 0 = some 0 ∧ ethUp upState 0 = true := by decide +kernel
theorem test_EthernetLanesHandleFrames_5 : (getLane ethState (ethLane ethState 0)).egress = [] ∧ (getLane fwdState (ethLane fwdState 0)).egress = [(ethFrame 0x88F7 0, 0)] ∧ ethUp fwdState 0 = true ∧ ptpOffset false (ethFrame 0x88F7 0) = some 14 ∧ ptpOffset false (ethFrame 0x1234 0) = none ∧ bitsOf (beAt (ethFrame 0x88F7 0) 14 1) 0 4 ≤ 3 ∧ now (atDt fwdState 0) - 0 ≤ psSec / 1000 := by decide +kernel
theorem test_PartitionsReachLanesMemoryAndTiles_0 : phxAlive State.reset 5 = true ∧ isF State.reset (PHX_CTL_IO_EN 5) = false ∧ ((setBits 16 0 3).take 8).filter (fun i => attachable State.reset 5 (16 + i)) = [0, 1] ∧ isF ioState (PHX_CTL_IO_EN 5) = true ∧ ((setBits 16 0 0xFFFF).take 8).length ≠ (setBits 16 0 0xFFFF).length := by decide +kernel
theorem test_PartitionsReachLanesMemoryAndTiles_1 : phxAlive State.reset 5 = true ∧ isF State.reset (PHX_CTL_IO_EN 5) = false ∧ 8 + heldByAll State.reset (dramOf 1) + phloxShares State.reset 1 ≤ 272 + getF State.reset (PHX_BW_SHARES 5) ∧ isF ioState (PHX_CTL_IO_EN 5) = true := by decide +kernel
theorem test_PartitionsReachLanesMemoryAndTiles_2 : phxIo ioState 5 = true ∧ phxWindowOk ioState 5 0 8 = true ∧ waitsFor ioState (dramFlat 1) 8 false = none ∧ waitsFor ioState (dramFlat 1) 8 true = none ∧ ioState.waits = [] ∧ waitsFor { ioState with sf := [(2 ^ 32, 2)] } (dramFlat 1) 8 false = some (1, 0) ∧ behind ⟨.partition 5, 0, 8, none⟩ (.partition 5) = true ∧ phxWindowOk ioState 5 (2 ^ 33) 8 = false := by decide +kernel
theorem test_PartitionsReachLanesMemoryAndTiles_3 : phxIo ioState 5 = true ∧ (match regAt (TIL_MBOX 72) with | some h => decide (h.spec.name = .TIL_MBOX) | none => false) = true ∧ quadBase 1 ≤ TIL_MBOX 72 := by decide +kernel
theorem test_PartitionsReachLanesMemoryAndTiles_4 : phxLaneUp ioState 5 16 = true ∧ lanePhx ioState 16 = some 5 ∧ lanePhx State.reset 16 = none := by decide +kernel
theorem test_PartitionsReachLanesMemoryAndTiles_5 : phxAlive ioState 5 = true ∧ getF ioState (PHX_STAT_STATE 5) = 1 ∧ getF State.reset (PHX_STAT_STATE 5) ≠ 1 := by decide +kernel
theorem test_PartitionsAreLoadedAndRestarted_0 : phxAlive State.reset 5 = true ∧ getF State.reset (PHX_STAT_STATE 5) ≠ 1 ∧ (readStream State.reset 5 5 true ⟨0, none⟩ none).toOption.isNone = true := by decide +kernel
theorem test_PartitionsAreLoadedAndRestarted_1 : phxAlive State.reset 5 = true ∧ phxLoading State.reset 5 = false ∧ phxLoading (stF [(PHX_LOAD_STAT_STATE 5, 1)]) 5 = true := by decide +kernel
theorem test_PartitionsAreLoadedAndRestarted_2 : getF State.reset (PHX_LOAD_STAT_STATE 5) ≠ 1 ∧ getF (stF [(PHX_LOAD_STAT_STATE 5, 1)]) (PHX_LOAD_STAT_STATE 5) = 1 ∧ (readStream (stF [(PHX_LOAD_STAT_STATE 5, 1)]) 5 0 false ⟨0, none⟩ none).toOption.isNone = true ∧ phxLoading State.reset 5 = false ∧ phxLoading (stF [(PHX_LOAD_STAT_STATE 5, 1)]) 5 = true := by decide +kernel
theorem test_PartitionsAreLoadedAndRestarted_3 : (getPhx swapState 5).mhz = clampNat 100 500 (getF swapState (PHX_CLK_MHZ 5)) ∧ (getPhx swapState 5).swapAt = some 1000 ∧ getF swapState (PHX_LOAD_STAT_STATE 5) = 2 ∧ (getPhx (swapPlane swapState 5 (getPhx swapState 5)) 5).restart = true ∧ (getPhx swapState 5).restart = false := by decide +kernel
theorem test_ScrubbersCorrectAndCheckEachOther_0 : nextFrame scrState 1 (getScr scrState 1).pos = some 40960 ∧ scrRuns scrState 1 = true ∧ (getScr scrState 1).repair = none ∧ (frameOutcomes []).all (fun o => o.1 == .clean) = true ∧ ((frameOutcomes []).any fun o => o.1 == .uncorrectable || o.1 == .address) = false ∧
  (rsDecode (errPattern (cwErrs [(2, ⟨3, 1⟩)] 2))).1 = .corrected := by decide +kernel
theorem test_ScrubbersCorrectAndCheckEachOther_1 : (getScr repState 1).repair = some (40960, true) ∧ scrRuns repState 1 = true ∧ recordFor repState 5 40960 ⟨0, none⟩ = none := by decide +kernel
theorem test_ScrubbersCorrectAndCheckEachOther_2 : (getScr chkState 1).checkDue = true ∧ quadDark chkState 1 = false ∧ nbrTarget chkState 1 = some 2 := by decide +kernel
theorem test_ScrubbersCorrectAndCheckEachOther_3 : quadDark State.reset 1 = false := by decide +kernel
theorem test_RailsAndOperatingPoints_0 : isF (stF [(PRM_PMB_CMD_WRITE, 1), (PRM_PMB_CMD_CODE, 0x21)]) PRM_PMB_CMD_WRITE = true ∧ getF (stF [(PRM_PMB_CMD_WRITE, 1), (PRM_PMB_CMD_CODE, 0x21)]) PRM_PMB_CMD_CODE = 0x21 ∧ isF (stF [(PRM_PMB_CMD_WRITE, 1)]) PRM_PMB_CMD_WRITE = true ∧ getF (stF [(PRM_PMB_CMD_WRITE, 1)]) PRM_PMB_CMD_CODE = 0 ∧ isF State.reset PRM_PMB_CMD_WRITE = false := by decide +kernel
theorem test_RailsAndOperatingPoints_1 : (7 : Fin 32).val < 8 ∧ 8 ≤ (8 : Fin 32).val := by decide +kernel
theorem test_RailsAndOperatingPoints_2 : smGet (fun _ => none) State.reset.rails 3 = none ∧ smGet (fun _ => none) ({ State.reset with rails := [(3, some ⟨700, 5⟩)] } : State).rails 3 = some ⟨700, 5⟩ ∧ smGet (fun _ => none) ({ State.reset with rails := [(8, some ⟨700, 5⟩)] } : State).rails 8 = some ⟨700, 5⟩ ∧
   ((700 : Int) - getF (stF [(PRM_RAIL_STAT_TARGET 3, 700)]) (PRM_RAIL_STAT_TARGET 3)).natAbs * 100 ≤ getF (stF [(PRM_RAIL_STAT_TARGET 3, 700)]) (PRM_RAIL_STAT_TARGET 3) ∧ getF (stF [(PRM_RAIL_STAT_TARGET 3, 700)]) (PRM_RAIL_STAT_TARGET 3) < ((900 : Int) - getF (stF [(PRM_RAIL_STAT_TARGET 3, 700)]) (PRM_RAIL_STAT_TARGET 3)).natAbs * 100 ∧ reached (at_ State.reset 20) 5 = true ∧ reached State.reset 1000000000 = false := by decide +kernel
theorem test_RailsAndOperatingPoints_3 : quadDark (stF [(PRM_Q_STAT_STATE 0, 2)]) 0 = true ∧ quadDark opPlan 0 = false ∧ min 5 (1#3).toNat < (planOp opPlan 0).getD 0 ∧ quadDark State.reset 0 = false ∧ (planOp State.reset 0).getD 0 ≤ 3 ∧ (raiseOp State.reset 0 3 false 0).2 = false ∧ tooHot hotState 0 = true ∧ (raiseOp hotState 0 3 false 0).2 = true := by decide +kernel
theorem test_ClustersSleepAndWake_0 : quadDark State.reset 0 = false ∧ getF State.reset (PWR_CL_STAT_STATE 3) ≤ 1 ∧ clusterIdle State.reset 3 = true ∧ levelWake State.reset 3 = false ∧ deepest (stF [(PWR_CL_CTL_DEPTH_MAX 3, 2)]) 3 = some 2 ∧ clusterIdle (stF [(PWR_CL_CTL_DEPTH_MAX 3, 2)]) 3 = true ∧ deepest (stF [(PWR_CL_CTL_DEPTH_MAX 3, 0)]) 3 = some 0 ∧ getF (stF [(PWR_CL_STAT_STATE 3, 6)]) (PWR_CL_STAT_STATE 3) = 6 := by decide +kernel
theorem test_ClustersSleepAndWake_1 : (getCl (entState 0) 3).entering = some (2, 0) ∧ getF (entState 0) (PWR_CL_STAT_STATE 3) = 4 ∧ reached (entState 0) 500000 = true ∧ levelWake (entState 0) 3 = false ∧ isF (entState 0) (PWR_CL_CTL_LOCK 3) = false ∧ levelWake (entState 1) 3 = true ∧ reached (entState 1) 500000 = true ∧ (getCl (entState 1) 3).entering = some (2, 0) := by decide +kernel
theorem test_ClustersSleepAndWake_2 : (getCl State.reset 3).entering = none := by decide +kernel
theorem test_ClustersSleepAndWake_3 : (getCl State.reset 3).wake = none ∧ (getCl (wakeState 0) 3).wake = some 0 ∧ 0 ≤ now (atDt (wakeState 0) 2) ∧ now (atDt (wakeState 0) 2) ≤ 12000000 ∧ (getCl (wakeState 0) 3).asleep = 3 ∧ 8000000 < now (atDt (wakeState 10) 0) ∧ now (atDt (wakeState 10) 0) ≤ 20000000 ∧ ¬ (now (atDt (wakeState 30) 0) ≤ 20000000) := by decide +kernel
theorem test_ClustersSleepAndWake_4 : (getCl (wakeState 10) 3).wake = some 0 ∧ reached (wakeState 10) 16000000 = false ∧ reached (wakeState 30) 16000000 = true ∧ (getCl (wakeState 30) 3).retry = false ∧ (getCl (setCl (wakeState 30) 3 { getCl (wakeState 30) 3 with retry := true }) 3).retry = true := by decide +kernel
theorem test_ClustersSleepAndWake_5 : quadDark (stF [(PRM_Q_STAT_STATE 0, 2)]) 0 = true ∧ quadDark (entState 0) 0 = false ∧ getF (entState 0) (PWR_CL_STAT_STATE 3) = 4 ∧ entryFinal (entState 0) 3 = true ∧ (getCl (wakeState 0) 3).wake.isSome = true ∧ quadDark (wakeState 0) 0 = false ∧ getF (stF [(PWR_CL_STAT_STATE 3, 6)]) (PWR_CL_STAT_STATE 3) = 6 ∧ quadDark (stF [(PWR_CL_STAT_STATE 3, 6)]) 0 = false := by decide +kernel
theorem test_QuadrantsSleepBootAndReset_0 : getF (stF [(PRM_Q_STAT_STATE 1, 2)]) (PRM_Q_STAT_STATE 1) = 2 ∧ getF (stF [(PRM_Q_STAT_STATE 1, 1)]) (PRM_Q_STAT_STATE 1) = 1 ∧ getF State.reset (PRM_Q_STAT_STATE 1) = 0 ∧ quadRefuser State.reset 1 true = none ∧ quadRefuser State.reset 1 false = none ∧ quadRefuser withPlan 0 true = some 1 ∧ getF withPlan (PRM_Q_STAT_STATE 0) = 0 ∧ getF (stF [(PRM_Q_STAT_STATE 1, 6)]) (PRM_Q_STAT_STATE 1) = 6 := by decide +kernel
theorem test_QuadrantsSleepBootAndReset_1 : (getQuad State.reset 1).entering = none ∧ (getQuad (qEnt true 5) 1).entering = some 0 ∧ (getQuad (qEnt true 5) 1).toOff = true ∧ reached (qEnt true 5) 1000000000 = true ∧ getF (qEnt true 5) (PRM_Q_CTL_TARGET 1) ≠ 0 ∧ reached (qEnt false 0) 50000000 = false ∧ reached (qEnt false 5) 50000000 = true ∧ (getQuad (qEnt false 5) 1).toOff = false := by decide +kernel
theorem test_QuadrantsSleepBootAndReset_2 : getF (stF [(PRM_Q_STAT_STATE 1, 4)]) (PRM_Q_STAT_STATE 1) = 4 := by decide +kernel
theorem test_QuadrantsSleepBootAndReset_3 : (getQuad (setQuad State.reset 1 { booting := some 0 }) 1).booting = some 0 ∧ reached (setQuad State.reset 1 { booting := some 0 }) 50000000000 = false := by decide +kernel
theorem test_QuadrantsSleepBootAndReset_4 : (getQuad State.reset 1).reinit = none ∧ (getQuad cplState 2).reinit.isSome = true := by decide +kernel
theorem test_QuadrantsSleepBootAndReset_5 : (getQuad State.reset 1).records = [] ∧ (getQuad recState 1).records = aJob :: [] ∧ ¬ (getF recState CXL_LINK_STAT_RATE = 0 ∨ now (atDt recState 0) < recState.linkHeld) ∧ getF State.reset CXL_LINK_STAT_RATE = 0 ∧ aJob.lost = false ∧ aJob.deadline < now (atDt recState 0) := by decide +kernel
theorem test_ChipResetsSuppliesAndTemperature_0 : State.reset.perst = !(!State.reset.perst) ∧ ({ State.reset with perst := true } : State).perst = true ∧ ({ State.reset with perst := false } : State).perst = false := by decide +kernel
theorem test_ChipResetsSuppliesAndTemperature_1 : monitored State.reset 8 = true ∧ monitored State.reset 3 = true ∧ monitored State.reset 6 = false ∧ (8 : Nat) = 8 + 6 * ((8 - 8) / 6) := by decide +kernel
theorem test_ChipResetsSuppliesAndTemperature_3 : smGet (fun _ => none) State.reset.hotSince 2 = none ∧ smGet (fun _ => none) (at_ { State.reset with hotSince := [(2, some 0)] } 5).hotSince 2 = some 0 ∧ reached (at_ { State.reset with hotSince := [(2, some 0)] } 5) 1000000000 = true := by decide +kernel
theorem test_FailingTilesEnginesAndBanks_0 : (getHw (atDt State.reset 0) 5).stopped = false ∧ quadDark (atDt State.reset 0) 0 = false ∧ (getTile (atDt State.reset 0) 5).running = false ∧ (getTile (atDt tileState 0) 5).running = true ∧ (tileNode tileState 5).isNone = true ∧ (tileNode redoState 5).isSome = true ∧ (tileNode redoState 5).any (fun x => redone redoState 5 x.1 x.2) = true ∧ (tileNode noRedo 5).any (fun x => !(redone noRedo 5 x.1 x.2)) = true := by decide +kernel
theorem test_FailingTilesEnginesAndBanks_1 : (getHw State.reset 5).redo = none ∧ (getHw redoWait 5).redo = some (5, 0) ∧ (getHw redoWait 5).spareFor = some 5 ∧ spareTile redoWait 0 = some 8 ∧ (findNode redoWait 5).isSome = true := by decide +kernel
theorem test_FailingTilesEnginesAndBanks_2 : physOf State.reset (8 * getF State.reset PRM_RETIRE_QUAD + getF State.reset PRM_RETIRE_CLUSTER) (getF State.reset PRM_RETIRE_TILE) = some 0 ∧ physOf (setTilemap State.reset 0 0 15) 0 0 = none := by decide +kernel
theorem test_FailingTilesEnginesAndBanks_3 : (getHw State.reset 5).test = none ∧ (getHw (setHw State.reset 5 { test := some 0 }) 5).test.isSome = true := by decide +kernel
theorem test_FailingTilesEnginesAndBanks_4 : quadDark (atDt State.reset 0) 0 = false ∧ bitOf (getCl (atDt State.reset 0) 0).lostEng 1 ≠ 1 ∧ (runningNode (atDt State.reset 0) 0 9).isNone = true ∧ (runningNode bmeState 0 9).isSome = true := by decide +kernel
theorem test_FailingTilesEnginesAndBanks_5 : fenceDue (setCl State.reset 3 { addrErrs := [2, 2] }) 3 2 = true ∧ fenceDue (setCl State.reset 3 { uncorr := [(2, 1, 0), (2, 5, 0), (2, 9, 0), (2, 11, 0)] }) 3 2 = true ∧ quadDark (setCl State.reset 3 { addrErrs := [2, 2] }) 0 = false ∧ fenceDue (setCl State.reset 3 { addrErrs := [2] }) 3 2 = false := by decide +kernel
theorem test_ChipFaultsFirmwareAndRecorder_0 : ({ State.reset with lockAt := some 0 } : State).lockAt = some 0 ∧ now ({ State.reset with lockAt := some 0 } : State) - 0 ≤ psSec ∧ State.reset.lockAt = none := by decide +kernel
theorem test_ChipFaultsFirmwareAndRecorder_1 : (((addF State.reset PRM_HUB_ECC_CORR 0).hubFlits.filter fun t => decide (now State.reset - psSec < t)) ++ [now State.reset]).length < 16 ∧
   16 ≤ (((addF { State.reset with hubFlits := List.replicate 15 0 } PRM_HUB_ECC_CORR 0).hubFlits.filter fun t => decide (now State.reset - psSec < t)) ++ [now State.reset]).length := by decide +kernel
theorem test_ChipFaultsFirmwareAndRecorder_2 : isF State.reset PRM_FW_STAT_STATE = false ∧ isF State.reset PRM_FW_STAT_RUNNING ≠ true ∧ isF State.reset PRM_FW_STAT_RUNNING = false := by decide +kernel
theorem test_ChipFaultsFirmwareAndRecorder_3 : getF State.reset PRM_FW_STAT_STATE ≠ 1 ∧ getF fwVer PRM_FW_STAT_STATE = 1 ∧ fwVer.fw.target = some true ∧ (verifyImage fwVer true ⟨0, none⟩).2 = none ∧ getF fwCore PRM_FW_STAT_STATE = 2 ∧ inCycle fwCore (nextMultiple (ctPs fwCore) 1000000000) = true ∧ railRises fwCore = false ∧ fwCore.fw.changed ≠ some (nextMultiple (ctPs fwCore) 1000000000) ∧ fwCore.fw.cores < 4 := by decide +kernel
theorem test_ChipFaultsFirmwareAndRecorder_4 : State.reset.fw.watch = none ∧ (fwWatch 5).fw.watch = some 0 ∧ getF (fwWatch 5) PRM_FW_STAT_STATE = 3 ∧ now (fwWatch 5) ≤ 0 + psSec ∧ reached (fwWatch 5) (0 + psSec) = false ∧ reached (fwWatch 1001) (0 + psSec) = true ∧ 0 + psSec < now (fwWatch 1001) := by decide +kernel
theorem test_ChipFaultsFirmwareAndRecorder_5 : State.reset.frPend = [] ∧ ({ State.reset with frPend := [{ at_ := 0, level := 0, cls := 1 }] } : State).frPend = [{ at_ := 0, level := 0, cls := 1 }] ∧ (if (0 : Int) = secOf (now State.reset) then 1000 else 0) = 1000 := by decide +kernel
theorem test_OwnerRequestsAreChecked_0 : reqOp (reqState 1) = 1 ∧ reqOp (reqState 2) = 2 ∧ reqOp (reqState 7) = 7 ∧ reqOp State.reset ≠ 1 ∧ reqReason (reqState 7) 7 = none := by decide +kernel
theorem test_OwnerRequestsAreChecked_1 : reqReason (reqState 7) 7 = none ∧ reqReason enrolState 1 = none := by decide +kernel
theorem test_OwnerRequestsAreChecked_2 : testF State.reset FXG_POLICY_ACTIVE 0 = false ∧ testF State.reset FXG_POLICY_REVOKED 0 = false ∧ (∀ i < 8, testF (stF [(FXG_POLICY_ACTIVE, 255)]) FXG_POLICY_ACTIVE i = true) := by decide +kernel
theorem test_OwnerRequestsAreChecked_3 : andNot (getF State.reset FXG_POLICY_ACTIVE) (2 ^ (reqArg State.reset % 8)) = 0 ∧ andNot (getF (stF [(FXG_POLICY_ACTIVE, 3)]) FXG_POLICY_ACTIVE) (2 ^ (reqArg (stF [(FXG_POLICY_ACTIVE, 3)]) % 8)) ≠ 0 ∧ testF (stF [(FXG_POLICY_POLICY, 8)]) FXG_POLICY_POLICY 3 = true ∧ testF State.reset FXG_POLICY_POLICY 3 = false := by decide +kernel
theorem test_BootKeysAndSessions_0 : State.reset.boot.fw = false ∧ isF State.reset FXG_STAT_RECOVERY = false ∧ isF (stF [(FXG_STAT_RECOVERY, 1)]) FXG_STAT_RECOVERY = true := by decide +kernel
theorem test_BootKeysAndSessions_1 : (getDoe State.reset 2).busy = none ∧ (getDoe (doeState 0) 2).busy.isSome = true := by decide +kernel
theorem test_BootKeysAndSessions_2 : certChain State.reset 1 = none ∧ (certChain State.reset 0).isSome = true ∧ State.reset.fox.sessions < 4 ∧ 4 ≤ (doeState 4).fox.sessions := by decide +kernel
theorem test_BootKeysAndSessions_3 : (getDoe (doeState 0) 2).busy.isSome = true ∧ (getDoe State.reset 2).busy = none ∧ (doeState 0).fox.sessions = 0 ∧ 0 < (doeState 1).fox.sessions ∧ (getDoe (doeState 1) 2).busy.isSome = true := by decide +kernel
theorem test_BootKeysAndSessions_4 : (getDoe (doeState 1) 2).busy.isSome = true ∧ 0 < (doeState 1).fox.sessions ∧ ideInUse (doeState 1) false false 3 ≠ 1 ∧ ideInUse (ideState) false false 3 = 1 ∧ smGet (fun _ => ([] : List Byte)) (doeState 1).fox.ideKeys (2 * ideDir false false 3) = [] ∧ smGet (fun _ => ([] : List Byte)) ideState.fox.ideKeys (2 * ideDir false false 3) ≠ [] := by decide +kernel
theorem test_TamperDebugAndTheStore_0 : isF State.reset FXG_TAMPER_ARM = false ∧ isF (stF [(FXG_TAMPER_ARM, 1)]) FXG_TAMPER_ARM = true := by decide +kernel
theorem test_TamperDebugAndTheStore_1 : State.reset.fox.dbg = none ∧ (dbgState 2).fox.dbg = some ⟨1, 2⟩ ∧ reached (dbgState 2) (2 * psSec) = false ∧ reached (dbgState 0) (0 * psSec) = true := by decide +kernel
theorem test_TamperDebugAndTheStore_2 : isF State.reset FXG_DBG_ATTACH_EN = false ∧ debugTile State.reset = false ∧ debugTile (dbgState 2) = true ∧ isF (dbgState 2) FXG_DBG_ATTACH_EN = false ∧ isF (stF [(FXG_DBG_ATTACH_EN, 1)]) FXG_DBG_ATTACH_EN = true := by decide +kernel
theorem test_TamperDebugAndTheStore_3 : nvsOfs (nvsState 64) + nvsLen (nvsState 64) ≤ (targetRange (nvsState 64) (nvsTarget (nvsState 64))).2 ∧ targetWritable (nvsState 65) (nvsTarget (nvsState 65)) = true ∧ nvsOfs (nvsState 65) + nvsLen (nvsState 65) ≤ (targetRange (nvsState 65) (nvsTarget (nvsState 65))).2 ∧ targetWritable (nvsState 66) (nvsTarget (nvsState 66)) = false ∧ ¬ (nvsOfs (nvsState 0) + nvsLen (nvsState 0) ≤ (targetRange (nvsState 0) (nvsTarget (nvsState 0))).2) := by decide +kernel
theorem test_CountersAreClearedAndTheTestPort_0 : smWf regReset State.reset.regs = true := by decide +kernel
theorem test_TamperDebugAndTheStore_4 : ¬ (slotProtected State.reset 3 = true ∨ 3840 < bitsOf (0x00110000 : Word).toNat 0 12 + bitsOf (0x00110000 : Word).toNat 16 12 ∨ 3839 < bitsOf (0x00110000 : Word).toNat 0 12 ∨ slotOverlaps State.reset 3 0 17 = true) ∧ 3840 < bitsOf (0x00110EFF : Word).toNat 0 12 + bitsOf (0x00110EFF : Word).toNat 16 12 := by decide +kernel

theorem test_CycleAdvancesTime_2 : smWf (fun _ => ({} : Pin)) (setPin State.reset 3 { level := true }).pins = true := by decide +kernel
theorem test_PtpMessagesTakeEffect_12 : let s := stF [(LKS_CTL_ARM, 1), (LAN_CTL_MODE 3, 2), (LKS_BC_PORTS_PORT_EN, 8)]
  bcLane s 3 = true ∧ bcHears (stF [(LKS_CTL_ARM, 1), (LKS_SERVO_CTL_EN 0, 1)]) 0 ⟨.announce, true, true, false, 0, 0, 0, 0, 6, 1000, 0⟩ = false := by decide +kernel
theorem test_EventPinsTimestamp_8 : let s := setPin State.reset 3 { edge := some 0, undo := some { level := false, since := 0, edge := none, window := none, entry := some ⟨0, 1, true, false⟩, ovr := 0, lost := 0, src := {}, lostSrc := {} } }
  pinDetects (atDt s 0) 3 (now (atDt s 0)) = false ∧ (getPin s 3).undo.isSome = true ∧ smWf (fun _ => ({} : Pin)) s.pins = true ∧ (getPin (setPin State.reset 3 { edge := some 0 }) 3).undo = none := by decide +kernel
theorem test_EventPinsTimestamp_9 : isF State.reset (EVT_PIN_CTL_ARM 3) = false ∧ (getPin State.reset 3).window = none ∧ pinDetects (atDt State.reset 0) 3 (now (atDt State.reset 0)) = true := by decide +kernel
theorem test_DoorbellsAndRings_7 : (stF [(ADM_RING_CTL_EN 1 7, 1)]).linkHeld ≤ now (atDt (stF [(ADM_RING_CTL_EN 1 7, 1)]) 0) ∧ now (atDt { State.reset with linkHeld := 5 } 0) < ({ State.reset with linkHeld := 5 } : State).linkHeld ∧
  blockLive State.reset .adm 1 = true ∧ blockLive (stF [(PRM_Q_STAT_STATE 0, 2)]) .adm 0 = false := by decide +kernel
theorem test_SignalsAndItemsRecord_4 : let s := sigState (2 ^ 48 + 256) [(16384, 1)]
  (checkAddr s 0 (.ring 7) (nextEntry s 7) 32 true).toOption = some (2 ^ 60 + 1048576) ∧ inHost (2 ^ 60 + 1048576) = false ∧ (waitsFor s (2 ^ 60 + 1048576) 32 true).isSome = true ∧ s.recs = [] := by decide +kernel
theorem test_SignalsAndItemsRecord_5 : let s := sigState 256 []
  (checkAddr s 0 (.ring 7) (nextEntry s 7) 32 true).toOption.any (fun a => inHost a) = true ∧ s.linkHeld ≤ now s := by decide +kernel
theorem test_SignalsAndItemsRecord_6 : (sentRec.ring = (7 : Fin 256).val ∧ sentRec.sent = some (4096, [7]) ∧ ({ State.reset with recs := [sentRec] } : State).recs.find? (fun x => x.ring == 7) = some sentRec) ∧
  (getQuad State.reset 0).reinit = none ∧ blockLive State.reset .adm 0 = true := by decide +kernel
theorem test_SignalsAndItemsRecord_7 : EntryOpen (sigState (2 ^ 48 + 256) []) 7 (2 ^ 60 + 1048576) ∧ Canonical (sigState (2 ^ 48 + 256) []) := by unfold EntryOpen Canonical; decide +kernel
theorem test_JobsAreDecided_2 : (structural (raiseDelayViol jobState) 7 { closedJob with tasks := [] } 2000000).toOption.isNone = true ∧ (getRing State.reset 7).closed = [] ∧
  reached (setRing withPlan 7 { closed := [closedJob] }) (jobStamp (getRing (setRing withPlan 7 { closed := [closedJob] }) 7) closedJob + lDec 1 (coupledCi (setRing withPlan 7 { closed := [closedJob] }) 3)) = false := by decide +kernel
theorem test_JobsAreDecided_3 : let x := raiseDelayViol jobState
  let j := { closedJob with deadline := 0 }
  (structural x 7 j 2000000).toOption.isSome = true ∧ (fit (fitInput x 7 j planOk planOk.firstSlot 2000000) none).toOption.isNone = true := by decide +kernel
theorem test_JobsAreDecided_4 : let t := jobStamp (getRing lateState 7) lateJob + lDec 1 (coupledCi lateState 3)
  let f := fitInput (raiseDelayViol lateState) 7 lateJob planOk planOk.firstSlot t
  reached lateState t = true ∧ (structural (raiseDelayViol lateState) 7 lateJob t).toOption = some (planOk, planOk.firstSlot) ∧ capacity (raiseDelayViol lateState) planOk planOk.firstSlot lateJob t f.s0 = none ∧
  (fit f none).toOption.isSome = true ∧ (fit f (some t)).toOption.isNone = true := by decide +kernel
theorem test_JobsAreDecided_5 : (structural (raiseDelayViol lostState) 7 closedJob 2000000).toOption = some (planOk, planOk.firstSlot) ∧
  (capacity (raiseDelayViol lostState) planOk planOk.firstSlot closedJob 2000000 (fitInput (raiseDelayViol lostState) 7 closedJob planOk planOk.firstSlot 2000000).s0).isSome = true := by decide +kernel
theorem test_JobsAreDecided_6 : (structural (raiseDelayViol jobState) 7 { closedJob with tasks := [] } 2000000).toOption = none ∧ (findPlan (raiseDelayViol jobState) slot10 2000000 [planOk]).isSome = true := by decide +kernel
theorem test_TasksStartAndEnd_6 : EntryOpen (atDt doneDram 0) 0 (2 ^ 60 + 1048576) ∧ Canonical doneDram ∧ recordsToHost (atDt doneDram 0) 0 = false ∧ isRefusal (jobRec doneJob).outcome = false ∧
  (doneDram.jobs.find? fun j => j.recNode == 6) = some doneJob ∧ doneDram.recs = [] ∧ ({ doneJob with lost := true } : Job).lost = true := by unfold EntryOpen Canonical; decide +kernel
theorem test_DmaChannelsAct_6 : blockLive State.reset .dma 3 = true ∧ blockLive (stF [(DMA_CH_STAT_STATE 3 2, 2), (DMA_CH_STAT_ENTRY 3 2, 31)]) .dma 3 = true ∧ getF (stF [(DMA_CH_STAT_ENTRY 3 2, 31)]) (DMA_CH_STAT_ENTRY 3 2) = 31 ∧
  blockLive (stF [(PRM_Q_STAT_STATE 0, 2)]) .dma 3 = false ∧ State.reset.linkHeld ≤ now State.reset ∧ getF (stF [(DMA_CH_STAT_STATE 3 1, 4)]) (DMA_CH_STAT_STATE 3 1) = 4 := by decide +kernel
theorem test_MemoryIsScrubbedAndShared_6 : blockLive State.reset .mem 2 = true ∧ blockLive (stF [(PRM_Q_STAT_STATE 2, 2)]) .mem 2 = false ∧ State.reset.waits = [] ∧ State.reset.linkHeld ≤ now State.reset ∧
  now ({ State.reset with linkHeld := 5 } : State) < ({ State.reset with linkHeld := 5 } : State).linkHeld ∧ (heldLines (stF [(MEM_HDM_LOCKED 1, 1), (MEM_HDM_SIZE 1, 2)]) 1).length + 2 ≤ 262144 := by decide +kernel
theorem test_MemoryIsScrubbedAndShared_7 (n : Nat) : isF (fullFilter n) (MEM_HDM_LOCKED 0) = true ∧ quadDark (fullFilter n) 0 = false ∧ hdmRange (fullFilter n) 0 = (0, 2 * 2 ^ 28) :=
  (by decide +kernel : isF hdmBase (MEM_HDM_LOCKED 0) = true ∧ quadDark hdmBase 0 = false ∧ hdmRange hdmBase 0 = (0, 2 * 2 ^ 28))
theorem fullFilter_holds (n : Nat) (h : n < 2 ^ 32) : (heldLines (fullFilter n) 0).length = n ∧ sfGet (fullFilter n) 0 0 = 0 := by
  have k : ∀ l : List Nat, smGet (fun _ => 0) (l.map fun i => (i + 1, 1)) 0 = 0 := by intro l; induction l <;> simp_all [smGet]
  refine ⟨?_, k _⟩
  unfold heldLines fullFilter
  rw [List.filter_eq_self.2 (by simp; omega)]; simp
theorem test_MemoryIsScrubbedAndShared_8 : 262144 < (heldLines (fullFilter 262144) 0).length + (([0] : List Nat).filter fun l => sfGet (fullFilter 262144) 0 l == 0).length := by
  have h := fullFilter_holds 262144 (by decide)
  generalize fullFilter 262144 = s at h ⊢
  simp [h.1, h.2]
theorem test_CheckUnitsAndRingLinks_8 : blockLive State.reset .cvu 3 = true ∧ blockLive (stF [(PRM_Q_STAT_STATE 0, 2)]) .cvu 3 = false := by decide +kernel
theorem test_RegistersAreAccessed_3 : State.reset.linkHeld ≤ now State.reset ∧ now ({ State.reset with linkHeld := 5 } : State) < ({ State.reset with linkHeld := 5 } : State).linkHeld ∧
  (regAt lksBase).map (fun h => decide (h.spec.name ≠ .LAN_MQ_RX)) = some true := by decide +kernel

/-- A supply at 0 V is below every threshold over its error, and one at 10 kV below none: the two kinds of clause of O54 both have states that meet them, whatever the monitor's free error. -/
theorem below_zero (s : State) (r thr : Nat) (h : 0 < monitorMv s r) (ht : 5 < thr) : below s r 0 thr = true := by
  unfold below clampInt; rw [decide_eq_true_eq]; refine Int.mul_pos (by omega) ?_; split <;> (try split) <;> omega
theorem below_never (s : State) (r thr : Nat) (h : monitorMv s r ≤ 2000) (h5 : 5 < thr) (ht : thr < 1000) : below s r 10000000 thr = false := by
  unfold below clampInt; rw [decide_eq_false_iff_not]; intro h1
  generalize hk : ((thr : Int) + _) = k at h1
  have hk2 : k ≤ 1005 := by subst hk; split <;> (try split) <;> omega
  have := Int.mul_le_mul (Int.ofNat_le.2 h) hk2 (by subst hk; split <;> (try split) <;> omega) (by omega)
  omega
theorem test_ChipResetsSuppliesAndTemperature_4 : let s := State.reset
  let a := setF s PRM_MON_CTL_AUTO_STEP 1
  monitored s 3 = true ∧ monitored s 8 = true ∧ monitored s 9 = true ∧ monitored s 12 = true ∧ monitored a 8 = true ∧
  below s 3 0 940 = true ∧ below s 8 0 940 = true ∧ below a 8 0 940 = true ∧ below s 3 0 880 = true ∧ below s 9 0 880 = true ∧ below s 12 0 880 = true ∧
  below s 3 10000000 940 = false ∧ below s 8 10000000 880 = false ∧ isF s PRM_MON_CTL_AUTO_STEP = false ∧ isF a PRM_MON_CTL_AUTO_STEP = true ∧ (9 - 8) % 6 < 4 ∧ 4 ≤ (12 - 8) % 6 :=
  ⟨by decide +kernel, by decide +kernel, by decide +kernel, by decide +kernel, by decide +kernel, below_zero _ _ _ (by decide +kernel) (by decide), below_zero _ _ _ (by decide +kernel) (by decide),
    below_zero _ _ _ (by decide +kernel) (by decide), below_zero _ _ _ (by decide +kernel) (by decide), below_zero _ _ _ (by decide +kernel) (by decide), below_zero _ _ _ (by decide +kernel) (by decide),
    below_never _ _ _ (by decide +kernel) (by decide) (by decide), below_never _ _ _ (by decide +kernel) (by decide) (by decide), by decide +kernel, by decide +kernel, by decide, by decide⟩
theorem test_ChipResetsSuppliesAndTemperature_6 : let warn := fun (s : State) => refresh (setBitF s PRM_MON_WARN_WARN 8) 848
  let said := fun (s : State) => report (warn s) { at_ := now s, source := 848, level := 2, cls := 0x22, quad := 0, context := [(getR (warn s) PRM_MON_WARN).toNat] }
  isF (said State.reset) PRM_MON_CTL_AUTO_STEP = false ∧ isF (said (setF State.reset PRM_MON_CTL_AUTO_STEP 1)) PRM_MON_CTL_AUTO_STEP = true := by decide +kernel
theorem test_ChipResetsSuppliesAndTemperature_5 : Canonical State.reset ∧ getF State.reset (PRM_Q_STAT_STATE 1) ≠ 2 ∧ (getQuad State.reset 1).entering = none ∧ (getQuad State.reset 1).reinit = none ∧
  smGet (fun _ => none) (at_ { State.reset with hotSince := [(4, some 0)] } 5).hotSince 4 = some 0 ∧ reached (at_ { State.reset with hotSince := [(4, some 0)] } 5) 1000000000 = true ∧
  smGet (fun _ => none) ({ State.reset with hotSince := [(4, some 0)] }).hotSince 4 = some 0 ∧ reached { State.reset with hotSince := [(4, some 0)] } 1000000000 = false := by unfold Canonical; decide +kernel
theorem test_ChipFaultsFirmwareAndRecorder_6 : let c := fun (b : Bool) => { fwCore with fw := { fwCore.fw with cores := 4, back := b } }
  (∀ b, getF (c b) PRM_FW_STAT_STATE = 2 ∧ inCycle (c b) (nextMultiple (ctPs (c b)) 1000000000) = true ∧ railRises (c b) = false ∧ (c b).fw.changed ≠ some (nextMultiple (ctPs (c b)) 1000000000) ∧
    (c b).fw.cores = 4 ∧ (c b).fw.target = some true ∧ (c b).fw.back = b) ∧
  getF (setF State.reset PRM_FW_STAT_STATE 1) PRM_FW_STAT_STATE = 1 ∧ (setF State.reset PRM_FW_STAT_STATE 1).fw.target = none ∧ getF State.reset PRM_FW_STAT_STATE ≠ 2 ∧
  inCycle { fwCore with ct := CT.ofUnits (1500000 * 2 ^ 40) } (nextMultiple (ctPs { fwCore with ct := CT.ofUnits (1500000 * 2 ^ 40) }) 1000000000) = false := by decide +kernel
theorem test_ChipFaultsFirmwareAndRecorder_7 : ¬ (∃ t, ({ State.reset with lockAt := some (-2 * psSec) } : State).lockAt = some t ∧ now ({ State.reset with lockAt := some (-2 * psSec) } : State) - t ≤ psSec) ∧
  ({ State.reset with frPend := [{ at_ := 0, level := 0, cls := 1 }], frSecond := secOf (now State.reset), frCount := 1000 } : State).frSecond = secOf (now State.reset) ∧
  isF (stF [(PRM_FW_STAT_STATE, 1)]) PRM_FW_STAT_STATE = true ∧ getF State.reset PRM_FW_STAT_STATE ≠ 3 := by
  refine ⟨?_, by decide +kernel, by decide +kernel, by decide +kernel⟩
  rintro ⟨t, h, h2⟩; cases h; revert h2; decide +kernel
theorem test_CommandWordsAct_11 : cwf ⟨2, 0, 0, false⟩ 4 0 3 ≤ 5 ∧ jobLastSym (took (withJob 2)) 7 = 13 := by decide +kernel
theorem test_InterruptSourcesSendMessages_5 : let s := setF (setInt (intState true) 769 { lastMsg := some 0, lastDue := 0 }) (INT_SRC_CFG_VECTOR 769) (getF (intState true) (INT_SRC_CFG_VECTOR 768))
  (intState true).linkHeld ≤ now (atDt (intState true) 0) ∧ now (atDt { intState true with linkHeld := 5 } 0) < ({ intState true with linkHeld := 5 } : State).linkHeld ∧
  sentTogether (atDt s 0) 768 = true := by decide +kernel
theorem test_InterruptSourcesSendMessages_6 : let s := at_ ackState 20
  (getInt s 816).since / 1000 ≠ now s / 1000 ∧ ((getInt s 816).since + getF s (INT_SRC_CFG_STUCK_MS 816) * 1000000000) / 1000 < now (atDt s 0) / 1000 ∧
  ¬ ((getInt ackState 816).since / 1000 ≠ now ackState / 1000) ∧ ¬ (((getInt ackState 816).since + getF ackState (INT_SRC_CFG_STUCK_MS 816) * 1000000000) / 1000 < now (atDt ackState 0) / 1000) := by decide +kernel
theorem test_TheHostPortFollowsItsLink_7 : hdmState.linkHeld ≤ now hdmState ∧ (2 * 2 ^ 28 = getF hdmState (MEM_HDM_SIZE 1) * 2 ^ 28) ∧ getF hdmState (MEM_HDM_SIZE 1) ≠ 0 ∧ getF State.reset (MEM_HDM_SIZE 1) = 0 ∧
  smWf (fun _ => ({} : HdmDec)) hdmState.hdm = true ∧ smWf regReset hdmState.regs = true ∧ now ({ hdmState with linkHeld := 5 } : State) < ({ hdmState with linkHeld := 5 } : State).linkHeld ∧
  (16384 < 16385 ∧ 100 ≤ 16384) := by decide +kernel
theorem test_TddGroupsDriveRampsAndPins_3 : let p := stF [(TDD_GRP_CFG_PENDING 3, 1)]
  isF p (TDD_GRP_CFG_PENDING 3) = true ∧ reached p (smGet (fun _ => 0) p.tddDue 3) = true ∧ reached { p with tddDue := [(3, 20000000000)] } (smGet (fun _ => 0) ({ p with tddDue := [(3, 20000000000)] } : State).tddDue 3) = false ∧
  isF State.reset (TDD_GRP_CFG_PENDING 3) = false := by decide +kernel
theorem test_TddGroupsDriveRampsAndPins_4 :
  ((rampWhen tddState 3 true 10000000000).map fun x => decide (now tddState + 20000000 ≤ x.2.1)) = some true ∧ smGet (fun _ => none) tddState.rampSent 7 = none ∧
  ((rampWhen (at_ tddState 10) 3 true 10000000000).map fun x => decide (x.2.1 < now (at_ tddState 10) + 20000000)) = some true ∧
  (smGet (fun _ => none) ({ tddState with rampSent := [(7, some 10000000000)] } : State).rampSent (2 * 3 + ofBool true) = some 10000000000 ∧ (10000000000 : Int) ≤ 10000000000) := by decide +kernel
theorem test_SampleGroupsMoveOverTheRadioLink_4 : let a := groupSpan 90 (lanePeriod radState 0) (dTx radState 0 0 0)
  let b := groupSpan 9 (lanePeriod radState 0) (dTx radState 0 0 0)
  (areaOf radState 0 0 a.1 a.2).isSome = true ∧ (areaOf radState 0 0 b.1 b.2).isSome = true ∧
  laneRadio frmState 0 = true ∧ laneIsUp frmState 0 = true ∧ laneSlots frmState 0 ≠ [] ∧ getF frmState (PRM_Q_STAT_STATE 0) ≠ 1 ∧ (getLane frmState 0).framesFrom ≤ airTime 0 (lanePeriod frmState 0) ∧ inCycle frmState (airTime 0 (lanePeriod frmState 0)) = true := by decide +kernel
theorem test_SampleGroupsMoveOverTheRadioLink_5 : let s := setF frmState (LAN_STAT_BLOCK_LOCK 0) 1
  let run := fun (n : Nat) (v : Nat) => ({ dt := 0, blocks := (List.range n).map fun i => ⟨1, BitVec.ofNat 64 (if i = 5 then 2 ^ 44 * v else 0), false⟩, errs := [] } : OrlFrame)
  let seqs := fun (v : Nat) => (List.range 1).map fun i => bitsOf (groupOf 1 i (((run 6 v).blocks.take 6).map (·.payload.toNat))) 364 8
  laneLive s 0 = true ∧ laneRadio s 0 = true ∧ isF s (LAN_STAT_BLOCK_LOCK 0) = true ∧ takesRuns (noteHeaders (atDt s 0) 0 (run 6 0).blocks) 0 = true ∧ (laneSlots s 0).length = 1 ∧
  (frameGroup (now (atDt s 0)) (lanePeriod s 0) (seqs 0)).isSome = true ∧ frameGroup (now (atDt s 0)) (lanePeriod s 0) (seqs 9) = none ∧ (run 5 0).blocks.length < 6 ∧ (run 7 0).blocks.length < 2 * 6 ∧
  laneLive State.reset 0 = false ∧ isF frmState (LAN_STAT_BLOCK_LOCK 0) = false ∧ takesRuns (noteHeaders (atDt (setF s (LAN_STAT_STATE 0) 1) 0) 0 (run 6 0).blocks) 0 = false := by decide +kernel
theorem test_SampleGroupsMoveOverTheRadioLink_6 : portLane frmState 0 (gangFirst frmState 0 0) = some 0 ∧ rxGroup { frmState with rxGroups := [(groupKey 0 0, some true)] } 0 0 ≠ none ∧ reached frmState (airTime 5 (lanePeriod frmState 0)) = false := by decide +kernel
theorem test_CapturesAndRandomAccess_5 : let slot := firstSlotAt 1 (ciOfs obsState 3) (now obsState) + 10
  portLane obsState 0 0 = some 0 ∧ ((List.range 4).find? fun i => lanePort obsState 0 i == some 0) = some 0 ∧
  observed obsState 0 slot = true ∧ laneIsUp obsState 0 = true ∧ leavesBy obsState 0 svcObsReq + 20000000 ≤ (obsSymbol obsState 0 0 slot).1 ∧ ((getCaptures obsState 0).any fun c => c.slot == slot) = false ∧
  observed frmState 0 slot = false := by decide +kernel
theorem test_CapturesAndRandomAccess_6 : let blk := fun (v : Nat) => (List.range 6).map fun i => (⟨1, BitVec.ofNat 64 (v / 2 ^ (64 * i)), false⟩ : OrlBlock)
  let v := fun (w : Nat) => (((blk w).take 6).zip (List.range 6)).foldl (fun a b => a + b.1.payload.toNat * 2 ^ (64 * b.2)) 0
  takesRuns capState 0 = true ∧ lanePort (noteHeaders capState 0 (blk 0)) 0 (bitsOf 0 0 2) = some 0 ∧
  (getCaptures capState 0).find? (fun x => decide (0 < x.len) && bitsOf 0 24 32 == unsignedOf 32 (x.first + (0 : Nat)) && decide (now capState ≤ x.due)) = some { first := 0, len := 2, slot := 4, due := 50000000 } ∧
  6 ≤ (blk 0).length ∧ (blk 0).length < 6 + 6 * (laneSlots capState 0).length ∧ ((blk (groupBits 0 0 0)).take 6).any blockErrored = false ∧
  groupGood 0 0 (v (groupBits 0 0 0)) = true ∧ groupGood 0 0 (v (groupBits 0 0 0 + 2 ^ 376)) = false ∧ takesRuns State.reset 0 = false ∧ ([] : List OrlBlock).length < 6 := by decide +kernel
theorem test_CapturesAndRandomAccess_7 : let late := fun (c : Capture) => !captureDone c && reached (at_ capState 1) c.due
  (getCaptures (at_ capState 1) 0).find? late = some { first := 0, len := 2, slot := 4, due := 50000000 } ∧
  (getCaptures (setCaptures capState 0 [{ first := 0, len := 1, slot := 4, due := 50000000, got := [(0, 1)] }]) 0).find? captureDone = some { first := 0, len := 1, slot := 4, due := 50000000, got := [(0, 1)] } := by decide +kernel
theorem test_LanesComeUpAndGoDown_7 : let p := fun n => setLane trainState 0 { getLane trainState 0 with goodCw := n }
  let e := stF [(LAN_CTL_MODE 0, 5), (LAN_STAT_STATE 0, 1), (LAN_CTL_EN 0, 1), (LAN_STAT_BLOCK_LOCK 0, 1)]
  laneTraining (p 3) 0 = true ∧ laneFec (p 3) 0 = true ∧ isF (p 3) (LAN_STAT_BLOCK_LOCK 0) = true ∧ (laneOrl (p 3) 0 = true → 3 ≤ (getLane (p 3) 0).goodCw) ∧ getF (p 3) (LAN_CTL_MODE 0) ≠ 4 ∧
  laneOrl (p 2) 0 = true ∧ ¬ (3 ≤ (getLane (p 2) 0).goodCw) ∧ getF (grp4 1) (LAN_CTL_MODE 0) = 4 ∧ laneOrl (grp4 1) 0 = false ∧ laneTraining (grp4 1) 0 = true ∧ laneFec (grp4 1) 0 = true ∧ isF (grp4 1) (LAN_STAT_BLOCK_LOCK 0) = true ∧
  laneTraining e 0 = true := by decide +kernel
theorem test_LanesComeUpAndGoDown_8 : laneTraining (grp4 1) 0 = true ∧ getF (grp4 1) (LAN_CTL_MODE 0) = 4 ∧ (∀ m ∈ ethGroup 0, isF (grp4 1) (LAN_CTL_EN m) = true ∧ getF (grp4 1) (LAN_CTL_MODE m) = 4 ∧ lanePassed (grp4 1) m = true) ∧
  lanePassed (setF (grp4 1) (LAN_CTL_EN 2) 0) 0 = true ∧ (∃ m ∈ ethGroup 0, isF (setF (grp4 1) (LAN_CTL_EN 2) 0) (LAN_CTL_EN m) = false) ∧
  quadDark (grp4 2) 0 = false ∧ isF (grp4 2) (LAN_CTL_EN 0) = true ∧ getF (grp4 2) (LAN_CTL_MODE 0) = 4 ∧ getF frmState (LAN_CTL_MODE 0) ≠ 4 ∧ getF trainState (LAN_CTL_MODE 0) ≠ 4 ∧ lanePassed trainState 0 = false := by decide +kernel
theorem test_LanesComeUpAndGoDown_9 : (16 ≤ (getLane (upLane fun h => { h with badHdr := List.replicate 16 0 }) 0).badHdr.length ∧ getF (upLane id) (LAN_STAT_STATE 0) = 2 ∧ laneRadio (upLane id) 0 = true) ∧
  (reached (at_ (upLane id) 5) ((getLane (at_ (upLane id) 5) 0).lastMark + (ceilDiv (49152 * (if laneFec (at_ (upLane id) 5) 0 then 70 else 66) * 1000000000000) (lineRate (at_ (upLane id) 5) 0) : Nat)) = true) ∧
  isF (setF (upLane id) (LAN_STAT_PEER_ERR 0) 1) (LAN_STAT_PEER_ERR 0) = true ∧ (laneFec (upLane id) 0 = true ∧ 64 < (getLane (upLane fun h => { h with uncAt := List.replicate 65 0 }) 0).uncAt.length) ∧
  laneRadio (grp4 2) 0 = false ∧ getF (grp4 2) (LAN_STAT_STATE 0) = 2 ∧ isF (upLane id) (LAN_STAT_PEER_ERR 0) = false ∧ ¬ (16 ≤ (getLane (upLane id) 0).badHdr.length) := by decide +kernel
theorem test_LanesComeUpAndGoDown_10 : (∃ s : State, getF s (LAN_STAT_STATE 15) = 3 ∧ coversLane s 15 0 = true ∧ getTrig s 0 = none ∧ quadDark s 0 = false ∧ isSpare s 15 = true) :=
  ⟨stF [(LAN_CTL_MODE 0, 0), (LAN_CTL_EN 0, 1), (LAN_STAT_STATE 0, 2), (LAN_CTL_EN 15, 1), (LAN_STAT_STATE 15, 3), (LAN_CTL_FEC 15, 1), (LAN_CTL_SPARE 15, 1), (LAN_SPARE_COVERS 15, 1)], by decide +kernel⟩
theorem test_LanesComeUpAndGoDown_11 : let s := setR frmState (LAN_PORTS 1) 0x80
  quadDark s 0 = false ∧ isF s (LAN_CTL_EN 1) = false ∧ (!wouldSpare s 1 && mappedElsewhere s 1 (withGang (min 9 (getF s (LAN_RATE_RATE 1))) (writtenSlots s 1))) = true ∧ laneOrl s 1 = true ∧
  (laneRadio s 1 && !wouldSpare s 1) = true := by decide +kernel
theorem test_LanesCarryMarkersAndMessages_6 : let bits := fun (m : List MarkBlock) => (m.zip (List.range 4)).foldl (fun a x => a + x.1.payload.toNat / 2 ^ 8 * 2 ^ (56 * x.2)) 0
  let g := mks (mkBits 0 7) false
  ((laneLive mkState 0 = true ∧ laneRadio mkState 0 = true ∧ isF mkState (LAN_STAT_BLOCK_LOCK 0) = true ∧ isF mkState (LAN_STAT_FEC_LOCK 0) = true) ∧
  ((g.map fun x => x.payload.toNat % 2 ^ 8) = [0x78, 0x79, 0x7A, 0x7B] ∧ (∀ x ∈ g, x.errored = false ∧ x.after ≤ 2048) ∧ bitOf (bits g) 6 = 1 ∧ bitsOf (bits g) 184 16 = markerCrc (bits g % 2 ^ 184)) ∧
  ((getLane mkState 0).markers.find? fun m => m.1 == bitsOf (bits g) 96 16) = some (7, 0) ∧ ((getLane frmState 0).markers.find? fun m => m.1 == bitsOf (bits g) 96 16) = none) ∧
  ¬ (∀ x ∈ mks (mkBits 0 7) true, x.errored = false) ∧ isF frmState (LAN_STAT_BLOCK_LOCK 0) = false ∧ (mks 0 false).length = 4 := by decide +kernel
theorem test_LanesCarryMarkersAndMessages_7 : let h := getLane frmState 0
  smWf (fun _ => ({} : LaneHw)) frmState.laneHw = true ∧ 16384 * h.nextMk ≤ h.blocks ∧ h.blocks < 16384 * (h.nextMk + 1) ∧
  (let g := getLane (servePositions frmState 0 1) 0
   g.blocks < 16384 * g.nextMk ∧ g.svc.length = 3 ∧ (getLane (servePositions frmState 0 4) 0).svc = [] ∧ (getLane (servePositions frmState 0 4) 0).blocks + 5 ≤ 16384 * (getLane (servePositions frmState 0 4) 0).nextMk) ∧
  sendsFrames (atDt frmState 0) 0 = true ∧ sendsFrames (atDt trainState 0) 0 = false ∧ (laneLive State.reset 0 = false ∨ laneRadio State.reset 0 = false) := by decide +kernel
theorem test_LanesCarryMarkersAndMessages_8 : let s := setLane State.reset 0 { getLane State.reset 0 with rtts := List.replicate 255 5 }
  256 ≤ (((5 : Int) :: (getLane s 0).rtts).take 256).length ∧ (getLane s 0).rttUsed = none ∧ (getLane (setLane s 0 { getLane s 0 with rttUsed := some 9 }) 0).rttUsed = some 9 := by decide +kernel
theorem test_EthernetLanesHandleFrames_6 : let s := setF (stF [(LAN_CTL_MODE 0, 5), (LAN_FWD_HI_EN 0 2, 1)]) LKS_CTL_ARM 1
  let f := List.replicate 12 0 ++ beBytes 2 0x88F7 ++ [0, 2] ++ beBytes 2 34 ++ [BitVec.ofNat 8 (getF s (LKS_SERVO_CTL_DOMAIN 0))] ++ List.replicate 43 (0 : Byte)
  fwdEntry s 0 (beAt f 0 6) = some 2 ∧ ptpOffset (isF s (LAN_ETH_VLAN_EN 0)) f = some 14 ∧ isF s LKS_CTL_ARM = true ∧ ptpInvalid s (ptpFormed f 14) true (beAt f 18 1) = false ∧ ptpInvalid s (ptpFormed f 14) false (beAt f 18 1) = true ∧
  isF (stF [(LAN_CTL_MODE 0, 5), (LAN_FWD_HI_EN 0 2, 1)]) LKS_CTL_ARM = false ∧ ptpOffset (isF s (LAN_ETH_VLAN_EN 0)) (ethFrame 0x1234 0) = none := by decide +kernel
theorem test_EthernetLanesHandleFrames_7 : let s := ethState
  fwdEntry s 0 0 = none ∧ (ptpOffset false (ethFrame 0x88F7 0)).isSome = true ∧ ¬ ((ptpOffset false (ethFrame 0x1234 0)).isSome = true) ∧ beAt (ethFrame 0x1234 0) 12 2 ≠ 0xAEFE ∧ isF s (LAN_ETH_MQ_OTHER 0) = false ∧
  isF (setF s (LAN_ETH_MQ_OTHER 0) 1) (LAN_ETH_MQ_OTHER 0) = true ∧ beAt (ethFrame 0x1234 0) 0 6 = getF s (LAN_MAC_LO_MAC_LO 0) + 2 ^ 32 * getF s (LAN_MAC_HI_MAC_HI 0) ∧
  beAt ((List.replicate 12 0 ++ beBytes 2 0x8809 ++ [0x0A] ++ List.replicate 44 (0 : Byte)).drop 14) 0 1 = 0x0A ∧ uEnts upState 0 upMsg ≠ [] := by decide +kernel
theorem test_EthernetLanesHandleFrames_8 : bitsOf (beAt (ethFrame 0x88F7 0) 14 1) 0 4 ≤ 3 ∧ 3 < bitsOf (beAt ((ethFrame 0x88F7 0).set 14 9) 14 1) 0 4 ∧ psSec / 1000 < now (atDt (at_ fwdState 5) 0) - 0 ∧ ethUp (setF fwdState (LAN_STAT_STATE 0) 1) 0 = false := by decide +kernel
theorem test_EthernetLanesHandleFrames_9 : (uAhead 3 0).any (fun d => decide (0 ≤ d)) = true ∧ (uAhead 3 2000).any (fun d => decide (d < 0)) = true ∧ (uAhead 20 0).isSome = true ∧ lastSym 1 < 20 := by decide +kernel
theorem test_ScrubbersCorrectAndCheckEachOther_4 : let s := scrState
  let hits : List (List ScrHit) := [[⟨0, 1, 5⟩], [⟨2, 3, 1⟩]]
  let s0 := hits.foldl (scrVote 1) s
  let bad : List (Fin 16 × SymErr) := [(2, ⟨3, 1⟩), (2, ⟨4, 7⟩), (2, ⟨5, 9⟩), (2, ⟨9, 100⟩), (2, ⟨11, 33⟩)]
  quadDark s 1 = false ∧ nextFrame s0 1 (getScr s0 1).pos = some 40960 ∧ scrRuns s0 1 = true ∧ (getScr s0 1).repair = none ∧
  ((frameOutcomes bad).any fun o => o.1 == .uncorrectable || o.1 == .address) = true ∧ isF s0 (SCR_CTL_REPAIR_EN 1) = true ∧ isF (setF s0 (SCR_CTL_REPAIR_EN 1) 0) (SCR_CTL_REPAIR_EN 1) = false ∧
  ((frameOutcomes [(2, ⟨3, 1⟩)]).any fun o => o.1 == .uncorrectable || o.1 == .address) = false ∧ ((frameOutcomes [(2, ⟨3, 1⟩)]).all fun o => o.1 == .clean) = false := by decide +kernel
theorem test_ScrubbersCorrectAndCheckEachOther_5 : hitCopy (scrCtl scrState 1) 0 [⟨0, 1, 5⟩] ≠ scrCtl scrState 1 ∧ hitCopy (scrCtl scrState 1) 0 [⟨0, 1, 0⟩] = scrCtl scrState 1 ∧
  nextFrame State.reset 1 (getScr State.reset 1).pos = none ∧ (getScr repState 1).repair.isSome = true ∧ scrRuns (stF [(SCR_STAT_HALTED 1, 1)]) 1 = false := by decide +kernel
theorem test_ScrubbersCorrectAndCheckEachOther_6 : let alone := at_ (stF [(PRM_Q_STAT_STATE 0, 2), (PRM_Q_STAT_STATE 2, 2), (PRM_Q_STAT_STATE 3, 2)]) 10
  checkDue chkState 1 = true ∧ quadDark chkState 1 = false ∧ nbrTarget chkState 1 = some 2 ∧ checkDue alone 1 = true ∧ quadDark alone 1 = false ∧ nbrTarget alone 1 = none ∧ checkDue State.reset 1 = false ∧
  checkDue (setScr State.reset 4 { checkDue := true }) 4 = true ∧ (recordFor repState 2 40960 ⟨0, none⟩).isSome = false ∧ quadDark scrState 1 = false := by decide +kernel
theorem test_RailsAndOperatingPoints_4 : statusFault (0x8000 : BitVec 16).toNat = true ∧ statusFault (0x0840 : BitVec 16).toNat = false ∧ getF (stF [(PRM_PMB_CMD_CODE, 0x79)]) PRM_PMB_CMD_CODE = 0x79 ∧
  isF (stF [(PRM_PMB_CMD_CODE, 0x79)]) PRM_PMB_CMD_WRITE = false ∧ ¬ (getF State.reset PRM_PMB_CMD_CODE = 0x79) := by decide +kernel
theorem test_ClustersSleepAndWake_6 : let e := fun (st : Nat) => usAt (setCl (stF [(PWR_CL_STAT_STATE 3, 4)]) 3 { entering := some (st, 0) }) 5
  (getCl (e 3) 3).entering = some (3, 0) ∧ getF (e 3) (PWR_CL_STAT_STATE 3) = 4 ∧ reached (e 3) 2000000 = true ∧ reached (e 1) 8000 = true ∧
  (let s2 := retarget (sleepRaises (setCl (setF (e 3) (PWR_CL_STAT_STATE 3) 3) 3 { getCl (e 3) 3 with entering := none }) 3) 0
   levelWake s2 3 = false ∧ isF s2 (PWR_CL_CTL_LOCK 3) = false) ∧ reached (setCl State.reset 3 { entering := some (2, 0) }) 500000 = false := by decide +kernel
theorem test_ClustersSleepAndWake_7 : let s := nodeAt { aNode with need := 500000 }
  quadDark s 0 = false ∧ getF s (PWR_CL_STAT_STATE 0) ≤ 1 ∧ clusterIdle s 0 = true ∧ levelWake s 0 = false ∧ deepest s 0 = none := by decide +kernel
theorem test_ClustersSleepAndWake_8 : quadDark (entState 0) 0 = false ∧ entryFinal (entState 0) 3 = true ∧ entryFinal (setCl (stF [(PWR_CL_STAT_STATE 3, 4)]) 3 { entering := some (2, 0) }) 3 = false ∧
  (getCl State.reset 3).wake = none ∧ getF State.reset (PWR_CL_STAT_STATE 3) ≠ 6 ∧ (getCl (setCl State.reset 3 { wake := some 0, asleep := 2 }) 3).wake = some 0 := by decide +kernel
theorem test_QuadrantsSleepBootAndReset_6 : (getQuad (at_ (setQuad (stF [(CXL_LINK_STAT_RATE, 6)]) 1 { records := [{ aJob with lost := true }] }) 5) 1).records = { aJob with lost := true } :: [] ∧ ({ aJob with lost := true } : Job).lost = true ∧
  (getQuad (setQuad State.reset 1 { booting := some 0 }) 1).booting = some 0 ∧ reached (at_ State.reset 60) (0 + 50000000000) = true ∧ getF (stF [(PRM_Q_STAT_STATE 1, 3)]) (PRM_Q_STAT_STATE 1) = 3 ∧ (getQuad (stF [(PRM_Q_STAT_STATE 1, 3)]) 1).toOff = false := by decide +kernel
theorem test_QuadrantsSleepBootAndReset_7 : EntryOpen (sigState (2 ^ 48 + 256) []) 7 (2 ^ 60 + 1048576) ∧ Canonical (sigState (2 ^ 48 + 256) []) ∧ isRefusal 0 = false ∧ (-5 : Int) < now (sigState (2 ^ 48 + 256) []) := by
  unfold EntryOpen Canonical; decide +kernel
theorem test_FailingTilesEnginesAndBanks_6 : let a := setHw redoState 5 { redo := some (5, 0), spareFor := some 5, stopped := true }
  let h := fun (s : State) => setHw s 5 { getHw s 5 with redo := none }
  spareTile (h a) 0 = some 8 ∧ (getCl (h a) 0).spareTakes = none ∧ (getTile (h a) 8).running = false ∧ ((findNode (h a) 5).isSome = true) ∧
  (let s2 := spareServes (h a) 5 5; let s3 := setCl s2 0 { getCl s2 0 with spareTakes := some 5 }; (findNode s3 5).isSome = true) ∧
  (getCl (h (setCl a 0 { getCl a 0 with spareTakes := some 2 })) 0).spareTakes.isSome = true ∧ (getTile (h (setTile a 8 tile0)) 8).running = true ∧
  spareTile (h (setCl a 0 { getCl a 0 with spare := none })) 0 = none ∧ versionGone (h a) { aNode with ver := some 77 } = true ∧ versionGone { State.reset with progs := [{ id := 7, cluster := 0, tile := 5, prog := 2, unit := 0, units := 1, image := [], state := .active, swap := none }] } { aNode with res := 5, ver := some 7 } = false := by decide +kernel
theorem test_FailingTilesEnginesAndBanks_7 : let a := setHw redoState 5 { redo := some (5, 0), stopped := true }
  (getHw a 5).spareFor = none ∧ physOf a 0 2 = some 2 ∧ (getTile a 2).running = false ∧ (getTile (setTile a 2 tile0) 2).running = true ∧ physOf (setTilemap a 0 2 15) 0 2 = none ∧
  (getCl redoState 0).spare.isSome = true ∧ (getCl redoState 0).spareTakes = none ∧ spareAwaited redoState 5 = false ∧ (planBySeq redoState redoJob.planSeq).isSome = true ∧
  (getHw (atDt (setHw State.reset 5 { stopped := true }) 0) 5).stopped = true := by decide +kernel
theorem test_FailingTilesEnginesAndBanks_8 : let s := bmeState
  bitOf (getCl (atDt s 0) 0).lostEng 1 ≠ 1 ∧ (runningNode (atDt s 0) 0 9).isSome = true ∧ bitOf (getCl (setCl s 0 { getCl s 0 with lostEng := 2 }) 0).lostEng 1 = 1 ∧ quadDark (stF [(PRM_Q_STAT_STATE 0, 2)]) 0 = true := by decide +kernel
theorem test_CountersAreClearedAndTheTestPort_1 : blockLive State.reset .dte 3 = true ∧ blockLive State.reset .cde 3 = true ∧ blockLive State.reset .cee 3 = true ∧
  (let s := stF [(PRM_Q_STAT_STATE 0, 2)]; blockLive s .dte 3 = false ∧ blockLive s .cde 3 = false ∧ blockLive s .cee 3 = false) := by decide +kernel

end Sys2Proof.Tests
end

/-! ## Reserved addresses of BAR0 (spec/01_hierarchy.md R42) -/

namespace Sys2Proof.Machine

/-- Neither a window nor a register lies at BAR0 offset a: what R42 calls reserved. -/
def Reserved (a : Nat) : Prop := windowAt a = none ∧ regAt a = none

theorem readWord_reserved (s : State) {a : Nat} (h : Reserved a) : readWord s a = (0, s) := by
  obtain ⟨hwindow, hreg⟩ := h
  unfold readWord
  rw [hwindow, hreg]

theorem writeWord_reserved (s : State) {a : Nat} (v : Nat) (h : Reserved a) : writeWord s a v = s := by
  obtain ⟨hwindow, hreg⟩ := h
  unfold writeWord
  rw [hwindow, hreg]

/-- Each way of the byte enables leaves a reserved word alone: all set, none set, and the partly covered word, which is counted only where something lies (R431). -/
theorem writeEnabled_reserved (s : State) {a : Nat} (v be : Nat) (h : Reserved a) : writeEnabled s a v be = s := by
  have huncounted : ¬ ((windowAt a).isSome ∨ (regAt a).isSome) := by simp [h.1, h.2]
  unfold writeEnabled
  rw [if_neg huncounted, ite_self, writeWord_reserved s v h, ite_self]

theorem leBytes_zero (n : Nat) : leBytes n 0 = List.replicate n 0 := by
  induction n with
  | zero => rfl
  | succ n ih =>
    show 0 :: leBytes n (0 / 256) = _
    rw [Nat.zero_div, ih, List.replicate_succ]

theorem readWords_succ (s : State) (a n : Nat) : readWords s a (n + 1) =
    (leBytes 4 (readWord s a).1 ++ (readWords (readWord s a).2 (a + 4) n).1, (readWords (readWord s a).2 (a + 4) n).2) := by
  rfl

theorem readWords_reserved (s : State) (a n : Nat) (h : ∀ i < n, Reserved (a + 4 * i)) :
    readWords s a n = (List.replicate (4 * n) 0, s) := by
  induction n generalizing a with
  | zero => rfl
  | succ n ih =>
    have hrest : readWords s (a + 4) n = (List.replicate (4 * n) 0, s) :=
      ih (a + 4) fun i hi => by
        rw [show a + 4 + 4 * i = a + 4 * (i + 1) by omega]
        exact h (i + 1) (by omega)
    have hfirst : Reserved a := h 0 n.succ_pos
    rw [readWords_succ, readWord_reserved s hfirst, hrest, leBytes_zero, List.replicate_append_replicate,
      show 4 + 4 * n = 4 * (n + 1) by omega]

/-- A write of up to 64 bits reaches two words, so both must be reserved. -/
theorem registerWrite_reserved {s : State} {addr : BitVec 27} (data : DWord) (be : BitVec 8)
    (hlow : Reserved (addr.toNat / 4 * 4)) (hhigh : Reserved (addr.toNat / 4 * 4 + 4)) :
    exec (.registerWrite addr data be) s = .next s := by
  show execRegisterWrite addr data be s = _
  simp only [execRegisterWrite, writeEnabled_reserved _ _ _ hlow, writeEnabled_reserved _ _ _ hhigh, ite_self]

/-- A read of len bytes covers the words that begin below its last byte. -/
theorem barRead_reserved {s : State} {addr : BitVec 27} {len : Nat} (hlink : s.linkHeld ≤ now s)
    (h : ∀ i, 4 * i < addr.toNat % 4 + len → Reserved (addr.toNat / 4 * 4 + 4 * i)) :
    exec (.barRead false addr len) s = .next (emit s (.readData (List.replicate len 0) false)) := by
  have haligned : addr.toNat - addr.toNat % 4 = addr.toNat / 4 * 4 := by omega
  have hwords := readWords_reserved s (addr.toNat / 4 * 4) ((addr.toNat % 4 + len + 3) / 4)
    fun i hi => h i (by omega)
  have hcovered : min len (4 * ((addr.toNat % 4 + len + 3) / 4) - addr.toNat % 4) = len := by omega
  show execBarRead false addr len s = _
  simp only [execBarRead, if_neg (not_lt.mpr hlink), Bool.false_eq_true, if_false, haligned, hwords,
    List.drop_replicate, List.take_replicate, hcovered]

theorem pxRegisterWrite_reserved {s : State} {addr : BitVec 27} (p : Fin 2) (v : Word)
    (h : Reserved (addr.toNat / 4 * 4)) : exec (.pxRegisterAccess p addr (some v)) s = .next s :=
  congrArg Host.Outcome.next (writeWord_reserved s v.toNat h)

theorem exec_pxRegisterRead (s : State) (p : Fin 2) (addr : BitVec 27) :
    exec (.pxRegisterAccess p addr none) s = .next (emit (readWord s (addr.toNat / 4 * 4)).2
      (.toDesign (16 + p.val) (leBytes 4 (readWord s (addr.toNat / 4 * 4)).1) false)) := by
  rfl

theorem pxRegisterRead_reserved {s : State} {addr : BitVec 27} (p : Fin 2) (h : Reserved (addr.toNat / 4 * 4)) :
    exec (.pxRegisterAccess p addr none) s = .next (emit s (.toDesign (16 + p.val) [0, 0, 0, 0] false)) := by
  rw [exec_pxRegisterRead, readWord_reserved s h, leBytes_zero]
  rfl

/-- Settles O28: every access goes word by word, and a reserved word reads 0 and is left alone by each kind of access. -/
theorem reservedAddressesReadZero : Obligations.ReservedAddressesReadZero := by
  intro s addr len data be p v hlink hreserved
  have hlow : Reserved (addr.toNat / 4 * 4) := hreserved 0 (.inl two_pos)
  have hhigh : Reserved (addr.toNat / 4 * 4 + 4) := hreserved 1 (.inl one_lt_two)
  exact ⟨registerWrite_reserved data be hlow hhigh, barRead_reserved hlink fun i hi => hreserved i (.inr hi),
    pxRegisterWrite_reserved p v hlow, pxRegisterRead_reserved p hlow⟩

end Sys2Proof.Machine

/-! ## What EXTA writes (spec/05_phimar_scalar.md R183, R184) -/

namespace Sys2Proof.Machine

open Sys2Proof.Safety

/-- One value serves both results of R184: the reduced value, and the flag that says whether saturation changed it. -/
theorem reduce_eq_of_value (w : Nat) (sat : Bool) (v : Int) :
    reduce w sat v =
      (unsignedOf w (if sat = true then satInt w v else v), sat && decide ((if sat = true then satInt w v else v) ≠ v)) := by
  cases sat with
  | false => rfl
  | true => rfl

/-- EXTA puts the shifted and reduced accumulator in flight with the latency of class M, and the saturation with it. -/
theorem scExec_exta (s : State) (t u : Tile) (n : Nat) (sat : Bool) (rd : Reg) (a b imm : Nat) :
    scExec s t u n .exta sat rd.toNat a b imm =
      (s, flying u (sWrites 2 rd (reduce 32 sat (shiftRound (accGet t a) (sInt t b))).1
        (reduce 32 sat (shiftRound (accGet t a) (sInt t b))).2)) :=
  congrArg (Prod.mk s) (pushSat_push_s u 2 rd _ _)

/-- Alone in its bundle, EXTA leaves its write in flight and the tile at the next bundle. -/
theorem exec_exta_alone {s : State} {t u : Tile} {y : Sy} (rd rb : Reg) (ad : BitVec 2)
    (hready : TileReady s y.tile.val t u) (he : y.e = true) :
    exec (.exta y rd ad rb) s = .next (setTile s y.tile.val (issued (flying u
      (sWrites 2 rd (reduce 32 y.sat (shiftRound (accGet u ad.toNat) (sInt u rb.toNat))).1
        (reduce 32 y.sat (shiftRound (accGet u ad.toNat) (sInt u rb.toNat))).2)))) := by
  show execExta y rd ad rb s = _
  rw [execExta, he, alone_sc hready (by decide) (by decide) (scExec_exta s u u _ y.sat rd _ _ 0)]

/-- Settles O9: EXTA alone in its bundle, with the shift of R183 and the reduction of R184 written out. -/
theorem extaScalesTheAccumulator : Obligations.ExtaScalesTheAccumulator := by
  intro s t u y rd rb ad hready he
  rw [exec_exta_alone rd rb ad hready he, reduce_eq_of_value]
  rfl

end Sys2Proof.Machine

/-! ## The state of a tile at the start of a task (spec/06_phimar_vector.md R219; spec/05_phimar_scalar.md R176; spec/04_dahlia.md R157) -/

namespace Sys2Proof.Machine

section ListedWrites

variable {α β : Type} [DecidableEq α] (d : Nat → α) (key : β → Nat) (val : β → α)

theorem smGet_foldl_smPut_other {j : Nat} (l : List β) (m : SMap α) (h : ∀ x ∈ l, j ≠ key x) :
    smGet d (l.foldl (fun m x => smPut d (key x) (val x) m) m) j = smGet d m j := by
  induction l generalizing m with
  | nil => rfl
  | cons x l ih =>
    rw [List.forall_mem_cons] at h
    exact (ih _ h.2).trans (smGet_smPut_other d _ h.1 m)

/-- Where no two writes of a list meet, each value written is read back: the writes after it are at other keys. -/
theorem smGet_foldl_smPut_mem {x : β} (l : List β) (m : SMap α) (hm : smWf d m = true)
    (hkeys : l.Pairwise fun y z => key y ≠ key z) (hx : x ∈ l) :
    smGet d (l.foldl (fun m x => smPut d (key x) (val x) m) m) (key x) = val x := by
  induction l generalizing m with
  | nil => exact absurd hx List.not_mem_nil
  | cons y l ih =>
    obtain ⟨hfirst, hrest⟩ := List.pairwise_cons.mp hkeys
    rcases List.mem_cons.mp hx with rfl | hx
    · exact (smGet_foldl_smPut_other d key val l _ hfirst).trans (smGet_smPut_same d _ _ m hm)
    · exact ih _ (smWf_smPut d _ _ m hm) hrest hx

end ListedWrites

section TaskCore

variable {s : State} {p ns : Nat} {j : Job} {n : Node} {v : ProgVer}

/-- The values of s1 to s6 (R157), each beside its place in the list. -/
def startRegs (j : Job) (n : Node) : List (Nat × Nat) :=
  [(argOf n 0, 0), (argOf n 1, 1), (argOf n 2, 2), (argOf n 3, 3), (j.cmd.slot, 4), (n.idx % 1024 + 2 ^ 16 * (j.cmd.ci % 1024), 5)]

theorem taskCore_sreg : (taskCore s p ns j n v).sreg =
    (startRegs j n).foldl (fun m x => smPut (fun _ => 0) (x.2 + 1) (BitVec.ofNat 32 x.1) m) [] := rfl

theorem startRegs_pairwise (j : Job) (n : Node) : (startRegs j n).Pairwise fun x y => x.2 + 1 ≠ y.2 + 1 := by
  simp [startRegs]

theorem startRegs_place_lt {x : Nat × Nat} (h : x ∈ startRegs j n) : x.2 < 6 := by
  have hplace : x.2 ∈ (startRegs j n).map Prod.snd := List.mem_map_of_mem h
  exact List.mem_range.mp hplace

/-- Each listed value stands in the scalar register after its place, cut to 32 bits. -/
theorem sGet_taskCore_of_mem {x i : Nat} (h : (x, i) ∈ startRegs j n) : sGet (taskCore s p ns j n v) (i + 1) = x % 2 ^ 32 := by
  have hread : smGet (fun _ => (0 : Word)) (taskCore s p ns j n v).sreg (i + 1) = BitVec.ofNat 32 x := by
    rw [taskCore_sreg]
    exact smGet_foldl_smPut_mem _ (fun x : Nat × Nat => x.2 + 1) (fun x => BitVec.ofNat 32 x.1) _ _ rfl (startRegs_pairwise j n) h
  rw [sGet, if_neg i.succ_ne_zero, hread, BitVec.toNat_ofNat]

theorem sGet_taskCore_of_ge {r : Nat} (h : 7 ≤ r) : sGet (taskCore s p ns j n v) r = 0 := by
  have hunwritten : ∀ x ∈ startRegs j n, r ≠ x.2 + 1 := fun x hx => by
    have := startRegs_place_lt hx
    omega
  have hread : smGet (fun _ => (0 : Word)) (taskCore s p ns j n v).sreg r = 0 := by
    rw [taskCore_sreg]
    exact smGet_foldl_smPut_other _ (fun x : Nat × Nat => x.2 + 1) (fun x => BitVec.ofNat 32 x.1) _ _ hunwritten
  rw [sGet, if_neg (by omega), hread]
  rfl

theorem sGet_taskCore_arg {i : Nat} (h : i < 4) : sGet (taskCore s p ns j n v) (i + 1) = argOf n i % 2 ^ 32 := by
  have hlisted : (argOf n i, i) ∈ startRegs j n := by interval_cases i <;> simp [startRegs]
  exact sGet_taskCore_of_mem hlisted

theorem sGet_taskCore_slot : sGet (taskCore s p ns j n v) 5 = j.cmd.slot % 2 ^ 32 :=
  sGet_taskCore_of_mem (by simp [startRegs])

theorem sGet_taskCore_taskInfo : sGet (taskCore s p ns j n v) 6 = n.idx % 1024 + 2 ^ 16 * (j.cmd.ci % 1024) :=
  (sGet_taskCore_of_mem (by simp [startRegs])).trans (Nat.mod_eq_of_lt (by omega))

theorem vGet_taskCore (i : Nat) : vGet (taskCore s p ns j n v) i = 0 := BitVec.toNat_zero

theorem vaccGet_taskCore (i : Nat) : vaccGet (taskCore s p ns j n v) i = 0 := BitVec.toNat_zero

theorem vaccRunGet_taskCore (i : Nat) : vaccRunGet (taskCore s p ns j n v) i = 0 := BitVec.toNat_zero

theorem mGet_taskCore {i : Nat} (h : 1 ≤ i) : mGet (taskCore s p ns j n v) i = 0 :=
  if_neg (Nat.ne_of_gt h)

theorem accGet_taskCore (i : Nat) : accGet (taskCore s p ns j n v) i = 0 := rfl

theorem accRunGet_taskCore (i : Nat) : accRunGet (taskCore s p ns j n v) i = 0 := rfl

end TaskCore

/-- Where the version that the task was admitted with is loaded, its tile takes the core of a task's start. -/
theorem startTile_of_loaded {s : State} (p : Nat) (j : Job) {n : Node} {v : ProgVer}
    (h : (s.progs.find? fun v => n.ver == some v.id) = some v) :
    startTile s p j n = setTile (tctNow s).2 p (taskCore s p (tctNow s).1.2 j n v) := by
  rw [startTile, h]

/-- Settles O8: the tile is the task core, whose registers of R176 and R219 are read one kind at a time and whose other fields are as it gives them. -/
theorem aTaskStartsWithItsState : Obligations.ATaskStartsWithItsState := by
  intro s p j n v hloaded
  refine ⟨taskCore s p (tctNow s).1.2 j n v, startTile_of_loaded p j hloaded, rfl,
    fun i _ => vGet_taskCore i, fun i _ => ⟨vaccGet_taskCore i, vaccRunGet_taskCore i⟩,
    fun _ hi _ => mGet_taskCore hi, rfl, rfl,
    sGet_taskCore_arg (i := 0) (by decide), sGet_taskCore_arg (i := 1) (by decide),
    sGet_taskCore_arg (i := 2) (by decide), sGet_taskCore_arg (i := 3) (by decide),
    sGet_taskCore_slot, sGet_taskCore_taskInfo, fun _ hr _ => sGet_taskCore_of_ge hr,
    fun i _ => ⟨accGet_taskCore i, accRunGet_taskCore i⟩, ?_⟩
  exact ⟨rfl, rfl, rfl, rfl, rfl, rfl, rfl, rfl, rfl, rfl, rfl, rfl, rfl, rfl, rfl, rfl, rfl, rfl⟩

end Sys2Proof.Machine

/-! ## What a step keeps (spec/00_scope.md; spec/02_larkspur_time.md R48, R53) -/

namespace Sys2Proof.Machine

open Sys2Proof.Safety

theorem step_of_cons {s : State} {c : Instr} {rest : List Instr} (h : s.pending = c :: rest) :
    step s = exec c { s with pending := rest } := by
  simp only [step, h]

theorem step_of_nil {s : State} (h : s.pending = []) : step s = .next s := by
  simp only [step, h]

/-- A step keeps whatever holds of the state with the front command taken off its queue. -/
theorem step_keeps {q : Kept} {s t : State} (h : Keeps q { s with pending := s.pending.tail }) (ht : step s = .next t) :
    Keeps q t := by
  cases hs : s.pending with
  | nil =>
    obtain rfl : s = t := Host.Outcome.next.inj ((step_of_nil hs).symm.trans ht)
    exact keeps_congr h (by rw [hs]; rfl) rfl rfl rfl rfl
  | cons c rest =>
    rw [hs] at h
    exact (exec_keeps c h).next t ((step_of_cons hs).symm.trans ht)

/-- Settles O1: both clauses are the equations of step. -/
theorem aStepRunsTheFrontCommand : Obligations.AStepRunsTheFrontCommand :=
  ⟨fun _ _ _ => step_of_cons rfl, fun _ h => step_of_nil h⟩

/-- Settles O3: the state after reset is a literal. -/
theorem resetIsSound : Obligations.ResetIsSound :=
  ⟨rfl, rfl, ⟨rfl, rfl⟩, by decide, fun _ h => nomatch h⟩

/-- Settles O4: canonical memory and registers are part of what every command keeps. -/
theorem everyStepKeepsMemoryAndRegistersCanonical : Obligations.EveryStepKeepsMemoryAndRegistersCanonical := by
  rintro s t ⟨hmem, hregs⟩ ht
  have hkept : Keeps ⟨s.pending.tail, True, False⟩ t :=
    step_keeps ⟨rfl, fun _ => hmem, fun _ => hregs, False.elim, False.elim⟩ ht
  exact ⟨hkept.mem trivial, hkept.regs trivial⟩

/-- Settles O5: NS in its range is part of what every command keeps. -/
theorem everyStepKeepsNanosecondsInRange : Obligations.EveryStepKeepsNanosecondsInRange := by
  rintro s t ⟨hns, hload⟩ ht
  have hkept : Keeps ⟨s.pending.tail, False, True⟩ t :=
    step_keeps ⟨rfl, False.elim, False.elim, fun _ => hns, fun _ => hload⟩ ht
  exact ⟨hkept.ns trivial, hkept.load trivial⟩

/-- Settles O6: the queue is part of what every command keeps. -/
theorem everyStepTakesExactlyOneCommand : Obligations.EveryStepTakesExactlyOneCommand := by
  intro s t c rest hs ht
  have hkept : Keeps ⟨s.pending.tail, False, False⟩ t :=
    step_keeps ⟨rfl, False.elim, False.elim, False.elim, False.elim⟩ ht
  rw [hkept.queue, hs, List.tail_cons]

/-! ## Every command answers a next state -/

theorem completes_next (t : State) : ∃ u, (Host.Outcome.next t : Res) = .next u := ⟨t, rfl⟩

theorem completes_ite {c : Prop} [Decidable c] {a b : Res} (ha : ∃ t, a = .next t) (hb : ∃ t, b = .next t) :
    ∃ t, (if c then a else b) = .next t := by
  split
  · exact ha
  · exact hb

theorem takeCmd_completes (s : State) (r : Nat) (p : Nat → Bool) (f : State → CmdWord → State) :
    ∃ t, takeCmd s r p f = .next t := by
  unfold takeCmd
  split
  · exact completes_next _
  · exact completes_ite (completes_next _) (completes_next _)

theorem takeImageCmd_completes (s : State) (r : Nat) (p : Nat → Bool) (g : CmdWord → Nat × Nat) (f : State → CmdWord → State) :
    ∃ t, takeImageCmd s r p g f = .next t := by
  unfold takeImageCmd
  split
  · exact completes_next _
  · refine completes_ite ?_ (takeCmd_completes s r p f)
    split
    · exact completes_next _
    · exact takeCmd_completes s r p f

/-- But for a patrol, a meaning is a next state, or a tree of tests whose leaves are next states. -/
theorem exec_completes {c : Instr} (s : State) (hc : ∀ m g es, c ≠ .patrolScrub m g es) : Completes c s := by
  unfold Completes
  cases c
  case patrolScrub m g es => exact absurd rfl (hc m g es)
  all_goals
    dsimp only [exec, execRowSpareCopyDone, execCtLoad, execServoLock, execReferenceLost, execReferenceGood, execServoLost,
      execHoldoverLimitExpiry, execPtpFrameReceive, execDelayReqAnswer, execPpsOutFall, execPtmDialogue,
      execCmdTailWrite, execCqHeadWrite, execCommandFetch, execNop, execJobOpen, execTask, execEdge, execAt,
      execJobClose, execEvery, execEveryFiring, execCancel, execFence, execSignal, execSignalRecord, execProgramLoad,
      execProgramLoadCopyDone, execProgramSwap, execRetiringVersionFreed, execPlanSet, execPlanDecision, execPlanDrop,
      execJobDecision, execNodeRelease, execNodeFetch, execRecordWrite, execWakeRequest, execCvuUnitResult,
      execWindowCloseHostWait, execHostWriteGo, execHostReadReturn, execHdmAccess, execInterruptMessage,
      execIdeIntegrityFailure, execHdmDecoderCommit, execDoeRequest, execRingTransferReceive, execRingLinkRetrain,
      execTddShadowApply, execGroupFetch, execFrameTransmit, execGroupMissing, execRamp, execObsReq,
      execCaptureDeadline, execEvmMeasurement, execPrachOccasion, execLaneUp, execMarkerReceive, execCtl, execProfile,
      execUPlaneSend, execCPlaneSend, execEthernetFrameReceive, execForwardedFrameEgress, execPartitionDramAccess,
      execPartitionMailboxWrite, execPartitionBlockTransmit, execPartitionBlockReceive, execPowerUpLoad,
      execLoadReady, execScrubFrame, execFrameRepair, execNeighbourCheck, execPmbusTransaction, execVoltageSettled,
      execClusterEntry, execEntryComplete, execClusterWake, execWakeFailure, execQuadrantEntryComplete,
      execQuadrantBoot, execReinitialisationRecordWrite, execPorNRelease, execPerstN, execConfigurationRequest,
      execSupplyWarning, execSupplyReset, execThermalTrip, execInterruptEntry, execExceptionEntry, execInputArrival,
      execTaskStart, execEngineOperationEnd, execTileCoreCheck, execRedoStart, execTileRetestDone, execEngineCheck,
      execBankFence, execHubFlitUncorrectable, execFirmwareHealthyReport, execFirmwareRevert, execFlightRecorderWrite,
      execSecureBoot, execDebugSessionExpiry, execKeyWrite, execSpdmRequest, execTamper, execSchedulingTick,
      execQuadrantSlotBoundary, execCarrierSlotBoundary, execFrameReceive, execObs, execCoalesceIntervalEnd,
      execBarRead, execPxRegisterAccess]
    with_reducible repeat' first
      | exact completes_next _
      | exact takeCmd_completes _ _ _ _
      | exact takeImageCmd_completes _ _ _ _ _
      | refine completes_ite ?_ ?_
      | split
  all_goals exact completes_next _

theorem exec_patrolScrub {m : MemUnit} {g : Nat} {es : List SymErr} {s : State} :
    (unitSize m ≤ 32 * g ∧ exec (.patrolScrub m g es) s = .fault .noSuchGranule) ∨ Completes (.patrolScrub m g es) s := by
  unfold Completes
  dsimp only [exec, execPatrolScrub]
  split
  · exact .inl ⟨‹_›, rfl⟩
  · exact .inr (completes_ite (completes_next _) (completes_next _))

/-- Settles O2: only the test of a patrol's granule leads to a fault. -/
theorem everyCommandCompletesOrNamesNoGranule : Obligations.EveryCommandCompletesOrNamesNoGranule := by
  intro c s
  by_cases hpatrol : ∃ m g es, c = .patrolScrub m g es
  · obtain ⟨m, g, es, rfl⟩ := hpatrol
    rcases exec_patrolScrub (m := m) (g := g) (es := es) (s := s) with ⟨houtside, hfault⟩ | hcompletes
    · exact .inr ⟨m, g, es, rfl, houtside, hfault⟩
    · exact .inl hcompletes
  · exact .inl (exec_completes s fun m g es h => hpatrol ⟨m, g, es, h⟩)

end Sys2Proof.Machine

/-! ## A write of part of a granule whose error pattern is a codeword (spec/07_memory.md R253 to R256) -/

namespace Sys2Proof.Machine

/-- The pattern of the code's generator polynomial (R253): five symbols in error that together make a codeword. -/
def codewordErrors : Nat := 0x010F367840

/-- The reset state with these errors in the first granule of host memory. -/
def codewordState : State := putErr State.reset 0 codewordErrors

/-- A codeword has no syndrome, so its decoding finds nothing and leaves it all in the data (R254). -/
theorem rsDecode_codewordErrors : rsDecode codewordErrors = (.clean, codewordErrors) := by decide +kernel

/-- The read before a write of part of the granule puts the pattern into the granule's data. -/
theorem settleEdge_codewordState : settleEdge codewordState 5 1 0 = rsWriteBack codewordState 0 codewordErrors := by
  have herr : errAt codewordState 0 = codewordErrors := by decide
  have hclean : ¬ (codewordErrors = 0 ∨ fencedAt codewordState (32 * 0) = true) := by decide
  have hgood : poisoned codewordState 0 = false := rfl
  unfold settleEdge settlePart settle
  rw [if_neg (by decide), hgood, herr]
  simp only [Bool.false_eq_true, if_false, if_neg hclean, rsDecode_codewordErrors]

/-- So a write of byte 5 changes byte 0, which it does not cover. -/
theorem rdByte_wrMem_codewordState : rdByte (wrMem codewordState 5 [1]) 0 = 0x40 := by
  have hmem : wrMem codewordState 5 [1] = wrBytes (rsWriteBack codewordState 0 codewordErrors) 5 [1] := by
    have hagain : settleEdge (rsWriteBack codewordState 0 codewordErrors) 5 1 0 = rsWriteBack codewordState 0 codewordErrors := by
      unfold settleEdge settlePart settle
      rw [if_neg (by decide), show poisoned (rsWriteBack codewordState 0 codewordErrors) 0 = false by decide,
        show errAt (rsWriteBack codewordState 0 codewordErrors) 0 = 0 by decide]
      simp
    have hedges : settleEdge (settleEdge codewordState 5 [(1 : Byte)].length (5 / 32)) 5 [(1 : Byte)].length ((5 + [(1 : Byte)].length - 1) / 32) =
        rsWriteBack codewordState 0 codewordErrors := by
      rw [show [(1 : Byte)].length = 1 from rfl, Nat.div_eq_of_lt (by decide : 5 < 32), settleEdge_codewordState, hagain]
    unfold wrMem
    rw [hedges, if_neg (show ¬ (codewordState.errs = [] ∨ [(1 : Byte)] = []) by decide), if_neg (by decide)]
  rw [hmem]
  decide

/-- Refutes O7: a write of part of a granule reads the granule first (R254), and where the symbols in error make a codeword that read changes
bytes outside the write. -/
theorem not_memoryAndRegistersReadBack : ¬ Obligations.MemoryAndRegistersReadBack := by
  rintro ⟨hwrite, -⟩
  obtain ⟨-, -, hother⟩ := hwrite codewordState 5 0 [1] rfl
  have hkept : rdByte (wrMem codewordState 5 [1]) 0 = rdByte codewordState 0 := hother (.inl (by decide))
  rw [rdByte_wrMem_codewordState] at hkept
  exact absurd hkept (by decide)

end Sys2Proof.Machine

/-! ## What a write of a field leaves in the registers -/

namespace Sys2Proof.Machine

open Sys2Proof.Safety

variable {s t : State} {f g : Field}

theorem testBit_bitsOf (x lo w i : Nat) : (bitsOf x lo w).testBit i = (decide (i < w) && x.testBit (lo + i)) := by
  rw [bitsOf, Nat.testBit_mod_two_pow, Nat.testBit_shiftRight]

theorem testBit_putBits (x lo w v i : Nat) :
    (putBits x lo w v).testBit i = if lo ≤ i ∧ i < lo + w then v.testBit (i - lo) else x.testBit i := by
  rw [putBits_eq, Nat.testBit_two_pow_mul_add _ (Nat.mod_lt _ (Nat.two_pow_pos lo))]
  by_cases hbelow : i < lo
  · rw [if_pos hbelow, if_neg (by omega), Nat.testBit_mod_two_pow, decide_eq_true hbelow, Bool.true_and]
  · rw [if_neg hbelow, Nat.testBit_two_pow_mul_add _ (Nat.mod_lt _ (Nat.two_pow_pos w))]
    by_cases hin : i - lo < w
    · rw [if_pos hin, if_pos (by omega), Nat.testBit_mod_two_pow, decide_eq_true hin, Bool.true_and]
    · rw [if_neg hin, if_neg (by omega), Nat.testBit_div_two_pow]
      congr 1
      omega

/-- A field reads as its bits of the number that holds it. -/
theorem bitsOf_putBits_same (x lo w v : Nat) : bitsOf (putBits x lo w v) lo w = v % 2 ^ w := by
  refine Nat.eq_of_testBit_eq fun i => ?_
  rw [testBit_bitsOf, testBit_putBits, Nat.testBit_mod_two_pow]
  by_cases hi : i < w
  · rw [if_pos (by omega), Nat.add_sub_cancel_left]
  · simp [hi]

theorem bitsOf_putBits_disjoint (x v : Nat) {lo w lo' w' : Nat} (h : lo' + w' ≤ lo ∨ lo + w ≤ lo') :
    bitsOf (putBits x lo w v) lo' w' = bitsOf x lo' w' := by
  refine Nat.eq_of_testBit_eq fun i => ?_
  rw [testBit_bitsOf, testBit_bitsOf, testBit_putBits]
  by_cases hi : i < w'
  · rw [if_neg (by omega)]
  · simp [hi]

/-- Bits of a number below 2^n are those of its word of n bits. -/
theorem bitsOf_mod {x lo w n : Nat} (h : lo + w ≤ n) : bitsOf (x % 2 ^ n) lo w = bitsOf x lo w := by
  refine Nat.eq_of_testBit_eq fun i => ?_
  rw [testBit_bitsOf, testBit_bitsOf, Nat.testBit_mod_two_pow]
  by_cases hi : i < w
  · rw [decide_eq_true (show lo + i < n by omega), Bool.true_and]
  · simp [hi]

theorem bitOf_putBits_outside {x lo w v i : Nat} (h : i < lo ∨ lo + w ≤ i) : bitOf (putBits x lo w v) i = bitOf x i :=
  bitsOf_putBits_disjoint x v (by omega)

/-- A field is narrow where one register word holds it. -/
theorem setF_narrow (s : State) (v : Nat) (h : f.lo + f.w ≤ 32) :
    setF s f v = setR s f.addr (BitVec.ofNat 32 (putBits (getR s f.addr).toNat f.lo f.w v)) := if_pos h

theorem getF_narrow (s : State) (h : f.lo + f.w ≤ 32) : getF s f = bitsOf (getR s f.addr).toNat f.lo f.w := if_pos h

/-- A write of a field changes nothing but the registers. -/
theorem setF_eq_regs (s : State) (f : Field) (v : Nat) : setF s f v = { s with regs := (setF s f v).regs } := by
  unfold setF
  split
  · rfl
  · rfl

theorem setF_regs_wf (f : Field) (v : Nat) (h : smWf regReset s.regs = true) : smWf regReset (setF s f v).regs = true := by
  unfold setF
  split
  · exact smWf_smPut _ _ _ _ h
  · exact smWf_smPut _ _ _ _ (smWf_smPut _ _ _ _ h)

theorem getR_setF_other {a v : Nat} (h : a ≠ f.addr) (h4 : f.lo + f.w ≤ 32 ∨ a ≠ f.addr + 4) : getR (setF s f v) a = getR s a := by
  unfold setF
  split
  · exact getR_setR_other _ h
  · rcases h4 with h4 | h4
    · contradiction
    · exact (getR_setR_other _ h4).trans (getR_setR_other _ h)

theorem getF_setF_same (v : Nat) (h : f.lo + f.w ≤ 32) (hwf : smWf regReset s.regs = true) : getF (setF s f v) f = v % 2 ^ f.w := by
  rw [getF_narrow _ h, setF_narrow _ _ h, getR_setR_same _ _ hwf, BitVec.toNat_ofNat, bitsOf_mod h, bitsOf_putBits_same]

/-- Another narrow field keeps its value where it lies in another word or takes other bits. -/
theorem getF_setF_other (v : Nat) (hf : f.lo + f.w ≤ 32) (hg : g.lo + g.w ≤ 32) (hwf : smWf regReset s.regs = true)
    (h : g.addr ≠ f.addr ∨ g.lo + g.w ≤ f.lo ∨ f.lo + f.w ≤ g.lo) : getF (setF s f v) g = getF s g := by
  rw [getF_narrow _ hg, getF_narrow _ hg, setF_narrow _ _ hf]
  by_cases haddr : g.addr = f.addr
  · rw [haddr, getR_setR_same _ _ hwf, BitVec.toNat_ofNat, bitsOf_mod hg]
    exact bitsOf_putBits_disjoint _ _ (h.resolve_left (not_not_intro haddr))
  · rw [getR_setR_other _ haddr]

theorem bitsBut_setF (v : Nat) (h : f.lo + f.w ≤ 32) (hwf : smWf regReset s.regs = true) : BitsBut s (setF s f v) f := by
  intro i hi hout
  have hmod : ∀ x, bitOf (x % 2 ^ 32) i = bitOf x i := fun x => bitsOf_mod (by omega)
  rw [setF_narrow _ _ h, getR_setR_same _ _ hwf, BitVec.toNat_ofNat, hmod, bitOf_putBits_outside hout]

theorem regsBut_setF (v : Nat) (h : f.lo + f.w ≤ 32) : RegsBut s (setF s f v) [f.addr] :=
  fun _ ha => getR_setF_other (List.ne_of_not_mem_cons ha) (.inl h)

theorem regsBut_setF_wide (v : Nat) : RegsBut s (setF s f v) [f.addr, f.addr + 4] :=
  fun _ ha => getR_setF_other (List.ne_of_not_mem_cons ha) (.inr (List.ne_of_not_mem_cons (List.not_mem_of_not_mem_cons ha)))

theorem regsBut_of_regs_eq {as : List Nat} (h : t.regs = s.regs) : RegsBut s t as := fun a _ => getR_congr h a

theorem regsBut_trans {u : State} {as bs cs : List Nat} (h1 : RegsBut s t as) (h2 : RegsBut t u bs) (has : as ⊆ cs) (hbs : bs ⊆ cs) :
    RegsBut s u cs := fun a ha => (h2 a fun h => ha (hbs h)).trans (h1 a fun h => ha (has h))

/-- A happening of a source changes nothing but the interrupt controller. -/
theorem intPulse_eq_ints (s : State) (n : Nat) : intPulse s n = { s with ints := (intPulse s n).ints } := by
  unfold intPulse
  dsimp only
  split
  · rfl
  · rfl

@[simp] theorem intPulse_regs (s : State) (n : Nat) : (intPulse s n).regs = s.regs := by rw [intPulse_eq_ints]
@[simp] theorem intPulse_lks (s : State) (n : Nat) : (intPulse s n).lks = s.lks := by rw [intPulse_eq_ints]
@[simp] theorem intPulse_ct (s : State) (n : Nat) : (intPulse s n).ct = s.ct := by rw [intPulse_eq_ints]

end Sys2Proof.Machine

/-! ## Chip time at an edge (spec/02_larkspur_time.md R48 to R50, R53, R54, R73 to R79) -/

namespace Sys2Proof.Machine

open Sys2Proof.Safety

variable {s : State}

theorem getPin_congr {s t : State} (h : t.pins = s.pins) (n : Nat) : getPin t n = getPin s n := by unfold getPin; rw [h]

/-- What a jump of CT does to a pin: its intervals move by d. -/
def movePin (d : Int) (p : Pin) : Pin :=
  { p with since := p.since + d, edge := p.edge.map (· + d),
           window := p.window.map fun w => { w with ends := w.ends + d, last := w.last.map fun x => (x.1 + d, x.2) } }

/-- The pins of a list moved, one after the other. -/
def movePins (d : Int) (l : List Nat) (s : State) : State := l.foldl (fun s n => setPin s n (movePin d (getPin s n))) s

theorem movePins_eq_pins (d : Int) (l : List Nat) (s : State) : movePins d l s = { s with pins := (movePins d l s).pins } := by
  induction l generalizing s with
  | nil => rfl
  | cons n l ih => exact ih (setPin s n (movePin d (getPin s n)))

/-- Each pin of a list without repetitions is moved once, and no other. -/
theorem getPin_movePins {d : Int} {l : List Nat} {s : State} (hwf : smWf (fun _ => ({} : Pin)) s.pins = true) (hl : l.Nodup) (n : Nat) :
    getPin (movePins d l s) n = if n ∈ l then movePin d (getPin s n) else getPin s n := by
  induction l generalizing s with
  | nil => simp [movePins]
  | cons m l ih =>
    obtain ⟨hm, hrest⟩ := List.nodup_cons.mp hl
    show getPin (movePins d l (setPin s m (movePin d (getPin s m)))) n = _
    rw [ih (smWf_smPut _ _ _ _ hwf) hrest]
    by_cases hn : n = m
    · subst hn
      rw [if_neg hm, if_pos List.mem_cons_self, getPin_setPin_same _ _ _ hwf]
    · rw [getPin_setPin_other _ _ _ _ hn]
      simp [hn]

/-- The whole ps by which CT jumps. -/
def jumpPs (u : Int) : Int := roundDiv (u * 1000) (2 ^ 40)

theorem jumpCt_def (s : State) (u : Int) : jumpCt s u =
    { movePins (jumpPs u) (List.range 17) s with
      delayLog := [],
      lks := { (movePins (jumpPs u) (List.range 17) s).lks with
        lastPtm := (movePins (jumpPs u) (List.range 17) s).lks.lastPtm.map (· + jumpPs u) } } := rfl

theorem jumpCt_eq (s : State) (u : Int) : jumpCt s u =
    { s with pins := (jumpCt s u).pins, delayLog := [], lks := { s.lks with lastPtm := s.lks.lastPtm.map (· + jumpPs u) } } := by
  rw [jumpCt_def, movePins_eq_pins]

theorem getPin_jumpCt {s : State} (u : Int) {n : Nat} (hn : n < 17) (hwf : smWf (fun _ => ({} : Pin)) s.pins = true) :
    getPin (jumpCt s u) n = movePin (jumpPs u) (getPin s n) := by
  have hpins : (jumpCt s u).pins = (movePins (jumpPs u) (List.range 17) s).pins := by rw [jumpCt_def]
  rw [getPin_congr hpins, getPin_movePins hwf List.nodup_range, if_pos (List.mem_range.mpr hn)]

theorem applyBase_of_none (h : s.lks.pendBase = none) : applyBase s = s := by
  unfold applyBase
  rw [h]

theorem applyLost_of_nil (h : s.lks.pendLost = []) : applyLost s = s := if_pos h

theorem applySwitch_of_none (h : s.lks.pendSwitch = none) : applySwitch s = s := by
  unfold applySwitch
  rw [h]

theorem applySnap_of_none (h : s.lks.pendSnap = false) : applySnap s = s := by
  unfold applySnap
  rw [h]
  rfl

/-- An edge with neither a base, a loss, a switch nor a snapshot pending only advances CT and forms the addend. -/
theorem exec_ctAdvance_plain {s : State} (hbase : s.lks.pendBase = none) (hlost : s.lks.pendLost = []) (hswitch : s.lks.pendSwitch = none)
    (hsnap : s.lks.pendSnap = false) : exec .ctAdvance s = .next (formAddend (advanceCt s)) := by
  have hlks : (advanceCt s).lks.pendBase = none ∧ (advanceCt s).lks.pendLost = [] ∧ (advanceCt s).lks.pendSwitch = none ∧ (advanceCt s).lks.pendSnap = false := by
    unfold advanceCt
    split
    · rw [jumpCt_eq]
      exact ⟨hbase, hlost, hswitch, hsnap⟩
    · exact ⟨hbase, hlost, hswitch, hsnap⟩
  obtain ⟨h1, h2, h3, h4⟩ := hlks
  show execCtAdvance s = _
  rw [execCtAdvance, applyBase_of_none h1, applyLost_of_nil h2, applySwitch_of_none h3, applySnap_of_none h4]

/-- With no phase remaining there is nothing to slew. -/
theorem slewTerm_zero (rate : Nat) : slewTerm rate 0 = 0 := by
  unfold slewTerm
  split
  · rfl
  · rw [if_neg (lt_irrefl 0)]
    omega

/-- The state at an edge that brings CT to c: its tick and slot boundaries are still to come. -/
def atEdge (s : State) (c : CT) : State :=
  { s with ct := c, subPs := 0, upCycles := s.upCycles + 1, lks := { s.lks with tickDone := false, slotDone := 0 } }

/-- The same with a load taken, before the jump of CT. -/
def loaded (s : State) (c : CT) : State :=
  { s with ct := c, subPs := 0, upCycles := s.upCycles + 1, lks := { s.lks with pendLoad := none, remain := 0, tickDone := false, slotDone := 0 } }

theorem advanceCt_of_no_load {s : State} (h : s.lks.pendLoad = none) : advanceCt s = atEdge s (CT.ofUnits (s.ct.units + s.lks.addend)) := by
  unfold advanceCt
  rw [h]
  rfl

/-- The value of a load. -/
def loadCt (sec ns : Nat) : CT := { sec := BitVec.ofNat 64 sec, ns := BitVec.ofNat 32 ns }

/-- How far a load of c brings CT beyond what it would have been, in units. -/
def loadJump (s : State) (c : CT) : Int := (c.units : Int) - ((s.ct.units + s.lks.addend : Nat) : Int)

theorem advanceCt_of_load {s : State} {sec ns : Nat} (h : s.lks.pendLoad = some (sec, ns)) :
    advanceCt s = jumpCt (loaded s (loadCt sec ns)) (loadJump s (loadCt sec ns)) := by
  unfold advanceCt
  rw [h]
  rfl

/-- The addend is formed from the registers and the remaining phase alone. -/
theorem formAddend_of_regs {s x : State} (hregs : x.regs = s.regs) :
    formAddend x = { x with lks := { x.lks with
      addend := ((getF s LKS_BASE_BASE : Int) + freqTerm (getF s LKS_BASE_BASE) (getSF s LKS_FADJ_FADJ) + slewTerm (getF s LKS_SLEW_RATE_RATE) x.lks.remain).toNat,
      remain := x.lks.remain - slewTerm (getF s LKS_SLEW_RATE_RATE) x.lks.remain } } := by
  unfold formAddend
  rw [getF_congr hregs, getF_congr hregs, getSF_congr hregs]

/-- With no phase remaining: the base and the frequency term. -/
theorem formAddend_of_remain_zero {s x : State} (hregs : x.regs = s.regs) (h : x.lks.remain = 0) :
    formAddend x = { x with lks := { x.lks with
      addend := ((getF s LKS_BASE_BASE : Int) + freqTerm (getF s LKS_BASE_BASE) (getSF s LKS_FADJ_FADJ)).toNat, remain := 0 } } := by
  rw [formAddend_of_regs hregs, h, slewTerm_zero]
  simp only [sub_zero, add_zero]

theorem formAddend_atEdge (s : State) (c : CT) : formAddend (atEdge s c) =
    { s with ct := c, subPs := 0, upCycles := s.upCycles + 1, lks := { s.lks with
        addend := ((getF s LKS_BASE_BASE : Int) + freqTerm (getF s LKS_BASE_BASE) (getSF s LKS_FADJ_FADJ) + slewTerm (getF s LKS_SLEW_RATE_RATE) s.lks.remain).toNat,
        remain := s.lks.remain - slewTerm (getF s LKS_SLEW_RATE_RATE) s.lks.remain, tickDone := false, slotDone := 0 } } := by
  rw [formAddend_of_regs (s := s) (x := atEdge s c) rfl]
  rfl

theorem formAddend_jumpCt_loaded (s : State) (c : CT) (u : Int) : formAddend (jumpCt (loaded s c) u) =
    { s with
      ct := c, subPs := 0, upCycles := s.upCycles + 1, pins := (jumpCt (loaded s c) u).pins, delayLog := [],
      lks := { s.lks with pendLoad := none, remain := 0,
                          addend := ((getF s LKS_BASE_BASE : Int) + freqTerm (getF s LKS_BASE_BASE) (getSF s LKS_FADJ_FADJ)).toNat,
                          tickDone := false, slotDone := 0, lastPtm := s.lks.lastPtm.map (· + jumpPs u) } } := by
  have hform := formAddend_of_remain_zero (s := s) (x := jumpCt (loaded s c) u) (by rw [jumpCt_eq]; rfl) (by rw [jumpCt_eq]; rfl)
  have hjump := jumpCt_eq (loaded s c) u
  generalize (jumpCt (loaded s c) u).pins = pins at hjump ⊢
  rw [hform, hjump]
  rfl

/-- Settles O10: without a load the edge is CT's advance with the addend formed, and with one the jump of CT, which moves the pins one by one. -/
theorem cycleAdvancesTime : Obligations.CycleAdvancesTime := by
  refine ⟨fun s hbase hlost hswitch hsnap hload => ?_, fun s sec ns hbase hlost hswitch hsnap hload => ?_⟩
  · rw [exec_ctAdvance_plain hbase hlost hswitch hsnap, advanceCt_of_no_load hload, formAddend_atEdge]
  · intro b c d
    have hexec : exec .ctAdvance s = .next (formAddend (jumpCt (loaded s c) (loadJump s c))) := by
      rw [exec_ctAdvance_plain hbase hlost hswitch hsnap, advanceCt_of_load hload]
      rfl
    have hpin : smWf (fun _ => ({} : Pin)) s.pins = true → ∀ n < 17, getPin (jumpCt (loaded s c) (loadJump s c)) n = movePin d (getPin s n) :=
      fun hwf n hn => getPin_jumpCt (s := loaded s c) _ hn hwf
    have hd : jumpPs (loadJump s c) = d := rfl
    clear_value d c
    rw [formAddend_jumpCt_loaded, hd] at hexec
    generalize hjump : (jumpCt (loaded s c) (loadJump s c)).pins = pins at hexec
    refine ⟨_, hexec, rfl, fun hwf n hn => ?_⟩
    rw [getPin_congr (s := jumpCt (loaded s c) (loadJump s c)) hjump.symm, hpin hwf n hn]
    refine ⟨rfl, rfl, rfl, ?_⟩
    cases hw : (getPin s n).window <;> simp [movePin, hw]

end Sys2Proof.Machine

/-! ## The states of the clock and of its servos (spec/02_larkspur_time.md R51, R53, R54, R75 to R79) -/

namespace Sys2Proof.Machine

open Sys2Proof.Safety

variable {s t u : State} {f g : Field}

/-- Nothing but registers and interrupt sources has changed. -/
def OnlyRegs (s t : State) : Prop := t = { s with regs := t.regs, ints := t.ints }

theorem OnlyRegs.refl (s : State) : OnlyRegs s s := rfl

theorem OnlyRegs.trans (h1 : OnlyRegs s t) (h2 : OnlyRegs t u) : OnlyRegs s u := by
  unfold OnlyRegs at *
  rw [h2, h1]

theorem OnlyRegs.lks (h : OnlyRegs s t) : t.lks = s.lks := by rw [h]
theorem OnlyRegs.ct (h : OnlyRegs s t) : t.ct = s.ct := by rw [h]

/-- Nothing but registers, interrupt sources and the clock's own state has changed. -/
def OnlyLks (s t : State) : Prop := t = { s with lks := t.lks, regs := t.regs, ints := t.ints }

/-- Beside these, CT and the intervals that move with it (assumption 147). -/
def OnlyTime (s t : State) : Prop :=
  t = { s with ct := t.ct, lks := t.lks, regs := t.regs, ints := t.ints, pins := t.pins, delayLog := t.delayLog }

theorem OnlyRegs.onlyLks (h : OnlyRegs s t) : OnlyLks s t := by
  unfold OnlyLks
  rw [h]

theorem OnlyLks.onlyTime (h : OnlyLks s t) : OnlyTime s t := by
  unfold OnlyTime
  rw [h]

theorem OnlyLks.trans (h1 : OnlyLks s t) (h2 : OnlyLks t u) : OnlyLks s u := by
  unfold OnlyLks at *
  rw [h2, h1]

theorem OnlyTime.trans (h1 : OnlyTime s t) (h2 : OnlyTime t u) : OnlyTime s u := by
  unfold OnlyTime at *
  rw [h2, h1]

theorem onlyRegs_setF (s : State) (f : Field) (v : Nat) : OnlyRegs s (setF s f v) := by
  unfold OnlyRegs setF
  split <;> rfl

theorem onlyRegs_intPulse (s : State) (n : Nat) : OnlyRegs s (intPulse s n) := by
  unfold OnlyRegs intPulse
  dsimp only
  split <;> rfl

/-- Two narrow fields of which neither covers a bit of the other. -/
def Apart (f g : Field) : Prop :=
  f.lo + f.w ≤ 32 ∧ g.lo + g.w ≤ 32 ∧ (g.addr ≠ f.addr ∨ g.lo + g.w ≤ f.lo ∨ f.lo + f.w ≤ g.lo)

theorem Apart.getF_setF (h : Apart f g) (v : Nat) (hwf : smWf regReset s.regs = true) : getF (setF s f v) g = getF s g :=
  getF_setF_other v h.1 h.2.1 hwf h.2.2

/-- Show state v in a field, with a happening of source n where it changes. -/
def showState (s : State) (f : Field) (v n : Nat) : State := if getF s f = v then s else intPulse (setF s f v) n

theorem setTimeState_eq (s : State) (v : Nat) : setTimeState s v = showState s LKS_STATUS_STATE v 769 := rfl

section ShowState

variable (v n : Nat)

theorem onlyRegs_showState : OnlyRegs s (showState s f v n) := by
  unfold showState
  split
  · exact .refl s
  · exact (onlyRegs_setF s f v).trans (onlyRegs_intPulse _ n)

theorem showState_regs_wf (hwf : smWf regReset s.regs = true) : smWf regReset (showState s f v n).regs = true := by
  unfold showState
  split
  · exact hwf
  · rw [intPulse_regs]
    exact setF_regs_wf f v hwf

theorem regsBut_showState (h : f.lo + f.w ≤ 32) : RegsBut s (showState s f v n) [f.addr] := by
  unfold showState
  split
  · exact regsBut_of_regs_eq rfl
  · exact regsBut_trans (bs := []) (regsBut_setF v h) (regsBut_of_regs_eq (intPulse_regs _ n)) (List.Subset.refl _) (List.nil_subset _)

theorem bitsBut_showState (h : f.lo + f.w ≤ 32) (hwf : smWf regReset s.regs = true) : BitsBut s (showState s f v n) f := by
  unfold showState
  split
  · exact fun _ _ _ => rfl
  · intro i hi hout
    rw [getR_congr (intPulse_regs _ n)]
    exact bitsBut_setF v h hwf i hi hout

variable {v} in
theorem getF_showState_same (h : f.lo + f.w ≤ 32) (hv : v < 2 ^ f.w) (hwf : smWf regReset s.regs = true) : getF (showState s f v n) f = v := by
  unfold showState
  split
  · assumption
  · rw [getF_congr (intPulse_regs _ n), getF_setF_same v h hwf, Nat.mod_eq_of_lt hv]

theorem getF_showState_other (h : Apart f g) (hwf : smWf regReset s.regs = true) : getF (showState s f v n) g = getF s g := by
  unfold showState
  split
  · rfl
  · rw [getF_congr (intPulse_regs _ n), h.getF_setF v hwf]

end ShowState

section TakeSynce

theorem onlyRegs_writeFadj (s : State) (v : Int) : OnlyRegs s (writeFadj s v) := by
  unfold writeFadj
  dsimp only
  split
  · exact onlyRegs_setF s _ _
  · exact (onlyRegs_setF s _ _).trans (onlyRegs_setF _ _ _)

theorem getF_writeFadj_other (v : Int) (hfadj : Apart LKS_FADJ_FADJ g) (hclamp : Apart LKS_STATUS_FADJ_CLAMP g) (hwf : smWf regReset s.regs = true) :
    getF (writeFadj s v) g = getF s g := by
  unfold writeFadj
  dsimp only
  split
  · exact hfadj.getF_setF _ hwf
  · exact (hclamp.getF_setF _ (setF_regs_wf _ _ hwf)).trans (hfadj.getF_setF _ hwf)

theorem onlyRegs_takeSynce (s : State) : OnlyRegs s (takeSynce s) := by
  unfold takeSynce
  split
  · exact onlyRegs_writeFadj s _
  · exact .refl s

theorem getF_takeSynce_other (hfadj : Apart LKS_FADJ_FADJ g) (hclamp : Apart LKS_STATUS_FADJ_CLAMP g) (hwf : smWf regReset s.regs = true) :
    getF (takeSynce s) g = getF s g := by
  unfold takeSynce
  split
  · exact getF_writeFadj_other _ hfadj hclamp hwf
  · rfl

theorem takeSynce_of_not_hybrid (h : isF s LKS_SYNCE_CTL_HYBRID = false) : takeSynce s = s := by
  unfold takeSynce hybridOn
  rw [h]
  rfl

end TakeSynce

/-! ### CT in units -/

theorem units_ofUnits {x : Nat} (h : x < 2 ^ 64 * 1000000000 * 2 ^ 40) : (CT.ofUnits x).units = x := by
  simp only [CT.ofUnits, CT.units, BitVec.toNat_ofNat]
  omega

end Sys2Proof.Machine

/-! ## CT is loaded, latched and locked (spec/02_larkspur_time.md R48, R53, R54, R75, R78) -/

namespace Sys2Proof.Machine

open Sys2Proof.Safety

variable {s t : State} {f : Field}

/-! ### Wide fields -/

/-- A field depends on the two words from its address. -/
theorem getF_of_getR (h : getR t f.addr = getR s f.addr) (h4 : getR t (f.addr + 4) = getR s (f.addr + 4)) : getF t f = getF s f := by
  unfold getF getR64
  rw [h, h4]

theorem getR64_setR64 (a v : Nat) (hv : v < 2 ^ 64) (hwf : smWf regReset s.regs = true) : getR64 (setR64 s a v) a = v := by
  have hlow : getR (setR64 s a v) a = BitVec.ofNat 32 v :=
    (getR_setR_other _ (by omega)).trans (getR_setR_same _ _ hwf)
  have hhigh : getR (setR64 s a v) (a + 4) = BitVec.ofNat 32 (v / 2 ^ 32) := getR_setR_same _ _ (smWf_smPut _ _ _ _ hwf)
  unfold getR64
  rw [hlow, hhigh, BitVec.toNat_ofNat, BitVec.toNat_ofNat]
  omega

/-- A field of a whole 64-bit register reads as written. -/
theorem getF_setF_whole64 {a v : Nat} (hv : v < 2 ^ 64) (hwf : smWf regReset s.regs = true) : getF (setF s ⟨a, 0, 64⟩ v) ⟨a, 0, 64⟩ = v := by
  have hput : ∀ x, putBits x 0 64 v % 2 ^ 64 = v := fun x => by
    have hread := bitsOf_putBits_same x 0 64 v
    rwa [bitsOf, Nat.shiftRight_zero, Nat.mod_eq_of_lt hv] at hread
  have hword : getR64 (setR64 s a (putBits (getR64 s a) 0 64 v)) a = v := by
    have hlt : getR64 s a < 2 ^ 64 := by
      unfold getR64
      have := (getR s a).isLt
      have := (getR s (a + 4)).isLt
      omega
    have hbits : putBits (getR64 s a) 0 64 v < 2 ^ 64 := by
      rw [putBits_eq, Nat.zero_add, Nat.div_eq_of_lt hlt]
      omega
    rw [getR64_setR64 _ _ hbits hwf, ← Nat.mod_eq_of_lt hbits, hput]
  show bitsOf (getR64 (setR64 s a (putBits (getR64 s a) 0 64 v)) a) 0 64 = v
  rw [hword, bitsOf, Nat.shiftRight_zero, Nat.mod_eq_of_lt hv]

/-! ### Edges -/

theorem formAddend_jumpCt_loaded_remain (s : State) (c : CT) (u : Int) : (formAddend (jumpCt (loaded s c) u)).lks.remain = 0 := by
  rw [formAddend_jumpCt_loaded]

theorem formAddend_jumpCt_loaded_ct (s : State) (c : CT) (u : Int) : (formAddend (jumpCt (loaded s c) u)).ct = c := by
  rw [formAddend_jumpCt_loaded]

/-- The edge after a load that is the only thing pending. -/
theorem exec_ctAdvance_of_load {sec ns : Nat} (hbase : s.lks.pendBase = none) (hlost : s.lks.pendLost = []) (hswitch : s.lks.pendSwitch = none)
    (hsnap : s.lks.pendSnap = false) (hload : s.lks.pendLoad = some (sec, ns)) :
    exec .ctAdvance s = .next (formAddend (jumpCt (loaded s (loadCt sec ns)) (loadJump s (loadCt sec ns)))) := by
  rw [exec_ctAdvance_plain hbase hlost hswitch hsnap, advanceCt_of_load hload]

/-- CT latched into LKS_SNAP. -/
def latched (s : State) : State :=
  setF (setF (setF s LKS_SNAP_SEC_SEC s.ct.sec.toNat) LKS_SNAP_NS_NS s.ct.ns.toNat) LKS_SNAP_FRAC_FRAC s.ct.frac.toNat

/-- The state in which a snapshot that waited has been latched. -/
def snapTaken (s : State) : State := { latched s with lks := { (latched s).lks with pendSnap := false } }

theorem applySnap_of_pending (h : s.lks.pendSnap = true) : applySnap s = snapTaken s := if_pos h

/-- The edge at which a snapshot, the only thing pending, is latched. -/
theorem exec_ctAdvance_of_snap (hbase : s.lks.pendBase = none) (hlost : s.lks.pendLost = []) (hswitch : s.lks.pendSwitch = none)
    (hsnap : s.lks.pendSnap = true) (hload : s.lks.pendLoad = none) :
    exec .ctAdvance s = .next (formAddend (snapTaken (atEdge s (CT.ofUnits (s.ct.units + s.lks.addend))))) := by
  have hedge : ∀ c, applySnap (applySwitch (applyLost (applyBase (atEdge s c)))) = snapTaken (atEdge s c) := fun c => by
    rw [applyBase_of_none (s := atEdge s c) hbase, applyLost_of_nil (s := atEdge s c) hlost, applySwitch_of_none (s := atEdge s c) hswitch,
      applySnap_of_pending (s := atEdge s c) hsnap]
  show execCtAdvance s = _
  rw [execCtAdvance, advanceCt_of_no_load hload, hedge]

theorem latched_ct (s : State) : (latched s).ct = s.ct := by simp [latched]

theorem regsBut_latched (s : State) : RegsBut s (latched s) [LKS_SNAP_SEC, LKS_SNAP_SEC + 4, LKS_SNAP_NS, LKS_SNAP_FRAC] := by
  have hsec := regsBut_setF_wide (s := s) (f := LKS_SNAP_SEC_SEC) s.ct.sec.toNat
  have hns := regsBut_setF (s := setF s LKS_SNAP_SEC_SEC s.ct.sec.toNat) (f := LKS_SNAP_NS_NS) s.ct.ns.toNat (by decide)
  have hfrac := regsBut_setF (s := setF (setF s LKS_SNAP_SEC_SEC s.ct.sec.toNat) LKS_SNAP_NS_NS s.ct.ns.toNat) (f := LKS_SNAP_FRAC_FRAC)
    s.ct.frac.toNat (by decide)
  exact regsBut_trans (regsBut_trans hsec hns (cs := [LKS_SNAP_SEC, LKS_SNAP_SEC + 4, LKS_SNAP_NS, LKS_SNAP_FRAC]) (by decide) (by decide))
    hfrac (List.Subset.refl _) (by decide)

/-- LKS_SNAP shows the CT latched. -/
theorem getF_latched (hwf : smWf regReset s.regs = true) :
    getF (latched s) LKS_SNAP_SEC_SEC = s.ct.sec.toNat ∧ getF (latched s) LKS_SNAP_NS_NS = s.ct.ns.toNat ∧
      getF (latched s) LKS_SNAP_FRAC_FRAC = s.ct.frac.toNat := by
  have hsec := setF_regs_wf LKS_SNAP_SEC_SEC s.ct.sec.toNat hwf
  have hns := setF_regs_wf LKS_SNAP_NS_NS s.ct.ns.toNat hsec
  unfold latched
  refine ⟨?_, ?_, ?_⟩
  · have hkept : ∀ (x : State) (g : Field) (v a : Nat), g.lo + g.w ≤ 32 → a ≠ g.addr → getR (setF x g v) a = getR x a :=
      fun _ _ _ _ hg ha => getR_setF_other ha (.inl hg)
    refine (getF_of_getR ?_ ?_).trans (getF_setF_whole64 (a := LKS_SNAP_SEC) s.ct.sec.isLt hwf)
    · rw [hkept _ _ _ _ (by decide) (by decide), hkept _ _ _ _ (by decide) (by decide)]
      rfl
    · rw [hkept _ _ _ _ (by decide) (by decide), hkept _ _ _ _ (by decide) (by decide)]
      rfl
  · rw [getF_setF_other _ (by decide) (by decide) hns (by decide), getF_setF_same _ (by decide) hsec]
    exact Nat.mod_eq_of_lt s.ct.ns.isLt
  · rw [getF_setF_same _ (by decide) hns]
    exact Nat.mod_eq_of_lt s.ct.frac.isLt

/-- What an edge that brings CT to c and latches it leaves. -/
theorem formAddend_snapTaken_atEdge (c : CT) (hwf : smWf regReset s.regs = true) : let u := formAddend (snapTaken (atEdge s c))
    u.ct = c ∧ u.lks.pendSnap = false ∧ getF u LKS_SNAP_SEC_SEC = u.ct.sec.toNat ∧ getF u LKS_SNAP_NS_NS = u.ct.ns.toNat ∧
      getF u LKS_SNAP_FRAC_FRAC = u.ct.frac.toNat ∧ RegsBut s u [LKS_SNAP_SEC, LKS_SNAP_SEC + 4, LKS_SNAP_NS, LKS_SNAP_FRAC] := by
  intro u
  have hregs : u.regs = (latched (atEdge s c)).regs := rfl
  have hct : u.ct = c := latched_ct (atEdge s c)
  obtain ⟨hsec, hns, hfrac⟩ := getF_latched (s := atEdge s c) hwf
  refine ⟨hct, rfl, ?_, ?_, ?_, fun a ha => ?_⟩
  · rw [getF_congr hregs, hsec, hct]
    rfl
  · rw [getF_congr hregs, hns, hct]
    rfl
  · rw [getF_congr hregs, hfrac, hct]
    rfl
  · rw [getR_congr hregs]
    exact regsBut_latched (atEdge s c) a ha

/-- The edge after a snapshot was asked for, with nothing else pending. -/
theorem ctAdvance_shows_snap (hwf : smWf regReset s.regs = true) (hbase : s.lks.pendBase = none) (hlost : s.lks.pendLost = [])
    (hswitch : s.lks.pendSwitch = none) (hsnap : s.lks.pendSnap = true) (hload : s.lks.pendLoad = none) :
    ∃ u, exec .ctAdvance s = .next u ∧ u.ct = CT.ofUnits (s.ct.units + s.lks.addend) ∧ u.lks.pendSnap = false ∧
      getF u LKS_SNAP_SEC_SEC = u.ct.sec.toNat ∧ getF u LKS_SNAP_NS_NS = u.ct.ns.toNat ∧ getF u LKS_SNAP_FRAC_FRAC = u.ct.frac.toNat ∧
      RegsBut s u [LKS_SNAP_SEC, LKS_SNAP_SEC + 4, LKS_SNAP_NS, LKS_SNAP_FRAC] :=
  ⟨_, exec_ctAdvance_of_snap hbase hlost hswitch hsnap hload, formAddend_snapTaken_atEdge _ hwf⟩

/-! ### CT_LOAD -/

/-- The load that waits for the next edge (R53). -/
def loadPending (s : State) : State :=
  { s with lks := { s.lks with pendLoad := some (getF s LKS_LOAD_SEC_SEC, min (getF s LKS_LOAD_NS_NS) 999999999) } }

theorem exec_ctLoad_unset (h : getF s LKS_STATUS_STATE = 0) : exec .ctLoad s = .next (setTimeState (loadPending s) 1) := by
  show execCtLoad s = _
  unfold execCtLoad
  dsimp only
  rw [if_pos (.inl h), if_pos h]
  rfl

theorem exec_ctLoad_step (h : getF s LKS_STATUS_STATE ≠ 0) (hstep : isF s LKS_CTL_STEP_EN = true ∧ s.plans = []) :
    exec .ctLoad s = .next (loadPending s) := by
  show execCtLoad s = _
  unfold execCtLoad
  dsimp only
  rw [if_pos (.inr hstep), if_neg h]
  rfl

theorem exec_ctLoad_refused (h : getF s LKS_STATUS_STATE ≠ 0) (hstep : isF s LKS_CTL_STEP_EN = false ∨ s.plans ≠ []) :
    exec .ctLoad s = .next (setF s LKS_STATUS_LOAD_REFUSED 1) := by
  have hno : ¬ (getF s LKS_STATUS_STATE = 0 ∨ isF s LKS_CTL_STEP_EN = true ∧ s.plans = []) := by
    rcases hstep with hstep | hstep <;> simp [h, hstep]
  show execCtLoad s = _
  unfold execCtLoad
  exact if_neg hno

/-- A load that is taken: the state becomes SET where it was UNSET. -/
theorem exec_ctLoad_taken (hwf : smWf regReset s.regs = true) (h : getF s LKS_STATUS_STATE = 0 ∨ (isF s LKS_CTL_STEP_EN = true ∧ s.plans = [])) :
    ∃ t, exec .ctLoad s = .next t ∧ OnlyRegs (loadPending s) t ∧ getF t LKS_STATUS_STATE = max 1 (getF s LKS_STATUS_STATE) ∧
      BitsBut s t LKS_STATUS_STATE ∧ RegsBut s t [LKS_STATUS] := by
  by_cases hunset : getF s LKS_STATUS_STATE = 0
  · refine ⟨_, exec_ctLoad_unset hunset, onlyRegs_showState _ _, ?_,
      bitsBut_showState (s := loadPending s) (f := LKS_STATUS_STATE) 1 769 (by decide) hwf,
      regsBut_showState (s := loadPending s) (f := LKS_STATUS_STATE) 1 769 (by decide)⟩
    rw [hunset]
    exact getF_showState_same (s := loadPending s) (f := LKS_STATUS_STATE) 769 (by decide) (by decide) hwf
  · exact ⟨_, exec_ctLoad_step hunset (h.resolve_left hunset), .refl _,
      (Nat.max_eq_right (Nat.pos_of_ne_zero hunset)).symm, fun _ _ _ => rfl, fun _ _ => rfl⟩

/-! ### SERVO_LOCK -/

/-- The servo of the domain locked, with its estimate. -/
def servoLockedAt (s : State) (d : Fin 2) (ps : Int) : State := setServo (setServoState s d 2) d (withOffset s (getServo s d) ps)

theorem setServo_eq_lks (s : State) (d : Fin 2) (v : Servo) : ∃ x : Servo × Servo, setServo s d v = { s with lks := { s.lks with servoA := x.1, servoB := x.2 } } := by
  unfold setServo
  split
  · exact ⟨(v, s.lks.servoB), rfl⟩
  · exact ⟨(s.lks.servoA, v), rfl⟩

theorem servoField_narrow (d : Fin 2) : (servoField d).lo + (servoField d).w ≤ 32 := by
  unfold servoField
  split <;> decide

theorem servoField_addr (d : Fin 2) : (servoField d).addr = LKS_SERVO_STAT := by
  unfold servoField
  split <;> rfl

theorem servoField_w (d : Fin 2) : (servoField d).w = 2 := by
  unfold servoField
  split <;> rfl

/-- A field of another register is apart from the servos' states. -/
theorem apart_servoField (d : Fin 2) {g : Field} (hg : g.lo + g.w ≤ 32) (haddr : g.addr ≠ LKS_SERVO_STAT) :
    Apart (servoField d) g ∧ Apart g (servoField d) := by
  have hd := servoField_narrow d
  have ha := servoField_addr d
  exact ⟨⟨hd, hg, .inl (ha ▸ haddr)⟩, hg, hd, .inl (ha ▸ haddr.symm)⟩

section ServoLockedAt

variable (s : State) (d : Fin 2) (ps : Int)

/-- The lock of a servo changes nothing but registers, interrupt sources and the servos. -/
theorem servoLockedAt_eq : ∃ x : Servo × Servo, servoLockedAt s d ps =
    { s with regs := (servoLockedAt s d ps).regs, ints := (servoLockedAt s d ps).ints, lks := { s.lks with servoA := x.1, servoB := x.2 } } := by
  have hstate : OnlyRegs s (setServoState s d 2) := onlyRegs_showState _ _
  obtain ⟨x, hx⟩ := setServo_eq_lks (setServoState s d 2) d (withOffset s (getServo s d) ps)
  refine ⟨x, ?_⟩
  unfold servoLockedAt
  rw [hx, hstate]

theorem onlyLks_servoLockedAt : OnlyLks s (servoLockedAt s d ps) := by
  obtain ⟨x, hx⟩ := servoLockedAt_eq s d ps
  unfold OnlyLks
  rw [hx]

theorem servoLockedAt_regs : (servoLockedAt s d ps).regs = (setServoState s d 2).regs := by
  obtain ⟨x, hx⟩ := setServo_eq_lks (setServoState s d 2) d (withOffset s (getServo s d) ps)
  unfold servoLockedAt
  rw [hx]

variable {s}

theorem servoLockedAt_regs_wf (hwf : smWf regReset s.regs = true) : smWf regReset (servoLockedAt s d ps).regs = true := by
  rw [servoLockedAt_regs]
  exact showState_regs_wf _ _ hwf

theorem getF_servoLockedAt_same (hwf : smWf regReset s.regs = true) : getF (servoLockedAt s d ps) (servoField d) = 2 := by
  rw [getF_congr (servoLockedAt_regs s d ps)]
  exact getF_showState_same _ (servoField_narrow d) (by rw [servoField_w]; decide) hwf

theorem getF_servoLockedAt_other {g : Field} (hg : g.lo + g.w ≤ 32) (haddr : g.addr ≠ LKS_SERVO_STAT) (hwf : smWf regReset s.regs = true) :
    getF (servoLockedAt s d ps) g = getF s g := by
  rw [getF_congr (servoLockedAt_regs s d ps)]
  exact getF_showState_other _ _ (apart_servoField d hg haddr).1 hwf

theorem regsBut_servoLockedAt : RegsBut s (servoLockedAt s d ps) [LKS_SERVO_STAT] := by
  intro a ha
  rw [getR_congr (servoLockedAt_regs s d ps)]
  exact regsBut_showState 2 _ (servoField_narrow d) a (by rwa [servoField_addr])

end ServoLockedAt

/-- The state LOCKED shown, and the frequency taken from SyncE where HYBRID asks for it. -/
def showLocked (s : State) : State := takeSynce (setTimeState s 2)

theorem onlyRegs_showLocked (s : State) : OnlyRegs s (showLocked s) := (onlyRegs_showState _ _).trans (onlyRegs_takeSynce _)

section ShowLocked

variable (hwf : smWf regReset s.regs = true)
include hwf

theorem getF_showLocked_state : getF (showLocked s) LKS_STATUS_STATE = 2 :=
  (getF_takeSynce_other (by unfold Apart; decide) (by unfold Apart; decide) (showState_regs_wf _ _ hwf)).trans
    (getF_showState_same 769 (by decide) (by decide) hwf)

theorem getF_showLocked_servo (d : Fin 2) : getF (showLocked s) (servoField d) = getF s (servoField d) :=
  have hstat : LKS_STATUS ≠ LKS_SERVO_STAT ∧ LKS_FADJ ≠ LKS_SERVO_STAT := by decide
  (getF_takeSynce_other (apart_servoField d (by decide) hstat.2).2 (apart_servoField d (by decide) hstat.1).2 (showState_regs_wf _ _ hwf)).trans
    (getF_showState_other 2 769 (apart_servoField d (by decide) hstat.1).2 hwf)

theorem regsBut_showLocked (h : isF s LKS_SYNCE_CTL_HYBRID = false) : RegsBut s (showLocked s) [LKS_STATUS] := by
  have hhybrid : isF (setTimeState s 2) LKS_SYNCE_CTL_HYBRID = false := by
    unfold isF at h ⊢
    rw [setTimeState_eq, getF_showState_other 2 769 (by unfold Apart; decide) hwf]
    exact h
  rw [showLocked, takeSynce_of_not_hybrid hhybrid]
  exact regsBut_showState (f := LKS_STATUS_STATE) 2 769 (by decide)

end ShowLocked

section ServoLock

variable {d : Fin 2} (ps : Int)

theorem exec_servoLock_disabled (h : isF s (LKS_SERVO_CTL_EN d.val) = false) : exec (.servoLock d ps) s = .next s := by
  show execServoLock d ps s = _
  unfold execServoLock
  rw [h]
  rfl

variable (hen : isF s (LKS_SERVO_CTL_EN d.val) = true)
include hen

theorem exec_servoLock_locked (h : getF s LKS_STATUS_STATE = 2) : exec (.servoLock d ps) s = .next (takeSynce (servoLockedAt s d ps)) := by
  show execServoLock d ps s = _
  unfold execServoLock
  dsimp only
  rw [if_neg (by simp [hen]), h, if_neg (by decide), if_pos rfl]
  rfl

/-- From a state that is neither UNSET nor LOCKED the offset becomes the remaining phase. -/
theorem exec_servoLock_slew (h0 : getF s LKS_STATUS_STATE ≠ 0) (h2 : getF s LKS_STATUS_STATE ≠ 2) : exec (.servoLock d ps) s =
    .next (showLocked { boundRemain (servoLockedAt s d ps) (unitsOfPs ps) with
      lks := { (boundRemain (servoLockedAt s d ps) (unitsOfPs ps)).lks with holdSince := none } }) := by
  show execServoLock d ps s = _
  unfold execServoLock
  dsimp only
  rw [if_neg (by simp [hen]), if_neg h0, if_neg h2]
  rfl

/-- The state in which the servo is locked and CT is at c, its tick and slot boundaries still to come. -/
def steppedTo (s : State) (c : CT) : State := { s with ct := c, lks := { s.lks with tickDone := false, slotDone := 0 } }

/-- From UNSET CT steps by the estimate. -/
theorem exec_servoLock_unset (h : getF s LKS_STATUS_STATE = 0) : exec (.servoLock d ps) s =
    .next (showLocked (jumpCt (steppedTo (servoLockedAt s d ps) (CT.ofUnits ((s.ct.units : Int) + unitsOfPs ps).toNat)) (unitsOfPs ps))) := by
  show execServoLock d ps s = _
  unfold execServoLock
  dsimp only
  rw [if_neg (by simp [hen]), if_pos h]
  rfl

end ServoLock

theorem boundRemain_remain (u : Int) :
    (boundRemain s u).lks = { s.lks with remain := clampInt (-(unitsOfPs 1000000000000)) (unitsOfPs 1000000000000) u } := by
  unfold boundRemain
  dsimp only
  split
  · rfl
  · rw [setF_lks]
    rfl

theorem boundRemain_eq (u : Int) : boundRemain s u = { s with lks := (boundRemain s u).lks, regs := (boundRemain s u).regs } := by
  unfold boundRemain
  dsimp only
  split
  · rfl
  · rw [setF_eq_regs]
    rfl

/-- The bound shows in the registers in PHASE_CLAMP alone. -/
theorem boundRemain_cases (u : Int) : (boundRemain s u).regs = s.regs ∨ (boundRemain s u).regs = (setF s LKS_STATUS_PHASE_CLAMP 1).regs := by
  unfold boundRemain
  dsimp only
  split
  · exact .inl rfl
  · exact .inr (by unfold setF; rfl)

section Locked

variable {d : Fin 2} (ps : Int) {z : State}

/-- What a state shows that has the registers of one in which the servo was locked, once LOCKED is shown. -/
theorem showLocked_servo (hwf : smWf regReset s.regs = true)
    (hz : z.regs = (servoLockedAt s d ps).regs ∨ z.regs = (setF (servoLockedAt s d ps) LKS_STATUS_PHASE_CLAMP 1).regs) :
    getF (showLocked z) LKS_STATUS_STATE = 2 ∧ servoLocked (showLocked z) d = true ∧
      (isF s LKS_SYNCE_CTL_HYBRID = false → RegsBut s (showLocked z) [LKS_STATUS, LKS_SERVO_STAT]) := by
  have hwfL := servoLockedAt_regs_wf d ps hwf
  have hkept : ∀ g : Field, g.lo + g.w ≤ 32 → g.addr ≠ LKS_STATUS → getF z g = getF (servoLockedAt s d ps) g := fun g hg haddr => by
    rcases hz with hz | hz
    · exact getF_congr hz g
    · rw [getF_congr hz]
      exact getF_setF_other _ (by decide) hg hwfL (.inl haddr)
  have hwfz : smWf regReset z.regs = true := by
    rcases hz with hz | hz
    · exact hz ▸ hwfL
    · exact hz ▸ setF_regs_wf _ _ hwfL
  have hstatus : RegsBut (servoLockedAt s d ps) z [LKS_STATUS] := fun a ha => by
    rcases hz with hz | hz
    · exact getR_congr hz a
    · rw [getR_congr hz]
      exact regsBut_setF (f := LKS_STATUS_PHASE_CLAMP) 1 (by decide) a ha
  have hservo : getF z (servoField d) = 2 := by
    rw [hkept _ (servoField_narrow d) (by rw [servoField_addr]; decide)]
    exact getF_servoLockedAt_same d ps hwf
  refine ⟨getF_showLocked_state hwfz, ?_, fun hhybrid => ?_⟩
  · rw [servoLocked, getF_showLocked_servo hwfz, hservo]
    rfl
  · have hz0 : isF z LKS_SYNCE_CTL_HYBRID = false := by
      unfold isF at hhybrid ⊢
      rwa [hkept _ (by decide) (by decide), getF_servoLockedAt_other d ps (by decide) (by decide) hwf]
    exact regsBut_trans (regsBut_trans (regsBut_servoLockedAt d ps) hstatus (cs := [LKS_STATUS, LKS_SERVO_STAT]) (by simp) (by simp))
      (regsBut_showLocked hwfz hz0) (List.Subset.refl _) (by simp)

variable (hwf : smWf regReset s.regs = true) (hen : isF s (LKS_SERVO_CTL_EN d.val) = true)
include hwf hen

theorem servoLock_unset (h : getF s LKS_STATUS_STATE = 0) :
    ∃ t, exec (.servoLock d ps) s = .next t ∧ t.ct = CT.ofUnits ((s.ct.units : Int) + unitsOfPs ps).toNat ∧ t.lks.remain = s.lks.remain ∧
      getF t LKS_STATUS_STATE = 2 ∧ servoLocked t d = true ∧ (isF s LKS_SYNCE_CTL_HYBRID = false → RegsBut s t [LKS_STATUS, LKS_SERVO_STAT]) ∧
      t = { s with ct := t.ct, lks := t.lks, regs := t.regs, ints := t.ints, pins := t.pins, delayLog := [] } := by
  rw [exec_servoLock_unset ps hen h]
  generalize CT.ofUnits ((s.ct.units : Int) + unitsOfPs ps).toNat = c
  have hjump := jumpCt_eq (steppedTo (servoLockedAt s d ps) c) (unitsOfPs ps)
  generalize jumpCt (steppedTo (servoLockedAt s d ps) c) (unitsOfPs ps) = z at hjump
  have hregs : z.regs = (servoLockedAt s d ps).regs := by
    rw [hjump]
    rfl
  have honlyz : OnlyTime (servoLockedAt s d ps) z := by
    unfold OnlyTime
    rw [hjump]
    rfl
  have honly := onlyRegs_showLocked z
  obtain ⟨hstate, hservo, hbut⟩ := showLocked_servo ps hwf (.inl hregs)
  obtain ⟨x, hx⟩ := servoLockedAt_eq s d ps
  refine ⟨_, rfl, ?_, ?_, hstate, hservo, hbut, ?_⟩
  · rw [honly.ct, hjump]
    rfl
  · rw [honly.lks, hjump]
    show (servoLockedAt s d ps).lks.remain = _
    rw [hx]
  · have htime : OnlyTime s (showLocked z) := (onlyLks_servoLockedAt s d ps).onlyTime.trans (honlyz.trans honly.onlyLks.onlyTime)
    have hlog : (showLocked z).delayLog = [] := by rw [honly, hjump]
    rw [OnlyTime, hlog] at htime
    exact htime

theorem servoLock_slew (h0 : getF s LKS_STATUS_STATE ≠ 0) (h2 : getF s LKS_STATUS_STATE ≠ 2) :
    ∃ t, exec (.servoLock d ps) s = .next t ∧
      t.lks.remain = clampInt (-(unitsOfPs 1000000000000)) (unitsOfPs 1000000000000) (unitsOfPs ps) ∧ t.lks.holdSince = none ∧
      getF t LKS_STATUS_STATE = 2 ∧ servoLocked t d = true ∧ (isF s LKS_SYNCE_CTL_HYBRID = false → RegsBut s t [LKS_STATUS, LKS_SERVO_STAT]) ∧
      t = { s with lks := t.lks, regs := t.regs, ints := t.ints } := by
  rw [exec_servoLock_slew ps hen h0 h2]
  have hlks := boundRemain_remain (s := servoLockedAt s d ps) (unitsOfPs ps)
  have hbound := boundRemain_eq (s := servoLockedAt s d ps) (unitsOfPs ps)
  have hcases := boundRemain_cases (s := servoLockedAt s d ps) (unitsOfPs ps)
  generalize boundRemain (servoLockedAt s d ps) (unitsOfPs ps) = y at hlks hbound hcases ⊢
  generalize hz : ({ y with lks := { y.lks with holdSince := none } } : State) = z
  have honly := onlyRegs_showLocked z
  obtain ⟨hstate, hservo, hbut⟩ := showLocked_servo (z := z) ps hwf (by rw [← hz]; exact hcases)
  obtain ⟨x, hx⟩ := servoLockedAt_eq s d ps
  refine ⟨_, rfl, ?_, ?_, hstate, hservo, hbut, ?_⟩
  · rw [honly.lks, ← hz]
    show y.lks.remain = _
    rw [hlks]
  · rw [honly.lks, ← hz]
  · have honlyz : OnlyLks y z := by
      rw [← hz]
      rfl
    have honlyy : OnlyLks (servoLockedAt s d ps) y := by
      unfold OnlyLks
      rw [hbound]
    exact (onlyLks_servoLockedAt s d ps).trans (honlyy.trans (honlyz.trans honly.onlyLks))

theorem servoLock_locked (h : getF s LKS_STATUS_STATE = 2) :
    ∃ t, exec (.servoLock d ps) s = .next t ∧ t.lks.remain = s.lks.remain ∧ getF t LKS_STATUS_STATE = 2 ∧ servoLocked t d = true ∧
      (isF s LKS_SYNCE_CTL_HYBRID = false → RegsBut s t [LKS_SERVO_STAT]) ∧ t = { s with lks := t.lks, regs := t.regs, ints := t.ints } := by
  rw [exec_servoLock_locked ps hen h]
  have hwfL := servoLockedAt_regs_wf d ps hwf
  have honly := onlyRegs_takeSynce (servoLockedAt s d ps)
  obtain ⟨x, hx⟩ := servoLockedAt_eq s d ps
  refine ⟨_, rfl, ?_, ?_, ?_, fun hhybrid => ?_, ?_⟩
  · rw [honly.lks, hx]
  · rw [getF_takeSynce_other (by unfold Apart; decide) (by unfold Apart; decide) hwfL, getF_servoLockedAt_other d ps (by decide) (by decide) hwf, h]
  · have hd := getF_takeSynce_other (g := servoField d) (apart_servoField d (by decide) (by decide)).2 (apart_servoField d (by decide) (by decide)).2 hwfL
    rw [servoLocked, hd, getF_servoLockedAt_same d ps hwf]
    rfl
  · have hL : isF (servoLockedAt s d ps) LKS_SYNCE_CTL_HYBRID = false := by
      unfold isF at hhybrid ⊢
      rwa [getF_servoLockedAt_other d ps (by decide) (by decide) hwf]
    rw [takeSynce_of_not_hybrid hL]
    exact regsBut_servoLockedAt d ps
  · exact (onlyLks_servoLockedAt s d ps).trans honly.onlyLks

end Locked

/-- Settles O11: CT_LOAD, SNAP_TAKE and SERVO_LOCK by the state of the clock, with the edge that follows the first two. -/
theorem timeIsSet : Obligations.TimeIsSet := by
  refine ⟨fun s hwf h => ?_, fun s hwf h hstep => ?_, fun s hwf hbase hlost hswitch hload => ?_,
    fun s d ps hwf hen => ⟨fun h hpos hlt => ?_, fun h0 h2 => servoLock_slew ps hwf hen h0 h2, fun h => servoLock_locked ps hwf hen h⟩,
    fun s d ps hen => exec_servoLock_disabled ps hen⟩
  · obtain ⟨t, hexec, honly, hstate, hbits, hregs⟩ := exec_ctLoad_taken hwf h
    have hlks : t.lks = (loadPending s).lks := honly.lks
    refine ⟨t, hexec, hlks, hstate, hbits, hregs, ?_, fun hbase hlost hswitch hsnap => ?_⟩
    · rw [hlks]
      exact honly
    · have hedge := exec_ctAdvance_of_load (s := t) (by rwa [hlks]) (by rwa [hlks]) (by rwa [hlks]) (by rwa [hlks]) (by rw [hlks]; rfl)
      exact ⟨_, hedge, formAddend_jumpCt_loaded_remain _ _ _, formAddend_jumpCt_loaded_ct _ _ _⟩
  · refine ⟨_, exec_ctLoad_refused h hstep, getF_setF_same _ (by decide) hwf, bitsBut_setF _ (by decide) hwf, regsBut_setF _ (by decide), setF_eq_regs _ _ _⟩
  · obtain ⟨u, hu⟩ := ctAdvance_shows_snap (s := { s with lks := { s.lks with pendSnap := true } }) hwf hbase hlost hswitch rfl hload
    exact ⟨_, u, rfl, rfl, hu⟩
  · obtain ⟨t, hexec, hct, hrest⟩ := servoLock_unset ps hwf hen h
    refine ⟨t, hexec, ?_, hrest⟩
    rw [hct, units_ofUnits (by omega), Int.toNat_of_nonneg hpos]

end Sys2Proof.Machine

/-! ## Clock source, phase and domain (spec/02_larkspur_time.md R55, R56, R75 to R79) -/

namespace Sys2Proof.Machine

open Sys2Proof.Safety

variable {s : State}

theorem exec_referenceLost {fi fr : Nat} (hfi : fi ≠ 0) (h : isF s LKS_STATUS_CLK_SRC = false) : exec (.referenceLost fi fr) s = .next
    { s with lks := { s.lks with pendBase := some ((roundDiv ((0x280000000000 : Int) * fr) fi).toNat % 2 ^ 48, true) } } := by
  show execReferenceLost fi fr s = _
  unfold execReferenceLost
  rw [if_neg (by simp [hfi, h])]

theorem exec_referenceGood (h : isF s LKS_STATUS_CLK_SRC = true) :
    exec .referenceGood s = .next { s with lks := { s.lks with pendBase := some (0x280000000000, false) } } := by
  show execReferenceGood s = _
  unfold execReferenceGood
  rw [if_pos h]

/-- One second in units of 2^-40 ns. -/
theorem unitsOfPs_second : unitsOfPs 1000000000000 = 1099511627776000000000 := by decide

theorem boundRemain_inside {x : Int} (h : x.natAbs ≤ (unitsOfPs 1000000000000).natAbs) :
    boundRemain s x = { s with lks := { s.lks with remain := x } } := by
  rw [unitsOfPs_second] at h
  have hclamp : clampInt (-(unitsOfPs 1000000000000)) (unitsOfPs 1000000000000) x = x := by
    rw [unitsOfPs_second, clampInt, if_neg (by omega), if_neg (by omega)]
  unfold boundRemain
  dsimp only
  rw [hclamp, if_pos rfl]
  rfl

theorem boundRemain_above {x : Int} (h : unitsOfPs 1000000000000 < x) :
    boundRemain s x = setF { s with lks := { s.lks with remain := unitsOfPs 1000000000000 } } LKS_STATUS_PHASE_CLAMP 1 := by
  have hclamp : clampInt (-(unitsOfPs 1000000000000)) (unitsOfPs 1000000000000) x = unitsOfPs 1000000000000 := by
    rw [unitsOfPs_second] at h ⊢
    rw [clampInt, if_neg (by omega), if_pos h]
  unfold boundRemain
  dsimp only
  rw [hclamp, if_neg h.ne]
  rfl

section ServoLost

variable {d : Fin 2} {t : Int} (hstate : getF s (servoField d) = 1 ∨ getF s (servoField d) = 2) (hsync : (getServo s d).lastSync = some t)
include hstate hsync

omit hstate in
theorem exec_servoLost_early (h : reached s (t + 3 * (getServo s d).annPs) = false) : exec (.servoLost d) s = .next s := by
  show execServoLost d s = _
  unfold execServoLost
  dsimp only
  rw [hsync]
  exact if_neg (by simp [h])

theorem exec_servoLost_due (h : reached s (t + 3 * (getServo s d).annPs) = true) : exec (.servoLost d) s = .next
    (if activeDom s = d ∧ isF s LKS_CTL_AUTO_SW = true ∧ servoLocked s (1 - d) = true ∧ s.lks.pendLost.contains (1 - d) = false then
      setF (commandSwitch { s with lks := { s.lks with pendLost := s.lks.pendLost ++ [d] } } (1 - d)) LKS_CTL_ACTIVE_DOM (1 - d).val
    else { s with lks := { s.lks with pendLost := s.lks.pendLost ++ [d] } }) := by
  have hother : (if d = 0 then 1 else 0 : Fin 2) = 1 - d := by fin_cases d <;> rfl
  show execServoLost d s = _
  unfold execServoLost
  dsimp only
  rw [hsync, hother]
  exact if_pos ⟨hstate, h⟩

end ServoLost

/-- The clock in holdover since now, with the state shown. -/
def inHoldover (s : State) : State := setTimeState { s with lks := { s.lks with holdSince := some (now s) } } 3

theorem holdoverIfNone_of_none (h2 : getF s LKS_STATUS_STATE = 2) (hA : servoLocked s 0 = false) (hB : servoLocked s 1 = false) :
    holdoverIfNone s = inHoldover s := if_pos ⟨h2, hA, hB⟩

/-- A single loss that waits is marked. -/
theorem applyLost_of_one {d : Fin 2} (hlost : s.lks.pendLost = [d]) :
    applyLost s = holdoverIfNone (setServoState { s with lks := { s.lks with pendLost := [] } } d 3) := by
  unfold applyLost
  rw [hlost]
  rfl

/-- The edge that marks the loss of a servo where no servo is locked then. -/
theorem edge_marks_loss {d : Fin 2} (c : CT) (hbase : s.lks.pendBase = none) (hlost : s.lks.pendLost = [d]) (hswitch : s.lks.pendSwitch = none)
    (hsnap : s.lks.pendSnap = false) :
    let a := { s with ct := c, subPs := 0, upCycles := s.upCycles + 1, lks := { s.lks with tickDone := false, slotDone := 0, pendLost := [] } }
    let x := setServoState a d 3
    getF x LKS_STATUS_STATE = 2 → servoLocked x 0 = false → servoLocked x 1 = false →
    applySnap (applySwitch (applyLost (applyBase (atEdge s c)))) = inHoldover x := by
  intro a x h2 hA hB
  have hmarked : applyLost (atEdge s c) = inHoldover x := (applyLost_of_one (s := atEdge s c) hlost).trans (holdoverIfNone_of_none h2 hA hB)
  have hx : OnlyRegs a x := onlyRegs_showState _ _
  have hlks : (inHoldover x).lks = { a.lks with holdSince := some (now x) } := by
    rw [inHoldover, setTimeState_eq, (onlyRegs_showState _ _).lks, hx.lks]
  rw [applyBase_of_none (s := atEdge s c) hbase, hmarked, applySwitch_of_none (by rw [hlks]; exact hswitch), applySnap_of_none (by rw [hlks]; exact hsnap)]

theorem exec_ctAdvance_no_load (hload : s.lks.pendLoad = none) : exec .ctAdvance s =
    .next (formAddend (applySnap (applySwitch (applyLost (applyBase (atEdge s (CT.ofUnits (s.ct.units + s.lks.addend)))))))) := by
  show execCtAdvance s = _
  rw [execCtAdvance, advanceCt_of_no_load hload]

theorem takeSynce_of_on (h : hybridOn s = true) (hlocked : servoLocked s (activeDom s) = true) : takeSynce s = writeFadj s s.lks.synceFadj :=
  if_pos ⟨h, hlocked⟩

theorem takeSynce_of_off (h : hybridOn s = false ∨ servoLocked s (activeDom s) = false) : takeSynce s = s :=
  if_neg (by rcases h with h | h <;> simp [h])

theorem exec_holdoverLimitExpiry {t : Int} (hsince : s.lks.holdSince = some t) (hstate : getF s LKS_STATUS_STATE = 3)
    (h : reached s (t + getF s LKS_HOLDOVER_LIM_SECONDS * psSec) = true) : exec .holdoverLimitExpiry s = .next (setTimeState s 4) := by
  show execHoldoverLimitExpiry s = _
  unfold execHoldoverLimitExpiry
  rw [hsince]
  exact if_pos ⟨hstate, h⟩

/-- Settles O12: one clause for each command, and the edge that marks a loss. -/
theorem clockSourceAndSlew : Obligations.ClockSourceAndSlew := by
  refine ⟨fun s fi fr => exec_referenceLost, fun s => exec_referenceGood, fun s v h => ?_, fun s v h => ?_, fun s d _ => rfl, ?servoLost, ?edge,
    fun s t => exec_holdoverLimitExpiry, fun s f => rfl, fun s f => ?synce⟩
  · exact congrArg Host.Outcome.next (boundRemain_inside h)
  · exact congrArg Host.Outcome.next (boundRemain_above h)
  case servoLost =>
    intro s d t hstate hsync
    refine ⟨exec_servoLost_early hsync, fun h hauto => ?_, fun h hact hauto hlocked hlost => ?_⟩
    · rw [exec_servoLost_due hstate hsync h, if_neg (by simp [hauto])]
    · rw [exec_servoLost_due hstate hsync h, if_pos ⟨hact, hauto, hlocked, hlost⟩]
  case edge =>
    intro s d hbase hlost hswitch hsnap hload a x h2 hA hB
    rw [exec_ctAdvance_no_load hload, edge_marks_loss _ hbase hlost hswitch hsnap h2 hA hB]
    rfl
  case synce =>
    exact ⟨fun hon hlocked => congrArg Host.Outcome.next (takeSynce_of_on hon hlocked), fun hoff => congrArg Host.Outcome.next (takeSynce_of_off hoff)⟩

end Sys2Proof.Machine

/-! ## The end of a lane's calibration (spec/02_larkspur_time.md R66; spec/11_lanes.md R420) -/

namespace Sys2Proof.Machine

open Sys2Proof.Safety

/-- Lane 0 is being calibrated while it has no lock. -/
def calibratingUnlocked : State := setLane State.reset 0 { cal := true }

/-- Without lock a calibration does not end. -/
theorem exec_laneCalibrationEnd_unlocked : exec (.laneCalibrationEnd 0) calibratingUnlocked = .next calibratingUnlocked := by
  have hlocked : laneLocked calibratingUnlocked 0 = false := by decide
  refine congrArg Host.Outcome.next (if_neg ?_)
  show ¬ ((getLane calibratingUnlocked 0).cal && laneLocked calibratingUnlocked 0 && _) = true
  simp [hlocked]

/-- Refutes O13: LANE_CALIBRATION_END of a lane that has no lock leaves its calibration under way. -/
theorem not_ptpMessagesTakeEffect : ¬ Obligations.PtpMessagesTakeEffect := by
  rintro ⟨-, -, -, -, -, -, -, -, -, hends, -⟩
  have hend := hends calibratingUnlocked 0 (by decide)
  rw [exec_laneCalibrationEnd_unlocked] at hend
  have hcal : (getLane calibratingUnlocked 0).cal = false := by
    rw [Host.Outcome.next.inj hend, getLane]
    simp only [setF_laneHw]
    decide
  exact absurd hcal (by decide)

end Sys2Proof.Machine

/-! ## Event pins (spec/02_larkspur_time.md R85, R91 to R96) -/

namespace Sys2Proof.Machine

open Sys2Proof.Safety

/-- A value other than the default is read back from any map. -/
theorem smGet_smPut_of_ne {α : Type} [DecidableEq α] (d : Nat → α) {k : Nat} {v : α} (hv : v ≠ d k) (m : SMap α) : smGet d (smPut d k v m) k = v := by
  induction m with
  | nil => simp [smPut, hv, smGet]
  | cons x t ih =>
    obtain ⟨a, w⟩ := x
    unfold smPut
    rw [if_neg hv]
    split
    · simp [smGet]
    · split
      · simp [smGet]
      · rename_i hlt heq
        simp [smGet, show a ≠ k by omega, ih]

variable {s : State} {n : Nat} {t : Int} {up : Bool}

/-- The pin with its level, since when, and its last edge. -/
def pinWithLevel (p : Pin) (up : Bool) (t : Int) : Pin :=
  if p.level = up then { p with edge := some t } else { p with level := up, since := t, edge := some t }

theorem pinWithLevel_window (p : Pin) (up : Bool) (t : Int) : (pinWithLevel p up t).window = p.window := by
  unfold pinWithLevel
  split <;> rfl

theorem pinWithLevel_ne_default (p : Pin) (up : Bool) (t : Int) : pinWithLevel p up t ≠ {} := by
  have hedge : (pinWithLevel p up t).edge = some t := by
    unfold pinWithLevel
    split <;> rfl
  intro h
  rw [h] at hedge
  exact absurd hedge.symm (Option.some_ne_none t)

/-- A level recorded changes the pins and the level register alone. -/
theorem pinSetLevel_eq (s : State) (n : Nat) (up : Bool) (t : Int) :
    pinSetLevel s n up t = { setPin s n (pinWithLevel (getPin s n) up t) with regs := (pinSetLevel s n up t).regs } := by
  unfold pinSetLevel pinWithLevel
  dsimp only
  split
  · exact setF_eq_regs _ _ _
  · split
    · exact setF_eq_regs _ _ _
    · exact setF_eq_regs _ _ _

theorem getPin_pinSetLevel : getPin (pinSetLevel s n up t) n = pinWithLevel (getPin s n) up t := by
  have hpins : (pinSetLevel s n up t).pins = (setPin s n (pinWithLevel (getPin s n) up t)).pins := by rw [pinSetLevel_eq]
  rw [getPin_congr hpins]
  exact smGet_smPut_of_ne _ (pinWithLevel_ne_default _ up t) s.pins

theorem pinExpire_of_no_window (t : Int) (h : (getPin s n).window = none) : pinExpire s n t = s := by
  unfold pinExpire
  rw [h]

/-- An edge that is detected at a pin outside its 200 ns acts, and is noted. -/
theorem pinComes_of_detects (hwindow : (getPin s n).window = none) (h : pinDetects s n (now s) = true) :
    pinComes s n up = pinNote s (pinEdge s n (now s) up) n (now s) up := by
  unfold pinComes
  dsimp only
  rw [if_pos h, pinExpire_of_no_window _ hwindow, pinExpire_of_no_window _ hwindow]

theorem pinEdge_unarmed (hwindow : (getPin s n).window = none) (h : pinArmed s n = false) : pinEdge s n t up = pinSetLevel s n up t := by
  unfold pinEdge
  dsimp only
  rw [pinExpire_of_no_window _ hwindow, pinExpire_of_no_window _ hwindow, if_pos (by simp [h])]

/-- An armed edge that qualifies at a pin that is not HELD in level mode is an event. -/
theorem pinEdge_event (hwindow : (getPin s n).window = none) (harm : pinArmed s n = true) (hqual : pinQualifies s n up = true)
    (hheld : ¬ (n < 16 ∧ pinLevelMode s n = true ∧ testF s EVT_HELD_HELD n = true)) :
    pinEdge s n t up = pinAccept (pinSetLevel s n up t) n t up false := by
  unfold pinEdge
  dsimp only
  rw [pinExpire_of_no_window _ hwindow, pinExpire_of_no_window _ hwindow, if_neg (by simp [harm]), getPin_pinSetLevel, pinWithLevel_window, hwindow]
  dsimp only
  rw [if_pos hqual, if_neg hheld]

theorem pinArmed_event (n : Fin 16) : pinArmed s n.val = isF s (EVT_PIN_CTL_ARM n.val) := if_neg (by omega)

theorem pinLevelMode_event (n : Fin 16) : pinLevelMode s n.val = isF s (EVT_PIN_CTL_LEVEL n.val) := if_neg (by omega)

/-- A level recorded leaves the event FIFO. -/
theorem pinSetLevel_evtFifo : (pinSetLevel s n up t).evtFifo = s.evtFifo := by rw [pinSetLevel_eq, setPin_evtFifo]

theorem pinSetLevel_pins_wf (hwf : smWf (fun _ => ({} : Pin)) s.pins = true) : smWf (fun _ => ({} : Pin)) (pinSetLevel s n up t).pins = true := by
  rw [pinSetLevel_eq]
  exact smWf_smPut _ _ _ _ hwf

/-- What the edge that ends a pulse of less than 2 ns takes back before the level of now is recorded. -/
def pinTakeBack (s : State) (n : Nat) (u : PinUndo) : State :=
  let s1 := match u.entry with
    | some e => { s with evtFifo := s.evtFifo.erase e, out := s.out.filter fun o => o != .pxEvent 0 e && o != .pxEvent 1 e }
    | none => s
  let s2 := setInt (setF s1 (EVT_OVR_COUNT n) u.ovr) (pinSrc n) u.src
  if u.entry.isNone && u.lost != getF s EVT_FIFO_STAT_LOST then setInt (setF s2 EVT_FIFO_STAT_LOST u.lost) 789 u.lostSrc else s2

theorem pinTakeBack_fields (s : State) (n : Nat) (u : PinUndo) :
    (pinTakeBack s n u).evtFifo = (match u.entry with | some e => s.evtFifo.erase e | none => s.evtFifo) ∧ (pinTakeBack s n u).pins = s.pins := by
  unfold pinTakeBack
  dsimp only
  cases u.entry <;> split <;> simp

theorem pinUndo_of_some {u : PinUndo} (h : (getPin s n).undo = some u) : pinUndo s n t up =
    setPin (pinSetLevel (pinTakeBack s n u) n up t) n
      { level := up, since := if up = u.level then u.since else t, edge := u.edge, window := u.window } := by
  unfold pinUndo
  rw [h]
  rfl

/-- The edge that ends a pulse of less than 2 ns: its first edge's entry is gone, and the pin's hold and 200 ns are those of before it (R92). -/
theorem pinUndo_restores {u : PinUndo} (h : (getPin s n).undo = some u) (hwf : smWf (fun _ => ({} : Pin)) s.pins = true) :
    (pinUndo s n t up).evtFifo = (match u.entry with | some e => s.evtFifo.erase e | none => s.evtFifo) ∧
      getPin (pinUndo s n t up) n = { level := up, since := if up = u.level then u.since else t, edge := u.edge, window := u.window } := by
  obtain ⟨hfifo, hpins⟩ := pinTakeBack_fields s n u
  rw [pinUndo_of_some h]
  exact ⟨by rw [setPin_evtFifo, pinSetLevel_evtFifo, hfifo], getPin_setPin_same _ _ _ (pinSetLevel_pins_wf (by rwa [hpins]))⟩

theorem pinComes_of_not_detects (h : pinDetects s n (now s) = false) : pinComes s n up = pinUndo s n (now s) up :=
  if_neg (by simp [h])

/-- The 200 ns end without an edge in them. -/
theorem pinCloseWindow_no_edge {w : PinWindow} (hwindow : (getPin s n).window = some w) (hlast : w.last = none) :
    pinCloseWindow s n = setPin s n { getPin s n with window := none } := by
  unfold pinCloseWindow
  dsimp only
  rw [hwindow]
  dsimp only
  rw [hlast]

/-- Settles O14: the edges by what the pin makes of them, then the ends of its intervals and the clear commands. -/
theorem eventPinsTimestamp : Obligations.EventPinsTimestamp := by
  refine ⟨?event, ?unarmed, ?undone, ?pps, ?windowEnds, ?held, ?rearmed, ?pop, fun s => rfl, fun s n => rfl⟩
  case event =>
    intro s n dt up harm hwindow hqual hheld hdet x
    refine congrArg Host.Outcome.next ((pinComes_of_detects (s := x) hwindow hdet).trans ?_)
    rw [pinEdge_event (s := x) hwindow ((pinArmed_event n).trans harm) hqual]
    rintro ⟨-, hlevel, htest⟩
    rw [pinLevelMode_event] at hlevel
    rcases hheld with h | h
    · exact absurd (htest.symm.trans h) (by decide)
    · exact absurd (hlevel.symm.trans h) (by decide)
  case unarmed =>
    intro s n dt up harm hwindow hdet x
    refine congrArg Host.Outcome.next ((pinComes_of_detects (s := x) hwindow hdet).trans ?_)
    rw [pinEdge_unarmed (s := x) hwindow ((pinArmed_event n).trans harm)]
  case undone =>
    intro s n dt up hdet x
    have hexec : exec (.eventPinEdge n dt up) s = .next (pinUndo x n.val (now x) up) := congrArg Host.Outcome.next (pinComes_of_not_detects hdet)
    refine ⟨fun hnone => ?_, fun u hu hwf => ⟨_, hexec, pinUndo_restores (s := x) hu hwf⟩⟩
    rw [hexec, pinUndo, show (getPin x n.val).undo = none from hnone]
  case pps =>
    intro s dt harm hwindow hdet x
    refine congrArg Host.Outcome.next ((pinComes_of_detects (s := x) hwindow hdet).trans ?_)
    rw [pinEdge_event (s := x) (n := 16) hwindow harm rfl (by omega)]
  case windowEnds =>
    intro s n w hwindow hlast h
    show execCoalesceIntervalEnd n s = _
    unfold execCoalesceIntervalEnd
    rw [hwindow]
    exact congrArg Host.Outcome.next ((if_pos h).trans (pinCloseWindow_no_edge hwindow hlast))
  case held =>
    intro s n harm hlevel hactive hheld h
    exact congrArg Host.Outcome.next (if_pos ⟨(pinArmed_event n).trans harm, (pinLevelMode_event n).trans hlevel, hactive, hheld, h⟩)
  case rearmed =>
    intro s n hheld hinactive h
    exact congrArg Host.Outcome.next (if_pos ⟨hheld, hinactive, h⟩)
  case pop =>
    intro s e r h
    show Host.Outcome.next { s with evtFifo := s.evtFifo.tail } = _
    rw [h, List.tail_cons]

end Sys2Proof.Machine

/-! ## The scheduling tick and the slot boundaries (spec/02_larkspur_time.md R61, R62, R71) -/

namespace Sys2Proof.Machine

open Sys2Proof.Safety

variable {s : State} {t : Int}

theorem testBit_add_two_pow {x q : Nat} (h : x.testBit q = false) (r : Nat) : (x + 2 ^ q).testBit r = if r = q then true else x.testBit r := by
  have hput : putBits x q 1 1 = x + 2 ^ q := by
    have hbit : bitsOf x q 1 = 0 := by
      refine Nat.eq_of_testBit_eq fun i => ?_
      rw [testBit_bitsOf, Nat.zero_testBit]
      by_cases hi : i < 1
      · rw [Nat.lt_one_iff.mp hi, Nat.add_zero, h, Bool.and_false]
      · simp [hi]
    rw [putBits, hbit]
    omega
  rw [← hput, testBit_putBits]
  by_cases hr : r = q
  · subst hr
    rw [if_pos (by omega), if_pos rfl, Nat.sub_self]
    rfl
  · rw [if_neg (by omega), if_neg hr]

/-- An instant of the cycle is reached without a bound. -/
theorem now_atInstant (hfrom : ctPs s ≤ t) (h : reached s t = true) : now (atInstant s t) = max (now s) t := by
  have hcycle : (t - ctPs s).toNat ≤ cyclePs s := by
    simp only [reached, decide_eq_true_eq] at h
    simp only [cyclePs, ctPs] at hfrom ⊢
    have hend : t + 1 ≤ ((ceilDiv ((s.ct.units + s.lks.addend) * 1000) (2 ^ 40) : Nat) : Int) := by
      unfold ceilDiv
      omega
    omega
  show ctPs s + ((max s.subPs (min (t - ctPs s).toNat (cyclePs s)) : Nat) : Int) = max (ctPs s + s.subPs) t
  rw [min_eq_left hcycle]
  omega

theorem atInstant_eq (s : State) (t : Int) : atInstant s t = { s with subPs := (atInstant s t).subPs } := rfl

theorem reached_of_inCycle (h : inCycle s t = true) : ctPs s ≤ t ∧ reached s t = true := by
  simpa [inCycle] using h

/-- The tick of the cycle is the multiple of 250 ns in it. -/
theorem nextTick_eq (hgrid : t % 250000 = 0) (hfrom : ctPs s ≤ t) (hto : t < ctPs s + 250000) : nextTick s = t := by
  unfold nextTick nextMultiple
  omega

/-- Settles O15: each instant, inside its cycle and outside. -/
theorem gridInstantsBring : Obligations.GridInstantsBring := by
  refine ⟨?tick, ?quadrant, ?carrier, fun s => ⟨fun h => ?tickOutside, fun q h => ?quadrantOutside, fun n h => ?carrierOutside⟩⟩
  case tick =>
    intro s t hgrid hfrom hto hreached hdone
    refine ⟨{ atInstant s t with lks := { (atInstant s t).lks with tickDone := true } }, rfl, now_atInstant hfrom hreached, ?_⟩
    have hin : ¬ (inCycle s t = false ∨ s.lks.tickDone = true) := by simp [inCycle, hfrom, hreached, hdone]
    show execSchedulingTick s = _
    unfold execSchedulingTick
    rw [nextTick_eq hgrid hfrom hto]
    exact if_neg hin
  case quadrant =>
    intro s q t ht hcycle hdark hdone
    obtain ⟨hfrom, hreached⟩ := reached_of_inCycle hcycle
    refine ⟨{ atInstant s t with lks := { (atInstant s t).lks with slotDone := (atInstant s t).lks.slotDone + 2 ^ q.val } }, rfl,
      now_atInstant hfrom hreached, (testBit_add_two_pow hdone _).trans (if_pos rfl), fun r hr => (testBit_add_two_pow hdone r).trans (if_neg hr), ?_⟩
    show execQuadrantSlotBoundary q s = _
    unfold execQuadrantSlotBoundary
    rw [ht]
    exact if_neg (by simp [hcycle, hdark, hdone])
  case carrier =>
    intro s n t ht hcycle
    obtain ⟨hfrom, hreached⟩ := reached_of_inCycle hcycle
    refine ⟨atInstant s t, atInstant_eq s t, now_atInstant hfrom hreached, ?_⟩
    show execCarrierSlotBoundary n s = _
    unfold execCarrierSlotBoundary
    rw [ht]
    exact if_neg (by simp [hcycle])
  case tickOutside =>
    show execSchedulingTick s = _
    unfold execSchedulingTick
    exact if_pos h
  case quadrantOutside =>
    show execQuadrantSlotBoundary q s = _
    unfold execQuadrantSlotBoundary
    refine if_pos ?_
    rcases h with h | h | h
    · exact .inl h
    · exact .inr (.inr h)
    · exact .inr (.inl h)
  case carrierOutside =>
    show execCarrierSlotBoundary n s = _
    unfold execCarrierSlotBoundary
    exact if_pos h

end Sys2Proof.Machine

/-! ## Doorbells and rings (O16) -/

namespace Sys2Proof.Machine
open Sys2Proof.Safety

theorem now_le_now_atDt (s : State) (dt : Nat) : now s ≤ now (atDt s dt) := by
  have hsub : s.subPs ≤ (atDt s dt).subPs := Nat.le_max_left _ _
  have hct : ctPs (atDt s dt) = ctPs s := rfl
  unfold now
  omega

theorem clampIf_false (s : State) (r op f : Nat) : clampIf s r op f false = s := rfl

/-- A tail inside the ring is taken as written, without a clamp. -/
theorem exec_cmdTailWrite_of_lt {s : State} {r : Fin 256} {v : Word} {dt : Nat} (hup : s.linkHeld ≤ now (atDt s dt)) (hen : ringEn s r.val = true)
    (hv : v.toNat < cmdSize s r.val) :
    exec (.cmdTailWrite r v 15 dt) s = .next (setRing (atDt s dt) r.val { getRing s r.val with
      cmdTail := v.toNat
      stamps := (getRing s r.val).stamps.take ((v.toNat + cmdSize s r.val - (getRing s r.val).cmdHead) % cmdSize s r.val) ++
        List.replicate ((v.toNat + cmdSize s r.val - (getRing s r.val).cmdHead) % cmdSize s r.val - (getRing s r.val).stamps.length) (now (atDt s dt)) }) := by
  have hmin : min v.toNat (cmdSize s r.val - 1) = v.toNat := by omega
  show execCmdTailWrite r v 15 dt s = _
  unfold execCmdTailWrite
  dsimp only
  rw [if_neg (by omega), if_neg (by simp), if_neg (by simp [hen]), hmin, bne_self_eq_false, clampIf_false]

/-- A head within the used entries is taken as written, without a clamp. -/
theorem exec_cqHeadWrite_of_le {s : State} {r : Fin 256} {v : Word} (hup : s.linkHeld ≤ now s) (hen : ringEn s r.val = true) (hv : v.toNat < cqSize s r.val)
    (hused : (v.toNat + cqSize s r.val - (getRing s r.val).cqHead) % cqSize s r.val ≤ cqUsed s r.val) :
    exec (.cqHeadWrite r v 15) s = .next (setRing s r.val { getRing s r.val with cqHead := v.toNat }) := by
  have hmin : min v.toNat (cqSize s r.val - 1) = v.toNat := by omega
  show execCqHeadWrite r v 15 s = _
  unfold execCqHeadWrite
  dsimp only
  rw [if_neg (by omega), if_neg (by simp), if_neg (by simp [hen]), hmin, if_neg (by omega), bne_self_eq_false, clampIf_false]

/-- Settles O16: each clause follows the branches of its command. -/
theorem doorbellsAndRings : Obligations.DoorbellsAndRings := by
  unfold Obligations.DoorbellsAndRings
  refine ⟨?tail, ?part, ?held, ?head, ?fetch, ?enable, ?disable, ?dark, ?drain⟩
  case tail => exact fun s r v dt hup hen hv => exec_cmdTailWrite_of_lt hup hen hv
  case part =>
    intro s r v be dt hbe hup
    have hup' : s.linkHeld ≤ now (atDt s dt) := by have := now_le_now_atDt s dt; omega
    constructor
    · show execCmdTailWrite r v be dt s = _
      unfold execCmdTailWrite
      rw [if_neg (by omega), if_pos hbe]
      rfl
    · show execCqHeadWrite r v be s = _
      unfold execCqHeadWrite
      rw [if_neg (by omega), if_pos hbe]
      rfl
  case held =>
    intro s r v be dt hheld
    have hheld' : now s < s.linkHeld := by have := now_le_now_atDt s dt; omega
    exact ⟨if_pos hheld, if_pos hheld'⟩
  case head => exact fun s r v hup hen hv hused => exec_cqHeadWrite_of_le hup hen hv hused
  case fetch =>
    intro s r dt a hen hvis hadm haddr hbad
    have hgo : ¬ (ringEn s r.val = false ∨ (getRing s r.val).badBase = true ∨ visibleWords s r.val = 0 ∨ isF s (ADM_CTL_EN (r.val / 64)) = false) := by
      simp [hen, hvis, hadm, hbad]
    constructor
    · intro x hx
      show execCommandFetch r dt s = _
      unfold execCommandFetch
      dsimp only
      rw [if_neg hgo, haddr]
      dsimp only
      rw [hx]
    · intro hfree hact hneed
      show execCommandFetch r dt s = _
      unfold execCommandFetch
      dsimp only
      rw [if_neg hgo, haddr]
      dsimp only
      rw [hfree]
      dsimp only
      rw [if_neg (by simp [hact]), if_neg (fun h => hneed h.1 h.2)]
  case enable =>
    intro s r hlive hen hdr
    show execRingEnable r s = _
    unfold execRingEnable enableRing
    rw [if_pos hlive, if_neg (by simp [hen, hdr])]
  case disable =>
    intro s r hlive hen
    show execRingDisable r s = _
    unfold execRingDisable
    rw [if_pos (by simp [hlive, hen])]
  case dark =>
    intro s r hdark
    constructor
    · show execRingEnable r s = _
      unfold execRingEnable
      rw [if_neg (by simp [hdark])]
    · show execRingDisable r s = _
      unfold execRingDisable
      rw [if_neg (by simp [hdark])]
  case drain =>
    intro s r hen hdr hdone
    exact congrArg Host.Outcome.next (if_pos ⟨hen, hdr, hdone⟩)

end Sys2Proof.Machine

/-! ## The command words of jobs, fences and signals (O17) -/

namespace Sys2Proof.Machine
open Sys2Proof.Safety

/-- The word at the front of the reader, where its opcode is the command's, is taken and acted on. -/
theorem takeCmd_front {s : State} {r : Nat} {w : CmdWord} {rest : List CmdWord} {p : Nat → Bool} (f : State → CmdWord → State) (hw : (getRing s r).words = w :: rest)
    (hp : p (opcodeOf w.bits) = true) : takeCmd s r p f = .next (f (setRing s r { getRing s r with words := rest }) w) := by
  unfold takeCmd
  rw [hw]
  exact if_pos hp

/-- A field that is taken as written counts no clamp. -/
theorem clampIf_bne_of_eq {a b : Nat} (h : a = b) (s : State) (r op f : Nat) : clampIf s r op f (a != b) = s := by
  rw [h, bne_self_eq_false]
  exact clampIf_false s r op f

/-- An opcode of 14 or more reserves no completion entry. -/
theorem needsEntry_of_reserved {op : Nat} (h : 14 ≤ op) : needsEntry op = false := by
  unfold needsEntry
  exact decide_eq_false (by omega)

/-- A TASK whose fields are in range is added exactly as given. -/
theorem exec_task_of_fields {s : State} {r : Fin 256} {w : CmdWord} {rest : List CmdWord} (hw : (getRing s r.val).words = w :: rest) (hop : opcodeOf w.bits = 2)
    (hkind : cwf w 4 0 3 ≠ 7) (hin : cwf w 12 0 4 ≤ cwf w 12 4 4) (hout : cwf w 12 8 4 ≤ cwf w 12 12 4) (hcost : cwf w 16 0 32 ≤ 1073741824) (x : State)
    (hx : x = setRing s r.val { getRing s r.val with words := rest }) (hinLast : cwf w 12 4 4 ≤ jobLastSym x r.val) (houtLast : cwf w 12 12 4 ≤ jobLastSym x r.val)
    (hopen : jobIsOpen x r.val = true) (hroom : openTasks x r.val < 1024) :
    exec (.task r) s = .next (addToJob x r.val fun j => { j with tasks := j.tasks ++
      [{ kind := cwf w 4 0 3, win := cwf w 4 16 12, prog := cwf w 8 0 12, inFirst := cwf w 12 0 4, inLast := cwf w 12 4 4, outFirst := cwf w 12 8 4,
         outLast := cwf w 12 12 4, inEn := cwf w 12 16 1 == 1, outEn := cwf w 12 17 1 == 1, cost := cwf w 16 0 32,
         args := [cwf w 20 0 32, cwf w 24 0 32, cwf w 28 0 32, cwf w 32 0 32], at_ := none }] }) := by
  have hinF : min (cwf w 12 0 4) (jobLastSym x r.val) = cwf w 12 0 4 := by omega
  have hinL : max (cwf w 12 0 4) (min (cwf w 12 4 4) (jobLastSym x r.val)) = cwf w 12 4 4 := by omega
  have houtF : min (cwf w 12 8 4) (jobLastSym x r.val) = cwf w 12 8 4 := by omega
  have houtL : max (cwf w 12 8 4) (min (cwf w 12 12 4) (jobLastSym x r.val)) = cwf w 12 12 4 := by omega
  have hc : min (cwf w 16 0 32) 1073741824 = cwf w 16 0 32 := by omega
  show execTask r s = _
  unfold execTask
  rw [takeCmd_front _ hw (by rw [hop]; rfl), ← hx, if_neg (by simp [hopen, hkind]; omega)]
  dsimp only
  simp only [hinF, hinL, houtF, houtL, hc, clampIf_bne_of_eq]

/-- Settles O17: each command takes its word and finds every field in range. -/
theorem commandWordsAct : Obligations.CommandWordsAct := by
  unfold Obligations.CommandWordsAct
  refine ⟨?nop, ?reserved, ?jobOpen, ?task, ?edge, ?atTime, ?jobClose, ?every, ?cancel, ?fence, ?signal⟩
  case nop =>
    intro s r w rest hw hop x
    show execNop r s = _
    unfold execNop
    rw [takeCmd_front _ hw (by rw [hop]; rfl), if_pos hop]
  case reserved =>
    intro s r w rest hw hop x
    show execNop r s = _
    unfold execNop nopCmd
    rw [takeCmd_front _ hw (by simp [hop]), if_neg (by omega), needsEntry_of_reserved hop, if_neg Bool.false_ne_true]
  case jobOpen =>
    intro s r w rest hw hop hci hdl x hclosed
    have hci' : min (cwf w 4 0 10) 511 = cwf w 4 0 10 := by omega
    have hdl' : min (cwf w 16 0 32) 16000000 = cwf w 16 0 32 := by omega
    show execJobOpen r s = _
    unfold execJobOpen
    rw [takeCmd_front _ hw (by rw [hop]; rfl)]
    dsimp only
    rw [if_neg (by simpa using hclosed)]
    simp only [hci', hdl', clampIf_bne_of_eq]
    rfl
  case task =>
    intro s r w rest hw hop hkind hin hout hcost x hinLast houtLast hopen hroom
    exact exec_task_of_fields hw hop hkind hin hout hcost x rfl hinLast houtLast hopen hroom
  case edge =>
    intro s r w rest hw hop x hopen hroom
    have hgo : ¬ (jobIsOpen x r.val = false ∨ 4096 ≤ openEdges x r.val) := by
      rw [hopen]
      simp
      omega
    show execEdge r s = _
    unfold execEdge
    rw [takeCmd_front _ hw (by rw [hop]; rfl), if_neg hgo]
  case atTime =>
    intro s r w rest hw hop x hopen
    show execAt r s = _
    unfold execAt
    rw [takeCmd_front _ hw (by rw [hop]; rfl), if_neg (by simpa using hopen)]
  case jobClose =>
    intro s r w rest hw hop x hopen
    show execJobClose r s = _
    unfold execJobClose
    rw [takeCmd_front _ hw (by rw [hop]; rfl), if_pos hopen]
  case every =>
    intro s r w rest hw hop hper hfirst x hclosed hroom hlive
    have hfirst' : min (cwf w 12 0 32) 999999999 = cwf w 12 0 32 := by omega
    have hgo : ¬ (jobIsOpen x r.val = true ∨ 16 ≤ (getRing x r.val).items.length ∨ 2097152 ≤ liveNodes x (r.val / 64)) := by
      rw [hclosed]
      simp
      omega
    show execEvery r s = _
    unfold execEvery
    rw [takeCmd_front _ hw (by rw [hop]; rfl)]
    dsimp only
    rw [if_neg hgo]
    simp only [hper, hfirst', clampIf_bne_of_eq]
    rfl
  case cancel =>
    intro s r w rest hw hop hci hscope x hclosed
    have hci' : min (cwf w 4 0 10) 511 = cwf w 4 0 10 := by omega
    show execCancel r s = _
    unfold execCancel
    rw [takeCmd_front _ hw (by rw [hop]; rfl), if_neg (by simpa using hclosed)]
    dsimp only
    rw [if_pos hscope]
    simp only [hci', clampIf_bne_of_eq]
    rfl
  case fence =>
    intro s r w rest hw hop hkind x hclosed
    have hkind' : min (cwf w 4 0 2) 2 = cwf w 4 0 2 := by omega
    show execFence r s = _
    unfold execFence
    rw [takeCmd_front _ hw (by rw [hop]; rfl), if_neg (by simpa using hclosed)]
    simp only [hkind', clampIf_bne_of_eq]
    rfl
  case signal =>
    intro s r w rest hw hop x hclosed
    show execSignal r s = _
    unfold execSignal
    rw [takeCmd_front _ hw (by rw [hop]; rfl), if_neg (by simpa using hclosed)]

end Sys2Proof.Machine

/-! ## Records written to a completion queue (spec/04_dahlia.md R145, R146) -/

namespace Sys2Proof.Machine
open Sys2Proof.Safety

section Maps

variable {α : Type} [DecidableEq α] {d : Nat → α}

theorem smPut_below {k a : Nat} (v : α) {m : SMap α} (h : smWfFrom d (some a) m = true) (hk : k ≤ a) : smPut d k v m = if v = d k then m else (k, v) :: m := by
  cases m with
  | nil => rfl
  | cons x t =>
    obtain ⟨b, w⟩ := x
    simp only [smWfFrom, Bool.and_eq_true, decide_eq_true_eq] at h
    have hkb : k < b := by omega
    simp only [smPut, if_pos hkb]

/-- Of two writes of one key the later stays. -/
theorem smPut_smPut_same {k : Nat} (v w : α) {lo : Option Nat} {m : SMap α} (h : smWfFrom d lo m = true) : smPut d k v (smPut d k w m) = smPut d k v m := by
  induction m generalizing lo with
  | nil =>
    by_cases hw : w = d k
    · simp [smPut, hw]
    · simp [smPut, hw]
  | cons x t ih =>
    obtain ⟨a, y⟩ := x
    simp only [smWfFrom, Bool.and_eq_true] at h
    obtain ⟨-, ht⟩ := h
    rcases Nat.lt_trichotomy k a with hka | rfl | hka
    · by_cases hw : w = d k
      · simp [smPut, hw, hka]
      · simp [smPut, hw, hka]
    · by_cases hw : w = d k
      · simp [smPut, hw, smPut_below v ht]
      · simp [smPut, hw]
    · have hlt : ¬ k < a := by omega
      have hne : k ≠ a := by omega
      simp [smPut, hlt, hne, ih ht]

end Maps

section Regs

variable {s t : State}

theorem cqSize_congr (h : t.regs = s.regs) (r : Nat) : cqSize t r = cqSize s r := by unfold cqSize; rw [getF_congr h]

theorem getR64_congr (h : t.regs = s.regs) (a : Nat) : getR64 t a = getR64 s a := by unfold getR64 getR; rw [h]

theorem winHolds_congr (h : t.regs = s.regs) (q n page : Nat) : winHolds t q n page = winHolds s q n page := by
  unfold winHolds
  rw [isF_congr h, getF_congr h, getF_congr h]

theorem firstWin_congr (h : t.regs = s.regs) (q page n m : Nat) : firstWin t q page n m = firstWin s q page n m := by
  induction m generalizing n with
  | zero => rfl
  | succ m ih =>
    unfold firstWin
    rw [winHolds_congr h, ih]

/-- The checks of an address depend on the registers only. -/
theorem checkRange_congr (h : t.regs = s.regs) (q : Nat) (ag : Agent) (a f len : Nat) (write : Bool) :
    checkRange t q ag a f len write = checkRange s q ag a f len write := by
  unfold checkRange physOf cacheOk
  simp only [isF_congr h, getF_congr h, getR_congr h, firstWin_congr h]

theorem checkAddr_congr (h : t.regs = s.regs) (q : Nat) (ag : Agent) (a len : Nat) (write : Bool) : checkAddr t q ag a len write = checkAddr s q ag a len write :=
  checkRange_congr h q ag a 0 len write

theorem getRing_congr (h : t.rings = s.rings) (r : Nat) : getRing t r = getRing s r := by unfold getRing; rw [h]

theorem setRing_rings_congr (h : t.rings = s.rings) (r : Nat) (x : Ring) : (setRing t r x).rings = (setRing s r x).rings := by unfold setRing; rw [h]

theorem sfGet_congr (h : t.sf = s.sf) (q line : Nat) : sfGet t q line = sfGet s q line := by unfold sfGet; rw [h]

theorem snoopNeeded_congr (h : t.sf = s.sf) (q line : Nat) (write : Bool) (n : Nat) : snoopNeeded t q line write n = snoopNeeded s q line write n := by
  induction n generalizing line with
  | zero => rfl
  | succ n ih =>
    unfold snoopNeeded
    rw [sfGet_congr h, ih]

theorem waitsFor_congr (h : t.sf = s.sf) (a len : Nat) (write : Bool) : waitsFor t a len write = waitsFor s a len write := by
  unfold waitsFor
  simp only [snoopNeeded_congr h]

/-- Counting one on a narrow field: it saturates. -/
theorem getF_addF_one {f : Field} (h : f.lo + f.w ≤ 32) (hwf : smWf regReset s.regs = true) : getF (addF s f 1) f = min (2 ^ f.w - 1) (getF s f + 1) := by
  have hpos := Nat.two_pow_pos f.w
  unfold addF
  rw [getF_setF_same _ h hwf, Nat.mod_eq_of_lt]
  · unfold satAdd
    split <;> omega
  · unfold satAdd
    split <;> omega

end Regs

section Queue

variable {s : State} {r : Nat}

theorem find?_append_of_none (p : PendRec) (h : ∀ y ∈ s.recs, y.ring ≠ p.ring) : ((s.recs ++ [p]).find? fun x => x.ring == p.ring) = some p := by
  rw [List.find?_append, List.find?_eq_none.mpr (fun y hy => by simpa using h y hy)]
  simp

/-- The record that was put behind those of other rings is the one that a change of its ring's oldest record changes. -/
theorem changeRec_append (p : PendRec) (f : PendRec → List PendRec) (h : ∀ y ∈ s.recs, y.ring ≠ p.ring) :
    changeRec { s with recs := s.recs ++ [p] } p.ring f = { s with recs := s.recs ++ f p } := by
  have hspan : (s.recs ++ [p]).span (fun x => x.ring != p.ring) = (s.recs, [p]) := by
    rw [List.span_eq_takeWhile_dropWhile, List.takeWhile_append_of_pos (by simpa using h), List.dropWhile_append_of_pos (by simpa using h)]
    simp
  unfold changeRec
  dsimp only
  rw [hspan]
  simp

end Queue

end Sys2Proof.Machine

/-! ## A record that can be written as it falls due (spec/04_dahlia.md R145, R146) -/

namespace Sys2Proof.Machine
open Sys2Proof.Safety

theorem settleEdge_of_no_error {s : State} {g : Nat} (h : errAt s g = 0) (a len : Nat) : settleEdge s a len g = s := by
  unfold settleEdge settlePart settle
  split
  · rfl
  · split
    · rfl
    · simp [*]

/-- Where neither edge holds an error and no bank is fenced, an agent's write is its bytes. -/
theorem wrMem_of_open {s : State} {a : Nat} {bs : List Byte} (hfence : fencedFrom s (a / 32) (granules a bs.length) = false) (hfirst : errAt s (a / 32) = 0)
    (hlast : errAt s ((a + bs.length - 1) / 32) = 0) : wrMem s a bs = wrBytes s a bs := by
  have hsame : (if s.errs = [] ∨ bs = [] then s else settleEdge (settleEdge s a bs.length (a / 32)) a bs.length ((a + bs.length - 1) / 32)) = s := by
    rw [settleEdge_of_no_error hfirst, settleEdge_of_no_error hlast, ite_self]
  unfold wrMem
  rw [hsame]
  exact if_neg (by simp [hfence])

theorem rdBytes_eq_of_getElem {s : State} {a : Nat} {bs : List Byte} (h : ∀ i b, bs[i]? = some b → rdByte s (a + i) = b) : rdBytes s a bs.length = bs := by
  induction bs generalizing a with
  | nil => rfl
  | cons b bs ih =>
    have htail : rdBytes s (a + 1) bs.length = bs := ih fun i c hi => by
      rw [Nat.add_assoc, Nat.add_comm 1]
      exact h (i + 1) c (by simpa using hi)
    show rdByte s a :: rdBytes s (a + 1) bs.length = b :: bs
    rw [htail, show rdByte s a = b from h 0 b rfl]

theorem length_leBytes (n v : Nat) : (leBytes n v).length = n := by
  induction n generalizing v with
  | zero => rfl
  | succ n ih => simp [leBytes, ih]

theorem length_recBytes (r : Nat) (phase : Bool) (t : Int) (x : Rec) : (recBytes r phase t x).length = 32 := by
  simp [recBytes, length_leBytes]

/-- Ring r with an entry taken for a record, where none was reserved for it. -/
def entryTaken (s : State) (r : Nat) (reserved : Bool) : State := if reserved then s else setRing s r { getRing s r with reserved := (getRing s r).reserved + 1 }

section EntryTaken

variable {s : State} {r : Nat} (b : Bool)

@[simp] theorem entryTaken_regs : (entryTaken s r b).regs = s.regs := by unfold entryTaken; split <;> rfl
@[simp] theorem entryTaken_mem : (entryTaken s r b).mem = s.mem := by unfold entryTaken; split <;> rfl
@[simp] theorem entryTaken_errs : (entryTaken s r b).errs = s.errs := by unfold entryTaken; split <;> rfl
@[simp] theorem entryTaken_recs : (entryTaken s r b).recs = s.recs := by unfold entryTaken; split <;> rfl
@[simp] theorem entryTaken_sf : (entryTaken s r b).sf = s.sf := by unfold entryTaken; split <;> rfl
@[simp] theorem now_entryTaken : now (entryTaken s r b) = now s := by unfold entryTaken; split <;> rfl

theorem getRing_entryTaken (hwf : smWf (fun _ => ({} : Ring)) s.rings = true) :
    getRing (entryTaken s r b) r = { getRing s r with reserved := (getRing s r).reserved + 1 - ofBool b } := by
  unfold entryTaken
  cases b with
  | true => rfl
  | false => exact getRing_setRing_same (s := s) r _ hwf

theorem entryTaken_setRing_rings (hwf : smWf (fun _ => ({} : Ring)) s.rings = true) (g : Ring) : (setRing (entryTaken s r b) r g).rings = (setRing s r g).rings := by
  unfold entryTaken
  cases b with
  | true => rfl
  | false => exact smPut_smPut_same _ _ hwf

end EntryTaken

/-- Record p falls due behind those that wait. -/
def withRec (u : State) (p : PendRec) : State := { u with recs := u.recs ++ [p] }

section Write

variable {s : State} {r a : Nat}

theorem writeRecord_eq (b irq : Bool) (x : Rec) : writeRecord s r b irq x =
    sendRecs r (s.recs.length + 2) (withRec (entryTaken s r b) { ring := r, irq := irq, rec_ := x }) := by
  have hlen : (withRec (entryTaken s r b) { ring := r, irq := irq, rec_ := x }).recs.length = s.recs.length + 1 := by
    unfold withRec
    rw [List.length_append, entryTaken_recs]
    rfl
  show sendRecs r ((withRec (entryTaken s r b) { ring := r, irq := irq, rec_ := x }).recs.length + 1) _ = _
  rw [hlen]
  rfl

theorem nextEntry_eq_of {t : State} (hregs : t.regs = s.regs) (htail : (getRing t r).cqTail = (getRing s r).cqTail) : nextEntry t r = nextEntry s r := by
  unfold nextEntry
  rw [getR64_congr hregs, htail]

/-- No record of the ring waits, so none is sent. -/
theorem sendRecs_of_none (k : Nat) (h : ∀ y ∈ s.recs, y.ring ≠ r) : sendRecs r k s = s := by
  cases k with
  | zero => rfl
  | succ k =>
    unfold sendRecs
    rw [List.find?_eq_none.mpr (fun y hy => by simpa using h y hy)]

/-- A record of no job, with no instant at which it is due, is shown and nothing else. -/
theorem recorded_of_plain {x : PendRec} (hjob : x.job = none) (hhub : x.hub = false) : recorded s x = showRecord s x := by
  unfold recorded
  simp [hjob, hhub]

theorem cleanFrom_eq (s : State) (g n : Nat) : cleanFrom s g n = { s with poison := (cleanFrom s g n).poison, errs := (cleanFrom s g n).errs } := by
  induction n generalizing s g with
  | zero => rfl
  | succ n ih =>
    unfold cleanFrom
    rw [ih]
    rfl

/-- Bytes written change memory, poison and errors only. -/
theorem wrBytes_eq (s : State) (a : Nat) (bs : List Byte) :
    wrBytes s a bs = { s with mem := (wrBytes s a bs).mem, poison := (wrBytes s a bs).poison, errs := (wrBytes s a bs).errs } := by
  unfold wrBytes
  dsimp only
  split
  · rfl
  · rw [cleanFrom_eq]

theorem rdBytes_wrBytes {bs : List Byte} (hwf : smWf memDefault s.mem = true) : rdBytes (wrBytes s a bs) a bs.length = bs :=
  rdBytes_eq_of_getElem fun i b hi => by
    unfold rdByte
    rw [wrBytes_mem]
    exact (putBytes_read s.mem a bs hwf).1 i b hi

theorem rdByte_wrBytes_outside {bs : List Byte} (hwf : smWf memDefault s.mem = true) {x : Nat} (hx : x < a ∨ a + bs.length ≤ x) :
    rdByte (wrBytes s a bs) x = rdByte s x := by
  unfold rdByte
  rw [wrBytes_mem]
  exact (putBytes_read s.mem a bs hwf).2 x hx

theorem rdByte_congr {s t : State} (h : t.mem = s.mem) (x : Nat) : rdByte t x = rdByte s x := by unfold rdByte; rw [h]

theorem rdBytes_congr {s t : State} (h : t.mem = s.mem) (x n : Nat) : rdBytes t x n = rdBytes s x n := by
  induction n generalizing x with
  | zero => rfl
  | succ n ih => unfold rdBytes; rw [rdByte_congr h, ih]

theorem errAt_congr {s t : State} (h : t.errs = s.errs) (g : Nat) : errAt t g = errAt s g := by unfold errAt; rw [h]

theorem fencedFrom_congr {s t : State} (h : t.regs = s.regs) (g n : Nat) : fencedFrom t g n = fencedFrom s g n := by
  induction n generalizing g with
  | zero => rfl
  | succ n ih => unfold fencedFrom; rw [fencedAt_congr h, ih]

/-- The state in which the record's bytes are in place. -/
def recordPlaced (s : State) (r a : Nat) (b : Bool) (x : Rec) : State :=
  emit (wrBytes (entryTaken s r b) a (recBytes r (getRing s r).phase (now s) x)) (.record a (recBytes r (getRing s r).phase (now s) x))

section Send

variable {u : State} {p : PendRec} (hnone : ∀ y ∈ u.recs, y.ring ≠ p.ring) (hsent : p.sent = none)
  (haddr : checkAddr u (p.ring / 64) (.ring p.ring) (nextEntry u p.ring) 32 true = .ok a) (k : Nat)

include hnone hsent haddr

theorem sendRecs_withRec : sendRecs p.ring (k + 1) (withRec u p) =
    (if inHost a then
      (if now u < u.linkHeld then withRec u p
        else changeRec (tellHost (withRec u p) a 32 false) p.ring fun y => [{ y with sent := some (a, recBytes p.ring (getRing u p.ring).phase (now u) p.rec_) }])
    else match waitsFor u a 32 true with
      | some y => snoopLine (withRec u p) y true
      | none => sendRecs p.ring k (finishRec (withRec u p) p a (recBytes p.ring (getRing u p.ring).phase (now u) p.rec_))) := by
  have haddr' : checkAddr (withRec u p) (p.ring / 64) (.ring p.ring) (nextEntry (withRec u p) p.ring) 32 true = .ok a :=
    (checkAddr_congr (s := u) rfl _ _ _ _ _).trans haddr
  have hfind : (withRec u p).recs.find? (fun x => x.ring == p.ring) = some p := find?_append_of_none p hnone
  have hwait : waitsFor (withRec u p) a 32 true = waitsFor u a 32 true := waitsFor_congr (s := u) (t := withRec u p) rfl a 32 true
  rw [sendRecs, hfind]
  dsimp only
  rw [hsent, if_neg (by simp), haddr']
  dsimp only
  rw [hwait]
  rfl

/-- The only record of its ring goes to an entry in the device that the host does not hold. -/
theorem sendRecs_open (hdev : inHost a = false) (hfree : waitsFor u a 32 true = none) :
    sendRecs p.ring (k + 1) (withRec u p) = sendRecs p.ring k (recorded (emit (wrMem u a
      (recBytes p.ring (getRing u p.ring).phase (now u) p.rec_)) (.record a (recBytes p.ring (getRing u p.ring).phase (now u) p.rec_))) p) := by
  have hout : changeRec (withRec u p) p.ring (fun _ => []) = u := (changeRec_append p _ hnone).trans (by rw [List.append_nil])
  rw [sendRecs_withRec hnone hsent haddr, if_neg (by simp [hdev]), hfree]
  dsimp only
  unfold finishRec
  rw [hout]

/-- The host holds its line: the snoop goes out. -/
theorem sendRecs_held (hdev : inHost a = false) {z : Nat × Nat} (hheld : waitsFor u a 32 true = some z) :
    sendRecs p.ring (k + 1) (withRec u p) = snoopLine (withRec u p) z true := by
  rw [sendRecs_withRec hnone hsent haddr, if_neg (by simp [hdev]), hheld]

/-- Its entry lies in host memory: the request goes out. -/
theorem sendRecs_host (hdev : inHost a = true) (hup : u.linkHeld ≤ now u) :
    sendRecs p.ring (k + 1) (withRec u p) = { tellHost u a 32 false with
      recs := u.recs ++ [{ p with sent := some (a, recBytes p.ring (getRing u p.ring).phase (now u) p.rec_) }] } := by
  have hrecs : (tellHost u a 32 false).recs = u.recs := by
    unfold tellHost
    rw [if_pos hdev]
    rfl
  have htell : tellHost (withRec u p) a 32 false = { tellHost u a 32 false with recs := (tellHost u a 32 false).recs ++ [p] } := by
    unfold tellHost
    rw [if_pos hdev, if_pos hdev]
    rfl
  rw [sendRecs_withRec hnone hsent haddr, if_pos hdev, if_neg (Int.not_lt.mpr hup), htell, changeRec_append p _ (by rwa [hrecs]), hrecs]

end Send

/-- The ring after a record has been written: index, PHASE and reservation have moved on. -/
def ringPast (s : State) (r : Nat) : Ring :=
  { getRing s r with
    cqTail := ((getRing s r).cqTail + 1) % cqSize s r
    phase := if (getRing s r).cqTail + 1 == cqSize s r then !(getRing s r).phase else (getRing s r).phase
    reserved := (getRing s r).reserved - 1 }

/-- The state after it, with the outcome counted. -/
def outcomeCounted (s : State) (r outcome : Nat) : State := addF (setRing s r (ringPast s r)) (ADM_CNT_OUT_COUNT (r / 64) (outcomeCounter outcome)) 1

/-- The record of an outcome that is no refusal counts it and pulses the ring's source. -/
theorem showRecord_of_accepted {x : PendRec} (h : isRefusal x.rec_.outcome = false) : showRecord s x =
    if x.irq then intPulse (outcomeCounted s x.ring x.rec_.outcome) (qSrc (x.ring / 64) (160 + getF s (ADM_RING_CTL_SRC (x.ring / 64) (x.ring % 64))))
    else outcomeCounted s x.ring x.rec_.outcome := by
  unfold showRecord
  dsimp only
  rw [if_neg (show ¬ isRefusal x.rec_.outcome = true by simp [h])]
  rfl

theorem showRecord_accepted_ints {x : PendRec} (h : isRefusal x.rec_.outcome = false) :
    ∃ l, showRecord s x = { outcomeCounted s x.ring x.rec_.outcome with ints := l } := by
  rw [showRecord_of_accepted h]
  split
  · exact ⟨_, intPulse_eq_ints _ _⟩
  · exact ⟨_, rfl⟩

/-- A record whose entry is open is written as it falls due. -/
theorem sendRecs_of_open (b : Bool) {p : PendRec} (hsent : p.sent = none) (k : Nat) (h : EntryOpen s p.ring a) :
    sendRecs p.ring (k + 1) (withRec (entryTaken s p.ring b) p) = sendRecs p.ring k (recorded (recordPlaced s p.ring a b p.rec_) p) := by
  obtain ⟨hwf, hnone, haddr, hdev, hfree, hfence, hfirst, hlast⟩ := h
  have hring := getRing_entryTaken (r := p.ring) b hwf
  have hnext : nextEntry (entryTaken s p.ring b) p.ring = nextEntry s p.ring := nextEntry_eq_of (entryTaken_regs b) (by rw [hring])
  have hnone' : ∀ y ∈ (entryTaken s p.ring b).recs, y.ring ≠ p.ring := by rwa [entryTaken_recs]
  have hphase : (getRing (entryTaken s p.ring b) p.ring).phase = (getRing s p.ring).phase := by rw [hring]
  have hwrite : wrMem (entryTaken s p.ring b) a (recBytes p.ring (getRing s p.ring).phase (now s) p.rec_) =
      wrBytes (entryTaken s p.ring b) a (recBytes p.ring (getRing s p.ring).phase (now s) p.rec_) := by
    refine wrMem_of_open ?_ ?_ ?_
    · rw [length_recBytes, fencedFrom_congr (entryTaken_regs b), hfence]
    · rw [errAt_congr (entryTaken_errs b), hfirst]
    · rw [length_recBytes, errAt_congr (entryTaken_errs b)]
      exact hlast
  rw [sendRecs_open hnone' hsent (by rw [checkAddr_congr (entryTaken_regs b), hnext, haddr]) _ hdev (by rw [waitsFor_congr (entryTaken_sf b), hfree]),
    hphase, now_entryTaken, hwrite]
  rfl

theorem showRecord_recs {p : PendRec} (hout : isRefusal p.rec_.outcome = false) : (showRecord s p).recs = s.recs := by
  obtain ⟨l, hl⟩ := showRecord_accepted_ints (s := s) hout
  rw [hl]
  unfold outcomeCounted addF
  rw [setF_eq_regs]
  rfl

theorem showRecord_jobs {p : PendRec} (hout : isRefusal p.rec_.outcome = false) : (showRecord s p).jobs = s.jobs := by
  obtain ⟨l, hl⟩ := showRecord_accepted_ints (s := s) hout
  rw [hl]
  unfold outcomeCounted addF
  rw [setF_eq_regs]
  rfl

theorem recordPlaced_regs (b : Bool) (x : Rec) : (recordPlaced s r a b x).regs = s.regs := by
  unfold recordPlaced
  rw [wrBytes_eq]
  exact entryTaken_regs b

theorem recordPlaced_rings (b : Bool) (x : Rec) : (recordPlaced s r a b x).rings = (entryTaken s r b).rings := by
  unfold recordPlaced
  rw [wrBytes_eq]
  rfl

theorem recordPlaced_recs (b : Bool) (x : Rec) : (recordPlaced s r a b x).recs = s.recs := by
  unfold recordPlaced
  rw [wrBytes_eq]
  exact entryTaken_recs b

theorem recordPlaced_jobs (b : Bool) (x : Rec) : (recordPlaced s r a b x).jobs = s.jobs := by
  unfold recordPlaced entryTaken
  rw [wrBytes_eq]
  split <;> rfl

/-- A record of no job whose entry is open is written at once. -/
theorem writeRecord_of_open (b irq : Bool) {x : Rec} (hout : isRefusal x.outcome = false) (h : EntryOpen s r a) :
    writeRecord s r b irq x = showRecord (recordPlaced s r a b x) { ring := r, irq := irq, rec_ := x } := by
  have hnone := h.2.1
  rw [writeRecord_eq, sendRecs_of_open (p := { ring := r, irq := irq, rec_ := x }) b rfl _ h, recorded_of_plain rfl rfl]
  refine sendRecs_of_none _ ?_
  rw [showRecord_recs hout, recordPlaced_recs]
  exact hnone

end Write

end Sys2Proof.Machine

/-! ## Records of signals and periodic items (O18) -/

namespace Sys2Proof.Machine
open Sys2Proof.Safety

/-- Counting changes nothing but the registers. -/
theorem addF_eq_regs (s : State) (f : Field) (k : Nat) : addF s f k = { s with regs := (addF s f k).regs } := by
  unfold addF
  exact setF_eq_regs s f _

section Shown

variable {s : State} {r a : Nat} (b : Bool) (x : Rec)

theorem ringPast_recordPlaced (hwf : smWf (fun _ => ({} : Ring)) s.rings = true) : ringPast (recordPlaced s r a b x) r =
    { getRing s r with
      cqTail := ((getRing s r).cqTail + 1) % cqSize s r
      phase := (getRing s r).phase != ((getRing s r).cqTail + 1 == cqSize s r)
      reserved := (getRing s r).reserved - ofBool b } := by
  have hring : getRing (recordPlaced s r a b x) r = _ := (getRing_congr (recordPlaced_rings b x) r).trans (getRing_entryTaken b hwf)
  have hres : (getRing s r).reserved + 1 - ofBool b - 1 = (getRing s r).reserved - ofBool b := by omega
  have hphase : ∀ c p : Bool, (if c then !p else p) = (p != c) := by decide
  unfold ringPast
  rw [hring, cqSize_congr (recordPlaced_regs b x)]
  dsimp only
  rw [hres, hphase]

theorem outcomeCounted_eq (s : State) (r o : Nat) : outcomeCounted s r o = { setRing s r (ringPast s r) with regs := (outcomeCounted s r o).regs } := by
  unfold outcomeCounted
  exact addF_eq_regs _ _ _

/-- A record that is no refusal stands in the queue once it is written and shown. -/
theorem recordShown_showRecord {p : PendRec} (hcan : Canonical s) (hwf : smWf (fun _ => ({} : Ring)) s.rings = true) (hout : isRefusal p.rec_.outcome = false) :
    RecordShown s (showRecord (recordPlaced s p.ring a b p.rec_) p) p.ring a b p.rec_ := by
  obtain ⟨hmem, hregs⟩ := hcan
  have hplaced : smWf regReset (setRing (recordPlaced s p.ring a b p.rec_) p.ring (ringPast (recordPlaced s p.ring a b p.rec_) p.ring)).regs = true := by
    show smWf regReset (recordPlaced s p.ring a b p.rec_).regs = true
    rwa [recordPlaced_regs]
  have hmem' : smWf memDefault (entryTaken s p.ring b).mem = true := by rwa [entryTaken_mem]
  obtain ⟨l, hl⟩ := showRecord_accepted_ints (s := recordPlaced s p.ring a b p.rec_) (x := p) hout
  rw [hl]
  generalize hu : outcomeCounted (recordPlaced s p.ring a b p.rec_) p.ring p.rec_.outcome = u
  have hueq : u = { setRing (recordPlaced s p.ring a b p.rec_) p.ring (ringPast (recordPlaced s p.ring a b p.rec_) p.ring) with regs := u.regs } := by
    rw [← hu]
    exact outcomeCounted_eq _ _ _
  have humem : u.mem = (wrBytes (entryTaken s p.ring b) a (recBytes p.ring (getRing s p.ring).phase (now s) p.rec_)).mem := by rw [hueq]; rfl
  have hlen := length_recBytes p.ring (getRing s p.ring).phase (now s) p.rec_
  refine ⟨?bytes, ?others, ?recs, ?rings, ?count, ?regs⟩
  case bytes =>
    refine (rdBytes_congr humem a 32).trans ?_
    rw [← hlen]
    exact rdBytes_wrBytes hmem'
  case others =>
    intro c hc
    refine (rdByte_congr humem c).trans ?_
    rw [rdByte_wrBytes_outside hmem' (by rwa [hlen]), rdByte_congr (entryTaken_mem b)]
  case recs =>
    show u.recs = _
    rw [hueq]
    exact recordPlaced_recs b p.rec_
  case rings =>
    show u.rings = _
    rw [hueq, ringPast_recordPlaced b p.rec_ hwf]
    exact (setRing_rings_congr (recordPlaced_rings b p.rec_) p.ring _).trans (entryTaken_setRing_rings b hwf _)
  case count =>
    refine (getF_congr (s := u) rfl _).trans ?_
    rw [← hu]
    unfold outcomeCounted
    rw [getF_addF_one (f := ADM_CNT_OUT_COUNT (p.ring / 64) (outcomeCounter p.rec_.outcome)) (Nat.le_refl 32) hplaced]
    exact congrArg (fun c => min (2 ^ 32 - 1) (c + 1)) (getF_congr (recordPlaced_regs b p.rec_) _)
  case regs =>
    refine regsBut_trans (bs := []) (t := u) ?_ (regsBut_of_regs_eq rfl) (List.Subset.refl _) (List.nil_subset _)
    rw [← hu]
    exact regsBut_trans (as := []) (regsBut_of_regs_eq (recordPlaced_regs b p.rec_)) (regsBut_setF _ (Nat.le_refl 32)) (List.nil_subset _) (List.Subset.refl _)

/-- A record whose entry is open stands in the queue after it has fallen due. -/
theorem recordShown_of_open (irq : Bool) (hcan : Canonical s) (hout : isRefusal x.outcome = false) (h : EntryOpen s r a) :
    RecordShown s (writeRecord s r b irq x) r a b x := by
  rw [writeRecord_of_open b irq hout h]
  exact recordShown_showRecord (p := { ring := r, irq := irq, rec_ := x }) b hcan h.1 hout

end Shown

/-- The oldest signal whose fences are satisfied leaves its ring and its record falls due. -/
theorem exec_signalRecord_of_met {s : State} {r : Fin 256} {x : Signal} {rest : List Signal} (dt : Nat)
    (h : takeFirst (fun y => y.met.isSome) (getRing s r.val).signals = some (x, rest)) : exec (.signalRecord r dt) s = .next
      (writeRecord (setRing (atDt s dt) r.val { getRing s r.val with signals := rest }) r.val true x.irq
        ⟨x.tag, 0, 0, 0x3FF, 5, x.value, 0, max x.readAt (x.met.getD x.readAt), none, 0⟩) := by
  show execSignalRecord r dt s = _
  unfold execSignalRecord
  rw [h]

/-- A record whose ring has one that waits with its request out waits behind it. -/
theorem writeRecord_behind {s : State} {r : Nat} {y : PendRec} (irq : Bool) (v : Rec) (hsent : y.sent.isSome = true)
    (hfind : s.recs.find? (fun x => x.ring == r) = some y) : writeRecord s r true irq v = withRec s { ring := r, irq := irq, rec_ := v } := by
  have hfind' : (withRec s { ring := r, irq := irq, rec_ := v }).recs.find? (fun x => x.ring == r) = some y := by
    show (s.recs ++ _).find? _ = _
    rw [List.find?_append, hfind]
    rfl
  rw [writeRecord_eq, sendRecs]
  show (match (withRec s { ring := r, irq := irq, rec_ := v }).recs.find? (fun x => x.ring == r) with
    | none => _
    | some x => _) = _
  rw [hfind']
  exact if_pos hsent

/-- The periodic items of a ring after item i has fired. -/
def itemsAfter (g : Ring) (i : Nat) (x : Item) : List Item :=
  if x.count ≠ 0 ∧ x.count ≤ x.fired + 1 then g.items.eraseIdx i else setAt g.items i { x with fired := x.fired + 1, next := x.next + x.period * 1000 }

/-- An item whose tick has come fires. -/
theorem exec_everyFiring_due {s : State} {r : Fin 256} {i : Fin 16} {x : Item} (dt : Nat) (h : (getRing s r.val).items[i.val]? = some x)
    (hdue : reached s (nextMultiple x.next 250000) = true) : exec (.everyFiring r i dt) s = .next (fireItem (atDt s dt) r.val i.val x) := by
  show execEveryFiring r i dt s = _
  unfold execEveryFiring
  rw [h]
  exact congrArg Host.Outcome.next (if_pos hdue)

/-- A firing without a free entry is counted. -/
def missed (s : State) (r : Nat) : State := addF s (ADM_RING_STAT_EVERY_MISS (r / 64) (r % 64)) 1

theorem missed_rings (s : State) (r : Nat) : (missed s r).rings = s.rings := setF_rings s _ _
theorem missed_mem (s : State) (r : Nat) : (missed s r).mem = s.mem := setF_mem s _ _

theorem fireItem_full {s : State} {r : Nat} (i : Nat) (x : Item) (h : cqFree s r = 0) :
    fireItem s r i x = setRing (missed s r) r { getRing s r with items := itemsAfter (getRing s r) i x } := by
  have hring : getRing (missed s r) r = getRing s r := getRing_congr (missed_rings s r) r
  unfold fireItem
  dsimp only
  rw [if_pos h]
  show setRing (missed s r) r { getRing (missed s r) r with items := itemsAfter (getRing (missed s r) r) i x } = _
  rw [hring]

theorem takeFirst_eq_none {α : Type} {p : α → Bool} {l : List α} (h : ∀ x ∈ l, p x = false) : takeFirst p l = none := by
  induction l with
  | nil => rfl
  | cons a l ih =>
    rw [takeFirst, if_neg (by simp [h a (List.mem_cons_self)]), ih fun x hx => h x (List.mem_cons_of_mem a hx)]
    rfl

theorem entryOpen_atDt {s : State} {r a : Nat} (dt : Nat) (h : EntryOpen s r a) : EntryOpen (atDt s dt) r a := by
  obtain ⟨hwf, hnone, haddr, hdev, hfree, hfence, hfirst, hlast⟩ := h
  exact ⟨hwf, hnone, (checkAddr_congr (s := s) (t := atDt s dt) rfl _ _ _ _ _).trans haddr, hdev, (waitsFor_congr (s := s) (t := atDt s dt) rfl _ _ _).trans hfree,
    (fencedFrom_congr (s := s) (t := atDt s dt) rfl _ _).trans hfence, hfirst, hlast⟩

theorem foldl_clear_eq_regs (q : Nat) (l : List Nat) (s : State) :
    l.foldl (fun s c => setF s (ADM_CNT_OUT_COUNT q c) 0) s = { s with regs := (l.foldl (fun s c => setF s (ADM_CNT_OUT_COUNT q c) 0) s).regs } := by
  induction l generalizing s with
  | nil => rfl
  | cons c l ih =>
    rw [List.foldl_cons, ih, setF_eq_regs]

theorem regsBut_foldl_clear (q : Nat) (l : List Nat) (s : State) : RegsBut s (l.foldl (fun s c => setF s (ADM_CNT_OUT_COUNT q c) 0) s) (l.map (ADM_CNT_OUT q)) := by
  induction l generalizing s with
  | nil => exact fun _ _ => rfl
  | cons c l ih =>
    exact regsBut_trans (regsBut_setF (f := ADM_CNT_OUT_COUNT q c) 0 (Nat.le_refl 32)) (ih _) (by simp [ADM_CNT_OUT_COUNT]) (by simp)

/-- A whole-word field that is 0 has its register read 0. -/
theorem getR_setF_whole {s : State} (a v : Nat) (hwf : smWf regReset s.regs = true) : getR (setF s ⟨a, 0, 32⟩ v) a = BitVec.ofNat 32 v := by
  rw [setF_narrow (f := ⟨a, 0, 32⟩) s v (Nat.le_refl 32), getR_setR_same _ _ hwf]
  refine BitVec.eq_of_toNat_eq ?_
  have hx := (getR s a).isLt
  rw [BitVec.toNat_ofNat, BitVec.toNat_ofNat, putBits_eq]
  simp only [Nat.zero_add, Nat.pow_zero, Nat.mod_one, Nat.div_eq_of_lt hx]
  omega

theorem getR_foldl_clear (q : Nat) (l : List Nat) (s : State) (hwf : smWf regReset s.regs = true) {c : Nat} (hc : c ∈ l) :
    getR (l.foldl (fun s c => setF s (ADM_CNT_OUT_COUNT q c) 0) s) (ADM_CNT_OUT q c) = 0 := by
  induction l generalizing s with
  | nil => simp at hc
  | cons e l ih =>
    by_cases hl : c ∈ l
    · exact ih _ (setF_regs_wf _ _ hwf) hl
    · obtain rfl : c = e := by simpa [hl] using hc
      have hout : ADM_CNT_OUT q c ∉ l.map (ADM_CNT_OUT q) := by
        simpa [ADM_CNT_OUT] using hl
      exact (regsBut_foldl_clear q l _ _ hout).trans (getR_setF_whole _ 0 hwf)

/-- Settles O18: a record whose entry is open is written as it falls due; one that is held up waits behind its snoop or its request. -/
theorem signalsAndItemsRecord : Obligations.SignalsAndItemsRecord := by
  unfold Obligations.SignalsAndItemsRecord
  refine ⟨?signal, ?go, ?none, ?item, ?clear⟩
  case signal =>
    intro s r dt a x rest hx hcan s1 v
    rw [exec_signalRecord_of_met dt hx]
    refine ⟨?written, ?waits, ?behind⟩
    case written => exact fun hopen => ⟨_, rfl, recordShown_of_open (s := s1) true v x.irq hcan rfl hopen⟩
    case waits =>
      intro hnone haddr
      constructor
      · intro hdev z hz
        rw [writeRecord_eq]
        exact congrArg Host.Outcome.next (sendRecs_held (u := s1) (p := { ring := r.val, irq := x.irq, rec_ := v }) hnone rfl haddr _ hdev hz)
      · intro hhost hup w
        rw [writeRecord_eq]
        exact congrArg Host.Outcome.next (sendRecs_host (u := s1) (p := { ring := r.val, irq := x.irq, rec_ := v }) hnone rfl haddr _ hhost hup)
    case behind =>
      intro y _ _ hsent hfind
      exact congrArg Host.Outcome.next (writeRecord_behind (s := s1) x.irq v hsent hfind)
  case go =>
    intro s r x a bs hreinit hup hfind hsent
    show Host.Outcome.next (ringSide s (r.val / 64) fun s => recordGo s r.val) = _
    unfold ringSide recordGo
    rw [hreinit, if_neg (by simp)]
    dsimp only
    rw [if_neg (by omega), hfind]
    dsimp only
    rw [hsent]
  case none =>
    intro s r dt hunmet
    show execSignalRecord r dt s = _
    unfold execSignalRecord
    rw [takeFirst_eq_none fun x hx => by rw [hunmet x hx]; rfl]
  case item =>
    intro s r i dt a x hx hcan y after
    refine ⟨?early, ?full, ?written⟩
    case early =>
      intro hnot
      show execEveryFiring r i dt s = _
      unfold execEveryFiring
      rw [hx]
      exact congrArg Host.Outcome.next (if_neg (by simp [itemTick, hnot]))
    case full =>
      intro hdue hfull
      have hregs : smWf regReset (atDt s dt).regs = true := hcan.2
      refine ⟨setRing (missed (atDt s dt) r.val) r.val { getRing s r.val with items := after (getRing s r.val) }, ?_, ?_, ?_, ?_, ?_, ?_⟩
      · rw [exec_everyFiring_due dt hx hdue, fireItem_full (s := atDt s dt) i.val x hfull]
        rfl
      · exact setRing_rings_congr (s := s) (missed_rings (atDt s dt) r.val) r.val _
      · exact missed_mem (atDt s dt) r.val
      · exact getF_addF_one (s := atDt s dt) (f := ADM_RING_STAT_EVERY_MISS (r.val / 64) (r.val % 64)) (Nat.le_refl 32) hregs
      · exact bitsBut_setF (s := atDt s dt) (f := ADM_RING_STAT_EVERY_MISS (r.val / 64) (r.val % 64)) _ (Nat.le_refl 32) hregs
      · exact regsBut_setF (s := atDt s dt) (f := ADM_RING_STAT_EVERY_MISS (r.val / 64) (r.val % 64)) _ (Nat.le_refl 32)
    case written =>
      intro hdue hfree hopen
      refine ⟨_, recordShown_of_open (s := atDt s dt) false _ x.irq hcan rfl (entryOpen_atDt dt hopen), ?_⟩
      rw [exec_everyFiring_due dt hx hdue]
      unfold fireItem
      dsimp only
      rw [if_neg (show ¬ cqFree (atDt s dt) r.val = 0 from hfree)]
  case clear =>
    intro s q hwf hlive
    refine ⟨_, congrArg Host.Outcome.next (if_pos hlive), ?_, regsBut_foldl_clear q.val _ s, foldl_clear_eq_regs q.val _ s⟩
    exact fun c hc => getR_foldl_clear q.val _ s hwf (List.mem_range.mpr hc)

end Sys2Proof.Machine

/-! ## Plan and program commands (O19, O20) -/

namespace Sys2Proof.Machine
open Sys2Proof.Safety

theorem clampNat_of_le {lo hi v : Nat} (hlo : lo ≤ v) (hhi : v ≤ hi) : clampNat lo hi v = v := by
  unfold clampNat
  rw [if_neg (by omega), if_neg (by omega)]

section Image

variable {s y : State} {r a len : Nat}

/-- The host holds no line of the image in the way, so the command takes its word. -/
theorem takeImageCmd_free {w : CmdWord} {rest : List CmdWord} {p : Nat → Bool} {g : CmdWord → Nat × Nat} (f : State → CmdWord → State) (hw : (getRing s r).words = w :: rest)
    (hp : p (opcodeOf w.bits) = true) (hfree : imageWaits s r (g w).1 (g w).2 = none) :
    takeImageCmd s r p g f = .next (f (setRing s r { getRing s r with words := rest }) w) := by
  rw [← takeCmd_front f hw hp]
  unfold takeImageCmd
  rw [hw]
  dsimp only
  split
  · rw [hfree]
  · rfl

/-- It holds one, and the snoop goes out. -/
theorem takeImageCmd_held {w : CmdWord} {rest : List CmdWord} {p : Nat → Bool} {g : CmdWord → Nat × Nat} (f : State → CmdWord → State) (hw : (getRing s r).words = w :: rest)
    (hp : p (opcodeOf w.bits) = true) (hclosed : (getRing s r).openJob = none) {z : Nat × Nat} (hheld : imageWaits s r (g w).1 (g w).2 = some z) :
    takeImageCmd s r p g f = .next (snoopLine s z false) := by
  unfold takeImageCmd
  rw [hw]
  dsimp only
  rw [if_pos ⟨hp, hclosed⟩, hheld]

theorem imageWaits_free {addr : Nat} (haddr : checkAddr s (r / 64) .image addr len false = .ok a) (hfree : waitsFor s a len false = none) :
    imageWaits s r addr len = none := by
  unfold imageWaits
  rw [haddr]
  exact hfree

/-- An image in good granules is fetched. -/
theorem fetchImage_good {addr : Nat} (haddr : checkAddr s (r / 64) .image addr len false = .ok a) (hgood : badRead (readBad (askHost s a len) a len) a len = false) :
    fetchImage s r addr len = (readBad (askHost s a len) a len, some (rdBytes (readBad (askHost s a len) a len) a len)) := by
  unfold fetchImage
  rw [haddr]
  dsimp only
  rw [if_neg (by simp [hgood])]

end Image

/-- Settles O19: reading, decision and drop follow the branches of their commands. -/
theorem planCommandsAct : Obligations.PlanCommandsAct := by
  unfold Obligations.PlanCommandsAct
  refine ⟨?set, ?decision, ?dropRead, ?drop⟩
  case set =>
    intro s r w rest hw hop hci len a hlen hmin hmax x y hclosed haddr haddrx hfree hgood u
    have hci' : min (cwf w 4 0 10) 511 = cwf w 4 0 10 := by omega
    have himage : planImageAt w = (cwf w 24 0 64 / 64 * 64, len) := by
      unfold planImageAt
      rw [← hlen, clampNat_of_le hmin hmax]
    have hfetch : fetchImage x r.val (cwf w 24 0 64 / 64 * 64) len = (y, some (rdBytes y a len)) := fetchImage_good haddrx hgood
    have hexec : exec (.planSet r) s = .next (match (checkPlan y u (u.stamp + 1000000000)).1 with
        | .ok p => { (planRaises y p).1 with ucmds := (planRaises y p).1.ucmds ++ [{ u with raised := (planRaises y p).2.1, refused := (planRaises y p).2.2 }] }
        | .error _ => { y with ucmds := y.ucmds ++ [u] }) := by
      show execPlanSet r s = _
      unfold execPlanSet
      rw [takeImageCmd_free _ hw (by rw [hop]; rfl) (by rw [himage]; exact imageWaits_free haddr hfree), if_neg (by simpa using hclosed)]
      dsimp only
      rw [himage, hci']
      dsimp only
      rw [← hlen, clampIf_bne_of_eq rfl, clampIf_bne_of_eq rfl, hfetch] <;> rfl
    constructor
    · intro e he
      rw [hexec, he]
    · intro p hp
      rw [hexec, hp]
  case decision =>
    intro s r dt u rest hu hdue x c y
    have hexec : exec (.planDecision r dt) s = .next (decidePlan x u) := by
      show execPlanDecision r dt s = _
      unfold execPlanDecision
      rw [hu]
      exact congrArg Host.Outcome.next (if_pos hdue)
    constructor
    · intro o d sig hc
      rw [hexec]
      unfold decidePlan
      dsimp only
      rw [hc]
    · intro p hc hraised hops
      rw [hexec]
      unfold decidePlan
      dsimp only
      rw [hc]
      dsimp only
      rw [if_neg (not_or.mpr ⟨by simp [hraised], ne_true_of_eq_false hops⟩)]
  case dropRead =>
    intro s r w rest hw hop hci dt hnone x hclosed
    have hci' : min (cwf w 4 0 10) 511 = cwf w 4 0 10 := by omega
    show execPlanDrop r dt s = _
    unfold execPlanDrop
    rw [hnone]
    dsimp only
    rw [takeCmd_front _ hw (by rw [hop]; rfl), if_neg (by simpa using hclosed), hci', clampIf_bne_of_eq rfl]
  case drop =>
    intro s r dt u rest hu hdue x d
    have hexec : exec (.planDrop r dt) s = .next (decideDrop x u) := by
      show execPlanDrop r dt s = _
      unfold execPlanDrop
      rw [hu]
      exact if_pos hdue
    refine ⟨?_, fun p ps hp => ⟨?_, ?_⟩⟩
    · intro hp
      have hpx : plansOf x u.ci = [] := hp
      rw [hexec]
      unfold decideDrop
      dsimp only
      rw [hpx]
    · intro hhome
      have hpx : plansOf x u.ci = p :: ps := hp
      rw [hexec]
      unfold decideDrop
      dsimp only
      rw [hpx]
      dsimp only
      rw [if_pos hhome]
    · intro hhome
      have hpx : plansOf x u.ci = p :: ps := hp
      rw [hexec]
      unfold decideDrop
      dsimp only
      rw [hpx]
      dsimp only
      rw [if_neg (by simp [hhome])]
      rfl

/-- Settles O20: fetch, copy, swap and freeing follow the branches of their commands. -/
theorem programCommandsAct : Obligations.ProgramCommandsAct := by
  unfold Obligations.ProgramCommandsAct
  refine ⟨?load, ?held, ?copy, ?swapRead, ?swap, ?free⟩
  case load =>
    intro s r w rest hw hop len a hlen hword hmin hmax x y hclosed haddr haddrx hfree hgood
    have himage : progImageAt w = (cwf w 16 0 64 / 4 * 4, len) := by
      unfold progImageAt
      rw [← hlen, clampNat_of_le hmin hmax, show (len + 3) / 4 * 4 = len by omega]
    have hfetch : fetchImage x r.val (cwf w 16 0 64 / 4 * 4) len = (y, some (rdBytes y a len)) := fetchImage_good haddrx hgood
    show execProgramLoad r s = _
    unfold execProgramLoad
    rw [takeImageCmd_free _ hw (by rw [hop]; rfl) (by rw [himage]; exact imageWaits_free haddr hfree), if_neg (by simpa using hclosed)]
    dsimp only
    rw [himage]
    dsimp only
    rw [← hlen, clampIf_bne_of_eq rfl, hfetch]
  case held =>
    intro s r w rest x hw hclosed
    constructor
    · intro hop hheld
      exact takeImageCmd_held (p := (· == 10)) _ hw (by rw [hop]; rfl) hclosed hheld
    · intro hop hheld
      exact takeImageCmd_held (p := (· == 12)) _ hw (by rw [hop]; rfl) hclosed hheld
  case copy =>
    intro s r dt u rest hu hdue x tiles img
    have hexec : exec (.programLoadCopyDone r dt) s = .next (decideLoad x u) := by
      show execProgramLoadCopyDone r dt s = _
      unfold execProgramLoadCopyDone
      rw [hu]
      exact congrArg Host.Outcome.next (if_pos hdue)
    refine ⟨?_, fun hgood => ⟨?_, ?_⟩⟩
    · intro hbad
      rw [hexec]
      unfold decideLoad
      dsimp only
      rw [if_pos hbad]
    · intro hfull
      rw [hexec]
      unfold decideLoad
      dsimp only
      rw [if_neg (by simp [hgood])]
      by_cases hret : tiles.any (fun y => (versionIn x y.1 y.2 u.prog .retiring).isSome) = true
      · rw [if_pos hret]
      · rw [if_neg hret, if_pos (hfull.resolve_left hret)]
    · intro hret hplace
      rw [hexec]
      unfold decideLoad
      dsimp only
      rw [if_neg (by simp [hgood]), if_neg (ne_true_of_eq_false hret), if_neg (ne_true_of_eq_false hplace)]
  case swapRead =>
    intro s r w rest hw hop dt hnone x hclosed
    show execProgramSwap r dt s = _
    unfold execProgramSwap
    rw [hnone]
    dsimp only
    rw [takeCmd_front _ hw (by rw [hop]; rfl), if_neg (by simpa using hclosed)]
  case swap =>
    intro s r dt u rest hu hdue x d tiles
    have hexec : exec (.programSwap r dt) s = .next (decideSwap x u) := by
      show execProgramSwap r dt s = _
      unfold execProgramSwap
      rw [hu]
      exact if_pos hdue
    constructor
    · intro hnone
      rw [hexec]
      unfold decideSwap
      exact congrArg Host.Outcome.next (if_pos hnone)
    · intro hall
      rw [hexec]
      unfold decideSwap
      exact congrArg Host.Outcome.next (if_neg (ne_true_of_eq_false hall))
  case free =>
    intro s k t prog v at1 tsw hv hswap hdue hfree
    show execRetiringVersionFreed k t prog s = _
    unfold execRetiringVersionFreed
    rw [hv]
    dsimp only
    rw [hswap]
    exact congrArg Host.Outcome.next (if_pos ⟨hdue, hfree⟩)

end Sys2Proof.Machine

/-! ## The decision of a job (O21) -/

namespace Sys2Proof.Machine
open Sys2Proof.Safety

/-- The oldest closed job of a ring whose decision instant has come is decided. -/
theorem exec_jobDecision_due {s : State} {r : Fin 256} (dt : Nat) {j : JobCmd} {rest : List JobCmd} {t : Int} (hj : (getRing s r.val).closed = j :: rest)
    (ht : t = jobStamp (getRing s r.val) j + lDec j.tasks.length (coupledCi s j.ci)) (hdue : reached s t = true) : exec (.jobDecision r dt) s = .next
      (touchSignals (showStamp (decideJob (raiseDelayViol (setRing (atDt s dt) r.val { getRing s r.val with
        closed := rest, lastDecision := some t, decided := (getRing s r.val).decided + 1 })) r.val j (jobStamp (getRing s r.val) j) t) r.val
        (jobStamp (getRing s r.val) j)) r.val) := by
  show execJobDecision r dt s = _
  unfold execJobDecision
  rw [hj]
  dsimp only
  rw [← ht, if_neg (by simp [hdue])]

section Decide

variable {s : State} {r : Nat} {j : JobCmd} {stamp t : Int}

/-- A structural failure refuses the job with the deadline of the plan that it names. -/
theorem decideJob_structural {d k : Nat} (h : structural s r j t = .error (d, k)) : decideJob s r j stamp t = refuseJob s r j stamp
    ((findPlan s j.slot t (if d = 1 ∨ d = 2 then [] else plansOf s j.ci)).map fun y => slotBoundary y.1.mu (ciOfs s j.ci) y.2 + j.deadline * 1000) 3 d k := by
  unfold decideJob
  rw [h]
  dsimp only
  cases findPlan s j.slot t (if d = 1 ∨ d = 2 then [] else plansOf s j.ci) with
  | none => rfl
  | some y => rfl

variable {p : Plan} {n : Int} (h : structural s r j t = .ok (p, n))
include h

theorem decideJob_capacity {o d k : Nat} (hc : capacity (costClamps s r p t (fitInput s r j p n t).s0 j.tasks) p n j t (fitInput s r j p n t).s0 = some (o, d, k)) :
    decideJob s r j stamp t = refuseJob (costClamps s r p t (fitInput s r j p n t).s0 j.tasks) r j stamp (some (fitInput s r j p n t).deadline) o d k := by
  unfold decideJob
  rw [h]
  dsimp only
  rw [hc]

variable (hc : capacity (costClamps s r p t (fitInput s r j p n t).s0 j.tasks) p n j t (fitInput s r j p n t).s0 = none)
include hc

theorem decideJob_never {d k : Nat} (hf : fit (fitInput s r j p n t) none = .error (d, k)) :
    decideJob s r j stamp t = refuseJob (costClamps s r p t (fitInput s r j p n t).s0 j.tasks) r j stamp (some (fitInput s r j p n t).deadline) 2 d k := by
  unfold decideJob
  rw [h]
  dsimp only
  rw [hc]
  dsimp only
  rw [hf]

variable {fs : List Int} (hf : fit (fitInput s r j p n t) none = .ok fs)
include hf

theorem decideJob_late {d k : Nat} (hn : fit (fitInput s r j p n t) (some t) = .error (d, k)) :
    decideJob s r j stamp t = refuseJob (costClamps s r p t (fitInput s r j p n t).s0 j.tasks) r j stamp (some (fitInput s r j p n t).deadline) 1 d k := by
  unfold decideJob
  rw [h]
  dsimp only
  rw [hc]
  dsimp only
  rw [hf]
  dsimp only
  rw [hn]

theorem decideJob_accept {fins : List Int} (hn : fit (fitInput s r j p n t) (some t) = .ok fins) :
    decideJob s r j stamp t = acceptJob (costClamps s r p t (fitInput s r j p n t).s0 j.tasks) r j (fitInput s r j p n t) stamp t fins := by
  unfold decideJob
  rw [h]
  dsimp only
  rw [hc]
  dsimp only
  rw [hf]
  dsimp only
  rw [hn]

end Decide

/-- Settles O21: the decision is the first branch of the job's checks that applies. -/
theorem jobsAreDecided : Obligations.JobsAreDecided := by
  unfold Obligations.JobsAreDecided
  refine ⟨?sound, ?structural, ?idle⟩
  case sound =>
    intro s r dt j rest hj g stamp t hdue x fin p n hs f y
    refine ⟨fun o d k hc => ?_, fun hc => ⟨fun d k hf => ?_, fun fs hf => ⟨fun d k hn => ?_, fun fins hn => ?_⟩⟩⟩
    · rw [exec_jobDecision_due dt hj rfl hdue]
      exact congrArg (fun z => Host.Outcome.next (fin z)) (decideJob_capacity hs hc)
    · rw [exec_jobDecision_due dt hj rfl hdue]
      exact congrArg (fun z => Host.Outcome.next (fin z)) (decideJob_never hs hc hf)
    · rw [exec_jobDecision_due dt hj rfl hdue]
      exact congrArg (fun z => Host.Outcome.next (fin z)) (decideJob_late hs hc hf hn)
    · rw [exec_jobDecision_due dt hj rfl hdue]
      exact congrArg (fun z => Host.Outcome.next (fin z)) (decideJob_accept hs hc hf hn)
  case structural =>
    intro s r dt j rest hj g stamp t hdue x
    constructor
    · intro d k hs
      refine ⟨_, ?_, rfl⟩
      rw [exec_jobDecision_due dt hj rfl hdue]
      exact congrArg (fun z => Host.Outcome.next (touchSignals (showStamp z r.val stamp) r.val)) (decideJob_structural hs)
    · intro hnone
      have hs : structural x r.val j t = .error (1, 0x3FF) := by
        unfold structural
        rw [hnone]
      rw [exec_jobDecision_due dt hj rfl hdue]
      exact congrArg (fun z => Host.Outcome.next (touchSignals (showStamp z r.val stamp) r.val)) (decideJob_structural hs)
  case idle =>
    intro s r dt
    constructor
    · intro hnone
      show execJobDecision r dt s = _
      unfold execJobDecision
      rw [hnone]
    · intro j rest hj hearly
      show execJobDecision r dt s = _
      unfold execJobDecision
      rw [hj]
      exact if_pos hearly

end Sys2Proof.Machine

/-! ## Release, fetch, notices and input of nodes (O22) -/

namespace Sys2Proof.Machine
open Sys2Proof.Safety

/-- Settles O22: each clause is a branch of its command. -/
theorem nodesBecomeReady : Obligations.NodesBecomeReady := by
  unfold Obligations.NodesBecomeReady
  refine ⟨?release, ?fetch, ?bad, ?notice, ?input⟩
  case release =>
    intro s node j n hn hchip hdue
    show execNodeRelease node s = _
    unfold execNodeRelease
    rw [hn]
    exact congrArg Host.Outcome.next (if_pos ⟨hchip, hdue⟩)
  case fetch =>
    intro s node j n hn hchip hpos hgood x
    show execNodeFetch node s = _
    unfold execNodeFetch
    rw [hn]
    dsimp only
    rw [if_neg (not_or.mpr ⟨ne_true_of_eq_false hchip, Nat.not_le.mpr hpos⟩), if_neg (ne_true_of_eq_false hgood)]
  case bad =>
    intro s node j n hn hchip hpos hbad
    show execNodeFetch node s = _
    unfold execNodeFetch
    rw [hn]
    dsimp only
    rw [if_neg (not_or.mpr ⟨ne_true_of_eq_false hchip, Nat.not_le.mpr hpos⟩), if_pos hbad]
  case notice =>
    intro s node dt x rest hx
    show Host.Outcome.next (deliverNotice (atDt s dt) node.toNat) = _
    unfold deliverNotice
    rw [show (atDt s dt).xfers = s.xfers from rfl, show (atDt s dt).notices = s.notices from rfl, hx]
    rfl
  case input =>
    intro s node dt j n p hn hin hdone hp ents slot whole
    have hgo : ¬ (n.cmd.inEn = false ∨ n.inputDone = true) := by simp [hin, hdone]
    constructor
    · intro hwhole
      show execInputArrival node dt s = _
      unfold execInputArrival
      rw [hn]
      dsimp only
      rw [if_neg hgo, hp]
      exact if_pos hwhole
    · intro hpart hbound y hy
      show execInputArrival node dt s = _
      unfold execInputArrival
      rw [hn]
      dsimp only
      rw [if_neg hgo, hp]
      dsimp only
      rw [if_neg (ne_true_of_eq_false hpart), if_neg (by simp [hbound]), ← hy]

end Sys2Proof.Machine

/-! ## Dispatch, the end of engine operations, and records (O23) -/

namespace Sys2Proof.Machine
open Sys2Proof.Safety

theorem getTile_congr {s t : State} (h : t.tiles = s.tiles) (p : Nat) : getTile t p = getTile s p := by unfold getTile; rw [h]
theorem getCl_congr {s t : State} (h : t.clusters = s.clusters) (k : Nat) : getCl t k = getCl s k := by unfold getCl; rw [h]

/-- A fresh core depends on the tile, its cluster and the registers only. -/
theorem taskCore_congr {s t : State} (htiles : t.tiles = s.tiles) (hcl : t.clusters = s.clusters) (hregs : t.regs = s.regs) (p ns : Nat) (j : Job) (n : Node)
    (v : ProgVer) : taskCore t p ns j n v = taskCore s p ns j n v := by
  unfold taskCore
  simp only [getTile_congr htiles, getCl_congr hcl, getR_congr hregs]

/-- Reading tct takes a free value and changes nothing else. -/
theorem taskCore_tctNow (s : State) (p ns : Nat) (j : Job) (n : Node) (v : ProgVer) : taskCore (tctNow s).2 p ns j n v = taskCore s p ns j n v :=
  taskCore_congr rfl rfl rfl p ns j n v

section Start

variable {s : State} {k : Fin 32} {res : Fin 14} {dt : Nat} {j : Job} {n : Node} (hhead : readyHead (atDt s dt) k.val res.val = some (j, n))
  (hidle : resBusy (atDt s dt) k.val res.val = false) (hlight : quadDark (atDt s dt) (k.val / 8) = false)
include hhead hidle hlight

theorem exec_taskStart_of_head : exec (.taskStart k res dt) s =
    if meetsWindow (atDt s dt) j n = false then .next (removeTask (atDt s dt) j n)
    else if resReady (atDt s dt) k.val res.val = true ∧ getF (atDt s dt) (PWR_CL_STAT_STATE k.val) ≤ 1 ∧ spacingOver (atDt s dt) k.val res.val = true then
      .next (if versionGone (atDt s dt) n then failNode (atDt s dt) j n 0x20 0x40 else startNode (atDt s dt) j n)
    else .next s := by
  show execTaskStart k res dt s = _
  unfold execTaskStart
  dsimp only
  rw [hhead]
  dsimp only
  rw [if_neg (not_or.mpr ⟨ne_true_of_eq_false hidle, ne_true_of_eq_false hlight⟩)]

theorem exec_taskStart_runs (hmeets : meetsWindow (atDt s dt) j n = true) (hready : resReady (atDt s dt) k.val res.val = true)
    (hrun : getF (atDt s dt) (PWR_CL_STAT_STATE k.val) = 0) (hspace : spacingOver (atDt s dt) k.val res.val = true) (hver : versionGone (atDt s dt) n = false) :
    exec (.taskStart k res dt) s = .next (startNode (atDt s dt) j n) := by
  rw [exec_taskStart_of_head hhead hidle hlight, if_neg (by simp [hmeets]), if_pos ⟨hready, by omega, hspace⟩, if_neg (ne_true_of_eq_false hver)]

end Start

/-- In a running cluster a node starts on its tile, or on its engine. -/
theorem startNode_of_run {s : State} {j : Job} {n : Node} {k res : Nat} {x1 x2 x : State} (hk : n.cluster = k) (hres : n.res = res)
    (h1 : x1 = mapNode s n.id (fun x => { x with st := .running, started := now s }))
    (h2 : x2 = setCl x1 k { getCl x1 k with starts := smPut (fun _ => 0) res (now s) (getCl x1 k).starts })
    (hx : x = setF (passCsm x2 k) (DAH_RES_NODE k res) n.id) (hrun : getF x2 (PWR_CL_STAT_STATE k) = 0) :
    startNode s j n = if res < 8 then (match startTileOf x k res with | some p => startTile x p j n | none => x) else startEngine x k (res - 8) n := by
  unfold startNode
  dsimp only
  rw [hk, hres, ← h1, ← h2, if_neg (show ¬ getF x2 (PWR_CL_STAT_STATE k) = 1 by omega), ← hx] <;> rfl

theorem letGo_recs (s : State) (j : Job) : (letGo s j).recs = s.recs := by
  unfold letGo touchSignals
  dsimp only
  split <;> rfl

/-- A record of a job, to an entry that is open, is written, and the job is let go. -/
theorem queueRec_of_job {s : State} {j : Job} {a : Nat} (hout : isRefusal (jobRec j).outcome = false) (hdev : recordsToHost s j.ring = false)
    (hjob : s.jobs.find? (fun x => x.recNode == j.recNode) = some j) (h : EntryOpen s j.ring a) :
    queueRec s true { ring := j.ring, irq := j.cmd.irq, rec_ := jobRec j, job := some j.recNode } =
      letGo (showRecord (recordPlaced s j.ring a true (jobRec j)) { ring := j.ring, irq := j.cmd.irq, rec_ := jobRec j, job := some j.recNode }) j := by
  generalize hp : ({ ring := j.ring, irq := j.cmd.irq, rec_ := jobRec j, job := some j.recNode } : PendRec) = p
  have hring : j.ring = p.ring := by rw [← hp]
  have hrec : jobRec j = p.rec_ := by rw [← hp]
  have hjobOf : p.job = some j.recNode := by rw [← hp]
  have hhub : p.hub = false := by rw [← hp]
  rw [hring] at hdev h ⊢
  rw [hrec] at hout ⊢
  have hrecorded : recorded (recordPlaced s p.ring a true p.rec_) p = letGo (showRecord (recordPlaced s p.ring a true p.rec_) p) j := by
    have hhost : recordsToHost (recordPlaced s p.ring a true p.rec_) p.ring = false := by
      unfold recordsToHost at hdev ⊢
      rw [getR64_congr (recordPlaced_regs true p.rec_), hdev]
    unfold recorded
    dsimp only
    rw [hhub, hjobOf, Bool.false_and, if_neg Bool.false_ne_true, Option.bind_some, showRecord_jobs hout, recordPlaced_jobs, hjob]
    dsimp only
    rw [hhost, Bool.and_false, Bool.false_and, if_neg Bool.false_ne_true]
  have hrecs : (letGo (showRecord (recordPlaced s p.ring a true p.rec_) p) j).recs = s.recs := by
    rw [letGo_recs, showRecord_recs hout, recordPlaced_recs]
  show sendRecs p.ring ((withRec (entryTaken s p.ring true) p).recs.length + 1) (withRec (entryTaken s p.ring true) p) = _
  rw [sendRecs_of_open true (by rw [← hp]) _ h, hrecorded]
  exact sendRecs_of_none _ (by rw [hrecs]; exact h.2.1)

/-- Settles O23: each clause is a branch of its command; a record whose entry is open is written as it falls due. -/
theorem tasksStartAndEnd : Obligations.TasksStartAndEnd := by
  unfold Obligations.TasksStartAndEnd
  refine ⟨?removed, ?started, ?engine, ?hostWait, ?record, ?wake⟩
  case removed =>
    intro s k res dt j n hhead hidle hlight hmiss
    rw [exec_taskStart_of_head hhead hidle hlight, if_pos hmiss]
  case started =>
    intro s k res dt j n hhead hidle hlight hmeets hready hstate hspace hver hk hres x1 x2 x h1 h2 hx hrun
    rw [exec_taskStart_runs hhead hidle hlight hmeets hready hstate hspace hver, startNode_of_run hk hres h1 h2 hx hrun]
    constructor
    · intro p v htile hp hv
      rw [if_pos htile, hp]
      dsimp only
      unfold startTile
      rw [hv]
      dsimp only
      rw [taskCore_tctNow]
    · intro hengine
      rw [if_neg (by omega)]
  case engine =>
    intro s k res dt j n p j1 n1 x hres hn hp hready hx
    have hgo : ¬ engineReady (atDt s dt) k.val res.val = false := by simp [hready]
    constructor
    · intro hrange hn1
      show execEngineOperationEnd k res dt s = _
      unfold execEngineOperationEnd
      dsimp only
      rw [if_neg hres, hn]
      dsimp only
      rw [hp]
      dsimp only
      rw [if_neg hgo, hx, hrange, if_neg Bool.false_ne_true, hn1]
      dsimp only
      rw [if_neg Bool.false_ne_true]
    · intro hrange hgood hn1
      show execEngineOperationEnd k res dt s = _
      unfold execEngineOperationEnd
      dsimp only
      rw [if_neg hres, hn]
      dsimp only
      rw [hp]
      dsimp only
      rw [if_neg hgo, hx, hrange, hgood, if_pos rfl, hn1]
      rfl
  case hostWait =>
    intro s node dt j n hn hst hwait hclo x
    show execWindowCloseHostWait node dt s = _
    unfold execWindowCloseHostWait
    rw [hn]
    exact if_pos ⟨hst, hwait, hclo⟩
  case record =>
    intro s node dt j hj hcount hxfers hlate hrecs
    have hnone : (s.recs.any fun x => x.job == some j.recNode) = false := by
      rw [List.any_eq_false]
      intro y hy
      simpa using hrecs y hy
    have hexec : exec (.recordWrite node dt) s = .next (endJob (atDt s dt) j) := by
      show execRecordWrite node dt s = _
      unfold execRecordWrite
      rw [hj]
      dsimp only
      rw [if_neg (by simp only [hcount, hxfers, hlate, hnone]; decide)]
    have hkept : j.lost = false → exec (.recordWrite node dt) s =
        .next (queueRec (atDt s dt) true { ring := j.ring, irq := j.cmd.irq, rec_ := jobRec j, job := some j.recNode }) := fun hlost => by
      rw [hexec]
      unfold endJob
      rw [if_neg (ne_true_of_eq_false hlost)]
    refine ⟨?_, hkept, ?_⟩
    · intro hlost
      rw [hexec]
      unfold endJob
      rw [if_pos hlost]
    · intro hlost hout hdev a hopen hcan
      have hid : j.recNode = node.toNat := by simpa using List.find?_some hj
      refine ⟨_, recordShown_showRecord (s := atDt s dt) (p := { ring := j.ring, irq := j.cmd.irq, rec_ := jobRec j, job := some j.recNode }) true hcan hopen.1 hout, ?_⟩
      rw [hkept hlost]
      exact congrArg Host.Outcome.next (queueRec_of_job (s := atDt s dt) hout hdev (by rw [hid]; exact hj) hopen)
  case wake =>
    intro s k due hdue hlevel x y hx hy hneed
    show execWakeRequest k s = _
    unfold execWakeRequest
    dsimp only
    rw [hlevel, ← hx, if_pos hdue, ← hy, if_neg (ne_true_of_eq_false hneed)]

end Sys2Proof.Machine

/-! ## The channels of a DMA controller (O24) -/

namespace Sys2Proof.Machine
open Sys2Proof.Safety

section Abort

variable {s : State} {k ch : Nat}

/-- ABORT of a channel with a descriptor in progress leaves the first unchecked entry. -/
theorem abortChannel_of_entry {e : Nat} (hch : ch ≠ 0)
    (hst : getF s (DMA_CH_STAT_STATE k ch) = 1 ∨ getF s (DMA_CH_STAT_STATE k ch) = 2 ∨ getF s (DMA_CH_STAT_STATE k ch) = 3)
    (he : (match (getDma s k ch).toRead with
      | some (_, e1, _) => e1
      | none => if getF s (DMA_CH_STAT_STATE k ch) = 2 then (if getF s (DMA_CH_STAT_ENTRY k ch) = 31 then 0 else getF s (DMA_CH_STAT_ENTRY k ch))
        else (getDma s k ch).n) = e) :
    let y := setDma s k ch { getDma s k ch with toRead := none }
    let x := goOn (setF (setF y (DMA_CH_STAT_STATE k ch) 4) (DMA_CH_STAT_ENTRY k ch) e) k ch
    abortChannel s k ch = endWaiting (if ch = 1 then refresh x (clSrc k 9) else x) k ch := by
  intro y x
  have hgo : ¬ (ch = 0 ∨ (getF s (DMA_CH_STAT_STATE k ch) ≠ 1 ∧ getF s (DMA_CH_STAT_STATE k ch) ≠ 2 ∧ getF s (DMA_CH_STAT_STATE k ch) ≠ 3)) := by omega
  unfold abortChannel
  dsimp only
  rw [if_neg hgo]
  exact congrArg (fun e => endWaiting (if ch = 1 then refresh (goOn (setF (setF y (DMA_CH_STAT_STATE k ch) 4) (DMA_CH_STAT_ENTRY k ch) e) k ch) (clSrc k 9)
    else goOn (setF (setF y (DMA_CH_STAT_STATE k ch) 4) (DMA_CH_STAT_ENTRY k ch) e) k ch) k ch) he

end Abort

/-- A RUNNING channel with nothing left to read or move completes its descriptor. -/
theorem completeChannel_done {s y : State} {k ch : Nat} (hst : getF s (DMA_CH_STAT_STATE k ch) = 1) (hread : (getDma s k ch).toRead = none)
    (hy : y = if ch = 1 then hostRest s k else s) (hmoves : (getDma y k ch).moves = []) {x : State}
    (hx : x = closeUnit (addF (setF (setF y (DMA_CH_STAT_STATE k ch) 0) (DMA_CH_STAT_DONE k ch) 1) (DMA_CNT_DESC k) 1) k ch) :
    completeChannel s k ch =
      if ch = 0 then (match (getDma y k ch).node.bind (findNode (setDma x k 0 { getDma x k 0 with node := none })) with
        | some (j, n) => endDmaTask (setDma x k 0 { getDma x k 0 with node := none }) k j n
        | none => setDma x k 0 { getDma x k 0 with node := none })
      else if ch = 1 then (if (getDma y k ch).irq then refresh (setDma x k 1 { getDma x k 1 with irqDone := true }) (clSrc k 9) else x)
      else endWaiting (if (getDma y k ch).irq then (match physOf x k (ch - 2) with | some p => raiseLine x p 2 | none => x) else x) k ch := by
  have hrun : ¬ (ch = 1 ∧ (getF s (DMA_CH_STAT_STATE k 1) = 2 ∨ getF s (DMA_CH_STAT_STATE k 1) = 4)) := by
    rintro ⟨rfl, h⟩
    omega
  unfold completeChannel
  dsimp only
  rw [if_neg hrun, if_neg (by simp [hst, hread]), ← hy, if_neg (by simp [hmoves]), ← hx] <;> rfl

/-- Settles O24: each clause is a branch of its command. -/
theorem dmaChannelsAct : Obligations.DmaChannelsAct := by
  unfold Obligations.DmaChannelsAct
  refine ⟨?start, ?resume, ?abort, ?complete, ?rest, ?dark, ?window, ?host⟩
  case start =>
    intro s k ch hlive hch hst
    show execDmaStart k ch s = _
    unfold execDmaStart startChannel
    rw [if_pos hlive]
    exact congrArg Host.Outcome.next (if_neg (by omega))
  case resume =>
    intro s k ch hlive hch hst st x
    show execDmaResume k ch s = _
    unfold execDmaResume resumeChannel
    rw [if_pos hlive]
    exact congrArg Host.Outcome.next (if_neg (by omega))
  case abort =>
    intro s k ch e hlive hch hcase y x
    show execDmaAbort k ch s = _
    unfold execDmaAbort
    rw [if_pos hlive]
    refine congrArg Host.Outcome.next ?_
    rcases hcase with ⟨hst, hread, he⟩ | ⟨hst, hread, he⟩ | ⟨hst, a, f, hread⟩
    · exact abortChannel_of_entry hch (by omega) (by rw [hread]; exact (if_pos hst).trans he.symm)
    · exact abortChannel_of_entry hch (by omega) (by rw [hread]; exact (if_neg (by omega)).trans he.symm)
    · exact abortChannel_of_entry hch hst (by rw [hread])
  case complete =>
    intro s k ch hst hread y hy hmoves x hx
    have hexec : exec (.descriptorComplete k ch) s = .next (completeChannel s k.val ch.val) := rfl
    rw [hexec, completeChannel_done hst hread hy hmoves hx]
    refine ⟨?quiet, ?line, ?hostIrq, ?task⟩
    case quiet =>
      intro hch hirq
      rw [if_neg (by omega), if_neg (by omega), if_neg (ne_true_of_eq_false hirq)]
    case line =>
      intro p hch hirq hp
      rw [if_neg (by omega), if_neg (by omega), if_pos hirq, hp]
    case hostIrq =>
      intro hch
      rw [if_neg (by omega), if_pos hch, hch]
    case task =>
      intro hch z id j n hz hid hn
      rw [if_pos hch, ← hz, hch, hid, Option.bind_some, hn]
      rfl
  case rest =>
    intro s k hst
    have hexec : exec (.descriptorComplete k 1) s = .next (completeChannel s k.val 1) := rfl
    rw [hexec]
    unfold completeChannel
    rw [if_pos ⟨rfl, hst⟩]
  case dark =>
    intro s k ch hoff
    rcases hoff with hdark | hch
    · have hno : ¬ blockLive s .dma k.val = true := ne_true_of_eq_false hdark
      exact ⟨congrArg Host.Outcome.next (if_neg hno), congrArg Host.Outcome.next (if_neg hno), congrArg Host.Outcome.next (if_neg hno)⟩
    · have hstart : startChannel s k.val ch.val = s := if_pos (.inl hch)
      have hresume : resumeChannel s k.val ch.val = s := if_pos (.inl hch)
      have habort : abortChannel s k.val ch.val = s := if_pos (.inl hch)
      refine ⟨?_, ?_, ?_⟩
      · show execDmaStart k ch s = _
        unfold execDmaStart
        rw [hstart, ite_self]
      · show execDmaResume k ch s = _
        unfold execDmaResume
        rw [hresume, ite_self]
      · show execDmaAbort k ch s = _
        unfold execDmaAbort
        rw [habort, ite_self]
  case window =>
    intro s k
    exact ⟨fun hst hopen => congrArg Host.Outcome.next (if_pos ⟨hst, hopen⟩), fun hst hover => congrArg Host.Outcome.next (if_pos ⟨hst, hover⟩)⟩
  case host =>
    intro s k ch m rest hup hmoves hlate
    have hup' : ¬ now s < s.linkHeld := by omega
    constructor
    · intro hst x
      have hnot : ¬ (ch.val = 0 ∧ lateIs s k.val .writing = true) := by
        rintro ⟨hch, hwriting⟩
        unfold lateIs at hwriting
        rw [hlate hch] at hwriting
        exact absurd hwriting (by decide)
      have hgo : goHead s k.val ch.val = setDma x k.val ch.val { getDma x k.val ch.val with
          moves := if (nextPiece m m.data.length).len = 0 then rest else nextPiece m m.data.length :: rest } := by
        unfold goHead
        dsimp only
        rw [hmoves]
        exact if_pos hst
      show execHostWriteGo (.channel k ch) s = _
      unfold execHostWriteGo
      dsimp only
      rw [if_neg hup', if_neg hnot, hgo]
      rfl
    · intro hst
      have hret : returned m = { m with st := .returned } := if_pos hst
      show execHostReadReturn k ch s = _
      unfold execHostReadReturn
      dsimp only
      rw [if_neg hup', hmoves]
      cases hl : (getDma s k.val ch.val).late with
      | nil =>
        simp [hret]
      | cons z t =>
        have hch : ch.val ≠ 0 := fun h0 => by
          have := hlate h0
          rw [h0, this] at hl
          exact absurd hl (by simp)
        simp [hret, hch]

end Sys2Proof.Machine

/-! ## Patrol, row sparing and the host's accesses (O25) -/

namespace Sys2Proof.Machine
open Sys2Proof.Safety

section Flat

/-- Every memory begins at a granule. -/
theorem unitBase_granule (m : MemUnit) : unitBase m % 32 = 0 := by
  cases m <;> simp only [unitBase] <;> omega

theorem flat_granule (m : MemUnit) (g : Nat) : 32 * (flat m (32 * g) / 32) = flat m (32 * g) := by
  have h := unitBase_granule m
  unfold flat
  omega

theorem granule_of_flat (m : MemUnit) (g : Nat) : flat m (32 * g) / 32 - unitBase m / 32 = g := by
  have h := unitBase_granule m
  unfold flat
  omega

theorem fin_ofNat_eq {n : Nat} [NeZero n] {i : Fin n} {x : Nat} (h : x = i.val) : Fin.ofNat n x = i := by
  subst h
  exact Fin.ofNat_val_eq_self i

/-- An address of a memory with codewords lies in it. -/
theorem unitAt_flat {m : MemUnit} {o : Nat} (ho : o < unitSize m) (hm : inCodewords m = true) : unitAt (flat m o) = m := by
  cases m with
  | host => exact absurd hm (by decide)
  | nvs => exact absurd hm (by decide)
  | dram q =>
    have hq := q.isLt
    simp only [unitSize] at ho
    unfold unitAt flat unitBase
    dsimp only
    rw [if_neg (by omega), if_pos (by omega), fin_ofNat_eq (i := q) (by omega)]
  | csm k =>
    have hk := k.isLt
    simp only [unitSize] at ho
    unfold unitAt flat unitBase
    dsimp only
    rw [if_neg (by omega), if_neg (by omega), if_pos (by omega), fin_ofNat_eq (i := k) (by omega)]
  | scratch p =>
    have hp := p.isLt
    simp only [unitSize] at ho
    unfold unitAt flat unitBase
    dsimp only
    rw [if_neg (by omega), if_neg (by omega), if_neg (by omega), if_pos (by omega), fin_ofNat_eq (i := p) (by omega)]
  | imem p =>
    have hp := p.isLt
    simp only [unitSize] at ho
    unfold unitAt flat unitBase
    dsimp only
    rw [if_neg (by omega), if_neg (by omega), if_neg (by omega), if_neg (by omega), if_pos (by omega), fin_ofNat_eq (i := p) (by omega)]

end Flat

section Patrol

variable {s : State} {m : MemUnit} {g : Nat} {es : List SymErr}

/-- PATROL_SCRUB of a granule of a memory with codewords: its errors come, and patrol reads it where it runs and no fence stands. -/
theorem exec_patrolScrub_inside (hg : 32 * g < unitSize m) (hm : inCodewords m = true) :
    let a := flat m (32 * g)
    let x := putErr s (a / 32) (errAt s (a / 32) ^^^ errPattern es)
    exec (.patrolScrub m g es) s = if patrols s m = false then .next x
      else .next (if unitSize m = 32 * g + 32 then passDone (if fencedAt s a then x else settle x (a / 32)) m else if fencedAt s a then x else settle x (a / 32)) := by
  intro a x
  show execPatrolScrub m g es s = _
  unfold execPatrolScrub
  rw [if_neg (by omega)]
  dsimp only
  rw [if_pos hm, flat_granule]

end Patrol

section Settle

variable {x : State} {g e : Nat}

theorem settle_poisoned (h : poisoned x g = true) : settle x g = foundBad x (32 * g) false := if_pos h

theorem settle_clean (h : poisoned x g = false) (he : errAt x g = 0) : settle x g = x := by
  unfold settle
  dsimp only
  rw [if_neg (ne_true_of_eq_false h), if_pos (.inl he)]

theorem settle_errors (h : poisoned x g = false) (herr : errAt x g = e) (he : e ≠ 0) (hf : fencedAt x (32 * g) = false) : settle x g =
    match rsDecode e with
    | (.clean, r) => rsWriteBack x g r
    | (.corrected, r) => foundCorrected (rsWriteBack x g r) (unitAt (32 * g)) (g - unitBase (unitAt (32 * g)) / 32)
    | (.address, _) => foundBad (putErr x g 0) (32 * g) true
    | (.uncorrectable, _) => foundBad (putErr x g 0) (32 * g) false := by
  unfold settle
  dsimp only
  rw [if_neg (ne_true_of_eq_false h), herr, if_neg (not_or.mpr ⟨he, ne_true_of_eq_false hf⟩)] <;> rfl

end Settle

section Host

variable {s : State} {q : Fin 4} {ofs len : Nat}

theorem foldl_untainted (a : Nat) (l : List ((Byte × Bool) × Nat)) (s : State) (h : ∀ x ∈ l, x.1.2 = false) :
    l.foldl (fun s x => if x.1.2 then setPoison s ((a + x.2) / 32) true else s) s = s := by
  induction l generalizing s with
  | nil => rfl
  | cons x l ih =>
    rw [List.foldl_cons, if_neg (ne_true_of_eq_false (h x List.mem_cons_self))]
    exact ih s fun y hy => h y (List.mem_cons_of_mem x hy)

/-- A write that carries no poison is a plain write. -/
theorem wrTainted_clean (s : State) (a : Nat) (bs : List Byte) : wrTainted s a (bs.map fun b => (b, false)) = wrMem s a bs := by
  unfold wrTainted
  rw [List.map_map, foldl_untainted]
  · simp [Function.comp_def]
  · intro x hx
    obtain ⟨b, -, hb⟩ := List.mem_map.mp (List.of_mem_zip (a := x.1) (b := x.2) hx).1
    rw [← hb]

/-- The lines that a host access of n bytes admits. -/
theorem hdm_lines {o n : Nat} (hn : n ≠ 0) (hend : o + n ≤ 95 * 2 ^ 28) : (dramFlat q.val + o - 2 ^ 60) % 2 ^ 36 / 64 = o / 64 ∧
    linesOf (dramFlat q.val + o) n = (o + n - 1) / 64 - o / 64 + 1 := by
  have hq := q.isLt
  unfold linesOf dramFlat
  rw [if_neg hn]
  constructor <;> omega

theorem hdmRange_end : (hdmRange s q.val).2 ≤ 95 * 2 ^ 28 := by
  unfold hdmRange
  dsimp only
  exact Nat.mul_le_mul_right _ (Nat.min_le_left _ _)

/-- An access that waits behind none and has no line to take back is made. -/
theorem makeAcc_of_free {w : WaitAcc} (hwaits : ∀ x ∈ s.waits, behind x w.who = false) (hgo : mustGo s w = (none, s)) : makeAcc s w = performAcc s w := by
  unfold makeAcc
  rw [if_neg (ne_true_of_eq_false (List.any_eq_false.mpr fun x hx => ne_true_of_eq_false (hwaits x hx))), hgo]

/-- One that has a line to take back waits, and the snoop goes out. -/
theorem makeAcc_of_victim {w : WaitAcc} {x : (Nat × Nat) × Bool} {s1 : State} (hwaits : ∀ y ∈ s.waits, behind y w.who = false) (hgo : mustGo s w = (some x, s1)) :
    makeAcc s w = snoopLine { s1 with waits := s1.waits ++ [w] } x.1 x.2 := by
  unfold makeAcc
  rw [if_neg (ne_true_of_eq_false (List.any_eq_false.mpr fun y hy => ne_true_of_eq_false (hwaits y hy))), hgo]

/-- The lines of n from a line that the filter does not hold. -/
def freshLines (s : State) (q line n : Nat) : Nat := (((List.range n).map (line + ·)).filter fun l => sfGet s q l == 0).length

theorem freshLines_eq (s : State) (q line n : Nat) : freshLines s q line n = ((List.range n).filter fun i => sfGet s q (line + i) == 0).length := by
  unfold freshLines
  rw [List.filter_map, List.length_map]
  rfl

theorem victimLine_room {line n : Nat} (h : (heldLines s q.val).length + freshLines s q.val line n ≤ 262144) : victimLine s q.val line n = (none, s) := by
  rw [freshLines_eq] at h
  exact if_pos h

theorem victimLine_full {line n : Nat} (h : 262144 < (heldLines s q.val).length + freshLines s q.val line n) (hheld : heldLines s q.val ≠ []) :
    ∃ v ∈ heldLines s q.val, victimLine s q.val line n = (some (q.val, v.1 % 2 ^ 32), (takeFree s).2) := by
  have hlen : Config.sfVictim (takeFree s).1 % (heldLines s q.val).length < (heldLines s q.val).length := Nat.mod_lt _ (List.length_pos_iff.mpr hheld)
  refine ⟨(heldLines s q.val)[Config.sfVictim (takeFree s).1 % (heldLines s q.val).length], List.getElem_mem hlen, ?_⟩
  rw [freshLines_eq] at h
  unfold victimLine
  dsimp only
  rw [if_neg (by omega), List.getElem?_eq_getElem hlen]
  rfl

/-- The lines admitted, in the order of their numbers. -/
theorem foldl_admit (q line v n : Nat) (t : State) :
    (List.range n).foldl (fun s i => sfPut s q (line + i) v) t = ((List.range n).map (line + ·)).foldl (fun t l => sfPut t q l v) t := by
  rw [List.foldl_map]

/-- A host access inside the HDM range of a quadrant in power reaches the MEMC. -/
theorem exec_hdmAccess_inside {own : Bool} (write : Option (List Byte)) {n : Nat} (hn : n = (match write with | some bs => bs.length | none => len))
    (hup : s.linkHeld ≤ now s) (hlocked : isF s (MEM_HDM_LOCKED q.val) = true) (hlight : quadDark s q.val = false)
    (hend : (hdmRange s q.val).1 + ofs + n ≤ (hdmRange s q.val).2) :
    exec (.hdmAccess q ofs write len own) s = .next (makeAcc s ⟨.host q.val own, dramFlat q.val + (hdmRange s q.val).1 + ofs, n, write.bind cleanWrite⟩) := by
  show execHdmAccess q ofs write len own s = _
  unfold execHdmAccess
  dsimp only
  rw [if_neg (by omega), if_neg (ne_true_of_eq_false hlight)]
  subst hn
  exact if_neg (not_or.mpr ⟨by simp [hlocked], Nat.not_lt.mpr hend⟩)

section Access

variable {own : Bool} {a n line k : Nat} (hline : (a - 2 ^ 60) % 2 ^ 36 / 64 = line) (hlines : linesOf a n = k)
include hline hlines

theorem mustGo_room {write : Option (List (Byte × Bool))}
    (h : hostHolds own write.isSome = 0 ∨ (heldLines s q.val).length + freshLines s q.val line k ≤ 262144) : mustGo s ⟨.host q.val own, a, n, write⟩ = (none, s) := by
  unfold mustGo
  dsimp only
  rw [hline, hlines]
  by_cases hnone : hostHolds own write.isSome = 0
  · rw [if_pos hnone]
  · rw [if_neg hnone, victimLine_room (h.resolve_left hnone)]
    rfl

theorem mustGo_full {write : Option (List (Byte × Bool))} (hown : hostHolds own write.isSome ≠ 0)
    (h : 262144 < (heldLines s q.val).length + freshLines s q.val line k) (hheld : heldLines s q.val ≠ []) :
    ∃ v ∈ heldLines s q.val, mustGo s ⟨.host q.val own, a, n, write⟩ = (some ((q.val, v.1 % 2 ^ 32), true), (takeFree s).2) := by
  obtain ⟨v, hv, hvictim⟩ := victimLine_full h hheld
  refine ⟨v, hv, ?_⟩
  unfold mustGo
  dsimp only
  rw [hline, hlines, if_neg hown, hvictim]
  rfl

theorem performAcc_write (bs : List Byte) : performAcc s ⟨.host q.val own, a, n, cleanWrite bs⟩ =
    ((List.range k).map (line + ·)).foldl (fun t l => sfPut t q.val l (if own then 2 else 0)) (wrMem s a bs) := by
  unfold performAcc cleanWrite
  dsimp only
  rw [hline, hlines, wrTainted_clean, foldl_admit]
  rfl

theorem performAcc_read : performAcc s ⟨.host q.val own, a, n, none⟩ =
    ((List.range k).map (line + ·)).foldl (fun t l => sfPut t q.val l (if own then 2 else 1))
      (emit (readBad s a n) (.readData (rdBytes (readBad s a n) a n) (badRead (readBad s a n) a n))) := by
  unfold performAcc
  dsimp only
  rw [hline, hlines, foldl_admit]
  rfl

end Access

end Host

/-- Settles O25: patrol decodes by the cases of the decoder, sparing and the host's accesses follow the branches of their commands. -/
theorem memoryIsScrubbedAndShared : Obligations.MemoryIsScrubbedAndShared := by
  unfold Obligations.MemoryIsScrubbedAndShared
  refine ⟨?patrol, ?noGranule, ?spare, ?copied, ?access, ?dark, ?answers, ?held⟩
  case patrol =>
    intro s m g es hg hm a e x fin
    have hexec := exec_patrolScrub_inside (s := s) (es := es) hg hm
    have hflat : 32 * (a / 32) = a := flat_granule m g
    refine ⟨fun hoff => ?off, fun hon hfence => ?fenced, fun hon hopen hwf => ⟨fun hp => ?poisoned, fun hp he => ?clean, fun hp he => ?errors⟩⟩
    case off => rw [hexec, if_pos hoff]
    case fenced =>
      rw [hexec, if_neg (by simp [hon]), if_pos hfence]
    case poisoned =>
      have hx : poisoned x (a / 32) = true := hp
      rw [hexec, if_neg (by simp [hon]), if_neg (ne_true_of_eq_false hopen), settle_poisoned hx, hflat]
    case clean =>
      have hx : poisoned x (a / 32) = false := hp
      have herr : errAt x (a / 32) = 0 := (errAt_putErr_same (s := s) (a / 32) e hwf).trans he
      rw [hexec, if_neg (by simp [hon]), if_neg (ne_true_of_eq_false hopen), settle_clean hx herr]
    case errors =>
      have hx : poisoned x (a / 32) = false := hp
      have herr : errAt x (a / 32) = e := errAt_putErr_same (s := s) (a / 32) e hwf
      have hopen' : fencedAt x (32 * (a / 32)) = false := by
        rw [hflat]
        exact (fencedAt_congr (s := s) (t := x) rfl a).trans hopen
      have hsettle := settle_errors hx herr he hopen'
      have hunit : unitAt (32 * (a / 32)) = m := by
        rw [hflat]
        exact unitAt_flat hg hm
      rw [hunit, hflat, show a / 32 - unitBase m / 32 = g from granule_of_flat m g] at hsettle
      rw [hexec, if_neg (by simp [hon]), if_neg (ne_true_of_eq_false hopen), hsettle]
      refine ⟨fun d hd => ?_, fun d hd => ?_, fun d hd => ?_, fun d hd => ?_⟩ <;> rw [hd]
  case noGranule => exact fun s m g es hg => if_pos hg
  case spare =>
    intro s q g b row used
    have hexec : exec (.spareReq q) s = .next (if blockLive s .mem q.val then spareRow s q.val g else s) := rfl
    refine ⟨fun hno => ?_, fun hlive hcopy hdone hroom => ?_, fun hlive hcopy hdone hfull => ?_⟩
    · rw [hexec]
      rcases hno with hdark | hrow
      · rw [if_neg (ne_true_of_eq_false hdark)]
      · have hsame : spareRow s q.val g = s := if_pos (by simpa using hrow)
        rw [hsame, ite_self]
    · have hnew : ¬ (s.rowCopies.contains row = true ∨ s.spared.contains row = true) := by simpa using ⟨hcopy, hdone⟩
      rw [hexec, if_pos hlive]
      exact congrArg Host.Outcome.next ((if_neg hnew).trans (if_pos hroom))
    · have hnew : ¬ (s.rowCopies.contains row = true ∨ s.spared.contains row = true) := by simpa using ⟨hcopy, hdone⟩
      rw [hexec, if_pos hlive]
      exact congrArg Host.Outcome.next ((if_neg hnew).trans (if_neg (Nat.not_lt.mpr hfull)))
  case copied =>
    intro s q q1 b row rest hrow u x y
    show execRowSpareCopyDone q s = _
    unfold execRowSpareCopyDone
    rw [hrow]
  case access =>
    intro s q ofs len own hup hlocked hlight hwaits r a line lines new take
    have hrange : r.2 ≤ 95 * 2 ^ 28 := hdmRange_end
    constructor
    · intro bs hbs hend n hroom
      have hlen : bs.length ≠ 0 := by simpa using hbs
      obtain ⟨hline, hlines⟩ := hdm_lines (q := q) hlen (hend.trans hrange)
      rw [← Nat.add_assoc] at hline hlines
      have hgo : hostHolds own (cleanWrite bs).isSome = 0 ∨ (heldLines s q.val).length + freshLines s q.val line n ≤ 262144 := by
        rcases hroom with rfl | hroom
        · exact .inl rfl
        · exact .inr hroom
      rw [exec_hdmAccess_inside (some bs) rfl hup hlocked hlight hend]
      exact congrArg Host.Outcome.next ((makeAcc_of_free hwaits (mustGo_room hline hlines hgo)).trans (performAcc_write hline hlines bs))
    · intro hlen hend n
      obtain ⟨hline, hlines⟩ := hdm_lines (q := q) hlen (hend.trans hrange)
      rw [← Nat.add_assoc] at hline hlines
      constructor
      · intro hroom x
        rw [exec_hdmAccess_inside none rfl hup hlocked hlight hend]
        exact congrArg Host.Outcome.next ((makeAcc_of_free hwaits (mustGo_room hline hlines (.inr hroom))).trans (performAcc_read hline hlines))
      · intro hfull hheld
        have hown : hostHolds own false ≠ 0 := by cases own <;> decide
        obtain ⟨v, hv, hgo⟩ := mustGo_full (n := len) (write := none) hline hlines hown hfull hheld
        refine ⟨v, hv, ?_⟩
        rw [exec_hdmAccess_inside none rfl hup hlocked hlight hend]
        exact congrArg Host.Outcome.next (makeAcc_of_victim hwaits hgo)
  case dark =>
    intro s q ofs len own bs hup hdark
    constructor
    · show execHdmAccess q ofs none len own s = _
      unfold execHdmAccess
      dsimp only
      rw [if_neg (by omega), if_pos hdark]
    · show execHdmAccess q ofs (some bs) len own s = _
      unfold execHdmAccess
      dsimp only
      rw [if_neg (by omega), if_pos hdark]
  case answers =>
    intro s q line hup
    exact ⟨congrArg Host.Outcome.next (if_neg (by omega)), congrArg Host.Outcome.next (if_neg (by omega))⟩
  case held =>
    intro s q line ofs len bs own hheld
    exact ⟨if_pos hheld, congrArg Host.Outcome.next (if_pos hheld), congrArg Host.Outcome.next (if_pos hheld)⟩

end Sys2Proof.Machine

/-! ## Level sources and fields in other registers -/

namespace Sys2Proof.Machine
open Sys2Proof.Safety

section Frames

variable {s t : State} {f : Field}

theorem onlyRegs_setInt (s : State) (n : Nat) (x : IntSrc) : OnlyRegs s (setInt s n x) := rfl

theorem onlyRegs_intLevel (s : State) (n : Nat) (b : Bool) : OnlyRegs s (intLevel s n b) := by
  unfold intLevel
  dsimp only
  generalize (if (b && (getInt s n).stuck && decide ((getInt s n).since + 1000000 ≤ now s)) = true then
    { getInt s n with stuck := false, due := false } else getInt s n) = i
  by_cases hsame : i.asserted = b
  · rw [if_pos hsame]
    exact .refl s
  · rw [if_neg hsame]
    split
    · split
      · exact onlyRegs_setInt s n _
      · split
        · exact onlyRegs_setInt s n _
        · exact onlyRegs_setInt s n _
    · exact onlyRegs_setInt s n _

theorem onlyRegs_refresh (s : State) (n : Nat) : OnlyRegs s (refresh s n) := by
  unfold refresh
  split
  · exact onlyRegs_intLevel s n _
  · exact .refl s

theorem intLevel_regs (s : State) (n : Nat) (b : Bool) : (intLevel s n b).regs = s.regs := by
  unfold intLevel
  dsimp only
  generalize (if (b && (getInt s n).stuck && decide ((getInt s n).since + 1000000 ≤ now s)) = true then
    { getInt s n with stuck := false, due := false } else getInt s n) = i
  split
  · rfl
  · split
    · split
      · rfl
      · split <;> rfl
    · rfl

@[simp] theorem refresh_regs (s : State) (n : Nat) : (refresh s n).regs = s.regs := by
  unfold refresh
  split
  · exact intLevel_regs s n _
  · rfl

theorem onlyRegs_addF (s : State) (f : Field) (k : Nat) : OnlyRegs s (addF s f k) := by
  unfold addF
  exact onlyRegs_setF s f _

theorem addF_regs_wf (f : Field) (k : Nat) (h : smWf regReset s.regs = true) : smWf regReset (addF s f k).regs = true := by
  unfold addF
  exact setF_regs_wf f _ h

theorem regsBut_addF (k : Nat) (h : f.lo + f.w ≤ 32) : RegsBut s (addF s f k) [f.addr] := by
  unfold addF
  exact regsBut_setF _ h

theorem now_of_onlyRegs (h : OnlyRegs s t) : now t = now s := by rw [h]; rfl

/-- A narrow field of a register that keeps its word keeps its value. -/
theorem getF_of_regsBut {as : List Nat} (h : RegsBut s t as) (hf : f.lo + f.w ≤ 32) (ha : f.addr ∉ as) : getF t f = getF s f := by
  rw [getF_narrow _ hf, getF_narrow _ hf, h _ ha]

end Frames

end Sys2Proof.Machine

/-! ## Check-value units and the coupling ring (O26) -/

namespace Sys2Proof.Machine
open Sys2Proof.Safety

section Cvu

variable {s s1 : State} {k u : Nat} {x : CvuPend}

/-- The state after a comparison that failed. -/
def mismatched (s : State) (k u seq : Nat) : State :=
  refresh (setF (setF (addF s (CVU_CNT_BAD_BAD k u) 1) (CVU_STAT_MISMATCH k u) 1) (CVU_STAT_BAD_SEQ k u) seq) (clSrc k 10)

theorem cvuCompare_good : cvuCompare s k u x.seq true = addF s (CVU_CNT_OK_OK k u) 1 := if_pos rfl
theorem cvuCompare_bad : cvuCompare s k u x.seq false = mismatched s k u x.seq := if_neg Bool.false_ne_true

/-- MODE 0 appends its result where the FIFO has room, or counts it lost. -/
theorem cvuUnit_append (hmode : bitsOf x.conf.ctl 1 2 = 0) : cvuUnit s k u x =
    if 16 ≤ (cvuFifo s k u).length then addF s (CVU_STAT_LOST k u) 1
    else { s with cvu := smPut (fun _ => []) (4 * k + u) (cvuFifo s k u ++ [⟨crcOf (cvuCfg x.conf) (foldBytes x ++ x.data), x.seq⟩]) s.cvu } := by
  unfold cvuUnit
  dsimp only
  split
  · rfl
  · rename_i h1
    exact absurd (h1.symm.trans hmode) (by decide)
  · contradiction

/-- The comparison of the other modes. -/
def cvuGood (x : CvuPend) : Bool :=
  if bitsOf x.conf.ctl 1 2 = 1 then crcOf (cvuCfg x.conf) (foldBytes x ++ x.data) == x.conf.expect
  else crcOf (cvuCfg x.conf) (foldBytes x ++ x.data.take (x.data.length - ceilDiv (cvuCfg x.conf).width 8)) ==
    leNat (x.data.drop (x.data.length - ceilDiv (cvuCfg x.conf).width 8))

theorem cvuUnit_compare (hmode : bitsOf x.conf.ctl 1 2 ≠ 0) : cvuUnit s k u x = cvuCompare s k u x.seq (cvuGood x) := by
  unfold cvuUnit cvuGood
  dsimp only
  by_cases h1 : bitsOf x.conf.ctl 1 2 = 1
  · rw [if_pos h1]
    split
    · contradiction
    · rfl
    · contradiction
  · rw [if_neg h1]
    split
    · contradiction
    · contradiction
    · rfl

theorem cvuGood_iff (x : CvuPend) : cvuGood x = true ↔
    if bitsOf x.conf.ctl 1 2 = 1 then crcOf (cvuCfg x.conf) (foldBytes x ++ x.data) = x.conf.expect
    else crcOf (cvuCfg x.conf) (foldBytes x ++ x.data.take (x.data.length - ceilDiv (cvuCfg x.conf).width 8)) =
      leNat (x.data.drop (x.data.length - ceilDiv (cvuCfg x.conf).width 8)) := by
  unfold cvuGood
  split
  · exact beq_iff_eq
  · exact beq_iff_eq

/-- An enabled unit with a source that no engine has claimed takes a unit of computation. -/
theorem cvuConf_takes (hen : isF s (CVU_CTL_EN k u) = true) (hclaim : isF s (CVU_CTL_CLAIMED k u) = false) (hkind : getF s (CVU_CTL_SRC_KIND k u) ≠ 0) :
    bitOf (cvuConf s k u).ctl 0 ≠ 0 ∧ bitOf (cvuConf s k u).ctl 24 ≠ 1 ∧ cvuKind (cvuConf s k u) ≠ 0 := by
  unfold isF at hen hclaim
  rw [getF_narrow (f := CVU_CTL_EN k u) s (by simp [CVU_CTL_EN])] at hen
  rw [getF_narrow (f := CVU_CTL_CLAIMED k u) s (by simp [CVU_CTL_CLAIMED])] at hclaim
  rw [getF_narrow (f := CVU_CTL_SRC_KIND k u) s (by simp [CVU_CTL_SRC_KIND])] at hkind
  have hnone : bitOf (cvuConf s k u).ctl 24 = 0 := bne_eq_false_iff_eq.mp hclaim
  refine ⟨bne_iff_ne.mp hen, by omega, ?_⟩
  have hkind' : bitsOf (cvuConf s k u).ctl 3 3 ≠ 0 := hkind
  unfold cvuKind
  omega

theorem regsBut_mismatched (seq : Nat) : RegsBut s (mismatched s k u seq) [CVU_CNT_BAD k u, CVU_STAT k u] := by
  unfold mismatched
  refine regsBut_trans (bs := []) ?_ (regsBut_of_regs_eq (refresh_regs _ _)) (List.Subset.refl _) (List.nil_subset _)
  refine regsBut_trans ?_ (regsBut_setF (f := CVU_STAT_BAD_SEQ k u) _ (Nat.le_refl 32)) (List.Subset.refl _) (by simp [CVU_STAT_BAD_SEQ])
  refine regsBut_trans ?_ (regsBut_setF (f := CVU_STAT_MISMATCH k u) _ (by simp [CVU_STAT_MISMATCH])) (List.Subset.refl _) (by simp [CVU_STAT_MISMATCH])
  exact regsBut_trans (bs := []) (regsBut_addF (f := CVU_CNT_BAD_BAD k u) 1 (Nat.le_refl 32)) (regsBut_of_regs_eq rfl) (by simp [CVU_CNT_BAD_BAD]) (List.nil_subset _)

theorem cvu_stat_ne_bad : CVU_STAT k u ≠ CVU_CNT_BAD k u := by
  unfold CVU_STAT CVU_CNT_BAD
  omega

theorem getF_mismatched (seq : Nat) (hwf : smWf regReset s.regs = true) :
    getF (mismatched s k u seq) (CVU_CNT_BAD_BAD k u) = min (2 ^ 32 - 1) (getF s (CVU_CNT_BAD_BAD k u) + 1) ∧ getF (mismatched s k u seq) (CVU_STAT_MISMATCH k u) = 1 ∧
      getF (mismatched s k u seq) (CVU_STAT_BAD_SEQ k u) = seq % 2 ^ 15 ∧ getF (mismatched s k u seq) (CVU_STAT_LOST k u) = getF s (CVU_STAT_LOST k u) := by
  have hne := cvu_stat_ne_bad (k := k) (u := u)
  have hwf1 := addF_regs_wf (CVU_CNT_BAD_BAD k u) 1 hwf
  have hwf2 := setF_regs_wf (CVU_STAT_MISMATCH k u) 1 hwf1
  have hbad : getF (addF s (CVU_CNT_BAD_BAD k u) 1) (CVU_CNT_BAD_BAD k u) = _ := getF_addF_one (Nat.le_refl 32) hwf
  have hlost : getF (addF s (CVU_CNT_BAD_BAD k u) 1) (CVU_STAT_LOST k u) = getF s (CVU_STAT_LOST k u) :=
    getF_of_regsBut (regsBut_addF (f := CVU_CNT_BAD_BAD k u) 1 (Nat.le_refl 32)) (by simp [CVU_STAT_LOST]) (by simpa [CVU_STAT_LOST, CVU_CNT_BAD_BAD] using hne)
  have hshow : getF (setF (addF s (CVU_CNT_BAD_BAD k u) 1) (CVU_STAT_MISMATCH k u) 1) (CVU_STAT_MISMATCH k u) = 1 := getF_setF_same (f := CVU_STAT_MISMATCH k u) 1 (by simp [CVU_STAT_MISMATCH]) hwf1
  unfold mismatched
  simp only [getF_congr (refresh_regs _ _)]
  refine ⟨?_, ?_, ?_, ?_⟩
  · rw [getF_setF_other (f := CVU_STAT_BAD_SEQ k u) (g := CVU_CNT_BAD_BAD k u) _ (Nat.le_refl 32) (Nat.le_refl 32) hwf2 (.inl hne.symm),
      getF_setF_other (f := CVU_STAT_MISMATCH k u) (g := CVU_CNT_BAD_BAD k u) _ (by simp [CVU_STAT_MISMATCH]) (Nat.le_refl 32) hwf1 (.inl hne.symm), hbad]
    rfl
  · rw [getF_setF_other (f := CVU_STAT_BAD_SEQ k u) (g := CVU_STAT_MISMATCH k u) _ (Nat.le_refl 32) (by simp [CVU_STAT_MISMATCH]) hwf2
      (.inr (by simp [CVU_STAT_MISMATCH, CVU_STAT_BAD_SEQ])), hshow]
  · exact getF_setF_same (f := CVU_STAT_BAD_SEQ k u) seq (Nat.le_refl 32) hwf2
  · rw [getF_setF_other (f := CVU_STAT_BAD_SEQ k u) (g := CVU_STAT_LOST k u) _ (Nat.le_refl 32) (by simp [CVU_STAT_LOST]) hwf2
        (.inr (by simp [CVU_STAT_LOST, CVU_STAT_BAD_SEQ])),
      getF_setF_other (f := CVU_STAT_MISMATCH k u) (g := CVU_STAT_LOST k u) _ (by simp [CVU_STAT_MISMATCH]) (by simp [CVU_STAT_LOST]) hwf1
        (.inr (by simp [CVU_STAT_LOST, CVU_STAT_MISMATCH])), hlost]

theorem onlyRegs_mismatched (seq : Nat) : OnlyRegs s (mismatched s k u seq) :=
  ((onlyRegs_addF s _ _).trans ((onlyRegs_setF _ _ _).trans (onlyRegs_setF _ _ _))).trans (onlyRegs_refresh _ _)

end Cvu

/-! ### The links of the coupling ring (spec/01_hierarchy.md R36) -/

section Ring

variable {s : State}

/-- The registers of the two ends of a link are distinct ones. -/
theorem linkEnds_apart : ∀ (q : Fin 4) (k : Fin 2), ∃ e d : Nat × Nat, linkEnds q.val k.val = [e, d] ∧ e = (q.val, k.val) ∧ e ≠ d ∧ BME_RING_STAT e.1 e.2 ≠ BME_RING_STAT d.1 d.2 ∧
    BME_RING_RTR e.1 e.2 ≠ BME_RING_RTR d.1 d.2 ∧ BME_RING_RTR e.1 e.2 ∉ [BME_RING_STAT e.1 e.2, BME_RING_STAT d.1 d.2] ∧
    BME_RING_RTR d.1 d.2 ∉ [BME_RING_STAT e.1 e.2, BME_RING_STAT d.1 d.2] := by
  intro q k
  refine ⟨_, _, rfl, rfl, ?_⟩
  revert q k
  decide

/-- One end of a link shows a state. -/
def showEnd (s : State) (v : Nat) (e : Nat × Nat) : State := refresh (setF s (BME_RING_STAT_STATE e.1 e.2) v) (qSrc e.1 191)

theorem setLink_eq (s : State) (q k v : Nat) : setLink s q k v = (linkEnds q k).foldl (fun s e => showEnd s v e) s := rfl

theorem onlyRegs_showEnd (s : State) (v : Nat) (e : Nat × Nat) : OnlyRegs s (showEnd s v e) := (onlyRegs_setF s _ v).trans (onlyRegs_refresh _ _)

theorem ring_state_narrow (e : Nat × Nat) : (BME_RING_STAT_STATE e.1 e.2).lo + (BME_RING_STAT_STATE e.1 e.2).w ≤ 32 := by simp [BME_RING_STAT_STATE]

theorem regsBut_showEnd (s : State) (v : Nat) (e : Nat × Nat) : RegsBut s (showEnd s v e) [BME_RING_STAT e.1 e.2] :=
  regsBut_trans (bs := []) (regsBut_setF (f := BME_RING_STAT_STATE e.1 e.2) v (ring_state_narrow e)) (regsBut_of_regs_eq (refresh_regs _ _)) (List.Subset.refl _)
    (List.nil_subset _)

theorem showEnd_regs_wf (v : Nat) (e : Nat × Nat) (hwf : smWf regReset s.regs = true) : smWf regReset (showEnd s v e).regs = true := by
  unfold showEnd
  rw [refresh_regs]
  exact setF_regs_wf _ v hwf

theorem getF_showEnd_same {v : Nat} (hv : v < 4) (e : Nat × Nat) (hwf : smWf regReset s.regs = true) : getF (showEnd s v e) (BME_RING_STAT_STATE e.1 e.2) = v := by
  unfold showEnd
  rw [getF_congr (refresh_regs _ _), getF_setF_same v (ring_state_narrow e) hwf]
  exact Nat.mod_eq_of_lt hv

theorem getF_showEnd_other (v : Nat) {e d : Nat × Nat} (h : BME_RING_STAT e.1 e.2 ≠ BME_RING_STAT d.1 d.2) :
    getF (showEnd s v d) (BME_RING_STAT_STATE e.1 e.2) = getF s (BME_RING_STAT_STATE e.1 e.2) :=
  getF_of_regsBut (regsBut_showEnd s v d) (ring_state_narrow e) (by simpa [BME_RING_STAT_STATE] using h)

/-- Both ends of a link show a state, and nothing else changes but the interrupt controller. -/
theorem setLink_shows {v : Nat} (hv : v < 4) (q : Fin 4) (k : Fin 2) (hwf : smWf regReset s.regs = true) :
    (∀ e ∈ linkEnds q.val k.val, getF (setLink s q.val k.val v) (BME_RING_STAT_STATE e.1 e.2) = v) ∧
      RegsBut s (setLink s q.val k.val v) ((linkEnds q.val k.val).map fun e => BME_RING_STAT e.1 e.2) ∧ OnlyRegs s (setLink s q.val k.val v) ∧
      smWf regReset (setLink s q.val k.val v).regs = true := by
  obtain ⟨e, d, hends, -, -, hstat, -, -, -⟩ := linkEnds_apart q k
  rw [setLink_eq, hends]
  show (∀ x ∈ [e, d], getF (showEnd (showEnd s v e) v d) _ = v) ∧ RegsBut s (showEnd (showEnd s v e) v d) [BME_RING_STAT e.1 e.2, BME_RING_STAT d.1 d.2] ∧
    OnlyRegs s (showEnd (showEnd s v e) v d) ∧ smWf regReset (showEnd (showEnd s v e) v d).regs = true
  have hwf1 := showEnd_regs_wf v e hwf
  refine ⟨?_, ?_, (onlyRegs_showEnd s v e).trans (onlyRegs_showEnd _ v d), showEnd_regs_wf v d hwf1⟩
  · intro x hx
    rcases List.mem_pair.mp hx with rfl | rfl
    · rw [getF_showEnd_other v hstat, getF_showEnd_same hv x hwf]
    · exact getF_showEnd_same hv x hwf1
  · exact regsBut_trans (regsBut_showEnd s v e) (regsBut_showEnd _ v d) (by simp) (by simp)

/-- A link that is up and free retrains from now. -/
theorem startRetrain_now {q k : Nat} (hup : getF s (BME_RING_STAT_STATE q k) = 0) (hfree : linkFree s q k = true) :
    ∃ u : State, startRetrain s q k = setLink u q k 1 ∧ u.regs = s.regs ∧ u.retrainDue = s.retrainDue.filter fun x => !(linkEnds q k).contains x := by
  unfold startRetrain
  rw [if_neg (by simp [hup]), if_pos hfree]
  exact ⟨_, rfl, rfl, rfl⟩

/-- The retraining of a link is counted at both ends. -/
def retrainCounted (s : State) (q k : Nat) : State := (linkEnds q k).foldl (fun s e => addF s (BME_RING_RTR_RETRAIN e.1 e.2) 1) s

theorem onlyRegs_retrainCounted (q : Fin 4) (k : Fin 2) : OnlyRegs s (retrainCounted s q.val k.val) := by
  obtain ⟨e, d, hends, -⟩ := linkEnds_apart q k
  unfold retrainCounted
  rw [hends]
  show OnlyRegs s (addF (addF s (BME_RING_RTR_RETRAIN e.1 e.2) 1) (BME_RING_RTR_RETRAIN d.1 d.2) 1)
  exact (onlyRegs_addF s _ 1).trans (onlyRegs_addF _ _ 1)

/-- A link that was retrained is up at both ends, and the retraining is counted there. -/
theorem link_comes_up (q : Fin 4) (k : Fin 2) (hwf : smWf regReset s.regs = true) :
    (∀ e ∈ linkEnds q.val k.val, getF (retrainCounted (setLink s q.val k.val 0) q.val k.val) (BME_RING_STAT_STATE e.1 e.2) = 0 ∧
      getF (retrainCounted (setLink s q.val k.val 0) q.val k.val) (BME_RING_RTR_RETRAIN e.1 e.2) = min (2 ^ 32 - 1) (getF s (BME_RING_RTR_RETRAIN e.1 e.2) + 1)) ∧
    RegsBut s (retrainCounted (setLink s q.val k.val 0) q.val k.val) ((linkEnds q.val k.val).flatMap fun e => [BME_RING_STAT e.1 e.2, BME_RING_RTR e.1 e.2]) := by
  obtain ⟨hshow, hregs, -, hwf0⟩ := setLink_shows (s := s) (v := 0) (by decide) q k hwf
  obtain ⟨e, d, hends, -, -, hstat, hrtr, he, hd⟩ := linkEnds_apart q k
  generalize hu : setLink s q.val k.val 0 = u at *
  have hcount : retrainCounted u q.val k.val = addF (addF u (BME_RING_RTR_RETRAIN e.1 e.2) 1) (BME_RING_RTR_RETRAIN d.1 d.2) 1 := by
    unfold retrainCounted
    rw [hends]
    rfl
  have hfirst : RegsBut u (addF u (BME_RING_RTR_RETRAIN e.1 e.2) 1) [BME_RING_RTR e.1 e.2] := regsBut_addF (f := BME_RING_RTR_RETRAIN e.1 e.2) 1 (Nat.le_refl 32)
  have hsecond : RegsBut (addF u (BME_RING_RTR_RETRAIN e.1 e.2) 1) (addF (addF u (BME_RING_RTR_RETRAIN e.1 e.2) 1) (BME_RING_RTR_RETRAIN d.1 d.2) 1) [BME_RING_RTR d.1 d.2] :=
    regsBut_addF (f := BME_RING_RTR_RETRAIN d.1 d.2) 1 (Nat.le_refl 32)
  have hboth := regsBut_trans (cs := [BME_RING_RTR e.1 e.2, BME_RING_RTR d.1 d.2]) hfirst hsecond (by simp) (by simp)
  rw [hends] at hshow hregs ⊢
  rw [hcount]
  refine ⟨?_, ?_⟩
  · intro x hx
    have hstate : (BME_RING_STAT_STATE x.1 x.2).addr ∉ [BME_RING_RTR e.1 e.2, BME_RING_RTR d.1 d.2] := by
      simp only [List.mem_cons, List.not_mem_nil, or_false, not_or] at he hd ⊢
      rcases List.mem_pair.mp hx with rfl | rfl
      · exact ⟨Ne.symm he.1, Ne.symm hd.1⟩
      · exact ⟨Ne.symm he.2, Ne.symm hd.2⟩
    refine ⟨(getF_of_regsBut hboth (ring_state_narrow x) hstate).trans (hshow x hx), ?_⟩
    rcases List.mem_pair.mp hx with rfl | rfl
    · rw [getF_of_regsBut (f := BME_RING_RTR_RETRAIN x.1 x.2) hsecond (Nat.le_refl 32) (by simpa [BME_RING_RTR_RETRAIN] using hrtr),
        getF_addF_one (f := BME_RING_RTR_RETRAIN x.1 x.2) (Nat.le_refl 32) hwf0,
        getF_of_regsBut (f := BME_RING_RTR_RETRAIN x.1 x.2) hregs (Nat.le_refl 32) he]
      rfl
    · rw [getF_addF_one (f := BME_RING_RTR_RETRAIN x.1 x.2) (Nat.le_refl 32) (addF_regs_wf _ 1 hwf0),
        getF_of_regsBut (f := BME_RING_RTR_RETRAIN x.1 x.2) hfirst (Nat.le_refl 32) (by simpa [BME_RING_RTR_RETRAIN] using hrtr.symm),
        getF_of_regsBut (f := BME_RING_RTR_RETRAIN x.1 x.2) hregs (Nat.le_refl 32) hd]
      rfl
  · exact regsBut_trans hregs hboth (by simp) (by simp)

end Ring

/-- Settles O26: a unit's result, a transfer and a link's retraining by their cases. -/
theorem checkUnitsAndRingLinks : Obligations.CheckUnitsAndRingLinks := by
  unfold Obligations.CheckUnitsAndRingLinks
  refine ⟨?cvu, ?pop, ?popDark, ?transfer, ?noTransfer, ?start, ?due, ?retrain, ?drop⟩
  case cvu =>
    intro s s1 k u d x hwf hx c mode n r good
    have hexec : exec (.cvuUnitResult k u d) s = .next (cvuUnit s1 k.val u.val x) := by
      show execCvuUnitResult k u d s = _
      unfold execCvuUnitResult
      rcases hx with ⟨rest, hended, rfl⟩ | ⟨hended, hen, hclaim, hkind, rfl, rfl⟩
      · rw [hended]
      · have hgo : ¬ (bitOf (cvuConf s1 k.val u.val).ctl 0 = 0 ∨ bitOf (cvuConf s1 k.val u.val).ctl 24 = 1 ∨ cvuKind (cvuConf s1 k.val u.val) = 0) := by
          rw [not_or, not_or]
          exact cvuConf_takes hen hclaim hkind
        rw [hended]
        exact if_neg hgo
    have hregs : s1.regs = s.regs := by
      rcases hx with ⟨rest, -, rfl⟩ | ⟨-, -, -, -, -, rfl⟩ <;> rfl
    have hcvu : s1.cvu = s.cvu := by
      rcases hx with ⟨rest, -, rfl⟩ | ⟨-, -, -, -, -, rfl⟩ <;> rfl
    have hfifo : cvuFifo s1 k.val u.val = cvuFifo s k.val u.val := by unfold cvuFifo; rw [hcvu]
    have hwf1 : smWf regReset s1.regs = true := by rwa [hregs]
    have hgood : cvuGood x = true ↔ good := cvuGood_iff x
    have hback : ∀ {t : State} {as : List Nat}, RegsBut s1 t as → RegsBut s t as := fun h => regsBut_trans (regsBut_of_regs_eq (as := []) hregs) h (List.nil_subset _) (List.Subset.refl _)
    rw [hexec]
    refine ⟨fun hmode hroom => ?_, fun hmode hfull => ?_, fun hmode hg => ?_, fun hmode hg => ?_⟩
    · rw [cvuUnit_append hmode, hfifo, if_neg (by omega), hcvu]
    · rw [cvuUnit_append hmode, hfifo, if_pos hfull]
      refine ⟨_, rfl, ?_, ?_, hback (regsBut_addF (f := CVU_STAT_LOST k.val u.val) 1 (by simp [CVU_STAT_LOST])), addF_eq_regs s1 _ 1⟩
      · rw [getF_addF_one (f := CVU_STAT_LOST k.val u.val) (by simp [CVU_STAT_LOST]) hwf1, getF_congr hregs]
        rfl
      · intro i hi hout
        rw [← getR_congr hregs]
        exact bitsBut_setF (f := CVU_STAT_LOST k.val u.val) _ (by simp [CVU_STAT_LOST]) hwf1 i hi hout
    · rw [cvuUnit_compare hmode, hgood.mpr hg, cvuCompare_good]
      refine ⟨_, rfl, ?_, hback (regsBut_addF (f := CVU_CNT_OK_OK k.val u.val) 1 (Nat.le_refl 32)), addF_eq_regs s1 _ 1⟩
      rw [getF_addF_one (f := CVU_CNT_OK_OK k.val u.val) (Nat.le_refl 32) hwf1, getF_congr hregs]
      rfl
    · rw [cvuUnit_compare hmode, Bool.eq_false_iff.mpr (fun h => hg (hgood.mp h)), cvuCompare_bad]
      obtain ⟨hbad, hshow, hseq, hlost⟩ := getF_mismatched (k := k.val) (u := u.val) x.seq hwf1
      rw [getF_congr hregs] at hbad hlost
      exact ⟨_, rfl, hbad, hshow, hseq, hlost, hback (regsBut_mismatched x.seq), onlyRegs_mismatched x.seq⟩
  case pop => exact fun s k u hlive => congrArg Host.Outcome.next (if_pos hlive)
  case popDark => exact fun s k u hdark => congrArg Host.Outcome.next (if_neg (ne_true_of_eq_false hdark))
  case transfer =>
    intro s node x rest hx
    refine ⟨?_, ?_, ?_⟩
    · intro hp
      show execRingTransferReceive node true s = _
      unfold execRingTransferReceive
      rw [hx]
      dsimp only
      rw [if_pos rfl, hp]
      rfl
    · intro hp
      show execRingTransferReceive node true s = _
      unfold execRingTransferReceive
      rw [hx]
      dsimp only
      rw [if_pos rfl, hp]
      rfl
    · intro y
      have hnow : now y = now s := now_of_onlyRegs (s := { s with xfers := rest }) (onlyRegs_addF _ _ 1)
      show execRingTransferReceive node false s = _
      unfold execRingTransferReceive
      rw [hx]
      dsimp only
      rw [if_neg Bool.false_ne_true]
      show Host.Outcome.next (startRetrain (report (mapJob y x.rec_ fun j => failJob (now y) ⟨now y, 0x20, 0x44, _⟩ j) _) _ _) = _
      rw [hnow]
      refine congrArg (fun f => Host.Outcome.next (startRetrain (report (mapJob y x.rec_ f)
        { at_ := now s, source := qSrc x.toQ 191, level := 1, cls := 0x09, action := 1, quad := x.toQ, context := [x.toQ, 1 - x.dir] }) x.toQ (1 - x.dir))) (funext fun j => ?_)
      cases j.nodes.find? fun n => n.id == x.src <;> rfl
  case noTransfer =>
    intro s node b hnone
    show execRingTransferReceive node b s = _
    unfold execRingTransferReceive
    rw [takeFirst_eq_none fun x hx => by simpa using hnone x hx]
  case start =>
    intro s q k hwf
    refine ⟨fun hst => if_pos hst, fun hst hfree => ?_, fun hst hbusy => ?_⟩
    · obtain ⟨u, hu, hregs, hdue⟩ : ∃ u : State, startRetrain s q.val k.val = setLink u q.val k.val 1 ∧ u.regs = s.regs ∧
          u.retrainDue = s.retrainDue.filter fun x => !(linkEnds q.val k.val).contains x := startRetrain_now hst hfree
      obtain ⟨hshow, hother, honly, -⟩ := setLink_shows (s := u) (v := 1) (by decide) q k (by rwa [hregs])
      rw [hu]
      refine ⟨fun e he => ⟨hshow e he, ?_⟩, regsBut_trans (as := []) (regsBut_of_regs_eq hregs) hother (List.nil_subset _) (List.Subset.refl _)⟩
      rw [congrArg State.retrainDue honly]
      show e ∉ u.retrainDue
      rw [hdue]
      simp [he]
    · have hlater : startRetrain s q.val k.val = if s.retrainDue.contains (q.val, k.val) then s else { s with retrainDue := s.retrainDue ++ [(q.val, k.val)] } := by
        unfold startRetrain
        rw [if_neg (by simp [hst]), if_neg (ne_true_of_eq_false hbusy)]
      rw [hlater]
      by_cases hdue : s.retrainDue.contains (q.val, k.val) = true
      · rw [if_pos hdue]
        exact ⟨List.contains_iff_mem.mp hdue, rfl⟩
      · rw [if_neg hdue]
        exact ⟨by simp, rfl⟩
  case due =>
    intro s q k ok dt hst
    constructor
    · rintro ⟨e, he, hdue⟩
      have hany : (linkEnds q.val k.val).any (fun e => s.retrainDue.contains e) = true := List.any_eq_true.mpr ⟨e, he, by simpa using hdue⟩
      exact if_pos ⟨hst, hany⟩
    · intro hnone
      have hany : (linkEnds q.val k.val).any (fun e => s.retrainDue.contains e) = false :=
        List.any_eq_false.mpr fun e he => by simpa using hnone e he
      exact (if_neg fun h => ne_true_of_eq_false hany h.2).trans (if_pos (by omega))
  case retrain =>
    intro s q k dt hst hwf
    have hexec : ∀ ok, exec (.ringLinkRetrain q k ok dt) s =
        if ok then .next (retrainCounted (setLink (atDt s dt) q.val k.val 0) q.val k.val)
        else if reached s (linkSince s q.val k.val + 10000000000) then
          .next ((((setLink (atDt s dt) q.val k.val 2).plans.filter fun p => p.coupled && usesLink p q.val k.val).map (·.ci)).eraseDups.foldl
            (fun s ci => dropCoupled s ci 0x44) (setLink (atDt s dt) q.val k.val 2))
        else .next s := fun ok => by
      show execRingLinkRetrain q k ok dt s = _
      unfold execRingLinkRetrain
      dsimp only
      rw [if_neg (by omega), if_neg (by omega)]
      rfl
    refine ⟨?_, fun hearly => ?_, fun hover x hx => ?_⟩
    · obtain ⟨hup, hother⟩ := link_comes_up (s := atDt s dt) q k hwf
      obtain ⟨-, -, honly, -⟩ := setLink_shows (s := atDt s dt) (v := 0) (by decide) q k hwf
      refine ⟨_, hexec true, hup, hother, ?_⟩
      have h := honly.trans (onlyRegs_retrainCounted q k)
      unfold OnlyRegs at h
      rw [h]
      rfl
    · rw [hexec, if_neg Bool.false_ne_true, if_neg (ne_true_of_eq_false hearly)]
    · rw [hexec, if_neg Bool.false_ne_true, if_pos hover, ← hx]
  case drop =>
    intro s ci p x hp hci hcoupled hx
    have hexec : ∀ {d : Nat}, (((getQuad s x.quad).reinit.isSome || usesLink p x.quad 0 && getF s (BME_RING_STAT_STATE x.quad 0) == 2
        || usesLink p x.quad 1 && getF s (BME_RING_STAT_STATE x.quad 1) == 2) = true) →
        (if s.plans.any fun p => p.ci == ci.val && p.parts.any fun x => (getQuad s x.quad).reinit.isSome then 0x45 else 0x44) = d →
        exec (.coupledPlanDrop ci) s = .next (dropCoupled s ci.val d) := fun hdead hd => by
      have hany : (s.plans.any fun p => p.ci == ci.val && p.coupled &&
          (p.parts.any fun x => (getQuad s x.quad).reinit.isSome || usesLink p x.quad 0 && getF s (BME_RING_STAT_STATE x.quad 0) == 2
            || usesLink p x.quad 1 && getF s (BME_RING_STAT_STATE x.quad 1) == 2)) = true :=
        List.any_eq_true.mpr ⟨p, hp, by
          rw [hcoupled, beq_iff_eq.mpr hci, List.any_eq_true.mpr ⟨x, hx, hdead⟩]
          rfl⟩
      show execCoupledPlanDrop ci s = _
      unfold execCoupledPlanDrop
      dsimp only
      rw [if_pos hany, hd]
    constructor
    · intro hreinit
      refine hexec (by rw [hreinit]; rfl) (if_pos (List.any_eq_true.mpr ⟨p, hp, ?_⟩))
      rw [beq_iff_eq.mpr hci, List.any_eq_true.mpr ⟨x, hx, hreinit⟩]
      rfl
    · rintro ⟨e, huses, hfailed⟩ hnone
      refine hexec ?_ (if_neg ?_)
      · have he : e = 0 ∨ e = 1 := by omega
        rcases he with rfl | rfl
        · have huses' : usesLink p x.quad 0 = true := huses
          have hfailed' : getF s (BME_RING_STAT_STATE x.quad 0) = 2 := hfailed
          rw [huses', hfailed']
          simp
        · have huses' : usesLink p x.quad 1 = true := huses
          have hfailed' : getF s (BME_RING_STAT_STATE x.quad 1) = 2 := hfailed
          rw [huses', hfailed']
          simp
      · intro hany
        obtain ⟨p', hp', hboth⟩ := List.any_eq_true.mp hany
        obtain ⟨hci', hparts⟩ := Bool.and_eq_true_iff.mp hboth
        obtain ⟨y, hy, hreinit⟩ := List.any_eq_true.mp hparts
        rw [hnone p' hp' (beq_iff_eq.mp hci') y hy] at hreinit
        exact absurd hreinit (by decide)

end Sys2Proof.Machine

/-! ## Accesses to registers (O27) -/

namespace Sys2Proof.Machine
open Sys2Proof.Safety

section Word

variable {s : State} {a : Nat} {h : RegHit}

theorem writeEnabled_full (s : State) (a v : Nat) : writeEnabled s a v 15 = writeWord s a v := if_pos rfl

theorem writeEnabled_none (s : State) (a v : Nat) : writeEnabled s a v 0 = s := (if_neg (by decide)).trans (if_pos rfl)

theorem writeEnabled_part {be : Nat} (v : Nat) (h0 : be ≠ 0) (h15 : be ≠ 15) (hreg : (regAt a).isSome = true) : writeEnabled s a v be = addF s CXL_BAD_ACC_BAR0 1 :=
  (if_neg h15).trans ((if_neg h0).trans (if_pos (.inr hreg)))

/-- A register write that the link lets through takes its two words, low word first. -/
theorem exec_registerWrite_up {addr : BitVec 27} {data : DWord} (be : BitVec 8) (hup : s.linkHeld ≤ now s) : exec (.registerWrite addr data be) s =
    .next (writeEnabled (writeEnabled s (addr.toNat / 4 * 4) (bitsOf data.toNat 0 32) (be.toNat % 16)) (addr.toNat / 4 * 4 + 4) (bitsOf data.toNat 32 32) (be.toNat / 16)) :=
  congrArg Host.Outcome.next (if_neg (by omega))

variable (hwin : windowAt a = none) (hreg : regAt a = some h)
include hwin hreg

theorem writeWord_of_reg (v : Nat) : writeWord s a v = if blockLive s h.block h.unit && regExists h then writeHit s h a v else s := by
  unfold writeWord
  rw [hwin, hreg]

theorem readWord_dark (hlive : (blockLive s h.block h.unit && regExists h) = false) : readWord s a = (0, s) := by
  unfold readWord
  rw [hwin, hreg]
  exact if_neg (ne_true_of_eq_false hlive)

theorem readWord_plain (hlive : (blockLive s h.block h.unit && regExists h) = true) (hplain : heldBlock h = false) :
    readWord s a = (bitsOf (readHit s h a) (32 * h.word) 32, readEffect s h) := by
  unfold readWord
  rw [hwin, hreg]
  exact (if_pos hlive).trans (if_neg (ne_true_of_eq_false hplain))

end Word

/-- Settles O27: an access is taken word by word, and a word by the register that holds it. -/
theorem registersAreAccessed : Obligations.RegistersAreAccessed := by
  unfold Obligations.RegistersAreAccessed
  refine ⟨?whole, ?part, ?word, ?effect, ?read, ?held, ?px⟩
  case whole =>
    intro s addr data hup a
    rw [exec_registerWrite_up 15 hup, exec_registerWrite_up 255 hup]
    have hlow : (15 : BitVec 8).toNat % 16 = 15 ∧ (15 : BitVec 8).toNat / 16 = 0 := by decide
    have hboth : (255 : BitVec 8).toNat % 16 = 15 ∧ (255 : BitVec 8).toNat / 16 = 15 := by decide
    rw [hlow.1, hlow.2, hboth.1, hboth.2, writeEnabled_none, writeEnabled_full, writeEnabled_full]
    exact ⟨rfl, rfl⟩
  case part =>
    intro s addr data be hup hlow h0 h15 hreg
    have hne0 : be.toNat ≠ 0 := fun h => h0 (BitVec.eq_of_toNat_eq h)
    have hne15 : be.toNat ≠ 15 := fun h => h15 (BitVec.eq_of_toNat_eq h)
    rw [exec_registerWrite_up be hup, Nat.mod_eq_of_lt hlow, Nat.div_eq_of_lt hlow, writeEnabled_none, writeEnabled_part _ hne0 hne15 hreg]
  case word =>
    intro s a v h hwin hreg base
    refine ⟨fun hdead => ⟨?_, readWord_dark hwin hreg hdead⟩, fun hlive => ⟨fun hplain => ⟨?_, readWord_plain hwin hreg hlive hplain⟩, fun hheld hlow => ?_, fun hheld hhigh => ?_⟩⟩
    · rw [writeWord_of_reg hwin hreg, if_neg (ne_true_of_eq_false hdead)]
    · rw [writeWord_of_reg hwin hreg, if_pos hlive]
      exact if_neg (ne_true_of_eq_false hplain)
    · rw [writeWord_of_reg hwin hreg, if_pos hlive]
      exact (if_pos hheld).trans (if_pos hlow)
    · rw [writeWord_of_reg hwin hreg, if_pos hlive]
      exact (if_pos hheld).trans (if_neg hhigh)
  case effect =>
    intro s h hname
    unfold readEffect
    split
    · contradiction
    · rfl
  case read =>
    intro s addr len hup o a n
    have hup' : ¬ now s < s.linkHeld := by omega
    exact ⟨(if_neg hup').trans (if_pos rfl), (if_neg hup').trans (if_neg Bool.false_ne_true)⟩
  case held =>
    intro s addr data be bar2 len hheld
    exact ⟨congrArg Host.Outcome.next (if_pos hheld), if_pos hheld⟩
  case px =>
    intro s p addr v a
    exact ⟨rfl, rfl⟩

end Sys2Proof.Machine

/-! ## The arithmetic of SA and SB (spec/05_phimar_scalar.md R180, R184) -/

namespace Sys2Proof.Machine

open Sys2Proof.Safety

/-- Is it an operation of R180 whose result is `alu`'s? -/
def isAlu (op : SOp) : Bool :=
  [SOp.add, .sub, .addi, .and, .or, .xor, .ori, .shl, .shr, .sra, .shli, .shri, .srai, .min, .max, .abs, .slt, .sltu, .seq,
    .movhi, .orlo, .exp, .norm, .mul, .mulh].contains op

theorem isAlu_plain {op : SOp} (h : isAlu op = true) : isControl op = false ∧ isMisplaced op = false := by
  cases op <;> first | exact absurd h (by decide) | exact ⟨rfl, rfl⟩

/-- The result is put in flight to rd with the operation's latency, its saturation with it. -/
theorem scExec_alu {op : SOp} (h : isAlu op = true) (s : State) (u : Tile) (n : Nat) (sat : Bool) (rd : Reg) (a b imm : Nat) :
    scExec s u u n op sat rd.toNat a b imm =
      (s, flying u (sWrites (aluLat op) rd (alu op sat (sGet u a) (sGet u b) (sGet u rd.toNat) imm).1
        (alu op sat (sGet u a) (sGet u b) (sGet u rd.toNat) imm).2)) := by
  rw [← pushSat_push_s]
  cases op <;> first | exact absurd h (by decide) | rfl

/-- Alone in its bundle, such an operation leaves its write in flight and the tile at the next bundle. -/
theorem give_alu {s : State} {t u : Tile} {p : Nat} {op : SOp} (h : isAlu op = true) (hready : TileReady s p t u) (sb sat : Bool)
    (rd : Reg) (a b imm : Nat) :
    giveSyllable p true (.sc sb op sat rd.toNat a b imm) s = setTile s p (issued (flying u
      (sWrites (aluLat op) rd (alu op sat (sGet u a) (sGet u b) (sGet u rd.toNat) imm).1
        (alu op sat (sGet u a) (sGet u b) (sGet u rd.toNat) imm).2))) :=
  alone_sc hready (isAlu_plain h).1 (isAlu_plain h).2 (scExec_alu h s u _ sat rd a b imm)

/-- The two registers' operations of R180, each by its row of `alu`. -/
theorem give_alu_of_eq {s : State} {t u : Tile} {y : Sy} {op : SOp} {lat : Nat} {r : Nat × Bool} {rd : Reg} {a b imm : Nat}
    (hready : TileReady s y.tile.val t u) (he : y.e = true) (h : isAlu op = true) (hlat : aluLat op = lat)
    (hr : alu op y.sat (sGet u a) (sGet u b) (sGet u rd.toNat) imm = r) :
    Host.Outcome.next (giveSyllable y.tile.val y.e (.sc y.sb op y.sat rd.toNat a b imm) s) =
      (Host.Outcome.next (setTile s y.tile.val (issued (flying u (sWrites lat rd r.1 r.2)))) : Res) := by
  rw [he, give_alu h hready, hlat, hr]

/-- Settles O29: each operation is one row of `alu`, put in flight in one way. -/
theorem scalarArithmeticWrites : Obligations.ScalarArithmeticWrites := by
  refine ⟨?registers, ?imm12, ?imm16, ?nop⟩
  case registers =>
    intro s t u y rd ra rb hready he a b A B wr
    exact ⟨give_alu_of_eq hready he rfl rfl rfl, give_alu_of_eq hready he rfl rfl rfl, give_alu_of_eq hready he rfl rfl rfl,
      give_alu_of_eq hready he rfl rfl rfl, give_alu_of_eq hready he rfl rfl rfl, give_alu_of_eq hready he rfl rfl rfl,
      give_alu_of_eq hready he rfl rfl rfl, give_alu_of_eq hready he rfl rfl rfl, give_alu_of_eq hready he rfl rfl rfl,
      give_alu_of_eq hready he rfl rfl rfl, give_alu_of_eq hready he rfl rfl rfl, give_alu_of_eq hready he rfl rfl rfl,
      give_alu_of_eq hready he rfl rfl rfl, give_alu_of_eq hready he rfl rfl rfl, give_alu_of_eq hready he rfl rfl rfl,
      give_alu_of_eq hready he rfl rfl rfl, give_alu_of_eq hready he rfl rfl rfl, give_alu_of_eq hready he rfl rfl rfl⟩
  case imm12 =>
    intro s t u y rd ra rb hready he a b A B wr imm
    exact ⟨give_alu_of_eq hready he rfl rfl rfl, give_alu_of_eq hready he rfl rfl rfl, give_alu_of_eq hready he rfl rfl rfl,
      give_alu_of_eq hready he rfl rfl rfl, give_alu_of_eq hready he rfl rfl rfl⟩
  case imm16 =>
    intro s t u y rd ra rb hready he a b A B wr imm
    exact ⟨give_alu_of_eq hready he rfl rfl rfl, give_alu_of_eq hready he rfl rfl rfl⟩
  case nop =>
    intro s t u y hready he
    show Host.Outcome.next (giveSyllable y.tile.val y.e (.sc y.sb .nop y.sat 0 0 0 0) s) = _
    rw [he, alone_sc_core hready rfl rfl rfl hready.2.2.2.2.2.2.1 hready.2.2.2.2.2.2.2.2.2.2.1]

end Sys2Proof.Machine

/-! ## Accumulators, control transfers and control registers (spec/05_phimar_scalar.md R180 to R203) -/

namespace Sys2Proof.Machine

open Sys2Proof.Safety

/-- A lone syllable that fails its check, with neither element nor data behind it, leaves its fault on the tile and nothing else. -/
theorem alone_faults {s : State} {p cause ebad : Nat} {t u : Tile} {x : Syl} (h : TileReady s p t u)
    (hc : sylCheck s p u ⟨0, slotOf x, x, false⟩ = .fault cause ebad false none) :
    giveSyllable p true x s = setTile s p { t with fault := some (cause, ebad, false) } := by
  obtain ⟨hget, htakes, hstage, -, ⟨hpoison, herrs, hfence⟩, hland, -⟩ := h
  have hcode : granBad s ((t.code + t.pc) / 32) = false := by
    simp only [granBad, poisoned, errAt, hpoison, herrs, hfence]
    rfl
  have ht : ({ t with stage := [] } : Tile) = t := by cases t; simp_all
  have hw : csmWait s p u 0 (faultCsm u x false none) = 0 := by cases x <;> rfl
  unfold giveSyllable
  simp only [hget, htakes, hstage, if_true]
  unfold issueBundle
  simp only [hget, ht, List.nil_append, placeSyls_one]
  unfold bundleFate badWord
  simp only [inSlotOrder_one]
  simp [hcode, fetchSettle_clean t _ hpoison herrs, hland, firstCheck, hc, hw, raiseFault, hstage]

/-! ### Accumulations -/

/-- An accumulation with its saturation in flight, on what every earlier one has left. -/
def accumulated (u : Tile) (a : Nat) (r : Nat × Bool) : Tile :=
  flying { u with accRun := smPut (fun _ => (0 : Acc)) a (BitVec.ofNat 40 r.1) u.accRun } (⟨1, .acc a false, r.1⟩ :: (if r.2 then [⟨1, .sat, 1⟩] else []))

/-- With no MOVA beside it in its bundle an accumulation builds on the earlier ones. -/
theorem accumulate_alone (u : Tile) (a : Nat) (sat : Bool) (prod : Int) :
    accumulate u u.flights.length a sat prod = accumulated u a (reduce 40 sat (accRunGet u a + prod)) := by
  have hmova : movaHere u u.flights.length a = false := by simp [movaHere]
  unfold accumulate accumulated
  rw [hmova, if_neg Bool.false_ne_true]
  generalize reduce 40 sat (accRunGet u a + prod) = r
  obtain ⟨v, b⟩ := r
  cases b <;> simp [pushSat, push, flying]

theorem give_accumulation {s : State} {t u : Tile} {p : Nat} {op : SOp} (h : op = .macl ∨ op = .mach ∨ op = .msul)
    (hready : TileReady s p t u) (sb sat : Bool) (ad a b : Nat) :
    giveSyllable p true (.sc sb op sat ad a b 0) s =
      setTile s p (issued (accumulated u ad (reduce 40 sat (accRunGet u ad + macProd op (sGet u a) (sGet u b))))) := by
  have hexec : scExec s u u u.flights.length op sat ad a b 0 =
      (s, accumulate u u.flights.length ad sat (macProd op (sGet u a) (sGet u b))) := by
    rcases h with rfl | rfl | rfl <;> rfl
  rw [accumulate_alone] at hexec
  obtain ⟨-, -, -, -, -, -, hloops, -, -, -, hreti, -⟩ := id hready
  exact alone_sc_core hready (by rcases h with rfl | rfl | rfl <;> rfl) (by rcases h with rfl | rfl | rfl <;> rfl) hexec hloops hreti

/-- Settles O30: the three accumulations are one lemma, and each of the other three puts one write in flight. -/
theorem accumulatorSyllablesAct : Obligations.AccumulatorSyllablesAct := by
  refine ⟨?accumulations, ?others⟩
  case accumulations =>
    intro s t u y rd ra rb ad hready he a b A B acc
    refine ⟨?_, ?_, ?_⟩
    · show Host.Outcome.next (giveSyllable y.tile.val y.e (.sc y.sb .macl y.sat ad.toNat ra.toNat rb.toNat 0) s) = _
      rw [he, give_accumulation (.inl rfl) hready]
      rfl
    · show Host.Outcome.next (giveSyllable y.tile.val y.e (.sc y.sb .mach y.sat ad.toNat ra.toNat rb.toNat 0) s) = _
      rw [he, give_accumulation (.inr (.inl rfl)) hready]
      rfl
    · show Host.Outcome.next (giveSyllable y.tile.val y.e (.sc y.sb .msul y.sat ad.toNat ra.toNat rb.toNat 0) s) = _
      rw [he, give_accumulation (.inr (.inr rfl)) hready]
      rfl
  case others =>
    intro s t u y rd ra rb ad hready he fin
    refine ⟨?_, exec_exta_alone rd rb ad hready he, ?_⟩
    · show Host.Outcome.next (giveSyllable y.tile.val y.e (.sc y.sb .mova y.sat ad.toNat ra.toNat 0 0) s) = _
      rw [he, alone_sc hready (fs := [⟨1, .acc ad.toNat true, unsignedOf 40 (sInt u ra.toNat)⟩]) rfl rfl rfl]
    · show Host.Outcome.next (giveSyllable y.tile.val y.e (.sc y.sb .expa y.sat rd.toNat ad.toNat 0 0) s) = _
      rw [he]
      exact congrArg Host.Outcome.next (alone_sc hready rfl rfl (congrArg (Prod.mk s) (push_s u 2 rd _)))

/-! ### Control operations -/

/-- A control operation in SA outside a handler's end and the task's end, that has no write of its own, where its check passes. -/
theorem give_transfer {s : State} {t u v : Tile} {p : Nat} {op : SOp} {sat : Bool} {ra imm : Nat} (hready : TileReady s p t u)
    (hctl : isControl op = true) (hmove : isMisplaced op = true) (hends : op ≠ .reti ∧ op ≠ .taskEnd)
    (hv : nextPc s u u u.flights.length 1 (some (op, ra, imm)) = v) (hreti : v.afterReti = false) :
    giveSyllable p true (.sc false op sat 0 ra 0 imm) s = setTile s p (ticked v) := by
  obtain ⟨-, -, -, -, -, -, hloops, hbranch, hrep, -, -, -⟩ := id hready
  have hcheck : scCheck u false op imm = .ok := by
    have hmfc : op ≠ .mfc := by rintro rfl; exact absurd hmove (by decide)
    have hmtc : op ≠ .mtc := by rintro rfl; exact absurd hmove (by decide)
    simp [scCheck, hmfc, hmtc, hends, hloops, hbranch, hrep]
  have hwfe : op ≠ .wfe := by rintro rfl; exact absurd hmove (by decide)
  have hexec : scExec s u u u.flights.length op sat 0 ra 0 imm = (s, u) := by
    cases op <;> first | rfl | exact absurd hmove (by decide)
  exact alone_ctl hready hctl hcheck hends (.inl hwfe) hexec hv hreti

/-- The core whose branch has three delay slots to go, at the next bundle. -/
def branching (u : Tile) (x : Option Nat) : Tile := { u with branch := some (3, x), pc := u.pc + 4 }

/-- The conditional branches and BR. -/
def isBranch (op : SOp) : Bool := [SOp.beqz, .bnez, .bltz, .bgez, .bgtz, .blez, .br].contains op

theorem nextPc_branch {s : State} {u : Tile} {op : SOp} {n ra imm : Nat} (h : isBranch op = true) (hloops : u.loops = [])
    (hbranch : u.branch = none) (hrep : u.rep = none) :
    nextPc s u u n 1 (some (op, ra, imm)) =
      branching u (if branchTaken op (sInt u ra) then some (branchTarget u.pc imm) else none) := by
  have hstep : nextPc s u u n 1 (some (op, ra, imm)) =
      stepOn { u with branch := some (3, if branchTaken op (sInt u ra) then some (branchTarget u.pc imm) else none) } n 1 := by
    unfold nextPc
    simp only [hbranch, hrep]
    cases op <;> first | exact absurd h (by decide) | rfl
  exact hstep.trans (stepOn_plain hloops)

theorem give_branch {s : State} {t u : Tile} {p : Nat} {op : SOp} {sat : Bool} {ra imm : Nat} {x : Option Nat} (h : isBranch op = true)
    (hready : TileReady s p t u) (hx : (if branchTaken op (sInt u ra) then some (branchTarget u.pc imm) else none) = x) :
    giveSyllable p true (.sc false op sat 0 ra 0 imm) s = setTile s p (issued { u with branch := some (3, x) }) := by
  obtain ⟨-, -, -, -, -, -, hloops, hbranch, hrep, -, hreti, -⟩ := id hready
  have hv := nextPc_branch (s := s) (n := u.flights.length) (ra := ra) (imm := imm) h hloops hbranch hrep
  rw [hx] at hv
  refine give_transfer hready ?_ ?_ ?_ hv hreti
  · cases op <;> first | rfl | exact absurd h (by decide)
  · cases op <;> first | rfl | exact absurd h (by decide)
  · constructor <;> (rintro rfl; exact absurd h (by decide))

/-- A conditional branch whose condition is c. -/
theorem exec_branch {s : State} {t u : Tile} {y : Sy} {op : SOp} {ra imm : Nat} {c : Prop} [Decidable c] (hready : TileReady s y.tile.val t u)
    (he : y.e = true) (hsb : y.sb = false) (h : isBranch op = true) (hc : branchTaken op (sInt u ra) = decide c) :
    Host.Outcome.next (giveSyllable y.tile.val y.e (.sc y.sb op y.sat 0 ra 0 imm) s) =
      (Host.Outcome.next (setTile s y.tile.val (issued { u with branch := some (3, if c then some (branchTarget u.pc imm) else none) })) : Res) := by
  rw [he, hsb, give_branch h hready rfl, hc]
  simp only [decide_eq_true_eq]

/-- A repetition begins, or the next bundle is skipped (R192). -/
theorem startRep_plain {s : State} {u : Tile} {n count : Nat} (h : u.loops = []) :
    startRep s u n 1 count = (if min count 1024 = 0 then { u with pc := u.pc + 4 + 4 * bundleLen s u (u.pc + 4) }
      else { u with pc := u.pc + 4, rep := some (min count 1024) }) := by
  have hlen : ∀ (x n m : Nat), bundleLenFrom s { u with pc := u.pc + 4 } x n m = bundleLenFrom s u x n m := by
    intro x n m
    induction m generalizing n with
    | zero => rfl
    | succ m ih => rw [bundleLenFrom, bundleLenFrom, ih]
  unfold startRep
  dsimp only
  rw [stepOn_plain h]
  simp only [bundleLen, mul_one, hlen]

theorem startRep_core {s : State} {u : Tile} {n count : Nat} (h : u.loops = []) : (startRep s u n 1 count).afterReti = u.afterReti := by
  rw [startRep_plain h]
  split <;> rfl

/-- A loop begins, or is passed over (R193). -/
theorem startLoop_plain {s : State} {u : Tile} {n count e : Nat} {rot : Bool} (h : u.loops = []) :
    startLoop s u n 1 count rot e = (if count = 0 then { u with pc := u.pc + 4 + 4 * e + 4 * bundleLen s u (u.pc + 4 + 4 * e) }
      else { u with pc := u.pc + 4, loops := [⟨u.pc + 4, u.pc + 4 + 4 * e, count - 1, rot⟩] }) := by
  unfold startLoop
  simp only [mul_one, goTo_plain h, h]

theorem startLoop_core {s : State} {u : Tile} {n count e : Nat} {rot : Bool} (h : u.loops = []) :
    (startLoop s u n 1 count rot e).afterReti = u.afterReti := by
  rw [startLoop_plain h]
  split <;> rfl

/-- LOOP's immediate holds the end and ROT. -/
theorem loopImm (e : BitVec 16) (rot : Bool) : bitsOf (e.toNat + 65536 * ofBool rot) 0 16 = e.toNat ∧ (bitOf (e.toNat + 65536 * ofBool rot) 16 == 1) = rot := by
  have he := e.isLt
  simp only [bitsOf, bitOf, Nat.shiftRight_eq_div_pow]
  cases rot <;> simp [ofBool] <;> omega

/-- LOOPI's holds the end, ROT and the count. -/
theorem loopiImm (n : BitVec 11) (rot : Bool) (e : BitVec 10) :
    bitsOf (e.toNat + 1024 * ofBool rot + 2048 * n.toNat) 0 10 = e.toNat ∧ (bitOf (e.toNat + 1024 * ofBool rot + 2048 * n.toNat) 10 == 1) = rot ∧
      bitsOf (e.toNat + 1024 * ofBool rot + 2048 * n.toNat) 11 11 = n.toNat := by
  have he := e.isLt
  have hn := n.isLt
  simp only [bitsOf, bitOf, Nat.shiftRight_eq_div_pow]
  cases rot <;> simp [ofBool] <;> omega

end Sys2Proof.Machine

/-! ## What control transfers and control registers come to (spec/05_phimar_scalar.md R175, R190 to R203, R209) -/

namespace Sys2Proof.Machine

open Sys2Proof.Safety

theorem nextPc_jr {s : State} {u : Tile} {n ra imm : Nat} (hloops : u.loops = []) (hbranch : u.branch = none) (hrep : u.rep = none) :
    nextPc s u u n 1 (some (.jr, ra, imm)) = branching u (some (sGet u ra / 4 * 4)) := by
  have hstep : nextPc s u u n 1 (some (.jr, ra, imm)) = stepOn { u with branch := some (3, some (sGet u ra / 4 * 4)) } n 1 := by
    unfold nextPc
    simp only [hbranch, hrep]
  exact hstep.trans (stepOn_plain hloops)

/-- The return address is the PC after the third delay slot (R190). -/
def linked (s : State) (u : Tile) (x : Option Nat) : Tile :=
  flying { u with branch := some (3, x) } [⟨0, .s 31, lookAhead s u 3 [] (u.pc + 4) % 2 ^ 32⟩]

theorem nextPc_call {s : State} {u : Tile} {ra imm : Nat} (hloops : u.loops = []) (hbranch : u.branch = none) (hrep : u.rep = none) :
    nextPc s u u u.flights.length 1 (some (.call, ra, imm)) =
      { linked s u (some (branchTarget u.pc imm)) with pc := u.pc + 4 } := by
  have hstep : nextPc s u u u.flights.length 1 (some (.call, ra, imm)) = stepOn (linked s u (some (branchTarget u.pc imm))) u.flights.length 1 := by
    unfold nextPc linked flying
    simp only [hbranch, hrep, hloops, List.take_length, List.drop_length, advance, mul_one]
  exact hstep.trans (stepOn_plain hloops)

theorem nextPc_rep {s : State} {u : Tile} {n ra imm : Nat} (hbranch : u.branch = none) (hrep : u.rep = none) :
    nextPc s u u n 1 (some (.rep, ra, imm)) = startRep s u n 1 (sGet u ra) ∧
    nextPc s u u n 1 (some (.repi, ra, imm)) = startRep s u n 1 imm := by
  unfold nextPc
  simp only [hbranch, hrep, and_self]

theorem nextPc_loop {s : State} {u : Tile} {n ra imm : Nat} (hbranch : u.branch = none) (hrep : u.rep = none) :
    nextPc s u u n 1 (some (.loop, ra, imm)) = startLoop s u n 1 (sGet u ra) (bitOf imm 16 == 1) (bitsOf imm 0 16) ∧
    nextPc s u u n 1 (some (.loopi, ra, imm)) = startLoop s u n 1 (bitsOf imm 11 11) (bitOf imm 10 == 1) (bitsOf imm 0 10) := by
  unfold nextPc
  simp only [hbranch, hrep, and_self]

/-- REP and REPI, with the count. -/
theorem give_rep {s : State} {t u : Tile} {p ra imm count : Nat} {op : SOp} {sat : Bool} (hready : TileReady s p t u) (h : op = .rep ∨ op = .repi)
    (hnext : nextPc s u u u.flights.length 1 (some (op, ra, imm)) = startRep s u u.flights.length 1 count) :
    Host.Outcome.next (giveSyllable p true (.sc false op sat 0 ra 0 imm) s) =
      (if min count 1024 = 0 then Host.Outcome.next (setTile s p (ticked { u with pc := u.pc + 4 + 4 * bundleLen s u (u.pc + 4) }))
        else Host.Outcome.next (setTile s p (issued { u with rep := some (min count 1024) })) : Res) := by
  obtain ⟨-, -, -, -, -, -, hloops, -, -, -, hreti, -⟩ := id hready
  have hgive := give_transfer (sat := sat) hready (by rcases h with rfl | rfl <;> rfl) (by rcases h with rfl | rfl <;> rfl)
    (by rcases h with rfl | rfl <;> decide) hnext ((startRep_core hloops).trans hreti)
  rw [hgive, startRep_plain hloops]
  by_cases h0 : min count 1024 = 0
  · rw [if_pos h0, if_pos h0]
  · rw [if_neg h0, if_neg h0]
    rfl

/-- LOOP and LOOPI, with the count, ROT and the end. -/
theorem give_loop {s : State} {t u : Tile} {p ra imm count e : Nat} {op : SOp} {sat rot : Bool} (hready : TileReady s p t u) (h : op = .loop ∨ op = .loopi)
    (hnext : nextPc s u u u.flights.length 1 (some (op, ra, imm)) = startLoop s u u.flights.length 1 count rot e) :
    Host.Outcome.next (giveSyllable p true (.sc false op sat 0 ra 0 imm) s) =
      (if count = 0 then Host.Outcome.next (setTile s p (ticked { u with pc := u.pc + 4 + 4 * e + 4 * bundleLen s u (u.pc + 4 + 4 * e) }))
        else Host.Outcome.next (setTile s p (issued { u with loops := [⟨u.pc + 4, u.pc + 4 + 4 * e, count - 1, rot⟩] })) : Res) := by
  obtain ⟨-, -, -, -, -, -, hloops, -, -, -, hreti, -⟩ := id hready
  have hgive := give_transfer (sat := sat) hready (by rcases h with rfl | rfl <;> rfl) (by rcases h with rfl | rfl <;> rfl)
    (by rcases h with rfl | rfl <;> decide) hnext ((startLoop_core hloops).trans hreti)
  rw [hgive, startLoop_plain hloops]
  by_cases h0 : count = 0
  · rw [if_pos h0, if_pos h0]
  · rw [if_neg h0, if_neg h0]
    rfl

/-- Settles O31: branches are one lemma, repetitions and loops one each, by where the core goes on. -/
theorem branchesRepetitionsAndLoops : Obligations.BranchesRepetitionsAndLoops := by
  refine ⟨?branches, ?repetitions, ?loops⟩
  case branches =>
    intro s t u y ra off hready he hsb a tgt go
    obtain ⟨-, -, -, -, -, -, hloops, hbranch, hrep, -, hreti, -⟩ := id hready
    refine ⟨exec_branch hready he hsb rfl rfl, exec_branch hready he hsb rfl rfl, exec_branch hready he hsb rfl rfl,
      exec_branch hready he hsb rfl rfl, exec_branch hready he hsb rfl rfl, exec_branch hready he hsb rfl rfl, ?br, ?jr, ?call⟩
    case br =>
      show Host.Outcome.next (giveSyllable y.tile.val y.e (.sc y.sb .br y.sat 0 0 0 off.toNat) s) = _
      rw [he, hsb, give_branch (op := .br) rfl hready rfl]
      rfl
    case jr =>
      show Host.Outcome.next (giveSyllable y.tile.val y.e (.sc y.sb .jr y.sat 0 ra.toNat 0 0) s) = _
      rw [he, hsb, give_transfer hready rfl rfl (by decide) (nextPc_jr hloops hbranch hrep) hreti]
      rfl
    case call =>
      show Host.Outcome.next (giveSyllable y.tile.val y.e (.sc y.sb .call y.sat 0 0 0 off.toNat) s) = _
      rw [he, hsb, give_transfer hready rfl rfl (by decide) (nextPc_call hloops hbranch hrep) hreti]
      rfl
  case repetitions =>
    intro s t u y ra n hready he hsb go
    obtain ⟨-, -, -, -, -, -, -, hbranch, hrep, -, -, -⟩ := id hready
    refine ⟨?_, ?_⟩
    · show Host.Outcome.next (giveSyllable y.tile.val y.e (.sc y.sb .rep y.sat 0 ra.toNat 0 0) s) = _
      rw [he, hsb, give_rep hready (.inl rfl) (nextPc_rep hbranch hrep).1]
    · show Host.Outcome.next (giveSyllable y.tile.val y.e (.sc y.sb .repi y.sat 0 0 0 n.toNat) s) = _
      rw [he, hsb, give_rep hready (.inr rfl) (nextPc_rep hbranch hrep).2]
  case loops =>
    intro s t u y ra rot e16 n e10 hready he hsb go
    obtain ⟨-, -, -, -, -, -, -, hbranch, hrep, -, -, -⟩ := id hready
    refine ⟨?_, ?_⟩
    · have hnext := (nextPc_loop (s := s) (n := u.flights.length) (ra := ra.toNat) (imm := e16.toNat + 65536 * ofBool rot) hbranch hrep).1
      rw [(loopImm e16 rot).1, (loopImm e16 rot).2] at hnext
      show Host.Outcome.next (giveSyllable y.tile.val y.e (.sc y.sb .loop y.sat 0 ra.toNat 0 (e16.toNat + 65536 * ofBool rot)) s) = _
      rw [he, hsb, give_loop hready (.inl rfl) hnext]
    · have hnext := (nextPc_loop (s := s) (n := u.flights.length) (ra := 0) (imm := e10.toNat + 1024 * ofBool rot + 2048 * n.toNat) hbranch hrep).2
      rw [(loopiImm n rot e10).1, (loopiImm n rot e10).2.1, (loopiImm n rot e10).2.2] at hnext
      show Host.Outcome.next (giveSyllable y.tile.val y.e (.sc y.sb .loopi y.sat 0 0 0 (e10.toNat + 1024 * ofBool rot + 2048 * n.toNat)) s) = _
      rw [he, hsb, give_loop hready (.inr rfl) hnext]

/-! ### Control registers, WFE, RETI and TASK_END -/

/-- ROTB, MFC, MTC and WFE go on with the next word. -/
theorem nextPc_straight {s : State} {u u' : Tile} {op : SOp} {n a imm : Nat} (hctl : isControl op = true) (h : isMisplaced op = false ∨ op = .taskEnd ∨ op = .reti)
    (hbranch : u.branch = none) (hrep : u.rep = none) (hloops : u'.loops = []) :
    nextPc s u u' n 1 (some (op, a, imm)) = { u' with pc := u'.pc + 4 } := by
  have hstep : nextPc s u u' n 1 (some (op, a, imm)) = stepOn u' n 1 := by
    unfold nextPc
    simp only [hbranch, hrep]
    cases op <;> first | rfl | exact absurd hctl (by decide) | exact absurd h (by decide)
  exact hstep.trans (stepOn_plain hloops)

/-- Such a control operation, with the core as it leaves it. -/
theorem give_straight {s s1 : State} {t u u' : Tile} {p rd ra imm : Nat} {op : SOp} {sat : Bool} (hready : TileReady s p t u)
    (hctl : isControl op = true) (hmove : isMisplaced op = false) (hcreg : op = .mfc ∨ op = .mtc → cregOk imm = true)
    (hm : op ≠ .wfe ∨ imm = 0 ∨ u.irqPend &&& imm ≠ 0) (hexec : scExec s u u u.flights.length op sat rd ra 0 imm = (s1, u'))
    (hloops : u'.loops = u.loops) (hreti : u'.afterReti = u.afterReti) :
    giveSyllable p true (.sc false op sat rd ra 0 imm) s = setTile s1 p (issued u') := by
  obtain ⟨-, -, -, -, -, -, hl, hbranch, hrep, -, hr, -⟩ := id hready
  have hends : op ≠ .reti ∧ op ≠ .taskEnd := by constructor <;> (rintro rfl; exact absurd hmove (by decide))
  have hloop : op ≠ .loop ∧ op ≠ .loopi := by constructor <;> (rintro rfl; exact absurd hmove (by decide))
  have hcheck : scCheck u false op imm = .ok := by
    have hc : ¬ ((op = .mfc ∨ op = .mtc) ∧ cregOk imm = false) := fun h => absurd (hcreg h.1) (ne_true_of_eq_false h.2)
    unfold scCheck
    simp only [hc, hbranch, hrep, hends, hloop, if_false, Option.isSome_none, Bool.false_eq_true, false_and, or_self]
  exact alone_ctl hready hctl hcheck hends hm hexec (nextPc_straight hctl (.inl hmove) hbranch hrep (hloops.trans hl)) (hreti.trans hr)

/-- MFC puts what it reads in flight, on the core with what it latches. -/
theorem give_mfc {s s1 : State} {t u u1 : Tile} {p v imm : Nat} {sat : Bool} (hready : TileReady s p t u) (rd : Reg) (hcreg : cregOk imm = true)
    (hread : cregRead s u imm = (v, u1, s1)) :
    giveSyllable p true (.sc false .mfc sat rd.toNat 0 0 imm) s = setTile s1 p (issued (flying u1 (sWrites 1 rd v false))) := by
  have hcore := cregRead_core s u imm
  rw [hread] at hcore
  have hexec : scExec s u u u.flights.length .mfc sat rd.toNat 0 0 imm = (s1, flying u1 (sWrites 1 rd v false)) := by
    rw [← push_s]
    show (let (v, u1, s1) := cregRead s u imm; (s1, push u1 1 (.s rd.toNat) v)) = _
    rw [hread]
  exact give_straight hready rfl rfl (fun _ => hcreg) (.inl (by decide)) hexec hcore.1 hcore.2

/-- A WFE of whose mask no line is pending waits, with the writes that are due to control registers landed (R189, R198). -/
theorem give_wfe_waits {s : State} {t u : Tile} {p m : Nat} {sat : Bool} (hready : TileReady s p t u) (hm : m ≠ 0) (hpend : u.irqPend &&& m = 0) :
    giveSyllable p true (.sc false .wfe sat 0 0 0 m) s = setTile (landCregs s t).1 p { (landCregs s t).2 with wait := some m } := by
  obtain ⟨hget, htakes, hstage, -, -, -, -, hbranch, hrep, -, -, hlen⟩ := id hready
  have hcheck : sylCheck s p u ⟨0, slotOf (.sc false .wfe sat 0 0 0 m), .sc false .wfe sat 0 0 0 m, false⟩ = .ok := by
    have hfetch : u.pc < u.codeLen := by omega
    simp [sylCheck, hfetch, scCheck, hrep, isMisplaced]
  have hpasses := alone_passes hready hcheck
  have hmask : wfeMask (controlOf [⟨0, slotOf (.sc false .wfe sat 0 0 0 m), .sc false .wfe sat 0 0 0 m, false⟩]) = m := rfl
  have ht : ({ t with stage := [] } : Tile) = t := by cases t; simp_all
  unfold giveSyllable
  simp only [hget, htakes, hstage, if_true]
  unfold issueBundle
  simp only [hget, ht, List.nil_append, placeSyls_one, hpasses, hmask, hm, hpend, ne_eq, not_false_eq_true, and_self, if_true]

/-- The core as TASK_END and RETI find it when their bundle has issued. -/
theorem issued_eq {u : Tile} (hwait : u.wait = none) (hreti : u.afterReti = false) :
    ({ ({ u with pc := u.pc + 4 } : Tile) with cycle := u.cycle + 1, budget := u.budget - 1, first := false, afterReti := false } : Tile) = issued u := by
  unfold issued ticked
  cases u
  simp_all

/-- Where its check passes, the bundle of a lone TASK_END or RETI issues with nothing in flight of its own. -/
theorem runSyls_end {s : State} {u : Tile} {p n k : Nat} {op : SOp} {sat : Bool} (h : op = .taskEnd ∨ op = .reti) :
    runSyls p u n [⟨0, k, .sc false op sat 0 0 0 0, false⟩] s u = (s, u) := by
  rcases h with rfl | rfl <;> rfl

theorem sylCheck_end {s : State} {t u : Tile} {p k : Nat} {op : SOp} {sat : Bool} (hready : TileReady s p t u)
    (h : op = .taskEnd ∧ u.handler = .none ∨ op = .reti ∧ u.handler ≠ .none) :
    sylCheck s p u ⟨0, k, .sc false op sat 0 0 0 0, false⟩ = .ok := by
  obtain ⟨-, -, -, -, -, -, -, hbranch, hrep, -, -, hlen⟩ := hready
  have hfetch : u.pc < u.codeLen := by omega
  rcases h with ⟨rfl, h⟩ | ⟨rfl, h⟩ <;> simp [sylCheck, hfetch, scCheck, hrep, hbranch, h]

theorem give_taskEnd {s : State} {t u : Tile} {p : Nat} {sat : Bool} (hready : TileReady s p t u) (h : u.handler = .none) :
    giveSyllable p true (.sc false .taskEnd sat 0 0 0 0) s = endTile (setTile s p (issued u)) p .done := by
  obtain ⟨-, -, -, -, -, -, hloops, hbranch, hrep, hwait, hreti, -⟩ := id hready
  rw [alone_issues hready (sylCheck_end hready (.inl ⟨rfl, h⟩)) (.inl rfl) rfl]
  have hnext := nextPc_straight (s := s) (u' := u) (n := u.flights.length) (a := 0) (imm := 0) (op := .taskEnd) rfl (.inr (.inl rfl)) hbranch hrep hloops
  have hctl : controlOf [⟨0, slotOf (.sc false .taskEnd sat 0 0 0 0), .sc false .taskEnd sat 0 0 0 0, false⟩] = some (.taskEnd, 0, 0) := rfl
  have hcore : ({ u with cycle := u.cycle + BitVec.ofNat 64 0, budget := u.budget - 0, wait := none, afterReti := false } : Tile) = u := by cases u; simp_all
  unfold issueNow
  dsimp only
  simp only [hreti, Bool.false_and, Bool.false_eq_true, if_false]
  rw [hcore]
  simp only [hctl, hreti, runSyls_end (.inl rfl), hnext]
  exact congrArg (fun v => endTile (setTile s p v) p .done) (issued_eq hwait hreti)

/-- The core after a RETI whose bundle left it as v (R203). -/
def afterReturn (u v : Tile) : Tile :=
  let exc := u.handler == .exception
  noteSince { regainHeld v with
    handler := .none, pc := if exc then u.epc.toNat else u.ipc.toNat, flights := u.held ++ u.flights, held := [],
    branch := if exc then u.savedBranch else none, savedBranch := none,
    rep := if exc then (match u.savedRep with | some (x, n) => if x = u.epc.toNat then some n else none | none => none) else none,
    savedRep := none, cycle := u.cycle + 1 + 1, budget := u.budget - 1 - 1, afterReti := exc }

theorem takeReti_issued (u : Tile) : takeReti u (issued u) = afterReturn u (issued u) := by
  unfold takeReti afterReturn
  cases u.handler == .exception <;> rfl

theorem give_reti {s : State} {t u : Tile} {p : Nat} {sat : Bool} (hready : TileReady s p t u) (h : u.handler ≠ .none) :
    giveSyllable p true (.sc false .reti sat 0 0 0 0) s = setTile s p (afterReturn u (issued u)) := by
  obtain ⟨-, -, -, -, -, -, hloops, hbranch, hrep, hwait, hreti, -⟩ := id hready
  rw [alone_issues hready (sylCheck_end hready (.inr ⟨rfl, h⟩)) (.inl rfl) rfl]
  have hnext := nextPc_straight (s := s) (u' := u) (n := u.flights.length) (a := 0) (imm := 0) (op := .reti) rfl (.inr (.inr rfl)) hbranch hrep hloops
  have hctl : controlOf [⟨0, slotOf (.sc false .reti sat 0 0 0 0), .sc false .reti sat 0 0 0 0, false⟩] = some (.reti, 0, 0) := rfl
  have hcore : ({ u with cycle := u.cycle + BitVec.ofNat 64 0, budget := u.budget - 0, wait := none, afterReti := false } : Tile) = u := by cases u; simp_all
  unfold issueNow
  dsimp only
  simp only [hreti, Bool.false_and, Bool.false_eq_true, if_false]
  rw [hcore]
  simp only [hctl, hreti, runSyls_end (.inr rfl), hnext]
  exact congrArg (setTile s p) ((congrArg (takeReti u) (issued_eq hwait hreti)).trans (takeReti_issued u))

/-- In SB a control operation is no encoding (R180). -/
theorem give_control_sb {s : State} {t u : Tile} {p rd ra rb imm : Nat} {op : SOp} {sat : Bool} (hready : TileReady s p t u) (hctl : isControl op = true) :
    giveSyllable p true (.sc true op sat rd ra rb imm) s = setTile s p { t with fault := some (0x01, 0, false) } := by
  refine alone_faults hready ?_
  obtain ⟨-, -, -, -, -, -, -, -, -, -, -, hlen⟩ := hready
  have hfetch : u.pc < u.codeLen := by omega
  simp [sylCheck, hfetch, scCheck, hctl]

theorem exec_control_sb {s : State} {t u : Tile} {y : Sy} {rd ra rb imm : Nat} {op : SOp} (hready : TileReady s y.tile.val t u) (he : y.e = true)
    (hsb : y.sb = true) (hctl : isControl op = true) :
    Host.Outcome.next (giveSyllable y.tile.val y.e (.sc y.sb op y.sat rd ra rb imm) s) =
      (Host.Outcome.next (setTile s y.tile.val { t with fault := some (0x01, 0, false) }) : Res) := by
  rw [he, hsb, give_control_sb hready hctl]

/-- Settles O32: each operation by the lemma about its own end. -/
theorem controlRegistersAndTaskEnd : Obligations.ControlRegistersAndTaskEnd := by
  refine ⟨?registers, ?wfe, ?ends, ?misplaced⟩
  case registers =>
    intro s t u y rd ra n creg hready he hsb
    refine ⟨?rotb, fun hcreg => ⟨?mtc, fun v u1 s1 hread => ?mfc⟩⟩
    case rotb =>
      show Host.Outcome.next (giveSyllable y.tile.val y.e (.sc y.sb .rotb y.sat 0 0 0 n.toNat) s) = _
      rw [he, hsb]
      exact congrArg Host.Outcome.next (give_straight hready rfl rfl (by simp) (.inl (by decide)) rfl rfl rfl)
    case mtc =>
      show Host.Outcome.next (giveSyllable y.tile.val y.e (.sc y.sb .mtc y.sat 0 ra.toNat 0 creg.toNat) s) = _
      rw [he, hsb]
      exact congrArg Host.Outcome.next (give_straight hready rfl rfl (fun _ => hcreg) (.inl (by decide)) rfl rfl rfl)
    case mfc =>
      show Host.Outcome.next (giveSyllable y.tile.val y.e (.sc y.sb .mfc y.sat rd.toNat 0 0 creg.toNat) s) = _
      rw [he, hsb, give_mfc hready rd hcreg hread]
  case wfe =>
    intro s t u y m hready he hsb
    show (_ → Host.Outcome.next (giveSyllable y.tile.val y.e (.sc y.sb .wfe y.sat 0 0 0 m.toNat) s) = _) ∧
      (_ → _ → Host.Outcome.next (giveSyllable y.tile.val y.e (.sc y.sb .wfe y.sat 0 0 0 m.toNat) s) = _)
    rw [he, hsb]
    refine ⟨fun hgoes => ?_, fun hm hpend => ?_⟩
    · have himm : m.toNat = 0 ∨ u.irqPend &&& m.toNat ≠ 0 := hgoes.imp (fun h => by rw [h]; rfl) id
      exact congrArg Host.Outcome.next (give_straight hready rfl rfl (by simp) (.inr himm) rfl rfl rfl)
    · have hm' : m.toNat ≠ 0 := fun h => hm (BitVec.eq_of_toNat_eq h)
      rw [give_wfe_waits hready hm' hpend]
  case ends =>
    intro s t u y hready he hsb
    refine ⟨fun h => ?_, fun h => ?_⟩
    · show Host.Outcome.next (giveSyllable y.tile.val y.e (.sc y.sb .taskEnd y.sat 0 0 0 0) s) = _
      rw [he, hsb, give_taskEnd hready h]
    · show Host.Outcome.next (giveSyllable y.tile.val y.e (.sc y.sb .reti y.sat 0 0 0 0) s) = _
      rw [he, hsb, give_reti hready h]
      rfl
  case misplaced =>
    intro s t u y rd ra off n rot e16 e10 k creg m hready he hsb i hi
    have hfault : ∀ {op : SOp} {rd ra rb imm : Nat}, isControl op = true →
        Host.Outcome.next (giveSyllable y.tile.val y.e (.sc y.sb op y.sat rd ra rb imm) s) =
          (Host.Outcome.next (setTile s y.tile.val { t with fault := some (0x01, 0, false) }) : Res) :=
      fun hctl => exec_control_sb hready he hsb hctl
    simp only [List.mem_cons, List.not_mem_nil, or_false] at hi
    rcases hi with rfl | rfl | rfl | rfl | rfl | rfl | rfl | rfl | rfl | rfl | rfl | rfl | rfl | rfl | rfl | rfl | rfl | rfl | rfl
    all_goals exact hfault rfl

end Sys2Proof.Machine

/-! ## Scalar accesses of memory and of the register window (spec/05_phimar_scalar.md R167 to R170, R185; spec/07_memory.md R267) -/

namespace Sys2Proof.Machine

open Sys2Proof.Safety

/-- The loads, and the stores, whose address is ra + sext(IMM12). -/
def isLoad (op : LOp) : Bool := [LOp.ldw, .ldh, .ldhu, .ldb, .ldbu].contains op
def isPlainStore (op : LOp) : Bool := [LOp.stw, .sth, .stb].contains op

theorem isLoad_facts {op : LOp} (h : isLoad op = true) :
    isVecMem op = false ∧ isStore op = false ∧ accSize op ≠ 0 ∧ op ≠ .ldwPost ∧ ∀ (u : Tile) (ra imm : Nat), lsAddr u op ra imm = unsignedOf 32 (sInt u ra + signedOf 12 imm) := by
  cases op <;> first | exact absurd h (by decide) | exact ⟨rfl, rfl, by decide, by decide, fun _ _ _ => rfl⟩

theorem isPlainStore_facts {op : LOp} (h : isPlainStore op = true) :
    isVecMem op = false ∧ isStore op = true ∧ accSize op ≠ 0 ∧ op ≠ .stwPost ∧ ∀ (u : Tile) (ra imm : Nat), lsAddr u op ra imm = unsignedOf 32 (sInt u ra + signedOf 12 imm) := by
  cases op <;> first | exact absurd h (by decide) | exact ⟨rfl, rfl, by decide, by decide, fun _ _ _ => rfl⟩

/-- Where an access goes depends on the task's windows only. -/
theorem placeOf_congr {t u : Tile} {p a n : Nat} {w : Bool} (h : t.wins = u.wins) : placeOf p t a n w = placeOf p u a n w := by
  unfold placeOf winAllows
  rw [h]

theorem sInt_waited (s : State) (p : Nat) (u : Tile) (gs : List Nat) (r : Nat) : sInt (waited s p u gs) r = sInt u r := rfl

theorem sGet_waited (s : State) (p : Nat) (u : Tile) (gs : List Nat) (r : Nat) : sGet (waited s p u gs) r = sGet u r := rfl

/-- The wait for a slot leaves an access its place. -/
theorem placeOf_waited {s : State} {u : Tile} {p r imm n : Nat} {w : Bool} {gs : List Nat} {pl : Place}
    (h : placeOf p u (unsignedOf 32 (sInt u r + signedOf 12 imm)) n w = some pl) :
    placeOf p (waited s p u gs) (unsignedOf 32 (sInt (waited s p u gs) r + signedOf 12 imm)) n w = some pl := by
  rw [sInt_waited, placeOf_congr (t := waited s p u gs) (u := u) rfl]
  exact h

theorem flying_core (u : Tile) (fs : List Flight) : (flying u fs).loops = u.loops ∧ (flying u fs).afterReti = u.afterReti := ⟨rfl, rfl⟩

section OneAccess

variable {s : State} {t u : Tile} {p f r : Nat} {op : LOp} {rd ra : Reg} {imm : Nat}

/-- The check of an access passes at a good place (R167 to R170). -/
theorem smCheck_load {pl : Place} (hload : isLoad op = true) (hready : TileReady s p t u)
    (hplace : placeOf p u (unsignedOf 32 (sInt u ra.toNat + signedOf 12 imm)) (accSize op) false = some pl)
    (halign : unsignedOf 32 (sInt u ra.toNat + signedOf 12 imm) % accSize op = 0) (hgood : ∀ f c, pl = .mem f c → byteBad s f = false) :
    smCheck s p u op ra.toNat imm = .ok := by
  obtain ⟨-, hstore, hsize, -, haddr⟩ := isLoad_facts hload
  exact smCheck_ok hsize (by rw [haddr, hstore]; exact hplace) (by rw [haddr]; exact halign) hready.2.2.2.2.2.2.2.2.1
    fun f c h => .inr (hgood f c h)

theorem smCheck_store {pl : Place} (hstore : isPlainStore op = true) (hready : TileReady s p t u)
    (hplace : placeOf p u (unsignedOf 32 (sInt u ra.toNat + signedOf 12 imm)) (accSize op) true = some pl)
    (halign : unsignedOf 32 (sInt u ra.toNat + signedOf 12 imm) % accSize op = 0) :
    smCheck s p u op ra.toNat imm = .ok := by
  obtain ⟨-, hstore, hsize, -, haddr⟩ := isPlainStore_facts hstore
  exact smCheck_ok hsize (by rw [haddr, hstore]; exact hplace) (by rw [haddr]; exact halign) hready.2.2.2.2.2.2.2.2.1
    fun f c h => .inl hstore

/-- What a plain load puts in flight from its place. -/
theorem lsFlights_mem {csm : Bool} (hload : isLoad op = true)
    (hplace : placeOf p t (unsignedOf 32 (sInt t ra.toNat + signedOf 12 imm)) (accSize op) false = some (.mem f csm)) :
    lsFlights s p t u op rd.toNat ra.toNat imm 0 0 false =
      flying u (sWrites (if csm then 8 else 4) rd (loadValue op (rdLe s f (accSize op))) false) := by
  obtain ⟨hvec, hstore, hsize, hpost, haddr⟩ := isLoad_facts hload
  rw [lsFlights_load hvec hstore hsize (by rw [haddr]; exact hplace), ← push_s]
  exact if_neg hpost

theorem lsFlights_window (hload : isLoad op = true)
    (hplace : placeOf p t (unsignedOf 32 (sInt t ra.toNat + signedOf 12 imm)) (accSize op) false = some (.reg r)) :
    lsFlights s p t u op rd.toNat ra.toNat imm 0 0 false = flying u (sWrites 8 rd (regRead s r) false) := by
  obtain ⟨hvec, hstore, hsize, hpost, haddr⟩ := isLoad_facts hload
  rw [lsFlights_load hvec hstore hsize (by rw [haddr]; exact hplace), ← push_s]
  exact if_neg hpost

/-- A plain store puts nothing in flight. -/
theorem lsFlights_stored (hstore : isPlainStore op = true) : lsFlights s p t u op rd.toNat ra.toNat imm 0 0 false = u := by
  obtain ⟨hvec, hwrites, -, hpost, -⟩ := isPlainStore_facts hstore
  rw [lsFlights_store hvec hwrites]
  exact if_neg hpost

/-- A load has no effect on memory. -/
theorem lsStore_load (s : State) {u : Tile} {m type : Nat} (hload : isLoad op = true) : lsStore s p u op rd.toNat ra.toNat imm m type = s := by
  rw [lsStore, if_pos (isLoad_facts hload).2.1]

theorem lsStore_mem (s : State) {u : Tile} {csm : Bool} {m type : Nat} (hstore : isPlainStore op = true)
    (hplace : placeOf p u (unsignedOf 32 (sInt u ra.toNat + signedOf 12 imm)) (accSize op) true = some (.mem f csm)) :
    lsStore s p u op rd.toNat ra.toNat imm m type = wrMem s f (leBytes (accSize op) (sGet u rd.toNat)) := by
  obtain ⟨hvec, hwrites, -, -, haddr⟩ := isPlainStore_facts hstore
  unfold lsStore
  simp only [hvec, hwrites, haddr, hplace, Bool.false_eq_true, if_false, Bool.true_eq_false]

theorem lsStore_window (s : State) {u : Tile} {m type : Nat} (hstore : isPlainStore op = true)
    (hplace : placeOf p u (unsignedOf 32 (sInt u ra.toNat + signedOf 12 imm)) (accSize op) true = some (.reg r)) :
    lsStore s p u op rd.toNat ra.toNat imm m type = storeReg s p r (sGet u rd.toNat) := by
  obtain ⟨hvec, hwrites, -, -, haddr⟩ := isPlainStore_facts hstore
  unfold lsStore
  simp only [hvec, hwrites, haddr, hplace, Bool.false_eq_true, if_false, Bool.true_eq_false]

theorem accSize_pos (h : accSize op ≠ 0) : 1 ≤ accSize op := Nat.pos_of_ne_zero h

/-- A lone load of the scratchpad. -/
theorem give_padLoad (hload : isLoad op = true) (hready : TileReady s p t u) (hgood : byteBad s f = false)
    (hplace : placeOf p u (unsignedOf 32 (sInt u ra.toNat + signedOf 12 imm)) (accSize op) false = some (.mem f false))
    (halign : unsignedOf 32 (sInt u ra.toNat + signedOf 12 imm) % accSize op = 0) :
    giveSyllable p true (.ls op rd.toNat ra.toNat imm 0 0 false) s =
      setTile s p (issued (flying u (sWrites 4 rd (loadValue op (rdLe s f (accSize op))) false))) := by
  obtain ⟨hvec, -, hsize, -, haddr⟩ := isLoad_facts hload
  have hcheck := smCheck_load hload hready hplace halign (fun f' c h => by cases h; exact hgood)
  have hcsm : tileCsm (lsAddr u op ra.toNat imm) = false := by
    rw [haddr]
    exact placeOf_csm hplace (accSize_pos hsize)
  rw [alone_ls hready hvec hcheck (.inl hcsm) (lsFlights_mem hload hplace), lsStore_load _ hload]
  rfl

/-- A lone store to the scratchpad. -/
theorem give_padStore (hstore : isPlainStore op = true) (hready : TileReady s p t u)
    (hplace : placeOf p u (unsignedOf 32 (sInt u ra.toNat + signedOf 12 imm)) (accSize op) true = some (.mem f false))
    (halign : unsignedOf 32 (sInt u ra.toNat + signedOf 12 imm) % accSize op = 0) :
    giveSyllable p true (.ls op rd.toNat ra.toNat imm 0 0 false) s =
      wrMem (setTile s p (issued u)) f (leBytes (accSize op) (sGet u rd.toNat)) := by
  obtain ⟨hvec, -, hsize, -, haddr⟩ := isPlainStore_facts hstore
  have hcheck := smCheck_store hstore hready hplace halign
  have hcsm : tileCsm (lsAddr u op ra.toNat imm) = false := by
    rw [haddr]
    exact placeOf_csm hplace (accSize_pos hsize)
  have hnone : lsFlights s p u u op rd.toNat ra.toNat imm 0 0 false = flying u [] := by
    rw [lsFlights_stored hstore, flying, List.append_nil]
  rw [alone_ls hready hvec hcheck (.inl hcsm) hnone, lsStore_mem _ hstore hplace, flying, List.append_nil]

/-- A lone load of the CSM, after the wait for its slot. -/
theorem give_csmLoad (hload : isLoad op = true) (hready : TileReady s p t u) (hbudget : 15 < u.budget) (hgood : byteBad s f = false)
    (hplace : placeOf p u (unsignedOf 32 (sInt u ra.toNat + signedOf 12 imm)) (accSize op) false = some (.mem f true))
    (halign : unsignedOf 32 (sInt u ra.toNat + signedOf 12 imm) % accSize op = 0) :
    giveSyllable p true (.ls op rd.toNat ra.toNat imm 0 0 false) s =
      setTile s p (issued (flying (waited s p u [unsignedOf 32 (sInt u ra.toNat + signedOf 12 imm)])
        (sWrites 8 rd (loadValue op (rdLe s f (accSize op))) false))) := by
  obtain ⟨hvec, -, hsize, -, haddr⟩ := isLoad_facts hload
  obtain ⟨-, -, -, -, -, -, hloops, -, -, -, hreti, -⟩ := id hready
  have hcheck := smCheck_load hload hready hplace halign (fun f' c h => by cases h; exact hgood)
  have hcsm : tileCsm (unsignedOf 32 (sInt u ra.toNat + signedOf 12 imm)) = true := placeOf_csm hplace (accSize_pos hsize)
  have haccess : csmAccess u (.ls op rd.toNat ra.toNat imm 0 0 false) = [unsignedOf 32 (sInt u ra.toNat + signedOf 12 imm)] := by
    unfold csmAccess
    simp [hvec, hsize, haddr, hcsm]
  rw [alone_ls_csm hready (sylCheck_ls hready hvec hcheck) haccess hbudget (lsFlights_mem hload (placeOf_waited hplace))
    ((flying_core _ _).1.trans ((waited_core s p u _).1.trans hloops)) ((flying_core _ _).2.trans ((waited_core s p u _).2.trans hreti)), lsStore_load _ hload]
  rfl

/-- A lone store to the CSM. -/
theorem give_csmStore (hstore : isPlainStore op = true) (hready : TileReady s p t u) (hbudget : 15 < u.budget)
    (hplace : placeOf p u (unsignedOf 32 (sInt u ra.toNat + signedOf 12 imm)) (accSize op) true = some (.mem f true))
    (halign : unsignedOf 32 (sInt u ra.toNat + signedOf 12 imm) % accSize op = 0) :
    giveSyllable p true (.ls op rd.toNat ra.toNat imm 0 0 false) s =
      wrMem (setTile s p (issued (waited s p u [unsignedOf 32 (sInt u ra.toNat + signedOf 12 imm)]))) f (leBytes (accSize op) (sGet u rd.toNat)) := by
  obtain ⟨hvec, -, hsize, -, haddr⟩ := isPlainStore_facts hstore
  obtain ⟨-, -, -, -, -, -, hloops, -, -, -, hreti, -⟩ := id hready
  have hcheck := smCheck_store hstore hready hplace halign
  have hcsm : tileCsm (unsignedOf 32 (sInt u ra.toNat + signedOf 12 imm)) = true := placeOf_csm hplace (accSize_pos hsize)
  have haccess : csmAccess u (.ls op rd.toNat ra.toNat imm 0 0 false) = [unsignedOf 32 (sInt u ra.toNat + signedOf 12 imm)] := by
    unfold csmAccess
    simp [hvec, hsize, haddr, hcsm]
  rw [alone_ls_csm hready (sylCheck_ls hready hvec hcheck) haccess hbudget (lsFlights_stored hstore)
    ((waited_core s p u _).1.trans hloops) ((waited_core s p u _).2.trans hreti)]
  rw [lsStore_mem _ hstore (placeOf_waited hplace), sGet_waited]

end OneAccess

/-! ### The scratchpad -/

/-- The core that has put two lists of writes in flight. -/
theorem flying_flying (u : Tile) (fs gs : List Flight) : flying (flying u fs) gs = flying u (fs ++ gs) := by
  simp only [flying, List.append_assoc]

/-- The check of a post-increment access, whose address is ra. -/
theorem smCheck_post {s : State} {t u : Tile} {p f imm : Nat} {op : LOp} {ra : Reg} (h : op = .ldwPost ∨ op = .stwPost) (hready : TileReady s p t u)
    (hplace : placeOf p u (sGet u ra.toNat) 4 (isStore op) = some (.mem f false)) (halign : sGet u ra.toNat % 4 = 0)
    (hgood : isStore op = true ∨ byteBad s f = false) : smCheck s p u op ra.toNat imm = .ok := by
  obtain ⟨-, -, -, -, -, -, -, -, hrep, -, -, -⟩ := hready
  rcases h with rfl | rfl
  · exact smCheck_ok (by decide) hplace halign hrep fun f' c h => by cases h; exact hgood
  · exact smCheck_ok (by decide) hplace halign hrep fun f' c h => by cases h; exact hgood

/-- The increment of a post-increment access in flight. -/
def incremented (u : Tile) (ra : Reg) (imm : Nat) : List Flight := sWrites 1 ra (unsignedOf 32 (sInt u ra.toNat + signedOf 12 imm)) false

theorem give_ldwPost {s : State} {t u : Tile} {p f imm : Nat} {rd ra : Reg} (hready : TileReady s p t u) (hgood : byteBad s f = false)
    (hplace : placeOf p u (sGet u ra.toNat) 4 false = some (.mem f false)) (halign : sGet u ra.toNat % 4 = 0) :
    giveSyllable p true (.ls .ldwPost rd.toNat ra.toNat imm 0 0 false) s =
      setTile s p (issued (flying (flying u (sWrites 4 rd (rdLe s f 4) false)) (incremented u ra imm))) := by
  have hflights : lsFlights s p u u .ldwPost rd.toNat ra.toNat imm 0 0 false = flying u (sWrites 4 rd (rdLe s f 4) false ++ incremented u ra imm) := by
    rw [lsFlights_load rfl rfl (by decide) hplace, ← flying_flying, incremented, ← push_s, ← push_s]
    rfl
  rw [alone_ls hready rfl (smCheck_post (.inl rfl) hready hplace halign (.inr hgood)) (.inl (placeOf_csm hplace (by decide))) hflights, flying_flying]
  rfl

theorem give_stwPost {s : State} {t u : Tile} {p f imm : Nat} {rd ra : Reg} (hready : TileReady s p t u)
    (hplace : placeOf p u (sGet u ra.toNat) 4 true = some (.mem f false)) (halign : sGet u ra.toNat % 4 = 0) :
    giveSyllable p true (.ls .stwPost rd.toNat ra.toNat imm 0 0 false) s =
      wrMem (setTile s p (issued (flying u (incremented u ra imm)))) f (leBytes 4 (sGet u rd.toNat)) := by
  have hflights : lsFlights s p u u .stwPost rd.toNat ra.toNat imm 0 0 false = flying u (incremented u ra imm) := by
    rw [lsFlights_store rfl rfl, incremented, ← push_s]
    rfl
  rw [alone_ls hready rfl (smCheck_post (.inr rfl) hready hplace halign (.inl rfl)) (.inl (placeOf_csm hplace (by decide))) hflights]
  show lsStore _ p u .stwPost rd.toNat ra.toNat imm 0 0 = _
  unfold lsStore
  simp only [isStore, isVecMem, accSize, lsAddr, hplace]
  rfl

/-- The immediate of a FENCE holds its scope and its kind. -/
theorem fenceImm (sc k : BitVec 2) : bitsOf (sc.toNat + 4 * k.toNat) 2 2 = k.toNat := by
  have hsc := sc.isLt
  have hk := k.isLt
  simp only [bitsOf, Nat.shiftRight_eq_div_pow]
  omega

/-- A FENCE of a kind that exists has no other effect. -/
theorem give_fence {s : State} {t u : Tile} {p imm : Nat} (hready : TileReady s p t u) (hkind : bitsOf imm 2 2 ≠ 3) :
    giveSyllable p true (.ls .fence 0 0 imm 0 0 false) s = setTile s p (issued u) := by
  have hcheck : smCheck s p u .fence 0 imm = .ok := by
    unfold smCheck
    simp [accSize, hkind]
  have hnone : lsFlights s p u u .fence 0 0 imm 0 0 false = flying u [] := by
    rw [flying, List.append_nil]
    rfl
  rw [alone_ls hready rfl hcheck (.inr rfl) hnone, flying, List.append_nil]
  rfl

/-- A lone scalar access that fails its check. -/
theorem give_ls_fault {s : State} {t u : Tile} {p cause ebad rd ra imm : Nat} {op : LOp} (hready : TileReady s p t u) (hvec : isVecMem op = false)
    (hcheck : smCheck s p u op ra imm = .fault cause ebad false none) :
    giveSyllable p true (.ls op rd ra imm 0 0 false) s = setTile s p { t with fault := some (cause, ebad, false) } := by
  refine alone_faults hready ?_
  obtain ⟨-, -, -, -, -, -, -, -, -, -, -, hlen⟩ := hready
  have hfetch : u.pc < u.codeLen := by omega
  simp [sylCheck, hfetch, hvec, hcheck]

/-- Settles O33: loads and stores of each size are one lemma each; the others have their own. -/
theorem loadsAndStoresOfTheScratchpad : Obligations.LoadsAndStoresOfTheScratchpad := by
  refine ⟨?loads, ?stores, ?posts, ?fences, ?faults⟩
  case loads =>
    intro s t u y rd ra imm f hready he a go hgood
    have hload : ∀ {op : LOp}, isLoad op = true → placeOf y.tile.val u a (accSize op) false = some (.mem f false) → a % accSize op = 0 →
        Host.Outcome.next (giveSyllable y.tile.val y.e (.ls op rd.toNat ra.toNat imm.toNat 0 0 false) s) = go (loadValue op (rdLe s f (accSize op))) :=
      fun hop hplace halign => by rw [he, give_padLoad hop hready hgood hplace halign]
    exact ⟨fun hplace halign => hload (op := .ldw) rfl hplace halign, fun hplace halign => hload (op := .ldh) rfl hplace halign,
      fun hplace halign => hload (op := .ldhu) rfl hplace halign, fun hplace halign => hload (op := .ldb) rfl hplace halign,
      fun hplace halign => hload (op := .ldbu) rfl hplace halign⟩
  case stores =>
    intro s t u y rd ra imm f hready he a
    have hstore : ∀ {op : LOp}, isPlainStore op = true → placeOf y.tile.val u a (accSize op) true = some (.mem f false) → a % accSize op = 0 →
        Host.Outcome.next (giveSyllable y.tile.val y.e (.ls op rd.toNat ra.toNat imm.toNat 0 0 false) s) =
          (Host.Outcome.next (wrMem (setTile s y.tile.val (issued u)) f (leBytes (accSize op) (sGet u rd.toNat))) : Res) :=
      fun hop hplace halign => by rw [he, give_padStore hop hready hplace halign]
    exact ⟨hstore (op := .stw) rfl, hstore (op := .sth) rfl, hstore (op := .stb) rfl⟩
  case posts =>
    intro s t u y rd ra imm f hready he a inc
    refine ⟨fun hplace halign hgood => ?_, fun hplace halign => ?_⟩
    · show Host.Outcome.next (giveSyllable y.tile.val y.e (.ls .ldwPost rd.toNat ra.toNat imm.toNat 0 0 false) s) = _
      rw [he, give_ldwPost hready hgood hplace halign]
      rfl
    · show Host.Outcome.next (giveSyllable y.tile.val y.e (.ls .stwPost rd.toNat ra.toNat imm.toNat 0 0 false) s) = _
      rw [he, give_stwPost hready hplace halign]
      rfl
  case fences =>
    intro s t u y sc k hready he
    show (_ → Host.Outcome.next (giveSyllable y.tile.val y.e (.ls .fence 0 0 (sc.toNat + 4 * k.toNat) 0 0 false) s) = _) ∧
      (_ → Host.Outcome.next (giveSyllable y.tile.val y.e (.ls .fence 0 0 (sc.toNat + 4 * k.toNat) 0 0 false) s) = _)
    rw [he]
    refine ⟨fun hk => ?_, fun hk => ?_⟩
    · have hkind : bitsOf (sc.toNat + 4 * k.toNat) 2 2 ≠ 3 := by
        rw [fenceImm]
        exact fun h => hk (BitVec.eq_of_toNat_eq h)
      rw [give_fence hready hkind]
    · have hcheck : smCheck s y.tile.val u .fence 0 (sc.toNat + 4 * k.toNat) = .fault 0x01 0 false none := by
        unfold smCheck
        simp only [fenceImm, hk]
        rfl
      rw [give_ls_fault hready rfl hcheck]
  case faults =>
    intro s t u y rd ra imm hready he a
    show (_ → Host.Outcome.next (giveSyllable y.tile.val y.e (.ls .ldw rd.toNat ra.toNat imm.toNat 0 0 false) s) = _) ∧
      (∀ _ _, _ → _ → Host.Outcome.next (giveSyllable y.tile.val y.e (.ls .ldw rd.toNat ra.toNat imm.toNat 0 0 false) s) = _)
    rw [he]
    have haddr : lsAddr u .ldw ra.toNat imm.toNat = a := rfl
    refine ⟨fun hplace => ?_, fun f c hplace halign => ?_⟩
    · have hcheck : smCheck s y.tile.val u .ldw ra.toNat imm.toNat = .fault 0x05 a false none := by
        unfold smCheck
        simp only [haddr, accSize, show isStore .ldw = false from rfl, hplace]
        rfl
      rw [give_ls_fault hready rfl hcheck]
    · have hcheck : smCheck s y.tile.val u .ldw ra.toNat imm.toNat = .fault 0x06 a false none := by
        unfold smCheck
        simp only [haddr, accSize, show isStore .ldw = false from rfl, hplace, halign, ne_eq, not_false_eq_true, if_true]
        rfl
      rw [give_ls_fault hready rfl hcheck]

/-! ### The CSM and the register window -/

/-- Settles O34: as the scratchpad, after the wait; the register window has no wait. -/
theorem loadsAndStoresOfTheCluster : Obligations.LoadsAndStoresOfTheCluster := by
  refine ⟨?loads, ?stores, ?window⟩
  case loads =>
    intro s t u y rd ra imm f hready he a x go hbudget hgood
    have hload : ∀ {op : LOp}, isLoad op = true → placeOf y.tile.val u a (accSize op) false = some (.mem f true) → a % accSize op = 0 →
        Host.Outcome.next (giveSyllable y.tile.val y.e (.ls op rd.toNat ra.toNat imm.toNat 0 0 false) s) = go (loadValue op (rdLe s f (accSize op))) :=
      fun hop hplace halign => by rw [he, give_csmLoad hop hready hbudget hgood hplace halign]
    exact ⟨fun hplace halign => hload (op := .ldw) rfl hplace halign, fun hplace halign => hload (op := .ldh) rfl hplace halign,
      fun hplace halign => hload (op := .ldhu) rfl hplace halign, fun hplace halign => hload (op := .ldb) rfl hplace halign,
      fun hplace halign => hload (op := .ldbu) rfl hplace halign⟩
  case stores =>
    intro s t u y rd ra imm f hready he a x hbudget
    have hstore : ∀ {op : LOp}, isPlainStore op = true → placeOf y.tile.val u a (accSize op) true = some (.mem f true) → a % accSize op = 0 →
        Host.Outcome.next (giveSyllable y.tile.val y.e (.ls op rd.toNat ra.toNat imm.toNat 0 0 false) s) =
          (Host.Outcome.next (wrMem (setTile s y.tile.val (issued x)) f (leBytes (accSize op) (sGet u rd.toNat))) : Res) :=
      fun hop hplace halign => by rw [he, give_csmStore hop hready hbudget hplace halign]
    exact ⟨hstore (op := .stw) rfl, hstore (op := .sth) rfl, hstore (op := .stb) rfl⟩
  case window =>
    intro s t u y rd ra imm r hready he a halign
    refine ⟨fun hplace => ?_, fun hplace => ?_⟩
    · show Host.Outcome.next (giveSyllable y.tile.val y.e (.ls .ldw rd.toNat ra.toNat imm.toNat 0 0 false) s) = _
      have hcheck := smCheck_load (op := .ldw) rfl hready hplace halign (fun _ _ h => by cases h)
      rw [he, alone_ls hready rfl hcheck (.inl (placeOf_csm hplace (by decide))) (lsFlights_window (op := .ldw) rfl hplace)]
      rfl
    · show Host.Outcome.next (giveSyllable y.tile.val y.e (.ls .stw rd.toNat ra.toNat imm.toNat 0 0 false) s) = _
      have hcheck := smCheck_store (op := .stw) rfl hready hplace halign
      have hnone : lsFlights s y.tile.val u u .stw rd.toNat ra.toNat imm.toNat 0 0 false = flying u [] := by
        rw [lsFlights_stored (op := .stw) rfl, flying, List.append_nil]
      rw [he, alone_ls hready rfl hcheck (.inl (placeOf_csm hplace (by decide))) hnone, lsStore_window _ (op := .stw) rfl hplace, flying, List.append_nil]

end Sys2Proof.Machine

/-! ## The VX slot (spec/06_phimar_vector.md R217, R224 to R239) -/

namespace Sys2Proof.Machine

open Sys2Proof.Safety

/-- A lone VX syllable of a permitted TYPE, whose write is the core u'. -/
theorem exec_vx {s : State} {t u u' : Tile} {y : Vy} {op : VOp} {vd va vb m type : Nat} (hready : TileReady s y.tile.val t u) (he : y.e = true)
    (htype : vxTypeOk op type = true) (hexec : vxExec u u op y.sat vd va vb m type = u') (hcore : u'.loops = u.loops ∧ u'.afterReti = u.afterReti) :
    Host.Outcome.next (giveSyllable y.tile.val y.e (.vx op y.sat vd va vb m type) s) = (Host.Outcome.next (setTile s y.tile.val (issued u')) : Res) := by
  rw [he, alone_vx_core hready htype hexec hcore]

/-- One that writes components of a vector register. -/
theorem exec_vWrite {s : State} {t u : Tile} {y : Vy} {op : VOp} {vd va vb m type d lat w : Nat} {sat : Bool} {xs : List (Nat × Int)}
    (hready : TileReady s y.tile.val t u) (he : y.e = true) (htype : vxTypeOk op type = true)
    (hexec : vxExec u u op y.sat vd va vb m type = vWrite u u d lat w sat xs) :
    Host.Outcome.next (giveSyllable y.tile.val y.e (.vx op y.sat vd va vb m type) s) =
      (Host.Outcome.next (setTile s y.tile.val (issued (vWrite u u d lat w sat xs))) : Res) :=
  exec_vx hready he htype hexec (vWrite_core ..)

/-- One that puts one write in flight. -/
theorem exec_vPush {s : State} {t u : Tile} {y : Vy} {op : VOp} {vd va vb m type lat v : Nat} {d : Dest}
    (hready : TileReady s y.tile.val t u) (he : y.e = true) (htype : vxTypeOk op type = true) (hexec : vxExec u u op y.sat vd va vb m type = push u lat d v) :
    Host.Outcome.next (giveSyllable y.tile.val y.e (.vx op y.sat vd va vb m type) s) = (Host.Outcome.next (setTile s y.tile.val (issued (push u lat d v))) : Res) :=
  exec_vx hready he htype hexec (push_core ..)

/-- One that accumulates. -/
theorem exec_accWrite {s : State} {t u : Tile} {y : Vy} {op : VOp} {vd va vb m type d : Nat} {sat : Bool} {xs : List (Nat × Int)}
    (hready : TileReady s y.tile.val t u) (he : y.e = true) (htype : vxTypeOk op type = true)
    (hexec : vxExec u u op y.sat vd va vb m type = accWrite u d sat xs) :
    Host.Outcome.next (giveSyllable y.tile.val y.e (.vx op y.sat vd va vb m type) s) =
      (Host.Outcome.next (setTile s y.tile.val (issued (accWrite u d sat xs))) : Res) :=
  exec_vx hready he htype hexec (accWrite_core ..)

/-- The complex product of components c and its pair, or that with conj(b) (R224). -/
theorem cProd_eq (w a b c : Nat) (cj : Bool) :
    cProd w a b cj c =
      (let re := compOf w a (c / 2 * 2)
       let im := compOf w a (c / 2 * 2 + 1)
       let br := compOf w b (c / 2 * 2)
       let bi := compOf w b (c / 2 * 2 + 1)
       if cj then (if c % 2 = 0 then re * br + im * bi else im * br - re * bi)
       else (if c % 2 = 0 then re * br - im * bi else re * bi + im * br)) := by
  have hplace : 2 * (c / 2) = c / 2 * 2 := mul_comm ..
  unfold cProd
  dsimp only
  rw [hplace]
  cases cj
  · rfl
  · simp only [if_true]
    by_cases h : c % 2 = 0
    · rw [if_pos h, if_pos h]
      ring
    · rw [if_neg h, if_neg h]
      ring

theorem ofBool_mod_two (h : Bool) : ofBool h % 2 = ofBool h := by cases h <;> rfl

/-- The fields of a block syllable's word: its register and its half (R235). -/
theorem blockFields (rs : Reg) (h : Bool) :
    2 * (rs.toNat / 2) + (rs.toNat % 2 * 4 + 2 * ofBool h) / 4 = rs.toNat ∧ (rs.toNat % 2 * 4 + 2 * ofBool h) / 2 % 2 = ofBool h := by
  have hh : ofBool h = 0 ∨ ofBool h = 1 := by cases h <;> decide
  omega

/-- The four block syllables by their fields. -/
theorem vxExec_block (u : Tile) (sat : Bool) (vd va vb : Nat) (rs : Reg) (h : Bool) :
    let m := rs.toNat / 2
    let type := rs.toNat % 2 * 4 + 2 * ofBool h
    vxExec u u .normb sat vd va vb m type = vBlock u u vd va vb (sGet u rs.toNat) (ofBool h) 20 20 false false sat rnd ∧
    vxExec u u .pack10 sat vd va vb m type = vBlock u u vd va vb (sGet u rs.toNat) (ofBool h) 20 10 false true true rnd ∧
    vxExec u u .unpack10 sat vd va vb m type = vBlock u u vd va vb (sGet u rs.toNat) (ofBool h) 10 20 true false sat (fun x e => x * 2 ^ e) ∧
    vxExec u u .bexp sat vd va vb m type = vBexp u u vd va (sGet u rs.toNat) (ofBool h) := by
  obtain ⟨hreg, hhalf⟩ := blockFields rs h
  unfold vxExec
  simp only [hreg, hhalf, and_self]

/-- Settles O35: each syllable is its row of `vxExec`, which writes components in one way. -/
theorem vectorArithmeticWrites : Obligations.VectorArithmeticWrites := by
  refine ⟨?sums, ?bounds, ?signs, ?shifts, ?complex, ?widths, ?tables, ?blocks⟩
  case sums =>
    intro s t u y vd va vb hready he T w cs go a b hT
    have htype : decide (T ≤ 4) = true := decide_eq_true hT
    exact ⟨exec_vWrite hready he htype rfl, exec_vWrite hready he htype rfl, exec_vWrite hready he htype rfl⟩
  case bounds =>
    intro s t u y vd va vb hready he T w cs go a b hT
    have htype : decide (T ≤ 2) = true := decide_eq_true hT
    exact ⟨exec_vWrite hready he htype rfl, exec_vWrite hready he htype rfl⟩
  case signs =>
    intro s t u y vd va hready he T w cs go a hT
    have htype : decide (T ≤ 4) = true := decide_eq_true hT
    exact ⟨exec_vWrite hready he htype rfl, exec_vWrite hready he htype rfl, exec_vWrite hready he htype rfl⟩
  case shifts =>
    intro s t u y vd va rb hready he T w cs go a amt hT
    have htype : decide (T ≤ 4) = true := decide_eq_true hT
    exact ⟨exec_vWrite hready he htype rfl, exec_vWrite hready he htype rfl, exec_vWrite hready he htype rfl, exec_vWrite hready he htype rfl⟩
  case complex =>
    intro s t u y vd va vb hready he T w cs go a b re im br bi q hT
    have htype : decide (T = 3 ∨ T = 4) = true := decide_eq_true hT
    have hprod : ∀ cj, (fun c => (c, qRound w (cProd w (vGet u va.toNat) (vGet u vb.toNat) cj c))) = fun c => (c, q (if cj then
        (if c % 2 = 0 then re c * br c + im c * bi c else im c * br c - re c * bi c)
        else (if c % 2 = 0 then re c * br c - im c * bi c else re c * bi c + im c * br c))) :=
      fun cj => funext fun c => by
        rw [cProd_eq]
        rfl
    exact ⟨exec_vWrite hready he htype rfl,
      exec_vWrite hready he htype (congrArg (fun f => vWrite u u vd.toNat 3 w y.sat (cs.map f)) (hprod false)),
      exec_vWrite hready he htype (congrArg (fun f => vWrite u u vd.toNat 3 w y.sat (cs.map f)) (hprod true))⟩
  case widths =>
    intro s t u y vd va h hready he T w cs r k hT
    have htype : decide (T = 0 ∨ T = 1 ∨ T = 3) = true := decide_eq_true hT
    have hwiden : vxExec u u .widen y.sat vd.toNat va.toNat (ofBool h) y.m.toNat y.type.toNat =
        vWrite u u vd.toNat 2 (compW r) false ((actComps u y.m.toNat r).map fun c => (c, compOf w (vGet u va.toNat) (c + k))) := by
      unfold vxExec
      simp only [ofBool_mod_two]
      rfl
    have hnarrow : vxExec u u .narrow y.sat vd.toNat va.toNat (ofBool h) y.m.toNat y.type.toNat = vWrite u u vd.toNat 2 w y.sat
        ((compsOf r ((List.range (eltCount u r)).filter fun i => bitOf (mGet u y.m.toNat) (i + emax r * ofBool h) == 1)).map
          fun c => (c + k, compOf (compW r) (vGet u va.toNat) c)) := by
      unfold vxExec
      simp only [ofBool_mod_two]
      rfl
    exact ⟨exec_vWrite hready he htype hwiden, exec_vWrite hready he htype hnarrow⟩
  case tables =>
    intro s t u y vd vi vt hready he T w cs ew table value hT
    have htype : decide (T ≤ 4) = true := decide_eq_true hT
    exact ⟨exec_vPush hready he htype rfl, exec_vPush hready he htype rfl⟩
  case blocks =>
    intro s t u y vd va vb rs h hready he samples S k e a go
    obtain ⟨hnormb, hpack, hunpack, -⟩ := vxExec_block u y.sat vd.toNat va.toNat vb.toNat rs h
    obtain ⟨-, -, -, hbexp⟩ := vxExec_block u y.sat vd.toNat va.toNat 0 rs h
    exact ⟨exec_vWrite hready he rfl hnormb, exec_vWrite hready he rfl hpack, exec_vWrite hready he rfl hunpack,
      exec_vx hready he rfl hbexp (vWrite_core ..)⟩

end Sys2Proof.Machine

/-! ## Vector accumulators, masks and the vector length (spec/06_phimar_vector.md R217, R220, R223, R226) -/

namespace Sys2Proof.Machine

open Sys2Proof.Safety

/-- A VX syllable of a TYPE that its row does not permit (R223). -/
theorem exec_vx_type {s : State} {t u : Tile} {y : Vy} {op : VOp} {vd va vb m type : Nat} (hready : TileReady s y.tile.val t u) (he : y.e = true)
    (htype : vxTypeOk op type = false) :
    Host.Outcome.next (giveSyllable y.tile.val y.e (.vx op y.sat vd va vb m type) s) =
      (Host.Outcome.next (setTile s y.tile.val { t with fault := some (0x01, 0, false) }) : Res) := by
  have hcheck : sylCheck s y.tile.val u ⟨0, slotOf (.vx op y.sat vd va vb m type), .vx op y.sat vd va vb m type, false⟩ = .fault 0x01 0 false none := by
    obtain ⟨-, -, -, -, -, -, -, -, -, -, -, hlen⟩ := hready
    have hfetch : u.pc < u.codeLen := by omega
    simp [sylCheck, hfetch, htype]
  rw [he, alone_faults hready hcheck]

/-- An accumulation on an accumulator by its two bits. -/
theorem vAcc_two (u : Tile) (sat : Bool) (vad : BitVec 2) (m type : Nat) (f : Nat → Int) :
    vAcc u u sat (vad.toNat % 4) m type f =
      accWrite u vad.toNat sat ((actComps u m type).map fun c => (c, compOf 40 (vaccRunGet u vad.toNat) c + f c)) := by
  rw [Nat.mod_eq_of_lt vad.isLt]
  rfl

/-- The fields of VMOVA and VEXTA: an accumulator and its half. -/
theorem halfFields (a : BitVec 2) (h : Bool) : (a.toNat + 4 * ofBool h) % 4 = a.toNat ∧ (a.toNat + 4 * ofBool h) / 4 % 2 = ofBool h := by
  have ha := a.isLt
  have hh : ofBool h = 0 ∨ ofBool h = 1 := by cases h <;> decide
  omega

/-- VCLRA clears the accumulators of its set, and changes neither loops nor what a RETI left. -/
theorem vclra_core (u : Tile) (set : Nat) :
    (vxExec u u .clra false set 0 0 0 0).loops = u.loops ∧ (vxExec u u .clra false set 0 0 0 0).afterReti = u.afterReti := by
  have h := accWrites_core (fun a => decide (bitOf set a = 1)) ((List.range 128).map fun c => (c, 0)) [0, 1, 2, 3] u
  simp only [decide_eq_true_eq] at h
  exact h

/-- A mask register by its four bits. -/
theorem maskIndex (m : BitVec 4) : m.toNat % 16 = m.toNat := Nat.mod_eq_of_lt m.isLt

/-- The compares, on the elements that are active. -/
theorem vCmp_four (u : Tile) (md : BitVec 4) (va vb m type : Nat) (f : Int → Int → Bool) :
    vCmp u u (md.toNat % 16) va vb m type f = push u 2 (.mask md.toNat)
      (((activeElts u m (eltCount u type)).filter fun i => (List.range (perElt type)).all fun j =>
        f (compOf (compW type) (vGet u va) (perElt type * i + j)) (compOf (compW type) (vGet u vb) (perElt type * i + j))).foldl (fun x i => x + 2 ^ i) 0) := by
  rw [maskIndex]
  rfl

/-- The complex accumulations, with their products written out. -/
theorem cProds_eq (w a b : Nat) (run : Nat → Int) (cj : Bool) (cs : List Nat) :
    cs.map (fun c => (c, run c + cProd w a b cj c)) = cs.map fun c => (c, run c + (if cj then
      (if c % 2 = 0 then compOf w a (c / 2 * 2) * compOf w b (c / 2 * 2) + compOf w a (c / 2 * 2 + 1) * compOf w b (c / 2 * 2 + 1)
        else compOf w a (c / 2 * 2 + 1) * compOf w b (c / 2 * 2) - compOf w a (c / 2 * 2) * compOf w b (c / 2 * 2 + 1))
      else (if c % 2 = 0 then compOf w a (c / 2 * 2) * compOf w b (c / 2 * 2) - compOf w a (c / 2 * 2 + 1) * compOf w b (c / 2 * 2 + 1)
        else compOf w a (c / 2 * 2) * compOf w b (c / 2 * 2 + 1) + compOf w a (c / 2 * 2 + 1) * compOf w b (c / 2 * 2)))) :=
  List.map_congr_left fun c _ => by rw [cProd_eq]

/-- Settles O36: accumulations, masks and scalar results each in one way, and a TYPE outside the row faults. -/
theorem vectorAccumulatorsMasksAndLength : Obligations.VectorAccumulatorsMasksAndLength := by
  refine ⟨?accumulations, ?complex, ?vexta, ?vclra, ?compares, ?masks, ?scalars, ?types⟩
  case accumulations =>
    intro s t u y vad va vb hready he T w cs a b acc go hT
    have htype : decide (T ≤ 4 ∧ T ≠ 2) = true := decide_eq_true hT
    refine ⟨exec_accWrite hready he htype (vAcc_two ..), exec_accWrite hready he htype (vAcc_two ..), ?_⟩
    intro h k
    have hmova : vxExec u u .mova y.sat (vad.toNat + 4 * ofBool h) va.toNat 0 y.m.toNat y.type.toNat =
        accWrite u vad.toNat false (cs.map fun c => (c + k, a c)) := by
      unfold vxExec halfOfs
      simp only [(halfFields vad h).1, (halfFields vad h).2]
      rfl
    exact exec_accWrite hready he htype hmova
  case complex =>
    intro s t u y vad va vb hready he T w cs a b acc go re im br bi hT
    have htype : decide (T = 3 ∨ T = 4) = true := decide_eq_true hT
    exact ⟨exec_accWrite hready he htype ((vAcc_two ..).trans (congrArg (accWrite u vad.toNat y.sat) (cProds_eq _ _ _ _ false _))),
      exec_accWrite hready he htype ((vAcc_two ..).trans (congrArg (accWrite u vad.toNat y.sat) (cProds_eq _ _ _ _ true _)))⟩
  case vexta =>
    intro s t u y vd vas h rb hready he T w cs k hT
    have htype : decide (T ≤ 4 ∧ T ≠ 2) = true := decide_eq_true hT
    refine exec_vWrite hready he htype ?_
    unfold vxExec halfOfs
    simp only [(halfFields vas h).1, (halfFields vas h).2]
    rfl
  case vclra =>
    intro s t u y set hready he
    exact exec_vx hready he rfl rfl (vclra_core u set.toNat)
  case compares =>
    intro s t u y md va vb hready he T w cs a b es go
    exact ⟨fun hT => exec_vPush hready he (decide_eq_true hT) (vCmp_four ..),
      fun hT => ⟨exec_vPush hready he (decide_eq_true hT) (vCmp_four (f := fun x z => decide (x < z)) ..),
        exec_vPush hready he (decide_eq_true hT) (vCmp_four (f := fun x z => decide (x ≤ z)) ..)⟩⟩
  case masks =>
    intro s t u y md ma mb hready he go a b
    have hmask : ∀ {op : VOp} {va vb v : Nat}, vxTypeOk op y.type.toNat = true → vxExec u u op y.sat md.toNat va vb y.m.toNat y.type.toNat = mWrite u 1 (md.toNat % 16) v →
        Host.Outcome.next (giveSyllable y.tile.val y.e (.vx op y.sat md.toNat va vb y.m.toNat y.type.toNat) s) = go v := fun htype hexec => by
      rw [maskIndex] at hexec
      exact exec_vPush hready he htype hexec
    have ha : mGet u (ma.toNat % 16) = a := congrArg (mGet u) (maskIndex ma)
    have hb : mGet u (mb.toNat % 16) = b := congrArg (mGet u) (maskIndex mb)
    refine ⟨?and, ?or, ?xor, ?andn, ?setn, ?cnt, ?tov⟩
    case and =>
      rw [← ha, ← hb]
      exact hmask rfl rfl
    case or =>
      rw [← ha, ← hb]
      exact hmask rfl rfl
    case xor =>
      rw [← ha, ← hb]
      exact hmask rfl rfl
    case andn =>
      rw [← ha, ← hb]
      exact hmask rfl rfl
    case setn => exact fun ra => hmask rfl rfl
    case cnt =>
      intro sd
      rw [← ha, ← push_s]
      exact exec_vPush hready he rfl rfl
    case tov =>
      intro vd
      rw [← ha]
      exact exec_vPush hready he rfl rfl
  case scalars =>
    intro s t u y sd va rb hready he T w cs g c hT
    have htype : decide (T ≤ 4) = true := decide_eq_true hT
    refine ⟨?setl, ?get, exec_vx hready he rfl rfl ⟨rfl, rfl⟩⟩
    case setl =>
      rw [← push_s]
      exact exec_vx hready he htype rfl ⟨(flying_core _ _).1.trans (push_core ..).1, (flying_core _ _).2.trans (push_core ..).2⟩
    case get =>
      rw [← push_s]
      exact exec_vPush hready he htype rfl
  case types =>
    intro s t u y vd va vb hready he bad
    refine ⟨fun h => ⟨?_, ?_, ?_⟩, fun h => ?_, fun h => ?_⟩
    · exact exec_vx_type hready he (decide_eq_false (by omega))
    · exact exec_vx_type hready he (decide_eq_false (by omega))
    · exact exec_vx_type hready he (decide_eq_false (by omega))
    · exact exec_vx_type hready he (decide_eq_false (by omega))
    · exact exec_vx_type hready he (decide_eq_false (by omega))

end Sys2Proof.Machine

/-! ## The granules of a vector access that resumes (spec/06_phimar_vector.md R234, R242) -/

namespace Sys2Proof.Machine

open Sys2Proof.Safety

/-- A core at the bundle at which RETI resumes a vector access behind its last element, with an address in the CSM in s1. -/
def resumingTile : Tile :=
  { ({} : Tile) with
    vl := 4, afterReti := true, vxPc := some 0, vxIndex := 128, sreg := smPut (fun _ => (0 : Word)) 1 0x08000001 [] }

/-- The resumed access has no element left, so it is taken by its address alone. -/
theorem csmAccess_resumingTile : csmAccess resumingTile (.ls .vld 0 1 0 0 0 false) = [0x08000001] := by decide

/-- Refutes O37: its second part says of every core that each active element's granule is accessed, but the first bundle after RETI accesses only the elements from vx_index on (R242). -/
theorem not_vectorAccessesOfMemory : ¬ Obligations.VectorAccessesOfMemory := by
  unfold Obligations.VectorAccessesOfMemory
  rintro ⟨-, hgranules, -⟩
  have hfirst := hgranules resumingTile .vld 0 1 0 0 0x08000001 false (.inl rfl) (by decide) 0 (by decide) 0 (by decide) (by decide) (by decide)
  rw [csmAccess_resumingTile] at hfirst
  exact absurd hfirst (by decide)

end Sys2Proof.Machine

/-! ## Handlers, events of a tile, and bundles of several words (spec/05_phimar_scalar.md R172 to R210) -/

namespace Sys2Proof.Machine

open Sys2Proof.Safety

/-! ### The landing of writes -/

/-- The PC and the end of the code are those of t. -/
def SameCode (t u : Tile) : Prop := u.pc = t.pc ∧ u.codeLen = t.codeLen

theorem SameCode.refl (t : Tile) : SameCode t t := ⟨rfl, rfl⟩

theorem SameCode.trans {t u v : Tile} (h : SameCode t u) (h' : SameCode u v) : SameCode t v := ⟨h'.1.trans h.1, h'.2.trans h.2⟩

theorem SameCode.ite {t u v : Tile} {c : Prop} [Decidable c] (hu : SameCode t u) (hv : SameCode t v) : SameCode t (if c then u else v) := by
  split
  · exact hu
  · exact hv

/-- A write to a control register moves neither the PC nor the end of the code. -/
theorem cregWrite_code (t : Tile) (n v : Nat) : SameCode t (cregWrite t n v) := by
  unfold cregWrite
  iterate 12 refine SameCode.ite ⟨rfl, rfl⟩ ?_
  exact SameCode.refl t

theorem landOne_code (t : Tile) (f : Flight) : SameCode t (landOne t f) := by
  obtain ⟨left, dst, val⟩ := f
  cases dst with
  | acc a replace => cases replace <;> exact ⟨rfl, rfl⟩
  | creg n => exact cregWrite_code t n val
  | s _ | v _ _ | mask _ | vacc _ | sat => exact ⟨rfl, rfl⟩

theorem landOnes_code (fs : List Flight) : ∀ t : Tile, SameCode t (fs.foldl landOne t) := by
  induction fs with
  | nil => exact SameCode.refl
  | cons f fs ih => exact fun t => (landOne_code t f).trans (ih _)

theorem noteSince_code (t : Tile) : SameCode t (noteSince t) := ⟨rfl, rfl⟩

theorem checkTimer_code (s : State) (t : Tile) : SameCode t (checkTimer s t).2 := by
  unfold checkTimer
  split
  · dsimp only
    split
    · exact (show SameCode t { t with tmrArmed := false } from ⟨rfl, rfl⟩).trans (noteSince_code _)
    · exact SameCode.refl t
  · exact SameCode.refl t

theorem landAll_code (s : State) (t : Tile) (due : List Flight) : SameCode t (landAll s t due).2 := by
  have hfold := landOnes_code (due.filter fun f => f.dst != .sat) t
  have hsat := SameCode.ite (c := due.any (fun f => f.dst == .sat) = true)
    (hfold.trans (show SameCode _ { (due.filter fun f => f.dst != .sat).foldl landOne t with satFlag := true } from ⟨rfl, rfl⟩)) hfold
  have hnoted := hsat.trans (noteSince_code _)
  unfold landAll
  dsimp only
  split
  · exact hnoted.trans (checkTimer_code _ _)
  · exact hnoted

theorem land_code (s : State) (t : Tile) : SameCode t (land s t).2 :=
  (show SameCode t { t with flights := _ } from ⟨rfl, rfl⟩).trans (landAll_code s _ _)

/-! ### Words from which no bundle can be formed -/

/-- A placed word that faults by itself, with nothing accessed behind it, leaves its fault and nothing else. -/
theorem bundleFate_word_faults {s : State} {p cause ebad slot : Nat} {t : Tile} {bad : Bool} (hpoison : s.poison = []) (herrs : s.errs = [])
    (hword : t.codeLen ≤ t.pc ∨ fencedAt s (32 * ((t.code + t.pc) / 32)) = false) (hslot : slot = 0 ∨ slot = 1 ∨ slot = 2 ∨ slot = 3 ∨ slot = 4)
    (hcheck : sylCheck s p (land s t).2 ⟨0, slot, .sc false .nop false 0 0 0 0, bad⟩ = .fault cause ebad false none) :
    bundleFate s p t [⟨0, slot, .sc false .nop false 0 0 0 0, bad⟩] = .stops (setTile s p { t with fault := some (cause, ebad, false) }) := by
  have hgood : badWord s t [⟨0, slot, .sc false .nop false 0 0 0 0, bad⟩] = none := by
    unfold badWord
    rcases hword with h | h
    · simp [h]
    · have : granBad s ((t.code + t.pc) / 32) = false := by
        simp only [granBad, poisoned, errAt, hpoison, herrs, h]
        rfl
      simp [this]
  have horder : inSlotOrder [⟨0, slot, .sc false .nop false 0 0 0 0, bad⟩] = [⟨0, slot, .sc false .nop false 0 0 0 0, bad⟩] := by
    rcases hslot with rfl | rfl | rfl | rfl | rfl <;> rfl
  unfold bundleFate
  rw [hgood]
  simp only [fetchSettle_clean t _ hpoison herrs, horder, firstCheck, hcheck]
  simp [csmWait, faultCsm, raiseFault]

/-- At an instruction fetch beyond the code the PC's word cannot be fetched (R172). -/
theorem fetchWords_beyond {s : State} {t : Tile} (h : t.codeLen ≤ t.pc) : fetchWords s t 0 4 = [⟨4, none, false⟩] := by
  unfold fetchWords
  exact if_pos h

/-- A first word with E of 1 is the whole bundle (R178). -/
theorem fetchWords_whole {s : State} {t : Tile} {w : Nat} (h : t.pc + 4 ≤ t.codeLen) (hw : w = rdLe s (t.code + t.pc) 4) (he : bitOf w 31 = 1) :
    fetchWords s t 0 4 = [⟨bitsOf w 29 2, decodeSyllable w, true⟩] := by
  have hin : ¬ t.codeLen ≤ t.pc + 4 * 0 := by omega
  subst hw
  unfold fetchWords
  rw [if_neg hin]
  simp [he]

/-- Words that raise their own fault at the PC of a tile at a boundary. -/
theorem exec_exceptionEntry_words {s : State} {p : Fin 288} {t : Tile} {cause ebad slot : Nat} {e bad : Bool} (hget : getTile s p.val = t)
    (hnone : t.fault = none) (hhalted : t.halted = false) (hwf : smWf (fun _ => ({} : Tile)) s.tiles = true) (htakes : tileTakes t = true) (hstage : t.stage = [])
    (hwords : fetchWords s t 0 4 = [⟨slot, none, e⟩]) (hplace : placeWords none false 0 [⟨slot, none, e⟩] = [⟨0, slot, .sc false .nop false 0 0 0 0, bad⟩])
    (hfate : bundleFate s p.val t [⟨0, slot, .sc false .nop false 0 0 0 0, bad⟩] = .stops (setTile s p.val { t with fault := some (cause, ebad, false) })) :
    exec (.exceptionEntry p) s = .next (enterFault (setTile s p.val { t with fault := some (cause, ebad, false) }) p.val (cause, ebad, false)) := by
  have hrunning : t.running = true := by
    unfold tileTakes at htakes
    simp only [Bool.and_eq_true] at htakes
    exact htakes.1.1.1.1
  have hscan : scanBundle s p.val t = setTile s p.val { t with fault := some (cause, ebad, false) } := by
    unfold scanBundle
    simp only [hwords, hplace, hfate]
    rfl
  have hfault := congrArg Tile.fault (getTile_setTile_same s p.val { t with fault := some (cause, ebad, false) } hwf)
  subst hget
  have hgoes : ¬ (¬ (getTile s p.val).running = true ∨ (getTile s p.val).halted = true) := not_or.mpr ⟨not_not.mpr hrunning, ne_true_of_eq_false hhalted⟩
  have hboundary : ¬ (tileTakes (getTile s p.val) = false ∨ (getTile s p.val).stage ≠ []) :=
    not_or.mpr ⟨ne_false_of_eq_true htakes, not_not.mpr hstage⟩
  show execExceptionEntry p s = _
  unfold execExceptionEntry
  dsimp only
  rw [if_neg hgoes, hnone]
  dsimp only
  rw [if_neg hboundary, hscan, hfault]

/-- Settles O38: entry is `enterHandler` on the core as the boundary leaves it. -/
theorem handlersAreEntered : Obligations.HandlersAreEntered := by
  refine ⟨?interrupt, ?none, ?exception, ?words, ?idle⟩
  case interrupt =>
    intro s p l w t hline htakes hw hbudget
    have hexec : exec (.interruptEntry p) s = .next (setTile (takeFree s).2 p.val (enterHandler
        { t with
          cycle := t.cycle + BitVec.ofNat 64 w, budget := t.budget - w, ipc := BitVec.ofNat 32 t.pc, irqPend := andNot t.irqPend (2 ^ l),
          irqHold := if t.wait.isSome = true ∨ 0 < w then 6
            else (t.cycle + BitVec.ofNat 64 w).toNat + 6 - (getAt none t.since l).getD (t.cycle + BitVec.ofNat 64 w).toNat } .interrupt t.ivec)) := by
      subst hw
      show execInterruptEntry p s = _
      unfold execInterruptEntry
      dsimp only
      have hline' : pendingLine (getTile s p.val) = some l := hline
      have htakes' : ¬ takesIrq (getTile s p.val) = false := fun h => absurd htakes (ne_true_of_eq_false h)
      rw [hline']
      dsimp only
      rw [if_neg htakes', if_neg (not_le.mpr hbudget)]
    exact ⟨_, hexec, rfl, rfl, rfl, rfl, rfl, fun h => if_pos (.inr h),
      ⟨rfl, rfl, rfl, rfl, rfl, rfl, rfl, rfl, rfl, rfl, rfl, rfl, rfl, rfl, rfl⟩, rfl, rfl, rfl⟩
  case none =>
    intro s p h
    show execInterruptEntry p s = _
    unfold execInterruptEntry
    dsimp only
    rcases h with h | h
    · rw [h]
    · split
      · rfl
      · exact if_pos h
  case exception =>
    intro s p cause ebad ecc t hfault hrunning hhalted
    have hexec : exec (.exceptionEntry p) s = .next (enterFault s p.val (cause, ebad, ecc)) := by
      show execExceptionEntry p s = _
      unfold execExceptionEntry
      have hgoes : ¬ (¬ (getTile s p.val).running = true ∨ (getTile s p.val).halted = true) :=
        not_or.mpr ⟨not_not.mpr hrunning, ne_true_of_eq_false hhalted⟩
      dsimp only
      rw [if_neg hgoes, show (getTile s p.val).fault = some (cause, ebad, ecc) from hfault]
    refine ⟨fun hhandler hevec => ?_, fun h => ?_⟩
    · have henter : ¬ ((getTile s p.val).handler ≠ .none ∨ (getTile s p.val).evec = 0xFFFFFFFF) := not_or.mpr ⟨not_not.mpr hhandler, hevec⟩
      have henters := hexec.trans (congrArg Host.Outcome.next (show enterFault s p.val (cause, ebad, ecc) = _ from if_neg henter))
      exact ⟨_, henters, rfl, rfl, rfl, rfl, rfl, rfl,
        ⟨rfl, rfl, rfl, rfl, rfl, rfl, rfl, rfl, rfl, rfl, rfl, rfl, rfl, rfl, rfl⟩, rfl, rfl, rfl, rfl, rfl, rfl⟩
    · exact hexec.trans (congrArg Host.Outcome.next (if_pos h))
  case words =>
    intro s p t hnone hhalted hwf
    refine ⟨fun h => ?_, fun htakes hstage => ⟨fun w hin hw he hdecode => ?_, fun hout hpoison herrs => ?_, fun w hin hw he hdecode hpoison herrs hfence => ?_⟩⟩
    · show execExceptionEntry p s = _
      unfold execExceptionEntry
      dsimp only
      by_cases hstopped : ¬ (getTile s p.val).running = true ∨ (getTile s p.val).halted = true
      · rw [if_pos hstopped]
      · rw [if_neg hstopped, show (getTile s p.val).fault = none from hnone]
        exact if_pos h
    · have hscan : scanBundle s p.val t = s := by
        unfold scanBundle
        simp only [fetchWords_whole hin hw he]
        exact if_pos (by simp [hdecode])
      show execExceptionEntry p s = _
      unfold execExceptionEntry
      dsimp only
      by_cases hstopped : ¬ (getTile s p.val).running = true ∨ (getTile s p.val).halted = true
      · rw [if_pos hstopped]
      · rw [if_neg hstopped, show (getTile s p.val).fault = none from hnone]
        dsimp only
        by_cases hheld : tileTakes (getTile s p.val) = false ∨ (getTile s p.val).stage ≠ []
        · rw [if_pos hheld]
        · rw [if_neg hheld, show scanBundle s p.val (getTile s p.val) = s from hscan, show (getTile s p.val).fault = none from hnone]
    · have hcode := land_code s t
      have hcheck : sylCheck s p.val (land s t).2 ⟨0, 4, .sc false .nop false 0 0 0 0, true⟩ = .fault 0x04 t.pc false none := by
        unfold sylCheck
        simp only [hcode.1, hcode.2, mul_zero, add_zero, hout, if_true]
      exact exec_exceptionEntry_words rfl hnone hhalted hwf htakes hstage (fetchWords_beyond hout) rfl
        (bundleFate_word_faults hpoison herrs (.inl hout) (by decide) hcheck)
    · have hcode := land_code s t
      have hcheck : sylCheck s p.val (land s t).2 ⟨0, bitsOf w 29 2, .sc false .nop false 0 0 0 0, true⟩ = .fault 0x01 0 false none := by
        have hfetch : ¬ t.codeLen ≤ t.pc + 4 * 0 := by omega
        unfold sylCheck
        simp only [hcode.1, hcode.2, hfetch, if_false, if_true]
      have hslot : bitsOf w 29 2 < 4 := Nat.mod_lt _ (by decide)
      have hwords := fetchWords_whole hin hw he
      rw [hdecode] at hwords
      exact exec_exceptionEntry_words rfl hnone hhalted hwf htakes hstage hwords rfl
        (bundleFate_word_faults hpoison herrs (.inr hfence) (by omega) hcheck)
  case idle =>
    intro s p h
    exact if_pos (.inl (ne_true_of_eq_false h))

/-! ### The timer, the mailbox and the budget -/

/-- The one write that is due lands, and nothing else is in flight. -/
theorem land_due {s : State} {t : Tile} {rd : Reg} {v : Nat} (h : t.flights = [⟨0, .s rd.toNat, v⟩]) :
    land s t = (s, noteSince (landOne { t with flights := [] } ⟨0, .s rd.toNat, v⟩)) := by
  unfold land landAll
  simp [h]

theorem sGet_landed {t : Tile} {rd r : Nat} {v : Nat} :
    sGet (noteSince (landOne { t with flights := [] } ⟨0, .s rd, v⟩)) r =
      if r = 0 then 0 else (smGet (fun _ => (0 : Word)) (smPut (fun _ => (0 : Word)) rd (BitVec.ofNat 32 v) t.sreg) r).toNat := rfl

/-- Settles O39: each event is the branch of its definition that the hypotheses choose; a landing is that of its one write. -/
theorem tileEventsAndBundles : Obligations.TileEventsAndBundles := by
  refine ⟨?timer, ?mailbox, ?budget, ?stage, ?due, ?notDue⟩
  case timer =>
    intro s p t c due
    refine ⟨fun hrunning harmed hdue => ?_, fun hrunning harmed hdue => ?_, fun hidle => ?_⟩
    · have hcheck : checkTimer s t = (c.2, raiseIrq { t with tmrArmed := false } 0) := (if_pos harmed).trans (if_pos hdue)
      exact congrArg Host.Outcome.next ((if_pos hrunning).trans (congrArg (fun r : State × Tile => setTile r.1 p.val r.2) hcheck))
    · have hcheck : checkTimer s t = (c.2, t) := (if_pos harmed).trans (if_neg hdue)
      exact congrArg Host.Outcome.next ((if_pos hrunning).trans (congrArg (fun r : State × Tile => setTile r.1 p.val r.2) hcheck))
    · exact congrArg Host.Outcome.next (if_neg (ne_true_of_eq_false hidle))
  case mailbox =>
    intro s p v hlive t
    refine congrArg Host.Outcome.next ((if_pos hlive).trans ?_)
    unfold writeMbox
    rw [BitVec.ofNat_toNat, BitVec.setWidth_eq]
  case budget =>
    intro s p t hrunning hending
    have hnone : (getTile s p.val).ending.isNone = true := Option.isNone_iff_eq_none.mpr hending
    refine ⟨fun h => congrArg Host.Outcome.next (if_pos ⟨hrunning, hnone, .inl h⟩), fun h hwait => congrArg Host.Outcome.next (if_neg ?_)⟩
    rintro ⟨-, -, h0 | h0⟩
    · exact h h0
    · exact absurd h0 (by rw [show (getTile s p.val).wait = none from hwait]; exact Bool.false_ne_true)
  case stage =>
    intro s y vd va vb t x
    refine ⟨fun h => congrArg Host.Outcome.next (if_neg (ne_true_of_eq_false h)), fun h he => ?_⟩
    show Host.Outcome.next (giveSyllable y.tile.val y.e (.vx .add y.sat vd.toNat va.toNat vb.toNat y.m.toNat y.type.toNat) s) = _
    rw [he]
    exact congrArg Host.Outcome.next ((if_pos h).trans (if_neg Bool.false_ne_true))
  case due =>
    intro s t rd v hflights hrd hwf hv
    have hrd0 : rd.toNat ≠ 0 := fun h => hrd (BitVec.eq_of_toNat_eq h)
    rw [land_due hflights]
    refine ⟨rfl, ?_, rfl, fun r hr => ?_⟩
    · rw [sGet_landed, if_neg hrd0, smGet_smPut_same _ _ _ _ hwf, BitVec.toNat_ofNat, Nat.mod_eq_of_lt hv]
    · rw [sGet_landed, smGet_smPut_other _ _ hr]
      rfl
  case notDue =>
    intro s t k d v hflights
    have hlater : superseded [] ⟨k + 1, d, v⟩ = false := by
      unfold superseded
      split <;> rfl
    unfold land landAll
    simp [hflights, hlater]

end Sys2Proof.Machine

/-! ## The interrupt controller (spec/12_cxl.md R437 to R444) -/

namespace Sys2Proof.Machine

open Sys2Proof.Safety

/-- An enabled source is due by PEND, or by its level's due outside STUCK (R440). -/
theorem intDue_of {s : State} {n : Nat} (hen : isF s (INT_SRC_CFG_EN n) = true)
    (h : isLevel n = false ∧ (getInt s n).pend = true ∨ isLevel n = true ∧ (getInt s n).due = true ∧ (getInt s n).stuck = false) : intDue s n = true := by
  unfold intDue
  rcases h with ⟨hlevel, hpend⟩ | ⟨hlevel, hdue, hstuck⟩
  · rw [hen, hlevel, hpend]
    rfl
  · rw [hen, hlevel, hdue, hstuck]
    rfl

/-- A source whose message may leave comes to the choice of R441. -/
theorem exec_interruptMessage_due {s : State} {src : Fin 1024} {dt : Nat} (hdue : intDue (atDt s dt) src.val = true) (hgap : gapOver (atDt s dt) src.val = true)
    (hlevel : ¬ (isLevel src.val = true ∧ (getInt (atDt s dt) src.val).asserted = false)) :
    exec (.interruptMessage src dt) s =
      (if s.cfg.msixEnable = false ∨ now (atDt s dt) < s.linkHeld then .next (atDt s dt)
       else .next (if sentTogether (atDt s dt) src.val then
           setInt (atDt s dt) src.val
             { getInt (atDt s dt) src.val with due := false, pend := false, lastMsg := some (now (atDt s dt)), lastDue := fallsDue (atDt s dt) src.val }
         else vectorMessage (setInt (atDt s dt) src.val
             { getInt (atDt s dt) src.val with due := false, pend := false, lastMsg := some (now (atDt s dt)), lastDue := fallsDue (atDt s dt) src.val })
           (intVector (atDt s dt) src.val))) :=
  (if_neg (not_or.mpr ⟨ne_false_of_eq_true hdue, ne_false_of_eq_true hgap⟩)).trans (if_neg hlevel)

/-- Settles O40: each command is the branch that its hypotheses choose; the choice of R441 is one lemma. -/
theorem interruptSourcesSendMessages : Obligations.InterruptSourcesSendMessages := by
  refine ⟨?message, ?nothing, ?ack, ?stuck, ?config, fun s => rfl⟩
  case message =>
    intro s src dt s1 i hen hgap hsource
    have hdue : intDue s1 src.val = true := intDue_of hen (hsource.imp id fun ⟨h1, h2, h3, _⟩ => ⟨h1, h2, h3⟩)
    have hlevel : ¬ (isLevel src.val = true ∧ (getInt s1 src.val).asserted = false) := by
      rintro ⟨h, h0⟩
      rcases hsource with ⟨hpulse, -⟩ | ⟨-, -, -, hasserted⟩
      · exact absurd h (ne_true_of_eq_false hpulse)
      · exact absurd hasserted (ne_true_of_eq_false h0)
    have hexec := exec_interruptMessage_due hdue hgap hlevel
    refine ⟨fun h => hexec.trans (if_pos h), ?_, fun hmsix hlink htogether => ?_⟩
    · intro hmsix hlink hnot s2 v
      have hleaves : ¬ (s.cfg.msixEnable = false ∨ now s1 < s.linkHeld) := not_or.mpr ⟨ne_false_of_eq_true hmsix, not_lt.mpr hlink⟩
      have hsends := (hexec.trans (if_neg hleaves)).trans (congrArg Host.Outcome.next (if_neg (ne_true_of_eq_false hnot)))
      exact ⟨fun h => hsends.trans (congrArg Host.Outcome.next (if_neg (ne_true_of_eq_false h))), fun h => hsends.trans (congrArg Host.Outcome.next (if_pos h))⟩
    · have hleaves : ¬ (s.cfg.msixEnable = false ∨ now s1 < s.linkHeld) := not_or.mpr ⟨ne_false_of_eq_true hmsix, not_lt.mpr hlink⟩
      exact (hexec.trans (if_neg hleaves)).trans (congrArg Host.Outcome.next (if_pos htogether))
  case nothing =>
    intro s src dt s1
    exact ⟨fun h => if_pos h, fun hdue hgap hlevel hlow =>
      (if_neg (not_or.mpr ⟨ne_false_of_eq_true hdue, ne_false_of_eq_true hgap⟩)).trans (if_pos ⟨hlevel, hlow⟩)⟩
  case ack =>
    intro s src i acked
    exact ⟨fun h => congrArg Host.Outcome.next (if_pos h), fun h => congrArg Host.Outcome.next (if_neg h)⟩
  case stuck =>
    intro s src i
    refine ⟨?_, fun hstuck hlow hlong => ?_, fun h => ?_⟩
    · intro dt s1 past
      refine ⟨fun hlevel hasserted hstuck hpast => congrArg Host.Outcome.next (if_pos ⟨hlevel, hasserted, hstuck, hpast⟩), fun h => ?_⟩
      refine congrArg Host.Outcome.next (if_neg ?_)
      rintro ⟨hlevel, hasserted, hstuck, hpast⟩
      rcases h with h | h | h | h
      · exact absurd hlevel (ne_true_of_eq_false h)
      · exact absurd hasserted (ne_true_of_eq_false h)
      · exact absurd h (ne_true_of_eq_false hstuck)
      · exact h hpast
    · exact congrArg Host.Outcome.next (if_pos ⟨hstuck, hlow, hlong⟩)
    · refine congrArg Host.Outcome.next (if_neg ?_)
      rintro ⟨hstuck, hlow, hlong⟩
      rcases h with h | h | h
      · exact absurd hstuck (ne_true_of_eq_false h)
      · exact absurd h (ne_true_of_eq_false hlow)
      · exact absurd hlong (ne_true_of_eq_false h)
  case config =>
    intro s src v s1 i
    exact ⟨fun h => congrArg Host.Outcome.next (if_pos h), fun h => congrArg Host.Outcome.next (if_neg (by rw [h]; decide))⟩

end Sys2Proof.Machine

/-! ## The host link, the function and its decoders (spec/12_cxl.md R424 to R435, R495) -/

namespace Sys2Proof.Machine

open Sys2Proof.Safety

/-- Decommitting a decoder, whose base and size are those of before (R432). -/
theorem decommit_eq (s : State) (q : Nat) :
    decommit s q = setHdm (setF (clrBitF s CXL_HDM_STAT_COMMITTED q) (MEM_HDM_LOCKED q) 0) q { getHdm s q with committed := false } := by
  have hhdm : (setF (clrBitF s CXL_HDM_STAT_COMMITTED q) (MEM_HDM_LOCKED q) 0).hdm = s.hdm := by
    rw [setF_hdm, clrBitF, setF_hdm]
  unfold decommit
  dsimp only
  rw [show getHdm (setF (clrBitF s CXL_HDM_STAT_COMMITTED q) (MEM_HDM_LOCKED q) 0) q = getHdm s q by unfold getHdm; rw [hhdm]]

theorem setHdm_regs (s : State) (q : Nat) (x : HdmDec) : (setHdm s q x).regs = s.regs := rfl

/-- A bit of four that has been cleared. -/
theorem bitOf_cleared (q : Fin 4) (x : Fin 16) : (bitOf (andNot x.val (2 ^ q.val) % 2 ^ 4) q.val == 1) = false := by
  revert q x
  decide

/-- A decommitted decoder is not committed, nor locked, and nothing else has changed. -/
theorem decommit_spec {s : State} (q : Fin 4) (hhdm : smWf (fun _ => ({} : HdmDec)) s.hdm = true) (hwf : smWf regReset s.regs = true) :
    (getHdm (decommit s q.val) q.val).committed = false ∧ testF (decommit s q.val) CXL_HDM_STAT_COMMITTED q.val = false ∧
      isF (decommit s q.val) (MEM_HDM_LOCKED q.val) = false ∧ decommit s q.val = { s with regs := (decommit s q.val).regs, hdm := (decommit s q.val).hdm } := by
  rw [decommit_eq]
  have hclear : smWf regReset (clrBitF s CXL_HDM_STAT_COMMITTED q.val).regs = true := setF_regs_wf _ _ hwf
  have hregs : (clrBitF s CXL_HDM_STAT_COMMITTED q.val).hdm = s.hdm := setF_hdm ..
  refine ⟨?_, ?_, ?_, ?_⟩
  · have hput : getHdm (setHdm (setF (clrBitF s CXL_HDM_STAT_COMMITTED q.val) (MEM_HDM_LOCKED q.val) 0) q.val { getHdm s q.val with committed := false }) q.val =
        { getHdm s q.val with committed := false } := by
      refine smGet_smPut_same _ _ _ _ ?_
      rw [setF_hdm, hregs]
      exact hhdm
    rw [hput]
  · have hx : getF s CXL_HDM_STAT_COMMITTED < 16 := Nat.mod_lt _ (by decide)
    have hget : getF (setF (clrBitF s CXL_HDM_STAT_COMMITTED q.val) (MEM_HDM_LOCKED q.val) 0) CXL_HDM_STAT_COMMITTED =
        andNot (getF s CXL_HDM_STAT_COMMITTED) (2 ^ q.val) % 2 ^ 4 := by
      have hapart : (MEM_HDM_LOCKED q.val).addr ≠ CXL_HDM_STAT := by
        show MEM_HDM q.val ≠ CXL_HDM_STAT
        unfold MEM_HDM CXL_HDM_STAT memBase cxlBase
        omega
      rw [getF_setF_other (f := MEM_HDM_LOCKED q.val) (g := CXL_HDM_STAT_COMMITTED) 0 (by simp [MEM_HDM_LOCKED]) (by decide) hclear (.inl (Ne.symm hapart))]
      exact getF_setF_same _ (by decide) hwf
    refine (testF_congr (setHdm_regs _ _ _) _ _).trans ?_
    rw [testF, hget]
    exact bitOf_cleared q ⟨_, hx⟩
  · have hget : getF (setF (clrBitF s CXL_HDM_STAT_COMMITTED q.val) (MEM_HDM_LOCKED q.val) 0) (MEM_HDM_LOCKED q.val) = 0 :=
      getF_setF_same (f := MEM_HDM_LOCKED q.val) 0 (by simp [MEM_HDM_LOCKED]) hclear
    refine (isF_congr (setHdm_regs _ _ _) _).trans ?_
    rw [isF, hget]
    rfl
  · have hset := setF_eq_regs (clrBitF s CXL_HDM_STAT_COMMITTED q.val) (MEM_HDM_LOCKED q.val) 0
    have hclr := setF_eq_regs s CXL_HDM_STAT_COMMITTED (andNot (getF s CXL_HDM_STAT_COMMITTED) (2 ^ q.val))
    unfold setHdm
    generalize (setF (clrBitF s CXL_HDM_STAT_COMMITTED q.val) (MEM_HDM_LOCKED q.val) 0) = x at hset ⊢
    unfold clrBitF at hset
    rw [hclr] at hset
    rw [hset]

/-- The protocol that a DOE mailbox speaks beside discovery (R434). -/
theorem doeProtos_spdm (i : Fin 3) (sec : Bool) : (doeProtos i.val).contains (if sec then .secured else .spdm) = decide (i.val = if sec then 2 else 1) := by
  revert i sec
  decide

theorem exec_doeRequest_taken {s : State} {i : Fin 3} {o : DoeReq} {len : Nat} (hup : s.linkHeld ≤ now s) (hlen : len ≤ 16384) :
    exec (.doeRequest i o len) s = .next (match o with
      | .discovery x => setDoe s i.val { getDoe s i.val with ready := some (.discovery (doeProtos i.val)[x]? (if x = 0 then 1 else 0)) }
      | .cdat => if i.val = 0 then setDoe s 0 { getDoe s i.val with ready := some (.cdat (cdatEntries s)) } else s
      | .spdm secured b => if (doeProtos i.val).contains (if secured then .secured else .spdm) then setDoe s i.val { getDoe s i.val with busy := some b } else s
      | .other => s) := by
  refine ((if_neg (not_lt.mpr hup)).trans (if_neg (not_lt.mpr hlen))).trans ?_
  cases o <;> rfl

/-- Settles O41: each command is the branch that its hypotheses choose, and a decommit is one lemma. -/
theorem theHostPortFollowsItsLink : Obligations.TheHostPortFollowsItsLink := by
  refine ⟨fun s rate width wide lat sw => rfl, fun s ps => rfl, ?reset, ?ide, ?decoder, ?doe, ?recovery, ?config, fun s => rfl⟩
  case reset =>
    intro s
    have hfold : (fun s q => setHdm (setF (clrBitF s CXL_HDM_STAT_COMMITTED q) (MEM_HDM_LOCKED q) 0) q { getHdm s q with committed := false }) = decommit :=
      funext fun s => funext fun q => (decommit_eq s q).symm
    rw [hfold]
    show execFunctionReset s = _
    unfold execFunctionReset functionReset
    with_reducible rfl
  case ide =>
    intro s io f x
    refine ⟨fun hsecure hnot => ?_, fun hnot => if_neg hnot⟩
    have hset : setIde x io 2 = intPulse (setF x f 2) 801 := if_neg hnot
    exact (if_pos hsecure).trans (congrArg (fun y => Host.Outcome.next (functionReset y)) hset)
  case decoder =>
    intro s q base size ways hup good
    have hexec : ∀ c, exec (.hdmDecoderCommit q c base size ways) s = _ := fun c => if_neg (not_lt.mpr hup)
    refine ⟨fun hopen hgood => ?_, fun hopen hbad => ?_, fun hlocked => ?_, fun hhdm hwf => ?_⟩
    · obtain ⟨hsize, hsize0, hways, hbi, hdark⟩ := hgood
      refine ((hexec true).trans (if_neg (by decide))).trans ((if_neg (ne_true_of_eq_false hopen)).trans (if_neg ?_))
      exact not_or.mpr ⟨not_not.mpr hsize, not_or.mpr ⟨hsize0, not_or.mpr ⟨not_not.mpr hways, not_or.mpr ⟨ne_false_of_eq_true hbi, ne_true_of_eq_false hdark⟩⟩⟩⟩
    · refine ((hexec true).trans (if_neg (by decide))).trans ((if_neg (ne_true_of_eq_false hopen)).trans (if_pos ?_))
      by_contra h
      simp only [not_or, not_not] at h
      obtain ⟨hsize, hsize0, hways, hbi, hdark⟩ := h
      exact hbad ⟨hsize, hsize0, hways, eq_true_of_ne_false hbi, eq_false_of_ne_true hdark⟩
    · exact ((hexec true).trans (if_neg (by decide))).trans (if_pos hlocked)
    · obtain ⟨hcommitted, htest, hopen, heq⟩ := decommit_spec q hhdm hwf
      exact ⟨decommit s q.val, (hexec false).trans (if_pos rfl), hcommitted, htest, hopen, heq⟩
  case doe =>
    intro s i len hup d
    refine ⟨fun hlen o => (if_neg (not_lt.mpr hup)).trans (if_pos hlen), fun hlen => ⟨?first, ?second, ?later, ?spdm, ?cdat⟩,
      congrArg Host.Outcome.next (if_neg (not_lt.mpr hup))⟩
    case first => exact exec_doeRequest_taken hup hlen
    case second => exact exec_doeRequest_taken hup hlen
    case later =>
      intro x hx
      have hnone : (doeProtos i.val)[x]? = none := List.getElem?_eq_none hx
      have hx0 : ¬ x = 0 := by omega
      refine (exec_doeRequest_taken hup hlen).trans ?_
      show Host.Outcome.next (setDoe s i.val { getDoe s i.val with ready := some (.discovery (doeProtos i.val)[x]? (if x = 0 then 1 else 0)) }) = _
      rw [hnone, if_neg hx0]
    case spdm =>
      intro sec b
      refine (exec_doeRequest_taken hup hlen).trans ?_
      show Host.Outcome.next (if (doeProtos i.val).contains (if sec then .secured else .spdm) = true then setDoe s i.val { getDoe s i.val with busy := some b } else s) = _
      rw [doeProtos_spdm]
      simp only [decide_eq_true_eq]
      rfl
    case cdat =>
      refine (exec_doeRequest_taken hup hlen).trans (congrArg Host.Outcome.next ?_)
      by_cases h0 : i.val = 0
      · exact (if_pos h0).trans (by rw [if_pos h0, h0])
      · exact (if_neg h0).trans (if_neg h0).symm
  case recovery =>
    intro s q c base size ways len i o hheld
    exact ⟨if_pos hheld, if_pos hheld, congrArg Host.Outcome.next (if_pos hheld)⟩
  case config =>
    intro s c
    have hreaches : s.perst = false → getF s CXL_LINK_STAT_RATE ≠ 0 → s.linkHeld ≤ now s →
        ¬ (s.perst = true ∨ getF s CXL_LINK_STAT_RATE = 0 ∨ now s < s.linkHeld) := fun hperst hrate hup =>
      not_or.mpr ⟨ne_true_of_eq_false hperst, not_or.mpr ⟨hrate, not_lt.mpr hup⟩⟩
    exact ⟨fun hperst hrate hup hearly => (if_neg (hreaches hperst hrate hup)).trans (if_pos hearly),
      fun hperst hrate hup hlate => (if_neg (hreaches hperst hrate hup)).trans (if_neg (not_lt.mpr hlate)), fun h => if_pos h⟩

end Sys2Proof.Machine

/-! ## TDD groups (spec/08_port_processing.md R329 to R333; spec/11_lanes.md R406) -/

namespace Sys2Proof.Machine

open Sys2Proof.Safety

/-- A driven pin may take the levels that its group gives it within 1 ns (R332). -/
theorem exec_tddPinEdge {s : State} {g : Fin 16} {active : Bool} {dt : Nat} (hon : tddPinOn (atDt s dt) g.val = true) :
    exec (.tddPinEdge g active dt) s = .next (if pinLevel (atDt s dt) g.val (now (atDt s dt)) = active ∨ pinLevel (atDt s dt) g.val (now (atDt s dt) + 1000) = active ∨
      pinLevel (atDt s dt) g.val (now (atDt s dt) - 1000) = active then driveTddPin (atDt s dt) g.val active else s) := by
  show execTddPinEdge g active dt s = _
  unfold execTddPinEdge
  simp only [hon, Bool.true_and, Bool.or_eq_true, beq_iff_eq, add_zero, or_assoc]
  rfl

/-- One that is not driven has only its inactive level. -/
theorem exec_tddPinEdge_off {s : State} {g : Fin 16} {active : Bool} {dt : Nat} (hoff : tddPinOn (atDt s dt) g.val = false) :
    exec (.tddPinEdge g active dt) s = .next (if active then s else driveTddPin (atDt s dt) g.val false) := by
  show execTddPinEdge g active dt s = _
  unfold execTddPinEdge
  simp only [hoff, Bool.false_and]
  cases active <;> rfl

/-- Settings of FDD make the level active within their time (R332). -/
theorem pinLevel_fdd {s : State} {g : Nat} {u : Tdd × Int × Int} (h : u ∈ tddPhases s g) {t : Int} (hfdd : u.1.tdd = false)
    (hfrom : u.2.1 ≤ t + getSF s (TDD_PIN_ADV_ADV g)) (hto : t + getSF s (TDD_PIN_ADV_ADV g) < u.2.2) : pinLevel s g t = true := by
  refine List.any_eq_true.mpr ⟨u, h, ?_⟩
  have hnotdd : (!u.1.tdd) = true := by rw [hfdd]; rfl
  refine (if_pos hnotdd).trans (decide_eq_true ⟨?_, ?_⟩)
  · have : (0 : Int) ≤ getF s (TDD_PIN_LL_LEAD g) * 1000 := by positivity
    omega
  · have : (0 : Int) ≤ getF s (TDD_PIN_LL_LAG g) * 1000 := by positivity
    omega

/-- The ramp at an edge has been sent where the latest edge of its kind that was sent lies at or after it. -/
theorem rampDone_iff (s : State) (g : Nat) (up : Bool) (t : Int) :
    rampDone s g up t = true ↔ ∃ e, smGet (fun _ => none) s.rampSent (2 * g + ofBool up) = some e ∧ t ≤ e := by
  unfold rampDone
  split
  case h_1 e he =>
    simp only [decide_eq_true_eq, he, Option.some.injEq, exists_eq_left']
  case h_2 he => simp [he]

/-- Settles O42: the pin by its levels, the change by its group's pending bit, the ramp by its instant and by what has been sent. -/
theorem tddGroupsDriveRampsAndPins : Obligations.TddGroupsDriveRampsAndPins := by
  refine ⟨?pins, ?shadow, ?ramps⟩
  case pins =>
    intro s g active dt s1
    refine ⟨fun hoff => exec_tddPinEdge_off hoff, fun hon => ⟨fun h => (exec_tddPinEdge hon).trans (congrArg Host.Outcome.next (if_pos h)), fun h0 h1 h2 => ?_⟩,
      fun u hu t hfdd hfrom hto => pinLevel_fdd hu hfdd hfrom hto⟩
    exact (exec_tddPinEdge hon).trans (congrArg Host.Outcome.next (if_neg (not_or.mpr ⟨h0, not_or.mpr ⟨h1, h2⟩⟩)))
  case shadow =>
    intro s g t
    refine ⟨fun hpending hreached => ?_, fun h => ?_⟩
    · have hchange : tddChange s g.val = some t := if_pos hpending
      show execTddShadowApply g s = _
      unfold execTddShadowApply
      rw [hchange]
      exact if_pos hreached
    · show execTddShadowApply g s = _
      unfold execTddShadowApply
      split
      case h_1 c hc =>
        rcases h with h | h
        · have hnone : tddChange s g.val = none := if_neg (ne_true_of_eq_false h)
          rw [hnone] at hc
          exact absurd hc (by simp)
        · unfold tddChange at hc
          split at hc
          · cases hc
            exact if_neg (ne_true_of_eq_false h)
          · exact absurd hc (by simp)
      case h_2 => rfl
  case ramps =>
    intro s g up t sent
    refine ⟨?sends, fun x hx h => ?_, fun hnone => ?_⟩
    case sends =>
      intro hnot d x hx hearly s0 s1
      have hgoes : ¬ (x.1 < now s + 20000000 ∨ rampDone s g.val up t = true) := not_or.mpr ⟨not_lt.mpr hearly, fun h => hnot ((rampDone_iff ..).mp h)⟩
      show execRamp g up t s = _
      unfold execRamp
      rw [hx]
      exact if_neg hgoes
    · have hstops : x.2.1 < now s + 20000000 ∨ rampDone s g.val up t = true := h.imp id (rampDone_iff ..).mpr
      show execRamp g up t s = _
      unfold execRamp
      rw [hx]
      exact if_pos hstops
    · show execRamp g up t s = _
      unfold execRamp
      rw [hnone]

end Sys2Proof.Machine

/-! ## Sample groups on the radio link (spec/11_lanes.md R392 to R403; spec/08_port_processing.md R297 to R301, R328) -/

namespace Sys2Proof.Machine

open Sys2Proof.Safety

/-! ### What counting on a lane leaves -/

section Counted

variable {s t : State} {l : Nat}

/-- Only counts of lane l differ among the registers. -/
def CountsOnly (l : Nat) (s t : State) : Prop := ∀ a, (∀ i, i < 8 → a ≠ LAN_CNT l i) → getR t a = getR s a

theorem CountsOnly.refl (l : Nat) (s : State) : CountsOnly l s s := fun _ _ => rfl

theorem CountsOnly.trans {u : State} (h : CountsOnly l s t) (h' : CountsOnly l t u) : CountsOnly l s u := fun a ha => (h' a ha).trans (h a ha)

theorem countsOnly_of_regs (h : t.regs = s.regs) : CountsOnly l s t := fun a _ => getR_congr h a

theorem countsOnly_countLane {i : Nat} (s : State) (n : Nat) (hi : i < 8) : CountsOnly l s (countLane s l i n) := fun a ha =>
  regsBut_addF (f := LAN_CNT_COUNT l i) n (Nat.le_refl 32) a (by simpa [LAN_CNT_COUNT] using ha i hi)

theorem getF_countsOnly (h : CountsOnly l s t) {f : Field} (hf : f.lo + f.w ≤ 32) (ha : ∀ i, i < 8 → f.addr ≠ LAN_CNT l i) : getF t f = getF s f := by
  rw [getF_narrow _ hf, getF_narrow _ hf, h _ ha]

/-- The counts of a lane are neither its other registers nor those of partitions and quadrant states. -/
theorem lanCnt_apart (l : Nat) {i : Nat} (hi : i < 8) : LAN_CTL l ≠ LAN_CNT l i ∧ LAN_STAT l ≠ LAN_CNT l i ∧ PRM_Q_STAT (l / 16) ≠ LAN_CNT l i ∧
    ∀ p, p / 4 = l / 16 → PHX_LANES p ≠ LAN_CNT l i := by
  unfold LAN_CTL LAN_STAT LAN_CNT PRM_Q_STAT PHX_LANES prmBase lanBase phxBase quadBase
  refine ⟨by omega, by omega, by omega, fun p hp => ?_⟩
  split <;> omega

theorem laneMode_countsOnly (h : CountsOnly l s t) : getF t (LAN_CTL_MODE l) = getF s (LAN_CTL_MODE l) :=
  getF_countsOnly h (by simp [LAN_CTL_MODE]) fun _ hi => (lanCnt_apart l hi).1

theorem lanePhx_countsOnly (h : CountsOnly l s t) : lanePhx t l = lanePhx s l := by
  unfold lanePhx
  refine List.find?_congr fun p hp => ?_
  have hquad : p / 4 = l / 16 := by
    simp only [List.mem_map, List.mem_range] at hp
    obtain ⟨i, hi, rfl⟩ := hp
    omega
  unfold testF
  rw [getF_countsOnly h (f := PHX_LANES_ATT p) (by simp [PHX_LANES_ATT]) fun _ hi => (lanCnt_apart l hi).2.2.2 p hquad]

theorem laneRadio_countsOnly (h : CountsOnly l s t) : laneRadio t l = laneRadio s l := by
  unfold laneRadio laneOrl
  rw [laneMode_countsOnly h, lanePhx_countsOnly h]

theorem laneIsUp_countsOnly (h : CountsOnly l s t) : laneIsUp t l = laneIsUp s l := by
  unfold laneIsUp
  rw [getF_countsOnly h (f := LAN_STAT_STATE l) (by simp [LAN_STAT_STATE]) fun _ hi => (lanCnt_apart l hi).2.1]

theorem takesRuns_countsOnly (h : CountsOnly l s t) : takesRuns t l = takesRuns s l := by
  unfold takesRuns
  rw [laneRadio_countsOnly h, laneIsUp_countsOnly h,
    getF_countsOnly h (f := PRM_Q_STAT_STATE (l / 16)) (by simp [PRM_Q_STAT_STATE]) fun _ hi => (lanCnt_apart l hi).2.2.1]

/-- Neither the codewords nor the headers of what comes move the clock. -/
theorem onlyRegs_countLane (s : State) (l i n : Nat) : OnlyRegs s (countLane s l i n) := onlyRegs_addF s _ _

theorem countsOnly_setLane (l : Nat) (s : State) (n : Nat) (x : LaneHw) : CountsOnly l s (setLane s n x) := countsOnly_of_regs rfl

theorem countsOnly_countCodewords (s : State) (l : Nat) (errs : List (List (Nat × BitVec 10))) : CountsOnly l s (countCodewords s l errs) := by
  unfold countCodewords
  dsimp only
  refine CountsOnly.trans ?_ (countsOnly_setLane l _ _ _)
  split
  · exact (countsOnly_countLane s _ (by decide)).trans (countsOnly_countLane _ _ (by decide))
  · exact .refl l s

theorem now_countCodewords (s : State) (l : Nat) (errs : List (List (Nat × BitVec 10))) : now (countCodewords s l errs) = now s := by
  have hset : ∀ (u : State) (x : LaneHw), now (setLane u l x) = now u := fun _ _ => rfl
  unfold countCodewords
  dsimp only
  rw [hset]
  split
  · exact (now_of_onlyRegs (onlyRegs_countLane _ _ _ _)).trans (now_of_onlyRegs (onlyRegs_countLane _ _ _ _))
  · rfl

/-- What a lane has received before its frames: its codewords counted, its headers noted. -/
def heard (s : State) (l : Nat) (f : OrlFrame) : State :=
  noteHeaders (if laneFec s l then countCodewords (atDt s f.dt) l f.errs else atDt s f.dt) l f.blocks

theorem takesRuns_heard (f : OrlFrame) : takesRuns (heard s l f) l = takesRuns s l := by
  refine takesRuns_countsOnly ?_
  unfold heard noteHeaders
  dsimp only
  refine CountsOnly.trans ?_ (countsOnly_setLane l _ _ _)
  have hdt : CountsOnly l s (atDt s f.dt) := countsOnly_of_regs rfl
  split
  · exact hdt.trans (countsOnly_countCodewords _ l _)
  · exact hdt

theorem now_heard (f : OrlFrame) : now (heard s l f) = now (atDt s f.dt) := by
  have hnote : ∀ u : State, now (noteHeaders u l f.blocks) = now u := fun _ => rfl
  unfold heard
  rw [hnote]
  split
  · exact now_countCodewords ..
  · rfl

end Counted

/-! ### Frames out of a run of blocks -/

theorem lineBits_zero (fec : Bool) : lineBits fec 0 0 = 0 := by cases fec <;> rfl

/-- Fewer blocks than a frame are counted as they are left over (R397). -/
theorem takeRun_short {l n blk k : Nat} {t : Int} {bs : List OrlBlock} {s : State} (h : n = 0 ∨ bs.length < n) :
    takeRun l n t k blk bs s = countLane s l cntFraming bs.length := by
  cases k with
  | zero => rfl
  | succ k => exact if_pos h

/-- A run of one frame and less than another. -/
theorem takeRun_one {l n : Nat} {t : Int} {bs : List OrlBlock} {s : State} (hn : 0 < n) (hlo : n ≤ bs.length) (hhi : bs.length < 2 * n) :
    takeRun l n t bs.length 0 bs s = countLane (takeFrame s l t (bs.take n)) l cntFraming (bs.length - n) := by
  obtain ⟨k, hk⟩ : ∃ k, bs.length = k + 1 := ⟨bs.length - 1, by omega⟩
  have hgoes : ¬ (n = 0 ∨ bs.length < n) := by omega
  have hrest : n = 0 ∨ (bs.drop n).length < n := by
    rw [List.length_drop]
    omega
  have hstart : t + ((lineBits (laneFec s l) 0 0 * 1000000000000 / lineRate s l : Nat) : Int) = t := by
    rw [lineBits_zero, zero_mul, Nat.zero_div]
    exact add_zero t
  have hstep : takeRun l n t bs.length 0 bs s = takeRun l n t k (0 + n) (bs.drop n)
      (takeFrame s l (t + ((lineBits (laneFec s l) 0 0 * 1000000000000 / lineRate s l : Nat) : Int)) (bs.take n)) := by
    rw [hk]
    exact if_neg hgoes
  rw [hstep, hstart, takeRun_short hrest, List.length_drop]

/-- A frame is taken where one of the groups about its instant has the SEQ of its groups (R397). -/
theorem takeFrame_some {s : State} {l np : Nat} {t g : Int} {bs : List OrlBlock} {seqs : List Nat} (hnp : np = (laneSlots s l).length)
    (hseqs : seqs = (List.range np).map fun i => bitsOf (groupOf np i (bs.map (·.payload.toNat))) 364 8)
    (hg : frameGroup t (lanePeriod s l) seqs = some g) :
    takeFrame s l t bs = ((laneSlots s l).zip (List.range np)).foldl (takeGroup bs l (l / 16) np g.toNat) s := by
  rw [hseqs, hnp] at hg
  unfold takeFrame
  dsimp only
  rw [hg, hnp]

theorem takeFrame_none {s : State} {l np : Nat} {t : Int} {bs : List OrlBlock} {seqs : List Nat} (hnp : np = (laneSlots s l).length)
    (hseqs : seqs = (List.range np).map fun i => bitsOf (groupOf np i (bs.map (·.payload.toNat))) 364 8)
    (hg : frameGroup t (lanePeriod s l) seqs = none) : takeFrame s l t bs = s := by
  rw [hseqs, hnp] at hg
  unfold takeFrame
  dsimp only
  rw [hg]

/-- The blocks that fit are those that end within the bits, with the parity that falls due (R396). -/
theorem fitBlocks_spec (fec : Bool) (blk bits : Nat) :
    lineBits fec blk (fitBlocks fec blk bits) ≤ bits ∧ bits < lineBits fec blk (fitBlocks fec blk bits + 1) := by
  cases fec with
  | false =>
    simp only [lineBits, fitBlocks, Bool.false_eq_true, if_false]
    omega
  | true =>
    simp only [lineBits, fitBlocks, if_true]
    omega

/-! ### The statement -/

/-- A live radio lane with block lock hears what comes. -/
theorem exec_frameReceive {s y : State} {lane : Fin 64} {f : OrlFrame} {n : Nat} (hlive : laneLive s lane.val = true) (hradio : laneRadio s lane.val = true)
    (hlock : isF s (LAN_STAT_BLOCK_LOCK lane.val) = true) (hy : y = heard s lane.val f) (hn : n = 6 * (laneSlots s lane.val).length) :
    exec (.frameReceive lane f) s = .next (downIfDue (if takesRuns y lane.val then takeRun lane.val n (now y) f.blocks.length 0 f.blocks y else y) lane.val) := by
  have hgoes : ¬ (laneLive s lane.val = false ∨ laneRadio s lane.val = false ∨ isF s (LAN_STAT_BLOCK_LOCK lane.val) = false) :=
    not_or.mpr ⟨ne_false_of_eq_true hlive, not_or.mpr ⟨ne_false_of_eq_true hradio, ne_false_of_eq_true hlock⟩⟩
  rw [hy, hn, takesRuns_heard f, now_heard]
  show execFrameReceive lane f s = _
  unfold execFrameReceive heard
  dsimp only
  rw [if_neg hgoes]

/-- Settles O43: fetch, sending and missing groups by their conditions; a received run by the frames in it. -/
theorem sampleGroupsMoveOverTheRadioLink : Obligations.SampleGroupsMoveOverTheRadioLink := by
  refine ⟨?fetch, ?transmit, ?fit, ?receive, ?missing⟩
  case fetch =>
    intro s port g l e q p span hlane harea
    refine ⟨fun hcycle => ?_, fun hcycle => ?_⟩
    · have hgoes : ¬ inCycle s (fetchInstant g (lanePeriod s l)) = false := ne_false_of_eq_true hcycle
      show execGroupFetch port g s = _
      unfold execGroupFetch
      dsimp only
      rw [hlane]
      dsimp only
      rw [harea]
      exact if_neg hgoes
    · show execGroupFetch port g s = _
      unfold execGroupFetch
      dsimp only
      rw [hlane]
      dsimp only
      rw [harea]
      exact if_pos hcycle
  case transmit =>
    intro s lane g l ps t goes
    refine ⟨?sends, fun h => if_pos ?_⟩
    case sends =>
      intro hgoes aps x n s0 b k s1 s2 s3
      obtain ⟨hradio, hup, hports, hquad, hfrom, hcycle⟩ := hgoes
      have hall := not_or.mpr ⟨ne_false_of_eq_true hradio, not_or.mpr ⟨ne_false_of_eq_true hup, not_or.mpr ⟨hports, not_or.mpr ⟨hquad,
        not_or.mpr ⟨not_lt.mpr hfrom, ne_false_of_eq_true hcycle⟩⟩⟩⟩⟩
      show execFrameTransmit lane g s = _
      unfold execFrameTransmit
      dsimp only
      rw [if_neg hall]
    · by_contra hno
      simp only [not_or, not_lt, Bool.not_eq_false] at hno
      obtain ⟨hradio, hup, hports, hquad, hfrom, hcycle⟩ := hno
      exact h ⟨hradio, hup, hports, hquad, hfrom, hcycle⟩
  case fit =>
    intro fec blk bits n hn
    rw [← hn]
    exact fitBlocks_spec fec blk bits
  case receive =>
    intro s lane f l q
    refine ⟨fun h => ?_, ?_⟩
    · show execFrameReceive lane f s = _
      unfold execFrameReceive
      dsimp only
      rw [if_pos h]
    intro hlive hradio hlock y n ps np m first seqs
    have hexec : exec (.frameReceive lane f) s = .next (downIfDue (if takesRuns y l then takeRun l n (now y) m 0 f.blocks y else y) l) :=
      exec_frameReceive hlive hradio hlock rfl rfl
    refine ⟨fun hidle => ?_, fun htakes hshort => ?_, fun htakes hn hlo hhi => ⟨fun g hg => ?_, fun hg => ?_⟩⟩
    · rw [hexec, if_neg (ne_true_of_eq_false hidle)]
    · rw [hexec, if_pos htakes, takeRun_short hshort]
    · rw [hexec, if_pos htakes, takeRun_one hn hlo hhi, takeFrame_some rfl rfl hg]
    · rw [hexec, if_pos htakes, takeRun_one hn hlo hhi, takeFrame_none rfl rfl hg]
  case missing =>
    intro s port g l q p hlane
    refine ⟨fun hnone hreached => ?_, fun h => ?_⟩
    · show execGroupMissing port g s = _
      unfold execGroupMissing
      dsimp only
      rw [hlane]
      exact if_pos ⟨hnone, hreached⟩
    · have hno : ¬ (rxGroup s (48 * q + p) g = none ∧ reached s (airTime g (lanePeriod s l)) = true) := by
        rintro ⟨hnone, hreached⟩
        rcases h with h | h
        · exact h hnone
        · exact absurd hreached (ne_true_of_eq_false h)
      show execGroupMissing port g s = _
      unfold execGroupMissing
      dsimp only
      rw [hlane]
      exact if_neg hno

end Sys2Proof.Machine

/-! ## Observation captures and the random-access front end (spec/08_port_processing.md R313 to R317, R334 to R336; spec/11_lanes.md R407) -/

namespace Sys2Proof.Machine

open Sys2Proof.Safety

/-! ### The search over the delays -/

theorem ratSum_nonneg {l : List Rat} (h : ∀ x ∈ l, 0 ≤ x) : 0 ≤ ratSum l := by
  unfold ratSum
  refine List.foldlRecOn (motive := fun a => 0 ≤ a) l _ (le_refl (0 : Rat)) fun a ha x hx => add_nonneg ha (h x hx)

theorem cqNorm_nonneg (a : CQ) : 0 ≤ cqNorm a := add_nonneg (mul_self_nonneg _) (mul_self_nonneg _)

theorem ratSum_cqNorm_nonneg (l : List CQ) : 0 ≤ ratSum (l.map cqNorm) := ratSum_nonneg fun x hx => by
  obtain ⟨a, -, rfl⟩ := List.mem_map.mp hx
  exact cqNorm_nonneg a

/-- The gain 0 leaves the whole power, so the least residual is not above it. -/
theorem residual_le (y x : List CQ) : residual y x ≤ ratSum (y.map cqNorm) := by
  unfold residual
  dsimp only
  split
  · exact le_refl _
  · exact sub_le_self _ (div_nonneg (cqNorm_nonneg _) (ratSum_cqNorm_nonneg x))

/-- The least of the values at some places, and its place, with a pair to begin from. -/
def leastOf (res : Int → Rat) (a : Rat × Int) (taus : List Int) : Rat × Int := taus.foldl (fun a tau => if res tau < a.1 then (res tau, tau) else a) a

theorem leastOf_spec {res : Int → Rat} {taus : List Int} {P : Int → Prop} (hP : ∀ tau ∈ taus, P tau) {a : Rat × Int} (ha : a.1 = res a.2 ∧ P a.2) :
    (leastOf res a taus).1 = res (leastOf res a taus).2 ∧ P (leastOf res a taus).2 := by
  unfold leastOf
  refine List.foldlRecOn (motive := fun a : Rat × Int => a.1 = res a.2 ∧ P a.2) taus _ ha fun b hb tau htau => ?_
  split
  · exact ⟨rfl, hP tau htau⟩
  · exact hb

theorem bestDelay_eq (y : List CQ) (x : Int → Cplx) (n0 : Int) : bestDelay y x n0 =
    leastOf (fun tau => residual y ((List.range y.length).map fun (k : Nat) => delayedRef x tau (n0 + (k : Int)))) (ratSum (y.map cqNorm) + 1, 0)
      ((List.range 65).map fun (i : Nat) => (i : Int) - 32) := rfl

theorem taus_eq : ((List.range 65).map fun (i : Nat) => (i : Int) - 32) = (-32) :: (List.range 64).map fun (i : Nat) => (i : Int) - 31 := by decide

/-- The first delay replaces the value above every residual that the search begins from. -/
theorem bestDelay_spec (y : List CQ) (x : Int → Cplx) (n0 : Int) :
    (bestDelay y x n0).1 = residual y ((List.range y.length).map fun (k : Nat) => delayedRef x (bestDelay y x n0).2 (n0 + (k : Int))) ∧
      -32 ≤ (bestDelay y x n0).2 ∧ (bestDelay y x n0).2 ≤ 32 := by
  rw [bestDelay_eq, taus_eq]
  generalize hres : (fun tau => residual y ((List.range y.length).map fun (k : Nat) => delayedRef x tau (n0 + (k : Int)))) = res
  have hfirst : res (-32) < ratSum (y.map cqNorm) + 1 := by
    rw [← hres]
    exact lt_of_le_of_lt (residual_le _ _) (lt_add_one _)
  have hstep : ∀ taus, leastOf res (ratSum (y.map cqNorm) + 1, 0) (-32 :: taus) = leastOf res (res (-32), -32) taus := fun taus =>
    congrArg (fun a => leastOf res a taus) (if_pos hfirst)
  have hspec := leastOf_spec (res := res) (P := fun tau => -32 ≤ tau ∧ tau ≤ 32) (taus := (List.range 64).map fun (i : Nat) => (i : Int) - 31)
    (fun tau htau => by
      obtain ⟨i, hi, rfl⟩ := List.mem_map.mp htau
      have := List.mem_range.mp hi
      omega) (a := (res (-32), -32)) ⟨rfl, le_refl (-32 : Int), show (-32 : Int) ≤ 32 by decide⟩
  rw [hstep]
  refine ⟨hspec.1.trans ?_, hspec.2⟩
  rw [← hres]

/-! ### Observation groups -/

/-- The steps of an observation group: its capture is found, its blocks are whole, and its check agrees or not (R407). -/
theorem takeObs_eq {s : State} {l j i g32 p v : Nat} {x : Capture} {bs : List OrlBlock} (hport : lanePort s l j = some p)
    (hx : (getCaptures s (48 * (l / 16) + p)).find? (obsFits s i g32) = some x) (hwhole : bs.any blockErrored = false)
    (hv : v = (bs.zip (List.range 6)).foldl (fun a b => a + b.1.payload.toNat * 2 ^ (64 * b.2)) 0) :
    takeObs s l j i g32 bs = if groupGood (48 * (l / 16) + p) (x.first + i) v = false then countLane s l cntCrc 1
      else putCapture s (48 * (l / 16) + p) { x with got := smPut (fun _ => 0) i (v + 1) x.got } := by
  unfold takeObs
  dsimp only
  rw [hport]
  dsimp only
  rw [hx]
  dsimp only
  rw [if_neg (ne_true_of_eq_false hwhole), ← hv]

/-- A lane that takes runs takes the first six blocks as an observation group, and counts the others where they form no frame. -/
theorem exec_obs {s : State} {lane : Fin 64} {hdr : DWord} {bs : List OrlBlock} (htakes : takesRuns s lane.val = true) (hlen : 6 ≤ bs.length)
    (hshort : laneSlots s lane.val = [] ∨ bs.length < 6 + 6 * (laneSlots s lane.val).length) :
    exec (.obs lane hdr bs) s = .next (downIfDue (countLane (takeObs (noteHeaders s lane.val bs) lane.val (bitsOf (hdr.toNat / 2 ^ 8) 0 2)
      (bitsOf (hdr.toNat / 2 ^ 8) 2 7) (bitsOf (hdr.toNat / 2 ^ 8) 24 32) (bs.take 6)) lane.val cntFraming (bs.length - 6)) lane.val) := by
  have hrest : 6 * (laneSlots s lane.val).length = 0 ∨ (bs.drop 6).length < 6 * (laneSlots s lane.val).length := by
    rw [List.length_drop]
    rcases hshort with h | h
    · exact .inl (by rw [h]; rfl)
    · exact .inr (by omega)
  show execObs lane hdr bs s = _
  unfold execObs
  dsimp only
  rw [if_neg (ne_false_of_eq_true htakes), if_neg (by omega), takeRun_short hrest, List.length_drop]

/-! ### The statement -/

/-- Settles O44: requests, captures and occasions by their conditions; the measurement by the search over the delays. -/
theorem capturesAndRandomAccess : Obligations.CapturesAndRandomAccess := by
  refine ⟨?request, ?capture, ?group, ?short, ?enable, ?occasion⟩
  case request =>
    intro s port slot l i q p t goes hlane hplace
    refine ⟨?_, fun h => ?_⟩
    · intro hgoes len r g
      obtain ⟨hobs, hup, hleaves, hnew⟩ := hgoes
      have hall := not_or.mpr ⟨ne_false_of_eq_true hobs, not_or.mpr ⟨ne_false_of_eq_true hup, not_or.mpr ⟨not_lt.mpr hleaves, ne_true_of_eq_false hnew⟩⟩⟩
      show execObsReq port slot s = _
      unfold execObsReq
      dsimp only
      rw [hlane]
      dsimp only
      rw [hplace]
      dsimp only
      rw [if_neg hall]
    · show execObsReq port slot s = _
      unfold execObsReq
      dsimp only
      rw [hlane]
      dsimp only
      rw [hplace]
      refine if_pos ?_
      by_contra hno
      simp only [not_or, not_lt, Bool.not_eq_false, Bool.not_eq_true] at hno
      obtain ⟨hobs, hup, hleaves, hnew⟩ := hno
      exact h ⟨hobs, hup, hleaves, hnew⟩
  case capture =>
    intro s port q p late s1
    refine ⟨fun c hc => ?_, fun hnone => ?_, fun hnone => ?_, ?_⟩
    · show execCaptureDeadline port s = _
      unfold execCaptureDeadline
      rw [hc]
      rfl
    · show execCaptureDeadline port s = _
      unfold execCaptureDeadline
      rw [hnone]
    · show execEvmMeasurement port s = _
      unfold execEvmMeasurement
      dsimp only
      rw [hnone]
    intro c hc x y power r best
    have hspec := bestDelay_spec y x (18 * c.first)
    refine ⟨fun hzero => ?_, fun hpower => ?_, hspec.2.1, hspec.2.2, fun htau => ?_⟩
    · show execEvmMeasurement port s = _
      unfold execEvmMeasurement
      dsimp only
      rw [hc]
      exact if_pos hzero
    · show execEvmMeasurement port s = _
      unfold execEvmMeasurement
      dsimp only
      rw [hc]
      exact if_neg hpower
    · exact hspec.1.trans (congrArg (fun tau => residual y ((List.range y.length).map fun (k : Nat) => delayedRef x tau (18 * c.first + (k : Int)))) htau)
  case group =>
    intro s lane hdr blocks p x l q c i g y v left htakes hport hx hlen hshort hwhole
    have hexec := exec_obs (hdr := hdr) htakes hlen hshort
    have hfits : (getCaptures y (48 * (l / 16) + p)).find? (obsFits y i (bitsOf c 24 32)) = some x := hx
    have htake := takeObs_eq hport hfits hwhole rfl
    refine ⟨fun hgood => ?_, fun hbad => ?_⟩
    · rw [hexec, htake, if_neg (ne_false_of_eq_true hgood)]
      rfl
    · rw [hexec, htake, if_pos hbad]
  case short =>
    intro s lane hdr blocks
    refine ⟨fun hidle => if_pos hidle, fun htakes hshort => ?_⟩
    show execObs lane hdr blocks s = _
    unfold execObs
    dsimp only
    rw [if_neg (ne_false_of_eq_true htakes), if_pos hshort]
  case enable =>
    intro s q n hlive off bad
    have hexec : exec (.pfeContextEnable q n) s = .next (enablePfe s q.val n.val) := congrArg Host.Outcome.next (if_neg (ne_true_of_eq_false hlive))
    refine ⟨fun hoff hbad => ?_, ?_, fun hon => ?_⟩
    · rw [hexec]
      unfold enablePfe
      rw [if_neg (ne_true_of_eq_false hoff), if_pos hbad]
    · intro hoff hok ci s2
      rw [hexec]
      unfold enablePfe
      rw [if_neg (ne_true_of_eq_false hoff), if_neg hok]
    · rw [hexec]
      unfold enablePfe
      rw [if_pos (Bool.of_not_eq_false hon)]
  case occasion =>
    intro s q n i j x goes
    have hall : ((pfePorts s q n).map fun p => gangFirst s q p).all (pfeGathered s q x.1 x.2) = true ↔
        ∀ p ∈ pfePorts s q.val n.val, pfeGathered s q.val x.1 x.2 (gangFirst s q.val p) = true := by
      rw [List.all_map, List.all_eq_true]
      rfl
    refine ⟨?_, fun h => if_pos ?_⟩
    · intro hgoes f nrep ports
      obtain ⟨hen, hocc, hfrom, hgathered⟩ := hgoes
      exact if_neg (not_or.mpr ⟨ne_false_of_eq_true hen, not_or.mpr ⟨not_le.mpr hocc, not_or.mpr ⟨not_lt.mpr hfrom, ne_false_of_eq_true (hall.mpr hgathered)⟩⟩⟩)
    · by_contra hno
      simp only [not_or, not_lt, not_le, Bool.not_eq_false] at hno
      obtain ⟨hen, hocc, hfrom, hgathered⟩ := hno
      exact h ⟨hen, hocc, hfrom, hall.mp hgathered⟩

end Sys2Proof.Machine

/-! ## Lanes come up and go down (spec/11_lanes.md R398, R399, R408, R418 to R423) -/

namespace Sys2Proof.Machine

open Sys2Proof.Safety

section Lanes

variable {s : State} {l : Nat}

/-- Outside MODE 4 a lane comes up alone. -/
theorem comesUp_alone (h : getF s (LAN_CTL_MODE l) ≠ 4) : comesUp s l = (laneTraining s l && lanePassed s l) := by
  unfold comesUp
  rw [if_neg h]

/-- In MODE 4 a lane comes up where every lane of its group can. -/
theorem comesUp_group (h : getF s (LAN_CTL_MODE l) = 4) : comesUp s l = true ↔
    laneTraining s l = true ∧ ∀ m ∈ ethGroup l, isF s (LAN_CTL_EN m) = true ∧ getF s (LAN_CTL_MODE m) = 4 ∧ lanePassed s m = true := by
  unfold comesUp
  rw [if_pos h]
  simp only [Bool.and_eq_true, List.all_eq_true, beq_iff_eq, and_assoc]

theorem downWith_alone (h : getF s (LAN_CTL_MODE l) ≠ 4) : downWith s l = [l] := by
  unfold downWith
  rw [if_neg h]

/-- The lanes that go down with a lane of a group that is enabled in MODE 4 are the whole group. -/
theorem downWith_group (h : getF s (LAN_CTL_MODE l) = 4) (hall : ∀ m ∈ ethGroup l, isF s (LAN_CTL_EN m) = true ∧ getF s (LAN_CTL_MODE m) = 4) :
    downWith s l = ethGroup l := by
  unfold downWith
  rw [if_pos h]
  refine List.filter_eq_self.mpr fun m hm => ?_
  obtain ⟨hen, hmode⟩ := hall m hm
  rw [hen, hmode]
  rfl

/-- LANE_UP of a lane that comes up. -/
theorem exec_laneUp {lane : Fin 64} (margin : Byte) (h : comesUp s lane.val = true) :
    exec (.laneUp lane margin) s = .next ((downWith s lane.val).foldl (bringUp margin) s) := if_pos h

theorem exec_laneUp_not {lane : Fin 64} (margin : Byte) (h : comesUp s lane.val = false) : exec (.laneUp lane margin) s = .next s :=
  if_neg (ne_true_of_eq_false h)

theorem laneStands_iff : laneStands s l = true ↔ getF s (LAN_STAT_STATE l) = 2 ∨ getF s (LAN_STAT_STATE l) = 3 := by
  simp [laneStands]

/-- A trigger where none waits is kept. -/
theorem trigger_kept {sp : Nat} (hstate : getF s (LAN_STAT_STATE sp) = 3) (hcovers : coversLane s sp l = true) (hnone : getTrig s (l / 16) = none) :
    trigger s sp l = setTrig s (l / 16) (some (l, now s, ctPs s)) := by
  have hgoes : ¬ (getF s (LAN_STAT_STATE sp) ≠ 3 ∨ coversLane s sp l = false) := not_or.mpr ⟨not_not.mpr hstate, ne_false_of_eq_true hcovers⟩
  unfold trigger
  rw [if_neg hgoes, hnone]

end Lanes

/-- Settles O45: each command by its own test; a group that comes up is the whole of ethGroup. -/
theorem lanesComeUpAndGoDown : Obligations.LanesComeUpAndGoDown := by
  refine ⟨?enable, ?disable, ?locks, ?up, ?down, ?switch, ?trigger⟩
  case enable =>
    intro s lane hlive l q radio ps clash s1 bad
    have hexec : exec (.laneEnable lane) s = .next (enableLane s lane.val) := congrArg Host.Outcome.next (if_neg (ne_true_of_eq_false hlive))
    refine ⟨fun hon => ?_, fun hoff hbad => ?_, ?_⟩
    · rw [hexec]
      unfold enableLane
      rw [if_pos hon]
    · rw [hexec]
      unfold enableLane
      dsimp only
      rw [if_neg (ne_true_of_eq_false hoff), if_pos hbad]
    · intro hoff hok s2
      rw [hexec]
      unfold enableLane
      dsimp only
      rw [if_neg (ne_true_of_eq_false hoff), if_neg hok]
  case disable =>
    intro s lane hlive l
    have hexec : exec (.laneDisable lane) s = .next (disableLane s lane.val) := congrArg Host.Outcome.next (if_neg (ne_true_of_eq_false hlive))
    refine ⟨?_, fun hoff => ?_⟩
    · intro hon s1 s2 s3
      refine ⟨fun hmode => ?_, fun hmode => ?_⟩
      · rw [hexec]
        unfold disableLane
        dsimp only
        rw [if_neg (ne_false_of_eq_true hon), if_neg hmode]
      · rw [hexec]
        unfold disableLane
        dsimp only
        rw [if_neg (ne_false_of_eq_true hon), if_pos hmode]
        rfl
    · rw [hexec]
      unfold disableLane
      rw [if_pos hoff]
  case locks =>
    intro s lane l
    refine ⟨fun h => congrArg Host.Outcome.next (if_pos h), fun h => congrArg Host.Outcome.next (if_neg (ne_true_of_eq_false h)), ?_⟩
    intro skew held
    have hheld : ((!laneOrl s l || decide (3 ≤ (getLane s l).goodCw)) && (getF s (LAN_CTL_MODE l) != 4 || decide (skew ≤ 180000))) = true ↔ held := by
      simp only [Bool.and_eq_true, Bool.or_eq_true, Bool.not_eq_true', decide_eq_true_eq, bne_iff_ne, held]
      refine and_congr ?_ (imp_iff_not_or.symm)
      rw [imp_iff_not_or, Bool.not_eq_true]
    refine ⟨fun htrain hfec hlock h => congrArg Host.Outcome.next (if_pos ?_), fun h => congrArg Host.Outcome.next (if_neg ?_)⟩
    · rw [Bool.and_assoc, hheld.mpr h, Bool.and_true, htrain, hfec, hlock]
      rfl
    · intro hgo
      rw [Bool.and_assoc, Bool.and_eq_true, hheld, Bool.and_eq_true, Bool.and_eq_true] at hgo
      obtain ⟨⟨⟨htrain, hfec⟩, hlock⟩, hh⟩ := hgo
      rcases h with h | h | h | h
      · exact ne_true_of_eq_false h htrain
      · exact ne_true_of_eq_false h hfec
      · exact ne_true_of_eq_false h hlock
      · exact h hh
  case up =>
    intro s lane margin l up
    refine ⟨fun htrain hmode hpass => ?_, fun htrain hmode hall => ?_, fun hidle => ?_, fun hmode hfail => ?_, fun hmode hfail => ?_, fun hlive hstate hlate => ?_, fun h => ?_⟩
    · have hup : comesUp s l = true := by rw [comesUp_alone hmode, htrain, hpass]; rfl
      rw [exec_laneUp margin hup, downWith_alone hmode]
      rfl
    · rw [exec_laneUp margin ((comesUp_group hmode).mpr ⟨htrain, hall⟩), downWith_group hmode fun m hm => ⟨(hall m hm).1, (hall m hm).2.1⟩]
      rfl
    · exact exec_laneUp_not margin (by unfold comesUp; rw [hidle]; rfl)
    · exact exec_laneUp_not margin (by rw [comesUp_alone hmode, hfail, Bool.and_false])
    · refine exec_laneUp_not margin (Bool.eq_false_iff.mpr fun hup => ?_)
      obtain ⟨m, hm, hbad⟩ := hfail
      obtain ⟨hen, hm4, hpass⟩ := ((comesUp_group hmode).mp hup).2 m hm
      rcases hbad with h | h | h
      · exact ne_true_of_eq_false h hen
      · exact h hm4
      · exact ne_true_of_eq_false h hpass
    · refine congrArg Host.Outcome.next (if_pos ?_)
      rw [hlive, hstate, hlate]
      rfl
    · refine congrArg Host.Outcome.next (if_neg ?_)
      rw [Bool.and_eq_true, Bool.and_eq_true, beq_iff_eq]
      rintro ⟨⟨hlive, hstate⟩, hlate⟩
      rcases h with h | h | h
      · exact ne_true_of_eq_false h hlive
      · exact h hstate
      · exact ne_true_of_eq_false h hlate
  case down =>
    intro s lane cause l fec ok up
    have hok : downCause s l cause = true ↔ ok := by
      revert ok
      match cause with
      | 0 => simp [downCause]
      | 1 => simp [downCause, fec]
      | 2 => exact Iff.rfl
      | 3 => simp [downCause, fec]
    refine ⟨?_, fun h => congrArg Host.Outcome.next (if_neg ?_)⟩
    · intro hup hcause s1 lanes s2 s3
      have hgo : (laneStands s l && downCause s l cause) = true := by rw [laneStands_iff.mpr hup, hok.mpr hcause]; rfl
      have hexec : exec (.laneDown lane cause) s = .next (goDown s l) := congrArg Host.Outcome.next (if_pos hgo)
      rw [hexec]
      rfl
    · rw [Bool.and_eq_true]
      rintro ⟨hup, hcause⟩
      rcases h with h | h
      · exact h (laneStands_iff.mp hup)
      · exact h (hok.mp hcause)
  case switch =>
    intro s lane hlive l
    exact congrArg Host.Outcome.next (if_neg (ne_true_of_eq_false hlive))
  case trigger =>
    intro s sp l
    exact ⟨trigger_kept, fun h => if_pos h⟩

end Sys2Proof.Machine

/-! ## Markers, round trips, control messages and the management queue of a lane (spec/11_lanes.md R400 to R405; spec/02_larkspur_time.md R68, R69) -/

namespace Sys2Proof.Machine

open Sys2Proof.Safety

/-! ### Service positions -/

section Serve

variable {s : State} {l : Nat}

theorem setLane_setLane (x y : LaneHw) (hwf : smWf (fun _ => ({} : LaneHw)) s.laneHw = true) : setLane (setLane s l x) l y = setLane s l y := by
  unfold setLane
  dsimp only
  rw [smPut_smPut_same _ _ hwf]

theorem serve_none (k : Nat) : serve l k 0 s = s := by
  cases k with
  | zero => rfl
  | succ k =>
    rw [serve]
    exact if_pos rfl

/-- A marker that falls due joins the service blocks before the position is served (R400). -/
theorem serve_marker {k n : Nat} (hn : n ≠ 0) (hdue : 16384 * (getLane s l).nextMk ≤ (getLane s l).blocks) : serve l (k + 1) n s = serve l k n (makeMarker s l) := by
  rw [serve]
  dsimp only
  rw [if_neg hn, if_pos hdue]

/-- A position carries the first block that waits (R403). -/
theorem serve_block {k n : Nat} {x : Nat × Nat} {rest : List (Nat × Nat)} (hn : n ≠ 0) (hdue : (getLane s l).blocks < 16384 * (getLane s l).nextMk)
    (hsvc : (getLane s l).svc = x :: rest) :
    serve l (k + 1) n s = serve l k (n - 1) (emit (setLane s l { getLane s l with svc := rest, blocks := (getLane s l).blocks + 1 }) (.block l x.2)) := by
  rw [serve]
  dsimp only
  rw [if_neg hn, if_neg (not_le.mpr hdue), hsvc]

/-- Positions up to the next marker carry IDLE blocks where nothing waits (R403). -/
theorem serve_idle {k n : Nat} (hn : n ≠ 0) (hdue : (getLane s l).blocks + n ≤ 16384 * (getLane s l).nextMk) (hsvc : (getLane s l).svc = []) :
    serve l (k + 1) n s = emit (setLane s l { getLane s l with blocks := (getLane s l).blocks + n }) (.idleBlocks l n) := by
  have hmin : min n (16384 * (getLane s l).nextMk - (getLane s l).blocks) = n := by omega
  rw [serve]
  dsimp only
  rw [if_neg hn, if_neg (by omega), hsvc]
  dsimp only
  rw [hmin, Nat.sub_self, serve_none]

/-- The bound on the items leaves room for a marker and a block. -/
theorem servePositions_bound (n : Nat) : ∃ k, servePositions s l n = serve l (k + 1 + 1) n s :=
  ⟨(getLane s l).svc.length + 6 * (n / 16384 + 2) - 2, by
    have hbound : (getLane s l).svc.length + 6 * (n / 16384 + 2) - 2 + 1 + 1 = (getLane s l).svc.length + 6 * (n / 16384 + 2) := by omega
    unfold servePositions
    rw [hbound]⟩

end Serve

/-! ### Markers that come -/

section Marker

variable {s : State} {l bits : Nat}

/-- What a valid marker does before its round trip: it is noted, and its LANE tells a good peer from a bad one (R402, R420). -/
def markHeard (s : State) (l bits : Nat) : State :=
  let s1 := setLane s l { getLane s l with lastMark := now s }
  if bitsOf bits 0 6 = l % 16 then setF s1 (LAN_STAT_PEER_OK l) 1 else refreshLane (setF s1 (LAN_STAT_PEER_ERR l) 1) l

theorem takeMarker_none (h : ((getLane s l).markers.find? fun m => m.1 == bitsOf bits 96 16) = none) :
    takeMarker s l bits = downIfDue (markHeard s l bits) l := by
  unfold takeMarker
  dsimp only
  rw [h]
  rfl

theorem takeMarker_some {m : Nat × Int} (h : ((getLane s l).markers.find? fun m => m.1 == bitsOf bits 96 16) = some m) :
    takeMarker s l bits = downIfDue (takeRtt (markHeard s l bits) l ((now s - m.2) % (2 ^ 32 * psSec) - (stampAt bits 24 - stampAt bits 112))) l := by
  unfold takeMarker
  dsimp only
  rw [h]
  rfl

theorem markValid_iff (mks : List MarkBlock) : markValid mks = true ↔ (mks.map fun x => x.payload.toNat % 2 ^ 8) = [0x78, 0x79, 0x7A, 0x7B] ∧
    (∀ x ∈ mks, x.errored = false ∧ x.after ≤ 2048) ∧ bitOf (markBits mks) 6 = 1 ∧ bitsOf (markBits mks) 184 16 = markerCrc (markBits mks % 2 ^ 184) := by
  unfold markValid
  simp only [Bool.and_eq_true, beq_iff_eq, List.all_eq_true, Bool.not_eq_true', decide_eq_true_eq, and_assoc]

theorem laneLocked_iff : laneLocked s l = true ↔ isF s (LAN_STAT_BLOCK_LOCK l) = true ∧ (laneFec s l = true → isF s (LAN_STAT_FEC_LOCK l) = true) := by
  unfold laneLocked
  rw [Bool.and_eq_true, Bool.or_eq_true, Bool.not_eq_true', imp_iff_not_or, Bool.not_eq_true]

/-- A lane with its locks takes a valid marker and counts another. -/
theorem exec_markerReceive {lane : Fin 64} {dt : Nat} (mks : List MarkBlock) (hlive : laneLive s lane.val = true) (hradio : laneRadio s lane.val = true)
    (hlocked : laneLocked s lane.val = true) : exec (.markerReceive lane dt mks) s =
      .next (if markValid mks then takeMarker (atDt s dt) lane.val (markBits mks) else countLane (atDt s dt) lane.val cntMarker 1) :=
  if_neg (not_or.mpr ⟨ne_false_of_eq_true hlive, not_or.mpr ⟨ne_false_of_eq_true hradio, ne_false_of_eq_true hlocked⟩⟩)

end Marker

/-! ### Round-trip values -/

section RoundTrip

variable {s : State} {l : Nat} {rtt : Int}

theorem takeRtt_short (h : ((rtt :: (getLane s l).rtts).take 256).length < 256) :
    takeRtt s l rtt = setLane s l { getLane s l with rtts := (rtt :: (getLane s l).rtts).take 256 } := if_pos h

/-- The mean of 256 values is shown (R69). -/
theorem takeRtt_mean (h : 256 ≤ ((rtt :: (getLane s l).rtts).take 256).length) {f : Int} (hf : f = roundDiv (((rtt :: (getLane s l).rtts).take 256).foldl (· + ·) 0) 256)
    {s2 : State} (hs2 : s2 = setSF (setF (setLane s l { getLane s l with rtts := (rtt :: (getLane s l).rtts).take 256 }) (LKS_LANE_STAT_RTT_VALID (l / 16) (l % 16)) 1)
      (LKS_LANE_RTT_RTT_F (l / 16) (l % 16)) f) :
    ((getLane s l).rttUsed = none → takeRtt s l rtt = setLane s2 l { getLane s2 l with rttUsed := some f }) ∧
    (∀ u, (getLane s l).rttUsed = some u →
      takeRtt s l rtt = if 10000 < (f - u).natAbs then refresh (setF s2 (LKS_LANE_STAT_JUMP (l / 16) (l % 16)) 1) (qSrc (l / 16) 186) else s2) := by
  subst hs2
  subst hf
  refine ⟨fun hused => ?_, fun u hused => ?_⟩
  · unfold takeRtt
    dsimp only
    rw [if_neg (not_lt.mpr h), hused]
  · unfold takeRtt
    dsimp only
    rw [if_neg (not_lt.mpr h), hused]

end RoundTrip

/-! ### The statement -/

/-- Settles O46: a marker that falls due is the next four service blocks; every received block and marker by its tests. -/
theorem lanesCarryMarkersAndMessages : Obligations.LanesCarryMarkersAndMessages := by
  refine ⟨?send, ?positions, ?receive, ?rtt, ?ctl, ?profile, ?queue⟩
  case send =>
    intro s lane dt l s1
    exact ⟨fun h => congrArg Host.Outcome.next (if_neg (ne_true_of_eq_false h)), fun h => congrArg Host.Outcome.next (if_pos h), fun h => if_pos h⟩
  case positions =>
    intro s l hwf h t body v mk
    obtain ⟨k, hk⟩ := servePositions_bound (s := s) (l := l) 1
    refine ⟨fun hdue hnot => ?_, fun x rest hdue hsvc => ?_, fun n hsvc hn hdue => ?_⟩
    · have hlane : getLane (makeMarker s l) l = { h with mseq := (h.mseq + 1) % 2 ^ 16, markers := ((h.mseq, t) :: h.markers).take 16, nextMk := h.nextMk + 1, svc := [(0, mk 0), (0, mk 1), (0, mk 2), (0, mk 3)] ++ h.svc } :=
        getLane_setLane_same _ _ _ hwf
      rw [hk, serve_marker one_ne_zero hdue, serve_block (x := (0, mk 0)) (rest := [(0, mk 1), (0, mk 2), (0, mk 3)] ++ h.svc) one_ne_zero (by rw [hlane]; exact hnot) (by rw [hlane]; rfl), Nat.sub_self,
        serve_none, hlane]
      exact congrArg (fun u => emit u (.block l (mk 0))) (setLane_setLane _ _ hwf)
    · rw [hk, serve_block one_ne_zero hdue hsvc, Nat.sub_self, serve_none]
    · obtain ⟨k, hk⟩ := servePositions_bound (s := s) (l := l) n
      rw [hk, serve_idle (by omega) hdue hsvc]
  case receive =>
    intro s lane dt mks l s1 bits good live y s2 hit
    have hgood : markValid mks = true ↔ good := markValid_iff mks
    have hexec : live → exec (.markerReceive lane dt mks) s = .next (if markValid mks then takeMarker s1 l bits else countLane s1 l cntMarker 1) := fun hl => by
      obtain ⟨hlive, hradio, hlock, hfec⟩ := hl
      exact exec_markerReceive mks hlive hradio (laneLocked_iff.mpr ⟨hlock, hfec⟩)
    refine ⟨fun h => if_pos ?_, fun hl hbad => ?_, fun hl hok hnone => ?_, fun hl hok m hm => ?_⟩
    · by_contra hno
      simp only [not_or, Bool.not_eq_false] at hno
      obtain ⟨hlive, hradio, hlocked⟩ := hno
      exact h ⟨hlive, hradio, laneLocked_iff.mp hlocked⟩
    · rw [hexec hl, if_neg (fun hv => hbad (hgood.mp hv))]
    · rw [hexec hl, if_pos (hgood.mpr hok), takeMarker_none (s := s1) hnone]
      rfl
    · rw [hexec hl, if_pos (hgood.mpr hok), takeMarker_some (s := s1) hm]
      rfl
  case rtt =>
    intro s l rtt h vs s1 f s2
    refine ⟨fun hfew => takeRtt_short hfew, fun hmany hnone => ?_, fun hmany u hu => ?_⟩
    · exact (takeRtt_mean hmany rfl rfl).1 hnone
    · exact (takeRtt_mean hmany rfl rfl).2 u hu
  case ctl =>
    intro s lane payload l t hlive hradio
    have hexec : exec (.ctl lane payload) s = if t = 0x4B then .next (takeFragment s l (payload.toNat / 2 ^ 8)) else if knownType t then .next s else .next (countLane s l cntFraming 1) :=
      if_neg (not_or.mpr ⟨ne_false_of_eq_true hlive, ne_false_of_eq_true hradio⟩)
    refine ⟨fun h => ?_, fun hne hknown => ?_, fun hunknown => ?_⟩
    · rw [hexec, if_pos h]
    · rw [hexec, if_neg hne, if_pos hknown]
    · have hne : t ≠ 0x4B := fun h => absurd hunknown (by rw [h]; decide)
      rw [hexec, if_neg hne, if_neg (ne_true_of_eq_false hunknown)]
  case profile =>
    intro s lane k l h
    refine ⟨fun hup hradio hdue => if_pos ?_, fun hno => if_neg ?_⟩
    · rw [hup, hradio, hdue]
      rfl
    · rw [Bool.and_eq_true, Bool.and_eq_true, beq_iff_eq]
      rintro ⟨⟨hup, hradio⟩, hdue⟩
      rcases hno with hno | hno | hno
      · exact ne_true_of_eq_false hno hup
      · exact ne_true_of_eq_false hno hradio
      · exact hno hdue
  case queue =>
    intro s lane v hlive l h m s1
    have hon : ∀ t : State, (if quadDark s (lane.val / 16) = true then s else t) = t := fun _ => if_neg (ne_true_of_eq_false hlive)
    exact ⟨congrArg Host.Outcome.next (hon _), congrArg Host.Outcome.next (hon _), congrArg Host.Outcome.next (hon _), congrArg Host.Outcome.next (hon _)⟩

end Sys2Proof.Machine

/-! ## The Ethernet role of a lane (spec/11_lanes.md R408 to R414; spec/02_larkspur_time.md R82, R83, R88, R90) -/

namespace Sys2Proof.Machine

open Sys2Proof.Safety

section Frames

variable {s : State} {l : Nat}

/-- A tag stands after the addresses, which are the frame's first twelve bytes (R409). -/
theorem addTag_addresses {macs : List Byte} (h : macs.length = 12) (rest : List Byte) :
    addTag s l (macs ++ rest) = macs ++ (if isF s (LAN_ETH_VLAN_EN l) then [0x81, 0x00] ++ (leBytes 2 (getF s (LAN_ETH_VID l))).reverse else []) ++ rest := by
  have htake : (macs ++ rest).take 12 = macs := by rw [← h, List.take_left]
  have hdrop : (macs ++ rest).drop 12 = rest := by rw [← h, List.drop_left]
  unfold addTag
  rw [htake, hdrop]
  split
  · simp only [List.append_assoc]
  · rw [List.append_nil]

/-! ### A frame to be forwarded -/

section Forwarded

variable {n : Nat} {stampOk : Bool} {raw : List Byte}

theorem handleFrame_forward (h : fwdEntry s l (beAt raw 0 6) = some n) : handleFrame s l stampOk raw = forwardChecked s l n stampOk raw := by
  unfold handleFrame
  dsimp only
  rw [h]

theorem forwardChecked_none (h : ptpOffset (isF s (LAN_ETH_VLAN_EN l)) raw = none) : forwardChecked s l n stampOk raw = forward s l n raw := by
  unfold forwardChecked
  rw [h]

/-- A PTP frame to be forwarded is dropped before ARM and where it is invalid (R88, R90). -/
theorem forwardChecked_some {o : Nat} (h : ptpOffset (isF s (LAN_ETH_VLAN_EN l)) raw = some o) : forwardChecked s l n stampOk raw =
    if ¬ isF s LKS_CTL_ARM then addF s LKS_PTP_DROP_UNARMED 1
    else if ptpInvalid s (ptpFormed raw o) stampOk (beAt raw (o + 4) 1) then addF s LKS_PTP_DROP_INVALID 1 else forward s l n raw := by
  unfold forwardChecked
  rw [h]

end Forwarded

theorem ptpOurs_iff (bs : List Byte) : ptpOurs s l bs = true ↔ (ptpOffset false bs).isSome = true ∧ (beAt bs 12 2 = 0x88F7 ∨ beAt bs 0 6 = ownMac s l) := by
  simp only [ptpOurs, Bool.and_eq_true, Bool.or_eq_true, beq_iff_eq]

/-- A frame as it is read: without its tag where the lane takes one (R409). -/
def untagged (s : State) (l : Nat) (raw : List Byte) : List Byte := if isF s (LAN_ETH_VLAN_EN l) && beAt raw 12 2 == 0x8100 then raw.take 12 ++ raw.drop 16 else raw

/-- The rows of R409 for a frame that is neither forwarded nor the device's. -/
theorem handleFrame_local {stampOk : Bool} {raw bs : List Byte} (h : fwdEntry s l (beAt raw 0 6) = none) (hbs : bs = untagged s l raw) :
    handleFrame s l stampOk raw =
      if ptpOurs s l bs then s
      else if beAt bs 12 2 = 0xAEFE ∧ beAt (bs.drop 14) 1 1 = 0 ∧ uEnts s l (bs.drop 14) ≠ [] then uPlane s l (bs.drop 14)
      else if beAt bs 12 2 = 0xAEFE ∧ beAt (bs.drop 14) 1 1 = 5 then oneWayDelay s l (bs.drop 14)
      else if beAt bs 12 2 = 0x8809 ∧ beAt (bs.drop 14) 0 1 = 0x0A then mqPush s l bs
      else if (beAt raw 0 6 = ownMac s l ∨ beAt raw 0 6 = 0xFFFFFFFFFFFF ∨ beAt raw 0 6 = 0x011B19000000 ∨ beAt raw 0 6 = 0x0180C200000E) ∧
          isF s (LAN_ETH_MQ_OTHER l) = true then mqPush s l bs
      else countLane s l cntDrop 1 := by
  subst hbs
  unfold handleFrame
  dsimp only
  rw [h]
  rfl

end Frames

/-- Settles O47: each frame by the first row that matches it, each message and each forwarded frame by its tests. -/
theorem ethernetLanesHandleFrames : Obligations.EthernetLanesHandleFrames := by
  refine ⟨?receive, ?rows, ?messages, ?sent, ?uPlane, ?symbols, ?egress⟩
  case receive =>
    intro s lane dt bytes fcsOk stampOk l
    refine ⟨fun hdown => if_pos hdown, fun hup hfcs => ?_, fun hup hfcs hlong => ?_, fun hup hfcs hlen => ?_⟩
    all_goals
      show execEthernetFrameReceive lane dt bytes fcsOk stampOk s = _
      unfold execEthernetFrameReceive
      dsimp only
      rw [if_neg (ne_false_of_eq_true hup)]
    · exact if_pos hfcs
    · rw [if_neg (ne_false_of_eq_true hfcs)]
      exact if_pos hlong
    · rw [if_neg (ne_false_of_eq_true hfcs)]
      exact if_neg (not_lt.mpr hlen)
  case rows =>
    intro s l stampOk raw mac bs t msg mine own ours
    refine ⟨fun n hn => ⟨fun o ho => ?_, fun hno => ?_⟩, fun hnone => ?_⟩
    · intro bad
      rw [handleFrame_forward hn, forwardChecked_some ho]
      refine ⟨fun hoff => if_pos (ne_true_of_eq_false hoff), fun hon hbad => ?_, fun hon hgood => ?_⟩
      · rw [if_neg (not_not.mpr hon)]
        exact if_pos hbad
      · rw [if_neg (not_not.mpr hon)]
        exact if_neg hgood
    · rw [handleFrame_forward hn, forwardChecked_none hno]
    · have hours : ptpOurs s l bs = true ↔ ours := ptpOurs_iff bs
      rw [handleFrame_local (bs := bs) hnone rfl]
      refine ⟨fun h => if_pos (hours.mpr h), fun h ht htype hents => ?_, fun h ht htype => ?_, fun h ht htype => ?_, fun h ht ht' => ?_⟩
      · rw [if_neg (mt hours.mp h)]
        exact if_pos ⟨ht, htype, hents⟩
      · rw [if_neg (mt hours.mp h), if_neg fun hu => absurd (htype.symm.trans hu.2.1) (by decide)]
        exact if_pos ⟨ht, htype⟩
      · have hother : ∀ P : Prop, ¬ (beAt bs 12 2 = 0xAEFE ∧ P) := fun P hu => absurd (ht.symm.trans hu.1) (by decide)
        rw [if_neg (mt hours.mp h), if_neg (hother _), if_neg (hother _)]
        exact if_pos ⟨ht, htype⟩
      · have hother : ∀ P : Prop, ¬ (beAt bs 12 2 = 0xAEFE ∧ P) := fun P hu => ht hu.1
        rw [if_neg (mt hours.mp h), if_neg (hother _), if_neg (hother _), if_neg fun hu => ht' hu.1]
        exact ⟨fun hm => if_pos hm, fun hm => if_neg hm⟩
  case messages =>
    intro s lane dt bytes l
    refine ⟨fun hup => congrArg Host.Outcome.next (if_pos hup), ?_, fun hup hlong => ?_, fun hdown => ?_⟩
    · intro hup hact x t
      have hexec : exec (.oneWayDelayRequest lane dt bytes) s = .next (oneWayDelay x l bytes) := congrArg Host.Outcome.next (if_pos hup)
      rw [hexec]
      unfold oneWayDelay
      dsimp only
      rw [if_neg (not_lt.mpr hact)]
    · have hexec : exec (.oneWayDelayRequest lane dt bytes) s = .next (oneWayDelay (cvuEcpri (atDt s dt) l bytes) l bytes) := congrArg Host.Outcome.next (if_pos hup)
      rw [hexec]
      unfold oneWayDelay
      dsimp only
      rw [if_pos hlong]
    · exact ⟨congrArg Host.Outcome.next (if_neg (ne_true_of_eq_false hdown)), congrArg Host.Outcome.next (if_neg (ne_true_of_eq_false hdown))⟩
  case sent =>
    intro s l msg t own macs tag bs
    have hlen : macs.length = 12 := rfl
    have htag : addTag s l (macs ++ ([0xAE, 0xFE] ++ msg)) = bs := by
      rw [addTag_addresses hlen, ← List.append_assoc]
    unfold sendEcpri
    dsimp only
    rw [List.append_assoc, htag]
  case uPlane =>
    intro s l bs x n h sym ents bound s1 hx
    obtain ⟨p, e⟩ := x
    refine ⟨fun hsym => ?_, fun hsym hlate => ?_, fun hsym htime => ?_⟩
    all_goals
      unfold uPlane
      dsimp only
      rw [hx]
      dsimp only
    · exact if_pos hsym
    · rw [if_neg (not_lt.mpr hsym)]
      exact if_pos hlate
    · rw [if_neg (not_lt.mpr hsym)]
      exact if_neg (not_lt.mpr htime)
  case symbols =>
    intro s port slot l sym q ents hlane
    refine ⟨fun hup => ⟨?_, ?_⟩, fun hdown => ⟨?_, ?_⟩⟩
    · show execUPlaneSend port slot sym s = _
      unfold execUPlaneSend
      dsimp only
      rw [hlane]
      exact if_pos hup
    · show execCPlaneSend port slot sym s = _
      unfold execCPlaneSend
      dsimp only
      rw [hlane]
      exact if_pos hup
    · show execUPlaneSend port slot sym s = _
      unfold execUPlaneSend
      dsimp only
      rw [hlane]
      exact if_neg (ne_true_of_eq_false hdown)
    · show execCPlaneSend port slot sym s = _
      unfold execCPlaneSend
      dsimp only
      rw [hlane]
      exact if_neg (ne_true_of_eq_false hdown)
  case egress =>
    intro s lane dt l s1
    refine ⟨fun hnone => ?_, fun bs t rest hfirst => ?_⟩
    · show execForwardedFrameEgress lane dt s = _
      unfold execForwardedFrameEgress
      dsimp only
      rw [hnone]
    intro s2
    have hexec : exec (.forwardedFrameEgress lane dt) s = if ethUp s l = false then .next (countLane s2 l cntDrop 1)
        else match ptpOffset (isF s (LAN_ETH_VLAN_EN l)) bs with
          | some o =>
            if 3 < bitsOf (beAt bs o 1) 0 4 then .next (sendFrame s2 l bs)
            else if psSec / 1000 < now s1 - t then .next (addF s2 LKS_PTP_DROP_RESIDENCE 1)
            else .next (sendFrame s2 l (addResidence (isF s (LAN_ETH_VLAN_EN l)) bs o (stampUnits (now s1) - stampUnits t)))
          | none => .next (sendFrame s2 l bs) := by
      show execForwardedFrameEgress lane dt s = _
      unfold execForwardedFrameEgress
      dsimp only
      rw [hfirst] <;> rfl
    rw [hexec]
    refine ⟨fun hdown => if_pos hdown, fun hup hno => ?_, fun hup o ho => ?_⟩
    · rw [if_neg (ne_false_of_eq_true hup), hno]
    · rw [if_neg (ne_false_of_eq_true hup), ho]
      refine ⟨fun htype => if_pos htype, fun htype hlate => ?_, fun htype htime => ?_⟩
      · exact (if_neg (not_lt.mpr htype)).trans (if_pos hlate)
      · exact (if_neg (not_lt.mpr htype)).trans (if_neg (not_lt.mpr htime))

end Sys2Proof.Machine

/-! ## A partition's attachments and what its design does through them (spec/13_phlox.md R447 to R451; spec/07_memory.md R274, R275) -/

namespace Sys2Proof.Machine

open Sys2Proof.Safety

section Design

variable {s : State} {p : Fin 16} {dpa : Nat}

/-- What a design's access brings to the memory controller. -/
def designAcc (p : Fin 16) (dpa n : Nat) (write : Option (List Byte)) : WaitAcc := ⟨.partition p.val, dramFlat (p.val / 4) + dpa, n, write.bind cleanWrite⟩

/-- An access of the design inside its window is made. -/
theorem exec_partitionDramAccess_inside {len n : Nat} {write : Option (List Byte)} (hn : n = (match write with | some bs => bs.length | none => len)) (hio : phxIo s p.val = true)
    (hpos : n ≠ 0) (hwin : phxWindowOk s p.val dpa n = true) :
    exec (.partitionDramAccess p dpa write len) s = .next (makeAcc s (designAcc p dpa n write)) := by
  subst hn
  exact (if_neg (not_or.mpr ⟨ne_false_of_eq_true hio, hpos⟩)).trans (if_neg (ne_false_of_eq_true hwin))

/-- One outside its window is answered with an error (R450). -/
theorem exec_partitionDramAccess_outside {len n : Nat} {write : Option (List Byte)} (hn : n = (match write with | some bs => bs.length | none => len)) (hio : phxIo s p.val = true)
    (hpos : n ≠ 0) (hwin : phxWindowOk s p.val dpa n = false) :
    exec (.partitionDramAccess p dpa write len) s = .next (emit (addF s (PHX_CNT_ERR_ERRORS p.val) 1) (.toDesign p.val [] true)) := by
  subst hn
  exact (if_neg (not_or.mpr ⟨ne_false_of_eq_true hio, hpos⟩)).trans (if_pos hwin)

/-- What a partition's access must wait for. -/
theorem mustGo_partition {w : WaitAcc} {r : Nat} (hwho : w.who = .partition r ∨ w.who = .fence r) :
    mustGo s w = ((waitsFor s w.addr w.len w.write.isSome).map fun x => (x, w.write.isSome), s) := by
  obtain ⟨who, addr, len, write⟩ := w
  unfold mustGo
  rcases hwho with h | h
  · rw [show who = .partition r from h]
  · rw [show who = .fence r from h]

/-- An access behind an earlier one waits (R264, R451). -/
theorem makeAcc_behind {w : WaitAcc} (h : (s.waits.any fun x => behind x w.who) = true) : makeAcc s w = { s with waits := s.waits ++ [w] } := if_pos h

theorem behind_none {x : Waiter} (h : (s.waits.any fun w => behind w x) = false) : ∀ w ∈ s.waits, behind w x = false := fun w hw =>
  Bool.eq_false_iff.mpr (List.any_eq_false.mp h w hw)

section Free

variable {n : Nat} {write : Option (List Byte)} (hfree : (s.waits.any fun x => behind x (.partition p.val)) = false)
include hfree

/-- One for whose lines nothing stands in the way is performed. -/
theorem makeAcc_design_free (hgo : waitsFor s (dramFlat (p.val / 4) + dpa) n (write.bind cleanWrite).isSome = none) :
    makeAcc s (designAcc p dpa n write) = performAcc s (designAcc p dpa n write) :=
  makeAcc_of_free (behind_none hfree) ((mustGo_partition (.inl rfl)).trans (by rw [designAcc, hgo]; rfl))

/-- One for which a line must go waits, and the snoop goes out (R274). -/
theorem makeAcc_design_held {x : Nat × Nat} (hgo : waitsFor s (dramFlat (p.val / 4) + dpa) n (write.bind cleanWrite).isSome = some x) :
    makeAcc s (designAcc p dpa n write) = snoopLine { s with waits := s.waits ++ [designAcc p dpa n write] } x (write.bind cleanWrite).isSome :=
  makeAcc_of_victim (x := (x, (write.bind cleanWrite).isSome)) (behind_none hfree) ((mustGo_partition (.inl rfl)).trans (by rw [designAcc, hgo]; rfl))

end Free

theorem performAcc_design_write {n : Nat} (bs : List Byte) : performAcc s (designAcc p dpa n (some bs)) = wrMem s (dramFlat (p.val / 4) + dpa) bs :=
  wrTainted_clean _ _ _

theorem performAcc_design_read {n : Nat} : performAcc s (designAcc p dpa n none) =
    emit (readBad s (dramFlat (p.val / 4) + dpa) n) (.toDesign p.val (rdBytes (readBad s (dramFlat (p.val / 4) + dpa) n) (dramFlat (p.val / 4) + dpa) n)
      (badRead (readBad s (dramFlat (p.val / 4) + dpa) n) (dramFlat (p.val / 4) + dpa) n)) := rfl

/-- An access of no bytes meets no line. -/
theorem waitsFor_empty (a : Nat) (write : Bool) : waitsFor s a 0 write = none := by
  unfold waitsFor linesOf
  cases hdmLine a <;> rfl

end Design

/-- Settles O48: every attachment and access by its tests; an access that must wait is kept with its snoop. -/
theorem partitionsReachLanesMemoryAndTiles : Obligations.PartitionsReachLanesMemoryAndTiles := by
  refine ⟨?lanes, ?shares, ?dram, ?mailbox, ?blocks, ?interrupt⟩
  case lanes =>
    intro s p att halive asked kept s1
    have hexec : exec (.phxLanesWrite p att) s = .next (writePhxLanes s p.val att.toNat) := congrArg Host.Outcome.next (if_pos halive)
    refine ⟨fun hon => ?_, fun hoff hall => ?_, fun hoff hsome => ?_⟩
    · rw [hexec]
      exact congrArg Host.Outcome.next (if_pos hon)
    · rw [hexec]
      exact congrArg Host.Outcome.next ((if_neg (ne_true_of_eq_false hoff)).trans (if_pos hall))
    · rw [hexec]
      exact congrArg Host.Outcome.next ((if_neg (ne_true_of_eq_false hoff)).trans (if_neg hsome))
  case shares =>
    intro s p v halive n fits
    have hexec : exec (.phxBwWrite p v) s = .next (writePhxBw s p.val v.toNat) := congrArg Host.Outcome.next (if_pos halive)
    refine ⟨fun hoff hfits => ?_, fun h => ?_⟩
    · rw [hexec]
      exact congrArg Host.Outcome.next (if_pos ⟨hoff, hfits⟩)
    · rw [hexec]
      refine congrArg Host.Outcome.next (if_neg ?_)
      rintro ⟨hoff, hfits⟩
      rcases h with h | h
      · exact ne_false_of_eq_true h hoff
      · exact h hfits
  case dram =>
    intro s p dpa len bs a hio ha free
    subst ha
    have hlen : bs ≠ [] → bs.length ≠ 0 := fun h => mt List.length_eq_zero_iff.mp h
    have hread : 0 < len → phxWindowOk s p.val dpa len = true → exec (.partitionDramAccess p dpa none len) s = .next (makeAcc s (designAcc p dpa len none)) := fun hpos hwin =>
      exec_partitionDramAccess_inside rfl hio (Nat.pos_iff_ne_zero.mp hpos) hwin
    have hwrite : bs ≠ [] → phxWindowOk s p.val dpa bs.length = true → exec (.partitionDramAccess p dpa (some bs) len) s = .next (makeAcc s (designAcc p dpa bs.length (some bs))) :=
      fun hbs hwin => exec_partitionDramAccess_inside rfl hio (hlen hbs) hwin
    refine ⟨fun hpos hwin hfree hgo => ?_, fun hbs hwin hfree hgo => ?_, fun hpos hwin => ?_, fun hbs hwin => ?_, fun x hpos hwin hfree hgo => ?_,
      fun x hbs hwin hfree hgo => ?_, fun hpos hwin hheld => ?_, fun hbs hwin hheld => ?_⟩
    · rw [hread hpos hwin, makeAcc_design_free hfree hgo, performAcc_design_read]
    · rw [hwrite hbs hwin, makeAcc_design_free hfree hgo, performAcc_design_write]
    · exact exec_partitionDramAccess_outside rfl hio (Nat.pos_iff_ne_zero.mp hpos) hwin
    · exact exec_partitionDramAccess_outside rfl hio (hlen hbs) hwin
    · rw [hread hpos hwin, makeAcc_design_held hfree hgo]
      rfl
    · rw [hwrite hbs hwin, makeAcc_design_held hfree hgo]
      rfl
    · rw [hread hpos hwin]
      exact congrArg Host.Outcome.next (makeAcc_behind (Bool.of_not_eq_false hheld))
    · rw [hwrite hbs hwin]
      exact congrArg Host.Outcome.next (makeAcc_behind (Bool.of_not_eq_false hheld))
  case mailbox =>
    intro s p ofs v hio
    have hon : ¬ phxIo s p.val = false := ne_false_of_eq_true hio
    have hexec : exec (.partitionFence p) s = .next (makeAcc s ⟨.fence p.val, dramFlat (p.val / 4), 0, none⟩) := congrArg Host.Outcome.next (if_pos hio)
    refine ⟨fun h hh hname => ?_, fun h hh hname => ?_, fun hnone => ?_, fun hfree => ?_, fun hheld => ?_⟩
    · show execPartitionMailboxWrite p ofs v s = _
      unfold execPartitionMailboxWrite
      rw [if_neg hon, hh]
      exact congrArg Host.Outcome.next (if_pos hname)
    · show execPartitionMailboxWrite p ofs v s = _
      unfold execPartitionMailboxWrite
      rw [if_neg hon, hh]
      exact congrArg Host.Outcome.next (if_neg hname)
    · show execPartitionMailboxWrite p ofs v s = _
      unfold execPartitionMailboxWrite
      rw [if_neg hon, hnone]
      rfl
    · have hgo := mustGo_partition (s := s) (w := ⟨.fence p.val, dramFlat (p.val / 4), 0, none⟩) (.inr rfl)
      rw [waitsFor_empty] at hgo
      rw [hexec]
      exact congrArg Host.Outcome.next (makeAcc_of_free (behind_none hfree) hgo)
    · rw [hexec]
      exact congrArg Host.Outcome.next (makeAcc_behind hheld)
  case blocks =>
    intro s p lane hdr payload stamp dt s1
    refine ⟨fun hup => if_neg (ne_false_of_eq_true hup), fun hdown => if_pos hdown, fun q hq hup => ?_, fun hnone => ?_⟩
    · show execPartitionBlockReceive lane hdr payload dt s = _
      unfold execPartitionBlockReceive
      rw [hq]
      exact if_neg (ne_false_of_eq_true hup)
    · show execPartitionBlockReceive lane hdr payload dt s = _
      unfold execPartitionBlockReceive
      rw [hnone]
  case interrupt =>
    intro s p
    refine ⟨fun halive hstate => congrArg Host.Outcome.next (if_pos ⟨halive, hstate⟩), fun h => congrArg Host.Outcome.next (if_neg ?_)⟩
    rintro ⟨halive, hstate⟩
    rcases h with h | h
    · exact ne_true_of_eq_false h halive
    · exact h hstate

end Sys2Proof.Machine

/-! ## Streams of a partition (spec/13_phlox.md R453 to R462) -/

namespace Sys2Proof.Machine

open Sys2Proof.Safety

section Boundary

variable {s : State} {p : Nat} {t x : Int}

/-- A boundary at which the fabric clock stays: a load that is due swaps, and a restart that waits holds the reset (R461, R462). -/
theorem partitionBoundary_eq (hmhz : (getPhx s p).mhz = clampNat 100 500 (getF s (PHX_CLK_MHZ p))) (hswap : (getPhx s p).swapAt = some x) {s2 : State}
    (hs2 : s2 = if x ≤ t ∧ getF s (PHX_LOAD_STAT_STATE p) = 2 then swapPlane s p (getPhx s p) else s) :
    partitionBoundary s p t = if (getPhx s2 p).restart then
      setPhx s2 p { getPhx s2 p with restart := false, resetUntil := t + resetPs (clampNat 100 500 (getF s (PHX_CLK_MHZ p))) } else s2 := by
  subst hs2
  unfold partitionBoundary
  dsimp only
  rw [if_pos hmhz, hswap]

end Boundary

/-- Settles O49: each load by what readStream finds; a boundary by the swap that is due and the restart that waits. -/
theorem partitionsAreLoadedAndRestarted : Obligations.PartitionsAreLoadedAndRestarted := by
  refine ⟨?powerUp, ?go, ?ready, ?boundary⟩
  case powerUp =>
    intro s p r verify halive hstate b s0
    have hgoes : ¬ (phxAlive s p.val = false ∨ getF s (PHX_STAT_STATE p.val) = 1) := not_or.mpr ⟨ne_false_of_eq_true halive, hstate⟩
    refine ⟨fun x i sig herr => ?_, fun h recs hok => ?_⟩
    · show execPowerUpLoad p r verify s = _
      unfold execPowerUpLoad
      dsimp only
      rw [if_neg hgoes, herr]
    · intro s1
      show execPowerUpLoad p r verify s = _
      unfold execPowerUpLoad
      dsimp only
      rw [if_neg hgoes, hok]
  case go =>
    intro s p halive
    have hexec : exec (.partitionLoadGo p) s = .next (loadGo s p.val) := congrArg Host.Outcome.next (if_pos halive)
    refine ⟨fun hbusy => ?_, ?_, congrArg Host.Outcome.next (if_pos halive)⟩
    · rw [hexec]
      exact congrArg Host.Outcome.next (if_pos hbusy)
    · intro hidle n h s1
      rw [hexec]
      unfold loadGo
      dsimp only
      rw [if_neg (ne_true_of_eq_false hidle)]
      rfl
  case ready =>
    intro s p r verify x s0
    refine ⟨fun h => if_pos h, fun h => ⟨fun e i sig herr => ?_, fun hdr recs hok => ?_⟩, fun h => congrArg Host.Outcome.next (if_pos h),
      fun h => congrArg Host.Outcome.next (if_neg (ne_true_of_eq_false h))⟩
    · show execLoadReady p r verify s = _
      unfold execLoadReady
      dsimp only
      rw [if_neg (not_not.mpr h), herr]
    · show execLoadReady p r verify s = _
      unfold execLoadReady
      dsimp only
      rw [if_neg (not_not.mpr h), hok]
      rfl
  case boundary =>
    intro s p t x mhz hmhz hswap
    refine ⟨fun hdue hready hrestart => ?_, fun hdue hready hrestart => ?_, fun hdue hrestart => ?_⟩
    · rw [partitionBoundary_eq hmhz hswap (if_pos ⟨hdue, hready⟩).symm, if_pos hrestart]
      rfl
    · rw [partitionBoundary_eq hmhz hswap (if_pos ⟨hdue, hready⟩).symm, if_neg (ne_true_of_eq_false hrestart)]
    · rw [partitionBoundary_eq hmhz hswap (if_neg fun h => absurd h.1 (not_le.mpr hdue)).symm, if_neg (ne_true_of_eq_false hrestart)]

end Sys2Proof.Machine

/-! ## Configuration scrubbing (spec/13_phlox.md R463 to R468) -/

namespace Sys2Proof.Machine

open Sys2Proof.Safety

/-! ### The three copies of the control state -/

section Votes

theorem majority_first (a b : Nat) : majority a a b = a := by
  refine Nat.eq_of_testBit_eq fun i => ?_
  simp only [majority, Nat.testBit_or, Nat.testBit_and]
  cases a.testBit i <;> simp

theorem majority_outer (a b : Nat) : majority a b a = a := by
  refine Nat.eq_of_testBit_eq fun i => ?_
  simp only [majority, Nat.testBit_or, Nat.testBit_and]
  cases a.testBit i <;> simp

theorem majority_last (a b : Nat) : majority b a a = a := by
  refine Nat.eq_of_testBit_eq fun i => ?_
  simp only [majority, Nat.testBit_or, Nat.testBit_and]
  cases a.testBit i <;> simp

/-- What three copies of four words give. -/
def voted (a b c : List Nat) : List Nat := (List.range 4).map fun i => majority (a.getD i 0) (b.getD i 0) (c.getD i 0)

/-- A list of four words by its words. -/
theorem words_eq {c : List Nat} (h : c.length = 4) : ((List.range 4).map fun i => c.getD i 0) = c := by
  obtain ⟨w, x, y, z, rfl⟩ := List.length_eq_four.mp h
  rfl

/-- Of three copies the two that agree are what is read. -/
theorem voted_of_two {own hit : List Nat} (h : own.length = 4) : voted hit own own = own ∧ voted own hit own = own ∧ voted own own hit = own := by
  unfold voted
  simp only [majority_first, majority_outer, majority_last, words_eq h, and_self]

/-- A hit changes the copy that it names alone. -/
theorem hitCopy_one (own : List Nat) (h : ScrHit) (k : Nat) : hitCopy own k [h] = if h.copy.val = k then hitCopy own h.copy.val [h] else own := by
  by_cases hk : h.copy.val = k
  · rw [if_pos hk, hk]
  · rw [if_neg hk]
    exact if_neg hk

theorem scrVote_copies {s : State} {z : Nat} {hits : List ScrHit} {a b c : List Nat} (hcopies : [0, 1, 2].map (fun k => hitCopy (scrCtl s z) k hits) = [a, b, c])
    (hvoted : voted a b c = scrCtl s z) : scrVote z s hits = addF s (SCR_VOTE_VOTES z) ([a, b, c].filter (· != scrCtl s z)).length := by
  unfold scrVote
  dsimp only
  rw [hcopies]
  rw [show ((List.range 4).map fun i => majority (([a, b, c].getD 0 []).getD i 0) (([a, b, c].getD 1 []).getD i 0) (([a, b, c].getD 2 []).getD i 0)) = scrCtl s z from hvoted, if_pos rfl]

/-- A hit on one copy is out-voted; it counts where it changed the copy (R466). -/
theorem scrVote_one (s : State) (z : Nat) (h : ScrHit) :
    scrVote z s [h] = addF s (SCR_VOTE_VOTES z) (if hitCopy (scrCtl s z) h.copy.val [h] = scrCtl s z then 0 else 1) := by
  have hvoted := voted_of_two (own := scrCtl s z) (hit := hitCopy (scrCtl s z) h.copy.val [h]) rfl
  obtain ⟨hfirst, hsecond, hthird⟩ := hvoted
  have hcopy : h.copy.val = 0 ∨ h.copy.val = 1 ∨ h.copy.val = 2 := by omega
  have hone := hitCopy_one (scrCtl s z) h
  generalize hown : scrCtl s z = own at *
  generalize hhit : hitCopy own h.copy.val [h] = hit at *
  have hdissent : ∀ l, ([hit, own, own].filter (· != own)) = l ∨ ([own, hit, own].filter (· != own)) = l ∨ ([own, own, hit].filter (· != own)) = l →
      l.length = if hit = own then 0 else 1 := by
    rintro l (rfl | rfl | rfl) <;> by_cases heq : hit = own <;> simp [heq]
  rcases hcopy with hc | hc | hc
  · rw [scrVote_copies (a := hit) (b := own) (c := own) (by simp [hown, hone, hc]) (hfirst.trans hown.symm), hown, hdissent _ (.inl rfl)]
  · rw [scrVote_copies (a := own) (b := hit) (c := own) (by simp [hown, hone, hc]) (hsecond.trans hown.symm), hown, hdissent _ (.inr (.inl rfl))]
  · rw [scrVote_copies (a := own) (b := own) (c := hit) (by simp [hown, hone, hc]) (hthird.trans hown.symm), hown, hdissent _ (.inr (.inr rfl))]

/-- Votes leave the frames as they are. -/
theorem frames_scrVote (s : State) (z : Nat) (hits : List ScrHit) : (scrVote z s hits).frames = s.frames := by
  have hput : ∀ c, (putScrCtl s z c).frames = s.frames := fun c => by simp [putScrCtl, setScr]
  unfold scrVote
  dsimp only
  refine (setF_frames _ _ _).trans ?_
  split
  · rfl
  · exact hput _

theorem frames_votes {z : Nat} (hits : List (List ScrHit)) (s : State) : (hits.foldl (scrVote z) s).frames = s.frames :=
  List.foldlRecOn (motive := fun t : State => t.frames = s.frames) hits _ rfl fun t ht h _ => (frames_scrVote t z h).trans ht

end Votes

section Scrub

variable {s : State} {z : Fin 5}

/-- A frame of the configuration written whole. -/
def putFrame (s : State) (far v : Nat) : State := { s with frames := smPut (fun _ => 0) far v s.frames }

/-- What a scrubber does with its next frame, read after the votes (R463 to R466). -/
theorem exec_scrubFrame {errs : List (Fin 16 × SymErr)} {hits : List (List ScrHit)} {s0 : State} {far : Nat} {os : List (Ecc × Nat)} {care : Bool}
    (hlive : z.val < 4 → quadDark s z.val = false) (hs0 : s0 = hits.foldl (scrVote z.val) s) (hnext : nextFrame s0 z.val (getScr s0 z.val).pos = some far)
    (hruns : scrRuns s0 z.val = true) (hidle : (getScr s0 z.val).repair = none) (hos : os = frameOutcomes errs) (hcare : care = careHit s0 far errs) :
    exec (.scrubFrame z errs hits) s =
      let read := putFrame s0 far (asRead (smGet (fun _ => 0) s0.frames far) errs)
      let mended := putFrame s0 far (decodedFrame (smGet (fun _ => 0) s0.frames far) os)
      if os.any fun o => o.1 == .uncorrectable || o.1 == .address then
        (if isF s0 (SCR_CTL_REPAIR_EN z.val) then .next (setScr read z.val { getScr read z.val with pos := far, repair := some (far, care) })
        else .next (scrAdvance (scrLog read z.val far care false) z.val far))
      else
        (if os.all fun o => o.1 == .clean then .next (scrAdvance mended z.val far) else .next (scrAdvance (upset mended z.val far care false) z.val far)) := by
  have hdark : ¬ (z.val < 4 ∧ quadDark s z.val = true) := fun h => ne_true_of_eq_false (hlive h.1) h.2
  have hgoes : ¬ (scrRuns s0 z.val = false ∨ (getScr s0 z.val).repair.isSome = true) := not_or.mpr ⟨ne_false_of_eq_true hruns, by rw [hidle]; decide⟩
  subst hos
  subst hcare
  show execScrubFrame z errs hits s = _
  unfold execScrubFrame
  dsimp only
  rw [if_neg hdark, ← hs0, hnext]
  dsimp only
  rw [if_neg hgoes]
  rfl

/-- A repair under way of a scrubber that runs ends with the record, or without one (R464). -/
theorem exec_frameRepair {r : NvsRead} {far : Nat} {care : Bool} (hrepair : (getScr s z.val).repair = some (far, care)) (hruns : scrRuns s z.val = true) {s0 : State}
    (hs0 : s0 = setScr (noteNvs s r) z.val { getScr s z.val with repair := none }) :
    (recordFor s (farPart far) far r = none → exec (.frameRepair z r) s = .next (scrAdvance (upset s0 z.val far true false) z.val far)) ∧
    (∀ v, recordFor s (farPart far) far r = some v →
      let s1 := addF { s0 with frames := smPut (fun _ => 0) far v s0.frames } (SCR_CNT_COUNT z.val 2) 1
      let s2 := setScr s1 z.val { getScr s1 z.val with repairs := (getScr s z.val).repairs + 1 }
      exec (.frameRepair z r) s =
        .next (scrAdvance (upset (if 20 < (getScr s z.val).repairs + 1 then refreshScr (setF s2 (SCR_STAT_LONG z.val) 1) z.val else s2) z.val far care true) z.val far)) := by
  subst hs0
  refine ⟨fun hnone => ?_, fun v hv => ?_⟩
  · show execFrameRepair z r s = _
    unfold execFrameRepair
    dsimp only
    rw [hrepair]
    dsimp only
    rw [if_neg (ne_false_of_eq_true hruns), hnone]
  · intro s1 s2
    show execFrameRepair z r s = _
    unfold execFrameRepair
    dsimp only
    rw [hrepair]
    dsimp only
    rw [if_neg (ne_false_of_eq_true hruns), hv]

/-- A check that is due, of a scrubber in power: the target's, Primrose's in its place, or the hub's (R467, R468). -/
theorem exec_neighbourCheck {res : Fin 3} (hdue : checkDue s z.val = true) (hlive : z.val < 4 → quadDark s z.val = false) {s1 : State}
    (hs1 : s1 = setScr s z.val { getScr s z.val with checkDue := false }) :
    (4 ≤ z.val → exec (.neighbourCheck z res) s = .next (if res = 1 then haltScr s1 4 else s1)) ∧
    (z.val < 4 → nbrTarget s z.val = none → exec (.neighbourCheck z res) s =
      .next (if res = 1 then haltScr (setScr s1 z.val { getScr s1 z.val with primrose := now s }) z.val else setScr s1 z.val { getScr s1 z.val with primrose := now s })) ∧
    (∀ t, z.val < 4 → nbrTarget s z.val = some t → exec (.neighbourCheck z res) s = .next (match res with
      | 0 => addF (setF s1 (SCR_NBR_TARGET z.val) t) (SCR_NBR_OK z.val) 1
      | 1 => haltScr (refreshScr (setF (setF s1 (SCR_NBR_TARGET z.val) t) (SCR_NBR_FAIL z.val) 1) z.val) t
      | 2 => addF (setF s1 (SCR_NBR_TARGET z.val) t) (SCR_NBR_SKIPPED z.val) 1)) := by
  have hgoes : ¬ (checkDue s z.val = false ∨ (z.val < 4 ∧ quadDark s z.val = true)) :=
    not_or.mpr ⟨ne_false_of_eq_true hdue, fun h => ne_true_of_eq_false (hlive h.1) h.2⟩
  subst hs1
  refine ⟨fun hhub => (if_neg hgoes).trans (if_pos hhub), fun hquad hnone => ?_, fun t hquad ht => ?_⟩
  · show execNeighbourCheck z res s = _
    unfold execNeighbourCheck
    dsimp only
    rw [if_neg hgoes, if_neg (not_le.mpr hquad), hnone]
  · show execNeighbourCheck z res s = _
    unfold execNeighbourCheck
    dsimp only
    rw [if_neg hgoes, if_neg (not_le.mpr hquad), ht] <;> rfl

end Scrub

/-- Settles O50: a hit on one copy is out-voted by the other two; frames, repairs and checks by their tests. -/
theorem scrubbersCorrectAndCheckEachOther : Obligations.ScrubbersCorrectAndCheckEachOther := by
  refine ⟨?frame, ?idle, ?vote, ?repair, ?check, ?due, ?go⟩
  case frame =>
    intro s z errs hits far s0 os broken care read mended hlive hnext hruns hidle
    have hs0 : s0 = hits.foldl (scrVote z.val) s := rfl
    have hframes : s0.frames = s.frames := frames_votes hits s
    clear_value s0
    have hread : putFrame s0 far (asRead (smGet (fun _ => 0) s.frames far) errs) = read := rfl
    have hmended : putFrame s0 far (decodedFrame (smGet (fun _ => 0) s.frames far) os) = mended := rfl
    have hexec := exec_scrubFrame (s0 := s0) (os := os) (care := care) hlive hs0 hnext hruns hidle rfl rfl
    rw [hframes, hread, hmended] at hexec
    refine ⟨fun hwhole hclean => ?_, fun hwhole hcorr => ?_, fun hbroken hen => ?_, fun hbroken hoff => ?_⟩
    · exact hexec.trans ((if_neg (ne_true_of_eq_false hwhole)).trans (if_pos hclean))
    · exact hexec.trans ((if_neg (ne_true_of_eq_false hwhole)).trans (if_neg (ne_true_of_eq_false hcorr)))
    · exact hexec.trans ((if_pos hbroken).trans (if_pos hen))
    · exact hexec.trans ((if_pos hbroken).trans (if_neg (ne_true_of_eq_false hoff)))
  case idle =>
    intro s z errs hits s0 hlive hno
    have hdark : ¬ (z.val < 4 ∧ quadDark s z.val = true) := fun h => ne_true_of_eq_false (hlive h.1) h.2
    show execScrubFrame z errs hits s = _
    unfold execScrubFrame
    dsimp only
    rw [if_neg hdark]
    cases hnext : nextFrame (hits.foldl (scrVote z.val) s) z.val (getScr (hits.foldl (scrVote z.val) s) z.val).pos with
    | none => rfl
    | some far => exact if_pos (hno.resolve_left fun h => absurd (hnext.symm.trans h) (by simp))
  case vote =>
    intro s z h own hit
    rw [scrVote_one]
    exact ⟨fun hne => by rw [if_neg hne], fun heq => by rw [if_pos heq]⟩
  case repair =>
    intro s z r far care x s0 hrepair hruns
    exact exec_frameRepair hrepair hruns rfl
  case check =>
    intro s z res s1 halted
    refine ⟨fun hno => if_pos (.inl hno), fun hdue hlive => ?_⟩
    obtain ⟨hhub, halone, htarget⟩ := exec_neighbourCheck (res := res) hdue hlive rfl
    refine ⟨fun t hquad ht => ?_, fun hquad hnone => ?_, fun hz => ?_⟩
    · intro s2
      rw [htarget t hquad ht]
      exact ⟨fun h => by rw [h], fun h => by rw [h]; rfl, fun h => by rw [h]⟩
    · intro s2
      rw [halone hquad hnone]
      exact ⟨fun h => by rw [if_pos h]; rfl, fun h => by rw [if_neg h]⟩
    · rw [hhub (by omega)]
      exact ⟨fun h => by rw [if_pos h]; rfl, fun h => by rw [if_neg h]⟩
  case due =>
    intro s z
    refine ⟨fun h => if_neg ?_, fun hquad hnone => if_pos ⟨hquad, by rw [hnone]; rfl⟩⟩
    rintro ⟨hquad, hnone⟩
    rcases h with h | h
    · omega
    · rw [Option.isNone_iff_eq_none] at hnone
      rw [hnone] at h
      exact Bool.false_ne_true h
  case go =>
    intro s z hlive
    exact congrArg Host.Outcome.next (if_neg fun h => ne_true_of_eq_false (hlive h.1) h.2)

end Sys2Proof.Machine

/-! ## Rails and operating points (spec/14_power.md R470 to R477) -/

namespace Sys2Proof.Machine

open Sys2Proof.Safety

section Rails

variable {s : State} {r : Nat}

theorem railQuad_chip (h : r < 8) : railQuad r = none := if_pos h

theorem railQuad_quad (h : 8 ≤ r) : railQuad r = some ((r - 8) / 6) := if_neg (not_lt.mpr h)

theorem refreshRail_chip (h : r < 8) : refreshRail s r = refresh s 873 := by
  unfold refreshRail
  rw [railQuad_chip h]

theorem refreshRail_quad (h : 8 ≤ r) : refreshRail s r = refresh s (qSrc ((r - 8) / 6) 190) := by
  unfold refreshRail
  rw [railQuad_quad h]

/-- An error of a chip rail shows on source 873 (R470). -/
theorem railError_chip (h : r < 8) : railError s r = refresh (setF s (PRM_RAIL_STAT_PMB_ERR r) 1) 873 := by
  unfold railError
  dsimp only
  rw [refreshRail_chip h, railQuad_chip h]

/-- An error of a quadrant's rail shows in the quadrant, too. -/
theorem railError_quad (h : 8 ≤ r) :
    railError s r = refresh (setF (setF s (PRM_RAIL_STAT_PMB_ERR r) 1) (PWR_Q_IRQ_PMB_ERR ((r - 8) / 6)) 1) (qSrc ((r - 8) / 6) 190) := by
  unfold railError
  dsimp only
  rw [refreshRail_quad h, railQuad_quad h]

theorem railWrite_iff (c : Nat) : railWrite c = true ↔ c = 1 ∨ c = 0x20 ∨ c = 0x21 := decide_eq_true_iff

/-- A transaction that no managed rail refuses leaves, with its data where it is a write. -/
theorem exec_pmbusTransaction {nak : Bool} {d : BitVec 16} (h : ¬ (isF s PRM_PMB_CMD_WRITE = true ∧ railWrite (getF s PRM_PMB_CMD_CODE) = true)) {s1 : State}
    (hs1 : s1 = emit s (.pmbus (getF s PRM_PMB_CMD_RAIL) (getF s PRM_PMB_CMD_CODE) (if isF s PRM_PMB_CMD_WRITE then some (getF s PRM_PMB_DATA_DATA) else none))) :
    exec (.pmbusTransaction nak d) s = if nak then .next (railError (setF s1 PRM_PMB_STAT_NAK 1) (getF s PRM_PMB_CMD_RAIL))
      else if isF s PRM_PMB_CMD_WRITE then .next s1
      else .next (if getF s PRM_PMB_CMD_CODE = 0x79 ∧ statusFault d.toNat = true then railError (setF s1 PRM_PMB_DATA_DATA d.toNat) (getF s PRM_PMB_CMD_RAIL)
        else setF s1 PRM_PMB_DATA_DATA d.toNat) := by
  subst hs1
  exact if_neg h

end Rails

/-- Settles O51: every transaction, alert, settling and request by its tests. -/
theorem railsAndOperatingPoints : Obligations.RailsAndOperatingPoints := by
  refine ⟨?pmbus, ?alert, ?settled, ?request⟩
  case pmbus =>
    intro s nak d r c shown
    have hread : isF s PRM_PMB_CMD_WRITE = false → ¬ (isF s PRM_PMB_CMD_WRITE = true ∧ railWrite c = true) := fun hr h => ne_true_of_eq_false hr h.1
    have hwrite : ¬ (c = 1 ∨ c = 0x20 ∨ c = 0x21) → ¬ (isF s PRM_PMB_CMD_WRITE = true ∧ railWrite c = true) := fun hc h => hc ((railWrite_iff c).mp h.2)
    refine ⟨fun hw hc => if_pos ⟨hw, (railWrite_iff c).mpr hc⟩, fun hw hc => ?_, fun hw hc => ?_, fun hr hfault => ?_, fun hr hok => ?_, fun hr => ?_⟩
    · rw [exec_pmbusTransaction (hwrite hc) rfl, if_neg Bool.false_ne_true, if_pos hw, if_pos hw]
    · rw [exec_pmbusTransaction (hwrite hc) rfl, if_pos rfl, if_pos hw]
    · rw [exec_pmbusTransaction (hread hr) rfl, if_neg Bool.false_ne_true, if_neg (ne_true_of_eq_false hr), if_neg (ne_true_of_eq_false hr), if_pos hfault]
    · rw [exec_pmbusTransaction (hread hr) rfl, if_neg Bool.false_ne_true, if_neg (ne_true_of_eq_false hr), if_neg (ne_true_of_eq_false hr), if_neg hok]
    · rw [exec_pmbusTransaction (hread hr) rfl, if_pos rfl, if_neg (ne_true_of_eq_false hr)]
  case alert =>
    intro s rail e
    exact ⟨fun h => congrArg Host.Outcome.next (railError_chip h), fun h => congrArg Host.Outcome.next (railError_quad h)⟩
  case settled =>
    intro s rail v i r s1 t
    refine ⟨fun hnone => ?_, fun c hc => ?_⟩
    · show execVoltageSettled rail v i s = _
      unfold execVoltageSettled
      dsimp only
      rw [hnone]
    · intro s2
      refine ⟨fun hnear hchip => ?_, fun hnear hquad => ?_, fun hfar hlate => ?_, fun hfar htime => ?_⟩
      all_goals
        show execVoltageSettled rail v i s = _
        unfold execVoltageSettled
        dsimp only
        rw [hc]
        dsimp only
      · rw [if_pos hnear, railQuad_chip hchip]
      · rw [if_pos hnear, railQuad_quad hquad]
      · rw [if_neg (not_le.mpr hfar), if_pos hlate]
      · rw [if_neg (not_le.mpr hfar), if_neg (ne_true_of_eq_false htime)]
  case request =>
    intro s k op q v mine old s1
    have hexec : quadDark s q = false → exec (.opReqWrite k op) s = .next (writeOpReq s k.val op.toNat) := fun h => congrArg Host.Outcome.next (if_neg (ne_true_of_eq_false h))
    refine ⟨fun hdark => congrArg Host.Outcome.next (if_pos hdark), fun hlive hlow => ?_, fun hlive hhigh hok => ?_, fun hlive hhigh hrefused => ?_⟩
    · rw [hexec hlive]
      exact congrArg Host.Outcome.next (if_pos hlow)
    · rw [hexec hlive]
      exact congrArg Host.Outcome.next ((if_neg (not_lt.mpr hhigh)).trans (if_neg (ne_true_of_eq_false hok)))
    · rw [hexec hlive]
      exact congrArg Host.Outcome.next ((if_neg (not_lt.mpr hhigh)).trans (if_pos hrefused))

end Sys2Proof.Machine

/-! ## Cluster states (spec/14_power.md R478 to R485) -/

namespace Sys2Proof.Machine

open Sys2Proof.Safety

section Cluster

variable {s : State} {k : Fin 32}

/-- A cluster goes to depth d: GATE at once, its CSM cycle kept; NAP and SLEEP begin an entry (R478, R480). -/
def enterDepth (s : State) (k : Nat) : Nat → State
  | 0 =>
    let s1 := if getF s (PWR_CL_STAT_STATE k) = 0 then passCsm s k else s
    setCl (setF s1 (PWR_CL_STAT_STATE k) 1) k { getCl s1 k with need := false }
  | d + 1 => setCl (setF s (PWR_CL_STAT_STATE k) 4) k { getCl s k with need := false, entering := some (d + 2, now s) }

/-- A cluster that may enter goes as deep as is permitted (R480). -/
theorem exec_clusterEntry (hlive : quadDark s (k.val / 8) = false) (hstate : getF s (PWR_CL_STAT_STATE k.val) ≤ 1) (hidle : clusterIdle s k.val = true) (hcalm : levelWake s k.val = false) :
    (deepest s k.val = none → exec (.clusterEntry k) s = .next s) ∧ (∀ d, deepest s k.val = some d → exec (.clusterEntry k) s = .next (enterDepth s k.val d)) := by
  have hgoes : ¬ (quadDark s (k.val / 8) = true ∨ 1 < getF s (PWR_CL_STAT_STATE k.val) ∨ clusterIdle s k.val = false ∨ levelWake s k.val = true) :=
    not_or.mpr ⟨ne_true_of_eq_false hlive, not_or.mpr ⟨not_lt.mpr hstate, not_or.mpr ⟨ne_false_of_eq_true hidle, ne_true_of_eq_false hcalm⟩⟩⟩
  refine ⟨fun hnone => ?_, fun d hd => ?_⟩
  · show execClusterEntry k s = _
    unfold execClusterEntry
    rw [if_neg hgoes, hnone]
  · show execClusterEntry k s = _
    unfold execClusterEntry
    rw [if_neg hgoes, hd]
    cases d <;> rfl

theorem entryPs_state {st : Nat} (hlo : 0 < st) (hhi : st ≤ 3) : entryPs (st - 1) = if st = 1 then 8000 else if st = 2 then 500000 else 2000000 := by
  interval_cases st <;> rfl

/-- The state that an entry holds once it is over, SLEEP with its raises (R474, R478). -/
def heldState (s : State) (k st : Nat) : State :=
  let s1 := setCl (setF s (PWR_CL_STAT_STATE k) st) k { getCl s k with entering := none }
  if st = 3 then retarget (sleepRaises s1 k) (k / 8) else s1

/-- An entry under way ends after its time; a level event then up starts the wake (R478, R482). -/
theorem exec_entryComplete {st : Nat} {t : Int} (hent : (getCl s k.val).entering = some (st, t)) :
    exec (.entryComplete k) s =
      if getF s (PWR_CL_STAT_STATE k.val) ≠ 4 ∨ reached s (t + entryPs (st - 1)) = false then .next s
      else if levelWake (heldState s k.val st) k.val = true ∨ isF (heldState s k.val st) (PWR_CL_CTL_LOCK k.val) = true then
        .next (setCl (startWake (heldState s k.val st) k.val) k.val
          { getCl (startWake (heldState s k.val st) k.val) k.val with wake := some (max (t + entryPs (st - 1)) (now s)) })
      else .next (heldState s k.val st) := by
  show execEntryComplete k s = _
  unfold execEntryComplete
  rw [hent]
  rfl

theorem wakeFits_iff (asleep : Nat) (path : Fin 3) (e : Int) : wakeFits asleep path e = true ↔
    (path = 0 ∧ 0 ≤ e ∧ e ≤ (if asleep = 3 then 12000000 else 8000000)) ∨ (path = 1 ∧ 8000000 < e ∧ e ≤ (if asleep = 3 then 20000000 else 16000000)) ∨
      (path = 2 ∧ asleep = 3 ∧ 4000000 < e ∧ e ≤ 20000000) := by
  match path with
  | 0 => simp [wakeFits]
  | 1 => simp [wakeFits]
  | 2 => simp [wakeFits]

/-- A wake in progress ends in RUN within its limits (R484). -/
theorem exec_clusterWake {path : Fin 3} {dt : Nat} {t : Int} (hwake : (getCl s k.val).wake = some t) {s1 : State}
    (hs1 : s1 = setCl (setF (atDt s dt) (PWR_CL_STAT_STATE k.val) 0) k.val { getCl s k.val with wake := none, retry := false, csmT := 0 }) :
    exec (.clusterWake k path dt) s = if wakeFits (getCl s k.val).asleep path (now (atDt s dt) - t) = false then .next s
      else .next (deliverLatches (retarget (wakePoint (if path = 0 then s1
        else addF (setF s1 (PWR_CL_STAT_PLL k.val) (1 - getF s1 (PWR_CL_STAT_PLL k.val))) (PWR_CL_CNT_FALLBACK k.val) 1) k.val) (k.val / 8)) k.val) := by
  subst hs1
  show execClusterWake k path dt s = _
  unfold execClusterWake
  dsimp only
  rw [hwake]

/-- A wake in progress that is not over after 16 µs may fail (R485). -/
theorem execWakeFailure_some {t : Int} (hwake : (getCl s k.val).wake = some t) : exec (.wakeFailure k) s =
    if reached s (t + 16000000) = false then .next s
    else
      let c := getCl s k.val
      let s1 := setCl (setF s (PWR_CL_STAT_STATE k.val) 6) k.val { c with wake := none }
      let s2 := intPulse (addF s1 (PWR_CL_CNT_FAILED k.val) 1) (clSrc k.val 18)
      let here := fun (j : Job) => j.nodes.filter fun n => n.cluster == k.val && n.st != .ended
      let s3 := mapJobs s2 (fun j => here j != []) fun j => failJob (now s2) ⟨now s2, 0x20, 0x43, (here j).foldl (fun a n => min a n.idx) 0x3FF⟩ j
      let s4 := report (resourceLost s3 (k.val / 8))
        { at_ := now s, source := clSrc k.val 18, level := 1, cls := 0x07, action := 4, quad := k.val / 8, cluster := k.val % 8,
          context := [(getR s3 (PWR_CL_STAT k.val)).toNat, (getR s3 (PWR_CL_CNT k.val)).toNat] }
      .next (if c.retry then startRetry s4 k.val else s4) := by
  show execWakeFailure k s = _
  unfold execWakeFailure
  dsimp only
  rw [hwake]

end Cluster

/-- Settles O52: entry, wake, failure, pulse and retry by their tests. -/
theorem clustersSleepAndWake : Obligations.ClustersSleepAndWake := by
  refine ⟨?entry, ?complete, ?noEntry, ?wake, ?failure, ?commands⟩
  case entry =>
    intro s k may
    refine ⟨fun h => if_pos ?_, fun ⟨hlive, hstate, hidle, hcalm⟩ => (exec_clusterEntry hlive hstate hidle hcalm).1,
      fun ⟨hlive, hstate, hidle, hcalm⟩ => (exec_clusterEntry hlive hstate hidle hcalm).2 0,
      fun d ⟨hlive, hstate, hidle, hcalm⟩ => (exec_clusterEntry hlive hstate hidle hcalm).2 (d + 1)⟩
    by_contra hno
    simp only [not_or, not_lt, Bool.not_eq_true, Bool.not_eq_false] at hno
    exact h hno
  case complete =>
    intro s k st t hent e s1 s2 hlo hhi
    have hexec := exec_entryComplete hent
    rw [entryPs_state hlo hhi] at hexec
    rw [hexec]
    have hon : getF s (PWR_CL_STAT_STATE k.val) = 4 → reached s e = true → ¬ (getF s (PWR_CL_STAT_STATE k.val) ≠ 4 ∨ reached s e = false) := fun hstate hdone =>
      not_or.mpr ⟨not_not.mpr hstate, ne_false_of_eq_true hdone⟩
    refine ⟨fun h => if_pos h, fun hstate hdone hcalm hfree => ?_, fun hstate hdone hup => ?_⟩
    · exact (if_neg (hon hstate hdone)).trans (if_neg (not_or.mpr ⟨ne_true_of_eq_false hcalm, ne_true_of_eq_false hfree⟩))
    · exact (if_neg (hon hstate hdone)).trans (if_pos hup)
  case noEntry =>
    intro s k hnone
    show execEntryComplete k s = _
    unfold execEntryComplete
    rw [hnone]
  case wake =>
    intro s k path dt s0 c
    refine ⟨fun hnone => ?_, fun t hwake => ?_⟩
    · show execClusterWake k path dt s = _
      unfold execClusterWake
      dsimp only
      rw [hnone]
    · intro e fits s1
      have hfits : wakeFits c.asleep path e = true ↔ fits := wakeFits_iff ..
      rw [exec_clusterWake hwake rfl]
      refine ⟨fun h => if_pos (Bool.eq_false_iff.mpr (mt hfits.mp h)), fun h hpath => ?_, fun h hpath => ?_⟩
      · rw [if_neg (ne_false_of_eq_true (hfits.mpr h)), if_pos hpath]
      · rw [if_neg (ne_false_of_eq_true (hfits.mpr h)), if_neg hpath]
  case failure =>
    intro s k c
    refine ⟨fun hnone => ?_, fun t hwake htime => ?_, fun t hwake hlate => ?_⟩
    · show execWakeFailure k s = _
      unfold execWakeFailure
      dsimp only
      rw [hnone]
    · rw [execWakeFailure_some hwake, if_pos htime]
    · intro s1 s2 here s3 s4
      rw [execWakeFailure_some hwake, if_neg (ne_false_of_eq_true hlate)]
      exact ⟨fun h => congrArg Host.Outcome.next (if_neg (ne_true_of_eq_false h)), fun h => congrArg Host.Outcome.next (if_pos h)⟩
  case commands =>
    intro s k
    refine ⟨fun hdark => ⟨congrArg Host.Outcome.next (if_pos hdark), congrArg Host.Outcome.next (if_pos hdark)⟩, fun hlive => ?_⟩
    have hpulse : exec (.pulse k) s = .next (edgeWake s k.val) := congrArg Host.Outcome.next (if_neg (ne_true_of_eq_false hlive))
    have hretry : exec (.retry k) s = .next (retryWake s k.val) := congrArg Host.Outcome.next (if_neg (ne_true_of_eq_false hlive))
    rw [hpulse, hretry]
    refine ⟨fun hstate hfinal => congrArg Host.Outcome.next (if_pos ⟨hstate, hfinal⟩), fun h => congrArg Host.Outcome.next (if_neg ?_), fun hwake => congrArg Host.Outcome.next (if_pos hwake),
      fun hnone hfailed => ?_, fun hnone hsound => ?_⟩
    · rintro ⟨hstate, hfinal⟩
      rcases h with h | h
      · exact h hstate
      · exact ne_true_of_eq_false h hfinal
    · have hno : ¬ (getCl s k.val).wake.isSome = true := by rw [hnone]; decide
      exact congrArg Host.Outcome.next ((if_neg hno).trans (if_pos hfailed))
    · have hno : ¬ (getCl s k.val).wake.isSome = true := by rw [hnone]; decide
      exact congrArg Host.Outcome.next ((if_neg hno).trans (if_neg hsound))

end Sys2Proof.Machine

/-! ## Quadrant states and reinitialisation (spec/14_power.md R483, R486 to R489; spec/15_faults.md R506 to R508) -/

namespace Sys2Proof.Machine

open Sys2Proof.Safety

/-! ### A write of TARGET -/

section Target

variable {s : State} {q v : Nat}

theorem writeTarget_active (hv : min 2 v = 0) : writeTarget s q v =
    if getF s (PRM_Q_STAT_STATE q) = 2 then bootQuad (setF s (PRM_Q_CTL_TARGET q) (min 2 v)) q
    else if getF s (PRM_Q_STAT_STATE q) = 1 ∨ (getF s (PRM_Q_STAT_STATE q) = 3 ∧ (getQuad s q).toOff = false) then requestActive (setF s (PRM_Q_CTL_TARGET q) (min 2 v)) q
    else setF s (PRM_Q_CTL_TARGET q) (min 2 v) := by
  unfold writeTarget
  dsimp only
  rw [if_pos hv]

section Down

variable (hv : min 2 v ≠ 0) (hstate : getF s (PRM_Q_STAT_STATE q) = 0 ∨ (getF s (PRM_Q_STAT_STATE q) = 1 ∧ min 2 v = 2))
include hv hstate

theorem writeTarget_refused {c : Nat} (href : quadRefuser s q (min 2 v == 2) = some c) : writeTarget s q v = refuseQuad (setF s (PRM_Q_CTL_TARGET q) (min 2 v)) q c := by
  unfold writeTarget
  dsimp only
  rw [if_neg hv, if_pos hstate, href]

/-- A request that nothing refuses begins the entry, into OFF after a quadrant reset (R487, R489). -/
theorem writeTarget_begun (href : quadRefuser s q (min 2 v == 2) = none) {s1 s2 : State} (hs1 : s1 = setF s (PRM_Q_CTL_TARGET q) (min 2 v)) (hs2 : s2 = quadrantReset s1 q) :
    writeTarget s q v = if min 2 v = 1 then setQuad (setF s1 (PRM_Q_STAT_STATE q) 3) q { getQuad s1 q with entering := some (now s), toOff := false }
      else setQuad (setF s2 (PRM_Q_STAT_STATE q) 3) q { getQuad s2 q with entering := some (now s), toOff := true } := by
  subst hs1
  subst hs2
  unfold writeTarget
  dsimp only
  rw [if_neg hv, if_pos hstate, href]

end Down

theorem writeTarget_ignored (hv : min 2 v ≠ 0) (hstate : ¬ (getF s (PRM_Q_STAT_STATE q) = 0 ∨ (getF s (PRM_Q_STAT_STATE q) = 1 ∧ min 2 v = 2))) :
    writeTarget s q v = setF s (PRM_Q_CTL_TARGET q) (min 2 v) := by
  unfold writeTarget
  dsimp only
  rw [if_neg hv, if_neg hstate]

/-- What the two bits of TARGET ask for: 2 and 3 are OFF. -/
theorem target_bits (w : BitVec 2) : (w ≠ 0 → min 2 w.toNat ≠ 0) ∧ (w ≠ 0 → (min 2 w.toNat = 2 ↔ w ≠ 1)) ∧ (w ≠ 0 → (min 2 w.toNat == 2) = (w != 1)) := by
  revert w
  decide

end Target

/-! ### The end of an entry -/

section Entry

variable {s : State} {q : Fin 4}

/-- An entry under way ends after its time, and a request for ACTIVE made meanwhile takes effect (R478, R482, R489). -/
theorem exec_quadrantEntryComplete {t : Int} (hent : (getQuad s q.val).entering = some t) {s1 : State}
    (hs1 : s1 = setQuad s q.val { getQuad s q.val with entering := none, toOff := false }) :
    exec (.quadrantEntryComplete q) s =
      if reached s (t + (if (getQuad s q.val).toOff then 1000000000 else 50000000)) = false then .next s
      else if (getQuad s q.val).toOff then
        .next (if getF s (PRM_Q_CTL_TARGET q.val) == 0 then bootQuad (setF s1 (PRM_Q_STAT_STATE q.val) 2) q.val else setF s1 (PRM_Q_STAT_STATE q.val) 2)
      else .next (if getF s (PRM_Q_CTL_TARGET q.val) == 0 then requestActive (retarget (sleepAll (setF s1 (PRM_Q_STAT_STATE q.val) 1) q.val) q.val) q.val
        else retarget (sleepAll (setF s1 (PRM_Q_STAT_STATE q.val) 1) q.val) q.val) := by
  subst hs1
  show execQuadrantEntryComplete q s = _
  unfold execQuadrantEntryComplete
  dsimp only
  rw [hent]

/-- The end of a boot that is under way (R489). -/
theorem exec_quadrantBoot {ok : Bool} {t : Int} (hboot : (getQuad s q.val).booting = some t) {s1 : State} (hs1 : s1 = setQuad s q.val { getQuad s q.val with booting := none }) :
    exec (.quadrantBoot q ok) s = .next (if ok = true ∧ reached s (t + 50000000000) = false then setF s1 (PRM_Q_STAT_STATE q.val) 0
      else intPulse (setF (setF s1 (PRM_Q_STAT_STATE q.val) 2) (PRM_Q_STAT_BOOT_FAIL q.val) 1) 808) := by
  subst hs1
  show execQuadrantBoot q ok s = _
  unfold execQuadrantBoot
  dsimp only
  rw [hboot]

/-- The record of the job at the head of the hub's writer goes out while the link lets it (R508). -/
theorem exec_reinitialisationRecordWrite {dt : Nat} {j : Job} {rest : List Job} (hrecs : (getQuad s q.val).records = j :: rest) {s1 : State}
    (hs1 : s1 = setQuad (atDt s dt) q.val { getQuad (atDt s dt) q.val with records := rest }) :
    exec (.reinitialisationRecordWrite q dt) s = if getF s CXL_LINK_STAT_RATE = 0 ∨ now (atDt s dt) < s.linkHeld then .next s
      else .next (if j.lost then loseRecord s1 else withMirror s1 q.val fun m => queueRec m true { ring := j.ring, irq := j.cmd.irq, rec_ := jobRec j, hub := true }) := by
  subst hs1
  show execReinitialisationRecordWrite q dt s = _
  unfold execReinitialisationRecordWrite
  dsimp only
  rw [hrecs]

end Entry

/-! ### The records that the hub writes -/

section Hub

variable {m : State} {r a : Nat} {x : Rec}

theorem now_recordPlaced (b : Bool) : now (recordPlaced m r a b x) = now m := by
  unfold recordPlaced
  rw [wrBytes_eq]
  exact now_entryTaken b

/-- A record of the hub's is shown, and counted where it is late (R508). -/
theorem recorded_of_hub {y : PendRec} (hjob : y.job = none) (hhub : y.hub = true) :
    recorded m y = if (match y.rec_.due with | some d => decide (d < now m) | none => false) then addF (showRecord m y) (PRM_REINIT_CNT_LATE (y.ring / 64)) 1 else showRecord m y := by
  unfold recorded
  dsimp only
  rw [hjob, hhub]
  rfl

theorem isLate_iff (due : Option Int) (t : Int) : (match due with | some d => decide (d < t) | none => false) = true ↔ ∃ d : Int, due = some d ∧ d < t := by
  cases due <;> simp

theorem queueRec_reserved (m : State) (y : PendRec) : queueRec m true y = sendRecs y.ring (m.recs.length + 2) (withRec m y) := by
  have hlen : (withRec m y).recs.length = m.recs.length + 1 := by
    unfold withRec
    rw [List.length_append]
    rfl
  have hqueue : queueRec m true y = writeRecs (withRec m y) y.ring := by
    unfold queueRec withRec
    dsimp only
    rw [if_pos rfl]
  rw [hqueue, writeRecs, hlen]

theorem addF_recs (s : State) (f : Field) (k : Nat) : (addF s f k).recs = s.recs := setF_recs s f _

/-- A record of the hub's whose entry is open is written as it falls due. -/
theorem queueRec_hub (hout : isRefusal x.outcome = false) (h : EntryOpen m r a) {y : PendRec} (hy : y = { ring := r, irq := false, rec_ := x, hub := true }) :
    ((∃ d : Int, x.due = some d ∧ d < now m) → queueRec m true y = addF (showRecord (recordPlaced m r a true x) y) (PRM_REINIT_CNT_LATE (r / 64)) 1) ∧
    (¬ (∃ d : Int, x.due = some d ∧ d < now m) → queueRec m true y = showRecord (recordPlaced m r a true x) y) := by
  have hnone := h.2.1
  have hshown : ∀ z ∈ (showRecord (recordPlaced m r a true x) y).recs, z.ring ≠ r := by
    rw [showRecord_recs (by rw [hy]; exact hout), recordPlaced_recs]
    exact hnone
  have hring : y.ring = r := by rw [hy]
  have hsend : queueRec m true y = sendRecs r (m.recs.length + 1) (recorded (recordPlaced m r a true x) y) := by
    have hopen := sendRecs_of_open (s := m) (a := a) true (p := y) (by rw [hy]) (m.recs.length + 1) (by rw [hy]; exact h)
    have hrec : y.rec_ = x := by rw [hy]
    rw [hrec, hring] at hopen
    rw [queueRec_reserved, hring]
    exact hopen
  have hrec := recorded_of_hub (m := recordPlaced m r a true x) (y := y) (by rw [hy]) (by rw [hy])
  rw [now_recordPlaced] at hrec
  have hdue : y.rec_.due = x.due := by rw [hy]
  rw [hdue, hring] at hrec
  refine ⟨fun hlate => ?_, fun htime => ?_⟩
  · rw [hsend, hrec, if_pos ((isLate_iff _ _).mpr hlate)]
    refine sendRecs_of_none _ ?_
    rw [addF_recs]
    exact hshown
  · rw [hsend, hrec, if_neg (mt (isLate_iff _ _).mp htime)]
    exact sendRecs_of_none _ hshown

end Hub

/-- Settles O53: every request and end by its tests; a record of the hub's as one that is written as it falls due. -/
theorem quadrantsSleepBootAndReset : Obligations.QuadrantsSleepBootAndReset := by
  refine ⟨?target, ?entered, ?woken, ?boot, ?reinit, ?records, ?late⟩
  case target =>
    intro s q v s1 st
    obtain ⟨hdown, hoff, hoffBit⟩ := target_bits v
    have hexec : exec (.quadrantTargetWrite q v) s = .next (writeTarget s q.val v.toNat) := rfl
    rw [hexec]
    refine ⟨fun hv hst => ?_, fun hv hst => ?_, fun hv h2 h1 h3 => ?_, fun hv hst c href => ?_, fun hv hst href => ?_, ?_, fun hv hst => ?_⟩
    · have hzero : min 2 v.toNat = 0 := by rw [hv]; rfl
      rw [writeTarget_active hzero, if_pos hst]
    · have hzero : min 2 v.toNat = 0 := by rw [hv]; rfl
      have hnot : ¬ st = 2 := by omega
      rw [writeTarget_active hzero, if_neg hnot, if_pos hst]
    · have hzero : min 2 v.toNat = 0 := by rw [hv]; rfl
      have hnot : ¬ (st = 1 ∨ (st = 3 ∧ (getQuad s q.val).toOff = false)) := by
        rintro (h | ⟨h, hto⟩)
        · exact h1 h
        · exact h3.elim (fun h' => h' h) fun h' => ne_true_of_eq_false hto h'
      rw [writeTarget_active hzero, if_neg h2, if_neg hnot]
    · rw [writeTarget_refused (hdown hv) (hst.imp_right fun h => ⟨h.1, (hoff hv).mpr h.2⟩) (by rw [hoffBit hv]; exact href)]
    · have hne : v ≠ 0 := by rw [hv]; decide
      rw [writeTarget_begun (hdown hne) (.inl hst) (by rw [hoffBit hne, hv]; exact href) rfl rfl, if_pos (by rw [hv]; rfl)]
    · intro hv h1 hst href s2
      have htwo := (hoff hv).mpr h1
      have hdue : st = 0 ∨ (st = 1 ∧ min 2 v.toNat = 2) := by omega
      rw [writeTarget_begun (hdown hv) hdue (by rw [htwo]; exact href) rfl rfl, if_neg (by omega)]
    · rw [writeTarget_ignored (hdown hv) fun h => hst (h.imp_right fun h => ⟨h.1, (hoff hv).mp h.2⟩)]
  case entered =>
    intro s q x s1 sOff sDor
    refine ⟨fun hnone => ?_, fun t hent => ?_⟩
    · show execQuadrantEntryComplete q s = _
      unfold execQuadrantEntryComplete
      dsimp only
      rw [hnone]
    · rw [exec_quadrantEntryComplete hent rfl]
      refine ⟨fun h => if_pos h, fun hdone hto hno => ?_, fun hdone hto hagain => ?_, fun hdone hto hno => ?_, fun hdone hto hagain => ?_⟩
      · rw [if_pos hto, if_neg (ne_false_of_eq_true hdone), if_pos hto, if_neg (by rwa [beq_iff_eq])]
      · rw [if_pos hto, if_neg (ne_false_of_eq_true hdone), if_pos hto, if_pos (by rwa [beq_iff_eq])]
      · rw [if_neg (ne_true_of_eq_false hto), if_neg (ne_false_of_eq_true hdone), if_neg (ne_true_of_eq_false hto), if_neg (by rwa [beq_iff_eq])]
      · rw [if_neg (ne_true_of_eq_false hto), if_neg (ne_false_of_eq_true hdone), if_neg (ne_true_of_eq_false hto), if_pos (by rwa [beq_iff_eq])]
  case woken =>
    intro s q
    exact ⟨fun h => congrArg Host.Outcome.next (if_pos h), fun h => congrArg Host.Outcome.next (if_neg h)⟩
  case boot =>
    intro s q ok t x s1 hboot
    rw [exec_quadrantBoot hboot rfl]
    refine ⟨fun hok htime => congrArg Host.Outcome.next (if_pos ⟨hok, htime⟩), fun h => congrArg Host.Outcome.next (if_neg ?_)⟩
    rintro ⟨hok, htime⟩
    rcases h with h | h
    · exact ne_true_of_eq_false h hok
    · exact ne_true_of_eq_false htime h
  case reinit =>
    intro s q
    refine ⟨rfl, rfl, rfl, fun ts es bs => ⟨fun hnone => congrArg Host.Outcome.next (if_neg ?_), fun h => congrArg Host.Outcome.next (if_pos h)⟩⟩
    rw [hnone]
    decide
  case records =>
    intro s q dt s0
    refine ⟨fun hnone => ?_, fun j rest hrecs => ?_⟩
    · show execReinitialisationRecordWrite q dt s = _
      unfold execReinitialisationRecordWrite
      dsimp only
      rw [hnone]
    · intro s1
      rw [exec_reinitialisationRecordWrite hrecs rfl]
      refine ⟨fun h => if_pos h, fun h => ⟨fun hlost => ?_, fun hkept => ?_⟩⟩
      · exact (if_neg h).trans (congrArg Host.Outcome.next (if_pos hlost))
      · exact (if_neg h).trans (congrArg Host.Outcome.next (if_neg (ne_true_of_eq_false hkept)))
  case late =>
    intro m r a x hr hout hcan hopen y
    exact ⟨_, recordShown_showRecord (p := y) true hcan hopen.1 hout, queueRec_hub hout hopen rfl⟩

end Sys2Proof.Machine

/-! ## Chip resets, supplies and temperature (spec/14_power.md R490 to R495) -/

namespace Sys2Proof.Machine

open Sys2Proof.Safety

/-! ### What the steps of a chip reset after PRM_RST leave -/

section Reset

variable {s t u : State}

/-- Only registers, interrupt sources, clusters and Foxglove differ, and PRM_RST does not. -/
def ResetShows (s t : State) : Prop := t = { s with regs := t.regs, ints := t.ints, clusters := t.clusters, fox := t.fox } ∧ getR t PRM_RST = getR s PRM_RST

theorem ResetShows.refl (s : State) : ResetShows s s := ⟨rfl, rfl⟩

theorem ResetShows.trans (h1 : ResetShows s t) (h2 : ResetShows t u) : ResetShows s u := by
  obtain ⟨hfields1, hrst1⟩ := h1
  obtain ⟨hfields2, hrst2⟩ := h2
  refine ⟨?_, hrst2.trans hrst1⟩
  rw [hfields2, hfields1]

theorem resetShows_of_onlyRegs (h : OnlyRegs s t) (hrst : getR t PRM_RST = getR s PRM_RST) : ResetShows s t := by
  refine ⟨?_, hrst⟩
  unfold OnlyRegs at h
  rw [h]

theorem resetShows_setF {f : Field} (v : Nat) (hf : f.lo + f.w ≤ 32) (ha : PRM_RST ≠ f.addr) : ResetShows s (setF s f v) :=
  resetShows_of_onlyRegs (onlyRegs_setF s f v) (getR_setF_other ha (.inl hf))

theorem resetShows_foldl {α : Type} {f : State → α → State} (hf : ∀ s x, ResetShows s (f s x)) (l : List α) (s : State) : ResetShows s (l.foldl f s) :=
  List.foldlRecOn (motive := ResetShows s) l _ (.refl s) fun _ ht x _ => ht.trans (hf _ x)

theorem resetShows_setTilemap (k i v : Nat) : ResetShows s (setTilemap s k i v) := by
  refine ⟨rfl, getR_setR_other _ ?_⟩
  unfold PRM_RST PWR_CL_TILEMAP pwrcBase clusterBase quadBase prmBase
  omega

/-- The tiles of a cluster at a boot. -/
theorem resetShows_bootTiles (s : State) (k : Nat) : ResetShows s (bootTiles s k) := by
  have hrst : ∀ i j, PRM_RST ≠ PRM_TILES i j := fun i j => by
    unfold PRM_RST PRM_TILES prmBase
    omega
  unfold bootTiles
  dsimp only
  refine ResetShows.trans ?_ (ResetShows.trans (resetShows_foldl (fun u x => resetShows_setTilemap k x _) _ _) ⟨rfl, rfl⟩)
  exact (resetShows_setF (f := PRM_TILES_RETIRED _ _) _ (by simp [PRM_TILES_RETIRED]) (hrst _ _)).trans (resetShows_setF (f := PRM_TILES_TESTING _ _) _ (by simp [PRM_TILES_TESTING]) (hrst _ _))

/-- The state of a chip reset in which PRM_RST has just been written. -/
def resetShown (s : State) (c rail : Nat) : State :=
  let s0 := report s { at_ := now s, level := 3, cls := 0x20, action := 6, context := [c, rail] }
  let s1 := keptFields.foldl (fun t f => setF t f (getF s f)) (survivors s0)
  setF (setF (setF s1 LKS_STATUS_CLK_SRC (ofBool (refAbsent s))) PRM_RST_CAUSE c) PRM_RST_RAIL rail

theorem resetShows_chipReset (s : State) (c rail : Nat) : ResetShows (resetShown s c rail) (chipReset s c rail) := by
  have hrail : ∀ i, PRM_RST ≠ PRM_RAIL_CFG i := fun i => by
    unfold PRM_RST PRM_RAIL_CFG prmBase
    omega
  have hmap : ∀ (u : State) (x : Nat × Nat), ResetShows u (setF (setF u (PRM_RAIL_CFG_ADDR x.1) (bitsOf x.2 0 7)) (PRM_RAIL_CFG_PAGE x.1) (bitsOf x.2 8 4)) := fun u x =>
    (resetShows_setF (f := PRM_RAIL_CFG_ADDR x.1) _ (by simp [PRM_RAIL_CFG_ADDR]) (hrail _)).trans (resetShows_setF (f := PRM_RAIL_CFG_PAGE x.1) _ (by simp [PRM_RAIL_CFG_PAGE]) (hrail _))
  have hboot := (resetShows_foldl hmap (resetShown s c rail).fox.railMap (resetShown s c rail)).trans (resetShows_foldl resetShows_bootTiles (List.range 32) _)
  refine hboot.trans ?_
  have htail : ∀ u : State, ResetShows u (if u.fox.tamperOff then refresh (setF { u with fox := { u.fox with tamperOff := false } } FXG_IRQ_TAMPER_SEEN 1) 816 else u) := fun u => by
    split
    · have hfox : ResetShows u { u with fox := { u.fox with tamperOff := false } } := ⟨rfl, rfl⟩
      exact hfox.trans ((resetShows_setF (f := FXG_IRQ_TAMPER_SEEN) 1 (by decide) (by decide)).trans (resetShows_of_onlyRegs (onlyRegs_refresh _ _) (getR_congr (refresh_regs _ _) _)))
    · exact .refl u
  exact htail _

theorem getF_of_rst {f : Field} (h : getR t PRM_RST = getR s PRM_RST) (ha : f.addr = PRM_RST) (hf : f.lo + f.w ≤ 32) : getF t f = getF s f := by
  rw [getF_narrow _ hf, getF_narrow _ hf, ha, h]

/-- PRM_RST shows the cause and the rail of a chip reset (R493). -/
theorem chipReset_shows {c rail : Nat} (hc : c < 16) (hrail : rail < 32) : getF (chipReset s c rail) PRM_RST_CAUSE = c ∧ getF (chipReset s c rail) PRM_RST_RAIL = rail := by
  have hrst := (resetShows_chipReset s c rail).2
  have hkept : ∀ (l : List Field) (u : State), smWf regReset u.regs = true → smWf regReset (l.foldl (fun t f => setF t f (getF s f)) u).regs = true := fun l u hu =>
    List.foldlRecOn (motive := fun t : State => smWf regReset t.regs = true) l _ hu fun t ht f _ => setF_regs_wf _ _ ht
  have hwf := setF_regs_wf LKS_STATUS_CLK_SRC (ofBool (refAbsent s)) (hkept keptFields (survivors (report s { at_ := now s, level := 3, cls := 0x20, action := 6, context := [c, rail] })) rfl)
  rw [getF_of_rst hrst rfl (by decide), getF_of_rst hrst rfl (by decide)]
  unfold resetShown
  refine ⟨?_, ?_⟩
  · rw [getF_setF_other _ (by decide) (by decide) (setF_regs_wf _ _ hwf) (by decide), getF_setF_same _ (by decide) hwf]
    exact Nat.mod_eq_of_lt hc
  · rw [getF_setF_same _ (by decide) (setF_regs_wf _ _ hwf)]
    exact Nat.mod_eq_of_lt hrail

/-- The fields of the state that a chip reset leaves as `survivors` gives them. -/
theorem resetShown_survivors (s : State) (c rail : Nat) :
    OnlyRegs (survivors (report s { at_ := now s, level := 3, cls := 0x20, action := 6, context := [c, rail] })) (resetShown s c rail) := by
  have hkept : ∀ (l : List Field) (u : State), OnlyRegs u (l.foldl (fun t f => setF t f (getF s f)) u) := fun l u =>
    List.foldlRecOn (motive := OnlyRegs u) l _ (.refl u) fun t ht f _ => ht.trans (onlyRegs_setF t f _)
  unfold resetShown
  exact (hkept _ _).trans ((onlyRegs_setF _ _ _).trans ((onlyRegs_setF _ _ _).trans (onlyRegs_setF _ _ _)))

/-- What a chip reset empties and what it keeps (R493). -/
theorem chipReset_fields (s : State) (c rail : Nat) : (chipReset s c rail).jobs = [] ∧ (chipReset s c rail).rings = [] ∧ (chipReset s c rail).plans = [] ∧
    (chipReset s c rail).progs = [] ∧ (chipReset s c rail).tiles = [] ∧ (chipReset s c rail).mem = (s.mem.filter fun x => decide (nvsFlat ≤ x.1)) ∧
    (chipReset s c rail).pending = s.pending ∧ (chipReset s c rail).perst = s.perst ∧
    (chipReset s c rail).frPend = s.frPend ++ [{ at_ := now s, level := 3, cls := 0x20, action := 6, context := [c, rail] }] := by
  have hshown := (resetShows_chipReset s c rail).1
  have hsurvive := resetShown_survivors s c rail
  unfold OnlyRegs at hsurvive
  rw [hshown, hsurvive]
  exact ⟨rfl, rfl, rfl, rfl, rfl, rfl, rfl, rfl, rfl⟩

end Reset

/-! ### A reinitialisation and a lane-rail reset -/

section Reinit

variable {s : State} {q : Nat}

/-- The cause, the count and the event of a reinitialisation in their registers. -/
def reinitCounted (u : State) (q c : Nat) : State := setBitF (addF (setF u (PRM_REINIT_CAUSE_CAUSE q) c) (PRM_REINIT_CNT_COUNT q) 1) PRM_EVT_REINIT q

theorem reinitCounted_shows {u : State} {c : Nat} (hc : c < 8) (hwf : smWf regReset u.regs = true) :
    getF (reinitCounted u q c) (PRM_Q_STAT_STATE q) = getF u (PRM_Q_STAT_STATE q) ∧ getF (reinitCounted u q c) (PRM_REINIT_CAUSE_CAUSE q) = c := by
  have haddr : PRM_Q_STAT q ≠ PRM_REINIT_CAUSE q ∧ PRM_Q_STAT q ≠ PRM_REINIT_CNT q ∧ PRM_Q_STAT q ≠ PRM_EVT ∧ PRM_REINIT_CAUSE q ≠ PRM_REINIT_CNT q ∧ PRM_REINIT_CAUSE q ≠ PRM_EVT := by
    unfold PRM_Q_STAT PRM_REINIT_CAUSE PRM_REINIT_CNT PRM_EVT prmBase
    omega
  obtain ⟨hcause, hcnt, hevt, hcnt', hevt'⟩ := haddr
  have hwf1 := setF_regs_wf (PRM_REINIT_CAUSE_CAUSE q) c hwf
  have hwf2 : smWf regReset (addF (setF u (PRM_REINIT_CAUSE_CAUSE q) c) (PRM_REINIT_CNT_COUNT q) 1).regs = true := setF_regs_wf _ _ hwf1
  have hstate32 : (PRM_Q_STAT_STATE q).lo + (PRM_Q_STAT_STATE q).w ≤ 32 := by simp [PRM_Q_STAT_STATE]
  have hcause32 : (PRM_REINIT_CAUSE_CAUSE q).lo + (PRM_REINIT_CAUSE_CAUSE q).w ≤ 32 := by simp [PRM_REINIT_CAUSE_CAUSE]
  have hcount32 : (PRM_REINIT_CNT_COUNT q).lo + (PRM_REINIT_CNT_COUNT q).w ≤ 32 := by simp [PRM_REINIT_CNT_COUNT]
  unfold reinitCounted setBitF
  refine ⟨?_, ?_⟩
  · rw [getF_setF_other (f := PRM_EVT_REINIT) _ (by decide) hstate32 hwf2 (.inl hevt), addF, getF_setF_other _ hcount32 hstate32 hwf1 (.inl hcnt), getF_setF_other _ hcause32 hstate32 hwf (.inl hcause)]
  · rw [getF_setF_other (f := PRM_EVT_REINIT) _ (by decide) hcause32 hwf2 (.inl hevt'), addF, getF_setF_other _ hcount32 hcause32 hwf1 (.inl hcnt'), getF_setF_same _ hcause32 hwf]
    exact Nat.mod_eq_of_lt hc

/-- A reinitialisation begins with the quadrant reset (R506). -/
theorem startReinit_begun {c : Nat} (hstate : getF s (PRM_Q_STAT_STATE q) ≠ 2) (hent : (getQuad s q).entering = none) (hidle : (getQuad s q).reinit = none) :
    ∃ x e, startReinit s q c = report (intPulse (reinitCounted (setQuad (setF (quadrantReset s q) (PRM_Q_STAT_STATE q) 6) q x) q c) 808) e := by
  have hgoes : ¬ (getF s (PRM_Q_STAT_STATE q) = 2 ∨ ((getQuad s q).entering.isSome = true ∧ (getQuad s q).toOff = true)) := by
    rw [hent]
    exact not_or.mpr ⟨hstate, fun h => Bool.false_ne_true h.1⟩
  unfold startReinit
  dsimp only
  rw [if_neg hgoes, hidle, if_neg (by decide)]
  exact ⟨_, _, rfl⟩

/-- It shows its state and cause. -/
theorem startReinit_shows {c : Nat} (hc : c < 8) (hcan : Canonical s) (hstate : getF s (PRM_Q_STAT_STATE q) ≠ 2) (hent : (getQuad s q).entering = none) (hidle : (getQuad s q).reinit = none) :
    getF (startReinit s q c) (PRM_Q_STAT_STATE q) = 6 ∧ getF (startReinit s q c) (PRM_REINIT_CAUSE_CAUSE q) = c := by
  have hkept : Keeps ⟨s.pending, True, False⟩ (quadrantReset s q) := quadrantReset_keeps ⟨rfl, fun _ => hcan.1, fun _ => hcan.2, False.elim, False.elim⟩
  have hwf := hkept.regs trivial
  have hset : getF (setF (quadrantReset s q) (PRM_Q_STAT_STATE q) 6) (PRM_Q_STAT_STATE q) = 6 := getF_setF_same _ (by simp [PRM_Q_STAT_STATE]) hwf
  have hwf6 := setF_regs_wf (PRM_Q_STAT_STATE q) 6 hwf
  have hfinal : ∀ (u : State) (e : FrEntry) (f : Field), getF (report (intPulse u 808) e) f = getF u f := fun u e f => getF_congr (intPulse_regs u 808) f
  have hquad : ∀ (u : State) (x : QuadHw) (f : Field), getF (setQuad u q x) f = getF u f := fun u x f => getF_congr (s := u) rfl f
  obtain ⟨x, e, hbegun⟩ := startReinit_begun (c := c) hstate hent hidle
  obtain ⟨hshown, hcause⟩ := reinitCounted_shows (q := q) (u := setQuad (setF (quadrantReset s q) (PRM_Q_STAT_STATE q) 6) q x) hc hwf6
  rw [hbegun, hfinal, hfinal]
  exact ⟨hshown.trans ((hquad _ _ _).trans hset), hcause⟩

/-- A lane-rail reset shows itself in the quadrant (R493). -/
theorem laneReset_shows (hcan : Canonical s) : isF (laneReset s q) (PWR_Q_IRQ_LANE_RESET q) = true := by
  have hkept : Keeps ⟨s.pending, True, False⟩ ((List.range 16).foldl (fun s i => disableLane s (16 * q + i)) s) :=
    keeps_foldl (fun _ _ h => disableLane_keeps h) _ ⟨rfl, fun _ => hcan.1, fun _ => hcan.2, False.elim, False.elim⟩
  have hset : getF (laneReset s q) (PWR_Q_IRQ_LANE_RESET q) = 1 :=
    (getF_congr (refresh_regs _ _) _).trans (getF_setF_same _ (by simp [PWR_Q_IRQ_LANE_RESET]) (hkept.regs trivial))
  unfold isF
  rw [hset]
  rfl

end Reinit

/-! ### Supplies -/

section Supply

variable {s : State} {rail : Fin 32} {uv ns : Nat}

theorem exec_supplyWarning_none (h : ns < 100 ∨ monitored s rail.val = false ∨ below s rail.val uv 940 = false) : exec (.supplyWarning rail uv ns) s = .next s := if_pos h

theorem exec_supplyReset_none (h : ns < 20 ∨ monitored s rail.val = false ∨ below s rail.val uv 880 = false) : exec (.supplyReset rail uv ns) s = .next s := if_pos h

section Chip

variable (hchip : rail.val < 8)
include hchip

theorem exec_supplyWarning_chip (hns : 100 ≤ ns) (hmon : monitored s rail.val = true) (hlow : below s rail.val uv 940 = true) {s1 : State}
    (hs1 : s1 = refresh (setBitF s PRM_MON_WARN_WARN rail.val) (840 + rail.val)) : exec (.supplyWarning rail uv ns) s =
      .next (report s1 { at_ := now s, source := 840 + rail.val, level := 3, cls := 0x22, quad := 0, context := [(getR s1 PRM_MON_WARN).toNat] }) := by
  subst hs1
  show execSupplyWarning rail uv ns s = _
  unfold execSupplyWarning
  dsimp only
  rw [if_neg (not_or.mpr ⟨not_lt.mpr hns, not_or.mpr ⟨ne_false_of_eq_true hmon, ne_false_of_eq_true hlow⟩⟩), railQuad_chip hchip, if_pos hchip]
  rfl

theorem exec_supplyReset_chip (hns : 20 ≤ ns) (hmon : monitored s rail.val = true) (hlow : below s rail.val uv 880 = true) :
    exec (.supplyReset rail uv ns) s = .next (chipReset s 1 rail.val) := by
  show execSupplyReset rail uv ns s = _
  unfold execSupplyReset
  dsimp only
  rw [if_neg (not_or.mpr ⟨not_lt.mpr hns, not_or.mpr ⟨ne_false_of_eq_true hmon, ne_false_of_eq_true hlow⟩⟩), railQuad_chip hchip]

end Chip

section Quadrant

variable (hquad : 8 ≤ rail.val)
include hquad

theorem exec_supplyWarning_quad (hns : 100 ≤ ns) (hmon : monitored s rail.val = true) (hlow : below s rail.val uv 940 = true) {s1 s2 : State}
    (hs1 : s1 = refresh (setBitF s PRM_MON_WARN_WARN rail.val) (840 + rail.val))
    (hs2 : s2 = report s1 { at_ := now s, source := 840 + rail.val, level := 2, cls := 0x22, quad := (rail.val - 8) / 6, context := [(getR s1 PRM_MON_WARN).toNat] }) :
    exec (.supplyWarning rail uv ns) s =
      .next (if rail.val = vddRail ((rail.val - 8) / 6) ∧ isF s2 PRM_MON_CTL_AUTO_STEP = true then autoStep s2 ((rail.val - 8) / 6) else s2) := by
  subst hs1
  subst hs2
  show execSupplyWarning rail uv ns s = _
  unfold execSupplyWarning
  dsimp only
  rw [if_neg (not_or.mpr ⟨not_lt.mpr hns, not_or.mpr ⟨ne_false_of_eq_true hmon, ne_false_of_eq_true hlow⟩⟩), railQuad_quad hquad, if_neg (not_lt.mpr hquad)]
  rfl

theorem exec_supplyReset_quad (hns : 20 ≤ ns) (hmon : monitored s rail.val = true) (hlow : below s rail.val uv 880 = true) :
    exec (.supplyReset rail uv ns) s = .next (if (rail.val - 8) % 6 < 4 then startReinit s ((rail.val - 8) / 6) 3 else laneReset s ((rail.val - 8) / 6)) := by
  show execSupplyReset rail uv ns s = _
  unfold execSupplyReset
  dsimp only
  rw [if_neg (not_or.mpr ⟨not_lt.mpr hns, not_or.mpr ⟨ne_false_of_eq_true hmon, ne_false_of_eq_true hlow⟩⟩), railQuad_quad hquad]

end Quadrant

end Supply

/-- Settles O54: a chip reset by what it shows and what survives it; the supplies and the sensors by their tests. -/
theorem chipResetsSuppliesAndTemperature : Obligations.ChipResetsSuppliesAndTemperature := by
  refine ⟨?chip, ?quadrant, ?pins, ?supply, fun s q0 q1 q2 q3 hub => rfl, ?trip⟩
  case chip =>
    intro s c rail hc hrail t
    obtain ⟨hcause, hshown⟩ := chipReset_shows (s := s) hc hrail
    exact ⟨hcause, hshown, chipReset_fields s c rail⟩
  case quadrant =>
    intro s q c hq hc hcan hstate hent hidle t
    obtain ⟨hshown, hcause⟩ := startReinit_shows hc hcan hstate hent hidle
    exact ⟨hshown, hcause, laneReset_shows hcan⟩
  case pins =>
    intro s
    refine ⟨rfl, fun n vbat => ?_, fun hlow => ⟨if_pos (by rw [hlow]; rfl), ?_⟩, fun hhigh => ⟨if_pos (by rw [hhigh]; rfl), ?_⟩⟩
    · intro s1
      have hexec : exec (.porNRelease n vbat) s = if n < 1000 ∨ (n < 10000 ∧ Config.porShort (takeFree s).1 = false) then .next s1
          else .next (chipReset (if vbat then s1 else loseKeyStore s1) 0 0) := rfl
      have hlong : 10000 ≤ n → ¬ (n < 1000 ∨ (n < 10000 ∧ Config.porShort (takeFree s).1 = false)) := by omega
      rw [hexec]
      refine ⟨fun h => if_pos (.inl h), fun _ _ => ?_, fun h hv => ?_, fun h hv => ?_⟩
      · exact (ite_eq_or_eq _ _ _)
      · rw [if_neg (hlong h), if_pos hv]
      · rw [if_neg (hlong h), if_neg (ne_true_of_eq_false hv)]
    · exact (if_neg (by rw [hlow]; decide)).trans (if_pos rfl)
    · exact (if_neg (by rw [hhigh]; decide)).trans (if_neg Bool.false_ne_true)
  case supply =>
    intro s rail uv ns r q warn said
    have hsaid : r < 8 → said = report warn { at_ := now s, source := 840 + r, level := 3, cls := 0x22, quad := 0, context := [(getR warn PRM_MON_WARN).toNat] } := fun h => by
      show report warn { at_ := now s, source := 840 + r, level := if r < 8 then 3 else 2, cls := 0x22, quad := if r < 8 then 0 else q, context := [(getR warn PRM_MON_WARN).toNat] } = _
      rw [if_pos h, if_pos h]
    have hsaid' : 8 ≤ r → said = report warn { at_ := now s, source := 840 + r, level := 2, cls := 0x22, quad := q, context := [(getR warn PRM_MON_WARN).toNat] } := fun h => by
      show report warn { at_ := now s, source := 840 + r, level := if r < 8 then 3 else 2, cls := 0x22, quad := if r < 8 then 0 else q, context := [(getR warn PRM_MON_WARN).toNat] } = _
      rw [if_neg (not_lt.mpr h), if_neg (not_lt.mpr h)]
    refine ⟨exec_supplyWarning_none, fun hns hmon hlow hno => ?_, fun hns hmon hlow hquad hvdd hstep => ?_, exec_supplyReset_none, fun hns hmon hlow hchip => ?_,
      fun hns hmon hlow hquad hscope => ?_, fun hns hmon hlow hquad hscope => ?_⟩
    · by_cases hchip : r < 8
      · rw [exec_supplyWarning_chip hchip hns hmon hlow rfl, hsaid hchip]
      · have hquad := not_lt.mp hchip
        rw [exec_supplyWarning_quad hquad hns hmon hlow rfl (hsaid' hquad)]
        exact congrArg Host.Outcome.next (if_neg fun h => hno ⟨hquad, h⟩)
    · rw [exec_supplyWarning_quad hquad hns hmon hlow rfl (hsaid' hquad)]
      exact congrArg Host.Outcome.next (if_pos ⟨hvdd, hstep⟩)
    · exact exec_supplyReset_chip hchip hns hmon hlow
    · rw [exec_supplyReset_quad hquad hns hmon hlow, if_pos hscope]
    · rw [exec_supplyReset_quad hquad hns hmon hlow, if_neg (not_lt.mpr hscope)]
  case trip =>
    intro s i
    refine ⟨fun hnone => ?_, fun t ht => ?_⟩
    · show execThermalTrip i s = _
      unfold execThermalTrip
      rw [hnone]
    · have hexec : exec (.thermalTrip i) s = if reached s (t + 1000000000) = false then .next s else if i.val < 4 then .next (startReinit s i.val 4) else .next (chipReset s 3 0) := by
        show execThermalTrip i s = _
        unfold execThermalTrip
        rw [ht]
      rw [hexec]
      refine ⟨fun h => if_pos h, fun h hquad => (if_neg (ne_false_of_eq_true h)).trans (if_pos hquad), fun h hhub => (if_neg (ne_false_of_eq_true h)).trans (if_neg (by omega))⟩

end Sys2Proof.Machine

/-! ## Failing tiles, engines and banks (spec/15_faults.md R497 to R505) -/

namespace Sys2Proof.Machine

open Sys2Proof.Safety

/-! ### Tiles -/

section CoreCheck

variable {s : State} {p : Fin 288} {dt : Nat}

theorem exec_tileCoreCheck_ignored (h : (getHw (atDt s dt) p.val).stopped = true ∨ quadDark (atDt s dt) (p.val / 72) = true) : exec (.tileCoreCheck p dt) s = .next s := if_pos h

section Alive

variable (hstop : (getHw (atDt s dt) p.val).stopped = false) (hlive : quadDark (atDt s dt) (p.val / 72) = false)
include hstop hlive

theorem exec_tileCoreCheck_idle (hidle : (getTile (atDt s dt) p.val).running = false) :
    exec (.tileCoreCheck p dt) s = .next (stopTile (report (atDt s dt) (tileEntry (atDt s dt) p.val 0x01)) p.val) :=
  (if_neg (not_or.mpr ⟨ne_true_of_eq_false hstop, ne_true_of_eq_false hlive⟩)).trans (if_pos hidle)

section Running

variable (hrun : (getTile (atDt s dt) p.val).running = true) {s1 : State}
  (hs1 : s1 = setTilFault (atDt s dt) p.val 0x11 (getTile (atDt s dt) p.val).pc 0 ((getTile (atDt s dt) p.val).handler != .none) (getTile (atDt s dt) p.val).task)
include hrun hs1

/-- The check of a running core without a task's node ends what runs (R499). -/
theorem exec_tileCoreCheck_none (hnode : tileNode s1 p.val = none) : exec (.tileCoreCheck p dt) s = .next (stopTile (dropTask (report s1 (tileEntry s1 p.val 0x01)) p.val) p.val) := by
  subst hs1
  show execTileCoreCheck p dt s = _
  unfold execTileCoreCheck
  dsimp only
  rw [if_neg (not_or.mpr ⟨ne_true_of_eq_false hstop, ne_true_of_eq_false hlive⟩), if_neg (ne_false_of_eq_true hrun), hnode]

/-- The check of a running task ends it, or has it redone on the spare (R499, R503). -/
theorem exec_tileCoreCheck_node {j : Job} {n : Node} (hnode : tileNode s1 p.val = some (j, n)) {s3 : State}
    (hs3 : s3 = stopTile (holdHappening (dropTask (report s1 { withJob (tileEntry s1 p.val 0x01) j 0x20 0x40 with action := 1 }) p.val) j n 0x40) p.val) :
    exec (.tileCoreCheck p dt) s = if redone s1 p.val j n then .next (setHw s3 p.val { getHw s3 p.val with redo := some (n.id, now s3) })
      else .next (stopTile (finishTile (report s1 (withJob (tileEntry s1 p.val 0x01) j 0x20 0x40)) p.val false (some (0x20, 0x40))) p.val) := by
  subst hs1
  subst hs3
  show execTileCoreCheck p dt s = _
  unfold execTileCoreCheck
  dsimp only
  rw [if_neg (not_or.mpr ⟨ne_true_of_eq_false hstop, ne_true_of_eq_false hlive⟩), if_neg (ne_false_of_eq_true hrun), hnode]

end Running

end Alive

/-- A task is redone where the spare is unused and R503's times fit. -/
theorem redone_some {j : Job} {n : Node} {x : Nat} {pl : Plan} (h : planBySeq s j.planSeq = some pl) : redone s x j n = (spareUnused s x && redoFits s j n (now s) (redoLead pl.op)) := by
  unfold redone
  rw [h]

theorem redone_none {j : Job} {n : Node} {x : Nat} (h : planBySeq s j.planSeq = none) : redone s x j n = false := by
  unfold redone
  rw [h]

theorem spareUnused_iff (x : Nat) : spareUnused s x = true ↔ (getCl s (x / 9)).spare.isSome = true ∧ (getCl s (x / 9)).spareTakes = none ∧ spareAwaited s x = false := by
  simp only [spareUnused, Bool.and_eq_true, Bool.not_eq_true', Option.isNone_iff_eq_none, and_assoc]

end CoreCheck

section Redo

variable {s : State} {p : Fin 288} {dt id : Nat} {t0 : Int} (hredo : (getHw (atDt s dt) p.val).redo = some (id, t0)) {s1 : State}
  (hs1 : s1 = setHw (atDt s dt) p.val { getHw (atDt s dt) p.val with redo := none })
include hredo hs1

theorem exec_redoStart_gone (hnode : findNode s1 id = none) : exec (.redoStart p dt) s = .next s1 := by
  show execRedoStart p dt s = _
  unfold execRedoStart
  dsimp only
  rw [hredo]
  dsimp only
  rw [← hs1, hnode]

section Node

variable {j : Job} {n : Node} (hnode : findNode s1 id = some (j, n))
include hnode

section Spare

variable {t : Nat} (hfor : (getHw (atDt s dt) p.val).spareFor = some t)
include hfor

theorem exec_redoStart_noSpare (hspare : spareTile s1 (p.val / 9) = none) : exec (.redoStart p dt) s = .next (failNode s1 j n 0x20 0x40) := by
  show execRedoStart p dt s = _
  unfold execRedoStart
  dsimp only
  rw [hredo]
  dsimp only
  rw [← hs1, hnode]
  dsimp only
  rw [hfor]
  dsimp only
  rw [hspare]

/-- On a spare that is there the task starts where it serves no tile and runs no task (R503). -/
theorem exec_redoStart_spare {y : Nat} (hspare : spareTile s1 (p.val / 9) = some y) : exec (.redoStart p dt) s =
    if (getCl s1 (p.val / 9)).spareTakes.isSome then .next (failNode s1 j n 0x20 0x40)
    else if (getTile s1 y).running then .next s
    else .next (match findNode (spareBegins s1 p.val t) id with
      | some (j, n) => redoOn (spareBegins s1 p.val t) y j n
      | none => spareBegins s1 p.val t) := by
  show execRedoStart p dt s = _
  unfold execRedoStart
  dsimp only
  rw [hredo]
  dsimp only
  rw [← hs1, hnode]
  dsimp only
  rw [hfor]
  dsimp only
  rw [hspare] <;> rfl

end Spare

/-- After a takeover the task starts on the tile that has taken over (R499). -/
theorem exec_redoStart_taken (hfor : (getHw (atDt s dt) p.val).spareFor = none) :
    (physOf s1 (p.val / 9) n.res = none → exec (.redoStart p dt) s = .next (failNode s1 j n 0x20 0x40)) ∧
    (∀ y, physOf s1 (p.val / 9) n.res = some y → exec (.redoStart p dt) s = if (getTile s1 y).running then .next s else .next (redoOn s1 y j n)) := by
  refine ⟨fun hphys => ?_, fun y hphys => ?_⟩
  all_goals
    show execRedoStart p dt s = _
    unfold execRedoStart
    dsimp only
    rw [hredo]
    dsimp only
    rw [← hs1, hnode]
    dsimp only
    rw [hfor]
    dsimp only
    rw [hphys]

end Node

end Redo

/-! ### Engines -/

section Engine

variable {s : State} {k : Fin 32} {r : Fin 7} {dt : Nat}

/-- The recorder's entry for the check of an engine that is, or is not, lost with it (R497, R498). -/
def engineEntry (s : State) (k r : Nat) (lost : Bool) : FrEntry :=
  { at_ := now s, source := if r < 5 then clSrc k (11 + r) else 0x3FF, level := 1, cls := 0x04, action := if lost then 4 else 7, quad := k / 8, cluster := k % 8 }

/-- The check of an engine of a cluster that is not lost restarts it (R504). -/
theorem exec_engineCheck (hlive : quadDark (atDt s dt) (k.val / 8) = false) (hr : r.val < 6) (hsound : bitOf (getCl (atDt s dt) k.val).lostEng r.val ≠ 1) {s1 : State} {lost : Bool}
    (hs1 : s1 = restartEngine (atDt s dt) k.val r.val) (hlost : lost = (bitOf (getCl s1 k.val).lostEng r.val == 1)) :
    (runningNode (atDt s dt) k.val (8 + r.val) = none → exec (.engineCheck k r dt) s = .next (report s1 (engineEntry (atDt s dt) k.val r.val lost))) ∧
    (∀ j n, runningNode (atDt s dt) k.val (8 + r.val) = some (j, n) → exec (.engineCheck k r dt) s =
      if lost = false ∧ rerunKind (atDt s dt) n r.val = true ∧ redoFits (atDt s dt) j n (now (atDt s dt)) 2040000 = true then
        .next (startEngine (holdHappening (report s1 { withJob (engineEntry (atDt s dt) k.val r.val lost) j 0x20 0x41 with action := 1 }) j n 0x41) k.val r.val n)
      else .next (failNode (report (if r.val = 5 then setDma s1 k.val 0 { getDma s1 k.val 0 with node := none } else s1)
        (withJob (engineEntry (atDt s dt) k.val r.val lost) j 0x20 0x41)) j n 0x20 0x41)) := by
  have hgoes : ¬ (quadDark (atDt s dt) (k.val / 8) = true ∨ (r.val < 6 ∧ bitOf (getCl (atDt s dt) k.val).lostEng r.val = 1)) :=
    not_or.mpr ⟨ne_true_of_eq_false hlive, fun h => hsound h.2⟩
  have hcluster : ¬ r.val = 6 := by omega
  have hentry : engineEntry (atDt s dt) k.val r.val lost = if lost then { engineEntry (atDt s dt) k.val r.val false with action := 4 } else engineEntry (atDt s dt) k.val r.val false := by
    cases lost <;> rfl
  subst hs1
  refine ⟨fun hnone => ?_, fun j n hnode => ?_⟩
  · rw [hentry, hlost]
    show execEngineCheck k r dt s = _
    unfold execEngineCheck
    dsimp only
    rw [if_neg hgoes, if_neg hcluster, hnone, if_neg hcluster, if_neg hcluster]
    rfl
  · rw [hentry, hlost]
    show execEngineCheck k r dt s = _
    unfold execEngineCheck
    dsimp only
    rw [if_neg hgoes, if_neg hcluster, hnode, if_neg hcluster, if_neg hcluster]
    rfl

end Engine

/-- Settles O55: each check, redo and fence by its tests. -/
theorem failingTilesEnginesAndBanks : Obligations.FailingTilesEnginesAndBanks := by
  refine ⟨?core, ?redone, ?redo, ?retire, ?retest, ?engine, ?fence⟩
  case core =>
    intro s p dt s0 t s1 e
    refine ⟨exec_tileCoreCheck_ignored, fun hstop hlive => ⟨exec_tileCoreCheck_idle hstop hlive, fun hrun hnode => exec_tileCoreCheck_none hstop hlive hrun rfl hnode,
      fun j n hrun hnode hno => ?_, fun j n hrun hnode hyes => ?_⟩⟩
    · rw [exec_tileCoreCheck_node hstop hlive hrun rfl hnode rfl]
      exact if_neg (ne_true_of_eq_false hno)
    · intro s3
      rw [exec_tileCoreCheck_node hstop hlive hrun rfl hnode rfl]
      exact if_pos hyes
  case redone =>
    intro s x j n
    refine ⟨fun h => ?_, fun pl hspare htakes hawaited hplan => ?_⟩
    · cases hplan : planBySeq s j.planSeq with
      | none => exact redone_none hplan
      | some pl =>
        have hused : spareUnused s x = false := by
          rw [← Bool.not_eq_true, spareUnused_iff]
          rintro ⟨hspare, htakes, hawaited⟩
          rcases h with h | h | h | h
          · rw [h] at hspare
            exact Bool.false_ne_true hspare
          · rw [htakes] at h
            exact Bool.false_ne_true h
          · exact ne_true_of_eq_false hawaited h
          · exact absurd (hplan.symm.trans h) (by simp)
        rw [redone_some hplan, hused, Bool.false_and]
    · rw [redone_some hplan, (spareUnused_iff x).mpr ⟨hspare, htakes, hawaited⟩, Bool.true_and]
  case redo =>
    intro s p dt s0 k h s1 on
    refine ⟨fun hnone => ?_, fun id t0 hredo => ⟨exec_redoStart_gone hredo rfl, fun j n hnode => ⟨fun t => exec_redoStart_noSpare hredo rfl hnode, fun t y hfor hspare htakes => ?_,
      fun t y hfor hspare htakes hrun => ?_, ?_, fun y hfor hphys hrun => ?_, fun y hfor hphys hrun => ?_, fun hfor => (exec_redoStart_taken hredo rfl hnode hfor).1⟩⟩⟩
    · show execRedoStart p dt s = _
      unfold execRedoStart
      dsimp only
      rw [hnone]
    · rw [exec_redoStart_spare hredo rfl hnode hfor hspare]
      exact if_pos htakes
    · rw [exec_redoStart_spare hredo rfl hnode hfor hspare]
      exact (if_neg (by rw [htakes]; decide)).trans (if_pos hrun)
    · intro t y hfor hspare htakes hrun s2 s3
      have hexec := (exec_redoStart_spare hredo rfl hnode hfor hspare).trans ((if_neg (by rw [htakes]; decide)).trans (if_neg (ne_true_of_eq_false hrun)))
      have hbegins : spareBegins s1 p.val t = s3 := rfl
      rw [hbegins] at hexec
      refine ⟨fun hgone => ?_, fun j' n' hfound => ?_⟩
      · rw [hexec, hgone]
      · rw [hexec, hfound]
        rfl
    · rw [(exec_redoStart_taken hredo rfl hnode hfor).2 y hphys]
      exact if_pos hrun
    · rw [(exec_redoStart_taken hredo rfl hnode hfor).2 y hphys]
      exact if_neg (ne_true_of_eq_false hrun)
  case retire =>
    intro s k
    have hexec : exec .prmRetire s = .next (requestRetire s) := rfl
    refine ⟨fun hnone => ?_, fun p hp => ?_⟩
    · rw [hexec]
      unfold requestRetire
      dsimp only
      rw [hnone]
    · rw [hexec]
      unfold requestRetire
      dsimp only
      rw [hp]
  case retest =>
    intro s p pass s1
    refine ⟨fun hnone => if_pos (by rw [hnone]; rfl), fun h => ?_⟩
    have htest : ¬ (getHw s p.val).test.isNone = true := by rw [Option.isNone_iff_eq_none, ← ne_eq, Option.ne_none_iff_isSome]; exact h
    exact ⟨(if_neg htest).trans (congrArg Host.Outcome.next (if_pos rfl)), (if_neg htest).trans (congrArg Host.Outcome.next (if_neg Bool.false_ne_true))⟩
  case engine =>
    intro s k dt s0 q
    refine ⟨fun hdark r => if_pos (.inl hdark), fun hlive => ?_, fun r hlive hr => ?_⟩
    · exact (if_neg (not_or.mpr ⟨ne_true_of_eq_false hlive, fun h => absurd h.1 (by decide)⟩)).trans (if_pos rfl)
    · intro s1 lost e
      refine ⟨fun hlostEng => if_pos (.inr ⟨hr, hlostEng⟩), fun hsound hnone => (exec_engineCheck hlive hr hsound rfl rfl).1 hnone, fun j n hsound hnode => ?_⟩
      intro may
      have hexec := (exec_engineCheck hlive hr hsound rfl rfl).2 j n hnode
      exact ⟨fun h => hexec.trans (if_pos h), fun h => hexec.trans (if_neg h)⟩
  case fence =>
    intro s k b due
    refine ⟨fun ⟨hdue, hlive, hopen⟩ => if_neg (not_or.mpr ⟨ne_true_of_eq_false hlive, not_or.mpr ⟨ne_false_of_eq_true hdue, ne_true_of_eq_false hopen⟩⟩), fun h => if_pos ?_⟩
    by_contra hno
    simp only [not_or, Bool.not_eq_true, Bool.not_eq_false] at hno
    obtain ⟨hlive, hdue, hopen⟩ := hno
    exact h ⟨hdue, hlive, hopen⟩

end Sys2Proof.Machine

/-! ## Lockstep, the hub network, firmware, the recorder and the capture (spec/15_faults.md R509 to R519) -/

namespace Sys2Proof.Machine

open Sys2Proof.Safety

section Lockstep

variable {s : State}

/-- A mismatch is a second one where the last came within 1 s (R509). -/
theorem exec_lockstepMismatch {s1 : State} {e : Nat → FrEntry} (hs1 : s1 = addF (intPulse { s with lockAt := some (now s) } 809) PRM_LOCKSTEP_MISMATCH 1)
    (he : e = fun a => { at_ := now s, source := 809, level := 3, cls := 0x0C, action := a, context := [(getR s1 PRM_LOCKSTEP).toNat] }) :
    ((∃ t, s.lockAt = some t ∧ now s - t ≤ psSec) → exec .lockstepMismatch s = .next (chipReset (report s1 (e 6)) 4 0)) ∧
    (¬ (∃ t, s.lockAt = some t ∧ now s - t ≤ psSec) → exec .lockstepMismatch s = .next (report s1 (e 7))) := by
  subst hs1
  subst he
  refine ⟨fun ⟨t, ht, hsoon⟩ => ?_, fun hno => ?_⟩
  · show execLockstepMismatch s = _
    unfold execLockstepMismatch
    dsimp only
    rw [ht]
    dsimp only
    simp only [decide_eq_true hsoon, if_true]
  · show execLockstepMismatch s = _
    unfold execLockstepMismatch
    dsimp only
    cases ht : s.lockAt with
    | none => rfl
    | some t =>
      dsimp only
      simp only [decide_eq_false fun h => hno ⟨t, ht, h⟩, Bool.false_eq_true, if_false]

end Lockstep

section Firmware

variable {s : State}

theorem exec_verified {r : NvsRead} (hstate : getF s PRM_FW_STAT_STATE = 1) : exec (.firmwareHandOver (.verified r)) s = .next (endVerify s r) := congrArg Host.Outcome.next (if_pos hstate)

theorem exec_core {us : Nat} (hstate : getF s PRM_FW_STAT_STATE = 2) : exec (.firmwareHandOver (.core us)) s = .next (changeCore s us) := congrArg Host.Outcome.next (if_pos hstate)

theorem endVerify_some {r : NvsRead} {b : Bool} (hb : s.fw.target = some b) {x : State × Option Nat} (hx : x = verifyImage s b r) :
    endVerify s r = x.2.elim (setF (setF { x.1 with fw := { x.1.fw with target := none } } PRM_FW_STAT_STATE 0) PRM_FW_STAT_RESULT 2)
      fun v => setF { x.1 with fw := { x.1.fw with cores := 0, changed := none, newSvn := v } } PRM_FW_STAT_STATE 2 := by
  subst hx
  unfold endVerify
  rw [hb]
  dsimp only
  cases (verifyImage s b r).2 <;> rfl

section Core

variable {us : Nat} {t : Int} (ht : t = nextMultiple (ctPs s) 1000000000)
include ht

theorem changeCore_none (h : inCycle s t = false ∨ railRises s = true ∨ s.fw.changed = some t) : changeCore s us = s := by
  unfold changeCore
  rw [← ht]
  exact if_pos h

section Changes

variable (hcycle : inCycle s t = true) (hrail : railRises s = false) (hchanged : s.fw.changed ≠ some t)
include hcycle hrail hchanged

/-- A core before the last changes over (R511). -/
theorem changeCore_next (hcores : s.fw.cores < 4) : changeCore s us =
    setF { s with fw := { s.fw with cores := s.fw.cores + 1, changed := some t } } PRM_FW_STAT_HOLD_US (max (getF s PRM_FW_STAT_HOLD_US) (min 25 us)) := by
  unfold changeCore
  dsimp only
  rw [← ht, if_neg (not_or.mpr ⟨ne_false_of_eq_true hcycle, not_or.mpr ⟨ne_true_of_eq_false hrail, hchanged⟩⟩), setF_fw, if_pos (by dsimp only; omega)]

/-- The last core makes the new image the running one (R511). -/
theorem changeCore_last (hcores : s.fw.cores = 4) {b : Bool} (hb : s.fw.target = some b) {s2 : State}
    (hs2 : s2 = report (setF (setF { s with fw := { s.fw with cores := 5, changed := some t } } PRM_FW_STAT_HOLD_US (max (getF s PRM_FW_STAT_HOLD_US) (min 25 us))) PRM_FW_STAT_RUNNING (ofBool b))
      { at_ := t, level := 3, cls := 0x21, context := [ofBool b] }) :
    changeCore s us = if s.fw.back then setF { s2 with fw := { s2.fw with target := none, back := false, svn := s.fw.newSvn } } PRM_FW_STAT_STATE 0
      else setF { s2 with fw := { s2.fw with watch := some t, svn := s.fw.newSvn, newSvn := s.fw.svn } } PRM_FW_STAT_STATE 3 := by
  have hfw : s2.fw = { s.fw with cores := 5, changed := some t } := by
    rw [hs2]
    exact (setF_fw _ _ _).trans (setF_fw _ _ _)
  have hback : s.fw.back = s2.fw.back := by rw [hfw]
  have hnew : s.fw.newSvn = s2.fw.newSvn := by rw [hfw]
  have hsvn : s.fw.svn = s2.fw.svn := by rw [hfw]
  have htarget : (setF { s with fw := { s.fw with cores := 5, changed := some t } } PRM_FW_STAT_HOLD_US (max (getF s PRM_FW_STAT_HOLD_US) (min 25 us))).fw.target.getD false = b := by
    rw [setF_fw]
    exact congrArg (Option.getD · false) hb
  rw [hback, hnew, hsvn]
  unfold changeCore
  dsimp only
  rw [← ht, if_neg (not_or.mpr ⟨ne_false_of_eq_true hcycle, not_or.mpr ⟨ne_true_of_eq_false hrail, hchanged⟩⟩), hcores, htarget, ← hs2, if_neg (by rw [setF_fw]; exact Nat.lt_irrefl 5)]

end Changes

end Core

section Watch

variable {t : Int} (hwatch : s.fw.watch = some t)
include hwatch

theorem exec_firmwareHealthyReport : exec .firmwareHealthyReport s = if getF s PRM_FW_STAT_STATE ≠ 3 ∨ t + psSec < now s then .next s
    else .next (intPulse (setF (setF (setF { s with fw := { s.fw with target := none, watch := none, active := isF s PRM_FW_STAT_RUNNING } }
      PRM_FW_STAT_STATE 0) PRM_FW_STAT_RESULT 1) PRM_EVT_FW_DONE 1) 808) := by
  show execFirmwareHealthyReport s = _
  unfold execFirmwareHealthyReport
  rw [hwatch]

theorem exec_firmwareRevert : exec .firmwareRevert s = if getF s PRM_FW_STAT_STATE ≠ 3 ∨ reached s (t + psSec) = false then .next s
    else .next (report (intPulse (setF (setF (setF { s with fw := { s.fw with target := some (!isF s PRM_FW_STAT_RUNNING), cores := 0, changed := none, watch := none, back := true } }
      PRM_FW_STAT_STATE 2) PRM_FW_STAT_RESULT 3) PRM_EVT_FW_REVERT 1) 808) { at_ := now s, source := 808, level := 3, cls := 0x21, context := [ofBool (!isF s PRM_FW_STAT_RUNNING)] }) := by
  show execFirmwareRevert s = _
  unfold execFirmwareRevert
  rw [hwatch]

end Watch

theorem exec_unwatched (hwatch : s.fw.watch = none) : exec .firmwareHealthyReport s = .next s ∧ exec .firmwareRevert s = .next s := by
  refine ⟨?_, ?_⟩
  · show execFirmwareHealthyReport s = _
    unfold execFirmwareHealthyReport
    rw [hwatch]
  · show execFirmwareRevert s = _
    unfold execFirmwareRevert
    rw [hwatch]

end Firmware

/-- Settles O56: each fault and hand-over by its tests; the capture by its own entries. -/
theorem chipFaultsFirmwareAndRecorder : Obligations.ChipFaultsFirmwareAndRecorder := by
  refine ⟨?lockstep, ?hub, ?start, ?handOver, ?watch, ?recorder, ?capture⟩
  case lockstep =>
    intro s s1 e
    exact exec_lockstepMismatch rfl rfl
  case hub =>
    intro s c s1
    refine ⟨rfl, ?_⟩
    intro m g recent s2 s3
    exact ⟨fun h => congrArg Host.Outcome.next (if_neg (not_le.mpr h)), fun h => congrArg Host.Outcome.next (if_pos h)⟩
  case start =>
    intro s image s1
    exact ⟨fun h => congrArg Host.Outcome.next (if_pos h), fun hidle hother => congrArg Host.Outcome.next (if_neg (not_or.mpr ⟨ne_true_of_eq_false hidle, hother⟩))⟩
  case handOver =>
    intro s r us
    refine ⟨fun h => congrArg Host.Outcome.next (if_neg h), fun h => congrArg Host.Outcome.next (if_neg h), fun hstate hnone => ?_, fun b hstate hb => ?_, fun hstate => ?_⟩
    · rw [exec_verified hstate]
      unfold endVerify
      rw [hnone]
    · intro x
      rw [exec_verified hstate, endVerify_some hb rfl]
    · intro t
      rw [exec_core hstate]
      refine ⟨fun h => congrArg Host.Outcome.next (changeCore_none rfl h), fun hcycle hrail hchanged hcores => congrArg Host.Outcome.next (changeCore_next rfl hcycle hrail hchanged hcores),
        fun b hcycle hrail hchanged hcores hb => ?_⟩
      intro s1 s2
      rw [changeCore_last rfl hcycle hrail hchanged hcores hb rfl]
      exact ⟨fun hback => congrArg Host.Outcome.next (if_pos hback), fun hback => congrArg Host.Outcome.next (if_neg (ne_true_of_eq_false hback))⟩
  case watch =>
    intro s
    refine ⟨exec_unwatched, fun hstate => ?_, fun t hwatch hstate => ?_⟩
    · cases hwatch : s.fw.watch with
      | none => exact exec_unwatched hwatch
      | some t => exact ⟨(exec_firmwareHealthyReport hwatch).trans (if_pos (.inl hstate)), (exec_firmwareRevert hwatch).trans (if_pos (.inl hstate))⟩
    · rw [exec_firmwareHealthyReport hwatch, exec_firmwareRevert hwatch]
      refine ⟨fun hlate => if_pos (.inr hlate), fun htime => if_neg (not_or.mpr ⟨not_not.mpr hstate, not_lt.mpr htime⟩), fun hwait => if_pos (.inr hwait), ?_⟩
      intro hlate b
      exact if_neg (not_or.mpr ⟨not_not.mpr hstate, ne_false_of_eq_true hlate⟩)
  case recorder =>
    intro s
    refine ⟨fun hnone => ?_, fun e rest hfirst => ?_⟩
    · show execFlightRecorderWrite s = _
      unfold execFlightRecorderWrite
      rw [hnone]
    · intro sec n
      have hexec : exec .flightRecorderWrite s = if 1000 ≤ n then .next (addF { s with frPend := rest } PRM_FR_STAT_DROPPED 1)
          else .next (frWrite { s with frPend := rest, frSecond := sec, frCount := n + 1 } e) := by
        show execFlightRecorderWrite s = _
        unfold execFlightRecorderWrite
        rw [hfirst]
      rw [hexec]
      exact ⟨fun h => if_pos h, fun h => if_neg (not_le.mpr h)⟩
  case capture =>
    intro s
    exact ⟨_, rfl, by simp, rfl⟩

end Sys2Proof.Machine

/-! ## Owner requests (spec/16_security.md R531, R532) -/

namespace Sys2Proof.Machine

open Sys2Proof.Safety

/-- The state and the result that a request of operation op leaves, whose effect is g. -/
def requestResult (s : State) (op : Nat) (g : State → State × Nat) : State :=
  (reqReason s op).elim (reqDone (g (if op = 7 then s else setNonce s 0)).1 op (g (if op = 7 then s else setNonce s 0)).2)
    (fun r => reqDone (if r = 5 ∧ op ≠ 7 then setNonce s 0 else if r = 4 then verifyFailed s 5 else s) op r)

section Requests

variable {s : State} {op : Nat} {g : State → State × Nat}

theorem requestOf_same (h : reqOp s = op) : requestOf s op g = requestResult s op g := by
  subst h
  unfold requestOf runRequest requestResult
  rw [if_pos rfl]
  dsimp only
  cases reqReason s (reqOp s) <;> rfl

theorem requestOf_other (h : reqOp s ≠ op) : requestOf s op g = s := if_neg h

/-- A request without a reason against it passes every check (R531). -/
theorem reqReason_none (h : reqReason s op = none) :
    reqFormatBad s op = false ∧ leNat (mboxBytes s 8 8) = getF s FXG_SERIAL_SERIAL ∧ ¬ (op ≠ 7 ∧ (nonceNow s = 0 ∨ leNat (mboxBytes s 0x10 32) ≠ nonceNow s)) ∧
      reqSigned s op = true ∧ reqLifeBad s op = false := by
  unfold reqReason at h
  split at h
  · cases h
  next hformat =>
    split at h
    · cases h
    next hserial =>
      split at h
      · cases h
      next hnonce =>
        split at h
        · cases h
        next hsigned =>
          split at h
          · cases h
          next hlife => exact ⟨Bool.not_eq_true _ ▸ hformat, not_not.mp hserial, hnonce, Bool.not_eq_false _ ▸ hsigned, Bool.not_eq_true _ ▸ hlife⟩

/-- An operation that is not listed has a bad format (R531). -/
theorem op_listed_of_reqFormatBad_false (h : reqFormatBad s op = false) : op ≠ 0 ∧ op ≤ 10 := by
  unfold reqFormatBad at h
  simp only [Bool.or_eq_false_iff, beq_eq_false_iff_ne, decide_eq_false_iff_not, not_lt] at h
  obtain ⟨⟨⟨⟨⟨hzero, hlisted⟩, -⟩, -⟩, -⟩, -⟩ := h
  exact ⟨hzero, hlisted⟩

end Requests

section Owners

variable {s : State}

/-- Is an owner slot unused (R532)? -/
def ownerUnused (s : State) (i : Nat) : Bool := !testF s FXG_POLICY_ACTIVE i && !testF s FXG_POLICY_REVOKED i

theorem ownerUnused_eq_false {i : Nat} : ownerUnused s i = false ↔ testF s FXG_POLICY_ACTIVE i = true ∨ testF s FXG_POLICY_REVOKED i = true := by
  unfold ownerUnused
  cases testF s FXG_POLICY_ACTIVE i <;> cases testF s FXG_POLICY_REVOKED i <;> decide

theorem enrolOwner_full (h : ∀ i < 8, ownerUnused s i = false) (f : Bool) : enrolOwner f s = (s, 6) := by
  have hfind : ((List.range 8).find? fun i => !testF s FXG_POLICY_ACTIVE i && !testF s FXG_POLICY_REVOKED i) = none :=
    List.find?_eq_none.mpr fun i hi => Bool.not_eq_true _ ▸ h i (List.mem_range.mp hi)
  unfold enrolOwner
  rw [hfind]

theorem enrolOwner_lowest {i : Nat} (hi : i < 8) (hlower : ∀ j < i, ownerUnused s j = false) (hfree : ownerUnused s i = true) (f : Bool) :
    enrolOwner f s = blow s f fun s => setF (setBitF { s with fox := { s.fox with digests := smPut (fun _ => []) i (sha512 (reqKey s)) s.fox.digests, moduli := smPut (fun _ => []) i (reqKey s) s.fox.moduli } }
      FXG_POLICY_ACTIVE i) FXG_STAT_LIFE 2 := by
  have hfind : ((List.range 8).find? fun i => !testF s FXG_POLICY_ACTIVE i && !testF s FXG_POLICY_REVOKED i) = some i :=
    List.find?_range_eq_some.mpr ⟨hfree, List.mem_range.mpr hi, fun j hj => by rw [show (!testF s FXG_POLICY_ACTIVE j && !testF s FXG_POLICY_REVOKED j) = false from hlower j hj]; rfl⟩
  unfold enrolOwner
  rw [hfind]

theorem debugOpen_of_permitted (h : testF s FXG_POLICY_POLICY 3 = false) : debugOpen s =
    (setF (setF { s with fox := { s.fox with dbg := some ⟨leNat (reqData s 0 4), leNat (reqData s 8 8)⟩ } } FXG_STAT_DEBUG 1) FXG_DBG_EXP_EXPIRY (leNat (reqData s 8 8) % 2 ^ 32), 0) :=
  if_neg (ne_true_of_eq_false h)

end Owners

/-- Settles O57: each row by the one run of a request, and each effect by its tests. -/
theorem ownerRequestsAreChecked : Obligations.OwnerRequestsAreChecked := by
  refine ⟨?rows, ?checks, ?enrol, ?effects, fun s => rfl⟩
  case rows =>
    intro s f run
    have row (op : Nat) (g : State → State × Nat) : (reqOp s = op → (Host.Outcome.next (requestOf s op g) : Res) = Host.Outcome.next (run op g)) ∧
        (reqOp s ≠ op → (Host.Outcome.next (requestOf s op g) : Res) = Host.Outcome.next s) :=
      ⟨fun h => congrArg Host.Outcome.next (requestOf_same h), fun h => congrArg Host.Outcome.next (requestOf_other h)⟩
    exact ⟨(row 1 (enrolOwner f)).1, (row 1 (enrolOwner f)).2, (row 2 (revokeOwner f)).1, (row 2 (revokeOwner f)).2, (row 3 (setPolicy f)).1, (row 3 (setPolicy f)).2,
      (row 5 (commitSvn f)).1, (row 5 (commitSvn f)).2, (row 9 (decommission f)).1, (row 9 (decommission f)).2, (row 10 (unlockDevice f)).1, (row 10 (unlockDevice f)).2,
      (row 4 provisionDevice).1, (row 4 provisionDevice).2, (row 6 debugOpen).1, (row 6 debugOpen).2, (row 7 fun s => (endDebug s, 0)).1, (row 7 fun s => (endDebug s, 0)).2,
      (row 8 certSlot1).1, (row 8 certSlot1).2⟩
  case checks =>
    intro s op h
    obtain ⟨hformat, hserial, hnonce, hsigned, hlife⟩ := reqReason_none h
    obtain ⟨hzero, hlisted⟩ := op_listed_of_reqFormatBad_false hformat
    have hfresh : op ≠ 7 → nonceNow s ≠ 0 ∧ leNat (mboxBytes s 0x10 32) = nonceNow s := fun h7 => by
      obtain ⟨hset, heq⟩ := not_or.mp fun hbad => hnonce ⟨h7, hbad⟩
      exact ⟨hset, not_not.mp heq⟩
    exact ⟨hzero, hlisted, hserial, hfresh, hsigned, hlife⟩
  case enrol =>
    intro s
    refine ⟨fun hused f => enrolOwner_full (fun i hi => ownerUnused_eq_false.mpr (hused i hi)) f, fun i hi hlower hactive hrevoked => ?_⟩
    have hfree : ownerUnused s i = true := by
      unfold ownerUnused
      rw [hactive, hrevoked]
      rfl
    have hbelow : ∀ j < i, ownerUnused s j = false := fun j hj => ownerUnused_eq_false.mpr (hlower j hj)
    exact ⟨enrolOwner_lowest hi hbelow hfree false, enrolOwner_lowest hi hbelow hfree true⟩
  case effects =>
    intro s i
    exact ⟨fun f hlast => if_pos hlast, fun hother => ⟨if_neg hother, if_neg hother⟩, rfl, rfl, rfl, fun hdisabled => if_pos hdisabled, debugOpen_of_permitted⟩

end Sys2Proof.Machine

/-! ## Secure boot, SPDM, stream keys and IDE keys (spec/16_security.md R526 to R538) -/

namespace Sys2Proof.Machine

open Sys2Proof.Safety

section Boot

variable {s : State} {a b : NvsRead}

theorem exec_secureBoot {x y : State × Option Nat} (hidle : s.boot.fw = false) (hnormal : isF s FXG_STAT_RECOVERY = false)
    (hx : x = verifyImage s s.fw.active (if s.fw.active then b else a)) (hy : y = verifyImage x.1 (!s.fw.active) (if !s.fw.active then b else a)) :
    exec (.secureBoot a b) s = .next (x.2.elim (y.2.elim (enterRecovery y.1) (runImage y.1 (!s.fw.active))) (runImage x.1 s.fw.active)) := by
  show execSecureBoot a b s = _
  unfold execSecureBoot
  rw [if_neg (not_or.mpr ⟨ne_true_of_eq_false hidle, ne_true_of_eq_false hnormal⟩)]
  dsimp only
  rw [← hx, ← hy]
  cases x.2 with
  | some v => rfl
  | none => cases y.2 <;> rfl

end Boot

section Sessions

variable {s : State} {session : Bool}

theorem busy_isNone_iff {i : Nat} : (getDoe s i).busy.isNone = true ↔ (getDoe s i).busy = none := Option.isNone_iff_eq_none

theorem not_busy_isNone {i : Nat} (h : (getDoe s i).busy.isSome = true) : ¬ (getDoe s i).busy.isNone = true := by
  rw [busy_isNone_iff]
  exact Option.isSome_iff_ne_none.mp h

theorem inSession_eq_false (h : session = false ∨ s.fox.sessions = 0) : inSession s session = false := by
  rcases h with rfl | h
  · rfl
  · simp [inSession, h]

theorem inSession_ne_false (hsession : session = true) (hopen : 0 < s.fox.sessions) : ¬ inSession s session = false := by
  simp [inSession, hsession, hopen]

/-- An IDE_KM message in a secured session has its effect (R538). -/
theorem ideMessage_inside {f : State → State × List Byte} (hbusy : (getDoe s 2).busy.isSome = true) (hin : ¬ inSession s session = false) :
    ideMessage s session f = answerDoe (f s).1 2 ⟨0, (f s).2⟩ :=
  (if_neg (not_busy_isNone hbusy)).trans (if_neg hin)

theorem ideMessage_outside {f : State → State × List Byte} (hbusy : (getDoe s 2).busy.isSome = true) (hout : inSession s session = false) :
    ideMessage s session f = answerDoe (takeFree s).2 2 ⟨(Config.spdmByte s.freeCtr 0).toNat, []⟩ :=
  (if_neg (not_busy_isNone hbusy)).trans (if_pos hout)

theorem ideMessage_idle {f : State → State × List Byte} (hidle : (getDoe s 2).busy = none) : ideMessage s session f = s := if_pos (busy_isNone_iff.mpr hidle)

theorem exec_keyWrite_inside {p : List Byte} (hbusy : (getDoe s 2).busy.isSome = true) (hin : ¬ inSession s session = false) :
    exec (.keyWrite session p) s = .next (answerDoe (keyWrite s p).1 2 ⟨0, leBytes 4 (keyWrite s p).2 ++ (aesZero ((p.drop 4).take 32)).take 4⟩) :=
  (if_neg (not_busy_isNone hbusy)).trans (if_neg hin)

theorem exec_keyWrite_outside {p : List Byte} (hbusy : (getDoe s 2).busy.isSome = true) (hout : inSession s session = false) :
    exec (.keyWrite session p) s = .next (answerDoe s 2 ⟨0, leBytes 4 5⟩) :=
  (if_neg (not_busy_isNone hbusy)).trans (if_pos hout)

end Sessions

section Exchange

variable {s : State} {i slot : Nat}

theorem keyExchange_of_free (hfree : s.fox.sessions < 4) : (certChain s slot = none → spdmAnswer s i (.keyExchange slot) = (s, ⟨1, []⟩)) ∧
    ∀ c, certChain s slot = some c → (spdmAnswer s i (.keyExchange slot)).1 = { s with fox := { s.fox with sessions := s.fox.sessions + 1 } } := by
  unfold spdmAnswer
  dsimp only
  rw [if_neg (not_le.mpr hfree)]
  refine ⟨fun hnone => ?_, fun c hc => ?_⟩
  · rw [hnone]
  · rw [hc]

end Exchange

section IdeKeys

variable {s : State} {io rx : Bool} {sub : Fin 8} {set : Fin 2} {key : List Byte} (hbusy : (getDoe s 2).busy.isSome = true) (hopen : 0 < s.fox.sessions)
include hbusy hopen

/-- The message of a function that leaves t and answers bs. -/
theorem ideMessage_answers {f : State → State × List Byte} {t : State} {bs : List Byte} (h : f s = (t, bs)) :
    (Host.Outcome.next (ideMessage s true f) : Res) = .next (answerDoe t 2 ⟨0, bs⟩) := by
  rw [ideMessage_inside hbusy (inSession_ne_false rfl hopen), h]

theorem exec_keyProg_used (h : ideInUse s io rx sub.val = set.val + 1) : exec (.keyProg true io rx sub set key) s = .next (answerDoe s 2 ⟨0, [3]⟩) :=
  ideMessage_answers hbusy hopen (if_pos h)

theorem exec_keyProg_free (h : ideInUse s io rx sub.val ≠ set.val + 1) : exec (.keyProg true io rx sub set key) s =
    .next (answerDoe { s with fox := { s.fox with ideKeys := smPut (fun _ => []) (2 * ideDir io rx sub.val + set.val) key s.fox.ideKeys } } 2 ⟨0, [0]⟩) :=
  ideMessage_answers hbusy hopen (if_neg h)

theorem exec_kSetGo_absent (h : smGet (fun _ => []) s.fox.ideKeys (2 * ideDir io rx sub.val + set.val) = []) : exec (.kSetGo true io rx sub set) s = .next (answerDoe s 2 ⟨0, []⟩) :=
  ideMessage_answers hbusy hopen (if_pos h)

theorem exec_kSetGo_programmed (h : smGet (fun _ => []) s.fox.ideKeys (2 * ideDir io rx sub.val + set.val) ≠ []) :
    exec (.kSetGo true io rx sub set) s = .next (answerDoe (useSet s io rx sub.val (set.val + 1)) 2 ⟨0, []⟩) :=
  ideMessage_answers hbusy hopen (if_neg h)

theorem exec_kSetStop_used (h : ideInUse s io rx sub.val = set.val + 1) : exec (.kSetStop true io rx sub set) s = .next (answerDoe (useSet s io rx sub.val 0) 2 ⟨0, []⟩) :=
  ideMessage_answers hbusy hopen (if_pos h)

theorem exec_kSetStop_free (h : ideInUse s io rx sub.val ≠ set.val + 1) : exec (.kSetStop true io rx sub set) s = .next (answerDoe s 2 ⟨0, []⟩) :=
  ideMessage_answers hbusy hopen (if_neg h)

end IdeKeys

/-- Settles O58: each message by whether a request is in progress and a session is open, then by its own tests. -/
theorem bootKeysAndSessions : Obligations.BootKeysAndSessions := by
  refine ⟨?boot, ?spdm, ?exchange, ?keys, ?ide⟩
  case boot =>
    intro s a b fst x y
    exact ⟨fun h => if_pos h, fun hidle hnormal => exec_secureBoot hidle hnormal rfl rfl⟩
  case spdm =>
    intro s i m
    refine ⟨fun h => if_pos (h.imp_right busy_isNone_iff.mpr), fun hi hbusy => ?_⟩
    intro x
    exact if_neg (not_or.mpr ⟨hi, not_busy_isNone hbusy⟩)
  case exchange =>
    intro s i slot
    exact ⟨fun hfull => if_pos hfull, fun hfree => (keyExchange_of_free hfree).1, fun c hfree => (keyExchange_of_free hfree).2 c, rfl, rfl⟩
  case keys =>
    intro s session p
    refine ⟨fun hidle => ⟨if_pos (busy_isNone_iff.mpr hidle), congrArg Host.Outcome.next (ideMessage_idle hidle)⟩, fun hbusy => ⟨fun hout => ?_, fun hsession hopen => ?_⟩⟩
    · exact ⟨exec_keyWrite_outside hbusy (inSession_eq_false hout), congrArg Host.Outcome.next (ideMessage_outside hbusy (inSession_eq_false hout))⟩
    · exact ⟨exec_keyWrite_inside hbusy (inSession_ne_false hsession hopen), congrArg Host.Outcome.next (ideMessage_inside hbusy (inSession_ne_false hsession hopen))⟩
  case ide =>
    intro s io rx sub set key hbusy hopen d
    exact ⟨exec_keyProg_used hbusy hopen, exec_keyProg_free hbusy hopen, exec_kSetGo_absent hbusy hopen, exec_kSetGo_programmed hbusy hopen, exec_kSetStop_used hbusy hopen,
      exec_kSetStop_free hbusy hopen⟩

end Sys2Proof.Machine

/-! ## Tamper, debug and the non-volatile store (spec/16_security.md R534 to R544) -/

namespace Sys2Proof.Machine

open Sys2Proof.Safety

section Tamper

variable {s : State} {ns : Nat} {powered_ : Bool}

theorem exec_tamper_ignored (h : isF s FXG_TAMPER_ARM = false ∨ ns < 500) : exec (.tamper ns powered_) s = .next (takeFree s).2 :=
  if_pos (h.imp_right .inl)

theorem exec_tamper_acts (harm : isF s FXG_TAMPER_ARM = true) (hlong : 1000 ≤ ns) : exec (.tamper ns powered_) s = .next (tamperActs (takeFree s).2 powered_) :=
  if_neg (not_or.mpr ⟨ne_false_of_eq_true harm, not_or.mpr ⟨by omega, fun hshort => absurd hshort.1 (not_lt.mpr hlong)⟩⟩)

section Acts

variable {z : State} (hz : z = addF { s with fox := { s.fox with bbKeys := [] } } FXG_TAMPER_COUNT 1)
include hz

theorem tamperActs_off : tamperActs s false = setF (setF { z with fox := { z.fox with tamperOff := true } } FXG_TAMPER_SEC_SEC 0) FXG_TAMPER_NS_NS 0 := by
  unfold tamperActs
  dsimp only
  rw [← hz, if_neg Bool.false_ne_true]

theorem tamperActs_on : tamperActs s true = endDebug (abortStoreLoads (refresh (setF (intPulse
    (setF (setF z FXG_TAMPER_SEC_SEC (secOf (now s) % 2 ^ 32)) FXG_TAMPER_NS_NS (nsOf (now s))) 817) FXG_IRQ_TAMPER_SEEN 1) 816)) := by
  unfold tamperActs
  dsimp only
  rw [← hz, if_pos rfl]

end Acts

end Tamper

section Debug

variable {s : State}

theorem exec_debugSessionExpiry_closed (h : s.fox.dbg = none) : exec .debugSessionExpiry s = .next s := by
  show execDebugSessionExpiry s = _
  unfold execDebugSessionExpiry
  rw [h]

theorem exec_debugSessionExpiry {d : DebugSession} (h : s.fox.dbg = some d) : exec .debugSessionExpiry s = .next (if reached s (d.expiry * psSec) then endDebug s else s) := by
  show execDebugSessionExpiry s = _
  unfold execDebugSessionExpiry
  rw [h]

theorem endDebug_open {d : DebugSession} (h : s.fox.dbg = some d) :
    endDebug s = refresh (setF (setF (setF { s with fox := { s.fox with dbg := none } } FXG_STAT_DEBUG 0) FXG_DBG_ATTACH_EN 0) FXG_IRQ_DEBUG_END 1) 816 :=
  if_neg (by rw [h]; exact Bool.false_ne_true)

section Attach

variable {k t : Nat} {halt : Bool}

/-- A write while EN is 0 takes the tile that it names, and a 1 in EN where the session permits tiles (R540). -/
theorem writeAttach_detached {s1 : State} (hs1 : s1 = setF (setF (setF s FXG_DBG_ATTACH_QUAD (k / 8)) FXG_DBG_ATTACH_CLUSTER (k % 8)) FXG_DBG_ATTACH_TILE t)
    (hdetached : isF s FXG_DBG_ATTACH_EN = false) :
    writeAttach s k t true halt = applyHalt (setF (if debugTile s = false then s1 else setF s1 FXG_DBG_ATTACH_EN 1) FXG_DBG_ATTACH_HALT (ofBool halt)) := by
  unfold writeAttach
  dsimp only
  rw [if_neg (ne_true_of_eq_false hdetached), ← hs1]
  simp only [true_and]
  rfl

theorem writeAttach_detach (hattached : isF s FXG_DBG_ATTACH_EN = true) :
    writeAttach s k t false halt = applyHalt (setF (setF s FXG_DBG_ATTACH_EN 0) FXG_DBG_ATTACH_HALT (ofBool halt)) := by
  unfold writeAttach
  dsimp only
  rw [if_pos hattached, if_neg fun h => Bool.false_ne_true h.1]
  rfl

end Attach

end Debug

section Store

variable {q : State} {r : NvsRead}

theorem nvsInRange_eq_true (h : nvsOfs q + nvsLen q ≤ (targetRange q (nvsTarget q)).2) : nvsInRange q = true := decide_eq_true h

theorem nvsInRange_eq_false (h : ¬ nvsOfs q + nvsLen q ≤ (targetRange q (nvsTarget q)).2) : nvsInRange q = false := decide_eq_false h

/-- A read of the store that meets nothing uncorrectable fills the whole buffer (R542, R544). -/
theorem nvsRead_good (hrange : nvsInRange q = true) (hgood : r.bad = none) :
    nvsRead q r = addF { q with pageBuf := (List.range (nvsLen q)).foldl (fun m i => smPut (fun _ => 0) i (targetByte q (nvsOfs q + i)) m) q.pageBuf } NVS_ECC_CORR r.corr := by
  unfold nvsRead noteNvs
  rw [if_neg (ne_false_of_eq_true hrange), hgood]
  rfl

end Store

/-- Settles O59: the tamper by its arming and its length, the attachment by EN and the session, each store operation by its range. -/
theorem tamperDebugAndTheStore : Obligations.TamperDebugAndTheStore := by
  refine ⟨?tamper, ?expiry, ?attach, ?store, ?slot⟩
  case tamper =>
    intro s ns p s1
    refine ⟨exec_tamper_ignored, fun harm hlong => ?_⟩
    intro z
    exact ⟨(exec_tamper_acts harm hlong).trans (congrArg Host.Outcome.next (tamperActs_off rfl)), (exec_tamper_acts harm hlong).trans (congrArg Host.Outcome.next (tamperActs_on rfl))⟩
  case expiry =>
    intro s
    refine ⟨rfl, exec_debugSessionExpiry_closed, fun d hopen hearly => ?_, fun d hopen hdue => ?_⟩
    · rw [exec_debugSessionExpiry hopen, if_neg (ne_true_of_eq_false hearly)]
    · rw [exec_debugSessionExpiry hopen, if_pos hdue, endDebug_open hopen]
  case attach =>
    intro s k t en h s1 fin
    refine ⟨rfl, fun hdetached hpermitted => ?_, fun hdetached hrefused => ?_, fun hattached => congrArg Host.Outcome.next (writeAttach_detach hattached)⟩
    · exact congrArg Host.Outcome.next ((writeAttach_detached rfl hdetached).trans (by rw [if_neg (ne_false_of_eq_true hpermitted)]))
    · exact congrArg Host.Outcome.next ((writeAttach_detached rfl hdetached).trans (by rw [if_pos hrefused]))
  case store =>
    intro s r p q
    refine ⟨fun hin hwritable => ?_, fun hbad => ?_, fun hout => ?_, fun hin hgood => ?_⟩
    · exact congrArg Host.Outcome.next (if_neg (not_or.mpr ⟨ne_false_of_eq_true (nvsInRange_eq_true hin), ne_false_of_eq_true hwritable⟩))
    · exact congrArg Host.Outcome.next (if_pos (hbad.imp_left nvsInRange_eq_false))
    · exact congrArg Host.Outcome.next (if_pos (nvsInRange_eq_false hout))
    · exact congrArg Host.Outcome.next (nvsRead_good (nvsInRange_eq_true hin) hgood)
  case slot =>
    intro s n v b z bad
    exact ⟨fun h => congrArg Host.Outcome.next (if_pos h), fun h => congrArg Host.Outcome.next (if_neg h)⟩

end Sys2Proof.Machine

/-! ## Clearing of engine counters, and boundary scan (spec/09_receive.md R341; spec/10_coding.md; spec/15_faults.md R520) -/

namespace Sys2Proof.Machine

open Sys2Proof.Safety

/-- Bring each field of a list to 0, as the clear of an engine's counters does. -/
def clearFields (s : State) (fs : List Field) : State := fs.foldl (fun s f => setF s f 0) s

/-- Is bit i of the word at a one of the field's? -/
def covers (a i : Nat) (f : Field) : Bool := decide (f.addr = a ∧ f.lo ≤ i ∧ i < f.lo + f.w)

/-- Does each field of a list lie within one word? -/
def AllNarrow (fs : List Field) : Prop := ∀ f ∈ fs, f.lo + f.w ≤ 32

section Clear

variable {s : State} {fs : List Field} {a i : Nat}

theorem clearFields_eq_regs (s : State) (fs : List Field) : clearFields s fs = { s with regs := (clearFields s fs).regs } := by
  induction fs generalizing s with
  | nil => rfl
  | cons f fs ih =>
    show clearFields (setF s f 0) fs = { s with regs := (clearFields (setF s f 0) fs).regs }
    rw [ih, setF_eq_regs]

theorem regsBut_clearFields (hnarrow : AllNarrow fs) : RegsBut s (clearFields s fs) (fs.map Field.addr) := by
  induction fs generalizing s with
  | nil => exact fun _ _ => rfl
  | cons f fs ih =>
    exact regsBut_trans (regsBut_setF 0 (hnarrow f List.mem_cons_self)) (ih fun g hg => hnarrow g (List.mem_cons_of_mem f hg)) (by simp) (by simp)

theorem testBit_setF_zero {f : Field} (hnarrow : f.lo + f.w ≤ 32) (hwf : smWf regReset s.regs = true) (hi : i < 32) :
    (getR (setF s f 0) a).toNat.testBit i = ((getR s a).toNat.testBit i && !covers a i f) := by
  rw [setF_narrow s 0 hnarrow]
  by_cases ha : f.addr = a
  · subst ha
    rw [getR_setR_same _ _ hwf, BitVec.toNat_ofNat, Nat.testBit_mod_two_pow, testBit_putBits]
    by_cases hin : f.lo ≤ i ∧ i < f.lo + f.w
    · simp [covers, hin]
    · simp [covers, hin, hi]
  · rw [getR_setR_other _ (Ne.symm ha)]
    simp [covers, ha]

/-- A bit is kept by a clear where none of the fields covers it, and is 0 where one does. -/
theorem testBit_clearFields (hnarrow : AllNarrow fs) (hwf : smWf regReset s.regs = true) (hi : i < 32) :
    (getR (clearFields s fs) a).toNat.testBit i = ((getR s a).toNat.testBit i && !fs.any (covers a i)) := by
  induction fs generalizing s with
  | nil => simp [clearFields]
  | cons f fs ih =>
    have htail : AllNarrow fs := fun g hg => hnarrow g (List.mem_cons_of_mem f hg)
    calc (getR (clearFields s (f :: fs)) a).toNat.testBit i
        = ((getR (setF s f 0) a).toNat.testBit i && !fs.any (covers a i)) := ih htail (setF_regs_wf f 0 hwf)
      _ = ((getR s a).toNat.testBit i && !(f :: fs).any (covers a i)) := by
        rw [testBit_setF_zero (hnarrow f List.mem_cons_self) hwf hi, List.any_cons, Bool.not_or, Bool.and_assoc]

/-- A word all of whose bits are in fields of the list reads 0 after the clear. -/
theorem getR_clearFields (hnarrow : AllNarrow fs) (hwf : smWf regReset s.regs = true) (hall : ∀ i < 32, fs.any (covers a i) = true) : getR (clearFields s fs) a = 0 := by
  refine BitVec.eq_of_getLsbD_eq fun i hi => ?_
  show (getR (clearFields s fs) a).toNat.testBit i = _
  rw [testBit_clearFields hnarrow hwf hi, hall i hi]
  simp

/-- A field of a whole word covers it. -/
theorem any_covers_whole (h : ⟨a, 0, 32⟩ ∈ fs) : ∀ i < 32, fs.any (covers a i) = true :=
  fun i hi => List.any_eq_true.mpr ⟨_, h, decide_eq_true ⟨rfl, Nat.zero_le i, by simpa using hi⟩⟩

/-- Two fields of half a word cover it. -/
theorem any_covers_halves (hlow : ⟨a, 0, 16⟩ ∈ fs) (hhigh : ⟨a, 16, 16⟩ ∈ fs) : ∀ i < 32, fs.any (covers a i) = true := fun i hi => by
  by_cases hlo : i < 16
  · exact List.any_eq_true.mpr ⟨_, hlow, decide_eq_true ⟨rfl, Nat.zero_le i, by simpa using hlo⟩⟩
  · exact List.any_eq_true.mpr ⟨_, hhigh, decide_eq_true ⟨rfl, not_lt.mp hlo, by simpa using hi⟩⟩

theorem getF_clearFields {f : Field} (hf : f ∈ fs) (hnarrow : AllNarrow fs) (hwf : smWf regReset s.regs = true) : getF (clearFields s fs) f = 0 := by
  have hword := hnarrow f hf
  rw [getF_narrow _ hword]
  refine Nat.eq_of_testBit_eq fun i => ?_
  rw [testBit_bitsOf]
  by_cases hi : i < f.w
  · have hcovered : fs.any (covers f.addr (f.lo + i)) = true := List.any_eq_true.mpr ⟨f, hf, decide_eq_true ⟨rfl, Nat.le_add_right _ _, Nat.add_lt_add_left hi _⟩⟩
    rw [testBit_clearFields hnarrow hwf (by omega), hcovered]
    simp
  · simp [hi]

theorem bitOf_congr {x y : Nat} (h : x.testBit i = y.testBit i) : bitOf x i = bitOf y i := by
  refine Nat.eq_of_testBit_eq fun j => ?_
  rw [bitOf, bitOf, testBit_bitsOf, testBit_bitsOf]
  by_cases hj : j < 1
  · obtain rfl : j = 0 := by omega
    rw [Nat.add_zero, h]
  · simp [hj]

/-- The bits beside a field that is the only one of its word are kept. -/
theorem bitsBut_clearFields {f : Field} (honly : ∀ g ∈ fs, g.addr = f.addr → g = f) (hnarrow : AllNarrow fs) (hwf : smWf regReset s.regs = true) :
    BitsBut s (clearFields s fs) f := by
  intro i hi hout
  refine bitOf_congr ?_
  have hnone : fs.any (covers f.addr i) = false := List.any_eq_false.mpr fun g hg => by
    rw [covers, decide_eq_true_iff]
    rintro ⟨haddr, hlo, hhi⟩
    obtain rfl := honly g hg haddr
    omega
  rw [testBit_clearFields hnarrow hwf hi, hnone, Bool.not_false, Bool.and_true]

end Clear

section Engines

/-- The counters of the DTE of cluster k (R341). -/
def dteCounters (k : Nat) : List Field := [DTE_CNT_OP_OPS k, DTE_CLAMP_CLAMP k, DTE_CNT_SAT_SAT k, DTE_CNT_CAPT_CAPTURED k, DTE_CNT_CAPT_RETRIED k, DTE_CNT_PRE_PREAMBLES k,
  DTE_CNT_TRUNC_PRACH k, DTE_CNT_TRUNC_SIZE k]

/-- The counters of the CDE of cluster k. -/
def cdeCounters (k : Nat) : List Field := [CDE_CNT_OP_OPS k, CDE_CLAMP_CLAMP k, CDE_CNT_TRUNC_TRUNC k, CDE_CNT_TB_OK k, CDE_CNT_TB_FAIL k, CDE_CNT_ITER_ITERS k, CDE_CNT_HB_MISMATCH k]

/-- The counters of the CEE of cluster k. -/
def ceeCounters (k : Nat) : List Field := [CEE_CNT_OP_OPS k, CEE_CLAMP_CLAMP k, CEE_CNT_TRUNC_TRUNC k]

variable (k : Nat)

theorem dteCounters_narrow : AllNarrow (dteCounters k) := by
  simp [AllNarrow, dteCounters, DTE_CNT_OP_OPS, DTE_CLAMP_CLAMP, DTE_CNT_SAT_SAT, DTE_CNT_CAPT_CAPTURED, DTE_CNT_CAPT_RETRIED, DTE_CNT_PRE_PREAMBLES, DTE_CNT_TRUNC_PRACH, DTE_CNT_TRUNC_SIZE]

theorem cdeCounters_narrow : AllNarrow (cdeCounters k) := by
  simp [AllNarrow, cdeCounters, CDE_CNT_OP_OPS, CDE_CLAMP_CLAMP, CDE_CNT_TRUNC_TRUNC, CDE_CNT_TB_OK, CDE_CNT_TB_FAIL, CDE_CNT_ITER_ITERS, CDE_CNT_HB_MISMATCH]

theorem ceeCounters_narrow : AllNarrow (ceeCounters k) := by
  simp [AllNarrow, ceeCounters, CEE_CNT_OP_OPS, CEE_CLAMP_CLAMP, CEE_CNT_TRUNC_TRUNC]

theorem dteCounters_cover : ∀ a ∈ [DTE_CNT_OP k, DTE_CLAMP k, DTE_CNT_SAT k, DTE_CNT_CAPT k, DTE_CNT_PRE k, DTE_CNT_TRUNC k], ∀ i < 32, (dteCounters k).any (covers a i) = true := by
  intro a ha
  simp only [List.mem_cons, List.not_mem_nil, or_false] at ha
  rcases ha with rfl | rfl | rfl | rfl | rfl | rfl
  · exact any_covers_whole (by simp [dteCounters, DTE_CNT_OP_OPS])
  · exact any_covers_whole (by simp [dteCounters, DTE_CLAMP_CLAMP])
  · exact any_covers_whole (by simp [dteCounters, DTE_CNT_SAT_SAT])
  · exact any_covers_halves (by simp [dteCounters, DTE_CNT_CAPT_CAPTURED]) (by simp [dteCounters, DTE_CNT_CAPT_RETRIED])
  · exact any_covers_whole (by simp [dteCounters, DTE_CNT_PRE_PREAMBLES])
  · exact any_covers_halves (by simp [dteCounters, DTE_CNT_TRUNC_PRACH]) (by simp [dteCounters, DTE_CNT_TRUNC_SIZE])

theorem cdeCounters_cover : ∀ a ∈ [CDE_CNT_OP k, CDE_CLAMP k, CDE_CNT_TRUNC k, CDE_CNT_TB k, CDE_CNT_ITER k], ∀ i < 32, (cdeCounters k).any (covers a i) = true := by
  intro a ha
  simp only [List.mem_cons, List.not_mem_nil, or_false] at ha
  rcases ha with rfl | rfl | rfl | rfl | rfl
  · exact any_covers_whole (by simp [cdeCounters, CDE_CNT_OP_OPS])
  · exact any_covers_whole (by simp [cdeCounters, CDE_CLAMP_CLAMP])
  · exact any_covers_whole (by simp [cdeCounters, CDE_CNT_TRUNC_TRUNC])
  · exact any_covers_halves (by simp [cdeCounters, CDE_CNT_TB_OK]) (by simp [cdeCounters, CDE_CNT_TB_FAIL])
  · exact any_covers_whole (by simp [cdeCounters, CDE_CNT_ITER_ITERS])

theorem ceeCounters_cover : ∀ a ∈ [CEE_CNT_OP k, CEE_CLAMP k, CEE_CNT_TRUNC k], ∀ i < 32, (ceeCounters k).any (covers a i) = true := by
  intro a ha
  simp only [List.mem_cons, List.not_mem_nil, or_false] at ha
  rcases ha with rfl | rfl | rfl
  · exact any_covers_whole (by simp [ceeCounters, CEE_CNT_OP_OPS])
  · exact any_covers_whole (by simp [ceeCounters, CEE_CLAMP_CLAMP])
  · exact any_covers_whole (by simp [ceeCounters, CEE_CNT_TRUNC_TRUNC])

/-- No other counter of the CDE stands in the word of its hard-bit mismatches. -/
theorem cdeCounters_mismatch_alone : ∀ g ∈ cdeCounters k, g.addr = CDE_CNT_HB k → g = CDE_CNT_HB_MISMATCH k := by
  simp [cdeCounters, CDE_CNT_OP_OPS, CDE_CLAMP_CLAMP, CDE_CNT_TRUNC_TRUNC, CDE_CNT_TB_OK, CDE_CNT_TB_FAIL, CDE_CNT_ITER_ITERS, CDE_CNT_HB_MISMATCH,
    CDE_CNT_OP, CDE_CLAMP, CDE_CNT_TRUNC, CDE_CNT_TB, CDE_CNT_ITER, CDE_CNT_HB]

theorem regsBut_mono {s t : State} {as bs : List Nat} (h : RegsBut s t as) (hsub : as ⊆ bs) : RegsBut s t bs := fun a ha => h a fun hmem => ha (hsub hmem)

end Engines

/-- Settles O60: a clear brings each bit of the counters' words to 0 and keeps every other one; the test port only changes its instruction. -/
theorem countersAreClearedAndTheTestPort : Obligations.CountersAreClearedAndTheTestPort := by
  refine ⟨fun s k hwf => ⟨?dte, ?cde, ?cee⟩, ?port⟩
  case dte =>
    intro ws
    refine ⟨fun hdead => congrArg Host.Outcome.next (if_pos hdead), fun hlive => ⟨clearFields s (dteCounters k), congrArg Host.Outcome.next (if_neg (ne_false_of_eq_true hlive)), ?_, ?_, ?_⟩⟩
    · exact fun a ha => getR_clearFields (dteCounters_narrow k) hwf (dteCounters_cover k a ha)
    · exact regsBut_mono (regsBut_clearFields (dteCounters_narrow k)) (by
        simp [ws, dteCounters, DTE_CNT_OP_OPS, DTE_CLAMP_CLAMP, DTE_CNT_SAT_SAT, DTE_CNT_CAPT_CAPTURED, DTE_CNT_CAPT_RETRIED, DTE_CNT_PRE_PREAMBLES, DTE_CNT_TRUNC_PRACH, DTE_CNT_TRUNC_SIZE])
    · exact clearFields_eq_regs s (dteCounters k)
  case cde =>
    intro ws
    refine ⟨fun hdead => congrArg Host.Outcome.next (if_pos hdead), fun hlive => ⟨clearFields s (cdeCounters k), congrArg Host.Outcome.next (if_neg (ne_false_of_eq_true hlive)), ?_, ?_, ?_, ?_, ?_⟩⟩
    · exact fun a ha => getR_clearFields (cdeCounters_narrow k) hwf (cdeCounters_cover k a ha)
    · exact getF_clearFields (by simp [cdeCounters]) (cdeCounters_narrow k) hwf
    · exact bitsBut_clearFields (cdeCounters_mismatch_alone k) (cdeCounters_narrow k) hwf
    · exact regsBut_mono (regsBut_clearFields (cdeCounters_narrow k)) (by
        simp [ws, cdeCounters, CDE_CNT_OP_OPS, CDE_CLAMP_CLAMP, CDE_CNT_TRUNC_TRUNC, CDE_CNT_TB_OK, CDE_CNT_TB_FAIL, CDE_CNT_ITER_ITERS, CDE_CNT_HB_MISMATCH])
    · exact clearFields_eq_regs s (cdeCounters k)
  case cee =>
    intro ws
    refine ⟨fun hdead => congrArg Host.Outcome.next (if_pos hdead), fun hlive => ⟨clearFields s (ceeCounters k), congrArg Host.Outcome.next (if_neg (ne_false_of_eq_true hlive)), ?_, ?_, ?_⟩⟩
    · exact fun a ha => getR_clearFields (ceeCounters_narrow k) hwf (ceeCounters_cover k a ha)
    · exact regsBut_mono (regsBut_clearFields (ceeCounters_narrow k)) (by simp [ws, ceeCounters, CEE_CNT_OP_OPS, CEE_CLAMP_CLAMP, CEE_CNT_TRUNC_TRUNC])
    · exact clearFields_eq_regs s (ceeCounters k)
  case port =>
    intro s
    exact ⟨rfl, rfl, rfl, rfl, rfl, rfl, rfl, rfl, rfl, rfl, rfl, rfl, rfl⟩

end Sys2Proof.Machine
